-- ==== Sys2Proof/Word.lean ====
section
/-! DEFINITION. The word types of the model and sparse maps keyed by numbers (memories, register files, tables). -/
namespace Sys2Proof

/-- One byte. -/
abbrev Byte := BitVec 8
/-- A register word of 32 bits (R13). -/
abbrev Word := BitVec 32
/-- A register or bus word of 64 bits (R13). -/
abbrev Word64 := BitVec 64

/-- A sparse map from numbers to values: pairs in rising order of key, none of them at the default. -/
abbrev SMap (β : Type) := List (Nat × β)

/-- The value at a key, or the default. -/
def SMap.get {β : Type} (d : β) : SMap β → Nat → β
  | [], _ => d
  | p :: m, k => if p.1 = k then p.2 else SMap.get d m k

/-- Removes a key. -/
def SMap.del {β : Type} : SMap β → Nat → SMap β
  | [], _ => []
  | p :: m, k => if p.1 = k then SMap.del m k else p :: SMap.del m k

/-- Inserts a pair before the first larger key. -/
def SMap.ins {β : Type} : SMap β → Nat → β → SMap β
  | [], k, v => [(k, v)]
  | p :: m, k, v =>
    if k < p.1 then (k, v) :: p :: m
    else if p.1 = k then (k, v) :: m
    else p :: SMap.ins m k v

/-- Writes a value; writing the default removes the key, so that equal maps are equal data. -/
def SMap.put {β : Type} [DecidableEq β] (d : β) (m : SMap β) (k : Nat) (v : β) : SMap β :=
  if v = d then SMap.del m k else SMap.ins m k v

/-- Removes every key from `lo` up to, not including, `hi`. -/
def SMap.erase {β : Type} (m : SMap β) (lo hi : Nat) : SMap β :=
  m.filter fun p => decide (p.1 < lo) || decide (hi ≤ p.1)

/-- Every key of `m` is larger than `k`. -/
def SMap.above {β : Type} (k : Nat) (m : SMap β) : Bool := m.all fun p => decide (k < p.1)

/-- The canonical form: keys strictly rising and no entry at the default. -/
def SMap.wf {β : Type} [DecidableEq β] (d : β) : SMap β → Bool
  | [] => true
  | p :: m => decide (p.2 ≠ d) && SMap.above p.1 m && SMap.wf d m

/-- A set of numbers without repeats, in rising order. -/
abbrev NSet := List Nat

/-- Adds a number. -/
def NSet.add : NSet → Nat → NSet
  | [], k => [k]
  | a :: m, k => if k < a then k :: a :: m else if a = k then a :: m else a :: NSet.add m k

/-- Removes a number. -/
def NSet.del (m : NSet) (k : Nat) : NSet := m.filter fun a => decide (a ≠ k)

/-- Membership. -/
def NSet.has (m : NSet) (k : Nat) : Bool := m.any fun a => decide (a = k)

/-- Removes every number from `lo` up to, not including, `hi`. -/
def NSet.erase (m : NSet) (lo hi : Nat) : NSet :=
  m.filter fun a => decide (a < lo) || decide (hi ≤ a)

end Sys2Proof
end

