-- ==== Sys2Proof/Syntax.lean ====
section
/-! DEFINITION. The commands of the block with their operands, one constructor of `Instr` per row of the opcode table. -/
namespace Sys2Proof

/-- A physical core, 0 to 19 (R24). -/
abbrev CoreIx := Fin 20
/-- A physical array of a core, 0 to 2,623 (R26). -/
abbrev ArrIx := Fin 2624
/-- A fabric port, FAB0 to FAB11 (R27). -/
abbrev PortIx := Fin 12
/-- A memory stack, STK0 to STK2 (R27). -/
abbrev StackIx := Fin 3

/-- The agents that access registers (R18). -/
inductive Agent where
  | host | mgmt
  deriving DecidableEq, Repr

/-- What a code over a word found: no error, a corrected error, or an uncorrectable one. -/
inductive Ecc where
  | clean | corrected | uncorrectable
  deriving DecidableEq, Repr

/-- What a router finds in a flit (R240): nothing, a corrected error, an uncorrectable payload error, or an
uncorrectable header error. -/
inductive FlitErr where
  | clean | corrected | payload | header
  deriving DecidableEq, Repr

/-- A virtual channel of the mesh (Table 8.3). -/
inductive VChan where
  | ctl | land | rsp | req | bulk
  deriving DecidableEq, Repr

/-- The sequencer of `core` issues its next instruction: the error its program-memory code finds, and, if soft errors
have upset a scratchpad row since, that row and slice. -/
structure Issue where
  core : CoreIx
  ecc : Ecc
  upset : Option (BitVec 15 × Fin 32)
  deriving DecidableEq, Repr


/-- A fabric cell (Tables 9.3 and 9.5): header fields and payload. -/
structure Cell where
  /-- 0 SCHED, 1 BULK, 2 MGMT. -/
  cls : Nat
  poison : Bool
  late : Bool
  kind : Nat
  ttl : Nat
  dst : Nat
  src : Nat
  pid : Nat
  dcore : Nat
  score : Nat
  win : Nat
  vc : Nat
  slot : Nat
  divl : Nat
  gen : Nat
  ofs : Nat
  tk : Nat
  status : Nat
  line : Nat
  half : Nat
  tag : Nat
  payload : List Byte
  deriving DecidableEq, Repr

/-- A block as it arrives at a port (R266): its 320 bytes after FEC, whether a codeword of it was uncorrectable, and, if it ends a
codeword, the symbols corrected on each of the four lanes. -/
structure BlockIn where
  raw : List Byte
  bad : Bool
  cw : Option (List Nat)
  deriving DecidableEq, Repr

/-- The root that the partner's certificate chain leads to (R7). -/
inductive CertRoot where
  | engineering | production | other
  deriving DecidableEq, Repr

/-- An admission message as firmware reads it (R281): a HELLO with the device identity, FAB_ADDR, the port number, the nonce and the plan
digest; a certificate cell, whether it is the last, the root that the chain leads to, and whether the chain holds and names the identity; a
PROOF and whether its signature is valid. -/
inductive AuthMsg where
  | hello (id : BitVec 128) (addr : BitVec 16) (port : BitVec 8) (nonce digest : BitVec 384)
  | cert (last : Bool) (root : CertRoot) (ok : Bool)
  | proof (ok : Bool)
  deriving DecidableEq, Repr

/-- A function of the host interface (R337, R352): 0 the PF, 1 to 32 the VFs, 33 MCTP, 34 the management Ethernet. -/
abbrev FnIx := Fin 35
/-- A local partition, 0 to 15. -/
abbrev PartIx := Fin 16
/-- A request ring or an output ring. -/
abbrev RingIx := Fin 64
/-- A request-table entry. -/
abbrev EntIx := BitVec 13

/-- A Yarile request: the function whose mailbox holds it, and its slot (R341, R342). The header is in the slot; the payload
fields and what a buffer holds are operands of the command. -/
structure YReq where
  fn : FnIx
  slot : Fin 8
  deriving DecidableEq, Repr

/-- A request descriptor (Table 11.6) with the prompt tokens and stop sequences it points to. -/
structure Desc where
  kind : Byte
  cls : Byte
  prio : Byte
  keep : Bool
  lateOk : Bool
  omitStop : Bool
  handle : Word
  prompt : List Word
  maxlen : Word
  time : Word64
  seed : Word64
  acct : BitVec 16
  adpt : BitVec 16
  stopsets : Byte
  nstop : Byte
  oring : Byte
  conv : Word
  stops : List (List Word)
  deriving DecidableEq, Repr

/-- What a serving notice of the head makes every member do (R320). -/
inductive Notice where
  /-- Create or update: the 32 words of the entry. -/
  | entry (e : Nat) (words : List Nat)
  /-- The request ends with a status, and flags of its record (R321). -/
  | endEntry (e status flags : Nat)
  | bind (e lane : Nat)
  | unbind (e lane : Nat)
  /-- A prefill run: entry, first position, count. -/
  | prefill (e pos count : Nat)
  /-- An adapter slot: slot, ID, generation, state, CUR. -/
  | slot (n id gen st cur : Nat)
  deriving DecidableEq, Repr

/-- Result of a run of the logic self-test (R368, Table 13.5): pass, FAIL_DOM, coverage in 0.01 %, signature, and ms. -/
structure BistOut where
  pass : Bool
  failDom : Byte
  cov : BitVec 16
  sig : Word64
  ms : Word
  deriving DecidableEq, Repr

/-- A stack window of the management core (R246): base and size in MiB, and whether it may write. -/
structure MWinIn where
  base : BitVec 19
  size : BitVec 19
  wr : Bool
  deriving DecidableEq, Repr

/-- Who starts the logic self-test (R369). -/
inductive Tester where
  | host | mgmt | jtag
  deriving DecidableEq, Repr

/-- What a step of the start order meets (Table 13.1): a failure with reason and detail, the random challenge of step 0, the
self-test of step 1a, the ports whose saved settings fail their CRC or their verification (R363), the cores whose microcode check failed twice, and those
whose cycle-count record is lost (R158); the regions that firmware reserves for itself in the stacks (R246), the spare lanes that the
training of each stack uses (R257), and the arrays on which a pending erase fails its verify (R172). -/
structure StartIn where
  fail : Option (Byte × Byte)
  challenge : BitVec 256
  bist : BistOut
  unsaved : List PortIx
  mcodeBad : List CoreIx
  countsLost : List CoreIx
  windows : List MWinIn
  spares : List (BitVec 8)
  eraseFailed : List (CoreIx × ArrIx)
  deriving DecidableEq, Repr

/-- Reference clocks (R445). -/
inductive RefClock where
  | core | sdWest | sdEast | px
  deriving DecidableEq, Repr

/-- A region grant of a partition: base and size in MiB, and what it permits. -/
structure RegionIn where
  base : BitVec 19
  size : BitVec 19
  rd : Bool
  wr : Bool
  deriving DecidableEq, Repr

/-- What PART_CREATE's buffer holds (Table 12.7): member list, logical cores of this member, regions of each of them, regions of
the ports, KV_SETS, package table (INDEX, ADDR, PORT) and slot plan; with PID and owner. -/
structure PartIn where
  pid : BitVec 16
  owner : Fin 33
  members : List (BitVec 16)
  lcores : List (Fin 16)
  regions : List (Fin 16 × Fin 8 × RegionIn)
  bregs : List (Fin 8 × RegionIn)
  kvSets : BitVec 24
  pkgs : List (BitVec 16 × BitVec 16 × BitVec 4)
  slots : List (PortIx × Fin 64)
  deriving DecidableEq, Repr

/-- The fields of PART_SET; all ones leaves a field unchanged. -/
structure PartSet where
  fbLayers : Word
  ovrLim : Word
  admRate : Word
  retryLim : Word
  parkTtl : Word
  caddyRate : Word
  deriving DecidableEq, Repr

/-- Where an image comes from (Table 12.7): 0 host buffer, 1 BAR4 staging offset, 2 remote pool; and the address there. -/
structure SrcIn where
  kind : Fin 3
  addr : Word64
  deriving DecidableEq, Repr

/-- What a source supplies of a model image (R161 to R163): the image's bytes and the part that the command names; the nonce under which the
signature was made and the content key that was wrapped, if the image is what it says. With it, what firmware reserves in the stacks (R159):
a golden region per logical core, in records of 128 KiB, the digest table, and the staging address. -/
structure ImgIn where
  bytes : List Byte
  part : Nat
  src : SrcIn
  nonce : BitVec 384
  key : BitVec 256
  bases : List (BitVec 22)
  dig : Word64
  stage : Word64
  deriving DecidableEq, Repr

/-- A recipe entry: index, RCP_CTL, ASCALE, WSCALE and ENV. -/
structure RcpIn where
  ix : Byte
  ctl : Word
  ascale : Word
  wscale : Word
  env : BitVec 4
  deriving DecidableEq, Repr

/-- A schedule image (R206): its bytes, and the nonce under which its signature was made. -/
structure SchedImg where
  bytes : List Byte
  nonce : BitVec 384
  deriving DecidableEq, Repr

/-- A segment of an adapter (R203, Table 12.7): where its rows go in the stacks, and the rows. -/
structure SegIn where
  lcore : Fin 16
  seg : Fin 16
  aBase : BitVec 15
  bBase : BitVec 15
  rankM1 : BitVec 6
  din : Byte
  dout : Byte
  alpha : Word
  addr : Word64
  rows : List Byte
  deriving DecidableEq, Repr

/-- How a PENDING command's work ended: whether a staged firmware image authenticates, and the arrays that failed verify. -/
structure DoneIn where
  auth : Bool
  failed : List (CoreIx × ArrIx)
  deriving DecidableEq, Repr

/-- An authorisation record (Table 13.11); `sig`: its signature verifies under the signer that SIG_KIND names. -/
structure LcAuth where
  form : Bool
  src : Byte
  dst : Byte
  dev : BitVec 128
  challenge : BitVec 256
  owner : Bool
  sig : Bool
  deriving DecidableEq, Repr

/-- An ownership record (Table 13.12). -/
structure OwnIn where
  form : Bool
  nImg : Byte
  nInst : Byte
  nMgmt : Byte
  seq : Word
  dev : BitVec 128
  key : BitVec 776
  roots : List (BitVec 384)
  owner : Bool
  sig : Bool
  deriving DecidableEq, Repr

/-- What the peer of a management session presents (R378): the root its chain leads to, or the engineering root. -/
inductive PeerRoot where
  | root (digest : BitVec 384)
  | engineering
  | none
  deriving DecidableEq, Repr

/-- What a reset command names (Table 12.7). -/
inductive ResetScope where
  | core (c : CoreIx)
  | cluster (k : Fin 4)
  | warm
  deriving DecidableEq, Repr
/-- The commands of the block: one constructor per row of the opcode table, in its order. -/
inductive Instr where
  /-- REGISTER_WRITE (R14): An agent writes a register that has no row of its own, and each field acts by its access type, with locking, denial and counting applied. -/
  | registerWrite (a : Agent) (pg : Option FnIx) (addr : BitVec 26) (wide : Bool) (v : Word64)
  /-- REGISTER_READ_LATCH (R13): A 32-bit read of the low half of a 64-bit register latches the upper half for the next read by that agent. -/
  | registerReadLatch (a : Agent) (pg : Option FnIx) (addr : BitVec 26) (wide : Bool)
  /-- SNAP_TAKE (R22): A write of TAKE, optionally with CLEAR, to a block's snapshot register copies all its counters in one cycle and increments SEQ. -/
  | snapTake (a : Agent) (addr : BitVec 26) (clear : Bool)
  /-- TICK_BOUNDARY (R224): At a tick boundary the commit sequence runs: safe-state check, overrun abandon, windows held, request steps settled, shadows activated and the new tick started. -/
  | tickBoundary (moe : List (BitVec 12 × Word × Word))
  /-- CADDY_TTL_EXPIRE (R334): A PARKED or CADDY conversation whose TTL has passed is freed on every member. -/
  | caddyTtlExpire (e : EntIx)
  /-- GUARD_BAND_START (R223): The guard band of a tick begins 150 ns before its end; later SCHED landings are poisoned. -/
  | guardBandStart
  /-- FIRE (R182): The sequencer issues a FIRE that starts COUNT firings on consecutive slots with one broadcast input row. -/
  | fire (i : Issue)
  /-- INPUT_LOAD (R55): A firing input is loaded into a free input-buffer entry, waiting while both entries are occupied. -/
  | inputLoad (c : CoreIx) (slot : BitVec 12)
  /-- FIRING_START (R452): A firing starts on its array once the array is free: it latches the input, detects zeros, is refused or counted, and drives its planes. -/
  | firingStart (c : CoreIx) (slot : BitVec 12)
  /-- FIRING_HANDOFF (R452): At the start of its handoff a firing takes its counters, flags, checksum results and miss event, and hands codes to accumulation. -/
  | firingHandoff (c : CoreIx) (slot : BitVec 12)
  /-- PROOF_GOLD_LINE (R112): A golden line arrives for a proof entry; a POISONED line abandons the proof. -/
  | proofGoldLine (c : CoreIx) (second : Bool) (i : BitVec 8)
  /-- PROOF_START (R112): The waiting proof entry starts computing once the computing entry is freed and its golden record has arrived. -/
  | proofStart (c : CoreIx)
  /-- PROOF_COMPLETE (R114): A proof ends and is judged against its band, updating PROOF_LAST and, on a miss, marking the array SUSPECT. -/
  | proofComplete (c : CoreIx)
  /-- VERIFIED (R84): ARR_CTL.CMD VERIFIED moves an array from UNVERIFIED to READY. -/
  | verified (c : CoreIx) (n : ArrIx) (slot : BitVec 12) (fmt : Bool)
  /-- RETIRE (R84): ARR_CTL.CMD RETIRE moves an array in any state except FUSED to RETIRED. -/
  | retire (c : CoreIx) (n : ArrIx) (slot : BitVec 12) (fmt : Bool)
  /-- ARR_EMPTY (R84): ARR_CTL.CMD EMPTY moves an array from UNVERIFIED to EMPTY. -/
  | arrEmpty (c : CoreIx) (n : ArrIx) (slot : BitVec 12) (fmt : Bool)
  /-- CLEAR_SUSPECT (R84): ARR_CTL.CMD CLEAR_SUSPECT clears ARR_STAT.SUSPECT. -/
  | clearSuspect (c : CoreIx) (n : ArrIx) (slot : BitVec 12) (fmt : Bool)
  /-- ARR_TRIM_WRITE (R93): A write to ARR_TRIM_OFS or ARR_TRIM_GAIN goes to the shadows of the four converters selected by the agent's TRIM_GROUP. -/
  | arrTrimWrite (a : Agent) (c : CoreIx) (n : ArrIx) (gain : Bool) (v : Word)
  /-- QUANT (R185): The leaven unit quantises a BF16 vector into input rows, descriptors and leaven rows. -/
  | quant (i : Issue)
  /-- PROMOTE (R100): Narrow accumulators of the named sets are added into the wide accumulators and cleared. -/
  | promote (i : Issue)
  /-- EMIT (R102): Accumulator sets are scaled, biased and written as BF16 rows, then cleared. -/
  | emit (i : Issue)
  /-- ACC_CLEAR (R183): Accumulator sets are returned to empty without being emitted. -/
  | accClear (i : Issue)
  /-- LEAVEN_WINDOW_END (R118): At the end of a flag window the in-window flags are copied to LEAVEN_WINMAP, the window number is written and the bits are cleared. -/
  | leavenWindowEnd (c : CoreIx)
  /-- LEAVEN_CTL_WRITE (R118): A write that changes WIN_LOG2 clears the window bookkeeping and LEAVEN_WINMAP. -/
  | leavenCtlWrite (c : CoreIx) (v : Word)
  /-- FMAX_CLEAR (R108): Writing CLR of LEAVEN_FMAX clears the largest recorded σ of a recipe index. -/
  | fmaxClear (c : CoreIx) (n : BitVec 8)
  /-- FALLBACK_REPORT (R118): The coordinator receives a package's window report of flagged layers and, once the window is complete, decides whether to fall back. -/
  | fallbackReport (n : PartIx) (m : BitVec 16) (w : Word64) (layers : List (BitVec 12)) (wide : Bool)
  /-- CAL_FULL (R127): CAL_CMD OP FULL starts a full calibration of every array of a core that is not FUSED. -/
  | calFull (c : CoreIx) (set : Fin 4) (target : Bool)
  /-- CAL_ARRAY (R128): CAL_CMD OP ARRAY starts a calibration of one array that serves no slot. -/
  | calArray (c : CoreIx) (n : BitVec 12) (set : Fin 4) (target : Bool)
  /-- INTERP_NOW (R134): CAL_CMD OP INTERP_NOW triggers an interpolation pass. -/
  | interpNow (c : CoreIx)
  /-- CLEAR_CORR (R145): CAL_CMD OP CLEAR_CORR clears the correction entry of one array or of all arrays. -/
  | clearCorr (c : CoreIx) (n : BitVec 12) (all : Bool)
  /-- CLEAR_STATS (R145): CAL_CMD OP CLEAR_STATS clears the statistics sums of one array or of all arrays. -/
  | clearStats (c : CoreIx) (n : BitVec 12) (all : Bool)
  /-- CAL_CMD_DONE (R126): A calibration command ends, writing records or corrections and its RESULT. -/
  | calCmdDone (c : CoreIx)
  /-- CAL_INTERP_ENABLE (R134): A write changing CAL_CTL.INTERP from 0 to 1 enables interpolation and starts a pass. -/
  | calInterpEnable (c : CoreIx)
  /-- CAL_PASS_START (R134): An interpolation pass starts from a trigger, or right after the previous pass when a trigger arrived during it. -/
  | calPassStart (c : CoreIx)
  /-- CAL_PASS_END (R134): An interpolation pass ends after writing every array's trims and updates T_APPLIED. -/
  | calPassEnd (c : CoreIx)
  /-- CAL_MONITOR_PERIOD_END (R138): At the end of a monitor period corrections are tracked, drift D is evaluated and re-steep requests are raised. -/
  | calMonitorPeriodEnd (c : CoreIx)
  /-- CAL_STORE_WRITE (R140): A write to the calibration store window is accepted only while the CAL block is not running. -/
  | calStoreWrite (a : Agent) (c : CoreIx) (w : BitVec 13) (v : Word)
  /-- STEEP_GO (R146): A write of COUNT to CORE_CTL_STEEP_GO issues a batch of steep-engine entries, or is refused. -/
  | steepGo (c : CoreIx) (count : BitVec 7)
  /-- BATCH_START (R149): A running or pending batch starts, with acceptance and temperature checks, and its arrays enter STEEPING. -/
  | batchStart (c : CoreIx)
  /-- STEEP_BATCH_END (R150): A STEEP batch ends, writes its results, formats and state changes, and interrupts the management core. -/
  | steepBatchEnd (c : CoreIx) (fail : Word64)
  /-- ERASE_BATCH_END (R151): An ERASE batch ends, leaving its arrays EMPTY, or RETIRED after a life-cycle erase. -/
  | eraseBatchEnd (c : CoreIx) (fail : Word64)
  /-- READBACK_BATCH_END (R151): A READBACK batch ends with mismatch counts and digests. -/
  | readbackBatchEnd (c : CoreIx) (intr : Word64)
  /-- READBACK_TIMEOUT (R151): A READBACK not complete 2^24 ticks after its batch started ends with BUSY. -/
  | readbackTimeout (c : CoreIx)
  /-- RESTEEP_ROTATION (R170): Firmware answers re-steep requests by steeping spares, remapping the slots and erasing the displaced arrays. -/
  | resteepRotation (c : CoreIx) (failed : List ArrIx)
  /-- RESTEEP_IN_PLACE (R171): On a core with no empty spare, firmware pauses the partition and re-steeps the requested arrays in place. -/
  | resteepInPlace (c : CoreIx) (failed : List ArrIx)
  /-- RESTEEP_DEFER_EXPIRE (R171): A deferred re-steep on a core without spares reaches its 24 h limit and firmware forces the pause. -/
  | resteepDeferExpire (c : CoreIx)
  /-- ROUND_SWITCH (R173): In layer-reload mode firmware pauses the partition, steeps the next round, calibrates and resumes. -/
  | roundSwitch (n : PartIx) (h : Word) (x : SchedImg) (failed : List (CoreIx × ArrIx))
  /-- GOLDEN_RESTORE (R168): After start firmware fetches each bound model's golden copy, restores trims and verifies the arrays by readback. -/
  | goldenRestore (h : Word) (x : Option ImgIn) (failed : List (CoreIx × ArrIx))
  /-- GOLDEN_REFETCH (R160): Firmware fetches again and rewrites a golden chunk that holds a POISONED line. -/
  | goldenRefetch (h : Word) (i : Nat) (x : ImgIn)
  /-- IMAGE_SOURCE_RETRY (R169): Every 10 s firmware retries a pool source that could not supply a bound image. -/
  | imageSourceRetry (h : Word) (x : Option ImgIn) (failed : List (CoreIx × ArrIx))
  /-- END (R179): END retires when every earlier instruction has completed, and the core rests until the next boundary. -/
  | endOp (i : Issue)
  /-- ILLEGAL_INSTRUCTION (R180): An illegal or uncorrectable instruction stops issue for the tick and raises SEQ_ILLEGAL or SEQ_PROG_UNCORR. -/
  | illegalInstruction (i : Issue)
  /-- ADD (R184): VEC ADD writes d = a + b over N rows. -/
  | add (i : Issue)
  /-- SUB (R184): VEC SUB writes d = a − b over N rows. -/
  | sub (i : Issue)
  /-- MUL (R184): VEC MUL writes d = a × b over N rows. -/
  | mul (i : Issue)
  /-- FMA (R184): VEC FMA writes d = a × b + d with one rounding. -/
  | fma (i : Issue)
  /-- SCALE (R184): VEC SCALE writes d = a × IMM. -/
  | scale (i : Issue)
  /-- MAX (R184): VEC MAX writes the element-wise maximum, with NaN treated as −∞. -/
  | maxOp (i : Issue)
  /-- ACT (R184): VEC ACT applies the activation function that FUNC selects. -/
  | act (i : Issue)
  /-- NORM (R184): VEC NORM writes RMS-normalised rows with gain. -/
  | norm (i : Issue)
  /-- SOFTMAX (R184): VEC SOFTMAX writes the softmax over N rows. -/
  | softmax (i : Issue)
  /-- TOPK (R184): VEC TOPK writes the K largest values and their indexes. -/
  | topk (i : Issue)
  /-- SAMPLE (R184): VEC SAMPLE draws a token index by argmax or Gumbel-max from the logits. -/
  | sample (i : Issue)
  /-- COPY (R186): MOVE COPY writes N rows locally in plain, strided or transposed mode. -/
  | copy (i : Issue)
  /-- SEND (R186): MOVE SEND writes rows as window writes to a core of this or another package. -/
  | send (i : Issue)
  /-- LOAD (R186): MOVE LOAD reads N stack lines into scratchpad rows. -/
  | load (i : Issue)
  /-- STORE (R186): MOVE STORE writes N scratchpad rows to stack lines. -/
  | store (i : Issue)
  /-- GATHER (R186): MOVE GATHER loads indexed stack lines into rows. -/
  | gather (i : Issue)
  /-- WIN_OPEN (R195): WIN OPEN sets a window's base, size, expected count and generation and makes it OPEN. -/
  | winOpen (i : Issue)
  /-- WIN_SEAL (R195): WIN SEAL makes an OPEN window become HELD at the next boundary. -/
  | winSeal (i : Issue)
  /-- WIN_CLOSE (R195): WIN CLOSE makes a window CLOSED at once. -/
  | winClose (i : Issue)
  /-- WAIT_EVT (R188): WAIT EVT holds issue until an event counter reaches a value. -/
  | waitEvt (i : Issue)
  /-- WAIT_WIN (R188): WAIT WIN holds issue until a window's arrival count reaches a value or its EXPECT. -/
  | waitWin (i : Issue)
  /-- WAIT_DEADLINE (R188): A wait reaches its deadline unmet, ends, and poisons the core's later outputs of the tick. -/
  | waitDeadline (i : Issue)
  /-- APPEND (R201): ATTN APPEND writes the current token's K and V into its KV page. -/
  | append (i : Issue)
  /-- SCORE (R201): ATTN SCORE attends query heads over the pages of a shard. -/
  | score (i : Issue)
  /-- COMBINE (R201): ATTN COMBINE merges the partial results of the shards. -/
  | combine (i : Issue)
  /-- ADPT_DOWN (R204): ADPT DOWN computes the low-rank projection t of a request's adapter. -/
  | adptDown (i : Issue)
  /-- ADPT_UP (R204): ADPT UP adds the adapter contribution to the output rows. -/
  | adptUp (i : Issue)
  /-- WINDOW_WRITE_LANDING (R197): A 256-byte window write enters the landing buffer and is landed or dropped with a NACK. -/
  | windowWriteLanding (c : CoreIx)
  /-- NACK_RECEIVED (R279): A NACK for a refused write reaches its source core and is counted. -/
  | nackReceived (c : CoreIx)
  /-- CORE_POWER_ON (R209): CORE_CTL_CMD POWER_ON powers a core's compute domain, which then passes through RESET to IDLE. -/
  | corePowerOn (c : CoreIx)
  /-- CORE_POWER_OFF (R209): CORE_CTL_CMD POWER_OFF turns a core's compute domain off. -/
  | corePowerOff (c : CoreIx)
  /-- CORE_CMD_RESET (R209): CORE_CTL_CMD RESET starts a core reset. -/
  | coreCmdReset (c : CoreIx)
  /-- FENCE (R209): CORE_CTL_CMD FENCE holds a core's compute domain in reset as FENCED. -/
  | fence (c : CoreIx)
  /-- RUN (R209): CORE_CTL_CMD RUN makes an IDLE core RUNNING from the next boundary of its partition. -/
  | run (c : CoreIx)
  /-- STOP (R209): CORE_CTL_CMD STOP makes a RUNNING core IDLE from the boundary that ends the current tick. -/
  | stop (c : CoreIx)
  /-- CORE_POWER_RAMP_START (R411): A compute-domain power ramp starts at its next free 100 µs mark. -/
  | corePowerRampStart (c : CoreIx)
  /-- CORE_POWER_RAMP_END (R411): A compute-domain power ramp ends and the core enters RESET, which wipes its scratchpad. -/
  | corePowerRampEnd (c : CoreIx)
  /-- RESET_DRAIN_DONE (R374): The units being reset have completed their injected requests, and the reset proceeds. -/
  | resetDrainDone (c : Option CoreIx)
  /-- DRAIN_TIMEOUT (R374): A reset drain reaches 20 µs, proceeds and is counted in LC_DRAIN_TMO_CNT. -/
  | drainTimeout (c : Option CoreIx)
  /-- CORE_RESET_END (R411): A core's reset ends, its windows are closed and it becomes IDLE. -/
  | coreResetEnd (c : CoreIx)
  /-- MICROCODE_MULTICAST (R364): A core receives the microcode multicast, checks its digest and sets MCODE_OK. -/
  | microcodeMulticast (c : CoreIx) (version : Word) (ok : Bool)
  /-- STEP_ROW_LANDING (R319): 200 ns into the tick, the engine lands the step rows for each stepping core's next step. -/
  | stepRowLanding
  /-- SYNC_MARKER_TIMER (R214): A LOCKED or ROOT package sends a SYNC marker on every admitted port at each marker interval. -/
  | syncMarkerTimer
  /-- SYNC_RECEIVED (R214): A SYNC marker from PARENT or BACKUP is timestamped and answered with a DELAY_REQ. -/
  | syncReceived (p : PortIx)
  /-- DELAY_REQ_RECEIVED (R214): A DELAY_REQ is timestamped and answered with a DELAY_RESP. -/
  | delayReqReceived (p : PortIx)
  /-- DELAY_RESP_RECEIVED (R215): A DELAY_RESP completes an exchange, giving d and θ to steer, step, lock or alarm the time base. -/
  | delayRespReceived (p : PortIx)
  /-- PARENT_LOSS_TIMEOUT (R216): No valid SYNC from PARENT for 4 marker intervals moves steering to BACKUP or into HOLDOVER. -/
  | parentLossTimeout
  /-- HOLDOVER_EXPIRE (R216): The holdover drift bound is reached, the package enters UNSYNC and firmware stops its partitions. -/
  | holdoverExpire
  /-- STANDBY_ROOT_TAKEOVER (R217): A standby root in HOLDOVER for 10 ms sets ROLE = 1 and becomes the time root. -/
  | standbyRootTakeover
  /-- GATE_HOLD (R227): TB_GATE HOLD starts holding the RWS shadows that the management core writes. -/
  | gateHold
  /-- GATE_RELEASE (R227): TB_GATE RELEASE latches K so that the held shadows activate together at tick K. -/
  | gateRelease
  /-- GATE_ABORT (R227): TB_GATE ABORT discards the held shadows and ends the hold. -/
  | gateAbort
  /-- OVERRUN_WINDOW_END (R226): At each window end a package reports its partition overruns, and the coordinator may switch to a longer tick. -/
  | overrunWindowEnd (n : PartIx)
  /-- SWITCH_NOTICE (R228): A member receives (switch, K) and gates its bank, divider and half-clock writes to boundary K. -/
  | switchNotice (n : PartIx) (k : Word64) (scale thr : Bool)
  /-- MESH_ENABLE (R242): Writing 1 to RTR_CTL.EN enables a router and computes its CORE_DIST table. -/
  | meshEnable (c : CoreIx)
  /-- FLIT_FORWARD (R240): A router forwards a flit by its table, correcting, poisoning or discarding it on errors. -/
  | flitForward (c : CoreIx) (vc : VChan) (esc : Bool) (e : FlitErr)
  /-- STACK_READ (R247): A stack controller takes a read request, which may merge, and returns the line, corrected or POISONED. -/
  | stackRead (n : StackIx) (ch : Fin 32) (e : Ecc) (k : Fin 16)
  /-- STACK_WRITE (R247): A stack controller performs a full or masked line write, setting or clearing the poison mark. -/
  | stackWrite (n : StackIx) (ch : Fin 32) (e : Ecc) (k : Fin 16)
  /-- STACK_REPLY (R241): A stack reply reaches its requesting unit, or is absorbed when it carries an old reset epoch. -/
  | stackReply (node : Fin 37)
  /-- MERGE_WINDOW_CLOSE (R250): 64 ns after a merge entry opens, it stops accepting further reads. -/
  | mergeWindowClose (n : StackIx) (ch : Fin 32)
  /-- SCRUB_READ (R249): Patrol scrub reads a line in the background and corrects it or marks it POISONED. -/
  | scrubRead (n : StackIx) (e : Ecc) (k : Fin 16)
  /-- BANK_DOWN (R253): STK_BANK_CMD DOWN starts draining a bank toward OFF. -/
  | bankDown (n : StackIx) (b : Fin 64)
  /-- BANK_UP (R253): STK_BANK_CMD UP starts waking an OFF bank. -/
  | bankUp (n : StackIx) (b : Fin 64)
  /-- BANK_DRAIN_END (R254): A draining bank becomes OFF once its queues are empty, or at 10 µs with queued writes refused. -/
  | bankDrainEnd (n : StackIx)
  /-- BANK_WAKE_END (R256): A waking bank finishes its row clear and becomes ON. -/
  | bankWakeEnd (n : StackIx)
  /-- PORT_ENABLE (R265): Writing FAB_CTL.EN = 1 moves a port from DISABLED to TRAINING. -/
  | portEnable (p : PortIx)
  /-- PORT_TRAINING_DONE (R265): Training completes and the port enters AUTH. -/
  | portTrainingDone (p : PortIx) (skew : BitVec 8)
  /-- PORT_MISSING_TIMEOUT (R265): No partner signal for 500 ms in TRAINING moves the port to DOWN_MISSING. -/
  | portMissingTimeout (p : PortIx)
  /-- PORT_TRAIN_FAIL_TIMEOUT (R265): A signal present but training not complete in 500 ms moves the port to FAILED. -/
  | portTrainFailTimeout (p : PortIx)
  /-- PORT_SIGNAL_DETECT (R265): A partner signal appears on a DOWN_MISSING port, which enters TRAINING. -/
  | portSignalDetect (p : PortIx)
  /-- PORT_ADMIT (R265): FAB_CTL.CMD ADMIT moves a port from AUTH to ADMITTED. -/
  | portAdmit (p : PortIx)
  /-- PORT_QUARANTINE (R285): FAB_CTL.CMD QUARANTINE sends a port to QUARANTINED and discards its egress queues. -/
  | portQuarantine (p : PortIx)
  /-- PORT_RETRAIN (R276): FAB_CTL.CMD RETRAIN retrains a port and reruns admission. -/
  | portRetrain (p : PortIx)
  /-- PORT_DISABLE (R265): FAB_CTL.CMD DISABLE turns a port off. -/
  | portDisable (p : PortIx)
  /-- PORT_MISSING (R265): FAB_CTL.CMD MISSING moves a port from TRAINING or AUTH to DOWN_MISSING. -/
  | portMissing (p : PortIx)
  /-- CELL_RECEIVE (R278): A block arrives at a port and is judged by ingress checks 1 to 9, including replay, lateness, credits, policing and slots. -/
  | cellReceive (p : PortIx) (b : BlockIn)
  /-- CELL_INGRESS_EXIT (R278): A cell leaves ingress storage for the mesh and is judged by checks 10 and 11. -/
  | cellIngressExit (p : PortIx) (pool : Fin 5)
  /-- EGRESS_BLOCK (R271): In each block time the egress sends a replay, a TIME cell, a slotted SCHED cell, MGMT, BULK or an idle block. -/
  | egressBlock (p : PortIx)
  /-- RETRAIN_DONE (R276): A link retrain completes within 50 ms and the link resumes. -/
  | retrainDone (p : PortIx)
  /-- LINK_DOWN (R276): A retrain not complete in 50 ms is a link down: the port enters FAILED and its queued cells are discarded with NACKs. -/
  | linkDown (p : PortIx)
  /-- FEC_INTERVAL_END (R286): At the end of each estimate interval the port writes FAB_PREFEC and may warn or retrain. -/
  | fecIntervalEnd (p : PortIx)
  /-- QUAR_WINDOW_END (R284): A hardware-quarantine window ends and its drop counts start again. -/
  | quarWindowEnd (p : PortIx)
  /-- AUTH_CELL (R281): An admission message (HELLO, certificate or PROOF) is received and processed by firmware. -/
  | authCell (p : PortIx) (m : AuthMsg)
  /-- ADMISSION_TIMEOUT (R281): An admission exchange not complete in 100 ms sends the port to QUARANTINED with AUTH. -/
  | admissionTimeout (p : PortIx)
  /-- DISCOVERY_END (R305): When every port has an outcome, firmware switches in a ring spare, floods port states and installs routes. -/
  | discoveryEnd
  /-- MISSING_REPORT (R297): A ring spare receives a neighbour's report of a missing package and may switch itself in. -/
  | missingReport (m : BitVec 16) (plus : Bool)
  /-- PORT_STATE_FLOOD (R302): A package receives a flooded port-state change and recomputes its routes. -/
  | portStateFlood (a : BitVec 16) (p : PortIx) (st : BitVec 3)
  /-- ROUTE_INSTALL (R302): Once 2 ms have passed since the last change heard, route changes are installed through the gate. -/
  | routeInstall
  /-- WINDOW_ACK (R308): A member receives the coordinator's window acknowledgement. -/
  | windowAck (n : PartIx)
  /-- COORDINATOR_SILENT (R308): Two windows without acknowledgement redirect reports to the standby, which may take over, or stop the partition. -/
  | coordinatorSilent (n : PartIx) (reach : Bool)
  /-- READY_REPORT (R309): The coordinator receives a member's ready report and, when all are ready, picks the start tick K. -/
  | readyReport (n : PartIx) (m : BitVec 16)
  /-- PARTITION_START_NOTICE (R309): A member receives the start tick K from the coordinator. -/
  | partitionStartNotice (n : PartIx) (k : Word64)
  /-- PARTITION_RUN_WRITE (R309): In the allowed interval before tick K a member writes RUN to its cores, or reports a miss. -/
  | partitionRunWrite (n : PartIx)
  /-- PARTITION_RESET_NOTICE (R311): A member receives (reset, K) and runs the partition reset steps around boundary K. -/
  | partitionResetNotice (n : PartIx) (k : Word64)
  /-- NOTICE_RECEIVED (R320): A member receives a serving notice from the head and applies it at tick M, or late. -/
  | noticeReceived (n : PartIx) (m : Word64) (x : Notice)
  /-- REQ_NEW (R322): The head reads a NEW descriptor, checks it and admits or rejects it. -/
  | reqNew (r : RingIx) (d : Desc)
  /-- REQ_CONTINUE (R322): The head reads a CONTINUE descriptor and requeues or restores a conversation. -/
  | reqContinue (r : RingIx) (d : Desc)
  /-- REQ_CANCEL (R321): The head reads a CANCEL descriptor that ends the request with STOPPED. -/
  | reqCancel (r : RingIx) (d : Desc)
  /-- REQ_PARK (R334): The head reads a PARK descriptor that moves a conversation to the caddy tier. -/
  | reqPark (r : RingIx) (d : Desc)
  /-- REQ_DROP (R334): The head reads a DROP descriptor that frees a conversation. -/
  | reqDrop (r : RingIx) (d : Desc)
  /-- ACCOUNT_REFILL (R325): Every millisecond each account's balance gains RATE ÷ 1,000 up to BURST. -/
  | accountRefill
  /-- OUTPUT_RECORD_WRITE (R329): The head writes a staged output record to its ring once the ring has room. -/
  | outputRecordWrite (n : PartIx)
  /-- OUTPUT_IRQ_TIMER (R354): MOD_US after the first unsignalled record, the output ring's vector is raised. -/
  | outputIrqTimer (r : RingIx)
  /-- CADDY_REPORT (R334): The head receives a member's report that a migration or restore has completed or failed. -/
  | caddyReport (n : PartIx) (e : EntIx) (k : BitVec 16) (ok : Bool) (data : List Byte)
  /-- ADAPTER_SLOT_FREE (R333): A RETIRING adapter slot's REFCNT reaches 0, so the slot is freed and the replace completes. -/
  | adapterSlotFree (i : Fin 64)
  /-- MB_DB (R342): A doorbell write makes a FREE request slot BUSY, or hardware answers BUSY while firmware is down. -/
  | mbDb (f : FnIx) (v : Word)
  /-- MB_ACK (R342): A write to MB_ACK frees a DONE slot. -/
  | mbAck (f : FnIx) (v : Word)
  /-- PENDING_COMPLETE (R345): A PENDING command ends and its final status is written to the event queue. -/
  | pendingComplete (f : FnIx) (seq : Word) (o : DoneIn)
  /-- RQ_TAIL (R353): A write to RQ_TAIL rings a request-ring doorbell, which the head then reads. -/
  | rqTail (f : FnIx) (r : RingIx) (v : Word)
  /-- OQ_HEAD (R354): A write to OQ_HEAD advances the consumer index of an output ring. -/
  | oqHead (f : FnIx) (r : RingIx) (v : Word)
  /-- FLR (R340): A function-level reset resets one function's PCIe state, rings and mailbox. -/
  | flr (f : Fin 33)
  /-- PCIE_HOT_RESET (R340): A hot reset or link disable acts as an FLR of every function. -/
  | pcieHotReset
  /-- PCIE_PERST (R435): PCIE_PERST_N low resets the endpoint and every BAR2 page. -/
  | pciePerst
  /-- PCIE_RETRAIN (R356): Writing GLB_PCIE_CTL.RETRAIN retrains the PCIe link. -/
  | pcieRetrain (a : Agent)
  /-- BAR4_READ (R339): A host read through BAR4 is checked against the apertures and returns data, zero or poison. -/
  | bar4Read (f : Fin 33) (ofs : BitVec 34) (n : BitVec 13)
  /-- BAR4_WRITE (R339): A host write through BAR4 is checked against the apertures and written or discarded. -/
  | bar4Write (f : Fin 33) (ofs : BitVec 34) (data : List Byte)
  /-- DMA_TRANSFER_END (R339): A DMA transfer between host memory and the stacks completes, or fails with poison or BANK_OFF. -/
  | dmaTransferEnd (f : Fin 33) (wr : Bool) (ofs : BitVec 34) (n : Word) (host : Word64) (data : List Byte) (bad : List Nat)
  /-- MGMT_SESSION_HANDSHAKE (R378): A DTLS handshake on the management Ethernet is authenticated, or refused. -/
  | mgmtSessionHandshake (r : PeerRoot)
  /-- GET_INFO (R349): Yarile GET_INFO returns the device identity, versions, mode and configuration. -/
  | getInfo (q : YReq)
  /-- GET_CERT (R349): Yarile GET_CERT returns the device certificate chain. -/
  | getCert (q : YReq)
  /-- GET_LOG (R349): Yarile GET_LOG returns log records from a sequence number. -/
  | getLog (q : YReq) (seq : Word)
  /-- GET_PORTS (R349): Yarile GET_PORTS returns the state of every port. -/
  | getPorts (q : YReq)
  /-- PART_CREATE (R306): Yarile PART_CREATE creates a partition on the package. -/
  | partCreate (q : YReq) (x : PartIn)
  /-- PART_START (R309): Yarile PART_START starts a partition at a coordinated boundary. -/
  | partStart (q : YReq)
  /-- PART_STOP (R349): Yarile PART_STOP stops a partition's cores at a boundary. -/
  | partStop (q : YReq)
  /-- PART_RESET (R311): Yarile PART_RESET resets a partition on every member. -/
  | partReset (q : YReq)
  /-- PART_DESTROY (R310): Yarile PART_DESTROY removes a stopped partition and its slots. -/
  | partDestroy (q : YReq)
  /-- PART_SET (R349): Yarile PART_SET sets a partition's policy parameters. -/
  | partSet (q : YReq) (x : PartSet)
  /-- PART_CLEAR (R349): Yarile PART_CLEAR clears a partition's layer flags and re-arms its reports. -/
  | partClear (q : YReq)
  /-- PART_NARROW (R119): Yarile PART_NARROW switches a partition back to its narrow schedule. -/
  | partNarrow (q : YReq)
  /-- PART_STATUS (R349): Yarile PART_STATUS returns the state of a partition. -/
  | partStatus (q : YReq) (others : List Byte)
  /-- MODEL_LOAD (R165): Yarile MODEL_LOAD checks, decrypts and steeps a model part and binds it. -/
  | modelLoad (q : YReq) (x : ImgIn)
  /-- MODEL_UNLOAD (R167): Yarile MODEL_UNLOAD unbinds a model, optionally erasing its arrays. -/
  | modelUnload (q : YReq) (h : Word)
  /-- MODEL_LIST (R349): Yarile MODEL_LIST returns the model table. -/
  | modelList (q : YReq)
  /-- MODEL_SUPPLY (R169): Yarile MODEL_SUPPLY answers an image-needed notice with a source. -/
  | modelSupply (q : YReq) (h : Word) (x : ImgIn) (failed : List (CoreIx × ArrIx))
  /-- MODEL_DIGEST (R159): Yarile MODEL_DIGEST returns the weight-image and readback digests. -/
  | modelDigest (q : YReq) (h : Word)
  /-- SCHED_LOAD (R208): Yarile SCHED_LOAD checks a schedule image and loads it into standby banks. -/
  | schedLoad (q : YReq) (x : SchedImg)
  /-- SCHED_SWITCH (R228): Yarile SCHED_SWITCH makes a partition's standby bank active at a gated boundary. -/
  | schedSwitch (q : YReq)
  /-- RECIPE_SET (R117): Yarile RECIPE_SET writes recipe changes that fit ENV. -/
  | recipeSet (q : YReq) (l : List (Fin 16 × RcpIn))
  /-- RECIPE_GET (R349): Yarile RECIPE_GET returns a core's active recipe table. -/
  | recipeGet (q : YReq) (l : Fin 16)
  /-- FLAGS_GET (R349): Yarile FLAGS_GET returns layer flags united over members. -/
  | flagsGet (q : YReq) (others : List (BitVec 12 × BitVec 4 × Bool))
  /-- ADAPTER_LOAD (R333): Yarile ADAPTER_LOAD places an adapter generation in a free slot. -/
  | adapterLoad (q : YReq) (id gen : BitVec 16) (l : List SegIn)
  /-- ADAPTER_REPLACE (R333): Yarile ADAPTER_REPLACE replaces an adapter generation, optionally by force. -/
  | adapterReplace (q : YReq) (id gen : BitVec 16) (l : List SegIn)
  /-- ADAPTER_UNLOAD (R349): Yarile ADAPTER_UNLOAD removes an adapter. -/
  | adapterUnload (q : YReq) (id : BitVec 16)
  /-- ADAPTER_LIST (R349): Yarile ADAPTER_LIST returns all adapter slots. -/
  | adapterList (q : YReq)
  /-- RQ_CREATE (R353): Yarile RQ_CREATE sets up a request ring. -/
  | rqCreate (q : YReq) (r : Fin 64) (base : Word64) (entries : Word) (wb : Word64)
  /-- OQ_CREATE (R354): Yarile OQ_CREATE sets up an output ring. -/
  | oqCreate (q : YReq) (r : Fin 64) (remote : Option (BitVec 16)) (base : Word64) (entries : Word) (wb : Word64) (vec : Byte) (modUs modCnt : BitVec 16)
  /-- RING_DESTROY (R349): Yarile RING_DESTROY removes a request or output ring. -/
  | ringDestroy (q : YReq) (out : Bool) (r : Fin 64)
  /-- ACCOUNT_SET (R325): Yarile ACCOUNT_SET configures a customer account. -/
  | accountSet (q : YReq) (a : Fin 1024) (rate burst : Word) (ends valid : Bool)
  /-- CLASS_SET (R326): Yarile CLASS_SET sets the latency targets of a class. -/
  | classSet (q : YReq) (c : Fin 8) (ttft tbt : Word)
  /-- STOPSET_SET (R328): Yarile STOPSET_SET writes a stop-token set. -/
  | stopsetSet (q : YReq) (i : Fin 8) (tokens : List Word)
  /-- REQ_QUERY (R349): Yarile REQ_QUERY returns a request entry and its last tokens. -/
  | reqQuery (q : YReq) (e : EntIx)
  /-- CAL_SAVE (R142): Yarile CAL_SAVE returns a core's calibration set records. -/
  | calSave (q : YReq) (c : CoreIx) (set : Fin 4)
  /-- CAL_RESTORE (R142): Yarile CAL_RESTORE writes checked calibration set records. -/
  | calRestore (q : YReq) (dev : BitVec 128) (c : CoreIx) (set : Fin 4) (recs : List Byte)
  /-- CAL_MEASURE (R143): Yarile CAL_MEASURE measures a temperature set with OP = FULL and TARGET = 1. -/
  | calMeasure (q : YReq) (c : CoreIx) (set : Fin 4)
  /-- CAL_CONFIG (R349): Yarile CAL_CONFIG sets a core's tracking and monitor configuration. -/
  | calConfig (q : YReq) (c : CoreIx) (src : Bool) (log2 : BitVec 5) (limit : Byte) (tstep : BitVec 4)
  /-- TEL_SNAPSHOT (R349): Yarile TEL_SNAPSHOT takes and returns counter snapshots. -/
  | telSnapshot (q : YReq) (blocks : List (BitVec 26))
  /-- ENDURANCE_GET (R156): Yarile ENDURANCE_GET returns cycle counts and last steep times. -/
  | enduranceGet (q : YReq) (c : CoreIx)
  /-- THERMAL_GET (R349): Yarile THERMAL_GET returns sensor readings and throttle state. -/
  | thermalGet (q : YReq)
  /-- TEL_STREAM (R349): Yarile TEL_STREAM starts or stops periodic snapshots into a buffer ring. -/
  | telStream (q : YReq) (ms : Word) (blocks : List (BitVec 26)) (buf : Word64) (size : Word)
  /-- TEL_STREAM_INTERVAL (R349): At each stream interval a snapshot is written to the stream ring. -/
  | telStreamInterval
  /-- FAULT_LIST (R349): Yarile FAULT_LIST returns captures and unacknowledged classes. -/
  | faultList (q : YReq)
  /-- FAULT_ACK (R388): Yarile FAULT_ACK acknowledges every domain of a class. -/
  | faultAck (q : YReq) (l : Byte)
  /-- CORE_FENCE (R400): Yarile CORE_FENCE pauses the partition, fences the core and replaces it. -/
  | coreFence (q : YReq) (c : CoreIx)
  /-- RESTEEP (R170): Yarile RESTEEP orders a re-steep of one array. -/
  | resteep (q : YReq) (c : CoreIx) (n : ArrIx)
  /-- DIGEST_CFG (R405): Yarile DIGEST_CFG sets the replica digest interval. -/
  | digestCfg (q : YReq) (minutes : BitVec 16)
  /-- LC_GET (R349): Yarile LC_GET returns the life-cycle state and the transition record. -/
  | lcGet (q : YReq)
  /-- LC_SET (R382): Yarile LC_SET runs an authorised life-cycle transition with erase and a warm reset. -/
  | lcSet (q : YReq) (dst : Fin 8) (x : LcAuth) (challenge : BitVec 256)
  /-- OWNERSHIP_INSTALL (R381): LC_SET with a target equal to the current state installs a signed ownership record. -/
  | ownershipInstall (q : YReq) (dst : Fin 8) (x : OwnIn) (challenge : BitVec 256)
  /-- FW_STAGE (R349): Yarile FW_STAGE writes and authenticates a firmware image in the inactive copy. -/
  | fwStage (q : YReq) (ver : Word) (lvl : Byte) (asks : Bool)
  /-- FW_ACTIVATE (R350): Yarile FW_ACTIVATE ends the commands in progress and restarts the management core on the staged firmware. -/
  | fwActivate (q : YReq) (done : List (FnIx × Word × DoneIn))
  /-- FW_STATUS (R349): Yarile FW_STATUS returns the running and staged image versions. -/
  | fwStatus (q : YReq)
  /-- SHUTDOWN (R371): Yarile SHUTDOWN flushes flash, disables ports, optionally self-tests and requests power-off. -/
  | shutdown (q : YReq)
  /-- BIST_RESULT (R370): Yarile BIST_RESULT returns the last signed self-test record. -/
  | bistResult (q : YReq)
  /-- RESET (R373): Yarile RESET starts a core, cluster or warm package reset. -/
  | reset (q : YReq) (x : ResetScope)
  /-- PLAN_INSTALL (R293): Yarile PLAN_INSTALL checks a signed installation plan and stores it as pending. -/
  | planInstall (q : YReq) (image : List Byte) (sig : Bool)
  /-- PLAN_GET (R349): Yarile PLAN_GET returns the active and pending plans. -/
  | planGet (q : YReq)
  /-- PORT_CMD (R285): Yarile PORT_CMD retrains, disables or quarantines a port. -/
  | portCmd (q : YReq) (p : BitVec 8) (c : BitVec 8)
  /-- SPARE_SET (R297): Yarile SPARE_SET switches the ring spare in or clears a substitution. -/
  | spareSet (q : YReq) (a : Option (BitVec 16))
  /-- HALF_CLOCK (R232): Yarile HALF_CLOCK lowers or raises a die-half clock under the switch procedure. -/
  | halfClock (q : YReq) (east lower there : Bool)
  /-- SYS_RST_ASSERT (R434): SYS_RST_N held low for 1 ms starts a cold package reset. -/
  | sysRstAssert
  /-- POWER_ON_DETECT (R442): VDD_AON crossing its detector threshold holds the package in cold reset, or releases it. -/
  | powerOnDetect (up : Bool)
  /-- PACKAGE_START (R358): After a cold or warm reset ends, the start order runs step by step up to NORMAL, or fails. -/
  | packageStart (x : StartIn)
  /-- START_STEP_TIMEOUT (R358): A start step exceeds its limit and the start fails with a reason code. -/
  | startStepTimeout
  /-- WATCHDOG_EXPIRE (R365): The management watchdog expires and causes a cold package reset. -/
  | watchdogExpire
  /-- WATCHDOG_KICK (R383): Writing LC_WDOG.KICK restarts the watchdog period. -/
  | watchdogKick (a : Agent)
  /-- LC_RST_CLUSTER (R372): LC_RST with SCOPE CLUSTER resets the five cores of a cluster. -/
  | lcRstCluster (a : Agent) (k : Fin 4)
  /-- LC_RST_WARM (R372): LC_RST with SCOPE WARM starts a warm package reset. -/
  | lcRstWarm (a : Agent)
  /-- LC_RST_COLD (R372): LC_RST with SCOPE COLD starts an internal cold package reset. -/
  | lcRstCold (a : Agent)
  /-- BIST_RUN (R369): Writing LC_BIST_CTL.RUN starts the logic self-test with the covered logic idle. -/
  | bistRun (a : Tester)
  /-- BIST_DONE (R370): The logic self-test ends with a signature and a signed pass or fail record. -/
  | bistDone (o : BistOut)
  /-- POWERED_TIME_SAVE (R369): Every 600 s firmware saves the powered-time base to the boot block. -/
  | poweredTimeSave
  /-- FAULT_EVENT (R384): The collector classifies a detector event, escalates it, applies its class reaction and records it. -/
  | faultEvent (src dom : Byte) (access : BitVec 3) (node : Byte) (unit : BitVec 3) (addr detail : Word64) (esc : Bool)
  /-- FAULT_WINDOW_END (R388): At the end of an L0 or L1 window the hardware acknowledges the events of that class and clears pending bits. -/
  | faultWindowEnd (l1 : Bool)
  /-- FLT_ACK (R388): A write to FLT_ACK acknowledges events of a class in one domain or in every domain. -/
  | fltAck (v : Word)
  /-- FLT_EVT_POP (R391): A write to FLT_EVT_POP removes the head of the fault event queue. -/
  | fltEvtPop (a : Agent)
  /-- FLT_CAP_CLEAR (R391): Writing VALID of FLT_CAP clears a class capture and arms the next one. -/
  | fltCapClear (l : Fin 5)
  /-- FAULT_N_PULSE_END (R396): A 16 µs FAULT_N pulse ends. -/
  | faultNPulseEnd
  /-- FAULT_REPORT (R398): Firmware sends a fault report for an L1 or higher event on the management network. -/
  | faultReport
  /-- FAULT_SUMMARY_TIMER (R398): Once per second firmware sends the L0 summary. -/
  | faultSummaryTimer
  /-- FAULT_PAUSE (R399): On an L2 event firmware pauses the partition, replaces the fenced core with a hot spare and resumes. -/
  | faultPause (c : CoreIx) (failed : List (CoreIx × ArrIx))
  /-- PAUSE_REQUEST (R399): The coordinator receives a pause request and sends (pause, K) to the members. -/
  | pauseRequest (n : PartIx)
  /-- PAUSE_NOTICE (R399): A member receives (pause, K), stops the partition's cores and ends the ring at K. -/
  | pauseNotice (n : PartIx) (k : Word64)
  /-- SUSPECT_OBSERVE (R402): Firmware handles a newly SUSPECT array by watching its slot, or treats it as a repeat and rotates or re-steeps it. -/
  | suspectObserve (c : CoreIx) (n : ArrIx)
  /-- SUSPECT_OBSERVATION_END (R402): An observation of 100,000 ticks ends with no repeat, and the array is cleared. -/
  | suspectObservationEnd (c : CoreIx) (n : ArrIx)
  /-- DIGEST_INTERVAL (R405): At each digest interval firmware recomputes part digests, reads every serving array back and reports. -/
  | digestInterval
  /-- INJECT_GO (R408): Writing FLT_INJ_CTL.GO arms a fault injection, or is ignored if it cannot act. -/
  | injectGo (v : Word)
  /-- INJECTION_AT_TIME (R408): An armed injection reaches FLT_INJ_AT and begins to act. -/
  | injectionAtTime
  /-- SENSOR_SAMPLE (R414): A thermal sensor is sampled, updating flags, sampling rate, refresh rate and shut-down. -/
  | sensorSample (i : Fin 31) (v : BitVec 16) (ok : Bool)
  /-- SENSOR_MISSING_TIMEOUT (R421): A half or stack sensor without a valid sample for 10 ms trips shut-down, and a core sensor's flags are cleared. -/
  | sensorMissingTimeout (i : Fin 31)
  /-- WARNING_CHANGE (R416): A change of a half's warning condition makes firmware send a TEMPERATURE notice and report. -/
  | warningChange (east : Bool) (i : Fin 31)
  /-- THROTTLE_SET (R417): A half's throttle condition is set and firmware plans schedule switches and a half-clock lowering. -/
  | throttleSet (east : Bool)
  /-- THROTTLE_REQUEST (R417): The coordinator receives a throttle switch request and sends (switch, K). -/
  | throttleRequest (n : PartIx) (all : Bool)
  /-- THROTTLE_CLEAR (R418): A half's throttle condition clears and firmware raises the half clock if it was lowered. -/
  | throttleClear (east : Bool)
  /-- THM_CTL_WRITE (R427): A write to THM_CTL sets the warning or throttle level, or is ignored when out of range. -/
  | thmCtlWrite (a : Agent) (v : Word)
  /-- TEL_CONVERSION_END (R425): A telemetry conversion ends, writes its channel result and checks limits, and the next conversion starts. -/
  | telConversionEnd (code : BitVec 24) (ovr : Bool)
  /-- TEL_CTL_WRITE (R424): A write to TEL_CTL or TEL_CHSEL starts or stops conversions from the next conversion. -/
  | telCtlWrite (a : Agent) (mask : Bool) (v : Word)
  /-- REFCLK_LOSS (R445): A missing reference clock causes a clock failure, a cold reset, failed ports or a link that does not train. -/
  | refclkLoss (k : RefClock)
  /-- FIRING_RELEASE (R64): At the end of its release phase a firing switches its drivers off, frees its input-buffer entry and leaves the array free for the next firing. -/
  | firingRelease (c : CoreIx) (slot : BitVec 12)
  /-- PARTNER_SIGNAL_LOSS (R377): The partner's signal disappears on a trained port, as when the partner goes through a warm or cold reset, and the link goes down so that the port enters FAILED. -/
  | partnerSignalLoss (p : PortIx)
  /-- PCIE_LINK_TRAINED (R435): After PCIE_PERST_N is released or the link is reset, PCIe link training completes, GLB_PCIE_STAT is set and a degraded link raises its L0 event. -/
  | pcieLinkTrained (speed : BitVec 3) (width : BitVec 5) (flit : Bool) (vfs : BitVec 6)
  /-- PCIE_LINK_ERROR (R337): The endpoint detects a correctable or uncorrectable PCIe error, counts it and raises PCIE_CORR or reports it through AER. -/
  | pcieLinkError (corr : Bool)
  /-- FIRMWARE_RESTART_END (R350): The restarted management firmware, or the previous copy after an authentication failure, comes up, writes its versions, clears UPDATING and sets FW_UP. -/
  | firmwareRestartEnd (auth : Bool)
  /-- OVERRUN_REPORT (R226): The coordinator receives a package's overrun count for a window and, once all reports are in, decides whether to switch to a longer tick. -/
  | overrunReport (n : PartIx) (m : BitVec 16) (w : Word64) (k : Word64) (longer : Bool)
  /-- PARTITION_STOP_NOTICE (R307): A member receives the stop tick that the coordinator chose and writes STOP to the partition's cores so that they are IDLE from that boundary. -/
  | partitionStopNotice (n : PartIx) (k : Word64)
  /-- PARTITION_STOP_REQUEST (R308): The coordinator receives a member's request to stop the partition, as from a member in UNSYNC, and picks a stop tick. -/
  | partitionStopRequest (n : PartIx) (missed : Bool)
  /-- JTAG_FUSE_PROGRAMMING (R380): Factory fuse programming over JTAG moves a BLANK device to FACTORY_TEST. -/
  | jtagFuseProgramming
  deriving DecidableEq, Repr

end Sys2Proof
end

