-- ==== Sys2Proof/Config.lean ====
section
/-! DEFINITION. Constants that the specification fixes for the whole device, and the free values it leaves open: constants without a body, of which nothing can be proved. -/
namespace Sys2Proof.Config

/-- Which of two NaN operands an operation keeps (R28 does not say). FREE VALUE, log entry 20. -/
opaque nanFirst : Nat → Nat → Bool
/-- Sign and payload of a NaN that an invalid operation makes (R28 does not say). FREE VALUE, log entry 20. -/
opaque newNanBits : Nat → Nat
/-- Conversion noise and residual error of one column code, in LSB (R61, R80): fresh per draw. FREE VALUE, log entry 21. -/
opaque convError : Nat → Int
/-- What an accumulate of the wrong MODE leaves in an accumulator (R101 gives no value): whether it is the wide one, its old value, and
the codes of its column. FREE VALUE, log entry 19. -/
opaque wrongMode : Bool → Int → List Int → Int
/-- The proof unit's generator (R111): the number drawn from a seed and a count. FREE VALUE, log entry 22. -/
opaque proofDraw : Nat → Nat → Nat
/-- Choice of the ACT tables within one BF16 ulp of the function (R184), and the result for a FUNC that Table 6.7 does not list: function
code and operand. FREE VALUE, log entry 23. -/
opaque actTable : Nat → Nat → Nat
/-- Logit of SAMPLE perturbed by Gumbel noise (Table 6.7): seed, position, temperature, index, logit. FREE VALUE, log
entry 24. -/
opaque perturbed : Nat → Nat → Nat → Nat → Nat → Nat
/-- Bytes 8 to 511 of a SAMPLE result row, which Table 6.7 does not give. FREE VALUE, log entry 24. -/
opaque sampleRest : Nat → BitVec 8
/-- Which zero MAX returns for zeros of unlike sign (Table 6.7). FREE VALUE, log entry 23. -/
opaque maxZeroFirst : Nat → Nat → Bool

/-- Level difference of a cell pair that an abandoned steep or erase left undefined (R152). FREE VALUE, log entry 25. -/
opaque undefCell : Nat → Int
/-- Bytes delivered as POISONED where the specification names no data: draw and byte index. FREE VALUE, log entry 26. -/
opaque poisonByte : Nat → Nat → BitVec 8
/-- Sign bit of a code whose magnitude is 0 (R51 gives it no meaning): FP32 pattern of the element. FREE VALUE, log entry
26. -/
opaque zeroSign : Nat → Bool
/-- Codes read during a calibration (R126): draw, converter, step and conversion. FREE VALUE, log entry 30. -/
opaque calCode : Nat → Nat → Nat → Nat → Int

/-- Quantities that the steep engine measures on the cells (Table 5.2): draw and which. FREE VALUE, log entry 32. -/
opaque measured : Nat → Nat → Nat
/-- SHA-384, a function of another standard (R159, R162). FREE VALUE, log entry 33. -/
opaque sha384 : List (BitVec 8) → BitVec 384
/-- The functions of other standards that images rest on (R162, R206), FREE VALUES, log entry 33. Digest of the root to which a chain of
certificates leads; of bytes that are no valid chain, that of no root. -/
opaque certRoot : List (BitVec 8) → BitVec 384
/-- Public key of the leaf of a chain. -/
opaque certKey : List (BitVec 8) → BitVec 776
/-- The ECDSA P-384 signature that the holder of a public key makes of a digest with a nonce: one verifies when it is one of these. -/
opaque ecdsaSign : BitVec 776 → BitVec 384 → BitVec 384 → BitVec 768
/-- Shared x-coordinate of ECDH between the device key and an ephemeral public key. -/
opaque ecdh : List (BitVec 8) → BitVec 384
/-- HKDF-SHA-384 to 32 bytes: keying material, salt, info. -/
opaque hkdf384 : BitVec 384 → List (BitVec 8) → List (BitVec 8) → BitVec 256
/-- AES key wrap: key-encryption key and key. -/
opaque aesWrap : BitVec 256 → BitVec 256 → BitVec 320
/-- Key stream of AES-256-GCM: key, nonce, byte. -/
opaque gcmStream : BitVec 256 → List (BitVec 8) → Nat → BitVec 8
/-- Tag of AES-256-GCM: key, nonce, additional data, ciphertext. -/
opaque gcmTag : BitVec 256 → List (BitVec 8) → List (BitVec 8) → List (BitVec 8) → BitVec 128

/-- The device certificate chain in DER, leaf first (GET_CERT). FREE VALUE, log entry 34. -/
opaque certChain : List (BitVec 8)
/-- Rate correction that the proportional-integral loop sets after a sample (R215): draw, in ppb. FREE VALUE, log entry 35. -/
opaque loopRate : Nat → Int

/-- Scale exponent of a head that holds a value that is not finite, for which R201 gives no scale: its BF16 values. FREE
VALUE, log entry 37. -/
opaque kvScale : List Nat → Int

/-- First lines of a request's page list, of a page set and of a prompt in the areas of a partition, whose layout R336 leaves
open: base of the area, then entry or set. FREE VALUE, log entry 38. -/
opaque listLine : Nat → Nat → Nat
/-- Page set. FREE VALUE, log entry 38. -/
opaque setLine : Nat → Nat → Nat
/-- Lines of a page set, and its pages (R252), for the area of a partition. FREE VALUE, log entry 38. -/
opaque setLines : Nat → Nat
/-- Pages. FREE VALUE, log entry 38. -/
opaque setPages : Nat → Nat
/-- Line of the caddy area at which page set `p` of an entry begins (R334). FREE VALUE, log entry 38. -/
opaque caddyLine : Nat → Nat → Nat
/-- Prompt. FREE VALUE, log entry 38. -/
opaque promptLine : Nat → Nat → Nat

/-- BASE and PER_BLK of CAL_CHK_BAND after a full calibration (R129), which rest on a measured deviation. FREE VALUE, log entry 40. -/
opaque chkBand : Nat → Nat × Nat

/-- A rounded quotient whose divisor is 0 (R126, R132, R138 give none): the dividend. FREE VALUE, log entry 41. -/
opaque openQuotient : Int → Int

/-- What a DRAM access that the model performs within another command finds: 0 modulo 3 no error, 1 corrected, 2 uncorrectable; the quotient names the
codeword (R248). FREE VALUE, log entry 67. -/
opaque dramError : Nat → Nat

/-- Signature of the logic self-test expected for the stepping (Table 13.5). FREE VALUE, log entry 39. -/
opaque bistExpect : Nat
/-- ECDSA P-384 signature with the device key, 96 bytes, of a message (Table 13.5). FREE VALUE, log entry 39. -/
opaque signed : List (BitVec 8) → Nat

end Sys2Proof.Config
end

