-- ==== Sys2Proof/Machine/Fields.lean ====
section
/-! DEFINITION. Every field of every register of BAR0, named as the register maps name it (register_FIELD): its bit address, its width and its value after reset. Generated from the field tables of the specification. -/
namespace Sys2Proof.Machine

/-- A register field: its bit address in BAR0 (8 times the byte address plus the bit number), its width and its value after reset. -/
structure Fld where
  key : Nat
  width : Nat
  reset : Nat
  deriving DecidableEq, Repr

namespace F

/-- 12_host_mailbox.md Table 12.12, R356. -/
def GLB_ID_STEPPING : Fld := ⟨0x0, 8, 0xc0⟩
/-- 12_host_mailbox.md Table 12.12, R356. -/
def GLB_ID_PART : Fld := ⟨0x8, 8, 0xa⟩
/-- 12_host_mailbox.md Table 12.12, R356. -/
def GLB_ID_DEVICE : Fld := ⟨0x10, 16, 0x940⟩
/-- 12_host_mailbox.md Table 12.12, R356. -/
def GLB_FW_VER_BUILD : Fld := ⟨0x20, 16, 0⟩
/-- 12_host_mailbox.md Table 12.12, R356. -/
def GLB_FW_VER_MINOR : Fld := ⟨0x30, 8, 0⟩
/-- 12_host_mailbox.md Table 12.12, R356. -/
def GLB_FW_VER_MAJOR : Fld := ⟨0x38, 8, 0⟩
/-- 12_host_mailbox.md Table 12.12, R356. -/
def GLB_YARILE_VER_MINOR : Fld := ⟨0x40, 16, 0⟩
/-- 12_host_mailbox.md Table 12.12, R356. -/
def GLB_YARILE_VER_MAJOR : Fld := ⟨0x50, 16, 0⟩
/-- 12_host_mailbox.md Table 12.12, R356. -/
def GLB_MODE_MODE : Fld := ⟨0x60, 2, 0⟩
/-- 12_host_mailbox.md Table 12.12, R356. -/
def GLB_DEV_ID_ID : Fld := ⟨0x80, 128, 0⟩
/-- 12_host_mailbox.md Table 12.12, R356. -/
def GLB_CORE_MAP_PHYS (n : Nat) : Fld := ⟨0x100 + n * 0x8, 5, 0⟩
/-- 12_host_mailbox.md Table 12.12, R356. -/
def GLB_CORE_MAP_VALID (n : Nat) : Fld := ⟨0x107 + n * 0x8, 1, 0⟩
/-- 12_host_mailbox.md Tables 12.11 and 12.12, R356. -/
def GLB_CORE_MAP_ACT_PHYS (n : Nat) : Fld := ⟨0x180 + n * 0x8, 5, 0⟩
/-- 12_host_mailbox.md Tables 12.11 and 12.12, R356. -/
def GLB_CORE_MAP_ACT_VALID (n : Nat) : Fld := ⟨0x187 + n * 0x8, 1, 0⟩
/-- 12_host_mailbox.md Table 12.12, R356. -/
def GLB_PCIE_STAT_SPEED : Fld := ⟨0x200, 3, 0⟩
/-- 12_host_mailbox.md Table 12.12, R356. -/
def GLB_PCIE_STAT_WIDTH : Fld := ⟨0x203, 5, 0⟩
/-- 12_host_mailbox.md Table 12.12, R356. -/
def GLB_PCIE_STAT_FLIT : Fld := ⟨0x208, 1, 0⟩
/-- 12_host_mailbox.md Table 12.12, R356. -/
def GLB_PCIE_STAT_DEGRADED : Fld := ⟨0x209, 1, 0⟩
/-- 12_host_mailbox.md Table 12.12, R356. -/
def GLB_PCIE_STAT_NUM_VF : Fld := ⟨0x20a, 6, 0⟩
/-- 12_host_mailbox.md Table 12.12, R356. -/
def GLB_PCIE_CTL_MAX_SPEED : Fld := ⟨0x220, 3, 6⟩
/-- 12_host_mailbox.md Table 12.12, R356. -/
def GLB_PCIE_CTL_RETRAIN : Fld := ⟨0x223, 1, 0⟩
/-- 00_scope.md Table 0.4, R356. -/
def GLB_SNAP_TAKE : Fld := ⟨0x240, 1, 0⟩
/-- 00_scope.md Table 0.4, R356. -/
def GLB_SNAP_CLEAR : Fld := ⟨0x241, 1, 0⟩
/-- 00_scope.md Table 0.4, R356. -/
def GLB_SNAP_SEQ : Fld := ⟨0x250, 16, 0⟩
/-- 12_host_mailbox.md Table 12.12, R356. -/
def GLB_APER_BASE (n i : Nat) : Fld := ⟨0x8000 + n * 0x200 + i * 0x40, 19, 0⟩
/-- 12_host_mailbox.md Table 12.12, R356. -/
def GLB_APER_SIZE (n i : Nat) : Fld := ⟨0x8014 + n * 0x200 + i * 0x40, 19, 0⟩
/-- 12_host_mailbox.md Table 12.12, R356. -/
def GLB_APER_RD (n i : Nat) : Fld := ⟨0x8027 + n * 0x200 + i * 0x40, 1, 0⟩
/-- 12_host_mailbox.md Table 12.12, R356. -/
def GLB_APER_WR (n i : Nat) : Fld := ⟨0x8028 + n * 0x200 + i * 0x40, 1, 0⟩
/-- 12_host_mailbox.md Table 12.12, R356. -/
def GLB_APER_VALID (n i : Nat) : Fld := ⟨0x8029 + n * 0x200 + i * 0x40, 1, 0⟩
/-- 12_host_mailbox.md Table 12.12, R356. -/
def GLB_APER_WOFS (n i : Nat) : Fld := ⟨0x8030 + n * 0x200 + i * 0x40, 15, 0⟩
/-- 12_host_mailbox.md Table 12.13, R356. -/
def GLB_DENIED_CNT : Fld := ⟨0x800, 64, 0⟩
/-- 12_host_mailbox.md Table 12.13, R356. -/
def GLB_PCIE_CORR_CNT : Fld := ⟨0x840, 64, 0⟩
/-- 12_host_mailbox.md Table 12.13, R356. -/
def GLB_PCIE_UNCORR_CNT : Fld := ⟨0x880, 64, 0⟩
/-- 12_host_mailbox.md Table 12.13, R356. -/
def GLB_PCIE_RETRAIN_CNT : Fld := ⟨0x8c0, 64, 0⟩
/-- 12_host_mailbox.md Table 12.13, R356. -/
def GLB_APER_REJ_CNT : Fld := ⟨0x900, 64, 0⟩
/-- 12_host_mailbox.md Table 12.13, R356. -/
def GLB_DMA_ERR_CNT : Fld := ⟨0x940, 64, 0⟩
/-- 12_host_mailbox.md Table 12.13, R356. -/
def GLB_DMA_RD_BYTE_CNT : Fld := ⟨0x980, 64, 0⟩
/-- 12_host_mailbox.md Table 12.13, R356. -/
def GLB_DMA_WR_BYTE_CNT : Fld := ⟨0x9c0, 64, 0⟩
/-- 12_host_mailbox.md Table 12.15, R357. -/
def MBX_CTL_FW_UP : Fld := ⟨0x800000, 1, 0⟩
/-- 12_host_mailbox.md Table 12.15, R357. -/
def MBX_CTL_UPDATING : Fld := ⟨0x800001, 1, 0⟩
/-- 12_host_mailbox.md Table 12.15, R357. -/
def MBX_CTL_MINIMAL : Fld := ⟨0x800002, 1, 0⟩
/-- 00_scope.md Table 0.4, R357. -/
def MBX_SNAP_TAKE : Fld := ⟨0x800040, 1, 0⟩
/-- 00_scope.md Table 0.4, R357. -/
def MBX_SNAP_CLEAR : Fld := ⟨0x800041, 1, 0⟩
/-- 00_scope.md Table 0.4, R357. -/
def MBX_SNAP_SEQ : Fld := ⟨0x800050, 16, 0⟩
/-- 12_host_mailbox.md Table 12.15, R357. -/
def MBX_FN_PARTS (n : Nat) : Fld := ⟨0x808000 + n * 0x40, 16, 0⟩
/-- 12_host_mailbox.md Table 12.15, R357. -/
def MBX_FN_ENABLED (n : Nat) : Fld := ⟨0x808010 + n * 0x40, 1, 0⟩
/-- 12_host_mailbox.md Table 12.15, R357. -/
def MBX_FN_FLR (n : Nat) : Fld := ⟨0x808011 + n * 0x40, 1, 0⟩
/-- 12_host_mailbox.md Table 12.15, R357. -/
def MBX_FN_APER_ERR (n : Nat) : Fld := ⟨0x808012 + n * 0x40, 1, 0⟩
/-- 12_host_mailbox.md Table 12.15, R357. -/
def MBX_FN_BUSY (n : Nat) : Fld := ⟨0x808018 + n * 0x40, 8, 0⟩
/-- 12_host_mailbox.md Table 12.15, R357. -/
def MBX_FN_PEND (n : Nat) : Fld := ⟨0x808020 + n * 0x40, 6, 0⟩
/-- 12_host_mailbox.md Table 12.16, R357. -/
def MBX_DB_CNT : Fld := ⟨0x800200, 64, 0⟩
/-- 12_host_mailbox.md Table 12.16, R357. -/
def MBX_DB_REJ_CNT : Fld := ⟨0x800240, 64, 0⟩
/-- 12_host_mailbox.md Table 12.16, R357. -/
def MBX_AUTO_BUSY_CNT : Fld := ⟨0x800280, 64, 0⟩
/-- 12_host_mailbox.md Table 12.16, R357. -/
def MBX_EVT_DROP_CNT : Fld := ⟨0x8002c0, 64, 0⟩
/-- 12_host_mailbox.md Table 12.16, R357. -/
def MBX_RQ_DB_REJ_CNT : Fld := ⟨0x800300, 64, 0⟩
/-- 12_host_mailbox.md Table 12.16, R357. -/
def MBX_FLR_CNT : Fld := ⟨0x800340, 64, 0⟩
/-- 07_tick.md Table 7.6, R233. -/
def TB_CTL_TICK_EN : Fld := ⟨0x1000000, 1, 0⟩
/-- 07_tick.md Table 7.6, R233. -/
def TB_CTL_ROLE : Fld := ⟨0x1000001, 1, 0⟩
/-- 07_tick.md Table 7.6, R233. -/
def TB_CTL_STEP_EN : Fld := ⟨0x1000002, 1, 1⟩
/-- 07_tick.md Table 7.6, R233. -/
def TB_STAT_SYNC : Fld := ⟨0x1000020, 3, 0⟩
/-- 07_tick.md Table 7.6, R233. -/
def TB_STAT_PORT : Fld := ⟨0x1000023, 4, 0xf⟩
/-- 07_tick.md Table 7.6, R233. -/
def TB_STAT_TICK_ON : Fld := ⟨0x1000027, 1, 0⟩
/-- 07_tick.md Table 7.6, R233. -/
def TB_STAT_GUARD : Fld := ⟨0x1000028, 1, 0⟩
/-- 07_tick.md Table 7.6, R233. -/
def TB_STAT_ALARM : Fld := ⟨0x1000029, 1, 0⟩
/-- 07_tick.md Table 7.6, R233. -/
def TB_STAT_GATE_HOLD : Fld := ⟨0x100002a, 1, 0⟩
/-- 07_tick.md Table 7.6, R233. -/
def TB_STAT_GATE_ARMED : Fld := ⟨0x100002b, 1, 0⟩
/-- 07_tick.md Table 7.6, R233. -/
def TB_STAT_GATE_LATE : Fld := ⟨0x100002c, 1, 0⟩
/-- 07_tick.md Table 7.7, R233. -/
def TB_TIME_TIME : Fld := ⟨0x1000040, 64, 0⟩
/-- 07_tick.md Table 7.7, R233. -/
def TB_TICK_NUM_K : Fld := ⟨0x1000080, 64, 0⟩
/-- 07_tick.md Table 7.7, R233. -/
def TB_EPOCH_EPOCH : Fld := ⟨0x10000c0, 64, 0⟩
/-- 07_tick.md Table 7.7, R233. -/
def TB_TICK_PERIOD_PERIOD : Fld := ⟨0x1000100, 18, 0x640⟩
/-- 07_tick.md Table 7.7, R233. -/
def TB_HALF_CLK_WEST_SLOW : Fld := ⟨0x1000120, 1, 0⟩
/-- 07_tick.md Table 7.7, R233. -/
def TB_HALF_CLK_EAST_SLOW : Fld := ⟨0x1000121, 1, 0⟩
/-- 07_tick.md Table 7.7, R233. -/
def TB_HALF_CLK_WEST_ACT : Fld := ⟨0x1000128, 1, 0⟩
/-- 07_tick.md Table 7.7, R233. -/
def TB_HALF_CLK_EAST_ACT : Fld := ⟨0x1000129, 1, 0⟩
/-- 07_tick.md Table 7.8, R233. -/
def TB_SYNC_CFG_PARENT : Fld := ⟨0x1000140, 4, 0xf⟩
/-- 07_tick.md Table 7.8, R233. -/
def TB_SYNC_CFG_BACKUP : Fld := ⟨0x1000144, 4, 0xf⟩
/-- 07_tick.md Table 7.8, R233. -/
def TB_SYNC_CFG_MK_LOG2 : Fld := ⟨0x1000148, 4, 7⟩
/-- 07_tick.md Table 7.8, R233. -/
def TB_SYNC_CFG_LOCK_N_M1 : Fld := ⟨0x100014c, 4, 0xf⟩
/-- 07_tick.md Table 7.8, R233. -/
def TB_SYNC_LIM_LOCK_LIM : Fld := ⟨0x1000160, 8, 8⟩
/-- 07_tick.md Table 7.8, R233. -/
def TB_SYNC_LIM_ALARM : Fld := ⟨0x1000168, 8, 0x28⟩
/-- 07_tick.md Table 7.8, R233. -/
def TB_SYNC_LIM_HO_DRIFT : Fld := ⟨0x1000170, 8, 0x32⟩
/-- 07_tick.md Table 7.8, R233. -/
def TB_OFFSET_THETA : Fld := ⟨0x1000180, 32, 0⟩
/-- 07_tick.md Table 7.8, R233. -/
def TB_RATE_PPB : Fld := ⟨0x10001a0, 32, 0⟩
/-- 07_tick.md Table 7.9, R233. -/
def TB_GATE_HOLD : Fld := ⟨0x10001c0, 1, 0⟩
/-- 07_tick.md Table 7.9, R233. -/
def TB_GATE_RELEASE : Fld := ⟨0x10001c1, 1, 0⟩
/-- 07_tick.md Table 7.9, R233. -/
def TB_GATE_ABORT : Fld := ⟨0x10001c2, 1, 0⟩
/-- 07_tick.md Table 7.9, R233. -/
def TB_GATE_K_K : Fld := ⟨0x1000200, 64, 0⟩
/-- 00_scope.md Table 0.4, R233. -/
def TB_SNAP_TAKE : Fld := ⟨0x1000240, 1, 0⟩
/-- 00_scope.md Table 0.4, R233. -/
def TB_SNAP_CLEAR : Fld := ⟨0x1000241, 1, 0⟩
/-- 00_scope.md Table 0.4, R233. -/
def TB_SNAP_SEQ : Fld := ⟨0x1000250, 16, 0⟩
/-- 07_tick.md Table 7.8, R233. -/
def TB_LINK_DELAY_DELAY (n : Nat) : Fld := ⟨0x1000400 + n * 0x20, 24, 0⟩
/-- 07_tick.md Table 7.8, R233. -/
def TB_LINK_DELAY_VALID (n : Nat) : Fld := ⟨0x100041f + n * 0x20, 1, 0⟩
/-- 07_tick.md Table 7.8, R233. -/
def TB_ASYM_ASYM (n : Nat) : Fld := ⟨0x1000600 + n * 0x20, 16, 0⟩
/-- 07_tick.md Table 7.9, R233. -/
def TB_PART_DIV_LOG2 (n : Nat) : Fld := ⟨0x1000800 + n * 0x20, 3, 0⟩
/-- 07_tick.md Table 7.9, R233. -/
def TB_PART_DIV_LOG2_ACT (n : Nat) : Fld := ⟨0x1000804 + n * 0x20, 3, 0⟩
/-- 07_tick.md Table 7.9, R233. -/
def TB_SEAM_PEAK_BYTES (n : Nat) : Fld := ⟨0x1000c00 + n * 0x20, 24, 0⟩
/-- 07_tick.md Table 7.9, R233. -/
def TB_SEAM_PEAK_CLR (n : Nat) : Fld := ⟨0x1000c1f + n * 0x20, 1, 0⟩
/-- 07_tick.md Table 7.10, R233. -/
def TB_MARKER_RX_CNT : Fld := ⟨0x1001000, 64, 0⟩
/-- 07_tick.md Table 7.10, R233. -/
def TB_MARKER_BAD_CNT : Fld := ⟨0x1001040, 64, 0⟩
/-- 07_tick.md Table 7.10, R233. -/
def TB_LOCK_LOSS_CNT : Fld := ⟨0x1001080, 64, 0⟩
/-- 07_tick.md Table 7.10, R233. -/
def TB_HOLDOVER_CNT : Fld := ⟨0x10010c0, 64, 0⟩
/-- 07_tick.md Table 7.10, R233. -/
def TB_GUARD_LATE_CNT : Fld := ⟨0x1001100, 64, 0⟩
/-- 07_tick.md Table 7.10, R233. -/
def TB_GATE_LATE_CNT : Fld := ⟨0x1001140, 64, 0⟩
/-- 07_tick.md Table 7.10, R233. -/
def TB_CFG_REJ_CNT : Fld := ⟨0x1001180, 64, 0⟩
/-- 07_tick.md Table 7.10, R233. -/
def TB_LOCKED_WR : Fld := ⟨0x10011c0, 64, 0⟩
/-- 07_tick.md Table 7.10, R233. -/
def TB_SEAM_HOLD_CYC_CNT (n : Nat) : Fld := ⟨0x1001200 + n * 0x40, 64, 0⟩
/-- 07_tick.md Table 7.10, R233. -/
def TB_SEAM_BYTE_CNT (n : Nat) : Fld := ⟨0x1001300 + n * 0x40, 64, 0⟩
/-- 07_tick.md Table 7.10, R233. -/
def TB_OVR_CNT (n : Nat) : Fld := ⟨0x1001400 + n * 0x40, 64, 0⟩
/-- 14_faults.md Table 14.8, R409. -/
def FLT_CTL_PIN_MIN : Fld := ⟨0x1800000, 3, 2⟩
/-- 14_faults.md Table 14.8, R409. -/
def FLT_CTL_L0_WIN_LOG2 : Fld := ⟨0x1800008, 5, 0x14⟩
/-- 14_faults.md Table 14.8, R409. -/
def FLT_CTL_L1_WIN_LOG2 : Fld := ⟨0x1800010, 5, 0x1b⟩
/-- 14_faults.md Table 14.8, R409. -/
def FLT_STAT_SAFE : Fld := ⟨0x1800020, 1, 0⟩
/-- 14_faults.md Table 14.8, R409. -/
def FLT_STAT_ERRMODE : Fld := ⟨0x1800021, 1, 0⟩
/-- 14_faults.md Table 14.8, R409. -/
def FLT_STAT_PIN : Fld := ⟨0x1800022, 1, 0⟩
/-- 14_faults.md Table 14.8, R409. -/
def FLT_STAT_ARMED : Fld := ⟨0x1800023, 1, 1⟩
/-- 14_faults.md Table 14.8, R409. -/
def FLT_STAT_UNACK : Fld := ⟨0x1800024, 5, 0⟩
/-- 14_faults.md Table 14.8, R409. -/
def FLT_STAT_HIGHEST : Fld := ⟨0x1800029, 3, 7⟩
/-- 14_faults.md Table 14.8, R409. -/
def FLT_STAT_L4_REQ : Fld := ⟨0x180002c, 1, 0⟩
/-- 14_faults.md Table 14.9, R409. -/
def FLT_ACK_CLASS : Fld := ⟨0x1800040, 3, 0⟩
/-- 14_faults.md Table 14.9, R409. -/
def FLT_ACK_DOM : Fld := ⟨0x1800048, 8, 0⟩
/-- 14_faults.md Table 14.9, R409. -/
def FLT_ACK_ALL : Fld := ⟨0x1800050, 1, 0⟩
/-- 00_scope.md Table 0.4, R409. -/
def FLT_SNAP_TAKE : Fld := ⟨0x1800060, 1, 0⟩
/-- 00_scope.md Table 0.4, R409. -/
def FLT_SNAP_CLEAR : Fld := ⟨0x1800061, 1, 0⟩
/-- 00_scope.md Table 0.4, R409. -/
def FLT_SNAP_SEQ : Fld := ⟨0x1800070, 16, 0⟩
/-- 14_faults.md Table 14.10, R409. -/
def FLT_SAFE_TIME_TIME : Fld := ⟨0x1800080, 64, 0⟩
/-- 14_faults.md Table 14.9, R409. -/
def FLT_EVT_POP_POP : Fld := ⟨0x18000c0, 1, 0⟩
/-- 14_faults.md Table 14.9, R409. -/
def FLT_EVT_LEVEL_N : Fld := ⟨0x18000e0, 9, 0⟩
/-- 14_faults.md Table 14.11, R409. -/
def FLT_EVT_TIME : Fld := ⟨0x1800100, 64, 0⟩
/-- 14_faults.md Table 14.11, R409. -/
def FLT_EVT_SRC : Fld := ⟨0x1800140, 8, 0⟩
/-- 14_faults.md Table 14.11, R409. -/
def FLT_EVT_DOM : Fld := ⟨0x1800148, 8, 0xff⟩
/-- 14_faults.md Table 14.11, R409. -/
def FLT_EVT_CLASS : Fld := ⟨0x1800150, 3, 0⟩
/-- 14_faults.md Table 14.11, R409. -/
def FLT_EVT_ESC : Fld := ⟨0x1800153, 1, 0⟩
/-- 14_faults.md Table 14.11, R409. -/
def FLT_EVT_ACCESS : Fld := ⟨0x1800154, 3, 0⟩
/-- 14_faults.md Table 14.11, R409. -/
def FLT_EVT_VALID : Fld := ⟨0x1800157, 1, 0⟩
/-- 14_faults.md Table 14.11, R409. -/
def FLT_EVT_NODE : Fld := ⟨0x1800158, 8, 0xff⟩
/-- 14_faults.md Table 14.11, R409. -/
def FLT_EVT_UNIT : Fld := ⟨0x1800160, 3, 0⟩
/-- 14_faults.md Table 14.11, R409. -/
def FLT_EVT_ADDR : Fld := ⟨0x1800180, 64, 0⟩
/-- 14_faults.md Table 14.11, R409. -/
def FLT_EVT_DETAIL : Fld := ⟨0x18001c0, 64, 0⟩
/-- 14_faults.md Table 14.11, R409. -/
def FLT_CAP_TIME (n : Nat) : Fld := ⟨0x1800200 + n * 0x100, 64, 0⟩
/-- 14_faults.md Table 14.11, R409. -/
def FLT_CAP_SRC (n : Nat) : Fld := ⟨0x1800240 + n * 0x100, 8, 0⟩
/-- 14_faults.md Table 14.11, R409. -/
def FLT_CAP_DOM (n : Nat) : Fld := ⟨0x1800248 + n * 0x100, 8, 0xff⟩
/-- 14_faults.md Table 14.11, R409. -/
def FLT_CAP_CLASS (n : Nat) : Fld := ⟨0x1800250 + n * 0x100, 3, 0⟩
/-- 14_faults.md Table 14.11, R409. -/
def FLT_CAP_ESC (n : Nat) : Fld := ⟨0x1800253 + n * 0x100, 1, 0⟩
/-- 14_faults.md Table 14.11, R409. -/
def FLT_CAP_ACCESS (n : Nat) : Fld := ⟨0x1800254 + n * 0x100, 3, 0⟩
/-- 14_faults.md Table 14.11, R409. -/
def FLT_CAP_VALID (n : Nat) : Fld := ⟨0x1800257 + n * 0x100, 1, 0⟩
/-- 14_faults.md Table 14.11, R409. -/
def FLT_CAP_NODE (n : Nat) : Fld := ⟨0x1800258 + n * 0x100, 8, 0xff⟩
/-- 14_faults.md Table 14.11, R409. -/
def FLT_CAP_UNIT (n : Nat) : Fld := ⟨0x1800260 + n * 0x100, 3, 0⟩
/-- 14_faults.md Table 14.11, R409. -/
def FLT_CAP_ADDR (n : Nat) : Fld := ⟨0x1800280 + n * 0x100, 64, 0⟩
/-- 14_faults.md Table 14.11, R409. -/
def FLT_CAP_DETAIL (n : Nat) : Fld := ⟨0x18002c0 + n * 0x100, 64, 0⟩
/-- 14_faults.md Table 14.9, R409. -/
def FLT_PEND_DOMS (n i : Nat) : Fld := ⟨0x1800800 + n * 0x100 + i * 0x20, 32, 0⟩
/-- 14_faults.md Table 14.10, R409. -/
def FLT_INJ_CTL_KIND : Fld := ⟨0x1804000, 4, 0⟩
/-- 14_faults.md Table 14.10, R409. -/
def FLT_INJ_CTL_GO : Fld := ⟨0x1804004, 1, 0⟩
/-- 14_faults.md Table 14.10, R409. -/
def FLT_INJ_CTL_CHK_HIDE : Fld := ⟨0x1804005, 1, 0⟩
/-- 14_faults.md Table 14.10, R409. -/
def FLT_INJ_CTL_COUNT : Fld := ⟨0x1804008, 8, 0⟩
/-- 14_faults.md Table 14.10, R409. -/
def FLT_INJ_CTL_SRC : Fld := ⟨0x1804010, 8, 0⟩
/-- 14_faults.md Table 14.10, R409. -/
def FLT_INJ_CTL_DOM : Fld := ⟨0x1804018, 8, 0xff⟩
/-- 14_faults.md Table 14.10, R409. -/
def FLT_INJ_TGT_TGT : Fld := ⟨0x1804040, 64, 0⟩
/-- 14_faults.md Table 14.10, R409. -/
def FLT_INJ_AT_AT : Fld := ⟨0x1804080, 64, 0⟩
/-- 14_faults.md Table 14.10, R409. -/
def FLT_INJ_STAT_STATE : Fld := ⟨0x18040c0, 2, 0⟩
/-- 14_faults.md Table 14.10, R409. -/
def FLT_INJ_STAT_DONE : Fld := ⟨0x18040c8, 8, 0⟩
/-- 14_faults.md Table 14.12, R409. -/
def FLT_EVT_CNT (n : Nat) : Fld := ⟨0x1801000 + n * 0x40, 64, 0⟩
/-- 14_faults.md Table 14.12, R409. -/
def FLT_ESC_CNT (n : Nat) : Fld := ⟨0x1801140 + n * 0x40, 64, 0⟩
/-- 14_faults.md Table 14.12, R409. -/
def FLT_LOG_DROP_CNT : Fld := ⟨0x1801240, 64, 0⟩
/-- 14_faults.md Table 14.12, R409. -/
def FLT_PIN_PULSE_CNT : Fld := ⟨0x1801280, 64, 0⟩
/-- 14_faults.md Table 14.12, R409. -/
def FLT_SAFE_WR_BLK_CNT : Fld := ⟨0x18012c0, 64, 0⟩
/-- 14_faults.md Table 14.12, R409. -/
def FLT_INJ_CNT : Fld := ⟨0x1801300, 64, 0⟩
/-- 14_faults.md Table 14.12, R409. -/
def FLT_FENCE_CNT : Fld := ⟨0x1801340, 64, 0⟩
/-- 14_faults.md Table 14.7, R409. -/
def FLT_SRC_CNT (n : Nat) : Fld := ⟨0x1802000 + n * 0x40, 64, 0⟩
/-- 15_power_thermal.md Table 15.10, R427. -/
def THM_CTL_WARN_T : Fld := ⟨0x2000000, 16, 0x2f8⟩
/-- 15_power_thermal.md Table 15.10, R427. -/
def THM_CTL_THR_T : Fld := ⟨0x2000010, 16, 0x338⟩
/-- 15_power_thermal.md Table 15.10, R427. -/
def THM_STAT_WARN_W : Fld := ⟨0x2000020, 1, 0⟩
/-- 15_power_thermal.md Table 15.10, R427. -/
def THM_STAT_WARN_E : Fld := ⟨0x2000021, 1, 0⟩
/-- 15_power_thermal.md Table 15.10, R427. -/
def THM_STAT_THR_W : Fld := ⟨0x2000022, 1, 0⟩
/-- 15_power_thermal.md Table 15.10, R427. -/
def THM_STAT_THR_E : Fld := ⟨0x2000023, 1, 0⟩
/-- 15_power_thermal.md Table 15.10, R427. -/
def THM_STAT_SHUT : Fld := ⟨0x2000024, 1, 0⟩
/-- 15_power_thermal.md Table 15.10, R427. -/
def THM_STAT_SHUT_SENS : Fld := ⟨0x2000025, 5, 0x1f⟩
/-- 15_power_thermal.md Table 15.10, R427. -/
def THM_STAT_NOSENS : Fld := ⟨0x200002a, 1, 0⟩
/-- 15_power_thermal.md Table 15.10, R427. -/
def THM_HYS_WARN_HYS : Fld := ⟨0x2000040, 8, 0x18⟩
/-- 15_power_thermal.md Table 15.10, R427. -/
def THM_HYS_THR_HYS : Fld := ⟨0x2000048, 8, 0x20⟩
/-- 15_power_thermal.md Table 15.10, R427. -/
def THM_HYS_SHUT_T : Fld := ⟨0x2000050, 16, 0x380⟩
/-- 15_power_thermal.md Table 15.10, R427. -/
def THM_PEAK_TEMP : Fld := ⟨0x2000060, 16, 0⟩
/-- 15_power_thermal.md Table 15.10, R427. -/
def THM_PEAK_SENS : Fld := ⟨0x2000070, 5, 0x1f⟩
/-- 15_power_thermal.md Table 15.10, R427. -/
def THM_PEAK_CLR : Fld := ⟨0x200007f, 1, 0⟩
/-- 00_scope.md Table 0.4, R427. -/
def THM_SNAP_TAKE : Fld := ⟨0x2000080, 1, 0⟩
/-- 00_scope.md Table 0.4, R427. -/
def THM_SNAP_CLEAR : Fld := ⟨0x2000081, 1, 0⟩
/-- 00_scope.md Table 0.4, R427. -/
def THM_SNAP_SEQ : Fld := ⟨0x2000090, 16, 0⟩
/-- 15_power_thermal.md Table 15.10, R427. -/
def THM_SENS_TEMP (n : Nat) : Fld := ⟨0x2000800 + n * 0x20, 16, 0⟩
/-- 15_power_thermal.md Table 15.10, R427. -/
def THM_SENS_VALID (n : Nat) : Fld := ⟨0x2000810 + n * 0x20, 1, 0⟩
/-- 15_power_thermal.md Table 15.10, R427. -/
def THM_SENS_FAST (n : Nat) : Fld := ⟨0x2000811 + n * 0x20, 1, 0⟩
/-- 15_power_thermal.md Table 15.10, R427. -/
def THM_SENS_WARN (n : Nat) : Fld := ⟨0x2000812 + n * 0x20, 1, 0⟩
/-- 15_power_thermal.md Table 15.10, R427. -/
def THM_SENS_THR (n : Nat) : Fld := ⟨0x2000813 + n * 0x20, 1, 0⟩
/-- 15_power_thermal.md Table 15.11, R427. -/
def THM_SAMPLE_CNT : Fld := ⟨0x2001000, 64, 0⟩
/-- 15_power_thermal.md Table 15.11, R427. -/
def THM_INVALID_CNT : Fld := ⟨0x2001040, 64, 0⟩
/-- 15_power_thermal.md Table 15.11, R427. -/
def THM_WARN_CNT : Fld := ⟨0x2001080, 64, 0⟩
/-- 15_power_thermal.md Table 15.11, R427. -/
def THM_THR_CNT : Fld := ⟨0x20010c0, 64, 0⟩
/-- 15_power_thermal.md Table 15.11, R427. -/
def THM_FAST_CNT : Fld := ⟨0x2001100, 64, 0⟩
/-- 15_power_thermal.md Table 15.11, R427. -/
def THM_CFG_REJ_CNT : Fld := ⟨0x2001140, 64, 0⟩
/-- 15_power_thermal.md Table 15.13, R428. -/
def TEL_CTL_EN : Fld := ⟨0x2400000, 1, 0⟩
/-- 15_power_thermal.md Table 15.13, R428. -/
def TEL_CTL_MAINS : Fld := ⟨0x2400001, 1, 0⟩
/-- 15_power_thermal.md Table 15.13, R428. -/
def TEL_CTL_LP : Fld := ⟨0x2400002, 1, 0⟩
/-- 15_power_thermal.md Table 15.13, R428. -/
def TEL_STAT_BUSY : Fld := ⟨0x2400020, 1, 0⟩
/-- 15_power_thermal.md Table 15.13, R428. -/
def TEL_STAT_CH : Fld := ⟨0x2400021, 4, 0⟩
/-- 15_power_thermal.md Table 15.13, R428. -/
def TEL_CHSEL_MASK : Fld := ⟨0x2400040, 16, 0⟩
/-- 15_power_thermal.md Table 15.13, R428. -/
def TEL_ALARM_LO : Fld := ⟨0x2400060, 16, 0⟩
/-- 15_power_thermal.md Table 15.13, R428. -/
def TEL_ALARM_HI : Fld := ⟨0x2400070, 16, 0⟩
/-- 00_scope.md Table 0.4, R428. -/
def TEL_SNAP_TAKE : Fld := ⟨0x2400080, 1, 0⟩
/-- 00_scope.md Table 0.4, R428. -/
def TEL_SNAP_CLEAR : Fld := ⟨0x2400081, 1, 0⟩
/-- 00_scope.md Table 0.4, R428. -/
def TEL_SNAP_SEQ : Fld := ⟨0x2400090, 16, 0⟩
/-- 15_power_thermal.md Table 15.13, R428. -/
def TEL_RES_CODE (n : Nat) : Fld := ⟨0x2400800 + n * 0x40, 24, 0⟩
/-- 15_power_thermal.md Table 15.13, R428. -/
def TEL_RES_OVR (n : Nat) : Fld := ⟨0x2400818 + n * 0x40, 1, 0⟩
/-- 15_power_thermal.md Table 15.13, R428. -/
def TEL_RES_LP (n : Nat) : Fld := ⟨0x2400819 + n * 0x40, 1, 0⟩
/-- 15_power_thermal.md Table 15.13, R428. -/
def TEL_RES_MAINS (n : Nat) : Fld := ⟨0x240081a + n * 0x40, 1, 0⟩
/-- 15_power_thermal.md Table 15.13, R428. -/
def TEL_RES_VALID (n : Nat) : Fld := ⟨0x240081b + n * 0x40, 1, 0⟩
/-- 15_power_thermal.md Table 15.13, R428. -/
def TEL_RES_SEQ (n : Nat) : Fld := ⟨0x2400820 + n * 0x40, 16, 0⟩
/-- 15_power_thermal.md Table 15.13, R428. -/
def TEL_RES_TIME_TIME (n : Nat) : Fld := ⟨0x2401000 + n * 0x40, 64, 0⟩
/-- 15_power_thermal.md Table 15.13, R428. -/
def TEL_LIM_LO (n : Nat) : Fld := ⟨0x2401800 + n * 0x40, 24, 0x800001⟩
/-- 15_power_thermal.md Table 15.13, R428. -/
def TEL_LIM_HI (n : Nat) : Fld := ⟨0x2401818 + n * 0x40, 24, 0x7fffff⟩
/-- 15_power_thermal.md Table 15.13, R428. -/
def TEL_LIM_EN (n : Nat) : Fld := ⟨0x2401830 + n * 0x40, 1, 0⟩
/-- 15_power_thermal.md Table 15.14, R428. -/
def TEL_CONV_CNT : Fld := ⟨0x2402000, 64, 0⟩
/-- 15_power_thermal.md Table 15.14, R428. -/
def TEL_OVR_CNT : Fld := ⟨0x2402040, 64, 0⟩
/-- 15_power_thermal.md Table 15.14, R428. -/
def TEL_LIM_CNT : Fld := ⟨0x2402080, 64, 0⟩
/-- 13_bringup.md Table 13.15, R383. -/
def LC_STATE_STATE : Fld := ⟨0x2800000, 3, 3⟩
/-- 13_bringup.md Table 13.15, R383. -/
def LC_STATE_FI_EN : Fld := ⟨0x2800003, 1, 0⟩
/-- 13_bringup.md Table 13.15, R383. -/
def LC_STATE_SLOTS : Fld := ⟨0x2800004, 5, 3⟩
/-- 13_bringup.md Table 13.15, R383. -/
def LC_START_ATTEMPTS : Fld := ⟨0x2800020, 4, 0⟩
/-- 13_bringup.md Table 13.15, R383. -/
def LC_START_STEP : Fld := ⟨0x2800024, 4, 0⟩
/-- 13_bringup.md Table 13.15, R383. -/
def LC_START_REASON : Fld := ⟨0x2800028, 8, 0⟩
/-- 13_bringup.md Table 13.15, R383. -/
def LC_START_DETAIL : Fld := ⟨0x2800030, 8, 0⟩
/-- 13_bringup.md Table 13.15, R383. -/
def LC_START_MINIMAL : Fld := ⟨0x2800038, 1, 0⟩
/-- 13_bringup.md Table 13.15, R383. -/
def LC_START_BIST_RAN : Fld := ⟨0x2800039, 1, 0⟩
/-- 13_bringup.md Table 13.15, R383. -/
def LC_START_ERASE_PEND : Fld := ⟨0x280003a, 1, 0⟩
/-- 13_bringup.md Table 13.15, R383. -/
def LC_START_FAST : Fld := ⟨0x280003b, 1, 0⟩
/-- 13_bringup.md Table 13.15, R383. -/
def LC_RST_SCOPE : Fld := ⟨0x2800040, 2, 0⟩
/-- 13_bringup.md Table 13.15, R383. -/
def LC_RST_CLUSTER : Fld := ⟨0x2800042, 2, 0⟩
/-- 13_bringup.md Table 13.15, R383. -/
def LC_WDOG_TIMEOUT_MS : Fld := ⟨0x2800060, 16, 0x1388⟩
/-- 13_bringup.md Table 13.15, R383. -/
def LC_WDOG_KICK : Fld := ⟨0x280007f, 1, 0⟩
/-- 13_bringup.md Table 13.15, R383. -/
def LC_RST_CAUSE_POWER_ON : Fld := ⟨0x2800080, 1, 0⟩
/-- 13_bringup.md Table 13.15, R383. -/
def LC_RST_CAUSE_PIN : Fld := ⟨0x2800081, 1, 0⟩
/-- 13_bringup.md Table 13.15, R383. -/
def LC_RST_CAUSE_WATCHDOG : Fld := ⟨0x2800082, 1, 0⟩
/-- 13_bringup.md Table 13.15, R383. -/
def LC_RST_CAUSE_INTERNAL : Fld := ⟨0x2800083, 1, 0⟩
/-- 13_bringup.md Table 13.15, R383. -/
def LC_UPTIME_MS : Fld := ⟨0x28000c0, 64, 0⟩
/-- 13_bringup.md Table 13.16, R383. -/
def LC_CHALLENGE_VALUE : Fld := ⟨0x2800100, 256, 0⟩
/-- 13_bringup.md Table 13.16, R383. -/
def LC_CORE_FUSE_GOOD : Fld := ⟨0x2800200, 20, 0xfffff⟩
/-- 13_bringup.md Table 13.16, R383. -/
def LC_CORE_FUSE_DSPARE : Fld := ⟨0x2800214, 20, 0⟩
/-- 13_bringup.md Table 13.16, R383. -/
def LC_CORE_FUSE_RTR_ABSENT : Fld := ⟨0x2800228, 4, 0⟩
/-- 13_bringup.md Table 13.16, R383. -/
def LC_CORE_FUSE_SPARES : Fld := ⟨0x280022c, 3, 4⟩
/-- 13_bringup.md Table 13.16, R383. -/
def LC_FAB_FUSE_LANE0 : Fld := ⟨0x2800240, 4, 0xf⟩
/-- 13_bringup.md Table 13.16, R383. -/
def LC_FAB_FUSE_LANE1 : Fld := ⟨0x2800244, 4, 0xf⟩
/-- 13_bringup.md Table 13.16, R383. -/
def LC_FAB_FUSE_LANE2 : Fld := ⟨0x2800248, 4, 0xf⟩
/-- 13_bringup.md Table 13.16, R383. -/
def LC_FAB_FUSE_LANE3 : Fld := ⟨0x280024c, 4, 0xf⟩
/-- 13_bringup.md Table 13.16, R383. -/
def LC_FAB_FUSE_LANE4 : Fld := ⟨0x2800250, 4, 0xf⟩
/-- 13_bringup.md Table 13.16, R383. -/
def LC_FAB_FUSE_LANE5 : Fld := ⟨0x2800254, 4, 0xf⟩
/-- 13_bringup.md Table 13.16, R383. -/
def LC_FAB_FUSE_LANE6 : Fld := ⟨0x2800258, 4, 0xf⟩
/-- 13_bringup.md Table 13.16, R383. -/
def LC_FAB_FUSE_LANE7 : Fld := ⟨0x280025c, 4, 0xf⟩
/-- 13_bringup.md Table 13.16, R383. -/
def LC_FAB_FUSE_LANE8 : Fld := ⟨0x2800260, 4, 0xf⟩
/-- 13_bringup.md Table 13.16, R383. -/
def LC_FAB_FUSE_LANE9 : Fld := ⟨0x2800264, 4, 0xf⟩
/-- 13_bringup.md Table 13.16, R383. -/
def LC_FAB_FUSE_LANE10 : Fld := ⟨0x2800268, 4, 0xf⟩
/-- 13_bringup.md Table 13.16, R383. -/
def LC_FAB_FUSE_LANE11 : Fld := ⟨0x280026c, 4, 0xf⟩
/-- 13_bringup.md Table 13.16, R383. -/
def LC_OWN_SEQ_SEQ : Fld := ⟨0x2800280, 7, 0⟩
/-- 13_bringup.md Table 13.16, R383. -/
def LC_BIST_CTL_RUN : Fld := ⟨0x28002a0, 1, 0⟩
/-- 13_bringup.md Table 13.16, R383. -/
def LC_BIST_STAT_STATE : Fld := ⟨0x28002c0, 2, 0⟩
/-- 13_bringup.md Table 13.16, R383. -/
def LC_BIST_STAT_FAIL_DOM : Fld := ⟨0x28002c8, 8, 0xff⟩
/-- 13_bringup.md Table 13.16, R383. -/
def LC_BIST_STAT_COV : Fld := ⟨0x28002d0, 16, 0⟩
/-- 13_bringup.md Table 13.16, R383. -/
def LC_BIST_SIG_SIG : Fld := ⟨0x2800300, 64, 0⟩
/-- 00_scope.md Table 0.4, R383. -/
def LC_SNAP_TAKE : Fld := ⟨0x2800340, 1, 0⟩
/-- 00_scope.md Table 0.4, R383. -/
def LC_SNAP_CLEAR : Fld := ⟨0x2800341, 1, 0⟩
/-- 00_scope.md Table 0.4, R383. -/
def LC_SNAP_SEQ : Fld := ⟨0x2800350, 16, 0⟩
/-- 13_bringup.md Table 13.16, R383. -/
def LC_ARR_FUSE_BAD_ARR (n : Nat) : Fld := ⟨0x2800400 + n * 0x20, 7, 0⟩
/-- 13_bringup.md Table 13.16, R383. -/
def LC_ARR_FUSE_ROW_REP (n : Nat) : Fld := ⟨0x2800408 + n * 0x20, 8, 0⟩
/-- 13_bringup.md Table 13.16, R383. -/
def LC_ARR_FUSE_SPAD_REP (n : Nat) : Fld := ⟨0x2800410 + n * 0x20, 8, 0⟩
/-- 13_bringup.md Table 13.16, R383. -/
def LC_STK_FUSE_LANES (n : Nat) : Fld := ⟨0x2800680 + n * 0x20, 8, 0⟩
/-- 13_bringup.md Table 13.17, R383. -/
def LC_CORE_RST_CNT : Fld := ⟨0x2800800, 64, 0⟩
/-- 13_bringup.md Table 13.17, R383. -/
def LC_CLUSTER_RST_CNT : Fld := ⟨0x2800840, 64, 0⟩
/-- 13_bringup.md Table 13.17, R383. -/
def LC_PART_RST_CNT : Fld := ⟨0x2800880, 64, 0⟩
/-- 13_bringup.md Table 13.17, R383. -/
def LC_WARM_RST_CNT : Fld := ⟨0x28008c0, 64, 0⟩
/-- 13_bringup.md Table 13.17, R383. -/
def LC_DRAIN_TMO_CNT : Fld := ⟨0x2800900, 64, 0⟩
/-- 08_memory_and_mesh.md Table 8.11, R259. -/
def STK_CTL_SCRUB_EN (n : Nat) : Fld := ⟨0x3000000 + n * 0x80000, 1, 1⟩
/-- 08_memory_and_mesh.md Table 8.11, R259. -/
def STK_CTL_MERGE_EN (n : Nat) : Fld := ⟨0x3000001 + n * 0x80000, 1, 1⟩
/-- 08_memory_and_mesh.md Table 8.11, R259. -/
def STK_CTL_SCRUB_H (n : Nat) : Fld := ⟨0x3000008 + n * 0x80000, 8, 0x18⟩
/-- 08_memory_and_mesh.md Table 8.11, R259. -/
def STK_STAT_STATE (n : Nat) : Fld := ⟨0x3000020 + n * 0x80000, 3, 0⟩
/-- 08_memory_and_mesh.md Table 8.11, R259. -/
def STK_STAT_FAIL_CH (n : Nat) : Fld := ⟨0x3000028 + n * 0x80000, 5, 0⟩
/-- 08_memory_and_mesh.md Table 8.11, R259. -/
def STK_STAT_SPARES_USED (n : Nat) : Fld := ⟨0x3000030 + n * 0x80000, 8, 0⟩
/-- 08_memory_and_mesh.md Table 8.11, R259. -/
def STK_CH_OK_OK (n : Nat) : Fld := ⟨0x3000040 + n * 0x80000, 32, 0⟩
/-- 08_memory_and_mesh.md Table 8.11, R259. -/
def STK_BANK_CMD_BANK (n : Nat) : Fld := ⟨0x3000080 + n * 0x80000, 6, 0⟩
/-- 08_memory_and_mesh.md Table 8.11, R259. -/
def STK_BANK_CMD_OP (n : Nat) : Fld := ⟨0x3000088 + n * 0x80000, 2, 0⟩
/-- 08_memory_and_mesh.md Table 8.11, R259. -/
def STK_BANK_ON_ON (n : Nat) : Fld := ⟨0x30000c0 + n * 0x80000, 64, 0xffffffffffffffff⟩
/-- 08_memory_and_mesh.md Table 8.11, R259. -/
def STK_BANK_BUSY_BUSY (n : Nat) : Fld := ⟨0x3000100 + n * 0x80000, 64, 0⟩
/-- 08_memory_and_mesh.md Table 8.11, R259. -/
def STK_ERR_LAST_LINE (n : Nat) : Fld := ⟨0x3000140 + n * 0x80000, 30, 0⟩
/-- 08_memory_and_mesh.md Table 8.11, R259. -/
def STK_ERR_LAST_KIND (n : Nat) : Fld := ⟨0x300015e + n * 0x80000, 2, 0⟩
/-- 08_memory_and_mesh.md Table 8.11, R259. -/
def STK_ERR_LAST_SRC (n : Nat) : Fld := ⟨0x3000160 + n * 0x80000, 6, 0⟩
/-- 08_memory_and_mesh.md Table 8.11, R259. -/
def STK_ERR_LAST_VALID (n : Nat) : Fld := ⟨0x300017f + n * 0x80000, 1, 0⟩
/-- 08_memory_and_mesh.md Table 8.11, R259. -/
def STK_ERR_TIME_TIME (n : Nat) : Fld := ⟨0x3000180 + n * 0x80000, 64, 0⟩
/-- 00_scope.md Table 0.4, R259. -/
def STK_SNAP_TAKE (n : Nat) : Fld := ⟨0x30001c0 + n * 0x80000, 1, 0⟩
/-- 00_scope.md Table 0.4, R259. -/
def STK_SNAP_CLEAR (n : Nat) : Fld := ⟨0x30001c1 + n * 0x80000, 1, 0⟩
/-- 00_scope.md Table 0.4, R259. -/
def STK_SNAP_SEQ (n : Nat) : Fld := ⟨0x30001d0 + n * 0x80000, 16, 0⟩
/-- 08_memory_and_mesh.md Table 8.11, R259. -/
def STK_MWIN_BASE (n i : Nat) : Fld := ⟨0x3000200 + n * 0x80000 + i * 0x40, 19, 0⟩
/-- 08_memory_and_mesh.md Table 8.11, R259. -/
def STK_MWIN_SIZE (n i : Nat) : Fld := ⟨0x3000214 + n * 0x80000 + i * 0x40, 19, 0⟩
/-- 08_memory_and_mesh.md Table 8.11, R259. -/
def STK_MWIN_WR (n i : Nat) : Fld := ⟨0x3000227 + n * 0x80000 + i * 0x40, 1, 0⟩
/-- 08_memory_and_mesh.md Table 8.11, R259. -/
def STK_MWIN_VALID (n i : Nat) : Fld := ⟨0x3000228 + n * 0x80000 + i * 0x40, 1, 0⟩
/-- 08_memory_and_mesh.md Table 8.12, R259. -/
def STK_RD_CNT (n : Nat) : Fld := ⟨0x3000400 + n * 0x80000, 64, 0⟩
/-- 08_memory_and_mesh.md Table 8.12, R259. -/
def STK_WR_CNT (n : Nat) : Fld := ⟨0x3000440 + n * 0x80000, 64, 0⟩
/-- 08_memory_and_mesh.md Table 8.12, R259. -/
def STK_MERGE_CNT (n : Nat) : Fld := ⟨0x3000480 + n * 0x80000, 64, 0⟩
/-- 08_memory_and_mesh.md Table 8.12, R259. -/
def STK_MERGE_FULL_CNT (n : Nat) : Fld := ⟨0x30004c0 + n * 0x80000, 64, 0⟩
/-- 08_memory_and_mesh.md Table 8.12, R259. -/
def STK_CORR_CNT (n : Nat) : Fld := ⟨0x3000500 + n * 0x80000, 64, 0⟩
/-- 08_memory_and_mesh.md Table 8.12, R259. -/
def STK_UNCORR_CNT (n : Nat) : Fld := ⟨0x3000540 + n * 0x80000, 64, 0⟩
/-- 08_memory_and_mesh.md Table 8.12, R259. -/
def STK_POISON_RD_CNT (n : Nat) : Fld := ⟨0x3000580 + n * 0x80000, 64, 0⟩
/-- 08_memory_and_mesh.md Table 8.12, R259. -/
def STK_BANKOFF_REJ_CNT (n : Nat) : Fld := ⟨0x30005c0 + n * 0x80000, 64, 0⟩
/-- 08_memory_and_mesh.md Table 8.12, R259. -/
def STK_DRAIN_TMO_CNT (n : Nat) : Fld := ⟨0x3000600 + n * 0x80000, 64, 0⟩
/-- 08_memory_and_mesh.md Table 8.12, R259. -/
def STK_MWIN_REJ_CNT (n : Nat) : Fld := ⟨0x3000640 + n * 0x80000, 64, 0⟩
/-- 08_memory_and_mesh.md Table 8.12, R259. -/
def STK_RANGE_REJ_CNT (n : Nat) : Fld := ⟨0x3000680 + n * 0x80000, 64, 0⟩
/-- 08_memory_and_mesh.md Table 8.12, R259. -/
def STK_RDQ_STALL_CYC_CNT (n : Nat) : Fld := ⟨0x30006c0 + n * 0x80000, 64, 0⟩
/-- 08_memory_and_mesh.md Table 8.12, R259. -/
def STK_WRQ_STALL_CYC_CNT (n : Nat) : Fld := ⟨0x3000700 + n * 0x80000, 64, 0⟩
/-- 08_memory_and_mesh.md Table 8.12, R259. -/
def STK_SCRUB_LINE_CNT (n : Nat) : Fld := ⟨0x3000740 + n * 0x80000, 64, 0⟩
/-- 08_memory_and_mesh.md Table 8.12, R259. -/
def STK_CMD_REJ_CNT (n : Nat) : Fld := ⟨0x3000780 + n * 0x80000, 64, 0⟩
/-- 09_fabric_ports.md Table 9.10, R287. -/
def FAB_CTL_EN (n : Nat) : Fld := ⟨0x4000000 + n * 0x80000, 1, 0⟩
/-- 09_fabric_ports.md Table 9.10, R287. -/
def FAB_CTL_LOCK (n : Nat) : Fld := ⟨0x4000001 + n * 0x80000, 1, 1⟩
/-- 09_fabric_ports.md Table 9.10, R287. -/
def FAB_CTL_DATELINE (n : Nat) : Fld := ⟨0x4000002 + n * 0x80000, 1, 0⟩
/-- 09_fabric_ports.md Table 9.10, R287. -/
def FAB_CTL_DIM (n : Nat) : Fld := ⟨0x4000003 + n * 0x80000, 3, 0⟩
/-- 09_fabric_ports.md Table 9.10, R287. -/
def FAB_CTL_MEDIA (n : Nat) : Fld := ⟨0x4000006 + n * 0x80000, 2, 0⟩
/-- 09_fabric_ports.md Table 9.10, R287. -/
def FAB_CTL_CMD (n : Nat) : Fld := ⟨0x4000010 + n * 0x80000, 4, 0⟩
/-- 09_fabric_ports.md Table 9.10, R287. -/
def FAB_STAT_STATE (n : Nat) : Fld := ⟨0x4000020 + n * 0x80000, 3, 0⟩
/-- 09_fabric_ports.md Table 9.10, R287. -/
def FAB_STAT_SIGNAL (n : Nat) : Fld := ⟨0x4000023 + n * 0x80000, 1, 0⟩
/-- 09_fabric_ports.md Table 9.10, R287. -/
def FAB_STAT_ALIGNED (n : Nat) : Fld := ⟨0x4000024 + n * 0x80000, 1, 0⟩
/-- 09_fabric_ports.md Table 9.10, R287. -/
def FAB_STAT_QREASON (n : Nat) : Fld := ⟨0x4000025 + n * 0x80000, 3, 0⟩
/-- 09_fabric_ports.md Table 9.10, R287. -/
def FAB_STAT_SKEW (n : Nat) : Fld := ⟨0x4000028 + n * 0x80000, 8, 0⟩
/-- 09_fabric_ports.md Table 9.10, R287. -/
def FAB_STAT_SPARE (n : Nat) : Fld := ⟨0x4000030 + n * 0x80000, 4, 0xf⟩
/-- 09_fabric_ports.md Table 9.11, R287. -/
def FAB_ADDR_ADDR (n : Nat) : Fld := ⟨0x4000040 + n * 0x80000, 16, 0⟩
/-- 09_fabric_ports.md Table 9.11, R287. -/
def FAB_PEER_ID_ID (n : Nat) : Fld := ⟨0x4000080 + n * 0x80000, 128, 0⟩
/-- 09_fabric_ports.md Table 9.11, R287. -/
def FAB_SLOT_CFG_SLOT_NS (n : Nat) : Fld := ⟨0x4000100 + n * 0x80000, 16, 0x5aa⟩
/-- 09_fabric_ports.md Table 9.11, R287. -/
def FAB_SLOT_CFG_NSLOT_M1 (n : Nat) : Fld := ⟨0x4000110 + n * 0x80000, 6, 0⟩
/-- 09_fabric_ports.md Table 9.11, R287. -/
def FAB_SLOT_CFG_TOL (n : Nat) : Fld := ⟨0x4000118 + n * 0x80000, 8, 0x20⟩
/-- 09_fabric_ports.md Table 9.11, R287. -/
def FAB_POLICE_BULK_RATE (n : Nat) : Fld := ⟨0x4000120 + n * 0x80000, 12, 0x4e2⟩
/-- 09_fabric_ports.md Table 9.11, R287. -/
def FAB_POLICE_BULK_BURST (n : Nat) : Fld := ⟨0x4000130 + n * 0x80000, 12, 0x200⟩
/-- 09_fabric_ports.md Table 9.11, R287. -/
def FAB_POLICE_MGMT_RATE (n : Nat) : Fld := ⟨0x4000140 + n * 0x80000, 12, 0x64⟩
/-- 09_fabric_ports.md Table 9.11, R287. -/
def FAB_POLICE_MGMT_BURST (n : Nat) : Fld := ⟨0x4000150 + n * 0x80000, 12, 0x40⟩
/-- 09_fabric_ports.md Table 9.11, R287. -/
def FAB_QUAR_CFG_AUTO_EN (n : Nat) : Fld := ⟨0x4000160 + n * 0x80000, 1, 1⟩
/-- 09_fabric_ports.md Table 9.11, R287. -/
def FAB_QUAR_CFG_WIN_LOG2 (n : Nat) : Fld := ⟨0x4000164 + n * 0x80000, 4, 0xc⟩
/-- 09_fabric_ports.md Table 9.11, R287. -/
def FAB_QUAR_CFG_SRC_LIM (n : Nat) : Fld := ⟨0x4000168 + n * 0x80000, 8, 0x10⟩
/-- 09_fabric_ports.md Table 9.11, R287. -/
def FAB_QUAR_CFG_CRD_LIM (n : Nat) : Fld := ⟨0x4000170 + n * 0x80000, 8, 1⟩
/-- 09_fabric_ports.md Table 9.11, R287. -/
def FAB_FEC_CFG_WARN_E (n : Nat) : Fld := ⟨0x4000180 + n * 0x80000, 8, 0x11⟩
/-- 09_fabric_ports.md Table 9.11, R287. -/
def FAB_FEC_CFG_UNC_LIM (n : Nat) : Fld := ⟨0x4000188 + n * 0x80000, 8, 0x10⟩
/-- 09_fabric_ports.md Table 9.11, R287. -/
def FAB_FEC_CFG_NAK_LIM (n : Nat) : Fld := ⟨0x4000190 + n * 0x80000, 4, 8⟩
/-- 09_fabric_ports.md Table 9.11, R287. -/
def FAB_PREFEC_MANT (n : Nat) : Fld := ⟨0x40001a0 + n * 0x80000, 16, 0⟩
/-- 09_fabric_ports.md Table 9.11, R287. -/
def FAB_PREFEC_EXP (n : Nat) : Fld := ⟨0x40001b0 + n * 0x80000, 8, 0⟩
/-- 09_fabric_ports.md Table 9.11, R287. -/
def FAB_PREFEC_VALID (n : Nat) : Fld := ⟨0x40001b8 + n * 0x80000, 1, 0⟩
/-- 09_fabric_ports.md Table 9.11, R287. -/
def FAB_CREDIT_SCHED (n : Nat) : Fld := ⟨0x40001c0 + n * 0x80000, 16, 0⟩
/-- 09_fabric_ports.md Table 9.11, R287. -/
def FAB_CREDIT_BULK (n : Nat) : Fld := ⟨0x40001d0 + n * 0x80000, 16, 0⟩
/-- 09_fabric_ports.md Table 9.11, R287. -/
def FAB_CREDIT_MGMT (n : Nat) : Fld := ⟨0x40001e0 + n * 0x80000, 16, 0⟩
/-- 00_scope.md Table 0.4, R287. -/
def FAB_SNAP_TAKE (n : Nat) : Fld := ⟨0x4000200 + n * 0x80000, 1, 0⟩
/-- 00_scope.md Table 0.4, R287. -/
def FAB_SNAP_CLEAR (n : Nat) : Fld := ⟨0x4000201 + n * 0x80000, 1, 0⟩
/-- 00_scope.md Table 0.4, R287. -/
def FAB_SNAP_SEQ (n : Nat) : Fld := ⟨0x4000210 + n * 0x80000, 16, 0⟩
/-- 09_fabric_ports.md Table 9.12, R287. -/
def FAB_SLOT_OWN_PID (n i : Nat) : Fld := ⟨0x4000800 + n * 0x80000 + i * 0x20, 16, 0⟩
/-- 09_fabric_ports.md Table 9.12, R287. -/
def FAB_SLOT_OWN_VALID (n i : Nat) : Fld := ⟨0x4000810 + n * 0x80000 + i * 0x20, 1, 0⟩
/-- 09_fabric_ports.md Table 9.9, R287. -/
def FAB_SLOT_OWN_ACT_PID (n i : Nat) : Fld := ⟨0x4001000 + n * 0x80000 + i * 0x20, 16, 0⟩
/-- 09_fabric_ports.md Table 9.9, R287. -/
def FAB_SLOT_OWN_ACT_VALID (n i : Nat) : Fld := ⟨0x4001010 + n * 0x80000 + i * 0x20, 1, 0⟩
/-- 09_fabric_ports.md Table 9.12, R287. -/
def FAB_LPART_PID (n i : Nat) : Fld := ⟨0x4001800 + n * 0x80000 + i * 0x20, 16, 0⟩
/-- 09_fabric_ports.md Table 9.12, R287. -/
def FAB_LPART_VALID (n i : Nat) : Fld := ⟨0x4001810 + n * 0x80000 + i * 0x20, 1, 0⟩
/-- 09_fabric_ports.md Table 9.12, R287. -/
def FAB_LPART_RST (n i : Nat) : Fld := ⟨0x4001811 + n * 0x80000 + i * 0x20, 1, 0⟩
/-- 09_fabric_ports.md Table 9.12, R287. -/
def FAB_SRC_LO (n i : Nat) : Fld := ⟨0x4001a00 + n * 0x80000 + i * 0x40, 16, 0⟩
/-- 09_fabric_ports.md Table 9.12, R287. -/
def FAB_SRC_HI (n i : Nat) : Fld := ⟨0x4001a10 + n * 0x80000 + i * 0x40, 16, 0⟩
/-- 09_fabric_ports.md Table 9.12, R287. -/
def FAB_SRC_VALID (n i : Nat) : Fld := ⟨0x4001a20 + n * 0x80000 + i * 0x40, 1, 0⟩
/-- 09_fabric_ports.md Table 9.12, R287. -/
def FAB_BREG_BASE (n i : Nat) : Fld := ⟨0x4001b00 + n * 0x80000 + i * 0x40, 19, 0⟩
/-- 09_fabric_ports.md Table 9.12, R287. -/
def FAB_BREG_SIZE (n i : Nat) : Fld := ⟨0x4001b14 + n * 0x80000 + i * 0x40, 19, 0⟩
/-- 09_fabric_ports.md Table 9.12, R287. -/
def FAB_BREG_RD (n i : Nat) : Fld := ⟨0x4001b27 + n * 0x80000 + i * 0x40, 1, 0⟩
/-- 09_fabric_ports.md Table 9.12, R287. -/
def FAB_BREG_WR (n i : Nat) : Fld := ⟨0x4001b28 + n * 0x80000 + i * 0x40, 1, 0⟩
/-- 09_fabric_ports.md Table 9.12, R287. -/
def FAB_BREG_VALID (n i : Nat) : Fld := ⟨0x4001b29 + n * 0x80000 + i * 0x40, 1, 0⟩
/-- 09_fabric_ports.md Table 9.12, R287. -/
def FAB_BREG_LPART (n i : Nat) : Fld := ⟨0x4001b2a + n * 0x80000 + i * 0x40, 4, 0⟩
/-- 09_fabric_ports.md R288, R287. -/
def FAB_FWD_LO (n i : Nat) : Fld := ⟨0x4040000 + n * 0x80000 + i * 0x8, 4, 0xf⟩
/-- 09_fabric_ports.md R288, R287. -/
def FAB_FWD_HI (n i : Nat) : Fld := ⟨0x4040004 + n * 0x80000 + i * 0x8, 4, 0xf⟩
/-- 09_fabric_ports.md Table 9.13, R287. -/
def FAB_TX_SCHED_CNT (n : Nat) : Fld := ⟨0x4002000 + n * 0x80000, 64, 0⟩
/-- 09_fabric_ports.md Table 9.13, R287. -/
def FAB_TX_BULK_CNT (n : Nat) : Fld := ⟨0x4002040 + n * 0x80000, 64, 0⟩
/-- 09_fabric_ports.md Table 9.13, R287. -/
def FAB_TX_MGMT_CNT (n : Nat) : Fld := ⟨0x4002080 + n * 0x80000, 64, 0⟩
/-- 09_fabric_ports.md Table 9.13, R287. -/
def FAB_RX_SCHED_CNT (n : Nat) : Fld := ⟨0x40020c0 + n * 0x80000, 64, 0⟩
/-- 09_fabric_ports.md Table 9.13, R287. -/
def FAB_RX_BULK_CNT (n : Nat) : Fld := ⟨0x4002100 + n * 0x80000, 64, 0⟩
/-- 09_fabric_ports.md Table 9.13, R287. -/
def FAB_RX_MGMT_CNT (n : Nat) : Fld := ⟨0x4002140 + n * 0x80000, 64, 0⟩
/-- 09_fabric_ports.md Table 9.13, R287. -/
def FAB_FEC_CW_CNT (n : Nat) : Fld := ⟨0x4002180 + n * 0x80000, 64, 0⟩
/-- 09_fabric_ports.md Table 9.13, R287. -/
def FAB_FEC_CORR_SYM_CNT (n : Nat) : Fld := ⟨0x40021c0 + n * 0x80000, 64, 0⟩
/-- 09_fabric_ports.md Table 9.13, R287. -/
def FAB_FEC_UNCORR_CW_CNT (n : Nat) : Fld := ⟨0x4002200 + n * 0x80000, 64, 0⟩
/-- 09_fabric_ports.md Table 9.13, R287. -/
def FAB_LANE_CORR_SYM_CNT (n i : Nat) : Fld := ⟨0x4002240 + n * 0x80000 + i * 0x40, 64, 0⟩
/-- 09_fabric_ports.md Table 9.13, R287. -/
def FAB_CRC_ERR_CNT (n : Nat) : Fld := ⟨0x4002340 + n * 0x80000, 64, 0⟩
/-- 09_fabric_ports.md Table 9.13, R287. -/
def FAB_SEQ_DISCARD_CNT (n : Nat) : Fld := ⟨0x4002380 + n * 0x80000, 64, 0⟩
/-- 09_fabric_ports.md Table 9.13, R287. -/
def FAB_REPLAY_REQ_CNT (n : Nat) : Fld := ⟨0x40023c0 + n * 0x80000, 64, 0⟩
/-- 09_fabric_ports.md Table 9.13, R287. -/
def FAB_REPLAY_CNT (n : Nat) : Fld := ⟨0x4002400 + n * 0x80000, 64, 0⟩
/-- 09_fabric_ports.md Table 9.13, R287. -/
def FAB_REPLAY_FULL_CYC_CNT (n : Nat) : Fld := ⟨0x4002440 + n * 0x80000, 64, 0⟩
/-- 09_fabric_ports.md Table 9.13, R287. -/
def FAB_CREDIT_STALL_CYC_CNT (n : Nat) : Fld := ⟨0x4002480 + n * 0x80000, 64, 0⟩
/-- 09_fabric_ports.md Table 9.13, R287. -/
def FAB_EGRESS_HOLD_CYC_CNT (n : Nat) : Fld := ⟨0x40024c0 + n * 0x80000, 64, 0⟩
/-- 09_fabric_ports.md Table 9.13, R287. -/
def FAB_LATE_CNT (n : Nat) : Fld := ⟨0x4002500 + n * 0x80000, 64, 0⟩
/-- 09_fabric_ports.md Table 9.13, R287. -/
def FAB_RETRAIN_CNT (n : Nat) : Fld := ⟨0x4002540 + n * 0x80000, 64, 0⟩
/-- 09_fabric_ports.md Table 9.13, R287. -/
def FAB_LINKDOWN_CNT (n : Nat) : Fld := ⟨0x4002580 + n * 0x80000, 64, 0⟩
/-- 09_fabric_ports.md Table 9.13, R287. -/
def FAB_NACK_TX_CNT (n : Nat) : Fld := ⟨0x40025c0 + n * 0x80000, 64, 0⟩
/-- 09_fabric_ports.md Table 9.13, R287. -/
def FAB_NACK_SUPP_CNT (n : Nat) : Fld := ⟨0x4002600 + n * 0x80000, 64, 0⟩
/-- 09_fabric_ports.md Table 9.13, R287. -/
def FAB_CFG_REJ_CNT (n : Nat) : Fld := ⟨0x4002640 + n * 0x80000, 64, 0⟩
/-- 09_fabric_ports.md Table 9.13, R287. -/
def FAB_LOCKED_WR (n : Nat) : Fld := ⟨0x4002680 + n * 0x80000, 64, 0⟩
/-- 09_fabric_ports.md Table 9.13, R287. -/
def FAB_DROP_HDR (n : Nat) : Fld := ⟨0x40026c0 + n * 0x80000, 64, 0⟩
/-- 09_fabric_ports.md Table 9.13, R287. -/
def FAB_DROP_QUAR (n : Nat) : Fld := ⟨0x4002700 + n * 0x80000, 64, 0⟩
/-- 09_fabric_ports.md Table 9.13, R287. -/
def FAB_DROP_CREDIT (n : Nat) : Fld := ⟨0x4002740 + n * 0x80000, 64, 0⟩
/-- 09_fabric_ports.md Table 9.13, R287. -/
def FAB_DROP_SOURCE (n : Nat) : Fld := ⟨0x4002780 + n * 0x80000, 64, 0⟩
/-- 09_fabric_ports.md Table 9.13, R287. -/
def FAB_DROP_POLICE (n : Nat) : Fld := ⟨0x40027c0 + n * 0x80000, 64, 0⟩
/-- 09_fabric_ports.md Table 9.13, R287. -/
def FAB_DROP_SLOT (n : Nat) : Fld := ⟨0x4002800 + n * 0x80000, 64, 0⟩
/-- 09_fabric_ports.md Table 9.13, R287. -/
def FAB_DROP_NOROUTE (n : Nat) : Fld := ⟨0x4002840 + n * 0x80000, 64, 0⟩
/-- 09_fabric_ports.md Table 9.13, R287. -/
def FAB_DROP_PARTRESET (n : Nat) : Fld := ⟨0x4002880 + n * 0x80000, 64, 0⟩
/-- 09_fabric_ports.md Table 9.13, R287. -/
def FAB_DROP_CORERESET (n : Nat) : Fld := ⟨0x40028c0 + n * 0x80000, 64, 0⟩
/-- 09_fabric_ports.md Table 9.13, R287. -/
def FAB_DROP_FENCED (n : Nat) : Fld := ⟨0x4002900 + n * 0x80000, 64, 0⟩
/-- 09_fabric_ports.md Table 9.13, R287. -/
def FAB_DROP_WINCLOSED (n : Nat) : Fld := ⟨0x4002940 + n * 0x80000, 64, 0⟩
/-- 09_fabric_ports.md Table 9.13, R287. -/
def FAB_DROP_WINRANGE (n : Nat) : Fld := ⟨0x4002980 + n * 0x80000, 64, 0⟩
/-- 09_fabric_ports.md Table 9.13, R287. -/
def FAB_DROP_REGION (n : Nat) : Fld := ⟨0x40029c0 + n * 0x80000, 64, 0⟩
/-- 09_fabric_ports.md Table 9.13, R287. -/
def FAB_DROP_BANKOFF (n : Nat) : Fld := ⟨0x4002a00 + n * 0x80000, 64, 0⟩
/-- 09_fabric_ports.md Table 9.13, R287. -/
def FAB_DROP_LINKDOWN (n : Nat) : Fld := ⟨0x4002a40 + n * 0x80000, 64, 0⟩
/-- 06_core.md Table 6.19, R209. -/
def CORE_CTL_STATE_STATE (c : Nat) : Fld := ⟨0x8000000 + c * 0x800000, 3, 0⟩
/-- 06_core.md Table 6.19, R209. -/
def CORE_CTL_STATE_MCODE_OK (c : Nat) : Fld := ⟨0x8000003 + c * 0x800000, 1, 0⟩
/-- 06_core.md Table 6.19, R209. -/
def CORE_CTL_STATE_RUN_PEND (c : Nat) : Fld := ⟨0x8000004 + c * 0x800000, 1, 0⟩
/-- 06_core.md Table 6.19, R209. -/
def CORE_CTL_STATE_STOP_PEND (c : Nat) : Fld := ⟨0x8000005 + c * 0x800000, 1, 0⟩
/-- 06_core.md Table 6.19, R209. -/
def CORE_CTL_CMD_OP (c : Nat) : Fld := ⟨0x8000020 + c * 0x800000, 4, 0⟩
/-- 06_core.md Table 6.21, R209. -/
def CORE_CTL_ID_LOGICAL (c : Nat) : Fld := ⟨0x8000040 + c * 0x800000, 4, 0⟩
/-- 06_core.md Table 6.21, R209. -/
def CORE_CTL_ID_LVALID (c : Nat) : Fld := ⟨0x8000044 + c * 0x800000, 1, 0⟩
/-- 06_core.md Table 6.21, R209. -/
def CORE_CTL_ID_PART (c : Nat) : Fld := ⟨0x8000048 + c * 0x800000, 4, 0⟩
/-- 06_core.md Table 6.21, R209. -/
def CORE_CTL_ID_PVALID (c : Nat) : Fld := ⟨0x800004c + c * 0x800000, 1, 0⟩
/-- 06_core.md Table 6.21, R209. -/
def CORE_CTL_STEEP_LIST_ADDR (c : Nat) : Fld := ⟨0x8000085 + c * 0x800000, 34, 0⟩
/-- 06_core.md Table 6.21, R209. -/
def CORE_CTL_STEEP_RES_ADDR (c : Nat) : Fld := ⟨0x80000c6 + c * 0x800000, 33, 0⟩
/-- 06_core.md Table 6.21, R209. -/
def CORE_CTL_STEEP_GO_COUNT (c : Nat) : Fld := ⟨0x8000100 + c * 0x800000, 7, 0⟩
/-- 06_core.md Table 6.21, R209. -/
def CORE_CTL_STEEP_STAT_RUN_BUSY (c : Nat) : Fld := ⟨0x8000120 + c * 0x800000, 1, 0⟩
/-- 06_core.md Table 6.21, R209. -/
def CORE_CTL_STEEP_STAT_PEND_BUSY (c : Nat) : Fld := ⟨0x8000121 + c * 0x800000, 1, 0⟩
/-- 06_core.md Table 6.21, R209. -/
def CORE_CTL_STEEP_STAT_LAST (c : Nat) : Fld := ⟨0x8000128 + c * 0x800000, 8, 0⟩
/-- 06_core.md Table 6.21, R209. -/
def CORE_CTL_STEEP_STAT_DONE_SEQ (c : Nat) : Fld := ⟨0x8000130 + c * 0x800000, 16, 0⟩
/-- 00_scope.md Table 0.4, R209. -/
def CORE_CTL_SNAP_TAKE (c : Nat) : Fld := ⟨0x8000140 + c * 0x800000, 1, 0⟩
/-- 00_scope.md Table 0.4, R209. -/
def CORE_CTL_SNAP_CLEAR (c : Nat) : Fld := ⟨0x8000141 + c * 0x800000, 1, 0⟩
/-- 00_scope.md Table 0.4, R209. -/
def CORE_CTL_SNAP_SEQ (c : Nat) : Fld := ⟨0x8000150 + c * 0x800000, 16, 0⟩
/-- 06_core.md Table 6.22, R209. -/
def CORE_CTL_LAND_CNT (c : Nat) : Fld := ⟨0x8000200 + c * 0x800000, 64, 0⟩
/-- 06_core.md Table 6.22, R209. -/
def CORE_CTL_LAND_STALL_CNT (c : Nat) : Fld := ⟨0x8000240 + c * 0x800000, 64, 0⟩
/-- 06_core.md Table 6.22, R209. -/
def CORE_CTL_DROP_WINCLOSED_CNT (c : Nat) : Fld := ⟨0x8000280 + c * 0x800000, 64, 0⟩
/-- 06_core.md Table 6.22, R209. -/
def CORE_CTL_DROP_WINRANGE_CNT (c : Nat) : Fld := ⟨0x80002c0 + c * 0x800000, 64, 0⟩
/-- 06_core.md Table 6.22, R209. -/
def CORE_CTL_DROP_RESET_CNT (c : Nat) : Fld := ⟨0x8000300 + c * 0x800000, 64, 0⟩
/-- 06_core.md Table 6.22, R209. -/
def CORE_CTL_DROP_FENCED_CNT (c : Nat) : Fld := ⟨0x8000340 + c * 0x800000, 64, 0⟩
/-- 06_core.md Table 6.22, R209. -/
def CORE_CTL_ABSORB_CNT (c : Nat) : Fld := ⟨0x8000380 + c * 0x800000, 64, 0⟩
/-- 06_core.md Table 6.22, R209. -/
def CORE_CTL_NACK_RX_CNT (c : Nat) : Fld := ⟨0x80003c0 + c * 0x800000, 64, 0⟩
/-- 06_core.md Table 6.22, R209. -/
def CORE_CTL_CMD_REJ_CNT (c : Nat) : Fld := ⟨0x8000400 + c * 0x800000, 64, 0⟩
/-- 06_core.md Table 6.24, R210. -/
def SEQ_CTL_BANK (c : Nat) : Fld := ⟨0x8080000 + c * 0x800000, 1, 0⟩
/-- 06_core.md Table 6.24, R210. -/
def SEQ_STAT_BANK_ACT (c : Nat) : Fld := ⟨0x8080020 + c * 0x800000, 1, 0⟩
/-- 06_core.md Table 6.24, R210. -/
def SEQ_STAT_PHASE_ST (c : Nat) : Fld := ⟨0x8080021 + c * 0x800000, 2, 0⟩
/-- 06_core.md Table 6.24, R210. -/
def SEQ_STAT_PHASE (c : Nat) : Fld := ⟨0x8080023 + c * 0x800000, 4, 0⟩
/-- 06_core.md Table 6.24, R210. -/
def SEQ_STAT_PC (c : Nat) : Fld := ⟨0x8080027 + c * 0x800000, 14, 0⟩
/-- 06_core.md Table 6.24, R210. -/
def SEQ_MCODE_VERSION (c : Nat) : Fld := ⟨0x8080040 + c * 0x800000, 32, 0⟩
/-- 06_core.md Table 6.24, R210. -/
def SEQ_ILL_PC (c : Nat) : Fld := ⟨0x8080060 + c * 0x800000, 14, 0⟩
/-- 06_core.md Table 6.24, R210. -/
def SEQ_ILL_BANK (c : Nat) : Fld := ⟨0x808006e + c * 0x800000, 1, 0⟩
/-- 06_core.md Table 6.24, R210. -/
def SEQ_ILL_PAST (c : Nat) : Fld := ⟨0x808006f + c * 0x800000, 1, 0⟩
/-- 06_core.md Table 6.24, R210. -/
def SEQ_ILL_VALID (c : Nat) : Fld := ⟨0x808007f + c * 0x800000, 1, 0⟩
/-- 06_core.md Table 6.24, R210. -/
def SEQ_BANK_DESC_VALID (c n : Nat) : Fld := ⟨0x8080080 + c * 0x800000 + n * 0x20, 1, 0⟩
/-- 06_core.md Table 6.24, R210. -/
def SEQ_BANK_DESC_NPHASE_M1 (c n : Nat) : Fld := ⟨0x8080081 + c * 0x800000 + n * 0x20, 4, 0⟩
/-- 06_core.md Table 6.24, R210. -/
def SEQ_BANK_DESC_NINST (c n : Nat) : Fld := ⟨0x8080088 + c * 0x800000 + n * 0x20, 15, 0⟩
/-- 06_core.md Table 6.24, R210. -/
def SEQ_PROG_PAGE_PAGE (c : Nat) : Fld := ⟨0x8080100 + c * 0x800000, 4, 0⟩
/-- 00_scope.md Table 0.4, R210. -/
def SEQ_SNAP_TAKE (c : Nat) : Fld := ⟨0x8080120 + c * 0x800000, 1, 0⟩
/-- 00_scope.md Table 0.4, R210. -/
def SEQ_SNAP_CLEAR (c : Nat) : Fld := ⟨0x8080121 + c * 0x800000, 1, 0⟩
/-- 00_scope.md Table 0.4, R210. -/
def SEQ_SNAP_SEQ (c : Nat) : Fld := ⟨0x8080130 + c * 0x800000, 16, 0⟩
/-- 06_core.md Table 6.24, R210. -/
def SEQ_PHASE_ENTRY (c n i : Nat) : Fld := ⟨0x8080400 + c * 0x800000 + n * 0x200 + i * 0x20, 14, 0⟩
/-- 06_core.md Table 6.25, R210. -/
def SEQ_ADPT_DIR_A_BASE (c n : Nat) : Fld := ⟨0x80a0000 + c * 0x800000 + n * 0x80, 15, 0⟩
/-- 06_core.md Table 6.25, R210. -/
def SEQ_ADPT_DIR_VALID (c n : Nat) : Fld := ⟨0x80a000f + c * 0x800000 + n * 0x80, 1, 0⟩
/-- 06_core.md Table 6.25, R210. -/
def SEQ_ADPT_DIR_B_BASE (c n : Nat) : Fld := ⟨0x80a0010 + c * 0x800000 + n * 0x80, 15, 0⟩
/-- 06_core.md Table 6.25, R210. -/
def SEQ_ADPT_DIR_RANK_M1 (c n : Nat) : Fld := ⟨0x80a0020 + c * 0x800000 + n * 0x80, 6, 0⟩
/-- 06_core.md Table 6.25, R210. -/
def SEQ_ADPT_DIR_DIN (c n : Nat) : Fld := ⟨0x80a0030 + c * 0x800000 + n * 0x80, 8, 0⟩
/-- 06_core.md Table 6.25, R210. -/
def SEQ_ADPT_DIR_DOUT (c n : Nat) : Fld := ⟨0x80a0040 + c * 0x800000 + n * 0x80, 8, 0⟩
/-- 06_core.md Table 6.25, R210. -/
def SEQ_ADPT_DIR_GEN (c n : Nat) : Fld := ⟨0x80a0050 + c * 0x800000 + n * 0x80, 16, 0⟩
/-- 06_core.md Table 6.25, R210. -/
def SEQ_ADPT_DIR_ALPHA (c n : Nat) : Fld := ⟨0x80a0060 + c * 0x800000 + n * 0x80, 32, 0⟩
/-- 06_core.md Table 6.26, R210. -/
def SEQ_TICK_CNT (c : Nat) : Fld := ⟨0x8080800 + c * 0x800000, 64, 0⟩
/-- 06_core.md Table 6.26, R210. -/
def SEQ_OVERRUN_CNT (c : Nat) : Fld := ⟨0x8080840 + c * 0x800000, 64, 0⟩
/-- 06_core.md Table 6.26, R210. -/
def SEQ_ILLEGAL_CNT (c : Nat) : Fld := ⟨0x8080880 + c * 0x800000, 64, 0⟩
/-- 06_core.md Table 6.26, R210. -/
def SEQ_PROG_CORR_CNT (c : Nat) : Fld := ⟨0x80808c0 + c * 0x800000, 64, 0⟩
/-- 06_core.md Table 6.26, R210. -/
def SEQ_STALL_CYC_CNT (c : Nat) : Fld := ⟨0x8080900 + c * 0x800000, 64, 0⟩
/-- 06_core.md Table 6.26, R210. -/
def SEQ_WAIT_TMO_CNT (c : Nat) : Fld := ⟨0x8080940 + c * 0x800000, 64, 0⟩
/-- 06_core.md Table 6.26, R210. -/
def SEQ_ADPT_MIS_CNT (c : Nat) : Fld := ⟨0x8080980 + c * 0x800000, 64, 0⟩
/-- 06_core.md Table 6.26, R210. -/
def SEQ_KV_NOPAGE_CNT (c : Nat) : Fld := ⟨0x80809c0 + c * 0x800000, 64, 0⟩
/-- 06_core.md Table 6.26, R210. -/
def SEQ_STACK_REJ_CNT (c : Nat) : Fld := ⟨0x8080a00 + c * 0x800000, 64, 0⟩
/-- 06_core.md Table 6.26, R210. -/
def SEQ_BANK_REJ_CNT (c : Nat) : Fld := ⟨0x8080a40 + c * 0x800000, 64, 0⟩
/-- 06_core.md Table 6.26, R210. -/
def SEQ_LOCKED_WR (c : Nat) : Fld := ⟨0x8080a80 + c * 0x800000, 64, 0⟩
/-- 06_core.md Table 6.28, R211. -/
def SPAD_STAT_N_OPEN (c : Nat) : Fld := ⟨0x8100000 + c * 0x800000, 7, 0⟩
/-- 06_core.md Table 6.28, R211. -/
def SPAD_STAT_N_HELD (c : Nat) : Fld := ⟨0x8100008 + c * 0x800000, 7, 0⟩
/-- 06_core.md Table 6.28, R211. -/
def SPAD_ERR_LAST_ROW (c : Nat) : Fld := ⟨0x8100040 + c * 0x800000, 15, 0⟩
/-- 06_core.md Table 6.28, R211. -/
def SPAD_ERR_LAST_SLICE (c : Nat) : Fld := ⟨0x810004f + c * 0x800000, 5, 0⟩
/-- 06_core.md Table 6.28, R211. -/
def SPAD_ERR_LAST_UNIT (c : Nat) : Fld := ⟨0x8100054 + c * 0x800000, 3, 0⟩
/-- 06_core.md Table 6.28, R211. -/
def SPAD_ERR_LAST_VALID (c : Nat) : Fld := ⟨0x810007f + c * 0x800000, 1, 0⟩
/-- 06_core.md Table 6.27, R211. -/
def SPAD_ERR_TIME_TIME (c : Nat) : Fld := ⟨0x8100080 + c * 0x800000, 64, 0⟩
/-- 00_scope.md Table 0.4, R211. -/
def SPAD_SNAP_TAKE (c : Nat) : Fld := ⟨0x81000c0 + c * 0x800000, 1, 0⟩
/-- 00_scope.md Table 0.4, R211. -/
def SPAD_SNAP_CLEAR (c : Nat) : Fld := ⟨0x81000c1 + c * 0x800000, 1, 0⟩
/-- 00_scope.md Table 0.4, R211. -/
def SPAD_SNAP_SEQ (c : Nat) : Fld := ⟨0x81000d0 + c * 0x800000, 16, 0⟩
/-- 06_core.md Table 6.28, R211. -/
def SPAD_WIN_BASE (c n : Nat) : Fld := ⟨0x8108000 + c * 0x800000 + n * 0x80, 15, 0⟩
/-- 06_core.md Table 6.28, R211. -/
def SPAD_WIN_STATE (c n : Nat) : Fld := ⟨0x810800f + c * 0x800000 + n * 0x80, 2, 0⟩
/-- 06_core.md Table 6.28, R211. -/
def SPAD_WIN_AUTO (c n : Nat) : Fld := ⟨0x8108011 + c * 0x800000 + n * 0x80, 1, 0⟩
/-- 06_core.md Table 6.28, R211. -/
def SPAD_WIN_SEAL_PEND (c n : Nat) : Fld := ⟨0x8108012 + c * 0x800000 + n * 0x80, 1, 0⟩
/-- 06_core.md Table 6.28, R211. -/
def SPAD_WIN_SHORT (c n : Nat) : Fld := ⟨0x8108013 + c * 0x800000 + n * 0x80, 1, 0⟩
/-- 06_core.md Table 6.28, R211. -/
def SPAD_WIN_SIZE_M1 (c n : Nat) : Fld := ⟨0x8108020 + c * 0x800000 + n * 0x80, 15, 0⟩
/-- 06_core.md Table 6.28, R211. -/
def SPAD_WIN_GEN (c n : Nat) : Fld := ⟨0x8108030 + c * 0x800000 + n * 0x80, 16, 0⟩
/-- 06_core.md Table 6.28, R211. -/
def SPAD_WIN_EXPECT (c n : Nat) : Fld := ⟨0x8108040 + c * 0x800000 + n * 0x80, 17, 0⟩
/-- 06_core.md Table 6.28, R211. -/
def SPAD_WIN_COUNT (c n : Nat) : Fld := ⟨0x8108060 + c * 0x800000 + n * 0x80, 17, 0⟩
/-- 06_core.md Table 6.29, R211. -/
def SPAD_DET_CNT (c : Nat) : Fld := ⟨0x8100200 + c * 0x800000, 64, 0⟩
/-- 06_core.md Table 6.29, R211. -/
def SPAD_INVAL_CNT (c : Nat) : Fld := ⟨0x8100240 + c * 0x800000, 64, 0⟩
/-- 06_core.md Table 6.29, R211. -/
def SPAD_WIN_SHORT_CNT (c : Nat) : Fld := ⟨0x8100280 + c * 0x800000, 64, 0⟩
/-- 06_core.md Table 6.29, R211. -/
def SPAD_WIN_EXCESS_CNT (c : Nat) : Fld := ⟨0x81002c0 + c * 0x800000, 64, 0⟩
/-- 06_core.md Table 6.29, R211. -/
def SPAD_WIN_REOPEN_CNT (c : Nat) : Fld := ⟨0x8100300 + c * 0x800000, 64, 0⟩
/-- 06_core.md Table 6.29, R211. -/
def SPAD_POISON_RD_CNT (c : Nat) : Fld := ⟨0x8100340 + c * 0x800000, 64, 0⟩
/-- 02_arrays.md Table 2.14, R91. -/
def ARR_CTL_SLOT (c n : Nat) : Fld := ⟨0x8200000 + c * 0x800000 + n * 0x200, 12, 0xfff⟩
/-- 02_arrays.md Table 2.14, R91. -/
def ARR_CTL_FMT (c n : Nat) : Fld := ⟨0x820000c + c * 0x800000 + n * 0x200, 1, 0⟩
/-- 02_arrays.md Table 2.14, R91. -/
def ARR_CTL_CMD (c n : Nat) : Fld := ⟨0x820001c + c * 0x800000 + n * 0x200, 4, 0⟩
/-- 02_arrays.md Table 2.15, R91. -/
def ARR_STAT_STATE (c n : Nat) : Fld := ⟨0x8200020 + c * 0x800000 + n * 0x200, 3, 3⟩
/-- 02_arrays.md Table 2.15, R91. -/
def ARR_STAT_SUSPECT (c n : Nat) : Fld := ⟨0x8200023 + c * 0x800000 + n * 0x200, 1, 0⟩
/-- 02_arrays.md Table 2.15, R91. -/
def ARR_STAT_SAT (c n : Nat) : Fld := ⟨0x8200024 + c * 0x800000 + n * 0x200, 1, 0⟩
/-- 02_arrays.md Table 2.15, R91. -/
def ARR_STAT_CHK_MISS (c n : Nat) : Fld := ⟨0x8200025 + c * 0x800000 + n * 0x200, 1, 0⟩
/-- 02_arrays.md Table 2.15, R91. -/
def ARR_STAT_CHK_SKIP (c n : Nat) : Fld := ⟨0x8200026 + c * 0x800000 + n * 0x200, 1, 0⟩
/-- 02_arrays.md Table 2.15, R91. -/
def ARR_STAT_PROOF_MISS (c n : Nat) : Fld := ⟨0x8200027 + c * 0x800000 + n * 0x200, 1, 0⟩
/-- 02_arrays.md Table 2.15, R91. -/
def ARR_STAT_FIRE_REFUSED (c n : Nat) : Fld := ⟨0x8200028 + c * 0x800000 + n * 0x200, 1, 0⟩
/-- 02_arrays.md Table 2.15, R91. -/
def ARR_STAT_SLOT_ACT (c n : Nat) : Fld := ⟨0x8200030 + c * 0x800000 + n * 0x200, 12, 0xfff⟩
/-- 02_arrays.md Table 2.15, R91. -/
def ARR_STAT_FMT_ACT (c n : Nat) : Fld := ⟨0x820003c + c * 0x800000 + n * 0x200, 1, 0⟩
/-- 02_arrays.md Table 2.16, R91. -/
def ARR_ACC_TRIM_GROUP (c n : Nat) : Fld := ⟨0x8200040 + c * 0x800000 + n * 0x200, 4, 0⟩
/-- 02_arrays.md Table 2.16, R91. -/
def ARR_ACC_SNAP_VIEW (c n : Nat) : Fld := ⟨0x8200048 + c * 0x800000 + n * 0x200, 1, 0⟩
/-- 02_arrays.md Table 2.17, R91. -/
def ARR_TRIM_OFS_OFS0 (c n : Nat) : Fld := ⟨0x8200060 + c * 0x800000 + n * 0x200, 6, 0⟩
/-- 02_arrays.md Table 2.17, R91. -/
def ARR_TRIM_OFS_OFS1 (c n : Nat) : Fld := ⟨0x8200068 + c * 0x800000 + n * 0x200, 6, 0⟩
/-- 02_arrays.md Table 2.17, R91. -/
def ARR_TRIM_OFS_OFS2 (c n : Nat) : Fld := ⟨0x8200070 + c * 0x800000 + n * 0x200, 6, 0⟩
/-- 02_arrays.md Table 2.17, R91. -/
def ARR_TRIM_OFS_OFS3 (c n : Nat) : Fld := ⟨0x8200078 + c * 0x800000 + n * 0x200, 6, 0⟩
/-- 02_arrays.md Table 2.18, R91. -/
def ARR_TRIM_GAIN_GAIN0 (c n : Nat) : Fld := ⟨0x8200080 + c * 0x800000 + n * 0x200, 5, 0⟩
/-- 02_arrays.md Table 2.18, R91. -/
def ARR_TRIM_GAIN_GAIN1 (c n : Nat) : Fld := ⟨0x8200088 + c * 0x800000 + n * 0x200, 5, 0⟩
/-- 02_arrays.md Table 2.18, R91. -/
def ARR_TRIM_GAIN_GAIN2 (c n : Nat) : Fld := ⟨0x8200090 + c * 0x800000 + n * 0x200, 5, 0⟩
/-- 02_arrays.md Table 2.18, R91. -/
def ARR_TRIM_GAIN_GAIN3 (c n : Nat) : Fld := ⟨0x8200098 + c * 0x800000 + n * 0x200, 5, 0⟩
/-- 02_arrays.md Table 2.19, R91. -/
def ARR_TRIM_REF_REF_I (c n : Nat) : Fld := ⟨0x82000a0 + c * 0x800000 + n * 0x200, 8, 0⟩
/-- 00_scope.md Table 0.4, R91. -/
def ARR_SNAP_TAKE (c n : Nat) : Fld := ⟨0x82000c0 + c * 0x800000 + n * 0x200, 1, 0⟩
/-- 00_scope.md Table 0.4, R91. -/
def ARR_SNAP_CLEAR (c n : Nat) : Fld := ⟨0x82000c1 + c * 0x800000 + n * 0x200, 1, 0⟩
/-- 00_scope.md Table 0.4, R91. -/
def ARR_SNAP_SEQ (c n : Nat) : Fld := ⟨0x82000d0 + c * 0x800000 + n * 0x200, 16, 0⟩
/-- 02_arrays.md Table 2.20, R91. -/
def ARR_CHK_LAST_DELTA_EVEN (c n : Nat) : Fld := ⟨0x82000e0 + c * 0x800000 + n * 0x200, 16, 0⟩
/-- 02_arrays.md Table 2.20, R91. -/
def ARR_CHK_LAST_DELTA_ODD (c n : Nat) : Fld := ⟨0x82000f0 + c * 0x800000 + n * 0x200, 16, 0⟩
/-- 02_arrays.md Table 2.21, R92. -/
def ARR_FIRE_CNT (c n : Nat) : Fld := ⟨0x8200100 + c * 0x800000 + n * 0x200, 64, 0⟩
/-- 02_arrays.md Table 2.21, R92. -/
def ARR_ZERO_CNT (c n : Nat) : Fld := ⟨0x8200140 + c * 0x800000 + n * 0x200, 64, 0⟩
/-- 02_arrays.md Table 2.21, R92. -/
def ARR_SAT_CNT (c n : Nat) : Fld := ⟨0x8200180 + c * 0x800000 + n * 0x200, 64, 0⟩
/-- 02_arrays.md Table 2.21, R92. -/
def ARR_CHK_MISS_CNT (c n : Nat) : Fld := ⟨0x82001c0 + c * 0x800000 + n * 0x200, 64, 0⟩
/-- 04_calibration.md Table 4.7, R145. -/
def CAL_CTL_INTERP (c : Nat) : Fld := ⟨0x8400000 + c * 0x800000, 1, 0⟩
/-- 04_calibration.md Table 4.7, R145. -/
def CAL_CTL_DMON_EN (c : Nat) : Fld := ⟨0x8400001 + c * 0x800000, 1, 0⟩
/-- 04_calibration.md Table 4.7, R145. -/
def CAL_CTL_TRACK_EN (c : Nat) : Fld := ⟨0x8400002 + c * 0x800000, 1, 0⟩
/-- 04_calibration.md Table 4.7, R145. -/
def CAL_CTL_TSTEP (c : Nat) : Fld := ⟨0x8400004 + c * 0x800000, 4, 4⟩
/-- 04_calibration.md Table 4.7, R145. -/
def CAL_CTL_DMON_LOG2 (c : Nat) : Fld := ⟨0x8400008 + c * 0x800000, 5, 0x10⟩
/-- 04_calibration.md Table 4.7, R145. -/
def CAL_SRC_SRC (c : Nat) : Fld := ⟨0x8400020 + c * 0x800000, 1, 0⟩
/-- 04_calibration.md Table 4.8, R145. -/
def CAL_CMD_OP (c : Nat) : Fld := ⟨0x8400040 + c * 0x800000, 4, 0⟩
/-- 04_calibration.md Table 4.8, R145. -/
def CAL_CMD_SET (c : Nat) : Fld := ⟨0x8400044 + c * 0x800000, 2, 0⟩
/-- 04_calibration.md Table 4.8, R145. -/
def CAL_CMD_TARGET (c : Nat) : Fld := ⟨0x8400046 + c * 0x800000, 1, 0⟩
/-- 04_calibration.md Table 4.8, R145. -/
def CAL_CMD_ARRAY (c : Nat) : Fld := ⟨0x8400050 + c * 0x800000, 12, 0⟩
/-- 04_calibration.md Table 4.8, R145. -/
def CAL_CMD_ALL (c : Nat) : Fld := ⟨0x840005c + c * 0x800000, 1, 0⟩
/-- 04_calibration.md Table 4.9, R145. -/
def CAL_STATUS_CMD_BUSY (c : Nat) : Fld := ⟨0x8400060 + c * 0x800000, 1, 0⟩
/-- 04_calibration.md Table 4.9, R145. -/
def CAL_STATUS_PASS_BUSY (c : Nat) : Fld := ⟨0x8400061 + c * 0x800000, 1, 0⟩
/-- 04_calibration.md Table 4.9, R145. -/
def CAL_STATUS_RESULT (c : Nat) : Fld := ⟨0x8400068 + c * 0x800000, 8, 0⟩
/-- 04_calibration.md Table 4.9, R145. -/
def CAL_STATUS_SET_VALID (c : Nat) : Fld := ⟨0x8400070 + c * 0x800000, 4, 0⟩
/-- 04_calibration.md Table 4.9, R145. -/
def CAL_STATUS_SET_SYNTH (c : Nat) : Fld := ⟨0x8400074 + c * 0x800000, 4, 0⟩
/-- 04_calibration.md Table 4.9, R145. -/
def CAL_TEMP_T_NOW (c : Nat) : Fld := ⟨0x8400080 + c * 0x800000, 16, 0⟩
/-- 04_calibration.md Table 4.9, R145. -/
def CAL_TEMP_T_APPLIED (c : Nat) : Fld := ⟨0x8400090 + c * 0x800000, 16, 0⟩
/-- 04_calibration.md Table 4.10, R145. -/
def CAL_CHK_BAND_BASE (c : Nat) : Fld := ⟨0x84000a0 + c * 0x800000, 8, 0x1a⟩
/-- 04_calibration.md Table 4.10, R145. -/
def CAL_CHK_BAND_PER_BLK (c : Nat) : Fld := ⟨0x84000a8 + c * 0x800000, 4, 3⟩
/-- 04_calibration.md Table 4.10, R145. -/
def CAL_DMON_LIM_LIMIT (c : Nat) : Fld := ⟨0x84000c0 + c * 0x800000, 8, 0x18⟩
/-- 04_calibration.md Table 4.10, R145. -/
def CAL_DMON_LIM_REF_MIN (c : Nat) : Fld := ⟨0x84000d0 + c * 0x800000, 16, 0x100⟩
/-- 04_calibration.md Table 4.10, R145. -/
def CAL_STAT_MIN_MIN_N (c : Nat) : Fld := ⟨0x84000e0 + c * 0x800000, 24, 0x4000⟩
/-- 04_calibration.md Table 4.11, R145. -/
def CAL_SET_PAGE_PAGE (c : Nat) : Fld := ⟨0x8400100 + c * 0x800000, 5, 0⟩
/-- 04_calibration.md Table 4.11, R145. -/
def CAL_DMON_WORST_ARRAY (c : Nat) : Fld := ⟨0x8400120 + c * 0x800000, 12, 0⟩
/-- 04_calibration.md Table 4.11, R145. -/
def CAL_DMON_WORST_D (c : Nat) : Fld := ⟨0x8400130 + c * 0x800000, 12, 0⟩
/-- 04_calibration.md Table 4.6, R145. -/
def CAL_DMON_NUM_NUM (c : Nat) : Fld := ⟨0x8400140 + c * 0x800000, 64, 0⟩
/-- 00_scope.md Table 0.4, R145. -/
def CAL_SNAP_TAKE (c : Nat) : Fld := ⟨0x8400180 + c * 0x800000, 1, 0⟩
/-- 00_scope.md Table 0.4, R145. -/
def CAL_SNAP_CLEAR (c : Nat) : Fld := ⟨0x8400181 + c * 0x800000, 1, 0⟩
/-- 00_scope.md Table 0.4, R145. -/
def CAL_SNAP_SEQ (c : Nat) : Fld := ⟨0x8400190 + c * 0x800000, 16, 0⟩
/-- 04_calibration.md Table 4.11, R145. -/
def CAL_RESTEEP_REQ (c n : Nat) : Fld := ⟨0x8400800 + c * 0x800000 + n * 0x20, 32, 0⟩
/-- 04_calibration.md Table 4.11, R145. -/
def CAL_CORR_REF (c n : Nat) : Fld := ⟨0x8408000 + c * 0x800000 + n * 0x20, 8, 0⟩
/-- 04_calibration.md Table 4.11, R145. -/
def CAL_CORR_OFS (c n : Nat) : Fld := ⟨0x8408008 + c * 0x800000 + n * 0x20, 6, 0⟩
/-- 04_calibration.md Table 4.11, R145. -/
def CAL_CORR_D_LAST (c n : Nat) : Fld := ⟨0x8408010 + c * 0x800000 + n * 0x20, 12, 0⟩
/-- 04_calibration.md Table 4.12, R145. -/
def CAL_PASS_CNT (c : Nat) : Fld := ⟨0x8400200 + c * 0x800000, 64, 0⟩
/-- 04_calibration.md Table 4.12, R145. -/
def CAL_FULL_CNT (c : Nat) : Fld := ⟨0x8400240 + c * 0x800000, 64, 0⟩
/-- 04_calibration.md Table 4.12, R145. -/
def CAL_TRIM_CLIP_CNT (c : Nat) : Fld := ⟨0x8400280 + c * 0x800000, 64, 0⟩
/-- 04_calibration.md Table 4.12, R145. -/
def CAL_REC_BAD_CNT (c : Nat) : Fld := ⟨0x84002c0 + c * 0x800000, 64, 0⟩
/-- 04_calibration.md Table 4.12, R145. -/
def CAL_RESTEEP_REQ_CNT (c : Nat) : Fld := ⟨0x8400300 + c * 0x800000, 64, 0⟩
/-- 04_calibration.md Table 4.12, R145. -/
def CAL_TSENSE_INV_CNT (c : Nat) : Fld := ⟨0x8400340 + c * 0x800000, 64, 0⟩
/-- 04_calibration.md Table 4.12, R145. -/
def CAL_STAT_EXCL_CNT (c : Nat) : Fld := ⟨0x8400380 + c * 0x800000, 64, 0⟩
/-- 04_calibration.md Table 4.12, R145. -/
def CAL_LOCKED_WR (c : Nat) : Fld := ⟨0x84003c0 + c * 0x800000, 64, 0⟩
/-- 03_numerics.md Table 3.9, R121. -/
def LEAVEN_CTL_WIN_LOG2 (c : Nat) : Fld := ⟨0x8480000 + c * 0x800000, 4, 0xc⟩
/-- 03_numerics.md Table 3.9, R121. -/
def LEAVEN_CTL_WIN_MASK (c : Nat) : Fld := ⟨0x8480004 + c * 0x800000, 4, 0xf⟩
/-- 03_numerics.md Table 3.8, R121. -/
def LEAVEN_WIN_NUM_NUM (c : Nat) : Fld := ⟨0x8480040 + c * 0x800000, 64, 0xffffffffffffffff⟩
/-- 00_scope.md Table 0.4, R121. -/
def LEAVEN_SNAP_TAKE (c : Nat) : Fld := ⟨0x8480080 + c * 0x800000, 1, 0⟩
/-- 00_scope.md Table 0.4, R121. -/
def LEAVEN_SNAP_CLEAR (c : Nat) : Fld := ⟨0x8480081 + c * 0x800000, 1, 0⟩
/-- 00_scope.md Table 0.4, R121. -/
def LEAVEN_SNAP_SEQ (c : Nat) : Fld := ⟨0x8480090 + c * 0x800000, 16, 0⟩
/-- 03_numerics.md Table 3.8, R121. -/
def LEAVEN_WINMAP_MAP (c n : Nat) : Fld := ⟨0x8480800 + c * 0x800000 + n * 0x20, 32, 0⟩
/-- 03_numerics.md Table 3.10, R121. -/
def LEAVEN_RCP_CTL_AFMT (c n : Nat) : Fld := ⟨0x8488000 + c * 0x800000 + n * 0x80, 1, 0⟩
/-- 03_numerics.md Table 3.10, R121. -/
def LEAVEN_RCP_CTL_RANGE (c n : Nat) : Fld := ⟨0x8488001 + c * 0x800000 + n * 0x80, 2, 0⟩
/-- 03_numerics.md Table 3.10, R121. -/
def LEAVEN_RCP_CTL_BLK (c n : Nat) : Fld := ⟨0x8488003 + c * 0x800000 + n * 0x80, 2, 0⟩
/-- 03_numerics.md Table 3.10, R121. -/
def LEAVEN_RCP_CTL_FINE (c n : Nat) : Fld := ⟨0x8488005 + c * 0x800000 + n * 0x80, 1, 0⟩
/-- 03_numerics.md Table 3.10, R121. -/
def LEAVEN_RCP_CTL_LT (c n : Nat) : Fld := ⟨0x8488008 + c * 0x800000 + n * 0x80, 8, 0⟩
/-- 03_numerics.md Table 3.10, R121. -/
def LEAVEN_RCP_CTL_LAYER (c n : Nat) : Fld := ⟨0x8488010 + c * 0x800000 + n * 0x80, 12, 0⟩
/-- 03_numerics.md Table 3.11, R121. -/
def LEAVEN_RCP_ASCALE_SCALE (c n : Nat) : Fld := ⟨0x8488020 + c * 0x800000 + n * 0x80, 32, 0x3f800000⟩
/-- 03_numerics.md Table 3.11, R121. -/
def LEAVEN_RCP_WSCALE_SCALE (c n : Nat) : Fld := ⟨0x8488040 + c * 0x800000 + n * 0x80, 32, 0x3f800000⟩
/-- 03_numerics.md Table 3.12, R121. -/
def LEAVEN_RCP_ENV_VALID (c n : Nat) : Fld := ⟨0x8488060 + c * 0x800000 + n * 0x80, 1, 0⟩
/-- 03_numerics.md Table 3.12, R121. -/
def LEAVEN_RCP_ENV_FINE_OK (c n : Nat) : Fld := ⟨0x8488061 + c * 0x800000 + n * 0x80, 1, 0⟩
/-- 03_numerics.md Table 3.12, R121. -/
def LEAVEN_RCP_ENV_A4_OK (c n : Nat) : Fld := ⟨0x8488062 + c * 0x800000 + n * 0x80, 1, 0⟩
/-- 03_numerics.md Table 3.12, R121. -/
def LEAVEN_RCP_ENV_LEAVEN_OK (c n : Nat) : Fld := ⟨0x8488063 + c * 0x800000 + n * 0x80, 1, 0⟩
/-- 03_numerics.md Table 3.13, R121. -/
def LEAVEN_LFLAG_SAT (c n : Nat) : Fld := ⟨0x8490000 + c * 0x800000 + n * 0x20, 1, 0⟩
/-- 03_numerics.md Table 3.13, R121. -/
def LEAVEN_LFLAG_OUTLIER_OVF (c n : Nat) : Fld := ⟨0x8490001 + c * 0x800000 + n * 0x20, 1, 0⟩
/-- 03_numerics.md Table 3.13, R121. -/
def LEAVEN_LFLAG_PROOF_MISS (c n : Nat) : Fld := ⟨0x8490002 + c * 0x800000 + n * 0x20, 1, 0⟩
/-- 03_numerics.md Table 3.13, R121. -/
def LEAVEN_LFLAG_CHK_MISS (c n : Nat) : Fld := ⟨0x8490003 + c * 0x800000 + n * 0x20, 1, 0⟩
/-- 03_numerics.md Tables 3.8 and 3.10, R121. -/
def LEAVEN_RCP_CTL_ACT_AFMT (c n : Nat) : Fld := ⟨0x8498000 + c * 0x800000 + n * 0x20, 1, 0⟩
/-- 03_numerics.md Tables 3.8 and 3.10, R121. -/
def LEAVEN_RCP_CTL_ACT_RANGE (c n : Nat) : Fld := ⟨0x8498001 + c * 0x800000 + n * 0x20, 2, 0⟩
/-- 03_numerics.md Tables 3.8 and 3.10, R121. -/
def LEAVEN_RCP_CTL_ACT_BLK (c n : Nat) : Fld := ⟨0x8498003 + c * 0x800000 + n * 0x20, 2, 0⟩
/-- 03_numerics.md Tables 3.8 and 3.10, R121. -/
def LEAVEN_RCP_CTL_ACT_FINE (c n : Nat) : Fld := ⟨0x8498005 + c * 0x800000 + n * 0x20, 1, 0⟩
/-- 03_numerics.md Tables 3.8 and 3.10, R121. -/
def LEAVEN_RCP_CTL_ACT_LT (c n : Nat) : Fld := ⟨0x8498008 + c * 0x800000 + n * 0x20, 8, 0⟩
/-- 03_numerics.md Tables 3.8 and 3.10, R121. -/
def LEAVEN_RCP_CTL_ACT_LAYER (c n : Nat) : Fld := ⟨0x8498010 + c * 0x800000 + n * 0x20, 12, 0⟩
/-- 03_numerics.md Table 3.13, R121. -/
def LEAVEN_FMAX_SMAX (c n : Nat) : Fld := ⟨0x84a0000 + c * 0x800000 + n * 0x20, 8, 0⟩
/-- 03_numerics.md Table 3.13, R121. -/
def LEAVEN_FMAX_CLR (c n : Nat) : Fld := ⟨0x84a001f + c * 0x800000 + n * 0x20, 1, 0⟩
/-- 03_numerics.md Table 3.14, R121. -/
def LEAVEN_QUANT_CNT (c : Nat) : Fld := ⟨0x8480200 + c * 0x800000, 64, 0⟩
/-- 03_numerics.md Table 3.14, R121. -/
def LEAVEN_OUTLIER_CNT (c : Nat) : Fld := ⟨0x8480240 + c * 0x800000, 64, 0⟩
/-- 03_numerics.md Table 3.14, R121. -/
def LEAVEN_OUTLIER_OVF_CNT (c : Nat) : Fld := ⟨0x8480280 + c * 0x800000, 64, 0⟩
/-- 03_numerics.md Table 3.14, R121. -/
def LEAVEN_ROWS_DROP_CNT (c : Nat) : Fld := ⟨0x84802c0 + c * 0x800000, 64, 0⟩
/-- 03_numerics.md Table 3.14, R121. -/
def LEAVEN_QCLIP_CNT (c : Nat) : Fld := ⟨0x8480300 + c * 0x800000, 64, 0⟩
/-- 03_numerics.md Table 3.14, R121. -/
def LEAVEN_EXPFLOOR_CNT (c : Nat) : Fld := ⟨0x8480340 + c * 0x800000, 64, 0⟩
/-- 03_numerics.md Table 3.14, R121. -/
def LEAVEN_RCP_REJ_CNT (c : Nat) : Fld := ⟨0x8480380 + c * 0x800000, 64, 0⟩
/-- 03_numerics.md Table 3.14, R121. -/
def LEAVEN_AUTOPROM_CNT (c : Nat) : Fld := ⟨0x84803c0 + c * 0x800000, 64, 0⟩
/-- 03_numerics.md Table 3.14, R121. -/
def LEAVEN_FMT_MIS_CNT (c : Nat) : Fld := ⟨0x8480400 + c * 0x800000, 64, 0⟩
/-- 03_numerics.md Table 3.14, R121. -/
def LEAVEN_LOCKED_WR (c : Nat) : Fld := ⟨0x8480440 + c * 0x800000, 64, 0⟩
/-- 03_numerics.md Table 3.16, R122. -/
def PROOF_CTL_EN (c : Nat) : Fld := ⟨0x8500000 + c * 0x800000, 1, 1⟩
/-- 03_numerics.md Table 3.16, R122. -/
def PROOF_CTL_MISS_COLS (c : Nat) : Fld := ⟨0x8500008 + c * 0x800000, 8, 0xc⟩
/-- 03_numerics.md Table 3.16, R122. -/
def PROOF_CTL_GROSS (c : Nat) : Fld := ⟨0x8500010 + c * 0x800000, 4, 3⟩
/-- 03_numerics.md Table 3.16, R122. -/
def PROOF_CTL_SUSP_WT (c : Nat) : Fld := ⟨0x8500014 + c * 0x800000, 8, 0x40⟩
/-- 03_numerics.md Table 3.16, R122. -/
def PROOF_SIGMA_SIGMA (c : Nat) : Fld := ⟨0x8500020 + c * 0x800000, 12, 0x74⟩
/-- 03_numerics.md Table 3.17, R122. -/
def PROOF_SEED_SEED (c : Nat) : Fld := ⟨0x8500040 + c * 0x800000, 64, (if c = 0 then 1 else c)⟩
/-- 03_numerics.md Table 3.17, R122. -/
def PROOF_GOLD_BASE_BASE (c : Nat) : Fld := ⟨0x8500091 + c * 0x800000, 22, 0⟩
/-- 00_scope.md Table 0.4, R122. -/
def PROOF_SNAP_TAKE (c : Nat) : Fld := ⟨0x85000c0 + c * 0x800000, 1, 0⟩
/-- 00_scope.md Table 0.4, R122. -/
def PROOF_SNAP_CLEAR (c : Nat) : Fld := ⟨0x85000c1 + c * 0x800000, 1, 0⟩
/-- 00_scope.md Table 0.4, R122. -/
def PROOF_SNAP_SEQ (c : Nat) : Fld := ⟨0x85000d0 + c * 0x800000, 16, 0⟩
/-- 03_numerics.md Table 3.17, R122. -/
def PROOF_WATCH_SLOT (c n : Nat) : Fld := ⟨0x8500100 + c * 0x800000 + n * 0x20, 12, 0⟩
/-- 03_numerics.md Table 3.17, R122. -/
def PROOF_WATCH_EN (c n : Nat) : Fld := ⟨0x850011f + c * 0x800000 + n * 0x20, 1, 0⟩
/-- 03_numerics.md Table 3.18, R122. -/
def PROOF_LAST_SLOT (c : Nat) : Fld := ⟨0x8500200 + c * 0x800000, 12, 0⟩
/-- 03_numerics.md Table 3.18, R122. -/
def PROOF_LAST_ARRAY (c : Nat) : Fld := ⟨0x850020c + c * 0x800000, 12, 0⟩
/-- 03_numerics.md Table 3.18, R122. -/
def PROOF_LAST_FINE (c : Nat) : Fld := ⟨0x8500218 + c * 0x800000, 1, 0⟩
/-- 03_numerics.md Table 3.18, R122. -/
def PROOF_LAST_LEAVEN (c : Nat) : Fld := ⟨0x8500219 + c * 0x800000, 1, 0⟩
/-- 03_numerics.md Table 3.18, R122. -/
def PROOF_LAST_MISS (c : Nat) : Fld := ⟨0x850021a + c * 0x800000, 1, 0⟩
/-- 03_numerics.md Table 3.18, R122. -/
def PROOF_LAST_GROSS_HIT (c : Nat) : Fld := ⟨0x850021b + c * 0x800000, 1, 0⟩
/-- 03_numerics.md Table 3.18, R122. -/
def PROOF_LAST_EXCEED (c : Nat) : Fld := ⟨0x850021c + c * 0x800000, 13, 0⟩
/-- 03_numerics.md Table 3.18, R122. -/
def PROOF_LAST_WORST (c : Nat) : Fld := ⟨0x8500229 + c * 0x800000, 15, 0⟩
/-- 03_numerics.md Table 3.18, R122. -/
def PROOF_LAST_RI (c : Nat) : Fld := ⟨0x8500238 + c * 0x800000, 8, 0⟩
/-- 03_numerics.md Table 3.15, R122. -/
def PROOF_LAST_TIME_TIME (c : Nat) : Fld := ⟨0x8500240 + c * 0x800000, 64, 0⟩
/-- 03_numerics.md Table 3.19, R122. -/
def PROOF_RUN_CNT (c : Nat) : Fld := ⟨0x8500280 + c * 0x800000, 64, 0⟩
/-- 03_numerics.md Table 3.19, R122. -/
def PROOF_MISS_CNT (c : Nat) : Fld := ⟨0x85002c0 + c * 0x800000, 64, 0⟩
/-- 03_numerics.md Table 3.19, R122. -/
def PROOF_SKIP_ZERO_CNT (c : Nat) : Fld := ⟨0x8500300 + c * 0x800000, 64, 0⟩
/-- 03_numerics.md Table 3.19, R122. -/
def PROOF_SKIP_BUSY_CNT (c : Nat) : Fld := ⟨0x8500340 + c * 0x800000, 64, 0⟩
/-- 03_numerics.md Table 3.19, R122. -/
def PROOF_SKIP_POISON_CNT (c : Nat) : Fld := ⟨0x8500380 + c * 0x800000, 64, 0⟩
/-- 03_numerics.md Table 3.19, R122. -/
def PROOF_LOCKED_WR (c : Nat) : Fld := ⟨0x85003c0 + c * 0x800000, 64, 0⟩
/-- 08_memory_and_mesh.md Table 8.14, R260. -/
def RTR_CTL_EN (c : Nat) : Fld := ⟨0x8580000 + c * 0x800000, 1, 0⟩
/-- 08_memory_and_mesh.md Table 8.14, R260. -/
def RTR_STAT_PRESENT (c : Nat) : Fld := ⟨0x8580020 + c * 0x800000, 1, 1⟩
/-- 08_memory_and_mesh.md Table 8.14, R260. -/
def RTR_STAT_EN_ACT (c : Nat) : Fld := ⟨0x8580021 + c * 0x800000, 1, 0⟩
/-- 08_memory_and_mesh.md Table 8.14, R260. -/
def RTR_STAT_DIST_VALID (c : Nat) : Fld := ⟨0x8580022 + c * 0x800000, 1, 0⟩
/-- 00_scope.md Table 0.4, R260. -/
def RTR_SNAP_TAKE (c : Nat) : Fld := ⟨0x8580040 + c * 0x800000, 1, 0⟩
/-- 00_scope.md Table 0.4, R260. -/
def RTR_SNAP_CLEAR (c : Nat) : Fld := ⟨0x8580041 + c * 0x800000, 1, 0⟩
/-- 00_scope.md Table 0.4, R260. -/
def RTR_SNAP_SEQ (c : Nat) : Fld := ⟨0x8580050 + c * 0x800000, 16, 0⟩
/-- 08_memory_and_mesh.md Table 8.14, R260. -/
def RTR_REGION_BASE (c n : Nat) : Fld := ⟨0x8580200 + c * 0x800000 + n * 0x40, 19, 0⟩
/-- 08_memory_and_mesh.md Table 8.14, R260. -/
def RTR_REGION_SIZE (c n : Nat) : Fld := ⟨0x8580214 + c * 0x800000 + n * 0x40, 19, 0⟩
/-- 08_memory_and_mesh.md Table 8.14, R260. -/
def RTR_REGION_RD (c n : Nat) : Fld := ⟨0x8580227 + c * 0x800000 + n * 0x40, 1, 0⟩
/-- 08_memory_and_mesh.md Table 8.14, R260. -/
def RTR_REGION_WR (c n : Nat) : Fld := ⟨0x8580228 + c * 0x800000 + n * 0x40, 1, 0⟩
/-- 08_memory_and_mesh.md Table 8.14, R260. -/
def RTR_REGION_VALID (c n : Nat) : Fld := ⟨0x8580229 + c * 0x800000 + n * 0x40, 1, 0⟩
/-- 08_memory_and_mesh.md Table 8.14, R260. -/
def RTR_ROUTE_OUT (c n : Nat) : Fld := ⟨0x8580800 + c * 0x800000 + n * 0x20, 3, 7⟩
/-- 08_memory_and_mesh.md Table 8.14, R260. -/
def RTR_ROUTE_ESC (c n : Nat) : Fld := ⟨0x8580803 + c * 0x800000 + n * 0x20, 1, 0⟩
/-- 08_memory_and_mesh.md Table 8.14, R260. -/
def RTR_CORE_DIST_HOPS (c n : Nat) : Fld := ⟨0x8581000 + c * 0x800000 + n * 0x20, 6, 0⟩
/-- 08_memory_and_mesh.md Table 8.14, R260. -/
def RTR_CORE_DIST_LAT (c n : Nat) : Fld := ⟨0x8581008 + c * 0x800000 + n * 0x20, 10, 0⟩
/-- 08_memory_and_mesh.md Table 8.14, R260. -/
def RTR_CORE_DIST_REACH (c n : Nat) : Fld := ⟨0x8581012 + c * 0x800000 + n * 0x20, 1, 0⟩
/-- 08_memory_and_mesh.md Table 8.14, R260. -/
def RTR_CORE_DIST_SEAM (c n : Nat) : Fld := ⟨0x8581013 + c * 0x800000 + n * 0x20, 1, 0⟩
/-- 08_memory_and_mesh.md Table 8.15, R260. -/
def RTR_FLIT_CNT (c : Nat) : Fld := ⟨0x8581800 + c * 0x800000, 64, 0⟩
/-- 08_memory_and_mesh.md Table 8.15, R260. -/
def RTR_INJ_CNT (c : Nat) : Fld := ⟨0x8581840 + c * 0x800000, 64, 0⟩
/-- 08_memory_and_mesh.md Table 8.15, R260. -/
def RTR_EJ_CNT (c : Nat) : Fld := ⟨0x8581880 + c * 0x800000, 64, 0⟩
/-- 08_memory_and_mesh.md Table 8.15, R260. -/
def RTR_CREDIT_STALL_CYC_CNT (c : Nat) : Fld := ⟨0x85818c0 + c * 0x800000, 64, 0⟩
/-- 08_memory_and_mesh.md Table 8.15, R260. -/
def RTR_ESC_CNT (c : Nat) : Fld := ⟨0x8581900 + c * 0x800000, 64, 0⟩
/-- 08_memory_and_mesh.md Table 8.15, R260. -/
def RTR_MCAST_FORK_CNT (c : Nat) : Fld := ⟨0x8581940 + c * 0x800000, 64, 0⟩
/-- 08_memory_and_mesh.md Table 8.15, R260. -/
def RTR_DROP_NOROUTE_CNT (c : Nat) : Fld := ⟨0x8581980 + c * 0x800000, 64, 0⟩
/-- 08_memory_and_mesh.md Table 8.15, R260. -/
def RTR_REGION_REJ_CNT (c : Nat) : Fld := ⟨0x85819c0 + c * 0x800000, 64, 0⟩
/-- 08_memory_and_mesh.md Table 8.15, R260. -/
def RTR_CORR_CNT (c : Nat) : Fld := ⟨0x8581a00 + c * 0x800000, 64, 0⟩
/-- 08_memory_and_mesh.md Table 8.15, R260. -/
def RTR_POISON_CNT (c : Nat) : Fld := ⟨0x8581a40 + c * 0x800000, 64, 0⟩
/-- 08_memory_and_mesh.md Table 8.15, R260. -/
def RTR_HDR_ERR_CNT (c : Nat) : Fld := ⟨0x8581a80 + c * 0x800000, 64, 0⟩
/-- 08_memory_and_mesh.md Table 8.15, R260. -/
def RTR_LOCKED_WR (c : Nat) : Fld := ⟨0x8581ac0 + c * 0x800000, 64, 0⟩
/-- 11_serving.md Table 11.15, R336. -/
def SRV_CTL_EN : Fld := ⟨0x18000000, 1, 0⟩
/-- 11_serving.md Table 11.15, R336. -/
def SRV_CTL_PF_WT : Fld := ⟨0x18000008, 8, 0x40⟩
/-- 11_serving.md Table 11.15, R336. -/
def SRV_STAT_IN_USE : Fld := ⟨0x18000020, 14, 0⟩
/-- 00_scope.md Table 0.4, R336. -/
def SRV_SNAP_TAKE : Fld := ⟨0x18000040, 1, 0⟩
/-- 00_scope.md Table 0.4, R336. -/
def SRV_SNAP_CLEAR : Fld := ⟨0x18000041, 1, 0⟩
/-- 00_scope.md Table 0.4, R336. -/
def SRV_SNAP_SEQ : Fld := ⟨0x18000050, 16, 0⟩
/-- 11_serving.md Table 11.16, R336. -/
def SRV_PART_HEAD (n : Nat) : Fld := ⟨0x18000801 + n * 0x200, 1, 0⟩
/-- 11_serving.md Table 11.16, R336. -/
def SRV_PART_LB (n : Nat) : Fld := ⟨0x18000802 + n * 0x200, 13, 0⟩
/-- 11_serving.md Table 11.16, R336. -/
def SRV_PART_STAGES_M1 (n : Nat) : Fld := ⟨0x1800080f + n * 0x200, 11, 0⟩
/-- 11_serving.md Table 11.16, R336. -/
def SRV_PART_PF_LANES (n : Nat) : Fld := ⟨0x18000820 + n * 0x200, 11, 0⟩
/-- 11_serving.md Table 11.16, R336. -/
def SRV_PART_RETRY_LIM (n : Nat) : Fld := ⟨0x18000830 + n * 0x200, 4, 8⟩
/-- 11_serving.md Table 11.16, R336. -/
def SRV_PART_LEAD_D16 (n : Nat) : Fld := ⟨0x18000834 + n * 0x200, 12, 0x10⟩
/-- 11_serving.md Table 11.16, R336. -/
def SRV_PART_ADM_RATE (n : Nat) : Fld := ⟨0x18000840 + n * 0x200, 16, 0xffff⟩
/-- 11_serving.md Table 11.16, R336. -/
def SRV_PART_MAX_CTX (n : Nat) : Fld := ⟨0x18000860 + n * 0x200, 19, 0x2000⟩
/-- 11_serving.md Table 11.16, R336. -/
def SRV_PART_RCORE (n : Nat) : Fld := ⟨0x18000880 + n * 0x200, 4, 0⟩
/-- 11_serving.md Table 11.16, R336. -/
def SRV_PART_RWIN (n : Nat) : Fld := ⟨0x18000884 + n * 0x200, 6, 0⟩
/-- 11_serving.md Table 11.16, R336. -/
def SRV_PART_RVALID (n : Nat) : Fld := ⟨0x1800088a + n * 0x200, 1, 0⟩
/-- 11_serving.md Table 11.16, R336. -/
def SRV_PART_STEPWIN (n : Nat) : Fld := ⟨0x1800088b + n * 0x200, 6, 0⟩
/-- 11_serving.md Table 11.16, R336. -/
def SRV_PART_KV_SETS (n : Nat) : Fld := ⟨0x180008a0 + n * 0x200, 24, 0⟩
/-- 11_serving.md Table 11.16, R336. -/
def SRV_PART_KV_FREE (n : Nat) : Fld := ⟨0x180008c0 + n * 0x200, 24, 0⟩
/-- 11_serving.md Table 11.16, R336. -/
def SRV_PART_PARK_TTL (n : Nat) : Fld := ⟨0x180008e0 + n * 0x200, 32, 0xe10⟩
/-- 11_serving.md Table 11.16, R336. -/
def SRV_PART_PLIST (n : Nat) : Fld := ⟨0x18000900 + n * 0x200, 64, 0⟩
/-- 11_serving.md Table 11.16, R336. -/
def SRV_PART_PROMPT (n : Nat) : Fld := ⟨0x18000940 + n * 0x200, 64, 0⟩
/-- 11_serving.md Table 11.16, R336. -/
def SRV_PART_CADDY (n : Nat) : Fld := ⟨0x18000980 + n * 0x200, 2, 0⟩
/-- 11_serving.md Table 11.16, R336. -/
def SRV_PART_POOL (n : Nat) : Fld := ⟨0x18000990 + n * 0x200, 16, 0⟩
/-- 11_serving.md Table 11.16, R336. -/
def SRV_PART_CADDY_RATE (n : Nat) : Fld := ⟨0x180009a0 + n * 0x200, 16, 0x2710⟩
/-- 11_serving.md Table 11.16, R336. -/
def SRV_PART_CADDY_BASE (n : Nat) : Fld := ⟨0x180009c0 + n * 0x200, 64, 0⟩
/-- 11_serving.md Table 11.16, R336. -/
def SRV_PART_EN (n : Nat) : Fld := ⟨0x18000800 + n * 0x200, 1, 0⟩
/-- 11_serving.md Table 11.15, R336. -/
def SRV_CORE_STAGE (n : Nat) : Fld := ⟨0x18004000 + n * 0x20, 11, 0⟩
/-- 11_serving.md Table 11.15, R336. -/
def SRV_CORE_SVALID (n : Nat) : Fld := ⟨0x1800400b + n * 0x20, 1, 0⟩
/-- 11_serving.md Table 11.15, R336. -/
def SRV_CORE_STEP_EN (n : Nat) : Fld := ⟨0x1800400c + n * 0x20, 1, 0⟩
/-- 11_serving.md Table 11.15, R336. -/
def SRV_CLASS_TTFT_US (n : Nat) : Fld := ⟨0x18008000 + n * 0x40, 32, 0⟩
/-- 11_serving.md Table 11.15, R336. -/
def SRV_CLASS_TBT_US (n : Nat) : Fld := ⟨0x18008020 + n * 0x40, 32, 0⟩
/-- 11_serving.md Table 11.14, R336. -/
def SRV_STOPSET_TOKEN (n i : Nat) : Fld := ⟨0x18010000 + n * 0x400 + i * 0x20, 32, 0xffffffff⟩
/-- 11_serving.md Table 11.17, R336. -/
def SRV_ASLOT_ID (n : Nat) : Fld := ⟨0x18018000 + n * 0x40, 16, 0⟩
/-- 11_serving.md Table 11.17, R336. -/
def SRV_ASLOT_GEN (n : Nat) : Fld := ⟨0x18018010 + n * 0x40, 16, 0⟩
/-- 11_serving.md Table 11.17, R336. -/
def SRV_ASLOT_STATE (n : Nat) : Fld := ⟨0x18018020 + n * 0x40, 2, 0⟩
/-- 11_serving.md Table 11.17, R336. -/
def SRV_ASLOT_CUR (n : Nat) : Fld := ⟨0x18018022 + n * 0x40, 1, 0⟩
/-- 11_serving.md Table 11.17, R336. -/
def SRV_ASLOT_REFCNT (n : Nat) : Fld := ⟨0x18018023 + n * 0x40, 13, 0⟩
/-- 11_serving.md Table 11.17, R336. -/
def SRV_ACCT_RATE (n : Nat) : Fld := ⟨0x18080000 + n * 0x80, 32, 0⟩
/-- 11_serving.md Table 11.17, R336. -/
def SRV_ACCT_BURST (n : Nat) : Fld := ⟨0x18080020 + n * 0x80, 32, 0⟩
/-- 11_serving.md Table 11.17, R336. -/
def SRV_ACCT_VALID (n : Nat) : Fld := ⟨0x18080040 + n * 0x80, 1, 0⟩
/-- 11_serving.md Table 11.17, R336. -/
def SRV_ACCT_END (n : Nat) : Fld := ⟨0x18080041 + n * 0x80, 1, 0⟩
/-- 11_serving.md Table 11.17, R336. -/
def SRV_ACCT_BAL_BAL (n : Nat) : Fld := ⟨0x18080060 + n * 0x80, 32, 0⟩
/-- 11_serving.md Tables 11.3 and 11.4, R336. -/
def SRV_ENT_STATE (n : Nat) : Fld := ⟨0x18800000 + n * 0x400, 4, 0⟩
/-- 11_serving.md Tables 11.3 and 11.4, R336. -/
def SRV_ENT_TYPE (n : Nat) : Fld := ⟨0x18800004 + n * 0x400, 2, 0⟩
/-- 11_serving.md Tables 11.3 and 11.4, R336. -/
def SRV_ENT_LPART (n : Nat) : Fld := ⟨0x18800006 + n * 0x400, 4, 0⟩
/-- 11_serving.md Tables 11.3 and 11.4, R336. -/
def SRV_ENT_CLASS (n : Nat) : Fld := ⟨0x1880000a + n * 0x400, 3, 0⟩
/-- 11_serving.md Tables 11.3 and 11.4, R336. -/
def SRV_ENT_KEEP (n : Nat) : Fld := ⟨0x1880000d + n * 0x400, 1, 0⟩
/-- 11_serving.md Tables 11.3 and 11.4, R336. -/
def SRV_ENT_LATE_OK (n : Nat) : Fld := ⟨0x1880000e + n * 0x400, 1, 0⟩
/-- 11_serving.md Tables 11.3 and 11.4, R336. -/
def SRV_ENT_OMIT_STOP (n : Nat) : Fld := ⟨0x1880000f + n * 0x400, 1, 0⟩
/-- 11_serving.md Tables 11.3 and 11.4, R336. -/
def SRV_ENT_PRIO (n : Nat) : Fld := ⟨0x18800010 + n * 0x400, 8, 0⟩
/-- 11_serving.md Tables 11.3 and 11.4, R336. -/
def SRV_ENT_STOPSETS (n : Nat) : Fld := ⟨0x18800018 + n * 0x400, 8, 0⟩
/-- 11_serving.md Tables 11.3 and 11.4, R336. -/
def SRV_ENT_HANDLE (n : Nat) : Fld := ⟨0x18800020 + n * 0x400, 32, 0⟩
/-- 11_serving.md Tables 11.3 and 11.4, R336. -/
def SRV_ENT_LEN (n : Nat) : Fld := ⟨0x18800040 + n * 0x400, 32, 0⟩
/-- 11_serving.md Tables 11.3 and 11.4, R336. -/
def SRV_ENT_PROMPT_END (n : Nat) : Fld := ⟨0x18800060 + n * 0x400, 32, 0⟩
/-- 11_serving.md Tables 11.3 and 11.4, R336. -/
def SRV_ENT_PF_NEXT (n : Nat) : Fld := ⟨0x18800080 + n * 0x400, 32, 0⟩
/-- 11_serving.md Tables 11.3 and 11.4, R336. -/
def SRV_ENT_MAXLEN (n : Nat) : Fld := ⟨0x188000a0 + n * 0x400, 32, 0⟩
/-- 11_serving.md Tables 11.3 and 11.4, R336. -/
def SRV_ENT_OUT_CNT (n : Nat) : Fld := ⟨0x188000c0 + n * 0x400, 32, 0⟩
/-- 11_serving.md Tables 11.3 and 11.4, R336. -/
def SRV_ENT_ACCT (n : Nat) : Fld := ⟨0x188000e0 + n * 0x400, 10, 0⟩
/-- 11_serving.md Tables 11.3 and 11.4, R336. -/
def SRV_ENT_ASLOT (n : Nat) : Fld := ⟨0x188000f0 + n * 0x400, 6, 0⟩
/-- 11_serving.md Tables 11.3 and 11.4, R336. -/
def SRV_ENT_AVALID (n : Nat) : Fld := ⟨0x188000f6 + n * 0x400, 1, 0⟩
/-- 11_serving.md Tables 11.3 and 11.4, R336. -/
def SRV_ENT_AGEN (n : Nat) : Fld := ⟨0x18800100 + n * 0x400, 16, 0⟩
/-- 11_serving.md Tables 11.3 and 11.4, R336. -/
def SRV_ENT_LOST_RUN (n : Nat) : Fld := ⟨0x18800110 + n * 0x400, 4, 0⟩
/-- 11_serving.md Tables 11.3 and 11.4, R336. -/
def SRV_ENT_NSTOP (n : Nat) : Fld := ⟨0x18800114 + n * 0x400, 4, 0⟩
/-- 11_serving.md Tables 11.3 and 11.4, R336. -/
def SRV_ENT_STATUS (n : Nat) : Fld := ⟨0x18800118 + n * 0x400, 8, 0⟩
/-- 11_serving.md Tables 11.3 and 11.4, R336. -/
def SRV_ENT_LANE (n : Nat) : Fld := ⟨0x18800120 + n * 0x400, 11, 0⟩
/-- 11_serving.md Tables 11.3 and 11.4, R336. -/
def SRV_ENT_BOUND (n : Nat) : Fld := ⟨0x1880012b + n * 0x400, 1, 0⟩
/-- 11_serving.md Tables 11.3 and 11.4, R336. -/
def SRV_ENT_ORING (n : Nat) : Fld := ⟨0x1880012c + n * 0x400, 6, 0⟩
/-- 11_serving.md Tables 11.3 and 11.4, R336. -/
def SRV_ENT_PLIST (n : Nat) : Fld := ⟨0x18800140 + n * 0x400, 64, 0⟩
/-- 11_serving.md Tables 11.3 and 11.4, R336. -/
def SRV_ENT_DEADLINE (n : Nat) : Fld := ⟨0x18800180 + n * 0x400, 64, 0⟩
/-- 11_serving.md Tables 11.3 and 11.4, R336. -/
def SRV_ENT_T_SUBMIT (n : Nat) : Fld := ⟨0x188001c0 + n * 0x400, 64, 0⟩
/-- 11_serving.md Tables 11.3 and 11.4, R336. -/
def SRV_ENT_T_FIRST (n : Nat) : Fld := ⟨0x18800200 + n * 0x400, 64, 0⟩
/-- 11_serving.md Tables 11.3 and 11.4, R336. -/
def SRV_ENT_T_LAST (n : Nat) : Fld := ⟨0x18800240 + n * 0x400, 64, 0⟩
/-- 11_serving.md Tables 11.3 and 11.4, R336. -/
def SRV_ENT_SEED (n : Nat) : Fld := ⟨0x18800280 + n * 0x400, 64, 0⟩
/-- 11_serving.md Tables 11.3 and 11.4, R336. -/
def SRV_ENT_TTL (n : Nat) : Fld := ⟨0x188002c0 + n * 0x400, 64, 0⟩
/-- 11_serving.md Tables 11.3 and 11.4, R336. -/
def SRV_ENT_STOPLEN (n : Nat) : Fld := ⟨0x18800300 + n * 0x400, 32, 0⟩
/-- 11_serving.md Tables 11.3 and 11.4, R336. -/
def SRV_ENT_TBT_MAX (n : Nat) : Fld := ⟨0x18800320 + n * 0x400, 32, 0⟩
/-- 11_serving.md Tables 11.3 and 11.4, R336. -/
def SRV_ENT_CHARGED (n : Nat) : Fld := ⟨0x18800340 + n * 0x400, 64, 0⟩
/-- 11_serving.md Tables 11.3 and 11.4, R336. -/
def SRV_ENT_PROMPT (n : Nat) : Fld := ⟨0x18800380 + n * 0x400, 64, 0⟩
/-- 11_serving.md Table 11.14, R336. -/
def SRV_STOP_WORD (n i : Nat) : Fld := ⟨0x1a000000 + n * 0x2000 + i * 0x20, 32, 0⟩
/-- 10_topology.md Table 10.7, R336. -/
def SRV_PKG_INDEX (n : Nat) : Fld := ⟨0x1f800000 + n * 0x40, 16, 0⟩
/-- 10_topology.md Table 10.7, R336. -/
def SRV_PKG_ADDR (n : Nat) : Fld := ⟨0x1f800010 + n * 0x40, 16, 0⟩
/-- 10_topology.md Table 10.7, R336. -/
def SRV_PKG_PORT (n : Nat) : Fld := ⟨0x1f800020 + n * 0x40, 4, 0xf⟩
/-- 10_topology.md Table 10.7, R336. -/
def SRV_PKG_LPART (n : Nat) : Fld := ⟨0x1f800024 + n * 0x40, 4, 0⟩
/-- 10_topology.md Table 10.7, R336. -/
def SRV_PKG_VALID (n : Nat) : Fld := ⟨0x1f800028 + n * 0x40, 1, 0⟩
/-- 11_serving.md Table 11.21, R336. -/
def SRV_SUBMIT_CNT : Fld := ⟨0x18100000, 64, 0⟩
/-- 11_serving.md Table 11.21, R336. -/
def SRV_REJ_CNT : Fld := ⟨0x18100040, 64, 0⟩
/-- 11_serving.md Table 11.21, R336. -/
def SRV_STEP_CNT : Fld := ⟨0x18100080, 64, 0⟩
/-- 11_serving.md Table 11.21, R336. -/
def SRV_LOST_CNT : Fld := ⟨0x181000c0, 64, 0⟩
/-- 11_serving.md Table 11.21, R336. -/
def SRV_VOID_CNT : Fld := ⟨0x18100100, 64, 0⟩
/-- 11_serving.md Table 11.21, R336. -/
def SRV_RINGWIN_BAD_CNT : Fld := ⟨0x18100140, 64, 0⟩
/-- 11_serving.md Table 11.21, R336. -/
def SRV_STEPWR_REJ_CNT : Fld := ⟨0x18100180, 64, 0⟩
/-- 11_serving.md Table 11.21, R336. -/
def SRV_NOTICE_MISS_CNT : Fld := ⟨0x181001c0, 64, 0⟩
/-- 11_serving.md Table 11.21, R336. -/
def SRV_NOTICE_LATE_CNT : Fld := ⟨0x18100200, 64, 0⟩
/-- 11_serving.md Table 11.21, R336. -/
def SRV_EXPIRED_CNT : Fld := ⟨0x18100240, 64, 0⟩
/-- 11_serving.md Table 11.21, R336. -/
def SRV_STOP_CNT : Fld := ⟨0x18100280, 64, 0⟩
/-- 11_serving.md Table 11.21, R336. -/
def SRV_BUDGET_WAIT_CNT : Fld := ⟨0x181002c0, 64, 0⟩
/-- 11_serving.md Table 11.21, R336. -/
def SRV_BUDGET_END_CNT : Fld := ⟨0x18100300, 64, 0⟩
/-- 11_serving.md Table 11.21, R336. -/
def SRV_ADPT_REPL_CNT : Fld := ⟨0x18100340, 64, 0⟩
/-- 11_serving.md Table 11.21, R336. -/
def SRV_KV_NOSPACE_CNT : Fld := ⟨0x18100380, 64, 0⟩
/-- 11_serving.md Table 11.21, R336. -/
def SRV_OUT_DROP_CNT : Fld := ⟨0x181003c0, 64, 0⟩
/-- 11_serving.md Table 11.21, R336. -/
def SRV_CADDY_OUT_CNT : Fld := ⟨0x18100400, 64, 0⟩
/-- 11_serving.md Table 11.21, R336. -/
def SRV_CADDY_IN_CNT : Fld := ⟨0x18100440, 64, 0⟩
/-- 11_serving.md Table 11.21, R336. -/
def SRV_CADDY_EXP_CNT : Fld := ⟨0x18100480, 64, 0⟩
/-- 11_serving.md Table 11.21, R336. -/
def SRV_CADDY_FAIL_CNT : Fld := ⟨0x181004c0, 64, 0⟩
/-- 11_serving.md Table 11.21, R336. -/
def SRV_LOCKED_WR : Fld := ⟨0x18100500, 64, 0⟩
/-- 11_serving.md Table 11.21, R336. -/
def SRV_TTFT_VIOL_CNT (n : Nat) : Fld := ⟨0x18100800 + n * 0x40, 64, 0⟩
/-- 11_serving.md Table 11.21, R336. -/
def SRV_TBT_VIOL_CNT (n : Nat) : Fld := ⟨0x18100a00 + n * 0x40, 64, 0⟩
/-- 11_serving.md Table 11.21, R336. -/
def SRV_MOE_ASSIGN_CNT (n : Nat) : Fld := ⟨0x1e000000 + n * 0x80, 64, 0⟩
/-- 11_serving.md Table 11.21, R336. -/
def SRV_MOE_BYPASS_CNT (n : Nat) : Fld := ⟨0x1e000040 + n * 0x80, 64, 0⟩
/-- 10_topology.md Table 10.6, R336. -/
def SRV_PKG_MISS_CNT : Fld := ⟨0x1f880000, 64, 0⟩

end F

end Sys2Proof.Machine
end

