-- ==== Sys2Proof/Machine/StateCore.lean ====
section
/-! DEFINITION. The state of the cores, the mesh and the stacks beside their registers. -/
namespace Sys2Proof.Machine

/-- The parameters one FIRE gives to one of its firings (Tables 2.6 and 6.4). -/
structure FireParams where
  slot : Nat
  leaven : Bool
  accEn : Bool
  accSet : Nat
  ri : Nat
  inRow : Nat
  descRow : Nat
  descIdx : Nat
  /-- The FIRE instruction that this firing belongs to (`OpRec.id`). -/
  op : Nat
  /-- The program index of the FIRE and the number of the firing in it, for the proof draw (R111). -/
  pc : Nat
  idx : Nat
  deriving DecidableEq, Repr

/-- The recipe fields a firing takes at its start (R182, R66). -/
structure Recipe where
  a4 : Bool
  range : Nat
  blk : Nat
  fine : Bool
  lt : Nat
  layer : Nat
  ascale : Nat
  wscale : Nat
  deriving DecidableEq, Repr

/-- Where a firing stands: queued in fire dispatch, loaded in its array's input buffer, running, handed off and not yet released, or
released with codes that still wait for their turn at their set. -/
inductive FireStage where
  | queued | loaded | running | handed | released
  deriving DecidableEq, Repr

/-- Outcome of a firing at the start of its handoff: codes, SAT, checksum miss. -/
structure FireOut where
  p : List (List Int)
  planeCodes : List (List Int)
  sat : Bool
  miss : Bool
  deriving DecidableEq, Repr

/-- One firing from its FIRE to its release (R55, R64, R182). The entries of an array's input buffer are the firings
whose `arr` names it (R48, R55). -/
structure Firing where
  par : FireParams
  stage : FireStage
  /-- The array whose input buffer holds the input. -/
  arr : Option Nat
  /-- Input row (512 bytes) and descriptor (64 bytes), as loaded. -/
  row : List Byte
  desc : List Byte
  /-- The input row or the descriptor row was POISONED. -/
  poison : Bool
  /-- Taken at the start: the recipe, whether R97 refused it, whether the input was all zero. -/
  rcp : Option Recipe
  refused : Bool
  zero : Bool
  /-- Weight format of the array at the start: true for W2. -/
  w2 : Bool
  /-- Trims of the converters as active at the start, with the gain of the array (R66, R82, R83). -/
  trims : List (Int × Int)
  /-- Codes handed off that wait for an earlier firing of the same set: accumulation is in program order (R101). -/
  out : Option FireOut
  /-- The tick of the firing was abandoned: its codes are discarded (R179). -/
  dead : Bool
  /-- Instant of the start, and whether the half clock was slow (R65). -/
  t0 : Nat
  slow : Bool
  /-- Its input-latch phase has ended and it is counted (R452). -/
  latched : Bool := false
  deriving DecidableEq, Repr

/-- One accumulator set (R98 to R101): narrow and wide accumulators of 256 columns (the wide ones hold FP32 patterns in
fine-scale mode), count, SAT, POISON, MODE (none before the first accumulate) and the recipe index of the last main
fire. -/
structure AccSet where
  narrow : List Int
  wide : List Int
  count : Nat
  sat : Bool
  poison : Bool
  mode : Option Bool
  lastRi : Option Nat
  deriving DecidableEq, Repr

/-- The empty set. -/
def AccSet.empty : AccSet :=
  { narrow := List.replicate 256 0, wide := List.replicate 256 0, count := 0, sat := false, poison := false,
    mode := none, lastRi := none }

/-- Units of a core that hold queued work or wait for the mesh (Table 6.1, R243). -/
inductive CUnit where
  | fire | acc | move | attn | proof | steep | vec | adpt
  deriving DecidableEq, Repr

/-- What an issued instruction still does when its lines or firings come back. -/
inductive OpKind where
  /-- FIRE: waits for its firings. -/
  | fire
  /-- PROMOTE, EMIT or ACC_CLEAR with its instruction word: waits for the earlier firings of its sets. -/
  | acc (word : Nat)
  /-- SEND: waits for its writes to leave the router node. -/
  | send
  /-- LOAD or GATHER: line i of the request goes to row `dst + i`. -/
  | load (dst : Nat)
  /-- STORE: waits for the acknowledgements. -/
  | store
  /-- APPEND: waits for the acknowledgements; the request entry is kept. -/
  | append (req : Nat)
  /-- An instruction word that waits in its unit's queue for earlier ones (R177). -/
  | wait (word : Nat)
  /-- SCORE: waits for the lines of the pages. Kept: the instruction word, position L, and per query head its E4M3 codes,
  the power of two of its scale, and whether it is POISONED; then, per line asked for, KV head, page and line of the page. -/
  | score (word len : Nat) (q : List (List Nat × Int × Bool)) (plan : List (Nat × Nat × Nat))
  deriving DecidableEq, Repr

/-- An instruction issued and not complete (R178): its unit, signal, what is outstanding, and the lines that have come
back (index, bytes, POISONED). -/
structure OpRec where
  id : Nat
  unit : CUnit
  kind : OpKind
  sig : Option Nat
  left : Nat
  got : List (Nat × List Byte × Bool)
  deriving DecidableEq, Repr

/-- An entry of the proof unit's capture buffer (R112): what was captured and which golden lines have arrived. -/
structure ProofEntry where
  slot : Nat
  arr : Nat
  ri : Nat
  fine : Bool
  leaven : Bool
  range : Nat
  a4 : Bool
  w2 : Bool
  row : List Byte
  shifts : List Nat
  /-- Normal and leaven firings: codes of each plane; fine-scale firings: shift-added codes of each group. -/
  codes : List (List Int)
  /-- The firing carried SAT or CHK_MISS (R131). -/
  flagged : Bool
  time : Nat
  gold : List (Nat × List Byte)
  regionOk : Bool
  deriving DecidableEq, Repr

/-- One entry of a steep-engine batch as accepted (Tables 5.1 and 5.2): array, operation, format, life-cycle flag, byte
address of the golden record, canonical slot header, state of the array before, the status already decided (none while it
runs), the golden record of a STEEP, read at the start (Table 5.3), whether a temperature sample left the window (R153), and whether a fire
of its array began during a readback (R151). -/
structure StEntry where
  arr : Nat
  op : Nat
  w2 : Bool
  lc : Bool
  gold : Nat
  hdr : Nat
  prev : Nat
  status : Option Nat
  data : List Byte
  exc : Bool
  intr : Bool
  deriving DecidableEq, Repr

/-- A steep-engine batch (R146): entry count, list and result addresses latched at GO, the number of firmware's open record (R156), and,
once started, its entries and the tick at which it started. -/
structure Batch where
  count : Nat
  list : Nat
  res : Nat
  jid : Nat
  started : Bool
  entries : List StEntry
  startTick : Nat
  deriving DecidableEq, Repr

/-- A calibration command in progress (R126): operation, set, target and arrays. -/
structure CalCmd where
  op : Nat
  set : Nat
  target : Bool
  arr : Option Nat
  deriving DecidableEq, Repr

/-- An interpolation pass (R134, R135): its temperature sample, its start, how many arrays it has written, and whether the half
clock is slow. -/
structure CalPass where
  temp : Nat
  t0 : Nat
  next : Nat
  slow : Bool
  deriving DecidableEq, Repr

/-- Reference and signal sums of one array in the CAL block (R130, R131): n and Σ of the reference, n Σε Σd Σεd Σε² of
the signal. -/
structure CalSums where
  nRef : Nat
  sumRef : Int
  sumExp : Int
  n : Nat
  sE : Int
  sD : Int
  sED : Int
  sEE : Int
  deriving DecidableEq, Repr

/-- All sums zero. -/
def CalSums.zero : CalSums :=
  { nRef := 0, sumRef := 0, sumExp := 0, n := 0, sE := 0, sD := 0, sED := 0, sEE := 0 }

/-- Virtual channels of the mesh (Table 8.3). -/
inductive VC where
  | ctl | land | rsp | req | bulk
  deriving DecidableEq, Repr

/-- Who made a stack request: a unit of a core with the instruction's number, the line's index and the core's reset epoch
(R374), or a port on behalf of a cell. -/
inductive Requester where
  | core (c op idx epoch : Nat)
  | port (p : Nat) (cell : Cell)
  deriving DecidableEq, Repr

/-- A window write (R197): physical core, window, generation, offset in 256-byte units, whether it is SCHED, the data,
and, for a write that crossed the fabric, its port and cell. -/
structure WinWrite where
  core : Nat
  win : Nat
  gen : Nat
  ofs : Nat
  sched : Bool
  data : List Byte
  origin : Option (Nat × Cell)
  deriving DecidableEq, Repr

/-- What a packet carries. -/
inductive Body where
  | winWrite (w : WinWrite)
  /-- Read of a line; `full` reads may merge (R250). -/
  | readReq (line : Nat) (rq : Requester) (full : Bool)
  /-- Write of bytes `ofs ..` of a line. -/
  | writeReq (line ofs : Nat) (data : List Byte) (rq : Requester)
  /-- Data of a line for its requesters, with the status of the read. -/
  | readData (line : Nat) (data : List Byte) (rqs : List Requester) (status : Nat)
  /-- Acknowledgement of a write, with its status. -/
  | writeAck (line : Nat) (rq : Requester) (status : Nat)
  /-- A refused window write: its status. -/
  | nack (status : Nat)
  /-- A fabric cell on its way to the egress of a port, and the port it entered by. -/
  | cell (c : Cell) (entry : Option Nat)
  deriving DecidableEq, Repr

/-- A packet on the mesh (R237): source and destination nodes of Table 8.13, the node it is at and the one it came from,
whether it has reached a destination, its channel, poison mark and escape mark. -/
structure Packet where
  src : Nat
  dst : List Nat
  pos : Nat
  via : Nat
  arrived : Bool
  vc : VC
  poison : Bool
  esc : Bool
  /-- It was in the queue of its bank when the bank began to drain (R253). -/
  grace : Bool
  /-- Instruction of the source core that waits for the packet to leave its router node (SEND). -/
  op : Option Nat
  body : Body
  deriving DecidableEq, Repr

/-- One core beside its registers. -/
structure CoreSt where
  /-- EVT0 to EVT15 (R176). -/
  evt : SMap Nat
  /-- Time base at the start of the current tick, and its number (R176). -/
  tickStart : Nat
  tickNum : Nat
  /-- The tick met an illegal instruction and ends abandoned (R180). -/
  illegal : Bool
  /-- Issue has run past instruction 16,383 of the bank (R180). -/
  pastEnd : Bool
  /-- Outputs to the end of the tick carry POISONED (R188, R193, R254). -/
  outPoison : Bool
  /-- A check mismatch was read in this tick: stores and appends are not performed (R193). -/
  noStore : Bool
  /-- Rows written by the tick's instructions, to mark if the tick is abandoned (R225). -/
  outRows : NSet
  /-- Rows written in the tick that ended at `tickStart`, for a reaction of that instant (R38). -/
  lastRows : NSet
  /-- Writes landed in the current generation of their OPEN window, newest first: window, offset, data, POISONED. Their rows become
  visible when the window becomes HELD (R192, R195). -/
  landed : List (Nat × Nat × List Byte × Bool)
  /-- Requests that record STEP_LOST at the next settlement because the tick was abandoned (R225). -/
  lost : NSet
  firings : List Firing
  ops : List OpRec
  nextOp : Nat
  /-- Instants, in 1/16 ns, at which the instructions in the queues of the vector unit and of the adapter unit leave them (R175). -/
  vecEnds : List Nat := []
  adptEnds : List Nat := []
  accs : SMap AccSet
  /-- In-window flags of each recipe index: bits SAT, OUTLIER_OVF, PROOF_MISS, CHK_MISS (R118). -/
  winFlags : SMap Nat
  /-- Proof unit (R111, R112): draws made, the drawn firing (program index, firing number), capture entries. -/
  draws : Nat
  drawn : Option (Nat × Nat)
  computing : Option ProofEntry
  waiting : Option ProofEntry
  /-- Steep engine (R146). -/
  running : Option Batch
  pend : Option Batch
  /-- Calibration command, pass and waiting trigger (R126, R134). -/
  calCmd : Option CalCmd
  calPass : Option CalPass
  calTrig : Bool
  /-- Firmware has run the restore of R141 since the last reset. -/
  restored : Bool := false
  /-- Reference and signal sums per array. -/
  sums : SMap CalSums
  /-- Array commands waiting for the boundary (Table 2.14): array and CMD, oldest first. -/
  arrCmds : List (Nat × Nat)
  /-- State changes of arrays that wait for the boundary after a batch (R150): array and new state. -/
  stPend : List (Nat × Nat)
  /-- Reset epoch of the compute domain, carried by its requests (R374). -/
  epoch : Nat
  /-- A reset of the core waits for its requests to drain (R374). -/
  draining : Bool
  /-- Read tags of the core's router that are in use, and the requests that wait for one (R243). -/
  tags : Nat
  tagWait : List Packet
  /-- Power ramp (R411): the mark at which it starts, or started, and whether it is under way. -/
  rampAt : Option Nat
  ramping : Bool
  deriving DecidableEq, Repr

/-- A core with everything at rest. -/
def CoreSt.reset : CoreSt :=
  { evt := [], tickStart := 0, tickNum := 0, illegal := false, pastEnd := false, outPoison := false, noStore := false, outRows := [], lastRows := [], landed := [], lost := [],
    firings := [], ops := [], nextOp := 0, accs := [], winFlags := [], draws := 0, drawn := none, computing := none,
    waiting := none, running := none, pend := none, calCmd := none, calPass := none, calTrig := false, sums := [],
    arrCmds := [], stPend := [], epoch := 0, draining := false, tags := 0, tagWait := [], rampAt := none, ramping := false }

/-- A merge-table entry of a channel (R250): line, data as read, status, poison mark and the requesters with their nodes. -/
structure Merge where
  line : Nat
  data : List Byte
  status : Nat
  poison : Bool
  rqs : List (Nat × Requester)
  deriving DecidableEq, Repr

/-- A stack beside its registers: merge entries, oldest first, the bank being drained or woken (Table 8.8) and whether it
wakes, the number of the line of the stack the patrol scrub reads next (R249), and, per channel and kind, the source node served last
(R243). -/
structure StkSt where
  merges : List Merge
  bank : Option (Nat × Bool)
  scrub : Nat
  turn : SMap Nat
  deriving DecidableEq, Repr

/-- A stack at rest. -/
def StkSt.reset : StkSt := { merges := [], bank := none, scrub := 0, turn := [] }

/-- The slot table a port kept from before its latest change (R274): the boundary of the change, SLOT_NS, NSLOT, TOL and
the owners. -/
structure SlotTable where
  upto : Nat
  ns : Nat
  n : Nat
  tol : Nat
  own : List (Option Nat)
  deriving DecidableEq, Repr

/-- What a port has received of the partner's admission exchange (R281): HELLO, certificate, PROOF, and the identity. -/
structure AuthSt where
  hello : Bool
  cert : Bool
  proof : Bool
  peer : Nat
  peerPort : Nat
  /-- The HELLO sent and the HELLO received. -/
  mine : List Byte
  his : List Byte
  deriving DecidableEq, Repr

/-- A block on the link (R266, Table 9.4): its cell with sequence number and REPLAY mark, if it is not idle, the ACK and NAK
of its trailer, and the credit counts. -/
structure TxBlock where
  cell : Option (Nat × Bool × Cell)
  ack : Nat
  nak : Bool
  credits : List Nat
  deriving DecidableEq, Repr

/-- A fabric port beside its registers. Pools are numbered 0 SCHED, 1 and 2 BULK, 3 and 4 MGMT, 5 TIME (R268). -/
structure PortSt where
  /-- Ingress storage: pool, arrival in 1/16 ns and cell, oldest first. -/
  ingress : List (Nat × Nat × Cell)
  /-- Egress queues in order of arrival at the port node. -/
  egress : List Cell
  /-- Replay buffer: sequence number and cell, and the next sequence number to send again. -/
  replay : List (Nat × Cell)
  resend : Option Nat
  /-- Sequence numbers: next to send, last received in order, highest seen, highest seen when the last NAK was sent. -/
  txSeq : Nat
  rxSeq : Nat
  rxTop : Nat
  nakTop : Option Nat
  /-- A NAK is due; the ACK of the last NAKs and how many in a row carried it. -/
  nakDue : Bool
  nakAck : Nat
  nakRun : Nat
  /-- Per pool: places freed here and cells received, credit counts received and cells sent (Table 9.4). -/
  freed : List Nat
  rcvd : List Nat
  /-- Per pool: stored cells that came in before the link went down last; their places are no credits of the present link (R269, R276). -/
  stale : List Nat
  credit : List Nat
  sent : List Nat
  /-- Token buckets for BULK and MGMT, ingress and egress, in cells / 4,000, and the instant they were last filled. -/
  inBulk : Nat
  inMgmt : Nat
  outBulk : Nat
  outMgmt : Nat
  tokTime : Nat
  slotOld : Option SlotTable
  /-- Drops within the quarantine window, and its number (R284). -/
  winNum : Nat
  winSrc : Nat
  winCrd : Nat
  /-- Uncorrectable codewords, corrected symbols and codewords of the estimate interval (R286). -/
  uncInt : Nat
  /-- The uncorrectable codewords of this interval have led to a retrain (R276). -/
  uncTold : Bool
  corrInt : Nat
  cwInt : Nat
  /-- NACKs waiting to be sent, and the instant the last one was (Table 9.6). -/
  nacks : List Cell
  nackTime : Nat
  retraining : Bool
  /-- The training verified saved settings (R363). -/
  saved : Bool
  auth : AuthSt
  /-- The block sent last (R266). -/
  tx : Option (List Byte)
  /-- Times t1, t2 and t3 of the marker exchange under way, in 1/16 ns (R214). -/
  sync : Option (Nat × Nat × Option Nat)
  deriving DecidableEq, Repr

/-- A port at rest. -/
def PortSt.reset : PortSt :=
  { ingress := [], egress := [], replay := [], resend := none, txSeq := 1, rxSeq := 0, rxTop := 0, nakTop := none,
    nakDue := false, nakAck := 0, nakRun := 0, freed := List.replicate 6 0, rcvd := List.replicate 6 0, stale := List.replicate 6 0,
    credit := List.replicate 6 0, sent := List.replicate 6 0, inBulk := 0x200 * 4000, inMgmt := 0x40 * 4000,
    outBulk := 0x200 * 4000, outMgmt := 0x40 * 4000, tokTime := 0, slotOld := none, winNum := 0, winSrc := 0, winCrd := 0,
    uncInt := 0, uncTold := false, corrInt := 0, cwInt := 0, nacks := [], nackTime := 0, retraining := false, saved := false,
    auth := { hello := false, cert := false, proof := false, peer := 0, peerPort := 0, mine := [], his := [] }, tx := none, sync := none }

/-- Who receives a message of the package: the management core, a function of the host interface (33 and 34: the management transports), the package at a hall address, or
the peers on the management network. -/
inductive Party where
  | mc
  | host (fn : Nat)
  | pkg (addr : Nat)
  | net
  deriving DecidableEq, Repr

/-- What a message says. -/
inductive Topic where
  /-- Interrupt of the management core: a steep batch of a core has ended (Table 6.21). Arguments: core. -/
  | batchEnd
  /-- Admission of a port's partner failed (R281). Arguments: port, QREASON. -/
  | authFailed
  /-- Interrupts of the management core: a half condition has changed (R415), a telemetry limit is crossed (R425). -/
  | halfChange
  | telLimit
  /-- An MSI-X vector of a function is raised (R342, R346, R354). Arguments: vector. -/
  | vector
  /-- An output record is written to its ring (R329). Arguments: ring, producer index, and the fields of Table 11.9. -/
  | outRecord
  /-- The head's notice to the members of a partition (R320). Arguments: partition, tick M, kind, operands. -/
  | notice
  /-- A member's report to the head that a migration or restore has ended (R334). Arguments: partition, entry, success. -/
  | caddy
  /-- CTRL messages between packages: port state (R302), ring spare (R297), and messages of a partition (R307 to R311, R399). -/
  | flood
  | missing
  | partition
  /-- Data written to host memory by DMA. Arguments: address, bytes. -/
  | hostWrite
  /-- Completion of a BAR4 read. Arguments: poisoned, bytes. -/
  | readData
  /-- An error that the endpoint reports by AER (Table 12.1). Arguments: 0 correctable, 1 uncorrectable. -/
  | aer
  /-- End of a DMA transfer. Arguments: status, and for one out of the stacks whether a line came POISONED. -/
  | dmaEnd
  /-- A response or an event entry of a management transport (R352). Arguments: bytes of the header. -/
  | reply
  /-- A report to the management network (R346, R398). Arguments: kind (the OPCODE of a notice), data. -/
  | report
  deriving DecidableEq, Repr

/-- A message that has left: an interrupt, a notice, a report or a record. -/
structure Msg where
  dst : Party
  topic : Topic
  args : List Nat
  deriving DecidableEq, Repr

/-- What the cells and the silicon keep through every reset, the MODEL's own record of it: the TB_TIME at which the device's time began (its
age is TB_TIME less that, and no step and no reset of the time base changes it), the age at the last steep of each array, plus 1 (R83), the
core temperature at the last calibration of each array, plus 1, and the last valid sample of each core, plus 1 (R82). Arrays are numbered
core * 2624 + array. -/
structure PhysSt where
  ofs : Int
  steepAt : SMap Nat
  calTemp : SMap Nat
  temp : SMap Nat
  /-- The firmware anti-rollback level of the fuses (R359, R362). -/
  rollback : Nat
  deriving DecidableEq, Repr

/-- A new device. -/
def PhysSt.reset : PhysSt := { ofs := 0, steepAt := [], calTemp := [], temp := [], rollback := 0 }

/-- The memories (R48, R189, R206, R140, R244): sparse bytes that read 0 where nothing is listed, and their marks. -/
structure Mems where
  /-- Stack bytes by package byte address. -/
  stk : List (Nat × Byte)
  /-- Poison marks of stack lines (R248). -/
  stkPoison : NSet
  /-- Scratchpad bytes at core * 2^24 + row * 512 + byte. -/
  spad : List (Nat × Byte)
  /-- Poison marks of rows at core * 2^15 + row (R193). -/
  spadPoison : NSet
  /-- Slices whose check code does not match, at (core * 2^15 + row) * 32 + slice (R193). -/
  spadBad : NSet
  /-- Program bytes at core * 2^19 + bank * 2^18 + 16 * index + byte. -/
  prog : List (Nat × Byte)
  /-- Calibration store at core * 2^20 + set * 2624 * 64 + array * 64 + byte. -/
  cal : List (Nat × Byte)
  /-- Array weights, one byte in two's complement per cell pair, at array * 2^18 + row * 256 + column, with arrays
  numbered core * 2624 + array. -/
  wts : List (Nat × Byte)
  /-- Arrays whose cells hold an undefined mix of levels after an abandoned steep or erase (R152). -/
  undef : NSet
  deriving DecidableEq, Repr

/-- Wiped memories. -/
def Mems.empty : Mems :=
  { stk := [], stkPoison := [], spad := [], spadPoison := [], spadBad := [], prog := [], cal := [], wts := [], undef := [] }

end Sys2Proof.Machine
end

