-- ==== Sys2Proof/Machine/StateFw.lean ====
section
/-! DEFINITION. The state of the serving engine beside its registers. -/
namespace Sys2Proof.Machine

/-- A prefill run under way: from which partition tick, entry, next position, steps left. -/
structure PfRun where
  m : Nat
  e : Nat
  pos : Nat
  count : Nat
  deriving DecidableEq, Repr

/-- An output record (Table 11.9) and the output ring it goes to. -/
structure OutRec where
  ring : Nat
  handle : Nat
  token : Nat
  pos : Nat
  status : Nat
  flags : Nat
  logit : Nat
  conv : Nat
  time : Nat
  /-- The entry that this FINAL record releases. -/
  fin : Option Nat
  deriving DecidableEq, Repr

/-- A conversation that moves to or from the caddy tier (R334): which way, and the members that have reported. -/
structure Xfer where
  restore : Bool
  heard : NSet
  /-- A page's write was refused, and the time base at the start. -/
  bad : Bool
  start : Nat
  deriving DecidableEq, Repr

/-- One served partition beside its registers: notices by tick of effect, prefill runs, staged records, page sets by entry
(page, number of the set in the pool), the first tick that no prefill run of the head covers, admissions of the current
millisecond, entries that wait for an adapter ID, and caddy transfers by entry. -/
structure SrvPart where
  notices : List (Nat × Notice)
  runs : List PfRun
  staging : List OutRec
  pages : SMap (List (Nat × Nat))
  pfFree : Nat
  ms : Nat
  admitted : Nat
  waitAdpt : SMap (Option Nat)
  xfers : SMap (Option Xfer)
  deriving DecidableEq, Repr

/-- A partition at rest. -/
def SrvPart.reset : SrvPart :=
  { notices := [], runs := [], staging := [], pages := [], pfFree := 0, ms := 0, admitted := 0, waitAdpt := [], xfers := [] }

/-- A request ring (R353): owner function, partition, size, TAIL and consumed index. -/
structure ReqRing where
  fn : Nat
  part : Nat
  base : Nat
  entries : Nat
  wb : Nat
  tail : Nat
  cons : Nat
  deriving DecidableEq, Repr

/-- An output ring (R354): owner function, partition, remote target (hall address), size, vector, moderation, producer and
consumer index, unsignalled records and the instant of the first of them. -/
structure OutRing where
  fn : Nat
  part : Nat
  remote : Option Nat
  base : Nat
  entries : Nat
  wb : Nat
  vector : Nat
  modUs : Nat
  modCnt : Nat
  prod : Nat
  cons : Nat
  unsig : Nat
  since : Option Nat
  /-- For a remote target: the consumer index is being read; it has been read and a batch is open (R354); the records as written, by index, for a
  STK_WR carries a half-line. -/
  asked : Bool
  batch : Bool
  recs : SMap (List Byte)
  deriving DecidableEq, Repr

/-- An adapter replacement or unload under way (R333): ID, new generation, forced, the slot being loaded when there is one, the slot
of the old generation, whether nothing replaces it, and the segments that wait for the old slot. -/
structure Replace where
  id : Nat
  gen : Nat
  force : Bool
  slot : Option Nat
  old : Nat
  unload : Bool
  segs : List SegIn
  fn : Nat
  deriving DecidableEq, Repr

/-- The serving engine. -/
structure SrvSt where
  parts : SMap SrvPart
  rq : SMap (Option ReqRing)
  oq : SMap (Option OutRing)
  replaces : List Replace
  /-- Remainders of the refill of each account, in 1/1000 of 1/256 token (R325). -/
  acctFrac : SMap Nat
  deriving DecidableEq, Repr

/-- Nothing served. -/
def SrvSt.reset : SrvSt := { parts := [], rq := [], oq := [], replaces := [], acctFrac := [] }

/-- The time base and the gate beside their registers: number of the next base boundary (R218); K latched by RELEASE and
whether the RELEASE was late (R227); samples in a row within LOCK_LIM, and bad ones (R215); the last accepted θ; the instant of
the last valid SYNC of each port and the sync state it carried (R216); the instant at which HOLDOVER began. -/
structure TimeSt where
  next : Nat
  gateK : Nat
  gateLate : Bool
  lockRun : Nat
  badRun : Nat
  theta : Option Int
  heard : SMap Nat
  state : SMap Nat
  /-- Instant at which d of a port was last measured, plus 1. -/
  meas : SMap Nat
  /-- Instant at which the last SYNC markers were sent (R214). -/
  markAt : Nat
  /-- ACQUIRE has had its first sample. -/
  sampled : Bool
  holdSince : Nat
  /-- TB_TIME, in ns, that the instant at which the last cold reset ended has on the present time base (LC_UPTIME). -/
  upOfs : Int
  deriving DecidableEq, Repr

/-- The time base after a cold reset. -/
def TimeSt.reset : TimeSt :=
  { next := 0, gateK := 0, gateLate := false, lockRun := 0, badRun := 0, theta := none, heard := [], state := [],
    meas := [], markAt := 0, sampled := false, holdSince := 0, upOfs := 0 }

/-- A BAR2 page beside its memory (Table 12.10): state of each slot (0 FREE, 1 BUSY, 2 DONE), indices of the event queue, MB_IRQ,
notices dropped since the last one written, the last SEQ given, the MSI-X vectors that are not masked and those that are pending, and OQ_HEAD of
each output ring. -/
structure Page where
  slots : SMap Nat
  eqHead : Nat
  eqTail : Nat
  doneEn : Bool
  eqEn : Bool
  dropped : Nat
  seq : Nat
  unmasked : NSet
  vpend : NSet
  oqHead : SMap Nat
  deriving DecidableEq, Repr

/-- A page after a reset. PRESUMED (log entry 69): every vector is masked, as the PCIe base specification resets it. -/
def Page.reset : Page := { slots := [], eqHead := 0, eqTail := 0, doneEn := false, eqEn := false, dropped := 0, seq := 0, unmasked := [], vpend := [], oqHead := [] }

/-- The sensors and the telemetry converter beside their registers: per sensor the instant, plus 1, of its last valid sample (R421);
stacks at double refresh (R419); warning conditions of the halves last reported (R416); MAINS and LP of the conversion in progress
(R424). -/
structure ThmSt where
  validAt : SMap Nat
  refresh2 : NSet
  warnW : Bool
  warnE : Bool
  mains : Bool
  lp : Bool
  deriving DecidableEq, Repr

/-- Sensors at rest. -/
def ThmSt.reset : ThmSt := { validAt := [], refresh2 := [], warnW := false, warnE := false, mains := false, lp := false }

/-! ### The management core -/

/-- An object that a Yarile command changes (Table 12.4, check 6). -/
inductive Obj where
  | part (n : Nat)
  | model (h : Nat)
  | adapter (id : Nat)
  | core (c : Nat)
  | port (p : Nat)
  /-- A request ring, or an output ring (`out`). -/
  | ring (out : Bool) (r : Nat)
  | plan
  | lifeCycle
  | firmware
  deriving DecidableEq, Repr

/-- What a PENDING command waits for before it may end with OK (R345). -/
inductive PendAct where
  /-- A check has failed: the command ends with this status. -/
  | fails (status : Nat)
  /-- The RWS fields, by key, have become active. -/
  | shadows (keys : List Nat)
  /-- The half clock is slow (east or west). -/
  | slow (east : Bool)
  /-- The partition's cores run, or are idle; its reset has ended; its cores run this bank. -/
  | running (n : Nat)
  | idle (n : Nat)
  | resetDone (n : Nat)
  | switched (n bank : Nat)
  /-- The adapter's old generations are gone. -/
  | adapter (id : Nat)
  /-- The arrays of a model part are steeped. -/
  | load (h : Nat)
  /-- The slots of an unloaded model are free; its arrays are erased where the command asks for it. -/
  | unload (keys : List Nat) (arrs : List (Nat × Nat)) (erase : Bool)
  /-- The core is paused, fenced and replaced. -/
  | fenced (c : Nat)
  /-- The re-steep of an array is answered. -/
  | resteep (c n : Nat)
  /-- The calibration command of a core has ended. -/
  | calDone (c : Nat)
  /-- The life-cycle transition to a state: the arrays are erased. -/
  | lifeCycle (target : Nat)
  /-- The firmware image, its version, is written and judged. -/
  | stage
  /-- The shut-down's self-test, when one runs, has ended. -/
  | shutdown (test : Bool)
  deriving DecidableEq, Repr

/-- A PENDING command (R345): function, OPCODE, TAG, SEQ, PART, buffer, objects, what it waits for, the instant at which its
TIMEOUT_MS passes, and whether an FLR has cut it off from its function (R340). -/
structure Pend where
  fn : Nat
  opcode : Nat
  tag : Nat
  seq : Nat
  part : Nat
  buf : Nat
  bufLen : Nat
  objs : List Obj
  act : PendAct
  due : Option Nat
  orphan : Bool
  deriving DecidableEq, Repr

/-- A self-test record (Table 13.5). -/
structure BistRec where
  pass : Bool
  failDom : Nat
  ver : Nat
  cov : Nat
  sig : Nat
  pt : Nat
  ms : Nat
  /-- DEVICE_ID, and the signature of the device key. -/
  dev : Nat
  sign : Nat
  deriving DecidableEq, Repr

/-- Saved training settings of a port (R363): the partner and its port, and the digest of the plan they were saved under. -/
structure SavedPort where
  peer : Nat
  peerPort : Nat
  digest : Nat
  deriving DecidableEq, Repr

/-- A firmware copy in flash (R362): version, security level, and whether it verifies. -/
structure FwCopy where
  ver : Nat
  /-- Security level, and whether its header asks to raise the anti-rollback level. -/
  level : Nat
  asks : Bool
  ok : Bool
  deriving DecidableEq, Repr

/-- What the flash keeps for the start and the life cycle (Table 13.3): start-attempt counter and last reason, detail and step
(R365); powered-time base (R369); the firmware copies A and B, which one runs, which one is preferred, and whether the other is a staged image that
verifies (R350); the last two self-test records; the open life-cycle transition (from, to, and whether its slot is programmed) and the last closed one with
the arrays that ended VERIFY_FAILED;
the saved training settings of the ports (R363). -/
structure Boot where
  attempts : Nat
  reason : Nat
  detail : Nat
  step : Nat
  base : Nat
  copyA : FwCopy
  copyB : FwCopy
  runB : Bool
  prefB : Bool
  staged : Bool
  bist : List BistRec
  journal : Option (Nat × Nat × Bool)
  closed : Option (Nat × Nat × List Nat)
  erasePend : Bool
  saved : SMap (Option SavedPort)
  deriving DecidableEq, Repr

/-- A flash as shipped. -/
def Boot.reset : Boot :=
  { attempts := 0, reason := 0, detail := 0, step := 0, base := 0, copyA := { ver := 1, level := 0, asks := false, ok := true }, copyB := { ver := 1, level := 0, asks := false, ok := true },
    runB := false, prefB := false, staged := false, bist := [], journal := none, closed := none, erasePend := false, saved := [] }

/-- Where the package stands between reset and service (R358, R371): held in cold reset, about to run a start step, draining
for a warm reset, up, or shut down. -/
inductive Phase where
  | held
  | step (n : Nat)
  | drain
  | up
  | shut
  deriving DecidableEq, Repr

/-- A per-core section of a schedule (Table 6.17). -/
structure SchedSec where
  lcore : Nat
  riHalf : Nat
  phases : List Nat
  rcps : List RcpIn
  text : List Nat
  deriving DecidableEq, Repr

/-- A schedule as firmware keeps it (Table 6.16). -/
structure Sched where
  id : Nat
  model : Nat
  tickNs : Nat
  kind : Nat
  half : Nat
  pkg : Nat
  pair : Nat
  secs : List SchedSec
  deriving DecidableEq, Repr

/-- A partition as the management core knows it (R306 to R311, R399): PID, owner VF (0: the PF), member hall addresses in order, the
place of this package, and the place of the coordinator. -/
structure PartRec where
  pid : Nat
  owner : Nat
  members : List Nat
  own : Nat
  coord : Nat
  /-- FB_LAYERS and OVR_LIM, and whether RECIPE_UNAVAILABLE and TICK_OVERRUN have been reported (R118, R226). -/
  fb : Nat
  ovr : Nat
  fbTold : Bool
  ovrTold : Bool
  /-- Acknowledged since the last window end, windows in a row without acknowledgement, and whether reports go to the standby
  coordinator (R308). -/
  acked : Bool
  missed : Nat
  toStandby : Bool
  /-- Members that have reported ready; the start tick; a start to be repeated after the stop (R309). -/
  ready : NSet
  startK : Option Nat
  restart : Bool
  /-- Ticks agreed for a stop, a pause, a reset and a switch. -/
  stopK : Option Nat
  pauseK : Option Nat
  resetK : Option Nat
  switchK : Option Nat
  /-- The partition is paused (R399). -/
  paused : Bool
  /-- A partition reset: the instant of the boundary of tick K, and whether its cores have been reset (Table 10.10). -/
  resetAt : Option Nat
  coresReset : Bool
  /-- Schedules in the two banks. -/
  bank0 : Option Sched
  bank1 : Option Sched
  /-- TB_OVR_CNT at the start of the window, and the window after the last one reported. -/
  ovrBase : Nat
  winDone : Nat
  /-- Reports that the coordinator holds: window, member, layers, resident wide partner; window, member, overruns, longer partner. -/
  fbReps : List (Nat × Nat × List Nat × Bool)
  ovReps : List (Nat × Nat × Nat × Bool)
  /-- The window after the last one decided. -/
  fbDone : Nat
  ovDone : Nat
  /-- WIN_LOG2 length under which the windows are numbered (R118). -/
  wlen : Nat
  /-- Members whose last report says that they hold a resident wide schedule, or one with a longer tick; reports found missing (R118). -/
  wides : NSet
  longs : NSet
  missing : Nat
  /-- The admission rate has been scaled for the switch that is planned (R226). -/
  scaled : Bool
  deriving DecidableEq, Repr

/-- A partition just created, at a count `ovrs` of overruns. -/
def PartRec.fresh (pid owner : Nat) (members : List Nat) (own ovrs : Nat) : PartRec :=
  { pid := pid, owner := owner, members := members, own := own, coord := 0, fb := 8, ovr := 4, fbTold := false, ovrTold := false, acked := false, missed := 0, toStandby := false, ready := [], startK := none, restart := false, stopK := none, pauseK := none, resetK := none, switchK := none, paused := false, resetAt := none, coresReset := false, bank0 := none, bank1 := none, ovrBase := ovrs, winDone := 0, fbReps := [], ovReps := [], fbDone := 0, ovDone := 0, wlen := 4096, wides := [], longs := [], missing := 0, scaled := false }

/-- One logical core's part of a model (Table 5.8): its golden region, in records of 128 KiB, and its used slots with their formats (W2). -/
structure ImgCore where
  lcore : Nat
  base : Nat
  slots : List (Nat × Bool)
  deriving DecidableEq, Repr

/-- A part of a model image as the model table keeps it (Table 5.5), with the digest table's address. -/
structure Image where
  id : BitVec 128
  digest : BitVec 384
  part : Nat
  round : Nat
  rounds : Nat
  cores : List ImgCore
  partDigest : BitVec 384
  dig : Nat
  src : SrcIn
  deriving DecidableEq, Repr

/-- An entry of the model table (Table 5.5), with what the manifest says of the part. -/
structure Model where
  handle : Nat
  img : Image
  /-- The golden copy is in place; the part is bound. -/
  golden : Bool
  bound : Bool
  /-- Arrays steeped, kept and remapped by the load (R165). -/
  counts : Nat × Nat × Nat
  deriving DecidableEq, Repr

/-- An observation of a suspect array (R402): core, array, slot, PROOF_WATCH entry, and the last tick. -/
structure Watch where
  core : Nat
  arr : Nat
  slot : Nat
  entry : Nat
  till : Nat
  deriving DecidableEq, Repr

/-- The snapshot stream (TEL_STREAM): function, interval in ms, block list as snapshot-register addresses, buffer ring, its size and
the next offset. -/
structure Stream where
  fn : Nat
  ms : Nat
  blocks : List Nat
  buf : Nat
  size : Nat
  ofs : Nat
  /-- Instant of the last snapshot. -/
  last : Nat
  deriving DecidableEq, Repr

/-- A port entry of an installation plan (Table 10.5). -/
structure PlanPort where
  peerId : Nat
  peerPort : Nat
  /-- 0 none, 1 package, 2 rack switch chip. -/
  kind : Nat
  dim : Nat
  /-- A + port. -/
  plus : Bool
  dateline : Bool
  media : Nat
  asym : Nat
  bulkRate : Nat
  bulkBurst : Nat
  mgmtRate : Nat
  mgmtBurst : Nat
  deriving DecidableEq, Repr

/-- A package record (Table 10.4). -/
structure PlanPkg where
  dev : Nat
  addr : Nat
  /-- 0 active, 1 ring spare, 2 spare-row package. -/
  role : Nat
  parent : Nat
  backup : Nat
  ports : List PlanPort
  deriving DecidableEq, Repr

/-- A switch record (R292): identity, rack and chip index, and the hall address and package port at each chip port. -/
structure PlanSwitch where
  dev : Nat
  row : Nat
  col : Nat
  k : Nat
  ends : List (Nat × Nat)
  deriving DecidableEq, Repr

/-- An installation plan (R292): the image, its digest, the header and the records. -/
structure Plan where
  image : List Byte
  pd : Nat
  set : Nat
  id : Nat
  rev : Nat
  rows : Nat
  cols : Nat
  trays : Nat
  epoch : Nat
  period : Nat
  root : Nat
  standby : Nat
  /-- SPARE_ROW_MAP (R299). -/
  spareRows : Nat
  pkgs : List PlanPkg
  switches : List PlanSwitch
  deriving DecidableEq, Repr

/-- The management core beside the registers. -/
structure FwSt where
  phase : Phase
  boot : Boot
  parts : SMap (Option PartRec)
  pends : List Pend
  /-- The log in flash, oldest record first, and the SEQ of the first (R349, R398). -/
  log : List (List Nat)
  logBase : Nat
  /-- FLT_SRC_CNT of each source at the last L0 summary; reports sent since, and those folded (R398). -/
  lastSrc : SMap Nat
  reports : Nat
  folded : Nat
  /-- Instant of the last watchdog kick; powered time at the start, in s (R369). -/
  wdogAt : Nat
  ptStart : Nat
  /-- The active and the pending installation plan (R293). -/
  plan : Option Plan
  planNext : Option Plan
  /-- Link ends that are not clear, as hall address * 16 + port: as last heard, and as the installed routes take them; the instant of
  the last change heard, and whether routes wait to be installed (R302). -/
  linksBad : NSet
  linksUsed : NSet
  changedAt : Nat
  routesDue : Bool
  /-- Link ends known to be DOWN_MISSING or FAILED, as `linksBad` keys them (R297); port states are flooded, from the end of discovery on
  (R302). -/
  linksDown : NSet
  /-- State last heard of a link end, plus 1 (R302). -/
  linkSt : SMap Nat
  floods : Bool
  /-- The substitution of a ring spare, and the reports it holds, as missing address * 2 + neighbour (R297). -/
  subst : Option Nat
  missing : NSet
  /-- The model table and the last handle given. -/
  models : List Model
  /-- A load that is not complete, or ended without its steeps, with its golden copy (R154, R165). -/
  placed : Option Model
  lastHandle : Nat
  /-- The next fetch of a model from its pool, plus 1 (R169). -/
  retryAt : SMap Nat
  /-- Weight state in flash (Table 5.5): array serving each slot of each logical core, plus 1, and the slots with W2; the
  content word of each array, plus 1; cycle counts; last steep times; the retired map; the open batch records, by number. Arrays are numbered
  core * 2624 + array, slots logical core * 2560 + slot. -/
  slotMap : SMap Nat
  slotFmt : NSet
  /-- The entries of the model table, which the content words name by index: image and part, plus 1. -/
  table : SMap Nat
  content : SMap Nat
  cycles : SMap Nat
  steepAt : SMap Nat
  retired : NSet
  openBatch : List (Nat × List Nat)
  batchNo : Nat
  /-- The calibration sets in flash, addressed like the stores (R141). -/
  calFlash : List (Nat × Byte)
  /-- CAL_SRC, CAL_CHK_BAND, CAL_DMON_LIM and CAL_CTL.TSTEP as firmware last wrote them, plus 1, by field: what R141 writes again,
  kept in flash with the sets. -/
  calCfg : SMap Nat
  /-- Re-steep requests beside CAL_RESTEEP (R170); the instant, plus 1, since which a core without spares defers them (R171). -/
  asks : NSet
  /-- Arrays that a rotation has displaced and that wait for their erase (1), or for a test steep first (2), and those whose
  rotation answers a suspicion (R170, R402). -/
  displaced : SMap Nat
  suspects : NSet
  deferAt : SMap Nat
  watches : List Watch
  /-- Replica digest interval in minutes, and the instant of the last check (R405). -/
  digestMin : Nat
  digestAt : Nat
  stream : Option Stream
  /-- Management sessions (R378), and the ownership record (R381). -/
  sessions : Nat
  own : Option OwnIn
  /-- The device key is disabled (R379). -/
  keyOff : Bool
  /-- Halves that throttle has lowered (R418). -/
  lowW : Bool
  lowE : Bool
  /-- Half clocks that are lowered at an agreed tick: the tick, and east (R232, R417). -/
  halfAt : List (Nat × Bool)
  /-- A staged image that failed authentication at its activation (R350). -/
  actFailed : Bool
  /-- Step 4 of the start order is under way (R358). -/
  stepFour : Bool
  deriving DecidableEq, Repr

/-- The management core when a cold reset has ended. -/
def FwSt.reset : FwSt :=
  { phase := .step 0, boot := Boot.reset, parts := [], pends := [], log := [], logBase := 0, lastSrc := [], reports := 0, folded := 0, wdogAt := 0, ptStart := 0, plan := none, planNext := none, linksBad := [], linksUsed := [], changedAt := 0, routesDue := false, linksDown := [], linkSt := [], floods := false, subst := none, missing := [], models := [], placed := none, lastHandle := 0, retryAt := [], slotMap := [], slotFmt := [], table := [], content := [], cycles := [], steepAt := [], retired := [], openBatch := [], batchNo := 0, calFlash := [], calCfg := [], asks := [], displaced := [], suspects := [], deferAt := [], watches := [], digestMin := 10, digestAt := 0, stream := none, sessions := 0, own := none, keyOff := false, lowW := false, lowE := false, halfAt := [], actFailed := false, stepFour := false }

end Sys2Proof.Machine
end

