-- ==== Sys2Proof/Machine/State.lean ====
section
/-! DEFINITION. The state of the package. -/
namespace Sys2Proof.Machine

/-- An RWS write that waits for its boundary (R15): the field, the time base at its arrival, and whether the gate holds
it (R227). -/
structure Shadow where
  fld : Fld
  time : Nat
  held : Bool
  /-- The value this write gave, when a later write has reached the field since the instant of a boundary that is still to run. -/
  old : Option Nat := none
  deriving DecidableEq, Repr

/-- The last host snapshot (R23): its snapshot register, the time base, CLEAR, and the block's counters and copies before it. -/
structure HostSnap where
  addr : Nat
  time : Nat
  clear : Bool
  live : SMap Nat
  copies : SMap Nat
  deriving DecidableEq, Repr

/-- The test access port (R447): in Test-Logic-Reset the instruction register selects IDCODE. -/
structure TapSt where
  testLogicReset : Bool
  selectsIdcode : Bool
  deriving DecidableEq, Repr

/-- A read latch of one agent (R13): the address whose upper half is latched, and the half. -/
structure Latch where
  addr : Nat
  half : Nat
  deriving DecidableEq, Repr

/-- A fault record (Table 14.11). -/
structure FltRec where
  time : Nat
  src : Nat
  dom : Nat
  cls : Nat
  esc : Bool
  access : Nat
  node : Nat
  unit : Nat
  addr : Nat
  detail : Nat
  deriving DecidableEq, Repr

/-- An armed injection (R408): the values taken at GO, whether it has reached its instant, and how often it applied. -/
structure Inj where
  kind : Nat
  hide : Bool
  count : Nat
  src : Nat
  dom : Nat
  tgt : Nat
  time : Nat
  active : Bool
  done : Nat
  deriving DecidableEq, Repr

/-- The fault collector beside its registers. -/
structure FltSt where
  /-- The event queue, at most 256 records (R391). -/
  queue : List FltRec
  /-- Pending bits of the units that raise escalating L0 sources, by domain (R389). -/
  unitPend : NSet
  /-- Domains with an unacknowledged event of an escalating L0 or L1 source in the window (R389). -/
  esc0 : NSet
  esc1 : NSet
  /-- The first L3 and the first L4 event since a warm or cold reset have pulsed (R396). -/
  pulsed3 : Bool
  pulsed4 : Bool
  inj : Option Inj
  deriving DecidableEq, Repr

/-- The collector at rest. -/
def FltSt.reset : FltSt :=
  { queue := [], unitPend := [], esc0 := [], esc1 := [], pulsed3 := false, pulsed4 := false, inj := none }

/-- What the serving engine would have committed at the last boundary, in a package that enters safe state at that boundary's instant (R38):
registers of its block, and what it keeps beside them. -/
structure Undo where
  time : Nat
  regs : SMap Nat
  srv : SrvSt
  deriving DecidableEq, Repr

/-- The state. Registers are in `regs` (current value, or the shadow of an RWS field), keyed by the bit address of the
field; a field that is not listed holds its reset value. -/
structure State where
  pending : List Instr
  regs : SMap Nat
  /-- Active values of RWS fields (R15); a field that is not listed is at its reset value. -/
  act : SMap Nat
  shadows : List Shadow
  /-- Snapshot copies of counters (R22). -/
  snap : SMap Nat
  latchH : Option Latch
  latchM : Option Latch
  /-- Data of the last read of each agent, on the bus (R13). -/
  readH : Nat
  readM : Nat
  /-- ARR_ACC of the management core and CAL_SET_PAGE of the management core: the second copies (Tables 2.13, 4.6). -/
  regsM : SMap Nat
  /-- Time base, plus 1, at which hardware last set a W1C bit, by the bit's address (R16). -/
  setAt : SMap Nat
  hostSnap : Option HostSnap
  tap : TapSt
  /-- Fraction of TB_TIME, in 2^-32 ns (R212). -/
  frac : Nat
  cores : SMap CoreSt
  mem : Mems
  mesh : List Packet
  stks : SMap StkSt
  ports : SMap PortSt
  /-- Cells that have reached the management core, with the port they entered by. -/
  inbox : List (Nat × Cell)
  /-- Bytes that crossed each seam FIFO direction in the current base tick (R230). -/
  seam : SMap Nat
  /-- At each output of a router (8 * router + output): grants since a waiting BULK flit was last served (Table 8.3). -/
  arb : SMap Nat
  flt : FltSt
  srv : SrvSt
  time : TimeSt
  thm : ThmSt
  fw : FwSt
  /-- BAR2 pages by function, and their bytes at function * 2^16 + offset (R341, R355). -/
  pages : SMap Page
  mbx : List (Nat × Byte)
  /-- Arrays the fuses list as bad, as core * 2624 + array (R84). -/
  badArr : NSet
  /-- Start of the earliest power ramp that may follow those started or waiting (R411). -/
  rampNext : Nat
  /-- Messages that have left, oldest first: the MODEL's own record of what agents and peers see. -/
  out : List Msg
  /-- PWROFF_REQ_N is driven low (R436). -/
  pwroff : Bool
  phys : PhysSt
  undo : Option Undo
  /-- Counter of the free values drawn so far: the MODEL's own field. -/
  free : Nat
  deriving DecidableEq, Repr

/-- Why a command cannot be carried out. -/
inductive Fault where
  /-- A command whose operands are outside the ranges that `Instr.wf` lists. No meaning raises it: every command takes a next state; it
  is the name under which a tool that checks `Instr.wf` before it queues a command turns one away. Safe: nothing follows about such a
  command. -/
  | illFormed
  deriving DecidableEq, Repr

/-- Why a command has no meaning. -/
inductive Refusal where
  /-- No meaning is written for the command. `exec` would raise it in an arm rejected by name; no arm is. Safe: nothing follows about
  such a command. -/
  | notModelled (mnemonic : String)
  deriving DecidableEq, Repr

/-- The package after a cold reset, before any start step: every register at its reset value, nothing stored. -/
def State.reset : State :=
  { pending := [], regs := [], act := [], shadows := [], snap := [], latchH := none, latchM := none, readH := 0, readM := 0, regsM := [], setAt := [], hostSnap := none, tap := { testLogicReset := true, selectsIdcode := true },
    frac := 0, cores := [], mem := Mems.empty, mesh := [], stks := [], ports := [], inbox := [], seam := [], arb := [], flt := FltSt.reset, srv := SrvSt.reset, time := TimeSt.reset, thm := ThmSt.reset, fw := FwSt.reset, pages := [], mbx := [], badArr := [], rampNext := 0, out := [],
    pwroff := false, phys := PhysSt.reset, undo := none, free := 0 }

end Sys2Proof.Machine
end

