-- ==== Sys2Proof/Machine/Ops.lean ====
section
/-! DEFINITION. The named operations over registers, counters, memories, cores and time that every meaning uses. -/
namespace Sys2Proof.Machine

/-! ### Registers -/

/-- Current value of a field; for an RWS field, its shadow (R14). -/
def get (s : State) (f : Fld) : Nat := SMap.get f.reset s.regs f.key

/-- Writes a field, cut to its width. -/
def set (f : Fld) (v : Nat) (s : State) : State :=
  { s with regs := SMap.put f.reset s.regs f.key (v % 2 ^ f.width) }

/-- Is a one-bit field 1? -/
def flag (s : State) (f : Fld) : Bool := get s f == 1

/-- Writes a one-bit field. -/
def setB (f : Fld) (b : Bool) (s : State) : State := set f (if b then 1 else 0) s

/-- Active value of an RWS field (R15). -/
def actv (s : State) (f : Fld) : Nat := SMap.get f.reset s.act f.key

/-- Is the active value of a one-bit RWS field 1? -/
def actB (s : State) (f : Fld) : Bool := actv s f == 1

/-- Makes a value active. -/
def setAct (f : Fld) (v : Nat) (s : State) : State :=
  { s with act := SMap.put f.reset s.act f.key (v % 2 ^ f.width) }

/-- Writes shadow and active value together: what hardware and resets set at once. -/
def setBoth (f : Fld) (v : Nat) (s : State) : State := setAct f v (set f v s)

/-- A counter counts up by `n` and saturates (R21). -/
def bumpN (f : Fld) (n : Nat) (s : State) : State := set f (min (get s f + n) (2 ^ 64 - 1)) s

/-- A counter counts one. -/
def bump (f : Fld) (s : State) : State := bumpN f 1 s

/-- A field read in two's complement. -/
def geti (s : State) (f : Fld) : Int := (BitVec.ofNat f.width (get s f)).toInt

/-- An active value read in two's complement. -/
def actvi (s : State) (f : Fld) : Int := (BitVec.ofNat f.width (actv s f)).toInt

/-- Two's complement of `i` in `w` bits. -/
def twos (w : Nat) (i : Int) : Nat := (BitVec.ofInt w i).toNat

/-- Bits `hi : lo` of a number. -/
def bits (v lo w : Nat) : Nat := v / 2 ^ lo % 2 ^ w

/-- One bit of a number. -/
def bit (v i : Nat) : Bool := v / 2 ^ i % 2 == 1

/-- A bit of a register field used as a bit map. -/
def getBit (s : State) (f : Fld) (i : Nat) : Bool := bit (get s f) i

/-- A number with bit `i` set or cleared. -/
def withBit (v i : Nat) (b : Bool) : Nat :=
  if bit v i then (if b then v else v - 2 ^ i) else (if b then v + 2 ^ i else v)

/-- Sets or clears a bit of a field used as a bit map. -/
def setBit (f : Fld) (i : Nat) (b : Bool) (s : State) : State := set f (withBit (get s f) i b) s

/-- Hardware has set bit `i` of a W1C field in this cycle of the time base (R16). -/
def noteSet (f : Fld) (i : Nat) (s : State) : State :=
  { s with setAt := SMap.put 0 s.setAt (f.key + i) (get s F.TB_TIME_TIME + 1) }

/-- Hardware sets bit `i` of a W1C field. -/
def hwSet (f : Fld) (i : Nat) (s : State) : State := noteSet f i (setBit f i true s)

/-- The bits of `ones` that an agent clears in a W1C field: what hardware sets in the same cycle stays set (R16). -/
def clears (s : State) (f : Fld) (ones : Nat) : Nat :=
  (List.range f.width).foldl (fun m i =>
    if bit ones i && SMap.get 0 s.setAt (f.key + i) != get s F.TB_TIME_TIME + 1 then m + 2 ^ i else m) 0

/-- Applies an effect when a condition holds. -/
def when (b : Bool) (f : State → State) (s : State) : State := if b then f s else s

/-- Applies an effect for each element in turn. -/
def each {α : Type} (l : List α) (f : α → State → State) (s : State) : State := l.foldl (fun s a => f a s) s

/-- Applies an effect for 0, 1, ..., n - 1. -/
def upTo (n : Nat) (f : Nat → State → State) (s : State) : State := each (List.range n) f s

/-- The i-th element of a list, or a default. -/
def nth {α : Type} (d : α) (l : List α) (i : Nat) : α := l.getD i d

/-- The numbers of a list without repeats, in order of first appearance. -/
def uniq (l : List Nat) : List Nat := l.foldl (fun r a => if r.contains a then r else r ++ [a]) []

/-- A message leaves. -/
def emit (d : Party) (t : Topic) (args : List Nat) (s : State) : State :=
  { s with out := s.out ++ [{ dst := d, topic := t, args := args }] }

/-! ### Time -/

/-- The time base in ns (R212). -/
def now (s : State) : Nat := get s F.TB_TIME_TIME

/-- The time base moves on to an instant; it never goes back. -/
def moveTo (t : Nat) (s : State) : State :=
  if t > now s then { set F.TB_TIME_TIME t s with frac := 0 } else s

/-- The device's age in ns: no step of the time base and no reset changes it. -/
def age (s : State) : Nat := ((now s : Int) - s.phys.ofs).toNat

/-- Changes what the silicon keeps. -/
def updPhys (f : PhysSt → PhysSt) (s : State) : State := { s with phys := f s.phys }

/-- The time base enters FREE or ROOT: it runs by its own reference, and the last correction is no more (Table 7.1). -/
def ownTime (st : Nat) (s : State) : State := s |> set F.TB_STAT_SYNC st |> set F.TB_STAT_PORT 0xF |> set F.TB_RATE_PPB 0

/-- A fresh free value's number. -/
def drawFree (s : State) : Nat × State := (s.free, { s with free := s.free + 1 })

/-! ### Blocks held in reset -/

/-- The network plane and the stacks are held in reset: minimal mode (R366), a warm package reset while it drains (Table 13.7), and a package
that is shut down (R371). -/
def netHeld (s : State) : Bool := flag s F.MBX_CTL_MINIMAL || s.fw.phase == .drain || s.fw.phase == .shut

/-- A register write that reaches the network plane or the stacks: while they are held in reset it is ignored and counted (R43). -/
def ifNet (f : State → State) (s : State) : State := if netHeld s then bump F.GLB_DENIED_CNT s else f s

/-! ### Cores -/

/-- A core's state. -/
def core (s : State) (c : Nat) : CoreSt := SMap.get CoreSt.reset s.cores c

/-- Changes a core's state. -/
def updCore (c : Nat) (f : CoreSt → CoreSt) (s : State) : State :=
  { s with cores := SMap.put CoreSt.reset s.cores c (f (core s c)) }

/-- Core states of Table 6.19. -/
def cOff : Nat := 0
/-- RESET. -/
def cReset : Nat := 1
/-- IDLE. -/
def cIdle : Nat := 2
/-- RUNNING. -/
def cRunning : Nat := 3
/-- FENCED. -/
def cFenced : Nat := 4

/-- CORE_CTL_STATE.STATE. -/
def coreState (s : State) (c : Nat) : Nat := get s (F.CORE_CTL_STATE_STATE c)

/-- The core runs tick programs. -/
def coreRuns (s : State) (c : Nat) : Bool := coreState s c == cRunning

/-- The compute domain is powered and out of reset (R43). -/
def coreUp (s : State) (c : Nat) : Bool := coreState s c == cIdle || coreState s c == cRunning

/-- Physical cores 0 to 19. -/
def allCores : List Nat := List.range 20

/-- The fuses list the core as good. -/
def coreGood (s : State) (c : Nat) : Bool := getBit s F.LC_CORE_FUSE_GOOD c

/-- The core's partition, when it has one (active values of CORE_CTL_ID). -/
def corePart (s : State) (c : Nat) : Option Nat :=
  if actB s (F.CORE_CTL_ID_PVALID c) then some (actv s (F.CORE_CTL_ID_PART c)) else none

/-- The cores of a partition. -/
def partCores (s : State) (p : Nat) : List Nat := allCores.filter fun c => corePart s c == some p

/-- The core's router is present (R235). -/
def routerPresent (s : State) (c : Nat) : Bool := flag s (F.RTR_STAT_PRESENT c)

/-- A router counter counts; those of a listed router stay 0 (R260). -/
def bumpRtr (c : Nat) (f : Fld) (s : State) : State := when (routerPresent s c) (bump f) s

/-! ### Bytes -/

/-- A byte of a memory. -/
def rdByte (m : List (Nat × Byte)) (a : Nat) : Byte := SMap.get 0 m a

/-- `n` bytes from an address. -/
def rdBytes (m : List (Nat × Byte)) (a n : Nat) : List Byte := (List.range n).map fun i => rdByte m (a + i)

/-- Writes bytes from an address on. -/
def wrBytes (m : List (Nat × Byte)) (a : Nat) : List Byte → List (Nat × Byte)
  | [] => m
  | b :: bs => wrBytes (SMap.put 0 m a b) (a + 1) bs

/-- Little-endian number of bytes (R11). -/
def leNat : List Byte → Nat
  | [] => 0
  | b :: bs => b.toNat + 256 * leNat bs

/-- The `n` little-endian bytes of a number. -/
def natLe : Nat → Nat → List Byte
  | 0, _ => []
  | n + 1, v => BitVec.ofNat 8 v :: natLe n (v / 256)

/-- A little-endian number at a byte offset of a list. -/
def leAt (l : List Byte) (ofs n : Nat) : Nat := leNat ((l.drop ofs).take n)

/-- `n` zero bytes. -/
def zeros (n : Nat) : List Byte := List.replicate n 0

/-- The 256 BF16 values of a row. -/
def rowBf (row : List Byte) : List Nat := (List.range 256).map fun i => leAt row (2 * i) 2

/-- A row of 256 BF16 values. -/
def bfRow (vs : List Nat) : List Byte := (List.range 256).flatMap fun i => natLe 2 (nth 0 vs i)

/-! ### Scratchpad rows, stack lines, program words -/

/-- Byte address of a scratchpad row in `mem.spad`. -/
def rowAddr (c r : Nat) : Nat := c * 2 ^ 24 + r * 512

/-- The bytes of a row. -/
def rowBytes (s : State) (c r : Nat) : List Byte := rdBytes s.mem.spad (rowAddr c r) 512

/-- The poison mark of a row (R193). -/
def rowPoison (s : State) (c r : Nat) : Bool := NSet.has s.mem.spadPoison (c * 2 ^ 15 + r)

/-- Sets or clears the poison mark of a row. -/
def markRow (c r : Nat) (b : Bool) (s : State) : State :=
  let k := c * 2 ^ 15 + r
  let m := bif b then NSet.add s.mem.spadPoison k else NSet.del s.mem.spadPoison k
  { s with mem := { s.mem with spadPoison := m } }

/-- Stores bytes into a row, from byte `ofs`; the check codes of the slices written are consistent again. -/
def putRow (c r ofs : Nat) (bs : List Byte) (s : State) : State :=
  let k := c * 2 ^ 15 + r
  let bad := NSet.erase s.mem.spadBad (32 * k + (ofs + 15) / 16) (32 * k + (ofs + bs.length) / 16)
  { s with mem := { s.mem with spad := wrBytes s.mem.spad (rowAddr c r + ofs) bs, spadBad := bad } }

/-- A unit of the core writes a row (R194): data and poison mark, and the written-row map (R225). The mark is also set
while the core's outputs carry POISONED (R188, R193). -/
def writeRow (c r : Nat) (bs : List Byte) (poison : Bool) (s : State) : State :=
  let p := poison || (core s c).outPoison
  updCore c (fun k => { k with outRows := NSet.add k.outRows r }) (markRow c r p (putRow c r 0 (bs.take 512) s))

/-- Lines of the package stack space (R244). -/
def lineCount : Nat := 603979776

/-- The stack of a line (Table 8.5). -/
def lineStack (l : Nat) : Nat := l % 3
/-- The channel of a line. -/
def lineChannel (l : Nat) : Nat := l / 3 % 32
/-- The bank of a line. -/
def lineBank (l : Nat) : Nat := l / 3 / 32 / 98304
/-- The fault domain of a line's stack channel (Table 14.2). -/
def lineDom (l : Nat) : Nat := 0x40 + lineStack l * 32 + lineChannel l

/-- The bytes of a stack line. -/
def lineBytes (s : State) (l : Nat) : List Byte := rdBytes s.mem.stk (l * 512) 512

/-- The poison mark of a stack line (R248). -/
def linePoison (s : State) (l : Nat) : Bool := NSet.has s.mem.stkPoison l

/-- Sets or clears the poison mark of a stack line. -/
def markLine (l : Nat) (b : Bool) (s : State) : State :=
  let m := bif b then NSet.add s.mem.stkPoison l else NSet.del s.mem.stkPoison l
  { s with mem := { s.mem with stkPoison := m } }

/-- Stores bytes in the stacks. -/
def putStk (a : Nat) (bs : List Byte) (s : State) : State :=
  { s with mem := { s.mem with stk := wrBytes s.mem.stk a bs } }

/-- Bytes of the stacks. -/
def getStk (s : State) (a n : Nat) : List Byte := rdBytes s.mem.stk a n

/-- Byte address of an instruction in `mem.prog`. -/
def progAddr (c bank i : Nat) : Nat := c * 2 ^ 19 + bank * 2 ^ 18 + i * 16

/-- A 128-bit instruction of a program bank (R181). -/
def progWord (s : State) (c bank i : Nat) : Nat := leNat (rdBytes s.mem.prog (progAddr c bank i) 16)

/-- CLASS of an instruction (Table 6.2). -/
def iClass (w : Nat) : Nat := bits w 0 4
/-- OP of an instruction. -/
def iOp (w : Nat) : Nat := bits w 4 4

/-! ### Tick boundaries (R218 to R222) -/

/-- Base tick period in ns. -/
def basePeriod (s : State) : Nat := get s F.TB_TICK_PERIOD_PERIOD

/-- The instant of base boundary `k` (R30, R218). -/
def boundaryAt (s : State) (k : Nat) : Nat := get s F.TB_EPOCH_EPOCH + k * basePeriod s

/-- Active divider of a partition, 2^DIV_LOG2 (R220). -/
def partDiv (s : State) (p : Nat) : Nat := 2 ^ actv s (F.TB_PART_DIV_LOG2 p)

/-- Divider of a core's ticks: its partition's, or 1 (R221). -/
def coreDiv (s : State) (c : Nat) : Nat := match corePart s c with | some p => partDiv s p | none => 1

/-- End of the core's current tick. -/
def tickEnd (s : State) (c : Nat) : Nat := (core s c).tickStart + basePeriod s * coreDiv s c

/-- Marker interval in ns, 2^MK_LOG2 µs (R214). -/
def markerInterval (s : State) : Nat := 1000 * 2 ^ get s F.TB_SYNC_CFG_MK_LOG2

/-- TB_LINK_DELAY(p).VALID: d was measured within the last 4 marker intervals (Table 7.8). -/
def delayValid (s : State) (p : Nat) : Bool :=
  let m := SMap.get 0 s.time.meas p
  m != 0 && decide (now s + 1 ≤ m + 4 * markerInterval s)

/-! ### Erasing register ranges -/

/-- Returns the registers at byte addresses `lo` to `hi - 1` to their reset values: shadows, active values, snapshot
copies and waiting writes. -/
def eraseRegs (lo hi : Nat) (s : State) : State :=
  { s with
    regs := SMap.erase s.regs (8 * lo) (8 * hi)
    act := SMap.erase s.act (8 * lo) (8 * hi)
    snap := SMap.erase s.snap (8 * lo) (8 * hi)
    regsM := SMap.erase s.regsM (8 * lo) (8 * hi)
    shadows := s.shadows.filter fun h => decide (h.fld.key < 8 * lo) || decide (8 * hi ≤ h.fld.key) }

/-- First byte address of a core's block (R45). -/
def coreBase (c : Nat) : Nat := 0x1000000 + c * 0x100000

/-- Changes the management core's state. -/
def updFw (f : FwSt → FwSt) (s : State) : State := { s with fw := f s.fw }

/-- Changes the boot block. -/
def updBoot (f : Boot → Boot) (s : State) : State := updFw (fun k => { k with boot := f k.boot }) s

end Sys2Proof.Machine
end

