-- ==== Sys2Proof/Machine/Page.lean ====
section
/-! DEFINITION. The BAR2 pages: slots, responses, event queue, notices (R341 to R347, R355). -/
namespace Sys2Proof.Machine

/-- A function's page. -/
def page (s : State) (f : Nat) : Page := SMap.get Page.reset s.pages f

/-- Changes a page. -/
def updPage (f : Nat) (g : Page → Page) (s : State) : State :=
  { s with pages := SMap.put Page.reset s.pages f (g (page s f)) }

/-- State of a slot: 0 FREE, 1 BUSY, 2 DONE. -/
def slotSt (s : State) (f i : Nat) : Nat := SMap.get 0 (page s f).slots i

/-- The slots of a page that are in a state, as a bit map. -/
def slotMap (s : State) (f st : Nat) : Nat :=
  (List.range 8).foldl (fun m i => if slotSt s f i = st then m + 2 ^ i else m) 0

/-- Puts a slot into a state; MBX_FN(f).BUSY follows. -/
def putSlot (f i st : Nat) (s : State) : State :=
  let s1 := updPage f (fun k => { k with slots := SMap.put 0 k.slots i st }) s
  if f < 33 then set (F.MBX_FN_BUSY f) (slotMap s1 f 1) s1 else s1

/-- Bytes of a page. -/
def mbBytes (s : State) (f ofs n : Nat) : List Byte := rdBytes s.mbx (f * 65536 + ofs) n

/-- Stores bytes in a page. -/
def putPage (f ofs : Nat) (bs : List Byte) (s : State) : State := { s with mbx := wrBytes s.mbx (f * 65536 + ofs) bs }

/-- First byte of request slot `i`. -/
def reqOfs (i : Nat) : Nat := 0x8000 + i * 0x800
/-- First byte of response slot `i`. -/
def rspOfs (i : Nat) : Nat := 0xC000 + i * 0x800

/-- MB_STAT (Table 12.10). -/
def mbStat (s : State) (f : Nat) : Nat :=
  slotMap s f 1 + 256 * slotMap s f 2 + 65536 * get s F.MBX_CTL_FW_UP + 131072 * get s F.MBX_CTL_MINIMAL +
    262144 * get s F.MBX_CTL_UPDATING

/-- Vectors of a function (Table 12.1). -/
def vectors (f : Nat) : Nat := if f = 0 then 64 else 16

/-- An MSI-X vector of a function: sent, or pending while its entry is masked (R338). -/
def raiseVector (f v : Nat) (s : State) : State :=
  if NSet.has (page s f).unmasked v then emit (.host f) .vector [v] s else updPage f (fun k => { k with vpend := NSet.add k.vpend v }) s

/-- A function writes the vector control of an entry, whose bit 0 masks the vector: one that is pending is then sent. -/
def maskVector (f v : Nat) (m : Bool) (s : State) : State :=
  if m then updPage f (fun k => { k with unmasked := NSet.del k.unmasked v }) s
  else
    let s1 := updPage f (fun k => { k with unmasked := NSet.add k.unmasked v, vpend := NSet.del k.vpend v }) s
    when (NSet.has (page s f).vpend v) (raiseVector f v) s1

/-- Pending bits of the 32 vectors from `32 * i` on. -/
def pendingBits (s : State) (f i : Nat) : Nat :=
  (List.range 32).foldl (fun a k => if NSet.has (page s f).vpend (32 * i + k) then a + 2 ^ k else a) 0

/-- Vendor ID, device ID and class code of a function (Table 12.1). -/
def pciIdentity (f : Nat) : Nat × Nat × Nat := (0x1F5B, if f = 0 then 0x0940 else 0x0941, 0x120000)

/-- A message header (Table 12.3). -/
structure Header where
  opcode : Nat
  version : Nat
  flags : Nat
  tag : Nat
  plen : Nat
  status : Nat
  part : Nat
  bufAddr : Nat
  bufLen : Nat
  resLen : Nat
  timeout : Nat
  seq : Nat
  inl : List Byte
  deriving DecidableEq, Repr

/-- The 64 bytes of a header. -/
def Header.bytes (h : Header) : List Byte :=
  natLe 2 h.opcode ++ natLe 1 h.version ++ natLe 1 h.flags ++ natLe 4 h.tag ++ natLe 2 h.plen ++ natLe 1 h.status ++
    natLe 1 h.part ++ zeros 4 ++ natLe 8 h.bufAddr ++ natLe 4 h.bufLen ++ natLe 4 h.resLen ++ natLe 4 h.timeout ++
    natLe 4 h.seq ++ (h.inl ++ zeros 24).take 24

/-- The header in a request slot. -/
def reqHeader (s : State) (f i : Nat) : Header :=
  let b := mbBytes s f (reqOfs i) 64
  { opcode := leAt b 0 2, version := leAt b 2 1, flags := leAt b 3 1, tag := leAt b 4 4, plen := leAt b 8 2,
    status := leAt b 10 1, part := leAt b 11 1, bufAddr := leAt b 16 8, bufLen := leAt b 24 4, resLen := leAt b 28 4,
    timeout := leAt b 32 4, seq := leAt b 36 4, inl := (b.drop 40) }

/-- The `k`-th message that carries a part of a long payload over a management transport. DESIGN CHOICE (log entry 67): a continuation has the same
header with its own PAYLOAD_LEN, and its number in the first 4 bytes of INLINE. -/
def part (h : Header) (payload : List Byte) (k : Nat) : List Byte :=
  let d := (payload.drop (1984 * k)).take 1984
  { h with plen := d.length, inl := if k = 0 then h.inl else natLe 4 k }.bytes ++ d

/-- A management transport sends a message: over MCTP as a vendor-defined PCI message with the vendor ID; a longer payload follows in continuation
messages of the same TAG (R352). -/
def sendReply (f : Nat) (h : Header) (payload : List Byte) (s : State) : State :=
  let pre := if f = 33 then natLe 2 (pciIdentity 0).1 else []
  upTo (max 1 ((payload.length + 1983) / 1984)) (fun k s => emit (.host f) .reply ((pre ++ part h payload k).map fun b => b.toNat) s) s

/-- Writes response slot `i` and makes it DONE, with vector 0 when MB_IRQ.DONE_EN is set; a management transport gets the
response as a message (R342, R352). -/
def putResponse (f i : Nat) (h : Header) (payload : List Byte) (s : State) : State :=
  let s1 := s |> putPage f (rspOfs i) (h.bytes ++ payload.take 1984) |> putSlot f i 2
  if f < 33 then when (page s1 f).doneEn (raiseVector f 0) s1 else sendReply f h payload s1

/-- Entries of the event queue that are free (R346). -/
def eqFreeCount (s : State) (f : Nat) : Nat := 64 - ((page s f).eqTail + 65536 - (page s f).eqHead) % 65536

/-- Writes an entry of the event queue; a management transport gets a message, with the whole result as its payload (R346, R352). -/
def putEvent (f : Nat) (h : Header) (s : State) : State :=
  if f < 33 then
    let t := (page s f).eqTail
    let s1 := s |> putPage f (0x1000 + t % 64 * 64) h.bytes |> updPage f fun k => { k with eqTail := (t + 1) % 65536 }
    when (page s1 f).eqEn (raiseVector f 0) s1
  else sendReply f h (if 24 < h.inl.length then h.inl else []) s

/-- A notice to one function: written while more than 32 entries are free, else dropped and counted (R346). -/
def noticeTo (f op part : Nat) (inl : List Byte) (s : State) : State :=
  if eqFreeCount s f ≤ 32 then bump F.MBX_EVT_DROP_CNT (updPage f (fun k => { k with dropped := k.dropped + 1 }) s)
  else
    let d := (page s f).dropped
    let data := if d = 0 then inl else (inl ++ zeros 20).take 20 ++ natLe 4 d
    let h : Header := { opcode := op, version := 3, flags := if d = 0 then 0 else 4, tag := 0, plen := 0, status := 0, part := part,
                        bufAddr := 0, bufLen := 0, resLen := inl.length, timeout := 0, seq := 0, inl := data }
    putEvent f h (updPage f (fun k => { k with dropped := 0 }) s)

/-- A notice (R346, R347, Table 12.8): to the PF, for a partition to each VF that holds it, and to the management network. -/
def notify (op : Nat) (part : Option Nat) (inl : List Byte) (s : State) : State :=
  let vfs := match part with
    | some n => (List.range 33).filter fun f => f != 0 && getBit s (F.MBX_FN_PARTS f) n
    | none => []
  let s1 := each (0 :: vfs) (fun f s => noticeTo f op (part.getD 0xFF) inl s) s
  emit .net .report ([op, part.getD 0xFF] ++ inl.map fun b => b.toNat) s1

/-- Data goes to host memory by DMA. -/
def dmaOut (f addr : Nat) (bs : List Byte) (s : State) : State :=
  emit (.host f) .hostWrite (addr :: bs.map fun b => b.toNat) (bumpN F.GLB_DMA_WR_BYTE_CNT bs.length s)

/-- Data goes to the buffer that a request names, as far as it reaches (R341). DESIGN CHOICE (log entry 67): what goes beyond BUF_LEN is not written. -/
def toBuffer (f addr len : Nat) (bs : List Byte) (s : State) : State := if addr = 0 then s else dmaOut f addr (bs.take len) s

/-- The buffer that a request names is read by DMA (R341, Table 12.13). -/
def fromBuffer (f : Nat) (h : Header) (s : State) : State := when (decide (f < 33) && h.bufAddr != 0) (bumpN F.GLB_DMA_RD_BYTE_CNT h.bufLen) s

/-- Register read in a BAR2 page by its function, 32 bits; the request mailbox and write-only registers read 0. -/
def readPage (s : State) (f ofs : Nat) : Nat :=
  if ofs = 4 then mbStat s f
  else if ofs = 0x10 then (page s f).eqHead
  else if ofs = 0x14 then (page s f).eqTail
  else if ofs = 0x18 then (if (page s f).doneEn then 1 else 0) + (if (page s f).eqEn then 2 else 0)
  else if 0x200 ≤ ofs && ofs < 0x300 then
    SMap.get 0 (page s f).oqHead ((ofs - 0x200) / 4)
  else if 0x2000 ≤ ofs && ofs < 0x2000 + 16 * vectors f && ofs % 16 = 12 then
    (if NSet.has (page s f).unmasked ((ofs - 0x2000) / 16) then 0 else 1) + leNat (mbBytes s f ofs 4) / 2 * 2
  else if 0x3000 ≤ ofs && ofs < 0x3008 then pendingBits s f ((ofs - 0x3000) / 4)
  else if (0x1000 ≤ ofs && ofs < 0x2000 + 16 * vectors f) || 0xC000 ≤ ofs then leNat (mbBytes s f ofs 4)
  else 0

/-- The function has no read access to a place of its page: the request mailbox, which it writes (R18, Table 12.10). -/
def pageReadDenied (ofs : Nat) : Bool := decide (0x8000 ≤ ofs) && decide (ofs < 0xC000)

/-- The function has no write access to a place of its page: the event queue and the response mailbox, which firmware writes (R18). -/
def pageWriteDenied (ofs : Nat) : Bool := (decide (0x1000 ≤ ofs) && decide (ofs < 0x2000)) || decide (0xC000 ≤ ofs)

/-- Register write in a BAR2 page by its function, 32 bits. MB_DB, MB_ACK, RQ_TAIL and OQ_HEAD have rows of their own. -/
def writePage (f ofs v : Nat) (s : State) : State :=
  if ofs = 0x10 then updPage f (fun k => { k with eqHead := v % 65536 }) s
  else if ofs = 0x18 then updPage f (fun k => { k with doneEn := bit v 0, eqEn := bit v 1 }) s
  else if 0x2000 ≤ ofs && ofs < 0x2000 + 16 * vectors f then
    when (decide (ofs % 16 = 12)) (maskVector f ((ofs - 0x2000) / 16) (bit v 0)) (putPage f ofs (natLe 4 v) s)
  else if 0x8000 ≤ ofs && ofs < 0xC000 then
    if slotSt s f ((ofs - 0x8000) / 0x800) = 1 then bump F.MBX_DB_REJ_CNT s else putPage f ofs (natLe 4 v) s
  else when (pageWriteDenied ofs) (bump F.GLB_DENIED_CNT) s

end Sys2Proof.Machine
end

