-- ==== Sys2Proof/Machine/Reset.lean ====
section
/-! DEFINITION. What abandoning a tick, resetting a compute domain and fencing a core do; shared by the commands, the boundary and the fault collector. -/
namespace Sys2Proof.Machine

/-- REQ fields of the ATTN and ADPT instructions from index `i` of a bank up to its END (R225). -/
def scanReqs (s : State) (c bank : Nat) : Nat → Nat → List Nat
  | 0, _ => []
  | f + 1, i =>
    let w := progWord s c bank i
    if iClass w = 0 then []
    else if iClass w = 7 || iClass w = 8 then bits w 62 13 :: scanReqs s c bank f (i + 1)
    else scanReqs s c bank f (i + 1)

/-- The request an outstanding attention operation works for. -/
def opReq (o : OpRec) : Option Nat :=
  match o.kind with
  | .append r => some r
  | .score w _ _ _ => some (bits w 62 13)
  | .wait w => if iClass w = 7 then some (bits w 62 13) else none
  | _ => none

/-- A firing at the moment its tick is abandoned: queued ones are discarded, started ones run on with their codes
discarded (R179). -/
def abandonFiring (f : Firing) : Option Firing :=
  match f.stage with
  | .queued => none
  | .loaded => none
  | .running => some { f with dead := true }
  | .handed => some { f with out := none, dead := true }
  | .released => none

/-- The drawn firing will not be captured any more: the draw is skipped and counted (R111). -/
def skipDraw (c : Nat) (s : State) : State :=
  bump (F.PROOF_SKIP_ZERO_CNT c) (updCore c (fun k => { k with drawn := none }) s)

/-- Does the core still execute a tick whose END has not retired? -/
def tickOpen (s : State) (c : Nat) : Bool :=
  get s (F.SEQ_STAT_PHASE_ST c) == 1 || get s (F.SEQ_STAT_PHASE_ST c) == 2

/-- Abandons the core's tick (R179) with items 1 to 4 of R225: rows written become POISONED, queued work is discarded,
requests of incomplete ATTN and ADPT instructions record STEP_LOST. -/
def abandonTick (c : Nat) (s : State) : State :=
  let k := core s c
  let rest := if get s (F.SEQ_STAT_PHASE_ST c) = 1 then
      scanReqs s c (actv s (F.SEQ_CTL_BANK c)) 16384 (get s (F.SEQ_STAT_PC c)) else []
  let reqs := rest ++ k.ops.filterMap opReq
  let pendingDraw := k.drawn.isSome
  let s1 := each k.outRows (fun r s => markRow c r true s) s
  let s2 := updCore c (fun k => { k with
      firings := k.firings.filterMap abandonFiring
      ops := k.ops.filter fun o => o.unit == .proof || o.unit == .steep
      outRows := []
      tagWait := []
      lost := reqs.foldl NSet.add k.lost }) s1
  set (F.SEQ_STAT_PHASE_ST c) 0 (when pendingDraw (skipDraw c) s2)

/-- Writes zeros into every scratchpad row of a core and clears the marks (R375). -/
def wipeSpad (c : Nat) (s : State) : State :=
  { s with mem := { s.mem with
      spad := SMap.erase s.mem.spad (c * 2 ^ 24) ((c + 1) * 2 ^ 24)
      spadPoison := NSet.erase s.mem.spadPoison (c * 2 ^ 15) ((c + 1) * 2 ^ 15)
      spadBad := NSet.erase s.mem.spadBad (c * 2 ^ 20) ((c + 1) * 2 ^ 20) } }

/-- The arrays whose cells a started STEEP or ERASE entry leaves undefined when it is abandoned (R152). -/
def batchArrays (b : Option Batch) : List Nat :=
  match b with
  | some b => if b.started then (b.entries.filter fun e => e.status.isNone && e.op != 3).map fun e => e.arr else []
  | none => []

/-- Sets or clears the mark of an undefined mix of levels. -/
def setUndef (c n : Nat) (b : Bool) (s : State) : State :=
  let k := c * 2624 + n
  { s with mem := { s.mem with undef := if b then NSet.add s.mem.undef k else NSet.del s.mem.undef k } }

/-- A reset stops the steep engine and the calibration engine of a core at once (R152, R374): batches, commands and passes end without
result. -/
def stopUnits (c : Nat) (s : State) : State :=
  let s1 := each (batchArrays (core s c).running) (fun n s => setUndef c n true s) s
  s1 |> updCore c (fun k => { k with running := none, pend := none, calCmd := none, calPass := none, calTrig := false })
     |> setB (F.CORE_CTL_STEEP_STAT_RUN_BUSY c) false |> setB (F.CORE_CTL_STEEP_STAT_PEND_BUSY c) false

/-- Resets a core's compute domain (R42, R90, R121, R122, R141, R145, R152, R210, R211): its register blocks, program
memory and calibration store return to their reset values, arrays that are not FUSED enter UNVERIFIED and keep their
cells, steep batches and calibration commands end without result, the reset epoch advances (R374). -/
def resetCompute (c : Nat) (s : State) : State :=
  let s0 := stopUnits c (if get s (F.SEQ_STAT_PHASE_ST c) = 0 then s else abandonTick c s)
  let s1 := eraseRegs (2 ^ 29 + c * 335872) (2 ^ 29 + (c + 1) * 335872) (eraseRegs (coreBase c + 0x10000) (coreBase c + 0xB0000) s0)
  let s2 := each (s1.badArr.filter fun a => a / 2624 = c)
    (fun a s => set (F.ARR_STAT_STATE c (a % 2624)) 0 s) s1
  let s3 := { s2 with mem := { s2.mem with
      prog := SMap.erase s2.mem.prog (c * 2 ^ 19) ((c + 1) * 2 ^ 19)
      cal := SMap.erase s2.mem.cal (c * 2 ^ 20) ((c + 1) * 2 ^ 20) } }
  let s4 := updCore c (fun k => { CoreSt.reset with epoch := (k.epoch + 1) % 16, lost := k.lost }) s3
  s4 |> setB (F.CORE_CTL_STATE_MCODE_OK c) false |> setB (F.CORE_CTL_STATE_RUN_PEND c) false
     |> setB (F.CORE_CTL_STATE_STOP_PEND c) false |> setB (F.CORE_CTL_STEEP_STAT_RUN_BUSY c) false
     |> setB (F.CORE_CTL_STEEP_STAT_PEND_BUSY c) false

/-- Puts a core into a state of Table 6.19. -/
def setCoreState (c st : Nat) (s : State) : State := set (F.CORE_CTL_STATE_STATE c) st s

/-- A reaction of the instant at which the tick of a core ended: the outputs of that tick are POISONED too (R38). -/
def markEnding (c : Nat) (s : State) : State :=
  let k := core s c
  if k.tickStart = now s then each k.lastRows (fun r s => markRow c r true s) s else s

/-- The L2 reaction on a core (R392): its compute domain is reset and held, and the fence is counted. A core that is
FENCED or in RESET, or that the fuses list as bad, is left as it is (R390, R209). -/
def fenceCore (c : Nat) (s : State) : State :=
  if coreState s c = cFenced || coreState s c = cReset || !coreGood s c then s
  else bump F.FLT_FENCE_CNT (setCoreState c cFenced (resetCompute c (markEnding c s)))

end Sys2Proof.Machine
end

