-- ==== Sys2Proof/Machine/Flt.lean ====
section
/-! DEFINITION. The fault collector: classification, escalation, reaction, records and FAULT_N (R384 to R396). -/
namespace Sys2Proof.Machine

/-- An event as a detector reports it: source, domain, access type, mesh node, unit, address, detail, and whether the
unit raises it as already escalated (R389). -/
structure Ev where
  src : Nat
  dom : Nat
  access : Nat := 7
  node : Nat := 0xFF
  unit : Nat := 0
  addr : Nat := 0
  detail : Nat := 0
  esc : Bool := false
  deriving DecidableEq, Repr

/-- Class of a source (Table 14.3). -/
def srcClass (src : Nat) : Nat :=
  if src < 0x30 then 0 else if src < 0x50 then 1 else if src < 0x60 then 2 else if src < 0x70 then 3 else 4

/-- Sources that Table 14.3 lists. -/
def srcListed (src : Nat) : Bool :=
  (1 ≤ src && src ≤ 3) || (0x10 ≤ src && src ≤ 0x20) || (0x30 ≤ src && src ≤ 0x3A) || src == 0x50 || src == 0x60 ||
    src == 0x70

/-- Sources whose L0 or L1 events escalate (Table 14.3). -/
def srcEscalates (src : Nat) : Bool := src == 1 || src == 2 || src == 3 || src == 0x34 || src == 0x37 || src == 0x38

/-- Domains that Table 14.2 lists. -/
def domListed (d : Nat) : Bool :=
  d < 20 || (0x20 ≤ d && d < 0x34) || (0x40 ≤ d && d < 0xA0) || (0xA0 ≤ d && d ≤ 0xAB) || d == 0xB0 || d == 0xB1 ||
    d == 0xE0 || d == 0xE1 || d == 0xFF

/-- Lowest class that drives FAULT_N (Table 14.8). -/
def pinMin (s : State) : Nat := min (actv s F.FLT_CTL_PIN_MIN) 4

/-- Has a class an unacknowledged event? -/
def unacked (s : State) (l : Nat) : Bool := getBit s F.FLT_STAT_UNACK l

/-- Some class at or above PIN_MIN is unacknowledged. -/
def pinWanted (s : State) : Bool := (List.range 5).any fun l => decide (pinMin s ≤ l) && unacked s l

/-- Level mode, and arming in pulse mode, after any change (R396). A class below PIN_MIN never drives the pin. -/
def updPin (s : State) : State :=
  if flag s F.FLT_STAT_ERRMODE then
    when (!pinWanted s && !flag s F.FLT_STAT_SAFE) (setB F.FLT_STAT_ARMED true) s
  else
    setB F.FLT_STAT_PIN (pinWanted s || (flag s F.FLT_STAT_SAFE && pinMin s ≤ 3) || flag s F.FLT_STAT_L4_REQ) s

/-- A pulse of FAULT_N starts (R396). -/
def startPulse (s : State) : State :=
  s |> setB F.FLT_STAT_PIN true |> setB F.FLT_STAT_ARMED false |> bump F.FLT_PIN_PULSE_CNT

/-- FAULT_N at an event of class `l` (R396). -/
def pinEvent (l : Nat) (s : State) : State :=
  if flag s F.FLT_STAT_ERRMODE then
    let first := (l = 3 && !s.flt.pulsed3) || (l = 4 && !s.flt.pulsed4)
    let s1 := { s with flt := { s.flt with
        pulsed3 := s.flt.pulsed3 || l == 3, pulsed4 := s.flt.pulsed4 || l == 4 } }
    if pinMin s ≤ l && (flag s F.FLT_STAT_ARMED || first) then startPulse s1 else s1
  else updPin s

/-- A record as the 256 bits of Table 14.11. -/
def setRec (fs : List Fld) (r : FltRec) (valid : Bool) (s : State) : State :=
  let vs := [r.time, r.src, r.dom, r.cls, if r.esc then 1 else 0, r.access, if valid then 1 else 0, r.node, r.unit,
    r.addr, r.detail]
  each (fs.zip vs) (fun p s => set p.1 p.2 s) s

/-- The fields of FLT_EVT. -/
def evtFields : List Fld :=
  [F.FLT_EVT_TIME, F.FLT_EVT_SRC, F.FLT_EVT_DOM, F.FLT_EVT_CLASS, F.FLT_EVT_ESC, F.FLT_EVT_ACCESS, F.FLT_EVT_VALID,
    F.FLT_EVT_NODE, F.FLT_EVT_UNIT, F.FLT_EVT_ADDR, F.FLT_EVT_DETAIL]

/-- The fields of FLT_CAP(l). -/
def capFields (l : Nat) : List Fld :=
  [F.FLT_CAP_TIME l, F.FLT_CAP_SRC l, F.FLT_CAP_DOM l, F.FLT_CAP_CLASS l, F.FLT_CAP_ESC l, F.FLT_CAP_ACCESS l,
    F.FLT_CAP_VALID l, F.FLT_CAP_NODE l, F.FLT_CAP_UNIT l, F.FLT_CAP_ADDR l, F.FLT_CAP_DETAIL l]

/-- A cleared record. -/
def noRec : FltRec :=
  { time := 0, src := 0, dom := 0xFF, cls := 0, esc := false, access := 0, node := 0xFF, unit := 0, addr := 0,
    detail := 0 }

/-- FLT_EVT shows the head of the queue and FLT_EVT_LEVEL its length (R391). -/
def showQueue (s : State) : State :=
  let s1 := set F.FLT_EVT_LEVEL_N s.flt.queue.length s
  match s.flt.queue with
  | [] => setRec evtFields noRec false s1
  | r :: _ => setRec evtFields r true s1

/-- The classes an event passes through: the final class and the classes it left (R389). `fuel` bounds the climb. -/
def climb (s : State) (e : Ev) : Nat → Nat → List Nat → Nat × List Nat
  | 0, l, left => (l, left)
  | f + 1, l, left =>
    if l = 0 then (0, left)
    else if l = 1 then
      if srcEscalates e.src && NSet.has s.flt.esc1 e.dom then
        climb s e f (if e.dom < 20 then 2 else 3) (left ++ [1])
      else (1, left)
    else if l = 2 then
      if 20 ≤ e.dom || unacked s 2 then climb s e f 3 (left ++ [2]) else (2, left)
    else if l = 3 then
      if unacked s 3 then (4, left ++ [3]) else (3, left)
    else (l, left)

/-- Keys of the registers of the SRV block (R336). -/
def srvKey : Nat := 8 * 0x3000000
/-- End of them. -/
def srvKeyEnd : Nat := 8 * 0x4000000

/-- A package that enters safe state at a boundary's instant does not commit at it: the serving engine stands as the L3 event leaves it, though
the boundary ran first (R38). -/
def unCommit (s : State) : State :=
  match s.undo with
  | none => s
  | some u =>
    if u.time ≠ now s then s
    else
      let own := u.regs.filter fun p => decide (srvKey ≤ p.1) && decide (p.1 < srvKeyEnd)
      { s with regs := own.foldl (fun m p => SMap.put 0 m p.1 p.2) (SMap.erase s.regs srvKey srvKeyEnd), srv := u.srv, undo := none }

/-- The L3 reaction: safe state, once (R390, R393). -/
def safeState (s : State) : State :=
  if flag s F.FLT_STAT_SAFE then s
  else unCommit s |> set F.FLT_SAFE_TIME_TIME (now s) |> setB F.FLT_STAT_SAFE true |> each allCores fenceCore

/-- The hardware reaction of a class (Table 14.1). -/
def react (l dom : Nat) (s : State) : State :=
  if l = 2 then fenceCore dom s
  else if l = 3 then safeState s
  else if l = 4 then { setB F.FLT_STAT_L4_REQ true (safeState s) with pwroff := true }
  else s

/-- Marks a class, and for L0 and L1 the domain, unacknowledged. -/
def markUnack (l dom : Nat) (s : State) : State :=
  let s1 := when (decide (l < 2)) (setBit (F.FLT_PEND_DOMS l (dom / 32)) (dom % 32) true) s
  setBit F.FLT_STAT_UNACK l true s1

/-- Writes the record of an event: counters, capture, queue (R391). -/
def record (r : FltRec) (left : List Nat) (s : State) : State :=
  let s1 := s |> bump (F.FLT_EVT_CNT r.cls) |> bump (F.FLT_SRC_CNT r.src)
              |> each left (fun l s => bump (F.FLT_ESC_CNT l) s)
  let s2 := if flag s1 (F.FLT_CAP_VALID r.cls) then s1 else noteSet (F.FLT_CAP_VALID r.cls) 0 (setRec (capFields r.cls) r true s1)
  let s3 := if s2.flt.queue.length < 256 then
      showQueue { s2 with flt := { s2.flt with queue := s2.flt.queue ++ [r] } }
    else bump F.FLT_LOG_DROP_CNT s2
  let h := get s3 F.FLT_STAT_HIGHEST
  if h = 7 || h < r.cls then set F.FLT_STAT_HIGHEST r.cls s3 else s3

/-- The collector takes an event whose class before escalation is `l0` (R384, R389, R391). -/
def collect (e : Ev) (l0 : Nat) (left0 : List Nat) (s : State) : State :=
  let p := climb s e 4 l0 left0
  let l := p.1
  let r : FltRec := { time := now s, src := e.src, dom := e.dom, cls := l, esc := !p.2.isEmpty, access := e.access,
                      node := e.node, unit := e.unit, addr := e.addr, detail := e.detail }
  let s1 := { s with flt := { s.flt with
      esc0 := if srcEscalates e.src && srcClass e.src == 0 then NSet.add s.flt.esc0 e.dom else s.flt.esc0
      esc1 := if srcEscalates e.src && 1 ≤ l then NSet.add s.flt.esc1 e.dom else s.flt.esc1 } }
  s1 |> record r p.2 |> markUnack l e.dom |> react l e.dom |> pinEvent l

/-- A unit raises an event. An escalating L0 source carries the unit's own decision in `esc` (R389). -/
def raise (e : Ev) (s : State) : State :=
  if e.esc then collect e 1 [0] s else collect e (srcClass e.src) [] s

/-- An EVENT injection of an escalating L0 source escalates by the collector's own count (R389). -/
def raiseInjected (e : Ev) (s : State) : State :=
  if srcClass e.src = 0 && srcEscalates e.src && NSet.has s.flt.esc0 e.dom then collect e 1 [0] s
  else collect e (srcClass e.src) [] s

/-- A unit detects a corrected error of an escalating L0 source: is its pending bit set already? The bit is set by the
first one (R389). -/
def pendHit (s : State) (dom : Nat) : Bool := NSet.has s.flt.unitPend dom

/-- Sets the unit's pending bit. -/
def pendSet (dom : Nat) (s : State) : State :=
  { s with flt := { s.flt with unitPend := NSet.add s.flt.unitPend dom } }

/-- Acknowledges the events of an L0 or L1 domain (R388). -/
def ackDom (l dom : Nat) (s : State) : State :=
  let s1 := setBit (F.FLT_PEND_DOMS l (dom / 32)) (dom % 32) false s
  let s2 := { s1 with flt := { s1.flt with
      esc0 := if l = 0 then NSet.del s1.flt.esc0 dom else s1.flt.esc0
      unitPend := if l = 0 then NSet.del s1.flt.unitPend dom else s1.flt.unitPend
      esc1 := if l = 1 then NSet.del s1.flt.esc1 dom else s1.flt.esc1 } }
  let any := (List.range 8).any fun m => get s2 (F.FLT_PEND_DOMS l m) != 0
  updPin (setBit F.FLT_STAT_UNACK l any s2)

/-- Acknowledges every event of a class (R388). -/
def ackAll (l : Nat) (s : State) : State :=
  if l < 2 then upTo 256 (fun d s => ackDom l d s) s
  else updPin (setBit F.FLT_STAT_UNACK l false s)

end Sys2Proof.Machine
end

