-- ==== Sys2Proof/Machine/Spad.lean ====
section
/-! DEFINITION. Reading scratchpad rows: check mismatches, poison marks and their consequences (R191, R193, R194). -/
namespace Sys2Proof.Machine

/-- Applies one occurrence of the armed injection of kind `kind` in domain `dom`: counts it, and ends the injection when
COUNT have been applied (R408). -/
def injApply (s : State) : State :=
  match s.flt.inj with
  | none => s
  | some j =>
    let d := j.done + 1
    let s1 := s |> bump F.FLT_INJ_CNT |> set F.FLT_INJ_STAT_DONE d
    if j.count ≤ d then
      { set F.FLT_INJ_STAT_STATE 2 s1 with flt := { s1.flt with inj := none } }
    else { s1 with flt := { s1.flt with inj := some { j with done := d } } }

/-- Is an injection of this kind acting in this domain? -/
def injActs (s : State) (kind dom : Nat) : Bool :=
  match s.flt.inj with
  | some j => j.active && j.kind == kind && j.dom == dom
  | none => false

/-- Target of the acting injection. -/
def injTgt (s : State) : Nat := match s.flt.inj with | some j => j.tgt | none => 0

/-- A read of a row with a check mismatch (R193): counted, captured, reported; outputs of the core to the end of the tick
carry POISONED and stores and appends are not performed. -/
def detect (c r slice unit : Nat) (s : State) : State :=
  let s1 := bump (F.SPAD_DET_CNT c) s
  let s2 := if flag s1 (F.SPAD_ERR_LAST_VALID c) then s1 else
    s1 |> set (F.SPAD_ERR_LAST_ROW c) r |> set (F.SPAD_ERR_LAST_SLICE c) slice |> set (F.SPAD_ERR_LAST_UNIT c) unit
       |> hwSet (F.SPAD_ERR_LAST_VALID c) 0 |> set (F.SPAD_ERR_TIME_TIME c) (now s)
  let s3 := updCore c (fun k => { k with outPoison := true, noStore := true }) s2
  let s4 := if injActs s3 2 c && injTgt s3 % 2 ^ 15 = r then injApply s3 else s3
  raise { src := 0x34, dom := c, access := 0, node := c, unit := unit, addr := r, detail := slice } s4

/-- A unit reads a row: its bytes and whether it is delivered POISONED, and what the read does. -/
def readRow (c unit r : Nat) (s : State) : (List Byte × Bool) × State :=
  let bs := rowBytes s c r
  let marked := rowPoison s c r
  let s1 := when marked (bump (F.SPAD_POISON_RD_CNT c)) s
  match s.mem.spadBad.find? (fun p => p / 32 == c * 2 ^ 15 + r) with
  | some p => ((bs, true), detect c r (p % 32) unit s1)
  | none => ((bs, marked), s1)

/-- Reads rows in a list; the poison marks stay per row. -/
def readRows (c unit : Nat) : List Nat → State → List (List Byte × Bool) × State
  | [], s => ([], s)
  | r :: rs, s =>
    let a := readRow c unit r s
    let b := readRows c unit rs a.2
    (a.1 :: b.1, b.2)

/-- Rows `r, r + 1, ..., r + n - 1`. -/
def rowRange (r n : Nat) : List Nat := (List.range n).map fun i => r + i

/-- Is any of the rows POISONED? -/
def anyPoison (l : List (List Byte × Bool)) : Bool := l.any fun p => p.2

/-- The rows that a source in MODE reads, and the result rows made of them (R191): plain, strided or transposed. -/
def srcRows (mode src n stride : Nat) : List Nat :=
  (List.range n).map fun i => if mode = 0 then src + i else src + i * stride

/-- Result rows of a transposed read: row 32g + j is slice j of each row of group g; a POISONED source row poisons its
group. -/
def transpose (l : List (List Byte × Bool)) : List (List Byte × Bool) :=
  (List.range l.length).map fun t =>
    let g := (l.drop (32 * (t / 32))).take 32
    (g.flatMap fun p => (p.1.drop (16 * (t % 32))).take 16, anyPoison g)

/-- Reads the source of a MOVE in its MODE. -/
def readMode (c unit mode src n stride : Nat) (s : State) : List (List Byte × Bool) × State :=
  let a := readRows c unit (srcRows mode src n stride) s
  if mode = 2 then (transpose a.1, a.2) else a

end Sys2Proof.Machine
end

