-- ==== Sys2Proof/Machine/Seq.lean ====
section
/-! DEFINITION. The sequencer: fetch, legality, issue, completion, END and illegal instructions (R175 to R188). -/
namespace Sys2Proof.Machine

/-- Rows `r` to `r + n - 1` lie within the scratchpad (R181). -/
def rowsOk (r n : Nat) : Bool := decide (r + n ≤ 0x8000)

/-- Chunks of a vector of `k` elements (R185). -/
def chunks (k : Nat) : Nat := (k + 1023) / 1024

/-- Rows of BF16 that hold `k` elements. -/
def rowsOf (k : Nat) : Nat := (k + 255) / 256

/-- FIRE (Table 6.4). -/
def legalFire (w : Nat) : Bool :=
  iOp w == 0 && decide (bits w 32 12 + bits w 44 6 ≤ 2559) && bits w 99 29 == 0

/-- ACC (Table 6.5). -/
def legalAcc (w : Nat) : Bool :=
  let n := bits w 38 6 + 1
  bits w 101 27 == 0 &&
  (iOp w == 1 || iOp w == 3 ||
    (iOp w == 2 && rowsOk (bits w 44 15) n && (!bit w 59 || rowsOk (bits w 60 15) n)))

/-- QUANT (Table 6.8). -/
def legalQuant (w : Nat) : Bool :=
  let k := bits w 47 16
  let c := chunks k
  bits w 116 12 == 0 && decide (1 ≤ k) && decide (k ≤ 32768) && rowsOk (bits w 32 15) (rowsOf k) &&
  rowsOk (bits w 71 15) c && rowsOk (bits w 86 15) ((c + 7) / 8) && rowsOk (bits w 101 15) c

/-- VEC (Tables 6.6 and 6.7): only the row ranges that the operation uses are judged. -/
def legalVec (w : Nat) : Bool :=
  let op := iOp w
  let n := bits w 77 7 + 1
  let func := bits w 84 8
  let a := rowsOk (bits w 32 15) n
  let b := rowsOk (bits w 47 15) n
  let d := rowsOk (bits w 62 15) n
  if op = 0xA then legalQuant w
  else bits w 124 4 == 0 &&
    (if op = 0 || op = 1 || op = 2 || op = 3 || op = 5 || op = 7 then a && b && d
     else if op = 4 || op = 8 then a && d
     else if op = 6 then a && d && decide (func ≤ 4)
     else if op = 9 then a && decide (1 ≤ func) && decide (func ≤ 8)
     else if op = 0xB then a && decide (func ≤ 1)
     else false)

/-- The source of COPY, SEND and STORE (R191). -/
def legalSrc (w : Nat) : Bool :=
  let n := bits w 47 7 + 1
  let mode := bits w 54 2
  let stride := bits w 56 8
  let src := bits w 32 15
  if mode = 0 then rowsOk src n
  else if mode = 3 then false
  else decide (1 ≤ stride) && decide (src + (n - 1) * stride < 0x8000) && (mode == 1 || n % 32 == 0)

/-- MOVE (Table 6.9). -/
def legalMove (w : Nat) : Bool :=
  let n := bits w 47 7 + 1
  let op := iOp w
  if op = 0 then legalSrc w && rowsOk (bits w 64 15) n && bits w 79 49 == 0
  else if op = 1 then legalSrc w && bits w 111 17 == 0
  else if op = 2 then rowsOk (bits w 32 15) n && bits w 94 34 == 0
  else if op = 3 then legalSrc w && bits w 94 34 == 0
  else if op = 4 then rowsOk (bits w 32 15) n && bits w 115 13 == 0
  else false

/-- WIN (Table 6.10, R187). -/
def legalWin (w : Nat) : Bool :=
  let size := bits w 53 15 + 1
  bits w 103 25 == 0 &&
  (if iOp w = 0 then rowsOk (bits w 38 15) size && decide (bits w 68 17 ≤ 2 * size)
   else iOp w == 1 || iOp w == 2)

/-- WAIT (Table 6.11). -/
def legalWait (w : Nat) : Bool :=
  bits w 71 57 == 0 && ((iOp w == 0 && decide (bits w 32 6 ≤ 15)) || iOp w == 1)

/-- Head dimension of an ATTN (Table 6.14). -/
def attnDim (w : Nat) : Nat := 64 * 2 ^ bits w 84 2
/-- Query heads. -/
def attnHeads (w : Nat) : Nat := bits w 75 6 + 1
/-- Rows of one partial: R of R454. -/
def attnR (w : Nat) : Nat := (attnHeads w * attnDim w * 2 + 511) / 512
/-- KV heads. -/
def attnKv (w : Nat) : Nat := (attnHeads w + 2 ^ bits w 81 3 - 1) / 2 ^ bits w 81 3
/-- Rows of the K or V of all KV heads: W of R454. -/
def attnW (w : Nat) : Nat := (attnKv w * attnDim w * 2 + 511) / 512

/-- ATTN (Table 6.14, R454). -/
def legalAttn (w : Nat) : Bool :=
  let inr := bits w 32 15
  let out := bits w 47 15
  let ns := bits w 88 2 + 1
  bits w 121 7 == 0 && decide (bits w 81 3 ≤ 4) && decide (bits w 84 2 ≤ 2) && decide (bits w 86 2 < ns) &&
  (if iOp w = 0 then rowsOk inr (2 * attnW w)
   else if iOp w = 1 then rowsOk inr (attnR w) && rowsOk out (attnR w)
   else if iOp w = 2 then rowsOk inr (ns * attnR w) && rowsOk (bits w 106 15) ns && rowsOk out (attnR w)
   else false)

/-- ADPT (Table 6.15), without the row ranges that depend on the directory. -/
def legalAdpt (w : Nat) : Bool := decide (iOp w ≤ 1) && bits w 79 49 == 0

/-- The instruction is legal (R180, R181). -/
def legal (w : Nat) : Bool :=
  bits w 13 3 == 0 &&
  (match iClass w with
   | 0 => iOp w == 0 && bits w 32 96 == 0
   | 1 => legalFire w
   | 2 => legalAcc w
   | 3 => legalVec w
   | 4 => legalMove w
   | 5 => legalWin w
   | 6 => legalWait w
   | 7 => legalAttn w
   | 8 => legalAdpt w
   | _ => false)

/-- Program counter of the core. -/
def pcOf (s : State) (c : Nat) : Nat := get s (F.SEQ_STAT_PC c)

/-- The word at the program counter. -/
def curWord (s : State) (c : Nat) : Nat := progWord s c (actv s (F.SEQ_CTL_BANK c)) (pcOf s c)

/-- Soft errors upset a slice of a row: its bytes become free values and its check codes no longer match (R193). -/
def applyUpset (i : Issue) (s : State) : State :=
  match i.upset with
  | some u =>
    let d := drawFree s
    let bs := (List.range 16).map fun n => Config.poisonByte d.1 n
    let s1 := putRow i.core.val u.1.toNat (16 * u.2.val) bs d.2
    let m := NSet.add s1.mem.spadBad ((i.core.val * 2 ^ 15 + u.1.toNat) * 32 + u.2.val)
    { s1 with mem := { s1.mem with spadBad := m } }
  | none => s

/-- The core is issuing instructions. -/
def issuing (s : State) (c : Nat) : Bool :=
  coreRuns s c && get s (F.SEQ_STAT_PHASE_ST c) == 1 && !(core s c).illegal

/-- A corrected program-memory error (R180): counted, and an L0 event of the core. -/
def progCorr (c : Nat) (s : State) : State :=
  let s1 := bump (F.SEQ_PROG_CORR_CNT c) s
  raise { src := 3, dom := c, access := 3, node := c, addr := pcOf s c } (pendSet c s1)

/-- The request entry and the position that REQ names (R201, R314); none for a VOID ring entry. -/
def reqOf (s : State) (e : Nat) : Option (Nat × Nat) :=
  if get s (F.SRV_ENT_TYPE e) = 1 then
    if get s (F.SRV_ENT_STATE e) = 0 then none
    else some (get s (F.SRV_ENT_HANDLE e) % 8192, get s (F.SRV_ENT_LEN e))
  else some (e, get s (F.SRV_ENT_LEN e))

/-- The directory entry that an ADPT for request `e` and segment `seg` uses, when it describes the request's generation
(R205). -/
def adptDir (s : State) (c e seg : Nat) : Option Nat :=
  let d := get s (F.SRV_ENT_ASLOT e) * 16 + seg
  let ok := fun (n : Nat) => decide (1 ≤ n) && decide (n ≤ 128)
  if actB s (F.SEQ_ADPT_DIR_VALID c d) && ok (actv s (F.SEQ_ADPT_DIR_DIN c d)) && ok (actv s (F.SEQ_ADPT_DIR_DOUT c d)) &&
      actv s (F.SEQ_ADPT_DIR_GEN c d) == get s (F.SRV_ENT_AGEN e) then some d
  else none

/-- The rows of an ADPT that depend on the directory lie within the scratchpad: x rows (DOWN), output rows (UP). -/
def adptRows (s : State) (c w : Nat) : Bool :=
  match reqOf s (bits w 62 13) with
  | none => true
  | some q =>
    if !flag s (F.SRV_ENT_AVALID q.1) then true
    else match adptDir s c q.1 (bits w 75 4) with
      | none => true
      | some d =>
        if iOp w = 0 then rowsOk (bits w 32 15) (actv s (F.SEQ_ADPT_DIR_DIN c d))
        else rowsOk (bits w 47 15) (actv s (F.SEQ_ADPT_DIR_DOUT c d))

/-- The error, if any, that makes the instruction at the program counter illegal: an uncorrectable word, a corrected one
while the core's pending bit is set (R389), or an illegal encoding. -/
def wordIllegal (i : Issue) (s : State) : Bool :=
  i.ecc == .uncorrectable || (i.ecc == .corrected && pendHit s i.core.val) || !legal (curWord s i.core.val) ||
    (iClass (curWord s i.core.val) == 8 && !adptRows s i.core.val (curWord s i.core.val))

/-- EVT[SIG] counts when SIG_EN is 1 (R178). -/
def signal (c : Nat) (sig : Option Nat) (s : State) : State :=
  match sig with
  | some e => updCore c (fun k => { k with evt := SMap.put 0 k.evt e (SMap.get 0 k.evt e + 1) }) s
  | none => s

/-- SIG of an instruction, when enabled. -/
def sigOf (w : Nat) : Option Nat := if bit w 12 then some (bits w 8 4) else none

/-- The program counter moves to the next instruction; after instruction 16,383 the next issue is illegal (R180). -/
def nextPc (c : Nat) (s : State) : State :=
  if pcOf s c = 16383 then updCore c (fun k => { k with pastEnd := true }) s
  else set (F.SEQ_STAT_PC c) (pcOf s c + 1) s

/-- Instructions of a unit that are outstanding. -/
def unitLoad (s : State) (c : Nat) (u : CUnit) : Nat := ((core s c).ops.filter fun o => o.unit == u).length

/-- Column of a physical core's router (R234). -/
def colOf (c : Nat) : Nat := c % 5 + (if c / 5 ≥ 2 then 5 else 0)

/-- Half clock of the core is slow (R229). -/
def slowHalf (s : State) (c : Nat) : Bool :=
  actB s (if colOf c < 5 then F.TB_HALF_CLK_WEST_SLOW else F.TB_HALF_CLK_EAST_SLOW)

/-- One cycle of the core's half clock, in 1/16 ns: 1.6 GHz, or 0.8 GHz. -/
def cycle16 (s : State) (c : Nat) : Nat := if slowHalf s c then 20 else 10

/-- Cycles that an instruction takes in the vector unit, the leaven unit or the adapter unit (Table 6.1): one per row of 256 lanes, R185's count for
QUANT, or one per 4,096 products of the segment's rank and rows. -/
def unitCycles (s : State) (c w : Nat) : Nat :=
  if iClass w = 3 then
    if iOp w = 0xA then
      let lt := actv s (F.LEAVEN_RCP_CTL_LT c (bits w 63 8))
      40 + (if lt = 0 || 0x7E < lt then 1 else 2) * ((bits w 47 16 + 255) / 256)
    else bits w 77 7 + 1
  else match (reqOf s (bits w 62 13)).bind fun q => adptDir s c q.1 (bits w 75 4) with
    | some d => ((actv s (F.SEQ_ADPT_DIR_RANK_M1 c d) + 1) * (if iOp w = 0 then actv s (F.SEQ_ADPT_DIR_DIN c d) else actv s (F.SEQ_ADPT_DIR_DOUT c d)) + 15) / 16
    | none => 1

/-- Instants at which the instructions that a unit still holds leave its queue, after now. -/
def heldEnds (s : State) (l : List Nat) : List Nat := l.filter fun e => decide (16 * now s < e)

/-- An instruction takes its place behind the others in the queue of the vector unit or the adapter unit (R175). DESIGN CHOICE (log entry 67): it
takes its effect when it issues, and its place is free when the unit's rate lets it end. -/
def occupy (c w : Nat) (s : State) : State :=
  let push := fun (l : List Nat) => heldEnds s l ++ [(heldEnds s l).foldl max (16 * now s) + unitCycles s c w * cycle16 s c]
  if iClass w = 3 then updCore c (fun k => { k with vecEnds := push k.vecEnds }) s
  else if iClass w = 8 then updCore c (fun k => { k with adptEnds := push k.adptEnds }) s
  else s

/-- The unit's queue has room (Table 6.1). -/
def room (s : State) (c : Nat) (u : Option CUnit) : Bool :=
  match u with
  | some .fire => decide (((core s c).ops.filter fun o => o.unit == .fire &&
      (core s c).firings.any fun f => f.par.op == o.id && f.stage == .queued).length < 16)
  | some .acc => decide (unitLoad s c .acc < 16)
  | some .move => decide (unitLoad s c .move < 32)
  | some .attn => decide (unitLoad s c .attn < 8)
  | some .vec => decide ((heldEnds s (core s c).vecEnds).length < 16)
  | some .adpt => decide ((heldEnds s (core s c).adptEnds).length < 8)
  | _ => true

/-- A stalled sequencer goes on when the vector unit or the adapter unit has ended an instruction. -/
def stallEnd (c : Nat) (u : Option CUnit) (s : State) : State :=
  let l := match u with | some .vec => (core s c).vecEnds | some .adpt => (core s c).adptEnds | _ => []
  match (heldEnds s l).min? with
  | some e => bumpN (F.SEQ_STALL_CYC_CNT c) ((e - 16 * now s) / cycle16 s c - 1) (moveTo ((e + 15) / 16) s)
  | none => s

/-- The earliest instant of issue (R177). -/
def issueAt (s : State) (c w : Nat) : Nat := (core s c).tickStart + 4 * bits w 16 16

/-- Issues the instruction at the program counter when it is of class `cls` and operation `op`: the time base moves on to
its NOT_BEFORE, a corrected program-memory error is reported, the program counter advances and `body` takes effect. While
the unit's queue is full the sequencer stalls (R175); when the core does not issue, or the instruction is another one,
nothing happens. -/
def issue (i : Issue) (cls op : Nat) (u : Option CUnit) (ok : State → Nat → Bool) (body : Nat → State → State)
    (s : State) : State :=
  let c := i.core.val
  let s0 := applyUpset i s
  let w := curWord s0 c
  if !issuing s0 c || (core s0 c).pastEnd || wordIllegal i s0 || iClass w ≠ cls || iOp w ≠ op || !ok s0 w then s0
  else if issueAt s0 c w ≥ tickEnd s0 c then s0
  else
    let s1 := moveTo (issueAt s0 c w) s0
    if !room s1 c u then bump (F.SEQ_STALL_CYC_CNT c) (stallEnd c u s1)
    else
      let s2 := if i.ecc == .corrected then progCorr c s1 else s1
      body w (nextPc c (occupy c w s2))

/-- No further condition on an instruction. -/
def always (_ : State) (_ : Nat) : Bool := true

/-- Adds an outstanding instruction (R178) and gives its number. -/
def addOp (c : Nat) (u : CUnit) (kind : OpKind) (sig : Option Nat) (left : Nat) (s : State) : Nat × State :=
  let id := (core s c).nextOp
  let o : OpRec := { id := id, unit := u, kind := kind, sig := sig, left := left, got := [] }
  (id, updCore c (fun k => { k with nextOp := k.nextOp + 1, ops := k.ops ++ [o] }) s)

/-- An instruction of the unit that must be over before one that acts at once may act: a read that has not come back, an append, or one that
waits itself (R177). -/
def holdsUp (o : OpRec) : Bool :=
  match o.kind with
  | .load _ => true
  | .score _ _ _ _ => true
  | .append _ => true
  | .wait _ => true
  | .fire => false
  | .acc _ => false
  | .send => false
  | .store => false

/-- An instruction that waits for earlier ones of its unit. -/
def waitsOp (o : OpRec) : Bool := match o.kind with | .wait _ => true | _ => false

/-- A unit executes its queue in order (R177): an instruction that acts at once waits for earlier ones whose effect is still to come, and one that
asks the stacks waits behind it. -/
def inOrder (c : Nat) (u : CUnit) (atOnce : Bool) (body : Nat → State → State) (w : Nat) (s : State) : State :=
  if (core s c).ops.any fun o => o.unit == u && (if atOnce then holdsUp o else waitsOp o) then (addOp c u (.wait w) none 1 s).2 else body w s

/-- An outstanding instruction. -/
def findOp (s : State) (c id : Nat) : Option OpRec := (core s c).ops.find? fun o => o.id == id

/-- Removes an outstanding instruction. -/
def dropOp (c id : Nat) (s : State) : State :=
  updCore c (fun k => { k with ops := k.ops.filter fun o => o.id != id }) s

/-- One part of an outstanding instruction is done; the last one completes it. -/
def opDone (c id : Nat) (s : State) : State :=
  match findOp s c id with
  | none => s
  | some o =>
    if o.left ≤ 1 then signal c o.sig (dropOp c id s)
    else
      let f := fun (p : OpRec) => if p.id == id then { p with left := p.left - 1 } else p
      updCore c (fun k => { k with ops := k.ops.map f }) s

/-- The sequencer records an illegal instruction and stops issuing for the tick (R180). -/
def illegalStop (c : Nat) (past uncorr : Bool) (s : State) : State :=
  let pc := if past then 0x3FFF else pcOf s c
  let s1 := s |> bump (F.SEQ_ILLEGAL_CNT c) |> set (F.SEQ_ILL_PC c) pc
      |> set (F.SEQ_ILL_BANK c) (actv s (F.SEQ_CTL_BANK c)) |> setB (F.SEQ_ILL_PAST c) past
      |> setB (F.SEQ_ILL_VALID c) true |> updCore c (fun k => { k with illegal := true })
  raise { src := if uncorr then 0x50 else 0x33, dom := c, access := 3, node := c, addr := pc } s1

/-- ILLEGAL_INSTRUCTION: the instruction at the program counter is illegal, or issue has run past the bank. -/
def execIllegalInstruction (i : Issue) (s : State) : Host.Outcome State Fault Refusal :=
  let c := i.core.val
  let s0 := applyUpset i s
  if !issuing s0 c then .next s0
  else if (core s0 c).pastEnd then .next (illegalStop c true false s0)
  else if !wordIllegal i s0 then .next s0
  else
    let s1 := if i.ecc == .corrected then
        let t := bump (F.SEQ_PROG_CORR_CNT c) s0
        if pendHit t c then raise { src := 3, dom := c, access := 3, node := c, addr := pcOf t c, esc := true } t
        else raise { src := 3, dom := c, access := 3, node := c, addr := pcOf t c } (pendSet c t)
      else s0
    .next (illegalStop c false (i.ecc == .uncorrectable) s1)

/-- Every instruction issued before has completed. -/
def allDone (s : State) (c : Nat) : Bool :=
  ((core s c).ops.filter fun o => o.unit != .proof && o.unit != .steep).isEmpty

/-- END retires when every earlier instruction has completed (R179); until then it drains. -/
def endBody (c w : Nat) (s : State) : State :=
  if allDone s c then signal c (sigOf w) (set (F.SEQ_STAT_PHASE_ST c) 3 s)
  else set (F.SEQ_STAT_PHASE_ST c) 2 s

/-- END: issued at the program counter, or, when it is draining already, retired once all has completed. -/
def execEndOp (i : Issue) (s : State) : Host.Outcome State Fault Refusal :=
  let c := i.core.val
  if coreRuns s c && get s (F.SEQ_STAT_PHASE_ST c) == 2 then
    let w := progWord s c (actv s (F.SEQ_CTL_BANK c)) (pcOf s c - 1)
    .next (if allDone s c then signal c (sigOf w) (set (F.SEQ_STAT_PHASE_ST c) 3 s) else s)
  else .next (issue i 0 0 none always (endBody c) s)

/-! ### Windows and waits -/

/-- Number of the tick the core runs. -/
def tickK (s : State) (c : Nat) : Nat := (core s c).tickNum

/-- SPAD_STAT counts the windows that are OPEN and HELD (Table 6.28). -/
def showWins (c : Nat) (s : State) : State :=
  let n := fun st => ((List.range 64).filter fun w => get s (F.SPAD_WIN_STATE c w) == st).length
  set (F.SPAD_STAT_N_HELD c) (n 2) (set (F.SPAD_STAT_N_OPEN c) (n 1) s)

/-- What landed in a window and was not committed is dropped (R195). -/
def dropLanded (c n : Nat) (s : State) : State := updCore c (fun k => { k with landed := k.landed.filter fun x => x.1 != n }) s

/-- WIN OPEN (R187, R195). -/
def winOpen (c w : Nat) (s : State) : State :=
  let n := bits w 32 6
  let gen := if bit w 101 then (tickK s c + bits w 85 16) % 2 ^ 16 else bits w 85 16
  let s1 := if get s (F.SPAD_WIN_STATE c n) = 1 then bump (F.SPAD_WIN_REOPEN_CNT c) s else s
  s1 |> set (F.SPAD_WIN_BASE c n) (bits w 38 15) |> set (F.SPAD_WIN_SIZE_M1 c n) (bits w 53 15)
     |> set (F.SPAD_WIN_EXPECT c n) (bits w 68 17) |> set (F.SPAD_WIN_GEN c n) gen
     |> setB (F.SPAD_WIN_AUTO c n) (bit w 102) |> setB (F.SPAD_WIN_SEAL_PEND c n) false
     |> setB (F.SPAD_WIN_SHORT c n) false |> set (F.SPAD_WIN_COUNT c n) 0 |> set (F.SPAD_WIN_STATE c n) 1
     |> dropLanded c n
     |> showWins c

/-- WIN SEAL: an OPEN window becomes HELD at the next boundary; otherwise nothing (R195). -/
def winSeal (c w : Nat) (s : State) : State :=
  let n := bits w 32 6
  when (get s (F.SPAD_WIN_STATE c n) == 1) (setB (F.SPAD_WIN_SEAL_PEND c n) true) s

/-- WIN CLOSE (R195). -/
def winClose (c w : Nat) (s : State) : State :=
  let n := bits w 32 6
  s |> set (F.SPAD_WIN_STATE c n) 0 |> setB (F.SPAD_WIN_SEAL_PEND c n) false |> dropLanded c n |> showWins c

/-- WIN_OPEN. -/
def execWinOpen (i : Issue) (s : State) : Host.Outcome State Fault Refusal :=
  .next (issue i 5 0 none always (fun w s => signal i.core (sigOf w) (winOpen i.core w s)) s)

/-- WIN_SEAL. -/
def execWinSeal (i : Issue) (s : State) : Host.Outcome State Fault Refusal :=
  .next (issue i 5 1 none always (fun w s => signal i.core (sigOf w) (winSeal i.core w s)) s)

/-- WIN_CLOSE. -/
def execWinClose (i : Issue) (s : State) : Host.Outcome State Fault Refusal :=
  .next (issue i 5 2 none always (fun w s => signal i.core (sigOf w) (winClose i.core w s)) s)

/-- The condition of WAIT EVT holds (R188). -/
def waitEvtMet (s : State) (c w : Nat) : Bool :=
  decide (bits w 38 17 ≤ SMap.get 0 (core s c).evt (bits w 32 6))

/-- The condition of WAIT WIN holds: a HELD window at once, an OPEN one at its count, a CLOSED one never (R188). -/
def waitWinMet (s : State) (c w : Nat) : Bool :=
  let n := bits w 32 6
  let v := if bits w 38 17 = 0 then get s (F.SPAD_WIN_EXPECT c n) else bits w 38 17
  get s (F.SPAD_WIN_STATE c n) == 2 ||
    (get s (F.SPAD_WIN_STATE c n) == 1 && decide (v ≤ get s (F.SPAD_WIN_COUNT c n)))

/-- WAIT_EVT: completes when its condition holds; until then issue is held and nothing changes. -/
def execWaitEvt (i : Issue) (s : State) : Host.Outcome State Fault Refusal :=
  .next (issue i 6 0 none (fun s w => waitEvtMet s i.core w) (fun w s => signal i.core (sigOf w) s) s)

/-- WAIT_WIN. -/
def execWaitWin (i : Issue) (s : State) : Host.Outcome State Fault Refusal :=
  .next (issue i 6 1 none (fun s w => waitWinMet s i.core w) (fun w s => signal i.core (sigOf w) s) s)

/-- The condition of the wait at the program counter holds. -/
def waitMet (s : State) (c w : Nat) : Bool := if iOp w = 0 then waitEvtMet s c w else waitWinMet s c w

/-- WAIT_DEADLINE: the wait at the program counter reaches its deadline unmet (R188): it ends and is counted, and every
output the core issues to the end of the tick carries POISONED. -/
def execWaitDeadline (i : Issue) (s : State) : Host.Outcome State Fault Refusal :=
  let c := i.core.val
  let w := curWord s c
  let at_ := (core s c).tickStart + 4 * bits w 55 16
  .next (issue i 6 (iOp w) none
    (fun s w => !waitMet s c w && bits w 55 16 != 0 && decide (at_ < tickEnd s c))
    (fun w s => moveTo at_ s |> bump (F.SEQ_WAIT_TMO_CNT c)
      |> updCore c (fun k => { k with outPoison := true }) |> signal c (sigOf w)) s)

end Sys2Proof.Machine
end

