-- ==== Sys2Proof/Machine/Mesh.lean ====
section
/-! DEFINITION. The mesh: nodes, routes, injection, forwarding and the region check (R234 to R245, R260). -/
namespace Sys2Proof.Machine

/-- Row of a router. -/
def rowOf (c : Nat) : Nat := c / 5 % 2

/-- The router at a position. -/
def routerAt (x y : Nat) : Nat := (if x < 5 then y else y + 2) * 5 + x % 5

/-- Mesh node of a stack. -/
def stkNode (n : Nat) : Nat := 20 + n
/-- Mesh node of a port. -/
def fabNode (p : Nat) : Nat := 23 + p

/-- Attachment routers of a crust node, the west one first (Table 8.1). -/
def attached (node : Nat) : List Nat :=
  nth [] [[1, 2], [4, 10], [12, 13], [0], [0], [5], [5], [7], [8], [14], [14], [19], [19], [17], [16], [9], [15]]
    (node - 20)

/-- Crust nodes attached to a router, in the order of Table 8.1. -/
def crustOf (c : Nat) : List Nat :=
  ((List.range 17).map fun i => i + 20).filter fun n => (attached n).contains c

/-- Where a flit goes from a router for an output code of Table 8.14: the core itself, a crust node, another router, or
nowhere. An output that leads off the mesh or to a router that is not present is taken as NONE (log entry 28). -/
inductive Hop where
  | core | crust (node : Nat) | router (r : Nat) | none
  deriving DecidableEq, Repr

/-- The hop of an output code at a router. -/
def hopOf (s : State) (c out : Nat) : Hop :=
  let x := colOf c
  let y := rowOf c
  let go := fun (r : Nat) => if routerPresent s r then Hop.router r else Hop.none
  if out = 0 then .core
  else if out = 1 then (if y = 1 then go (routerAt x 0) else .none)
  else if out = 2 then (if y = 0 then go (routerAt x 1) else .none)
  else if out = 3 then (if x < 9 then go (routerAt (x + 1) y) else .none)
  else if out = 4 then (if 0 < x then go (routerAt (x - 1) y) else .none)
  else if out = 5 then (match (crustOf c)[0]? with | some n => .crust n | none => .none)
  else if out = 6 then (match (crustOf c)[1]? with | some n => .crust n | none => .none)
  else .none

/-- The output of destination `d` at router `c`. -/
def routeOut (s : State) (c d : Nat) : Nat := get s (F.RTR_ROUTE_OUT c d)

/-- Router-to-router links that a flit from router `c` to node `d` crosses, and whether it crosses the seam; none without
a route (R242). -/
def pathLen (s : State) (d : Nat) : Nat → Nat → Nat → Bool → Option (Nat × Bool)
  | 0, _, _, _ => none
  | f + 1, c, n, seam =>
    match hopOf s c (routeOut s c d) with
    | .core => if d = c then some (n, seam) else none
    | .crust m => if d = m then some (n, seam) else none
    | .router r => pathLen s d f r (n + 1) (seam || (decide (colOf c < 5) != decide (colOf r < 5)))
    | .none => none

/-- Path from a router to a node. -/
def path (s : State) (c d : Nat) : Option (Nat × Bool) := pathLen s d 64 c 0 false

/-- Links of the path, far when there is none. -/
def dist (s : State) (c d : Nat) : Nat := match path s c d with | some p => p.1 | none => 1000

/-- The attachment into which a crust node sends a flit for `d`: the one with the fewer links, the west one on a tie
(R238). -/
def attachFor (s : State) (node d : Nat) : Nat :=
  match attached node with
  | [a, b] => if dist s b d < dist s a d then b else a
  | a :: _ => a
  | [] => 0

/-- Puts a packet on the mesh at its source: a core's router, or the attachment router of a crust node. The flits of an input keep their order,
so what its depth does not hold waits behind in the unit (R237). -/
def place (p : Packet) (s : State) : State :=
  if p.src < 20 then { s with mesh := s.mesh ++ [{ p with pos := p.src, via := p.src }] }
  else
    let at0 := fun d => attachFor s p.src d
    let starts := uniq (p.dst.map at0)
    let mk := fun a => { p with pos := a, via := p.src, dst := p.dst.filter fun d => at0 d == a }
    { s with mesh := s.mesh ++ starts.map mk }

/-- A core or a crust node injects a packet; what a core injects is counted (Table 8.15). -/
def inject (p : Packet) (s : State) : State :=
  place p (when (decide (p.src < 20)) (bumpRtr p.src (F.RTR_INJ_CNT p.src)) s)

/-- A packet about to be injected. -/
def packet (src : Nat) (dst : List Nat) (vc : VC) (poison : Bool) (op : Option Nat) (body : Body) :
    Packet :=
  { src := src, dst := dst, pos := src, via := src, arrived := false, vc := vc, poison := poison, esc := false,
    grace := false, op := op, body := body }

/-- Bytes that no rule gives, for a line or row that is delivered POISONED. -/
def freeBytes (n : Nat) (s : State) : List Byte × State :=
  let d := drawFree s
  ((List.range n).map fun i => Config.poisonByte d.1 i, d.2)

/-- Physical core of a logical core (R25). -/
def physOf (s : State) (l : Nat) : Option Nat :=
  if l < 16 && actB s (F.GLB_CORE_MAP_VALID l) then some (actv s (F.GLB_CORE_MAP_PHYS l)) else none

/-- Safe state (R393). -/
def inSafe (s : State) : Bool := flag s F.FLT_STAT_SAFE

/-! ### Region check (R245) -/

/-- One region entry admits a line. -/
def regionHit (s : State) (c l : Nat) (wr : Bool) (i : Nat) : Bool :=
  let b := actv s (F.RTR_REGION_BASE c i) * 2048
  let n := actv s (F.RTR_REGION_SIZE c i) * 2048
  actB s (F.RTR_REGION_VALID c i) && decide (b ≤ l) && decide (l < b + n) &&
    actB s (if wr then F.RTR_REGION_WR c i else F.RTR_REGION_RD c i)

/-- The core's region check admits the access. -/
def regionOk (s : State) (c l : Nat) (wr : Bool) : Bool := (List.range 8).any fun i => regionHit s c l wr i

/-- The region check for `wr` reads or writes, with the refusal counted. -/
def regionRej (c : Nat) (s : State) : State := bumpRtr c (F.RTR_REGION_REJ_CNT c) s

/-! ### Read tags (R243) -/

/-- The region check does not stop a read that is made now: it is made at injection, so that a request that waits for a tag is judged when it gets
one (R245). -/
def mayAsk (s : State) (c l : Nat) : Bool := decide (256 ≤ (core s c).tags) || regionOk s c l false

/-- A unit of core `c` asks for a line; without a free tag the request waits, and the wait is counted. -/
def askRead (c : Nat) (p : Packet) (s : State) : State :=
  if (core s c).tags < 256 then inject p (updCore c (fun k => { k with tags := k.tags + 1 }) s)
  else bumpRtr c (F.RTR_CREDIT_STALL_CYC_CNT c) (updCore c (fun k => { k with tagWait := k.tagWait ++ [p] }) s)

/-! ### NACKs and refusals back to their source -/

/-- A NACK to a core of this package (R240, R279). -/
def nackCore (frm c status : Nat) (s : State) : State :=
  inject (packet frm [c] .rsp false none (.nack status)) s

/-- FAB_ADDR of the package; firmware writes the same value in all ports (R287). -/
def fabAddr (s : State) (p : Nat) : Nat := get s (F.FAB_ADDR_ADDR p)

/-- A port's state beside its registers. -/
def port (s : State) (p : Nat) : PortSt := SMap.get PortSt.reset s.ports p

/-- Changes a port's state. -/
def updPort (p : Nat) (f : PortSt → PortSt) (s : State) : State :=
  { s with ports := SMap.put PortSt.reset s.ports p (f (port s p)) }

/-- The NACK cell for a refused cell (R279): its key fields go in the payload. -/
def nackCell (own : Nat) (c : Cell) (status : Nat) : Cell :=
  { cls := 2, poison := false, late := false, kind := 0xD, ttl := 64, dst := c.src, src := own, pid := c.pid, dcore := 0,
    score := c.score, win := 0, vc := 0, slot := 0, divl := 0, gen := 0, ofs := 0, tk := 0, status := status, line := 0,
    half := 0, tag := c.tag,
    payload := natLe 1 c.dcore ++ natLe 1 c.win ++ natLe 2 c.gen ++ natLe 2 c.ofs ++ natLe 4 c.tag ++ zeros 246 }

/-- The cell is of a kind that NACKs answer (R279). -/
def nackable (c : Cell) : Bool := (c.cls == 0 || c.cls == 1) && (c.kind == 0 || c.kind == 1 || c.kind == 2)

/-- Asks the NACK generator of port `p` for a NACK (Table 9.6): 16 may wait; a further one is not sent. -/
def askNack (p : Nat) (c : Cell) (status : Nat) (s : State) : State :=
  if !nackable c then s
  else if (port s p).nacks.length < 16 then
    updPort p (fun k => { k with nacks := k.nacks ++ [nackCell (fabAddr s p) c status] }) s
  else bump (F.FAB_NACK_SUPP_CNT p) s

/-- Forwarding-table entry of a hall address: an egress port or none (R288). -/
def fwd (s : State) (p dst : Nat) : Option Nat :=
  let v := if dst % 2 = 0 then actv s (F.FAB_FWD_LO p (dst / 2)) else actv s (F.FAB_FWD_HI p (dst / 2))
  if v ≤ 11 then some v else none

/-! ### BULK traffic of the serving engine (R267, R329, R334, R354)

DESIGN CHOICE (log entry 67): the values of TAG, which the origin sets: 0x100 + r for the index line of output ring r, 0x200 + r for its records, and
0x10000 + 8192 n + e for pages of entry e of partition n; a core's writes have TAG 0. -/

/-- TAG of the read of the consumer index of an output ring. -/
def tagIndex (r : Nat) : Nat := 0x100 + r
/-- TAG of the writes of an output ring. -/
def tagRecord (r : Nat) : Nat := 0x200 + r
/-- TAG of the page writes of an entry. -/
def tagPages (n e : Nat) : Nat := 0x10000 + 8192 * n + e

/-- Changes an output ring. -/
def putOq (r : Nat) (q : Option OutRing) (s : State) : State := { s with srv := { s.srv with oq := SMap.put none s.srv.oq r q } }

/-- A NACK for a cell of the serving engine: a record lost is counted and reported to the host (R330); a page not written fails its copy (R334). -/
def tagNack (tag status : Nat) (s : State) : State :=
  if 0x10000 ≤ tag then
    let n := tag / 8192 - 8
    let e := tag % 8192
    let f := fun (k : SrvPart) => { k with xfers := match SMap.get none k.xfers e with
      | some x => SMap.put none k.xfers e (some { x with bad := true })
      | none => k.xfers }
    { s with srv := { s.srv with parts := SMap.put SrvPart.reset s.srv.parts n (f (SMap.get SrvPart.reset s.srv.parts n)) } }
  else
    let r := tag % 0x100
    match SMap.get none s.srv.oq r with
    | none => s
    | some q =>
      if tag = tagRecord r then notify 9 (some q.part) (natLe 1 q.part ++ natLe 1 r ++ natLe 1 status) (bump F.SRV_OUT_DROP_CNT s)
      else if tag = tagIndex r then putOq r (some { q with asked := false }) s
      else s

/-- A STK_RSP arrives: the consumer index of an output ring by its TAG, else for the management core (R267, R354). -/
def tagRsp (p : Nat) (c : Cell) (s : State) : State :=
  match if 0x100 ≤ c.tag && c.tag < 0x140 then SMap.get none s.srv.oq (c.tag - 0x100) else none with
  | some q =>
    if c.status = 0 && !c.poison then putOq (c.tag - 0x100) (some { q with asked := false, batch := true, cons := leAt c.payload 0 4 }) s
    else putOq (c.tag - 0x100) (some { q with asked := false }) s
  | none => { s with inbox := s.inbox ++ [(p, c)] }

/-- The serving engine sends a BULK cell for partition `n`: by the forwarding table, from the PCI node. -/
def sendBulk (n dst kind byteAddr tag : Nat) (data : List Byte) (s : State) : State :=
  let c : Cell := { cls := 1, poison := false, late := false, kind := kind, ttl := 64, dst := dst, src := fabAddr s 0,
                    pid := actv s (F.FAB_LPART_PID 0 n), dcore := 0, score := 0, win := 0, vc := 0, slot := 0, divl := actv s (F.TB_PART_DIV_LOG2 n),
                    gen := 0, ofs := 0, tk := 0, status := 0, line := byteAddr / 512, half := byteAddr / 256 % 2, tag := tag, payload := data }
  match fwd s 0 dst with
  | some q => inject (packet 35 [fabNode q] .bulk false none (.cell c none)) s
  | none => tagNack tag 0x16 s

/-- A NACK to the local source of a cell that its own package originated (R278). -/
def nackLocal (p : Nat) (c : Cell) (status : Nat) (s : State) : State :=
  if !nackable c then s
  else if c.tag ≠ 0 then tagNack c.tag status s
  else match physOf s c.score with
    | some k => nackCore (fabNode p) k status s
    | none => s

/-! ### MESH_ENABLE (R242) -/

/-- LAT in ns, rounded up. -/
def latOf (d hops : Nat) (seam : Bool) : Nat :=
  if 20 ≤ d && d ≤ 22 then (340 + 15 * hops + 3) / 4
  else (20 + 15 * hops + 7) / 8 + (if seam then 5 else 0)

/-- Computes RTR_CORE_DIST(d) of a router. -/
def setDist (c d : Nat) (s : State) : State :=
  match path s c d with
  | some p =>
    let seam := p.2 && decide (d < 20)
    s |> set (F.RTR_CORE_DIST_HOPS c d) p.1 |> set (F.RTR_CORE_DIST_LAT c d) (latOf d p.1 seam)
      |> setB (F.RTR_CORE_DIST_REACH c d) true |> setB (F.RTR_CORE_DIST_SEAM c d) seam
  | none => setB (F.RTR_CORE_DIST_REACH c d) false s

/-- A router starts to forward and its distances are computed (R242). -/
def enableMesh (c : Nat) (s : State) : State :=
  if !routerPresent s c || flag s (F.RTR_CTL_EN c) then s
  else s |> setB (F.RTR_CTL_EN c) true |> setB (F.RTR_STAT_EN_ACT c) true |> upTo 37 (fun d => setDist c d)
    |> setB (F.RTR_STAT_DIST_VALID c) true

/-- MESH_ENABLE: a write of 1 to RTR_CTL.EN. -/
def execMeshEnable (c : CoreIx) (s : State) : Host.Outcome State Fault Refusal := .next (ifNet (enableMesh c) s)

/-! ### Accesses that the model performs in one step -/

/-- A flit goes from router `c` to node `d`, counted on its way: whether it arrives (R240, R260). -/
def tripFrom (d : Nat) : Nat → Nat → Bool → State → Bool × State
  | 0, _, _, s => (false, s)
  | f + 1, c, esc, s =>
    let e := esc || flag s (F.RTR_ROUTE_ESC c d)
    let s1 := s |> bumpRtr c (F.RTR_FLIT_CNT c) |> when e (bumpRtr c (F.RTR_ESC_CNT c))
    match hopOf s c (routeOut s c d) with
    | .core => (true, bumpRtr c (F.RTR_EJ_CNT c) s1)
    | .crust _ => (true, s1)
    | .router r => tripFrom d f r e s1
    | .none => (false, bumpRtr c (F.RTR_DROP_NOROUTE_CNT c) s)

/-- A flit goes from a node to another. -/
def trip (src d : Nat) (s : State) : Bool × State :=
  tripFrom d 64 (if src < 20 then src else attachFor s src d) false (when (decide (src < 20)) (bumpRtr src (F.RTR_INJ_CNT src)) s)

/-! ### FLIT_FORWARD (R237 to R241) -/

/-- Depth of a virtual channel (Table 8.3); an escape sub-channel holds 2 flits. -/
def vcDepth (vc : VC) (esc : Bool) : Nat :=
  if esc then 2 else match vc with | .ctl => 2 | .land => 8 | .rsp => 8 | .req => 8 | .bulk => 4

/-- Channel of a request, and whether it is a write. -/
def reqChan (b : Body) : Option (Nat × Bool) :=
  match b with
  | .readReq l _ _ => some (lineChannel l, false)
  | .writeReq l _ _ _ => some (lineChannel l, true)
  | _ => none

/-- Egress class depth (Table 9.6). -/
def egressDepth (cls : Nat) : Nat := if cls = 2 then 128 else 512

/-- Packets that wait at a node. -/
def waitingAt (s : State) (n : Nat) : List Packet := s.mesh.filter fun p => p.arrived && p.pos == n

/-- FIFO direction of the seam (R233) that a flit takes from router `c` to router `r`: core-to-core writes cross in the FIFO of the
sending cluster's pair, everything else on the network channel (R32, R236). -/
def seamOf (c r : Nat) (p : Packet) : Option Nat :=
  match p.body with
  | .winWrite w =>
    if w.origin.isSome then none
    else if colOf c < 5 && 5 ≤ colOf r then some (2 * rowOf p.src)
    else if 5 ≤ colOf c && colOf r < 5 then some (2 * rowOf p.src + 1)
    else none
  | _ => none

/-- A write of 256 bytes crosses the seam FIFO: bytes counted, and the peak per base tick kept (R230). -/
def seamCross (c r : Nat) (p : Packet) (s : State) : State :=
  match seamOf c r p with
  | none => s
  | some i =>
    let n := SMap.get 0 s.seam i + 256
    let s1 := bumpN (F.TB_SEAM_BYTE_CNT i) 256 { s with seam := SMap.put 0 s.seam i n }
    if get s1 (F.TB_SEAM_PEAK_BYTES i) < n then set (F.TB_SEAM_PEAK_BYTES i) (min n (2 ^ 24 - 1)) s1 else s1

/-- Flits that wait at router `r` behind the link from router `c`: in a virtual channel of its input, or, with `fifo`, in a seam FIFO. -/
def behind (s : State) (c r : Nat) (fifo : Option Nat) (vc : VC) (esc : Bool) : Nat :=
  (s.mesh.filter fun q => !q.arrived && q.pos == r && q.via == c && seamOf c r q == fifo &&
    (fifo.isSome || (decide (q.vc = vc) && q.esc == esc))).length

/-- May a flit leave router `c` on a hop? A full seam FIFO of 256 entries holds it by credit (R230). The count of the wait is given where it may not. -/
def creditFor (s : State) (c : Nat) (p : Packet) (esc : Bool) : Hop → Option Fld
  | .router r =>
    match seamOf c r p with
    | some i => if behind s c r (some i) p.vc esc < 256 then none else some (F.TB_SEAM_HOLD_CYC_CNT i)
    | none => if behind s c r none p.vc esc < vcDepth p.vc esc then none else some (F.RTR_CREDIT_STALL_CYC_CNT c)
  | .core =>
    match p.body with
    | .winWrite _ =>
      if ((waitingAt s c).filter fun q => decide (q.vc = .land) || decide (q.vc = .bulk)).length < 64 then none
      else some (F.CORE_CTL_LAND_STALL_CNT c)
    | _ => none
  | .crust n =>
    match reqChan p.body, p.body with
    | some k, _ =>
      let q := (waitingAt s n).filter fun q => reqChan q.body == some k
      if q.length < 64 then none
      else some (if k.2 then F.STK_WRQ_STALL_CYC_CNT (n - 20) else F.STK_RDQ_STALL_CYC_CNT (n - 20))
    | none, .cell cell _ =>
      if 23 ≤ n && n ≤ 34 &&
          decide (egressDepth cell.cls ≤ ((port s (n - 23)).egress.filter fun e => e.cls == cell.cls).length) then
        some (F.FAB_EGRESS_HOLD_CYC_CNT (n - 23))
      else none
    | none, _ => none
  | .none => none

/-- A cell reaches its egress port (R278): dropped by check 10 when the port is not ADMITTED, and one of this package by check 9 when its TTL
is 0 or the port's table has no route; else queued. -/
def egressTake (p : Nat) (cell : Cell) (entry : Option Nat) (s : State) : State :=
  let st := get s (F.FAB_STAT_STATE p)
  if st = 3 && (entry.isSome || (cell.ttl != 0 && (fwd s p cell.dst).isSome)) then updPort p (fun k => { k with egress := k.egress ++ [cell] }) s
  else
    let status := if st = 4 then 0x18 else 0x16
    let q := match entry with | some e => e | none => p
    let s1 := bump (if st = 4 then F.FAB_DROP_QUAR q else F.FAB_DROP_NOROUTE q) s
    match entry with
    | some e => askNack e cell status s1
    | none => nackLocal p cell status s1

/-- The SEND that waits for a packet takes note that it has left the router node of its core (Table 6.3). -/
def leftSource (c : Nat) (p : Packet) (s : State) : State :=
  match p.op with
  | some id => if p.pos = c && p.src = c then opDone c id s else s
  | none => s

/-- A request or write without a route is answered to its sender (R240). -/
def noRoute (c : Nat) (p : Packet) (s : State) : State :=
  let s1 := bumpRtr c (F.RTR_DROP_NOROUTE_CNT c) s
  match p.body with
  | .winWrite w =>
    match w.origin with
    | some o => askNack o.1 o.2 0x16 s1
    | none => place (packet c [p.src] .rsp false none (.nack 0x16)) s1
  | .readReq l rq _ =>
    let d := freeBytes 512 s1
    place { packet p.src [p.src] .rsp true none (.readData l d.1 [rq] 0x16) with src := p.src } d.2
  | .writeReq l _ _ rq => place (packet p.src [p.src] .rsp false none (.writeAck l rq 0x16)) s1
  | .cell cell entry =>
    match entry with
    | some e => askNack e cell 0x16 s1
    | none => place (packet c [p.src] .rsp false none (.nack 0x16)) s1
  | _ => s1

/-- Destinations of a packet grouped by the output they take at router `c`. -/
def groups (s : State) (c : Nat) (p : Packet) : List (Nat × List Nat) :=
  let outs := uniq (p.dst.map fun d => routeOut s c d)
  outs.map fun o => (o, p.dst.filter fun d => routeOut s c d == o)

/-- The bank is ON. -/
def bankOn (s : State) (n b : Nat) : Bool := getBit s (F.STK_BANK_ON_ON n) b

/-- The bank of a request is ON when the request reaches its stack (R254). -/
def bankTakes (s : State) (node : Nat) (b : Body) : Bool :=
  match b with
  | .readReq l _ _ => bankOn s (node - 20) (lineBank l)
  | .writeReq l _ _ _ => bankOn s (node - 20) (lineBank l)
  | _ => false

/-- Sends one copy of a packet along an output. -/
def sendCopy (c : Nat) (p : Packet) (g : Nat × List Nat) (s : State) : State :=
  let esc := p.esc || g.2.any fun d => flag s (F.RTR_ROUTE_ESC c d)
  let q := { p with dst := g.2, via := c, esc := esc, op := none }
  match hopOf s c g.1 with
  | .none => noRoute c { p with dst := g.2 } s
  | h =>
    let s1 := s |> bumpRtr c (F.RTR_FLIT_CNT c) |> when esc (bumpRtr c (F.RTR_ESC_CNT c))
    match h with
    | .router r => let s2 := seamCross c r p s1; { s2 with mesh := s2.mesh ++ [{ q with pos := r }] }
    | .core => bumpRtr c (F.RTR_EJ_CNT c) { s1 with mesh := s1.mesh ++ [{ q with pos := c, arrived := true }] }
    | .crust n =>
      match q.body with
      | .cell cell entry => if 23 ≤ n && n ≤ 34 then egressTake (n - 23) { cell with poison := q.poison } entry s1 else s1
      | b => { s1 with mesh := s1.mesh ++ [{ q with pos := n, arrived := true, grace := bankTakes s1 n b }] }
    | .none => s1

/-- The error the router finds in a flit, injections included (Table 14.6). -/
def flitErr (s : State) (c : Nat) (e : FlitErr) : FlitErr :=
  if injActs s 5 (0x20 + c) then .header else if injActs s 4 (0x20 + c) then .payload else e

/-- Router faults (R240): the flit after the error, and what the error does. -/
def flitFault (c : Nat) (p : Packet) (e : FlitErr) (s : State) : Packet × State :=
  let d := 0x20 + c
  let a := match p.dst with | x :: _ => x | [] => 0
  match e with
  | .clean => (p, s)
  | .corrected =>
    let s1 := bumpRtr c (F.RTR_CORR_CNT c) s
    if pendHit s1 d then
      ({ p with poison := true },
        raise { src := 2, dom := d, access := 4, node := p.src, addr := a, esc := true }
          (bumpRtr c (F.RTR_POISON_CNT c) s1))
    else (p, raise { src := 2, dom := d, access := 4, node := p.src, addr := a } (pendSet d s1))
  | .payload =>
    let s1 := when (injActs s 4 d) injApply (bumpRtr c (F.RTR_POISON_CNT c) s)
    ({ p with poison := true }, raise { src := 0x37, dom := d, access := 4, node := p.src, addr := a } s1)
  | .header =>
    let s1 := when (injActs s 5 d) injApply (bumpRtr c (F.RTR_HDR_ERR_CNT c) s)
    (p, raise { src := 0x60, dom := d, access := 4 } s1)

/-- Removes the first packet that satisfies a test. -/
def takeFirst (f : Packet → Bool) : List Packet → Option (Packet × List Packet)
  | [] => none
  | p :: l =>
    if f p then some (p, l)
    else match takeFirst f l with
      | some r => some (r.1, p :: r.2)
      | none => none

/-- Arbitration order of the virtual channels (Table 8.3). -/
def vcRank (v : VC) : Nat := match v with | .ctl => 0 | .land => 1 | .rsp => 2 | .req => 3 | .bulk => 4

/-- The input of its router at which a flit waits: the link, crust node or unit it came from, or the seam FIFO (R230, R237). -/
def inputOf (p : Packet) : Nat × Option Nat := (p.via, if p.via < 20 then seamOf p.via p.pos p else none)

/-- The first flit of each input of router `c` in a virtual channel or its escape sub-channel, the oldest first (R237). -/
def inputHeads (s : State) (c : Nat) (v : VC) (e : Bool) : List Packet :=
  let l := s.mesh.filter fun p => !p.arrived && p.pos == c && decide (p.vc = v) && p.esc == e
  (l.zipIdx.filter fun a => !((l.take a.2).any fun b => inputOf b == inputOf a.1)).map fun a => a.1

/-- The first flits of the inputs of a router, in the virtual channels and escape sub-channels. -/
def heads (s : State) (c : Nat) : List Packet :=
  [VC.ctl, .land, .rsp, .req, .bulk].flatMap fun v => [false, true].flatMap (inputHeads s c v)

/-- The count that holds a flit at a router for want of a credit; none when it may leave. -/
def heldFlit (s : State) (c : Nat) (p : Packet) : Option Fld :=
  (groups s c p).findSome? fun g => creditFor s c p (p.esc || g.2.any fun d => flag s (F.RTR_ROUTE_ESC c d)) (hopOf s c g.1)

/-- A flit yields to another that is ready for one of its outputs (Table 8.3): one of a higher channel, or a BULK flit that has waited
for 15 others. -/
def yields (s : State) (c : Nat) (p : Packet) : Bool :=
  (heads s c).any fun q => (heldFlit s c q).isNone && (groups s c p).any fun g =>
    ((groups s c q).any fun h => h.1 == g.1) &&
      (if 15 ≤ SMap.get 0 s.arb (8 * c + g.1) then decide (q.vc = .bulk) && !decide (p.vc = .bulk) else decide (vcRank q.vc < vcRank p.vc))

/-- A flit is granted its outputs: at each, the grants that a waiting BULK flit has let pass are counted. -/
def granted (c : Nat) (p : Packet) (s : State) : State :=
  let waits := fun (o : Nat) => !decide (p.vc = .bulk) && (heads s c).any fun q => decide (q.vc = .bulk) && (groups s c q).any fun h => h.1 == o
  let one := fun (g : Nat × List Nat) (s : State) =>
    { s with arb := SMap.put 0 s.arb (8 * c + g.1) (if waits g.1 then SMap.get 0 s.arb (8 * c + g.1) + 1 else 0) }
  each (groups s c p) one s

/-- FLIT_FORWARD: router `c` forwards, of the first flits of its inputs in a virtual channel or escape sub-channel, the oldest that a credit
lets go, unless another flit goes first; a cycle in which none may leave is counted. -/
def execFlitForward (c : CoreIx) (vc : VChan) (esc : Bool) (e : FlitErr) (s : State) : Host.Outcome State Fault Refusal :=
  let ch := match vc with | .ctl => VC.ctl | .land => .land | .rsp => .rsp | .req => .req | .bulk => .bulk
  let l := inputHeads s c ch esc
  if !flag s (F.RTR_STAT_EN_ACT c) then .next s
  else match l.find? fun p => (heldFlit s c p).isNone with
  | none => .next (match l.head?.bind (heldFlit s c) with | some f => bump f s | none => s)
  | some p =>
    let gs := groups s c p
    if yields s c p then .next s
    else
      let err := flitErr s c e
      let a := flitFault c p err { granted c p s with mesh := s.mesh.erase p }
      let s1 := leftSource c p a.2
      if err = .header then .next s1
      else
        let q := { a.1 with poison := a.1.poison || inSafe s1 }
        let s2 := when (routerPresent s1 c && decide (1 < gs.length)) (bumpN (F.RTR_MCAST_FORK_CNT c) (gs.length - 1)) s1
        .next (each gs (sendCopy c q) s2)

end Sys2Proof.Machine
end

