-- ==== Sys2Proof/Machine/Fp.lean ====
section
/-! DEFINITION. FP32, BF16 and E4M3 arithmetic with one rounding to nearest, ties to even (R28), on bit patterns held as numbers. -/
namespace Sys2Proof.Machine

/-- The value of a bit pattern: not a number (with its FP32 pattern), an infinity, or the finite number
(-1)^neg x man x 2^exp. -/
inductive Num where
  | nan (bits : Nat)
  | inf (neg : Bool)
  | fin (neg : Bool) (man : Nat) (exp : Int)
  deriving DecidableEq, Repr

/-- The number of binary digits of `n`, found with `fuel` halvings. -/
def bitLenAux : Nat → Nat → Nat
  | 0, _ => 0
  | f + 1, n => if n = 0 then 0 else bitLenAux f (n / 2) + 1

/-- The number of binary digits of `n`. -/
def bitLen (n : Nat) : Nat := if n = 0 then 0 else Nat.log2 n + 1

/-- `n / 2^k` rounded to nearest, ties to even; `sticky` says that the value lies above `n` by less than one unit. -/
def shiftRne (n k : Nat) (sticky : Bool) : Nat :=
  let q := n / 2 ^ k
  let r : Nat := n % 2 ^ k
  if k = 0 then q
  else
    let half := 2 ^ (k - 1)
    if r > half || (r = half && sticky) then q + 1
    else if r = half then q + q % 2
    else q

/-- Packs sign, magnitude `man * 2^exp` (plus a sticky part) into a format of `p` significand bits whose smallest
exponent is `emin` (of the last bit of a subnormal) and whose exponent field is `w` bits wide; infinity on overflow. -/
def packFp (p w : Nat) (emin : Int) (neg : Bool) (man : Nat) (exp : Int) (sticky : Bool) : Nat :=
  let s := if neg then 2 ^ (p - 1 + w) else 0
  if man = 0 then s
  else
    let top : Int := exp + bitLen man
    let e : Int := if top - p < emin then emin else top - p
    let q := if exp ≥ e then man * 2 ^ (exp - e).toNat else shiftRne man (e - exp).toNat sticky
    -- `q` carries into the next binade by itself, because the fields are adjacent
    let bias := (e - emin).toNat
    let bits := if q < 2 ^ (p - 1) then q else bias * 2 ^ (p - 1) + q
    let top := (2 ^ w - 1) * 2 ^ (p - 1)
    s + (if bits ≥ top then top else bits)

/-- Rounds to FP32. -/
def packF32 (neg : Bool) (man : Nat) (exp : Int) (sticky : Bool) : Nat :=
  packFp 24 8 (-149) neg man exp sticky

/-- Rounds to BF16. -/
def packBf16 (neg : Bool) (man : Nat) (exp : Int) (sticky : Bool) : Nat :=
  packFp 8 8 (-133) neg man exp sticky

/-- Quietens a NaN pattern of FP32, keeping its sign and payload (R28). -/
def quiet (b : Nat) : Nat := (b % 2 ^ 32) ||| 0x00400000

/-- Reads an FP32 pattern. -/
def unpackF32 (b : Nat) : Num :=
  let neg : Bool := b / 2 ^ 31 % 2 = 1
  let e : Nat := b / 2 ^ 23 % 256
  let f := b % 2 ^ 23
  if e = 255 then (if f = 0 then .inf neg else .nan b)
  else if e = 0 then .fin neg f (-149)
  else .fin neg (f + 2 ^ 23) ((e : Int) - 150)

/-- A BF16 pattern as FP32: the same upper 16 bits. -/
def bfToF32 (b : Nat) : Nat := (b % 2 ^ 16) * 2 ^ 16

/-- Writes a value as an FP32 pattern. -/
def numToF32 : Num → Nat
  | .nan b => quiet b
  | .inf n => if n then 0xFF800000 else 0x7F800000
  | .fin n m e => packF32 n m e false

/-- Rounds an FP32 pattern once to BF16; a NaN is the upper half of its quiet FP32 pattern (R28). -/
def f32ToBf (b : Nat) : Nat :=
  match unpackF32 b with
  | .nan b => quiet b / 2 ^ 16
  | .inf n => if n then 0xFF80 else 0x7F80
  | .fin n m e => packBf16 n m e false

/-- The NaN of an operation with NaN operands: the one NaN operand, or one of the two (free, log entry 20). -/
def nanOf (a b : Num) : Option Nat :=
  match a, b with
  | .nan x, .nan y => some (quiet (if Config.nanFirst x y then x else y))
  | .nan x, _ => some (quiet x)
  | _, .nan y => some (quiet y)
  | _, _ => none

/-- A NaN made by an invalid operation: quiet, sign and payload free (log entry 20). -/
def newNan (tag : Nat) : Nat := 0x7FC00000 ||| (Config.newNanBits tag % 2 ^ 32)

/-- Exact sum of two finite numbers: sign, magnitude, exponent. A zero sum of unlike signs is +0. -/
def addExact (n1 : Bool) (m1 : Nat) (e1 : Int) (n2 : Bool) (m2 : Nat) (e2 : Int) : Bool × Nat × Int :=
  let e := if e1 ≤ e2 then e1 else e2
  let a := m1 * 2 ^ (e1 - e).toNat
  let b := m2 * 2 ^ (e2 - e).toNat
  if n1 = n2 then (n1, a + b, e)
  else if a > b then (n1, a - b, e)
  else if b > a then (n2, b - a, e)
  else (false, 0, e)

/-- Sum of two values as FP32 pattern. -/
def addNum (a b : Num) : Nat :=
  match nanOf a b with
  | some r => r
  | none =>
    match a, b with
    | .inf x, .inf y => if x = y then numToF32 (.inf x) else newNan 1
    | .inf x, _ => numToF32 (.inf x)
    | _, .inf y => numToF32 (.inf y)
    | .fin n1 m1 e1, .fin n2 m2 e2 =>
      let r := addExact n1 m1 e1 n2 m2 e2
      packF32 r.1 r.2.1 r.2.2 false
    | _, _ => newNan 1

/-- FP32 addition. -/
def fadd (a b : Nat) : Nat := addNum (unpackF32 a) (unpackF32 b)

/-- Negation (sign bit). -/
def fneg (a : Nat) : Nat := if a / 2 ^ 31 % 2 = 1 then a - 2 ^ 31 else a + 2 ^ 31

/-- FP32 subtraction. A NaN operand keeps its own sign (R28). -/
def fsub (a b : Nat) : Nat :=
  match unpackF32 b with
  | .nan _ => fadd a b
  | _ => fadd a (fneg b)

/-- Product as a value, exact. -/
def mulNum (a b : Num) : Num :=
  match nanOf a b with
  | some r => .nan r
  | none =>
    match a, b with
    | .inf x, .inf y => .inf (xor x y)
    | .inf x, .fin y m _ => if m = 0 then .nan (newNan 2) else .inf (xor x y)
    | .fin x m _, .inf y => if m = 0 then .nan (newNan 2) else .inf (xor x y)
    | .fin n1 m1 e1, .fin n2 m2 e2 => .fin (xor n1 n2) (m1 * m2) (e1 + e2)
    | _, _ => .nan (newNan 2)

/-- FP32 multiplication. -/
def fmul (a b : Nat) : Nat := numToF32 (mulNum (unpackF32 a) (unpackF32 b))

/-- a x b + c with one rounding. -/
def ffma (a b c : Nat) : Nat := addNum (mulNum (unpackF32 a) (unpackF32 b)) (unpackF32 c)

/-- FP32 division. -/
def fdiv (a b : Nat) : Nat :=
  let x := unpackF32 a
  let y := unpackF32 b
  match nanOf x y with
  | some r => r
  | none =>
    match x, y with
    | .inf _, .inf _ => newNan 3
    | .inf n, .fin n2 _ _ => numToF32 (.inf (xor n n2))
    | .fin n _ _, .inf n2 => packF32 (xor n n2) 0 0 false
    | .fin n1 m1 e1, .fin n2 m2 e2 =>
      if m2 = 0 then (if m1 = 0 then newNan 3 else numToF32 (.inf (xor n1 n2)))
      else
        let num := m1 * 2 ^ 64
        packF32 (xor n1 n2) (num / m2) (e1 - 64 - e2) (num % m2 ≠ 0)
    | _, _ => newNan 3

/-- Integer square root, one binary digit per step of fuel from the digit `k`. -/
def isqrtAux : Nat → Nat → Nat → Nat
  | 0, _, r => r
  | k + 1, n, r =>
    let t := r + 2 ^ k
    isqrtAux k n (if t * t ≤ n then t else r)

/-- Integer square root of a number below 2^128. -/
def isqrt (n : Nat) : Nat := isqrtAux 64 n 0

/-- FP32 square root. -/
def fsqrt (a : Nat) : Nat :=
  match unpackF32 a with
  | .nan b => quiet b
  | .inf n => if n then newNan 4 else 0x7F800000
  | .fin n m e =>
    if m = 0 then (if n then 0x80000000 else 0)
    else if n then newNan 4
    else
      let odd := (e % 2).toNat
      let v := m * 2 ^ (64 + odd)
      let ev := (e - odd - 64) / 2
      let r := isqrt v
      packF32 false r ev (r * r ≠ v)

/-- An integer as FP32. -/
def intToF32 (i : Int) : Nat := packF32 (i < 0) i.natAbs 0 false

/-- Is the pattern a NaN? -/
def isNan (b : Nat) : Bool := match unpackF32 b with | .nan _ => true | _ => false

/-- Order of two patterns that are not NaN: a < b. Zeros compare equal. -/
def fltb (a b : Nat) : Bool :=
  match unpackF32 a, unpackF32 b with
  | .nan _, _ => false
  | _, .nan _ => false
  | .inf x, .inf y => x && !y
  | .inf x, .fin _ _ _ => x
  | .fin _ _ _, .inf y => !y
  | .fin n1 m1 e1, .fin n2 m2 e2 =>
    let e := if e1 ≤ e2 then e1 else e2
    let p : Int := (m1 * 2 ^ (e1 - e).toNat : Nat)
    let q : Int := (m2 * 2 ^ (e2 - e).toNat : Nat)
    decide ((if n1 then -p else p) < (if n2 then -q else q))

/-- NaN read as minus infinity (Table 6.7, MAX and TOPK). -/
def nanLow (b : Nat) : Nat := if isNan b then 0xFF800000 else b

/-- Magnitude (sign bit cleared). -/
def fabs (b : Nat) : Nat := b % 2 ^ 31

/-- 2^k as FP32. -/
def pow2F32 (k : Int) : Nat := packF32 false 1 k false

/-- A finite FP32 pattern rounded to the nearest integer, ties to even; 0 for a non-finite one. -/
def roundInt (b : Nat) : Int :=
  match unpackF32 b with
  | .fin n m e =>
    let q : Int := if e ≥ 0 then (m * 2 ^ e.toNat : Nat) else (shiftRne m (-e).toNat false : Nat)
    if n then -q else q
  | _ => 0

/-! ### Exponential in fixed point, for the bound of ACT (Table 6.7) -/

/-- A finite FP32 value times 2^64, rounded toward zero; `lim` times 2^64 for a larger magnitude. -/
def fix64 (lim : Nat) (b : Nat) : Int :=
  match unpackF32 b with
  | .fin n m e =>
    let a : Nat := if 0 ≤ e + 64 then m * 2 ^ (e + 64).toNat else m / 2 ^ (-(e + 64)).toNat
    let q : Int := (min a (lim * 2 ^ 64) : Nat)
    if n then -q else q
  | .inf n => if n then -((lim * 2 ^ 64 : Nat) : Int) else ((lim * 2 ^ 64 : Nat) : Int)
  | .nan _ => 0

/-- e^(v / 2^64) as mantissa and exponent, to about 60 bits: range reduction by ln 2 and 20 terms of the series. -/
def expFix (v : Int) : Nat × Int :=
  let ln2 : Int := 12786308645202655660
  let k := (2 * v + ln2) / (2 * ln2)
  let r := v - k * ln2
  let one : Int := (2 ^ 64 : Nat)
  let t := (List.range 20).foldl (fun t i => one + r * t / (one * ((20 - i : Nat) : Int))) one
  (t.toNat, k - 64)

/-- 1 / (1 + e^(-v / 2^64)) times 2^1024. -/
def logistic (v : Int) : Nat :=
  let e := expFix (-v)
  if 0 ≤ e.2 then 2 ^ 1024 / (1 + e.1 * 2 ^ e.2.toNat) else 2 ^ 1024 * 2 ^ (-e.2).toNat / (2 ^ (-e.2).toNat + e.1)

/-- x times the logistic of `v`. -/
def timesLogistic (x : Nat) (v : Int) : Num :=
  match unpackF32 x with
  | .fin n m e => .fin n (m * logistic v) (e - 1024)
  | .inf n => if n then .fin true 0 0 else .inf false
  | .nan b => .nan b

/-- f(x) of ACT for an operand that is not a NaN, to about 59 bits, and whether it is exact: SiLU, GELU in the tanh form, exp, reciprocal
(Table 6.7). -/
def actNum (f x : Nat) : Num × Bool :=
  match f with
  | 0 => (timesLogistic x (fix64 256 x), false)
  | 1 =>
    let v := fix64 256 x
    let one : Int := (2 ^ 64 : Nat)
    let cube := v * v / one * v / one
    (timesLogistic x ((v + 44715 * cube / 1000000) * 29436744586989209809 / one), false)
  | 2 =>
    match unpackF32 x with
    | .inf n => (if n then .fin false 0 0 else .inf false, true)
    | .fin _ m _ => let e := expFix (fix64 256 x); (.fin false e.1 e.2, m == 0)
    | .nan b => (.nan b, true)
  | _ =>
    match unpackF32 x with
    | .inf n => (.fin n 0 0, true)
    | .fin n m e => if m = 0 then (.inf n, true) else (.fin n (2 ^ 200 / m) (-200 - e), 2 ^ 200 % m == 0)
    | .nan b => (.nan b, true)

/-- Magnitude of the BF16 value next below `man * 2^exp`, or equal to it. -/
def bfDown (man : Nat) (exp : Int) : Nat :=
  let e := max (exp + bitLen man - 8) (-133)
  let q := if e ≤ exp then man * 2 ^ (exp - e).toNat else man / 2 ^ (e - exp).toNat
  min 0x7F7F (packBf16 false q e false)

/-- A BF16 value within 1 ulp of a number, as `d` chooses: one of the two that enclose it; of a number that BF16 holds, itself or a
neighbour. Infinities, to which a number of 2^128 or more rounds, and zeros are exact (R28). -/
def bfNear (r : Num × Bool) (d : Nat) : Nat :=
  match r.1 with
  | .inf n => if n then 0xFF80 else 0x7F80
  | .nan b => quiet b / 2 ^ 16
  | .fin n m e =>
    let sign := if n then 0x8000 else 0
    if m = 0 then sign
    else if 128 < e + bitLen m then sign + 0x7F80
    else
      let lo := bfDown m e
      sign + (if r.2 then lo + d % 3 - 1 else lo + d % 2)

/-- ACT of one element, as FP32 pattern (Table 6.7, R28). A NaN keeps sign and payload; ReLU is exact; SiLU, GELU, exp and
reciprocal lie within 1 ulp of f(x), where the table's choice is free; a FUNC that the table does not list gives a free value. -/
def actVal (f x : Nat) : Nat :=
  if isNan x then quiet x
  else if f = 4 then (if x = 0x80000000 then (if Config.maxZeroFirst x 0 then x else 0) else if 0x80000000 < x then 0 else x)
  else if f < 4 then bfToF32 (bfNear (actNum f x) (Config.actTable f x))
  else bfToF32 (Config.actTable f x)

/-- e^x in FP32, rounded to nearest even (R28, R184, R201). DESIGN CHOICE (log entry 23): the exponential is taken from a series to about
59 bits before it is rounded, so for an x that puts e^x nearer than 2^-59 to the middle of two FP32 values the last bit could differ. -/
def expVal (x : Nat) : Nat :=
  match unpackF32 x with
  | .nan b => quiet b
  | .inf n => if n then 0 else 0x7F800000
  | .fin _ m _ => if m = 0 then 0x3F800000 else let e := expFix (fix64 256 x); packF32 false e.1 e.2 true

/-- E4M3 as a value (Table 0.5): bias 7, no infinities, S.1111.111 is NaN. -/
def unpackE4 (b : Nat) : Num :=
  let neg : Bool := b / 128 % 2 = 1
  let e : Nat := b / 8 % 16
  let f := b % 8
  if e = 15 && f = 7 then .nan (if neg then 0xFFC00000 else 0x7FC00000)
  else if e = 0 then .fin neg f (-9)
  else .fin neg (f + 8) ((e : Int) - 10)

/-- E4M3 as FP32. -/
def e4ToF32 (b : Nat) : Nat := numToF32 (unpackE4 b)

/-- Rounds a finite FP32 pattern to E4M3, to nearest, ties to even, clipped to the largest finite magnitude 448;
a NaN or infinite pattern gives the NaN code with its sign. -/
def f32ToE4 (b : Nat) : Nat :=
  match unpackF32 b with
  | .fin n m e =>
    let r := packFp 4 5 (-9) false m e false
    (if r ≥ 0x7F then 0x7E else r) + (if n then 0x80 else 0)
  | .inf n => if n then 0xFF else 0x7F
  | .nan b => if b / 2 ^ 31 % 2 = 1 then 0xFF else 0x7F

end Sys2Proof.Machine
end

