-- ==== Sys2Proof/Machine/Vec.lean ====
section
/-! DEFINITION. The vector unit: the VEC operations but QUANT (R184). -/
namespace Sys2Proof.Machine

/-- FP32 sum of a list in ascending order. -/
def sumList : List Nat → Nat
  | [] => 0
  | x :: l => l.foldl fadd x

/-- Sums of lanes: lane `i` over the rows in ascending order, then the 256 lane sums as a balanced pairwise tree in
ascending lane order (R184). -/
def laneSums (rows : List (List Nat)) : List Nat :=
  (List.range 256).map fun i => sumList (rows.map fun r => nth 0 r i)

/-- One level of the pairwise tree. -/
def pairUp : List Nat → List Nat
  | a :: b :: l => fadd a b :: pairUp l
  | l => l

/-- The balanced pairwise tree over 256 lane sums. -/
def treeSum (l : List Nat) : Nat := nth 0 (pairUp (pairUp (pairUp (pairUp (pairUp (pairUp (pairUp (pairUp l)))))))) 0

/-- Sum of all elements of rows of FP32 values, in the fixed order of R184. -/
def sumRows (rows : List (List Nat)) : Nat := treeSum (laneSums rows)

/-- The larger of two FP32 values, NaN treated as minus infinity (Table 6.7). -/
def fmaxLow (a b : Nat) : Nat :=
  let x := nanLow a
  let y := nanLow b
  if fltb x y then y else if fltb y x then x else if Config.maxZeroFirst x y then x else y

/-- The FP32 values of BF16 rows. -/
def rowsF32 (l : List (List Byte × Bool)) : List (List Nat) := l.map fun p => (rowBf p.1).map bfToF32

/-- A result row of FP32 values, rounded once to BF16. -/
def outRow (vs : List Nat) : List Byte := bfRow (vs.map f32ToBf)

/-- Element-wise results of two operands. -/
def zip2 (f : Nat → Nat → Nat) (a b : List (List Nat)) : List (List Nat) :=
  (a.zip b).map fun p => (p.1.zip p.2).map fun q => f q.1 q.2

/-- Element-wise results of three operands. -/
def zip3 (f : Nat → Nat → Nat → Nat) (a b d : List (List Nat)) : List (List Nat) :=
  (a.zip (b.zip d)).map fun p => (p.1.zip (p.2.1.zip p.2.2)).map fun q => f q.1 q.2.1 q.2.2

/-- Writes result rows from row `d` on, with their poison marks. -/
def writeRows (c d : Nat) (rows : List (List Byte × Bool)) (s : State) : State :=
  each (rows.zipIdx) (fun p s => writeRow c (d + p.2) p.1.1 p.1.2 s) s

/-- Operand fields of Table 6.6. -/
def vA (w : Nat) : Nat := bits w 32 15
/-- First row of operand b. -/
def vB (w : Nat) : Nat := bits w 47 15
/-- First destination row. -/
def vD (w : Nat) : Nat := bits w 62 15
/-- N. -/
def vN (w : Nat) : Nat := bits w 77 7 + 1
/-- FUNC. -/
def vFunc (w : Nat) : Nat := bits w 84 8
/-- IMM. -/
def vImm (w : Nat) : Nat := bits w 92 32

/-- An element-wise operation of one operand: all rows are read, then the results are written (log entry 27). -/
def vec1 (f : Nat → Nat) (c w : Nat) (s : State) : State :=
  let a := readRows c 4 (rowRange (vA w) (vN w)) s
  writeRows c (vD w) (a.1.map fun p => (outRow ((rowBf p.1).map fun x => f (bfToF32 x)), p.2)) a.2

/-- An element-wise operation of two operands. -/
def vec2 (f : Nat → Nat → Nat) (c w : Nat) (s : State) : State :=
  let a := readRows c 4 (rowRange (vA w) (vN w)) s
  let b := readRows c 4 (rowRange (vB w) (vN w)) a.2
  let r := zip2 f (rowsF32 a.1) (rowsF32 b.1)
  let ps := (a.1.zip b.1).map fun p => p.1.2 || p.2.2
  writeRows c (vD w) ((r.map outRow).zip ps) b.2

/-- FMA reads its destination as third operand. -/
def vecFma (c w : Nat) (s : State) : State :=
  let a := readRows c 4 (rowRange (vA w) (vN w)) s
  let b := readRows c 4 (rowRange (vB w) (vN w)) a.2
  let d := readRows c 4 (rowRange (vD w) (vN w)) b.2
  let r := zip3 ffma (rowsF32 a.1) (rowsF32 b.1) (rowsF32 d.1)
  let ps := (a.1.zip (b.1.zip d.1)).map fun p => p.1.2 || p.2.1.2 || p.2.2.2
  writeRows c (vD w) ((r.map outRow).zip ps) d.2

/-- NORM (Table 6.7): a x b / sqrt(mean of a^2 over the N rows + IMM). -/
def vecNorm (c w : Nat) (s : State) : State :=
  let a := readRows c 4 (rowRange (vA w) (vN w)) s
  let b := readRows c 4 (rowRange (vB w) (vN w)) a.2
  let fa := rowsF32 a.1
  let sq := sumRows (fa.map fun r => r.map fun x => fmul x x)
  let root := fsqrt (fadd (fdiv sq (intToF32 (256 * vN w))) (vImm w))
  let r := zip2 (fun x y => fdiv (fmul x y) root) fa (rowsF32 b.1)
  let pa := anyPoison a.1
  writeRows c (vD w) ((r.map outRow).zip (b.1.map fun p => pa || p.2)) b.2

/-- Largest element of rows, in ascending order. -/
def maxRows (rows : List (List Nat)) : Nat :=
  rows.foldl (fun m r => r.foldl (fun m x => if fltb m x then x else m) m) 0xFF800000

/-- SOFTMAX (Table 6.7). -/
def vecSoftmax (c w : Nat) (s : State) : State :=
  let a := readRows c 4 (rowRange (vA w) (vN w)) s
  let fa := rowsF32 a.1
  let m := maxRows fa
  let e := fa.map fun r => r.map fun x => expVal (fsub x m)
  let t := sumRows e
  let p := anyPoison a.1
  writeRows c (vD w) (e.map fun r => (outRow (r.map fun x => fdiv x t), p)) a.2

/-- Index and value of the best element of a list by rank, skipping those already taken: larger ranks first, ties to the
lower index. -/
def bestOf (l : List (Nat × Nat)) (taken : List Nat) : Option (Nat × Nat) :=
  l.foldl (fun b p =>
    if taken.contains p.1 then b
    else match b with
      | none => some p
      | some q => if fltb (nanLow q.2) (nanLow p.2) then some p else b) none

/-- The first `k` elements by rank. -/
def topK (l : List (Nat × Nat)) : Nat → List Nat → List (Nat × Nat)
  | 0, _ => []
  | k + 1, taken =>
    match bestOf l taken with
    | none => []
    | some p => p :: topK l k (p.1 :: taken)

/-- Elements with their index. -/
def indexed (l : List Nat) : List (Nat × Nat) := l.zipIdx.map fun p => (p.2, p.1)

/-- TOPK (Table 6.7); a NaN is written quiet (R28). -/
def vecTopk (c w : Nat) (s : State) : State :=
  let a := readRows c 4 (rowRange (vA w) (vN w)) s
  let best := topK (indexed (rowsF32 a.1).flatten) (vFunc w) []
  let row := (best.flatMap fun p => natLe 2 p.1) ++ zeros (16 - 2 * best.length)
      ++ (best.flatMap fun p => natLe 4 (if isNan p.2 then quiet p.2 else p.2)) ++ zeros (32 - 4 * best.length) ++ zeros 464
  writeRow c (vD w) row (anyPoison a.1) a.2

/-- SAMPLE (Table 6.7). -/
def vecSample (c w : Nat) (s : State) : State :=
  let a := readRows c 4 (rowRange (vA w) (vN w)) s
  let logits := indexed (rowsF32 a.1).flatten
  let b := if vFunc w = 0 then (([] : List Byte), false, a.2) else
      let r := readRow c 4 (vB w) a.2
      (r.1.1, r.1.2, r.2)
  let seed := leAt b.1 0 8
  let pos := leAt b.1 8 4
  let ranked := if vFunc w = 0 then logits else
      logits.map fun p => (p.1, if isNan p.2 then p.2 else Config.perturbed seed pos (vImm w) p.1 p.2)
  let i := match bestOf ranked [] with | some p => p.1 | none => 0
  let logit := match logits.find? (fun p => p.1 == i) with | some p => p.2 | none => 0
  let row := natLe 4 i ++ natLe 4 logit ++ (List.range 504).map Config.sampleRest
  writeRow c (vD w) row (anyPoison a.1 || b.2.1) b.2.2

/-- A VEC operation issued and executed: `f` on the core and the instruction word. -/
def vecOp (op : Nat) (f : Nat → Nat → State → State) (i : Issue) (s : State) : State :=
  issue i 3 op (some .vec) always (fun w s => signal i.core (sigOf w) (f i.core w s)) s

/-- ADD. -/
def execAdd (i : Issue) (s : State) : Host.Outcome State Fault Refusal := .next (vecOp 0 (vec2 fadd) i s)
/-- SUB. -/
def execSub (i : Issue) (s : State) : Host.Outcome State Fault Refusal := .next (vecOp 1 (vec2 fsub) i s)
/-- MUL. -/
def execMul (i : Issue) (s : State) : Host.Outcome State Fault Refusal := .next (vecOp 2 (vec2 fmul) i s)
/-- FMA. -/
def execFma (i : Issue) (s : State) : Host.Outcome State Fault Refusal := .next (vecOp 3 vecFma i s)
/-- SCALE. -/
def execScale (i : Issue) (s : State) : Host.Outcome State Fault Refusal :=
  .next (vecOp 4 (fun c w => vec1 (fun x => fmul x (vImm w)) c w) i s)
/-- MAX. -/
def execMaxOp (i : Issue) (s : State) : Host.Outcome State Fault Refusal := .next (vecOp 5 (vec2 fmaxLow) i s)
/-- ACT. -/
def execAct (i : Issue) (s : State) : Host.Outcome State Fault Refusal :=
  .next (vecOp 6 (fun c w => vec1 (actVal (vFunc w)) c w) i s)
/-- NORM. -/
def execNorm (i : Issue) (s : State) : Host.Outcome State Fault Refusal := .next (vecOp 7 vecNorm i s)
/-- SOFTMAX. -/
def execSoftmax (i : Issue) (s : State) : Host.Outcome State Fault Refusal := .next (vecOp 8 vecSoftmax i s)
/-- TOPK. -/
def execTopk (i : Issue) (s : State) : Host.Outcome State Fault Refusal := .next (vecOp 9 vecTopk i s)
/-- SAMPLE. -/
def execSample (i : Issue) (s : State) : Host.Outcome State Fault Refusal := .next (vecOp 0xB vecSample i s)

end Sys2Proof.Machine
end

