-- ==== Sys2Proof/Machine/Leaven.lean ====
section
/-! DEFINITION. The leaven unit: layer flags, recipes and QUANT (R94 to R97, R103 to R109, R115, R118, R185). -/
namespace Sys2Proof.Machine

/-- Raises layer flag `b` of recipe index `ri` (0 SAT, 1 OUTLIER_OVF, 2 PROOF_MISS, 3 CHK_MISS): the sticky bit and the
in-window bit (R109, R118). -/
def layerFlag (c ri b : Nat) (s : State) : State :=
  let f := nth (F.LEAVEN_LFLAG_SAT c ri)
    [F.LEAVEN_LFLAG_SAT c ri, F.LEAVEN_LFLAG_OUTLIER_OVF c ri, F.LEAVEN_LFLAG_PROOF_MISS c ri, F.LEAVEN_LFLAG_CHK_MISS c ri] b
  updCore c (fun k => { k with winFlags := SMap.put 0 k.winFlags ri (withBit (SMap.get 0 k.winFlags ri) b true) })
    (hwSet f 0 s)

/-- LT as it is used: NaN and negative codes are 0 (Table 3.10). -/
def ltOf (v : Nat) : Nat := if v < 0x7F then v else 0

/-- The active recipe entry (Table 3.4). -/
def recipe (s : State) (c ri : Nat) : Recipe :=
  { a4 := actB s (F.LEAVEN_RCP_CTL_AFMT c ri), range := actv s (F.LEAVEN_RCP_CTL_RANGE c ri),
    blk := actv s (F.LEAVEN_RCP_CTL_BLK c ri), fine := actB s (F.LEAVEN_RCP_CTL_FINE c ri),
    lt := ltOf (actv s (F.LEAVEN_RCP_CTL_LT c ri)), layer := actv s (F.LEAVEN_RCP_CTL_LAYER c ri),
    ascale := actv s (F.LEAVEN_RCP_ASCALE_SCALE c ri), wscale := actv s (F.LEAVEN_RCP_WSCALE_SCALE c ri) }

/-- a ≤ b for patterns that are not NaN. -/
def fle (a b : Nat) : Bool := !(fltb b a)

/-- The recipe quantises with leaven rows (R94, R106). -/
def usesLeaven (r : Recipe) : Bool := r.lt != 0 && !r.fine

/-- M: 7 for A4, 1 for A2. -/
def codeMax (r : Recipe) : Nat := if r.a4 then 7 else 1

/-- Is a BF16 pattern NaN or infinite? -/
def bfNonFinite (b : Nat) : Bool := b / 128 % 256 == 255

/-- Magnitude of an element in step 2: 0 for NaN (R453). -/
def magOf (x : Nat) : Nat := if isNan x then 0 else fabs x

/-- S_a × 2^k in FP32. -/
def scaleAt (r : Recipe) (k : Int) : Nat := fmul r.ascale (pow2F32 k)

/-- Root mean square of the elements, non-finite ones adding 0 (R94 step 1, R453). -/
def rmsOf (xs : List Nat) : Nat :=
  let sq := xs.foldl (fun t x => if isNan x || fabs x = 0x7F800000 then t else fadd t (fmul x x)) 0
  fsqrt (fdiv sq (intToF32 xs.length))

/-- The largest e from 0 to 31 with m ≤ M × S_a × 2^-e, or 0; 0 for an infinite m (R453). The product is formed as
M × (S_a × 2^-e): R94 names no order of the multiplications (DESIGN CHOICE, log entry 64). -/
def blockExp (r : Recipe) (m : Nat) : Nat → Nat
  | 0 => 0
  | e + 1 => if m = 0x7F800000 then 0 else if fle m (fmul (intToF32 (codeMax r)) (scaleAt r (-(e + 1 : Nat)))) then e + 1 else blockExp r m e

/-- A code clipped to ±m, and whether it was. -/
def clipCode (v : Int) (m : Nat) : Int × Bool :=
  if (m : Int) < v then (m, true) else if v < -(m : Int) then (-(m : Int), true) else (v, false)

/-- One element as the quantiser sees it: the value, its clamped value, whether it is an outlier, its code, whether it was
clipped or is not finite, and its residual. -/
structure QEl where
  x : Nat
  clamped : Nat
  out : Bool
  code : Int
  clip : Bool
  nonFin : Bool
  res : Nat
  deriving DecidableEq, Repr

/-- Code of an element for a step size (R94 step 4, R453). -/
def codeOf (m : Nat) (step x : Nat) : Int × Bool :=
  if isNan x then (0, false)
  else if fabs x = 0x7F800000 then (if x / 2 ^ 31 = 1 then (-(m : Int), false) else ((m : Int), false))
  else if step % 2 ^ 31 = 0 then (0, false)
  else
    let q := fdiv x step
    if fabs q = 0x7F800000 then (if q / 2 ^ 31 = 1 then (-(m : Int), true) else ((m : Int), true))
    else clipCode (roundInt q) m

/-- Magnitude bits and sign of a code as stored (R51); the sign of a zero code is free. -/
def storeCode (a4 : Bool) (x : Nat) (v : Int) : Nat :=
  let neg := if v = 0 then Config.zeroSign x else decide (v < 0)
  v.natAbs + (if neg then (if a4 then 8 else 2) else 0)

/-- Packs codes of 4 or 2 bits into bytes, element 0 in the lowest bits. -/
def packCodes (a4 : Bool) (cs : List Nat) : List Byte :=
  let per := if a4 then 2 else 4
  let w := if a4 then 16 else 4
  (List.range (cs.length / per)).map fun i =>
    BitVec.ofNat 8 (((List.range per).map fun k => nth 0 cs (per * i + k) * w ^ k).foldl (· + ·) 0)

/-- An input row of codes: in A2 the upper 256 bytes are given by no rule. -/
def inputRow (a4 : Bool) (cs : List Nat) (s : State) : List Byte × State :=
  if a4 then (packCodes true cs, s)
  else
    let d := freeBytes 256 s
    (packCodes false cs ++ d.1, d.2)

/-- A chunk as quantised: its elements, the exponents of its 128-row blocks, E_v, FLOOR, and, for the leaven path, the
shift, the leaven codes by row, and whether residuals were dropped or clipped; or the scales of its groups. -/
structure QChunk where
  els : List QEl
  exps : List Nat
  floor : Bool
  h : Nat
  rho : List (Nat × Int)
  dropped : Nat
  hOver : Bool
  resClip : Nat
  sigma : List Nat
  deriving DecidableEq, Repr

/-- Selects the 8 largest residuals, ties to the lower row (R103): rows with their residuals. -/
def pick8 (l : List (Nat × Nat)) : List (Nat × Nat) := topK (l.map fun p => (p.1, fabs p.2)) 8 []

/-- The smallest h from `7 - n` to 7 for which every selected residual fits, or none. DESIGN CHOICE (log entry 67): the FP32
product is taken as 7 × (S_a × 2^(h − E_v)), each product rounded; the spec gives no order (R104). -/
def leavenShift (r : Recipe) (ev : Nat) (rs : List Nat) : Nat → Option Nat
  | 0 => none
  | n + 1 =>
    let h := 7 - n
    if rs.all fun x => fle (fabs x) (fmul (intToF32 7) (scaleAt r ((h : Int) - ev))) then some h
    else leavenShift r ev rs n

/-- The leaven path of a chunk (R103, R104): selected rows with their codes, the shift, dropped rows, no h fits, clipped
residuals. -/
def leavenChunk (r : Recipe) (ev : Nat) (els : List QEl) : List (Nat × Int) × Nat × Nat × Bool × Nat :=
  let outs := (els.zipIdx.filter fun p => p.1.out).map fun p => (p.2, p.1.res)
  let sel := (pick8 outs).map fun p => (p.1, (nth { x := 0, clamped := 0, out := false, code := 0, clip := false, nonFin := false, res := 0 } els p.1).res)
  let hv := leavenShift r ev (sel.map fun p => p.2) 8
  let h : Nat := match hv with | some h => h | none => 7
  let step := scaleAt r ((h : Int) - ev)
  let cs := sel.map fun p => (p.1, codeOf 7 step p.2)
  (cs.map fun p => (p.1, p.2.1), h, outs.length - sel.length, hv.isNone,
    (cs.filter fun p => p.2.2).length)

/-- Elements of a vector in FP32, padded with zero elements to whole chunks. -/
def padded (xs : List Nat) : List Nat := xs ++ List.replicate (chunks xs.length * 1024 - xs.length) 0

/-- Lists of `n` consecutive elements. -/
def groupsOf (n k : Nat) (l : List α) : List (List α) := (List.range k).map fun i => (l.drop (n * i)).take n

/-- Quantises a vector in normal mode (R94): its RMS, E_v, the number of blocks coarsened and the chunks. -/
def quantNormal (r : Recipe) (xs : List Nat) : Nat × Nat × Nat × List QChunk :=
  let rms := if r.lt = 0 then 0 else rmsOf xs
  let lim := fmul (e4ToF32 r.lt) rms
  let cl := fun x =>
    if r.lt = 0 || isNan x || fabs x = 0x7F800000 || fle (fabs x) lim then (x, false)
    else (if x / 2 ^ 31 = 1 then fneg lim else lim, true)
  let all := (padded xs).map fun x => (x, cl x)
  let size := 128 * 2 ^ r.blk
  let blocks := groupsOf size (all.length / size) all
  let mags := blocks.map fun b => b.foldl (fun m p => if fltb m (magOf p.2.1) then magOf p.2.1 else m) 0
  let raw := mags.map fun m => if m = 0 then none else some (blockExp r m 31)
  let ev := match raw.filterMap id with | [] => 0 | a :: l => l.foldl min a
  let fin := raw.map fun e => match e with
    | none => ((ev + 3) % 32, false)
    | some e => if ev + 3 < e then (ev + 3, true) else (e, false)
  let mk := fun (ci : Nat) =>
    let els := ((all.drop (1024 * ci)).take 1024).zipIdx.map fun p =>
      let e := (nth (0, false) fin ((1024 * ci + p.2) / size)).1
      let step := scaleAt r (-(e : Int))
      let c := codeOf (codeMax r) step p.1.2.1
      let res := if p.1.2.2 then fsub p.1.1 (fmul step (if c.1 < 0 then fneg (intToF32 (-c.1)) else intToF32 c.1)) else 0
      let nf := isNan p.1.1 || fabs p.1.1 == 0x7F800000
      ({ x := p.1.1, clamped := p.1.2.1, out := p.1.2.2, code := c.1, clip := c.2, nonFin := nf, res := res } : QEl)
    let lv := if r.lt = 0 then ([], 0, 0, false, 0) else leavenChunk r ev els
    ({ els := els, exps := (List.range 8).map fun b => (nth (0, false) fin ((1024 * ci + 128 * b) / size)).1,
       floor := (List.range 8).any fun b => (nth (0, false) fin ((1024 * ci + 128 * b) / size)).2,
       h := lv.2.1, rho := lv.1, dropped := lv.2.2.1, hOver := lv.2.2.2.1, resClip := lv.2.2.2.2, sigma := [] } : QChunk)
  (rms, ev, (fin.filter fun p => p.2).length, (List.range (all.length / 1024)).map mk)

/-- The smallest finite E4M3 value from code `0x7F - n` on with m ≤ M × S_a × σ, or 448 (R106); 448 for an infinite m (R453). DESIGN CHOICE (log entry 67): the
FP32 product is taken as M × (S_a × σ), each product rounded; the spec gives no order. -/
def sigmaOf (r : Recipe) (m : Nat) : Nat → Nat
  | 0 => 0x7E
  | n + 1 =>
    let code := 0x7E - n
    if m ≠ 0x7F800000 && fle m (fmul (intToF32 (codeMax r)) (fmul r.ascale (e4ToF32 code))) then code else sigmaOf r m n

/-- Quantises a vector in fine-scale mode (R106). -/
def quantFine (r : Recipe) (xs : List Nat) : List QChunk :=
  let all := padded xs
  (List.range (all.length / 1024)).map fun ci =>
    let gs := groupsOf 32 32 ((all.drop (1024 * ci)).take 1024)
    let sig := gs.map fun g => sigmaOf r (g.foldl (fun m x => if fltb m (magOf x) then magOf x else m) 0) 127
    let els := (gs.zip sig).flatMap fun p =>
      let step := fmul r.ascale (e4ToF32 p.2)
      p.1.map fun x =>
        let c := codeOf (codeMax r) step x
        let nf := isNan x || fabs x == 0x7F800000
        ({ x := x, clamped := x, out := false, code := c.1, clip := c.2, nonFin := nf, res := 0 } : QEl)
    ({ els := els, exps := List.replicate 8 0, floor := false, h := 0, rho := [], dropped := 0, hOver := false,
       resClip := 0, sigma := sig } : QChunk)

/-- The 64-byte descriptor of a chunk (Table 3.1). -/
def descriptor (r : Recipe) (rms ev : Nat) (q : QChunk) : List Byte :=
  let ovf := q.dropped != 0 || q.hOver
  let clip := (q.els.any fun e => e.clip || e.nonFin) || q.resClip != 0
  let flags := (if r.a4 then 1 else 0) + (if r.fine then 2 else 0) + (if ovf then 4 else 0) + (if clip then 8 else 0) +
    (if q.floor then 16 else 0)
  let n := (q.rho.filter fun p => p.2 != 0).length
  q.exps.flatMap (natLe 1) ++ natLe 1 ev ++ natLe 1 q.h ++ natLe 1 n ++ natLe 1 flags ++ natLe 4 rms ++
    (if r.fine then q.sigma.flatMap (natLe 1) else zeros 32) ++ zeros 16

/-- Codes of a leaven row: the residual codes of the selected rows, zero everywhere else. -/
def leavenCodes (q : QChunk) : List Nat :=
  (List.range 1024).map fun i =>
    match q.rho.find? (fun p => p.1 == i) with
    | some p => if p.2 = 0 then 0 else p.2.natAbs + (if p.2 < 0 then 8 else 0)
    | none => 0

/-- Counters and flags of the quantised chunks (R94, R103, R104, R106, R453). -/
def quantCounts (c ri floors : Nat) (qs : List QChunk) (s : State) : State :=
  let clips := (qs.map fun q => (q.els.filter fun e => e.clip || e.nonFin).length).sum
  let resClips := (qs.map fun q => q.resClip).sum
  let ovf := (qs.filter fun q => q.dropped != 0 || q.hOver).length
  s |> bumpN (F.LEAVEN_QUANT_CNT c) qs.length
    |> bumpN (F.LEAVEN_EXPFLOOR_CNT c) floors
    |> bumpN (F.LEAVEN_QCLIP_CNT c) (clips + resClips)
    |> bumpN (F.LEAVEN_ROWS_DROP_CNT c) (qs.map fun q => q.dropped).sum
    |> bumpN (F.LEAVEN_OUTLIER_OVF_CNT c) ovf
    |> bumpN (F.LEAVEN_OUTLIER_CNT c) (qs.map fun q => (q.rho.filter fun p => p.2 != 0).length).sum
    |> when (decide (0 < clips)) (layerFlag c ri 0)
    |> when (decide (0 < ovf)) (layerFlag c ri 1)

/-- The largest σ quantised for a recipe index is kept (R108). -/
def keepSigma (c ri : Nat) (qs : List QChunk) (s : State) : State :=
  let m := (qs.flatMap fun q => q.sigma).foldl max (get s (F.LEAVEN_FMAX_SMAX c ri))
  set (F.LEAVEN_FMAX_SMAX c ri) m s

/-- Writes the input rows. -/
def writeInputs (c row : Nat) (a4 poison : Bool) (qs : List QChunk) (s : State) : State :=
  each qs.zipIdx (fun p s =>
    let b := inputRow a4 (p.1.els.map fun e => storeCode a4 e.x e.code) s
    writeRow c (row + p.2) b.1 poison b.2) s

/-- Writes the descriptor rows, eight descriptors to a row; bytes of a row that hold no descriptor are given by no rule. -/
def writeDescs (c row : Nat) (poison : Bool) (ds : List (List Byte)) (s : State) : State :=
  upTo ((ds.length + 7) / 8) (fun i s =>
    let b := ((ds.drop (8 * i)).take 8).flatten
    let d := freeBytes (512 - b.length) s
    writeRow c (row + i) (b ++ d.1) poison d.2) s

/-- QUANT (R185). -/
def quant (c w : Nat) (s : State) : State :=
  let k := bits w 47 16
  let ri := bits w 63 8
  let r := recipe s c ri
  let a := readRows c 4 (rowRange (bits w 32 15) (rowsOf k)) s
  let p := anyPoison a.1
  let xs := ((a.1.flatMap fun x => rowBf x.1).take k).map bfToF32
  let q : Nat × Nat × Nat × List QChunk := if r.fine then (0, 0, 0, quantFine r xs) else quantNormal r xs
  let qs := q.2.2.2
  a.2 |> quantCounts c ri q.2.2.1 qs
      |> when r.fine (keepSigma c ri qs)
      |> writeInputs c (bits w 71 15) r.a4 p qs
      |> writeDescs c (bits w 86 15) p (qs.map (descriptor r q.1 q.2.1))
      |> when (usesLeaven r) (each qs.zipIdx (fun x s => writeRow c (bits w 101 15 + x.2) (packCodes true (leavenCodes x.1)) p s))
      |> signal c (sigOf w)

/-- QUANT. -/
def execQuant (i : Issue) (s : State) : Host.Outcome State Fault Refusal :=
  .next (issue i 3 0xA (some .vec) always (quant i.core) s)

/-- FMAX_CLEAR: writing CLR of LEAVEN_FMAX(n) (R108). -/
def execFmaxClear (c : CoreIx) (n : BitVec 8) (s : State) : Host.Outcome State Fault Refusal :=
  .next (if coreUp s c then set (F.LEAVEN_FMAX_SMAX c n.toNat) 0 s else bump F.GLB_DENIED_CNT s)

end Sys2Proof.Machine
end

