-- ==== Sys2Proof/Machine/Acc.lean ====
section
/-! DEFINITION. The accumulator sets: accumulate, PROMOTE, EMIT and CLEAR (R98 to R102, R107, R183). -/
namespace Sys2Proof.Machine

/-- An accumulator set of a core. -/
def accSet (s : State) (c n : Nat) : AccSet := SMap.get AccSet.empty (core s c).accs n

/-- Writes an accumulator set. -/
def putSet (c n : Nat) (a : AccSet) (s : State) : State :=
  updCore c (fun k => { k with accs := SMap.put AccSet.empty k.accs n a }) s

/-- Largest magnitude of a wide accumulator (R100). -/
def wideMax : Int := 2 ^ 31 - 1

/-- Clips to the wide range. -/
def satWide (v : Int) : Int := if wideMax < v then wideMax else if v < -wideMax then -wideMax else v

/-- Sums of two lists of integers. -/
def addLists (a b : List Int) : List Int := (a.zip b).map fun p => p.1 + p.2

/-- Promotes a set (R100): narrow into wide, saturating; nothing for a fine-scale set (R107). The flag says that a wide
accumulator saturated. -/
def promoteSet (a : AccSet) : AccSet × Bool :=
  if a.mode = some true then (a, false)
  else
    let raw := addLists a.wide a.narrow
    let sat := raw.any fun v => satWide v != v
    ({ a with wide := raw.map satWide, narrow := List.replicate 256 0, count := 0, sat := a.sat || sat }, sat)

/-- Promotes set `n` of a core; a saturation raises the SAT layer flag of the set's recipe index (R100). -/
def promote (c n : Nat) (s : State) : State :=
  let p := promoteSet (accSet s c n)
  let s1 := putSet c n p.1 s
  match p.2, p.1.lastRi with
  | true, some ri => layerFlag c ri 0 s1
  | _, _ => s1

/-- What a firing brings to its set: fine-scale, leaven, recipe index, scale shift (RANGE, or the leaven shift), shift-added
codes per column (one list, or one per group), σ of each group, and its flags. A refused firing brings no codes. -/
structure Contrib where
  fine : Bool
  leaven : Bool
  ri : Nat
  shift : Nat
  range : Nat
  p : List (List Int)
  sigma : List Nat
  sat : Bool
  poison : Bool
  deriving DecidableEq, Repr

/-- Adds a fine-scale firing to the FP32 values of a set (R107). -/
def addFine (range : Nat) (f : List Int) (gs : List (Nat × List Int)) : List Int :=
  gs.foldl (fun f g =>
    let k := fmul (e4ToF32 g.1) (pow2F32 (range + 1))
    (f.zip g.2).map fun x => ((fadd x.1.toNat (fmul k (intToF32 x.2)) : Nat) : Int)) f

/-- Accumulates a firing into a set (R98, R99, R101): a main firing that finds 16 promotes first. An accumulate of the wrong
MODE sets POISON and leaves values that no rule gives, the same for the same codes and flags (R81). DESIGN CHOICE (log entry 67): the narrow accumulator is an
integer without bound; of a value that passes 20 bits, by more leaven firings or larger codes than R99 allows for, the spec gives no result. -/
def accumulate (c n : Nat) (x : Contrib) (s : State) : State :=
  let full := !x.leaven && decide (16 ≤ (accSet s c n).count)
  let s1 := if full then bump (F.LEAVEN_AUTOPROM_CNT c) (promote c n s) else s
  let a := accSet s1 c n
  let wrong := a.mode != none && a.mode != some x.fine
  let mixed := fun (wide : Bool) (l : List Int) => l.zipIdx.map fun v => Config.wrongMode wide v.1 (x.p.map fun g => nth 0 g v.2)
  let narrow := if wrong then mixed false a.narrow
    else if x.fine || x.p.isEmpty then a.narrow
    else addLists a.narrow ((x.p.headD []).map fun v => v * 2 ^ (x.range + x.shift))
  let wide := if wrong then mixed true a.wide
    else if x.fine && !x.p.isEmpty then addFine x.range a.wide (x.sigma.zip x.p) else a.wide
  let mode := if a.mode = none then some x.fine else a.mode
  let count := if x.leaven then a.count else a.count + 1
  let last := if x.leaven then a.lastRi else some x.ri
  putSet c n { narrow := narrow, wide := wide, count := count, sat := a.sat || x.sat, poison := a.poison || x.poison || wrong, mode := mode, lastRi := last } s1

/-! ### ACC instructions -/

/-- First set of an ACC. -/
def accFirst (w : Nat) : Nat := bits w 32 6
/-- Number of sets. -/
def accN (w : Nat) : Nat := bits w 38 6 + 1
/-- The i-th set. -/
def accIx (w i : Nat) : Nat := (accFirst w + i) % 64

/-- An ACC instruction names a set. -/
def accNames (w set : Nat) : Bool := (List.range (accN w)).any fun i => accIx w i == set

/-- A firing still owes its set something. -/
def owes (x : Firing) : Bool := x.par.accEn && !x.dead && (x.stage == .queued || x.stage == .loaded || x.stage == .running || x.out.isSome)

/-- Values of a set as emitted (R102, R107): E_v, the scales of a recipe and the bias row in FP32. -/
def emitVals (a : AccSet) (r : Recipe) (ev : Nat) (bias : List Nat) : List Nat :=
  let ss := fmul r.ascale r.wscale
  if a.mode = some true then
    (List.range 256).map fun j => f32ToBf (fadd (fmul (nth 0 a.wide j).toNat ss) (nth 0 bias j))
  else
    let k := fmul ss (pow2F32 (1 - (ev : Int)))
    (List.range 256).map fun j => f32ToBf (fadd (fmul (intToF32 (nth 0 a.wide j)) k) (nth 0 bias j))

/-- Emits one set to row `out` (R102). The descriptor is read in normal mode; a POISONED descriptor or bias row poisons the
row (R194). -/
def emitOne (c w i : Nat) (s : State) : State :=
  let n := accIx w i
  let s0 := if (accSet s c n).narrow.any (fun v => v != 0) then promote c n s else s
  let a := accSet s0 c n
  let d := if a.mode = some true then ((([] : List Byte), false), s0) else readRow c 3 (bits w 83 15) s0
  let ev := leAt d.1.1 (64 * bits w 98 3 + 8) 1 % 32
  let b := if bit w 59 then readRow c 3 (bits w 60 15 + i) d.2 else ((([] : List Byte), false), d.2)
  let bias := if bit w 59 then (rowBf b.1.1).map bfToF32 else []
  let r := recipe s0 c (bits w 75 8)
  putSet c n AccSet.empty (writeRow c (bits w 44 15 + i) (bfRow (emitVals a r ev bias)) (a.poison || d.1.2 || b.1.2) b.2)

/-- What an ACC instruction does to its sets: PROMOTE (1), EMIT (2) or ACC_CLEAR. -/
def accRun (c w : Nat) (s : State) : State :=
  if iOp w = 1 then upTo (accN w) (fun n => promote c (accIx w n)) s
  else if iOp w = 2 then upTo (accN w) (emitOne c w) s
  else upTo (accN w) (fun n => putSet c (accIx w n) AccSet.empty) s

/-- The oldest ACC of the accumulator's queue, with its word, when no earlier FIRE that names one of its sets is still to accumulate
(R177, R178). -/
def accReady (s : State) (c : Nat) : Option (Nat × Nat) :=
  match (core s c).ops.find? fun o => o.unit == .acc with
  | none => none
  | some o =>
    match o.kind with
    | .acc w => if (core s c).firings.any fun f => owes f && decide (f.par.op < o.id) && accNames w f.par.accSet then none else some (o.id, w)
    | _ => none

/-- The accumulator executes its queue in order, at most `n` instructions. -/
def accDrain (c : Nat) : Nat → State → State
  | 0, s => s
  | n + 1, s =>
    match accReady s c with
    | some a => accDrain c n (opDone c a.1 (accRun c a.2 s))
    | none => s

/-- An ACC instruction enters the accumulator's queue, which executes what it can. -/
def accIssue (c w : Nat) (s : State) : State :=
  let a := addOp c .acc (.acc w) (sigOf w) 1 s
  accDrain c (unitLoad a.2 c .acc) a.2

/-- PROMOTE. -/
def execPromote (i : Issue) (s : State) : Host.Outcome State Fault Refusal :=
  .next (issue i 2 1 (some .acc) always (accIssue i.core) s)

/-- EMIT. -/
def execEmit (i : Issue) (s : State) : Host.Outcome State Fault Refusal :=
  .next (issue i 2 2 (some .acc) always (accIssue i.core) s)

/-- ACC_CLEAR. -/
def execAccClear (i : Issue) (s : State) : Host.Outcome State Fault Refusal :=
  .next (issue i 2 3 (some .acc) always (accIssue i.core) s)

end Sys2Proof.Machine
end

