-- ==== Sys2Proof/Machine/Array.lean ====
section
/-! DEFINITION. The arrays: FIRE, input load, firing start, handoff and release, array commands and trims (R48 to R93, R97, R452). -/
namespace Sys2Proof.Machine

/-! ### Slots and cells -/

/-- Arrays of a core whose active SLOT is `slot`, below 0xA00 (R85). The reset value of SLOT is 0xFFF, so they are among the
listed active values. -/
def holders (s : State) (c slot : Nat) : List Nat :=
  let base := (F.ARR_CTL_SLOT c 0).key
  (s.act.filter fun p => decide (base ≤ p.1) && decide (p.1 < base + 2624 * 512) && decide ((p.1 - base) % 512 = 0) &&
    p.2 == slot).map fun p => (p.1 - base) / 512

/-- State of an array (Table 2.11); bad arrays read FUSED. -/
def arrState (s : State) (c n : Nat) : Nat := get s (F.ARR_STAT_STATE c n)

/-- Puts an array into a state. -/
def setArr (c n st : Nat) (s : State) : State := set (F.ARR_STAT_STATE c n) st s

/-- Signed value of a stored byte. -/
def byteInt (b : Byte) : Int := b.toInt

/-- Weight of row `r`, column `j`, in level steps (R49); an array left undefined by an abandoned steep gives free values. -/
def cell (s : State) (c n r j : Nat) : Int :=
  let a := c * 2624 + n
  if NSet.has s.mem.undef a then Config.undefCell (a * 2 ^ 18 + r * 256 + j)
  else byteInt (rdByte s.mem.wts (a * 2 ^ 18 + r * 256 + j))

/-- Activation element `i` of an input row: negative, magnitude (R51). -/
def element (a4 : Bool) (row : List Byte) (i : Nat) : Bool × Nat :=
  if a4 then
    let v := (row.getD (i / 2) 0).toNat / 16 ^ (i % 2) % 16
    (decide (8 ≤ v), v % 8)
  else
    let v := (row.getD (i / 4) 0).toNat / 4 ^ (i % 4) % 4
    (decide (2 ≤ v), v % 2)

/-- The driven rows of an input: row, negative, magnitude; elements of magnitude 0 are zero (R52, R56). -/
def driven (a4 : Bool) (row : List Byte) : List (Nat × Bool × Nat) :=
  ((List.range 1024).map fun i => (i, element a4 row i)).filter fun p => p.2.2 != 0

/-- Planes of a format. -/
def planes (a4 : Bool) : Nat := if a4 then 3 else 1

/-- The firing is coded A4: a leaven firing always is (R103). -/
def firesA4 (f : Firing) (r : Recipe) : Bool := f.par.leaven || r.a4

/-- RANGE of a firing: 0 for a leaven firing. -/
def firesRange (f : Firing) (r : Recipe) : Nat := if f.par.leaven then 0 else r.range

/-- The firing runs in fine-scale mode. -/
def firesFine (f : Firing) (r : Recipe) : Bool := r.fine && !f.par.leaven

/-- Block shifts of a firing (R54, R95): E[b] - E_v modulo 32; 0 for leaven and fine-scale firings. -/
def blockShifts (f : Firing) (r : Recipe) : List Nat :=
  if f.par.leaven || r.fine then List.replicate 8 0
  else (List.range 8).map fun b => (leAt f.desc b 1 % 32 + 32 - leAt f.desc 8 1 % 32) % 32

/-- The checks of R97: descriptor format against the recipe, block shifts, and at most 8 non-zero elements in a leaven row. -/
def refused97 (f : Firing) (r : Recipe) : Bool :=
  let flags := leAt f.desc 11 1
  (bit flags 0 != r.a4) || (bit flags 1 != r.fine) ||
    (!f.par.leaven && !r.fine && (blockShifts f r).any fun b => decide (3 < b)) ||
    (f.par.leaven && decide (8 < (driven true f.row).length))

/-! ### FIRE -/

/-- The firings of a FIRE (R182), queued in fire dispatch. -/
def fireFirings (w pc op : Nat) : List Firing :=
  (List.range (bits w 44 6 + 1)).map fun i =>
    { par := { slot := bits w 32 12 + i, leaven := bit w 50, accEn := bit w 51, accSet := (bits w 52 6 + i) % 64,
               ri := bits w 58 8, inRow := bits w 66 15, descRow := bits w 81 15, descIdx := bits w 96 3, op := op,
               pc := pc, idx := i },
      stage := .queued, arr := none, row := [], desc := [], poison := false, rcp := none, refused := false, zero := false,
      w2 := false, trims := [], out := none, dead := false, t0 := 0, slow := false }

/-- FIRE: its firings are queued. The program counter has advanced past it. -/
def fire (c w : Nat) (s : State) : State :=
  let fs := fireFirings w (pcOf s c - 1) (core s c).nextOp
  let a := addOp c .fire .fire (sigOf w) fs.length s
  updCore c (fun k => { k with firings := k.firings ++ fs }) a.2

/-- FIRE. -/
def execFire (i : Issue) (s : State) : Host.Outcome State Fault Refusal :=
  .next (issue i 1 0 (some .fire) always (fire i.core) s)

/-- Changes the first firing that satisfies a test. -/
def updFirst (p : Firing → Bool) (g : Firing → Firing) : List Firing → List Firing
  | [] => []
  | f :: l => if p f then g f :: l else f :: updFirst p g l

/-- Reads the rows of a FIRE once, for all its firings (R182). -/
def loadRows (c : Nat) (f : Firing) (s : State) : State :=
  let a := readRow c 2 f.par.inRow s
  let d := readRow c 2 f.par.descRow a.2
  let p := a.1.2 || d.1.2
  let desc := (d.1.1.drop (64 * f.par.descIdx)).take 64
  let g := fun (x : Firing) => if x.par.op == f.par.op then { x with row := a.1.1, desc := desc, poison := p } else x
  updCore c (fun k => { k with firings := k.firings.map g }) d.2

/-- A FIRE waits for an earlier ACC instruction of a set that it names (R178). -/
def accWaits (s : State) (c : Nat) (f : Firing) : Bool :=
  f.par.accEn && (core s c).ops.any fun o => decide (o.id < f.par.op) &&
    match o.kind with | .acc w => accNames w f.par.accSet | _ => false

/-- INPUT_LOAD: the oldest queued firing, if it fires `slot`, is loaded into its array's input buffer; while both entries
are occupied, or an earlier ACC of its set is to be done, it waits (R55, R178). -/
def execInputLoad (c : CoreIx) (slot : BitVec 12) (s : State) : Host.Outcome State Fault Refusal :=
  let isQ := fun (f : Firing) => f.stage == .queued
  match (core s c).firings.find? isQ with
  | none => .next s
  | some f =>
    if f.par.slot ≠ slot.toNat then .next s
    else
      let arr := match holders s c f.par.slot with | [n] => some n | _ => none
      let busy := ((core s c).firings.filter fun x => arr.isSome && x.arr == arr && x.stage != .queued && x.stage != .released).length
      if 2 ≤ busy || accWaits s c f then .next s
      else
        let s1 := if f.row.isEmpty then loadRows c f s else s
        .next (updCore c (fun k => { k with firings := updFirst isQ (fun x => { x with stage := .loaded, arr := arr }) k.firings }) s1)

/-- Offset trim of converter `k` of an array: 0 to 31 the column converters, 32 to 35 CHK_E, CHK_O, REF_P, REF_Z. The trims lie
behind TRIM_GROUP; they are kept beyond BAR0. -/
def trimOfs (c n k : Nat) : Fld := ⟨2 ^ 32 + (c * 2624 + n) * 1024 + 8 * k, 6, 0⟩
/-- Gain trim of converter `k`. -/
def trimGain (c n k : Nat) : Fld := ⟨2 ^ 32 + (c * 2624 + n) * 1024 + 512 + 8 * k, 5, 0⟩

/-- log2 of `n` in units of 2^-32: the integer part, then 32 squarings. -/
def log2Fix (n : Nat) : Nat :=
  let k := Nat.log2 n
  let step := fun (a : Nat × Nat) (_ : Nat) =>
    let x := a.1 * a.1 / 2 ^ 40
    if 2 ^ 41 ≤ x then (x / 2, 2 * a.2 + 1) else (x, 2 * a.2)
  k * 2 ^ 32 + ((List.range 32).foldl step (n * 2 ^ 40 / 2 ^ k, 0)).2

/-- Relaxation R(t) `t` seconds after a steep, in 10^-9 (R83). The logarithm is rounded (log entry 21). -/
def relaxation (t : Nat) : Nat :=
  if t ≤ 86400 then 10 ^ 7 * (log2Fix (60 + t) - log2Fix 60) / log2Fix 1441
  else 10 ^ 7 + 3 * 10 ^ 6 * (log2Fix t - log2Fix 86400) / log2Fix 10

/-- Gain of the columns of an array, in 10^-9: 0.08 % less per °C above the temperature of its last calibration (R82), and less by the
relaxation since its last steep (R83). Temperatures are in 1/8 °C. DESIGN CHOICE (log entry 67): an array that was never calibrated, and a core
that was never sampled, have no temperature to count from, and take no temperature drift; the spec does not say. -/
def columnGain (s : State) (c n : Nat) : Int :=
  let cal := SMap.get 0 s.phys.calTemp (c * 2624 + n)
  let is := SMap.get 0 s.phys.temp c
  let temp := fun (v : Nat) => (BitVec.ofNat 16 (v - 1)).toInt
  let dt := if cal = 0 || is = 0 then 0 else temp is - temp cal
  let at_ := SMap.get 0 s.phys.steepAt (c * 2624 + n)
  let r := if at_ = 0 then 0 else relaxation ((age s + 1 - at_) / 10 ^ 9)
  (10 ^ 9 - 100000 * dt) * (10 ^ 9 - r) / 10 ^ 9

/-- What its trims make of converter `k` (Table 4.1): its gain in 1/640,000, and its offset in 1/8 LSB. REF_I acts on the 32 column
converters. -/
def trimsOf (s : State) (c n k : Nat) : Int × Int :=
  let ref := if k < 32 then actvi s (F.ARR_TRIM_REF_REF_I c n) else 0
  ((400 + actvi s (trimGain c n k)) * (1600 + ref), actvi s (trimOfs c n k))

/-- What a firing takes at its start for each of the 36 converters: the trimmed gain of its column in 10^-9 / 640,000, and the offset
(R66). -/
def trimsNow (s : State) (c n : Nat) : List (Int × Int) :=
  let g := columnGain s c n
  (List.range 36).map fun k => ((trimsOf s c n k).1 * g, (trimsOf s c n k).2)

/-- The drawn firing will not be proofed: the draw is skipped (R111). -/
def skipIfDrawn (c : Nat) (f : Firing) (s : State) : State :=
  if (core s c).drawn = some (f.par.pc, f.par.idx) then skipDraw c s else s

/-- Detail of a fire event: slot in [203:192], recipe index in [215:208] of the record. -/
def fireDetail (f : Firing) : Nat := f.par.slot + f.par.ri * 2 ^ 16

/-- A firing starts (R66, R86, R97, R452): recipe, mapping, state and trims are taken, refusals are judged, the input is latched. DESIGN CHOICE (log entry 64): a fire refused under R86 gives its input-buffer entry back here and not at the end of its
firing time, since it runs on no array; R55 and R86 do not say. -/
def startFiring (c : Nat) (f : Firing) (s : State) : Firing × State :=
  let r := recipe s c f.par.ri
  let hs := holders s c f.par.slot
  let ok := match hs with | [n] => arrState s c n == 4 | _ => false
  let n := match hs with | [n] => n | _ => 0
  let w2 := ok && actB s (F.ARR_CTL_FMT c n)
  let f1 := { f with stage := .running, arr := (if ok then some n else none), rcp := some r, w2 := w2, trims := if ok then trimsNow s c n else [],
                     t0 := now s, slow := slowHalf s c }
  if !ok then
    let s1 := each hs (fun n s => hwSet (F.ARR_STAT_FIRE_REFUSED c n) 0 s) s
    let e : Ev := { src := 0x31, dom := c, access := 2, node := c, unit := 2, addr := (hs.headD 0xFFF), detail := fireDetail f }
    ({ f1 with refused := true }, raise e (skipIfDrawn c f s1))
  else if refused97 f r then
    let e : Ev := { src := 0x32, dom := c, access := 2, node := c, unit := 2, addr := n, detail := fireDetail f }
    ({ f1 with refused := true }, raise e (skipIfDrawn c f (bump (F.LEAVEN_FMT_MIS_CNT c) s)))
  else
    let zero := (driven (firesA4 f r) f.row).isEmpty
    ({ f1 with zero := zero }, if zero then skipIfDrawn c f s else s)

/-- The firing is in its array and has passed the end of its input-latch phase uncounted: 40 ns after its start (R452). -/
def latchEnds (s : State) (x : Firing) : Bool :=
  x.stage == .running && !x.latched && decide (x.t0 + (if x.slow then 80 else 40) ≤ now s)

/-- A firing is counted when its input is latched; one refused counts nothing (R58, R86, R452). -/
def countFiring (c : Nat) (x : Firing) (s : State) : State :=
  match x.arr with
  | some n => if x.refused then s else when x.zero (bump (F.ARR_ZERO_CNT c n)) (bump (F.ARR_FIRE_CNT c n) s)
  | none => s

/-- The firings of a core whose input-latch phase has ended by now are counted. -/
def latchDue (c : Nat) (s : State) : State :=
  let l := (core s c).firings.filter (latchEnds s)
  if l.isEmpty then s
  else updCore c (fun k => { k with firings := k.firings.map fun x => if latchEnds s x then { x with latched := true } else x }) (each l (countFiring c) s)

/-- A fire of an array interrupts its readback (R151). -/
def interruptReadback (c n : Nat) (s : State) : State :=
  let one := fun (e : StEntry) => if e.arr == n && e.op == 3 && e.status.isNone then { e with intr := true } else e
  updCore c (fun k => { k with running := k.running.map fun b => if b.started then { b with entries := b.entries.map one } else b }) s

/-- FIRING_START: the oldest loaded firing of `slot` starts, once its array runs no other (R67). A fire interrupts an
in-service readback, which goes on later (R151). -/
def execFiringStart (c : CoreIx) (slot : BitVec 12) (s : State) : Host.Outcome State Fault Refusal :=
  let isL := fun (f : Firing) => f.stage == .loaded && f.par.slot == slot.toNat
  match (core s c).firings.find? isL with
  | none => .next s
  | some f =>
    let busy := (core s c).firings.any fun x => x.arr == f.arr && f.arr.isSome && (x.stage == .running || x.stage == .handed)
    if busy then .next s
    else
      let a := startFiring c f s
      let s1 := match a.1.arr with | some n => interruptReadback c n a.2 | none => a.2
      .next (updCore c (fun k => { k with firings := updFirst isL (fun _ => a.1) k.firings }) s1)

/-! ### Conversion -/

/-- What one converted plane delivers: its weight exponent, pass, codes per segment group (one list in normal mode), whether
each parity saturated, checksum codes, Δ inputs, and the reference. -/
structure Conv where
  plane : Nat
  pass : Nat
  /-- Codes of the columns: one list, or one per 128-row segment in fine-scale mode. -/
  codes : List (List Int)
  satE : Bool
  satO : Bool
  csE : Int
  csO : Int
  /-- Non-zero blocks, or groups, of the plane. -/
  blocks : Nat
  refP : Int
  /-- Code of REF_Z: L0 on both cells of every row, so 0 but for trims and noise (R78). -/
  refZ : Int
  /-- Expected REF_P value times 32. -/
  expP32 : Int
  deriving DecidableEq, Repr

/-- Nearest integer to a / b for b > 0, ties to even. -/
def rneDiv (a : Int) (b : Nat) : Int :=
  let q := a.natAbs / b
  let r := a.natAbs % b
  let m := if 2 * r > b || (2 * r = b && q % 2 = 1) then q + 1 else q
  if a < 0 then -(m : Int) else m

/-- Clips to ±m. -/
def clipInt (m v : Int) : Int := if m < v then m else if v < -m then -m else v

/-- One conversion (R61, R72, R123): value and LSB in the same units, the end code, gain and offset of the converter and a draw. The code and
whether it saturated: the value exceeds full scale, or trims and conversion noise carry the code past it. -/
def convert (v : Int) (lsb : Nat) (m : Int) (t : Int × Int) (draw : Nat) : Int × Bool :=
  if m * lsb < v then (m, true)
  else if v < -(m * lsb) then (-m, true)
  else
    let q := rneDiv (8 * t.1 * v + 640000 * 10 ^ 9 * t.2 * lsb) (5120000 * 10 ^ 9 * lsb) + Config.convError draw
    (clipInt m q, decide (m < q) || decide (q < -m))

/-- Contribution of the driven rows to column `j`, in 1/8 level steps: rows with bit `p`, within a row filter. -/
def columnSum (s : State) (c n j p : Nat) (sh : List Nat) (rows : List (Nat × Bool × Nat)) : Int :=
  (rows.map fun r =>
    if bit r.2.2 p then
      let w := cell s c n r.1 j * ((2 ^ (3 - nth 0 sh (r.1 / 128)) : Nat) : Int)
      if r.2.1 then -w else w
    else 0).foldl (· + ·) 0

/-- Injected offset of a column in LSB, when an ARR_COL injection acts on the array (Table 14.6). -/
def injCol (s : State) (c n : Nat) : Option (Nat × Int × Bool) :=
  match s.flt.inj with
  | some j =>
    if j.active && j.kind == 6 && j.dom == c && j.tgt % 2 ^ 12 == n then
      some (bits j.tgt 12 8, (BitVec.ofNat 8 (bits j.tgt 20 8)).toInt, j.hide)
    else none
  | none => none

/-- One converted plane: `segs` gives the row sets whose columns are converted apart (one in normal mode, eight segments in
fine-scale mode). `trims` are those of the firing; `d0` numbers its draws. Values are in 1/8 level steps; `lsb8` is the LSB in the same units. -/
def convPlane (s : State) (c n p pass lsb8 : Nat) (w2 : Bool) (trims : List (Int × Int)) (sh : List Nat) (segs : List (List (Nat × Bool × Nat))) (blocks d0 : Nat) :
    Conv :=
  let inj := injCol s c n
  let off := fun (j : Nat) => match inj with | some x => if x.1 = j then x.2.1 * lsb8 else 0 | none => 0
  let cols := segs.zipIdx.map fun g =>
    (List.range 256).map fun j => (columnSum s c n j p sh g.1, j, d0 + 256 * g.2 + j)
  let trim := nth ((640000 * 10 ^ 9, 0) : Int × Int) trims
  let codes := cols.map fun g => g.map fun x => convert (x.1 + off x.2.1) lsb8 127 (trim (x.2.1 / 8)) x.2.2
  let sat := fun (par : Nat) => codes.any fun g => g.zipIdx.any fun x => x.2 % 2 == par && x.1.2
  let sum := fun (par : Nat) => (cols.map fun g => (g.map fun x => if x.2.1 % 2 = par then x.1 else 0).foldl (· + ·) 0).foldl (· + ·) 0
  let hide := fun (par : Nat) => match inj with | some x => if x.2.2 && x.1 % 2 == par then x.2.1 * lsb8 else 0 | none => 0
  let cs := fun (par : Nat) => (convert (sum par + hide par) (8 * lsb8) 2047 (trim (32 + par)) (d0 + 4096 + par)).1
  let all := segs.flatten
  let cnt8 := (all.map fun r => if bit r.2.2 p then
      (if r.2.1 then -((2 ^ (3 - nth 0 sh (r.1 / 128)) : Nat) : Int) else ((2 ^ (3 - nth 0 sh (r.1 / 128)) : Nat) : Int)) else 0).foldl (· + ·) 0
  -- REF_P in codes of 4 product units: 7 x count / 4, in W2 units of 7 level steps
  let exp32 := if w2 then cnt8 else 7 * cnt8
  { plane := p, pass := pass, codes := codes.map fun g => g.map fun x => x.1, satE := sat 0, satO := sat 1, csE := cs 0, csO := cs 1,
    blocks := blocks, refP := (convert exp32 32 2047 (trim 34) (d0 + 4098)).1,
    refZ := (convert 0 32 2047 (trim 35) (d0 + 4099)).1, expP32 := exp32 }

/-- Draws one converted plane may use. -/
def drawsPerPlane : Nat := 4100

/-- The converted planes of a firing, in order (R53, R57, R70, R71). -/
def convAll (s : State) (c n : Nat) (f : Firing) (r : Recipe) : List Conv :=
  let a4 := firesA4 f r
  let rows := driven a4 f.row
  let sh := blockShifts f r
  let lsb8 := 2 ^ (firesRange f r + 1) * 8 * (if f.w2 then 7 else 1)
  let inPlane := fun (p : Nat) (l : List (Nat × Bool × Nat)) => l.filter fun x => bit x.2.2 p
  let nz := fun (size : Nat) (l : List (Nat × Bool × Nat)) => (uniq (l.map fun x => x.1 / size)).length
  if firesFine f r then
    (List.range 4).flatMap fun q =>
      let pr := rows.filter fun x => x.1 / 32 % 4 == q
      ((List.range (planes a4)).filter fun p => !(inPlane p pr).isEmpty).map fun p =>
        let segs := (List.range 8).map fun b => pr.filter fun x => x.1 / 128 == b
        convPlane s c n p q lsb8 f.w2 f.trims sh segs (nz 32 (inPlane p pr)) (s.free + drawsPerPlane * (4 * q + p))
  else
    ((List.range (planes a4)).filter fun p => !(inPlane p rows).isEmpty).map fun p =>
      convPlane s c n p 0 lsb8 f.w2 f.trims sh [rows] (nz 128 (inPlane p rows)) (s.free + drawsPerPlane * p)

/-- Shift-added codes (R98): one list of 256, or one per 32-row group in fine-scale mode. -/
def shiftAdd (fine : Bool) (cs : List Conv) : List (List Int) :=
  let zero := List.replicate 256 (0 : Int)
  let add := fun (acc : List Int) (p : Nat) (l : List Int) => (acc.zip l).map fun x => x.1 + 2 ^ p * x.2
  if fine then
    (List.range 32).map fun g => (cs.filter fun x => x.pass == g % 4).foldl (fun a x => add a x.plane (nth zero x.codes (g / 4))) zero
  else [cs.foldl (fun a x => add a x.plane (nth zero x.codes 0)) zero]

/-- Δ of a parity (R75). -/
def deltaOf (x : Conv) (par : Nat) : Int :=
  let sum := (x.codes.map fun g => (g.zipIdx.map fun y => if y.2 % 2 = par then y.1 else 0).foldl (· + ·) 0).foldl (· + ·) 0
  sum - 8 * (if par = 0 then x.csE else x.csO)

/-- The compare of a parity is skipped (R76). -/
def skipOf (x : Conv) (par : Nat) : Bool :=
  if par = 0 then x.satE || x.csE.natAbs == 2047 else x.satO || x.csO.natAbs == 2047

/-- Band of a compare (R75). -/
def bandOf (s : State) (c : Nat) (x : Conv) : Nat :=
  actv s (F.CAL_CHK_BAND_BASE c) + actv s (F.CAL_CHK_BAND_PER_BLK c) * x.blocks

/-- A compare misses (R77). -/
def missOf (s : State) (c : Nat) (x : Conv) (par : Nat) : Bool :=
  !skipOf x par && decide (bandOf s c x < (deltaOf x par).natAbs)

/-- The last Δ evaluated for a parity. -/
def lastDelta (cs : List Conv) (par : Nat) : Option Int :=
  ((cs.filter fun x => !skipOf x par).map fun x => deltaOf x par).getLast?

/-- The reference sample of a converted plane (R130). -/
def refSample (c n : Nat) (x : Conv) (s : State) : State :=
  if x.expP32.natAbs < 64 * 32 || x.refP.natAbs = 2047 then bump (F.CAL_STAT_EXCL_CNT c) s
  else
    let k := SMap.get CalSums.zero (core s c).sums n
    let k1 := { k with nRef := k.nRef + 1, sumRef := k.sumRef + x.refP, sumExp := k.sumExp + x.expP32 }
    updCore c (fun q => { q with sums := SMap.put CalSums.zero q.sums n k1 }) s

/-- What the array records at the handoff (R72, R75 to R77, R452), and the reference samples. DESIGN CHOICE (log entry 67): of a Δ outside
16 bits, which a fine-scale pass can give, ARR_CHK_LAST keeps the low 16 bits; the spec does not say. -/
def handArray (c n : Nat) (f : Firing) (r : Recipe) (s : State) : FireOut × State :=
  let cs := convAll s c n f r
  let sat := cs.any fun x => x.satE || x.satO
  let miss := cs.any fun x => missOf s c x 0 || missOf s c x 1
  let skip := cs.any fun x => skipOf x 0 || skipOf x 1
  let s0 := { s with free := s.free + 16 * drawsPerPlane }
  let s1 := when ((injCol s c n).isSome) injApply s0
  let s2 := s1 |> when sat (fun s => s |> bump (F.ARR_SAT_CNT c n) |> hwSet (F.ARR_STAT_SAT c n) 0 |> layerFlag c f.par.ri 0)
    |> when skip (hwSet (F.ARR_STAT_CHK_SKIP c n) 0)
  let s3 := match lastDelta cs 0 with | some d => set (F.ARR_CHK_LAST_DELTA_EVEN c n) (twos 16 d) s2 | none => s2
  let s4 := match lastDelta cs 1 with | some d => set (F.ARR_CHK_LAST_DELTA_ODD c n) (twos 16 d) s3 | none => s3
  let s5 := if f.par.leaven || firesFine f r then s4 else each cs (refSample c n) s4
  let e : Ev := { src := 0x30, dom := c, access := 2, node := c, unit := 2, addr := n, detail := fireDetail f }
  let s6 := if miss then
      s5 |> bump (F.ARR_CHK_MISS_CNT c n) |> hwSet (F.ARR_STAT_CHK_MISS c n) 0 |> setB (F.ARR_STAT_SUSPECT c n) true
         |> layerFlag c f.par.ri 3 |> raise e
    else s5
  let zero := List.replicate 256 (0 : Int)
  let pc := (List.range (planes (firesA4 f r))).map fun p =>
    match cs.find? (fun x => x.plane == p) with | some x => nth zero x.codes 0 | none => zero
  ({ p := shiftAdd (firesFine f r) cs, planeCodes := pc, sat := sat, miss := miss }, s6)

/-- Offset of the handoff and of the end of a firing from its start (R64, R70, R105). -/
def handOffset (f : Firing) (r : Recipe) : Nat :=
  let p := 400 * planes (firesA4 f r)
  (if f.par.leaven then 680 else if r.fine then 3 * (p + 400) + p + 200 else p + 200) * (if f.slow then 2 else 1)

/-- Offset of the end of the release phase. -/
def endOffset (f : Firing) (r : Recipe) : Nat :=
  let p := 400 * planes (firesA4 f r)
  (if f.par.leaven then 800 else if r.fine then 4 * (p + 400) else p + 400) * (if f.slow then 2 else 1)

/-- An instant of the core's tick has room before the boundary that ends the tick: what comes later waits for it. -/
def before (s : State) (c t : Nat) : Bool := !coreRuns s c || decide (t < tickEnd s c)

/-- Captures the drawn firing for the proof unit (R112): skipped when both entries are occupied. -/
def capture (c n : Nat) (f : Firing) (r : Recipe) (o : FireOut) (s : State) : State :=
  let k := core s c
  if k.drawn != some (f.par.pc, f.par.idx) then s
  else
    let base := get s (F.PROOF_GOLD_BASE_BASE c) * 0x20000 + f.par.slot * 0x20000
    let fine := firesFine f r
    let ok := (List.range 256).all fun i => regionOk s c (base / 512 + i) false
    let e : ProofEntry := { slot := f.par.slot, arr := n, ri := f.par.ri, fine := fine, leaven := f.par.leaven,
                            range := firesRange f r, a4 := firesA4 f r, w2 := f.w2, row := f.row, shifts := blockShifts f r,
                            codes := (if fine then o.p else o.planeCodes), flagged := o.sat || o.miss, time := now s, gold := [], regionOk := ok }
    let s1 := updCore c (fun k => { k with drawn := none }) s
    match k.computing, k.waiting with
    | none, none => updCore c (fun k => { k with computing := some e }) s1
    | some _, none => updCore c (fun k => { k with waiting := some e }) s1
    | none, some _ => updCore c (fun k => { k with computing := k.waiting, waiting := some e }) s1
    | some _, some _ => bump (F.PROOF_SKIP_BUSY_CNT c) s1

/-- A firing's codes go to its set (R98 to R101). -/
def deliver (c : Nat) (f : Firing) (r : Recipe) (o : FireOut) (s : State) : State :=
  if !f.par.accEn then s
  else
    let h := leAt f.desc 9 1 % 8
    accumulate c f.par.accSet
      { fine := firesFine f r, leaven := f.par.leaven, ri := f.par.ri, shift := (if f.par.leaven then h else 0),
        range := firesRange f r, p := o.p, sigma := (f.desc.drop 16).take 32 |>.map (·.toNat), sat := o.sat,
        poison := f.poison || f.refused || o.miss } s

/-- Codes that are all zero. -/
def zeroOut : FireOut := { p := [], planeCodes := [], sat := false, miss := false }

/-- The first firing of the program whose codes wait and for whose set no earlier firing still owes anything, with its codes. -/
def nextDelivery : List Firing → List Nat → Option (Firing × FireOut)
  | [], _ => none
  | x :: l, held =>
    match x.out with
    | some o =>
      if x.par.accEn && held.contains x.par.accSet then nextDelivery l held
      else some (x, o)
    | none => nextDelivery l (if owes x then x.par.accSet :: held else held)

/-- Hands waiting codes to their sets in program order (R101), at most `n` firings. A released firing is then done with. -/
def deliverWaiting (c : Nat) : Nat → State → State
  | 0, s => s
  | n + 1, s =>
    match nextDelivery (core s c).firings [] with
    | none => s
    | some (f, o) =>
      let isF := fun (x : Firing) => x == f
      let done := fun (l : List Firing) => if f.stage == .released then l.eraseP isF else updFirst isF (fun x => { x with out := none }) l
      let s1 := updCore c (fun k => { k with firings := done k.firings }) s
      match f.rcp with
      | some r => deliverWaiting c n (opDone c f.par.op (deliver c f r o s1))
      | none => deliverWaiting c n s1

/-- FIRING_HANDOFF: the running firing of `slot` ends its conversions: the array takes its changes, and its codes go to their set in
program order (R64, R101, R452). It waits for the boundary when that comes first. -/
def execFiringHandoff (c : CoreIx) (slot : BitVec 12) (s : State) : Host.Outcome State Fault Refusal :=
  let isR := fun (f : Firing) => f.stage == .running && f.par.slot == slot.toNat
  match (core s c).firings.find? isR with
  | none => .next s
  | some f =>
    match f.rcp with
    | none => .next s
    | some r =>
      let t := f.t0 + handOffset f r
      if !before s c t then .next s
      else
        let s0 := latchDue c (moveTo t s)
        let a := match f.arr with
          | some n => if f.refused || f.zero then (zeroOut, s0) else handArray c n f r s0
          | none => (zeroOut, s0)
        let out := if f.dead then none else some a.1
        let s1 := updCore c (fun k => { k with firings := updFirst isR (fun x => { x with stage := .handed, out := out }) k.firings }) a.2
        if f.dead then .next s1
        else
          let s2 := match f.arr with
            | some n => if f.refused || f.zero then s1 else capture c n f r a.1 s1
            | none => s1
          let s3 := deliverWaiting c (core s2 c).firings.length s2
          .next (accDrain c (unitLoad s3 c .acc) s3)

/-- FIRING_RELEASE: the firing of `slot` ends; its input-buffer entry is freed (R55, R64). -/
def execFiringRelease (c : CoreIx) (slot : BitVec 12) (s : State) : Host.Outcome State Fault Refusal :=
  let isH := fun (f : Firing) => f.stage == .handed && f.par.slot == slot.toNat
  match (core s c).firings.find? isH with
  | none => .next s
  | some f =>
    match f.rcp with
    | none => .next s
    | some r =>
      let t := f.t0 + endOffset f r
      let drop := fun (l : List Firing) =>
        if f.out.isSome then updFirst isH (fun x => { x with stage := .released, arr := none }) l else l.eraseP isH
      if !before s c t then .next s
      else .next (updCore c (fun k => { k with firings := drop k.firings }) (moveTo t s))

/-! ### Array commands (Table 2.14) -/

/-- ARR_CTL.CMD judged against the array's state. -/
def arrCmd (c n cmd : Nat) (s : State) : State :=
  let st := arrState s c n
  if cmd = 1 then when (st == 3) (setArr c n 4) s
  else if cmd = 2 then when (st != 0) (setArr c n 5) s
  else if cmd = 3 then when (st == 3) (setArr c n 1) s
  else if cmd = 4 then setB (F.ARR_STAT_SUSPECT c n) false s
  else s

/-- The instant of the latest base boundary that has come and is still to run. -/
def dueBoundary (s : State) : Option Nat :=
  if flag s F.TB_CTL_TICK_EN && decide (boundaryAt s s.time.next ≤ now s) then
    some (boundaryAt s ((now s - get s F.TB_EPOCH_EPOCH) / max 1 (basePeriod s)))
  else none

/-- The shadow writes left after one more write of `f`: an earlier write of it that a boundary at or before now still has to take keeps its
value for that boundary; any other is overtaken (R15). -/
def overtaken (s : State) (f : Fld) : List Shadow :=
  let kept := fun (x : Shadow) => match dueBoundary s with
    | some t => if !x.held && decide (x.time < t) then some { x with old := some (x.old.getD (get s f)) } else none
    | none => none
  s.shadows.filterMap fun x => if x.fld.key == f.key then kept x else some x

/-- A write of an RWS field by an agent: the shadow, and its wait for the boundary (R15). A held shadow stays held when the
host writes it (R227). -/
def shadowWrite (mgmt : Bool) (f : Fld) (v : Nat) (s : State) : State :=
  let was := !mgmt && s.shadows.any fun x => x.fld.key == f.key && x.held
  let h : Shadow := { fld := f, time := now s
                      held := was || (mgmt && flag s F.TB_STAT_GATE_HOLD && !flag s F.TB_STAT_GATE_ARMED) }
  { set f v s with shadows := overtaken s f ++ [h] }

/-- A write of an RWS field by hardware: it ends a hold (R227). -/
def shadowHw (f : Fld) (v : Nat) (s : State) : State :=
  { set f v s with shadows := overtaken s f ++ [{ fld := f, time := now s, held := false }] }

/-- A write of an RWS field by hardware at instant `at_`; an agent's write at that instant or later stands (R15, R136). -/
def shadowAt (at_ : Nat) (f : Fld) (v : Nat) (s : State) : State :=
  if s.shadows.any fun x => x.fld.key == f.key && at_ ≤ x.time then s
  else { set f v s with shadows := overtaken s f ++ [{ fld := f, time := at_, held := false }] }

/-- A write of ARR_CTL that carries CMD: its SLOT and FMT go to their shadows, the command acts now or, while the core runs,
at the next boundary. -/
def arrCtl (c n slot : Nat) (fmt : Bool) (cmd : Nat) (s : State) : State :=
  if !coreUp s c then bump F.GLB_DENIED_CNT s
  else
    let s1 := if slot < 0xA00 || slot = 0xFFF then shadowWrite true (F.ARR_CTL_SLOT c n) slot s else s
    let s2 := shadowWrite true (F.ARR_CTL_FMT c n) (if fmt then 1 else 0) s1
    if coreRuns s2 c then updCore c (fun k => { k with arrCmds := k.arrCmds ++ [(n, cmd)] }) s2 else arrCmd c n cmd s2

/-- VERIFIED. -/
def execVerified (c : CoreIx) (n : ArrIx) (slot : BitVec 12) (fmt : Bool) (s : State) : Host.Outcome State Fault Refusal :=
  .next (arrCtl c n slot.toNat fmt 1 s)
/-- RETIRE, which firmware keeps in the retired map (R90, R156). -/
def execRetire (c : CoreIx) (n : ArrIx) (slot : BitVec 12) (fmt : Bool) (s : State) : Host.Outcome State Fault Refusal :=
  let kept := coreUp s c && arrState s c n != 0
  .next (when kept (updFw fun k => { k with retired := NSet.add k.retired (c * 2624 + n) }) (arrCtl c n slot.toNat fmt 2 s))
/-- ARR_EMPTY. -/
def execArrEmpty (c : CoreIx) (n : ArrIx) (slot : BitVec 12) (fmt : Bool) (s : State) : Host.Outcome State Fault Refusal :=
  .next (arrCtl c n slot.toNat fmt 3 s)
/-- CLEAR_SUSPECT. -/
def execClearSuspect (c : CoreIx) (n : ArrIx) (slot : BitVec 12) (fmt : Bool) (s : State) : Host.Outcome State Fault Refusal :=
  .next (arrCtl c n slot.toNat fmt 4 s)

/-! ### Trims (R93) -/

/-- TRIM_GROUP of an agent's copy of ARR_ACC. -/
def trimGroup (s : State) (a : Agent) (c n : Nat) : Nat :=
  let f := F.ARR_ACC_TRIM_GROUP c n
  match a with | .host => get s f | .mgmt => SMap.get f.reset s.regsM f.key

/-- ARR_TRIM_WRITE: a write of ARR_TRIM_OFS, or ARR_TRIM_GAIN when `gain`, goes to the shadows of the four converters that the
agent's TRIM_GROUP selects. -/
def execArrTrimWrite (a : Agent) (c : CoreIx) (n : ArrIx) (gain : Bool) (v : Word) (s : State) : Host.Outcome State Fault Refusal :=
  if !coreUp s c then .next (bump F.GLB_DENIED_CNT s)
  else
    let g := trimGroup s a c n
    let fld := fun k => if gain then trimGain c n k else trimOfs c n k
    let w := if gain then 5 else 6
    .next (upTo 4 (fun i s => shadowWrite (decide (a = .mgmt)) (fld (4 * g + i)) (bits v.toNat (8 * i) w) s) s)

end Sys2Proof.Machine
end

