-- ==== Sys2Proof/Machine/Move.lean ====
section
/-! DEFINITION. The move engine: COPY, SEND, LOAD, STORE and GATHER (R186, R191, R245, R304). -/
namespace Sys2Proof.Machine

/-- Rows of a MOVE. -/
def mvN (w : Nat) : Nat := bits w 47 7 + 1
/-- First scratchpad row. -/
def mvRow (w : Nat) : Nat := bits w 32 15
/-- MODE. -/
def mvMode (w : Nat) : Nat := bits w 54 2
/-- STRIDE. -/
def mvStride (w : Nat) : Nat := bits w 56 8

/-- COPY. -/
def moveCopy (c w : Nat) (s : State) : State :=
  let a := readMode c 5 (mvMode w) (mvRow w) (mvN w) (mvStride w) s
  signal c (sigOf w) (writeRows c (bits w 64 15) a.1 a.2)

/-- COPY. -/
def execCopy (i : Issue) (s : State) : Host.Outcome State Fault Refusal :=
  .next (issue i 4 0 (some .move) always (inOrder i.core .move true (moveCopy i.core)) s)

/-! ### SEND -/

/-- The package-table entry for package index `ix` of partition `n`: the lowest-numbered match (R304). -/
def pkgEntry (s : State) (n ix : Nat) : Option Nat :=
  if ix = 0xFFFF then none
  else (List.range 4096).find? fun e =>
    actB s (F.SRV_PKG_VALID e) && actv s (F.SRV_PKG_LPART e) == n && actv s (F.SRV_PKG_INDEX e) == ix &&
      decide (actv s (F.SRV_PKG_PORT e) ≤ 11)

/-- Where a SEND goes: the mesh of this package, a port with a hall address, or nowhere. -/
inductive SendTo where
  | mesh | port (p addr : Nat) | nowhere
  deriving DecidableEq, Repr

/-- Resolves PKG for a core (R186, R304). -/
def sendTo (s : State) (c pkg : Nat) : SendTo :=
  if pkg = 0xFFFF then .mesh
  else match corePart s c with
    | none => .nowhere
    | some n => match pkgEntry s n pkg with
      | none => .nowhere
      | some e =>
        if actv s (F.SRV_PKG_ADDR e) = fabAddr s 0 then .mesh
        else .port (actv s (F.SRV_PKG_PORT e)) (actv s (F.SRV_PKG_ADDR e))

/-- The writes of a SEND: offset and data, two per row, with the row's poison mark. DESIGN CHOICE (log entry 67): an offset past
0xFFFF wraps modulo 2^16; the spec does not say. -/
def sendWrites (ofs : Nat) (rows : List (List Byte × Bool)) : List (Nat × List Byte × Bool) :=
  (rows.zipIdx).flatMap fun p =>
    [((ofs + 2 * p.2) % 2 ^ 16, p.1.1.take 256, p.1.2), ((ofs + 2 * p.2 + 1) % 2 ^ 16, (p.1.1.drop 256).take 256, p.1.2)]

/-- Generation of a SEND: (k + GEN_OFS) mod 2^16. -/
def sendGen (s : State) (c w : Nat) : Nat :=
  twos 16 ((tickK s c : Int) + (BitVec.ofNat 4 (bits w 106 4)).toInt)

/-- The cell of a write that leaves the package (R186, Table 9.3). -/
def sendCell (s : State) (c w p addr gen : Nat) (d : Nat × List Byte × Bool) : Cell :=
  let n := match corePart s c with | some n => n | none => 0
  { cls := bits w 110 1, poison := d.2.2, late := false, kind := 0, ttl := 64, dst := addr, src := fabAddr s p,
    pid := actv s (F.FAB_LPART_PID p n), dcore := bits w 86 4, score := actv s (F.CORE_CTL_ID_LOGICAL c),
    win := bits w 80 6, vc := 0, slot := 0, divl := actv s (F.TB_PART_DIV_LOG2 n), gen := gen, ofs := d.1,
    tk := tickK s c % 2 ^ 16, status := 0, line := 0, half := 0, tag := 0, payload := d.2.1 }

/-- Sends one write; one that cannot be sent is answered with a NACK with NO_ROUTE (R304). -/
def sendOne (c w id gen : Nat) (dst : SendTo) (d : Nat × List Byte × Bool) (s : State) : State :=
  match dst with
  | .mesh =>
    match physOf s (bits w 86 4) with
    | some k =>
      let b : WinWrite := { core := k, win := bits w 80 6, gen := gen, ofs := d.1, sched := true, data := d.2.1, origin := none }
      inject (packet c [k] .land d.2.2 (some id) (.winWrite b)) s
    | none => opDone c id (bump (F.CORE_CTL_NACK_RX_CNT c) s)
  | .port p addr =>
    let cell := sendCell s c w p addr gen d
    inject (packet c [fabNode p] (if cell.cls = 0 then .land else .bulk) d.2.2 (some id) (.cell cell none)) s
  | .nowhere => opDone c id (bump (F.CORE_CTL_NACK_RX_CNT c) s)

/-- SEND: 2N window writes, POISONED where their row or the core's outputs are. -/
def moveSend (c w : Nat) (s : State) : State :=
  let a := readMode c 5 (mvMode w) (mvRow w) (mvN w) (mvStride w) s
  let all := (core a.2 c).outPoison
  let ws := sendWrites (bits w 64 16) (a.1.map fun p => (p.1, p.2 || all))
  let b := addOp c .move .send (sigOf w) ws.length a.2
  let dst := sendTo b.2 c (bits w 90 16)
  let s1 := if dst = .nowhere then bump F.SRV_PKG_MISS_CNT b.2 else b.2
  each ws (sendOne c w b.1 (sendGen s1 c w) dst) s1

/-- SEND. -/
def execSend (i : Issue) (s : State) : Host.Outcome State Fault Refusal :=
  .next (issue i 4 1 (some .move) always (inOrder i.core .move true (moveSend i.core)) s)

/-! ### LOAD, STORE, GATHER -/

/-- A unit's request carries its core's reset epoch (R374). -/
def coreRq (s : State) (c op idx : Nat) : Requester := .core c op idx (core s c).epoch

/-- Requests a line for row `row`; one that the region check refuses is not read, and its row is written POISONED. -/
def loadLine (c id idx row l : Nat) (s : State) : State :=
  if mayAsk s c l then
    askRead c (packet c [stkNode (lineStack l)] .req false none (.readReq l (coreRq s c id idx) true)) s
  else
    let d := freeBytes 512 (bump (F.SEQ_STACK_REJ_CNT c) (regionRej c s))
    opDone c id (writeRow c row d.1 true d.2)

/-- LOAD. -/
def moveLoad (c w : Nat) (s : State) : State :=
  let a := addOp c .move (.load (mvRow w)) (sigOf w) (mvN w) s
  upTo (mvN w) (fun i s => loadLine c a.1 i (mvRow w + i) (bits w 64 30 + i) s) a.2

/-- LOAD. -/
def execLoad (i : Issue) (s : State) : Host.Outcome State Fault Refusal :=
  .next (issue i 4 2 (some .move) always (inOrder i.core .move false (moveLoad i.core)) s)

/-- Writes bytes of a line for an outstanding instruction; one that the region check refuses is not performed. -/
def storeLine (c id l ofs : Nat) (data : List Byte) (poison : Bool) (s : State) : State :=
  if regionOk s c l true then
    inject (packet c [stkNode (lineStack l)] .req poison none (.writeReq l ofs data (coreRq s c id l))) s
  else opDone c id (bump (F.SEQ_STACK_REJ_CNT c) (regionRej c s))

/-- STORE; after a check mismatch in the tick it is not performed and is counted (R193). -/
def moveStore (c w : Nat) (s : State) : State :=
  let a := readMode c 5 (mvMode w) (mvRow w) (mvN w) (mvStride w) s
  if (core a.2 c).noStore then signal c (sigOf w) (bump (F.SPAD_INVAL_CNT c) a.2)
  else
    let all := (core a.2 c).outPoison
    let b := addOp c .move .store (sigOf w) (mvN w) a.2
    each a.1.zipIdx (fun p s => storeLine c b.1 (bits w 64 30 + p.2) 0 p.1.1 (p.1.2 || all) s) b.2

/-- STORE. -/
def execStore (i : Issue) (s : State) : Host.Outcome State Fault Refusal :=
  .next (issue i 4 3 (some .move) always (inOrder i.core .move true (moveStore i.core)) s)

/-- GATHER: line BASE + x × LSTRIDE for each index x of the IDX row; a POISONED index row poisons every row it gives. -/
def moveGather (c w : Nat) (s : State) : State :=
  let ix := readRow c 5 (bits w 54 15) s
  let a := addOp c .move (.load (mvRow w)) (sigOf w) (mvN w) ix.2
  let line := fun i => bits w 69 30 + leAt ix.1.1 (4 * i) 4 * bits w 99 16
  if ix.1.2 then
    upTo (mvN w) (fun i s => let d := freeBytes 512 s
                             opDone c a.1 (writeRow c (mvRow w + i) d.1 true d.2)) a.2
  else upTo (mvN w) (fun i s => loadLine c a.1 i (mvRow w + i) (line i) s) a.2

/-- GATHER. -/
def execGather (i : Issue) (s : State) : Host.Outcome State Fault Refusal :=
  .next (issue i 4 4 (some .move) always (inOrder i.core .move false (moveGather i.core)) s)

/-- A MOVE at the head of its queue. -/
def runMove (c w : Nat) (s : State) : State :=
  if iOp w = 0 then moveCopy c w s else if iOp w = 1 then moveSend c w s else if iOp w = 2 then moveLoad c w s
  else if iOp w = 3 then moveStore c w s else moveGather c w s

/-! ### Landing (R197, R198, R223) -/

/-- A refused window write (Table 6.12): counted at the core, and a NACK to the sender; a write that crossed the fabric is
counted by its port. -/
def refuseLanding (c src status : Nat) (w : WinWrite) (f : Fld) (pf : Nat → Fld) (s : State) : State :=
  let s1 := bump f s
  match w.origin with
  | some o => askNack o.1 o.2 status (bump (pf o.1) s1)
  | none => nackCore c src status s1

/-- The core is in the guard band of its tick (R223). -/
def inGuard (s : State) (c : Nat) : Bool := flag s F.TB_STAT_TICK_ON && decide (tickEnd s c ≤ now s + 150)

/-- Stores a landed write: half a row of the window. A later write of the same offset replaces it. -/
def land (c : Nat) (w : WinWrite) (poison : Bool) (s : State) : State :=
  let others := (core s c).landed.filter fun x => !(x.1 == w.win && x.2.1 == w.ofs)
  let s1 := updCore c (fun k => { k with landed := (w.win, w.ofs, w.data, poison) :: others }) s
  let n := min (get s1 (F.SPAD_WIN_COUNT c w.win) + 1) 0x1FFFF
  s1 |> bump (F.CORE_CTL_LAND_CNT c) |> set (F.SPAD_WIN_COUNT c w.win) n
     |> when (decide (get s1 (F.SPAD_WIN_EXPECT c w.win) < n)) (bump (F.SPAD_WIN_EXCESS_CNT c))

/-- The check of Table 6.12 that refuses a window write, if one does: status, counter of the core and counter of a port. -/
def landCheck (s : State) (c : Nat) (w : WinWrite) : Option (Nat × Fld × (Nat → Fld)) :=
  let st := coreState s c
  if st = cOff || st = cReset then some (0x12, F.CORE_CTL_DROP_RESET_CNT c, F.FAB_DROP_CORERESET)
  else if st = cFenced then some (0x13, F.CORE_CTL_DROP_FENCED_CNT c, F.FAB_DROP_FENCED)
  else if get s (F.SPAD_WIN_STATE c w.win) ≠ 1 || get s (F.SPAD_WIN_GEN c w.win) ≠ w.gen then
    some (0x10, F.CORE_CTL_DROP_WINCLOSED_CNT c, F.FAB_DROP_WINCLOSED)
  else if 2 * (get s (F.SPAD_WIN_SIZE_M1 c w.win) + 1) < w.ofs + 1 then
    some (0x03, F.CORE_CTL_DROP_WINRANGE_CNT c, F.FAB_DROP_WINRANGE)
  else none

/-- Judges a window write by Table 6.12. -/
def judgeLanding (c : Nat) (p : Packet) (w : WinWrite) (s : State) : State :=
  match landCheck s c w with
  | some x => refuseLanding c p.src x.1 w x.2.1 x.2.2 s
  | none =>
    let late := w.sched && inGuard s c
    land c w (p.poison || late) (when late (bump F.TB_GUARD_LATE_CNT) s)

/-- WINDOW_WRITE_LANDING: the oldest write that waits at the core enters its landing buffer. -/
def execWindowWriteLanding (c : CoreIx) (s : State) : Host.Outcome State Fault Refusal :=
  let isWrite := fun (p : Packet) => match p.body with | .winWrite _ => true | _ => false
  match takeFirst (fun p => p.arrived && p.pos == c.val && isWrite p) s.mesh with
  | some r =>
    match r.1.body with
    | .winWrite w => .next (judgeLanding c r.1 w { s with mesh := r.2 })
    | _ => .next s
  | none => .next s

/-- NACK_RECEIVED: the oldest NACK that waits at the core reaches it (R197, R279). -/
def execNackReceived (c : CoreIx) (s : State) : Host.Outcome State Fault Refusal :=
  let isNack := fun (p : Packet) => match p.body with | .nack _ => true | _ => false
  match takeFirst (fun p => p.arrived && p.pos == c.val && isNack p) s.mesh with
  | some r => .next (bump (F.CORE_CTL_NACK_RX_CNT c) { s with mesh := r.2 })
  | none => .next s

end Sys2Proof.Machine
end

