-- ==== Sys2Proof/Machine/Block.lean ====
section
/-! DEFINITION. CRC-32, and cells and blocks of a fabric link as bytes (R266, Tables 9.3 and 9.4). -/
namespace Sys2Proof.Machine

/-- One bit of the CRC-32 of IEEE 802.3, reflected. -/
def crcStep (c : Nat) : Nat := if c % 2 = 1 then (c / 2) ^^^ 0xEDB88320 else c / 2

/-- One byte of the CRC. -/
def crcByte (c : Nat) (b : Byte) : Nat :=
  (List.range 8).foldl (fun c _ => crcStep c) (c ^^^ b.toNat)

/-- CRC-32 (IEEE 802.3) of bytes. -/
def crc32 (l : List Byte) : Nat := (l.foldl crcByte 0xFFFFFFFF) ^^^ 0xFFFFFFFF

/-- A number as 0 or 1. -/
def ofB (b : Bool) : Nat := if b then 1 else 0

/-- The first `n` bytes of a list, zeros after its end. -/
def padTo (n : Nat) (l : List Byte) : List Byte := (l ++ zeros n).take n

/-- Header bytes 0 to 27 of a cell (Table 9.3). -/
def cellHeader (c : Cell) : List Byte :=
  natLe 1 (c.cls % 4 + 4 * ofB c.poison + 8 * ofB c.late + 16 * c.kind) ++ natLe 1 c.ttl ++ natLe 2 c.dst ++ natLe 2 c.src ++ natLe 2 c.pid ++
    natLe 1 (c.dcore % 16 + 16 * c.score) ++ natLe 1 (c.win % 64 + 64 * (c.vc % 2)) ++ natLe 1 (c.slot % 64) ++ natLe 1 (c.divl % 8) ++
    natLe 2 c.gen ++ natLe 2 c.ofs ++ natLe 2 c.tk ++ natLe 1 c.status ++ zeros 1 ++ natLe 4 (c.line % 2 ^ 30 + 2 ^ 30 * (c.half % 2)) ++
    natLe 4 c.tag

/-- Header and payload of a cell. -/
def cellBytes (c : Cell) : List Byte := cellHeader c ++ natLe 4 (crc32 (cellHeader c)) ++ padTo 256 c.payload

/-- The cell in the first 288 bytes of a block. -/
def readCell (b : List Byte) : Cell :=
  let k := leAt b 0 1
  let d := leAt b 8 1
  let w := leAt b 9 1
  let l := leAt b 20 4
  { cls := k % 4, poison := bit k 2, late := bit k 3, kind := k / 16, ttl := leAt b 1 1, dst := leAt b 2 2, src := leAt b 4 2, pid := leAt b 6 2,
    dcore := d % 16, score := d / 16, win := w % 64, vc := bits w 6 1, slot := leAt b 10 1 % 64, divl := leAt b 11 1 % 8, gen := leAt b 12 2,
    ofs := leAt b 14 2, tk := leAt b 16 2, status := leAt b 18 1, line := l % 2 ^ 30, half := bits l 30 1, tag := leAt b 24 4,
    payload := (b.drop 32).take 256 }

/-- Trailer bytes 0 to 27 of a block (Table 9.4). -/
def trailer (x : TxBlock) : List Byte :=
  let h := match x.cell with
    | some (q, rep, c) => natLe 4 (crc32 (padTo 256 c.payload)) ++ natLe 2 q ++ natLe 2 x.ack ++ natLe 1 (1 + 2 * ofB rep + 4 * ofB x.nak)
    | none => zeros 6 ++ natLe 2 x.ack ++ natLe 1 (4 * ofB x.nak)
  h ++ zeros 1 ++ (List.range 6).flatMap (fun i => natLe 2 (nth 0 x.credits i)) ++ zeros 6

/-- The 320 bytes of a block: a cell, or an idle block whose header and payload are zero, and the trailer (R266). -/
def blockBytes (x : TxBlock) : List Byte :=
  (match x.cell with | some r => cellBytes r.2.2 | none => zeros 288) ++ trailer x ++ natLe 4 (crc32 (trailer x))

/-- What the receiver finds in a block after FEC: nothing wrong, an uncorrectable codeword, or a failing payload, trailer or
header check. -/
inductive BlockErr where
  | clean | uncorrectable | pcrc | tcrc | hcrc
  deriving DecidableEq, Repr

/-- A received block: the error found; the symbols corrected on the lanes of a codeword that ends; and the fields of the trailer with the
cell, unless the block is idle. -/
structure RxBlock where
  err : BlockErr
  cw : Option (List Nat)
  ack : Nat
  nak : Bool
  credits : List Nat
  cell : Option (Nat × Bool × Cell)
  deriving DecidableEq, Repr

/-- The error of a block: the codeword, the trailer's CRC, and in a cell those of the payload and the header. -/
def errOf (x : BlockIn) : BlockErr :=
  let b := x.raw
  if x.bad then .uncorrectable
  else if crc32 ((b.drop 288).take 28) ≠ leAt b 316 4 then .tcrc
  else if !bit (leAt b 296 1) 0 then .clean
  else if crc32 ((b.drop 32).take 256) ≠ leAt b 288 4 then .pcrc
  else if crc32 (b.take 28) ≠ leAt b 28 4 then .hcrc
  else .clean

/-- A block as the receiver reads it. -/
def readBlock (x : BlockIn) : RxBlock :=
  let b := x.raw
  let v := leAt b 296 1
  { err := errOf x, cw := x.cw, ack := leAt b 294 2, nak := bit v 2, credits := (List.range 6).map fun i => leAt b (298 + 2 * i) 2
    cell := if bit v 0 then some (leAt b 292 2, bit v 1, readCell b) else none }

end Sys2Proof.Machine
end

