-- ==== Sys2Proof/Machine/Cal.lean ====
section
/-! DEFINITION. The calibration engine: records, interpolation, commands, tracking and the drift monitor (R124 to R145). -/
namespace Sys2Proof.Machine

/-! ### Records (R133, Table 4.13) -/

/-- Store address of a record: core, set, array. -/
def recAddr (c set n : Nat) : Nat := c * 2 ^ 20 + set * 0x29000 + n * 64

/-- The 64 bytes of a record. -/
def recBytes (s : State) (c set n : Nat) : List Byte := rdBytes s.mem.cal (recAddr c set n) 64

/-- The CRC of a record matches. -/
def recCrc (l : List Byte) : Bool := leAt l 60 4 == crc32 (l.take 60)

/-- VALID = 1 and the CRC matches. -/
def recValid (l : List Byte) : Bool := bit (leAt l 55 1) 0 && recCrc l

/-- Signed field of `w` bits. -/
def sgn (w v : Nat) : Int := (BitVec.ofNat w v).toInt

/-- OFS of converter `k` in a record. -/
def recOfs (l : List Byte) (k : Nat) : Int := sgn 6 (bits (leAt l 0 54) (12 * k) 6)
/-- GAIN of converter `k`. -/
def recGain (l : List Byte) (k : Nat) : Int := sgn 5 (bits (leAt l 0 54) (12 * k + 6) 5)
/-- REF_I of a record. -/
def recRef (l : List Byte) : Int := sgn 8 (leAt l 54 1)

/-- Temperature of a set in 1/8 °C. -/
def setTemp (set : Nat) : Int := 8 * (35 + 20 * set)

/-- Sets of an array with a valid record. -/
def validSets (s : State) (c n : Nat) : List Nat := (List.range 4).filter fun k => recValid (recBytes s c k n)

/-- The two valid sets nearest to a temperature, the lower one first (R133 step 2). DESIGN CHOICE (log entry 64): of two sets equally
near, the lower is taken. -/
def nearest2 (t : Int) (l : List Nat) : Option (Nat × Nat) :=
  match l with
  | [] => none
  | [a] => some (a, a)
  | _ =>
    let d := fun k => (t - setTemp k).natAbs
    let a := l.foldl (fun b k => if d k < d b then k else b) (l.headD 0)
    let r := l.filter fun k => k != a
    let b := r.foldl (fun b k => if d k < d b then k else b) (r.headD 0)
    some (min a b, max a b)

/-- Nearest integer to a / b, ties to even, of either sign; open where b is 0 (log entry 41). -/
def rneQ (a b : Int) : Int := if b = 0 then Config.openQuotient a else if b < 0 then rneDiv (-a) b.natAbs else rneDiv a b.natAbs

/-- Temperature clamped to 25 to 105 °C. -/
def clampT (t : Int) : Int := if t < 200 then 200 else if 840 < t then 840 else t

/-- I(v) of R133 times 256, of a value taken from a record. -/
def interp256 (s : State) (c n : Nat) (t : Int) (v : List Byte → Int) : Option Int :=
  match nearest2 (clampT t) (validSets s c n) with
  | none => none
  | some (a, b) =>
    let va := v (recBytes s c a n)
    if a = b then some (256 * va)
    else
      let f := rneQ (256 * (clampT t - setTemp a)) (setTemp b - setTemp a)
      some (256 * va + f * (v (recBytes s c b n) - va))

/-- I(v) rounded to a field (R124). -/
def interp (s : State) (c n : Nat) (t : Int) (v : List Byte → Int) : Option Int :=
  (interp256 s c n t v).map fun x => rneDiv x 256

/-- Clips a value to a field of `w` bits in two's complement. -/
def clipField (w : Nat) (v : Int) : Int :=
  let m : Int := 2 ^ (w - 1)
  if m - 1 < v then m - 1 else if v < -m then -m else v

/-- CAL_CORR(n).REF and OFS. -/
def corrRef (s : State) (c n : Nat) : Int := geti s (F.CAL_CORR_REF c n)
/-- CAL_CORR(n).OFS. -/
def corrOfs (s : State) (c n : Nat) : Int := geti s (F.CAL_CORR_OFS c n)

/-! ### Interpolation passes (R124, R134 to R137) -/

/-- Trims of an array composed for a temperature (Table 4.2): fields with their unclipped values; none without a record. -/
def trimValues (s : State) (c n : Nat) (t : Int) : Option (List (Fld × Int)) :=
  match interp s c n t recRef with
  | none => none
  | some r =>
    let get0 := fun v => match interp s c n t v with | some x => x | none => 0
    let cr := corrRef s c n
    let co := corrOfs s c n
    some ((F.ARR_TRIM_REF_REF_I c n, r + cr) ::
      ((List.range 36).map fun k => (trimOfs c n k, get0 (fun l => recOfs l k) + (if k < 32 then co else 0))) ++
      ((List.range 36).map fun k =>
        (trimGain c n k, get0 (fun l => recGain l k) + (if k = 32 ∨ k = 33 then rneDiv cr 4 else 0))))

/-- Writes the trims of one array at instant `at_` (R124, R135): a value outside its field is clipped, counted once, and asks for a
re-steep; without a valid record the trims stay, which is counted and reported (R133). -/
def passArray (c : Nat) (t : Int) (at_ n : Nat) (s : State) : State :=
  match trimValues s c n t with
  | none =>
    raise { src := 0x14, dom := c, node := c, addr := n } (bump (F.CAL_REC_BAD_CNT c) s)
  | some l =>
    let clipped := l.any fun p => clipField p.1.width p.2 != p.2
    let s1 := each l (fun p s => shadowAt at_ p.1 (twos p.1.width (clipField p.1.width p.2)) s) s
    if clipped then hwSet (F.CAL_RESTEEP_REQ c (n / 32)) (n % 32) (bump (F.CAL_TRIM_CLIP_CNT c) s1) else s1

/-- The sample of a pass: the present one, or, while it is marked invalid, the one last applied (R134, R137). -/
def passTemp (s : State) (c : Nat) : Nat :=
  if flag s (F.THM_SENS_VALID c) then get s (F.CAL_TEMP_T_NOW c) else get s (F.CAL_TEMP_T_APPLIED c)

/-- Starts a pass (R134). -/
def startPass (c : Nat) (s : State) : State :=
  setB (F.CAL_STATUS_PASS_BUSY c) true
    (updCore c (fun k => { k with calPass := some { temp := passTemp s c, t0 := now s, next := 0, slow := slowHalf s c }, calTrig := false }) s)

/-- Instant at which a pass reaches its array number `i`: 12 cycles of the half clock an array (R134). -/
def CalPass.reach (p : CalPass) (i : Nat) : Nat := p.t0 + i * (if p.slow then 30 else 15) / 2

/-- The pass of a core writes the arrays that it reaches before instant `t`, in ascending order without those that are FUSED
(R134, R135). -/
def passTo (t c : Nat) (s : State) : State :=
  match (core s c).calPass with
  | none => s
  | some p =>
    let l := ((List.range 2624).filter fun n => arrState s c n != 0).zipIdx.filter fun x => p.next ≤ x.2 && p.reach x.2 < t
    each l (fun x => passArray c (sgn 16 p.temp) (p.reach x.2) x.1) s
      |> updCore c (fun k => { k with calPass := some { p with next := p.next + l.length } })

/-- The pass of a core has written what it reached before now. -/
def catchUp (c : Nat) (s : State) : State := passTo (now s) c s

/-- A trigger: it starts a pass, or, during a pass, one further pass; INTERP must be 1 (R134). -/
def trigger (c : Nat) (s : State) : State :=
  if !flag s (F.CAL_CTL_INTERP c) then s
  else if (core s c).calPass.isSome then updCore c (fun k => { k with calTrig := true }) s
  else startPass c s

/-- CAL_PASS_START: the further pass that a trigger during the last one asked for. -/
def execCalPassStart (c : CoreIx) (s : State) : Host.Outcome State Fault Refusal :=
  if (core s c).calTrig && (core s c).calPass.isNone && flag s (F.CAL_CTL_INTERP c) then .next (startPass c s) else .next s

/-- CAL_PASS_END: the pass has written every array's trims. DESIGN CHOICE (log entry 67): INTERP cleared during a pass lets it run to its end,
and a trigger remembered meanwhile waits until INTERP is 1 again; the spec does not say. -/
def execCalPassEnd (c : CoreIx) (s : State) : Host.Outcome State Fault Refusal :=
  match (core s c).calPass with
  | none => .next s
  | some p =>
    let t := p.reach ((List.range 2624).filter fun n => arrState s c n != 0).length
    .next (passTo t c (moveTo t s) |> set (F.CAL_TEMP_T_APPLIED c) p.temp |> bump (F.CAL_PASS_CNT c) |> setB (F.CAL_STATUS_PASS_BUSY c) false
      |> updCore c (fun k => { k with calPass := none }))

/-! ### Commands (R126 to R128) -/

/-- RESULT of CAL_STATUS. -/
def calResult (c r : Nat) (s : State) : State := set (F.CAL_STATUS_RESULT c) r s

/-- The core runs tick programs or is about to (CAL "running", R140). -/
def calRunning (s : State) (c : Nat) : Bool :=
  flag s (F.CAL_CTL_INTERP c) || (core s c).calCmd.isSome || (core s c).calPass.isSome || coreRuns s c

/-- An ignored write while running: counted and reported (R17). -/
def calLocked (c : Nat) (s : State) : State :=
  raise { src := 0x10, dom := c, access := 1 } (bump (F.CAL_LOCKED_WR c) s)

/-- T is more than 3.0 °C from the temperature of a set. -/
def tempFar (s : State) (c set : Nat) : Bool := decide (24 < (geti s (F.CAL_TEMP_T_NOW c) - setTemp set).natAbs)

/-- An access to a core whose compute domain is off or in reset is denied (R43). -/
def ifUp (c : Nat) (f : State → State) (s : State) : State := if coreUp s c then f s else bump F.GLB_DENIED_CNT s

/-- Accepts a command. -/
def calAccept (c : Nat) (k : CalCmd) (s : State) : State :=
  setB (F.CAL_STATUS_CMD_BUSY c) true (updCore c (fun q => { q with calCmd := some k }) s)

/-- CAL_CMD with OP = FULL. DESIGN CHOICE (log entry 67): while the core runs it is locked, also while another command is in progress; the spec
gives no order of the two. -/
def calFull (c set : Nat) (target : Bool) (s : State) : State :=
  if coreRuns s c then calLocked c s
  else if (core s c).calCmd.isSome then calResult c 0x02 s
  else if target && tempFar s c set then calResult c 0x31 s
  else calAccept c { op := 1, set := set, target := target, arr := none } s

/-- CAL_FULL. -/
def execCalFull (c : CoreIx) (set : Fin 4) (target : Bool) (s : State) : Host.Outcome State Fault Refusal :=
  .next (ifUp c (calFull c set target) s)

/-- CAL_CMD with OP = ARRAY (R128). DESIGN CHOICE (log entry 64): an ARRAY field of 2,624 or more gives INVALID_ARG, as for an array that
cannot be calibrated; the same holds for CLEAR_CORR and CLEAR_STATS. DESIGN CHOICE (log entry 67): INVALID_ARG is judged before TEMP_WINDOW; the
spec gives no order of the two. -/
def calArray (c set n : Nat) (target : Bool) (s : State) : State :=
  if (core s c).calCmd.isSome then calResult c 0x02 s
  else if 2624 ≤ n || actv s (F.ARR_CTL_SLOT c n) ≠ 0xFFF || arrState s c n = 0 || arrState s c n = 2 then calResult c 0x03 s
  else if target && tempFar s c set then calResult c 0x31 s
  else calAccept c { op := 2, set := set, target := target, arr := some n } s

/-- CAL_ARRAY. -/
def execCalArray (c : CoreIx) (n : BitVec 12) (set : Fin 4) (target : Bool) (s : State) : Host.Outcome State Fault Refusal :=
  .next (ifUp c (calArray c set n.toNat target) s)

/-- INTERP_NOW. DESIGN CHOICE (log entry 67): with INTERP = 0 it is accepted with RESULT = OK and starts no pass; the spec does not say. -/
def execInterpNow (c : CoreIx) (s : State) : Host.Outcome State Fault Refusal :=
  .next (ifUp c (fun s => if (core s c).calCmd.isSome then calResult c 0x02 s else trigger c (calResult c 0 s)) s)

/-- Clears one CAL_CORR entry. -/
def clearCorr (c n : Nat) (s : State) : State :=
  s |> set (F.CAL_CORR_REF c n) 0 |> set (F.CAL_CORR_OFS c n) 0 |> set (F.CAL_CORR_D_LAST c n) 0

/-- The entries a CLEAR command acts on; none for an array number that does not exist. -/
def clearRange (n : Nat) (all : Bool) : Option (List Nat) :=
  if all then some (List.range 2624) else if n < 2624 then some [n] else none

/-- CLEAR_CORR. -/
def execClearCorr (c : CoreIx) (n : BitVec 12) (all : Bool) (s : State) : Host.Outcome State Fault Refusal :=
  .next (ifUp c (fun s => if (core s c).calCmd.isSome then calResult c 0x02 s
    else match clearRange n.toNat all with
      | some l => calResult c 0 (each l (fun k => clearCorr c k) (catchUp c s))
      | none => calResult c 0x03 s) s)

/-- Clears the statistics sums of an array, not its reference sums. -/
def clearStats (k : CalSums) : CalSums := { CalSums.zero with nRef := k.nRef, sumRef := k.sumRef, sumExp := k.sumExp }

/-- Changes the sums of an array. -/
def updSums (c n : Nat) (f : CalSums → CalSums) (s : State) : State :=
  updCore c (fun q => { q with sums := SMap.put CalSums.zero q.sums n (f (SMap.get CalSums.zero q.sums n)) }) s

/-- CLEAR_STATS. -/
def execClearStats (c : CoreIx) (n : BitVec 12) (all : Bool) (s : State) : Host.Outcome State Fault Refusal :=
  .next (ifUp c (fun s => if (core s c).calCmd.isSome then calResult c 0x02 s
    else match clearRange n.toNat all with
      | some l => calResult c 0 (each (l.filter fun k => (core s c).sums.any fun p => p.1 == k) (fun k => updSums c k clearStats) s)
      | none => calResult c 0x03 s) s)

/-- What the measurement of one array gives (R126): trims before they are clipped to their fields. -/
structure Measured where
  ofs : List Int
  gain : List Int
  ref : Int
  /-- Worst converter noise in 1/256 LSB. -/
  noise : Nat
  cell : Bool
  deriving DecidableEq, Repr

/-- Sum of 16 codes of a converter. -/
def sum16 (d k step : Nat) : Int := ((List.range 16).map fun i => Config.calCode d k step i).foldl (· + ·) 0

/-- Runs the steps of R126 on the codes of draw `d`. -/
def measure (d : Nat) (holds w2 : Bool) : Measured :=
  let ofs := (List.range 36).map fun k => -(rneDiv (sum16 d k 0) 2)
  let dk := (List.range 36).map fun k => sum16 d k 1 - sum16 d k 2
  let tot := (dk.take 32).foldl (· + ·) 0
  let ref := rneQ (1600 * (98304 - tot)) tot
  let gain := dk.zipIdx.map fun p =>
    let g := if p.2 < 32 then p.1 * (1600 + ref) else p.1 * 1600
    rneQ (400 * (4915200 - g)) g
  let expRef : Int := if w2 then 256 else 1792
  let m := Config.calCode d 34 3 0
  let term := if holds then rneQ (1600 * (expRef - m)) m else 0
  let var := fun (k : Nat) =>
    let q := ((List.range 16).map fun i => Config.calCode d k 0 i * Config.calCode d k 0 i).foldl (· + ·) 0
    (16 * q - sum16 d k 0 * sum16 d k 0).toNat
  let noise := (List.range 36).foldl (fun n k => max n (isqrt (256 * var k))) 0
  { ofs := ofs, gain := gain, ref := ref + term, noise := min noise 0xFFFF, cell := holds }

/-- The record of a measurement. -/
def makeRecord (m : Measured) (t : Nat) : List Byte :=
  let field := ((List.range 36).map fun k => (twos 6 (clipField 6 (nth 0 m.ofs k)) + twos 5 (clipField 5 (nth 0 m.gain k)) * 64) * 2 ^ (12 * k)).foldl (· + ·) 0
  let body := natLe 54 field ++ natLe 1 (twos 8 (clipField 8 m.ref)) ++ natLe 1 (1 + (if m.cell then 4 else 0)) ++ natLe 2 t ++ natLe 2 m.noise
  body ++ natLe 4 (crc32 body)

/-- Writes a record into the store. -/
def putRecord (c set n : Nat) (l : List Byte) (s : State) : State :=
  { s with mem := { s.mem with cal := wrBytes s.mem.cal (recAddr c set n) l } }

/-- Writes a correction, clipped and counted (R132). -/
def putCorr (c n : Nat) (ref ofs : Int) (s : State) : State :=
  let r := clipField 8 ref
  let o := clipField 6 ofs
  s |> set (F.CAL_CORR_REF c n) (twos 8 r) |> set (F.CAL_CORR_OFS c n) (twos 6 o)
    |> when (r != ref || o != ofs) (bump (F.CAL_TRIM_CLIP_CNT c))

/-- Calibrates one array (R126): into its record, or into CAL_CORR. DESIGN CHOICE (log entry 64): I(REF_I) is taken rounded, as R124 takes it
for the trim, and I(OFS_k) enters the mean unrounded. -/
def calOne (c : Nat) (k : CalCmd) (n : Nat) (s : State) : State :=
  let st := arrState s c n
  if st = 0 || st = 2 then s
  else
    let t := get s (F.CAL_TEMP_T_NOW c)
    let d := drawFree (updPhys (fun q => { q with calTemp := SMap.put 0 q.calTemp (c * 2624 + n) (t + 1) }) s)
    let m := measure d.1 (st = 4 || st = 3) (actB s (F.ARR_CTL_FMT c n))
    if k.target then putRecord c k.set n (makeRecord m t) d.2
    else match interp s c n (sgn 16 t) recRef with
      | none => raise { src := 0x14, dom := c, node := c, addr := n } (bump (F.CAL_REC_BAD_CNT c) d.2)
      | some r =>
        let io := fun i => match interp256 s c n (sgn 16 t) (fun l => recOfs l i) with | some x => x | none => 0
        let diff := ((List.range 32).map fun i => 256 * nth 0 m.ofs i - io i).foldl (· + ·) 0
        putCorr c n (m.ref - r) (rneDiv diff (256 * 32)) d.2

/-- A command that is carried out: the arrays it covers, RESULT, and its count (Table 4.12). -/
def runCal (c : Nat) (k : CalCmd) (s : State) : State :=
  let l := match k.arr with | some n => [n] | none => List.range 2624
  s |> each l (calOne c k) |> calResult c 0 |> bump (F.CAL_FULL_CNT c)

/-! ### What firmware writes after a measurement (R129, R143) -/

/-- Firmware writes an RWS field of a CAL block, which it will write again after a reset (R141). -/
def calWrite (f : Fld) (v : Nat) (s : State) : State :=
  let s1 := shadowWrite true f v s
  { s1 with fw := { s1.fw with calCfg := SMap.put 0 s1.fw.calCfg f.key (v + 1) } }

/-- The configuration of a CAL block that firmware writes again after a reset (R141). -/
def calFields (c : Nat) : List Fld :=
  [F.CAL_SRC_SRC c, F.CAL_CHK_BAND_BASE c, F.CAL_CHK_BAND_PER_BLK c, F.CAL_DMON_LIM_LIMIT c, F.CAL_DMON_LIM_REF_MIN c, F.CAL_STAT_MIN_MIN_N c,
   F.CAL_CTL_TSTEP c]

/-- The least `n`, up to a bound, with 12 n² at least 12 σ² + 65536: 256 × sqrt((σ ÷ 256)² + 1 ÷ 12), rounded up. -/
def codeSigma (sg : Nat) : Nat := ((List.range 4096).find? fun n => decide (12 * sg * sg + 65536 ≤ 12 * n * n)).getD 4095

/-- PROOF_SIGMA from the largest SIGMA over the core's valid records (R129). -/
def writeSigma (c : Nat) (s : State) : State :=
  let sg := fun k n => let l := recBytes s c k n; if recValid l then leAt l 58 2 else 0
  let worst := (List.range 4).foldl (fun a k => (List.range 2624).foldl (fun a n => max a (sg k n)) a) 0
  shadowWrite true (F.PROOF_SIGMA_SIGMA c) (codeSigma worst) s

/-- A record that firmware fills from the measured record `l` of another set (R143): REF_I moved with the temperature, SYNTH = 1.
DESIGN CHOICE (log entry 64): a value beyond the field is clipped. -/
def synthRecord (set : Nat) (l : List Byte) : List Byte :=
  let term := rneQ (16 * (setTemp set - sgn 16 (leAt l 56 2))) 100
  let body := l.take 54 ++ natLe 1 (twos 8 (clipField 8 (recRef l + term))) ++ natLe 1 (leAt l 55 1 ||| 2) ++ (l.drop 56).take 4
  body ++ natLe 4 (crc32 body)

/-- The measured set nearest to a set, for one array (R143). DESIGN CHOICE (log entry 64): of two equally near, the lower. -/
def nearestSet (s : State) (c n set : Nat) : Option Nat :=
  let ok := fun k => let l := recBytes s c k n; recValid l && !bit (leAt l 55 1) 1
  let d := fun (k : Nat) => (k - set) + (set - k)
  ((List.range 4).filter ok).foldl (fun b k => match b with | some x => if d k < d x then some k else some x | none => some k) none

/-- Every set of a core that has not been measured is filled from the nearest measured one. -/
def fillSets (c : Nat) (s : State) : State :=
  let one := fun (k n : Nat) (s : State) =>
    match nearestSet s c n k with
    | some m => if m = k then s else putRecord c k n (synthRecord k (recBytes s c m n)) s
    | none => s
  upTo 4 (fun k s => upTo 2624 (one k) s) s

/-- After a full calibration with TARGET = 1. -/
def afterFull (c : Nat) (s : State) : State :=
  let d := drawFree s
  let b := Config.chkBand d.1
  writeSigma c (fillSets c (calWrite (F.CAL_CHK_BAND_PER_BLK c) (max 1 (b.2 % 16)) (calWrite (F.CAL_CHK_BAND_BASE c) (max 16 (b.1 % 256)) d.2)))

/-- CAL_CMD_DONE: the command in progress ends. DESIGN CHOICE (log entry 64): the writes of R129 follow OP = FULL only, and not OP = ARRAY,
which measures one array. -/
def execCalCmdDone (c : CoreIx) (s : State) : Host.Outcome State Fault Refusal :=
  match (core s c).calCmd with
  | none => .next s
  | some k =>
    .next (catchUp c s |> runCal c k |> setB (F.CAL_STATUS_CMD_BUSY c) false
      |> updCore c (fun q => { q with calCmd := none }) |> when (k.arr.isNone && k.target) (afterFull c))

/-- CAL_INTERP_ENABLE: a write that changes INTERP from 0 to 1. -/
def execCalInterpEnable (c : CoreIx) (s : State) : Host.Outcome State Fault Refusal :=
  .next (ifUp c (fun s => if flag s (F.CAL_CTL_INTERP c) then s else trigger c (setB (F.CAL_CTL_INTERP c) true s)) s)

/-! ### Tracking and drift monitor (R132, R138) -/

/-- Correction from the reference column (R132, SRC = 0). -/
def trackRef (c n : Nat) (k : CalSums) (s : State) : State :=
  let d := drawFree s
  let r := if k.sumRef = 0 then Config.convError d.1 else rneQ (1600 * (k.sumExp - 32 * k.sumRef)) (32 * k.sumRef)
  putCorr c n r (corrOfs s c n) d.2

/-- Correction from the statistics (R132, SRC = 1), with g = P / Q and sums in 1/8 LSB. -/
def trackSignal (c n : Nat) (k : CalSums) (s : State) : State :=
  let p := k.n * k.sED - k.sE * k.sD
  let q := k.n * k.sEE - k.sE * k.sE
  let d := drawFree s
  let r := if q = 0 || q + p = 0 then Config.convError d.1 else rneQ (-1600 * p) (q + p)
  let o := if q = 0 then Config.convError (d.1 + 1) else rneQ (-(q * k.sD - p * k.sE)) (q * k.n)
  updSums c n (fun k => { CalSums.zero with nRef := k.nRef, sumRef := k.sumRef, sumExp := k.sumExp })
    (putCorr c n (corrRef s c n + clipInt 8 r) (corrOfs s c n + clipInt 4 o) { d.2 with free := d.2.free + 1 })

/-- D of an array in 1/16 LSB, and whether it exceeds the limit (R138). -/
def driftD (s : State) (c : Nat) (k : CalSums) : Nat × Bool :=
  let a := (k.sumExp - 32 * k.sumRef).natAbs
  let e := k.sumExp.natAbs
  if e = 0 then
    let v := min (Config.openQuotient (2032 * a : Nat)).natAbs 0xFFF
    (v, decide (actv s (F.CAL_DMON_LIM_LIMIT c) < v))
  else (min (rneDiv (2032 * a : Nat) e).natAbs 0xFFF, decide (actv s (F.CAL_DMON_LIM_LIMIT c) * e < 2032 * a))

/-- The drift monitor on one array (R138). -/
def monitor (c n : Nat) (k : CalSums) (s : State) : State :=
  let d := driftD s c k
  let s1 := set (F.CAL_CORR_D_LAST c n) d.1 s
  let was := getBit s1 (F.CAL_RESTEEP_REQ c (n / 32)) (n % 32)
  let s2 := if d.2 then
      raise { src := 0x16, dom := c, node := c, addr := n }
        (when (!was) (bump (F.CAL_RESTEEP_REQ_CNT c)) (hwSet (F.CAL_RESTEEP_REQ c (n / 32)) (n % 32) s1))
    else s1
  updSums c n (fun k => { k with nRef := 0, sumRef := 0, sumExp := 0 }) s2

/-- The largest D of a period with its array. DESIGN CHOICE (log entry 64): arrays are ranked by D as it is written to D_LAST, the lower
array on a tie. -/
def worstOf (s : State) (c : Nat) (l : List (Nat × CalSums)) : Option (Nat × Nat) :=
  l.foldl (fun b p =>
    let d := (driftD s c p.2).1
    match b with
    | none => some (p.1, d)
    | some q => if q.2 < d then some (p.1, d) else b) none

/-- The end of a monitor period (R132, R138). DESIGN CHOICE (log entry 64): an array with no sample at all is not evaluated, also with
REF_MIN = 0 or MIN_N = 0; CAL_DMON_WORST keeps its value when no array has enough samples. -/
def periodEnd (c p : Nat) (s : State) : State :=
  let all := (core s c).sums
  let enough := all.filter fun x => decide (actv s (F.CAL_DMON_LIM_REF_MIN c) ≤ x.2.nRef) && x.2.nRef != 0
  let sig := all.filter fun x => decide (actv s (F.CAL_STAT_MIN_MIN_N c) ≤ x.2.n) && x.2.n != 0
  let s1 := if !actB s (F.CAL_CTL_TRACK_EN c) then s
    else if actB s (F.CAL_SRC_SRC c) then each sig (fun x => trackSignal c x.1 x.2) s
    else each enough (fun x => trackRef c x.1 x.2) s
  let s2 := if !actB s (F.CAL_CTL_DMON_EN c) then s1
    else
      let w := match worstOf s c enough with
        | some b => set (F.CAL_DMON_WORST_D c) b.2 (set (F.CAL_DMON_WORST_ARRAY c) b.1 s1)
        | none => s1
      set (F.CAL_DMON_NUM_NUM c) p (each enough (fun x => monitor c x.1 x.2) w)
  trigger c s2

/-- CAL_MONITOR_PERIOD_END: at the boundary that ends a monitor period (R138). -/
def execCalMonitorPeriodEnd (c : CoreIx) (s : State) : Host.Outcome State Fault Refusal :=
  let len := 2 ^ get s (F.CAL_CTL_DMON_LOG2 c)
  let k := get s F.TB_TICK_NUM_K
  if !coreUp s c || !flag s F.TB_STAT_TICK_ON || k % len ≠ 0 || k = 0 then .next s
  else .next (periodEnd c (k / len - 1) s)

/-! ### Store window (R140) -/

/-- SET_PAGE of an agent. -/
def calPage (s : State) (a : Agent) (c : Nat) : Nat :=
  let f := F.CAL_SET_PAGE_PAGE c
  match a with | .host => get s f | .mgmt => SMap.get f.reset s.regsM f.key

/-- CAL_STORE_WRITE: word `w` of the store window. -/
def execCalStoreWrite (a : Agent) (c : CoreIx) (w : BitVec 13) (v : Word) (s : State) : Host.Outcome State Fault Refusal :=
  .next (ifUp c (fun s =>
    if calRunning s c then calLocked c s
    else
      let at_ := calPage s a c * 0x8000 + 4 * w.toNat
      if 0xA4000 ≤ at_ then s
      else { s with mem := { s.mem with cal := wrBytes s.mem.cal (c.val * 2 ^ 20 + at_) (natLe 4 v.toNat) } }) s)

end Sys2Proof.Machine
end

