-- ==== Sys2Proof/Machine/Image.lean ====
section
/-! DEFINITION. Model images as bytes (R159, R161, R162; Tables 5.7 and 5.8). -/
namespace Sys2Proof.Machine

/-- Bytes of a golden record. -/
def recSize : Nat := 0x20000

/-- `n` bytes at an offset lie within a list of bytes. -/
def within (b : List Byte) (ofs n : Nat) : Bool := decide (ofs + n ≤ b.length)

/-- A part begins at an offset of the manifest and lies within it: 1 to 16 logical cores, of 640 bytes each after 64. -/
def partFits (man : List Byte) (o : Nat) : Bool :=
  let n := leAt man (o + 6) 2
  within man o 64 && decide (1 ≤ n) && decide (n ≤ 16) && within man o (64 + 640 * n)

/-- The used slots of a logical core of a part with their formats, ascending. -/
def partSlots (man : List Byte) (o l : Nat) : List (Nat × Bool) :=
  let used := o + 64 + 640 * l
  let has := fun (at_ s : Nat) => bit (leAt man (at_ + s / 8) 1) (s % 8)
  ((List.range 2560).filter (has used)).map fun s => (s, has (used + 320) s)

/-- Offsets in the manifest of `n` parts from offset `o` on; none where one runs past its end. -/
def partsOfs (man : List Byte) : Nat → Nat → Option (List Nat)
  | 0, _ => some []
  | n + 1, o => if partFits man o then (partsOfs man n (o + 64 + 640 * leAt man (o + 6) 2)).map fun l => o :: l else none

/-! ### Publisher, content key, chunks (R162) -/

/-- The publisher's chain and signature of an image: DER certificates, digest of what is signed, signature. -/
structure Signed where
  chain : List Byte
  digest : BitVec 384
  sig : Nat
  deriving DecidableEq, Repr

/-- The chain leads to an image root of the ownership record (R162). -/
def imageRoot (s : State) (g : Signed) : Bool :=
  match s.fw.own with
  | some o => (o.roots.take o.nImg.toNat).contains (Config.certRoot g.chain)
  | none => false

/-- The signature is one that the holder of the leaf's key makes of the digest (R162, R206). -/
def signatureOk (g : Signed) (nonce : BitVec 384) : Bool := g.sig == (Config.ecdsaSign (Config.certKey g.chain) g.digest nonce).toNat

/-- An entry of the key block: DEVICE_ID, EPK, WRAPPED (Table 5.8). -/
structure KeyEntry where
  dev : Nat
  epk : List Byte
  wrapped : Nat
  deriving DecidableEq, Repr

/-- ASCII "LM940 image KEK". -/
def kekInfo : List Byte := [0x4C, 0x4D, 0x39, 0x34, 0x30, 0x20, 0x69, 0x6D, 0x61, 0x67, 0x65, 0x20, 0x4B, 0x45, 0x4B]

/-- The content key unwraps from an entry under the key-encryption key (R162). -/
def unwraps (id : Nat) (e : KeyEntry) (key : BitVec 256) : Bool :=
  e.wrapped == (Config.aesWrap (Config.hkdf384 (Config.ecdh e.epk) (natLe 16 id) (kekInfo ++ natLe 16 e.dev)) key).toNat

/-- A chunk of an image: its index in the chunk table, ciphertext, PART and TAG. -/
structure Chunk where
  ix : Nat
  text : List Byte
  part : Nat
  tag : Nat
  deriving DecidableEq, Repr

/-- Nonce of a chunk: NONCE_PREFIX, then its index. -/
def chunkNonce (prefix_ : List Byte) (k : Chunk) : List Byte := prefix_ ++ natLe 8 k.ix

/-- The GCM tag of a chunk holds; the additional data are IMAGE_ID, index and PART. -/
def tagOk (id : Nat) (prefix_ : List Byte) (key : BitVec 256) (k : Chunk) : Bool :=
  k.tag == (Config.gcmTag key (chunkNonce prefix_ k) (natLe 16 id ++ natLe 8 k.ix ++ natLe 4 k.part) k.text).toNat

/-- Plaintext of a chunk. -/
def plainOf (prefix_ : List Byte) (key : BitVec 256) (k : Chunk) : List Byte :=
  k.text.zipIdx.map fun b => b.1 ^^^ Config.gcmStream key (chunkNonce prefix_ k) b.2

/-! ### Header and manifest -/

/-- An image as firmware reads it: what the model table keeps, and what the checks of Table 5.9 look at. -/
structure Parsed where
  img : Image
  minFw : Nat
  signed : Signed
  /-- SHA-384 of the chunk table equals CT_DIGEST. -/
  table : Bool
  keys : List KeyEntry
  /-- NONCE_PREFIX, and the chunks of the part. -/
  prefix_ : List Byte
  chunks : List Chunk
  deriving DecidableEq, Repr

/-- An entry of the chunk table: OFS, LEN, PART. -/
def chunkAt (b : List Byte) (ct i : Nat) : Nat × Nat × Nat := (leAt b (ct + 32 * i) 8, leAt b (ct + 32 * i + 8) 4, leAt b (ct + 32 * i + 12) 4)

/-- The chunks of a part belong to it and hold its records, 32 to a chunk. -/
def chunksOk (l : List (Nat × Nat × Nat)) (part recs : Nat) : Bool :=
  (l.all fun c => c.2.2 == part) && ((l.dropLast).all fun c => c.2.1 == 0x400000) && (l.map fun c => c.2.1).foldl (· + ·) 0 == recs * recSize

/-- The part that a command names, from the manifest. -/
def readPart (x : ImgIn) (man : List Byte) (o : Nat) : Image :=
  let core := fun l => { lcore := l, base := nth 0 (x.bases.map fun v => v.toNat) l, slots := partSlots man o l : ImgCore }
  { id := BitVec.ofNat 128 (leAt man 0 16), digest := Config.sha384 man, part := x.part, round := leAt man (o + 4) 1, rounds := leAt man (o + 5) 1
    cores := (List.range (leAt man (o + 6) 2)).map core, partDigest := BitVec.ofNat 384 (leAt man (o + 16) 48), dig := x.dig.toNat, src := x.src }

/-- Number of records of a part. -/
def recCount (g : Image) : Nat := (g.cores.map fun k => k.slots.length).foldl (· + ·) 0

/-- MAGIC, VERSION, and every offset and length of the header: none runs past the end of the image (R161). -/
def headOk (b : List Byte) : Bool :=
  let man := leAt b 16 4
  within b 0 256 && leAt b 0 4 == 0x49574D4C && leAt b 4 2 == 1 && within b (leAt b 8 8) man && decide (128 ≤ man) &&
    within b (leAt b 24 8) 96 && within b (leAt b 32 8) (leAt b 40 4) && within b (leAt b 48 8) (160 * leAt b 56 4) &&
    within b (leAt b 64 8) (32 * leAt b 72 4) && within b (leAt b 80 8) 0 && leAt b 80 8 % 4096 == 0 &&
    (List.range (leAt b 72 4)).all fun i => let c := chunkAt b (leAt b 64 8) i; within b c.1 c.2.1

/-- Check 1 of Table 5.9 and the fields behind it: none where MAGIC or VERSION is wrong, or an offset or length runs past the end. -/
def parseImage (x : ImgIn) : Option Parsed :=
  let b := x.bytes
  let man := (b.drop (leAt b 8 8)).take (leAt b 16 4)
  let ct := leAt b 64 8
  let total := leAt b 72 4
  match if headOk b then partsOfs man (leAt man 60 4) 128 else none with
  | none => none
  | some os =>
    match os[x.part]? with
    | none => none
    | some o =>
      let g := readPart x man o
      let first := leAt man (o + 8) 4
      let n := leAt man (o + 12) 4
      let key := fun (i : Nat) => let e := leAt b 48 8 + 160 * i
        { dev := leAt b e 16, epk := (b.drop (e + 16)).take 97, wrapped := leAt b (e + 120) 40 : KeyEntry }
      let chunk := fun (i : Nat) => let c := chunkAt b ct (first + i)
        { ix := first + i, text := (b.drop c.1).take c.2.1, part := c.2.2, tag := leAt b (ct + 32 * (first + i) + 16) 16 : Chunk }
      if (os.all fun o => decide (leAt man (o + 8) 4 + leAt man (o + 12) 4 ≤ total)) &&
          chunksOk ((List.range n).map fun i => chunkAt b ct (first + i)) x.part (recCount g) then
        some { img := g, minFw := leAt man 52 4
               signed := { chain := (b.drop (leAt b 32 8)).take (leAt b 40 4), digest := Config.sha384 man, sig := leAt b (leAt b 24 8) 96 }
               table := leAt man 64 48 == (Config.sha384 ((b.drop ct).take (32 * total))).toNat
               keys := (List.range (leAt b 56 4)).map key
               prefix_ := (man.drop 56).take 4, chunks := (List.range n).map chunk }
      else none

/-- Plaintext of the named part under a content key. -/
def imageText (p : Parsed) (key : BitVec 256) : List Byte := p.chunks.flatMap (plainOf p.prefix_ key)

/-- A golden record: logical core, slot, W2, byte address. -/
structure GRec where
  l : Nat
  slot : Nat
  w2 : Bool
  addr : Nat
  /-- Byte address of its slot digest in the digest table. -/
  dig : Nat
  deriving DecidableEq, Repr

/-- The records of a part, in ascending logical core and slot (R159, R162). The digest table holds 48 bytes for each of the 2,560 slots of
each logical core, in the same order (DESIGN CHOICE, log entry 64). -/
def records (g : Image) : List GRec :=
  g.cores.zipIdx.flatMap fun k => k.1.slots.map fun p =>
    { l := k.1.lcore, slot := p.1, w2 := p.2, addr := (k.1.base + p.1) * recSize, dig := g.dig + 48 * (2560 * k.2 + p.1) }

/-- The plaintext of record `i` of a part. -/
def recText (text : List Byte) (i : Nat) : List Byte := (text.drop (i * recSize)).take recSize

/-- Canonical slot header (R159). -/
def slotHdr (r : GRec) : Nat := r.l + r.slot * 2 ^ 16 + if r.w2 then 2 ^ 32 else 0

/-- Digest over the slot header and a record (R159). -/
def slotDigest (hdr : Nat) (rec : List Byte) : List Byte := natLe 48 (Config.sha384 (natLe 8 hdr ++ rec)).toNat

/-- Part digest of slot digests (R159). -/
def twoLevel (ds : List (List Byte)) : Nat := (Config.sha384 ds.flatten).toNat

/-- Every code is valid for its format (Table 5.6). -/
def codesOk (w2 : Bool) (bs : List Byte) : Bool :=
  let ok := fun (n : Nat) => if w2 then n == 0 || n == 1 || n == 15 else n != 8
  bs.all fun b => ok (b.toNat % 16) && ok (b.toNat / 16)

end Sys2Proof.Machine
end

