-- ==== Sys2Proof/Machine/Stack.lean ====
section
/-! DEFINITION. The stack controllers: reads, writes, merging, scrub and bank power (R244 to R259). -/
namespace Sys2Proof.Machine

/-- A stack's state beside its registers. -/
def stk (s : State) (n : Nat) : StkSt := SMap.get StkSt.reset s.stks n

/-- Changes a stack's state. -/
def updStk (n : Nat) (f : StkSt → StkSt) (s : State) : State :=
  { s with stks := SMap.put StkSt.reset s.stks n (f (stk s n)) }

/-- The stack is READY: requests are accepted (R258). -/
def stkReady (s : State) (n : Nat) : Bool := get s (F.STK_STAT_STATE n) == 3

/-- A request that reached its channel while the bank was ON is served, also while the bank is DRAINING (R254, Table 8.8). -/
def bankServes (s : State) (n b : Nat) (grace : Bool) : Bool := grace && (bankOn s n b || (stk s n).bank == some (b, false))

/-- An MC request lies within a VALID management window that permits it (R246). -/
def mwinHit (s : State) (n l : Nat) (wr : Bool) : Bool :=
  (List.range 4).any fun i =>
    let b := actv s (F.STK_MWIN_BASE n i) * 2048
    actB s (F.STK_MWIN_VALID n i) && decide (b ≤ l) && decide (l < b + actv s (F.STK_MWIN_SIZE n i) * 2048) &&
      (!wr || actB s (F.STK_MWIN_WR n i))

/-- Sets the poison mark of a line newly found uncorrectable, with the first capture (R248, R249): `kind` 0 read, 1 scrub,
2 read-modify-write; the bytes become free values. -/
def markUncorr (n l kind src : Nat) (s : State) : State :=
  let d := freeBytes 512 s
  let s1 := markLine l true (putStk (l * 512) d.1 d.2)
  let s2 := bump (F.STK_UNCORR_CNT n) s1
  if flag s2 (F.STK_ERR_LAST_VALID n) then s2 else
    s2 |> set (F.STK_ERR_LAST_LINE n) l |> set (F.STK_ERR_LAST_KIND n) kind |> set (F.STK_ERR_LAST_SRC n) src
       |> hwSet (F.STK_ERR_LAST_VALID n) 0 |> set (F.STK_ERR_TIME_TIME n) (now s2)

/-- The error a DRAM access of line `l` finds, an STK_SYM injection included (Table 14.6). -/
def stkErr (s : State) (l : Nat) (e : Ecc) : Ecc × Bool :=
  match s.flt.inj with
  | some j =>
    if j.active && j.kind == 3 && j.tgt % 2 ^ 30 == l then (if bit j.tgt 32 then (.uncorrectable, true) else (.corrected, true))
    else (e, false)
  | none => (e, false)

/-- What an access of line `l` by node `src` finds and does (R248, R389): `k` is the codeword of an uncorrectable error, or
one less than the number of corrected codewords. A marked line raises nothing. -/
def dramAccess (n l kind src access k : Nat) (e : Ecc) (s : State) : State :=
  let dom := lineDom l
  let f := stkErr s l e
  let s0 := when f.2 injApply s
  match f.1 with
  | .clean => s0
  | .corrected =>
    let s1 := bumpN (F.STK_CORR_CNT n) (if f.2 then 1 else k + 1) s0
    if pendHit s1 dom then
      raise { src := 1, dom := dom, access := access, node := src, addr := l, detail := k, esc := true }
        (if linePoison s1 l then s1 else markUncorr n l kind src s1)
    else raise { src := 1, dom := dom, access := access, node := src, addr := l, detail := k } (pendSet dom s1)
  | .uncorrectable =>
    if linePoison s0 l then s0
    else raise { src := 0x38, dom := dom, access := access, node := src, addr := l, detail := k } (markUncorr n l kind src s0)

/-- Node of a requester. -/
def rqNode (r : Requester) : Nat := match r with | .core c _ _ _ => c | .port p _ => fabNode p

/-- Answers reads of a line with its data, one packet for all of them (R250). -/
def replyRead (n l : Nat) (data : List Byte) (poison : Bool) (status : Nat) (rqs : List Requester)
    (s : State) : State :=
  inject (packet (stkNode n) (uniq (rqs.map rqNode)) (match rqs with | [.port _ _] => .bulk | _ => .rsp) poison none
    (.readData l data rqs status)) s

/-- Answers a write. -/
def replyWrite (n l : Nat) (r : Requester) (status : Nat) (s : State) : State :=
  inject (packet (stkNode n) [rqNode r] (match r with | .port _ _ => .bulk | _ => .rsp) false none (.writeAck l r status)) s

/-- A refused read returns its line POISONED (R245). -/
def refuseRead (n l : Nat) (r : Requester) (status : Nat) (s : State) : State :=
  let d := freeBytes 512 s
  replyRead n l d.1 true status [r] d.2

/-- The L1 event of a BANK_OFF refusal (R254). -/
def bankOffEvent (l src access : Nat) (s : State) : State :=
  raise { src := 0x39, dom := lineDom l, access := access, node := src, addr := l, detail := 0x14 } s

/-- A merge entry closes: its data leaves for every requester that waits for it (R250; log entry 29). -/
def closeMerge (n : Nat) (m : Merge) (s : State) : State :=
  when (!m.rqs.isEmpty) (replyRead n m.line m.data m.poison m.status (m.rqs.map fun r => r.2))
    (updStk n (fun k => { k with merges := k.merges.filter fun x => x.line != m.line }) s)

/-- Line of a waiting request. -/
def reqLine (p : Packet) : Nat := match p.body with | .readReq l _ _ => l | .writeReq l _ _ _ => l | _ => 0

/-- The requests that wait in the queues of a channel of a stack, in order of arrival. -/
def queued (s : State) (n ch : Nat) : List Packet :=
  s.mesh.filter fun p => p.arrived && p.pos == stkNode n && (reqChan p.body == some (ch, true) || reqChan p.body == some (ch, false))

/-- The requests of a kind that no earlier request to the same line precedes (R247). -/
def ready (q : List Packet) (ch : Nat) (wr : Bool) : List Packet :=
  (q.zipIdx.filter fun a => reqChan a.1.body == some (ch, wr) && !((q.take a.2).any fun b => reqLine b == reqLine a.1)).map fun a => a.1

/-- Slot of the round-robin of a channel's reads or writes. -/
def turnKey (ch : Nat) (wr : Bool) : Nat := 2 * ch + if wr then 1 else 0

/-- The request that a channel serves next: round-robin across source nodes, the oldest of its source (R243). -/
def nextReq (s : State) (n ch : Nat) (wr : Bool) : Option Packet :=
  let last := SMap.get 36 (stk s n).turn (turnKey ch wr)
  let gap := fun (p : Packet) => (p.src + 36 - last) % 37
  (ready (queued s n ch) ch wr).foldl (fun b p => match b with
    | some x => if gap p < gap x then some p else some x
    | none => some p) none

/-- The turn goes on to the nodes after `src`. -/
def tookTurn (n ch : Nat) (wr : Bool) (src : Nat) (s : State) : State :=
  updStk n (fun t => { t with turn := SMap.put 36 t.turn (turnKey ch wr) src }) s

/-- Removes a packet once. -/
def dropPacket (p : Packet) (s : State) : State := { s with mesh := s.mesh.erase p }

/-- A line at or above the end of the address space is refused and counted (R244). -/
def rangeRej (l : Nat) (s : State) : State := bump (F.STK_RANGE_REJ_CNT (lineStack l)) s

/-- The refusal of an access to a line of a bank that is not ON (R254). -/
def bankOffRej (l src access : Nat) (s : State) : State :=
  bankOffEvent l src access (bump (F.STK_BANKOFF_REJ_CNT (lineStack l)) s)

/-- A read that is performed: counted, its errors found (R248); the line's bytes and whether it is POISONED. -/
def performRead (n l src k : Nat) (e : Ecc) (s : State) : (List Byte × Bool) × State :=
  let marked := linePoison s l
  let s1 := dramAccess n l 0 src 0 k e (s |> bump (F.STK_RD_CNT n) |> when marked (bump (F.STK_POISON_RD_CNT n)))
  ((lineBytes s1 l, linePoison s1 l), s1)

/-- The open merge entry of a line (R250). -/
def mergeOf (s : State) (n l : Nat) : Option Merge := (stk s n).merges.find? fun m => m.line == l

/-- A performed full-line read opens a merge entry while the channel has one of its 16 left, and is otherwise counted (R250). -/
def openMerge (n l : Nat) (data : List Byte) (poison : Bool) (rqs : List (Nat × Requester)) (s : State) : Bool × State :=
  let inUse := ((stk s n).merges.filter fun m => lineChannel m.line == lineChannel l).length
  if 16 ≤ inUse then (false, bump (F.STK_MERGE_FULL_CNT n) s)
  else (true, updStk n (fun t => { t with merges := t.merges ++ [{ line := l, data := data, status := 0, poison := poison, rqs := rqs }] }) s)

/-- A controller performs a read of its queues (R247, R248, R250). -/
def serveRead (n l src k : Nat) (full grace : Bool) (e : Ecc) (rq : Requester) (s : State) : State :=
  if lineCount ≤ l then refuseRead n l rq 0x03 (rangeRej l s)
  else if !bankServes s n (lineBank l) grace then refuseRead n l rq 0x14 (bankOffRej l src 0 s)
  else
    let merging := actB s (F.STK_CTL_MERGE_EN n) && full
    match if merging then mergeOf s n l else none with
    | some m =>
      let add := fun (x : Merge) => if x.line == m.line then { x with rqs := x.rqs ++ [(src, rq)] } else x
      bump (F.STK_MERGE_CNT n) (when m.poison (bump (F.STK_POISON_RD_CNT n)) (updStk n (fun t => { t with merges := t.merges.map add }) s))
    | none =>
      let r := performRead n l src k e s
      let o := if merging then openMerge n l r.1.1 r.1.2 [(src, rq)] r.2 else (false, r.2)
      if o.1 then o.2 else replyRead n l r.1.1 r.1.2 0 [rq] o.2

/-- STACK_READ (R243, R247, R248, R250): controller `n` performs the next read of a channel. -/
def execStackRead (n : StackIx) (ch : Fin 32) (e : Ecc) (k : Fin 16) (s : State) : Host.Outcome State Fault Refusal :=
  if !stkReady s n then .next s
  else match nextReq s n ch false with
  | none => .next s
  | some p =>
    match p.body with
    | .readReq l rq full => .next (serveRead n l p.src k full p.grace e rq (tookTurn n ch false p.src (dropPacket p s)))
    | _ => .next s

/-- Does a write cover only part of a 32-byte codeword? -/
def partial32 (ofs len : Nat) : Bool := ofs % 32 != 0 || (ofs + len) % 32 != 0

/-- Performs a write (R247, R248): it closes the line's merge entry (R251), a write of all 512 bytes sets or clears the
mark, a masked one leaves or sets it. -/
def performWrite (n l ofs : Nat) (data : List Byte) (poison : Bool) (s : State) : State :=
  let s1 := match mergeOf s n l with
    | some m => closeMerge n m s
    | none => s
  let s2 := putStk (l * 512 + ofs) data (bump (F.STK_WR_CNT n) s1)
  if poison then markLine l true s2 else if data.length = 512 then markLine l false s2 else s2

/-- What a controller does with a write: its status (Table 12.5), 0 where it is performed. A write of part of a codeword reads it first
(R247, R248); in safe state it is refused (Table 14.4). -/
def doWrite (n l ofs src k : Nat) (serves poison : Bool) (e : Ecc) (data : List Byte) (s : State) : Nat × State :=
  if lineCount ≤ l then (0x03, rangeRej l s)
  else if inSafe s then (0x17, bump F.FLT_SAFE_WR_BLK_CNT s)
  else if !serves then (0x14, bankOffRej l src 1 s)
  else (0, performWrite n l ofs data poison (if partial32 ofs data.length then dramAccess n l 2 src 1 k e s else s))

/-- STACK_WRITE: controller `n` performs the next write of a channel. -/
def execStackWrite (n : StackIx) (ch : Fin 32) (e : Ecc) (k : Fin 16) (s : State) : Host.Outcome State Fault Refusal :=
  if !stkReady s n then .next s
  else match nextReq s n ch true with
  | none => .next s
  | some p =>
    match p.body with
    | .writeReq l ofs data rq =>
      let a := doWrite n l ofs p.src k (bankServes s n (lineBank l) p.grace) p.poison e data (tookTurn n ch true p.src (dropPacket p s))
      .next (replyWrite n l rq a.1 a.2)
    | _ => .next s

/-! ### Accesses of nodes that the model performs at once

Units of a core outside the tick program, the PCI node and the management core reach the stacks in one step; the requests that wait for the
line are served before (R247). -/

/-- The error that an access finds, and its codeword: an event from outside, so a free value for an access that no row of its own performs. -/
def foundError (s : State) : (Ecc × Nat) × State :=
  let d := drawFree s
  let v := Config.dramError d.1
  ((if v % 3 = 0 then .clean else if v % 3 = 1 then .corrected else .uncorrectable, v / 3 % 16), d.2)

/-- A waiting request is served before an access that the model performs at once. -/
def serveQueued (n : Nat) (p : Packet) (s : State) : State :=
  let f := foundError (dropPacket p s)
  match p.body with
  | .readReq l rq full => serveRead n l p.src f.1.2 full p.grace f.1.1 rq f.2
  | .writeReq l ofs data rq =>
    let a := doWrite n l ofs p.src f.1.2 (bankServes s n (lineBank l) p.grace) p.poison f.1.1 data f.2
    replyWrite n l rq a.1 a.2
  | _ => s

/-- A full queue holds the access in the mesh until its channel has served a request; the wait is counted (R247). -/
def queueWait (l : Nat) (wr : Bool) (s : State) : State :=
  let n := lineStack l
  if ((queued s n (lineChannel l)).filter fun p => reqChan p.body == some (lineChannel l, wr)).length < 64 then s
  else match nextReq s n (lineChannel l) wr with
    | some p => serveQueued n p (bump (if wr then F.STK_WRQ_STALL_CYC_CNT n else F.STK_RDQ_STALL_CYC_CNT n) s)
    | none => s

/-- An access of a node reaches the channel of its line: a core's read counts its wait for a tag (R243), the flit is counted on its way (R260),
and the requests that wait for the line are served before it, in their order (R247). Whether it arrives (R240). -/
def reachLine (src l : Nat) (wr : Bool) (s : State) : Bool × State :=
  let n := lineStack l
  let t := trip src (stkNode n) (when (!wr && decide (src < 20) && decide (256 ≤ (core s src).tags)) (bumpRtr src (F.RTR_CREDIT_STALL_CYC_CNT src)) s)
  if t.1 then
    let s1 := queueWait l wr t.2
    (true, each ((queued s1 n (lineChannel l)).filter fun p => reqLine p == l) (serveQueued n) s1)
  else t

/-- The answer goes back to the node, counted on its way. -/
def backTrip (src l : Nat) (s : State) : State := (trip (stkNode (lineStack l)) src s).2

/-- Bytes of a refused line, which is delivered POISONED (R245). -/
def refusedLine (status : Nat) (s : State) : (Nat × List Byte × Bool) × State :=
  let d := freeBytes 512 s
  ((status, d.1, true), d.2)

/-- A node reads a line, or, unless `full`, a part of it: status, bytes, and whether it is delivered POISONED. A full-line read joins or
opens a merge entry (R250). -/
def takeLineAt (src l : Nat) (full : Bool) (s : State) : (Nat × List Byte × Bool) × State :=
  let n := lineStack l
  if lineCount ≤ l then refusedLine 0x03 (rangeRej l s)
  else if !bankOn s n (lineBank l) then refusedLine 0x14 (bankOffRej l src 0 s)
  else
    let merging := actB s (F.STK_CTL_MERGE_EN n) && full
    match if merging then mergeOf s n l else none with
    | some m => ((0, m.data, m.poison), bump (F.STK_MERGE_CNT n) (when m.poison (bump (F.STK_POISON_RD_CNT n)) s))
    | none =>
      let f := foundError s
      let r := performRead n l src f.1.2 f.1.1 f.2
      ((0, r.1), if merging then (openMerge n l r.1.1 r.1.2 [] r.2).2 else r.2)

/-- The same with its way there and back; without a route it is refused with NO_ROUTE (R240). -/
def readLine (src l : Nat) (full : Bool) (s : State) : (Nat × List Byte × Bool) × State :=
  let t := reachLine src l false s
  if t.1 then
    let r := takeLineAt src l full t.2
    (r.1, backTrip src l r.2)
  else refusedLine 0x16 t.2

/-- A node writes bytes of a line: its status. -/
def writeLine (src l ofs : Nat) (data : List Byte) (poison : Bool) (s : State) : Nat × State :=
  let t := reachLine src l true s
  if t.1 then
    let f := foundError t.2
    let r := doWrite (lineStack l) l ofs src f.1.2 (bankOn f.2 (lineStack l) (lineBank l)) poison f.1.1 data f.2
    (r.1, backTrip src l r.2)
  else (0x16, t.2)

/-- Lines that `n` bytes from an address touch. -/
def linesOf (a n : Nat) : List Nat := (List.range ((a + n + 511) / 512 - a / 512)).map fun i => a / 512 + i

/-- A node reads lines: the first refused line with its status, the bytes, and whether a line was delivered POISONED. -/
def readLines (src : Nat) (full : Nat → Bool) : List Nat → State → (Option (Nat × Nat) × List Byte × Bool) × State
  | [], s => ((none, [], false), s)
  | l :: ls, s =>
    let r := readLine src l (full l) s
    let q := readLines src full ls r.2
    ((if r.1.1 = 0 then q.1.1 else some (l, r.1.1), r.1.2.1 ++ q.1.2.1, r.1.2.2 || q.1.2.2), q.2)

/-- A node reads `n` bytes from an address. -/
def readSpan (src a n : Nat) (s : State) : (Option (Nat × Nat) × List Byte × Bool) × State :=
  let r := readLines src (fun l => decide (a ≤ 512 * l) && decide (512 * l + 512 ≤ a + n)) (linesOf a n) s
  ((r.1.1, (r.1.2.1.drop (a % 512)).take n, r.1.2.2), r.2)

/-- The part of a write at address `a` that falls on a line: its offset there, and the bytes. -/
def partOn (a : Nat) (bs : List Byte) (l : Nat) : Nat × List Byte :=
  if 512 * l ≤ a then (a - 512 * l, bs.take (512 * (l + 1) - a)) else (0, (bs.drop (512 * l - a)).take 512)

/-- A node writes bytes from an address, line by line; the lines of `bad` carry POISONED. The first refused line with its status. -/
def writeLines (src a : Nat) (bs : List Byte) (bad : List Nat) : List Nat → State → Option (Nat × Nat) × State
  | [], s => (none, s)
  | l :: ls, s =>
    let p := partOn a bs l
    let r := writeLine src l p.1 p.2 (bad.contains l) s
    let q := writeLines src a bs bad ls r.2
    (if r.1 = 0 then q.1 else some (l, r.1), q.2)

/-- A node writes bytes from an address. -/
def writeSpan (src a : Nat) (bs : List Byte) (s : State) : Option (Nat × Nat) × State :=
  writeLines src a bs [] (linesOf a bs.length) s

/-! ### The PCI node's accesses on behalf of a function (R339) -/

/-- An access outside every aperture (R339). -/
def aperRej (f : Nat) (s : State) : State := hwSet (F.MBX_FN_APER_ERR f) 0 (bump F.GLB_APER_REJ_CNT s)

/-- One VALID aperture of a function covers `n` bytes of the stacks and permits the access. -/
def aperCovers (s : State) (f a n : Nat) (wr : Bool) : Bool :=
  (List.range 8).any fun i =>
    let lo := actv s (F.GLB_APER_BASE f i) * 2 ^ 20
    actB s (F.GLB_APER_VALID f i) && actB s (if wr then F.GLB_APER_WR f i else F.GLB_APER_RD f i) && decide (lo ≤ a) && decide (a + n ≤ lo + actv s (F.GLB_APER_SIZE f i) * 2 ^ 20)

/-- Data that firmware or the serving engine reads from host memory for a function goes into the stacks, within the function's apertures: 0, or the status
that the transfer fails with, BANK_OFF among them. DESIGN CHOICE (log entry 67): outside every aperture it fails with INVALID_ARG. -/
def dmaIn (f a : Nat) (bs : List Byte) (s : State) : Nat × State :=
  if !aperCovers s f a bs.length true then (3, aperRej f s)
  else
    let r := writeSpan 35 a bs (bumpN F.GLB_DMA_RD_BYTE_CNT bs.length s)
    (match r.1 with | some x => x.2 | none => 0, r.2)

/-! ### The management core's accesses (R37, R246) -/

/-- Every line of a range lies in a VALID management window that permits the access. -/
def mwinRange (s : State) (a n : Nat) (wr : Bool) : Bool := (linesOf a n).all fun l => mwinHit s (lineStack l) l wr

/-- An MC request outside its windows is refused and counted (R246). -/
def mwinRej (l : Nat) (s : State) : State := bump (F.STK_MWIN_REJ_CNT (lineStack l)) s

/-- The management core writes bytes, line by line; a line outside its windows is refused, and another refusal, BANK_OFF among them, completes
the write to firmware (R254). -/
def mcWrite (a : Nat) (bs : List Byte) (s : State) : State :=
  each (linesOf a bs.length) (fun l s =>
    let p := partOn a bs l
    if mwinHit s (lineStack l) l true then
      let r := writeLine 36 l p.1 p.2 false s
      when (r.1 != 0) (emit .mc .report [0x254, r.1, l]) r.2
    else mwinRej l s) s

/-- The management core reads lines: bytes, and whether one was delivered POISONED. -/
def mcLines : List Nat → State → (List Byte × Bool) × State
  | [], s => (([], false), s)
  | l :: ls, s =>
    let r := if mwinHit s (lineStack l) l false then readLine 36 l true s else refusedLine 0x03 (mwinRej l s)
    let q := mcLines ls r.2
    ((r.1.2.1 ++ q.1.1, r.1.2.2 || q.1.2), q.2)

/-- The management core reads `n` bytes from an address. -/
def mcRead (a n : Nat) (s : State) : (List Byte × Bool) × State :=
  let r := mcLines (linesOf a n) s
  (((r.1.1.drop (a % 512)).take n, r.1.2), r.2)

/-- The in-stack row clear of lines by the management core: zeros, and the marks cleared; an open merge entry closes (R251). -/
def mcClear (a n : Nat) (s : State) : State :=
  each (linesOf a n) (fun l s =>
    if mwinHit s (lineStack l) l true then
      let s1 := match mergeOf s (lineStack l) l with | some m => closeMerge (lineStack l) m s | none => s
      { s1 with mem := { s1.mem with stk := SMap.erase s1.mem.stk (512 * l) (512 * l + 512), stkPoison := NSet.del s1.mem.stkPoison l } }
    else mwinRej l s) s

/-- MERGE_WINDOW_CLOSE: 64 ns after the oldest open entry of a channel was made, it closes (R250). -/
def execMergeWindowClose (n : StackIx) (ch : Fin 32) (s : State) : Host.Outcome State Fault Refusal :=
  match (stk s n).merges.find? fun m => lineChannel m.line == ch.val with
  | some m => .next (closeMerge n m s)
  | none => .next s

/-- Lines of one stack. -/
def stackLines : Nat := 201326592

/-- SCRUB_READ: the patrol scrub reads the next line of a stack (R249); a line of a bank that is not ON is passed over. -/
def execScrubRead (n : StackIx) (e : Ecc) (k : Fin 16) (s : State) : Host.Outcome State Fault Refusal :=
  if !stkReady s n || !actB s (F.STK_CTL_SCRUB_EN n) then .next s
  else
    let l := 3 * (stk s n).scrub + n.val
    let s0 := updStk n (fun t => { t with scrub := (t.scrub + 1) % stackLines }) s
    if !bankOn s0 n (lineBank l) then .next s0
    else
      let s1 := bump (F.STK_SCRUB_LINE_CNT n) s0
      match e with
      | .clean => .next s1
      | .corrected => .next (bumpN (F.STK_CORR_CNT n) (k.val + 1) s1)
      | .uncorrectable =>
        if linePoison s1 l then .next s1
        else .next (raise { src := 0x1A, dom := lineDom l, access := 6, addr := l, detail := k } (markUncorr n l 1 0 s1))

/-! ### Bank power (R253 to R256) -/

/-- A bank command that is not accepted is counted (R253). -/
def bankRej (n : Nat) (s : State) : State := bump (F.STK_CMD_REJ_CNT n) s

/-- Requests in the queues of a bank. -/
def bankQueued (n b : Nat) (p : Packet) : Bool :=
  p.arrived && p.pos == stkNode n &&
    (match p.body with | .readReq l _ _ => lineBank l == b | .writeReq l _ _ _ => lineBank l == b | _ => false)

/-- A VALID region of a core, or a VALID window of the management core, holds a part of a bank index, which covers 4,608 MiB of the
package address space (R255). -/
def bankHeld (s : State) (b : Nat) : Bool :=
  let meets := fun (lo n : Nat) => decide (0 < n) && decide (lo < 4608 * (b + 1)) && decide (4608 * b < lo + n)
  (allCores.any fun c => (List.range 8).any fun i => actB s (F.RTR_REGION_VALID c i) && meets (actv s (F.RTR_REGION_BASE c i)) (actv s (F.RTR_REGION_SIZE c i))) ||
    (List.range 3).any fun n => (List.range 4).any fun i => actB s (F.STK_MWIN_VALID n i) && meets (actv s (F.STK_MWIN_BASE n i)) (actv s (F.STK_MWIN_SIZE n i))

/-- BANK_DOWN: STK_BANK_CMD with OP = DOWN, which firmware does not write while the bank index is held: it answers BUSY (R255). -/
def execBankDown (n : StackIx) (b : Fin 64) (s : State) : Host.Outcome State Fault Refusal :=
  .next (ifNet (fun s =>
    if bankHeld s b then emit .net .report [0x255, 0x02, n, b] s
    else if !bankOn s n b || (stk s n).bank.isSome then bankRej n s
    else
      s |> setBit (F.STK_BANK_ON_ON n) b false |> setBit (F.STK_BANK_BUSY_BUSY n) b true
        |> updStk n (fun t => { t with bank := some (b.val, false) })) s)

/-- BANK_UP: STK_BANK_CMD with OP = UP. -/
def execBankUp (n : StackIx) (b : Fin 64) (s : State) : Host.Outcome State Fault Refusal :=
  .next (ifNet (fun s =>
    if bankOn s n b || (stk s n).bank.isSome then bankRej n s
    else s |> setBit (F.STK_BANK_BUSY_BUSY n) b true |> updStk n (fun t => { t with bank := some (b.val, true) })) s)

/-- The bytes of a bank of one stack are lost. -/
def loseBank (n b : Nat) (s : State) : State :=
  let inB := fun l => lineStack l == n && lineBank l == b
  { s with mem := { s.mem with
      stk := s.mem.stk.filter fun p => !inB (p.1 / 512), stkPoison := s.mem.stkPoison.filter fun l => !inB l } }

/-- A request still queued when the 10 µs drain limit passes (R254). -/
def drainRefuse (n : Nat) (p : Packet) (s : State) : State :=
  match p.body with
  | .readReq l rq _ =>
    refuseRead n l rq 0x14 (bankOffRej l p.src 0 (dropPacket p s))
  | .writeReq l _ _ rq =>
    replyWrite n l rq 0x14 (bankOffEvent l p.src 1 (bump (F.STK_DRAIN_TMO_CNT n) (dropPacket p s)))
  | _ => s

/-- BANK_DRAIN_END: the draining bank becomes OFF; what its queues still hold is refused. -/
def execBankDrainEnd (n : StackIx) (s : State) : Host.Outcome State Fault Refusal :=
  match (stk s n).bank with
  | some (b, false) =>
    let rest := s.mesh.filter fun p => bankQueued n b p && p.grace
    .next (s |> each rest (drainRefuse n) |> loseBank n b |> setBit (F.STK_BANK_BUSY_BUSY n) b false
      |> updStk n (fun t => { t with bank := none }))
  | _ => .next s

/-- BANK_WAKE_END: the waking bank has been row-cleared and is ON. -/
def execBankWakeEnd (n : StackIx) (s : State) : Host.Outcome State Fault Refusal :=
  match (stk s n).bank with
  | some (b, true) =>
    .next (s |> loseBank n b |> setBit (F.STK_BANK_BUSY_BUSY n) b false |> setBit (F.STK_BANK_ON_ON n) b true
      |> updStk n (fun t => { t with bank := none }))
  | _ => .next s

end Sys2Proof.Machine
end

