-- ==== Sys2Proof/Machine/Proof.lean ====
section
/-! DEFINITION. The proof unit: golden lines, the exact values and the judgement (R111 to R114, R131). -/
namespace Sys2Proof.Machine

/-- Weight code of a golden record (R159, Table 5.6): two's complement of 4 bits, row `i`, column `j`. -/
def goldCode (rec : List Byte) (i j : Nat) : Int :=
  let b := (rec.getD (128 * i + j / 2) 0).toNat
  (BitVec.ofNat 4 (b / 16 ^ (j % 2))).toInt

/-- Stack address of the golden record of a slot (R112). -/
def goldAddr (s : State) (c slot : Nat) : Nat := (get s (F.PROOF_GOLD_BASE_BASE c) + slot) * 0x20000

/-- The planes of a captured firing that were converted (R53). -/
def entryPlanes (e : ProofEntry) : List Nat :=
  let rows := driven e.a4 e.row
  (List.range (planes e.a4)).filter fun p => rows.any fun r => bit r.2.2 p

/-- The proof of an entry gives signal samples (R131): a normal main firing, with CAL_SRC = 1. -/
def givesSamples (s : State) (c : Nat) (e : ProofEntry) : Bool := !e.fine && !e.leaven && actB s (F.CAL_SRC_SRC c)

/-- An entry is abandoned at its first POISONED golden line (R112); its column-planes are counted as excluded (R131). -/
def proofPoison (c line : Nat) (e : ProofEntry) (s : State) : State :=
  raise { src := 0x13, dom := c, access := 0, node := c, addr := line, detail := 0 }
    (bumpN (F.CAL_STAT_EXCL_CNT c) (if givesSamples s c e then 256 * (entryPlanes e).length else 0) (bump (F.PROOF_SKIP_POISON_CNT c) s))

/-- Line `i` of an entry arrives: kept, or, when POISONED, the entry is freed. -/
def takeLine (e : ProofEntry) (i : Nat) (bs : List Byte) : ProofEntry :=
  { e with gold := (e.gold.filter fun p => p.1 != i) ++ [(i, bs)] }

/-- The golden record of an entry has arrived whole. -/
def goldFull (e : ProofEntry) : Bool := decide (e.gold.length = 256)

/-- PROOF_GOLD_LINE: line `i` of the golden record arrives for the computing entry, or, when `second`, for the waiting one.
A line outside the core's regions comes back POISONED and is counted (R245). -/
def execProofGoldLine (c : CoreIx) (second : Bool) (i : BitVec 8) (s : State) : Host.Outcome State Fault Refusal :=
  let k := core s c
  let e? := if second then k.waiting else k.computing
  match e? with
  | none => .next s
  | some e =>
    let l := goldAddr s c e.slot / 512 + i.toNat
    let d := if e.regionOk then readLine c l true s else refusedLine 0x03 (regionRej c s)
    let put := fun (e' : Option ProofEntry) (k : CoreSt) => if second then { k with waiting := e' } else { k with computing := e' }
    if d.1.2.2 then .next (updCore c (put none) (proofPoison c l e d.2))
    else .next (updCore c (put (some (takeLine e i.toNat d.1.2.1))) d.2)

/-- PROOF_START: the waiting entry starts computing once the computing entry is free and its record has arrived (R112). -/
def execProofStart (c : CoreIx) (s : State) : Host.Outcome State Fault Refusal :=
  let k := core s c
  match k.computing, k.waiting with
  | none, some e => .next (if goldFull e then updCore c (fun k => { k with computing := some e, waiting := none }) s else s)
  | _, _ => .next s

/-- The record's bytes in order. -/
def goldBytes (e : ProofEntry) : List Byte :=
  (List.range 256).flatMap fun i => match e.gold.find? (fun p => p.1 == i) with | some p => p.2 | none => []

/-- Exact value of a column (R113) over a set of rows and planes, times 8 product units. -/
def exactSum (e : ProofEntry) (rec : List Byte) (j : Nat) (rows : List (Nat × Bool × Nat)) (mag : Nat → Nat) : Int :=
  (rows.map fun r =>
    let w := goldCode rec r.1 j * ((mag r.2.2 * 2 ^ (3 - nth 0 e.shifts (r.1 / 128)) : Nat) : Int)
    if r.2.1 then -w else w).foldl (· + ·) 0

/-- LSB of the entry's RANGE in product units. -/
def entryLsb (e : ProofEntry) : Nat := 2 ^ (e.range + 1)

/-- Shift-added codes of a captured firing. -/
def entryP (e : ProofEntry) : List (List Int) :=
  if e.fine then e.codes
  else [e.codes.zipIdx.foldl (fun a p => (a.zip p.1).map fun x => x.1 + 2 ^ p.2 * x.2) (List.replicate 256 0)]

/-- Errors e_j = P_j - E_j of a proof in 1/8 LSB, over columns, or groups and columns (R113). -/
def proofErrors (e : ProofEntry) : List Int :=
  let rec_ := goldBytes e
  let rows := driven e.a4 e.row
  let err := fun (p : Int) (rs : List (Nat × Bool × Nat)) (j : Nat) =>
    8 * p - rneDiv (exactSum e rec_ j rs (fun m => m)) (entryLsb e)
  if e.fine then
    (List.range 32).flatMap fun g =>
      let rs := rows.filter fun r => r.1 / 32 == g
      (List.range 256).map fun j => err (nth 0 (nth [] e.codes g) j) rs j
  else (List.range 256).map fun j => err (nth 0 (nth [] (entryP e) 0) j) rows j

/-- |e| exceeds `g` times the band B = 3 σ + 1 LSB, with σ = SIGMA / 256 × sqrt(Σ 4^p) (R113): decided on squares. -/
def exceeds (sigma planes_ g : Nat) (e8 : Int) : Bool :=
  let q := if planes_ = 3 then 21 else 1
  let x := e8.natAbs
  decide (8 * g < x) && decide (9 * (sigma * g) ^ 2 * q < ((x - 8 * g) * 32) ^ 2)

/-- A value that 0 stands for. -/
def orOne (v : Nat) : Nat := if v = 0 then 1 else v

/-- Judgement of a proof (R114): columns beyond the band, a gross hit, a miss. -/
def judge (s : State) (c : Nat) (e : ProofEntry) (errs : List Int) : Nat × Bool × Bool :=
  let sig := actv s (F.PROOF_SIGMA_SIGMA c)
  let n := (errs.filter fun x => exceeds sig (planes e.a4) 1 x).length
  let gross := errs.any fun x => exceeds sig (planes e.a4) (orOne (actv s (F.PROOF_CTL_GROSS c))) x
  let lim := orOne (actv s (F.PROOF_CTL_MISS_COLS c)) * (if e.fine then 32 else 1)
  (n, gross, decide (lim ≤ n) || gross)

/-- Adds a column-plane pair to the statistics (R131): ε in 1/8 LSB, d = c - ε. -/
def addPair (k : CalSums) (eps d : Int) : CalSums :=
  { k with n := k.n + 1, sE := k.sE + eps, sD := k.sD + d, sED := k.sED + eps * d, sEE := k.sEE + eps * eps }

/-- Signal samples of a completed proof that did not miss (R131): normal main firings, with CAL_SRC = 1. Sums are kept in
1/8 LSB. -/
def signalSample (c : Nat) (e : ProofEntry) (s : State) : State :=
  if !givesSamples s c e then s
  else
    let rec_ := goldBytes e
    let rows := driven e.a4 e.row
    let pairs := (entryPlanes e).flatMap fun p => (nth [] e.codes p).zipIdx.map fun x =>
      (x.1, rneDiv (exactSum e rec_ x.2 rows (fun m => m / 2 ^ p % 2)) (entryLsb e))
    let good := pairs.filter fun x => !e.flagged && x.1.natAbs != 127
    let k := good.foldl (fun k x => addPair k x.2 (8 * x.1 - x.2)) (SMap.get CalSums.zero (core s c).sums e.arr)
    bumpN (F.CAL_STAT_EXCL_CNT c) (pairs.length - good.length)
      (updCore c (fun q => { q with sums := SMap.put CalSums.zero q.sums e.arr k }) s)

/-- Writes PROOF_LAST and PROOF_LAST_TIME (Table 3.18). DESIGN CHOICE (log entry 67): EXCEED keeps a count of 8,192, which a fine-scale
proof can reach, modulo 2^13; the spec does not say. -/
def proofLast (c : Nat) (e : ProofEntry) (errs : List Int) (j : Nat × Bool × Bool) (s : State) : State :=
  let worst := errs.foldl (fun m x => max m x.natAbs) 0
  s |> set (F.PROOF_LAST_SLOT c) e.slot |> set (F.PROOF_LAST_ARRAY c) e.arr |> setB (F.PROOF_LAST_FINE c) e.fine
    |> setB (F.PROOF_LAST_LEAVEN c) e.leaven |> setB (F.PROOF_LAST_MISS c) j.2.2 |> setB (F.PROOF_LAST_GROSS_HIT c) j.2.1
    |> set (F.PROOF_LAST_EXCEED c) j.1 |> set (F.PROOF_LAST_WORST c) (min worst 0x7FFF) |> set (F.PROOF_LAST_RI c) e.ri
    |> set (F.PROOF_LAST_TIME_TIME c) e.time |> bump (F.PROOF_RUN_CNT c)

/-- Completes the proof of an entry (R114). -/
def completeProof (c : Nat) (e : ProofEntry) (s : State) : State :=
  let errs := proofErrors e
  let j := judge s c e errs
  let s1 := proofLast c e errs j s
  if j.2.2 then
    let d := e.slot + e.ri * 2 ^ 16
    s1 |> hwSet (F.ARR_STAT_PROOF_MISS c e.arr) 0 |> setB (F.ARR_STAT_SUSPECT c e.arr) true |> bump (F.PROOF_MISS_CNT c)
       |> layerFlag c e.ri 2 |> raise { src := 0x12, dom := c, access := 2, node := c, addr := e.arr, detail := d }
  else signalSample c e s1

/-- PROOF_COMPLETE: the computing entry's proof ends. -/
def execProofComplete (c : CoreIx) (s : State) : Host.Outcome State Fault Refusal :=
  match (core s c).computing with
  | none => .next s
  | some e =>
    if !goldFull e then .next s
    else .next (completeProof c e (updCore c (fun k => { k with computing := none }) s))

end Sys2Proof.Machine
end

