-- ==== Sys2Proof/Machine/Steep.lean ====
section
/-! DEFINITION. The steep engine: batches, STEEP, ERASE and READBACK (R146 to R155). -/
namespace Sys2Proof.Machine

/-! ### Stack accesses of a unit of a core outside the tick program (R245) -/

/-- What a unit's read of a line returns: status, bytes and whether it is delivered POISONED; a refusal of the region check is
counted (R245). -/
def unitLine (c l : Nat) (s : State) : (Nat × List Byte × Bool) × State :=
  if regionOk s c l false then readLine c l true s else refusedLine 0x03 (regionRej c s)

/-- Without the status. -/
def unitRead (c l : Nat) (s : State) : (List Byte × Bool) × State :=
  let r := unitLine c l s
  ((r.1.2.1, r.1.2.2), r.2)

/-- A unit writes bytes at a byte address within one line; a refused write is not performed. -/
def unitWrite (c a : Nat) (bs : List Byte) (s : State) : State :=
  let l := a / 512
  if regionOk s c l true then (writeLine c l (a % 512) bs false s).2 else regionRej c s

/-- Reads `n` lines from a byte address: bytes, whether any was POISONED. -/
def unitReads (c a : Nat) : Nat → State → (List Byte × Bool) × State
  | 0, s => (([], false), s)
  | n + 1, s =>
    let r := unitRead c (a / 512) s
    let q := unitReads c (a + 512) n r.2
    ((r.1.1 ++ q.1.1, r.1.2 || q.1.2), q.2)

/-! ### Issue (R146) -/

/-- CORE_CTL_STEEP_STAT shows the two places. -/
def showBusy (c : Nat) (s : State) : State :=
  s |> setB (F.CORE_CTL_STEEP_STAT_RUN_BUSY c) (core s c).running.isSome
    |> setB (F.CORE_CTL_STEEP_STAT_PEND_BUSY c) (core s c).pend.isSome

/-- The arrays that the STEEP and ERASE entries of a list in the stacks name, by their numbers over all cores; firmware has written the list
and knows it. -/
def namedArrays (s : State) (c list count : Nat) : List Nat :=
  (List.range count).filterMap fun i =>
    let n := leNat (getStk s (list + 32 * i) 2)
    let op := leNat (getStk s (list + 32 * i + 2) 1)
    if (op == 1 || op == 2) && decide (n < 2624) then some (c * 2624 + n) else none

/-- Firmware's batch-open record names the arrays before the batch is issued (R156). -/
def openRec (l : List Nat) (s : State) : State :=
  { s with fw := { s.fw with openBatch := s.fw.openBatch ++ [(s.fw.batchNo, l)], batchNo := s.fw.batchNo + 1 } }

/-- A write of COUNT to CORE_CTL_STEEP_GO. -/
def steepGo (c count : Nat) (s : State) : State :=
  let last := fun v s => set (F.CORE_CTL_STEEP_STAT_LAST c) v s
  let k := core s c
  if !coreUp s c then last 0x12 s
  else if count = 0 || 64 < count then last 0x03 s
  else if k.running.isSome && k.pend.isSome then last 0x02 s
  else
    let list := 32 * get s (F.CORE_CTL_STEEP_LIST_ADDR c)
    let b : Batch := { count := count, list := list, res := 64 * get s (F.CORE_CTL_STEEP_RES_ADDR c), jid := s.fw.batchNo
                       started := false, entries := [], startTick := 0 }
    let put := fun (k : CoreSt) => if k.running.isSome then { k with pend := some b } else { k with running := some b }
    last 0 (showBusy c (updCore c put (openRec (namedArrays s c list count) s)))

/-- STEEP_GO. -/
def execSteepGo (c : CoreIx) (count : BitVec 7) (s : State) : Host.Outcome State Fault Refusal :=
  .next (steepGo c count.toNat s)

/-! ### Start of a batch (R147 to R149, R153) -/

/-- Entry `i` of a list as read; one whose line is delivered POISONED ends with POISONED. -/
def readEntry (c list i : Nat) (s : State) : StEntry × State :=
  let a := list + 32 * i
  let r := unitRead c (a / 512) s
  let e := (r.1.1.drop (a % 512)).take 32
  let m := leAt e 3 1
  ({ arr := leAt e 0 2, op := leAt e 2 1, w2 := bit m 0, lc := bit m 1, gold := leAt e 8 8, hdr := leAt e 16 8, prev := 0
     status := if r.1.2 then some 0x17 else none, data := [], exc := false, intr := false }, r.2)

/-- Reads the entries of a list. -/
def readEntries (c list : Nat) : List Nat → State → List StEntry × State
  | [], s => ([], s)
  | i :: is, s =>
    let r := readEntry c list i s
    let q := readEntries c list is r.2
    (r.1 :: q.1, q.2)

/-- R148: the entry is refused. -/
def stRefused (s : State) (c : Nat) (es : List StEntry) (e : StEntry) : Bool :=
  let st := arrState s c e.arr
  !(e.op == 1 || e.op == 2 || e.op == 3) || decide (2624 ≤ e.arr) ||
    decide (1 < (es.filter fun x => x.arr == e.arr).length) || (e.op != 2 && e.gold % 0x20000 != 0) ||
    (if e.op = 3 then st != 4 && st != 3
     else st == 0 || st == 2 || (st == 5 && !(e.op == 2 && e.lc)) || actv s (F.ARR_CTL_SLOT c e.arr) != 0xFFF)

/-- The last valid sample of the core lies within 25.0 to 85.0 °C (R153). Before the first one T_NOW reads 0, which is
outside. -/
def steepTemp (s : State) (c : Nat) : Bool :=
  decide (200 ≤ geti s (F.CAL_TEMP_T_NOW c)) && decide (geti s (F.CAL_TEMP_T_NOW c) ≤ 680)

/-- The entry with its acceptance decided. -/
def acceptEntry (s : State) (c : Nat) (es : List StEntry) (e : StEntry) : StEntry :=
  if e.status.isSome then e
  else if stRefused s c es e then { e with status := some 0x03 }
  else if e.op != 3 && !steepTemp s c then { e with status := some 0x31 }
  else { e with prev := arrState s c e.arr }

/-- The golden records of the accepted STEEP entries are read; one that meets a POISONED line ends with POISONED, its array as it was
(Table 5.3). -/
def readGolds (c : Nat) : List StEntry → State → List StEntry × State
  | [], s => ([], s)
  | e :: es, s =>
    let r := if e.status.isNone && e.op == 1 then unitReads c e.gold 256 s else (([], false), s)
    let q := readGolds c es r.2
    ({ e with data := r.1.1, status := if r.1.2 then some 0x17 else e.status } :: q.1, q.2)

/-- The batch of a core starts (R147 to R149): acceptance, golden records, and the arrays enter STEEPING. -/
def startBatch (c : Nat) (b : Batch) (s : State) : State :=
  let r := readEntries c b.list (List.range b.count) s
  let g := readGolds c (r.1.map (acceptEntry r.2 c r.1)) r.2
  let writes := g.1.filter fun e => e.status.isNone && e.op != 3
  let b1 := { b with started := true, entries := g.1, startTick := get s F.TB_TICK_NUM_K }
  each writes (fun e s => setArr c e.arr 2 s) (updCore c (fun k => { k with running := some b1 }) g.2)

/-- BATCH_START: the batch in the running place starts. -/
def execBatchStart (c : CoreIx) (s : State) : Host.Outcome State Fault Refusal :=
  match (core s c).running with
  | none => .next s
  | some b => if b.started then .next s else .next (startBatch c b s)

/-! ### End of a batch (R150, R151) -/

/-- The batch-close record (R156): a cycle for each array with CYCLE, and the time of a steep (R155). `spent` lists arrays, and whether
they were steeped. -/
def closeRec (jid : Nat) (spent : List (Nat × Bool)) (s : State) : State :=
  { s with fw := { s.fw with
    openBatch := s.fw.openBatch.filter fun r => r.1 != jid
    cycles := spent.foldl (fun m a => SMap.put 0 m a.1 (SMap.get 0 m a.1 + 1)) s.fw.cycles
    steepAt := (spent.filter fun a => a.2).foldl (fun m a => SMap.put 0 m a.1 (now s)) s.fw.steepAt }
           phys := { s.phys with steepAt := (spent.filter fun a => a.2).foldl (fun m a => SMap.put 0 m a.1 (age s + 1)) s.phys.steepAt } }

/-- An array, by its number over all cores, is steeped now: relaxation counts from here (R83). -/
def steepedNow (a : Nat) (s : State) : State := updPhys (fun k => { k with steepAt := SMap.put 0 k.steepAt a (age s + 1) }) s

/-- First byte of the cells of an array in `mem.wts`. -/
def cellBase (c n : Nat) : Nat := (c * 2624 + n) * 2 ^ 18

/-- Returns every cell of an array to L0. -/
def eraseCells (c n : Nat) (s : State) : State :=
  setUndef c n false { s with mem := { s.mem with wts := SMap.erase s.mem.wts (cellBase c n) (cellBase c n + 2 ^ 18) } }

/-- Programs an array with a record; a W2 code of ±1 is a difference of ±7 level steps (R49). -/
def programCells (c n : Nat) (w2 : Bool) (rec : List Byte) (s : State) : State :=
  let lvl := fun (v : Int) => if w2 then 7 * v else v
  let bs := (List.range 1024).flatMap fun i => (List.range 256).map fun j => BitVec.ofInt 8 (lvl (goldCode rec i j))
  setUndef c n false { s with mem := { s.mem with wts := wrBytes s.mem.wts (cellBase c n) bs } }

/-- Code that a readback decides for a cell pair (Table 5.4). -/
def senseCode (s : State) (c n i j : Nat) (w2 : Bool) : Int :=
  let v := cell s c n i j
  if w2 then (if 4 ≤ v then 1 else if v ≤ -4 then -1 else 0) else clipInt 7 v

/-- The record of 128 KiB that the codes of an array make. -/
def sensedRecord (s : State) (c n : Nat) (w2 : Bool) : List Byte :=
  (List.range 1024).flatMap fun i => (List.range 128).map fun k =>
    BitVec.ofNat 8 (twos 4 (senseCode s c n i (2 * k) w2) + 16 * twos 4 (senseCode s c n i (2 * k + 1) w2))

/-- Cell pairs whose codes differ between two records. -/
def codeDiffs (a b : List Byte) : Nat :=
  ((a.zip b).map fun p => (if p.1.toNat % 16 = p.2.toNat % 16 then 0 else 1) +
    (if p.1.toNat / 16 = p.2.toNat / 16 then 0 else 1)).foldl (fun x y => x + y) 0

/-- The calibration engine clears an array's corrections and sums (R139); a pass has written before what it reached (R135). -/
def forgetCal (c n : Nat) (s : State) : State :=
  updCore c (fun k => { k with sums := SMap.put CalSums.zero k.sums n CalSums.zero }) (clearCorr c n (catchUp c s))

/-- The state change of an array (R150): at the next boundary while the core runs a tick program, else at once. -/
def changeArr (c n st : Nat) (s : State) : State :=
  if coreRuns s c then updCore c (fun k => { k with stPend := k.stPend ++ [(n, st)] }) s
  else forgetCal c n (setArr c n st s)

/-- A result of 64 bytes (Table 5.2). -/
def resultBytes (e : StEntry) (status flags iter mism chk : Nat) (digest : List Byte) : List Byte :=
  natLe 2 e.arr ++ natLe 1 status ++ natLe 1 flags ++ natLe 2 iter ++ natLe 2 mism ++ natLe 2 chk ++ zeros 6 ++
    digest.take 48

/-- What the physical cells decided for a batch: which entries failed verify, and which of the readbacks whose arrays fired were
interrupted before they had sensed every row. -/
structure Verdict where
  fail : Nat
  intr : Nat
  deriving DecidableEq, Repr

/-- FLAGS of an entry that spent a cycle: CYCLE, TEMP_EXC. -/
def spentFlags (e : StEntry) : Nat := 1 + if e.exc then 2 else 0

/-- An OK entry with TEMP_EXC asks for a re-steep (R153, R170). -/
def excAsks (c : Nat) (e : StEntry) (s : State) : State :=
  if e.exc then { s with fw := { s.fw with asks := NSet.add s.fw.asks (c * 2624 + e.arr) } } else s

/-- Ends a STEEP entry (R150). -/
def endSteep (c i : Nat) (v : Verdict) (e : StEntry) (s : State) : List Byte × State :=
  let d := drawFree s
  let chk := Config.measured d.1 2 % 65536
  if bit v.fail i then
    let g := freeBytes 48 (changeArr c e.arr 1 (eraseCells c e.arr d.2))
    (resultBytes e 0x33 (spentFlags e) (Config.measured d.1 0 % 25) (Config.measured d.1 1 % 65536) chk g.1, g.2)
  else
    let s1 := d.2 |> programCells c e.arr e.w2 e.data |> shadowHw (F.ARR_CTL_FMT c e.arr) (if e.w2 then 1 else 0)
      |> changeArr c e.arr 4 |> excAsks c e
    (resultBytes e 0 (spentFlags e) (Config.measured d.1 0 % 25) 0 chk (slotDigest e.hdr (sensedRecord s1 c e.arr e.w2)), s1)

/-- Ends an ERASE entry; a retired array stays retired (R151). -/
def endErase (c i : Nat) (v : Verdict) (e : StEntry) (s : State) : List Byte × State :=
  let d := drawFree s
  let st := if e.prev = 5 then 5 else 1
  let s1 := changeArr c e.arr st (eraseCells c e.arr d.2)
  if bit v.fail i then
    (resultBytes e 0x33 (spentFlags e) 0 (Config.measured d.1 1 % 65536) 0 (zeros 48), setUndef c e.arr true s1)
  else (resultBytes e 0 (spentFlags e) 0 0 0 (zeros 48), s1)

/-- INTERRUPTED in FLAGS (Table 5.2). -/
def intrFlag (b : Bool) : Nat := if b then 4 else 0

/-- Ends a READBACK entry. -/
def endReadback (c i : Nat) (v : Verdict) (e : StEntry) (s : State) : List Byte × State :=
  let r := unitReads c e.gold 256 s
  let d := drawFree r.2
  let flags := intrFlag (e.intr && bit v.intr i)
  if r.1.2 then
    let g := freeBytes 48 d.2
    (resultBytes e 0x17 flags 0 0 0 g.1, g.2)
  else
    let rec_ := sensedRecord d.2 c e.arr e.w2
    (resultBytes e 0 flags 0 (min (codeDiffs rec_ r.1.1) 0xFFFF) (Config.measured d.1 2 % 65536) (slotDigest e.hdr rec_), d.2)

/-- Ends one entry of a batch and gives its result. An entry that ended BUSY was interrupted (R151). -/
def endEntry (c i : Nat) (v : Verdict) (e : StEntry) (s : State) : List Byte × State :=
  match e.status with
  | some st =>
    if e.op = 2 then (resultBytes e st 0 0 0 0 (zeros 48), s)
    else
      let g := freeBytes 48 s
      (resultBytes e st (intrFlag (st == 2 && e.intr)) 0 0 0 g.1, g.2)
  | none => if e.op = 1 then endSteep c i v e s else if e.op = 2 then endErase c i v e s else endReadback c i v e s

/-- The batch ends: results, the close record, the pending batch moves up, DONE_SEQ, and the interrupt (Table 6.21). -/
def endBatch (c : Nat) (v : Verdict) (b : Batch) (s : State) : State :=
  let one := fun (p : StEntry × Nat) (s : State) =>
    let r := endEntry c p.2 v p.1 s
    unitWrite c (b.res + 64 * p.2) r.1 r.2
  let spent := (b.entries.filter fun e => e.status.isNone && e.op != 3).map fun e => (c * 2624 + e.arr, e.op == 1)
  let s1 := closeRec b.jid spent (each b.entries.zipIdx one s)
  let s2 := updCore c (fun k => { k with running := k.pend, pend := none }) s1
  s2 |> showBusy c |> set (F.CORE_CTL_STEEP_STAT_DONE_SEQ c) (get s2 (F.CORE_CTL_STEEP_STAT_DONE_SEQ c) + 1)
     |> emit .mc .batchEnd [c]

/-- Operation of a batch: that of its first entry still running, else of its first entry; an operation that does not exist
counts as STEEP. -/
def batchOp (b : Batch) : Nat :=
  let op := match b.entries.find? fun e => e.status.isNone with
    | some e => e.op
    | none => match b.entries with | e :: _ => e.op | [] => 1
  if op = 2 || op = 3 then op else 1

/-- Ends the running batch when it is one of operation `op`. -/
def endIf (c op : Nat) (v : Verdict) (s : State) : State :=
  match (core s c).running with
  | some b => if b.started && batchOp b == op then endBatch c v b s else s
  | none => s

/-- STEEP_BATCH_END. -/
def execSteepBatchEnd (c : CoreIx) (fail : Word64) (s : State) : Host.Outcome State Fault Refusal :=
  .next (endIf c 1 { fail := fail.toNat, intr := 0 } s)

/-- ERASE_BATCH_END. -/
def execEraseBatchEnd (c : CoreIx) (fail : Word64) (s : State) : Host.Outcome State Fault Refusal :=
  .next (endIf c 2 { fail := fail.toNat, intr := 0 } s)

/-- READBACK_BATCH_END. -/
def execReadbackBatchEnd (c : CoreIx) (intr : Word64) (s : State) : Host.Outcome State Fault Refusal :=
  .next (endIf c 3 { fail := 0, intr := intr.toNat } s)

/-- A READBACK entry has not sensed every row 2^24 ticks after the start: its array serves a slot and a fire of it interrupted it. One that
no fire interrupted has completed (DEDUCED, log entry 64; R151). -/
def unsensed (s : State) (c : Nat) (e : StEntry) : Bool :=
  e.status.isNone && e.op == 3 && e.intr && arrState s c e.arr == 4 && actv s (F.ARR_CTL_SLOT c e.arr) != 0xFFF

/-- READBACK_TIMEOUT: 2^24 ticks after its start, what a READBACK batch has not completed ends with BUSY (R151). -/
def execReadbackTimeout (c : CoreIx) (s : State) : Host.Outcome State Fault Refusal :=
  match (core s c).running with
  | some b =>
    if b.started && batchOp b == 3 && decide (b.startTick + 2 ^ 24 ≤ get s F.TB_TICK_NUM_K) then
      let late := fun (e : StEntry) => if unsensed s c e then { e with status := some 0x02 } else e
      .next (endBatch c { fail := 0, intr := 2 ^ 64 - 1 } { b with entries := b.entries.map late } s)
    else .next s
  | none => .next s

end Sys2Proof.Machine
end

