-- ==== Sys2Proof/Machine/Attn.lean ====
section
/-! DEFINITION. The attention engine and the adapter unit: APPEND, SCORE, COMBINE, ADPT; and the answers of the stacks (R200 to R205, R252, R254, R314, R374, R454). -/
namespace Sys2Proof.Machine

/-- First input row of an ATTN or ADPT (Tables 6.14 and 6.15). -/
def atIn (w : Nat) : Nat := bits w 32 15
/-- First output row. -/
def atOut (w : Nat) : Nat := bits w 47 15
/-- REQ. -/
def atReq (w : Nat) : Nat := bits w 62 13
/-- First statistics row. -/
def atStat (w : Nat) : Nat := bits w 106 15
/-- Shards. -/
def atShards (w : Nat) : Nat := bits w 88 2 + 1

/-! ### Heads in rows (R454) -/

/-- The BF16 values of head `h` of dimension `d` in consecutive rows, and whether a row that holds it is POISONED. -/
def headVals (d h : Nat) (rows : List (List Byte × Bool)) : List Nat × Bool :=
  let r := nth ([], false) rows (h * d * 2 / 512)
  ((List.range d).map fun i => leAt r.1 (h * d * 2 % 512 + 2 * i) 2, r.2)

/-- Rows that hold heads of dimension `d`; bytes past the last head are free values. A row is POISONED when a head in it
is. -/
def headRows (d : Nat) (heads : List (List Nat × Bool)) (s : State) : List (List Byte × Bool) × State :=
  let per := 256 / d
  let n := (heads.length + per - 1) / per
  let g := freeBytes 512 s
  ((List.range n).map fun r =>
    let hs := (heads.drop (r * per)).take per
    let bs := hs.flatMap fun h => h.1.flatMap (natLe 2)
    (bs ++ g.1.drop bs.length, hs.any fun h => h.2), g.2)

/-! ### E4M3 with a power-of-two scale (R201) -/

/-- The magnitude of a BF16 value is at most 448 × 2^k. -/
def fits448 (k : Int) (b : Nat) : Bool :=
  match unpackF32 (bfToF32 b) with
  | .fin _ m e =>
    let z := if e ≤ k then e else k
    decide (m * 2 ^ (e - z).toNat ≤ 448 * 2 ^ (k - z).toNat)
  | _ => false

/-- The exponent of the smallest BF16 power of two, at least 2^-133, whose 448-fold no magnitude exceeds; a free value when
one of the values is not finite. -/
def kvExp (vs : List Nat) : Int :=
  let ks := (List.range 261).map fun (i : Nat) => (i : Int) - 133
  match ks.find? fun k => vs.all (fits448 k) with
  | some k => k
  | none => Config.kvScale vs

/-- A BF16 value over 2^k, rounded once to E4M3. -/
def toE4 (k : Int) (b : Nat) : Nat :=
  match unpackF32 (bfToF32 b) with
  | .fin n m e =>
    let r := packFp 4 5 (-9) false m (e - k) false
    (if r ≥ 0x7F then 0x7E else r) + (if n then 0x80 else 0)
  | .inf n => if n then 0xFF else 0x7F
  | .nan x => if x / 2 ^ 31 % 2 = 1 then 0xFF else 0x7F

/-! ### Pages (R252, R324) -/

/-- The page set of page `p` of request `e` as the engine reads it from the page list: its first line, whether the list's
line was POISONED; a refused read is counted (R245). Entries of 4 bytes; 0 says that the page is not in the list (log entry 36). -/
def pageSet (c e p : Nat) (s : State) : (Nat × Bool) × State :=
  let r := unitLine c ((get s (F.SRV_ENT_PLIST e) + p / 128) % 2 ^ 64) s
  ((leAt r.1.2.1 (4 * (p % 128)) 4, r.1.2.2), when (r.1.1 == 3) (bump (F.SEQ_STACK_REJ_CNT c)) r.2)

/-- First line of the page of KV head `g` of dimension `d`. -/
def pageLine (base g d : Nat) : Nat := base + g * (1 + d / 4)

/-- Lines of a page that hold the first `n` positions: the scales, then K, then V. -/
def pageLines (d n : Nat) : List Nat :=
  let k := (n * d + 511) / 512
  0 :: ((List.range k).map fun i => 1 + i) ++ (List.range k).map fun i => 1 + d / 8 + i

/-! ### APPEND -/

/-- Writes the output row of an APPEND. Its content is not given. -/
def appendOut (c w : Nat) (poison : Bool) (s : State) : State :=
  let d := freeBytes 512 s
  writeRow c (atOut w) d.1 poison d.2

/-- An attention instruction that does nothing but write its outputs is complete. -/
def attnVoid (c w : Nat) (rows : List Nat) (s : State) : State :=
  signal c (sigOf w) (each rows (fun r s => markRow c r true s) s)

/-- The three masked writes of one KV head: scale, K and V of position `t` of the page at line `l`. -/
def kvWrites (d t l : Nat) (k v : List Nat) : List (Nat × Nat × List Byte) :=
  let x := kvExp (k ++ v)
  let codes := fun (l : List Nat) => l.map fun b => BitVec.ofNat 8 (toE4 x b)
  let at_ := fun (o : Nat) => (l + o / 512, o % 512)
  [(l, 2 * t, natLe 2 (f32ToBf (pow2F32 x))),
   ((at_ (512 + t * d)).1, (at_ (512 + t * d)).2, codes k),
   ((at_ (512 + 64 * d + t * d)).1, (at_ (512 + 64 * d + t * d)).2, codes v)]

/-- APPEND (R201, R314). -/
def attnAppend (c w : Nat) (s : State) : State :=
  match reqOf s (atReq w) with
  | none => attnVoid c w [atOut w] s
  | some (e, len) =>
    let d := attnDim w
    let a := readRows c 6 (rowRange (atIn w) (2 * attnW w)) s
    let ks := a.1.take (attnW w)
    let vs := a.1.drop (attnW w)
    let pg := pageSet c e (len / 64) a.2
    if (core pg.2 c).noStore then signal c (sigOf w) (appendOut c w true (bump (F.SPAD_INVAL_CNT c) pg.2))
    else if !pg.1.2 && (pg.1.1 == 0 || decide (262144 ≤ len)) then
      signal c (sigOf w) (appendOut c w true (bump (F.SEQ_KV_NOPAGE_CNT c) pg.2))
    else if anyPoison a.1 || pg.1.2 then signal c (sigOf w) (appendOut c w true pg.2)
    else
      let ws := (List.range (attnKv w)).flatMap fun g =>
        kvWrites d (len % 64) (pageLine pg.1.1 g d) (headVals d g ks).1 (headVals d g vs).1
      let b := addOp c .attn (.append (atReq w)) (sigOf w) ws.length (appendOut c w false pg.2)
      each ws (fun p s => storeLine c b.1 p.1 p.2.1 p.2.2 false s) b.2

/-- APPEND. -/
def execAppend (i : Issue) (s : State) : Host.Outcome State Fault Refusal :=
  .next (issue i 7 0 (some .attn) always (inOrder i.core .attn false (attnAppend i.core)) s)

/-! ### SCORE -/

/-- A token's K or V codes and its scale from the lines of a page that came back. -/
def pageBytes (got : List (Nat × List Byte × Bool)) (plan : List (Nat × Nat × Nat)) (g p ofs n : Nat) : List Byte × Bool :=
  match plan.findIdx? fun x => x == (g, p, ofs / 512) with
  | none => (zeros n, true)
  | some i => match got.find? fun x => x.1 == i with
    | some x => ((x.2.1.drop (ofs % 512)).take n, x.2.2)
    | none => (zeros n, true)

/-- E4M3 codes as FP32 values. -/
def codesF32 (l : List Byte) : List Nat := l.map fun b => e4ToF32 b.toNat

/-- Σ over dimensions of q × k in ascending order (R201). -/
def dotAsc (a b : List Nat) : Nat := sumList ((a.zip b).map fun p => fmul p.1 p.2)

/-- The tokens of KV head `g` that SCORE attends: the positions of its pages up to L, ascending. -/
def kvTokens (len g : Nat) (plan : List (Nat × Nat × Nat)) : List Nat :=
  ((uniq ((plan.filter fun x => x.1 == g).map fun x => x.2.1)).flatMap fun p =>
    (List.range 64).map fun t => 64 * p + t).filter fun t => decide (t ≤ len)

/-- One token of a KV head: K and V as FP32, scale as FP32, POISONED. -/
def kvToken (got : List (Nat × List Byte × Bool)) (plan : List (Nat × Nat × Nat)) (d g t : Nat) :
    List Nat × List Nat × Nat × Bool :=
  let p := t / 64
  let k := pageBytes got plan g p (512 + t % 64 * d) d
  let v := pageBytes got plan g p (512 + 64 * d + t % 64 * d) d
  let x := pageBytes got plan g p (2 * (t % 64)) 2
  (codesF32 k.1, codesF32 v.1, bfToF32 (leNat x.1), k.2 || v.2 || x.2)

/-- One more token of a head: the running maximum, the running sum and the sums of the outputs. A new maximum first scales the sums by
e^(old - new) (log entry 45). -/
def attendStep (a : Nat × Nat × List Nat) (score : Nat) (v : List Nat) : Nat × Nat × List Nat :=
  let m := fmaxLow a.1 score
  let e := expVal (fsub score m)
  let k := expVal (fsub a.1 m)
  let keep := fun (x : Nat) => if m = a.1 then x else fmul x k
  (m, fadd (keep a.2.1) e, (a.2.2.zip v).map fun p => fadd (keep p.1) (fmul e p.2))

/-- Attention of one query head over tokens in ascending position: output, maximum, sum, POISONED (R201). Without a token, m is minus
infinity and l is 0. -/
def attend (d : Nat) (q : List Nat × Int × Bool) (toks : List (List Nat × List Nat × Nat × Bool)) :
    List Nat × Nat × Nat × Bool :=
  let qf := q.1.map e4ToF32
  let score := fun (t : List Nat × List Nat × Nat × Bool) =>
    fdiv (fmul (fmul (dotAsc qf t.1) (pow2F32 q.2.1)) t.2.2.1) (fsqrt (intToF32 d))
  let add := fun (a : Nat × Nat × List Nat) (t : List Nat × List Nat × Nat × Bool) =>
    attendStep a (score t) (t.2.1.map fun x => fmul x t.2.2.1)
  let r := toks.foldl add (0xFF800000, 0, List.replicate d 0)
  (r.2.2.map fun x => f32ToBf (fdiv x r.2.1), r.1, r.2.1, q.2.2 || toks.any fun t => t.2.2.2)

/-- The lines of a SCORE have come back: outputs and statistics are written. -/
def scoreEnd (c w len : Nat) (q : List (List Nat × Int × Bool)) (plan : List (Nat × Nat × Nat))
    (got : List (Nat × List Byte × Bool)) (bad : Bool) (s : State) : State :=
  let d := attnDim w
  let kv := (List.range (attnKv w)).map fun g => (kvTokens len g plan).map (kvToken got plan d g)
  let rs := q.zipIdx.map fun h => attend d h.1 (nth [] kv (h.2 / 2 ^ bits w 81 3))
  let o := headRows d (rs.map fun r => (r.1, r.2.2.2 || bad)) s
  let st := rs.flatMap fun r => natLe 4 r.2.1 ++ natLe 4 r.2.2.1
  let f := freeBytes 512 o.2
  let s1 := writeRow c (atStat w) (st ++ f.1.drop st.length) (bad || rs.any fun r => r.2.2.2) f.2
  writeRows c (atOut w) o.1 s1

/-- Pages that a SCORE uses: those up to L of its shard, and with SPARSE those of the mask. -/
def scorePages (w len : Nat) (mask : List Byte) : List Nat :=
  (List.range (min (len / 64 + 1) 4096)).filter fun p =>
    p % atShards w == bits w 86 2 && (!bit w 90 || bit (nth 0 mask (p / 8)).toNat (p % 8))

/-- The lines that a SCORE reads of one page, from the page list: KV head, page, line of the page, and stack line; a page
that is not in the list gives none and poisons the output. -/
def pagePlan (c w e len p : Nat) (s : State) : (List ((Nat × Nat × Nat) × Nat) × Bool) × State :=
  let d := attnDim w
  let r := pageSet c e p s
  if r.1.2 || r.1.1 = 0 then (([], true), r.2)
  else
    let ls := pageLines d (min 64 (len + 1 - 64 * p))
    (((List.range (attnKv w)).flatMap fun g => ls.map fun k => ((g, p, k), pageLine r.1.1 g d + k), false), r.2)

/-- The plans of several pages. -/
def pagePlans (c w e len : Nat) : List Nat → State → (List ((Nat × Nat × Nat) × Nat) × Bool) × State
  | [], s => (([], false), s)
  | p :: ps, s =>
    let a := pagePlan c w e len p s
    let b := pagePlans c w e len ps a.2
    ((a.1.1 ++ b.1.1, a.1.2 || b.1.2), b.2)

/-- Records line `i` for an outstanding SCORE. -/
def scoreGot (c id i : Nat) (bs : List Byte) (poison : Bool) (s : State) : State :=
  let f := fun (o : OpRec) => if o.id == id then { o with got := o.got ++ [(i, bs, poison)] } else o
  updCore c (fun k => { k with ops := k.ops.map f }) s

/-- A line of an outstanding SCORE has come back, or was refused; the last one completes it. -/
def scoreLine (c id i : Nat) (bs : List Byte) (poison : Bool) (s : State) : State :=
  let s1 := scoreGot c id i bs poison s
  match findOp s1 c id with
  | none => s1
  | some o =>
    match o.kind with
    | .score w len q plan => opDone c id (if o.left ≤ 1 then scoreEnd c w len q plan o.got false s1 else s1)
    | _ => opDone c id s1

/-- SCORE (R201, R202, R314). -/
def attnScore (c w : Nat) (s : State) : State :=
  match reqOf s (atReq w) with
  | none => attnVoid c w (rowRange (atOut w) (attnR w) ++ [atStat w]) s
  | some (e, len) =>
    let d := attnDim w
    let a := readRows c 6 (rowRange (atIn w) (attnR w)) s
    let mk := if bit w 90 then readRow c 6 (bits w 91 15) a.2 else (([], false), a.2)
    let q := (List.range (attnHeads w)).map fun h =>
      let x := headVals d h a.1
      let k := kvExp x.1
      (x.1.map (toE4 k), k, x.2 || mk.1.2)
    let pl := pagePlans c w e len (scorePages w len mk.1.1) mk.2
    let plan := pl.1.1.map fun x => x.1
    if pl.1.2 || plan.isEmpty then signal c (sigOf w) (scoreEnd c w len q [] [] pl.1.2 pl.2)
    else
      let b := addOp c .attn (.score w len q plan) (sigOf w) plan.length pl.2
      each pl.1.1.zipIdx (fun x s =>
        if mayAsk s c x.1.2 then
          askRead c (packet c [stkNode (lineStack x.1.2)] .req false none (.readReq x.1.2 (coreRq s c b.1 x.2) true)) s
        else
          let g := freeBytes 512 (bump (F.SEQ_STACK_REJ_CNT c) (regionRej c s))
          scoreLine c b.1 x.2 g.1 true g.2) b.2

/-- SCORE. -/
def execScore (i : Issue) (s : State) : Host.Outcome State Fault Refusal :=
  .next (issue i 7 1 (some .attn) always (inOrder i.core .attn false (attnScore i.core)) s)

/-! ### COMBINE -/

/-- The merge of the partials of one head (R201): per shard m, l and o; shards with l = 0 are skipped. -/
def mergeHead (d : Nat) (ps : List (Nat × Nat × List Nat)) : List Nat :=
  let used := ps.filter fun p => !(p.2.1 % 2 ^ 31 == 0)
  let m := (used.map fun p => p.1).foldl fmaxLow 0xFF800000
  let ws := used.map fun p => (fmul (expVal (fsub p.1 m)) p.2.1, p.2.2)
  let den := sumList (ws.map fun p => p.1)
  (List.range d).map fun i => f32ToBf (fdiv (sumList (ws.map fun p => fmul p.1 (bfToF32 (nth 0 p.2 i)))) den)

/-- COMBINE. -/
def attnCombine (c w : Nat) (s : State) : State :=
  match reqOf s (atReq w) with
  | none => attnVoid c w (rowRange (atOut w) (attnR w)) s
  | some _ =>
    let d := attnDim w
    let n := atShards w
    let a := readRows c 6 (rowRange (atIn w) (n * attnR w)) s
    let t := readRows c 6 (rowRange (atStat w) n) a.2
    let heads := (List.range (attnHeads w)).map fun h =>
      let parts := (List.range n).map fun i =>
        let st := nth ([], false) t.1 i
        let o := headVals d h ((a.1.drop (i * attnR w)).take (attnR w))
        ((leAt st.1 (8 * h) 4, leAt st.1 (8 * h + 4) 4, o.1), st.2 || o.2)
      (mergeHead d (parts.map fun p => p.1), parts.any fun p => p.2)
    let o := headRows d heads t.2
    signal c (sigOf w) (writeRows c (atOut w) o.1 o.2)

/-- COMBINE. -/
def execCombine (i : Issue) (s : State) : Host.Outcome State Fault Refusal :=
  .next (issue i 7 2 (some .attn) always (inOrder i.core .attn true (attnCombine i.core)) s)

/-- An ATTN at the head of its queue. -/
def runAttn (c w : Nat) (s : State) : State :=
  if iOp w = 0 then attnAppend c w s else if iOp w = 1 then attnScore c w s else attnCombine c w s

/-! ### Adapter unit (R203 to R205, R314) -/

/-- A mismatch of the directory and the request (R205). -/
def adptMis (c w : Nat) (rows : List Nat) (s : State) : State :=
  let s1 := each (rows.filter fun r => decide (r < 2 ^ 15)) (fun r s => markRow c r true s) (bump (F.SEQ_ADPT_MIS_CNT c) s)
  signal c (sigOf w) (raise { src := 0x36, dom := c, access := 0, node := c, unit := 7, addr := atReq w } s1)

/-- A directory entry that describes the segment, for the number of output rows of an ADPT that has no request. DESIGN CHOICE (log entry 67): the
lowest VALID one; the rows of a segment are those of its tensor. -/
def voidDir (s : State) (c seg : Nat) : Option Nat :=
  ((List.range 64).map fun i => 16 * i + seg).find? fun d => actB s (F.SEQ_ADPT_DIR_VALID c d)

/-- Runs an ADPT: the request, whether it carries an adapter, and its directory entry decide (R205). -/
def adpt (c w : Nat) (rows : Nat → List Nat) (body : Nat → State → State) (s : State) : State :=
  match reqOf s (atReq w) with
  | none => attnVoid c w (match voidDir s c (bits w 75 4) with | some d => rows d | none => [atOut w]) s
  | some (e, _) =>
    if !flag s (F.SRV_ENT_AVALID e) then signal c (sigOf w) s
    else
      let d := get s (F.SRV_ENT_ASLOT e) * 16 + bits w 75 4
      match adptDir s c e (bits w 75 4) with
      | none => adptMis c w (rows d) s
      | some d => signal c (sigOf w) (body d s)

/-- Rows `base, base + step, ...` of a block of the adapter. -/
def blockRow (base k : Nat) : Nat := (base + k) % 2 ^ 15

/-- DOWN: t_q, for q = 0 to r − 1, as FP32 in row OUT; the bytes after them are free values. -/
def adptDown (c w d : Nat) (s : State) : State :=
  let din := actv s (F.SEQ_ADPT_DIR_DIN c d)
  let r := actv s (F.SEQ_ADPT_DIR_RANK_M1 c d) + 1
  let x := readRows c 7 (rowRange (atIn w) din) s
  let a := readRows c 7 ((List.range (din * r)).map fun i => blockRow (actv s (F.SEQ_ADPT_DIR_A_BASE c d)) i) x.2
  let xf := rowsF32 x.1
  let af := rowsF32 a.1
  let t := (List.range r).map fun q =>
    sumRows ((List.range din).map fun i => ((nth [] xf i).zip (nth [] af (i * r + q))).map fun p => fmul p.1 p.2)
  let bs := t.flatMap (natLe 4)
  let g := freeBytes 512 a.2
  writeRow c (atOut w) (bs ++ g.1.drop bs.length) (anyPoison x.1 || anyPoison a.1) g.2

/-- ADPT_DOWN. -/
def execAdptDown (i : Issue) (s : State) : Host.Outcome State Fault Refusal :=
  let c := i.core.val
  .next (issue i 8 0 (some .adpt) always (fun w s => adpt c w (fun _ => [atOut w]) (adptDown c w) s) s)

/-- UP: y = bf16(fp32(y) + α × Σ_q t_q × B_qo) for each output row. -/
def adptUp (c w d : Nat) (s : State) : State :=
  let dout := actv s (F.SEQ_ADPT_DIR_DOUT c d)
  let r := actv s (F.SEQ_ADPT_DIR_RANK_M1 c d) + 1
  let alpha := actv s (F.SEQ_ADPT_DIR_ALPHA c d)
  let t := readRow c 7 (atIn w) s
  let b := readRows c 7 ((List.range (r * dout)).map fun i => blockRow (actv s (F.SEQ_ADPT_DIR_B_BASE c d)) i) t.2
  let y := readRows c 7 (rowRange (atOut w) dout) b.2
  let bf := rowsF32 b.1
  let row := fun (o : Nat) =>
    let yo := nth ([], false) y.1 o
    let del := (List.range 256).map fun j =>
      fmul alpha (sumList ((List.range r).map fun q => fmul (leAt t.1.1 (4 * q) 4) (nth 0 (nth [] bf (q * dout + o)) j)))
    let bad := t.1.2 || yo.2 || (List.range r).any fun q => (nth ([], false) b.1 (q * dout + o)).2
    (outRow ((((rowBf yo.1).map bfToF32).zip del).map fun p => fadd p.1 p.2), bad)
  writeRows c (atOut w) ((List.range dout).map row) y.2

/-- ADPT_UP. -/
def execAdptUp (i : Issue) (s : State) : Host.Outcome State Fault Refusal :=
  let c := i.core.val
  .next (issue i 8 1 (some .adpt) always (fun w s =>
    adpt c w (fun d => rowRange (atOut w) (max 1 (min 128 (actv s (F.SEQ_ADPT_DIR_DOUT c d))))) (adptUp c w) s) s)

end Sys2Proof.Machine
end

