-- ==== Sys2Proof/Machine/CoreCtl.lean ====
section
/-! DEFINITION. Core control: power, reset, fence, run, stop and microcode (Tables 6.19 and 6.20, R209, R364, R372 to R376, R411). -/
namespace Sys2Proof.Machine

/-- A command that Table 6.20 does not allow is ignored and counted. -/
def cmdRej (c : Nat) (s : State) : State := bump (F.CORE_CTL_CMD_REJ_CNT c) s

/-- A command to a core: denied while the network plane is held in reset, refused for a core the fuses list as bad, else decided by its
state (Table 6.20). -/
def coreCmd (c : Nat) (f : Nat → Option (State → State)) : State → State :=
  ifNet fun s =>
    if !coreGood s c then cmdRej c s
    else match f (coreState s c) with
      | some g => g s
      | none => cmdRej c s

/-! ### Power -/

/-- Accepts POWER_ON: the ramp starts 100 µs after the start of the latest one started or waiting, or now (R411). -/
def powerOn (c : Nat) (s : State) : State :=
  if (core s c).rampAt.isSome then cmdRej c s
  else
    let t := max (now s) s.rampNext
    updCore c (fun k => { k with rampAt := some t, ramping := false }) { s with rampNext := t + 100000 }

/-- CORE_POWER_ON. -/
def execCorePowerOn (c : CoreIx) (s : State) : Host.Outcome State Fault Refusal :=
  .next (coreCmd c (fun st => if st = cOff then some (powerOn c) else none) s)

/-- CORE_POWER_RAMP_START: the waiting ramp of a core starts at its mark. -/
def execCorePowerRampStart (c : CoreIx) (s : State) : Host.Outcome State Fault Refusal :=
  match (core s c).rampAt with
  | some t =>
    if (core s c).ramping then .next s
    else .next (updCore c (fun k => { k with ramping := true }) (moveTo t s))
  | none => .next s

/-- CORE_POWER_RAMP_END: 20 µs later the core enters RESET, which wipes its scratchpad. -/
def execCorePowerRampEnd (c : CoreIx) (s : State) : Host.Outcome State Fault Refusal :=
  match (core s c).rampAt with
  | some t =>
    if (core s c).ramping then
      .next (setCoreState c cReset (wipeSpad c (resetCompute c (updCore c (fun k => { k with rampAt := none, ramping := false })
        (moveTo (t + 20000) s)))))
    else .next s
  | none => .next s

/-- The compute domain is turned off: its state is lost; a ramp that waits is given up. The reset epoch stays (R374). -/
def powerDown (c st : Nat) (s : State) : State :=
  let e := (core s c).epoch
  setCoreState c st (updCore c (fun k => { k with epoch := e }) (resetCompute c s))

/-- CORE_POWER_OFF. -/
def execCorePowerOff (c : CoreIx) (s : State) : Host.Outcome State Fault Refusal :=
  .next (coreCmd c (fun st => if st = cIdle || st = cFenced then some (powerDown c cOff) else none) s)

/-! ### Reset (R373, R374) -/

/-- Starts the reset of a core (R373, R374): it abandons its tick and reports CORE_RESET when it runs, issues nothing more, and
waits in RESET for its requests to drain. -/
def startReset (c : Nat) (s : State) : State :=
  let ran := coreRuns s c
  let s1 := stopUnits c (if ran then abandonTick c s else s)
  let s2 := s1 |> setCoreState c cReset |> updCore c (fun k => { k with draining := true })
    |> setB (F.CORE_CTL_STATE_RUN_PEND c) false |> setB (F.CORE_CTL_STATE_STOP_PEND c) false
    |> setB (F.CORE_CTL_STATE_MCODE_OK c) false
  when ran (raise { src := 0x3A, dom := c, node := c }) s2

/-- CORE_CMD_RESET: CORE_CTL_CMD with OP = RESET. -/
def execCoreCmdReset (c : CoreIx) (s : State) : Host.Outcome State Fault Refusal :=
  .next (coreCmd c (fun st => if st = cIdle || st = cRunning || st = cFenced then some (startReset c ∘ bump F.LC_CORE_RST_CNT) else none) s)

/-- A stack request, or an answer to it, that a requester list of this core and epoch waits for. -/
def ofCore (c epoch : Nat) (r : Requester) : Bool :=
  match r with
  | .core k _ _ e => k == c && e == epoch
  | .port _ _ => false

/-- The core's units have requests in the mesh or the stacks. -/
def coreInFlight (s : State) (c : Nat) : Bool :=
  let e := (core s c).epoch
  s.mesh.any (fun p => match p.body with
    | .readReq _ r _ => ofCore c e r
    | .writeReq _ _ _ r => ofCore c e r
    | .readData _ _ rs _ => rs.any (ofCore c e)
    | .writeAck _ r _ => ofCore c e r
    | _ => p.src == c && decide (p.pos = c) && !p.arrived) ||
  s.stks.any fun k => k.2.merges.any fun m => m.rqs.any fun r => ofCore c e r.2

/-- The reset proceeds: the compute domain is reset and the scratchpad wiped (R375). -/
def proceedReset (c : Nat) (s : State) : State := wipeSpad c (resetCompute c s)

/-- Firmware retires again what the retired map lists for a core (R90, R172). -/
def reretire (c : Nat) (s : State) : State :=
  each (s.fw.retired.filter fun a => a / 2624 = c) (fun a s => set (F.ARR_STAT_STATE c (a % 2624)) 5 s) s

/-- CORE_RESET_END: the reset of a core, or its start after power-on, ends; its windows are closed and it is IDLE (R411). -/
def execCoreResetEnd (c : CoreIx) (s : State) : Host.Outcome State Fault Refusal :=
  if coreState s c = cReset && !(core s c).draining then .next (reretire c (setCoreState c cIdle s)) else .next s

/-! ### Fence, run, stop -/

/-- FENCE: the compute domain is held in reset (Table 6.20). -/
def fenceCmd (c : Nat) (s : State) : State :=
  coreCmd c (fun st =>
    if st = cOff then some (setCoreState c cFenced ∘ updCore c fun k => { k with rampAt := none, ramping := false })
    else if st = cIdle || st = cRunning then some (setCoreState c cFenced ∘ resetCompute c) else none) s

/-- FENCE. -/
def execFence (c : CoreIx) (s : State) : Host.Outcome State Fault Refusal := .next (fenceCmd c s)

/-- RUN: RUNNING from the next boundary when the microcode is loaded and the active bank is VALID. -/
def runCmd (c : Nat) (s : State) : State :=
  let ok := flag s (F.CORE_CTL_STATE_MCODE_OK c) && flag s (F.SEQ_BANK_DESC_VALID c (actv s (F.SEQ_CTL_BANK c)))
  coreCmd c (fun st => if st = cIdle && ok then some (setB (F.CORE_CTL_STATE_RUN_PEND c) true) else none) s

/-- RUN. -/
def execRun (c : CoreIx) (s : State) : Host.Outcome State Fault Refusal := .next (runCmd c s)

/-- STOP: IDLE from the boundary that ends the current tick. -/
def stopCmd (c : Nat) (s : State) : State :=
  coreCmd c (fun st => if st = cRunning then some (setB (F.CORE_CTL_STATE_STOP_PEND c) true) else none) s

/-- STOP. -/
def execStop (c : CoreIx) (s : State) : Host.Outcome State Fault Refusal := .next (stopCmd c s)

/-- Takes the microcode: sets MCODE_OK and the version when the digest the core computed matches (R364). -/
def takeMicrocode (c version : Nat) (ok : Bool) (s : State) : State :=
  if coreUp s c && ok then set (F.SEQ_MCODE_VERSION c) version (setB (F.CORE_CTL_STATE_MCODE_OK c) true s) else s

/-- MICROCODE_MULTICAST as core `c` receives it: the version, and whether the digest matches. A core that is OFF, in RESET or
FENCED takes nothing. -/
def execMicrocodeMulticast (c : CoreIx) (version : Word) (ok : Bool) (s : State) : Host.Outcome State Fault Refusal :=
  .next (takeMicrocode c version.toNat ok s)

end Sys2Proof.Machine
end

