-- ==== Sys2Proof/Machine/RegTable.lean ====
section
/-! DEFINITION. The register map of BAR0 as data: where each register lies, which agents reach it and how each of its fields acts (R13 to R20). Generated from the block maps of the specification. -/
namespace Sys2Proof.Machine

/-- Access types of Table 0.3; `ctr` is a counter of R21, which no register write changes. -/
inductive Acc where
  | rw | ro | wo | w1c | rws | rwl | ctr
  deriving DecidableEq, Repr

/-- Which agents reach a register (R18): both, the management core only, both for reads but only the management core for writes, both in FACTORY_TEST only (Table 14.7), and the rule of R383 for LC_BIST_CTL. -/
inductive Reach where
  | hm | m | hmRead | factory | bist
  deriving DecidableEq, Repr

/-- One field of a register: its low bit, width, access type and value after reset. -/
structure FieldSpec where
  lo : Nat
  width : Nat
  acc : Acc
  reset : Nat
  deriving DecidableEq, Repr

/-- One register or array of registers: first byte address, dimensions (count and stride in bytes), bytes of one element, reach and fields. -/
structure RegSpec where
  base : Nat
  dims : List (Nat × Nat)
  bytes : Nat
  reach : Reach
  fields : List FieldSpec
  deriving DecidableEq, Repr

/-- Registers of the GLB block. -/
def regs_GLB : List RegSpec := [
  ⟨0x0, [], 4, .hm, [⟨0, 8, .ro, 0xc0⟩, ⟨8, 8, .ro, 0xa⟩, ⟨16, 16, .ro, 0x940⟩]⟩,
  ⟨0x4, [], 4, .hmRead, [⟨0, 16, .rw, 0⟩, ⟨16, 8, .rw, 0⟩, ⟨24, 8, .rw, 0⟩]⟩,
  ⟨0x8, [], 4, .hmRead, [⟨0, 16, .rw, 0⟩, ⟨16, 16, .rw, 0⟩]⟩,
  ⟨0xc, [], 4, .hmRead, [⟨0, 2, .rw, 0⟩]⟩,
  ⟨0x10, [], 16, .hm, [⟨0, 128, .ro, 0⟩]⟩,
  ⟨0x20, [(16, 0x1)], 1, .hmRead, [⟨0, 5, .rws, 0⟩, ⟨7, 1, .rws, 0⟩]⟩,
  ⟨0x30, [(16, 0x1)], 1, .hm, [⟨0, 5, .ro, 0⟩, ⟨7, 1, .ro, 0⟩]⟩,
  ⟨0x40, [], 4, .hm, [⟨0, 3, .ro, 0⟩, ⟨3, 5, .ro, 0⟩, ⟨8, 1, .ro, 0⟩, ⟨9, 1, .ro, 0⟩, ⟨10, 6, .ro, 0⟩]⟩,
  ⟨0x44, [], 4, .m, [⟨0, 3, .rw, 6⟩, ⟨3, 1, .wo, 0⟩]⟩,
  ⟨0x48, [], 4, .hm, [⟨0, 1, .wo, 0⟩, ⟨1, 1, .wo, 0⟩, ⟨16, 16, .ro, 0⟩]⟩,
  ⟨0x1000, [(33, 0x40), (8, 0x8)], 8, .m, [⟨0, 19, .rws, 0⟩, ⟨20, 19, .rws, 0⟩, ⟨39, 1, .rws, 0⟩, ⟨40, 1, .rws, 0⟩, ⟨41, 1, .rws, 0⟩, ⟨48, 15, .rws, 0⟩]⟩,
  ⟨0x100, [], 8, .hm, [⟨0, 64, .ctr, 0⟩]⟩,
  ⟨0x108, [], 8, .hm, [⟨0, 64, .ctr, 0⟩]⟩,
  ⟨0x110, [], 8, .hm, [⟨0, 64, .ctr, 0⟩]⟩,
  ⟨0x118, [], 8, .hm, [⟨0, 64, .ctr, 0⟩]⟩,
  ⟨0x120, [], 8, .hm, [⟨0, 64, .ctr, 0⟩]⟩,
  ⟨0x128, [], 8, .hm, [⟨0, 64, .ctr, 0⟩]⟩,
  ⟨0x130, [], 8, .hm, [⟨0, 64, .ctr, 0⟩]⟩,
  ⟨0x138, [], 8, .hm, [⟨0, 64, .ctr, 0⟩]⟩]

/-- Registers of the MBX block. -/
def regs_MBX : List RegSpec := [
  ⟨0x100000, [], 4, .hmRead, [⟨0, 1, .rw, 0⟩, ⟨1, 1, .rw, 0⟩, ⟨2, 1, .rw, 0⟩]⟩,
  ⟨0x100008, [], 4, .hm, [⟨0, 1, .wo, 0⟩, ⟨1, 1, .wo, 0⟩, ⟨16, 16, .ro, 0⟩]⟩,
  ⟨0x101000, [(33, 0x8)], 8, .hmRead, [⟨0, 16, .rw, 0⟩, ⟨16, 1, .ro, 0⟩, ⟨17, 1, .ro, 0⟩, ⟨18, 1, .w1c, 0⟩, ⟨24, 8, .ro, 0⟩, ⟨32, 6, .ro, 0⟩]⟩,
  ⟨0x100040, [], 8, .hm, [⟨0, 64, .ctr, 0⟩]⟩,
  ⟨0x100048, [], 8, .hm, [⟨0, 64, .ctr, 0⟩]⟩,
  ⟨0x100050, [], 8, .hm, [⟨0, 64, .ctr, 0⟩]⟩,
  ⟨0x100058, [], 8, .hm, [⟨0, 64, .ctr, 0⟩]⟩,
  ⟨0x100060, [], 8, .hm, [⟨0, 64, .ctr, 0⟩]⟩,
  ⟨0x100068, [], 8, .hm, [⟨0, 64, .ctr, 0⟩]⟩]

/-- Registers of the TB block. -/
def regs_TB_0 : List RegSpec := [
  ⟨0x200000, [], 4, .m, [⟨0, 1, .rwl, 0⟩, ⟨1, 1, .rws, 0⟩, ⟨2, 1, .rw, 1⟩]⟩,
  ⟨0x200004, [], 4, .hm, [⟨0, 3, .ro, 0⟩, ⟨3, 4, .ro, 0xf⟩, ⟨7, 1, .ro, 0⟩, ⟨8, 1, .ro, 0⟩, ⟨9, 1, .w1c, 0⟩, ⟨10, 1, .ro, 0⟩, ⟨11, 1, .ro, 0⟩, ⟨12, 1, .w1c, 0⟩]⟩,
  ⟨0x200008, [], 8, .hm, [⟨0, 64, .ro, 0⟩]⟩,
  ⟨0x200010, [], 8, .hm, [⟨0, 64, .ro, 0⟩]⟩,
  ⟨0x200018, [], 8, .m, [⟨0, 64, .rwl, 0⟩]⟩,
  ⟨0x200020, [], 4, .m, [⟨0, 18, .rwl, 0x640⟩]⟩,
  ⟨0x200024, [], 4, .m, [⟨0, 1, .rws, 0⟩, ⟨1, 1, .rws, 0⟩, ⟨8, 1, .ro, 0⟩, ⟨9, 1, .ro, 0⟩]⟩,
  ⟨0x200028, [], 4, .m, [⟨0, 4, .rwl, 0xf⟩, ⟨4, 4, .rwl, 0xf⟩, ⟨8, 4, .rwl, 7⟩, ⟨12, 4, .rwl, 0xf⟩]⟩,
  ⟨0x20002c, [], 4, .m, [⟨0, 8, .rws, 8⟩, ⟨8, 8, .rws, 0x28⟩, ⟨16, 8, .rws, 0x32⟩]⟩,
  ⟨0x200030, [], 4, .hm, [⟨0, 32, .ro, 0⟩]⟩,
  ⟨0x200034, [], 4, .hm, [⟨0, 32, .ro, 0⟩]⟩,
  ⟨0x200038, [], 4, .m, [⟨0, 1, .wo, 0⟩, ⟨1, 1, .wo, 0⟩, ⟨2, 1, .wo, 0⟩]⟩,
  ⟨0x200040, [], 8, .m, [⟨0, 64, .rw, 0⟩]⟩,
  ⟨0x200048, [], 4, .hm, [⟨0, 1, .wo, 0⟩, ⟨1, 1, .wo, 0⟩, ⟨16, 16, .ro, 0⟩]⟩,
  ⟨0x200080, [(12, 0x4)], 4, .hm, [⟨0, 24, .ro, 0⟩, ⟨31, 1, .ro, 0⟩]⟩,
  ⟨0x2000c0, [(12, 0x4)], 4, .m, [⟨0, 16, .rwl, 0⟩]⟩,
  ⟨0x200100, [(16, 0x4)], 4, .m, [⟨0, 3, .rws, 0⟩, ⟨4, 3, .ro, 0⟩]⟩,
  ⟨0x200180, [(4, 0x4)], 4, .hm, [⟨0, 24, .ro, 0⟩, ⟨31, 1, .wo, 0⟩]⟩,
  ⟨0x200200, [], 8, .hm, [⟨0, 64, .ctr, 0⟩]⟩,
  ⟨0x200208, [], 8, .hm, [⟨0, 64, .ctr, 0⟩]⟩]

/-- Registers of the TB block. -/
def regs_TB_1 : List RegSpec := [
  ⟨0x200210, [], 8, .hm, [⟨0, 64, .ctr, 0⟩]⟩,
  ⟨0x200218, [], 8, .hm, [⟨0, 64, .ctr, 0⟩]⟩,
  ⟨0x200220, [], 8, .hm, [⟨0, 64, .ctr, 0⟩]⟩,
  ⟨0x200228, [], 8, .hm, [⟨0, 64, .ctr, 0⟩]⟩,
  ⟨0x200230, [], 8, .hm, [⟨0, 64, .ctr, 0⟩]⟩,
  ⟨0x200238, [], 8, .hm, [⟨0, 64, .ctr, 0⟩]⟩,
  ⟨0x200240, [(4, 0x8)], 8, .hm, [⟨0, 64, .ctr, 0⟩]⟩,
  ⟨0x200260, [(4, 0x8)], 8, .hm, [⟨0, 64, .ctr, 0⟩]⟩,
  ⟨0x200280, [(16, 0x8)], 8, .hm, [⟨0, 64, .ctr, 0⟩]⟩]

/-- Registers of the FLT block. -/
def regs_FLT_0 : List RegSpec := [
  ⟨0x300000, [], 4, .m, [⟨0, 3, .rws, 2⟩, ⟨8, 5, .rws, 0x14⟩, ⟨16, 5, .rws, 0x1b⟩]⟩,
  ⟨0x300004, [], 4, .hm, [⟨0, 1, .ro, 0⟩, ⟨1, 1, .ro, 0⟩, ⟨2, 1, .ro, 0⟩, ⟨3, 1, .ro, 1⟩, ⟨4, 5, .ro, 0⟩, ⟨9, 3, .ro, 7⟩, ⟨12, 1, .ro, 0⟩]⟩,
  ⟨0x300008, [], 4, .hm, [⟨0, 3, .wo, 0⟩, ⟨8, 8, .wo, 0⟩, ⟨16, 1, .wo, 0⟩]⟩,
  ⟨0x30000c, [], 4, .hm, [⟨0, 1, .wo, 0⟩, ⟨1, 1, .wo, 0⟩, ⟨16, 16, .ro, 0⟩]⟩,
  ⟨0x300010, [], 8, .hm, [⟨0, 64, .ro, 0⟩]⟩,
  ⟨0x300018, [], 4, .m, [⟨0, 1, .wo, 0⟩]⟩,
  ⟨0x30001c, [], 4, .m, [⟨0, 9, .ro, 0⟩]⟩,
  ⟨0x300020, [], 32, .m, [⟨0, 64, .ro, 0⟩, ⟨64, 8, .ro, 0⟩, ⟨72, 8, .ro, 0xff⟩, ⟨80, 3, .ro, 0⟩, ⟨83, 1, .ro, 0⟩, ⟨84, 3, .ro, 0⟩, ⟨87, 1, .ro, 0⟩, ⟨88, 8, .ro, 0xff⟩, ⟨96, 3, .ro, 0⟩, ⟨128, 64, .ro, 0⟩, ⟨192, 64, .ro, 0⟩]⟩,
  ⟨0x300040, [(5, 0x20)], 32, .hm, [⟨0, 64, .ro, 0⟩, ⟨64, 8, .ro, 0⟩, ⟨72, 8, .ro, 0xff⟩, ⟨80, 3, .ro, 0⟩, ⟨83, 1, .ro, 0⟩, ⟨84, 3, .ro, 0⟩, ⟨87, 1, .w1c, 0⟩, ⟨88, 8, .ro, 0xff⟩, ⟨96, 3, .ro, 0⟩, ⟨128, 64, .ro, 0⟩, ⟨192, 64, .ro, 0⟩]⟩,
  ⟨0x300100, [(2, 0x20), (8, 0x4)], 4, .hm, [⟨0, 32, .ro, 0⟩]⟩,
  ⟨0x300800, [], 4, .factory, [⟨0, 4, .rw, 0⟩, ⟨4, 1, .wo, 0⟩, ⟨5, 1, .rw, 0⟩, ⟨8, 8, .rw, 0⟩, ⟨16, 8, .rw, 0⟩, ⟨24, 8, .rw, 0xff⟩]⟩,
  ⟨0x300808, [], 8, .factory, [⟨0, 64, .rw, 0⟩]⟩,
  ⟨0x300810, [], 8, .factory, [⟨0, 64, .rw, 0⟩]⟩,
  ⟨0x300818, [], 4, .factory, [⟨0, 2, .ro, 0⟩, ⟨8, 8, .ro, 0⟩]⟩,
  ⟨0x300200, [(5, 0x8)], 8, .hm, [⟨0, 64, .ctr, 0⟩]⟩,
  ⟨0x300228, [(4, 0x8)], 8, .hm, [⟨0, 64, .ctr, 0⟩]⟩,
  ⟨0x300248, [], 8, .hm, [⟨0, 64, .ctr, 0⟩]⟩,
  ⟨0x300250, [], 8, .hm, [⟨0, 64, .ctr, 0⟩]⟩,
  ⟨0x300258, [], 8, .hm, [⟨0, 64, .ctr, 0⟩]⟩,
  ⟨0x300260, [], 8, .hm, [⟨0, 64, .ctr, 0⟩]⟩]

/-- Registers of the FLT block. -/
def regs_FLT_1 : List RegSpec := [
  ⟨0x300268, [], 8, .hm, [⟨0, 64, .ctr, 0⟩]⟩,
  ⟨0x300400, [(128, 0x8)], 8, .hm, [⟨0, 64, .ctr, 0⟩]⟩]

/-- Registers of the THM block. -/
def regs_THM : List RegSpec := [
  ⟨0x400000, [], 4, .m, [⟨0, 16, .rw, 0x2f8⟩, ⟨16, 16, .rw, 0x338⟩]⟩,
  ⟨0x400004, [], 4, .hm, [⟨0, 1, .ro, 0⟩, ⟨1, 1, .ro, 0⟩, ⟨2, 1, .ro, 0⟩, ⟨3, 1, .ro, 0⟩, ⟨4, 1, .ro, 0⟩, ⟨5, 5, .ro, 0x1f⟩, ⟨10, 1, .ro, 0⟩]⟩,
  ⟨0x400008, [], 4, .hm, [⟨0, 8, .ro, 0x18⟩, ⟨8, 8, .ro, 0x20⟩, ⟨16, 16, .ro, 0x380⟩]⟩,
  ⟨0x40000c, [], 4, .hm, [⟨0, 16, .ro, 0⟩, ⟨16, 5, .ro, 0x1f⟩, ⟨31, 1, .wo, 0⟩]⟩,
  ⟨0x400010, [], 4, .hm, [⟨0, 1, .wo, 0⟩, ⟨1, 1, .wo, 0⟩, ⟨16, 16, .ro, 0⟩]⟩,
  ⟨0x400100, [(31, 0x4)], 4, .hm, [⟨0, 16, .ro, 0⟩, ⟨16, 1, .ro, 0⟩, ⟨17, 1, .ro, 0⟩, ⟨18, 1, .ro, 0⟩, ⟨19, 1, .ro, 0⟩]⟩,
  ⟨0x400200, [], 8, .hm, [⟨0, 64, .ctr, 0⟩]⟩,
  ⟨0x400208, [], 8, .hm, [⟨0, 64, .ctr, 0⟩]⟩,
  ⟨0x400210, [], 8, .hm, [⟨0, 64, .ctr, 0⟩]⟩,
  ⟨0x400218, [], 8, .hm, [⟨0, 64, .ctr, 0⟩]⟩,
  ⟨0x400220, [], 8, .hm, [⟨0, 64, .ctr, 0⟩]⟩,
  ⟨0x400228, [], 8, .hm, [⟨0, 64, .ctr, 0⟩]⟩]

/-- Registers of the TEL block. -/
def regs_TEL : List RegSpec := [
  ⟨0x480000, [], 4, .m, [⟨0, 1, .rw, 0⟩, ⟨1, 1, .rw, 0⟩, ⟨2, 1, .rw, 0⟩]⟩,
  ⟨0x480004, [], 4, .hm, [⟨0, 1, .ro, 0⟩, ⟨1, 4, .ro, 0⟩]⟩,
  ⟨0x480008, [], 4, .m, [⟨0, 16, .rw, 0⟩]⟩,
  ⟨0x48000c, [], 4, .hm, [⟨0, 16, .w1c, 0⟩, ⟨16, 16, .w1c, 0⟩]⟩,
  ⟨0x480010, [], 4, .hm, [⟨0, 1, .wo, 0⟩, ⟨1, 1, .wo, 0⟩, ⟨16, 16, .ro, 0⟩]⟩,
  ⟨0x480100, [(16, 0x8)], 8, .hm, [⟨0, 24, .ro, 0⟩, ⟨24, 1, .ro, 0⟩, ⟨25, 1, .ro, 0⟩, ⟨26, 1, .ro, 0⟩, ⟨27, 1, .ro, 0⟩, ⟨32, 16, .ro, 0⟩]⟩,
  ⟨0x480200, [(16, 0x8)], 8, .hm, [⟨0, 64, .ro, 0⟩]⟩,
  ⟨0x480300, [(16, 0x8)], 8, .m, [⟨0, 24, .rw, 0x800001⟩, ⟨24, 24, .rw, 0x7fffff⟩, ⟨48, 1, .rw, 0⟩]⟩,
  ⟨0x480400, [], 8, .hm, [⟨0, 64, .ctr, 0⟩]⟩,
  ⟨0x480408, [], 8, .hm, [⟨0, 64, .ctr, 0⟩]⟩,
  ⟨0x480410, [], 8, .hm, [⟨0, 64, .ctr, 0⟩]⟩]

/-- Registers of the LC block. -/
def regs_LC_0 : List RegSpec := [
  ⟨0x500000, [], 4, .hm, [⟨0, 3, .ro, 3⟩, ⟨3, 1, .ro, 0⟩, ⟨4, 5, .ro, 3⟩]⟩,
  ⟨0x500004, [], 4, .hmRead, [⟨0, 4, .rw, 0⟩, ⟨4, 4, .rw, 0⟩, ⟨8, 8, .rw, 0⟩, ⟨16, 8, .rw, 0⟩, ⟨24, 1, .rw, 0⟩, ⟨25, 1, .rw, 0⟩, ⟨26, 1, .rw, 0⟩, ⟨27, 1, .rw, 0⟩]⟩,
  ⟨0x500008, [], 4, .m, [⟨0, 2, .wo, 0⟩, ⟨2, 2, .wo, 0⟩]⟩,
  ⟨0x50000c, [], 4, .m, [⟨0, 16, .rw, 0x1388⟩, ⟨31, 1, .wo, 0⟩]⟩,
  ⟨0x500010, [], 4, .hm, [⟨0, 1, .ro, 0⟩, ⟨1, 1, .ro, 0⟩, ⟨2, 1, .ro, 0⟩, ⟨3, 1, .ro, 0⟩]⟩,
  ⟨0x500018, [], 8, .hm, [⟨0, 64, .ro, 0⟩]⟩,
  ⟨0x500020, [], 32, .hm, [⟨0, 256, .ro, 0⟩]⟩,
  ⟨0x500040, [], 8, .hm, [⟨0, 20, .ro, 0xfffff⟩, ⟨20, 20, .ro, 0⟩, ⟨40, 4, .ro, 0⟩, ⟨44, 3, .ro, 4⟩]⟩,
  ⟨0x500048, [], 8, .hm, [⟨0, 4, .ro, 0xf⟩, ⟨4, 4, .ro, 0xf⟩, ⟨8, 4, .ro, 0xf⟩, ⟨12, 4, .ro, 0xf⟩, ⟨16, 4, .ro, 0xf⟩, ⟨20, 4, .ro, 0xf⟩, ⟨24, 4, .ro, 0xf⟩, ⟨28, 4, .ro, 0xf⟩, ⟨32, 4, .ro, 0xf⟩, ⟨36, 4, .ro, 0xf⟩, ⟨40, 4, .ro, 0xf⟩, ⟨44, 4, .ro, 0xf⟩]⟩,
  ⟨0x500050, [], 4, .hm, [⟨0, 7, .ro, 0⟩]⟩,
  ⟨0x500054, [], 4, .bist, [⟨0, 1, .wo, 0⟩]⟩,
  ⟨0x500058, [], 4, .hm, [⟨0, 2, .ro, 0⟩, ⟨8, 8, .ro, 0xff⟩, ⟨16, 16, .ro, 0⟩]⟩,
  ⟨0x500060, [], 8, .hm, [⟨0, 64, .ro, 0⟩]⟩,
  ⟨0x500068, [], 4, .hm, [⟨0, 1, .wo, 0⟩, ⟨1, 1, .wo, 0⟩, ⟨16, 16, .ro, 0⟩]⟩,
  ⟨0x500080, [(20, 0x4)], 4, .hm, [⟨0, 7, .ro, 0⟩, ⟨8, 8, .ro, 0⟩, ⟨16, 8, .ro, 0⟩]⟩,
  ⟨0x5000d0, [(3, 0x4)], 4, .hm, [⟨0, 8, .ro, 0⟩]⟩,
  ⟨0x500100, [], 8, .hm, [⟨0, 64, .ctr, 0⟩]⟩,
  ⟨0x500108, [], 8, .hm, [⟨0, 64, .ctr, 0⟩]⟩,
  ⟨0x500110, [], 8, .hm, [⟨0, 64, .ctr, 0⟩]⟩,
  ⟨0x500118, [], 8, .hm, [⟨0, 64, .ctr, 0⟩]⟩]

/-- Registers of the LC block. -/
def regs_LC_1 : List RegSpec := [
  ⟨0x500120, [], 8, .hm, [⟨0, 64, .ctr, 0⟩]⟩]

/-- Registers of the STK block. -/
def regs_STK_0 : List RegSpec := [
  ⟨0x600000, [(3, 0x10000)], 4, .m, [⟨0, 1, .rws, 1⟩, ⟨1, 1, .rws, 1⟩, ⟨8, 8, .rws, 0x18⟩]⟩,
  ⟨0x600004, [(3, 0x10000)], 4, .hm, [⟨0, 3, .ro, 0⟩, ⟨8, 5, .ro, 0⟩, ⟨16, 8, .ro, 0⟩]⟩,
  ⟨0x600008, [(3, 0x10000)], 4, .hm, [⟨0, 32, .ro, 0⟩]⟩,
  ⟨0x600010, [(3, 0x10000)], 4, .m, [⟨0, 6, .wo, 0⟩, ⟨8, 2, .wo, 0⟩]⟩,
  ⟨0x600018, [(3, 0x10000)], 8, .hm, [⟨0, 64, .ro, 0xffffffffffffffff⟩]⟩,
  ⟨0x600020, [(3, 0x10000)], 8, .hm, [⟨0, 64, .ro, 0⟩]⟩,
  ⟨0x600028, [(3, 0x10000)], 8, .hm, [⟨0, 30, .ro, 0⟩, ⟨30, 2, .ro, 0⟩, ⟨32, 6, .ro, 0⟩, ⟨63, 1, .w1c, 0⟩]⟩,
  ⟨0x600030, [(3, 0x10000)], 8, .hm, [⟨0, 64, .ro, 0⟩]⟩,
  ⟨0x600038, [(3, 0x10000)], 4, .hm, [⟨0, 1, .wo, 0⟩, ⟨1, 1, .wo, 0⟩, ⟨16, 16, .ro, 0⟩]⟩,
  ⟨0x600040, [(3, 0x10000), (4, 0x8)], 8, .m, [⟨0, 19, .rws, 0⟩, ⟨20, 19, .rws, 0⟩, ⟨39, 1, .rws, 0⟩, ⟨40, 1, .rws, 0⟩]⟩,
  ⟨0x600080, [(3, 0x10000)], 8, .hm, [⟨0, 64, .ctr, 0⟩]⟩,
  ⟨0x600088, [(3, 0x10000)], 8, .hm, [⟨0, 64, .ctr, 0⟩]⟩,
  ⟨0x600090, [(3, 0x10000)], 8, .hm, [⟨0, 64, .ctr, 0⟩]⟩,
  ⟨0x600098, [(3, 0x10000)], 8, .hm, [⟨0, 64, .ctr, 0⟩]⟩,
  ⟨0x6000a0, [(3, 0x10000)], 8, .hm, [⟨0, 64, .ctr, 0⟩]⟩,
  ⟨0x6000a8, [(3, 0x10000)], 8, .hm, [⟨0, 64, .ctr, 0⟩]⟩,
  ⟨0x6000b0, [(3, 0x10000)], 8, .hm, [⟨0, 64, .ctr, 0⟩]⟩,
  ⟨0x6000b8, [(3, 0x10000)], 8, .hm, [⟨0, 64, .ctr, 0⟩]⟩,
  ⟨0x6000c0, [(3, 0x10000)], 8, .hm, [⟨0, 64, .ctr, 0⟩]⟩,
  ⟨0x6000c8, [(3, 0x10000)], 8, .hm, [⟨0, 64, .ctr, 0⟩]⟩]

/-- Registers of the STK block. -/
def regs_STK_1 : List RegSpec := [
  ⟨0x6000d0, [(3, 0x10000)], 8, .hm, [⟨0, 64, .ctr, 0⟩]⟩,
  ⟨0x6000d8, [(3, 0x10000)], 8, .hm, [⟨0, 64, .ctr, 0⟩]⟩,
  ⟨0x6000e0, [(3, 0x10000)], 8, .hm, [⟨0, 64, .ctr, 0⟩]⟩,
  ⟨0x6000e8, [(3, 0x10000)], 8, .hm, [⟨0, 64, .ctr, 0⟩]⟩,
  ⟨0x6000f0, [(3, 0x10000)], 8, .hm, [⟨0, 64, .ctr, 0⟩]⟩]

/-- Registers of the FAB block. -/
def regs_FAB_0 : List RegSpec := [
  ⟨0x800000, [(12, 0x10000)], 4, .m, [⟨0, 1, .rwl, 0⟩, ⟨1, 1, .rwl, 1⟩, ⟨2, 1, .rwl, 0⟩, ⟨3, 3, .rwl, 0⟩, ⟨6, 2, .rwl, 0⟩, ⟨16, 4, .wo, 0⟩]⟩,
  ⟨0x800004, [(12, 0x10000)], 4, .hm, [⟨0, 3, .ro, 0⟩, ⟨3, 1, .ro, 0⟩, ⟨4, 1, .ro, 0⟩, ⟨5, 3, .ro, 0⟩, ⟨8, 8, .ro, 0⟩, ⟨16, 4, .ro, 0xf⟩]⟩,
  ⟨0x800008, [(12, 0x10000)], 4, .m, [⟨0, 16, .rwl, 0⟩]⟩,
  ⟨0x800010, [(12, 0x10000)], 16, .m, [⟨0, 128, .rw, 0⟩]⟩,
  ⟨0x800020, [(12, 0x10000)], 4, .m, [⟨0, 16, .rws, 0x5aa⟩, ⟨16, 6, .rws, 0⟩, ⟨24, 8, .rws, 0x20⟩]⟩,
  ⟨0x800024, [(12, 0x10000)], 4, .m, [⟨0, 12, .rws, 0x4e2⟩, ⟨16, 12, .rws, 0x200⟩]⟩,
  ⟨0x800028, [(12, 0x10000)], 4, .m, [⟨0, 12, .rws, 0x64⟩, ⟨16, 12, .rws, 0x40⟩]⟩,
  ⟨0x80002c, [(12, 0x10000)], 4, .m, [⟨0, 1, .rws, 1⟩, ⟨4, 4, .rws, 0xc⟩, ⟨8, 8, .rws, 0x10⟩, ⟨16, 8, .rws, 1⟩]⟩,
  ⟨0x800030, [(12, 0x10000)], 4, .m, [⟨0, 8, .rws, 0x11⟩, ⟨8, 8, .rws, 0x10⟩, ⟨16, 4, .rws, 8⟩]⟩,
  ⟨0x800034, [(12, 0x10000)], 4, .hm, [⟨0, 16, .ro, 0⟩, ⟨16, 8, .ro, 0⟩, ⟨24, 1, .ro, 0⟩]⟩,
  ⟨0x800038, [(12, 0x10000)], 8, .hm, [⟨0, 16, .ro, 0⟩, ⟨16, 16, .ro, 0⟩, ⟨32, 16, .ro, 0⟩]⟩,
  ⟨0x800040, [(12, 0x10000)], 4, .hm, [⟨0, 1, .wo, 0⟩, ⟨1, 1, .wo, 0⟩, ⟨16, 16, .ro, 0⟩]⟩,
  ⟨0x800100, [(12, 0x10000), (64, 0x4)], 4, .m, [⟨0, 16, .rws, 0⟩, ⟨16, 1, .rws, 0⟩]⟩,
  ⟨0x800200, [(12, 0x10000), (64, 0x4)], 4, .hm, [⟨0, 16, .ro, 0⟩, ⟨16, 1, .ro, 0⟩]⟩,
  ⟨0x800300, [(12, 0x10000), (16, 0x4)], 4, .m, [⟨0, 16, .rws, 0⟩, ⟨16, 1, .rws, 0⟩, ⟨17, 1, .rw, 0⟩]⟩,
  ⟨0x800340, [(12, 0x10000), (4, 0x8)], 8, .m, [⟨0, 16, .rws, 0⟩, ⟨16, 16, .rws, 0⟩, ⟨32, 1, .rws, 0⟩]⟩,
  ⟨0x800360, [(12, 0x10000), (8, 0x8)], 8, .m, [⟨0, 19, .rws, 0⟩, ⟨20, 19, .rws, 0⟩, ⟨39, 1, .rws, 0⟩, ⟨40, 1, .rws, 0⟩, ⟨41, 1, .rws, 0⟩, ⟨42, 4, .rws, 0⟩]⟩,
  ⟨0x808000, [(12, 0x10000), (32768, 0x1)], 1, .m, [⟨0, 4, .rws, 0xf⟩, ⟨4, 4, .rws, 0xf⟩]⟩,
  ⟨0x800400, [(12, 0x10000)], 8, .hm, [⟨0, 64, .ctr, 0⟩]⟩,
  ⟨0x800408, [(12, 0x10000)], 8, .hm, [⟨0, 64, .ctr, 0⟩]⟩]

/-- Registers of the FAB block. -/
def regs_FAB_1 : List RegSpec := [
  ⟨0x800410, [(12, 0x10000)], 8, .hm, [⟨0, 64, .ctr, 0⟩]⟩,
  ⟨0x800418, [(12, 0x10000)], 8, .hm, [⟨0, 64, .ctr, 0⟩]⟩,
  ⟨0x800420, [(12, 0x10000)], 8, .hm, [⟨0, 64, .ctr, 0⟩]⟩,
  ⟨0x800428, [(12, 0x10000)], 8, .hm, [⟨0, 64, .ctr, 0⟩]⟩,
  ⟨0x800430, [(12, 0x10000)], 8, .hm, [⟨0, 64, .ctr, 0⟩]⟩,
  ⟨0x800438, [(12, 0x10000)], 8, .hm, [⟨0, 64, .ctr, 0⟩]⟩,
  ⟨0x800440, [(12, 0x10000)], 8, .hm, [⟨0, 64, .ctr, 0⟩]⟩,
  ⟨0x800448, [(12, 0x10000), (4, 0x8)], 8, .hm, [⟨0, 64, .ctr, 0⟩]⟩,
  ⟨0x800468, [(12, 0x10000)], 8, .hm, [⟨0, 64, .ctr, 0⟩]⟩,
  ⟨0x800470, [(12, 0x10000)], 8, .hm, [⟨0, 64, .ctr, 0⟩]⟩,
  ⟨0x800478, [(12, 0x10000)], 8, .hm, [⟨0, 64, .ctr, 0⟩]⟩,
  ⟨0x800480, [(12, 0x10000)], 8, .hm, [⟨0, 64, .ctr, 0⟩]⟩,
  ⟨0x800488, [(12, 0x10000)], 8, .hm, [⟨0, 64, .ctr, 0⟩]⟩,
  ⟨0x800490, [(12, 0x10000)], 8, .hm, [⟨0, 64, .ctr, 0⟩]⟩,
  ⟨0x800498, [(12, 0x10000)], 8, .hm, [⟨0, 64, .ctr, 0⟩]⟩,
  ⟨0x8004a0, [(12, 0x10000)], 8, .hm, [⟨0, 64, .ctr, 0⟩]⟩,
  ⟨0x8004a8, [(12, 0x10000)], 8, .hm, [⟨0, 64, .ctr, 0⟩]⟩,
  ⟨0x8004b0, [(12, 0x10000)], 8, .hm, [⟨0, 64, .ctr, 0⟩]⟩,
  ⟨0x8004b8, [(12, 0x10000)], 8, .hm, [⟨0, 64, .ctr, 0⟩]⟩,
  ⟨0x8004c0, [(12, 0x10000)], 8, .hm, [⟨0, 64, .ctr, 0⟩]⟩]

/-- Registers of the FAB block. -/
def regs_FAB_2 : List RegSpec := [
  ⟨0x8004c8, [(12, 0x10000)], 8, .hm, [⟨0, 64, .ctr, 0⟩]⟩,
  ⟨0x8004d0, [(12, 0x10000)], 8, .hm, [⟨0, 64, .ctr, 0⟩]⟩,
  ⟨0x8004d8, [(12, 0x10000)], 8, .hm, [⟨0, 64, .ctr, 0⟩]⟩,
  ⟨0x8004e0, [(12, 0x10000)], 8, .hm, [⟨0, 64, .ctr, 0⟩]⟩,
  ⟨0x8004e8, [(12, 0x10000)], 8, .hm, [⟨0, 64, .ctr, 0⟩]⟩,
  ⟨0x8004f0, [(12, 0x10000)], 8, .hm, [⟨0, 64, .ctr, 0⟩]⟩,
  ⟨0x8004f8, [(12, 0x10000)], 8, .hm, [⟨0, 64, .ctr, 0⟩]⟩,
  ⟨0x800500, [(12, 0x10000)], 8, .hm, [⟨0, 64, .ctr, 0⟩]⟩,
  ⟨0x800508, [(12, 0x10000)], 8, .hm, [⟨0, 64, .ctr, 0⟩]⟩,
  ⟨0x800510, [(12, 0x10000)], 8, .hm, [⟨0, 64, .ctr, 0⟩]⟩,
  ⟨0x800518, [(12, 0x10000)], 8, .hm, [⟨0, 64, .ctr, 0⟩]⟩,
  ⟨0x800520, [(12, 0x10000)], 8, .hm, [⟨0, 64, .ctr, 0⟩]⟩,
  ⟨0x800528, [(12, 0x10000)], 8, .hm, [⟨0, 64, .ctr, 0⟩]⟩,
  ⟨0x800530, [(12, 0x10000)], 8, .hm, [⟨0, 64, .ctr, 0⟩]⟩,
  ⟨0x800538, [(12, 0x10000)], 8, .hm, [⟨0, 64, .ctr, 0⟩]⟩,
  ⟨0x800540, [(12, 0x10000)], 8, .hm, [⟨0, 64, .ctr, 0⟩]⟩,
  ⟨0x800548, [(12, 0x10000)], 8, .hm, [⟨0, 64, .ctr, 0⟩]⟩]

/-- Registers of the CORE_CTL block. -/
def regs_CORE_CTL : List RegSpec := [
  ⟨0x1000000, [(20, 0x100000)], 4, .hm, [⟨0, 3, .ro, 0⟩, ⟨3, 1, .ro, 0⟩, ⟨4, 1, .ro, 0⟩, ⟨5, 1, .ro, 0⟩]⟩,
  ⟨0x1000004, [(20, 0x100000)], 4, .m, [⟨0, 4, .wo, 0⟩]⟩,
  ⟨0x1000008, [(20, 0x100000)], 4, .m, [⟨0, 4, .rws, 0⟩, ⟨4, 1, .rws, 0⟩, ⟨8, 4, .rws, 0⟩, ⟨12, 1, .rws, 0⟩]⟩,
  ⟨0x1000010, [(20, 0x100000)], 8, .m, [⟨5, 34, .rw, 0⟩]⟩,
  ⟨0x1000018, [(20, 0x100000)], 8, .m, [⟨6, 33, .rw, 0⟩]⟩,
  ⟨0x1000020, [(20, 0x100000)], 4, .m, [⟨0, 7, .wo, 0⟩]⟩,
  ⟨0x1000024, [(20, 0x100000)], 4, .hm, [⟨0, 1, .ro, 0⟩, ⟨1, 1, .ro, 0⟩, ⟨8, 8, .ro, 0⟩, ⟨16, 16, .ro, 0⟩]⟩,
  ⟨0x1000028, [(20, 0x100000)], 4, .hm, [⟨0, 1, .wo, 0⟩, ⟨1, 1, .wo, 0⟩, ⟨16, 16, .ro, 0⟩]⟩,
  ⟨0x1000040, [(20, 0x100000)], 8, .hm, [⟨0, 64, .ctr, 0⟩]⟩,
  ⟨0x1000048, [(20, 0x100000)], 8, .hm, [⟨0, 64, .ctr, 0⟩]⟩,
  ⟨0x1000050, [(20, 0x100000)], 8, .hm, [⟨0, 64, .ctr, 0⟩]⟩,
  ⟨0x1000058, [(20, 0x100000)], 8, .hm, [⟨0, 64, .ctr, 0⟩]⟩,
  ⟨0x1000060, [(20, 0x100000)], 8, .hm, [⟨0, 64, .ctr, 0⟩]⟩,
  ⟨0x1000068, [(20, 0x100000)], 8, .hm, [⟨0, 64, .ctr, 0⟩]⟩,
  ⟨0x1000070, [(20, 0x100000)], 8, .hm, [⟨0, 64, .ctr, 0⟩]⟩,
  ⟨0x1000078, [(20, 0x100000)], 8, .hm, [⟨0, 64, .ctr, 0⟩]⟩,
  ⟨0x1000080, [(20, 0x100000)], 8, .hm, [⟨0, 64, .ctr, 0⟩]⟩]

/-- Registers of the SEQ block. -/
def regs_SEQ : List RegSpec := [
  ⟨0x1010000, [(20, 0x100000)], 4, .m, [⟨0, 1, .rws, 0⟩]⟩,
  ⟨0x1010004, [(20, 0x100000)], 4, .hm, [⟨0, 1, .ro, 0⟩, ⟨1, 2, .ro, 0⟩, ⟨3, 4, .ro, 0⟩, ⟨7, 14, .ro, 0⟩]⟩,
  ⟨0x1010008, [(20, 0x100000)], 4, .hm, [⟨0, 32, .ro, 0⟩]⟩,
  ⟨0x101000c, [(20, 0x100000)], 4, .hm, [⟨0, 14, .ro, 0⟩, ⟨14, 1, .ro, 0⟩, ⟨15, 1, .ro, 0⟩, ⟨31, 1, .ro, 0⟩]⟩,
  ⟨0x1010010, [(20, 0x100000), (2, 0x4)], 4, .m, [⟨0, 1, .rwl, 0⟩, ⟨1, 4, .rwl, 0⟩, ⟨8, 15, .rwl, 0⟩]⟩,
  ⟨0x1010020, [(20, 0x100000)], 4, .m, [⟨0, 4, .rw, 0⟩]⟩,
  ⟨0x1010024, [(20, 0x100000)], 4, .hm, [⟨0, 1, .wo, 0⟩, ⟨1, 1, .wo, 0⟩, ⟨16, 16, .ro, 0⟩]⟩,
  ⟨0x1010080, [(20, 0x100000), (2, 0x40), (16, 0x4)], 4, .m, [⟨0, 14, .rwl, 0⟩]⟩,
  ⟨0x1014000, [(20, 0x100000), (1024, 0x10)], 16, .m, [⟨0, 15, .rws, 0⟩, ⟨15, 1, .rws, 0⟩, ⟨16, 15, .rws, 0⟩, ⟨32, 6, .rws, 0⟩, ⟨48, 8, .rws, 0⟩, ⟨64, 8, .rws, 0⟩, ⟨80, 16, .rws, 0⟩, ⟨96, 32, .rws, 0⟩]⟩,
  ⟨0x1010100, [(20, 0x100000)], 8, .hm, [⟨0, 64, .ctr, 0⟩]⟩,
  ⟨0x1010108, [(20, 0x100000)], 8, .hm, [⟨0, 64, .ctr, 0⟩]⟩,
  ⟨0x1010110, [(20, 0x100000)], 8, .hm, [⟨0, 64, .ctr, 0⟩]⟩,
  ⟨0x1010118, [(20, 0x100000)], 8, .hm, [⟨0, 64, .ctr, 0⟩]⟩,
  ⟨0x1010120, [(20, 0x100000)], 8, .hm, [⟨0, 64, .ctr, 0⟩]⟩,
  ⟨0x1010128, [(20, 0x100000)], 8, .hm, [⟨0, 64, .ctr, 0⟩]⟩,
  ⟨0x1010130, [(20, 0x100000)], 8, .hm, [⟨0, 64, .ctr, 0⟩]⟩,
  ⟨0x1010138, [(20, 0x100000)], 8, .hm, [⟨0, 64, .ctr, 0⟩]⟩,
  ⟨0x1010140, [(20, 0x100000)], 8, .hm, [⟨0, 64, .ctr, 0⟩]⟩,
  ⟨0x1010148, [(20, 0x100000)], 8, .hm, [⟨0, 64, .ctr, 0⟩]⟩,
  ⟨0x1010150, [(20, 0x100000)], 8, .hm, [⟨0, 64, .ctr, 0⟩]⟩]

/-- Registers of the SPAD block. -/
def regs_SPAD : List RegSpec := [
  ⟨0x1020000, [(20, 0x100000)], 4, .hm, [⟨0, 7, .ro, 0⟩, ⟨8, 7, .ro, 0⟩]⟩,
  ⟨0x1020008, [(20, 0x100000)], 8, .hm, [⟨0, 15, .ro, 0⟩, ⟨15, 5, .ro, 0⟩, ⟨20, 3, .ro, 0⟩, ⟨63, 1, .w1c, 0⟩]⟩,
  ⟨0x1020010, [(20, 0x100000)], 8, .hm, [⟨0, 64, .ro, 0⟩]⟩,
  ⟨0x1020018, [(20, 0x100000)], 4, .hm, [⟨0, 1, .wo, 0⟩, ⟨1, 1, .wo, 0⟩, ⟨16, 16, .ro, 0⟩]⟩,
  ⟨0x1021000, [(20, 0x100000), (64, 0x10)], 16, .hm, [⟨0, 15, .ro, 0⟩, ⟨15, 2, .ro, 0⟩, ⟨17, 1, .ro, 0⟩, ⟨18, 1, .ro, 0⟩, ⟨19, 1, .ro, 0⟩, ⟨32, 15, .ro, 0⟩, ⟨48, 16, .ro, 0⟩, ⟨64, 17, .ro, 0⟩, ⟨96, 17, .ro, 0⟩]⟩,
  ⟨0x1020040, [(20, 0x100000)], 8, .hm, [⟨0, 64, .ctr, 0⟩]⟩,
  ⟨0x1020048, [(20, 0x100000)], 8, .hm, [⟨0, 64, .ctr, 0⟩]⟩,
  ⟨0x1020050, [(20, 0x100000)], 8, .hm, [⟨0, 64, .ctr, 0⟩]⟩,
  ⟨0x1020058, [(20, 0x100000)], 8, .hm, [⟨0, 64, .ctr, 0⟩]⟩,
  ⟨0x1020060, [(20, 0x100000)], 8, .hm, [⟨0, 64, .ctr, 0⟩]⟩,
  ⟨0x1020068, [(20, 0x100000)], 8, .hm, [⟨0, 64, .ctr, 0⟩]⟩]

/-- Registers of the ARR block. -/
def regs_ARR : List RegSpec := [
  ⟨0x1040000, [(20, 0x100000), (2624, 0x40)], 4, .m, [⟨0, 12, .rws, 0xfff⟩, ⟨12, 1, .rws, 0⟩, ⟨28, 4, .wo, 0⟩]⟩,
  ⟨0x1040004, [(20, 0x100000), (2624, 0x40)], 4, .hm, [⟨0, 3, .ro, 3⟩, ⟨3, 1, .ro, 0⟩, ⟨4, 1, .w1c, 0⟩, ⟨5, 1, .w1c, 0⟩, ⟨6, 1, .w1c, 0⟩, ⟨7, 1, .w1c, 0⟩, ⟨8, 1, .w1c, 0⟩, ⟨16, 12, .ro, 0xfff⟩, ⟨28, 1, .ro, 0⟩]⟩,
  ⟨0x1040008, [(20, 0x100000), (2624, 0x40)], 4, .hm, [⟨0, 4, .rw, 0⟩, ⟨8, 1, .rw, 0⟩]⟩,
  ⟨0x104000c, [(20, 0x100000), (2624, 0x40)], 4, .hm, [⟨0, 6, .rws, 0⟩, ⟨8, 6, .rws, 0⟩, ⟨16, 6, .rws, 0⟩, ⟨24, 6, .rws, 0⟩]⟩,
  ⟨0x1040010, [(20, 0x100000), (2624, 0x40)], 4, .hm, [⟨0, 5, .rws, 0⟩, ⟨8, 5, .rws, 0⟩, ⟨16, 5, .rws, 0⟩, ⟨24, 5, .rws, 0⟩]⟩,
  ⟨0x1040014, [(20, 0x100000), (2624, 0x40)], 4, .hm, [⟨0, 8, .rws, 0⟩]⟩,
  ⟨0x1040018, [(20, 0x100000), (2624, 0x40)], 4, .hm, [⟨0, 1, .wo, 0⟩, ⟨1, 1, .wo, 0⟩, ⟨16, 16, .ro, 0⟩]⟩,
  ⟨0x104001c, [(20, 0x100000), (2624, 0x40)], 4, .hm, [⟨0, 16, .ro, 0⟩, ⟨16, 16, .ro, 0⟩]⟩,
  ⟨0x1040020, [(20, 0x100000), (2624, 0x40)], 8, .hm, [⟨0, 64, .ctr, 0⟩]⟩,
  ⟨0x1040028, [(20, 0x100000), (2624, 0x40)], 8, .hm, [⟨0, 64, .ctr, 0⟩]⟩,
  ⟨0x1040030, [(20, 0x100000), (2624, 0x40)], 8, .hm, [⟨0, 64, .ctr, 0⟩]⟩,
  ⟨0x1040038, [(20, 0x100000), (2624, 0x40)], 8, .hm, [⟨0, 64, .ctr, 0⟩]⟩]

/-- Registers of the CAL block. -/
def regs_CAL_0 : List RegSpec := [
  ⟨0x1080000, [(20, 0x100000)], 4, .m, [⟨0, 1, .rw, 0⟩, ⟨1, 1, .rws, 0⟩, ⟨2, 1, .rws, 0⟩, ⟨4, 4, .rws, 4⟩, ⟨8, 5, .rwl, 0x10⟩]⟩,
  ⟨0x1080004, [(20, 0x100000)], 4, .m, [⟨0, 1, .rws, 0⟩]⟩,
  ⟨0x1080008, [(20, 0x100000)], 4, .m, [⟨0, 4, .wo, 0⟩, ⟨4, 2, .wo, 0⟩, ⟨6, 1, .wo, 0⟩, ⟨16, 12, .wo, 0⟩, ⟨28, 1, .wo, 0⟩]⟩,
  ⟨0x108000c, [(20, 0x100000)], 4, .hm, [⟨0, 1, .ro, 0⟩, ⟨1, 1, .ro, 0⟩, ⟨8, 8, .ro, 0⟩, ⟨16, 4, .ro, 0⟩, ⟨20, 4, .ro, 0⟩]⟩,
  ⟨0x1080010, [(20, 0x100000)], 4, .hm, [⟨0, 16, .ro, 0⟩, ⟨16, 16, .ro, 0⟩]⟩,
  ⟨0x1080014, [(20, 0x100000)], 4, .m, [⟨0, 8, .rws, 0x1a⟩, ⟨8, 4, .rws, 3⟩]⟩,
  ⟨0x1080018, [(20, 0x100000)], 4, .m, [⟨0, 8, .rws, 0x18⟩, ⟨16, 16, .rws, 0x100⟩]⟩,
  ⟨0x108001c, [(20, 0x100000)], 4, .m, [⟨0, 24, .rws, 0x4000⟩]⟩,
  ⟨0x1080020, [(20, 0x100000)], 4, .hm, [⟨0, 5, .rw, 0⟩]⟩,
  ⟨0x1080024, [(20, 0x100000)], 4, .hm, [⟨0, 12, .ro, 0⟩, ⟨16, 12, .ro, 0⟩]⟩,
  ⟨0x1080028, [(20, 0x100000)], 8, .hm, [⟨0, 64, .ro, 0⟩]⟩,
  ⟨0x1080030, [(20, 0x100000)], 4, .hm, [⟨0, 1, .wo, 0⟩, ⟨1, 1, .wo, 0⟩, ⟨16, 16, .ro, 0⟩]⟩,
  ⟨0x1080100, [(20, 0x100000), (82, 0x4)], 4, .hm, [⟨0, 32, .w1c, 0⟩]⟩,
  ⟨0x1081000, [(20, 0x100000), (2624, 0x4)], 4, .hm, [⟨0, 8, .ro, 0⟩, ⟨8, 6, .ro, 0⟩, ⟨16, 12, .ro, 0⟩]⟩,
  ⟨0x1080040, [(20, 0x100000)], 8, .hm, [⟨0, 64, .ctr, 0⟩]⟩,
  ⟨0x1080048, [(20, 0x100000)], 8, .hm, [⟨0, 64, .ctr, 0⟩]⟩,
  ⟨0x1080050, [(20, 0x100000)], 8, .hm, [⟨0, 64, .ctr, 0⟩]⟩,
  ⟨0x1080058, [(20, 0x100000)], 8, .hm, [⟨0, 64, .ctr, 0⟩]⟩,
  ⟨0x1080060, [(20, 0x100000)], 8, .hm, [⟨0, 64, .ctr, 0⟩]⟩,
  ⟨0x1080068, [(20, 0x100000)], 8, .hm, [⟨0, 64, .ctr, 0⟩]⟩]

/-- Registers of the CAL block. -/
def regs_CAL_1 : List RegSpec := [
  ⟨0x1080070, [(20, 0x100000)], 8, .hm, [⟨0, 64, .ctr, 0⟩]⟩,
  ⟨0x1080078, [(20, 0x100000)], 8, .hm, [⟨0, 64, .ctr, 0⟩]⟩]

/-- Registers of the LEAVEN block. -/
def regs_LEAVEN_0 : List RegSpec := [
  ⟨0x1090000, [(20, 0x100000)], 4, .m, [⟨0, 4, .rwl, 0xc⟩, ⟨4, 4, .rwl, 0xf⟩]⟩,
  ⟨0x1090008, [(20, 0x100000)], 8, .hm, [⟨0, 64, .ro, 0xffffffffffffffff⟩]⟩,
  ⟨0x1090010, [(20, 0x100000)], 4, .hm, [⟨0, 1, .wo, 0⟩, ⟨1, 1, .wo, 0⟩, ⟨16, 16, .ro, 0⟩]⟩,
  ⟨0x1090100, [(20, 0x100000), (8, 0x4)], 4, .hm, [⟨0, 32, .ro, 0⟩]⟩,
  ⟨0x1091000, [(20, 0x100000), (256, 0x10)], 4, .m, [⟨0, 1, .rws, 0⟩, ⟨1, 2, .rws, 0⟩, ⟨3, 2, .rws, 0⟩, ⟨5, 1, .rws, 0⟩, ⟨8, 8, .rws, 0⟩, ⟨16, 12, .rws, 0⟩]⟩,
  ⟨0x1091004, [(20, 0x100000), (256, 0x10)], 4, .m, [⟨0, 32, .rws, 0x3f800000⟩]⟩,
  ⟨0x1091008, [(20, 0x100000), (256, 0x10)], 4, .m, [⟨0, 32, .rws, 0x3f800000⟩]⟩,
  ⟨0x109100c, [(20, 0x100000), (256, 0x10)], 4, .m, [⟨0, 1, .rwl, 0⟩, ⟨1, 1, .rwl, 0⟩, ⟨2, 1, .rwl, 0⟩, ⟨3, 1, .rwl, 0⟩]⟩,
  ⟨0x1092000, [(20, 0x100000), (256, 0x4)], 4, .hm, [⟨0, 1, .w1c, 0⟩, ⟨1, 1, .w1c, 0⟩, ⟨2, 1, .w1c, 0⟩, ⟨3, 1, .w1c, 0⟩]⟩,
  ⟨0x1093000, [(20, 0x100000), (256, 0x4)], 4, .hm, [⟨0, 1, .ro, 0⟩, ⟨1, 2, .ro, 0⟩, ⟨3, 2, .ro, 0⟩, ⟨5, 1, .ro, 0⟩, ⟨8, 8, .ro, 0⟩, ⟨16, 12, .ro, 0⟩]⟩,
  ⟨0x1094000, [(20, 0x100000), (256, 0x4)], 4, .hm, [⟨0, 8, .ro, 0⟩, ⟨31, 1, .wo, 0⟩]⟩,
  ⟨0x1090040, [(20, 0x100000)], 8, .hm, [⟨0, 64, .ctr, 0⟩]⟩,
  ⟨0x1090048, [(20, 0x100000)], 8, .hm, [⟨0, 64, .ctr, 0⟩]⟩,
  ⟨0x1090050, [(20, 0x100000)], 8, .hm, [⟨0, 64, .ctr, 0⟩]⟩,
  ⟨0x1090058, [(20, 0x100000)], 8, .hm, [⟨0, 64, .ctr, 0⟩]⟩,
  ⟨0x1090060, [(20, 0x100000)], 8, .hm, [⟨0, 64, .ctr, 0⟩]⟩,
  ⟨0x1090068, [(20, 0x100000)], 8, .hm, [⟨0, 64, .ctr, 0⟩]⟩,
  ⟨0x1090070, [(20, 0x100000)], 8, .hm, [⟨0, 64, .ctr, 0⟩]⟩,
  ⟨0x1090078, [(20, 0x100000)], 8, .hm, [⟨0, 64, .ctr, 0⟩]⟩,
  ⟨0x1090080, [(20, 0x100000)], 8, .hm, [⟨0, 64, .ctr, 0⟩]⟩]

/-- Registers of the LEAVEN block. -/
def regs_LEAVEN_1 : List RegSpec := [
  ⟨0x1090088, [(20, 0x100000)], 8, .hm, [⟨0, 64, .ctr, 0⟩]⟩]

/-- Registers of the PROOF block. -/
def regs_PROOF : List RegSpec := [
  ⟨0x10a0000, [(20, 0x100000)], 4, .m, [⟨0, 1, .rws, 1⟩, ⟨8, 8, .rws, 0xc⟩, ⟨16, 4, .rws, 3⟩, ⟨20, 8, .rws, 0x40⟩]⟩,
  ⟨0x10a0004, [(20, 0x100000)], 4, .m, [⟨0, 12, .rws, 0x74⟩]⟩,
  ⟨0x10a0008, [(20, 0x100000)], 8, .m, [⟨0, 64, .rwl, 1⟩]⟩,
  ⟨0x10a0010, [(20, 0x100000)], 8, .m, [⟨17, 22, .rwl, 0⟩]⟩,
  ⟨0x10a0018, [(20, 0x100000)], 4, .hm, [⟨0, 1, .wo, 0⟩, ⟨1, 1, .wo, 0⟩, ⟨16, 16, .ro, 0⟩]⟩,
  ⟨0x10a0020, [(20, 0x100000), (8, 0x4)], 4, .m, [⟨0, 12, .rws, 0⟩, ⟨31, 1, .rws, 0⟩]⟩,
  ⟨0x10a0040, [(20, 0x100000)], 8, .hm, [⟨0, 12, .ro, 0⟩, ⟨12, 12, .ro, 0⟩, ⟨24, 1, .ro, 0⟩, ⟨25, 1, .ro, 0⟩, ⟨26, 1, .ro, 0⟩, ⟨27, 1, .ro, 0⟩, ⟨28, 13, .ro, 0⟩, ⟨41, 15, .ro, 0⟩, ⟨56, 8, .ro, 0⟩]⟩,
  ⟨0x10a0048, [(20, 0x100000)], 8, .hm, [⟨0, 64, .ro, 0⟩]⟩,
  ⟨0x10a0050, [(20, 0x100000)], 8, .hm, [⟨0, 64, .ctr, 0⟩]⟩,
  ⟨0x10a0058, [(20, 0x100000)], 8, .hm, [⟨0, 64, .ctr, 0⟩]⟩,
  ⟨0x10a0060, [(20, 0x100000)], 8, .hm, [⟨0, 64, .ctr, 0⟩]⟩,
  ⟨0x10a0068, [(20, 0x100000)], 8, .hm, [⟨0, 64, .ctr, 0⟩]⟩,
  ⟨0x10a0070, [(20, 0x100000)], 8, .hm, [⟨0, 64, .ctr, 0⟩]⟩,
  ⟨0x10a0078, [(20, 0x100000)], 8, .hm, [⟨0, 64, .ctr, 0⟩]⟩]

/-- Registers of the RTR block. -/
def regs_RTR : List RegSpec := [
  ⟨0x10b0000, [(20, 0x100000)], 4, .m, [⟨0, 1, .rw, 0⟩]⟩,
  ⟨0x10b0004, [(20, 0x100000)], 4, .hm, [⟨0, 1, .ro, 1⟩, ⟨1, 1, .ro, 0⟩, ⟨2, 1, .ro, 0⟩]⟩,
  ⟨0x10b0008, [(20, 0x100000)], 4, .hm, [⟨0, 1, .wo, 0⟩, ⟨1, 1, .wo, 0⟩, ⟨16, 16, .ro, 0⟩]⟩,
  ⟨0x10b0040, [(20, 0x100000), (8, 0x8)], 8, .m, [⟨0, 19, .rws, 0⟩, ⟨20, 19, .rws, 0⟩, ⟨39, 1, .rws, 0⟩, ⟨40, 1, .rws, 0⟩, ⟨41, 1, .rws, 0⟩]⟩,
  ⟨0x10b0100, [(20, 0x100000), (37, 0x4)], 4, .m, [⟨0, 3, .rwl, 7⟩, ⟨3, 1, .rwl, 0⟩]⟩,
  ⟨0x10b0200, [(20, 0x100000), (37, 0x4)], 4, .hm, [⟨0, 6, .ro, 0⟩, ⟨8, 10, .ro, 0⟩, ⟨18, 1, .ro, 0⟩, ⟨19, 1, .ro, 0⟩]⟩,
  ⟨0x10b0300, [(20, 0x100000)], 8, .hm, [⟨0, 64, .ctr, 0⟩]⟩,
  ⟨0x10b0308, [(20, 0x100000)], 8, .hm, [⟨0, 64, .ctr, 0⟩]⟩,
  ⟨0x10b0310, [(20, 0x100000)], 8, .hm, [⟨0, 64, .ctr, 0⟩]⟩,
  ⟨0x10b0318, [(20, 0x100000)], 8, .hm, [⟨0, 64, .ctr, 0⟩]⟩,
  ⟨0x10b0320, [(20, 0x100000)], 8, .hm, [⟨0, 64, .ctr, 0⟩]⟩,
  ⟨0x10b0328, [(20, 0x100000)], 8, .hm, [⟨0, 64, .ctr, 0⟩]⟩,
  ⟨0x10b0330, [(20, 0x100000)], 8, .hm, [⟨0, 64, .ctr, 0⟩]⟩,
  ⟨0x10b0338, [(20, 0x100000)], 8, .hm, [⟨0, 64, .ctr, 0⟩]⟩,
  ⟨0x10b0340, [(20, 0x100000)], 8, .hm, [⟨0, 64, .ctr, 0⟩]⟩,
  ⟨0x10b0348, [(20, 0x100000)], 8, .hm, [⟨0, 64, .ctr, 0⟩]⟩,
  ⟨0x10b0350, [(20, 0x100000)], 8, .hm, [⟨0, 64, .ctr, 0⟩]⟩,
  ⟨0x10b0358, [(20, 0x100000)], 8, .hm, [⟨0, 64, .ctr, 0⟩]⟩]

/-- Registers of the SRV block. -/
def regs_SRV_0 : List RegSpec := [
  ⟨0x3000000, [], 4, .m, [⟨0, 1, .rwl, 0⟩, ⟨8, 8, .rws, 0x40⟩]⟩,
  ⟨0x3000004, [], 4, .hm, [⟨0, 14, .ro, 0⟩]⟩,
  ⟨0x3000008, [], 4, .hm, [⟨0, 1, .wo, 0⟩, ⟨1, 1, .wo, 0⟩, ⟨16, 16, .ro, 0⟩]⟩,
  ⟨0x3000100, [(16, 0x40)], 64, .m, [⟨1, 1, .rwl, 0⟩, ⟨2, 13, .rwl, 0⟩, ⟨15, 11, .rwl, 0⟩, ⟨32, 11, .rwl, 0⟩, ⟨48, 4, .rws, 8⟩, ⟨52, 12, .rwl, 0x10⟩, ⟨64, 16, .rws, 0xffff⟩, ⟨96, 19, .rwl, 0x2000⟩, ⟨128, 4, .rwl, 0⟩, ⟨132, 6, .rwl, 0⟩, ⟨138, 1, .rwl, 0⟩, ⟨139, 6, .rwl, 0⟩, ⟨160, 24, .rwl, 0⟩, ⟨192, 24, .ro, 0⟩, ⟨224, 32, .rws, 0xe10⟩, ⟨256, 64, .rwl, 0⟩, ⟨320, 64, .rwl, 0⟩, ⟨384, 2, .rwl, 0⟩, ⟨400, 16, .rwl, 0⟩, ⟨416, 16, .rws, 0x2710⟩, ⟨448, 64, .rwl, 0⟩, ⟨0, 1, .rwl, 0⟩]⟩,
  ⟨0x3000800, [(20, 0x4)], 4, .m, [⟨0, 11, .rwl, 0⟩, ⟨11, 1, .rwl, 0⟩, ⟨12, 1, .rwl, 0⟩]⟩,
  ⟨0x3001000, [(8, 0x8)], 8, .m, [⟨0, 32, .rws, 0⟩, ⟨32, 32, .rws, 0⟩]⟩,
  ⟨0x3002000, [(8, 0x80), (32, 0x4)], 4, .m, [⟨0, 32, .rws, 0xffffffff⟩]⟩,
  ⟨0x3003000, [(64, 0x8)], 8, .hm, [⟨0, 16, .rws, 0⟩, ⟨16, 16, .rws, 0⟩, ⟨32, 2, .rws, 0⟩, ⟨34, 1, .rws, 0⟩, ⟨35, 13, .ro, 0⟩]⟩,
  ⟨0x3010000, [(1024, 0x10)], 12, .m, [⟨0, 32, .rws, 0⟩, ⟨32, 32, .rws, 0⟩, ⟨64, 1, .rws, 0⟩, ⟨65, 1, .rws, 0⟩]⟩,
  ⟨0x301000c, [(1024, 0x10)], 4, .hm, [⟨0, 32, .ro, 0⟩]⟩,
  ⟨0x3100000, [(8192, 0x80)], 128, .hmRead, [⟨0, 4, .rw, 0⟩, ⟨4, 2, .rw, 0⟩, ⟨6, 4, .rw, 0⟩, ⟨10, 3, .rw, 0⟩, ⟨13, 1, .rw, 0⟩, ⟨14, 1, .rw, 0⟩, ⟨15, 1, .rw, 0⟩, ⟨16, 8, .rw, 0⟩, ⟨24, 8, .rw, 0⟩, ⟨32, 32, .rw, 0⟩, ⟨64, 32, .rw, 0⟩, ⟨96, 32, .rw, 0⟩, ⟨128, 32, .rw, 0⟩, ⟨160, 32, .rw, 0⟩, ⟨192, 32, .rw, 0⟩, ⟨224, 10, .rw, 0⟩, ⟨240, 6, .rw, 0⟩, ⟨246, 1, .rw, 0⟩, ⟨256, 16, .rw, 0⟩, ⟨272, 4, .rw, 0⟩, ⟨276, 4, .rw, 0⟩, ⟨280, 8, .rw, 0⟩, ⟨288, 11, .rw, 0⟩, ⟨299, 1, .rw, 0⟩, ⟨300, 6, .rw, 0⟩, ⟨320, 64, .rw, 0⟩, ⟨384, 64, .rw, 0⟩, ⟨448, 64, .rw, 0⟩, ⟨512, 64, .rw, 0⟩, ⟨576, 64, .rw, 0⟩, ⟨640, 64, .rw, 0⟩, ⟨704, 64, .rw, 0⟩, ⟨768, 32, .rw, 0⟩, ⟨800, 32, .rw, 0⟩, ⟨832, 64, .rw, 0⟩, ⟨896, 64, .rw, 0⟩]⟩,
  ⟨0x3400000, [(8192, 0x400), (144, 0x4)], 4, .hmRead, [⟨0, 32, .rw, 0⟩]⟩,
  ⟨0x3400240, [(8192, 0x400)], 448, .hmRead, []⟩,
  ⟨0x3f00000, [(4096, 0x8)], 8, .m, [⟨0, 16, .rws, 0⟩, ⟨16, 16, .rws, 0⟩, ⟨32, 4, .rws, 0xf⟩, ⟨36, 4, .rws, 0⟩, ⟨40, 1, .rws, 0⟩]⟩,
  ⟨0x3020000, [], 8, .hm, [⟨0, 64, .ctr, 0⟩]⟩,
  ⟨0x3020008, [], 8, .hm, [⟨0, 64, .ctr, 0⟩]⟩,
  ⟨0x3020010, [], 8, .hm, [⟨0, 64, .ctr, 0⟩]⟩,
  ⟨0x3020018, [], 8, .hm, [⟨0, 64, .ctr, 0⟩]⟩,
  ⟨0x3020020, [], 8, .hm, [⟨0, 64, .ctr, 0⟩]⟩,
  ⟨0x3020028, [], 8, .hm, [⟨0, 64, .ctr, 0⟩]⟩]

/-- Registers of the SRV block. -/
def regs_SRV_1 : List RegSpec := [
  ⟨0x3020030, [], 8, .hm, [⟨0, 64, .ctr, 0⟩]⟩,
  ⟨0x3020038, [], 8, .hm, [⟨0, 64, .ctr, 0⟩]⟩,
  ⟨0x3020040, [], 8, .hm, [⟨0, 64, .ctr, 0⟩]⟩,
  ⟨0x3020048, [], 8, .hm, [⟨0, 64, .ctr, 0⟩]⟩,
  ⟨0x3020050, [], 8, .hm, [⟨0, 64, .ctr, 0⟩]⟩,
  ⟨0x3020058, [], 8, .hm, [⟨0, 64, .ctr, 0⟩]⟩,
  ⟨0x3020060, [], 8, .hm, [⟨0, 64, .ctr, 0⟩]⟩,
  ⟨0x3020068, [], 8, .hm, [⟨0, 64, .ctr, 0⟩]⟩,
  ⟨0x3020070, [], 8, .hm, [⟨0, 64, .ctr, 0⟩]⟩,
  ⟨0x3020078, [], 8, .hm, [⟨0, 64, .ctr, 0⟩]⟩,
  ⟨0x3020080, [], 8, .hm, [⟨0, 64, .ctr, 0⟩]⟩,
  ⟨0x3020088, [], 8, .hm, [⟨0, 64, .ctr, 0⟩]⟩,
  ⟨0x3020090, [], 8, .hm, [⟨0, 64, .ctr, 0⟩]⟩,
  ⟨0x3020098, [], 8, .hm, [⟨0, 64, .ctr, 0⟩]⟩,
  ⟨0x30200a0, [], 8, .hm, [⟨0, 64, .ctr, 0⟩]⟩,
  ⟨0x3020100, [(8, 0x8)], 8, .hm, [⟨0, 64, .ctr, 0⟩]⟩,
  ⟨0x3020140, [(8, 0x8)], 8, .hm, [⟨0, 64, .ctr, 0⟩]⟩,
  ⟨0x3c00000, [(4096, 0x10)], 8, .hm, [⟨0, 64, .ctr, 0⟩]⟩,
  ⟨0x3c00008, [(4096, 0x10)], 8, .hm, [⟨0, 64, .ctr, 0⟩]⟩,
  ⟨0x3f10000, [], 8, .hm, [⟨0, 64, .ctr, 0⟩]⟩]

/-- The whole map. -/
def regTable : List RegSpec :=
  regs_GLB ++
  regs_MBX ++
  regs_TB_0 ++
  regs_TB_1 ++
  regs_FLT_0 ++
  regs_FLT_1 ++
  regs_THM ++
  regs_TEL ++
  regs_LC_0 ++
  regs_LC_1 ++
  regs_STK_0 ++
  regs_STK_1 ++
  regs_FAB_0 ++
  regs_FAB_1 ++
  regs_FAB_2 ++
  regs_CORE_CTL ++
  regs_SEQ ++
  regs_SPAD ++
  regs_ARR ++
  regs_CAL_0 ++
  regs_CAL_1 ++
  regs_LEAVEN_0 ++
  regs_LEAVEN_1 ++
  regs_PROOF ++
  regs_RTR ++
  regs_SRV_0 ++
  regs_SRV_1

end Sys2Proof.Machine
end

