-- ==== Sys2Proof/Machine/Regs.lean ====
section
/-! DEFINITION. The register path: addresses, access rights, access types, locking, reads and snapshots (R13 to R23, R43). -/
namespace Sys2Proof.Machine

/-! ### Addresses -/

/-- First byte addresses of the elements of an array of registers that overlap bytes `a` to `a + n - 1`. -/
def elems (base bytes : Nat) : List (Nat × Nat) → Nat → Nat → List Nat
  | [], a, n => if base < a + n && a < base + bytes then [base] else []
  | (cnt, st) :: ds, a, n =>
    if a + n ≤ base then []
    else
      let k0 := (a - base) / st
      let k1 := (a + n - 1 - base) / st
      ((List.range (k1 + 1 - k0)).map fun i => k0 + i).flatMap fun k =>
        if k < cnt then elems (base + k * st) bytes ds a n else []

/-- The registers that overlap bytes `a` to `a + n - 1`, with their byte addresses. -/
def hits (a n : Nat) : List (RegSpec × Nat) :=
  regTable.flatMap fun r => (elems r.base r.bytes r.dims a n).map fun e => (r, e)

/-- The field of a register at byte address `e`. The seed of PROOF starts at the core's number (Table 3.17, log entry 1). -/
def fieldAt (e : Nat) (f : FieldSpec) : Fld :=
  let k := 8 * e + f.lo
  let c := (e - 0x1000000) / 0x100000
  if 0x1000000 ≤ e && c < 20 && e % 0x100000 = 0xA0008 then F.PROOF_SEED_SEED c else ⟨k, f.width, f.reset⟩

/-- Number of the core in whose block a byte address lies. -/
def coreOf (a : Nat) : Option Nat :=
  if 0x1000000 ≤ a && a < 0x1000000 + 20 * 0x100000 then some ((a - 0x1000000) / 0x100000) else none

/-- Offset in a core block. -/
def coreOfs (a : Nat) : Nat := a % 0x100000

/-- The program window (Table 6.23) and the window of the calibration store (R140) of a core block. -/
def inProgWindow (a : Nat) : Bool := (coreOf a).isSome && 0x18000 ≤ coreOfs a && coreOfs a < 0x20000
/-- The calibration-store window. -/
def inCalWindow (a : Nat) : Bool := (coreOf a).isSome && 0x88000 ≤ coreOfs a && coreOfs a < 0x90000

/-! ### Rights (R18, R43) -/

/-- Life-cycle state FACTORY_TEST. -/
def factoryTest (s : State) : Bool := get s F.LC_STATE_STATE == 1

/-- The agent may read (`wr` false) or write a register. -/
def mayReach (s : State) (a : Agent) (wr : Bool) : Reach → Bool
  | .hm => true
  | .m => decide (a = .mgmt)
  | .hmRead => !wr || decide (a = .mgmt)
  | .factory => factoryTest s
  | .bist => factoryTest s || decide (a = .mgmt)

/-- The address lies in a compute domain that is off or held in reset, or in the network plane or a stack while they are (R366, Table 13.7). -/
def domainDown (s : State) (a : Nat) : Bool :=
  (decide (0x600000 ≤ a) && netHeld s) ||
  match coreOf a with
  | some c => 0x10000 ≤ coreOfs a && coreOfs a < 0xB0000 && !coreUp s c
  | none => false

/-- The access reaches a register or window. -/
def admitted (s : State) (a : Agent) (wr : Bool) (addr n : Nat) : Bool :=
  !domainDown s addr &&
  (if inProgWindow addr then decide (a = .mgmt)
   else inCalWindow addr || (hits addr n).any fun h => mayReach s a wr h.1.reach)

/-- An access without rights, or to an unassigned address, is counted. -/
def denied (s : State) : State := bump F.GLB_DENIED_CNT s

/-! ### Reading -/

/-- Values of an agent's own copies (Tables 2.13, 4.6). -/
def ownCopy (a : Nat) : Bool :=
  match coreOf a with
  | some _ => coreOfs a / 4 == 0x20008 || (0x40000 ≤ coreOfs a && coreOfs a < 0x40000 + 2624 * 64 && coreOfs a % 64 / 4 == 2)
  | none => false

/-- Value of a field for an agent that has its own copy of some. -/
def getFor (s : State) (a : Agent) (f : Fld) : Nat :=
  if ownCopy (f.key / 8) && decide (a = .mgmt) then SMap.get f.reset s.regsM f.key else get s f

/-- Writes a field for an agent. -/
def setFor (a : Agent) (f : Fld) (v : Nat) (s : State) : State :=
  if ownCopy (f.key / 8) && decide (a = .mgmt) then
    { s with regsM := SMap.put f.reset s.regsM f.key (v % 2 ^ f.width) }
  else set f v s

/-- CAL_STATUS.SET_VALID: bit `k` says that set `k` has a valid record for every array that is not FUSED (Table 4.9). -/
def setValid (s : State) (c : Nat) : Nat :=
  let all := fun k => (List.range 2624).all fun n => get s (F.ARR_STAT_STATE c n) == 0 || recValid (recBytes s c k n)
  (List.range 4).foldl (fun m k => if all k then m + 2 ^ k else m) 0

/-- CAL_STATUS.SET_SYNTH: bit `k` says that a record of set `k` has SYNTH = 1. -/
def setSynth (s : State) (c : Nat) : Nat :=
  let some_ := fun k => (List.range 2624).any fun n => bit (leAt (recBytes s c k n) 55 1) 1
  (List.range 4).foldl (fun m k => if some_ k then m + 2 ^ k else m) 0

/-- Fields that show the active value of an RWS field, or a selection (R15): the value shown. -/
def viewOf (s : State) (a : Agent) (e lo : Nat) : Option Nat :=
  if 0x30 ≤ e && e < 0x40 then
    some (actv s (if lo = 0 then F.GLB_CORE_MAP_PHYS (e - 0x30) else F.GLB_CORE_MAP_VALID (e - 0x30)))
  else if 0x200100 ≤ e && e < 0x200140 && lo = 4 then some (actv s (F.TB_PART_DIV_LOG2 ((e - 0x200100) / 4)))
  else if 0x200080 ≤ e && e < 0x2000B0 && lo = 31 then some (if delayValid s ((e - 0x200080) / 4) then 1 else 0)
  else if e = 0x500018 then some ((((now s : Int) - s.time.upOfs) / 1000000).toNat)
  else if e = 0x200024 && lo = 8 then some (actv s F.TB_HALF_CLK_WEST_SLOW)
  else if e = 0x200024 && lo = 9 then some (actv s F.TB_HALF_CLK_EAST_SLOW)
  else if 0x800000 ≤ e && e < 0x8C0000 && 0x200 ≤ e % 0x10000 && e % 0x10000 < 0x300 then
    let p := (e - 0x800000) / 0x10000
    let i := (e % 0x10000 - 0x200) / 4
    some (actv s (if lo = 0 then F.FAB_SLOT_OWN_PID p i else F.FAB_SLOT_OWN_VALID p i))
  else match coreOf e with
    | none => none
    | some c =>
      let o := coreOfs e
      if o = 0x8000C && lo = 16 then some (setValid s c)
      else if o = 0x8000C && lo = 20 then some (setSynth s c)
      else if o = 0x10004 && lo = 0 then some (actv s (F.SEQ_CTL_BANK c))
      else if 0x93000 ≤ o && o < 0x93400 then
        let i := (o - 0x93000) / 4
        (((hits (coreBase c + 0x91000 + 16 * i) 4).flatMap fun h => h.1.fields).find? fun f => f.lo == lo).map fun f =>
          actv s ⟨8 * (coreBase c + 0x91000 + 16 * i) + lo, f.width, f.reset⟩
      else if 0x40000 ≤ o && o < 0x40000 + 2624 * 64 then
        let n := (o - 0x40000) / 64
        let r := o % 64
        if r = 4 && lo = 16 then some (actv s (F.ARR_CTL_SLOT c n))
        else if r = 4 && lo = 28 then some (actv s (F.ARR_CTL_FMT c n))
        else if r = 0xC then some (get s (trimOfs c n (4 * trimGroup s a c n + lo / 8)))
        else if r = 0x10 then some (get s (trimGain c n (4 * trimGroup s a c n + lo / 8)))
        else if 0x20 ≤ r && getFor s a (F.ARR_ACC_SNAP_VIEW c n) = 1 then some (SMap.get 0 s.snap (8 * e))
        else none
      else none

/-- Bits of the field at bit `lo` of an entry of SRV_ENT that exist while the entry is a ring entry: Table 11.4 reserves the others. -/
def ringBits (lo : Nat) : Nat :=
  if lo = 0 then 4 else if lo = 4 then 2 else if lo = 6 then 1 else if lo = 32 then 13 else if lo = 64 then 32 else 0

/-- The value that a field at byte address `e` has where the layout of its register depends on TYPE: reserved bits of a ring entry are 0. -/
def ringCut (s : State) (e lo v : Nat) : Nat :=
  if 0x3100000 ≤ e && e < 0x3200000 && get s ⟨8 * e + 4, 2, 0⟩ == 1 then v % 2 ^ ringBits lo else v

/-- Value of a field as an agent reads it. -/
def readField (s : State) (a : Agent) (e : Nat) (f : FieldSpec) : Nat :=
  match f.acc with
  | .wo => 0
  | _ => match viewOf s a e f.lo with
    | some v => v
    | none => ringCut s e f.lo (getFor s a (fieldAt e f))

/-- The part of a field that an access of `n` bits at bit address `w` covers: first bit within the field, first bit within
the access, and length. -/
def cover (g width w n : Nat) : Nat × Nat × Nat :=
  let lo := max g w
  let hi := min (g + width) (w + n)
  (lo - g, lo - w, hi - lo)

/-- `n` bits read at byte address `addr`. -/
def readBits (s : State) (a : Agent) (addr n : Nat) : Nat :=
  if inProgWindow addr then
    match coreOf addr with
    | some c => leNat (rdBytes s.mem.prog (c * 2 ^ 19 + get s (F.SEQ_PROG_PAGE_PAGE c) * 0x8000 + coreOfs addr % 0x8000) (n / 8))
    | none => 0
  else if inCalWindow addr then
    match coreOf addr with
    | some c =>
      let at_ := calPage s a c * 0x8000 + coreOfs addr % 0x8000
      if 0xA4000 ≤ at_ then 0 else leNat (rdBytes s.mem.cal (c * 2 ^ 20 + at_) (n / 8))
    | none => 0
  else
    let one := fun (h : RegSpec × Nat) (f : FieldSpec) =>
      let k := cover (8 * h.2 + f.lo) f.width (8 * addr) n
      if k.2.2 = 0 then 0 else bits (readField s a h.2 f) k.1 k.2.2 * 2 ^ k.2.1
    ((hits addr (n / 8)).flatMap fun h =>
      if mayReach s a false h.1.reach then h.1.fields.map (one h) else []).foldl (fun x y => x + y) 0

/-- A register with its element's address has 64 bits at an address. The registers of SRV (Tables 11.3, 11.16, 11.17) are entered whole:
of them those that one field of 64 bits fills, SRV_CLASS, SRV_ASLOT, the counters, and the two halves of SRV_ACCT, whose 128 bits are
read as R356 reads such a register, are 64 bits wide; the others are words. -/
def has64 (addr : Nat) (h : RegSpec × Nat) : Bool :=
  decide (8 ≤ h.1.bytes) &&
    (decide (addr < 0x3000000) || h.1.bytes == 8 || (decide (0x3010000 ≤ addr) && decide (addr < 0x3014000)) ||
      h.1.fields.any fun f => f.width == 64 && h.2 + f.lo / 8 == addr)

/-- The access lies in one register of 64 bits. GLB_CORE_MAP and GLB_CORE_MAP_ACT (Table 12.11), entered by bytes, are four of them. -/
def in64 (addr : Nat) : Bool :=
  addr % 8 == 0 && !inProgWindow addr && !inCalWindow addr &&
    ((decide (0x20 ≤ addr) && decide (addr < 0x40)) || (hits addr 4).any (has64 addr))

/-- The data read is given to the agent. -/
def answer (a : Agent) (v : Nat) (s : State) : State :=
  match a with | .host => { s with readH := v } | .mgmt => { s with readM := v }

/-- The agent's latch. -/
def latchOf (s : State) (a : Agent) : Option Latch := match a with | .host => s.latchH | .mgmt => s.latchM

/-- Sets the agent's latch. -/
def putLatch (a : Agent) (l : Option Latch) (s : State) : State :=
  match a with | .host => { s with latchH := l } | .mgmt => { s with latchM := l }

/-- A 32-bit read (R13): the low half of a 64-bit register latches the high half; the next read of that half returns it.
DESIGN CHOICE (log entry 64): an agent has one latch, so its read of the low half of another 64-bit register in between replaces the half
that was latched; the rule does not say. -/
def read32 (a : Agent) (addr : Nat) (s : State) : State :=
  if !admitted s a false addr 4 then answer a 0 (denied s)
  else
    let v := readBits s a addr 32
    if in64 addr then answer a v (putLatch a (some { addr := addr + 4, half := readBits s a (addr + 4) 32 }) s)
    else match latchOf s a with
      | some l => if l.addr = addr then answer a l.half (putLatch a none s) else answer a v s
      | none => answer a v s

/-- What the core at an address has done before now: its interpolation pass has written what it reached (R135), and its firings whose input
is latched are counted (R452). -/
def catchUpAt (addr : Nat) (s : State) : State := match coreOf addr with | some c => latchDue c (catchUp c s) | none => s

/-- The data an agent read last. -/
def readData (s : State) (a : Agent) : Nat := match a with | .host => s.readH | .mgmt => s.readM

/-- A read of 64 bits at an address aligned to 8 bytes: one access to a register of 64 bits, which takes the upper half as it stands and
leaves the latch alone; else two reads of 32 bits, the lower address first (R13). -/
def read64 (a : Agent) (addr : Nat) (s : State) : State :=
  if in64 addr then
    if admitted s a false addr 8 then answer a (readBits s a addr 64) s else answer a 0 (denied s)
  else
    let s1 := read32 a addr s
    let s2 := read32 a (addr + 4) s1
    answer a (readData s1 a + 2 ^ 32 * readData s2 a) s2

/-- REGISTER_READ_LATCH: a read of 32 bits, or 64 (`wide`), at an address aligned to its width, in the register space or in the BAR2
page of a function. -/
def execRegisterReadLatch (a : Agent) (pg : Option FnIx) (addr : BitVec 26) (wide : Bool) (s : State) : Host.Outcome State Fault Refusal :=
  let b := if wide then addr.toNat / 8 * 8 else addr.toNat / 4 * 4
  match pg with
  | none => .next (if wide then read64 a b (catchUpAt b s) else read32 a b (catchUpAt b s))
  | some f =>
    let lo := readPage s f (b % 65536)
    .next (when (pageReadDenied (b % 65536)) (bump F.GLB_DENIED_CNT) <| answer a (if wide then lo + 2 ^ 32 * readPage s f (b % 65536 + 4) else lo) s)

/-! ### Writing -/

/-- RUNNING, or about to. -/
def runsOrPend (s : State) (c : Nat) : Bool := coreRuns s c || flag s (F.CORE_CTL_STATE_RUN_PEND c)

/-- Some core of the package runs or is about to (TB "running", R228). -/
def anyRuns (s : State) : Bool := allCores.any (runsOrPend s)

/-- Partition `n` is running (R336). -/
def partRuns (s : State) (n : Nat) : Bool := (partCores s n).any (runsOrPend s)

/-- Program bank `b` of a core is running (R210). -/
def bankRuns (s : State) (c b : Nat) : Bool :=
  coreRuns s c && (actv s (F.SEQ_CTL_BANK c) == b || get s (F.SEQ_CTL_BANK c) == b)

/-- The block of a register is running, as its map defines it, with its LOCKED_WR counter and fault domain. -/
def lockOf (s : State) (e : Nat) : Option (Bool × Fld × Nat) :=
  if 0x200000 ≤ e && e < 0x300000 then some (anyRuns s, F.TB_LOCKED_WR, 0xE1)
  else if 0x800000 ≤ e && e < 0x8C0000 then
    let p := (e - 0x800000) / 0x10000
    some (get s (F.FAB_STAT_STATE p) != 0, F.FAB_LOCKED_WR p, 0xA0 + p)
  else if 0x3000000 ≤ e && e < 0x4000000 then
    let o := e - 0x3000000
    let r := if o < 0x100 then (List.range 16).any (partRuns s)
      else if o < 0x500 then partRuns s ((o - 0x100) / 0x40)
      else match corePart s ((o - 0x800) / 4) with
        | some n => partRuns s n
        | none => runsOrPend s ((o - 0x800) / 4)
    some (r, F.SRV_LOCKED_WR, 0xB1)
  else match coreOf e with
    | none => none
    | some c =>
      let o := coreOfs e
      if o < 0x10000 then none
      else if o < 0x20000 then
        let b := if o < 0x10080 then (o - 0x10010) / 4 else (o - 0x10080) / 0x40
        some (bankRuns s c b, F.SEQ_LOCKED_WR c, c)
      else if o < 0x80000 then none
      else if o < 0x90000 then some (calRunning s c, F.CAL_LOCKED_WR c, c)
      else if o < 0xA0000 then some (coreRuns s c, F.LEAVEN_LOCKED_WR c, c)
      else if o < 0xB0000 then some (coreRuns s c, F.PROOF_LOCKED_WR c, c)
      else some (flag s (F.RTR_CTL_EN c), F.RTR_LOCKED_WR c, 0x20 + c)

/-- Registers or fields whose writes have a row of their own. -/
def ownRow (e lo : Nat) : Bool :=
  e == 0x400000 || e == 0x480000 || e == 0x480008 || (0x800000 ≤ e && e < 0x8C0000 && e % 0x10000 == 0 && lo == 0) ||
    (0x300040 ≤ e && e < 0x3000E0) ||
    (match coreOf e with
     | some _ => coreOfs e == 0xB0000 || coreOfs e == 0x90000 ||
        (0x40000 ≤ coreOfs e && coreOfs e < 0x40000 + 2624 * 64 && (coreOfs e % 64 == 0xC || coreOfs e % 64 == 0x10))
     | none => false)

/-- Values a field takes; others are ignored, and for the base period counted. -/
def takes (s : State) (e lo v : Nat) : Bool :=
  if e = 0x200020 then 1200 ≤ v && v ≤ 200000
  else if e = 0x44 && lo = 0 then 4 ≤ v && v ≤ 6
  else if e = 0x200028 && lo < 8 then v ≤ 11 || v == 15
  else if e = 0x200028 && lo = 8 then 4 ≤ v && v ≤ 12
  else if e = 0x300000 && lo = 8 then 16 ≤ v && v ≤ 24
  else if e = 0x300000 && lo = 16 then 20 ≤ v && v ≤ 31
  else if 0x3000100 ≤ e && e < 0x3000500 && e % 0x40 = 0 then
    let n := (e - 0x3000100) / 0x40
    if lo = 0 then v == 0 || get s (F.SRV_PART_LB n) + get s (F.SRV_PART_STAGES_M1 n) + 1 ≤ 8192 else true
  else match coreOf e with
    | some _ =>
      let o := coreOfs e
      if o = 0x80000 && lo = 8 then 12 ≤ v && v ≤ 20
      else if o = 0x80020 then v ≤ 20
      else if 0x40000 ≤ o && o < 0x40000 + 2624 * 64 && o % 64 = 0 && lo = 0 then v < 0xA00 || v == 0xFFF
      else if 0x40000 ≤ o && o < 0x40000 + 2624 * 64 && o % 64 = 8 && lo = 0 then v ≤ 8
      else true
    | none => true

/-- The value a field would hold after a write of `n` bits at byte address `addr`. -/
def merged (old g width addr n v : Nat) : Nat :=
  let k := cover g width (8 * addr) n
  old - bits old k.1 k.2.2 * 2 ^ k.1 + bits v k.2.1 k.2.2 * 2 ^ k.1

/-- Clearing VALID of a first-error capture clears the capture, its time included (R211, Table 8.11). -/
def clearCapture (e : Nat) (s : State) : State :=
  if (0x600000 ≤ e && e < 0x630000 && e % 0x10000 = 0x28) || ((coreOf e).isSome && coreOfs e = 0x20008) then
    { s with regs := SMap.erase s.regs (8 * e) (8 * (e + 16)) }
  else s

/-- Clearing the peak of a seam FIFO or of the temperatures (Tables 7.9, 15.10). -/
def clearPeak (e v : Nat) (s : State) : State :=
  if (0x200180 ≤ e && e < 0x200190) || e = 0x40000C then
    when (v == 1) (fun s => { s with regs := SMap.erase s.regs (8 * e) (8 * e + 31) }) s
  else s

/-- Values of a command field that name no command and that its block counts (Tables 6.19, 7.9, 8.11, 9.10). -/
def woHook (e lo v : Nat) (s : State) : State :=
  if 0x600000 ≤ e && e < 0x630000 && e % 0x10000 = 0x10 && lo = 8 then
    when (v != 1 && v != 2) (bump (F.STK_CMD_REJ_CNT ((e - 0x600000) / 0x10000))) s
  else if 0x800000 ≤ e && e < 0x8C0000 && e % 0x10000 = 0 && lo = 16 then
    when (v == 0 || decide (5 < v)) (bump (F.FAB_CFG_REJ_CNT ((e - 0x800000) / 0x10000))) s
  else match coreOf e with
    | some c => when (coreOfs e == 4 && (v == 0 || decide (6 < v))) (bump (F.CORE_CTL_CMD_REJ_CNT c)) s
    | none => s

/-- A write of TB_GATE that sets more than one of HOLD, RELEASE and ABORT is ignored as a whole and counted (R227). -/
def gateHook (addr v : Nat) (s : State) : State :=
  let n := bits v 0 1 + bits v 1 1 + bits v 2 1
  when (addr == 0x200038 && decide (1 < n)) (bump F.TB_CFG_REJ_CNT) s

/-- After a write of TICK_EN, EPOCH or PERIOD the next base boundary is the first at or after now; without ticks, or before the
epoch, TICK_ON, GUARD and TICK_NUM read 0 (R218, Table 7.7). -/
def retick (s : State) : State :=
  let e := get s F.TB_EPOCH_EPOCH
  let p := max 1 (basePeriod s)
  let k := if now s ≤ e then 0 else (now s - e + p - 1) / p
  let on := flag s F.TB_CTL_TICK_EN && decide (e ≤ now s)
  { (s |> setB F.TB_STAT_TICK_ON on |> set F.TB_TICK_NUM_K (if on then (now s - e) / p else 0) |> when (!on) (setB F.TB_STAT_GUARD false)) with
      time := { s.time with next := k } }

/-- RWS fields of a recipe entry. -/
def rcpFields (c i : Nat) : List Fld :=
  [F.LEAVEN_RCP_CTL_AFMT c i, F.LEAVEN_RCP_CTL_RANGE c i, F.LEAVEN_RCP_CTL_BLK c i, F.LEAVEN_RCP_CTL_FINE c i,
    F.LEAVEN_RCP_CTL_LT c i, F.LEAVEN_RCP_CTL_LAYER c i, F.LEAVEN_RCP_ASCALE_SCALE c i, F.LEAVEN_RCP_WSCALE_SCALE c i]

/-- A write of ENV is a write to a field of its recipe entry: a shadow entry that waits inactive becomes a candidate for the next
boundary again (R116). -/
def envHook (a : Agent) (c i : Nat) (s : State) : State :=
  let idle := fun (f : Fld) => get s f != actv s f && !(s.shadows.any fun x => x.fld.key == f.key)
  match (rcpFields c i).find? idle with
  | some f => shadowWrite (decide (a = .mgmt)) f (get s f) s
  | none => s

/-- PARENT = 0xF with ROLE = 0 is FREE (Table 7.1). -/
def noParent (s : State) : State :=
  if get s F.TB_SYNC_CFG_PARENT = 15 && get s F.TB_STAT_SYNC != 5 then ownTime 0 s else s

/-- What follows the write of an RWL field. -/
def rwlHook (a : Agent) (e lo : Nat) (s : State) : State :=
  if (e = 0x200000 && lo = 0) || e = 0x200018 || e = 0x200020 then retick s
  else if e = 0x200028 && lo = 0 then noParent s
  else match coreOf e with
    | some c =>
      let o := coreOfs e
      if 0x91000 ≤ o && o < 0x92000 && o % 16 = 12 then envHook a c ((o - 0x91000) / 16) s else s
    | none => s

/-- The value a field keeps of a written value: a proof seed of 0 is replaced by 1 (Table 3.17). -/
def kept (e v : Nat) : Nat :=
  if (coreOf e).isSome && coreOfs e = 0xA0008 && v = 0 then 1 else v

/-- One field takes its part of a write (Table 0.3). A W1C bit that hardware sets in the same cycle stays set (R16). -/
def writeField (a : Agent) (locked : Bool) (e : Nat) (addr n v : Nat) (f : FieldSpec) (s : State) : State :=
  let g := 8 * e + f.lo
  let k := cover g f.width (8 * addr) n
  if k.2.2 = 0 || ownRow e f.lo then s
  else
    let fld := fieldAt e f
    let old := getFor s a fld
    let new := kept e (merged old g f.width addr n v)
    match f.acc with
    | .ro => s
    | .ctr => s
    | .wo => woHook e f.lo (bits v k.2.1 k.2.2) (clearPeak e (bits v k.2.1 k.2.2) s)
    | .w1c =>
      let ones := bits v k.2.1 k.2.2 * 2 ^ k.1
      let gone := clears s fld ones
      let s1 := set fld (old - (old &&& gone)) s
      when (gone % 2 == 1 && old == 1) (clearCapture e) s1
    | .rw =>
      if (coreOf e).isSome && coreOfs e = 0x80000 && f.lo = 0 && old = 0 then s
      else when (takes s e f.lo new) (setFor a fld (ringCut s e f.lo new)) s
    | .rwl =>
      if locked then s
      else if takes s e f.lo new then rwlHook a e f.lo (set fld new s)
      else when (e == 0x200020) (bump F.TB_CFG_REJ_CNT) s
    | .rws => when (takes s e f.lo new) (shadowWrite (decide (a = .mgmt)) fld new) s

/-- The write carries for a locked field a value other than the field's. EN of a port has a row of its own for the value 1 only. -/
def lockedDiffers (s : State) (e addr n v : Nat) (f : FieldSpec) : Bool :=
  match f.acc with
  | .rwl =>
    let g := 8 * e + f.lo
    decide ((cover g f.width (8 * addr) n).2.2 ≠ 0) && (!ownRow e f.lo || (0x800000 ≤ e && e < 0x8C0000 && v % 2 == 0)) &&
      merged (get s (fieldAt e f)) g f.width addr n v != get s (fieldAt e f)
  | _ => false

/-- A write to one register (R14, R17). -/
def writeReg (a : Agent) (addr n v : Nat) (h : RegSpec × Nat) (s : State) : State :=
  if !mayReach s a true h.1.reach then s
  else match lockOf s h.2 with
    | some (true, cnt, dom) =>
      let s1 := each h.1.fields (fun f s => writeField a true h.2 addr n v f s) s
      if h.1.fields.any (lockedDiffers s h.2 addr n v) then
        raise { src := 0x10, dom := dom, access := 1, addr := addr } (bump cnt s1)
      else s1
    | _ => each h.1.fields (fun f s => writeField a false h.2 addr n v f s) s

/-- A write of 32 bits to the program window (Table 6.24). -/
def writeProg (c addr v : Nat) (s : State) : State :=
  let page := get s (F.SEQ_PROG_PAGE_PAGE c)
  if bankRuns s c (page / 8) then raise { src := 0x10, dom := c, access := 1, addr := addr } (bump (F.SEQ_LOCKED_WR c) s)
  else { s with mem := { s.mem with
      prog := wrBytes s.mem.prog (c * 2 ^ 19 + page * 0x8000 + coreOfs addr % 0x8000) (natLe 4 v) } }

/-- The management core wrote `n` bits at an address: it will write what fields of a CAL block now hold again after a reset (R141). -/
def noteCal (addr n : Nat) (s : State) : State :=
  match coreOf addr with
  | some c =>
    each ((calFields c).filter fun f => decide (8 * addr ≤ f.key) && decide (f.key < 8 * addr + n))
      (fun f s => updFw (fun k => { k with calCfg := SMap.put 0 k.calCfg f.key (get s f + 1) }) s) s
  | none => s

/-- A write of `n` bits, 32 or 64, at a naturally aligned address. -/
def writeBits (a : Agent) (addr n v : Nat) (s : State) : State :=
  if !admitted s a true addr (n / 8) then denied s
  else if inProgWindow addr then match coreOf addr with
    | some c => writeProg c addr v s
    | none => s
  else if inCalWindow addr then s
  else
    let s1 := each (hits addr (n / 8)) (writeReg a addr n v) (gateHook addr v s)
    if a = .mgmt then noteCal addr n s1 else s1

/-- REGISTER_WRITE: 32 bits, or 64 (`wide`), in the register space or in the BAR2 page of a function; 64 bits that do not lie in one 64-bit register act as two writes (R13). -/
def execRegisterWrite (a : Agent) (pg : Option FnIx) (addr : BitVec 26) (wide : Bool) (v : Word64) (s : State) :
    Host.Outcome State Fault Refusal :=
  let b := if wide then addr.toNat / 8 * 8 else addr.toNat / 4 * 4
  let x := v.toNat
  match pg with
  | some f =>
    let s1 := writePage f (b % 65536) (x % 2 ^ 32) s
    .next (if wide then writePage f (b % 65536 + 4) (x / 2 ^ 32) s1 else s1)
  | none =>
  let s1 := catchUpAt b s
  if !wide then .next (writeBits a b 32 (x % 2 ^ 32) s1)
  else if in64 b then .next (writeBits a b 64 x s1)
  else .next (writeBits a (b + 4) 32 (x / 2 ^ 32) (writeBits a b 32 (x % 2 ^ 32) s1))

/-! ### Snapshots (R22, R23) -/

/-- First and last byte address, exclusive, of the counter block that a snapshot register at `addr` serves. -/
def snapRange (addr : Nat) : Nat × Nat :=
  match coreOf addr with
  | some c =>
    let o := coreOfs addr
    if 0x40000 ≤ o && o < 0x80000 then (addr / 64 * 64, addr / 64 * 64 + 64)
    else (coreBase c + o / 0x10000 * 0x10000, coreBase c + (o / 0x10000 + 1) * 0x10000)
  | none =>
    if 0x3000000 ≤ addr then (0x3000000, 0x4000000)
    else if 0x600000 ≤ addr then (addr / 0x10000 * 0x10000, addr / 0x10000 * 0x10000 + 0x10000)
    else if 0x400000 ≤ addr && addr < 0x500000 then (addr / 0x80000 * 0x80000, addr / 0x80000 * 0x80000 + 0x80000)
    else (addr / 0x100000 * 0x100000, addr / 0x100000 * 0x100000 + 0x100000)

/-- A bit address is that of a counter. -/
def isCounter (k : Nat) : Bool :=
  (hits (k / 8) 1).any fun h => 8 * h.2 == k && h.1.fields.any fun f => decide (f.acc = .ctr)

/-- The address is that of a snapshot register. -/
def isSnap (addr : Nat) : Bool :=
  (hits addr 4).any fun h => h.2 == addr && h.1.fields.any (fun f => f.lo == 16 && f.width == 16 && decide (f.acc = .ro)) &&
    h.1.fields.any fun f => f.lo == 1 && decide (f.acc = .wo)

/-- Copies the counters of a block and, with CLEAR, clears them (R22). -/
def takeSnap (addr : Nat) (clear : Bool) (s : State) : State :=
  let r := snapRange addr
  let inR := fun (k : Nat) => decide (8 * r.1 ≤ k) && decide (k < 8 * r.2)
  let live := s.regs.filter fun p => inR p.1 && isCounter p.1
  let rest := s.regs.filter fun p => !(inR p.1 && isCounter p.1)
  let snap := live.foldl (fun m p => SMap.put 0 m p.1 p.2) (SMap.erase s.snap (8 * r.1) (8 * r.2))
  let seq : Fld := ⟨8 * addr + 16, 16, 0⟩
  let s1 := { s with snap := snap, regs := if clear then rest else s.regs }
  set seq (get s1 seq + 1) s1

/-- Counters and copies of a block, in the range of its snapshot register. -/
def snapLive (addr : Nat) (s : State) : SMap Nat × SMap Nat :=
  let r := snapRange addr
  let inR := fun (p : Nat × Nat) => decide (8 * r.1 ≤ p.1) && decide (p.1 < 8 * r.2)
  (s.regs.filter fun p => inR p && isCounter p.1, s.snap.filter inR)

/-- Puts a block's counters, copies and SEQ back to what they were before the host's take. -/
def undoSnap (h : HostSnap) (s : State) : State :=
  let r := snapRange h.addr
  let regs := if h.clear then h.live.foldl (fun m p => SMap.put 0 m p.1 (SMap.get 0 m p.1 + p.2)) s.regs else s.regs
  let snap := h.copies.foldl (fun m p => SMap.put 0 m p.1 p.2) (SMap.erase s.snap (8 * r.1) (8 * r.2))
  let seq : Fld := ⟨8 * h.addr + 16, 16, 0⟩
  set seq (get s seq + 0xFFFF) { s with regs := regs, snap := snap }

/-- A take by an agent. When the host has taken the same block in the same cycle, the management take is served first and the host take
after it, whatever their order of arrival (R23). -/
def agentSnap (a : Agent) (addr : Nat) (clear : Bool) (s : State) : State :=
  match a with
  | .host =>
    let b := snapLive addr s
    takeSnap addr clear { s with hostSnap := some { addr := addr, time := now s, clear := clear, live := b.1, copies := b.2 } }
  | .mgmt =>
    match s.hostSnap with
    | some h => if h.addr = addr && h.time = now s then takeSnap addr h.clear (takeSnap addr clear (undoSnap h s)) else takeSnap addr clear s
    | none => takeSnap addr clear s

/-- SNAP_TAKE: an agent writes TAKE = 1 to the snapshot register at `addr`. -/
def execSnapTake (a : Agent) (addr : BitVec 26) (clear : Bool) (s : State) : Host.Outcome State Fault Refusal :=
  if !isSnap addr.toNat then .next s
  else if !admitted s a true addr.toNat 4 then .next (denied s)
  else .next (agentSnap a addr.toNat clear (catchUpAt addr.toNat s))

end Sys2Proof.Machine
end

