-- ==== Sys2Proof/Machine/Serve.lean ====
section
/-! DEFINITION. The serving engine at a boundary: the ring, commits, losses, output, notices and assignment (R312 to R332). -/
namespace Sys2Proof.Machine

/-! ### Partition parameters and state -/

/-- A served partition beside its registers. -/
def srvPart (s : State) (n : Nat) : SrvPart := SMap.get SrvPart.reset s.srv.parts n

/-- Changes it. -/
def updSrv (n : Nat) (f : SrvPart → SrvPart) (s : State) : State :=
  { s with srv := { s.srv with parts := SMap.put SrvPart.reset s.srv.parts n (f (srvPart s n)) } }

/-- Stages of a partition. -/
def stages (s : State) (n : Nat) : Nat := get s (F.SRV_PART_STAGES_M1 n) + 1
/-- LEAD in partition ticks; 0 counts as 16 (Table 11.16). -/
def lead (s : State) (n : Nat) : Nat := 16 * get s (F.SRV_PART_LEAD_D16 n)
/-- The package is the serving head. -/
def isHead (s : State) (n : Nat) : Bool := flag s (F.SRV_PART_HEAD n)
/-- Ordinal of the partition tick that base tick `k` starts (R312). -/
def ordinal (s : State) (n k : Nat) : Nat := k / partDiv s n
/-- Lane `j` is a prefill lane (R315). -/
def prefillLane (st pf j : Nat) : Bool := decide (j * pf / st < (j + 1) * pf / st)
/-- The lane that passes position 0 at partition tick `m` is a prefill lane. -/
def prefillTick (s : State) (n m : Nat) : Bool :=
  prefillLane (stages s n) (get s (F.SRV_PART_PF_LANES n)) (m % stages s n)

/-- The first tick from `m` on whose lane is a prefill lane and the `c`-th such, within `fuel` ticks. -/
def nthPass (s : State) (n : Nat) : Nat → Nat → Nat → Nat
  | 0, m, _ => m
  | f + 1, m, c =>
    if prefillTick s n m then (if c ≤ 1 then m else nthPass s n f (m + 1) (c - 1)) else nthPass s n f (m + 1) c

/-- The tick at which the `c`-th step of a run that starts at tick `m` enters position 0. -/
def runTick (s : State) (n m c : Nat) : Nat :=
  let pf := max 1 (get s (F.SRV_PART_PF_LANES n))
  nthPass s n (2 * stages s n + 1) (m + (c - 1) / pf * stages s n) ((c - 1) % pf + 1)

/-! ### Entries -/

/-- Entry states of Table 11.5. -/
def eFree : Nat := 0
/-- QUEUED. -/
def eQueued : Nat := 1
/-- PREFILL. -/
def ePrefill : Nat := 2
/-- DECODE. -/
def eDecode : Nat := 3
/-- WAIT_BUDGET. -/
def eWaitBudget : Nat := 4
/-- WAIT_OUTPUT. -/
def eWaitOutput : Nat := 5
/-- PARKED. -/
def eParked : Nat := 6
/-- MIGRATING. -/
def eMigrating : Nat := 7
/-- CADDY. -/
def eCaddy : Nat := 8
/-- RESTORING. -/
def eRestoring : Nat := 9
/-- DONE. -/
def eDone : Nat := 0xA

/-- State of a request entry. -/
def entState (s : State) (e : Nat) : Nat := get s (F.SRV_ENT_STATE e)
/-- Puts a request entry into a state. -/
def setEnt (e st : Nat) (s : State) : State := set (F.SRV_ENT_STATE e) st s

/-- Request entries of a partition. -/
def entriesOf (s : State) (n : Nat) : List Nat :=
  (List.range 8192).filter fun e => get s (F.SRV_ENT_TYPE e) == 0 && entState s e != eFree && get s (F.SRV_ENT_LPART e) == n

/-- An active state: the request has been admitted and has not ended. -/
def active (st : Nat) : Bool := (1 ≤ st && st ≤ 5) || st == eRestoring

/-- Page sets that an entry holds or has reserved (R322, R324). -/
def demand (s : State) (n e : Nat) : Nat :=
  max ((get s (F.SRV_ENT_PROMPT_END e) + 63) / 64) (SMap.get [] (srvPart s n).pages e).length

/-- Logical page sets in use on the head. -/
def kvUsed (s : State) (n : Nat) : Nat :=
  (((entriesOf s n).filter fun e => entState s e != eCaddy).map (demand s n)).foldl (fun a b => a + b) 0

/-- Logical page sets free. -/
def kvFree (s : State) (n : Nat) : Nat := get s (F.SRV_PART_KV_SETS n) - kvUsed s n

/-- SRV_PART.KV_FREE follows the logical budget on the head. -/
def showKv (n : Nat) (s : State) : State := if isHead s n then set (F.SRV_PART_KV_FREE n) (kvFree s n) s else s

/-- SRV_STAT counts the entries that are not FREE, ring entries included. -/
def showInUse (s : State) : State :=
  set F.SRV_STAT_IN_USE ((List.range 8192).filter fun e => entState s e != 0 || get s (F.SRV_ENT_TYPE e) == 1).length s

/-! ### Page sets (R324) -/

/-- The engine writes the line address of a page set into the request's page list. DESIGN CHOICE (log entry 67): it reaches the stacks through
the PCI node; the spec names no node of its own. -/
def writeList (e p line : Nat) (s : State) : State :=
  (writeSpan 35 (((get s (F.SRV_ENT_PLIST e) + p / 128) * 512) + 4 * (p % 128)) (natLe 4 line) s).2

/-- Allocates the page set for page `p` of an entry; none when the pool of the member is empty. -/
def allocSet (n e p : Nat) (s : State) : Option State :=
  let ps := SMap.get [] (srvPart s n).pages e
  if ps.any fun x => x.1 == p then some s
  else
    let used := (srvPart s n).pages.flatMap fun x => x.2.map fun (y : Nat × Nat) => y.2
    match (List.range (get s (F.SRV_PART_KV_SETS n))).find? fun i => !used.contains i with
    | none => none
    | some i =>
      let f := fun (k : SrvPart) => { k with pages := SMap.put [] k.pages e (ps ++ [(p, i)]) }
      some (writeList e p (Config.setLine (get s (F.SRV_PART_PLIST n)) i) (updSrv n f s))

/-- Returns the page sets of an entry to the free list. -/
def freeSets (n e : Nat) (s : State) : State :=
  let s1 := each (SMap.get [] (srvPart s n).pages e) (fun p s => writeList e p.1 0 s) s
  updSrv n (fun k => { k with pages := SMap.del k.pages e }) s1

/-! ### Ring entries (R313, R314) -/

/-- Content of a ring entry: RSTATE, LOST, ENTRY, POS. -/
structure RingStep where
  st : Nat
  lost : Bool
  e : Nat
  pos : Nat
  deriving DecidableEq, Repr

/-- Reads ring entry `i`. -/
def ringGet (s : State) (i : Nat) : RingStep :=
  { st := entState s i, lost := getBit s (F.SRV_ENT_LPART i) 0, e := get s (F.SRV_ENT_HANDLE i) % 8192,
    pos := get s (F.SRV_ENT_LEN i) }

/-- Writes ring entry `i`. -/
def ringPut (i : Nat) (r : RingStep) (s : State) : State :=
  s |> setEnt i r.st |> set (F.SRV_ENT_TYPE i) 1 |> set (F.SRV_ENT_LPART i) (if r.lost then 1 else 0)
    |> set (F.SRV_ENT_HANDLE i) r.e |> set (F.SRV_ENT_LEN i) r.pos

/-- A VOID step. -/
def ringVoid : RingStep := { st := 0, lost := false, e := 0, pos := 0 }

/-- Ring entry of position `p`. -/
def ringAt (s : State) (n p : Nat) : Nat := get s (F.SRV_PART_LB n) + p

/-- The committed rows of the ring window: entry, position, token, logit, whether the step held the last prompt position, and
kind (R317, Table 11.1). -/
structure RingRow where
  e : Nat
  pos : Nat
  token : Nat
  logit : Nat
  last : Bool
  kind : Nat
  deriving DecidableEq, Repr

/-- Reads the ring window of a partition at the boundary; an unreadable one is counted (R317). -/
def ringWindow (n : Nat) (s : State) : Option RingRow × State :=
  let bad := (none, bump F.SRV_RINGWIN_BAD_CNT s)
  if !flag s (F.SRV_PART_RVALID n) then bad
  else match physOf s (get s (F.SRV_PART_RCORE n)) with
    | none => bad
    | some c =>
      let w := get s (F.SRV_PART_RWIN n)
      let r := get s (F.SPAD_WIN_BASE c w)
      if get s (F.SPAD_WIN_STATE c w) ≠ 2 || flag s (F.SPAD_WIN_SHORT c w) || rowPoison s c r || rowPoison s c (r + 1) then bad
      else
        let a := rowBytes s c r
        let b := rowBytes s c (r + 1)
        (some { e := leAt b 12 4 % 8192, pos := leAt b 8 4, token := leAt a 0 4, logit := leAt a 4 4,
                last := bit (leAt b 21 1) 0, kind := leAt b 20 1 }, s)

/-! ### Records, charges, ends -/

/-- A record goes to the staging buffer (R330). -/
def stage (n : Nat) (r : OutRec) (s : State) : State := updSrv n (fun k => { k with staging := k.staging ++ [r] }) s

/-- A notice from the head to every other member, with the partition tick `m` at which it takes effect (R320). -/
def noticeMembers (n m : Nat) (x : Notice) (s : State) : State :=
  let args := match x with
    | .entry e ws => [0, e] ++ ws
    | .bind e l => [1, e, l]
    | .unbind e l => [2, e, l]
    | .prefill e p c => [3, e, p, c]
    | .slot i id g st cur => [4, i, id, g, st, cur]
    | .endEntry e st fl => [5, e, st, fl]
  emit .net .notice ([n, m] ++ args) s

/-- A notice that takes effect here too. -/
def sendNotice (n m : Nat) (x : Notice) (s : State) : State :=
  noticeMembers n m x (updSrv n (fun k => { k with notices := k.notices ++ [(m, x)] }) s)

/-- The 32 words of an entry as it stands. -/
def getEntry (s : State) (e : Nat) : List Nat :=
  let base := (F.SRV_ENT_STATE e).key
  let v := (s.regs.filter fun p => decide (base ≤ p.1) && decide (p.1 < base + 1024)).foldl (fun a p => a + p.2 * 2 ^ (p.1 - base)) 0
  (List.range 32).map fun i => bits v (32 * i) 32

/-- The create, update or end notice of an entry as it stands, decided in tick `m` (R320). -/
def tellAt (n m e : Nat) (s : State) : State := sendNotice n (m + lead s n) (.entry e (getEntry s e)) s

/-- Charges an account and the request, in 1/256 token (R325). -/
def charge (e amount : Nat) (s : State) : State :=
  let a := get s (F.SRV_ENT_ACCT e)
  s |> set (F.SRV_ACCT_BAL_BAL a) (twos 32 (geti s (F.SRV_ACCT_BAL_BAL a) - amount))
    |> set (F.SRV_ENT_CHARGED e) (get s (F.SRV_ENT_CHARGED e) + amount)

/-- Output-record flags of Table 11.9. -/
def fFinal : Nat := 1
/-- LATE. -/
def fLate : Nat := 2
/-- NOTOKEN. -/
def fNoToken : Nat := 64

/-- The FINAL record of an entry. -/
def finalRec (s : State) (e status flags t : Nat) : OutRec :=
  { ring := get s (F.SRV_ENT_ORING e), handle := get s (F.SRV_ENT_HANDLE e), token := 0, pos := get s (F.SRV_ENT_LEN e),
    status := status, flags := fFinal + fNoToken + flags, logit := 0, conv := e, time := t, fin := some e }

/-- One binding of an adapter slot begins (R333). -/
def bumpSlot (i : Nat) (s : State) : State := set (F.SRV_ASLOT_REFCNT i) (get s (F.SRV_ASLOT_REFCNT i) + 1) s

/-- One binding of an adapter slot ends (R333). -/
def unbindSlot (e : Nat) (s : State) : State :=
  if !flag s (F.SRV_ENT_AVALID e) then s
  else
    let f := F.SRV_ASLOT_REFCNT (get s (F.SRV_ENT_ASLOT e))
    setB (F.SRV_ENT_AVALID e) false (set f (get s f - 1) s)

/-- The lane that a notice still to come binds to an entry. -/
def comingLane (s : State) (n e : Nat) : Option Nat :=
  (srvPart s n).notices.findSome? fun x => match x.2 with | .bind d l => if d == e then some l else none | _ => none

/-- The lane of an entry is released by a notice (R328). -/
def releaseLane (n m e : Nat) (s : State) : State :=
  match if flag s (F.SRV_ENT_BOUND e) then some (get s (F.SRV_ENT_LANE e)) else comingLane s n e with
  | some l => sendNotice n (m + lead s n) (.unbind e l) s
  | none => s

/-- A notice that ends an entry. -/
def endsEntry (e : Nat) (x : Notice) : Bool := match x with | .endEntry d _ _ => d == e | _ => false

/-- A request ends: it is DONE with its status; the head writes its FINAL record, releases its lane and tells the members. -/
def finish (n m e status flags t : Nat) (s : State) : State :=
  let s1 := s |> setEnt e eDone |> set (F.SRV_ENT_STATUS e) status |> unbindSlot e
  if !isHead s n then s1
  else
    let c := if status = 0x21 then bump F.SRV_EXPIRED_CNT else if status = 0x24 then bump F.SRV_STOP_CNT
      else if status = 0x22 then bump F.SRV_BUDGET_END_CNT else if status = 0x23 then bump F.SRV_ADPT_REPL_CNT else id
    s1 |> c |> stage n (finalRec s1 e status flags t) |> releaseLane n m e
      |> updSrv n (fun k => { k with notices := k.notices.filter fun x => !endsEntry e x.2 })
      |> noticeMembers n (m + lead s n) (.endEntry e status flags)

/-- The deadline of an entry has passed. -/
def late (s : State) (e t : Nat) : Bool := decide (get s (F.SRV_ENT_DEADLINE e) < t)

/-! ### Output tokens (R326, R328, Table 11.8) -/

/-- The last 16 output tokens of an entry, most recent last. -/
def lastTokens (s : State) (e : Nat) : List Nat := (List.range 16).map fun i => get s (F.SRV_STOP_WORD e (128 + i))

/-- Appends a token to the stop record. -/
def pushToken (e tok : Nat) (s : State) : State :=
  let l := (lastTokens s e).drop 1 ++ [tok]
  upTo 16 (fun i s => set (F.SRV_STOP_WORD e (128 + i)) (nth 0 l i) s) s

/-- The token is in a stop-token set of the request. -/
def inStopSet (s : State) (e tok : Nat) : Bool :=
  (List.range 8).any fun i => getBit s (F.SRV_ENT_STOPSETS e) i &&
    (List.range 32).any fun t => actv s (F.SRV_STOPSET_TOKEN i t) == tok && tok != 0xFFFFFFFF

/-- The last output tokens end with a stop sequence, which matches output tokens only. -/
def endsStop (s : State) (e : Nat) : Bool :=
  (List.range (get s (F.SRV_ENT_NSTOP e))).any fun i =>
    let n := bits (get s (F.SRV_ENT_STOPLEN e)) (4 * i) 4 + 1
    let seq := (List.range n).map fun j => get s (F.SRV_STOP_WORD e (16 * i + j))
    decide (n ≤ get s (F.SRV_ENT_OUT_CNT e)) && (lastTokens s e).drop (16 - n) == seq

/-- Latency of an output token against its class (R326). -/
def measureLatency (e t : Nat) (s : State) : State :=
  let c := get s (F.SRV_ENT_CLASS e)
  if get s (F.SRV_ENT_T_FIRST e) = 0 then
    let v := t - get s (F.SRV_ENT_T_SUBMIT e)
    let lim := actv s (F.SRV_CLASS_TTFT_US c)
    s |> set (F.SRV_ENT_T_FIRST e) t |> set (F.SRV_ENT_T_LAST e) t
      |> when (lim != 0 && decide (lim * 1000 < v)) (bump (F.SRV_TTFT_VIOL_CNT c))
  else
    let v := t - get s (F.SRV_ENT_T_LAST e)
    let lim := actv s (F.SRV_CLASS_TBT_US c)
    s |> set (F.SRV_ENT_T_LAST e) t |> set (F.SRV_ENT_TBT_MAX e) (max (get s (F.SRV_ENT_TBT_MAX e)) (v / 1000))
      |> when (lim != 0 && decide (lim * 1000 < v)) (bump (F.SRV_TBT_VIOL_CNT c))

/-- A token is delivered. -/
def outToken (n e : Nat) (r : RingRow) (flags t : Nat) (s : State) : State :=
  let rec_ : OutRec := { ring := get s (F.SRV_ENT_ORING e), handle := get s (F.SRV_ENT_HANDLE e), token := r.token, pos := r.pos + 1,
                         status := 0, flags := flags, logit := r.logit, conv := e, time := t, fin := none }
  s |> stage n rec_ |> set (F.SRV_ENT_OUT_CNT e) (get s (F.SRV_ENT_OUT_CNT e) + 1)

/-- The passes of an entry's prefill run that have not come are given up; its prompt goes on at the first of their positions. -/
def giveUpRun (n e : Nat) (s : State) : State :=
  match (srvPart s n).runs.find? fun x => x.e == e with
  | some x => updSrv n (fun k => { k with runs := k.runs.filter fun y => !(y.e == e), pfFree := 0 }) (set (F.SRV_ENT_PF_NEXT e) x.pos s)
  | none => s

/-- A request in QUEUED, PREFILL or DECODE waits for its budget (R325, Table 11.5). -/
def waitBudget (n m e : Nat) (s : State) : State :=
  when (1 ≤ entState s e && entState s e ≤ 3)
    (fun s => s |> setEnt e eWaitBudget |> giveUpRun n e |> bump F.SRV_BUDGET_WAIT_CNT |> releaseLane n m e |> tellAt n m e) s

/-- The head's checks at the commit of a step that produced an output token (Table 11.8). -/
def outputChecks (n m e : Nat) (r : RingRow) (t : Nat) (s0 : State) : State :=
  let s := measureLatency e t s0
  if late s e t then
    let s1 := when (flag s (F.SRV_ENT_LATE_OK e)) (outToken n e r fLate t) s
    finish n m e 0x21 0 t s1
  else
    let a := get s (F.SRV_ENT_ACCT e)
    let broke := decide (geti s (F.SRV_ACCT_BAL_BAL a) ≤ 0)
    let s1 := pushToken e r.token s
    if broke && actB s1 (F.SRV_ACCT_END a) then finish n m e 0x22 0 t (outToken n e r 0 t s1)
    else if inStopSet s1 e r.token then
      finish n m e 0x24 4 t (when (!flag s1 (F.SRV_ENT_OMIT_STOP e)) (outToken n e r 0 t) s1)
    else
      let s2 := outToken n e r 0 t s1
      if endsStop s2 e then finish n m e 0x24 8 t s2
      else if get s2 (F.SRV_ENT_MAXLEN e) ≤ get s2 (F.SRV_ENT_OUT_CNT e) then finish n m e 0x24 16 t s2
      else when broke (waitBudget n m e) s2

/-- The commit of a step without an output token: the charge may end the request or make it wait (R325). -/
def prefillChecks (n m e t : Nat) (s : State) : State :=
  let a := get s (F.SRV_ENT_ACCT e)
  if late s e t then finish n m e 0x21 0 t s
  else if 0 < geti s (F.SRV_ACCT_BAL_BAL a) then s
  else if actB s (F.SRV_ACCT_END a) then finish n m e 0x22 0 t s
  else waitBudget n m e s

/-- An entry whose prompt has committed and that has a lane decodes (Table 11.5). -/
def toDecode (e : Nat) (s : State) : State :=
  let st := entState s e
  if (st = ePrefill || st = eQueued) && flag s (F.SRV_ENT_BOUND e) && get s (F.SRV_ENT_PROMPT_END e) ≤ get s (F.SRV_ENT_LEN e) then
    setEnt e eDecode s
  else s

/-- The request is bound to a generation that a forced replacement or unload retires (R333). -/
def retired (s : State) (e : Nat) : Bool :=
  flag s (F.SRV_ENT_AVALID e) && s.srv.replaces.any fun r =>
    r.force && r.id == actv s (F.SRV_ASLOT_ID (get s (F.SRV_ENT_ASLOT e))) && r.gen != get s (F.SRV_ENT_AGEN e)

/-- A step commits on this member (Table 11.2); on the head it is charged and checked. -/
def commitStep (n m : Nat) (r : RingRow) (t : Nat) (s : State) : State :=
  let e := r.e
  let s1 := s |> bump F.SRV_STEP_CNT |> set (F.SRV_ENT_LEN e) (r.pos + 1) |> set (F.SRV_ENT_LOST_RUN e) 0 |> toDecode e
  if !active (entState s1 e) then s1
  else if !isHead s1 n then when (late s1 e t) (finish n m e 0x21 0 t) s1
  else
    let prefill := r.kind == 1
    let s2 := charge e (if prefill then actv s1 F.SRV_CTL_PF_WT else 256) s1
    let s3 := if prefill && !r.last then prefillChecks n m e t s2 else outputChecks n m e r t s2
    if active (entState s3 e) && retired s3 e then finish n m e 0x23 0 t s3 else s3

/-- The step of entry `e` at position `q` is lost: ring entries that hold it at greater positions are VOID and lost, prefill
resumes at `q`, and after RETRY_LIM losses in a row the request ends (R318). With `turn` the step was made VOID by an earlier loss
of its entry: it is lost in its turn and changes no other. -/
def loseStep (n m e q t : Nat) (turn : Bool) (s : State) : State :=
  let mark := fun p s =>
    let r := ringGet s (ringAt s n p)
    if r.st ≠ 0 && r.e = e && q < r.pos then ringPut (ringAt s n p) { r with st := 0, lost := true } s else s
  let run := min (get s (F.SRV_ENT_LOST_RUN e) + 1) 15
  let s1 := s |> bump F.SRV_LOST_CNT |> set (F.SRV_ENT_LOST_RUN e) run
  let s2 := if turn then s1 else upTo (stages s1 n) mark (updSrv n (fun k => { k with
      runs := k.runs.filter fun x => !(x.e == e)
      pfFree := if entState s1 e == ePrefill then 0 else k.pfFree })
    (when (entState s1 e == ePrefill) (set (F.SRV_ENT_PF_NEXT e) (min q (get s1 (F.SRV_ENT_PF_NEXT e)))) s1))
  let lim := max 1 (actv s2 (F.SRV_PART_RETRY_LIM n))
  if lim ≤ run && active (entState s2 e) then finish n m e 0x20 0 t s2 else s2

/-- Settles the step at position S − 1 (Table 11.2) in a package that enters safe state at or before the boundary (`safe`), or does not. Gives the
entry whose step this member could not judge, for it could not read the window. -/
def settle (n m t : Nat) (safe : Bool) (s : State) : Option Nat × State :=
  let r := ringGet s (ringAt s n (stages s n - 1))
  let w := ringWindow n s
  if r.st = 0 && !r.lost then (none, bump F.SRV_VOID_CNT w.2)
  else if r.lost then (none, loseStep n m r.e r.pos t (r.st == 0) w.2)
  else match w.1 with
    | none => (some r.e, loseStep n m r.e r.pos t false w.2)
    | some x => (none, if safe then loseStep n m r.e r.pos t false w.2 else commitStep n m x t w.2)

/-! ### Position 0 (R316) -/

/-- The lane's decode request. -/
def laneEntry (s : State) (n j : Nat) : Option Nat :=
  (entriesOf s n).find? fun e => flag s (F.SRV_ENT_BOUND e) && get s (F.SRV_ENT_LANE e) == j

/-- Takes the next step of the prefill runs for partition tick `m`. -/
def takeRun (m : Nat) : List PfRun → Option (Nat × Nat × List PfRun)
  | [] => none
  | r :: l =>
    if r.m ≤ m && 0 < r.count then
      some (r.e, r.pos, if r.count = 1 then l else { r with pos := r.pos + 1, count := r.count - 1 } :: l)
    else (takeRun m l).map fun x => (x.1, x.2.1, r :: x.2.2)

/-- Enters a step at position 0, with its page set when its position begins a page (R324); without one the step is VOID. -/
def enter (n st e pos : Nat) (s : State) : RingStep × State :=
  if pos % 64 = 0 then
    match allocSet n e (pos / 64) s with
    | some s1 => ({ st := st, lost := false, e := e, pos := pos }, s1)
    | none => (ringVoid, bump F.SRV_KV_NOSPACE_CNT s)
  else ({ st := st, lost := false, e := e, pos := pos }, s)

/-- A conversation starts to move to the caddy tier, or back (R334). -/
def startXfer (n e : Nat) (restore : Bool) (s : State) : State :=
  setEnt e (if restore then eRestoring else eMigrating) (updSrv n (fun k => { k with
    xfers := SMap.put none k.xfers e (some { restore := restore, heard := [], bad := false, start := now s }) }) s)

/-- A decode step whose page set the logical budget does not hold (R324): the head moves the least recently used parked
conversation out, or ends the request. -/
def kvWant (n m e t : Nat) (s : State) : State :=
  let parked := (entriesOf s n).filter fun x => entState s x == eParked
  let lru := parked.foldl (fun (b : Option Nat) x => match b with
    | none => some x
    | some y => if get s (F.SRV_ENT_T_LAST x) < get s (F.SRV_ENT_T_LAST y) then some x else some y) none
  match lru with
  | some x =>
    if get s (F.SRV_PART_CADDY n) = 0 then finish n m e 0x07 0 t s
    else tellAt n m x (startXfer n x false s)
  | none => finish n m e 0x07 0 t s

/-- The step that position 0 takes for partition tick `m`; `blind` is the entry whose leaving step this member could not judge. -/
def nextStep (n m t : Nat) (blind : Option Nat) (s : State) : RingStep × State :=
  let j := m % stages s n
  if prefillTick s n m then
    match takeRun m (srvPart s n).runs with
    | none => (ringVoid, s)
    | some (e, pos, rest) =>
      let s1 := updSrv n (fun k => { k with runs := rest }) s
      if entState s1 e = ePrefill then enter n 1 e pos s1 else (ringVoid, s1)
  else
    match laneEntry s n j with
    | none => (ringVoid, s)
    | some e =>
      let inRing := (List.range (stages s n - 1)).any fun p =>
        let r := ringGet s (ringAt s n p)
        r.st != 0 && r.e == e
      let pos := get s (F.SRV_ENT_LEN e)
      if entState s e ≠ eDecode || blind == some e || inRing then (ringVoid, s)
      else if isHead s n && pos % 64 = 0 && kvFree s n = 0 &&
          !((SMap.get [] (srvPart s n).pages e).any fun x => x.1 == pos / 64) then (ringVoid, kvWant n m e t s)
      else enter n 2 e pos s

/-- The ring moves on by one position and position 0 takes its step (R313). -/
def shiftRing (n m t : Nat) (blind : Option Nat) (s : State) : State :=
  let st := stages s n
  let x := nextStep n m t blind s
  let s1 := upTo (st - 1) (fun i s => ringPut (ringAt s n (st - 1 - i)) (ringGet s (ringAt s n (st - 2 - i))) s) x.2
  ringPut (ringAt s1 n 0) x.1 s1

/-! ### Notices (R320) -/

/-- Writes the 32 words of an entry. -/
def putEntry (e : Nat) (ws : List Nat) (s : State) : State :=
  let v := ws.zipIdx.foldl (fun a (p : Nat × Nat) => a + p.1 % 2 ^ 32 * 2 ^ (32 * p.2)) 0
  let fs := [F.SRV_ENT_STATE e, F.SRV_ENT_TYPE e, F.SRV_ENT_LPART e, F.SRV_ENT_CLASS e, F.SRV_ENT_KEEP e, F.SRV_ENT_LATE_OK e,
    F.SRV_ENT_OMIT_STOP e, F.SRV_ENT_PRIO e, F.SRV_ENT_STOPSETS e, F.SRV_ENT_HANDLE e, F.SRV_ENT_LEN e, F.SRV_ENT_PROMPT_END e,
    F.SRV_ENT_PF_NEXT e, F.SRV_ENT_MAXLEN e, F.SRV_ENT_OUT_CNT e, F.SRV_ENT_ACCT e, F.SRV_ENT_ASLOT e, F.SRV_ENT_AVALID e,
    F.SRV_ENT_AGEN e, F.SRV_ENT_LOST_RUN e, F.SRV_ENT_NSTOP e, F.SRV_ENT_STATUS e, F.SRV_ENT_LANE e, F.SRV_ENT_BOUND e,
    F.SRV_ENT_ORING e, F.SRV_ENT_PLIST e, F.SRV_ENT_DEADLINE e, F.SRV_ENT_T_SUBMIT e, F.SRV_ENT_T_FIRST e, F.SRV_ENT_T_LAST e,
    F.SRV_ENT_SEED e, F.SRV_ENT_TTL e, F.SRV_ENT_STOPLEN e, F.SRV_ENT_TBT_MAX e, F.SRV_ENT_CHARGED e, F.SRV_ENT_PROMPT e]
  let base := (F.SRV_ENT_STATE e).key
  each fs (fun f s => set f (bits v (f.key - base) f.width) s) s

/-- Requests of partition `n` that wait for an adapter ID bind a slot and its generation (R333). -/
def bindWaiting (id g i n : Nat) (s : State) : State :=
  let es := ((srvPart s n).waitAdpt.filter fun p => p.2 == some id).map fun p => p.1
  let m := ordinal s n (get s F.TB_TICK_NUM_K)
  each es (fun e s => s |> set (F.SRV_ENT_ASLOT e) i |> setB (F.SRV_ENT_AVALID e) true |> set (F.SRV_ENT_AGEN e) g
    |> set (F.SRV_ASLOT_REFCNT i) (get s (F.SRV_ASLOT_REFCNT i) + 1)
    |> updSrv n (fun k => { k with waitAdpt := SMap.put none k.waitAdpt e none }) |> tellAt n m e) s

/-- Writes an adapter slot, active at once; the requests that wait for a slot that becomes CUR bind it. -/
def putAslot (i id g st cur : Nat) (s : State) : State :=
  s |> setBoth (F.SRV_ASLOT_ID i) id |> setBoth (F.SRV_ASLOT_GEN i) g |> setBoth (F.SRV_ASLOT_STATE i) st |> setBoth (F.SRV_ASLOT_CUR i) cur
    |> when (st == 2 && cur == 1) (upTo 16 (bindWaiting id g i))

/-- Page sets that `k` positions take. -/
def setsFor (k : Nat) : Nat := (k + 63) / 64

/-- A conversation that comes back takes page sets and fills its list (R334). -/
def restoreSets (n e : Nat) (s : State) : State :=
  upTo (setsFor (get s (F.SRV_ENT_LEN e))) (fun p s => (allocSet n e p s).getD s) s

/-- What a member keeps of an entry that a notice updates: while the request is active here, the committed length, the losses in a row and the
lane, which the member follows by itself (R320). -/
def keepOwn (s : State) (e : Nat) (t : State) : State :=
  if active (entState s e) && get s (F.SRV_ENT_HANDLE e) == get t (F.SRV_ENT_HANDLE e) then
    t |> set (F.SRV_ENT_LEN e) (get s (F.SRV_ENT_LEN e)) |> set (F.SRV_ENT_LOST_RUN e) (get s (F.SRV_ENT_LOST_RUN e))
      |> set (F.SRV_ENT_LANE e) (get s (F.SRV_ENT_LANE e)) |> setB (F.SRV_ENT_BOUND e) (flag s (F.SRV_ENT_BOUND e))
  else t

/-- The adapter slot that an entry is bound to counts it (R333). -/
def bindSlot (e : Nat) (s : State) : State := when (flag s (F.SRV_ENT_AVALID e)) (bumpSlot (get s (F.SRV_ENT_ASLOT e))) s

/-- A member takes an entry as the head's notice gives it: a run not yet run is given up, page sets go back with a FREE entry or a conversation in
the caddy tier, and a transfer begins or ends (R320, R324, R333, R334). -/
def takeEntry (n e : Nat) (ws : List Nat) (s : State) : State :=
  let s1 := bindSlot e (keepOwn s e (putEntry e ws (unbindSlot e s)))
  let s2 := updSrv n (fun k => { k with runs := k.runs.filter fun x => !(x.e == e) }) s1
  let st := entState s2 e
  if st = eFree || st = eCaddy then freeSets n e (updSrv n (fun k => { k with xfers := SMap.put none k.xfers e none }) s2)
  else if st = eMigrating then startXfer n e false s2
  else if st = eRestoring then restoreSets n e (startXfer n e true s2)
  else updSrv n (fun k => { k with xfers := SMap.put none k.xfers e none }) s2

/-- Applies a notice at instant `t`. -/
def applyNotice (n m t : Nat) (x : Notice) (s : State) : State :=
  match x with
  | .entry e ws => if isHead s n then s else takeEntry n e ws s
  | .endEntry e st fl => when (active (entState s e)) (finish n m e st fl t) s
  | .bind e l => s |> setB (F.SRV_ENT_BOUND e) true |> set (F.SRV_ENT_LANE e) l |> toDecode e
  | .unbind e l => when (get s (F.SRV_ENT_LANE e) == l) (setB (F.SRV_ENT_BOUND e) false) s
  | .prefill e p c =>
    s |> when (entState s e == eQueued) (setEnt e ePrefill) |> when (!isHead s n) (set (F.SRV_ENT_PF_NEXT e) (p + c))
      |> updSrv n (fun k => { k with runs := k.runs ++ [{ m := m, e := e, pos := p, count := c }] })
  | .slot i id g st cur =>
    putAslot i id g st cur s

/-- Applies the notices whose tick has come, oldest first. -/
def dueNotices (n m t : Nat) (s : State) : State :=
  let due := (srvPart s n).notices.filter fun x => decide (x.1 ≤ m)
  let s1 := updSrv n (fun k => { k with notices := k.notices.filter fun x => decide (m < x.1) }) s
  each due (fun x s => applyNotice n x.1 t x.2 s) s1

/-! ### The head's assignment (R323, R325, R330) -/

/-- The first of some entries by descending PRIO, then ascending T_SUBMIT. -/
def firstBy (s : State) (l : List Nat) : Option Nat :=
  l.foldl (fun (b : Option Nat) x => match b with
    | none => some x
    | some y =>
      if get s (F.SRV_ENT_PRIO y) < get s (F.SRV_ENT_PRIO x) ||
          (get s (F.SRV_ENT_PRIO y) == get s (F.SRV_ENT_PRIO x) && get s (F.SRV_ENT_T_SUBMIT x) < get s (F.SRV_ENT_T_SUBMIT y))
      then some x else some y) none

/-- Decode lanes that no entry is bound to, or is to be bound to by a notice. -/
def freeLanes (s : State) (n : Nat) : List Nat :=
  let coming := (srvPart s n).notices.filterMap fun x => match x.2 with | .bind _ l => some l | _ => none
  let taken := coming ++ ((entriesOf s n).filter fun e => flag s (F.SRV_ENT_BOUND e)).map fun e => get s (F.SRV_ENT_LANE e)
  (List.range (stages s n)).filter fun j => !prefillLane (stages s n) (get s (F.SRV_PART_PF_LANES n)) j && !taken.contains j

/-- Binds the first free decode lane to an entry by a notice. -/
def bindLane (n m e : Nat) (s : State) : State :=
  match freeLanes s n with
  | [] => s
  | j :: _ => sendNotice n (m + lead s n) (.bind e j) s

/-- Entries that wait for a decode lane: their prompt is assigned or committed. -/
def wantLane (s : State) (n : Nat) : List Nat :=
  (entriesOf s n).filter fun e => !flag s (F.SRV_ENT_BOUND e) && (comingLane s n e).isNone &&
    (entState s e == eDecode || ((entState s e == ePrefill || entState s e == eQueued) &&
      decide (get s (F.SRV_ENT_PROMPT_END e) ≤ get s (F.SRV_ENT_PF_NEXT e))))

/-- Binds a lane when both a lane and a waiting entry are there. -/
@[irreducible] def bindNext (n m : Nat) (s : State) : Option State :=
  match firstBy s (wantLane s n) with
  | none => none
  | some e => if (freeLanes s n).isEmpty then none else some (bindLane n m e s)

/-- Binds lanes as long as both a lane and a waiting entry are there. -/
def bindAll (n m : Nat) : Nat → State → State
  | 0, s => s
  | f + 1, s => match bindNext n m s with
    | none => s
    | some t => bindAll n m f t

/-- Assigns the prefill lane that passes LEAD ticks ahead, with a run that covers the rest of a request's prompt. -/
def assignPrefill (n m : Nat) (s : State) : State :=
  let mm := m + lead s n
  if mm < (srvPart s n).pfFree || !prefillTick s n mm then s
  else
    let want := (entriesOf s n).filter fun e => (entState s e == eQueued || entState s e == ePrefill) &&
      decide (get s (F.SRV_ENT_PF_NEXT e) < get s (F.SRV_ENT_PROMPT_END e)) && (SMap.get none (srvPart s n).waitAdpt e).isNone
    match firstBy s want with
    | none => s
    | some e =>
      let p := get s (F.SRV_ENT_PF_NEXT e)
      let c := get s (F.SRV_ENT_PROMPT_END e) - p
      s |> set (F.SRV_ENT_PF_NEXT e) (p + c) |> updSrv n (fun k => { k with pfFree := runTick s n mm c + 1 })
        |> sendNotice n mm (.prefill e p c)

/-- Room in an output ring. -/
def ringRoom (s : State) (r : Nat) : Bool :=
  match SMap.get none s.srv.oq r with
  | some q => decide ((q.prod + 2 ^ 32 - q.cons) % 2 ^ 32 < q.entries)
  | none => false

/-- The high mark of a partition's staging (R330). -/
def highMark (s : State) (n : Nat) : Nat :=
  let st := stages s n
  1024 - ((lead s n + st - 1) / st + 1) * (st - get s (F.SRV_PART_PF_LANES n))

/-- Output back-pressure (R330). -/
def backPressure (n m : Nat) (s : State) : State :=
  let k := (srvPart s n).staging.length
  if highMark s n < k then
    let full := (entriesOf s n).filter fun e => entState s e == eDecode && !ringRoom s (get s (F.SRV_ENT_ORING e))
    each full (fun e s => tellAt n m e (releaseLane n m e (setEnt e eWaitOutput s))) s
  else if 2 * k < highMark s n then
    each ((entriesOf s n).filter fun e => entState s e == eWaitOutput) (fun e s => tellAt n m e (setEnt e eDecode s)) s
  else s

/-- Waiting requests at a boundary: deadlines (R332), and budgets that have become positive. -/
def waiting (n m t : Nat) (s : State) : State :=
  let one := fun e s =>
    let st := entState s e
    if (st == eQueued || st == eWaitBudget || st == eWaitOutput) && late s e t then finish n m e 0x21 0 t s
    else if st == eWaitBudget && isHead s n && decide (0 < geti s (F.SRV_ACCT_BAL_BAL (get s (F.SRV_ENT_ACCT e)))) then
      tellAt n m e (setEnt e eQueued s)
    else s
  each (entriesOf s n) one s

/-! ### The boundary of a partition -/

/-- Marks the ring entries that instructions of abandoned ticks and refused writes named (R225, R254); one that is VOID has no step to lose
(Table 11.2). -/
def markLost (n : Nat) (s : State) : State :=
  each (partCores s n) (fun c s =>
    let s1 := each (core s c).lost (fun r s => if get s (F.SRV_ENT_TYPE r) = 1 && entState s r != 0 then set (F.SRV_ENT_LPART r) 1 s else s) s
    updCore c (fun k => { k with lost := [] }) s1) s

/-- The boundary of a served partition at instant `t`, at which base tick `k` starts; `safe` as in Table 11.2. -/
def serveWith (safe : Bool) (n k t : Nat) (s : State) : State :=
  let m := ordinal s n k
  let s1 := dueNotices n m t s
  let r := settle n m t safe s1
  let s2 := r.2 |> waiting n m t |> shiftRing n m t r.1
  let s3 := if isHead s2 n then s2 |> backPressure n m |> assignPrefill n m |> bindAll n m (stages s2 n) else s2
  showInUse (showKv n s3)

/-- The package entered safe state in the partition tick that ends at instant `t`, and some step is in the ring (R38). -/
def endsInSafe (s : State) (n t : Nat) : Bool :=
  inSafe s && decide (t ≤ get s F.FLT_SAFE_TIME_TIME + partDiv s n * actv s F.TB_TICK_PERIOD_PERIOD) &&
    (List.range (stages s n)).any fun p => entState s (ringAt s n p) != 0

/-- Step 4 of Table 7.3 for partition `n` at instant `t`: the base tick `k` starts. -/
def serveBoundary (n k t : Nat) (s : State) : State :=
  let s0 := markLost n s
  if !flag s0 (F.SRV_PART_EN n) then s0
  else if endsInSafe s0 n t then serveWith true n k t s0
  else if (partCores s0 n).any (coreRuns s0) then serveWith false n k t s0
  else s0

/-- Step 4 as it is when the package enters safe state at the boundary's own instant (R38). -/
def serveSafe (n k t : Nat) (s : State) : State :=
  let s0 := markLost n s
  if flag s0 (F.SRV_PART_EN n) && (partCores s0 n).any (coreRuns s0) then serveWith true n k t s0 else s0

end Sys2Proof.Machine
end

