-- ==== Sys2Proof/Machine/Tick.lean ====
section
/-! DEFINITION. The tick boundary (R15, R111, R116, R176, R218 to R227, Table 7.3), the guard band and the gate. -/
namespace Sys2Proof.Machine

/-! ### Shadows (R15, R116, R221, R222, R227) -/

/-- Core in whose block a field lies; the trims of an array lie beyond BAR0 (`trimOfs`, `trimGain`). -/
def fldCore (f : Fld) : Option Nat :=
  let a := f.key / 8
  if 2 ^ 32 ≤ f.key then some ((f.key - 2 ^ 32) / (2624 * 1024))
  else if 0x1000000 ≤ a && a < 0x1000000 + 20 * 0x100000 then some ((a - 0x1000000) / 0x100000) else none

/-- Partition whose divider a field is. -/
def divPart (f : Fld) : Option Nat := (List.range 16).find? fun n => (F.TB_PART_DIV_LOG2 n).key == f.key

/-- Recipe entry of which a field is one of the RWS fields: core and index. -/
def rcpOf (f : Fld) : Option (Nat × Nat) :=
  match fldCore f with
  | none => none
  | some c =>
    let b := (F.LEAVEN_RCP_CTL_AFMT c 0).key
    if b ≤ f.key && f.key < b + 256 * 128 then some (c, (f.key - b) / 128) else none

/-- The base boundary of tick `k` governs a field (R221). -/
def governs (s : State) (k : Nat) (f : Fld) : Bool :=
  match fldCore f with
  | some c => k % coreDiv s c == 0
  | none => true

/-- Every divider of the package, active or held, divides `k` (R227). -/
def commonBoundary (s : State) (k : Nat) : Bool :=
  (List.range 16).all fun n =>
    k % partDiv s n == 0 &&
      (!(s.shadows.any fun h => h.held && h.fld.key == (F.TB_PART_DIV_LOG2 n).key) || k % 2 ^ get s (F.TB_PART_DIV_LOG2 n) == 0)

/-- A shadow is due at the boundary of tick `k` at instant `t`. -/
def due (s : State) (k t : Nat) (h : Shadow) : Bool :=
  let div := match divPart h.fld with
    | some n => k % partDiv s n == 0 && k % 2 ^ get s (F.TB_PART_DIV_LOG2 n) == 0
    | none => true
  if h.held then
    flag s F.TB_STAT_GATE_ARMED &&
      decide (s.time.gateK ≤ k) && (if s.time.gateLate then commonBoundary s k else governs s k h.fld && div)
  else decide (h.time < t) && governs s k h.fld && div

/-- A scale that is zero, negative, infinite or not a number is taken as 1.0 and counted (Table 3.11). DESIGN CHOICE (log entry 64): it
is judged, and counted, at every activation of its entry, also of one that was written in another field only. -/
def actScale (c : Nat) (f : Fld) (s : State) : State :=
  let v := get s f
  if v % 2 ^ 31 = 0 || 2 ^ 31 ≤ v || 0x7F800000 ≤ v then bump (F.LEAVEN_RCP_REJ_CNT c) (setAct f 0x3F800000 s) else setAct f v s

/-- The shadow entry fits its ENV (R116); `v` gives the value each field would have. -/
def rcpFits (s : State) (c i : Nat) (v : Fld → Nat) : Bool :=
  let fine := v (F.LEAVEN_RCP_CTL_FINE c i) == 1
  flag s (F.LEAVEN_RCP_ENV_VALID c i) &&
    (v (F.LEAVEN_RCP_CTL_AFMT c i) == 0 || flag s (F.LEAVEN_RCP_ENV_A4_OK c i)) &&
    (!fine || flag s (F.LEAVEN_RCP_ENV_FINE_OK c i)) &&
    (ltOf (v (F.LEAVEN_RCP_CTL_LT c i)) == 0 || fine || flag s (F.LEAVEN_RCP_ENV_LEAVEN_OK c i))

/-- A recipe entry is checked once and becomes active as a whole, or not at all (R116). Fields still held keep their active
value. -/
def actRecipe (held : List Fld) (c i : Nat) (s : State) : State :=
  let isHeld := fun (f : Fld) => held.any fun h => h.key == f.key
  let v := fun (f : Fld) => if isHeld f then actv s f else get s f
  if rcpFits s c i v then
    each ((rcpFields c i).filter fun f => !isHeld f) (fun f s =>
      if f.width = 32 then actScale c f s else setAct f (get s f) s) s
  else raise { src := 0x11, dom := c, node := c, addr := i, detail := 0x30 } (bump (F.LEAVEN_RCP_REJ_CNT c) s)

/-- The slot tables of the ports before a change (R274). -/
def keepSlots (t : Nat) (fs : List Fld) (s : State) : State :=
  each (List.range 12) (fun p s =>
    let lo := (F.FAB_SLOT_CFG_SLOT_NS p).key
    let own := (F.FAB_SLOT_OWN_PID p 0).key
    if fs.any fun f => (lo ≤ f.key && f.key < lo + 32) || (own ≤ f.key && f.key < own + 64 * 32) then
      let n := actv s (F.FAB_SLOT_CFG_NSLOT_M1 p) + 1
      let old : SlotTable := { upto := t, ns := actv s (F.FAB_SLOT_CFG_SLOT_NS p), n := n, tol := actv s (F.FAB_SLOT_CFG_TOL p)
                               own := (List.range 64).map fun i =>
                                 if actB s (F.FAB_SLOT_OWN_VALID p i) then some (actv s (F.FAB_SLOT_OWN_PID p i)) else none }
      updPort p (fun k => { k with slotOld := some old }) s
    else s) s

/-- Port whose slot configuration a field belongs to. -/
def slotCfgPort (f : Fld) : Option Nat :=
  (List.range 12).find? fun p => let lo := (F.FAB_SLOT_CFG_SLOT_NS p).key; lo ≤ f.key && f.key < lo + 32

/-- The shadow slot configuration of a port is accepted (Table 9.11): SLOT_NS at least 16, and the slots end before the guard
band. -/
def slotCfgOk (s : State) (p : Nat) : Bool :=
  let ns := get s (F.FAB_SLOT_CFG_SLOT_NS p)
  decide (16 ≤ ns) && decide ((get s (F.FAB_SLOT_CFG_NSLOT_M1 p) + 1) * ns + 150 ≤ basePeriod s)

/-- The sync state follows the active ROLE (Table 7.1). -/
def roleActive (s : State) : State :=
  if actB s F.TB_CTL_ROLE then ownTime 5 s
  else if get s F.TB_STAT_SYNC = 5 then ownTime 0 s
  else s

/-- One shadow that is neither of a recipe nor of a slot configuration becomes active, or is refused. -/
def activate (f : Fld) (s : State) : State :=
  match divPart f with
  | some _ =>
    if 200000 < basePeriod s * 2 ^ get s f then bump F.TB_CFG_REJ_CNT s else setAct f (get s f) s
  | none =>
    if f.key = F.TB_CTL_ROLE.key then roleActive (setAct f (get s f) s)
    else match fldCore f with
    | some c =>
      if f.key = (F.SEQ_CTL_BANK c).key then
        if flag s (F.SEQ_BANK_DESC_VALID c (get s f)) then setAct f (get s f) s else bump (F.SEQ_BANK_REJ_CNT c) s
      else if f.key = (F.CAL_SRC_SRC c).key && get s f != actv s f then
        setAct f (get s f) (updCore c (fun k => { k with sums := k.sums.map fun (x : Nat × CalSums) => (x.1, clearStats x.2) }) s)
      else setAct f (get s f) s
    | none => setAct f (get s f) s

/-- The slot configuration of a port is judged once and becomes active as a whole, or is refused and counted (Table 9.11). -/
def actSlots (fs : List Fld) (p : Nat) (s : State) : State :=
  if slotCfgOk s p then each (fs.filter fun f => slotCfgPort f == some p) (fun f s => setAct f (get s f) s) s
  else bump (F.FAB_CFG_REJ_CNT p) s

/-- The gate is released: no held shadow waits any more (R227). -/
def gateDone (k : Nat) (s : State) : State :=
  if flag s F.TB_STAT_GATE_ARMED && !(s.shadows.any fun h => h.held) && decide (s.time.gateK ≤ k) && (!s.time.gateLate || commonBoundary s k) then
    s |> setB F.TB_STAT_GATE_ARMED false |> setB F.TB_STAT_GATE_HOLD false
  else s

/-- Step 5 of Table 7.3: shadows become active. A write overtaken since the boundary's instant takes effect with its own value, and the
later one waits on (R15). -/
def activateAll (k t : Nat) (s : State) : State :=
  let fire := s.shadows.filter (due s k t)
  let rest := s.shadows.filter fun h => !due s k t h && (h.old.isNone || decide (t ≤ h.time))
  let fs := fire.map fun h => h.fld
  let held := (rest.map fun h => h.fld).filter fun f => !fs.any fun x => x.key == f.key
  let late := fire.filterMap fun h => h.old.map fun v => (h.fld, v, get s h.fld)
  let rcps := (fs.filterMap rcpOf).foldl (fun (l : List (Nat × Nat)) p => if l.contains p then l else l ++ [p]) []
  let s1 := keepSlots t fs (each late (fun x s => set x.1 x.2.1 s) { s with shadows := rest })
  let ports := (fs.filterMap slotCfgPort).foldl (fun (l : List Nat) p => if l.contains p then l else l ++ [p]) []
  let s2 := each (fs.filter fun f => (rcpOf f).isNone && (slotCfgPort f).isNone) activate s1 |> each ports (actSlots fs)
  gateDone k (each late (fun x s => set x.1 x.2.2 s) (each rcps (fun p s => actRecipe held p.1 p.2 s) s2))

/-! ### Windows (R195, R196) -/

/-- The rows that landed in a window become visible (R192, R196, R197): a row is POISONED when a write of it carried POISONED. -/
def commitLanded (c w : Nat) (s : State) : State :=
  let ls := (core s c).landed.filter fun x => x.1 == w
  let base := get s (F.SPAD_WIN_BASE c w)
  let bad := fun (r : Nat) => ls.any fun y => y.2.1 / 2 == r && y.2.2.2
  dropLanded c w (each ls (fun x s => markRow c (base + x.2.1 / 2) (bad (x.2.1 / 2)) (putRow c (base + x.2.1 / 2) (256 * (x.2.1 % 2)) x.2.2.1 s)) s)

/-- AUTO and sealed windows become HELD; a short one is POISONED. -/
def holdWindow (c w : Nat) (s : State) : State :=
  if get s (F.SPAD_WIN_STATE c w) = 1 && (flag s (F.SPAD_WIN_AUTO c w) || flag s (F.SPAD_WIN_SEAL_PEND c w)) then
    let s1 := commitLanded c w s |> set (F.SPAD_WIN_STATE c w) 2 |> setB (F.SPAD_WIN_SEAL_PEND c w) false
    if get s (F.SPAD_WIN_COUNT c w) < get s (F.SPAD_WIN_EXPECT c w) then
      s1 |> setB (F.SPAD_WIN_SHORT c w) true |> bump (F.SPAD_WIN_SHORT_CNT c)
         |> upTo (get s (F.SPAD_WIN_SIZE_M1 c w) + 1) (fun i s => markRow c (get s (F.SPAD_WIN_BASE c w) + i) true s)
    else s1
  else s

/-! ### The proof draw (R111) -/

/-- The firings of a tick's program from index `i` to END: program index, number of the firing, slot. -/
def programFires (s : State) (c bank : Nat) : Nat → Nat → List (Nat × Nat × Nat)
  | 0, _ => []
  | f + 1, i =>
    let w := progWord s c bank i
    if iClass w = 0 then []
    else if iClass w = 1 && legal w then
      ((List.range (bits w 44 6 + 1)).map fun j => (i, j, bits w 32 12 + j)) ++ programFires s c bank f (i + 1)
    else programFires s c bank f (i + 1)

/-- Weight of a firing of a slot. -/
def fireWeight (s : State) (c slot : Nat) : Nat :=
  if (List.range 8).any fun i => actB s (F.PROOF_WATCH_EN c i) && actv s (F.PROOF_WATCH_SLOT c i) == slot then
    orOne (actv s (F.PROOF_CTL_SUSP_WT c)) else 1

/-- The element in which a number below the sum of the weights falls. -/
def pickAt : List (Nat × Nat × Nat) → (Nat → Nat) → Nat → Option (Nat × Nat)
  | [], _, _ => none
  | x :: l, wt, r => if r < wt x.2.2 then some (x.1, x.2.1) else pickAt l wt (r - wt x.2.2)

/-- Draws a firing of the new tick; without a fire the draw is skipped and counted. DESIGN CHOICE (log entry 22): the generator is a
function of PROOF_SEED and of the number of draws since the core's reset; a write of PROOF_SEED does not restart that number. R111 does not
say whether it restarts the generator. -/
def drawFire (c bank pc : Nat) (s : State) : State :=
  if !actB s (F.PROOF_CTL_EN c) then s
  else
    let fs := programFires s c bank 16384 pc
    let total := (fs.map fun x => fireWeight s c x.2.2).foldl (fun a b => a + b) 0
    let r := Config.proofDraw (get s (F.PROOF_SEED_SEED c)) (core s c).draws % max 1 total
    let s1 := updCore c (fun k => { k with draws := k.draws + 1 }) s
    match pickAt fs (fireWeight s c) r with
    | some x => updCore c (fun k => { k with drawn := some x }) s1
    | none => bump (F.PROOF_SKIP_ZERO_CNT c) s1

/-! ### Ticks of a core -/

/-- A core whose END has not retired abandons its tick (R225); only an overrun is counted and reported. -/
def overrun (c : Nat) (s : State) : State :=
  if !coreRuns s c || !tickOpen s c then s
  else
    let ill := (core s c).illegal
    let s1 := abandonTick c s
    if ill then s1
    else
      let s2 := bump (F.SEQ_OVERRUN_CNT c) s1
      let s3 := match corePart s2 c with
        | some n => bump (F.TB_OVR_CNT n) s2
        | none => s2
      raise { src := 0x35, dom := c, access := 3, node := c, detail := 0x37 } s3

/-- Starts the tick numbered `k` (R176). -/
def startTick (c k t : Nat) (s : State) : State :=
  let bank := actv s (F.SEQ_CTL_BANK c)
  let p := k % (get s (F.SEQ_BANK_DESC_NPHASE_M1 c bank) + 1)
  let pc := get s (F.SEQ_PHASE_ENTRY c bank p)
  let clean := fun (x : CoreSt) => { x with
    evt := [], tickStart := t, tickNum := k, illegal := false, pastEnd := false, outPoison := false, noStore := false, outRows := [] }
  s |> updCore c clean |> set (F.SEQ_STAT_BANK_ACT c) bank |> set (F.SEQ_STAT_PHASE c) p |> set (F.SEQ_STAT_PC c) pc
    |> set (F.SEQ_STAT_PHASE_ST c) 1 |> bump (F.SEQ_TICK_CNT c)
    |> when (core s c).drawn.isSome (skipDraw c) |> drawFire c bank pc

/-- Step 6 of Table 7.3 for one core: commands timed to the boundary, then the new tick. -/
def coreTick (k t c : Nat) (s : State) : State :=
  let s1 := updCore c (fun x => { x with tickStart := t, tickNum := k, lastRows := x.outRows, outRows := [] }) s
  let s2 := if coreState s1 c = cIdle && flag s1 (F.CORE_CTL_STATE_RUN_PEND c) then
      setB (F.CORE_CTL_STATE_RUN_PEND c) false (setCoreState c cRunning s1)
    else if coreRuns s1 c && flag s1 (F.CORE_CTL_STATE_STOP_PEND c) then
      s1 |> setB (F.CORE_CTL_STATE_STOP_PEND c) false |> setCoreState c cIdle |> set (F.SEQ_STAT_PHASE_ST c) 0
    else s1
  if coreRuns s2 c then startTick c k t s2 else s2

/-- State changes and commands of arrays that waited for the boundary (R87, R150, Table 2.14). -/
def arrBoundary (c : Nat) (s : State) : State :=
  let k := core s c
  let s1 := updCore c (fun x => { x with stPend := [], arrCmds := [] }) s
  let s2 := each k.stPend (fun p s => forgetCal c p.1 (setArr c p.1 p.2 s)) s1
  each k.arrCmds (fun p s => arrCmd c p.1 p.2 s) s2

/-- The base boundary at which tick `k` starts, at instant `t` (Table 7.3). -/
def boundary (k t : Nat) (s : State) : State :=
  let cs := allCores.filter fun c => k % coreDiv s c == 0
  let ps := (List.range 16).filter fun n => k % partDiv s n == 0
  let s1 := s |> setB F.TB_STAT_TICK_ON true |> setB F.TB_STAT_GUARD false
  let s2 := each cs overrun { s1 with seam := [] }
  let s3 := each cs (fun c s => showWins c (upTo 64 (holdWindow c) s)) s2
  let u := each ps (fun n s => serveSafe n k t s) s3
  let s4 := { each ps (fun n s => serveBoundary n k t s) s3 with undo := some { time := t, regs := u.regs, srv := u.srv } }
  let s5 := each cs arrBoundary (activateAll k t s4)
  let s6 := each cs (coreTick k t) (set F.TB_TICK_NUM_K k s5)
  { s6 with time := { s6.time with next := k + 1 } }

/-- Expert choices that a routing stage reports at its commit (R327): layer, assigned, bypassed. -/
def countMoe (l : List (Nat × Nat × Nat)) (s : State) : State :=
  each l (fun x s => bumpN (F.SRV_MOE_BYPASS_CNT x.1) x.2.2 (bumpN (F.SRV_MOE_ASSIGN_CNT x.1) x.2.1 s)) s

/-! ### Guard band (R223) -/

/-- GUARD_BAND_START: 150 ns before the end of the current base tick. -/
def execGuardBandStart (s : State) : Host.Outcome State Fault Refusal :=
  if !flag s F.TB_STAT_TICK_ON then .next s
  else .next (setB F.TB_STAT_GUARD true (moveTo (boundaryAt s s.time.next - 150) s))

/-! ### The gate (R227) -/

/-- GATE_HOLD. A HOLD while holding has no effect. -/
def execGateHold (s : State) : Host.Outcome State Fault Refusal :=
  .next (setB F.TB_STAT_GATE_HOLD true s)

/-- The first base boundary after now. -/
def nextAfter (s : State) : Nat := (now s - get s F.TB_EPOCH_EPOCH) / basePeriod s + 1

/-- RELEASE latches K; at or after the instant of tick K it is late, and waits for a common boundary after it. -/
def gateRelease (s : State) : State :=
  if !flag s F.TB_STAT_GATE_HOLD || flag s F.TB_STAT_GATE_ARMED then bump F.TB_CFG_REJ_CNT s
  else
    let k := get s F.TB_GATE_K_K
    let isLate := flag s F.TB_STAT_TICK_ON && decide (boundaryAt s k ≤ now s)
    let s1 := setB F.TB_STAT_GATE_ARMED true { s with time := { s.time with gateK := if isLate then nextAfter s else k, gateLate := isLate } }
    when isLate (fun s => bump F.TB_GATE_LATE_CNT (hwSet F.TB_STAT_GATE_LATE 0 s)) s1

/-- GATE_RELEASE. -/
def execGateRelease (s : State) : Host.Outcome State Fault Refusal := .next (gateRelease s)

/-- ABORT: every held shadow takes its active value. -/
def gateAbort (s : State) : State :=
  if !flag s F.TB_STAT_GATE_HOLD then bump F.TB_CFG_REJ_CNT s
  else
    let held := s.shadows.filter fun h => h.held
    let s1 := { s with shadows := s.shadows.filter fun h => !h.held }
    each held (fun h s => set h.fld (actv s h.fld) s) s1
      |> setB F.TB_STAT_GATE_HOLD false |> setB F.TB_STAT_GATE_ARMED false

/-- GATE_ABORT. -/
def execGateAbort (s : State) : Host.Outcome State Fault Refusal := .next (gateAbort s)

/-! ### Flag windows (R118) -/

/-- Window number of a core that ends at the boundary of the current tick, if one does. -/
def windowEnd (s : State) (c : Nat) : Option Nat :=
  let n := 2 ^ get s (F.LEAVEN_CTL_WIN_LOG2 c)
  let k := get s F.TB_TICK_NUM_K
  if k = 0 || k % n ≠ 0 then none else some (k / n - 1)

/-- LEAVEN_WINDOW_END: the window that ends at the boundary just taken. -/
def execLeavenWindowEnd (c : CoreIx) (s : State) : Host.Outcome State Fault Refusal :=
  match windowEnd s c with
  | none => .next s
  | some w =>
    if !coreUp s c || get s (F.LEAVEN_WIN_NUM_NUM c) = w then .next s
    else
      let mask := get s (F.LEAVEN_CTL_WIN_MASK c)
      let map := fun i => (List.range 32).foldl (fun m b =>
        if SMap.get 0 (core s c).winFlags (32 * i + b) &&& mask != 0 then m + 2 ^ b else m) 0
      .next (s |> upTo 8 (fun i s => set (F.LEAVEN_WINMAP_MAP c i) (map i) s) |> set (F.LEAVEN_WIN_NUM_NUM c) w
        |> updCore c (fun k => { k with winFlags := [] }))

/-- LEAVEN_CTL_WRITE: a write of LEAVEN_CTL; one that changes WIN_LOG2 restarts the window bookkeeping (R118). While the core
runs its RWL fields are locked (R17). -/
def execLeavenCtlWrite (c : CoreIx) (v : Word) (s : State) : Host.Outcome State Fault Refusal :=
  let w0 := bits v.toNat 0 4
  let wl := if 8 ≤ w0 then w0 else get s (F.LEAVEN_CTL_WIN_LOG2 c)
  let old := get s (F.LEAVEN_CTL_WIN_LOG2 c)
  let mask := set (F.LEAVEN_CTL_WIN_MASK c) (bits v.toNat 4 4)
  if !coreUp s c then .next (bump F.GLB_DENIED_CNT s)
  else if coreRuns s c then
    .next (when (w0 != old || bits v.toNat 4 4 != get s (F.LEAVEN_CTL_WIN_MASK c))
      (fun s => raise { src := 0x10, dom := c, access := 1, addr := coreBase c + 0x90000 } (bump (F.LEAVEN_LOCKED_WR c) s)) s)
  else if wl = old then .next (mask s)
  else
    let s1 := s |> set (F.LEAVEN_CTL_WIN_LOG2 c) wl |> mask |> upTo 8 (fun i s => set (F.LEAVEN_WINMAP_MAP c i) 0 s)
      |> set (F.LEAVEN_WIN_NUM_NUM c) (2 ^ 64 - 1)
    .next (updCore c (fun k => { k with winFlags := [] }) s1)

end Sys2Proof.Machine
end

