-- ==== Sys2Proof/Machine/Request.lean ====
section
/-! DEFINITION. Requests, rings, accounts, step rows and the caddy tier (R319 to R334, R353, R354). -/
namespace Sys2Proof.Machine

/-! ### Step rows (R319, Table 11.1) -/

/-- What the engine knows at landing of the step a stage serves in the next tick: kind, entry, and position when it is known. Notices that take
effect at the next boundary count (R320). -/
def nextOfStage (s : State) (n m st : Nat) : Nat × Nat × Option Nat :=
  if st = 0 then
    let u := dueNotices n (m + 1) (now s) s
    if prefillTick u n (m + 1) then
      match takeRun (m + 1) (srvPart u n).runs with
      | some (e, pos, _) => if entState u e = ePrefill then (1, e, some pos) else (0, 0, some 0)
      | none => (0, 0, some 0)
    else match laneEntry u n ((m + 1) % stages u n) with
      | some e => if entState u e = eDecode then (2, e, none) else (0, 0, some 0)
      | none => (0, 0, some 0)
  else
    let r := ringGet s (ringAt s n (st - 1))
    (r.st, r.e, some r.pos)

/-- Byte address of the prompt token at a position of an entry. -/
def promptByte (s : State) (e pos : Nat) : Nat := get s (F.SRV_ENT_PROMPT e) * 512 + 4 * pos

/-- The prompt token of a step: four bytes of the prompt area, which the engine reads (R248, R250). -/
def promptToken (kind e : Nat) (pos : Option Nat) (s : State) : List Byte × State :=
  if kind ≠ 1 then (zeros 4, s)
  else
    let r := readSpan 35 (promptByte s e (pos.getD 0)) 4 s
    (r.1.2.1, r.2)

/-- The two step rows. -/
def stepRows (kind e : Nat) (pos : Option Nat) (s0 : State) : List Byte × State :=
  let tok := promptToken kind e pos s0
  let s := tok.2
  let p := match pos with
    | some p => (natLe 4 p, s)
    | none => freeBytes 4 s
  let head := if kind = 0 then zeros 24 else
    natLe 8 (get s (F.SRV_ENT_SEED e)) ++ p.1 ++ natLe 4 e ++
      tok.1 ++ natLe 1 kind ++
      natLe 1 (if kind = 1 && pos.getD 0 + 1 = get s (F.SRV_ENT_PROMPT_END e) then 1 else 0) ++ zeros 2
  let sel := (List.range 256).flatMap fun _ => natLe 2 (if kind = 2 then 0x3F80 else 0)
  (head ++ zeros 488 ++ sel, p.2)

/-- One of the four window writes; a refused one is counted. -/
def landStep (c win gen : Nat) (rows : List Byte) (h : Nat) (s : State) : State :=
  let w : WinWrite := { core := c, win := win, gen := gen % 65536, ofs := h, sched := false, data := (rows.drop (256 * h)).take 256,
                        origin := none }
  match landCheck s c w with
  | some x => bump F.SRV_STEPWR_REJ_CNT (bump x.2.1 s)
  | none => land c w false s

/-- The step rows of one core. -/
def landCore (c : Nat) (s : State) : State :=
  match corePart s c with
  | none => s
  | some n =>
    let k := get s F.TB_TICK_NUM_K
    if flag s (F.SRV_CORE_STEP_EN c) && flag s (F.SRV_CORE_SVALID c) && flag s (F.SRV_PART_EN n) && k % partDiv s n = 0 then
      let x := nextOfStage s n (ordinal s n k) (get s (F.SRV_CORE_STAGE c))
      let r := stepRows x.1 x.2.1 x.2.2 (moveTo ((core s c).tickStart + 200) s)
      upTo 4 (landStep c (get s (F.SRV_PART_STEPWIN n)) k r.1) r.2
    else s

/-- STEP_ROW_LANDING, 200 ns into the tick. -/
def execStepRowLanding (s : State) : Host.Outcome State Fault Refusal :=
  .next (if flag s F.SRV_CTL_EN then each allCores landCore s else s)

/-! ### Notices at a member (R320) -/

/-- Passes of position 0 by prefill lanes at partition ticks `a` to `b`. -/
def passes (s : State) (n a b : Nat) : Nat := ((List.range (b + 1 - a)).filter fun i => prefillTick s n (a + i)).length

/-- A notice that arrives after its tick acts from the next pass; the passes a prefill run has missed are VOID and counted. -/
def lateNotice (n m cur : Nat) (x : Notice) (s : State) : State :=
  let s1 := bump F.SRV_NOTICE_LATE_CNT s
  match x with
  | .prefill e p c =>
    let k := min c (passes s n m cur)
    let s2 := bumpN F.SRV_NOTICE_MISS_CNT k s1
    if k = c then s2 else applyNotice n (cur + 1) (now s) (.prefill e (p + k) (c - k)) s2
  | .entry _ _ => applyNotice n m (now s) x s1
  | .endEntry _ _ _ => applyNotice n m (now s) x s1
  | .bind _ _ => applyNotice n m (now s) x s1
  | .unbind _ _ => applyNotice n m (now s) x s1
  | .slot _ _ _ _ _ => applyNotice n m (now s) x s1

/-- NOTICE_RECEIVED: kept until its tick, or late. -/
def execNoticeReceived (n : PartIx) (m : Word64) (x : Notice) (s : State) : Host.Outcome State Fault Refusal :=
  let cur := ordinal s n (get s F.TB_TICK_NUM_K)
  if isHead s n then .next s
  else if m.toNat ≤ cur then .next (lateNotice n m.toNat cur x s)
  else .next (updSrv n (fun k => { k with notices := k.notices ++ [(m.toNat, x)] }) s)

/-! ### Admission (R322) -/

/-- A request ring that is set up. -/
def rqRing (s : State) (r : Nat) : Option ReqRing := SMap.get none s.srv.rq r

/-- Changes a request ring. -/
def putRq (r : Nat) (q : Option ReqRing) (s : State) : State := { s with srv := { s.srv with rq := SMap.put none s.srv.rq r q } }

/-- The ring whose next descriptor the head may read. -/
def readable (s : State) (r : Nat) : Option ReqRing :=
  match rqRing s r with
  | some q => if q.cons ≠ q.tail && flag s F.SRV_CTL_EN && flag s (F.SRV_PART_EN q.part) && isHead s q.part then some q else none
  | none => none

/-- The descriptor has been read: consumed index and its write-back (R353), and the bytes read from host memory beside the prompt. -/
def consume (r : Nat) (q : ReqRing) (d : Desc) (s : State) : State :=
  let c := (q.cons + 1) % 2 ^ 32
  s |> putRq r (some { q with cons := c }) |> bump F.SRV_SUBMIT_CNT
    |> bumpN F.GLB_DMA_RD_BYTE_CNT (64 + 68 * d.stops.length) |> dmaOut q.fn q.wb (natLe 8 c)

/-- A descriptor that fails a check completes at once (R322). -/
def reject (n status : Nat) (d : Desc) (s : State) : State :=
  let r : OutRec := { ring := d.oring.toNat, handle := d.handle.toNat, token := 0, pos := 0, status := status
                      flags := fFinal + fNoToken, logit := 0, conv := d.conv.toNat, time := now s, fin := none }
  bump F.SRV_REJ_CNT (stage n r s)

/-- The output ring is set up. -/
def oqSet (s : State) (r : Nat) : Bool := (SMap.get none s.srv.oq r).isSome

/-- Check 1. -/
def badFields (s : State) (own : Nat) (d : Desc) : Bool :=
  d.kind.toNat != own || decide (7 < d.cls.toNat) || decide (1023 < d.acct.toNat) || !actB s (F.SRV_ACCT_VALID d.acct.toNat) ||
    !oqSet s d.oring.toNat || decide (8 < d.nstop.toNat)

/-- Check 2: `len` is the committed length of the conversation. -/
def badLength (s : State) (n len : Nat) (d : Desc) : Bool :=
  d.prompt.isEmpty || decide (get s (F.SRV_PART_MAX_CTX n) < len + d.prompt.length + d.maxlen.toNat)

/-- Check 3: CONV is a request entry of the partition, in one of the states, with the HANDLE. -/
def badConv (s : State) (n : Nat) (d : Desc) (ok : Nat → Bool) : Bool :=
  let e := d.conv.toNat
  decide (8191 < e) || get s (F.SRV_ENT_TYPE e) != 0 || get s (F.SRV_ENT_LPART e) != n || !ok (entState s e) ||
    get s (F.SRV_ENT_HANDLE e) != d.handle.toNat

/-- Check 4. -/
def badAdapter (s : State) (d : Desc) : Bool :=
  d.adpt.toNat != 0xFFFF && !(List.range 64).any fun i => actv s (F.SRV_ASLOT_STATE i) != 0 && actv s (F.SRV_ASLOT_ID i) == d.adpt.toNat

/-- Parked conversations of a partition that could move to the caddy tier, least recently used first. -/
def parkedLru (s : State) (n skip : Nat) : List Nat :=
  if get s (F.SRV_PART_CADDY n) = 0 then []
  else
    let l := (entriesOf s n).filter fun e => entState s e == eParked && e != skip
    l.mergeSort fun a b => decide (get s (F.SRV_ENT_T_LAST a) ≤ get s (F.SRV_ENT_T_LAST b))

/-- Conversations to move out so that `need` page sets are free; none when that does not suffice. -/
def moveOut (s : State) (n need : Nat) : List Nat → Nat → Option (List Nat)
  | [], have_ => if need ≤ have_ then some [] else none
  | e :: l, have_ => if need ≤ have_ then some [] else (moveOut s n need l (have_ + demand s n e)).map fun r => e :: r

/-- The head's partition tick. -/
def curTick (s : State) (n : Nat) : Nat := ordinal s n (get s F.TB_TICK_NUM_K)

/-- The create, update or end notice of an entry. -/
def tellEntry (n e : Nat) (s : State) : State := tellAt n (curTick s n) e s

/-- A page-set budget for an admission: the state with the conversations that move out, or none for NO_SPACE. -/
def makeRoom (n skip need : Nat) (s : State) : Option State :=
  (moveOut s n need (parkedLru s n skip) (kvFree s n)).map fun l => each l (fun e s => tellEntry n e (startXfer n e false s)) s

/-- Check 6. -/
def broke (s : State) (d : Desc) : Bool :=
  actB s (F.SRV_ACCT_END d.acct.toNat) && decide (geti s (F.SRV_ACCT_BAL_BAL d.acct.toNat) ≤ 0)

/-- A ring range of an enabled partition holds the entry. -/
def inRing (s : State) (e : Nat) : Bool :=
  (List.range 16).any fun n => flag s (F.SRV_PART_EN n) && get s (F.SRV_PART_LB n) ≤ e && e < get s (F.SRV_PART_LB n) + stages s n

/-- The lowest FREE request entry. -/
@[irreducible] def freeEntry (s : State) : Option Nat :=
  (List.range 8192).find? fun e => entState s e == eFree && get s (F.SRV_ENT_TYPE e) == 0 && !inRing s e

/-- Binds the current generation of the adapter, or notes that the request waits for it (R333). -/
def bindAdapter (n e : Nat) (d : Desc) (s : State) : State :=
  if d.adpt.toNat = 0xFFFF then s
  else
    let waits := s.srv.replaces.any fun r => r.id == d.adpt.toNat && r.slot.isNone
    match (List.range 64).find? fun i => actv s (F.SRV_ASLOT_STATE i) == 2 && actB s (F.SRV_ASLOT_CUR i) &&
        actv s (F.SRV_ASLOT_ID i) == d.adpt.toNat with
    | some i =>
      if waits then updSrv n (fun k => { k with waitAdpt := SMap.put none k.waitAdpt e (some d.adpt.toNat) }) s
      else s |> set (F.SRV_ENT_ASLOT e) i |> setB (F.SRV_ENT_AVALID e) true |> set (F.SRV_ENT_AGEN e) (actv s (F.SRV_ASLOT_GEN i))
             |> bumpSlot i
    | none => updSrv n (fun k => { k with waitAdpt := SMap.put none k.waitAdpt e (some d.adpt.toNat) }) s

/-- The fields of an entry that a turn sets, from a descriptor; `len` positions are committed. -/
def fillEntry (n e len : Nat) (d : Desc) (s : State) : State :=
  let t := now s
  let b := fun (x : Bool) => if x then 1 else 0
  s |> set (F.SRV_ENT_TYPE e) 0 |> set (F.SRV_ENT_LPART e) n |> set (F.SRV_ENT_CLASS e) d.cls.toNat |> set (F.SRV_ENT_KEEP e) (b d.keep)
    |> set (F.SRV_ENT_LATE_OK e) (b d.lateOk) |> set (F.SRV_ENT_OMIT_STOP e) (b d.omitStop) |> set (F.SRV_ENT_PRIO e) d.prio.toNat
    |> set (F.SRV_ENT_STOPSETS e) d.stopsets.toNat |> set (F.SRV_ENT_HANDLE e) d.handle.toNat |> set (F.SRV_ENT_LEN e) len
    |> set (F.SRV_ENT_PROMPT_END e) (len + d.prompt.length) |> set (F.SRV_ENT_PF_NEXT e) len |> set (F.SRV_ENT_MAXLEN e) d.maxlen.toNat
    |> set (F.SRV_ENT_OUT_CNT e) 0 |> set (F.SRV_ENT_ACCT e) d.acct.toNat |> setB (F.SRV_ENT_AVALID e) false
    |> set (F.SRV_ENT_LOST_RUN e) 0 |> set (F.SRV_ENT_NSTOP e) d.nstop.toNat |> set (F.SRV_ENT_STATUS e) 0 |> setB (F.SRV_ENT_BOUND e) false
    |> set (F.SRV_ENT_ORING e) d.oring.toNat |> set (F.SRV_ENT_PLIST e) (Config.listLine (get s (F.SRV_PART_PLIST n)) e)
    |> set (F.SRV_ENT_DEADLINE e) (if d.time.toNat = 0 then 2 ^ 64 - 1 else (t + d.time.toNat) % 2 ^ 64)
    |> set (F.SRV_ENT_T_SUBMIT e) t |> set (F.SRV_ENT_T_FIRST e) 0 |> set (F.SRV_ENT_T_LAST e) 0 |> set (F.SRV_ENT_SEED e) d.seed.toNat
    |> set (F.SRV_ENT_TBT_MAX e) 0 |> set (F.SRV_ENT_CHARGED e) 0
    |> set (F.SRV_ENT_PROMPT e) (Config.promptLine (get s (F.SRV_PART_PROMPT n)) e)
    |> set (F.SRV_ENT_STOPLEN e) ((d.stops.zipIdx.map fun (p : List Word × Nat) => (p.1.length - 1) % 16 * 16 ^ p.2).foldl (fun a b => a + b) 0)
    |> each d.stops.zipIdx (fun (p : List Word × Nat) s =>
        upTo 16 (fun j s => set (F.SRV_STOP_WORD e (16 * p.2 + j)) (nth 0 p.1 j).toNat s) s)

/-- The prompt tokens go to the prompt area of the stacks, by DMA for the ring's function (R322, R339). -/
def putPrompt (f e len : Nat) (d : Desc) (s : State) : Nat × State :=
  if d.prompt.isEmpty then (0, s) else dmaIn f (promptByte s e len) (d.prompt.flatMap fun w => natLe 4 w.toNat) s

/-- A request becomes QUEUED, or its pages are restored first. DESIGN CHOICE (log entry 67): where the prompt could not be placed, the request ends
with the status of that transfer. -/
def queueEntry (f n e len st : Nat) (d : Desc) (s : State) : State :=
  let p := putPrompt f e len d (setEnt e st (fillEntry n e len d s))
  when (p.1 != 0) (fun s => sendNotice n (curTick s n + lead s n) (.endEntry e p.1 0) s) (tellEntry n e (bindAdapter n e d p.2))

/-- A NEW descriptor of partition `n`: checked in order, then admitted. -/
def submitNew (f n : Nat) (d : Desc) (s : State) : State :=
  if badFields s 1 d then reject n 3 d s
  else if badLength s n 0 d then reject n 3 d s
  else if badAdapter s d then reject n 3 d s
  else match freeEntry s, makeRoom n 8192 (setsFor d.prompt.length) s with
    | some e, some s1 =>
      if broke s d then reject n 0x22 d s
      else updSrv n (fun k => { k with admitted := k.admitted + 1 }) (queueEntry f n e 0 eQueued d s1)
    | _, _ => reject n 7 d s

/-- Admissions left in the current millisecond (R322). -/
def mayAdmit (n : Nat) (s : State) : Bool × State :=
  let ms := now s / 1000000
  let s1 := if (srvPart s n).ms = ms then s else updSrv n (fun k => { k with ms := ms, admitted := 0 }) s
  let r := actv s (F.SRV_PART_ADM_RATE n)
  (r == 0xFFFF || decide ((srvPart s1 n).admitted < r), s1)

/-- REQ_NEW. -/
def execReqNew (r : RingIx) (d : Desc) (s : State) : Host.Outcome State Fault Refusal :=
  match readable s r with
  | none => .next s
  | some q =>
    let a := mayAdmit q.part s
    if a.1 then .next (submitNew q.fn q.part d (consume r q d a.2)) else .next a.2

/-- A CONTINUE descriptor. -/
def submitContinue (f n : Nat) (d : Desc) (s : State) : State :=
  let e := d.conv.toNat
  let len := get s (F.SRV_ENT_LEN e)
  if badFields s 2 d then reject n 3 d s
  else if badLength s n len d then reject n 3 d s
  else if badConv s n d (fun st => st == eParked || st == eMigrating || st == eCaddy) then reject n 3 d s
  else if badAdapter s d then reject n 3 d s
  else
    let held := if entState s e = eCaddy then 0 else demand s n e
    match makeRoom n e (setsFor (len + d.prompt.length) - held) s with
    | none => reject n 7 d s
    | some s1 =>
      if broke s d then reject n 0x22 d s
      else if entState s e = eCaddy then
        queueEntry f n e len eRestoring d (restoreSets n e (startXfer n e true s1))
      else queueEntry f n e len eQueued d (updSrv n (fun k => { k with xfers := SMap.put none k.xfers e none }) s1)

/-- REQ_CONTINUE. -/
def execReqContinue (r : RingIx) (d : Desc) (s : State) : Host.Outcome State Fault Refusal :=
  match readable s r with
  | none => .next s
  | some q => .next (submitContinue q.fn q.part d (consume r q d s))

/-- A CANCEL descriptor: the request ends with STOPPED and FLAGS.CANCEL when its notice takes effect (R321). -/
def submitCancel (n : Nat) (d : Desc) (s : State) : State :=
  if badFields s 3 d || badConv s n d active || badAdapter s d then reject n 3 d s
  else sendNotice n (curTick s n + lead s n) (.endEntry d.conv.toNat 0x24 32) s

/-- REQ_CANCEL. -/
def execReqCancel (r : RingIx) (d : Desc) (s : State) : Host.Outcome State Fault Refusal :=
  match readable s r with
  | none => .next s
  | some q => .next (submitCancel q.part d (consume r q d s))

/-- The time to live of a parked conversation ends then. -/
def setTtl (n e ns : Nat) (s : State) : State :=
  set (F.SRV_ENT_TTL e) ((now s + (if ns = 0 then actv s (F.SRV_PART_PARK_TTL n) * 1000000000 else ns)) % 2 ^ 64) s

/-- A PARK descriptor: the TTL, and the move to the caddy tier when the partition has one (R334). -/
def submitPark (n : Nat) (d : Desc) (s : State) : State :=
  let e := d.conv.toNat
  if badFields s 4 d || badConv s n d (fun st => st == eParked) || badAdapter s d then reject n 3 d s
  else
    let s1 := setTtl n e d.time.toNat s
    tellEntry n e (if get s1 (F.SRV_PART_CADDY n) = 0 then s1 else startXfer n e false s1)

/-- REQ_PARK. -/
def execReqPark (r : RingIx) (d : Desc) (s : State) : Host.Outcome State Fault Refusal :=
  match readable s r with
  | none => .next s
  | some q => .next (submitPark q.part d (consume r q d s))

/-- A notice about the request of an entry that is still to take effect. -/
def aboutEntry (e : Nat) (x : Notice) : Bool :=
  match x with
  | .bind d _ => d == e
  | .unbind d _ => d == e
  | .prefill d _ _ => d == e
  | .endEntry d _ _ => d == e
  | .entry _ _ => false
  | .slot _ _ _ _ _ => false

/-- An entry of a partition becomes FREE, with its page sets, its transfer and its notices. -/
def freeEnt (n e : Nat) (s : State) : State :=
  s |> unbindSlot e |> freeSets n e |> setEnt e eFree |> setB (F.SRV_ENT_BOUND e) false
    |> updSrv n (fun k => { k with
        xfers := SMap.put none k.xfers e none, waitAdpt := SMap.put none k.waitAdpt e none
        runs := k.runs.filter (fun x => !(x.e == e)), notices := k.notices.filter (fun x => !aboutEntry e x.2) })

/-- A DROP descriptor frees a conversation in any of the states PARKED, MIGRATING, CADDY and RESTORING (R334). -/
def submitDrop (n : Nat) (d : Desc) (s : State) : State :=
  let e := d.conv.toNat
  let ok := fun st => st == eParked || st == eMigrating || st == eCaddy || st == eRestoring
  if badFields s 5 d || badConv s n d ok || badAdapter s d then reject n 3 d s
  else tellEntry n e (freeEnt n e s)

/-- REQ_DROP. -/
def execReqDrop (r : RingIx) (d : Desc) (s : State) : Host.Outcome State Fault Refusal :=
  match readable s r with
  | none => .next s
  | some q => .next (submitDrop q.part d (consume r q d s))

/-! ### Accounts (R325) -/

/-- One millisecond of refill of an account, up to BURST; fractions of 1/256 token are carried. -/
def refill (a : Nat) (s : State) : State :=
  let rate := actv s (F.SRV_ACCT_RATE a)
  if rate = 0 then s
  else
    let v := rate * 256 + SMap.get 0 s.srv.acctFrac a
    let bal := geti s (F.SRV_ACCT_BAL_BAL a)
    let cap : Int := actv s (F.SRV_ACCT_BURST a) * 256
    let new := if bal < cap then min cap (bal + (v / 1000 : Nat)) else bal
    set (F.SRV_ACCT_BAL_BAL a) (twos 32 new) { s with srv := { s.srv with acctFrac := SMap.put 0 s.srv.acctFrac a (v % 1000) } }

/-- ACCOUNT_REFILL: the next millisecond of the time base. -/
def execAccountRefill (s : State) : Host.Outcome State Fault Refusal :=
  .next (upTo 1024 refill (moveTo ((now s / 1000000 + 1) * 1000000) s))

/-! ### Rings (R353, R354) -/

/-- RQ_TAIL of a function's page. -/
def execRqTail (f : FnIx) (r : RingIx) (v : Word) (s : State) : Host.Outcome State Fault Refusal :=
  match rqRing s r with
  | some q =>
    if q.fn = f.val && (v.toNat + 2 ^ 32 - q.cons) % 2 ^ 32 ≤ q.entries then .next (putRq r (some { q with tail := v.toNat }) s)
    else .next (bump F.MBX_RQ_DB_REJ_CNT s)
  | none => .next (bump F.MBX_RQ_DB_REJ_CNT s)

/-- OQ_HEAD of a function's page: the consumer index of a ring that the function owns; the register holds the value in any case. -/
def execOqHead (f : FnIx) (r : RingIx) (v : Word) (s : State) : Host.Outcome State Fault Refusal :=
  let s1 := updPage f (fun k => { k with oqHead := SMap.put 0 k.oqHead r v.toNat }) s
  match SMap.get none s.srv.oq r.val with
  | some q => .next (if q.fn = f.val then putOq r (some { q with cons := v.toNat }) s1 else s1)
  | none => .next s1

/-- The bytes of an output record (Table 11.9). -/
def recBytes11 (r : OutRec) : List Byte :=
  natLe 4 r.handle ++ natLe 4 r.token ++ natLe 4 r.pos ++ natLe 1 r.status ++ natLe 1 r.flags ++ zeros 2 ++ natLe 4 r.logit ++
    natLe 4 r.conv ++ natLe 8 r.time

/-- A record may be written to its ring: it has room, and for a remote target a batch is open (R354). -/
def ringTakes (s : State) (r : Nat) : Bool :=
  ringRoom s r && match SMap.get none s.srv.oq r with | some q => q.remote.isNone || q.batch | none => false

/-- The first staged record that its ring takes, and the others. -/
def takeStaged (s : State) : List OutRec → Option (OutRec × List OutRec)
  | [] => none
  | r :: l => if ringTakes s r.ring then some (r, l) else (takeStaged s l).map fun p => (p.1, r :: p.2)

/-- The FINAL record of an entry is written: it is PARKED with KEEP, else FREE (Table 11.5). -/
def released (n e : Nat) (s : State) : State :=
  if entState s e ≠ eDone then s
  else if flag s (F.SRV_ENT_KEEP e) then tellEntry n e (setEnt e eParked (setTtl n e 0 s))
  else tellEntry n e (freeEnt n e s)

/-- Records unsignalled and the ring's vector after a write-back (R354). -/
def signalOut (r : Nat) (q : OutRing) (s : State) : State :=
  let k := q.unsig + 1
  if q.remote.isNone && q.modCnt ≤ k then raiseVector q.fn q.vector (putOq r (some { q with unsig := 0, since := none }) s)
  else putOq r (some { q with unsig := k, since := some (q.since.getD (now s)) }) s

/-- The half-line of a remote ring that holds record `i`: the records last written there, zeros where none was. -/
def halfLine (q : OutRing) (i : Nat) : List Byte := (List.range 8).flatMap fun j => SMap.get (zeros 32) q.recs (i / 8 * 8 + j)

/-- Writes a record to its ring (R329, R354): by DMA with the producer index to the write-back address, or to a remote target both by STK_WR. -/
def writeRec (n : Nat) (x : OutRec) (q : OutRing) (s : State) : State :=
  let i := q.prod % max 1 q.entries
  let q1 := { q with prod := (q.prod + 1) % 2 ^ 32, recs := if q.remote.isSome then SMap.put (zeros 32) q.recs i (recBytes11 x) else q.recs }
  let s1 := match q.remote with
    | none => signalOut x.ring q1 (dmaOut q.fn q.wb (natLe 4 q1.prod) (dmaOut q.fn (q.base + 32 * i) (recBytes11 x) s))
    | some a => s |> signalOut x.ring q1 |> sendBulk n a 1 (q.base + 32 * (i / 8 * 8)) (tagRecord x.ring) (halfLine q1 i)
        |> sendBulk n a 1 q.wb (tagRecord x.ring) (padTo 256 (natLe 4 q1.prod))
  match x.fin with
  | some e => released n e s1
  | none => s1

/-- A batch of a remote ring ends when no staged record of the partition goes there any more, or it has no room (R354). -/
def closeBatch (n r : Nat) (s : State) : State :=
  match SMap.get none s.srv.oq r with
  | some q => if q.batch && (!ringRoom s r || !(srvPart s n).staging.any fun x => x.ring == r) then putOq r (some { q with batch := false }) s else s
  | none => s

/-- The head reads the consumer index of a remote ring, from the line before BASE, when a staged record waits for it (R354). -/
def askIndex (n : Nat) (s : State) : State :=
  let waits := fun (x : OutRec) => match SMap.get none s.srv.oq x.ring with | some q => q.remote.isSome && !q.asked && !q.batch | none => false
  match (srvPart s n).staging.find? waits with
  | none => s
  | some x => match SMap.get none s.srv.oq x.ring with
    | some q => sendBulk n (q.remote.getD 0) 2 (q.base - 512) (tagIndex x.ring) [] (putOq x.ring (some { q with asked := true }) s)
    | none => s

/-- OUTPUT_RECORD_WRITE: the first staged record of the partition that its ring takes; with none, the consumer index that one waits for is read. -/
def execOutputRecordWrite (n : PartIx) (s : State) : Host.Outcome State Fault Refusal :=
  match takeStaged s (srvPart s n).staging with
  | none => .next (askIndex n s)
  | some (x, rest) =>
    match SMap.get none s.srv.oq x.ring with
    | none => .next s
    | some q => .next (showInUse (showKv n (closeBatch n x.ring (writeRec n x q (updSrv n (fun k => { k with staging := rest }) s)))))

/-- OUTPUT_IRQ_TIMER: MOD_US after the first unsignalled record. -/
def execOutputIrqTimer (r : RingIx) (s : State) : Host.Outcome State Fault Refusal :=
  match SMap.get none s.srv.oq r.val with
  | some q =>
    match q.since with
    | some t =>
      if q.remote.isSome then .next s
      else .next (raiseVector q.fn q.vector (putOq r (some { q with unsig := 0, since := none }) (moveTo (t + q.modUs * 1000) s)))
    | none => .next s
  | none => .next s

/-! ### The caddy tier (R334) -/

/-- CADDY_TTL_EXPIRE: a PARKED or CADDY conversation whose TTL has passed is freed. -/
def execCaddyTtlExpire (e : EntIx) (s : State) : Host.Outcome State Fault Refusal :=
  let i := e.toNat
  let st := entState s i
  let n := get s (F.SRV_ENT_LPART i)
  if get s (F.SRV_ENT_TYPE i) = 0 && (st = eParked || st = eCaddy) && get s (F.SRV_ENT_TTL i) ≤ now s then
    .next (showInUse (showKv n (freeEnt n i (bump F.SRV_CADDY_EXP_CNT s))))
  else .next s

/-- A partition as the management core knows it. -/
def partRec (s : State) (n : Nat) : Option PartRec := SMap.get none s.fw.parts n

/-- Members of a partition. -/
def partMembers (s : State) (n : Nat) : Nat := match partRec s n with | some r => r.members.length | none => 0

/-- Every member of the partition has reported. -/
def allHeard (s : State) (n : Nat) (heard : NSet) : Bool := (List.range (partMembers s n)).all fun i => NSet.has heard i

/-- The head's decision when a transfer is over (R334). -/
def xferDone (n e : Nat) (x : Xfer) (s : State) : State :=
  let s1 := updSrv n (fun k => { k with xfers := SMap.put none k.xfers e none }) s
  if x.restore then tellEntry n e (setEnt e eQueued s1) else tellEntry n e (setEnt e eCaddy (freeSets n e s1))

/-- A transfer has failed on a member. -/
def xferFailed (n e : Nat) (x : Xfer) (s : State) : State :=
  let s1 := bump F.SRV_CADDY_FAIL_CNT (updSrv n (fun k => { k with xfers := SMap.put none k.xfers e none }) s)
  if x.restore then tellEntry n e (finish n (curTick s1 n) e 0x17 0 (now s1) s1)
  else tellEntry n e (setEnt e eParked s1)

/-! The copy of pages. FREE VALUES (log entry 38): the lines and the pages of a page set, and the place of a page set in the caddy area. -/

/-- Marks the copy of an entry failed. -/
def copyBad (n e : Nat) (s : State) : State := tagNack (tagPages n e) 0 s

/-- The function whose host memory holds the caddy area of a partition: its owner's. -/
def ownerFn (s : State) (n : Nat) : Nat := match partRec s n with | some r => r.owner | none => 0

/-- Line `j` of a page set goes to the caddy target: host memory by DMA, or a remote pool by STK_WR. -/
def copyLine (n e p set j : Nat) (s : State) : State :=
  let l := Config.setLine (get s (F.SRV_PART_PLIST n)) set + j
  let host := get s (F.SRV_PART_CADDY n) == 1
  if host && !aperCovers s (ownerFn s n) (512 * l) 512 false then copyBad n e (aperRej (ownerFn s n) s) else
  let r := readLine 35 l true s
  let at_ := Config.caddyLine e p + j
  let s1 := when (r.1.1 != 0 || r.1.2.2) (copyBad n e) r.2
  if host then dmaOut (ownerFn s n) (get s (F.SRV_PART_CADDY_BASE n) + 512 * at_) r.1.2.1 s1
  else
    let a := 512 * (get s (F.SRV_PART_CADDY_BASE n) + at_)
    s1 |> sendBulk n (get s (F.SRV_PART_POOL n)) 1 a (tagPages n e) (r.1.2.1.take 256)
      |> sendBulk n (get s (F.SRV_PART_POOL n)) 1 (a + 256) (tagPages n e) (r.1.2.1.drop 256)

/-- The pages of an entry go to the caddy target, counted. -/
def copyOut (n e : Nat) (s : State) : State :=
  let base := get s (F.SRV_PART_PLIST n)
  each (SMap.get [] (srvPart s n).pages e) (fun p s =>
    bumpN F.SRV_CADDY_OUT_CNT (Config.setPages base) (upTo (Config.setLines base) (copyLine n e p.1 p.2) s)) s

/-- The pages of an entry come back into the sets it has taken, counted; `data` is what the caddy target gives, set after set. -/
def copyIn (n e : Nat) (data : List Byte) (s : State) : State :=
  let base := get s (F.SRV_PART_PLIST n)
  let size := 512 * Config.setLines base
  each (SMap.get [] (srvPart s n).pages e).zipIdx (fun p s =>
    let a := 512 * Config.setLine base p.1.2
    let bs := padTo size (data.drop (size * p.2))
    let w := if get s (F.SRV_PART_CADDY n) = 1 then dmaIn (ownerFn s n) a bs s
      else let r := writeSpan 35 a bs s; (if r.1.isSome then 3 else 0, r.2)
    bumpN F.SRV_CADDY_IN_CNT (Config.setPages base) (when (w.1 != 0) (copyBad n e) w.2)) s

/-- The copy of an entry takes no less than its bytes at CADDY_RATE, in MB/s (R334). -/
def copyEnd (n e : Nat) (x : Xfer) (s : State) : Nat :=
  x.start + 512000 * Config.setLines (get s (F.SRV_PART_PLIST n)) * (SMap.get [] (srvPart s n).pages e).length / actv s (F.SRV_PART_CADDY_RATE n)

/-- This member's own copy ends: at the earliest when CADDY_RATE allows. -/
def ownPages (n e : Nat) (x : Xfer) (data : List Byte) (s : State) : State :=
  let s1 := moveTo (copyEnd n e x s) s
  if x.restore then copyIn n e data s1 else copyOut n e s1

/-- CADDY_REPORT: member `k` of the partition ends its copy, or fails; the head hears it, and a member that is not the head reports its own.
`data` is what the caddy target gives this member for a restore. -/
def execCaddyReport (n : PartIx) (e : EntIx) (k : BitVec 16) (ok : Bool) (data : List Byte) (s : State) : Host.Outcome State Fault Refusal :=
  match SMap.get none (srvPart s n).xfers e.toNat with
  | none => .next s
  | some x =>
    let own := (partRec s n).any fun r => r.own == k.toNat
    let s1 := when (own && ok) (ownPages n e.toNat x data) s
    let good := ok && !(match SMap.get none (srvPart s1 n).xfers e.toNat with | some y => y.bad | none => false)
    if !isHead s n then
      .next (when own (fun s => when (!good) (bump F.SRV_CADDY_FAIL_CNT) (emit .net .report [0x334, n.val, e.toNat, k.toNat, if good then 1 else 0] s)) s1)
    else if !good then .next (xferFailed n e.toNat x s1)
    else
      let y := { x with heard := NSet.add x.heard k.toNat }
      if allHeard s1 n y.heard then .next (showInUse (showKv n (xferDone n e.toNat y s1)))
      else .next (updSrv n (fun p => { p with xfers := SMap.put none p.xfers e.toNat (some y) }) s1)

end Sys2Proof.Machine
end

