-- ==== Sys2Proof/Machine/Yarile.lean ====
section
/-! DEFINITION. Yarile requests: doorbells, checks, responses, PENDING commands and completions (R341 to R346, R349). -/
namespace Sys2Proof.Machine

/-- GLB_MODE (Table 12.12). -/
def mode (s : State) : Nat := get s F.GLB_MODE_MODE

/-! ### Doorbells (R342, R343) -/

/-- The mailbox hardware answers BUSY itself (R343). -/
def autoBusy (s : State) : Bool := !flag s F.MBX_CTL_FW_UP || flag s F.MBX_CTL_UPDATING

/-- A response without SEQ to the request in a slot. -/
def bareResponse (h : Header) (status : Nat) : Header :=
  { opcode := h.opcode, version := 3, flags := 0, tag := h.tag, plen := 0, status := status, part := h.part, bufAddr := 0, bufLen := 0,
    resLen := 0, timeout := 0, seq := 0, inl := [] }

/-- A management transport takes no message: MCTP in minimal mode (R366), Ethernet without an authenticated session (R352, R378). -/
def transportShut (s : State) (f : Nat) : Bool := (f == 33 && flag s F.MBX_CTL_MINIMAL) || (f == 34 && s.fw.sessions == 0)

/-- MB_DB: the value written to it by a function. -/
def execMbDb (f : FnIx) (v : Word) (s : State) : Host.Outcome State Fault Refusal :=
  let i := v.toNat % 8
  if transportShut s f then .next s
  else if slotSt s f i ≠ 0 then .next (bump F.MBX_DB_REJ_CNT s)
  else
    let s1 := putSlot f i 1 (bump F.MBX_DB_CNT s)
    if autoBusy s1 then .next (bump F.MBX_AUTO_BUSY_CNT (putResponse f i (bareResponse (reqHeader s1 f i) 2) [] s1))
    else .next s1

/-- MB_ACK: each bit frees a DONE slot. -/
def execMbAck (f : FnIx) (v : Word) (s : State) : Host.Outcome State Fault Refusal :=
  .next (upTo 8 (fun i s =>
    if !bit v.toNat i then s
    else if slotSt s f i = 2 then putSlot f i 0 s
    else bump F.MBX_DB_REJ_CNT s) s)

/-! ### Responses -/

/-- The next SEQ of a function. -/
def nextSeq (f : Nat) (s : State) : Nat × State :=
  let n := ((page s f).seq + 1) % 2 ^ 32
  (n, updPage f (fun k => { k with seq := n }) s)

/-- The final response to a request: a result that does not fit the payload goes to the host buffer (R341). -/
def respond (q : YReq) (h : Header) (status : Nat) (result : List Byte) (s : State) : State :=
  let n := nextSeq q.fn s
  let big := decide (1984 < result.length) && decide (q.fn.val < 33)
  let r := { bareResponse h status with plen := if big then 0 else min 1984 result.length, resLen := result.length, seq := n.1 }
  putResponse q.fn q.slot r (if big then [] else result) (if big then toBuffer q.fn h.bufAddr h.bufLen result n.2 else n.2)

/-- The final response of a command whose result goes to the buffer, with what its payload holds beside it; RESULT_LEN counts the result (R341).
Over a management transport all of it is payload (R352). -/
def respondBuf (q : YReq) (h : Header) (payload result : List Byte) (s : State) : State :=
  let n := nextSeq q.fn s
  let host := decide (q.fn.val < 33)
  let all := if host then payload else payload ++ result
  let r := { bareResponse h 0 with plen := min 1984 all.length, resLen := result.length, seq := n.1 }
  putResponse q.fn q.slot r all (if host then toBuffer q.fn h.bufAddr h.bufLen result n.2 else n.2)

/-- PEND of a function follows its PENDING commands, those that run on after an FLR among them (R340). -/
def showPend (f : Nat) (s : State) : State :=
  if f < 33 then set (F.MBX_FN_PEND f) ((s.fw.pends.filter fun p => p.fn == f).length) s else s

/-- The instant at which a command's TIMEOUT_MS passes; only MODEL_LOAD has a default. -/
def dueAt (h : Header) (s : State) : Option Nat :=
  let ms := if h.timeout = 0 && h.opcode = 0x0301 then 60000 else h.timeout
  if ms = 0 then none else some (now s + ms * 1000000)

/-- A command responds PENDING (R345). -/
def pend (q : YReq) (h : Header) (objs : List Obj) (act : PendAct) (s : State) : State :=
  let n := nextSeq q.fn s
  let p : Pend := { fn := q.fn, opcode := h.opcode, tag := h.tag, seq := n.1, part := h.part, buf := h.bufAddr, bufLen := h.bufLen, objs := objs, act := act,
                    due := dueAt h s, orphan := false }
  n.2 |> updFw (fun k => { k with pends := k.pends ++ [p] }) |> showPend q.fn
    |> putResponse q.fn q.slot { bareResponse h 1 with seq := n.1 } []

/-- A PENDING command ends: its completion goes to the event queue, or is discarded and counted after an FLR (R340, R346). -/
def endPend (p : Pend) (status : Nat) (result : List Byte) (s : State) : State :=
  let s1 := showPend p.fn (updFw (fun k => { k with pends := k.pends.filter fun x => !(decide (x = p)) }) s)
  if p.orphan then bump F.MBX_EVT_DROP_CNT s1
  else
    let h : Header := { opcode := p.opcode, version := 3, flags := 0, tag := p.tag, plen := 0, status := status, part := p.part, bufAddr := 0,
                        bufLen := 0, resLen := result.length, timeout := 0, seq := p.seq, inl := result }
    putEvent p.fn h (if 24 < result.length && p.fn < 33 then toBuffer p.fn p.buf p.bufLen result s1 else s1)

/-! ### Checks (R344, Table 12.4) -/

/-- The OPCODEs of Table 12.7. -/
def opcodes : List Nat :=
  [0x0101, 0x0102, 0x0103, 0x0104, 0x0201, 0x0202, 0x0203, 0x0204, 0x0205, 0x0206, 0x0207, 0x0208, 0x0209, 0x0301, 0x0302, 0x0303, 0x0304,
    0x0305, 0x0401, 0x0402, 0x0403, 0x0404, 0x0405, 0x0501, 0x0502, 0x0503, 0x0504, 0x0601, 0x0602, 0x0603, 0x0604, 0x0605, 0x0606, 0x0607,
    0x0701, 0x0702, 0x0703, 0x0704, 0x0801, 0x0802, 0x0803, 0x0804, 0x0901, 0x0902, 0x0903, 0x0904, 0x0905, 0x0A01, 0x0A02, 0x0B01, 0x0B02,
    0x0B03, 0x0C01, 0x0C02, 0x0C03, 0x0D01, 0x0D02, 0x0D03, 0x0D04, 0x0D05]

/-- What Table 12.7 says of a command: OPCODE, the right V, and Min. -/
structure CmdRow where
  op : Nat
  v : Bool := false
  min : Bool := false
  deriving DecidableEq, Repr

/-- A VF may act on a partition. -/
def mayAct (s : State) (f n : Nat) : Bool := f = 0 || 33 ≤ f || getBit s (F.MBX_FN_PARTS f) n

/-- The function is a VF. -/
def isVf (f : Nat) : Bool := 1 ≤ f && f ≤ 32

/-- The first check of Table 12.4 that applies, in its order; before NORMAL, commands not marked Min get BUSY (R358), also once
the package is shut down, where LC_SET and FW_ACTIVATE get it too, since it stays so (R371; log entry 67),
and in safe state those that R394 does not list. `range` says
that the payload is in range (BUF_ADDR of a management transport is 0, R352), `parts` lists the partitions the request names, `objs` what it would change. -/
def check (s : State) (r : CmdRow) (q : YReq) (h : Header) (range : Bool) (parts : List Nat) (objs : List Obj) : Option Nat :=
  if h.version ≠ 3 || !opcodes.contains h.opcode then some 4
  else if flag s F.MBX_CTL_MINIMAL && !r.min then some 0x36
  else if mode s = 0 && !r.min then some 2
  else if s.fw.phase = .shut && (!r.min || [0x0A02, 0x0B02].contains r.op) then some 2
  else if inSafe s && !((r.min && r.op != 0x0A02) || [0x0901, 0x0902, 0x0C01, 0x0C03].contains r.op) then some 2
  else if 1984 < h.plen || !range || (33 ≤ q.fn.val && h.bufAddr ≠ 0) then some 3
  else if isVf q.fn && (!r.v || parts.any fun n => !mayAct s q.fn n) then some 6
  else if 32 ≤ (s.fw.pends.filter fun p => p.fn == q.fn.val).length then some 2
  else if s.fw.pends.any fun p => p.objs.any fun o => objs.contains o then some 2
  else none

/-- Runs a command on the request in a slot that is BUSY: the checks, then its effect on the header. A slot whose request is another
command's is left to that command. -/
def run (r : CmdRow) (q : YReq) (range : Bool) (parts : List Nat) (objs : List Obj) (f : Header → State → State) (s : State) : State :=
  let h := reqHeader s q.fn q.slot
  if slotSt s q.fn q.slot ≠ 1 || autoBusy s then s
  else if opcodes.contains h.opcode && h.version = 3 && h.opcode ≠ r.op then s
  else match check s r q h range parts objs with
    | some st => respond q h st [] s
    | none => f h s

/-- The partition that the header names. -/
def hdrPart (s : State) (q : YReq) : Nat := (reqHeader s q.fn q.slot).part

/-- FLAGS.WAIT_ACTIVE. -/
def waitActive (h : Header) : Bool := bit h.flags 0
/-- FLAGS.FORCE. -/
def force (h : Header) : Bool := bit h.flags 1

/-- Ends a command whose effect includes RWS fields: OK at once, or when they are active (R345). -/
def okActive (q : YReq) (h : Header) (objs : List Obj) (fs : List Fld) (s : State) : State :=
  let waiting := (fs.filter fun f => s.shadows.any fun x => x.fld.key == f.key).map fun f => f.key
  if waitActive h && !waiting.isEmpty then pend q h objs (.shadows waiting) s else respond q h 0 [] s

/-- Firmware writes an RWS field. -/
def fwWrite (f : Fld) (v : Nat) (s : State) : State := if domainDown s (f.key / 8) then denied s else shadowWrite true f v s

/-- A write by firmware of a field that is not shadowed. -/
def fwSet (f : Fld) (v : Nat) (s : State) : State := if domainDown s (f.key / 8) then denied s else set f v s

/-- Little-endian fields one after the other, each aligned to its own size (R349): pairs of bytes and value. -/
def packed : List (Nat × Nat) → List Byte → List Byte
  | [], acc => acc
  | (w, v) :: l, acc => packed l (acc ++ zeros ((w - acc.length % w) % w) ++ natLe w v)

/-- The bytes of some fields. -/
def fieldsOf (l : List (Nat × Nat)) : List Byte := packed l []

/-! ### Function-level reset (R340, R435) -/

/-- Reset of the PCIe state, rings and mailbox of one function. -/
def flrFn (f : Nat) (s : State) : State :=
  let keep := fun (k : FwSt) => { k with pends := k.pends.map fun (p : Pend) => if p.fn = f then { p with orphan := true } else p }
  let fresh := { Page.reset with seq := (page s f).seq }
  let s1 := updPage f (fun _ => fresh) (updFw keep s)
  let s2 := { s1 with
    mbx := SMap.erase s1.mbx (f * 65536) ((f + 1) * 65536)
    srv := { s1.srv with
      rq := s1.srv.rq.filter fun (x : Nat × Option ReqRing) => match x.2 with | some q => q.fn != f | none => false
      oq := s1.srv.oq.filter fun (x : Nat × Option OutRing) => match x.2 with | some q => q.fn != f | none => false } }
  showPend f (when (decide (f < 33)) (set (F.MBX_FN_BUSY f) 0) s2)

/-- An FLR: the reset, and the count. The PF's clears VF Enable, so it resets every VF as well. -/
def flr (f : Nat) (s : State) : State :=
  let s1 := bump F.MBX_FLR_CNT (flrFn f s)
  if f = 0 then
    upTo 32 (fun i s => setB (F.MBX_FN_ENABLED (i + 1)) false (flrFn (i + 1) s)) (set F.GLB_PCIE_STAT_NUM_VF 0 s1)
  else s1

/-- FLR of the PF or of a VF. -/
def execFlr (f : Fin 33) (s : State) : Host.Outcome State Fault Refusal := .next (flr f s)

/-- A hot reset or link disable acts as an FLR of every function; that of the PF clears VF Enable. -/
def flrAll (s : State) : State :=
  upTo 32 (fun i s => setB (F.MBX_FN_ENABLED (i + 1)) false s)
    (set F.GLB_PCIE_STAT_NUM_VF 0 (upTo 33 (fun f s => bump F.MBX_FLR_CNT (flrFn f s)) s))

/-- PCIE_HOT_RESET. -/
def execPcieHotReset (s : State) : Host.Outcome State Fault Refusal := .next (flrAll s)

/-- The link is down. -/
def linkGone (s : State) : State :=
  s |> set F.GLB_PCIE_STAT_SPEED 0 |> set F.GLB_PCIE_STAT_WIDTH 0 |> setB F.GLB_PCIE_STAT_FLIT false |> setB F.GLB_PCIE_STAT_DEGRADED false

/-- PCIE_PERST: PCIE_PERST_N low, ignored while a cold reset is held (R435). -/
def execPciePerst (s : State) : Host.Outcome State Fault Refusal :=
  if s.fw.phase = .held then .next s else .next (linkGone (flrAll s))

/-- PCIE_RETRAIN: GLB_PCIE_CTL.RETRAIN, a register of the management core. -/
def execPcieRetrain (a : Agent) (s : State) : Host.Outcome State Fault Refusal :=
  match a with
  | .host => .next (denied s)
  | .mgmt => .next (linkGone (bump F.GLB_PCIE_RETRAIN_CNT s))

/-- PCIE_LINK_TRAINED: speed code, lanes, Flit mode, and VFs enabled (Tables 12.1 and 12.12). A link below 16 GT/s or narrower than
x8 is degraded and reported. -/
def execPcieLinkTrained (speed : BitVec 3) (width : BitVec 5) (flit : Bool) (vfs : BitVec 6) (s : State) :
    Host.Outcome State Fault Refusal :=
  let sp := min speed.toNat (get s F.GLB_PCIE_CTL_MAX_SPEED)
  let bad := decide (sp < 4) || decide (width.toNat < 8)
  let n := min vfs.toNat 32
  let s1 := s |> set F.GLB_PCIE_STAT_SPEED sp |> set F.GLB_PCIE_STAT_WIDTH width.toNat |> setB F.GLB_PCIE_STAT_FLIT flit
    |> setB F.GLB_PCIE_STAT_DEGRADED bad |> set F.GLB_PCIE_STAT_NUM_VF n
    |> upTo 33 (fun f s => setB (F.MBX_FN_ENABLED f) (decide (f ≤ n)) s)
  .next (when bad (raise { src := 0x1F, dom := 0xB0 }) s1)

/-- PCIE_LINK_ERROR: a correctable error is counted and reported; an uncorrectable one is counted; AER reports both to
the host (Table 12.1). -/
def execPcieLinkError (corr : Bool) (s : State) : Host.Outcome State Fault Refusal :=
  let s1 := emit (.host 0) .aer [if corr then 0 else 1] s
  if corr then .next (raise { src := 0x20, dom := 0xB0 } (bump F.GLB_PCIE_CORR_CNT s1)) else .next (bump F.GLB_PCIE_UNCORR_CNT s1)

/-! ### BAR4 and DMA (R339) -/

/-- The stack byte address that a function's access of `n` bytes at a BAR4 offset reaches, when one VALID entry covers and permits
it. -/
def aperture (s : State) (f ofs n : Nat) (wr : Bool) : Option Nat :=
  ((List.range 8).find? fun i =>
    let lo := actv s (F.GLB_APER_WOFS f i) * 2 ^ 20
    actB s (F.GLB_APER_VALID f i) && (if wr then actB s (F.GLB_APER_WR f i) else actB s (F.GLB_APER_RD f i)) &&
      decide (lo ≤ ofs) && decide (ofs + n ≤ lo + actv s (F.GLB_APER_SIZE f i) * 2 ^ 20)).map fun i =>
    actv s (F.GLB_APER_BASE f i) * 2 ^ 20 + (ofs - actv s (F.GLB_APER_WOFS f i) * 2 ^ 20)

/-- The stacks serve requests, which no reset of the package holds back. -/
def stacksUp (s : State) : Bool := !netHeld s && (List.range 3).all fun n => get s (F.STK_STAT_STATE n) == 3

/-- An access lies in the BAR4 of its function: 16 GiB of the PF, 1 GiB of a VF (Table 12.2). -/
def inBar4 (f ofs n : Nat) : Bool := decide (ofs + n ≤ if f = 0 then 2 ^ 34 else 2 ^ 30)

/-- BAR4_READ of `n` bytes, within the BAR: data on the bus; 0 outside every aperture, and while the stacks are down, counted as denied. A POISONED
line completes with the poisoned bit, which the message carries first. -/
def execBar4Read (f : Fin 33) (ofs : BitVec 34) (n : BitVec 13) (s : State) : Host.Outcome State Fault Refusal :=
  let give := fun (p : Bool) (l : List Byte) => emit (.host f) .readData ((if p then 1 else 0) :: l.map fun b => b.toNat)
  if !inBar4 f ofs.toNat n.toNat then .next s
  else if !stacksUp s then .next (give false (zeros n.toNat) (bump F.GLB_DENIED_CNT s))
  else if inSafe s then .next (give true (zeros n.toNat) s)
  else match aperture s f ofs.toNat n.toNat false with
    | none => .next (give false (zeros n.toNat) (aperRej f s))
    | some a =>
      let r := readSpan 35 a n.toNat s
      .next (give r.1.2.2 r.1.2.1 r.2)

/-- A line of a write by the PCI node was refused with BANK_OFF: the function hears of it in a notice, which the management
network gets too (R254, R346). -/
def pciRefused (f : Nat) (r : Option (Nat × Nat)) (s : State) : State :=
  match r with
  | some (l, 0x14) =>
    let d := natLe 1 0xFF ++ zeros 3 ++ natLe 4 l ++ natLe 1 35
    emit .net .report ([6, 0xFF] ++ d.map fun b => b.toNat) (noticeTo f 6 0xFF d s)
  | _ => s

/-- BAR4_WRITE, within the BAR: written line by line, discarded outside every aperture, or refused with BANK_OFF. -/
def execBar4Write (f : Fin 33) (ofs : BitVec 34) (data : List Byte) (s : State) : Host.Outcome State Fault Refusal :=
  if !inBar4 f ofs.toNat data.length then .next s
  else if !stacksUp s then .next (bump F.GLB_DENIED_CNT s)
  else if inSafe s then .next (bump F.FLT_SAFE_WR_BLK_CNT s)
  else match aperture s f ofs.toNat data.length true with
    | none => .next (aperRej f s)
    | some a =>
      let r := writeSpan 35 a data s
      .next (pciRefused f r.1 r.2)

/-- DMA_TRANSFER_END: a transfer between host memory and the stacks on a function's behalf. `wr` writes the stacks with the data
read from host memory, of which the bytes of some lines may be in error: those lines become POISONED; otherwise the stacks' bytes go
to a host address. -/
def execDmaTransferEnd (f : Fin 33) (wr : Bool) (ofs : BitVec 34) (n : Word) (host : Word64) (data : List Byte) (bad : List Nat) (s : State) :
    Host.Outcome State Fault Refusal :=
  let len := if wr then data.length else n.toNat
  if !stacksUp s then .next (bump F.GLB_DENIED_CNT s)
  else if inSafe s then .next (emit (.host f) .dmaEnd [0x17] s)
  else match aperture s f ofs.toNat len wr with
    | none => .next (aperRej f s)
    | some a =>
      if wr then
        let ls := linesOf a len
        let poisoned := (ls.zipIdx.filter fun x => bad.contains x.2).map fun x => x.1
        let r := writeLines 35 a data poisoned ls (bumpN F.GLB_DMA_ERR_CNT poisoned.length (bumpN F.GLB_DMA_RD_BYTE_CNT len s))
        .next (emit (.host f) .dmaEnd [match r.1 with | some x => x.2 | none => 0] r.2)
      else
        let r := readSpan 35 a len s
        .next (emit (.host f) .dmaEnd [match r.1.1 with | some x => x.2 | none => 0, if r.1.2.2 then 1 else 0] (dmaOut f host.toNat r.1.2.1 r.2))

end Sys2Proof.Machine
end

