-- ==== Sys2Proof/Machine/Fault.lean ====
section
/-! DEFINITION. Commands of the fault collector, fault injection and fault reports (R384 to R398, R408). -/
namespace Sys2Proof.Machine

/-- FAULT_EVENT: a detector reports; `esc` is the unit's own decision for an escalating L0 source (R389). Sources and domains that
Tables 14.2 and 14.3 do not list are never raised. -/
def execFaultEvent (src dom : Byte) (access : BitVec 3) (node : Byte) (unit : BitVec 3) (addr detail : Word64) (esc : Bool) (s : State) :
    Host.Outcome State Fault Refusal :=
  let e : Ev := { src := src.toNat, dom := dom.toNat, access := access.toNat, node := node.toNat, unit := unit.toNat
                  addr := addr.toNat, detail := detail.toNat, esc := esc && srcClass src.toNat == 0 && srcEscalates src.toNat }
  if srcListed e.src && domListed e.dom then .next (raise e s) else .next s

/-- Length of the L0 or L1 window in ns (Table 14.8). -/
def fltWindow (s : State) (l : Nat) : Nat := 2 ^ actv s (if l = 0 then F.FLT_CTL_L0_WIN_LOG2 else F.FLT_CTL_L1_WIN_LOG2)

/-- FAULT_WINDOW_END: the current L0 or L1 window ends, and its events are acknowledged (R388). -/
def execFaultWindowEnd (l1 : Bool) (s : State) : Host.Outcome State Fault Refusal :=
  let l := if l1 then 1 else 0
  let w := fltWindow s l
  .next (ackAll l (moveTo ((now s / w + 1) * w) s))

/-- FLT_ACK: the value written. -/
def execFltAck (v : Word) (s : State) : Host.Outcome State Fault Refusal :=
  let l := bits v.toNat 0 3
  if 4 < l then .next s
  else if l < 2 && !bit v.toNat 16 then .next (ackDom l (bits v.toNat 8 8) s)
  else .next (ackAll l s)

/-- FLT_EVT_POP: POP is written 1, by the management core. -/
def execFltEvtPop (a : Agent) (s : State) : Host.Outcome State Fault Refusal :=
  match a with
  | .host => .next (denied s)
  | .mgmt => .next (showQueue { s with flt := { s.flt with queue := s.flt.queue.tail } })

/-- FLT_CAP_CLEAR: VALID of the capture of a class is written 1 (R391); one set in the same cycle stays (R16). -/
def execFltCapClear (l : Fin 5) (s : State) : Host.Outcome State Fault Refusal :=
  if flag s (F.FLT_CAP_VALID l) && clears s (F.FLT_CAP_VALID l) 1 == 1 then .next (setRec (capFields l) noRec false s) else .next s

/-- FAULT_N_PULSE_END: 16 µs after the start of the pulse. -/
def execFaultNPulseEnd (s : State) : Host.Outcome State Fault Refusal :=
  if flag s F.FLT_STAT_ERRMODE then .next (setB F.FLT_STAT_PIN false s) else .next s

/-! ### Injection (R408) -/

/-- Kinds and targets that could not act. -/
def injVoid (k src dom : Nat) : Bool :=
  k = 0 || 8 ≤ k || (k = 1 && (!srcListed src || !domListed dom)) || ((k = 2 || k = 6) && 20 ≤ dom) ||
    ((k = 4 || k = 5) && !(0x20 ≤ dom && dom < 0x34)) || (k = 7 && !(0xA0 ≤ dom && dom ≤ 0xAB))

/-- The injection begins to act: EVENT raises its events at once; SPAD_FLIP inverts the stored bit (Table 14.6). -/
def injStart (j : Inj) (s : State) : State :=
  let s1 := { s with flt := { s.flt with inj := some { j with active := true } } }
  if j.kind = 1 then
    upTo j.count (fun _ s => raiseInjected { src := j.src, dom := j.dom } (injApply s)) s1
  else if j.kind = 2 then
    let row := j.tgt % 2 ^ 15
    let slice := bits j.tgt 15 5
    let b := bits j.tgt 20 7
    let at_ := rowAddr j.dom row + 16 * slice + b / 8
    let old := (rdByte s1.mem.spad at_).toNat
    { s1 with mem := { s1.mem with
        spad := wrBytes s1.mem.spad at_ (natLe 1 (withBit old (b % 8) (!bit old (b % 8))))
        spadBad := NSet.add s1.mem.spadBad ((j.dom * 2 ^ 15 + row) * 32 + slice) } }
  else s1

/-- GO: arms an injection with the values the registers hold. -/
def injGo (s : State) : State :=
  let k := get s F.FLT_INJ_CTL_KIND
  let src := get s F.FLT_INJ_CTL_SRC
  let dom := get s F.FLT_INJ_CTL_DOM
  if injVoid k src dom then s
  else
    let t := get s F.FLT_INJ_AT_AT
    let j : Inj := { kind := k, hide := flag s F.FLT_INJ_CTL_CHK_HIDE, count := max 1 (get s F.FLT_INJ_CTL_COUNT), src := src, dom := dom
                     tgt := get s F.FLT_INJ_TGT_TGT, time := t, active := false, done := 0 }
    let s1 := { s |> set F.FLT_INJ_STAT_STATE 1 |> set F.FLT_INJ_STAT_DONE 0 with flt := { s.flt with inj := some j } }
    if t = 0 || t ≤ now s then injStart j s1 else s1

/-- INJECT_GO: FLT_INJ_CTL is written with GO = 1; its other fields take their values with the write. Outside FACTORY_TEST the write
is ignored and counted. -/
def execInjectGo (v : Word) (s : State) : Host.Outcome State Fault Refusal :=
  if !flag s F.LC_STATE_FI_EN then .next (denied s)
  else
    let w := v.toNat
    .next (injGo (s |> set F.FLT_INJ_CTL_KIND (bits w 0 4) |> set F.FLT_INJ_CTL_CHK_HIDE (bits w 5 1) |> set F.FLT_INJ_CTL_COUNT (bits w 8 8)
      |> set F.FLT_INJ_CTL_SRC (bits w 16 8) |> set F.FLT_INJ_CTL_DOM (bits w 24 8)))

/-- INJECTION_AT_TIME: the armed injection reaches its instant. -/
def execInjectionAtTime (s : State) : Host.Outcome State Fault Refusal :=
  match s.flt.inj with
  | some j => if j.active then .next s else .next (injStart j (moveTo j.time s))
  | none => .next s

/-! ### Reports (R398) -/

/-- Writes a log record. -/
def logRec (r : List Nat) (s : State) : State := updFw (fun k => { k with log := k.log ++ [r] }) s

/-- Partition whose data a domain's event concerns: that of the core or of the router's core. -/
def domPart (s : State) (d : Nat) : Option Nat :=
  if d < 20 then corePart s d else if 0x20 ≤ d && d < 0x34 then corePart s (d - 0x20) else none

/-- FAULT_REPORT: the record at the head of the queue, of class L1 or higher. More than 1,000 reports in one second are folded into
the next summary. -/
def execFaultReport (s : State) : Host.Outcome State Fault Refusal :=
  match s.flt.queue with
  | [] => .next s
  | r :: _ =>
    if r.cls = 0 then .next s
    else if 1000 ≤ s.fw.reports then .next (updFw (fun k => { k with folded := k.folded + 1 }) s)
    else
      let args := [5, r.time, r.src, r.dom, r.cls, if r.esc then 1 else 0, r.access, r.node, r.unit, r.addr, r.detail]
      let first := if flag s (F.FLT_CAP_VALID r.cls) then (get s (F.FLT_CAP_SRC r.cls), get s (F.FLT_CAP_TIME r.cls)) else (r.src, r.time)
      let inl := natLe 1 r.cls ++ natLe 1 first.1 ++ zeros 6 ++ natLe 8 first.2
      let s1 := emit .net .report args (logRec args (updFw (fun k => { k with reports := k.reports + 1 }) s))
      .next (notify 5 (if r.cls = 1 then domPart s1 r.dom else none) inl s1)

/-- FAULT_SUMMARY_TIMER: once per second, the increase of FLT_SRC_CNT of each source. -/
def execFaultSummaryTimer (s : State) : Host.Outcome State Fault Refusal :=
  let s0 := moveTo ((now s / 1000000000 + 1) * 1000000000) s
  let inc := ((List.range 128).map fun i => (i, get s0 (F.FLT_SRC_CNT i) - SMap.get 0 s0.fw.lastSrc i)).filter fun p => p.2 != 0
  let cur := (List.range 128).foldl (fun m i => SMap.put 0 m i (get s0 (F.FLT_SRC_CNT i))) []
  let args := 0 :: s0.fw.folded :: inc.flatMap fun p => [p.1, p.2]
  .next (emit .net .report args (logRec args (updFw (fun k => { k with lastSrc := cur, reports := 0, folded := 0 }) s0)))

end Sys2Proof.Machine
end

