-- ==== Sys2Proof/Machine/PlanImage.lean ====
section
/-! DEFINITION. Installation plans as bytes (R292, R293; Tables 10.3 to 10.5). -/
namespace Sys2Proof.Machine

/-- A port entry (Table 10.5). -/
def readPlanPort (b : List Byte) (o : Nat) : PlanPort :=
  let l := leAt b (o + 18) 1
  let k := leAt b (o + 24) 4
  let m := leAt b (o + 28) 4
  { peerId := leAt b o 16, peerPort := leAt b (o + 16) 1, kind := leAt b (o + 17) 1, dim := bits l 0 3, plus := bit l 3, dateline := bit l 4
    media := bits l 5 2, asym := leAt b (o + 20) 2, bulkRate := bits k 0 12, bulkBurst := bits k 16 12, mgmtRate := bits m 0 12
    mgmtBurst := bits m 16 12 }

/-- A package record (Table 10.4). -/
def readPlanPkg (b : List Byte) (o : Nat) : PlanPkg :=
  { dev := leAt b o 16, addr := leAt b (o + 16) 2, role := leAt b (o + 18) 1, parent := leAt b (o + 19) 1, backup := leAt b (o + 20) 1
    ports := (List.range 12).map fun p => readPlanPort b (o + 32 + 32 * p) }

/-- A switch record (R292). -/
def readPlanSwitch (b : List Byte) (o : Nat) : PlanSwitch :=
  { dev := leAt b o 16, row := leAt b (o + 16) 1, col := leAt b (o + 17) 1, k := leAt b (o + 18) 1
    ends := (List.range 72).map fun i => (leAt b (o + 31 + 4 * i) 2, leAt b (o + 33 + 4 * i) 1) }

/-- Bytes of a switch record: identity, ROW, COL, k and 12 bytes of 0, and the entries. -/
def switchSize : Nat := 31 + 72 * 4

/-- MAGIC, offsets and lengths of a plan image are right. -/
def planForm (b : List Byte) : Bool :=
  decide (256 ≤ b.length) && leAt b 0 4 == 0x50494D4C && decide (leAt b 52 8 + 416 * leAt b 48 4 ≤ b.length) &&
    decide (leAt b 64 8 + switchSize * leAt b 60 4 ≤ b.length) && decide (leAt b 72 8 + 96 ≤ b.length) &&
    decide (leAt b 80 8 + leAt b 88 4 ≤ b.length)

/-- VERSION and SET are known. -/
def planKnown (b : List Byte) : Bool := leAt b 4 2 == 1 && decide (leAt b 6 1 ≤ 3)

/-- The plan that an image holds, with its digest PD. -/
def readPlan (b : List Byte) : Plan :=
  { image := b, pd := (Config.sha384 (b.take (leAt b 72 8))).toNat, set := leAt b 6 1, id := leAt b 8 16, rev := leAt b 24 4
    rows := leAt b 28 1, cols := leAt b 29 1, trays := leAt b 30 1, epoch := leAt b 32 8, period := leAt b 40 4, root := leAt b 44 2
    standby := leAt b 46 2, spareRows := bits (leAt b 92 4) 0 18
    pkgs := (List.range (leAt b 48 4)).map fun i => readPlanPkg b (leAt b 52 8 + 416 * i)
    switches := (List.range (leAt b 60 4)).map fun i => readPlanSwitch b (leAt b 64 8 + switchSize * i) }

end Sys2Proof.Machine
end

