-- ==== Sys2Proof/Machine/Port.lean ====
section
/-! DEFINITION. The fabric ports: states, ingress and its checks, egress, replay, credits, policing, quarantine, health and admission (R261 to R288). -/
namespace Sys2Proof.Machine

/-! ### Port states (Table 9.2) -/

/-- FAB_STAT.STATE. -/
def pState (s : State) (p : Nat) : Nat := get s (F.FAB_STAT_STATE p)
/-- The package's hall address. -/
def ownAddr (s : State) : Nat := fabAddr s 0

/-- The state of a link end is heard, here or from elsewhere: ADMITTED is clear, and any change of state lets routes wait to be installed
(R302). -/
def linkHeard (a p st : Nat) (s : State) : State :=
  let k := a * 16 + p
  let l := if st = 3 then NSet.del s.fw.linksBad k else NSet.add s.fw.linksBad k
  let d := if st = 5 || st = 6 then NSet.add s.fw.linksDown k else NSet.del s.fw.linksDown k
  let s1 := updFw (fun f => { f with linksBad := l, linksDown := d, linkSt := SMap.put 0 f.linkSt k (st + 1) }) s
  if SMap.get 0 s.fw.linkSt k = st + 1 then s1 else updFw (fun f => { f with changedAt := now s, routesDue := true }) s1

/-- Floods the state of an own port (R302). -/
def flood (p : Nat) (s : State) : State :=
  emit .net .flood [ownAddr s, p, pState s p] (linkHeard (ownAddr s) p (pState s p) s)

/-- The plan's entry for a port of this package. -/
def planEntry (s : State) (p : Nat) : Option PlanPort :=
  s.fw.plan.bind fun pl => (pl.pkgs.find? fun r => r.dev == get s F.GLB_DEV_ID_ID).bind fun r => r.ports[p]?

/-- The data of a PORT_EVENT notice (Table 12.8); the code of a discovery outcome is not given. -/
def portEvent (p : Nat) (s : State) : State :=
  let d := freeBytes 1 s
  notify 11 none (natLe 1 p ++ natLe 1 (pState s p) ++ natLe 1 (get s (F.FAB_STAT_QREASON p)) ++ d.1) d.2

/-- Table 10.8 reports the outcome of a port: QUARANTINED, FAILED, or DOWN_MISSING where the plan names a partner. -/
def reported (s : State) (p : Nat) : Bool :=
  pState s p == 4 || pState s p == 6 || (pState s p == 5 && (planEntry s p).any fun e => e.kind != 0)

/-- Puts a port into a state; from the end of discovery on, every change of it is flooded, and an outcome of Table 10.8 is reported (R302,
R305). -/
def setP (p st : Nat) (s : State) : State :=
  let s1 := set (F.FAB_STAT_STATE p) st s
  if s.fw.floods && pState s p != st then when (reported s1 p) (portEvent p) (flood p s1) else s1

/-- Fault domain of a port. -/
def portDom (p : Nat) : Nat := 0xA0 + p

/-- The link is up: AUTH, ADMITTED or QUARANTINED, and no retrain under way. -/
def linkUp (s : State) (p : Nat) : Bool :=
  (pState s p == 2 || pState s p == 3 || pState s p == 4) && !(port s p).retraining && flag s (F.FAB_CTL_LOCK p)

/-- Depths of the ingress pools (Table 9.6). -/
def poolDepth : List Nat := [4096, 1536, 1536, 504, 504, 16]

/-- Transmit credits held in a pool (R269). -/
def heldCredit (k : PortSt) (pool : Nat) : Nat :=
  (nth 0 poolDepth pool + 65536 + nth 0 k.credit pool - nth 0 k.sent pool) % 65536

/-- FAB_CREDIT (Table 9.11). -/
def showCredit (p : Nat) (s : State) : State :=
  let k := port s p
  s |> set (F.FAB_CREDIT_SCHED p) (heldCredit k 0) |> set (F.FAB_CREDIT_BULK p) (heldCredit k 1 + heldCredit k 2)
    |> set (F.FAB_CREDIT_MGMT p) (heldCredit k 3 + heldCredit k 4 + heldCredit k 5)

/-- The cell was originated on this package. -/
def ownCell (s : State) (p : Nat) (c : Cell) : Bool := c.src == fabAddr s p

/-- Discards cells of a port's egress, counted, with NACKs to local sources (R276, R285). -/
def discard (p : Nat) (f : Fld) (status : Nat) (l : List Cell) (s : State) : State :=
  each l (fun c s => bump f (if ownCell s p c then nackLocal p c status s else s)) s

/-- Drops the link: replay buffer and egress queues are discarded, sequence numbers, credits and pools start afresh; cells in
ingress storage stay (R276). -/
def dropLink (p : Nat) (s : State) : State :=
  let k := port s p
  let s1 := discard p (F.FAB_DROP_LINKDOWN p) 0x16 (k.replay.map (fun r => r.2) ++ k.egress) s
  let fresh := fun (k : PortSt) => { PortSt.reset with
    ingress := k.ingress, stale := (List.range 6).map fun i => (k.ingress.filter fun x => x.1 == i).length, slotOld := k.slotOld, nacks := k.nacks, nackTime := k.nackTime, tokTime := k.tokTime,
    inBulk := k.inBulk, inMgmt := k.inMgmt, outBulk := k.outBulk, outMgmt := k.outMgmt, tx := k.tx }
  s1 |> updPort p fresh |> setB (F.FAB_STAT_ALIGNED p) false |> setB (F.FAB_PREFEC_VALID p) false
     |> set (F.FAB_PEER_ID_ID p) 0 |> showCredit p

/-- A link down (R276): the port enters FAILED. -/
def linkDown (p : Nat) (s : State) : State :=
  raise { src := 0x1C, dom := portDom p } (bump (F.FAB_LINKDOWN_CNT p) (setP p 6 (dropLink p s)))

/-- A retrain starts, counted and reported (R276). -/
def startRetrain (p : Nat) (s : State) : State :=
  raise { src := 0x1B, dom := portDom p } (bump (F.FAB_RETRAIN_CNT p) (updPort p (fun k => { k with retraining := true }) s))

/-- The port enters QUARANTINED (R285): its egress queues are discarded. -/
def enterQuar (p reason : Nat) (s : State) : State :=
  let l := (port s p).egress
  s |> set (F.FAB_STAT_QREASON p) reason |> setP p 4 |> updPort p (fun k => { k with egress := [] })
    |> discard p (F.FAB_DROP_QUAR p) 0x18 l

/-- Quarantine by hardware limits, reported (R284). -/
def hwQuar (p reason : Nat) (s : State) : State := raise { src := 0x1D, dom := portDom p } (enterQuar p reason s)

/-- A command that the port's state does not allow (Table 9.10). -/
def portRej (p : Nat) (s : State) : State := bump (F.FAB_CFG_REJ_CNT p) s

/-- PORT_ENABLE: FAB_CTL.EN is written 1; the field is locked in every other state. -/
def execPortEnable (p : PortIx) (s : State) : Host.Outcome State Fault Refusal :=
  .next (ifNet (fun s =>
    if pState s p = 0 then setP p 1 (setB (F.FAB_CTL_EN p) true s)
    else if flag s (F.FAB_CTL_EN p) then s
    else raise { src := 0x10, dom := portDom p, access := 1 } (bump (F.FAB_LOCKED_WR p) s)) s)

/-- Puts a cell into the egress queues of a port. -/
def enqueue (p : Nat) (c : Cell) (s : State) : State := updPort p (fun k => { k with egress := k.egress ++ [c] }) s

/-- A MGMT cell that travels one link. -/
def linkCell (s : State) (p kind : Nat) (payload : List Byte) : Cell :=
  { cls := 2, poison := false, late := false, kind := kind, ttl := 64, dst := 0, src := fabAddr s p, pid := 0, dcore := 0,
    score := 0, win := 0, vc := 0, slot := 0, divl := 0, gen := 0, ofs := 0, tk := 0, status := 0, line := 0, half := 0,
    tag := 0, payload := payload }

/-- Firmware sends an admission message in a cell (R281). -/
def sendAuth (p : Nat) (b : List Byte) (s : State) : State := enqueue p (linkCell s p 0xB (padTo 256 b)) s

/-- HELLO: device identity, FAB_ADDR, port number, nonce, and the digest of the active plan. The layout is not given (log entry 65). -/
def helloBytes (id addr p : Nat) (nonce : List Byte) (pd : Nat) : List Byte := natLe 16 id ++ natLe 2 addr ++ natLe 1 p ++ nonce ++ natLe 48 pd

/-- PD of the active plan; 0 without one. -/
def planDigest (s : State) : Nat := match s.fw.plan with | some pl => pl.pd | none => 0

/-- Firmware starts the exchange: HELLO with a random nonce, and the device's certificate chain, 256 bytes a cell in up to 16 cells. -/
def startAuth (p : Nat) (s : State) : State :=
  let d := freeBytes 48 s
  let h := helloBytes (get s F.GLB_DEV_ID_ID) (fabAddr s p) p d.1 (planDigest s)
  let s1 := sendAuth p h (updPort p (fun k => { k with auth := { PortSt.reset.auth with mine := h } }) d.2)
  upTo (min 16 ((Config.certChain.length + 255) / 256)) (fun i s => sendAuth p ((Config.certChain.drop (256 * i)).take 256) s) s1

/-- PROOF: the signature of the device key over SHA-384 of the two HELLOs, that of the lower device identity first. -/
def proofBytes (own peer : Nat) (mine his : List Byte) : List Byte :=
  natLe 96 (Config.signed (natLe 48 (Config.sha384 (if own < peer then mine ++ his else his ++ mine)).toNat))

/-- PORT_TRAINING_DONE: training completes and the port enters AUTH; firmware sends HELLO and the certificate chain. A full training in step 4
of the start clears LC_START.FAST (R363). -/
def execPortTrainingDone (p : PortIx) (skew : BitVec 8) (s : State) : Host.Outcome State Fault Refusal :=
  if pState s p ≠ 1 then .next s
  else .next (s |> setP p 2 |> setB (F.FAB_STAT_SIGNAL p) true |> setB (F.FAB_STAT_ALIGNED p) true
    |> set (F.FAB_STAT_SKEW p) skew.toNat |> updPort p (fun k => { k with retraining := false })
    |> when (s.fw.stepFour && !(port s p).saved) (setB F.LC_START_FAST false) |> showCredit p |> startAuth p)

/-- PORT_MISSING_TIMEOUT: no partner signal for 500 ms in TRAINING. -/
def execPortMissingTimeout (p : PortIx) (s : State) : Host.Outcome State Fault Refusal :=
  if pState s p = 1 && !flag s (F.FAB_STAT_SIGNAL p) then .next (setP p 5 (dropLink p s)) else .next s

/-- PORT_TRAIN_FAIL_TIMEOUT: a signal is present but training is not complete in 500 ms. -/
def execPortTrainFailTimeout (p : PortIx) (s : State) : Host.Outcome State Fault Refusal :=
  if pState s p = 1 && flag s (F.FAB_STAT_SIGNAL p) then .next (setP p 6 (dropLink p s)) else .next s

/-- PORT_SIGNAL_DETECT: a partner signal appears; a port in DOWN_MISSING enters TRAINING. -/
def execPortSignalDetect (p : PortIx) (s : State) : Host.Outcome State Fault Refusal :=
  let st := pState s p
  if st = 5 then .next (setP p 1 (setB (F.FAB_STAT_SIGNAL p) true s))
  else if st = 1 then .next (setB (F.FAB_STAT_SIGNAL p) true s)
  else .next s

/-- The partner and its port are those of the plan (Table 10.8). -/
def planAdmits (s : State) (p peer q : Nat) : Bool :=
  (planEntry s p).any fun e => e.kind != 0 && e.peerId == peer && e.peerPort == q

/-- A port is admitted. After a full training with the partner of the plan its settings are saved, with that partner and the digest of the
active plan (R363). -/
def admitPort (p : Nat) (s : State) : State :=
  let k := port s p
  let r : SavedPort := { peer := k.auth.peer, peerPort := k.auth.peerPort, digest := planDigest s }
  let save := fun (b : Boot) => if planAdmits s p r.peer r.peerPort && !k.saved then { b with saved := SMap.put none b.saved p (some r) } else b
  updBoot save (setP p 3 s)

/-- PORT_ADMIT: from AUTH. -/
def execPortAdmit (p : PortIx) (s : State) : Host.Outcome State Fault Refusal :=
  .next (ifNet (fun s => if pState s p = 2 then admitPort p s else portRej p s) s)

/-- PORT_QUARANTINE: from AUTH or ADMITTED. -/
def execPortQuarantine (p : PortIx) (s : State) : Host.Outcome State Fault Refusal :=
  .next (ifNet (fun s => if pState s p = 2 || pState s p = 3 then enterQuar p 5 s else portRej p s) s)

/-- A port is trained again and admitted again (R276, R285): from every state but DISABLED. -/
def retrainPort (p : Nat) (s : State) : State :=
  if pState s p = 0 then portRej p s
  else
    let s1 := startRetrain p s
    s1 |> setP p 1 |> updPort p (fun k => { k with retraining := false, saved := false, auth := PortSt.reset.auth })
       |> setB (F.FAB_STAT_ALIGNED p) false |> set (F.FAB_PEER_ID_ID p) 0

/-- PORT_RETRAIN. -/
def execPortRetrain (p : PortIx) (s : State) : Host.Outcome State Fault Refusal := .next (ifNet (retrainPort p) s)

/-- The port is turned off. -/
def disablePort (p : Nat) (s : State) : State :=
  if pState s p = 0 then portRej p s
  else s |> dropLink p |> setP p 0 |> setB (F.FAB_CTL_EN p) false |> setB (F.FAB_STAT_SIGNAL p) false

/-- PORT_DISABLE. -/
def execPortDisable (p : PortIx) (s : State) : Host.Outcome State Fault Refusal := .next (ifNet (disablePort p) s)

/-- PORT_MISSING: from TRAINING or AUTH. -/
def execPortMissing (p : PortIx) (s : State) : Host.Outcome State Fault Refusal :=
  .next (ifNet (fun s => if pState s p = 1 || pState s p = 2 then setP p 5 (dropLink p s) else portRej p s) s)

/-- RETRAIN_DONE: the link resumes. -/
def execRetrainDone (p : PortIx) (s : State) : Host.Outcome State Fault Refusal :=
  .next (updPort p (fun k => { k with retraining := false }) s)

/-- LINK_DOWN: a retrain did not complete in 50 ms. -/
def execLinkDown (p : PortIx) (s : State) : Host.Outcome State Fault Refusal :=
  if (port s p).retraining then .next (linkDown p s) else .next s

/-- PARTNER_SIGNAL_LOSS: the partner's signal disappears on a trained port (R377). -/
def execPartnerSignalLoss (p : PortIx) (s : State) : Host.Outcome State Fault Refusal :=
  let st := pState s p
  let s1 := setB (F.FAB_STAT_SIGNAL p) false s
  if st = 2 || st = 3 || st = 4 then .next (linkDown p s1) else if st = 1 then .next s1 else .next s

/-! ### Link layer (R266, R275) -/

/-- Time base in 1/16 ns. -/
def now16 (s : State) : Nat := 16 * now s + s.frac / 2 ^ 28

/-- A time cell travels in the TIME pool. -/
def isTime (c : Cell) : Bool := c.cls == 2 && (c.kind == 8 || c.kind == 9 || c.kind == 0xA)
/-- An AUTH cell. -/
def isAuth (c : Cell) : Bool := c.cls == 2 && c.kind == 0xB

/-- Credit pool of a cell (R268, R270). -/
def poolOf (c : Cell) : Nat :=
  if c.cls = 0 then 0 else if isTime c then 5 else if c.cls = 1 then 1 + c.vc % 2 else 3 + c.vc % 2

/-- The kind is valid for the class (Table 9.5). -/
def kindOk (c : Cell) : Bool :=
  if c.cls = 0 then c.kind == 0 else if c.cls = 1 then decide (c.kind ≤ 3)
  else c.cls == 2 && decide (8 ≤ c.kind) && decide (c.kind ≤ 0xD)

/-- Sequence number after another: 1 to 65,535, since an idle block carries 0. -/
def seqNext (n : Nat) : Nat := if n = 65535 then 1 else n + 1

/-- Adds 1 to an entry of a list of counts modulo 65,536. -/
def addAt (l : List Nat) (i : Nat) : List Nat := l.zipIdx.map fun p => if p.2 = i then (p.1 + 1) % 65536 else p.1

/-- A NAK becomes due: it goes in the trailer of the next block (R275). -/
def askNak (p : Nat) (s : State) : State := updPort p (fun k => { k with nakDue := true }) s

/-- A NAK is sent, counted; the same ACK in NAK_LIM consecutive NAKs starts a retrain (R275, R276). -/
def nakSent (p : Nat) (s : State) : State :=
  let k := port s p
  let run := if k.nakTop.isSome && k.nakAck == k.rxSeq then k.nakRun + 1 else 1
  let s1 := bump (F.FAB_REPLAY_REQ_CNT p)
    (updPort p (fun k => { k with nakDue := false, nakTop := some k.rxTop, nakAck := k.rxSeq, nakRun := run }) s)
  if max 1 (actv s (F.FAB_FEC_CFG_NAK_LIM p)) ≤ run then startRetrain p (updPort p (fun k => { k with nakRun := 0 }) s1)
  else s1

/-- FEC statistics of a codeword that ends (R286). -/
def countCw (p : Nat) (cw : Option (List Nat)) (bad : Bool) (s : State) : State :=
  match cw with
  | none => s
  | some l =>
    let n := if bad then 0 else l.foldl (fun x y => x + y) 0
    let s1 := s |> bump (F.FAB_FEC_CW_CNT p) |> bumpN (F.FAB_FEC_CORR_SYM_CNT p) n
      |> when (!bad) (upTo 4 fun i s => bumpN (F.FAB_LANE_CORR_SYM_CNT p i) (nth 0 l i) s)
      |> updPort p (fun k => { k with cwInt := k.cwInt + 1, corrInt := k.corrInt + n })
    if bad then
      let s2 := bump (F.FAB_FEC_UNCORR_CW_CNT p) (updPort p (fun k => { k with uncInt := k.uncInt + 1 }) s1)
      if actv s2 (F.FAB_FEC_CFG_UNC_LIM p) < (port s2 p).uncInt && !(port s2 p).uncTold then
        startRetrain p (updPort p (fun k => { k with uncTold := true }) s2)
      else s2
    else s1

/-- Sequence numbers from `frm` to `to`, both included, in link order. -/
def seqLe (a b : Nat) : Bool := (b + 65536 - a) % 65536 < 32768

/-- The trailer of a block: acknowledgement, credits and NAK (Table 9.4). -/
def takeTrailer (p : Nat) (b : RxBlock) (s : State) : State :=
  let s1 := updPort p (fun k => { k with
    replay := k.replay.filter fun r => !seqLe r.1 b.ack
    credit := if b.credits.length = 6 then b.credits else k.credit
    resend := if b.nak then some (seqNext b.ack) else k.resend }) s
  showCredit p (when b.nak (bump (F.FAB_REPLAY_CNT p)) s1)

/-! ### Lateness, slots and token buckets (R272 to R277, R283) -/

/-- The tick number congruent to `tk` modulo 2^16 nearest the current base tick number. -/
def nearTick (s : State) (tk : Nat) : Int :=
  let k : Int := get s F.TB_TICK_NUM_K
  let d := ((tk : Int) - k) % 65536
  if d < 32768 then k + d else k + d - 65536

/-- A SCHED cell received at `t16` is late (R277). -/
def cellLate (s : State) (c : Cell) (t16 : Nat) : Bool :=
  let bound : Int := (get s F.TB_EPOCH_EPOCH : Int) + (nearTick s c.tk + (2 ^ c.divl : Nat)) * (basePeriod s : Int) - 150
  decide (16 * bound ≤ (t16 : Int))

/-- The active slot table of a port. -/
def slotTable (s : State) (p : Nat) : SlotTable :=
  { upto := 0, ns := actv s (F.FAB_SLOT_CFG_SLOT_NS p), n := actv s (F.FAB_SLOT_CFG_NSLOT_M1 p) + 1
    tol := actv s (F.FAB_SLOT_CFG_TOL p)
    own := (List.range 64).map fun i =>
      if actB s (F.FAB_SLOT_OWN_VALID p i) then some (actv s (F.FAB_SLOT_OWN_PID p i)) else none }

/-- The PID owns a slot of the table. -/
def ownsAny (t : SlotTable) (pid : Nat) : Bool := (t.own.take t.n).any fun o => o == some pid

/-- An instant falls into an owned slot widened by TOL on both sides (R273); instants in 1/16 ns. -/
def inOwnSlot (s : State) (t : SlotTable) (pid : Nat) (at16 : Int) : Bool :=
  let per : Int := 16 * basePeriod s
  let o := (at16 - 16 * (get s F.TB_EPOCH_EPOCH : Int)) % per
  (List.range t.n).any fun i =>
    nth none t.own i == some pid &&
      [o, o - per, o + per].any fun x =>
        decide (16 * ((i * t.ns : Nat) : Int) - 16 * t.tol ≤ x) && decide (x ≤ 16 * (((i + 1) * t.ns : Nat) : Int) + 16 * t.tol)

/-- Check 8 passes a SCHED cell (R273, R274). -/
def slotPass (s : State) (p : Nat) (c : Cell) (replay : Bool) (t16 : Nat) : Bool :=
  let cur := slotTable s p
  if c.late || replay then ownsAny cur c.pid
  else
    let tx : Int := (t16 : Int) - get s (F.TB_LINK_DELAY_DELAY p)
    match (port s p).slotOld with
    | some old => inOwnSlot s (if tx < 16 * (old.upto : Int) then old else cur) c.pid tx
    | none => inOwnSlot s cur c.pid tx

/-- Fills the four token buckets of a port up to now, in cells / 4,000: RATE is 0.25 cells per µs (Table 9.11). -/
def fillBuckets (p : Nat) (s : State) : State :=
  let t := now s
  let rb := actv s (F.FAB_POLICE_BULK_RATE p)
  let bb := 4000 * actv s (F.FAB_POLICE_BULK_BURST p)
  let rm := actv s (F.FAB_POLICE_MGMT_RATE p)
  let bm := 4000 * actv s (F.FAB_POLICE_MGMT_BURST p)
  updPort p (fun k =>
    let d := t - k.tokTime
    { k with inBulk := min bb (k.inBulk + d * rb), inMgmt := min bm (k.inMgmt + d * rm)
             outBulk := min bb (k.outBulk + d * rb), outMgmt := min bm (k.outMgmt + d * rm), tokTime := t }) s

/-- Takes a token at ingress; none is left when the answer is false. -/
def policeIn (p : Nat) (c : Cell) (s : State) : Bool × State :=
  let s1 := fillBuckets p s
  let k := port s1 p
  if c.cls = 1 then
    if k.inBulk < 4000 then (false, s1) else (true, updPort p (fun k => { k with inBulk := k.inBulk - 4000 }) s1)
  else if k.inMgmt < 4000 then (false, s1) else (true, updPort p (fun k => { k with inMgmt := k.inMgmt - 4000 }) s1)

/-! ### Ingress checks 1 to 9 (Table 9.7) -/

/-- SRC lies in a VALID admitted range (R282). -/
def srcOk (s : State) (p src : Nat) : Bool :=
  (List.range 4).any fun i => actB s (F.FAB_SRC_VALID p i) && decide (actv s (F.FAB_SRC_LO p i) ≤ src) &&
    decide (src ≤ actv s (F.FAB_SRC_HI p i))

/-- A cell dropped after check 4 has used a credit, which is freed. -/
def freeCredit (p pool : Nat) (s : State) : State := updPort p (fun k => { k with freed := addAt k.freed pool }) s

/-- A cell has left ingress storage: its place is a credit, unless the cell came before the link went down (R269, R276). -/
def freePlace (p pool : Nat) (s : State) : State :=
  if nth 0 (port s p).stale pool = 0 then freeCredit p pool s
  else updPort p (fun k => { k with stale := k.stale.zipIdx.map fun x => if x.2 = pool then x.1 - 1 else x.1 }) s

/-- RX counter of a class. -/
def rxCnt (p cls : Nat) : Fld :=
  if cls = 0 then F.FAB_RX_SCHED_CNT p else if cls = 1 then F.FAB_RX_BULK_CNT p else F.FAB_RX_MGMT_CNT p

/-- Check 9, the count of an accepted cell, and its entry into ingress storage. -/
def acceptCell (p pool t16 : Nat) (c : Cell) (s : State) : State :=
  let linkOnly := isTime c || isAuth c
  let here := linkOnly || c.dst == fabAddr s p
  if !here && (c.ttl ≤ 1 || (fwd s p c.dst).isNone) then
    freeCredit p pool (askNack p c 0x16 (bump (F.FAB_DROP_NOROUTE p) s))
  else
    let c1 := { c with ttl := if here then c.ttl else c.ttl - 1
                       vc := if c.cls != 0 && flag s (F.FAB_CTL_DATELINE p) then 1 else c.vc }
    bump (rxCnt p c.cls) (updPort p (fun k => { k with ingress := k.ingress ++ [(pool, t16, c1)] }) s)

/-- The quarantine window of a port now: 2^WIN_LOG2 base ticks, aligned to the base tick number (R284). -/
def quarWindow (s : State) (p : Nat) : Nat := get s F.TB_TICK_NUM_K / 2 ^ actv s (F.FAB_QUAR_CFG_WIN_LOG2 p)

/-- The drops of a window that has ended are counted no more (R284). -/
def newWindow (p : Nat) (s : State) : State :=
  let w := quarWindow s p
  if (port s p).winNum = w then s else updPort p (fun k => { k with winNum := w, winSrc := 0, winCrd := 0 }) s

/-- Checks 2 to 8 of a cell received in order. -/
def judgeCell (p : Nat) (c : Cell) (replay : Bool) (s : State) : State :=
  let t16 := now16 s
  let st := pState s p
  let pool := poolOf c
  let k := port s p
  if !kindOk c then bump (F.FAB_DROP_HDR p) s
  else if (st = 4 || st = 2) && !isAuth c then
    freeCredit p pool (updPort p (fun k => { k with rcvd := addAt k.rcvd pool }) (bump (F.FAB_DROP_QUAR p) s))
  else if nth 0 poolDepth pool ≤ (nth 0 k.rcvd pool + 65536 - nth 0 k.freed pool) % 65536 then
    let s1 := bump (F.FAB_DROP_CREDIT p) (updPort p (fun k => { k with winCrd := k.winCrd + 1 }) (newWindow p s))
    if actB s1 (F.FAB_QUAR_CFG_AUTO_EN p) && max 1 (actv s1 (F.FAB_QUAR_CFG_CRD_LIM p)) ≤ (port s1 p).winCrd then hwQuar p 4 s1
    else s1
  else
    let s0 := updPort p (fun k => { k with rcvd := addAt k.rcvd pool }) s
    if !(isAuth c || isTime c) && !srcOk s0 p c.src then
      let s1 := freeCredit p pool (bump (F.FAB_DROP_SOURCE p) (updPort p (fun k => { k with winSrc := k.winSrc + 1 }) (newWindow p s0)))
      if actB s1 (F.FAB_QUAR_CFG_AUTO_EN p) && actv s1 (F.FAB_QUAR_CFG_SRC_LIM p) ≤ (port s1 p).winSrc then hwQuar p 3 s1 else s1
    else
      let a := if c.cls = 0 || isAuth c || isTime c then (true, s0) else policeIn p c s0
      if !a.1 then freeCredit p pool (bump (F.FAB_DROP_POLICE p) a.2)
      else if c.cls = 0 then
        let late := cellLate a.2 c t16
        let c1 := { c with late := c.late || late, poison := c.poison || late }
        let s2 := when late (bump (F.FAB_LATE_CNT p)) a.2
        if !slotPass s2 p c1 replay t16 then
          freeCredit p pool (askNack p c1 0x15 (bump (F.FAB_DROP_SLOT p) s2))
        else acceptCell p pool t16 c1 s2
      else acceptCell p pool t16 c a.2

/-- The error found, an injected uncorrectable codeword included (Table 14.6). -/
def blockErr (s : State) (p : Nat) (b : RxBlock) : BlockErr := if injActs s 7 (portDom p) then .uncorrectable else b.err

/-- The highest sequence number seen, in a trailer whose CRC holds (R275). -/
def seeSeq (p : Nat) (b : RxBlock) (s : State) : State :=
  match b.cell with
  | none => s
  | some (q, _, _) => updPort p (fun k => { k with rxTop := if seqLe q k.rxTop then k.rxTop else q }) s

/-- A block arrives at a port whose link is up. A cell whose HCRC fails is lost on the link: counted as a block error and dropped as a header error,
and asked for again (R275, check 2 of Table 9.7; log entry 44). -/
def receive (p : Nat) (b : RxBlock) (s : State) : State :=
  let e := blockErr s p b
  let inj := injActs s 7 (portDom p)
  let cw := if inj && b.cw.isNone then some [0, 0, 0, 0] else b.cw
  let s1 := countCw p cw (decide (e = .uncorrectable)) (when inj injApply s)
  match e with
  | .uncorrectable => askNak p s1
  | .tcrc => askNak p (bump (F.FAB_CRC_ERR_CNT p) s1)
  | .pcrc => askNak p (seeSeq p b (takeTrailer p b (bump (F.FAB_CRC_ERR_CNT p) s1)))
  | .hcrc => askNak p (seeSeq p b (takeTrailer p b (bump (F.FAB_DROP_HDR p) (bump (F.FAB_CRC_ERR_CNT p) s1))))
  | .clean =>
    let s3 := seeSeq p b (takeTrailer p b s1)
    match b.cell with
    | none => s3
    | some (q, rep, c) =>
      let k := port s3 p
      if q ≠ seqNext k.rxSeq then bump (F.FAB_SEQ_DISCARD_CNT p) s3
      else
        let replay := rep && (match k.nakTop with | some n => seqLe q n | none => false)
        judgeCell p c replay (updPort p (fun k => { k with rxSeq := q }) s3)

/-- CELL_RECEIVE: a block arrives at a port. -/
def execCellReceive (p : PortIx) (b : BlockIn) (s : State) : Host.Outcome State Fault Refusal :=
  if !linkUp s p then .next s else .next (receive p (readBlock b) s)

/-! ### Leaving ingress storage: checks 10, 11 and 13 -/

/-- The local partition whose VALID FAB_LPART entry holds a PID. -/
def lpartOf (s : State) (p pid : Nat) : Option Nat :=
  (List.range 16).find? fun n => actB s (F.FAB_LPART_VALID p n) && actv s (F.FAB_LPART_PID p n) == pid

/-- A VALID FAB_BREG entry of a local partition admits a line. -/
def bregOk (s : State) (p n l : Nat) (wr : Bool) : Bool :=
  (List.range 8).any fun i =>
    let b := 2048 * actv s (F.FAB_BREG_BASE p i)
    actB s (F.FAB_BREG_VALID p i) && actv s (F.FAB_BREG_LPART p i) == n && decide (b ≤ l) &&
      decide (l < b + 2048 * actv s (F.FAB_BREG_SIZE p i)) && actB s (if wr then F.FAB_BREG_WR p i else F.FAB_BREG_RD p i)

/-- Channel of a class on the mesh (R268). -/
def clsVc (cls : Nat) : VC := if cls = 0 then .land else if cls = 1 then .bulk else .ctl

/-- Sends a cell from port `p` to its origin: by the forwarding table, or nowhere. -/
def sendBack (p : Nat) (c : Cell) (s : State) : State :=
  match fwd s p c.dst with
  | some q => inject (packet (fabNode p) [fabNode q] (clsVc c.cls) c.poison none (.cell c none)) s
  | none => bump (F.FAB_DROP_NOROUTE p) s

/-- STK_RSP to a cell: a half-line with a status. -/
def rspCell (s : State) (p : Nat) (c : Cell) (status : Nat) (poison : Bool) (data : List Byte) : Cell :=
  { c with kind := 3, ttl := 64, vc := 0, dst := c.src, src := fabAddr s p, dcore := c.score, score := 0, status := status,
           poison := poison, late := false, payload := data }

/-- A stack cell (checks 13): refused by the port's regions, or sent to its stack. -/
def stackCell (p n : Nat) (c : Cell) (s : State) : State :=
  let wr := c.kind == 1
  if !bregOk s p n c.line wr then
    let s1 := bump (F.FAB_DROP_REGION p) s
    if wr then askNack p c 0x03 s1
    else
      let d := freeBytes 256 s1
      sendBack p (rspCell d.2 p c 0x03 true d.1) d.2
  else
    let dst := [stkNode (lineStack c.line)]
    if wr then inject (packet (fabNode p) dst .bulk c.poison none (.writeReq c.line (256 * c.half) c.payload (.port p c))) s
    else inject (packet (fabNode p) dst .bulk false none (.readReq c.line (.port p c) false)) s

/-- A NACK or a firmware message arrives: a NACK goes to SCORE, or by its TAG to the block that asked (R267). -/
def mgmtCell (p : Nat) (c : Cell) (s : State) : State :=
  if c.kind ≠ 0xD then { s with inbox := s.inbox ++ [(p, c)] }
  else if c.tag ≠ 0 then tagNack c.tag c.status s
  else match physOf s c.score with
    | some k => inject (packet (fabNode p) [k] .ctl false none (.nack c.status)) s
    | none => { s with inbox := s.inbox ++ [(p, c)] }

/-- A local cell of a partition (check 11). -/
def localCell (p : Nat) (c : Cell) (s : State) : State :=
  match lpartOf s p c.pid with
  | none => askNack p c 0x16 (bump (F.FAB_DROP_NOROUTE p) s)
  | some n =>
    if flag s (F.FAB_LPART_RST p n) then askNack p c 0x11 (bump (F.FAB_DROP_PARTRESET p) s)
    else if c.cls = 2 then mgmtCell p c s
    else if c.kind = 1 || c.kind = 2 then stackCell p n c s
    else if c.kind = 3 then tagRsp p c s
    else match physOf s c.dcore with
      | none => askNack p c 0x16 (bump (F.FAB_DROP_NOROUTE p) s)
      | some k =>
        let w : WinWrite := { core := k, win := c.win, gen := c.gen, ofs := c.ofs, sched := c.cls == 0, data := c.payload
                              origin := some (p, c) }
        inject (packet (fabNode p) [k] (clsVc c.cls) c.poison none (.winWrite w)) s

/-- A cell leaves ingress storage (R278). -/
def exitCell (p : Nat) (c : Cell) (s : State) : State :=
  if c.dst ≠ fabAddr s p then
    match fwd s p c.dst with
    | none => askNack p c 0x16 (bump (F.FAB_DROP_NOROUTE p) s)
    | some q =>
      if pState s q = 3 then
        let vc := if c.cls ≠ 0 && get s (F.FAB_CTL_DIM q) ≠ get s (F.FAB_CTL_DIM p) then 0 else c.vc
        inject (packet (fabNode p) [fabNode q] (clsVc c.cls) c.poison none (.cell { c with vc := vc } (some p))) s
      else if pState s q = 4 then askNack p c 0x18 (bump (F.FAB_DROP_QUAR p) s)
      else askNack p c 0x16 (bump (F.FAB_DROP_NOROUTE p) s)
  else localCell p c s

/-- The oldest stored entry that satisfies a test, and the rest. -/
def takeStored (f : Nat × Nat × Cell → Bool) : List (Nat × Nat × Cell) → Option ((Nat × Nat × Cell) × List (Nat × Nat × Cell))
  | [] => none
  | x :: l => if f x then some (x, l) else (takeStored f l).map fun r => (r.1, x :: r.2)

/-- CELL_INGRESS_EXIT: the oldest cell of a pool leaves for the mesh; AUTH cells wait for firmware. -/
def execCellIngressExit (p : PortIx) (pool : Fin 5) (s : State) : Host.Outcome State Fault Refusal :=
  match takeStored (fun x => x.1 == pool.val && !isAuth x.2.2) (port s p).ingress with
  | none => .next s
  | some r =>
    .next (exitCell p r.1.2.2 (freePlace p pool (updPort p (fun k => { k with ingress := r.2 }) s)))

/-! ### Egress (R271, R272) -/

/-- The slot of the active table in which a whole block time of 3.2 ns that starts now lies, owned by a PID. -/
def sendSlot (s : State) (p pid : Nat) : Option Nat :=
  let t := slotTable s p
  let o := (16 * now s + s.frac / 2 ^ 28 + 16 * basePeriod s - 16 * (get s F.TB_EPOCH_EPOCH % basePeriod s)) % (16 * basePeriod s)
  if !flag s F.TB_STAT_TICK_ON then none
  else (List.range t.n).find? fun i => nth none t.own i == some pid && decide (16 * i * t.ns ≤ o) &&
    decide (10 * o + 512 ≤ 160 * (i + 1) * t.ns)

/-- Removes the first cell that satisfies a test from the egress queues. -/
def takeCell (f : Cell → Bool) : List Cell → Option (Cell × List Cell)
  | [] => none
  | c :: l => if f c then some (c, l) else (takeCell f l).map fun r => (r.1, c :: r.2)

/-- The first cell of a class in a port's egress queues. -/
def headOf (k : PortSt) (f : Cell → Bool) : Option Cell := k.egress.find? f

/-- What the port may send of a class now: the head of its queue, when slot, shaping rate and credit allow; a port that is not ADMITTED sends AUTH
cells only. The flag says that a head waited for a credit. -/
def mayLeave (s : State) (p : Nat) (f : Cell → Bool) : Option Cell × Bool :=
  let k := port s p
  match headOf k fun c => f c && (pState s p == 3 || isAuth c) with
  | none => (none, false)
  | some c =>
    let rate := if isTime c || c.cls = 0 then true else if c.cls = 1 then decide (4000 ≤ k.outBulk) else decide (4000 ≤ k.outMgmt)
    let slot := c.cls != 0 || (sendSlot s p c.pid).isSome
    if !rate || !slot then (none, false)
    else if heldCredit k (poolOf c) = 0 then (none, true) else (some c, false)

/-- The classes in the order of R271 items 2 to 5. -/
def egressOrder : List (Cell → Bool) :=
  [isTime, fun c => c.cls == 0, fun c => c.cls == 2 && !isTime c, fun c => c.cls == 1]

/-- A block is sent, with the trailer (Table 9.4). -/
def sendBlock (p : Nat) (x : Option (Nat × Bool × Cell)) (s : State) : State :=
  let k := port s p
  when k.nakDue (nakSent p)
    (updPort p (fun k => { k with tx := some (blockBytes { cell := x, ack := k.rxSeq, nak := k.nakDue, credits := k.freed }) }) s)

/-- The cell as it leaves: the transmit time of a marker (R214), the slot of a SCHED cell that the package originated, POISON
in safe state (Table 14.4). -/
def stamp (s : State) (p : Nat) (c : Cell) : Cell :=
  if c.kind = 8 || c.kind = 9 then (if isTime c then { c with payload := natLe 8 (now16 s) ++ c.payload.drop 8 } else c)
  else
    let slot := if c.cls = 0 && ownCell s p c then (match sendSlot s p c.pid with | some i => i | none => c.slot) else c.slot
    { c with slot := slot, poison := c.poison || (inSafe s && c.cls != 2) }

/-- Sends a new cell. -/
def txCell (p : Nat) (c : Cell) (s : State) : State :=
  let c1 := stamp s p c
  let q := (port s p).txSeq
  let pool := poolOf c
  let cost := fun (n : Nat) => n - 4000
  let s1 := updPort p (fun k => { k with
    egress := k.egress.erase c
    replay := k.replay ++ [(q, c1)]
    txSeq := seqNext k.txSeq
    sent := addAt k.sent pool
    outBulk := if c.cls = 1 then cost k.outBulk else k.outBulk
    outMgmt := if c.cls = 2 && !isTime c then cost k.outMgmt else k.outMgmt
    sync := if isTime c && c.kind == 9 then k.sync.map fun x => (x.1, x.2.1, some (now16 s)) else k.sync }) s
  let cnt := if c.cls = 0 then F.FAB_TX_SCHED_CNT p else if c.cls = 1 then F.FAB_TX_BULK_CNT p else F.FAB_TX_MGMT_CNT p
  showCredit p (sendBlock p (some (q, false, c1)) (bump cnt s1))

/-- The NACK generator sends one NACK, 64 ns after the last at the earliest (Table 9.6). -/
def sendNack (p : Nat) (s : State) : State :=
  match (port s p).nacks with
  | [] => s
  | c :: rest =>
    if now s < (port s p).nackTime + 64 && (port s p).nackTime ≠ 0 then s
    else
      let s1 := bump (F.FAB_NACK_TX_CNT p) (updPort p (fun k => { k with nacks := rest, nackTime := now s }) s)
      match fwd s1 p c.dst with
      | some q => inject (packet (fabNode p) [fabNode q] .ctl false none (.cell c none)) s1
      | none => bump (F.FAB_DROP_NOROUTE p) s1

/-- EGRESS_BLOCK: one block time of the egress of a port. -/
def execEgressBlock (p : PortIx) (s : State) : Host.Outcome State Fault Refusal :=
  if !linkUp s p then .next (sendNack p s)
  else
    let s0 := fillBuckets p (sendNack p s)
    let k := port s0 p
    let due : Option (Nat × Cell) := match k.resend with
      | some q => k.replay.find? fun (r : Nat × Cell) => seqLe q r.1
      | none => none
    match due with
    | some r =>
      .next (sendBlock p (some (r.1, true, r.2)) (updPort p (fun k => { k with resend := some (seqNext r.1) }) s0))
    | none =>
      let s1 := updPort p (fun k => { k with resend := none }) s0
      if 204 ≤ k.replay.length then .next (sendBlock p none (bump (F.FAB_REPLAY_FULL_CYC_CNT p) s1))
      else
        let tries := egressOrder.map fun f => mayLeave s1 p f
        let stalled := tries.any fun (t : Option Cell × Bool) => t.2
        let s2 := when stalled (bump (F.FAB_CREDIT_STALL_CYC_CNT p)) s1
        match tries.findSome? fun (t : Option Cell × Bool) => t.1 with
        | some c => .next (txCell p c s2)
        | none => .next (sendBlock p none s2)

/-! ### Health and quarantine windows -/

/-- MANT and EXP of FAB_PREFEC: the largest exponent that keeps MANT within 16 bits. -/
def berParts (num den : Nat) : Nat → Nat × Nat
  | 0 => (num / den, 0)
  | e + 1 => let m := num * 2 ^ (e + 1) / den
             if m < 65536 then (m, e + 1) else berParts num den e

/-- FEC_INTERVAL_END (R286): 2^24 codewords have come. -/
def execFecIntervalEnd (p : PortIx) (s : State) : Host.Outcome State Fault Refusal :=
  let k := port s p
  if k.cwInt < 2 ^ 24 then .next s else
  let den := k.cwInt * 5440
  let m := if den = 0 || k.corrInt = 0 then (0, 0) else berParts k.corrInt den 255
  let s1 := s |> set (F.FAB_PREFEC_MANT p) m.1 |> set (F.FAB_PREFEC_EXP p) m.2 |> setB (F.FAB_PREFEC_VALID p) true
    |> updPort p (fun k => { k with cwInt := 0, corrInt := 0, uncInt := 0, uncTold := false })
  if den < k.corrInt * 2 ^ actv s (F.FAB_FEC_CFG_WARN_E p) then .next (raise { src := 0x1E, dom := portDom p } s1)
  else .next s1

/-- QUAR_WINDOW_END (R284): at the boundary that ends a window. -/
def execQuarWindowEnd (p : PortIx) (s : State) : Host.Outcome State Fault Refusal :=
  .next (newWindow p s)

/-! ### Admission (R281) -/

/-- A failed admission. -/
def authFail (p reason : Nat) (s : State) : State := emit .net .authFailed [p, reason] (enterQuar p reason s)

/-- The outcome of an authenticated partner (Table 10.8): ADMIT, or QUARANTINE for a partner that the plan does not name, which is
reported with both identities and ports. -/
def settlePort (p : Nat) (s : State) : State :=
  let a := (port s p).auth
  if planAdmits s p a.peer a.peerPort then admitPort p s
  else
    let e := (planEntry s p).filter fun e => e.kind != 0
    emit .net .report [0x305, p, (e.map fun e => e.peerId).getD 0, (e.map fun e => e.peerPort).getD 0xF, a.peer, a.peerPort] (enterQuar p 5 s)

/-- The root for the package's own part number: LM940-E has the engineering root, LM940-A the production root (R7). -/
def ownRoot (s : State) : CertRoot := if get s F.GLB_ID_PART = 0x0E then .engineering else .production

/-- Firmware handles an admission message while the port is in AUTH. A HELLO with another plan digest, a chain to another root than the
own, or a signature that fails, ends the exchange; the own PROOF answers the HELLO. -/
def authMsg (p : Nat) (m : AuthMsg) (s : State) : State :=
  let a := (port s p).auth
  match m with
  | .hello id addr q nonce pd =>
    if pd.toNat ≠ planDigest s then authFail p 2 s
    else
      let h := helloBytes id.toNat addr.toNat q.toNat (natLe 48 nonce.toNat) pd.toNat
      sendAuth p (proofBytes (get s F.GLB_DEV_ID_ID) id.toNat a.mine h)
        (updPort p (fun k => { k with auth := { a with hello := true, peer := id.toNat, peerPort := q.toNat, his := h } }) s)
  | .cert last root ok =>
    if !ok || root ≠ ownRoot s then authFail p 1 s else updPort p (fun k => { k with auth := { a with cert := a.cert || last } }) s
  | .proof ok =>
    if !ok || !a.hello || !a.cert then authFail p 1 s
    else settlePort p (set (F.FAB_PEER_ID_ID p) a.peer (updPort p (fun k => { k with auth := { a with proof := true } }) s))

/-- AUTH_CELL: firmware takes the oldest AUTH cell of a port. -/
def execAuthCell (p : PortIx) (m : AuthMsg) (s : State) : Host.Outcome State Fault Refusal :=
  match takeStored (fun x => isAuth x.2.2) (port s p).ingress with
  | none => .next s
  | some r =>
    let s1 := freePlace p r.1.1 (updPort p (fun k => { k with ingress := r.2 }) s)
    if pState s1 p = 2 then .next (authMsg p m s1) else .next s1

/-- ADMISSION_TIMEOUT: the exchange is not complete within 100 ms. -/
def execAdmissionTimeout (p : PortIx) (s : State) : Host.Outcome State Fault Refusal :=
  if pState s p = 2 then .next (authFail p 1 s) else .next s

end Sys2Proof.Machine
end

