-- ==== Sys2Proof/Machine/Sync.lean ====
section
/-! DEFINITION. Time markers and the discipline of the time base (R212 to R217). -/
namespace Sys2Proof.Machine

/-- Sync states of Table 7.1. -/
def syFree : Nat := 0
/-- ACQUIRE. -/
def syAcquire : Nat := 1
/-- LOCKED. -/
def syLocked : Nat := 2
/-- HOLDOVER. -/
def syHoldover : Nat := 3
/-- UNSYNC. -/
def syUnsync : Nat := 4
/-- ROOT. -/
def syRoot : Nat := 5

/-- TB_STAT.SYNC. -/
def sync (s : State) : Nat := get s F.TB_STAT_SYNC

/-- A sync state whose markers steer others. -/
def gives (st : Nat) : Bool := st == syLocked || st == syRoot

/-- Parent port. -/
def parent (s : State) : Nat := get s F.TB_SYNC_CFG_PARENT
/-- Backup port. -/
def backup (s : State) : Nat := get s F.TB_SYNC_CFG_BACKUP

/-- A time marker: 8 bytes of time in 1/16 ns, which the egress stamps for SYNC and DELAY_REQ, and the sync state. -/
def marker (s : State) (p kind t16 : Nat) : Cell := linkCell s p kind (natLe 8 t16 ++ natLe 1 (sync s) ++ zeros 247)

/-- SYNC_MARKER_TIMER: one marker interval, 2^MK_LOG2 µs, after the last markers a package in LOCKED or ROOT sends a SYNC marker on every
admitted port (R214). -/
def execSyncMarkerTimer (s : State) : Host.Outcome State Fault Refusal :=
  if !gives (sync s) then .next s
  else
    let s1 := moveTo (s.time.markAt + markerInterval s) s
    let s2 := { s1 with time := { s1.time with markAt := now s1 } }
    .next (each ((List.range 12).filter fun p => pState s p == 3) (fun p s => enqueue p (marker s p 8 0) s) s2)

/-- Takes the oldest time marker of a kind from a port's TIME pool. -/
def takeMarker (p kind : Nat) (s : State) : Option (Nat × Cell × State) :=
  match takeStored (fun x => x.1 == 5 && x.2.2.kind == kind) (port s p).ingress with
  | none => none
  | some r => some (r.1.2.1, r.1.2.2, freePlace p 5 (updPort p (fun k => { k with ingress := r.2 }) s))

/-- Enters ACQUIRE. -/
def toAcquire (p : Nat) (s : State) : State :=
  let s1 := s |> set F.TB_STAT_SYNC syAcquire |> set F.TB_STAT_PORT p
  { s1 with time := { s1.time with lockRun := 0, badRun := 0, sampled := false } }

/-- A SYNC from PARENT or BACKUP: the state it reports is noted and it is answered with a DELAY_REQ (R214); one that reports LOCKED or
ROOT is valid, keeps the parent and may start ACQUIRE (R213, R216; log entry 48). -/
def takeSync (p t2 : Nat) (c : Cell) (s : State) : State :=
  let st := leAt c.payload 8 1
  if c.poison then s
  else
    let s1 := { s with time := { s.time with
        heard := if gives st then SMap.put 0 s.time.heard p (now s) else s.time.heard, state := SMap.put 0 s.time.state p st } }
    let s2 := enqueue p (marker s1 p 9 0) (updPort p (fun k => { k with sync := some (leAt c.payload 0 8, t2, none) }) s1)
    let y := sync s2
    if !gives st then s2
    else if y = syFree || y = syHoldover || y = syUnsync then toAcquire p s2
    else if p = parent s2 && y ≠ syRoot then set F.TB_STAT_PORT p s2
    else s2

/-- SYNC_RECEIVED. Markers from other ports are ignored; a ROOT counts one from PARENT or BACKUP and answers none (R214, Table 7.10). -/
def execSyncReceived (p : PortIx) (s : State) : Host.Outcome State Fault Refusal :=
  match takeMarker p 8 s with
  | none => .next s
  | some (t2, c, s1) =>
    if (p.val = parent s1 || p.val = backup s1) && pState s1 p = 3 then
      let s2 := bump F.TB_MARKER_RX_CNT s1
      .next (if sync s2 = syRoot then s2 else takeSync p t2 c s2)
    else .next s1

/-- DELAY_REQ_RECEIVED: answered with its arrival time (R214). -/
def execDelayReqReceived (p : PortIx) (s : State) : Host.Outcome State Fault Refusal :=
  match takeMarker p 9 s with
  | none => .next s
  | some (t4, _, s1) =>
    if pState s1 p = 3 then .next (enqueue p (marker s1 p 0xA t4) s1) else .next s1

/-- An instant noted before a step of the time base, on the time base after it: what has passed since stays the same. -/
def onNewBase (d : Int) (t : Nat) : Nat := ((t : Int) + d).toNat

/-- The instants that the time base, the watchdog and the power ramps have noted, after a step by `d` ns. -/
def rebase (d : Int) (s : State) : State :=
  { s with
    time := { s.time with
      heard := s.time.heard.map fun p => (p.1, max 1 (onNewBase d p.2))
      meas := s.time.meas.map fun p => (p.1, max 1 (onNewBase d p.2))
      markAt := onNewBase d s.time.markAt
      holdSince := onNewBase d s.time.holdSince
      upOfs := s.time.upOfs + d }
    phys := { s.phys with ofs := s.phys.ofs + d }
    fw := { s.fw with wdogAt := onNewBase d s.fw.wdogAt }
    rampNext := onNewBase d s.rampNext
    cores := s.cores.map fun p => (p.1, { p.2 with
      rampAt := p.2.rampAt.map (onNewBase d)
      calPass := p.2.calPass.map fun q => { q with t0 := onNewBase d q.t0 } }) }

/-- TB_TIME steps by −θ (R215). TICK_ON follows TB_EPOCH; TICK_NUM is recomputed at the next base boundary (R212). -/
def stepTime (theta : Int) (s : State) : State :=
  let v : Int := (now s : Int) * 2 ^ 32 + s.frac - theta * 2 ^ 28
  let n := v.toNat
  let s1 := { set F.TB_TIME_TIME (n / 2 ^ 32) s with frac := n % 2 ^ 32 }
  let e := get s1 F.TB_EPOCH_EPOCH
  let p := max 1 (basePeriod s1)
  let on := flag s1 F.TB_CTL_TICK_EN && decide (e ≤ now s1)
  rebase ((now s1 : Int) - now s)
    { (s1 |> setB F.TB_STAT_TICK_ON on |> when (!on) (fun s => set F.TB_TICK_NUM_K 0 (setB F.TB_STAT_GUARD false s))) with
        time := { s1.time with next := if now s1 ≤ e then 0 else (now s1 - e + p - 1) / p } }

/-- Some core of the package is RUNNING or has RUN_PEND set. -/
def coresRun (s : State) : Bool := allCores.any fun c => coreRuns s c || flag s (F.CORE_CTL_STATE_RUN_PEND c)

/-- The loop takes an accepted sample: θ is shown and the rate word is corrected (R215; log entry 35). -/
def accept (theta : Int) (s : State) : State :=
  let d := drawFree s
  let r := Config.loopRate d.1
  let ppb : Int := if 100000 < r then 100000 else if r < -100000 then -100000 else r
  let s1 := d.2 |> set F.TB_OFFSET_THETA (twos 32 theta) |> set F.TB_RATE_PPB (twos 32 ppb)
  { s1 with time := { s1.time with theta := some theta } }

/-- In LOCKED: three bad samples in a row lose the lock (R215). -/
def lockedSample (theta : Int) (s : State) : State :=
  let alarm := 4 * actv s F.TB_SYNC_LIM_ALARM
  let outlier := match s.time.theta with | some q => decide (4 * alarm < (theta - q).natAbs) | none => false
  let bad := outlier || decide (alarm < theta.natAbs)
  let s1 := if outlier then bump F.TB_MARKER_BAD_CNT s else accept theta s
  let n := if bad then s1.time.badRun + 1 else 0
  let s2 := { s1 with time := { s1.time with badRun := n } }
  if 3 ≤ n then raise { src := 0x18, dom := 0xE1 } (bump F.TB_LOCK_LOSS_CNT (toAcquire (get s2 F.TB_STAT_PORT) s2)) else s2

/-- In ACQUIRE: the first sample may step; LOCK_N samples in a row within LOCK_LIM, that one included, lock (R215). -/
def acquireSample (theta : Int) (s : State) : State :=
  let s0 := accept theta { s with time := { s.time with sampled := true } }
  let s1 := if !s.time.sampled && !coresRun s && flag s F.TB_CTL_STEP_EN then stepTime theta s0 else s0
  let n := if theta.natAbs ≤ 4 * actv s F.TB_SYNC_LIM_LOCK_LIM then s.time.lockRun + 1 else 0
  if get s F.TB_SYNC_CFG_LOCK_N_M1 + 1 ≤ n then
    set F.TB_STAT_SYNC syLocked { s1 with time := { s1.time with lockRun := 0, badRun := 0 } }
  else { s1 with time := { s1.time with lockRun := n } }

/-- A completed exchange on port `p` (R214, R215). -/
def sample (p t1 t2 t3 t4 : Nat) (s : State) : State :=
  let d : Int := (((t2 : Int) - t1) + ((t4 : Int) - t3)) / 2
  let theta : Int := ((t2 : Int) - t1) - (d + geti s (F.TB_ASYM_ASYM p))
  let s1 := s |> set (F.TB_LINK_DELAY_DELAY p) (twos 24 d)
  let s2 := { s1 with time := { s1.time with meas := SMap.put 0 s1.time.meas p (now s1 + 1) } }
  if get s2 F.TB_STAT_PORT ≠ p then s2
  else
    let s3 := if 4 * actv s2 F.TB_SYNC_LIM_ALARM < theta.natAbs then
        raise { src := 0x17, dom := 0xE1 } (hwSet F.TB_STAT_ALARM 0 s2)
      else s2
    if sync s3 = syLocked then lockedSample theta s3
    else if sync s3 = syAcquire then acquireSample theta s3
    else s3

/-- DELAY_RESP_RECEIVED. -/
def execDelayRespReceived (p : PortIx) (s : State) : Host.Outcome State Fault Refusal :=
  match takeMarker p 0xA s with
  | none => .next s
  | some (_, c, s1) =>
    match (port s1 p).sync with
    | some (t1, t2, some t3) => .next (sample p t1 t2 t3 (leAt c.payload 0 8) (updPort p (fun k => { k with sync := none }) s1))
    | _ => .next s1

/-- Entry to HOLDOVER or UNSYNC: counted and reported (R216). -/
def holdover (st : Nat) (s : State) : State :=
  raise { src := 0x19, dom := 0xE1 } (bump F.TB_HOLDOVER_CNT (s |> set F.TB_STAT_SYNC st |> set F.TB_STAT_PORT 0xF))

/-- The steering port has given no valid SYNC for 4 marker intervals (R216). -/
def parentLost (s : State) : State :=
  let y := sync s
  if y ≠ syAcquire && y ≠ syLocked then s
  else
    let q := get s F.TB_STAT_PORT
    let s1 := moveTo (SMap.get 0 s.time.heard q + 4 * markerInterval s) s
    let b := backup s1
    if q = parent s1 && b ≤ 11 && delayValid s1 b && gives (SMap.get 0 s1.time.state b) then set F.TB_STAT_PORT b s1
    else holdover syHoldover { s1 with time := { s1.time with holdSince := now s1 } }

/-- PARENT_LOSS_TIMEOUT. -/
def execParentLossTimeout (s : State) : Host.Outcome State Fault Refusal := .next (parentLost s)

/-- The holdover bound is reached: elapsed time × HO_DRIFT is 12.5 ns (R216). -/
def holdoverEnd (s : State) : State :=
  let d := actv s F.TB_SYNC_LIM_HO_DRIFT
  if sync s ≠ syHoldover || d = 0 then s
  else holdover syUnsync (moveTo (s.time.holdSince + (12500000000 + d - 1) / d) s)

/-! ### Time passes on an empty queue (R212; log entry 2) -/

/-- The time base shows an instant, given in 2^-32 ns. -/
def showTime (v : Nat) (s : State) : State := { set F.TB_TIME_TIME (v / 2 ^ 32) s with frac := v % 2 ^ 32 }

/-- One cycle of the time-base clock, in 2^-32 ns: 0.625 ns corrected by TB_RATE. -/
def tickLen (s : State) : Nat := ((2684354560 : Int) + 2684354560 * geti s F.TB_RATE_PPB / 1000000000).toNat

/-- The time base moves on by one cycle of its clock. -/
def tickTime (s : State) : State := showTime (now s * 2 ^ 32 + s.frac + tickLen s) s

end Sys2Proof.Machine
end

