-- ==== Sys2Proof/Machine/Topo.lean ====
section
/-! DEFINITION. Hall addresses, installation plans, discovery, ring spares and routes (R217, R289 to R305). -/
namespace Sys2Proof.Machine

/-! ### Hall addresses and ports (Tables 10.1 and 10.2) -/

/-- POS, TRAY, ROW and COL of a hall address. -/
def posOf (a : Nat) : Nat := bits a 0 4
/-- TRAY. -/
def trayOf (a : Nat) : Nat := bits a 4 3
/-- ROW. -/
def hallRow (a : Nat) : Nat := bits a 7 5
/-- COL. -/
def hallCol (a : Nat) : Nat := bits a 12 3
/-- A hall address. -/
def hallAddr (col row tray pos : Nat) : Nat := col * 0x1000 + row * 0x80 + tray * 0x10 + pos

/-- Directions: X−, X+, rack switch, Y−, Y+, Z−, Z+. -/
def dirPorts (set dir : Nat) : List Nat :=
  nth [] (nth [] [
    [[0, 1], [6, 7], [2, 3, 8, 9], [5], [4], [11], [10]],
    [[0], [6], [2, 3, 8, 9], [1, 5], [4, 7], [11], [10]],
    [[0, 1], [6, 7], [2, 3, 4, 5, 8, 9, 10, 11], [], [], [], []],
    [[0, 1, 2, 3, 4, 5], [6, 7, 8, 9, 10, 11], [], [], [], [], []]] set) dir

/-- The direction of a port. -/
def dirOf (set p : Nat) : Option Nat := (List.range 7).find? fun d => (dirPorts set d).contains p

/-- The port of a direction for a destination: index DST mod n (R301). -/
def portFor (set dir dst : Nat) : Option Nat :=
  let l := dirPorts set dir
  if l.isEmpty then none else l[dst % l.length]?

/-- The package record of an address. -/
def pkgAt (pl : Plan) (a : Nat) : Option PlanPkg := pl.pkgs.find? fun r => r.addr == a

/-- Both ends of the link at port `p` of package `a` are clear. -/
def linkClear (pl : Plan) (bad : NSet) (a p : Nat) : Bool :=
  !NSet.has bad (a * 16 + p) &&
    match pkgAt pl a with
    | none => false
    | some r => match r.ports[p]? with
      | none => false
      | some e =>
        if e.kind = 1 then match pl.pkgs.find? fun x => x.dev == e.peerId with
          | some x => !NSet.has bad (x.addr * 16 + e.peerPort)
          | none => false
        else e.kind == 2

/-- The neighbour in a ring direction. -/
def step1 (pl : Plan) (dir a : Nat) : Nat :=
  let c := hallCol a
  let r := hallRow a
  if dir = 0 then hallAddr c r (trayOf a) ((posOf a + 8) % 9)
  else if dir = 1 then hallAddr c r (trayOf a) ((posOf a + 1) % 9)
  else if dir = 3 then hallAddr c ((r + pl.rows - 1) % max 1 pl.rows) (trayOf a) (posOf a)
  else if dir = 4 then hallAddr c ((r + 1) % max 1 pl.rows) (trayOf a) (posOf a)
  else if dir = 5 then hallAddr ((c + pl.cols - 1) % max 1 pl.cols) r (trayOf a) (posOf a)
  else hallAddr ((c + 1) % max 1 pl.cols) r (trayOf a) (posOf a)

/-- Every link of `n` hops in a direction is clear for a destination. -/
def ringClear (pl : Plan) (bad : NSet) (dir dst : Nat) : Nat → Nat → Bool
  | 0, _ => true
  | n + 1, a => match portFor pl.set dir dst with
    | some p => linkClear pl bad a p && ringClear pl bad dir dst n (step1 pl dir a)
    | none => false

/-- The direction along a ring of `size` places from place `i` to `j`: the shorter clear one, `plus` on a tie. -/
def ringDir (pl : Plan) (bad : NSet) (minus plus size dst a i j : Nat) : Option Nat :=
  let up := (j + size - i) % max 1 size
  let down := (i + size - j) % max 1 size
  let u := ringClear pl bad plus dst up a
  let d := ringClear pl bad minus dst down a
  if u && d then (if down < up then some minus else some plus) else if u then some plus else if d then some minus else none

/-- The rack-switch hop from `a` to package `b` of its rack for a destination; the links of both to the chip are clear. -/
def rackPort (pl : Plan) (bad : NSet) (a b dst : Nat) : Option Nat :=
  match portFor pl.set 2 dst with
  | some p => if linkClear pl bad a p && linkClear pl bad b p then some p else none
  | none => none

/-- The Y and Z path from the rack of `a` to that of `d` in the plane of a tray and position is clear. -/
def planeClear (pl : Plan) (bad : NSet) (a d tray pos : Nat) : Bool :=
  let s := hallAddr (hallCol a) (hallRow a) tray pos
  let m := hallAddr (hallCol a) (hallRow d) tray pos
  (hallRow a == hallRow d || (ringDir pl bad 3 4 pl.rows d s (hallRow a) (hallRow d)).isSome) &&
    (hallCol a == hallCol d || (ringDir pl bad 5 6 pl.cols d m (hallCol a) (hallCol d)).isSome)

/-- The transit position: the destination's own if its plane is clear, else the lowest-numbered clear one. -/
def transit (pl : Plan) (bad : NSet) (a d : Nat) : Option (Nat × Nat) :=
  if planeClear pl bad a d (trayOf d) (posOf d) then some (trayOf d, posOf d)
  else ((List.range (9 * pl.trays)).map fun i => (i / 9, i % 9)).find? fun q => planeClear pl bad a d q.1 q.2

/-- The phases Y, Z and SW2 from package `a`: none unless every link of them is clear (R301). -/
def yzHop (pl : Plan) (bad : NSet) (a d : Nat) : Option Nat :=
  let m := hallAddr (hallCol d) (hallRow d) (trayOf a) (posOf a)
  let last := rackPort pl bad m d d
  if !planeClear pl bad a d (trayOf a) (posOf a) || (m != d && last.isNone) then none
  else if hallRow a ≠ hallRow d then (ringDir pl bad 3 4 pl.rows d a (hallRow a) (hallRow d)).bind fun x => portFor pl.set x d
  else if hallCol a ≠ hallCol d then (ringDir pl bad 5 6 pl.cols d a (hallCol a) (hallCol d)).bind fun x => portFor pl.set x d
  else last

/-- The egress port of a cell at package `a` with destination `d` that entered by a port, or (none) starts there (R301). A cell that came by
a Y or Z port is in its last phase in the destination's rack. -/
def egressOf (pl : Plan) (bad : NSet) (entry : Option Nat) (a d : Nat) : Option Nat :=
  let byTorus := match entry with | some p => decide (3 ≤ (dirOf pl.set p).getD 0) | none => false
  if hallRow a = hallRow d && hallCol a = hallCol d then
    if trayOf a = trayOf d && !byTorus then (ringDir pl bad 0 1 9 d a (posOf a) (posOf d)).bind fun x => portFor pl.set x d
    else rackPort pl bad a d d
  else match entry with
    | some p => if (dirOf pl.set p).getD 0 < 2 then none else yzHop pl bad a d
    | none => match transit pl bad a d with
      | none => none
      | some q =>
        let b := hallAddr (hallCol a) (hallRow a) q.1 q.2
        if b = a then yzHop pl bad a d else if (yzHop pl bad b d).isNone then none else rackPort pl bad a b d

/-! ### The plan (R293, R295) -/

/-- The package's own record. -/
def ownPkg (s : State) (pl : Plan) : Option PlanPkg := pl.pkgs.find? fun r => r.dev == get s F.GLB_DEV_ID_ID

/-- Registers of one port from its plan entry. -/
def planPort (p : Nat) (e : PlanPort) (s : State) : State :=
  s |> set (F.FAB_CTL_DIM p) e.dim |> setB (F.FAB_CTL_DATELINE p) e.dateline |> set (F.FAB_CTL_MEDIA p) e.media
    |> fwWrite (F.FAB_POLICE_BULK_RATE p) e.bulkRate |> fwWrite (F.FAB_POLICE_BULK_BURST p) e.bulkBurst
    |> fwWrite (F.FAB_POLICE_MGMT_RATE p) e.mgmtRate |> fwWrite (F.FAB_POLICE_MGMT_BURST p) e.mgmtBurst
    |> set (F.TB_ASYM_ASYM p) e.asym

/-- Rising addresses as ranges without gaps. -/
def addrRuns (l : List Nat) : List (Nat × Nat) :=
  l.foldr (fun a r => match r with | (lo, hi) :: q => if a + 1 = lo then (a, hi) :: q else (a, a) :: (lo, hi) :: q | [] => [(a, a)]) []

/-- Joins the two neighbouring ranges with the smallest gap `g` between them. -/
def joinAt (g : Nat) : List (Nat × Nat) → List (Nat × Nat)
  | x :: y :: l => if y.1 - x.2 = g then (x.1, y.2) :: l else x :: joinAt g (y :: l)
  | l => l

/-- The smallest gap between neighbouring ranges. -/
def minGap : List (Nat × Nat) → Nat
  | x :: y :: l => match l with | [] => y.1 - x.2 | _ => min (y.1 - x.2) (minGap (y :: l))
  | _ => 0

/-- Joins ranges until at most four are left. -/
def fourRanges : Nat → List (Nat × Nat) → List (Nat × Nat)
  | 0, l => l
  | f + 1, l => if l.length ≤ 4 then l else fourRanges f (joinAt (minGap l) l)

/-- FAB_SRC of a port from the route rule (R303): the admitted ranges, at most four. DESIGN CHOICE (log entry 67): where the addresses of the
installation take more than four ranges, those with the smallest gaps between them are joined. -/
def srcRanges (pl : Plan) (a p : Nat) : List (Nat × Nat) :=
  let all := let l := pl.pkgs.map fun r => r.addr; fourRanges l.length (addrRuns l)
  match dirOf pl.set p with
  | some d =>
    if d < 2 then [(hallAddr (hallCol a) (hallRow a) (trayOf a) 0, hallAddr (hallCol a) (hallRow a) (trayOf a) 8)]
    else if d = 3 || d = 4 then [(hallCol a * 0x1000, hallCol a * 0x1000 + 0x0FFF)]
    else all
  | none => all

/-- FAB_SRC of a port: the ranges in its first entries, the others not VALID. -/
def writeSrc (l : List (Nat × Nat)) (p : Nat) (s : State) : State :=
  upTo 4 (fun i s => match l[i]? with
    | some r => s |> fwWrite (F.FAB_SRC_LO p i) r.1 |> fwWrite (F.FAB_SRC_HI p i) r.2 |> fwWrite (F.FAB_SRC_VALID p i) 1
    | none => fwWrite (F.FAB_SRC_VALID p i) 0 s) s

/-- What firmware writes at the start from the active plan (R295, R303). -/
def planRegs (pl : Plan) (r : PlanPkg) (s : State) : State :=
  s |> upTo 12 (fun p s => writeSrc (srcRanges pl r.addr p) p (set (F.FAB_ADDR_ADDR p) r.addr s))
    |> each (r.ports.zipIdx) (fun (x : PlanPort × Nat) s => planPort x.2 x.1 s)
    |> set F.TB_EPOCH_EPOCH pl.epoch
    |> (fun s => if 1200 ≤ pl.period && pl.period ≤ 200000 then set F.TB_TICK_PERIOD_PERIOD pl.period s else bump F.TB_CFG_REJ_CNT s)
    |> when (r.parent ≤ 11 || r.parent == 15) (set F.TB_SYNC_CFG_PARENT r.parent) |> when (r.backup ≤ 11 || r.backup == 15) (set F.TB_SYNC_CFG_BACKUP r.backup)
    |> noParent |> retick |> when (pl.root == r.addr) (fwWrite F.TB_CTL_ROLE 1)

/-- The link ends of a plan, none of which has been heard of yet: a link is clear once both its ends are ADMITTED (R301). -/
def allEnds (pl : Plan) : NSet := pl.pkgs.foldl (fun m r => (List.range 12).foldl (fun m p => NSet.add m (r.addr * 16 + p)) m) []

/-- The pending plan becomes active, and the active plan's values are written (R293, R295). -/
def activatePlan (s : State) : State :=
  let s1 := match s.fw.planNext with
    | some pl => updFw (fun k => { k with plan := some pl, planNext := none, boot := { k.boot with saved := [] } }) s
    | none => s
  let ends := match s1.fw.plan with | some pl => allEnds pl | none => []
  let s2 := updFw (fun k => { k with linksBad := ends, linksDown := [], linkSt := [], linksUsed := ends, routesDue := false, floods := false, missing := [] }) s1
  match s2.fw.plan with
  | none => s2
  | some pl => match ownPkg s2 pl with
    | some r => planRegs pl r s2
    | none => s2

/-! ### Port states and routes (R302) -/

/-- The addresses of the plan. -/
def planAddrs (s : State) : List Nat := match s.fw.plan with | some pl => pl.pkgs.map fun r => r.addr | none => []

/-- FAB_FWD of a port for the plan's addresses. -/
def writeFwd (pl : Plan) (p : Nat) (s : State) : State :=
  each (planAddrs s) (fun d s =>
    let v := (egressOf pl s.fw.linksUsed (some p) (ownAddr s) d).getD 0xF
    fwWrite (if d % 2 = 0 then F.FAB_FWD_LO p (d / 2) else F.FAB_FWD_HI p (d / 2)) v s) s

/-- The gate releases held writes at the next base boundary; while it is released for a later tick they go without it. -/
def gated (f : State → State) (s : State) : State :=
  if flag s F.TB_STAT_GATE_ARMED then f s
  else
    let s1 := f (setB F.TB_STAT_GATE_HOLD true s)
    gateRelease (set F.TB_GATE_K_K s1.time.next s1)

/-- Installs routes: failures at once, repairs only while no partition runs (R302). -/
def installRoutes (s : State) : State :=
  match s.fw.plan with
  | none => s
  | some pl =>
    let used := if anyRuns s then s.fw.linksBad.foldl NSet.add s.fw.linksUsed else s.fw.linksBad
    let s1 := updFw (fun k => { k with linksUsed := used, routesDue := decide (used ≠ k.linksBad) }) s
    gated (upTo 12 (writeFwd pl)) s1

/-- The spare switches in for a package, and reports it. -/
def switchIn (m : Nat) (s : State) : State :=
  notify 7 none (natLe 1 (trayOf m) ++ zeros 1 ++ natLe 2 m) (updFw (fun k => { k with subst := some m }) s)

/-- The ring spare holds a report that package `m` is missing, from its neighbour on one side. With both reports it switches in; a second
missing package is only reported (R297). -/
def hearMissing (m : Nat) (plus : Bool) (s : State) : State :=
  let k := m * 2
  let l := NSet.add s.fw.missing (k + if plus then 1 else 0)
  let s1 := updFw (fun x => { x with missing := l }) s
  if NSet.has l k && NSet.has l (k + 1) then
    match s1.fw.subst with
    | none => switchIn m s1
    | some _ => emit .net .report [7, trayOf m, m] s1
  else s1

/-- DISCOVERY_END: every port has an outcome. Port states are flooded, and reported but for an unconnected port without a partner; missing
ring neighbours are reported to the ring spare, which may be this package; and routes wait to be installed (R297, R305). -/
def discoveryEnd (s : State) : State :=
  match s.fw.plan with
  | none => s
  | some pl =>
    let a := ownAddr s
    let spare := (pl.pkgs.find? fun r => r.role == 1 && r.addr / 16 == a / 16).map fun r => r.addr
    let gone := fun (dir : Nat) => !(dirPorts pl.set dir).isEmpty && (dirPorts pl.set dir).all fun p => pState s p == 5 || pState s p == 6
    let tell := fun (dir : Nat) s => match spare with
      | some x =>
        let m := step1 pl dir a
        if !gone dir || !(pkgAt pl m).any (fun r => r.role == 0) then s
        else if x = a then hearMissing m (dir == 1) s else emit (.pkg x) .missing [m, dir] s
      | none => s
    let s1 := upTo 12 (fun p s => when (reported s p) (portEvent p) (flood p s)) s
    updFw (fun k => { k with routesDue := true, floods := true, changedAt := now s }) (tell 1 (tell 0 s1))

/-- DISCOVERY_END. -/
def execDiscoveryEnd (s : State) : Host.Outcome State Fault Refusal :=
  if (List.range 12).any fun p => pState s p == 1 || pState s p == 2 then .next s else .next (discoveryEnd s)

/-- PORT_STATE_FLOOD: the state of port `p` of the package at `a`. -/
def execPortStateFlood (a : BitVec 16) (p : PortIx) (st : BitVec 3) (s : State) : Host.Outcome State Fault Refusal :=
  .next (linkHeard a.toNat p st.toNat s)

/-- ROUTE_INSTALL: 2 ms after the last change heard. -/
def execRouteInstall (s : State) : Host.Outcome State Fault Refusal :=
  if s.fw.routesDue then .next (installRoutes (moveTo (s.fw.changedAt + 2000000) s)) else .next s

/-! ### The ring spare (R296, R297) -/

/-- ROLE of this package in the active plan. -/
def ownRole (s : State) : Nat := match s.fw.plan with | some pl => (match ownPkg s pl with | some r => r.role | none => 0) | none => 0

/-- MISSING_REPORT: the ring spare hears that package `m` is missing, from its neighbour on one side. -/
def execMissingReport (m : BitVec 16) (plus : Bool) (s : State) : Host.Outcome State Fault Refusal :=
  if ownRole s ≠ 1 then .next s else .next (hearMissing m.toNat plus s)

/-- An active package of the plan is missing: the ports of both its ring neighbours that face it are DOWN_MISSING or FAILED (R297). -/
def pkgMissing (s : State) (m : Nat) : Bool :=
  match s.fw.plan with
  | none => false
  | some pl =>
    let down := fun dir back => let a := step1 pl dir m
      !(dirPorts pl.set back).isEmpty && (dirPorts pl.set back).all fun p => NSet.has s.fw.linksDown (a * 16 + p)
    (pkgAt pl m).any (fun r => r.role == 0) && down 0 1 && down 1 0

/-- STANDBY_ROOT_TAKEOVER: the plan's standby root has been in HOLDOVER for 10 ms (R217). -/
def execStandbyRootTakeover (s : State) : Host.Outcome State Fault Refusal :=
  match s.fw.plan with
  | some pl =>
    if pl.standby = ownAddr s && sync s = syHoldover then .next (fwWrite F.TB_CTL_ROLE 1 (moveTo (s.time.holdSince + 10000000) s)) else .next s
  | none => .next s

/-! ### Yarile commands -/

/-- Some partition exists on the package. -/
def anyPart (s : State) : Bool := s.fw.parts.any fun (p : Nat × Option PartRec) => p.2.isSome

/-- Expected DATELINE of a port of a package (R300). -/
def datelineAt (pl : Plan) (a p : Nat) : Bool :=
  match dirOf pl.set p with
  | some 0 => posOf a == 0
  | some 1 => posOf a == 8
  | some 3 => hallRow a == 0
  | some 4 => hallRow a + 1 == pl.rows
  | some 5 => hallCol a == 0
  | some 6 => hallCol a + 1 == pl.cols
  | _ => false

/-- Each of the own port entries is mirrored by its peer's. -/
def mirrored (pl : Plan) (r : PlanPkg) : Bool :=
  r.ports.zipIdx.all fun (x : PlanPort × Nat) =>
    if x.1.kind = 1 then match pl.pkgs.find? fun q => q.dev == x.1.peerId with
      | some q => match q.ports[x.1.peerPort]? with
        | some e => e.peerId == r.dev && e.peerPort == x.2 && e.kind == 1
        | none => false
      | none => false
    else if x.1.kind = 2 then match pl.switches.find? fun w => w.dev == x.1.peerId with
      | some w => match w.ends[x.1.peerPort]? with
        | some e => e == (r.addr, x.2)
        | none => false
      | none => false
    else true

/-- Addresses rise strictly: the records are in ascending order, and no address is there twice (R292, R293). -/
def ascending : List Nat → Bool
  | [] => true
  | a :: l => (match l with | [] => true | b :: _ => decide (a < b)) && ascending l

/-- Check 4 of R293. -/
def planFits (s : State) (pl : Plan) : Bool :=
  (match s.fw.plan with | some a => a.id != pl.id || decide (a.rev < pl.rev) | none => true) &&
    (match pl.pkgs.filter fun r => r.dev == get s F.GLB_DEV_ID_ID with | [r] => mirrored pl r | _ => false) &&
    ascending (pl.pkgs.map fun r => r.addr) &&
    pl.pkgs.all fun r => r.ports.zipIdx.all fun (x : PlanPort × Nat) => x.1.dateline == datelineAt pl r.addr x.2

/-- Life-cycle states that allow loads of models, schedules and plans (Table 13.9). -/
def loadsOk (s : State) : Bool := let st := get s F.LC_STATE_STATE; st == 1 || st == 2 || st == 3

/-- PLAN_INSTALL of a plan image. `sig`: the chain leads to an installation root, and the signature over PD holds. -/
def execPlanInstall (q : YReq) (image : List Byte) (sig : Bool) (s : State) : Host.Outcome State Fault Refusal :=
  .next (run { op := 0x0D01 } q true [] [.plan] (fun h s0 =>
    let s := fromBuffer q.fn h s0
    if !planForm image then respond q h 3 [] s
    else if !planKnown image then respond q h 4 [] s
    else if !sig then respond q h 6 [] s
    else if !loadsOk s then respond q h 5 [] s
    else if !planFits s (readPlan image) then respond q h 3 [] s
    else if anyPart s then respond q h 2 [] s
    else respond q h 0 [] (updFw (fun k => { k with planNext := some (readPlan image) }) s)) s)

/-- PLAN_GET: the active and the pending plan. -/
def execPlanGet (q : YReq) (s : State) : Host.Outcome State Fault Refusal :=
  let img := fun (p : Option Plan) => match p with | some pl => pl.image | none => []
  .next (run { op := 0x0D02 } q true [] [] (fun h s => respondBuf q h [] (img s.fw.plan ++ img s.fw.planNext) s) s)

/-- Commands of PORT_CMD: 0 RETRAIN, 1 DISABLE, 2 QUARANTINE. -/
def execPortCmd (q : YReq) (p : BitVec 8) (c : BitVec 8) (s : State) : Host.Outcome State Fault Refusal :=
  let n := p.toNat
  .next (run { op := 0x0D03 } q (n < 12 && c.toNat < 3) [] [.port n] (fun h s =>
    let s1 := if c = 0 then retrainPort n s else if c = 1 then disablePort n s
      else if pState s n = 2 || pState s n = 3 then enterQuar n 5 s else portRej n s
    respond q h 0 [] s1) s)

/-- SPARE_SET: switch the ring spare in for an address, or clear the substitution. -/
def execSpareSet (q : YReq) (a : Option (BitVec 16)) (s : State) : Host.Outcome State Fault Refusal :=
  .next (run { op := 0x0D04 } q (ownRole s = 1) [] [.plan] (fun h s =>
    match a with
    | some m => if s.fw.subst.isSome then respond q h 2 [] s else respond q h 0 [] (switchIn m.toNat s)
    | none => if anyPart s then respond q h 2 [] s
        else respond q h 0 [] (updFw (fun k => { k with subst := none, missing := [] }) s)) s)

/-- GET_PORTS: per port STATE, QREASON, FAB_PEER_ID and FAB_PREFEC. -/
def execGetPorts (q : YReq) (s : State) : Host.Outcome State Fault Refusal :=
  .next (run { op := 0x0104 } q true [] [] (fun h s =>
    respond q h 0 ((List.range 12).flatMap fun p =>
      natLe 1 (pState s p) ++ natLe 1 (get s (F.FAB_STAT_QREASON p)) ++ zeros 2 ++ natLe 2 (get s (F.FAB_PREFEC_MANT p)) ++ natLe 1 (get s (F.FAB_PREFEC_EXP p)) ++ natLe 1 (get s (F.FAB_PREFEC_VALID p)) ++
        natLe 16 (get s (F.FAB_PEER_ID_ID p))) s) s)

end Sys2Proof.Machine
end

