-- ==== Sys2Proof/Machine/Restart.lean ====
section
/-! DEFINITION. Resets, the start order, minimal mode, watchdog and self-test (R358 to R377, R383, R434, R442, R445). -/
namespace Sys2Proof.Machine

/-! ### What a package reset clears (Table 1.7, R375) -/

/-- The network plane and the stacks: their registers, and everything queued in them; the stacks are wiped. -/
def netReset (s : State) : State :=
  let s1 := each allCores (fun c s => eraseRegs (coreBase c + 0xB0000) (coreBase c + 0x100000) (eraseRegs (coreBase c) (coreBase c + 0x10000) s)) s
  let s2 := eraseRegs 0x3000000 0x4000000 (eraseRegs 0x600000 0x8C0000 s1)
  { s2 with mesh := [], stks := [], ports := [], inbox := [], seam := [], arb := [], srv := SrvSt.reset
            mem := { s2.mem with stk := [], stkPoison := [] } }

/-- Every compute domain is reset and its scratchpad wiped. -/
def computeReset (s : State) : State := each allCores (fun c s => wipeSpad c (resetCompute c s)) s

/-- Fuse fields, which a cold reset loads again. -/
def fuseFields : List Fld := [F.LC_STATE_STATE, F.LC_STATE_FI_EN, F.LC_STATE_SLOTS, F.LC_OWN_SEQ_SEQ]

/-- What the management core keeps in flash. -/
def flashOnly (k : FwSt) : FwSt :=
  { FwSt.reset with boot := k.boot, log := k.log, logBase := k.logBase, plan := k.plan, planNext := k.planNext, subst := k.subst, models := k.models.map fun (m : Model) => { m with golden := false, bound := false }, lastHandle := k.lastHandle, slotMap := k.slotMap, slotFmt := k.slotFmt, table := k.table, content := k.content, cycles := k.cycles, steepAt := k.steepAt, retired := k.retired, openBatch := k.openBatch, batchNo := k.batchNo, calFlash := k.calFlash, calCfg := k.calCfg, own := k.own, keyOff := k.keyOff }

/-- A cold package reset (R375): everything but the array cells, the fuses and the flash. A steep batch that it ends leaves its cells
undefined (R152). `cause` is the bit of LC_RST_CAUSE. -/
def coldReset (cause : Fld) (s : State) : State :=
  let s1 := computeReset s
  let s2 := { State.reset with
    pending := s.pending, mem := { Mems.empty with wts := s1.mem.wts, undef := s1.mem.undef }, badArr := s.badArr
    fw := flashOnly s.fw, out := s.out, free := s.free, pwroff := s.pwroff, phys := { s.phys with ofs := -(age s : Int) } }
  let s3 := each s.badArr (fun a s => set (F.ARR_STAT_STATE (a / 2624) (a % 2624)) 0 s) s2
  setB cause true (each fuseFields (fun f x => set f (get s f) x) s3)

/-! ### Telemetry at the start (R424, R426) -/

/-- Changes the sensors' state. -/
def updThm (f : ThmSt → ThmSt) (s : State) : State := { s with thm := f s.thm }

/-- The lowest enabled channel above `ch`, wrapping from 15 to 0. -/
def nextChannel (mask ch : Nat) : Option Nat := ((List.range 16).map fun i => (ch + 1 + i) % 16).find? fun c => bit mask c

/-- A conversion starts, or the converter idles. The first of all takes the lowest enabled channel. -/
def telStart (s : State) : State :=
  if !flag s F.TEL_CTL_EN then setB F.TEL_STAT_BUSY false s
  else
    let prev := if (List.range 16).any fun i => flag s (F.TEL_RES_VALID i) then get s F.TEL_STAT_CH else 15
    match nextChannel (get s F.TEL_CHSEL_MASK) prev with
    | none => setB F.TEL_STAT_BUSY false s
    | some c => s |> setB F.TEL_STAT_BUSY true |> set F.TEL_STAT_CH c
        |> updThm fun k => { k with mains := flag s F.TEL_CTL_MAINS, lp := flag s F.TEL_CTL_LP }

/-- Limits of the rail channels 0 to 7 (Table 16.6). -/
def railLimits : List (Nat × Nat) :=
  [(2415919, 2617246), (2929301, 3110496), (3946001, 4107063), (2929301, 3110496), (3905735, 4147328), (3580257, 3801718),
    (1466328, 1553571), (2442762, 2590403)]

/-- Step 1 enables the converter on channels 0 to 7 and 15 with the limits of the rails. -/
def telSetup (s : State) : State :=
  let lim := fun (p : (Nat × Nat) × Nat) s =>
    s |> set (F.TEL_LIM_LO p.2) p.1.1 |> set (F.TEL_LIM_HI p.2) p.1.2 |> setB (F.TEL_LIM_EN p.2) true
  telStart (s |> each railLimits.zipIdx lim |> set F.TEL_CHSEL_MASK 0x80FF |> setB F.TEL_CTL_EN true)

/-! ### Minimal mode and failed starts (R365, R366) -/

/-- Minimal mode. -/
def minimal (s : State) : State :=
  let s1 := computeReset (netReset s)
  updFw (fun k => { k with phase := .up }) (s1 |> set F.GLB_MODE_MODE 2 |> setB F.MBX_CTL_MINIMAL true |> setB F.MBX_CTL_UPDATING false
    |> setB F.MBX_CTL_FW_UP true |> setB F.LC_START_MINIMAL true
    |> setB F.TEL_CTL_LP true)

/-- LC_START shows the boot block. -/
def showStart (s : State) : State :=
  let b := s.fw.boot
  s |> set F.LC_START_ATTEMPTS b.attempts |> set F.LC_START_REASON b.reason |> set F.LC_START_DETAIL b.detail |> set F.LC_START_STEP b.step
    |> setB F.LC_START_ERASE_PEND b.erasePend

/-- Reasons that a repeated start cannot change. -/
def finalReason (r : Nat) : Bool := r == 1 || r == 2 || r == 3 || r == 0xD

/-- The start fails: the reason is recorded; below three attempts the package starts again by an internal cold reset. -/
def failStart (reason detail step : Nat) (s : State) : State :=
  let s1 := showStart (logRec [1, reason, step, detail] (updBoot (fun b => { b with reason := reason, detail := detail, step := step }) s))
  if finalReason reason || 3 ≤ s1.fw.boot.attempts then minimal s1 else coldReset F.LC_RST_CAUSE_INTERNAL s1

/-! ### Steps of the start order (Table 13.1) -/

/-- The next step is due. -/
def toStep (n : Nat) (s : State) : State := updFw (fun k => { k with phase := .step n }) (set F.LC_START_STEP (n - 1) s)

/-- Step 0: fuses, challenge, watchdog. -/
def start0 (x : StartIn) (s : State) : State :=
  s |> set F.LC_CHALLENGE_VALUE x.challenge.toNat |> updFw (fun k => { k with wdogAt := now s }) |> toStep 1

/-- The ROM accepts a copy: it verifies, and its security level is at least the anti-rollback level of the fuses (R362). -/
def romTakes (lv : Nat) (c : FwCopy) : Bool := c.ok && decide (lv ≤ c.level)

/-- The firmware copy that the ROM starts at anti-rollback level `lv`: the preferred one if it accepts it, else the other (R362). -/
def romCopy (lv : Nat) (b : Boot) : Option (Bool × FwCopy) :=
  let p := if b.prefB then b.copyB else b.copyA
  let q := if b.prefB then b.copyA else b.copyB
  if romTakes lv p then some (b.prefB, p) else if romTakes lv q then some (!b.prefB, q) else none

/-- The firmware copy that runs. -/
def runCopy (b : Boot) : FwCopy := if b.runB then b.copyB else b.copyA

/-- Firmware comes up: versions and FW_UP. -/
def fwUp (c : FwCopy) (s : State) : State :=
  s |> set F.GLB_FW_VER_BUILD (c.ver % 65536) |> set F.GLB_FW_VER_MINOR (c.ver / 65536 % 256) |> set F.GLB_FW_VER_MAJOR (c.ver / 2 ^ 24)
    |> set F.GLB_YARILE_VER_MAJOR 3 |> set F.GLB_YARILE_VER_MINOR 0 |> setB F.MBX_CTL_UPDATING false |> setB F.MBX_CTL_FW_UP true

/-- The 64 bytes of a self-test record that are signed (Table 13.5). -/
def bistBody (r : BistRec) : List Byte :=
  [0x4C, 0x4D, 0x53, 0x54].flatMap (natLe 1) ++ natLe 2 1 ++ natLe 1 (if r.pass then 0 else 1) ++ natLe 1 r.failDom ++
    natLe 16 r.dev ++ natLe 4 r.ver ++ natLe 2 r.cov ++ zeros 2 ++ natLe 8 r.sig ++ natLe 8 Config.bistExpect ++ natLe 8 r.pt ++
    natLe 4 r.ms ++ zeros 4

/-- A record is valid: its DEVICE_ID is the device's own, and its signature verifies against the device key; the model holds records of the
right magic and version only (R369). -/
def bistValid (s : State) (r : BistRec) : Bool := r.dev == get s F.GLB_DEV_ID_ID && r.sign == Config.signed (bistBody r)

/-- A valid passing self-test record younger than 30 days of powered time (R369). -/
def bistFresh (s : State) : Bool :=
  match s.fw.boot.bist.getLast? with
  | some r => r.pass && bistValid s r && decide (s.fw.ptStart < r.pt + 30 * 86400)
  | none => false

/-- A self-test run ends: registers, and its signed record, of which the boot block keeps the last two (R370). -/
def bistEnd (o : BistOut) (s : State) : State :=
  let ver := get s F.GLB_FW_VER_BUILD + 65536 * get s F.GLB_FW_VER_MINOR + 2 ^ 24 * get s F.GLB_FW_VER_MAJOR
  let dom := if o.pass then 0xFF else o.failDom.toNat
  let r : BistRec := { pass := o.pass, failDom := dom, ver := ver, cov := o.cov.toNat, sig := o.sig.toNat
                       pt := s.fw.ptStart + ((now s : Int) - s.time.upOfs).toNat / 1000000000, ms := o.ms.toNat, dev := get s F.GLB_DEV_ID_ID, sign := 0 }
  s |> set F.LC_BIST_STAT_STATE (if o.pass then 2 else 3) |> set F.LC_BIST_STAT_FAIL_DOM dom |> set F.LC_BIST_STAT_COV o.cov.toNat
    |> set F.LC_BIST_SIG_SIG o.sig.toNat |> updBoot (fun b => { b with bist := (b.bist ++ [{ r with sign := Config.signed (bistBody r) }]).drop (b.bist.length - 1) })

/-- Step 1 and 1a: ROM, firmware, start-attempt counter, self-test when it is due. -/
def start1 (x : StartIn) (s : State) : State :=
  match romCopy s.phys.rollback s.fw.boot with
  | none => failStart 2 0 1 s
  | some c =>
    let s1 := updFw (fun k => { k with ptStart := k.boot.base + 600 }) (updBoot (fun b => { b with runB := c.1 }) s)
    if get s1 F.LC_STATE_STATE = 5 then failStart 0xD 0 1 (fwUp c.2 s1)
    else if 3 ≤ s1.fw.boot.attempts then showStart (minimal (fwUp c.2 s1))
    else
      let s2 := telSetup (showStart (updBoot (fun b => { b with attempts := b.attempts + 1 }) (fwUp c.2 s1)))
      if bistFresh s2 then toStep 2 s2
      else
        let s3 := bistEnd x.bist (setB F.LC_START_BIST_RAN true s2)
        if x.bist.pass then toStep 2 s3 else failStart 3 x.bist.failDom.toNat 1 s3

/-- Output of the X-first table at router `c` for destination `d` (R238), with every router present. -/
def xFirst (c d : Nat) : Nat :=
  let hops := fun (t : Nat) => (colOf c - colOf t) + (colOf t - colOf c) + (rowOf c - rowOf t) + (rowOf t - rowOf c)
  let t := if d < 20 then d else (attached d).foldl (fun (b : Nat) r => if hops r < hops b then r else b) (nth 0 (attached d) 0)
  if colOf c < colOf t then 3
  else if colOf t < colOf c then 4
  else if rowOf c < rowOf t then 2
  else if rowOf t < rowOf c then 1
  else if d < 20 then 0
  else 5 + ((crustOf c).findIdx fun n => n == d)

/-- An open life-cycle transition whose state slot was not programmed did not happen (R382). -/
def dropJournal (s : State) : State :=
  match s.fw.boot.journal with
  | some (f, t, false) => emit .net .report [0x382, f, t] (logRec [3, f, t] (updBoot (fun b => { b with journal := none }) s))
  | _ => s

/-- The router at a column and row is listed absent. -/
def routerGone (s : State) (x y : Nat) : Bool := x < 10 && !routerPresent s (routerAt x y)

/-- The entry of router `c` for destination `d`: output, and ESC. Where the X-first path would pass an absent router it goes round it
along the other row and returns one column after it (R239). -/
def routeEntry (s : State) (c d : Nat) : Nat × Bool :=
  let hops := fun (t : Nat) => (colOf c - colOf t) + (colOf t - colOf c) + (rowOf c - rowOf t) + (rowOf t - rowOf c)
  let t := if d < 20 then d else (attached d).foldl (fun (b : Nat) r => if hops r < hops b then r else b) (nth 0 (attached d) 0)
  let x := colOf c
  let y := rowOf c
  let vert := if y < rowOf t then 2 else if rowOf t < y then 1 else if y = 0 then 2 else 1
  let behind := routerGone s (if x < colOf t then x - 1 else x + 1) (rowOf t) && x != 0
  let ahead := routerGone s (if x < colOf t then x + 1 else x - 1) y
  if x = colOf t then
    if y = rowOf t then (xFirst c d, false) else (vert, routerGone s (x + 1) (rowOf t) || (x != 0 && routerGone s (x - 1) (rowOf t)))
  else if ahead then (vert, false)
  else if y ≠ rowOf t && behind then (vert, true)
  else (xFirst c d, false)

/-- Step 2: route tables and mesh; the training of the stacks begins. A SCRAPPED device goes no further (R379). -/
def start2 (s0 : State) : State :=
  let s := dropJournal s0
  if get s F.LC_STATE_STATE = 5 then failStart 0xD 0 2 s else
  let on := allCores.filter fun c => routerPresent s c && !flag s (F.RTR_CTL_EN c)
  let s1 := each on (fun c s => upTo 37 (fun d s => setB (F.RTR_ROUTE_ESC c d) (routeEntry s c d).2 (set (F.RTR_ROUTE_OUT c d) (routeEntry s c d).1 s)) s) s
  toStep 3 (upTo 3 (fun n s => set (F.STK_STAT_STATE n) 1 s) (each on enableMesh s1))

/-- The arrays that a life-cycle erase covers: every array that is not FUSED, on every core that is not fused bad (R172, R382). -/
def eraseAll (s : State) : List Nat := (List.range 52480).filter fun a => coreGood s (a / 2624) && !s.badArr.contains a

/-- The erase of a life-cycle change: one cycle each, also at the endurance limit; arrays that fail their verify enter the retired map; those
of the map stay RETIRED, the others become EMPTY (R155, R172). -/
def lcErase (failed : List (Nat × Nat)) (s : State) : State :=
  let l := eraseAll s
  let bad := failed.map fun p => p.1 * 2624 + p.2
  let s1 := updFw (fun k => { k with
    cycles := l.foldl (fun m a => SMap.put 0 m a (SMap.get 0 m a + 1)) k.cycles
    retired := (bad.filter l.contains).foldl NSet.add k.retired }) s
  let one := fun a (s : State) =>
    let c := a / 2624
    let n := a % 2624
    let s1 := eraseCells c n s
    if NSet.has s.fw.retired a then setArr c n 5 (if bad.contains a then setUndef c n true s1 else s1) else setArr c n 1 s1
  each l one s1

/-- The sample of a core allows STEEP and ERASE batches (R154). -/
def windowOk (s : State) (c : Nat) : Bool :=
  let t := geti s (F.THM_SENS_TEMP c)
  flag s (F.THM_SENS_VALID c) && decide (216 ≤ t) && decide (t ≤ 664)

/-- A pending life-cycle erase, which the first start that reaches step 3 runs before step 5, is due and the temperature of some core does
not allow it (R172, R382). -/
def eraseWaits (s : State) : Bool := s.fw.boot.erasePend && !(allCores.filter (coreGood s)).all (windowOk s)

/-- The pending erase, and the close of its journal with the arrays that failed. -/
def runErase (failed : List (Nat × Nat)) (s : State) : State :=
  if s.fw.boot.erasePend then
    let l := failed.map fun p => p.1 * 2624 + p.2
    let closed := fun (b : Boot) => match b.journal with | some (f, t, _) => some (f, t, l) | none => b.closed
    showStart (updBoot (fun b => { b with erasePend := false, closed := closed b, journal := none }) (lcErase failed s))
  else s

/-- One cycle for every array of a batch whose close record is missing (R156). -/
def closeBatches (s : State) : State :=
  updFw (fun k => { k with cycles := (k.openBatch.flatMap fun r => r.2).foldl (fun m a => SMap.put 0 m a (SMap.get 0 m a + 1)) k.cycles, openBatch := [] }) s

/-- Both copies of a core's cycle-count record fail their CRC: every count becomes 95,000, and the loss is reported (R158). -/
def lostCounts (c : Nat) (s : State) : State :=
  emit .net .report [0x158, c] (logRec [4, c] (updFw (fun k => { k with
    cycles := (List.range 2624).foldl (fun m n => SMap.put 0 m (c * 2624 + n) 95000) k.cycles }) s))

/-- Firmware writes its windows into a stack controller: the same entries in all three (R246). -/
def putWindows (n : Nat) (l : List MWinIn) (s : State) : State :=
  each l.zipIdx (fun p s => s |> fwWrite (F.STK_MWIN_BASE n p.2) p.1.base.toNat |> fwWrite (F.STK_MWIN_SIZE n p.2) p.1.size.toNat
    |> fwWrite (F.STK_MWIN_WR n p.2) (ofB p.1.wr) |> fwWrite (F.STK_MWIN_VALID n p.2) 1) s

/-- Step 3 up to the training of the stacks: compute domains powered and held in reset, scratchpads wiped; every channel trained, and the
row clear begins (Table 8.9). -/
def train3 (x : StartIn) (s : State) : State :=
  let s1 := each (allCores.filter (coreGood s)) (fun c s => setCoreState c cReset (wipeSpad c s)) s
  upTo 3 (fun n s => s |> set (F.STK_STAT_STATE n) 2 |> set (F.STK_CH_OK_OK n) (2 ^ 32 - 1)
    |> set (F.STK_STAT_SPARES_USED n) (nth 0 x.spares n).toNat) s1

/-- Step 3, the rest: every row is clear, and the stacks are READY. -/
def clear3 (x : StartIn) (s : State) : State :=
  let s1 := upTo 3 (fun n s => putWindows n x.windows (set (F.STK_STAT_STATE n) 3 s)) s
  let s2 := { s1 with mem := { s1.mem with stk := [], stkPoison := [] } }
  toStep 4 (each (x.countsLost.map fun c => c.val) lostCounts (closeBatches s2))

/-- Step 3. The two events of Table 8.9 that end a state of the stacks are two PACKAGE_STARTs. -/
def start3 (x : StartIn) (s : State) : State := if get s (F.STK_STAT_STATE 0) = 1 then train3 x s else clear3 x s

/-- A stack with a channel that could not be trained. -/
def failedStack (s : State) : Option Nat := (List.range 3).find? fun n => get s (F.STK_STAT_STATE n) == 4

/-- A step fails. A channel that cannot be trained first shows in its stack controller, FAILED with FAIL_CH; the next PACKAGE_START or
START_STEP_TIMEOUT ends the start with STK_TRAIN (R257; log entry 67). -/
def failStep (reason detail n : Nat) (s : State) : State :=
  if n = 3 && reason = 7 && decide (detail < 96) && get s (F.STK_STAT_STATE 0) = 1 then
    s |> set (F.STK_STAT_FAIL_CH (detail / 32)) (detail % 32) |> set (F.STK_STAT_STATE (detail / 32)) 4
  else failStart reason detail n s

/-- A port may verify its saved settings: the record's plan digest is the active plan's, and the plan names the same partner and port
(R363). -/
def mayVerify (s : State) (p : Nat) : Bool :=
  match SMap.get none s.fw.boot.saved p with
  | some r => r.digest == planDigest s && planAdmits s p r.peer r.peerPort
  | none => false

/-- Step 4: ports that are not in use start to train, those with good saved settings by verifying them; their outcomes come one by one. -/
def start4 (x : StartIn) (s : State) : State :=
  let train := fun p (s : State) =>
    if pState s p = 0 then
      setP p 1 (setB (F.FAB_CTL_EN p) true (updPort p (fun k => { k with saved := mayVerify s p && !x.unsaved.any fun q => q.val == p }) s))
    else s
  toStep 5 (updFw (fun k => { k with stepFour := true }) (setB F.LC_START_FAST true (upTo 12 train (activatePlan s))))

/-- Step 4 has ended (Table 13.1): no port trains or waits for its admission, discovery has ended, and the time base has left ACQUIRE. -/
def fourEnded (s : State) : Bool :=
  ((List.range 12).all fun p => pState s p != 1 && pState s p != 2) && (s.fw.plan.isNone || s.fw.floods) && sync s != syAcquire

/-- The cores that become active, in the order of R25: the 16 lowest-numbered good cores that are not designated spares (R361). -/
def activeCores (s : State) (bad : List Nat) : List Nat :=
  let good := allCores.filter fun c => coreGood s c && !bad.contains c
  ((good.filter fun c => !getBit s F.LC_CORE_FUSE_DSPARE c) ++ good.filter fun c => getBit s F.LC_CORE_FUSE_DSPARE c).take 16

/-- Writes CORE_MAP: logical core `i` is physical core `l[i]`. -/
def writeMap (l : List Nat) (s : State) : State :=
  each (l.zipIdx) (fun (p : Nat × Nat) s => fwWrite (F.GLB_CORE_MAP_VALID p.2) 1 (fwWrite (F.GLB_CORE_MAP_PHYS p.2) p.1 s)) s

/-- Firmware raises the anti-rollback level of the fuses to its own security level, when its header asks for it (R362). -/
def raiseLevel (s : State) : State :=
  let c := runCopy s.fw.boot
  when (c.asks && decide (s.phys.rollback < c.level)) (updPhys fun q => { q with rollback := c.level }) s

/-- Step 5: the erase that is pending, when the temperature allows it; then microcode, CORE_MAP, cores IDLE, NORMAL. A core that fails its
microcode check is fenced and logged (R361). -/
def start5 (x : StartIn) (s0 : State) : State :=
  if eraseWaits s0 then s0 else
  let s := runErase (x.eraseFailed.map fun p => (p.1.val, p.2.val)) (updFw (fun k => { k with stepFour := false }) s0)
  let bad := x.mcodeBad.map fun c => c.val
  let good := allCores.filter fun c => coreGood s c && coreState s c == cReset
  let ok := good.filter fun c => !bad.contains c
  let ver := (runCopy s.fw.boot).ver
  let s1 := each ok (fun c s => takeMicrocode c ver true (reretire c (setCoreState c cIdle s))) s
  let s2 := each (good.filter fun c => bad.contains c) (fun c s => logRec [6, c] (setCoreState c cFenced s)) s1
  if ok.length < 16 then failStart 9 ok.length 5 s2
  else
    s2 |> writeMap ((activeCores s2 bad).mergeSort fun a b => decide (a ≤ b)) |> set F.GLB_MODE_MODE 1 |> set F.TEL_CHSEL_MASK 0xFFFF
       |> updBoot (fun b => { b with attempts := 0, reason := 0, detail := 0, step := 5 }) |> showStart
       |> raiseLevel |> updFw fun k => { k with phase := .up }

/-- The step of the start order that is due. No step begins before the one above it has ended, and a failure of a port ends nothing. -/
def startStep (n : Nat) (x : StartIn) (s : State) : State :=
  if n = 5 && s.fw.stepFour && !fourEnded s then s else
  match failedStack s, x.fail with
  | some k, _ => failStart 7 (32 * k + get s (F.STK_STAT_FAIL_CH k)) 3 s
  | none, some f => if n = 4 then start4 x s else failStep f.1.toNat f.2.toNat n s
  | none, none =>
    if n = 0 then start0 x s else if n = 1 then start1 x s else if n = 2 then start2 s else if n = 3 then start3 x s
    else if n = 4 then start4 x s else start5 x s

/-- PACKAGE_START: the step that is due runs, or fails. A failed port does not fail step 4. -/
def execPackageStart (x : StartIn) (s : State) : Host.Outcome State Fault Refusal :=
  match s.fw.phase with
  | .step n => .next (startStep n x s)
  | _ => .next s

/-- A step exceeds its limit: the start goes on after step 4, and fails at every other one, with STEP_TIME where no other cause shows. -/
def lateStep (n : Nat) (s : State) : State :=
  if n = 4 then toStep 5 (activatePlan s)
  else if n = 5 && s.fw.stepFour then updFw (fun k => { k with stepFour := false }) s
  else match failedStack s with
    | some k => failStart 7 (32 * k + get s (F.STK_STAT_FAIL_CH k)) 3 s
    | none => failStart 0xE n n s

/-- START_STEP_TIMEOUT: the step that is under way exceeds its limit. -/
def execStartStepTimeout (s : State) : Host.Outcome State Fault Refusal :=
  match s.fw.phase with
  | .step n => .next (lateStep n s)
  | _ => .next s

/-! ### Cold resets -/

/-- SYS_RST_ASSERT: SYS_RST_N has been low for 1 ms; the power-off request is released (R434, R436). -/
def execSysRstAssert (s : State) : Host.Outcome State Fault Refusal := .next (coldReset F.LC_RST_CAUSE_PIN { s with pwroff := false })

/-- POWER_ON_DETECT: VDD_AON falls below its threshold, which holds the package in cold reset, or rises above it, which releases it
(R442). -/
def execPowerOnDetect (up : Bool) (s : State) : Host.Outcome State Fault Refusal :=
  let s1 := coldReset F.LC_RST_CAUSE_POWER_ON { s with pwroff := false }
  if up then (if s.fw.phase = .held then .next s1 else .next s)
  else .next (updFw (fun k => { k with phase := .held }) (setB F.LC_RST_CAUSE_POWER_ON false s1))

/-- LC_RST_COLD: LC_RST with SCOPE = COLD. A package that is shut down stays so (R371). -/
def execLcRstCold (a : Agent) (s : State) : Host.Outcome State Fault Refusal :=
  match a with
  | .host => .next (denied s)
  | .mgmt => if s.fw.phase = .shut then .next s else .next (coldReset F.LC_RST_CAUSE_INTERNAL s)

/-- WATCHDOG_EXPIRE: TIMEOUT_MS after the last kick; 0 turns it off. Before NORMAL it fails the start with WATCHDOG. -/
def execWatchdogExpire (s : State) : Host.Outcome State Fault Refusal :=
  let t := get s F.LC_WDOG_TIMEOUT_MS
  if t = 0 then .next s
  else
    let s1 := match s.fw.phase with
      | .step n => logRec [1, 0xB, n, n] (updBoot (fun b => { b with reason := 0xB, detail := n, step := n }) s)
      | _ => s
    .next (coldReset F.LC_RST_CAUSE_WATCHDOG (moveTo (s.fw.wdogAt + t * 1000000) s1))

/-- WATCHDOG_KICK: LC_WDOG.KICK is written 1. -/
def execWatchdogKick (a : Agent) (s : State) : Host.Outcome State Fault Refusal :=
  match a with
  | .host => .next (denied s)
  | .mgmt => .next (updFw (fun k => { k with wdogAt := now s }) s)

/-- REFCLK_LOSS (R445). -/
def execRefclkLoss (k : RefClock) (s : State) : Host.Outcome State Fault Refusal :=
  match k with
  | .core => match s.fw.phase with
    | .step n => if n < 2 then .next s else if n = 2 then .next (failStart 4 0 2 s) else .next (coldReset F.LC_RST_CAUSE_WATCHDOG s)
    | .held => .next s
    | _ => .next (coldReset F.LC_RST_CAUSE_WATCHDOG s)
  | .sdWest => .next (upTo 6 (fun p s => if pState s p = 1 then setP p 6 (dropLink p s) else s) s)
  | .sdEast => .next (upTo 6 (fun p s => if pState s (p + 6) = 1 then setP (p + 6) 6 (dropLink (p + 6) s) else s) s)
  | .px => .next (linkGone s)

/-! ### Warm package reset (R372, R374, R377) -/

/-- Commands that go on through a warm package reset (R377). -/
def survives (op : Nat) : Bool := [0x0101, 0x0103, 0x0A01, 0x0B01, 0x0B03, 0x0D01, 0x0D02].contains op

/-- Every other PENDING command ends with CORE_RESET. -/
def endAll (s : State) : State := each (s.fw.pends.filter fun p => !survives p.opcode) (fun p s => endPend p 0x12 [] s) s

/-- A warm package reset starts: every unit stops at once, and the ports are down (R374). -/
def startWarm (s : State) : State :=
  let stop := fun c s => stopUnits c (if coreRuns s c then abandonTick c s else s)
  let down := upTo 12 (fun p s => setP p 0 (dropLink p s)) (updFw (fun k => { k with floods := false }) s)
  let s1 := each allCores stop (endAll (bump F.LC_WARM_RST_CNT down))
  let s2 := each (allCores.filter fun c => coreUp s1 c) (fun c s => updCore c (fun k => { k with draining := true }) (setCoreState c cReset s)) s1
  updFw (fun k => { k with phase := .drain }) s2

/-- The warm reset proceeds: compute domains, network plane and stacks; safe state ends; the partitions of the package are gone; the
start begins at step 2. -/
def proceedWarm (s : State) : State :=
  let s1 := netReset (computeReset s)
  let s2 := each allCores (fun c s => updCore c (fun k => { k with draining := false }) s) s1
  let s3 := { s2 with flt := { s2.flt with pulsed3 := false, pulsed4 := false } }
  s3 |> setB F.FLT_STAT_SAFE false |> updPin |> set F.GLB_MODE_MODE 0 |> setB F.MBX_CTL_MINIMAL false |> setB F.LC_START_MINIMAL false
     |> updFw (fun k => { k with
          phase := .step 2
          parts := []
          models := k.models.map fun (m : Model) => { m with golden := false, bound := false }
          placed := none
          retryAt := []
          watches := []
          asks := []
          displaced := []
          suspects := []
          deferAt := []
          lowW := false
          lowE := false })

/-- LC_RST_WARM: LC_RST with SCOPE = WARM. A package that is shut down stays so (R371). -/
def execLcRstWarm (a : Agent) (s : State) : Host.Outcome State Fault Refusal :=
  match a with
  | .host => .next (denied s)
  | .mgmt => if s.fw.phase = .drain || s.fw.phase = .shut then .next s else .next (startWarm s)

/-- Requests of any core are still in the mesh or the stacks. -/
def anyInFlight (s : State) : Bool := allCores.any (coreInFlight s)

/-- RESET_DRAIN_DONE of a core's reset, or (none) of a warm package reset. -/
def execResetDrainDone (c : Option CoreIx) (s : State) : Host.Outcome State Fault Refusal :=
  match c with
  | some c => if (core s c).draining && !coreInFlight s c then .next (proceedReset c s) else .next s
  | none => if s.fw.phase = .drain && !anyInFlight s then .next (proceedWarm s) else .next s

/-- DRAIN_TIMEOUT: the drain reaches 20 µs and is counted. -/
def execDrainTimeout (c : Option CoreIx) (s : State) : Host.Outcome State Fault Refusal :=
  match c with
  | some c => if (core s c).draining then .next (proceedReset c (bump F.LC_DRAIN_TMO_CNT s)) else .next s
  | none => if s.fw.phase = .drain then .next (proceedWarm (bump F.LC_DRAIN_TMO_CNT s)) else .next s

/-! ### Cluster reset -/

/-- The reset of those cores of a cluster that are IDLE, RUNNING or FENCED (R372, Table 6.20). -/
def resetCluster (k : Nat) (s : State) : State :=
  let cs := (List.range 5).map fun i => 5 * k + i
  let hit := cs.filter fun c => coreGood s c && (coreState s c == cIdle || coreState s c == cRunning || coreState s c == cFenced)
  each hit (fun c s => startReset c (bump F.LC_CORE_RST_CNT s)) (bump F.LC_CLUSTER_RST_CNT s)

/-- LC_RST_CLUSTER: LC_RST with SCOPE = CLUSTER. -/
def execLcRstCluster (a : Agent) (k : Fin 4) (s : State) : Host.Outcome State Fault Refusal :=
  match a with
  | .host => .next (denied s)
  | .mgmt => if s.fw.phase = .shut then .next s else .next (resetCluster k s)

/-! ### Self-test (R368 to R370) -/

/-- The covered logic is idle: no core has work, a steep batch, a calibration command or a pass under way; nothing is in the mesh, in the
stacks or in the queues of the ports, and no bank drains or wakes. -/
def logicIdle (s : State) : Bool :=
  (allCores.all fun c => !coreUp s c || (coreState s c == cIdle && (core s c).running.isNone && (core s c).calCmd.isNone &&
    !flag s (F.CAL_STATUS_PASS_BUSY c))) && s.mesh.isEmpty && (s.stks.all fun k => k.2.merges.isEmpty && k.2.bank.isNone) &&
    s.ports.all fun p => p.2.ingress.isEmpty && p.2.egress.isEmpty && p.2.replay.isEmpty

/-- BIST_RUN: LC_BIST_CTL.RUN is written 1. In FACTORY_TEST every agent starts the test; else only firmware, at shutdown or in step 1a, which
PACKAGE_START performs; in SCRAPPED it does not run (R369). -/
def execBistRun (a : Tester) (s : State) : Host.Outcome State Fault Refusal :=
  let st := get s F.LC_STATE_STATE
  if st ≠ 1 && a = .host then .next (denied s)
  else if (st = 1 || (st ≠ 5 && a = .mgmt && s.fw.phase = .shut)) && logicIdle s then .next (set F.LC_BIST_STAT_STATE 1 s)
  else .next s

/-- BIST_DONE: the run ends; the scan has destroyed the state of the logic it covers. A failure during the start ends it. -/
def execBistDone (o : BistOut) (s : State) : Host.Outcome State Fault Refusal :=
  if get s F.LC_BIST_STAT_STATE ≠ 1 then .next s
  else
    let s1 := bistEnd o (computeReset (netReset s))
    match s.fw.phase with
    | .step n => if o.pass then .next s1 else .next (failStart 3 o.failDom.toNat n s1)
    | _ => .next s1

/-- POWERED_TIME_SAVE: every 600 s the powered time goes to the boot block (R369). -/
def execPoweredTimeSave (s : State) : Host.Outcome State Fault Refusal :=
  .next (updBoot (fun b => { b with base := s.fw.ptStart + ((now s : Int) - s.time.upOfs).toNat / 1000000000 }) s)

/-- IDCODE of the test access port, by stepping (R447). -/
def idcode (s : State) : Nat := if get s F.GLB_ID_STEPPING = 0xB1 then 0x109404B7 else 0x209404B7

/-- What the data register of the test access port captures: IDCODE from Test-Logic-Reset on, until another instruction is loaded. -/
def tapReads (s : State) : Option Nat := if s.tap.testLogicReset || s.tap.selectsIdcode then some (idcode s) else none

/-- The life-cycle states in which JTAG does more than boundary scan (Table 13.9). -/
def jtagRights (s : State) : Bool := [0, 1].contains (get s F.LC_STATE_STATE)

/-- JTAG_FUSE_PROGRAMMING: a BLANK device becomes FACTORY_TEST (Table 13.10), within the rights of JTAG (R447). The port has then left
Test-Logic-Reset, and IDCODE is no longer selected. -/
def execJtagFuseProgramming (s : State) : Host.Outcome State Fault Refusal :=
  if jtagRights s && get s F.LC_STATE_STATE = 0 then
    .next ({ s with tap := { testLogicReset := false, selectsIdcode := false } } |> set F.LC_STATE_STATE 1 |> setB F.LC_STATE_FI_EN true |> set F.LC_STATE_SLOTS (get s F.LC_STATE_SLOTS + 1))
  else .next s

end Sys2Proof.Machine
end

