-- ==== Sys2Proof/Machine/Weights.lean ====
section
/-! DEFINITION. Model images, golden copies, steeps by firmware, rotations and suspect arrays (R85 to R90, R141, R156 to R173, R402, R405). -/
namespace Sys2Proof.Machine

/-! ### Models -/

/-- Physical core of a logical core, as firmware wrote it. -/
def mapPhys (s : State) (l : Nat) : Option Nat := if get s (F.GLB_CORE_MAP_VALID l) = 1 then some (get s (F.GLB_CORE_MAP_PHYS l)) else none

/-- Logical core of a physical core. -/
def logOf (s : State) (c : Nat) : Option Nat := (List.range 16).find? fun l => mapPhys s l == some c

/-- Version of the running firmware. -/
def fwVer (s : State) : Nat := get s F.GLB_FW_VER_BUILD + 65536 * get s F.GLB_FW_VER_MINOR + 2 ^ 24 * get s F.GLB_FW_VER_MAJOR

/-- The device identity (R5). -/
def deviceId (s : State) : Nat := get s F.GLB_DEV_ID_ID

/-- The model of a handle. -/
def modelOf (s : State) (h : Nat) : Option Model := s.fw.models.find? fun m => m.handle == h

/-- Changes a model. -/
def updModel (h : Nat) (f : Model → Model) (s : State) : State :=
  updFw (fun k => { k with models := k.models.map fun m => if m.handle = h then f m else m }) s

/-- Two ranges of the stacks meet. -/
def rangesMeet (a n b m : Nat) : Bool := decide (a < b + m) && decide (b < a + n)

/-- What a part holds in the stacks: 320 MiB for each logical core, and the digest table (R159). -/
def partRanges (g : Image) : List (Nat × Nat) :=
  (g.dig, 48 * 2560 * g.cores.length) :: g.cores.map fun k => (k.base * recSize, 2560 * recSize)

/-- The parts whose regions are taken: those of the model table, and one whose load has placed its copy. -/
def takenParts (s : State) : List Image := (s.fw.models ++ s.fw.placed.toList).map fun m => m.img

/-- The same part of the same image. -/
def samePart (a b : Image) : Bool := a.id == b.id && a.digest == b.digest && a.part == b.part

/-- Parts of one layer-reload image that the arrays hold in turn (R173). -/
def inTurn (a b : Image) : Bool := a.id == b.id && a.digest == b.digest && decide (1 < a.rounds) && decide (1 < b.rounds) && a.round != b.round

/-- Check 8 of Table 5.9: the logical cores exist, the regions lie in the management windows and are free, the slots are free; and the model
table has room. -/
def roomFor (s : State) (g : Image) : Bool :=
  let others := (takenParts s).filter fun o => !samePart o g
  decide (((s.fw.models.filter fun m => !samePart m.img g)).length < 16) && (g.cores.all fun k => (mapPhys s k.lcore).isSome) &&
    ((partRanges g).all fun r => decide (r.1 + r.2 ≤ lineCount * 512) && mwinRange s r.1 r.2 true) &&
    others.all fun o => ((partRanges g).all fun r => (partRanges o).all fun q => !rangesMeet r.1 r.2 q.1 q.2) &&
      (inTurn o g || g.cores.all fun k => o.cores.all fun j => j.lcore != k.lcore || k.slots.all fun p => j.slots.all fun q => p.1 != q.1)

/-- The key block holds this device, and the content key unwraps (R162, R379). -/
def keyOk (s : State) (x : ImgIn) (p : Parsed) : Bool :=
  !s.fw.keyOff && p.keys.any fun e => e.dev == deviceId s && unwraps p.img.id.toNat e x.key

/-- The first failure of checks 3 to 8 of Table 5.9. -/
def imageEarly (s : State) (x : ImgIn) (p : Parsed) : Option Nat :=
  if !imageRoot s p.signed || !signatureOk p.signed x.nonce then some 6
  else if fwVer s < p.minFw then some 4
  else if !keyOk s x p || !p.table then some 6
  else if !roomFor s p.img then some 7
  else none

/-- The slot digests of a part's plaintext, in order (R159). -/
def textDigests (g : Image) (text : List Byte) : List (List Byte) :=
  (records g).zipIdx.map fun p => slotDigest (slotHdr p.1) (recText text p.2)

/-- The first failure of checks 9 and 10. -/
def imageLate (x : ImgIn) (p : Parsed) : Option Nat :=
  let text := imageText p x.key
  if !p.chunks.all (tagOk p.img.id.toNat p.prefix_ x.key) || text.length ≠ recCount p.img * recSize then some 6
  else if !(records p.img).zipIdx.all (fun (r : GRec × Nat) => codesOk r.1.w2 (recText text r.2)) then some 3
  else if twoLevel (textDigests p.img text) ≠ p.img.partDigest.toNat then some 6
  else none

/-- The first failure of checks 3 to 10 of Table 5.9. -/
def imageFault (s : State) (x : ImgIn) (p : Parsed) : Option Nat :=
  match imageEarly s x p with
  | some st => some st
  | none => imageLate x p

/-- The in-stack row clear of a part's golden regions and digest table (R164, R167). -/
def clearGolden (g : Image) (s : State) : State := each (partRanges g) (fun r s => mcClear r.1 r.2 s) s

/-- A failure at check 9 or 10 clears the golden region of the part (R164). -/
def dropGolden (x : ImgIn) (p : Parsed) (s : State) : State :=
  if (imageEarly s x p).isSome then s
  else updFw (fun k => { k with models := k.models.map fun m => if samePart m.img p.img then { m with golden := false } else m })
    (clearGolden p.img s)

/-- The image comes into the staging region of the stacks: by DMA from a buffer of function `f`, or from a remote pool; one that the host has staged through
BAR4 is there (R163). The management core reads it from there, within its windows (R246). Gives 0, or the status of
the first line that could not be written, BANK_OFF among them (R254), or POISONED; the bytes read are otherwise those of the operand. -/
def stageImage (f : Nat) (x : ImgIn) (s : State) : Nat × State :=
  let w := if x.src.kind = 0 then dmaIn f x.stage.toNat x.bytes s
    else if x.src.kind = 1 then (0, s)
    else
      let r := writeSpan 35 x.stage.toNat x.bytes s
      (match r.1 with | some e => e.2 | none => 0, r.2)
  let r := mcRead x.stage.toNat x.bytes.length w.2
  (if w.1 ≠ 0 then w.1 else if r.1.2 then 0x17 else 0, r.2)

/-- The image engine writes the golden region and the digest table of a part (R159, R163). -/
def placeGolden (g : Image) (text : List Byte) (s : State) : State :=
  each (records g).zipIdx (fun (p : GRec × Nat) s =>
    mcWrite p.1.dig (slotDigest (slotHdr p.1) (recText text p.2)) (mcWrite p.1.addr (recText text p.2) s)) s

/-- A line of a golden record is POISONED. -/
def goldMarked (s : State) (a : Nat) : Bool := (List.range 256).any fun i => linePoison s (a / 512 + i)

/-- A steep engine reads a golden record, each line against the regions of its core (R245). -/
def readGold (c a : Nat) (s : State) : (List Byte × Bool) × State := unitReads c a 256 s

/-- No golden record of a list holds a POISONED line; one that does is fetched again before firmware goes on (R160). -/
def goldClean (s : State) (l : List GRec) : Bool := l.all fun r => !goldMarked s r.addr

/-! ### Steeps by firmware -/

/-- Key of an array. -/
def akey (c n : Nat) : Nat := c * 2624 + n
/-- Cycle count of an array. -/
def cyclesOf (s : State) (c n : Nat) : Nat := SMap.get 0 s.fw.cycles (akey c n)

/-- One program cycle of a steep, or of an erase (R155, R156). -/
def spend (c n : Nat) (steep : Bool) (s : State) : State :=
  when steep (steepedNow (akey c n)) (updFw (fun k => { k with cycles := SMap.put 0 k.cycles (akey c n) (SMap.get 0 k.cycles (akey c n) + 1), steepAt := if steep then SMap.put 0 k.steepAt (akey c n) (now s) else k.steepAt }) s)

/-- A source of firmware's own, in its log, in a FAULT notice and on the management network (R386). -/
def fwReport (src c : Nat) (s : State) : State :=
  notify 5 none (natLe 1 0xFF ++ natLe 1 src ++ natLe 2 c ++ zeros 4 ++ natLe 8 (now s)) (logRec [5, now s, src, c] s)

/-- Retires an array, with the reason: it serves no slot any more (R87, R157, R404; Table 12.8). -/
def retireArr (c n status : Nat) (s : State) : State :=
  notify 10 none (natLe 1 c ++ zeros 1 ++ natLe 2 n ++ natLe 1 status)
    (updFw (fun k => { k with retired := NSet.add k.retired (akey c n) })
      (when (get s (F.ARR_CTL_SLOT c n) != 0xFFF) (fwWrite (F.ARR_CTL_SLOT c n) 0xFFF) (set (F.ARR_STAT_STATE c n) 5 s)))

/-- The format of a steeped array, which a boundary has made active by the time firmware goes on. -/
def steepFmt (c n : Nat) (w2 : Bool) (s : State) : State :=
  let v := if w2 then 1 else 0
  when (flag s F.TB_STAT_TICK_ON) (setAct (F.ARR_CTL_FMT c n) v) (shadowHw (F.ARR_CTL_FMT c n) v s)

/-- OP = ARRAY with TARGET = 0 (R139), after what a pass has reached by now (R135). -/
def calArrayNow (c n : Nat) (s : State) : State := runCal c { op := 2, set := 0, target := false, arr := some n } (catchUp c s)

/-- Steeps an array from a record and, once its new state is active, calibrates it (R139, R149, R150); a failed verify erases it. -/
def steepArr (c n : Nat) (w2 fail : Bool) (rec_ : List Byte) (s : State) : State :=
  let s1 := spend c n true s
  if fail then forgetCal c n (setArr c n 1 (eraseCells c n s1))
  else calArrayNow c n (forgetCal c n (setArr c n 4 (steepFmt c n w2 (programCells c n w2 rec_ s1))))

/-- Erases an array; one that fails its verify is retired (R151). An array at its limit is retired and not erased (R157). -/
def eraseArr (c n : Nat) (fail : Bool) (s : State) : State :=
  if 100000 ≤ cyclesOf s c n then retireArr c n 0x32 s
  else
    let s1 := spend c n false s
    if fail then retireArr c n 0x33 (setUndef c n true (eraseCells c n s1)) else changeArr c n 1 (eraseCells c n s1)

/-- What identifies an entry of the model table: image and part. -/
def tableKey (g : Image) : Nat := 1 + g.id.toNat + 2 ^ 128 * g.part

/-- The index in the model table of an image's part: its entry, or the lowest that no part had, or the lowest whose part is gone. -/
def tableIx (s : State) (g : Image) : Nat :=
  let has := fun i => SMap.get 0 s.fw.table i
  let live := (takenParts s).map tableKey
  match (List.range 16).find? fun i => has i == tableKey g with
  | some i => i
  | none => match (List.range 16).find? fun i => has i == 0 with
    | some i => i
    | none => ((List.range 16).find? fun i => !live.contains (has i)).getD 0

/-- The part enters the model table at its index; what arrays still hold of a part that gives way is known no more. -/
def enterTable (g : Image) (s : State) : State :=
  let i := tableIx s g
  let keep := fun (p : Nat × Nat) => p.2 % 256 != (i + 1) % 256
  if SMap.get 0 s.fw.table i = tableKey g then s
  else updFw (fun k => { k with table := SMap.put 0 k.table i (tableKey g), content := k.content.filter keep }) s

/-- The content word of an array, plus 1 (Table 5.5): index in the model table in bits 7 to 0, slot last steeped from bit 8 on. -/
def contentOf (ix slot : Nat) : Nat := 1 + ix + 2 ^ 8 * slot

/-- Notes what an array holds. -/
def noteContent (c n ix slot : Nat) (s : State) : State :=
  updFw (fun k => { k with content := SMap.put 0 k.content (akey c n) (contentOf ix slot) }) s

/-- Good arrays of a core, in ascending order (R85). -/
def goodArrays (s : State) (c : Nat) : List Nat := (List.range 2624).filter fun n => arrState s c n != 0

/-- The slot map has no array for any slot of a logical core. -/
def mapEmpty (s : State) (l : Nat) : Bool := (List.range 2560).all fun t => SMap.get 0 s.fw.slotMap (l * 2560 + t) == 0

/-- The first start of a core: slots 0 to 2,559 go to its good arrays in ascending order (R85). -/
def assignSlots (c l : Nat) (s : State) : State :=
  if !mapEmpty s l then s
  else
    let m := ((goodArrays s c).take 2560).zipIdx.foldl (fun m p => SMap.put 0 m (l * 2560 + p.2) (p.1 + 1)) s.fw.slotMap
    updFw (fun k => { k with slotMap := m }) s

/-- The slot map holds the array for a slot of a logical core. -/
def inMap (s : State) (l n : Nat) : Bool := (List.range 2560).any fun t => SMap.get 0 s.fw.slotMap (l * 2560 + t) == n + 1

/-- An array of a core is a spare: it serves no slot and has none in the slot map (R85), and is not retired. -/
def isSpare (s : State) (c n : Nat) : Bool :=
  get s (F.ARR_CTL_SLOT c n) == 0xFFF && !NSet.has s.fw.retired (akey c n) && !inMap s ((logOf s c).getD 16) n

/-- The lowest EMPTY spare (R87). -/
def emptySpare (s : State) (c : Nat) : Option Nat := (List.range 2624).find? fun n => arrState s c n == 1 && isSpare s c n

/-- The lowest spare of a core: EMPTY, else UNVERIFIED, as all are after a reset. -/
def spareOf (s : State) (c : Nat) : Option Nat :=
  match emptySpare s c with
  | some n => some n
  | none => (List.range 2624).find? fun n => arrState s c n == 3 && isSpare s c n

/-- The array that the slot map gives a slot. -/
def arrayFor (s : State) (l t : Nat) : Option Nat :=
  match SMap.get 0 s.fw.slotMap (l * 2560 + t) with
  | 0 => none
  | n + 1 => some n

/-- The slot map takes an array for a slot, and its format (Table 5.5). -/
def noteSlot (l t n : Nat) (w2 : Bool) (s : State) : State :=
  updFw (fun k => { k with
    slotMap := SMap.put 0 k.slotMap (l * 2560 + t) (n + 1)
    slotFmt := if w2 then NSet.add k.slotFmt (l * 2560 + t) else NSet.del k.slotFmt (l * 2560 + t) }) s

/-- Maps a slot onto an array. -/
def mapSlot (c l t n : Nat) (w2 : Bool) (s : State) : State :=
  s |> noteSlot l t n w2 |> fwWrite (F.ARR_CTL_SLOT c n) t |> fwWrite (F.ARR_CTL_FMT c n) (if w2 then 1 else 0)

/-- What a piece of work that steeps slots is: the part's index in the model table, the cycle count at which an array is not steeped any more
(R157, R173), the arrays that fail verify, and whether an array is read back only when its last content names the slot (R165) or always
(R168). -/
structure SlotJob where
  ix : Nat
  lim : Nat
  failed : List (Nat × Nat)
  byContent : Bool

/-- The READBACK of an array gives the slot's golden digest (R165, R168). -/
def matchesGold (s : State) (c n : Nat) (r : GRec) (g : List Byte) : Bool :=
  (arrState s c n == 3 || arrState s c n == 4) && slotDigest (slotHdr r) (sensedRecord s c n r.w2) == slotDigest (slotHdr r) g

/-- What became of the work on one slot, and its array: 0 steeped, 1 kept, 2 remapped onto a spare, which the slot map takes at once, 3 no
array left, 4 the core's temperature does not allow a steep yet (R154), 5 an array at the reload reserve (R173). -/
def loadSlot (c : Nat) (j : SlotJob) (r : GRec) (g : List Byte) : Nat → Option Nat → Bool → State → (Nat × Nat) × State
  | 0, _, _, s => ((3, 0), s)
  | fuel + 1, cand, moved, s =>
    match cand with
    | none => ((3, 0), s)
    | some n =>
      let ours := SMap.get 0 s.fw.content (akey c n) = contentOf j.ix r.slot || !j.byContent
      if NSet.has s.fw.retired (akey c n) then loadSlot c j r g fuel (spareOf s c) true s
      else if ours && !moved && matchesGold s c n r g then ((1, n), s)
      else if 100000 ≤ cyclesOf s c n then
        let s1 := retireArr c n 0x32 s
        loadSlot c j r g fuel (spareOf s1 c) true s1
      else if j.lim ≤ cyclesOf s c n then ((5, n), s)
      else if !windowOk s c then ((4, n), s)
      else
        let bad := j.failed.contains (c, n)
        let s1 := steepArr c n r.w2 bad g s
        if bad then
          let s2 := retireArr c n 0x33 s1
          loadSlot c j r g fuel (spareOf s2 c) true s2
        else ((if moved then 2 else 0, n), when moved (noteSlot r.l r.slot n r.w2) s1)

/-- What became of the slots of a part: arrays steeped, kept and remapped; cores on which a slot found no array; whether some slot waits; the
slots that have their arrays, with core and array. -/
structure SlotsDone where
  steeped : Nat
  kept : Nat
  remapped : Nat
  lost : List Nat
  waits : Bool
  done : List (GRec × Nat × Nat)
  deriving DecidableEq, Repr

/-- Nothing yet. -/
def SlotsDone.none : SlotsDone := { steeped := 0, kept := 0, remapped := 0, lost := [], waits := false, done := [] }

/-- Counts an outcome on core `c` for a record. -/
def SlotsDone.add (k : SlotsDone) (c : Nat) (r : GRec) (o : Nat × Nat) : SlotsDone :=
  let d := k.done ++ [(r, c, o.2)]
  match o.1 with
  | 0 => { k with steeped := k.steeped + 1, done := d }
  | 1 => { k with kept := k.kept + 1, done := d }
  | 2 => { k with steeped := k.steeped + 1, remapped := k.remapped + 1, done := d }
  | 4 => { k with waits := true }
  | _ => { k with lost := k.lost ++ [c] }

/-- Works through the slots of a part (R165, R168). A slot left without array is reported as R404 says (R89, R157). A slot whose core is off or
in reset, or whose golden record its steep engine reads POISONED, waits (R43, R160). -/
def loadSlots (j : SlotJob) : List GRec → SlotsDone → State → SlotsDone × State
  | [], k, s => (k, s)
  | r :: rs, k, s =>
    match (mapPhys s r.l).filter (coreUp s) with
    | none => loadSlots j rs { k with waits := true } s
    | some c =>
      let g := readGold c r.addr s
      if g.1.2 then loadSlots j rs { k with waits := true } g.2
      else
        let a := loadSlot c j r g.1.1 66 (arrayFor g.2 r.l r.slot) false g.2
        loadSlots j rs (k.add c r a.1) (if a.1.1 = 3 then fwReport 0x21 c a.2 else a.2)

/-- The slots that have their arrays are recorded, mapped, and VERIFIED (R165, R168). -/
def finishSlots (ix : Nat) (l : List (GRec × Nat × Nat)) (s : State) : State :=
  each l (fun p s => arrCmd p.2.1 p.2.2 1 (noteContent p.2.1 p.2.2 ix p.1.slot (mapSlot p.2.1 p.1.l p.1.slot p.2.2 p.1.w2 s))) s

/-- Physical cores of a part. -/
def partPhys (s : State) (g : Image) : List Nat := uniq (g.cores.filterMap fun k => mapPhys s k.lcore)

/-- A part is bound: PROOF_GOLD_BASE of its cores (R159). -/
def bindModel (m : Model) (s : State) : State :=
  updModel m.handle (fun m => { m with bound := true }) (each m.img.cores (fun k s =>
    match mapPhys s k.lcore with
    | some c => fwSet (F.PROOF_GOLD_BASE_BASE c) k.base s
    | none => s) s)

/-- A core of the part runs a tick program. -/
def partBusy (s : State) (g : Image) : Bool := (partPhys s g).any (runsOrPend s)

/-- A whole pass, for which firmware waits (R134, R141). -/
def wholePass (c : Nat) (s : State) : State :=
  let t := passTemp s c
  each ((List.range 2624).filter fun n => arrState s c n != 0) (passArray c (sgn 16 t) (now s)) s
    |> set (F.CAL_TEMP_T_APPLIED c) t |> bump (F.CAL_PASS_CNT c)

/-- What firmware runs before it moves an array of a core out of UNVERIFIED (R141), once after each reset: the sets come back from flash, the
configuration is written again, INTERP starts a pass, OP = FULL with TARGET = 0 runs, and a further pass follows. -/
def calRestore (c : Nat) (s : State) : State :=
  if (core s c).restored || !coreUp s c then s
  else
    let a := c * 2 ^ 20
    let own := s.fw.calFlash.filter fun p => decide (a ≤ p.1) && decide (p.1 < a + 2 ^ 20)
    let s1 := { s with mem := { s.mem with cal := own.foldl (fun m p => SMap.put 0 m p.1 p.2) s.mem.cal } }
    let again := fun (f : Fld) (s : State) => match SMap.get 0 s.fw.calCfg f.key with | 0 => s | v + 1 => fwWrite f v s
    let s2 := wholePass c (setB (F.CAL_CTL_INTERP c) true (each (calFields c) again s1))
    updCore c (fun k => { k with restored := true }) (writeSigma c (wholePass c (runCal c { op := 1, set := 0, target := false, arr := none } s2)))

/-- The sets of a core go to flash. -/
def calKeep (c : Nat) (s : State) : State :=
  let a := c * 2 ^ 20
  let rest := SMap.erase s.fw.calFlash a (a + 2 ^ 20)
  let own := s.mem.cal.filter fun p => decide (a ≤ p.1) && decide (p.1 < a + 2 ^ 20)
  updFw (fun k => { k with calFlash := own.foldl (fun m p => SMap.put 0 m p.1 p.2) rest }) s

/-! ### After a start (R168, R169) -/

/-- A source cannot supply the image: the host gets IMAGE_NEEDED; a pool source is asked again 10 s later (R169). -/
def imageNeeded (m : Model) (s : State) : State :=
  let s1 := notify 1 none (natLe 4 m.handle ++ natLe 16 m.img.id.toNat) s
  if m.img.src.kind = 2 then updFw (fun k => { k with retryAt := SMap.put 0 k.retryAt m.handle (now s + 10000000000 + 1) }) s1 else s1

/-- The arrays of a model whose golden copy is resident are read back: equal ones are VERIFIED, others are steeped; the model is bound once
every slot has its array (R141, R168). It waits for clean golden records and for its cores. Gives the status. -/
def verifyModel (m : Model) (failed : List (Nat × Nat)) (s : State) : Nat × State :=
  if !goldClean s (records m.img) || !(partPhys s m.img).all (coreUp s) then (0, s)
  else
    let s1 := each m.img.cores (fun k s => match mapPhys s k.lcore with | some c => assignSlots c k.lcore (calRestore c (reretire c s)) | none => s)
      (enterTable m.img s)
    let ix := tableIx s1 m.img
    let r := loadSlots { ix := ix, lim := 100000, failed := failed, byContent := false } (records m.img) SlotsDone.none s1
    let s2 := finishSlots ix r.1.done r.2
    if !r.1.lost.isEmpty then (0x32, s2) else if r.1.waits then (0, s2) else (0, bindModel m s2)

/-- The fetch of a model of the table: `none` when the source cannot supply it. Gives the status. -/
def fetchModel (m : Model) (x : Option ImgIn) (failed : List (Nat × Nat)) (s : State) : Nat × State :=
  match x with
  | none => (0, imageNeeded m s)
  | some x =>
    let x1 := { x with part := m.img.part, bases := m.img.cores.map fun k => BitVec.ofNat 22 k.base, dig := BitVec.ofNat 64 m.img.dig }
    let w := stageImage 0 x1 s
    if w.1 ≠ 0 then w else
    match parseImage x1 with
    | none => (3, w.2)
    | some p =>
      if p.img.digest ≠ m.img.digest || p.img.id ≠ m.img.id then (6, w.2)
      else match imageFault w.2 x1 p with
        | some st => (st, dropGolden x1 p w.2)
        | none =>
          verifyModel m failed (updModel m.handle (fun m => { m with golden := true }) (placeGolden m.img (imageText p x1.key) w.2))

/-- Pairs of core and array as numbers. -/
def pairs (l : List (CoreIx × ArrIx)) : List (Nat × Nat) := l.map fun p => (p.1.val, p.2.val)

/-- Some array of a bound model came out of a reset of its core and is not verified yet (R374). -/
def needsVerify (s : State) (m : Model) : Bool :=
  (partPhys s m.img).any fun c => coreUp s c && !(core s c).restored

/-- Restores a model of the table: after a start it is fetched, checked and verified; with its golden copy resident its arrays are
verified. A failed check is reported. -/
def restoreModel (h : Word) (x : Option ImgIn) (failed : List (CoreIx × ArrIx)) (s : State) : State :=
  match modelOf s h.toNat with
  | none => s
  | some m =>
    if (m.bound && !needsVerify s m) || mode s ≠ 1 || partBusy s m.img then s
    else if m.golden then (verifyModel m (pairs failed) s).2
    else
      let r := fetchModel m x (pairs failed) s
      if r.1 = 0 || r.1 = 0x32 then r.2 else imageNeeded m (logRec [2, m.handle, r.1] r.2)

/-- GOLDEN_RESTORE: a model of the table after a start, with the image that its recorded source supplies. -/
def execGoldenRestore (h : Word) (x : Option ImgIn) (failed : List (CoreIx × ArrIx)) (s : State) : Host.Outcome State Fault Refusal :=
  .next (restoreModel h x failed s)

/-- IMAGE_SOURCE_RETRY: the same for a pool source, 10 s after it could not supply the image. -/
def execImageSourceRetry (h : Word) (x : Option ImgIn) (failed : List (CoreIx × ArrIx)) (s : State) : Host.Outcome State Fault Refusal :=
  match SMap.get 0 s.fw.retryAt h.toNat with
  | 0 => .next s
  | t + 1 => .next (restoreModel h x failed (updFw (fun k => { k with retryAt := SMap.put 0 k.retryAt h.toNat 0 }) (moveTo t s)))

/-- Records of golden text hold the digests that the digest table gives them. -/
def digestsHold (text : List Byte) : List (GRec × Nat) → State → Bool × State
  | [], s => (true, s)
  | p :: ps, s =>
    let d := mcRead p.1.dig 48 s
    let q := digestsHold text ps d.2
    (slotDigest (slotHdr p.1) (recText text p.2) == d.1.1 && q.1, q.2)

/-- A golden record of a list is POISONED (R160), or has not the digest that the digest table gives it (R405), as the management core reads
both. -/
def goldBad : List GRec → State → Bool × State
  | [], s => (false, s)
  | r :: rs, s =>
    let g := mcRead r.addr recSize s
    let d := mcRead r.dig 48 g.2
    let q := goldBad rs d.2
    (g.1.2 || slotDigest (slotHdr r) g.1.1 != d.1.1 || q.1, q.2)

/-- GOLDEN_REFETCH: chunk `i`, 32 records, of a model is fetched again because it holds a POISONED line (R160) or a slot whose digest differs (R405): from its image, with its tag and
the digests of the digest table. -/
def execGoldenRefetch (h : Word) (i : Nat) (x : ImgIn) (s : State) : Host.Outcome State Fault Refusal :=
  match modelOf s h.toNat with
  | none => .next s
  | some m =>
    let rs := ((records m.img).drop (32 * i)).take 32
    let fails := fun s => logRec [2, m.handle, 6] s
    let b := goldBad rs s
    if !m.golden then .next s
    else if !b.1 then .next b.2
    else
      let w := stageImage 0 { x with part := m.img.part } b.2
      match (parseImage { x with part := m.img.part }).filter fun p => w.1 == 0 && p.img.digest == m.img.digest && keyOk s x p with
      | none => .next (fails w.2)
      | some p =>
        match p.chunks[i]? with
        | none => .next (fails w.2)
        | some k =>
          let text := plainOf p.prefix_ x.key k
          let d := digestsHold text rs.zipIdx w.2
          if tagOk p.img.id.toNat p.prefix_ x.key k && d.1 then
            .next (each rs.zipIdx (fun (r : GRec × Nat) s => mcWrite r.1.addr (recText text r.2) s) d.2)
          else .next (fails d.2)

/-! ### Rotations (R170, R402) -/

/-- An array of a core has a re-steep request. -/
def asked (s : State) (c n : Nat) : Bool := getBit s (F.CAL_RESTEEP_REQ c (n / 32)) (n % 32) || NSet.has s.fw.asks (akey c n)

/-- The array holds a slot of a layer-reload image, which every round steeps again (R173). -/
def reloaded (s : State) (c n : Nat) : Bool :=
  s.fw.models.any fun m => decide (1 < m.img.rounds) && (records m.img).any fun r =>
    SMap.get 0 s.fw.content (akey c n) == contentOf (tableIx s m.img) r.slot

/-- The arrays of a core that serve a slot and have a request that is answered. -/
def requests (s : State) (c : Nat) : List Nat :=
  (List.range 2624).filter fun n => asked s c n && get s (F.ARR_CTL_SLOT c n) != 0xFFF && !reloaded s c n

/-- A request is answered. -/
def answered (c n : Nat) (s : State) : State :=
  updFw (fun k => { k with asks := NSet.del k.asks (akey c n) }) (setBit (F.CAL_RESTEEP_REQ c (n / 32)) (n % 32) false s)

/-- The golden record of an array's slot. -/
def slotGold (s : State) (c n : Nat) : Nat := goldAddr s c (get s (F.ARR_CTL_SLOT c n))

/-- Rotates the slot of an array onto a spare; the displaced array waits for its erase, or its test. A request whose golden record reads
POISONED stays. -/
def rotate (c : Nat) (failed : List (Nat × Nat)) (n : Nat) (s : State) : State :=
  let t := get s (F.ARR_CTL_SLOT c n)
  let w2 := get s (F.ARR_CTL_FMT c n) = 1
  match emptySpare s c, logOf s c with
  | some p, some l =>
    if 100000 ≤ cyclesOf s c p then retireArr c p 0x32 s
    else
      let g := readGold c (slotGold s c n) s
      if g.1.2 then g.2
      else if failed.contains (c, p) then retireArr c p 0x33 (steepArr c p w2 true g.1.1 g.2)
      else
        let test := NSet.has s.fw.suspects (akey c n)
        g.2 |> steepArr c p w2 false g.1.1
          |> mapSlot c l t p w2 |> fwWrite (F.ARR_CTL_SLOT c n) 0xFFF |> answered c n
          |> updFw (fun k => { k with
              content := SMap.put 0 k.content (akey c p) (SMap.get 0 k.content (akey c n))
              displaced := SMap.put 0 k.displaced (akey c n) (if test then 2 else 1)
              suspects := NSet.del k.suspects (akey c n) })
  | _, _ => s

/-- A displaced array that serves no slot any more is tested when it was suspect, and erased (R170, R402); one that is in the retired map stays
RETIRED (R172). -/
def dispose (c : Nat) (failed : List (Nat × Nat)) (n : Nat) (s : State) : State :=
  let k := SMap.get 0 s.fw.displaced (akey c n)
  if k = 0 || actv s (F.ARR_CTL_SLOT c n) ≠ 0xFFF then s
  else
    let s1 := updFw (fun f => { f with displaced := SMap.put 0 f.displaced (akey c n) 0, content := SMap.put 0 f.content (akey c n) 0 }) s
    if NSet.has s.fw.retired (akey c n) then s1
    else if k = 2 then
      if 100000 ≤ cyclesOf s1 c n then retireArr c n 0x32 s1
      else if failed.contains (c, n) then retireArr c n 0x33 (forgetCal c n (eraseCells c n (spend c n true s1)))
      else arrCmd c n 4 (eraseArr c n false (forgetCal c n (spend c n true s1)))
    else eraseArr c n (failed.contains (c, n)) s1

/-- RESTEEP_ROTATION: displaced arrays of a core are disposed of, and its requests rotate onto EMPTY spares. -/
def execResteepRotation (c : CoreIx) (failed : List ArrIx) (s : State) : Host.Outcome State Fault Refusal :=
  let f := failed.map fun n => (c.val, n.val)
  if !coreUp s c || !windowOk s c then .next s
  else
    let s1 := upTo 2624 (dispose c f) s
    .next (each ((requests s1 c).take 64) (rotate c f) s1)

/-! ### Suspect arrays (R402, R404) -/

/-- The free PROOF_WATCH entry of a core. -/
def freeWatch (s : State) (c : Nat) : Option Nat :=
  (List.range 8).find? fun i => get s (F.PROOF_WATCH_EN c i) == 0 && !s.fw.watches.any fun w => w.core == c && w.entry == i

/-- Ends the observation of an array. -/
def endWatch (c n : Nat) (s : State) : State :=
  let mine := s.fw.watches.filter fun w => w.core == c && w.arr == n
  updFw (fun k => { k with watches := k.watches.filter fun w => !(w.core == c && w.arr == n) })
    (each mine (fun w s => fwWrite (F.PROOF_WATCH_EN c w.entry) 0 s) s)

/-- A repeat: the array's slot is to be rotated, or the array re-steeped in place. -/
def suspectRepeat (c n : Nat) (s : State) : State :=
  updFw (fun k => { k with asks := NSet.add k.asks (akey c n), suspects := NSet.add k.suspects (akey c n) }) (endWatch c n s)

/-- SUSPECT_OBSERVE: a miss of an array that serves a slot. -/
def execSuspectObserve (c : CoreIx) (n : ArrIx) (s : State) : Host.Outcome State Fault Refusal :=
  let t := actv s (F.ARR_CTL_SLOT c n)
  if !flag s (F.ARR_STAT_SUSPECT c n) || t = 0xFFF then .next s
  else if s.fw.watches.any fun w => w.core == c.val && w.arr == n.val then .next (suspectRepeat c n s)
  else match freeWatch s c with
    | some i =>
      let w : Watch := { core := c, arr := n, slot := t, entry := i, till := get s F.TB_TICK_NUM_K + 100000 * coreDiv s c }
      .next (updFw (fun k => { k with watches := k.watches ++ [w] }) (fwWrite (F.PROOF_WATCH_EN c i) 1 (fwWrite (F.PROOF_WATCH_SLOT c i) t s)))
    | none => .next (suspectRepeat c n s)

/-- SUSPECT_OBSERVATION_END: 100,000 partition ticks have passed with no repeat; CLEAR_SUSPECT. -/
def execSuspectObservationEnd (c : CoreIx) (n : ArrIx) (s : State) : Host.Outcome State Fault Refusal :=
  match s.fw.watches.find? fun w => w.core == c.val && w.arr == n.val with
  | some w =>
    if get s F.TB_TICK_NUM_K < w.till then .next s
    else .next (endWatch c n (if coreRuns s c then updCore c (fun k => { k with arrCmds := k.arrCmds ++ [(n.val, 4)] }) s else arrCmd c n 4 s))
  | none => .next s

/-! ### Replica digests (R405) -/

/-- The array that holds a record, in the slot map. -/
def holderOf (s : State) (r : GRec) : Option (Nat × Nat) :=
  match mapPhys s r.l, SMap.get 0 s.fw.slotMap (r.l * 2560 + r.slot) with
  | some c, n + 1 => some (c, n)
  | _, _ => none

/-- Slot digests over golden records as the management core reads them, within its windows (R246). -/
def goldDigests : List GRec → State → List (List Byte) × State
  | [], s => ([], s)
  | r :: rs, s =>
    let g := mcRead r.addr recSize s
    let q := goldDigests rs g.2
    (slotDigest (slotHdr r) g.1.1 :: q.1, q.2)

/-- The slot digest of what an array reads back; DIGEST of a core that is off or in reset reads 0 (R43). -/
def readDigest (s : State) (r : GRec) : List Byte :=
  match (holderOf s r).filter fun a => coreUp s a.1 with
  | some a => slotDigest (slotHdr r) (sensedRecord s a.1 a.2 r.w2)
  | none => zeros 48

/-- Slot digests over what the arrays of a model read back. -/
def readDigests (s : State) (m : Model) : List (List Byte) := (records m.img).map (readDigest s)

/-- One model of a digest interval: a differing part digest is reported; a differing array becomes SUSPECT and counts as a repeat. -/
def digestModel (m : Model) (s : State) : State :=
  let d := goldDigests (records m.img) s
  let g := twoLevel d.1
  let s1 := if g ≠ m.img.partDigest.toNat then fwReport 0x22 0xFFFF d.2 else d.2
  let one := fun (p : GRec × List Byte) (s : State) => match holderOf s p.1 with
    | some a =>
      if arrState s a.1 a.2 = 4 && readDigest s p.1 ≠ p.2 then
        fwReport 0x22 a.1 (suspectRepeat a.1 a.2 (setB (F.ARR_STAT_SUSPECT a.1 a.2) true s))
      else s
    | none => s
  emit .net .report [0x405, m.img.id.toNat, m.img.part, g, twoLevel (readDigests s m), now s] (each ((records m.img).zip d.1) one s1)

/-- DIGEST_INTERVAL. -/
def execDigestInterval (s : State) : Host.Outcome State Fault Refusal :=
  let s1 := moveTo (s.fw.digestAt + s.fw.digestMin * 60000000000) s
  .next (each (s1.fw.models.filter fun m => m.bound) digestModel (updFw (fun k => { k with digestAt := now s1 }) s1))

end Sys2Proof.Machine
end

