-- ==== Sys2Proof/Machine/Part.lean ====
section
/-! DEFINITION. Partitions across packages: agreed ticks, start, stop, reset, pause, windows, schedule switches and half clocks
(R117 to R119, R226, R228, R232, R307 to R311, R399, R417, R418). -/
namespace Sys2Proof.Machine

/-- Changes the record of a partition. -/
def updPart (n : Nat) (f : PartRec → PartRec) (s : State) : State :=
  match partRec s n with
  | some r => updFw (fun k => { k with parts := SMap.put none k.parts n (some (f r)) }) s
  | none => s

/-- This package coordinates the partition. -/
def isCoord (s : State) (n : Nat) : Bool := match partRec s n with | some r => r.own == r.coord | none => false

/-- Sends a message to every other member (R307): kind and arguments. -/
def tellMembers (n kind : Nat) (args : List Nat) (s : State) : State :=
  match partRec s n with
  | some r => each (r.members.zipIdx.filter fun p => p.2 != r.own) (fun p s => emit (.pkg p.1) .partition (r.pid :: kind :: args) s) s
  | none => s

/-- Sends a message to the coordinator, or to the standby coordinator (R308). -/
def toCoord (n kind : Nat) (args : List Nat) (s : State) : State :=
  match partRec s n with
  | some r => emit (.pkg (nth 0 r.members (if r.toStandby then 1 else r.coord))) .partition (r.pid :: kind :: r.own :: args) s
  | none => s

/-! ### Message kinds between the members of a partition -/

/-- (start, K). -/
def mStart : Nat := 1
/-- (stop, K). -/
def mStop : Nat := 2
/-- (reset, K). -/
def mReset : Nat := 3
/-- (switch, K). -/
def mSwitch : Nat := 4
/-- (pause, K). -/
def mPause : Nat := 5
/-- Window acknowledgement. -/
def mAck : Nat := 6
/-- Ready. -/
def mReady : Nat := 7
/-- Layers of a window. -/
def mFlags : Nat := 8
/-- Overruns of a window. -/
def mOverruns : Nat := 9
/-- Requests for a pause, a stop, a switch and a reset; and a missed start. -/
def mAskPause : Nat := 10
/-- Stop. -/
def mAskStop : Nat := 11
/-- Switch. -/
def mAskSwitch : Nat := 12
/-- Reset. -/
def mAskReset : Nat := 13
/-- Missed start. -/
def mMissed : Nat := 14

/-! ### Ticks -/

/-- The base tick. -/
def curK (s : State) : Nat := get s F.TB_TICK_NUM_K
/-- The least multiple of `d` that is at least `a`. -/
def roundUp (a d : Nat) : Nat := (a + d - 1) / max 1 d * max 1 d
/-- Window length of a partition in base ticks. -/
def winLen (s : State) (n : Nat) : Nat := match partCores s n with | c :: _ => 2 ^ get s (F.LEAVEN_CTL_WIN_LOG2 c) | [] => 4096

/-! ### Schedules of a partition -/

/-- The active bank. -/
def bankOf (s : State) (n : Nat) : Nat := match partCores s n with | c :: _ => actv s (F.SEQ_CTL_BANK c) | [] => 0
/-- The schedule in a bank. -/
def schedIn (s : State) (n b : Nat) : Option Sched :=
  match partRec s n with | some r => if b = 0 then r.bank0 else r.bank1 | none => none
/-- The active schedule. -/
def activeSched (s : State) (n : Nat) : Option Sched := schedIn s n (bankOf s n)
/-- The standby bank is VALID on every core of the partition here, and its schedule. -/
def standbySched (s : State) (n : Nat) : Option Sched :=
  let b := 1 - bankOf s n
  if !(partCores s n).isEmpty && (partCores s n).all fun c => flag s (F.SEQ_BANK_DESC_VALID c b) then schedIn s n b else none
/-- TICK_NS of a schedule. -/
def tickNs (x : Option Sched) : Nat := match x with | some y => y.tickNs | none => 0
/-- The divider exponent of a schedule (R222): TICK_NS is PERIOD × 2^d. -/
def divOf (s : State) (x : Sched) : Option Nat := (List.range 8).find? fun d => basePeriod s * 2 ^ d == x.tickNs
/-- A schedule runs with a half slow (HALF bits of Table 6.16). -/
def runsSlow (x : Option Sched) (east : Bool) : Bool := match x with | some y => bit y.half (if east then 1 else 0) | none => false
/-- A resident wide partner; a standby schedule with a longer tick. -/
def hasWide (s : State) (n : Nat) : Bool := match standbySched s n with | some x => x.kind == 1 | none => false
/-- Longer. -/
def hasLonger (s : State) (n : Nat) : Bool := decide (tickNs (activeSched s n) < tickNs (standbySched s n)) && (standbySched s n).isSome

/-! ### Stop, pause and reset at an agreed tick -/

/-- STOP is written to the partition's cores when the tick before an agreed one has started. -/
def stopIfDue (n k : Nat) (s : State) : State :=
  match partRec s n with
  | none => s
  | some r =>
    let due := [r.stopK, r.pauseK, r.resetK].any fun x => match x with | some t => decide (t ≤ k + partDiv s n) | none => false
    if due then each ((partCores s n).filter fun c => coreRuns s c && !flag s (F.CORE_CTL_STATE_STOP_PEND c)) stopCmd s else s

/-- Ends the ring (R399): every entry is LOST and settles, and the ring is left VOID. -/
def endRing (n : Nat) (s : State) : State :=
  let m := ordinal s n (curK s)
  let one := fun i (s : State) =>
    let p := stages s n - 1 - i
    let r := ringGet s (ringAt s n p)
    ringPut (ringAt s n p) ringVoid (if r.st = 0 && !r.lost then s else loseStep n m r.e r.pos (now s) (r.st == 0) s)
  upTo (stages s n) one s

/-- An entry of the request table at its reset values, FREE. -/
def clearEnt (e : Nat) (s : State) : State :=
  { s with regs := SMap.erase s.regs (F.SRV_ENT_STATE e).key ((F.SRV_ENT_STATE e).key + 1024) }

/-- A stop record at its reset values. -/
def clearStop (e : Nat) (s : State) : State :=
  { s with regs := SMap.erase s.regs (F.SRV_STOP_WORD e 0).key ((F.SRV_STOP_WORD e 0).key + 8192) }

/-- The entries of a partition end with PARTITION_RESET: they are freed with their page sets, stop records and staging (R311, R336). -/
def endEntries (n : Nat) (s : State) : State :=
  let es := (entriesOf s n).filter fun e => entState s e != eFree
  let s1 := each es (fun e s => clearStop e (freeEnt n e (set (F.SRV_ENT_STATUS e) 0x11 s))) s
  let s2 := upTo (stages s1 n) (fun p s => clearStop (ringAt s n p) (clearEnt (ringAt s n p) s)) s1
  showInUse (showKv n (updSrv n (fun _ => SrvPart.reset) s2))

/-- 20 µs after the boundary, the partition reset of the cores (Table 10.10). A fenced core stays fenced (R376). -/
def resetParts (n : Nat) (s : State) : State :=
  let cs := partCores s n
  let hit := cs.filter fun c => coreState s c == cIdle || coreState s c == cRunning
  let s1 := when (cs.any (coreInFlight s)) (bump F.LC_DRAIN_TMO_CNT) (bump F.LC_PART_RST_CNT s)
  let s2 := each hit (fun c s => proceedReset c (setCoreState c cReset s)) s1
  updPart n (fun r => { r with coresReset := true }) (endEntries n s2)

/-- RST of the partition in all ports. -/
def setRst (n : Nat) (b : Bool) (s : State) : State := upTo 12 (fun p s => setB (F.FAB_LPART_RST p n) b s) s

/-- What firmware does for a partition at the boundary that starts base tick `k`, and after it. -/
def partBoundary (k n : Nat) (s : State) : State :=
  match partRec s n with
  | none => s
  | some r =>
    let s1 := if r.stopK.any fun t => decide (t ≤ k) then updPart n (fun r => { r with stopK := none }) s else s
    let s2 := if r.pauseK.any fun t => decide (t ≤ k) then
        updPart n (fun r => { r with pauseK := none, paused := true }) (setB (F.SRV_PART_EN n) false (endRing n s1))
      else s1
    let s3 := if r.switchK.any fun t => decide (t ≤ k) then updPart n (fun r => { r with switchK := none, scaled := false }) s2 else s2
    let s4 := if r.resetK.any fun t => decide (t ≤ k) then
        setRst n true (updPart n (fun r => { r with resetK := none, resetAt := some (boundaryAt s k), coresReset := false }) s3)
      else s3
    let s5 := match r.resetAt with
      | some t =>
        if !r.coresReset then (if t + 20000 ≤ boundaryAt s k then resetParts n s4 else s4)
        else if (partCores s4 n).any fun c => coreState s4 c == cReset then s4
        else setRst n false (updPart n (fun r => { r with resetAt := none, coresReset := false, ready := [] }) s4)
      | none => s4
    stopIfDue n k s5

/-- An agreed stop. -/
def stopAt (n k : Nat) (s : State) : State := stopIfDue n (curK s) (updPart n (fun r => { r with stopK := some k }) s)
/-- An agreed pause. -/
def pauseAt (n k : Nat) (s : State) : State := stopIfDue n (curK s) (updPart n (fun r => { r with pauseK := some k }) s)
/-- An agreed reset. -/
def resetAtK (n k : Nat) (s : State) : State := stopIfDue n (curK s) (updPart n (fun r => { r with resetK := some k }) s)

/-- The earliest boundary of a partition at least `lead` base ticks ahead. -/
def aheadK (s : State) (n lead : Nat) : Nat := roundUp (curK s + lead) (partDiv s n)

/-- The coordinator chooses a stop tick (R307, R308). -/
def pickStop (n : Nat) (s : State) : State := let k := aheadK s n 65; stopAt n k (tellMembers n mStop [k] s)
/-- A pause tick (R399). -/
def pickPause (n : Nat) (s : State) : State := let k := aheadK s n 65; pauseAt n k (tellMembers n mPause [k] s)
/-- A reset tick (R311). -/
def pickReset (n : Nat) (s : State) : State := let k := aheadK s n 65; resetAtK n k (tellMembers n mReset [k] s)
/-- A start tick, at least one window ahead (R309). -/
def pickStart (n : Nat) (s : State) : State :=
  let k := aheadK s n (winLen s n + 1)
  updPart n (fun r => { r with startK := some k, restart := false }) (tellMembers n mStart [k] s)

/-- A stop is asked of the coordinator. -/
def askStop (n : Nat) (s : State) : State := if isCoord s n then pickStop n s else toCoord n mAskStop [] s
/-- A pause. -/
def askPause (n : Nat) (s : State) : State :=
  match partRec s n with
  | some r => if r.paused || r.pauseK.isSome then s else if isCoord s n then pickPause n s else toCoord n mAskPause [] s
  | none => s

/-- PARTITION_STOP_NOTICE: (stop, K) arrives. -/
def execPartitionStopNotice (n : PartIx) (k : Word64) (s : State) : Host.Outcome State Fault Refusal := .next (stopAt n k.toNat s)
/-- PAUSE_NOTICE: (pause, K) arrives. -/
def execPauseNotice (n : PartIx) (k : Word64) (s : State) : Host.Outcome State Fault Refusal := .next (pauseAt n k.toNat s)
/-- PARTITION_RESET_NOTICE: (reset, K) arrives. -/
def execPartitionResetNotice (n : PartIx) (k : Word64) (s : State) : Host.Outcome State Fault Refusal := .next (resetAtK n k.toNat s)
/-- PAUSE_REQUEST: the coordinator picks the pause tick. -/
def execPauseRequest (n : PartIx) (s : State) : Host.Outcome State Fault Refusal :=
  .next (if isCoord s n then askPause n s else s)

/-- PARTITION_STOP_REQUEST: the coordinator picks a stop tick; when a member has missed the start interval, it stops the partition at its
next boundary and repeats the start (R308, R309). -/
def execPartitionStopRequest (n : PartIx) (missed : Bool) (s : State) : Host.Outcome State Fault Refusal :=
  if !isCoord s n then .next s
  else if !missed then .next (pickStop n s)
  else
    let k := aheadK s n 1
    .next (pickStart n (stopAt n k (tellMembers n mStop [k] s)))

/-! ### Start (R309) -/

/-- The cores of the partition are ready here. -/
def coresReady (s : State) (n : Nat) : Bool :=
  !(partCores s n).isEmpty && (partCores s n).all fun c =>
    coreState s c == cIdle && flag s (F.CORE_CTL_STATE_MCODE_OK c) && flag s (F.SEQ_BANK_DESC_VALID c (actv s (F.SEQ_CTL_BANK c)))

/-- Its package-table entries that name another package. -/
def farEntries (s : State) (n : Nat) : List Nat :=
  (List.range 4096).filter fun e => actB s (F.SRV_PKG_VALID e) && actv s (F.SRV_PKG_LPART e) == n && actv s (F.SRV_PKG_ADDR e) != ownAddr s

/-- Every entry resolves to a route other than NONE, over a port that is ADMITTED, and names no missing package (R297, R309). -/
def routesReady (s : State) (n : Nat) : Bool :=
  (farEntries s n).all fun e => let p := actv s (F.SRV_PKG_PORT e); decide (p < 12) && pState s p == 3 &&
    (fwd s p (actv s (F.SRV_PKG_ADDR e))).isSome && !pkgMissing s (actv s (F.SRV_PKG_ADDR e))

/-- Its slot tables are active: no shadow of them waits. -/
def slotsReady (s : State) (n : Nat) : Bool :=
  (List.range 12).all fun p => (List.range 64).all fun i =>
    match partRec s n with
    | some r => get s (F.FAB_SLOT_OWN_PID p i) != r.pid || !s.shadows.any fun x => x.fld.key == (F.FAB_SLOT_OWN_PID p i).key || x.fld.key == (F.FAB_SLOT_OWN_VALID p i).key
    | none => false

/-- The status with which a start fails here, if it does; a served partition whose high mark is below 64 is refused (R330). -/
def startFault (s : State) (n : Nat) : Option Nat :=
  if flag s (F.SRV_PART_EN n) && decide (highMark s n < 64) then some 3
  else if !routesReady s n then some 0x16 else if !coresReady s n || !slotsReady s n then some 2 else none

/-- A member has reported ready to the coordinator. -/
def heardReady (n m : Nat) (s : State) : State :=
  let s1 := updPart n (fun r => { r with ready := NSet.add r.ready m }) s
  match partRec s1 n with
  | some r => if (List.range r.members.length).all fun i => NSet.has r.ready i then pickStart n (updPart n (fun r => { r with ready := [] }) s1) else s1
  | none => s1

/-- This member is ready. -/
def sayReady (n : Nat) (s : State) : State :=
  let s1 := updPart n (fun r => { r with paused := false }) s
  match partRec s1 n with
  | some r => if isCoord s1 n then heardReady n r.own s1 else toCoord n mReady [] s1
  | none => s1

/-- READY_REPORT: the coordinator hears member `m`. -/
def execReadyReport (n : PartIx) (m : BitVec 16) (s : State) : Host.Outcome State Fault Refusal :=
  .next (if isCoord s n then heardReady n m.toNat s else s)

/-- PARTITION_START_NOTICE: (start, K) arrives. -/
def execPartitionStartNotice (n : PartIx) (k : Word64) (s : State) : Host.Outcome State Fault Refusal :=
  .next (updPart n (fun r => { r with startK := some k.toNat }) s)

/-- PARTITION_RUN_WRITE: RUN is written between the boundary that starts tick K − DIV + 100 ns and that of tick K − 200 ns, or the miss
is reported. -/
def execPartitionRunWrite (n : PartIx) (s : State) : Host.Outcome State Fault Refusal :=
  match partRec s n with
  | some r => match r.startK with
    | some k =>
      let lo := boundaryAt s (k - partDiv s n) + 100
      let hi := boundaryAt s k - 200
      let done := updPart n (fun r => { r with startK := none })
      if curK s + partDiv s n < k then .next s
      else if hi < now s then
        let s1 := emit .net .report [0x309, n.val] (done s)
        .next (if isCoord s n then pickStart n (let t := aheadK s1 n 1; stopAt n t (tellMembers n mStop [t] s1)) else toCoord n mMissed [] s1)
      else .next (each (partCores s n) runCmd (done (moveTo lo s)))
    | none => .next s
  | none => .next s

/-! ### Switches (R228) -/

/-- What a switch of a partition writes: the bank of every core, and the divider of the new schedule. -/
def switchWrites (n : Nat) (s : State) : State :=
  let b := 1 - bankOf s n
  let s1 := each (partCores s n) (fun c s => fwWrite (F.SEQ_CTL_BANK c) b s) s
  match (schedIn s n b).bind (divOf s) with
  | some d => fwWrite (F.TB_PART_DIV_LOG2 n) d s1
  | none => s1

/-- DIV of a partition, the larger of that of the active and of the standby schedule. -/
def largerDiv (s : State) (n : Nat) : Nat :=
  let d := fun (x : Option Sched) => match x.bind (divOf s) with | some d => 2 ^ d | none => partDiv s n
  max (partDiv s n) (max (d (activeSched s n)) (d (standbySched s n)))

/-- The tick planned for a switch of a partition. -/
def plannedK (s : State) (n : Nat) : Option Nat := (partRec s n).bind fun r => r.switchK

/-- The earliest tick for which a switch or a lower half clock is planned. -/
def firstK (s : State) : Option Nat :=
  (((List.range 16).filterMap (plannedK s)) ++ s.fw.halfAt.map fun h => h.1).min?

/-- The writes of every switch and every lower half clock that is planned for tick `k`. -/
def planWrites (k : Nat) (s : State) : State :=
  each (s.fw.halfAt.filter fun h => h.1 == k) (fun h s => fwWrite (if h.2 then F.TB_HALF_CLK_EAST_SLOW else F.TB_HALF_CLK_WEST_SLOW) 1 s)
    (each ((List.range 16).filter fun n => plannedK s n == some k) switchWrites s)

/-- What was planned for a tick that has started is planned for the next boundary at which it can start. -/
def lateToNext (s : State) : State :=
  let one := fun n (s : State) => match plannedK s n with
    | some t => if t < s.time.next then updPart n (fun r => { r with switchK := some (roundUp s.time.next (largerDiv s n)) }) s else s
    | none => s
  updFw (fun f => { f with halfAt := f.halfAt.map fun h => (max h.1 s.time.next, h.2) }) (upTo 16 one s)

/-- The gate waits for the next boundary, or for a common one: what is planned cannot be held with it. -/
def gateBusy (s : State) : Bool := flag s F.TB_STAT_GATE_ARMED && (s.time.gateLate || decide (s.time.gateK ≤ s.time.next))

/-- The gate makes ready the switches and the half clocks planned for the earliest tick, together. One that is released for a later tick
is made anew. DESIGN CHOICE (log entry 67): while it waits for the next boundary, or for a common one, what is planned for the next boundary
is written without it, and so starts there; what is planned later follows. -/
def planGate (s : State) : State :=
  if gateBusy s then
    let s1 := lateToNext s
    planWrites s1.time.next s1
  else match firstK s with
    | none => s
    | some k =>
      gateRelease (set F.TB_GATE_K_K k (planWrites k (setB F.TB_STAT_GATE_HOLD true (when (flag s F.TB_STAT_GATE_ARMED) gateAbort s))))

/-- Notes that halves are lowered at tick `k`. -/
def lowerAt (k : Nat) (l : List Bool) (s : State) : State :=
  updFw (fun f => { f with halfAt := f.halfAt ++ l.map fun e => (k, e) }) s

/-- The member's part of a switch at base tick `k`. A switch already planned is joined when it is earlier, and made again when it is later
(R417). -/
def switchHere (n k : Nat) (s : State) : State :=
  match plannedK s n with
  | some t => if t ≤ k then s else updPart n (fun r => { r with switchK := some k }) s
  | none => updPart n (fun r => { r with switchK := some k }) s

/-- After the boundary that starts tick `k`: halves lowered at it are planned no more, and the gate takes what is planned next. A gate that
is released for a later tick stays as it is. -/
def gateNext (k : Nat) (s : State) : State :=
  let s1 := updFw (fun f => { f with halfAt := f.halfAt.filter fun h => decide (k < h.1) }) s
  if flag s1 F.TB_STAT_GATE_ARMED && !gateBusy s1 then s1 else planGate s1

/-- A half is not lowered after all: the gate is made anew without it (R232). -/
def unplanLow (east : Bool) (s : State) : State :=
  if !s.fw.halfAt.any fun h => h.2 == east then s
  else
    let s1 := updFw (fun f => { f with halfAt := f.halfAt.filter fun h => h.2 != east }) s
    planGate (when (flag s1 F.TB_STAT_GATE_ARMED && !gateBusy s1) gateAbort s1)

/-- Raises a half clock: at any boundary, and with no lowering planned any more (R232). -/
def raiseHalf (east : Bool) (s : State) : State :=
  updFw (fun k => if east then { k with lowE := false } else { k with lowW := false })
    (fwWrite (if east then F.TB_HALF_CLK_EAST_SLOW else F.TB_HALF_CLK_WEST_SLOW) 0 (unplanLow east s))

/-- TICK_BOUNDARY: the next base boundary, with the expert choices that the routing stages report. The passes write what they reach
before it (R135). -/
def execTickBoundary (moe : List (BitVec 12 × Word × Word)) (s : State) : Host.Outcome State Fault Refusal :=
  if !flag s F.TB_CTL_TICK_EN then .next s
  else
    let k := s.time.next
    let t := boundaryAt s k
    let s1 := countMoe (moe.map fun x => (x.1.toNat, x.2.1.toNat, x.2.2.toNat)) (boundary k t (moveTo t (each allCores (passTo t) s)))
    .next (gateNext k (upTo 16 (partBoundary k) s1))

/-- The head scales its admission rate by old over new TICK_NS, once for a switch (R118, R226, R417). -/
def scaleAdm (n : Nat) (s0 : State) : State :=
  let s := updPart n (fun r => { r with scaled := true }) s0
  let a := tickNs (activeSched s n)
  let b := tickNs (schedIn s n (1 - bankOf s n))
  let again := match partRec s0 n with | some r => r.scaled | none => true
  if isHead s n && a < b && !again then fwWrite (F.SRV_PART_ADM_RATE n) (actv s (F.SRV_PART_ADM_RATE n) * a / b) s else s

/-- Physical cores of a die half. -/
def halfCore (east : Bool) (c : Nat) : Bool := if east then decide (5 ≤ colOf c) else decide (colOf c < 5)
/-- A partition has a core in a half. -/
def inHalf (s : State) (n : Nat) (east : Bool) : Bool := (partCores s n).any (halfCore east)
/-- Partitions of the package with a core in a half. -/
def halfParts (s : State) (east : Bool) : List Nat := (List.range 16).filter fun n => inHalf s n east
/-- The throttle condition of a half. -/
def throttled (s : State) (east : Bool) : Bool := flag s (if east then F.THM_STAT_THR_E else F.THM_STAT_THR_W)
/-- A half clock is slow, or is going to be. -/
def isSlow (s : State) (east : Bool) : Bool :=
  get s (if east then F.TB_HALF_CLK_EAST_SLOW else F.TB_HALF_CLK_WEST_SLOW) == 1 || s.fw.halfAt.any fun h => h.2 == east

/-- The schedule that a partition runs once the switches that are planned have been made; `n` counts as switching. -/
def nextSched (s : State) (n p : Nat) : Option Sched :=
  let planned := p = n || match partRec s p with | some r => r.switchK.isSome | none => false
  if planned then schedIn s p (1 - bankOf s p) else activeSched s p

/-- The halves under throttle that may be lowered with a switch of partition `n` (R417). -/
def mayLower (s : State) (n : Nat) : List Bool :=
  [false, true].filter fun e => throttled s e && !isSlow s e && (halfParts s e).all fun p => runsSlow (nextSched s n p) e

/-- Notes that throttle lowers halves. -/
def noteLow (l : List Bool) (s : State) : State :=
  updFw (fun k => { k with lowW := k.lowW || l.contains false, lowE := k.lowE || l.contains true }) s

/-- The tick by which every partition with a core in one of some halves has made its planned switch. -/
def lowTick (s : State) (l : List Bool) (k : Nat) : Nat :=
  (l.flatMap (halfParts s)).foldl (fun a n => match plannedK s n with | some t => max a t | none => a) k

/-- A switch at tick `k` on this member: `scale` for the policies and throttle, `thr` for throttle. -/
def doSwitch (n k : Nat) (scale thr : Bool) (s : State) : State :=
  let low := if thr then mayLower s n else []
  let s1 := switchHere n k (when scale (scaleAdm n) s)
  let t := match plannedK s1 n with | some t => t | none => k
  planGate (lowerAt (lowTick s1 low t) low (noteLow low s1))

/-- The coordinator sends (switch, K) and switches itself. -/
def sendSwitch (n k : Nat) (scale thr : Bool) (s : State) : State :=
  doSwitch n k scale thr (tellMembers n mSwitch [k, if scale then 1 else 0, if thr then 1 else 0] s)

/-- SWITCH_NOTICE: (switch, K) arrives. -/
def execSwitchNotice (n : PartIx) (k : Word64) (scale thr : Bool) (s : State) : Host.Outcome State Fault Refusal :=
  .next (doSwitch n k.toNat scale thr s)

/-! ### Windows (R118, R226, R308) -/

/-- Layers flagged in window `w` on this package. -/
def layersOf (s : State) (n w : Nat) : List Nat :=
  uniq ((partCores s n).flatMap fun c =>
    if get s (F.LEAVEN_WIN_NUM_NUM c) ≠ w then []
    else ((List.range 256).filter fun i => getBit s (F.LEAVEN_WINMAP_MAP c (i / 32)) (i % 32)).map fun i => actv s (F.LEAVEN_RCP_CTL_LAYER c i))

/-- Members whose report of a window is missing are counted and reported. -/
def reportMissing (n w : Nat) (have_ : List Nat) (s : State) : State :=
  match partRec s n with
  | some r =>
    let l := (List.range r.members.length).filter fun i => !have_.contains i
    each l (fun i s => emit .net .report [0x118, n, w, i] s) (updPart n (fun r => { r with missing := r.missing + l.length }) s)
  | none => s

/-- Windows are numbered anew when WIN_LOG2 has changed (R118). -/
def renumber (n : Nat) (s : State) : State :=
  match partRec s n with
  | some r =>
    if r.wlen = winLen s n then s
    else
      let w := curK s / winLen s n - 1
      updPart n (fun r => { r with wlen := winLen s n, winDone := w, fbDone := w, ovDone := w, fbReps := [], ovReps := [] }) s
  | none => s

/-- A set of members with one in it or not. -/
def putMember (l : NSet) (m : Nat) (b : Bool) : NSet := if b then NSet.add l m else NSet.del l m

/-- The first tick boundary of window `w + 2`. -/
def switchTick (s : State) (n w : Nat) : Nat := (w + 2) * winLen s n

/-- The coordinator decides on the layers of window `w`. -/
def decideFb (n w : Nat) (s : State) : State :=
  match partRec s n with
  | none => s
  | some r =>
    let reps := r.fbReps.filter fun x => x.1 == w
    let k := (uniq (reps.flatMap fun x => x.2.2.1)).length
    let s1 := reportMissing n w (reps.map fun x => x.2.1)
      (updPart n (fun r => { r with fbDone := w + 1, fbReps := r.fbReps.filter fun x => decide (w < x.1) }) s)
    let narrow := match activeSched s n with | some x => x.kind == 0 | none => false
    let data := fieldsOf [(1, n), (8, w), (4, k)]
    if k ≤ r.fb || !narrow then s1
    else if (List.range r.members.length).all (NSet.has r.wides) then
      notify 2 (some n) data (sendSwitch n (switchTick s n w) true false s1)
    else if r.fbTold then s1
    else notify 3 (some n) data (updPart n (fun r => { r with fbTold := true }) s1)

/-- The coordinator decides on the overruns of window `w`. -/
def decideOv (n w : Nat) (s : State) : State :=
  match partRec s n with
  | none => s
  | some r =>
    let reps := r.ovReps.filter fun x => x.1 == w
    let k := (reps.map fun x => x.2.2.1).foldl (fun a b => a + b) 0
    let s1 := reportMissing n w (reps.map fun x => x.2.1)
      (updPart n (fun r => { r with ovDone := w + 1, ovReps := r.ovReps.filter fun x => decide (w < x.1) }) s)
    let data := fun t => fieldsOf [(1, n), (8, w), (4, k), (4, t)]
    if k < r.ovr then s1
    else if (List.range r.members.length).all (NSet.has r.longs) then
      notify 4 (some n) (data (tickNs (standbySched s n))) (sendSwitch n (switchTick s n w) true false s1)
    else if r.ovrTold then s1
    else notify 4 (some n) (data 0) (updPart n (fun r => { r with ovrTold := true }) s1)

/-- The coordinator hears the layers of a member, and decides when all are in. -/
def hearFb (n m w : Nat) (ls : List Nat) (wide : Bool) (s : State) : State :=
  match partRec s n with
  | none => s
  | some r =>
    if w < r.fbDone || r.fbReps.any fun x => x.1 == w && x.2.1 == m then s
    else
      let l := r.fbReps ++ [(w, m, ls, wide)]
      let s1 := updPart n (fun r => { r with fbReps := l, wides := putMember r.wides m wide }) s
      if (List.range r.members.length).all fun i => l.any fun x => x.1 == w && x.2.1 == i then decideFb n w s1 else s1

/-- The coordinator hears the overruns of a member. -/
def hearOv (n m w k : Nat) (longer : Bool) (s : State) : State :=
  match partRec s n with
  | none => s
  | some r =>
    if w < r.ovDone || r.ovReps.any fun x => x.1 == w && x.2.1 == m then s
    else
      let l := r.ovReps ++ [(w, m, k, longer)]
      let s1 := updPart n (fun r => { r with ovReps := l, longs := putMember r.longs m longer }) s
      if (List.range r.members.length).all fun i => l.any fun x => x.1 == w && x.2.1 == i then decideOv n w s1 else s1

/-- FALLBACK_REPORT: the coordinator hears the layers that member `m` flagged in window `w`, and whether it holds a resident wide
schedule. -/
def execFallbackReport (n : PartIx) (m : BitVec 16) (w : Word64) (layers : List (BitVec 12)) (wide : Bool) (s : State) :
    Host.Outcome State Fault Refusal :=
  .next (if isCoord s n then hearFb n m.toNat w.toNat (layers.map fun l => l.toNat) wide (renumber n s) else s)

/-- OVERRUN_REPORT: the coordinator hears the overruns of member `m` in window `w`, and whether it holds a schedule with a longer tick. -/
def execOverrunReport (n : PartIx) (m : BitVec 16) (w : Word64) (k : Word64) (longer : Bool) (s : State) : Host.Outcome State Fault Refusal :=
  .next (if isCoord s n then hearOv n m.toNat w.toNat k.toNat longer (renumber n s) else s)

/-- The window that ended last. -/
def lastWindow (s : State) (n : Nat) : Option Nat := match curK s / winLen s n with | 0 => none | w + 1 => some w

/-- The end of window `w`: both reports, the coordinator's overdue decisions and acknowledgements, and the count of windows without
acknowledgement. -/
def windowReports (n w : Nat) (r : PartRec) (s : State) : State :=
  let cnt := get s (F.TB_OVR_CNT n)
  let ls := layersOf s n w
  let s1 := updPart n (fun r => { r with winDone := w + 1, ovrBase := cnt }) s
  if r.own = r.coord then
    let s2 := if 0 < w && r.fbDone < w then decideFb n (w - 1) s1 else s1
    let s3 := if 0 < w && r.ovDone < w then decideOv n (w - 1) s2 else s2
    tellMembers n mAck [w] (hearOv n r.own w (cnt - r.ovrBase) (hasLonger s n) (hearFb n r.own w ls (hasWide s n) s3))
  else
    let s2 := toCoord n mOverruns [w, cnt - r.ovrBase, if hasLonger s n then 1 else 0]
      (toCoord n mFlags ([w, if hasWide s n then 1 else 0] ++ ls) s1)
    updPart n (fun r => { r with missed := if r.acked then 0 else r.missed + 1, acked := false }) s2

/-- OVERRUN_WINDOW_END. -/
def execOverrunWindowEnd (n : PartIx) (s : State) : Host.Outcome State Fault Refusal :=
  match partRec (renumber n s) n, lastWindow s n with
  | some r, some w => if w < r.winDone then .next s else .next (windowReports n w r (renumber n s))
  | _, _ => .next s

/-- WINDOW_ACK. -/
def execWindowAck (n : PartIx) (s : State) : Host.Outcome State Fault Refusal :=
  .next (updPart n (fun r => { r with acked := true, missed := 0 }) s)

/-- COORDINATOR_SILENT: no acknowledgement for two windows in a row. The standby takes the role; another member turns to it, or stops its
cores when it can reach neither. -/
def execCoordinatorSilent (n : PartIx) (reach : Bool) (s : State) : Host.Outcome State Fault Refusal :=
  match partRec s n with
  | some r =>
    if r.missed < 2 || r.own = r.coord then .next s
    else if r.own = 1 then .next (notify 8 (some n) (fieldsOf [(1, n), (2, 1)]) (updPart n (fun r => { r with coord := 1, missed := 0 }) s))
    else if reach then .next (updPart n (fun r => { r with toStandby := true, missed := 0 }) s)
    else .next (emit .net .report [0x308, n] (each (partCores s n) stopCmd s))
  | none => .next s

/-- HOLDOVER_EXPIRE: the package enters UNSYNC and asks for a stop of its partitions (R216, R308). -/
def execHoldoverExpire (s : State) : Host.Outcome State Fault Refusal :=
  let s1 := holdoverEnd s
  if sync s = syHoldover && sync s1 = syUnsync then
    .next (upTo 16 (fun n s => if partRuns s n then askStop n s else s) s1)
  else .next s1

/-! ### Throttle (R417, R418) -/

/-- A TEMPERATURE notice of throttle: the threshold crossed, the lowest-numbered sensor that is above it, and the action taken with its partition. -/
def thermalNote (n : Option Nat) (action : Nat) (s : State) : State :=
  let sens := ((List.range 31).find? fun i => flag s (F.THM_SENS_THR i)).getD 0x1F
  notify 12 none (natLe 1 1 ++ natLe 1 sens ++ natLe 1 action ++ natLe 1 (n.getD 0xFF)) s

/-- The tick of a throttle switch: at least 2 ms ahead. -/
def throttleK (s : State) (n : Nat) : Nat := roundUp (curK s + 1 + (2000000 + basePeriod s - 1) / max 1 (basePeriod s)) (largerDiv s n)

/-- One partition under throttle. -/
def throttlePart (n : Nat) (s : State) : State :=
  match partRec s n with
  | none => s
  | some r =>
    if r.switchK.isSome then s
    else if hasLonger s n then
      thermalNote (some n) 1 (if isCoord s n && r.members.length ≤ 1 then sendSwitch n (throttleK s n) true true s else toCoord n mAskSwitch [] s)
    else thermalNote (some n) 0 s

/-- Lowers a half at the next base boundary. -/
def lowerNow (east : Bool) (s : State) : State :=
  noteLow [east] (gated (fwWrite (if east then F.TB_HALF_CLK_EAST_SLOW else F.TB_HALF_CLK_WEST_SLOW) 1) s)

/-- THROTTLE_SET: the throttle condition of a half is set. Every partition with a core in it asks for its switch; a half whose partitions
need none is lowered. -/
def execThrottleSet (east : Bool) (s : State) : Host.Outcome State Fault Refusal :=
  if !throttled s east then .next s
  else
    let ps := halfParts s east
    let s1 := each ps throttlePart s
    let ready := !isSlow s1 east && ps.all fun p => runsSlow (activeSched s1 p) east && !hasLonger s p
    .next (if ready then thermalNote none 2 (lowerNow east s1) else s1)

/-- THROTTLE_REQUEST: the coordinator hears that partition `n` is to switch; `all`: the standby schedule is VALID, with a longer tick, on
every core of the partition on every member. -/
def execThrottleRequest (n : PartIx) (all : Bool) (s : State) : Host.Outcome State Fault Refusal :=
  if !isCoord s n then .next s
  else if all && hasLonger s n then .next (sendSwitch n (throttleK s n) true true s)
  else .next (thermalNote (some n) 0 s)

/-- THROTTLE_CLEAR: the half goes back to 1.6 GHz at the next base boundary if throttle lowered it. -/
def execThrottleClear (east : Bool) (s : State) : Host.Outcome State Fault Refusal :=
  if throttled s east || !(if east then s.fw.lowE else s.fw.lowW) then .next s
  else .next (raiseHalf east s)

end Sys2Proof.Machine
end

