-- ==== Sys2Proof/Machine/SchedImage.lean ====
section
/-! DEFINITION. Schedule images as bytes (R206; Tables 6.16 and 6.17). -/
namespace Sys2Proof.Machine

/-- A recipe entry of a section: index, RCP_CTL, ASCALE, WSCALE and ENV. -/
def readRcp (b : List Byte) (o : Nat) : RcpIn :=
  let w := fun i => BitVec.ofNat 32 (leAt b (o + i) 4)
  { ix := BitVec.ofNat 8 (leAt b o 1), ctl := w 4, ascale := w 8, wscale := w 12, env := BitVec.ofNat 4 (leAt b (o + 16) 4) }

/-- Offset of a section's text: the next 16-byte boundary of the image after its recipes (DESIGN CHOICE, log entry 66). -/
def textOfs (b : List Byte) (o : Nat) : Nat := (o + 48 + 20 * leAt b (o + 40) 2 + 15) / 16 * 16

/-- A section lies in the image and its counts are in range. -/
def sectionFits (b : List Byte) (o : Nat) : Bool :=
  decide (o + 48 ≤ b.length) && decide (leAt b o 2 < 16) && decide (1 ≤ leAt b (o + 2) 1) && decide (leAt b (o + 2) 1 ≤ 16) &&
    decide (leAt b (o + 3) 1 ≤ 2) && decide (1 ≤ leAt b (o + 4) 4) && decide (leAt b (o + 4) 4 ≤ 16384) &&
    decide (textOfs b o + 16 * leAt b (o + 4) 4 ≤ b.length)

/-- A per-core section (Table 6.17). -/
def readSection (b : List Byte) (o : Nat) : SchedSec :=
  { lcore := leAt b o 2, riHalf := leAt b (o + 3) 1, phases := (List.range (leAt b (o + 2) 1)).map fun i => leAt b (o + 8 + 2 * i) 2
    rcps := (List.range (leAt b (o + 40) 2)).map fun i => readRcp b (o + 48 + 20 * i)
    text := (List.range (leAt b (o + 4) 4)).map fun i => leAt b (textOfs b o + 16 * i) 16 }

/-- Offsets of the sections. -/
def sectionOfs (b : List Byte) : List Nat := (List.range (leAt b 6 2)).map fun i => leAt b (leAt b 68 8 + 8 * i) 8

/-- MAGIC of a schedule image (check 1 of R207). -/
def schedMagic (b : List Byte) : Bool := decide (6 ≤ b.length) && leAt b 0 4 == 0x53544D4C

/-- Offsets, lengths and section bounds of a version 1 image (check 1 of R207). -/
def schedForm (b : List Byte) : Bool :=
  decide (256 ≤ b.length) && decide (1 ≤ leAt b 6 2) && decide (leAt b 6 2 ≤ 16) &&
    decide (leAt b 68 8 + 8 * leAt b 6 2 ≤ b.length) && decide (leAt b 76 8 + 96 ≤ b.length) &&
    decide (leAt b 84 8 + leAt b 92 4 ≤ b.length) && (sectionOfs b).all (sectionFits b)

/-- The publisher's chain, and the signature over bytes 0 to 159 (R206). -/
def schedSigned (b : List Byte) : Signed :=
  { chain := (b.drop (leAt b 84 8)).take (leAt b 92 4), digest := Config.sha384 (b.take 160), sig := leAt b (leAt b 76 8) 96 }

/-- BODY_DIGEST is that of every byte after the header. -/
def schedBody (b : List Byte) : Bool := leAt b 96 48 == (Config.sha384 (b.drop 256)).toNat

/-- The schedule that an image holds. -/
def readSched (b : List Byte) : Sched :=
  { id := leAt b 8 16, model := leAt b 24 16, tickNs := leAt b 40 4, kind := leAt b 44 1, half := leAt b 45 1, pkg := leAt b 48 4, pair := leAt b 52 16
    secs := (sectionOfs b).map (readSection b) }

end Sys2Proof.Machine
end

