-- ==== Sys2Proof/Machine/PartCmd.lean ====
section
/-! DEFINITION. Yarile commands on partitions, schedules and recipes; pauses, replacements and in-place re-steeps (R117, R119, R171, R173,
R207, R208, R222, R232, R306, R310, R349, R373, R399 to R404). -/
namespace Sys2Proof.Machine

/-! ### PART_CREATE and PART_DESTROY -/

/-- Two ranges of MiB meet. -/
def meet (a n b m : Nat) : Bool := decide (0 < n) && decide (0 < m) && decide (a < b + m) && decide (b < a + n)

/-- A region meets a VALID management window, which no partition region does (R37, R246). Base and size in MiB. -/
def meetsWindow (s : State) (r : RegionIn) : Bool :=
  (List.range 3).any fun n => (List.range 4).any fun i =>
    get s (F.STK_MWIN_VALID n i) == 1 && meet r.base.toNat r.size.toNat (get s (F.STK_MWIN_BASE n i)) (get s (F.STK_MWIN_SIZE n i))

/-- A region that the partition asks for is outside the stacks, or meets one that a core of another partition holds, or a management window.
DEDUCED (log entry 68): a region of a core without WR may lie in a window, for its steep engine and its proof unit read the golden copy there
(R112, R159, R245). -/
def noRegion (s : State) (x : PartIn) : Bool :=
  let mine := x.lcores.filterMap fun (l : Fin 16) => mapPhys s l
  let bad := fun (r : RegionIn) => decide (294912 < r.base.toNat + r.size.toNat) || allCores.any fun c =>
    !mine.contains c && get s (F.CORE_CTL_ID_PVALID c) == 1 && (List.range 8).any fun i =>
      get s (F.RTR_REGION_VALID c i) == 1 && meet r.base.toNat r.size.toNat (get s (F.RTR_REGION_BASE c i)) (get s (F.RTR_REGION_SIZE c i))
  x.regions.any (fun r => bad r.2.2 || (r.2.2.wr && meetsWindow s r.2.2)) || x.bregs.any fun r => bad r.2 || meetsWindow s r.2

/-- The first failure of PART_CREATE (R296, R310, Table 12.7). -/
def createFault (s : State) (n : Nat) (x : PartIn) : Option Nat :=
  let slotBad := fun (p : PortIx × Fin 64) => get s (F.FAB_SLOT_OWN_VALID p.1 p.2) == 1 && get s (F.FAB_SLOT_OWN_PID p.1 p.2) != x.pid.toNat
  let taken := fun (l : Fin 16) => match mapPhys s l with | some c => get s (F.CORE_CTL_ID_PVALID c) == 1 | none => true
  if (partRec s n).isSome || x.lcores.any taken || !x.members.contains (BitVec.ofNat 16 (ownAddr s)) then some 3
  else if ownRole s = 1 && s.fw.subst.isNone then some 3
  else if x.slots.any slotBad then some 3
  else if x.owner.val ≠ 0 && !flag s (F.MBX_FN_ENABLED x.owner) then some 6
  else if noRegion s x || decide (((List.range 4096).filter fun e => get s (F.SRV_PKG_VALID e) == 0).length < x.pkgs.length) then some 7
  else none

/-- A region register from a grant. -/
def putRegion (base size rd wr valid : Fld) (r : RegionIn) (s : State) : State :=
  s |> fwWrite base r.base.toNat |> fwWrite size r.size.toNat |> fwWrite rd (if r.rd then 1 else 0) |> fwWrite wr (if r.wr then 1 else 0)
    |> fwWrite valid 1

/-- BAR4 MiB of a function (Table 12.2). -/
def barMiB (f : Nat) : Nat := if f = 0 then 16384 else 1024

/-- The first BAR4 MiB after the apertures of a function. -/
def aperEnd (s : State) (f : Nat) : Nat :=
  (List.range 8).foldl (fun a i => if flag s (F.GLB_APER_VALID f i) then max a (get s (F.GLB_APER_WOFS f i) + get s (F.GLB_APER_SIZE f i)) else a) 0

/-- The stack regions of a new partition, each once: base and size in MiB. -/
def apersOf (x : PartIn) : List (Nat × Nat) :=
  x.regions.foldl (fun l r => let p := (r.2.2.base.toNat, r.2.2.size.toNat); if l.contains p then l else l ++ [p]) []

/-- Firmware opens an aperture of a function on a stack region, in its lowest free entry, as far as its BAR4 reaches (R339). -/
def openAper (f : Nat) (r : Nat × Nat) (s : State) : State :=
  let o := aperEnd s f
  let n := min r.2 (barMiB f - o)
  match (List.range 8).find? fun i => !flag s (F.GLB_APER_VALID f i) with
  | none => s
  | some i =>
    if n = 0 then s
    else s |> fwWrite (F.GLB_APER_BASE f i) r.1 |> fwWrite (F.GLB_APER_SIZE f i) n |> fwWrite (F.GLB_APER_WOFS f i) o |> fwWrite (F.GLB_APER_RD f i) 1
        |> fwWrite (F.GLB_APER_WR f i) 1 |> fwWrite (F.GLB_APER_VALID f i) 1

/-- Firmware closes the apertures of every function on the regions of some cores. -/
def closeApers (cs : List Nat) (s : State) : State :=
  let bases := cs.flatMap fun c => ((List.range 8).filter fun i => flag s (F.RTR_REGION_VALID c i)).map fun i => get s (F.RTR_REGION_BASE c i)
  upTo 33 (fun f s => upTo 8 (fun i s =>
    if flag s (F.GLB_APER_VALID f i) && bases.contains (get s (F.GLB_APER_BASE f i)) then fwWrite (F.GLB_APER_VALID f i) 0 s else s) s) s

/-- The registers of a new partition (R306). DESIGN CHOICE (log entry 67): its owner, or the PF, gets apertures on its stack regions one after the other,
which R339 leaves to firmware. -/
def createRegs (n : Nat) (x : PartIn) (s : State) : State :=
  let id := fun (l : Fin 16) (s : State) => match mapPhys s l with
    | some c => s |> fwWrite (F.CORE_CTL_ID_LOGICAL c) l.val |> fwWrite (F.CORE_CTL_ID_LVALID c) 1 |> fwWrite (F.CORE_CTL_ID_PART c) n
        |> fwWrite (F.CORE_CTL_ID_PVALID c) 1
    | none => s
  let reg := fun (r : Fin 16 × Fin 8 × RegionIn) (s : State) => match mapPhys s r.1 with
    | some c => putRegion (F.RTR_REGION_BASE c r.2.1) (F.RTR_REGION_SIZE c r.2.1) (F.RTR_REGION_RD c r.2.1) (F.RTR_REGION_WR c r.2.1)
        (F.RTR_REGION_VALID c r.2.1) r.2.2 s
    | none => s
  let breg := fun (r : Fin 8 × RegionIn) (s : State) => upTo 12 (fun p s => fwWrite (F.FAB_BREG_LPART p r.1) n
    (putRegion (F.FAB_BREG_BASE p r.1) (F.FAB_BREG_SIZE p r.1) (F.FAB_BREG_RD p r.1) (F.FAB_BREG_WR p r.1)
      (F.FAB_BREG_VALID p r.1) r.2 s)) s
  let free := (List.range 4096).filter fun e => get s (F.SRV_PKG_VALID e) == 0
  let pkg := fun (p : (BitVec 16 × BitVec 16 × BitVec 4) × Nat) (s : State) =>
    s |> fwWrite (F.SRV_PKG_INDEX p.2) p.1.1.toNat |> fwWrite (F.SRV_PKG_ADDR p.2) p.1.2.1.toNat |> fwWrite (F.SRV_PKG_PORT p.2) p.1.2.2.toNat
      |> fwWrite (F.SRV_PKG_LPART p.2) n |> fwWrite (F.SRV_PKG_VALID p.2) 1
  let slot := fun (p : PortIx × Fin 64) (s : State) => fwWrite (F.FAB_SLOT_OWN_VALID p.1 p.2) 1 (fwWrite (F.FAB_SLOT_OWN_PID p.1 p.2) x.pid.toNat s)
  s |> each x.lcores id |> each x.regions reg |> each x.bregs breg
    |> upTo 12 (fun p s => s |> fwWrite (F.FAB_LPART_PID p n) x.pid.toNat |> fwWrite (F.FAB_LPART_VALID p n) 1)
    |> each (x.pkgs.zip free) pkg |> set (F.SRV_PART_KV_SETS n) x.kvSets.toNat |> showKv n
    |> when (x.owner.val != 0) (setBit (F.MBX_FN_PARTS x.owner) n true)
    |> each (apersOf x) (openAper x.owner)
    |> gated (each x.slots slot)

/-- PART_CREATE. -/
def execPartCreate (q : YReq) (x : PartIn) (s : State) : Host.Outcome State Fault Refusal :=
  let n := hdrPart s q
  .next (run { op := 0x0201 } q (n < 16) [] [.part n] (fun h s =>
    match createFault s n x with
    | some st => respond q h st [] s
    | none =>
      let mem := x.members.map fun a => a.toNat
      let r := PartRec.fresh x.pid.toNat x.owner mem (mem.findIdx fun a => a == ownAddr s) (get s (F.TB_OVR_CNT n))
      let s1 := updFw (fun k => { k with parts := SMap.put none k.parts n (some r) }) (createRegs n x s)
      okActive q h [.part n] (allCores.map fun c => F.CORE_CTL_ID_PVALID c) (fromBuffer q.fn h s1)) s)

/-- What a partition leaves when it is destroyed (R310). -/
def destroyRegs (n pid : Nat) (s : State) : State :=
  let cs := allCores.filter fun c => get s (F.CORE_CTL_ID_PVALID c) == 1 && get s (F.CORE_CTL_ID_PART c) == n
  let off := fun c (s : State) => upTo 8 (fun i s => fwWrite (F.RTR_REGION_VALID c i) 0 s) (fwWrite (F.CORE_CTL_ID_PVALID c) 0 s)
  let port := fun p (s : State) => upTo 8 (fun i s => if get s (F.FAB_BREG_LPART p i) = n then fwWrite (F.FAB_BREG_VALID p i) 0 s else s)
    (fwWrite (F.FAB_LPART_VALID p n) 0 s)
  let pkg := fun e (s : State) => if get s (F.SRV_PKG_VALID e) = 1 && get s (F.SRV_PKG_LPART e) = n then fwWrite (F.SRV_PKG_VALID e) 0 s else s
  let slot := fun p (s : State) => upTo 64 (fun i s => if get s (F.FAB_SLOT_OWN_PID p i) = pid then fwWrite (F.FAB_SLOT_OWN_VALID p i) 0 s else s) s
  s |> endEntries n |> closeApers cs |> each cs off |> upTo 12 port |> upTo 4096 pkg |> upTo 33 (fun f s => setBit (F.MBX_FN_PARTS f) n false s)
    |> setB (F.SRV_PART_EN n) false |> gated (upTo 12 slot)

/-- A request about the partition that the header names, which exists; `ok` says that its own fields are in range. -/
def onPartIf (r : CmdRow) (q : YReq) (ok : Bool) (f : Nat → PartRec → Header → State → State) (s : State) : State :=
  let n := hdrPart s q
  run r q (n < 16 && ok) [n] (if [0x0209, 0x0404, 0x0405].contains r.op then [] else [.part n]) (fun h s =>
    match partRec s n with
    | some p => f n p h s
    | none => respond q h 3 [] s) s

/-- The same for a request that has no such fields. -/
def onPart (r : CmdRow) (q : YReq) (f : Nat → PartRec → Header → State → State) (s : State) : State := onPartIf r q true f s

/-- PART_DESTROY. -/
def execPartDestroy (q : YReq) (s : State) : Host.Outcome State Fault Refusal :=
  .next (onPart { op := 0x0205 } q (fun n r h s =>
    if partRuns s n || r.resetK.isSome || r.resetAt.isSome then respond q h 2 [] s
    else
      let s1 := updFw (fun k => { k with parts := SMap.put none k.parts n none }) (destroyRegs n r.pid s)
      okActive q h [.part n] ((List.range 12).flatMap fun p => (List.range 64).map fun i => F.FAB_SLOT_OWN_VALID p i) s1) s)

/-! ### Start, stop, reset, status -/

/-- PART_START. -/
def execPartStart (q : YReq) (s : State) : Host.Outcome State Fault Refusal :=
  .next (onPart { op := 0x0202 } q (fun n r h s =>
    if r.startK.isSome || r.resetK.isSome || r.resetAt.isSome then respond q h 2 [] s
    else match startFault s n with
      | some st => respond q h st [] s
      | none => sayReady n (pend q h [.part n] (.running n) s)) s)

/-- PART_STOP. -/
def execPartStop (q : YReq) (s : State) : Host.Outcome State Fault Refusal :=
  .next (onPart { op := 0x0203, v := true } q (fun n _ h s =>
    if !partRuns s n then respond q h 0 [] s else askStop n (pend q h [.part n] (.idle n) s)) s)

/-- PART_RESET. -/
def execPartReset (q : YReq) (s : State) : Host.Outcome State Fault Refusal :=
  .next (onPart { op := 0x0204, v := true } q (fun n r h s =>
    if r.resetK.isSome || r.resetAt.isSome then respond q h 2 [] s
    else
      let s1 := pend q h [.part n] (.resetDone n) s
      if isCoord s1 n then pickReset n s1 else toCoord n mAskReset [] s1) s)

/-- A field of PART_SET that leaves its register unchanged, or fits it. -/
def setFits (v : Word) (w : Nat) : Bool := v == BitVec.allOnes 32 || decide (v.toNat < 2 ^ w)

/-- Writes a field of PART_SET. -/
def setIf (v : Word) (f : Fld) (s : State) : State := if v = BitVec.allOnes 32 then s else fwWrite f v.toNat s

/-- PART_SET. -/
def execPartSet (q : YReq) (x : PartSet) (s : State) : Host.Outcome State Fault Refusal :=
  let all := BitVec.allOnes 32
  let forVf := x.fbLayers == all && x.ovrLim == all && x.retryLim == all && x.caddyRate == all
  .next (onPartIf { op := 0x0206, v := forVf } q (setFits x.admRate 16 && setFits x.retryLim 4 && setFits x.caddyRate 16) (fun n _ h s =>
    let keep := fun (v : Word) (old : Nat) => if v = all then old else v.toNat
    let s1 := updPart n (fun r => { r with fb := keep x.fbLayers r.fb, ovr := keep x.ovrLim r.ovr }) s
    okActive q h [.part n] [F.SRV_PART_ADM_RATE n, F.SRV_PART_RETRY_LIM n, F.SRV_PART_PARK_TTL n, F.SRV_PART_CADDY_RATE n]
      (s1 |> setIf x.admRate (F.SRV_PART_ADM_RATE n) |> setIf x.retryLim (F.SRV_PART_RETRY_LIM n)
        |> setIf x.parkTtl (F.SRV_PART_PARK_TTL n) |> setIf x.caddyRate (F.SRV_PART_CADDY_RATE n))) s)

/-- PART_CLEAR. -/
def execPartClear (q : YReq) (s : State) : Host.Outcome State Fault Refusal :=
  .next (onPart { op := 0x0207, v := true } q (fun n _ h s =>
    let clear := fun c (s : State) => upTo 256 (fun i s =>
      if domainDown s ((F.LEAVEN_LFLAG_SAT c i).key / 8) then denied s else s |> setB (F.LEAVEN_LFLAG_SAT c i) false |> setB (F.LEAVEN_LFLAG_OUTLIER_OVF c i) false |> setB (F.LEAVEN_LFLAG_PROOF_MISS c i) false
        |> setB (F.LEAVEN_LFLAG_CHK_MISS c i) false) s
    respond q h 0 [] (updPart n (fun r => { r with fbTold := false, ovrTold := false }) (each (partCores s n) clear s))) s)

/-- PART_STATUS: the states of this member's cores, then those that the other members report (`others`). -/
def execPartStatus (q : YReq) (others : List Byte) (s : State) : Host.Outcome State Fault Refusal :=
  .next (onPart { op := 0x0209, v := true } q (fun n r h s =>
    let kind := match activeSched s n with | some x => x.kind | none => 0xFF
    let st := ((partCores s n).map fun c => (1, coreState s c)) ++ others.map fun b => (1, b.toNat)
    respond q h 0 (fieldsOf ([(1, kind), (4, tickNs (activeSched s n)), (1, partDiv s n), (2, r.coord), (4, get s (F.SRV_PART_KV_FREE n))] ++ st)) s) s)

/-! ### Schedules -/

/-- NOT_BEFORE of an instruction. -/
def notBefore (w : Nat) : Nat := bits w 16 16

/-- Recipe indexes that the instructions of a text name: those of FIRE, EMIT and QUANT. -/
def textRis (ws : List Nat) : List Nat :=
  ws.filterMap fun w =>
    if iClass w = 1 && iOp w = 0 then some (bits w 58 8)
    else if iClass w = 2 && iOp w = 2 then some (bits w 75 8)
    else if iClass w = 3 && iOp w = 0xA then some (bits w 63 8)
    else none

/-- Check 4 of R207 for a section. -/
def textFault (x : Sched) (k : SchedSec) : Bool :=
  !k.text.all legal || k.text.any (fun w => x.tickNs / 4 < notBefore w) ||
    !k.phases.all fun p => p < k.text.length && (k.text.drop p).any fun w => iClass w == 0 && iOp w == 0

/-- Check 5 of R207 for a section of a schedule with a partner: RI_HALF is a half, and the other one from that of the partner's section where
the partition holds the partner; and every recipe index lies in it. -/
def pairFault (other : Option Sched) (x : Sched) (k : SchedSec) : Bool :=
  let mine := fun (i : Nat) => if k.riHalf = 1 then decide (i < 128) else decide (128 ≤ i)
  let same := match other with
    | some y => y.id == x.pair && y.secs.any fun j => j.lcore == k.lcore && j.riHalf == k.riHalf
    | none => false
  k.riHalf = 0 || same || !((k.rcps.map fun r => r.ix.toNat) ++ textRis k.text).all mine

/-- The physical cores that a schedule names. -/
def schedCores (s : State) (x : Sched) : List Nat := x.secs.filterMap fun k => mapPhys s k.lcore

/-- Checks 3 to 6 of R207, with R222. -/
def schedFault (s : State) (n : Nat) (x : Sched) : Option Nat :=
  let inPart := fun (k : SchedSec) => match mapPhys s k.lcore with | some c => corePart s c == some n | none => false
  if !(s.fw.models.any fun m => m.bound && m.img.id.toNat == x.model) || !x.secs.all inPart then some 3
  else if x.secs.any (textFault x) || (divOf s x).isNone then some 3
  else if x.pair ≠ 0 && x.secs.any (pairFault (activeSched s n) x) then some 3
  else if (plannedK s n).isSome || (schedCores s x).any fun c => get s (F.SEQ_CTL_BANK c) != actv s (F.SEQ_CTL_BANK c) then some 7
  else none

/-- The checks of R207 on an image, in order. -/
def imgFault (s : State) (n : Nat) (x : SchedImg) : Option Nat :=
  if !schedMagic x.bytes then some 3
  else if leAt x.bytes 4 2 ≠ 1 then some 4
  else if !schedForm x.bytes then some 3
  else if !imageRoot s (schedSigned x.bytes) || !signatureOk (schedSigned x.bytes) x.nonce || !schedBody x.bytes then some 6
  else schedFault s n (readSched x.bytes)

/-- Writes the fields of RCP_CTL. -/
def writeRcp (c : Nat) (e : RcpIn) (s : State) : State :=
  let i := e.ix.toNat
  let v := e.ctl.toNat
  s |> fwWrite (F.LEAVEN_RCP_CTL_AFMT c i) (bits v 0 1) |> fwWrite (F.LEAVEN_RCP_CTL_RANGE c i) (bits v 1 2)
    |> fwWrite (F.LEAVEN_RCP_CTL_BLK c i) (bits v 3 2) |> fwWrite (F.LEAVEN_RCP_CTL_FINE c i) (bits v 5 1)
    |> fwWrite (F.LEAVEN_RCP_CTL_LT c i) (bits v 8 8) |> fwWrite (F.LEAVEN_RCP_CTL_LAYER c i) (bits v 16 12)
    |> fwWrite (F.LEAVEN_RCP_ASCALE_SCALE c i) e.ascale.toNat |> fwWrite (F.LEAVEN_RCP_WSCALE_SCALE c i) e.wscale.toNat

/-- The REQ field of an ATTN or ADPT instruction, moved on by `lb`; every other instruction stays as it is (R313). -/
def shiftReq (lb w : Nat) : Nat :=
  if iClass w = 7 || iClass w = 8 then w - bits w 62 13 * 2 ^ 62 + (bits w 62 13 + lb) % 2 ^ 13 * 2 ^ 62 else w

/-- What firmware adds to REQ when it loads a schedule into a partition: LB for a served schedule (R313). DEDUCED (log entry 68): one of a KIND
that runs serving steps, decode or prefill. -/
def servedBase (s : State) (n : Nat) (x : Sched) : Nat := if x.kind < 2 then get s (F.SRV_PART_LB n) else 0

/-- Writes a section into a bank of a core: text, phase table, descriptor, recipes (R208). -/
def writeSection (c b lb : Nat) (k : SchedSec) (s : State) : State :=
  let env := fun (e : RcpIn) (s : State) =>
    let i := e.ix.toNat
    s |> fwSet (F.LEAVEN_RCP_ENV_VALID c i) (bits e.env.toNat 0 1) |> fwSet (F.LEAVEN_RCP_ENV_FINE_OK c i) (bits e.env.toNat 1 1)
      |> fwSet (F.LEAVEN_RCP_ENV_A4_OK c i) (bits e.env.toNat 2 1) |> fwSet (F.LEAVEN_RCP_ENV_LEAVEN_OK c i) (bits e.env.toNat 3 1)
  let s1 := if coreUp s c then
      { s with mem := { s.mem with prog := wrBytes s.mem.prog (progAddr c b 0) (k.text.flatMap fun w => natLe 16 (shiftReq lb w)) } }
    else s
  s1 |> upTo 16 (fun i s => fwSet (F.SEQ_PHASE_ENTRY c b i) (nth 0 k.phases i) s)
     |> fwSet (F.SEQ_BANK_DESC_NPHASE_M1 c b) (k.phases.length - 1) |> fwSet (F.SEQ_BANK_DESC_NINST c b) k.text.length
     |> fwSet (F.SEQ_BANK_DESC_VALID c b) 1 |> each k.rcps (fun e s => writeRcp c e (env e s))

/-- Loads a schedule into the standby bank of each named core. -/
def loadSched (n : Nat) (x : Sched) (s : State) : State :=
  let b := 1 - bankOf s n
  let one := fun (k : SchedSec) (s : State) => match mapPhys s k.lcore with | some c => writeSection c b (servedBase s n x) k s | none => s
  updPart n (fun r => if b = 0 then { r with bank0 := some x } else { r with bank1 := some x }) (each x.secs one s)

/-- The recipe fields that a schedule writes. -/
def schedRcps (s : State) (x : Sched) : List Fld :=
  x.secs.flatMap fun k => match mapPhys s k.lcore with | some c => k.rcps.flatMap fun e => rcpFields c e.ix.toNat | none => []

/-- SCHED_LOAD: the recipes are RWS fields (R345). -/
def execSchedLoad (q : YReq) (x : SchedImg) (s : State) : Host.Outcome State Fault Refusal :=
  .next (onPart { op := 0x0401 } q (fun n _ h s0 =>
    let s := fromBuffer q.fn h s0
    match imgFault s n x with
    | some st => respond q h st [] s
    | none =>
      if partRuns s n then respond q h 0x34 [] s
      else okActive q h [.part n] (schedRcps s (readSched x.bytes)) (loadSched n (readSched x.bytes) s)) s)

/-- A switch that a command asks for: one window ahead (R228). -/
def commandSwitch (q : YReq) (n : Nat) (h : Header) (s : State) : State :=
  let s1 := pend q h [.part n] (.switched n (1 - bankOf s n)) s
  if isCoord s1 n then sendSwitch n (roundUp (curK s1 + winLen s1 n) (largerDiv s1 n)) false false s1 else toCoord n mAskSwitch [] s1

/-- SCHED_SWITCH. -/
def execSchedSwitch (q : YReq) (s : State) : Host.Outcome State Fault Refusal :=
  .next (onPart { op := 0x0402 } q (fun n r h s =>
    if (standbySched s n).isNone then respond q h 0x30 [] s
    else if r.switchK.isSome then respond q h 2 [] s
    else commandSwitch q n h s) s)

/-- PART_NARROW. -/
def execPartNarrow (q : YReq) (s : State) : Host.Outcome State Fault Refusal :=
  .next (onPart { op := 0x0208, v := true } q (fun n r h s =>
    let narrow := match standbySched s n with | some x => x.kind == 0 | none => false
    if [false, true].any (fun e => throttled s e && inHalf s n e) || r.switchK.isSome then respond q h 2 [] s
    else if !narrow then respond q h 0x30 [] s
    else commandSwitch q n h s) s)

/-- HALF_CLOCK (R232). `there`: the other members of every partition that has to switch answer that their standby schedule, which runs with
the half slow, is VALID on their cores. -/
def execHalfClock (q : YReq) (east lower there : Bool) (s : State) : Host.Outcome State Fault Refusal :=
  let f := if east then F.TB_HALF_CLK_EAST_SLOW else F.TB_HALF_CLK_WEST_SLOW
  let need := (halfParts s east).filter fun n => !runsSlow (activeSched s n) east
  .next (run { op := 0x0D05 } q true [] (if lower then need.map .part else []) (fun h s =>
    if !lower then
      if throttled s east then respond q h 2 [] s
      else raiseHalf east (pend q h [] (.shadows [f.key]) s)
    else match need.find? fun n => !runsSlow (standbySched s n) east || !there with
      | some n => respond q h 0x30 [] (notify 3 (some n) (fieldsOf [(1, n), (8, 0), (4, 0)]) s)
      | none =>
        let k := roundUp (curK s + (need.map (winLen s)).foldl max 1) 128
        let s1 := each need (fun n s => switchHere n k (tellMembers n mSwitch [k, 0, 0] s)) (pend q h (need.map Obj.part) (.slow east) s)
        if need.isEmpty then gated (fwWrite f 1) s1 else planGate (lowerAt (lowTick s1 [east] k) [east] s1)) s)

/-! ### Recipes and flags -/

/-- A recipe change fits ENV of its entry (R116). -/
def rcpInFits (s : State) (c : Nat) (e : RcpIn) : Bool :=
  let i := e.ix.toNat
  let v := e.ctl.toNat
  flag s (F.LEAVEN_RCP_ENV_VALID c i) && (!bit v 0 || flag s (F.LEAVEN_RCP_ENV_A4_OK c i)) && (!bit v 5 || flag s (F.LEAVEN_RCP_ENV_FINE_OK c i)) &&
    (ltOf (bits v 8 8) == 0 || bit v 5 || flag s (F.LEAVEN_RCP_ENV_LEAVEN_OK c i))

/-- RECIPE_SET (R117): up to 96 entries with their logical cores. -/
def execRecipeSet (q : YReq) (l : List (Fin 16 × RcpIn)) (s : State) : Host.Outcome State Fault Refusal :=
  let at_ := fun (p : Fin 16 × RcpIn) => (mapPhys s p.1).filter fun c => corePart s c == some (hdrPart s q)
  .next (onPartIf { op := 0x0403, v := true } q (decide (l.length ≤ 96) && l.all fun p => (at_ p).isSome) (fun n _ h s =>
    if l.any fun p => match at_ p with | some c => !rcpInFits s c p.2 | none => true then respond q h 0x30 [] s
    else
      let s1 := each l (fun p s => match at_ p with | some c => writeRcp c p.2 s | none => s) s
      okActive q h [.part n] (l.flatMap fun p => match at_ p with | some c => rcpFields c p.2.ix.toNat | none => []) s1) s)

/-- RECIPE_GET: the active recipe table of a logical core, 16 bytes an entry. -/
def execRecipeGet (q : YReq) (l : Fin 16) (s : State) : Host.Outcome State Fault Refusal :=
  let at_ := (mapPhys s l).filter fun c => corePart s c == some (hdrPart s q)
  .next (onPartIf { op := 0x0404, v := true } q at_.isSome (fun _ _ h s =>
    match at_ with
    | none => s
    | some c =>
        let ent := fun i => natLe 4 (actv s (F.LEAVEN_RCP_CTL_AFMT c i) + 2 * actv s (F.LEAVEN_RCP_CTL_RANGE c i) + 8 * actv s (F.LEAVEN_RCP_CTL_BLK c i) +
            32 * actv s (F.LEAVEN_RCP_CTL_FINE c i) + 2 ^ 8 * actv s (F.LEAVEN_RCP_CTL_LT c i) + 2 ^ 16 * actv s (F.LEAVEN_RCP_CTL_LAYER c i)) ++
          natLe 4 (actv s (F.LEAVEN_RCP_ASCALE_SCALE c i)) ++ natLe 4 (actv s (F.LEAVEN_RCP_WSCALE_SCALE c i)) ++
          natLe 4 (get s (F.LEAVEN_RCP_ENV_VALID c i) + 2 * get s (F.LEAVEN_RCP_ENV_FINE_OK c i) + 4 * get s (F.LEAVEN_RCP_ENV_A4_OK c i) +
            8 * get s (F.LEAVEN_RCP_ENV_LEAVEN_OK c i))
        if domainDown s ((F.LEAVEN_RCP_CTL_AFMT c 0).key / 8) then respond q h 0 (zeros 4096) (upTo 1024 (fun _ s => denied s) s)
        else respond q h 0 ((List.range 256).flatMap ent) s) s)

/-- Flags of LEAVEN_LFLAG of an entry. -/
def lflags (s : State) (c i : Nat) : Nat :=
  get s (F.LEAVEN_LFLAG_SAT c i) + 2 * get s (F.LEAVEN_LFLAG_OUTLIER_OVF c i) + 4 * get s (F.LEAVEN_LFLAG_PROOF_MISS c i) +
    8 * get s (F.LEAVEN_LFLAG_CHK_MISS c i)

/-- FLAGS_GET: per layer, the union of the flags and of the last window's bitmap over the members: the cores of this one, and what the other members
report (`others`: layer, flags, bit of the bitmap). -/
def execFlagsGet (q : YReq) (others : List (BitVec 12 × BitVec 4 × Bool)) (s : State) : Host.Outcome State Fault Refusal :=
  .next (onPart { op := 0x0405, v := true } q (fun n _ h s =>
    let es := (partCores s n).flatMap fun c => (List.range 256).filterMap fun i =>
      if flag s (F.LEAVEN_RCP_ENV_VALID c i) then some (actv s (F.LEAVEN_RCP_CTL_LAYER c i), lflags s c i, getBit s (F.LEAVEN_WINMAP_MAP c (i / 32)) (i % 32))
      else none
    let es := es ++ others.map fun x => (x.1.toNat, x.2.1.toNat, x.2.2)
    let one := fun (y : Nat) =>
      let mine := es.filter fun e => e.1 == y
      natLe 2 y ++ natLe 1 ((mine.map fun e => e.2.1).foldl (· ||| ·) 0) ++ natLe 1 (if mine.any fun e => e.2.2 then 1 else 0)
    respond q h 0 ((uniq (es.map fun e => e.1)).flatMap one) s) s)

/-! ### Replacement of a core (R399 to R401) -/

/-- The lowest-numbered hot spare that is good and not FENCED. -/
def hotSpare (s : State) : Option Nat := allCores.find? fun c => coreGood s c && coreState s c != cFenced && (logOf s c).isNone

/-- Copies fields of RWS registers from one to another. -/
def copyRws (l : List (Fld × Fld)) (s : State) : State := each l (fun p s => fwWrite p.2 (get s p.1) s) s

/-- The spare starts: microcode, retired arrays, calibration. -/
def spareStart (x : Nat) (s : State) : State :=
  calRestore x (reretire x (takeMicrocode x (runCopy s.fw.boot).ver true (setCoreState x cIdle (wipeSpad x (resetCompute x s)))))

/-- The regions of a core, copied field by field to the spare. -/
def regionPairs (c x : Nat) : List (Fld × Fld) :=
  (List.range 8).flatMap fun i => [(F.RTR_REGION_BASE c i, F.RTR_REGION_BASE x i), (F.RTR_REGION_SIZE c i, F.RTR_REGION_SIZE x i),
    (F.RTR_REGION_RD c i, F.RTR_REGION_RD x i), (F.RTR_REGION_WR c i, F.RTR_REGION_WR x i), (F.RTR_REGION_VALID c i, F.RTR_REGION_VALID x i)]

/-- The spare takes the registers of a core and its logical number. -/
def spareRegs (c l n x : Nat) (s : State) : State :=
  copyRws (regionPairs c x) s |> fwWrite (F.CORE_CTL_ID_LOGICAL x) l |> fwWrite (F.CORE_CTL_ID_LVALID x) 1 |> fwWrite (F.CORE_CTL_ID_PART x) n
    |> fwWrite (F.CORE_CTL_ID_PVALID x) 1 |> fwWrite (F.CORE_CTL_ID_LVALID c) 0 |> fwWrite (F.CORE_CTL_ID_PVALID c) 0
    |> set (F.SRV_CORE_STAGE x) (get s (F.SRV_CORE_STAGE c)) |> set (F.SRV_CORE_SVALID x) (get s (F.SRV_CORE_SVALID c))
    |> set (F.SRV_CORE_STEP_EN x) (get s (F.SRV_CORE_STEP_EN c)) |> setB (F.SRV_CORE_SVALID c) false |> setB (F.SRV_CORE_STEP_EN c) false
    |> gated (fwWrite (F.GLB_CORE_MAP_PHYS l) x)
    |> updFw fun k => { k with slotMap := SMap.erase k.slotMap (l * 2560) ((l + 1) * 2560) }

/-- Writes the section of a logical core in the schedule of a bank into the spare. -/
def spareBank (n l x b : Nat) (s : State) : State :=
  match schedIn s n b with
  | some y => each (y.secs.filter fun k => k.lcore == l) (writeSection x b (servedBase s n y)) s
  | none => s

/-- Steeps the slots of a logical core anew; `true` when every slot has its array. -/
def spareModels (l : Nat) (failed : List (Nat × Nat)) : List Model → State → Bool × State
  | [], s => (true, s)
  | m :: ms, s =>
    let ix := tableIx s m.img
    let r := loadSlots { ix := ix, lim := 100000, failed := failed, byContent := true } ((records m.img).filter fun r => r.l == l) SlotsDone.none s
    let x := spareModels l failed ms (bindModel m (finishSlots ix r.1.done r.2))
    (r.1.lost.isEmpty && x.1, x.2)

/-- The partition goes on: EN, and the start of R309. -/
def resumePart (n : Nat) (s : State) : State := sayReady n (setB (F.SRV_PART_EN n) true s)

/-- The models of the table whose arrays a core serves. -/
def boundModels (s : State) : List Model := s.fw.models.filter fun m => m.bound

/-- Firmware can steep the slots of a logical core on a core: its sample allows it, and the golden records hold no POISONED line (R154,
R160). -/
def canSteep (s : State) (l x : Nat) : Bool :=
  windowOk s x && (boundModels s).all fun m => goldClean s ((records m.img).filter fun r => r.l == l)

/-- The spare takes the logical number of a core: microcode, calibration, arrays, schedules, registers and CORE_MAP. The partition goes on
when every slot has its array (R404). -/
def replaceCore (c l n x : Nat) (failed : List (Nat × Nat)) (s : State) : State :=
  let s1 := assignSlots x l (spareRegs c l n x (spareStart x s))
  let r := spareModels l failed (boundModels s1) s1
  let s2 := spareBank n l x 0 r.2 |> spareBank n l x 1 |> (fun t => fwWrite (F.SEQ_CTL_BANK x) (bankOf s n) t) |> logRec [0x399, l, c, x]
  when r.1 (resumePart n) s2

/-- The partition stands still here. -/
def standsStill (s : State) (n : Nat) : Bool :=
  !partRuns s n && match partRec s n with | some r => r.pauseK.isNone | none => true

/-- A fenced core of a partition that stands still is replaced once the spare may be steeped, or FENCE_PROPOSED is reported. -/
def replaceOrPropose (c l n : Nat) (failed : List (Nat × Nat)) (s : State) : State :=
  match hotSpare s with
  | some x => if canSteep s l x then ackAll 2 (replaceCore c l n x failed s) else s
  | none => ackAll 2 (fwReport 0x21 0xFFFF s)

/-- FAULT_PAUSE: an L2 event of core `c`. The partition is paused first; once it stands still the core is replaced. -/
def execFaultPause (c : CoreIx) (failed : List (CoreIx × ArrIx)) (s : State) : Host.Outcome State Fault Refusal :=
  if coreState s c ≠ cFenced || !unacked s 2 then .next s
  else match logOf s c, corePart s c with
    | some l, some n => .next (if standsStill s n then replaceOrPropose c l n (pairs failed) s else askPause n s)
    | _, _ => .next (ackAll 2 s)

/-- CORE_FENCE (R400). -/
def execCoreFence (q : YReq) (c : CoreIx) (s : State) : Host.Outcome State Fault Refusal :=
  .next (run { op := 0x0903 } q (coreGood s c) [] [.core c] (fun h s =>
    match logOf s c, corePart s c with
    | some _, some n => askPause n (pend q h [.core c, .part n] (.fenced c) s)
    | _, _ => respond q h 0 [] (fenceCmd c s)) s)

/-! ### Re-steeps in place (R171, R404) -/

/-- One request of a core without spares: the array is steeped where it is, serving no slot meanwhile (R171); one of the retired map stays as it
is (R172). -/
def inPlace (c : Nat) (failed : List (Nat × Nat)) (n : Nat) (s : State) : State :=
  let w2 := get s (F.ARR_CTL_FMT c n) = 1
  let t := get s (F.ARR_CTL_SLOT c n)
  let off := fun s => updFw (fun k => { k with suspects := NSet.del k.suspects (akey c n) }) (answered c n (fwWrite (F.ARR_CTL_SLOT c n) 0xFFF s))
  if NSet.has s.fw.retired (akey c n) then off s
  else if !windowOk s c then s
  else if 100000 ≤ cyclesOf s c n then fwReport 0x21 c (retireArr c n 0x32 (off s))
  else
    let g := readGold c (slotGold s c n) s
    if g.1.2 then g.2
    else if failed.contains (c, n) then fwReport 0x21 c (retireArr c n 0x33 (steepArr c n w2 true g.1.1 (off g.2)))
    else emit .net .report [0x171, c, n] (arrCmd c n 4 (fwWrite (F.ARR_CTL_SLOT c n) t (steepArr c n w2 false g.1.1 (off g.2))))

/-- RESTEEP_IN_PLACE: requests on a core with no EMPTY spare wait for a pause, and are answered in it. A retired array keeps the partition
paused (R404). -/
def execResteepInPlace (c : CoreIx) (failed : List ArrIx) (s : State) : Host.Outcome State Fault Refusal :=
  let rs := (requests s c).take 64
  if rs.isEmpty || (emptySpare s c).isSome || !coreUp s c then .next s
  else if coreRuns s c || flag s (F.CORE_CTL_STATE_RUN_PEND c) then
    .next (if SMap.get 0 s.fw.deferAt c = 0 then updFw (fun k => { k with deferAt := SMap.put 0 k.deferAt c (now s + 1) }) s else s)
  else
    let s1 := updFw (fun k => { k with deferAt := SMap.put 0 k.deferAt c 0 }) (each rs (inPlace c (failed.map fun n => (c.val, n.val))) s)
    let lost := rs.any fun n => arrState s1 c n == 5
    match corePart s1 c with
    | some n => .next (if !lost && (match partRec s1 n with | some r => r.paused | none => false) then resumePart n s1 else s1)
    | none => .next s1

/-- RESTEEP_DEFER_EXPIRE: 24 h after the deferral the pause is forced. -/
def execResteepDeferExpire (c : CoreIx) (s : State) : Host.Outcome State Fault Refusal :=
  match SMap.get 0 s.fw.deferAt c, corePart s c with
  | t + 1, some n => .next (askPause n (moveTo (t + 86400000000000) s))
  | _, _ => .next s

/-- RESTEEP. -/
def execResteep (q : YReq) (c : CoreIx) (n : ArrIx) (s : State) : Host.Outcome State Fault Refusal :=
  .next (run { op := 0x0904 } q (get s (F.ARR_CTL_SLOT c n) ≠ 0xFFF && coreUp s c) [] [.core c] (fun h s =>
    updFw (fun k => { k with asks := NSet.add k.asks (akey c n) }) (pend q h [.core c] (.resteep c n) s)) s)

/-! ### Rounds (R173) -/

/-- The array of a record has reached the reload limit. -/
def reloadWorn (s : State) (r : GRec) : Bool :=
  match mapPhys s r.l with
  | some c => match arrayFor s r.l r.slot with | some n => decide (95000 ≤ cyclesOf s c n) | none => true
  | none => true

/-- What the arrays of a core hold is not kept: its slots are steeped anew. -/
def forgetContent (c : Nat) (s : State) : State :=
  updFw (fun k => { k with content := SMap.erase k.content (akey c 0) (akey (c + 1) 0) }) s

/-- The arrays of a model have no open re-steep request any more: the round has steeped them (R173). -/
def roundAnswers (m : Model) (s : State) : State :=
  each (records m.img) (fun r s => match holderOf s r with | some a => answered a.1 a.2 s | none => s) s

/-- OP = FULL with TARGET = 0 (R128), after what a pass has reached by now. -/
def fullCal (c : Nat) (s : State) : State := runCal c { op := 1, set := 0, target := false, arr := none } (catchUp c s)

/-- A round whose slots are mapped: the binding, the schedule with its bank and divider at one boundary, and the start (R173). -/
def finishRound (n : Nat) (m : Model) (x : Sched) (s : State) : State :=
  let s1 := loadSched n x (bindModel m (roundAnswers m s))
  resumePart n (planGate (switchHere n (roundUp s1.time.next (largerDiv s1 n)) s1))

/-- ROUND_SWITCH of a paused partition to the round of model part `h`, with its schedule. It waits for the window of every core and for
clean golden records (R154, R160); an array at the reserve, or none left for a slot, ends it with ENDURANCE_EXHAUSTED and the partition
paused. -/
def execRoundSwitch (n : PartIx) (h : Word) (x : SchedImg) (failed : List (CoreIx × ArrIx)) (s : State) : Host.Outcome State Fault Refusal :=
  match modelOf s h.toNat, partRec s n with
  | some m, some r =>
    let cs := partPhys s m.img
    if m.img.rounds ≤ 1 || !m.golden then .next s
    else if !r.paused then .next (askPause n s)
    else if (records m.img).any (reloadWorn s) then .next (emit .net .report [0x173, n.val, 0x32] s)
    else if !goldClean s (records m.img) || !cs.all (fun c => coreUp s c && windowOk s c) then .next s
    else if (imgFault s n x).isSome then .next (emit .net .report [0x173, n.val, (imgFault s n x).getD 0] s)
    else
      let s0 := enterTable m.img s
      let ix := tableIx s0 m.img
      let w := loadSlots { ix := ix, lim := 95000, failed := pairs failed, byContent := true } (records m.img) SlotsDone.none (each cs forgetContent s0)
      if w.1.waits then .next w.2
      else if w.1.lost.isEmpty then .next (finishRound n m (readSched x.bytes) (finishSlots ix w.1.done (each cs fullCal w.2)))
      else .next (emit .net .report [0x173, n.val, 0x32] w.2)
  | _, _ => .next s

end Sys2Proof.Machine
end

