-- ==== Sys2Proof/Machine/Load.lean ====
section
/-! DEFINITION. Yarile commands on models and adapters (R157, R159, R164 to R169, R203, R333, R349). -/
namespace Sys2Proof.Machine

/-! ### Models -/

/-- A load is in progress (R165). -/
def loading (s : State) : Bool := s.fw.pends.any fun p => p.opcode == 0x0301

/-- The entry of the model table that an image names: the same IMAGE_ID, manifest digest and part. -/
def sameModel (s : State) (g : Image) : Option Model := s.fw.models.find? fun m => samePart m.img g

/-- The golden copy of the part is in place: an earlier load placed it (R154). -/
def placedAlready (s : State) (g : Image) : Bool := match s.fw.placed with | some m => m.golden && m.img == g | none => false

/-- Result of MODEL_LOAD: handle, and the counts of arrays steeped, kept and remapped. -/
def loadResult (m : Model) : List Byte := fieldsOf [(4, m.handle), (4, m.counts.1), (4, m.counts.2.1), (4, m.counts.2.2)]

/-- A part that passed the checks: its golden copy, which a repeated load finds in place. -/
def admitModel (h : Nat) (text : List Byte) (g : Image) (s : State) : State :=
  let m : Model := { handle := h, img := g, golden := true, bound := false, counts := (0, 0, 0) }
  updFw (fun k => { k with placed := some m, lastHandle := max k.lastHandle h })
    (enterTable g (if placedAlready s g then s else placeGolden g text s))

/-- The first failure of the checks that a load makes: those of decryption are behind it where the copy is in place. -/
def loadFault (s : State) (x : ImgIn) (p : Parsed) : Option Nat := if placedAlready s p.img then imageEarly s x p else imageFault s x p

/-- The handle of a load: that of the table, that of a repeated load, or a new one. -/
def loadHandle (s : State) (g : Image) : Nat :=
  match sameModel s g with
  | some m => m.handle
  | none => match s.fw.placed with
    | some m => if samePart m.img g then m.handle else s.fw.lastHandle + 1
    | none => s.fw.lastHandle + 1

/-- MODEL_LOAD of an image that check 1 of Table 5.9 passes: the checks in order. -/
def loadChecked (q : YReq) (h : Header) (x : ImgIn) (p : Parsed) (s : State) : State :=
  if !loadsOk s then pend q h [] (.fails 5) s
  else match (sameModel s p.img).filter fun m => m.bound with
    | some m => respond q h 0 (loadResult m) s
    | none =>
      if s.fw.models.any fun m => m.img.id == p.img.id && m.img.digest != p.img.digest then pend q h [] (.fails 3) s
      else match loadFault s x p with
        | some st => pend q h [] (.fails st) (dropGolden x p s)
        | none => pend q h [.model (loadHandle s p.img)] (.load (loadHandle s p.img)) (admitModel (loadHandle s p.img) (imageText p x.key) p.img s)

/-- MODEL_LOAD up to the end of the checks of Table 5.9; the steeps follow when the PENDING command ends. The image is staged first (R163).
DESIGN CHOICE (log entry 67): an image that cannot be staged, or read there, ends the command with the status of that access. -/
def execModelLoad (q : YReq) (x : ImgIn) (s : State) : Host.Outcome State Fault Refusal :=
  .next (run { op := 0x0301 } q true [] [] (fun h s =>
    if loading s then respond q h 2 [] s
    else
      let w := stageImage q.fn x s
      if w.1 ≠ 0 then pend q h [] (.fails w.1) w.2 else
      match parseImage x with
      | none => pend q h [] (.fails 3) w.2
      | some p => if partBusy s p.img then respond q h 2 [] w.2 else loadChecked q h x p w.2) s)

/-- The arrays that hold a model, or serve one of its slots. -/
def modelArrays (s : State) (m : Model) : List (Nat × Nat) :=
  (records m.img).filterMap fun r =>
    match holderOf s r with
    | some a => if SMap.get 0 s.fw.content (akey a.1 a.2) = contentOf (tableIx s m.img) r.slot then some a else none
    | none => none

/-- A partition binds a model: a schedule in one of its banks is for it. -/
def modelBound (s : State) (m : Model) : Bool :=
  (List.range 16).any fun n => match partRec s n with
    | some r => [r.bank0, r.bank1].any fun b => match b with | some y => y.model == m.img.id | none => false
    | none => false

/-- A request about a model of the table. -/
def onModel (r : CmdRow) (q : YReq) (hd : Word) (f : Model → Header → State → State) (s : State) : State :=
  run r q true [] [.model hd.toNat] (fun h s => match modelOf s hd.toNat with
    | some m => f m h s
    | none => respond q h 3 [] s) s

/-- MODEL_UNLOAD (R167): the slots are freed at one boundary, the golden regions cleared; the erase follows when they are free. -/
def execModelUnload (q : YReq) (hd : Word) (s : State) : Host.Outcome State Fault Refusal :=
  .next (onModel { op := 0x0302 } q hd (fun m h s =>
    if modelBound s m then respond q h 2 [] s
    else
      let l := modelArrays s m
      let s1 := each l (fun a s => fwWrite (F.ARR_CTL_SLOT a.1 a.2) 0xFFF s) s
      let s2 := updFw (fun k => { k with models := k.models.filter fun (y : Model) => y.handle != m.handle }) (when m.golden (clearGolden m.img) s1)
      let keys := l.map fun a => (F.ARR_CTL_SLOT a.1 a.2).key
      if force h || (waitActive h && keys.any fun k => s2.shadows.any fun x => x.fld.key == k) then
        pend q h [.model m.handle] (.unload keys l (force h)) s2
      else respond q h 0 [] s2) s)

/-- What an unloaded model's arrays hold is erased (R167). -/
def eraseModel (arrs failed : List (Nat × Nat)) (s : State) : State :=
  each arrs (fun a s => eraseArr a.1 a.2 (failed.contains a)
    (updFw (fun k => { k with content := SMap.put 0 k.content (akey a.1 a.2) 0 }) s)) s

/-- MODEL_LIST: per entry the handle, IMAGE_ID, part and binding state. -/
def execModelList (q : YReq) (s : State) : Host.Outcome State Fault Refusal :=
  .next (run { op := 0x0303, v := true } q true [] [] (fun h s =>
    respond q h 0 (s.fw.models.flatMap fun m => fieldsOf [(4, m.handle), (16, m.img.id.toNat), (4, m.img.part), (4, if m.bound then 1 else 0)]) s) s)

/-- MODEL_SUPPLY: the image is fetched from the source that the command names (R169). -/
def execModelSupply (q : YReq) (hd : Word) (x : ImgIn) (failed : List (CoreIx × ArrIx)) (s : State) : Host.Outcome State Fault Refusal :=
  .next (onModel { op := 0x0304 } q hd (fun m h s =>
    if m.bound then respond q h 0 [] s
    else if partBusy s m.img then respond q h 2 [] s
    else
      let r := fetchModel m (some x) (pairs failed) s
      respond q h r.1 [] r.2) s)

/-- MODEL_DIGEST. -/
def execModelDigest (q : YReq) (hd : Word) (s : State) : Host.Outcome State Fault Refusal :=
  .next (onModel { op := 0x0305 } q hd (fun m h s =>
    let d := goldDigests (records m.img) s
    respond q h 0 (natLe 48 (twoLevel d.1) ++ natLe 48 (twoLevel (readDigests s m))) d.2) s)

/-- The load in progress. -/
def loadOf (s : State) (h : Nat) : Option Model := s.fw.placed.filter fun m => m.handle == h

/-- A load that ran through enters the model table. -/
def keepModel (m : Model) (s : State) : State :=
  updFw (fun k => { k with models := (k.models.filter fun (y : Model) => y.handle != m.handle) ++ [m], placed := none }) s

/-- The end of a load whose steeps ran: full calibrations, the table entry and the binding; or a slot found no array (R157, R165). -/
def endLoad (p : Pend) (hd : Nat) (failed : List (Nat × Nat)) (s : State) : State :=
  match loadOf s hd with
  | none => endPend p 0x35 [] s
  | some m =>
    let s0 := each m.img.cores (fun k s => match mapPhys s k.lcore with | some c => assignSlots c k.lcore (calRestore c s) | none => s) s
    let ix := tableIx s0 m.img
    let r := loadSlots { ix := ix, lim := 100000, failed := failed, byContent := true } (records m.img) SlotsDone.none s0
    if !r.1.lost.isEmpty then endPend p 0x32 [] r.2
    else
      let m1 := { m with counts := (r.1.steeped, r.1.kept, r.1.remapped) }
      let full := fun c (s : State) => runCal c { op := 1, set := 0, target := false, arr := none } s
      endPend p 0 (loadResult m1) (bindModel m1 (finishSlots ix r.1.done (keepModel m1 (each (partPhys s m.img) full r.2))))

/-! ### Adapters (R203, R333) -/

/-- The lowest slot, as written, that a condition holds of. -/
def aslotWhere (f : Nat → Bool) : Option Nat := (List.range 64).find? f
/-- The slot that is CUR for an ID. -/
def curSlot (s : State) (id : Nat) : Option Nat := aslotWhere fun i =>
  get s (F.SRV_ASLOT_ID i) == id && get s (F.SRV_ASLOT_STATE i) == 2 && get s (F.SRV_ASLOT_CUR i) == 1
/-- A FREE slot. -/
def freeAslot (s : State) : Option Nat := aslotWhere fun i => get s (F.SRV_ASLOT_STATE i) == 0
/-- Some slot holds the ID. -/
def holdsId (s : State) (id : Nat) : Bool := (aslotWhere fun i => get s (F.SRV_ASLOT_STATE i) != 0 && get s (F.SRV_ASLOT_ID i) == id).isSome

/-- The served partitions that this package heads. -/
def headParts (s : State) : List Nat := (List.range 16).filter fun n => isHead s n && flag s (F.SRV_PART_EN n)
/-- This package serves some partition of which another package is the head. -/
def served (s : State) : Bool := (List.range 16).any fun n => flag s (F.SRV_PART_EN n)

/-- Firmware changes an adapter slot: by a notice to the members of every partition that this package heads, by itself on a package that serves nothing; a member waits for the
head's notice. -/
def slotNotice (i id g st cur : Nat) (s : State) : State :=
  let m := fun n => ordinal s n (curK s) + lead s n
  match headParts s with
  | n :: l => each l (fun k => noticeMembers k (m k) (.slot i id g st cur)) (sendNotice n (m n) (.slot i id g st cur) s)
  | [] => if served s then s else putAslot i id g st cur s

/-- A slot changes at once, and the members hear of it. -/
def slotNow (i id g st cur : Nat) (s : State) : State :=
  each (headParts s) (fun n => noticeMembers n (ordinal s n (curK s) + lead s n) (.slot i id g st cur)) (putAslot i id g st cur s)

/-- Stack bytes that a segment needs. -/
def segBytes (x : SegIn) : Nat := (x.rankM1.toNat + 1) * (x.din.toNat + x.dout.toNat) * 512
/-- The segments of an adapter are in range; they fit in the stacks. -/
def segsOk (l : List SegIn) : Bool := l.all fun x => x.rows.length == segBytes x
/-- They fit. -/
def segsFit (l : List SegIn) : Bool := l.all fun x => decide (x.addr.toNat + segBytes x ≤ lineCount * 512)

/-- The directory entries of the slot for a generation. -/
def putDir (i g : Nat) (l : List SegIn) (s : State) : State :=
  let one := fun (x : SegIn) (s : State) => match mapPhys s x.lcore with
    | none => s
    | some c =>
      let e := i * 16 + x.seg.val
      s |> fwWrite (F.SEQ_ADPT_DIR_A_BASE c e) x.aBase.toNat |> fwWrite (F.SEQ_ADPT_DIR_B_BASE c e) x.bBase.toNat
        |> fwWrite (F.SEQ_ADPT_DIR_RANK_M1 c e) x.rankM1.toNat |> fwWrite (F.SEQ_ADPT_DIR_DIN c e) x.din.toNat
        |> fwWrite (F.SEQ_ADPT_DIR_DOUT c e) x.dout.toNat |> fwWrite (F.SEQ_ADPT_DIR_GEN c e) g
        |> fwWrite (F.SEQ_ADPT_DIR_ALPHA c e) x.alpha.toNat |> fwWrite (F.SEQ_ADPT_DIR_VALID c e) 1
  each l one s

/-- The rows of segments come into the stacks by DMA for a function: 0, or the status of the first that fails. -/
def putRows (f : Nat) : List SegIn → State → Nat × State
  | [], s => (0, s)
  | x :: l, s =>
    let r := dmaIn f x.addr.toNat x.rows s
    if r.1 = 0 then putRows f l r.2 else r

/-- Places a generation: its rows, and the directory entries of the slot; a transfer that fails gives its status and no entry. -/
def placeAdapter (f i g : Nat) (l : List SegIn) (s : State) : Nat × State :=
  let r := putRows f l s
  if r.1 = 0 then (0, putDir i g l r.2) else r

/-- The directory entries of a slot become invalid. -/
def dropAdapter (i : Nat) (s : State) : State :=
  each (allCores.filter (coreUp s)) (fun c s => upTo 16 (fun g s => fwWrite (F.SEQ_ADPT_DIR_VALID c (i * 16 + g)) 0 s) s) s

/-- A slot is written LOADING. -/
def loadingSlot (i id g : Nat) (s : State) : State := putAslot i id g 1 0 s

/-- ADAPTER_LOAD. -/
def execAdapterLoad (q : YReq) (id gen : BitVec 16) (l : List SegIn) (s : State) : Host.Outcome State Fault Refusal :=
  .next (run { op := 0x0501 } q (segsOk l && id != 0xFFFF) [] [.adapter id.toNat] (fun h s =>
    if holdsId s id.toNat then respond q h 3 [] s
    else match freeAslot s with
      | none => respond q h 7 [] s
      | some i =>
        if !segsFit l then respond q h 7 [] s
        else
          let r := placeAdapter q.fn i gen.toNat l s
          if r.1 ≠ 0 then pend q h [] (.fails r.1) r.2
          else pend q h [.adapter id.toNat] (.adapter id.toNat) (slotNotice i id.toNat gen.toNat 2 1 (loadingSlot i id.toNat gen.toNat r.2))) s)

/-- Notes a replacement or an unload. -/
def addReplace (r : Replace) (s : State) : State := { s with srv := { s.srv with replaces := s.srv.replaces ++ [r] } }

/-- ADAPTER_REPLACE. -/
def execAdapterReplace (q : YReq) (id gen : BitVec 16) (l : List SegIn) (s : State) : Host.Outcome State Fault Refusal :=
  .next (run { op := 0x0502 } q (segsOk l) [] [.adapter id.toNat] (fun h s =>
    match curSlot s id.toNat with
    | none => respond q h 3 [] s
    | some o =>
      let r : Replace := { id := id.toNat, gen := gen.toNat, force := force h, slot := none, old := o, unload := false, segs := l, fn := q.fn }
      let p := pend q h [.adapter id.toNat] (.adapter id.toNat)
      if !segsFit l then respond q h 7 [] s
      else match freeAslot s with
        | some i =>
          let x := placeAdapter q.fn i gen.toNat l s
          if x.1 ≠ 0 then pend q h [] (.fails x.1) x.2
          else p (addReplace { r with slot := some i, segs := [] }
            (slotNotice o id.toNat (get x.2 (F.SRV_ASLOT_GEN o)) 3 0 (slotNotice i id.toNat gen.toNat 2 1 (loadingSlot i id.toNat gen.toNat x.2))))
        | none => p (addReplace r s)) s)

/-- ADAPTER_UNLOAD. -/
def execAdapterUnload (q : YReq) (id : BitVec 16) (s : State) : Host.Outcome State Fault Refusal :=
  .next (run { op := 0x0503 } q true [] [.adapter id.toNat] (fun h s =>
    match curSlot s id.toNat with
    | none => respond q h 3 [] s
    | some o =>
      if get s (F.SRV_ASLOT_REFCNT o) ≠ 0 && !force h then respond q h 2 [] s
      else
        let r : Replace := { id := id.toNat, gen := 65536, force := true, slot := none, old := o, unload := true, segs := [], fn := q.fn }
        pend q h [.adapter id.toNat] (.adapter id.toNat)
          (addReplace r (slotNotice o id.toNat (get s (F.SRV_ASLOT_GEN o)) 3 0 s))) s)

/-- ADAPTER_LIST: the 64 slots as their registers read. -/
def execAdapterList (q : YReq) (s : State) : Host.Outcome State Fault Refusal :=
  let one := fun i => natLe 8 (actv s (F.SRV_ASLOT_ID i) + 2 ^ 16 * actv s (F.SRV_ASLOT_GEN i) + 2 ^ 32 * actv s (F.SRV_ASLOT_STATE i) +
    2 ^ 34 * actv s (F.SRV_ASLOT_CUR i) + 2 ^ 35 * get s (F.SRV_ASLOT_REFCNT i))
  .next (run { op := 0x0504, v := true } q true [] [] (fun h s => respond q h 0 ((List.range 64).flatMap one) s) s)

/-- Requests that wait for an ID that is gone end with ADAPTER_REPLACED. -/
def endWaiting (id n : Nat) (s : State) : State :=
  let m := ordinal s n (curK s) + lead s n
  let es := ((srvPart s n).waitAdpt.filter fun p => p.2 == some id).map fun p => p.1
  each es (fun e s => updSrv n (fun k => { k with waitAdpt := SMap.put none k.waitAdpt e none }) (sendNotice n m (.endEntry e 0x23 0) s)) s

/-- The rows of a replacement could not be placed: its command ends with that status. -/
def failReplace (r : Replace) (status : Nat) (s : State) : State :=
  each (s.fw.pends.filter fun p => decide (p.act = .adapter r.id)) (fun p s => endPend p status [] s) s

/-- The old generation of a replacement is bound no more and no new request binds it: it becomes FREE, or takes the new generation;
an unload frees it. -/
def finishReplace (r : Replace) (s : State) : State :=
  let s1 := { s with srv := { s.srv with replaces := s.srv.replaces.filter fun (x : Replace) => x.id != r.id } }
  if r.slot.isSome then slotNow r.old 0 0 0 0 (dropAdapter r.old s1)
  else if r.unload then upTo 16 (endWaiting r.id) (slotNow r.old 0 0 0 0 (dropAdapter r.old s1))
  else
    let x := placeAdapter r.fn r.old r.gen r.segs (dropAdapter r.old s1)
    if x.1 = 0 then slotNow r.old r.id r.gen 2 1 x.2 else failReplace r x.1 (slotNow r.old 0 0 0 0 x.2)

/-- ADAPTER_SLOT_FREE: the REFCNT of the slot of an old generation has reached 0. -/
def execAdapterSlotFree (i : Fin 64) (s : State) : Host.Outcome State Fault Refusal :=
  match s.srv.replaces.find? fun r => r.old == i.val with
  | some r =>
    let ready := (r.slot.isNone && !r.unload) || actv s (F.SRV_ASLOT_STATE i) != 2
    if ready && get s (F.SRV_ASLOT_REFCNT i) = 0 then .next (finishReplace r s) else .next s
  | none => .next s

/-- The adapter command of an ID has done its work: the new generation serves, the old one is gone. -/
def adapterDone (s : State) (op id : Nat) : Bool :=
  !(s.srv.replaces.any fun r => r.id == id) &&
    (if op = 0x0501 then (List.range 64).any fun i => actv s (F.SRV_ASLOT_STATE i) == 2 && actv s (F.SRV_ASLOT_ID i) == id else true)

end Sys2Proof.Machine
end

