-- ==== Sys2Proof/Machine/Thermal.lean ====
section
/-! DEFINITION. Thermal sensors, thresholds, shut-down and the telemetry converter (R413 to R428). -/
namespace Sys2Proof.Machine

/-- A 16-bit temperature, in 0.125 °C. -/
def tempOf (v : Nat) : Int := (BitVec.ofNat 16 v).toInt

/-- Sensors that serve a half (Table 15.4, R415): its 10 cores, its 4 half sensors and the stacks. -/
def halfSensors (east : Bool) : List Nat :=
  (List.range 10).map (fun i => if east then i + 10 else i) ++ (List.range 4).map (fun i => if east then i + 24 else i + 20) ++ [28, 29, 30]

/-- THM_STAT shows the half conditions; a change interrupts the management core (R415). -/
def showHalves (s : State) : State :=
  let any := fun (e : Bool) (f : Nat → Fld) => (halfSensors e).any fun i => flag s (f i)
  let new := [any false F.THM_SENS_WARN, any true F.THM_SENS_WARN, any false F.THM_SENS_THR, any true F.THM_SENS_THR]
  let old := [flag s F.THM_STAT_WARN_W, flag s F.THM_STAT_WARN_E, flag s F.THM_STAT_THR_W, flag s F.THM_STAT_THR_E]
  let s1 := s |> setB F.THM_STAT_WARN_W (nth false new 0) |> setB F.THM_STAT_WARN_E (nth false new 1) |> setB F.THM_STAT_THR_W (nth false new 2)
    |> setB F.THM_STAT_THR_E (nth false new 3)
  when (new != old) (emit .mc .halfChange []) s1

/-- Shut-down (R421): latched, and an L4 event. -/
def shutDown (sens : Nat) (noSens : Bool) (s : State) : State :=
  if flag s F.THM_STAT_SHUT then s
  else raise { src := 0x70, dom := 0xE0 } (s |> setB F.THM_STAT_SHUT true |> set F.THM_STAT_SHUT_SENS sens |> when noSens (setB F.THM_STAT_NOSENS true))

/-- A flag with hysteresis, and its counter of settings. -/
def flagTo (f cnt : Fld) (on off : Bool) (s : State) : State :=
  if on then (if flag s f then s else bump cnt (setB f true s)) else if off then setB f false s else s

/-- A stack's refresh rate follows its sensor: double above 85 °C, normal below 82 °C (R419). -/
def refreshRate (i : Nat) (t : Int) (s : State) : State :=
  if i < 28 then s
  else if 680 < t then updThm (fun k => { k with refresh2 := NSet.add k.refresh2 (i - 28) }) s
  else if t < 656 then updThm (fun k => { k with refresh2 := NSet.del k.refresh2 (i - 28) }) s
  else s

/-- A sample outside 25.0 to 85.0 °C during a STEEP or ERASE batch is noted for its entries (R153). -/
def noteExc (c v : Nat) (s : State) : State :=
  if decide (200 ≤ tempOf v) && decide (tempOf v ≤ 680) then s
  else
    let one := fun (e : StEntry) => if e.op != 3 && e.status.isNone then { e with exc := true } else e
    updCore c (fun k => { k with running := k.running.map fun b => if b.started then { b with entries := b.entries.map one } else b }) s

/-- A valid sample reaches its core's CAL block (R134) and its steep engine (R153). -/
def calSample (c v : Nat) (s : State) : State :=
  if !coreUp s c then s
  else
    let s1 := noteExc c v (updPhys (fun k => { k with temp := SMap.put 0 k.temp c (v + 1) }) (set (F.CAL_TEMP_T_NOW c) v s))
    let d := (tempOf v - geti s1 (F.CAL_TEMP_T_APPLIED c)).natAbs
    when (decide (max 1 (actv s1 (F.CAL_CTL_TSTEP c)) ≤ d)) (trigger c) s1

/-- A valid sample (R414, R415, Table 15.5). -/
def validSample (i v : Nat) (s : State) : State :=
  let t := tempOf v
  let warn := tempOf (get s F.THM_CTL_WARN_T)
  let thr := tempOf (get s F.THM_CTL_THR_T)
  let s1 := s |> set (F.THM_SENS_TEMP i) v |> setB (F.THM_SENS_VALID i) true |> updThm (fun k => { k with validAt := SMap.put 0 k.validAt i (now s + 1) })
    |> when (get s F.THM_PEAK_SENS == 0x1F || decide (tempOf (get s F.THM_PEAK_TEMP) < t)) (fun s => set F.THM_PEAK_SENS i (set F.THM_PEAK_TEMP v s))
    |> flagTo (F.THM_SENS_WARN i) F.THM_WARN_CNT (decide (warn ≤ t)) (decide (t ≤ warn - 24))
    |> flagTo (F.THM_SENS_THR i) F.THM_THR_CNT (decide (thr ≤ t)) (decide (t ≤ thr - 32))
    |> flagTo (F.THM_SENS_FAST i) F.THM_FAST_CNT (decide (thr - 40 ≤ t)) (decide (t < thr - 48))
    |> refreshRate i t |> when (decide (i < 20)) (calSample i v) |> showHalves
  when (decide (896 ≤ t)) (shutDown i false) s1

/-- An invalid sample; that of a core sensor is marked so in the core's CAL block (R137). -/
def invalidSample (i : Nat) (s : State) : State :=
  let s1 := setB (F.THM_SENS_VALID i) false (bump F.THM_INVALID_CNT s)
  if i < 20 && coreUp s i then raise { src := 0x15, dom := i, node := i } (bump (F.CAL_TSENSE_INV_CNT i) s1) else s1

/-- SENSOR_SAMPLE: the reading of a sensor and the result of its self-check. A reading below −40 °C or above 150 °C is invalid. -/
def execSensorSample (i : Fin 31) (v : BitVec 16) (ok : Bool) (s : State) : Host.Outcome State Fault Refusal :=
  let s1 := bump F.THM_SAMPLE_CNT s
  if ok && decide (-320 ≤ v.toInt) && decide (v.toInt ≤ 1200) then .next (validSample i v.toNat s1) else .next (invalidSample i s1)

/-- The latest valid sample of some sensors is 10 ms old: the instant at which it becomes so. -/
def lastValid (s : State) (l : List Nat) : Nat := (l.map fun i => SMap.get 0 s.thm.validAt i - 1).foldl max 0

/-- SENSOR_MISSING_TIMEOUT: 10 ms without a valid sample of a stack sensor, of every half sensor of the sensor's half, or of a core
sensor. -/
def execSensorMissingTimeout (i : Fin 31) (s : State) : Host.Outcome State Fault Refusal :=
  if i.val < 20 then
    let s1 := moveTo (lastValid s [i] + 10000000) s
    .next (showHalves (s1 |> setB (F.THM_SENS_WARN i) false |> setB (F.THM_SENS_THR i) false |> emit .net .report [12, 2, i]))
  else if i.val < 28 then
    let l := (List.range 4).map fun k => k + if i.val < 24 then 20 else 24
    .next (shutDown 0x1F true (moveTo (lastValid s l + 10000000) s))
  else .next (shutDown 0x1F true (moveTo (lastValid s [i] + 10000000) s))

/-- WARNING_CHANGE: the warning condition of a half differs from the one last reported; `i` is the sensor (R416). -/
def execWarningChange (east : Bool) (i : Fin 31) (s : State) : Host.Outcome State Fault Refusal :=
  let cur := if east then flag s F.THM_STAT_WARN_E else flag s F.THM_STAT_WARN_W
  let old := if east then s.thm.warnE else s.thm.warnW
  if cur = old then .next s
  else .next (notify 12 none (natLe 1 0 ++ natLe 1 i) (updThm (fun k => if east then { k with warnE := cur } else { k with warnW := cur }) s))

/-- THM_CTL_WRITE: 32 bits (Table 15.10). A level out of range is ignored and counted. -/
def execThmCtlWrite (a : Agent) (v : Word) (s : State) : Host.Outcome State Fault Refusal :=
  match a with
  | .host => .next (denied s)
  | .mgmt =>
    let w := bits v.toNat 0 16
    let r := bits v.toNat 16 16
    let s1 := if 0x01E0 ≤ w && w ≤ 0x02F8 then set F.THM_CTL_WARN_T w s else bump F.THM_CFG_REJ_CNT s
    if r ≤ 0x0338 && get s1 F.THM_CTL_WARN_T < r then .next (set F.THM_CTL_THR_T r s1) else .next (bump F.THM_CFG_REJ_CNT s1)

/-! ### The telemetry converter (R424, R425) -/

/-- TEL_CTL_WRITE: a write of TEL_CTL, or of TEL_CHSEL (`mask`). -/
def execTelCtlWrite (a : Agent) (mask : Bool) (v : Word) (s : State) : Host.Outcome State Fault Refusal :=
  match a with
  | .host => .next (denied s)
  | .mgmt =>
    let s1 := if mask then set F.TEL_CHSEL_MASK (bits v.toNat 0 16) s
      else s |> set F.TEL_CTL_EN (bits v.toNat 0 1) |> set F.TEL_CTL_MAINS (bits v.toNat 1 1) |> set F.TEL_CTL_LP (bits v.toNat 2 1)
    .next (if flag s1 F.TEL_STAT_BUSY then s1 else telStart s1)

/-- The first round of the start has ended: every rail channel and the reference have a result. -/
def telRound (s : State) : Bool := ((List.range 8) ++ [15]).all fun i => flag s (F.TEL_RES_VALID i)

/-- A result is checked against its limits; during the start one out of range fails it with SUPPLY (R425, R426). -/
def telCheck (ch : Nat) (code : Int) (s : State) : State :=
  let below := flag s (F.TEL_LIM_EN ch) && decide (code < geti s (F.TEL_LIM_LO ch))
  let above := flag s (F.TEL_LIM_EN ch) && decide (geti s (F.TEL_LIM_HI ch) < code)
  let s1 := if below || above then
      emit .mc .telLimit [ch] (bump F.TEL_LIM_CNT (when above (hwSet F.TEL_ALARM_HI ch) (when below (hwSet F.TEL_ALARM_LO ch) s)))
    else s
  let refBad := ch = 15 && decide (13421 < (code - 6710886).natAbs)
  match s.fw.phase with
  | .step n => if 2 ≤ n && telRound s && (below || above || refBad) then failStart 0xC ch n s1 else s1
  | _ => s1

/-- TEL_CONVERSION_END: the code of the conversion in progress, and whether the input was out of range. -/
def execTelConversionEnd (code : BitVec 24) (ovr : Bool) (s : State) : Host.Outcome State Fault Refusal :=
  if !flag s F.TEL_STAT_BUSY then .next s
  else
    let ch := get s F.TEL_STAT_CH
    let s1 := s |> set (F.TEL_RES_CODE ch) code.toNat |> setB (F.TEL_RES_OVR ch) ovr |> setB (F.TEL_RES_LP ch) s.thm.lp
      |> setB (F.TEL_RES_MAINS ch) s.thm.mains |> setB (F.TEL_RES_VALID ch) true |> set (F.TEL_RES_SEQ ch) (get s (F.TEL_RES_SEQ ch) + 1)
      |> set (F.TEL_RES_TIME_TIME ch) (now s) |> bump F.TEL_CONV_CNT |> when ovr (bump F.TEL_OVR_CNT)
    .next (telCheck ch code.toInt (telStart s1))

end Sys2Proof.Machine
end

