-- ==== Sys2Proof/Machine/Query.lean ====
section
/-! DEFINITION. Yarile commands that read, on rings, accounts, calibration, telemetry and faults (R142, R143, R156, R349, R353, R354, R388,
R405). -/
namespace Sys2Proof.Machine

/-- Bits as a mask. -/
def maskOf (l : List Bool) : Nat := l.zipIdx.foldl (fun a p => if p.1 then a + 2 ^ p.2 else a) 0

/-! ### GET_INFO, GET_CERT, GET_LOG -/

/-- The 256 bytes of GET_INFO. -/
def infoBytes (s : State) (f : Nat) : List Byte :=
  let id := get s F.GLB_ID_STEPPING + 2 ^ 8 * get s F.GLB_ID_PART + 2 ^ 16 * get s F.GLB_ID_DEVICE
  let act := (List.range 16).filterMap (mapPhys s)
  let active := maskOf (allCores.map fun c => act.contains c)
  let spare := maskOf (allCores.map fun c => coreGood s c && !act.contains c && coreState s c != cFenced)
  let map := (List.range 16).map fun l => actv s (F.GLB_CORE_MAP_PHYS l) + 128 * actv s (F.GLB_CORE_MAP_VALID l)
  let plan := match s.fw.plan with | some pl => (pl.id, pl.rev) | none => (0, 0)
  let parts := maskOf ((List.range 16).map fun n => (partRec s n).isSome && mayAct s f n)
  let l := natLe 4 id ++ natLe 16 (deviceId s) ++ natLe 4 (fwVer s) ++ natLe 4 (get s F.GLB_YARILE_VER_MINOR + 65536 * get s F.GLB_YARILE_VER_MAJOR) ++
    natLe 1 (get s F.LC_STATE_STATE) ++ natLe 1 (mode s) ++ natLe 1 (get s F.LC_START_REASON) ++ natLe 1 (get s F.LC_START_DETAIL) ++ natLe 4 active ++ natLe 4 spare ++
    map.flatMap (natLe 1) ++ natLe 2 (ownAddr s) ++ zeros 2 ++ natLe 16 plan.1 ++ natLe 4 plan.2 ++ natLe 4 parts
  l ++ zeros (256 - l.length)

/-- GET_INFO. -/
def execGetInfo (q : YReq) (s : State) : Host.Outcome State Fault Refusal :=
  .next (run { op := 0x0101, v := true, min := true } q true [] [] (fun h s => respond q h 0 (infoBytes s q.fn) s) s)

/-- GET_CERT. -/
def execGetCert (q : YReq) (s : State) : Host.Outcome State Fault Refusal :=
  .next (run { op := 0x0102, v := true, min := true } q true [] [] (fun h s =>
    respondBuf q h [] Config.certChain s) s)

/-- A log record that a function may read: a VF, those about its partitions. -/
def mayRead (s : State) (f : Nat) (r : List Nat) : Bool :=
  !isVf f || (nth 0 r 0 == 5 && nth 4 r 0 == 1 && match domPart s (nth 3 r 0) with | some n => mayAct s f n | none => false)

/-- GET_LOG: records from a SEQ, each with its SEQ and length, and the next SEQ. -/
def execGetLog (q : YReq) (seq : Word) (s : State) : Host.Outcome State Fault Refusal :=
  .next (run { op := 0x0103, v := true, min := true } q true [] [] (fun h s =>
    let from_ := max seq.toNat s.fw.logBase
    let rs := (s.fw.log.zipIdx s.fw.logBase).filter fun p => decide (from_ ≤ p.2) && mayRead s q.fn p.1
    let bytes := rs.flatMap fun p => natLe 4 p.2 ++ natLe 4 p.1.length ++ p.1.flatMap (natLe 8)
    respondBuf q h (natLe 4 (s.fw.logBase + s.fw.log.length)) bytes s) s)

/-! ### Rings -/

/-- A ring of a size in a range of powers of two, on 4 KiB. -/
def ringShape (base : Word64) (entries : Word) (lo hi : Nat) : Bool :=
  decide (base.toNat % 4096 = 0) && (List.range 32).any fun i => entries.toNat == 2 ^ i && decide (lo ≤ 2 ^ i) && decide (2 ^ i ≤ hi)

/-- RQ_CREATE. -/
def execRqCreate (q : YReq) (r : Fin 64) (base : Word64) (entries : Word) (wb : Word64) (s : State) : Host.Outcome State Fault Refusal :=
  let n := hdrPart s q
  .next (run { op := 0x0601, v := true } q (n < 16 && ringShape base entries 64 65536) [n] [.ring false r] (fun h s =>
    if (SMap.get none s.srv.rq r.val).isSome || !isHead s n then respond q h 3 [] s
    else
      let x : ReqRing := { fn := q.fn, part := n, base := base.toNat, entries := entries.toNat, wb := wb.toNat, tail := 0, cons := 0 }
      respond q h 0 [] { s with srv := { s.srv with rq := SMap.put none s.srv.rq r.val (some x) } }) s)

/-- OQ_CREATE: `remote` is the hall address of the consumer's package for a remote target. -/
def execOqCreate (q : YReq) (r : Fin 64) (remote : Option (BitVec 16)) (base : Word64) (entries : Word) (wb : Word64) (vec : Byte)
    (modUs modCnt : BitVec 16) (s : State) : Host.Outcome State Fault Refusal :=
  let n := hdrPart s q
  .next (run { op := 0x0602, v := remote.isNone } q (n < 16 && ringShape base entries 256 1048576 && decide (vec.toNat < if isVf q.fn then 16 else 64)) [n]
    [.ring true r]
    (fun h s =>
      if (SMap.get none s.srv.oq r.val).isSome || !isHead s n then respond q h 3 [] s
      else
        let x : OutRing := { fn := q.fn, part := n, remote := remote.map fun a => a.toNat, base := base.toNat, entries := entries.toNat
                             wb := wb.toNat, vector := vec.toNat, modUs := modUs.toNat, modCnt := modCnt.toNat, prod := 0, cons := 0
                             unsig := 0, since := none, asked := false, batch := false, recs := [] }
        respond q h 0 [] (updPage q.fn (fun k => { k with oqHead := SMap.put 0 k.oqHead r.val 0 })
          { s with srv := { s.srv with oq := SMap.put none s.srv.oq r.val (some x) } })) s)

/-- Function and partition of a ring. -/
def ringOwner (s : State) (out : Bool) (r : Nat) : Option (Nat × Nat) :=
  if out then (SMap.get none s.srv.oq r).map fun x => (x.fn, x.part) else (SMap.get none s.srv.rq r).map fun x => (x.fn, x.part)

/-- Some entry other than FREE names an output ring. -/
def ringNamed (s : State) (r : Nat) : Bool :=
  (List.range 8192).any fun e => get s (F.SRV_ENT_TYPE e) == 0 && entState s e != eFree && get s (F.SRV_ENT_ORING e) == r

/-- RING_DESTROY. -/
def execRingDestroy (q : YReq) (out : Bool) (r : Fin 64) (s : State) : Host.Outcome State Fault Refusal :=
  let o := ringOwner s out r
  .next (run { op := 0x0603, v := (o.map fun p => p.1) == some q.fn.val } q o.isSome (match o with | some p => [p.2] | none => []) [.ring out r] (fun h s =>
    if out && ringNamed s r then respond q h 2 [] s
    else respond q h 0 [] { s with srv := { s.srv with
        rq := if out then s.srv.rq else SMap.put none s.srv.rq r.val none
        oq := if out then SMap.put none s.srv.oq r.val none else s.srv.oq } }) s)

/-! ### Accounts, classes, stop sets, requests -/

/-- ACCOUNT_SET (R325). -/
def execAccountSet (q : YReq) (a : Fin 1024) (rate burst : Word) (ends valid : Bool) (s : State) : Host.Outcome State Fault Refusal :=
  let b := fun (x : Bool) => if x then 1 else 0
  .next (run { op := 0x0604 } q true [] [] (fun h s =>
    okActive q h [] [F.SRV_ACCT_RATE a, F.SRV_ACCT_BURST a, F.SRV_ACCT_END a, F.SRV_ACCT_VALID a]
      (s |> fwWrite (F.SRV_ACCT_RATE a) rate.toNat |> fwWrite (F.SRV_ACCT_BURST a) burst.toNat |> fwWrite (F.SRV_ACCT_END a) (b ends)
        |> fwWrite (F.SRV_ACCT_VALID a) (b valid))) s)

/-- CLASS_SET (R326). -/
def execClassSet (q : YReq) (c : Fin 8) (ttft tbt : Word) (s : State) : Host.Outcome State Fault Refusal :=
  .next (run { op := 0x0605 } q true [] [] (fun h s =>
    okActive q h [] [F.SRV_CLASS_TTFT_US c, F.SRV_CLASS_TBT_US c]
      (fwWrite (F.SRV_CLASS_TBT_US c) tbt.toNat (fwWrite (F.SRV_CLASS_TTFT_US c) ttft.toNat s))) s)

/-- STOPSET_SET: 32 token IDs (R328). -/
def execStopsetSet (q : YReq) (i : Fin 8) (tokens : List Word) (s : State) : Host.Outcome State Fault Refusal :=
  .next (run { op := 0x0606 } q (tokens.length = 32) [] [] (fun h s =>
    okActive q h [] ((List.range 32).map fun k => F.SRV_STOPSET_TOKEN i k)
      (each tokens.zipIdx (fun p s => fwWrite (F.SRV_STOPSET_TOKEN i p.2) p.1.toNat s) s)) s)

/-- REQ_QUERY: the 128 bytes of the entry, and its last 16 output tokens. -/
def execReqQuery (q : YReq) (e : EntIx) (s : State) : Host.Outcome State Fault Refusal :=
  .next (run { op := 0x0607, v := true } q (!isVf q.fn || mayAct s q.fn (get s (F.SRV_ENT_LPART e.toNat))) [] [] (fun h s =>
    respond q h 0 ((getEntry s e.toNat).flatMap (natLe 4) ++ (lastTokens s e.toNat).flatMap (natLe 4)) s) s)

/-! ### Calibration -/

/-- CAL_SAVE: identity, core, set, 0, and the 2,624 records of the set. -/
def execCalSave (q : YReq) (c : CoreIx) (set : Fin 4) (s : State) : Host.Outcome State Fault Refusal :=
  .next (run { op := 0x0701 } q true [] [] (fun h s =>
    respondBuf q h [] (natLe 16 (deviceId s) ++ natLe 2 c ++ natLe 1 set ++ zeros 1 ++ rdBytes s.mem.cal (recAddr c set 0) (2624 * 64)) s) s)

/-- CAL_RESTORE: the same layout, taken apart (R142). DESIGN CHOICE (log entry 67): INVALID_ARG is judged before CFG_WRITE_LOCKED; the spec gives no
order of the two. -/
def execCalRestore (q : YReq) (dev : BitVec 128) (c : CoreIx) (set : Fin 4) (recs : List Byte) (s : State) : Host.Outcome State Fault Refusal :=
  .next (run { op := 0x0702 } q (recs.length = 2624 * 64) [] [.core c] (fun h s =>
    let bad := (List.range 2624).any fun n => !recCrc ((recs.drop (64 * n)).take 64)
    if dev.toNat ≠ deviceId s || bad || !coreUp s c then respond q h 3 [] s
    else if coreRuns s c then respond q h 0x34 [] s
    else
      let s1 := fromBuffer q.fn h (catchUp c s)
      respond q h 0 [] (calKeep c { s1 with mem := { s1.mem with cal := wrBytes s1.mem.cal (recAddr c set 0) recs } })) s)

/-- CAL_MEASURE: OP = FULL with TARGET = 1; it ends with its calibration command (R143). -/
def execCalMeasure (q : YReq) (c : CoreIx) (set : Fin 4) (s : State) : Host.Outcome State Fault Refusal :=
  .next (run { op := 0x0703 } q true [] [.core c] (fun h s =>
    if coreRuns s c then respond q h 0x34 [] s
    else if !coreUp s c then respond q h 3 [] s
    else if (core s c).calCmd.isSome then respond q h 2 [] s
    else
      let s1 := calFull c set true s
      if (core s1 c).calCmd.isSome then pend q h [.core c] (.calDone c) s1 else respond q h (get s1 (F.CAL_STATUS_RESULT c)) [] s1) s)

/-- CAL_CONFIG: CAL_SRC, DMON_LOG2, LIMIT and TSTEP. While the block runs (R140) a DMON_LOG2 that differs is locked (R145). -/
def execCalConfig (q : YReq) (c : CoreIx) (src : Bool) (log2 : BitVec 5) (limit : Byte) (tstep : BitVec 4) (s : State) :
    Host.Outcome State Fault Refusal :=
  .next (run { op := 0x0704 } q (decide (12 ≤ log2.toNat) && decide (log2.toNat ≤ 20)) [] [.core c] (fun h s =>
    if coreRuns s c || (calRunning s c && get s (F.CAL_CTL_DMON_LOG2 c) ≠ log2.toNat) then respond q h 0x34 [] s
    else if !coreUp s c then respond q h 3 [] s
    else okActive q h [.core c] [F.CAL_SRC_SRC c, F.CAL_DMON_LIM_LIMIT c, F.CAL_CTL_TSTEP c]
      (s |> calWrite (F.CAL_SRC_SRC c) (if src then 1 else 0) |> Machine.set (F.CAL_CTL_DMON_LOG2 c) log2.toNat
        |> calWrite (F.CAL_DMON_LIM_LIMIT c) limit.toNat |> calWrite (F.CAL_CTL_TSTEP c) tstep.toNat)) s)

/-! ### Telemetry -/

/-- Snapshot of one block: SEQ, and the address and value of every counter that is not 0. -/
def snapBlock (a : Nat) (s : State) : List Byte × State :=
  if !admitted s .mgmt true a 4 then (zeros 8, denied s)
  else
    let s1 := takeSnap a false s
    let r := snapRange a
    let l := s1.snap.filter fun p => decide (8 * r.1 ≤ p.1) && decide (p.1 < 8 * r.2)
    (natLe 4 (get s1 ⟨8 * a + 16, 16, 0⟩) ++ natLe 4 l.length ++ l.flatMap fun p => natLe 4 (p.1 / 8) ++ natLe 8 p.2, s1)

/-- Snapshots of a list of blocks. -/
def snapBlocks : List Nat → State → List Byte × State
  | [], s => ([], s)
  | a :: l, s =>
    let x := snapBlock a s
    let y := snapBlocks l x.2
    (x.1 ++ y.1, y.2)

/-- A VF names cores of its partitions, and SRV. -/
def maySnap (s : State) (f a : Nat) : Bool :=
  !isVf f || decide (0x3000000 ≤ a) || match coreOf a with
    | some c => (match corePart s c with | some n => mayAct s f n | none => false)
    | none => false

/-- TEL_SNAPSHOT: blocks by the address of their snapshot register. -/
def execTelSnapshot (q : YReq) (blocks : List (BitVec 26)) (s : State) : Host.Outcome State Fault Refusal :=
  let l := blocks.map fun a => a.toNat
  .next (run { op := 0x0801, v := l.all (maySnap s q.fn) } q (l.all isSnap) [] [] (fun h s =>
    let x := snapBlocks l s
    respondBuf q h [] x.1 x.2) s)

/-- ENDURANCE_GET: 2,624 cycle counts and last steep times (R156). -/
def execEnduranceGet (q : YReq) (c : CoreIx) (s : State) : Host.Outcome State Fault Refusal :=
  .next (run { op := 0x0802 } q true [] [] (fun h s =>
    respond q h 0 ((List.range 2624).flatMap (fun n => natLe 4 (cyclesOf s c n)) ++
      (List.range 2624).flatMap fun n => natLe 8 (SMap.get 0 s.fw.steepAt (akey c n))) s) s)

/-- THERMAL_GET: THM_STAT, the 31 sensors as their registers read, the halves that throttle has lowered, and the results of the
converter's channels. -/
def execThermalGet (q : YReq) (s : State) : Host.Outcome State Fault Refusal :=
  let b := fun (f : Fld) => get s f
  let stat := b F.THM_STAT_WARN_W + 2 * b F.THM_STAT_WARN_E + 4 * b F.THM_STAT_THR_W + 8 * b F.THM_STAT_THR_E + 16 * b F.THM_STAT_SHUT +
    32 * b F.THM_STAT_SHUT_SENS + 1024 * b F.THM_STAT_NOSENS
  let sens := fun i => b (F.THM_SENS_TEMP i) + 2 ^ 16 * b (F.THM_SENS_VALID i) + 2 ^ 17 * b (F.THM_SENS_FAST i) + 2 ^ 18 * b (F.THM_SENS_WARN i) +
    2 ^ 19 * b (F.THM_SENS_THR i)
  let tel := fun i => b (F.TEL_RES_CODE i) + 2 ^ 24 * b (F.TEL_RES_OVR i) + 2 ^ 25 * b (F.TEL_RES_LP i) + 2 ^ 26 * b (F.TEL_RES_MAINS i) +
    2 ^ 27 * b (F.TEL_RES_VALID i)
  .next (run { op := 0x0803, v := true } q true [] [] (fun h s =>
    respond q h 0 (natLe 4 stat ++ (List.range 31).flatMap (fun i => natLe 4 (sens i)) ++ natLe 1 (if s.fw.lowW then 1 else 0) ++
      natLe 1 (if s.fw.lowE then 1 else 0) ++ zeros 2 ++ (List.range 16).flatMap fun i => natLe 4 (tel i)) s) s)

/-- TEL_STREAM: an interval of 0 stops the stream. -/
def execTelStream (q : YReq) (ms : Word) (blocks : List (BitVec 26)) (buf : Word64) (size : Word) (s : State) : Host.Outcome State Fault Refusal :=
  let l := blocks.map fun a => a.toNat
  .next (run { op := 0x0804 } q (decide (q.fn.val < 33) && (ms.toNat = 0 || (decide (10 ≤ ms.toNat) && decide (ms.toNat ≤ 60000) && l.all isSnap))) [] [] (fun h s =>
    let x : Stream := { fn := q.fn, ms := ms.toNat, blocks := l, buf := buf.toNat, size := size.toNat, ofs := 0, last := now s }
    respond q h 0 [] (updFw (fun k => { k with stream := if ms = 0 then none else some x }) s)) s)

/-- TEL_STREAM_INTERVAL: the next snapshot of the stream goes into its ring, from its start again where it does not fit. -/
def execTelStreamInterval (s : State) : Host.Outcome State Fault Refusal :=
  match s.fw.stream with
  | none => .next s
  | some x =>
    let t := x.last + x.ms * 1000000
    let d := snapBlocks x.blocks (moveTo t s)
    let ofs := if x.size < x.ofs + d.1.length then 0 else x.ofs
    if x.size < d.1.length then .next (updFw (fun k => { k with stream := some { x with last := t } }) d.2)
    else .next (updFw (fun k => { k with stream := some { x with last := t, ofs := ofs + d.1.length } }) (dmaOut x.fn (x.buf + ofs) d.1 d.2))

/-! ### Faults -/

/-- FAULT_LIST: per class the capture (Table 14.11), 32 bytes as its registers read, and the mask of unacknowledged classes. -/
def execFaultList (q : YReq) (s : State) : Host.Outcome State Fault Refusal :=
  let cap := fun l => match capFields l with
    | [] => zeros 32
    | f0 :: fs => natLe 32 ((f0 :: fs).foldl (fun a (f : Fld) => a + get s f * 2 ^ (f.key - f0.key)) 0)
  .next (run { op := 0x0901 } q true [] [] (fun h s =>
    respond q h 0 ((List.range 5).flatMap cap ++ natLe 4 (get s F.FLT_STAT_UNACK)) s) s)

/-- FAULT_ACK: every domain of a class (R388). -/
def execFaultAck (q : YReq) (l : Byte) (s : State) : Host.Outcome State Fault Refusal :=
  .next (run { op := 0x0902 } q (decide (l.toNat ≤ 4)) [] [] (fun h s => respond q h 0 [] (ackAll l.toNat s)) s)

/-- DIGEST_CFG: 1 to 1,440 minutes (R405). -/
def execDigestCfg (q : YReq) (minutes : BitVec 16) (s : State) : Host.Outcome State Fault Refusal :=
  .next (run { op := 0x0905 } q (decide (1 ≤ minutes.toNat) && decide (minutes.toNat ≤ 1440)) [] [] (fun h s =>
    respond q h 0 [] (updFw (fun k => { k with digestMin := minutes.toNat }) s)) s)

end Sys2Proof.Machine
end

