-- ==== Sys2Proof/Machine/LifeCycle.lean ====
section
/-! DEFINITION. Life cycle, ownership, firmware update, shut-down, Yarile resets, management sessions, and the end of PENDING commands
(R154, R345, R350, R367 to R382, R394). -/
namespace Sys2Proof.Machine

/-! ### Life cycle (R379 to R382) -/

/-- The transitions of Table 13.10 that LC_SET accepts, with the fuse slots left (R379). -/
def lcAllowed (s : State) (from_ dst : Nat) : Bool :=
  let pair := [(1, 2), (2, 1), (3, 4), (4, 1)].contains (from_, dst) || ((from_, dst) == (2, 3) && get s F.GLB_ID_PART == 0x0A) ||
    (dst == 5 && 1 ≤ from_ && from_ ≤ 4)
  pair && (dst == 5 || decide (get s F.LC_STATE_SLOTS < 15)) && decide (get s F.LC_STATE_SLOTS < 16)

/-- The signer is one that Table 13.10 names; an owner key exists only with an ownership record. -/
def lcSigner (s : State) (from_ dst : Nat) (owner : Bool) : Bool :=
  if owner then s.fw.own.isSome && from_ == 3 && (dst == 4 || dst == 5)
  else !(from_ == 3 && dst == 4 && s.fw.own.isSome)

/-- The authorisation record holds (R381). -/
def lcAuthOk (s : State) (dst : Nat) (x : LcAuth) : Bool :=
  let st := get s F.LC_STATE_STATE
  x.form && x.src.toNat == st && x.dst.toNat == dst && x.dev.toNat == deviceId s && x.challenge.toNat == get s F.LC_CHALLENGE_VALUE &&
    lcSigner s st dst x.owner && x.sig

/-- An LC_SET is in the slot and will be answered by firmware. -/
def lcRequest (s : State) (q : YReq) : Bool :=
  slotSt s q.fn q.slot == 1 && !autoBusy s && (reqHeader s q.fn q.slot).opcode == 0x0A02

/-- LC_CHALLENGE takes a new random value after every LC_SET (R381). -/
def newChallenge (q : YReq) (v : BitVec 256) (before after : State) : State := when (lcRequest before q) (set F.LC_CHALLENGE_VALUE v.toNat) after

/-- The SRAM of the management core is wiped at a life-cycle change (Table 13.8): of its state only what the flash keeps stays, the reset that
is under way, and the commands that survive it (R377). -/
def sramWipe (k : FwSt) : FwSt := { flashOnly k with phase := k.phase, pends := k.pends, wdogAt := k.wdogAt, ptStart := k.ptStart }

/-- What the flash keeps through a life-cycle change (Table 13.3), and the slot and keys of the new state (R382). -/
def lcChange (dst : Nat) (s : State) : State :=
  let gone := dst == 4 || dst == 5
  let k := fun (k : FwSt) => { k with
    boot := { k.boot with base := 0, prefB := false, bist := [], saved := [] }
    logBase := k.logBase + k.log.length
    log := []
    models := []
    placed := none
    slotMap := []
    slotFmt := []
    table := []
    content := []
    steepAt := []
    openBatch := []
    cycles := (closeBatches s).fw.cycles
    own := if gone then none else k.own
    plan := if gone then none else k.plan
    planNext := if gone then none else k.planNext
    keyOff := k.keyOff || dst == 5 }
  updFw k (s |> set F.LC_STATE_STATE dst |> setB F.LC_STATE_FI_EN (dst == 1) |> set F.LC_STATE_SLOTS (get s F.LC_STATE_SLOTS + 1))

/-- LC_SET of a transition. A target equal to the current state in PROVISIONED or FIELD is an ownership record's. In minimal mode the
erase is left pending. -/
def execLcSet (q : YReq) (dst : Fin 8) (x : LcAuth) (challenge : BitVec 256) (s : State) : Host.Outcome State Fault Refusal :=
  let st := get s F.LC_STATE_STATE
  if dst.val = st && (st = 2 || st = 3) then .next s
  else .next (newChallenge q challenge s (run { op := 0x0A02, min := true } q true [] [.lifeCycle] (fun h s =>
    if anyPart s || loading s then respond q h 2 [] s
    else if !lcAllowed s st dst then respond q h 5 [] s
    else if !lcAuthOk s dst x then respond q h 6 [] s
    else
      let s1 := updBoot (fun b => { b with journal := some (st, dst.val, false) }) s
      if flag s F.MBX_CTL_MINIMAL then
        updFw sramWipe (startWarm (respond q h 0 [] (showStart (updBoot (fun b => { b with journal := some (st, dst.val, true), erasePend := true })
          (lcChange dst s1)))))
      else pend q h [.lifeCycle] (.lifeCycle dst) s1) s))

/-- The end of a transition: every array is erased, the slot programmed, the package warm-reset, and the SRAM wiped (R172, R375, R382). -/
def endLifeCycle (p : Pend) (dst : Nat) (failed : List (Nat × Nat)) (s : State) : State :=
  let from_ := get s F.LC_STATE_STATE
  let bad := failed.map fun a => akey a.1 a.2
  let s2 := updBoot (fun b => { b with journal := none, closed := some (from_, dst, bad) }) (lcChange dst (lcErase failed s))
  updFw sramWipe (startWarm (endPend p 0 [] s2))

/-- OWNERSHIP_INSTALL: LC_SET with a target equal to the current state, PROVISIONED or FIELD (R381). -/
def execOwnershipInstall (q : YReq) (dst : Fin 8) (x : OwnIn) (challenge : BitVec 256) (s : State) : Host.Outcome State Fault Refusal :=
  let st := get s F.LC_STATE_STATE
  if !(dst.val = st && (st = 2 || st = 3)) then .next s
  else .next (newChallenge q challenge s (run { op := 0x0A02, min := true } q x.form [] [.lifeCycle] (fun h s =>
    if anyPart s || loading s then respond q h 2 [] s
    else if !x.sig || x.owner != s.fw.own.isSome || x.dev.toNat ≠ deviceId s then respond q h 6 [] s
    else if x.seq.toNat ≤ get s F.LC_OWN_SEQ_SEQ || 64 < x.seq.toNat then respond q h 3 [] s
    else if 8 < x.nImg.toNat || 4 < x.nInst.toNat || 4 < x.nMgmt.toNat then respond q h 3 [] s
    else respond q h 0 [] (set F.LC_OWN_SEQ_SEQ x.seq.toNat (updFw (fun k => { k with own := some x }) s))) s))

/-- LC_GET: the state, and the open or the last transition with the arrays it lists. -/
def execLcGet (q : YReq) (s : State) : Host.Outcome State Fault Refusal :=
  .next (run { op := 0x0A01, min := true } q true [] [] (fun h s =>
    let b := s.fw.boot
    let rec_ := match b.journal, b.closed with
      | some (f, t, w), _ => (f, t, if w then 3 else 1, [])
      | none, some (f, t, l) => (f, t, 0, l)
      | none, none => (0, 0, 0, [])
    let fl := rec_.2.2.1 + if b.erasePend then 4 else 0
    respond q h 0 (natLe 1 (get s F.LC_STATE_STATE) ++ natLe 1 (get s F.LC_STATE_SLOTS) ++ natLe 1 rec_.1 ++ natLe 1 rec_.2.1 ++ natLe 4 fl ++
      rec_.2.2.2.flatMap fun a => natLe 2 (a / 2624) ++ natLe 2 (a % 2624)) s) s)

/-- MGMT_SESSION_HANDSHAKE (R378): accepted when the peer's chain leads to a management root of the ownership record, or in FACTORY_TEST
to the engineering root, and fewer than 4 sessions are held. -/
def execMgmtSessionHandshake (r : PeerRoot) (s : State) : Host.Outcome State Fault Refusal :=
  let st := get s F.LC_STATE_STATE
  let ok := match s.fw.own with
    | none => false
    | some o => match r with
      | .root d => ((o.roots.drop (o.nImg.toNat + o.nInst.toNat)).take o.nMgmt.toNat).contains d
      | .engineering => st == 1
      | .none => false
  if ok && !s.fw.keyOff && flag s F.MBX_CTL_FW_UP && s.fw.sessions < 4 then .next (updFw (fun k => { k with sessions := k.sessions + 1 }) s)
  else .next s

/-! ### Firmware (R350, R362) -/

/-- FW_STAGE: the image, with its version, its security level and whether its header asks to raise the anti-rollback level, is written to the
inactive copy; it is authenticated when the command ends. -/
def execFwStage (q : YReq) (ver : Word) (lvl : Byte) (asks : Bool) (s : State) : Host.Outcome State Fault Refusal :=
  .next (run { op := 0x0B01, min := true } q true [] [.firmware] (fun h s =>
    let c : FwCopy := { ver := ver.toNat, level := lvl.toNat, asks := asks, ok := false }
    pend q h [.firmware] .stage
      (fromBuffer q.fn h <| updBoot (fun b => if b.runB then { b with copyA := c, staged := false } else { b with copyB := c, staged := false }) s)) s)

/-- The staged image has been judged. -/
def endStage (p : Pend) (auth : Bool) (s : State) : State :=
  endPend p (if auth then 0 else 6) []
    (updBoot (fun b => if b.runB then { b with copyA := { b.copyA with ok := auth }, staged := auth }
      else { b with copyB := { b.copyB with ok := auth }, staged := auth }) s)

/-- FW_STATUS: version of the running image, whether a staged one is valid, its version, and whether its last activation failed. -/
def execFwStatus (q : YReq) (s : State) : Host.Outcome State Fault Refusal :=
  .next (run { op := 0x0B03, min := true } q true [] [] (fun h s =>
    let b := s.fw.boot
    let other := if b.runB then b.copyA else b.copyB
    let fl := (if b.staged then 1 else 0) + if s.fw.actFailed then 2 else 0
    respond q h 0 (natLe 4 (fwVer s) ++ natLe 4 (if b.staged then other.ver else 0) ++ natLe 4 fl) s) s)

/-- FIRMWARE_RESTART_END: `auth`, the new copy verifies; where it does not, or its security level lies below the anti-rollback level, the ROM
starts the previous one. -/
def execFirmwareRestartEnd (auth : Bool) (s : State) : Host.Outcome State Fault Refusal :=
  if !flag s F.MBX_CTL_UPDATING || flag s F.MBX_CTL_FW_UP then .next s
  else
    let ok := auth && decide (s.phys.rollback ≤ (if s.fw.boot.runB then s.fw.boot.copyA else s.fw.boot.copyB).level)
    let s1 := updFw (fun k => { k with actFailed := !ok, boot := { k.boot with
        runB := if ok then !k.boot.runB else k.boot.runB
        prefB := if ok then !k.boot.runB else k.boot.runB
        staged := false } }) s
    let up := match s.fw.phase with | .up => 1 | _ => 0
    .next (set F.GLB_MODE_MODE up (fwUp (runCopy s1.fw.boot) s1))

/-! ### Shut-down, self-test record, reset -/

/-- SHUTDOWN up to its self-test (R371). -/
def execShutdown (q : YReq) (s : State) : Host.Outcome State Fault Refusal :=
  .next (run { op := 0x0C01 } q true [] [] (fun h s =>
    if anyRuns s then respond q h 2 [] s
    else
      let s1 := updBoot (fun b => { b with base := s.fw.ptStart + ((now s : Int) - s.time.upOfs).toNat / 1000000000 }) s
      let s2 := computeReset (netReset (upTo 12 (fun p s => setP p 0 (dropLink p s)) s1))
      let s3 := updFw (fun k => { k with phase := .shut }) (each (allCores.filter (coreGood s2)) (fun c s => setCoreState c cReset s) s2)
      if force h then { respond q h 0 [] s3 with pwroff := true }
      else pend q h [] (.shutdown true) (set F.LC_BIST_STAT_STATE 1 s3)) s)

/-- A self-test record as Table 13.5 lays it out. -/
def bistBytes (r : BistRec) : List Byte := bistBody r ++ natLe 96 r.sign ++ zeros 96

/-- BIST_RESULT: the last record; nothing when there is none. -/
def execBistResult (q : YReq) (s : State) : Host.Outcome State Fault Refusal :=
  .next (run { op := 0x0C02, min := true } q true [] [] (fun h s =>
    respond q h 0 (match s.fw.boot.bist.getLast? with | some r => bistBytes r | none => []) s) s)

/-- A core cannot take a Yarile reset: it runs, is in RESET, or belongs to a partition whose reset is in progress (R373, R376). -/
def resetBusy (s : State) (c : Nat) : Bool :=
  coreRuns s c || coreState s c == cReset || (core s c).draining || match corePart s c with
    | some n => (match partRec s n with | some r => r.resetK.isSome || r.resetAt.isSome | none => false)
    | none => false

/-- The cores that a scope names. -/
def scopeCores (x : ResetScope) : List Nat :=
  match x with
  | .core c => [c.val]
  | .cluster k => (List.range 5).map fun i => 5 * k.val + i
  | .warm => []

/-- Applies a reset. -/
def applyScope (x : ResetScope) (s : State) : State :=
  match x with
  | .core c =>
    if coreGood s c && (coreState s c == cIdle || coreState s c == cFenced) then startReset c (bump F.LC_CORE_RST_CNT s) else s
  | .cluster k => resetCluster k s
  | .warm => startWarm s

/-- RESET: OK is written before the reset is applied (R373, R394). -/
def execReset (q : YReq) (x : ResetScope) (s : State) : Host.Outcome State Fault Refusal :=
  .next (run { op := 0x0C03 } q true [] ((scopeCores x).map .core) (fun h s =>
    if (x ≠ .warm && inSafe s) || s.fw.phase = .drain || (scopeCores x).any (fun c => coreGood s c && resetBusy s c) then respond q h 2 [] s
    else applyScope x (respond q h 0 [] s)) s)

/-! ### The end of PENDING commands (R345, R394) -/

/-- Every core of a load is up and within the temperature window, and its golden copy holds no POISONED line (R154, R160). -/
def loadReady (s : State) (h : Nat) : Bool :=
  match loadOf s h with
  | some m => goldClean s (records m.img) && (partPhys s m.img).all fun c => coreUp s c && windowOk s c
  | none => true

/-- Some field of a list of keys waits for its boundary. -/
def waitsFor (s : State) (ks : List Nat) : Bool := ks.any fun k => s.shadows.any fun x => x.fld.key == k

/-- What a PENDING command waits for has come. -/
def actDone (s : State) (p : Pend) : Bool :=
  match p.act with
  | .fails _ => true
  | .shadows ks => !waitsFor s ks
  | .slow e => actB s (if e then F.TB_HALF_CLK_EAST_SLOW else F.TB_HALF_CLK_WEST_SLOW)
  | .running n => (partCores s n).all (coreRuns s)
  | .idle n => !partRuns s n
  | .resetDone n => match partRec s n with | some r => r.resetK.isNone && r.resetAt.isNone | none => true
  | .switched n b => (partCores s n).all fun c => actv s (F.SEQ_CTL_BANK c) == b
  | .adapter id => adapterDone s p.opcode id
  | .load h => loadReady s h
  | .unload ks l e => !waitsFor s ks && (!e || l.all fun a => windowOk s a.1)
  | .fenced c => match corePart s c with
    | some n => standsStill s n && match logOf s c, hotSpare s with | some l, some x => canSteep s l x | _, _ => true
    | none => true
  | .resteep c n => !asked s c n
  | .calDone c => (core s c).calCmd.isNone
  | .lifeCycle _ => (allCores.filter (coreGood s)).all (windowOk s)
  | .stage => true
  | .shutdown _ => get s F.LC_BIST_STAT_STATE != 1

/-- Commands whose work needs the data plane, which safe state ends with POISONED. -/
def needsData (a : PendAct) : Bool :=
  match a with
  | .fails _ => false
  | .shadows _ => false
  | .stage => false
  | .shutdown _ => false
  | _ => true

/-- The status of a command whose TIMEOUT_MS has passed (R154, R345): that of its own rule, or BUSY where it has changed nothing. DESIGN CHOICE (log entry
67): a command that has changed something, and whose rule gives no status for a timeout, ends when its work is done. -/
def lateStatus (a : PendAct) : Option Nat :=
  match a with
  | .load _ => some 0x31
  | .unload _ _ e => if e then some 0x31 else none
  | .fenced _ => some 0x31
  | .lifeCycle _ => some 0x31
  | .fails st => some st
  | .running _ => some 2
  | .resteep _ _ => some 2
  | .shadows _ => none
  | .slow _ => none
  | .idle _ => none
  | .resetDone _ => none
  | .switched _ _ => none
  | .adapter _ => none
  | .calDone _ => none
  | .stage => none
  | .shutdown _ => none

/-- A fenced core's place is taken by a hot spare, if there is one (R400). -/
def endFence (p : Pend) (c : Nat) (failed : List (Nat × Nat)) (s : State) : State :=
  let s1 := fenceCmd c s
  endPend p 0 [] (match logOf s c, corePart s c, hotSpare s1 with
    | some l, some n, some x => replaceCore c l n x failed s1
    | _, _, _ => fwReport 0x21 0xFFFF s1)

/-- The slot of an adapter that serves. -/
def adapterResult (s : State) (p : Pend) (id : Nat) : List Byte :=
  if p.opcode = 0x0501 then match curSlot s id with | some i => natLe 4 i | none => [] else []

/-- The work of a command that ends, and its completion. -/
def finishAct (p : Pend) (o : DoneIn) (s : State) : State :=
  match p.act with
  | .fails st => endPend p st [] s
  | .adapter id => endPend p 0 (adapterResult s p id) s
  | .load h => endLoad p h (pairs o.failed) s
  | .unload _ l e => endPend p 0 [] (when e (eraseModel l (pairs o.failed)) s)
  | .fenced c => endFence p c (pairs o.failed) s
  | .calDone c => endPend p (get s (F.CAL_STATUS_RESULT c)) [] (calKeep c s)
  | .lifeCycle dst => endLifeCycle p dst (pairs o.failed) s
  | .stage => endStage p o.auth s
  | .shutdown _ => { endPend p 0 [] s with pwroff := true }
  | _ => endPend p 0 [] s

/-- A transition that runs into its timeout is abandoned. -/
def giveUp (a : PendAct) (s : State) : State :=
  match a with
  | .lifeCycle _ => dropJournal s
  | _ => s

/-- A PENDING command ends when its work is done, or when its timeout has passed. -/
def complete (p : Pend) (o : DoneIn) (s : State) : State :=
  if inSafe s && needsData p.act then endPend p 0x17 [] s
  else if actDone s p then finishAct p o s
  else match p.due, lateStatus p.act with
    | some t, some st => if t ≤ now s then endPend p st [] (giveUp p.act s) else s
    | _, _ => s

/-- The PENDING command of a function with a SEQ. -/
def pendOf (s : State) (f seq : Nat) : Option Pend := s.fw.pends.find? fun p => p.fn == f && p.seq == seq

/-- Completes the command of a function with a SEQ. -/
def completeSeq (f seq : Nat) (o : DoneIn) (s : State) : State :=
  match pendOf s f seq with
  | some p => complete p o s
  | none => s

/-- PENDING_COMPLETE. -/
def execPendingComplete (f : FnIx) (seq : Word) (o : DoneIn) (s : State) : Host.Outcome State Fault Refusal :=
  if flag s F.MBX_CTL_FW_UP then .next (completeSeq f seq.toNat o s) else .next s

/-- FW_ACTIVATE (R350): OK; UPDATING; the commands that end within 100 ms, the others with FW_RESTART; FW_UP goes down. In minimal mode
the start counter is cleared and the package starts again (R367). -/
def execFwActivate (q : YReq) (done : List (FnIx × Word × DoneIn)) (s : State) : Host.Outcome State Fault Refusal :=
  .next (run { op := 0x0B02, min := true } q true [] [.firmware] (fun h s =>
    if anyRuns s || !s.fw.boot.staged then respond q h 2 [] s
    else
      let s1 := setB F.MBX_CTL_UPDATING true (respond q h 0 [] s)
      let s2 := each done (fun d s => completeSeq d.1 d.2.1.toNat d.2.2 s) s1
      let s3 := setB F.MBX_CTL_FW_UP false (each s2.fw.pends (fun p s => endPend p 0x35 [] s) s2)
      if flag s F.MBX_CTL_MINIMAL then
        coldReset F.LC_RST_CAUSE_INTERNAL (updBoot (fun b => { b with attempts := 0, prefB := !b.runB, staged := false }) s3)
      else set F.GLB_MODE_MODE 3 s3) s)

end Sys2Proof.Machine
end

