-- ==== Sys2Proof/Machine/Reply.lean ====
section
/-! DEFINITION. The answers of the stacks at the nodes that asked (R241, R245, R254, R277, R374). -/
namespace Sys2Proof.Machine

/-- A line for an instruction of core `c` (R245): a row of LOAD or GATHER, or a line of SCORE. -/
def lineToCore (c op idx status : Nat) (data : List Byte) (poison : Bool) (s : State) : State :=
  match findOp s c op with
  | none => s
  | some o =>
    let s1 := when (status == 3) (bump (F.SEQ_STACK_REJ_CNT c)) s
    match o.kind with
    | .load dst => opDone c op (writeRow c (dst + idx) data poison s1)
    | .score _ _ _ _ => scoreLine c op idx data poison s1
    | _ => s1

/-- The BANK_OFF notice about a core's write (Table 12.8): partition, line, source node. -/
def bankOffNotice (c l : Nat) (s : State) : State :=
  let n := corePart s c
  notify 6 n (natLe 1 (n.getD 0xFF) ++ zeros 3 ++ natLe 4 l ++ natLe 1 c) s

/-- The acknowledgement of a write for an instruction of core `c`: after BANK_OFF the core's outputs carry POISONED to the
end of the tick, the request of an APPEND loses its step, and firmware reports the refusal to the host function of the partition (R254). -/
def ackToCore (c op l status : Nat) (s : State) : State :=
  match findOp s c op with
  | none => s
  | some o =>
    let lost := fun (k : CoreSt) => match o.kind with
      | .append r => { k with outPoison := true, lost := NSet.add k.lost r }
      | _ => { k with outPoison := true }
    s |> when (status == 3) (bump (F.SEQ_STACK_REJ_CNT c)) |> when (status == 0x14) (bankOffNotice c l ∘ updCore c lost) |> opDone c op

/-- Line data for a cell that came by port `p` (R277): a STK_RSP with its half-line. -/
def lineToPort (p : Nat) (cell : Cell) (status : Nat) (data : List Byte) (poison : Bool) (s : State) : State :=
  let s1 := when (status == 0x14) (bump (F.FAB_DROP_BANKOFF p)) s
  sendBack p (rspCell s1 p cell status poison ((data.drop (256 * cell.half)).take 256)) s1

/-- The acknowledgement of a cell's write: a refused one is answered with a NACK. -/
def ackToPort (p : Nat) (cell : Cell) (status : Nat) (s : State) : State :=
  if status = 0 then s else askNack p cell status (when (status == 0x14) (bump (F.FAB_DROP_BANKOFF p)) s)

/-- A read of core `c` has been answered: its tag goes to the oldest request that waits and that the region check lets go; what it refuses
comes back POISONED (R243, R245). -/
def freeTag (c : Nat) : List Packet → State → State
  | [], s => updCore c (fun k => { k with tags := k.tags - 1 }) s
  | p :: l, s =>
    let s1 := updCore c (fun k => { k with tagWait := l }) s
    match p.body with
    | .readReq a (.core _ op idx _) _ =>
      if regionOk s1 c a false then inject p s1
      else
        let d := freeBytes 512 (regionRej c s1)
        freeTag c l (lineToCore c op idx 3 d.1 true d.2)
    | _ => inject p s1

/-- Line data reaches a requester; one of an earlier epoch is absorbed (R374). -/
def giveLine (status : Nat) (data : List Byte) (poison : Bool) (r : Requester) (s : State) : State :=
  match r with
  | .core c op idx e =>
    if e ≠ (core s c).epoch then bump (F.CORE_CTL_ABSORB_CNT c) s
    else let s1 := lineToCore c op idx status data poison s; freeTag c (core s1 c).tagWait s1
  | .port p cell => lineToPort p cell status data poison s

/-- An acknowledgement reaches its requester. -/
def giveAck (l status : Nat) (r : Requester) (s : State) : State :=
  match r with
  | .core c op _ e => if e ≠ (core s c).epoch then bump (F.CORE_CTL_ABSORB_CNT c) s else ackToCore c op l status s
  | .port p cell => ackToPort p cell status s

/-- The packet is the answer of a stack. -/
def isReply (p : Packet) : Bool :=
  match p.body with
  | .readData _ _ _ _ => true
  | .writeAck _ _ _ => true
  | _ => false

/-- The first instruction of a unit that waits and that none before it holds up. -/
def nextWaiting (s : State) (c : Nat) (u : CUnit) : Option (OpRec × Nat) :=
  match ((core s c).ops.filter fun o => o.unit == u && holdsUp o) with
  | o :: _ => match o.kind with | .wait w => some (o, w) | _ => none
  | [] => none

/-- A unit goes on with what waits in its queue. -/
def goOn (c : Nat) (u : CUnit) (run : Nat → Nat → State → State) : Nat → State → State
  | 0, s => s
  | f + 1, s => match nextWaiting s c u with
    | some x => goOn c u run f (run c x.2 (dropOp c x.1.id s))
    | none => s

/-- The units of a core go on after an answer (R177). -/
def unitsGoOn (c : Nat) (s : State) : State := goOn c .attn runAttn 8 (goOn c .move runMove 32 s)

/-- STACK_REPLY: the oldest answer that waits at a node reaches its requesters there. -/
def execStackReply (node : Fin 37) (s : State) : Host.Outcome State Fault Refusal :=
  match takeFirst (fun p => p.arrived && p.pos == node.val && isReply p) s.mesh with
  | none => .next s
  | some r =>
    let s1 := { s with mesh := r.2 }
    match r.1.body with
    | .readData _ data rqs status =>
      .next (unitsGoOn node (each (rqs.filter fun q => rqNode q == node.val) (giveLine status data r.1.poison) s1))
    | .writeAck l rq status => .next (unitsGoOn node (giveAck l status rq s1))
    | _ => .next s1

end Sys2Proof.Machine
end

