-- ==== Sys2Proof/Machine/Dispatch.lean ====
section
/-! DEFINITION. One arm per command: its meaning, or its refusal by name. -/
namespace Sys2Proof.Machine

/-- The effect of a command on everything but the queue. -/
def exec (i : Instr) (s : State) : Host.Outcome State Fault Refusal :=
  match i with
  | .registerWrite a pg addr wide v => Sys2Proof.Machine.execRegisterWrite a pg addr wide v s
  | .registerReadLatch a pg addr wide => Sys2Proof.Machine.execRegisterReadLatch a pg addr wide s
  | .snapTake a addr clear => Sys2Proof.Machine.execSnapTake a addr clear s
  | .tickBoundary moe => Sys2Proof.Machine.execTickBoundary moe s
  | .caddyTtlExpire e => Sys2Proof.Machine.execCaddyTtlExpire e s
  | .guardBandStart => Sys2Proof.Machine.execGuardBandStart s
  | .fire issue => Sys2Proof.Machine.execFire issue s
  | .inputLoad c slot => Sys2Proof.Machine.execInputLoad c slot s
  | .firingStart c slot => Sys2Proof.Machine.execFiringStart c slot s
  | .firingHandoff c slot => Sys2Proof.Machine.execFiringHandoff c slot s
  | .proofGoldLine c second issue => Sys2Proof.Machine.execProofGoldLine c second issue s
  | .proofStart c => Sys2Proof.Machine.execProofStart c s
  | .proofComplete c => Sys2Proof.Machine.execProofComplete c s
  | .verified c n slot fmt => Sys2Proof.Machine.execVerified c n slot fmt s
  | .retire c n slot fmt => Sys2Proof.Machine.execRetire c n slot fmt s
  | .arrEmpty c n slot fmt => Sys2Proof.Machine.execArrEmpty c n slot fmt s
  | .clearSuspect c n slot fmt => Sys2Proof.Machine.execClearSuspect c n slot fmt s
  | .arrTrimWrite a c n gain v => Sys2Proof.Machine.execArrTrimWrite a c n gain v s
  | .quant issue => Sys2Proof.Machine.execQuant issue s
  | .promote issue => Sys2Proof.Machine.execPromote issue s
  | .emit issue => Sys2Proof.Machine.execEmit issue s
  | .accClear issue => Sys2Proof.Machine.execAccClear issue s
  | .leavenWindowEnd c => Sys2Proof.Machine.execLeavenWindowEnd c s
  | .leavenCtlWrite c v => Sys2Proof.Machine.execLeavenCtlWrite c v s
  | .fmaxClear c n => Sys2Proof.Machine.execFmaxClear c n s
  | .fallbackReport n m w layers wide => Sys2Proof.Machine.execFallbackReport n m w layers wide s
  | .calFull c set target => Sys2Proof.Machine.execCalFull c set target s
  | .calArray c n set target => Sys2Proof.Machine.execCalArray c n set target s
  | .interpNow c => Sys2Proof.Machine.execInterpNow c s
  | .clearCorr c n all => Sys2Proof.Machine.execClearCorr c n all s
  | .clearStats c n all => Sys2Proof.Machine.execClearStats c n all s
  | .calCmdDone c => Sys2Proof.Machine.execCalCmdDone c s
  | .calInterpEnable c => Sys2Proof.Machine.execCalInterpEnable c s
  | .calPassStart c => Sys2Proof.Machine.execCalPassStart c s
  | .calPassEnd c => Sys2Proof.Machine.execCalPassEnd c s
  | .calMonitorPeriodEnd c => Sys2Proof.Machine.execCalMonitorPeriodEnd c s
  | .calStoreWrite a c w v => Sys2Proof.Machine.execCalStoreWrite a c w v s
  | .steepGo c count => Sys2Proof.Machine.execSteepGo c count s
  | .batchStart c => Sys2Proof.Machine.execBatchStart c s
  | .steepBatchEnd c fail => Sys2Proof.Machine.execSteepBatchEnd c fail s
  | .eraseBatchEnd c fail => Sys2Proof.Machine.execEraseBatchEnd c fail s
  | .readbackBatchEnd c intr => Sys2Proof.Machine.execReadbackBatchEnd c intr s
  | .readbackTimeout c => Sys2Proof.Machine.execReadbackTimeout c s
  | .resteepRotation c failed => Sys2Proof.Machine.execResteepRotation c failed s
  | .resteepInPlace c failed => Sys2Proof.Machine.execResteepInPlace c failed s
  | .resteepDeferExpire c => Sys2Proof.Machine.execResteepDeferExpire c s
  | .roundSwitch n h x failed => Sys2Proof.Machine.execRoundSwitch n h x failed s
  | .goldenRestore h x failed => Sys2Proof.Machine.execGoldenRestore h x failed s
  | .goldenRefetch h issue x => Sys2Proof.Machine.execGoldenRefetch h issue x s
  | .imageSourceRetry h x failed => Sys2Proof.Machine.execImageSourceRetry h x failed s
  | .endOp issue => Sys2Proof.Machine.execEndOp issue s
  | .illegalInstruction issue => Sys2Proof.Machine.execIllegalInstruction issue s
  | .add issue => Sys2Proof.Machine.execAdd issue s
  | .sub issue => Sys2Proof.Machine.execSub issue s
  | .mul issue => Sys2Proof.Machine.execMul issue s
  | .fma issue => Sys2Proof.Machine.execFma issue s
  | .scale issue => Sys2Proof.Machine.execScale issue s
  | .maxOp issue => Sys2Proof.Machine.execMaxOp issue s
  | .act issue => Sys2Proof.Machine.execAct issue s
  | .norm issue => Sys2Proof.Machine.execNorm issue s
  | .softmax issue => Sys2Proof.Machine.execSoftmax issue s
  | .topk issue => Sys2Proof.Machine.execTopk issue s
  | .sample issue => Sys2Proof.Machine.execSample issue s
  | .copy issue => Sys2Proof.Machine.execCopy issue s
  | .send issue => Sys2Proof.Machine.execSend issue s
  | .load issue => Sys2Proof.Machine.execLoad issue s
  | .store issue => Sys2Proof.Machine.execStore issue s
  | .gather issue => Sys2Proof.Machine.execGather issue s
  | .winOpen issue => Sys2Proof.Machine.execWinOpen issue s
  | .winSeal issue => Sys2Proof.Machine.execWinSeal issue s
  | .winClose issue => Sys2Proof.Machine.execWinClose issue s
  | .waitEvt issue => Sys2Proof.Machine.execWaitEvt issue s
  | .waitWin issue => Sys2Proof.Machine.execWaitWin issue s
  | .waitDeadline issue => Sys2Proof.Machine.execWaitDeadline issue s
  | .append issue => Sys2Proof.Machine.execAppend issue s
  | .score issue => Sys2Proof.Machine.execScore issue s
  | .combine issue => Sys2Proof.Machine.execCombine issue s
  | .adptDown issue => Sys2Proof.Machine.execAdptDown issue s
  | .adptUp issue => Sys2Proof.Machine.execAdptUp issue s
  | .windowWriteLanding c => Sys2Proof.Machine.execWindowWriteLanding c s
  | .nackReceived c => Sys2Proof.Machine.execNackReceived c s
  | .corePowerOn c => Sys2Proof.Machine.execCorePowerOn c s
  | .corePowerOff c => Sys2Proof.Machine.execCorePowerOff c s
  | .coreCmdReset c => Sys2Proof.Machine.execCoreCmdReset c s
  | .fence c => Sys2Proof.Machine.execFence c s
  | .run c => Sys2Proof.Machine.execRun c s
  | .stop c => Sys2Proof.Machine.execStop c s
  | .corePowerRampStart c => Sys2Proof.Machine.execCorePowerRampStart c s
  | .corePowerRampEnd c => Sys2Proof.Machine.execCorePowerRampEnd c s
  | .resetDrainDone c => Sys2Proof.Machine.execResetDrainDone c s
  | .drainTimeout c => Sys2Proof.Machine.execDrainTimeout c s
  | .coreResetEnd c => Sys2Proof.Machine.execCoreResetEnd c s
  | .microcodeMulticast c version ok => Sys2Proof.Machine.execMicrocodeMulticast c version ok s
  | .stepRowLanding => Sys2Proof.Machine.execStepRowLanding s
  | .syncMarkerTimer => Sys2Proof.Machine.execSyncMarkerTimer s
  | .syncReceived p => Sys2Proof.Machine.execSyncReceived p s
  | .delayReqReceived p => Sys2Proof.Machine.execDelayReqReceived p s
  | .delayRespReceived p => Sys2Proof.Machine.execDelayRespReceived p s
  | .parentLossTimeout => Sys2Proof.Machine.execParentLossTimeout s
  | .holdoverExpire => Sys2Proof.Machine.execHoldoverExpire s
  | .standbyRootTakeover => Sys2Proof.Machine.execStandbyRootTakeover s
  | .gateHold => Sys2Proof.Machine.execGateHold s
  | .gateRelease => Sys2Proof.Machine.execGateRelease s
  | .gateAbort => Sys2Proof.Machine.execGateAbort s
  | .overrunWindowEnd n => Sys2Proof.Machine.execOverrunWindowEnd n s
  | .switchNotice n k scale thr => Sys2Proof.Machine.execSwitchNotice n k scale thr s
  | .meshEnable c => Sys2Proof.Machine.execMeshEnable c s
  | .flitForward c vc esc e => Sys2Proof.Machine.execFlitForward c vc esc e s
  | .stackRead n ch e k => Sys2Proof.Machine.execStackRead n ch e k s
  | .stackWrite n ch e k => Sys2Proof.Machine.execStackWrite n ch e k s
  | .stackReply node => Sys2Proof.Machine.execStackReply node s
  | .mergeWindowClose n ch => Sys2Proof.Machine.execMergeWindowClose n ch s
  | .scrubRead n e k => Sys2Proof.Machine.execScrubRead n e k s
  | .bankDown n b => Sys2Proof.Machine.execBankDown n b s
  | .bankUp n b => Sys2Proof.Machine.execBankUp n b s
  | .bankDrainEnd n => Sys2Proof.Machine.execBankDrainEnd n s
  | .bankWakeEnd n => Sys2Proof.Machine.execBankWakeEnd n s
  | .portEnable p => Sys2Proof.Machine.execPortEnable p s
  | .portTrainingDone p skew => Sys2Proof.Machine.execPortTrainingDone p skew s
  | .portMissingTimeout p => Sys2Proof.Machine.execPortMissingTimeout p s
  | .portTrainFailTimeout p => Sys2Proof.Machine.execPortTrainFailTimeout p s
  | .portSignalDetect p => Sys2Proof.Machine.execPortSignalDetect p s
  | .portAdmit p => Sys2Proof.Machine.execPortAdmit p s
  | .portQuarantine p => Sys2Proof.Machine.execPortQuarantine p s
  | .portRetrain p => Sys2Proof.Machine.execPortRetrain p s
  | .portDisable p => Sys2Proof.Machine.execPortDisable p s
  | .portMissing p => Sys2Proof.Machine.execPortMissing p s
  | .cellReceive p b => Sys2Proof.Machine.execCellReceive p b s
  | .cellIngressExit p pool => Sys2Proof.Machine.execCellIngressExit p pool s
  | .egressBlock p => Sys2Proof.Machine.execEgressBlock p s
  | .retrainDone p => Sys2Proof.Machine.execRetrainDone p s
  | .linkDown p => Sys2Proof.Machine.execLinkDown p s
  | .fecIntervalEnd p => Sys2Proof.Machine.execFecIntervalEnd p s
  | .quarWindowEnd p => Sys2Proof.Machine.execQuarWindowEnd p s
  | .authCell p m => Sys2Proof.Machine.execAuthCell p m s
  | .admissionTimeout p => Sys2Proof.Machine.execAdmissionTimeout p s
  | .discoveryEnd => Sys2Proof.Machine.execDiscoveryEnd s
  | .missingReport m plus => Sys2Proof.Machine.execMissingReport m plus s
  | .portStateFlood a p st => Sys2Proof.Machine.execPortStateFlood a p st s
  | .routeInstall => Sys2Proof.Machine.execRouteInstall s
  | .windowAck n => Sys2Proof.Machine.execWindowAck n s
  | .coordinatorSilent n reach => Sys2Proof.Machine.execCoordinatorSilent n reach s
  | .readyReport n m => Sys2Proof.Machine.execReadyReport n m s
  | .partitionStartNotice n k => Sys2Proof.Machine.execPartitionStartNotice n k s
  | .partitionRunWrite n => Sys2Proof.Machine.execPartitionRunWrite n s
  | .partitionResetNotice n k => Sys2Proof.Machine.execPartitionResetNotice n k s
  | .noticeReceived n m x => Sys2Proof.Machine.execNoticeReceived n m x s
  | .reqNew r d => Sys2Proof.Machine.execReqNew r d s
  | .reqContinue r d => Sys2Proof.Machine.execReqContinue r d s
  | .reqCancel r d => Sys2Proof.Machine.execReqCancel r d s
  | .reqPark r d => Sys2Proof.Machine.execReqPark r d s
  | .reqDrop r d => Sys2Proof.Machine.execReqDrop r d s
  | .accountRefill => Sys2Proof.Machine.execAccountRefill s
  | .outputRecordWrite n => Sys2Proof.Machine.execOutputRecordWrite n s
  | .outputIrqTimer r => Sys2Proof.Machine.execOutputIrqTimer r s
  | .caddyReport n e k ok data => Sys2Proof.Machine.execCaddyReport n e k ok data s
  | .adapterSlotFree issue => Sys2Proof.Machine.execAdapterSlotFree issue s
  | .mbDb f v => Sys2Proof.Machine.execMbDb f v s
  | .mbAck f v => Sys2Proof.Machine.execMbAck f v s
  | .pendingComplete f seq o => Sys2Proof.Machine.execPendingComplete f seq o s
  | .rqTail f r v => Sys2Proof.Machine.execRqTail f r v s
  | .oqHead f r v => Sys2Proof.Machine.execOqHead f r v s
  | .flr f => Sys2Proof.Machine.execFlr f s
  | .pcieHotReset => Sys2Proof.Machine.execPcieHotReset s
  | .pciePerst => Sys2Proof.Machine.execPciePerst s
  | .pcieRetrain a => Sys2Proof.Machine.execPcieRetrain a s
  | .bar4Read f ofs n => Sys2Proof.Machine.execBar4Read f ofs n s
  | .bar4Write f ofs data => Sys2Proof.Machine.execBar4Write f ofs data s
  | .dmaTransferEnd f wr ofs n host data bad => Sys2Proof.Machine.execDmaTransferEnd f wr ofs n host data bad s
  | .mgmtSessionHandshake r => Sys2Proof.Machine.execMgmtSessionHandshake r s
  | .getInfo q => Sys2Proof.Machine.execGetInfo q s
  | .getCert q => Sys2Proof.Machine.execGetCert q s
  | .getLog q seq => Sys2Proof.Machine.execGetLog q seq s
  | .getPorts q => Sys2Proof.Machine.execGetPorts q s
  | .partCreate q x => Sys2Proof.Machine.execPartCreate q x s
  | .partStart q => Sys2Proof.Machine.execPartStart q s
  | .partStop q => Sys2Proof.Machine.execPartStop q s
  | .partReset q => Sys2Proof.Machine.execPartReset q s
  | .partDestroy q => Sys2Proof.Machine.execPartDestroy q s
  | .partSet q x => Sys2Proof.Machine.execPartSet q x s
  | .partClear q => Sys2Proof.Machine.execPartClear q s
  | .partNarrow q => Sys2Proof.Machine.execPartNarrow q s
  | .partStatus q others => Sys2Proof.Machine.execPartStatus q others s
  | .modelLoad q x => Sys2Proof.Machine.execModelLoad q x s
  | .modelUnload q h => Sys2Proof.Machine.execModelUnload q h s
  | .modelList q => Sys2Proof.Machine.execModelList q s
  | .modelSupply q h x failed => Sys2Proof.Machine.execModelSupply q h x failed s
  | .modelDigest q h => Sys2Proof.Machine.execModelDigest q h s
  | .schedLoad q x => Sys2Proof.Machine.execSchedLoad q x s
  | .schedSwitch q => Sys2Proof.Machine.execSchedSwitch q s
  | .recipeSet q l => Sys2Proof.Machine.execRecipeSet q l s
  | .recipeGet q l => Sys2Proof.Machine.execRecipeGet q l s
  | .flagsGet q others => Sys2Proof.Machine.execFlagsGet q others s
  | .adapterLoad q id gen l => Sys2Proof.Machine.execAdapterLoad q id gen l s
  | .adapterReplace q id gen l => Sys2Proof.Machine.execAdapterReplace q id gen l s
  | .adapterUnload q id => Sys2Proof.Machine.execAdapterUnload q id s
  | .adapterList q => Sys2Proof.Machine.execAdapterList q s
  | .rqCreate q r base entries wb => Sys2Proof.Machine.execRqCreate q r base entries wb s
  | .oqCreate q r remote base entries wb vec modUs modCnt => Sys2Proof.Machine.execOqCreate q r remote base entries wb vec modUs modCnt s
  | .ringDestroy q out r => Sys2Proof.Machine.execRingDestroy q out r s
  | .accountSet q a rate burst ends valid => Sys2Proof.Machine.execAccountSet q a rate burst ends valid s
  | .classSet q c ttft tbt => Sys2Proof.Machine.execClassSet q c ttft tbt s
  | .stopsetSet q issue tokens => Sys2Proof.Machine.execStopsetSet q issue tokens s
  | .reqQuery q e => Sys2Proof.Machine.execReqQuery q e s
  | .calSave q c set => Sys2Proof.Machine.execCalSave q c set s
  | .calRestore q dev c set recs => Sys2Proof.Machine.execCalRestore q dev c set recs s
  | .calMeasure q c set => Sys2Proof.Machine.execCalMeasure q c set s
  | .calConfig q c src log2 limit tstep => Sys2Proof.Machine.execCalConfig q c src log2 limit tstep s
  | .telSnapshot q blocks => Sys2Proof.Machine.execTelSnapshot q blocks s
  | .enduranceGet q c => Sys2Proof.Machine.execEnduranceGet q c s
  | .thermalGet q => Sys2Proof.Machine.execThermalGet q s
  | .telStream q ms blocks buf size => Sys2Proof.Machine.execTelStream q ms blocks buf size s
  | .telStreamInterval => Sys2Proof.Machine.execTelStreamInterval s
  | .faultList q => Sys2Proof.Machine.execFaultList q s
  | .faultAck q l => Sys2Proof.Machine.execFaultAck q l s
  | .coreFence q c => Sys2Proof.Machine.execCoreFence q c s
  | .resteep q c n => Sys2Proof.Machine.execResteep q c n s
  | .digestCfg q minutes => Sys2Proof.Machine.execDigestCfg q minutes s
  | .lcGet q => Sys2Proof.Machine.execLcGet q s
  | .lcSet q dst x challenge => Sys2Proof.Machine.execLcSet q dst x challenge s
  | .ownershipInstall q dst x challenge => Sys2Proof.Machine.execOwnershipInstall q dst x challenge s
  | .fwStage q ver lvl asks => Sys2Proof.Machine.execFwStage q ver lvl asks s
  | .fwActivate q done => Sys2Proof.Machine.execFwActivate q done s
  | .fwStatus q => Sys2Proof.Machine.execFwStatus q s
  | .shutdown q => Sys2Proof.Machine.execShutdown q s
  | .bistResult q => Sys2Proof.Machine.execBistResult q s
  | .reset q x => Sys2Proof.Machine.execReset q x s
  | .planInstall q image sig => Sys2Proof.Machine.execPlanInstall q image sig s
  | .planGet q => Sys2Proof.Machine.execPlanGet q s
  | .portCmd q p c => Sys2Proof.Machine.execPortCmd q p c s
  | .spareSet q a => Sys2Proof.Machine.execSpareSet q a s
  | .halfClock q east lower there => Sys2Proof.Machine.execHalfClock q east lower there s
  | .sysRstAssert => Sys2Proof.Machine.execSysRstAssert s
  | .powerOnDetect up => Sys2Proof.Machine.execPowerOnDetect up s
  | .packageStart x => Sys2Proof.Machine.execPackageStart x s
  | .startStepTimeout => Sys2Proof.Machine.execStartStepTimeout s
  | .watchdogExpire => Sys2Proof.Machine.execWatchdogExpire s
  | .watchdogKick a => Sys2Proof.Machine.execWatchdogKick a s
  | .lcRstCluster a k => Sys2Proof.Machine.execLcRstCluster a k s
  | .lcRstWarm a => Sys2Proof.Machine.execLcRstWarm a s
  | .lcRstCold a => Sys2Proof.Machine.execLcRstCold a s
  | .bistRun a => Sys2Proof.Machine.execBistRun a s
  | .bistDone o => Sys2Proof.Machine.execBistDone o s
  | .poweredTimeSave => Sys2Proof.Machine.execPoweredTimeSave s
  | .faultEvent src dom access node unit addr detail esc => Sys2Proof.Machine.execFaultEvent src dom access node unit addr detail esc s
  | .faultWindowEnd l1 => Sys2Proof.Machine.execFaultWindowEnd l1 s
  | .fltAck v => Sys2Proof.Machine.execFltAck v s
  | .fltEvtPop a => Sys2Proof.Machine.execFltEvtPop a s
  | .fltCapClear l => Sys2Proof.Machine.execFltCapClear l s
  | .faultNPulseEnd => Sys2Proof.Machine.execFaultNPulseEnd s
  | .faultReport => Sys2Proof.Machine.execFaultReport s
  | .faultSummaryTimer => Sys2Proof.Machine.execFaultSummaryTimer s
  | .faultPause c failed => Sys2Proof.Machine.execFaultPause c failed s
  | .pauseRequest n => Sys2Proof.Machine.execPauseRequest n s
  | .pauseNotice n k => Sys2Proof.Machine.execPauseNotice n k s
  | .suspectObserve c n => Sys2Proof.Machine.execSuspectObserve c n s
  | .suspectObservationEnd c n => Sys2Proof.Machine.execSuspectObservationEnd c n s
  | .digestInterval => Sys2Proof.Machine.execDigestInterval s
  | .injectGo v => Sys2Proof.Machine.execInjectGo v s
  | .injectionAtTime => Sys2Proof.Machine.execInjectionAtTime s
  | .sensorSample issue v ok => Sys2Proof.Machine.execSensorSample issue v ok s
  | .sensorMissingTimeout issue => Sys2Proof.Machine.execSensorMissingTimeout issue s
  | .warningChange east issue => Sys2Proof.Machine.execWarningChange east issue s
  | .throttleSet east => Sys2Proof.Machine.execThrottleSet east s
  | .throttleRequest n all => Sys2Proof.Machine.execThrottleRequest n all s
  | .throttleClear east => Sys2Proof.Machine.execThrottleClear east s
  | .thmCtlWrite a v => Sys2Proof.Machine.execThmCtlWrite a v s
  | .telConversionEnd code ovr => Sys2Proof.Machine.execTelConversionEnd code ovr s
  | .telCtlWrite a mask v => Sys2Proof.Machine.execTelCtlWrite a mask v s
  | .refclkLoss k => Sys2Proof.Machine.execRefclkLoss k s
  | .firingRelease c slot => Sys2Proof.Machine.execFiringRelease c slot s
  | .partnerSignalLoss p => Sys2Proof.Machine.execPartnerSignalLoss p s
  | .pcieLinkTrained speed width flit vfs => Sys2Proof.Machine.execPcieLinkTrained speed width flit vfs s
  | .pcieLinkError corr => Sys2Proof.Machine.execPcieLinkError corr s
  | .firmwareRestartEnd auth => Sys2Proof.Machine.execFirmwareRestartEnd auth s
  | .overrunReport n m w k longer => Sys2Proof.Machine.execOverrunReport n m w k longer s
  | .partitionStopNotice n k => Sys2Proof.Machine.execPartitionStopNotice n k s
  | .partitionStopRequest n missed => Sys2Proof.Machine.execPartitionStopRequest n missed s
  | .jtagFuseProgramming => Sys2Proof.Machine.execJtagFuseProgramming s

end Sys2Proof.Machine
end

