-- ==== Sys2Proof/WellFormed.lean ====
section
/-! DEFINITION. The commands whose operands are in the ranges that the specification gives them. The types of `Syntax` carry most of
them; these are the rest. -/
namespace Sys2Proof

/-- A block has 320 bytes, and a codeword reports its four lanes (R266). -/
def BlockIn.wf (b : BlockIn) : Bool := b.raw.length == 320 && match b.cw with | some l => l.length == 4 | none => true

/-- A notice names entries, lanes and slots that exist; an entry has 32 words. -/
def Notice.wf (x : Notice) : Bool :=
  match x with
  | .entry e ws => decide (e < 8192) && ws.length == 32 && ws.all fun w => decide (w < 2 ^ 32)
  | .endEntry e st fl => decide (e < 8192) && decide (st < 256) && decide (fl < 256)
  | .bind e l => decide (e < 8192) && decide (l < 4096)
  | .unbind e l => decide (e < 8192) && decide (l < 4096)
  | .prefill e p n => decide (e < 8192) && decide (p < 2 ^ 32) && decide (n < 4096)
  | .slot n id g st cur => decide (n < 64) && decide (id < 65536) && decide (g < 65536) && decide (st < 4) && decide (cur < 2)

/-- Golden regions are reserved for at most 16 logical cores (R159). -/
def ImgIn.wf (x : ImgIn) : Bool := decide (x.bases.length ≤ 16)

/-- A segment has its rows (R203). -/
def SegIn.wf (x : SegIn) : Bool := x.rows.length == (x.rankM1.toNat + 1) * (x.din.toNat + x.dout.toNat) * 512

/-- A descriptor's stop sequences have 1 to 16 tokens (Table 11.6). -/
def Desc.wf (d : Desc) : Bool := d.stops.length == d.nstop.toNat && d.stops.all fun l => decide (1 ≤ l.length) && decide (l.length ≤ 16)

/-- A partition has a member list without repeats (R307). -/
def PartIn.wf (x : PartIn) : Bool := decide (1 ≤ x.members.length) && decide x.members.Nodup

/-- The operands are in range. -/
def Instr.wf (i : Instr) : Bool :=
  match i with
  | .registerWrite .. => true
  | .registerReadLatch .. => true
  | .snapTake .. => true
  | .tickBoundary .. => true
  | .caddyTtlExpire .. => true
  | .guardBandStart => true
  | .fire .. => true
  | .inputLoad _ t => decide (t.toNat < 2560)
  | .firingStart _ t => decide (t.toNat < 2560)
  | .firingHandoff _ t => decide (t.toNat < 2560)
  | .proofGoldLine .. => true
  | .proofStart .. => true
  | .proofComplete .. => true
  | .verified .. => true
  | .retire .. => true
  | .arrEmpty .. => true
  | .clearSuspect .. => true
  | .arrTrimWrite .. => true
  | .quant .. => true
  | .promote .. => true
  | .emit .. => true
  | .accClear .. => true
  | .leavenWindowEnd .. => true
  | .leavenCtlWrite .. => true
  | .fmaxClear .. => true
  | .fallbackReport .. => true
  | .calFull .. => true
  | .calArray .. => true
  | .interpNow .. => true
  | .clearCorr .. => true
  | .clearStats .. => true
  | .calCmdDone .. => true
  | .calInterpEnable .. => true
  | .calPassStart .. => true
  | .calPassEnd .. => true
  | .calMonitorPeriodEnd .. => true
  | .calStoreWrite .. => true
  | .steepGo .. => true
  | .batchStart .. => true
  | .steepBatchEnd .. => true
  | .eraseBatchEnd .. => true
  | .readbackBatchEnd .. => true
  | .readbackTimeout .. => true
  | .resteepRotation .. => true
  | .resteepInPlace .. => true
  | .resteepDeferExpire .. => true
  | .roundSwitch .. => true
  | .goldenRestore _ x _ => match x with | some y => y.wf | none => true
  | .goldenRefetch _ i x => decide (i < 1280) && x.wf
  | .imageSourceRetry _ x _ => match x with | some y => y.wf | none => true
  | .endOp .. => true
  | .illegalInstruction .. => true
  | .add .. => true
  | .sub .. => true
  | .mul .. => true
  | .fma .. => true
  | .scale .. => true
  | .maxOp .. => true
  | .act .. => true
  | .norm .. => true
  | .softmax .. => true
  | .topk .. => true
  | .sample .. => true
  | .copy .. => true
  | .send .. => true
  | .load .. => true
  | .store .. => true
  | .gather .. => true
  | .winOpen .. => true
  | .winSeal .. => true
  | .winClose .. => true
  | .waitEvt .. => true
  | .waitWin .. => true
  | .waitDeadline .. => true
  | .append .. => true
  | .score .. => true
  | .combine .. => true
  | .adptDown .. => true
  | .adptUp .. => true
  | .windowWriteLanding .. => true
  | .nackReceived .. => true
  | .corePowerOn .. => true
  | .corePowerOff .. => true
  | .coreCmdReset .. => true
  | .fence .. => true
  | .run .. => true
  | .stop .. => true
  | .corePowerRampStart .. => true
  | .corePowerRampEnd .. => true
  | .resetDrainDone .. => true
  | .drainTimeout .. => true
  | .coreResetEnd .. => true
  | .microcodeMulticast .. => true
  | .stepRowLanding => true
  | .syncMarkerTimer => true
  | .syncReceived .. => true
  | .delayReqReceived .. => true
  | .delayRespReceived .. => true
  | .parentLossTimeout => true
  | .holdoverExpire => true
  | .standbyRootTakeover => true
  | .gateHold => true
  | .gateRelease => true
  | .gateAbort => true
  | .overrunWindowEnd .. => true
  | .switchNotice .. => true
  | .meshEnable .. => true
  | .flitForward .. => true
  | .stackRead .. => true
  | .stackWrite .. => true
  | .stackReply .. => true
  | .mergeWindowClose .. => true
  | .scrubRead .. => true
  | .bankDown .. => true
  | .bankUp .. => true
  | .bankDrainEnd .. => true
  | .bankWakeEnd .. => true
  | .portEnable .. => true
  | .portTrainingDone .. => true
  | .portMissingTimeout .. => true
  | .portTrainFailTimeout .. => true
  | .portSignalDetect .. => true
  | .portAdmit .. => true
  | .portQuarantine .. => true
  | .portRetrain .. => true
  | .portDisable .. => true
  | .portMissing .. => true
  | .cellReceive _ b => b.wf
  | .cellIngressExit .. => true
  | .egressBlock .. => true
  | .retrainDone .. => true
  | .linkDown .. => true
  | .fecIntervalEnd .. => true
  | .quarWindowEnd .. => true
  | .authCell .. => true
  | .admissionTimeout .. => true
  | .discoveryEnd => true
  | .missingReport .. => true
  | .portStateFlood .. => true
  | .routeInstall => true
  | .windowAck .. => true
  | .coordinatorSilent .. => true
  | .readyReport .. => true
  | .partitionStartNotice .. => true
  | .partitionRunWrite .. => true
  | .partitionResetNotice .. => true
  | .noticeReceived _ _ x => x.wf
  | .reqNew _ d => d.wf
  | .reqContinue _ d => d.wf
  | .reqCancel .. => true
  | .reqPark .. => true
  | .reqDrop .. => true
  | .accountRefill => true
  | .outputRecordWrite .. => true
  | .outputIrqTimer .. => true
  | .caddyReport .. => true
  | .adapterSlotFree .. => true
  | .mbDb .. => true
  | .mbAck .. => true
  | .pendingComplete .. => true
  | .rqTail .. => true
  | .oqHead .. => true
  | .flr .. => true
  | .pcieHotReset => true
  | .pciePerst => true
  | .pcieRetrain .. => true
  | .bar4Read .. => true
  | .bar4Write .. => true
  | .dmaTransferEnd .. => true
  | .mgmtSessionHandshake .. => true
  | .getInfo .. => true
  | .getCert .. => true
  | .getLog .. => true
  | .getPorts .. => true
  | .partCreate _ x => x.wf
  | .partStart .. => true
  | .partStop .. => true
  | .partReset .. => true
  | .partDestroy .. => true
  | .partSet .. => true
  | .partClear .. => true
  | .partNarrow .. => true
  | .partStatus .. => true
  | .modelLoad _ x => x.wf
  | .modelUnload .. => true
  | .modelList .. => true
  | .modelSupply _ _ x _ => x.wf
  | .modelDigest .. => true
  | .schedLoad .. => true
  | .schedSwitch .. => true
  | .recipeSet _ l => decide (l.length ≤ 96)
  | .recipeGet .. => true
  | .flagsGet .. => true
  | .adapterLoad _ _ _ l => l.all SegIn.wf
  | .adapterReplace _ _ _ l => l.all SegIn.wf
  | .adapterUnload .. => true
  | .adapterList .. => true
  | .rqCreate .. => true
  | .oqCreate .. => true
  | .ringDestroy .. => true
  | .accountSet .. => true
  | .classSet .. => true
  | .stopsetSet _ _ tokens => tokens.length == 32
  | .reqQuery .. => true
  | .calSave .. => true
  | .calRestore _ _ _ _ recs => recs.length == 2624 * 64
  | .calMeasure .. => true
  | .calConfig .. => true
  | .telSnapshot .. => true
  | .enduranceGet .. => true
  | .thermalGet .. => true
  | .telStream .. => true
  | .telStreamInterval => true
  | .faultList .. => true
  | .faultAck .. => true
  | .coreFence .. => true
  | .resteep .. => true
  | .digestCfg .. => true
  | .lcGet .. => true
  | .lcSet _ t _ _ => decide (t.val ≤ 5)
  | .ownershipInstall _ t _ _ => decide (t.val ≤ 5)
  | .fwStage .. => true
  | .fwActivate .. => true
  | .fwStatus .. => true
  | .shutdown .. => true
  | .bistResult .. => true
  | .reset .. => true
  | .planInstall .. => true
  | .planGet .. => true
  | .portCmd _ p _ => decide (p.toNat < 12)
  | .spareSet .. => true
  | .halfClock .. => true
  | .sysRstAssert => true
  | .powerOnDetect .. => true
  | .packageStart x => decide (x.windows.length ≤ 4) && decide (x.spares.length ≤ 3)
  | .startStepTimeout => true
  | .watchdogExpire => true
  | .watchdogKick .. => true
  | .lcRstCluster .. => true
  | .lcRstWarm .. => true
  | .lcRstCold .. => true
  | .bistRun .. => true
  | .bistDone .. => true
  | .poweredTimeSave => true
  | .faultEvent .. => true
  | .faultWindowEnd .. => true
  | .fltAck .. => true
  | .fltEvtPop .. => true
  | .fltCapClear .. => true
  | .faultNPulseEnd => true
  | .faultReport => true
  | .faultSummaryTimer => true
  | .faultPause .. => true
  | .pauseRequest .. => true
  | .pauseNotice .. => true
  | .suspectObserve .. => true
  | .suspectObservationEnd .. => true
  | .digestInterval => true
  | .injectGo .. => true
  | .injectionAtTime => true
  | .sensorSample .. => true
  | .sensorMissingTimeout .. => true
  | .warningChange .. => true
  | .throttleSet .. => true
  | .throttleRequest .. => true
  | .throttleClear .. => true
  | .thmCtlWrite .. => true
  | .telConversionEnd .. => true
  | .telCtlWrite .. => true
  | .refclkLoss .. => true
  | .firingRelease _ t => decide (t.toNat < 2560)
  | .partnerSignalLoss .. => true
  | .pcieLinkTrained .. => true
  | .pcieLinkError .. => true
  | .firmwareRestartEnd .. => true
  | .overrunReport .. => true
  | .partitionStopNotice .. => true
  | .partitionStopRequest .. => true
  | .jtagFuseProgramming => true

end Sys2Proof
end

