-- ==== Sys2Proof/Safety.lean ====
section
/-! DEFINITION. What a sound state is: the canonical form of the memories, the bound of the fault queue, and a queue of well-formed commands. -/
namespace Sys2Proof

/-- A set of numbers is in strictly rising order. -/
def NSet.wf : NSet → Bool
  | [] => true
  | a :: m => (m.all fun b => decide (a < b)) && NSet.wf m

namespace Machine

/-- The canonical form of the memories: bytes in strictly rising order of address, none listed that reads 0 anyway, and marks in
rising order. Equal memories are then equal data. -/
def Mems.wf (m : Mems) : Bool :=
  SMap.wf 0 m.stk && SMap.wf 0 m.spad && SMap.wf 0 m.prog && SMap.wf 0 m.cal && SMap.wf 0 m.wts && NSet.wf m.spadBad &&
    NSet.wf m.stkPoison && NSet.wf m.spadPoison && NSet.wf m.undef

/-- The memories are canonical and the fault collector holds at most 256 records (R391). -/
def State.sound (s : State) : Bool := s.mem.wf && decide (s.flt.queue.length ≤ 256)

/-- Every waiting command is well formed. -/
def State.queueWf (s : State) : Bool := s.pending.all Instr.wf

/-- The instruction at the program counter of the core issues: the core issues, the word is legal and of class `cls` and operation `op`, its
instant lies within the tick, and its unit has room (R175, R177, R180, R181). -/
def issues (i : Issue) (cls op : Nat) (u : Option CUnit) (s : State) : Bool :=
  let c := i.core.val
  let s0 := applyUpset i s
  let w := curWord s0 c
  issuing s0 c && !(core s0 c).pastEnd && !wordIllegal i s0 && iClass w == cls && iOp w == op &&
    decide (issueAt s0 c w < tickEnd s0 c) && room (moveTo (issueAt s0 c w) s0) c u

/-- The state in which an issued instruction takes its effect: what upset the scratchpad stands in it, the time base is at the instruction's
NOT_BEFORE, a corrected program-memory error is reported, it has its place in its unit's queue, and the program counter is past it. -/
def issued (i : Issue) (s : State) : State :=
  let c := i.core.val
  let s0 := applyUpset i s
  let s1 := moveTo (issueAt s0 c (curWord s0 c)) s0
  nextPc c (occupy c (curWord s0 c) (if i.ecc == .corrected then progCorr c s1 else s1))

/-- No soft error is found or made. -/
def errorFree (i : Issue) : Bool := i.ecc == .clean && i.upset.isNone

/-- All fields but those listed read as before, current and active values alike. -/
def sameRegsBut (fs : List Fld) (s t : State) : Prop :=
  ∀ g : Fld, (∀ f ∈ fs, g.key ≠ f.key) → get t g = get s g ∧ actv t g = actv s g

/-- What a vector instruction of the core leaves as it was: scratchpad bytes outside its destination rows, the other memories, the
registers but the program counter and the time base, the other cores and the other units. -/
def vecFrame (i : Issue) (s t : State) : Prop :=
  let c := i.core.val
  let lo := rowAddr c (vD (curWord s c))
  (∀ a, a < lo ∨ lo + 512 * vN (curWord s c) ≤ a → rdByte t.mem.spad a = rdByte s.mem.spad a) ∧
  (∀ a, rdByte t.mem.stk a = rdByte s.mem.stk a) ∧ t.mem.prog = s.mem.prog ∧ t.mem.cal = s.mem.cal ∧ t.mem.wts = s.mem.wts ∧
  sameRegsBut [F.TB_TIME_TIME, F.SEQ_STAT_PC c] s t ∧ (∀ d, d ≠ c → core t d = core s d) ∧ t.ports = s.ports ∧ t.stks = s.stks ∧
  t.fw = s.fw ∧ t.flt = s.flt

/-- What a command that acts on one core leaves as it was: every memory, every register but those listed, and every other core beside
its registers. -/
def coreFrame (c : Nat) (fs : List Fld) (s t : State) : Prop :=
  t.mem = s.mem ∧ sameRegsBut fs s t ∧ ∀ d, d ≠ c → core t d = core s d

/-- The mailbox answers the request in the slot for the command of a row: the slot is BUSY, the header names that command, and no check of
Table 12.4 refuses it. -/
def accepts (r : CmdRow) (q : YReq) (range : Bool) (parts : List Nat) (objs : List Obj) (s : State) : Prop :=
  slotSt s q.fn q.slot = 1 ∧ autoBusy s = false ∧ (reqHeader s q.fn q.slot).opcode = r.op ∧
    check s r q (reqHeader s q.fn q.slot) range parts objs = none

/-- A command leaves the memories, the cores, the active values and the fault collector as they were. -/
def calm (s t : State) : Prop := t.mem = s.mem ∧ t.cores = s.cores ∧ t.act = s.act ∧ t.flt = s.flt

end Machine
end Sys2Proof
end

