-- ==== Sys2Proof/Certificates/Slice0/Obligations.lean ====
section
/-! DEFINITION. The statements about the model, for the provers. -/

open Sys2Proof Sys2Proof.Machine

/-! ### The queue, reset and invariants -/

/-- A step takes the command at the front of the queue and runs it on the state with the queue's rest. -/
def Obligations.StepRunsFrontCommand : Prop :=
  ∀ (c : Instr) (rest : List Instr) (s : State),
    step { s with pending := c :: rest } = exec c { s with pending := rest }

/-- On an empty queue a step is a tick of the reference: the queue stays empty, and nothing but the time base moves (the model's choice, log entry 2). -/
def Obligations.EmptyQueueStepMovesOnlyTime : Prop :=
  ∀ s : State, s.pending = [] → ∃ t, step s = .next t ∧ t.pending = [] ∧ t.mem = s.mem ∧ t.cores = s.cores ∧ t.ports = s.ports ∧
    t.fw = s.fw ∧ t.srv = s.srv ∧ t.act = s.act ∧ sameRegsBut [F.TB_TIME_TIME] s t

/-- R20: right after reset every field, current and active, reads its reset value; memory lists nothing and the queue is empty. -/
def Obligations.ResetGivesResetColumn : Prop :=
  (∀ f : Fld, get State.reset f = f.reset ∧ actv State.reset f = f.reset) ∧ State.reset.mem = Mems.empty ∧ State.reset.pending = [] ∧
    State.reset.shadows = [] ∧ State.reset.mesh = [] ∧ State.reset.flt.queue = [] ∧
    (∀ c, core State.reset c = CoreSt.reset) ∧ State.reset.fw.phase = .step 0

/-- The state after reset is sound and its queue well formed. -/
def Obligations.ResetIsSound : Prop :=
  State.reset.sound = true ∧ State.reset.queueWf = true

/-- Every step keeps soundness: the memories stay canonical and the fault collector never holds more than 256 records (R391). -/
def Obligations.StepKeepsSound : Prop :=
  ∀ s t : State, s.sound = true → step s = .next t → t.sound = true

/-- Every command completes in every state, none faults and none is refused, and it leaves the queue behind it and the fused arrays alone. -/
def Obligations.EveryCommandCompletes : Prop :=
  ∀ (c : Instr) (s : State), ∃ t, exec c s = .next t ∧ t.pending = s.pending ∧ t.badArr = s.badArr

/-- Every step keeps a queue of well-formed commands well formed, and shortens it by the command it runs. -/
def Obligations.StepKeepsQueueWellFormed : Prop :=
  ∀ s t : State, s.queueWf = true → step s = .next t → t.queueWf = true ∧ t.pending = s.pending.tail

/-- The arrays the fuses list as bad never change: no command, no reset and no tick writes fuses (R84, R360). -/
def Obligations.StepKeepsFusedArrays : Prop :=
  ∀ s t : State, step s = .next t → t.badArr = s.badArr

/-! ### The sequencer and the units of a core -/

/-- R184: a vector instruction that issues has its effect on the rows, gives its signal, and is complete; also when a soft error of the program memory was
corrected, or upset a row. -/
def Obligations.VectorInstructionsComplete : Prop :=
  ∀ (i : Issue) (s : State),
    let c := i.core.val
    let w := curWord s c
    let u := issued i s
    (issues i 3 0 (some .vec) s = true → exec (.add i) s = .next (signal c (sigOf w) (vec2 fadd c w u))) ∧
    (issues i 3 1 (some .vec) s = true → exec (.sub i) s = .next (signal c (sigOf w) (vec2 fsub c w u))) ∧
    (issues i 3 2 (some .vec) s = true → exec (.mul i) s = .next (signal c (sigOf w) (vec2 fmul c w u))) ∧
    (issues i 3 3 (some .vec) s = true → exec (.fma i) s = .next (signal c (sigOf w) (vecFma c w u))) ∧
    (issues i 3 4 (some .vec) s = true → exec (.scale i) s = .next (signal c (sigOf w) (vec1 (fun x => fmul x (vImm w)) c w u))) ∧
    (issues i 3 5 (some .vec) s = true → exec (.maxOp i) s = .next (signal c (sigOf w) (vec2 fmaxLow c w u))) ∧
    (issues i 3 6 (some .vec) s = true → exec (.act i) s = .next (signal c (sigOf w) (vec1 (actVal (vFunc w)) c w u))) ∧
    (issues i 3 7 (some .vec) s = true → exec (.norm i) s = .next (signal c (sigOf w) (vecNorm c w u))) ∧
    (issues i 3 8 (some .vec) s = true → exec (.softmax i) s = .next (signal c (sigOf w) (vecSoftmax c w u))) ∧
    (issues i 3 9 (some .vec) s = true → exec (.topk i) s = .next (signal c (sigOf w) (vecTopk c w u))) ∧
    (issues i 3 0xB (some .vec) s = true → exec (.sample i) s = .next (signal c (sigOf w) (vecSample c w u)))

/-- ADD, SUB, MUL and MAX without a soft error and on rows without marks leave every scratchpad byte outside their destination rows, every other memory,
every register but the program counter and the time base, and every other core as they were. -/
def Obligations.TwoOperandVectorFrame : Prop :=
  ∀ (i : Issue) (s : State), errorFree i = true → s.mem.spadBad = [] → s.mem.spadPoison = [] →
    (issues i 3 0 (some .vec) s = true → ∃ t, exec (.add i) s = .next t ∧ vecFrame i s t) ∧
    (issues i 3 1 (some .vec) s = true → ∃ t, exec (.sub i) s = .next t ∧ vecFrame i s t) ∧
    (issues i 3 2 (some .vec) s = true → ∃ t, exec (.mul i) s = .next t ∧ vecFrame i s t) ∧
    (issues i 3 5 (some .vec) s = true → ∃ t, exec (.maxOp i) s = .next t ∧ vecFrame i s t)

/-- ADD: element j of result row k is the FP32 sum of the operands' elements, rounded once to BF16 (R184), when no source row has a check mismatch. All
rows are read before one is written (log entry 27). -/
def Obligations.AddRowsHoldSums : Prop :=
  ∀ (i : Issue) (s : State) (k : Nat),
    let c := i.core.val
    let w := curWord s c
    errorFree i = true → issues i 3 0 (some .vec) s = true → s.mem.spadBad = [] → k < vN w → ∃ t, exec (.add i) s = .next t ∧
      rowBytes t c (vD w + k) = outRow ((((rowBf (rowBytes s c (vA w + k))).map bfToF32).zip
        ((rowBf (rowBytes s c (vB w + k))).map bfToF32)).map fun q => fadd q.1 q.2)

/-- R182, R186, R177: FIRE queues its firings, and the move instructions read, send, request or write their rows, when they issue; where an earlier one of
the unit holds them up they take their place in its queue. -/
def Obligations.FireAndMoveInstructionsComplete : Prop :=
  ∀ (i : Issue) (s : State),
    let c := i.core.val
    let w := curWord s c
    let u := issued i s
    let held := (core u c).ops.any fun o => o.unit == .move && holdsUp o
    let behind := (core u c).ops.any fun o => o.unit == .move && waitsOp o
    let queued := (addOp c .move (.wait w) none 1 u).2
    (issues i 1 0 (some .fire) s = true → exec (.fire i) s = .next (fire c w u)) ∧
    (errorFree i = true → issues i 1 0 (some .fire) s = true → ∃ t, exec (.fire i) s = .next t ∧
      (core t c).firings = (core s c).firings ++ fireFirings w (pcOf u c - 1) (core u c).nextOp ∧
      (core t c).nextOp = (core s c).nextOp + 1 ∧ t.mem = s.mem ∧ sameRegsBut [F.TB_TIME_TIME, F.SEQ_STAT_PC c] s t ∧
      ∀ d, d ≠ c → core t d = core s d) ∧
    (issues i 4 0 (some .move) s = true → exec (.copy i) s = .next (if held then queued else moveCopy c w u)) ∧
    (issues i 4 1 (some .move) s = true → exec (.send i) s = .next (if held then queued else moveSend c w u)) ∧
    (issues i 4 2 (some .move) s = true → exec (.load i) s = .next (if behind then queued else moveLoad c w u)) ∧
    (issues i 4 3 (some .move) s = true → exec (.store i) s = .next (if held then queued else moveStore c w u)) ∧
    (issues i 4 4 (some .move) s = true → exec (.gather i) s = .next (if behind then queued else moveGather c w u))

/-- R177, R178, R185, R100, R102, R183: QUANT, and the accumulator instructions: each enters the accumulator's queue, and takes its effect at once when
nothing is before it in the queue and no earlier FIRE of its sets has still to accumulate. R201, R204, R177: the attention and adapter instructions,
when they issue; where an earlier one of the unit holds an attention instruction up it takes its place in its queue. R187, R195: WIN OPEN opens a
window with what the instruction says; SEAL marks an OPEN one; CLOSE closes it. Memory stays, and what had landed in the window is dropped. R188: a
WAIT whose condition holds gives its signal and issue goes on; one that reaches its deadline unmet is counted, and the core's outputs to the end of
the tick carry POISONED. -/
def Obligations.CoreUnitInstructionsComplete : Prop :=
  (∀ (i : Issue) (s : State),
    let c := i.core.val
    let w := curWord s c
    let u := issued i s
    let free := ((core u c).ops.any fun o => o.unit == .acc) = false ∧ ((core u c).firings.any fun f => owes f && accNames w f.par.accSet) = false
    let runs := opDone c (core u c).nextOp (accRun c w (addOp c .acc (.acc w) (sigOf w) 1 u).2)
    (issues i 3 0xA (some .vec) s = true → exec (.quant i) s = .next (quant c w u)) ∧
    (issues i 2 1 (some .acc) s = true → exec (.promote i) s = .next (accIssue c w u) ∧ (free → exec (.promote i) s = .next runs)) ∧
    (issues i 2 2 (some .acc) s = true → exec (.emit i) s = .next (accIssue c w u) ∧ (free → exec (.emit i) s = .next runs)) ∧
    (issues i 2 3 (some .acc) s = true → exec (.accClear i) s = .next (accIssue c w u) ∧ (free → exec (.accClear i) s = .next runs)) ∧
    (issues i 2 3 (some .acc) s = true → errorFree i = true → free → ∃ t, exec (.accClear i) s = .next t ∧
      (∀ k, k < accN w → accSet t c (accIx w k) = AccSet.empty) ∧
      (∀ n, (∀ k, k < accN w → n ≠ accIx w k) → accSet t c n = accSet s c n) ∧ t.mem = s.mem ∧
      sameRegsBut [F.TB_TIME_TIME, F.SEQ_STAT_PC c] s t ∧ ∀ d, d ≠ c → core t d = core s d)) ∧
  (∀ (i : Issue) (s : State),
    let c := i.core.val
    let w := curWord s c
    let u := issued i s
    let held := (core u c).ops.any fun o => o.unit == .attn && holdsUp o
    let behind := (core u c).ops.any fun o => o.unit == .attn && waitsOp o
    let queued := (addOp c .attn (.wait w) none 1 u).2
    (issues i 7 0 (some .attn) s = true → exec (.append i) s = .next (if behind then queued else attnAppend c w u)) ∧
    (issues i 7 1 (some .attn) s = true → exec (.score i) s = .next (if behind then queued else attnScore c w u)) ∧
    (issues i 7 2 (some .attn) s = true → exec (.combine i) s = .next (if held then queued else attnCombine c w u)) ∧
    (issues i 8 0 (some .adpt) s = true → exec (.adptDown i) s = .next (adpt c w (fun _ => [atOut w]) (adptDown c w) u)) ∧
    (issues i 8 1 (some .adpt) s = true → exec (.adptUp i) s = .next (adpt c w
      (fun d => rowRange (atOut w) (max 1 (min 128 (actv u (F.SEQ_ADPT_DIR_DOUT c d))))) (adptUp c w) u))) ∧
  (∀ (i : Issue) (s : State),
    let c := i.core.val
    let w := curWord s c
    let n := bits w 32 6
    (issues i 5 0 none s = true → exec (.winOpen i) s = .next (signal c (sigOf w) (winOpen c w (issued i s)))) ∧
    (issues i 5 1 none s = true → exec (.winSeal i) s = .next (signal c (sigOf w) (winSeal c w (issued i s)))) ∧
    (issues i 5 2 none s = true → exec (.winClose i) s = .next (signal c (sigOf w) (winClose c w (issued i s)))) ∧
    (errorFree i = true → issues i 5 0 none s = true → ∃ t, exec (.winOpen i) s = .next t ∧ get t (F.SPAD_WIN_STATE c n) = 1 ∧
      get t (F.SPAD_WIN_BASE c n) = bits w 38 15 ∧ get t (F.SPAD_WIN_SIZE_M1 c n) = bits w 53 15 ∧
      get t (F.SPAD_WIN_EXPECT c n) = bits w 68 17 ∧ get t (F.SPAD_WIN_COUNT c n) = 0 ∧ get t (F.SPAD_WIN_SEAL_PEND c n) = 0 ∧
      get t (F.SPAD_WIN_SHORT c n) = 0 ∧ ((core t c).landed.all fun x => x.1 != n) = true ∧ t.mem = s.mem ∧ ∀ d, d ≠ c → core t d = core s d) ∧
    (errorFree i = true → issues i 5 1 none s = true → ∃ t, exec (.winSeal i) s = .next t ∧
      (get s (F.SPAD_WIN_STATE c n) = 1 → get t (F.SPAD_WIN_SEAL_PEND c n) = 1) ∧ t.mem = s.mem ∧
      sameRegsBut [F.TB_TIME_TIME, F.SEQ_STAT_PC c, F.SPAD_WIN_SEAL_PEND c n] s t ∧ ∀ d, d ≠ c → core t d = core s d) ∧
    (errorFree i = true → issues i 5 2 none s = true → ∃ t, exec (.winClose i) s = .next t ∧ get t (F.SPAD_WIN_STATE c n) = 0 ∧
      get t (F.SPAD_WIN_SEAL_PEND c n) = 0 ∧ t.mem = s.mem ∧
      sameRegsBut [F.TB_TIME_TIME, F.SEQ_STAT_PC c, F.SPAD_WIN_SEAL_PEND c n, F.SPAD_WIN_STATE c n, F.SPAD_STAT_N_OPEN c, F.SPAD_STAT_N_HELD c] s t ∧
      ∀ d, d ≠ c → core t d = core s d)) ∧
  (∀ (i : Issue) (s : State),
    let c := i.core.val
    let w := curWord s c
    (issues i 6 0 none s = true → waitEvtMet (applyUpset i s) c w = true → exec (.waitEvt i) s = .next (signal c (sigOf w) (issued i s))) ∧
    (issues i 6 1 none s = true → waitWinMet (applyUpset i s) c w = true → exec (.waitWin i) s = .next (signal c (sigOf w) (issued i s))) ∧
    (errorFree i = true → issues i 6 (iOp w) none s = true → waitMet s c w = false → bits w 55 16 ≠ 0 →
      (core s c).tickStart + 4 * bits w 55 16 < tickEnd s c → ∃ t, exec (.waitDeadline i) s = .next t ∧ (core t c).outPoison = true ∧
      get t (F.SEQ_WAIT_TMO_CNT c) = min (get s (F.SEQ_WAIT_TMO_CNT c) + 1) (2 ^ 64 - 1) % 2 ^ 64 ∧
      ((core s c).tickStart + 4 * bits w 55 16 < 2 ^ 64 → (core s c).tickStart + 4 * bits w 55 16 ≤ now t) ∧ t.mem = s.mem ∧
      sameRegsBut [F.TB_TIME_TIME, F.SEQ_STAT_PC c, F.SEQ_WAIT_TMO_CNT c] s t))

/-- R179: END retires when every instruction before it has completed, gives its signal then, and drains until then. R180: an illegal word at the program
counter, an uncorrectable one, or issue past instruction 16,383, ends issue; without a soft error it is counted and recorded, and the core issues
nothing more in its tick. -/
def Obligations.IssueOfATickEnds : Prop :=
  (∀ (i : Issue) (s : State),
    let c := i.core.val
    let w := curWord s c
    (issues i 0 0 none s = true → exec (.endOp i) s = .next (endBody c w (issued i s))) ∧
    (issues i 0 0 none s = true → allDone s c = true → errorFree i = true →
      exec (.endOp i) s = .next (signal c (sigOf w) (set (F.SEQ_STAT_PHASE_ST c) 3 (issued i s)))) ∧
    (issues i 0 0 none s = true → allDone s c = false → errorFree i = true →
      exec (.endOp i) s = .next (set (F.SEQ_STAT_PHASE_ST c) 2 (issued i s))) ∧
    (coreState s c = 3 → get s (F.SEQ_STAT_PHASE_ST c) = 2 → allDone s c = true → exec (.endOp i) s = .next
      (signal c (sigOf (progWord s c (actv s (F.SEQ_CTL_BANK c)) (pcOf s c - 1))) (set (F.SEQ_STAT_PHASE_ST c) 3 s)))) ∧
  ((∀ (i : Issue) (s : State), issuing (applyUpset i s) i.core.val = true →
    let c := i.core.val
    let u := applyUpset i s
    ((core u c).pastEnd = true → exec (.illegalInstruction i) s = .next (illegalStop c true false u)) ∧
    ((core u c).pastEnd = false → i.ecc = .uncorrectable → exec (.illegalInstruction i) s = .next (illegalStop c false true u)) ∧
    ((core u c).pastEnd = false → i.ecc = .clean → wordIllegal i u = true → exec (.illegalInstruction i) s = .next (illegalStop c false false u))) ∧
  ∀ (i : Issue) (s : State), i.upset = none → i.ecc = .clean → issuing s i.core.val = true →
    (core s i.core.val).pastEnd = true ∨ wordIllegal i s = true → ∃ t, exec (.illegalInstruction i) s = .next t ∧
      let c := i.core.val
      let past := (core s c).pastEnd
      issuing t c = false ∧ get t (F.SEQ_ILL_PC c) = (if past then 0x3FFF else pcOf s c % 2 ^ 14) ∧
      get t (F.SEQ_ILL_PAST c) = (if past then 1 else 0) ∧ get t (F.SEQ_ILL_VALID c) = 1 ∧
      get t (F.SEQ_ILLEGAL_CNT c) = min (get s (F.SEQ_ILLEGAL_CNT c) + 1) (2 ^ 64 - 1) % 2 ^ 64 ∧
      t.mem = s.mem ∧ t.mesh = s.mesh ∧ ∀ d, d ≠ c → core t d = core s d)

/-! ### Arrays and the proof unit -/

/-- R55, R182: the oldest queued firing, when it fires the slot and its array's input buffer has room, is loaded; its FIRE's rows are read once. It waits
for an earlier ACC instruction of its set (R178). A slot that no array or more than one holds loads a firing without an array. R66, R86, R97: the
oldest loaded firing of a slot starts on the one ACTIVE array that holds the slot, and takes the recipe and the trims as they then are; a slot without
an ACTIVE array refuses the firing. R64, R98 to R101, R452: at its handoff instant a running firing's array takes its changes and its codes go to the
proof unit; codes go to their sets in program order, and the accumulator's queue goes on. A firing whose tick was abandoned delivers nothing. At its
end a firing gives its input-buffer entry back; one whose codes still wait stays until they are delivered. A firing that has latched its input is
counted in its array, also when every converted value is zero. -/
def Obligations.FiringsRun : Prop :=
  (∀ (c : CoreIx) (slot : BitVec 12) (s : State) (f : Firing),
    let isQ := fun (f : Firing) => f.stage == .queued
    let arr := match holders s c slot.toNat with | [n] => some n | _ => none
    (core s c).firings.find? isQ = some f → f.par.slot = slot.toNat →
    ((core s c).firings.filter fun x => arr.isSome && x.arr == arr && x.stage != .queued && x.stage != .released).length < 2 →
    accWaits s c f = false →
    exec (.inputLoad c slot) s = .next (updCore c
      (fun k => { k with firings := updFirst isQ (fun x => { x with stage := .loaded, arr := arr }) k.firings })
      (if f.row.isEmpty then loadRows c f s else s))) ∧
  (∀ (c : CoreIx) (slot : BitVec 12) (s : State) (f : Firing) (n : Nat),
    let isL := fun (f : Firing) => f.stage == .loaded && f.par.slot == slot.toNat
    let r := recipe s c f.par.ri
    (core s c).firings.find? isL = some f → holders s c slot.toNat = [n] →
    ((core s c).firings.any fun x => x.arr == f.arr && f.arr.isSome && (x.stage == .running || x.stage == .handed)) = false →
    (arrState s c n = 4 → refused97 f r = false → ∃ t, exec (.firingStart c slot) s = .next t ∧
      (core t c).firings = updFirst isL (fun _ => { f with
        stage := .running, arr := some n, rcp := some r, w2 := actB s (F.ARR_CTL_FMT c n), trims := trimsNow s c n, t0 := now s, slow := slowHalf s c,
        zero := (driven (firesA4 f r) f.row).isEmpty }) (core s c).firings ∧
      coreFrame c [F.PROOF_SKIP_ZERO_CNT c] s t) ∧
    (arrState s c n ≠ 4 → ∃ t, exec (.firingStart c slot) s = .next t ∧ get t (F.ARR_STAT_FIRE_REFUSED c n) = 1 ∧
      (core t c).firings = updFirst isL (fun _ => { f with
        stage := .running, arr := none, rcp := some r, w2 := false, trims := [], t0 := now s, slow := slowHalf s c, refused := true })
        (core s c).firings ∧ t.mem = s.mem)) ∧
  (∀ (c : CoreIx) (slot : BitVec 12) (s : State) (f : Firing) (r : Recipe),
    let isR := fun (f : Firing) => f.stage == .running && f.par.slot == slot.toNat
    let isH := fun (f : Firing) => f.stage == .handed && f.par.slot == slot.toNat
    let put := fun (o : Option FireOut) => updCore c fun k => { k with firings := updFirst isR (fun x => { x with stage := .handed, out := o }) k.firings }
    let gone := fun (l : List Firing) =>
      if f.out.isSome then updFirst isH (fun x => { x with stage := .released, arr := none }) l else l.eraseP isH
    let at_ := latchDue c (moveTo (f.t0 + handOffset f r) s)
    let drain := fun (u : State) =>
      let v := deliverWaiting c (core u c).firings.length u
      accDrain c (unitLoad v c .acc) v
    f.rcp = some r →
    ((core s c).firings.find? isR = some f → before s c (f.t0 + handOffset f r) = true →
      (∀ n, f.arr = some n → f.dead = false → f.refused = false → f.zero = false → exec (.firingHandoff c slot) s = .next
        (let a := handArray c n f r at_
         drain (capture c n f r a.1 (put (some a.1) a.2)))) ∧
      (∀ n, f.arr = some n → f.dead = true → f.refused = false → f.zero = false → exec (.firingHandoff c slot) s = .next
        (put none (handArray c n f r at_).2)) ∧
      (f.dead = false → f.refused = true ∨ f.zero = true ∨ f.arr = none → exec (.firingHandoff c slot) s = .next (drain (put (some zeroOut) at_))) ∧
      (f.dead = true → f.refused = true ∨ f.zero = true ∨ f.arr = none → exec (.firingHandoff c slot) s = .next (put none at_))) ∧
    ((core s c).firings.find? isH = some f → before s c (f.t0 + endOffset f r) = true → exec (.firingRelease c slot) s =
      .next (updCore c (fun k => { k with firings := gone k.firings }) (moveTo (f.t0 + endOffset f r) s))) ∧
    (∀ n, (core s c).firings = [f] → isR f = true → f.latched = false → f.arr = some n → f.refused = false → f.zero = true → f.dead = true →
      f.slow = false → f.t0 + handOffset f r < 2 ^ 64 → before s c (f.t0 + handOffset f r) = true → ∃ t, exec (.firingHandoff c slot) s = .next t ∧
      get t (F.ARR_FIRE_CNT c n) = min (get s (F.ARR_FIRE_CNT c n) + 1) (2 ^ 64 - 1) % 2 ^ (F.ARR_FIRE_CNT c n).width ∧
      get t (F.ARR_ZERO_CNT c n) = min (get s (F.ARR_ZERO_CNT c n) + 1) (2 ^ 64 - 1) % 2 ^ (F.ARR_ZERO_CNT c n).width))

/-- R85 to R87, Table 2.14: an array command to a core that is IDLE acts at once on an array in the state it needs; while the core runs it waits for the
boundary and the array's state stays. R93: a write of trims goes to the shadows of the four converters that the agent's TRIM_GROUP selects; active
trims stay. R112, R114: golden lines arrive for the computing or the waiting entry, or end it POISONED; a complete waiting entry starts, and a
complete computing entry's proof ends: it is counted and shown in PROOF_LAST. A line outside the core's regions comes back POISONED. -/
def Obligations.ArraysAndProofsAct : Prop :=
  (∀ (c : CoreIx) (n : ArrIx) (slot : BitVec 12) (fmt : Bool) (s : State),
    let fs := [F.ARR_CTL_SLOT c n, F.ARR_CTL_FMT c n, F.ARR_STAT_STATE c n]
    let done := fun (k : Instr) (st : Nat) => ∃ t, exec k s = .next t ∧ get t (F.ARR_STAT_STATE c n) = st ∧ t.act = s.act ∧ coreFrame c fs s t
    let waits := fun (k : Instr) (cmd : Nat) => ∃ t, exec k s = .next t ∧ arrState t c n = arrState s c n ∧
      (core t c).arrCmds = (core s c).arrCmds ++ [(n.val, cmd)] ∧ t.act = s.act ∧ coreFrame c fs s t
    (coreState s c = 2 → (arrState s c n = 3 → done (.verified c n slot fmt) 4) ∧ (arrState s c n ≠ 0 → done (.retire c n slot fmt) 5) ∧
      (arrState s c n = 3 → done (.arrEmpty c n slot fmt) 1) ∧
      (∃ t, exec (.clearSuspect c n slot fmt) s = .next t ∧ get t (F.ARR_STAT_SUSPECT c n) = 0 ∧ t.act = s.act ∧
        coreFrame c (F.ARR_STAT_SUSPECT c n :: fs) s t ∧ arrState t c n = arrState s c n)) ∧
    (coreState s c = 3 → waits (.verified c n slot fmt) 1 ∧ waits (.retire c n slot fmt) 2 ∧ waits (.arrEmpty c n slot fmt) 3 ∧
      waits (.clearSuspect c n slot fmt) 4)) ∧
  (∀ (a : Agent) (c : CoreIx) (n : ArrIx) (gain : Bool) (v : Word) (s : State), coreUp s c = true →
    let g := trimGroup s a c n
    let fld := fun k => if gain then trimGain c n k else trimOfs c n k
    g ≤ 8 → ∃ t, exec (.arrTrimWrite a c n gain v) s = .next t ∧
      (∀ i, i < 4 → get t (fld (4 * g + i)) = bits v.toNat (8 * i) (if gain then 5 else 6)) ∧ t.act = s.act ∧ t.mem = s.mem ∧
      t.cores = s.cores ∧ sameRegsBut ((List.range 4).map fun i => fld (4 * g + i)) s t) ∧
  (∀ (c : CoreIx) (i : BitVec 8) (s : State) (e : ProofEntry),
    let l := goldAddr s c e.slot / 512 + i.toNat
    let d := readLine c l true s
    let lines := fun (second : Bool) (put : Option ProofEntry → CoreSt → CoreSt) =>
      (e.regionOk = true → d.1.2.2 = false → exec (.proofGoldLine c second i) s = .next (updCore c (put (some (takeLine e i.toNat d.1.2.1))) d.2)) ∧
      (e.regionOk = true → d.1.2.2 = true → exec (.proofGoldLine c second i) s = .next (updCore c (put none) (proofPoison c l e d.2))) ∧
      (e.regionOk = false → ∃ t, exec (.proofGoldLine c second i) s = .next (updCore c (put none) (proofPoison c l e t)) ∧
        get t (F.RTR_REGION_REJ_CNT c) = get (regionRej c s) (F.RTR_REGION_REJ_CNT c) ∧ t.mem = s.mem)
    ((core s c).computing = some e → lines false fun x k => { k with computing := x }) ∧
    ((core s c).waiting = some e → lines true fun x k => { k with waiting := x }) ∧
    ((core s c).computing = none → (core s c).waiting = some e → goldFull e = true → exec (.proofStart c) s =
      .next (updCore c (fun k => { k with computing := some e, waiting := none }) s)) ∧
    ((core s c).computing = some e → goldFull e = true → e.arr < 2624 → e.ri < 256 → ∃ t, exec (.proofComplete c) s = .next t ∧ (core t c).computing = none ∧
      get t (F.PROOF_LAST_SLOT c) = e.slot % 2 ^ 12 ∧ get t (F.PROOF_LAST_ARRAY c) = e.arr % 2 ^ 12 ∧
      get t (F.PROOF_LAST_TIME_TIME c) = e.time % 2 ^ 64 ∧
      get t (F.PROOF_LAST_MISS c) = (if (judge s c e (proofErrors e)).2.2 then 1 else 0) ∧
      get t (F.PROOF_RUN_CNT c) = min (get s (F.PROOF_RUN_CNT c) + 1) (2 ^ 64 - 1) % 2 ^ 64 ∧ t.mem = s.mem ∧ t.mesh = s.mesh))

/-! ### Recipes, calibration and the steep engine -/

/-- R118, R108: the end of a flag window publishes its number and, for each layer, whether a masked flag was set in it, and starts a new one; a write of
LEAVEN_CTL sets MASK, and WIN_LOG2 when it is 8 to 15, which restarts the window bookkeeping when it changes; while the core runs such a write is
ignored, and counted when it would have changed something. A write of CLR clears the largest σ of its entry. R126, R132 to R134, R138, R140: a
calibration command ends with OK and is counted, also one whose array has no cells to measure; a pass starts when INTERP becomes 1, or when the last
one has left a trigger, with the temperature of the present sample, and ends with every trim written; the periods of the monitor end at the boundaries
of their length; a word of the store window is written while no tick program runs. -/
def Obligations.LeavenAndCalibrationEngineRun : Prop :=
  (∀ (c : CoreIx) (v : Word) (n : BitVec 8) (w : Nat) (s : State),
    let fresh := updCore c fun k => { k with winFlags := [] }
    let mask := get s (F.LEAVEN_CTL_WIN_MASK c)
    let shown := fun i => (List.range 32).foldl (fun m b => if SMap.get 0 (core s c).winFlags (32 * i + b) &&& mask != 0 then m + 2 ^ b else m) 0
    let m := bits v.toNat 4 4
    let g := bits v.toNat 0 4
    let wl := if 8 ≤ g then g else get s (F.LEAVEN_CTL_WIN_LOG2 c)
    let maps := (List.range 8).map fun i => F.LEAVEN_WINMAP_MAP c i
    (windowEnd s c = some w → coreUp s c = true → get s (F.LEAVEN_WIN_NUM_NUM c) ≠ w →
      exec (.leavenWindowEnd c) s =
        .next (fresh (set (F.LEAVEN_WIN_NUM_NUM c) w (upTo 8 (fun i s => set (F.LEAVEN_WINMAP_MAP c i) (shown i) s) s))) ∧
      ∃ t, exec (.leavenWindowEnd c) s = .next t ∧ get t (F.LEAVEN_WIN_NUM_NUM c) = w % 2 ^ (F.LEAVEN_WIN_NUM_NUM c).width ∧
        (∀ i, i < 8 → get t (F.LEAVEN_WINMAP_MAP c i) = shown i % 2 ^ 32) ∧ (core t c).winFlags = [] ∧
        coreFrame c (F.LEAVEN_WIN_NUM_NUM c :: maps) s t) ∧
    (coreUp s c = true → coreRuns s c = false → ∃ t, exec (.leavenCtlWrite c v) s = .next t ∧ get t (F.LEAVEN_CTL_WIN_MASK c) = m ∧
      get t (F.LEAVEN_CTL_WIN_LOG2 c) = wl % 2 ^ (F.LEAVEN_CTL_WIN_LOG2 c).width ∧
      (wl = get s (F.LEAVEN_CTL_WIN_LOG2 c) → t = set (F.LEAVEN_CTL_WIN_MASK c) m s) ∧
      (wl ≠ get s (F.LEAVEN_CTL_WIN_LOG2 c) → (core t c).winFlags = [] ∧ get t (F.LEAVEN_WIN_NUM_NUM c) = 2 ^ 64 - 1 ∧
        ∀ i, i < 8 → get t (F.LEAVEN_WINMAP_MAP c i) = 0) ∧
      coreFrame c (F.LEAVEN_CTL_WIN_MASK c :: F.LEAVEN_CTL_WIN_LOG2 c :: F.LEAVEN_WIN_NUM_NUM c :: maps) s t) ∧
    (coreUp s c = true → coreRuns s c = true → exec (.leavenCtlWrite c v) s = .next
      (if g = get s (F.LEAVEN_CTL_WIN_LOG2 c) ∧ m = mask then s
       else raise { src := 0x10, dom := c, access := 1, addr := coreBase c + 0x90000 } (bump (F.LEAVEN_LOCKED_WR c) s))) ∧
    (coreUp s c = true → exec (.fmaxClear c n) s = .next (set (F.LEAVEN_FMAX_SMAX c n.toNat) 0 s)) ∧
    (coreUp s c = false → exec (.leavenCtlWrite c v) s = .next (bump F.GLB_DENIED_CNT s) ∧
      exec (.fmaxClear c n) s = .next (bump F.GLB_DENIED_CNT s))) ∧
  (∀ (a : Agent) (c : CoreIx) (w : BitVec 13) (v : Word) (s : State),
    let at_ := calPage s a c * 0x8000 + 4 * w.toNat
    let len := 2 ^ get s (F.CAL_CTL_DMON_LOG2 c)
    let k := get s F.TB_TICK_NUM_K
    (∀ x, (core s c).calCmd = some x → exec (.calCmdDone c) s = .next (when (x.arr.isNone && x.target) (afterFull c)
        (updCore c (fun q => { q with calCmd := none }) (setB (F.CAL_STATUS_CMD_BUSY c) false (runCal c x (catchUp c s))))) ∧
      (∃ t, exec (.calCmdDone c) s = .next t ∧ (core t c).calCmd = none ∧ get t (F.CAL_STATUS_CMD_BUSY c) = 0 ∧
        get t (F.CAL_STATUS_RESULT c) = 0 ∧ t.mem.stk = s.mem.stk) ∧
      (∀ n, x.arr = some n → arrState s c n = 0 ∨ arrState s c n = 2 → (core s c).calPass = none → ∃ t, exec (.calCmdDone c) s = .next t ∧
        get t (F.CAL_FULL_CNT c) = min (get s (F.CAL_FULL_CNT c) + 1) (2 ^ 64 - 1) % 2 ^ 64 ∧ t.mem = s.mem ∧
        coreFrame c [F.CAL_STATUS_RESULT c, F.CAL_STATUS_CMD_BUSY c, F.CAL_FULL_CNT c] s t)) ∧
    (coreUp s c = true → flag s (F.CAL_CTL_INTERP c) = false →
      exec (.calInterpEnable c) s = .next (trigger c (setB (F.CAL_CTL_INTERP c) true s)) ∧
      ((core s c).calPass = none → ∃ t, exec (.calInterpEnable c) s = .next t ∧ get t (F.CAL_CTL_INTERP c) = 1 ∧
        get t (F.CAL_STATUS_PASS_BUSY c) = 1 ∧ (core t c).calPass = some { temp := passTemp s c, t0 := now s, next := 0, slow := slowHalf s c } ∧
        coreFrame c [F.CAL_CTL_INTERP c, F.CAL_STATUS_PASS_BUSY c] s t)) ∧
    (coreUp s c = true → flag s (F.CAL_CTL_INTERP c) = true → exec (.calInterpEnable c) s = .next s) ∧
    ((core s c).calTrig = true → (core s c).calPass = none → flag s (F.CAL_CTL_INTERP c) = true → exec (.calPassStart c) s = .next (startPass c s) ∧
      ∃ t, exec (.calPassStart c) s = .next t ∧ (core t c).calPass = some { temp := passTemp s c, t0 := now s, next := 0, slow := slowHalf s c } ∧
      (core t c).calTrig = false ∧ get t (F.CAL_STATUS_PASS_BUSY c) = 1 ∧ coreFrame c [F.CAL_STATUS_PASS_BUSY c] s t) ∧
    (∀ x, (core s c).calPass = some x →
      let e := x.reach ((List.range 2624).filter fun n => arrState s c n != 0).length
      exec (.calPassEnd c) s = .next (updCore c (fun k => { k with calPass := none }) (setB (F.CAL_STATUS_PASS_BUSY c) false
        (bump (F.CAL_PASS_CNT c) (set (F.CAL_TEMP_T_APPLIED c) x.temp (passTo e c (moveTo e s)))))) ∧
      ∃ t, exec (.calPassEnd c) s = .next t ∧ (core t c).calPass = none ∧ get t (F.CAL_TEMP_T_APPLIED c) = x.temp % 2 ^ 16 ∧
        get t (F.CAL_STATUS_PASS_BUSY c) = 0 ∧ t.mem = s.mem) ∧
    (coreUp s c = true → flag s F.TB_STAT_TICK_ON = true → k % len = 0 → k ≠ 0 →
      exec (.calMonitorPeriodEnd c) s = .next (periodEnd c (k / len - 1) s) ∧
      (actB s (F.CAL_CTL_TRACK_EN c) = false → actB s (F.CAL_CTL_DMON_EN c) = false → exec (.calMonitorPeriodEnd c) s = .next (trigger c s))) ∧
    (coreUp s c = true → calRunning s c = false → at_ < 0xA4000 → exec (.calStoreWrite a c w v) s = .next { s with mem := { s.mem with
      cal := wrBytes s.mem.cal (c.val * 2 ^ 20 + at_) (natLe 4 v.toNat) } }) ∧
    (coreUp s c = true → calRunning s c = true → exec (.calStoreWrite a c w v) s = .next (calLocked c s)) ∧
    (coreUp s c = false → exec (.calStoreWrite a c w v) s = .next (bump F.GLB_DENIED_CNT s) ∧
      exec (.calInterpEnable c) s = .next (bump F.GLB_DENIED_CNT s)))

/-- R126 to R128: a calibration command to a core that is up, and for FULL does not run, is accepted or acts at once when no command is in progress;
TARGET = 1 asks for a temperature near that of the set, else TEMP_WINDOW (31h). One that finds a command in progress ends with BUSY (02h) and leaves
it in progress. -/
def Obligations.CalibrationCommandsAnswer : Prop :=
  ∀ (c : CoreIx) (set_ : Fin 4) (n : ArrIx) (m : BitVec 12) (all target : Bool) (l : List Nat) (s : State),
    let fs := [F.CAL_STATUS_CMD_BUSY c, F.CAL_STATUS_RESULT c]
    let near := (target && tempFar s c set_) = false
    coreUp s c = true →
    ((core s c).calCmd = none →
      (coreRuns s c = false → near → ∃ t, exec (.calFull c set_ target) s = .next t ∧
        (core t c).calCmd = some { op := 1, set := set_.val, target := target, arr := none } ∧
        get t (F.CAL_STATUS_CMD_BUSY c) = 1 ∧ coreFrame c fs s t) ∧
      (coreRuns s c = false → ¬near → exec (.calFull c set_ target) s = .next (set (F.CAL_STATUS_RESULT c) 0x31 s)) ∧
      (actv s (F.ARR_CTL_SLOT c n) = 0xFFF → arrState s c n ≠ 0 → arrState s c n ≠ 2 → near → ∃ t,
        exec (.calArray c (BitVec.ofNat 12 n.val) set_ target) s = .next t ∧
        (core t c).calCmd = some { op := 2, set := set_.val, target := target, arr := some n.val } ∧
        get t (F.CAL_STATUS_CMD_BUSY c) = 1 ∧ coreFrame c fs s t) ∧
      exec (.interpNow c) s = .next (trigger c (set (F.CAL_STATUS_RESULT c) 0 s)) ∧
      (clearRange m.toNat all = some l → exec (.clearCorr c m all) s =
        .next (set (F.CAL_STATUS_RESULT c) 0 (each l (fun k => clearCorr c k) (catchUp c s)))) ∧
      (clearRange m.toNat all = some l → exec (.clearStats c m all) s = .next (set (F.CAL_STATUS_RESULT c) 0
        (each (l.filter fun k => (core s c).sums.any fun p => p.1 == k) (fun k => updSums c k clearStats) s)))) ∧
    ((core s c).calCmd.isSome = true →
      (coreRuns s c = false → exec (.calFull c set_ target) s = .next (set (F.CAL_STATUS_RESULT c) 2 s)) ∧
      exec (.calArray c m set_ target) s = .next (set (F.CAL_STATUS_RESULT c) 2 s) ∧
      exec (.interpNow c) s = .next (set (F.CAL_STATUS_RESULT c) 2 s) ∧
      exec (.clearCorr c m all) s = .next (set (F.CAL_STATUS_RESULT c) 2 s) ∧
      exec (.clearStats c m all) s = .next (set (F.CAL_STATUS_RESULT c) 2 s))

/-- R146: GO with a count of 1 to 64 takes a free place, the running one first; a count of 0 or above 64 ends with INVALID_ARG (03h), both places taken
with BUSY (02h), and a core that is not up with CORE_RESET (12h). The lists' addresses are latched. R146 to R151: the batch in the running place
starts; when a batch of the operation ends, the pending one moves up, DONE_SEQ counts and the management core is interrupted. -/
def Obligations.SteepBatchesRun : Prop :=
  (∀ (c : CoreIx) (n : BitVec 7) (s : State),
    (coreUp s c = false → exec (.steepGo c n) s = .next (set (F.CORE_CTL_STEEP_STAT_LAST c) 0x12 s)) ∧ (coreUp s c = true →
    let fs := [F.CORE_CTL_STEEP_STAT_LAST c, F.CORE_CTL_STEEP_STAT_RUN_BUSY c, F.CORE_CTL_STEEP_STAT_PEND_BUSY c]
    let b : Batch := { count := n.toNat, list := 32 * get s (F.CORE_CTL_STEEP_LIST_ADDR c), res := 64 * get s (F.CORE_CTL_STEEP_RES_ADDR c)
                       jid := s.fw.batchNo, started := false, entries := [], startTick := 0 }
    (n.toNat = 0 ∨ 64 < n.toNat → exec (.steepGo c n) s = .next (set (F.CORE_CTL_STEEP_STAT_LAST c) 3 s)) ∧
    (0 < n.toNat → n.toNat ≤ 64 →
      ((core s c).running = none → ∃ t, exec (.steepGo c n) s = .next t ∧ (core t c).running = some b ∧
        (core t c).pend = (core s c).pend ∧ get t (F.CORE_CTL_STEEP_STAT_LAST c) = 0 ∧ get t (F.CORE_CTL_STEEP_STAT_RUN_BUSY c) = 1 ∧
        coreFrame c fs s t) ∧
      ((core s c).running.isSome = true → (core s c).pend = none → ∃ t, exec (.steepGo c n) s = .next t ∧ (core t c).pend = some b ∧
        (core t c).running = (core s c).running ∧ get t (F.CORE_CTL_STEEP_STAT_LAST c) = 0 ∧
        get t (F.CORE_CTL_STEEP_STAT_PEND_BUSY c) = 1 ∧ coreFrame c fs s t) ∧
      ((core s c).running.isSome = true → (core s c).pend.isSome = true →
        exec (.steepGo c n) s = .next (set (F.CORE_CTL_STEEP_STAT_LAST c) 2 s))))) ∧
  (∀ (c : CoreIx) (x : Word64) (s : State) (b : Batch), (core s c).running = some b →
    let ends := fun (k : Instr) => ∃ t, exec k s = .next t ∧ (core t c).running = (core s c).pend ∧ (core t c).pend = none ∧
      get t (F.CORE_CTL_STEEP_STAT_DONE_SEQ c) =
        (get s (F.CORE_CTL_STEEP_STAT_DONE_SEQ c) + 1) % 2 ^ (F.CORE_CTL_STEEP_STAT_DONE_SEQ c).width ∧
      t.out.getLast? = some { dst := .mc, topic := .batchEnd, args := [c.val] } ∧ t.mem.prog = s.mem.prog ∧
      t.mem.spad = s.mem.spad
    (b.started = false → ∃ t b', exec (.batchStart c) s = .next t ∧ (core t c).running = some b' ∧ b'.started = true ∧
      b'.entries.length = b.count ∧ b'.startTick = get s F.TB_TICK_NUM_K ∧ t.mem.prog = s.mem.prog ∧ t.mem.spad = s.mem.spad ∧ t.mem.wts = s.mem.wts) ∧
    (b.started = true →
      (batchOp b = 1 → exec (.steepBatchEnd c x) s = .next (endBatch c { fail := x.toNat, intr := 0 } b s)) ∧
      (batchOp b = 2 → exec (.eraseBatchEnd c x) s = .next (endBatch c { fail := x.toNat, intr := 0 } b s)) ∧
      (batchOp b = 3 → exec (.readbackBatchEnd c x) s = .next (endBatch c { fail := 0, intr := x.toNat } b s)) ∧
      (batchOp b = 1 → ends (.steepBatchEnd c x)) ∧ (batchOp b = 2 → ends (.eraseBatchEnd c x)) ∧
      (batchOp b = 3 → ends (.readbackBatchEnd c x)) ∧
      (batchOp b = 3 → b.startTick + 2 ^ 24 ≤ get s F.TB_TICK_NUM_K → ends (.readbackTimeout c))))

/-! ### Core control -/

/-- Table 6.20, R411: power-on and power-off, run and stop, and the fence of an OFF core, of a good core in the state that admits each, while the network
plane is not held in reset. Table 6.20: a command the state of the core does not allow, and every command to a core the fuses do not list as good, is
counted in CORE_CTL_CMD_REJ_CNT and does nothing else; while the network plane is held in reset every one is denied (R43). R364: a core that is up and
whose digest matches takes the microcode; one that is OFF, in RESET or FENCED takes nothing. -/
def Obligations.CoreCommandsActWhereAdmitted : Prop :=
  (∀ (c : CoreIx) (s : State), coreGood s c = true → netHeld s = false →
    (coreState s c = 0 → (core s c).rampAt = none → exec (.corePowerOn c) s = .next
      (updCore c (fun k => { k with rampAt := some (max (now s) s.rampNext), ramping := false })
        { s with rampNext := max (now s) s.rampNext + 100000 })) ∧
    (coreState s c = 2 ∨ coreState s c = 4 → ∃ t, exec (.corePowerOff c) s = .next t ∧ coreState t c = 0 ∧
      t.mem.stk = s.mem.stk ∧ t.mem.spad = s.mem.spad ∧ t.mesh = s.mesh ∧ ∀ d, d ≠ c → core t d = core s d) ∧
    (coreState s c = 2 → flag s (F.CORE_CTL_STATE_MCODE_OK c) = true →
      flag s (F.SEQ_BANK_DESC_VALID c (actv s (F.SEQ_CTL_BANK c))) = true →
      exec (.run c) s = .next (setB (F.CORE_CTL_STATE_RUN_PEND c) true s)) ∧
    (coreState s c = 0 → ∃ t, exec (.fence c) s = .next t ∧ coreState t c = 4 ∧ (core t c).rampAt = none ∧ t.mem = s.mem ∧ t.mesh = s.mesh ∧
      ∀ d, d ≠ c → core t d = core s d) ∧
    (coreState s c = 3 → exec (.stop c) s = .next (setB (F.CORE_CTL_STATE_STOP_PEND c) true s))) ∧
  (∀ (c : CoreIx) (s : State),
    let rej : Host.Outcome State Fault Refusal := .next (bump (F.CORE_CTL_CMD_REJ_CNT c) s)
    let denied : Host.Outcome State Fault Refusal := .next (bump F.GLB_DENIED_CNT s)
    (netHeld s = true → exec (.corePowerOn c) s = denied ∧ exec (.corePowerOff c) s = denied ∧ exec (.coreCmdReset c) s = denied ∧
      exec (.fence c) s = denied ∧ exec (.run c) s = denied ∧ exec (.stop c) s = denied) ∧
    (netHeld s = false →
    (coreGood s c = false ∨ coreState s c ≠ 0 ∨ (core s c).rampAt.isSome = true → exec (.corePowerOn c) s = rej) ∧
    (coreGood s c = false ∨ (coreState s c ≠ 2 ∧ coreState s c ≠ 4) → exec (.corePowerOff c) s = rej) ∧
    (coreGood s c = false ∨ (coreState s c ≠ 2 ∧ coreState s c ≠ 3 ∧ coreState s c ≠ 4) → exec (.coreCmdReset c) s = rej) ∧
    (coreGood s c = false ∨ (coreState s c ≠ 0 ∧ coreState s c ≠ 2 ∧ coreState s c ≠ 3) → exec (.fence c) s = rej) ∧
    (coreGood s c = false ∨ coreState s c ≠ 2 ∨ flag s (F.CORE_CTL_STATE_MCODE_OK c) = false ∨
      flag s (F.SEQ_BANK_DESC_VALID c (actv s (F.SEQ_CTL_BANK c))) = false → exec (.run c) s = rej) ∧
    (coreGood s c = false ∨ coreState s c ≠ 3 → exec (.stop c) s = rej))) ∧
  (∀ (c : CoreIx) (v : Word) (s : State),
    (coreUp s c = true → exec (.microcodeMulticast c v true) s =
      .next (set (F.SEQ_MCODE_VERSION c) v.toNat (setB (F.CORE_CTL_STATE_MCODE_OK c) true s))) ∧
    (coreUp s c = false → exec (.microcodeMulticast c v true) s = .next s) ∧ exec (.microcodeMulticast c v false) s = .next s)

/-- R373 to R375, R411: a reset counts, holds the core in RESET until its requests have drained or the drain times out, then resets the compute domain and
wipes the scratchpad; the core is then IDLE. FENCE holds it in reset. Power ramps end in RESET with a wiped scratchpad. -/
def Obligations.CoreResetsRun : Prop :=
  ∀ (c : CoreIx) (s : State) (x : Nat),
    (netHeld s = false → coreGood s c = true → coreState s c = 2 ∨ coreState s c = 3 ∨ coreState s c = 4 → ∃ t, exec (.coreCmdReset c) s = .next t ∧
      coreState t c = 1 ∧ (core t c).draining = true ∧
      get t F.LC_CORE_RST_CNT = min (get s F.LC_CORE_RST_CNT + 1) (2 ^ 64 - 1) % 2 ^ 64 ∧
      get t (F.CORE_CTL_STATE_MCODE_OK c) = 0 ∧ t.mem.stk = s.mem.stk ∧ t.mem.spad = s.mem.spad ∧ ∀ d, d ≠ c → core t d = core s d) ∧
    ((core s c).draining = true → coreInFlight s c = false → exec (.resetDrainDone (some c)) s = .next (wipeSpad c (resetCompute c s))) ∧
    ((core s c).draining = true → exec (.drainTimeout (some c)) s = .next (wipeSpad c (resetCompute c (bump F.LC_DRAIN_TMO_CNT s)))) ∧
    (coreState s c = 1 → (core s c).draining = false → exec (.coreResetEnd c) s = .next (reretire c (set (F.CORE_CTL_STATE_STATE c) 2 s))) ∧
    (netHeld s = false → coreGood s c = true → coreState s c = 2 ∨ coreState s c = 3 → exec (.fence c) s =
      .next (set (F.CORE_CTL_STATE_STATE c) 4 (resetCompute c s))) ∧
    ((core s c).rampAt = some x → (core s c).ramping = false → exec (.corePowerRampStart c) s =
      .next (updCore c (fun k => { k with ramping := true }) (moveTo x s))) ∧
    ((core s c).rampAt = some x → (core s c).ramping = true → ∃ t, exec (.corePowerRampEnd c) s = .next t ∧ coreState t c = 1 ∧
      (core t c).rampAt = none ∧ (x + 20000 < 2 ^ 64 → x + 20000 ≤ now t) ∧ (∀ r, r < 32768 → rowBytes t c r = zeros 512) ∧ t.mem.stk = s.mem.stk ∧
      ∀ d, d ≠ c → core t d = core s d)

/-- R42, R90, R374, R375: after the drain of a core's reset its arrays are UNVERIFIED unless FUSED, its program memory and scratchpad read zero, its units
hold no work, and its epoch has advanced. The stacks' bytes and the array cells stay. -/
def Obligations.DrainedResetLeavesAWipedCore : Prop :=
  ∀ (c : CoreIx) (s : State), s.mem.wf = true → (core s c).draining = true → coreInFlight s c = false →
    ∃ t, exec (.resetDrainDone (some c)) s = .next t ∧
    (∀ n : ArrIx, arrState t c n = if s.badArr.contains (c.val * 2624 + n.val) then 0 else 3) ∧
    (∀ b i, b < 2 → i < 16384 → progWord t c b i = 0) ∧ (∀ r, r < 32768 → rowBytes t c r = zeros 512 ∧ rowPoison t c r = false) ∧
    (core t c).firings = [] ∧ (core t c).ops = [] ∧ (core t c).running = none ∧ (core t c).draining = false ∧
    (core t c).epoch = ((core s c).epoch + 1) % 16 ∧ t.mem.stk = s.mem.stk ∧ t.mem.wts = s.mem.wts

/-- R41: no reset, fence or power command of a core touches the network plane: mesh, stacks, ports and their registers, nor another core. -/
def Obligations.CoreCommandsLeaveTheNetworkPlane : Prop :=
  ∀ (c : CoreIx) (s : State) (k : Instr),
    k = .corePowerOn c ∨ k = .corePowerOff c ∨ k = .fence c ∨ k = .run c ∨ k = .stop c ∨ k = .corePowerRampStart c ∨
      k = .corePowerRampEnd c ∨ k = .resetDrainDone (some c) ∨ k = .drainTimeout (some c) ∨ k = .coreResetEnd c →
    ∃ t, exec k s = .next t ∧ t.mesh = s.mesh ∧ t.stks = s.stks ∧ t.ports = s.ports ∧ t.mem.stk = s.mem.stk ∧
      t.mem.stkPoison = s.mem.stkPoison ∧ (∀ d, d ≠ c.val → core t d = core s d) ∧
      (∀ f : Fld, 8 * 0x600000 ≤ f.key → f.key < 8 * 0x8C0000 → get t f = get s f ∧ actv t f = actv s f) ∧
      ∀ (f : Fld) (d : CoreIx), 8 * (coreBase d + 0xB0000) ≤ f.key → f.key < 8 * (coreBase d + 0x100000) → get t f = get s f ∧ actv t f = actv s f

/-! ### Mesh and stacks -/

/-- R192, R197, R198, Table 6.12: a window write that no check refuses enters its core's landing rows, where a later write of the same half row replaces
it, and counts in the window and the core; no byte of the scratchpads changes. A refused one stores nothing and is counted and answered. -/
def Obligations.WindowWritesLandOrAreRefused : Prop :=
  ∀ (c : CoreIx) (s : State) (p : Packet) (w : WinWrite) (rest : List Packet),
    let isWrite := fun (p : Packet) => match p.body with | .winWrite _ => true | _ => false
    let late := w.sched && inGuard s c
    takeFirst (fun p => p.arrived && p.pos == c.val && isWrite p) s.mesh = some (p, rest) → p.body = .winWrite w →
    (landCheck s c w = none → w.win < 64 → ∃ t, exec (.windowWriteLanding c) s = .next t ∧ t.mesh = rest ∧
      (core t c).landed = (w.win, w.ofs, w.data, p.poison || late) :: (core s c).landed.filter (fun x => !(x.1 == w.win && x.2.1 == w.ofs)) ∧
      get t (F.SPAD_WIN_COUNT c w.win) = min (get s (F.SPAD_WIN_COUNT c w.win) + 1) 0x1FFFF ∧
      get t (F.CORE_CTL_LAND_CNT c) = min (get s (F.CORE_CTL_LAND_CNT c) + 1) (2 ^ 64 - 1) % 2 ^ 64 ∧ t.mem = s.mem ∧
      sameRegsBut [F.TB_GUARD_LATE_CNT, F.SPAD_WIN_COUNT c w.win, F.CORE_CTL_LAND_CNT c, F.SPAD_WIN_EXCESS_CNT c] s t ∧
      ∀ d, d ≠ c.val → core t d = core s d) ∧
    (∀ st f pf, landCheck s c w = some (st, f, pf) → exec (.windowWriteLanding c) s =
      .next (refuseLanding c p.src st w f pf { s with mesh := rest })) ∧
    (∀ x, landCheck s c w = some x → ∃ t, exec (.windowWriteLanding c) s = .next t ∧ t.mem = s.mem ∧ t.cores = s.cores)

/-- R237 to R239: a router that forwards takes, of the first flits of its inputs in a channel, the oldest that has a credit on every output. Where no flit
goes first at one of its outputs it goes one hop, without an error: to the core, to a crust node or to the next router, where a window write that
crosses the seam counts its 256 bytes (R230). Where none has a credit the first waits and the wait is counted; where another flit goes first it stays.
A router that is not enabled forwards nothing. R197, R279, R242: a NACK that reaches its core is counted, and RTR_CTL.EN starts a present router and
marks its distances valid. Where the network plane is held in reset the write of RTR_CTL is denied and counted (R366). -/
def Obligations.RoutersForward : Prop :=
  (∀ (c : CoreIx) (vc : VChan) (esc : Bool) (s : State) (p : Packet) (o d : Nat),
    let ch := match vc with | .ctl => VC.ctl | .land => .land | .rsp => .rsp | .req => .req | .bulk => .bulk
    let l := inputHeads s c ch esc
    let free := fun (p : Packet) => (heldFlit s c p).isNone
    (flag s (F.RTR_STAT_EN_ACT c) = false → ∀ e, exec (.flitForward c vc esc e) s = .next s) ∧
    (flag s (F.RTR_STAT_EN_ACT c) = true → inSafe s = false → s.flt.inj = none →
    (∀ q f, l.find? free = none → l.head? = some q → heldFlit s c q = some f → exec (.flitForward c vc esc .clean) s = .next (bump f s)) ∧
    (l.find? free = some p → yields s c p = true → exec (.flitForward c vc esc .clean) s = .next s) ∧
    (l.find? free = some p → yields s c p = false → p.dst = [d] → p.op = none → p.esc = false → routeOut s c d = o →
      flag s (F.RTR_ROUTE_ESC c d) = false →
    let s1 := bumpRtr c (F.RTR_FLIT_CNT c) { granted c p s with mesh := s.mesh.erase p }
    let q := { p with dst := [d], via := c.val }
    (∀ r, hopOf s c o = .router r → exec (.flitForward c vc esc .clean) s =
      .next (let s2 := seamCross c r p s1; { s2 with mesh := s2.mesh ++ [{ q with pos := r }] })) ∧
    (∀ n, hopOf s c o = .crust n → (∀ x e, p.body ≠ .cell x e) → exec (.flitForward c vc esc .clean) s =
      .next { s1 with mesh := s1.mesh ++ [{ q with pos := n, arrived := true, grace := bankTakes s1 n p.body }] }) ∧
    (hopOf s c o = .core → exec (.flitForward c vc esc .clean) s =
      .next (bumpRtr c (F.RTR_EJ_CNT c) { s1 with mesh := s1.mesh ++ [{ q with pos := c.val, arrived := true }] }))))) ∧
  (∀ (c : CoreIx) (s : State) (p : Packet) (rest : List Packet),
    let isNack := fun (p : Packet) => match p.body with | .nack _ => true | _ => false
    (takeFirst (fun p => p.arrived && p.pos == c.val && isNack p) s.mesh = some (p, rest) → exec (.nackReceived c) s =
      .next (bump (F.CORE_CTL_NACK_RX_CNT c) { s with mesh := rest })) ∧
    (netHeld s = true → exec (.meshEnable c) s = .next (bump F.GLB_DENIED_CNT s)) ∧
    (netHeld s = false → routerPresent s c = true → flag s (F.RTR_CTL_EN c) = false → ∃ t, exec (.meshEnable c) s = .next t ∧ flag t (F.RTR_CTL_EN c) = true ∧
      flag t (F.RTR_STAT_EN_ACT c) = true ∧ flag t (F.RTR_STAT_DIST_VALID c) = true ∧ t.mem = s.mem ∧ t.cores = s.cores ∧
      t.mesh = s.mesh ∧ t.act = s.act) ∧
    (netHeld s = false → routerPresent s c = false → exec (.meshEnable c) s = .next s))

/-- R243 to R248: a controller that is READY performs the next write of a channel and answers it. On a bank that serves it the bytes are stored, no other
byte of the stacks changes, and the line's mark follows the write. -/
def Obligations.StackWriteStoresItsBytes : Prop :=
  ∀ (n : StackIx) (ch : Fin 32) (e : Ecc) (k : Fin 16) (s : State) (p : Packet) (l ofs : Nat) (data : List Byte) (rq : Requester),
    stkReady s n = true → nextReq s n ch true = some p → p.body = .writeReq l ofs data rq →
    (∃ a, a = doWrite n l ofs p.src k (bankServes s n (lineBank l) p.grace) p.poison e data (tookTurn n ch true p.src (dropPacket p s)) ∧
      exec (.stackWrite n ch e k) s = .next (replyWrite n l rq a.1 a.2)) ∧
    (l < lineCount → inSafe s = false → bankServes s n (lineBank l) p.grace = true → partial32 ofs data.length = false → ∃ t,
      exec (.stackWrite n ch e k) s = .next t ∧ rdBytes t.mem.stk (l * 512 + ofs) data.length = data ∧
      (∀ a, a < l * 512 + ofs ∨ l * 512 + ofs + data.length ≤ a → rdByte t.mem.stk a = rdByte s.mem.stk a) ∧
      (p.poison = true → linePoison t l = true) ∧ (p.poison = false → data.length = 512 → linePoison t l = false) ∧
      (∀ m, m ≠ l → linePoison t m = linePoison s m) ∧
      get t (F.STK_WR_CNT n) = min (get s (F.STK_WR_CNT n) + 1) (2 ^ 64 - 1) % 2 ^ 64 ∧ t.mem.spad = s.mem.spad ∧ t.cores = s.cores)

/-- R243, R247, R248, R250: a controller that is READY serves the next read of a channel, whatever error it finds. A read that may not merge, without an
error, is answered with the line's bytes and mark; one that finds an open entry of its line joins it. R250, R241, R249: the oldest entry of a channel
closes and its data leaves for every requester, an answer that waits at a node reaches its requesters there (after which the units of a core go on
with what waited for it, R177), and the patrol scrub moves on by one line. R253 to R256: a bank that no region or window holds and that is ON drains;
at the drain's end it is OFF and its bytes are lost; a bank that is OFF wakes, cleared, to ON. The bytes of every other bank stay. A command that the
controller does not take is counted (Table 8.9); where the stacks are held in reset it is denied and counted (R366). -/
def Obligations.StackAndBankCommandsAct : Prop :=
  (∀ (n : StackIx) (ch : Fin 32) (e : Ecc) (k : Fin 16) (s : State) (p : Packet) (l : Nat) (full : Bool) (rq : Requester),
    stkReady s n = true → nextReq s n ch false = some p → p.body = .readReq l rq full →
    let s1 := tookTurn n ch false p.src (dropPacket p s)
    exec (.stackRead n ch e k) s = .next (serveRead n l p.src k full p.grace e rq s1) ∧
    (l < lineCount → s.flt.inj = none → bankServes s n (lineBank l) p.grace = true →
      actB s (F.STK_CTL_MERGE_EN n) = false ∨ full = false → exec (.stackRead n ch .clean k) s =
      .next (replyRead n l (lineBytes s l) (linePoison s l) 0 [rq] (when (linePoison s l) (bump (F.STK_POISON_RD_CNT n))
        (bump (F.STK_RD_CNT n) s1)))) ∧
    (∀ m, l < lineCount → bankServes s n (lineBank l) p.grace = true → actB s (F.STK_CTL_MERGE_EN n) = true → full = true →
      mergeOf s n l = some m → ∃ t, exec (.stackRead n ch e k) s = .next t ∧ t.mem = s.mem ∧
      get t (F.STK_MERGE_CNT n) = min (get s (F.STK_MERGE_CNT n) + 1) (2 ^ 64 - 1) % 2 ^ 64 ∧
      sameRegsBut [F.STK_MERGE_CNT n, F.STK_POISON_RD_CNT n] s t ∧ t.mesh = s.mesh.erase p)) ∧
  (∀ (n : StackIx) (ch : Fin 32) (node : Fin 37) (k : Fin 16) (s : State),
    (∀ m, (stk s n).merges.find? (fun m => lineChannel m.line == ch.val) = some m → exec (.mergeWindowClose n ch) s =
      .next (closeMerge n m s)) ∧
    (∀ p rest l data rqs st, takeFirst (fun p => p.arrived && p.pos == node.val && isReply p) s.mesh = some (p, rest) →
      p.body = .readData l data rqs st → exec (.stackReply node) s =
      .next (unitsGoOn node (each (rqs.filter fun q => rqNode q == node.val) (giveLine st data p.poison) { s with mesh := rest }))) ∧
    (∀ p rest l rq st, takeFirst (fun p => p.arrived && p.pos == node.val && isReply p) s.mesh = some (p, rest) →
      p.body = .writeAck l rq st → exec (.stackReply node) s = .next (unitsGoOn node (giveAck l st rq { s with mesh := rest }))) ∧
    (stkReady s n = true → actB s (F.STK_CTL_SCRUB_EN n) = true →
      let l := 3 * (stk s n).scrub + n.val
      let s0 := updStk n (fun t => { t with scrub := (t.scrub + 1) % stackLines }) s
      let s1 := bump (F.STK_SCRUB_LINE_CNT n) s0
      (bankOn s n (lineBank l) = false → ∀ e, exec (.scrubRead n e k) s = .next s0) ∧
      (bankOn s n (lineBank l) = true → exec (.scrubRead n .clean k) s = .next s1 ∧
        exec (.scrubRead n .corrected k) s = .next (bumpN (F.STK_CORR_CNT n) (k.val + 1) s1) ∧
        (linePoison s l = true → exec (.scrubRead n .uncorrectable k) s = .next s1) ∧
        (linePoison s l = false → exec (.scrubRead n .uncorrectable k) s =
          .next (raise { src := 0x1A, dom := lineDom l, access := 6, addr := l, detail := k } (markUncorr n l 1 0 s1)))))) ∧
  (∀ (n : StackIx) (b : Fin 64) (s : State),
    let lost := fun (a : Nat) => lineStack (a / 512) = n.val ∧ lineBank (a / 512) = b.val
    (netHeld s = true → exec (.bankDown n b) s = .next (bump F.GLB_DENIED_CNT s) ∧ exec (.bankUp n b) s = .next (bump F.GLB_DENIED_CNT s)) ∧
    (netHeld s = false → bankHeld s b = true → exec (.bankDown n b) s = .next (emit .net .report [0x255, 0x02, n, b] s)) ∧
    (netHeld s = false → bankHeld s b = false → bankOn s n b = false ∨ (stk s n).bank ≠ none → exec (.bankDown n b) s = .next (bump (F.STK_CMD_REJ_CNT n) s)) ∧
    (netHeld s = false → bankOn s n b = true ∨ (stk s n).bank ≠ none → exec (.bankUp n b) s = .next (bump (F.STK_CMD_REJ_CNT n) s)) ∧
    (netHeld s = false → bankHeld s b = false → bankOn s n b = true → (stk s n).bank = none → ∃ t, exec (.bankDown n b) s = .next t ∧ bankOn t n b = false ∧
      getBit t (F.STK_BANK_BUSY_BUSY n) b = true ∧ (stk t n).bank = some (b.val, false) ∧ t.mem = s.mem ∧ t.cores = s.cores ∧
      sameRegsBut [F.STK_BANK_ON_ON n, F.STK_BANK_BUSY_BUSY n] s t) ∧
    (netHeld s = false → bankOn s n b = false → (stk s n).bank = none → ∃ t, exec (.bankUp n b) s = .next t ∧ getBit t (F.STK_BANK_BUSY_BUSY n) b = true ∧
      (stk t n).bank = some (b.val, true) ∧ t.mem = s.mem ∧ t.cores = s.cores ∧ sameRegsBut [F.STK_BANK_BUSY_BUSY n] s t) ∧
    ((stk s n).bank = some (b.val, false) → ∃ t, exec (.bankDrainEnd n) s = .next t ∧ getBit t (F.STK_BANK_BUSY_BUSY n) b = false ∧
      (stk t n).bank = none ∧ (∀ a, lost a → rdByte t.mem.stk a = 0) ∧ (∀ a, ¬ lost a → rdByte t.mem.stk a = rdByte s.mem.stk a) ∧
      t.mem.spad = s.mem.spad ∧ t.cores = s.cores) ∧
    ((stk s n).bank = some (b.val, true) → ∃ t, exec (.bankWakeEnd n) s = .next t ∧ getBit t (F.STK_BANK_BUSY_BUSY n) b = false ∧
      bankOn t n b = true ∧ (stk t n).bank = none ∧ (∀ a, lost a → rdByte t.mem.stk a = 0) ∧
      (∀ a, ¬ lost a → rdByte t.mem.stk a = rdByte s.mem.stk a) ∧ t.mem.spad = s.mem.spad ∧ t.cores = s.cores))

/-- R256: the bank that wakes is cleared to zero, with its poison marks, and is then ON. -/
def Obligations.WokenBankHoldsZeros : Prop :=
  ∀ (n : StackIx) (b : Nat) (s : State), (stk s n).bank = some (b, true) → b < 64 → ∃ t, exec (.bankWakeEnd n) s = .next t ∧
    bankOn t n b = true ∧ (∀ a, lineStack (a / 512) = n.val → lineBank (a / 512) = b → rdByte t.mem.stk a = 0) ∧
    (∀ l, lineStack l = n.val → lineBank l = b → linePoison t l = false)

/-! ### Ports -/

/-- Table 9.2, R284, R285, R363, R377: the commands and events that move a port between its states, in the states that allow them, where the network plane
is not held in reset. Table 9.10, R43, R366: a port command that the port's state does not allow is counted in FAB_CFG_REJ_CNT and does nothing else;
where the network plane is held in reset every port command is counted in GLB_DENIED_CNT and does nothing else. R281, R286: firmware takes the oldest
AUTH cell of a port, and judges it in AUTH; the end of an estimate interval of 2^24 codewords shows the error rate. R217, R287, R295 to R305:
discovery ends and floods the ports' states, a flood marks its link, routes are installed 2 ms after the last change, the ring spare hears of a
missing package from both neighbours before it switches in, and the standby root takes over. -/
def Obligations.PortsFollowTheirStatesAndThePlan : Prop :=
  (∀ (p : PortIx) (skew : BitVec 8) (s : State), netHeld s = false →
    let st := pState s p
    let goes := fun (k : Instr) (n : Nat) => ∃ t, exec k s = .next t ∧ pState t p = n ∧ t.mem = s.mem ∧ t.cores = s.cores ∧
      (port t p).ingress = (port s p).ingress ∧ ∀ q : PortIx, q ≠ p → port t q = port s q ∧ pState t q = pState s q
    (st = 0 → exec (.portEnable p) s = .next (setP p 1 (setB (F.FAB_CTL_EN p) true s))) ∧ (st = 0 → goes (.portEnable p) 1) ∧
    (st ≠ 0 → flag s (F.FAB_CTL_EN p) = true → exec (.portEnable p) s = .next s) ∧
    (st = 1 → exec (.portTrainingDone p skew) s = .next (s |> setP p 2 |> setB (F.FAB_STAT_SIGNAL p) true |> setB (F.FAB_STAT_ALIGNED p) true
      |> set (F.FAB_STAT_SKEW p) skew.toNat |> updPort p (fun k => { k with retraining := false })
      |> when (s.fw.stepFour && !(port s p).saved) (setB F.LC_START_FAST false) |> showCredit p |> startAuth p)) ∧
    (st = 1 → goes (.portTrainingDone p skew) 2) ∧
    (st = 1 → flag s (F.FAB_STAT_SIGNAL p) = false → exec (.portMissingTimeout p) s = .next (setP p 5 (dropLink p s))) ∧
    (st = 1 → flag s (F.FAB_STAT_SIGNAL p) = false → goes (.portMissingTimeout p) 5) ∧
    (st = 1 → flag s (F.FAB_STAT_SIGNAL p) = true → exec (.portTrainFailTimeout p) s = .next (setP p 6 (dropLink p s))) ∧
    (st = 1 → flag s (F.FAB_STAT_SIGNAL p) = true → goes (.portTrainFailTimeout p) 6) ∧
    (st = 5 → exec (.portSignalDetect p) s = .next (setP p 1 (setB (F.FAB_STAT_SIGNAL p) true s))) ∧ (st = 5 → goes (.portSignalDetect p) 1) ∧
    (st = 2 → exec (.portAdmit p) s = .next (admitPort p s)) ∧ (st = 2 → goes (.portAdmit p) 3) ∧
    (st = 2 ∨ st = 3 → exec (.portQuarantine p) s = .next (enterQuar p 5 s)) ∧ (st = 2 ∨ st = 3 → goes (.portQuarantine p) 4) ∧
    (st ≠ 0 → exec (.portRetrain p) s = .next (retrainPort p s)) ∧ (st ≠ 0 → goes (.portRetrain p) 1) ∧
    (st ≠ 0 → exec (.portDisable p) s = .next (disablePort p s)) ∧ (st ≠ 0 → goes (.portDisable p) 0) ∧
    (st = 1 ∨ st = 2 → exec (.portMissing p) s = .next (setP p 5 (dropLink p s))) ∧ (st = 1 ∨ st = 2 → goes (.portMissing p) 5) ∧
    ((port s p).retraining = true → exec (.linkDown p) s = .next (Machine.linkDown p s)) ∧ ((port s p).retraining = true → goes (.linkDown p) 6) ∧
    (st = 2 ∨ st = 3 ∨ st = 4 → exec (.partnerSignalLoss p) s = .next (Machine.linkDown p (setB (F.FAB_STAT_SIGNAL p) false s))) ∧
    (st = 2 ∨ st = 3 ∨ st = 4 → goes (.partnerSignalLoss p) 6) ∧
    (st = 2 → exec (.admissionTimeout p) s = .next (authFail p 1 s)) ∧ (st = 2 → goes (.admissionTimeout p) 4) ∧
    exec (.retrainDone p) s = .next (updPort p (fun k => { k with retraining := false }) s) ∧
    ((port s p).winNum = quarWindow s p → exec (.quarWindowEnd p) s = .next s) ∧
    ((port s p).winNum ≠ quarWindow s p → exec (.quarWindowEnd p) s =
      .next (updPort p (fun k => { k with winNum := quarWindow s p, winSrc := 0, winCrd := 0 }) s))) ∧
  (∀ (p : PortIx) (s : State),
    let rej : Host.Outcome State Fault Refusal := .next (bump (F.FAB_CFG_REJ_CNT p) s)
    let denied : Host.Outcome State Fault Refusal := .next (bump F.GLB_DENIED_CNT s)
    (netHeld s = false → (pState s p ≠ 2 → exec (.portAdmit p) s = rej) ∧ (pState s p ≠ 2 → pState s p ≠ 3 → exec (.portQuarantine p) s = rej) ∧
      (pState s p = 0 → exec (.portRetrain p) s = rej) ∧ (pState s p = 0 → exec (.portDisable p) s = rej) ∧
      (pState s p ≠ 1 → pState s p ≠ 2 → exec (.portMissing p) s = rej)) ∧
    (netHeld s = true → exec (.portEnable p) s = denied ∧ exec (.portAdmit p) s = denied ∧ exec (.portQuarantine p) s = denied ∧
      exec (.portRetrain p) s = denied ∧ exec (.portDisable p) s = denied ∧ exec (.portMissing p) s = denied)) ∧
  (∀ (p : PortIx) (m : AuthMsg) (s : State),
    (∀ r rest, takeStored (fun x => isAuth x.2.2) (port s p).ingress = some (r, rest) →
      let s1 := freePlace p r.1 (updPort p (fun k => { k with ingress := rest }) s)
      (pState s p = 2 → exec (.authCell p m) s = .next (authMsg p m s1)) ∧ (pState s p ≠ 2 → exec (.authCell p m) s = .next s1)) ∧
    ((port s p).cwInt < 2 ^ 24 → exec (.fecIntervalEnd p) s = .next s) ∧
    (2 ^ 24 ≤ (port s p).cwInt → ∃ t, exec (.fecIntervalEnd p) s = .next t ∧ get t (F.FAB_PREFEC_VALID p) = 1 ∧ (port t p).cwInt = 0 ∧ (port t p).corrInt = 0 ∧
      ((port s p).corrInt = 0 → get t (F.FAB_PREFEC_MANT p) = 0) ∧ t.mem = s.mem ∧ t.cores = s.cores ∧
      ∀ q : PortIx, q ≠ p → port t q = port s q)) ∧
  (∀ (a m : BitVec 16) (p : PortIx) (st : BitVec 3) (plus : Bool) (pl : Plan) (s : State),
    let k := fun (b : Bool) => m.toNat * 2 + if b then 1 else 0
    (s.fw.plan = some pl → (∀ q : PortIx, pState s q ≠ 1 ∧ pState s q ≠ 2) → ∃ t, exec .discoveryEnd s = .next t ∧ t.fw.routesDue = true ∧
      t.fw.floods = true ∧ t.fw.changedAt = now s ∧ (∀ q : PortIx, NSet.has t.fw.linksBad (ownAddr s * 16 + q.val) = decide (pState s q ≠ 3)) ∧
      t.mem = s.mem ∧ t.cores = s.cores) ∧
    (s.fw.plan = none ∨ (∃ q : PortIx, pState s q = 1 ∨ pState s q = 2) → exec .discoveryEnd s = .next s) ∧
    (∃ t, exec (.portStateFlood a p st) s = .next t ∧ calm s t ∧ sameRegsBut [] s t ∧
      NSet.has t.fw.linksBad (a.toNat * 16 + p.val) = decide (st ≠ 3) ∧ NSet.has t.fw.linksDown (a.toNat * 16 + p.val) = (st == 5 || st == 6) ∧
      (SMap.get 0 s.fw.linkSt (a.toNat * 16 + p.val) ≠ st.toNat + 1 → t.fw.routesDue = true ∧ t.fw.changedAt = now s) ∧
      (SMap.get 0 s.fw.linkSt (a.toNat * 16 + p.val) = st.toNat + 1 → t.fw.routesDue = s.fw.routesDue ∧ t.fw.changedAt = s.fw.changedAt) ∧
      SMap.get 0 t.fw.linkSt (a.toNat * 16 + p.val) = st.toNat + 1) ∧
    (s.fw.routesDue = true → exec .routeInstall s = .next (installRoutes (moveTo (s.fw.changedAt + 2000000) s))) ∧
    (s.fw.routesDue = false → exec .routeInstall s = .next s) ∧
    (ownRole s = 1 → NSet.has s.fw.missing (k (!plus)) = false → exec (.missingReport m plus) s =
      .next (updFw (fun x => { x with missing := NSet.add s.fw.missing (k plus) }) s)) ∧
    (ownRole s = 1 → NSet.has s.fw.missing (k (!plus)) = true → ∃ t, exec (.missingReport m plus) s = .next t ∧
      t.fw.subst = some (s.fw.subst.getD m.toNat) ∧ t.mem = s.mem ∧ t.cores = s.cores) ∧
    (ownRole s ≠ 1 → exec (.missingReport m plus) s = .next s) ∧
    (s.fw.plan = some pl → pl.standby = ownAddr s → sync s = 3 → exec .standbyRootTakeover s =
      .next (fwWrite F.TB_CTL_ROLE 1 (moveTo (s.time.holdSince + 10000000) s))) ∧
    ((∀ pl, s.fw.plan = some pl → pl.standby ≠ ownAddr s) ∨ sync s ≠ 3 → exec .standbyRootTakeover s = .next s))

/-- R266, R270, R275, Table 9.7: the bytes of a block that arrives at a port whose link is up are read and judged. A block with an uncorrectable codeword
or a failing trailer asks for a NAK and stores nothing; one whose payload or header fails asks for a NAK after its trailer is taken, a header error
counted in FAB_DROP_HDR as well; a clean one in order has its cell judged by the checks. R278: the oldest cell of a pool that is not an AUTH cell
leaves ingress storage by checks 10 to 13, and its place is freed; the place of a cell that came before the link went down is no credit (R276). R271,
R275: a port whose link is up sends one block. A cell to send again goes before any other; a full replay buffer sends an idle block and is counted;
else the first class in order whose head may leave sends it, a head that waits for a credit is counted, and with none the block is idle. -/
def Obligations.CellsMoveThroughAPort : Prop :=
  (∀ (p : PortIx) (b : BlockIn) (s : State), linkUp s p = true →
    let r := readBlock b
    exec (.cellReceive p b) s = .next (receive p r s) ∧
    (s.flt.inj = none →
      (r.err = .uncorrectable → exec (.cellReceive p b) s = .next (askNak p (countCw p r.cw true s))) ∧
      (r.err = .tcrc → exec (.cellReceive p b) s = .next (askNak p (bump (F.FAB_CRC_ERR_CNT p) (countCw p r.cw false s)))) ∧
      (r.err = .pcrc → exec (.cellReceive p b) s =
        .next (askNak p (seeSeq p r (takeTrailer p r (bump (F.FAB_CRC_ERR_CNT p) (countCw p r.cw false s)))))) ∧
      (r.err = .hcrc → exec (.cellReceive p b) s =
        .next (askNak p (seeSeq p r (takeTrailer p r (bump (F.FAB_DROP_HDR p) (bump (F.FAB_CRC_ERR_CNT p) (countCw p r.cw false s))))))) ∧
      (r.err = .clean → r.cell = none → exec (.cellReceive p b) s = .next (seeSeq p r (takeTrailer p r (countCw p r.cw false s)))) ∧
      (∀ q rep c, r.err = .clean → r.cell = some (q, rep, c) →
        let s2 := seeSeq p r (takeTrailer p r (countCw p r.cw false s))
        (q ≠ seqNext (port s2 p).rxSeq → exec (.cellReceive p b) s = .next (bump (F.FAB_SEQ_DISCARD_CNT p) s2)) ∧
        (q = seqNext (port s2 p).rxSeq → ∃ t, exec (.cellReceive p b) s = .next t ∧ t.mem = s.mem ∧ t.cores = s.cores ∧
          t = judgeCell p c (rep && (match (port s2 p).nakTop with | some n => seqLe q n | none => false))
            (updPort p (fun k => { k with rxSeq := q }) s2))))) ∧
  (∀ (p : PortIx) (pool : Fin 5) (s : State) (x : Nat × Nat × Cell) (rest : List (Nat × Nat × Cell)),
    takeStored (fun x => x.1 == pool.val && !isAuth x.2.2) (port s p).ingress = some (x, rest) → ∃ t,
      exec (.cellIngressExit p pool) s = .next t ∧
      t = exitCell p x.2.2 (freePlace p pool (updPort p (fun k => { k with ingress := rest }) s)) ∧ (port t p).ingress = rest ∧
      (port t p).freed = (if nth 0 (port s p).stale pool = 0 then addAt (port s p).freed pool.val else (port s p).freed) ∧ t.mem = s.mem ∧ t.cores = s.cores) ∧
  (∀ (p : PortIx) (s : State),
    let s0 := fillBuckets p (sendNack p s)
    let s1 := updPort p (fun k => { k with resend := none }) s0
    let due := match (port s0 p).resend with | some q => (port s0 p).replay.find? (fun (r : Nat × Cell) => seqLe q r.1) | none => none
    let tries := egressOrder.map (mayLeave s1 p)
    let s2 := when (tries.any (fun t => t.2)) (bump (F.FAB_CREDIT_STALL_CYC_CNT p)) s1
    (linkUp s p = false → exec (.egressBlock p) s = .next (sendNack p s)) ∧
    (linkUp s p = true →
      (∀ r, due = some r → exec (.egressBlock p) s =
        .next (sendBlock p (some (r.1, true, r.2)) (updPort p (fun k => { k with resend := some (seqNext r.1) }) s0))) ∧
      (due = none → 204 ≤ (port s0 p).replay.length → exec (.egressBlock p) s =
        .next (sendBlock p none (bump (F.FAB_REPLAY_FULL_CYC_CNT p) s1))) ∧
      (due = none → (port s0 p).replay.length < 204 → (∀ c, tries.findSome? (fun t => t.1) = some c → exec (.egressBlock p) s =
        .next (txCell p c s2)) ∧ (tries.findSome? (fun t => t.1) = none → exec (.egressBlock p) s = .next (sendBlock p none s2)))))

/-- R282 to R285: nothing but AUTH cells enters the ingress storage of a port in AUTH or QUARANTINED, and nothing but TIME and AUTH cells whose SRC lies
outside the port's admitted ranges. -/
def Obligations.IngressAdmitsOnlyItsPartner : Prop :=
  ∀ (p : PortIx) (b : BlockIn) (s t : State), exec (.cellReceive p b) s = .next t → ∀ x, x ∈ (port t p).ingress →
    x ∈ (port s p).ingress ∨ (((pState s p = 2 ∨ pState s p = 4) → isAuth x.2.2 = true) ∧
      (isAuth x.2.2 = false → isTime x.2.2 = false → srcOk s p x.2.2.src = true))

/-! ### Time and ticks -/

/-- R214: one marker interval after its last markers a package in LOCKED or ROOT sends one on every admitted port; a marker in the TIME pool of an
admitted port is taken, noted and answered. R216: 4 marker intervals without a marker from the steering port end in HOLDOVER, counted, unless the
backup, whose delay is valid and whose last marker reported LOCKED or ROOT, may steer in the parent's place. -/
def Obligations.TimeIsKept : Prop :=
  (∀ (p : PortIx) (s : State) (r : Nat × Nat × Cell) (rest : List (Nat × Nat × Cell)),
    let took := freePlace p 5 (updPort p (fun k => { k with ingress := rest }) s)
    let stored := fun kind => takeStored (fun x => x.1 == 5 && x.2.2.kind == kind) (port s p).ingress = some (r, rest)
    (gives (sync s) = true →
      let s1 := moveTo (s.time.markAt + markerInterval s) s
      exec .syncMarkerTimer s = .next (each ((List.range 12).filter fun p => pState s p == 3) (fun p s => enqueue p (marker s p 8 0) s)
        { s1 with time := { s1.time with markAt := now s1 } })) ∧
    (stored 8 → p.val = parent s ∨ p.val = backup s → pState s p = 3 → sync s ≠ 5 → exec (.syncReceived p) s =
      .next (takeSync p r.2.1 r.2.2 (bump F.TB_MARKER_RX_CNT took))) ∧
    (stored 8 → p.val = parent s ∨ p.val = backup s → pState s p = 3 → sync s = 5 → exec (.syncReceived p) s =
      .next (bump F.TB_MARKER_RX_CNT took)) ∧
    (stored 8 → p.val ≠ parent s → p.val ≠ backup s → exec (.syncReceived p) s = .next took) ∧
    (stored 9 → pState s p = 3 → exec (.delayReqReceived p) s = .next (enqueue p (marker took p 0xA r.2.1) took)) ∧
    (∀ t1 t2 t3, stored 0xA → (port s p).sync = some (t1, t2, some t3) → exec (.delayRespReceived p) s =
      .next (sample p t1 t2 t3 (leAt r.2.2.payload 0 8) (updPort p (fun k => { k with sync := none }) took)))) ∧
  (∀ s : State,
    let q := get s F.TB_STAT_PORT
    let b := backup s
    let s1 := moveTo (SMap.get 0 s.time.heard q + 4 * markerInterval s) s
    let other := q = parent s ∧ b ≤ 11 ∧ delayValid s1 b = true ∧ gives (SMap.get 0 s.time.state b) = true
    (sync s = 1 ∨ sync s = 2 → other → exec .parentLossTimeout s = .next (set F.TB_STAT_PORT b s1)) ∧
    (sync s = 1 ∨ sync s = 2 → ¬ other → ∃ t, exec .parentLossTimeout s = .next t ∧ sync t = 3 ∧ t.time.holdSince = now s1 ∧
      get t F.TB_STAT_PORT = 15 ∧ get t F.TB_HOLDOVER_CNT = min (get s F.TB_HOLDOVER_CNT + 1) (2 ^ 64 - 1) % 2 ^ 64 ∧
      t.mem = s.mem ∧ t.cores = s.cores ∧ t.ports = s.ports) ∧
    (sync s ≠ 1 → sync s ≠ 2 → exec .parentLossTimeout s = .next s))

/-! ### The register path -/

/-- R18: an access by an agent without rights, or to an unassigned address, is counted; a read returns 0 and a write is ignored. The rows of the
management core's own registers are counted the same way when the host sends them. Before an access of a core's registers its interpolation pass
writes what it has reached (R135) and its latched firings are counted (R452). -/
def Obligations.AccessWithoutRightsIsCounted : Prop :=
  ∀ (a : Agent) (addr : BitVec 26) (v : Word64) (w : Word) (mask : Bool) (k : Fin 4) (s : State),
    let b := addr.toNat / 4 * 4
    let d := addr.toNat / 8 * 8
    let s1 := catchUpAt b s
    let s2 := catchUpAt d s
    let barred := fun (wr : Bool) (b n : Nat) => inCalWindow b = false ∧ (inProgWindow b = true → a = .host) ∧
      (inProgWindow b = false → ∀ h, h ∈ hits b n → mayReach (catchUpAt b s) a wr h.1.reach = false)
    let counted : Host.Outcome State Fault Refusal := .next (bump F.GLB_DENIED_CNT s)
    (barred true b 4 → exec (.registerWrite a none addr false v) s = .next (bump F.GLB_DENIED_CNT s1)) ∧
    (barred true d 8 → in64 d = true → exec (.registerWrite a none addr true v) s = .next (bump F.GLB_DENIED_CNT s2)) ∧
    (barred false b 4 → exec (.registerReadLatch a none addr false) s = .next (answer a 0 (bump F.GLB_DENIED_CNT s1))) ∧
    (barred false d 8 → in64 d = true → exec (.registerReadLatch a none addr true) s = .next (answer a 0 (bump F.GLB_DENIED_CNT s2))) ∧
    (get s F.LC_STATE_STATE ≠ 1 → exec (.bistRun .host) s = counted) ∧ exec (.fltEvtPop .host) s = counted ∧
    exec (.thmCtlWrite .host w) s = counted ∧ exec (.telCtlWrite .host mask w) s = counted ∧ exec (.pcieRetrain .host) s = counted ∧
    exec (.lcRstCluster .host k) s = counted ∧ exec (.lcRstWarm .host) s = counted ∧ exec (.lcRstCold .host) s = counted ∧
    exec (.watchdogKick .host) s = counted

/-- R43: an access to a register in a compute domain that is off or held in reset, or in the network plane or a stack while they are held in reset (R366,
Table 13.7), is counted; a read returns 0 and a write is ignored. CORE_CTL and RTR answer in every state of their core. -/
def Obligations.DomainsThatAreDownAreDenied : Prop :=
  ∀ (a : Agent) (addr : BitVec 26) (v : Word64) (c : Nat) (s : State),
    let b := addr.toNat / 4 * 4
    let d := addr.toNat / 8 * 8
    let down := fun (s : State) (b : Nat) => (coreOf b = some c ∧ coreUp s c = false ∧ 0x10000 ≤ coreOfs b ∧ coreOfs b < 0xB0000) ∨
      (0x600000 ≤ b ∧ netHeld s = true)
    (down (catchUpAt b s) b → exec (.registerWrite a none addr false v) s = .next (bump F.GLB_DENIED_CNT (catchUpAt b s)) ∧
      exec (.registerReadLatch a none addr false) s = .next (answer a 0 (bump F.GLB_DENIED_CNT (catchUpAt b s)))) ∧
    (down (catchUpAt d s) d → in64 d = true →
      exec (.registerWrite a none addr true v) s = .next (bump F.GLB_DENIED_CNT (catchUpAt d s)) ∧
      exec (.registerReadLatch a none addr true) s = .next (answer a 0 (bump F.GLB_DENIED_CNT (catchUpAt d s)))) ∧
    (coreOf b = some c → coreOfs b < 0x10000 ∨ 0xB0000 ≤ coreOfs b → ∀ (wr : Bool) (st : Nat),
      admitted (set (F.CORE_CTL_STATE_STATE c) st s) a wr b 4 = admitted s a wr b 4)

/-- R13, R14: an admitted write acts on every register it meets: 32 bits, or 64 in a register of 64 bits; 64 bits elsewhere act as two writes. An admitted
read of 32 bits answers its bits, or the half that the read of a 64-bit register's low half latched; a read of a whole 64-bit register answers its 64
bits and leaves the latch alone. An access of a function's BAR2 page acts on the page. What the management core writes to a CAL block it notes, to
write it again after a reset (R141). R22, R23: an admitted TAKE copies the counters of the block and counts SEQ; without CLEAR no other register
changes. A take of the management core in the cycle of a host take of the same block is served before it. A take by an agent without rights is
counted; an address that is no snapshot register takes nothing. -/
def Obligations.AdmittedAccessesReachRegisters : Prop :=
  (∀ (a : Agent) (f : FnIx) (addr : BitVec 26) (v : Word64) (s : State) (x : Nat),
    let b := addr.toNat / 4 * 4
    let d := addr.toNat / 8 * 8
    let s1 := catchUpAt b s
    let s2 := catchUpAt d s
    let noted := fun (b n : Nat) (s : State) => if a = .mgmt then noteCal b n s else s
    (admitted s1 a true b 4 = true → inProgWindow b = false → inCalWindow b = false → exec (.registerWrite a none addr false v) s =
      .next (noted b 32 (each (hits b 4) (writeReg a b 32 (v.toNat % 2 ^ 32)) (gateHook b (v.toNat % 2 ^ 32) s1)))) ∧
    (in64 d = true → admitted s2 a true d 8 = true → exec (.registerWrite a none addr true v) s =
      .next (noted d 64 (each (hits d 8) (writeReg a d 64 v.toNat) (gateHook d v.toNat s2)))) ∧
    (in64 d = false → exec (.registerWrite a none addr true v) s =
      .next (writeBits a (d + 4) 32 (v.toNat / 2 ^ 32) (writeBits a d 32 (v.toNat % 2 ^ 32) s2))) ∧
    (∀ c, inProgWindow b = true → coreOf b = some c → admitted s1 a true b 4 = true →
      exec (.registerWrite a none addr false v) s = .next (writeProg c b (v.toNat % 2 ^ 32) s1)) ∧
    (inCalWindow b = true → domainDown s1 b = false → inProgWindow b = false → exec (.registerWrite a none addr false v) s = .next s1) ∧
    exec (.registerWrite a (some f) addr false v) s = .next (writePage f (b % 65536) (v.toNat % 2 ^ 32) s) ∧
    (pageReadDenied (b % 65536) = false → exec (.registerReadLatch a (some f) addr false) s =
      .next (answer a (readPage s f (b % 65536)) s)) ∧
    (pageReadDenied (b % 65536) = true → exec (.registerReadLatch a (some f) addr false) s =
      .next (bump F.GLB_DENIED_CNT (answer a (readPage s f (b % 65536)) s))) ∧
    (admitted s1 a false b 4 = true → in64 b = true → exec (.registerReadLatch a none addr false) s = .next (answer a (readBits s1 a b 32)
      (putLatch a (some { addr := b + 4, half := readBits s1 a (b + 4) 32 }) s1))) ∧
    (admitted s1 a false b 4 = true → in64 b = false → latchOf s1 a = some { addr := b, half := x } →
      exec (.registerReadLatch a none addr false) s = .next (answer a x (putLatch a none s1))) ∧
    (admitted s1 a false b 4 = true → in64 b = false → (∀ l, latchOf s1 a = some l → l.addr ≠ b) →
      exec (.registerReadLatch a none addr false) s = .next (answer a (readBits s1 a b 32) s1)) ∧
    (admitted s2 a false d 8 = true → in64 d = true →
      exec (.registerReadLatch a none addr true) s = .next (answer a (readBits s2 a d 64) s2)) ∧
    (in64 d = false → ∃ u w, exec (.registerReadLatch a none addr true) s = .next (answer a (readData u a + 2 ^ 32 * readData w a) w) ∧
      u = read32 a d s2 ∧ w = read32 a (d + 4) u)) ∧
  (∀ (a : Agent) (addr : BitVec 26) (clear : Bool) (s : State),
    let n := addr.toNat
    let sq : Fld := ⟨8 * n + 16, 16, 0⟩
    let s1 := catchUpAt n s
    (isSnap n = false → exec (.snapTake a addr clear) s = .next s) ∧
    (isSnap n = true →
      (admitted s a true n 4 = false → exec (.snapTake a addr clear) s = .next (bump F.GLB_DENIED_CNT s)) ∧
      (admitted s a true n 4 = true →
        (∀ h, a = .mgmt → s.hostSnap = some h → h.addr = n → h.time = now s → exec (.snapTake a addr clear) s =
          .next (takeSnap n h.clear (takeSnap n clear (undoSnap h s1)))) ∧
        (a = .host ∨ (∀ h, s.hostSnap = some h → h.addr ≠ n ∨ h.time ≠ now s) → ∃ t u, exec (.snapTake a addr clear) s = .next t ∧
          t.snap = (takeSnap n clear u).snap ∧ t.regs = (takeSnap n clear u).regs ∧ u.regs = s1.regs ∧ u.snap = s1.snap ∧
          get t sq = (get s1 sq + 1) % 2 ^ 16 ∧ (clear = false → sameRegsBut [sq] s1 t) ∧ t.act = s.act ∧ t.mem = s.mem))))

/-- R14, R15, R17, Table 0.3: what a write of a field does by its access type: nothing to a read-only field or a counter, nothing to an RWL field of a
running block, and the shadow alone of an RWS field. A field that takes its value at once has no shadow. -/
def Obligations.FieldWritesFollowAccessType : Prop :=
  ∀ (a : Agent) (locked : Bool) (e addr n v : Nat) (f : FieldSpec) (s : State),
    let t := writeField a locked e addr n v f s
    (f.acc = .ro ∨ f.acc = .ctr → t = s) ∧ (f.acc = .rwl → locked = true → t = s) ∧
    (f.acc = .rws → t.act = s.act ∧ t.mem = s.mem ∧ sameRegsBut [fieldAt e f] s t) ∧
    (f.acc = .w1c ∨ f.acc = .rw ∨ f.acc = .wo → t.act = s.act ∧ t.mem = s.mem ∧ t.shadows = s.shadows ∧ t.cores = s.cores)

/-- R15: no register write changes an active value: an RWS field's new value waits for a boundary. -/
def Obligations.RegisterWritesKeepActiveValues : Prop :=
  ∀ (a : Agent) (addr : BitVec 26) (wide : Bool) (v : Word64) (s t : State),
    exec (.registerWrite a none addr wide v) s = .next t → ∀ f : Fld, actv t f = actv s f

/-! ### Ticks -/

/-- R218, Table 7.3: with TICK_EN the next base boundary comes at its instant, in the order of Table 7.3, after the trims that the interpolation passes
reach before it (R135) and before what firmware does there, the gate's next planned tick last. R176, Table 6.19: at its boundary a RUNNING core starts
the tick at the entry of its phase with its events cleared; RUN takes effect there, and STOP too. R223, R227, R319: the guard band starts 150 ns
before the next boundary; HOLD, RELEASE and ABORT of the gate act as Table 7.7 says; the step rows land while serving is on. -/
def Obligations.TickBoundariesRun : Prop :=
  (∀ (moe : List (BitVec 12 × Word × Word)) (s : State),
    let k := s.time.next
    let t := boundaryAt s k
    (flag s F.TB_CTL_TICK_EN = true → exec (.tickBoundary moe) s = .next (gateNext k (upTo 16 (partBoundary k)
      (countMoe (moe.map fun x => (x.1.toNat, x.2.1.toNat, x.2.2.toNat)) (boundary k t (moveTo t (each allCores (passTo t) s))))))) ∧
    (flag s F.TB_CTL_TICK_EN = false → exec (.tickBoundary moe) s = .next s)) ∧
  (∀ (k t : Nat) (c : CoreIx) (s : State),
    let u := coreTick k t c s
    let bank := actv s (F.SEQ_CTL_BANK c)
    let ph := k % (get s (F.SEQ_BANK_DESC_NPHASE_M1 c bank) + 1)
    ((coreState s c = 3 ∧ flag s (F.CORE_CTL_STATE_STOP_PEND c) = false) ∨ (coreState s c = 2 ∧ flag s (F.CORE_CTL_STATE_RUN_PEND c) = true) →
      coreState u c = 3 ∧ get u (F.SEQ_STAT_PC c) = get s (F.SEQ_PHASE_ENTRY c bank ph) % 2 ^ 14 ∧ get u (F.SEQ_STAT_PHASE_ST c) = 1 ∧
      (core u c).evt = [] ∧ (core u c).tickNum = k ∧ (core u c).tickStart = t ∧ (core u c).outRows = [] ∧ (core u c).illegal = false) ∧
    (coreState s c = 3 → flag s (F.CORE_CTL_STATE_STOP_PEND c) = true → coreState u c = 2 ∧ get u (F.SEQ_STAT_PHASE_ST c) = 0 ∧
      flag u (F.CORE_CTL_STATE_STOP_PEND c) = false) ∧
    u.mem = s.mem ∧ u.mesh = s.mesh ∧ ∀ d, d ≠ c.val → core u d = core s d) ∧
  (∀ s : State,
    (flag s F.TB_STAT_TICK_ON = true → exec .guardBandStart s = .next (setB F.TB_STAT_GUARD true (moveTo (boundaryAt s s.time.next - 150) s))) ∧
    (flag s F.TB_STAT_TICK_ON = false → exec .guardBandStart s = .next s) ∧
    exec .gateHold s = .next (setB F.TB_STAT_GATE_HOLD true s) ∧
    (flag s F.TB_STAT_GATE_HOLD = true → flag s F.TB_STAT_GATE_ARMED = false →
      let late := flag s F.TB_STAT_TICK_ON && decide (boundaryAt s (get s F.TB_GATE_K_K) ≤ now s)
      ∃ t, exec .gateRelease s = .next t ∧ flag t F.TB_STAT_GATE_ARMED = true ∧
      t.time.gateK = (if late then nextAfter s else get s F.TB_GATE_K_K) ∧ t.time.gateLate = late ∧
      (late = true → flag t F.TB_STAT_GATE_LATE = true) ∧ t.shadows = s.shadows ∧ t.act = s.act ∧ t.mem = s.mem ∧
      sameRegsBut [F.TB_STAT_GATE_ARMED, F.TB_STAT_GATE_LATE, F.TB_GATE_LATE_CNT] s t) ∧
    (flag s F.TB_STAT_GATE_HOLD = true → ∃ t, exec .gateAbort s = .next t ∧ flag t F.TB_STAT_GATE_HOLD = false ∧
      flag t F.TB_STAT_GATE_ARMED = false ∧ t.shadows = s.shadows.filter (fun h => !h.held) ∧ t.act = s.act ∧ t.mem = s.mem) ∧
    (flag s F.TB_STAT_GATE_ARMED = true → exec .gateRelease s = .next (bump F.TB_CFG_REJ_CNT s)) ∧
    (flag s F.TB_STAT_GATE_HOLD = false → exec .gateRelease s = .next (bump F.TB_CFG_REJ_CNT s) ∧
      exec .gateAbort s = .next (bump F.TB_CFG_REJ_CNT s)) ∧
    (flag s F.SRV_CTL_EN = true → exec .stepRowLanding s = .next (each allCores landCore s)) ∧
    (flag s F.SRV_CTL_EN = false → exec .stepRowLanding s = .next s))

/-! ### Serving -/

/-- R322: a NEW descriptor that the head reads and that passes every check is admitted: the lowest FREE entry becomes QUEUED with its HANDLE and its
prompt's end, and the ring's consumed index moves on; the rest is as `queueEntry` says. The frame is said where no error that the prompt's way to the
stacks meets puts the package in safe state (R390). -/
def Obligations.NewRequestIsAdmitted : Prop :=
  ∀ (r : RingIx) (d : Desc) (s s1 : State) (q : ReqRing) (e : Nat), readable s r = some q → (mayAdmit q.part s).1 = true →
    let s0 := consume r q d (mayAdmit q.part s).2
    badFields s0 1 d = false → badLength s0 q.part 0 d = false → badAdapter s0 d = false → freeEntry s0 = some e →
    makeRoom q.part 8192 (setsFor d.prompt.length) s0 = some s1 → broke s0 d = false → ∃ t, exec (.reqNew r d) s = .next t ∧
      t = updSrv q.part (fun k => { k with admitted := k.admitted + 1 }) (queueEntry q.fn q.part e 0 eQueued d s1) ∧
      (flag t F.FLT_STAT_SAFE = flag s F.FLT_STAT_SAFE → entState t e = 1 ∧ get t (F.SRV_ENT_HANDLE e) = d.handle.toNat ∧
        get t (F.SRV_ENT_PROMPT_END e) = d.prompt.length % 2 ^ 32 ∧
        (rqRing t r).map (fun q => q.cons) = some ((q.cons + 1) % 2 ^ 32) ∧ t.mem.spad = s.mem.spad ∧ t.cores = s.cores)

/-- R321, R322, R334: what the head does with the other descriptors that pass their checks: CONTINUE queues the conversation again, or restores its pages
first, CANCEL ends the request at its notice, PARK sets its time to live and moves it to the caddy tier where there is one, DROP frees it. The frames
are said where no error found at the stacks puts the package in safe state (R390). R322: a descriptor that fails a check completes at once with a
FINAL record of its status (INVALID_ARG, NO_SPACE or QUOTA), is counted, and leaves every entry as it was. -/
def Obligations.DescriptorsAct : Prop :=
  (∀ (r : RingIx) (d : Desc) (s s1 : State) (q : ReqRing), readable s r = some q →
    let s0 := consume r q d s
    let n := q.part
    let e := d.conv.toNat
    let len := get s0 (F.SRV_ENT_LEN e)
    let calm := fun (t : State) => flag t F.FLT_STAT_SAFE = flag s F.FLT_STAT_SAFE
    (badFields s0 2 d = false → badLength s0 n len d = false → badConv s0 n d (fun st => st == 6 || st == 7 || st == 8) = false →
      badAdapter s0 d = false → entState s0 e ≠ 8 → makeRoom n e (setsFor (len + d.prompt.length) - demand s0 n e) s0 = some s1 → broke s0 d = false →
      ∃ t, exec (.reqContinue r d) s = .next t ∧
      t = queueEntry q.fn n e len eQueued d (updSrv n (fun k => { k with xfers := SMap.put none k.xfers e none }) s1) ∧
      (calm t → entState t e = 1 ∧ get t (F.SRV_ENT_LEN e) = len % 2 ^ 32 ∧ t.mem.spad = s.mem.spad ∧ t.cores = s.cores)) ∧
    (badFields s0 2 d = false → badLength s0 n len d = false → badConv s0 n d (fun st => st == 8) = false → badAdapter s0 d = false →
      makeRoom n e (setsFor (len + d.prompt.length)) s0 = some s1 → broke s0 d = false → ∃ t, exec (.reqContinue r d) s = .next t ∧
      t = queueEntry q.fn n e len eRestoring d (restoreSets n e (startXfer n e true s1)) ∧
      (calm t → entState t e = 9 ∧ (SMap.get none (srvPart t n).xfers e).isSome = true ∧ t.cores = s.cores)) ∧
    (badFields s0 3 d = false → badConv s0 n d active = false → badAdapter s0 d = false → exec (.reqCancel r d) s =
      .next (sendNotice n (curTick s0 n + lead s0 n) (.endEntry e 0x24 32) s0)) ∧
    (badFields s0 4 d = false → badConv s0 n d (fun st => st == 6) = false → badAdapter s0 d = false →
      let s1 := setTtl n e d.time.toNat s0
      exec (.reqPark r d) s = .next (tellEntry n e (if get s1 (F.SRV_PART_CADDY n) = 0 then s1 else startXfer n e false s1))) ∧
    (badFields s0 5 d = false → badConv s0 n d (fun st => st == 6 || st == 7 || st == 8 || st == 9) = false → badAdapter s0 d = false → ∃ t,
      exec (.reqDrop r d) s = .next t ∧ t = tellEntry n e (freeEnt n e s0) ∧ entState t e = 0 ∧
      (calm t → t.cores = s.cores ∧ t.mem.spad = s.mem.spad))) ∧
  (∀ (r : RingIx) (d : Desc) (s : State) (q : ReqRing), readable s r = some q →
    let n := q.part
    let u := consume r q d (mayAdmit n s).2
    let s0 := consume r q d s
    let len := get s0 (F.SRV_ENT_LEN d.conv.toNat)
    let back := fun (st : Nat) => st == 6 || st == 7 || st == 8
    let rej := fun (k : Instr) (status : Nat) => ∃ t, exec k s = .next t ∧
      (srvPart t n).staging = (srvPart s n).staging ++ [{ ring := d.oring.toNat, handle := d.handle.toNat, token := 0, pos := 0, status := status, flags := 65, logit := 0, conv := d.conv.toNat, time := now s, fin := none }] ∧
      get t F.SRV_REJ_CNT = min (get s F.SRV_REJ_CNT + 1) (2 ^ 64 - 1) % 2 ^ 64 ∧ t.mem = s.mem ∧ t.cores = s.cores ∧
      sameRegsBut [F.SRV_SUBMIT_CNT, F.SRV_REJ_CNT, F.GLB_DMA_RD_BYTE_CNT, F.GLB_DMA_WR_BYTE_CNT] s t
    ((mayAdmit n s).1 = true →
      let pass := badFields u 1 d = false ∧ badLength u n 0 d = false ∧ badAdapter u d = false
      (¬ pass → rej (.reqNew r d) 3) ∧
      (pass → freeEntry u = none ∨ makeRoom n 8192 (setsFor d.prompt.length) u = none → rej (.reqNew r d) 7) ∧
      (pass → freeEntry u ≠ none → makeRoom n 8192 (setsFor d.prompt.length) u ≠ none → broke u d = true → rej (.reqNew r d) 0x22)) ∧
    (let pass := badFields s0 2 d = false ∧ badLength s0 n len d = false ∧ badConv s0 n d back = false ∧ badAdapter s0 d = false
      let held := if entState s0 d.conv.toNat = 8 then 0 else demand s0 n d.conv.toNat
      let room := makeRoom n d.conv.toNat (setsFor (len + d.prompt.length) - held) s0
      (¬ pass → rej (.reqContinue r d) 3) ∧ (pass → room = none → rej (.reqContinue r d) 7) ∧
      (pass → room ≠ none → broke s0 d = true → rej (.reqContinue r d) 0x22)) ∧
    (badFields s0 3 d = true ∨ badConv s0 n d active = true ∨ badAdapter s0 d = true → rej (.reqCancel r d) 3) ∧
    (badFields s0 4 d = true ∨ badConv s0 n d (fun st => st == 6) = true ∨ badAdapter s0 d = true → rej (.reqPark r d) 3) ∧
    (badFields s0 5 d = true ∨ badConv s0 n d (fun st => back st || st == 9) = true ∨ badAdapter s0 d = true → rej (.reqDrop r d) 3))

/-- R353, R354: a tail that leaves at most a ring's entries is taken, another is counted; a head index is taken from the owner, and its register holds it;
the moderation timer raises the ring's vector. R329, R354: the first staged record that its ring takes is written, of a local ring and a remote one;
to a local ring 32 bytes at the ring's producer index, which moves on by one. With none, the consumer index that a record waits for is read. R320,
R334: a member keeps a notice until its tick, and applies one that comes late; the head hears the members of a transfer, after its own copy, and a
failed copy ends it; a conversation whose time to live has passed is freed; the old slot of a replacement is freed when no request binds it. -/
def Obligations.RingsAndServingEventsAct : Prop :=
  (∀ (f : FnIx) (r : RingIx) (v : Word) (s : State),
    (∀ q, rqRing s r = some q → q.fn = f.val → (v.toNat + 2 ^ 32 - q.cons) % 2 ^ 32 ≤ q.entries → exec (.rqTail f r v) s =
      .next (putRq r (some { q with tail := v.toNat }) s)) ∧
    (∀ q, rqRing s r = some q → q.fn ≠ f.val ∨ q.entries < (v.toNat + 2 ^ 32 - q.cons) % 2 ^ 32 → exec (.rqTail f r v) s =
      .next (bump F.MBX_RQ_DB_REJ_CNT s)) ∧
    (rqRing s r = none → exec (.rqTail f r v) s = .next (bump F.MBX_RQ_DB_REJ_CNT s)) ∧
    (∀ q, SMap.get none s.srv.oq r.val = some q → q.fn = f.val → exec (.oqHead f r v) s = .next (putOq r (some { q with cons := v.toNat }) (updPage f (fun k => { k with oqHead := SMap.put 0 k.oqHead r v.toNat }) s))) ∧
    (SMap.get none s.srv.oq r.val = none → exec (.oqHead f r v) s = .next (updPage f (fun k => { k with oqHead := SMap.put 0 k.oqHead r v.toNat }) s)) ∧
    (∀ q x, SMap.get none s.srv.oq r.val = some q → q.since = some x → q.remote = none → exec (.outputIrqTimer r) s =
      .next (raiseVector q.fn q.vector (putOq r (some { q with unsig := 0, since := none }) (moveTo (x + q.modUs * 1000) s))))) ∧
  (∀ (n : PartIx) (s : State) (x : OutRec) (rest : List OutRec) (q : OutRing),
    (takeStaged s (srvPart s n).staging = none → exec (.outputRecordWrite n) s = .next (askIndex n s)) ∧
    (takeStaged s (srvPart s n).staging = some (x, rest) → SMap.get none s.srv.oq x.ring = some q →
      exec (.outputRecordWrite n) s =
        .next (showInUse (showKv n (closeBatch n x.ring (writeRec n x q (updSrv n (fun k => { k with staging := rest }) s))))) ∧
      (q.remote = none → x.fin = none → ∃ t,
        exec (.outputRecordWrite n) s = .next t ∧ (srvPart t n).staging = rest ∧
        { dst := .host q.fn, topic := .hostWrite
          args := (q.base + 32 * (q.prod % max 1 q.entries)) :: (recBytes11 x).map (fun b => b.toNat) : Msg } ∈ t.out ∧
        ((SMap.get none t.srv.oq x.ring).map fun q => q.prod) = some ((q.prod + 1) % 2 ^ 32) ∧ t.mem = s.mem ∧ t.cores = s.cores))) ∧
  (∀ (n : PartIx) (m : Word64) (x : Notice) (e : EntIx) (k : BitVec 16) (i : Fin 64) (s : State),
    (isHead s n = false → ordinal s n (get s F.TB_TICK_NUM_K) < m.toNat → exec (.noticeReceived n m x) s =
      .next (updSrv n (fun k => { k with notices := k.notices ++ [(m.toNat, x)] }) s)) ∧
    (isHead s n = false → m.toNat ≤ ordinal s n (get s F.TB_TICK_NUM_K) → exec (.noticeReceived n m x) s =
      .next (lateNotice n m.toNat (ordinal s n (get s F.TB_TICK_NUM_K)) x s)) ∧
    (isHead s n = true → exec (.noticeReceived n m x) s = .next s) ∧
    (∀ f data, SMap.get none (srvPart s n).xfers e.toNat = some f → isHead s n = true →
      let s1 := if (partRec s n).any (fun r => r.own == k.toNat) then ownPages n e.toNat f data s else s
      let bad := (SMap.get none (srvPart s1 n).xfers e.toNat).any fun y => y.bad
      let y := { f with heard := NSet.add f.heard k.toNat }
      exec (.caddyReport n e k false data) s = .next (xferFailed n e.toNat f s) ∧
      (bad = true → exec (.caddyReport n e k true data) s = .next (xferFailed n e.toNat f s1)) ∧
      (bad = false → allHeard s1 n y.heard = false → exec (.caddyReport n e k true data) s =
        .next (updSrv n (fun p => { p with xfers := SMap.put none p.xfers e.toNat (some y) }) s1)) ∧
      (bad = false → allHeard s1 n y.heard = true → exec (.caddyReport n e k true data) s =
        .next (showInUse (showKv n (xferDone n e.toNat y s1))))) ∧
    (get s (F.SRV_ENT_TYPE e.toNat) = 0 → entState s e.toNat = 6 ∨ entState s e.toNat = 8 → get s (F.SRV_ENT_TTL e.toNat) ≤ now s →
      let n := get s (F.SRV_ENT_LPART e.toNat)
      n < 16 → ∃ t, exec (.caddyTtlExpire e) s = .next t ∧
      t = showInUse (showKv n (freeEnt n e.toNat (bump F.SRV_CADDY_EXP_CNT s))) ∧ entState t e.toNat = 0 ∧
      (flag t F.FLT_STAT_SAFE = flag s F.FLT_STAT_SAFE → t.cores = s.cores ∧ t.mem.spad = s.mem.spad)) ∧
    (∀ r, s.srv.replaces.find? (fun r => r.old == i.val) = some r →
      actv s (F.SRV_ASLOT_STATE i) ≠ 2 ∨ (r.slot = none ∧ r.unload = false) →
      get s (F.SRV_ASLOT_REFCNT i) = 0 → exec (.adapterSlotFree i) s = .next (finishReplace r s)))

/-- R325: every account is refilled at the next millisecond: its balance rises by its rate, up to its burst, and never falls. -/
def Obligations.RefillNeverTakesAway : Prop :=
  ∀ s : State, ∃ t, exec .accountRefill s = .next t ∧ t.mem = s.mem ∧ t.cores = s.cores ∧
    ((now s / 1000000 + 1) * 1000000 < 2 ^ 64 → now t = (now s / 1000000 + 1) * 1000000) ∧
    (∀ a, a < 1024 → actv s (F.SRV_ACCT_RATE a) = 0 → get t (F.SRV_ACCT_BAL_BAL a) = get s (F.SRV_ACCT_BAL_BAL a)) ∧
    (∀ a, a < 1024 → get s (F.SRV_ACCT_BAL_BAL a) < 2 ^ 31 → actv s (F.SRV_ACCT_BURST a) * 256 < 2 ^ 31 →
      get s (F.SRV_ACCT_BAL_BAL a) ≤ get t (F.SRV_ACCT_BAL_BAL a) ∧
      get t (F.SRV_ACCT_BAL_BAL a) ≤ max (get s (F.SRV_ACCT_BAL_BAL a)) (actv s (F.SRV_ACCT_BURST a) * 256))

/-! ### The fault collector -/

/-- R384, R391: an event of class L0 or L1 whose source does not escalate is counted by class and source, recorded while the queue has room, and leaves
its class unacknowledged; outside the fault collector nothing changes. -/
def Obligations.MinorEventIsRecorded : Prop :=
  ∀ (src dom : Byte) (access : BitVec 3) (node : Byte) (unit : BitVec 3) (addr detail : Word64) (s : State),
    let l := srcClass src.toNat
    srcListed src.toNat = true → domListed dom.toNat = true → l ≤ 1 → srcEscalates src.toNat = false → ∃ t,
      exec (.faultEvent src dom access node unit addr detail false) s = .next t ∧
      get t (F.FLT_EVT_CNT l) = min (get s (F.FLT_EVT_CNT l) + 1) (2 ^ 64 - 1) % 2 ^ 64 ∧
      get t (F.FLT_SRC_CNT src.toNat) = min (get s (F.FLT_SRC_CNT src.toNat) + 1) (2 ^ 64 - 1) % 2 ^ 64 ∧ unacked t l = true ∧
      (s.flt.queue.length < 256 → t.flt.queue = s.flt.queue ++ [{ time := now s, src := src.toNat, dom := dom.toNat, cls := l, esc := false, access := access.toNat, node := node.toNat, unit := unit.toNat, addr := addr.toNat, detail := detail.toNat }]) ∧
      (256 ≤ s.flt.queue.length → t.flt.queue = s.flt.queue ∧
        get t F.FLT_LOG_DROP_CNT = min (get s F.FLT_LOG_DROP_CNT + 1) (2 ^ 64 - 1) % 2 ^ 64) ∧
      t = { s with regs := t.regs, flt := t.flt, setAt := t.setAt } ∧
      ∀ f : Fld, f.key < 8 * 0x300000 ∨ 8 * 0x300C00 ≤ f.key → get t f = get s f

/-- R389, R390, R392: an L2 event of a core fences it when no L2 event is unacknowledged; an L3 event puts the package into safe state; an L4 event asks
for power off. -/
def Obligations.SevereEventsReact : Prop :=
  ∀ (c : CoreIx) (dom : Byte) (access : BitVec 3) (node : Byte) (unit : BitVec 3) (addr detail : Word64) (s : State),
    domListed dom.toNat = true →
    (unacked s 2 = false → coreGood s c = true → coreState s c = 2 ∨ coreState s c = 3 → ∃ t,
      exec (.faultEvent 0x50 (BitVec.ofNat 8 c.val) access node unit addr detail false) s = .next t ∧ coreState t c = 4 ∧
      get t F.FLT_FENCE_CNT = min (get s F.FLT_FENCE_CNT + 1) (2 ^ 64 - 1) % 2 ^ 64 ∧ unacked t 2 = true ∧
      t.mem.stk = s.mem.stk ∧ t.mesh = s.mesh ∧ ∀ d, d ≠ c.val → core t d = core s d) ∧
    (unacked s 3 = false → flag s F.FLT_STAT_SAFE = false → ∃ t, exec (.faultEvent 0x60 dom access node unit addr detail false) s = .next t ∧
      flag t F.FLT_STAT_SAFE = true ∧ get t F.FLT_SAFE_TIME_TIME = now s % 2 ^ 64 ∧ unacked t 3 = true ∧ t.mem.stk = s.mem.stk ∧
      t.mesh = s.mesh ∧ t.pwroff = s.pwroff ∧ ∀ c : CoreIx, coreGood s c = true → coreState t c ≠ 2 ∧ coreState t c ≠ 3) ∧
    (∃ t, exec (.faultEvent 0x70 dom access node unit addr detail false) s = .next t ∧ t.pwroff = true ∧ flag t F.FLT_STAT_L4_REQ = true ∧
      flag t F.FLT_STAT_SAFE = true ∧ unacked t 4 = true ∧ t.mem.stk = s.mem.stk)

/-- R388: acknowledging a class L2 or above, or ending an L0 or L1 window, leaves the class acknowledged. Nothing outside the collector changes. R391,
R396: POP takes the record at the head of the queue and shows the next; VALID of a capture is cleared, unless it was set in the same cycle (R16); a
pulse of FAULT_N ends. R408: outside FACTORY_TEST GO is counted and ignored; in it GO arms the injection that the written word and the target
registers give, which acts at its instant. R398: a record of class L1 or above at the head of the queue is reported and logged, at most 1,000 in a
second; the summary covers a second and starts the next. -/
def Obligations.FaultsAreAcknowledgedAndReported : Prop :=
  (∀ (v : Word) (l1 : Bool) (s : State),
    let l := bits v.toNat 0 3
    let w := fltWindow s (if l1 then 1 else 0)
    (2 ≤ l → l ≤ 4 → ∃ t, exec (.fltAck v) s = .next t ∧ unacked t l = false ∧ (∀ k, k < 5 → k ≠ l → unacked t k = unacked s k) ∧
      t = { s with regs := t.regs } ∧ ∀ f : Fld, f.key < 8 * 0x300000 ∨ 8 * 0x300C00 ≤ f.key → get t f = get s f) ∧
    (l < 2 → bit v.toNat 16 = true → ∃ t, exec (.fltAck v) s = .next t ∧ unacked t l = false ∧ t.mem = s.mem ∧ t.cores = s.cores) ∧
    (l < 2 → bit v.toNat 16 = false → exec (.fltAck v) s = .next (ackDom l (bits v.toNat 8 8) s)) ∧
    (∃ t, exec (.faultWindowEnd l1) s = .next t ∧ unacked t (if l1 then 1 else 0) = false ∧
      ((now s / w + 1) * w < 2 ^ 64 → now t = (now s / w + 1) * w) ∧ t.mem = s.mem ∧ t.cores = s.cores ∧ t.mesh = s.mesh)) ∧
  (∀ (l : Fin 5) (s : State),
    (∃ t, exec (.fltEvtPop .mgmt) s = .next t ∧ t.flt.queue = s.flt.queue.tail ∧
      get t F.FLT_EVT_LEVEL_N = s.flt.queue.tail.length % 2 ^ 9 ∧ t.mem = s.mem ∧ t.cores = s.cores ∧
      (∀ r rest, s.flt.queue.tail = r :: rest → get t F.FLT_EVT_SRC = r.src % 256 ∧ get t F.FLT_EVT_VALID = 1) ∧
      (s.flt.queue.tail = [] → get t F.FLT_EVT_VALID = 0)) ∧
    (flag s (F.FLT_CAP_VALID l) = false ∨ clears s (F.FLT_CAP_VALID l) 1 = 0 → exec (.fltCapClear l) s = .next s) ∧
    (flag s (F.FLT_CAP_VALID l) = true → clears s (F.FLT_CAP_VALID l) 1 = 1 → ∃ t, exec (.fltCapClear l) s = .next t ∧ flag t (F.FLT_CAP_VALID l) = false ∧
      sameRegsBut (capFields l) s t ∧ t.mem = s.mem ∧ t.flt = s.flt ∧ t.cores = s.cores) ∧
    (flag s F.FLT_STAT_ERRMODE = true → exec .faultNPulseEnd s = .next (setB F.FLT_STAT_PIN false s))) ∧
  (∀ (v : Word) (s : State) (j : Inj),
    let w := v.toNat
    (flag s F.LC_STATE_FI_EN = false → exec (.injectGo v) s = .next (bump F.GLB_DENIED_CNT s)) ∧
    (flag s F.LC_STATE_FI_EN = true → injVoid (bits w 0 4) (bits w 16 8) (bits w 24 8) = false → now s < get s F.FLT_INJ_AT_AT → ∃ t,
      exec (.injectGo v) s = .next t ∧ get t F.FLT_INJ_STAT_STATE = 1 ∧ t.mem = s.mem ∧ t.cores = s.cores ∧
      t.flt.inj = some { kind := bits w 0 4, hide := bit w 5, count := max 1 (bits w 8 8), src := bits w 16 8, dom := bits w 24 8
                         tgt := get s F.FLT_INJ_TGT_TGT, time := get s F.FLT_INJ_AT_AT, active := false, done := 0 }) ∧
    (flag s F.LC_STATE_FI_EN = true → injVoid (bits w 0 4) (bits w 16 8) (bits w 24 8) = true → ∃ t, exec (.injectGo v) s = .next t ∧
      t.flt = s.flt ∧ t.mem = s.mem ∧ t.cores = s.cores ∧
      sameRegsBut [F.FLT_INJ_CTL_KIND, F.FLT_INJ_CTL_CHK_HIDE, F.FLT_INJ_CTL_COUNT, F.FLT_INJ_CTL_SRC, F.FLT_INJ_CTL_DOM] s t) ∧
    (s.flt.inj = some j → j.active = false → exec .injectionAtTime s = .next (injStart j (moveTo j.time s)))) ∧
  (∀ (s : State) (r : FltRec) (rest : List FltRec),
    let args := [5, r.time, r.src, r.dom, r.cls, if r.esc then 1 else 0, r.access, r.node, r.unit, r.addr, r.detail]
    (s.flt.queue = r :: rest → r.cls ≠ 0 → s.fw.reports < 1000 → ∃ t, exec .faultReport s = .next t ∧ t.fw.log = s.fw.log ++ [args] ∧
      t.fw.reports = s.fw.reports + 1 ∧ { dst := .net, topic := .report, args := args : Msg } ∈ t.out ∧ t.flt = s.flt ∧ t.mem = s.mem ∧
      t.cores = s.cores) ∧
    (s.flt.queue = r :: rest → r.cls ≠ 0 → 1000 ≤ s.fw.reports → exec .faultReport s =
      .next (updFw (fun k => { k with folded := k.folded + 1 }) s)) ∧
    (∃ t, exec .faultSummaryTimer s = .next t ∧ t.fw.reports = 0 ∧ t.fw.folded = 0 ∧ t.mem = s.mem ∧ t.cores = s.cores ∧ t.flt = s.flt ∧
      sameRegsBut [F.TB_TIME_TIME] s t))

/-! ### Thermal sensors and telemetry -/

/-- R413 to R416, R421: a valid sample is shown and counted, an invalid one marks its sensor, a sample of 112 °C or more shuts the package down, and a
sensor that stays silent for 10 ms clears its flags or shuts down. R414, R424: thresholds in their ranges are taken and others counted; TEL_CTL and
TEL_CHSEL take their fields, and start a conversion where none is in progress. R216, R308, R417, R418: at its drift bound HOLDOVER ends in UNSYNC; a
half under throttle is lowered at the next base boundary when every partition in it runs slow and has no longer schedule, the coordinator switches a
partition that has a longer schedule, and a half that throttle lowered goes back. -/
def Obligations.SensorsAndThrottleAct : Prop :=
  (∀ (i : Fin 31) (v : BitVec 16) (east : Bool) (s : State),
    (-320 ≤ v.toInt → v.toInt < 896 → ∃ t, exec (.sensorSample i v true) s = .next t ∧ get t (F.THM_SENS_TEMP i) = v.toNat ∧
      flag t (F.THM_SENS_VALID i) = true ∧ t.mem = s.mem ∧ t.pwroff = s.pwroff ∧
      get t F.THM_SAMPLE_CNT = min (get s F.THM_SAMPLE_CNT + 1) (2 ^ 64 - 1) % 2 ^ 64) ∧
    (896 ≤ v.toInt → v.toInt ≤ 1200 → flag s F.THM_STAT_SHUT = false → ∃ t, exec (.sensorSample i v true) s = .next t ∧
      flag t F.THM_STAT_SHUT = true ∧ get t F.THM_STAT_SHUT_SENS = i.val ∧ t.pwroff = true) ∧
    (v.toInt < -320 ∨ 1200 < v.toInt → ∃ t, exec (.sensorSample i v true) s = .next t ∧ flag t (F.THM_SENS_VALID i) = false ∧
      get t (F.THM_SENS_TEMP i) = get s (F.THM_SENS_TEMP i) ∧ t.mem = s.mem) ∧
    (i.val < 20 → ∃ t, exec (.sensorMissingTimeout i) s = .next t ∧ flag t (F.THM_SENS_WARN i) = false ∧ flag t (F.THM_SENS_THR i) = false ∧
      t.mem = s.mem ∧ t.pwroff = s.pwroff) ∧
    (20 ≤ i.val → flag s F.THM_STAT_SHUT = false → ∃ t, exec (.sensorMissingTimeout i) s = .next t ∧ flag t F.THM_STAT_SHUT = true ∧
      get t F.THM_STAT_SHUT_SENS = 31 ∧ t.pwroff = true) ∧
    ((if east then flag s F.THM_STAT_WARN_E else flag s F.THM_STAT_WARN_W) ≠ (if east then s.thm.warnE else s.thm.warnW) → ∃ t,
      exec (.warningChange east i) s = .next t ∧ (if east then t.thm.warnE else t.thm.warnW) = (if east then flag s F.THM_STAT_WARN_E else flag s F.THM_STAT_WARN_W) ∧
      t.mem = s.mem ∧ t.cores = s.cores)) ∧
  (∀ (v : Word) (s : State),
    let w := bits v.toNat 0 16
    let r := bits v.toNat 16 16
    (0x1E0 ≤ w → w ≤ 0x2F8 → w < r → r ≤ 0x338 → exec (.thmCtlWrite .mgmt v) s = .next (set F.THM_CTL_THR_T r (set F.THM_CTL_WARN_T w s))) ∧
    (w < 0x1E0 ∨ 0x2F8 < w → 0x338 < r → exec (.thmCtlWrite .mgmt v) s = .next (bump F.THM_CFG_REJ_CNT (bump F.THM_CFG_REJ_CNT s))) ∧
    (flag s F.TEL_STAT_BUSY = false → exec (.telCtlWrite .mgmt true v) s = .next (telStart (set F.TEL_CHSEL_MASK (bits v.toNat 0 16) s)) ∧
      exec (.telCtlWrite .mgmt false v) s = .next (telStart (set F.TEL_CTL_LP (bits v.toNat 2 1) (set F.TEL_CTL_MAINS (bits v.toNat 1 1)
        (set F.TEL_CTL_EN (bits v.toNat 0 1) s))))) ∧
    (flag s F.TEL_STAT_BUSY = true → ∃ t, exec (.telCtlWrite .mgmt true v) s = .next t ∧ get t F.TEL_CHSEL_MASK = bits v.toNat 0 16 ∧
      sameRegsBut [F.TEL_CHSEL_MASK] s t ∧ t.mem = s.mem ∧ t.cores = s.cores) ∧
    (flag s F.TEL_STAT_BUSY = true → ∃ t, exec (.telCtlWrite .mgmt false v) s = .next t ∧ get t F.TEL_CTL_EN = bits v.toNat 0 1 ∧
      get t F.TEL_CTL_MAINS = bits v.toNat 1 1 ∧ get t F.TEL_CTL_LP = bits v.toNat 2 1 ∧
      sameRegsBut [F.TEL_CTL_EN, F.TEL_CTL_MAINS, F.TEL_CTL_LP] s t ∧ t.mem = s.mem ∧ t.cores = s.cores)) ∧
  (∀ (east : Bool) (n : PartIx) (s : State),
    let f := if east then F.TB_HALF_CLK_EAST_SLOW else F.TB_HALF_CLK_WEST_SLOW
    (throttled s east = true → isSlow s east = false → netHeld s = false →
      (∀ p, p ∈ halfParts s east → runsSlow (activeSched s p) east = true ∧ hasLonger s p = false) →
      ∃ t, exec (.throttleSet east) s = .next t ∧ get t f = 1 ∧ (if east then t.fw.lowE else t.fw.lowW) = true ∧ t.mem = s.mem ∧ t.cores = s.cores) ∧
    (throttled s east = true → let u := each (halfParts s east) throttlePart s
      isSlow u east = true ∨ (∃ p, p ∈ halfParts s east ∧ (runsSlow (activeSched u p) east = false ∨ hasLonger s p = true)) →
      exec (.throttleSet east) s = .next u) ∧
    (throttled s east = false → exec (.throttleSet east) s = .next s) ∧
    (isCoord s n = true → hasLonger s n = true → exec (.throttleRequest n true) s = .next (sendSwitch n (throttleK s n) true true s)) ∧
    (∀ all : Bool, isCoord s n = false → exec (.throttleRequest n all) s = .next s) ∧
    (∀ all : Bool, isCoord s n = true → (all && hasLonger s n) = false → exec (.throttleRequest n all) s = .next (thermalNote (some n) 0 s)) ∧
    (throttled s east = false → netHeld s = false → (if east then s.fw.lowE else s.fw.lowW) = true → ∃ t, exec (.throttleClear east) s = .next t ∧ get t f = 0 ∧
      (if east then t.fw.lowE else t.fw.lowW) = false ∧ calm s t) ∧
    (sync s = 3 → actv s F.TB_SYNC_LIM_HO_DRIFT ≠ 0 → (∀ p, p < 16 → partRuns s p = false) → ∃ t, exec .holdoverExpire s = .next t ∧ sync t = 4 ∧
      get t F.TB_STAT_PORT = 15 ∧ t.mem = s.mem ∧ t.cores = s.cores) ∧
    (sync s ≠ 3 ∨ actv s F.TB_SYNC_LIM_HO_DRIFT = 0 → exec .holdoverExpire s = .next s) ∧
    (sync s = 3 → actv s F.TB_SYNC_LIM_HO_DRIFT ≠ 0 → exec .holdoverExpire s = .next (upTo 16 (fun n u => if partRuns u n = true then askStop n u else u)
      (holdover 4 (moveTo (s.time.holdSince + (12500000000 + actv s F.TB_SYNC_LIM_HO_DRIFT - 1) / actv s F.TB_SYNC_LIM_HO_DRIFT) s)))))

/-- R425: the end of a conversion gives its channel the code, the mode bits, VALID, the next SEQ and the time; a code outside the enabled limits sets its
bit of TEL_ALARM, is counted, and interrupts the management core; OVR results and conversions are counted. During the start R426 applies as well, and
is left to StartStepsRun. -/
def Obligations.ConversionGivesItsResult : Prop :=
  ∀ (code : BitVec 24) (ovr : Bool) (s : State),
    let ch := get s F.TEL_STAT_CH
    let low := flag s (F.TEL_LIM_EN ch) && decide (code.toInt < geti s (F.TEL_LIM_LO ch))
    let high := flag s (F.TEL_LIM_EN ch) && decide (geti s (F.TEL_LIM_HI ch) < code.toInt)
    let more := fun (t : State) (f : Fld) (b : Bool) => get t f = if b then min (get s f + 1) (2 ^ 64 - 1) % 2 ^ 64 else get s f
    flag s F.TEL_STAT_BUSY = true → ch < 16 → (∀ n, s.fw.phase ≠ .step n) → ∃ t, exec (.telConversionEnd code ovr) s = .next t ∧
      get t (F.TEL_RES_CODE ch) = code.toNat ∧ flag t (F.TEL_RES_OVR ch) = ovr ∧ flag t (F.TEL_RES_LP ch) = s.thm.lp ∧
      flag t (F.TEL_RES_MAINS ch) = s.thm.mains ∧ flag t (F.TEL_RES_VALID ch) = true ∧
      get t (F.TEL_RES_SEQ ch) = (get s (F.TEL_RES_SEQ ch) + 1) % 2 ^ 16 ∧ get t (F.TEL_RES_TIME_TIME ch) = now s % 2 ^ 64 ∧
      getBit t F.TEL_ALARM_LO ch = (low || getBit s F.TEL_ALARM_LO ch) ∧ getBit t F.TEL_ALARM_HI ch = (high || getBit s F.TEL_ALARM_HI ch) ∧
      more t F.TEL_LIM_CNT (low || high) ∧ more t F.TEL_OVR_CNT ovr ∧ more t F.TEL_CONV_CNT true ∧
      (low || high → { dst := .mc, topic := .telLimit, args := [ch] : Msg } ∈ t.out) ∧
      (∀ k, k < 16 → k ≠ ch → get t (F.TEL_RES_CODE k) = get s (F.TEL_RES_CODE k) ∧ get t (F.TEL_RES_SEQ k) = get s (F.TEL_RES_SEQ k)) ∧ calm s t

/-! ### Host interface: doorbells, functions, BAR4 and DMA -/

/-- R342, R343: a doorbell makes a FREE slot BUSY and is counted; on a slot that is not FREE it is counted as rejected; while the mailbox is over its load
the request is answered BUSY at once; MCTP in minimal mode (R366) and Ethernet without a session (R352) take no message; an acknowledgement frees the
DONE slots it names. R340, R435: a function-level reset frees the function's slots, pages and rings, orphans its PENDING commands, keeps its SEQ, and
leaves every other function alone; an FLR of the PF resets every function and leaves no VF enabled; a hot reset, and PERST outside a cold reset, act
on every function. R435, R437, Table 12.1: a retrain of the link and errors are counted, and errors are reported to the host; a link that trains shows
its speed and lanes, and is degraded below 16 GT/s or 8 lanes. R339, R244, R247, R250: a BAR4 access or a DMA transfer reaches the stacks only through
a VALID aperture that permits it, line by line: a write stores its bytes there and nowhere else, a read gives the bytes there, and one that no
aperture covers is counted and changes no memory. What the accesses leave is said of lines that have a route and no waiting request, in banks that are
ON, and where no error found on the way adds a poison mark (R248) or puts the package in safe state (R390). An access beyond the function's BAR4 does
nothing. While the stacks are down an access is counted as denied; in safe state a write is blocked, a read is answered POISONED, and a DMA transfer
ends with its status. -/
def Obligations.HostInterfaceActs : Prop :=
  (∀ (f : FnIx) (v : Word) (s : State),
    let i := v.toNat % 8
    (f.val = 33 → flag s F.MBX_CTL_MINIMAL = true → exec (.mbDb f v) s = .next s) ∧
    (f.val = 34 → s.fw.sessions = 0 → exec (.mbDb f v) s = .next s) ∧
    (transportShut s f = false →
    (slotSt s f i = 0 → autoBusy s = false → exec (.mbDb f v) s = .next (putSlot f i 1 (bump F.MBX_DB_CNT s))) ∧
    (slotSt s f i = 0 → autoBusy s = true → ∃ t, exec (.mbDb f v) s = .next t ∧ slotSt t f i = 2 ∧
      leAt (mbBytes t f (rspOfs i) 64) 10 1 = 2 ∧ t.mem = s.mem ∧ t.cores = s.cores) ∧
    (slotSt s f i ≠ 0 → exec (.mbDb f v) s = .next (bump F.MBX_DB_REJ_CNT s))) ∧
    (∃ t, exec (.mbAck f v) s = .next t ∧ (∀ k, k < 8 → slotSt t f k = if bit v.toNat k && slotSt s f k == 2 then 0 else slotSt s f k) ∧
      t.mem = s.mem ∧ t.cores = s.cores ∧ t.mbx = s.mbx)) ∧
  (∀ (f : Fin 33) (s : State),
    (f ≠ 0 → ∃ t, exec (.flr f) s = .next t ∧ (∀ i, slotSt t f i = 0) ∧ (page t f).seq = (page s f).seq ∧
      (∀ p, p ∈ t.fw.pends → p.fn = f.val → p.orphan = true) ∧ (∀ r q, (r, some q) ∈ t.srv.oq → q.fn ≠ f.val) ∧
      (∀ r q, (r, some q) ∈ t.srv.rq → q.fn ≠ f.val) ∧
      (∀ g : Nat, g ≠ f.val → page t g = page s g) ∧ get t F.MBX_FLR_CNT = min (get s F.MBX_FLR_CNT + 1) (2 ^ 64 - 1) % 2 ^ 64 ∧
      t.mem = s.mem ∧ t.cores = s.cores) ∧
    (∃ t, exec (.flr 0) s = .next t ∧ t = flr 0 s ∧ (∀ g : Fin 33, ∀ i, slotSt t g i = 0) ∧ get t F.GLB_PCIE_STAT_NUM_VF = 0 ∧
      (∀ g : Fin 33, g ≠ 0 → flag t (F.MBX_FN_ENABLED g) = false) ∧ t.mem = s.mem ∧ t.cores = s.cores) ∧
    (∃ t, exec .pcieHotReset s = .next t ∧ (∀ g : Fin 33, ∀ i, slotSt t g i = 0) ∧ t.mem = s.mem ∧ t.cores = s.cores) ∧
    (s.fw.phase ≠ .held → ∃ t, exec .pciePerst s = .next t ∧ (∀ g : Fin 33, ∀ i, slotSt t g i = 0) ∧ get t F.GLB_PCIE_STAT_WIDTH = 0 ∧
      get t F.GLB_PCIE_STAT_SPEED = 0 ∧ t.mem = s.mem ∧ t.cores = s.cores) ∧
    (s.fw.phase = .held → exec .pciePerst s = .next s)) ∧
  (∀ (speed : BitVec 3) (width : BitVec 5) (flit : Bool) (vfs : BitVec 6) (s : State),
    (∃ t, exec (.pcieRetrain .mgmt) s = .next t ∧ get t F.GLB_PCIE_STAT_WIDTH = 0 ∧
      get t F.GLB_PCIE_RETRAIN_CNT = min (get s F.GLB_PCIE_RETRAIN_CNT + 1) (2 ^ 64 - 1) % 2 ^ 64 ∧ t.mem = s.mem ∧ t.cores = s.cores) ∧
    (∃ t, exec (.pcieLinkTrained speed width flit vfs) s = .next t ∧ get t F.GLB_PCIE_STAT_WIDTH = width.toNat ∧
      get t F.GLB_PCIE_STAT_SPEED = min speed.toNat (get s F.GLB_PCIE_CTL_MAX_SPEED) ∧
      (flag t F.GLB_PCIE_STAT_DEGRADED = true ↔ min speed.toNat (get s F.GLB_PCIE_CTL_MAX_SPEED) < 4 ∨ width.toNat < 8) ∧
      (∀ f : Fin 33, flag t (F.MBX_FN_ENABLED f) = decide (f.val ≤ min vfs.toNat 32)) ∧ t.mem = s.mem ∧ t.cores = s.cores) ∧
    exec (.pcieLinkError false) s = .next (bump F.GLB_PCIE_UNCORR_CNT (emit (.host 0) .aer [1] s)) ∧
    (∃ t, exec (.pcieLinkError true) s = .next t ∧ { dst := .host 0, topic := .aer, args := [0] : Msg } ∈ t.out ∧
      get t F.GLB_PCIE_CORR_CNT = min (get s F.GLB_PCIE_CORR_CNT + 1) (2 ^ 64 - 1) % 2 ^ 64 ∧ t.mem = s.mem ∧ t.cores = s.cores)) ∧
  (∀ (f : Fin 33) (ofs : BitVec 34) (n : BitVec 13) (data : List Byte) (bad : List Nat) (len : Word) (host : Word64) (s : State),
    let rd := aperture s f ofs.toNat n.toNat false
    let wr := aperture s f ofs.toNat data.length true
    let inR := inBar4 f ofs.toNat n.toNat = true
    let inW := inBar4 f ofs.toNat data.length = true
    let quiet := fun (t : State) => flag t F.FLT_STAT_SAFE = flag s F.FLT_STAT_SAFE
    let free := fun (l : List Nat) => s.flt.inj = none ∧ (∀ p, p ∈ s.mesh → reqChan p.body = none) ∧
      ∀ x, x ∈ l → x < lineCount ∧ bankOn s (lineStack x) (lineBank x) = true ∧ (trip 35 (stkNode (lineStack x)) s).1 = true
    (¬ inR → exec (.bar4Read f ofs n) s = .next s) ∧ (¬ inW → exec (.bar4Write f ofs data) s = .next s) ∧
    (stacksUp s = false → (inW → exec (.bar4Write f ofs data) s = .next (bump F.GLB_DENIED_CNT s)) ∧
      (inR → exec (.bar4Read f ofs n) s =
        .next (emit (.host f) .readData (0 :: (zeros n.toNat).map fun b => b.toNat) (bump F.GLB_DENIED_CNT s))) ∧
      ∀ wr, exec (.dmaTransferEnd f wr ofs len host data bad) s = .next (bump F.GLB_DENIED_CNT s)) ∧
    (stacksUp s = true → inSafe s = true → (inW → exec (.bar4Write f ofs data) s = .next (bump F.FLT_SAFE_WR_BLK_CNT s)) ∧
      (inR → exec (.bar4Read f ofs n) s = .next (emit (.host f) .readData (1 :: (zeros n.toNat).map fun b => b.toNat) s)) ∧
      ∀ wr, exec (.dmaTransferEnd f wr ofs len host data bad) s = .next (emit (.host f) .dmaEnd [0x17] s)) ∧
    (stacksUp s = true → inSafe s = false →
    (inR → rd = none → ∃ t, exec (.bar4Read f ofs n) s = .next t ∧ flag t (F.MBX_FN_APER_ERR f) = true ∧ t.mem = s.mem ∧ t.cores = s.cores) ∧
    (wr = none → (inW → exec (.bar4Write f ofs data) s = .next (hwSet (F.MBX_FN_APER_ERR f) 0 (bump F.GLB_APER_REJ_CNT s))) ∧
      exec (.dmaTransferEnd f true ofs len host data bad) s = .next (hwSet (F.MBX_FN_APER_ERR f) 0 (bump F.GLB_APER_REJ_CNT s))) ∧
    (∀ a, inR → rd = some a →
      let r := readSpan 35 a n.toNat s
      exec (.bar4Read f ofs n) s = .next (emit (.host f) .readData ((if r.1.2.2 then 1 else 0) :: r.1.2.1.map (fun b => b.toNat)) r.2) ∧
      (free (linesOf a n.toNat) → (∀ x, x ∈ linesOf a n.toNat → mergeOf s (lineStack x) x = none) →
        (∀ x, x ∈ linesOf a n.toNat → linePoison r.2 x = linePoison s x) →
        r.1.2.1 = getStk s a n.toNat ∧ r.1.2.2 = (linesOf a n.toNat).any (linePoison s) ∧ r.2.mem.stk = s.mem.stk)) ∧
    (∀ a, aperture s f ofs.toNat len.toNat false = some a →
      let r := readSpan 35 a len.toNat s
      exec (.dmaTransferEnd f false ofs len host data bad) s =
        .next (emit (.host f) .dmaEnd [match r.1.1 with | some x => x.2 | none => 0, if r.1.2.2 then 1 else 0]
          (dmaOut f host.toNat r.1.2.1 r.2))) ∧
    (∀ a, inW → wr = some a → exec (.bar4Write f ofs data) s = .next (pciRefused f (writeSpan 35 a data s).1 (writeSpan 35 a data s).2)) ∧
    (∀ a, inW → wr = some a → free (linesOf a data.length) → ∃ t u, exec (.bar4Write f ofs data) s = .next t ∧
      exec (.dmaTransferEnd f true ofs len host data []) s = .next u ∧ u.mem = t.mem ∧
      (∀ b, b < a ∨ a + data.length ≤ b → linePoison t (b / 512) = linePoison s (b / 512) → rdByte t.mem.stk b = rdByte s.mem.stk b) ∧
      (quiet t → rdBytes t.mem.stk a data.length = data ∧ t.mem.spad = s.mem.spad ∧ t.cores = s.cores))))

/-! ### Yarile requests and responses -/

/-- R344, Table 12.4: a request that a check refuses is answered with that check's status, in the table's order, and has no other effect; a slot that is
not BUSY, or that the mailbox answers itself, is left alone. R341, R342, R346: a response makes its slot DONE and holds its status, the function's
next SEQ and the result, when that fits the payload; a PENDING one notes the command. Nothing outside the mailbox changes but the buffer count. -/
def Obligations.RequestsAreCheckedAndAnswered : Prop :=
  (∀ (q : YReq) (st : Nat) (s : State),
    let h := reqHeader s q.fn q.slot
    let ends := fun (st : Nat) => exec (.planGet q) s = .next (respond q h st [] s)
    (slotSt s q.fn q.slot = 1 → autoBusy s = false →
      (h.version ≠ 3 ∨ opcodes.contains h.opcode = false → ends 4) ∧
      (h.opcode = 0x0D02 → h.version = 3 → flag s F.MBX_CTL_MINIMAL = true → ends 0x36) ∧
      (h.opcode = 0x0D02 → h.version = 3 → flag s F.MBX_CTL_MINIMAL = false → mode s = 0 → ends 2) ∧
      (h.opcode = 0x0D02 → h.version = 3 → flag s F.MBX_CTL_MINIMAL = false → mode s ≠ 0 → s.fw.phase ≠ .shut → inSafe s = false →
        1984 < h.plen → ends 3) ∧
      (h.opcode = 0x0D02 → h.version = 3 → flag s F.MBX_CTL_MINIMAL = false → mode s ≠ 0 → s.fw.phase ≠ .shut → inSafe s = false →
        h.plen ≤ 1984 → isVf q.fn = true → ends 6) ∧
      (h.opcode = 0x0D02 → check s { op := 0x0D02 } q h true [] [] = some st → ends st) ∧
      (h.opcode = 0x0C01 → check s { op := 0x0C01 } q h true [] [] = some st → exec (.shutdown q) s = .next (respond q h st [] s)) ∧
      (h.opcode = 0x0A01 → check s { op := 0x0A01, min := true } q h true [] [] = some st → exec (.lcGet q) s = .next (respond q h st [] s))) ∧
    (slotSt s q.fn q.slot ≠ 1 ∨ autoBusy s = true → exec (.planGet q) s = .next s ∧ exec (.shutdown q) s = .next s ∧
      exec (.lcGet q) s = .next s)) ∧
  (∀ (q : YReq) (h : Header) (st : Nat) (result : List Byte) (objs : List Obj) (act : PendAct) (s : State),
    let b := fun (t : State) => mbBytes t q.fn (rspOfs q.slot) 64
    let others := fun (t : State) => t.mem = s.mem ∧ t.cores = s.cores ∧ t.act = s.act ∧ t.flt = s.flt ∧ t.srv = s.srv ∧
      (∀ i, i ≠ q.slot.val → slotSt t q.fn i = slotSt s q.fn i) ∧ ∀ g : Nat, g ≠ q.fn.val → page t g = page s g
    (let t := respond q h st result s
     slotSt t q.fn q.slot = 2 ∧ leAt (b t) 10 1 = st % 256 ∧ leAt (b t) 36 4 = ((page s q.fn).seq + 1) % 2 ^ 32 ∧
       (result.length ≤ 1984 → mbBytes t q.fn (rspOfs q.slot + 64) result.length = result ∧ leAt (b t) 28 4 = result.length) ∧ others t ∧
       t.fw = s.fw ∧ sameRegsBut [F.GLB_DMA_WR_BYTE_CNT, F.MBX_FN_BUSY q.fn] s t) ∧
    (let t := pend q h objs act s
     slotSt t q.fn q.slot = 2 ∧ leAt (b t) 10 1 = 1 ∧ leAt (b t) 36 4 = ((page s q.fn).seq + 1) % 2 ^ 32 ∧ others t ∧
       t.fw = { s.fw with pends := s.fw.pends ++ [{ fn := q.fn, opcode := h.opcode, tag := h.tag, seq := ((page s q.fn).seq + 1) % 2 ^ 32
                                                    part := h.part, buf := h.bufAddr, bufLen := h.bufLen, objs := objs, act := act, due := dueAt h s, orphan := false }] } ∧
       sameRegsBut [F.MBX_FN_PEND q.fn, F.MBX_FN_BUSY q.fn] s t))

/-- R349, Table 12.7: an accepted query answers OK with what it asks for: in its payload, or in the host's buffer where the table says so. A RECIPE_GET of
a core whose compute domain is down reads 0, and its reads are counted as denied (R43). -/
def Obligations.QueriesAnswer : Prop :=
  ∀ (q : YReq) (seq hd : Word) (e : EntIx) (c : CoreIx) (set_ : Fin 4) (l : Fin 16) (os : List Byte) (fl : List (BitVec 12 × BitVec 4 × Bool)) (s : State),
    let h := reqHeader s q.fn q.slot
    let n := hdrPart s q
    let b := fun (f : Fld) => get s f
    let bt := s.fw.boot
    let image := fun (p : Option Plan) => match p with | some pl => pl.image | none => []
    let ok : List Byte → Host.Outcome State Fault Refusal := fun r => .next (respond q h 0 r s)
    (accepts { op := 0x0101, v := true, min := true } q true [] [] s → exec (.getInfo q) s = ok (infoBytes s q.fn)) ∧
    (accepts { op := 0x0102, v := true, min := true } q true [] [] s → exec (.getCert q) s = .next (respondBuf q h [] Config.certChain s)) ∧
    (accepts { op := 0x0103, v := true, min := true } q true [] [] s →
      let rs := (s.fw.log.zipIdx s.fw.logBase).filter fun p => decide (max seq.toNat s.fw.logBase ≤ p.2) && mayRead s q.fn p.1
      exec (.getLog q seq) s = .next (respondBuf q h (natLe 4 (s.fw.logBase + s.fw.log.length))
        (rs.flatMap fun p => natLe 4 p.2 ++ natLe 4 p.1.length ++ p.1.flatMap (natLe 8)) s)) ∧
    (accepts { op := 0x0104 } q true [] [] s → exec (.getPorts q) s = ok ((List.range 12).flatMap fun p =>
      natLe 1 (pState s p) ++ natLe 1 (b (F.FAB_STAT_QREASON p)) ++ zeros 2 ++ natLe 2 (b (F.FAB_PREFEC_MANT p)) ++ natLe 1 (b (F.FAB_PREFEC_EXP p)) ++
        natLe 1 (b (F.FAB_PREFEC_VALID p)) ++ natLe 16 (b (F.FAB_PEER_ID_ID p)))) ∧
    (accepts { op := 0x0D02 } q true [] [] s → exec (.planGet q) s = .next (respondBuf q h [] (image s.fw.plan ++ image s.fw.planNext) s)) ∧
    (accepts { op := 0x0607, v := true } q (!isVf q.fn || mayAct s q.fn (get s (F.SRV_ENT_LPART e.toNat))) [] [] s →
      exec (.reqQuery q e) s = ok ((getEntry s e.toNat).flatMap (natLe 4) ++ (lastTokens s e.toNat).flatMap (natLe 4))) ∧
    (accepts { op := 0x0701 } q true [] [] s → exec (.calSave q c set_) s = .next (respondBuf q h []
      (natLe 16 (deviceId s) ++ natLe 2 c ++ natLe 1 set_ ++ zeros 1 ++ rdBytes s.mem.cal (recAddr c set_ 0) (2624 * 64)) s)) ∧
    (accepts { op := 0x0802 } q true [] [] s → exec (.enduranceGet q c) s = ok ((List.range 2624).flatMap (fun n => natLe 4 (cyclesOf s c n)) ++
      (List.range 2624).flatMap fun n => natLe 8 (SMap.get 0 s.fw.steepAt (c.val * 2624 + n)))) ∧
    (accepts { op := 0x0803, v := true } q true [] [] s →
      let stat := b F.THM_STAT_WARN_W + 2 * b F.THM_STAT_WARN_E + 4 * b F.THM_STAT_THR_W + 8 * b F.THM_STAT_THR_E + 16 * b F.THM_STAT_SHUT +
        32 * b F.THM_STAT_SHUT_SENS + 1024 * b F.THM_STAT_NOSENS
      let sens := fun i => b (F.THM_SENS_TEMP i) + 2 ^ 16 * b (F.THM_SENS_VALID i) + 2 ^ 17 * b (F.THM_SENS_FAST i) +
        2 ^ 18 * b (F.THM_SENS_WARN i) + 2 ^ 19 * b (F.THM_SENS_THR i)
      let tel := fun i => b (F.TEL_RES_CODE i) + 2 ^ 24 * b (F.TEL_RES_OVR i) + 2 ^ 25 * b (F.TEL_RES_LP i) + 2 ^ 26 * b (F.TEL_RES_MAINS i) +
        2 ^ 27 * b (F.TEL_RES_VALID i)
      exec (.thermalGet q) s = ok (natLe 4 stat ++ (List.range 31).flatMap (fun i => natLe 4 (sens i)) ++ natLe 1 (if s.fw.lowW then 1 else 0) ++
        natLe 1 (if s.fw.lowE then 1 else 0) ++ zeros 2 ++ (List.range 16).flatMap fun i => natLe 4 (tel i))) ∧
    (accepts { op := 0x0901 } q true [] [] s → ∃ r, exec (.faultList q) s = ok (r ++ natLe 4 (b F.FLT_STAT_UNACK)) ∧ r.length = 160 ∧
      ∀ k : Fin 5, (r.drop (32 * k.val)).take 32 = match capFields k with
        | [] => zeros 32
        | f0 :: fs => natLe 32 ((f0 :: fs).foldl (fun a (f : Fld) => a + b f * 2 ^ (f.key - f0.key)) 0)) ∧
    (accepts { op := 0x0A01, min := true } q true [] [] s →
      let r := match bt.journal, bt.closed with
        | some (f, t, w), _ => (f, t, if w then 3 else 1, [])
        | none, some (f, t, l) => (f, t, 0, l)
        | none, none => (0, 0, 0, [])
      exec (.lcGet q) s = ok (natLe 1 (b F.LC_STATE_STATE) ++ natLe 1 (b F.LC_STATE_SLOTS) ++ natLe 1 r.1 ++ natLe 1 r.2.1 ++
        natLe 4 (r.2.2.1 + if bt.erasePend then 4 else 0) ++ r.2.2.2.flatMap fun a => natLe 2 (a / 2624) ++ natLe 2 (a % 2624))) ∧
    (accepts { op := 0x0B03, min := true } q true [] [] s → exec (.fwStatus q) s = ok (natLe 4 (fwVer s) ++
      natLe 4 (if bt.staged then (if bt.runB then bt.copyA else bt.copyB).ver else 0) ++
      natLe 4 ((if bt.staged then 1 else 0) + if s.fw.actFailed then 2 else 0))) ∧
    (accepts { op := 0x0C02, min := true } q true [] [] s → (∀ r, bt.bist.getLast? = some r → exec (.bistResult q) s = ok (bistBytes r)) ∧
      (bt.bist = [] → exec (.bistResult q) s = ok [])) ∧
    (accepts { op := 0x0303, v := true } q true [] [] s → exec (.modelList q) s = ok (s.fw.models.flatMap fun m =>
      fieldsOf [(4, m.handle), (16, m.img.id.toNat), (4, m.img.part), (4, if m.bound then 1 else 0)])) ∧
    (accepts { op := 0x0305 } q true [] [.model hd.toNat] s → ∀ m, modelOf s hd.toNat = some m →
      let d := goldDigests (records m.img) s
      exec (.modelDigest q hd) s = .next (respond q h 0 (natLe 48 (twoLevel d.1) ++ natLe 48 (twoLevel (readDigests s m))) d.2)) ∧
    (accepts { op := 0x0504, v := true } q true [] [] s → exec (.adapterList q) s = ok ((List.range 64).flatMap fun i =>
      natLe 8 (actv s (F.SRV_ASLOT_ID i) + 2 ^ 16 * actv s (F.SRV_ASLOT_GEN i) + 2 ^ 32 * actv s (F.SRV_ASLOT_STATE i) +
        2 ^ 34 * actv s (F.SRV_ASLOT_CUR i) + 2 ^ 35 * b (F.SRV_ASLOT_REFCNT i)))) ∧
    (∀ r, partRec s n = some r →
      (accepts { op := 0x0209, v := true } q (n < 16) [n] [] s →
        let kind := match activeSched s n with | some x => x.kind | none => 0xFF
        let st := ((partCores s n).map fun c => (1, coreState s c)) ++ os.map fun b => (1, b.toNat)
        exec (.partStatus q os) s = ok (fieldsOf ([(1, kind), (4, tickNs (activeSched s n)), (1, partDiv s n), (2, r.coord),
          (4, b (F.SRV_PART_KV_FREE n))] ++ st))) ∧
      (∀ p, accepts { op := 0x0404, v := true } q (n < 16) [n] [] s → mapPhys s l = some p → corePart s p = some n →
        (domainDown s ((F.LEAVEN_RCP_CTL_AFMT p 0).key / 8) = true → exec (.recipeGet q l) s =
          .next (respond q h 0 (zeros 4096) (upTo 1024 (fun _ s => bump F.GLB_DENIED_CNT s) s))) ∧
        (domainDown s ((F.LEAVEN_RCP_CTL_AFMT p 0).key / 8) = false → exec (.recipeGet q l) s = ok ((List.range 256).flatMap fun i =>
          natLe 4 (actv s (F.LEAVEN_RCP_CTL_AFMT p i) + 2 * actv s (F.LEAVEN_RCP_CTL_RANGE p i) + 8 * actv s (F.LEAVEN_RCP_CTL_BLK p i) +
            32 * actv s (F.LEAVEN_RCP_CTL_FINE p i) + 2 ^ 8 * actv s (F.LEAVEN_RCP_CTL_LT p i) + 2 ^ 16 * actv s (F.LEAVEN_RCP_CTL_LAYER p i)) ++
          natLe 4 (actv s (F.LEAVEN_RCP_ASCALE_SCALE p i)) ++ natLe 4 (actv s (F.LEAVEN_RCP_WSCALE_SCALE p i)) ++
          natLe 4 (b (F.LEAVEN_RCP_ENV_VALID p i) + 2 * b (F.LEAVEN_RCP_ENV_FINE_OK p i) + 4 * b (F.LEAVEN_RCP_ENV_A4_OK p i) +
            8 * b (F.LEAVEN_RCP_ENV_LEAVEN_OK p i))))) ∧
      (accepts { op := 0x0405, v := true } q (n < 16) [n] [] s →
        let own := (partCores s n).flatMap fun c => (List.range 256).filterMap fun i =>
          if flag s (F.LEAVEN_RCP_ENV_VALID c i) then some (actv s (F.LEAVEN_RCP_CTL_LAYER c i), lflags s c i, getBit s (F.LEAVEN_WINMAP_MAP c (i / 32)) (i % 32))
          else none
        let es := own ++ fl.map fun x => (x.1.toNat, x.2.1.toNat, x.2.2)
        exec (.flagsGet q fl) s = ok ((uniq (es.map fun e => e.1)).flatMap fun y =>
          natLe 2 y ++ natLe 1 (((es.filter fun e => e.1 == y).map fun e => e.2.1).foldl (· ||| ·) 0) ++
            natLe 1 (if (es.filter fun e => e.1 == y).any fun e => e.2.2 then 1 else 0))))

/-- R351: in minimal mode MODE reads MINIMAL, a command not marked Min is answered with the status of check 2 whatever its operands, and FW_ACTIVATE
starts the package again on the staged copy. -/
def Obligations.MinimalModeTakesMinCommands : Prop :=
  ∀ (r : CmdRow) (q : YReq) (range : Bool) (parts : List Nat) (objs : List Obj) (f : Header → State → State) (s : State),
    let h := reqHeader s q.fn q.slot
    (get (minimal s) F.GLB_MODE_MODE = 2 ∧ flag (minimal s) F.MBX_CTL_MINIMAL = true ∧ autoBusy (minimal s) = false) ∧
    (flag s F.MBX_CTL_MINIMAL = true → slotSt s q.fn q.slot = 1 → autoBusy s = false →
      (r.min = false → opcodes.contains r.op = true → h.opcode = r.op → h.version = 3 → run r q range parts objs f s = respond q h 0x36 [] s) ∧
      (accepts { op := 0x0B02, min := true } q true [] [.firmware] s → anyRuns s = false → s.fw.boot.staged = true → ∃ t,
        exec (.fwActivate q []) s = .next t ∧ t.fw.phase = .step 0 ∧ t.fw.boot.prefB = !s.fw.boot.runB ∧ t.fw.boot.attempts = 0))

/-- R142, R325, R326, R328, R349, R353, R354, R405: an accepted command that sets something answers OK once it is set, or with WAIT_ACTIVE pends until it
is active: rings, accounts, classes, stop sets, calibration configuration, telemetry, fault acknowledgement, digests, plans and the ring spare. R142,
R143, R287, R424: commands with an effect of their own on cores, ports and streams. CAL_RESTORE stores the records; CAL_MEASURE starts its calibration
and pends, or answers the engine's refusal; PORT_CMD moves the port; a stream interval snapshots its blocks and keeps its time. -/
def Obligations.SettingRequestsAct : Prop :=
  (∀ (q : YReq) (r : Fin 64) (base wb : Word64) (entries x y : Word) (vec lim : Byte) (us cnt mins : BitVec 16) (out ends_ valid : Bool) (a : Fin 1024)
    (k : Fin 8) (tokens : List Word) (c : CoreIx) (log2 : BitVec 5) (tstep : BitVec 4) (blocks : List (BitVec 26)) (image : List Byte) (rem : Option (BitVec 16)) (m : BitVec 16) (s : State),
    let h := reqHeader s q.fn q.slot
    let n := hdrPart s q
    let b := fun (v : Bool) => if v then 1 else 0
    let l := blocks.map fun a => a.toNat
    (accepts { op := 0x0601, v := true } q (n < 16 && ringShape base entries 64 65536) [n] [.ring false r] s → SMap.get none s.srv.rq r.val = none →
      isHead s n = true → exec (.rqCreate q r base entries wb) s = .next (respond q h 0 [] { s with srv := { s.srv with
        rq := SMap.put none s.srv.rq r.val (some { fn := q.fn, part := n, base := base.toNat, entries := entries.toNat, wb := wb.toNat, tail := 0, cons := 0 }) } })) ∧
    (accepts { op := 0x0602, v := rem.isNone } q (n < 16 && ringShape base entries 256 1048576 && decide (vec.toNat < if isVf q.fn then 16 else 64)) [n]
        [.ring true r] s → SMap.get none s.srv.oq r.val = none → isHead s n = true →
      let o : OutRing := { fn := q.fn, part := n, remote := rem.map fun a => a.toNat, base := base.toNat, entries := entries.toNat, wb := wb.toNat
                           vector := vec.toNat, modUs := us.toNat, modCnt := cnt.toNat, prod := 0, cons := 0, unsig := 0, since := none
                           asked := false, batch := false, recs := [] }
      exec (.oqCreate q r rem base entries wb vec us cnt) s = .next (respond q h 0 []
        (updPage q.fn (fun k => { k with oqHead := SMap.put 0 k.oqHead r.val 0 }) { s with srv := { s.srv with oq := SMap.put none s.srv.oq r.val (some o) } }))) ∧
    (∀ p, ringOwner s out r = some p → accepts { op := 0x0603, v := some p.1 == some q.fn.val } q true [p.2] [.ring out r] s →
      (out = true → ringNamed s r = false) → ∃ u, exec (.ringDestroy q out r) s = .next (respond q h 0 [] u) ∧ calm s u ∧ ringOwner u out r = none ∧
        ringOwner u (!out) r = ringOwner s (!out) r ∧ ∀ i, i ≠ r → ringOwner u out i = ringOwner s out i) ∧
    (netHeld s = false →
      (accepts { op := 0x0604 } q true [] [] s → ∃ u, u = shadowWrite true (F.SRV_ACCT_VALID a) (b valid) (shadowWrite true (F.SRV_ACCT_END a) (b ends_)
          (shadowWrite true (F.SRV_ACCT_BURST a) y.toNat (shadowWrite true (F.SRV_ACCT_RATE a) x.toNat s))) ∧
        exec (.accountSet q a x y ends_ valid) s =
          .next (okActive q h [] [F.SRV_ACCT_RATE a, F.SRV_ACCT_BURST a, F.SRV_ACCT_END a, F.SRV_ACCT_VALID a] u) ∧ calm s u ∧
        get u (F.SRV_ACCT_RATE a) = x.toNat ∧ get u (F.SRV_ACCT_BURST a) = y.toNat ∧ get u (F.SRV_ACCT_END a) = b ends_ ∧
        get u (F.SRV_ACCT_VALID a) = b valid ∧
        sameRegsBut [F.SRV_ACCT_RATE a, F.SRV_ACCT_BURST a, F.SRV_ACCT_END a, F.SRV_ACCT_VALID a] s u) ∧
      (accepts { op := 0x0605 } q true [] [] s → ∃ u, u = shadowWrite true (F.SRV_CLASS_TBT_US k) y.toNat (shadowWrite true (F.SRV_CLASS_TTFT_US k) x.toNat s) ∧
        exec (.classSet q k x y) s = .next (okActive q h [] [F.SRV_CLASS_TTFT_US k, F.SRV_CLASS_TBT_US k] u) ∧ calm s u ∧
        get u (F.SRV_CLASS_TTFT_US k) = x.toNat ∧ get u (F.SRV_CLASS_TBT_US k) = y.toNat ∧
        sameRegsBut [F.SRV_CLASS_TTFT_US k, F.SRV_CLASS_TBT_US k] s u) ∧
      (accepts { op := 0x0606 } q (tokens.length = 32) [] [] s → ∃ u,
        exec (.stopsetSet q k tokens) s = .next (okActive q h [] ((List.range 32).map fun i => F.SRV_STOPSET_TOKEN k i) u) ∧ calm s u ∧
        ∀ (i : Nat) (hi : i < tokens.length), get u (F.SRV_STOPSET_TOKEN k i) = tokens[i].toNat)) ∧
    (accepts { op := 0x0704 } q (decide (12 ≤ log2.toNat) && decide (log2.toNat ≤ 20)) [] [.core c] s → coreRuns s c = false → coreUp s c = true →
      calRunning s c = false ∨ get s (F.CAL_CTL_DMON_LOG2 c) = log2.toNat → ∃ u,
      exec (.calConfig q c out log2 lim tstep) s = .next (okActive q h [.core c] [F.CAL_SRC_SRC c, F.CAL_DMON_LIM_LIMIT c, F.CAL_CTL_TSTEP c] u) ∧ calm s u ∧
        get u (F.CAL_SRC_SRC c) = b out ∧ get u (F.CAL_CTL_DMON_LOG2 c) = log2.toNat ∧ get u (F.CAL_DMON_LIM_LIMIT c) = lim.toNat ∧
        get u (F.CAL_CTL_TSTEP c) = tstep.toNat) ∧
    (accepts { op := 0x0801, v := l.all (maySnap s q.fn) } q (l.all isSnap) [] [] s →
      exec (.telSnapshot q blocks) s = .next (respondBuf q h [] (snapBlocks l s).1 (snapBlocks l s).2)) ∧
    (accepts { op := 0x0804 } q (decide (q.fn.val < 33) && (x.toNat = 0 || (decide (10 ≤ x.toNat) && decide (x.toNat ≤ 60000) && l.all isSnap))) [] [] s →
      let o : Stream := { fn := q.fn, ms := x.toNat, blocks := l, buf := base.toNat, size := y.toNat, ofs := 0, last := now s }
      exec (.telStream q x blocks base y) s = .next (respond q h 0 [] (updFw (fun k => { k with stream := if x = 0 then none else some o }) s))) ∧
    (accepts { op := 0x0902 } q (decide (vec.toNat ≤ 4)) [] [] s → exec (.faultAck q vec) s = .next (respond q h 0 [] (ackAll vec.toNat s))) ∧
    (accepts { op := 0x0905 } q (decide (1 ≤ mins.toNat) && decide (mins.toNat ≤ 1440)) [] [] s →
      exec (.digestCfg q mins) s = .next (respond q h 0 [] (updFw (fun k => { k with digestMin := mins.toNat }) s))) ∧
    (accepts { op := 0x0D01 } q true [] [.plan] s →
      let u := fromBuffer q.fn h s
      planForm image = true → planKnown image = true → loadsOk u = true → planFits u (readPlan image) = true → anyPart u = false →
      exec (.planInstall q image true) s = .next (respond q h 0 [] (updFw (fun k => { k with planNext := some (readPlan image) }) u))) ∧
    (accepts { op := 0x0D04 } q (ownRole s = 1) [] [.plan] s → anyPart s = false →
      exec (.spareSet q none) s = .next (respond q h 0 [] (updFw (fun k => { k with subst := none, missing := [] }) s))) ∧
    (accepts { op := 0x0D04 } q (ownRole s = 1) [] [.plan] s → s.fw.subst = none →
      exec (.spareSet q (some m)) s = .next (respond q h 0 [] (switchIn m.toNat s)))) ∧
  (∀ (q : YReq) (c : CoreIx) (set_ : Fin 4) (recs : List Byte) (dev : BitVec 128) (p : PortIx) (s : State),
    let h := reqHeader s q.fn q.slot
    (accepts { op := 0x0702 } q (recs.length = 2624 * 64) [] [.core c] s → dev.toNat = deviceId s → coreUp s c = true → coreRuns s c = false →
      (∀ n, n < 2624 → recCrc ((recs.drop (64 * n)).take 64) = true) → ∃ u, exec (.calRestore q dev c set_ recs) s = .next (respond q h 0 [] u) ∧
        (let s1 := fromBuffer q.fn h (catchUp c s)
         u = calKeep c { s1 with mem := { s1.mem with cal := wrBytes s1.mem.cal (recAddr c set_ 0) recs } }) ∧
        rdBytes u.mem.cal (recAddr c set_ 0) (2624 * 64) = recs ∧ u.mem.stk = s.mem.stk ∧ u.mem.wts = s.mem.wts) ∧
    (accepts { op := 0x0703 } q true [] [.core c] s → coreRuns s c = false → coreUp s c = true → (core s c).calCmd = none →
      tempFar s c set_ = false → exec (.calMeasure q c set_) s = .next (pend q h [.core c] (.calDone c)
        (calAccept c { op := 1, set := set_, target := true, arr := none } s))) ∧
    (accepts { op := 0x0703 } q true [] [.core c] s → coreRuns s c = false → coreUp s c = true → (core s c).calCmd = none →
      tempFar s c set_ = true → ∃ u, exec (.calMeasure q c set_) s = .next (respond q h 0x31 [] u) ∧ calm s u ∧ get u (F.CAL_STATUS_RESULT c) = 0x31) ∧
    (accepts { op := 0x0D03 } q true [] [.port p.val] s →
      exec (.portCmd q (BitVec.ofNat 8 p.val) 0) s = .next (respond q h 0 [] (retrainPort p s)) ∧
      exec (.portCmd q (BitVec.ofNat 8 p.val) 1) s = .next (respond q h 0 [] (disablePort p s)) ∧
      (pState s p = 2 ∨ pState s p = 3 → exec (.portCmd q (BitVec.ofNat 8 p.val) 2) s = .next (respond q h 0 [] (enterQuar p 5 s))) ∧
      (pState s p ≠ 2 → pState s p ≠ 3 → exec (.portCmd q (BitVec.ofNat 8 p.val) 2) s = .next (respond q h 0 [] (portRej p s)))) ∧
    (∀ x, s.fw.stream = some x →
      let t := x.last + x.ms * 1000000
      let d := snapBlocks x.blocks (moveTo t s)
      let ofs := if x.size < x.ofs + d.1.length then 0 else x.ofs
      (x.size < d.1.length → exec .telStreamInterval s = .next (updFw (fun k => { k with stream := some { x with last := t } }) d.2)) ∧
      (d.1.length ≤ x.size → exec .telStreamInterval s =
        .next (updFw (fun k => { k with stream := some { x with last := t, ofs := ofs + d.1.length } }) (dmaOut x.fn (x.buf + ofs) d.1 d.2)))) ∧
    (s.fw.stream = none → exec .telStreamInterval s = .next s))

/-- R117, R208, R228, R306, R309 to R311, R400: what an accepted command on a partition does: it is created and destroyed, starts, stops, resets, takes
settings, schedules and recipes, switches, or loses a core to a fence. -/
def Obligations.PartitionCommandsAct : Prop :=
  ∀ (q : YReq) (s : State) (r : PartRec),
    let h := reqHeader s q.fn q.slot
    let n := hdrPart s q
    let may := fun (k : CmdRow) => accepts k q (n < 16) [n] [.part n] s
    let all := BitVec.allOnes 32
    let keep := fun (v : Word) (old : Nat) => if v = all then old else v.toNat
    let now_ := fun (u : State) (v : Word) (f : Fld) => get u f = keep v (get s f)
    (∀ x, accepts { op := 0x0201 } q (n < 16) [] [.part n] s → createFault s n x = none →
      let mem := x.members.map fun a => a.toNat
      let pr := PartRec.fresh x.pid.toNat x.owner mem (mem.findIdx fun a => a == ownAddr s) (get s (F.TB_OVR_CNT n))
      ∃ u, u = fromBuffer q.fn h (updFw (fun k => { k with parts := SMap.put none k.parts n (some pr) }) (createRegs n x s)) ∧
        exec (.partCreate q x) s = .next (okActive q h [.part n] (allCores.map fun c => F.CORE_CTL_ID_PVALID c) u) ∧
        partRec u n = some pr ∧ u.mem = s.mem ∧ u.cores = s.cores) ∧
    (partRec s n = some r →
      (may { op := 0x0202 } → r.startK = none → r.resetK = none → r.resetAt = none →
        (startFault s n = none → exec (.partStart q) s = .next (sayReady n (pend q h [.part n] (.running n) s))) ∧
        (∀ st, startFault s n = some st → exec (.partStart q) s = .next (respond q h st [] s))) ∧
      (may { op := 0x0203, v := true } → partRuns s n = false → exec (.partStop q) s = .next (respond q h 0 [] s)) ∧
      (may { op := 0x0203, v := true } → partRuns s n = true → exec (.partStop q) s = .next (askStop n (pend q h [.part n] (.idle n) s))) ∧
      (may { op := 0x0204, v := true } → r.resetK = none → r.resetAt = none → r.own = r.coord →
        exec (.partReset q) s = .next (pickReset n (pend q h [.part n] (.resetDone n) s))) ∧
      (may { op := 0x0204, v := true } → r.resetK = none → r.resetAt = none → r.own ≠ r.coord →
        exec (.partReset q) s = .next (toCoord n mAskReset [] (pend q h [.part n] (.resetDone n) s))) ∧
      (may { op := 0x0205 } → partRuns s n = false → r.resetK = none → r.resetAt = none →
        ∃ u, u = updFw (fun k => { k with parts := SMap.put none k.parts n none }) (destroyRegs n r.pid s) ∧
          exec (.partDestroy q) s =
            .next (okActive q h [.part n] ((List.range 12).flatMap fun p => (List.range 64).map fun i => F.FAB_SLOT_OWN_VALID p i) u) ∧
          partRec u n = none ∧ flag u (F.SRV_PART_EN n) = false) ∧
      (∀ x : PartSet, let forVf := x.fbLayers == all && x.ovrLim == all && x.retryLim == all && x.caddyRate == all
        accepts { op := 0x0206, v := forVf } q (n < 16 && (setFits x.admRate 16 && setFits x.retryLim 4 && setFits x.caddyRate 16)) [n] [.part n] s →
        netHeld s = false → ∃ u,
          exec (.partSet q x) s =
            .next (okActive q h [.part n] [F.SRV_PART_ADM_RATE n, F.SRV_PART_RETRY_LIM n, F.SRV_PART_PARK_TTL n, F.SRV_PART_CADDY_RATE n] u) ∧ calm s u ∧
          partRec u n = some { r with fb := keep x.fbLayers r.fb, ovr := keep x.ovrLim r.ovr } ∧
          now_ u x.admRate (F.SRV_PART_ADM_RATE n) ∧ now_ u x.parkTtl (F.SRV_PART_PARK_TTL n) ∧ now_ u x.retryLim (F.SRV_PART_RETRY_LIM n) ∧
          now_ u x.caddyRate (F.SRV_PART_CADDY_RATE n)) ∧
      (may { op := 0x0207, v := true } → ∃ u, exec (.partClear q) s = .next (respond q h 0 [] u) ∧ calm s u ∧
        partRec u n = some { r with fbTold := false, ovrTold := false } ∧
        ∀ c, c ∈ partCores s n → ∀ i, i < 256 → domainDown s ((F.LEAVEN_LFLAG_SAT c i).key / 8) = false → lflags u c i = 0) ∧
      (∀ x, may { op := 0x0401 } →
        let s1 := fromBuffer q.fn h s
        (∀ st, imgFault s1 n x = some st → exec (.schedLoad q x) s = .next (respond q h st [] s1)) ∧
        (imgFault s1 n x = none → partRuns s1 n = false →
          exec (.schedLoad q x) s = .next (okActive q h [.part n] (schedRcps s1 (readSched x.bytes)) (loadSched n (readSched x.bytes) s1)))) ∧
      (may { op := 0x0402 } → (standbySched s n).isSome = true → r.switchK = none → exec (.schedSwitch q) s = .next (commandSwitch q n h s)) ∧
      (∀ x, may { op := 0x0208, v := true } → (∀ e, throttled s e = true → inHalf s n e = false) → r.switchK = none →
        standbySched s n = some x → x.kind = 0 → exec (.partNarrow q) s = .next (commandSwitch q n h s)) ∧
      (∀ l, let at_ := fun (p : Fin 16 × RcpIn) => (mapPhys s p.1).filter fun c => corePart s c == some n
        accepts { op := 0x0403, v := true } q (n < 16 && (decide (l.length ≤ 96) && l.all fun p => (at_ p).isSome)) [n] [.part n] s →
        (∀ p c, p ∈ l → at_ p = some c → rcpInFits s c p.2 = true) →
        exec (.recipeSet q l) s = .next (okActive q h [.part n]
          (l.flatMap fun p => match at_ p with | some c => rcpFields c p.2.ix.toNat | none => [])
          (each l (fun p u => match at_ p with | some c => writeRcp c p.2 u | none => u) s)))) ∧
    (∀ east there,
      let f := if east then F.TB_HALF_CLK_EAST_SLOW else F.TB_HALF_CLK_WEST_SLOW
      let need := (halfParts s east).filter fun n => !runsSlow (activeSched s n) east
      let k := roundUp (curK s + (need.map (winLen s)).foldl max 1) 128
      (accepts { op := 0x0D05 } q true [] [] s → throttled s east = true → exec (.halfClock q east false there) s = .next (respond q h 2 [] s)) ∧
      (accepts { op := 0x0D05 } q true [] [] s → throttled s east = false → ∃ t, exec (.halfClock q east false there) s = .next t ∧
        t = raiseHalf east (pend q h [] (.shadows [f.key]) s) ∧ get t f = 0 ∧ (if east then t.fw.lowE else t.fw.lowW) = false) ∧
      (accepts { op := 0x0D05 } q true [] (need.map Obj.part) s →
        (need = [] → exec (.halfClock q east true there) s = .next (gated (fwWrite f 1) (pend q h [] (.slow east) s))) ∧
        (∀ m, need.find? (fun m => !runsSlow (standbySched s m) east || !there) = some m → exec (.halfClock q east true there) s =
          .next (respond q h 0x30 [] (notify 3 (some m) (fieldsOf [(1, m), (8, 0), (4, 0)]) s))) ∧
        (need ≠ [] → there = true → (∀ m, m ∈ need → runsSlow (standbySched s m) east = true) → exec (.halfClock q east true there) s = .next
          (let u := each need (fun m u => switchHere m k (tellMembers m mSwitch [k, 0, 0] u)) (pend q h (need.map Obj.part) (.slow east) s)
           planGate (lowerAt (lowTick u [east] k) [east] u))))) ∧
    (∀ c : CoreIx, accepts { op := 0x0903 } q (coreGood s c) [] [.core c] s →
      (logOf s c = none ∨ corePart s c = none → exec (.coreFence q c) s = .next (respond q h 0 [] (fenceCmd c s))) ∧
      (∀ l m, logOf s c = some l → corePart s c = some m → exec (.coreFence q c) s =
        .next (askPause m (pend q h [.core c, .part m] (.fenced c) s)))) ∧
    (∀ (c : CoreIx) (a : ArrIx), accepts { op := 0x0904 } q (get s (F.ARR_CTL_SLOT c a) ≠ 0xFFF && coreUp s c) [] [.core c] s →
      ∃ t, exec (.resteep q c a) s = .next t ∧ asked t c a = true ∧ slotSt t q.fn q.slot = 2 ∧ calm s t)

/-- R157, R159, R165, R167, R169, R203, R333: what an accepted command on a model or an adapter does: a load stages its image, makes its checks in order
and then pends; an unload frees the slots; a supply fetches; adapters are placed, replaced and unloaded. R154, R160, R168 to R173, R399 to R405: what
firmware does with golden copies, re-steep requests, suspect arrays, rounds, digests and a fenced core. -/
def Obligations.ModelsAdaptersAndWeightsAct : Prop :=
  (∀ (q : YReq) (hd : Word) (x : ImgIn) (m : Model) (failed : List (CoreIx × ArrIx)) (id gen : BitVec 16) (l : List SegIn) (i o : Nat) (s : State),
    let h := reqHeader s q.fn q.slot
    let p := fun (u : State) => pend q h [.adapter id.toNat] (.adapter id.toNat) u
    let rep : Replace := { id := id.toNat, gen := gen.toNat, force := force h, slot := none, old := o, unload := false, segs := l, fn := q.fn }
    (accepts { op := 0x0301 } q true [] [] s → loading s = true → exec (.modelLoad q x) s = .next (respond q h 2 [] s)) ∧
    (accepts { op := 0x0301 } q true [] [] s → loading s = false →
      let load := exec (.modelLoad q x) s
      let w := stageImage q.fn x s
      let s1 := w.2
      (w.1 ≠ 0 → load = .next (pend q h [] (.fails w.1) s1)) ∧
      (w.1 = 0 → parseImage x = none → load = .next (pend q h [] (.fails 3) s1)) ∧
      (∀ g, w.1 = 0 → parseImage x = some g → partBusy s1 g.img = true → load = .next (respond q h 2 [] s1)) ∧
      (∀ g, w.1 = 0 → parseImage x = some g → partBusy s1 g.img = false → load = .next (loadChecked q h x g s1) ∧
        (loadsOk s1 = false → load = .next (pend q h [] (.fails 5) s1)) ∧
        (loadsOk s1 = true → sameModel s1 g.img = some m → m.bound = true → load = .next (respond q h 0 (loadResult m) s1)) ∧
        (loadsOk s1 = true → (∀ y, sameModel s1 g.img = some y → y.bound = false) →
          let clash := s1.fw.models.any fun y => y.img.id == g.img.id && y.img.digest != g.img.digest
          (clash = true → load = .next (pend q h [] (.fails 3) s1)) ∧
          (∀ st, clash = false → loadFault s1 x g = some st → load = .next (pend q h [] (.fails st) (dropGolden x g s1))) ∧
          (clash = false → loadFault s1 x g = none → load = .next
            (pend q h [.model (loadHandle s1 g.img)] (.load (loadHandle s1 g.img))
              (admitModel (loadHandle s1 g.img) (imageText g x.key) g.img s1)))))) ∧
    (modelOf s hd.toNat = some m →
      (accepts { op := 0x0302 } q true [] [.model hd.toNat] s → modelBound s m = false →
        (force h = false → waitActive h = false → ∃ u, exec (.modelUnload q hd) s = .next (respond q h 0 [] u) ∧ modelOf u hd.toNat = none) ∧
        (force h = true → ∃ u, exec (.modelUnload q hd) s = .next (pend q h [.model hd.toNat]
          (.unload ((modelArrays s m).map fun a => (F.ARR_CTL_SLOT a.1 a.2).key) (modelArrays s m) true) u) ∧ modelOf u hd.toNat = none)) ∧
      (accepts { op := 0x0304 } q true [] [.model hd.toNat] s → m.bound = true →
        exec (.modelSupply q hd x failed) s = .next (respond q h 0 [] s)) ∧
      (accepts { op := 0x0304 } q true [] [.model hd.toNat] s → m.bound = false → partBusy s m.img = false →
        exec (.modelSupply q hd x failed) s = .next (let r := fetchModel m (some x) (pairs failed) s; respond q h r.1 [] r.2))) ∧
    (accepts { op := 0x0501 } q (segsOk l && id != 0xFFFF) [] [.adapter id.toNat] s → holdsId s id.toNat = false → freeAslot s = some i →
      segsFit l = true →
      let y := placeAdapter q.fn i gen.toNat l s
      (y.1 ≠ 0 → exec (.adapterLoad q id gen l) s = .next (pend q h [] (.fails y.1) y.2)) ∧
      (y.1 = 0 → exec (.adapterLoad q id gen l) s = .next (p (slotNotice i id.toNat gen.toNat 2 1 (loadingSlot i id.toNat gen.toNat y.2))))) ∧
    (accepts { op := 0x0502 } q (segsOk l) [] [.adapter id.toNat] s → curSlot s id.toNat = some o → segsFit l = true →
      (freeAslot s = none → exec (.adapterReplace q id gen l) s = .next (p (addReplace rep s))) ∧
      (freeAslot s = some i →
        let y := placeAdapter q.fn i gen.toNat l s
        (y.1 ≠ 0 → exec (.adapterReplace q id gen l) s = .next (pend q h [] (.fails y.1) y.2)) ∧
        (y.1 = 0 → exec (.adapterReplace q id gen l) s = .next (p (addReplace { rep with slot := some i, segs := [] }
          (slotNotice o id.toNat (get y.2 (F.SRV_ASLOT_GEN o)) 3 0
            (slotNotice i id.toNat gen.toNat 2 1 (loadingSlot i id.toNat gen.toNat y.2)))))))) ∧
    (accepts { op := 0x0503 } q true [] [.adapter id.toNat] s → curSlot s id.toNat = some o → get s (F.SRV_ASLOT_REFCNT o) = 0 ∨ force h = true →
      exec (.adapterUnload q id) s = .next (p (addReplace { id := id.toNat, gen := 65536, force := true, slot := none, old := o, unload := true, segs := [], fn := q.fn }
        (slotNotice o id.toNat (get s (F.SRV_ASLOT_GEN o)) 3 0 s))))) ∧
  (∀ (c : CoreIx) (a : ArrIx) (n : PartIx) (hd : Word) (x : Option ImgIn) (sch : SchedImg) (failed : List ArrIx) (bad : List (CoreIx × ArrIx)) (m : Model)
    (i : Nat) (g : ImgIn) (s : State),
    let f := failed.map fun k => (c.val, k.val)
    let waits := flag s (F.CORE_CTL_STATE_RUN_PEND c) || coreRuns s c
    (exec (.resteepRotation c failed) s = .next (if coreUp s c = true ∧ windowOk s c = true then
      (let u := upTo 2624 (dispose c f) s; each ((requests u c).take 64) (rotate c f) u) else s)) ∧
    (requests s c ≠ [] → emptySpare s c = none → coreUp s c = true →
      (waits = true → SMap.get 0 s.fw.deferAt c = 0 → exec (.resteepInPlace c failed) s =
        .next (updFw (fun k => { k with deferAt := SMap.put 0 k.deferAt c (now s + 1) }) s)) ∧
      (waits = false → exec (.resteepInPlace c failed) s = .next
        (let l := (requests s c).take 64
         let u := updFw (fun k => { k with deferAt := SMap.put 0 k.deferAt c 0 }) (each l (inPlace c f) s)
         match corePart u c with
         | some p => if (l.any fun k => arrState u c k == 5) = false ∧ ((partRec u p).map fun r => r.paused) = some true then resumePart p u else u
         | none => u))) ∧
    (∀ t, SMap.get 0 s.fw.deferAt c = t + 1 → corePart s c = some n.val →
      exec (.resteepDeferExpire c) s = .next (askPause n (moveTo (t + 86400000000000) s))) ∧
    (modelOf s hd.toNat = some m →
      (∀ r, partRec s n = some r → 1 < m.img.rounds → m.golden = true →
        (r.paused = false → exec (.roundSwitch n hd sch bad) s = .next (askPause n s)) ∧
        (r.paused = true → (records m.img).any (reloadWorn s) = true →
          exec (.roundSwitch n hd sch bad) s = .next (emit .net .report [0x173, n.val, 0x32] s)) ∧
        (r.paused = true → (records m.img).any (reloadWorn s) = false → goldClean s (records m.img) = true →
          (∀ d, d ∈ partPhys s m.img → coreUp s d = true ∧ windowOk s d = true) →
          (∀ e, imgFault s n sch = some e → exec (.roundSwitch n hd sch bad) s = .next (emit .net .report [0x173, n.val, e] s)) ∧
          (imgFault s n sch = none → exec (.roundSwitch n hd sch bad) s = .next
          (let cs := partPhys s m.img
           let s0 := enterTable m.img s
           let ix := tableIx s0 m.img
           let w := loadSlots { ix := ix, lim := 95000, failed := pairs bad, byContent := true } (records m.img) SlotsDone.none
             (each cs forgetContent s0)
           if w.1.waits = true then w.2
           else if w.1.lost = [] then finishRound n m (readSched sch.bytes) (finishSlots ix w.1.done (each cs fullCal w.2))
           else emit .net .report [0x173, n.val, 0x32] w.2)))) ∧
      (m.bound = false ∨ needsVerify s m = true → mode s = 1 → partBusy s m.img = false →
        (m.golden = true → exec (.goldenRestore hd x bad) s = .next (verifyModel m (pairs bad) s).2) ∧
        (m.golden = false → exec (.goldenRestore hd x bad) s = .next (let r := fetchModel m x (pairs bad) s
          if r.1 = 0 ∨ r.1 = 0x32 then r.2 else imageNeeded m (logRec [2, m.handle, r.1] r.2)))) ∧
      (∀ t, SMap.get 0 s.fw.retryAt hd.toNat = t + 1 → ∃ u, exec (.imageSourceRetry hd x bad) s =
        exec (.goldenRestore hd x bad) u ∧ u.fw.retryAt = SMap.put 0 s.fw.retryAt hd.toNat 0 ∧ calm s u ∧ sameRegsBut [F.TB_TIME_TIME] s u) ∧
      (m.golden = true →
        let rs := ((records m.img).drop (32 * i)).take 32
        let u := goldBad rs s
        let w := stageImage 0 { g with part := m.img.part } u.2
        let refetch := exec (.goldenRefetch hd i g) s
        (u.1 = false → refetch = .next u.2) ∧
        (u.1 = true → refetch = .next
          (let lost := fun (v : State) => logRec [2, m.handle, 6] v
           match (parseImage { g with part := m.img.part }).filter fun p => w.1 == 0 && p.img.digest == m.img.digest && keyOk s g p with
           | none => lost w.2
           | some p => match p.chunks[i]? with
             | none => lost w.2
             | some k =>
               let text := plainOf p.prefix_ g.key k
               let d := digestsHold text rs.zipIdx w.2
               if (tagOk p.img.id.toNat p.prefix_ g.key k && d.1) = true then
                 each rs.zipIdx (fun (r : GRec × Nat) s => mcWrite r.1.addr (recText text r.2) s) d.2
               else lost d.2)))) ∧
    (SMap.get 0 s.fw.retryAt hd.toNat = 0 → exec (.imageSourceRetry hd x bad) s = .next s) ∧
    (let t := s.fw.digestAt + s.fw.digestMin * 60000000000
     exec .digestInterval s = .next (each (s.fw.models.filter fun m => m.bound) digestModel
       (updFw (fun k => { k with digestAt := now (moveTo t s) }) (moveTo t s)))) ∧
    (flag s (F.ARR_STAT_SUSPECT c a) = true → actv s (F.ARR_CTL_SLOT c a) ≠ 0xFFF →
      let seen := s.fw.watches.any fun w => w.core == c.val && w.arr == a.val
      (∀ k, seen = false → coreUp s c = true → freeWatch s c = some k → ∃ t, exec (.suspectObserve c a) s = .next t ∧ calm s t ∧
        get t (F.PROOF_WATCH_EN c k) = 1 ∧ get t (F.PROOF_WATCH_SLOT c k) = actv s (F.ARR_CTL_SLOT c a) % 2 ^ (F.PROOF_WATCH_SLOT c k).width ∧
        t.fw.watches = s.fw.watches ++ [{ core := c, arr := a, slot := actv s (F.ARR_CTL_SLOT c a), entry := k
                                          till := get s F.TB_TICK_NUM_K + 100000 * coreDiv s c }]) ∧
      (seen = true ∨ freeWatch s c = none → ∃ t, exec (.suspectObserve c a) s = .next t ∧ calm s t ∧ asked t c a = true ∧
        (t.fw.watches.any fun w => w.core == c.val && w.arr == a.val) = false)) ∧
    (∀ w, s.fw.watches.find? (fun w => w.core == c.val && w.arr == a.val) = some w → w.till ≤ get s F.TB_TICK_NUM_K →
      exec (.suspectObservationEnd c a) s = .next (endWatch c a (if coreRuns s c = true then
        updCore c (fun k => { k with arrCmds := k.arrCmds ++ [(a.val, 4)] }) s else arrCmd c a 4 s))) ∧
    (coreState s c = 4 → unacked s 2 = true →
      (logOf s c = none ∨ corePart s c = none → exec (.faultPause c bad) s = .next (ackAll 2 s)) ∧
      ∀ l p, logOf s c = some l → corePart s c = some p →
      (standsStill s p = false → exec (.faultPause c bad) s = .next (askPause p s)) ∧
      (standsStill s p = true → exec (.faultPause c bad) s = .next (replaceOrPropose c l p (pairs bad) s))))

/-- R345, R350, R371, R373, R378, R379 to R382: life cycle, ownership, firmware update, shut-down and reset requests, management sessions, and the end of
a PENDING command. -/
def Obligations.LifeCycleAndFirmwareCommandsAct : Prop :=
  ∀ (q : YReq) (dst : Fin 8) (au : LcAuth) (own : OwnIn) (challenge : BitVec 256) (ver seq : Word) (lvl : Byte) (asks : Bool) (c : CoreIx) (o : DoneIn) (d : BitVec 384) (s : State),
    let h := reqHeader s q.fn q.slot
    let st := get s F.LC_STATE_STATE
    let may := fun (k : CmdRow) (l : List Obj) => accepts k q true [] l s
    (may { op := 0x0A02, min := true } [.lifeCycle] → dst.val ≠ st → anyPart s = false → loading s = false → lcAllowed s st dst = true →
      lcAuthOk s dst au = true → flag s F.MBX_CTL_MINIMAL = false → ∃ t, exec (.lcSet q dst au challenge) s = .next t ∧
      get t F.LC_CHALLENGE_VALUE = challenge.toNat ∧ t.fw.boot.journal = some (st, dst.val, false) ∧ get t F.LC_STATE_STATE = st ∧
      slotSt t q.fn q.slot = 2 ∧ calm s t) ∧
    (may { op := 0x0A02, min := true } [.lifeCycle] → dst.val ≠ st → anyPart s = false → loading s = false → lcAllowed s st dst = true →
      lcAuthOk s dst au = true → flag s F.MBX_CTL_MINIMAL = true → ∃ t, exec (.lcSet q dst au challenge) s = .next t ∧
      get t F.LC_CHALLENGE_VALUE = challenge.toNat ∧ get t F.LC_STATE_STATE = dst.val ∧ t.fw.boot.erasePend = true ∧
      t.fw.boot.journal = some (st, dst.val, true) ∧ t.fw.phase = .drain) ∧
    (may { op := 0x0A02, min := true } [.lifeCycle] → own.form = true → dst.val = st → st = 2 ∨ st = 3 → anyPart s = false → loading s = false →
      own.sig = true → own.owner = s.fw.own.isSome → own.dev.toNat = deviceId s → get s F.LC_OWN_SEQ_SEQ < own.seq.toNat → own.seq.toNat ≤ 64 →
      own.nImg.toNat ≤ 8 → own.nInst.toNat ≤ 4 → own.nMgmt.toNat ≤ 4 → ∃ t, exec (.ownershipInstall q dst own challenge) s = .next t ∧
      t.fw = { s.fw with own := some own } ∧ get t F.LC_OWN_SEQ_SEQ = own.seq.toNat ∧ get t F.LC_CHALLENGE_VALUE = challenge.toNat ∧
      slotSt t q.fn q.slot = 2 ∧ calm s t) ∧
    (may { op := 0x0B01, min := true } [.firmware] →
      let copy : FwCopy := { ver := ver.toNat, level := lvl.toNat, asks := asks, ok := false }
      ∃ t, exec (.fwStage q ver lvl asks) s = .next t ∧ t.fw.boot.staged = false ∧
      (if s.fw.boot.runB then t.fw.boot.copyA = copy ∧ t.fw.boot.copyB = s.fw.boot.copyB
       else t.fw.boot.copyB = copy ∧ t.fw.boot.copyA = s.fw.boot.copyA) ∧ slotSt t q.fn q.slot = 2 ∧ calm s t) ∧
    (may { op := 0x0B02, min := true } [.firmware] → anyRuns s = false → s.fw.boot.staged = true → ∀ done,
      (flag s F.MBX_CTL_MINIMAL = false → ∃ t, exec (.fwActivate q done) s = .next t ∧ flag t F.MBX_CTL_FW_UP = false ∧ get t F.GLB_MODE_MODE = 3 ∧
        (s.fw.pends = [] → flag t F.MBX_CTL_UPDATING = true ∧ slotSt t q.fn q.slot = 2 ∧ calm s t)) ∧
      (flag s F.MBX_CTL_MINIMAL = true → ∃ t, exec (.fwActivate q done) s = .next t ∧ flag t F.LC_RST_CAUSE_INTERNAL = true ∧
        t.fw.phase = .step 0 ∧ t.fw.boot.attempts = 0 ∧ t.fw.boot.staged = false)) ∧
    (may { op := 0x0C01 } [] → anyRuns s = false → ∃ t, exec (.shutdown q) s = .next t ∧ slotSt t q.fn q.slot = 2 ∧ t.fw.phase = .shut ∧
      (force h = true → t.pwroff = true) ∧ (force h = false → get t F.LC_BIST_STAT_STATE = 1)) ∧
    (accepts { op := 0x0C03 } q true [] [.core c] s → inSafe s = false → s.fw.phase ≠ .drain → coreGood s c = true →
      coreState s c = 2 ∨ coreState s c = 4 → resetBusy s c = false →
      exec (.reset q (.core c)) s = .next (startReset c (bump F.LC_CORE_RST_CNT (respond q h 0 [] s)))) ∧
    (accepts { op := 0x0C03 } q true [] [.core c] s → inSafe s = false → s.fw.phase ≠ .drain → coreGood s c = true →
      coreState s c ≠ 2 → coreState s c ≠ 4 → resetBusy s c = false → exec (.reset q (.core c)) s = .next (respond q h 0 [] s)) ∧
    (∀ k, accepts { op := 0x0C03 } q true [] ((scopeCores (.cluster k)).map .core) s → inSafe s = false → s.fw.phase ≠ .drain →
      (∀ d, d ∈ scopeCores (.cluster k) → coreGood s d = true → resetBusy s d = false) →
      exec (.reset q (.cluster k)) s = .next (resetCluster k (respond q h 0 [] s))) ∧
    (accepts { op := 0x0C03 } q true [] [] s → s.fw.phase ≠ .drain → exec (.reset q .warm) s = .next (startWarm (respond q h 0 [] s))) ∧
    (flag s F.MBX_CTL_FW_UP = true → ∀ p, pendOf s q.fn seq.toNat = some p →
      (inSafe s = true → needsData p.act = true → exec (.pendingComplete q.fn seq o) s = .next (endPend p 0x17 [] s)) ∧
      ((inSafe s && needsData p.act) = false → actDone s p = true → exec (.pendingComplete q.fn seq o) s = .next (finishAct p o s)) ∧
      ((inSafe s && needsData p.act) = false → actDone s p = false → (∀ t, p.due = some t → now s < t) → exec (.pendingComplete q.fn seq o) s = .next s) ∧
      (∀ t, (inSafe s && needsData p.act) = false → actDone s p = false → p.due = some t → t ≤ now s →
        (∀ st, lateStatus p.act = some st → exec (.pendingComplete q.fn seq o) s = .next (endPend p st [] (giveUp p.act s))) ∧
        (lateStatus p.act = none → exec (.pendingComplete q.fn seq o) s = .next s))) ∧
    (∀ w, s.fw.own = some w → d ∈ (w.roots.drop (w.nImg.toNat + w.nInst.toNat)).take w.nMgmt.toNat → s.fw.keyOff = false →
      flag s F.MBX_CTL_FW_UP = true → s.fw.sessions < 4 → exec (.mgmtSessionHandshake (.root d)) s =
      .next (updFw (fun k => { k with sessions := k.sessions + 1 }) s)) ∧
    (s.fw.own.isSome = true → st = 1 → s.fw.keyOff = false → flag s F.MBX_CTL_FW_UP = true → s.fw.sessions < 4 →
      exec (.mgmtSessionHandshake .engineering) s = .next (updFw (fun k => { k with sessions := k.sessions + 1 }) s)) ∧
    (exec (.mgmtSessionHandshake .none) s = .next s) ∧ (∀ e, 4 ≤ s.fw.sessions → exec (.mgmtSessionHandshake e) s = .next s)

/-- R6: an LM940-E answers LC_DENIED (05h) to a transition to FIELD, and no LC_SET moves it there. -/
def Obligations.EngineeringDeviceNeverReachesField : Prop :=
  ∀ (q : YReq) (au : LcAuth) (challenge : BitVec 256) (s : State), get s F.GLB_ID_PART = 0x0E →
    (accepts { op := 0x0A02, min := true } q true [] [.lifeCycle] s → get s F.LC_STATE_STATE ≠ 3 → anyPart s = false → loading s = false →
      ∃ t, exec (.lcSet q 3 au challenge) s = .next t ∧ slotSt t q.fn q.slot = 2 ∧ leAt (mbBytes t q.fn (rspOfs q.slot) 64) 10 1 = 5) ∧
    ∃ t, exec (.lcSet q 3 au challenge) s = .next t ∧ get t F.LC_STATE_STATE = get s F.LC_STATE_STATE

/-! ### Resets, start and self-test -/

/-- R375, R434, R436, R442, R445, R447: each cause of a cold reset leaves its bit, the start at step 0, the fused life cycle, the log and the queue, and
empty memories but for the array cells; the test access port reads IDCODE again; the watchdog kick moves its start, and an expiry before NORMAL is
logged; VDD_AON low holds the package; without a reference clock the ports that train fail. A package that is shut down takes no reset by LC_RST
(R371). R368 to R374, R377, R383, R369: a warm reset drains, then begins at step 2 with an empty network plane; a cluster reset resets its cores; the
self-test runs and ends; firmware restarts; the powered time is saved; a BLANK device becomes FACTORY_TEST. -/
def Obligations.ResetsRun : Prop :=
  (∀ (s : State),
    let cold := fun (i : Instr) (cause : Fld) => ∃ t, exec i s = .next t ∧ flag t cause = true ∧ t.fw.phase = .step 0 ∧ t.fw.log = s.fw.log ∧
      t.fw.plan = s.fw.plan ∧ t.fw.cycles = s.fw.cycles ∧ get t F.LC_STATE_STATE = get s F.LC_STATE_STATE % 8 ∧ t.mem.stk = [] ∧ t.mem.spad = [] ∧ t.mem.prog = [] ∧
      t.mem.wts = s.mem.wts ∧ t.mesh = [] ∧ t.cores = State.reset.cores ∧ t.pending = s.pending ∧ t.badArr = s.badArr ∧ tapReads t = some (idcode t)
    exec .sysRstAssert s = .next (coldReset F.LC_RST_CAUSE_PIN { s with pwroff := false }) ∧ (cold .sysRstAssert F.LC_RST_CAUSE_PIN) ∧
    (s.fw.phase ≠ .shut → cold (.lcRstCold .mgmt) F.LC_RST_CAUSE_INTERNAL) ∧ (s.fw.phase = .shut → exec (.lcRstCold .mgmt) s = .next s) ∧
    (get s F.LC_WDOG_TIMEOUT_MS ≠ 0 → (∀ n, s.fw.phase ≠ .step n) → cold .watchdogExpire F.LC_RST_CAUSE_WATCHDOG) ∧
    (∀ n, get s F.LC_WDOG_TIMEOUT_MS ≠ 0 → s.fw.phase = .step n → ∃ t, exec .watchdogExpire s = .next t ∧ flag t F.LC_RST_CAUSE_WATCHDOG = true ∧
      t.fw.phase = .step 0 ∧ t.fw.log = s.fw.log ++ [[1, 0xB, n, n]] ∧ t.fw.boot.reason = 0xB ∧ t.fw.boot.detail = n ∧ t.fw.boot.step = n) ∧
    (get s F.LC_WDOG_TIMEOUT_MS = 0 → exec .watchdogExpire s = .next s) ∧
    (exec (.lcRstCold .host) s = .next (denied s) ∧ exec (.watchdogKick .host) s = .next (denied s)) ∧
    (s.fw.phase = .up ∨ s.fw.phase = .drain ∨ s.fw.phase = .shut → cold (.refclkLoss .core) F.LC_RST_CAUSE_WATCHDOG) ∧
    (∀ n, s.fw.phase = .step n → (n < 2 → exec (.refclkLoss .core) s = .next s) ∧
      (n = 2 → exec (.refclkLoss .core) s = .next (failStart 4 0 2 s)) ∧ (2 < n → cold (.refclkLoss .core) F.LC_RST_CAUSE_WATCHDOG)) ∧
    (s.fw.phase = .held → exec (.refclkLoss .core) s = .next s) ∧
    (∃ t, exec (.refclkLoss .sdWest) s = .next t ∧ ∀ p : PortIx, pState t p = if p.val < 6 ∧ pState s p = 1 then 6 else pState s p) ∧
    (∃ t, exec (.refclkLoss .sdEast) s = .next t ∧ ∀ p : PortIx, pState t p = if 6 ≤ p.val ∧ pState s p = 1 then 6 else pState s p) ∧
    (s.fw.phase = .held → cold (.powerOnDetect true) F.LC_RST_CAUSE_POWER_ON) ∧
    (∃ t, exec (.powerOnDetect false) s = .next t ∧ t.fw.phase = .held ∧ t.mem.stk = [] ∧ t.pwroff = false) ∧
    (s.fw.phase ≠ .held → exec (.powerOnDetect true) s = .next s) ∧
    (exec (.watchdogKick .mgmt) s = .next (updFw (fun k => { k with wdogAt := now s }) s)) ∧
    (∃ t, exec (.refclkLoss .px) s = .next t ∧ get t F.GLB_PCIE_STAT_WIDTH = 0 ∧ get t F.GLB_PCIE_STAT_SPEED = 0 ∧ calm s t)) ∧
  (∀ (k : Fin 4) (o : BistOut) (ok : Bool) (s : State),
    let warm := fun (i : Instr) => ∃ t, exec i s = .next t ∧ t.fw.phase = .step 2 ∧ t.fw.parts = [] ∧ get t F.GLB_MODE_MODE = 0 ∧
      flag t F.FLT_STAT_SAFE = false ∧ t.mesh = [] ∧ t.mem.stk = [] ∧ t.fw.plan = s.fw.plan ∧ t.fw.log = s.fw.log
    (s.fw.phase ≠ .drain → s.fw.phase ≠ .shut → ∃ t, exec (.lcRstWarm .mgmt) s = .next t ∧ t = startWarm s ∧ t.fw.phase = .drain ∧
      t.mem.stk = s.mem.stk ∧ ∀ p : PortIx, pState t p = 0) ∧
    (s.fw.phase = .drain ∨ s.fw.phase = .shut → exec (.lcRstWarm .mgmt) s = .next s) ∧
    (s.fw.phase = .shut → exec (.lcRstCluster .mgmt k) s = .next s) ∧
    (s.fw.phase = .drain → anyInFlight s = false → warm (.resetDrainDone none)) ∧ (s.fw.phase = .drain → warm (.drainTimeout none)) ∧
    (s.fw.phase ≠ .shut → ∃ t, exec (.lcRstCluster .mgmt k) s = .next t ∧
      get t F.LC_CLUSTER_RST_CNT = min (get s F.LC_CLUSTER_RST_CNT + 1) (2 ^ 64 - 1) % 2 ^ 64 ∧
      (∀ c : CoreIx, c.val / 5 = k.val → coreGood s c = true → coreState s c = 2 ∨ coreState s c = 3 ∨ coreState s c = 4 → coreState t c = 1) ∧
      ∀ c : CoreIx, c.val / 5 ≠ k.val → coreState t c = coreState s c) ∧
    (logicIdle s = true → get s F.LC_STATE_STATE = 1 → ∀ a, exec (.bistRun a) s = .next (set F.LC_BIST_STAT_STATE 1 s)) ∧
    (logicIdle s = true → get s F.LC_STATE_STATE ≠ 5 → s.fw.phase = .shut → exec (.bistRun .mgmt) s = .next (set F.LC_BIST_STAT_STATE 1 s)) ∧
    (get s F.LC_STATE_STATE ≠ 1 → exec (.bistRun .host) s = .next (denied s) ∧ exec (.bistRun .jtag) s = .next s ∧
      (s.fw.phase ≠ .shut → exec (.bistRun .mgmt) s = .next s)) ∧
    (logicIdle s = false → exec (.bistRun .mgmt) s = .next s) ∧
    (get s F.LC_BIST_STAT_STATE = 1 → (∀ n, s.fw.phase = .step n → o.pass = true) → ∃ t, exec (.bistDone o) s = .next t ∧
      get t F.LC_BIST_STAT_STATE = (if o.pass then 2 else 3) ∧ get t F.LC_BIST_STAT_COV = o.cov.toNat ∧ get t F.LC_BIST_SIG_SIG = o.sig.toNat ∧
      t.fw.boot.bist.length ≤ 2 ∧ (t.fw.boot.bist.getLast?).map (fun r => r.pass) = some o.pass) ∧
    (get s F.LC_BIST_STAT_STATE ≠ 1 → exec (.bistDone o) s = .next s) ∧
    (∃ t, exec .poweredTimeSave s = .next t ∧ t.fw = { s.fw with boot := { s.fw.boot with base := t.fw.boot.base } } ∧ s.fw.ptStart ≤ t.fw.boot.base ∧
      calm s t ∧ sameRegsBut [] s t) ∧
    (flag s F.MBX_CTL_UPDATING = true → flag s F.MBX_CTL_FW_UP = false →
      let good := ok && decide (s.phys.rollback ≤ (if s.fw.boot.runB then s.fw.boot.copyA else s.fw.boot.copyB).level)
      ∃ t, exec (.firmwareRestartEnd ok) s = .next t ∧
      flag t F.MBX_CTL_UPDATING = false ∧ flag t F.MBX_CTL_FW_UP = true ∧ t.fw.actFailed = !good ∧ t.fw.boot.staged = false ∧
      t.fw.boot.runB = (if good then !s.fw.boot.runB else s.fw.boot.runB) ∧ calm s t) ∧
    (get s F.LC_STATE_STATE = 0 → ∃ t, exec .jtagFuseProgramming s = .next t ∧ get t F.LC_STATE_STATE = 1 ∧ flag t F.LC_STATE_FI_EN = true ∧
      sameRegsBut [F.LC_STATE_STATE, F.LC_STATE_FI_EN, F.LC_STATE_SLOTS] s t ∧ calm s t ∧ t.fw = s.fw ∧ tapReads t = none) ∧
    (get s F.LC_STATE_STATE ≠ 0 → exec .jtagFuseProgramming s = .next s))

/-- R172, R257, R358 to R366, Table 13.1: each step of the start order that meets no failure makes the next one due: step 3 once the stacks have trained
and then cleared, step 5 once step 4 has ended and no pending erase waits for the temperature, which ends in NORMAL. A channel that cannot be trained
shows FAILED first (the model's choice, log 67); a step that fails or exceeds its limit starts again, or after three attempts enters minimal mode;
step 4 fails no start. -/
def Obligations.StartStepsRun : Prop :=
  ∀ (x : StartIn) (s : State),
    let goes := fun (n : Nat) (P : State → Prop) => s.fw.phase = .step n → failedStack s = none → x.fail = none →
      ∃ t, exec (.packageStart x) s = .next t ∧ P t
    let rom := romCopy s.phys.rollback s.fw.boot
    let stk0 := get s (F.STK_STAT_STATE 0)
    let bad := x.mcodeBad.map fun c => c.val
    let ok := (allCores.filter fun c => coreGood s c && coreState s c == cReset).filter fun c => !bad.contains c
    let fails := fun (i : Instr) (reason : Nat) => ∃ t, exec i s = .next t ∧ t.fw.boot.reason = reason ∧
      (3 ≤ s.fw.boot.attempts → t.fw.phase = .up ∧ flag t F.MBX_CTL_MINIMAL = true ∧ get t F.GLB_MODE_MODE = 2) ∧
      (s.fw.boot.attempts < 3 → t.fw.phase = .step 0 ∧ flag t F.LC_RST_CAUSE_INTERNAL = true)
    let open4 := fun (n : Nat) => n = 5 ∧ s.fw.stepFour = true
    (goes 0 fun t => t.fw.phase = .step 1 ∧ get t F.LC_CHALLENGE_VALUE = x.challenge.toNat ∧ t.fw.wdogAt = now s ∧ calm s t) ∧
    (∀ b c, rom = some (b, c) → get s F.LC_STATE_STATE ≠ 5 → s.fw.boot.attempts < 3 → x.bist.pass = true → goes 1 fun t =>
      t.fw.phase = .step 2 ∧ t.fw.boot.attempts = s.fw.boot.attempts + 1 ∧ t.fw.boot.runB = b ∧ flag t F.MBX_CTL_FW_UP = true ∧ calm s t) ∧
    (rom = none ∨ get s F.LC_STATE_STATE = 5 ∨ 3 ≤ s.fw.boot.attempts → goes 1 fun t =>
      t.fw.phase = .up ∧ flag t F.MBX_CTL_MINIMAL = true ∧ get t F.GLB_MODE_MODE = 2) ∧
    (get s F.LC_STATE_STATE ≠ 5 → goes 2 fun t => t.fw.phase = .step 3 ∧ t.mem = s.mem ∧ t.cores = s.cores ∧
      (∀ n, n < 3 → get t (F.STK_STAT_STATE n) = 1) ∧
      ∀ c : CoreIx, routerPresent s c = true → flag s (F.RTR_CTL_EN c) = false → flag t (F.RTR_STAT_EN_ACT c) = true) ∧
    (stk0 = 1 → goes 3 fun t => t.fw.phase = .step 3 ∧ t.mem.stk = s.mem.stk ∧ (∀ n, n < 3 → get t (F.STK_STAT_STATE n) = 2) ∧
      ∀ c : CoreIx, coreGood s c = true → coreState t c = 1) ∧
    (stk0 ≠ 1 → x.windows.length ≤ 4 → goes 3 fun t => t.fw.phase = .step 4 ∧ t.mem.stk = [] ∧ ∀ n, n < 3 → get t (F.STK_STAT_STATE n) = 3) ∧
    (∀ d : Byte, d.toNat < 96 → s.fw.phase = .step 3 → failedStack s = none → stk0 = 1 → x.fail = some (7, d) → exec (.packageStart x) s =
      .next (set (F.STK_STAT_STATE (d.toNat / 32)) 4 (set (F.STK_STAT_FAIL_CH (d.toNat / 32)) (d.toNat % 32) s))) ∧
    (∀ k n, failedStack s = some k → s.fw.phase = .step n → ¬ open4 n → (fails (.packageStart x) 7) ∧ (n ≠ 4 → fails .startStepTimeout 7)) ∧
    (s.fw.phase = .step 4 → failedStack s = none → ∃ t, exec (.packageStart x) s = .next t ∧ t = start4 x s ∧ t.fw.phase = .step 5 ∧ t.fw.stepFour = true ∧
      t.mem = s.mem ∧ flag t F.LC_START_FAST = true ∧ ∀ p : PortIx, pState s p = 0 → pState t p = 1) ∧
    (open4 5 → fourEnded s = false → s.fw.phase = .step 5 → exec (.packageStart x) s = .next s) ∧
    (eraseWaits s = false → s.fw.stepFour = false ∨ fourEnded s = true → 16 ≤ ok.length → goes 5 fun t =>
      t.fw.phase = .up ∧ get t F.GLB_MODE_MODE = 1 ∧ t.fw.boot.attempts = 0 ∧ t.fw.boot.erasePend = false) ∧
    (eraseWaits s = true → goes 5 fun t => t = s) ∧
    (∀ n, s.fw.phase = .step n → failedStack s = none → n ≠ 4 → ¬ open4 n → fails .startStepTimeout 0xE) ∧
    (s.fw.phase = .step 4 → exec .startStepTimeout s = .next (toStep 5 (activatePlan s))) ∧
    (s.fw.phase = .step 5 → s.fw.stepFour = true → exec .startStepTimeout s = .next (updFw (fun k => { k with stepFour := false }) s)) ∧
    (∀ n f, s.fw.phase = .step n → failedStack s = none → n ≠ 4 → ¬ open4 n → x.fail = some f →
      (finalReason f.1.toNat = false → ¬ (n = 3 ∧ f.1 = 7 ∧ f.2.toNat < 96 ∧ stk0 = 1) → fails (.packageStart x) f.1.toNat) ∧
      (finalReason f.1.toNat = true → ∃ t, exec (.packageStart x) s = .next t ∧
        t.fw.boot.reason = f.1.toNat ∧ t.fw.phase = .up ∧ flag t F.MBX_CTL_MINIMAL = true)) ∧
    ((∀ n, s.fw.phase ≠ .step n) → exec (.packageStart x) s = .next s ∧ exec .startStepTimeout s = .next s)

/-! ### Partitions across packages -/

/-- R307 to R311, R399: a notice of an agreed tick is noted; the coordinator picks the tick of a stop or a pause, hears who is ready, and starts the
partition once all are; RUN is written in its interval. R118, R226, R228, R308: the coordinator keeps a member's report of a window until all are in
and decides on it then; windows are numbered anew when their length has changed; a switch that another member agreed is planned and made through the
gate; acknowledgements are noted, and after two windows without one the standby takes the coordinator's role or a member turns to it. -/
def Obligations.PartitionMessagesAct : Prop :=
  (∀ (n : PartIx) (k : Word64) (m : BitVec 16) (r : PartRec) (s : State), partRec s n = some r →
    let upd := fun (f : PartRec → PartRec) => updPart n f s
    let all := fun (l : NSet) => (List.range r.members.length).all fun i => NSet.has l i
    let ahead := fun (lead : Nat) (u : State) => roundUp (curK u + lead) (partDiv u n)
    (exec (.partitionStartNotice n k) s = .next (upd fun x => { x with startK := some k.toNat })) ∧
    (exec (.partitionStopNotice n k) s = .next (stopIfDue n (curK s) (upd fun x => { x with stopK := some k.toNat }))) ∧
    (exec (.pauseNotice n k) s = .next (stopIfDue n (curK s) (upd fun x => { x with pauseK := some k.toNat }))) ∧
    (exec (.partitionResetNotice n k) s = .next (stopIfDue n (curK s) (upd fun x => { x with resetK := some k.toNat }))) ∧
    (∀ (i : Instr) (c : Nat), i = .partitionStopNotice n k ∨ i = .pauseNotice n k ∨ i = .partitionResetNotice n k →
      c ∈ partCores s n → coreState s c = 3 → coreGood s c = true → netHeld s = false → k.toNat ≤ curK s + partDiv s n →
      ∃ t, exec i s = .next t ∧ flag t (F.CORE_CTL_STATE_STOP_PEND c) = true ∧ t.mem = s.mem ∧ t.cores = s.cores ∧ t.act = s.act) ∧
    (r.own = r.coord →
      exec (.partitionStopRequest n false) s = .next (stopAt n (ahead 65 s) (tellMembers n mStop [ahead 65 s] s)) ∧
      exec (.partitionStopRequest n true) s = .next (pickStart n (stopAt n (ahead 1 s) (tellMembers n mStop [ahead 1 s] s))) ∧
      (r.paused = false → r.pauseK = none →
        exec (.pauseRequest n) s = .next (pauseAt n (ahead 65 s) (tellMembers n mPause [ahead 65 s] s))) ∧
      (r.paused = true ∨ r.pauseK.isSome = true → exec (.pauseRequest n) s = .next s) ∧
      (all (NSet.add r.ready m.toNat) = false → exec (.readyReport n m) s = .next (upd fun x => { x with ready := NSet.add x.ready m.toNat })) ∧
      (all (NSet.add r.ready m.toNat) = true → ∃ t, exec (.readyReport n m) s = .next t ∧
        partRec t n = some { r with ready := [], startK := some (ahead (winLen s n + 1) s), restart := false } ∧
        t.mem = s.mem ∧ t.cores = s.cores ∧ t.act = s.act ∧ t.regs = s.regs)) ∧
    (r.own ≠ r.coord → exec (.partitionStopRequest n false) s = .next s ∧ exec (.partitionStopRequest n true) s = .next s ∧ exec (.pauseRequest n) s = .next s ∧ exec (.readyReport n m) s = .next s) ∧
    (∀ t, r.startK = some t →
      (curK s + partDiv s n < t → exec (.partitionRunWrite n) s = .next s) ∧
      (t ≤ curK s + partDiv s n → now s ≤ boundaryAt s t - 200 → exec (.partitionRunWrite n) s = .next (each (partCores s n) runCmd
        (updPart n (fun r => { r with startK := none }) (moveTo (boundaryAt s (t - partDiv s n) + 100) s)))) ∧
      (t ≤ curK s + partDiv s n → boundaryAt s t - 200 < now s → exec (.partitionRunWrite n) s = .next
        (let u := emit .net .report [0x309, n.val] (updPart n (fun r => { r with startK := none }) s)
         let k := aheadK u n 1
         if r.own = r.coord then pickStart n (stopAt n k (tellMembers n mStop [k] u)) else toCoord n mMissed [] u))) ∧
    (r.startK = none → exec (.partitionRunWrite n) s = .next s)) ∧
  (∀ (n : PartIx) (m : BitVec 16) (w k : Word64) (layers : List (BitVec 12)) (wide reach scale thr : Bool) (r : PartRec) (s : State),
    let z := renumber n s
    partRec z n = some r →
    let fb := r.fbReps ++ [(w.toNat, m.toNat, layers.map fun l => l.toNat, wide)]
    let ov := r.ovReps ++ [(w.toNat, m.toNat, k.toNat, wide)]
    let fbIn := updPart n (fun r => { r with fbReps := fb, wides := putMember r.wides m.toNat wide }) z
    let ovIn := updPart n (fun r => { r with ovReps := ov, longs := putMember r.longs m.toNat wide }) z
    let allIn := fun (l : Nat → Bool) => (List.range r.members.length).all l
    (winLen s n = (match partRec s n with | some p => p.wlen | none => 0) → z = s) ∧
    (∀ p, partRec s n = some p → p.wlen ≠ winLen s n → let v := curK s / winLen s n - 1
      r = { p with wlen := winLen s n, winDone := v, fbDone := v, ovDone := v, fbReps := [], ovReps := [] }) ∧
    (r.own = r.coord → (r.fbDone ≤ w.toNat → (r.fbReps.any fun x => x.1 == w.toNat && x.2.1 == m.toNat) = false →
        exec (.fallbackReport n m w layers wide) s =
          .next (if allIn (fun i => fb.any fun x => x.1 == w.toNat && x.2.1 == i) = true then decideFb n w.toNat fbIn else fbIn)) ∧
      (w.toNat < r.fbDone ∨ (r.fbReps.any fun x => x.1 == w.toNat && x.2.1 == m.toNat) = true → exec (.fallbackReport n m w layers wide) s = .next z)) ∧
    (r.own = r.coord → (r.ovDone ≤ w.toNat → (r.ovReps.any fun x => x.1 == w.toNat && x.2.1 == m.toNat) = false →
        exec (.overrunReport n m w k wide) s =
          .next (if allIn (fun i => ov.any fun x => x.1 == w.toNat && x.2.1 == i) = true then decideOv n w.toNat ovIn else ovIn)) ∧
      (w.toNat < r.ovDone ∨ (r.ovReps.any fun x => x.1 == w.toNat && x.2.1 == m.toNat) = true → exec (.overrunReport n m w k wide) s = .next z)) ∧
    (r.own ≠ r.coord → exec (.fallbackReport n m w layers wide) s = .next s ∧ exec (.overrunReport n m w k wide) s = .next s) ∧
    (∀ v, lastWindow s n = some v → exec (.overrunWindowEnd n) s = .next (if v < r.winDone then s else windowReports n v r z)) ∧
    (lastWindow s n = none → exec (.overrunWindowEnd n) s = .next s) ∧
    (∃ t, exec (.switchNotice n k scale thr) s = .next t ∧ t.act = s.act ∧ t.mem = s.mem ∧ t.cores = s.cores ∧
      (gateBusy s = false → plannedK t n = some (match plannedK s n with | some p => min p k.toNat | none => k.toNat)) ∧
      (flag s F.TB_STAT_GATE_ARMED = false → (∀ p, p < 16 → plannedK s p = none) → s.fw.halfAt = [] → throttled s false = false → throttled s true = false →
        netHeld s = false → flag s F.TB_STAT_TICK_ON = false ∨ now s < boundaryAt s k.toNat → (∀ c, c ∈ partCores s n → coreUp s c = true) →
        flag t F.TB_STAT_GATE_ARMED = true ∧ t.time.gateK = k.toNat ∧ ∀ c, c ∈ partCores s n → get t (F.SEQ_CTL_BANK c) = 1 - bankOf s n)) ∧
    (∃ t, exec (.windowAck n) s = .next t ∧ (partRec s n).isSome = true ∧ partRec t n = (partRec s n).map (fun r => { r with acked := true, missed := 0 }) ∧
      t.regs = s.regs ∧ calm s t) ∧
    (∀ p, partRec s n = some p → 2 ≤ p.missed → p.own ≠ p.coord →
      (p.own = 1 → ∃ t, exec (.coordinatorSilent n reach) s = .next t ∧ partRec t n = some { p with coord := 1, missed := 0 } ∧ calm s t) ∧
      (p.own ≠ 1 → ∃ t, exec (.coordinatorSilent n true) s = .next t ∧ partRec t n = some { p with toStandby := true, missed := 0 } ∧ calm s t) ∧
      (p.own ≠ 1 → ∃ t, exec (.coordinatorSilent n false) s = .next t ∧ t.fw = s.fw ∧
        (∀ c, c ∈ partCores s n → netHeld s = false → coreGood s c = true → coreState s c = 3 → flag t (F.CORE_CTL_STATE_STOP_PEND c) = true) ∧ calm s t)) ∧
    (∀ p, partRec s n = some p → p.missed < 2 ∨ p.own = p.coord → exec (.coordinatorSilent n reach) s = .next s))
end

