-- ==== Sys2Proof/Laws/Arms.lean ====
section
/-! SUPPORT. The meaning that `exec` calls for each command. -/
namespace Sys2Proof.Machine

theorem exec_registerWrite (a) (pg) (addr) (wide) (v) (s : State) : exec (.registerWrite a pg addr wide v) s = execRegisterWrite a pg addr wide v s := rfl
theorem exec_registerReadLatch (a) (pg) (addr) (wide) (s : State) : exec (.registerReadLatch a pg addr wide) s = execRegisterReadLatch a pg addr wide s := rfl
theorem exec_snapTake (a) (addr) (clear) (s : State) : exec (.snapTake a addr clear) s = execSnapTake a addr clear s := rfl
theorem exec_tickBoundary (moe) (s : State) : exec (.tickBoundary moe) s = execTickBoundary moe s := rfl
theorem exec_caddyTtlExpire (e) (s : State) : exec (.caddyTtlExpire e) s = execCaddyTtlExpire e s := rfl
theorem exec_guardBandStart (s : State) : exec (.guardBandStart) s = execGuardBandStart s := rfl
theorem exec_fire (issue) (s : State) : exec (.fire issue) s = execFire issue s := rfl
theorem exec_inputLoad (c) (slot) (s : State) : exec (.inputLoad c slot) s = execInputLoad c slot s := rfl
theorem exec_firingStart (c) (slot) (s : State) : exec (.firingStart c slot) s = execFiringStart c slot s := rfl
theorem exec_firingHandoff (c) (slot) (s : State) : exec (.firingHandoff c slot) s = execFiringHandoff c slot s := rfl
theorem exec_proofGoldLine (c) (second) (issue) (s : State) : exec (.proofGoldLine c second issue) s = execProofGoldLine c second issue s := rfl
theorem exec_proofStart (c) (s : State) : exec (.proofStart c) s = execProofStart c s := rfl
theorem exec_proofComplete (c) (s : State) : exec (.proofComplete c) s = execProofComplete c s := rfl
theorem exec_verified (c) (n) (slot) (fmt) (s : State) : exec (.verified c n slot fmt) s = execVerified c n slot fmt s := rfl
theorem exec_retire (c) (n) (slot) (fmt) (s : State) : exec (.retire c n slot fmt) s = execRetire c n slot fmt s := rfl
theorem exec_arrEmpty (c) (n) (slot) (fmt) (s : State) : exec (.arrEmpty c n slot fmt) s = execArrEmpty c n slot fmt s := rfl
theorem exec_clearSuspect (c) (n) (slot) (fmt) (s : State) : exec (.clearSuspect c n slot fmt) s = execClearSuspect c n slot fmt s := rfl
theorem exec_arrTrimWrite (a) (c) (n) (gain) (v) (s : State) : exec (.arrTrimWrite a c n gain v) s = execArrTrimWrite a c n gain v s := rfl
theorem exec_quant (issue) (s : State) : exec (.quant issue) s = execQuant issue s := rfl
theorem exec_promote (issue) (s : State) : exec (.promote issue) s = execPromote issue s := rfl
theorem exec_emit (issue) (s : State) : exec (.emit issue) s = execEmit issue s := rfl
theorem exec_accClear (issue) (s : State) : exec (.accClear issue) s = execAccClear issue s := rfl
theorem exec_leavenWindowEnd (c) (s : State) : exec (.leavenWindowEnd c) s = execLeavenWindowEnd c s := rfl
theorem exec_leavenCtlWrite (c) (v) (s : State) : exec (.leavenCtlWrite c v) s = execLeavenCtlWrite c v s := rfl
theorem exec_fmaxClear (c) (n) (s : State) : exec (.fmaxClear c n) s = execFmaxClear c n s := rfl
theorem exec_fallbackReport (n) (m) (w) (layers) (wide) (s : State) : exec (.fallbackReport n m w layers wide) s = execFallbackReport n m w layers wide s := rfl
theorem exec_calFull (c) (set) (target) (s : State) : exec (.calFull c set target) s = execCalFull c set target s := rfl
theorem exec_calArray (c) (n) (set) (target) (s : State) : exec (.calArray c n set target) s = execCalArray c n set target s := rfl
theorem exec_interpNow (c) (s : State) : exec (.interpNow c) s = execInterpNow c s := rfl
theorem exec_clearCorr (c) (n) (all) (s : State) : exec (.clearCorr c n all) s = execClearCorr c n all s := rfl
theorem exec_clearStats (c) (n) (all) (s : State) : exec (.clearStats c n all) s = execClearStats c n all s := rfl
theorem exec_calCmdDone (c) (s : State) : exec (.calCmdDone c) s = execCalCmdDone c s := rfl
theorem exec_calInterpEnable (c) (s : State) : exec (.calInterpEnable c) s = execCalInterpEnable c s := rfl
theorem exec_calPassStart (c) (s : State) : exec (.calPassStart c) s = execCalPassStart c s := rfl
theorem exec_calPassEnd (c) (s : State) : exec (.calPassEnd c) s = execCalPassEnd c s := rfl
theorem exec_calMonitorPeriodEnd (c) (s : State) : exec (.calMonitorPeriodEnd c) s = execCalMonitorPeriodEnd c s := rfl
theorem exec_calStoreWrite (a) (c) (w) (v) (s : State) : exec (.calStoreWrite a c w v) s = execCalStoreWrite a c w v s := rfl
theorem exec_steepGo (c) (count) (s : State) : exec (.steepGo c count) s = execSteepGo c count s := rfl
theorem exec_batchStart (c) (s : State) : exec (.batchStart c) s = execBatchStart c s := rfl
theorem exec_steepBatchEnd (c) (fail) (s : State) : exec (.steepBatchEnd c fail) s = execSteepBatchEnd c fail s := rfl
theorem exec_eraseBatchEnd (c) (fail) (s : State) : exec (.eraseBatchEnd c fail) s = execEraseBatchEnd c fail s := rfl
theorem exec_readbackBatchEnd (c) (intr) (s : State) : exec (.readbackBatchEnd c intr) s = execReadbackBatchEnd c intr s := rfl
theorem exec_readbackTimeout (c) (s : State) : exec (.readbackTimeout c) s = execReadbackTimeout c s := rfl
theorem exec_resteepRotation (c) (failed) (s : State) : exec (.resteepRotation c failed) s = execResteepRotation c failed s := rfl
theorem exec_resteepInPlace (c) (failed) (s : State) : exec (.resteepInPlace c failed) s = execResteepInPlace c failed s := rfl
theorem exec_resteepDeferExpire (c) (s : State) : exec (.resteepDeferExpire c) s = execResteepDeferExpire c s := rfl
theorem exec_roundSwitch (n) (h) (x) (failed) (s : State) : exec (.roundSwitch n h x failed) s = execRoundSwitch n h x failed s := rfl
theorem exec_goldenRestore (h) (x) (failed) (s : State) : exec (.goldenRestore h x failed) s = execGoldenRestore h x failed s := rfl
theorem exec_goldenRefetch (h) (issue) (x) (s : State) : exec (.goldenRefetch h issue x) s = execGoldenRefetch h issue x s := rfl
theorem exec_imageSourceRetry (h) (x) (failed) (s : State) : exec (.imageSourceRetry h x failed) s = execImageSourceRetry h x failed s := rfl
theorem exec_endOp (issue) (s : State) : exec (.endOp issue) s = execEndOp issue s := rfl
theorem exec_illegalInstruction (issue) (s : State) : exec (.illegalInstruction issue) s = execIllegalInstruction issue s := rfl
theorem exec_add (issue) (s : State) : exec (.add issue) s = execAdd issue s := rfl
theorem exec_sub (issue) (s : State) : exec (.sub issue) s = execSub issue s := rfl
theorem exec_mul (issue) (s : State) : exec (.mul issue) s = execMul issue s := rfl
theorem exec_fma (issue) (s : State) : exec (.fma issue) s = execFma issue s := rfl
theorem exec_scale (issue) (s : State) : exec (.scale issue) s = execScale issue s := rfl
theorem exec_maxOp (issue) (s : State) : exec (.maxOp issue) s = execMaxOp issue s := rfl
theorem exec_act (issue) (s : State) : exec (.act issue) s = execAct issue s := rfl
theorem exec_norm (issue) (s : State) : exec (.norm issue) s = execNorm issue s := rfl
theorem exec_softmax (issue) (s : State) : exec (.softmax issue) s = execSoftmax issue s := rfl
theorem exec_topk (issue) (s : State) : exec (.topk issue) s = execTopk issue s := rfl
theorem exec_sample (issue) (s : State) : exec (.sample issue) s = execSample issue s := rfl
theorem exec_copy (issue) (s : State) : exec (.copy issue) s = execCopy issue s := rfl
theorem exec_send (issue) (s : State) : exec (.send issue) s = execSend issue s := rfl
theorem exec_load (issue) (s : State) : exec (.load issue) s = execLoad issue s := rfl
theorem exec_store (issue) (s : State) : exec (.store issue) s = execStore issue s := rfl
theorem exec_gather (issue) (s : State) : exec (.gather issue) s = execGather issue s := rfl
theorem exec_winOpen (issue) (s : State) : exec (.winOpen issue) s = execWinOpen issue s := rfl
theorem exec_winSeal (issue) (s : State) : exec (.winSeal issue) s = execWinSeal issue s := rfl
theorem exec_winClose (issue) (s : State) : exec (.winClose issue) s = execWinClose issue s := rfl
theorem exec_waitEvt (issue) (s : State) : exec (.waitEvt issue) s = execWaitEvt issue s := rfl
theorem exec_waitWin (issue) (s : State) : exec (.waitWin issue) s = execWaitWin issue s := rfl
theorem exec_waitDeadline (issue) (s : State) : exec (.waitDeadline issue) s = execWaitDeadline issue s := rfl
theorem exec_append (issue) (s : State) : exec (.append issue) s = execAppend issue s := rfl
theorem exec_score (issue) (s : State) : exec (.score issue) s = execScore issue s := rfl
theorem exec_combine (issue) (s : State) : exec (.combine issue) s = execCombine issue s := rfl
theorem exec_adptDown (issue) (s : State) : exec (.adptDown issue) s = execAdptDown issue s := rfl
theorem exec_adptUp (issue) (s : State) : exec (.adptUp issue) s = execAdptUp issue s := rfl
theorem exec_windowWriteLanding (c) (s : State) : exec (.windowWriteLanding c) s = execWindowWriteLanding c s := rfl
theorem exec_nackReceived (c) (s : State) : exec (.nackReceived c) s = execNackReceived c s := rfl
theorem exec_corePowerOn (c) (s : State) : exec (.corePowerOn c) s = execCorePowerOn c s := rfl
theorem exec_corePowerOff (c) (s : State) : exec (.corePowerOff c) s = execCorePowerOff c s := rfl
theorem exec_coreCmdReset (c) (s : State) : exec (.coreCmdReset c) s = execCoreCmdReset c s := rfl
theorem exec_fence (c) (s : State) : exec (.fence c) s = execFence c s := rfl
theorem exec_run (c) (s : State) : exec (.run c) s = execRun c s := rfl
theorem exec_stop (c) (s : State) : exec (.stop c) s = execStop c s := rfl
theorem exec_corePowerRampStart (c) (s : State) : exec (.corePowerRampStart c) s = execCorePowerRampStart c s := rfl
theorem exec_corePowerRampEnd (c) (s : State) : exec (.corePowerRampEnd c) s = execCorePowerRampEnd c s := rfl
theorem exec_resetDrainDone (c) (s : State) : exec (.resetDrainDone c) s = execResetDrainDone c s := rfl
theorem exec_drainTimeout (c) (s : State) : exec (.drainTimeout c) s = execDrainTimeout c s := rfl
theorem exec_coreResetEnd (c) (s : State) : exec (.coreResetEnd c) s = execCoreResetEnd c s := rfl
theorem exec_microcodeMulticast (c) (version) (ok) (s : State) : exec (.microcodeMulticast c version ok) s = execMicrocodeMulticast c version ok s := rfl
theorem exec_stepRowLanding (s : State) : exec (.stepRowLanding) s = execStepRowLanding s := rfl
theorem exec_syncMarkerTimer (s : State) : exec (.syncMarkerTimer) s = execSyncMarkerTimer s := rfl
theorem exec_syncReceived (p) (s : State) : exec (.syncReceived p) s = execSyncReceived p s := rfl
theorem exec_delayReqReceived (p) (s : State) : exec (.delayReqReceived p) s = execDelayReqReceived p s := rfl
theorem exec_delayRespReceived (p) (s : State) : exec (.delayRespReceived p) s = execDelayRespReceived p s := rfl
theorem exec_parentLossTimeout (s : State) : exec (.parentLossTimeout) s = execParentLossTimeout s := rfl
theorem exec_holdoverExpire (s : State) : exec (.holdoverExpire) s = execHoldoverExpire s := rfl
theorem exec_standbyRootTakeover (s : State) : exec (.standbyRootTakeover) s = execStandbyRootTakeover s := rfl
theorem exec_gateHold (s : State) : exec (.gateHold) s = execGateHold s := rfl
theorem exec_gateRelease (s : State) : exec (.gateRelease) s = execGateRelease s := rfl
theorem exec_gateAbort (s : State) : exec (.gateAbort) s = execGateAbort s := rfl
theorem exec_overrunWindowEnd (n) (s : State) : exec (.overrunWindowEnd n) s = execOverrunWindowEnd n s := rfl
theorem exec_switchNotice (n) (k) (scale) (thr) (s : State) : exec (.switchNotice n k scale thr) s = execSwitchNotice n k scale thr s := rfl
theorem exec_meshEnable (c) (s : State) : exec (.meshEnable c) s = execMeshEnable c s := rfl
theorem exec_flitForward (c) (vc) (esc) (e) (s : State) : exec (.flitForward c vc esc e) s = execFlitForward c vc esc e s := rfl
theorem exec_stackRead (n) (ch) (e) (k) (s : State) : exec (.stackRead n ch e k) s = execStackRead n ch e k s := rfl
theorem exec_stackWrite (n) (ch) (e) (k) (s : State) : exec (.stackWrite n ch e k) s = execStackWrite n ch e k s := rfl
theorem exec_stackReply (node) (s : State) : exec (.stackReply node) s = execStackReply node s := rfl
theorem exec_mergeWindowClose (n) (ch) (s : State) : exec (.mergeWindowClose n ch) s = execMergeWindowClose n ch s := rfl
theorem exec_scrubRead (n) (e) (k) (s : State) : exec (.scrubRead n e k) s = execScrubRead n e k s := rfl
theorem exec_bankDown (n) (b) (s : State) : exec (.bankDown n b) s = execBankDown n b s := rfl
theorem exec_bankUp (n) (b) (s : State) : exec (.bankUp n b) s = execBankUp n b s := rfl
theorem exec_bankDrainEnd (n) (s : State) : exec (.bankDrainEnd n) s = execBankDrainEnd n s := rfl
theorem exec_bankWakeEnd (n) (s : State) : exec (.bankWakeEnd n) s = execBankWakeEnd n s := rfl
theorem exec_portEnable (p) (s : State) : exec (.portEnable p) s = execPortEnable p s := rfl
theorem exec_portTrainingDone (p) (skew) (s : State) : exec (.portTrainingDone p skew) s = execPortTrainingDone p skew s := rfl
theorem exec_portMissingTimeout (p) (s : State) : exec (.portMissingTimeout p) s = execPortMissingTimeout p s := rfl
theorem exec_portTrainFailTimeout (p) (s : State) : exec (.portTrainFailTimeout p) s = execPortTrainFailTimeout p s := rfl
theorem exec_portSignalDetect (p) (s : State) : exec (.portSignalDetect p) s = execPortSignalDetect p s := rfl
theorem exec_portAdmit (p) (s : State) : exec (.portAdmit p) s = execPortAdmit p s := rfl
theorem exec_portQuarantine (p) (s : State) : exec (.portQuarantine p) s = execPortQuarantine p s := rfl
theorem exec_portRetrain (p) (s : State) : exec (.portRetrain p) s = execPortRetrain p s := rfl
theorem exec_portDisable (p) (s : State) : exec (.portDisable p) s = execPortDisable p s := rfl
theorem exec_portMissing (p) (s : State) : exec (.portMissing p) s = execPortMissing p s := rfl
theorem exec_cellReceive (p) (b) (s : State) : exec (.cellReceive p b) s = execCellReceive p b s := rfl
theorem exec_cellIngressExit (p) (pool) (s : State) : exec (.cellIngressExit p pool) s = execCellIngressExit p pool s := rfl
theorem exec_egressBlock (p) (s : State) : exec (.egressBlock p) s = execEgressBlock p s := rfl
theorem exec_retrainDone (p) (s : State) : exec (.retrainDone p) s = execRetrainDone p s := rfl
theorem exec_linkDown (p) (s : State) : exec (.linkDown p) s = execLinkDown p s := rfl
theorem exec_fecIntervalEnd (p) (s : State) : exec (.fecIntervalEnd p) s = execFecIntervalEnd p s := rfl
theorem exec_quarWindowEnd (p) (s : State) : exec (.quarWindowEnd p) s = execQuarWindowEnd p s := rfl
theorem exec_authCell (p) (m) (s : State) : exec (.authCell p m) s = execAuthCell p m s := rfl
theorem exec_admissionTimeout (p) (s : State) : exec (.admissionTimeout p) s = execAdmissionTimeout p s := rfl
theorem exec_discoveryEnd (s : State) : exec (.discoveryEnd) s = execDiscoveryEnd s := rfl
theorem exec_missingReport (m) (plus) (s : State) : exec (.missingReport m plus) s = execMissingReport m plus s := rfl
theorem exec_portStateFlood (a) (p) (st) (s : State) : exec (.portStateFlood a p st) s = execPortStateFlood a p st s := rfl
theorem exec_routeInstall (s : State) : exec (.routeInstall) s = execRouteInstall s := rfl
theorem exec_windowAck (n) (s : State) : exec (.windowAck n) s = execWindowAck n s := rfl
theorem exec_coordinatorSilent (n) (reach) (s : State) : exec (.coordinatorSilent n reach) s = execCoordinatorSilent n reach s := rfl
theorem exec_readyReport (n) (m) (s : State) : exec (.readyReport n m) s = execReadyReport n m s := rfl
theorem exec_partitionStartNotice (n) (k) (s : State) : exec (.partitionStartNotice n k) s = execPartitionStartNotice n k s := rfl
theorem exec_partitionRunWrite (n) (s : State) : exec (.partitionRunWrite n) s = execPartitionRunWrite n s := rfl
theorem exec_partitionResetNotice (n) (k) (s : State) : exec (.partitionResetNotice n k) s = execPartitionResetNotice n k s := rfl
theorem exec_noticeReceived (n) (m) (x) (s : State) : exec (.noticeReceived n m x) s = execNoticeReceived n m x s := rfl
theorem exec_reqNew (r) (d) (s : State) : exec (.reqNew r d) s = execReqNew r d s := rfl
theorem exec_reqContinue (r) (d) (s : State) : exec (.reqContinue r d) s = execReqContinue r d s := rfl
theorem exec_reqCancel (r) (d) (s : State) : exec (.reqCancel r d) s = execReqCancel r d s := rfl
theorem exec_reqPark (r) (d) (s : State) : exec (.reqPark r d) s = execReqPark r d s := rfl
theorem exec_reqDrop (r) (d) (s : State) : exec (.reqDrop r d) s = execReqDrop r d s := rfl
theorem exec_accountRefill (s : State) : exec (.accountRefill) s = execAccountRefill s := rfl
theorem exec_outputRecordWrite (n) (s : State) : exec (.outputRecordWrite n) s = execOutputRecordWrite n s := rfl
theorem exec_outputIrqTimer (r) (s : State) : exec (.outputIrqTimer r) s = execOutputIrqTimer r s := rfl
theorem exec_caddyReport (n) (e) (k) (ok) (data) (s : State) : exec (.caddyReport n e k ok data) s = execCaddyReport n e k ok data s := rfl
theorem exec_adapterSlotFree (issue) (s : State) : exec (.adapterSlotFree issue) s = execAdapterSlotFree issue s := rfl
theorem exec_mbDb (f) (v) (s : State) : exec (.mbDb f v) s = execMbDb f v s := rfl
theorem exec_mbAck (f) (v) (s : State) : exec (.mbAck f v) s = execMbAck f v s := rfl
theorem exec_pendingComplete (f) (seq) (o) (s : State) : exec (.pendingComplete f seq o) s = execPendingComplete f seq o s := rfl
theorem exec_rqTail (f) (r) (v) (s : State) : exec (.rqTail f r v) s = execRqTail f r v s := rfl
theorem exec_oqHead (f) (r) (v) (s : State) : exec (.oqHead f r v) s = execOqHead f r v s := rfl
theorem exec_flr (f) (s : State) : exec (.flr f) s = execFlr f s := rfl
theorem exec_pcieHotReset (s : State) : exec (.pcieHotReset) s = execPcieHotReset s := rfl
theorem exec_pciePerst (s : State) : exec (.pciePerst) s = execPciePerst s := rfl
theorem exec_pcieRetrain (a) (s : State) : exec (.pcieRetrain a) s = execPcieRetrain a s := rfl
theorem exec_bar4Read (f) (ofs) (n) (s : State) : exec (.bar4Read f ofs n) s = execBar4Read f ofs n s := rfl
theorem exec_bar4Write (f) (ofs) (data) (s : State) : exec (.bar4Write f ofs data) s = execBar4Write f ofs data s := rfl
theorem exec_dmaTransferEnd (f) (wr) (ofs) (n) (host) (data) (bad) (s : State) : exec (.dmaTransferEnd f wr ofs n host data bad) s = execDmaTransferEnd f wr ofs n host data bad s := rfl
theorem exec_mgmtSessionHandshake (r) (s : State) : exec (.mgmtSessionHandshake r) s = execMgmtSessionHandshake r s := rfl
theorem exec_getInfo (q) (s : State) : exec (.getInfo q) s = execGetInfo q s := rfl
theorem exec_getCert (q) (s : State) : exec (.getCert q) s = execGetCert q s := rfl
theorem exec_getLog (q) (seq) (s : State) : exec (.getLog q seq) s = execGetLog q seq s := rfl
theorem exec_getPorts (q) (s : State) : exec (.getPorts q) s = execGetPorts q s := rfl
theorem exec_partCreate (q) (x) (s : State) : exec (.partCreate q x) s = execPartCreate q x s := rfl
theorem exec_partStart (q) (s : State) : exec (.partStart q) s = execPartStart q s := rfl
theorem exec_partStop (q) (s : State) : exec (.partStop q) s = execPartStop q s := rfl
theorem exec_partReset (q) (s : State) : exec (.partReset q) s = execPartReset q s := rfl
theorem exec_partDestroy (q) (s : State) : exec (.partDestroy q) s = execPartDestroy q s := rfl
theorem exec_partSet (q) (x) (s : State) : exec (.partSet q x) s = execPartSet q x s := rfl
theorem exec_partClear (q) (s : State) : exec (.partClear q) s = execPartClear q s := rfl
theorem exec_partNarrow (q) (s : State) : exec (.partNarrow q) s = execPartNarrow q s := rfl
theorem exec_partStatus (q) (others) (s : State) : exec (.partStatus q others) s = execPartStatus q others s := rfl
theorem exec_modelLoad (q) (x) (s : State) : exec (.modelLoad q x) s = execModelLoad q x s := rfl
theorem exec_modelUnload (q) (h) (s : State) : exec (.modelUnload q h) s = execModelUnload q h s := rfl
theorem exec_modelList (q) (s : State) : exec (.modelList q) s = execModelList q s := rfl
theorem exec_modelSupply (q) (h) (x) (failed) (s : State) : exec (.modelSupply q h x failed) s = execModelSupply q h x failed s := rfl
theorem exec_modelDigest (q) (h) (s : State) : exec (.modelDigest q h) s = execModelDigest q h s := rfl
theorem exec_schedLoad (q) (x) (s : State) : exec (.schedLoad q x) s = execSchedLoad q x s := rfl
theorem exec_schedSwitch (q) (s : State) : exec (.schedSwitch q) s = execSchedSwitch q s := rfl
theorem exec_recipeSet (q) (l) (s : State) : exec (.recipeSet q l) s = execRecipeSet q l s := rfl
theorem exec_recipeGet (q) (l) (s : State) : exec (.recipeGet q l) s = execRecipeGet q l s := rfl
theorem exec_flagsGet (q) (others) (s : State) : exec (.flagsGet q others) s = execFlagsGet q others s := rfl
theorem exec_adapterLoad (q) (id) (gen) (l) (s : State) : exec (.adapterLoad q id gen l) s = execAdapterLoad q id gen l s := rfl
theorem exec_adapterReplace (q) (id) (gen) (l) (s : State) : exec (.adapterReplace q id gen l) s = execAdapterReplace q id gen l s := rfl
theorem exec_adapterUnload (q) (id) (s : State) : exec (.adapterUnload q id) s = execAdapterUnload q id s := rfl
theorem exec_adapterList (q) (s : State) : exec (.adapterList q) s = execAdapterList q s := rfl
theorem exec_rqCreate (q) (r) (base) (entries) (wb) (s : State) : exec (.rqCreate q r base entries wb) s = execRqCreate q r base entries wb s := rfl
theorem exec_oqCreate (q) (r) (remote) (base) (entries) (wb) (vec) (modUs) (modCnt) (s : State) : exec (.oqCreate q r remote base entries wb vec modUs modCnt) s = execOqCreate q r remote base entries wb vec modUs modCnt s := rfl
theorem exec_ringDestroy (q) (out) (r) (s : State) : exec (.ringDestroy q out r) s = execRingDestroy q out r s := rfl
theorem exec_accountSet (q) (a) (rate) (burst) (ends) (valid) (s : State) : exec (.accountSet q a rate burst ends valid) s = execAccountSet q a rate burst ends valid s := rfl
theorem exec_classSet (q) (c) (ttft) (tbt) (s : State) : exec (.classSet q c ttft tbt) s = execClassSet q c ttft tbt s := rfl
theorem exec_stopsetSet (q) (issue) (tokens) (s : State) : exec (.stopsetSet q issue tokens) s = execStopsetSet q issue tokens s := rfl
theorem exec_reqQuery (q) (e) (s : State) : exec (.reqQuery q e) s = execReqQuery q e s := rfl
theorem exec_calSave (q) (c) (set) (s : State) : exec (.calSave q c set) s = execCalSave q c set s := rfl
theorem exec_calRestore (q) (dev) (c) (set) (recs) (s : State) : exec (.calRestore q dev c set recs) s = execCalRestore q dev c set recs s := rfl
theorem exec_calMeasure (q) (c) (set) (s : State) : exec (.calMeasure q c set) s = execCalMeasure q c set s := rfl
theorem exec_calConfig (q) (c) (src) (log2) (limit) (tstep) (s : State) : exec (.calConfig q c src log2 limit tstep) s = execCalConfig q c src log2 limit tstep s := rfl
theorem exec_telSnapshot (q) (blocks) (s : State) : exec (.telSnapshot q blocks) s = execTelSnapshot q blocks s := rfl
theorem exec_enduranceGet (q) (c) (s : State) : exec (.enduranceGet q c) s = execEnduranceGet q c s := rfl
theorem exec_thermalGet (q) (s : State) : exec (.thermalGet q) s = execThermalGet q s := rfl
theorem exec_telStream (q) (ms) (blocks) (buf) (size) (s : State) : exec (.telStream q ms blocks buf size) s = execTelStream q ms blocks buf size s := rfl
theorem exec_telStreamInterval (s : State) : exec (.telStreamInterval) s = execTelStreamInterval s := rfl
theorem exec_faultList (q) (s : State) : exec (.faultList q) s = execFaultList q s := rfl
theorem exec_faultAck (q) (l) (s : State) : exec (.faultAck q l) s = execFaultAck q l s := rfl
theorem exec_coreFence (q) (c) (s : State) : exec (.coreFence q c) s = execCoreFence q c s := rfl
theorem exec_resteep (q) (c) (n) (s : State) : exec (.resteep q c n) s = execResteep q c n s := rfl
theorem exec_digestCfg (q) (minutes) (s : State) : exec (.digestCfg q minutes) s = execDigestCfg q minutes s := rfl
theorem exec_lcGet (q) (s : State) : exec (.lcGet q) s = execLcGet q s := rfl
theorem exec_lcSet (q) (dst) (x) (challenge) (s : State) : exec (.lcSet q dst x challenge) s = execLcSet q dst x challenge s := rfl
theorem exec_ownershipInstall (q) (dst) (x) (challenge) (s : State) : exec (.ownershipInstall q dst x challenge) s = execOwnershipInstall q dst x challenge s := rfl
theorem exec_fwStage (q) (ver) (lvl) (asks) (s : State) : exec (.fwStage q ver lvl asks) s = execFwStage q ver lvl asks s := rfl
theorem exec_fwActivate (q) (done) (s : State) : exec (.fwActivate q done) s = execFwActivate q done s := rfl
theorem exec_fwStatus (q) (s : State) : exec (.fwStatus q) s = execFwStatus q s := rfl
theorem exec_shutdown (q) (s : State) : exec (.shutdown q) s = execShutdown q s := rfl
theorem exec_bistResult (q) (s : State) : exec (.bistResult q) s = execBistResult q s := rfl
theorem exec_reset (q) (x) (s : State) : exec (.reset q x) s = execReset q x s := rfl
theorem exec_planInstall (q) (image) (sig) (s : State) : exec (.planInstall q image sig) s = execPlanInstall q image sig s := rfl
theorem exec_planGet (q) (s : State) : exec (.planGet q) s = execPlanGet q s := rfl
theorem exec_portCmd (q) (p) (c) (s : State) : exec (.portCmd q p c) s = execPortCmd q p c s := rfl
theorem exec_spareSet (q) (a) (s : State) : exec (.spareSet q a) s = execSpareSet q a s := rfl
theorem exec_halfClock (q) (east) (lower) (there) (s : State) : exec (.halfClock q east lower there) s = execHalfClock q east lower there s := rfl
theorem exec_sysRstAssert (s : State) : exec (.sysRstAssert) s = execSysRstAssert s := rfl
theorem exec_powerOnDetect (up) (s : State) : exec (.powerOnDetect up) s = execPowerOnDetect up s := rfl
theorem exec_packageStart (x) (s : State) : exec (.packageStart x) s = execPackageStart x s := rfl
theorem exec_startStepTimeout (s : State) : exec (.startStepTimeout) s = execStartStepTimeout s := rfl
theorem exec_watchdogExpire (s : State) : exec (.watchdogExpire) s = execWatchdogExpire s := rfl
theorem exec_watchdogKick (a) (s : State) : exec (.watchdogKick a) s = execWatchdogKick a s := rfl
theorem exec_lcRstCluster (a) (k) (s : State) : exec (.lcRstCluster a k) s = execLcRstCluster a k s := rfl
theorem exec_lcRstWarm (a) (s : State) : exec (.lcRstWarm a) s = execLcRstWarm a s := rfl
theorem exec_lcRstCold (a) (s : State) : exec (.lcRstCold a) s = execLcRstCold a s := rfl
theorem exec_bistRun (a) (s : State) : exec (.bistRun a) s = execBistRun a s := rfl
theorem exec_bistDone (o) (s : State) : exec (.bistDone o) s = execBistDone o s := rfl
theorem exec_poweredTimeSave (s : State) : exec (.poweredTimeSave) s = execPoweredTimeSave s := rfl
theorem exec_faultEvent (src) (dom) (access) (node) (unit) (addr) (detail) (esc) (s : State) : exec (.faultEvent src dom access node unit addr detail esc) s = execFaultEvent src dom access node unit addr detail esc s := rfl
theorem exec_faultWindowEnd (l1) (s : State) : exec (.faultWindowEnd l1) s = execFaultWindowEnd l1 s := rfl
theorem exec_fltAck (v) (s : State) : exec (.fltAck v) s = execFltAck v s := rfl
theorem exec_fltEvtPop (a) (s : State) : exec (.fltEvtPop a) s = execFltEvtPop a s := rfl
theorem exec_fltCapClear (l) (s : State) : exec (.fltCapClear l) s = execFltCapClear l s := rfl
theorem exec_faultNPulseEnd (s : State) : exec (.faultNPulseEnd) s = execFaultNPulseEnd s := rfl
theorem exec_faultReport (s : State) : exec (.faultReport) s = execFaultReport s := rfl
theorem exec_faultSummaryTimer (s : State) : exec (.faultSummaryTimer) s = execFaultSummaryTimer s := rfl
theorem exec_faultPause (c) (failed) (s : State) : exec (.faultPause c failed) s = execFaultPause c failed s := rfl
theorem exec_pauseRequest (n) (s : State) : exec (.pauseRequest n) s = execPauseRequest n s := rfl
theorem exec_pauseNotice (n) (k) (s : State) : exec (.pauseNotice n k) s = execPauseNotice n k s := rfl
theorem exec_suspectObserve (c) (n) (s : State) : exec (.suspectObserve c n) s = execSuspectObserve c n s := rfl
theorem exec_suspectObservationEnd (c) (n) (s : State) : exec (.suspectObservationEnd c n) s = execSuspectObservationEnd c n s := rfl
theorem exec_digestInterval (s : State) : exec (.digestInterval) s = execDigestInterval s := rfl
theorem exec_injectGo (v) (s : State) : exec (.injectGo v) s = execInjectGo v s := rfl
theorem exec_injectionAtTime (s : State) : exec (.injectionAtTime) s = execInjectionAtTime s := rfl
theorem exec_sensorSample (issue) (v) (ok) (s : State) : exec (.sensorSample issue v ok) s = execSensorSample issue v ok s := rfl
theorem exec_sensorMissingTimeout (issue) (s : State) : exec (.sensorMissingTimeout issue) s = execSensorMissingTimeout issue s := rfl
theorem exec_warningChange (east) (issue) (s : State) : exec (.warningChange east issue) s = execWarningChange east issue s := rfl
theorem exec_throttleSet (east) (s : State) : exec (.throttleSet east) s = execThrottleSet east s := rfl
theorem exec_throttleRequest (n) (all) (s : State) : exec (.throttleRequest n all) s = execThrottleRequest n all s := rfl
theorem exec_throttleClear (east) (s : State) : exec (.throttleClear east) s = execThrottleClear east s := rfl
theorem exec_thmCtlWrite (a) (v) (s : State) : exec (.thmCtlWrite a v) s = execThmCtlWrite a v s := rfl
theorem exec_telConversionEnd (code) (ovr) (s : State) : exec (.telConversionEnd code ovr) s = execTelConversionEnd code ovr s := rfl
theorem exec_telCtlWrite (a) (mask) (v) (s : State) : exec (.telCtlWrite a mask v) s = execTelCtlWrite a mask v s := rfl
theorem exec_refclkLoss (k) (s : State) : exec (.refclkLoss k) s = execRefclkLoss k s := rfl
theorem exec_firingRelease (c) (slot) (s : State) : exec (.firingRelease c slot) s = execFiringRelease c slot s := rfl
theorem exec_partnerSignalLoss (p) (s : State) : exec (.partnerSignalLoss p) s = execPartnerSignalLoss p s := rfl
theorem exec_pcieLinkTrained (speed) (width) (flit) (vfs) (s : State) : exec (.pcieLinkTrained speed width flit vfs) s = execPcieLinkTrained speed width flit vfs s := rfl
theorem exec_pcieLinkError (corr) (s : State) : exec (.pcieLinkError corr) s = execPcieLinkError corr s := rfl
theorem exec_firmwareRestartEnd (auth) (s : State) : exec (.firmwareRestartEnd auth) s = execFirmwareRestartEnd auth s := rfl
theorem exec_overrunReport (n) (m) (w) (k) (longer) (s : State) : exec (.overrunReport n m w k longer) s = execOverrunReport n m w k longer s := rfl
theorem exec_partitionStopNotice (n) (k) (s : State) : exec (.partitionStopNotice n k) s = execPartitionStopNotice n k s := rfl
theorem exec_partitionStopRequest (n) (missed) (s : State) : exec (.partitionStopRequest n missed) s = execPartitionStopRequest n missed s := rfl
theorem exec_jtagFuseProgramming (s : State) : exec (.jtagFuseProgramming) s = execJtagFuseProgramming s := rfl

end Sys2Proof.Machine
end

