-- ==== Sys2Proof/Laws/Map.lean ====
section
/-! SUPPORT. Laws of sparse maps and number sets: what a read after a write gives, and that every operation keeps the canonical form. -/
namespace Sys2Proof

section
variable {β : Type} (d : β)

theorem SMap.get_del_same (m : SMap β) (k : Nat) : SMap.get d (SMap.del m k) k = d := by
  induction m with
  | nil => rfl
  | cons p m ih => by_cases h : p.1 = k <;> simp [SMap.del, SMap.get, h, ih]

theorem SMap.get_del_ne (m : SMap β) {k j : Nat} (h : j ≠ k) : SMap.get d (SMap.del m k) j = SMap.get d m j := by
  induction m with
  | nil => rfl
  | cons p m ih =>
    by_cases hk : p.1 = k
    ·       simp [SMap.del, SMap.get, hk, ih, h.symm]
    · simp [SMap.del, SMap.get, hk, ih]

theorem SMap.get_ins_same (m : SMap β) (k : Nat) (v : β) : SMap.get d (SMap.ins m k v) k = v := by
  induction m with
  | nil => simp [SMap.ins, SMap.get]
  | cons p m ih =>
    by_cases hlt : k < p.1
    · simp [SMap.ins, SMap.get, hlt]
    · by_cases he : p.1 = k <;> simp [SMap.ins, SMap.get, hlt, he, ih]

theorem SMap.get_ins_ne (m : SMap β) {k j : Nat} (v : β) (h : j ≠ k) :
    SMap.get d (SMap.ins m k v) j = SMap.get d m j := by
  induction m with
  | nil => simp [SMap.ins, SMap.get, h.symm]
  | cons p m ih =>
    by_cases hlt : k < p.1
    · simp [SMap.ins, SMap.get, hlt, h.symm]
    · by_cases he : p.1 = k
      · simp [SMap.ins, SMap.get, he, h.symm]
      · simp [SMap.ins, SMap.get, hlt, he, ih]

/-- Entries of a map without a key, and with one, come from the map. -/
theorem SMap.mem_del {m : SMap β} {k : Nat} {q : Nat × β} (h : q ∈ SMap.del m k) : q ∈ m := by
  induction m with
  | nil => exact h
  | cons p m ih =>
    unfold SMap.del at h
    split at h
    · exact List.mem_cons_of_mem _ (ih h)
    · rcases List.mem_cons.1 h with rfl | h
      · exact List.mem_cons_self
      · exact List.mem_cons_of_mem _ (ih h)

theorem SMap.mem_ins {m : SMap β} {k : Nat} {v : β} {q : Nat × β} (h : q ∈ SMap.ins m k v) : q = (k, v) ∨ q ∈ m := by
  induction m with
  | nil => exact .inl (by simpa [SMap.ins] using h)
  | cons p m ih =>
    unfold SMap.ins at h
    split at h
    · exact List.mem_cons.1 h
    · split at h
      · rcases List.mem_cons.1 h with h | h
        · exact .inl h
        · exact .inr (List.mem_cons_of_mem _ h)
      · rcases List.mem_cons.1 h with h | h
        · exact .inr (h ▸ List.mem_cons_self)
        · exact (ih h).imp_right (List.mem_cons_of_mem _)

theorem SMap.above_iff {k : Nat} {m : SMap β} : SMap.above k m = true ↔ ∀ q ∈ m, k < q.1 := by
  simp [SMap.above]

variable [DecidableEq β]

/-- A write with one default leaves other keys alone for a reader with another. -/
theorem SMap.get_put_other (e : β) (m : SMap β) {k j : Nat} (v : β) (h : j ≠ k) :
    SMap.get d (SMap.put e m k v) j = SMap.get d m j := by
  unfold SMap.put
  split
  · exact SMap.get_del_ne d m h
  · exact SMap.get_ins_ne d m v h

/-- A read after a write of the same key gives the value written. -/
@[simp] theorem SMap.get_put_same (m : SMap β) (k : Nat) (v : β) : SMap.get d (SMap.put d m k v) k = v := by
  unfold SMap.put
  split
  · simp [SMap.get_del_same, *]
  · exact SMap.get_ins_same d m k v

/-- A write leaves every other key alone. -/
theorem SMap.get_put_ne (m : SMap β) {k j : Nat} (v : β) (h : j ≠ k) :
    SMap.get d (SMap.put d m k v) j = SMap.get d m j := by
  unfold SMap.put
  split
  · exact SMap.get_del_ne d m h
  · exact SMap.get_ins_ne d m v h

theorem SMap.get_put (m : SMap β) (k j : Nat) (v : β) :
    SMap.get d (SMap.put d m k v) j = if j = k then v else SMap.get d m j := by
  split
  · subst_vars; exact SMap.get_put_same d m _ v
  · exact SMap.get_put_ne d m v ‹_›

theorem SMap.wf_cons {p : Nat × β} {m : SMap β} :
    SMap.wf d (p :: m) = true ↔ p.2 ≠ d ∧ (∀ q ∈ m, p.1 < q.1) ∧ SMap.wf d m = true := by
  simp [SMap.wf, SMap.above, and_assoc]

theorem SMap.wf_del {m : SMap β} (k : Nat) (h : SMap.wf d m = true) : SMap.wf d (SMap.del m k) = true := by
  induction m with
  | nil => rfl
  | cons p m ih =>
    obtain ⟨h1, h2, h3⟩ := (SMap.wf_cons d).1 h
    unfold SMap.del
    split
    · exact ih h3
    · exact (SMap.wf_cons d).2 ⟨h1, fun q hq => h2 q (SMap.mem_del hq), ih h3⟩

theorem SMap.wf_ins {m : SMap β} (k : Nat) {v : β} (hv : v ≠ d) (h : SMap.wf d m = true) :
    SMap.wf d (SMap.ins m k v) = true := by
  induction m with
  | nil => simpa [SMap.ins, SMap.wf, SMap.above] using hv
  | cons p m ih =>
    obtain ⟨h1, h2, h3⟩ := (SMap.wf_cons d).1 h
    unfold SMap.ins
    split
    · rename_i hlt
      refine (SMap.wf_cons d).2 ⟨hv, fun q hq => ?_, h⟩
      rcases List.mem_cons.1 hq with rfl | hq
      · exact hlt
      · exact Nat.lt_trans hlt (h2 q hq)
    · split
      · rename_i he
        exact (SMap.wf_cons d).2 ⟨hv, fun q hq => he ▸ h2 q hq, h3⟩
      · refine (SMap.wf_cons d).2 ⟨h1, fun q hq => ?_, ih h3⟩
        rcases SMap.mem_ins hq with rfl | hq
        · omega
        · exact h2 q hq

/-- A write keeps the canonical form. -/
theorem SMap.wf_put {m : SMap β} (k : Nat) (v : β) (h : SMap.wf d m = true) : SMap.wf d (SMap.put d m k v) = true := by
  unfold SMap.put
  split
  · exact SMap.wf_del d k h
  · exact SMap.wf_ins d k ‹_› h

theorem SMap.wf_filter {m : SMap β} (f : Nat × β → Bool) (h : SMap.wf d m = true) : SMap.wf d (m.filter f) = true := by
  induction m with
  | nil => rfl
  | cons p m ih =>
    obtain ⟨h1, h2, h3⟩ := (SMap.wf_cons d).1 h
    rw [List.filter_cons]
    split
    · exact (SMap.wf_cons d).2 ⟨h1, fun q hq => h2 q (List.mem_filter.1 hq).1, ih h3⟩
    · exact ih h3

/-- Erasing a range keeps the canonical form. -/
theorem SMap.wf_erase {m : SMap β} (lo hi : Nat) (h : SMap.wf d m = true) : SMap.wf d (SMap.erase m lo hi) = true :=
  SMap.wf_filter d _ h

end

/-- A set after an addition has the number added and those it had. -/
@[simp] theorem NSet.has_add (m : NSet) (k j : Nat) : NSet.has (NSet.add m k) j = (decide (j = k) || NSet.has m j) := by
  induction m with
  | nil => by_cases h : k = j <;> simp [NSet.add, NSet.has, h, eq_comm]
  | cons a m ih =>
    simp only [NSet.has] at ih
    unfold NSet.add
    split
    · simp [NSet.has, eq_comm]
    · split
      · rename_i h; by_cases hj : j = a <;> simp [NSet.has, eq_comm, ← h, hj]
      · simp only [NSet.has, List.any_cons, ih]
        cases decide (a = j) <;> cases decide (j = k) <;> simp

/-- A set after a removal has those it had, but for the number removed. -/
@[simp] theorem NSet.has_del (m : NSet) (k j : Nat) : NSet.has (NSet.del m k) j = (decide (j ≠ k) && NSet.has m j) := by
  induction m with
  | nil => simp [NSet.del, NSet.has]
  | cons a m ih =>
    simp only [NSet.has, NSet.del] at ih ⊢
    rw [List.filter_cons]
    by_cases h : a = k
    · subst h
      by_cases hj : a = j
      · subst hj; simp
      · simpa [hj] using ih
    · by_cases hj : a = j
      · subst hj; simp [h]
      · simpa [hj, h] using ih

end Sys2Proof
end

