-- ==== Sys2Proof/Laws/State.lean ====
section
/-! SUPPORT. What each basic operation on the state leaves as it was, field by field, and what a register reads after a write. -/
namespace Sys2Proof.Machine

/-! ### set -/

@[simp] theorem set_pending (f : Fld) (v : Nat) (s : State) : (set f v s).pending = s.pending := rfl
@[simp] theorem set_act (f : Fld) (v : Nat) (s : State) : (set f v s).act = s.act := rfl
@[simp] theorem set_shadows (f : Fld) (v : Nat) (s : State) : (set f v s).shadows = s.shadows := rfl
@[simp] theorem set_snap (f : Fld) (v : Nat) (s : State) : (set f v s).snap = s.snap := rfl
@[simp] theorem set_latchH (f : Fld) (v : Nat) (s : State) : (set f v s).latchH = s.latchH := rfl
@[simp] theorem set_latchM (f : Fld) (v : Nat) (s : State) : (set f v s).latchM = s.latchM := rfl
@[simp] theorem set_readH (f : Fld) (v : Nat) (s : State) : (set f v s).readH = s.readH := rfl
@[simp] theorem set_readM (f : Fld) (v : Nat) (s : State) : (set f v s).readM = s.readM := rfl
@[simp] theorem set_regsM (f : Fld) (v : Nat) (s : State) : (set f v s).regsM = s.regsM := rfl
@[simp] theorem set_setAt (f : Fld) (v : Nat) (s : State) : (set f v s).setAt = s.setAt := rfl
@[simp] theorem set_hostSnap (f : Fld) (v : Nat) (s : State) : (set f v s).hostSnap = s.hostSnap := rfl
@[simp] theorem set_tap (f : Fld) (v : Nat) (s : State) : (set f v s).tap = s.tap := rfl
@[simp] theorem set_frac (f : Fld) (v : Nat) (s : State) : (set f v s).frac = s.frac := rfl
@[simp] theorem set_cores (f : Fld) (v : Nat) (s : State) : (set f v s).cores = s.cores := rfl
@[simp] theorem set_mem (f : Fld) (v : Nat) (s : State) : (set f v s).mem = s.mem := rfl
@[simp] theorem set_mesh (f : Fld) (v : Nat) (s : State) : (set f v s).mesh = s.mesh := rfl
@[simp] theorem set_stks (f : Fld) (v : Nat) (s : State) : (set f v s).stks = s.stks := rfl
@[simp] theorem set_ports (f : Fld) (v : Nat) (s : State) : (set f v s).ports = s.ports := rfl
@[simp] theorem set_inbox (f : Fld) (v : Nat) (s : State) : (set f v s).inbox = s.inbox := rfl
@[simp] theorem set_seam (f : Fld) (v : Nat) (s : State) : (set f v s).seam = s.seam := rfl
@[simp] theorem set_arb (f : Fld) (v : Nat) (s : State) : (set f v s).arb = s.arb := rfl
@[simp] theorem set_flt (f : Fld) (v : Nat) (s : State) : (set f v s).flt = s.flt := rfl
@[simp] theorem set_srv (f : Fld) (v : Nat) (s : State) : (set f v s).srv = s.srv := rfl
@[simp] theorem set_time (f : Fld) (v : Nat) (s : State) : (set f v s).time = s.time := rfl
@[simp] theorem set_thm (f : Fld) (v : Nat) (s : State) : (set f v s).thm = s.thm := rfl
@[simp] theorem set_fw (f : Fld) (v : Nat) (s : State) : (set f v s).fw = s.fw := rfl
@[simp] theorem set_pages (f : Fld) (v : Nat) (s : State) : (set f v s).pages = s.pages := rfl
@[simp] theorem set_mbx (f : Fld) (v : Nat) (s : State) : (set f v s).mbx = s.mbx := rfl
@[simp] theorem set_badArr (f : Fld) (v : Nat) (s : State) : (set f v s).badArr = s.badArr := rfl
@[simp] theorem set_rampNext (f : Fld) (v : Nat) (s : State) : (set f v s).rampNext = s.rampNext := rfl
@[simp] theorem set_out (f : Fld) (v : Nat) (s : State) : (set f v s).out = s.out := rfl
@[simp] theorem set_pwroff (f : Fld) (v : Nat) (s : State) : (set f v s).pwroff = s.pwroff := rfl
@[simp] theorem set_phys (f : Fld) (v : Nat) (s : State) : (set f v s).phys = s.phys := rfl
@[simp] theorem set_undo (f : Fld) (v : Nat) (s : State) : (set f v s).undo = s.undo := rfl
@[simp] theorem set_free (f : Fld) (v : Nat) (s : State) : (set f v s).free = s.free := rfl

/-! ### setAct -/

@[simp] theorem setAct_pending (f : Fld) (v : Nat) (s : State) : (setAct f v s).pending = s.pending := rfl
@[simp] theorem setAct_regs (f : Fld) (v : Nat) (s : State) : (setAct f v s).regs = s.regs := rfl
@[simp] theorem setAct_shadows (f : Fld) (v : Nat) (s : State) : (setAct f v s).shadows = s.shadows := rfl
@[simp] theorem setAct_snap (f : Fld) (v : Nat) (s : State) : (setAct f v s).snap = s.snap := rfl
@[simp] theorem setAct_latchH (f : Fld) (v : Nat) (s : State) : (setAct f v s).latchH = s.latchH := rfl
@[simp] theorem setAct_latchM (f : Fld) (v : Nat) (s : State) : (setAct f v s).latchM = s.latchM := rfl
@[simp] theorem setAct_readH (f : Fld) (v : Nat) (s : State) : (setAct f v s).readH = s.readH := rfl
@[simp] theorem setAct_readM (f : Fld) (v : Nat) (s : State) : (setAct f v s).readM = s.readM := rfl
@[simp] theorem setAct_regsM (f : Fld) (v : Nat) (s : State) : (setAct f v s).regsM = s.regsM := rfl
@[simp] theorem setAct_setAt (f : Fld) (v : Nat) (s : State) : (setAct f v s).setAt = s.setAt := rfl
@[simp] theorem setAct_hostSnap (f : Fld) (v : Nat) (s : State) : (setAct f v s).hostSnap = s.hostSnap := rfl
@[simp] theorem setAct_tap (f : Fld) (v : Nat) (s : State) : (setAct f v s).tap = s.tap := rfl
@[simp] theorem setAct_frac (f : Fld) (v : Nat) (s : State) : (setAct f v s).frac = s.frac := rfl
@[simp] theorem setAct_cores (f : Fld) (v : Nat) (s : State) : (setAct f v s).cores = s.cores := rfl
@[simp] theorem setAct_mem (f : Fld) (v : Nat) (s : State) : (setAct f v s).mem = s.mem := rfl
@[simp] theorem setAct_mesh (f : Fld) (v : Nat) (s : State) : (setAct f v s).mesh = s.mesh := rfl
@[simp] theorem setAct_stks (f : Fld) (v : Nat) (s : State) : (setAct f v s).stks = s.stks := rfl
@[simp] theorem setAct_ports (f : Fld) (v : Nat) (s : State) : (setAct f v s).ports = s.ports := rfl
@[simp] theorem setAct_inbox (f : Fld) (v : Nat) (s : State) : (setAct f v s).inbox = s.inbox := rfl
@[simp] theorem setAct_seam (f : Fld) (v : Nat) (s : State) : (setAct f v s).seam = s.seam := rfl
@[simp] theorem setAct_arb (f : Fld) (v : Nat) (s : State) : (setAct f v s).arb = s.arb := rfl
@[simp] theorem setAct_flt (f : Fld) (v : Nat) (s : State) : (setAct f v s).flt = s.flt := rfl
@[simp] theorem setAct_srv (f : Fld) (v : Nat) (s : State) : (setAct f v s).srv = s.srv := rfl
@[simp] theorem setAct_time (f : Fld) (v : Nat) (s : State) : (setAct f v s).time = s.time := rfl
@[simp] theorem setAct_thm (f : Fld) (v : Nat) (s : State) : (setAct f v s).thm = s.thm := rfl
@[simp] theorem setAct_fw (f : Fld) (v : Nat) (s : State) : (setAct f v s).fw = s.fw := rfl
@[simp] theorem setAct_pages (f : Fld) (v : Nat) (s : State) : (setAct f v s).pages = s.pages := rfl
@[simp] theorem setAct_mbx (f : Fld) (v : Nat) (s : State) : (setAct f v s).mbx = s.mbx := rfl
@[simp] theorem setAct_badArr (f : Fld) (v : Nat) (s : State) : (setAct f v s).badArr = s.badArr := rfl
@[simp] theorem setAct_rampNext (f : Fld) (v : Nat) (s : State) : (setAct f v s).rampNext = s.rampNext := rfl
@[simp] theorem setAct_out (f : Fld) (v : Nat) (s : State) : (setAct f v s).out = s.out := rfl
@[simp] theorem setAct_pwroff (f : Fld) (v : Nat) (s : State) : (setAct f v s).pwroff = s.pwroff := rfl
@[simp] theorem setAct_phys (f : Fld) (v : Nat) (s : State) : (setAct f v s).phys = s.phys := rfl
@[simp] theorem setAct_undo (f : Fld) (v : Nat) (s : State) : (setAct f v s).undo = s.undo := rfl
@[simp] theorem setAct_free (f : Fld) (v : Nat) (s : State) : (setAct f v s).free = s.free := rfl

/-! ### setB -/

@[simp] theorem setB_pending (f : Fld) (b : Bool) (s : State) : (setB f b s).pending = s.pending := rfl
@[simp] theorem setB_act (f : Fld) (b : Bool) (s : State) : (setB f b s).act = s.act := rfl
@[simp] theorem setB_shadows (f : Fld) (b : Bool) (s : State) : (setB f b s).shadows = s.shadows := rfl
@[simp] theorem setB_snap (f : Fld) (b : Bool) (s : State) : (setB f b s).snap = s.snap := rfl
@[simp] theorem setB_latchH (f : Fld) (b : Bool) (s : State) : (setB f b s).latchH = s.latchH := rfl
@[simp] theorem setB_latchM (f : Fld) (b : Bool) (s : State) : (setB f b s).latchM = s.latchM := rfl
@[simp] theorem setB_readH (f : Fld) (b : Bool) (s : State) : (setB f b s).readH = s.readH := rfl
@[simp] theorem setB_readM (f : Fld) (b : Bool) (s : State) : (setB f b s).readM = s.readM := rfl
@[simp] theorem setB_regsM (f : Fld) (b : Bool) (s : State) : (setB f b s).regsM = s.regsM := rfl
@[simp] theorem setB_setAt (f : Fld) (b : Bool) (s : State) : (setB f b s).setAt = s.setAt := rfl
@[simp] theorem setB_hostSnap (f : Fld) (b : Bool) (s : State) : (setB f b s).hostSnap = s.hostSnap := rfl
@[simp] theorem setB_tap (f : Fld) (b : Bool) (s : State) : (setB f b s).tap = s.tap := rfl
@[simp] theorem setB_frac (f : Fld) (b : Bool) (s : State) : (setB f b s).frac = s.frac := rfl
@[simp] theorem setB_cores (f : Fld) (b : Bool) (s : State) : (setB f b s).cores = s.cores := rfl
@[simp] theorem setB_mem (f : Fld) (b : Bool) (s : State) : (setB f b s).mem = s.mem := rfl
@[simp] theorem setB_mesh (f : Fld) (b : Bool) (s : State) : (setB f b s).mesh = s.mesh := rfl
@[simp] theorem setB_stks (f : Fld) (b : Bool) (s : State) : (setB f b s).stks = s.stks := rfl
@[simp] theorem setB_ports (f : Fld) (b : Bool) (s : State) : (setB f b s).ports = s.ports := rfl
@[simp] theorem setB_inbox (f : Fld) (b : Bool) (s : State) : (setB f b s).inbox = s.inbox := rfl
@[simp] theorem setB_seam (f : Fld) (b : Bool) (s : State) : (setB f b s).seam = s.seam := rfl
@[simp] theorem setB_arb (f : Fld) (b : Bool) (s : State) : (setB f b s).arb = s.arb := rfl
@[simp] theorem setB_flt (f : Fld) (b : Bool) (s : State) : (setB f b s).flt = s.flt := rfl
@[simp] theorem setB_srv (f : Fld) (b : Bool) (s : State) : (setB f b s).srv = s.srv := rfl
@[simp] theorem setB_time (f : Fld) (b : Bool) (s : State) : (setB f b s).time = s.time := rfl
@[simp] theorem setB_thm (f : Fld) (b : Bool) (s : State) : (setB f b s).thm = s.thm := rfl
@[simp] theorem setB_fw (f : Fld) (b : Bool) (s : State) : (setB f b s).fw = s.fw := rfl
@[simp] theorem setB_pages (f : Fld) (b : Bool) (s : State) : (setB f b s).pages = s.pages := rfl
@[simp] theorem setB_mbx (f : Fld) (b : Bool) (s : State) : (setB f b s).mbx = s.mbx := rfl
@[simp] theorem setB_badArr (f : Fld) (b : Bool) (s : State) : (setB f b s).badArr = s.badArr := rfl
@[simp] theorem setB_rampNext (f : Fld) (b : Bool) (s : State) : (setB f b s).rampNext = s.rampNext := rfl
@[simp] theorem setB_out (f : Fld) (b : Bool) (s : State) : (setB f b s).out = s.out := rfl
@[simp] theorem setB_pwroff (f : Fld) (b : Bool) (s : State) : (setB f b s).pwroff = s.pwroff := rfl
@[simp] theorem setB_phys (f : Fld) (b : Bool) (s : State) : (setB f b s).phys = s.phys := rfl
@[simp] theorem setB_undo (f : Fld) (b : Bool) (s : State) : (setB f b s).undo = s.undo := rfl
@[simp] theorem setB_free (f : Fld) (b : Bool) (s : State) : (setB f b s).free = s.free := rfl

/-! ### setBoth -/

@[simp] theorem setBoth_pending (f : Fld) (v : Nat) (s : State) : (setBoth f v s).pending = s.pending := rfl
@[simp] theorem setBoth_shadows (f : Fld) (v : Nat) (s : State) : (setBoth f v s).shadows = s.shadows := rfl
@[simp] theorem setBoth_snap (f : Fld) (v : Nat) (s : State) : (setBoth f v s).snap = s.snap := rfl
@[simp] theorem setBoth_latchH (f : Fld) (v : Nat) (s : State) : (setBoth f v s).latchH = s.latchH := rfl
@[simp] theorem setBoth_latchM (f : Fld) (v : Nat) (s : State) : (setBoth f v s).latchM = s.latchM := rfl
@[simp] theorem setBoth_readH (f : Fld) (v : Nat) (s : State) : (setBoth f v s).readH = s.readH := rfl
@[simp] theorem setBoth_readM (f : Fld) (v : Nat) (s : State) : (setBoth f v s).readM = s.readM := rfl
@[simp] theorem setBoth_regsM (f : Fld) (v : Nat) (s : State) : (setBoth f v s).regsM = s.regsM := rfl
@[simp] theorem setBoth_setAt (f : Fld) (v : Nat) (s : State) : (setBoth f v s).setAt = s.setAt := rfl
@[simp] theorem setBoth_hostSnap (f : Fld) (v : Nat) (s : State) : (setBoth f v s).hostSnap = s.hostSnap := rfl
@[simp] theorem setBoth_tap (f : Fld) (v : Nat) (s : State) : (setBoth f v s).tap = s.tap := rfl
@[simp] theorem setBoth_frac (f : Fld) (v : Nat) (s : State) : (setBoth f v s).frac = s.frac := rfl
@[simp] theorem setBoth_cores (f : Fld) (v : Nat) (s : State) : (setBoth f v s).cores = s.cores := rfl
@[simp] theorem setBoth_mem (f : Fld) (v : Nat) (s : State) : (setBoth f v s).mem = s.mem := rfl
@[simp] theorem setBoth_mesh (f : Fld) (v : Nat) (s : State) : (setBoth f v s).mesh = s.mesh := rfl
@[simp] theorem setBoth_stks (f : Fld) (v : Nat) (s : State) : (setBoth f v s).stks = s.stks := rfl
@[simp] theorem setBoth_ports (f : Fld) (v : Nat) (s : State) : (setBoth f v s).ports = s.ports := rfl
@[simp] theorem setBoth_inbox (f : Fld) (v : Nat) (s : State) : (setBoth f v s).inbox = s.inbox := rfl
@[simp] theorem setBoth_seam (f : Fld) (v : Nat) (s : State) : (setBoth f v s).seam = s.seam := rfl
@[simp] theorem setBoth_arb (f : Fld) (v : Nat) (s : State) : (setBoth f v s).arb = s.arb := rfl
@[simp] theorem setBoth_flt (f : Fld) (v : Nat) (s : State) : (setBoth f v s).flt = s.flt := rfl
@[simp] theorem setBoth_srv (f : Fld) (v : Nat) (s : State) : (setBoth f v s).srv = s.srv := rfl
@[simp] theorem setBoth_time (f : Fld) (v : Nat) (s : State) : (setBoth f v s).time = s.time := rfl
@[simp] theorem setBoth_thm (f : Fld) (v : Nat) (s : State) : (setBoth f v s).thm = s.thm := rfl
@[simp] theorem setBoth_fw (f : Fld) (v : Nat) (s : State) : (setBoth f v s).fw = s.fw := rfl
@[simp] theorem setBoth_pages (f : Fld) (v : Nat) (s : State) : (setBoth f v s).pages = s.pages := rfl
@[simp] theorem setBoth_mbx (f : Fld) (v : Nat) (s : State) : (setBoth f v s).mbx = s.mbx := rfl
@[simp] theorem setBoth_badArr (f : Fld) (v : Nat) (s : State) : (setBoth f v s).badArr = s.badArr := rfl
@[simp] theorem setBoth_rampNext (f : Fld) (v : Nat) (s : State) : (setBoth f v s).rampNext = s.rampNext := rfl
@[simp] theorem setBoth_out (f : Fld) (v : Nat) (s : State) : (setBoth f v s).out = s.out := rfl
@[simp] theorem setBoth_pwroff (f : Fld) (v : Nat) (s : State) : (setBoth f v s).pwroff = s.pwroff := rfl
@[simp] theorem setBoth_phys (f : Fld) (v : Nat) (s : State) : (setBoth f v s).phys = s.phys := rfl
@[simp] theorem setBoth_undo (f : Fld) (v : Nat) (s : State) : (setBoth f v s).undo = s.undo := rfl
@[simp] theorem setBoth_free (f : Fld) (v : Nat) (s : State) : (setBoth f v s).free = s.free := rfl

/-! ### bumpN -/

@[simp] theorem bumpN_pending (f : Fld) (n : Nat) (s : State) : (bumpN f n s).pending = s.pending := rfl
@[simp] theorem bumpN_act (f : Fld) (n : Nat) (s : State) : (bumpN f n s).act = s.act := rfl
@[simp] theorem bumpN_shadows (f : Fld) (n : Nat) (s : State) : (bumpN f n s).shadows = s.shadows := rfl
@[simp] theorem bumpN_snap (f : Fld) (n : Nat) (s : State) : (bumpN f n s).snap = s.snap := rfl
@[simp] theorem bumpN_latchH (f : Fld) (n : Nat) (s : State) : (bumpN f n s).latchH = s.latchH := rfl
@[simp] theorem bumpN_latchM (f : Fld) (n : Nat) (s : State) : (bumpN f n s).latchM = s.latchM := rfl
@[simp] theorem bumpN_readH (f : Fld) (n : Nat) (s : State) : (bumpN f n s).readH = s.readH := rfl
@[simp] theorem bumpN_readM (f : Fld) (n : Nat) (s : State) : (bumpN f n s).readM = s.readM := rfl
@[simp] theorem bumpN_regsM (f : Fld) (n : Nat) (s : State) : (bumpN f n s).regsM = s.regsM := rfl
@[simp] theorem bumpN_setAt (f : Fld) (n : Nat) (s : State) : (bumpN f n s).setAt = s.setAt := rfl
@[simp] theorem bumpN_hostSnap (f : Fld) (n : Nat) (s : State) : (bumpN f n s).hostSnap = s.hostSnap := rfl
@[simp] theorem bumpN_tap (f : Fld) (n : Nat) (s : State) : (bumpN f n s).tap = s.tap := rfl
@[simp] theorem bumpN_frac (f : Fld) (n : Nat) (s : State) : (bumpN f n s).frac = s.frac := rfl
@[simp] theorem bumpN_cores (f : Fld) (n : Nat) (s : State) : (bumpN f n s).cores = s.cores := rfl
@[simp] theorem bumpN_mem (f : Fld) (n : Nat) (s : State) : (bumpN f n s).mem = s.mem := rfl
@[simp] theorem bumpN_mesh (f : Fld) (n : Nat) (s : State) : (bumpN f n s).mesh = s.mesh := rfl
@[simp] theorem bumpN_stks (f : Fld) (n : Nat) (s : State) : (bumpN f n s).stks = s.stks := rfl
@[simp] theorem bumpN_ports (f : Fld) (n : Nat) (s : State) : (bumpN f n s).ports = s.ports := rfl
@[simp] theorem bumpN_inbox (f : Fld) (n : Nat) (s : State) : (bumpN f n s).inbox = s.inbox := rfl
@[simp] theorem bumpN_seam (f : Fld) (n : Nat) (s : State) : (bumpN f n s).seam = s.seam := rfl
@[simp] theorem bumpN_arb (f : Fld) (n : Nat) (s : State) : (bumpN f n s).arb = s.arb := rfl
@[simp] theorem bumpN_flt (f : Fld) (n : Nat) (s : State) : (bumpN f n s).flt = s.flt := rfl
@[simp] theorem bumpN_srv (f : Fld) (n : Nat) (s : State) : (bumpN f n s).srv = s.srv := rfl
@[simp] theorem bumpN_time (f : Fld) (n : Nat) (s : State) : (bumpN f n s).time = s.time := rfl
@[simp] theorem bumpN_thm (f : Fld) (n : Nat) (s : State) : (bumpN f n s).thm = s.thm := rfl
@[simp] theorem bumpN_fw (f : Fld) (n : Nat) (s : State) : (bumpN f n s).fw = s.fw := rfl
@[simp] theorem bumpN_pages (f : Fld) (n : Nat) (s : State) : (bumpN f n s).pages = s.pages := rfl
@[simp] theorem bumpN_mbx (f : Fld) (n : Nat) (s : State) : (bumpN f n s).mbx = s.mbx := rfl
@[simp] theorem bumpN_badArr (f : Fld) (n : Nat) (s : State) : (bumpN f n s).badArr = s.badArr := rfl
@[simp] theorem bumpN_rampNext (f : Fld) (n : Nat) (s : State) : (bumpN f n s).rampNext = s.rampNext := rfl
@[simp] theorem bumpN_out (f : Fld) (n : Nat) (s : State) : (bumpN f n s).out = s.out := rfl
@[simp] theorem bumpN_pwroff (f : Fld) (n : Nat) (s : State) : (bumpN f n s).pwroff = s.pwroff := rfl
@[simp] theorem bumpN_phys (f : Fld) (n : Nat) (s : State) : (bumpN f n s).phys = s.phys := rfl
@[simp] theorem bumpN_undo (f : Fld) (n : Nat) (s : State) : (bumpN f n s).undo = s.undo := rfl
@[simp] theorem bumpN_free (f : Fld) (n : Nat) (s : State) : (bumpN f n s).free = s.free := rfl

/-! ### bump -/

@[simp] theorem bump_pending (f : Fld) (s : State) : (bump f s).pending = s.pending := rfl
@[simp] theorem bump_act (f : Fld) (s : State) : (bump f s).act = s.act := rfl
@[simp] theorem bump_shadows (f : Fld) (s : State) : (bump f s).shadows = s.shadows := rfl
@[simp] theorem bump_snap (f : Fld) (s : State) : (bump f s).snap = s.snap := rfl
@[simp] theorem bump_latchH (f : Fld) (s : State) : (bump f s).latchH = s.latchH := rfl
@[simp] theorem bump_latchM (f : Fld) (s : State) : (bump f s).latchM = s.latchM := rfl
@[simp] theorem bump_readH (f : Fld) (s : State) : (bump f s).readH = s.readH := rfl
@[simp] theorem bump_readM (f : Fld) (s : State) : (bump f s).readM = s.readM := rfl
@[simp] theorem bump_regsM (f : Fld) (s : State) : (bump f s).regsM = s.regsM := rfl
@[simp] theorem bump_setAt (f : Fld) (s : State) : (bump f s).setAt = s.setAt := rfl
@[simp] theorem bump_hostSnap (f : Fld) (s : State) : (bump f s).hostSnap = s.hostSnap := rfl
@[simp] theorem bump_tap (f : Fld) (s : State) : (bump f s).tap = s.tap := rfl
@[simp] theorem bump_frac (f : Fld) (s : State) : (bump f s).frac = s.frac := rfl
@[simp] theorem bump_cores (f : Fld) (s : State) : (bump f s).cores = s.cores := rfl
@[simp] theorem bump_mem (f : Fld) (s : State) : (bump f s).mem = s.mem := rfl
@[simp] theorem bump_mesh (f : Fld) (s : State) : (bump f s).mesh = s.mesh := rfl
@[simp] theorem bump_stks (f : Fld) (s : State) : (bump f s).stks = s.stks := rfl
@[simp] theorem bump_ports (f : Fld) (s : State) : (bump f s).ports = s.ports := rfl
@[simp] theorem bump_inbox (f : Fld) (s : State) : (bump f s).inbox = s.inbox := rfl
@[simp] theorem bump_seam (f : Fld) (s : State) : (bump f s).seam = s.seam := rfl
@[simp] theorem bump_arb (f : Fld) (s : State) : (bump f s).arb = s.arb := rfl
@[simp] theorem bump_flt (f : Fld) (s : State) : (bump f s).flt = s.flt := rfl
@[simp] theorem bump_srv (f : Fld) (s : State) : (bump f s).srv = s.srv := rfl
@[simp] theorem bump_time (f : Fld) (s : State) : (bump f s).time = s.time := rfl
@[simp] theorem bump_thm (f : Fld) (s : State) : (bump f s).thm = s.thm := rfl
@[simp] theorem bump_fw (f : Fld) (s : State) : (bump f s).fw = s.fw := rfl
@[simp] theorem bump_pages (f : Fld) (s : State) : (bump f s).pages = s.pages := rfl
@[simp] theorem bump_mbx (f : Fld) (s : State) : (bump f s).mbx = s.mbx := rfl
@[simp] theorem bump_badArr (f : Fld) (s : State) : (bump f s).badArr = s.badArr := rfl
@[simp] theorem bump_rampNext (f : Fld) (s : State) : (bump f s).rampNext = s.rampNext := rfl
@[simp] theorem bump_out (f : Fld) (s : State) : (bump f s).out = s.out := rfl
@[simp] theorem bump_pwroff (f : Fld) (s : State) : (bump f s).pwroff = s.pwroff := rfl
@[simp] theorem bump_phys (f : Fld) (s : State) : (bump f s).phys = s.phys := rfl
@[simp] theorem bump_undo (f : Fld) (s : State) : (bump f s).undo = s.undo := rfl
@[simp] theorem bump_free (f : Fld) (s : State) : (bump f s).free = s.free := rfl

/-! ### setBit -/

@[simp] theorem setBit_pending (f : Fld) (i : Nat) (b : Bool) (s : State) : (setBit f i b s).pending = s.pending := rfl
@[simp] theorem setBit_act (f : Fld) (i : Nat) (b : Bool) (s : State) : (setBit f i b s).act = s.act := rfl
@[simp] theorem setBit_shadows (f : Fld) (i : Nat) (b : Bool) (s : State) : (setBit f i b s).shadows = s.shadows := rfl
@[simp] theorem setBit_snap (f : Fld) (i : Nat) (b : Bool) (s : State) : (setBit f i b s).snap = s.snap := rfl
@[simp] theorem setBit_latchH (f : Fld) (i : Nat) (b : Bool) (s : State) : (setBit f i b s).latchH = s.latchH := rfl
@[simp] theorem setBit_latchM (f : Fld) (i : Nat) (b : Bool) (s : State) : (setBit f i b s).latchM = s.latchM := rfl
@[simp] theorem setBit_readH (f : Fld) (i : Nat) (b : Bool) (s : State) : (setBit f i b s).readH = s.readH := rfl
@[simp] theorem setBit_readM (f : Fld) (i : Nat) (b : Bool) (s : State) : (setBit f i b s).readM = s.readM := rfl
@[simp] theorem setBit_regsM (f : Fld) (i : Nat) (b : Bool) (s : State) : (setBit f i b s).regsM = s.regsM := rfl
@[simp] theorem setBit_setAt (f : Fld) (i : Nat) (b : Bool) (s : State) : (setBit f i b s).setAt = s.setAt := rfl
@[simp] theorem setBit_hostSnap (f : Fld) (i : Nat) (b : Bool) (s : State) : (setBit f i b s).hostSnap = s.hostSnap := rfl
@[simp] theorem setBit_tap (f : Fld) (i : Nat) (b : Bool) (s : State) : (setBit f i b s).tap = s.tap := rfl
@[simp] theorem setBit_frac (f : Fld) (i : Nat) (b : Bool) (s : State) : (setBit f i b s).frac = s.frac := rfl
@[simp] theorem setBit_cores (f : Fld) (i : Nat) (b : Bool) (s : State) : (setBit f i b s).cores = s.cores := rfl
@[simp] theorem setBit_mem (f : Fld) (i : Nat) (b : Bool) (s : State) : (setBit f i b s).mem = s.mem := rfl
@[simp] theorem setBit_mesh (f : Fld) (i : Nat) (b : Bool) (s : State) : (setBit f i b s).mesh = s.mesh := rfl
@[simp] theorem setBit_stks (f : Fld) (i : Nat) (b : Bool) (s : State) : (setBit f i b s).stks = s.stks := rfl
@[simp] theorem setBit_ports (f : Fld) (i : Nat) (b : Bool) (s : State) : (setBit f i b s).ports = s.ports := rfl
@[simp] theorem setBit_inbox (f : Fld) (i : Nat) (b : Bool) (s : State) : (setBit f i b s).inbox = s.inbox := rfl
@[simp] theorem setBit_seam (f : Fld) (i : Nat) (b : Bool) (s : State) : (setBit f i b s).seam = s.seam := rfl
@[simp] theorem setBit_arb (f : Fld) (i : Nat) (b : Bool) (s : State) : (setBit f i b s).arb = s.arb := rfl
@[simp] theorem setBit_flt (f : Fld) (i : Nat) (b : Bool) (s : State) : (setBit f i b s).flt = s.flt := rfl
@[simp] theorem setBit_srv (f : Fld) (i : Nat) (b : Bool) (s : State) : (setBit f i b s).srv = s.srv := rfl
@[simp] theorem setBit_time (f : Fld) (i : Nat) (b : Bool) (s : State) : (setBit f i b s).time = s.time := rfl
@[simp] theorem setBit_thm (f : Fld) (i : Nat) (b : Bool) (s : State) : (setBit f i b s).thm = s.thm := rfl
@[simp] theorem setBit_fw (f : Fld) (i : Nat) (b : Bool) (s : State) : (setBit f i b s).fw = s.fw := rfl
@[simp] theorem setBit_pages (f : Fld) (i : Nat) (b : Bool) (s : State) : (setBit f i b s).pages = s.pages := rfl
@[simp] theorem setBit_mbx (f : Fld) (i : Nat) (b : Bool) (s : State) : (setBit f i b s).mbx = s.mbx := rfl
@[simp] theorem setBit_badArr (f : Fld) (i : Nat) (b : Bool) (s : State) : (setBit f i b s).badArr = s.badArr := rfl
@[simp] theorem setBit_rampNext (f : Fld) (i : Nat) (b : Bool) (s : State) : (setBit f i b s).rampNext = s.rampNext := rfl
@[simp] theorem setBit_out (f : Fld) (i : Nat) (b : Bool) (s : State) : (setBit f i b s).out = s.out := rfl
@[simp] theorem setBit_pwroff (f : Fld) (i : Nat) (b : Bool) (s : State) : (setBit f i b s).pwroff = s.pwroff := rfl
@[simp] theorem setBit_phys (f : Fld) (i : Nat) (b : Bool) (s : State) : (setBit f i b s).phys = s.phys := rfl
@[simp] theorem setBit_undo (f : Fld) (i : Nat) (b : Bool) (s : State) : (setBit f i b s).undo = s.undo := rfl
@[simp] theorem setBit_free (f : Fld) (i : Nat) (b : Bool) (s : State) : (setBit f i b s).free = s.free := rfl

/-! ### emit -/

@[simp] theorem emit_pending (d : Party) (t : Topic) (l : List Nat) (s : State) : (emit d t l s).pending = s.pending := rfl
@[simp] theorem emit_regs (d : Party) (t : Topic) (l : List Nat) (s : State) : (emit d t l s).regs = s.regs := rfl
@[simp] theorem emit_act (d : Party) (t : Topic) (l : List Nat) (s : State) : (emit d t l s).act = s.act := rfl
@[simp] theorem emit_shadows (d : Party) (t : Topic) (l : List Nat) (s : State) : (emit d t l s).shadows = s.shadows := rfl
@[simp] theorem emit_snap (d : Party) (t : Topic) (l : List Nat) (s : State) : (emit d t l s).snap = s.snap := rfl
@[simp] theorem emit_latchH (d : Party) (t : Topic) (l : List Nat) (s : State) : (emit d t l s).latchH = s.latchH := rfl
@[simp] theorem emit_latchM (d : Party) (t : Topic) (l : List Nat) (s : State) : (emit d t l s).latchM = s.latchM := rfl
@[simp] theorem emit_readH (d : Party) (t : Topic) (l : List Nat) (s : State) : (emit d t l s).readH = s.readH := rfl
@[simp] theorem emit_readM (d : Party) (t : Topic) (l : List Nat) (s : State) : (emit d t l s).readM = s.readM := rfl
@[simp] theorem emit_regsM (d : Party) (t : Topic) (l : List Nat) (s : State) : (emit d t l s).regsM = s.regsM := rfl
@[simp] theorem emit_setAt (d : Party) (t : Topic) (l : List Nat) (s : State) : (emit d t l s).setAt = s.setAt := rfl
@[simp] theorem emit_hostSnap (d : Party) (t : Topic) (l : List Nat) (s : State) : (emit d t l s).hostSnap = s.hostSnap := rfl
@[simp] theorem emit_tap (d : Party) (t : Topic) (l : List Nat) (s : State) : (emit d t l s).tap = s.tap := rfl
@[simp] theorem emit_frac (d : Party) (t : Topic) (l : List Nat) (s : State) : (emit d t l s).frac = s.frac := rfl
@[simp] theorem emit_cores (d : Party) (t : Topic) (l : List Nat) (s : State) : (emit d t l s).cores = s.cores := rfl
@[simp] theorem emit_mem (d : Party) (t : Topic) (l : List Nat) (s : State) : (emit d t l s).mem = s.mem := rfl
@[simp] theorem emit_mesh (d : Party) (t : Topic) (l : List Nat) (s : State) : (emit d t l s).mesh = s.mesh := rfl
@[simp] theorem emit_stks (d : Party) (t : Topic) (l : List Nat) (s : State) : (emit d t l s).stks = s.stks := rfl
@[simp] theorem emit_ports (d : Party) (t : Topic) (l : List Nat) (s : State) : (emit d t l s).ports = s.ports := rfl
@[simp] theorem emit_inbox (d : Party) (t : Topic) (l : List Nat) (s : State) : (emit d t l s).inbox = s.inbox := rfl
@[simp] theorem emit_seam (d : Party) (t : Topic) (l : List Nat) (s : State) : (emit d t l s).seam = s.seam := rfl
@[simp] theorem emit_arb (d : Party) (t : Topic) (l : List Nat) (s : State) : (emit d t l s).arb = s.arb := rfl
@[simp] theorem emit_flt (d : Party) (t : Topic) (l : List Nat) (s : State) : (emit d t l s).flt = s.flt := rfl
@[simp] theorem emit_srv (d : Party) (t : Topic) (l : List Nat) (s : State) : (emit d t l s).srv = s.srv := rfl
@[simp] theorem emit_time (d : Party) (t : Topic) (l : List Nat) (s : State) : (emit d t l s).time = s.time := rfl
@[simp] theorem emit_thm (d : Party) (t : Topic) (l : List Nat) (s : State) : (emit d t l s).thm = s.thm := rfl
@[simp] theorem emit_fw (d : Party) (t : Topic) (l : List Nat) (s : State) : (emit d t l s).fw = s.fw := rfl
@[simp] theorem emit_pages (d : Party) (t : Topic) (l : List Nat) (s : State) : (emit d t l s).pages = s.pages := rfl
@[simp] theorem emit_mbx (d : Party) (t : Topic) (l : List Nat) (s : State) : (emit d t l s).mbx = s.mbx := rfl
@[simp] theorem emit_badArr (d : Party) (t : Topic) (l : List Nat) (s : State) : (emit d t l s).badArr = s.badArr := rfl
@[simp] theorem emit_rampNext (d : Party) (t : Topic) (l : List Nat) (s : State) : (emit d t l s).rampNext = s.rampNext := rfl
@[simp] theorem emit_pwroff (d : Party) (t : Topic) (l : List Nat) (s : State) : (emit d t l s).pwroff = s.pwroff := rfl
@[simp] theorem emit_phys (d : Party) (t : Topic) (l : List Nat) (s : State) : (emit d t l s).phys = s.phys := rfl
@[simp] theorem emit_undo (d : Party) (t : Topic) (l : List Nat) (s : State) : (emit d t l s).undo = s.undo := rfl
@[simp] theorem emit_free (d : Party) (t : Topic) (l : List Nat) (s : State) : (emit d t l s).free = s.free := rfl

/-! ### updCore -/

@[simp] theorem updCore_pending (c : Nat) (f : CoreSt → CoreSt) (s : State) : (updCore c f s).pending = s.pending := rfl
@[simp] theorem updCore_regs (c : Nat) (f : CoreSt → CoreSt) (s : State) : (updCore c f s).regs = s.regs := rfl
@[simp] theorem updCore_act (c : Nat) (f : CoreSt → CoreSt) (s : State) : (updCore c f s).act = s.act := rfl
@[simp] theorem updCore_shadows (c : Nat) (f : CoreSt → CoreSt) (s : State) : (updCore c f s).shadows = s.shadows := rfl
@[simp] theorem updCore_snap (c : Nat) (f : CoreSt → CoreSt) (s : State) : (updCore c f s).snap = s.snap := rfl
@[simp] theorem updCore_latchH (c : Nat) (f : CoreSt → CoreSt) (s : State) : (updCore c f s).latchH = s.latchH := rfl
@[simp] theorem updCore_latchM (c : Nat) (f : CoreSt → CoreSt) (s : State) : (updCore c f s).latchM = s.latchM := rfl
@[simp] theorem updCore_readH (c : Nat) (f : CoreSt → CoreSt) (s : State) : (updCore c f s).readH = s.readH := rfl
@[simp] theorem updCore_readM (c : Nat) (f : CoreSt → CoreSt) (s : State) : (updCore c f s).readM = s.readM := rfl
@[simp] theorem updCore_regsM (c : Nat) (f : CoreSt → CoreSt) (s : State) : (updCore c f s).regsM = s.regsM := rfl
@[simp] theorem updCore_setAt (c : Nat) (f : CoreSt → CoreSt) (s : State) : (updCore c f s).setAt = s.setAt := rfl
@[simp] theorem updCore_hostSnap (c : Nat) (f : CoreSt → CoreSt) (s : State) : (updCore c f s).hostSnap = s.hostSnap := rfl
@[simp] theorem updCore_tap (c : Nat) (f : CoreSt → CoreSt) (s : State) : (updCore c f s).tap = s.tap := rfl
@[simp] theorem updCore_frac (c : Nat) (f : CoreSt → CoreSt) (s : State) : (updCore c f s).frac = s.frac := rfl
@[simp] theorem updCore_mem (c : Nat) (f : CoreSt → CoreSt) (s : State) : (updCore c f s).mem = s.mem := rfl
@[simp] theorem updCore_mesh (c : Nat) (f : CoreSt → CoreSt) (s : State) : (updCore c f s).mesh = s.mesh := rfl
@[simp] theorem updCore_stks (c : Nat) (f : CoreSt → CoreSt) (s : State) : (updCore c f s).stks = s.stks := rfl
@[simp] theorem updCore_ports (c : Nat) (f : CoreSt → CoreSt) (s : State) : (updCore c f s).ports = s.ports := rfl
@[simp] theorem updCore_inbox (c : Nat) (f : CoreSt → CoreSt) (s : State) : (updCore c f s).inbox = s.inbox := rfl
@[simp] theorem updCore_seam (c : Nat) (f : CoreSt → CoreSt) (s : State) : (updCore c f s).seam = s.seam := rfl
@[simp] theorem updCore_arb (c : Nat) (f : CoreSt → CoreSt) (s : State) : (updCore c f s).arb = s.arb := rfl
@[simp] theorem updCore_flt (c : Nat) (f : CoreSt → CoreSt) (s : State) : (updCore c f s).flt = s.flt := rfl
@[simp] theorem updCore_srv (c : Nat) (f : CoreSt → CoreSt) (s : State) : (updCore c f s).srv = s.srv := rfl
@[simp] theorem updCore_time (c : Nat) (f : CoreSt → CoreSt) (s : State) : (updCore c f s).time = s.time := rfl
@[simp] theorem updCore_thm (c : Nat) (f : CoreSt → CoreSt) (s : State) : (updCore c f s).thm = s.thm := rfl
@[simp] theorem updCore_fw (c : Nat) (f : CoreSt → CoreSt) (s : State) : (updCore c f s).fw = s.fw := rfl
@[simp] theorem updCore_pages (c : Nat) (f : CoreSt → CoreSt) (s : State) : (updCore c f s).pages = s.pages := rfl
@[simp] theorem updCore_mbx (c : Nat) (f : CoreSt → CoreSt) (s : State) : (updCore c f s).mbx = s.mbx := rfl
@[simp] theorem updCore_badArr (c : Nat) (f : CoreSt → CoreSt) (s : State) : (updCore c f s).badArr = s.badArr := rfl
@[simp] theorem updCore_rampNext (c : Nat) (f : CoreSt → CoreSt) (s : State) : (updCore c f s).rampNext = s.rampNext := rfl
@[simp] theorem updCore_out (c : Nat) (f : CoreSt → CoreSt) (s : State) : (updCore c f s).out = s.out := rfl
@[simp] theorem updCore_pwroff (c : Nat) (f : CoreSt → CoreSt) (s : State) : (updCore c f s).pwroff = s.pwroff := rfl
@[simp] theorem updCore_phys (c : Nat) (f : CoreSt → CoreSt) (s : State) : (updCore c f s).phys = s.phys := rfl
@[simp] theorem updCore_undo (c : Nat) (f : CoreSt → CoreSt) (s : State) : (updCore c f s).undo = s.undo := rfl
@[simp] theorem updCore_free (c : Nat) (f : CoreSt → CoreSt) (s : State) : (updCore c f s).free = s.free := rfl

/-! ### updPhys -/

@[simp] theorem updPhys_pending (f : PhysSt → PhysSt) (s : State) : (updPhys f s).pending = s.pending := rfl
@[simp] theorem updPhys_regs (f : PhysSt → PhysSt) (s : State) : (updPhys f s).regs = s.regs := rfl
@[simp] theorem updPhys_act (f : PhysSt → PhysSt) (s : State) : (updPhys f s).act = s.act := rfl
@[simp] theorem updPhys_shadows (f : PhysSt → PhysSt) (s : State) : (updPhys f s).shadows = s.shadows := rfl
@[simp] theorem updPhys_snap (f : PhysSt → PhysSt) (s : State) : (updPhys f s).snap = s.snap := rfl
@[simp] theorem updPhys_latchH (f : PhysSt → PhysSt) (s : State) : (updPhys f s).latchH = s.latchH := rfl
@[simp] theorem updPhys_latchM (f : PhysSt → PhysSt) (s : State) : (updPhys f s).latchM = s.latchM := rfl
@[simp] theorem updPhys_readH (f : PhysSt → PhysSt) (s : State) : (updPhys f s).readH = s.readH := rfl
@[simp] theorem updPhys_readM (f : PhysSt → PhysSt) (s : State) : (updPhys f s).readM = s.readM := rfl
@[simp] theorem updPhys_regsM (f : PhysSt → PhysSt) (s : State) : (updPhys f s).regsM = s.regsM := rfl
@[simp] theorem updPhys_setAt (f : PhysSt → PhysSt) (s : State) : (updPhys f s).setAt = s.setAt := rfl
@[simp] theorem updPhys_hostSnap (f : PhysSt → PhysSt) (s : State) : (updPhys f s).hostSnap = s.hostSnap := rfl
@[simp] theorem updPhys_tap (f : PhysSt → PhysSt) (s : State) : (updPhys f s).tap = s.tap := rfl
@[simp] theorem updPhys_frac (f : PhysSt → PhysSt) (s : State) : (updPhys f s).frac = s.frac := rfl
@[simp] theorem updPhys_mem (f : PhysSt → PhysSt) (s : State) : (updPhys f s).mem = s.mem := rfl
@[simp] theorem updPhys_mesh (f : PhysSt → PhysSt) (s : State) : (updPhys f s).mesh = s.mesh := rfl
@[simp] theorem updPhys_stks (f : PhysSt → PhysSt) (s : State) : (updPhys f s).stks = s.stks := rfl
@[simp] theorem updPhys_ports (f : PhysSt → PhysSt) (s : State) : (updPhys f s).ports = s.ports := rfl
@[simp] theorem updPhys_inbox (f : PhysSt → PhysSt) (s : State) : (updPhys f s).inbox = s.inbox := rfl
@[simp] theorem updPhys_seam (f : PhysSt → PhysSt) (s : State) : (updPhys f s).seam = s.seam := rfl
@[simp] theorem updPhys_arb (f : PhysSt → PhysSt) (s : State) : (updPhys f s).arb = s.arb := rfl
@[simp] theorem updPhys_flt (f : PhysSt → PhysSt) (s : State) : (updPhys f s).flt = s.flt := rfl
@[simp] theorem updPhys_srv (f : PhysSt → PhysSt) (s : State) : (updPhys f s).srv = s.srv := rfl
@[simp] theorem updPhys_time (f : PhysSt → PhysSt) (s : State) : (updPhys f s).time = s.time := rfl
@[simp] theorem updPhys_thm (f : PhysSt → PhysSt) (s : State) : (updPhys f s).thm = s.thm := rfl
@[simp] theorem updPhys_fw (f : PhysSt → PhysSt) (s : State) : (updPhys f s).fw = s.fw := rfl
@[simp] theorem updPhys_pages (f : PhysSt → PhysSt) (s : State) : (updPhys f s).pages = s.pages := rfl
@[simp] theorem updPhys_mbx (f : PhysSt → PhysSt) (s : State) : (updPhys f s).mbx = s.mbx := rfl
@[simp] theorem updPhys_badArr (f : PhysSt → PhysSt) (s : State) : (updPhys f s).badArr = s.badArr := rfl
@[simp] theorem updPhys_rampNext (f : PhysSt → PhysSt) (s : State) : (updPhys f s).rampNext = s.rampNext := rfl
@[simp] theorem updPhys_out (f : PhysSt → PhysSt) (s : State) : (updPhys f s).out = s.out := rfl
@[simp] theorem updPhys_pwroff (f : PhysSt → PhysSt) (s : State) : (updPhys f s).pwroff = s.pwroff := rfl
@[simp] theorem updPhys_undo (f : PhysSt → PhysSt) (s : State) : (updPhys f s).undo = s.undo := rfl
@[simp] theorem updPhys_free (f : PhysSt → PhysSt) (s : State) : (updPhys f s).free = s.free := rfl
@[simp] theorem updPhys_cores (f : PhysSt → PhysSt) (s : State) : (updPhys f s).cores = s.cores := rfl
@[simp] theorem updPhys_phys (f : PhysSt → PhysSt) (s : State) : (updPhys f s).phys = f s.phys := rfl

/-! ### updFw -/

@[simp] theorem updFw_pending (f : FwSt → FwSt) (s : State) : (updFw f s).pending = s.pending := rfl
@[simp] theorem updFw_regs (f : FwSt → FwSt) (s : State) : (updFw f s).regs = s.regs := rfl
@[simp] theorem updFw_act (f : FwSt → FwSt) (s : State) : (updFw f s).act = s.act := rfl
@[simp] theorem updFw_shadows (f : FwSt → FwSt) (s : State) : (updFw f s).shadows = s.shadows := rfl
@[simp] theorem updFw_snap (f : FwSt → FwSt) (s : State) : (updFw f s).snap = s.snap := rfl
@[simp] theorem updFw_latchH (f : FwSt → FwSt) (s : State) : (updFw f s).latchH = s.latchH := rfl
@[simp] theorem updFw_latchM (f : FwSt → FwSt) (s : State) : (updFw f s).latchM = s.latchM := rfl
@[simp] theorem updFw_readH (f : FwSt → FwSt) (s : State) : (updFw f s).readH = s.readH := rfl
@[simp] theorem updFw_readM (f : FwSt → FwSt) (s : State) : (updFw f s).readM = s.readM := rfl
@[simp] theorem updFw_regsM (f : FwSt → FwSt) (s : State) : (updFw f s).regsM = s.regsM := rfl
@[simp] theorem updFw_setAt (f : FwSt → FwSt) (s : State) : (updFw f s).setAt = s.setAt := rfl
@[simp] theorem updFw_hostSnap (f : FwSt → FwSt) (s : State) : (updFw f s).hostSnap = s.hostSnap := rfl
@[simp] theorem updFw_tap (f : FwSt → FwSt) (s : State) : (updFw f s).tap = s.tap := rfl
@[simp] theorem updFw_frac (f : FwSt → FwSt) (s : State) : (updFw f s).frac = s.frac := rfl
@[simp] theorem updFw_mem (f : FwSt → FwSt) (s : State) : (updFw f s).mem = s.mem := rfl
@[simp] theorem updFw_mesh (f : FwSt → FwSt) (s : State) : (updFw f s).mesh = s.mesh := rfl
@[simp] theorem updFw_stks (f : FwSt → FwSt) (s : State) : (updFw f s).stks = s.stks := rfl
@[simp] theorem updFw_ports (f : FwSt → FwSt) (s : State) : (updFw f s).ports = s.ports := rfl
@[simp] theorem updFw_inbox (f : FwSt → FwSt) (s : State) : (updFw f s).inbox = s.inbox := rfl
@[simp] theorem updFw_seam (f : FwSt → FwSt) (s : State) : (updFw f s).seam = s.seam := rfl
@[simp] theorem updFw_arb (f : FwSt → FwSt) (s : State) : (updFw f s).arb = s.arb := rfl
@[simp] theorem updFw_flt (f : FwSt → FwSt) (s : State) : (updFw f s).flt = s.flt := rfl
@[simp] theorem updFw_srv (f : FwSt → FwSt) (s : State) : (updFw f s).srv = s.srv := rfl
@[simp] theorem updFw_time (f : FwSt → FwSt) (s : State) : (updFw f s).time = s.time := rfl
@[simp] theorem updFw_thm (f : FwSt → FwSt) (s : State) : (updFw f s).thm = s.thm := rfl
@[simp] theorem updFw_pages (f : FwSt → FwSt) (s : State) : (updFw f s).pages = s.pages := rfl
@[simp] theorem updFw_mbx (f : FwSt → FwSt) (s : State) : (updFw f s).mbx = s.mbx := rfl
@[simp] theorem updFw_badArr (f : FwSt → FwSt) (s : State) : (updFw f s).badArr = s.badArr := rfl
@[simp] theorem updFw_rampNext (f : FwSt → FwSt) (s : State) : (updFw f s).rampNext = s.rampNext := rfl
@[simp] theorem updFw_out (f : FwSt → FwSt) (s : State) : (updFw f s).out = s.out := rfl
@[simp] theorem updFw_pwroff (f : FwSt → FwSt) (s : State) : (updFw f s).pwroff = s.pwroff := rfl
@[simp] theorem updFw_phys (f : FwSt → FwSt) (s : State) : (updFw f s).phys = s.phys := rfl
@[simp] theorem updFw_undo (f : FwSt → FwSt) (s : State) : (updFw f s).undo = s.undo := rfl
@[simp] theorem updFw_free (f : FwSt → FwSt) (s : State) : (updFw f s).free = s.free := rfl
@[simp] theorem updFw_cores (f : FwSt → FwSt) (s : State) : (updFw f s).cores = s.cores := rfl
@[simp] theorem updFw_fw (f : FwSt → FwSt) (s : State) : (updFw f s).fw = f s.fw := rfl

/-! ### updBoot -/

@[simp] theorem updBoot_pending (f : Boot → Boot) (s : State) : (updBoot f s).pending = s.pending := rfl
@[simp] theorem updBoot_regs (f : Boot → Boot) (s : State) : (updBoot f s).regs = s.regs := rfl
@[simp] theorem updBoot_act (f : Boot → Boot) (s : State) : (updBoot f s).act = s.act := rfl
@[simp] theorem updBoot_shadows (f : Boot → Boot) (s : State) : (updBoot f s).shadows = s.shadows := rfl
@[simp] theorem updBoot_snap (f : Boot → Boot) (s : State) : (updBoot f s).snap = s.snap := rfl
@[simp] theorem updBoot_latchH (f : Boot → Boot) (s : State) : (updBoot f s).latchH = s.latchH := rfl
@[simp] theorem updBoot_latchM (f : Boot → Boot) (s : State) : (updBoot f s).latchM = s.latchM := rfl
@[simp] theorem updBoot_readH (f : Boot → Boot) (s : State) : (updBoot f s).readH = s.readH := rfl
@[simp] theorem updBoot_readM (f : Boot → Boot) (s : State) : (updBoot f s).readM = s.readM := rfl
@[simp] theorem updBoot_regsM (f : Boot → Boot) (s : State) : (updBoot f s).regsM = s.regsM := rfl
@[simp] theorem updBoot_setAt (f : Boot → Boot) (s : State) : (updBoot f s).setAt = s.setAt := rfl
@[simp] theorem updBoot_hostSnap (f : Boot → Boot) (s : State) : (updBoot f s).hostSnap = s.hostSnap := rfl
@[simp] theorem updBoot_tap (f : Boot → Boot) (s : State) : (updBoot f s).tap = s.tap := rfl
@[simp] theorem updBoot_frac (f : Boot → Boot) (s : State) : (updBoot f s).frac = s.frac := rfl
@[simp] theorem updBoot_mem (f : Boot → Boot) (s : State) : (updBoot f s).mem = s.mem := rfl
@[simp] theorem updBoot_mesh (f : Boot → Boot) (s : State) : (updBoot f s).mesh = s.mesh := rfl
@[simp] theorem updBoot_stks (f : Boot → Boot) (s : State) : (updBoot f s).stks = s.stks := rfl
@[simp] theorem updBoot_ports (f : Boot → Boot) (s : State) : (updBoot f s).ports = s.ports := rfl
@[simp] theorem updBoot_inbox (f : Boot → Boot) (s : State) : (updBoot f s).inbox = s.inbox := rfl
@[simp] theorem updBoot_seam (f : Boot → Boot) (s : State) : (updBoot f s).seam = s.seam := rfl
@[simp] theorem updBoot_arb (f : Boot → Boot) (s : State) : (updBoot f s).arb = s.arb := rfl
@[simp] theorem updBoot_flt (f : Boot → Boot) (s : State) : (updBoot f s).flt = s.flt := rfl
@[simp] theorem updBoot_srv (f : Boot → Boot) (s : State) : (updBoot f s).srv = s.srv := rfl
@[simp] theorem updBoot_time (f : Boot → Boot) (s : State) : (updBoot f s).time = s.time := rfl
@[simp] theorem updBoot_thm (f : Boot → Boot) (s : State) : (updBoot f s).thm = s.thm := rfl
@[simp] theorem updBoot_pages (f : Boot → Boot) (s : State) : (updBoot f s).pages = s.pages := rfl
@[simp] theorem updBoot_mbx (f : Boot → Boot) (s : State) : (updBoot f s).mbx = s.mbx := rfl
@[simp] theorem updBoot_badArr (f : Boot → Boot) (s : State) : (updBoot f s).badArr = s.badArr := rfl
@[simp] theorem updBoot_rampNext (f : Boot → Boot) (s : State) : (updBoot f s).rampNext = s.rampNext := rfl
@[simp] theorem updBoot_out (f : Boot → Boot) (s : State) : (updBoot f s).out = s.out := rfl
@[simp] theorem updBoot_pwroff (f : Boot → Boot) (s : State) : (updBoot f s).pwroff = s.pwroff := rfl
@[simp] theorem updBoot_phys (f : Boot → Boot) (s : State) : (updBoot f s).phys = s.phys := rfl
@[simp] theorem updBoot_undo (f : Boot → Boot) (s : State) : (updBoot f s).undo = s.undo := rfl
@[simp] theorem updBoot_free (f : Boot → Boot) (s : State) : (updBoot f s).free = s.free := rfl
@[simp] theorem updBoot_cores (f : Boot → Boot) (s : State) : (updBoot f s).cores = s.cores := rfl
@[simp] theorem updBoot_fw (f : Boot → Boot) (s : State) : (updBoot f s).fw = { s.fw with boot := f s.fw.boot } := rfl

/-! ### drawFree -/

@[simp] theorem drawFree_pending (s : State) : (drawFree s).2.pending = s.pending := rfl
@[simp] theorem drawFree_regs (s : State) : (drawFree s).2.regs = s.regs := rfl
@[simp] theorem drawFree_act (s : State) : (drawFree s).2.act = s.act := rfl
@[simp] theorem drawFree_shadows (s : State) : (drawFree s).2.shadows = s.shadows := rfl
@[simp] theorem drawFree_snap (s : State) : (drawFree s).2.snap = s.snap := rfl
@[simp] theorem drawFree_latchH (s : State) : (drawFree s).2.latchH = s.latchH := rfl
@[simp] theorem drawFree_latchM (s : State) : (drawFree s).2.latchM = s.latchM := rfl
@[simp] theorem drawFree_readH (s : State) : (drawFree s).2.readH = s.readH := rfl
@[simp] theorem drawFree_readM (s : State) : (drawFree s).2.readM = s.readM := rfl
@[simp] theorem drawFree_regsM (s : State) : (drawFree s).2.regsM = s.regsM := rfl
@[simp] theorem drawFree_setAt (s : State) : (drawFree s).2.setAt = s.setAt := rfl
@[simp] theorem drawFree_hostSnap (s : State) : (drawFree s).2.hostSnap = s.hostSnap := rfl
@[simp] theorem drawFree_tap (s : State) : (drawFree s).2.tap = s.tap := rfl
@[simp] theorem drawFree_frac (s : State) : (drawFree s).2.frac = s.frac := rfl
@[simp] theorem drawFree_cores (s : State) : (drawFree s).2.cores = s.cores := rfl
@[simp] theorem drawFree_mem (s : State) : (drawFree s).2.mem = s.mem := rfl
@[simp] theorem drawFree_mesh (s : State) : (drawFree s).2.mesh = s.mesh := rfl
@[simp] theorem drawFree_stks (s : State) : (drawFree s).2.stks = s.stks := rfl
@[simp] theorem drawFree_ports (s : State) : (drawFree s).2.ports = s.ports := rfl
@[simp] theorem drawFree_inbox (s : State) : (drawFree s).2.inbox = s.inbox := rfl
@[simp] theorem drawFree_seam (s : State) : (drawFree s).2.seam = s.seam := rfl
@[simp] theorem drawFree_arb (s : State) : (drawFree s).2.arb = s.arb := rfl
@[simp] theorem drawFree_flt (s : State) : (drawFree s).2.flt = s.flt := rfl
@[simp] theorem drawFree_srv (s : State) : (drawFree s).2.srv = s.srv := rfl
@[simp] theorem drawFree_time (s : State) : (drawFree s).2.time = s.time := rfl
@[simp] theorem drawFree_thm (s : State) : (drawFree s).2.thm = s.thm := rfl
@[simp] theorem drawFree_fw (s : State) : (drawFree s).2.fw = s.fw := rfl
@[simp] theorem drawFree_pages (s : State) : (drawFree s).2.pages = s.pages := rfl
@[simp] theorem drawFree_mbx (s : State) : (drawFree s).2.mbx = s.mbx := rfl
@[simp] theorem drawFree_badArr (s : State) : (drawFree s).2.badArr = s.badArr := rfl
@[simp] theorem drawFree_rampNext (s : State) : (drawFree s).2.rampNext = s.rampNext := rfl
@[simp] theorem drawFree_out (s : State) : (drawFree s).2.out = s.out := rfl
@[simp] theorem drawFree_pwroff (s : State) : (drawFree s).2.pwroff = s.pwroff := rfl
@[simp] theorem drawFree_phys (s : State) : (drawFree s).2.phys = s.phys := rfl
@[simp] theorem drawFree_undo (s : State) : (drawFree s).2.undo = s.undo := rfl

/-! ### markRow -/

@[simp] theorem markRow_pending (c r : Nat) (b : Bool) (s : State) : (markRow c r b s).pending = s.pending := rfl
@[simp] theorem markRow_regs (c r : Nat) (b : Bool) (s : State) : (markRow c r b s).regs = s.regs := rfl
@[simp] theorem markRow_act (c r : Nat) (b : Bool) (s : State) : (markRow c r b s).act = s.act := rfl
@[simp] theorem markRow_shadows (c r : Nat) (b : Bool) (s : State) : (markRow c r b s).shadows = s.shadows := rfl
@[simp] theorem markRow_snap (c r : Nat) (b : Bool) (s : State) : (markRow c r b s).snap = s.snap := rfl
@[simp] theorem markRow_latchH (c r : Nat) (b : Bool) (s : State) : (markRow c r b s).latchH = s.latchH := rfl
@[simp] theorem markRow_latchM (c r : Nat) (b : Bool) (s : State) : (markRow c r b s).latchM = s.latchM := rfl
@[simp] theorem markRow_readH (c r : Nat) (b : Bool) (s : State) : (markRow c r b s).readH = s.readH := rfl
@[simp] theorem markRow_readM (c r : Nat) (b : Bool) (s : State) : (markRow c r b s).readM = s.readM := rfl
@[simp] theorem markRow_regsM (c r : Nat) (b : Bool) (s : State) : (markRow c r b s).regsM = s.regsM := rfl
@[simp] theorem markRow_setAt (c r : Nat) (b : Bool) (s : State) : (markRow c r b s).setAt = s.setAt := rfl
@[simp] theorem markRow_hostSnap (c r : Nat) (b : Bool) (s : State) : (markRow c r b s).hostSnap = s.hostSnap := rfl
@[simp] theorem markRow_tap (c r : Nat) (b : Bool) (s : State) : (markRow c r b s).tap = s.tap := rfl
@[simp] theorem markRow_frac (c r : Nat) (b : Bool) (s : State) : (markRow c r b s).frac = s.frac := rfl
@[simp] theorem markRow_cores (c r : Nat) (b : Bool) (s : State) : (markRow c r b s).cores = s.cores := rfl
@[simp] theorem markRow_mesh (c r : Nat) (b : Bool) (s : State) : (markRow c r b s).mesh = s.mesh := rfl
@[simp] theorem markRow_stks (c r : Nat) (b : Bool) (s : State) : (markRow c r b s).stks = s.stks := rfl
@[simp] theorem markRow_ports (c r : Nat) (b : Bool) (s : State) : (markRow c r b s).ports = s.ports := rfl
@[simp] theorem markRow_inbox (c r : Nat) (b : Bool) (s : State) : (markRow c r b s).inbox = s.inbox := rfl
@[simp] theorem markRow_seam (c r : Nat) (b : Bool) (s : State) : (markRow c r b s).seam = s.seam := rfl
@[simp] theorem markRow_arb (c r : Nat) (b : Bool) (s : State) : (markRow c r b s).arb = s.arb := rfl
@[simp] theorem markRow_flt (c r : Nat) (b : Bool) (s : State) : (markRow c r b s).flt = s.flt := rfl
@[simp] theorem markRow_srv (c r : Nat) (b : Bool) (s : State) : (markRow c r b s).srv = s.srv := rfl
@[simp] theorem markRow_time (c r : Nat) (b : Bool) (s : State) : (markRow c r b s).time = s.time := rfl
@[simp] theorem markRow_thm (c r : Nat) (b : Bool) (s : State) : (markRow c r b s).thm = s.thm := rfl
@[simp] theorem markRow_fw (c r : Nat) (b : Bool) (s : State) : (markRow c r b s).fw = s.fw := rfl
@[simp] theorem markRow_pages (c r : Nat) (b : Bool) (s : State) : (markRow c r b s).pages = s.pages := rfl
@[simp] theorem markRow_mbx (c r : Nat) (b : Bool) (s : State) : (markRow c r b s).mbx = s.mbx := rfl
@[simp] theorem markRow_badArr (c r : Nat) (b : Bool) (s : State) : (markRow c r b s).badArr = s.badArr := rfl
@[simp] theorem markRow_rampNext (c r : Nat) (b : Bool) (s : State) : (markRow c r b s).rampNext = s.rampNext := rfl
@[simp] theorem markRow_out (c r : Nat) (b : Bool) (s : State) : (markRow c r b s).out = s.out := rfl
@[simp] theorem markRow_pwroff (c r : Nat) (b : Bool) (s : State) : (markRow c r b s).pwroff = s.pwroff := rfl
@[simp] theorem markRow_phys (c r : Nat) (b : Bool) (s : State) : (markRow c r b s).phys = s.phys := rfl
@[simp] theorem markRow_undo (c r : Nat) (b : Bool) (s : State) : (markRow c r b s).undo = s.undo := rfl
@[simp] theorem markRow_free (c r : Nat) (b : Bool) (s : State) : (markRow c r b s).free = s.free := rfl

/-! ### putRow -/

@[simp] theorem putRow_pending (c r o : Nat) (l : List Byte) (s : State) : (putRow c r o l s).pending = s.pending := rfl
@[simp] theorem putRow_regs (c r o : Nat) (l : List Byte) (s : State) : (putRow c r o l s).regs = s.regs := rfl
@[simp] theorem putRow_act (c r o : Nat) (l : List Byte) (s : State) : (putRow c r o l s).act = s.act := rfl
@[simp] theorem putRow_shadows (c r o : Nat) (l : List Byte) (s : State) : (putRow c r o l s).shadows = s.shadows := rfl
@[simp] theorem putRow_snap (c r o : Nat) (l : List Byte) (s : State) : (putRow c r o l s).snap = s.snap := rfl
@[simp] theorem putRow_latchH (c r o : Nat) (l : List Byte) (s : State) : (putRow c r o l s).latchH = s.latchH := rfl
@[simp] theorem putRow_latchM (c r o : Nat) (l : List Byte) (s : State) : (putRow c r o l s).latchM = s.latchM := rfl
@[simp] theorem putRow_readH (c r o : Nat) (l : List Byte) (s : State) : (putRow c r o l s).readH = s.readH := rfl
@[simp] theorem putRow_readM (c r o : Nat) (l : List Byte) (s : State) : (putRow c r o l s).readM = s.readM := rfl
@[simp] theorem putRow_regsM (c r o : Nat) (l : List Byte) (s : State) : (putRow c r o l s).regsM = s.regsM := rfl
@[simp] theorem putRow_setAt (c r o : Nat) (l : List Byte) (s : State) : (putRow c r o l s).setAt = s.setAt := rfl
@[simp] theorem putRow_hostSnap (c r o : Nat) (l : List Byte) (s : State) : (putRow c r o l s).hostSnap = s.hostSnap := rfl
@[simp] theorem putRow_tap (c r o : Nat) (l : List Byte) (s : State) : (putRow c r o l s).tap = s.tap := rfl
@[simp] theorem putRow_frac (c r o : Nat) (l : List Byte) (s : State) : (putRow c r o l s).frac = s.frac := rfl
@[simp] theorem putRow_cores (c r o : Nat) (l : List Byte) (s : State) : (putRow c r o l s).cores = s.cores := rfl
@[simp] theorem putRow_mesh (c r o : Nat) (l : List Byte) (s : State) : (putRow c r o l s).mesh = s.mesh := rfl
@[simp] theorem putRow_stks (c r o : Nat) (l : List Byte) (s : State) : (putRow c r o l s).stks = s.stks := rfl
@[simp] theorem putRow_ports (c r o : Nat) (l : List Byte) (s : State) : (putRow c r o l s).ports = s.ports := rfl
@[simp] theorem putRow_inbox (c r o : Nat) (l : List Byte) (s : State) : (putRow c r o l s).inbox = s.inbox := rfl
@[simp] theorem putRow_seam (c r o : Nat) (l : List Byte) (s : State) : (putRow c r o l s).seam = s.seam := rfl
@[simp] theorem putRow_arb (c r o : Nat) (l : List Byte) (s : State) : (putRow c r o l s).arb = s.arb := rfl
@[simp] theorem putRow_flt (c r o : Nat) (l : List Byte) (s : State) : (putRow c r o l s).flt = s.flt := rfl
@[simp] theorem putRow_srv (c r o : Nat) (l : List Byte) (s : State) : (putRow c r o l s).srv = s.srv := rfl
@[simp] theorem putRow_time (c r o : Nat) (l : List Byte) (s : State) : (putRow c r o l s).time = s.time := rfl
@[simp] theorem putRow_thm (c r o : Nat) (l : List Byte) (s : State) : (putRow c r o l s).thm = s.thm := rfl
@[simp] theorem putRow_fw (c r o : Nat) (l : List Byte) (s : State) : (putRow c r o l s).fw = s.fw := rfl
@[simp] theorem putRow_pages (c r o : Nat) (l : List Byte) (s : State) : (putRow c r o l s).pages = s.pages := rfl
@[simp] theorem putRow_mbx (c r o : Nat) (l : List Byte) (s : State) : (putRow c r o l s).mbx = s.mbx := rfl
@[simp] theorem putRow_badArr (c r o : Nat) (l : List Byte) (s : State) : (putRow c r o l s).badArr = s.badArr := rfl
@[simp] theorem putRow_rampNext (c r o : Nat) (l : List Byte) (s : State) : (putRow c r o l s).rampNext = s.rampNext := rfl
@[simp] theorem putRow_out (c r o : Nat) (l : List Byte) (s : State) : (putRow c r o l s).out = s.out := rfl
@[simp] theorem putRow_pwroff (c r o : Nat) (l : List Byte) (s : State) : (putRow c r o l s).pwroff = s.pwroff := rfl
@[simp] theorem putRow_phys (c r o : Nat) (l : List Byte) (s : State) : (putRow c r o l s).phys = s.phys := rfl
@[simp] theorem putRow_undo (c r o : Nat) (l : List Byte) (s : State) : (putRow c r o l s).undo = s.undo := rfl
@[simp] theorem putRow_free (c r o : Nat) (l : List Byte) (s : State) : (putRow c r o l s).free = s.free := rfl

/-! ### markLine -/

@[simp] theorem markLine_pending (l : Nat) (b : Bool) (s : State) : (markLine l b s).pending = s.pending := rfl
@[simp] theorem markLine_regs (l : Nat) (b : Bool) (s : State) : (markLine l b s).regs = s.regs := rfl
@[simp] theorem markLine_act (l : Nat) (b : Bool) (s : State) : (markLine l b s).act = s.act := rfl
@[simp] theorem markLine_shadows (l : Nat) (b : Bool) (s : State) : (markLine l b s).shadows = s.shadows := rfl
@[simp] theorem markLine_snap (l : Nat) (b : Bool) (s : State) : (markLine l b s).snap = s.snap := rfl
@[simp] theorem markLine_latchH (l : Nat) (b : Bool) (s : State) : (markLine l b s).latchH = s.latchH := rfl
@[simp] theorem markLine_latchM (l : Nat) (b : Bool) (s : State) : (markLine l b s).latchM = s.latchM := rfl
@[simp] theorem markLine_readH (l : Nat) (b : Bool) (s : State) : (markLine l b s).readH = s.readH := rfl
@[simp] theorem markLine_readM (l : Nat) (b : Bool) (s : State) : (markLine l b s).readM = s.readM := rfl
@[simp] theorem markLine_regsM (l : Nat) (b : Bool) (s : State) : (markLine l b s).regsM = s.regsM := rfl
@[simp] theorem markLine_setAt (l : Nat) (b : Bool) (s : State) : (markLine l b s).setAt = s.setAt := rfl
@[simp] theorem markLine_hostSnap (l : Nat) (b : Bool) (s : State) : (markLine l b s).hostSnap = s.hostSnap := rfl
@[simp] theorem markLine_tap (l : Nat) (b : Bool) (s : State) : (markLine l b s).tap = s.tap := rfl
@[simp] theorem markLine_frac (l : Nat) (b : Bool) (s : State) : (markLine l b s).frac = s.frac := rfl
@[simp] theorem markLine_cores (l : Nat) (b : Bool) (s : State) : (markLine l b s).cores = s.cores := rfl
@[simp] theorem markLine_mesh (l : Nat) (b : Bool) (s : State) : (markLine l b s).mesh = s.mesh := rfl
@[simp] theorem markLine_stks (l : Nat) (b : Bool) (s : State) : (markLine l b s).stks = s.stks := rfl
@[simp] theorem markLine_ports (l : Nat) (b : Bool) (s : State) : (markLine l b s).ports = s.ports := rfl
@[simp] theorem markLine_inbox (l : Nat) (b : Bool) (s : State) : (markLine l b s).inbox = s.inbox := rfl
@[simp] theorem markLine_seam (l : Nat) (b : Bool) (s : State) : (markLine l b s).seam = s.seam := rfl
@[simp] theorem markLine_arb (l : Nat) (b : Bool) (s : State) : (markLine l b s).arb = s.arb := rfl
@[simp] theorem markLine_flt (l : Nat) (b : Bool) (s : State) : (markLine l b s).flt = s.flt := rfl
@[simp] theorem markLine_srv (l : Nat) (b : Bool) (s : State) : (markLine l b s).srv = s.srv := rfl
@[simp] theorem markLine_time (l : Nat) (b : Bool) (s : State) : (markLine l b s).time = s.time := rfl
@[simp] theorem markLine_thm (l : Nat) (b : Bool) (s : State) : (markLine l b s).thm = s.thm := rfl
@[simp] theorem markLine_fw (l : Nat) (b : Bool) (s : State) : (markLine l b s).fw = s.fw := rfl
@[simp] theorem markLine_pages (l : Nat) (b : Bool) (s : State) : (markLine l b s).pages = s.pages := rfl
@[simp] theorem markLine_mbx (l : Nat) (b : Bool) (s : State) : (markLine l b s).mbx = s.mbx := rfl
@[simp] theorem markLine_badArr (l : Nat) (b : Bool) (s : State) : (markLine l b s).badArr = s.badArr := rfl
@[simp] theorem markLine_rampNext (l : Nat) (b : Bool) (s : State) : (markLine l b s).rampNext = s.rampNext := rfl
@[simp] theorem markLine_out (l : Nat) (b : Bool) (s : State) : (markLine l b s).out = s.out := rfl
@[simp] theorem markLine_pwroff (l : Nat) (b : Bool) (s : State) : (markLine l b s).pwroff = s.pwroff := rfl
@[simp] theorem markLine_phys (l : Nat) (b : Bool) (s : State) : (markLine l b s).phys = s.phys := rfl
@[simp] theorem markLine_undo (l : Nat) (b : Bool) (s : State) : (markLine l b s).undo = s.undo := rfl
@[simp] theorem markLine_free (l : Nat) (b : Bool) (s : State) : (markLine l b s).free = s.free := rfl

/-! ### putStk -/

@[simp] theorem putStk_pending (a : Nat) (l : List Byte) (s : State) : (putStk a l s).pending = s.pending := rfl
@[simp] theorem putStk_regs (a : Nat) (l : List Byte) (s : State) : (putStk a l s).regs = s.regs := rfl
@[simp] theorem putStk_act (a : Nat) (l : List Byte) (s : State) : (putStk a l s).act = s.act := rfl
@[simp] theorem putStk_shadows (a : Nat) (l : List Byte) (s : State) : (putStk a l s).shadows = s.shadows := rfl
@[simp] theorem putStk_snap (a : Nat) (l : List Byte) (s : State) : (putStk a l s).snap = s.snap := rfl
@[simp] theorem putStk_latchH (a : Nat) (l : List Byte) (s : State) : (putStk a l s).latchH = s.latchH := rfl
@[simp] theorem putStk_latchM (a : Nat) (l : List Byte) (s : State) : (putStk a l s).latchM = s.latchM := rfl
@[simp] theorem putStk_readH (a : Nat) (l : List Byte) (s : State) : (putStk a l s).readH = s.readH := rfl
@[simp] theorem putStk_readM (a : Nat) (l : List Byte) (s : State) : (putStk a l s).readM = s.readM := rfl
@[simp] theorem putStk_regsM (a : Nat) (l : List Byte) (s : State) : (putStk a l s).regsM = s.regsM := rfl
@[simp] theorem putStk_setAt (a : Nat) (l : List Byte) (s : State) : (putStk a l s).setAt = s.setAt := rfl
@[simp] theorem putStk_hostSnap (a : Nat) (l : List Byte) (s : State) : (putStk a l s).hostSnap = s.hostSnap := rfl
@[simp] theorem putStk_tap (a : Nat) (l : List Byte) (s : State) : (putStk a l s).tap = s.tap := rfl
@[simp] theorem putStk_frac (a : Nat) (l : List Byte) (s : State) : (putStk a l s).frac = s.frac := rfl
@[simp] theorem putStk_cores (a : Nat) (l : List Byte) (s : State) : (putStk a l s).cores = s.cores := rfl
@[simp] theorem putStk_mesh (a : Nat) (l : List Byte) (s : State) : (putStk a l s).mesh = s.mesh := rfl
@[simp] theorem putStk_stks (a : Nat) (l : List Byte) (s : State) : (putStk a l s).stks = s.stks := rfl
@[simp] theorem putStk_ports (a : Nat) (l : List Byte) (s : State) : (putStk a l s).ports = s.ports := rfl
@[simp] theorem putStk_inbox (a : Nat) (l : List Byte) (s : State) : (putStk a l s).inbox = s.inbox := rfl
@[simp] theorem putStk_seam (a : Nat) (l : List Byte) (s : State) : (putStk a l s).seam = s.seam := rfl
@[simp] theorem putStk_arb (a : Nat) (l : List Byte) (s : State) : (putStk a l s).arb = s.arb := rfl
@[simp] theorem putStk_flt (a : Nat) (l : List Byte) (s : State) : (putStk a l s).flt = s.flt := rfl
@[simp] theorem putStk_srv (a : Nat) (l : List Byte) (s : State) : (putStk a l s).srv = s.srv := rfl
@[simp] theorem putStk_time (a : Nat) (l : List Byte) (s : State) : (putStk a l s).time = s.time := rfl
@[simp] theorem putStk_thm (a : Nat) (l : List Byte) (s : State) : (putStk a l s).thm = s.thm := rfl
@[simp] theorem putStk_fw (a : Nat) (l : List Byte) (s : State) : (putStk a l s).fw = s.fw := rfl
@[simp] theorem putStk_pages (a : Nat) (l : List Byte) (s : State) : (putStk a l s).pages = s.pages := rfl
@[simp] theorem putStk_mbx (a : Nat) (l : List Byte) (s : State) : (putStk a l s).mbx = s.mbx := rfl
@[simp] theorem putStk_badArr (a : Nat) (l : List Byte) (s : State) : (putStk a l s).badArr = s.badArr := rfl
@[simp] theorem putStk_rampNext (a : Nat) (l : List Byte) (s : State) : (putStk a l s).rampNext = s.rampNext := rfl
@[simp] theorem putStk_out (a : Nat) (l : List Byte) (s : State) : (putStk a l s).out = s.out := rfl
@[simp] theorem putStk_pwroff (a : Nat) (l : List Byte) (s : State) : (putStk a l s).pwroff = s.pwroff := rfl
@[simp] theorem putStk_phys (a : Nat) (l : List Byte) (s : State) : (putStk a l s).phys = s.phys := rfl
@[simp] theorem putStk_undo (a : Nat) (l : List Byte) (s : State) : (putStk a l s).undo = s.undo := rfl
@[simp] theorem putStk_free (a : Nat) (l : List Byte) (s : State) : (putStk a l s).free = s.free := rfl

/-! ### eraseRegs -/

@[simp] theorem eraseRegs_pending (lo hi : Nat) (s : State) : (eraseRegs lo hi s).pending = s.pending := rfl
@[simp] theorem eraseRegs_latchH (lo hi : Nat) (s : State) : (eraseRegs lo hi s).latchH = s.latchH := rfl
@[simp] theorem eraseRegs_latchM (lo hi : Nat) (s : State) : (eraseRegs lo hi s).latchM = s.latchM := rfl
@[simp] theorem eraseRegs_readH (lo hi : Nat) (s : State) : (eraseRegs lo hi s).readH = s.readH := rfl
@[simp] theorem eraseRegs_readM (lo hi : Nat) (s : State) : (eraseRegs lo hi s).readM = s.readM := rfl
@[simp] theorem eraseRegs_frac (lo hi : Nat) (s : State) : (eraseRegs lo hi s).frac = s.frac := rfl
@[simp] theorem eraseRegs_cores (lo hi : Nat) (s : State) : (eraseRegs lo hi s).cores = s.cores := rfl
@[simp] theorem eraseRegs_mem (lo hi : Nat) (s : State) : (eraseRegs lo hi s).mem = s.mem := rfl
@[simp] theorem eraseRegs_mesh (lo hi : Nat) (s : State) : (eraseRegs lo hi s).mesh = s.mesh := rfl
@[simp] theorem eraseRegs_stks (lo hi : Nat) (s : State) : (eraseRegs lo hi s).stks = s.stks := rfl
@[simp] theorem eraseRegs_ports (lo hi : Nat) (s : State) : (eraseRegs lo hi s).ports = s.ports := rfl
@[simp] theorem eraseRegs_inbox (lo hi : Nat) (s : State) : (eraseRegs lo hi s).inbox = s.inbox := rfl
@[simp] theorem eraseRegs_seam (lo hi : Nat) (s : State) : (eraseRegs lo hi s).seam = s.seam := rfl
@[simp] theorem eraseRegs_arb (lo hi : Nat) (s : State) : (eraseRegs lo hi s).arb = s.arb := rfl
@[simp] theorem eraseRegs_flt (lo hi : Nat) (s : State) : (eraseRegs lo hi s).flt = s.flt := rfl
@[simp] theorem eraseRegs_srv (lo hi : Nat) (s : State) : (eraseRegs lo hi s).srv = s.srv := rfl
@[simp] theorem eraseRegs_time (lo hi : Nat) (s : State) : (eraseRegs lo hi s).time = s.time := rfl
@[simp] theorem eraseRegs_thm (lo hi : Nat) (s : State) : (eraseRegs lo hi s).thm = s.thm := rfl
@[simp] theorem eraseRegs_fw (lo hi : Nat) (s : State) : (eraseRegs lo hi s).fw = s.fw := rfl
@[simp] theorem eraseRegs_pages (lo hi : Nat) (s : State) : (eraseRegs lo hi s).pages = s.pages := rfl
@[simp] theorem eraseRegs_mbx (lo hi : Nat) (s : State) : (eraseRegs lo hi s).mbx = s.mbx := rfl
@[simp] theorem eraseRegs_badArr (lo hi : Nat) (s : State) : (eraseRegs lo hi s).badArr = s.badArr := rfl
@[simp] theorem eraseRegs_rampNext (lo hi : Nat) (s : State) : (eraseRegs lo hi s).rampNext = s.rampNext := rfl
@[simp] theorem eraseRegs_out (lo hi : Nat) (s : State) : (eraseRegs lo hi s).out = s.out := rfl
@[simp] theorem eraseRegs_pwroff (lo hi : Nat) (s : State) : (eraseRegs lo hi s).pwroff = s.pwroff := rfl
@[simp] theorem eraseRegs_phys (lo hi : Nat) (s : State) : (eraseRegs lo hi s).phys = s.phys := rfl
@[simp] theorem eraseRegs_undo (lo hi : Nat) (s : State) : (eraseRegs lo hi s).undo = s.undo := rfl
@[simp] theorem eraseRegs_free (lo hi : Nat) (s : State) : (eraseRegs lo hi s).free = s.free := rfl

/-! ### bumpRtr -/

@[simp] theorem bumpRtr_pending (c : Nat) (f : Fld) (s : State) : (bumpRtr c f s).pending = s.pending := by unfold bumpRtr when; split <;> rfl
@[simp] theorem bumpRtr_act (c : Nat) (f : Fld) (s : State) : (bumpRtr c f s).act = s.act := by unfold bumpRtr when; split <;> rfl
@[simp] theorem bumpRtr_shadows (c : Nat) (f : Fld) (s : State) : (bumpRtr c f s).shadows = s.shadows := by unfold bumpRtr when; split <;> rfl
@[simp] theorem bumpRtr_snap (c : Nat) (f : Fld) (s : State) : (bumpRtr c f s).snap = s.snap := by unfold bumpRtr when; split <;> rfl
@[simp] theorem bumpRtr_latchH (c : Nat) (f : Fld) (s : State) : (bumpRtr c f s).latchH = s.latchH := by unfold bumpRtr when; split <;> rfl
@[simp] theorem bumpRtr_latchM (c : Nat) (f : Fld) (s : State) : (bumpRtr c f s).latchM = s.latchM := by unfold bumpRtr when; split <;> rfl
@[simp] theorem bumpRtr_readH (c : Nat) (f : Fld) (s : State) : (bumpRtr c f s).readH = s.readH := by unfold bumpRtr when; split <;> rfl
@[simp] theorem bumpRtr_readM (c : Nat) (f : Fld) (s : State) : (bumpRtr c f s).readM = s.readM := by unfold bumpRtr when; split <;> rfl
@[simp] theorem bumpRtr_regsM (c : Nat) (f : Fld) (s : State) : (bumpRtr c f s).regsM = s.regsM := by unfold bumpRtr when; split <;> rfl
@[simp] theorem bumpRtr_setAt (c : Nat) (f : Fld) (s : State) : (bumpRtr c f s).setAt = s.setAt := by unfold bumpRtr when; split <;> rfl
@[simp] theorem bumpRtr_hostSnap (c : Nat) (f : Fld) (s : State) : (bumpRtr c f s).hostSnap = s.hostSnap := by unfold bumpRtr when; split <;> rfl
@[simp] theorem bumpRtr_tap (c : Nat) (f : Fld) (s : State) : (bumpRtr c f s).tap = s.tap := by unfold bumpRtr when; split <;> rfl
@[simp] theorem bumpRtr_frac (c : Nat) (f : Fld) (s : State) : (bumpRtr c f s).frac = s.frac := by unfold bumpRtr when; split <;> rfl
@[simp] theorem bumpRtr_cores (c : Nat) (f : Fld) (s : State) : (bumpRtr c f s).cores = s.cores := by unfold bumpRtr when; split <;> rfl
@[simp] theorem bumpRtr_mem (c : Nat) (f : Fld) (s : State) : (bumpRtr c f s).mem = s.mem := by unfold bumpRtr when; split <;> rfl
@[simp] theorem bumpRtr_mesh (c : Nat) (f : Fld) (s : State) : (bumpRtr c f s).mesh = s.mesh := by unfold bumpRtr when; split <;> rfl
@[simp] theorem bumpRtr_stks (c : Nat) (f : Fld) (s : State) : (bumpRtr c f s).stks = s.stks := by unfold bumpRtr when; split <;> rfl
@[simp] theorem bumpRtr_ports (c : Nat) (f : Fld) (s : State) : (bumpRtr c f s).ports = s.ports := by unfold bumpRtr when; split <;> rfl
@[simp] theorem bumpRtr_inbox (c : Nat) (f : Fld) (s : State) : (bumpRtr c f s).inbox = s.inbox := by unfold bumpRtr when; split <;> rfl
@[simp] theorem bumpRtr_seam (c : Nat) (f : Fld) (s : State) : (bumpRtr c f s).seam = s.seam := by unfold bumpRtr when; split <;> rfl
@[simp] theorem bumpRtr_arb (c : Nat) (f : Fld) (s : State) : (bumpRtr c f s).arb = s.arb := by unfold bumpRtr when; split <;> rfl
@[simp] theorem bumpRtr_flt (c : Nat) (f : Fld) (s : State) : (bumpRtr c f s).flt = s.flt := by unfold bumpRtr when; split <;> rfl
@[simp] theorem bumpRtr_srv (c : Nat) (f : Fld) (s : State) : (bumpRtr c f s).srv = s.srv := by unfold bumpRtr when; split <;> rfl
@[simp] theorem bumpRtr_time (c : Nat) (f : Fld) (s : State) : (bumpRtr c f s).time = s.time := by unfold bumpRtr when; split <;> rfl
@[simp] theorem bumpRtr_thm (c : Nat) (f : Fld) (s : State) : (bumpRtr c f s).thm = s.thm := by unfold bumpRtr when; split <;> rfl
@[simp] theorem bumpRtr_fw (c : Nat) (f : Fld) (s : State) : (bumpRtr c f s).fw = s.fw := by unfold bumpRtr when; split <;> rfl
@[simp] theorem bumpRtr_pages (c : Nat) (f : Fld) (s : State) : (bumpRtr c f s).pages = s.pages := by unfold bumpRtr when; split <;> rfl
@[simp] theorem bumpRtr_mbx (c : Nat) (f : Fld) (s : State) : (bumpRtr c f s).mbx = s.mbx := by unfold bumpRtr when; split <;> rfl
@[simp] theorem bumpRtr_badArr (c : Nat) (f : Fld) (s : State) : (bumpRtr c f s).badArr = s.badArr := by unfold bumpRtr when; split <;> rfl
@[simp] theorem bumpRtr_rampNext (c : Nat) (f : Fld) (s : State) : (bumpRtr c f s).rampNext = s.rampNext := by unfold bumpRtr when; split <;> rfl
@[simp] theorem bumpRtr_out (c : Nat) (f : Fld) (s : State) : (bumpRtr c f s).out = s.out := by unfold bumpRtr when; split <;> rfl
@[simp] theorem bumpRtr_pwroff (c : Nat) (f : Fld) (s : State) : (bumpRtr c f s).pwroff = s.pwroff := by unfold bumpRtr when; split <;> rfl
@[simp] theorem bumpRtr_phys (c : Nat) (f : Fld) (s : State) : (bumpRtr c f s).phys = s.phys := by unfold bumpRtr when; split <;> rfl
@[simp] theorem bumpRtr_undo (c : Nat) (f : Fld) (s : State) : (bumpRtr c f s).undo = s.undo := by unfold bumpRtr when; split <;> rfl
@[simp] theorem bumpRtr_free (c : Nat) (f : Fld) (s : State) : (bumpRtr c f s).free = s.free := by unfold bumpRtr when; split <;> rfl

/-! ### moveTo -/

@[simp] theorem moveTo_pending (t : Nat) (s : State) : (moveTo t s).pending = s.pending := by unfold moveTo; split <;> rfl
@[simp] theorem moveTo_act (t : Nat) (s : State) : (moveTo t s).act = s.act := by unfold moveTo; split <;> rfl
@[simp] theorem moveTo_shadows (t : Nat) (s : State) : (moveTo t s).shadows = s.shadows := by unfold moveTo; split <;> rfl
@[simp] theorem moveTo_snap (t : Nat) (s : State) : (moveTo t s).snap = s.snap := by unfold moveTo; split <;> rfl
@[simp] theorem moveTo_latchH (t : Nat) (s : State) : (moveTo t s).latchH = s.latchH := by unfold moveTo; split <;> rfl
@[simp] theorem moveTo_latchM (t : Nat) (s : State) : (moveTo t s).latchM = s.latchM := by unfold moveTo; split <;> rfl
@[simp] theorem moveTo_readH (t : Nat) (s : State) : (moveTo t s).readH = s.readH := by unfold moveTo; split <;> rfl
@[simp] theorem moveTo_readM (t : Nat) (s : State) : (moveTo t s).readM = s.readM := by unfold moveTo; split <;> rfl
@[simp] theorem moveTo_regsM (t : Nat) (s : State) : (moveTo t s).regsM = s.regsM := by unfold moveTo; split <;> rfl
@[simp] theorem moveTo_setAt (t : Nat) (s : State) : (moveTo t s).setAt = s.setAt := by unfold moveTo; split <;> rfl
@[simp] theorem moveTo_hostSnap (t : Nat) (s : State) : (moveTo t s).hostSnap = s.hostSnap := by unfold moveTo; split <;> rfl
@[simp] theorem moveTo_tap (t : Nat) (s : State) : (moveTo t s).tap = s.tap := by unfold moveTo; split <;> rfl
@[simp] theorem moveTo_cores (t : Nat) (s : State) : (moveTo t s).cores = s.cores := by unfold moveTo; split <;> rfl
@[simp] theorem moveTo_mem (t : Nat) (s : State) : (moveTo t s).mem = s.mem := by unfold moveTo; split <;> rfl
@[simp] theorem moveTo_mesh (t : Nat) (s : State) : (moveTo t s).mesh = s.mesh := by unfold moveTo; split <;> rfl
@[simp] theorem moveTo_stks (t : Nat) (s : State) : (moveTo t s).stks = s.stks := by unfold moveTo; split <;> rfl
@[simp] theorem moveTo_ports (t : Nat) (s : State) : (moveTo t s).ports = s.ports := by unfold moveTo; split <;> rfl
@[simp] theorem moveTo_inbox (t : Nat) (s : State) : (moveTo t s).inbox = s.inbox := by unfold moveTo; split <;> rfl
@[simp] theorem moveTo_seam (t : Nat) (s : State) : (moveTo t s).seam = s.seam := by unfold moveTo; split <;> rfl
@[simp] theorem moveTo_arb (t : Nat) (s : State) : (moveTo t s).arb = s.arb := by unfold moveTo; split <;> rfl
@[simp] theorem moveTo_flt (t : Nat) (s : State) : (moveTo t s).flt = s.flt := by unfold moveTo; split <;> rfl
@[simp] theorem moveTo_srv (t : Nat) (s : State) : (moveTo t s).srv = s.srv := by unfold moveTo; split <;> rfl
@[simp] theorem moveTo_time (t : Nat) (s : State) : (moveTo t s).time = s.time := by unfold moveTo; split <;> rfl
@[simp] theorem moveTo_thm (t : Nat) (s : State) : (moveTo t s).thm = s.thm := by unfold moveTo; split <;> rfl
@[simp] theorem moveTo_fw (t : Nat) (s : State) : (moveTo t s).fw = s.fw := by unfold moveTo; split <;> rfl
@[simp] theorem moveTo_pages (t : Nat) (s : State) : (moveTo t s).pages = s.pages := by unfold moveTo; split <;> rfl
@[simp] theorem moveTo_mbx (t : Nat) (s : State) : (moveTo t s).mbx = s.mbx := by unfold moveTo; split <;> rfl
@[simp] theorem moveTo_badArr (t : Nat) (s : State) : (moveTo t s).badArr = s.badArr := by unfold moveTo; split <;> rfl
@[simp] theorem moveTo_rampNext (t : Nat) (s : State) : (moveTo t s).rampNext = s.rampNext := by unfold moveTo; split <;> rfl
@[simp] theorem moveTo_out (t : Nat) (s : State) : (moveTo t s).out = s.out := by unfold moveTo; split <;> rfl
@[simp] theorem moveTo_pwroff (t : Nat) (s : State) : (moveTo t s).pwroff = s.pwroff := by unfold moveTo; split <;> rfl
@[simp] theorem moveTo_phys (t : Nat) (s : State) : (moveTo t s).phys = s.phys := by unfold moveTo; split <;> rfl
@[simp] theorem moveTo_undo (t : Nat) (s : State) : (moveTo t s).undo = s.undo := by unfold moveTo; split <;> rfl
@[simp] theorem moveTo_free (t : Nat) (s : State) : (moveTo t s).free = s.free := by unfold moveTo; split <;> rfl

/-! ### writeRow -/

@[simp] theorem writeRow_pending (c r : Nat) (l : List Byte) (b : Bool) (s : State) : (writeRow c r l b s).pending = s.pending := rfl
@[simp] theorem writeRow_regs (c r : Nat) (l : List Byte) (b : Bool) (s : State) : (writeRow c r l b s).regs = s.regs := rfl
@[simp] theorem writeRow_act (c r : Nat) (l : List Byte) (b : Bool) (s : State) : (writeRow c r l b s).act = s.act := rfl
@[simp] theorem writeRow_shadows (c r : Nat) (l : List Byte) (b : Bool) (s : State) : (writeRow c r l b s).shadows = s.shadows := rfl
@[simp] theorem writeRow_snap (c r : Nat) (l : List Byte) (b : Bool) (s : State) : (writeRow c r l b s).snap = s.snap := rfl
@[simp] theorem writeRow_latchH (c r : Nat) (l : List Byte) (b : Bool) (s : State) : (writeRow c r l b s).latchH = s.latchH := rfl
@[simp] theorem writeRow_latchM (c r : Nat) (l : List Byte) (b : Bool) (s : State) : (writeRow c r l b s).latchM = s.latchM := rfl
@[simp] theorem writeRow_readH (c r : Nat) (l : List Byte) (b : Bool) (s : State) : (writeRow c r l b s).readH = s.readH := rfl
@[simp] theorem writeRow_readM (c r : Nat) (l : List Byte) (b : Bool) (s : State) : (writeRow c r l b s).readM = s.readM := rfl
@[simp] theorem writeRow_regsM (c r : Nat) (l : List Byte) (b : Bool) (s : State) : (writeRow c r l b s).regsM = s.regsM := rfl
@[simp] theorem writeRow_setAt (c r : Nat) (l : List Byte) (b : Bool) (s : State) : (writeRow c r l b s).setAt = s.setAt := rfl
@[simp] theorem writeRow_hostSnap (c r : Nat) (l : List Byte) (b : Bool) (s : State) : (writeRow c r l b s).hostSnap = s.hostSnap := rfl
@[simp] theorem writeRow_tap (c r : Nat) (l : List Byte) (b : Bool) (s : State) : (writeRow c r l b s).tap = s.tap := rfl
@[simp] theorem writeRow_frac (c r : Nat) (l : List Byte) (b : Bool) (s : State) : (writeRow c r l b s).frac = s.frac := rfl
@[simp] theorem writeRow_mesh (c r : Nat) (l : List Byte) (b : Bool) (s : State) : (writeRow c r l b s).mesh = s.mesh := rfl
@[simp] theorem writeRow_stks (c r : Nat) (l : List Byte) (b : Bool) (s : State) : (writeRow c r l b s).stks = s.stks := rfl
@[simp] theorem writeRow_ports (c r : Nat) (l : List Byte) (b : Bool) (s : State) : (writeRow c r l b s).ports = s.ports := rfl
@[simp] theorem writeRow_inbox (c r : Nat) (l : List Byte) (b : Bool) (s : State) : (writeRow c r l b s).inbox = s.inbox := rfl
@[simp] theorem writeRow_seam (c r : Nat) (l : List Byte) (b : Bool) (s : State) : (writeRow c r l b s).seam = s.seam := rfl
@[simp] theorem writeRow_arb (c r : Nat) (l : List Byte) (b : Bool) (s : State) : (writeRow c r l b s).arb = s.arb := rfl
@[simp] theorem writeRow_flt (c r : Nat) (l : List Byte) (b : Bool) (s : State) : (writeRow c r l b s).flt = s.flt := rfl
@[simp] theorem writeRow_srv (c r : Nat) (l : List Byte) (b : Bool) (s : State) : (writeRow c r l b s).srv = s.srv := rfl
@[simp] theorem writeRow_time (c r : Nat) (l : List Byte) (b : Bool) (s : State) : (writeRow c r l b s).time = s.time := rfl
@[simp] theorem writeRow_thm (c r : Nat) (l : List Byte) (b : Bool) (s : State) : (writeRow c r l b s).thm = s.thm := rfl
@[simp] theorem writeRow_fw (c r : Nat) (l : List Byte) (b : Bool) (s : State) : (writeRow c r l b s).fw = s.fw := rfl
@[simp] theorem writeRow_pages (c r : Nat) (l : List Byte) (b : Bool) (s : State) : (writeRow c r l b s).pages = s.pages := rfl
@[simp] theorem writeRow_mbx (c r : Nat) (l : List Byte) (b : Bool) (s : State) : (writeRow c r l b s).mbx = s.mbx := rfl
@[simp] theorem writeRow_badArr (c r : Nat) (l : List Byte) (b : Bool) (s : State) : (writeRow c r l b s).badArr = s.badArr := rfl
@[simp] theorem writeRow_rampNext (c r : Nat) (l : List Byte) (b : Bool) (s : State) : (writeRow c r l b s).rampNext = s.rampNext := rfl
@[simp] theorem writeRow_out (c r : Nat) (l : List Byte) (b : Bool) (s : State) : (writeRow c r l b s).out = s.out := rfl
@[simp] theorem writeRow_pwroff (c r : Nat) (l : List Byte) (b : Bool) (s : State) : (writeRow c r l b s).pwroff = s.pwroff := rfl
@[simp] theorem writeRow_phys (c r : Nat) (l : List Byte) (b : Bool) (s : State) : (writeRow c r l b s).phys = s.phys := rfl
@[simp] theorem writeRow_undo (c r : Nat) (l : List Byte) (b : Bool) (s : State) : (writeRow c r l b s).undo = s.undo := rfl
@[simp] theorem writeRow_free (c r : Nat) (l : List Byte) (b : Bool) (s : State) : (writeRow c r l b s).free = s.free := rfl

end Sys2Proof.Machine
end

