-- ==== Sys2Proof/Laws/Ops.lean ====
section
/-! SUPPORT. One law per basic operation: what registers, cores and memory read after it, and that memory keeps its canonical form. -/
namespace Sys2Proof.Machine

/-! ### Registers -/

/-- A write gives the field the value, cut to its width (R14). -/
@[simp] theorem get_set_same (f : Fld) (v : Nat) (s : State) : get (set f v s) f = v % 2 ^ f.width :=
  SMap.get_put_same f.reset s.regs f.key _

/-- A write leaves fields at other addresses alone. -/
theorem get_set_ne {f g : Fld} (h : g.key ≠ f.key) (v : Nat) (s : State) : get (set f v s) g = get s g := by
  unfold get set
  exact SMap.get_put_other _ _ s.regs _ h

@[simp] theorem actv_setAct_same (f : Fld) (v : Nat) (s : State) : actv (setAct f v s) f = v % 2 ^ f.width :=
  SMap.get_put_same f.reset s.act f.key _

theorem actv_setAct_ne {f g : Fld} (h : g.key ≠ f.key) (v : Nat) (s : State) : actv (setAct f v s) g = actv s g := by
  unfold actv setAct
  exact SMap.get_put_other _ _ s.act _ h

theorem get_setB_same (f : Fld) (b : Bool) (s : State) : get (setB f b s) f = (if b then 1 else 0) % 2 ^ f.width :=
  get_set_same f _ s

theorem get_setB_ne {f g : Fld} (h : g.key ≠ f.key) (b : Bool) (s : State) : get (setB f b s) g = get s g :=
  get_set_ne h _ s

theorem get_setBoth_same (f : Fld) (v : Nat) (s : State) : get (setBoth f v s) f = v % 2 ^ f.width :=
  get_set_same f v s

theorem get_setBoth_ne {f g : Fld} (h : g.key ≠ f.key) (v : Nat) (s : State) : get (setBoth f v s) g = get s g :=
  get_set_ne h v s

theorem actv_setBoth_same (f : Fld) (v : Nat) (s : State) : actv (setBoth f v s) f = v % 2 ^ f.width :=
  actv_setAct_same f v _

theorem actv_setBoth_ne {f g : Fld} (h : g.key ≠ f.key) (v : Nat) (s : State) : actv (setBoth f v s) g = actv s g :=
  actv_setAct_ne h v _

/-- A counter saturates (R21). -/
theorem get_bumpN_same (f : Fld) (n : Nat) (s : State) :
    get (bumpN f n s) f = min (get s f + n) (2 ^ 64 - 1) % 2 ^ f.width := get_set_same f _ s

theorem get_bumpN_ne {f g : Fld} (h : g.key ≠ f.key) (n : Nat) (s : State) : get (bumpN f n s) g = get s g :=
  get_set_ne h _ s

theorem get_bump_same (f : Fld) (s : State) : get (bump f s) f = min (get s f + 1) (2 ^ 64 - 1) % 2 ^ f.width :=
  get_bumpN_same f 1 s

theorem get_bump_ne {f g : Fld} (h : g.key ≠ f.key) (s : State) : get (bump f s) g = get s g :=
  get_bumpN_ne h 1 s

theorem get_setBit_same (f : Fld) (i : Nat) (b : Bool) (s : State) :
    get (setBit f i b s) f = withBit (get s f) i b % 2 ^ f.width := get_set_same f _ s

theorem get_setBit_ne {f g : Fld} (h : g.key ≠ f.key) (i : Nat) (b : Bool) (s : State) :
    get (setBit f i b s) g = get s g := get_set_ne h _ s

/-- The current value of a field lies in `regs` alone. -/
theorem get_of_regs {s t : State} (h : s.regs = t.regs) (f : Fld) : get s f = get t f := by unfold get; rw [h]

/-- The active value of a field lies in `act` alone. -/
theorem actv_of_act {s t : State} (h : s.act = t.act) (f : Fld) : actv s f = actv t f := by unfold actv; rw [h]

/-- A core's state lies in `cores` alone. -/
theorem core_of_cores {s t : State} (h : s.cores = t.cores) (c : Nat) : core s c = core t c := by unfold core; rw [h]

@[simp] theorem get_emit (d : Party) (t : Topic) (l : List Nat) (s : State) (g : Fld) : get (emit d t l s) g = get s g := rfl
@[simp] theorem get_updCore (c : Nat) (f : CoreSt → CoreSt) (s : State) (g : Fld) : get (updCore c f s) g = get s g := rfl
@[simp] theorem get_setAct (f : Fld) (v : Nat) (s : State) (g : Fld) : get (setAct f v s) g = get s g := rfl
@[simp] theorem get_markRow (c r : Nat) (b : Bool) (s : State) (g : Fld) : get (markRow c r b s) g = get s g := rfl
@[simp] theorem get_putRow (c r o : Nat) (l : List Byte) (s : State) (g : Fld) : get (putRow c r o l s) g = get s g := rfl
@[simp] theorem get_markLine (l : Nat) (b : Bool) (s : State) (g : Fld) : get (markLine l b s) g = get s g := rfl
@[simp] theorem get_putStk (a : Nat) (l : List Byte) (s : State) (g : Fld) : get (putStk a l s) g = get s g := rfl
@[simp] theorem get_writeRow (c r : Nat) (l : List Byte) (b : Bool) (s : State) (g : Fld) : get (writeRow c r l b s) g = get s g := rfl
@[simp] theorem get_drawFree (s : State) (g : Fld) : get (drawFree s).2 g = get s g := rfl

@[simp] theorem actv_emit (d : Party) (t : Topic) (l : List Nat) (s : State) (g : Fld) : actv (emit d t l s) g = actv s g := rfl
@[simp] theorem actv_updCore (c : Nat) (f : CoreSt → CoreSt) (s : State) (g : Fld) : actv (updCore c f s) g = actv s g := rfl
@[simp] theorem actv_markRow (c r : Nat) (b : Bool) (s : State) (g : Fld) : actv (markRow c r b s) g = actv s g := rfl
@[simp] theorem actv_putRow (c r o : Nat) (l : List Byte) (s : State) (g : Fld) : actv (putRow c r o l s) g = actv s g := rfl
@[simp] theorem actv_markLine (l : Nat) (b : Bool) (s : State) (g : Fld) : actv (markLine l b s) g = actv s g := rfl
@[simp] theorem actv_putStk (a : Nat) (l : List Byte) (s : State) (g : Fld) : actv (putStk a l s) g = actv s g := rfl
@[simp] theorem actv_writeRow (c r : Nat) (l : List Byte) (b : Bool) (s : State) (g : Fld) : actv (writeRow c r l b s) g = actv s g := rfl
@[simp] theorem actv_set (f : Fld) (v : Nat) (s : State) (g : Fld) : actv (set f v s) g = actv s g := rfl
@[simp] theorem actv_setB (f : Fld) (b : Bool) (s : State) (g : Fld) : actv (setB f b s) g = actv s g := rfl
@[simp] theorem actv_bumpN (f : Fld) (n : Nat) (s : State) (g : Fld) : actv (bumpN f n s) g = actv s g := rfl
@[simp] theorem actv_bump (f : Fld) (s : State) (g : Fld) : actv (bump f s) g = actv s g := rfl
@[simp] theorem actv_setBit (f : Fld) (i : Nat) (b : Bool) (s : State) (g : Fld) : actv (setBit f i b s) g = actv s g := rfl
@[simp] theorem actv_drawFree (s : State) (g : Fld) : actv (drawFree s).2 g = actv s g := rfl

/-! ### Cores -/

@[simp] theorem core_emit (d : Party) (t : Topic) (l : List Nat) (s : State) (g : Nat) : core (emit d t l s) g = core s g := rfl
@[simp] theorem core_setAct (f : Fld) (v : Nat) (s : State) (g : Nat) : core (setAct f v s) g = core s g := rfl
@[simp] theorem core_markRow (c r : Nat) (b : Bool) (s : State) (g : Nat) : core (markRow c r b s) g = core s g := rfl
@[simp] theorem core_putRow (c r o : Nat) (l : List Byte) (s : State) (g : Nat) : core (putRow c r o l s) g = core s g := rfl
@[simp] theorem core_markLine (l : Nat) (b : Bool) (s : State) (g : Nat) : core (markLine l b s) g = core s g := rfl
@[simp] theorem core_putStk (a : Nat) (l : List Byte) (s : State) (g : Nat) : core (putStk a l s) g = core s g := rfl
@[simp] theorem core_set (f : Fld) (v : Nat) (s : State) (g : Nat) : core (set f v s) g = core s g := rfl
@[simp] theorem core_setB (f : Fld) (b : Bool) (s : State) (g : Nat) : core (setB f b s) g = core s g := rfl
@[simp] theorem core_bumpN (f : Fld) (n : Nat) (s : State) (g : Nat) : core (bumpN f n s) g = core s g := rfl
@[simp] theorem core_bump (f : Fld) (s : State) (g : Nat) : core (bump f s) g = core s g := rfl
@[simp] theorem core_setBit (f : Fld) (i : Nat) (b : Bool) (s : State) (g : Nat) : core (setBit f i b s) g = core s g := rfl
@[simp] theorem core_setBoth (f : Fld) (v : Nat) (s : State) (g : Nat) : core (setBoth f v s) g = core s g := rfl
@[simp] theorem core_drawFree (s : State) (g : Nat) : core (drawFree s).2 g = core s g := rfl

/-- A change of a core's state gives that core the new state. -/
@[simp] theorem core_updCore_same (c : Nat) (f : CoreSt → CoreSt) (s : State) : core (updCore c f s) c = f (core s c) :=
  SMap.get_put_same CoreSt.reset s.cores c _

/-- It leaves the other cores alone. -/
theorem core_updCore_ne {c d : Nat} (h : d ≠ c) (f : CoreSt → CoreSt) (s : State) : core (updCore c f s) d = core s d :=
  SMap.get_put_ne CoreSt.reset s.cores _ h

/-! ### Repetition -/

@[simp] theorem each_nil {α : Type} (f : α → State → State) (s : State) : each [] f s = s := rfl

@[simp] theorem each_cons {α : Type} (a : α) (l : List α) (f : α → State → State) (s : State) :
    each (a :: l) f s = each l f (f a s) := rfl

/-- What every single effect keeps, their sequence keeps. -/
theorem each_keeps {α : Type} {P : State → Prop} (l : List α) {f : α → State → State} {s : State} (hs : P s)
    (h : ∀ a t, P t → P (f a t)) : P (each l f s) := by
  induction l generalizing s with
  | nil => exact hs
  | cons a l ih => exact ih (h a s hs)

theorem upTo_keeps {P : State → Prop} (n : Nat) {f : Nat → State → State} {s : State} (hs : P s)
    (h : ∀ a t, P t → P (f a t)) : P (upTo n f s) := each_keeps _ hs h

theorem when_keeps {P : State → Prop} (b : Bool) {f : State → State} {s : State} (hs : P s) (h : ∀ t, P t → P (f t)) :
    P (when b f s) := by
  unfold when
  split
  · exact h s hs
  · exact hs

/-- A part of the state that no single effect changes is as before after the sequence. -/
theorem each_same {α β : Type} (p : State → β) (l : List α) {f : α → State → State} (h : ∀ a t, p (f a t) = p t)
    (s : State) : p (each l f s) = p s :=
  each_keeps (P := fun t => p t = p s) l rfl fun a t ht => (h a t).trans ht

/-! ### Memories -/

/-- Bytes outside those written read as before. -/
theorem rdByte_wrBytes_ne (m : List (Nat × Byte)) (a : Nat) (bs : List Byte) {x : Nat}
    (h : x < a ∨ a + bs.length ≤ x) : rdByte (wrBytes m a bs) x = rdByte m x := by
  induction bs generalizing m a with
  | nil => rfl
  | cons b bs ih =>
    have hl : (b :: bs).length = bs.length + 1 := rfl
    have hx : x ≠ a := by omega
    rw [show wrBytes m a (b :: bs) = wrBytes (SMap.put 0 m a b) (a + 1) bs from rfl, ih _ _ (by omega)]
    exact SMap.get_put_ne 0 m b hx

/-- The bytes written read back. -/
theorem rdByte_wrBytes (m : List (Nat × Byte)) (a : Nat) (bs : List Byte) {i : Nat} (h : i < bs.length) :
    rdByte (wrBytes m a bs) (a + i) = bs[i] := by
  induction bs generalizing m a i with
  | nil => exact absurd h (Nat.not_lt_zero _)
  | cons b bs ih =>
    rw [show wrBytes m a (b :: bs) = wrBytes (SMap.put 0 m a b) (a + 1) bs from rfl]
    cases i with
    | zero =>
      rw [rdByte_wrBytes_ne _ _ _ (by omega)]
      exact SMap.get_put_same 0 m a b
    | succ i =>
      rw [show a + (i + 1) = a + 1 + i by omega, ih _ _ (by simpa using h)]
      rfl

/-- Writing bytes keeps the canonical form. -/
theorem wf_wrBytes {m : List (Nat × Byte)} (a : Nat) (bs : List Byte) (h : SMap.wf 0 m = true) :
    SMap.wf 0 (wrBytes m a bs) = true := by
  induction bs generalizing m a with
  | nil => exact h
  | cons b bs ih => exact ih (a + 1) (SMap.wf_put 0 a b h)

/-- A stack write leaves every byte outside it as it was (R244). -/
theorem putStk_frame (a : Nat) (bs : List Byte) (s : State) {x : Nat} (h : x < a ∨ a + bs.length ≤ x) :
    rdByte (putStk a bs s).mem.stk x = rdByte s.mem.stk x := rdByte_wrBytes_ne _ a bs h

end Sys2Proof.Machine
end

