-- ==== Sys2Proof/Laws/Flt.lean ====
section
/-! SUPPORT. What reporting an event that does not climb past L1 can change: the registers of the fault collector and its own state. -/
namespace Sys2Proof.Machine

/-- Nothing has changed but the fault collector: its state, registers between 0x300000 and 0x300BFF, and when hardware last set which bit. -/
def FltOnly (s t : State) : Prop :=
  t = { s with regs := t.regs, setAt := t.setAt, flt := t.flt } ∧ ∀ g : Fld, g.key < 0x1800000 ∨ 0x1806000 ≤ g.key → get t g = get s g

theorem FltOnly.refl (s : State) : FltOnly s s := ⟨rfl, fun _ _ => rfl⟩

theorem FltOnly.trans {r s t : State} (h : FltOnly r s) (k : FltOnly s t) : FltOnly r t :=
  ⟨k.1.trans (by rw [h.1]), fun g hg => (k.2 g hg).trans (h.2 g hg)⟩

/-- A write of a register of the collector. -/
theorem FltOnly.set (s : State) {f : Fld} (hf : 0x1800000 ≤ f.key) (hf' : f.key < 0x1806000) (v : Nat) : FltOnly s (set f v s) :=
  ⟨rfl, fun g hg => get_set_ne (by omega) v s⟩

theorem FltOnly.setB (s : State) {f : Fld} (hf : 0x1800000 ≤ f.key) (hf' : f.key < 0x1806000) (b : Bool) : FltOnly s (setB f b s) :=
  FltOnly.set s hf hf' _

theorem FltOnly.bump (s : State) {f : Fld} (hf : 0x1800000 ≤ f.key) (hf' : f.key < 0x1806000) : FltOnly s (bump f s) :=
  FltOnly.set s hf hf' _

theorem FltOnly.setBit (s : State) {f : Fld} (hf : 0x1800000 ≤ f.key) (hf' : f.key < 0x1806000) (i : Nat) (b : Bool) :
    FltOnly s (setBit f i b s) := FltOnly.set s hf hf' _

/-- A change of the collector's own state. -/
theorem FltOnly.flt (s : State) (x : FltSt) : FltOnly s { s with flt := x } := ⟨rfl, fun _ _ => rfl⟩

/-- A note that hardware has set a bit. -/
theorem FltOnly.note (f : Fld) (i : Nat) (s : State) : FltOnly s (noteSet f i s) := ⟨rfl, fun _ _ => rfl⟩

theorem FltOnly.each {α : Type} (l : List α) {f : α → State → State} (s : State) (h : ∀ a, a ∈ l → ∀ t, FltOnly t (f a t)) :
    FltOnly s (each l f s) := by
  induction l generalizing s with
  | nil => exact FltOnly.refl s
  | cons a l ih => exact (h a (by simp) s).trans (ih _ fun b hb => h b (by simp [hb]))

theorem FltOnly.when (b : Bool) {f : State → State} (s : State) (h : FltOnly s (f s)) : FltOnly s (when b f s) := by
  cases b
  · exact FltOnly.refl s
  · exact h

theorem updPin_flt (s : State) : FltOnly s (updPin s) := by
  unfold updPin
  split
  · exact FltOnly.when _ s (FltOnly.setB s (by decide) (by decide) _)
  · exact FltOnly.setB s (by decide) (by decide) _

theorem startPulse_flt (s : State) : FltOnly s (startPulse s) :=
  ((FltOnly.setB s (by decide) (by decide) _).trans (FltOnly.setB _ (by decide) (by decide) _)).trans
    (FltOnly.bump _ (by decide) (by decide))

theorem pinEvent_flt (l : Nat) (s : State) : FltOnly s (pinEvent l s) := by
  unfold pinEvent
  split
  · dsimp only
    split
    · exact (FltOnly.flt s _).trans (startPulse_flt _)
    · exact FltOnly.flt s _
  · exact updPin_flt s

theorem setRec_flt (fs : List Fld) (r : FltRec) (v : Bool) (s : State)
    (h : ∀ f ∈ fs, 0x1800000 ≤ f.key ∧ f.key < 0x1806000) : FltOnly s (setRec fs r v s) :=
  FltOnly.each _ s fun a ha t => FltOnly.set t (h a.1 (List.of_mem_zip ha).1).1 (h a.1 (List.of_mem_zip ha).1).2 _

theorem evtFields_block : ∀ f ∈ evtFields, 0x1800000 ≤ f.key ∧ f.key < 0x1806000 := by decide

theorem capFields_block (l : Nat) (hl : l ≤ 4) : ∀ f ∈ capFields l, 0x1800000 ≤ f.key ∧ f.key < 0x1806000 := by
  rcases Nat.lt_or_ge l 1 with h | h
  · obtain rfl : l = 0 := by omega
    decide
  rcases Nat.lt_or_ge l 2 with h2 | h2
  · obtain rfl : l = 1 := by omega
    decide
  rcases Nat.lt_or_ge l 3 with h3 | h3
  · obtain rfl : l = 2 := by omega
    decide
  rcases Nat.lt_or_ge l 4 with h4 | h4
  · obtain rfl : l = 3 := by omega
    decide
  · obtain rfl : l = 4 := by omega
    decide

theorem showQueue_flt (s : State) : FltOnly s (showQueue s) := by
  unfold showQueue
  dsimp only
  split
  · exact (FltOnly.set s (by decide) (by decide) _).trans (setRec_flt _ _ _ _ evtFields_block)
  · exact (FltOnly.set s (by decide) (by decide) _).trans (setRec_flt _ _ _ _ evtFields_block)

theorem record_flt (r : FltRec) (left : List Nat) (s : State) (hc : r.cls ≤ 4) (hs : r.src < 256) (hl : ∀ l ∈ left, l ≤ 4) :
    FltOnly s (record r left s) := by
  have k1 : FltOnly s (each left (fun l s => bump (F.FLT_ESC_CNT l) s) (bump (F.FLT_SRC_CNT r.src) (bump (F.FLT_EVT_CNT r.cls) s))) := by
    refine ((FltOnly.bump s ?_ ?_).trans (FltOnly.bump _ ?_ ?_)).trans (FltOnly.each left _ fun a ha t => FltOnly.bump t ?_ ?_)
    · show 0x1800000 ≤ 0x1801000 + r.cls * 0x40
      omega
    · show 0x1801000 + r.cls * 0x40 < 0x1806000
      omega
    · show 0x1800000 ≤ 0x1802000 + r.src * 0x40
      omega
    · show 0x1802000 + r.src * 0x40 < 0x1806000
      omega
    · show 0x1800000 ≤ 0x1801140 + a * 0x40
      omega
    · have := hl a ha
      show 0x1801140 + a * 0x40 < 0x1806000
      omega
  unfold record
  refine k1.trans ?_
  generalize each left _ _ = u
  dsimp only
  have k2 : FltOnly u (if flag u (F.FLT_CAP_VALID r.cls) then u else noteSet (F.FLT_CAP_VALID r.cls) 0 (setRec (capFields r.cls) r true u)) := by
    split
    · exact FltOnly.refl u
    · exact (setRec_flt _ _ _ _ (capFields_block _ hc)).trans (FltOnly.note _ _ _)
  refine k2.trans ?_
  generalize (if flag u (F.FLT_CAP_VALID r.cls) then u else noteSet (F.FLT_CAP_VALID r.cls) 0 (setRec (capFields r.cls) r true u)) = v
  have k3 : FltOnly v (if v.flt.queue.length < 256 then showQueue { v with flt := { v.flt with queue := v.flt.queue ++ [r] } }
      else bump F.FLT_LOG_DROP_CNT v) := by
    split
    · exact (FltOnly.flt v _).trans (showQueue_flt _)
    · exact FltOnly.bump v (by decide) (by decide)
  generalize (if v.flt.queue.length < 256 then showQueue { v with flt := { v.flt with queue := v.flt.queue ++ [r] } }
    else bump F.FLT_LOG_DROP_CNT v) = w at k3 ⊢
  refine k3.trans ?_
  split
  · exact FltOnly.set _ (by decide) (by decide) _
  · exact FltOnly.refl _

theorem markUnack_flt (l dom : Nat) (s : State) (hd : dom < 256) : FltOnly s (markUnack l dom s) := by
  unfold markUnack
  refine FltOnly.trans ?_ (FltOnly.setBit _ (by decide) (by decide) _ _)
  rcases Nat.lt_or_ge l 2 with h | h
  · refine FltOnly.when _ s (FltOnly.setBit s ?_ ?_ _ _)
    · show 0x1800000 ≤ 0x1800800 + l * 0x100 + dom / 32 * 0x20
      omega
    · show 0x1800800 + l * 0x100 + dom / 32 * 0x20 < 0x1806000
      omega
  · simp [when, Nat.not_lt.mpr h, FltOnly.refl]

/-- An event of a class up to L1 whose source does not escalate changes the fault collector alone (R384, R389, R391). -/
theorem raise_flt (e : Ev) (s : State) (hn : srcEscalates e.src = false) (hc : srcClass e.src ≤ 1) (he : e.esc = false)
    (hd : e.dom < 256) (hs : e.src < 256) : FltOnly s (raise e s) := by
  unfold raise
  rw [if_neg (by simp [he])]
  have hk : climb s e 4 (srcClass e.src) [] = (srcClass e.src, []) := by
    have : srcClass e.src = 0 ∨ srcClass e.src = 1 := by omega
    rcases this with h | h <;> simp [climb, h, hn]
  have go : ∀ (r : FltRec) (u : State), FltOnly s u → r.cls ≤ 4 → r.src < 256 →
      FltOnly s (pinEvent (srcClass e.src) (react (srcClass e.src) e.dom (markUnack (srcClass e.src) e.dom (record r [] u)))) := by
    intro r u hu h1 h2
    have k1 := hu.trans (record_flt r [] u h1 h2 fun l hl => absurd hl List.not_mem_nil)
    have k2 := k1.trans (markUnack_flt (srcClass e.src) e.dom _ hd)
    refine FltOnly.trans ?_ (pinEvent_flt _ _)
    unfold react
    rw [if_neg (by omega), if_neg (by omega), if_neg (by omega)]
    exact k2
  unfold collect
  rw [hk]
  refine go _ _ ?_ (show srcClass e.src ≤ 4 by omega) hs
  exact FltOnly.flt s _

end Sys2Proof.Machine
end

