-- ==== Sys2Proof/Laws/Issue.lean ====
section
/-! SUPPORT. What the shared issue operation does when an instruction issues, and when the core does not. -/
namespace Sys2Proof.Machine

/-- An upset changes scratchpad bytes and marks, and draws its free bytes. -/
theorem applyUpset_spec (i : Issue) (s : State) : (applyUpset i s).regs = s.regs ∧ (applyUpset i s).act = s.act ∧
    (applyUpset i s).cores = s.cores ∧ (applyUpset i s).mem.prog = s.mem.prog := by
  unfold applyUpset
  cases i.upset <;> exact ⟨rfl, rfl, rfl, rfl⟩

/-- The word at the program counter is the same with the upset. -/
theorem curWord_applyUpset (i : Issue) (s : State) : curWord (applyUpset i s) i.core.val = curWord s i.core.val := by
  unfold applyUpset
  cases i.upset <;> rfl

/-- An instruction that issues takes its effect after the program counter has moved on. -/
theorem issue_eq (i : Issue) (cls op : Nat) (u : Option CUnit) (ok : State → Nat → Bool) (body : Nat → State → State)
    (s : State) (h : issues i cls op u s = true) (hok : ok (applyUpset i s) (curWord s i.core.val) = true) :
    issue i cls op u ok body s = body (curWord s i.core.val) (issued i s) := by
  rw [← curWord_applyUpset i s] at hok ⊢
  simp only [issues, Bool.and_eq_true, beq_iff_eq, Bool.not_eq_true', decide_eq_true_eq] at h
  obtain ⟨⟨⟨⟨⟨⟨h3, h4⟩, h5⟩, h6⟩, h7⟩, h8⟩, h9⟩ := h
  simp [issue, issued, h3, h4, h5, h6, h7, h9, hok, Nat.not_le.2 h8]

/-- The same where the instruction has no condition of its own. -/
theorem issue_always (i : Issue) (cls op : Nat) (u : Option CUnit) (body : Nat → State → State) (s : State)
    (h : issues i cls op u s = true) : issue i cls op u always body s = body (curWord s i.core.val) (issued i s) :=
  issue_eq i cls op u always body s h rfl

/-- A core that does not issue leaves the state as it is, but for the soft error found. -/
theorem issue_idle (i : Issue) (cls op : Nat) (u : Option CUnit) (ok : State → Nat → Bool) (body : Nat → State → State)
    (s : State) (h : issuing (applyUpset i s) i.core.val = false) : issue i cls op u ok body s = applyUpset i s := by
  simp [issue, h]

end Sys2Proof.Machine
end

