-- ==== Sys2Proof/Laws/Sound.lean ====
section
/-! SUPPORT. What an effect may not change: the queue, the fuses' list of bad arrays, and soundness. -/
namespace Sys2Proof

theorem NSet.wf_cons {a : Nat} {m : NSet} : NSet.wf (a :: m) = true ↔ (∀ b ∈ m, a < b) ∧ NSet.wf m = true := by
  simp [NSet.wf]

theorem NSet.mem_add {m : NSet} {k q : Nat} (h : q ∈ NSet.add m k) : q = k ∨ q ∈ m := by
  induction m with
  | nil => exact .inl (by simpa [NSet.add] using h)
  | cons a m ih =>
    unfold NSet.add at h
    split at h
    · exact List.mem_cons.1 h
    · split at h
      · exact .inr h
      · rcases List.mem_cons.1 h with h | h
        · exact .inr (h ▸ List.mem_cons_self)
        · exact (ih h).imp_right (List.mem_cons_of_mem _)

/-- An addition keeps the order. -/
theorem NSet.wf_add {m : NSet} (k : Nat) (h : NSet.wf m = true) : NSet.wf (NSet.add m k) = true := by
  induction m with
  | nil => rfl
  | cons a m ih =>
    obtain ⟨h1, h2⟩ := NSet.wf_cons.1 h
    unfold NSet.add
    split
    · rename_i hlt
      refine NSet.wf_cons.2 ⟨fun b hb => ?_, h⟩
      rcases List.mem_cons.1 hb with rfl | hb
      · exact hlt
      · exact Nat.lt_trans hlt (h1 b hb)
    · split
      · exact h
      · refine NSet.wf_cons.2 ⟨fun b hb => ?_, ih h2⟩
        rcases NSet.mem_add hb with rfl | hb
        · omega
        · exact h1 b hb

/-- A selection keeps the order. -/
theorem NSet.wf_filter {m : NSet} (f : Nat → Bool) (h : NSet.wf m = true) : NSet.wf (m.filter f) = true := by
  induction m with
  | nil => rfl
  | cons a m ih =>
    obtain ⟨h1, h2⟩ := NSet.wf_cons.1 h
    rw [List.filter_cons]
    split
    · exact NSet.wf_cons.2 ⟨fun b hb => h1 b (List.mem_filter.1 hb).1, ih h2⟩
    · exact ih h2

theorem NSet.wf_erase {m : NSet} (lo hi : Nat) (h : NSet.wf m = true) : NSet.wf (NSet.erase m lo hi) = true := NSet.wf_filter _ h

theorem NSet.wf_del {m : NSet} (k : Nat) (h : NSet.wf m = true) : NSet.wf (NSet.del m k) = true := NSet.wf_filter _ h

theorem NSet.wf_foldl_add {α : Type} (l : List α) (f : α → Nat) {m : NSet} (h : NSet.wf m = true) :
    NSet.wf (l.foldl (fun u a => NSet.add u (f a)) m) = true := by
  induction l generalizing m with
  | nil => exact h
  | cons a l ih => exact ih (NSet.wf_add _ h)

theorem NSet.wf_nil : NSet.wf [] = true := rfl

theorem SMap.wf_nil {β : Type} [DecidableEq β] {d : β} : SMap.wf d [] = true := rfl

theorem SMap.wf_cond {β : Type} [DecidableEq β] {d : β} {b : Bool} {x y : SMap β} (hx : SMap.wf d x = true) (hy : SMap.wf d y = true) :
    SMap.wf d (bif b then x else y) = true := by cases b <;> assumption

theorem NSet.wf_cond {b : Bool} {x y : NSet} (hx : NSet.wf x = true) (hy : NSet.wf y = true) : NSet.wf (bif b then x else y) = true := by
  cases b <;> assumption

theorem SMap.wf_foldl_put {β : Type} [DecidableEq β] {d : β} (l : List (Nat × β)) {m : SMap β} (h : SMap.wf d m = true) :
    SMap.wf d (l.foldl (fun m p => SMap.put d m p.1 p.2) m) = true := by
  induction l generalizing m with
  | nil => exact h
  | cons a l ih => exact ih (SMap.wf_put d _ _ h)

namespace Machine


/-- The parts of a canonical memory. -/
theorem Mems.wf_iff (m : Mems) : m.wf = true ↔ SMap.wf 0 m.stk = true ∧ SMap.wf 0 m.spad = true ∧ SMap.wf 0 m.prog = true ∧
    SMap.wf 0 m.cal = true ∧ SMap.wf 0 m.wts = true ∧ NSet.wf m.spadBad = true ∧ NSet.wf m.stkPoison = true ∧
    NSet.wf m.spadPoison = true ∧ NSet.wf m.undef = true := by
  simp only [Mems.wf, Bool.and_eq_true, and_assoc]

/-- What every effect keeps: the queue, the fuses' list of bad arrays, and soundness. -/
def Keeps (r t : State) : Prop := t.pending = r.pending ∧ t.badArr = r.badArr ∧ (r.sound = true → t.sound = true)

/-- The same, of an outcome: when it is a next state. -/
def OutKeeps (r : State) (o : Host.Outcome State Fault Refusal) : Prop := ∀ t, o = .next t → Keeps r t

/-- The same, of an effect that may be missing. -/
def OptKeeps (r : State) (o : Option (State → State)) : Prop := ∀ g, o = some g → ∀ t, Keeps r t → Keeps r (g t)

theorem OptKeeps.none {r : State} : OptKeeps r none := fun _ e => nomatch e

theorem OptKeeps.some {r : State} {f : State → State} (h : ∀ t, Keeps r t → Keeps r (f t)) : OptKeeps r (some f) :=
  fun _ e => by cases e; exact h

theorem Keeps.refl (r : State) : Keeps r r := ⟨rfl, rfl, id⟩

theorem Keeps.trans {r s t : State} (h : Keeps r s) (k : Keeps s t) : Keeps r t :=
  ⟨k.1.trans h.1, k.2.1.trans h.2.1, fun x => k.2.2 (h.2.2 x)⟩

theorem OutKeeps.next {r t : State} (h : Keeps r t) : OutKeeps r (.next t) := fun _ e => by cases e; exact h

/-- A change of other parts of the state. -/
theorem Keeps.of_parts {r u t : State} (h : Keeps r u) (hp : t.pending = u.pending) (hb : t.badArr = u.badArr)
    (hm : t.mem = u.mem) (hq : t.flt.queue = u.flt.queue) : Keeps r t :=
  h.trans ⟨hp, hb, fun x => by unfold State.sound at *; rw [hm, hq]; exact x⟩

/-- A change of the memories that keeps their canonical form. -/
theorem Keeps.of_mem {r u t : State} (h : Keeps r u) (hp : t.pending = u.pending) (hb : t.badArr = u.badArr)
    (hm : u.mem.wf = true → t.mem.wf = true) (hq : t.flt.queue = u.flt.queue) : Keeps r t :=
  h.trans ⟨hp, hb, fun x => by
    unfold State.sound at *
    rw [hq]
    simp only [Bool.and_eq_true] at x ⊢
    exact ⟨hm x.1, x.2⟩⟩

/-- A change of any parts of the state but the queue, the fuses, the memories and the fault queue. -/
theorem Keeps.upd {r u : State} {flt' : FltSt} {regs' : SMap Nat} {act' : SMap Nat} {shadows' : List Shadow} {snap' : SMap Nat} {latchH' : Option Latch} {latchM' : Option Latch} {readH' : Nat} {readM' : Nat} {regsM' : SMap Nat} {setAt' : SMap Nat} {hostSnap' : Option HostSnap} {tap' : TapSt} {frac' : Nat} {cores' : SMap CoreSt} {mesh' : List Packet} {stks' : SMap StkSt} {ports' : SMap PortSt} {inbox' : List (Nat × Cell)} {seam' : SMap Nat} {arb' : SMap Nat} {srv' : SrvSt} {time' : TimeSt} {thm' : ThmSt} {fw' : FwSt} {pages' : SMap Page} {mbx' : List (Nat × Byte)} {rampNext' : Nat} {out' : List Msg} {pwroff' : Bool} {phys' : PhysSt} {undo' : Option Undo} {free' : Nat}
    (h : Keeps r u) (hq : flt'.queue = u.flt.queue) :
    Keeps r ⟨u.pending, regs', act', shadows', snap', latchH', latchM', readH', readM', regsM', setAt', hostSnap', tap', frac', cores', u.mem, mesh', stks', ports', inbox', seam', arb', flt', srv', time', thm', fw', pages', mbx', u.badArr, rampNext', out', pwroff', phys', undo', free'⟩ :=
  h.of_parts rfl rfl rfl hq

/-- The same with a change of the memories that keeps their canonical form. -/
theorem Keeps.updMem {r u : State} {flt' : FltSt} {mem' : Mems} {regs' : SMap Nat} {act' : SMap Nat} {shadows' : List Shadow} {snap' : SMap Nat} {latchH' : Option Latch} {latchM' : Option Latch} {readH' : Nat} {readM' : Nat} {regsM' : SMap Nat} {setAt' : SMap Nat} {hostSnap' : Option HostSnap} {tap' : TapSt} {frac' : Nat} {cores' : SMap CoreSt} {mesh' : List Packet} {stks' : SMap StkSt} {ports' : SMap PortSt} {inbox' : List (Nat × Cell)} {seam' : SMap Nat} {arb' : SMap Nat} {srv' : SrvSt} {time' : TimeSt} {thm' : ThmSt} {fw' : FwSt} {pages' : SMap Page} {mbx' : List (Nat × Byte)} {rampNext' : Nat} {out' : List Msg} {pwroff' : Bool} {phys' : PhysSt} {undo' : Option Undo} {free' : Nat}
    (h : Keeps r u) (hm : u.mem.wf = true → mem'.wf = true) (hq : flt'.queue = u.flt.queue) :
    Keeps r ⟨u.pending, regs', act', shadows', snap', latchH', latchM', readH', readM', regsM', setAt', hostSnap', tap', frac', cores', mem', mesh', stks', ports', inbox', seam', arb', flt', srv', time', thm', fw', pages', mbx', u.badArr, rampNext', out', pwroff', phys', undo', free'⟩ :=
  h.of_mem rfl rfl hm hq

theorem Keeps.ite {r a b : State} {c : Prop} [Decidable c] (ha : Keeps r a) (hb : Keeps r b) :
    Keeps r (if c then a else b) := by split <;> assumption

theorem each_keepsAll {α : Type} {r : State} (l : List α) {f : α → State → State} {s : State} (h : Keeps r s)
    (hf : ∀ a t, Keeps r t → Keeps r (f a t)) : Keeps r (each l f s) := each_keeps l h hf

theorem upTo_keepsAll {r : State} (n : Nat) {f : Nat → State → State} {s : State} (h : Keeps r s)
    (hf : ∀ a t, Keeps r t → Keeps r (f a t)) : Keeps r (upTo n f s) := upTo_keeps n h hf

theorem when_keepsAll {r : State} (b : Bool) {f : State → State} {s : State} (h : Keeps r s)
    (hf : ∀ t, Keeps r t → Keeps r (f t)) : Keeps r (when b f s) := when_keeps b h hf

theorem foldl_keepsAll {α : Type} {r : State} (l : List α) {f : State → α → State} {s : State} (h : Keeps r s)
    (hf : ∀ t a, Keeps r t → Keeps r (f t a)) : Keeps r (l.foldl f s) := by
  induction l generalizing s with
  | nil => exact h
  | cons a l ih => exact ih (hf s a h)

end Machine
end Sys2Proof
end

