-- ==== Sys2Proof/Laws/Keeps/Ops.lean ====
section
/-! SUPPORT. The effects of Machine/Ops.lean keep the queue, the fuses and soundness. -/
namespace Sys2Proof.Machine

theorem set_keeps {r : State} (a0) (a1) {s : State} (h : Keeps r s) :
    Keeps r (set a0 a1 s) := by
  unfold set
  repeat' first
    | (with_reducible refine Keeps.upd ?_ rfl; with_reducible first | assumption | split)

theorem setB_keeps {r : State} (a0) (a1) {s : State} (h : Keeps r s) :
    Keeps r (setB a0 a1 s) := by
  unfold setB
  repeat' first
    | with_reducible assumption
    | with_reducible apply set_keeps

theorem setAct_keeps {r : State} (a0) (a1) {s : State} (h : Keeps r s) :
    Keeps r (setAct a0 a1 s) := by
  unfold setAct
  repeat' first
    | (with_reducible refine Keeps.upd ?_ rfl; with_reducible first | assumption | split)

theorem setBoth_keeps {r : State} (a0) (a1) {s : State} (h : Keeps r s) :
    Keeps r (setBoth a0 a1 s) := by
  unfold setBoth
  repeat' first
    | with_reducible assumption
    | (with_reducible first | apply setAct_keeps | apply set_keeps)

theorem bumpN_keeps {r : State} (a0) (a1) {s : State} (h : Keeps r s) :
    Keeps r (bumpN a0 a1 s) := by
  unfold bumpN
  repeat' first
    | with_reducible assumption
    | with_reducible apply set_keeps

theorem bump_keeps {r : State} (a0) {s : State} (h : Keeps r s) :
    Keeps r (bump a0 s) := by
  unfold bump
  repeat' first
    | with_reducible assumption
    | with_reducible apply bumpN_keeps

theorem setBit_keeps {r : State} (a0) (a1) (a2) {s : State} (h : Keeps r s) :
    Keeps r (setBit a0 a1 a2 s) := by
  unfold setBit
  repeat' first
    | with_reducible assumption
    | with_reducible apply set_keeps

theorem noteSet_keeps {r : State} (a0) (a1) {s : State} (h : Keeps r s) :
    Keeps r (noteSet a0 a1 s) := by
  unfold noteSet
  repeat' first
    | with_reducible assumption
    | (with_reducible apply Keeps.ite)
    | split
    | (with_reducible apply foldl_keepsAll)
    | dsimp only
    | (with_reducible intro _ _ _)
    | (with_reducible intro _ _)
    | (with_reducible intro _)
    | (with_reducible refine Keeps.upd ?_ rfl; with_reducible first | assumption | split)

theorem hwSet_keeps {r : State} (a0) (a1) {s : State} (h : Keeps r s) :
    Keeps r (hwSet a0 a1 s) := by
  unfold hwSet
  repeat' first
    | with_reducible assumption
    | (with_reducible first | apply noteSet_keeps | apply setBit_keeps)
    | (with_reducible apply Keeps.ite)
    | split
    | (with_reducible apply foldl_keepsAll)
    | dsimp only
    | (with_reducible intro _ _ _)
    | (with_reducible intro _ _)
    | (with_reducible intro _)

theorem emit_keeps {r : State} (a0) (a1) (a2) {s : State} (h : Keeps r s) :
    Keeps r (emit a0 a1 a2 s) := by
  unfold emit
  repeat' first
    | (with_reducible refine Keeps.upd ?_ rfl; with_reducible first | assumption | split)

theorem moveTo_keeps {r : State} (a0) {s : State} (h : Keeps r s) :
    Keeps r (moveTo a0 s) := by
  unfold moveTo
  repeat' first
    | with_reducible apply set_keeps
    | (with_reducible refine Keeps.upd ?_ rfl; with_reducible first | assumption | apply set_keeps | split)

theorem updPhys_keeps {r : State} (a0) {s : State} (h : Keeps r s) :
    Keeps r (updPhys a0 s) := by
  unfold updPhys
  repeat' first
    | with_reducible assumption
    | (with_reducible apply Keeps.ite)
    | split
    | (with_reducible apply foldl_keepsAll)
    | dsimp only
    | (with_reducible intro _ _ _)
    | (with_reducible intro _ _)
    | (with_reducible intro _)
    | (with_reducible refine Keeps.upd ?_ rfl; with_reducible first | assumption | split)

theorem ownTime_keeps {r : State} (a0) {s : State} (h : Keeps r s) :
    Keeps r (ownTime a0 s) := by
  unfold ownTime
  repeat' first
    | with_reducible assumption
    | (with_reducible first | apply set_keeps)
    | (with_reducible apply Keeps.ite)
    | split
    | (with_reducible apply foldl_keepsAll)
    | dsimp only
    | (with_reducible intro _ _ _)
    | (with_reducible intro _ _)
    | (with_reducible intro _)

theorem drawFree_keeps {r : State} {s : State} (h : Keeps r s) :
    Keeps r (drawFree s).2 := by
  unfold drawFree
  repeat' first
    | (with_reducible refine Keeps.upd ?_ rfl; with_reducible first | assumption | split)

theorem ifNet_keeps {r : State} {a0} {s : State} (h : Keeps r s) (h0 : ∀ t, Keeps r t → Keeps r (a0 t)) :
    Keeps r (ifNet a0 s) := by
  unfold ifNet
  repeat' first
    | with_reducible assumption
    | (with_reducible first | apply h0 | apply bump_keeps)
    | (with_reducible apply Keeps.ite)
    | split
    | (with_reducible apply foldl_keepsAll)
    | dsimp only
    | (with_reducible intro _ _ _)
    | (with_reducible intro _ _)
    | (with_reducible intro _)

theorem updCore_keeps {r : State} (a0) (a1) {s : State} (h : Keeps r s) :
    Keeps r (updCore a0 a1 s) := by
  unfold updCore
  repeat' first
    | (with_reducible refine Keeps.upd ?_ rfl; with_reducible first | assumption | split)

theorem bumpRtr_keeps {r : State} (a0) (a1) {s : State} (h : Keeps r s) :
    Keeps r (bumpRtr a0 a1 s) := by
  unfold bumpRtr
  repeat' first
    | with_reducible assumption
    | (with_reducible first | apply when_keepsAll | apply bump_keeps)

theorem markRow_keeps {r : State} (a0) (a1) (a2) {s : State} (h : Keeps r s) :
    Keeps r (markRow a0 a1 a2 s) := by
  unfold markRow
  repeat' first
    | with_reducible assumption
    | (with_reducible refine Keeps.updMem ?_ ?_ rfl; rotate_left; (rw [Mems.wf_iff, Mems.wf_iff]; rintro ⟨h1, h2, h3, h4, h5, h6, h7, h8, h9⟩; refine ⟨?_, ?_, ?_, ?_, ?_, ?_, ?_, ?_, ?_⟩ <;> repeat' (with_reducible first | assumption | exact SMap.wf_nil | exact NSet.wf_nil | apply SMap.wf_cond | apply NSet.wf_cond | apply wf_wrBytes | apply SMap.wf_put | apply SMap.wf_del | apply SMap.wf_erase | apply SMap.wf_filter | apply NSet.wf_add | apply NSet.wf_erase | apply NSet.wf_del | apply NSet.wf_filter | apply NSet.wf_foldl_add | apply SMap.wf_foldl_put | split)))

theorem putRow_keeps {r : State} (a0) (a1) (a2) (a3) {s : State} (h : Keeps r s) :
    Keeps r (putRow a0 a1 a2 a3 s) := by
  unfold putRow
  repeat' first
    | with_reducible assumption
    | (with_reducible refine Keeps.updMem ?_ ?_ rfl; rotate_left; (rw [Mems.wf_iff, Mems.wf_iff]; rintro ⟨h1, h2, h3, h4, h5, h6, h7, h8, h9⟩; refine ⟨?_, ?_, ?_, ?_, ?_, ?_, ?_, ?_, ?_⟩ <;> repeat' (with_reducible first | assumption | exact SMap.wf_nil | exact NSet.wf_nil | apply SMap.wf_cond | apply NSet.wf_cond | apply wf_wrBytes | apply SMap.wf_put | apply SMap.wf_del | apply SMap.wf_erase | apply SMap.wf_filter | apply NSet.wf_add | apply NSet.wf_erase | apply NSet.wf_del | apply NSet.wf_filter | apply NSet.wf_foldl_add | apply SMap.wf_foldl_put | split)))

theorem writeRow_keeps {r : State} (a0) (a1) (a2) (a3) {s : State} (h : Keeps r s) :
    Keeps r (writeRow a0 a1 a2 a3 s) := by
  unfold writeRow
  repeat' first
    | with_reducible assumption
    | (with_reducible first | apply updCore_keeps | apply markRow_keeps | apply putRow_keeps)

theorem markLine_keeps {r : State} (a0) (a1) {s : State} (h : Keeps r s) :
    Keeps r (markLine a0 a1 s) := by
  unfold markLine
  repeat' first
    | with_reducible assumption
    | (with_reducible refine Keeps.updMem ?_ ?_ rfl; rotate_left; (rw [Mems.wf_iff, Mems.wf_iff]; rintro ⟨h1, h2, h3, h4, h5, h6, h7, h8, h9⟩; refine ⟨?_, ?_, ?_, ?_, ?_, ?_, ?_, ?_, ?_⟩ <;> repeat' (with_reducible first | assumption | exact SMap.wf_nil | exact NSet.wf_nil | apply SMap.wf_cond | apply NSet.wf_cond | apply wf_wrBytes | apply SMap.wf_put | apply SMap.wf_del | apply SMap.wf_erase | apply SMap.wf_filter | apply NSet.wf_add | apply NSet.wf_erase | apply NSet.wf_del | apply NSet.wf_filter | apply NSet.wf_foldl_add | apply SMap.wf_foldl_put | split)))

theorem putStk_keeps {r : State} (a0) (a1) {s : State} (h : Keeps r s) :
    Keeps r (putStk a0 a1 s) := by
  unfold putStk
  repeat' first
    | with_reducible assumption
    | (with_reducible refine Keeps.updMem ?_ ?_ rfl; rotate_left; (rw [Mems.wf_iff, Mems.wf_iff]; rintro ⟨h1, h2, h3, h4, h5, h6, h7, h8, h9⟩; refine ⟨?_, ?_, ?_, ?_, ?_, ?_, ?_, ?_, ?_⟩ <;> repeat' (with_reducible first | assumption | exact SMap.wf_nil | exact NSet.wf_nil | apply SMap.wf_cond | apply NSet.wf_cond | apply wf_wrBytes | apply SMap.wf_put | apply SMap.wf_del | apply SMap.wf_erase | apply SMap.wf_filter | apply NSet.wf_add | apply NSet.wf_erase | apply NSet.wf_del | apply NSet.wf_filter | apply NSet.wf_foldl_add | apply SMap.wf_foldl_put | split)))

theorem eraseRegs_keeps {r : State} (a0) (a1) {s : State} (h : Keeps r s) :
    Keeps r (eraseRegs a0 a1 s) := by
  unfold eraseRegs
  repeat' first
    | (with_reducible refine Keeps.upd ?_ rfl; with_reducible first | assumption | split)

theorem updFw_keeps {r : State} (a0) {s : State} (h : Keeps r s) :
    Keeps r (updFw a0 s) := by
  unfold updFw
  repeat' first
    | with_reducible assumption
    | (with_reducible apply Keeps.ite)
    | split
    | (with_reducible apply foldl_keepsAll)
    | dsimp only
    | (with_reducible intro _ _ _)
    | (with_reducible intro _ _)
    | (with_reducible intro _)
    | (with_reducible refine Keeps.upd ?_ rfl; with_reducible first | assumption | split)

theorem updBoot_keeps {r : State} (a0) {s : State} (h : Keeps r s) :
    Keeps r (updBoot a0 s) := by
  unfold updBoot
  repeat' first
    | with_reducible assumption
    | (with_reducible first | apply updFw_keeps)
    | (with_reducible apply Keeps.ite)
    | split
    | (with_reducible apply foldl_keepsAll)
    | dsimp only
    | (with_reducible intro _ _ _)
    | (with_reducible intro _ _)
    | (with_reducible intro _)

end Sys2Proof.Machine
end

