-- ==== Sys2Proof/Laws/Keeps/Page.lean ====
section
/-! SUPPORT. The effects of Machine/Page.lean keep the queue, the fuses and soundness. -/
namespace Sys2Proof.Machine

theorem updPage_keeps {r : State} (a0) (a1) {s : State} (h : Keeps r s) :
    Keeps r (updPage a0 a1 s) := by
  unfold updPage
  repeat' first
    | (with_reducible refine Keeps.upd ?_ rfl; with_reducible first | assumption | split)

theorem putSlot_keeps {r : State} (a0) (a1) (a2) {s : State} (h : Keeps r s) :
    Keeps r (putSlot a0 a1 a2 s) := by
  unfold putSlot
  repeat' first
    | with_reducible assumption
    | (with_reducible first | apply updPage_keeps | apply set_keeps)
    | split

theorem putPage_keeps {r : State} (a0) (a1) (a2) {s : State} (h : Keeps r s) :
    Keeps r (putPage a0 a1 a2 s) := by
  unfold putPage
  repeat' first
    | (with_reducible refine Keeps.upd ?_ rfl; with_reducible first | assumption | split)

theorem raiseVector_keeps {r : State} (a0) (a1) {s : State} (h : Keeps r s) :
    Keeps r (raiseVector a0 a1 s) := by
  unfold raiseVector
  repeat' first
    | with_reducible assumption
    | (with_reducible first | apply emit_keeps | apply updPage_keeps)
    | (with_reducible apply Keeps.ite)
    | split
    | (with_reducible apply foldl_keepsAll)
    | dsimp only
    | (with_reducible intro _ _ _)
    | (with_reducible intro _ _)
    | (with_reducible intro _)

theorem maskVector_keeps {r : State} (a0) (a1) (a2) {s : State} (h : Keeps r s) :
    Keeps r (maskVector a0 a1 a2 s) := by
  unfold maskVector
  repeat' first
    | with_reducible assumption
    | (with_reducible first | apply updPage_keeps | apply when_keepsAll | apply raiseVector_keeps)
    | (with_reducible apply Keeps.ite)
    | split
    | (with_reducible apply foldl_keepsAll)
    | dsimp only
    | (with_reducible intro _ _ _)
    | (with_reducible intro _ _)
    | (with_reducible intro _)

theorem sendReply_keeps {r : State} (a0) (a1) (a2) {s : State} (h : Keeps r s) :
    Keeps r (sendReply a0 a1 a2 s) := by
  unfold sendReply
  repeat' first
    | with_reducible assumption
    | (with_reducible first | apply upTo_keepsAll | apply emit_keeps)
    | (with_reducible apply Keeps.ite)
    | split
    | (with_reducible apply foldl_keepsAll)
    | dsimp only
    | (with_reducible intro _ _ _)
    | (with_reducible intro _ _)
    | (with_reducible intro _)

theorem putResponse_keeps {r : State} (a0) (a1) (a2) (a3) {s : State} (h : Keeps r s) :
    Keeps r (putResponse a0 a1 a2 a3 s) := by
  unfold putResponse
  repeat' first
    | with_reducible assumption
    | (with_reducible first | apply putSlot_keeps | apply putPage_keeps | apply when_keepsAll | apply raiseVector_keeps | apply sendReply_keeps)
    | (with_reducible apply Keeps.ite)
    | split
    | (with_reducible apply foldl_keepsAll)
    | dsimp only
    | (with_reducible intro _ _ _)
    | (with_reducible intro _ _)
    | (with_reducible intro _)

theorem putEvent_keeps {r : State} (a0) (a1) {s : State} (h : Keeps r s) :
    Keeps r (putEvent a0 a1 s) := by
  unfold putEvent
  repeat' first
    | with_reducible assumption
    | (with_reducible first | apply updPage_keeps | apply putPage_keeps | apply when_keepsAll | apply raiseVector_keeps | apply sendReply_keeps)
    | (with_reducible apply Keeps.ite)
    | split
    | (with_reducible apply foldl_keepsAll)
    | dsimp only
    | (with_reducible intro _ _ _)
    | (with_reducible intro _ _)
    | (with_reducible intro _)

theorem noticeTo_keeps {r : State} (a0) (a1) (a2) (a3) {s : State} (h : Keeps r s) :
    Keeps r (noticeTo a0 a1 a2 a3 s) := by
  unfold noticeTo
  repeat' first
    | with_reducible assumption
    | (with_reducible first | apply bump_keeps | apply updPage_keeps | apply putEvent_keeps)
    | split

theorem notify_keeps {r : State} (a0) (a1) (a2) {s : State} (h : Keeps r s) :
    Keeps r (notify a0 a1 a2 s) := by
  unfold notify
  repeat' first
    | with_reducible assumption
    | (with_reducible first | apply each_keepsAll | apply noticeTo_keeps | apply emit_keeps)
    | (with_reducible intro _)

theorem dmaOut_keeps {r : State} (a0) (a1) (a2) {s : State} (h : Keeps r s) :
    Keeps r (dmaOut a0 a1 a2 s) := by
  unfold dmaOut
  repeat' first
    | with_reducible assumption
    | (with_reducible first | apply emit_keeps | apply bumpN_keeps)

theorem toBuffer_keeps {r : State} (a0) (a1) (a2) (a3) {s : State} (h : Keeps r s) :
    Keeps r (toBuffer a0 a1 a2 a3 s) := by
  unfold toBuffer
  repeat' first
    | with_reducible assumption
    | (with_reducible first | apply dmaOut_keeps)
    | (with_reducible apply Keeps.ite)
    | split
    | (with_reducible apply foldl_keepsAll)
    | dsimp only
    | (with_reducible intro _ _ _)
    | (with_reducible intro _ _)
    | (with_reducible intro _)

theorem fromBuffer_keeps {r : State} (a0) (a1) {s : State} (h : Keeps r s) :
    Keeps r (fromBuffer a0 a1 s) := by
  unfold fromBuffer
  repeat' first
    | with_reducible assumption
    | (with_reducible first | apply when_keepsAll | apply bumpN_keeps)
    | (with_reducible apply Keeps.ite)
    | split
    | (with_reducible apply foldl_keepsAll)
    | dsimp only
    | (with_reducible intro _ _ _)
    | (with_reducible intro _ _)
    | (with_reducible intro _)

theorem writePage_keeps {r : State} (a0) (a1) (a2) {s : State} (h : Keeps r s) :
    Keeps r (writePage a0 a1 a2 s) := by
  unfold writePage
  repeat' first
    | with_reducible assumption
    | (with_reducible first | apply updPage_keeps | apply when_keepsAll | apply maskVector_keeps | apply putPage_keeps | apply bump_keeps)
    | (with_reducible apply Keeps.ite)
    | split
    | (with_reducible apply foldl_keepsAll)
    | dsimp only
    | (with_reducible intro _ _ _)
    | (with_reducible intro _ _)
    | (with_reducible intro _)

end Sys2Proof.Machine
end

