-- ==== Sys2Proof/Laws/Keeps/Reset.lean ====
section
/-! SUPPORT. The effects of Machine/Reset.lean keep the queue, the fuses and soundness. -/
namespace Sys2Proof.Machine

theorem skipDraw_keeps {r : State} (a0) {s : State} (h : Keeps r s) :
    Keeps r (skipDraw a0 s) := by
  unfold skipDraw
  repeat' first
    | with_reducible assumption
    | (with_reducible first | apply bump_keeps | apply updCore_keeps)

theorem abandonTick_keeps {r : State} (a0) {s : State} (h : Keeps r s) :
    Keeps r (abandonTick a0 s) := by
  unfold abandonTick
  repeat' first
    | with_reducible assumption
    | (with_reducible first | apply each_keepsAll | apply markRow_keeps | apply updCore_keeps | apply set_keeps | apply when_keepsAll | apply skipDraw_keeps)
    | (with_reducible intro _)

theorem wipeSpad_keeps {r : State} (a0) {s : State} (h : Keeps r s) :
    Keeps r (wipeSpad a0 s) := by
  unfold wipeSpad
  repeat' first
    | with_reducible assumption
    | (with_reducible refine Keeps.updMem ?_ ?_ rfl; rotate_left; (rw [Mems.wf_iff, Mems.wf_iff]; rintro ⟨h1, h2, h3, h4, h5, h6, h7, h8, h9⟩; refine ⟨?_, ?_, ?_, ?_, ?_, ?_, ?_, ?_, ?_⟩ <;> repeat' (with_reducible first | assumption | exact SMap.wf_nil | exact NSet.wf_nil | apply SMap.wf_cond | apply NSet.wf_cond | apply wf_wrBytes | apply SMap.wf_put | apply SMap.wf_del | apply SMap.wf_erase | apply SMap.wf_filter | apply NSet.wf_add | apply NSet.wf_erase | apply NSet.wf_del | apply NSet.wf_filter | apply NSet.wf_foldl_add | apply SMap.wf_foldl_put | split)))

theorem setUndef_keeps {r : State} (a0) (a1) (a2) {s : State} (h : Keeps r s) :
    Keeps r (setUndef a0 a1 a2 s) := by
  unfold setUndef
  repeat' first
    | with_reducible assumption
    | (with_reducible refine Keeps.updMem ?_ ?_ rfl; rotate_left; (rw [Mems.wf_iff, Mems.wf_iff]; rintro ⟨h1, h2, h3, h4, h5, h6, h7, h8, h9⟩; refine ⟨?_, ?_, ?_, ?_, ?_, ?_, ?_, ?_, ?_⟩ <;> repeat' (with_reducible first | assumption | exact SMap.wf_nil | exact NSet.wf_nil | apply SMap.wf_cond | apply NSet.wf_cond | apply wf_wrBytes | apply SMap.wf_put | apply SMap.wf_del | apply SMap.wf_erase | apply SMap.wf_filter | apply NSet.wf_add | apply NSet.wf_erase | apply NSet.wf_del | apply NSet.wf_filter | apply NSet.wf_foldl_add | apply SMap.wf_foldl_put | split)))

theorem stopUnits_keeps {r : State} (a0) {s : State} (h : Keeps r s) :
    Keeps r (stopUnits a0 s) := by
  unfold stopUnits
  repeat' first
    | with_reducible assumption
    | (with_reducible first | apply each_keepsAll | apply setUndef_keeps | apply setB_keeps | apply updCore_keeps)
    | (with_reducible apply Keeps.ite)
    | split
    | (with_reducible apply foldl_keepsAll)
    | dsimp only
    | (with_reducible intro _ _ _)
    | (with_reducible intro _ _)
    | (with_reducible intro _)

theorem resetCompute_keeps {r : State} (a0) {s : State} (h : Keeps r s) :
    Keeps r (resetCompute a0 s) := by
  unfold resetCompute
  repeat' first
    | with_reducible assumption
    | (with_reducible first | apply stopUnits_keeps | apply abandonTick_keeps | apply eraseRegs_keeps | apply each_keepsAll | apply set_keeps | apply updCore_keeps | apply setB_keeps)
    | (with_reducible apply Keeps.ite)
    | split
    | (with_reducible apply foldl_keepsAll)
    | dsimp only
    | (with_reducible intro _ _ _)
    | (with_reducible intro _ _)
    | (with_reducible intro _)
    | (with_reducible refine Keeps.updMem ?_ ?_ rfl; rotate_left; (rw [Mems.wf_iff, Mems.wf_iff]; rintro ⟨h1, h2, h3, h4, h5, h6, h7, h8, h9⟩; refine ⟨?_, ?_, ?_, ?_, ?_, ?_, ?_, ?_, ?_⟩ <;> repeat' (with_reducible first | assumption | exact SMap.wf_nil | exact NSet.wf_nil | apply SMap.wf_cond | apply NSet.wf_cond | apply wf_wrBytes | apply SMap.wf_put | apply SMap.wf_del | apply SMap.wf_erase | apply SMap.wf_filter | apply NSet.wf_add | apply NSet.wf_erase | apply NSet.wf_del | apply NSet.wf_filter | apply NSet.wf_foldl_add | apply SMap.wf_foldl_put | split)))
    | (with_reducible refine Keeps.upd ?_ rfl; with_reducible first | assumption | apply stopUnits_keeps | apply abandonTick_keeps | apply eraseRegs_keeps | apply each_keepsAll | apply set_keeps | apply updCore_keeps | apply setB_keeps | split)

theorem setCoreState_keeps {r : State} (a0) (a1) {s : State} (h : Keeps r s) :
    Keeps r (setCoreState a0 a1 s) := by
  unfold setCoreState
  repeat' first
    | with_reducible assumption
    | with_reducible apply set_keeps

theorem markEnding_keeps {r : State} (a0) {s : State} (h : Keeps r s) :
    Keeps r (markEnding a0 s) := by
  unfold markEnding
  repeat' first
    | with_reducible assumption
    | (with_reducible first | apply each_keepsAll | apply markRow_keeps)
    | (with_reducible apply Keeps.ite)
    | split
    | (with_reducible apply foldl_keepsAll)
    | dsimp only
    | (with_reducible intro _ _ _)
    | (with_reducible intro _ _)
    | (with_reducible intro _)

theorem fenceCore_keeps {r : State} (a0) {s : State} (h : Keeps r s) :
    Keeps r (fenceCore a0 s) := by
  unfold fenceCore
  repeat' first
    | with_reducible assumption
    | (with_reducible first | apply bump_keeps | apply setCoreState_keeps | apply resetCompute_keeps | apply markEnding_keeps)
    | (with_reducible apply Keeps.ite)
    | split
    | (with_reducible apply foldl_keepsAll)
    | dsimp only
    | (with_reducible intro _ _ _)
    | (with_reducible intro _ _)
    | (with_reducible intro _)

end Sys2Proof.Machine
end

