-- ==== Sys2Proof/Laws/Keeps/Flt.lean ====
section
/-! SUPPORT. The effects of Machine/Flt.lean keep the queue, the fuses and soundness. -/
namespace Sys2Proof.Machine

/-- A change of the fault queue within its bound. -/
theorem Keeps.queue {r u : State} (h : Keeps r u) (q : FltSt) (hq : u.flt.queue.length ≤ 256 → q.queue.length ≤ 256) :
    Keeps r { u with flt := q } :=
  h.trans ⟨rfl, rfl, fun x => by
    unfold State.sound at *
    simp only [Bool.and_eq_true, decide_eq_true_eq] at x ⊢
    exact ⟨x.1, hq x.2⟩⟩

theorem updPin_keeps {r : State} {s : State} (h : Keeps r s) :
    Keeps r (updPin s) := by
  unfold updPin
  repeat' first
    | with_reducible assumption
    | (with_reducible first | apply when_keepsAll | apply setB_keeps)
    | split

theorem startPulse_keeps {r : State} {s : State} (h : Keeps r s) :
    Keeps r (startPulse s) := by
  unfold startPulse
  repeat' first
    | with_reducible assumption
    | (with_reducible first | apply bump_keeps | apply setB_keeps)

theorem pinEvent_keeps {r : State} (a0) {s : State} (h : Keeps r s) :
    Keeps r (pinEvent a0 s) := by
  unfold pinEvent
  repeat' first
    | (with_reducible first | apply startPulse_keeps | apply updPin_keeps)
    | (with_reducible refine Keeps.upd ?_ rfl; with_reducible first | assumption | apply startPulse_keeps | apply updPin_keeps | split)

theorem setRec_keeps {r : State} (a0) (a1) (a2) {s : State} (h : Keeps r s) :
    Keeps r (setRec a0 a1 a2 s) := by
  unfold setRec
  repeat' first
    | with_reducible assumption
    | (with_reducible first | apply each_keepsAll | apply set_keeps)
    | (with_reducible intro _)

theorem showQueue_keeps {r : State} {s : State} (h : Keeps r s) :
    Keeps r (showQueue s) := by
  unfold showQueue
  repeat' first
    | with_reducible assumption
    | (with_reducible first | apply set_keeps | apply setRec_keeps)
    | split

theorem unCommit_keeps {r : State} {s : State} (h : Keeps r s) :
    Keeps r (unCommit s) := by
  unfold unCommit
  repeat' first
    | with_reducible assumption
    | (with_reducible apply Keeps.ite)
    | split
    | (with_reducible apply foldl_keepsAll)
    | dsimp only
    | (with_reducible intro _ _ _)
    | (with_reducible intro _ _)
    | (with_reducible intro _)
    | (with_reducible refine Keeps.upd ?_ rfl; with_reducible first | assumption | split)

theorem safeState_keeps {r : State} {s : State} (h : Keeps r s) :
    Keeps r (safeState s) := by
  unfold safeState
  repeat' first
    | with_reducible assumption
    | (with_reducible first | apply each_keepsAll | apply fenceCore_keeps | apply setB_keeps | apply set_keeps | apply unCommit_keeps)
    | (with_reducible apply Keeps.ite)
    | split
    | (with_reducible apply foldl_keepsAll)
    | dsimp only
    | (with_reducible intro _ _ _)
    | (with_reducible intro _ _)
    | (with_reducible intro _)

theorem react_keeps {r : State} (a0) (a1) {s : State} (h : Keeps r s) :
    Keeps r (react a0 a1 s) := by
  unfold react
  repeat' first
    | (with_reducible first | apply fenceCore_keeps | apply safeState_keeps | apply setB_keeps)
    | (with_reducible refine Keeps.upd ?_ rfl; with_reducible first | assumption | apply fenceCore_keeps | apply safeState_keeps | apply setB_keeps | split)

theorem markUnack_keeps {r : State} (a0) (a1) {s : State} (h : Keeps r s) :
    Keeps r (markUnack a0 a1 s) := by
  unfold markUnack
  repeat' first
    | with_reducible assumption
    | (with_reducible first | apply when_keepsAll | apply setBit_keeps)

theorem record_keeps {r : State} (x : FltRec) (l : List Nat) {s : State} (h : Keeps r s) : Keeps r (record x l s) := by
  have h1 : Keeps r (s |> bump (F.FLT_EVT_CNT x.cls) |> bump (F.FLT_SRC_CNT x.src) |> each l (fun l s => bump (F.FLT_ESC_CNT l) s)) :=
    each_keepsAll _ (bump_keeps _ (bump_keeps _ h)) fun _ _ => bump_keeps _
  have h2 : ∀ u, Keeps r u → Keeps r (if flag u (F.FLT_CAP_VALID x.cls) then u else noteSet (F.FLT_CAP_VALID x.cls) 0 (setRec (capFields x.cls) x true u)) :=
    fun u hu => Keeps.ite hu (noteSet_keeps _ _ (setRec_keeps _ _ _ hu))
  have h3 : ∀ u, Keeps r u → Keeps r (if u.flt.queue.length < 256 then
      showQueue { u with flt := { u.flt with queue := u.flt.queue ++ [x] } } else bump F.FLT_LOG_DROP_CNT u) := by
    intro u hu
    split
    · exact showQueue_keeps (hu.queue _ fun _ => by simp; omega)
    · exact bump_keeps _ hu
  have h4 : ∀ u, Keeps r u → Keeps r (if get u F.FLT_STAT_HIGHEST = 7 || get u F.FLT_STAT_HIGHEST < x.cls then
      set F.FLT_STAT_HIGHEST x.cls u else u) := fun u hu => Keeps.ite (set_keeps _ _ hu) hu
  exact h4 _ (h3 _ (h2 _ h1))

theorem collect_keeps {r : State} (a0) (a1) (a2) {s : State} (h : Keeps r s) :
    Keeps r (collect a0 a1 a2 s) := by
  unfold collect
  repeat' first
    | (with_reducible first | apply pinEvent_keeps | apply react_keeps | apply markUnack_keeps | apply record_keeps)
    | (with_reducible refine Keeps.upd ?_ rfl; with_reducible first | assumption | apply pinEvent_keeps | apply react_keeps | apply markUnack_keeps | apply record_keeps | split)

theorem raise_keeps {r : State} (a0) {s : State} (h : Keeps r s) :
    Keeps r (raise a0 s) := by
  unfold raise
  repeat' first
    | with_reducible assumption
    | with_reducible apply collect_keeps
    | split

theorem raiseInjected_keeps {r : State} (a0) {s : State} (h : Keeps r s) :
    Keeps r (raiseInjected a0 s) := by
  unfold raiseInjected
  repeat' first
    | with_reducible assumption
    | with_reducible apply collect_keeps
    | split

theorem pendSet_keeps {r : State} (a0) {s : State} (h : Keeps r s) :
    Keeps r (pendSet a0 s) := by
  unfold pendSet
  repeat' first
    | (with_reducible refine Keeps.upd ?_ rfl; with_reducible first | assumption | split)

theorem ackDom_keeps {r : State} (a0) (a1) {s : State} (h : Keeps r s) :
    Keeps r (ackDom a0 a1 s) := by
  unfold ackDom
  repeat' first
    | (with_reducible first | apply setBit_keeps | apply updPin_keeps)
    | (with_reducible refine Keeps.upd ?_ rfl; with_reducible first | assumption | apply setBit_keeps | apply updPin_keeps | split)

theorem ackAll_keeps {r : State} (a0) {s : State} (h : Keeps r s) :
    Keeps r (ackAll a0 s) := by
  unfold ackAll
  repeat' first
    | with_reducible assumption
    | (with_reducible first | apply upTo_keepsAll | apply ackDom_keeps | apply updPin_keeps | apply setBit_keeps)
    | split

end Sys2Proof.Machine
end

