-- ==== Sys2Proof/Laws/Keeps/Spad.lean ====
section
/-! SUPPORT. The effects of Machine/Spad.lean keep the queue, the fuses and soundness. -/
namespace Sys2Proof.Machine

theorem injApply_keeps {r : State} {s : State} (h : Keeps r s) :
    Keeps r (injApply s) := by
  unfold injApply
  repeat' first
    | (with_reducible first | apply set_keeps | apply bump_keeps)
    | (with_reducible refine Keeps.upd ?_ rfl; with_reducible first | assumption | apply set_keeps | apply bump_keeps | split)

theorem detect_keeps {r : State} (a0) (a1) (a2) (a3) {s : State} (h : Keeps r s) :
    Keeps r (detect a0 a1 a2 a3 s) := by
  unfold detect
  repeat' first
    | with_reducible assumption
    | (with_reducible first | apply bump_keeps | apply set_keeps | apply hwSet_keeps | apply updCore_keeps | apply injApply_keeps | apply raise_keeps)
    | (with_reducible apply Keeps.ite)
    | split
    | (with_reducible apply foldl_keepsAll)
    | dsimp only
    | (with_reducible intro _ _ _)
    | (with_reducible intro _ _)
    | (with_reducible intro _)

theorem readRow_keeps {r : State} (a0) (a1) (a2) {s : State} (h : Keeps r s) :
    Keeps r (readRow a0 a1 a2 s).2 := by
  unfold readRow
  repeat' first
    | with_reducible assumption
    | (with_reducible first | apply when_keepsAll | apply bump_keeps | apply detect_keeps)
    | split

theorem readRows_keeps {r : State} (c u : Nat) (l : List Nat) {s : State} (h : Keeps r s) : Keeps r (readRows c u l s).2 := by
  induction l generalizing s with
  | nil => exact h
  | cons x l ih => exact ih (readRow_keeps _ _ _ h)

theorem readMode_keeps {r : State} (a0) (a1) (a2) (a3) (a4) (a5) {s : State} (h : Keeps r s) :
    Keeps r (readMode a0 a1 a2 a3 a4 a5 s).2 := by
  unfold readMode
  repeat' first
    | with_reducible assumption
    | with_reducible apply readRows_keeps
    | split

end Sys2Proof.Machine
end

