-- ==== Sys2Proof/Laws/Keeps/Seq.lean ====
section
/-! SUPPORT. The effects of Machine/Seq.lean keep the queue, the fuses and soundness. -/
namespace Sys2Proof.Machine

theorem applyUpset_keeps {r : State} (a0) {s : State} (h : Keeps r s) :
    Keeps r (applyUpset a0 s) := by
  unfold applyUpset
  repeat' first
    | (with_reducible first | apply drawFree_keeps | apply putRow_keeps)
    | (with_reducible refine Keeps.updMem ?_ ?_ rfl; rotate_left; (rw [Mems.wf_iff, Mems.wf_iff]; rintro ⟨h1, h2, h3, h4, h5, h6, h7, h8, h9⟩; refine ⟨?_, ?_, ?_, ?_, ?_, ?_, ?_, ?_, ?_⟩ <;> repeat' (with_reducible first | assumption | exact SMap.wf_nil | exact NSet.wf_nil | apply SMap.wf_cond | apply NSet.wf_cond | apply wf_wrBytes | apply SMap.wf_put | apply SMap.wf_del | apply SMap.wf_erase | apply SMap.wf_filter | apply NSet.wf_add | apply NSet.wf_erase | apply NSet.wf_del | apply NSet.wf_filter | apply NSet.wf_foldl_add | apply SMap.wf_foldl_put | split)))
    | (with_reducible refine Keeps.upd ?_ rfl; with_reducible first | assumption | apply drawFree_keeps | apply putRow_keeps | split)

theorem progCorr_keeps {r : State} (a0) {s : State} (h : Keeps r s) :
    Keeps r (progCorr a0 s) := by
  unfold progCorr
  repeat' first
    | with_reducible assumption
    | (with_reducible first | apply bump_keeps | apply raise_keeps | apply pendSet_keeps)

theorem signal_keeps {r : State} (a0) (a1) {s : State} (h : Keeps r s) :
    Keeps r (signal a0 a1 s) := by
  unfold signal
  repeat' first
    | with_reducible assumption
    | with_reducible apply updCore_keeps
    | split

theorem nextPc_keeps {r : State} (a0) {s : State} (h : Keeps r s) :
    Keeps r (nextPc a0 s) := by
  unfold nextPc
  repeat' first
    | with_reducible assumption
    | (with_reducible first | apply updCore_keeps | apply set_keeps)
    | split

theorem occupy_keeps {r : State} (a0) (a1) {s : State} (h : Keeps r s) :
    Keeps r (occupy a0 a1 s) := by
  unfold occupy
  repeat' first
    | with_reducible assumption
    | (with_reducible first | apply updCore_keeps)
    | (with_reducible apply Keeps.ite)
    | split
    | (with_reducible apply foldl_keepsAll)
    | dsimp only
    | (with_reducible intro _ _ _)
    | (with_reducible intro _ _)
    | (with_reducible intro _)

theorem stallEnd_keeps {r : State} (a0) (a1) {s : State} (h : Keeps r s) :
    Keeps r (stallEnd a0 a1 s) := by
  unfold stallEnd
  repeat' first
    | with_reducible assumption
    | (with_reducible first | apply bumpN_keeps | apply moveTo_keeps)
    | (with_reducible apply Keeps.ite)
    | split
    | (with_reducible apply foldl_keepsAll)
    | dsimp only
    | (with_reducible intro _ _ _)
    | (with_reducible intro _ _)
    | (with_reducible intro _)

theorem issue_keeps {r : State} (a0) (a1) (a2) (a3) (a4) {a5} {s : State} (h : Keeps r s) (h5 : ∀ x0 t, Keeps r t → Keeps r (a5 x0 t)) :
    Keeps r (issue a0 a1 a2 a3 a4 a5 s) := by
  unfold issue
  repeat' first
    | with_reducible assumption
    | (with_reducible first | apply h5 | apply applyUpset_keeps | apply moveTo_keeps | apply bump_keeps | apply stallEnd_keeps | apply progCorr_keeps | apply nextPc_keeps | apply occupy_keeps)
    | (with_reducible apply Keeps.ite)
    | split
    | (with_reducible apply foldl_keepsAll)
    | dsimp only
    | (with_reducible intro _ _ _)
    | (with_reducible intro _ _)
    | (with_reducible intro _)

theorem addOp_keeps {r : State} (a0) (a1) (a2) (a3) (a4) {s : State} (h : Keeps r s) :
    Keeps r (addOp a0 a1 a2 a3 a4 s).2 := by
  unfold addOp
  repeat' first
    | with_reducible assumption
    | with_reducible apply updCore_keeps

theorem inOrder_keeps {r : State} (a0) (a1) (a2) {a3} (a4) {s : State} (h : Keeps r s) (h3 : ∀ x0 t, Keeps r t → Keeps r (a3 x0 t)) :
    Keeps r (inOrder a0 a1 a2 a3 a4 s) := by
  unfold inOrder
  repeat' first
    | with_reducible assumption
    | (with_reducible first | apply h3 | apply addOp_keeps)
    | (with_reducible apply Keeps.ite)
    | split
    | (with_reducible apply foldl_keepsAll)
    | dsimp only
    | (with_reducible intro _ _ _)
    | (with_reducible intro _ _)
    | (with_reducible intro _)

theorem dropOp_keeps {r : State} (a0) (a1) {s : State} (h : Keeps r s) :
    Keeps r (dropOp a0 a1 s) := by
  unfold dropOp
  repeat' first
    | with_reducible assumption
    | with_reducible apply updCore_keeps

theorem opDone_keeps {r : State} (a0) (a1) {s : State} (h : Keeps r s) :
    Keeps r (opDone a0 a1 s) := by
  unfold opDone
  repeat' first
    | with_reducible assumption
    | (with_reducible first | apply signal_keeps | apply dropOp_keeps | apply updCore_keeps)
    | split

theorem illegalStop_keeps {r : State} (a0) (a1) (a2) {s : State} (h : Keeps r s) :
    Keeps r (illegalStop a0 a1 a2 s) := by
  unfold illegalStop
  repeat' first
    | with_reducible assumption
    | (with_reducible first | apply updCore_keeps | apply setB_keeps | apply set_keeps | apply bump_keeps | apply raise_keeps)

theorem execIllegalInstruction_keeps {r : State} (a0) {s : State} (h : Keeps r s) :
    OutKeeps r (execIllegalInstruction a0 s) := by
  unfold execIllegalInstruction
  repeat' first
    | with_reducible assumption
    | with_reducible apply OutKeeps.next
    | (with_reducible first | apply applyUpset_keeps | apply illegalStop_keeps | apply bump_keeps | apply raise_keeps | apply pendSet_keeps)
    | split
    | dsimp only

theorem endBody_keeps {r : State} (a0) (a1) {s : State} (h : Keeps r s) :
    Keeps r (endBody a0 a1 s) := by
  unfold endBody
  repeat' first
    | with_reducible assumption
    | (with_reducible first | apply signal_keeps | apply set_keeps)
    | split

theorem execEndOp_keeps {r : State} (a0) {s : State} (h : Keeps r s) :
    OutKeeps r (execEndOp a0 s) := by
  unfold execEndOp
  repeat' first
    | with_reducible assumption
    | with_reducible apply OutKeeps.next
    | (with_reducible first | apply signal_keeps | apply set_keeps | apply issue_keeps | apply endBody_keeps)
    | split
    | dsimp only

theorem showWins_keeps {r : State} (a0) {s : State} (h : Keeps r s) :
    Keeps r (showWins a0 s) := by
  unfold showWins
  repeat' first
    | with_reducible assumption
    | with_reducible apply set_keeps

theorem dropLanded_keeps {r : State} (a0) (a1) {s : State} (h : Keeps r s) :
    Keeps r (dropLanded a0 a1 s) := by
  unfold dropLanded
  repeat' first
    | with_reducible assumption
    | (with_reducible first | apply updCore_keeps)
    | (with_reducible apply Keeps.ite)
    | split
    | (with_reducible apply foldl_keepsAll)
    | dsimp only
    | (with_reducible intro _ _ _)
    | (with_reducible intro _ _)
    | (with_reducible intro _)

theorem winOpen_keeps {r : State} (a0) (a1) {s : State} (h : Keeps r s) :
    Keeps r (winOpen a0 a1 s) := by
  unfold winOpen
  repeat' first
    | with_reducible assumption
    | (with_reducible first | apply bump_keeps | apply showWins_keeps | apply dropLanded_keeps | apply set_keeps | apply setB_keeps)
    | (with_reducible apply Keeps.ite)
    | split
    | (with_reducible apply foldl_keepsAll)
    | dsimp only
    | (with_reducible intro _ _ _)
    | (with_reducible intro _ _)
    | (with_reducible intro _)

theorem winSeal_keeps {r : State} (a0) (a1) {s : State} (h : Keeps r s) :
    Keeps r (winSeal a0 a1 s) := by
  unfold winSeal
  repeat' first
    | with_reducible assumption
    | (with_reducible first | apply when_keepsAll | apply setB_keeps)

theorem winClose_keeps {r : State} (a0) (a1) {s : State} (h : Keeps r s) :
    Keeps r (winClose a0 a1 s) := by
  unfold winClose
  repeat' first
    | with_reducible assumption
    | (with_reducible first | apply showWins_keeps | apply dropLanded_keeps | apply setB_keeps | apply set_keeps)
    | (with_reducible apply Keeps.ite)
    | split
    | (with_reducible apply foldl_keepsAll)
    | dsimp only
    | (with_reducible intro _ _ _)
    | (with_reducible intro _ _)
    | (with_reducible intro _)

theorem execWinOpen_keeps {r : State} (a0) {s : State} (h : Keeps r s) :
    OutKeeps r (execWinOpen a0 s) := by
  unfold execWinOpen
  repeat' first
    | with_reducible assumption
    | with_reducible apply OutKeeps.next
    | (with_reducible first | apply issue_keeps | apply signal_keeps | apply winOpen_keeps)
    | (with_reducible intro _)

theorem execWinSeal_keeps {r : State} (a0) {s : State} (h : Keeps r s) :
    OutKeeps r (execWinSeal a0 s) := by
  unfold execWinSeal
  repeat' first
    | with_reducible assumption
    | with_reducible apply OutKeeps.next
    | (with_reducible first | apply issue_keeps | apply signal_keeps | apply winSeal_keeps)
    | (with_reducible intro _)

theorem execWinClose_keeps {r : State} (a0) {s : State} (h : Keeps r s) :
    OutKeeps r (execWinClose a0 s) := by
  unfold execWinClose
  repeat' first
    | with_reducible assumption
    | with_reducible apply OutKeeps.next
    | (with_reducible first | apply issue_keeps | apply signal_keeps | apply winClose_keeps)
    | (with_reducible intro _)

theorem execWaitEvt_keeps {r : State} (a0) {s : State} (h : Keeps r s) :
    OutKeeps r (execWaitEvt a0 s) := by
  unfold execWaitEvt
  repeat' first
    | with_reducible assumption
    | with_reducible apply OutKeeps.next
    | (with_reducible first | apply issue_keeps | apply signal_keeps)
    | (with_reducible intro _)

theorem execWaitWin_keeps {r : State} (a0) {s : State} (h : Keeps r s) :
    OutKeeps r (execWaitWin a0 s) := by
  unfold execWaitWin
  repeat' first
    | with_reducible assumption
    | with_reducible apply OutKeeps.next
    | (with_reducible first | apply issue_keeps | apply signal_keeps)
    | (with_reducible intro _)

theorem execWaitDeadline_keeps {r : State} (a0) {s : State} (h : Keeps r s) :
    OutKeeps r (execWaitDeadline a0 s) := by
  unfold execWaitDeadline
  repeat' first
    | with_reducible assumption
    | with_reducible apply OutKeeps.next
    | (with_reducible first | apply issue_keeps | apply signal_keeps | apply updCore_keeps | apply bump_keeps | apply moveTo_keeps)
    | (with_reducible intro _)

end Sys2Proof.Machine
end

