-- ==== Sys2Proof/Laws/Keeps/Mesh.lean ====
section
/-! SUPPORT. The effects of Machine/Mesh.lean keep the queue, the fuses and soundness. -/
namespace Sys2Proof.Machine

theorem place_keeps {r : State} (a0) {s : State} (h : Keeps r s) :
    Keeps r (place a0 s) := by
  unfold place
  repeat' first
    | with_reducible assumption
    | (with_reducible apply Keeps.ite)
    | split
    | (with_reducible apply foldl_keepsAll)
    | dsimp only
    | (with_reducible intro _ _ _)
    | (with_reducible intro _ _)
    | (with_reducible intro _)
    | (with_reducible refine Keeps.upd ?_ rfl; with_reducible first | assumption | split)

theorem inject_keeps {r : State} (a0) {s : State} (h : Keeps r s) :
    Keeps r (inject a0 s) := by
  unfold inject
  repeat' first
    | with_reducible assumption
    | (with_reducible first | apply place_keeps | apply when_keepsAll | apply bumpRtr_keeps)
    | (with_reducible apply Keeps.ite)
    | split
    | (with_reducible apply foldl_keepsAll)
    | dsimp only
    | (with_reducible intro _ _ _)
    | (with_reducible intro _ _)
    | (with_reducible intro _)

theorem freeBytes_keeps {r : State} (a0) {s : State} (h : Keeps r s) :
    Keeps r (freeBytes a0 s).2 := by
  unfold freeBytes
  repeat' first
    | with_reducible assumption
    | with_reducible apply drawFree_keeps

theorem regionRej_keeps {r : State} (a0) {s : State} (h : Keeps r s) :
    Keeps r (regionRej a0 s) := by
  unfold regionRej
  repeat' first
    | with_reducible assumption
    | with_reducible apply bumpRtr_keeps

theorem askRead_keeps {r : State} (a0) (a1) {s : State} (h : Keeps r s) :
    Keeps r (askRead a0 a1 s) := by
  unfold askRead
  repeat' first
    | with_reducible assumption
    | (with_reducible first | apply inject_keeps | apply updCore_keeps | apply bumpRtr_keeps)
    | (with_reducible apply Keeps.ite)
    | split
    | (with_reducible apply foldl_keepsAll)
    | dsimp only
    | (with_reducible intro _ _ _)
    | (with_reducible intro _ _)
    | (with_reducible intro _)

theorem nackCore_keeps {r : State} (a0) (a1) (a2) {s : State} (h : Keeps r s) :
    Keeps r (nackCore a0 a1 a2 s) := by
  unfold nackCore
  repeat' first
    | with_reducible assumption
    | with_reducible apply inject_keeps

theorem updPort_keeps {r : State} (a0) (a1) {s : State} (h : Keeps r s) :
    Keeps r (updPort a0 a1 s) := by
  unfold updPort
  repeat' first
    | (with_reducible refine Keeps.upd ?_ rfl; with_reducible first | assumption | split)

theorem askNack_keeps {r : State} (a0) (a1) (a2) {s : State} (h : Keeps r s) :
    Keeps r (askNack a0 a1 a2 s) := by
  unfold askNack
  repeat' first
    | with_reducible assumption
    | (with_reducible first | apply updPort_keeps | apply bump_keeps)
    | split

theorem putOq_keeps {r : State} (a0) (a1) {s : State} (h : Keeps r s) :
    Keeps r (putOq a0 a1 s) := by
  unfold putOq
  repeat' first
    | with_reducible assumption
    | (with_reducible apply Keeps.ite)
    | split
    | (with_reducible apply foldl_keepsAll)
    | dsimp only
    | (with_reducible intro _ _ _)
    | (with_reducible intro _ _)
    | (with_reducible intro _)
    | (with_reducible refine Keeps.upd ?_ rfl; with_reducible first | assumption | split)

theorem tagNack_keeps {r : State} (a0) (a1) {s : State} (h : Keeps r s) :
    Keeps r (tagNack a0 a1 s) := by
  unfold tagNack
  repeat' first
    | with_reducible assumption
    | (with_reducible first | apply notify_keeps | apply bump_keeps | apply putOq_keeps)
    | (with_reducible apply Keeps.ite)
    | split
    | (with_reducible apply foldl_keepsAll)
    | dsimp only
    | (with_reducible intro _ _ _)
    | (with_reducible intro _ _)
    | (with_reducible intro _)
    | (with_reducible refine Keeps.upd ?_ rfl; with_reducible first | assumption | apply notify_keeps | apply bump_keeps | apply putOq_keeps | split)

theorem tagRsp_keeps {r : State} (a0) (a1) {s : State} (h : Keeps r s) :
    Keeps r (tagRsp a0 a1 s) := by
  unfold tagRsp
  repeat' first
    | with_reducible assumption
    | (with_reducible first | apply putOq_keeps)
    | (with_reducible apply Keeps.ite)
    | split
    | (with_reducible apply foldl_keepsAll)
    | dsimp only
    | (with_reducible intro _ _ _)
    | (with_reducible intro _ _)
    | (with_reducible intro _)
    | (with_reducible refine Keeps.upd ?_ rfl; with_reducible first | assumption | apply putOq_keeps | split)

theorem sendBulk_keeps {r : State} (a0) (a1) (a2) (a3) (a4) (a5) {s : State} (h : Keeps r s) :
    Keeps r (sendBulk a0 a1 a2 a3 a4 a5 s) := by
  unfold sendBulk
  repeat' first
    | with_reducible assumption
    | (with_reducible first | apply inject_keeps | apply tagNack_keeps)
    | (with_reducible apply Keeps.ite)
    | split
    | (with_reducible apply foldl_keepsAll)
    | dsimp only
    | (with_reducible intro _ _ _)
    | (with_reducible intro _ _)
    | (with_reducible intro _)

theorem nackLocal_keeps {r : State} (a0) (a1) (a2) {s : State} (h : Keeps r s) :
    Keeps r (nackLocal a0 a1 a2 s) := by
  unfold nackLocal
  repeat' first
    | with_reducible assumption
    | (with_reducible first | apply tagNack_keeps | apply nackCore_keeps)
    | (with_reducible apply Keeps.ite)
    | split
    | (with_reducible apply foldl_keepsAll)
    | dsimp only
    | (with_reducible intro _ _ _)
    | (with_reducible intro _ _)
    | (with_reducible intro _)

theorem setDist_keeps {r : State} (a0) (a1) {s : State} (h : Keeps r s) :
    Keeps r (setDist a0 a1 s) := by
  unfold setDist
  repeat' first
    | with_reducible assumption
    | (with_reducible first | apply setB_keeps | apply set_keeps)
    | split

theorem enableMesh_keeps {r : State} (a0) {s : State} (h : Keeps r s) :
    Keeps r (enableMesh a0 s) := by
  unfold enableMesh
  repeat' first
    | with_reducible assumption
    | (with_reducible first | apply setB_keeps | apply upTo_keepsAll | apply setDist_keeps)
    | split

theorem execMeshEnable_keeps {r : State} (a0) {s : State} (h : Keeps r s) :
    OutKeeps r (execMeshEnable a0 s) := by
  unfold execMeshEnable
  repeat' first
    | with_reducible assumption
    | with_reducible apply OutKeeps.next
    | (with_reducible first | apply ifNet_keeps | apply enableMesh_keeps)
    | (with_reducible apply Keeps.ite)
    | split
    | (with_reducible apply foldl_keepsAll)
    | dsimp only
    | (with_reducible intro _ _ _)
    | (with_reducible intro _ _)
    | (with_reducible intro _)

theorem tripFrom_keeps {r : State} (d n c : Nat) (esc : Bool) {s : State} (h : Keeps r s) : Keeps r (tripFrom d n c esc s).2 := by
  induction n generalizing c esc s with
  | zero => exact h
  | succ n ih =>
    have hw : Keeps r (s |> bumpRtr c (F.RTR_FLIT_CNT c) |> when (esc || flag s (F.RTR_ROUTE_ESC c d)) (bumpRtr c (F.RTR_ESC_CNT c))) :=
      when_keepsAll _ (bumpRtr_keeps _ _ h) fun _ ht => bumpRtr_keeps _ _ ht
    unfold tripFrom
    dsimp only
    split
    · exact bumpRtr_keeps _ _ hw
    · exact hw
    · exact ih _ _ hw
    · exact bumpRtr_keeps _ _ h

theorem trip_keeps {r : State} (a0) (a1) {s : State} (h : Keeps r s) :
    Keeps r (trip a0 a1 s).2 := by
  unfold trip
  repeat' first
    | with_reducible assumption
    | (with_reducible first | apply tripFrom_keeps | apply when_keepsAll | apply bumpRtr_keeps)
    | (with_reducible apply Keeps.ite)
    | split
    | (with_reducible apply foldl_keepsAll)
    | dsimp only
    | (with_reducible intro _ _ _)
    | (with_reducible intro _ _)
    | (with_reducible intro _)

theorem seamCross_keeps {r : State} (a0) (a1) (a2) {s : State} (h : Keeps r s) :
    Keeps r (seamCross a0 a1 a2 s) := by
  unfold seamCross
  repeat' first
    | with_reducible assumption
    | split
    | dsimp only
    | (with_reducible first | apply bumpN_keeps | apply set_keeps)
    | (with_reducible refine Keeps.upd ?_ rfl; with_reducible first | assumption | apply bumpN_keeps | apply set_keeps | split)

theorem egressTake_keeps {r : State} (a0) (a1) (a2) {s : State} (h : Keeps r s) :
    Keeps r (egressTake a0 a1 a2 s) := by
  unfold egressTake
  repeat' first
    | with_reducible assumption
    | (with_reducible first | apply updPort_keeps | apply bump_keeps | apply askNack_keeps | apply nackLocal_keeps)
    | (with_reducible apply Keeps.ite)
    | split

theorem leftSource_keeps {r : State} (a0) (a1) {s : State} (h : Keeps r s) :
    Keeps r (leftSource a0 a1 s) := by
  unfold leftSource
  repeat' first
    | with_reducible assumption
    | with_reducible apply opDone_keeps
    | split

theorem noRoute_keeps {r : State} (a0) (a1) {s : State} (h : Keeps r s) :
    Keeps r (noRoute a0 a1 s) := by
  unfold noRoute
  repeat' first
    | with_reducible assumption
    | (with_reducible first | apply bumpRtr_keeps | apply askNack_keeps | apply place_keeps | apply freeBytes_keeps)
    | (with_reducible apply Keeps.ite)
    | split
    | (with_reducible apply foldl_keepsAll)
    | dsimp only
    | (with_reducible intro _ _ _)
    | (with_reducible intro _ _)
    | (with_reducible intro _)

theorem sendCopy_keeps {r : State} (a0) (a1) (a2) {s : State} (h : Keeps r s) :
    Keeps r (sendCopy a0 a1 a2 s) := by
  unfold sendCopy
  repeat' first
    | (with_reducible first | apply noRoute_keeps | apply when_keepsAll | apply bumpRtr_keeps | apply egressTake_keeps | apply seamCross_keeps)
    | dsimp only
    | (with_reducible refine Keeps.upd ?_ rfl; with_reducible first | assumption | apply noRoute_keeps | apply when_keepsAll | apply bumpRtr_keeps | apply egressTake_keeps | apply seamCross_keeps | split)

theorem flitFault_keeps {r : State} (a0) (a1) (a2) {s : State} (h : Keeps r s) :
    Keeps r (flitFault a0 a1 a2 s).2 := by
  unfold flitFault
  repeat' first
    | with_reducible assumption
    | (with_reducible first | apply bumpRtr_keeps | apply raise_keeps | apply pendSet_keeps | apply when_keepsAll | apply injApply_keeps)
    | split
    | dsimp only

theorem granted_keeps {r : State} (a0) (a1) {s : State} (h : Keeps r s) :
    Keeps r (granted a0 a1 s) := by
  unfold granted
  repeat' first
    | with_reducible assumption
    | (with_reducible first | apply each_keepsAll)
    | (with_reducible apply Keeps.ite)
    | split
    | (with_reducible apply foldl_keepsAll)
    | dsimp only
    | (with_reducible intro _ _ _)
    | (with_reducible intro _ _)
    | (with_reducible intro _)
    | (with_reducible refine Keeps.upd ?_ rfl; with_reducible first | assumption | apply each_keepsAll | split)

theorem execFlitForward_keeps {r : State} (a0) (a1) (a2) (a3) {s : State} (h : Keeps r s) :
    OutKeeps r (execFlitForward a0 a1 a2 a3 s) := by
  unfold execFlitForward
  repeat' first
    | with_reducible assumption
    | with_reducible apply OutKeeps.next
    | (with_reducible first | apply bump_keeps | apply flitFault_keeps | apply granted_keeps | apply leftSource_keeps | apply when_keepsAll | apply bumpN_keeps | apply each_keepsAll | apply sendCopy_keeps)
    | (with_reducible apply Keeps.ite)
    | split
    | (with_reducible apply foldl_keepsAll)
    | dsimp only
    | (with_reducible intro _ _ _)
    | (with_reducible intro _ _)
    | (with_reducible intro _)
    | (with_reducible refine Keeps.upd ?_ rfl; with_reducible first | assumption | apply bump_keeps | apply flitFault_keeps | apply granted_keeps | apply leftSource_keeps | apply when_keepsAll | apply bumpN_keeps | apply each_keepsAll | apply sendCopy_keeps | split)

end Sys2Proof.Machine
end

