-- ==== Sys2Proof/Laws/Keeps/Vec.lean ====
section
/-! SUPPORT. The effects of Machine/Vec.lean keep the queue, the fuses and soundness. -/
namespace Sys2Proof.Machine

theorem writeRows_keeps {r : State} (a0) (a1) (a2) {s : State} (h : Keeps r s) :
    Keeps r (writeRows a0 a1 a2 s) := by
  unfold writeRows
  repeat' first
    | with_reducible assumption
    | (with_reducible first | apply each_keepsAll | apply writeRow_keeps)
    | (with_reducible intro _)

theorem vec1_keeps {r : State} (a0) (a1) (a2) {s : State} (h : Keeps r s) :
    Keeps r (vec1 a0 a1 a2 s) := by
  unfold vec1
  repeat' first
    | with_reducible assumption
    | (with_reducible first | apply readRows_keeps | apply writeRows_keeps)

theorem vec2_keeps {r : State} (a0) (a1) (a2) {s : State} (h : Keeps r s) :
    Keeps r (vec2 a0 a1 a2 s) := by
  unfold vec2
  repeat' first
    | with_reducible assumption
    | (with_reducible first | apply readRows_keeps | apply writeRows_keeps)

theorem vecFma_keeps {r : State} (a0) (a1) {s : State} (h : Keeps r s) :
    Keeps r (vecFma a0 a1 s) := by
  unfold vecFma
  repeat' first
    | with_reducible assumption
    | (with_reducible first | apply readRows_keeps | apply writeRows_keeps)

theorem vecNorm_keeps {r : State} (a0) (a1) {s : State} (h : Keeps r s) :
    Keeps r (vecNorm a0 a1 s) := by
  unfold vecNorm
  repeat' first
    | with_reducible assumption
    | (with_reducible first | apply readRows_keeps | apply writeRows_keeps)

theorem vecSoftmax_keeps {r : State} (a0) (a1) {s : State} (h : Keeps r s) :
    Keeps r (vecSoftmax a0 a1 s) := by
  unfold vecSoftmax
  repeat' first
    | with_reducible assumption
    | (with_reducible first | apply readRows_keeps | apply writeRows_keeps)

theorem vecTopk_keeps {r : State} (a0) (a1) {s : State} (h : Keeps r s) :
    Keeps r (vecTopk a0 a1 s) := by
  unfold vecTopk
  repeat' first
    | with_reducible assumption
    | (with_reducible first | apply readRows_keeps | apply writeRow_keeps)

theorem vecSample_keeps {r : State} (a0) (a1) {s : State} (h : Keeps r s) :
    Keeps r (vecSample a0 a1 s) := by
  unfold vecSample
  repeat' first
    | with_reducible assumption
    | (with_reducible first | apply readRows_keeps | apply readRow_keeps | apply writeRow_keeps)
    | split

theorem vecOp_keeps {r : State} (a0) {a1} (a2) {s : State} (h : Keeps r s) (h1 : ∀ x0 x1 t, Keeps r t → Keeps r (a1 x0 x1 t)) :
    Keeps r (vecOp a0 a1 a2 s) := by
  unfold vecOp
  repeat' first
    | with_reducible assumption
    | (with_reducible first | apply h1 | apply issue_keeps | apply signal_keeps)
    | (with_reducible intro _)

theorem execAdd_keeps {r : State} (a0) {s : State} (h : Keeps r s) :
    OutKeeps r (execAdd a0 s) := by
  unfold execAdd
  repeat' first
    | with_reducible assumption
    | with_reducible apply OutKeeps.next
    | (with_reducible first | apply vecOp_keeps | apply vec2_keeps)

theorem execSub_keeps {r : State} (a0) {s : State} (h : Keeps r s) :
    OutKeeps r (execSub a0 s) := by
  unfold execSub
  repeat' first
    | with_reducible assumption
    | with_reducible apply OutKeeps.next
    | (with_reducible first | apply vecOp_keeps | apply vec2_keeps)

theorem execMul_keeps {r : State} (a0) {s : State} (h : Keeps r s) :
    OutKeeps r (execMul a0 s) := by
  unfold execMul
  repeat' first
    | with_reducible assumption
    | with_reducible apply OutKeeps.next
    | (with_reducible first | apply vecOp_keeps | apply vec2_keeps)

theorem execFma_keeps {r : State} (a0) {s : State} (h : Keeps r s) :
    OutKeeps r (execFma a0 s) := by
  unfold execFma
  repeat' first
    | with_reducible assumption
    | with_reducible apply OutKeeps.next
    | (with_reducible first | apply vecOp_keeps | apply vecFma_keeps)

theorem execScale_keeps {r : State} (a0) {s : State} (h : Keeps r s) :
    OutKeeps r (execScale a0 s) := by
  unfold execScale
  repeat' first
    | with_reducible assumption
    | with_reducible apply OutKeeps.next
    | (with_reducible first | apply vecOp_keeps | apply vec1_keeps)
    | (with_reducible intro _)

theorem execMaxOp_keeps {r : State} (a0) {s : State} (h : Keeps r s) :
    OutKeeps r (execMaxOp a0 s) := by
  unfold execMaxOp
  repeat' first
    | with_reducible assumption
    | with_reducible apply OutKeeps.next
    | (with_reducible first | apply vecOp_keeps | apply vec2_keeps)

theorem execAct_keeps {r : State} (a0) {s : State} (h : Keeps r s) :
    OutKeeps r (execAct a0 s) := by
  unfold execAct
  repeat' first
    | with_reducible assumption
    | with_reducible apply OutKeeps.next
    | (with_reducible first | apply vecOp_keeps | apply vec1_keeps)
    | (with_reducible intro _)

theorem execNorm_keeps {r : State} (a0) {s : State} (h : Keeps r s) :
    OutKeeps r (execNorm a0 s) := by
  unfold execNorm
  repeat' first
    | with_reducible assumption
    | with_reducible apply OutKeeps.next
    | (with_reducible first | apply vecOp_keeps | apply vecNorm_keeps)

theorem execSoftmax_keeps {r : State} (a0) {s : State} (h : Keeps r s) :
    OutKeeps r (execSoftmax a0 s) := by
  unfold execSoftmax
  repeat' first
    | with_reducible assumption
    | with_reducible apply OutKeeps.next
    | (with_reducible first | apply vecOp_keeps | apply vecSoftmax_keeps)

theorem execTopk_keeps {r : State} (a0) {s : State} (h : Keeps r s) :
    OutKeeps r (execTopk a0 s) := by
  unfold execTopk
  repeat' first
    | with_reducible assumption
    | with_reducible apply OutKeeps.next
    | (with_reducible first | apply vecOp_keeps | apply vecTopk_keeps)

theorem execSample_keeps {r : State} (a0) {s : State} (h : Keeps r s) :
    OutKeeps r (execSample a0 s) := by
  unfold execSample
  repeat' first
    | with_reducible assumption
    | with_reducible apply OutKeeps.next
    | (with_reducible first | apply vecOp_keeps | apply vecSample_keeps)

end Sys2Proof.Machine
end

