-- ==== Sys2Proof/Laws/Keeps/Leaven.lean ====
section
/-! SUPPORT. The effects of Machine/Leaven.lean keep the queue, the fuses and soundness. -/
namespace Sys2Proof.Machine

theorem layerFlag_keeps {r : State} (a0) (a1) (a2) {s : State} (h : Keeps r s) :
    Keeps r (layerFlag a0 a1 a2 s) := by
  unfold layerFlag
  repeat' first
    | with_reducible assumption
    | (with_reducible first | apply updCore_keeps | apply hwSet_keeps)
    | (with_reducible apply Keeps.ite)
    | split
    | (with_reducible apply foldl_keepsAll)
    | dsimp only
    | (with_reducible intro _ _ _)
    | (with_reducible intro _ _)
    | (with_reducible intro _)

theorem inputRow_keeps {r : State} (a0) (a1) {s : State} (h : Keeps r s) :
    Keeps r (inputRow a0 a1 s).2 := by
  unfold inputRow
  repeat' first
    | with_reducible assumption
    | with_reducible apply freeBytes_keeps
    | split

theorem quantCounts_keeps {r : State} (a0) (a1) (a2) (a3) {s : State} (h : Keeps r s) :
    Keeps r (quantCounts a0 a1 a2 a3 s) := by
  unfold quantCounts
  repeat' first
    | with_reducible assumption
    | (with_reducible first | apply when_keepsAll | apply layerFlag_keeps | apply bumpN_keeps)

theorem keepSigma_keeps {r : State} (a0) (a1) (a2) {s : State} (h : Keeps r s) :
    Keeps r (keepSigma a0 a1 a2 s) := by
  unfold keepSigma
  repeat' first
    | with_reducible assumption
    | with_reducible apply set_keeps

theorem writeInputs_keeps {r : State} (a0) (a1) (a2) (a3) (a4) {s : State} (h : Keeps r s) :
    Keeps r (writeInputs a0 a1 a2 a3 a4 s) := by
  unfold writeInputs
  repeat' first
    | with_reducible assumption
    | (with_reducible first | apply each_keepsAll | apply inputRow_keeps | apply writeRow_keeps)
    | (with_reducible intro _)

theorem writeDescs_keeps {r : State} (a0) (a1) (a2) (a3) {s : State} (h : Keeps r s) :
    Keeps r (writeDescs a0 a1 a2 a3 s) := by
  unfold writeDescs
  repeat' first
    | with_reducible assumption
    | (with_reducible first | apply upTo_keepsAll | apply freeBytes_keeps | apply writeRow_keeps)
    | (with_reducible intro _)

theorem quant_keeps {r : State} (a0) (a1) {s : State} (h : Keeps r s) :
    Keeps r (quant a0 a1 s) := by
  unfold quant
  repeat' first
    | with_reducible assumption
    | (with_reducible first | apply readRows_keeps | apply signal_keeps | apply when_keepsAll | apply each_keepsAll | apply writeRow_keeps | apply writeDescs_keeps | apply writeInputs_keeps | apply keepSigma_keeps | apply quantCounts_keeps)
    | (with_reducible intro _)

theorem execQuant_keeps {r : State} (a0) {s : State} (h : Keeps r s) :
    OutKeeps r (execQuant a0 s) := by
  unfold execQuant
  repeat' first
    | with_reducible assumption
    | with_reducible apply OutKeeps.next
    | (with_reducible first | apply issue_keeps | apply quant_keeps)

theorem execFmaxClear_keeps {r : State} (a0) (a1) {s : State} (h : Keeps r s) :
    OutKeeps r (execFmaxClear a0 a1 s) := by
  unfold execFmaxClear
  repeat' first
    | with_reducible assumption
    | with_reducible apply OutKeeps.next
    | (with_reducible first | apply set_keeps | apply bump_keeps)
    | split

end Sys2Proof.Machine
end

