-- ==== Sys2Proof/Laws/Keeps/Acc.lean ====
section
/-! SUPPORT. The effects of Machine/Acc.lean keep the queue, the fuses and soundness. -/
namespace Sys2Proof.Machine

theorem putSet_keeps {r : State} (a0) (a1) (a2) {s : State} (h : Keeps r s) :
    Keeps r (putSet a0 a1 a2 s) := by
  unfold putSet
  repeat' first
    | with_reducible assumption
    | with_reducible apply updCore_keeps

theorem promote_keeps {r : State} (a0) (a1) {s : State} (h : Keeps r s) :
    Keeps r (promote a0 a1 s) := by
  unfold promote
  repeat' first
    | with_reducible assumption
    | (with_reducible first | apply putSet_keeps | apply layerFlag_keeps)
    | split
    | dsimp only

theorem accumulate_keeps {r : State} (a0) (a1) (a2) {s : State} (h : Keeps r s) :
    Keeps r (accumulate a0 a1 a2 s) := by
  unfold accumulate
  repeat' first
    | with_reducible assumption
    | (with_reducible first | apply bump_keeps | apply promote_keeps | apply drawFree_keeps | apply putSet_keeps)
    | split

theorem emitOne_keeps {r : State} (a0) (a1) (a2) {s : State} (h : Keeps r s) :
    Keeps r (emitOne a0 a1 a2 s) := by
  unfold emitOne
  repeat' first
    | with_reducible assumption
    | (with_reducible first | apply promote_keeps | apply readRow_keeps | apply putSet_keeps | apply writeRow_keeps)
    | split

theorem accRun_keeps {r : State} (a0) (a1) {s : State} (h : Keeps r s) :
    Keeps r (accRun a0 a1 s) := by
  unfold accRun
  repeat' first
    | with_reducible assumption
    | (with_reducible first | apply upTo_keepsAll | apply promote_keeps | apply emitOne_keeps | apply putSet_keeps)
    | (with_reducible apply Keeps.ite)
    | split
    | (with_reducible apply foldl_keepsAll)
    | dsimp only
    | (with_reducible intro _ _ _)
    | (with_reducible intro _ _)
    | (with_reducible intro _)

theorem accDrain_keeps {r : State} (c n : Nat) {s : State} (h : Keeps r s) : Keeps r (accDrain c n s) := by
  induction n generalizing s with
  | zero => exact h
  | succ n ih =>
    unfold accDrain
    split
    · exact ih (opDone_keeps _ _ (accRun_keeps _ _ h))
    · exact h

theorem accIssue_keeps {r : State} (a0) (a1) {s : State} (h : Keeps r s) :
    Keeps r (accIssue a0 a1 s) := by
  unfold accIssue
  repeat' first
    | with_reducible assumption
    | (with_reducible first | apply addOp_keeps | apply accDrain_keeps)
    | (with_reducible apply Keeps.ite)
    | split
    | (with_reducible apply foldl_keepsAll)
    | dsimp only
    | (with_reducible intro _ _ _)
    | (with_reducible intro _ _)
    | (with_reducible intro _)

theorem execPromote_keeps {r : State} (a0) {s : State} (h : Keeps r s) :
    OutKeeps r (execPromote a0 s) := by
  unfold execPromote
  repeat' first
    | with_reducible assumption
    | with_reducible apply OutKeeps.next
    | (with_reducible first | apply issue_keeps | apply accIssue_keeps)
    | (with_reducible apply Keeps.ite)
    | split
    | (with_reducible apply foldl_keepsAll)
    | dsimp only
    | (with_reducible intro _ _ _)
    | (with_reducible intro _ _)
    | (with_reducible intro _)

theorem execEmit_keeps {r : State} (a0) {s : State} (h : Keeps r s) :
    OutKeeps r (execEmit a0 s) := by
  unfold execEmit
  repeat' first
    | with_reducible assumption
    | with_reducible apply OutKeeps.next
    | (with_reducible first | apply issue_keeps | apply accIssue_keeps)
    | (with_reducible apply Keeps.ite)
    | split
    | (with_reducible apply foldl_keepsAll)
    | dsimp only
    | (with_reducible intro _ _ _)
    | (with_reducible intro _ _)
    | (with_reducible intro _)

theorem execAccClear_keeps {r : State} (a0) {s : State} (h : Keeps r s) :
    OutKeeps r (execAccClear a0 s) := by
  unfold execAccClear
  repeat' first
    | with_reducible assumption
    | with_reducible apply OutKeeps.next
    | (with_reducible first | apply issue_keeps | apply accIssue_keeps)
    | (with_reducible apply Keeps.ite)
    | split
    | (with_reducible apply foldl_keepsAll)
    | dsimp only
    | (with_reducible intro _ _ _)
    | (with_reducible intro _ _)
    | (with_reducible intro _)

end Sys2Proof.Machine
end

