-- ==== Sys2Proof/Laws/Keeps/Array.lean ====
section
/-! SUPPORT. The effects of Machine/Array.lean keep the queue, the fuses and soundness. -/
namespace Sys2Proof.Machine

theorem setArr_keeps {r : State} (a0) (a1) (a2) {s : State} (h : Keeps r s) :
    Keeps r (setArr a0 a1 a2 s) := by
  unfold setArr
  repeat' first
    | with_reducible assumption
    | with_reducible apply set_keeps

theorem fire_keeps {r : State} (a0) (a1) {s : State} (h : Keeps r s) :
    Keeps r (fire a0 a1 s) := by
  unfold fire
  repeat' first
    | with_reducible assumption
    | (with_reducible first | apply addOp_keeps | apply updCore_keeps)

theorem execFire_keeps {r : State} (a0) {s : State} (h : Keeps r s) :
    OutKeeps r (execFire a0 s) := by
  unfold execFire
  repeat' first
    | with_reducible assumption
    | with_reducible apply OutKeeps.next
    | (with_reducible first | apply issue_keeps | apply fire_keeps)

theorem loadRows_keeps {r : State} (a0) (a1) {s : State} (h : Keeps r s) :
    Keeps r (loadRows a0 a1 s) := by
  unfold loadRows
  repeat' first
    | with_reducible assumption
    | (with_reducible first | apply readRow_keeps | apply updCore_keeps)

theorem execInputLoad_keeps {r : State} (a0) (a1) {s : State} (h : Keeps r s) :
    OutKeeps r (execInputLoad a0 a1 s) := by
  unfold execInputLoad
  repeat' first
    | with_reducible assumption
    | with_reducible apply OutKeeps.next
    | (with_reducible first | apply loadRows_keeps | apply updCore_keeps)
    | split
    | dsimp only

theorem skipIfDrawn_keeps {r : State} (a0) (a1) {s : State} (h : Keeps r s) :
    Keeps r (skipIfDrawn a0 a1 s) := by
  unfold skipIfDrawn
  repeat' first
    | with_reducible assumption
    | with_reducible apply skipDraw_keeps
    | split

theorem startFiring_keeps {r : State} (a0) (a1) {s : State} (h : Keeps r s) :
    Keeps r (startFiring a0 a1 s).2 := by
  unfold startFiring
  repeat' first
    | with_reducible assumption
    | (with_reducible first | apply each_keepsAll | apply hwSet_keeps | apply raise_keeps | apply skipIfDrawn_keeps | apply bump_keeps)
    | (with_reducible apply Keeps.ite)
    | split
    | (with_reducible apply foldl_keepsAll)
    | dsimp only
    | (with_reducible intro _ _ _)
    | (with_reducible intro _ _)
    | (with_reducible intro _)

theorem countFiring_keeps {r : State} (a0) (a1) {s : State} (h : Keeps r s) :
    Keeps r (countFiring a0 a1 s) := by
  unfold countFiring
  repeat' first
    | with_reducible assumption
    | (with_reducible first | apply when_keepsAll | apply bump_keeps)
    | (with_reducible apply Keeps.ite)
    | split
    | (with_reducible apply foldl_keepsAll)
    | dsimp only
    | (with_reducible intro _ _ _)
    | (with_reducible intro _ _)
    | (with_reducible intro _)

theorem latchDue_keeps {r : State} (a0) {s : State} (h : Keeps r s) :
    Keeps r (latchDue a0 s) := by
  unfold latchDue
  repeat' first
    | with_reducible assumption
    | (with_reducible first | apply updCore_keeps | apply each_keepsAll | apply countFiring_keeps)
    | (with_reducible apply Keeps.ite)
    | split
    | (with_reducible apply foldl_keepsAll)
    | dsimp only
    | (with_reducible intro _ _ _)
    | (with_reducible intro _ _)
    | (with_reducible intro _)

theorem interruptReadback_keeps {r : State} (a0) (a1) {s : State} (h : Keeps r s) :
    Keeps r (interruptReadback a0 a1 s) := by
  unfold interruptReadback
  repeat' first
    | with_reducible assumption
    | (with_reducible first | apply updCore_keeps)
    | (with_reducible apply Keeps.ite)
    | split
    | (with_reducible apply foldl_keepsAll)
    | dsimp only
    | (with_reducible intro _ _ _)
    | (with_reducible intro _ _)
    | (with_reducible intro _)

theorem execFiringStart_keeps {r : State} (a0) (a1) {s : State} (h : Keeps r s) :
    OutKeeps r (execFiringStart a0 a1 s) := by
  unfold execFiringStart
  repeat' first
    | with_reducible assumption
    | with_reducible apply OutKeeps.next
    | (with_reducible first | apply startFiring_keeps | apply interruptReadback_keeps | apply updCore_keeps)
    | (with_reducible apply Keeps.ite)
    | split
    | (with_reducible apply foldl_keepsAll)
    | dsimp only
    | (with_reducible intro _ _ _)
    | (with_reducible intro _ _)
    | (with_reducible intro _)

theorem refSample_keeps {r : State} (a0) (a1) (a2) {s : State} (h : Keeps r s) :
    Keeps r (refSample a0 a1 a2 s) := by
  unfold refSample
  repeat' first
    | with_reducible assumption
    | (with_reducible first | apply bump_keeps | apply updCore_keeps)
    | split

theorem handArray_keeps {r : State} (a0) (a1) (a2) (a3) {s : State} (h : Keeps r s) :
    Keeps r (handArray a0 a1 a2 a3 s).2 := by
  unfold handArray
  repeat' first
    | with_reducible assumption
    | (with_reducible first | apply when_keepsAll | apply injApply_keeps | apply hwSet_keeps | apply layerFlag_keeps | apply bump_keeps | apply set_keeps | apply each_keepsAll | apply refSample_keeps | apply raise_keeps | apply setB_keeps)
    | (with_reducible apply Keeps.ite)
    | split
    | (with_reducible apply foldl_keepsAll)
    | dsimp only
    | (with_reducible intro _ _ _)
    | (with_reducible intro _ _)
    | (with_reducible intro _)
    | (with_reducible refine Keeps.upd ?_ rfl; with_reducible first | assumption | apply when_keepsAll | apply injApply_keeps | apply hwSet_keeps | apply layerFlag_keeps | apply bump_keeps | apply set_keeps | apply each_keepsAll | apply refSample_keeps | apply raise_keeps | apply setB_keeps | split)

theorem capture_keeps {r : State} (a0) (a1) (a2) (a3) (a4) {s : State} (h : Keeps r s) :
    Keeps r (capture a0 a1 a2 a3 a4 s) := by
  unfold capture
  repeat' first
    | with_reducible assumption
    | (with_reducible first | apply updCore_keeps | apply bump_keeps)
    | (with_reducible apply Keeps.ite)
    | split

theorem deliver_keeps {r : State} (a0) (a1) (a2) (a3) {s : State} (h : Keeps r s) :
    Keeps r (deliver a0 a1 a2 a3 s) := by
  unfold deliver
  repeat' first
    | with_reducible assumption
    | with_reducible apply accumulate_keeps
    | split

theorem deliverWaiting_keeps {r : State} (c n : Nat) {s : State} (h : Keeps r s) : Keeps r (deliverWaiting c n s) := by
  induction n generalizing s with
  | zero => exact h
  | succ n ih =>
    unfold deliverWaiting
    split
    · exact h
    · dsimp only
      split
      · exact ih (opDone_keeps _ _ (deliver_keeps _ _ _ _ (updCore_keeps _ _ h)))
      · exact ih (updCore_keeps _ _ h)

theorem execFiringHandoff_keeps {r : State} (a0) (a1) {s : State} (h : Keeps r s) :
    OutKeeps r (execFiringHandoff a0 a1 s) := by
  unfold execFiringHandoff
  repeat' first
    | with_reducible assumption
    | with_reducible apply OutKeeps.next
    | (with_reducible first | apply latchDue_keeps | apply moveTo_keeps | apply handArray_keeps | apply updCore_keeps | apply capture_keeps | apply deliverWaiting_keeps | apply accDrain_keeps)
    | (with_reducible apply Keeps.ite)
    | split
    | (with_reducible apply foldl_keepsAll)
    | dsimp only
    | (with_reducible intro _ _ _)
    | (with_reducible intro _ _)
    | (with_reducible intro _)

theorem execFiringRelease_keeps {r : State} (a0) (a1) {s : State} (h : Keeps r s) :
    OutKeeps r (execFiringRelease a0 a1 s) := by
  unfold execFiringRelease
  repeat' first
    | with_reducible assumption
    | with_reducible apply OutKeeps.next
    | (with_reducible first | apply updCore_keeps | apply moveTo_keeps)
    | split
    | dsimp only

theorem arrCmd_keeps {r : State} (a0) (a1) (a2) {s : State} (h : Keeps r s) :
    Keeps r (arrCmd a0 a1 a2 s) := by
  unfold arrCmd
  repeat' first
    | with_reducible assumption
    | (with_reducible first | apply when_keepsAll | apply setArr_keeps | apply setB_keeps)
    | split

theorem shadowWrite_keeps {r : State} (a0) (a1) (a2) {s : State} (h : Keeps r s) :
    Keeps r (shadowWrite a0 a1 a2 s) := by
  unfold shadowWrite
  repeat' first
    | with_reducible apply set_keeps
    | (with_reducible refine Keeps.upd ?_ rfl; with_reducible first | assumption | apply set_keeps | split)

theorem shadowHw_keeps {r : State} (a0) (a1) {s : State} (h : Keeps r s) :
    Keeps r (shadowHw a0 a1 s) := by
  unfold shadowHw
  repeat' first
    | with_reducible apply set_keeps
    | (with_reducible refine Keeps.upd ?_ rfl; with_reducible first | assumption | apply set_keeps | split)

theorem shadowAt_keeps {r : State} (a0) (a1) (a2) {s : State} (h : Keeps r s) :
    Keeps r (shadowAt a0 a1 a2 s) := by
  unfold shadowAt
  split
  · exact h
  · refine Keeps.upd ?_ rfl
    with_reducible apply set_keeps
    exact h

theorem arrCtl_keeps {r : State} (a0) (a1) (a2) (a3) (a4) {s : State} (h : Keeps r s) :
    Keeps r (arrCtl a0 a1 a2 a3 a4 s) := by
  unfold arrCtl
  repeat' first
    | with_reducible assumption
    | (with_reducible first | apply bump_keeps | apply shadowWrite_keeps | apply updCore_keeps | apply arrCmd_keeps)
    | (with_reducible apply Keeps.ite)

theorem execVerified_keeps {r : State} (a0) (a1) (a2) (a3) {s : State} (h : Keeps r s) :
    OutKeeps r (execVerified a0 a1 a2 a3 s) := by
  unfold execVerified
  repeat' first
    | with_reducible assumption
    | with_reducible apply OutKeeps.next
    | with_reducible apply arrCtl_keeps

theorem execRetire_keeps {r : State} (a0) (a1) (a2) (a3) {s : State} (h : Keeps r s) :
    OutKeeps r (execRetire a0 a1 a2 a3 s) := by
  unfold execRetire
  repeat' first
    | with_reducible assumption
    | with_reducible apply OutKeeps.next
    | (with_reducible first | apply when_keepsAll | apply updFw_keeps | apply arrCtl_keeps)
    | (with_reducible apply Keeps.ite)
    | split
    | (with_reducible apply foldl_keepsAll)
    | dsimp only
    | (with_reducible intro _ _ _)
    | (with_reducible intro _ _)
    | (with_reducible intro _)

theorem execArrEmpty_keeps {r : State} (a0) (a1) (a2) (a3) {s : State} (h : Keeps r s) :
    OutKeeps r (execArrEmpty a0 a1 a2 a3 s) := by
  unfold execArrEmpty
  repeat' first
    | with_reducible assumption
    | with_reducible apply OutKeeps.next
    | with_reducible apply arrCtl_keeps

theorem execClearSuspect_keeps {r : State} (a0) (a1) (a2) (a3) {s : State} (h : Keeps r s) :
    OutKeeps r (execClearSuspect a0 a1 a2 a3 s) := by
  unfold execClearSuspect
  repeat' first
    | with_reducible assumption
    | with_reducible apply OutKeeps.next
    | with_reducible apply arrCtl_keeps

theorem execArrTrimWrite_keeps {r : State} (a0) (a1) (a2) (a3) (a4) {s : State} (h : Keeps r s) :
    OutKeeps r (execArrTrimWrite a0 a1 a2 a3 a4 s) := by
  unfold execArrTrimWrite
  repeat' first
    | with_reducible assumption
    | with_reducible apply OutKeeps.next
    | (with_reducible first | apply bump_keeps | apply upTo_keepsAll | apply shadowWrite_keeps)
    | split
    | (with_reducible intro _)

end Sys2Proof.Machine
end

