-- ==== Sys2Proof/Laws/Keeps/Move.lean ====
section
/-! SUPPORT. The effects of Machine/Move.lean keep the queue, the fuses and soundness. -/
namespace Sys2Proof.Machine

theorem moveCopy_keeps {r : State} (a0) (a1) {s : State} (h : Keeps r s) :
    Keeps r (moveCopy a0 a1 s) := by
  unfold moveCopy
  repeat' first
    | with_reducible assumption
    | (with_reducible first | apply readMode_keeps | apply signal_keeps | apply writeRows_keeps)

theorem execCopy_keeps {r : State} (a0) {s : State} (h : Keeps r s) :
    OutKeeps r (execCopy a0 s) := by
  unfold execCopy
  repeat' first
    | with_reducible assumption
    | with_reducible apply OutKeeps.next
    | (with_reducible first | apply issue_keeps | apply inOrder_keeps | apply moveCopy_keeps)
    | (with_reducible apply Keeps.ite)
    | split
    | (with_reducible apply foldl_keepsAll)
    | dsimp only
    | (with_reducible intro _ _ _)
    | (with_reducible intro _ _)
    | (with_reducible intro _)

theorem sendOne_keeps {r : State} (a0) (a1) (a2) (a3) (a4) (a5) {s : State} (h : Keeps r s) :
    Keeps r (sendOne a0 a1 a2 a3 a4 a5 s) := by
  unfold sendOne
  repeat' first
    | with_reducible assumption
    | (with_reducible first | apply inject_keeps | apply opDone_keeps | apply bump_keeps)
    | split

theorem moveSend_keeps {r : State} (a0) (a1) {s : State} (h : Keeps r s) :
    Keeps r (moveSend a0 a1 s) := by
  unfold moveSend
  repeat' first
    | with_reducible assumption
    | (with_reducible first | apply readMode_keeps | apply addOp_keeps | apply bump_keeps | apply each_keepsAll | apply sendOne_keeps)
    | split

theorem execSend_keeps {r : State} (a0) {s : State} (h : Keeps r s) :
    OutKeeps r (execSend a0 s) := by
  unfold execSend
  repeat' first
    | with_reducible assumption
    | with_reducible apply OutKeeps.next
    | (with_reducible first | apply issue_keeps | apply inOrder_keeps | apply moveSend_keeps)
    | (with_reducible apply Keeps.ite)
    | split
    | (with_reducible apply foldl_keepsAll)
    | dsimp only
    | (with_reducible intro _ _ _)
    | (with_reducible intro _ _)
    | (with_reducible intro _)

theorem loadLine_keeps {r : State} (a0) (a1) (a2) (a3) (a4) {s : State} (h : Keeps r s) :
    Keeps r (loadLine a0 a1 a2 a3 a4 s) := by
  unfold loadLine
  repeat' first
    | with_reducible assumption
    | (with_reducible first | apply askRead_keeps | apply freeBytes_keeps | apply bump_keeps | apply regionRej_keeps | apply opDone_keeps | apply writeRow_keeps)
    | (with_reducible apply Keeps.ite)
    | split
    | (with_reducible apply foldl_keepsAll)
    | dsimp only
    | (with_reducible intro _ _ _)
    | (with_reducible intro _ _)
    | (with_reducible intro _)

theorem moveLoad_keeps {r : State} (a0) (a1) {s : State} (h : Keeps r s) :
    Keeps r (moveLoad a0 a1 s) := by
  unfold moveLoad
  repeat' first
    | with_reducible assumption
    | (with_reducible first | apply addOp_keeps | apply upTo_keepsAll | apply loadLine_keeps)
    | (with_reducible intro _)

theorem execLoad_keeps {r : State} (a0) {s : State} (h : Keeps r s) :
    OutKeeps r (execLoad a0 s) := by
  unfold execLoad
  repeat' first
    | with_reducible assumption
    | with_reducible apply OutKeeps.next
    | (with_reducible first | apply issue_keeps | apply inOrder_keeps | apply moveLoad_keeps)
    | (with_reducible apply Keeps.ite)
    | split
    | (with_reducible apply foldl_keepsAll)
    | dsimp only
    | (with_reducible intro _ _ _)
    | (with_reducible intro _ _)
    | (with_reducible intro _)

theorem storeLine_keeps {r : State} (a0) (a1) (a2) (a3) (a4) (a5) {s : State} (h : Keeps r s) :
    Keeps r (storeLine a0 a1 a2 a3 a4 a5 s) := by
  unfold storeLine
  repeat' first
    | with_reducible assumption
    | (with_reducible first | apply inject_keeps | apply opDone_keeps | apply bump_keeps | apply regionRej_keeps)
    | split

theorem moveStore_keeps {r : State} (a0) (a1) {s : State} (h : Keeps r s) :
    Keeps r (moveStore a0 a1 s) := by
  unfold moveStore
  repeat' first
    | with_reducible assumption
    | (with_reducible first | apply readMode_keeps | apply signal_keeps | apply bump_keeps | apply addOp_keeps | apply each_keepsAll | apply storeLine_keeps)
    | (with_reducible apply Keeps.ite)
    | (with_reducible intro _)

theorem execStore_keeps {r : State} (a0) {s : State} (h : Keeps r s) :
    OutKeeps r (execStore a0 s) := by
  unfold execStore
  repeat' first
    | with_reducible assumption
    | with_reducible apply OutKeeps.next
    | (with_reducible first | apply issue_keeps | apply inOrder_keeps | apply moveStore_keeps)
    | (with_reducible apply Keeps.ite)
    | split
    | (with_reducible apply foldl_keepsAll)
    | dsimp only
    | (with_reducible intro _ _ _)
    | (with_reducible intro _ _)
    | (with_reducible intro _)

theorem moveGather_keeps {r : State} (a0) (a1) {s : State} (h : Keeps r s) :
    Keeps r (moveGather a0 a1 s) := by
  unfold moveGather
  repeat' first
    | with_reducible assumption
    | (with_reducible first | apply readRow_keeps | apply addOp_keeps | apply upTo_keepsAll | apply freeBytes_keeps | apply opDone_keeps | apply writeRow_keeps | apply loadLine_keeps)
    | (with_reducible apply Keeps.ite)
    | (with_reducible intro _)

theorem execGather_keeps {r : State} (a0) {s : State} (h : Keeps r s) :
    OutKeeps r (execGather a0 s) := by
  unfold execGather
  repeat' first
    | with_reducible assumption
    | with_reducible apply OutKeeps.next
    | (with_reducible first | apply issue_keeps | apply inOrder_keeps | apply moveGather_keeps)
    | (with_reducible apply Keeps.ite)
    | split
    | (with_reducible apply foldl_keepsAll)
    | dsimp only
    | (with_reducible intro _ _ _)
    | (with_reducible intro _ _)
    | (with_reducible intro _)

theorem runMove_keeps {r : State} (a0) (a1) {s : State} (h : Keeps r s) :
    Keeps r (runMove a0 a1 s) := by
  unfold runMove
  repeat' first
    | with_reducible assumption
    | (with_reducible first | apply moveCopy_keeps | apply moveSend_keeps | apply moveLoad_keeps | apply moveStore_keeps | apply moveGather_keeps)
    | (with_reducible apply Keeps.ite)
    | split
    | (with_reducible apply foldl_keepsAll)
    | dsimp only
    | (with_reducible intro _ _ _)
    | (with_reducible intro _ _)
    | (with_reducible intro _)

theorem refuseLanding_keeps {r : State} (a0) (a1) (a2) (a3) (a4) (a5) {s : State} (h : Keeps r s) :
    Keeps r (refuseLanding a0 a1 a2 a3 a4 a5 s) := by
  unfold refuseLanding
  repeat' first
    | with_reducible assumption
    | (with_reducible first | apply bump_keeps | apply askNack_keeps | apply nackCore_keeps)
    | split

theorem land_keeps {r : State} (a0) (a1) (a2) {s : State} (h : Keeps r s) :
    Keeps r (land a0 a1 a2 s) := by
  unfold land
  repeat' first
    | with_reducible assumption
    | (with_reducible first | apply updCore_keeps | apply putRow_keeps | apply when_keepsAll | apply bump_keeps | apply set_keeps | apply markRow_keeps)

theorem judgeLanding_keeps {r : State} (a0) (a1) (a2) {s : State} (h : Keeps r s) :
    Keeps r (judgeLanding a0 a1 a2 s) := by
  unfold judgeLanding
  repeat' first
    | with_reducible assumption
    | (with_reducible first | apply refuseLanding_keeps | apply land_keeps | apply when_keepsAll | apply bump_keeps)
    | split

theorem execWindowWriteLanding_keeps {r : State} (a0) {s : State} (h : Keeps r s) :
    OutKeeps r (execWindowWriteLanding a0 s) := by
  unfold execWindowWriteLanding
  repeat' first
    | with_reducible apply OutKeeps.next
    | with_reducible apply judgeLanding_keeps
    | split
    | dsimp only
    | (with_reducible refine Keeps.upd ?_ rfl; with_reducible first | assumption | apply judgeLanding_keeps | split)

theorem execNackReceived_keeps {r : State} (a0) {s : State} (h : Keeps r s) :
    OutKeeps r (execNackReceived a0 s) := by
  unfold execNackReceived
  repeat' first
    | with_reducible apply OutKeeps.next
    | with_reducible apply bump_keeps
    | split
    | dsimp only
    | (with_reducible refine Keeps.upd ?_ rfl; with_reducible first | assumption | apply bump_keeps | split)

end Sys2Proof.Machine
end

