-- ==== Sys2Proof/Laws/Keeps/Cal.lean ====
section
/-! SUPPORT. The effects of Machine/Cal.lean keep the queue, the fuses and soundness. -/
namespace Sys2Proof.Machine

theorem passArray_keeps {r : State} (a0) (a1) (a2) (a3) {s : State} (h : Keeps r s) :
    Keeps r (passArray a0 a1 a2 a3 s) := by
  unfold passArray
  repeat' first
    | with_reducible assumption
    | (with_reducible first | apply raise_keeps | apply bump_keeps | apply each_keepsAll | apply shadowAt_keeps | apply hwSet_keeps)
    | (with_reducible apply Keeps.ite)
    | split
    | (with_reducible apply foldl_keepsAll)
    | dsimp only
    | (with_reducible intro _ _ _)
    | (with_reducible intro _ _)
    | (with_reducible intro _)

theorem startPass_keeps {r : State} (a0) {s : State} (h : Keeps r s) :
    Keeps r (startPass a0 s) := by
  unfold startPass
  repeat' first
    | with_reducible assumption
    | (with_reducible first | apply setB_keeps | apply updCore_keeps)

theorem passTo_keeps {r : State} (a0) (a1) {s : State} (h : Keeps r s) :
    Keeps r (passTo a0 a1 s) := by
  unfold passTo
  repeat' first
    | with_reducible assumption
    | (with_reducible first | apply updCore_keeps | apply each_keepsAll | apply passArray_keeps)
    | split
    | (with_reducible intro _)

theorem catchUp_keeps {r : State} (a0) {s : State} (h : Keeps r s) :
    Keeps r (catchUp a0 s) := by
  unfold catchUp
  repeat' first
    | with_reducible assumption
    | (with_reducible first | apply passTo_keeps)
    | (with_reducible apply Keeps.ite)
    | split
    | (with_reducible apply foldl_keepsAll)
    | dsimp only
    | (with_reducible intro _ _ _)
    | (with_reducible intro _ _)
    | (with_reducible intro _)

theorem trigger_keeps {r : State} (a0) {s : State} (h : Keeps r s) :
    Keeps r (trigger a0 s) := by
  unfold trigger
  repeat' first
    | with_reducible assumption
    | (with_reducible first | apply updCore_keeps | apply startPass_keeps)
    | split

theorem execCalPassStart_keeps {r : State} (a0) {s : State} (h : Keeps r s) :
    OutKeeps r (execCalPassStart a0 s) := by
  unfold execCalPassStart
  repeat' first
    | with_reducible assumption
    | with_reducible apply OutKeeps.next
    | with_reducible apply startPass_keeps
    | split

theorem execCalPassEnd_keeps {r : State} (a0) {s : State} (h : Keeps r s) :
    OutKeeps r (execCalPassEnd a0 s) := by
  unfold execCalPassEnd
  repeat' first
    | with_reducible assumption
    | with_reducible apply OutKeeps.next
    | (with_reducible first | apply passTo_keeps | apply moveTo_keeps | apply updCore_keeps | apply setB_keeps | apply bump_keeps | apply set_keeps)
    | split

theorem calResult_keeps {r : State} (a0) (a1) {s : State} (h : Keeps r s) :
    Keeps r (calResult a0 a1 s) := by
  unfold calResult
  repeat' first
    | with_reducible assumption
    | with_reducible apply set_keeps

theorem calLocked_keeps {r : State} (a0) {s : State} (h : Keeps r s) :
    Keeps r (calLocked a0 s) := by
  unfold calLocked
  repeat' first
    | with_reducible assumption
    | (with_reducible first | apply raise_keeps | apply bump_keeps)

theorem ifUp_keeps {r : State} (a0) {a1} {s : State} (h : Keeps r s) (h1 : ∀ t, Keeps r t → Keeps r (a1 t)) :
    Keeps r (ifUp a0 a1 s) := by
  unfold ifUp
  repeat' first
    | with_reducible assumption
    | (with_reducible first | apply h1 | apply bump_keeps)
    | split

theorem calAccept_keeps {r : State} (a0) (a1) {s : State} (h : Keeps r s) :
    Keeps r (calAccept a0 a1 s) := by
  unfold calAccept
  repeat' first
    | with_reducible assumption
    | (with_reducible first | apply setB_keeps | apply updCore_keeps)

theorem calFull_keeps {r : State} (a0) (a1) (a2) {s : State} (h : Keeps r s) :
    Keeps r (calFull a0 a1 a2 s) := by
  unfold calFull
  repeat' first
    | with_reducible assumption
    | (with_reducible first | apply calLocked_keeps | apply calResult_keeps | apply calAccept_keeps)
    | split

theorem execCalFull_keeps {r : State} (a0) (a1) (a2) {s : State} (h : Keeps r s) :
    OutKeeps r (execCalFull a0 a1 a2 s) := by
  unfold execCalFull
  repeat' first
    | with_reducible assumption
    | with_reducible apply OutKeeps.next
    | (with_reducible first | apply ifUp_keeps | apply calFull_keeps)

theorem calArray_keeps {r : State} (a0) (a1) (a2) (a3) {s : State} (h : Keeps r s) :
    Keeps r (calArray a0 a1 a2 a3 s) := by
  unfold calArray
  repeat' first
    | with_reducible assumption
    | (with_reducible first | apply calResult_keeps | apply calAccept_keeps)
    | split

theorem execCalArray_keeps {r : State} (a0) (a1) (a2) (a3) {s : State} (h : Keeps r s) :
    OutKeeps r (execCalArray a0 a1 a2 a3 s) := by
  unfold execCalArray
  repeat' first
    | with_reducible assumption
    | with_reducible apply OutKeeps.next
    | (with_reducible first | apply ifUp_keeps | apply calArray_keeps)

theorem execInterpNow_keeps {r : State} (a0) {s : State} (h : Keeps r s) :
    OutKeeps r (execInterpNow a0 s) := by
  unfold execInterpNow
  repeat' first
    | with_reducible assumption
    | with_reducible apply OutKeeps.next
    | (with_reducible first | apply ifUp_keeps | apply calResult_keeps | apply trigger_keeps)
    | split
    | (with_reducible intro _)

theorem clearCorr_keeps {r : State} (a0) (a1) {s : State} (h : Keeps r s) :
    Keeps r (clearCorr a0 a1 s) := by
  unfold clearCorr
  repeat' first
    | with_reducible assumption
    | with_reducible apply set_keeps

theorem execClearCorr_keeps {r : State} (a0) (a1) (a2) {s : State} (h : Keeps r s) :
    OutKeeps r (execClearCorr a0 a1 a2 s) := by
  unfold execClearCorr
  repeat' first
    | with_reducible assumption
    | with_reducible apply OutKeeps.next
    | (with_reducible first | apply ifUp_keeps | apply calResult_keeps | apply each_keepsAll | apply clearCorr_keeps | apply catchUp_keeps)
    | (with_reducible apply Keeps.ite)
    | split
    | (with_reducible apply foldl_keepsAll)
    | dsimp only
    | (with_reducible intro _ _ _)
    | (with_reducible intro _ _)
    | (with_reducible intro _)

theorem updSums_keeps {r : State} (a0) (a1) (a2) {s : State} (h : Keeps r s) :
    Keeps r (updSums a0 a1 a2 s) := by
  unfold updSums
  repeat' first
    | with_reducible assumption
    | with_reducible apply updCore_keeps

theorem execClearStats_keeps {r : State} (a0) (a1) (a2) {s : State} (h : Keeps r s) :
    OutKeeps r (execClearStats a0 a1 a2 s) := by
  unfold execClearStats
  repeat' first
    | with_reducible assumption
    | with_reducible apply OutKeeps.next
    | (with_reducible first | apply ifUp_keeps | apply calResult_keeps | apply each_keepsAll | apply updSums_keeps)
    | split
    | (with_reducible intro _)

theorem putRecord_keeps {r : State} (a0) (a1) (a2) (a3) {s : State} (h : Keeps r s) :
    Keeps r (putRecord a0 a1 a2 a3 s) := by
  unfold putRecord
  repeat' first
    | with_reducible assumption
    | (with_reducible refine Keeps.updMem ?_ ?_ rfl; rotate_left; (rw [Mems.wf_iff, Mems.wf_iff]; rintro ⟨h1, h2, h3, h4, h5, h6, h7, h8, h9⟩; refine ⟨?_, ?_, ?_, ?_, ?_, ?_, ?_, ?_, ?_⟩ <;> repeat' (with_reducible first | assumption | exact SMap.wf_nil | exact NSet.wf_nil | apply SMap.wf_cond | apply NSet.wf_cond | apply wf_wrBytes | apply SMap.wf_put | apply SMap.wf_del | apply SMap.wf_erase | apply SMap.wf_filter | apply NSet.wf_add | apply NSet.wf_erase | apply NSet.wf_del | apply NSet.wf_filter | apply NSet.wf_foldl_add | apply SMap.wf_foldl_put | split)))

theorem putCorr_keeps {r : State} (a0) (a1) (a2) (a3) {s : State} (h : Keeps r s) :
    Keeps r (putCorr a0 a1 a2 a3 s) := by
  unfold putCorr
  repeat' first
    | with_reducible assumption
    | (with_reducible first | apply when_keepsAll | apply bump_keeps | apply set_keeps)

theorem calOne_keeps {r : State} (a0) (a1) (a2) {s : State} (h : Keeps r s) :
    Keeps r (calOne a0 a1 a2 s) := by
  unfold calOne
  repeat' first
    | with_reducible assumption
    | (with_reducible first | apply drawFree_keeps | apply updPhys_keeps | apply putRecord_keeps | apply raise_keeps | apply bump_keeps | apply putCorr_keeps)
    | (with_reducible apply Keeps.ite)
    | split
    | (with_reducible apply foldl_keepsAll)
    | dsimp only
    | (with_reducible intro _ _ _)
    | (with_reducible intro _ _)
    | (with_reducible intro _)

theorem runCal_keeps {r : State} (a0) (a1) {s : State} (h : Keeps r s) :
    Keeps r (runCal a0 a1 s) := by
  unfold runCal
  repeat' first
    | with_reducible assumption
    | (with_reducible first | apply bump_keeps | apply calResult_keeps | apply each_keepsAll | apply calOne_keeps)
    | (with_reducible apply Keeps.ite)
    | split
    | (with_reducible apply foldl_keepsAll)
    | dsimp only
    | (with_reducible intro _ _ _)
    | (with_reducible intro _ _)
    | (with_reducible intro _)

theorem calWrite_keeps {r : State} (a0) (a1) {s : State} (h : Keeps r s) :
    Keeps r (calWrite a0 a1 s) := by
  unfold calWrite
  repeat' first
    | with_reducible apply shadowWrite_keeps
    | (with_reducible refine Keeps.upd ?_ rfl; with_reducible first | assumption | apply shadowWrite_keeps | split)

theorem writeSigma_keeps {r : State} (a0) {s : State} (h : Keeps r s) :
    Keeps r (writeSigma a0 s) := by
  unfold writeSigma
  repeat' first
    | with_reducible assumption
    | with_reducible apply shadowWrite_keeps

theorem fillSets_keeps {r : State} (a0) {s : State} (h : Keeps r s) :
    Keeps r (fillSets a0 s) := by
  unfold fillSets
  repeat' first
    | with_reducible assumption
    | (with_reducible first | apply putRecord_keeps | apply upTo_keepsAll)
    | split
    | dsimp only
    | (with_reducible intro _)

theorem afterFull_keeps {r : State} (a0) {s : State} (h : Keeps r s) :
    Keeps r (afterFull a0 s) := by
  unfold afterFull
  repeat' first
    | with_reducible assumption
    | (with_reducible first | apply drawFree_keeps | apply writeSigma_keeps | apply fillSets_keeps | apply calWrite_keeps)

theorem execCalCmdDone_keeps {r : State} (a0) {s : State} (h : Keeps r s) :
    OutKeeps r (execCalCmdDone a0 s) := by
  unfold execCalCmdDone
  repeat' first
    | with_reducible assumption
    | with_reducible apply OutKeeps.next
    | (with_reducible first | apply when_keepsAll | apply afterFull_keeps | apply updCore_keeps | apply setB_keeps | apply runCal_keeps | apply catchUp_keeps)
    | (with_reducible apply Keeps.ite)
    | split
    | (with_reducible apply foldl_keepsAll)
    | dsimp only
    | (with_reducible intro _ _ _)
    | (with_reducible intro _ _)
    | (with_reducible intro _)

theorem execCalInterpEnable_keeps {r : State} (a0) {s : State} (h : Keeps r s) :
    OutKeeps r (execCalInterpEnable a0 s) := by
  unfold execCalInterpEnable
  repeat' first
    | with_reducible assumption
    | with_reducible apply OutKeeps.next
    | (with_reducible first | apply ifUp_keeps | apply trigger_keeps | apply setB_keeps)
    | split
    | (with_reducible intro _)

theorem trackRef_keeps {r : State} (a0) (a1) (a2) {s : State} (h : Keeps r s) :
    Keeps r (trackRef a0 a1 a2 s) := by
  unfold trackRef
  repeat' first
    | with_reducible assumption
    | (with_reducible first | apply drawFree_keeps | apply putCorr_keeps)

theorem trackSignal_keeps {r : State} (a0) (a1) (a2) {s : State} (h : Keeps r s) :
    Keeps r (trackSignal a0 a1 a2 s) := by
  unfold trackSignal
  repeat' first
    | (with_reducible first | apply drawFree_keeps | apply updSums_keeps | apply putCorr_keeps)
    | (with_reducible refine Keeps.upd ?_ rfl; with_reducible first | assumption | apply drawFree_keeps | apply updSums_keeps | apply putCorr_keeps | split)

theorem monitor_keeps {r : State} (a0) (a1) (a2) {s : State} (h : Keeps r s) :
    Keeps r (monitor a0 a1 a2 s) := by
  unfold monitor
  repeat' first
    | with_reducible assumption
    | (with_reducible first | apply set_keeps | apply raise_keeps | apply when_keepsAll | apply bump_keeps | apply hwSet_keeps | apply updSums_keeps)
    | (with_reducible apply Keeps.ite)
    | split
    | (with_reducible apply foldl_keepsAll)
    | dsimp only
    | (with_reducible intro _ _ _)
    | (with_reducible intro _ _)
    | (with_reducible intro _)

theorem periodEnd_keeps {r : State} (a0) (a1) {s : State} (h : Keeps r s) :
    Keeps r (periodEnd a0 a1 s) := by
  unfold periodEnd
  repeat' first
    | with_reducible assumption
    | (with_reducible first | apply each_keepsAll | apply trackSignal_keeps | apply trackRef_keeps | apply set_keeps | apply monitor_keeps | apply trigger_keeps)
    | split
    | (with_reducible intro _)

theorem execCalMonitorPeriodEnd_keeps {r : State} (a0) {s : State} (h : Keeps r s) :
    OutKeeps r (execCalMonitorPeriodEnd a0 s) := by
  unfold execCalMonitorPeriodEnd
  repeat' first
    | with_reducible assumption
    | with_reducible apply OutKeeps.next
    | with_reducible apply periodEnd_keeps
    | split
    | dsimp only

theorem execCalStoreWrite_keeps {r : State} (a0) (a1) (a2) (a3) {s : State} (h : Keeps r s) :
    OutKeeps r (execCalStoreWrite a0 a1 a2 a3 s) := by
  unfold execCalStoreWrite
  repeat' first
    | with_reducible apply OutKeeps.next
    | (with_reducible first | apply ifUp_keeps | apply calLocked_keeps)
    | (with_reducible intro _)
    | (with_reducible refine Keeps.updMem ?_ ?_ rfl; rotate_left; (rw [Mems.wf_iff, Mems.wf_iff]; rintro ⟨h1, h2, h3, h4, h5, h6, h7, h8, h9⟩; refine ⟨?_, ?_, ?_, ?_, ?_, ?_, ?_, ?_, ?_⟩ <;> repeat' (with_reducible first | assumption | exact SMap.wf_nil | exact NSet.wf_nil | apply SMap.wf_cond | apply NSet.wf_cond | apply wf_wrBytes | apply SMap.wf_put | apply SMap.wf_del | apply SMap.wf_erase | apply SMap.wf_filter | apply NSet.wf_add | apply NSet.wf_erase | apply NSet.wf_del | apply NSet.wf_filter | apply NSet.wf_foldl_add | apply SMap.wf_foldl_put | split)))
    | (with_reducible refine Keeps.upd ?_ rfl; with_reducible first | assumption | apply ifUp_keeps | apply calLocked_keeps | split)

end Sys2Proof.Machine
end

