-- ==== Sys2Proof/Laws/Keeps/Stack.lean ====
section
/-! SUPPORT. The effects of Machine/Stack.lean keep the queue, the fuses and soundness. -/
namespace Sys2Proof.Machine

theorem updStk_keeps {r : State} (a0) (a1) {s : State} (h : Keeps r s) :
    Keeps r (updStk a0 a1 s) := by
  unfold updStk
  repeat' first
    | (with_reducible refine Keeps.upd ?_ rfl; with_reducible first | assumption | split)

theorem markUncorr_keeps {r : State} (a0) (a1) (a2) (a3) {s : State} (h : Keeps r s) :
    Keeps r (markUncorr a0 a1 a2 a3 s) := by
  unfold markUncorr
  repeat' first
    | with_reducible assumption
    | (with_reducible first | apply freeBytes_keeps | apply markLine_keeps | apply putStk_keeps | apply bump_keeps | apply set_keeps | apply hwSet_keeps)
    | (with_reducible apply Keeps.ite)
    | split
    | (with_reducible apply foldl_keepsAll)
    | dsimp only
    | (with_reducible intro _ _ _)
    | (with_reducible intro _ _)
    | (with_reducible intro _)

theorem dramAccess_keeps {r : State} (a0) (a1) (a2) (a3) (a4) (a5) (a6) {s : State} (h : Keeps r s) :
    Keeps r (dramAccess a0 a1 a2 a3 a4 a5 a6 s) := by
  unfold dramAccess
  repeat' first
    | with_reducible assumption
    | (with_reducible first | apply when_keepsAll | apply injApply_keeps | apply bumpN_keeps | apply raise_keeps | apply markUncorr_keeps | apply pendSet_keeps)
    | split
    | dsimp only

theorem replyRead_keeps {r : State} (a0) (a1) (a2) (a3) (a4) (a5) {s : State} (h : Keeps r s) :
    Keeps r (replyRead a0 a1 a2 a3 a4 a5 s) := by
  unfold replyRead
  repeat' first
    | with_reducible assumption
    | with_reducible apply inject_keeps

theorem replyWrite_keeps {r : State} (a0) (a1) (a2) (a3) {s : State} (h : Keeps r s) :
    Keeps r (replyWrite a0 a1 a2 a3 s) := by
  unfold replyWrite
  repeat' first
    | with_reducible assumption
    | with_reducible apply inject_keeps

theorem refuseRead_keeps {r : State} (a0) (a1) (a2) (a3) {s : State} (h : Keeps r s) :
    Keeps r (refuseRead a0 a1 a2 a3 s) := by
  unfold refuseRead
  repeat' first
    | with_reducible assumption
    | (with_reducible first | apply freeBytes_keeps | apply replyRead_keeps)

theorem bankOffEvent_keeps {r : State} (a0) (a1) (a2) {s : State} (h : Keeps r s) :
    Keeps r (bankOffEvent a0 a1 a2 s) := by
  unfold bankOffEvent
  repeat' first
    | with_reducible assumption
    | with_reducible apply raise_keeps

theorem closeMerge_keeps {r : State} (a0) (a1) {s : State} (h : Keeps r s) :
    Keeps r (closeMerge a0 a1 s) := by
  unfold closeMerge
  repeat' first
    | with_reducible assumption
    | (with_reducible first | apply when_keepsAll | apply replyRead_keeps | apply updStk_keeps)
    | (with_reducible apply Keeps.ite)
    | split
    | (with_reducible apply foldl_keepsAll)
    | dsimp only
    | (with_reducible intro _ _ _)
    | (with_reducible intro _ _)
    | (with_reducible intro _)

theorem tookTurn_keeps {r : State} (a0) (a1) (a2) (a3) {s : State} (h : Keeps r s) :
    Keeps r (tookTurn a0 a1 a2 a3 s) := by
  unfold tookTurn
  repeat' first
    | with_reducible assumption
    | (with_reducible first | apply updStk_keeps)
    | (with_reducible apply Keeps.ite)
    | split
    | (with_reducible apply foldl_keepsAll)
    | dsimp only
    | (with_reducible intro _ _ _)
    | (with_reducible intro _ _)
    | (with_reducible intro _)

theorem dropPacket_keeps {r : State} (a0) {s : State} (h : Keeps r s) :
    Keeps r (dropPacket a0 s) := by
  unfold dropPacket
  repeat' first
    | (with_reducible refine Keeps.upd ?_ rfl; with_reducible first | assumption | split)

theorem rangeRej_keeps {r : State} (a0) {s : State} (h : Keeps r s) :
    Keeps r (rangeRej a0 s) := by
  unfold rangeRej
  repeat' first
    | with_reducible assumption
    | (with_reducible first | apply bump_keeps)
    | (with_reducible apply Keeps.ite)
    | split
    | (with_reducible apply foldl_keepsAll)
    | dsimp only
    | (with_reducible intro _ _ _)
    | (with_reducible intro _ _)
    | (with_reducible intro _)

theorem bankOffRej_keeps {r : State} (a0) (a1) (a2) {s : State} (h : Keeps r s) :
    Keeps r (bankOffRej a0 a1 a2 s) := by
  unfold bankOffRej
  repeat' first
    | with_reducible assumption
    | (with_reducible first | apply bankOffEvent_keeps | apply bump_keeps)
    | (with_reducible apply Keeps.ite)
    | split
    | (with_reducible apply foldl_keepsAll)
    | dsimp only
    | (with_reducible intro _ _ _)
    | (with_reducible intro _ _)
    | (with_reducible intro _)

theorem performRead_keeps {r : State} (a0) (a1) (a2) (a3) (a4) {s : State} (h : Keeps r s) :
    Keeps r (performRead a0 a1 a2 a3 a4 s).2 := by
  unfold performRead
  repeat' first
    | with_reducible assumption
    | (with_reducible first | apply dramAccess_keeps | apply when_keepsAll | apply bump_keeps)
    | (with_reducible apply Keeps.ite)
    | split
    | (with_reducible apply foldl_keepsAll)
    | dsimp only
    | (with_reducible intro _ _ _)
    | (with_reducible intro _ _)
    | (with_reducible intro _)

theorem openMerge_keeps {r : State} (a0) (a1) (a2) (a3) (a4) {s : State} (h : Keeps r s) :
    Keeps r (openMerge a0 a1 a2 a3 a4 s).2 := by
  unfold openMerge
  repeat' first
    | with_reducible assumption
    | (with_reducible first | apply bump_keeps | apply updStk_keeps)
    | (with_reducible apply Keeps.ite)
    | split
    | (with_reducible apply foldl_keepsAll)
    | dsimp only
    | (with_reducible intro _ _ _)
    | (with_reducible intro _ _)
    | (with_reducible intro _)

theorem serveRead_keeps {r : State} (a0) (a1) (a2) (a3) (a4) (a5) (a6) (a7) {s : State} (h : Keeps r s) :
    Keeps r (serveRead a0 a1 a2 a3 a4 a5 a6 a7 s) := by
  unfold serveRead
  repeat' first
    | with_reducible assumption
    | (with_reducible first | apply refuseRead_keeps | apply rangeRej_keeps | apply bankOffRej_keeps | apply bump_keeps | apply when_keepsAll | apply updStk_keeps | apply performRead_keeps | apply openMerge_keeps | apply replyRead_keeps)
    | (with_reducible apply Keeps.ite)
    | split
    | (with_reducible apply foldl_keepsAll)
    | dsimp only
    | (with_reducible intro _ _ _)
    | (with_reducible intro _ _)
    | (with_reducible intro _)

theorem execStackRead_keeps {r : State} (a0) (a1) (a2) (a3) {s : State} (h : Keeps r s) :
    OutKeeps r (execStackRead a0 a1 a2 a3 s) := by
  unfold execStackRead
  repeat' first
    | with_reducible assumption
    | with_reducible apply OutKeeps.next
    | (with_reducible first | apply serveRead_keeps | apply tookTurn_keeps | apply dropPacket_keeps)
    | (with_reducible apply Keeps.ite)
    | split
    | (with_reducible apply foldl_keepsAll)
    | dsimp only
    | (with_reducible intro _ _ _)
    | (with_reducible intro _ _)
    | (with_reducible intro _)

theorem performWrite_keeps {r : State} (a0) (a1) (a2) (a3) (a4) {s : State} (h : Keeps r s) :
    Keeps r (performWrite a0 a1 a2 a3 a4 s) := by
  unfold performWrite
  repeat' first
    | with_reducible assumption
    | (with_reducible first | apply closeMerge_keeps | apply putStk_keeps | apply bump_keeps | apply markLine_keeps)
    | split

theorem doWrite_keeps {r : State} (a0) (a1) (a2) (a3) (a4) (a5) (a6) (a7) (a8) {s : State} (h : Keeps r s) :
    Keeps r (doWrite a0 a1 a2 a3 a4 a5 a6 a7 a8 s).2 := by
  unfold doWrite
  repeat' first
    | with_reducible assumption
    | (with_reducible first | apply rangeRej_keeps | apply bump_keeps | apply bankOffRej_keeps | apply performWrite_keeps | apply dramAccess_keeps)
    | (with_reducible apply Keeps.ite)
    | split
    | (with_reducible apply foldl_keepsAll)
    | dsimp only
    | (with_reducible intro _ _ _)
    | (with_reducible intro _ _)
    | (with_reducible intro _)

theorem execStackWrite_keeps {r : State} (a0) (a1) (a2) (a3) {s : State} (h : Keeps r s) :
    OutKeeps r (execStackWrite a0 a1 a2 a3 s) := by
  unfold execStackWrite
  repeat' first
    | with_reducible assumption
    | with_reducible apply OutKeeps.next
    | (with_reducible first | apply doWrite_keeps | apply tookTurn_keeps | apply dropPacket_keeps | apply replyWrite_keeps)
    | (with_reducible apply Keeps.ite)
    | split
    | (with_reducible apply foldl_keepsAll)
    | dsimp only
    | (with_reducible intro _ _ _)
    | (with_reducible intro _ _)
    | (with_reducible intro _)

theorem foundError_keeps {r : State} {s : State} (h : Keeps r s) :
    Keeps r (foundError s).2 := by
  unfold foundError
  repeat' first
    | with_reducible assumption
    | (with_reducible first | apply drawFree_keeps)
    | (with_reducible apply Keeps.ite)
    | split
    | (with_reducible apply foldl_keepsAll)
    | dsimp only
    | (with_reducible intro _ _ _)
    | (with_reducible intro _ _)
    | (with_reducible intro _)

theorem serveQueued_keeps {r : State} (a0) (a1) {s : State} (h : Keeps r s) :
    Keeps r (serveQueued a0 a1 s) := by
  unfold serveQueued
  repeat' first
    | with_reducible assumption
    | (with_reducible first | apply foundError_keeps | apply dropPacket_keeps | apply serveRead_keeps | apply doWrite_keeps | apply replyWrite_keeps)
    | (with_reducible apply Keeps.ite)
    | split
    | (with_reducible apply foldl_keepsAll)
    | dsimp only
    | (with_reducible intro _ _ _)
    | (with_reducible intro _ _)
    | (with_reducible intro _)

theorem queueWait_keeps {r : State} (a0) (a1) {s : State} (h : Keeps r s) :
    Keeps r (queueWait a0 a1 s) := by
  unfold queueWait
  repeat' first
    | with_reducible assumption
    | (with_reducible first | apply serveQueued_keeps | apply bump_keeps)
    | (with_reducible apply Keeps.ite)
    | split
    | (with_reducible apply foldl_keepsAll)
    | dsimp only
    | (with_reducible intro _ _ _)
    | (with_reducible intro _ _)
    | (with_reducible intro _)

theorem reachLine_keeps {r : State} (a0) (a1) (a2) {s : State} (h : Keeps r s) :
    Keeps r (reachLine a0 a1 a2 s).2 := by
  unfold reachLine
  repeat' first
    | with_reducible assumption
    | (with_reducible first | apply trip_keeps | apply when_keepsAll | apply bumpRtr_keeps | apply queueWait_keeps | apply each_keepsAll | apply serveQueued_keeps)
    | (with_reducible apply Keeps.ite)
    | split
    | (with_reducible apply foldl_keepsAll)
    | dsimp only
    | (with_reducible intro _ _ _)
    | (with_reducible intro _ _)
    | (with_reducible intro _)

theorem backTrip_keeps {r : State} (a0) (a1) {s : State} (h : Keeps r s) :
    Keeps r (backTrip a0 a1 s) := by
  unfold backTrip
  repeat' first
    | with_reducible assumption
    | (with_reducible first | apply trip_keeps)
    | (with_reducible apply Keeps.ite)
    | split
    | (with_reducible apply foldl_keepsAll)
    | dsimp only
    | (with_reducible intro _ _ _)
    | (with_reducible intro _ _)
    | (with_reducible intro _)

theorem refusedLine_keeps {r : State} (a0) {s : State} (h : Keeps r s) :
    Keeps r (refusedLine a0 s).2 := by
  unfold refusedLine
  repeat' first
    | with_reducible assumption
    | (with_reducible first | apply freeBytes_keeps)
    | (with_reducible apply Keeps.ite)
    | split
    | (with_reducible apply foldl_keepsAll)
    | dsimp only
    | (with_reducible intro _ _ _)
    | (with_reducible intro _ _)
    | (with_reducible intro _)

theorem takeLineAt_keeps {r : State} (a0) (a1) (a2) {s : State} (h : Keeps r s) :
    Keeps r (takeLineAt a0 a1 a2 s).2 := by
  unfold takeLineAt
  repeat' first
    | with_reducible assumption
    | (with_reducible first | apply refusedLine_keeps | apply rangeRej_keeps | apply bankOffRej_keeps | apply bump_keeps | apply when_keepsAll | apply foundError_keeps | apply performRead_keeps | apply openMerge_keeps)
    | (with_reducible apply Keeps.ite)
    | split
    | (with_reducible apply foldl_keepsAll)
    | dsimp only
    | (with_reducible intro _ _ _)
    | (with_reducible intro _ _)
    | (with_reducible intro _)

theorem readLine_keeps {r : State} (a0) (a1) (a2) {s : State} (h : Keeps r s) :
    Keeps r (readLine a0 a1 a2 s).2 := by
  unfold readLine
  repeat' first
    | with_reducible assumption
    | (with_reducible first | apply reachLine_keeps | apply takeLineAt_keeps | apply backTrip_keeps | apply refusedLine_keeps)
    | (with_reducible apply Keeps.ite)
    | split
    | (with_reducible apply foldl_keepsAll)
    | dsimp only
    | (with_reducible intro _ _ _)
    | (with_reducible intro _ _)
    | (with_reducible intro _)

theorem writeLine_keeps {r : State} (a0) (a1) (a2) (a3) (a4) {s : State} (h : Keeps r s) :
    Keeps r (writeLine a0 a1 a2 a3 a4 s).2 := by
  unfold writeLine
  repeat' first
    | with_reducible assumption
    | (with_reducible first | apply reachLine_keeps | apply foundError_keeps | apply doWrite_keeps | apply backTrip_keeps)
    | (with_reducible apply Keeps.ite)
    | split
    | (with_reducible apply foldl_keepsAll)
    | dsimp only
    | (with_reducible intro _ _ _)
    | (with_reducible intro _ _)
    | (with_reducible intro _)

theorem readLines_keeps {r : State} (a0) (a1) (l : List Nat) {s : State} (h : Keeps r s) : Keeps r (readLines a0 a1 l s).2 := by
  induction l generalizing s with
  | nil => exact h
  | cons x l ih => exact ih (readLine_keeps _ _ _ h)

theorem readSpan_keeps {r : State} (a0) (a1) (a2) {s : State} (h : Keeps r s) :
    Keeps r (readSpan a0 a1 a2 s).2 := by
  unfold readSpan
  repeat' first
    | with_reducible assumption
    | (with_reducible first | apply readLines_keeps)
    | (with_reducible apply Keeps.ite)
    | split
    | (with_reducible apply foldl_keepsAll)
    | dsimp only
    | (with_reducible intro _ _ _)
    | (with_reducible intro _ _)
    | (with_reducible intro _)

theorem writeLines_keeps {r : State} (a0) (a1) (a2) (a3) (l : List Nat) {s : State} (h : Keeps r s) :
    Keeps r (writeLines a0 a1 a2 a3 l s).2 := by
  induction l generalizing s with
  | nil => exact h
  | cons x l ih => exact ih (writeLine_keeps _ _ _ _ _ h)

theorem writeSpan_keeps {r : State} (a0) (a1) (a2) {s : State} (h : Keeps r s) :
    Keeps r (writeSpan a0 a1 a2 s).2 := by
  unfold writeSpan
  repeat' first
    | with_reducible assumption
    | (with_reducible first | apply writeLines_keeps)
    | (with_reducible apply Keeps.ite)
    | split
    | (with_reducible apply foldl_keepsAll)
    | dsimp only
    | (with_reducible intro _ _ _)
    | (with_reducible intro _ _)
    | (with_reducible intro _)

theorem aperRej_keeps {r : State} (a0) {s : State} (h : Keeps r s) :
    Keeps r (aperRej a0 s) := by
  unfold aperRej
  repeat' first
    | with_reducible assumption
    | (with_reducible first | apply hwSet_keeps | apply bump_keeps)
    | (with_reducible apply Keeps.ite)
    | split
    | (with_reducible apply foldl_keepsAll)
    | dsimp only
    | (with_reducible intro _ _ _)
    | (with_reducible intro _ _)
    | (with_reducible intro _)

theorem dmaIn_keeps {r : State} (a0) (a1) (a2) {s : State} (h : Keeps r s) :
    Keeps r (dmaIn a0 a1 a2 s).2 := by
  unfold dmaIn
  repeat' first
    | with_reducible assumption
    | (with_reducible first | apply aperRej_keeps | apply writeSpan_keeps | apply bumpN_keeps)
    | (with_reducible apply Keeps.ite)
    | split
    | (with_reducible apply foldl_keepsAll)
    | dsimp only
    | (with_reducible intro _ _ _)
    | (with_reducible intro _ _)
    | (with_reducible intro _)

theorem mwinRej_keeps {r : State} (a0) {s : State} (h : Keeps r s) :
    Keeps r (mwinRej a0 s) := by
  unfold mwinRej
  repeat' first
    | with_reducible assumption
    | (with_reducible first | apply bump_keeps)
    | (with_reducible apply Keeps.ite)
    | split
    | (with_reducible apply foldl_keepsAll)
    | dsimp only
    | (with_reducible intro _ _ _)
    | (with_reducible intro _ _)
    | (with_reducible intro _)

theorem mcWrite_keeps {r : State} (a0) (a1) {s : State} (h : Keeps r s) :
    Keeps r (mcWrite a0 a1 s) := by
  unfold mcWrite
  repeat' first
    | with_reducible assumption
    | (with_reducible first | apply each_keepsAll | apply writeLine_keeps | apply when_keepsAll | apply emit_keeps | apply mwinRej_keeps)
    | (with_reducible apply Keeps.ite)
    | split
    | (with_reducible apply foldl_keepsAll)
    | dsimp only
    | (with_reducible intro _ _ _)
    | (with_reducible intro _ _)
    | (with_reducible intro _)

theorem mcLines_keeps {r : State} (l : List Nat) {s : State} (h : Keeps r s) : Keeps r (mcLines l s).2 := by
  induction l generalizing s with
  | nil => exact h
  | cons x l ih =>
    refine ih ?_
    split
    · exact readLine_keeps _ _ _ h
    · exact refusedLine_keeps _ (mwinRej_keeps _ h)

theorem mcRead_keeps {r : State} (a0) (a1) {s : State} (h : Keeps r s) :
    Keeps r (mcRead a0 a1 s).2 := by
  unfold mcRead
  repeat' first
    | with_reducible assumption
    | (with_reducible first | apply mcLines_keeps)
    | (with_reducible apply Keeps.ite)
    | split
    | (with_reducible apply foldl_keepsAll)
    | dsimp only
    | (with_reducible intro _ _ _)
    | (with_reducible intro _ _)
    | (with_reducible intro _)

theorem mcClear_keeps {r : State} (a0) (a1) {s : State} (h : Keeps r s) :
    Keeps r (mcClear a0 a1 s) := by
  unfold mcClear
  repeat' first
    | with_reducible assumption
    | (with_reducible first | apply each_keepsAll | apply closeMerge_keeps | apply mwinRej_keeps)
    | (with_reducible apply Keeps.ite)
    | split
    | (with_reducible apply foldl_keepsAll)
    | dsimp only
    | (with_reducible intro _ _ _)
    | (with_reducible intro _ _)
    | (with_reducible intro _)
    | (with_reducible refine Keeps.updMem ?_ ?_ rfl; rotate_left; (rw [Mems.wf_iff, Mems.wf_iff]; rintro ⟨h1, h2, h3, h4, h5, h6, h7, h8, h9⟩; refine ⟨?_, ?_, ?_, ?_, ?_, ?_, ?_, ?_, ?_⟩ <;> repeat' (with_reducible first | assumption | exact SMap.wf_nil | exact NSet.wf_nil | apply SMap.wf_cond | apply NSet.wf_cond | apply wf_wrBytes | apply SMap.wf_put | apply SMap.wf_del | apply SMap.wf_erase | apply SMap.wf_filter | apply NSet.wf_add | apply NSet.wf_erase | apply NSet.wf_del | apply NSet.wf_filter | apply NSet.wf_foldl_add | apply SMap.wf_foldl_put | split)))
    | (with_reducible refine Keeps.upd ?_ rfl; with_reducible first | assumption | apply each_keepsAll | apply closeMerge_keeps | apply mwinRej_keeps | split)

theorem execMergeWindowClose_keeps {r : State} (a0) (a1) {s : State} (h : Keeps r s) :
    OutKeeps r (execMergeWindowClose a0 a1 s) := by
  unfold execMergeWindowClose
  repeat' first
    | with_reducible assumption
    | with_reducible apply OutKeeps.next
    | with_reducible apply closeMerge_keeps
    | split

theorem execScrubRead_keeps {r : State} (a0) (a1) (a2) {s : State} (h : Keeps r s) :
    OutKeeps r (execScrubRead a0 a1 a2 s) := by
  unfold execScrubRead
  repeat' first
    | with_reducible assumption
    | with_reducible apply OutKeeps.next
    | (with_reducible first | apply updStk_keeps | apply bump_keeps | apply bumpN_keeps | apply raise_keeps | apply markUncorr_keeps)
    | split
    | dsimp only

theorem bankRej_keeps {r : State} (a0) {s : State} (h : Keeps r s) :
    Keeps r (bankRej a0 s) := by
  unfold bankRej
  repeat' first
    | with_reducible assumption
    | with_reducible apply bump_keeps

theorem execBankDown_keeps {r : State} (a0) (a1) {s : State} (h : Keeps r s) :
    OutKeeps r (execBankDown a0 a1 s) := by
  unfold execBankDown
  repeat' first
    | with_reducible assumption
    | with_reducible apply OutKeeps.next
    | (with_reducible first | apply ifNet_keeps | apply emit_keeps | apply bankRej_keeps | apply updStk_keeps | apply setBit_keeps)
    | (with_reducible apply Keeps.ite)
    | split
    | (with_reducible apply foldl_keepsAll)
    | dsimp only
    | (with_reducible intro _ _ _)
    | (with_reducible intro _ _)
    | (with_reducible intro _)

theorem execBankUp_keeps {r : State} (a0) (a1) {s : State} (h : Keeps r s) :
    OutKeeps r (execBankUp a0 a1 s) := by
  unfold execBankUp
  repeat' first
    | with_reducible assumption
    | with_reducible apply OutKeeps.next
    | (with_reducible first | apply ifNet_keeps | apply bankRej_keeps | apply updStk_keeps | apply setBit_keeps)
    | (with_reducible apply Keeps.ite)
    | split
    | (with_reducible apply foldl_keepsAll)
    | dsimp only
    | (with_reducible intro _ _ _)
    | (with_reducible intro _ _)
    | (with_reducible intro _)

theorem loseBank_keeps {r : State} (a0) (a1) {s : State} (h : Keeps r s) :
    Keeps r (loseBank a0 a1 s) := by
  unfold loseBank
  repeat' first
    | with_reducible assumption
    | (with_reducible refine Keeps.updMem ?_ ?_ rfl; rotate_left; (rw [Mems.wf_iff, Mems.wf_iff]; rintro ⟨h1, h2, h3, h4, h5, h6, h7, h8, h9⟩; refine ⟨?_, ?_, ?_, ?_, ?_, ?_, ?_, ?_, ?_⟩ <;> repeat' (with_reducible first | assumption | exact SMap.wf_nil | exact NSet.wf_nil | apply SMap.wf_cond | apply NSet.wf_cond | apply wf_wrBytes | apply SMap.wf_put | apply SMap.wf_del | apply SMap.wf_erase | apply SMap.wf_filter | apply NSet.wf_add | apply NSet.wf_erase | apply NSet.wf_del | apply NSet.wf_filter | apply NSet.wf_foldl_add | apply SMap.wf_foldl_put | split)))

theorem drainRefuse_keeps {r : State} (a0) (a1) {s : State} (h : Keeps r s) :
    Keeps r (drainRefuse a0 a1 s) := by
  unfold drainRefuse
  repeat' first
    | with_reducible assumption
    | (with_reducible first | apply refuseRead_keeps | apply bankOffRej_keeps | apply dropPacket_keeps | apply replyWrite_keeps | apply bankOffEvent_keeps | apply bump_keeps)
    | (with_reducible apply Keeps.ite)
    | split
    | (with_reducible apply foldl_keepsAll)
    | dsimp only
    | (with_reducible intro _ _ _)
    | (with_reducible intro _ _)
    | (with_reducible intro _)

theorem execBankDrainEnd_keeps {r : State} (a0) {s : State} (h : Keeps r s) :
    OutKeeps r (execBankDrainEnd a0 s) := by
  unfold execBankDrainEnd
  repeat' first
    | with_reducible assumption
    | with_reducible apply OutKeeps.next
    | (with_reducible first | apply updStk_keeps | apply setBit_keeps | apply loseBank_keeps | apply each_keepsAll | apply drainRefuse_keeps)
    | split

theorem execBankWakeEnd_keeps {r : State} (a0) {s : State} (h : Keeps r s) :
    OutKeeps r (execBankWakeEnd a0 s) := by
  unfold execBankWakeEnd
  repeat' first
    | with_reducible assumption
    | with_reducible apply OutKeeps.next
    | (with_reducible first | apply updStk_keeps | apply setBit_keeps | apply loseBank_keeps)
    | split

end Sys2Proof.Machine
end

