-- ==== Sys2Proof/Laws/Keeps/Proof.lean ====
section
/-! SUPPORT. The effects of Machine/Proof.lean keep the queue, the fuses and soundness. -/
namespace Sys2Proof.Machine

theorem proofPoison_keeps {r : State} (a0) (a1) (a2) {s : State} (h : Keeps r s) :
    Keeps r (proofPoison a0 a1 a2 s) := by
  unfold proofPoison
  repeat' first
    | with_reducible assumption
    | (with_reducible first | apply raise_keeps | apply bumpN_keeps | apply bump_keeps)
    | (with_reducible apply Keeps.ite)
    | split
    | (with_reducible apply foldl_keepsAll)
    | dsimp only
    | (with_reducible intro _ _ _)
    | (with_reducible intro _ _)
    | (with_reducible intro _)

theorem execProofGoldLine_keeps {r : State} (a0) (a1) (a2) {s : State} (h : Keeps r s) :
    OutKeeps r (execProofGoldLine a0 a1 a2 s) := by
  unfold execProofGoldLine
  repeat' first
    | with_reducible assumption
    | with_reducible apply OutKeeps.next
    | (with_reducible first | apply readLine_keeps | apply refusedLine_keeps | apply regionRej_keeps | apply updCore_keeps | apply proofPoison_keeps)
    | (with_reducible apply Keeps.ite)
    | split
    | (with_reducible apply foldl_keepsAll)
    | dsimp only
    | (with_reducible intro _ _ _)
    | (with_reducible intro _ _)
    | (with_reducible intro _)

theorem execProofStart_keeps {r : State} (a0) {s : State} (h : Keeps r s) :
    OutKeeps r (execProofStart a0 s) := by
  unfold execProofStart
  repeat' first
    | with_reducible assumption
    | with_reducible apply OutKeeps.next
    | with_reducible apply updCore_keeps
    | split
    | dsimp only

theorem signalSample_keeps {r : State} (a0) (a1) {s : State} (h : Keeps r s) :
    Keeps r (signalSample a0 a1 s) := by
  unfold signalSample
  repeat' first
    | with_reducible assumption
    | (with_reducible first | apply bumpN_keeps | apply updCore_keeps)
    | split

theorem proofLast_keeps {r : State} (a0) (a1) (a2) (a3) {s : State} (h : Keeps r s) :
    Keeps r (proofLast a0 a1 a2 a3 s) := by
  unfold proofLast
  repeat' first
    | with_reducible assumption
    | (with_reducible first | apply bump_keeps | apply set_keeps | apply setB_keeps)

theorem completeProof_keeps {r : State} (a0) (a1) {s : State} (h : Keeps r s) :
    Keeps r (completeProof a0 a1 s) := by
  unfold completeProof
  repeat' first
    | with_reducible assumption
    | (with_reducible first | apply proofLast_keeps | apply raise_keeps | apply layerFlag_keeps | apply bump_keeps | apply setB_keeps | apply hwSet_keeps | apply signalSample_keeps)
    | (with_reducible apply Keeps.ite)
    | split
    | (with_reducible apply foldl_keepsAll)
    | dsimp only
    | (with_reducible intro _ _ _)
    | (with_reducible intro _ _)
    | (with_reducible intro _)

theorem execProofComplete_keeps {r : State} (a0) {s : State} (h : Keeps r s) :
    OutKeeps r (execProofComplete a0 s) := by
  unfold execProofComplete
  repeat' first
    | with_reducible assumption
    | with_reducible apply OutKeeps.next
    | (with_reducible first | apply completeProof_keeps | apply updCore_keeps)
    | split

end Sys2Proof.Machine
end

