-- ==== Sys2Proof/Laws/Keeps/Steep.lean ====
section
/-! SUPPORT. The effects of Machine/Steep.lean keep the queue, the fuses and soundness. -/
namespace Sys2Proof.Machine

theorem unitLine_keeps {r : State} (a0) (a1) {s : State} (h : Keeps r s) :
    Keeps r (unitLine a0 a1 s).2 := by
  unfold unitLine
  repeat' first
    | with_reducible assumption
    | (with_reducible first | apply readLine_keeps | apply refusedLine_keeps | apply regionRej_keeps)
    | (with_reducible apply Keeps.ite)
    | split
    | (with_reducible apply foldl_keepsAll)
    | dsimp only
    | (with_reducible intro _ _ _)
    | (with_reducible intro _ _)
    | (with_reducible intro _)

theorem unitRead_keeps {r : State} (a0) (a1) {s : State} (h : Keeps r s) :
    Keeps r (unitRead a0 a1 s).2 := by
  unfold unitRead
  repeat' first
    | with_reducible assumption
    | (with_reducible first | apply unitLine_keeps)
    | (with_reducible apply Keeps.ite)
    | split
    | (with_reducible apply foldl_keepsAll)
    | dsimp only
    | (with_reducible intro _ _ _)
    | (with_reducible intro _ _)
    | (with_reducible intro _)

theorem unitWrite_keeps {r : State} (a0) (a1) (a2) {s : State} (h : Keeps r s) :
    Keeps r (unitWrite a0 a1 a2 s) := by
  unfold unitWrite
  repeat' first
    | with_reducible assumption
    | (with_reducible first | apply writeLine_keeps | apply regionRej_keeps)
    | (with_reducible apply Keeps.ite)
    | split
    | (with_reducible apply foldl_keepsAll)
    | dsimp only
    | (with_reducible intro _ _ _)
    | (with_reducible intro _ _)
    | (with_reducible intro _)

theorem unitReads_keeps {r : State} (c a n : Nat) {s : State} (h : Keeps r s) : Keeps r (unitReads c a n s).2 := by
  induction n generalizing a s with
  | zero => exact h
  | succ n ih => exact ih _ (unitRead_keeps _ _ h)

theorem showBusy_keeps {r : State} (a0) {s : State} (h : Keeps r s) :
    Keeps r (showBusy a0 s) := by
  unfold showBusy
  repeat' first
    | with_reducible assumption
    | with_reducible apply setB_keeps

theorem openRec_keeps {r : State} (a0) {s : State} (h : Keeps r s) :
    Keeps r (openRec a0 s) := by
  unfold openRec
  repeat' first
    | with_reducible assumption
    | (with_reducible apply Keeps.ite)
    | split
    | (with_reducible apply foldl_keepsAll)
    | dsimp only
    | (with_reducible intro _ _ _)
    | (with_reducible intro _ _)
    | (with_reducible intro _)
    | (with_reducible refine Keeps.upd ?_ rfl; with_reducible first | assumption | split)

theorem steepGo_keeps {r : State} (a0) (a1) {s : State} (h : Keeps r s) :
    Keeps r (steepGo a0 a1 s) := by
  unfold steepGo
  repeat' first
    | with_reducible assumption
    | (with_reducible first | apply set_keeps | apply showBusy_keeps | apply updCore_keeps | apply openRec_keeps)
    | (with_reducible apply Keeps.ite)
    | split
    | (with_reducible apply foldl_keepsAll)
    | dsimp only
    | (with_reducible intro _ _ _)
    | (with_reducible intro _ _)
    | (with_reducible intro _)

theorem execSteepGo_keeps {r : State} (a0) (a1) {s : State} (h : Keeps r s) :
    OutKeeps r (execSteepGo a0 a1 s) := by
  unfold execSteepGo
  repeat' first
    | with_reducible assumption
    | with_reducible apply OutKeeps.next
    | with_reducible apply steepGo_keeps

theorem readEntry_keeps {r : State} (a0) (a1) (a2) {s : State} (h : Keeps r s) :
    Keeps r (readEntry a0 a1 a2 s).2 := by
  unfold readEntry
  repeat' first
    | with_reducible assumption
    | with_reducible apply unitRead_keeps

theorem readEntries_keeps {r : State} (c b : Nat) (l : List Nat) {s : State} (h : Keeps r s) : Keeps r (readEntries c b l s).2 := by
  induction l generalizing s with
  | nil => exact h
  | cons x l ih => exact ih (readEntry_keeps _ _ _ h)

theorem readGolds_keeps {r : State} (a0) (l : List StEntry) {s : State} (h : Keeps r s) : Keeps r (readGolds a0 l s).2 := by
  induction l generalizing s with
  | nil => exact h
  | cons e l ih =>
    refine ih ?_
    split
    · exact unitReads_keeps _ _ _ h
    · exact h

theorem startBatch_keeps {r : State} (a0) (a1) {s : State} (h : Keeps r s) :
    Keeps r (startBatch a0 a1 s) := by
  unfold startBatch
  repeat' first
    | with_reducible assumption
    | (with_reducible first | apply readEntries_keeps | apply readGolds_keeps | apply each_keepsAll | apply setArr_keeps | apply updCore_keeps)
    | (with_reducible apply Keeps.ite)
    | split
    | (with_reducible apply foldl_keepsAll)
    | dsimp only
    | (with_reducible intro _ _ _)
    | (with_reducible intro _ _)
    | (with_reducible intro _)

theorem execBatchStart_keeps {r : State} (a0) {s : State} (h : Keeps r s) :
    OutKeeps r (execBatchStart a0 s) := by
  unfold execBatchStart
  repeat' first
    | with_reducible assumption
    | with_reducible apply OutKeeps.next
    | (with_reducible first | apply startBatch_keeps)
    | (with_reducible apply Keeps.ite)
    | split
    | (with_reducible apply foldl_keepsAll)
    | dsimp only
    | (with_reducible intro _ _ _)
    | (with_reducible intro _ _)
    | (with_reducible intro _)

theorem closeRec_keeps {r : State} (a0) (a1) {s : State} (h : Keeps r s) :
    Keeps r (closeRec a0 a1 s) := by
  unfold closeRec
  repeat' first
    | with_reducible assumption
    | (with_reducible apply Keeps.ite)
    | split
    | (with_reducible apply foldl_keepsAll)
    | dsimp only
    | (with_reducible intro _ _ _)
    | (with_reducible intro _ _)
    | (with_reducible intro _)
    | (with_reducible refine Keeps.upd ?_ rfl; with_reducible first | assumption | split)

theorem steepedNow_keeps {r : State} (a0) {s : State} (h : Keeps r s) :
    Keeps r (steepedNow a0 s) := by
  unfold steepedNow
  repeat' first
    | with_reducible assumption
    | (with_reducible first | apply updPhys_keeps)
    | (with_reducible apply Keeps.ite)
    | split
    | (with_reducible apply foldl_keepsAll)
    | dsimp only
    | (with_reducible intro _ _ _)
    | (with_reducible intro _ _)
    | (with_reducible intro _)

theorem eraseCells_keeps {r : State} (a0) (a1) {s : State} (h : Keeps r s) :
    Keeps r (eraseCells a0 a1 s) := by
  unfold eraseCells
  repeat' first
    | with_reducible assumption
    | with_reducible apply setUndef_keeps
    | (with_reducible refine Keeps.updMem ?_ ?_ rfl; rotate_left; (rw [Mems.wf_iff, Mems.wf_iff]; rintro ⟨h1, h2, h3, h4, h5, h6, h7, h8, h9⟩; refine ⟨?_, ?_, ?_, ?_, ?_, ?_, ?_, ?_, ?_⟩ <;> repeat' (with_reducible first | assumption | exact SMap.wf_nil | exact NSet.wf_nil | apply SMap.wf_cond | apply NSet.wf_cond | apply wf_wrBytes | apply SMap.wf_put | apply SMap.wf_del | apply SMap.wf_erase | apply SMap.wf_filter | apply NSet.wf_add | apply NSet.wf_erase | apply NSet.wf_del | apply NSet.wf_filter | apply NSet.wf_foldl_add | apply SMap.wf_foldl_put | split)))

theorem programCells_keeps {r : State} (a0) (a1) (a2) (a3) {s : State} (h : Keeps r s) :
    Keeps r (programCells a0 a1 a2 a3 s) := by
  unfold programCells
  repeat' first
    | with_reducible assumption
    | with_reducible apply setUndef_keeps
    | (with_reducible refine Keeps.updMem ?_ ?_ rfl; rotate_left; (rw [Mems.wf_iff, Mems.wf_iff]; rintro ⟨h1, h2, h3, h4, h5, h6, h7, h8, h9⟩; refine ⟨?_, ?_, ?_, ?_, ?_, ?_, ?_, ?_, ?_⟩ <;> repeat' (with_reducible first | assumption | exact SMap.wf_nil | exact NSet.wf_nil | apply SMap.wf_cond | apply NSet.wf_cond | apply wf_wrBytes | apply SMap.wf_put | apply SMap.wf_del | apply SMap.wf_erase | apply SMap.wf_filter | apply NSet.wf_add | apply NSet.wf_erase | apply NSet.wf_del | apply NSet.wf_filter | apply NSet.wf_foldl_add | apply SMap.wf_foldl_put | split)))

theorem forgetCal_keeps {r : State} (a0) (a1) {s : State} (h : Keeps r s) :
    Keeps r (forgetCal a0 a1 s) := by
  unfold forgetCal
  repeat' first
    | with_reducible assumption
    | (with_reducible first | apply updCore_keeps | apply clearCorr_keeps | apply catchUp_keeps)
    | (with_reducible apply Keeps.ite)
    | split
    | (with_reducible apply foldl_keepsAll)
    | dsimp only
    | (with_reducible intro _ _ _)
    | (with_reducible intro _ _)
    | (with_reducible intro _)

theorem changeArr_keeps {r : State} (a0) (a1) (a2) {s : State} (h : Keeps r s) :
    Keeps r (changeArr a0 a1 a2 s) := by
  unfold changeArr
  repeat' first
    | with_reducible assumption
    | (with_reducible first | apply updCore_keeps | apply forgetCal_keeps | apply setArr_keeps)
    | split

theorem excAsks_keeps {r : State} (a0) (a1) {s : State} (h : Keeps r s) :
    Keeps r (excAsks a0 a1 s) := by
  unfold excAsks
  repeat' first
    | with_reducible assumption
    | (with_reducible apply Keeps.ite)
    | split
    | (with_reducible apply foldl_keepsAll)
    | dsimp only
    | (with_reducible intro _ _ _)
    | (with_reducible intro _ _)
    | (with_reducible intro _)
    | (with_reducible refine Keeps.upd ?_ rfl; with_reducible first | assumption | split)

theorem endSteep_keeps {r : State} (a0) (a1) (a2) (a3) {s : State} (h : Keeps r s) :
    Keeps r (endSteep a0 a1 a2 a3 s).2 := by
  unfold endSteep
  repeat' first
    | with_reducible assumption
    | (with_reducible first | apply drawFree_keeps | apply freeBytes_keeps | apply changeArr_keeps | apply eraseCells_keeps | apply excAsks_keeps | apply shadowHw_keeps | apply programCells_keeps)
    | (with_reducible apply Keeps.ite)
    | split
    | (with_reducible apply foldl_keepsAll)
    | dsimp only
    | (with_reducible intro _ _ _)
    | (with_reducible intro _ _)
    | (with_reducible intro _)

theorem endErase_keeps {r : State} (a0) (a1) (a2) (a3) {s : State} (h : Keeps r s) :
    Keeps r (endErase a0 a1 a2 a3 s).2 := by
  unfold endErase
  repeat' first
    | with_reducible assumption
    | (with_reducible first | apply drawFree_keeps | apply changeArr_keeps | apply eraseCells_keeps | apply setUndef_keeps)
    | split

theorem endReadback_keeps {r : State} (a0) (a1) (a2) (a3) {s : State} (h : Keeps r s) :
    Keeps r (endReadback a0 a1 a2 a3 s).2 := by
  unfold endReadback
  repeat' first
    | with_reducible assumption
    | (with_reducible first | apply unitReads_keeps | apply drawFree_keeps | apply freeBytes_keeps)
    | split
    | dsimp only

theorem endEntry_keeps {r : State} (a0) (a1) (a2) (a3) {s : State} (h : Keeps r s) :
    Keeps r (endEntry a0 a1 a2 a3 s).2 := by
  unfold endEntry
  repeat' first
    | with_reducible assumption
    | (with_reducible first | apply freeBytes_keeps | apply endSteep_keeps | apply endErase_keeps | apply endReadback_keeps)
    | split

theorem endBatch_keeps {r : State} (a0) (a1) (a2) {s : State} (h : Keeps r s) :
    Keeps r (endBatch a0 a1 a2 s) := by
  unfold endBatch
  repeat' first
    | with_reducible assumption
    | (with_reducible first | apply endEntry_keeps | apply unitWrite_keeps | apply closeRec_keeps | apply each_keepsAll | apply updCore_keeps | apply emit_keeps | apply set_keeps | apply showBusy_keeps)
    | (with_reducible apply Keeps.ite)
    | split
    | (with_reducible apply foldl_keepsAll)
    | dsimp only
    | (with_reducible intro _ _ _)
    | (with_reducible intro _ _)
    | (with_reducible intro _)

theorem endIf_keeps {r : State} (a0) (a1) (a2) {s : State} (h : Keeps r s) :
    Keeps r (endIf a0 a1 a2 s) := by
  unfold endIf
  repeat' first
    | with_reducible assumption
    | with_reducible apply endBatch_keeps
    | split

theorem execSteepBatchEnd_keeps {r : State} (a0) (a1) {s : State} (h : Keeps r s) :
    OutKeeps r (execSteepBatchEnd a0 a1 s) := by
  unfold execSteepBatchEnd
  repeat' first
    | with_reducible assumption
    | with_reducible apply OutKeeps.next
    | (with_reducible first | apply endIf_keeps)
    | (with_reducible apply Keeps.ite)
    | split
    | (with_reducible apply foldl_keepsAll)
    | dsimp only
    | (with_reducible intro _ _ _)
    | (with_reducible intro _ _)
    | (with_reducible intro _)

theorem execEraseBatchEnd_keeps {r : State} (a0) (a1) {s : State} (h : Keeps r s) :
    OutKeeps r (execEraseBatchEnd a0 a1 s) := by
  unfold execEraseBatchEnd
  repeat' first
    | with_reducible assumption
    | with_reducible apply OutKeeps.next
    | (with_reducible first | apply endIf_keeps)
    | (with_reducible apply Keeps.ite)
    | split
    | (with_reducible apply foldl_keepsAll)
    | dsimp only
    | (with_reducible intro _ _ _)
    | (with_reducible intro _ _)
    | (with_reducible intro _)

theorem execReadbackBatchEnd_keeps {r : State} (a0) (a1) {s : State} (h : Keeps r s) :
    OutKeeps r (execReadbackBatchEnd a0 a1 s) := by
  unfold execReadbackBatchEnd
  repeat' first
    | with_reducible assumption
    | with_reducible apply OutKeeps.next
    | with_reducible apply endIf_keeps

theorem execReadbackTimeout_keeps {r : State} (a0) {s : State} (h : Keeps r s) :
    OutKeeps r (execReadbackTimeout a0 s) := by
  unfold execReadbackTimeout
  repeat' first
    | with_reducible assumption
    | with_reducible apply OutKeeps.next
    | with_reducible apply endBatch_keeps
    | split

end Sys2Proof.Machine
end

