-- ==== Sys2Proof/Laws/Keeps/Attn.lean ====
section
/-! SUPPORT. The effects of Machine/Attn.lean keep the queue, the fuses and soundness. -/
namespace Sys2Proof.Machine

theorem headRows_keeps {r : State} (a0) (a1) {s : State} (h : Keeps r s) :
    Keeps r (headRows a0 a1 s).2 := by
  unfold headRows
  repeat' first
    | with_reducible assumption
    | with_reducible apply freeBytes_keeps

theorem pageSet_keeps {r : State} (a0) (a1) (a2) {s : State} (h : Keeps r s) :
    Keeps r (pageSet a0 a1 a2 s).2 := by
  unfold pageSet
  repeat' first
    | with_reducible assumption
    | (with_reducible first | apply unitLine_keeps | apply when_keepsAll | apply bump_keeps)
    | (with_reducible apply Keeps.ite)
    | split
    | (with_reducible apply foldl_keepsAll)
    | dsimp only
    | (with_reducible intro _ _ _)
    | (with_reducible intro _ _)
    | (with_reducible intro _)

theorem appendOut_keeps {r : State} (a0) (a1) (a2) {s : State} (h : Keeps r s) :
    Keeps r (appendOut a0 a1 a2 s) := by
  unfold appendOut
  repeat' first
    | with_reducible assumption
    | (with_reducible first | apply freeBytes_keeps | apply writeRow_keeps)

theorem attnVoid_keeps {r : State} (a0) (a1) (a2) {s : State} (h : Keeps r s) :
    Keeps r (attnVoid a0 a1 a2 s) := by
  unfold attnVoid
  repeat' first
    | with_reducible assumption
    | (with_reducible first | apply signal_keeps | apply each_keepsAll | apply markRow_keeps)
    | (with_reducible intro _)

theorem attnAppend_keeps {r : State} (a0) (a1) {s : State} (h : Keeps r s) :
    Keeps r (attnAppend a0 a1 s) := by
  unfold attnAppend
  repeat' first
    | with_reducible assumption
    | (with_reducible first | apply attnVoid_keeps | apply readRows_keeps | apply pageSet_keeps | apply signal_keeps | apply appendOut_keeps | apply bump_keeps | apply addOp_keeps | apply each_keepsAll | apply storeLine_keeps)
    | (with_reducible apply Keeps.ite)
    | split
    | (with_reducible intro _)

theorem execAppend_keeps {r : State} (a0) {s : State} (h : Keeps r s) :
    OutKeeps r (execAppend a0 s) := by
  unfold execAppend
  repeat' first
    | with_reducible assumption
    | with_reducible apply OutKeeps.next
    | (with_reducible first | apply issue_keeps | apply inOrder_keeps | apply attnAppend_keeps)
    | (with_reducible apply Keeps.ite)
    | split
    | (with_reducible apply foldl_keepsAll)
    | dsimp only
    | (with_reducible intro _ _ _)
    | (with_reducible intro _ _)
    | (with_reducible intro _)

theorem scoreEnd_keeps {r : State} (a0) (a1) (a2) (a3) (a4) (a5) (a6) {s : State} (h : Keeps r s) :
    Keeps r (scoreEnd a0 a1 a2 a3 a4 a5 a6 s) := by
  unfold scoreEnd
  repeat' first
    | with_reducible assumption
    | (with_reducible first | apply headRows_keeps | apply freeBytes_keeps | apply writeRow_keeps | apply writeRows_keeps)

theorem pagePlan_keeps {r : State} (a0) (a1) (a2) (a3) (a4) {s : State} (h : Keeps r s) :
    Keeps r (pagePlan a0 a1 a2 a3 a4 s).2 := by
  unfold pagePlan
  repeat' first
    | with_reducible assumption
    | with_reducible apply pageSet_keeps
    | split
    | dsimp only

theorem pagePlans_keeps {r : State} (c w e n : Nat) (l : List Nat) {s : State} (h : Keeps r s) :
    Keeps r (pagePlans c w e n l s).2 := by
  induction l generalizing s with
  | nil => exact h
  | cons x l ih => exact ih (pagePlan_keeps _ _ _ _ _ h)

theorem scoreGot_keeps {r : State} (a0) (a1) (a2) (a3) (a4) {s : State} (h : Keeps r s) :
    Keeps r (scoreGot a0 a1 a2 a3 a4 s) := by
  unfold scoreGot
  repeat' first
    | with_reducible assumption
    | with_reducible apply updCore_keeps

theorem scoreLine_keeps {r : State} (a0) (a1) (a2) (a3) (a4) {s : State} (h : Keeps r s) :
    Keeps r (scoreLine a0 a1 a2 a3 a4 s) := by
  unfold scoreLine
  repeat' first
    | with_reducible assumption
    | (with_reducible first | apply scoreGot_keeps | apply opDone_keeps | apply scoreEnd_keeps)
    | split
    | dsimp only

theorem attnScore_keeps {r : State} (a0) (a1) {s : State} (h : Keeps r s) :
    Keeps r (attnScore a0 a1 s) := by
  unfold attnScore
  repeat' first
    | with_reducible assumption
    | (with_reducible first | apply attnVoid_keeps | apply readRows_keeps | apply readRow_keeps | apply pagePlans_keeps | apply signal_keeps | apply scoreEnd_keeps | apply addOp_keeps | apply each_keepsAll | apply askRead_keeps | apply freeBytes_keeps | apply bump_keeps | apply regionRej_keeps | apply scoreLine_keeps)
    | (with_reducible apply Keeps.ite)
    | split
    | (with_reducible apply foldl_keepsAll)
    | dsimp only
    | (with_reducible intro _ _ _)
    | (with_reducible intro _ _)
    | (with_reducible intro _)

theorem execScore_keeps {r : State} (a0) {s : State} (h : Keeps r s) :
    OutKeeps r (execScore a0 s) := by
  unfold execScore
  repeat' first
    | with_reducible assumption
    | with_reducible apply OutKeeps.next
    | (with_reducible first | apply issue_keeps | apply inOrder_keeps | apply attnScore_keeps)
    | (with_reducible apply Keeps.ite)
    | split
    | (with_reducible apply foldl_keepsAll)
    | dsimp only
    | (with_reducible intro _ _ _)
    | (with_reducible intro _ _)
    | (with_reducible intro _)

theorem attnCombine_keeps {r : State} (a0) (a1) {s : State} (h : Keeps r s) :
    Keeps r (attnCombine a0 a1 s) := by
  unfold attnCombine
  repeat' first
    | with_reducible assumption
    | (with_reducible first | apply attnVoid_keeps | apply readRows_keeps | apply headRows_keeps | apply signal_keeps | apply writeRows_keeps)
    | split

theorem execCombine_keeps {r : State} (a0) {s : State} (h : Keeps r s) :
    OutKeeps r (execCombine a0 s) := by
  unfold execCombine
  repeat' first
    | with_reducible assumption
    | with_reducible apply OutKeeps.next
    | (with_reducible first | apply issue_keeps | apply inOrder_keeps | apply attnCombine_keeps)
    | (with_reducible apply Keeps.ite)
    | split
    | (with_reducible apply foldl_keepsAll)
    | dsimp only
    | (with_reducible intro _ _ _)
    | (with_reducible intro _ _)
    | (with_reducible intro _)

theorem runAttn_keeps {r : State} (a0) (a1) {s : State} (h : Keeps r s) :
    Keeps r (runAttn a0 a1 s) := by
  unfold runAttn
  repeat' first
    | with_reducible assumption
    | (with_reducible first | apply attnAppend_keeps | apply attnScore_keeps | apply attnCombine_keeps)
    | (with_reducible apply Keeps.ite)
    | split
    | (with_reducible apply foldl_keepsAll)
    | dsimp only
    | (with_reducible intro _ _ _)
    | (with_reducible intro _ _)
    | (with_reducible intro _)

theorem adptMis_keeps {r : State} (a0) (a1) (a2) {s : State} (h : Keeps r s) :
    Keeps r (adptMis a0 a1 a2 s) := by
  unfold adptMis
  repeat' first
    | with_reducible assumption
    | (with_reducible first | apply each_keepsAll | apply markRow_keeps | apply bump_keeps | apply signal_keeps | apply raise_keeps)
    | (with_reducible intro _)

theorem adpt_keeps {r : State} (a0) (a1) (a2) {a3} {s : State} (h : Keeps r s) (h3 : ∀ x0 t, Keeps r t → Keeps r (a3 x0 t)) :
    Keeps r (adpt a0 a1 a2 a3 s) := by
  unfold adpt
  repeat' first
    | with_reducible assumption
    | (with_reducible first | apply h3 | apply attnVoid_keeps | apply signal_keeps | apply adptMis_keeps)
    | split

theorem adptDown_keeps {r : State} (a0) (a1) (a2) {s : State} (h : Keeps r s) :
    Keeps r (adptDown a0 a1 a2 s) := by
  unfold adptDown
  repeat' first
    | with_reducible assumption
    | (with_reducible first | apply readRows_keeps | apply freeBytes_keeps | apply writeRow_keeps)

theorem execAdptDown_keeps {r : State} (a0) {s : State} (h : Keeps r s) :
    OutKeeps r (execAdptDown a0 s) := by
  unfold execAdptDown
  repeat' first
    | with_reducible assumption
    | with_reducible apply OutKeeps.next
    | (with_reducible first | apply issue_keeps | apply adpt_keeps | apply adptDown_keeps)
    | (with_reducible intro _)

theorem adptUp_keeps {r : State} (a0) (a1) (a2) {s : State} (h : Keeps r s) :
    Keeps r (adptUp a0 a1 a2 s) := by
  unfold adptUp
  repeat' first
    | with_reducible assumption
    | (with_reducible first | apply readRow_keeps | apply readRows_keeps | apply writeRows_keeps)

theorem execAdptUp_keeps {r : State} (a0) {s : State} (h : Keeps r s) :
    OutKeeps r (execAdptUp a0 s) := by
  unfold execAdptUp
  repeat' first
    | with_reducible assumption
    | with_reducible apply OutKeeps.next
    | (with_reducible first | apply issue_keeps | apply adpt_keeps | apply adptUp_keeps)
    | (with_reducible intro _)

end Sys2Proof.Machine
end

