-- ==== Sys2Proof/Laws/Keeps/CoreCtl.lean ====
section
/-! SUPPORT. The effects of Machine/CoreCtl.lean keep the queue, the fuses and soundness. -/
namespace Sys2Proof.Machine

theorem cmdRej_keeps {r : State} (a0) {s : State} (h : Keeps r s) :
    Keeps r (cmdRej a0 s) := by
  unfold cmdRej
  repeat' first
    | with_reducible assumption
    | with_reducible apply bump_keeps

theorem coreCmd_keeps {r : State} (c : Nat) {f : Nat → Option (State → State)} {s : State} (h : Keeps r s) (hf : ∀ n, OptKeeps r (f n)) :
    Keeps r (coreCmd c f s) := by
  unfold coreCmd
  refine ifNet_keeps h fun t ht => ?_
  split
  · exact cmdRej_keeps _ ht
  · split
    · exact hf _ _ (by assumption) t ht
    · exact cmdRej_keeps _ ht

theorem powerOn_keeps {r : State} (a0) {s : State} (h : Keeps r s) :
    Keeps r (powerOn a0 s) := by
  unfold powerOn
  repeat' first
    | (with_reducible first | apply cmdRej_keeps | apply updCore_keeps)
    | (with_reducible refine Keeps.upd ?_ rfl; with_reducible first | assumption | apply cmdRej_keeps | apply updCore_keeps | split)

theorem execCorePowerOn_keeps {r : State} (a0) {s : State} (h : Keeps r s) :
    OutKeeps r (execCorePowerOn a0 s) := by
  unfold execCorePowerOn
  repeat' first
    | with_reducible assumption
    | with_reducible apply OutKeeps.next
    | (with_reducible first | apply coreCmd_keeps | apply powerOn_keeps)
    | split
    | (with_reducible intro _)
    | (with_reducible first | apply OptKeeps.some | apply OptKeeps.none)

theorem execCorePowerRampStart_keeps {r : State} (a0) {s : State} (h : Keeps r s) :
    OutKeeps r (execCorePowerRampStart a0 s) := by
  unfold execCorePowerRampStart
  repeat' first
    | with_reducible assumption
    | with_reducible apply OutKeeps.next
    | (with_reducible first | apply updCore_keeps | apply moveTo_keeps)
    | split

theorem execCorePowerRampEnd_keeps {r : State} (a0) {s : State} (h : Keeps r s) :
    OutKeeps r (execCorePowerRampEnd a0 s) := by
  unfold execCorePowerRampEnd
  repeat' first
    | with_reducible assumption
    | with_reducible apply OutKeeps.next
    | (with_reducible first | apply setCoreState_keeps | apply wipeSpad_keeps | apply resetCompute_keeps | apply updCore_keeps | apply moveTo_keeps)
    | split

theorem powerDown_keeps {r : State} (a0) (a1) {s : State} (h : Keeps r s) :
    Keeps r (powerDown a0 a1 s) := by
  unfold powerDown
  repeat' first
    | with_reducible assumption
    | (with_reducible first | apply setCoreState_keeps | apply updCore_keeps | apply resetCompute_keeps)

theorem execCorePowerOff_keeps {r : State} (a0) {s : State} (h : Keeps r s) :
    OutKeeps r (execCorePowerOff a0 s) := by
  unfold execCorePowerOff
  repeat' first
    | with_reducible assumption
    | with_reducible apply OutKeeps.next
    | (with_reducible first | apply coreCmd_keeps | apply powerDown_keeps)
    | split
    | (with_reducible intro _)
    | (with_reducible first | apply OptKeeps.some | apply OptKeeps.none)

theorem startReset_keeps {r : State} (a0) {s : State} (h : Keeps r s) :
    Keeps r (startReset a0 s) := by
  unfold startReset
  repeat' first
    | with_reducible assumption
    | (with_reducible first | apply stopUnits_keeps | apply abandonTick_keeps | apply setB_keeps | apply updCore_keeps | apply setCoreState_keeps | apply when_keepsAll | apply raise_keeps)
    | (with_reducible apply Keeps.ite)
    | split
    | (with_reducible apply foldl_keepsAll)
    | dsimp only
    | (with_reducible intro _ _ _)
    | (with_reducible intro _ _)
    | (with_reducible intro _)

theorem execCoreCmdReset_keeps {r : State} (a0) {s : State} (h : Keeps r s) :
    OutKeeps r (execCoreCmdReset a0 s) := by
  unfold execCoreCmdReset
  repeat' first
    | with_reducible assumption
    | with_reducible apply OutKeeps.next
    | (with_reducible first | apply coreCmd_keeps | apply startReset_keeps | apply bump_keeps)
    | split
    | (with_reducible intro _)
    | (with_reducible first | apply OptKeeps.some | apply OptKeeps.none)
    | dsimp only [Function.comp_apply]

theorem proceedReset_keeps {r : State} (a0) {s : State} (h : Keeps r s) :
    Keeps r (proceedReset a0 s) := by
  unfold proceedReset
  repeat' first
    | with_reducible assumption
    | (with_reducible first | apply wipeSpad_keeps | apply resetCompute_keeps)

theorem reretire_keeps {r : State} (a0) {s : State} (h : Keeps r s) :
    Keeps r (reretire a0 s) := by
  unfold reretire
  repeat' first
    | with_reducible assumption
    | (with_reducible first | apply each_keepsAll | apply set_keeps)
    | (with_reducible intro _)

theorem execCoreResetEnd_keeps {r : State} (a0) {s : State} (h : Keeps r s) :
    OutKeeps r (execCoreResetEnd a0 s) := by
  unfold execCoreResetEnd
  repeat' first
    | with_reducible assumption
    | with_reducible apply OutKeeps.next
    | (with_reducible first | apply reretire_keeps | apply setCoreState_keeps)
    | split

theorem fenceCmd_keeps {r : State} (a0) {s : State} (h : Keeps r s) :
    Keeps r (fenceCmd a0 s) := by
  unfold fenceCmd
  repeat' first
    | with_reducible assumption
    | (with_reducible first | apply coreCmd_keeps | apply setCoreState_keeps | apply updCore_keeps | apply resetCompute_keeps)
    | split
    | (with_reducible intro _)
    | (with_reducible first | apply OptKeeps.some | apply OptKeeps.none)
    | dsimp only [Function.comp_apply]

theorem execFence_keeps {r : State} (a0) {s : State} (h : Keeps r s) :
    OutKeeps r (execFence a0 s) := by
  unfold execFence
  repeat' first
    | with_reducible assumption
    | with_reducible apply OutKeeps.next
    | with_reducible apply fenceCmd_keeps

theorem runCmd_keeps {r : State} (a0) {s : State} (h : Keeps r s) :
    Keeps r (runCmd a0 s) := by
  unfold runCmd
  repeat' first
    | with_reducible assumption
    | (with_reducible first | apply coreCmd_keeps | apply setB_keeps)
    | split
    | (with_reducible intro _)
    | (with_reducible first | apply OptKeeps.some | apply OptKeeps.none)

theorem execRun_keeps {r : State} (a0) {s : State} (h : Keeps r s) :
    OutKeeps r (execRun a0 s) := by
  unfold execRun
  repeat' first
    | with_reducible assumption
    | with_reducible apply OutKeeps.next
    | with_reducible apply runCmd_keeps

theorem stopCmd_keeps {r : State} (a0) {s : State} (h : Keeps r s) :
    Keeps r (stopCmd a0 s) := by
  unfold stopCmd
  repeat' first
    | with_reducible assumption
    | (with_reducible first | apply coreCmd_keeps | apply setB_keeps)
    | split
    | (with_reducible intro _)
    | (with_reducible first | apply OptKeeps.some | apply OptKeeps.none)

theorem execStop_keeps {r : State} (a0) {s : State} (h : Keeps r s) :
    OutKeeps r (execStop a0 s) := by
  unfold execStop
  repeat' first
    | with_reducible assumption
    | with_reducible apply OutKeeps.next
    | with_reducible apply stopCmd_keeps

theorem takeMicrocode_keeps {r : State} (a0) (a1) (a2) {s : State} (h : Keeps r s) :
    Keeps r (takeMicrocode a0 a1 a2 s) := by
  unfold takeMicrocode
  repeat' first
    | with_reducible assumption
    | (with_reducible first | apply set_keeps | apply setB_keeps)
    | split

theorem execMicrocodeMulticast_keeps {r : State} (a0) (a1) (a2) {s : State} (h : Keeps r s) :
    OutKeeps r (execMicrocodeMulticast a0 a1 a2 s) := by
  unfold execMicrocodeMulticast
  repeat' first
    | with_reducible assumption
    | with_reducible apply OutKeeps.next
    | with_reducible apply takeMicrocode_keeps

end Sys2Proof.Machine
end

