-- ==== Sys2Proof/Laws/Keeps/Regs.lean ====
section
/-! SUPPORT. The effects of Machine/Regs.lean keep the queue, the fuses and soundness. -/
namespace Sys2Proof.Machine

theorem denied_keeps {r : State} {s : State} (h : Keeps r s) :
    Keeps r (denied s) := by
  unfold denied
  repeat' first
    | with_reducible assumption
    | with_reducible apply bump_keeps

theorem setFor_keeps {r : State} (a0) (a1) (a2) {s : State} (h : Keeps r s) :
    Keeps r (setFor a0 a1 a2 s) := by
  unfold setFor
  repeat' first
    | with_reducible apply set_keeps
    | (with_reducible refine Keeps.upd ?_ rfl; with_reducible first | assumption | apply set_keeps | split)

theorem answer_keeps {r : State} (a0) (a1) {s : State} (h : Keeps r s) :
    Keeps r (answer a0 a1 s) := by
  unfold answer
  repeat' first
    | (with_reducible refine Keeps.upd ?_ rfl; with_reducible first | assumption | split)

theorem putLatch_keeps {r : State} (a0) (a1) {s : State} (h : Keeps r s) :
    Keeps r (putLatch a0 a1 s) := by
  unfold putLatch
  repeat' first
    | (with_reducible refine Keeps.upd ?_ rfl; with_reducible first | assumption | split)

theorem read32_keeps {r : State} (a0) (a1) {s : State} (h : Keeps r s) :
    Keeps r (read32 a0 a1 s) := by
  unfold read32
  repeat' first
    | with_reducible assumption
    | (with_reducible first | apply answer_keeps | apply denied_keeps | apply putLatch_keeps)
    | split

theorem catchUpAt_keeps {r : State} (a0) {s : State} (h : Keeps r s) :
    Keeps r (catchUpAt a0 s) := by
  unfold catchUpAt
  repeat' first
    | with_reducible assumption
    | (with_reducible first | apply latchDue_keeps | apply catchUp_keeps)
    | (with_reducible apply Keeps.ite)
    | split
    | (with_reducible apply foldl_keepsAll)
    | dsimp only
    | (with_reducible intro _ _ _)
    | (with_reducible intro _ _)
    | (with_reducible intro _)

theorem read64_keeps {r : State} (a0) (a1) {s : State} (h : Keeps r s) :
    Keeps r (read64 a0 a1 s) := by
  unfold read64
  repeat' first
    | with_reducible assumption
    | (with_reducible first | apply answer_keeps | apply denied_keeps | apply read32_keeps)
    | (with_reducible apply Keeps.ite)
    | split
    | (with_reducible apply foldl_keepsAll)
    | dsimp only
    | (with_reducible intro _ _ _)
    | (with_reducible intro _ _)
    | (with_reducible intro _)

theorem execRegisterReadLatch_keeps {r : State} (a0) (a1) (a2) (a3) {s : State} (h : Keeps r s) :
    OutKeeps r (execRegisterReadLatch a0 a1 a2 a3 s) := by
  unfold execRegisterReadLatch
  repeat' first
    | with_reducible assumption
    | with_reducible apply OutKeeps.next
    | (with_reducible first | apply read64_keeps | apply catchUpAt_keeps | apply read32_keeps | apply when_keepsAll | apply bump_keeps | apply answer_keeps)
    | (with_reducible apply Keeps.ite)
    | split
    | (with_reducible apply foldl_keepsAll)
    | dsimp only
    | (with_reducible intro _ _ _)
    | (with_reducible intro _ _)
    | (with_reducible intro _)

theorem clearCapture_keeps {r : State} (a0) {s : State} (h : Keeps r s) :
    Keeps r (clearCapture a0 s) := by
  unfold clearCapture
  repeat' first
    | (with_reducible refine Keeps.upd ?_ rfl; with_reducible first | assumption | split)

theorem clearPeak_keeps {r : State} (a0) (a1) {s : State} (h : Keeps r s) :
    Keeps r (clearPeak a0 a1 s) := by
  unfold clearPeak
  repeat' first
    | with_reducible apply when_keepsAll
    | (with_reducible intro _)
    | (with_reducible refine Keeps.upd ?_ rfl; with_reducible first | assumption | apply when_keepsAll | split)

theorem woHook_keeps {r : State} (a0) (a1) (a2) {s : State} (h : Keeps r s) :
    Keeps r (woHook a0 a1 a2 s) := by
  unfold woHook
  repeat' first
    | with_reducible assumption
    | (with_reducible first | apply when_keepsAll | apply bump_keeps)
    | split

theorem gateHook_keeps {r : State} (a0) (a1) {s : State} (h : Keeps r s) :
    Keeps r (gateHook a0 a1 s) := by
  unfold gateHook
  repeat' first
    | with_reducible assumption
    | (with_reducible first | apply when_keepsAll | apply bump_keeps)

theorem retick_keeps {r : State} {s : State} (h : Keeps r s) :
    Keeps r (retick s) := by
  unfold retick
  repeat' first
    | with_reducible assumption
    | (with_reducible first | apply when_keepsAll | apply setB_keeps | apply set_keeps)
    | (with_reducible apply Keeps.ite)
    | split
    | (with_reducible apply foldl_keepsAll)
    | dsimp only
    | (with_reducible intro _ _ _)
    | (with_reducible intro _ _)
    | (with_reducible intro _)
    | (with_reducible refine Keeps.upd ?_ rfl; with_reducible first | assumption | apply when_keepsAll | apply setB_keeps | apply set_keeps | split)

theorem envHook_keeps {r : State} (a0) (a1) (a2) {s : State} (h : Keeps r s) :
    Keeps r (envHook a0 a1 a2 s) := by
  unfold envHook
  repeat' first
    | with_reducible assumption
    | with_reducible apply shadowWrite_keeps
    | split
    | dsimp only

theorem noParent_keeps {r : State} {s : State} (h : Keeps r s) :
    Keeps r (noParent s) := by
  unfold noParent
  repeat' first
    | with_reducible assumption
    | (with_reducible first | apply ownTime_keeps)
    | (with_reducible apply Keeps.ite)
    | split
    | (with_reducible apply foldl_keepsAll)
    | dsimp only
    | (with_reducible intro _ _ _)
    | (with_reducible intro _ _)
    | (with_reducible intro _)

theorem rwlHook_keeps {r : State} (a0) (a1) (a2) {s : State} (h : Keeps r s) :
    Keeps r (rwlHook a0 a1 a2 s) := by
  unfold rwlHook
  repeat' first
    | with_reducible assumption
    | (with_reducible first | apply retick_keeps | apply noParent_keeps | apply envHook_keeps)
    | (with_reducible apply Keeps.ite)
    | split
    | (with_reducible apply foldl_keepsAll)
    | dsimp only
    | (with_reducible intro _ _ _)
    | (with_reducible intro _ _)
    | (with_reducible intro _)

theorem writeField_keeps {r : State} (a0) (a1) (a2) (a3) (a4) (a5) (a6) {s : State} (h : Keeps r s) :
    Keeps r (writeField a0 a1 a2 a3 a4 a5 a6 s) := by
  unfold writeField
  repeat' first
    | with_reducible assumption
    | (with_reducible first | apply woHook_keeps | apply clearPeak_keeps | apply set_keeps | apply when_keepsAll | apply clearCapture_keeps | apply setFor_keeps | apply rwlHook_keeps | apply bump_keeps | apply shadowWrite_keeps)
    | (with_reducible apply Keeps.ite)
    | split

theorem writeReg_keeps {r : State} (a0) (a1) (a2) (a3) (a4) {s : State} (h : Keeps r s) :
    Keeps r (writeReg a0 a1 a2 a3 a4 s) := by
  unfold writeReg
  repeat' first
    | with_reducible assumption
    | (with_reducible first | apply each_keepsAll | apply writeField_keeps | apply raise_keeps | apply bump_keeps)
    | split

theorem writeProg_keeps {r : State} (a0) (a1) (a2) {s : State} (h : Keeps r s) :
    Keeps r (writeProg a0 a1 a2 s) := by
  unfold writeProg
  repeat' first
    | (with_reducible first | apply raise_keeps | apply bump_keeps)
    | (with_reducible refine Keeps.updMem ?_ ?_ rfl; rotate_left; (rw [Mems.wf_iff, Mems.wf_iff]; rintro ⟨h1, h2, h3, h4, h5, h6, h7, h8, h9⟩; refine ⟨?_, ?_, ?_, ?_, ?_, ?_, ?_, ?_, ?_⟩ <;> repeat' (with_reducible first | assumption | exact SMap.wf_nil | exact NSet.wf_nil | apply SMap.wf_cond | apply NSet.wf_cond | apply wf_wrBytes | apply SMap.wf_put | apply SMap.wf_del | apply SMap.wf_erase | apply SMap.wf_filter | apply NSet.wf_add | apply NSet.wf_erase | apply NSet.wf_del | apply NSet.wf_filter | apply NSet.wf_foldl_add | apply SMap.wf_foldl_put | split)))
    | (with_reducible refine Keeps.upd ?_ rfl; with_reducible first | assumption | apply raise_keeps | apply bump_keeps | split)

theorem noteCal_keeps {r : State} (a0) (a1) {s : State} (h : Keeps r s) :
    Keeps r (noteCal a0 a1 s) := by
  unfold noteCal
  repeat' first
    | with_reducible assumption
    | (with_reducible first | apply each_keepsAll | apply updFw_keeps)
    | (with_reducible apply Keeps.ite)
    | split
    | (with_reducible apply foldl_keepsAll)
    | dsimp only
    | (with_reducible intro _ _ _)
    | (with_reducible intro _ _)
    | (with_reducible intro _)

theorem writeBits_keeps {r : State} (a0) (a1) (a2) (a3) {s : State} (h : Keeps r s) :
    Keeps r (writeBits a0 a1 a2 a3 s) := by
  unfold writeBits
  repeat' first
    | with_reducible assumption
    | (with_reducible first | apply denied_keeps | apply writeProg_keeps | apply each_keepsAll | apply writeReg_keeps | apply gateHook_keeps | apply noteCal_keeps)
    | (with_reducible apply Keeps.ite)
    | split
    | (with_reducible apply foldl_keepsAll)
    | dsimp only
    | (with_reducible intro _ _ _)
    | (with_reducible intro _ _)
    | (with_reducible intro _)

theorem execRegisterWrite_keeps {r : State} (a0) (a1) (a2) (a3) (a4) {s : State} (h : Keeps r s) :
    OutKeeps r (execRegisterWrite a0 a1 a2 a3 a4 s) := by
  unfold execRegisterWrite
  repeat' first
    | with_reducible assumption
    | with_reducible apply OutKeeps.next
    | (with_reducible first | apply writePage_keeps | apply catchUpAt_keeps | apply writeBits_keeps)
    | (with_reducible apply Keeps.ite)
    | split
    | (with_reducible apply foldl_keepsAll)
    | dsimp only
    | (with_reducible intro _ _ _)
    | (with_reducible intro _ _)
    | (with_reducible intro _)

theorem takeSnap_keeps {r : State} (a0) (a1) {s : State} (h : Keeps r s) :
    Keeps r (takeSnap a0 a1 s) := by
  unfold takeSnap
  repeat' first
    | with_reducible apply set_keeps
    | (with_reducible refine Keeps.upd ?_ rfl; with_reducible first | assumption | apply set_keeps | split)

theorem undoSnap_keeps {r : State} (a0) {s : State} (h : Keeps r s) :
    Keeps r (undoSnap a0 s) := by
  unfold undoSnap
  repeat' first
    | with_reducible assumption
    | (with_reducible first | apply set_keeps)
    | (with_reducible apply Keeps.ite)
    | split
    | (with_reducible apply foldl_keepsAll)
    | dsimp only
    | (with_reducible intro _ _ _)
    | (with_reducible intro _ _)
    | (with_reducible intro _)
    | (with_reducible refine Keeps.upd ?_ rfl; with_reducible first | assumption | apply set_keeps | split)

theorem agentSnap_keeps {r : State} (a0) (a1) (a2) {s : State} (h : Keeps r s) :
    Keeps r (agentSnap a0 a1 a2 s) := by
  unfold agentSnap
  repeat' first
    | with_reducible assumption
    | (with_reducible first | apply takeSnap_keeps | apply undoSnap_keeps)
    | (with_reducible apply Keeps.ite)
    | split
    | (with_reducible apply foldl_keepsAll)
    | dsimp only
    | (with_reducible intro _ _ _)
    | (with_reducible intro _ _)
    | (with_reducible intro _)
    | (with_reducible refine Keeps.upd ?_ rfl; with_reducible first | assumption | apply takeSnap_keeps | apply undoSnap_keeps | split)

theorem execSnapTake_keeps {r : State} (a0) (a1) (a2) {s : State} (h : Keeps r s) :
    OutKeeps r (execSnapTake a0 a1 a2 s) := by
  unfold execSnapTake
  repeat' first
    | with_reducible assumption
    | with_reducible apply OutKeeps.next
    | (with_reducible first | apply denied_keeps | apply agentSnap_keeps | apply catchUpAt_keeps)
    | (with_reducible apply Keeps.ite)
    | split
    | (with_reducible apply foldl_keepsAll)
    | dsimp only
    | (with_reducible intro _ _ _)
    | (with_reducible intro _ _)
    | (with_reducible intro _)

end Sys2Proof.Machine
end

