-- ==== Sys2Proof/Laws/Keeps/Serve.lean ====
section
/-! SUPPORT. The effects of Machine/Serve.lean keep the queue, the fuses and soundness. -/
namespace Sys2Proof.Machine

theorem updSrv_keeps {r : State} (a0) (a1) {s : State} (h : Keeps r s) :
    Keeps r (updSrv a0 a1 s) := by
  unfold updSrv
  repeat' first
    | (with_reducible refine Keeps.upd ?_ rfl; with_reducible first | assumption | split)

theorem setEnt_keeps {r : State} (a0) (a1) {s : State} (h : Keeps r s) :
    Keeps r (setEnt a0 a1 s) := by
  unfold setEnt
  repeat' first
    | with_reducible assumption
    | with_reducible apply set_keeps

theorem showKv_keeps {r : State} (a0) {s : State} (h : Keeps r s) :
    Keeps r (showKv a0 s) := by
  unfold showKv
  repeat' first
    | with_reducible assumption
    | with_reducible apply set_keeps
    | split

theorem showInUse_keeps {r : State} {s : State} (h : Keeps r s) :
    Keeps r (showInUse s) := by
  unfold showInUse
  repeat' first
    | with_reducible assumption
    | with_reducible apply set_keeps

theorem writeList_keeps {r : State} (a0) (a1) (a2) {s : State} (h : Keeps r s) :
    Keeps r (writeList a0 a1 a2 s) := by
  unfold writeList
  repeat' first
    | with_reducible assumption
    | (with_reducible first | apply writeSpan_keeps)
    | (with_reducible apply Keeps.ite)
    | split
    | (with_reducible apply foldl_keepsAll)
    | dsimp only
    | (with_reducible intro _ _ _)
    | (with_reducible intro _ _)
    | (with_reducible intro _)

theorem allocSet_keeps {r : State} (n e p : Nat) {s t : State} (h : Keeps r s) (ht : allocSet n e p s = some t) : Keeps r t := by
  unfold allocSet at ht
  dsimp only at ht
  split at ht
  · cases ht; exact h
  · split at ht
    · cases ht
    · cases ht; exact writeList_keeps _ _ _ (updSrv_keeps _ _ h)

theorem freeSets_keeps {r : State} (a0) (a1) {s : State} (h : Keeps r s) :
    Keeps r (freeSets a0 a1 s) := by
  unfold freeSets
  repeat' first
    | with_reducible assumption
    | (with_reducible first | apply each_keepsAll | apply writeList_keeps | apply updSrv_keeps)
    | (with_reducible intro _)

theorem ringPut_keeps {r : State} (a0) (a1) {s : State} (h : Keeps r s) :
    Keeps r (ringPut a0 a1 s) := by
  unfold ringPut
  repeat' first
    | with_reducible assumption
    | (with_reducible first | apply set_keeps | apply setEnt_keeps)

theorem ringWindow_keeps {r : State} (a0) {s : State} (h : Keeps r s) :
    Keeps r (ringWindow a0 s).2 := by
  unfold ringWindow
  repeat' first
    | with_reducible assumption
    | with_reducible apply bump_keeps
    | split
    | dsimp only

theorem stage_keeps {r : State} (a0) (a1) {s : State} (h : Keeps r s) :
    Keeps r (stage a0 a1 s) := by
  unfold stage
  repeat' first
    | with_reducible assumption
    | with_reducible apply updSrv_keeps

theorem noticeMembers_keeps {r : State} (a0) (a1) (a2) {s : State} (h : Keeps r s) :
    Keeps r (noticeMembers a0 a1 a2 s) := by
  unfold noticeMembers
  repeat' first
    | with_reducible assumption
    | (with_reducible first | apply emit_keeps)
    | (with_reducible apply Keeps.ite)
    | split
    | (with_reducible apply foldl_keepsAll)
    | dsimp only
    | (with_reducible intro _ _ _)
    | (with_reducible intro _ _)
    | (with_reducible intro _)

theorem sendNotice_keeps {r : State} (a0) (a1) (a2) {s : State} (h : Keeps r s) :
    Keeps r (sendNotice a0 a1 a2 s) := by
  unfold sendNotice
  repeat' first
    | with_reducible assumption
    | (with_reducible first | apply noticeMembers_keeps | apply updSrv_keeps)
    | (with_reducible apply Keeps.ite)
    | split
    | (with_reducible apply foldl_keepsAll)
    | dsimp only
    | (with_reducible intro _ _ _)
    | (with_reducible intro _ _)
    | (with_reducible intro _)

theorem tellAt_keeps {r : State} (a0) (a1) (a2) {s : State} (h : Keeps r s) :
    Keeps r (tellAt a0 a1 a2 s) := by
  unfold tellAt
  repeat' first
    | with_reducible assumption
    | (with_reducible first | apply sendNotice_keeps)
    | (with_reducible apply Keeps.ite)
    | split
    | (with_reducible apply foldl_keepsAll)
    | dsimp only
    | (with_reducible intro _ _ _)
    | (with_reducible intro _ _)
    | (with_reducible intro _)

theorem charge_keeps {r : State} (a0) (a1) {s : State} (h : Keeps r s) :
    Keeps r (charge a0 a1 s) := by
  unfold charge
  repeat' first
    | with_reducible assumption
    | with_reducible apply set_keeps

theorem bumpSlot_keeps {r : State} (a0) {s : State} (h : Keeps r s) :
    Keeps r (bumpSlot a0 s) := by
  unfold bumpSlot
  repeat' first
    | with_reducible assumption
    | (with_reducible first | apply set_keeps)
    | (with_reducible apply Keeps.ite)
    | split
    | (with_reducible apply foldl_keepsAll)
    | dsimp only
    | (with_reducible intro _ _ _)
    | (with_reducible intro _ _)
    | (with_reducible intro _)

theorem unbindSlot_keeps {r : State} (a0) {s : State} (h : Keeps r s) :
    Keeps r (unbindSlot a0 s) := by
  unfold unbindSlot
  repeat' first
    | with_reducible assumption
    | (with_reducible first | apply setB_keeps | apply set_keeps)
    | split

theorem releaseLane_keeps {r : State} (a0) (a1) (a2) {s : State} (h : Keeps r s) :
    Keeps r (releaseLane a0 a1 a2 s) := by
  unfold releaseLane
  repeat' first
    | with_reducible assumption
    | (with_reducible first | apply sendNotice_keeps)
    | (with_reducible apply Keeps.ite)
    | split
    | (with_reducible apply foldl_keepsAll)
    | dsimp only
    | (with_reducible intro _ _ _)
    | (with_reducible intro _ _)
    | (with_reducible intro _)

theorem finish_keeps {r : State} (a0) (a1) (a2) (a3) (a4) (a5) {s : State} (h : Keeps r s) :
    Keeps r (finish a0 a1 a2 a3 a4 a5 s) := by
  unfold finish
  repeat' first
    | with_reducible assumption
    | (with_reducible first | apply unbindSlot_keeps | apply set_keeps | apply setEnt_keeps | apply bump_keeps | apply noticeMembers_keeps | apply updSrv_keeps | apply releaseLane_keeps | apply stage_keeps)
    | dsimp only [id]
    | (with_reducible apply Keeps.ite)
    | split
    | (with_reducible apply foldl_keepsAll)
    | dsimp only
    | (with_reducible intro _ _ _)
    | (with_reducible intro _ _)
    | (with_reducible intro _)

theorem pushToken_keeps {r : State} (a0) (a1) {s : State} (h : Keeps r s) :
    Keeps r (pushToken a0 a1 s) := by
  unfold pushToken
  repeat' first
    | with_reducible assumption
    | (with_reducible first | apply upTo_keepsAll | apply set_keeps)
    | (with_reducible intro _)

theorem measureLatency_keeps {r : State} (a0) (a1) {s : State} (h : Keeps r s) :
    Keeps r (measureLatency a0 a1 s) := by
  unfold measureLatency
  repeat' first
    | with_reducible assumption
    | (with_reducible first | apply when_keepsAll | apply bump_keeps | apply set_keeps)
    | split

theorem outToken_keeps {r : State} (a0) (a1) (a2) (a3) (a4) {s : State} (h : Keeps r s) :
    Keeps r (outToken a0 a1 a2 a3 a4 s) := by
  unfold outToken
  repeat' first
    | with_reducible assumption
    | (with_reducible first | apply set_keeps | apply stage_keeps)

theorem giveUpRun_keeps {r : State} (a0) (a1) {s : State} (h : Keeps r s) :
    Keeps r (giveUpRun a0 a1 s) := by
  unfold giveUpRun
  repeat' first
    | with_reducible assumption
    | (with_reducible first | apply updSrv_keeps | apply set_keeps)
    | split

theorem waitBudget_keeps {r : State} (a0) (a1) (a2) {s : State} (h : Keeps r s) :
    Keeps r (waitBudget a0 a1 a2 s) := by
  unfold waitBudget
  repeat' first
    | with_reducible assumption
    | (with_reducible first | apply when_keepsAll | apply tellAt_keeps | apply releaseLane_keeps | apply bump_keeps | apply giveUpRun_keeps | apply setEnt_keeps)
    | (with_reducible apply Keeps.ite)
    | split
    | (with_reducible apply foldl_keepsAll)
    | dsimp only
    | (with_reducible intro _ _ _)
    | (with_reducible intro _ _)
    | (with_reducible intro _)

theorem outputChecks_keeps {r : State} (a0) (a1) (a2) (a3) (a4) {s : State} (h : Keeps r s) :
    Keeps r (outputChecks a0 a1 a2 a3 a4 s) := by
  unfold outputChecks
  repeat' first
    | with_reducible assumption
    | (with_reducible first | apply when_keepsAll | apply outToken_keeps | apply finish_keeps | apply pushToken_keeps | apply measureLatency_keeps | apply waitBudget_keeps)
    | (with_reducible apply Keeps.ite)

theorem prefillChecks_keeps {r : State} (a0) (a1) (a2) (a3) {s : State} (h : Keeps r s) :
    Keeps r (prefillChecks a0 a1 a2 a3 s) := by
  unfold prefillChecks
  repeat' first
    | with_reducible assumption
    | (with_reducible first | apply finish_keeps | apply waitBudget_keeps)
    | (with_reducible apply Keeps.ite)

theorem toDecode_keeps {r : State} (a0) {s : State} (h : Keeps r s) :
    Keeps r (toDecode a0 s) := by
  unfold toDecode
  repeat' first
    | with_reducible assumption
    | with_reducible apply setEnt_keeps
    | (with_reducible apply Keeps.ite)

theorem commitStep_keeps {r : State} (a0) (a1) (a2) (a3) {s : State} (h : Keeps r s) :
    Keeps r (commitStep a0 a1 a2 a3 s) := by
  unfold commitStep
  repeat' first
    | with_reducible assumption
    | (with_reducible first | apply toDecode_keeps | apply set_keeps | apply bump_keeps | apply when_keepsAll | apply finish_keeps | apply charge_keeps | apply prefillChecks_keeps | apply outputChecks_keeps)
    | (with_reducible apply Keeps.ite)

theorem loseStep_keeps {r : State} (a0) (a1) (a2) (a3) (a4) (a5) {s : State} (h : Keeps r s) :
    Keeps r (loseStep a0 a1 a2 a3 a4 a5 s) := by
  unfold loseStep
  repeat' first
    | with_reducible assumption
    | (with_reducible first | apply ringPut_keeps | apply upTo_keepsAll | apply set_keeps | apply bump_keeps | apply when_keepsAll | apply updSrv_keeps | apply finish_keeps)
    | (with_reducible apply Keeps.ite)
    | (with_reducible intro _ _ _)

theorem settle_keeps {r : State} (a0) (a1) (a2) (a3) {s : State} (h : Keeps r s) :
    Keeps r (settle a0 a1 a2 a3 s).2 := by
  unfold settle
  repeat' first
    | with_reducible assumption
    | (with_reducible first | apply ringWindow_keeps | apply bump_keeps | apply loseStep_keeps | apply commitStep_keeps)
    | (with_reducible apply Keeps.ite)
    | split
    | (with_reducible apply foldl_keepsAll)
    | dsimp only
    | (with_reducible intro _ _ _)
    | (with_reducible intro _ _)
    | (with_reducible intro _)

theorem enter_keeps {r : State} (a0) (a1) (a2) (a3) {s : State} (h : Keeps r s) :
    Keeps r (enter a0 a1 a2 a3 s).2 := by
  unfold enter
  repeat' first
    | with_reducible assumption
    | with_reducible apply bump_keeps
    | exact allocSet_keeps _ _ _ (by with_reducible assumption) (by assumption)
    | split

theorem startXfer_keeps {r : State} (a0) (a1) (a2) {s : State} (h : Keeps r s) :
    Keeps r (startXfer a0 a1 a2 s) := by
  unfold startXfer
  repeat' first
    | with_reducible assumption
    | (with_reducible first | apply setEnt_keeps | apply updSrv_keeps)
    | (with_reducible apply Keeps.ite)
    | split
    | (with_reducible apply foldl_keepsAll)
    | dsimp only
    | (with_reducible intro _ _ _)
    | (with_reducible intro _ _)
    | (with_reducible intro _)

theorem kvWant_keeps {r : State} (a0) (a1) (a2) (a3) {s : State} (h : Keeps r s) :
    Keeps r (kvWant a0 a1 a2 a3 s) := by
  unfold kvWant
  repeat' first
    | with_reducible assumption
    | (with_reducible first | apply finish_keeps | apply tellAt_keeps | apply startXfer_keeps)
    | (with_reducible apply Keeps.ite)
    | split
    | (with_reducible apply foldl_keepsAll)
    | dsimp only
    | (with_reducible intro _ _ _)
    | (with_reducible intro _ _)
    | (with_reducible intro _)

theorem nextStep_keeps {r : State} (a0) (a1) (a2) (a3) {s : State} (h : Keeps r s) :
    Keeps r (nextStep a0 a1 a2 a3 s).2 := by
  unfold nextStep
  repeat' first
    | with_reducible assumption
    | (with_reducible first | apply updSrv_keeps | apply when_keepsAll | apply setEnt_keeps | apply enter_keeps | apply kvWant_keeps)
    | split
    | dsimp only

theorem shiftRing_keeps {r : State} (a0) (a1) (a2) (a3) {s : State} (h : Keeps r s) :
    Keeps r (shiftRing a0 a1 a2 a3 s) := by
  unfold shiftRing
  repeat' first
    | with_reducible assumption
    | (with_reducible first | apply nextStep_keeps | apply upTo_keepsAll | apply ringPut_keeps)
    | (with_reducible intro _)

theorem putEntry_keeps {r : State} (a0) (a1) {s : State} (h : Keeps r s) :
    Keeps r (putEntry a0 a1 s) := by
  unfold putEntry
  repeat' first
    | with_reducible assumption
    | (with_reducible first | apply each_keepsAll | apply set_keeps)
    | (with_reducible intro _)

theorem bindWaiting_keeps {r : State} (a0) (a1) (a2) (a3) {s : State} (h : Keeps r s) :
    Keeps r (bindWaiting a0 a1 a2 a3 s) := by
  unfold bindWaiting
  repeat' first
    | with_reducible assumption
    | (with_reducible first | apply each_keepsAll | apply tellAt_keeps | apply updSrv_keeps | apply set_keeps | apply setB_keeps)
    | (with_reducible apply Keeps.ite)
    | split
    | (with_reducible apply foldl_keepsAll)
    | dsimp only
    | (with_reducible intro _ _ _)
    | (with_reducible intro _ _)
    | (with_reducible intro _)

theorem putAslot_keeps {r : State} (a0) (a1) (a2) (a3) (a4) {s : State} (h : Keeps r s) :
    Keeps r (putAslot a0 a1 a2 a3 a4 s) := by
  unfold putAslot
  repeat' first
    | with_reducible assumption
    | (with_reducible first | apply when_keepsAll | apply upTo_keepsAll | apply bindWaiting_keeps | apply setBoth_keeps)
    | (with_reducible intro _)

theorem restoreSets_keeps {r : State} (n e : Nat) {s : State} (h : Keeps r s) : Keeps r (restoreSets n e s) := by
  unfold restoreSets
  refine upTo_keepsAll _ h fun p t ht => ?_
  cases hx : allocSet n e p t with
  | none => exact ht
  | some u => exact allocSet_keeps _ _ _ ht hx

theorem keepOwn_keeps {r : State} (a0) (a1) {s : State} (h : Keeps r s) :
    Keeps r (keepOwn a0 a1 s) := by
  unfold keepOwn
  repeat' first
    | with_reducible assumption
    | (with_reducible first | apply setB_keeps | apply set_keeps)
    | (with_reducible apply Keeps.ite)
    | split
    | (with_reducible apply foldl_keepsAll)
    | dsimp only
    | (with_reducible intro _ _ _)
    | (with_reducible intro _ _)
    | (with_reducible intro _)

theorem bindSlot_keeps {r : State} (a0) {s : State} (h : Keeps r s) :
    Keeps r (bindSlot a0 s) := by
  unfold bindSlot
  repeat' first
    | with_reducible assumption
    | (with_reducible first | apply when_keepsAll | apply bumpSlot_keeps)
    | (with_reducible apply Keeps.ite)
    | split
    | (with_reducible apply foldl_keepsAll)
    | dsimp only
    | (with_reducible intro _ _ _)
    | (with_reducible intro _ _)
    | (with_reducible intro _)

theorem takeEntry_keeps {r : State} (a0) (a1) (a2) {s : State} (h : Keeps r s) :
    Keeps r (takeEntry a0 a1 a2 s) := by
  unfold takeEntry
  repeat' first
    | with_reducible assumption
    | (with_reducible first | apply bindSlot_keeps | apply keepOwn_keeps | apply putEntry_keeps | apply unbindSlot_keeps | apply updSrv_keeps | apply freeSets_keeps | apply startXfer_keeps | apply restoreSets_keeps)
    | (with_reducible apply Keeps.ite)
    | split
    | (with_reducible apply foldl_keepsAll)
    | dsimp only
    | (with_reducible intro _ _ _)
    | (with_reducible intro _ _)
    | (with_reducible intro _)

theorem applyNotice_keeps {r : State} (a0) (a1) (a2) (a3) {s : State} (h : Keeps r s) :
    Keeps r (applyNotice a0 a1 a2 a3 s) := by
  unfold applyNotice
  repeat' first
    | with_reducible assumption
    | (with_reducible first | apply takeEntry_keeps | apply when_keepsAll | apply finish_keeps | apply toDecode_keeps | apply set_keeps | apply setB_keeps | apply updSrv_keeps | apply setEnt_keeps | apply putAslot_keeps)
    | (with_reducible apply Keeps.ite)
    | split
    | (with_reducible apply foldl_keepsAll)
    | dsimp only
    | (with_reducible intro _ _ _)
    | (with_reducible intro _ _)
    | (with_reducible intro _)

theorem dueNotices_keeps {r : State} (a0) (a1) (a2) {s : State} (h : Keeps r s) :
    Keeps r (dueNotices a0 a1 a2 s) := by
  unfold dueNotices
  repeat' first
    | with_reducible assumption
    | (with_reducible first | apply updSrv_keeps | apply each_keepsAll | apply applyNotice_keeps)
    | (with_reducible intro _)

theorem bindLane_keeps {r : State} (a0) (a1) (a2) {s : State} (h : Keeps r s) :
    Keeps r (bindLane a0 a1 a2 s) := by
  unfold bindLane
  repeat' first
    | with_reducible assumption
    | (with_reducible first | apply sendNotice_keeps | apply set_keeps | apply setB_keeps)
    | split

theorem bindNext_keeps {r : State} (n m : Nat) {s t : State} (h : Keeps r s) (ht : bindNext n m s = some t) : Keeps r t := by
  unfold bindNext at ht
  split at ht
  · cases ht
  · split at ht
    · cases ht
    · cases ht; exact bindLane_keeps _ _ _ h

theorem bindAll_keeps {r : State} (n m k : Nat) {s : State} (h : Keeps r s) : Keeps r (bindAll n m k s) := by
  induction k generalizing s with
  | zero => exact h
  | succ k ih =>
    rw [bindAll]
    split
    · with_reducible assumption
    · exact ih (bindNext_keeps _ _ h (by assumption))

theorem assignPrefill_keeps {r : State} (a0) (a1) {s : State} (h : Keeps r s) :
    Keeps r (assignPrefill a0 a1 s) := by
  unfold assignPrefill
  repeat' first
    | with_reducible assumption
    | (with_reducible first | apply sendNotice_keeps | apply updSrv_keeps | apply set_keeps)
    | split
    | dsimp only

theorem backPressure_keeps {r : State} (a0) (a1) {s : State} (h : Keeps r s) :
    Keeps r (backPressure a0 a1 s) := by
  unfold backPressure
  repeat' first
    | with_reducible assumption
    | (with_reducible first | apply each_keepsAll | apply tellAt_keeps | apply releaseLane_keeps | apply setEnt_keeps)
    | (with_reducible apply Keeps.ite)
    | split
    | (with_reducible apply foldl_keepsAll)
    | dsimp only
    | (with_reducible intro _ _ _)
    | (with_reducible intro _ _)
    | (with_reducible intro _)

theorem waiting_keeps {r : State} (a0) (a1) (a2) {s : State} (h : Keeps r s) :
    Keeps r (waiting a0 a1 a2 s) := by
  unfold waiting
  repeat' first
    | with_reducible assumption
    | (with_reducible first | apply finish_keeps | apply tellAt_keeps | apply setEnt_keeps | apply each_keepsAll)
    | (with_reducible apply Keeps.ite)
    | split
    | (with_reducible apply foldl_keepsAll)
    | dsimp only
    | (with_reducible intro _ _ _)
    | (with_reducible intro _ _)
    | (with_reducible intro _)

theorem markLost_keeps {r : State} (a0) {s : State} (h : Keeps r s) :
    Keeps r (markLost a0 s) := by
  unfold markLost
  repeat' first
    | with_reducible assumption
    | (with_reducible first | apply each_keepsAll | apply set_keeps | apply updCore_keeps)
    | split
    | (with_reducible intro _ _ _)

theorem serveWith_keeps {r : State} (a0) (a1) (a2) (a3) {s : State} (h : Keeps r s) :
    Keeps r (serveWith a0 a1 a2 a3 s) := by
  unfold serveWith
  repeat' first
    | with_reducible assumption
    | (with_reducible first | apply dueNotices_keeps | apply settle_keeps | apply shiftRing_keeps | apply waiting_keeps | apply bindAll_keeps | apply assignPrefill_keeps | apply backPressure_keeps | apply showInUse_keeps | apply showKv_keeps)
    | (with_reducible apply Keeps.ite)
    | split
    | (with_reducible apply foldl_keepsAll)
    | dsimp only
    | (with_reducible intro _ _ _)
    | (with_reducible intro _ _)
    | (with_reducible intro _)

theorem serveBoundary_keeps {r : State} (a0) (a1) (a2) {s : State} (h : Keeps r s) :
    Keeps r (serveBoundary a0 a1 a2 s) := by
  unfold serveBoundary
  repeat' first
    | with_reducible assumption
    | (with_reducible first | apply markLost_keeps | apply serveWith_keeps)
    | (with_reducible apply Keeps.ite)
    | split
    | (with_reducible apply foldl_keepsAll)
    | dsimp only
    | (with_reducible intro _ _ _)
    | (with_reducible intro _ _)
    | (with_reducible intro _)

theorem serveSafe_keeps {r : State} (a0) (a1) (a2) {s : State} (h : Keeps r s) :
    Keeps r (serveSafe a0 a1 a2 s) := by
  unfold serveSafe
  repeat' first
    | with_reducible assumption
    | (with_reducible first | apply markLost_keeps | apply serveWith_keeps)
    | (with_reducible apply Keeps.ite)
    | split
    | (with_reducible apply foldl_keepsAll)
    | dsimp only
    | (with_reducible intro _ _ _)
    | (with_reducible intro _ _)
    | (with_reducible intro _)

end Sys2Proof.Machine
end

