-- ==== Sys2Proof/Laws/Keeps/Tick.lean ====
section
/-! SUPPORT. The effects of Machine/Tick.lean keep the queue, the fuses and soundness. -/
namespace Sys2Proof.Machine

theorem actScale_keeps {r : State} (a0) (a1) {s : State} (h : Keeps r s) :
    Keeps r (actScale a0 a1 s) := by
  unfold actScale
  repeat' first
    | with_reducible assumption
    | (with_reducible first | apply bump_keeps | apply setAct_keeps)
    | (with_reducible apply Keeps.ite)

theorem actRecipe_keeps {r : State} (a0) (a1) (a2) {s : State} (h : Keeps r s) :
    Keeps r (actRecipe a0 a1 a2 s) := by
  unfold actRecipe
  repeat' first
    | with_reducible assumption
    | (with_reducible first | apply each_keepsAll | apply actScale_keeps | apply setAct_keeps | apply raise_keeps | apply bump_keeps)
    | (with_reducible apply Keeps.ite)
    | (with_reducible intro _)

theorem keepSlots_keeps {r : State} (a0) (a1) {s : State} (h : Keeps r s) :
    Keeps r (keepSlots a0 a1 s) := by
  unfold keepSlots
  repeat' first
    | with_reducible assumption
    | (with_reducible first | apply each_keepsAll | apply updPort_keeps)
    | (with_reducible apply Keeps.ite)
    | (with_reducible intro _ _ _)

theorem roleActive_keeps {r : State} {s : State} (h : Keeps r s) :
    Keeps r (roleActive s) := by
  unfold roleActive
  repeat' first
    | with_reducible assumption
    | (with_reducible first | apply ownTime_keeps)
    | (with_reducible apply Keeps.ite)
    | split
    | (with_reducible apply foldl_keepsAll)
    | dsimp only
    | (with_reducible intro _ _ _)
    | (with_reducible intro _ _)
    | (with_reducible intro _)

theorem activate_keeps {r : State} (a0) {s : State} (h : Keeps r s) :
    Keeps r (activate a0 s) := by
  unfold activate
  repeat' first
    | with_reducible assumption
    | (with_reducible first | apply bump_keeps | apply setAct_keeps | apply roleActive_keeps | apply updCore_keeps)
    | split

theorem actSlots_keeps {r : State} (a0) (a1) {s : State} (h : Keeps r s) :
    Keeps r (actSlots a0 a1 s) := by
  unfold actSlots
  repeat' first
    | with_reducible assumption
    | (with_reducible first | apply each_keepsAll | apply setAct_keeps | apply bump_keeps)
    | split
    | (with_reducible intro _)

theorem gateDone_keeps {r : State} (a0) {s : State} (h : Keeps r s) :
    Keeps r (gateDone a0 s) := by
  unfold gateDone
  repeat' first
    | with_reducible assumption
    | with_reducible apply setB_keeps
    | split

theorem activateAll_keeps {r : State} (a0) (a1) {s : State} (h : Keeps r s) :
    Keeps r (activateAll a0 a1 s) := by
  unfold activateAll
  repeat' first
    | with_reducible assumption
    | (with_reducible first | apply keepSlots_keeps | apply each_keepsAll | apply set_keeps | apply actSlots_keeps | apply activate_keeps | apply gateDone_keeps | apply actRecipe_keeps)
    | (with_reducible apply Keeps.ite)
    | split
    | (with_reducible apply foldl_keepsAll)
    | dsimp only
    | (with_reducible intro _ _ _)
    | (with_reducible intro _ _)
    | (with_reducible intro _)
    | (with_reducible refine Keeps.upd ?_ rfl; with_reducible first | assumption | apply keepSlots_keeps | apply each_keepsAll | apply set_keeps | apply actSlots_keeps | apply activate_keeps | apply gateDone_keeps | apply actRecipe_keeps | split)

theorem commitLanded_keeps {r : State} (a0) (a1) {s : State} (h : Keeps r s) :
    Keeps r (commitLanded a0 a1 s) := by
  unfold commitLanded
  repeat' first
    | with_reducible assumption
    | (with_reducible first | apply dropLanded_keeps | apply each_keepsAll | apply markRow_keeps | apply putRow_keeps)
    | (with_reducible apply Keeps.ite)
    | split
    | (with_reducible apply foldl_keepsAll)
    | dsimp only
    | (with_reducible intro _ _ _)
    | (with_reducible intro _ _)
    | (with_reducible intro _)

theorem holdWindow_keeps {r : State} (a0) (a1) {s : State} (h : Keeps r s) :
    Keeps r (holdWindow a0 a1 s) := by
  unfold holdWindow
  repeat' first
    | with_reducible assumption
    | (with_reducible first | apply setB_keeps | apply set_keeps | apply commitLanded_keeps | apply upTo_keepsAll | apply markRow_keeps | apply bump_keeps)
    | (with_reducible apply Keeps.ite)
    | split
    | (with_reducible apply foldl_keepsAll)
    | dsimp only
    | (with_reducible intro _ _ _)
    | (with_reducible intro _ _)
    | (with_reducible intro _)

theorem drawFire_keeps {r : State} (a0) (a1) (a2) {s : State} (h : Keeps r s) :
    Keeps r (drawFire a0 a1 a2 s) := by
  unfold drawFire
  repeat' first
    | with_reducible assumption
    | (with_reducible first | apply updCore_keeps | apply bump_keeps)
    | split
    | dsimp only

theorem overrun_keeps {r : State} (a0) {s : State} (h : Keeps r s) :
    Keeps r (overrun a0 s) := by
  unfold overrun
  repeat' first
    | with_reducible assumption
    | (with_reducible first | apply abandonTick_keeps | apply bump_keeps | apply raise_keeps)
    | (with_reducible apply Keeps.ite)
    | split

theorem startTick_keeps {r : State} (a0) (a1) (a2) {s : State} (h : Keeps r s) :
    Keeps r (startTick a0 a1 a2 s) := by
  unfold startTick
  repeat' first
    | with_reducible assumption
    | (with_reducible first | apply drawFire_keeps | apply when_keepsAll | apply skipDraw_keeps | apply bump_keeps | apply set_keeps | apply updCore_keeps)

theorem coreTick_keeps {r : State} (a0) (a1) (a2) {s : State} (h : Keeps r s) :
    Keeps r (coreTick a0 a1 a2 s) := by
  unfold coreTick
  repeat' first
    | with_reducible assumption
    | (with_reducible first | apply updCore_keeps | apply setB_keeps | apply setCoreState_keeps | apply set_keeps | apply startTick_keeps)
    | (with_reducible apply Keeps.ite)

theorem arrBoundary_keeps {r : State} (a0) {s : State} (h : Keeps r s) :
    Keeps r (arrBoundary a0 s) := by
  unfold arrBoundary
  repeat' first
    | with_reducible assumption
    | (with_reducible first | apply updCore_keeps | apply each_keepsAll | apply forgetCal_keeps | apply setArr_keeps | apply arrCmd_keeps)
    | (with_reducible intro _)

theorem boundary_keeps {r : State} (a0) (a1) {s : State} (h : Keeps r s) :
    Keeps r (boundary a0 a1 s) := by
  unfold boundary
  repeat' first
    | (with_reducible first | apply setB_keeps | apply each_keepsAll | apply overrun_keeps | apply showWins_keeps | apply upTo_keepsAll | apply holdWindow_keeps | apply serveBoundary_keeps | apply arrBoundary_keeps | apply activateAll_keeps | apply coreTick_keeps | apply set_keeps)
    | (with_reducible intro _)
    | (with_reducible refine Keeps.upd ?_ rfl; with_reducible first | assumption | apply setB_keeps | apply each_keepsAll | apply overrun_keeps | apply showWins_keeps | apply upTo_keepsAll | apply holdWindow_keeps | apply serveBoundary_keeps | apply arrBoundary_keeps | apply activateAll_keeps | apply coreTick_keeps | apply set_keeps | split)

theorem countMoe_keeps {r : State} (a0) {s : State} (h : Keeps r s) :
    Keeps r (countMoe a0 s) := by
  unfold countMoe
  repeat' first
    | with_reducible assumption
    | (with_reducible first | apply each_keepsAll | apply bumpN_keeps)
    | (with_reducible intro _)

theorem execGuardBandStart_keeps {r : State} {s : State} (h : Keeps r s) :
    OutKeeps r (execGuardBandStart s) := by
  unfold execGuardBandStart
  repeat' first
    | with_reducible assumption
    | with_reducible apply OutKeeps.next
    | (with_reducible first | apply setB_keeps | apply moveTo_keeps)
    | split

theorem execGateHold_keeps {r : State} {s : State} (h : Keeps r s) :
    OutKeeps r (execGateHold s) := by
  unfold execGateHold
  repeat' first
    | with_reducible assumption
    | with_reducible apply OutKeeps.next
    | with_reducible apply setB_keeps

theorem gateRelease_keeps {r : State} {s : State} (h : Keeps r s) :
    Keeps r (gateRelease s) := by
  unfold gateRelease
  repeat' first
    | with_reducible assumption
    | (with_reducible first | apply bump_keeps | apply setB_keeps | apply when_keepsAll | apply hwSet_keeps)
    | (with_reducible apply Keeps.ite)
    | split
    | (with_reducible apply foldl_keepsAll)
    | dsimp only
    | (with_reducible intro _ _ _)
    | (with_reducible intro _ _)
    | (with_reducible intro _)
    | (with_reducible refine Keeps.upd ?_ rfl; with_reducible first | assumption | apply bump_keeps | apply setB_keeps | apply when_keepsAll | apply hwSet_keeps | split)

theorem execGateRelease_keeps {r : State} {s : State} (h : Keeps r s) :
    OutKeeps r (execGateRelease s) := by
  unfold execGateRelease
  repeat' first
    | with_reducible assumption
    | with_reducible apply OutKeeps.next
    | with_reducible apply gateRelease_keeps

theorem gateAbort_keeps {r : State} {s : State} (h : Keeps r s) :
    Keeps r (gateAbort s) := by
  unfold gateAbort
  repeat' first
    | (with_reducible first | apply bump_keeps | apply setB_keeps | apply each_keepsAll | apply set_keeps)
    | (with_reducible intro _)
    | (with_reducible refine Keeps.upd ?_ rfl; with_reducible first | assumption | apply bump_keeps | apply setB_keeps | apply each_keepsAll | apply set_keeps | split)

theorem execGateAbort_keeps {r : State} {s : State} (h : Keeps r s) :
    OutKeeps r (execGateAbort s) := by
  unfold execGateAbort
  repeat' first
    | with_reducible assumption
    | with_reducible apply OutKeeps.next
    | with_reducible apply gateAbort_keeps

theorem execLeavenWindowEnd_keeps {r : State} (a0) {s : State} (h : Keeps r s) :
    OutKeeps r (execLeavenWindowEnd a0 s) := by
  unfold execLeavenWindowEnd
  repeat' first
    | with_reducible assumption
    | with_reducible apply OutKeeps.next
    | (with_reducible first | apply updCore_keeps | apply set_keeps | apply upTo_keepsAll)
    | split
    | (with_reducible intro _)

theorem execLeavenCtlWrite_keeps {r : State} (a0) (a1) {s : State} (h : Keeps r s) :
    OutKeeps r (execLeavenCtlWrite a0 a1 s) := by
  unfold execLeavenCtlWrite
  repeat' first
    | with_reducible assumption
    | with_reducible apply OutKeeps.next
    | (with_reducible first | apply set_keeps | apply bump_keeps | apply when_keepsAll | apply raise_keeps | apply upTo_keepsAll | apply updCore_keeps)
    | split
    | dsimp only
    | (with_reducible intro _)

end Sys2Proof.Machine
end

