-- ==== Sys2Proof/Laws/Keeps/Request.lean ====
section
/-! SUPPORT. The effects of Machine/Request.lean keep the queue, the fuses and soundness. -/
namespace Sys2Proof.Machine

theorem promptToken_keeps {r : State} (a0) (a1) (a2) {s : State} (h : Keeps r s) :
    Keeps r (promptToken a0 a1 a2 s).2 := by
  unfold promptToken
  repeat' first
    | with_reducible assumption
    | (with_reducible first | apply readSpan_keeps)
    | (with_reducible apply Keeps.ite)
    | split
    | (with_reducible apply foldl_keepsAll)
    | dsimp only
    | (with_reducible intro _ _ _)
    | (with_reducible intro _ _)
    | (with_reducible intro _)

theorem stepRows_keeps {r : State} (a0) (a1) (a2) {s : State} (h : Keeps r s) :
    Keeps r (stepRows a0 a1 a2 s).2 := by
  unfold stepRows
  repeat' first
    | with_reducible assumption
    | (with_reducible first | apply promptToken_keeps | apply freeBytes_keeps)
    | (with_reducible apply Keeps.ite)
    | split
    | (with_reducible apply foldl_keepsAll)
    | dsimp only
    | (with_reducible intro _ _ _)
    | (with_reducible intro _ _)
    | (with_reducible intro _)

theorem landStep_keeps {r : State} (a0) (a1) (a2) (a3) (a4) {s : State} (h : Keeps r s) :
    Keeps r (landStep a0 a1 a2 a3 a4 s) := by
  unfold landStep
  repeat' first
    | with_reducible assumption
    | (with_reducible first | apply bump_keeps | apply land_keeps)
    | split
    | dsimp only

theorem landCore_keeps {r : State} (a0) {s : State} (h : Keeps r s) :
    Keeps r (landCore a0 s) := by
  unfold landCore
  repeat' first
    | with_reducible assumption
    | (with_reducible first | apply stepRows_keeps | apply moveTo_keeps | apply upTo_keepsAll | apply landStep_keeps)
    | (with_reducible apply Keeps.ite)
    | split

theorem execStepRowLanding_keeps {r : State} {s : State} (h : Keeps r s) :
    OutKeeps r (execStepRowLanding s) := by
  unfold execStepRowLanding
  repeat' first
    | with_reducible assumption
    | with_reducible apply OutKeeps.next
    | (with_reducible first | apply each_keepsAll | apply landCore_keeps)
    | split

theorem lateNotice_keeps {r : State} (a0) (a1) (a2) (a3) {s : State} (h : Keeps r s) :
    Keeps r (lateNotice a0 a1 a2 a3 s) := by
  unfold lateNotice
  repeat' first
    | with_reducible assumption
    | (with_reducible first | apply bump_keeps | apply bumpN_keeps | apply applyNotice_keeps)
    | (with_reducible apply Keeps.ite)
    | split

theorem execNoticeReceived_keeps {r : State} (a0) (a1) (a2) {s : State} (h : Keeps r s) :
    OutKeeps r (execNoticeReceived a0 a1 a2 s) := by
  unfold execNoticeReceived
  repeat' first
    | with_reducible assumption
    | with_reducible apply OutKeeps.next
    | (with_reducible first | apply lateNotice_keeps | apply updSrv_keeps)
    | split
    | dsimp only

theorem putRq_keeps {r : State} (a0) (a1) {s : State} (h : Keeps r s) :
    Keeps r (putRq a0 a1 s) := by
  unfold putRq
  repeat' first
    | (with_reducible refine Keeps.upd ?_ rfl; with_reducible first | assumption | split)

theorem consume_keeps {r : State} (a0) (a1) (a2) {s : State} (h : Keeps r s) :
    Keeps r (consume a0 a1 a2 s) := by
  unfold consume
  repeat' first
    | with_reducible assumption
    | (with_reducible first | apply dmaOut_keeps | apply bumpN_keeps | apply bump_keeps | apply putRq_keeps)

theorem reject_keeps {r : State} (a0) (a1) (a2) {s : State} (h : Keeps r s) :
    Keeps r (reject a0 a1 a2 s) := by
  unfold reject
  repeat' first
    | with_reducible assumption
    | (with_reducible first | apply bump_keeps | apply stage_keeps)

theorem tellEntry_keeps {r : State} (a0) (a1) {s : State} (h : Keeps r s) :
    Keeps r (tellEntry a0 a1 s) := by
  unfold tellEntry
  repeat' first
    | with_reducible assumption
    | (with_reducible first | apply tellAt_keeps)
    | (with_reducible apply Keeps.ite)
    | split
    | (with_reducible apply foldl_keepsAll)
    | dsimp only
    | (with_reducible intro _ _ _)
    | (with_reducible intro _ _)
    | (with_reducible intro _)

theorem makeRoom_keeps {r : State} (n k w : Nat) {s t : State} (h : Keeps r s) (ht : makeRoom n k w s = some t) : Keeps r t := by
  unfold makeRoom at ht
  obtain ⟨l, -, rfl⟩ := Option.map_eq_some_iff.1 ht
  exact each_keepsAll _ h fun _ _ hu => tellEntry_keeps _ _ (startXfer_keeps _ _ _ hu)

theorem bindAdapter_keeps {r : State} (a0) (a1) (a2) {s : State} (h : Keeps r s) :
    Keeps r (bindAdapter a0 a1 a2 s) := by
  unfold bindAdapter
  repeat' first
    | with_reducible assumption
    | (with_reducible first | apply updSrv_keeps | apply bumpSlot_keeps | apply set_keeps | apply setB_keeps)
    | (with_reducible apply Keeps.ite)
    | split
    | (with_reducible apply foldl_keepsAll)
    | dsimp only
    | (with_reducible intro _ _ _)
    | (with_reducible intro _ _)
    | (with_reducible intro _)

theorem fillEntry_keeps {r : State} (a0) (a1) (a2) (a3) {s : State} (h : Keeps r s) :
    Keeps r (fillEntry a0 a1 a2 a3 s) := by
  unfold fillEntry
  repeat' first
    | with_reducible assumption
    | (with_reducible first | apply each_keepsAll | apply upTo_keepsAll | apply set_keeps | apply setB_keeps)
    | (with_reducible intro _)

theorem putPrompt_keeps {r : State} (a0) (a1) (a2) (a3) {s : State} (h : Keeps r s) :
    Keeps r (putPrompt a0 a1 a2 a3 s).2 := by
  unfold putPrompt
  repeat' first
    | with_reducible assumption
    | (with_reducible first | apply dmaIn_keeps)
    | (with_reducible apply Keeps.ite)
    | split
    | (with_reducible apply foldl_keepsAll)
    | dsimp only
    | (with_reducible intro _ _ _)
    | (with_reducible intro _ _)
    | (with_reducible intro _)

theorem queueEntry_keeps {r : State} (a0) (a1) (a2) (a3) (a4) (a5) {s : State} (h : Keeps r s) :
    Keeps r (queueEntry a0 a1 a2 a3 a4 a5 s) := by
  unfold queueEntry
  repeat' first
    | with_reducible assumption
    | (with_reducible first | apply putPrompt_keeps | apply setEnt_keeps | apply fillEntry_keeps | apply when_keepsAll | apply sendNotice_keeps | apply tellEntry_keeps | apply bindAdapter_keeps)
    | (with_reducible apply Keeps.ite)
    | split
    | (with_reducible apply foldl_keepsAll)
    | dsimp only
    | (with_reducible intro _ _ _)
    | (with_reducible intro _ _)
    | (with_reducible intro _)

theorem submitNew_keeps {r : State} (a0) (a1) (a2) {s : State} (h : Keeps r s) :
    Keeps r (submitNew a0 a1 a2 s) := by
  unfold submitNew
  repeat' first
    | with_reducible assumption
    | (with_reducible first | apply reject_keeps | apply updSrv_keeps | apply queueEntry_keeps)
    | exact makeRoom_keeps _ _ _ (by with_reducible assumption) (by assumption)
    | (with_reducible apply Keeps.ite)
    | split
    | (with_reducible apply foldl_keepsAll)
    | dsimp only
    | (with_reducible intro _ _ _)
    | (with_reducible intro _ _)
    | (with_reducible intro _)

theorem mayAdmit_keeps {r : State} (a0) {s : State} (h : Keeps r s) :
    Keeps r (mayAdmit a0 s).2 := by
  unfold mayAdmit
  repeat' first
    | with_reducible assumption
    | with_reducible apply updSrv_keeps
    | (with_reducible apply Keeps.ite)

theorem execReqNew_keeps {r : State} (a0) (a1) {s : State} (h : Keeps r s) :
    OutKeeps r (execReqNew a0 a1 s) := by
  unfold execReqNew
  repeat' first
    | with_reducible assumption
    | with_reducible apply OutKeeps.next
    | (with_reducible first | apply mayAdmit_keeps | apply submitNew_keeps | apply consume_keeps)
    | split
    | dsimp only

theorem submitContinue_keeps {r : State} (a0) (a1) (a2) {s : State} (h : Keeps r s) :
    Keeps r (submitContinue a0 a1 a2 s) := by
  unfold submitContinue
  repeat' first
    | with_reducible assumption
    | (with_reducible first | apply reject_keeps | apply queueEntry_keeps | apply restoreSets_keeps | apply startXfer_keeps | apply updSrv_keeps)
    | exact makeRoom_keeps _ _ _ (by with_reducible assumption) (by assumption)
    | (with_reducible apply Keeps.ite)
    | split
    | (with_reducible apply foldl_keepsAll)
    | dsimp only
    | (with_reducible intro _ _ _)
    | (with_reducible intro _ _)
    | (with_reducible intro _)

theorem execReqContinue_keeps {r : State} (a0) (a1) {s : State} (h : Keeps r s) :
    OutKeeps r (execReqContinue a0 a1 s) := by
  unfold execReqContinue
  repeat' first
    | with_reducible assumption
    | with_reducible apply OutKeeps.next
    | (with_reducible first | apply submitContinue_keeps | apply consume_keeps)
    | split

theorem submitCancel_keeps {r : State} (a0) (a1) {s : State} (h : Keeps r s) :
    Keeps r (submitCancel a0 a1 s) := by
  unfold submitCancel
  repeat' first
    | with_reducible assumption
    | (with_reducible first | apply reject_keeps | apply sendNotice_keeps)
    | split

theorem execReqCancel_keeps {r : State} (a0) (a1) {s : State} (h : Keeps r s) :
    OutKeeps r (execReqCancel a0 a1 s) := by
  unfold execReqCancel
  repeat' first
    | with_reducible assumption
    | with_reducible apply OutKeeps.next
    | (with_reducible first | apply submitCancel_keeps | apply consume_keeps)
    | split

theorem setTtl_keeps {r : State} (a0) (a1) (a2) {s : State} (h : Keeps r s) :
    Keeps r (setTtl a0 a1 a2 s) := by
  unfold setTtl
  repeat' first
    | with_reducible assumption
    | with_reducible apply set_keeps

theorem submitPark_keeps {r : State} (a0) (a1) {s : State} (h : Keeps r s) :
    Keeps r (submitPark a0 a1 s) := by
  unfold submitPark
  repeat' first
    | with_reducible assumption
    | (with_reducible first | apply reject_keeps | apply setTtl_keeps | apply tellEntry_keeps | apply startXfer_keeps)
    | split

theorem execReqPark_keeps {r : State} (a0) (a1) {s : State} (h : Keeps r s) :
    OutKeeps r (execReqPark a0 a1 s) := by
  unfold execReqPark
  repeat' first
    | with_reducible assumption
    | with_reducible apply OutKeeps.next
    | (with_reducible first | apply submitPark_keeps | apply consume_keeps)
    | split

theorem freeEnt_keeps {r : State} (a0) (a1) {s : State} (h : Keeps r s) :
    Keeps r (freeEnt a0 a1 s) := by
  unfold freeEnt
  repeat' first
    | with_reducible assumption
    | (with_reducible first | apply updSrv_keeps | apply setB_keeps | apply setEnt_keeps | apply freeSets_keeps | apply unbindSlot_keeps)

theorem submitDrop_keeps {r : State} (a0) (a1) {s : State} (h : Keeps r s) :
    Keeps r (submitDrop a0 a1 s) := by
  unfold submitDrop
  repeat' first
    | with_reducible assumption
    | (with_reducible first | apply reject_keeps | apply tellEntry_keeps | apply freeEnt_keeps)
    | (with_reducible apply Keeps.ite)

theorem execReqDrop_keeps {r : State} (a0) (a1) {s : State} (h : Keeps r s) :
    OutKeeps r (execReqDrop a0 a1 s) := by
  unfold execReqDrop
  repeat' first
    | with_reducible assumption
    | with_reducible apply OutKeeps.next
    | (with_reducible first | apply submitDrop_keeps | apply consume_keeps)
    | split

theorem refill_keeps {r : State} (a0) {s : State} (h : Keeps r s) :
    Keeps r (refill a0 s) := by
  unfold refill
  repeat' first
    | with_reducible apply set_keeps
    | (with_reducible refine Keeps.upd ?_ rfl; with_reducible first | assumption | apply set_keeps | split)

theorem execAccountRefill_keeps {r : State} {s : State} (h : Keeps r s) :
    OutKeeps r (execAccountRefill s) := by
  unfold execAccountRefill
  repeat' first
    | with_reducible assumption
    | with_reducible apply OutKeeps.next
    | (with_reducible first | apply upTo_keepsAll | apply refill_keeps | apply moveTo_keeps)

theorem execRqTail_keeps {r : State} (a0) (a1) (a2) {s : State} (h : Keeps r s) :
    OutKeeps r (execRqTail a0 a1 a2 s) := by
  unfold execRqTail
  repeat' first
    | with_reducible assumption
    | with_reducible apply OutKeeps.next
    | (with_reducible first | apply putRq_keeps | apply bump_keeps)
    | split

theorem execOqHead_keeps {r : State} (a0) (a1) (a2) {s : State} (h : Keeps r s) :
    OutKeeps r (execOqHead a0 a1 a2 s) := by
  unfold execOqHead
  repeat' first
    | with_reducible assumption
    | with_reducible apply OutKeeps.next
    | (with_reducible first | apply updPage_keeps | apply putOq_keeps)
    | (with_reducible apply Keeps.ite)
    | split
    | (with_reducible apply foldl_keepsAll)
    | dsimp only
    | (with_reducible intro _ _ _)
    | (with_reducible intro _ _)
    | (with_reducible intro _)

theorem released_keeps {r : State} (a0) (a1) {s : State} (h : Keeps r s) :
    Keeps r (released a0 a1 s) := by
  unfold released
  repeat' first
    | with_reducible assumption
    | (with_reducible first | apply tellEntry_keeps | apply setEnt_keeps | apply setTtl_keeps | apply freeEnt_keeps)
    | split

theorem signalOut_keeps {r : State} (a0) (a1) {s : State} (h : Keeps r s) :
    Keeps r (signalOut a0 a1 s) := by
  unfold signalOut
  repeat' first
    | with_reducible assumption
    | (with_reducible first | apply raiseVector_keeps | apply putOq_keeps)
    | (with_reducible apply Keeps.ite)

theorem writeRec_keeps {r : State} (a0) (a1) (a2) {s : State} (h : Keeps r s) :
    Keeps r (writeRec a0 a1 a2 s) := by
  unfold writeRec
  repeat' first
    | with_reducible assumption
    | (with_reducible first | apply signalOut_keeps | apply dmaOut_keeps | apply sendBulk_keeps | apply released_keeps)
    | (with_reducible apply Keeps.ite)
    | split
    | (with_reducible apply foldl_keepsAll)
    | dsimp only
    | (with_reducible intro _ _ _)
    | (with_reducible intro _ _)
    | (with_reducible intro _)

theorem closeBatch_keeps {r : State} (a0) (a1) {s : State} (h : Keeps r s) :
    Keeps r (closeBatch a0 a1 s) := by
  unfold closeBatch
  repeat' first
    | with_reducible assumption
    | (with_reducible first | apply putOq_keeps)
    | (with_reducible apply Keeps.ite)
    | split
    | (with_reducible apply foldl_keepsAll)
    | dsimp only
    | (with_reducible intro _ _ _)
    | (with_reducible intro _ _)
    | (with_reducible intro _)

theorem askIndex_keeps {r : State} (a0) {s : State} (h : Keeps r s) :
    Keeps r (askIndex a0 s) := by
  unfold askIndex
  repeat' first
    | with_reducible assumption
    | (with_reducible first | apply sendBulk_keeps | apply putOq_keeps)
    | (with_reducible apply Keeps.ite)
    | split
    | (with_reducible apply foldl_keepsAll)
    | dsimp only
    | (with_reducible intro _ _ _)
    | (with_reducible intro _ _)
    | (with_reducible intro _)

theorem execOutputRecordWrite_keeps {r : State} (a0) {s : State} (h : Keeps r s) :
    OutKeeps r (execOutputRecordWrite a0 s) := by
  unfold execOutputRecordWrite
  repeat' first
    | with_reducible assumption
    | with_reducible apply OutKeeps.next
    | (with_reducible first | apply askIndex_keeps | apply showInUse_keeps | apply showKv_keeps | apply closeBatch_keeps | apply writeRec_keeps | apply updSrv_keeps)
    | (with_reducible apply Keeps.ite)
    | split
    | (with_reducible apply foldl_keepsAll)
    | dsimp only
    | (with_reducible intro _ _ _)
    | (with_reducible intro _ _)
    | (with_reducible intro _)

theorem execOutputIrqTimer_keeps {r : State} (a0) {s : State} (h : Keeps r s) :
    OutKeeps r (execOutputIrqTimer a0 s) := by
  unfold execOutputIrqTimer
  repeat' first
    | with_reducible assumption
    | with_reducible apply OutKeeps.next
    | (with_reducible first | apply raiseVector_keeps | apply putOq_keeps | apply moveTo_keeps)
    | split

theorem execCaddyTtlExpire_keeps {r : State} (a0) {s : State} (h : Keeps r s) :
    OutKeeps r (execCaddyTtlExpire a0 s) := by
  unfold execCaddyTtlExpire
  repeat' first
    | with_reducible assumption
    | with_reducible apply OutKeeps.next
    | (with_reducible first | apply showInUse_keeps | apply showKv_keeps | apply freeEnt_keeps | apply bump_keeps)
    | split
    | dsimp only

theorem xferDone_keeps {r : State} (a0) (a1) (a2) {s : State} (h : Keeps r s) :
    Keeps r (xferDone a0 a1 a2 s) := by
  unfold xferDone
  repeat' first
    | with_reducible assumption
    | (with_reducible first | apply updSrv_keeps | apply tellEntry_keeps | apply setEnt_keeps | apply bumpN_keeps | apply freeSets_keeps)
    | split

theorem xferFailed_keeps {r : State} (a0) (a1) (a2) {s : State} (h : Keeps r s) :
    Keeps r (xferFailed a0 a1 a2 s) := by
  unfold xferFailed
  repeat' first
    | with_reducible assumption
    | (with_reducible first | apply bump_keeps | apply updSrv_keeps | apply tellEntry_keeps | apply finish_keeps | apply setEnt_keeps)
    | split

theorem copyBad_keeps {r : State} (a0) (a1) {s : State} (h : Keeps r s) :
    Keeps r (copyBad a0 a1 s) := by
  unfold copyBad
  repeat' first
    | with_reducible assumption
    | (with_reducible first | apply tagNack_keeps)
    | (with_reducible apply Keeps.ite)
    | split
    | (with_reducible apply foldl_keepsAll)
    | dsimp only
    | (with_reducible intro _ _ _)
    | (with_reducible intro _ _)
    | (with_reducible intro _)

theorem copyLine_keeps {r : State} (a0) (a1) (a2) (a3) (a4) {s : State} (h : Keeps r s) :
    Keeps r (copyLine a0 a1 a2 a3 a4 s) := by
  unfold copyLine
  repeat' first
    | with_reducible assumption
    | (with_reducible first | apply copyBad_keeps | apply aperRej_keeps | apply readLine_keeps | apply when_keepsAll | apply dmaOut_keeps | apply sendBulk_keeps)
    | (with_reducible apply Keeps.ite)
    | split
    | (with_reducible apply foldl_keepsAll)
    | dsimp only
    | (with_reducible intro _ _ _)
    | (with_reducible intro _ _)
    | (with_reducible intro _)

theorem copyOut_keeps {r : State} (a0) (a1) {s : State} (h : Keeps r s) :
    Keeps r (copyOut a0 a1 s) := by
  unfold copyOut
  repeat' first
    | with_reducible assumption
    | (with_reducible first | apply each_keepsAll | apply bumpN_keeps | apply upTo_keepsAll | apply copyLine_keeps)
    | (with_reducible apply Keeps.ite)
    | split
    | (with_reducible apply foldl_keepsAll)
    | dsimp only
    | (with_reducible intro _ _ _)
    | (with_reducible intro _ _)
    | (with_reducible intro _)

theorem copyIn_keeps {r : State} (a0) (a1) (a2) {s : State} (h : Keeps r s) :
    Keeps r (copyIn a0 a1 a2 s) := by
  unfold copyIn
  repeat' first
    | with_reducible assumption
    | (with_reducible first | apply each_keepsAll | apply dmaIn_keeps | apply writeSpan_keeps | apply bumpN_keeps | apply when_keepsAll | apply copyBad_keeps)
    | (with_reducible apply Keeps.ite)
    | split
    | (with_reducible apply foldl_keepsAll)
    | dsimp only
    | (with_reducible intro _ _ _)
    | (with_reducible intro _ _)
    | (with_reducible intro _)

theorem ownPages_keeps {r : State} (a0) (a1) (a2) (a3) {s : State} (h : Keeps r s) :
    Keeps r (ownPages a0 a1 a2 a3 s) := by
  unfold ownPages
  repeat' first
    | with_reducible assumption
    | (with_reducible first | apply moveTo_keeps | apply copyIn_keeps | apply copyOut_keeps)
    | (with_reducible apply Keeps.ite)
    | split
    | (with_reducible apply foldl_keepsAll)
    | dsimp only
    | (with_reducible intro _ _ _)
    | (with_reducible intro _ _)
    | (with_reducible intro _)

theorem execCaddyReport_keeps {r : State} (a0) (a1) (a2) (a3) (a4) {s : State} (h : Keeps r s) :
    OutKeeps r (execCaddyReport a0 a1 a2 a3 a4 s) := by
  unfold execCaddyReport
  repeat' first
    | with_reducible assumption
    | with_reducible apply OutKeeps.next
    | (with_reducible first | apply when_keepsAll | apply ownPages_keeps | apply bump_keeps | apply emit_keeps | apply xferFailed_keeps | apply showInUse_keeps | apply showKv_keeps | apply xferDone_keeps | apply updSrv_keeps)
    | (with_reducible apply Keeps.ite)
    | split
    | (with_reducible apply foldl_keepsAll)
    | dsimp only
    | (with_reducible intro _ _ _)
    | (with_reducible intro _ _)
    | (with_reducible intro _)

end Sys2Proof.Machine
end

