-- ==== Sys2Proof/Laws/Keeps/Yarile.lean ====
section
/-! SUPPORT. The effects of Machine/Yarile.lean keep the queue, the fuses and soundness. -/
namespace Sys2Proof.Machine

theorem execMbDb_keeps {r : State} (a0) (a1) {s : State} (h : Keeps r s) :
    OutKeeps r (execMbDb a0 a1 s) := by
  unfold execMbDb
  repeat' first
    | with_reducible assumption
    | with_reducible apply OutKeeps.next
    | (with_reducible first | apply bump_keeps | apply putSlot_keeps | apply putResponse_keeps)
    | split
    | dsimp only

theorem execMbAck_keeps {r : State} (a0) (a1) {s : State} (h : Keeps r s) :
    OutKeeps r (execMbAck a0 a1 s) := by
  unfold execMbAck
  repeat' first
    | with_reducible assumption
    | with_reducible apply OutKeeps.next
    | (with_reducible first | apply upTo_keepsAll | apply putSlot_keeps | apply bump_keeps)
    | split
    | (with_reducible intro _)

theorem nextSeq_keeps {r : State} (a0) {s : State} (h : Keeps r s) :
    Keeps r (nextSeq a0 s).2 := by
  unfold nextSeq
  repeat' first
    | with_reducible assumption
    | with_reducible apply updPage_keeps

theorem respond_keeps {r : State} (a0) (a1) (a2) (a3) {s : State} (h : Keeps r s) :
    Keeps r (respond a0 a1 a2 a3 s) := by
  unfold respond
  repeat' first
    | with_reducible assumption
    | (with_reducible first | apply nextSeq_keeps | apply putResponse_keeps | apply toBuffer_keeps)
    | (with_reducible apply Keeps.ite)
    | split
    | (with_reducible apply foldl_keepsAll)
    | dsimp only
    | (with_reducible intro _ _ _)
    | (with_reducible intro _ _)
    | (with_reducible intro _)

theorem respondBuf_keeps {r : State} (a0) (a1) (a2) (a3) {s : State} (h : Keeps r s) :
    Keeps r (respondBuf a0 a1 a2 a3 s) := by
  unfold respondBuf
  repeat' first
    | with_reducible assumption
    | (with_reducible first | apply nextSeq_keeps | apply putResponse_keeps | apply toBuffer_keeps)
    | (with_reducible apply Keeps.ite)
    | split
    | (with_reducible apply foldl_keepsAll)
    | dsimp only
    | (with_reducible intro _ _ _)
    | (with_reducible intro _ _)
    | (with_reducible intro _)

theorem showPend_keeps {r : State} (a0) {s : State} (h : Keeps r s) :
    Keeps r (showPend a0 s) := by
  unfold showPend
  repeat' first
    | with_reducible assumption
    | with_reducible apply set_keeps
    | split

theorem pend_keeps {r : State} (a0) (a1) (a2) (a3) {s : State} (h : Keeps r s) :
    Keeps r (pend a0 a1 a2 a3 s) := by
  unfold pend
  repeat' first
    | with_reducible assumption
    | (with_reducible first | apply nextSeq_keeps | apply putResponse_keeps | apply showPend_keeps | apply updFw_keeps)

theorem endPend_keeps {r : State} (a0) (a1) (a2) {s : State} (h : Keeps r s) :
    Keeps r (endPend a0 a1 a2 s) := by
  unfold endPend
  repeat' first
    | with_reducible assumption
    | (with_reducible first | apply showPend_keeps | apply updFw_keeps | apply bump_keeps | apply putEvent_keeps | apply toBuffer_keeps)
    | (with_reducible apply Keeps.ite)
    | split
    | (with_reducible apply foldl_keepsAll)
    | dsimp only
    | (with_reducible intro _ _ _)
    | (with_reducible intro _ _)
    | (with_reducible intro _)

theorem run_keeps {r : State} (a0) (a1) (a2) (a3) (a4) {a5} {s : State} (h : Keeps r s) (h5 : ∀ x0 t, Keeps r t → Keeps r (a5 x0 t)) :
    Keeps r (run a0 a1 a2 a3 a4 a5 s) := by
  unfold run
  repeat' first
    | with_reducible assumption
    | (with_reducible first | apply h5 | apply respond_keeps)
    | (with_reducible apply Keeps.ite)
    | split

theorem okActive_keeps {r : State} (a0) (a1) (a2) (a3) {s : State} (h : Keeps r s) :
    Keeps r (okActive a0 a1 a2 a3 s) := by
  unfold okActive
  repeat' first
    | with_reducible assumption
    | (with_reducible first | apply pend_keeps | apply respond_keeps)
    | (with_reducible apply Keeps.ite)

theorem fwWrite_keeps {r : State} (a0) (a1) {s : State} (h : Keeps r s) :
    Keeps r (fwWrite a0 a1 s) := by
  unfold fwWrite
  repeat' first
    | with_reducible assumption
    | (with_reducible first | apply denied_keeps | apply shadowWrite_keeps)
    | (with_reducible apply Keeps.ite)
    | split
    | (with_reducible apply foldl_keepsAll)
    | dsimp only
    | (with_reducible intro _ _ _)
    | (with_reducible intro _ _)
    | (with_reducible intro _)

theorem fwSet_keeps {r : State} (a0) (a1) {s : State} (h : Keeps r s) :
    Keeps r (fwSet a0 a1 s) := by
  unfold fwSet
  repeat' first
    | with_reducible assumption
    | (with_reducible first | apply denied_keeps | apply set_keeps)
    | (with_reducible apply Keeps.ite)
    | split
    | (with_reducible apply foldl_keepsAll)
    | dsimp only
    | (with_reducible intro _ _ _)
    | (with_reducible intro _ _)
    | (with_reducible intro _)

theorem flrFn_keeps {r : State} (a0) {s : State} (h : Keeps r s) :
    Keeps r (flrFn a0 s) := by
  unfold flrFn
  repeat' first
    | (with_reducible first | apply updPage_keeps | apply updFw_keeps | apply showPend_keeps | apply when_keepsAll | apply set_keeps)
    | (with_reducible refine Keeps.upd ?_ rfl; with_reducible first | assumption | apply updPage_keeps | apply updFw_keeps | apply showPend_keeps | apply when_keepsAll | apply set_keeps | split)

theorem flr_keeps {r : State} (a0) {s : State} (h : Keeps r s) :
    Keeps r (flr a0 s) := by
  unfold flr
  repeat' first
    | with_reducible assumption
    | (with_reducible first | apply bump_keeps | apply flrFn_keeps | apply upTo_keepsAll | apply setB_keeps | apply set_keeps)
    | split
    | (with_reducible intro _)

theorem execFlr_keeps {r : State} (a0) {s : State} (h : Keeps r s) :
    OutKeeps r (execFlr a0 s) := by
  unfold execFlr
  repeat' first
    | with_reducible assumption
    | with_reducible apply OutKeeps.next
    | with_reducible apply flr_keeps

theorem flrAll_keeps {r : State} {s : State} (h : Keeps r s) :
    Keeps r (flrAll s) := by
  unfold flrAll
  repeat' first
    | with_reducible assumption
    | (with_reducible first | apply upTo_keepsAll | apply setB_keeps | apply set_keeps | apply bump_keeps | apply flrFn_keeps)
    | (with_reducible apply Keeps.ite)
    | split
    | (with_reducible apply foldl_keepsAll)
    | dsimp only
    | (with_reducible intro _ _ _)
    | (with_reducible intro _ _)
    | (with_reducible intro _)

theorem execPcieHotReset_keeps {r : State} {s : State} (h : Keeps r s) :
    OutKeeps r (execPcieHotReset s) := by
  unfold execPcieHotReset
  repeat' first
    | with_reducible assumption
    | with_reducible apply OutKeeps.next
    | with_reducible apply flrAll_keeps

theorem linkGone_keeps {r : State} {s : State} (h : Keeps r s) :
    Keeps r (linkGone s) := by
  unfold linkGone
  repeat' first
    | with_reducible assumption
    | (with_reducible first | apply setB_keeps | apply set_keeps)

theorem execPciePerst_keeps {r : State} {s : State} (h : Keeps r s) :
    OutKeeps r (execPciePerst s) := by
  unfold execPciePerst
  repeat' first
    | with_reducible assumption
    | with_reducible apply OutKeeps.next
    | (with_reducible first | apply linkGone_keeps | apply flrAll_keeps)
    | split

theorem execPcieRetrain_keeps {r : State} (a0) {s : State} (h : Keeps r s) :
    OutKeeps r (execPcieRetrain a0 s) := by
  unfold execPcieRetrain
  repeat' first
    | with_reducible assumption
    | with_reducible apply OutKeeps.next
    | (with_reducible first | apply denied_keeps | apply linkGone_keeps | apply bump_keeps)
    | split

theorem execPcieLinkTrained_keeps {r : State} (a0) (a1) (a2) (a3) {s : State} (h : Keeps r s) :
    OutKeeps r (execPcieLinkTrained a0 a1 a2 a3 s) := by
  unfold execPcieLinkTrained
  repeat' first
    | with_reducible assumption
    | with_reducible apply OutKeeps.next
    | (with_reducible first | apply upTo_keepsAll | apply setB_keeps | apply set_keeps | apply when_keepsAll | apply raise_keeps)
    | (with_reducible intro _)

theorem execPcieLinkError_keeps {r : State} (a0) {s : State} (h : Keeps r s) :
    OutKeeps r (execPcieLinkError a0 s) := by
  unfold execPcieLinkError
  repeat' first
    | with_reducible assumption
    | with_reducible apply OutKeeps.next
    | (with_reducible first | apply emit_keeps | apply raise_keeps | apply bump_keeps)
    | (with_reducible apply Keeps.ite)
    | split
    | (with_reducible apply foldl_keepsAll)
    | dsimp only
    | (with_reducible intro _ _ _)
    | (with_reducible intro _ _)
    | (with_reducible intro _)

theorem execBar4Read_keeps {r : State} (a0) (a1) (a2) {s : State} (h : Keeps r s) :
    OutKeeps r (execBar4Read a0 a1 a2 s) := by
  unfold execBar4Read
  repeat' first
    | with_reducible assumption
    | with_reducible apply OutKeeps.next
    | (with_reducible first | apply emit_keeps | apply bump_keeps | apply aperRej_keeps | apply readSpan_keeps)
    | (with_reducible apply Keeps.ite)
    | split
    | (with_reducible apply foldl_keepsAll)
    | dsimp only
    | (with_reducible intro _ _ _)
    | (with_reducible intro _ _)
    | (with_reducible intro _)

theorem pciRefused_keeps {r : State} (a0) (a1) {s : State} (h : Keeps r s) :
    Keeps r (pciRefused a0 a1 s) := by
  unfold pciRefused
  repeat' first
    | with_reducible assumption
    | (with_reducible first | apply emit_keeps | apply noticeTo_keeps)
    | (with_reducible apply Keeps.ite)
    | split
    | (with_reducible apply foldl_keepsAll)
    | dsimp only
    | (with_reducible intro _ _ _)
    | (with_reducible intro _ _)
    | (with_reducible intro _)

theorem execBar4Write_keeps {r : State} (a0) (a1) (a2) {s : State} (h : Keeps r s) :
    OutKeeps r (execBar4Write a0 a1 a2 s) := by
  unfold execBar4Write
  repeat' first
    | with_reducible assumption
    | with_reducible apply OutKeeps.next
    | (with_reducible first | apply bump_keeps | apply aperRej_keeps | apply writeSpan_keeps | apply pciRefused_keeps)
    | (with_reducible apply Keeps.ite)
    | split
    | (with_reducible apply foldl_keepsAll)
    | dsimp only
    | (with_reducible intro _ _ _)
    | (with_reducible intro _ _)
    | (with_reducible intro _)

theorem execDmaTransferEnd_keeps {r : State} (a0) (a1) (a2) (a3) (a4) (a5) (a6) {s : State} (h : Keeps r s) :
    OutKeeps r (execDmaTransferEnd a0 a1 a2 a3 a4 a5 a6 s) := by
  unfold execDmaTransferEnd
  repeat' first
    | with_reducible assumption
    | with_reducible apply OutKeeps.next
    | (with_reducible first | apply bump_keeps | apply emit_keeps | apply aperRej_keeps | apply writeLines_keeps | apply bumpN_keeps | apply readSpan_keeps | apply dmaOut_keeps)
    | (with_reducible apply Keeps.ite)
    | split
    | (with_reducible apply foldl_keepsAll)
    | dsimp only
    | (with_reducible intro _ _ _)
    | (with_reducible intro _ _)
    | (with_reducible intro _)

end Sys2Proof.Machine
end

