-- ==== Sys2Proof/Laws/Keeps/Fault.lean ====
section
/-! SUPPORT. The effects of Machine/Fault.lean keep the queue, the fuses and soundness. -/
namespace Sys2Proof.Machine

theorem execFaultEvent_keeps {r : State} (a0) (a1) (a2) (a3) (a4) (a5) (a6) (a7) {s : State} (h : Keeps r s) :
    OutKeeps r (execFaultEvent a0 a1 a2 a3 a4 a5 a6 a7 s) := by
  unfold execFaultEvent
  repeat' first
    | with_reducible assumption
    | with_reducible apply OutKeeps.next
    | with_reducible apply raise_keeps
    | split
    | dsimp only

theorem execFaultWindowEnd_keeps {r : State} (a0) {s : State} (h : Keeps r s) :
    OutKeeps r (execFaultWindowEnd a0 s) := by
  unfold execFaultWindowEnd
  repeat' first
    | with_reducible assumption
    | with_reducible apply OutKeeps.next
    | (with_reducible first | apply ackAll_keeps | apply moveTo_keeps)

theorem execFltAck_keeps {r : State} (a0) {s : State} (h : Keeps r s) :
    OutKeeps r (execFltAck a0 s) := by
  unfold execFltAck
  repeat' first
    | with_reducible assumption
    | with_reducible apply OutKeeps.next
    | (with_reducible first | apply ackDom_keeps | apply ackAll_keeps)
    | split
    | dsimp only

theorem execFltEvtPop_keeps {r : State} (a : Agent) {s : State} (h : Keeps r s) : OutKeeps r (execFltEvtPop a s) := by
  unfold execFltEvtPop
  split
  · exact OutKeeps.next h
  · exact OutKeeps.next (showQueue_keeps (h.queue _ fun x => by simp; omega))

theorem execFltCapClear_keeps {r : State} (a0) {s : State} (h : Keeps r s) :
    OutKeeps r (execFltCapClear a0 s) := by
  unfold execFltCapClear
  repeat' first
    | with_reducible assumption
    | with_reducible apply OutKeeps.next
    | with_reducible apply setRec_keeps
    | split

theorem execFaultNPulseEnd_keeps {r : State} {s : State} (h : Keeps r s) :
    OutKeeps r (execFaultNPulseEnd s) := by
  unfold execFaultNPulseEnd
  repeat' first
    | with_reducible assumption
    | with_reducible apply OutKeeps.next
    | with_reducible apply setB_keeps
    | split

theorem injStart_keeps {r : State} (a0) {s : State} (h : Keeps r s) :
    Keeps r (injStart a0 s) := by
  unfold injStart
  repeat' first
    | (with_reducible first | apply upTo_keepsAll | apply raiseInjected_keeps | apply injApply_keeps)
    | (with_reducible intro _)
    | (with_reducible refine Keeps.updMem ?_ ?_ rfl; rotate_left; (rw [Mems.wf_iff, Mems.wf_iff]; rintro ⟨h1, h2, h3, h4, h5, h6, h7, h8, h9⟩; refine ⟨?_, ?_, ?_, ?_, ?_, ?_, ?_, ?_, ?_⟩ <;> repeat' (with_reducible first | assumption | exact SMap.wf_nil | exact NSet.wf_nil | apply SMap.wf_cond | apply NSet.wf_cond | apply wf_wrBytes | apply SMap.wf_put | apply SMap.wf_del | apply SMap.wf_erase | apply SMap.wf_filter | apply NSet.wf_add | apply NSet.wf_erase | apply NSet.wf_del | apply NSet.wf_filter | apply NSet.wf_foldl_add | apply SMap.wf_foldl_put | split)))
    | (with_reducible refine Keeps.upd ?_ rfl; with_reducible first | assumption | apply upTo_keepsAll | apply raiseInjected_keeps | apply injApply_keeps | split)

theorem injGo_keeps {r : State} {s : State} (h : Keeps r s) :
    Keeps r (injGo s) := by
  unfold injGo
  repeat' first
    | (with_reducible first | apply set_keeps | apply injStart_keeps)
    | (with_reducible refine Keeps.upd ?_ rfl; with_reducible first | assumption | apply set_keeps | apply injStart_keeps | split)

theorem execInjectGo_keeps {r : State} (a0) {s : State} (h : Keeps r s) :
    OutKeeps r (execInjectGo a0 s) := by
  unfold execInjectGo
  repeat' first
    | with_reducible assumption
    | with_reducible apply OutKeeps.next
    | (with_reducible first | apply denied_keeps | apply injGo_keeps | apply set_keeps)
    | split

theorem execInjectionAtTime_keeps {r : State} {s : State} (h : Keeps r s) :
    OutKeeps r (execInjectionAtTime s) := by
  unfold execInjectionAtTime
  repeat' first
    | with_reducible assumption
    | with_reducible apply OutKeeps.next
    | (with_reducible first | apply injStart_keeps | apply moveTo_keeps)
    | split

theorem logRec_keeps {r : State} (a0) {s : State} (h : Keeps r s) :
    Keeps r (logRec a0 s) := by
  unfold logRec
  repeat' first
    | with_reducible assumption
    | with_reducible apply updFw_keeps

theorem execFaultReport_keeps {r : State} {s : State} (h : Keeps r s) :
    OutKeeps r (execFaultReport s) := by
  unfold execFaultReport
  repeat' first
    | with_reducible assumption
    | with_reducible apply OutKeeps.next
    | (with_reducible first | apply updFw_keeps | apply emit_keeps | apply logRec_keeps | apply notify_keeps)
    | split

theorem execFaultSummaryTimer_keeps {r : State} {s : State} (h : Keeps r s) :
    OutKeeps r (execFaultSummaryTimer s) := by
  unfold execFaultSummaryTimer
  repeat' first
    | with_reducible assumption
    | with_reducible apply OutKeeps.next
    | (with_reducible first | apply moveTo_keeps | apply emit_keeps | apply logRec_keeps | apply updFw_keeps)

end Sys2Proof.Machine
end

