-- ==== Sys2Proof/Laws/Keeps/Port.lean ====
section
/-! SUPPORT. The effects of Machine/Port.lean keep the queue, the fuses and soundness. -/
namespace Sys2Proof.Machine

theorem linkHeard_keeps {r : State} (a0) (a1) (a2) {s : State} (h : Keeps r s) :
    Keeps r (linkHeard a0 a1 a2 s) := by
  unfold linkHeard
  repeat' first
    | with_reducible assumption
    | (with_reducible first | apply updFw_keeps)
    | (with_reducible apply Keeps.ite)
    | split
    | (with_reducible apply foldl_keepsAll)
    | dsimp only
    | (with_reducible intro _ _ _)
    | (with_reducible intro _ _)
    | (with_reducible intro _)

theorem flood_keeps {r : State} (a0) {s : State} (h : Keeps r s) :
    Keeps r (flood a0 s) := by
  unfold flood
  repeat' first
    | with_reducible assumption
    | (with_reducible first | apply emit_keeps | apply linkHeard_keeps)
    | (with_reducible apply Keeps.ite)
    | split
    | (with_reducible apply foldl_keepsAll)
    | dsimp only
    | (with_reducible intro _ _ _)
    | (with_reducible intro _ _)
    | (with_reducible intro _)

theorem portEvent_keeps {r : State} (a0) {s : State} (h : Keeps r s) :
    Keeps r (portEvent a0 s) := by
  unfold portEvent
  repeat' first
    | with_reducible assumption
    | (with_reducible first | apply freeBytes_keeps | apply notify_keeps)
    | (with_reducible apply Keeps.ite)
    | split
    | (with_reducible apply foldl_keepsAll)
    | dsimp only
    | (with_reducible intro _ _ _)
    | (with_reducible intro _ _)
    | (with_reducible intro _)

theorem setP_keeps {r : State} (a0) (a1) {s : State} (h : Keeps r s) :
    Keeps r (setP a0 a1 s) := by
  unfold setP
  repeat' first
    | with_reducible assumption
    | (with_reducible first | apply set_keeps | apply when_keepsAll | apply portEvent_keeps | apply flood_keeps)
    | (with_reducible apply Keeps.ite)
    | split
    | (with_reducible apply foldl_keepsAll)
    | dsimp only
    | (with_reducible intro _ _ _)
    | (with_reducible intro _ _)
    | (with_reducible intro _)

theorem showCredit_keeps {r : State} (a0) {s : State} (h : Keeps r s) :
    Keeps r (showCredit a0 s) := by
  unfold showCredit
  repeat' first
    | with_reducible assumption
    | with_reducible apply set_keeps

theorem discard_keeps {r : State} (a0) (a1) (a2) (a3) {s : State} (h : Keeps r s) :
    Keeps r (discard a0 a1 a2 a3 s) := by
  unfold discard
  repeat' first
    | with_reducible assumption
    | (with_reducible first | apply each_keepsAll | apply bump_keeps | apply nackLocal_keeps)
    | split
    | (with_reducible intro _)

theorem dropLink_keeps {r : State} (a0) {s : State} (h : Keeps r s) :
    Keeps r (dropLink a0 s) := by
  unfold dropLink
  repeat' first
    | with_reducible assumption
    | (with_reducible first | apply discard_keeps | apply showCredit_keeps | apply set_keeps | apply setB_keeps | apply updPort_keeps)

theorem linkDown_keeps {r : State} (a0) {s : State} (h : Keeps r s) :
    Keeps r (linkDown a0 s) := by
  unfold linkDown
  repeat' first
    | with_reducible assumption
    | (with_reducible first | apply raise_keeps | apply bump_keeps | apply setP_keeps | apply dropLink_keeps)

theorem startRetrain_keeps {r : State} (a0) {s : State} (h : Keeps r s) :
    Keeps r (startRetrain a0 s) := by
  unfold startRetrain
  repeat' first
    | with_reducible assumption
    | (with_reducible first | apply raise_keeps | apply bump_keeps | apply updPort_keeps)

theorem enterQuar_keeps {r : State} (a0) (a1) {s : State} (h : Keeps r s) :
    Keeps r (enterQuar a0 a1 s) := by
  unfold enterQuar
  repeat' first
    | with_reducible assumption
    | (with_reducible first | apply discard_keeps | apply updPort_keeps | apply set_keeps | apply setP_keeps)

theorem hwQuar_keeps {r : State} (a0) (a1) {s : State} (h : Keeps r s) :
    Keeps r (hwQuar a0 a1 s) := by
  unfold hwQuar
  repeat' first
    | with_reducible assumption
    | (with_reducible first | apply raise_keeps | apply enterQuar_keeps)

theorem portRej_keeps {r : State} (a0) {s : State} (h : Keeps r s) :
    Keeps r (portRej a0 s) := by
  unfold portRej
  repeat' first
    | with_reducible assumption
    | with_reducible apply bump_keeps

theorem execPortEnable_keeps {r : State} (a0) {s : State} (h : Keeps r s) :
    OutKeeps r (execPortEnable a0 s) := by
  unfold execPortEnable
  repeat' first
    | with_reducible assumption
    | with_reducible apply OutKeeps.next
    | (with_reducible first | apply ifNet_keeps | apply setP_keeps | apply setB_keeps | apply raise_keeps | apply bump_keeps)
    | (with_reducible apply Keeps.ite)
    | split
    | (with_reducible apply foldl_keepsAll)
    | dsimp only
    | (with_reducible intro _ _ _)
    | (with_reducible intro _ _)
    | (with_reducible intro _)

theorem enqueue_keeps {r : State} (a0) (a1) {s : State} (h : Keeps r s) :
    Keeps r (enqueue a0 a1 s) := by
  unfold enqueue
  repeat' first
    | with_reducible assumption
    | with_reducible apply updPort_keeps

theorem sendAuth_keeps {r : State} (a0) (a1) {s : State} (h : Keeps r s) :
    Keeps r (sendAuth a0 a1 s) := by
  unfold sendAuth
  repeat' first
    | with_reducible assumption
    | (with_reducible first | apply enqueue_keeps)
    | (with_reducible apply Keeps.ite)
    | split
    | (with_reducible apply foldl_keepsAll)
    | dsimp only
    | (with_reducible intro _ _ _)
    | (with_reducible intro _ _)
    | (with_reducible intro _)

theorem startAuth_keeps {r : State} (a0) {s : State} (h : Keeps r s) :
    Keeps r (startAuth a0 s) := by
  unfold startAuth
  repeat' first
    | with_reducible assumption
    | (with_reducible first | apply freeBytes_keeps | apply sendAuth_keeps | apply updPort_keeps | apply upTo_keepsAll)
    | (with_reducible apply Keeps.ite)
    | split
    | (with_reducible apply foldl_keepsAll)
    | dsimp only
    | (with_reducible intro _ _ _)
    | (with_reducible intro _ _)
    | (with_reducible intro _)

theorem execPortTrainingDone_keeps {r : State} (a0) (a1) {s : State} (h : Keeps r s) :
    OutKeeps r (execPortTrainingDone a0 a1 s) := by
  unfold execPortTrainingDone
  repeat' first
    | with_reducible assumption
    | with_reducible apply OutKeeps.next
    | (with_reducible first | apply startAuth_keeps | apply showCredit_keeps | apply when_keepsAll | apply setB_keeps | apply updPort_keeps | apply set_keeps | apply setP_keeps)
    | (with_reducible apply Keeps.ite)
    | split
    | (with_reducible apply foldl_keepsAll)
    | dsimp only
    | (with_reducible intro _ _ _)
    | (with_reducible intro _ _)
    | (with_reducible intro _)

theorem execPortMissingTimeout_keeps {r : State} (a0) {s : State} (h : Keeps r s) :
    OutKeeps r (execPortMissingTimeout a0 s) := by
  unfold execPortMissingTimeout
  repeat' first
    | with_reducible assumption
    | with_reducible apply OutKeeps.next
    | (with_reducible first | apply setP_keeps | apply dropLink_keeps)
    | split

theorem execPortTrainFailTimeout_keeps {r : State} (a0) {s : State} (h : Keeps r s) :
    OutKeeps r (execPortTrainFailTimeout a0 s) := by
  unfold execPortTrainFailTimeout
  repeat' first
    | with_reducible assumption
    | with_reducible apply OutKeeps.next
    | (with_reducible first | apply setP_keeps | apply dropLink_keeps)
    | split

theorem execPortSignalDetect_keeps {r : State} (a0) {s : State} (h : Keeps r s) :
    OutKeeps r (execPortSignalDetect a0 s) := by
  unfold execPortSignalDetect
  repeat' first
    | with_reducible assumption
    | with_reducible apply OutKeeps.next
    | (with_reducible first | apply setP_keeps | apply setB_keeps)
    | split
    | dsimp only

theorem admitPort_keeps {r : State} (a0) {s : State} (h : Keeps r s) :
    Keeps r (admitPort a0 s) := by
  unfold admitPort
  repeat' first
    | with_reducible assumption
    | (with_reducible first | apply updBoot_keeps | apply setP_keeps)
    | (with_reducible apply Keeps.ite)
    | split
    | (with_reducible apply foldl_keepsAll)
    | dsimp only
    | (with_reducible intro _ _ _)
    | (with_reducible intro _ _)
    | (with_reducible intro _)

theorem execPortAdmit_keeps {r : State} (a0) {s : State} (h : Keeps r s) :
    OutKeeps r (execPortAdmit a0 s) := by
  unfold execPortAdmit
  repeat' first
    | with_reducible assumption
    | with_reducible apply OutKeeps.next
    | (with_reducible first | apply ifNet_keeps | apply admitPort_keeps | apply portRej_keeps)
    | (with_reducible apply Keeps.ite)
    | split
    | (with_reducible apply foldl_keepsAll)
    | dsimp only
    | (with_reducible intro _ _ _)
    | (with_reducible intro _ _)
    | (with_reducible intro _)

theorem execPortQuarantine_keeps {r : State} (a0) {s : State} (h : Keeps r s) :
    OutKeeps r (execPortQuarantine a0 s) := by
  unfold execPortQuarantine
  repeat' first
    | with_reducible assumption
    | with_reducible apply OutKeeps.next
    | (with_reducible first | apply ifNet_keeps | apply enterQuar_keeps | apply portRej_keeps)
    | (with_reducible apply Keeps.ite)
    | split
    | (with_reducible apply foldl_keepsAll)
    | dsimp only
    | (with_reducible intro _ _ _)
    | (with_reducible intro _ _)
    | (with_reducible intro _)

theorem retrainPort_keeps {r : State} (a0) {s : State} (h : Keeps r s) :
    Keeps r (retrainPort a0 s) := by
  unfold retrainPort
  repeat' first
    | with_reducible assumption
    | (with_reducible first | apply portRej_keeps | apply startRetrain_keeps | apply set_keeps | apply setB_keeps | apply updPort_keeps | apply setP_keeps)
    | split

theorem execPortRetrain_keeps {r : State} (a0) {s : State} (h : Keeps r s) :
    OutKeeps r (execPortRetrain a0 s) := by
  unfold execPortRetrain
  repeat' first
    | with_reducible assumption
    | with_reducible apply OutKeeps.next
    | (with_reducible first | apply ifNet_keeps | apply retrainPort_keeps)
    | (with_reducible apply Keeps.ite)
    | split
    | (with_reducible apply foldl_keepsAll)
    | dsimp only
    | (with_reducible intro _ _ _)
    | (with_reducible intro _ _)
    | (with_reducible intro _)

theorem disablePort_keeps {r : State} (a0) {s : State} (h : Keeps r s) :
    Keeps r (disablePort a0 s) := by
  unfold disablePort
  repeat' first
    | with_reducible assumption
    | (with_reducible first | apply portRej_keeps | apply setB_keeps | apply setP_keeps | apply dropLink_keeps)
    | split

theorem execPortDisable_keeps {r : State} (a0) {s : State} (h : Keeps r s) :
    OutKeeps r (execPortDisable a0 s) := by
  unfold execPortDisable
  repeat' first
    | with_reducible assumption
    | with_reducible apply OutKeeps.next
    | (with_reducible first | apply ifNet_keeps | apply disablePort_keeps)
    | (with_reducible apply Keeps.ite)
    | split
    | (with_reducible apply foldl_keepsAll)
    | dsimp only
    | (with_reducible intro _ _ _)
    | (with_reducible intro _ _)
    | (with_reducible intro _)

theorem execPortMissing_keeps {r : State} (a0) {s : State} (h : Keeps r s) :
    OutKeeps r (execPortMissing a0 s) := by
  unfold execPortMissing
  repeat' first
    | with_reducible assumption
    | with_reducible apply OutKeeps.next
    | (with_reducible first | apply ifNet_keeps | apply setP_keeps | apply dropLink_keeps | apply portRej_keeps)
    | (with_reducible apply Keeps.ite)
    | split
    | (with_reducible apply foldl_keepsAll)
    | dsimp only
    | (with_reducible intro _ _ _)
    | (with_reducible intro _ _)
    | (with_reducible intro _)

theorem execRetrainDone_keeps {r : State} (a0) {s : State} (h : Keeps r s) :
    OutKeeps r (execRetrainDone a0 s) := by
  unfold execRetrainDone
  repeat' first
    | with_reducible assumption
    | with_reducible apply OutKeeps.next
    | with_reducible apply updPort_keeps

theorem execLinkDown_keeps {r : State} (a0) {s : State} (h : Keeps r s) :
    OutKeeps r (execLinkDown a0 s) := by
  unfold execLinkDown
  repeat' first
    | with_reducible assumption
    | with_reducible apply OutKeeps.next
    | with_reducible apply linkDown_keeps
    | split

theorem execPartnerSignalLoss_keeps {r : State} (a0) {s : State} (h : Keeps r s) :
    OutKeeps r (execPartnerSignalLoss a0 s) := by
  unfold execPartnerSignalLoss
  repeat' first
    | with_reducible assumption
    | with_reducible apply OutKeeps.next
    | (with_reducible first | apply setB_keeps | apply linkDown_keeps)
    | split
    | dsimp only

theorem askNak_keeps {r : State} (a0) {s : State} (h : Keeps r s) :
    Keeps r (askNak a0 s) := by
  unfold askNak
  repeat' first
    | with_reducible assumption
    | (with_reducible first | apply bump_keeps | apply updPort_keeps | apply startRetrain_keeps)
    | (with_reducible apply Keeps.ite)

theorem nakSent_keeps {r : State} (a0) {s : State} (h : Keeps r s) :
    Keeps r (nakSent a0 s) := by
  unfold nakSent
  repeat' first
    | with_reducible assumption
    | (with_reducible first | apply bump_keeps | apply updPort_keeps | apply startRetrain_keeps)
    | (with_reducible apply Keeps.ite)
    | split
    | (with_reducible apply foldl_keepsAll)
    | dsimp only
    | (with_reducible intro _ _ _)
    | (with_reducible intro _ _)
    | (with_reducible intro _)

theorem countCw_keeps {r : State} (a0) (a1) (a2) {s : State} (h : Keeps r s) :
    Keeps r (countCw a0 a1 a2 s) := by
  unfold countCw
  repeat' first
    | with_reducible assumption
    | (with_reducible first | apply updPort_keeps | apply when_keepsAll | apply upTo_keepsAll | apply bumpN_keeps | apply bump_keeps | apply startRetrain_keeps)
    | (with_reducible apply Keeps.ite)
    | split
    | (with_reducible intro _)

theorem takeTrailer_keeps {r : State} (a0) (a1) {s : State} (h : Keeps r s) :
    Keeps r (takeTrailer a0 a1 s) := by
  unfold takeTrailer
  repeat' first
    | with_reducible assumption
    | (with_reducible first | apply updPort_keeps | apply showCredit_keeps | apply when_keepsAll | apply bump_keeps)

theorem fillBuckets_keeps {r : State} (a0) {s : State} (h : Keeps r s) :
    Keeps r (fillBuckets a0 s) := by
  unfold fillBuckets
  repeat' first
    | with_reducible assumption
    | with_reducible apply updPort_keeps

theorem policeIn_keeps {r : State} (a0) (a1) {s : State} (h : Keeps r s) :
    Keeps r (policeIn a0 a1 s).2 := by
  unfold policeIn
  repeat' first
    | with_reducible assumption
    | (with_reducible first | apply fillBuckets_keeps | apply updPort_keeps)
    | split
    | dsimp only

theorem freeCredit_keeps {r : State} (a0) (a1) {s : State} (h : Keeps r s) :
    Keeps r (freeCredit a0 a1 s) := by
  unfold freeCredit
  repeat' first
    | with_reducible assumption
    | with_reducible apply updPort_keeps

theorem freePlace_keeps {r : State} (a0) (a1) {s : State} (h : Keeps r s) :
    Keeps r (freePlace a0 a1 s) := by
  unfold freePlace
  repeat' first
    | with_reducible assumption
    | (with_reducible first | apply freeCredit_keeps | apply updPort_keeps)
    | (with_reducible apply Keeps.ite)
    | split
    | (with_reducible apply foldl_keepsAll)
    | dsimp only
    | (with_reducible intro _ _ _)
    | (with_reducible intro _ _)
    | (with_reducible intro _)

theorem acceptCell_keeps {r : State} (a0) (a1) (a2) (a3) {s : State} (h : Keeps r s) :
    Keeps r (acceptCell a0 a1 a2 a3 s) := by
  unfold acceptCell
  repeat' first
    | with_reducible assumption
    | (with_reducible first | apply freeCredit_keeps | apply askNack_keeps | apply bump_keeps | apply updPort_keeps)
    | (with_reducible apply Keeps.ite)

theorem newWindow_keeps {r : State} (a0) {s : State} (h : Keeps r s) :
    Keeps r (newWindow a0 s) := by
  unfold newWindow
  repeat' first
    | with_reducible assumption
    | (with_reducible first | apply updPort_keeps)
    | (with_reducible apply Keeps.ite)
    | split
    | (with_reducible apply foldl_keepsAll)
    | dsimp only
    | (with_reducible intro _ _ _)
    | (with_reducible intro _ _)
    | (with_reducible intro _)

theorem judgeCell_keeps {r : State} (a0) (a1) (a2) {s : State} (h : Keeps r s) :
    Keeps r (judgeCell a0 a1 a2 s) := by
  unfold judgeCell
  repeat' first
    | with_reducible assumption
    | (with_reducible first | apply bump_keeps | apply freeCredit_keeps | apply updPort_keeps | apply newWindow_keeps | apply hwQuar_keeps | apply policeIn_keeps | apply when_keepsAll | apply askNack_keeps | apply acceptCell_keeps)
    | (with_reducible apply Keeps.ite)
    | split
    | (with_reducible apply foldl_keepsAll)
    | dsimp only
    | (with_reducible intro _ _ _)
    | (with_reducible intro _ _)
    | (with_reducible intro _)

theorem seeSeq_keeps {r : State} (a0) (a1) {s : State} (h : Keeps r s) :
    Keeps r (seeSeq a0 a1 s) := by
  unfold seeSeq
  repeat' first
    | with_reducible assumption
    | (with_reducible first | apply updPort_keeps)
    | (with_reducible apply Keeps.ite)
    | split
    | (with_reducible apply foldl_keepsAll)
    | dsimp only
    | (with_reducible intro _ _ _)
    | (with_reducible intro _ _)
    | (with_reducible intro _)

theorem receive_keeps {r : State} (a0) (a1) {s : State} (h : Keeps r s) :
    Keeps r (receive a0 a1 s) := by
  unfold receive
  repeat' first
    | with_reducible assumption
    | (with_reducible first | apply countCw_keeps | apply when_keepsAll | apply injApply_keeps | apply askNak_keeps | apply bump_keeps | apply seeSeq_keeps | apply takeTrailer_keeps | apply judgeCell_keeps | apply updPort_keeps)
    | (with_reducible apply Keeps.ite)
    | split
    | (with_reducible apply foldl_keepsAll)
    | dsimp only
    | (with_reducible intro _ _ _)
    | (with_reducible intro _ _)
    | (with_reducible intro _)

theorem execCellReceive_keeps {r : State} (a0) (a1) {s : State} (h : Keeps r s) :
    OutKeeps r (execCellReceive a0 a1 s) := by
  unfold execCellReceive
  repeat' first
    | with_reducible assumption
    | with_reducible apply OutKeeps.next
    | with_reducible apply receive_keeps
    | split

theorem sendBack_keeps {r : State} (a0) (a1) {s : State} (h : Keeps r s) :
    Keeps r (sendBack a0 a1 s) := by
  unfold sendBack
  repeat' first
    | with_reducible assumption
    | (with_reducible first | apply inject_keeps | apply bump_keeps)
    | (with_reducible apply Keeps.ite)
    | split
    | (with_reducible apply foldl_keepsAll)
    | dsimp only
    | (with_reducible intro _ _ _)
    | (with_reducible intro _ _)
    | (with_reducible intro _)

theorem stackCell_keeps {r : State} (a0) (a1) (a2) {s : State} (h : Keeps r s) :
    Keeps r (stackCell a0 a1 a2 s) := by
  unfold stackCell
  repeat' first
    | with_reducible assumption
    | (with_reducible first | apply bump_keeps | apply askNack_keeps | apply freeBytes_keeps | apply sendBack_keeps | apply inject_keeps)
    | (with_reducible apply Keeps.ite)

theorem mgmtCell_keeps {r : State} (a0) (a1) {s : State} (h : Keeps r s) :
    Keeps r (mgmtCell a0 a1 s) := by
  unfold mgmtCell
  repeat' first
    | with_reducible assumption
    | (with_reducible first | apply tagNack_keeps | apply inject_keeps)
    | (with_reducible apply Keeps.ite)
    | split
    | (with_reducible apply foldl_keepsAll)
    | dsimp only
    | (with_reducible intro _ _ _)
    | (with_reducible intro _ _)
    | (with_reducible intro _)
    | (with_reducible refine Keeps.upd ?_ rfl; with_reducible first | assumption | apply tagNack_keeps | apply inject_keeps | split)

theorem localCell_keeps {r : State} (a0) (a1) {s : State} (h : Keeps r s) :
    Keeps r (localCell a0 a1 s) := by
  unfold localCell
  repeat' first
    | with_reducible assumption
    | (with_reducible first | apply askNack_keeps | apply bump_keeps | apply mgmtCell_keeps | apply stackCell_keeps | apply tagRsp_keeps | apply inject_keeps)
    | (with_reducible apply Keeps.ite)
    | split
    | (with_reducible apply foldl_keepsAll)
    | dsimp only
    | (with_reducible intro _ _ _)
    | (with_reducible intro _ _)
    | (with_reducible intro _)

theorem exitCell_keeps {r : State} (a0) (a1) {s : State} (h : Keeps r s) :
    Keeps r (exitCell a0 a1 s) := by
  unfold exitCell
  repeat' first
    | (with_reducible first | apply askNack_keeps | apply bump_keeps | apply inject_keeps | apply localCell_keeps)
    | (with_reducible refine Keeps.upd ?_ rfl; with_reducible first | assumption | apply askNack_keeps | apply bump_keeps | apply inject_keeps | apply localCell_keeps | split)

theorem execCellIngressExit_keeps {r : State} (a0) (a1) {s : State} (h : Keeps r s) :
    OutKeeps r (execCellIngressExit a0 a1 s) := by
  unfold execCellIngressExit
  repeat' first
    | with_reducible assumption
    | with_reducible apply OutKeeps.next
    | (with_reducible first | apply exitCell_keeps | apply freePlace_keeps | apply updPort_keeps)
    | (with_reducible apply Keeps.ite)
    | split
    | (with_reducible apply foldl_keepsAll)
    | dsimp only
    | (with_reducible intro _ _ _)
    | (with_reducible intro _ _)
    | (with_reducible intro _)

theorem sendBlock_keeps {r : State} (a0) (a1) {s : State} (h : Keeps r s) :
    Keeps r (sendBlock a0 a1 s) := by
  unfold sendBlock
  repeat' first
    | with_reducible assumption
    | (with_reducible first | apply when_keepsAll | apply nakSent_keeps | apply updPort_keeps)
    | (with_reducible apply Keeps.ite)
    | split
    | (with_reducible apply foldl_keepsAll)
    | dsimp only
    | (with_reducible intro _ _ _)
    | (with_reducible intro _ _)
    | (with_reducible intro _)

theorem txCell_keeps {r : State} (a0) (a1) {s : State} (h : Keeps r s) :
    Keeps r (txCell a0 a1 s) := by
  unfold txCell
  repeat' first
    | with_reducible assumption
    | (with_reducible first | apply updPort_keeps | apply showCredit_keeps | apply sendBlock_keeps | apply bump_keeps)

theorem sendNack_keeps {r : State} (a0) {s : State} (h : Keeps r s) :
    Keeps r (sendNack a0 s) := by
  unfold sendNack
  repeat' first
    | with_reducible assumption
    | (with_reducible first | apply bump_keeps | apply updPort_keeps | apply inject_keeps)
    | split
    | dsimp only

theorem execEgressBlock_keeps {r : State} (a0) {s : State} (h : Keeps r s) :
    OutKeeps r (execEgressBlock a0 s) := by
  unfold execEgressBlock
  repeat' first
    | with_reducible assumption
    | with_reducible apply OutKeeps.next
    | (with_reducible first | apply sendNack_keeps | apply fillBuckets_keeps | apply sendBlock_keeps | apply updPort_keeps | apply bump_keeps | apply when_keepsAll | apply txCell_keeps)
    | split
    | dsimp only

theorem execFecIntervalEnd_keeps {r : State} (a0) {s : State} (h : Keeps r s) :
    OutKeeps r (execFecIntervalEnd a0 s) := by
  unfold execFecIntervalEnd
  repeat' first
    | with_reducible assumption
    | with_reducible apply OutKeeps.next
    | (with_reducible first | apply updPort_keeps | apply setB_keeps | apply set_keeps | apply raise_keeps)
    | split
    | dsimp only

theorem execQuarWindowEnd_keeps {r : State} (a0) {s : State} (h : Keeps r s) :
    OutKeeps r (execQuarWindowEnd a0 s) := by
  unfold execQuarWindowEnd
  repeat' first
    | with_reducible assumption
    | with_reducible apply OutKeeps.next
    | (with_reducible first | apply newWindow_keeps)
    | (with_reducible apply Keeps.ite)
    | split
    | (with_reducible apply foldl_keepsAll)
    | dsimp only
    | (with_reducible intro _ _ _)
    | (with_reducible intro _ _)
    | (with_reducible intro _)

theorem authFail_keeps {r : State} (a0) (a1) {s : State} (h : Keeps r s) :
    Keeps r (authFail a0 a1 s) := by
  unfold authFail
  repeat' first
    | with_reducible assumption
    | (with_reducible first | apply emit_keeps | apply enterQuar_keeps)

theorem settlePort_keeps {r : State} (a0) {s : State} (h : Keeps r s) :
    Keeps r (settlePort a0 s) := by
  unfold settlePort
  repeat' first
    | with_reducible assumption
    | (with_reducible first | apply admitPort_keeps | apply emit_keeps | apply enterQuar_keeps)
    | (with_reducible apply Keeps.ite)
    | split
    | (with_reducible apply foldl_keepsAll)
    | dsimp only
    | (with_reducible intro _ _ _)
    | (with_reducible intro _ _)
    | (with_reducible intro _)

theorem authMsg_keeps {r : State} (a0) (a1) {s : State} (h : Keeps r s) :
    Keeps r (authMsg a0 a1 s) := by
  unfold authMsg
  repeat' first
    | with_reducible assumption
    | (with_reducible first | apply authFail_keeps | apply sendAuth_keeps | apply updPort_keeps | apply set_keeps | apply settlePort_keeps)
    | (with_reducible apply Keeps.ite)
    | split

theorem execAuthCell_keeps {r : State} (a0) (a1) {s : State} (h : Keeps r s) :
    OutKeeps r (execAuthCell a0 a1 s) := by
  unfold execAuthCell
  repeat' first
    | with_reducible assumption
    | with_reducible apply OutKeeps.next
    | (with_reducible first | apply freePlace_keeps | apply updPort_keeps | apply authMsg_keeps)
    | (with_reducible apply Keeps.ite)
    | split
    | (with_reducible apply foldl_keepsAll)
    | dsimp only
    | (with_reducible intro _ _ _)
    | (with_reducible intro _ _)
    | (with_reducible intro _)

theorem execAdmissionTimeout_keeps {r : State} (a0) {s : State} (h : Keeps r s) :
    OutKeeps r (execAdmissionTimeout a0 s) := by
  unfold execAdmissionTimeout
  repeat' first
    | with_reducible assumption
    | with_reducible apply OutKeeps.next
    | with_reducible apply authFail_keeps
    | split

end Sys2Proof.Machine
end

