-- ==== Sys2Proof/Laws/Keeps/Sync.lean ====
section
/-! SUPPORT. The effects of Machine/Sync.lean keep the queue, the fuses and soundness. -/
namespace Sys2Proof.Machine

theorem takeMarker_keeps {r : State} (p k : Nat) {s t : State} {a : Nat} {c : Cell} (h : Keeps r s)
    (ht : takeMarker p k s = some (a, c, t)) : Keeps r t := by
  unfold takeMarker at ht
  split at ht
  · cases ht
  · cases ht; exact freePlace_keeps _ _ (updPort_keeps _ _ h)

theorem execSyncMarkerTimer_keeps {r : State} {s : State} (h : Keeps r s) :
    OutKeeps r (execSyncMarkerTimer s) := by
  unfold execSyncMarkerTimer
  repeat' first
    | with_reducible assumption
    | with_reducible apply OutKeeps.next
    | (with_reducible first | apply moveTo_keeps | apply each_keepsAll | apply enqueue_keeps)
    | (with_reducible apply Keeps.ite)
    | split
    | (with_reducible apply foldl_keepsAll)
    | dsimp only
    | (with_reducible intro _ _ _)
    | (with_reducible intro _ _)
    | (with_reducible intro _)
    | (with_reducible refine Keeps.upd ?_ rfl; with_reducible first | assumption | apply moveTo_keeps | apply each_keepsAll | apply enqueue_keeps | split)

theorem toAcquire_keeps {r : State} (a0) {s : State} (h : Keeps r s) :
    Keeps r (toAcquire a0 s) := by
  unfold toAcquire
  repeat' first
    | with_reducible apply set_keeps
    | (with_reducible refine Keeps.upd ?_ rfl; with_reducible first | assumption | apply set_keeps | split)

theorem takeSync_keeps {r : State} (a0) (a1) (a2) {s : State} (h : Keeps r s) :
    Keeps r (takeSync a0 a1 a2 s) := by
  unfold takeSync
  repeat' first
    | (with_reducible first | apply bump_keeps | apply enqueue_keeps | apply updPort_keeps | apply toAcquire_keeps | apply set_keeps)
    | (with_reducible refine Keeps.upd ?_ rfl; with_reducible first | assumption | apply bump_keeps | apply enqueue_keeps | apply updPort_keeps | apply toAcquire_keeps | apply set_keeps | split)

theorem execSyncReceived_keeps {r : State} (a0) {s : State} (h : Keeps r s) :
    OutKeeps r (execSyncReceived a0 s) := by
  unfold execSyncReceived
  repeat' first
    | with_reducible assumption
    | with_reducible apply OutKeeps.next
    | (with_reducible first | apply bump_keeps | apply takeSync_keeps)
    | exact takeMarker_keeps _ _ (by with_reducible assumption) (by assumption)
    | (with_reducible apply Keeps.ite)
    | split
    | (with_reducible apply foldl_keepsAll)
    | dsimp only
    | (with_reducible intro _ _ _)
    | (with_reducible intro _ _)
    | (with_reducible intro _)

theorem execDelayReqReceived_keeps {r : State} (a0) {s : State} (h : Keeps r s) :
    OutKeeps r (execDelayReqReceived a0 s) := by
  unfold execDelayReqReceived
  repeat' first
    | with_reducible assumption
    | with_reducible apply OutKeeps.next
    | with_reducible apply enqueue_keeps
    | exact takeMarker_keeps _ _ (by with_reducible assumption) (by assumption)
    | split

theorem rebase_keeps {r : State} (a0) {s : State} (h : Keeps r s) :
    Keeps r (rebase a0 s) := by
  unfold rebase
  repeat' first
    | with_reducible assumption
    | (with_reducible apply Keeps.ite)
    | split
    | (with_reducible apply foldl_keepsAll)
    | dsimp only
    | (with_reducible intro _ _ _)
    | (with_reducible intro _ _)
    | (with_reducible intro _)
    | (with_reducible refine Keeps.upd ?_ rfl; with_reducible first | assumption | split)

theorem stepTime_keeps {r : State} (a0) {s : State} (h : Keeps r s) :
    Keeps r (stepTime a0 s) := by
  unfold stepTime
  repeat' first
    | with_reducible assumption
    | (with_reducible first | apply set_keeps | apply rebase_keeps | apply when_keepsAll | apply setB_keeps)
    | (with_reducible apply Keeps.ite)
    | split
    | (with_reducible apply foldl_keepsAll)
    | dsimp only
    | (with_reducible intro _ _ _)
    | (with_reducible intro _ _)
    | (with_reducible intro _)
    | (with_reducible refine Keeps.upd ?_ rfl; with_reducible first | assumption | apply set_keeps | apply rebase_keeps | apply when_keepsAll | apply setB_keeps | split)

theorem accept_keeps {r : State} (a0) {s : State} (h : Keeps r s) :
    Keeps r (accept a0 s) := by
  unfold accept
  repeat' first
    | (with_reducible first | apply drawFree_keeps | apply set_keeps)
    | (with_reducible refine Keeps.upd ?_ rfl; with_reducible first | assumption | apply drawFree_keeps | apply set_keeps | split)

theorem lockedSample_keeps {r : State} (a0) {s : State} (h : Keeps r s) :
    Keeps r (lockedSample a0 s) := by
  unfold lockedSample
  repeat' first
    | (with_reducible first | apply bump_keeps | apply accept_keeps | apply raise_keeps | apply toAcquire_keeps)
    | (with_reducible refine Keeps.upd ?_ rfl; with_reducible first | assumption | apply bump_keeps | apply accept_keeps | apply raise_keeps | apply toAcquire_keeps | split)

theorem acquireSample_keeps {r : State} (a0) {s : State} (h : Keeps r s) :
    Keeps r (acquireSample a0 s) := by
  unfold acquireSample
  repeat' first
    | (with_reducible first | apply stepTime_keeps | apply accept_keeps | apply set_keeps)
    | (with_reducible refine Keeps.upd ?_ rfl; with_reducible first | assumption | apply stepTime_keeps | apply accept_keeps | apply set_keeps | split)

theorem sample_keeps {r : State} (a0) (a1) (a2) (a3) (a4) {s : State} (h : Keeps r s) :
    Keeps r (sample a0 a1 a2 a3 a4 s) := by
  unfold sample
  repeat' first
    | with_reducible assumption
    | (with_reducible first | apply set_keeps | apply raise_keeps | apply hwSet_keeps | apply lockedSample_keeps | apply acquireSample_keeps)
    | (with_reducible apply Keeps.ite)
    | split
    | (with_reducible apply foldl_keepsAll)
    | dsimp only
    | (with_reducible intro _ _ _)
    | (with_reducible intro _ _)
    | (with_reducible intro _)
    | (with_reducible refine Keeps.upd ?_ rfl; with_reducible first | assumption | apply set_keeps | apply raise_keeps | apply hwSet_keeps | apply lockedSample_keeps | apply acquireSample_keeps | split)

theorem execDelayRespReceived_keeps {r : State} (a0) {s : State} (h : Keeps r s) :
    OutKeeps r (execDelayRespReceived a0 s) := by
  unfold execDelayRespReceived
  repeat' first
    | with_reducible assumption
    | with_reducible apply OutKeeps.next
    | (with_reducible first | apply sample_keeps | apply updPort_keeps)
    | exact takeMarker_keeps _ _ (by with_reducible assumption) (by assumption)
    | split

theorem holdover_keeps {r : State} (a0) {s : State} (h : Keeps r s) :
    Keeps r (holdover a0 s) := by
  unfold holdover
  repeat' first
    | with_reducible assumption
    | (with_reducible first | apply raise_keeps | apply bump_keeps | apply set_keeps)

theorem parentLost_keeps {r : State} {s : State} (h : Keeps r s) :
    Keeps r (parentLost s) := by
  unfold parentLost
  repeat' first
    | (with_reducible first | apply moveTo_keeps | apply set_keeps | apply holdover_keeps)
    | (with_reducible refine Keeps.upd ?_ rfl; with_reducible first | assumption | apply moveTo_keeps | apply set_keeps | apply holdover_keeps | split)

theorem execParentLossTimeout_keeps {r : State} {s : State} (h : Keeps r s) :
    OutKeeps r (execParentLossTimeout s) := by
  unfold execParentLossTimeout
  repeat' first
    | with_reducible assumption
    | with_reducible apply OutKeeps.next
    | with_reducible apply parentLost_keeps

theorem holdoverEnd_keeps {r : State} {s : State} (h : Keeps r s) :
    Keeps r (holdoverEnd s) := by
  unfold holdoverEnd
  repeat' first
    | with_reducible assumption
    | (with_reducible first | apply holdover_keeps | apply moveTo_keeps)
    | (with_reducible apply Keeps.ite)

theorem showTime_keeps {r : State} (a0) {s : State} (h : Keeps r s) :
    Keeps r (showTime a0 s) := by
  unfold showTime
  repeat' first
    | with_reducible apply set_keeps
    | (with_reducible refine Keeps.upd ?_ rfl; with_reducible first | assumption | apply set_keeps | split)

theorem tickTime_keeps {r : State} {s : State} (h : Keeps r s) :
    Keeps r (tickTime s) := by
  unfold tickTime
  repeat' first
    | with_reducible assumption
    | with_reducible apply showTime_keeps

end Sys2Proof.Machine
end

