-- ==== Sys2Proof/Laws/Keeps/Topo.lean ====
section
/-! SUPPORT. The effects of Machine/Topo.lean keep the queue, the fuses and soundness. -/
namespace Sys2Proof.Machine

theorem planPort_keeps {r : State} (a0) (a1) {s : State} (h : Keeps r s) :
    Keeps r (planPort a0 a1 s) := by
  unfold planPort
  repeat' first
    | with_reducible assumption
    | (with_reducible first | apply fwWrite_keeps | apply set_keeps | apply setB_keeps)

theorem writeSrc_keeps {r : State} (a0) (a1) {s : State} (h : Keeps r s) :
    Keeps r (writeSrc a0 a1 s) := by
  unfold writeSrc
  repeat' first
    | with_reducible assumption
    | (with_reducible first | apply upTo_keepsAll | apply fwWrite_keeps)
    | (with_reducible apply Keeps.ite)
    | split
    | (with_reducible apply foldl_keepsAll)
    | dsimp only
    | (with_reducible intro _ _ _)
    | (with_reducible intro _ _)
    | (with_reducible intro _)

theorem planRegs_keeps {r : State} (a0) (a1) {s : State} (h : Keeps r s) :
    Keeps r (planRegs a0 a1 s) := by
  unfold planRegs
  repeat' first
    | with_reducible assumption
    | (with_reducible first | apply when_keepsAll | apply fwWrite_keeps | apply retick_keeps | apply noParent_keeps | apply set_keeps | apply bump_keeps | apply each_keepsAll | apply planPort_keeps | apply upTo_keepsAll | apply writeSrc_keeps)
    | (with_reducible apply Keeps.ite)
    | split
    | (with_reducible apply foldl_keepsAll)
    | dsimp only
    | (with_reducible intro _ _ _)
    | (with_reducible intro _ _)
    | (with_reducible intro _)

theorem activatePlan_keeps {r : State} {s : State} (h : Keeps r s) :
    Keeps r (activatePlan s) := by
  unfold activatePlan
  repeat' first
    | with_reducible assumption
    | (with_reducible first | apply updFw_keeps | apply planRegs_keeps)
    | split
    | dsimp only

theorem writeFwd_keeps {r : State} (a0) (a1) {s : State} (h : Keeps r s) :
    Keeps r (writeFwd a0 a1 s) := by
  unfold writeFwd
  repeat' first
    | with_reducible assumption
    | (with_reducible first | apply each_keepsAll | apply fwWrite_keeps)
    | (with_reducible intro _)

theorem gated_keeps {r : State} {a0} {s : State} (h : Keeps r s) (h0 : ∀ t, Keeps r t → Keeps r (a0 t)) :
    Keeps r (gated a0 s) := by
  unfold gated
  split
  · exact h0 _ h
  · exact gateRelease_keeps (set_keeps _ _ (h0 _ (setB_keeps _ _ h)))

theorem installRoutes_keeps {r : State} {s : State} (h : Keeps r s) :
    Keeps r (installRoutes s) := by
  unfold installRoutes
  repeat' first
    | with_reducible assumption
    | (with_reducible first | apply updFw_keeps | apply gated_keeps | apply writePkgPorts_keeps | apply upTo_keepsAll | apply writeFwd_keeps)
    | split
    | (with_reducible intro _)

theorem switchIn_keeps {r : State} (a0) {s : State} (h : Keeps r s) :
    Keeps r (switchIn a0 s) := by
  unfold switchIn
  repeat' first
    | with_reducible assumption
    | (with_reducible first | apply notify_keeps | apply updFw_keeps)

theorem hearMissing_keeps {r : State} (a0) (a1) {s : State} (h : Keeps r s) :
    Keeps r (hearMissing a0 a1 s) := by
  unfold hearMissing
  repeat' first
    | with_reducible assumption
    | (with_reducible first | apply updFw_keeps | apply switchIn_keeps | apply emit_keeps)
    | (with_reducible apply Keeps.ite)
    | split
    | (with_reducible apply foldl_keepsAll)
    | dsimp only
    | (with_reducible intro _ _ _)
    | (with_reducible intro _ _)
    | (with_reducible intro _)

theorem discoveryEnd_keeps {r : State} {s : State} (h : Keeps r s) :
    Keeps r (discoveryEnd s) := by
  unfold discoveryEnd
  repeat' first
    | with_reducible assumption
    | (with_reducible first | apply hearMissing_keeps | apply emit_keeps | apply upTo_keepsAll | apply when_keepsAll | apply portEvent_keeps | apply flood_keeps | apply updFw_keeps)
    | (with_reducible apply Keeps.ite)
    | split
    | (with_reducible apply foldl_keepsAll)
    | dsimp only
    | (with_reducible intro _ _ _)
    | (with_reducible intro _ _)
    | (with_reducible intro _)

theorem execDiscoveryEnd_keeps {r : State} {s : State} (h : Keeps r s) :
    OutKeeps r (execDiscoveryEnd s) := by
  unfold execDiscoveryEnd
  repeat' first
    | with_reducible assumption
    | with_reducible apply OutKeeps.next
    | with_reducible apply discoveryEnd_keeps
    | split

theorem execPortStateFlood_keeps {r : State} (a0) (a1) (a2) {s : State} (h : Keeps r s) :
    OutKeeps r (execPortStateFlood a0 a1 a2 s) := by
  unfold execPortStateFlood
  repeat' first
    | with_reducible assumption
    | with_reducible apply OutKeeps.next
    | with_reducible apply linkHeard_keeps

theorem execRouteInstall_keeps {r : State} {s : State} (h : Keeps r s) :
    OutKeeps r (execRouteInstall s) := by
  unfold execRouteInstall
  repeat' first
    | with_reducible assumption
    | with_reducible apply OutKeeps.next
    | (with_reducible first | apply installRoutes_keeps | apply moveTo_keeps)
    | split

theorem execMissingReport_keeps {r : State} (a0) (a1) {s : State} (h : Keeps r s) :
    OutKeeps r (execMissingReport a0 a1 s) := by
  unfold execMissingReport
  repeat' first
    | with_reducible assumption
    | with_reducible apply OutKeeps.next
    | (with_reducible first | apply hearMissing_keeps)
    | (with_reducible apply Keeps.ite)
    | split
    | (with_reducible apply foldl_keepsAll)
    | dsimp only
    | (with_reducible intro _ _ _)
    | (with_reducible intro _ _)
    | (with_reducible intro _)

theorem execStandbyRootTakeover_keeps {r : State} {s : State} (h : Keeps r s) :
    OutKeeps r (execStandbyRootTakeover s) := by
  unfold execStandbyRootTakeover
  repeat' first
    | with_reducible assumption
    | with_reducible apply OutKeeps.next
    | (with_reducible first | apply fwWrite_keeps | apply moveTo_keeps)
    | split

theorem execPlanInstall_keeps {r : State} (a0) (a1) (a2) {s : State} (h : Keeps r s) :
    OutKeeps r (execPlanInstall a0 a1 a2 s) := by
  unfold execPlanInstall
  repeat' first
    | with_reducible assumption
    | with_reducible apply OutKeeps.next
    | (with_reducible first | apply run_keeps | apply fromBuffer_keeps | apply respond_keeps | apply updFw_keeps)
    | (with_reducible apply Keeps.ite)
    | split
    | (with_reducible apply foldl_keepsAll)
    | dsimp only
    | (with_reducible intro _ _ _)
    | (with_reducible intro _ _)
    | (with_reducible intro _)

theorem execPlanGet_keeps {r : State} (a0) {s : State} (h : Keeps r s) :
    OutKeeps r (execPlanGet a0 s) := by
  unfold execPlanGet
  repeat' first
    | with_reducible assumption
    | with_reducible apply OutKeeps.next
    | (with_reducible first | apply run_keeps | apply respondBuf_keeps)
    | (with_reducible apply Keeps.ite)
    | split
    | (with_reducible apply foldl_keepsAll)
    | dsimp only
    | (with_reducible intro _ _ _)
    | (with_reducible intro _ _)
    | (with_reducible intro _)

theorem execPortCmd_keeps {r : State} (a0) (a1) (a2) {s : State} (h : Keeps r s) :
    OutKeeps r (execPortCmd a0 a1 a2 s) := by
  unfold execPortCmd
  repeat' first
    | with_reducible assumption
    | with_reducible apply OutKeeps.next
    | (with_reducible first | apply run_keeps | apply retrainPort_keeps | apply disablePort_keeps | apply enterQuar_keeps | apply portRej_keeps | apply respond_keeps | apply flood_keeps)
    | split
    | (with_reducible intro _)

theorem execSpareSet_keeps {r : State} (a0) (a1) {s : State} (h : Keeps r s) :
    OutKeeps r (execSpareSet a0 a1 s) := by
  unfold execSpareSet
  repeat' first
    | with_reducible assumption
    | with_reducible apply OutKeeps.next
    | (with_reducible first | apply run_keeps | apply respond_keeps | apply switchIn_keeps | apply updFw_keeps)
    | split
    | (with_reducible intro _)

theorem execGetPorts_keeps {r : State} (a0) {s : State} (h : Keeps r s) :
    OutKeeps r (execGetPorts a0 s) := by
  unfold execGetPorts
  repeat' first
    | with_reducible assumption
    | with_reducible apply OutKeeps.next
    | (with_reducible first | apply run_keeps | apply respond_keeps)
    | (with_reducible intro _)

end Sys2Proof.Machine
end

