-- ==== Sys2Proof/Laws/Keeps/Restart.lean ====
section
/-! SUPPORT. The effects of Machine/Restart.lean keep the queue, the fuses and soundness. -/
namespace Sys2Proof.Machine

theorem netReset_keeps {r : State} {s : State} (h : Keeps r s) :
    Keeps r (netReset s) := by
  unfold netReset
  repeat' first
    | with_reducible assumption
    | (with_reducible first | apply each_keepsAll | apply eraseRegs_keeps)
    | (with_reducible intro _)
    | (with_reducible refine Keeps.updMem ?_ ?_ rfl; rotate_left; (rw [Mems.wf_iff, Mems.wf_iff]; rintro ⟨h1, h2, h3, h4, h5, h6, h7, h8, h9⟩; refine ⟨?_, ?_, ?_, ?_, ?_, ?_, ?_, ?_, ?_⟩ <;> repeat' (with_reducible first | assumption | exact SMap.wf_nil | exact NSet.wf_nil | apply SMap.wf_cond | apply NSet.wf_cond | apply wf_wrBytes | apply SMap.wf_put | apply SMap.wf_del | apply SMap.wf_erase | apply SMap.wf_filter | apply NSet.wf_add | apply NSet.wf_erase | apply NSet.wf_del | apply NSet.wf_filter | apply NSet.wf_foldl_add | apply SMap.wf_foldl_put | split)))

theorem computeReset_keeps {r : State} {s : State} (h : Keeps r s) :
    Keeps r (computeReset s) := by
  unfold computeReset
  repeat' first
    | with_reducible assumption
    | (with_reducible first | apply each_keepsAll | apply wipeSpad_keeps | apply resetCompute_keeps)
    | (with_reducible intro _)

theorem coldReset_keeps {r : State} (f : Fld) {s : State} (h : Keeps r s) : Keeps r (coldReset f s) := by
  have h1 : Keeps r (computeReset s) := computeReset_keeps h
  unfold coldReset
  refine setB_keeps _ _ (each_keepsAll _ (each_keepsAll _ ?_ fun _ _ => set_keeps _ _) fun _ _ => set_keeps _ _)
  refine ⟨h.1, h.2.1, fun x => ?_⟩
  have hs := h1.2.2 x
  simp only [State.sound, Bool.and_eq_true, Mems.wf_iff, Mems.empty, decide_eq_true_eq] at hs ⊢
  exact ⟨⟨SMap.wf_nil, SMap.wf_nil, SMap.wf_nil, SMap.wf_nil, hs.1.2.2.2.2.1, NSet.wf_nil, NSet.wf_nil, NSet.wf_nil, hs.1.2.2.2.2.2.2.2.2⟩,
    Nat.zero_le _⟩

theorem updThm_keeps {r : State} (a0) {s : State} (h : Keeps r s) :
    Keeps r (updThm a0 s) := by
  unfold updThm
  repeat' first
    | (with_reducible refine Keeps.upd ?_ rfl; with_reducible first | assumption | split)

theorem telStart_keeps {r : State} {s : State} (h : Keeps r s) :
    Keeps r (telStart s) := by
  unfold telStart
  repeat' first
    | with_reducible assumption
    | (with_reducible first | apply setB_keeps | apply updThm_keeps | apply set_keeps)
    | split
    | dsimp only

theorem telSetup_keeps {r : State} {s : State} (h : Keeps r s) :
    Keeps r (telSetup s) := by
  unfold telSetup
  repeat' first
    | with_reducible assumption
    | (with_reducible first | apply setB_keeps | apply set_keeps | apply telStart_keeps | apply each_keepsAll)
    | (with_reducible intro _)

theorem minimal_keeps {r : State} {s : State} (h : Keeps r s) :
    Keeps r (minimal s) := by
  unfold minimal
  repeat' first
    | with_reducible assumption
    | (with_reducible first | apply computeReset_keeps | apply netReset_keeps | apply updFw_keeps | apply setB_keeps | apply set_keeps)

theorem showStart_keeps {r : State} {s : State} (h : Keeps r s) :
    Keeps r (showStart s) := by
  unfold showStart
  repeat' first
    | with_reducible assumption
    | (with_reducible first | apply setB_keeps | apply set_keeps)

theorem failStart_keeps {r : State} (a0) (a1) (a2) {s : State} (h : Keeps r s) :
    Keeps r (failStart a0 a1 a2 s) := by
  unfold failStart
  repeat' first
    | with_reducible assumption
    | (with_reducible first | apply showStart_keeps | apply logRec_keeps | apply updBoot_keeps | apply minimal_keeps | apply coldReset_keeps)
    | (with_reducible apply Keeps.ite)

theorem toStep_keeps {r : State} (a0) {s : State} (h : Keeps r s) :
    Keeps r (toStep a0 s) := by
  unfold toStep
  repeat' first
    | with_reducible assumption
    | (with_reducible first | apply updFw_keeps | apply set_keeps)

theorem start0_keeps {r : State} (a0) {s : State} (h : Keeps r s) :
    Keeps r (start0 a0 s) := by
  unfold start0
  repeat' first
    | with_reducible assumption
    | (with_reducible first | apply toStep_keeps | apply updFw_keeps | apply set_keeps)

theorem fwUp_keeps {r : State} (a0) {s : State} (h : Keeps r s) :
    Keeps r (fwUp a0 s) := by
  unfold fwUp
  repeat' first
    | with_reducible assumption
    | (with_reducible first | apply setB_keeps | apply set_keeps)

theorem bistEnd_keeps {r : State} (a0) {s : State} (h : Keeps r s) :
    Keeps r (bistEnd a0 s) := by
  unfold bistEnd
  repeat' first
    | with_reducible assumption
    | (with_reducible first | apply updBoot_keeps | apply set_keeps)

theorem start1_keeps {r : State} (a0) {s : State} (h : Keeps r s) :
    Keeps r (start1 a0 s) := by
  unfold start1
  repeat' first
    | with_reducible assumption
    | (with_reducible first | apply failStart_keeps | apply updFw_keeps | apply updBoot_keeps | apply fwUp_keeps | apply showStart_keeps | apply minimal_keeps | apply telSetup_keeps | apply toStep_keeps | apply bistEnd_keeps | apply setB_keeps)
    | (with_reducible apply Keeps.ite)
    | split

theorem dropJournal_keeps {r : State} {s : State} (h : Keeps r s) :
    Keeps r (dropJournal s) := by
  unfold dropJournal
  repeat' first
    | with_reducible assumption
    | (with_reducible first | apply emit_keeps | apply logRec_keeps | apply updBoot_keeps)
    | split

theorem start2_keeps {r : State} {s : State} (h : Keeps r s) :
    Keeps r (start2 s) := by
  unfold start2
  repeat' first
    | with_reducible assumption
    | (with_reducible first | apply dropJournal_keeps | apply failStart_keeps | apply each_keepsAll | apply upTo_keepsAll | apply setB_keeps | apply set_keeps | apply toStep_keeps | apply enableMesh_keeps)
    | (with_reducible apply Keeps.ite)
    | (with_reducible intro _)

theorem lcErase_keeps {r : State} (a0) {s : State} (h : Keeps r s) :
    Keeps r (lcErase a0 s) := by
  unfold lcErase
  repeat' first
    | with_reducible assumption
    | (with_reducible first | apply updFw_keeps | apply eraseCells_keeps | apply setArr_keeps | apply setUndef_keeps | apply each_keepsAll)
    | (with_reducible apply Keeps.ite)
    | split
    | (with_reducible apply foldl_keepsAll)
    | dsimp only
    | (with_reducible intro _ _ _)
    | (with_reducible intro _ _)
    | (with_reducible intro _)

theorem runErase_keeps {r : State} (a0) {s : State} (h : Keeps r s) :
    Keeps r (runErase a0 s) := by
  unfold runErase
  repeat' first
    | with_reducible assumption
    | (with_reducible first | apply showStart_keeps | apply updBoot_keeps | apply lcErase_keeps)
    | (with_reducible apply Keeps.ite)
    | split
    | (with_reducible apply foldl_keepsAll)
    | dsimp only
    | (with_reducible intro _ _ _)
    | (with_reducible intro _ _)
    | (with_reducible intro _)

theorem closeBatches_keeps {r : State} {s : State} (h : Keeps r s) :
    Keeps r (closeBatches s) := by
  unfold closeBatches
  repeat' first
    | with_reducible assumption
    | with_reducible apply updFw_keeps

theorem lostCounts_keeps {r : State} (a0) {s : State} (h : Keeps r s) :
    Keeps r (lostCounts a0 s) := by
  unfold lostCounts
  repeat' first
    | with_reducible assumption
    | (with_reducible first | apply emit_keeps | apply logRec_keeps | apply updFw_keeps)

theorem putWindows_keeps {r : State} (a0) (a1) {s : State} (h : Keeps r s) :
    Keeps r (putWindows a0 a1 s) := by
  unfold putWindows
  repeat' first
    | with_reducible assumption
    | (with_reducible first | apply each_keepsAll | apply fwWrite_keeps)
    | (with_reducible apply Keeps.ite)
    | split
    | (with_reducible apply foldl_keepsAll)
    | dsimp only
    | (with_reducible intro _ _ _)
    | (with_reducible intro _ _)
    | (with_reducible intro _)

theorem train3_keeps {r : State} (a0) {s : State} (h : Keeps r s) :
    Keeps r (train3 a0 s) := by
  unfold train3
  repeat' first
    | with_reducible assumption
    | (with_reducible first | apply each_keepsAll | apply setCoreState_keeps | apply wipeSpad_keeps | apply upTo_keepsAll | apply set_keeps)
    | (with_reducible apply Keeps.ite)
    | split
    | (with_reducible apply foldl_keepsAll)
    | dsimp only
    | (with_reducible intro _ _ _)
    | (with_reducible intro _ _)
    | (with_reducible intro _)

theorem clear3_keeps {r : State} (a0) {s : State} (h : Keeps r s) :
    Keeps r (clear3 a0 s) := by
  unfold clear3
  repeat' first
    | with_reducible assumption
    | (with_reducible first | apply upTo_keepsAll | apply putWindows_keeps | apply set_keeps | apply toStep_keeps | apply each_keepsAll | apply lostCounts_keeps | apply closeBatches_keeps)
    | (with_reducible apply Keeps.ite)
    | split
    | (with_reducible apply foldl_keepsAll)
    | dsimp only
    | (with_reducible intro _ _ _)
    | (with_reducible intro _ _)
    | (with_reducible intro _)
    | (with_reducible refine Keeps.updMem ?_ ?_ rfl; rotate_left; (rw [Mems.wf_iff, Mems.wf_iff]; rintro ⟨h1, h2, h3, h4, h5, h6, h7, h8, h9⟩; refine ⟨?_, ?_, ?_, ?_, ?_, ?_, ?_, ?_, ?_⟩ <;> repeat' (with_reducible first | assumption | exact SMap.wf_nil | exact NSet.wf_nil | apply SMap.wf_cond | apply NSet.wf_cond | apply wf_wrBytes | apply SMap.wf_put | apply SMap.wf_del | apply SMap.wf_erase | apply SMap.wf_filter | apply NSet.wf_add | apply NSet.wf_erase | apply NSet.wf_del | apply NSet.wf_filter | apply NSet.wf_foldl_add | apply SMap.wf_foldl_put | split)))
    | (with_reducible refine Keeps.upd ?_ rfl; with_reducible first | assumption | apply upTo_keepsAll | apply putWindows_keeps | apply set_keeps | apply toStep_keeps | apply each_keepsAll | apply lostCounts_keeps | apply closeBatches_keeps | split)

theorem start3_keeps {r : State} (a0) {s : State} (h : Keeps r s) :
    Keeps r (start3 a0 s) := by
  unfold start3
  repeat' first
    | with_reducible assumption
    | (with_reducible first | apply train3_keeps | apply clear3_keeps)
    | (with_reducible apply Keeps.ite)
    | split
    | (with_reducible apply foldl_keepsAll)
    | dsimp only
    | (with_reducible intro _ _ _)
    | (with_reducible intro _ _)
    | (with_reducible intro _)

theorem failStep_keeps {r : State} (a0) (a1) (a2) {s : State} (h : Keeps r s) :
    Keeps r (failStep a0 a1 a2 s) := by
  unfold failStep
  repeat' first
    | with_reducible assumption
    | (with_reducible first | apply set_keeps | apply failStart_keeps)
    | (with_reducible apply Keeps.ite)
    | split
    | (with_reducible apply foldl_keepsAll)
    | dsimp only
    | (with_reducible intro _ _ _)
    | (with_reducible intro _ _)
    | (with_reducible intro _)

theorem start4_keeps {r : State} (a0) {s : State} (h : Keeps r s) :
    Keeps r (start4 a0 s) := by
  unfold start4
  repeat' first
    | with_reducible assumption
    | (with_reducible first | apply setP_keeps | apply setB_keeps | apply updPort_keeps | apply toStep_keeps | apply updFw_keeps | apply upTo_keepsAll | apply activatePlan_keeps)
    | (with_reducible apply Keeps.ite)
    | split
    | (with_reducible apply foldl_keepsAll)
    | dsimp only
    | (with_reducible intro _ _ _)
    | (with_reducible intro _ _)
    | (with_reducible intro _)

theorem writeMap_keeps {r : State} (a0) {s : State} (h : Keeps r s) :
    Keeps r (writeMap a0 s) := by
  unfold writeMap
  repeat' first
    | with_reducible assumption
    | (with_reducible first | apply each_keepsAll | apply fwWrite_keeps)
    | (with_reducible intro _)

theorem raiseLevel_keeps {r : State} {s : State} (h : Keeps r s) :
    Keeps r (raiseLevel s) := by
  unfold raiseLevel
  repeat' first
    | with_reducible assumption
    | (with_reducible first | apply when_keepsAll | apply updPhys_keeps)
    | (with_reducible apply Keeps.ite)
    | split
    | (with_reducible apply foldl_keepsAll)
    | dsimp only
    | (with_reducible intro _ _ _)
    | (with_reducible intro _ _)
    | (with_reducible intro _)

theorem start5_keeps {r : State} (a0) {s : State} (h : Keeps r s) :
    Keeps r (start5 a0 s) := by
  unfold start5
  repeat' first
    | with_reducible assumption
    | (with_reducible first | apply runErase_keeps | apply updFw_keeps | apply each_keepsAll | apply takeMicrocode_keeps | apply reretire_keeps | apply setCoreState_keeps | apply logRec_keeps | apply failStart_keeps | apply raiseLevel_keeps | apply showStart_keeps | apply updBoot_keeps | apply set_keeps | apply writeMap_keeps)
    | (with_reducible apply Keeps.ite)
    | split
    | (with_reducible apply foldl_keepsAll)
    | dsimp only
    | (with_reducible intro _ _ _)
    | (with_reducible intro _ _)
    | (with_reducible intro _)

theorem startStep_keeps {r : State} (a0) (a1) {s : State} (h : Keeps r s) :
    Keeps r (startStep a0 a1 s) := by
  unfold startStep
  repeat' first
    | with_reducible assumption
    | (with_reducible first | apply failStart_keeps | apply start4_keeps | apply failStep_keeps | apply start0_keeps | apply start1_keeps | apply start2_keeps | apply start3_keeps | apply start5_keeps)
    | (with_reducible apply Keeps.ite)
    | split
    | (with_reducible apply foldl_keepsAll)
    | dsimp only
    | (with_reducible intro _ _ _)
    | (with_reducible intro _ _)
    | (with_reducible intro _)

theorem execPackageStart_keeps {r : State} (a0) {s : State} (h : Keeps r s) :
    OutKeeps r (execPackageStart a0 s) := by
  unfold execPackageStart
  repeat' first
    | with_reducible assumption
    | with_reducible apply OutKeeps.next
    | with_reducible apply startStep_keeps
    | split

theorem lateStep_keeps {r : State} (a0) {s : State} (h : Keeps r s) :
    Keeps r (lateStep a0 s) := by
  unfold lateStep
  repeat' first
    | with_reducible assumption
    | (with_reducible first | apply toStep_keeps | apply activatePlan_keeps | apply updFw_keeps | apply failStart_keeps)
    | (with_reducible apply Keeps.ite)
    | split
    | (with_reducible apply foldl_keepsAll)
    | dsimp only
    | (with_reducible intro _ _ _)
    | (with_reducible intro _ _)
    | (with_reducible intro _)

theorem execStartStepTimeout_keeps {r : State} {s : State} (h : Keeps r s) :
    OutKeeps r (execStartStepTimeout s) := by
  unfold execStartStepTimeout
  repeat' first
    | with_reducible assumption
    | with_reducible apply OutKeeps.next
    | (with_reducible first | apply lateStep_keeps)
    | (with_reducible apply Keeps.ite)
    | split
    | (with_reducible apply foldl_keepsAll)
    | dsimp only
    | (with_reducible intro _ _ _)
    | (with_reducible intro _ _)
    | (with_reducible intro _)

theorem execSysRstAssert_keeps {r : State} {s : State} (h : Keeps r s) :
    OutKeeps r (execSysRstAssert s) := by
  unfold execSysRstAssert
  repeat' first
    | with_reducible apply OutKeeps.next
    | with_reducible apply coldReset_keeps
    | (with_reducible refine Keeps.upd ?_ rfl; with_reducible first | assumption | apply coldReset_keeps | split)

theorem execPowerOnDetect_keeps {r : State} (a0) {s : State} (h : Keeps r s) :
    OutKeeps r (execPowerOnDetect a0 s) := by
  unfold execPowerOnDetect
  repeat' first
    | with_reducible apply OutKeeps.next
    | (with_reducible first | apply coldReset_keeps | apply updFw_keeps | apply setB_keeps)
    | split
    | (with_reducible refine Keeps.upd ?_ rfl; with_reducible first | assumption | apply coldReset_keeps | apply updFw_keeps | apply setB_keeps | split)

theorem execLcRstCold_keeps {r : State} (a0) {s : State} (h : Keeps r s) :
    OutKeeps r (execLcRstCold a0 s) := by
  unfold execLcRstCold
  repeat' first
    | with_reducible assumption
    | with_reducible apply OutKeeps.next
    | (with_reducible first | apply denied_keeps | apply coldReset_keeps)
    | split

theorem execWatchdogExpire_keeps {r : State} {s : State} (h : Keeps r s) :
    OutKeeps r (execWatchdogExpire s) := by
  unfold execWatchdogExpire
  repeat' first
    | with_reducible assumption
    | with_reducible apply OutKeeps.next
    | (with_reducible first | apply logRec_keeps | apply updBoot_keeps | apply coldReset_keeps | apply moveTo_keeps)
    | (with_reducible apply Keeps.ite)
    | split
    | (with_reducible apply foldl_keepsAll)
    | dsimp only
    | (with_reducible intro _ _ _)
    | (with_reducible intro _ _)
    | (with_reducible intro _)

theorem execWatchdogKick_keeps {r : State} (a0) {s : State} (h : Keeps r s) :
    OutKeeps r (execWatchdogKick a0 s) := by
  unfold execWatchdogKick
  repeat' first
    | with_reducible assumption
    | with_reducible apply OutKeeps.next
    | (with_reducible first | apply denied_keeps | apply updFw_keeps)
    | split

theorem execRefclkLoss_keeps {r : State} (a0) {s : State} (h : Keeps r s) :
    OutKeeps r (execRefclkLoss a0 s) := by
  unfold execRefclkLoss
  repeat' first
    | with_reducible assumption
    | with_reducible apply OutKeeps.next
    | (with_reducible first | apply failStart_keeps | apply coldReset_keeps | apply upTo_keepsAll | apply setP_keeps | apply dropLink_keeps | apply linkGone_keeps)
    | split
    | (with_reducible intro _ _ _)

theorem endAll_keeps {r : State} {s : State} (h : Keeps r s) :
    Keeps r (endAll s) := by
  unfold endAll
  repeat' first
    | with_reducible assumption
    | (with_reducible first | apply each_keepsAll | apply endPend_keeps)
    | (with_reducible intro _)

theorem startWarm_keeps {r : State} {s : State} (h : Keeps r s) :
    Keeps r (startWarm s) := by
  unfold startWarm
  repeat' first
    | with_reducible assumption
    | (with_reducible first | apply stopUnits_keeps | apply abandonTick_keeps | apply upTo_keepsAll | apply setP_keeps | apply dropLink_keeps | apply updFw_keeps | apply each_keepsAll | apply endAll_keeps | apply bump_keeps | apply updCore_keeps | apply setCoreState_keeps)
    | (with_reducible apply Keeps.ite)
    | split
    | (with_reducible apply foldl_keepsAll)
    | dsimp only
    | (with_reducible intro _ _ _)
    | (with_reducible intro _ _)
    | (with_reducible intro _)

theorem proceedWarm_keeps {r : State} {s : State} (h : Keeps r s) :
    Keeps r (proceedWarm s) := by
  unfold proceedWarm
  repeat' first
    | (with_reducible first | apply netReset_keeps | apply computeReset_keeps | apply each_keepsAll | apply updCore_keeps | apply updFw_keeps | apply setB_keeps | apply set_keeps | apply updPin_keeps)
    | (with_reducible intro _)
    | (with_reducible refine Keeps.upd ?_ rfl; with_reducible first | assumption | apply netReset_keeps | apply computeReset_keeps | apply each_keepsAll | apply updCore_keeps | apply updFw_keeps | apply setB_keeps | apply set_keeps | apply updPin_keeps | split)

theorem execLcRstWarm_keeps {r : State} (a0) {s : State} (h : Keeps r s) :
    OutKeeps r (execLcRstWarm a0 s) := by
  unfold execLcRstWarm
  repeat' first
    | with_reducible assumption
    | with_reducible apply OutKeeps.next
    | (with_reducible first | apply denied_keeps | apply startWarm_keeps)
    | split

theorem execResetDrainDone_keeps {r : State} (a0) {s : State} (h : Keeps r s) :
    OutKeeps r (execResetDrainDone a0 s) := by
  unfold execResetDrainDone
  repeat' first
    | with_reducible assumption
    | with_reducible apply OutKeeps.next
    | (with_reducible first | apply proceedReset_keeps | apply proceedWarm_keeps)
    | split

theorem execDrainTimeout_keeps {r : State} (a0) {s : State} (h : Keeps r s) :
    OutKeeps r (execDrainTimeout a0 s) := by
  unfold execDrainTimeout
  repeat' first
    | with_reducible assumption
    | with_reducible apply OutKeeps.next
    | (with_reducible first | apply proceedReset_keeps | apply bump_keeps | apply proceedWarm_keeps)
    | split

theorem resetCluster_keeps {r : State} (a0) {s : State} (h : Keeps r s) :
    Keeps r (resetCluster a0 s) := by
  unfold resetCluster
  repeat' first
    | with_reducible assumption
    | (with_reducible first | apply each_keepsAll | apply startReset_keeps | apply bump_keeps)
    | (with_reducible intro _)

theorem execLcRstCluster_keeps {r : State} (a0) (a1) {s : State} (h : Keeps r s) :
    OutKeeps r (execLcRstCluster a0 a1 s) := by
  unfold execLcRstCluster
  repeat' first
    | with_reducible assumption
    | with_reducible apply OutKeeps.next
    | (with_reducible first | apply denied_keeps | apply resetCluster_keeps)
    | split

theorem execBistRun_keeps {r : State} (a0) {s : State} (h : Keeps r s) :
    OutKeeps r (execBistRun a0 s) := by
  unfold execBistRun
  repeat' first
    | with_reducible assumption
    | with_reducible apply OutKeeps.next
    | (with_reducible first | apply denied_keeps | apply set_keeps)
    | (with_reducible apply Keeps.ite)
    | split
    | (with_reducible apply foldl_keepsAll)
    | dsimp only
    | (with_reducible intro _ _ _)
    | (with_reducible intro _ _)
    | (with_reducible intro _)

theorem execBistDone_keeps {r : State} (a0) {s : State} (h : Keeps r s) :
    OutKeeps r (execBistDone a0 s) := by
  unfold execBistDone
  repeat' first
    | with_reducible assumption
    | with_reducible apply OutKeeps.next
    | (with_reducible first | apply bistEnd_keeps | apply computeReset_keeps | apply netReset_keeps | apply failStart_keeps)
    | split

theorem execPoweredTimeSave_keeps {r : State} {s : State} (h : Keeps r s) :
    OutKeeps r (execPoweredTimeSave s) := by
  unfold execPoweredTimeSave
  repeat' first
    | with_reducible assumption
    | with_reducible apply OutKeeps.next
    | with_reducible apply updBoot_keeps

theorem execJtagFuseProgramming_keeps {r : State} {s : State} (h : Keeps r s) :
    OutKeeps r (execJtagFuseProgramming s) := by
  unfold execJtagFuseProgramming
  repeat' first
    | with_reducible assumption
    | with_reducible apply OutKeeps.next
    | (with_reducible first | apply set_keeps | apply setB_keeps)
    | (with_reducible apply Keeps.ite)
    | split
    | (with_reducible apply foldl_keepsAll)
    | dsimp only
    | (with_reducible intro _ _ _)
    | (with_reducible intro _ _)
    | (with_reducible intro _)
    | (with_reducible refine Keeps.upd ?_ rfl; with_reducible first | assumption | apply set_keeps | apply setB_keeps | split)

end Sys2Proof.Machine
end

