-- ==== Sys2Proof/Laws/Keeps/Weights.lean ====
section
/-! SUPPORT. The effects of Machine/Weights.lean keep the queue, the fuses and soundness. -/
namespace Sys2Proof.Machine

theorem updModel_keeps {r : State} (a0) (a1) {s : State} (h : Keeps r s) :
    Keeps r (updModel a0 a1 s) := by
  unfold updModel
  repeat' first
    | with_reducible assumption
    | with_reducible apply updFw_keeps

theorem clearGolden_keeps {r : State} (a0) {s : State} (h : Keeps r s) :
    Keeps r (clearGolden a0 s) := by
  unfold clearGolden
  repeat' first
    | with_reducible assumption
    | (with_reducible first | apply each_keepsAll | apply mcClear_keeps)
    | (with_reducible apply Keeps.ite)
    | split
    | (with_reducible apply foldl_keepsAll)
    | dsimp only
    | (with_reducible intro _ _ _)
    | (with_reducible intro _ _)
    | (with_reducible intro _)

theorem dropGolden_keeps {r : State} (a0) (a1) {s : State} (h : Keeps r s) :
    Keeps r (dropGolden a0 a1 s) := by
  unfold dropGolden
  repeat' first
    | with_reducible assumption
    | (with_reducible first | apply updFw_keeps | apply clearGolden_keeps)
    | split

theorem stageImage_keeps {r : State} (a0) (a1) {s : State} (h : Keeps r s) :
    Keeps r (stageImage a0 a1 s).2 := by
  unfold stageImage
  repeat' first
    | with_reducible assumption
    | (with_reducible first | apply dmaIn_keeps | apply writeSpan_keeps | apply mcRead_keeps)
    | (with_reducible apply Keeps.ite)
    | split
    | (with_reducible apply foldl_keepsAll)
    | dsimp only
    | (with_reducible intro _ _ _)
    | (with_reducible intro _ _)
    | (with_reducible intro _)

theorem placeGolden_keeps {r : State} (a0) (a1) {s : State} (h : Keeps r s) :
    Keeps r (placeGolden a0 a1 s) := by
  unfold placeGolden
  repeat' first
    | with_reducible assumption
    | (with_reducible first | apply each_keepsAll | apply mcWrite_keeps)
    | (with_reducible apply Keeps.ite)
    | split
    | (with_reducible apply foldl_keepsAll)
    | dsimp only
    | (with_reducible intro _ _ _)
    | (with_reducible intro _ _)
    | (with_reducible intro _)

theorem readGold_keeps {r : State} (a0) (a1) {s : State} (h : Keeps r s) :
    Keeps r (readGold a0 a1 s).2 := by
  unfold readGold
  repeat' first
    | with_reducible assumption
    | (with_reducible first | apply unitReads_keeps)
    | (with_reducible apply Keeps.ite)
    | split
    | (with_reducible apply foldl_keepsAll)
    | dsimp only
    | (with_reducible intro _ _ _)
    | (with_reducible intro _ _)
    | (with_reducible intro _)

theorem spend_keeps {r : State} (a0) (a1) (a2) {s : State} (h : Keeps r s) :
    Keeps r (spend a0 a1 a2 s) := by
  unfold spend
  repeat' first
    | with_reducible assumption
    | (with_reducible first | apply when_keepsAll | apply steepedNow_keeps | apply updFw_keeps)
    | (with_reducible apply Keeps.ite)
    | split
    | (with_reducible apply foldl_keepsAll)
    | dsimp only
    | (with_reducible intro _ _ _)
    | (with_reducible intro _ _)
    | (with_reducible intro _)

theorem fwReport_keeps {r : State} (a0) (a1) {s : State} (h : Keeps r s) :
    Keeps r (fwReport a0 a1 s) := by
  unfold fwReport
  repeat' first
    | with_reducible assumption
    | (with_reducible first | apply notify_keeps | apply logRec_keeps)

theorem retireArr_keeps {r : State} (a0) (a1) (a2) {s : State} (h : Keeps r s) :
    Keeps r (retireArr a0 a1 a2 s) := by
  unfold retireArr
  repeat' first
    | with_reducible assumption
    | (with_reducible first | apply notify_keeps | apply updFw_keeps | apply when_keepsAll | apply fwWrite_keeps | apply set_keeps)
    | (with_reducible apply Keeps.ite)
    | split
    | (with_reducible apply foldl_keepsAll)
    | dsimp only
    | (with_reducible intro _ _ _)
    | (with_reducible intro _ _)
    | (with_reducible intro _)

theorem steepFmt_keeps {r : State} (a0) (a1) (a2) {s : State} (h : Keeps r s) :
    Keeps r (steepFmt a0 a1 a2 s) := by
  unfold steepFmt
  repeat' first
    | with_reducible assumption
    | (with_reducible first | apply when_keeps | apply setAct_keeps | apply shadowHw_keeps)
    | (with_reducible intro _)

theorem calArrayNow_keeps {r : State} (a0) (a1) {s : State} (h : Keeps r s) :
    Keeps r (calArrayNow a0 a1 s) := by
  unfold calArrayNow
  repeat' first
    | with_reducible assumption
    | (with_reducible first | apply runCal_keeps | apply catchUp_keeps)
    | (with_reducible apply Keeps.ite)
    | split
    | (with_reducible apply foldl_keepsAll)
    | dsimp only
    | (with_reducible intro _ _ _)
    | (with_reducible intro _ _)
    | (with_reducible intro _)

theorem steepArr_keeps {r : State} (a0) (a1) (a2) (a3) (a4) {s : State} (h : Keeps r s) :
    Keeps r (steepArr a0 a1 a2 a3 a4 s) := by
  unfold steepArr
  repeat' first
    | with_reducible assumption
    | (with_reducible first | apply spend_keeps | apply forgetCal_keeps | apply setArr_keeps | apply eraseCells_keeps | apply calArrayNow_keeps | apply steepFmt_keeps | apply programCells_keeps)
    | (with_reducible apply Keeps.ite)
    | split
    | (with_reducible apply foldl_keepsAll)
    | dsimp only
    | (with_reducible intro _ _ _)
    | (with_reducible intro _ _)
    | (with_reducible intro _)

theorem eraseArr_keeps {r : State} (a0) (a1) (a2) {s : State} (h : Keeps r s) :
    Keeps r (eraseArr a0 a1 a2 s) := by
  unfold eraseArr
  repeat' first
    | with_reducible assumption
    | (with_reducible first | apply retireArr_keeps | apply spend_keeps | apply setUndef_keeps | apply eraseCells_keeps | apply changeArr_keeps)
    | (with_reducible apply Keeps.ite)
    | split
    | (with_reducible apply foldl_keepsAll)
    | dsimp only
    | (with_reducible intro _ _ _)
    | (with_reducible intro _ _)
    | (with_reducible intro _)

theorem enterTable_keeps {r : State} (a0) {s : State} (h : Keeps r s) :
    Keeps r (enterTable a0 s) := by
  unfold enterTable
  repeat' first
    | with_reducible assumption
    | (with_reducible first | apply updFw_keeps)
    | (with_reducible apply Keeps.ite)
    | split
    | (with_reducible apply foldl_keepsAll)
    | dsimp only
    | (with_reducible intro _ _ _)
    | (with_reducible intro _ _)
    | (with_reducible intro _)

theorem noteContent_keeps {r : State} (a0) (a1) (a2) (a3) {s : State} (h : Keeps r s) :
    Keeps r (noteContent a0 a1 a2 a3 s) := by
  unfold noteContent
  repeat' first
    | with_reducible assumption
    | with_reducible apply updFw_keeps

theorem assignSlots_keeps {r : State} (a0) (a1) {s : State} (h : Keeps r s) :
    Keeps r (assignSlots a0 a1 s) := by
  unfold assignSlots
  repeat' first
    | with_reducible assumption
    | (with_reducible first | apply updFw_keeps)
    | (with_reducible apply Keeps.ite)
    | split
    | (with_reducible apply foldl_keepsAll)
    | dsimp only
    | (with_reducible intro _ _ _)
    | (with_reducible intro _ _)
    | (with_reducible intro _)

theorem noteSlot_keeps {r : State} (a0) (a1) (a2) (a3) {s : State} (h : Keeps r s) :
    Keeps r (noteSlot a0 a1 a2 a3 s) := by
  unfold noteSlot
  repeat' first
    | with_reducible assumption
    | (with_reducible first | apply updFw_keeps)
    | (with_reducible apply Keeps.ite)
    | split
    | (with_reducible apply foldl_keepsAll)
    | dsimp only
    | (with_reducible intro _ _ _)
    | (with_reducible intro _ _)
    | (with_reducible intro _)

theorem mapSlot_keeps {r : State} (a0) (a1) (a2) (a3) (a4) {s : State} (h : Keeps r s) :
    Keeps r (mapSlot a0 a1 a2 a3 a4 s) := by
  unfold mapSlot
  repeat' first
    | with_reducible assumption
    | (with_reducible first | apply fwWrite_keeps | apply noteSlot_keeps)
    | (with_reducible apply Keeps.ite)
    | split
    | (with_reducible apply foldl_keepsAll)
    | dsimp only
    | (with_reducible intro _ _ _)
    | (with_reducible intro _ _)
    | (with_reducible intro _)

theorem loadSlot_keeps {r : State} (c : Nat) (j : SlotJob) (g : GRec) (b : List Byte) (k : Nat) (cand : Option Nat) (moved : Bool)
    {s : State} (h : Keeps r s) : Keeps r (loadSlot c j g b k cand moved s).2 := by
  induction k generalizing cand moved s with
  | zero => exact h
  | succ k ih =>
    unfold loadSlot
    cases cand with
    | none => exact h
    | some n =>
      dsimp only
      have hs : ∀ e, Keeps r (steepArr c n g.w2 e b s) := fun e => steepArr_keeps _ _ _ _ _ h
      split
      · exact ih _ _ h
      · split
        · exact h
        · split
          · exact ih _ _ (retireArr_keeps _ _ _ h)
          · split
            · exact h
            · split
              · exact h
              · split
                · exact ih _ _ (retireArr_keeps _ _ _ (hs _))
                · exact when_keepsAll _ (hs _) fun _ ht => noteSlot_keeps _ _ _ _ ht

theorem loadSlots_keeps {r : State} (j : SlotJob) (l : List GRec) (k : SlotsDone) {s : State} (h : Keeps r s) :
    Keeps r (loadSlots j l k s).2 := by
  induction l generalizing k s with
  | nil => exact h
  | cons g l ih =>
    unfold loadSlots
    split
    · exact ih _ h
    · dsimp only
      have hg := readGold_keeps (r := r) ‹Nat› g.addr h
      split
      · exact ih _ hg
      · refine ih _ ?_
        split
        · exact fwReport_keeps _ _ (loadSlot_keeps _ _ _ _ _ _ _ hg)
        · exact loadSlot_keeps _ _ _ _ _ _ _ hg

theorem finishSlots_keeps {r : State} (a0) (a1) {s : State} (h : Keeps r s) :
    Keeps r (finishSlots a0 a1 s) := by
  unfold finishSlots
  repeat' first
    | with_reducible assumption
    | (with_reducible first | apply each_keepsAll | apply arrCmd_keeps | apply noteContent_keeps | apply mapSlot_keeps)
    | (with_reducible apply Keeps.ite)
    | split
    | (with_reducible apply foldl_keepsAll)
    | dsimp only
    | (with_reducible intro _ _ _)
    | (with_reducible intro _ _)
    | (with_reducible intro _)

theorem bindModel_keeps {r : State} (a0) {s : State} (h : Keeps r s) :
    Keeps r (bindModel a0 s) := by
  unfold bindModel
  repeat' first
    | with_reducible assumption
    | (with_reducible first | apply updModel_keeps | apply each_keepsAll | apply fwSet_keeps)
    | (with_reducible apply Keeps.ite)
    | split
    | (with_reducible apply foldl_keepsAll)
    | dsimp only
    | (with_reducible intro _ _ _)
    | (with_reducible intro _ _)
    | (with_reducible intro _)

theorem wholePass_keeps {r : State} (a0) {s : State} (h : Keeps r s) :
    Keeps r (wholePass a0 s) := by
  unfold wholePass
  repeat' first
    | with_reducible assumption
    | (with_reducible first | apply bump_keeps | apply set_keeps | apply each_keepsAll | apply passArray_keeps)
    | (with_reducible apply Keeps.ite)
    | split
    | (with_reducible apply foldl_keepsAll)
    | dsimp only
    | (with_reducible intro _ _ _)
    | (with_reducible intro _ _)
    | (with_reducible intro _)

theorem calRestore_keeps {r : State} (a0) {s : State} (h : Keeps r s) :
    Keeps r (calRestore a0 s) := by
  unfold calRestore
  repeat' first
    | with_reducible assumption
    | (with_reducible first | apply fwWrite_keeps | apply wholePass_keeps | apply setB_keeps | apply each_keepsAll | apply updCore_keeps | apply writeSigma_keeps | apply runCal_keeps)
    | (with_reducible apply Keeps.ite)
    | split
    | (with_reducible apply foldl_keepsAll)
    | dsimp only
    | (with_reducible intro _ _ _)
    | (with_reducible intro _ _)
    | (with_reducible intro _)
    | (with_reducible refine Keeps.updMem ?_ ?_ rfl; rotate_left; (rw [Mems.wf_iff, Mems.wf_iff]; rintro ⟨h1, h2, h3, h4, h5, h6, h7, h8, h9⟩; refine ⟨?_, ?_, ?_, ?_, ?_, ?_, ?_, ?_, ?_⟩ <;> repeat' (with_reducible first | assumption | exact SMap.wf_nil | exact NSet.wf_nil | apply SMap.wf_cond | apply NSet.wf_cond | apply wf_wrBytes | apply SMap.wf_put | apply SMap.wf_del | apply SMap.wf_erase | apply SMap.wf_filter | apply NSet.wf_add | apply NSet.wf_erase | apply NSet.wf_del | apply NSet.wf_filter | apply NSet.wf_foldl_add | apply SMap.wf_foldl_put | split)))
    | (with_reducible refine Keeps.upd ?_ rfl; with_reducible first | assumption | apply fwWrite_keeps | apply wholePass_keeps | apply setB_keeps | apply each_keepsAll | apply updCore_keeps | apply writeSigma_keeps | apply runCal_keeps | split)

theorem calKeep_keeps {r : State} (a0) {s : State} (h : Keeps r s) :
    Keeps r (calKeep a0 s) := by
  unfold calKeep
  repeat' first
    | with_reducible assumption
    | with_reducible apply updFw_keeps

theorem imageNeeded_keeps {r : State} (a0) {s : State} (h : Keeps r s) :
    Keeps r (imageNeeded a0 s) := by
  unfold imageNeeded
  repeat' first
    | with_reducible assumption
    | (with_reducible first | apply notify_keeps | apply updFw_keeps)
    | (with_reducible apply Keeps.ite)
    | split
    | (with_reducible apply foldl_keepsAll)
    | dsimp only
    | (with_reducible intro _ _ _)
    | (with_reducible intro _ _)
    | (with_reducible intro _)

theorem verifyModel_keeps {r : State} (a0) (a1) {s : State} (h : Keeps r s) :
    Keeps r (verifyModel a0 a1 s).2 := by
  unfold verifyModel
  repeat' first
    | with_reducible assumption
    | (with_reducible first | apply each_keepsAll | apply assignSlots_keeps | apply calRestore_keeps | apply reretire_keeps | apply enterTable_keeps | apply loadSlots_keeps | apply finishSlots_keeps | apply bindModel_keeps)
    | (with_reducible apply Keeps.ite)
    | split
    | (with_reducible apply foldl_keepsAll)
    | dsimp only
    | (with_reducible intro _ _ _)
    | (with_reducible intro _ _)
    | (with_reducible intro _)

theorem fetchModel_keeps {r : State} (a0) (a1) (a2) {s : State} (h : Keeps r s) :
    Keeps r (fetchModel a0 a1 a2 s).2 := by
  unfold fetchModel
  repeat' first
    | with_reducible assumption
    | (with_reducible first | apply imageNeeded_keeps | apply dropGolden_keeps | apply verifyModel_keeps | apply updModel_keeps | apply placeGolden_keeps | apply stageImage_keeps)
    | (with_reducible apply Keeps.ite)
    | split
    | (with_reducible apply foldl_keepsAll)
    | dsimp only
    | (with_reducible intro _ _ _)
    | (with_reducible intro _ _)
    | (with_reducible intro _)

theorem restoreModel_keeps {r : State} (a0) (a1) (a2) {s : State} (h : Keeps r s) :
    Keeps r (restoreModel a0 a1 a2 s) := by
  unfold restoreModel
  repeat' first
    | with_reducible assumption
    | (with_reducible first | apply verifyModel_keeps | apply fetchModel_keeps | apply imageNeeded_keeps | apply logRec_keeps)
    | (with_reducible apply Keeps.ite)
    | split
    | (with_reducible apply foldl_keepsAll)
    | dsimp only
    | (with_reducible intro _ _ _)
    | (with_reducible intro _ _)
    | (with_reducible intro _)

theorem execGoldenRestore_keeps {r : State} (a0) (a1) (a2) {s : State} (h : Keeps r s) :
    OutKeeps r (execGoldenRestore a0 a1 a2 s) := by
  unfold execGoldenRestore
  repeat' first
    | with_reducible assumption
    | with_reducible apply OutKeeps.next
    | with_reducible apply restoreModel_keeps

theorem execImageSourceRetry_keeps {r : State} (a0) (a1) (a2) {s : State} (h : Keeps r s) :
    OutKeeps r (execImageSourceRetry a0 a1 a2 s) := by
  unfold execImageSourceRetry
  repeat' first
    | with_reducible assumption
    | with_reducible apply OutKeeps.next
    | (with_reducible first | apply restoreModel_keeps | apply updFw_keeps | apply moveTo_keeps)
    | (with_reducible apply Keeps.ite)
    | split
    | (with_reducible apply foldl_keepsAll)
    | dsimp only
    | (with_reducible intro _ _ _)
    | (with_reducible intro _ _)
    | (with_reducible intro _)

theorem digestsHold_keeps {r : State} (x : List Byte) (l : List (GRec × Nat)) {s : State} (h : Keeps r s) :
    Keeps r (digestsHold x l s).2 := by
  induction l generalizing s with
  | nil => exact h
  | cons p l ih => exact ih (mcRead_keeps _ _ h)

theorem goldBad_keeps {r : State} (l : List GRec) {s : State} (h : Keeps r s) : Keeps r (goldBad l s).2 := by
  induction l generalizing s with
  | nil => exact h
  | cons p l ih => exact ih (mcRead_keeps _ _ (mcRead_keeps _ _ h))

theorem execGoldenRefetch_keeps {r : State} (a0) (a1) (a2) {s : State} (h : Keeps r s) :
    OutKeeps r (execGoldenRefetch a0 a1 a2 s) := by
  unfold execGoldenRefetch
  repeat' first
    | with_reducible assumption
    | with_reducible apply OutKeeps.next
    | (with_reducible first | apply logRec_keeps | apply goldBad_keeps | apply stageImage_keeps | apply digestsHold_keeps | apply each_keepsAll | apply mcWrite_keeps)
    | (with_reducible apply Keeps.ite)
    | split
    | (with_reducible apply foldl_keepsAll)
    | dsimp only
    | (with_reducible intro _ _ _)
    | (with_reducible intro _ _)
    | (with_reducible intro _)

theorem answered_keeps {r : State} (a0) (a1) {s : State} (h : Keeps r s) :
    Keeps r (answered a0 a1 s) := by
  unfold answered
  repeat' first
    | with_reducible assumption
    | (with_reducible first | apply updFw_keeps | apply setBit_keeps)

theorem rotate_keeps {r : State} (c : Nat) (failed : List (Nat × Nat)) (n : Nat) {s : State} (h : Keeps r s) :
    Keeps r (rotate c failed n s) := by
  unfold rotate
  generalize emptySpare s c = x
  generalize logOf s c = y
  rcases x with _ | p <;> rcases y with _ | l
  iterate 3 exact h
  have hg := readGold_keeps (r := r) c (slotGold s c n) h
  refine Keeps.ite (retireArr_keeps _ _ _ h) (Keeps.ite hg (Keeps.ite (retireArr_keeps _ _ _ (steepArr_keeps _ _ _ _ _ hg)) ?_))
  exact updFw_keeps _ (answered_keeps _ _ (fwWrite_keeps _ _ (mapSlot_keeps _ _ _ _ _ (steepArr_keeps _ _ _ _ _ hg))))

theorem dispose_keeps {r : State} (a0) (a1) (a2) {s : State} (h : Keeps r s) :
    Keeps r (dispose a0 a1 a2 s) := by
  unfold dispose
  repeat' first
    | with_reducible assumption
    | (with_reducible first | apply updFw_keeps | apply retireArr_keeps | apply forgetCal_keeps | apply eraseCells_keeps | apply spend_keeps | apply arrCmd_keeps | apply eraseArr_keeps)
    | (with_reducible apply Keeps.ite)
    | split
    | (with_reducible apply foldl_keepsAll)
    | dsimp only
    | (with_reducible intro _ _ _)
    | (with_reducible intro _ _)
    | (with_reducible intro _)

theorem execResteepRotation_keeps {r : State} (a0) (a1) {s : State} (h : Keeps r s) :
    OutKeeps r (execResteepRotation a0 a1 s) := by
  unfold execResteepRotation
  repeat' first
    | with_reducible assumption
    | with_reducible apply OutKeeps.next
    | (with_reducible first | apply upTo_keepsAll | apply dispose_keeps | apply each_keepsAll | apply rotate_keeps)
    | split

theorem endWatch_keeps {r : State} (a0) (a1) {s : State} (h : Keeps r s) :
    Keeps r (endWatch a0 a1 s) := by
  unfold endWatch
  repeat' first
    | with_reducible assumption
    | (with_reducible first | apply updFw_keeps | apply each_keepsAll | apply fwWrite_keeps)
    | (with_reducible intro _)

theorem suspectRepeat_keeps {r : State} (a0) (a1) {s : State} (h : Keeps r s) :
    Keeps r (suspectRepeat a0 a1 s) := by
  unfold suspectRepeat
  repeat' first
    | with_reducible assumption
    | (with_reducible first | apply updFw_keeps | apply endWatch_keeps)

theorem execSuspectObserve_keeps {r : State} (a0) (a1) {s : State} (h : Keeps r s) :
    OutKeeps r (execSuspectObserve a0 a1 s) := by
  unfold execSuspectObserve
  repeat' first
    | with_reducible assumption
    | with_reducible apply OutKeeps.next
    | (with_reducible first | apply suspectRepeat_keeps | apply updFw_keeps | apply fwWrite_keeps)
    | split
    | dsimp only

theorem execSuspectObservationEnd_keeps {r : State} (a0) (a1) {s : State} (h : Keeps r s) :
    OutKeeps r (execSuspectObservationEnd a0 a1 s) := by
  unfold execSuspectObservationEnd
  repeat' first
    | with_reducible assumption
    | with_reducible apply OutKeeps.next
    | (with_reducible first | apply endWatch_keeps | apply updCore_keeps | apply arrCmd_keeps)
    | split

theorem goldDigests_keeps {r : State} (l : List GRec) {s : State} (h : Keeps r s) : Keeps r (goldDigests l s).2 := by
  induction l generalizing s with
  | nil => exact h
  | cons p l ih => exact ih (mcRead_keeps _ _ h)

theorem digestModel_keeps {r : State} (a0) {s : State} (h : Keeps r s) :
    Keeps r (digestModel a0 s) := by
  unfold digestModel
  repeat' first
    | with_reducible assumption
    | (with_reducible first | apply goldDigests_keeps | apply fwReport_keeps | apply suspectRepeat_keeps | apply setB_keeps | apply emit_keeps | apply each_keepsAll)
    | (with_reducible apply Keeps.ite)
    | split
    | (with_reducible apply foldl_keepsAll)
    | dsimp only
    | (with_reducible intro _ _ _)
    | (with_reducible intro _ _)
    | (with_reducible intro _)

theorem execDigestInterval_keeps {r : State} {s : State} (h : Keeps r s) :
    OutKeeps r (execDigestInterval s) := by
  unfold execDigestInterval
  repeat' first
    | with_reducible assumption
    | with_reducible apply OutKeeps.next
    | (with_reducible first | apply moveTo_keeps | apply each_keepsAll | apply digestModel_keeps | apply updFw_keeps)

end Sys2Proof.Machine
end

