-- ==== Sys2Proof/Laws/Keeps/Part.lean ====
section
/-! SUPPORT. The effects of Machine/Part.lean keep the queue, the fuses and soundness. -/
namespace Sys2Proof.Machine

theorem updPart_keeps {r : State} (a0) (a1) {s : State} (h : Keeps r s) :
    Keeps r (updPart a0 a1 s) := by
  unfold updPart
  repeat' first
    | with_reducible assumption
    | with_reducible apply updFw_keeps
    | split

theorem tellMembers_keeps {r : State} (a0) (a1) (a2) {s : State} (h : Keeps r s) :
    Keeps r (tellMembers a0 a1 a2 s) := by
  unfold tellMembers
  repeat' first
    | with_reducible assumption
    | (with_reducible first | apply each_keepsAll | apply emit_keeps)
    | split
    | (with_reducible intro _)

theorem toCoord_keeps {r : State} (a0) (a1) (a2) {s : State} (h : Keeps r s) :
    Keeps r (toCoord a0 a1 a2 s) := by
  unfold toCoord
  repeat' first
    | with_reducible assumption
    | with_reducible apply emit_keeps
    | split

theorem stopIfDue_keeps {r : State} (a0) (a1) {s : State} (h : Keeps r s) :
    Keeps r (stopIfDue a0 a1 s) := by
  unfold stopIfDue
  repeat' first
    | with_reducible assumption
    | (with_reducible first | apply each_keepsAll | apply stopCmd_keeps)
    | (with_reducible apply Keeps.ite)
    | split

theorem endRing_keeps {r : State} (a0) {s : State} (h : Keeps r s) :
    Keeps r (endRing a0 s) := by
  unfold endRing
  repeat' first
    | with_reducible assumption
    | (with_reducible first | apply ringPut_keeps | apply loseStep_keeps | apply upTo_keepsAll)
    | split
    | (with_reducible intro _)

theorem clearEnt_keeps {r : State} (a0) {s : State} (h : Keeps r s) :
    Keeps r (clearEnt a0 s) := by
  unfold clearEnt
  repeat' first
    | with_reducible assumption
    | (with_reducible apply Keeps.ite)
    | split
    | (with_reducible apply foldl_keepsAll)
    | dsimp only
    | (with_reducible intro _ _ _)
    | (with_reducible intro _ _)
    | (with_reducible intro _)
    | (with_reducible refine Keeps.upd ?_ rfl; with_reducible first | assumption | split)

theorem clearStop_keeps {r : State} (a0) {s : State} (h : Keeps r s) :
    Keeps r (clearStop a0 s) := by
  unfold clearStop
  repeat' first
    | with_reducible assumption
    | (with_reducible apply Keeps.ite)
    | split
    | (with_reducible apply foldl_keepsAll)
    | dsimp only
    | (with_reducible intro _ _ _)
    | (with_reducible intro _ _)
    | (with_reducible intro _)
    | (with_reducible refine Keeps.upd ?_ rfl; with_reducible first | assumption | split)

theorem endEntries_keeps {r : State} (a0) {s : State} (h : Keeps r s) :
    Keeps r (endEntries a0 s) := by
  unfold endEntries
  repeat' first
    | with_reducible assumption
    | (with_reducible first | apply each_keepsAll | apply clearStop_keeps | apply freeEnt_keeps | apply set_keeps | apply upTo_keepsAll | apply clearEnt_keeps | apply showInUse_keeps | apply showKv_keeps | apply updSrv_keeps)
    | (with_reducible apply Keeps.ite)
    | split
    | (with_reducible apply foldl_keepsAll)
    | dsimp only
    | (with_reducible intro _ _ _)
    | (with_reducible intro _ _)
    | (with_reducible intro _)

theorem resetParts_keeps {r : State} (a0) {s : State} (h : Keeps r s) :
    Keeps r (resetParts a0 s) := by
  unfold resetParts
  repeat' first
    | with_reducible assumption
    | (with_reducible first | apply when_keepsAll | apply bump_keeps | apply each_keepsAll | apply proceedReset_keeps | apply setCoreState_keeps | apply updPart_keeps | apply endEntries_keeps)
    | (with_reducible intro _)

theorem setRst_keeps {r : State} (a0) (a1) {s : State} (h : Keeps r s) :
    Keeps r (setRst a0 a1 s) := by
  unfold setRst
  repeat' first
    | with_reducible assumption
    | (with_reducible first | apply upTo_keepsAll | apply setB_keeps)
    | (with_reducible intro _)

theorem partBoundary_keeps {r : State} (a0) (a1) {s : State} (h : Keeps r s) :
    Keeps r (partBoundary a0 a1 s) := by
  unfold partBoundary
  repeat' first
    | with_reducible assumption
    | (with_reducible first | apply updPart_keeps | apply setB_keeps | apply endRing_keeps | apply setRst_keeps | apply resetParts_keeps | apply stopIfDue_keeps)
    | (with_reducible apply Keeps.ite)
    | split

theorem stopAt_keeps {r : State} (a0) (a1) {s : State} (h : Keeps r s) :
    Keeps r (stopAt a0 a1 s) := by
  unfold stopAt
  repeat' first
    | with_reducible assumption
    | (with_reducible first | apply stopIfDue_keeps | apply updPart_keeps)

theorem pauseAt_keeps {r : State} (a0) (a1) {s : State} (h : Keeps r s) :
    Keeps r (pauseAt a0 a1 s) := by
  unfold pauseAt
  repeat' first
    | with_reducible assumption
    | (with_reducible first | apply stopIfDue_keeps | apply updPart_keeps)

theorem resetAtK_keeps {r : State} (a0) (a1) {s : State} (h : Keeps r s) :
    Keeps r (resetAtK a0 a1 s) := by
  unfold resetAtK
  repeat' first
    | with_reducible assumption
    | (with_reducible first | apply stopIfDue_keeps | apply updPart_keeps)

theorem pickStop_keeps {r : State} (a0) {s : State} (h : Keeps r s) :
    Keeps r (pickStop a0 s) := by
  unfold pickStop
  repeat' first
    | with_reducible assumption
    | (with_reducible first | apply stopAt_keeps | apply tellMembers_keeps)

theorem pickPause_keeps {r : State} (a0) {s : State} (h : Keeps r s) :
    Keeps r (pickPause a0 s) := by
  unfold pickPause
  repeat' first
    | with_reducible assumption
    | (with_reducible first | apply pauseAt_keeps | apply tellMembers_keeps)

theorem pickReset_keeps {r : State} (a0) {s : State} (h : Keeps r s) :
    Keeps r (pickReset a0 s) := by
  unfold pickReset
  repeat' first
    | with_reducible assumption
    | (with_reducible first | apply resetAtK_keeps | apply tellMembers_keeps)

theorem pickStart_keeps {r : State} (a0) {s : State} (h : Keeps r s) :
    Keeps r (pickStart a0 s) := by
  unfold pickStart
  repeat' first
    | with_reducible assumption
    | (with_reducible first | apply updPart_keeps | apply tellMembers_keeps)

theorem askStop_keeps {r : State} (a0) {s : State} (h : Keeps r s) :
    Keeps r (askStop a0 s) := by
  unfold askStop
  repeat' first
    | with_reducible assumption
    | (with_reducible first | apply pickStop_keeps | apply toCoord_keeps)
    | split

theorem askPause_keeps {r : State} (a0) {s : State} (h : Keeps r s) :
    Keeps r (askPause a0 s) := by
  unfold askPause
  repeat' first
    | with_reducible assumption
    | (with_reducible first | apply pickPause_keeps | apply toCoord_keeps)
    | split

theorem execPartitionStopNotice_keeps {r : State} (a0) (a1) {s : State} (h : Keeps r s) :
    OutKeeps r (execPartitionStopNotice a0 a1 s) := by
  unfold execPartitionStopNotice
  repeat' first
    | with_reducible assumption
    | with_reducible apply OutKeeps.next
    | with_reducible apply stopAt_keeps

theorem execPauseNotice_keeps {r : State} (a0) (a1) {s : State} (h : Keeps r s) :
    OutKeeps r (execPauseNotice a0 a1 s) := by
  unfold execPauseNotice
  repeat' first
    | with_reducible assumption
    | with_reducible apply OutKeeps.next
    | with_reducible apply pauseAt_keeps

theorem execPartitionResetNotice_keeps {r : State} (a0) (a1) {s : State} (h : Keeps r s) :
    OutKeeps r (execPartitionResetNotice a0 a1 s) := by
  unfold execPartitionResetNotice
  repeat' first
    | with_reducible assumption
    | with_reducible apply OutKeeps.next
    | with_reducible apply resetAtK_keeps

theorem execPauseRequest_keeps {r : State} (a0) {s : State} (h : Keeps r s) :
    OutKeeps r (execPauseRequest a0 s) := by
  unfold execPauseRequest
  repeat' first
    | with_reducible assumption
    | with_reducible apply OutKeeps.next
    | with_reducible apply askPause_keeps
    | split

theorem execPartitionStopRequest_keeps {r : State} (a0) (a1) {s : State} (h : Keeps r s) :
    OutKeeps r (execPartitionStopRequest a0 a1 s) := by
  unfold execPartitionStopRequest
  repeat' first
    | with_reducible assumption
    | with_reducible apply OutKeeps.next
    | (with_reducible first | apply pickStop_keeps | apply pickStart_keeps | apply stopAt_keeps | apply tellMembers_keeps)
    | split

theorem heardReady_keeps {r : State} (a0) (a1) {s : State} (h : Keeps r s) :
    Keeps r (heardReady a0 a1 s) := by
  unfold heardReady
  repeat' first
    | with_reducible assumption
    | (with_reducible first | apply updPart_keeps | apply pickStart_keeps)
    | split
    | dsimp only

theorem sayReady_keeps {r : State} (a0) {s : State} (h : Keeps r s) :
    Keeps r (sayReady a0 s) := by
  unfold sayReady
  repeat' first
    | with_reducible assumption
    | (with_reducible first | apply updPart_keeps | apply heardReady_keeps | apply toCoord_keeps)
    | split
    | dsimp only

theorem execReadyReport_keeps {r : State} (a0) (a1) {s : State} (h : Keeps r s) :
    OutKeeps r (execReadyReport a0 a1 s) := by
  unfold execReadyReport
  repeat' first
    | with_reducible assumption
    | with_reducible apply OutKeeps.next
    | with_reducible apply heardReady_keeps
    | split

theorem execPartitionStartNotice_keeps {r : State} (a0) (a1) {s : State} (h : Keeps r s) :
    OutKeeps r (execPartitionStartNotice a0 a1 s) := by
  unfold execPartitionStartNotice
  repeat' first
    | with_reducible assumption
    | with_reducible apply OutKeeps.next
    | with_reducible apply updPart_keeps

theorem execPartitionRunWrite_keeps {r : State} (a0) {s : State} (h : Keeps r s) :
    OutKeeps r (execPartitionRunWrite a0 s) := by
  unfold execPartitionRunWrite
  repeat' first
    | with_reducible assumption
    | with_reducible apply OutKeeps.next
    | (with_reducible first | apply updPart_keeps | apply emit_keeps | apply pickStart_keeps | apply stopAt_keeps | apply tellMembers_keeps | apply toCoord_keeps | apply each_keepsAll | apply runCmd_keeps | apply moveTo_keeps)
    | split
    | dsimp only

theorem switchWrites_keeps {r : State} (a0) {s : State} (h : Keeps r s) :
    Keeps r (switchWrites a0 s) := by
  unfold switchWrites
  repeat' first
    | with_reducible assumption
    | (with_reducible first | apply each_keepsAll | apply fwWrite_keeps)
    | (with_reducible apply Keeps.ite)
    | split
    | (with_reducible apply foldl_keepsAll)
    | dsimp only
    | (with_reducible intro _ _ _)
    | (with_reducible intro _ _)
    | (with_reducible intro _)

theorem planWrites_keeps {r : State} (a0) {s : State} (h : Keeps r s) :
    Keeps r (planWrites a0 s) := by
  unfold planWrites
  repeat' first
    | with_reducible assumption
    | (with_reducible first | apply each_keepsAll | apply fwWrite_keeps | apply switchWrites_keeps)
    | (with_reducible apply Keeps.ite)
    | split
    | (with_reducible apply foldl_keepsAll)
    | dsimp only
    | (with_reducible intro _ _ _)
    | (with_reducible intro _ _)
    | (with_reducible intro _)

theorem lateToNext_keeps {r : State} {s : State} (h : Keeps r s) :
    Keeps r (lateToNext s) := by
  unfold lateToNext
  repeat' first
    | with_reducible assumption
    | (with_reducible first | apply updPart_keeps | apply updFw_keeps | apply upTo_keepsAll)
    | (with_reducible apply Keeps.ite)
    | split
    | (with_reducible apply foldl_keepsAll)
    | dsimp only
    | (with_reducible intro _ _ _)
    | (with_reducible intro _ _)
    | (with_reducible intro _)

theorem planGate_keeps {r : State} {s : State} (h : Keeps r s) :
    Keeps r (planGate s) := by
  unfold planGate
  repeat' first
    | with_reducible assumption
    | (with_reducible first | apply lateToNext_keeps | apply planWrites_keeps | apply gateRelease_keeps | apply set_keeps | apply setB_keeps | apply when_keepsAll | apply gateAbort_keeps)
    | (with_reducible apply Keeps.ite)
    | split
    | (with_reducible apply foldl_keepsAll)
    | dsimp only
    | (with_reducible intro _ _ _)
    | (with_reducible intro _ _)
    | (with_reducible intro _)

theorem lowerAt_keeps {r : State} (a0) (a1) {s : State} (h : Keeps r s) :
    Keeps r (lowerAt a0 a1 s) := by
  unfold lowerAt
  repeat' first
    | with_reducible assumption
    | (with_reducible first | apply updFw_keeps)
    | (with_reducible apply Keeps.ite)
    | split
    | (with_reducible apply foldl_keepsAll)
    | dsimp only
    | (with_reducible intro _ _ _)
    | (with_reducible intro _ _)
    | (with_reducible intro _)

theorem switchHere_keeps {r : State} (a0) (a1) {s : State} (h : Keeps r s) :
    Keeps r (switchHere a0 a1 s) := by
  unfold switchHere
  repeat' first
    | with_reducible assumption
    | (with_reducible first | apply updPart_keeps)
    | (with_reducible apply Keeps.ite)
    | split
    | (with_reducible apply foldl_keepsAll)
    | dsimp only
    | (with_reducible intro _ _ _)
    | (with_reducible intro _ _)
    | (with_reducible intro _)

theorem gateNext_keeps {r : State} (a0) {s : State} (h : Keeps r s) :
    Keeps r (gateNext a0 s) := by
  unfold gateNext
  repeat' first
    | with_reducible assumption
    | (with_reducible first | apply updFw_keeps | apply planGate_keeps)
    | (with_reducible apply Keeps.ite)
    | split
    | (with_reducible apply foldl_keepsAll)
    | dsimp only
    | (with_reducible intro _ _ _)
    | (with_reducible intro _ _)
    | (with_reducible intro _)

theorem unplanLow_keeps {r : State} (a0) {s : State} (h : Keeps r s) :
    Keeps r (unplanLow a0 s) := by
  unfold unplanLow
  repeat' first
    | with_reducible assumption
    | (with_reducible first | apply updFw_keeps | apply planGate_keeps | apply when_keepsAll | apply gateAbort_keeps)
    | (with_reducible apply Keeps.ite)
    | split
    | (with_reducible apply foldl_keepsAll)
    | dsimp only
    | (with_reducible intro _ _ _)
    | (with_reducible intro _ _)
    | (with_reducible intro _)

theorem raiseHalf_keeps {r : State} (a0) {s : State} (h : Keeps r s) :
    Keeps r (raiseHalf a0 s) := by
  unfold raiseHalf
  repeat' first
    | with_reducible assumption
    | (with_reducible first | apply updFw_keeps | apply fwWrite_keeps | apply unplanLow_keeps)
    | (with_reducible apply Keeps.ite)
    | split
    | (with_reducible apply foldl_keepsAll)
    | dsimp only
    | (with_reducible intro _ _ _)
    | (with_reducible intro _ _)
    | (with_reducible intro _)

theorem execTickBoundary_keeps {r : State} (a0) {s : State} (h : Keeps r s) :
    OutKeeps r (execTickBoundary a0 s) := by
  unfold execTickBoundary
  repeat' first
    | with_reducible assumption
    | with_reducible apply OutKeeps.next
    | (with_reducible first | apply countMoe_keeps | apply boundary_keeps | apply moveTo_keeps | apply each_keepsAll | apply passTo_keeps | apply gateNext_keeps | apply upTo_keepsAll | apply partBoundary_keeps)
    | (with_reducible apply Keeps.ite)
    | split
    | (with_reducible apply foldl_keepsAll)
    | dsimp only
    | (with_reducible intro _ _ _)
    | (with_reducible intro _ _)
    | (with_reducible intro _)

theorem scaleAdm_keeps {r : State} (a0) {s : State} (h : Keeps r s) :
    Keeps r (scaleAdm a0 s) := by
  unfold scaleAdm
  repeat' first
    | with_reducible assumption
    | (with_reducible first | apply updPart_keeps | apply fwWrite_keeps)
    | (with_reducible apply Keeps.ite)
    | split
    | (with_reducible apply foldl_keepsAll)
    | dsimp only
    | (with_reducible intro _ _ _)
    | (with_reducible intro _ _)
    | (with_reducible intro _)

theorem noteLow_keeps {r : State} (a0) {s : State} (h : Keeps r s) :
    Keeps r (noteLow a0 s) := by
  unfold noteLow
  repeat' first
    | with_reducible assumption
    | with_reducible apply updFw_keeps

theorem doSwitch_keeps {r : State} (a0) (a1) (a2) (a3) {s : State} (h : Keeps r s) :
    Keeps r (doSwitch a0 a1 a2 a3 s) := by
  unfold doSwitch
  repeat' first
    | with_reducible assumption
    | (with_reducible first | apply switchHere_keeps | apply when_keepsAll | apply scaleAdm_keeps | apply planGate_keeps | apply lowerAt_keeps | apply noteLow_keeps)
    | (with_reducible apply Keeps.ite)
    | split
    | (with_reducible apply foldl_keepsAll)
    | dsimp only
    | (with_reducible intro _ _ _)
    | (with_reducible intro _ _)
    | (with_reducible intro _)

theorem sendSwitch_keeps {r : State} (a0) (a1) (a2) (a3) {s : State} (h : Keeps r s) :
    Keeps r (sendSwitch a0 a1 a2 a3 s) := by
  unfold sendSwitch
  repeat' first
    | with_reducible assumption
    | (with_reducible first | apply doSwitch_keeps | apply tellMembers_keeps)

theorem execSwitchNotice_keeps {r : State} (a0) (a1) (a2) (a3) {s : State} (h : Keeps r s) :
    OutKeeps r (execSwitchNotice a0 a1 a2 a3 s) := by
  unfold execSwitchNotice
  repeat' first
    | with_reducible assumption
    | with_reducible apply OutKeeps.next
    | with_reducible apply doSwitch_keeps

theorem reportMissing_keeps {r : State} (a0) (a1) (a2) {s : State} (h : Keeps r s) :
    Keeps r (reportMissing a0 a1 a2 s) := by
  unfold reportMissing
  repeat' first
    | with_reducible assumption
    | (with_reducible first | apply each_keepsAll | apply emit_keeps | apply updPart_keeps)
    | (with_reducible apply Keeps.ite)
    | split
    | (with_reducible apply foldl_keepsAll)
    | dsimp only
    | (with_reducible intro _ _ _)
    | (with_reducible intro _ _)
    | (with_reducible intro _)

theorem renumber_keeps {r : State} (a0) {s : State} (h : Keeps r s) :
    Keeps r (renumber a0 s) := by
  unfold renumber
  repeat' first
    | with_reducible assumption
    | (with_reducible first | apply updPart_keeps)
    | (with_reducible apply Keeps.ite)
    | split
    | (with_reducible apply foldl_keepsAll)
    | dsimp only
    | (with_reducible intro _ _ _)
    | (with_reducible intro _ _)
    | (with_reducible intro _)

theorem decideFb_keeps {r : State} (a0) (a1) {s : State} (h : Keeps r s) :
    Keeps r (decideFb a0 a1 s) := by
  unfold decideFb
  repeat' first
    | with_reducible assumption
    | (with_reducible first | apply reportMissing_keeps | apply updPart_keeps | apply notify_keeps | apply sendSwitch_keeps)
    | (with_reducible apply Keeps.ite)
    | split

theorem decideOv_keeps {r : State} (a0) (a1) {s : State} (h : Keeps r s) :
    Keeps r (decideOv a0 a1 s) := by
  unfold decideOv
  repeat' first
    | with_reducible assumption
    | (with_reducible first | apply reportMissing_keeps | apply updPart_keeps | apply notify_keeps | apply sendSwitch_keeps)
    | (with_reducible apply Keeps.ite)
    | split

theorem hearFb_keeps {r : State} (a0) (a1) (a2) (a3) (a4) {s : State} (h : Keeps r s) :
    Keeps r (hearFb a0 a1 a2 a3 a4 s) := by
  unfold hearFb
  repeat' first
    | with_reducible assumption
    | (with_reducible first | apply updPart_keeps | apply decideFb_keeps)
    | (with_reducible apply Keeps.ite)
    | split

theorem hearOv_keeps {r : State} (a0) (a1) (a2) (a3) (a4) {s : State} (h : Keeps r s) :
    Keeps r (hearOv a0 a1 a2 a3 a4 s) := by
  unfold hearOv
  repeat' first
    | with_reducible assumption
    | (with_reducible first | apply updPart_keeps | apply decideOv_keeps)
    | (with_reducible apply Keeps.ite)
    | split

theorem execFallbackReport_keeps {r : State} (a0) (a1) (a2) (a3) (a4) {s : State} (h : Keeps r s) :
    OutKeeps r (execFallbackReport a0 a1 a2 a3 a4 s) := by
  unfold execFallbackReport
  repeat' first
    | with_reducible assumption
    | with_reducible apply OutKeeps.next
    | (with_reducible first | apply hearFb_keeps | apply renumber_keeps)
    | (with_reducible apply Keeps.ite)
    | split
    | (with_reducible apply foldl_keepsAll)
    | dsimp only
    | (with_reducible intro _ _ _)
    | (with_reducible intro _ _)
    | (with_reducible intro _)

theorem execOverrunReport_keeps {r : State} (a0) (a1) (a2) (a3) (a4) {s : State} (h : Keeps r s) :
    OutKeeps r (execOverrunReport a0 a1 a2 a3 a4 s) := by
  unfold execOverrunReport
  repeat' first
    | with_reducible assumption
    | with_reducible apply OutKeeps.next
    | (with_reducible first | apply hearOv_keeps | apply renumber_keeps)
    | (with_reducible apply Keeps.ite)
    | split
    | (with_reducible apply foldl_keepsAll)
    | dsimp only
    | (with_reducible intro _ _ _)
    | (with_reducible intro _ _)
    | (with_reducible intro _)

theorem windowReports_keeps {r : State} (a0) (a1) (a2) {s : State} (h : Keeps r s) :
    Keeps r (windowReports a0 a1 a2 s) := by
  unfold windowReports
  repeat' first
    | with_reducible assumption
    | (with_reducible first | apply updPart_keeps | apply decideFb_keeps | apply decideOv_keeps | apply tellMembers_keeps | apply hearOv_keeps | apply hearFb_keeps | apply toCoord_keeps)
    | split

theorem execOverrunWindowEnd_keeps {r : State} (a0) {s : State} (h : Keeps r s) :
    OutKeeps r (execOverrunWindowEnd a0 s) := by
  unfold execOverrunWindowEnd
  repeat' first
    | with_reducible assumption
    | with_reducible apply OutKeeps.next
    | (with_reducible first | apply renumber_keeps | apply windowReports_keeps)
    | (with_reducible apply Keeps.ite)
    | split
    | (with_reducible apply foldl_keepsAll)
    | dsimp only
    | (with_reducible intro _ _ _)
    | (with_reducible intro _ _)
    | (with_reducible intro _)

theorem execWindowAck_keeps {r : State} (a0) {s : State} (h : Keeps r s) :
    OutKeeps r (execWindowAck a0 s) := by
  unfold execWindowAck
  repeat' first
    | with_reducible assumption
    | with_reducible apply OutKeeps.next
    | with_reducible apply updPart_keeps

theorem execCoordinatorSilent_keeps {r : State} (a0) (a1) {s : State} (h : Keeps r s) :
    OutKeeps r (execCoordinatorSilent a0 a1 s) := by
  unfold execCoordinatorSilent
  repeat' first
    | with_reducible assumption
    | with_reducible apply OutKeeps.next
    | (with_reducible first | apply notify_keeps | apply updPart_keeps | apply emit_keeps | apply each_keepsAll | apply stopCmd_keeps)
    | split

theorem execHoldoverExpire_keeps {r : State} {s : State} (h : Keeps r s) :
    OutKeeps r (execHoldoverExpire s) := by
  unfold execHoldoverExpire
  repeat' first
    | with_reducible assumption
    | with_reducible apply OutKeeps.next
    | (with_reducible first | apply holdoverEnd_keeps | apply upTo_keepsAll | apply askStop_keeps)
    | split
    | dsimp only
    | (with_reducible intro _ _ _)

theorem thermalNote_keeps {r : State} (a0) (a1) {s : State} (h : Keeps r s) :
    Keeps r (thermalNote a0 a1 s) := by
  unfold thermalNote
  repeat' first
    | with_reducible assumption
    | with_reducible apply notify_keeps

theorem throttlePart_keeps {r : State} (a0) {s : State} (h : Keeps r s) :
    Keeps r (throttlePart a0 s) := by
  unfold throttlePart
  repeat' first
    | with_reducible assumption
    | (with_reducible first | apply thermalNote_keeps | apply sendSwitch_keeps | apply toCoord_keeps)
    | split

theorem lowerNow_keeps {r : State} (a0) {s : State} (h : Keeps r s) :
    Keeps r (lowerNow a0 s) := by
  unfold lowerNow
  repeat' first
    | with_reducible assumption
    | (with_reducible first | apply noteLow_keeps | apply gated_keeps | apply fwWrite_keeps)

theorem execThrottleSet_keeps {r : State} (a0) {s : State} (h : Keeps r s) :
    OutKeeps r (execThrottleSet a0 s) := by
  unfold execThrottleSet
  repeat' first
    | with_reducible assumption
    | with_reducible apply OutKeeps.next
    | (with_reducible first | apply each_keepsAll | apply throttlePart_keeps | apply thermalNote_keeps | apply lowerNow_keeps)
    | split

theorem execThrottleRequest_keeps {r : State} (a0) (a1) {s : State} (h : Keeps r s) :
    OutKeeps r (execThrottleRequest a0 a1 s) := by
  unfold execThrottleRequest
  repeat' first
    | with_reducible assumption
    | with_reducible apply OutKeeps.next
    | (with_reducible first | apply sendSwitch_keeps | apply thermalNote_keeps)
    | split

theorem execThrottleClear_keeps {r : State} (a0) {s : State} (h : Keeps r s) :
    OutKeeps r (execThrottleClear a0 s) := by
  unfold execThrottleClear
  repeat' first
    | with_reducible assumption
    | with_reducible apply OutKeeps.next
    | (with_reducible first | apply raiseHalf_keeps)
    | (with_reducible apply Keeps.ite)
    | split
    | (with_reducible apply foldl_keepsAll)
    | dsimp only
    | (with_reducible intro _ _ _)
    | (with_reducible intro _ _)
    | (with_reducible intro _)

end Sys2Proof.Machine
end

