-- ==== Sys2Proof/Laws/Keeps/PartCmd.lean ====
section
/-! SUPPORT. The effects of Machine/PartCmd.lean keep the queue, the fuses and soundness. -/
namespace Sys2Proof.Machine

theorem putRegion_keeps {r : State} (a0) (a1) (a2) (a3) (a4) (a5) {s : State} (h : Keeps r s) :
    Keeps r (putRegion a0 a1 a2 a3 a4 a5 s) := by
  unfold putRegion
  repeat' first
    | with_reducible assumption
    | with_reducible apply fwWrite_keeps

theorem openAper_keeps {r : State} (a0) (a1) {s : State} (h : Keeps r s) :
    Keeps r (openAper a0 a1 s) := by
  unfold openAper
  repeat' first
    | with_reducible assumption
    | (with_reducible first | apply fwWrite_keeps)
    | (with_reducible apply Keeps.ite)
    | split
    | (with_reducible apply foldl_keepsAll)
    | dsimp only
    | (with_reducible intro _ _ _)
    | (with_reducible intro _ _)
    | (with_reducible intro _)

theorem closeApers_keeps {r : State} (a0) {s : State} (h : Keeps r s) :
    Keeps r (closeApers a0 s) := by
  unfold closeApers
  repeat' first
    | with_reducible assumption
    | (with_reducible first | apply upTo_keepsAll | apply fwWrite_keeps)
    | (with_reducible apply Keeps.ite)
    | split
    | (with_reducible apply foldl_keepsAll)
    | dsimp only
    | (with_reducible intro _ _ _)
    | (with_reducible intro _ _)
    | (with_reducible intro _)

theorem createRegs_keeps {r : State} (a0) (a1) {s : State} (h : Keeps r s) :
    Keeps r (createRegs a0 a1 s) := by
  unfold createRegs
  repeat' first
    | with_reducible assumption
    | (with_reducible first | apply fwWrite_keeps | apply putRegion_keeps | apply upTo_keepsAll | apply gated_keeps | apply each_keepsAll | apply openAper_keeps | apply when_keepsAll | apply setBit_keeps | apply showKv_keeps | apply set_keeps)
    | (with_reducible apply Keeps.ite)
    | split
    | (with_reducible apply foldl_keepsAll)
    | dsimp only
    | (with_reducible intro _ _ _)
    | (with_reducible intro _ _)
    | (with_reducible intro _)

theorem execPartCreate_keeps {r : State} (a0) (a1) {s : State} (h : Keeps r s) :
    OutKeeps r (execPartCreate a0 a1 s) := by
  unfold execPartCreate
  repeat' first
    | with_reducible assumption
    | with_reducible apply OutKeeps.next
    | (with_reducible first | apply run_keeps | apply respond_keeps | apply updFw_keeps | apply createRegs_keeps | apply okActive_keeps | apply fromBuffer_keeps)
    | (with_reducible apply Keeps.ite)
    | split
    | (with_reducible apply foldl_keepsAll)
    | dsimp only
    | (with_reducible intro _ _ _)
    | (with_reducible intro _ _)
    | (with_reducible intro _)

theorem destroyRegs_keeps {r : State} (a0) (a1) {s : State} (h : Keeps r s) :
    Keeps r (destroyRegs a0 a1 s) := by
  unfold destroyRegs
  repeat' first
    | with_reducible assumption
    | (with_reducible first | apply upTo_keepsAll | apply fwWrite_keeps | apply gated_keeps | apply setB_keeps | apply setBit_keeps | apply each_keepsAll | apply closeApers_keeps | apply endEntries_keeps)
    | (with_reducible apply Keeps.ite)
    | split
    | (with_reducible apply foldl_keepsAll)
    | dsimp only
    | (with_reducible intro _ _ _)
    | (with_reducible intro _ _)
    | (with_reducible intro _)

theorem onPartIf_keeps {r : State} (a0) (a1) (a2) {a3} {s : State} (h : Keeps r s) (h3 : ∀ x0 x1 x2 t, Keeps r t → Keeps r (a3 x0 x1 x2 t)) :
    Keeps r (onPartIf a0 a1 a2 a3 s) := by
  unfold onPartIf
  repeat' first
    | with_reducible assumption
    | (with_reducible first | apply h3 | apply run_keeps | apply respond_keeps)
    | (with_reducible apply Keeps.ite)
    | split
    | (with_reducible apply foldl_keepsAll)
    | dsimp only
    | (with_reducible intro _ _ _)
    | (with_reducible intro _ _)
    | (with_reducible intro _)

theorem onPart_keeps {r : State} (a0) (a1) {a2} {s : State} (h : Keeps r s) (h2 : ∀ x0 x1 x2 t, Keeps r t → Keeps r (a2 x0 x1 x2 t)) :
    Keeps r (onPart a0 a1 a2 s) := by
  unfold onPart
  repeat' first
    | with_reducible assumption
    | (with_reducible first | apply h2 | apply onPartIf_keeps)
    | (with_reducible apply Keeps.ite)
    | split
    | (with_reducible apply foldl_keepsAll)
    | dsimp only
    | (with_reducible intro _ _ _)
    | (with_reducible intro _ _)
    | (with_reducible intro _)

theorem execPartDestroy_keeps {r : State} (a0) {s : State} (h : Keeps r s) :
    OutKeeps r (execPartDestroy a0 s) := by
  unfold execPartDestroy
  repeat' first
    | with_reducible assumption
    | with_reducible apply OutKeeps.next
    | (with_reducible first | apply onPart_keeps | apply respond_keeps | apply updFw_keeps | apply destroyRegs_keeps | apply okActive_keeps)
    | split
    | (with_reducible intro _)

theorem execPartStart_keeps {r : State} (a0) {s : State} (h : Keeps r s) :
    OutKeeps r (execPartStart a0 s) := by
  unfold execPartStart
  repeat' first
    | with_reducible assumption
    | with_reducible apply OutKeeps.next
    | (with_reducible first | apply onPart_keeps | apply respond_keeps | apply sayReady_keeps | apply pend_keeps)
    | split
    | (with_reducible intro _)

theorem execPartStop_keeps {r : State} (a0) {s : State} (h : Keeps r s) :
    OutKeeps r (execPartStop a0 s) := by
  unfold execPartStop
  repeat' first
    | with_reducible assumption
    | with_reducible apply OutKeeps.next
    | (with_reducible first | apply onPart_keeps | apply respond_keeps | apply askStop_keeps | apply pend_keeps)
    | split
    | (with_reducible intro _)

theorem execPartReset_keeps {r : State} (a0) {s : State} (h : Keeps r s) :
    OutKeeps r (execPartReset a0 s) := by
  unfold execPartReset
  repeat' first
    | with_reducible assumption
    | with_reducible apply OutKeeps.next
    | (with_reducible first | apply onPart_keeps | apply respond_keeps | apply pend_keeps | apply pickReset_keeps | apply toCoord_keeps)
    | (with_reducible apply Keeps.ite)
    | (with_reducible intro _)

theorem setIf_keeps {r : State} (a0) (a1) {s : State} (h : Keeps r s) :
    Keeps r (setIf a0 a1 s) := by
  unfold setIf
  repeat' first
    | with_reducible assumption
    | with_reducible apply fwWrite_keeps
    | split

theorem execPartSet_keeps {r : State} (a0) (a1) {s : State} (h : Keeps r s) :
    OutKeeps r (execPartSet a0 a1 s) := by
  unfold execPartSet
  repeat' first
    | with_reducible assumption
    | with_reducible apply OutKeeps.next
    | (with_reducible first | apply onPartIf_keeps | apply updPart_keeps | apply okActive_keeps | apply setIf_keeps)
    | (with_reducible apply Keeps.ite)
    | split
    | (with_reducible apply foldl_keepsAll)
    | dsimp only
    | (with_reducible intro _ _ _)
    | (with_reducible intro _ _)
    | (with_reducible intro _)

theorem execPartClear_keeps {r : State} (a0) {s : State} (h : Keeps r s) :
    OutKeeps r (execPartClear a0 s) := by
  unfold execPartClear
  repeat' first
    | with_reducible assumption
    | with_reducible apply OutKeeps.next
    | (with_reducible first | apply onPart_keeps | apply upTo_keepsAll | apply denied_keeps | apply setB_keeps | apply respond_keeps | apply updPart_keeps | apply each_keepsAll)
    | (with_reducible apply Keeps.ite)
    | split
    | (with_reducible apply foldl_keepsAll)
    | dsimp only
    | (with_reducible intro _ _ _)
    | (with_reducible intro _ _)
    | (with_reducible intro _)

theorem execPartStatus_keeps {r : State} (a0) (a1) {s : State} (h : Keeps r s) :
    OutKeeps r (execPartStatus a0 a1 s) := by
  unfold execPartStatus
  repeat' first
    | with_reducible assumption
    | with_reducible apply OutKeeps.next
    | (with_reducible first | apply onPart_keeps | apply respond_keeps)
    | (with_reducible apply Keeps.ite)
    | split
    | (with_reducible apply foldl_keepsAll)
    | dsimp only
    | (with_reducible intro _ _ _)
    | (with_reducible intro _ _)
    | (with_reducible intro _)

theorem writeRcp_keeps {r : State} (a0) (a1) {s : State} (h : Keeps r s) :
    Keeps r (writeRcp a0 a1 s) := by
  unfold writeRcp
  repeat' first
    | with_reducible assumption
    | with_reducible apply fwWrite_keeps

theorem writeSection_keeps {r : State} (a0) (a1) (a2) (a3) {s : State} (h : Keeps r s) :
    Keeps r (writeSection a0 a1 a2 a3 s) := by
  unfold writeSection
  repeat' first
    | with_reducible assumption
    | (with_reducible first | apply fwSet_keeps | apply each_keepsAll | apply writeRcp_keeps | apply upTo_keepsAll)
    | (with_reducible apply Keeps.ite)
    | split
    | (with_reducible apply foldl_keepsAll)
    | dsimp only
    | (with_reducible intro _ _ _)
    | (with_reducible intro _ _)
    | (with_reducible intro _)
    | (with_reducible refine Keeps.updMem ?_ ?_ rfl; rotate_left; (rw [Mems.wf_iff, Mems.wf_iff]; rintro ⟨h1, h2, h3, h4, h5, h6, h7, h8, h9⟩; refine ⟨?_, ?_, ?_, ?_, ?_, ?_, ?_, ?_, ?_⟩ <;> repeat' (with_reducible first | assumption | exact SMap.wf_nil | exact NSet.wf_nil | apply SMap.wf_cond | apply NSet.wf_cond | apply wf_wrBytes | apply SMap.wf_put | apply SMap.wf_del | apply SMap.wf_erase | apply SMap.wf_filter | apply NSet.wf_add | apply NSet.wf_erase | apply NSet.wf_del | apply NSet.wf_filter | apply NSet.wf_foldl_add | apply SMap.wf_foldl_put | split)))
    | (with_reducible refine Keeps.upd ?_ rfl; with_reducible first | assumption | apply fwSet_keeps | apply each_keepsAll | apply writeRcp_keeps | apply upTo_keepsAll | split)

theorem loadSched_keeps {r : State} (a0) (a1) {s : State} (h : Keeps r s) :
    Keeps r (loadSched a0 a1 s) := by
  unfold loadSched
  repeat' first
    | with_reducible assumption
    | (with_reducible first | apply writeSection_keeps | apply updPart_keeps | apply each_keepsAll)
    | (with_reducible apply Keeps.ite)
    | split
    | (with_reducible apply foldl_keepsAll)
    | dsimp only
    | (with_reducible intro _ _ _)
    | (with_reducible intro _ _)
    | (with_reducible intro _)

theorem execSchedLoad_keeps {r : State} (a0) (a1) {s : State} (h : Keeps r s) :
    OutKeeps r (execSchedLoad a0 a1 s) := by
  unfold execSchedLoad
  repeat' first
    | with_reducible assumption
    | with_reducible apply OutKeeps.next
    | (with_reducible first | apply onPart_keeps | apply fromBuffer_keeps | apply respond_keeps | apply okActive_keeps | apply loadSched_keeps)
    | (with_reducible apply Keeps.ite)
    | split
    | (with_reducible apply foldl_keepsAll)
    | dsimp only
    | (with_reducible intro _ _ _)
    | (with_reducible intro _ _)
    | (with_reducible intro _)

theorem commandSwitch_keeps {r : State} (a0) (a1) (a2) {s : State} (h : Keeps r s) :
    Keeps r (commandSwitch a0 a1 a2 s) := by
  unfold commandSwitch
  repeat' first
    | with_reducible assumption
    | (with_reducible first | apply pend_keeps | apply sendSwitch_keeps | apply toCoord_keeps)
    | (with_reducible apply Keeps.ite)

theorem execSchedSwitch_keeps {r : State} (a0) {s : State} (h : Keeps r s) :
    OutKeeps r (execSchedSwitch a0 s) := by
  unfold execSchedSwitch
  repeat' first
    | with_reducible assumption
    | with_reducible apply OutKeeps.next
    | (with_reducible first | apply onPart_keeps | apply respond_keeps | apply commandSwitch_keeps)
    | split
    | (with_reducible intro _)

theorem execPartNarrow_keeps {r : State} (a0) {s : State} (h : Keeps r s) :
    OutKeeps r (execPartNarrow a0 s) := by
  unfold execPartNarrow
  repeat' first
    | with_reducible assumption
    | with_reducible apply OutKeeps.next
    | (with_reducible first | apply onPart_keeps | apply respond_keeps | apply commandSwitch_keeps)
    | (with_reducible apply Keeps.ite)
    | (with_reducible intro _)

theorem execHalfClock_keeps {r : State} (a0) (a1) (a2) (a3) {s : State} (h : Keeps r s) :
    OutKeeps r (execHalfClock a0 a1 a2 a3 s) := by
  unfold execHalfClock
  repeat' first
    | with_reducible assumption
    | with_reducible apply OutKeeps.next
    | (with_reducible first | apply run_keeps | apply respond_keeps | apply raiseHalf_keeps | apply pend_keeps | apply notify_keeps | apply each_keepsAll | apply switchHere_keeps | apply tellMembers_keeps | apply gated_keeps | apply fwWrite_keeps | apply planGate_keeps | apply lowerAt_keeps)
    | (with_reducible apply Keeps.ite)
    | split
    | (with_reducible apply foldl_keepsAll)
    | dsimp only
    | (with_reducible intro _ _ _)
    | (with_reducible intro _ _)
    | (with_reducible intro _)

theorem execRecipeSet_keeps {r : State} (a0) (a1) {s : State} (h : Keeps r s) :
    OutKeeps r (execRecipeSet a0 a1 s) := by
  unfold execRecipeSet
  repeat' first
    | with_reducible assumption
    | with_reducible apply OutKeeps.next
    | (with_reducible first | apply onPartIf_keeps | apply respond_keeps | apply each_keepsAll | apply writeRcp_keeps | apply okActive_keeps)
    | (with_reducible apply Keeps.ite)
    | split
    | (with_reducible apply foldl_keepsAll)
    | dsimp only
    | (with_reducible intro _ _ _)
    | (with_reducible intro _ _)
    | (with_reducible intro _)

theorem execRecipeGet_keeps {r : State} (a0) (a1) {s : State} (h : Keeps r s) :
    OutKeeps r (execRecipeGet a0 a1 s) := by
  unfold execRecipeGet
  repeat' first
    | with_reducible assumption
    | with_reducible apply OutKeeps.next
    | (with_reducible first | apply onPartIf_keeps | apply respond_keeps | apply upTo_keepsAll | apply denied_keeps)
    | (with_reducible apply Keeps.ite)
    | split
    | (with_reducible apply foldl_keepsAll)
    | dsimp only
    | (with_reducible intro _ _ _)
    | (with_reducible intro _ _)
    | (with_reducible intro _)

theorem execFlagsGet_keeps {r : State} (a0) (a1) {s : State} (h : Keeps r s) :
    OutKeeps r (execFlagsGet a0 a1 s) := by
  unfold execFlagsGet
  repeat' first
    | with_reducible assumption
    | with_reducible apply OutKeeps.next
    | (with_reducible first | apply onPart_keeps | apply respond_keeps)
    | (with_reducible apply Keeps.ite)
    | split
    | (with_reducible apply foldl_keepsAll)
    | dsimp only
    | (with_reducible intro _ _ _)
    | (with_reducible intro _ _)
    | (with_reducible intro _)

theorem copyRws_keeps {r : State} (a0) {s : State} (h : Keeps r s) :
    Keeps r (copyRws a0 s) := by
  unfold copyRws
  repeat' first
    | with_reducible assumption
    | (with_reducible first | apply each_keepsAll | apply fwWrite_keeps)
    | (with_reducible intro _)

theorem spareStart_keeps {r : State} (a0) {s : State} (h : Keeps r s) :
    Keeps r (spareStart a0 s) := by
  unfold spareStart
  repeat' first
    | with_reducible assumption
    | (with_reducible first | apply calRestore_keeps | apply reretire_keeps | apply takeMicrocode_keeps | apply setCoreState_keeps | apply wipeSpad_keeps | apply resetCompute_keeps)

theorem spareRegs_keeps {r : State} (a0) (a1) (a2) (a3) {s : State} (h : Keeps r s) :
    Keeps r (spareRegs a0 a1 a2 a3 s) := by
  unfold spareRegs
  repeat' first
    | with_reducible assumption
    | (with_reducible first | apply updFw_keeps | apply gated_keeps | apply fwWrite_keeps | apply setB_keeps | apply set_keeps | apply copyRws_keeps)

theorem spareBank_keeps {r : State} (a0) (a1) (a2) (a3) {s : State} (h : Keeps r s) :
    Keeps r (spareBank a0 a1 a2 a3 s) := by
  unfold spareBank
  repeat' first
    | with_reducible assumption
    | (with_reducible first | apply each_keepsAll | apply writeSection_keeps)
    | split

theorem spareModels_keeps {r : State} (a0) (a1) (l : List Model) {s : State} (h : Keeps r s) : Keeps r (spareModels a0 a1 l s).2 := by
  induction l generalizing s with
  | nil => exact h
  | cons m l ih =>
    unfold spareModels
    repeat' first
      | with_reducible assumption
      | (with_reducible apply ih)
      | (with_reducible first | apply loadSlots_keeps | apply finishSlots_keeps | apply bindModel_keeps | apply fwReport_keeps | apply steepArr_keeps)
      | (with_reducible apply Keeps.ite)
      | split
      | dsimp only

theorem resumePart_keeps {r : State} (a0) {s : State} (h : Keeps r s) :
    Keeps r (resumePart a0 s) := by
  unfold resumePart
  repeat' first
    | with_reducible assumption
    | (with_reducible first | apply sayReady_keeps | apply setB_keeps)

theorem replaceCore_keeps {r : State} (a0) (a1) (a2) (a3) (a4) {s : State} (h : Keeps r s) :
    Keeps r (replaceCore a0 a1 a2 a3 a4 s) := by
  unfold replaceCore
  repeat' first
    | with_reducible assumption
    | (with_reducible first | apply assignSlots_keeps | apply spareRegs_keeps | apply spareStart_keeps | apply spareModels_keeps | apply logRec_keeps | apply fwWrite_keeps | apply spareBank_keeps | apply when_keepsAll | apply resumePart_keeps)
    | (with_reducible apply Keeps.ite)
    | split
    | (with_reducible apply foldl_keepsAll)
    | dsimp only
    | (with_reducible intro _ _ _)
    | (with_reducible intro _ _)
    | (with_reducible intro _)

theorem replaceOrPropose_keeps {r : State} (a0) (a1) (a2) (a3) {s : State} (h : Keeps r s) :
    Keeps r (replaceOrPropose a0 a1 a2 a3 s) := by
  unfold replaceOrPropose
  repeat' first
    | with_reducible assumption
    | (with_reducible first | apply ackAll_keeps | apply resumePart_keeps | apply replaceCore_keeps | apply fwReport_keeps)
    | split

theorem execFaultPause_keeps {r : State} (a0) (a1) {s : State} (h : Keeps r s) :
    OutKeeps r (execFaultPause a0 a1 s) := by
  unfold execFaultPause
  repeat' first
    | with_reducible assumption
    | with_reducible apply OutKeeps.next
    | (with_reducible first | apply replaceOrPropose_keeps | apply askPause_keeps | apply ackAll_keeps)
    | split

theorem execCoreFence_keeps {r : State} (a0) (a1) {s : State} (h : Keeps r s) :
    OutKeeps r (execCoreFence a0 a1 s) := by
  unfold execCoreFence
  repeat' first
    | with_reducible assumption
    | with_reducible apply OutKeeps.next
    | (with_reducible first | apply run_keeps | apply askPause_keeps | apply pend_keeps | apply respond_keeps | apply fenceCmd_keeps)
    | split
    | (with_reducible intro _)

theorem inPlace_keeps {r : State} (a0) (a1) (a2) {s : State} (h : Keeps r s) :
    Keeps r (inPlace a0 a1 a2 s) := by
  unfold inPlace
  repeat' first
    | with_reducible assumption
    | (with_reducible first | apply updFw_keeps | apply answered_keeps | apply fwWrite_keeps | apply fwReport_keeps | apply retireArr_keeps | apply readGold_keeps | apply steepArr_keeps | apply emit_keeps | apply arrCmd_keeps)
    | (with_reducible apply Keeps.ite)
    | split
    | (with_reducible apply foldl_keepsAll)
    | dsimp only
    | (with_reducible intro _ _ _)
    | (with_reducible intro _ _)
    | (with_reducible intro _)

theorem execResteepInPlace_keeps {r : State} (a0) (a1) {s : State} (h : Keeps r s) :
    OutKeeps r (execResteepInPlace a0 a1 s) := by
  unfold execResteepInPlace
  repeat' first
    | with_reducible assumption
    | with_reducible apply OutKeeps.next
    | (with_reducible first | apply updFw_keeps | apply each_keepsAll | apply inPlace_keeps | apply resumePart_keeps)
    | split
    | dsimp only

theorem execResteepDeferExpire_keeps {r : State} (a0) {s : State} (h : Keeps r s) :
    OutKeeps r (execResteepDeferExpire a0 s) := by
  unfold execResteepDeferExpire
  repeat' first
    | with_reducible assumption
    | with_reducible apply OutKeeps.next
    | (with_reducible first | apply askPause_keeps | apply moveTo_keeps)
    | split

theorem execResteep_keeps {r : State} (a0) (a1) (a2) {s : State} (h : Keeps r s) :
    OutKeeps r (execResteep a0 a1 a2 s) := by
  unfold execResteep
  repeat' first
    | with_reducible assumption
    | with_reducible apply OutKeeps.next
    | (with_reducible first | apply run_keeps | apply updFw_keeps | apply pend_keeps)
    | (with_reducible intro _)

theorem forgetContent_keeps {r : State} (a0) {s : State} (h : Keeps r s) :
    Keeps r (forgetContent a0 s) := by
  unfold forgetContent
  repeat' first
    | with_reducible assumption
    | with_reducible apply updFw_keeps

theorem roundAnswers_keeps {r : State} (a0) {s : State} (h : Keeps r s) :
    Keeps r (roundAnswers a0 s) := by
  unfold roundAnswers
  repeat' first
    | with_reducible assumption
    | (with_reducible first | apply each_keepsAll | apply answered_keeps)
    | (with_reducible apply Keeps.ite)
    | split
    | (with_reducible apply foldl_keepsAll)
    | dsimp only
    | (with_reducible intro _ _ _)
    | (with_reducible intro _ _)
    | (with_reducible intro _)

theorem fullCal_keeps {r : State} (a0) {s : State} (h : Keeps r s) :
    Keeps r (fullCal a0 s) := by
  unfold fullCal
  repeat' first
    | with_reducible assumption
    | (with_reducible first | apply runCal_keeps | apply catchUp_keeps)
    | (with_reducible apply Keeps.ite)
    | split
    | (with_reducible apply foldl_keepsAll)
    | dsimp only
    | (with_reducible intro _ _ _)
    | (with_reducible intro _ _)
    | (with_reducible intro _)

theorem finishRound_keeps {r : State} (a0) (a1) (a2) {s : State} (h : Keeps r s) :
    Keeps r (finishRound a0 a1 a2 s) := by
  unfold finishRound
  repeat' first
    | with_reducible assumption
    | (with_reducible first | apply loadSched_keeps | apply bindModel_keeps | apply roundAnswers_keeps | apply resumePart_keeps | apply planGate_keeps | apply switchHere_keeps)
    | (with_reducible apply Keeps.ite)
    | split
    | (with_reducible apply foldl_keepsAll)
    | dsimp only
    | (with_reducible intro _ _ _)
    | (with_reducible intro _ _)
    | (with_reducible intro _)

theorem execRoundSwitch_keeps {r : State} (a0) (a1) (a2) (a3) {s : State} (h : Keeps r s) :
    OutKeeps r (execRoundSwitch a0 a1 a2 a3 s) := by
  unfold execRoundSwitch
  repeat' first
    | with_reducible assumption
    | with_reducible apply OutKeeps.next
    | (with_reducible first | apply askPause_keeps | apply emit_keeps | apply enterTable_keeps | apply loadSlots_keeps | apply each_keepsAll | apply forgetContent_keeps | apply finishRound_keeps | apply finishSlots_keeps | apply fullCal_keeps)
    | (with_reducible apply Keeps.ite)
    | split
    | (with_reducible apply foldl_keepsAll)
    | dsimp only
    | (with_reducible intro _ _ _)
    | (with_reducible intro _ _)
    | (with_reducible intro _)

end Sys2Proof.Machine
end

