-- ==== Sys2Proof/Laws/Keeps/Load.lean ====
section
/-! SUPPORT. The effects of Machine/Load.lean keep the queue, the fuses and soundness. -/
namespace Sys2Proof.Machine

theorem admitModel_keeps {r : State} (a0) (a1) (a2) {s : State} (h : Keeps r s) :
    Keeps r (admitModel a0 a1 a2 s) := by
  unfold admitModel
  repeat' first
    | with_reducible assumption
    | (with_reducible first | apply updFw_keeps | apply enterTable_keeps | apply placeGolden_keeps)
    | (with_reducible apply Keeps.ite)
    | split
    | (with_reducible apply foldl_keepsAll)
    | dsimp only
    | (with_reducible intro _ _ _)
    | (with_reducible intro _ _)
    | (with_reducible intro _)

theorem loadChecked_keeps {r : State} (a0) (a1) (a2) (a3) {s : State} (h : Keeps r s) :
    Keeps r (loadChecked a0 a1 a2 a3 s) := by
  unfold loadChecked
  repeat' first
    | with_reducible assumption
    | (with_reducible first | apply pend_keeps | apply respond_keeps | apply dropGolden_keeps | apply admitModel_keeps)
    | (with_reducible apply Keeps.ite)
    | split
    | (with_reducible apply foldl_keepsAll)
    | dsimp only
    | (with_reducible intro _ _ _)
    | (with_reducible intro _ _)
    | (with_reducible intro _)

theorem execModelLoad_keeps {r : State} (a0) (a1) {s : State} (h : Keeps r s) :
    OutKeeps r (execModelLoad a0 a1 s) := by
  unfold execModelLoad
  repeat' first
    | with_reducible assumption
    | with_reducible apply OutKeeps.next
    | (with_reducible first | apply run_keeps | apply respond_keeps | apply stageImage_keeps | apply pend_keeps | apply loadChecked_keeps)
    | (with_reducible apply Keeps.ite)
    | split
    | (with_reducible apply foldl_keepsAll)
    | dsimp only
    | (with_reducible intro _ _ _)
    | (with_reducible intro _ _)
    | (with_reducible intro _)

theorem onModel_keeps {r : State} (a0) (a1) (a2) {a3} {s : State} (h : Keeps r s) (h3 : ∀ x0 x1 t, Keeps r t → Keeps r (a3 x0 x1 t)) :
    Keeps r (onModel a0 a1 a2 a3 s) := by
  unfold onModel
  repeat' first
    | with_reducible assumption
    | (with_reducible first | apply h3 | apply run_keeps | apply respond_keeps)
    | split
    | (with_reducible intro _)

theorem execModelUnload_keeps {r : State} (a0) (a1) {s : State} (h : Keeps r s) :
    OutKeeps r (execModelUnload a0 a1 s) := by
  unfold execModelUnload
  repeat' first
    | with_reducible assumption
    | with_reducible apply OutKeeps.next
    | (with_reducible first | apply onModel_keeps | apply respond_keeps | apply each_keepsAll | apply fwWrite_keeps | apply updFw_keeps | apply when_keepsAll | apply clearGolden_keeps | apply pend_keeps)
    | (with_reducible apply Keeps.ite)
    | split
    | (with_reducible apply foldl_keepsAll)
    | dsimp only
    | (with_reducible intro _ _ _)
    | (with_reducible intro _ _)
    | (with_reducible intro _)

theorem eraseModel_keeps {r : State} (a0) (a1) {s : State} (h : Keeps r s) :
    Keeps r (eraseModel a0 a1 s) := by
  unfold eraseModel
  repeat' first
    | with_reducible assumption
    | (with_reducible first | apply each_keepsAll | apply eraseArr_keeps | apply updFw_keeps)
    | (with_reducible apply Keeps.ite)
    | split
    | (with_reducible apply foldl_keepsAll)
    | dsimp only
    | (with_reducible intro _ _ _)
    | (with_reducible intro _ _)
    | (with_reducible intro _)

theorem execModelList_keeps {r : State} (a0) {s : State} (h : Keeps r s) :
    OutKeeps r (execModelList a0 s) := by
  unfold execModelList
  repeat' first
    | with_reducible assumption
    | with_reducible apply OutKeeps.next
    | (with_reducible first | apply run_keeps | apply respond_keeps)
    | (with_reducible intro _)

theorem execModelSupply_keeps {r : State} (a0) (a1) (a2) (a3) {s : State} (h : Keeps r s) :
    OutKeeps r (execModelSupply a0 a1 a2 a3 s) := by
  unfold execModelSupply
  repeat' first
    | with_reducible assumption
    | with_reducible apply OutKeeps.next
    | (with_reducible first | apply onModel_keeps | apply respond_keeps | apply fetchModel_keeps)
    | split
    | (with_reducible intro _)

theorem execModelDigest_keeps {r : State} (a0) (a1) {s : State} (h : Keeps r s) :
    OutKeeps r (execModelDigest a0 a1 s) := by
  unfold execModelDigest
  repeat' first
    | with_reducible assumption
    | with_reducible apply OutKeeps.next
    | (with_reducible first | apply onModel_keeps | apply goldDigests_keeps | apply respond_keeps)
    | (with_reducible apply Keeps.ite)
    | split
    | (with_reducible apply foldl_keepsAll)
    | dsimp only
    | (with_reducible intro _ _ _)
    | (with_reducible intro _ _)
    | (with_reducible intro _)

theorem keepModel_keeps {r : State} (a0) {s : State} (h : Keeps r s) :
    Keeps r (keepModel a0 s) := by
  unfold keepModel
  repeat' first
    | with_reducible assumption
    | (with_reducible first | apply updFw_keeps)
    | (with_reducible apply Keeps.ite)
    | split
    | (with_reducible apply foldl_keepsAll)
    | dsimp only
    | (with_reducible intro _ _ _)
    | (with_reducible intro _ _)
    | (with_reducible intro _)

theorem endLoad_keeps {r : State} (a0) (a1) (a2) {s : State} (h : Keeps r s) :
    Keeps r (endLoad a0 a1 a2 s) := by
  unfold endLoad
  repeat' first
    | with_reducible assumption
    | (with_reducible first | apply endPend_keeps | apply each_keepsAll | apply assignSlots_keeps | apply calRestore_keeps | apply loadSlots_keeps | apply runCal_keeps | apply bindModel_keeps | apply finishSlots_keeps | apply keepModel_keeps)
    | (with_reducible apply Keeps.ite)
    | split
    | (with_reducible apply foldl_keepsAll)
    | dsimp only
    | (with_reducible intro _ _ _)
    | (with_reducible intro _ _)
    | (with_reducible intro _)

theorem slotNotice_keeps {r : State} (a0) (a1) (a2) (a3) (a4) {s : State} (h : Keeps r s) :
    Keeps r (slotNotice a0 a1 a2 a3 a4 s) := by
  unfold slotNotice
  repeat' first
    | with_reducible assumption
    | (with_reducible first | apply each_keepsAll | apply noticeMembers_keeps | apply sendNotice_keeps | apply putAslot_keeps)
    | (with_reducible apply Keeps.ite)
    | split
    | (with_reducible apply foldl_keepsAll)
    | dsimp only
    | (with_reducible intro _ _ _)
    | (with_reducible intro _ _)
    | (with_reducible intro _)

theorem slotNow_keeps {r : State} (a0) (a1) (a2) (a3) (a4) {s : State} (h : Keeps r s) :
    Keeps r (slotNow a0 a1 a2 a3 a4 s) := by
  unfold slotNow
  repeat' first
    | with_reducible assumption
    | (with_reducible first | apply each_keepsAll | apply noticeMembers_keeps | apply putAslot_keeps)
    | (with_reducible apply Keeps.ite)
    | split
    | (with_reducible apply foldl_keepsAll)
    | dsimp only
    | (with_reducible intro _ _ _)
    | (with_reducible intro _ _)
    | (with_reducible intro _)

theorem putDir_keeps {r : State} (a0) (a1) (a2) {s : State} (h : Keeps r s) :
    Keeps r (putDir a0 a1 a2 s) := by
  unfold putDir
  repeat' first
    | with_reducible assumption
    | (with_reducible first | apply fwWrite_keeps | apply each_keepsAll)
    | (with_reducible apply Keeps.ite)
    | split
    | (with_reducible apply foldl_keepsAll)
    | dsimp only
    | (with_reducible intro _ _ _)
    | (with_reducible intro _ _)
    | (with_reducible intro _)

theorem putRows_keeps {r : State} (f : Nat) (l : List SegIn) {s : State} (h : Keeps r s) : Keeps r (putRows f l s).2 := by
  induction l generalizing s with
  | nil => exact h
  | cons p l ih =>
    unfold putRows
    dsimp only
    have hd := dmaIn_keeps (r := r) f p.addr.toNat p.rows h
    split
    · exact ih hd
    · exact hd

theorem placeAdapter_keeps {r : State} (a0) (a1) (a2) (a3) {s : State} (h : Keeps r s) :
    Keeps r (placeAdapter a0 a1 a2 a3 s).2 := by
  unfold placeAdapter
  repeat' first
    | with_reducible assumption
    | (with_reducible first | apply putRows_keeps | apply putDir_keeps)
    | (with_reducible apply Keeps.ite)
    | split
    | (with_reducible apply foldl_keepsAll)
    | dsimp only
    | (with_reducible intro _ _ _)
    | (with_reducible intro _ _)
    | (with_reducible intro _)

theorem dropAdapter_keeps {r : State} (a0) {s : State} (h : Keeps r s) :
    Keeps r (dropAdapter a0 s) := by
  unfold dropAdapter
  repeat' first
    | with_reducible assumption
    | (with_reducible first | apply each_keepsAll | apply upTo_keepsAll | apply fwWrite_keeps)
    | (with_reducible intro _)

theorem loadingSlot_keeps {r : State} (a0) (a1) (a2) {s : State} (h : Keeps r s) :
    Keeps r (loadingSlot a0 a1 a2 s) := by
  unfold loadingSlot
  repeat' first
    | with_reducible assumption
    | with_reducible apply putAslot_keeps

theorem execAdapterLoad_keeps {r : State} (a0) (a1) (a2) (a3) {s : State} (h : Keeps r s) :
    OutKeeps r (execAdapterLoad a0 a1 a2 a3 s) := by
  unfold execAdapterLoad
  repeat' first
    | with_reducible assumption
    | with_reducible apply OutKeeps.next
    | (with_reducible first | apply run_keeps | apply respond_keeps | apply placeAdapter_keeps | apply pend_keeps | apply slotNotice_keeps | apply loadingSlot_keeps)
    | (with_reducible apply Keeps.ite)
    | split
    | (with_reducible apply foldl_keepsAll)
    | dsimp only
    | (with_reducible intro _ _ _)
    | (with_reducible intro _ _)
    | (with_reducible intro _)

theorem addReplace_keeps {r : State} (a0) {s : State} (h : Keeps r s) :
    Keeps r (addReplace a0 s) := by
  unfold addReplace
  repeat' first
    | (with_reducible refine Keeps.upd ?_ rfl; with_reducible first | assumption | split)

theorem execAdapterReplace_keeps {r : State} (a0) (a1) (a2) (a3) {s : State} (h : Keeps r s) :
    OutKeeps r (execAdapterReplace a0 a1 a2 a3 s) := by
  unfold execAdapterReplace
  repeat' first
    | with_reducible assumption
    | with_reducible apply OutKeeps.next
    | (with_reducible first | apply run_keeps | apply respond_keeps | apply pend_keeps | apply placeAdapter_keeps | apply addReplace_keeps | apply slotNotice_keeps | apply loadingSlot_keeps)
    | (with_reducible apply Keeps.ite)
    | split
    | (with_reducible apply foldl_keepsAll)
    | dsimp only
    | (with_reducible intro _ _ _)
    | (with_reducible intro _ _)
    | (with_reducible intro _)

theorem execAdapterUnload_keeps {r : State} (a0) (a1) {s : State} (h : Keeps r s) :
    OutKeeps r (execAdapterUnload a0 a1 s) := by
  unfold execAdapterUnload
  repeat' first
    | with_reducible assumption
    | with_reducible apply OutKeeps.next
    | (with_reducible first | apply run_keeps | apply respond_keeps | apply pend_keeps | apply addReplace_keeps | apply slotNotice_keeps)
    | split
    | (with_reducible intro _)

theorem execAdapterList_keeps {r : State} (a0) {s : State} (h : Keeps r s) :
    OutKeeps r (execAdapterList a0 s) := by
  unfold execAdapterList
  repeat' first
    | with_reducible assumption
    | with_reducible apply OutKeeps.next
    | (with_reducible first | apply run_keeps | apply respond_keeps)
    | (with_reducible intro _)

theorem endWaiting_keeps {r : State} (a0) (a1) {s : State} (h : Keeps r s) :
    Keeps r (endWaiting a0 a1 s) := by
  unfold endWaiting
  repeat' first
    | with_reducible assumption
    | (with_reducible first | apply each_keepsAll | apply updSrv_keeps | apply sendNotice_keeps)
    | (with_reducible intro _)

theorem failReplace_keeps {r : State} (a0) (a1) {s : State} (h : Keeps r s) :
    Keeps r (failReplace a0 a1 s) := by
  unfold failReplace
  repeat' first
    | with_reducible assumption
    | (with_reducible first | apply each_keepsAll | apply endPend_keeps)
    | (with_reducible apply Keeps.ite)
    | split
    | (with_reducible apply foldl_keepsAll)
    | dsimp only
    | (with_reducible intro _ _ _)
    | (with_reducible intro _ _)
    | (with_reducible intro _)

theorem finishReplace_keeps {r : State} (a0) {s : State} (h : Keeps r s) :
    Keeps r (finishReplace a0 s) := by
  unfold finishReplace
  repeat' first
    | with_reducible assumption
    | (with_reducible first | apply slotNow_keeps | apply dropAdapter_keeps | apply upTo_keepsAll | apply endWaiting_keeps | apply placeAdapter_keeps | apply failReplace_keeps)
    | (with_reducible apply Keeps.ite)
    | split
    | (with_reducible apply foldl_keepsAll)
    | dsimp only
    | (with_reducible intro _ _ _)
    | (with_reducible intro _ _)
    | (with_reducible intro _)
    | (with_reducible refine Keeps.upd ?_ rfl; with_reducible first | assumption | apply slotNow_keeps | apply dropAdapter_keeps | apply upTo_keepsAll | apply endWaiting_keeps | apply placeAdapter_keeps | apply failReplace_keeps | split)

theorem execAdapterSlotFree_keeps {r : State} (a0) {s : State} (h : Keeps r s) :
    OutKeeps r (execAdapterSlotFree a0 s) := by
  unfold execAdapterSlotFree
  repeat' first
    | with_reducible assumption
    | with_reducible apply OutKeeps.next
    | with_reducible apply finishReplace_keeps
    | split
    | dsimp only

end Sys2Proof.Machine
end

