-- ==== Sys2Proof/Laws/Keeps/Thermal.lean ====
section
/-! SUPPORT. The effects of Machine/Thermal.lean keep the queue, the fuses and soundness. -/
namespace Sys2Proof.Machine

theorem showHalves_keeps {r : State} {s : State} (h : Keeps r s) :
    Keeps r (showHalves s) := by
  unfold showHalves
  repeat' first
    | with_reducible assumption
    | (with_reducible first | apply setB_keeps | apply when_keepsAll | apply emit_keeps)

theorem shutDown_keeps {r : State} (a0) (a1) {s : State} (h : Keeps r s) :
    Keeps r (shutDown a0 a1 s) := by
  unfold shutDown
  repeat' first
    | with_reducible assumption
    | (with_reducible first | apply raise_keeps | apply when_keepsAll | apply setB_keeps | apply set_keeps)
    | split

theorem flagTo_keeps {r : State} (a0) (a1) (a2) (a3) {s : State} (h : Keeps r s) :
    Keeps r (flagTo a0 a1 a2 a3 s) := by
  unfold flagTo
  repeat' first
    | with_reducible assumption
    | (with_reducible first | apply bump_keeps | apply setB_keeps)
    | split

theorem refreshRate_keeps {r : State} (a0) (a1) {s : State} (h : Keeps r s) :
    Keeps r (refreshRate a0 a1 s) := by
  unfold refreshRate
  repeat' first
    | with_reducible assumption
    | with_reducible apply updThm_keeps
    | split

theorem noteExc_keeps {r : State} (a0) (a1) {s : State} (h : Keeps r s) :
    Keeps r (noteExc a0 a1 s) := by
  unfold noteExc
  repeat' first
    | with_reducible assumption
    | (with_reducible first | apply updCore_keeps)
    | (with_reducible apply Keeps.ite)
    | split
    | (with_reducible apply foldl_keepsAll)
    | dsimp only
    | (with_reducible intro _ _ _)
    | (with_reducible intro _ _)
    | (with_reducible intro _)

theorem calSample_keeps {r : State} (a0) (a1) {s : State} (h : Keeps r s) :
    Keeps r (calSample a0 a1 s) := by
  unfold calSample
  repeat' first
    | with_reducible assumption
    | (with_reducible first | apply noteExc_keeps | apply updPhys_keeps | apply set_keeps | apply when_keepsAll | apply trigger_keeps)
    | (with_reducible apply Keeps.ite)
    | split
    | (with_reducible apply foldl_keepsAll)
    | dsimp only
    | (with_reducible intro _ _ _)
    | (with_reducible intro _ _)
    | (with_reducible intro _)

theorem validSample_keeps {r : State} (a0) (a1) {s : State} (h : Keeps r s) :
    Keeps r (validSample a0 a1 s) := by
  unfold validSample
  repeat' first
    | with_reducible assumption
    | (with_reducible first | apply showHalves_keeps | apply when_keepsAll | apply calSample_keeps | apply refreshRate_keeps | apply flagTo_keeps | apply set_keeps | apply updThm_keeps | apply setB_keeps | apply shutDown_keeps)
    | (with_reducible intro _)

theorem invalidSample_keeps {r : State} (a0) {s : State} (h : Keeps r s) :
    Keeps r (invalidSample a0 s) := by
  unfold invalidSample
  repeat' first
    | with_reducible assumption
    | (with_reducible first | apply setB_keeps | apply bump_keeps | apply raise_keeps)
    | split

theorem execSensorSample_keeps {r : State} (a0) (a1) (a2) {s : State} (h : Keeps r s) :
    OutKeeps r (execSensorSample a0 a1 a2 s) := by
  unfold execSensorSample
  repeat' first
    | with_reducible assumption
    | with_reducible apply OutKeeps.next
    | (with_reducible first | apply bump_keeps | apply validSample_keeps | apply invalidSample_keeps)
    | split

theorem execSensorMissingTimeout_keeps {r : State} (a0) {s : State} (h : Keeps r s) :
    OutKeeps r (execSensorMissingTimeout a0 s) := by
  unfold execSensorMissingTimeout
  repeat' first
    | with_reducible assumption
    | with_reducible apply OutKeeps.next
    | (with_reducible first | apply moveTo_keeps | apply showHalves_keeps | apply emit_keeps | apply setB_keeps | apply shutDown_keeps)
    | split

theorem execWarningChange_keeps {r : State} (a0) (a1) {s : State} (h : Keeps r s) :
    OutKeeps r (execWarningChange a0 a1 s) := by
  unfold execWarningChange
  repeat' first
    | with_reducible assumption
    | with_reducible apply OutKeeps.next
    | (with_reducible first | apply notify_keeps | apply updThm_keeps)
    | split
    | dsimp only

theorem execThmCtlWrite_keeps {r : State} (a0) (a1) {s : State} (h : Keeps r s) :
    OutKeeps r (execThmCtlWrite a0 a1 s) := by
  unfold execThmCtlWrite
  repeat' first
    | with_reducible assumption
    | with_reducible apply OutKeeps.next
    | (with_reducible first | apply denied_keeps | apply set_keeps | apply bump_keeps)
    | split
    | dsimp only

theorem execTelCtlWrite_keeps {r : State} (a0) (a1) (a2) {s : State} (h : Keeps r s) :
    OutKeeps r (execTelCtlWrite a0 a1 a2 s) := by
  unfold execTelCtlWrite
  repeat' first
    | with_reducible assumption
    | with_reducible apply OutKeeps.next
    | (with_reducible first | apply denied_keeps | apply set_keeps | apply telStart_keeps)
    | split

theorem telCheck_keeps {r : State} (a0) (a1) {s : State} (h : Keeps r s) :
    Keeps r (telCheck a0 a1 s) := by
  unfold telCheck
  repeat' first
    | with_reducible assumption
    | (with_reducible first | apply emit_keeps | apply bump_keeps | apply when_keepsAll | apply hwSet_keeps | apply failStart_keeps)
    | (with_reducible apply Keeps.ite)
    | split
    | (with_reducible apply foldl_keepsAll)
    | dsimp only
    | (with_reducible intro _ _ _)
    | (with_reducible intro _ _)
    | (with_reducible intro _)

theorem execTelConversionEnd_keeps {r : State} (a0) (a1) {s : State} (h : Keeps r s) :
    OutKeeps r (execTelConversionEnd a0 a1 s) := by
  unfold execTelConversionEnd
  repeat' first
    | with_reducible assumption
    | with_reducible apply OutKeeps.next
    | (with_reducible first | apply when_keepsAll | apply bump_keeps | apply set_keeps | apply setB_keeps | apply telCheck_keeps | apply telStart_keeps)
    | split

end Sys2Proof.Machine
end

