-- ==== Sys2Proof/Laws/Keeps/Query.lean ====
section
/-! SUPPORT. The effects of Machine/Query.lean keep the queue, the fuses and soundness. -/
namespace Sys2Proof.Machine

theorem execGetInfo_keeps {r : State} (a0) {s : State} (h : Keeps r s) :
    OutKeeps r (execGetInfo a0 s) := by
  unfold execGetInfo
  repeat' first
    | with_reducible assumption
    | with_reducible apply OutKeeps.next
    | (with_reducible first | apply run_keeps | apply respond_keeps)
    | (with_reducible intro _)

theorem execGetCert_keeps {r : State} (a0) {s : State} (h : Keeps r s) :
    OutKeeps r (execGetCert a0 s) := by
  unfold execGetCert
  repeat' first
    | with_reducible assumption
    | with_reducible apply OutKeeps.next
    | (with_reducible first | apply run_keeps | apply respondBuf_keeps)
    | (with_reducible apply Keeps.ite)
    | split
    | (with_reducible apply foldl_keepsAll)
    | dsimp only
    | (with_reducible intro _ _ _)
    | (with_reducible intro _ _)
    | (with_reducible intro _)

theorem execGetLog_keeps {r : State} (a0) (a1) {s : State} (h : Keeps r s) :
    OutKeeps r (execGetLog a0 a1 s) := by
  unfold execGetLog
  repeat' first
    | with_reducible assumption
    | with_reducible apply OutKeeps.next
    | (with_reducible first | apply run_keeps | apply respondBuf_keeps)
    | (with_reducible apply Keeps.ite)
    | split
    | (with_reducible apply foldl_keepsAll)
    | dsimp only
    | (with_reducible intro _ _ _)
    | (with_reducible intro _ _)
    | (with_reducible intro _)

theorem execRqCreate_keeps {r : State} (a0) (a1) (a2) (a3) (a4) {s : State} (h : Keeps r s) :
    OutKeeps r (execRqCreate a0 a1 a2 a3 a4 s) := by
  unfold execRqCreate
  repeat' first
    | with_reducible apply OutKeeps.next
    | (with_reducible first | apply run_keeps | apply respond_keeps)
    | (with_reducible intro _)
    | (with_reducible refine Keeps.upd ?_ rfl; with_reducible first | assumption | apply run_keeps | apply respond_keeps | split)

theorem execOqCreate_keeps {r : State} (a0) (a1) (a2) (a3) (a4) (a5) (a6) (a7) (a8) {s : State} (h : Keeps r s) :
    OutKeeps r (execOqCreate a0 a1 a2 a3 a4 a5 a6 a7 a8 s) := by
  unfold execOqCreate
  repeat' first
    | with_reducible assumption
    | with_reducible apply OutKeeps.next
    | (with_reducible first | apply run_keeps | apply respond_keeps | apply updPage_keeps)
    | (with_reducible apply Keeps.ite)
    | split
    | (with_reducible apply foldl_keepsAll)
    | dsimp only
    | (with_reducible intro _ _ _)
    | (with_reducible intro _ _)
    | (with_reducible intro _)
    | (with_reducible refine Keeps.upd ?_ rfl; with_reducible first | assumption | apply run_keeps | apply respond_keeps | apply updPage_keeps | split)

theorem execRingDestroy_keeps {r : State} (a0) (a1) (a2) {s : State} (h : Keeps r s) :
    OutKeeps r (execRingDestroy a0 a1 a2 s) := by
  unfold execRingDestroy
  repeat' first
    | with_reducible apply OutKeeps.next
    | (with_reducible first | apply run_keeps | apply respond_keeps)
    | (with_reducible intro _)
    | (with_reducible refine Keeps.upd ?_ rfl; with_reducible first | assumption | apply run_keeps | apply respond_keeps | split)

theorem execAccountSet_keeps {r : State} (a0) (a1) (a2) (a3) (a4) (a5) {s : State} (h : Keeps r s) :
    OutKeeps r (execAccountSet a0 a1 a2 a3 a4 a5 s) := by
  unfold execAccountSet
  repeat' first
    | with_reducible assumption
    | with_reducible apply OutKeeps.next
    | (with_reducible first | apply run_keeps | apply okActive_keeps | apply fwWrite_keeps)
    | (with_reducible intro _)

theorem execClassSet_keeps {r : State} (a0) (a1) (a2) (a3) {s : State} (h : Keeps r s) :
    OutKeeps r (execClassSet a0 a1 a2 a3 s) := by
  unfold execClassSet
  repeat' first
    | with_reducible assumption
    | with_reducible apply OutKeeps.next
    | (with_reducible first | apply run_keeps | apply okActive_keeps | apply fwWrite_keeps)
    | (with_reducible intro _)

theorem execStopsetSet_keeps {r : State} (a0) (a1) (a2) {s : State} (h : Keeps r s) :
    OutKeeps r (execStopsetSet a0 a1 a2 s) := by
  unfold execStopsetSet
  repeat' first
    | with_reducible assumption
    | with_reducible apply OutKeeps.next
    | (with_reducible first | apply run_keeps | apply okActive_keeps | apply each_keepsAll | apply fwWrite_keeps)
    | (with_reducible intro _)

theorem execReqQuery_keeps {r : State} (a0) (a1) {s : State} (h : Keeps r s) :
    OutKeeps r (execReqQuery a0 a1 s) := by
  unfold execReqQuery
  repeat' first
    | with_reducible assumption
    | with_reducible apply OutKeeps.next
    | (with_reducible first | apply run_keeps | apply respond_keeps)
    | (with_reducible intro _)

theorem execCalSave_keeps {r : State} (a0) (a1) (a2) {s : State} (h : Keeps r s) :
    OutKeeps r (execCalSave a0 a1 a2 s) := by
  unfold execCalSave
  repeat' first
    | with_reducible assumption
    | with_reducible apply OutKeeps.next
    | (with_reducible first | apply run_keeps | apply respondBuf_keeps)
    | (with_reducible apply Keeps.ite)
    | split
    | (with_reducible apply foldl_keepsAll)
    | dsimp only
    | (with_reducible intro _ _ _)
    | (with_reducible intro _ _)
    | (with_reducible intro _)

theorem execCalRestore_keeps {r : State} (a0) (a1) (a2) (a3) (a4) {s : State} (h : Keeps r s) :
    OutKeeps r (execCalRestore a0 a1 a2 a3 a4 s) := by
  unfold execCalRestore
  repeat' first
    | with_reducible assumption
    | with_reducible apply OutKeeps.next
    | (with_reducible first | apply run_keeps | apply respond_keeps | apply fromBuffer_keeps | apply catchUp_keeps | apply calKeep_keeps)
    | (with_reducible apply Keeps.ite)
    | split
    | (with_reducible apply foldl_keepsAll)
    | dsimp only
    | (with_reducible intro _ _ _)
    | (with_reducible intro _ _)
    | (with_reducible intro _)
    | (with_reducible refine Keeps.updMem ?_ ?_ rfl; rotate_left; (rw [Mems.wf_iff, Mems.wf_iff]; rintro ⟨h1, h2, h3, h4, h5, h6, h7, h8, h9⟩; refine ⟨?_, ?_, ?_, ?_, ?_, ?_, ?_, ?_, ?_⟩ <;> repeat' (with_reducible first | assumption | exact SMap.wf_nil | exact NSet.wf_nil | apply SMap.wf_cond | apply NSet.wf_cond | apply wf_wrBytes | apply SMap.wf_put | apply SMap.wf_del | apply SMap.wf_erase | apply SMap.wf_filter | apply NSet.wf_add | apply NSet.wf_erase | apply NSet.wf_del | apply NSet.wf_filter | apply NSet.wf_foldl_add | apply SMap.wf_foldl_put | split)))
    | (with_reducible refine Keeps.upd ?_ rfl; with_reducible first | assumption | apply run_keeps | apply respond_keeps | apply fromBuffer_keeps | apply catchUp_keeps | apply calKeep_keeps | split)

theorem execCalMeasure_keeps {r : State} (a0) (a1) (a2) {s : State} (h : Keeps r s) :
    OutKeeps r (execCalMeasure a0 a1 a2 s) := by
  unfold execCalMeasure
  repeat' first
    | with_reducible assumption
    | with_reducible apply OutKeeps.next
    | (with_reducible first | apply run_keeps | apply respond_keeps | apply calFull_keeps | apply pend_keeps)
    | (with_reducible apply Keeps.ite)
    | (with_reducible intro _)

theorem execCalConfig_keeps {r : State} (a0) (a1) (a2) (a3) (a4) (a5) {s : State} (h : Keeps r s) :
    OutKeeps r (execCalConfig a0 a1 a2 a3 a4 a5 s) := by
  unfold execCalConfig
  repeat' first
    | with_reducible assumption
    | with_reducible apply OutKeeps.next
    | (with_reducible first | apply run_keeps | apply respond_keeps | apply okActive_keeps | apply calWrite_keeps | apply set_keeps)
    | split
    | (with_reducible intro _)

theorem snapBlock_keeps {r : State} (a0) {s : State} (h : Keeps r s) :
    Keeps r (snapBlock a0 s).2 := by
  unfold snapBlock
  repeat' first
    | with_reducible assumption
    | (with_reducible first | apply denied_keeps | apply takeSnap_keeps)
    | split

theorem snapBlocks_keeps {r : State} (l : List Nat) {s : State} (h : Keeps r s) : Keeps r (snapBlocks l s).2 := by
  induction l generalizing s with
  | nil => exact h
  | cons x l ih => exact ih (snapBlock_keeps _ h)

theorem execTelSnapshot_keeps {r : State} (a0) (a1) {s : State} (h : Keeps r s) :
    OutKeeps r (execTelSnapshot a0 a1 s) := by
  unfold execTelSnapshot
  repeat' first
    | with_reducible assumption
    | with_reducible apply OutKeeps.next
    | (with_reducible first | apply run_keeps | apply snapBlocks_keeps | apply respondBuf_keeps)
    | (with_reducible apply Keeps.ite)
    | split
    | (with_reducible apply foldl_keepsAll)
    | dsimp only
    | (with_reducible intro _ _ _)
    | (with_reducible intro _ _)
    | (with_reducible intro _)

theorem execEnduranceGet_keeps {r : State} (a0) (a1) {s : State} (h : Keeps r s) :
    OutKeeps r (execEnduranceGet a0 a1 s) := by
  unfold execEnduranceGet
  repeat' first
    | with_reducible assumption
    | with_reducible apply OutKeeps.next
    | (with_reducible first | apply run_keeps | apply respond_keeps)
    | (with_reducible intro _)

theorem execThermalGet_keeps {r : State} (a0) {s : State} (h : Keeps r s) :
    OutKeeps r (execThermalGet a0 s) := by
  unfold execThermalGet
  repeat' first
    | with_reducible assumption
    | with_reducible apply OutKeeps.next
    | (with_reducible first | apply run_keeps | apply respond_keeps)
    | (with_reducible intro _)

theorem execTelStream_keeps {r : State} (a0) (a1) (a2) (a3) (a4) {s : State} (h : Keeps r s) :
    OutKeeps r (execTelStream a0 a1 a2 a3 a4 s) := by
  unfold execTelStream
  repeat' first
    | with_reducible assumption
    | with_reducible apply OutKeeps.next
    | (with_reducible first | apply run_keeps | apply respond_keeps | apply updFw_keeps)
    | (with_reducible intro _)

theorem execTelStreamInterval_keeps {r : State} {s : State} (h : Keeps r s) :
    OutKeeps r (execTelStreamInterval s) := by
  unfold execTelStreamInterval
  repeat' first
    | with_reducible assumption
    | with_reducible apply OutKeeps.next
    | (with_reducible first | apply snapBlocks_keeps | apply moveTo_keeps | apply updFw_keeps | apply dmaOut_keeps)
    | split
    | dsimp only

theorem execFaultList_keeps {r : State} (a0) {s : State} (h : Keeps r s) :
    OutKeeps r (execFaultList a0 s) := by
  unfold execFaultList
  repeat' first
    | with_reducible assumption
    | with_reducible apply OutKeeps.next
    | (with_reducible first | apply run_keeps | apply respond_keeps)
    | (with_reducible intro _)

theorem execFaultAck_keeps {r : State} (a0) (a1) {s : State} (h : Keeps r s) :
    OutKeeps r (execFaultAck a0 a1 s) := by
  unfold execFaultAck
  repeat' first
    | with_reducible assumption
    | with_reducible apply OutKeeps.next
    | (with_reducible first | apply run_keeps | apply respond_keeps | apply ackAll_keeps)
    | (with_reducible intro _)

theorem execDigestCfg_keeps {r : State} (a0) (a1) {s : State} (h : Keeps r s) :
    OutKeeps r (execDigestCfg a0 a1 s) := by
  unfold execDigestCfg
  repeat' first
    | with_reducible assumption
    | with_reducible apply OutKeeps.next
    | (with_reducible first | apply run_keeps | apply respond_keeps | apply updFw_keeps)
    | (with_reducible intro _)

end Sys2Proof.Machine
end

