-- ==== Sys2Proof/Laws/Keeps/LifeCycle.lean ====
section
/-! SUPPORT. The effects of Machine/LifeCycle.lean keep the queue, the fuses and soundness. -/
namespace Sys2Proof.Machine

theorem newChallenge_keeps {r : State} (a0) (a1) (a2) {s : State} (h : Keeps r s) :
    Keeps r (newChallenge a0 a1 a2 s) := by
  unfold newChallenge
  repeat' first
    | with_reducible assumption
    | (with_reducible first | apply when_keepsAll | apply set_keeps)

theorem lcChange_keeps {r : State} (a0) {s : State} (h : Keeps r s) :
    Keeps r (lcChange a0 s) := by
  unfold lcChange
  repeat' first
    | with_reducible assumption
    | (with_reducible first | apply updFw_keeps | apply set_keeps | apply setB_keeps)

theorem execLcSet_keeps {r : State} (a0) (a1) (a2) (a3) {s : State} (h : Keeps r s) :
    OutKeeps r (execLcSet a0 a1 a2 a3 s) := by
  unfold execLcSet
  repeat' first
    | with_reducible assumption
    | with_reducible apply OutKeeps.next
    | (with_reducible first | apply newChallenge_keeps | apply run_keeps | apply respond_keeps | apply updBoot_keeps | apply updFw_keeps | apply startWarm_keeps | apply showStart_keeps | apply lcChange_keeps | apply pend_keeps)
    | (with_reducible apply Keeps.ite)
    | split
    | (with_reducible apply foldl_keepsAll)
    | dsimp only
    | (with_reducible intro _ _ _)
    | (with_reducible intro _ _)
    | (with_reducible intro _)

theorem endLifeCycle_keeps {r : State} (a0) (a1) (a2) {s : State} (h : Keeps r s) :
    Keeps r (endLifeCycle a0 a1 a2 s) := by
  unfold endLifeCycle
  repeat' first
    | with_reducible assumption
    | (with_reducible first | apply updBoot_keeps | apply lcChange_keeps | apply lcErase_keeps | apply updFw_keeps | apply startWarm_keeps | apply endPend_keeps)
    | (with_reducible apply Keeps.ite)
    | split
    | (with_reducible apply foldl_keepsAll)
    | dsimp only
    | (with_reducible intro _ _ _)
    | (with_reducible intro _ _)
    | (with_reducible intro _)

theorem execOwnershipInstall_keeps {r : State} (a0) (a1) (a2) (a3) {s : State} (h : Keeps r s) :
    OutKeeps r (execOwnershipInstall a0 a1 a2 a3 s) := by
  unfold execOwnershipInstall
  repeat' first
    | with_reducible assumption
    | with_reducible apply OutKeeps.next
    | (with_reducible first | apply newChallenge_keeps | apply run_keeps | apply respond_keeps | apply set_keeps | apply updFw_keeps)
    | split
    | dsimp only
    | (with_reducible intro _)

theorem execLcGet_keeps {r : State} (a0) {s : State} (h : Keeps r s) :
    OutKeeps r (execLcGet a0 s) := by
  unfold execLcGet
  repeat' first
    | with_reducible assumption
    | with_reducible apply OutKeeps.next
    | (with_reducible first | apply run_keeps | apply respond_keeps)
    | (with_reducible intro _)

theorem execMgmtSessionHandshake_keeps {r : State} (a0) {s : State} (h : Keeps r s) :
    OutKeeps r (execMgmtSessionHandshake a0 s) := by
  unfold execMgmtSessionHandshake
  repeat' first
    | with_reducible assumption
    | with_reducible apply OutKeeps.next
    | with_reducible apply updFw_keeps
    | split
    | dsimp only

theorem execFwStage_keeps {r : State} (a0) (a1) (a2) (a3) {s : State} (h : Keeps r s) :
    OutKeeps r (execFwStage a0 a1 a2 a3 s) := by
  unfold execFwStage
  repeat' first
    | with_reducible assumption
    | with_reducible apply OutKeeps.next
    | (with_reducible first | apply run_keeps | apply pend_keeps | apply fromBuffer_keeps | apply updBoot_keeps)
    | (with_reducible apply Keeps.ite)
    | split
    | (with_reducible apply foldl_keepsAll)
    | dsimp only
    | (with_reducible intro _ _ _)
    | (with_reducible intro _ _)
    | (with_reducible intro _)

theorem endStage_keeps {r : State} (a0) (a1) {s : State} (h : Keeps r s) :
    Keeps r (endStage a0 a1 s) := by
  unfold endStage
  repeat' first
    | with_reducible assumption
    | (with_reducible first | apply endPend_keeps | apply updBoot_keeps)
    | (with_reducible apply Keeps.ite)
    | split
    | (with_reducible apply foldl_keepsAll)
    | dsimp only
    | (with_reducible intro _ _ _)
    | (with_reducible intro _ _)
    | (with_reducible intro _)

theorem execFwStatus_keeps {r : State} (a0) {s : State} (h : Keeps r s) :
    OutKeeps r (execFwStatus a0 s) := by
  unfold execFwStatus
  repeat' first
    | with_reducible assumption
    | with_reducible apply OutKeeps.next
    | (with_reducible first | apply run_keeps | apply respond_keeps)
    | (with_reducible intro _)

theorem execFirmwareRestartEnd_keeps {r : State} (a0) {s : State} (h : Keeps r s) :
    OutKeeps r (execFirmwareRestartEnd a0 s) := by
  unfold execFirmwareRestartEnd
  repeat' first
    | with_reducible assumption
    | with_reducible apply OutKeeps.next
    | (with_reducible first | apply updFw_keeps | apply set_keeps | apply fwUp_keeps)
    | split

theorem execShutdown_keeps {r : State} (a0) {s : State} (h : Keeps r s) :
    OutKeeps r (execShutdown a0 s) := by
  unfold execShutdown
  repeat' first
    | with_reducible apply OutKeeps.next
    | (with_reducible first | apply run_keeps | apply respond_keeps | apply updBoot_keeps | apply computeReset_keeps | apply netReset_keeps | apply upTo_keepsAll | apply setP_keeps | apply dropLink_keeps | apply updFw_keeps | apply each_keepsAll | apply setCoreState_keeps | apply pend_keeps | apply set_keeps)
    | (with_reducible intro _)
    | (with_reducible refine Keeps.upd ?_ rfl; with_reducible first | assumption | apply run_keeps | apply respond_keeps | apply updBoot_keeps | apply computeReset_keeps | apply netReset_keeps | apply upTo_keepsAll | apply setP_keeps | apply dropLink_keeps | apply updFw_keeps | apply each_keepsAll | apply setCoreState_keeps | apply pend_keeps | apply set_keeps | split)

theorem execBistResult_keeps {r : State} (a0) {s : State} (h : Keeps r s) :
    OutKeeps r (execBistResult a0 s) := by
  unfold execBistResult
  repeat' first
    | with_reducible assumption
    | with_reducible apply OutKeeps.next
    | (with_reducible first | apply run_keeps | apply respond_keeps)
    | (with_reducible intro _)

theorem applyScope_keeps {r : State} (a0) {s : State} (h : Keeps r s) :
    Keeps r (applyScope a0 s) := by
  unfold applyScope
  repeat' first
    | with_reducible assumption
    | (with_reducible first | apply startReset_keeps | apply bump_keeps | apply resetCluster_keeps | apply startWarm_keeps)
    | split

theorem execReset_keeps {r : State} (a0) (a1) {s : State} (h : Keeps r s) :
    OutKeeps r (execReset a0 a1 s) := by
  unfold execReset
  repeat' first
    | with_reducible assumption
    | with_reducible apply OutKeeps.next
    | (with_reducible first | apply run_keeps | apply respond_keeps | apply applyScope_keeps)
    | split
    | (with_reducible intro _)

theorem endFence_keeps {r : State} (a0) (a1) (a2) {s : State} (h : Keeps r s) :
    Keeps r (endFence a0 a1 a2 s) := by
  unfold endFence
  repeat' first
    | with_reducible assumption
    | (with_reducible first | apply fenceCmd_keeps | apply endPend_keeps | apply resumePart_keeps | apply replaceCore_keeps | apply fwReport_keeps)
    | split

theorem finishAct_keeps {r : State} (a0) (a1) {s : State} (h : Keeps r s) :
    Keeps r (finishAct a0 a1 s) := by
  unfold finishAct
  repeat' first
    | with_reducible assumption
    | (with_reducible first | apply endPend_keeps | apply endLoad_keeps | apply when_keepsAll | apply eraseModel_keeps | apply endFence_keeps | apply calKeep_keeps | apply endLifeCycle_keeps | apply endStage_keeps)
    | (with_reducible apply Keeps.ite)
    | split
    | (with_reducible apply foldl_keepsAll)
    | dsimp only
    | (with_reducible intro _ _ _)
    | (with_reducible intro _ _)
    | (with_reducible intro _)
    | (with_reducible refine Keeps.upd ?_ rfl; with_reducible first | assumption | apply endPend_keeps | apply endLoad_keeps | apply when_keepsAll | apply eraseModel_keeps | apply endFence_keeps | apply calKeep_keeps | apply endLifeCycle_keeps | apply endStage_keeps | split)

theorem giveUp_keeps {r : State} (a0) {s : State} (h : Keeps r s) :
    Keeps r (giveUp a0 s) := by
  unfold giveUp
  repeat' first
    | with_reducible assumption
    | with_reducible apply dropJournal_keeps
    | split

theorem complete_keeps {r : State} (a0) (a1) {s : State} (h : Keeps r s) :
    Keeps r (complete a0 a1 s) := by
  unfold complete
  repeat' first
    | with_reducible assumption
    | (with_reducible first | apply endPend_keeps | apply finishAct_keeps | apply giveUp_keeps)
    | split

theorem completeSeq_keeps {r : State} (a0) (a1) (a2) {s : State} (h : Keeps r s) :
    Keeps r (completeSeq a0 a1 a2 s) := by
  unfold completeSeq
  repeat' first
    | with_reducible assumption
    | with_reducible apply complete_keeps
    | split

theorem execPendingComplete_keeps {r : State} (a0) (a1) (a2) {s : State} (h : Keeps r s) :
    OutKeeps r (execPendingComplete a0 a1 a2 s) := by
  unfold execPendingComplete
  repeat' first
    | with_reducible assumption
    | with_reducible apply OutKeeps.next
    | with_reducible apply completeSeq_keeps
    | split

theorem execFwActivate_keeps {r : State} (a0) (a1) {s : State} (h : Keeps r s) :
    OutKeeps r (execFwActivate a0 a1 s) := by
  unfold execFwActivate
  repeat' first
    | with_reducible assumption
    | with_reducible apply OutKeeps.next
    | (with_reducible first | apply run_keeps | apply respond_keeps | apply setB_keeps | apply each_keepsAll | apply completeSeq_keeps | apply endPend_keeps | apply coldReset_keeps | apply updBoot_keeps | apply set_keeps)
    | split
    | (with_reducible intro _)

end Sys2Proof.Machine
end

