-- ==== Sys2Proof/Laws/Keeps/Reply.lean ====
section
/-! SUPPORT. The effects of Machine/Reply.lean keep the queue, the fuses and soundness. -/
namespace Sys2Proof.Machine

theorem lineToCore_keeps {r : State} (a0) (a1) (a2) (a3) (a4) (a5) {s : State} (h : Keeps r s) :
    Keeps r (lineToCore a0 a1 a2 a3 a4 a5 s) := by
  unfold lineToCore
  repeat' first
    | with_reducible assumption
    | (with_reducible first | apply when_keepsAll | apply bump_keeps | apply opDone_keeps | apply writeRow_keeps | apply scoreLine_keeps)
    | split

theorem bankOffNotice_keeps {r : State} (a0) (a1) {s : State} (h : Keeps r s) :
    Keeps r (bankOffNotice a0 a1 s) := by
  unfold bankOffNotice
  repeat' first
    | with_reducible assumption
    | (with_reducible first | apply notify_keeps)
    | (with_reducible apply Keeps.ite)
    | split
    | (with_reducible apply foldl_keepsAll)
    | dsimp only
    | (with_reducible intro _ _ _)
    | (with_reducible intro _ _)
    | (with_reducible intro _)

theorem ackToCore_keeps {r : State} (a0) (a1) (a2) (a3) {s : State} (h : Keeps r s) :
    Keeps r (ackToCore a0 a1 a2 a3 s) := by
  unfold ackToCore
  repeat' first
    | with_reducible assumption
    | (with_reducible first | apply opDone_keeps | apply when_keepsAll | apply bankOffNotice_keeps | apply updCore_keeps | apply bump_keeps)
    | (with_reducible apply Keeps.ite)
    | split
    | (with_reducible apply foldl_keepsAll)
    | dsimp only
    | (with_reducible intro _ _ _)
    | (with_reducible intro _ _)
    | (with_reducible intro _)
    | dsimp only [Function.comp_apply]

theorem lineToPort_keeps {r : State} (a0) (a1) (a2) (a3) (a4) {s : State} (h : Keeps r s) :
    Keeps r (lineToPort a0 a1 a2 a3 a4 s) := by
  unfold lineToPort
  repeat' first
    | with_reducible assumption
    | (with_reducible first | apply when_keepsAll | apply bump_keeps | apply sendBack_keeps)

theorem ackToPort_keeps {r : State} (a0) (a1) (a2) {s : State} (h : Keeps r s) :
    Keeps r (ackToPort a0 a1 a2 s) := by
  unfold ackToPort
  repeat' first
    | with_reducible assumption
    | (with_reducible first | apply askNack_keeps | apply when_keepsAll | apply bump_keeps)
    | split

theorem freeTag_keeps {r : State} (c : Nat) (l : List Packet) {s : State} (h : Keeps r s) : Keeps r (freeTag c l s) := by
  induction l generalizing s with
  | nil => exact updCore_keeps _ _ h
  | cons p l ih =>
    unfold freeTag
    dsimp only
    generalize hs : updCore c (fun k => { k with tagWait := l }) s = s1
    have h1 : Keeps r s1 := hs ▸ updCore_keeps _ _ h
    split
    · split
      · exact inject_keeps _ h1
      · exact ih (lineToCore_keeps _ _ _ _ _ _ (freeBytes_keeps _ (regionRej_keeps _ h1)))
    · exact inject_keeps _ h1

theorem giveLine_keeps {r : State} (a0) (a1) (a2) (a3) {s : State} (h : Keeps r s) :
    Keeps r (giveLine a0 a1 a2 a3 s) := by
  unfold giveLine
  repeat' first
    | with_reducible assumption
    | (with_reducible first | apply bump_keeps | apply freeTag_keeps | apply lineToCore_keeps | apply lineToPort_keeps)
    | (with_reducible apply Keeps.ite)
    | split
    | (with_reducible apply foldl_keepsAll)
    | dsimp only
    | (with_reducible intro _ _ _)
    | (with_reducible intro _ _)
    | (with_reducible intro _)

theorem giveAck_keeps {r : State} (a0) (a1) (a2) {s : State} (h : Keeps r s) :
    Keeps r (giveAck a0 a1 a2 s) := by
  unfold giveAck
  repeat' first
    | with_reducible assumption
    | (with_reducible first | apply bump_keeps | apply ackToCore_keeps | apply ackToPort_keeps)
    | (with_reducible apply Keeps.ite)
    | split
    | (with_reducible apply foldl_keepsAll)
    | dsimp only
    | (with_reducible intro _ _ _)
    | (with_reducible intro _ _)
    | (with_reducible intro _)

theorem goOn_keeps {r : State} (c : Nat) (u : CUnit) {run : Nat → Nat → State → State} (n : Nat) {s : State} (h : Keeps r s)
    (hr : ∀ a b t, Keeps r t → Keeps r (run a b t)) : Keeps r (goOn c u run n s) := by
  induction n generalizing s with
  | zero => exact h
  | succ n ih =>
    unfold goOn
    split
    · exact ih (hr _ _ _ (dropOp_keeps _ _ h))
    · exact h

theorem unitsGoOn_keeps {r : State} (a0) {s : State} (h : Keeps r s) :
    Keeps r (unitsGoOn a0 s) := by
  unfold unitsGoOn
  repeat' first
    | with_reducible assumption
    | (with_reducible first | apply goOn_keeps | apply runAttn_keeps | apply runMove_keeps)
    | (with_reducible apply Keeps.ite)
    | split
    | (with_reducible apply foldl_keepsAll)
    | dsimp only
    | (with_reducible intro _ _ _)
    | (with_reducible intro _ _)
    | (with_reducible intro _)

theorem execStackReply_keeps {r : State} (a0) {s : State} (h : Keeps r s) :
    OutKeeps r (execStackReply a0 s) := by
  unfold execStackReply
  repeat' first
    | with_reducible assumption
    | with_reducible apply OutKeeps.next
    | (with_reducible first | apply unitsGoOn_keeps | apply each_keepsAll | apply giveLine_keeps | apply giveAck_keeps)
    | (with_reducible apply Keeps.ite)
    | split
    | (with_reducible apply foldl_keepsAll)
    | dsimp only
    | (with_reducible intro _ _ _)
    | (with_reducible intro _ _)
    | (with_reducible intro _)
    | (with_reducible refine Keeps.upd ?_ rfl; with_reducible first | assumption | apply unitsGoOn_keeps | apply each_keepsAll | apply giveLine_keeps | apply giveAck_keeps | split)

end Sys2Proof.Machine
end

