-- ==== Sys2Proof/Laws/Keeps/Arms.lean ====
section
/-! SUPPORT. Each command keeps the queue, the fuses and soundness. -/
namespace Sys2Proof.Machine

theorem exec_registerWrite_keeps (a) (pg) (addr) (wide) (v) (s : State) : OutKeeps s (exec (.registerWrite a pg addr wide v) s) := (exec_registerWrite a pg addr wide v s).symm ▸ execRegisterWrite_keeps _ _ _ _ _ (Keeps.refl s)
theorem exec_registerReadLatch_keeps (a) (pg) (addr) (wide) (s : State) : OutKeeps s (exec (.registerReadLatch a pg addr wide) s) := (exec_registerReadLatch a pg addr wide s).symm ▸ execRegisterReadLatch_keeps _ _ _ _ (Keeps.refl s)
theorem exec_snapTake_keeps (a) (addr) (clear) (s : State) : OutKeeps s (exec (.snapTake a addr clear) s) := (exec_snapTake a addr clear s).symm ▸ execSnapTake_keeps _ _ _ (Keeps.refl s)
theorem exec_tickBoundary_keeps (moe) (s : State) : OutKeeps s (exec (.tickBoundary moe) s) := (exec_tickBoundary moe s).symm ▸ execTickBoundary_keeps _ (Keeps.refl s)
theorem exec_caddyTtlExpire_keeps (e) (s : State) : OutKeeps s (exec (.caddyTtlExpire e) s) := (exec_caddyTtlExpire e s).symm ▸ execCaddyTtlExpire_keeps _ (Keeps.refl s)
theorem exec_guardBandStart_keeps (s : State) : OutKeeps s (exec (.guardBandStart) s) := (exec_guardBandStart s).symm ▸ execGuardBandStart_keeps (Keeps.refl s)
theorem exec_fire_keeps (issue) (s : State) : OutKeeps s (exec (.fire issue) s) := (exec_fire issue s).symm ▸ execFire_keeps _ (Keeps.refl s)
theorem exec_inputLoad_keeps (c) (slot) (s : State) : OutKeeps s (exec (.inputLoad c slot) s) := (exec_inputLoad c slot s).symm ▸ execInputLoad_keeps _ _ (Keeps.refl s)
theorem exec_firingStart_keeps (c) (slot) (s : State) : OutKeeps s (exec (.firingStart c slot) s) := (exec_firingStart c slot s).symm ▸ execFiringStart_keeps _ _ (Keeps.refl s)
theorem exec_firingHandoff_keeps (c) (slot) (s : State) : OutKeeps s (exec (.firingHandoff c slot) s) := (exec_firingHandoff c slot s).symm ▸ execFiringHandoff_keeps _ _ (Keeps.refl s)
theorem exec_proofGoldLine_keeps (c) (second) (issue) (s : State) : OutKeeps s (exec (.proofGoldLine c second issue) s) := (exec_proofGoldLine c second issue s).symm ▸ execProofGoldLine_keeps _ _ _ (Keeps.refl s)
theorem exec_proofStart_keeps (c) (s : State) : OutKeeps s (exec (.proofStart c) s) := (exec_proofStart c s).symm ▸ execProofStart_keeps _ (Keeps.refl s)
theorem exec_proofComplete_keeps (c) (s : State) : OutKeeps s (exec (.proofComplete c) s) := (exec_proofComplete c s).symm ▸ execProofComplete_keeps _ (Keeps.refl s)
theorem exec_verified_keeps (c) (n) (slot) (fmt) (s : State) : OutKeeps s (exec (.verified c n slot fmt) s) := (exec_verified c n slot fmt s).symm ▸ execVerified_keeps _ _ _ _ (Keeps.refl s)
theorem exec_retire_keeps (c) (n) (slot) (fmt) (s : State) : OutKeeps s (exec (.retire c n slot fmt) s) := (exec_retire c n slot fmt s).symm ▸ execRetire_keeps _ _ _ _ (Keeps.refl s)
theorem exec_arrEmpty_keeps (c) (n) (slot) (fmt) (s : State) : OutKeeps s (exec (.arrEmpty c n slot fmt) s) := (exec_arrEmpty c n slot fmt s).symm ▸ execArrEmpty_keeps _ _ _ _ (Keeps.refl s)
theorem exec_clearSuspect_keeps (c) (n) (slot) (fmt) (s : State) : OutKeeps s (exec (.clearSuspect c n slot fmt) s) := (exec_clearSuspect c n slot fmt s).symm ▸ execClearSuspect_keeps _ _ _ _ (Keeps.refl s)
theorem exec_arrTrimWrite_keeps (a) (c) (n) (gain) (v) (s : State) : OutKeeps s (exec (.arrTrimWrite a c n gain v) s) := (exec_arrTrimWrite a c n gain v s).symm ▸ execArrTrimWrite_keeps _ _ _ _ _ (Keeps.refl s)
theorem exec_quant_keeps (issue) (s : State) : OutKeeps s (exec (.quant issue) s) := (exec_quant issue s).symm ▸ execQuant_keeps _ (Keeps.refl s)
theorem exec_promote_keeps (issue) (s : State) : OutKeeps s (exec (.promote issue) s) := (exec_promote issue s).symm ▸ execPromote_keeps _ (Keeps.refl s)
theorem exec_emit_keeps (issue) (s : State) : OutKeeps s (exec (.emit issue) s) := (exec_emit issue s).symm ▸ execEmit_keeps _ (Keeps.refl s)
theorem exec_accClear_keeps (issue) (s : State) : OutKeeps s (exec (.accClear issue) s) := (exec_accClear issue s).symm ▸ execAccClear_keeps _ (Keeps.refl s)
theorem exec_leavenWindowEnd_keeps (c) (s : State) : OutKeeps s (exec (.leavenWindowEnd c) s) := (exec_leavenWindowEnd c s).symm ▸ execLeavenWindowEnd_keeps _ (Keeps.refl s)
theorem exec_leavenCtlWrite_keeps (c) (v) (s : State) : OutKeeps s (exec (.leavenCtlWrite c v) s) := (exec_leavenCtlWrite c v s).symm ▸ execLeavenCtlWrite_keeps _ _ (Keeps.refl s)
theorem exec_fmaxClear_keeps (c) (n) (s : State) : OutKeeps s (exec (.fmaxClear c n) s) := (exec_fmaxClear c n s).symm ▸ execFmaxClear_keeps _ _ (Keeps.refl s)
theorem exec_fallbackReport_keeps (n) (m) (w) (layers) (wide) (s : State) : OutKeeps s (exec (.fallbackReport n m w layers wide) s) := (exec_fallbackReport n m w layers wide s).symm ▸ execFallbackReport_keeps _ _ _ _ _ (Keeps.refl s)
theorem exec_calFull_keeps (c) (set) (target) (s : State) : OutKeeps s (exec (.calFull c set target) s) := (exec_calFull c set target s).symm ▸ execCalFull_keeps _ _ _ (Keeps.refl s)
theorem exec_calArray_keeps (c) (n) (set) (target) (s : State) : OutKeeps s (exec (.calArray c n set target) s) := (exec_calArray c n set target s).symm ▸ execCalArray_keeps _ _ _ _ (Keeps.refl s)
theorem exec_interpNow_keeps (c) (s : State) : OutKeeps s (exec (.interpNow c) s) := (exec_interpNow c s).symm ▸ execInterpNow_keeps _ (Keeps.refl s)
theorem exec_clearCorr_keeps (c) (n) (all) (s : State) : OutKeeps s (exec (.clearCorr c n all) s) := (exec_clearCorr c n all s).symm ▸ execClearCorr_keeps _ _ _ (Keeps.refl s)
theorem exec_clearStats_keeps (c) (n) (all) (s : State) : OutKeeps s (exec (.clearStats c n all) s) := (exec_clearStats c n all s).symm ▸ execClearStats_keeps _ _ _ (Keeps.refl s)
theorem exec_calCmdDone_keeps (c) (s : State) : OutKeeps s (exec (.calCmdDone c) s) := (exec_calCmdDone c s).symm ▸ execCalCmdDone_keeps _ (Keeps.refl s)
theorem exec_calInterpEnable_keeps (c) (s : State) : OutKeeps s (exec (.calInterpEnable c) s) := (exec_calInterpEnable c s).symm ▸ execCalInterpEnable_keeps _ (Keeps.refl s)
theorem exec_calPassStart_keeps (c) (s : State) : OutKeeps s (exec (.calPassStart c) s) := (exec_calPassStart c s).symm ▸ execCalPassStart_keeps _ (Keeps.refl s)
theorem exec_calPassEnd_keeps (c) (s : State) : OutKeeps s (exec (.calPassEnd c) s) := (exec_calPassEnd c s).symm ▸ execCalPassEnd_keeps _ (Keeps.refl s)
theorem exec_calMonitorPeriodEnd_keeps (c) (s : State) : OutKeeps s (exec (.calMonitorPeriodEnd c) s) := (exec_calMonitorPeriodEnd c s).symm ▸ execCalMonitorPeriodEnd_keeps _ (Keeps.refl s)
theorem exec_calStoreWrite_keeps (a) (c) (w) (v) (s : State) : OutKeeps s (exec (.calStoreWrite a c w v) s) := (exec_calStoreWrite a c w v s).symm ▸ execCalStoreWrite_keeps _ _ _ _ (Keeps.refl s)
theorem exec_steepGo_keeps (c) (count) (s : State) : OutKeeps s (exec (.steepGo c count) s) := (exec_steepGo c count s).symm ▸ execSteepGo_keeps _ _ (Keeps.refl s)
theorem exec_batchStart_keeps (c) (s : State) : OutKeeps s (exec (.batchStart c) s) := (exec_batchStart c s).symm ▸ execBatchStart_keeps _ (Keeps.refl s)
theorem exec_steepBatchEnd_keeps (c) (fail) (s : State) : OutKeeps s (exec (.steepBatchEnd c fail) s) := (exec_steepBatchEnd c fail s).symm ▸ execSteepBatchEnd_keeps _ _ (Keeps.refl s)
theorem exec_eraseBatchEnd_keeps (c) (fail) (s : State) : OutKeeps s (exec (.eraseBatchEnd c fail) s) := (exec_eraseBatchEnd c fail s).symm ▸ execEraseBatchEnd_keeps _ _ (Keeps.refl s)
theorem exec_readbackBatchEnd_keeps (c) (intr) (s : State) : OutKeeps s (exec (.readbackBatchEnd c intr) s) := (exec_readbackBatchEnd c intr s).symm ▸ execReadbackBatchEnd_keeps _ _ (Keeps.refl s)
theorem exec_readbackTimeout_keeps (c) (s : State) : OutKeeps s (exec (.readbackTimeout c) s) := (exec_readbackTimeout c s).symm ▸ execReadbackTimeout_keeps _ (Keeps.refl s)
theorem exec_resteepRotation_keeps (c) (failed) (s : State) : OutKeeps s (exec (.resteepRotation c failed) s) := (exec_resteepRotation c failed s).symm ▸ execResteepRotation_keeps _ _ (Keeps.refl s)
theorem exec_resteepInPlace_keeps (c) (failed) (s : State) : OutKeeps s (exec (.resteepInPlace c failed) s) := (exec_resteepInPlace c failed s).symm ▸ execResteepInPlace_keeps _ _ (Keeps.refl s)
theorem exec_resteepDeferExpire_keeps (c) (s : State) : OutKeeps s (exec (.resteepDeferExpire c) s) := (exec_resteepDeferExpire c s).symm ▸ execResteepDeferExpire_keeps _ (Keeps.refl s)
theorem exec_roundSwitch_keeps (n) (h) (x) (failed) (s : State) : OutKeeps s (exec (.roundSwitch n h x failed) s) := (exec_roundSwitch n h x failed s).symm ▸ execRoundSwitch_keeps _ _ _ _ (Keeps.refl s)
theorem exec_goldenRestore_keeps (h) (x) (failed) (s : State) : OutKeeps s (exec (.goldenRestore h x failed) s) := (exec_goldenRestore h x failed s).symm ▸ execGoldenRestore_keeps _ _ _ (Keeps.refl s)
theorem exec_goldenRefetch_keeps (h) (issue) (x) (s : State) : OutKeeps s (exec (.goldenRefetch h issue x) s) := (exec_goldenRefetch h issue x s).symm ▸ execGoldenRefetch_keeps _ _ _ (Keeps.refl s)
theorem exec_imageSourceRetry_keeps (h) (x) (failed) (s : State) : OutKeeps s (exec (.imageSourceRetry h x failed) s) := (exec_imageSourceRetry h x failed s).symm ▸ execImageSourceRetry_keeps _ _ _ (Keeps.refl s)
theorem exec_endOp_keeps (issue) (s : State) : OutKeeps s (exec (.endOp issue) s) := (exec_endOp issue s).symm ▸ execEndOp_keeps _ (Keeps.refl s)
theorem exec_illegalInstruction_keeps (issue) (s : State) : OutKeeps s (exec (.illegalInstruction issue) s) := (exec_illegalInstruction issue s).symm ▸ execIllegalInstruction_keeps _ (Keeps.refl s)
theorem exec_add_keeps (issue) (s : State) : OutKeeps s (exec (.add issue) s) := (exec_add issue s).symm ▸ execAdd_keeps _ (Keeps.refl s)
theorem exec_sub_keeps (issue) (s : State) : OutKeeps s (exec (.sub issue) s) := (exec_sub issue s).symm ▸ execSub_keeps _ (Keeps.refl s)
theorem exec_mul_keeps (issue) (s : State) : OutKeeps s (exec (.mul issue) s) := (exec_mul issue s).symm ▸ execMul_keeps _ (Keeps.refl s)
theorem exec_fma_keeps (issue) (s : State) : OutKeeps s (exec (.fma issue) s) := (exec_fma issue s).symm ▸ execFma_keeps _ (Keeps.refl s)
theorem exec_scale_keeps (issue) (s : State) : OutKeeps s (exec (.scale issue) s) := (exec_scale issue s).symm ▸ execScale_keeps _ (Keeps.refl s)
theorem exec_maxOp_keeps (issue) (s : State) : OutKeeps s (exec (.maxOp issue) s) := (exec_maxOp issue s).symm ▸ execMaxOp_keeps _ (Keeps.refl s)
theorem exec_act_keeps (issue) (s : State) : OutKeeps s (exec (.act issue) s) := (exec_act issue s).symm ▸ execAct_keeps _ (Keeps.refl s)
theorem exec_norm_keeps (issue) (s : State) : OutKeeps s (exec (.norm issue) s) := (exec_norm issue s).symm ▸ execNorm_keeps _ (Keeps.refl s)
theorem exec_softmax_keeps (issue) (s : State) : OutKeeps s (exec (.softmax issue) s) := (exec_softmax issue s).symm ▸ execSoftmax_keeps _ (Keeps.refl s)
theorem exec_topk_keeps (issue) (s : State) : OutKeeps s (exec (.topk issue) s) := (exec_topk issue s).symm ▸ execTopk_keeps _ (Keeps.refl s)
theorem exec_sample_keeps (issue) (s : State) : OutKeeps s (exec (.sample issue) s) := (exec_sample issue s).symm ▸ execSample_keeps _ (Keeps.refl s)
theorem exec_copy_keeps (issue) (s : State) : OutKeeps s (exec (.copy issue) s) := (exec_copy issue s).symm ▸ execCopy_keeps _ (Keeps.refl s)
theorem exec_send_keeps (issue) (s : State) : OutKeeps s (exec (.send issue) s) := (exec_send issue s).symm ▸ execSend_keeps _ (Keeps.refl s)
theorem exec_load_keeps (issue) (s : State) : OutKeeps s (exec (.load issue) s) := (exec_load issue s).symm ▸ execLoad_keeps _ (Keeps.refl s)
theorem exec_store_keeps (issue) (s : State) : OutKeeps s (exec (.store issue) s) := (exec_store issue s).symm ▸ execStore_keeps _ (Keeps.refl s)
theorem exec_gather_keeps (issue) (s : State) : OutKeeps s (exec (.gather issue) s) := (exec_gather issue s).symm ▸ execGather_keeps _ (Keeps.refl s)
theorem exec_winOpen_keeps (issue) (s : State) : OutKeeps s (exec (.winOpen issue) s) := (exec_winOpen issue s).symm ▸ execWinOpen_keeps _ (Keeps.refl s)
theorem exec_winSeal_keeps (issue) (s : State) : OutKeeps s (exec (.winSeal issue) s) := (exec_winSeal issue s).symm ▸ execWinSeal_keeps _ (Keeps.refl s)
theorem exec_winClose_keeps (issue) (s : State) : OutKeeps s (exec (.winClose issue) s) := (exec_winClose issue s).symm ▸ execWinClose_keeps _ (Keeps.refl s)
theorem exec_waitEvt_keeps (issue) (s : State) : OutKeeps s (exec (.waitEvt issue) s) := (exec_waitEvt issue s).symm ▸ execWaitEvt_keeps _ (Keeps.refl s)
theorem exec_waitWin_keeps (issue) (s : State) : OutKeeps s (exec (.waitWin issue) s) := (exec_waitWin issue s).symm ▸ execWaitWin_keeps _ (Keeps.refl s)
theorem exec_waitDeadline_keeps (issue) (s : State) : OutKeeps s (exec (.waitDeadline issue) s) := (exec_waitDeadline issue s).symm ▸ execWaitDeadline_keeps _ (Keeps.refl s)
theorem exec_append_keeps (issue) (s : State) : OutKeeps s (exec (.append issue) s) := (exec_append issue s).symm ▸ execAppend_keeps _ (Keeps.refl s)
theorem exec_score_keeps (issue) (s : State) : OutKeeps s (exec (.score issue) s) := (exec_score issue s).symm ▸ execScore_keeps _ (Keeps.refl s)
theorem exec_combine_keeps (issue) (s : State) : OutKeeps s (exec (.combine issue) s) := (exec_combine issue s).symm ▸ execCombine_keeps _ (Keeps.refl s)
theorem exec_adptDown_keeps (issue) (s : State) : OutKeeps s (exec (.adptDown issue) s) := (exec_adptDown issue s).symm ▸ execAdptDown_keeps _ (Keeps.refl s)
theorem exec_adptUp_keeps (issue) (s : State) : OutKeeps s (exec (.adptUp issue) s) := (exec_adptUp issue s).symm ▸ execAdptUp_keeps _ (Keeps.refl s)
theorem exec_windowWriteLanding_keeps (c) (s : State) : OutKeeps s (exec (.windowWriteLanding c) s) := (exec_windowWriteLanding c s).symm ▸ execWindowWriteLanding_keeps _ (Keeps.refl s)
theorem exec_nackReceived_keeps (c) (s : State) : OutKeeps s (exec (.nackReceived c) s) := (exec_nackReceived c s).symm ▸ execNackReceived_keeps _ (Keeps.refl s)
theorem exec_corePowerOn_keeps (c) (s : State) : OutKeeps s (exec (.corePowerOn c) s) := (exec_corePowerOn c s).symm ▸ execCorePowerOn_keeps _ (Keeps.refl s)
theorem exec_corePowerOff_keeps (c) (s : State) : OutKeeps s (exec (.corePowerOff c) s) := (exec_corePowerOff c s).symm ▸ execCorePowerOff_keeps _ (Keeps.refl s)
theorem exec_coreCmdReset_keeps (c) (s : State) : OutKeeps s (exec (.coreCmdReset c) s) := (exec_coreCmdReset c s).symm ▸ execCoreCmdReset_keeps _ (Keeps.refl s)
theorem exec_fence_keeps (c) (s : State) : OutKeeps s (exec (.fence c) s) := (exec_fence c s).symm ▸ execFence_keeps _ (Keeps.refl s)
theorem exec_run_keeps (c) (s : State) : OutKeeps s (exec (.run c) s) := (exec_run c s).symm ▸ execRun_keeps _ (Keeps.refl s)
theorem exec_stop_keeps (c) (s : State) : OutKeeps s (exec (.stop c) s) := (exec_stop c s).symm ▸ execStop_keeps _ (Keeps.refl s)
theorem exec_corePowerRampStart_keeps (c) (s : State) : OutKeeps s (exec (.corePowerRampStart c) s) := (exec_corePowerRampStart c s).symm ▸ execCorePowerRampStart_keeps _ (Keeps.refl s)
theorem exec_corePowerRampEnd_keeps (c) (s : State) : OutKeeps s (exec (.corePowerRampEnd c) s) := (exec_corePowerRampEnd c s).symm ▸ execCorePowerRampEnd_keeps _ (Keeps.refl s)
theorem exec_resetDrainDone_keeps (c) (s : State) : OutKeeps s (exec (.resetDrainDone c) s) := (exec_resetDrainDone c s).symm ▸ execResetDrainDone_keeps _ (Keeps.refl s)
theorem exec_drainTimeout_keeps (c) (s : State) : OutKeeps s (exec (.drainTimeout c) s) := (exec_drainTimeout c s).symm ▸ execDrainTimeout_keeps _ (Keeps.refl s)
theorem exec_coreResetEnd_keeps (c) (s : State) : OutKeeps s (exec (.coreResetEnd c) s) := (exec_coreResetEnd c s).symm ▸ execCoreResetEnd_keeps _ (Keeps.refl s)
theorem exec_microcodeMulticast_keeps (c) (version) (ok) (s : State) : OutKeeps s (exec (.microcodeMulticast c version ok) s) := (exec_microcodeMulticast c version ok s).symm ▸ execMicrocodeMulticast_keeps _ _ _ (Keeps.refl s)
theorem exec_stepRowLanding_keeps (s : State) : OutKeeps s (exec (.stepRowLanding) s) := (exec_stepRowLanding s).symm ▸ execStepRowLanding_keeps (Keeps.refl s)
theorem exec_syncMarkerTimer_keeps (s : State) : OutKeeps s (exec (.syncMarkerTimer) s) := (exec_syncMarkerTimer s).symm ▸ execSyncMarkerTimer_keeps (Keeps.refl s)
theorem exec_syncReceived_keeps (p) (s : State) : OutKeeps s (exec (.syncReceived p) s) := (exec_syncReceived p s).symm ▸ execSyncReceived_keeps _ (Keeps.refl s)
theorem exec_delayReqReceived_keeps (p) (s : State) : OutKeeps s (exec (.delayReqReceived p) s) := (exec_delayReqReceived p s).symm ▸ execDelayReqReceived_keeps _ (Keeps.refl s)
theorem exec_delayRespReceived_keeps (p) (s : State) : OutKeeps s (exec (.delayRespReceived p) s) := (exec_delayRespReceived p s).symm ▸ execDelayRespReceived_keeps _ (Keeps.refl s)
theorem exec_parentLossTimeout_keeps (s : State) : OutKeeps s (exec (.parentLossTimeout) s) := (exec_parentLossTimeout s).symm ▸ execParentLossTimeout_keeps (Keeps.refl s)
theorem exec_holdoverExpire_keeps (s : State) : OutKeeps s (exec (.holdoverExpire) s) := (exec_holdoverExpire s).symm ▸ execHoldoverExpire_keeps (Keeps.refl s)
theorem exec_standbyRootTakeover_keeps (s : State) : OutKeeps s (exec (.standbyRootTakeover) s) := (exec_standbyRootTakeover s).symm ▸ execStandbyRootTakeover_keeps (Keeps.refl s)
theorem exec_gateHold_keeps (s : State) : OutKeeps s (exec (.gateHold) s) := (exec_gateHold s).symm ▸ execGateHold_keeps (Keeps.refl s)
theorem exec_gateRelease_keeps (s : State) : OutKeeps s (exec (.gateRelease) s) := (exec_gateRelease s).symm ▸ execGateRelease_keeps (Keeps.refl s)
theorem exec_gateAbort_keeps (s : State) : OutKeeps s (exec (.gateAbort) s) := (exec_gateAbort s).symm ▸ execGateAbort_keeps (Keeps.refl s)
theorem exec_overrunWindowEnd_keeps (n) (s : State) : OutKeeps s (exec (.overrunWindowEnd n) s) := (exec_overrunWindowEnd n s).symm ▸ execOverrunWindowEnd_keeps _ (Keeps.refl s)
theorem exec_switchNotice_keeps (n) (k) (scale) (thr) (s : State) : OutKeeps s (exec (.switchNotice n k scale thr) s) := (exec_switchNotice n k scale thr s).symm ▸ execSwitchNotice_keeps _ _ _ _ (Keeps.refl s)
theorem exec_meshEnable_keeps (c) (s : State) : OutKeeps s (exec (.meshEnable c) s) := (exec_meshEnable c s).symm ▸ execMeshEnable_keeps _ (Keeps.refl s)
theorem exec_flitForward_keeps (c) (vc) (esc) (e) (s : State) : OutKeeps s (exec (.flitForward c vc esc e) s) := (exec_flitForward c vc esc e s).symm ▸ execFlitForward_keeps _ _ _ _ (Keeps.refl s)
theorem exec_stackRead_keeps (n) (ch) (e) (k) (s : State) : OutKeeps s (exec (.stackRead n ch e k) s) := (exec_stackRead n ch e k s).symm ▸ execStackRead_keeps _ _ _ _ (Keeps.refl s)
theorem exec_stackWrite_keeps (n) (ch) (e) (k) (s : State) : OutKeeps s (exec (.stackWrite n ch e k) s) := (exec_stackWrite n ch e k s).symm ▸ execStackWrite_keeps _ _ _ _ (Keeps.refl s)
theorem exec_stackReply_keeps (node) (s : State) : OutKeeps s (exec (.stackReply node) s) := (exec_stackReply node s).symm ▸ execStackReply_keeps _ (Keeps.refl s)
theorem exec_mergeWindowClose_keeps (n) (ch) (s : State) : OutKeeps s (exec (.mergeWindowClose n ch) s) := (exec_mergeWindowClose n ch s).symm ▸ execMergeWindowClose_keeps _ _ (Keeps.refl s)
theorem exec_scrubRead_keeps (n) (e) (k) (s : State) : OutKeeps s (exec (.scrubRead n e k) s) := (exec_scrubRead n e k s).symm ▸ execScrubRead_keeps _ _ _ (Keeps.refl s)
theorem exec_bankDown_keeps (n) (b) (s : State) : OutKeeps s (exec (.bankDown n b) s) := (exec_bankDown n b s).symm ▸ execBankDown_keeps _ _ (Keeps.refl s)
theorem exec_bankUp_keeps (n) (b) (s : State) : OutKeeps s (exec (.bankUp n b) s) := (exec_bankUp n b s).symm ▸ execBankUp_keeps _ _ (Keeps.refl s)
theorem exec_bankDrainEnd_keeps (n) (s : State) : OutKeeps s (exec (.bankDrainEnd n) s) := (exec_bankDrainEnd n s).symm ▸ execBankDrainEnd_keeps _ (Keeps.refl s)
theorem exec_bankWakeEnd_keeps (n) (s : State) : OutKeeps s (exec (.bankWakeEnd n) s) := (exec_bankWakeEnd n s).symm ▸ execBankWakeEnd_keeps _ (Keeps.refl s)
theorem exec_portEnable_keeps (p) (s : State) : OutKeeps s (exec (.portEnable p) s) := (exec_portEnable p s).symm ▸ execPortEnable_keeps _ (Keeps.refl s)
theorem exec_portTrainingDone_keeps (p) (skew) (s : State) : OutKeeps s (exec (.portTrainingDone p skew) s) := (exec_portTrainingDone p skew s).symm ▸ execPortTrainingDone_keeps _ _ (Keeps.refl s)
theorem exec_portMissingTimeout_keeps (p) (s : State) : OutKeeps s (exec (.portMissingTimeout p) s) := (exec_portMissingTimeout p s).symm ▸ execPortMissingTimeout_keeps _ (Keeps.refl s)
theorem exec_portTrainFailTimeout_keeps (p) (s : State) : OutKeeps s (exec (.portTrainFailTimeout p) s) := (exec_portTrainFailTimeout p s).symm ▸ execPortTrainFailTimeout_keeps _ (Keeps.refl s)
theorem exec_portSignalDetect_keeps (p) (s : State) : OutKeeps s (exec (.portSignalDetect p) s) := (exec_portSignalDetect p s).symm ▸ execPortSignalDetect_keeps _ (Keeps.refl s)
theorem exec_portAdmit_keeps (p) (s : State) : OutKeeps s (exec (.portAdmit p) s) := (exec_portAdmit p s).symm ▸ execPortAdmit_keeps _ (Keeps.refl s)
theorem exec_portQuarantine_keeps (p) (s : State) : OutKeeps s (exec (.portQuarantine p) s) := (exec_portQuarantine p s).symm ▸ execPortQuarantine_keeps _ (Keeps.refl s)
theorem exec_portRetrain_keeps (p) (s : State) : OutKeeps s (exec (.portRetrain p) s) := (exec_portRetrain p s).symm ▸ execPortRetrain_keeps _ (Keeps.refl s)
theorem exec_portDisable_keeps (p) (s : State) : OutKeeps s (exec (.portDisable p) s) := (exec_portDisable p s).symm ▸ execPortDisable_keeps _ (Keeps.refl s)
theorem exec_portMissing_keeps (p) (s : State) : OutKeeps s (exec (.portMissing p) s) := (exec_portMissing p s).symm ▸ execPortMissing_keeps _ (Keeps.refl s)
theorem exec_cellReceive_keeps (p) (b) (s : State) : OutKeeps s (exec (.cellReceive p b) s) := (exec_cellReceive p b s).symm ▸ execCellReceive_keeps _ _ (Keeps.refl s)
theorem exec_cellIngressExit_keeps (p) (pool) (s : State) : OutKeeps s (exec (.cellIngressExit p pool) s) := (exec_cellIngressExit p pool s).symm ▸ execCellIngressExit_keeps _ _ (Keeps.refl s)
theorem exec_egressBlock_keeps (p) (s : State) : OutKeeps s (exec (.egressBlock p) s) := (exec_egressBlock p s).symm ▸ execEgressBlock_keeps _ (Keeps.refl s)
theorem exec_retrainDone_keeps (p) (s : State) : OutKeeps s (exec (.retrainDone p) s) := (exec_retrainDone p s).symm ▸ execRetrainDone_keeps _ (Keeps.refl s)
theorem exec_linkDown_keeps (p) (s : State) : OutKeeps s (exec (.linkDown p) s) := (exec_linkDown p s).symm ▸ execLinkDown_keeps _ (Keeps.refl s)
theorem exec_fecIntervalEnd_keeps (p) (s : State) : OutKeeps s (exec (.fecIntervalEnd p) s) := (exec_fecIntervalEnd p s).symm ▸ execFecIntervalEnd_keeps _ (Keeps.refl s)
theorem exec_quarWindowEnd_keeps (p) (s : State) : OutKeeps s (exec (.quarWindowEnd p) s) := (exec_quarWindowEnd p s).symm ▸ execQuarWindowEnd_keeps _ (Keeps.refl s)
theorem exec_authCell_keeps (p) (m) (s : State) : OutKeeps s (exec (.authCell p m) s) := (exec_authCell p m s).symm ▸ execAuthCell_keeps _ _ (Keeps.refl s)
theorem exec_admissionTimeout_keeps (p) (s : State) : OutKeeps s (exec (.admissionTimeout p) s) := (exec_admissionTimeout p s).symm ▸ execAdmissionTimeout_keeps _ (Keeps.refl s)
theorem exec_discoveryEnd_keeps (s : State) : OutKeeps s (exec (.discoveryEnd) s) := (exec_discoveryEnd s).symm ▸ execDiscoveryEnd_keeps (Keeps.refl s)
theorem exec_missingReport_keeps (m) (plus) (s : State) : OutKeeps s (exec (.missingReport m plus) s) := (exec_missingReport m plus s).symm ▸ execMissingReport_keeps _ _ (Keeps.refl s)
theorem exec_portStateFlood_keeps (a) (p) (st) (s : State) : OutKeeps s (exec (.portStateFlood a p st) s) := (exec_portStateFlood a p st s).symm ▸ execPortStateFlood_keeps _ _ _ (Keeps.refl s)
theorem exec_routeInstall_keeps (s : State) : OutKeeps s (exec (.routeInstall) s) := (exec_routeInstall s).symm ▸ execRouteInstall_keeps (Keeps.refl s)
theorem exec_windowAck_keeps (n) (s : State) : OutKeeps s (exec (.windowAck n) s) := (exec_windowAck n s).symm ▸ execWindowAck_keeps _ (Keeps.refl s)
theorem exec_coordinatorSilent_keeps (n) (reach) (s : State) : OutKeeps s (exec (.coordinatorSilent n reach) s) := (exec_coordinatorSilent n reach s).symm ▸ execCoordinatorSilent_keeps _ _ (Keeps.refl s)
theorem exec_readyReport_keeps (n) (m) (s : State) : OutKeeps s (exec (.readyReport n m) s) := (exec_readyReport n m s).symm ▸ execReadyReport_keeps _ _ (Keeps.refl s)
theorem exec_partitionStartNotice_keeps (n) (k) (s : State) : OutKeeps s (exec (.partitionStartNotice n k) s) := (exec_partitionStartNotice n k s).symm ▸ execPartitionStartNotice_keeps _ _ (Keeps.refl s)
theorem exec_partitionRunWrite_keeps (n) (s : State) : OutKeeps s (exec (.partitionRunWrite n) s) := (exec_partitionRunWrite n s).symm ▸ execPartitionRunWrite_keeps _ (Keeps.refl s)
theorem exec_partitionResetNotice_keeps (n) (k) (s : State) : OutKeeps s (exec (.partitionResetNotice n k) s) := (exec_partitionResetNotice n k s).symm ▸ execPartitionResetNotice_keeps _ _ (Keeps.refl s)
theorem exec_noticeReceived_keeps (n) (m) (x) (s : State) : OutKeeps s (exec (.noticeReceived n m x) s) := (exec_noticeReceived n m x s).symm ▸ execNoticeReceived_keeps _ _ _ (Keeps.refl s)
theorem exec_reqNew_keeps (r) (d) (s : State) : OutKeeps s (exec (.reqNew r d) s) := (exec_reqNew r d s).symm ▸ execReqNew_keeps _ _ (Keeps.refl s)
theorem exec_reqContinue_keeps (r) (d) (s : State) : OutKeeps s (exec (.reqContinue r d) s) := (exec_reqContinue r d s).symm ▸ execReqContinue_keeps _ _ (Keeps.refl s)
theorem exec_reqCancel_keeps (r) (d) (s : State) : OutKeeps s (exec (.reqCancel r d) s) := (exec_reqCancel r d s).symm ▸ execReqCancel_keeps _ _ (Keeps.refl s)
theorem exec_reqPark_keeps (r) (d) (s : State) : OutKeeps s (exec (.reqPark r d) s) := (exec_reqPark r d s).symm ▸ execReqPark_keeps _ _ (Keeps.refl s)
theorem exec_reqDrop_keeps (r) (d) (s : State) : OutKeeps s (exec (.reqDrop r d) s) := (exec_reqDrop r d s).symm ▸ execReqDrop_keeps _ _ (Keeps.refl s)
theorem exec_accountRefill_keeps (s : State) : OutKeeps s (exec (.accountRefill) s) := (exec_accountRefill s).symm ▸ execAccountRefill_keeps (Keeps.refl s)
theorem exec_outputRecordWrite_keeps (n) (s : State) : OutKeeps s (exec (.outputRecordWrite n) s) := (exec_outputRecordWrite n s).symm ▸ execOutputRecordWrite_keeps _ (Keeps.refl s)
theorem exec_outputIrqTimer_keeps (r) (s : State) : OutKeeps s (exec (.outputIrqTimer r) s) := (exec_outputIrqTimer r s).symm ▸ execOutputIrqTimer_keeps _ (Keeps.refl s)
theorem exec_caddyReport_keeps (n) (e) (k) (ok) (data) (s : State) : OutKeeps s (exec (.caddyReport n e k ok data) s) := (exec_caddyReport n e k ok data s).symm ▸ execCaddyReport_keeps _ _ _ _ _ (Keeps.refl s)
theorem exec_adapterSlotFree_keeps (issue) (s : State) : OutKeeps s (exec (.adapterSlotFree issue) s) := (exec_adapterSlotFree issue s).symm ▸ execAdapterSlotFree_keeps _ (Keeps.refl s)
theorem exec_mbDb_keeps (f) (v) (s : State) : OutKeeps s (exec (.mbDb f v) s) := (exec_mbDb f v s).symm ▸ execMbDb_keeps _ _ (Keeps.refl s)
theorem exec_mbAck_keeps (f) (v) (s : State) : OutKeeps s (exec (.mbAck f v) s) := (exec_mbAck f v s).symm ▸ execMbAck_keeps _ _ (Keeps.refl s)
theorem exec_pendingComplete_keeps (f) (seq) (o) (s : State) : OutKeeps s (exec (.pendingComplete f seq o) s) := (exec_pendingComplete f seq o s).symm ▸ execPendingComplete_keeps _ _ _ (Keeps.refl s)
theorem exec_rqTail_keeps (f) (r) (v) (s : State) : OutKeeps s (exec (.rqTail f r v) s) := (exec_rqTail f r v s).symm ▸ execRqTail_keeps _ _ _ (Keeps.refl s)
theorem exec_oqHead_keeps (f) (r) (v) (s : State) : OutKeeps s (exec (.oqHead f r v) s) := (exec_oqHead f r v s).symm ▸ execOqHead_keeps _ _ _ (Keeps.refl s)
theorem exec_flr_keeps (f) (s : State) : OutKeeps s (exec (.flr f) s) := (exec_flr f s).symm ▸ execFlr_keeps _ (Keeps.refl s)
theorem exec_pcieHotReset_keeps (s : State) : OutKeeps s (exec (.pcieHotReset) s) := (exec_pcieHotReset s).symm ▸ execPcieHotReset_keeps (Keeps.refl s)
theorem exec_pciePerst_keeps (s : State) : OutKeeps s (exec (.pciePerst) s) := (exec_pciePerst s).symm ▸ execPciePerst_keeps (Keeps.refl s)
theorem exec_pcieRetrain_keeps (a) (s : State) : OutKeeps s (exec (.pcieRetrain a) s) := (exec_pcieRetrain a s).symm ▸ execPcieRetrain_keeps _ (Keeps.refl s)
theorem exec_bar4Read_keeps (f) (ofs) (n) (s : State) : OutKeeps s (exec (.bar4Read f ofs n) s) := (exec_bar4Read f ofs n s).symm ▸ execBar4Read_keeps _ _ _ (Keeps.refl s)
theorem exec_bar4Write_keeps (f) (ofs) (data) (s : State) : OutKeeps s (exec (.bar4Write f ofs data) s) := (exec_bar4Write f ofs data s).symm ▸ execBar4Write_keeps _ _ _ (Keeps.refl s)
theorem exec_dmaTransferEnd_keeps (f) (wr) (ofs) (n) (host) (data) (bad) (s : State) : OutKeeps s (exec (.dmaTransferEnd f wr ofs n host data bad) s) := (exec_dmaTransferEnd f wr ofs n host data bad s).symm ▸ execDmaTransferEnd_keeps _ _ _ _ _ _ _ (Keeps.refl s)
theorem exec_mgmtSessionHandshake_keeps (r) (s : State) : OutKeeps s (exec (.mgmtSessionHandshake r) s) := (exec_mgmtSessionHandshake r s).symm ▸ execMgmtSessionHandshake_keeps _ (Keeps.refl s)
theorem exec_getInfo_keeps (q) (s : State) : OutKeeps s (exec (.getInfo q) s) := (exec_getInfo q s).symm ▸ execGetInfo_keeps _ (Keeps.refl s)
theorem exec_getCert_keeps (q) (s : State) : OutKeeps s (exec (.getCert q) s) := (exec_getCert q s).symm ▸ execGetCert_keeps _ (Keeps.refl s)
theorem exec_getLog_keeps (q) (seq) (s : State) : OutKeeps s (exec (.getLog q seq) s) := (exec_getLog q seq s).symm ▸ execGetLog_keeps _ _ (Keeps.refl s)
theorem exec_getPorts_keeps (q) (s : State) : OutKeeps s (exec (.getPorts q) s) := (exec_getPorts q s).symm ▸ execGetPorts_keeps _ (Keeps.refl s)
theorem exec_partCreate_keeps (q) (x) (s : State) : OutKeeps s (exec (.partCreate q x) s) := (exec_partCreate q x s).symm ▸ execPartCreate_keeps _ _ (Keeps.refl s)
theorem exec_partStart_keeps (q) (s : State) : OutKeeps s (exec (.partStart q) s) := (exec_partStart q s).symm ▸ execPartStart_keeps _ (Keeps.refl s)
theorem exec_partStop_keeps (q) (s : State) : OutKeeps s (exec (.partStop q) s) := (exec_partStop q s).symm ▸ execPartStop_keeps _ (Keeps.refl s)
theorem exec_partReset_keeps (q) (s : State) : OutKeeps s (exec (.partReset q) s) := (exec_partReset q s).symm ▸ execPartReset_keeps _ (Keeps.refl s)
theorem exec_partDestroy_keeps (q) (s : State) : OutKeeps s (exec (.partDestroy q) s) := (exec_partDestroy q s).symm ▸ execPartDestroy_keeps _ (Keeps.refl s)
theorem exec_partSet_keeps (q) (x) (s : State) : OutKeeps s (exec (.partSet q x) s) := (exec_partSet q x s).symm ▸ execPartSet_keeps _ _ (Keeps.refl s)
theorem exec_partClear_keeps (q) (s : State) : OutKeeps s (exec (.partClear q) s) := (exec_partClear q s).symm ▸ execPartClear_keeps _ (Keeps.refl s)
theorem exec_partNarrow_keeps (q) (s : State) : OutKeeps s (exec (.partNarrow q) s) := (exec_partNarrow q s).symm ▸ execPartNarrow_keeps _ (Keeps.refl s)
theorem exec_partStatus_keeps (q) (others) (s : State) : OutKeeps s (exec (.partStatus q others) s) := (exec_partStatus q others s).symm ▸ execPartStatus_keeps _ _ (Keeps.refl s)
theorem exec_modelLoad_keeps (q) (x) (s : State) : OutKeeps s (exec (.modelLoad q x) s) := (exec_modelLoad q x s).symm ▸ execModelLoad_keeps _ _ (Keeps.refl s)
theorem exec_modelUnload_keeps (q) (h) (s : State) : OutKeeps s (exec (.modelUnload q h) s) := (exec_modelUnload q h s).symm ▸ execModelUnload_keeps _ _ (Keeps.refl s)
theorem exec_modelList_keeps (q) (s : State) : OutKeeps s (exec (.modelList q) s) := (exec_modelList q s).symm ▸ execModelList_keeps _ (Keeps.refl s)
theorem exec_modelSupply_keeps (q) (h) (x) (failed) (s : State) : OutKeeps s (exec (.modelSupply q h x failed) s) := (exec_modelSupply q h x failed s).symm ▸ execModelSupply_keeps _ _ _ _ (Keeps.refl s)
theorem exec_modelDigest_keeps (q) (h) (s : State) : OutKeeps s (exec (.modelDigest q h) s) := (exec_modelDigest q h s).symm ▸ execModelDigest_keeps _ _ (Keeps.refl s)
theorem exec_schedLoad_keeps (q) (x) (s : State) : OutKeeps s (exec (.schedLoad q x) s) := (exec_schedLoad q x s).symm ▸ execSchedLoad_keeps _ _ (Keeps.refl s)
theorem exec_schedSwitch_keeps (q) (s : State) : OutKeeps s (exec (.schedSwitch q) s) := (exec_schedSwitch q s).symm ▸ execSchedSwitch_keeps _ (Keeps.refl s)
theorem exec_recipeSet_keeps (q) (l) (s : State) : OutKeeps s (exec (.recipeSet q l) s) := (exec_recipeSet q l s).symm ▸ execRecipeSet_keeps _ _ (Keeps.refl s)
theorem exec_recipeGet_keeps (q) (l) (s : State) : OutKeeps s (exec (.recipeGet q l) s) := (exec_recipeGet q l s).symm ▸ execRecipeGet_keeps _ _ (Keeps.refl s)
theorem exec_flagsGet_keeps (q) (others) (s : State) : OutKeeps s (exec (.flagsGet q others) s) := (exec_flagsGet q others s).symm ▸ execFlagsGet_keeps _ _ (Keeps.refl s)
theorem exec_adapterLoad_keeps (q) (id) (gen) (l) (s : State) : OutKeeps s (exec (.adapterLoad q id gen l) s) := (exec_adapterLoad q id gen l s).symm ▸ execAdapterLoad_keeps _ _ _ _ (Keeps.refl s)
theorem exec_adapterReplace_keeps (q) (id) (gen) (l) (s : State) : OutKeeps s (exec (.adapterReplace q id gen l) s) := (exec_adapterReplace q id gen l s).symm ▸ execAdapterReplace_keeps _ _ _ _ (Keeps.refl s)
theorem exec_adapterUnload_keeps (q) (id) (s : State) : OutKeeps s (exec (.adapterUnload q id) s) := (exec_adapterUnload q id s).symm ▸ execAdapterUnload_keeps _ _ (Keeps.refl s)
theorem exec_adapterList_keeps (q) (s : State) : OutKeeps s (exec (.adapterList q) s) := (exec_adapterList q s).symm ▸ execAdapterList_keeps _ (Keeps.refl s)
theorem exec_rqCreate_keeps (q) (r) (base) (entries) (wb) (s : State) : OutKeeps s (exec (.rqCreate q r base entries wb) s) := (exec_rqCreate q r base entries wb s).symm ▸ execRqCreate_keeps _ _ _ _ _ (Keeps.refl s)
theorem exec_oqCreate_keeps (q) (r) (remote) (base) (entries) (wb) (vec) (modUs) (modCnt) (s : State) : OutKeeps s (exec (.oqCreate q r remote base entries wb vec modUs modCnt) s) := (exec_oqCreate q r remote base entries wb vec modUs modCnt s).symm ▸ execOqCreate_keeps _ _ _ _ _ _ _ _ _ (Keeps.refl s)
theorem exec_ringDestroy_keeps (q) (out) (r) (s : State) : OutKeeps s (exec (.ringDestroy q out r) s) := (exec_ringDestroy q out r s).symm ▸ execRingDestroy_keeps _ _ _ (Keeps.refl s)
theorem exec_accountSet_keeps (q) (a) (rate) (burst) (ends) (valid) (s : State) : OutKeeps s (exec (.accountSet q a rate burst ends valid) s) := (exec_accountSet q a rate burst ends valid s).symm ▸ execAccountSet_keeps _ _ _ _ _ _ (Keeps.refl s)
theorem exec_classSet_keeps (q) (c) (ttft) (tbt) (s : State) : OutKeeps s (exec (.classSet q c ttft tbt) s) := (exec_classSet q c ttft tbt s).symm ▸ execClassSet_keeps _ _ _ _ (Keeps.refl s)
theorem exec_stopsetSet_keeps (q) (issue) (tokens) (s : State) : OutKeeps s (exec (.stopsetSet q issue tokens) s) := (exec_stopsetSet q issue tokens s).symm ▸ execStopsetSet_keeps _ _ _ (Keeps.refl s)
theorem exec_reqQuery_keeps (q) (e) (s : State) : OutKeeps s (exec (.reqQuery q e) s) := (exec_reqQuery q e s).symm ▸ execReqQuery_keeps _ _ (Keeps.refl s)
theorem exec_calSave_keeps (q) (c) (set) (s : State) : OutKeeps s (exec (.calSave q c set) s) := (exec_calSave q c set s).symm ▸ execCalSave_keeps _ _ _ (Keeps.refl s)
theorem exec_calRestore_keeps (q) (dev) (c) (set) (recs) (s : State) : OutKeeps s (exec (.calRestore q dev c set recs) s) := (exec_calRestore q dev c set recs s).symm ▸ execCalRestore_keeps _ _ _ _ _ (Keeps.refl s)
theorem exec_calMeasure_keeps (q) (c) (set) (s : State) : OutKeeps s (exec (.calMeasure q c set) s) := (exec_calMeasure q c set s).symm ▸ execCalMeasure_keeps _ _ _ (Keeps.refl s)
theorem exec_calConfig_keeps (q) (c) (src) (log2) (limit) (tstep) (s : State) : OutKeeps s (exec (.calConfig q c src log2 limit tstep) s) := (exec_calConfig q c src log2 limit tstep s).symm ▸ execCalConfig_keeps _ _ _ _ _ _ (Keeps.refl s)
theorem exec_telSnapshot_keeps (q) (blocks) (s : State) : OutKeeps s (exec (.telSnapshot q blocks) s) := (exec_telSnapshot q blocks s).symm ▸ execTelSnapshot_keeps _ _ (Keeps.refl s)
theorem exec_enduranceGet_keeps (q) (c) (s : State) : OutKeeps s (exec (.enduranceGet q c) s) := (exec_enduranceGet q c s).symm ▸ execEnduranceGet_keeps _ _ (Keeps.refl s)
theorem exec_thermalGet_keeps (q) (s : State) : OutKeeps s (exec (.thermalGet q) s) := (exec_thermalGet q s).symm ▸ execThermalGet_keeps _ (Keeps.refl s)
theorem exec_telStream_keeps (q) (ms) (blocks) (buf) (size) (s : State) : OutKeeps s (exec (.telStream q ms blocks buf size) s) := (exec_telStream q ms blocks buf size s).symm ▸ execTelStream_keeps _ _ _ _ _ (Keeps.refl s)
theorem exec_telStreamInterval_keeps (s : State) : OutKeeps s (exec (.telStreamInterval) s) := (exec_telStreamInterval s).symm ▸ execTelStreamInterval_keeps (Keeps.refl s)
theorem exec_faultList_keeps (q) (s : State) : OutKeeps s (exec (.faultList q) s) := (exec_faultList q s).symm ▸ execFaultList_keeps _ (Keeps.refl s)
theorem exec_faultAck_keeps (q) (l) (s : State) : OutKeeps s (exec (.faultAck q l) s) := (exec_faultAck q l s).symm ▸ execFaultAck_keeps _ _ (Keeps.refl s)
theorem exec_coreFence_keeps (q) (c) (s : State) : OutKeeps s (exec (.coreFence q c) s) := (exec_coreFence q c s).symm ▸ execCoreFence_keeps _ _ (Keeps.refl s)
theorem exec_resteep_keeps (q) (c) (n) (s : State) : OutKeeps s (exec (.resteep q c n) s) := (exec_resteep q c n s).symm ▸ execResteep_keeps _ _ _ (Keeps.refl s)
theorem exec_digestCfg_keeps (q) (minutes) (s : State) : OutKeeps s (exec (.digestCfg q minutes) s) := (exec_digestCfg q minutes s).symm ▸ execDigestCfg_keeps _ _ (Keeps.refl s)
theorem exec_lcGet_keeps (q) (s : State) : OutKeeps s (exec (.lcGet q) s) := (exec_lcGet q s).symm ▸ execLcGet_keeps _ (Keeps.refl s)
theorem exec_lcSet_keeps (q) (dst) (x) (challenge) (s : State) : OutKeeps s (exec (.lcSet q dst x challenge) s) := (exec_lcSet q dst x challenge s).symm ▸ execLcSet_keeps _ _ _ _ (Keeps.refl s)
theorem exec_ownershipInstall_keeps (q) (dst) (x) (challenge) (s : State) : OutKeeps s (exec (.ownershipInstall q dst x challenge) s) := (exec_ownershipInstall q dst x challenge s).symm ▸ execOwnershipInstall_keeps _ _ _ _ (Keeps.refl s)
theorem exec_fwStage_keeps (q) (ver) (lvl) (asks) (s : State) : OutKeeps s (exec (.fwStage q ver lvl asks) s) := (exec_fwStage q ver lvl asks s).symm ▸ execFwStage_keeps _ _ _ _ (Keeps.refl s)
theorem exec_fwActivate_keeps (q) (done) (s : State) : OutKeeps s (exec (.fwActivate q done) s) := (exec_fwActivate q done s).symm ▸ execFwActivate_keeps _ _ (Keeps.refl s)
theorem exec_fwStatus_keeps (q) (s : State) : OutKeeps s (exec (.fwStatus q) s) := (exec_fwStatus q s).symm ▸ execFwStatus_keeps _ (Keeps.refl s)
theorem exec_shutdown_keeps (q) (s : State) : OutKeeps s (exec (.shutdown q) s) := (exec_shutdown q s).symm ▸ execShutdown_keeps _ (Keeps.refl s)
theorem exec_bistResult_keeps (q) (s : State) : OutKeeps s (exec (.bistResult q) s) := (exec_bistResult q s).symm ▸ execBistResult_keeps _ (Keeps.refl s)
theorem exec_reset_keeps (q) (x) (s : State) : OutKeeps s (exec (.reset q x) s) := (exec_reset q x s).symm ▸ execReset_keeps _ _ (Keeps.refl s)
theorem exec_planInstall_keeps (q) (image) (sig) (s : State) : OutKeeps s (exec (.planInstall q image sig) s) := (exec_planInstall q image sig s).symm ▸ execPlanInstall_keeps _ _ _ (Keeps.refl s)
theorem exec_planGet_keeps (q) (s : State) : OutKeeps s (exec (.planGet q) s) := (exec_planGet q s).symm ▸ execPlanGet_keeps _ (Keeps.refl s)
theorem exec_portCmd_keeps (q) (p) (c) (s : State) : OutKeeps s (exec (.portCmd q p c) s) := (exec_portCmd q p c s).symm ▸ execPortCmd_keeps _ _ _ (Keeps.refl s)
theorem exec_spareSet_keeps (q) (a) (s : State) : OutKeeps s (exec (.spareSet q a) s) := (exec_spareSet q a s).symm ▸ execSpareSet_keeps _ _ (Keeps.refl s)
theorem exec_halfClock_keeps (q) (east) (lower) (there) (s : State) : OutKeeps s (exec (.halfClock q east lower there) s) := (exec_halfClock q east lower there s).symm ▸ execHalfClock_keeps _ _ _ _ (Keeps.refl s)
theorem exec_sysRstAssert_keeps (s : State) : OutKeeps s (exec (.sysRstAssert) s) := (exec_sysRstAssert s).symm ▸ execSysRstAssert_keeps (Keeps.refl s)
theorem exec_powerOnDetect_keeps (up) (s : State) : OutKeeps s (exec (.powerOnDetect up) s) := (exec_powerOnDetect up s).symm ▸ execPowerOnDetect_keeps _ (Keeps.refl s)
theorem exec_packageStart_keeps (x) (s : State) : OutKeeps s (exec (.packageStart x) s) := (exec_packageStart x s).symm ▸ execPackageStart_keeps _ (Keeps.refl s)
theorem exec_startStepTimeout_keeps (s : State) : OutKeeps s (exec (.startStepTimeout) s) := (exec_startStepTimeout s).symm ▸ execStartStepTimeout_keeps (Keeps.refl s)
theorem exec_watchdogExpire_keeps (s : State) : OutKeeps s (exec (.watchdogExpire) s) := (exec_watchdogExpire s).symm ▸ execWatchdogExpire_keeps (Keeps.refl s)
theorem exec_watchdogKick_keeps (a) (s : State) : OutKeeps s (exec (.watchdogKick a) s) := (exec_watchdogKick a s).symm ▸ execWatchdogKick_keeps _ (Keeps.refl s)
theorem exec_lcRstCluster_keeps (a) (k) (s : State) : OutKeeps s (exec (.lcRstCluster a k) s) := (exec_lcRstCluster a k s).symm ▸ execLcRstCluster_keeps _ _ (Keeps.refl s)
theorem exec_lcRstWarm_keeps (a) (s : State) : OutKeeps s (exec (.lcRstWarm a) s) := (exec_lcRstWarm a s).symm ▸ execLcRstWarm_keeps _ (Keeps.refl s)
theorem exec_lcRstCold_keeps (a) (s : State) : OutKeeps s (exec (.lcRstCold a) s) := (exec_lcRstCold a s).symm ▸ execLcRstCold_keeps _ (Keeps.refl s)
theorem exec_bistRun_keeps (a) (s : State) : OutKeeps s (exec (.bistRun a) s) := (exec_bistRun a s).symm ▸ execBistRun_keeps _ (Keeps.refl s)
theorem exec_bistDone_keeps (o) (s : State) : OutKeeps s (exec (.bistDone o) s) := (exec_bistDone o s).symm ▸ execBistDone_keeps _ (Keeps.refl s)
theorem exec_poweredTimeSave_keeps (s : State) : OutKeeps s (exec (.poweredTimeSave) s) := (exec_poweredTimeSave s).symm ▸ execPoweredTimeSave_keeps (Keeps.refl s)
theorem exec_faultEvent_keeps (src) (dom) (access) (node) (unit) (addr) (detail) (esc) (s : State) : OutKeeps s (exec (.faultEvent src dom access node unit addr detail esc) s) := (exec_faultEvent src dom access node unit addr detail esc s).symm ▸ execFaultEvent_keeps _ _ _ _ _ _ _ _ (Keeps.refl s)
theorem exec_faultWindowEnd_keeps (l1) (s : State) : OutKeeps s (exec (.faultWindowEnd l1) s) := (exec_faultWindowEnd l1 s).symm ▸ execFaultWindowEnd_keeps _ (Keeps.refl s)
theorem exec_fltAck_keeps (v) (s : State) : OutKeeps s (exec (.fltAck v) s) := (exec_fltAck v s).symm ▸ execFltAck_keeps _ (Keeps.refl s)
theorem exec_fltEvtPop_keeps (a) (s : State) : OutKeeps s (exec (.fltEvtPop a) s) := (exec_fltEvtPop a s).symm ▸ execFltEvtPop_keeps _ (Keeps.refl s)
theorem exec_fltCapClear_keeps (l) (s : State) : OutKeeps s (exec (.fltCapClear l) s) := (exec_fltCapClear l s).symm ▸ execFltCapClear_keeps _ (Keeps.refl s)
theorem exec_faultNPulseEnd_keeps (s : State) : OutKeeps s (exec (.faultNPulseEnd) s) := (exec_faultNPulseEnd s).symm ▸ execFaultNPulseEnd_keeps (Keeps.refl s)
theorem exec_faultReport_keeps (s : State) : OutKeeps s (exec (.faultReport) s) := (exec_faultReport s).symm ▸ execFaultReport_keeps (Keeps.refl s)
theorem exec_faultSummaryTimer_keeps (s : State) : OutKeeps s (exec (.faultSummaryTimer) s) := (exec_faultSummaryTimer s).symm ▸ execFaultSummaryTimer_keeps (Keeps.refl s)
theorem exec_faultPause_keeps (c) (failed) (s : State) : OutKeeps s (exec (.faultPause c failed) s) := (exec_faultPause c failed s).symm ▸ execFaultPause_keeps _ _ (Keeps.refl s)
theorem exec_pauseRequest_keeps (n) (s : State) : OutKeeps s (exec (.pauseRequest n) s) := (exec_pauseRequest n s).symm ▸ execPauseRequest_keeps _ (Keeps.refl s)
theorem exec_pauseNotice_keeps (n) (k) (s : State) : OutKeeps s (exec (.pauseNotice n k) s) := (exec_pauseNotice n k s).symm ▸ execPauseNotice_keeps _ _ (Keeps.refl s)
theorem exec_suspectObserve_keeps (c) (n) (s : State) : OutKeeps s (exec (.suspectObserve c n) s) := (exec_suspectObserve c n s).symm ▸ execSuspectObserve_keeps _ _ (Keeps.refl s)
theorem exec_suspectObservationEnd_keeps (c) (n) (s : State) : OutKeeps s (exec (.suspectObservationEnd c n) s) := (exec_suspectObservationEnd c n s).symm ▸ execSuspectObservationEnd_keeps _ _ (Keeps.refl s)
theorem exec_digestInterval_keeps (s : State) : OutKeeps s (exec (.digestInterval) s) := (exec_digestInterval s).symm ▸ execDigestInterval_keeps (Keeps.refl s)
theorem exec_injectGo_keeps (v) (s : State) : OutKeeps s (exec (.injectGo v) s) := (exec_injectGo v s).symm ▸ execInjectGo_keeps _ (Keeps.refl s)
theorem exec_injectionAtTime_keeps (s : State) : OutKeeps s (exec (.injectionAtTime) s) := (exec_injectionAtTime s).symm ▸ execInjectionAtTime_keeps (Keeps.refl s)
theorem exec_sensorSample_keeps (issue) (v) (ok) (s : State) : OutKeeps s (exec (.sensorSample issue v ok) s) := (exec_sensorSample issue v ok s).symm ▸ execSensorSample_keeps _ _ _ (Keeps.refl s)
theorem exec_sensorMissingTimeout_keeps (issue) (s : State) : OutKeeps s (exec (.sensorMissingTimeout issue) s) := (exec_sensorMissingTimeout issue s).symm ▸ execSensorMissingTimeout_keeps _ (Keeps.refl s)
theorem exec_warningChange_keeps (east) (issue) (s : State) : OutKeeps s (exec (.warningChange east issue) s) := (exec_warningChange east issue s).symm ▸ execWarningChange_keeps _ _ (Keeps.refl s)
theorem exec_throttleSet_keeps (east) (s : State) : OutKeeps s (exec (.throttleSet east) s) := (exec_throttleSet east s).symm ▸ execThrottleSet_keeps _ (Keeps.refl s)
theorem exec_throttleRequest_keeps (n) (all) (s : State) : OutKeeps s (exec (.throttleRequest n all) s) := (exec_throttleRequest n all s).symm ▸ execThrottleRequest_keeps _ _ (Keeps.refl s)
theorem exec_throttleClear_keeps (east) (s : State) : OutKeeps s (exec (.throttleClear east) s) := (exec_throttleClear east s).symm ▸ execThrottleClear_keeps _ (Keeps.refl s)
theorem exec_thmCtlWrite_keeps (a) (v) (s : State) : OutKeeps s (exec (.thmCtlWrite a v) s) := (exec_thmCtlWrite a v s).symm ▸ execThmCtlWrite_keeps _ _ (Keeps.refl s)
theorem exec_telConversionEnd_keeps (code) (ovr) (s : State) : OutKeeps s (exec (.telConversionEnd code ovr) s) := (exec_telConversionEnd code ovr s).symm ▸ execTelConversionEnd_keeps _ _ (Keeps.refl s)
theorem exec_telCtlWrite_keeps (a) (mask) (v) (s : State) : OutKeeps s (exec (.telCtlWrite a mask v) s) := (exec_telCtlWrite a mask v s).symm ▸ execTelCtlWrite_keeps _ _ _ (Keeps.refl s)
theorem exec_refclkLoss_keeps (k) (s : State) : OutKeeps s (exec (.refclkLoss k) s) := (exec_refclkLoss k s).symm ▸ execRefclkLoss_keeps _ (Keeps.refl s)
theorem exec_firingRelease_keeps (c) (slot) (s : State) : OutKeeps s (exec (.firingRelease c slot) s) := (exec_firingRelease c slot s).symm ▸ execFiringRelease_keeps _ _ (Keeps.refl s)
theorem exec_partnerSignalLoss_keeps (p) (s : State) : OutKeeps s (exec (.partnerSignalLoss p) s) := (exec_partnerSignalLoss p s).symm ▸ execPartnerSignalLoss_keeps _ (Keeps.refl s)
theorem exec_pcieLinkTrained_keeps (speed) (width) (flit) (vfs) (s : State) : OutKeeps s (exec (.pcieLinkTrained speed width flit vfs) s) := (exec_pcieLinkTrained speed width flit vfs s).symm ▸ execPcieLinkTrained_keeps _ _ _ _ (Keeps.refl s)
theorem exec_pcieLinkError_keeps (corr) (s : State) : OutKeeps s (exec (.pcieLinkError corr) s) := (exec_pcieLinkError corr s).symm ▸ execPcieLinkError_keeps _ (Keeps.refl s)
theorem exec_firmwareRestartEnd_keeps (auth) (s : State) : OutKeeps s (exec (.firmwareRestartEnd auth) s) := (exec_firmwareRestartEnd auth s).symm ▸ execFirmwareRestartEnd_keeps _ (Keeps.refl s)
theorem exec_overrunReport_keeps (n) (m) (w) (k) (longer) (s : State) : OutKeeps s (exec (.overrunReport n m w k longer) s) := (exec_overrunReport n m w k longer s).symm ▸ execOverrunReport_keeps _ _ _ _ _ (Keeps.refl s)
theorem exec_partitionStopNotice_keeps (n) (k) (s : State) : OutKeeps s (exec (.partitionStopNotice n k) s) := (exec_partitionStopNotice n k s).symm ▸ execPartitionStopNotice_keeps _ _ (Keeps.refl s)
theorem exec_partitionStopRequest_keeps (n) (missed) (s : State) : OutKeeps s (exec (.partitionStopRequest n missed) s) := (exec_partitionStopRequest n missed s).symm ▸ execPartitionStopRequest_keeps _ _ (Keeps.refl s)
theorem exec_jtagFuseProgramming_keeps (s : State) : OutKeeps s (exec (.jtagFuseProgramming) s) := (exec_jtagFuseProgramming s).symm ▸ execJtagFuseProgramming_keeps (Keeps.refl s)

end Sys2Proof.Machine
end

