-- ==== Sys2Proof/Laws/Seq.lean ====
section
/-! SUPPORT. Laws of the sequencer's shared operations: signals, the program counter, the state in which an instruction takes effect. -/
namespace Sys2Proof.Machine

/-! ### Frames of registers -/

theorem sameRegsBut.refl (fs : List Fld) (s : State) : sameRegsBut fs s s := fun _ _ => ⟨rfl, rfl⟩

theorem sameRegsBut.trans {fs : List Fld} {r s t : State} (h : sameRegsBut fs r s) (k : sameRegsBut fs s t) : sameRegsBut fs r t :=
  fun g hg => ⟨(k g hg).1.trans (h g hg).1, (k g hg).2.trans (h g hg).2⟩

/-- A change of other parts of the state. -/
theorem sameRegsBut.of_eq {fs : List Fld} {r s t : State} (h : sameRegsBut fs r s) (hr : t.regs = s.regs) (ha : t.act = s.act) :
    sameRegsBut fs r t := h.trans fun g _ => ⟨get_of_regs hr g, actv_of_act ha g⟩

/-- A write of a listed field. -/
theorem sameRegsBut.set {fs : List Fld} {r s : State} (h : sameRegsBut fs r s) {f : Fld} (hf : f ∈ fs) (v : Nat) :
    sameRegsBut fs r (set f v s) := h.trans fun _ hg => ⟨get_set_ne (hg f hf) v s, rfl⟩

theorem sameRegsBut.setB {fs : List Fld} {r s : State} (h : sameRegsBut fs r s) {f : Fld} (hf : f ∈ fs) (b : Bool) :
    sameRegsBut fs r (setB f b s) := h.set hf _

theorem sameRegsBut.bump {fs : List Fld} {r s : State} (h : sameRegsBut fs r s) {f : Fld} (hf : f ∈ fs) :
    sameRegsBut fs r (bump f s) := h.set hf _

theorem sameRegsBut.moveTo {fs : List Fld} {r s : State} (h : sameRegsBut fs r s) (hf : F.TB_TIME_TIME ∈ fs) (x : Nat) :
    sameRegsBut fs r (moveTo x s) := by
  unfold Machine.moveTo
  split
  · exact (h.set hf x).of_eq rfl rfl
  · exact h

/-! ### Signals (R178) -/

section
variable (c : Nat) (o : Option Nat) (s : State)

@[simp] theorem signal_regs : (signal c o s).regs = s.regs := by cases o <;> rfl
@[simp] theorem signal_act : (signal c o s).act = s.act := by cases o <;> rfl
@[simp] theorem signal_mem : (signal c o s).mem = s.mem := by cases o <;> rfl
@[simp] theorem signal_ports : (signal c o s).ports = s.ports := by cases o <;> rfl
@[simp] theorem signal_stks : (signal c o s).stks = s.stks := by cases o <;> rfl
@[simp] theorem signal_mesh : (signal c o s).mesh = s.mesh := by cases o <;> rfl
@[simp] theorem signal_flt : (signal c o s).flt = s.flt := by cases o <;> rfl
@[simp] theorem signal_fw : (signal c o s).fw = s.fw := by cases o <;> rfl

theorem core_signal_ne {d : Nat} (h : d ≠ c) : core (signal c o s) d = core s d := by
  cases o
  · rfl
  · exact core_updCore_ne h _ s

/-- A signal counts its event and leaves the rest of its core. -/
theorem core_signal_same : core (signal c o s) c =
    match o with
    | some e => { core s c with evt := SMap.put 0 (core s c).evt e (SMap.get 0 (core s c).evt e + 1) }
    | none => core s c := by
  cases o
  · rfl
  · exact core_updCore_same c _ s

end

/-! ### The state in which an instruction takes its effect -/

section
variable (c w : Nat) (s : State)

/-- An instruction that takes its place in a queue changes nothing but those places. -/
theorem occupy_eq : ∃ v a : CoreSt → List Nat, occupy c w s = updCore c (fun k => { k with vecEnds := v k, adptEnds := a k }) s ∨ occupy c w s = s := by
  unfold occupy
  dsimp only
  split
  · exact ⟨_, CoreSt.adptEnds, .inl rfl⟩
  · split
    · exact ⟨CoreSt.vecEnds, _, .inl rfl⟩
    · exact ⟨CoreSt.vecEnds, CoreSt.adptEnds, .inr rfl⟩

@[simp] theorem occupy_regs : (occupy c w s).regs = s.regs := by obtain ⟨_, _, e | e⟩ := occupy_eq c w s <;> rw [e] <;> rfl
@[simp] theorem occupy_act : (occupy c w s).act = s.act := by obtain ⟨_, _, e | e⟩ := occupy_eq c w s <;> rw [e] <;> rfl
@[simp] theorem occupy_mem : (occupy c w s).mem = s.mem := by obtain ⟨_, _, e | e⟩ := occupy_eq c w s <;> rw [e] <;> rfl
@[simp] theorem occupy_ports : (occupy c w s).ports = s.ports := by obtain ⟨_, _, e | e⟩ := occupy_eq c w s <;> rw [e] <;> rfl
@[simp] theorem occupy_stks : (occupy c w s).stks = s.stks := by obtain ⟨_, _, e | e⟩ := occupy_eq c w s <;> rw [e] <;> rfl
@[simp] theorem occupy_mesh : (occupy c w s).mesh = s.mesh := by obtain ⟨_, _, e | e⟩ := occupy_eq c w s <;> rw [e] <;> rfl
@[simp] theorem occupy_flt : (occupy c w s).flt = s.flt := by obtain ⟨_, _, e | e⟩ := occupy_eq c w s <;> rw [e] <;> rfl
@[simp] theorem occupy_fw : (occupy c w s).fw = s.fw := by obtain ⟨_, _, e | e⟩ := occupy_eq c w s <;> rw [e] <;> rfl

theorem core_occupy_ne {d : Nat} (h : d ≠ c) : core (occupy c w s) d = core s d := by
  obtain ⟨v, a, e | e⟩ := occupy_eq c w s <;> rw [e]
  exact core_updCore_ne h _ s

/-- Of its own core an instruction that takes its place changes the queues of the vector unit and the adapter unit. -/
theorem core_occupy_same : ∃ v a, core (occupy c w s) c = { core s c with vecEnds := v, adptEnds := a } := by
  obtain ⟨v, a, e | e⟩ := occupy_eq c w s <;> rw [e]
  · rw [core_updCore_same]; exact ⟨_, _, rfl⟩
  · exact ⟨_, _, rfl⟩

theorem pcOf_occupy : pcOf (occupy c w s) c = pcOf s c := by unfold pcOf; exact get_of_regs (occupy_regs c w s) _

end

section
variable (c : Nat) (s : State)

@[simp] theorem nextPc_mem : (nextPc c s).mem = s.mem := by unfold nextPc; split <;> rfl
@[simp] theorem nextPc_act : (nextPc c s).act = s.act := by unfold nextPc; split <;> rfl
@[simp] theorem nextPc_ports : (nextPc c s).ports = s.ports := by unfold nextPc; split <;> rfl
@[simp] theorem nextPc_stks : (nextPc c s).stks = s.stks := by unfold nextPc; split <;> rfl
@[simp] theorem nextPc_mesh : (nextPc c s).mesh = s.mesh := by unfold nextPc; split <;> rfl
@[simp] theorem nextPc_flt : (nextPc c s).flt = s.flt := by unfold nextPc; split <;> rfl
@[simp] theorem nextPc_fw : (nextPc c s).fw = s.fw := by unfold nextPc; split <;> rfl

theorem core_nextPc_ne {d : Nat} (h : d ≠ c) : core (nextPc c s) d = core s d := by
  unfold nextPc
  split
  · exact core_updCore_ne h _ s
  · rfl

/-- The program counter's step changes nothing of its core but, after the last instruction, the mark that issue has run past the bank. -/
theorem core_nextPc_same : core (nextPc c s) c = { core s c with pastEnd := (core s c).pastEnd || pcOf s c == 16383 } := by
  unfold nextPc
  split
  · rename_i h
    rw [core_updCore_same]; simp [h]
  · rename_i h
    rw [beq_eq_false_iff_ne.2 h, Bool.or_false]; rfl

theorem sameRegsBut.nextPc {fs : List Fld} {r s : State} (h : sameRegsBut fs r s) (c : Nat) (hf : F.SEQ_STAT_PC c ∈ fs) :
    sameRegsBut fs r (nextPc c s) := by
  unfold Machine.nextPc
  split
  · exact h.of_eq rfl rfl
  · exact h.set hf _

end

section
variable (i : Issue) (s : State)

/-- Without a soft error the time base and the program counter move on, and nothing else happens. -/
theorem issued_quiet (h : errorFree i = true) :
    issued i s = nextPc i.core.val (occupy i.core.val (curWord s i.core.val) (moveTo (issueAt s i.core.val (curWord s i.core.val)) s)) := by
  obtain ⟨c, e, u⟩ := i
  simp only [errorFree, Bool.and_eq_true, beq_iff_eq, Option.isNone_iff_eq_none] at h
  obtain ⟨rfl, rfl⟩ := h
  rfl

variable {i} (h : errorFree i = true)
include h

theorem issued_mem : (issued i s).mem = s.mem := by rw [issued_quiet i s h]; simp
theorem issued_act : (issued i s).act = s.act := by rw [issued_quiet i s h]; simp
theorem issued_ports : (issued i s).ports = s.ports := by rw [issued_quiet i s h]; simp
theorem issued_stks : (issued i s).stks = s.stks := by rw [issued_quiet i s h]; simp
theorem issued_mesh : (issued i s).mesh = s.mesh := by rw [issued_quiet i s h]; simp
theorem issued_flt : (issued i s).flt = s.flt := by rw [issued_quiet i s h]; simp
theorem issued_fw : (issued i s).fw = s.fw := by rw [issued_quiet i s h]; simp

theorem core_issued_ne {d : Nat} (hd : d ≠ i.core.val) : core (issued i s) d = core s d := by
  rw [issued_quiet i s h, core_nextPc_ne _ _ hd, core_occupy_ne _ _ _ hd]
  exact core_of_cores (moveTo_cores _ s) d

/-- Of its own core an issued instruction changes its place in a unit's queue, and after the last one the mark that issue has run past the
bank. -/
theorem core_issued_same : ∃ v a, core (issued i s) i.core.val =
    { core s i.core.val with
      pastEnd := (core s i.core.val).pastEnd || pcOf (moveTo (issueAt s i.core.val (curWord s i.core.val)) s) i.core.val == 16383
      vecEnds := v, adptEnds := a } := by
  rw [issued_quiet i s h, core_nextPc_same, pcOf_occupy]
  obtain ⟨v, a, e⟩ := core_occupy_same i.core.val (curWord s i.core.val) (moveTo (issueAt s i.core.val (curWord s i.core.val)) s)
  rw [e, core_of_cores (moveTo_cores _ s)]
  exact ⟨v, a, rfl⟩

/-- Only the program counter and the time base have changed when an instruction takes its effect. -/
theorem issued_regs {fs : List Fld} (ht : F.TB_TIME_TIME ∈ fs) (hp : F.SEQ_STAT_PC i.core.val ∈ fs) : sameRegsBut fs s (issued i s) := by
  rw [issued_quiet i s h]
  exact (((sameRegsBut.refl fs s).moveTo ht _).of_eq (occupy_regs ..) (occupy_act ..)).nextPc _ hp

end

/-! ### Time -/

/-- What showing an instant changes. -/
theorem showTime_spec (v : Nat) (s : State) : (showTime v s).pending = s.pending ∧ (showTime v s).mem = s.mem ∧
    (showTime v s).cores = s.cores ∧ (showTime v s).ports = s.ports ∧ (showTime v s).fw = s.fw ∧ (showTime v s).srv = s.srv ∧
    (showTime v s).act = s.act ∧ sameRegsBut [F.TB_TIME_TIME] s (showTime v s) :=
  ⟨rfl, rfl, rfl, rfl, rfl, rfl, rfl, fun g hg =>
    ⟨(get_of_regs rfl g).trans (get_set_ne (hg _ (by simp)) (v / 2 ^ 32) s), actv_of_act rfl g⟩⟩

end Sys2Proof.Machine
end

