-- ==== Sys2Proof/Laws/Spad.lean ====
section
/-! SUPPORT. Laws of scratchpad rows: what a read gives, and what a write of rows stores and leaves. -/
namespace Sys2Proof.Machine

/-! ### Reads of rows without check mismatch (R193) -/

/-- The bytes of a row lie in the scratchpad alone. -/
theorem rowBytes_of_mem {s t : State} (h : s.mem = t.mem) (c r : Nat) : rowBytes s c r = rowBytes t c r := by
  unfold rowBytes; rw [h]

theorem readRow_mem (c u r : Nat) (s : State) (h : s.mem.spadBad = []) : (readRow c u r s).2.mem = s.mem := by
  unfold readRow
  simp only [h, List.find?_nil]
  unfold when
  split <;> rfl

theorem readRow_bytes (c u r : Nat) (s : State) (h : s.mem.spadBad = []) : (readRow c u r s).1.1 = rowBytes s c r := by
  unfold readRow
  simp only [h, List.find?_nil]

/-- Reading rows leaves the memories as they are. -/
theorem readRows_mem (c u : Nat) (l : List Nat) (s : State) (h : s.mem.spadBad = []) : (readRows c u l s).2.mem = s.mem := by
  induction l generalizing s with
  | nil => rfl
  | cons r l ih =>
    have h1 := readRow_mem c u r s h
    exact (ih _ (by rw [h1]; exact h)).trans h1

/-- The rows read, in order. -/
theorem readRows_bytes (c u : Nat) (l : List Nat) (s : State) (h : s.mem.spadBad = []) :
    (readRows c u l s).1.map (fun p => p.1) = l.map (rowBytes s c) := by
  induction l generalizing s with
  | nil => rfl
  | cons r l ih =>
    have h1 := readRow_mem c u r s h
    have h2 := ih (readRow c u r s).2 (by rw [h1]; exact h)
    rw [readRows, List.map_cons, h2, readRow_bytes c u r s h, List.map_cons]
    exact congrArg (rowBytes s c r :: ·) (List.map_congr_left fun x _ => rowBytes_of_mem h1 c x)

/-- A row without mark and mismatch is read without effect. -/
theorem readRow_clean (c u r : Nat) (s : State) (h : s.mem.spadBad = []) (hp : s.mem.spadPoison = []) : (readRow c u r s).2 = s := by
  unfold readRow
  simp [h, hp, rowPoison, NSet.has, when]

theorem readRows_clean (c u : Nat) (l : List Nat) (s : State) (h : s.mem.spadBad = []) (hp : s.mem.spadPoison = []) :
    (readRows c u l s).2 = s := by
  induction l generalizing s with
  | nil => rfl
  | cons r l ih =>
    have h1 := readRow_clean c u r s h hp
    exact (ih _ (by rw [h1]; exact h) (by rw [h1]; exact hp)).trans h1

/-! ### Writes of rows (R194) -/

section
variable (c r : Nat) (bs : List Byte) (p : Bool) (s : State)

theorem writeRow_spad : (writeRow c r bs p s).mem.spad = wrBytes s.mem.spad (rowAddr c r + 0) (bs.take 512) := rfl
@[simp] theorem writeRow_stk : (writeRow c r bs p s).mem.stk = s.mem.stk := rfl
@[simp] theorem writeRow_prog : (writeRow c r bs p s).mem.prog = s.mem.prog := rfl
@[simp] theorem writeRow_cal : (writeRow c r bs p s).mem.cal = s.mem.cal := rfl
@[simp] theorem writeRow_wts : (writeRow c r bs p s).mem.wts = s.mem.wts := rfl

theorem core_writeRow_ne {d : Nat} (h : d ≠ c) : core (writeRow c r bs p s) d = core s d := core_updCore_ne h _ _

/-- A row write leaves every byte outside the row as it was. -/
theorem writeRow_frame {a : Nat} (h : a < rowAddr c r ∨ rowAddr c r + 512 ≤ a) :
    rdByte (writeRow c r bs p s).mem.spad a = rdByte s.mem.spad a := by
  rw [writeRow_spad]
  refine rdByte_wrBytes_ne _ _ _ ?_
  have : (bs.take 512).length ≤ 512 := List.length_take_le 512 bs
  omega

/-- A row of 512 bytes reads back as written. -/
theorem writeRow_row (h : bs.length = 512) : rowBytes (writeRow c r bs p s) c r = bs := by
  have ht : bs.take 512 = bs := List.take_of_length_le (by omega)
  unfold rowBytes rdBytes
  rw [writeRow_spad, ht, Nat.add_zero]
  refine List.ext_getElem (by simp [h]) fun i h1 h2 => ?_
  simp only [List.getElem_map, List.getElem_range]
  exact rdByte_wrBytes _ _ _ h2

/-- Another row of the core keeps its bytes. -/
theorem writeRow_other {x : Nat} (h : x ≠ r) : rowBytes (writeRow c r bs p s) c x = rowBytes s c x := by
  unfold rowBytes rdBytes
  refine List.map_congr_left fun i hi => ?_
  have hi : i < 512 := List.mem_range.1 hi
  refine writeRow_frame c r bs p s ?_
  unfold rowAddr
  omega

end

/-- Writing rows in order, from the k-th on, keeps what each single write keeps. -/
theorem writeRows_leaves {P : State → Prop} (c d : Nat) (rows : List (List Byte × Bool)) {s : State} (hs : P s)
    (h : ∀ i (b : List Byte × Bool) t, i < rows.length → P t → P (writeRow c (d + i) b.1 b.2 t)) : P (writeRows c d rows s) := by
  unfold writeRows each
  have key : ∀ (l : List ((List Byte × Bool) × Nat)) (t : State), (∀ q ∈ l, q.2 < rows.length) → P t →
      P (l.foldl (fun s p => writeRow c (d + p.2) p.1.1 p.1.2 s) t) := by
    intro l
    induction l with
    | nil => intro t _ ht; exact ht
    | cons q l ih =>
      intro t hq ht
      exact ih _ (fun x hx => hq x (List.mem_cons_of_mem _ hx)) (h q.2 q.1 t (hq q List.mem_cons_self) ht)
  refine key _ s (fun q hq => ?_) hs
  have := List.snd_lt_of_mem_zipIdx (x := q) hq
  omega

/-- What no row write changes, writing rows does not change. -/
theorem writeRows_same {β : Type} (f : State → β) (c d : Nat) (rows : List (List Byte × Bool)) (s : State)
    (h : ∀ r b p t, f (writeRow c r b p t) = f t) : f (writeRows c d rows s) = f s :=
  writeRows_leaves (P := fun t => f t = f s) c d rows rfl fun _ _ _ _ ht => (h _ _ _ _).trans ht

/-- The k-th row of 512 bytes written from row `d` on reads back. -/
theorem writeRows_row (c d : Nat) (rows : List (List Byte × Bool)) (s : State) (k : Nat) (h : k < rows.length)
    (hl : rows[k].1.length = 512) : rowBytes (writeRows c d rows s) c (d + k) = rows[k].1 := by
  unfold writeRows each
  have key : ∀ (l : List (List Byte × Bool)) (n : Nat) (t : State) (j : Nat) (hj : j < l.length), l[j].1.length = 512 →
      rowBytes ((l.zipIdx n).foldl (fun s p => writeRow c (d + p.2) p.1.1 p.1.2 s) t) c (d + (n + j)) = l[j].1 := by
    intro l
    induction l with
    | nil => intro n t j hj; exact absurd hj (Nat.not_lt_zero _)
    | cons q l ih =>
      intro n t j hj hq
      rw [List.zipIdx_cons, List.foldl_cons]
      cases j with
      | zero =>
        have keep : ∀ (l : List ((List Byte × Bool) × Nat)) (t : State), (∀ q ∈ l, n < q.2) →
            rowBytes (l.foldl (fun s p => writeRow c (d + p.2) p.1.1 p.1.2 s) t) c (d + n) = rowBytes t c (d + n) := by
          intro l
          induction l with
          | nil => intro t _; rfl
          | cons x l ih2 =>
            intro t hx
            rw [List.foldl_cons, ih2 _ fun y hy => hx y (List.mem_cons_of_mem _ hy)]
            exact writeRow_other _ _ _ _ _ (by have := hx x List.mem_cons_self; omega)
        exact (keep (l.zipIdx (n + 1)) _ fun y hy => by have := List.le_snd_of_mem_zipIdx hy; omega).trans (writeRow_row _ _ _ _ _ hq)
      | succ j =>
        have := ih (n + 1) (writeRow c (d + n) q.1 q.2 t) j (by simpa using hj) (by simpa using hq)
        rw [show n + (j + 1) = n + 1 + j by omega]
        simpa using this
  simpa using key rows 0 s k h hl

end Sys2Proof.Machine
end

