-- ==== Sys2Proof/Laws/Yarile.lean ====
section
/-! SUPPORT. What the shared operations of Yarile requests do: a request is run, refused or left alone; a response leaves the rest of the machine as it was. -/
namespace Sys2Proof.Machine

/-- A request that no check refuses is run by its command on its header. -/
theorem run_of_accepts {r : CmdRow} {q : YReq} {range : Bool} {parts : List Nat} {objs : List Obj} {s : State}
    (f : Header → State → State) (h : accepts r q range parts objs s) :
    run r q range parts objs f s = f (reqHeader s q.fn q.slot) s := by
  obtain ⟨h1, h2, h3, h4⟩ := h
  simp [run, h1, h2, h3, h4]

/-- A request that a check refuses is answered with the check's status. -/
theorem run_of_refused {r : CmdRow} {q : YReq} {range : Bool} {parts : List Nat} {objs : List Obj} {s : State} {st : Nat}
    (f : Header → State → State) (h1 : slotSt s q.fn q.slot = 1) (h2 : autoBusy s = false) (h3 : (reqHeader s q.fn q.slot).opcode = r.op)
    (h4 : check s r q (reqHeader s q.fn q.slot) range parts objs = some st) :
    run r q range parts objs f s = respond q (reqHeader s q.fn q.slot) st [] s := by
  simp [run, h1, h2, h3, h4]

/-- A slot that is not BUSY is left alone. -/
theorem run_of_idle {r : CmdRow} {q : YReq} {range : Bool} {parts : List Nat} {objs : List Obj} {s : State}
    (f : Header → State → State) (h : slotSt s q.fn q.slot ≠ 1 ∨ autoBusy s = true) : run r q range parts objs f s = s := by
  rcases h with h | h <;> simp [run, h]

/-- The payload of an accepted request is in range. -/
theorem accepts_range {r : CmdRow} {q : YReq} {range : Bool} {parts : List Nat} {objs : List Obj} {s : State}
    (h : accepts r q range parts objs s) : range = true := by
  cases range with
  | true => rfl
  | false =>
    have := h.2.2.2
    simp only [check] at this
    repeat' split at this
    all_goals simp_all

/-- A request about a partition is run on the record of the partition. -/
theorem onPart_of_accepts {r : CmdRow} {q : YReq} {s : State} {p : PartRec} (f : Nat → PartRec → Header → State → State)
    (h : accepts r q (hdrPart s q < 16 && true) [hdrPart s q] (if [0x0209, 0x0404, 0x0405].contains r.op then [] else [.part (hdrPart s q)]) s)
    (hp : partRec s (hdrPart s q) = some p) : onPart r q f s = f (hdrPart s q) p (reqHeader s q.fn q.slot) s := by
  rw [onPart, onPartIf, run_of_accepts _ h, hp]

/-- A request about a model is run on its entry. -/
theorem onModel_of_accepts {r : CmdRow} {q : YReq} {hd : Word} {s : State} {m : Model} (f : Model → Header → State → State)
    (h : accepts r q true [] [.model hd.toNat] s) (hm : modelOf s hd.toNat = some m) :
    onModel r q hd f s = f m (reqHeader s q.fn q.slot) s := by
  rw [onModel, run_of_accepts _ h, hm]

/-- Without WAIT_ACTIVE a command whose effect includes RWS fields answers OK at once. -/
theorem okActive_now {q : YReq} {h : Header} (objs : List Obj) (fs : List Fld) (s : State) (hw : waitActive h = false) :
    okActive q h objs fs s = respond q h 0 [] s := by simp [okActive, hw]

end Sys2Proof.Machine
end

