-- ==== Sys2Proof/Tests/Slice0.lean ====
section
/-! SUPPORT. Tests of the model on single steps, and for every statement with hypotheses a state and operands that meet them. The
expected values come from the specification. -/
namespace Sys2Proof.Machine.Tests

set_option Elab.async false

/-! ### Small states -/

/-- Core 0 in a state. -/
def inState (n : Nat) (s : State) : State := set (F.CORE_CTL_STATE_STATE 0) n s

/-- Core 0 IDLE, and RUNNING its tick with a word at the program counter of bank 0. -/
def idle : State := inState 2 State.reset

def runs (w : Nat) : State :=
  let s := set (F.SEQ_STAT_PHASE_ST 0) 1 (inState 3 State.reset)
  { s with mem := { s.mem with prog := wrBytes [] (progAddr 0 0 0) (natLe 16 w) } }

/-- Core 0 issues. -/
def i0 : Issue := { core := 0, ecc := .clean, upset := none }

/-- A cell, a block, and operands of commands. -/
def cell0 : Cell :=
  { cls := 0, poison := false, late := false, kind := 0, ttl := 0, dst := 0, src := 0, pid := 0, dcore := 0, score := 0, win := 0, vc := 0
    slot := 0, divl := 0, gen := 0, ofs := 0, tk := 0, status := 0, line := 0, half := 0, tag := 0, payload := zeros 256 }

def block0 : BlockIn := { raw := zeros 320, bad := false, cw := none }

def plan0 : Plan :=
  { image := [], pd := 0, set := 0, id := 0, rev := 0, rows := 1, cols := 1, trays := 1, epoch := 0, period := 0, root := 0, standby := 0
    spareRows := 0, pkgs := [], switches := [] }

def img0 : ImgIn :=
  { bytes := [], part := 0, src := { kind := 0, addr := 0 }, nonce := 0, key := 0, bases := [0], dig := 0, stage := 0 }

def sched0 : SchedImg := { bytes := [], nonce := 0 }

def seg0 : SegIn :=
  { lcore := 0, seg := 0, aBase := 0, bBase := 0, rankM1 := 0, din := 0, dout := 0, alpha := 0, addr := 0, rows := [] }

def desc0 : Desc :=
  { kind := 0, cls := 0, prio := 0, keep := false, lateOk := false, omitStop := false, handle := 0, prompt := [], maxlen := 0, time := 0
    seed := 0, acct := 0, adpt := 0, stopsets := 0, nstop := 0, oring := 0, conv := 0, stops := [] }

def part0 : PartIn :=
  { pid := 0, owner := 0, members := [0], lcores := [], regions := [], bregs := [], kvSets := 0, pkgs := [], slots := [] }

def rcp0 : RcpIn := { ix := 0, ctl := 0, ascale := 0, wscale := 0, env := 0 }
def own0 : OwnIn :=
  { form := true, nImg := 0, nInst := 0, nMgmt := 0, seq := 0, dev := 0, key := 0, roots := [], owner := false, sig := true }
def auth0 : LcAuth := { form := true, src := 0, dst := 0, dev := 0, challenge := 0, owner := false, sig := true }
def start0 : StartIn :=
  { fail := none, challenge := 0, bist := { pass := true, failDom := 0, cov := 0, sig := 0, ms := 0 }, unsaved := [], mcodeBad := []
    countsLost := [], windows := [], spares := [], eraseFailed := [] }
def q0 : YReq := { fn := 0, slot := 0 }

/-! ### Ill-formed commands are refused, each by the check that it fails -/

theorem test_wf_accepts : (Instr.cellReceive 0 block0).wf = true ∧ (Instr.inputLoad 0 2559).wf = true ∧
    (Instr.planInstall q0 [] true).wf = true ∧ (Instr.modelLoad q0 img0).wf = true ∧ (Instr.schedLoad q0 sched0).wf = true ∧
    (Instr.partCreate q0 part0).wf = true ∧ (Instr.reqNew 0 desc0).wf = true := by decide +kernel

theorem test_wf_slots : (Instr.inputLoad 0 2560).wf = false ∧ (Instr.firingStart 0 2560).wf = false ∧
    (Instr.firingHandoff 0 2560).wf = false ∧ (Instr.firingRelease 0 2560).wf = false ∧ (Instr.goldenRefetch 0 1280 img0).wf = false := by
  decide +kernel

theorem test_wf_blocks : ([{ block0 with raw := [] }, { block0 with cw := some [0, 0, 0] }] : List BlockIn).any (fun b =>
    (Instr.cellReceive 0 b).wf) = false := by decide +kernel

theorem test_wf_notices : ([.entry 8192 (List.replicate 32 0), .entry 0 [], .entry 0 (List.replicate 32 (2 ^ 32)), .endEntry 8192 0 0,
    .endEntry 0 256 0, .endEntry 0 0 256, .bind 8192 0, .bind 0 4096, .unbind 8192 0, .unbind 0 4096, .prefill 8192 0 0,
    .prefill 0 (2 ^ 32) 0, .prefill 0 0 4096, .slot 64 0 0 0 0, .slot 0 65536 0 0 0, .slot 0 0 65536 0 0, .slot 0 0 0 4 0,
    .slot 0 0 0 0 2] : List Notice).any (fun x => (Instr.noticeReceived 0 0 x).wf) = false := by decide +kernel

theorem test_wf_images : let x := { img0 with bases := List.replicate 17 0 }
    ((Instr.modelLoad q0 x).wf || (Instr.modelSupply q0 0 x []).wf || (Instr.goldenRestore 0 (some x) []).wf ||
      (Instr.imageSourceRetry 0 (some x) []).wf || (Instr.goldenRefetch 0 0 x).wf) = false := by decide +kernel

theorem test_wf_starts : ([{ start0 with windows := List.replicate 5 { base := 0, size := 0, wr := false } },
    { start0 with spares := [0, 0, 0, 0] }] : List StartIn).any (fun x => (Instr.packageStart x).wf) = false := by decide +kernel

theorem test_wf_requests : (Instr.adapterLoad q0 0 0 [{ seg0 with rows := [0] }]).wf = false ∧
    (Instr.adapterReplace q0 0 0 [{ seg0 with rows := [0] }]).wf = false ∧
    (Instr.reqNew 0 { desc0 with nstop := 1 }).wf = false ∧ (Instr.reqContinue 0 { desc0 with nstop := 1, stops := [[]] }).wf = false ∧
    (Instr.reqNew 0 { desc0 with nstop := 1, stops := [List.replicate 17 0] }).wf = false ∧
    (Instr.partCreate q0 { part0 with members := [] }).wf = false ∧ (Instr.partCreate q0 { part0 with members := [1, 1] }).wf = false ∧
    (Instr.recipeSet q0 (List.replicate 97 (0, rcp0))).wf = false ∧ (Instr.stopsetSet q0 0 (List.replicate 31 0)).wf = false ∧
    (Instr.calRestore q0 0 0 0 []).wf = false ∧ (Instr.lcSet q0 6 auth0 0).wf = false ∧ (Instr.ownershipInstall q0 6 own0 0).wf = false ∧
    (Instr.portCmd q0 12 0).wf = false := by decide +kernel

/-! ### The sequencer -/

/-- A word of class `c` and operation `op`. -/
def wordOf (c op : Nat) : Nat := c + 16 * op

theorem test_vector_instructions_issue : ([0, 1, 2, 3, 4, 5, 6, 7, 8].all fun op => issues i0 3 op none (runs (wordOf 3 op))) = true ∧
    issues i0 3 9 none (runs (wordOf 3 9 + 2 ^ 84)) = true ∧ issues i0 3 0xB none (runs (wordOf 3 0xB)) = true ∧
    issues i0 3 0xA none (runs (wordOf 3 0xA + 2 ^ 47)) = true ∧ (runs 3).mem.spadBad = [] ∧ (runs 3).mem.spadPoison = [] ∧
    0 < vN (curWord (runs 3) 0) := by decide +kernel

theorem test_move_instructions_issue : issues i0 1 0 (some .fire) (runs (wordOf 1 0)) = true ∧
    ([0, 1, 2, 3, 4].all fun op => issues i0 4 op (some .move) (runs (wordOf 4 op))) = true := by decide +kernel

theorem test_unit_instructions_issue : ([1, 2, 3].all fun op =>
      let u := issued i0 (runs (wordOf 2 op))
      issues i0 2 op (some .acc) (runs (wordOf 2 op)) && !((core u 0).ops.any fun o => o.unit == .acc) &&
        !((core u 0).firings.any fun f => owes f && accNames (wordOf 2 op) f.par.accSet)) = true ∧
    errorFree i0 = true ∧
    ([0, 1, 2].all fun op => issues i0 7 op (some .attn) (runs (wordOf 7 op))) = true ∧
    ([0, 1].all fun op => issues i0 8 op none (runs (wordOf 8 op))) = true ∧
    ([0, 1, 2].all fun op => issues i0 5 op none (runs (wordOf 5 op))) = true ∧
    get (set (F.SPAD_WIN_STATE 0 0) 1 (runs (wordOf 5 1))) (F.SPAD_WIN_STATE 0 0) = 1 := by decide +kernel

/-- Core 0 waits for window 0, which is HELD. -/
def held : State := set (F.SPAD_WIN_STATE 0 0) 2 (runs (wordOf 6 1))

theorem test_waits_issue :
    let dl := wordOf 6 0 + 2 ^ 38 + 2 ^ 55
    (issues i0 6 0 none (runs (wordOf 6 0)) = true ∧ waitEvtMet (runs (wordOf 6 0)) 0 (wordOf 6 0) = true) ∧
    (issues i0 6 1 none held = true ∧ waitWinMet held 0 (curWord held 0) = true) ∧
    (issues i0 6 (iOp dl) none (runs dl) = true ∧ waitMet (runs dl) 0 dl = false ∧ bits dl 55 16 ≠ 0 ∧
      (core (runs dl) 0).tickStart + 4 * bits dl 55 16 < tickEnd (runs dl) 0) := by decide +kernel

/-- Core 0 waits for its firing before END retires. -/
def waiting : State :=
  updCore 0 (fun k => { k with ops := [{ id := 0, unit := .fire, kind := .fire, sig := none, left := 1, got := [] }] }) (runs 0)

theorem test_end_and_illegal_issue : issues i0 0 0 none (runs 0) = true ∧ allDone (runs 0) 0 = true ∧ issues i0 0 0 none waiting = true ∧
    allDone waiting 0 = false ∧ get (set (F.SEQ_STAT_PHASE_ST 0) 2 (runs 0)) (F.SEQ_STAT_PHASE_ST 0) = 2 ∧
    (issuing (runs 0xF) 0 = true ∧ wordIllegal i0 (runs 0xF) = true) ∧
    (core (updCore 0 (fun k => { k with pastEnd := true }) (runs 0)) 0).pastEnd = true := by decide +kernel

/-- Table 6.2, R179: END at the program counter retires: PHASE_ST of the core is 3. -/
theorem test_end_retires : (match exec (.endOp i0) (runs 0) with | .next t => get t (F.SEQ_STAT_PHASE_ST 0) | _ => 0) = 3 := by decide +kernel

/-- R180: word 0xF has no class; the core records program counter 0 and stops issuing. -/
theorem test_illegal_stops : (match exec (.illegalInstruction i0) (runs 0xF) with
    | .next t => (get t (F.SEQ_ILLEGAL_CNT 0), issuing t 0) | _ => (0, true)) = (1, false) := by decide +kernel

/-- IEEE 754: 1.0 + 1.0 = 2.0, 2^24 + 1.0 is 2^24 by the tie to even, and the largest number doubles to infinity (Table 6.7). -/
theorem test_add_rounds : fadd 0x3F800000 0x3F800000 = 0x40000000 ∧ fadd 0x4B800000 0x3F800000 = 0x4B800000 ∧
    fadd 0x7F7FFFFF 0x7F7FFFFF = 0x7F800000 := by decide +kernel

/-! ### Arrays, recipes, calibration and steeps -/

def par0 : FireParams :=
  { slot := 7, leaven := false, accEn := true, accSet := 0, ri := 0, inRow := 0, descRow := 0, descIdx := 0, op := 0, pc := 0, idx := 0 }

def fire0 : Firing :=
  { par := par0, stage := .queued, arr := none, row := [], desc := [], poison := false, rcp := none, refused := false, zero := false
    w2 := false, trims := [], out := none, dead := false, t0 := 0, slow := false }

/-- A recipe in A8 and the descriptor flags that agree with it. -/
def rcpA8 : Recipe := { a4 := false, range := 0, blk := 0, fine := false, lt := 0, layer := 0, ascale := 0, wscale := 0 }
def fits (r : Recipe) : List Byte := List.replicate 11 0 ++ [BitVec.ofNat 8 ((if r.a4 then 1 else 0) + if r.fine then 2 else 0)] ++ zeros 52

/-- Array 5 of core 0 is ACTIVE and holds slot 7; the core has one firing. -/
def fires (f : Firing) : State :=
  updCore 0 (fun k => { k with firings := [f] }) (setAct (F.ARR_CTL_SLOT 0 5) 7 (set (F.ARR_STAT_STATE 0 5) 4 (runs 0)))

theorem test_firings_load_and_start :
    let q := { fire0 with stage := .queued }
    let l := { fire0 with stage := .loaded, arr := some 5, row := zeros 512, desc := fits (recipe State.reset 0 0) }
    ((core (fires q) 0).firings.find? (fun f => f.stage == .queued) = some q ∧ q.par.slot = 7 ∧ holders (fires q) 0 7 = [5] ∧ accWaits (fires q) 0 q = false ∧
      ((core (fires q) 0).firings.filter fun x => x.arr == some 5 && x.stage != .queued && x.stage != .released).length < 2) ∧
    ((core (fires l) 0).firings.find? (fun f => f.stage == .loaded && f.par.slot == 7) = some l ∧ holders (fires l) 0 7 = [5] ∧
      ((core (fires l) 0).firings.any fun x => x.arr == l.arr && l.arr.isSome && (x.stage == .running || x.stage == .handed)) = false ∧
      arrState (fires l) 0 5 = 4 ∧ refused97 l (recipe (fires l) 0 0) = false) ∧
    arrState (set (F.ARR_STAT_STATE 0 5) 5 (fires l)) 0 5 ≠ 4 ∧ holders (runs 0) 0 7 = [] := by decide +kernel

theorem test_firings_end :
    let r := { fire0 with stage := .running, arr := some 5, rcp := some rcpA8, row := zeros 512, desc := fits rcpA8 }
    (before (fires r) 0 (r.t0 + handOffset r rcpA8) = true ∧
      (core (fires r) 0).firings.find? (fun f => f.stage == .running && f.par.slot == 7) = some r) ∧
    (let f := { r with refused := true }
     (core (fires f) 0).firings.find? (fun f => f.stage == .running && f.par.slot == 7) = some f) ∧
    (let f := { r with dead := true }
     (core (fires f) 0).firings.find? (fun f => f.stage == .running && f.par.slot == 7) = some f) ∧
    (let f := { r with refused := true, dead := true }
     (core (fires f) 0).firings.find? (fun f => f.stage == .running && f.par.slot == 7) = some f) ∧
    (let f := { r with zero := true, dead := true }
     (core (fires f) 0).firings = [f] ∧ f.latched = false ∧ f.t0 + handOffset f rcpA8 < 2 ^ 64 ∧ before (fires f) 0 (f.t0 + handOffset f rcpA8) = true) ∧
    (let f := { r with stage := .handed }
     before (fires f) 0 (f.t0 + endOffset f rcpA8) = true ∧
      (core (fires f) 0).firings.find? (fun f => f.stage == .handed && f.par.slot == 7) = some f) := by decide +kernel

/-- R97: a firing on an array that is RETIRED is refused: ARR_STAT.FIRE_REFUSED reads 1. -/
theorem test_firing_refused :
    let l := { fire0 with stage := .loaded, arr := some 5, row := zeros 512, desc := zeros 64 }
    (match exec (.firingStart 0 7) (set (F.ARR_STAT_STATE 0 5) 5 (fires l)) with
      | .next t => get t (F.ARR_STAT_FIRE_REFUSED 0 5) | _ => 0) = 1 := by decide +kernel

def entry0 : ProofEntry :=
  { slot := 0, arr := 0, ri := 0, fine := false, leaven := false, range := 0, a4 := false, w2 := false, row := [], shifts := [], codes := []
    flagged := false, time := 0, gold := [], regionOk := true }

/-- Core 0 reaches stack 0 through router 1, and bank 0 of the stack is ON; line 0 is in its merge window. -/
def routed (s : State) : State :=
  s |> set (F.RTR_ROUTE_OUT 0 20) 3 |> set (F.RTR_ROUTE_OUT 1 20) 5 |> set (F.RTR_ROUTE_OUT 1 0) 4 |> set (F.RTR_ROUTE_OUT 0 0) 0
    |> setBit (F.STK_BANK_ON_ON 0) 0 true |> setAct (F.STK_CTL_MERGE_EN 0) 1

def merge0 : Merge := { line := 0, data := zeros 512, status := 0, poison := false, rqs := [] }

def merges (m : Merge) (s : State) : State := updStk 0 (fun k => { k with merges := [m] }) (routed s)

/-- A core whose proof unit holds entries. -/
def proves (a b : Option ProofEntry) : State := updCore 0 (fun k => { k with computing := a, waiting := b }) idle

theorem test_array_and_proof_hypotheses :
    (coreState idle 0 = 2 ∧ coreState (runs 0) 0 = 3) ∧ arrState (set (F.ARR_STAT_STATE 0 5) 3 idle) 0 5 = 3 ∧ arrState idle 0 5 ≠ 0 ∧
    (coreUp idle 0 = true ∧ trimGroup idle .host 0 0 ≤ 8 ∧ trimGroup (set (F.ARR_ACC_TRIM_GROUP 0 0) 8 idle) .host 0 0 = 8) ∧
    ([proves (some entry0) none, proves none (some entry0)].all fun s =>
      let l := goldAddr s 0 entry0.slot / 512 + (0 : BitVec 8).toNat
      entry0.regionOk && !(readLine 0 l true (merges merge0 s)).1.2.2 &&
        (readLine 0 l true (merges { merge0 with poison := true } s)).1.2.2) = true ∧
    (core (proves (some entry0) none) 0).computing = some entry0 ∧ (core (proves none (some entry0)) 0).waiting = some entry0 ∧
    (core (proves (some { entry0 with regionOk := false }) none) 0).computing = some { entry0 with regionOk := false } ∧
    (let full := { entry0 with gold := List.replicate 256 (0, []) }
     (core (proves none (some full)) 0).waiting = some full ∧ (core (proves (some full) none) 0).computing = some full ∧ (core (proves none (some full)) 0).computing = none ∧ goldFull full = true ∧
      full.arr < 2624 ∧ full.ri < 256) := by decide +kernel

/-- Table 2.14, R84: VERIFIED makes an UNVERIFIED array of an IDLE core READY (4), RETIRE makes it RETIRED (5). -/
theorem test_array_commands :
    let s := set (F.ARR_STAT_STATE 0 5) 3 idle
    (match exec (.verified 0 5 7 false) s with | .next t => arrState t 0 5 | _ => 0) = 4 ∧
    (match exec (.retire 0 5 7 false) s with | .next t => arrState t 0 5 | _ => 0) = 5 := by decide +kernel

def tick (k : Nat) (s : State) : State := setB F.TB_STAT_TICK_ON true (set F.TB_TICK_NUM_K k s)

theorem test_leaven_and_calibration_hypotheses :
    (windowEnd (tick (2 ^ 12) idle) 0 = some (2 ^ (12 - get idle (F.LEAVEN_CTL_WIN_LOG2 0)) - 1) ∧
      get (tick (2 ^ 12) (set (F.LEAVEN_WIN_NUM_NUM 0) 9 idle)) (F.LEAVEN_WIN_NUM_NUM 0) = 9) ∧
    (8 ≤ bits (8 : Nat) 0 4 ∧ ¬ 8 ≤ bits (7 : Nat) 0 4) ∧
    (core (updCore 0 (fun k => { k with calCmd := some { op := 1, set := 0, target := false, arr := none } }) idle) 0).calCmd.isSome = true ∧
    flag idle (F.CAL_CTL_INTERP 0) = false ∧
    (let s := setB (F.CAL_CTL_INTERP 0) true (updCore 0 (fun k => { k with calTrig := true }) idle)
     (core s 0).calTrig = true ∧ (core s 0).calPass = none ∧ flag s (F.CAL_CTL_INTERP 0) = true) ∧
    (core (updCore 0 (fun k => { k with calPass := some { temp := 5, t0 := 0, next := 0, slow := false } }) idle) 0).calPass.isSome = true ∧
    (let s := tick (2 ^ 20) idle
     coreUp s 0 = true ∧ flag s F.TB_STAT_TICK_ON = true ∧ get s F.TB_TICK_NUM_K % 2 ^ get s (F.CAL_CTL_DMON_LOG2 0) = 0 ∧ get s F.TB_TICK_NUM_K ≠ 0) ∧
    (let s := updCore 0 (fun k => { k with calCmd := some { op := 2, set := 0, target := false, arr := some 5 } }) (set (F.ARR_STAT_STATE 0 5) 2 idle)
     arrState s 0 5 = 2 ∧ (core s 0).calPass = none) ∧
    actB idle (F.CAL_CTL_TRACK_EN 0) = false ∧ actB idle (F.CAL_CTL_DMON_EN 0) = false ∧ calRunning (runs 0) 0 = true ∧
    tempFar (set (F.CAL_TEMP_T_NOW 0) 4096 idle) 0 0 = true ∧
    (calRunning idle 0 = false ∧ calPage idle .host 0 * 0x8000 + 4 * (8191 : Nat) < 0xA4000) := by decide +kernel

theorem test_calibration_command_hypotheses :
    (core idle 0).calCmd = none ∧ actv idle (F.ARR_CTL_SLOT 0 2623) = 0xFFF ∧ arrState idle 0 2623 ≠ 0 ∧ arrState idle 0 2623 ≠ 2 ∧
    clearRange 2623 false = some [2623] ∧ clearRange 2624 false = none := by decide +kernel

def batch0 : Batch := { count := 64, list := 0, res := 0, jid := 0, started := false, entries := [], startTick := 0 }
def stEntry0 : StEntry := { arr := 0, op := 1, w2 := false, lc := false, gold := 0, hdr := 0, prev := 3, status := none, data := [], exc := false, intr := false }

/-- A core with steep batches. -/
def steeps (a b : Option Batch) : State := updCore 0 (fun k => { k with running := a, pend := b }) idle

theorem test_steep_hypotheses :
    (core (steeps none none) 0).running = none ∧ ((core (steeps (some batch0) none) 0).running.isSome = true ∧
      (core (steeps (some batch0) none) 0).pend = none) ∧ (core (steeps (some batch0) (some batch0)) 0).pend.isSome = true ∧
    ([1, 2, 3].all fun op =>
      let b := { batch0 with started := true, entries := [{ stEntry0 with op := op }] }
      batchOp b == op && (core (steeps (some b) none) 0).running == some b) = true ∧
    2 ^ 24 ≤ get (tick (2 ^ 24) (steeps (some batch0) none)) F.TB_TICK_NUM_K := by decide +kernel

/-- R146: a count of 65 is answered with INVALID_ARG, 64 is taken. -/
theorem test_steep_go :
    (match exec (.steepGo 0 65) idle with | .next t => get t (F.CORE_CTL_STEEP_STAT_LAST 0) | _ => 0) = 3 ∧
    (match exec (.steepGo 0 64) idle with | .next t => ((core t 0).running.map fun b => b.count) | _ => none) = some 64 := by decide +kernel

/-! ### Core control, mesh and stacks -/

theorem test_core_control_hypotheses :
    coreGood (inState 0 State.reset) 0 = true ∧ coreGood State.reset 19 = true ∧ coreState (inState 0 State.reset) 0 = 0 ∧
    (core State.reset 0).rampAt = none ∧ coreState idle 0 = 2 ∧ coreState (inState 4 State.reset) 0 = 4 ∧
    (let s := setB (F.CORE_CTL_STATE_MCODE_OK 0) true (setB (F.SEQ_BANK_DESC_VALID 0 0) true idle)
     flag s (F.CORE_CTL_STATE_MCODE_OK 0) = true ∧ flag s (F.SEQ_BANK_DESC_VALID 0 (actv s (F.SEQ_CTL_BANK 0))) = true) ∧
    netHeld State.reset = false ∧ netHeld (setB F.MBX_CTL_MINIMAL true State.reset) = true ∧
    coreState (runs 0) 0 = 3 ∧ coreUp idle 0 = true ∧ coreUp State.reset 0 = false := by decide +kernel

theorem test_core_reset_hypotheses :
    (let s := updCore 0 (fun k => { k with draining := true }) (inState 1 State.reset)
     (core s 0).draining = true ∧ coreInFlight s 0 = false ∧ s.mem.wf = true) ∧
    (coreState (inState 1 State.reset) 0 = 1 ∧ (core (inState 1 State.reset) 0).draining = false) ∧
    (let s := updCore 0 (fun k => { k with rampAt := some 5 }) State.reset
     (core s 0).rampAt = some 5 ∧ (core s 0).ramping = false) ∧
    (core (updCore 0 (fun k => { k with rampAt := some 5, ramping := true }) State.reset) 0).ramping = true := by decide +kernel

/-- Table 6.20: RESET of an IDLE core puts it into RESET (1); a core that is OFF does not take RUN, which is counted. -/
theorem test_core_commands :
    (match exec (.coreCmdReset 0) idle with | .next t => coreState t 0 | _ => 9) = 1 ∧
    (match exec (.run 0) State.reset with | .next t => get t (F.CORE_CTL_CMD_REJ_CNT 0) | _ => 0) = 1 := by decide +kernel

def write0 : WinWrite := { core := 0, win := 63, gen := 9, ofs := 1, sched := true, data := zeros 256, origin := none }
def packet0 (b : Body) : Packet :=
  { src := 1, dst := [0], pos := 0, via := 0, arrived := true, vc := .land, poison := false, esc := false, grace := false, op := none, body := b }

/-- A window write has arrived at core 0, whose window 63 is OPEN with one row. -/
def landing : State :=
  { set (F.SPAD_WIN_STATE 0 63) 1 (set (F.SPAD_WIN_GEN 0 63) 9 idle) with mesh := [packet0 (.winWrite write0)] }

theorem test_landing_hypotheses :
    takeFirst (fun p => p.arrived && p.pos == 0 && match p.body with | .winWrite _ => true | _ => false) landing.mesh =
      some (packet0 (.winWrite write0), []) ∧ landCheck landing 0 write0 = none ∧ write0.data.length = 256 ∧ write0.win < 64 ∧
    (landCheck landing 0 { write0 with ofs := 2 }).isSome = true ∧ (landCheck landing 0 { write0 with gen := 8 }).isSome = true ∧
    (landCheck (inState 4 landing) 0 write0).isSome = true ∧ (landCheck (inState 1 landing) 0 write0).isSome = true := by decide +kernel

/-- R197, Table 6.12: an offset past the window is counted in DROP_WINRANGE; the last one inside lands. -/
theorem test_landing :
    (match exec (.windowWriteLanding 0) landing with | .next t => get t (F.SPAD_WIN_COUNT 0 63) | _ => 0) = 1 ∧
    (match exec (.windowWriteLanding 0) { landing with mesh := [packet0 (.winWrite { write0 with ofs := 2 })] } with
      | .next t => get t (F.CORE_CTL_DROP_WINRANGE_CNT 0) | _ => 0) = 1 := by decide +kernel

/-- A request of core 0 waits in its router, which sends it by output `o`. -/
def forwards (o : Nat) : State :=
  { set (F.RTR_ROUTE_OUT 0 30) o (setB (F.RTR_STAT_EN_ACT 0) true State.reset) with
    mesh := [{ packet0 (.readReq 0 (.core 0 0 0 0) true) with dst := [30], vc := .req, arrived := false }] }

theorem test_forward_hypotheses :
    ([0, 2, 3, 5].all fun o =>
      let p := { packet0 (.readReq 0 (.core 0 0 0 0) true) with dst := [30], vc := .req, arrived := false }
      flag (forwards o) (F.RTR_STAT_EN_ACT 0) && !inSafe (forwards o) && (forwards o).flt.inj.isNone &&
        (inputHeads (forwards o) 0 .req false).find? (fun p => (heldFlit (forwards o) 0 p).isNone) == some p && p.op.isNone &&
        routeOut (forwards o) 0 30 == o && !flag (forwards o) (F.RTR_ROUTE_ESC 0 30) &&
        !yields (forwards o) 0 p) = true ∧
    (match hopOf (forwards 3) 0 3 with | .router _ => true | _ => false) = true ∧
    (match hopOf (forwards 5) 0 5 with | .crust _ => true | _ => false) = true ∧
    (match hopOf (forwards 0) 0 0 with | .core => true | _ => false) = true := by decide +kernel

/-- Eight requests wait before the flit of core 0, and a higher channel's flit waits for its output. -/
theorem test_flit_waits_hypotheses :
    let p := { packet0 (.readReq 0 (.core 0 0 0 0) true) with dst := [30], vc := .req, arrived := false }
    let full := { forwards 3 with mesh := p :: List.replicate 8 { p with pos := 1, via := 0 } }
    let late := { forwards 3 with mesh := [p, { p with vc := .ctl }] }
    let low := { forwards 3 with mesh := [{ p with vc := .bulk }, p] }
    heldFlit (forwards 3) 0 p = none ∧ heldFlit full 0 p = some (F.RTR_CREDIT_STALL_CYC_CNT 0) ∧
    hopOf (forwards 3) 0 3 = .router 1 ∧
    (inputHeads full 0 .req false).head? = some p ∧ (inputHeads full 0 .req false).find? (fun p => (heldFlit full 0 p).isNone) = none ∧
    (inputHeads late 0 .req false).find? (fun p => (heldFlit late 0 p).isNone) = some p ∧ yields late 0 p = true ∧ heldFlit late 0 p = none ∧ heldFlit low 0 { p with vc := .bulk } = none ∧
    yields low 0 { p with vc := .bulk } = true := by decide +kernel

theorem test_router_hypotheses :
    takeFirst (fun p => p.arrived && p.pos == 0 && match p.body with | .nack _ => true | _ => false) [packet0 (.nack 3)] =
      some (packet0 (.nack 3), []) ∧
    routerPresent State.reset 0 = true ∧ flag State.reset (F.RTR_CTL_EN 0) = false ∧
    routerPresent (setB (F.RTR_STAT_PRESENT 0) false State.reset) 0 = false := by decide +kernel

/-- Stack 0 is READY with bank 0 ON, and a request waits at it. -/
def ready (b : Body) : State :=
  { setBit (F.STK_BANK_ON_ON 0) 0 true (set (F.STK_STAT_STATE 0) 3 State.reset) with
    mesh := [{ packet0 b with pos := stkNode 0, vc := .req, grace := true }] }

theorem test_stack_write_hypotheses :
    let b := Body.writeReq 0 480 (zeros 32) (.core 0 0 0 0)
    stkReady (ready b) 0 = true ∧ (nextReq (ready b) 0 0 true).map (fun p => p.body) = some b ∧ 0 < lineCount ∧ inSafe (ready b) = false ∧
    bankServes (ready b) 0 (lineBank 0) true = true ∧ bankServes (ready b) 0 (lineBank 0) false = false ∧ partial32 480 32 = false ∧ partial32 480 31 = true ∧
    lineBank (lineCount - 1) = 63 := by decide +kernel

theorem test_stack_read_hypotheses :
    let b := Body.readReq 0 (.core 0 0 0 0) true
    let s := updStk 0 (fun k => { k with merges := [merge0] }) (setAct (F.STK_CTL_MERGE_EN 0) 1 (ready b))
    (nextReq (ready b) 0 0 false).map (fun p => p.body) = some b ∧ (ready b).flt.inj = none ∧
    actB (setAct (F.STK_CTL_MERGE_EN 0) 0 (ready b)) (F.STK_CTL_MERGE_EN 0) = false ∧
    (actB s (F.STK_CTL_MERGE_EN 0) = true ∧ (stk s 0).merges.find? (fun m => m.line == 0) = some merge0 ∧ mergeOf s 0 0 = some merge0) ∧
    (stk s 0).merges.find? (fun m => lineChannel m.line == 0) = some merge0 ∧ stkReady s 0 = true ∧
    actB (setAct (F.STK_CTL_SCRUB_EN 0) 1 s) (F.STK_CTL_SCRUB_EN 0) = true ∧ bankOn s 0 (lineBank (3 * (stk s 0).scrub)) = true ∧
    bankOn (setBit (F.STK_BANK_ON_ON 0) 0 false s) 0 0 = false ∧ linePoison s 0 = false ∧
    linePoison { s with mem := { s.mem with stkPoison := [0] } } 0 = true ∧
    takeFirst (fun p => p.arrived && p.pos == 0 && isReply p) [packet0 (.readData 0 (zeros 512) [.core 0 0 0 0] 0)] =
      some (packet0 (.readData 0 (zeros 512) [.core 0 0 0 0] 0), []) ∧
    takeFirst (fun p => p.arrived && p.pos == 0 && isReply p) [packet0 (.writeAck 0 (.core 0 0 0 0) 0)] =
      some (packet0 (.writeAck 0 (.core 0 0 0 0) 0), []) := by decide +kernel

theorem test_bank_hypotheses :
    let s := setBit (F.STK_BANK_ON_ON 0) 63 true State.reset
    (bankHeld s 63 = false ∧ bankOn s 0 63 = true ∧ (stk s 0).bank = none) ∧
    bankOn (setBit (F.STK_BANK_ON_ON 0) 63 false State.reset) 0 63 = false ∧
    (stk (updStk 0 (fun k => { k with bank := some (63, false) }) s) 0).bank = some (63, false) ∧
    bankHeld (setAct (F.RTR_REGION_VALID 0 0) 1 (setAct (F.RTR_REGION_SIZE 0 0) 1 s)) 0 = true ∧
    (stk (updStk 0 (fun k => { k with bank := some (63, true) }) s) 0).bank = some (63, true) := by decide +kernel

/-- R247: a write of 32 bytes at offset 480 of line 0 reads back. -/
theorem test_stack_write :
    (match exec (.stackWrite 0 0 .clean 0) (ready (.writeReq 0 480 (List.replicate 32 7) (.core 0 0 0 0))) with
      | .next t => rdBytes t.mem.stk 479 34 | _ => []) = [0] ++ List.replicate 32 7 ++ [0] := by decide +kernel

/-! ### Ports and time -/

/-- Port 0 in a state, its link locked. -/
def portIn (n : Nat) : State := setB (F.FAB_CTL_LOCK 0) true (set (F.FAB_STAT_STATE 0) n State.reset)

/-- Port 11 in a state. -/
def port11 (n : Nat) : State := set (F.FAB_STAT_STATE 11) n State.reset

def auth1 : Cell := { cell0 with cls := 2, kind := 0xB }
def stores (x : Cell) (pool n : Nat) : State := updPort 0 (fun k => { k with ingress := [(pool, 0, x)] }) (portIn n)

theorem test_port_hypotheses :
    pState State.reset 0 = 0 ∧ ([1, 2, 3, 4, 5, 6].all fun n => pState (port11 n) 11 == n) = true ∧
    flag (port11 1) (F.FAB_STAT_SIGNAL 11) = false ∧ flag (setB (F.FAB_STAT_SIGNAL 11) true (port11 1)) (F.FAB_STAT_SIGNAL 11) = true ∧
    (port (updPort 0 (fun k => { k with retraining := true }) (portIn 3)) 0).retraining = true ∧
    (takeStored (fun x => isAuth x.2.2) (port (stores auth1 3 2) 0).ingress = some ((3, 0, auth1), []) ∧ pState (stores auth1 3 2) 0 = 2) ∧
    (port (updPort 0 (fun k => { k with cwInt := 2 ^ 24 }) (portIn 3)) 0).cwInt = 2 ^ 24 ∧ (port (portIn 3) 0).cwInt = 0 ∧
    (port (portIn 3) 0).winNum = quarWindow (portIn 3) 0 ∧
    (port (updPort 0 (fun k => { k with winNum := 1 }) (portIn 3)) 0).winNum ≠ quarWindow (portIn 3) 0 ∧
    (pState (port11 1) 11 ≠ 0 ∧ flag (setB (F.FAB_CTL_EN 11) true (port11 1)) (F.FAB_CTL_EN 11) = true) := by decide +kernel

/-- Table 9.2: a signal moves a port from MISSING (5) to TRAINING (1); ADMIT of a port in AUTH admits it (3), of one in TRAINING is
counted. -/
theorem test_port_states :
    (match exec (.portSignalDetect 0) (portIn 5) with | .next t => pState t 0 | _ => 9) = 1 ∧
    (match exec (.portAdmit 0) (portIn 2) with | .next t => pState t 0 | _ => 9) = 3 ∧
    (match exec (.portAdmit 0) (portIn 1) with | .next t => (pState t 0, get t (F.FAB_CFG_REJ_CNT 0)) | _ => (9, 9)) = (1, 1) := by decide +kernel

def pkg0 (role : Nat) : PlanPkg :=
  { dev := get State.reset F.GLB_DEV_ID_ID, addr := 0, role := role, parent := 0, backup := 15, ports := [] }
def planned (role : Nat) (s : State) : State := updFw (fun k => { k with plan := some { plan0 with pkgs := [pkg0 role] } }) s

theorem test_plan_hypotheses :
    ((planned 0 State.reset).fw.plan.isSome = true ∧ ∀ q : PortIx, pState (planned 0 State.reset) q ≠ 1 ∧ pState (planned 0 State.reset) q ≠ 2) ∧
    (updFw (fun k => { k with routesDue := true }) State.reset).fw.routesDue = true ∧
    (ownRole (planned 1 State.reset) = 1 ∧ NSet.has (planned 1 State.reset).fw.missing 7 = false ∧
      NSet.has (updFw (fun k => { k with missing := NSet.add k.missing 7 }) (planned 1 State.reset)).fw.missing 7 = true ∧
      (planned 1 State.reset).fw.subst = none) ∧ ownRole State.reset ≠ 1 ∧
    (plan0.standby = ownAddr State.reset ∧ sync (set F.TB_STAT_SYNC 3 State.reset) = 3) := by decide +kernel

/-- A function of a number that is evaluated first, and the CRC evaluated byte by byte. -/
def strict (f : Nat → Nat) : Nat → Nat
  | 0 => f 0
  | n + 1 => f (n + 1)

theorem strict_eq (f : Nat → Nat) (n : Nat) : strict f n = f n := by cases n <;> rfl

/-- 2 to the power of a number, by doubling. -/
def dbl : Nat → Nat
  | 0 => 1
  | k + 1 => dbl k + dbl k

def crcN : Nat → List Byte → Nat → Nat
  | 0, [], c => c
  | 0, b :: _, c => (List.range 8).foldl (fun c _ => strict crcStep c) (c ^^^ b.toNat)
  | k + 1, l, c => strict (crcN k (l.drop (dbl k))) (crcN k l c)

theorem crcN_eq (k : Nat) : ∀ l c, crcN k l c = (l.take (dbl k)).foldl crcByte c := by
  induction k with
  | zero => intro l c; cases l <;> simp only [crcN, strict_eq, dbl, List.take, List.foldl, crcByte]
  | succ k ih => intro l c; simp only [crcN, strict_eq, ih, dbl]; rw [List.take_add, List.foldl_append]

theorem crc32_on : crc32 = fun l => (l.drop 256).foldl crcByte (crcN 8 l 0xFFFFFFFF) ^^^ 0xFFFFFFFF := by
  funext l
  have e : dbl 8 = 256 := rfl
  rw [crcN_eq, e, ← List.foldl_append, List.take_append_drop]
  rfl

/-- The check value of CRC-32: the bytes of "123456789" give 0xCBF43926. -/
theorem test_crc : crc32 [0x31, 0x32, 0x33, 0x34, 0x35, 0x36, 0x37, 0x38, 0x39] = 0xCBF43926 := by decide +kernel

/-- CRC-32 of 256 zero bytes. -/
theorem test_crc_zeros : crc32 (zeros 256) = 0xd968558 := by rw [crc32_on]; decide +kernel

/-- The bytes of a block with a cell whose payload is zero (Tables 9.3, 9.4). -/
def blockOf (q : Nat) (x : Cell) : BlockIn :=
  let tr := natLe 4 0xd968558 ++ natLe 2 q ++ zeros 2 ++ [1] ++ zeros 19
  { block0 with raw := cellHeader x ++ natLe 4 (crc32 (cellHeader x)) ++ zeros 256 ++ tr ++ natLe 4 (crc32 tr) }

/-- A block that brings a cell, as it is read. -/
def gotCell (q : Nat) (x : Cell) (e : BlockErr) : RxBlock :=
  { err := e, cw := none, ack := 0, nak := false, credits := List.replicate 6 0, cell := some (q, false, x) }

theorem payload_zero (q : Nat) (x : Cell) (h : (cellHeader x).length = 28) : ((blockOf q x).raw.drop 32).take 256 = zeros 256 := by
  have e : (blockOf q x).raw = (cellHeader x ++ natLe 4 (crc32 (cellHeader x))) ++ (zeros 256 ++
    (natLe 4 0xd968558 ++ natLe 2 q ++ zeros 2 ++ [1] ++ zeros 19 ++ natLe 4 (crc32 (natLe 4 0xd968558 ++ natLe 2 q ++ zeros 2 ++ [1] ++ zeros 19)))) := by
    simp only [blockOf, List.append_assoc]
  have l : (cellHeader x ++ natLe 4 (crc32 (cellHeader x))).length = 32 := by simp [h, natLe]
  rw [e, List.drop_left' l, List.take_left' (by rw [zeros, List.length_replicate])]

/-- Tables 9.3 and 9.4: the bytes of a block read back as its cell. -/
theorem test_block_reads : readBlock (blockOf 1 auth1) = gotCell 1 auth1 .clean ∧ readBlock (blockOf 1 cell0) = gotCell 1 cell0 .clean := by
  constructor
  · simp only [readBlock, errOf, payload_zero 1 auth1 (by decide +kernel), test_crc_zeros]; decide +kernel
  · simp only [readBlock, errOf, payload_zero 1 cell0 (by decide +kernel), test_crc_zeros]; decide +kernel

/-- A block's raw bytes with a cell of zero payload: header bytes, payload CRC, and a trailer that fits. -/
def rawOf (hd : List Byte) (pcrc : Nat) : List Byte :=
  let tr := natLe 4 pcrc ++ natLe 2 1 ++ zeros 2 ++ [1] ++ zeros 19
  hd ++ zeros 256 ++ (tr ++ natLe 4 (crc32 tr))

theorem rawOf_payload (hd : List Byte) (c : Nat) (h : hd.length = 32) : ((rawOf hd c).drop 32).take 256 = zeros 256 := by
  rw [rawOf, List.append_assoc, List.drop_left' h, List.take_left' (by rw [zeros, List.length_replicate])]

/-- A cell whose header is not that of its HCRC, and one whose payload is not that of its PCRC. -/
theorem test_cell_errors : errOf { block0 with raw := rawOf (zeros 32) 0xd968558 } = .hcrc ∧
    errOf { block0 with raw := rawOf (zeros 32) 0 } = .pcrc := by
  constructor
  · simp only [errOf, rawOf_payload (zeros 32) _ (by decide +kernel), test_crc_zeros]; decide +kernel
  · simp only [errOf, rawOf_payload (zeros 32) _ (by decide +kernel), test_crc_zeros]; decide +kernel

/-- An idle block is clean; a flipped bit of its trailer, or an uncorrectable codeword, is found. -/
theorem test_idle_block :
    let b := { block0 with raw := blockBytes { cell := none, ack := 5, nak := true, credits := [1, 2, 3, 4, 5, 6] } }
    (readBlock b = { err := .clean, cw := none, ack := 5, nak := true, credits := [1, 2, 3, 4, 5, 6], cell := none }) ∧
    errOf { b with raw := b.raw.set 300 9 } = .tcrc ∧ errOf { b with bad := true } = .uncorrectable := by decide +kernel

theorem test_cell_hypotheses :
    linkUp (portIn 2) 0 = true ∧ linkUp (portIn 3) 0 = true ∧ linkUp (portIn 4) 0 = true ∧ (portIn 3).flt.inj = none ∧
    (let s1 := takeTrailer 0 (gotCell 1 cell0 .clean) (countCw 0 none false (portIn 3))
     1 = seqNext (port s1 0).rxSeq ∧
       1 ≠ seqNext (port (takeTrailer 0 (gotCell 1 cell0 .clean) (countCw 0 none false (updPort 0 (fun k => { k with rxSeq := 5 }) (portIn 3)))) 0).rxSeq) ∧
    seqNext 65535 = 1 ∧
    takeStored (fun x => x.1 == 4 && !isAuth x.2.2) (port (stores cell0 4 3) 0).ingress = some ((4, 0, cell0), []) ∧
    ((port (portIn 3) 0).nacks = [] ∧ (port (portIn 3) 0).resend = none ∧ (port (portIn 3) 0).egress = [] ∧ (port (portIn 3) 0).replay.length < 204) ∧
    (let c := { cell0 with cls := 2, kind := 8 }
     let s1 := fun s => updPort 0 (fun k => { k with resend := none }) (fillBuckets 0 (sendNack 0 s))
     (egressOrder.map (mayLeave (s1 (enqueue 0 c (portIn 3))) 0)).findSome? (fun t => t.1) = some c ∧
      (egressOrder.map (mayLeave (s1 (portIn 3)) 0)).findSome? (fun t => t.1) = none) ∧
    linkUp (portIn 1) 0 = false ∧
    204 ≤ (port (updPort 0 (fun k => { k with replay := List.replicate 204 (1, cell0) }) (portIn 3)) 0).replay.length ∧
    (let s := updPort 0 (fun k => { k with resend := some 5, replay := [(5, cell0)] }) (portIn 3)
     (port s 0).resend = some 5 ∧ (port s 0).replay.find? (fun (r : Nat × Cell) => seqLe 5 r.1) = some (5, cell0)) := by decide +kernel

/-- R266: block 1 comes in order and its cell is stored when it is admitted; a port in AUTH drops a SCHED cell. -/
theorem test_cells :
    (match exec (.cellReceive 0 (blockOf 1 auth1)) (portIn 2) with | .next t => (port t 0).ingress.length | _ => 9) = 1 ∧
    (match exec (.cellReceive 0 (blockOf 1 cell0)) (portIn 2) with
      | .next t => (port t 0).ingress.length | _ => 9) = 0 := by
  have e (b : BlockIn) (s : State) : exec (.cellReceive 0 b) s = if !linkUp s 0 then .next s else .next (receive 0 (readBlock b) s) := rfl
  rw [e, e, test_block_reads.1, test_block_reads.2]
  decide +kernel

theorem test_delay_request_hypotheses :
    (takeStored (fun x => x.1 == 5 && x.2.2.kind == 9) (port (stores { cell0 with cls := 2, kind := 9 } 5 3) 0).ingress =
      some ((5, 0, { cell0 with cls := 2, kind := 9 }), []) ∧ sync (set F.TB_STAT_SYNC 5 State.reset) = 5)∧
    parent (set F.TB_SYNC_CFG_PARENT 5 State.reset) = 5 := by decide +kernel

theorem test_time_hypotheses :
    (gives (sync (set F.TB_STAT_SYNC 2 State.reset)) = true ∧ gives (sync (set F.TB_STAT_SYNC 5 State.reset)) = true) ∧
    (let s := stores { cell0 with cls := 2, kind := 8 } 5 3
     takeStored (fun x => x.1 == 5 && x.2.2.kind == 8) (port s 0).ingress = some ((5, 0, { cell0 with cls := 2, kind := 8 }), []) ∧
      parent (set F.TB_SYNC_CFG_PARENT 0 s) = 0 ∧ sync s ≠ 5 ∧ pState s 0 = 3) ∧
    (port (updPort 0 (fun k => { k with sync := some (1, 2, some 3) }) (stores { cell0 with cls := 2, kind := 0xA } 5 3)) 0).sync = some (1, 2, some 3) ∧
    (let s := set F.TB_STAT_SYNC 2 (set F.TB_STAT_PORT (parent State.reset) (set F.TB_SYNC_CFG_BACKUP 15 State.reset))
     let b := set F.TB_SYNC_CFG_BACKUP 1 { s with time := { s.time with meas := [(1, 1)], state := [(1, 5)] } }
     (sync s = 2 ∧ ¬ (get s F.TB_STAT_PORT = parent s ∧ backup s ≤ 11)) ∧ sync b = 2 ∧ get b F.TB_STAT_PORT = parent b ∧ backup b = 1 ∧
      delayValid (moveTo (SMap.get 0 b.time.heard (get b F.TB_STAT_PORT) + 4 * markerInterval b) b) 1 = true ∧
      gives (SMap.get 0 b.time.state 1) = true) ∧ sync State.reset ≠ 1 ∧ sync State.reset ≠ 2 := by decide +kernel

/-! ### Registers and ticks -/

/-- An address with no register, and GLB_FW_VER, which the host reads only. -/
def noReg : BitVec 26 := 0x3FFFFFC

theorem test_register_hypotheses :
    (∀ wr : Bool, inCalWindow noReg.toNat = false ∧ inProgWindow noReg.toNat = false ∧
      (hits (noReg.toNat / 4 * 4) 4).all (fun h => !mayReach State.reset .mgmt wr h.1.reach) = true) ∧
    (inProgWindow 0x1018000 = true ∧ (hits 0x1018000 4).isEmpty = true) ∧ (hits (noReg.toNat / 8 * 8) 8).isEmpty = true ∧
    get State.reset F.LC_STATE_STATE ≠ 1 ∧
    (coreOf 0x10AFFFC = some 0 ∧ coreOfs 0x10AFFFC = 0xAFFFC ∧ coreOf 0x1010000 = some 0 ∧ coreOfs 0x1010000 = 0x10000 ∧
      coreUp State.reset 0 = false ∧ coreOf 0x10B0000 = some 0 ∧ coreOfs 0x10B0000 = 0xB0000 ∧ coreOfs 0x100FFFC = 0xFFFC) := by
  decide +kernel

/-- GLB_DENIED_CNT as the address of a 64-bit register, and the low word of PROOF_GOLD_BASE of core 0. -/
theorem test_admitted_hypotheses :
    let cnt := F.GLB_DENIED_CNT.key / 8
    (admitted State.reset .mgmt true cnt 4 = true ∧ inProgWindow cnt = false ∧ inCalWindow cnt = false) ∧
    (admitted State.reset .host false cnt 4 = true ∧ in64 cnt = true) ∧
    (in64 (cnt + 4) = false ∧ admitted State.reset .host false (cnt + 4) 4 = true ∧
      latchOf { State.reset with latchH := some { addr := cnt + 4, half := 7 } } .host = some { addr := cnt + 4, half := 7 } ∧
      latchOf State.reset .host = none) ∧
    (pageReadDenied 0x8000 = true ∧ pageReadDenied 0xBFFC = true ∧ pageReadDenied 0x7FFC = false ∧ pageReadDenied 0xC000 = false) ∧
    (netHeld (catchUpAt 0x1000000 (setB F.MBX_CTL_MINIMAL true State.reset)) = true ∧ (0x600000 : Nat) ≤ 0x1000000) ∧
    (isSnap (F.GLB_SNAP_SEQ.key / 8 - 2) = true ∧ admitted State.reset .host true (F.GLB_SNAP_SEQ.key / 8 - 2) 4 = true) := by
  decide +kernel

/-- Core 0 IDLE: FLT_INJ_AT for the host, PROOF_GOLD_BASE, a program word, a calibration record, and an access that no pass delays. -/
theorem test_wide_and_window_hypotheses :
    let inj := F.FLT_INJ_AT_AT.key / 8
    let gold := (F.PROOF_GOLD_BASE_BASE 0).key / 64 * 8
    (in64 inj = true ∧ inCalWindow inj = false ∧ inProgWindow inj = false ∧
      (hits inj 8).all (fun h => !mayReach (catchUpAt inj State.reset) .host true h.1.reach && !mayReach (catchUpAt inj State.reset) .host false h.1.reach) =
        true ∧ admitted (catchUpAt inj (set F.LC_STATE_STATE 1 State.reset)) .mgmt false inj 8 = true ∧
      admitted (catchUpAt inj (set F.LC_STATE_STATE 1 State.reset)) .mgmt true inj 8 = true) ∧
    (coreOf gold = some 0 ∧ coreUp (catchUp 0 State.reset) 0 = false ∧ in64 gold = true ∧ 0x10000 ≤ coreOfs gold ∧ coreOfs gold < 0xB0000) ∧
    (in64 noReg.toNat = false ∧ inProgWindow 0x1018000 = true ∧ coreOf 0x1018000 = some 0 ∧
      admitted (catchUpAt 0x1018000 idle) .mgmt true 0x1018000 4 = true) ∧
    (inCalWindow 0x1088000 = true ∧ domainDown (catchUpAt 0x1088000 idle) 0x1088000 = false) := by decide +kernel

theorem test_snapshot_hypotheses :
    let n := F.GLB_SNAP_SEQ.key / 8 - 2
    let h : HostSnap := { addr := n, time := 0, clear := true, live := [], copies := [] }
    let s := { State.reset with hostSnap := some h }
    (s.hostSnap = some h ∧ h.addr = n ∧ h.time = now s ∧ admitted s .mgmt true n 4 = true) ∧ State.reset.hostSnap = none ∧
    isSnap 0 = false ∧ isSnap 0x1010024 = true ∧ admitted State.reset .host true 0x1010024 4 = false := by
  decide +kernel

theorem test_tick_hypotheses :
    flag (setB F.TB_CTL_TICK_EN true State.reset) F.TB_CTL_TICK_EN = true ∧ flag State.reset F.TB_CTL_TICK_EN = false ∧
    (coreState (runs 0) 0 = 3 ∧ flag (runs 0) (F.CORE_CTL_STATE_STOP_PEND 0) = false) ∧
    flag (setB (F.CORE_CTL_STATE_RUN_PEND 0) true idle) (F.CORE_CTL_STATE_RUN_PEND 0) = true ∧
    flag (setB (F.CORE_CTL_STATE_STOP_PEND 0) true (runs 0)) (F.CORE_CTL_STATE_STOP_PEND 0) = true ∧
    flag (tick 1 State.reset) F.TB_STAT_TICK_ON = true ∧
    (flag (setB F.TB_STAT_GATE_ARMED true State.reset) F.TB_STAT_GATE_ARMED = true ∧ flag (setB F.TB_STAT_GATE_HOLD true State.reset) F.TB_STAT_GATE_HOLD = true ∧ flag State.reset F.TB_STAT_GATE_ARMED = false ∧
      flag State.reset F.TB_STAT_GATE_HOLD = false) ∧ flag (setB F.SRV_CTL_EN true State.reset) F.SRV_CTL_EN = true ∧
    flag State.reset F.SRV_CTL_EN = false := by decide +kernel

/-! ### Serving -/

def ring0 : ReqRing := { fn := 0, part := 0, base := 0, entries := 64, wb := 0, tail := 1, cons := 0 }
def out0 : OutRing :=
  { fn := 0, part := 0, remote := none, base := 0, entries := 256, wb := 0, vector := 0, modUs := 0, modCnt := 0, prod := 0, cons := 0, unsig := 0
    since := none, asked := false, batch := false, recs := [] }

/-- The package heads partition 0, whose request ring 0 has a descriptor. -/
def serves : State :=
  let s := State.reset |> setB F.SRV_CTL_EN true |> setB (F.SRV_PART_EN 0) true |> setB (F.SRV_PART_HEAD 0) true
    |> set (F.SRV_PART_MAX_CTX 0) 100 |> set (F.SRV_PART_KV_SETS 0) 10 |> setAct (F.SRV_PART_ADM_RATE 0) 0xFFFF |> setAct (F.SRV_ACCT_VALID 0) 1
  { s with srv := { s.srv with rq := [(0, some ring0)], oq := [(0, some out0)] } }

def ask (kind : Byte) : Desc := { desc0 with kind := kind, prompt := [1], maxlen := 99, adpt := 0xFFFF }

theorem test_new_request_hypotheses :
    readable serves 0 = some ring0 ∧ (mayAdmit 0 serves).1 = true ∧
    (let s0 := consume 0 ring0 (ask 1) (mayAdmit 0 serves).2
     badFields s0 1 (ask 1) = false ∧ badLength s0 0 0 (ask 1) = false ∧ badLength s0 0 0 { ask 1 with maxlen := 100 } = true ∧
      badAdapter s0 (ask 1) = false ∧ broke s0 (ask 1) = false ∧ broke (setAct (F.SRV_ACCT_END 0) 1 s0) (ask 1) = true ∧
      broke (consume 0 ring0 (ask 1) (mayAdmit 0 (setAct (F.SRV_ACCT_END 0) 1 serves)).2) (ask 1) = true) := by decide +kernel

/-- Conversation 8191 of partition 0 in a state. -/
def conv (n : Nat) : State := set (F.SRV_ENT_STATE 8191) n serves

theorem test_descriptor_hypotheses :
    let d := fun (k : Byte) => { ask k with conv := 8191 }
    readable (conv 6) 0 = some ring0 ∧
    (let s0 := consume 0 ring0 (d 2) (conv 6)
     badFields s0 2 (d 2) = false ∧ badLength s0 0 (get s0 (F.SRV_ENT_LEN 8191)) (d 2) = false ∧
      badConv s0 0 (d 2) (fun st => st == 6 || st == 7 || st == 8) = false ∧ badAdapter s0 (d 2) = false ∧ entState s0 8191 ≠ 8 ∧
      broke s0 (d 2) = false) ∧
    (let s0 := consume 0 ring0 (d 3) (conv 2)
     badFields s0 3 (d 3) = false ∧ badConv s0 0 (d 3) active = false) ∧
    (let s0 := consume 0 ring0 (d 4) (conv 6)
     badFields s0 4 (d 4) = false ∧ badConv s0 0 (d 4) (fun st => st == 6) = false ∧ get (conv 6) (F.SRV_PART_CADDY 0) = 0) ∧
    ([6, 7, 8, 9].all fun st => let s0 := consume 0 ring0 (d 5) (conv st)
      !badFields s0 5 (d 5) && !badConv s0 0 (d 5) (fun st => st == 6 || st == 7 || st == 8 || st == 9)) = true ∧
    badFields (consume 0 ring0 (ask 1) (conv 6)) 2 (ask 1) = true := by decide +kernel

theorem test_new_request_has_entry : freeEntry (consume 0 ring0 (ask 1) (mayAdmit 0 serves).2) = some 1 := by decide +kernel

theorem get_all {β : Type} {d : β} (P : β → Prop) (hd : P d) (k : Nat) : ∀ m : SMap β, (∀ p ∈ m, p.1 = k → P p.2) → P (SMap.get d m k)
  | [], _ => hd
  | p :: m, h => by
    unfold SMap.get
    split
    · exact h p (by simp) ‹_›
    · exact get_all P hd k m fun q hq => h q (by simp [hq])

/-- A state whose request entries are FREE or in the caddy tier. -/
def noneHeld (s : State) : Bool :=
  s.regs.all fun p => decide (p.1 < 0x18800000) || decide (0x18800000 + 0x400 * 8192 ≤ p.1) || p.2 == 0 || p.2 == 8

/-- Then the page sets are all free, and as many as there are suffice. -/
theorem has_room (n skip need : Nat) (s : State) (h : noneHeld s = true) (hn : need ≤ get s (F.SRV_PART_KV_SETS n)) :
    (makeRoom n skip need s).isSome = true := by
  have e (i : Nat) (hi : i < 8192) : entState s i = 0 ∨ entState s i = 8 := by
    refine get_all (fun v => v = 0 ∨ v = 8) (Or.inl rfl) _ _ fun p hp hk => ?_
    have := List.all_eq_true.mp h p hp
    simp only [Bool.or_eq_true, decide_eq_true_eq, beq_iff_eq, hk, F.SRV_ENT_STATE] at this
    omega
  have u : kvUsed s n = 0 := by
    have : (entriesOf s n).filter (fun e => entState s e != eCaddy) = [] := by
      rw [List.filter_eq_nil_iff]
      intro i hi
      simp only [entriesOf, List.mem_filter, List.mem_range, Bool.and_eq_true, bne_iff_ne, eFree] at hi
      rcases e i hi.1 with h0 | h8
      · exact absurd h0 hi.2.1.2
      · simp [h8, eCaddy]
    simp [kvUsed, this]
  have f : need ≤ kvFree s n := by unfold kvFree; omega
  unfold makeRoom
  cases parkedLru s n skip <;> simp [moveOut, f]

theorem test_new_request_has_room : (makeRoom 0 8192 (setsFor 1) (consume 0 ring0 (ask 1) (mayAdmit 0 serves).2)).isSome = true :=
  has_room _ _ _ _ (by decide +kernel) (by decide +kernel)

/-- Without a caddy tier nothing moves out: more page sets than there are cannot be had. -/
theorem no_room (n skip need : Nat) (s : State) (h : get s (F.SRV_PART_CADDY n) = 0) (hn : get s (F.SRV_PART_KV_SETS n) < need) :
    makeRoom n skip need s = none := by
  have f : ¬ need ≤ kvFree s n := by unfold kvFree; omega
  simp [makeRoom, parkedLru, h, moveOut, f]

theorem test_new_request_has_no_room :
    let s := set (F.SRV_PART_KV_SETS 0) 0 serves
    makeRoom 0 8192 (setsFor 1) (consume 0 ring0 (ask 1) (mayAdmit 0 s).2) = none ∧ (mayAdmit 0 s).1 = true ∧
    badFields (consume 0 ring0 (ask 1) (mayAdmit 0 s).2) 1 (ask 1) = false :=
  ⟨no_room _ _ _ _ (by decide +kernel) (by decide +kernel), by decide +kernel⟩

/-- Nothing is needed when the entry's sets suffice. -/
theorem makeRoom_zero (n skip : Nat) (s : State) : (makeRoom n skip 0 s).isSome = true := by
  unfold makeRoom
  cases parkedLru s n skip <;> simp [moveOut]

/-- CONTINUE of a PARKED conversation needs nothing beyond what it holds; one in the caddy tier is restored. -/
theorem test_continue_has_room :
    let s := updSrv 0 (fun k => { k with pages := [(8191, [(0, 0)])] }) (conv 6)
    let s0 := consume 0 ring0 { ask 2 with conv := 8191 } s
    let c0 := consume 0 ring0 { ask 2 with conv := 8191 } (conv 8)
    (makeRoom 0 8191 (setsFor (get s0 (F.SRV_ENT_LEN 8191) + 1) - demand s0 0 8191) s0).isSome = true ∧
    (makeRoom 0 8191 (setsFor (get c0 (F.SRV_ENT_LEN 8191) + 1)) c0).isSome = true ∧ badFields c0 2 (ask 2) = false ∧
    badLength c0 0 (get c0 (F.SRV_ENT_LEN 8191)) { ask 2 with conv := 8191 } = false ∧
    badConv c0 0 { ask 2 with conv := 8191 } (fun st => st == 8) = false ∧ badAdapter c0 { ask 2 with conv := 8191 } = false ∧
    broke c0 { ask 2 with conv := 8191 } = false := by
  refine ⟨?_, has_room _ _ _ _ (by decide +kernel) (by decide +kernel), by decide +kernel⟩
  have h : setsFor (get (consume 0 ring0 { ask 2 with conv := 8191 } (updSrv 0 (fun k => { k with pages := [(8191, [(0, 0)])] }) (conv 6)))
      (F.SRV_ENT_LEN 8191) + 1) - demand (consume 0 ring0 { ask 2 with conv := 8191 }
        (updSrv 0 (fun k => { k with pages := [(8191, [(0, 0)])] }) (conv 6))) 0 8191 = 0 := by decide +kernel
  simpa only [h] using makeRoom_zero 0 8191 _

def rec0 : OutRec :=
  { ring := 0, handle := 0, token := 0, pos := 0, status := 0, flags := 0, logit := 0, conv := 0, time := 0, fin := none }

theorem test_ring_hypotheses :
    (rqRing serves 0 = some ring0 ∧ ring0.fn = 0 ∧ ((64 : Nat) + 2 ^ 32 - ring0.cons) % 2 ^ 32 ≤ ring0.entries ∧
      ¬ ((65 : Nat) + 2 ^ 32 - ring0.cons) % 2 ^ 32 ≤ ring0.entries ∧ out0.fn = 0 ∧ out0.remote = none ∧
      ({ out0 with since := some 5 } : OutRing).since = some 5 ∧ rec0.fin = none) ∧ rqRing serves 63 = none ∧ SMap.get none serves.srv.oq 0 = some out0 ∧
    takeStaged serves [rec0] = some (rec0, []) ∧ takeStaged serves [] = none ∧ (isHead State.reset 0 = false ∧ ordinal State.reset 0 (get State.reset F.TB_TICK_NUM_K) < 1) ∧
    (let s := updSrv 0 (fun p => { p with xfers := [(3, some { restore := false, heard := [], bad := false, start := 0 })] })
       (updFw (fun k => { k with parts := [(0, some (PartRec.fresh 0 0 [0, 1] 0 0))] }) serves)
     (SMap.get none (srvPart s 0).xfers 3 = some { restore := false, heard := [], bad := false, start := 0 } ∧ isHead s 0 = true ∧ (partRec s 0).any (fun r => r.own == 1) = false ∧ (partRec s 0).any (fun r => r.own == 0) = true) ∧ allHeard s 0 (NSet.add [] 1) = false ∧
      allHeard s 0 (NSet.add [0] 1) = true) ∧
    (get (conv 6) (F.SRV_ENT_TYPE 8191) = 0 ∧ entState (conv 6) 8191 = 6 ∧ entState (conv 8) 8191 = 8 ∧ get (conv 6) (F.SRV_ENT_TTL 8191) ≤ now (conv 6)) ∧
    (let r : Replace := { id := 0, gen := 0, force := false, slot := some 1, old := 63, unload := false, segs := [], fn := 0 }
     ([r].find? fun r => r.old == 63) = some r ∧ r.slot.isSome = true ∧ actv State.reset (F.SRV_ASLOT_STATE 63) ≠ 2 ∧
      get State.reset (F.SRV_ASLOT_REFCNT 63) = 0) := by decide +kernel

/-! ### Faults, sensors and telemetry -/

def flt1 : FltRec :=
  { time := 0, src := 0x30, dom := 0, cls := 1, esc := false, access := 0, node := 0, unit := 0, addr := 0, detail := 0 }

theorem test_fault_hypotheses :
    (srcListed 0x10 = true ∧ domListed 19 = true ∧ srcClass 0x10 = 0 ∧ srcEscalates 0x10 = false) ∧
    (srcListed 0x3A = true ∧ srcClass 0x3A = 1 ∧ srcEscalates 0x3A = false) ∧ domListed 0xFF = true ∧ domListed 20 = false ∧
    (State.reset.flt.queue.length < 256 ∧ 256 ≤ (List.replicate 256 flt1).length) ∧
    (unacked idle 2 = false ∧ coreGood idle 0 = true ∧ coreState idle 0 = 2 ∧ coreState (runs 0) 0 = 3 ∧ unacked idle 3 = false ∧
      flag idle F.FLT_STAT_SAFE = false) := by decide +kernel

/-- Table 14.3, R391: an event of source 10h (class L0) is recorded with its class and counted. -/
theorem test_fault_event :
    (match exec (.faultEvent 0x10 19 0 0 0 0 0 false) State.reset with
      | .next t => (t.flt.queue.map fun r => (r.src, r.dom, r.cls), get t (F.FLT_EVT_CNT 0)) | _ => ([], 0)) = ([(0x10, 19, 0)], 1) := by
  decide +kernel

theorem test_acknowledge_hypotheses :
    (bits (4 : Nat) 0 3 = 4 ∧ bits (2 : Nat) 0 3 = 2 ∧ bits (1 + 2 ^ 16 : Nat) 0 3 < 2 ∧ bit (1 + 2 ^ 16) 16 = true ∧ bit 1 16 = false) ∧
    flag (setB (F.FLT_CAP_VALID 4) true State.reset) (F.FLT_CAP_VALID 4) = true ∧
    (let s := setB (F.FLT_CAP_VALID 4) true State.reset
     clears s (F.FLT_CAP_VALID 4) 1 = 1 ∧ clears { s with setAt := [((F.FLT_CAP_VALID 4).key, now s + 1)] } (F.FLT_CAP_VALID 4) 1 = 0) ∧
    injVoid 0 0 0 = true ∧
    (let j : Inj := { kind := 1, hide := false, count := 1, src := 0x10, dom := 0, tgt := 0, time := 5, active := false, done := 0 }
     ({ State.reset.flt with inj := some j }).inj = some j ∧ j.active = false) ∧
    flag (setB F.FLT_STAT_ERRMODE true State.reset) F.FLT_STAT_ERRMODE = true ∧ flag State.reset F.LC_STATE_FI_EN = false ∧
    (flag (setB F.LC_STATE_FI_EN true State.reset) F.LC_STATE_FI_EN = true ∧ injVoid 1 0x10 0 = false ∧ injVoid 7 0 0xA0 = false ∧
      now State.reset < get (set F.FLT_INJ_AT_AT 1 State.reset) F.FLT_INJ_AT_AT) ∧
    ((1 + 0x10 * 2 ^ 16 : Nat) < 2 ^ 32 ∧ bits (1 + 0x10 * 2 ^ 16 : Nat) 0 4 = 1 ∧ bits (1 + 0x10 * 2 ^ 16 : Nat) 16 8 = 0x10) ∧
    (flt1.cls ≠ 0 ∧ State.reset.fw.reports < 1000 ∧ 1000 ≤ (updFw (fun k => { k with reports := 1000 }) State.reset).fw.reports) := by decide +kernel

theorem test_sensor_hypotheses :
    (-320 ≤ (BitVec.ofInt 16 (-320)).toInt ∧ (895 : BitVec 16).toInt < 896 ∧ 896 ≤ (896 : BitVec 16).toInt ∧ (1200 : BitVec 16).toInt ≤ 1200 ∧
      1200 < (1201 : BitVec 16).toInt ∧ (BitVec.ofInt 16 (-321)).toInt < -320) ∧ flag State.reset F.THM_STAT_SHUT = false ∧
    flag (setB F.THM_STAT_WARN_E true State.reset) F.THM_STAT_WARN_E ≠ State.reset.thm.warnE ∧
    (bits (0x1E0 + 2 ^ 16 * 0x338 : Nat) 0 16 = 0x1E0 ∧ bits (0x2F8 + 2 ^ 16 * 0x2F9 : Nat) 16 16 = 0x2F9) ∧
    flag (setB F.TEL_STAT_BUSY true State.reset) F.TEL_STAT_BUSY = true ∧ flag State.reset F.TEL_STAT_BUSY = false ∧
    (throttled (setB F.THM_STAT_THR_E true State.reset) true = true ∧ halfParts State.reset true = [] ∧ isSlow State.reset true = false ∧
      throttled State.reset true = false ∧ (updFw (fun k => { k with lowE := true }) State.reset).fw.lowE = true) ∧
    (sync (set F.TB_STAT_SYNC 3 State.reset) = 3 ∧ actv State.reset F.TB_SYNC_LIM_HO_DRIFT ≠ 0 ∧ (∀ p, p < 16 → partRuns State.reset p = false) ∧
      sync State.reset ≠ 3) ∧
    ((∀ n, (updFw (fun k => { k with phase := .up }) State.reset).fw.phase ≠ .step n) ∧ get State.reset F.TEL_STAT_CH < 16) := by
  refine ⟨by decide +kernel, by decide +kernel, by decide +kernel, by decide +kernel, by decide +kernel, by decide +kernel, by decide +kernel,
    by decide +kernel, fun n h => ?_, by decide +kernel⟩
  cases h

/-- R414, R421: a sample of 895 does not shut down; 896, which is 112 °C in steps of 1/8 °C, does. -/
theorem test_sensor_shutdown :
    (match exec (.sensorSample 20 895 true) State.reset with | .next t => (t.pwroff, get t (F.THM_SENS_TEMP 20)) | _ => (true, 0)) = (false, 895) ∧
    (match exec (.sensorSample 20 896 true) State.reset with | .next t => t.pwroff | _ => false) = true := by decide +kernel

/-! ### Host interface -/

/-- The stacks are READY, and aperture 0 of the PF opens their first MiB, for reads and writes; bank 0 is ON, and the PCI node reaches stack 0 through
routers 9, 8, 7 and 2, and stack 1 through routers 9 and 4. -/
def opened : State :=
  let s := upTo 3 (fun n s => setBit (F.STK_BANK_ON_ON n) 0 true (set (F.STK_STAT_STATE n) 3 s)) State.reset
  s |> setAct (F.GLB_APER_VALID 0 0) 1 |> setAct (F.GLB_APER_RD 0 0) 1 |> setAct (F.GLB_APER_WR 0 0) 1 |> setAct (F.GLB_APER_SIZE 0 0) 1
    |> set (F.RTR_ROUTE_OUT 9 20) 4 |> set (F.RTR_ROUTE_OUT 8 20) 4 |> set (F.RTR_ROUTE_OUT 7 20) 1 |> set (F.RTR_ROUTE_OUT 2 20) 5
    |> set (F.RTR_ROUTE_OUT 9 21) 1 |> set (F.RTR_ROUTE_OUT 4 21) 5

theorem test_host_hypotheses :
    (slotSt State.reset 0 7 = 0 ∧ autoBusy State.reset = true ∧ autoBusy (setB F.MBX_CTL_FW_UP true State.reset) = false ∧
      flag (setB F.MBX_CTL_MINIMAL true State.reset) F.MBX_CTL_MINIMAL = true ∧ flag State.reset F.MBX_CTL_MINIMAL = false) ∧
    (transportShut State.reset 32 = false ∧ State.reset.fw.sessions = 0) ∧ slotSt (putSlot 34 7 1 State.reset) 34 7 ≠ 0 ∧ (updFw (fun k => { k with phase := .held }) State.reset).fw.phase = .held ∧
    State.reset.fw.phase ≠ .held ∧ (stacksUp opened = true ∧ inSafe opened = false) ∧
    (aperture opened 0 (2 ^ 20 - 512) 512 false = some (2 ^ 20 - 512) ∧ aperture opened 0 (2 ^ 20 - 511) 512 false = none ∧
      (linesOf (2 ^ 20 - 512) 512).all (fun x => decide (x < lineCount) && bankOn opened (lineStack x) (lineBank x) &&
        (trip 35 (stkNode (lineStack x)) opened).1) = true ∧
      aperture opened 0 (2 ^ 20 - 2) 2 true = some (2 ^ 20 - 2) ∧ opened.flt.inj = none ∧ opened.mesh = [] ∧
      (linesOf (2 ^ 20 - 512) 512).all (fun x => (mergeOf opened (lineStack x) x).isNone) = true) ∧
    aperture opened 1 0 1 true = none ∧ stacksUp State.reset = false ∧
    inSafe (setB F.FLT_STAT_SAFE true opened) = true ∧ stacksUp (setB F.FLT_STAT_SAFE true opened) = true := by decide +kernel

/-- R339: a BAR4 write through the aperture reads back from the stacks; one beyond it stores nothing and is counted. -/
theorem test_bar4 :
    (match exec (.bar4Write 0 32 (List.replicate 32 7)) opened with | .next t => rdBytes t.mem.stk 31 34 | _ => []) = [0] ++ List.replicate 32 7 ++ [0] ∧
    (match exec (.bar4Write 0 (2 ^ 20 - 1) [1, 2]) opened with
      | .next t => (t.mem.stk.length, get t F.GLB_APER_REJ_CNT) | _ => (9, 0)) = (0, 1) ∧
    inBar4 0 32 32 = true ∧ inBar4 32 (2 ^ 30 - 1) 2 = false := by decide +kernel

/-! ### Requests -/

/-- The package serves, and a request of the PF waits in its slot 0: OPCODE and PART. -/
def request (op part : Nat) (s : State) : State :=
  let s1 := s |> setB F.MBX_CTL_FW_UP true |> set F.GLB_MODE_MODE 1 |> updFw (fun k => { k with phase := .up })
  putSlot 0 0 1 { s1 with mbx := wrBytes [] (reqOfs 0) (natLe 2 op ++ [3] ++ zeros 8 ++ natLe 1 part) }

/-- `accepts` as a value. -/
def takes_ (r : CmdRow) (q : YReq) (range : Bool) (parts : List Nat) (objs : List Obj) (s : State) : Bool :=
  slotSt s q.fn q.slot == 1 && !autoBusy s && (reqHeader s q.fn q.slot).opcode == r.op && (check s r q (reqHeader s q.fn q.slot) range parts objs).isNone

theorem accepts_of_takes {r : CmdRow} {q : YReq} {range : Bool} {parts : List Nat} {objs : List Obj} {s : State}
    (h : takes_ r q range parts objs s = true) : accepts r q range parts objs s := by
  simpa [takes_, accepts, and_assoc] using h

/-- Every row of Table 12.7 with no object is accepted from the PF in NORMAL. -/
theorem test_every_command_is_accepted : (opcodes.all fun op => takes_ { op := op } q0 true [0] [] (request op 0 State.reset)) = true := by
  decide +kernel

theorem test_checks_hypotheses :
    let s := request 0x0D02 0 State.reset
    let h := reqHeader s q0.fn q0.slot
    (slotSt s 0 0 = 1 ∧ autoBusy s = false ∧ h.opcode = 0x0D02 ∧ h.version = 3 ∧ flag s F.MBX_CTL_MINIMAL = false ∧ mode s ≠ 0 ∧ inSafe s = false ∧
      h.plen ≤ 1984) ∧
    (reqHeader { s with mbx := wrBytes [] (reqOfs 0) (natLe 2 0x0D02 ++ [4]) } 0 0).version ≠ 3 ∧ flag (setB F.MBX_CTL_MINIMAL true s) F.MBX_CTL_MINIMAL = true ∧
    mode (set F.GLB_MODE_MODE 0 s) = 0 ∧ (reqHeader { s with mbx := wrBytes s.mbx (reqOfs 0 + 8) (natLe 2 1985) } 0 0).plen = 1985 ∧ isVf 1 = true ∧
    isVf 32 = true ∧ isVf 33 = false ∧ check (setB F.MBX_CTL_MINIMAL true s) { op := 0x0C01 } q0 { h with opcode := 0x0C01 } true [] [] = some 0x36 ∧
    check s { op := 0x0A01, min := true } q0 { h with opcode := 0x0A01, version := 4 } true [] [] = some 4 ∧ slotSt State.reset 0 0 ≠ 1 := by decide +kernel

/-- Table 12.4: a request of version 4 is answered with VERSION_UNSUPPORTED (04h) in the response of its slot. -/
theorem test_version_refused :
    let s := request 0x0D02 0 State.reset
    (match exec (.planGet q0) { s with mbx := wrBytes s.mbx (reqOfs 0 + 2) [4] } with
      | .next t => (slotSt t 0 0, leAt (mbBytes t 0 (rspOfs 0) 64) 10 1) | _ => (0, 0)) = (2, 4) := by decide +kernel

/-- A device as the requests of the next tests find it: core 0 is IDLE, logical core 0, and in partition 0, which this package
coordinates and heads. -/
def member (r : PartRec) (s : State) : State :=
  let s1 := inState 2 s |> setB (F.CORE_CTL_STATE_MCODE_OK 0) true |> setB (F.SEQ_BANK_DESC_VALID 0 0) true
    |> set (F.GLB_CORE_MAP_VALID 0) 1 |> setAct (F.CORE_CTL_ID_PVALID 0) 1 |> setB (F.SRV_PART_HEAD 0) true
  updFw (fun k => { k with parts := [(0, some r)] }) s1

def part1 : PartRec := PartRec.fresh 7 0 [0] 0 0

def image0 : Image :=
  { id := 0, digest := 0, part := 0, round := 0, rounds := 1, cores := [], partDigest := 0, dig := 0, src := { kind := 0, addr := 0 } }
def sched1 : Sched := { id := 0, model := 0, tickNs := 1000, kind := 0, half := 0, pair := 0, pkg := 0, secs := [] }

theorem leNat_natLe (n : Nat) : ∀ v, leNat (natLe n v) = v % 256 ^ n := by
  induction n with
  | zero => intro v; simp [natLe, leNat, Nat.mod_one]
  | succ n ih =>
    intro v
    have e : 256 ^ (n + 1) = 256 * 256 ^ n := by rw [Nat.pow_succ, Nat.mul_comm]
    rw [e, Nat.mod_mul, natLe, leNat, ih, BitVec.toNat_ofNat]

theorem natLe_length (n : Nat) : ∀ v, (natLe n v).length = n := by
  induction n with
  | zero => intro v; rfl
  | succ n ih => intro v; simp [natLe, ih]

/-- A number that stands in a list of bytes is read back. -/
theorem leAt_field (a c : List Byte) (n v o : Nat) (h : a.length = o) (hv : v < 256 ^ n) : leAt (a ++ (natLe n v ++ c)) o n = v := by
  rw [leAt, List.drop_left' h, List.take_left' (natLe_length _ _), leNat_natLe, Nat.mod_eq_of_lt hv]

theorem leAt_bits (a c : List Byte) (n k o : Nat) (v : BitVec k) (h : a.length = o) (e : 256 ^ n = 2 ^ k) :
    leAt (a ++ (natLe n v.toNat ++ c)) o n = v.toNat := leAt_field a c n _ o h (by rw [e]; exact v.isLt)

/-- A digest that stands in a list of bytes is read back. -/
theorem leAt_digest (a c : List Byte) (d : BitVec 384) (o : Nat) (h : a.length = o) : leAt (a ++ (natLe 48 d.toNat ++ c)) o 48 = d.toNat :=
  leAt_bits a c 48 384 o d h (by decide +kernel)

def model0 (golden bound : Bool) : Model := { handle := 5, img := image0, golden := golden, bound := bound, counts := (0, 0, 0) }
def withModel (m : Model) (s : State) : State := updFw (fun k => { k with models := [m] }) s

theorem test_query_hypotheses :
    let s := member part1 (request 0x0209 0 State.reset)
    (State.reset.fw.log = [] ∧ (planned 0 State.reset).fw.planNext = none ∧ State.reset.fw.boot.journal = none ∧
      State.reset.fw.boot.closed = none ∧ State.reset.fw.boot.erasePend = false ∧ State.reset.fw.boot.staged = false ∧ State.reset.fw.actFailed = false ∧
      State.reset.fw.models = []) ∧
    (partRec s 0 = some part1 ∧ mapPhys s 0 = some 0 ∧ corePart s 0 = some 0 ∧ partCores State.reset 0 = []) ∧
    (modelOf (withModel (model0 true true) s) 5).isSome = true ∧
    (domainDown s ((F.LEAVEN_RCP_CTL_AFMT 0 0).key / 8) = false ∧ domainDown (inState 1 s) ((F.LEAVEN_RCP_CTL_AFMT 0 0).key / 8) = true) ∧
    takes_ { op := 0x0607, v := true } q0 (!isVf q0.fn || mayAct s 0 0) [] [] (request 0x0607 0 State.reset) = true ∧
    takes_ { op := 0x0209, v := true } q0 (hdrPart s q0 < 16) [0] [] s = true := by decide +kernel

theorem test_minimal_hypotheses :
    let s := minimal (updFw (fun k => { k with boot := { k.boot with staged := true } }) (request 0x0B02 0 State.reset))
    flag s F.MBX_CTL_MINIMAL = true ∧ slotSt s 0 0 = 1 ∧ autoBusy s = false ∧ takes_ { op := 0x0B02, min := true } q0 true [] [.firmware] s = true ∧
    anyRuns s = false ∧ s.fw.boot.staged = true ∧ (opcodes.contains 0x0201 = true ∧ (reqHeader (minimal (request 0x0201 0 State.reset)) 0 0).opcode = 0x0201 ∧
      (reqHeader (minimal (request 0x0201 0 State.reset)) 0 0).version = 3) := by decide +kernel

/-- An installation plan of this package alone (Tables 10.3 and 10.4). -/
def plan1 : List Byte :=
  natLe 4 0x50494D4C ++ natLe 2 1 ++ zeros 22 ++ natLe 3 0x010101 ++ zeros 17 ++ natLe 4 1 ++ natLe 8 256 ++ zeros 12 ++ natLe 8 672 ++ zeros 176 ++
    natLe 16 (deviceId State.reset) ++ zeros 16 ++
    (List.range 12).flatMap (fun p => zeros 18 ++ [if [0, 1, 4, 5, 10, 11].contains p then 16 else 0] ++ zeros 13) ++ zeros 96

theorem test_setting_hypotheses :
    let s := fun op => member part1 (request op 0 State.reset)
    (takes_ { op := 0x0601, v := true } q0 (ringShape 4096 64 64 65536) [0] [.ring false 63] (s 0x0601) = true ∧ isHead (s 0x0601) 0 = true ∧
      SMap.get none (s 0x0601).srv.rq 63 = none) ∧ ringShape 0 65536 64 65536 = true ∧ ringShape 0 131072 64 65536 = false ∧ ringShape 1 64 64 65536 = false ∧
    takes_ { op := 0x0602, v := true } q0 (ringShape 0 1048576 256 1048576 && decide ((63 : Nat) < 64)) [0] [.ring true 0] (s 0x0602) = true ∧
    ringOwner serves false 0 = some (0, 0) ∧ (ringOwner serves true 0 = some (0, 0)) ∧ waitActive (reqHeader (s 0x0604) 0 0) = false ∧
    takes_ { op := 0x0606 } q0 ((List.replicate 32 (0 : Word)).length = 32) [] [] (s 0x0606) = true ∧
    (takes_ { op := 0x0704 } q0 (decide (12 ≤ 20) && decide (20 ≤ 20)) [] [.core 0] (s 0x0704) = true ∧ coreRuns (s 0x0704) 0 = false ∧
      coreUp (s 0x0704) 0 = true ∧ calRunning (s 0x0704) 0 = false) ∧
    (let a := [F.GLB_SNAP_SEQ.key / 8 - 2]
     a.all isSnap = true ∧ a.all (maySnap (s 0x0801) 0) = true) ∧
    (let u := fromBuffer 0 (reqHeader (request 0x0D01 0 State.reset) 0 0) (request 0x0D01 0 State.reset)
     planForm plan1 = true ∧ planKnown plan1 = true ∧ loadsOk u = true ∧ planFits u (readPlan plan1) = true ∧ anyPart u = false) ∧ netHeld (s 0x0604) = false ∧
    (let t := planned 1 (request 0x0D04 0 State.reset)
     takes_ { op := 0x0D04 } q0 (ownRole t = 1) [] [.plan] t = true ∧ t.fw.subst = none) := by decide +kernel

theorem test_ring_is_not_named : ringNamed State.reset 0 = false := by decide +kernel

/-- A calibration record whose CRC holds, and 2,624 of them. -/
def rec1 : List Byte :=
  let b : List Byte := zeros 55 ++ [1] ++ zeros 4
  b ++ natLe 4 (crc32 b)
def recs1 : List Byte := (List.replicate 2624 rec1).flatten

theorem take_drop_flatten (r : List Byte) (k n : Nat) (hr : r.length = 64) (hn : n < k) :
    (((List.replicate k r).flatten).drop (64 * n)).take 64 = r := by
  induction n generalizing k with
  | zero =>
    obtain ⟨m, rfl⟩ : ∃ m, k = m + 1 := ⟨k - 1, by omega⟩
    simp [List.replicate_succ, ← hr]
  | succ n ih =>
    obtain ⟨m, rfl⟩ : ∃ m, k = m + 1 := ⟨k - 1, by omega⟩
    have h : 64 * (n + 1) = r.length + 64 * n := by omega
    rw [List.replicate_succ, List.flatten_cons, h, List.drop_append, List.drop_eq_nil_of_le (by omega), List.nil_append,
      Nat.add_sub_cancel_left]
    exact ih m (by omega)

theorem test_restore_hypotheses : recs1.length = 2624 * 64 ∧ (∀ n, n < 2624 → recCrc ((recs1.drop (64 * n)).take 64) = true) ∧
    takes_ { op := 0x0702 } q0 true [] [.core 0] (member part1 (request 0x0702 0 State.reset)) = true := by
  have h : rec1.length = 64 := by decide +kernel
  refine ⟨by rw [recs1, List.length_flatten, List.map_replicate, List.sum_replicate_nat, h], fun n hn => ?_, by decide +kernel⟩
  rw [recs1, take_drop_flatten _ _ _ h hn]
  decide +kernel

theorem test_measure_and_port_hypotheses :
    (takes_ { op := 0x0703 } q0 true [] [.core 0] (member part1 (request 0x0703 0 State.reset)) = true ∧
      (core (member part1 State.reset) 0).calCmd = none ∧ tempFar (set (F.CAL_TEMP_T_NOW 0) (setTemp 0).toNat (member part1 State.reset)) 0 0 = false ∧
      tempFar (set (F.CAL_TEMP_T_NOW 0) 4000 (member part1 State.reset)) 0 0 = true) ∧
    takes_ { op := 0x0D03 } q0 true [] [.port 11] (request 0x0D03 0 (port11 3)) = true ∧ pState (port11 2) 11 = 2 ∧ pState (port11 1) 11 = 1 ∧
    (let x : Stream := { fn := 0, ms := 10, blocks := [], buf := 0, size := 0, ofs := 0, last := 0 }
     (updFw (fun k => { k with stream := some x }) State.reset).fw.stream = some x ∧ State.reset.fw.stream = none) := by decide +kernel

/-- Bank 1 of partition 0 holds a schedule that a switch can take. -/
def standby : State :=
  setB (F.SEQ_BANK_DESC_VALID 0 1) true (member { part1 with bank1 := some sched1 } (request 0x0402 0 State.reset))

theorem test_partition_hypotheses :
    let s := member part1 (request 0x0202 0 State.reset)
    let run := inState 3 s
    (takes_ { op := 0x0201 } q0 true [] [.part 0] (request 0x0201 0 State.reset) = true ∧
      createFault (request 0x0201 0 State.reset) 0 { part0 with members := [0] } = none) ∧
    (takes_ { op := 0x0202 } q0 true [0] [.part 0] s = true ∧ part1.startK = none ∧ part1.resetK = none ∧ part1.resetAt = none ∧ part1.own = part1.coord ∧
      startFault s 0 = none ∧ (startFault (setB (F.CORE_CTL_STATE_MCODE_OK 0) false s) 0).isSome = true) ∧ (partRuns s 0 = false ∧ partRuns run 0 = true) ∧
    (setFits (BitVec.allOnes 32) 16 = true ∧ setFits 0xFFFF 16 = true ∧ setFits 0x10000 16 = false) ∧
    (standbySched standby 0).isSome = true ∧ hasLonger standby 0 = true ∧ isCoord standby 0 = true ∧ (standbySched standby 0).map (fun x => x.kind) = some 0 ∧
    rcpInFits (setB (F.LEAVEN_RCP_ENV_VALID 0 0) true s) 0 rcp0 = true ∧
    (halfParts State.reset true = [] ∧ logOf State.reset 0 = none ∧ logOf s 0 = some 0 ∧ get (set (F.ARR_CTL_SLOT 0 5) 1 s) (F.ARR_CTL_SLOT 0 5) ≠ 0xFFF) := by
  decide +kernel

/-- Partition 0 with a standby schedule that runs both halves slow. -/
def slowStandby : State :=
  setB (F.SEQ_BANK_DESC_VALID 0 1) true (member { part1 with bank1 := some { sched1 with half := 3 } } (request 0x0D05 0 State.reset))

theorem test_half_clock_hypotheses :
    let s := member part1 (request 0x0D05 0 State.reset)
    let east := halfCore true 0
    (takes_ { op := 0x0D05 } q0 true [] [] s = true ∧ takes_ { op := 0x0D05 } q0 true [] [] slowStandby = true ∧ throttled s east = false) ∧
    ((halfParts State.reset true).filter (fun n => !runsSlow (activeSched State.reset n) true) = []) ∧
    ((halfParts s east).filter (fun n => !runsSlow (activeSched s n) east)).find? (fun m => !runsSlow (standbySched s m) east || !true) = some 0 ∧
    (halfParts slowStandby east).filter (fun n => !runsSlow (activeSched slowStandby n) east) = [0] ∧ runsSlow (standbySched slowStandby 0) east = true ∧
    (takes_ { op := 0x0903 } q0 (coreGood s 0) [] [.core 0] (member part1 (request 0x0903 0 State.reset)) = true ∧ logOf State.reset 0 = none) ∧
    ({ part1 with coord := 1 }.own ≠ { part1 with coord := 1 }.coord) ∧
    partRec (member { part1 with coord := 1 } State.reset) 0 = some { part1 with coord := 1 } ∧ inHalf s 0 east = true := by decide +kernel

/-- A schedule image (Tables 6.16 and 6.17): one section of logical core 0, one phase, one END. -/
def schedBody1 : List Byte := natLe 8 272 ++ zeros 8 ++ natLe 2 0 ++ [1, 0] ++ natLe 4 1 ++ zeros 56 ++ zeros 96
def schedHead1 : List Byte :=
  natLe 4 0x53544D4C ++ natLe 2 1 ++ natLe 2 1 ++ zeros 32 ++ natLe 4 1000 ++ zeros 24 ++ natLe 8 256 ++ natLe 8 160 ++ zeros 12
/-- The bytes that are signed, and the signature of the holder of the leaf's key. -/
def schedSigned1 : List Byte := schedHead1 ++ (natLe 48 (Config.sha384 schedBody1).toNat ++ zeros 16)
def schedSig1 : BitVec 768 := Config.ecdsaSign (Config.certKey []) (Config.sha384 schedSigned1) 0
def schedImg1 : SchedImg := { sched0 with bytes := schedSigned1 ++ (natLe 96 schedSig1.toNat ++ schedBody1) }

theorem schedSigned1_length : schedSigned1.length = 160 := by
  rw [schedSigned1, List.length_append, List.length_append, natLe_length]; decide +kernel

/-- The owner of the roots to which a chain without certificates leads. -/
def owned (s : State) : State := updFw (fun k => { k with own := some { own0 with nImg := 1, roots := [Config.certRoot []] } }) s

theorem root_of {s : State} {g : Signed} {o : OwnIn} (h : s.fw.own = some o) (n : o.nImg.toNat = 1) (r : o.roots = [Config.certRoot []])
    (c : g.chain = []) : imageRoot s g = true := by simp [imageRoot, h, n, r, c]

theorem schedule_signed : schedSigned schedImg1.bytes = { chain := [], digest := Config.sha384 schedSigned1, sig := schedSig1.toNat } := by
  have t : schedImg1.bytes.take 160 = schedSigned1 := by rw [schedImg1, List.take_left' schedSigned1_length]
  have o : leAt schedImg1.bytes 76 8 = 160 := by decide +kernel
  have l : leAt schedImg1.bytes 92 4 = 0 := by decide +kernel
  have g : leAt schedImg1.bytes 160 96 = schedSig1.toNat := leAt_bits _ _ 96 768 160 _ schedSigned1_length (by decide +kernel)
  rw [schedSigned, t, o, l, g, List.take_zero]

theorem imgFault_none {s : State} {o : OwnIn} (w : s.fw.own = some o) (n : o.nImg.toNat = 1) (r : o.roots = [Config.certRoot []])
    (h : schedFault s 0 (readSched schedImg1.bytes) = none) : imgFault s 0 schedImg1 = none := by
  have d : schedImg1.bytes.drop 256 = schedBody1 := by
    have l : (schedSigned1 ++ natLe 96 schedSig1.toNat).length = 256 := by rw [List.length_append, schedSigned1_length, natLe_length]
    rw [schedImg1, ← List.append_assoc, List.drop_left' l]
  have b : schedBody schedImg1.bytes = true := by
    have e : schedImg1.bytes = schedHead1 ++ (natLe 48 (Config.sha384 schedBody1).toNat ++ (zeros 16 ++ (natLe 96 schedSig1.toNat ++ schedBody1))) := by
      simp only [schedImg1, schedSigned1, List.append_assoc]
    rw [schedBody, d, e, leAt_digest _ _ _ _ (by decide +kernel)]; exact beq_self_eq_true _
  have i : imageRoot s (schedSigned schedImg1.bytes) = true := root_of w n r (by rw [schedule_signed])
  have g : signatureOk (schedSigned schedImg1.bytes) schedImg1.nonce = true := by rw [schedule_signed]; exact beq_self_eq_true _
  unfold imgFault
  rw [if_neg (by decide +kernel), if_neg (by decide +kernel), if_neg (by decide +kernel), i, g, b, if_neg (by decide +kernel), h]

theorem test_schedule_passes :
    imgFault (owned (withModel (model0 true true) (set F.TB_TICK_PERIOD_PERIOD 1000 (member part1 (request 0x0401 0 State.reset))))) 0 schedImg1 = none ∧
    imgFault State.reset 0 sched0 = some 3 :=
  ⟨imgFault_none (o := { own0 with nImg := 1, roots := [Config.certRoot []] }) rfl rfl rfl (by decide +kernel), by decide +kernel⟩

theorem test_model_and_adapter_hypotheses :
    let s := member part1 (request 0x0301 0 State.reset)
    (loading s = false ∧ parseImage img0 = none) ∧
    (modelOf (withModel (model0 true true) s) 5 = some (model0 true true) ∧ modelBound (withModel (model0 true true) s) (model0 true true) = false) ∧
    (segsOk [] = true ∧ holdsId s 0 = false ∧ freeAslot s = some 0 ∧ segsFit [] = true ∧ (placeAdapter 0 0 0 [] s).1 = 0 ∧
      (let g := { seg0 with din := 1, rows := zeros 512 }; segsOk [g] = true ∧ segsFit [g] = true ∧ (placeAdapter 0 0 0 [g] s).1 ≠ 0)) ∧
    (let t := s |> set (F.SRV_ASLOT_ID 63) 9 |> set (F.SRV_ASLOT_STATE 63) 2 |> set (F.SRV_ASLOT_CUR 63) 1
     curSlot t 9 = some 63 ∧ get t (F.SRV_ASLOT_REFCNT 63) = 0 ∧ freeAslot t = some 0) ∧
    freeAslot (upTo 64 (fun i s => set (F.SRV_ASLOT_STATE i) 1 s) s) = none := by decide +kernel

/-- A model image (Tables 5.7 and 5.8) of one part with one logical core and no used slot, for this device. -/
def noDigest : List Byte := natLe 48 (Config.sha384 []).toNat
def manA : List Byte := [1] ++ zeros 59 ++ natLe 4 1
def manB : List Byte := zeros 20 ++ [0, 1] ++ natLe 2 1 ++ zeros 8
def man1 : List Byte := manA ++ (noDigest ++ (manB ++ (noDigest ++ zeros 640)))
def head1 : List Byte :=
  natLe 4 0x49574D4C ++ natLe 4 1 ++ natLe 8 256 ++ natLe 8 832 ++ natLe 8 1088 ++ zeros 16 ++ natLe 8 1184 ++ natLe 8 1 ++ natLe 8 1344 ++ zeros 184
def sig1 : BitVec 768 := Config.ecdsaSign (Config.certKey []) (Config.sha384 man1) 0
/-- The content key, wrapped for this device. -/
def wrap1 : BitVec 320 :=
  Config.aesWrap (Config.hkdf384 (Config.ecdh (zeros 97)) (natLe 16 1) (kekInfo ++ natLe 16 (deviceId State.reset))) 0
def key1 : List Byte := natLe 16 (deviceId State.reset) ++ zeros 104
def bytes1 : List Byte := head1 ++ (man1 ++ (natLe 96 sig1.toNat ++ (key1 ++ natLe 40 wrap1.toNat)))
def img1 : ImgIn := { img0 with bytes := bytes1, src := { kind := 1, addr := 0 }, dig := 0x400000000 }

theorem man1_length : man1.length = 832 := by
  simp only [man1, noDigest, List.length_append, natLe_length]; decide +kernel

theorem img1_manifest : (img1.bytes.drop (leAt img1.bytes 8 8)).take (leAt img1.bytes 16 4) = man1 := by
  have o : leAt img1.bytes 8 8 = 256 := by decide +kernel
  have n : leAt img1.bytes 16 4 = 832 := by decide +kernel
  have l : head1.length = 256 := by decide +kernel
  rw [o, n]
  show (bytes1.drop 256).take 832 = man1
  rw [bytes1, List.drop_left' l, List.take_left' man1_length]

theorem leAt_zeros (n k m : Nat) : leAt (zeros n) k m = 0 := by
  have z : ∀ n, leNat (List.replicate n 0) = 0 := by
    intro n
    induction n with
    | zero => rfl
    | succ n ih => rw [List.replicate_succ, leNat, ih]; rfl
  rw [leAt, zeros, List.drop_replicate, List.take_replicate, z]

theorem man1_slots : partSlots man1 128 0 = [] := by
  have e : man1 = (manA ++ (noDigest ++ (manB ++ noDigest))) ++ zeros 640 := by simp only [man1, List.append_assoc]
  have l : (manA ++ (noDigest ++ (manB ++ noDigest))).length = 192 := by
    simp only [List.length_append, noDigest, natLe_length]; decide +kernel
  have z (k : Nat) : leAt man1 (192 + k) 1 = 0 := by
    rw [leAt, ← List.drop_drop, e, List.drop_left' l]; exact leAt_zeros 640 k 1
  simp [partSlots, z, bit]

theorem man1_cores : (readPart img1 man1 128).cores = [{ lcore := 0, base := 0, slots := [] }] := by
  have n : leAt man1 (128 + 6) 2 = 1 := by decide +kernel
  rw [readPart, n]
  simp only [List.range_succ, List.range_zero, List.nil_append, List.map_cons, List.map_nil, man1_slots]
  rfl

theorem man1_records : records (readPart img1 man1 128) = [] ∧ recCount (readPart img1 man1 128) = 0 := by
  simp [records, recCount, man1_cores]

/-- What the checks find in it. -/
def got1 : Parsed :=
  { img := readPart img1 man1 128, minFw := 0, signed := { chain := [], digest := Config.sha384 man1, sig := sig1.toNat }, table := true
    keys := [{ dev := deviceId State.reset, epk := zeros 97, wrapped := wrap1.toNat }], prefix_ := zeros 4, chunks := [] }

theorem man1_table : leAt man1 64 48 = (Config.sha384 []).toNat := leAt_digest _ _ _ _ (by decide +kernel)

theorem man1_part : leAt man1 144 48 = (Config.sha384 []).toNat := by
  have e : man1 = (manA ++ (noDigest ++ manB)) ++ (natLe 48 (Config.sha384 []).toNat ++ zeros 640) := by simp only [man1, noDigest, List.append_assoc]
  rw [e]
  refine leAt_digest _ _ _ _ ?_
  rw [List.length_append, List.length_append, noDigest, natLe_length]; decide +kernel

theorem sig1_read : leAt img1.bytes 1088 96 = sig1.toNat := by
  have e : img1.bytes = (head1 ++ man1) ++ (natLe 96 sig1.toNat ++ (key1 ++ natLe 40 wrap1.toNat)) := by
    show bytes1 = _
    simp only [bytes1, List.append_assoc]
  rw [e]
  exact leAt_bits _ _ 96 768 _ _ (by rw [List.length_append, man1_length]; decide +kernel) (by decide +kernel)

theorem wrap1_read : leAt img1.bytes 1304 40 = wrap1.toNat := by
  have e : img1.bytes = (head1 ++ (man1 ++ (natLe 96 sig1.toNat ++ key1))) ++ (natLe 40 wrap1.toNat ++ []) := by
    show bytes1 = _
    simp only [bytes1, List.append_assoc, List.append_nil]
  rw [e]
  refine leAt_bits _ _ 40 320 _ _ ?_ (by decide +kernel)
  simp only [List.length_append, man1_length, natLe_length]; decide +kernel

theorem parse_img1 : parseImage img1 = some got1 := by
  have h : headOk img1.bytes = true := by decide +kernel
  have c : leAt img1.bytes 72 4 = 0 := by decide +kernel
  have e : leAt img1.bytes 56 4 = 1 := by decide +kernel
  have k : leAt img1.bytes 48 8 = 1184 := by decide +kernel
  have n : leAt man1 60 4 = 1 := by decide +kernel
  have p : partsOfs man1 1 128 = some [128] := by decide +kernel
  have f : leAt man1 136 4 = 0 ∧ leAt man1 140 4 = 0 ∧ leAt man1 52 4 = 0 := by decide +kernel
  have z : (man1.drop 56).take 4 = zeros 4 := by decide +kernel
  have o : leAt img1.bytes 24 8 = 1088 ∧ leAt img1.bytes 40 4 = 0 := by decide +kernel
  have d : leAt img1.bytes 1184 16 = deviceId State.reset ∧ (img1.bytes.drop 1200).take 97 = zeros 97 := by decide +kernel
  unfold parseImage
  simp only [img1_manifest, h, if_pos, n, p, show [128][img1.part]? = some 128 from rfl, man1_records.2, f.1, f.2.1, f.2.2, c, e, k, z, o.1, o.2,
    sig1_read, man1_table]
  simp [chunksOk, d.1, d.2, wrap1_read, got1, recSize]
  exact ⟨f.1, f.2.1⟩

/-- A package that owns the image root, with management windows over all the stacks. -/
def loads : State :=
  let open_ := fun (n : Nat) (s : State) => s |> setAct (F.STK_MWIN_VALID n 0) 1 |> setAct (F.STK_MWIN_WR n 0) 1 |> setAct (F.STK_MWIN_SIZE n 0) 0x48000
  owned (upTo 3 open_ (member part1 (request 0x0301 0 State.reset)))

/-- It reaches the stacks, where the image's lines are in their merge windows, and has read the image. -/
def stagedAt (s : State) : State :=
  let reach := fun (d : Nat) (s : State) => each allCores (fun c s => set (F.RTR_ROUTE_OUT c d) (xFirst c d) s) s
  let open_ := fun (n : Nat) (s : State) => updStk n (fun k => { k with merges := [{ merge0 with line := n }] })
    (setBit (F.STK_BANK_ON_ON n) 0 true (setAct (F.STK_CTL_MERGE_EN n) 1 s))
  upTo 3 open_ (s |> reach 20 |> reach 21 |> reach 22)

def staged : State := (stageImage 0 img1 (stagedAt loads)).2

theorem test_staging : (stageImage 0 img1 (stagedAt loads)).1 = 0 ∧ (stageImage 0 { img1 with src := { kind := 0, addr := 0 } } loads).1 = 3 ∧
    (stageImage 0 { img0 with src := { kind := 1, addr := 0 } } loads).1 = 0 ∧ parseImage { img0 with src := { kind := 1, addr := 0 } } = none := by
  decide +kernel

theorem staged_window (l : Nat) (h : l < lineCount) : mwinHit staged (lineStack l) l true = true := by
  have w : ∀ n, n < 3 → actB staged (F.STK_MWIN_VALID n 0) = true ∧ actB staged (F.STK_MWIN_WR n 0) = true ∧
      actv staged (F.STK_MWIN_BASE n 0) = 0 ∧ actv staged (F.STK_MWIN_SIZE n 0) = 0x48000 := by decide +kernel
  obtain ⟨v, r, b, z⟩ := w (lineStack l) (Nat.mod_lt _ (by decide))
  have hl : l < 0 * 2048 + 0x48000 * 2048 := by simpa [lineCount] using h
  exact List.any_eq_true.mpr ⟨0, by simp, by simp [v, r, b, z, hl]⟩

theorem staged_range (a n : Nat) (h : a + n ≤ lineCount * 512) : mwinRange staged a n true = true := by
  refine List.all_eq_true.mpr fun l hl => staged_window l ?_
  simp only [linesOf, List.mem_map, List.mem_range] at hl
  omega

theorem room_img1 : roomFor staged got1.img = true := by
  have c : got1.img.cores = [{ lcore := 0, base := 0, slots := [] }] := man1_cores
  have m : staged.fw.models = [] := by decide +kernel
  have o : takenParts staged = [] := by decide +kernel
  have p : (mapPhys staged 0).isSome = true := by decide +kernel
  have d : got1.img.dig = 0x400000000 := by decide +kernel
  simp only [roomFor, m, o, c, d, partRanges, List.filter_nil, List.length_nil, List.length_singleton, List.map_cons, List.map_nil, List.all_cons, List.all_nil, p]
  rw [staged_range _ _ (by decide), staged_range _ _ (by decide)]
  decide +kernel

theorem key_img1 {s : State} (k : s.fw.keyOff = false) (d : deviceId s = deviceId State.reset) : keyOk s img1 got1 = true := by
  have i : got1.img.id.toNat = 1 := by decide +kernel
  have u : unwraps 1 { dev := deviceId State.reset, epk := zeros 97, wrapped := wrap1.toNat } img1.key = true := beq_self_eq_true _
  simp [keyOk, k, d, got1]
  exact u

set_option maxRecDepth 100000 in
theorem staged_own : staged.fw.own = some { own0 with nImg := 1, roots := [Config.certRoot []] } := by rfl

theorem test_image_passes : loadFault staged img1 got1 = none := by
  have r : records got1.img = [] := man1_records.1
  have n : recCount got1.img = 0 := man1_records.2
  have q : staged.fw.placed = none := by decide +kernel
  have a : imageRoot staged got1.signed = true := root_of (o := { own0 with nImg := 1, roots := [Config.certRoot []] }) staged_own rfl rfl rfl
  have g : signatureOk got1.signed img1.nonce = true := beq_self_eq_true _
  have k : keyOk staged img1 got1 = true := key_img1 (by decide +kernel) (by decide +kernel)
  have e : imageEarly staged img1 got1 = none := by
    unfold imageEarly
    rw [a, g, if_neg (by decide +kernel), if_neg (by decide +kernel), k, if_neg (by decide +kernel), room_img1]
    rfl
  have h : got1.img.partDigest = BitVec.ofNat 384 (leAt man1 144 48) := rfl
  have c : got1.chunks = [] := rfl
  simp [loadFault, imageFault, imageLate, placedAlready, q, e, r, n, c, imageText, textDigests, twoLevel, h, man1_part]

/-- The part is bound already, or the table has its image with another digest, or a check fails. -/
theorem one_model {s : State} {m : Model} (h : s.fw.models = [m]) (g : Image) :
    (m.img = g → sameModel s g = some m) ∧
    (m.img = { g with digest := g.digest + 1 } → (s.fw.models.any fun y => y.img.id == g.id && y.img.digest != g.digest) = true ∧ sameModel s g = none) := by
  refine ⟨fun e => ?_, fun e => ?_⟩ <;> simp [sameModel, samePart, h, e]

theorem test_load_hypotheses :
    (partBusy staged got1.img = false ∧ loadsOk staged = true ∧ loadFault (member part1 (request 0x0301 0 State.reset)) img1 got1 = some 6) ∧
    (∀ m : Model, m.img = got1.img → sameModel (withModel m staged) got1.img = some m) ∧ staged.fw.models = [] ∧
    (∀ m : Model, m.img = { got1.img with digest := got1.img.digest + 1 } →
      ((withModel m staged).fw.models.any fun y => y.img.id == got1.img.id && y.img.digest != got1.img.digest) = true ∧
      sameModel (withModel m staged) got1.img = none) ∧
    loadsOk (set F.LC_STATE_STATE 5 staged) = false ∧ (model0 true true).bound = true ∧ (model0 true false).bound = false := by
  have w (m : Model) : (withModel m staged).fw.models = [m] := rfl
  refine ⟨by decide +kernel, fun m => (one_model (w m) _).1, by decide +kernel, fun m => (one_model (w m) _).2, by decide +kernel⟩
/-- Array 5 of core 0 serves slot 7 and has a re-steep request. -/
def worn : State := setBit (F.CAL_RESTEEP_REQ 0 0) 5 true (set (F.ARR_CTL_SLOT 0 5) 7 (setAct (F.ARR_CTL_SLOT 0 5) 7 idle))

theorem test_weight_hypotheses :
    (requests worn 0 = [5] ∧ emptySpare worn 0 = none ∧ corePart worn 0 = none ∧ coreUp worn 0 = true ∧
      flag worn (F.CORE_CTL_STATE_RUN_PEND 0) = false ∧ coreRuns worn 0 = false ∧ SMap.get 0 worn.fw.deferAt 0 = 0 ∧
      flag (setB (F.CORE_CTL_STATE_RUN_PEND 0) true worn) (F.CORE_CTL_STATE_RUN_PEND 0) = true) ∧
    (let s := updFw (fun k => { k with deferAt := [(0, 1)] }) (member part1 State.reset)
     SMap.get 0 s.fw.deferAt 0 = 0 + 1 ∧ corePart s 0 = some 0) := by decide +kernel

/-- A model of two rounds, in the table, whose partition is paused, and one whose record of core 0, slot 0, is POISONED. -/
def rounds2 : Model := { model0 true true with img := { image0 with rounds := 2 } }
def paused : State := withModel rounds2 (set F.TB_TICK_PERIOD_PERIOD 1000 (member { part1 with paused := true } State.reset))
def goldRec : GRec := { l := 0, slot := 0, w2 := false, addr := 0, dig := 0x400000000 }
def poisoned : Model :=
  { model0 true true with img := { image0 with cores := [{ lcore := 0, base := 0, slots := [(0, false)] }], dig := 0x400000000 } }

theorem test_round_hypotheses :
    (1 < rounds2.img.rounds ∧ rounds2.golden = true ∧ modelOf paused 5 = some rounds2 ∧ partRec paused 0 = some { part1 with paused := true } ∧
      (records rounds2.img).any (reloadWorn paused) = false ∧ goldClean paused (records rounds2.img) = true ∧ partPhys paused rounds2.img = []) ∧
    (let m := { rounds2 with img := { image0 with rounds := 2, cores := [{ lcore := 1, base := 0, slots := [(0, false)] }] } }
     (records m.img).any (reloadWorn (withModel m paused)) = true ∧ modelOf (withModel m paused) 5 = some m) ∧
    (rounds2.golden = true ∧ (model0 false false).bound = false ∧ mode (set F.GLB_MODE_MODE 1 paused) = 1 ∧ partBusy paused rounds2.img = false) ∧
    (SMap.get 0 (updFw (fun k => { k with retryAt := [(5, 1)] }) paused).fw.retryAt 5 = 0 + 1 ∧ SMap.get 0 paused.fw.retryAt 5 = 0) := by
  decide +kernel

theorem test_round_schedule : imgFault (owned paused) 0 schedImg1 = none ∧ imgFault paused 0 sched0 = some 3 :=
  ⟨imgFault_none (o := { own0 with nImg := 1, roots := [Config.certRoot []] }) rfl rfl rfl (by decide +kernel), by decide +kernel⟩

/-- No window opens the record to the management core, which reads it POISONED; the second chunk has no record. -/
theorem test_refetch_hypotheses :
    let s := withModel poisoned State.reset
    poisoned.golden = true ∧ modelOf s 5 = some poisoned ∧ ((records poisoned.img).drop (32 * 0)).take 32 = [goldRec] ∧
      (goldBad (((records poisoned.img).drop (32 * 0)).take 32) s).1 = true ∧
      (goldBad (((records poisoned.img).drop (32 * 1)).take 32) s).1 = false := by decide +kernel

theorem test_suspect_hypotheses :
    let s := setB (F.ARR_STAT_SUSPECT 0 5) true worn
    let w : Watch := { core := 0, arr := 5, slot := 7, entry := 0, till := 9 }
    (flag s (F.ARR_STAT_SUSPECT 0 5) = true ∧ actv s (F.ARR_CTL_SLOT 0 5) ≠ 0xFFF ∧ s.fw.watches = [] ∧ freeWatch s 0 = some 0) ∧
    freeWatch (upTo 8 (fun i s => set (F.PROOF_WATCH_EN 0 i) 1 s) s) 0 = none ∧
    ((updFw (fun k => { k with watches := [w] }) s).fw.watches.find? (fun w => w.core == 0 && w.arr == 5) = some w ∧
      w.till ≤ get (tick 9 s) F.TB_TICK_NUM_K ∧ coreRuns s 0 = false ∧ coreUp s 0 = true) := by decide +kernel

theorem test_fault_pause_hypotheses :
    let s := setBit F.FLT_STAT_UNACK 2 true (inState 4 (member part1 State.reset))
    coreState s 0 = 4 ∧ unacked s 2 = true ∧ logOf s 0 = some 0 ∧ corePart s 0 = some 0 ∧ standsStill s 0 = true ∧ hotSpare s = some 1 ∧
    standsStill (member { part1 with pauseK := some 3 } State.reset) 0 = false ∧
    hotSpare (upTo 20 (fun c s => set (F.CORE_CTL_STATE_STATE c) 4 s) s) = none ∧ canSteep s 0 1 = false ∧
    canSteep (set (F.THM_SENS_TEMP 1) 440 (setB (F.THM_SENS_VALID 1) true s)) 0 1 = true ∧ logOf State.reset 0 = none := by decide +kernel

/-- The life-cycle record of a device in FIELD_TEST that asks for FACTORY_TEST (Table 13.10). -/
def lifeCycle (st op : Nat) : State := set F.LC_STATE_STATE st (request op 0 State.reset)

theorem test_life_cycle_hypotheses :
    (takes_ { op := 0x0A02, min := true } q0 true [] [.lifeCycle] (lifeCycle 2 0x0A02) = true ∧ anyPart (lifeCycle 2 0x0A02) = false ∧
      loading (lifeCycle 2 0x0A02) = false ∧ lcAllowed (lifeCycle 2 0x0A02) 2 1 = true ∧ lcAllowed (lifeCycle 2 0x0A02) 2 3 = true ∧
      lcAllowed (set F.GLB_ID_PART 0x0E (lifeCycle 2 0x0A02)) 2 3 = false ∧ get (set F.GLB_ID_PART 0x0E (lifeCycle 2 0x0A02)) F.GLB_ID_PART = 0x0E ∧
      flag (lifeCycle 2 0x0A02) F.MBX_CTL_MINIMAL = false ∧ flag (setB F.MBX_CTL_MINIMAL true (lifeCycle 2 0x0A02)) F.MBX_CTL_MINIMAL = true ∧
      takes_ { op := 0x0A02, min := true } q0 true [] [.lifeCycle] (minimal (lifeCycle 2 0x0A02)) = true ∧
      lcAuthOk (lifeCycle 2 0x0A02) 1 { auth0 with src := 2, dst := 1, dev := BitVec.ofNat 128 (deviceId State.reset)
                                                   challenge := BitVec.ofNat 256 (get State.reset F.LC_CHALLENGE_VALUE) } = true) ∧
    (own0.form = true ∧ own0.sig = true ∧ own0.owner = State.reset.fw.own.isSome ∧ get State.reset F.LC_OWN_SEQ_SEQ < (64 : Word).toNat ∧
      own0.dev.toNat = deviceId State.reset) ∧
    takes_ { op := 0x0B01, min := true } q0 true [] [.firmware] (request 0x0B01 0 State.reset) = true ∧
    (let s := updFw (fun k => { k with boot := { k.boot with staged := true } }) (request 0x0B02 0 State.reset)
     takes_ { op := 0x0B02, min := true } q0 true [] [.firmware] s = true ∧ anyRuns s = false ∧ s.fw.pends = [] ∧ flag s F.MBX_CTL_MINIMAL = false) ∧
    (let s := inState 2 (request 0x0C03 0 State.reset)
     takes_ { op := 0x0C03 } q0 true [] [.core 0] s = true ∧ inSafe s = false ∧ s.fw.phase ≠ .drain ∧ resetBusy s 0 = false ∧ coreGood s 0 = true ∧ coreState s 0 = 2 ∧ coreState (inState 3 s) 0 = 3 ∧
      takes_ { op := 0x0C03 } q0 true [] ((scopeCores (.cluster 3)).map .core) s = true ∧
      (scopeCores (.cluster 3)).all (fun d => !coreGood s d || !resetBusy s d) = true ∧ takes_ { op := 0x0C03 } q0 true [] [] s = true) := by decide +kernel

theorem test_pending_hypotheses :
    let p : Pend := { fn := 0, opcode := 0x0B01, tag := 0, seq := 4, part := 0, buf := 0, bufLen := 0, objs := [], act := .fails 6, due := none, orphan := false }
    let s := fun (p : Pend) => updFw (fun k => { k with pends := [p] }) (request 0 0 State.reset)
    pendOf (s p) 0 4 = some p ∧ flag (s p) F.MBX_CTL_FW_UP = true ∧ inSafe (s p) = false ∧ actDone (s p) p = true ∧
    inSafe (setB F.FLT_STAT_SAFE true (s p)) = true ∧ needsData (.running 0) = true ∧
    (let q : Pend := { p with act := .running 0, due := some 5 }
     actDone (member part1 (s q)) q = false ∧ now (s q) < 5 ∧ 5 ≤ now (set F.TB_TIME_TIME 5 (member part1 (s q))) ∧
       actDone (set F.TB_TIME_TIME 5 (member part1 (s q))) q = false) ∧
    (let w : OwnIn := { own0 with nMgmt := 1, roots := [3] }
     (3 : BitVec 384) ∈ (w.roots.drop (w.nImg.toNat + w.nInst.toNat)).take w.nMgmt.toNat ∧ (s p).fw.keyOff = false ∧ (s p).fw.sessions < 4 ∧ 4 ≤ (updFw (fun k => { k with sessions := 4 }) (s p)).fw.sessions ∧
       get (set F.LC_STATE_STATE 1 (s p)) F.LC_STATE_STATE = 1) := by
  decide +kernel

/-! ### Resets, start and partitions -/

theorem test_reset_hypotheses :
    let inPhase := fun (x : Phase) => updFw (fun k => { k with phase := x }) State.reset
    (get (set F.LC_WDOG_TIMEOUT_MS 5 State.reset) F.LC_WDOG_TIMEOUT_MS ≠ 0 ∧ get (set F.LC_WDOG_TIMEOUT_MS 0 State.reset) F.LC_WDOG_TIMEOUT_MS = 0) ∧
    ((inPhase .up).fw.phase = .up ∧ (inPhase .held).fw.phase = .held ∧ State.reset.fw.phase ≠ .held ∧ State.reset.fw.phase ≠ .drain ∧
      (inPhase .drain).fw.phase = .drain ∧ anyInFlight (inPhase .drain) = false) ∧ ((19 : CoreIx).val / 5 = (3 : Fin 4).val ∧ (14 : CoreIx).val / 5 ≠ (3 : Fin 4).val) ∧
    ((inPhase (.step 2)).fw.phase = .step 2 ∧ (inPhase (.step 3)).fw.phase = .step 3 ∧ State.reset.fw.phase = .step 0 ∧
      logicIdle (set (F.CORE_CTL_STATE_STATE 0) 3 State.reset) = false) ∧
    (logicIdle State.reset = true ∧ get (set F.LC_STATE_STATE 1 State.reset) F.LC_STATE_STATE = 1) ∧
    (get (set F.LC_BIST_STAT_STATE 1 (inPhase .shut)) F.LC_BIST_STAT_STATE = 1 ∧ (inPhase .shut).fw.phase = .shut ∧ get State.reset F.LC_BIST_STAT_STATE ≠ 1) ∧
    flag (setB F.MBX_CTL_UPDATING true State.reset) F.MBX_CTL_UPDATING = true ∧ get (set F.LC_STATE_STATE 0 State.reset) F.LC_STATE_STATE = 0 ∧
    get State.reset F.LC_STATE_STATE ≠ 0 := by decide +kernel

theorem test_start_hypotheses :
    let x : StartIn := { start0 with challenge := 7 }
    x.fail = none ∧ State.reset.fw.phase = .step 0 ∧ State.reset.fw.boot.copyA.ok = true ∧ State.reset.fw.boot.prefB = false ∧
    romCopy State.reset.phys.rollback State.reset.fw.boot = some (false, State.reset.fw.boot.copyA) ∧
    romCopy 0 { State.reset.fw.boot with copyA := { ver := 0, level := 0, asks := false, ok := false }
                                         copyB := { ver := 0, level := 0, asks := false, ok := false } } = none ∧
    get State.reset F.LC_STATE_STATE ≠ 5 ∧ State.reset.fw.boot.attempts < 3 ∧ x.bist.pass = true ∧
    (routerPresent State.reset 19 = true ∧ flag State.reset (F.RTR_CTL_EN 19) = false) ∧
    16 ≤ ((allCores.filter fun c => coreGood State.reset c && coreState (upTo 20 (fun c s => set (F.CORE_CTL_STATE_STATE c) 1 s) State.reset) c == cReset).filter
      fun c => !([] : List Nat).contains c).length ∧ finalReason 5 = false ∧ finalReason 1 = true ∧
    (x.windows.length ≤ 4 ∧ eraseWaits State.reset = false ∧
      eraseWaits (updFw (fun k => { k with boot := { k.boot with erasePend := true } }) State.reset) = true) := by decide +kernel

/-- The stacks train, are up, or one has a channel that cannot be trained; step 4 waits for a port, or has ended. -/
theorem test_start_phase_hypotheses :
    let st := fun (n : Nat) => set (F.STK_STAT_STATE 0) n State.reset
    let four := fun (s : State) => updFw (fun k => { k with stepFour := true }) s
    failedStack (st 1) = none ∧ get (st 1) (F.STK_STAT_STATE 0) = 1 ∧ failedStack (st 2) = none ∧ get (st 2) (F.STK_STAT_STATE 0) ≠ 1 ∧
    failedStack (st 4) = some 0 ∧ ((95 : Byte).toNat < 96 ∧ ¬ (96 : Byte).toNat < 96) ∧ (four State.reset).fw.stepFour = true ∧
    fourEnded (four (set (F.FAB_STAT_STATE 11) 2 State.reset)) = false ∧ fourEnded (four (set F.TB_STAT_SYNC 5 State.reset)) = true ∧
    3 ≤ (updFw (fun k => { k with boot := { k.boot with attempts := 3 } }) State.reset).fw.boot.attempts := by decide +kernel

/-- R358: step 0 of the start puts its random challenge in LC_CHALLENGE, and step 1 is due. -/
theorem test_start_step :
    let x : StartIn := { start0 with challenge := 7 }
    (match exec (.packageStart x) State.reset with
      | .next t => (get t F.LC_CHALLENGE_VALUE, decide (t.fw.phase = .step 1)) | _ => (0, false)) = (7, true) := by decide +kernel

theorem test_message_hypotheses :
    let s := member part1 State.reset
    let two := PartRec.fresh 7 0 [0, 1] 0 0
    (partRec s 0 = some part1 ∧ part1.own = part1.coord ∧ part1.paused = false ∧ part1.pauseK = none) ∧
    (let all := fun (r : PartRec) (l : NSet) => (List.range r.members.length).all fun i => NSet.has l i
     all two (NSet.add [] 1) = false ∧ all two (NSet.add [0] 1) = true) ∧ (PartRec.fresh 7 0 [0, 1] 1 0).own ≠ (PartRec.fresh 7 0 [0, 1] 1 0).coord ∧
    (let t := set F.TB_TICK_PERIOD_PERIOD 1000 s
     curK t + partDiv t 0 < 2 ∧ 1 ≤ curK t + partDiv t 0 ∧ now t ≤ boundaryAt t 1 - 200 ∧ part1.startK = none) ∧
    (let fb := two.fbReps ++ [((0 : Nat), 0, [], false)]
     two.fbDone ≤ 0 ∧ (two.fbReps.any fun x => x.1 == 0 && x.2.1 == 0) = false ∧
      (List.range two.members.length).all (fun i => fb.any fun x => x.1 == 0 && x.2.1 == i) = false ∧
      (List.range part1.members.length).all (fun i => fb.any fun x => x.1 == 0 && x.2.1 == i) = true) ∧
    (let w := winLen s 0
     lastWindow (tick w s) 0 = some 0 ∧ part1.winDone ≤ 0 ∧ ({ part1 with winDone := 1 } : PartRec).winDone = 1) ∧
    (part1.switchK = none ∧ partCores s 0 = [0]) ∧ (2 ≤ ({ part1 with missed := 2 } : PartRec).missed ∧ part1.missed < 2) := by decide +kernel

/-- Partition 0 runs slow under throttle, and has no longer schedule; one has. -/
theorem test_switch_hypotheses :
    let s := member part1 State.reset
    let e := halfCore true 0
    let slow := setB F.THM_STAT_THR_W true (setB F.THM_STAT_THR_E true (member { part1 with bank0 := some { sched1 with half := 3 } } State.reset))
    let w := halfParts slow e
    (winLen s 0 = part1.wlen ∧ renumber 0 s = s ∧ partRec (renumber 0 s) 0 = some part1) ∧
    (let t := set (F.LEAVEN_CTL_WIN_LOG2 0) 10 s
     (partRec (renumber 0 t) 0).map (fun r => r.wlen) = some 1024) ∧
    (flag s F.TB_STAT_GATE_ARMED = false ∧ (List.range 16).all (fun p => plannedK s p == none) = true ∧ s.fw.halfAt = [] ∧
      throttled s false = false ∧ throttled s true = false ∧ (partCores s 0).all (coreUp s) = true) ∧
    (w = [0] ∧ throttled slow e = true ∧ isSlow slow e = false ∧
      w.all (fun p => runsSlow (activeSched slow p) e && !hasLonger slow p) = true) ∧
    isSlow (set F.TB_HALF_CLK_EAST_SLOW 1 slow) true = true ∧ (hasLonger standby 0 = true ∧ isCoord standby 0 = true) ∧
    isCoord (member { part1 with coord := 1 } State.reset) 0 = false ∧ hasLonger s 0 = false ∧
    (let t := set F.TB_TICK_PERIOD_PERIOD 1000 s
     curK t + partDiv t 0 < 9 ∧ boundaryAt t 1 - 200 < now (set F.TB_TIME_TIME 900 t) ∧ 1 ≤ curK (set F.TB_TIME_TIME 900 t) + partDiv t 0) ∧
    ({ part1 with missed := 2, own := 1 }.own ≠ { part1 with missed := 2, own := 1 }.coord) ∧
    ({ part1 with missed := 2, own := 2 }.own ≠ 1) := by decide +kernel

/-- A core of the partition runs, and the tick before the agreed one has started; the gate is not busy. -/
theorem test_notice_hypotheses :
    let s := inState 3 (member part1 State.reset)
    partRec s 0 = some part1 ∧ partCores s 0 = [0] ∧ coreState s 0 = 3 ∧ coreGood s 0 = true ∧ netHeld s = false ∧ 1 ≤ curK s + partDiv s 0 ∧
    gateBusy s = false ∧ flag s F.TB_STAT_TICK_ON = false ∧ (let t := set F.TB_TICK_PERIOD_PERIOD 1000 s; now t < boundaryAt t 1) ∧
    ({ part1 with pauseK := some 3 } : PartRec).pauseK.isSome = true ∧
    SMap.get 0 s.fw.linkSt (0 * 16 + 11) ≠ (3 : BitVec 3).toNat + 1 ∧
    SMap.get 0 (updFw (fun k => { k with linkSt := SMap.put 0 k.linkSt 11 4 }) s).fw.linkSt 11 = (3 : BitVec 3).toNat + 1 := by decide +kernel

/-! ### The queue and reset -/

theorem test_empty_queue : State.reset.pending = [] ∧ State.reset.sound = true ∧ State.reset.queueWf = true := by decide +kernel

/-- A queue with a well-formed command, in a sound state, whose step answers a next state. -/
theorem test_step_hypotheses :
    let s := { State.reset with pending := [.meshEnable 0, .inputLoad 0 2559] }
    s.sound = true ∧ s.queueWf = true ∧ (match step s with | .next t => t.pending == [.inputLoad 0 2559] | _ => false) = true := by decide +kernel

/-- Table 1.3 and the block's tables: reset values of the life cycle, of the array directory and of the time base. -/
theorem test_reset_values : get State.reset (F.ARR_CTL_SLOT 0 0) = 0xFFF ∧ get State.reset F.LC_STATE_STATE = 3 ∧ now State.reset = 0 := by decide +kernel

/-- No row of the opcode table has bits, so no word spells a command. -/
theorem test_no_word_spells_a_command : decodeTableWord 32 0 = none ∧ State.withFetchWord State.reset 32 0 = State.reset := by decide +kernel

/-! ### Worked examples of the specification -/

/-- Table 2.8: an A4 firing hands its codes off at 1400 ns and releases its array at 1600 ns. -/
theorem test_firing_offsets :
    (let f := { fire0 with rcp := some { rcpA8 with a4 := true } }
     (handOffset f { rcpA8 with a4 := true }, endOffset f { rcpA8 with a4 := true })) = (1400, 1600) := by decide +kernel

/-- A conversion of column codes, with no checksum. -/
def plane (p : Nat) (c : Int) : Conv :=
  { plane := p, pass := 0, codes := [c :: List.replicate 255 0], satE := false, satO := false, csE := 0, csO := 0, refP := 0, refZ := 0, expP32 := 0
    blocks := 0 }

/-- Table 3.7: codes 12, -7 and 20 of planes 0, 1 and 2 add to 78. -/
theorem test_shift_add : (nth [] (shiftAdd false [plane 0 12, plane 1 (-7), plane 2 20]) 0).head? = some 78 := by decide +kernel

/-- R85: with arrays 100 and 2000 bad, the good arrays in ascending order take slots 0, 1, 2, and so on. -/
theorem test_good_arrays :
    (let l := goodArrays (set (F.ARR_STAT_STATE 0 100) 0 (set (F.ARR_STAT_STATE 0 2000) 0 State.reset)) 0
     (nth 0 l 99, nth 0 l 100, nth 0 l 1998, nth 0 l 1999, nth 0 l 2559)) = (99, 101, 1999, 2001, 2561) := by decide +kernel

/-- A record with OFS and GAIN of converter 0, and REF_I. -/
def record (o g r : Nat) : List Byte :=
  let b := natLe 54 (o + 2 ^ 6 * g) ++ natLe 1 r ++ natLe 1 1 ++ zeros 4
  b ++ natLe 4 (crc32 b)

/-- Core 0 with records of its array 5 at 55 °C and 75 °C. -/
def calibrated : State :=
  let s := idle
  { s with mem := { s.mem with
      cal := wrBytes (wrBytes s.mem.cal (recAddr 0 1 5) (record (2 ^ 6 - 3) (2 ^ 5 - 1) 8)) (recAddr 0 2 5) (record (2 ^ 6 - 1) 1 34) } }

/-- Table 4.5: interpolated at 63.375 °C, REF_I is 19, the offset of -3 and -1 is -2, and the gain of -1 and 1 is 0. -/
theorem test_interpolation :
    (interp calibrated 0 5 507 recRef, interp calibrated 0 5 507 (fun l => recOfs l 0), interp calibrated 0 5 507 (fun l => recGain l 0)) =
      (some 19, some (-2), some 0) := by decide +kernel

/-- Table 4.5, worked example: a pass that starts 400 ns into a tick reaches array 1204 at 9430 ns; it takes 19.7 us. -/
theorem test_pass_reaches :
    (let p : CalPass := { temp := 507, t0 := 400, next := 0, slow := false }
     (p.reach 1204, p.reach 2624 - p.t0)) = (9430, 19680) := by decide +kernel

/-- Route entries for one destination, some routers listed absent. -/
def laid (gone : List Nat) (d : Nat) : State :=
  let s := each gone (fun c s => setB (F.RTR_STAT_PRESENT c) false s) State.reset
  each allCores (fun c s => set (F.RTR_ROUTE_OUT c d) (routeEntry s c d).1 s) s

/-- Hops and latency of a path, as CORE_DIST shows them. -/
def distOf (s : State) (c d : Nat) : Nat × Nat :=
  match path s c d with | some p => (p.1, latOf d p.1 (p.2 && decide (d < 20))) | none => (0, 0)

/-- Table 8.4: STK0, STK1, STK2, FAB0 and FAB6 are nodes 20 to 23 and 29. -/
theorem test_distances :
    [20, 21, 22, 23, 29].map (fun d => let s := laid [] d; [0, 7, 12, 19].map fun c => distOf s c d) =
      [[(1, 89), (1, 89), (5, 104), (8, 115)], [(4, 100), (3, 97), (2, 93), (5, 104)], [(7, 112), (6, 108), (0, 85), (2, 93)],
        [(0, 3), (3, 9), (7, 16), (10, 22)], [(9, 20), (8, 18), (2, 7), (1, 5)]] := by decide +kernel

/-- Table 8.4, last row: the router of core 3 is absent. -/
theorem test_distances_around :
    [20, 21, 22, 23, 29].map (fun d => distOf (laid [3] d) 0 d) = [(1, 89), (6, 108), (9, 119), (0, 3), (11, 24)] := by decide +kernel

/-- R250, worked example: line 17716h lies in channel 7, bank 0, of stack 1. -/
theorem test_line_place : (lineStack 0x17716, lineChannel 0x17716, lineBank 0x17716) = (1, 7, 0) := by decide +kernel

/-- R118, worked example: tick 012A9000h begins at 31,306,547,200 ns. -/
theorem test_tick_boundary : boundaryAt (set F.TB_TICK_PERIOD_PERIOD 1600 State.reset) 0x12A9000 = 31306547200 := by decide +kernel

/-- R425, worked example: 2,414,241 is below the lower limit of channel 0. -/
theorem test_telemetry_limit :
    (match exec (.telConversionEnd 2414241 false) (State.reset |> set (F.TEL_LIM_LO 0) 0x24DD2F |> set (F.TEL_LIM_HI 0) 0x27EF9E
        |> setB (F.TEL_LIM_EN 0) true |> setB F.TEL_STAT_BUSY true) with
      | .next t => (get t F.TEL_LIM_CNT, get t F.TEL_ALARM_LO, get t F.TEL_ALARM_HI) | _ => (0, 0, 0)) = (1, 1, 0) := by decide +kernel

/-- Table 15.6: at 95.125 °C sensor 14 warns, at 98 °C its half samples fast, at 103 °C it throttles. -/
theorem test_throttle_timeline :
    (match exec (.sensorSample 14 761 true) State.reset with
      | .next t => (get t F.THM_WARN_CNT, flag t F.THM_STAT_WARN_E, get t F.THM_FAST_CNT) | _ => (0, false, 0)) = (1, true, 0) ∧
    (match exec (.sensorSample 14 784 true) State.reset with | .next t => get t F.THM_FAST_CNT | _ => 0) = 1 ∧
    (match exec (.sensorSample 14 824 true) State.reset with
      | .next t => (get t F.THM_THR_CNT, flag t F.THM_STAT_THR_E) | _ => (0, false)) = (1, true) := by decide +kernel

end Sys2Proof.Machine.Tests
end

namespace Sys2Proof

/-- A key that a filter keeps reads as before. -/
theorem SMap.get_filter {β : Type} (d : β) (m : SMap β) {p : Nat × β → Bool} {k : Nat} (h : ∀ v, p (k, v) = true) :
    SMap.get d (m.filter p) k = SMap.get d m k := by
  induction m with
  | nil => rfl
  | cons q m ih =>
    rw [List.filter_cons]
    split
    · simp [SMap.get, ih]
    · next hq =>
      have hk : q.1 ≠ k := by
        rintro rfl
        exact hq (h q.2)
      simp [SMap.get, hk, ih]

end Sys2Proof

namespace Sys2Proof.Machine

/-! ### Rights -/

/-- No register that the access meets is one that the agent may reach. -/
theorem admitted_eq_false {s : State} {a : Agent} {wr : Bool} {addr n : Nat} (hc : inCalWindow addr = false)
    (hp : inProgWindow addr = true → a = .host)
    (hr : inProgWindow addr = false → ∀ h, h ∈ hits addr n → mayReach s a wr h.1.reach = false) :
    admitted s a wr addr n = false := by
  unfold admitted
  cases hw : inProgWindow addr with
  | true => simp [hp hw]
  | false => simpa [hc] using fun _ x e hx => hr hw (x, e) hx

/-! ### What a write does -/

theorem writeBits_denied {a : Agent} {addr n m v : Nat} {s : State} (hm : n / 8 = m) (h : admitted s a true addr m = false) :
    writeBits a addr n v s = bump F.GLB_DENIED_CNT s := by
  subst hm
  simp [writeBits, h, denied]

/-- What the management core writes to a CAL block it notes (R141). -/
def noteWrite (a : Agent) (addr n : Nat) (s : State) : State := if a = .mgmt then noteCal addr n s else s

/-- An admitted write outside the windows acts on every register it meets. -/
theorem writeBits_regs {a : Agent} {addr n m v : Nat} {s : State} (hm : n / 8 = m) (h : admitted s a true addr m = true)
    (hp : inProgWindow addr = false) (hc : inCalWindow addr = false) :
    writeBits a addr n v s = noteWrite a addr n (each (hits addr m) (writeReg a addr n v) (gateHook addr v s)) := by
  subst hm
  simp [writeBits, noteWrite, h, hp, hc]

theorem writeBits_prog {a : Agent} {addr n m v c : Nat} {s : State} (hm : n / 8 = m) (h : admitted s a true addr m = true)
    (hp : inProgWindow addr = true) (hc : coreOf addr = some c) : writeBits a addr n v s = writeProg c addr v s := by
  subst hm
  simp [writeBits, h, hp, hc]

/-- The window of the calibration store takes no register write. -/
theorem writeBits_cal {a : Agent} {addr n v : Nat} {s : State} (hd : domainDown s addr = false)
    (hp : inProgWindow addr = false) (hc : inCalWindow addr = true) : writeBits a addr n v s = s := by
  simp [writeBits, admitted, hd, hp, hc]

theorem execRegisterWrite_narrow (a : Agent) (addr : BitVec 26) (v : Word64) (s : State) :
    exec (.registerWrite a none addr false v) s =
      .next (writeBits a (addr.toNat / 4 * 4) 32 (v.toNat % 2 ^ 32) (catchUpAt (addr.toNat / 4 * 4) s)) := rfl

theorem execRegisterWrite_wide {a : Agent} {addr : BitVec 26} {v : Word64} {s : State} (h : in64 (addr.toNat / 8 * 8) = true) :
    exec (.registerWrite a none addr true v) s = .next (writeBits a (addr.toNat / 8 * 8) 64 v.toNat (catchUpAt (addr.toNat / 8 * 8) s)) := by
  simp [exec_registerWrite, execRegisterWrite, h]

/-- R13: 64 bits that lie in no 64-bit register are two writes, the lower address first. -/
theorem execRegisterWrite_split {a : Agent} {addr : BitVec 26} {v : Word64} {s : State} (h : in64 (addr.toNat / 8 * 8) = false) :
    exec (.registerWrite a none addr true v) s = .next (writeBits a (addr.toNat / 8 * 8 + 4) 32 (v.toNat / 2 ^ 32)
      (writeBits a (addr.toNat / 8 * 8) 32 (v.toNat % 2 ^ 32) (catchUpAt (addr.toNat / 8 * 8) s))) := by
  simp [exec_registerWrite, execRegisterWrite, h]

/-- An address of a 64-bit register lies in no window. -/
theorem in64_windows {addr : Nat} (h : in64 addr = true) : inProgWindow addr = false ∧ inCalWindow addr = false := by
  simp only [in64, Bool.and_eq_true, Bool.not_eq_true'] at h
  obtain ⟨⟨⟨-, hp⟩, hc⟩, -⟩ := h
  exact ⟨hp, hc⟩

/-! ### What a read does -/

theorem read32_denied {a : Agent} {addr : Nat} {s : State} (h : admitted s a false addr 4 = false) :
    read32 a addr s = answer a 0 (bump F.GLB_DENIED_CNT s) := by
  simp [read32, h, denied]

/-- The low half of a 64-bit register latches the high half. -/
theorem read32_low {a : Agent} {addr : Nat} {s : State} (h : admitted s a false addr 4 = true) (h64 : in64 addr = true) :
    read32 a addr s = answer a (readBits s a addr 32) (putLatch a (some { addr := addr + 4, half := readBits s a (addr + 4) 32 }) s) := by
  simp [read32, h, h64]

/-- The latched half is answered once. -/
theorem read32_latched {a : Agent} {addr x : Nat} {s : State} (h : admitted s a false addr 4 = true) (h64 : in64 addr = false)
    (hl : latchOf s a = some { addr := addr, half := x }) : read32 a addr s = answer a x (putLatch a none s) := by
  simp [read32, h, h64, hl]

theorem read32_plain {a : Agent} {addr : Nat} {s : State} (h : admitted s a false addr 4 = true) (h64 : in64 addr = false)
    (hl : ∀ l, latchOf s a = some l → l.addr ≠ addr) : read32 a addr s = answer a (readBits s a addr 32) s := by
  unfold read32
  cases hk : latchOf s a with
  | none => simp [h, h64]
  | some l => simp [h, h64, hl l hk]

theorem read64_denied {a : Agent} {addr : Nat} {s : State} (h : admitted s a false addr 8 = false) (h64 : in64 addr = true) :
    read64 a addr s = answer a 0 (bump F.GLB_DENIED_CNT s) := by
  simp [read64, h, h64, denied]

theorem read64_whole {a : Agent} {addr : Nat} {s : State} (h : admitted s a false addr 8 = true) (h64 : in64 addr = true) :
    read64 a addr s = answer a (readBits s a addr 64) s := by
  simp [read64, h, h64]

/-- R13: 64 bits that lie in no 64-bit register are two reads, the lower address first. -/
theorem read64_split {a : Agent} {addr : Nat} {s : State} (h64 : in64 addr = false) :
    read64 a addr s = answer a (readData (read32 a addr s) a + 2 ^ 32 * readData (read32 a (addr + 4) (read32 a addr s)) a)
      (read32 a (addr + 4) (read32 a addr s)) := by
  simp [read64, h64]

theorem execRegisterRead_narrow (a : Agent) (addr : BitVec 26) (s : State) :
    exec (.registerReadLatch a none addr false) s = .next (read32 a (addr.toNat / 4 * 4) (catchUpAt (addr.toNat / 4 * 4) s)) := rfl

theorem execRegisterRead_wide (a : Agent) (addr : BitVec 26) (s : State) :
    exec (.registerReadLatch a none addr true) s = .next (read64 a (addr.toNat / 8 * 8) (catchUpAt (addr.toNat / 8 * 8) s)) := rfl

/-! ### Reset, and accesses without rights -/

/-- Settles O3: nothing is listed after reset, so every read gives the default. -/
theorem resetGivesResetColumn : Obligations.ResetGivesResetColumn :=
  ⟨fun _ => ⟨rfl, rfl⟩, rfl, rfl, rfl, rfl, rfl, fun _ => rfl, rfl⟩

/-- Settles O33: a barred access is not admitted, and what is not admitted is counted. -/
theorem accessWithoutRightsIsCounted : Obligations.AccessWithoutRightsIsCounted := by
  intro a addr v w mask k s b d s1 s2 barred counted
  have no : ∀ {wr b n}, barred wr b n → admitted (catchUpAt b s) a wr b n = false :=
    fun ⟨hc, hp, hr⟩ => admitted_eq_false hc hp hr
  refine ⟨fun h => ?_, fun h h64 => ?_, fun h => ?_, fun h h64 => ?_, fun h => ?_, rfl, rfl, rfl, rfl, rfl, rfl, rfl, rfl⟩
  · exact congrArg _ (writeBits_denied (m := 4) rfl (no h))
  · exact (execRegisterWrite_wide h64).trans (congrArg _ (writeBits_denied (m := 8) rfl (no h)))
  · exact congrArg _ (read32_denied (no h))
  · exact congrArg _ (read64_denied (no h) h64)
  · simp [exec, execBistRun, h, counted, denied]

/-! ### What catching up leaves alone -/

/-- There are 20 core blocks (R45). -/
theorem coreOf_lt {a c : Nat} (h : coreOf a = some c) : c < 20 := by
  unfold coreOf at h
  split at h
  · next ha =>
    simp only [Bool.and_eq_true, decide_eq_true_eq] at ha
    obtain rfl := Option.some.inj h
    omega
  · cases h

/-- Active values, the memories, the last host take and the instant are as before. -/
structure PassFrame (s t : State) : Prop where
  act : t.act = s.act
  mem : t.mem = s.mem
  hostSnap : t.hostSnap = s.hostSnap
  now : now t = now s

theorem PassFrame.refl (s : State) : PassFrame s s := ⟨rfl, rfl, rfl, rfl⟩

theorem PassFrame.trans {r s t : State} (h : PassFrame r s) (k : PassFrame s t) : PassFrame r t :=
  ⟨k.act.trans h.act, k.mem.trans h.mem, k.hostSnap.trans h.hostSnap, k.now.trans h.now⟩

theorem PassFrame.each {α : Type} (l : List α) {f : α → State → State} (s : State) (h : ∀ a ∈ l, ∀ t, PassFrame t (f a t)) :
    PassFrame s (each l f s) := by
  induction l generalizing s with
  | nil => exact .refl s
  | cons a l ih => exact (h a (by simp) s).trans (ih _ fun b hb => h b (by simp [hb]))

/-- A write of a register other than the time. -/
theorem PassFrame.set (s : State) {f : Fld} (hf : f.key ≠ F.TB_TIME_TIME.key) (v : Nat) : PassFrame s (set f v s) :=
  ⟨rfl, rfl, rfl, get_set_ne hf.symm v s⟩

theorem PassFrame.bump (s : State) {f : Fld} (hf : f.key ≠ F.TB_TIME_TIME.key) : PassFrame s (bump f s) := PassFrame.set s hf _

theorem PassFrame.updCore (c : Nat) (f : CoreSt → CoreSt) (s : State) : PassFrame s (updCore c f s) := ⟨rfl, rfl, rfl, rfl⟩

theorem FltOnly.passFrame {s t : State} (h : FltOnly s t) : PassFrame s t :=
  ⟨by rw [h.1], by rw [h.1], by rw [h.1], h.2 F.TB_TIME_TIME (.inl (by decide))⟩

/-- An event of class L0 that no rule escalates reaches the fault collector alone. -/
theorem raise_passFrame (e : Ev) (s : State) (hn : srcEscalates e.src = false) (hs : e.src < 0x30) (he : e.esc = false) (hd : e.dom < 256) :
    PassFrame s (raise e s) :=
  (raise_flt e s hn (by simp [srcClass, hs]) he hd (by omega)).passFrame

theorem hwSet_passFrame (s : State) {f : Fld} (hf : f.key ≠ F.TB_TIME_TIME.key) (i : Nat) : PassFrame s (hwSet f i s) :=
  (PassFrame.set s hf _).trans ⟨rfl, rfl, rfl, rfl⟩

theorem shadowAt_passFrame (s : State) {f : Fld} (hf : f.key ≠ F.TB_TIME_TIME.key) (at_ v : Nat) : PassFrame s (shadowAt at_ f v s) := by
  unfold shadowAt
  split
  · exact .refl s
  · exact (PassFrame.set s hf v).trans ⟨rfl, rfl, rfl, rfl⟩

/-- The fields that an interpolation pass writes lie in the block of their core. -/
theorem trimValues_key {s : State} {c n : Nat} {t : Int} {l : List (Fld × Int)} (h : trimValues s c n t = some l) :
    ∀ p ∈ l, p.1.key ≠ F.TB_TIME_TIME.key := by
  unfold trimValues at h
  split at h
  · exact absurd h (by simp)
  · obtain rfl := Option.some.inj h
    intro p hp
    simp only [List.mem_cons, List.mem_append, List.mem_map] at hp
    rcases hp with (rfl | ⟨k, -, rfl⟩) | ⟨k, -, rfl⟩ <;>
      simp only [F.ARR_TRIM_REF_REF_I, F.TB_TIME_TIME, trimOfs, trimGain] <;> omega

theorem passArray_passFrame {c : Nat} (hc : c < 20) (t : Int) (at_ n : Nat) (s : State) : PassFrame s (passArray c t at_ n s) := by
  unfold passArray
  split
  · refine (PassFrame.bump s ?_).trans (raise_passFrame _ _ rfl (show 0x14 < 0x30 by decide) rfl (Nat.lt_trans hc (by decide)))
    show 0x84002c0 + c * 0x800000 ≠ 0x1000040
    omega
  · next l hl =>
    have hs := PassFrame.each l (f := fun p s => shadowAt at_ p.1 (twos p.1.width (clipField p.1.width p.2)) s) s
      fun p hp t => shadowAt_passFrame t (trimValues_key hl p hp) at_ _
    dsimp only
    split
    · refine (hs.trans (PassFrame.bump _ ?_)).trans (hwSet_passFrame _ ?_ _)
      · show 0x8400280 + c * 0x800000 ≠ 0x1000040
        omega
      · show 0x8400800 + c * 0x800000 + n / 32 * 0x20 ≠ 0x1000040
        omega
    · exact hs

theorem catchUp_passFrame {c : Nat} (hc : c < 20) (s : State) : PassFrame s (catchUp c s) := by
  unfold catchUp passTo
  split
  · exact .refl s
  · exact (PassFrame.each _ _ fun x _ t => passArray_passFrame hc _ _ _ t).trans (PassFrame.updCore _ _ _)

theorem countFiring_passFrame (c : Nat) (x : Firing) (s : State) : PassFrame s (countFiring c x s) := by
  have hf : ∀ n t, PassFrame t (bump (F.ARR_FIRE_CNT c n) t) := fun n t =>
    PassFrame.bump t (by simp only [F.ARR_FIRE_CNT, F.TB_TIME_TIME]; omega)
  have hz : ∀ n t, PassFrame t (bump (F.ARR_ZERO_CNT c n) t) := fun n t =>
    PassFrame.bump t (by simp only [F.ARR_ZERO_CNT, F.TB_TIME_TIME]; omega)
  unfold countFiring
  split
  · split
    · exact .refl s
    · exact when_keeps (P := PassFrame s) _ (hf _ s) fun t ht => ht.trans (hz _ t)
  · exact .refl s

theorem latchDue_passFrame (c : Nat) (s : State) : PassFrame s (latchDue c s) := by
  unfold latchDue
  dsimp only
  split
  · exact .refl s
  · exact (PassFrame.each _ _ fun x _ t => countFiring_passFrame c x t).trans (PassFrame.updCore _ _ _)

theorem catchUpAt_passFrame (addr : Nat) (s : State) : PassFrame s (catchUpAt addr s) := by
  unfold catchUpAt
  split
  · next c hc => exact (catchUp_passFrame (coreOf_lt hc) s).trans (latchDue_passFrame c _)
  · exact .refl s

/-! ### Register writes and active values -/

theorem when_act {b : Bool} {f : State → State} {s : State} (h : (f s).act = s.act) : (when b f s).act = s.act := by
  cases b
  · rfl
  · exact h

theorem setFor_act (a : Agent) (f : Fld) (v : Nat) (s : State) : (setFor a f v s).act = s.act := by
  unfold setFor
  split <;> rfl

theorem clearCapture_act (e : Nat) (s : State) : (clearCapture e s).act = s.act := by
  unfold clearCapture
  split <;> rfl

theorem clearPeak_act (e v : Nat) (s : State) : (clearPeak e v s).act = s.act := by
  unfold clearPeak
  split
  · exact when_act rfl
  · rfl

theorem woHook_act (e lo v : Nat) (s : State) : (woHook e lo v s).act = s.act := by
  unfold woHook
  split
  · exact when_act rfl
  split
  · exact when_act rfl
  split
  · exact when_act rfl
  · rfl

theorem gateHook_act (addr v : Nat) (s : State) : (gateHook addr v s).act = s.act := when_act rfl

theorem shadowWrite_act (m : Bool) (f : Fld) (v : Nat) (s : State) : (shadowWrite m f v s).act = s.act := rfl

theorem retick_act (s : State) : (retick s).act = s.act := when_act (s := set _ _ (setB _ _ s)) rfl

theorem envHook_act (a : Agent) (c i : Nat) (s : State) : (envHook a c i s).act = s.act := by
  unfold envHook
  dsimp only
  split <;> rfl

theorem noParent_act (s : State) : (noParent s).act = s.act := by
  unfold noParent
  split <;> rfl

theorem rwlHook_act (a : Agent) (e lo : Nat) (s : State) : (rwlHook a e lo s).act = s.act := by
  unfold rwlHook
  split
  · exact retick_act s
  split
  · exact noParent_act s
  split
  · dsimp only
    split
    · exact envHook_act a _ _ s
    · rfl
  · rfl

/-- R15: an RWS field takes its shadow, and the other fields have no active value of their own. -/
theorem writeField_act (a : Agent) (locked : Bool) (e addr n v : Nat) (f : FieldSpec) (s : State) :
    (writeField a locked e addr n v f s).act = s.act := by
  obtain ⟨lo, width, acc, reset⟩ := f
  unfold writeField
  dsimp only
  split
  · rfl
  cases acc with
  | ro => rfl
  | ctr => rfl
  | wo => exact (woHook_act ..).trans (clearPeak_act ..)
  | w1c => exact when_act (clearCapture_act ..)
  | rw =>
    dsimp only
    split
    · rfl
    · exact when_act (setFor_act ..)
  | rwl =>
    dsimp only
    split
    · rfl
    split
    · exact rwlHook_act ..
    · exact when_act rfl
  | rws => exact when_act rfl

/-- The domains that locked writes are reported for are numbers of Table 14.2. -/
theorem lockOf_dom {s : State} {e dom : Nat} {r : Bool} {cnt : Fld} (h : lockOf s e = some (r, cnt, dom)) : dom < 256 := by
  have domain : ∀ {r' cnt' dom'}, some (r', cnt', dom') = some (r, cnt, dom) → dom' < 256 → dom < 256 := by
    rintro _ _ _ ⟨⟩ hd
    exact hd
  unfold lockOf at h
  split at h
  · exact domain h (by decide)
  split at h
  · next he =>
    simp only [Bool.and_eq_true, decide_eq_true_eq] at he
    exact domain h (by omega)
  split at h
  · exact domain h (by decide)
  split at h
  · exact absurd h (by simp)
  · next c hc =>
    have hlt := coreOf_lt hc
    dsimp only at h
    split at h
    · exact absurd h (by simp)
    split at h
    · exact domain h (by omega)
    split at h
    · exact absurd h (by simp)
    split at h
    · exact domain h (by omega)
    split at h
    · exact domain h (by omega)
    split at h
    · exact domain h (by omega)
    · exact domain h (by omega)

/-- The report of a locked write (R17) is an L0 event, which reaches the fault collector alone. -/
theorem writeReg_act (a : Agent) (addr n v : Nat) (h : RegSpec × Nat) (s : State) : (writeReg a addr n v h s).act = s.act := by
  have fields : ∀ b, (each h.1.fields (fun f s => writeField a b h.2 addr n v f s) s).act = s.act := fun b =>
    each_same State.act _ (fun f t => writeField_act a b h.2 addr n v f t) s
  unfold writeReg
  split
  · rfl
  split
  · next cnt dom hl =>
    dsimp only
    split
    · exact (raise_passFrame _ _ rfl (show 0x10 < 0x30 by decide) rfl (lockOf_dom hl)).act.trans (fields true)
    · exact fields true
  · exact fields false

theorem writeProg_act (c addr v : Nat) (s : State) (hc : c < 20) : (writeProg c addr v s).act = s.act := by
  unfold writeProg
  dsimp only
  split
  · exact (raise_passFrame _ _ rfl (show 0x10 < 0x30 by decide) rfl (Nat.lt_trans hc (by decide))).act
  · rfl

theorem noteCal_act (addr n : Nat) (s : State) : (noteCal addr n s).act = s.act := by
  unfold noteCal
  split
  · refine each_same State.act _ ?_ s
    exact fun _ _ => rfl
  · rfl

theorem writeBits_act (a : Agent) (addr n v : Nat) (s : State) : (writeBits a addr n v s).act = s.act := by
  have regs : (each (hits addr (n / 8)) (writeReg a addr n v) (gateHook addr v s)).act = s.act :=
    (each_same State.act _ (fun h t => writeReg_act a addr n v h t) _).trans (gateHook_act addr v s)
  unfold writeBits
  split
  · rfl
  split
  · split
    · next c hc => exact writeProg_act c addr v s (coreOf_lt hc)
    · rfl
  split
  · rfl
  dsimp only
  split
  · exact (noteCal_act addr n _).trans regs
  · exact regs

/-- Settles O37: what an access does before it writes, and each field it writes, keeps the active values. -/
theorem registerWritesKeepActiveValues : Obligations.RegisterWritesKeepActiveValues := by
  intro a addr wide v s t h f
  refine actv_of_act ?_ f
  cases wide with
  | false =>
    obtain rfl := Host.Outcome.next.inj ((execRegisterWrite_narrow a addr v s).symm.trans h)
    exact (writeBits_act ..).trans (catchUpAt_passFrame _ s).act
  | true =>
    cases h64 : in64 (addr.toNat / 8 * 8) with
    | true =>
      obtain rfl := Host.Outcome.next.inj ((execRegisterWrite_wide h64).symm.trans h)
      exact (writeBits_act ..).trans (catchUpAt_passFrame _ s).act
    | false =>
      obtain rfl := Host.Outcome.next.inj ((execRegisterWrite_split h64).symm.trans h)
      exact ((writeBits_act ..).trans (writeBits_act ..)).trans (catchUpAt_passFrame _ s).act

/-! ### Snapshots -/

/-- The elements of an array of registers whose base and strides are multiples of `m` lie at multiples of `m`. -/
theorem elems_dvd {m base bytes a n e : Nat} {ds : List (Nat × Nat)} (hb : m ∣ base) (hd : ∀ d ∈ ds, m ∣ d.2)
    (he : e ∈ elems base bytes ds a n) : m ∣ e := by
  induction ds generalizing base with
  | nil =>
    simp only [elems] at he
    split at he
    · exact List.mem_singleton.1 he ▸ hb
    · cases he
  | cons d ds ih =>
    simp only [elems] at he
    split at he
    · cases he
    · obtain ⟨k, -, hk⟩ := List.mem_flatMap.1 he
      split at hk
      · exact ih (Nat.dvd_add hb (Nat.dvd_mul_left_of_dvd (hd d (by simp)) k)) (fun x hx => hd x (by simp [hx])) hk
      · cases hk

/-- A counter, or a snapshot register. -/
def wordSpec (r : RegSpec) : Bool :=
  r.fields.any fun f => decide (f.acc = .ctr) || (f.lo == 16 && f.width == 16 && decide (f.acc = .ro))

/-- Counters and snapshot registers lie at multiples of 4. -/
theorem wordSpec_aligned : ∀ r ∈ regTable, wordSpec r = true → 4 ∣ r.base ∧ ∀ d ∈ r.dims, 4 ∣ d.2 := by decide +kernel

theorem hits_aligned {a n : Nat} {h : RegSpec × Nat} (hh : h ∈ hits a n) (hw : wordSpec h.1 = true) : 4 ∣ h.2 := by
  obtain ⟨r, hr, he⟩ := List.mem_flatMap.1 hh
  obtain ⟨e, hm, rfl⟩ := List.mem_map.1 he
  obtain ⟨hb, hd⟩ := wordSpec_aligned r hr hw
  exact elems_dvd hb hd hm

/-- SEQ of the snapshot register at an address. -/
def seqOf (n : Nat) : Fld := ⟨8 * n + 16, 16, 0⟩

/-- SEQ of a snapshot register is no counter. -/
theorem isCounter_seqOf {n : Nat} (h : isSnap n = true) : isCounter (8 * n + 16) = false := by
  obtain ⟨x, hx, hs⟩ := List.any_eq_true.1 h
  simp only [Bool.and_eq_true, beq_iff_eq, List.any_eq_true, decide_eq_true_eq] at hs
  obtain ⟨⟨rfl, f, hf, hro⟩, -⟩ := hs
  have hn : 4 ∣ x.2 := hits_aligned hx (List.any_eq_true.2 ⟨f, hf, by simp [hro]⟩)
  refine Bool.eq_false_iff.2 fun hc => ?_
  obtain ⟨y, hy, hk⟩ := List.any_eq_true.1 hc
  simp only [Bool.and_eq_true, beq_iff_eq, List.any_eq_true, decide_eq_true_eq] at hk
  obtain ⟨hkey, g, hg, hctr⟩ := hk
  have hm : 4 ∣ y.2 := hits_aligned hy (List.any_eq_true.2 ⟨g, hg, by simp [hctr]⟩)
  omega

/-- A take counts SEQ. -/
theorem get_takeSnap_seq {n : Nat} (h : isSnap n = true) (clear : Bool) (s : State) :
    get (takeSnap n clear s) (seqOf n) = (get s (seqOf n) + 1) % 2 ^ 16 := by
  have rest : SMap.get 0 (if clear then s.regs.filter fun p =>
      !(decide (8 * (snapRange n).1 ≤ p.1) && decide (p.1 < 8 * (snapRange n).2) && isCounter p.1) else s.regs) (8 * n + 16) = get s (seqOf n) := by
    cases clear with
    | true => exact SMap.get_filter 0 _ fun _ => by simp [isCounter_seqOf h]
    | false => rfl
  unfold takeSnap
  exact (get_set_same (seqOf n) _ _).trans (by rw [← rest]; rfl)

/-- Without CLEAR a take changes no register but SEQ. -/
theorem takeSnap_frame (n : Nat) (s : State) : sameRegsBut [seqOf n] s (takeSnap n false s) :=
  fun g hg => ⟨get_set_ne (f := seqOf n) (hg _ (by simp)) _ _, rfl⟩

theorem agentSnap_host (n : Nat) (clear : Bool) (s : State) : ∃ u, agentSnap .host n clear s = takeSnap n clear u ∧
    u.regs = s.regs ∧ u.snap = s.snap ∧ u.act = s.act ∧ u.mem = s.mem := ⟨_, rfl, rfl, rfl, rfl, rfl⟩

/-- R23: a take of the management core in the cycle of a host take of the block is served before it. -/
theorem agentSnap_before_host {n : Nat} {clear : Bool} {s : State} {h : HostSnap} (hs : s.hostSnap = some h) (ha : h.addr = n)
    (ht : h.time = now s) : agentSnap .mgmt n clear s = takeSnap n h.clear (takeSnap n clear (undoSnap h s)) := by
  simp [agentSnap, hs, ha, ht]

theorem agentSnap_alone {n : Nat} {clear : Bool} {s : State} (h : ∀ x, s.hostSnap = some x → x.addr ≠ n ∨ x.time ≠ now s) :
    agentSnap .mgmt n clear s = takeSnap n clear s := by
  cases hx : s.hostSnap with
  | none => simp [agentSnap, hx]
  | some x =>
    have hne : ¬(decide (x.addr = n) && decide (x.time = now s)) = true := fun hb => by
      obtain ⟨hadr, ht⟩ := Bool.and_eq_true_iff.1 hb
      exact (h x hx).elim (fun k => k (of_decide_eq_true hadr)) fun k => k (of_decide_eq_true ht)
    simp only [agentSnap, hx]
    rw [if_neg hne]

theorem exec_snapTake_none {a : Agent} {addr : BitVec 26} {clear : Bool} {s : State} (h : isSnap addr.toNat = false) :
    exec (.snapTake a addr clear) s = .next s := by
  simp [exec_snapTake, execSnapTake, h]

theorem exec_snapTake_denied {a : Agent} {addr : BitVec 26} {clear : Bool} {s : State} (h : isSnap addr.toNat = true)
    (ha : admitted s a true addr.toNat 4 = false) : exec (.snapTake a addr clear) s = .next (bump F.GLB_DENIED_CNT s) := by
  simp [exec_snapTake, execSnapTake, h, ha, denied]

theorem exec_snapTake_admitted {a : Agent} {addr : BitVec 26} {clear : Bool} {s : State} (h : isSnap addr.toNat = true)
    (ha : admitted s a true addr.toNat 4 = true) :
    exec (.snapTake a addr clear) s = .next (agentSnap a addr.toNat clear (catchUpAt addr.toNat s)) := by
  simp [exec_snapTake, execSnapTake, h, ha]

/-- What a take that no host take precedes does: it copies the counters of the block and counts SEQ (R22). -/
theorem agentSnap_takes {a : Agent} {n : Nat} {clear : Bool} {s : State}
    (h : a = .host ∨ ∀ x, s.hostSnap = some x → x.addr ≠ n ∨ x.time ≠ now s) : ∃ u, agentSnap a n clear s = takeSnap n clear u ∧
      u.regs = s.regs ∧ u.snap = s.snap ∧ u.act = s.act ∧ u.mem = s.mem := by
  cases a with
  | host => exact agentSnap_host n clear s
  | mgmt => exact ⟨s, agentSnap_alone (h.resolve_left (by decide)), rfl, rfl, rfl, rfl⟩

/-- Settles O35: each access meets one of the cases of a write, a read or a take, and catching up changes neither the last host take nor the
instant. -/
theorem admittedAccessesReachRegisters : Obligations.AdmittedAccessesReachRegisters := by
  refine ⟨fun a f addr v s x => ?_, fun a addr clear s => ?_⟩
  · intro b d s1 s2 noted
    refine ⟨fun h hp hc => ?_, fun h64 h => ?_, fun h64 => execRegisterWrite_split h64, fun c hp hc h => ?_, fun hc hd hp => ?_, rfl,
      fun h => ?_, fun h => ?_, fun h h64 => ?_, fun h h64 hl => ?_, fun h h64 hl => ?_, fun h h64 => ?_, fun h64 => ?_⟩
    · exact congrArg _ (writeBits_regs (m := 4) rfl h hp hc)
    · obtain ⟨hp, hc⟩ := in64_windows h64
      exact (execRegisterWrite_wide h64).trans (congrArg _ (writeBits_regs (m := 8) rfl h hp hc))
    · exact congrArg _ (writeBits_prog (m := 4) rfl h hp hc)
    · exact congrArg _ (writeBits_cal hd hp hc)
    · simp [exec_registerReadLatch, execRegisterReadLatch, h, when, b]
    · simp [exec_registerReadLatch, execRegisterReadLatch, h, when, b]
    · exact congrArg _ (read32_low h h64)
    · exact congrArg _ (read32_latched h h64 hl)
    · exact congrArg _ (read32_plain h h64 hl)
    · exact congrArg _ (read64_whole h h64)
    · exact ⟨_, _, (execRegisterRead_wide a addr s).trans (congrArg _ (read64_split h64)), rfl, rfl⟩
  · intro n sq s1
    have up := catchUpAt_passFrame n s
    refine ⟨exec_snapTake_none, fun hn => ⟨exec_snapTake_denied hn, fun ha => ⟨fun h hm hs hadr ht => ?_, fun hh => ?_⟩⟩⟩
    · subst hm
      exact (exec_snapTake_admitted hn ha).trans (congrArg _ (agentSnap_before_host (up.hostSnap.trans hs) hadr (ht.trans up.now.symm)))
    · obtain ⟨u, hu, hregs, hsnap, hact, hmem⟩ := agentSnap_takes (a := a) (n := n) (clear := clear) (s := s1)
        (by rwa [up.hostSnap, up.now])
      refine ⟨_, u, (exec_snapTake_admitted hn ha).trans (congrArg _ hu), rfl, rfl, hregs, hsnap, ?_, ?_, hact.trans up.act, hmem.trans up.mem⟩
      · exact (get_takeSnap_seq hn clear u).trans (by rw [get_of_regs hregs]; rfl)
      · rintro rfl g hg
        obtain ⟨h1, h2⟩ := takeSnap_frame n u g hg
        exact ⟨h1.trans (get_of_regs hregs g), h2.trans (actv_of_act hact g)⟩

/-! ### Responses -/

/-- A response with an empty result is written to its slot, and no data moves. -/
theorem respond_nil (q : YReq) (h : Header) (st : Nat) (s : State) :
    respond q h st [] s = putResponse q.fn q.slot { bareResponse h st with seq := (nextSeq q.fn s).1 } [] (nextSeq q.fn s).2 := rfl

theorem get_putSlot (f i st : Nat) (s : State) {g : Fld} (hg : ∀ n < 33, g.key ≠ (F.MBX_FN_BUSY n).key) :
    get (putSlot f i st s) g = get s g := by
  unfold putSlot
  dsimp only
  split
  · next hf => exact get_set_ne (hg f hf) _ _
  · rfl

theorem putSlot_mbx (f i st : Nat) (s : State) : (putSlot f i st s).mbx = s.mbx := by
  unfold putSlot
  dsimp only
  split <;> rfl

/-- A slot shows the state it was put in. -/
theorem slotSt_putSlot (f i st : Nat) (s : State) : slotSt (putSlot f i st s) f i = st := by
  have h : slotSt (updPage f (fun k => { k with slots := SMap.put 0 k.slots i st }) s) f i = st := by
    simp [slotSt, page, updPage]
  unfold putSlot
  dsimp only
  split
  · exact h
  · exact h

/-- A vector of a function leaves the registers, the mailbox and the slots alone. -/
theorem raiseVector_frame (f v : Nat) (s : State) :
    (raiseVector f v s).regs = s.regs ∧ (raiseVector f v s).mbx = s.mbx ∧ ∀ i, slotSt (raiseVector f v s) f i = slotSt s f i := by
  unfold raiseVector
  split
  · exact ⟨rfl, rfl, fun _ => rfl⟩
  · exact ⟨rfl, rfl, fun i => by simp [slotSt, page, updPage]⟩

/-- So does a message to the management network. -/
theorem sendReply_frame (f : Nat) (h : Header) (p : List Byte) (s : State) :
    (sendReply f h p s).regs = s.regs ∧ (sendReply f h p s).mbx = s.mbx ∧ (sendReply f h p s).pages = s.pages := by
  refine upTo_keeps (P := fun t => t.regs = s.regs ∧ t.mbx = s.mbx ∧ t.pages = s.pages) _ ⟨rfl, rfl, rfl⟩ ?_
  exact fun _ _ ht => ht

/-- A response makes its slot DONE, and after its bytes only the notice to the function leaves. -/
theorem putResponse_frame (f i : Nat) (h : Header) (p : List Byte) (s : State) :
    let t := putSlot f i 2 (putPage f (rspOfs i) (h.bytes ++ p.take 1984) s)
    (putResponse f i h p s).regs = t.regs ∧ (putResponse f i h p s).mbx = t.mbx ∧ slotSt (putResponse f i h p s) f i = 2 := by
  intro t
  have done : slotSt t f i = 2 := slotSt_putSlot f i 2 _
  unfold putResponse
  dsimp only
  split
  · obtain ⟨hr, hm, hs⟩ := raiseVector_frame f 0 t
    unfold when
    split
    · exact ⟨hr, hm, (hs i).trans done⟩
    · exact ⟨rfl, rfl, done⟩
  · obtain ⟨hr, hm, hp⟩ := sendReply_frame f h p t
    exact ⟨hr, hm, (congrArg (fun m => SMap.get 0 (SMap.get Page.reset m f).slots i) hp).trans done⟩

theorem natLe_length (n v : Nat) : (natLe n v).length = n := by
  induction n generalizing v with
  | zero => rfl
  | succ n ih => simp [natLe, ih]

theorem Header.bytes_length (h : Header) : h.bytes.length = 64 := by
  simp [Header.bytes, natLe_length, zeros]

/-- STATUS lies at byte 10 of a header (Table 12.3). -/
theorem leAt_status (h : Header) : leAt h.bytes 10 1 = h.status % 256 := by
  simp [Header.bytes, leAt, natLe, leNat]

/-- Bytes just stored read back. -/
theorem mbBytes_putPage (f ofs : Nat) (bs rest : List Byte) (s : State) : mbBytes (putPage f ofs (bs ++ rest) s) f ofs bs.length = bs := by
  refine List.ext_getElem (by simp [mbBytes, rdBytes]) fun i h1 h2 => ?_
  simp only [mbBytes, rdBytes, putPage, List.getElem_map, List.getElem_range]
  rw [rdByte_wrBytes _ _ _ (by simp; omega), List.getElem_append_left h2]

/-- A response without data answers its status in the slot's response and makes the slot DONE. -/
theorem respond_nil_answers (q : YReq) (h : Header) {st : Nat} (hst : st < 256) (s : State) :
    slotSt (respond q h st [] s) q.fn q.slot = 2 ∧ leAt (mbBytes (respond q h st [] s) q.fn (rspOfs q.slot) 64) 10 1 = st := by
  rw [respond_nil]
  obtain ⟨-, hm, hs⟩ := putResponse_frame q.fn q.slot { bareResponse h st with seq := (nextSeq q.fn s).1 } [] (nextSeq q.fn s).2
  refine ⟨hs, ?_⟩
  have hb := mbBytes_putPage q.fn (rspOfs q.slot) (Header.bytes { bareResponse h st with seq := (nextSeq q.fn s).1 }) ([].take 1984)
    (nextSeq q.fn s).2
  rw [Header.bytes_length] at hb
  unfold mbBytes at hb ⊢
  rw [hm, putSlot_mbx, hb, leAt_status]
  exact Nat.mod_eq_of_lt hst

/-- A response without data changes no register but BUSY of its function. -/
theorem get_respond_nil (q : YReq) (h : Header) (st : Nat) (s : State) {g : Fld} (hg : ∀ n < 33, g.key ≠ (F.MBX_FN_BUSY n).key) :
    get (respond q h st [] s) g = get s g := by
  rw [respond_nil, get_of_regs (putResponse_frame ..).1, get_putSlot _ _ _ _ hg]
  rfl

/-- What the checks answer and what the command does for its header keep a field other than BUSY as it was. -/
theorem get_run {r : CmdRow} {q : YReq} {range : Bool} {parts : List Nat} {objs : List Obj} {f : Header → State → State} {s : State}
    {g : Fld} (hg : ∀ n < 33, g.key ≠ (F.MBX_FN_BUSY n).key) (hf : ∀ h, get (f h s) g = get s g) :
    get (run r q range parts objs f s) g = get s g := by
  unfold run
  dsimp only
  split
  · rfl
  split
  · rfl
  split
  · exact get_respond_nil q _ _ s hg
  · exact hf _

/-! ### Life cycle -/

theorem lcState_ne_busy : ∀ n < 33, F.LC_STATE_STATE.key ≠ (F.MBX_FN_BUSY n).key := by decide

/-- Table 13.10 leads an LM940-E to FIELD from no state. -/
theorem lcAllowed_engineering {s : State} (hp : get s F.GLB_ID_PART = 0x0E) (st : Nat) : lcAllowed s st 3 = false := by
  simp [lcAllowed, hp]

/-- A new challenge leaves the response and the life-cycle state alone. -/
theorem newChallenge_frame (q : YReq) (v : BitVec 256) (s t : State) :
    (newChallenge q v s t).mbx = t.mbx ∧ (newChallenge q v s t).pages = t.pages ∧
      get (newChallenge q v s t) F.LC_STATE_STATE = get t F.LC_STATE_STATE := by
  unfold newChallenge when
  split
  · exact ⟨rfl, rfl, get_set_ne (by decide) _ _⟩
  · exact ⟨rfl, rfl, rfl⟩

/-- Settles O56: no transition of Table 13.10 leads an LM940-E to FIELD, so that every LC_SET that a check does not refuse is answered BUSY
or LC_DENIED. -/
theorem engineeringDeviceNeverReachesField : Obligations.EngineeringDeviceNeverReachesField := by
  intro q au challenge s hp
  have refused : (!lcAllowed s (get s F.LC_STATE_STATE) (3 : Fin 8).val) = true := congrArg not (lcAllowed_engineering hp _)
  refine ⟨fun hacc hst hpart hload => ?_, ?_⟩
  · rw [exec_lcSet, execLcSet, if_neg (fun h => hst (of_decide_eq_true (Bool.and_eq_true_iff.1 h).1).symm), run_of_accepts _ hacc]
    obtain ⟨hm, hpg, -⟩ := newChallenge_frame q challenge s (respond q (reqHeader s q.fn q.slot) 5 [] s)
    obtain ⟨hdone, hstat⟩ := respond_nil_answers q (reqHeader s q.fn q.slot) (st := 5) (by decide) s
    refine ⟨_, rfl, ?_⟩
    rw [if_neg (by rw [hpart, hload]; decide), if_pos refused]
    unfold slotSt page mbBytes at *
    rw [hm, hpg]
    exact ⟨hdone, hstat⟩
  · rw [exec_lcSet, execLcSet]
    split
    · exact ⟨s, rfl, rfl⟩
    · refine ⟨_, rfl, (newChallenge_frame ..).2.2.trans (get_run lcState_ne_busy fun h => ?_)⟩
      by_cases hb : (anyPart s || loading s) = true
      · rw [if_pos hb]
        exact get_respond_nil q h 2 s lcState_ne_busy
      · rw [if_neg hb, if_pos refused]
        exact get_respond_nil q h 5 s lcState_ne_busy

end Sys2Proof.Machine

namespace Sys2Proof

/-! ### Erased ranges of maps and sets -/

/-- A key that a filter drops reads the default. -/
theorem SMap.get_filter_drops {β : Type} (d : β) (m : SMap β) {p : Nat × β → Bool} {k : Nat} (h : ∀ v, p (k, v) = false) :
    SMap.get d (m.filter p) k = d := by
  induction m with
  | nil => rfl
  | cons q m ih =>
    rw [List.filter_cons]
    split
    · next hq =>
      have hk : q.1 ≠ k := by
        rintro rfl
        exact Bool.false_ne_true ((h q.2).symm.trans hq)
      simp [SMap.get, hk, ih]
    · exact ih

theorem SMap.get_erase_inside {β : Type} (d : β) (m : SMap β) {lo hi k : Nat} (h1 : lo ≤ k) (h2 : k < hi) :
    SMap.get d (SMap.erase m lo hi) k = d :=
  SMap.get_filter_drops d m fun _ => by simp [h1, h2]

theorem SMap.get_erase_outside {β : Type} (d : β) (m : SMap β) {lo hi k : Nat} (h : k < lo ∨ hi ≤ k) :
    SMap.get d (SMap.erase m lo hi) k = SMap.get d m k :=
  SMap.get_filter d m fun _ => by simpa using h

theorem NSet.has_erase_inside (m : NSet) {lo hi k : Nat} (h1 : lo ≤ k) (h2 : k < hi) : NSet.has (NSet.erase m lo hi) k = false := by
  simp only [NSet.has, NSet.erase, List.any_eq_false, List.mem_filter, Bool.or_eq_true, decide_eq_true_eq]
  omega

end Sys2Proof

namespace Sys2Proof.Machine

/-! ### Erased memories and registers -/

theorem rdBytes_erase_inside (m : List (Nat × Byte)) {lo hi a n : Nat} (h1 : lo ≤ a) (h2 : a + n ≤ hi) :
    rdBytes (SMap.erase m lo hi) a n = zeros n := by
  refine List.eq_replicate_iff.2 ⟨by simp [rdBytes], fun b hb => ?_⟩
  obtain ⟨i, hi', rfl⟩ := List.mem_map.1 hb
  have : i < n := List.mem_range.1 hi'
  exact SMap.get_erase_inside 0 m (by omega) (by omega)

theorem leNat_zeros (n : Nat) : leNat (zeros n) = 0 := by
  induction n with
  | zero => rfl
  | succ n ih => exact congrArg (fun x => 0 + 256 * x) ih

/-- A field of an erased range is at its reset value. -/
theorem get_eraseRegs_inside {lo hi : Nat} {f : Fld} (h1 : 8 * lo ≤ f.key) (h2 : f.key < 8 * hi) (s : State) :
    get (eraseRegs lo hi s) f = f.reset := SMap.get_erase_inside _ _ h1 h2

theorem get_eraseRegs_outside {lo hi : Nat} {f : Fld} (h : f.key < 8 * lo ∨ 8 * hi ≤ f.key) (s : State) :
    get (eraseRegs lo hi s) f = get s f := SMap.get_erase_outside _ _ h

/-! ### The wipe of a scratchpad (R375) -/

theorem rowBytes_wipeSpad (c : Nat) {r : Nat} (hr : r < 32768) (s : State) : rowBytes (wipeSpad c s) c r = zeros 512 :=
  rdBytes_erase_inside _ (by unfold rowAddr; omega) (by unfold rowAddr; omega)

theorem rowPoison_wipeSpad (c : Nat) {r : Nat} (hr : r < 32768) (s : State) : rowPoison (wipeSpad c s) c r = false :=
  NSet.has_erase_inside _ (by omega) (by omega)

@[simp] theorem arrState_wipeSpad (c d n : Nat) (s : State) : arrState (wipeSpad c s) d n = arrState s d n := rfl
@[simp] theorem progWord_wipeSpad (c d b i : Nat) (s : State) : progWord (wipeSpad c s) d b i = progWord s d b i := rfl
@[simp] theorem core_wipeSpad (c d : Nat) (s : State) : core (wipeSpad c s) d = core s d := rfl
@[simp] theorem wipeSpad_stk (c : Nat) (s : State) : (wipeSpad c s).mem.stk = s.mem.stk := rfl
@[simp] theorem wipeSpad_wts (c : Nat) (s : State) : (wipeSpad c s).mem.wts = s.mem.wts := rfl

/-! ### The reset of a compute domain (R42, R90, R374) -/

/-- What the end of a core's work leaves alone: the arrays listed bad, the bytes of the stacks, the cells, and the core's reset epoch. -/
structure StopFrame (c : Nat) (s t : State) : Prop where
  badArr : t.badArr = s.badArr
  stk : t.mem.stk = s.mem.stk
  wts : t.mem.wts = s.mem.wts
  epoch : (core t c).epoch = (core s c).epoch

theorem StopFrame.refl (c : Nat) (s : State) : StopFrame c s s := ⟨rfl, rfl, rfl, rfl⟩

theorem StopFrame.trans {c : Nat} {r s t : State} (h : StopFrame c r s) (k : StopFrame c s t) : StopFrame c r t :=
  ⟨k.badArr.trans h.badArr, k.stk.trans h.stk, k.wts.trans h.wts, k.epoch.trans h.epoch⟩

theorem StopFrame.each {α : Type} {c : Nat} (l : List α) {f : α → State → State} (h : ∀ a t, StopFrame c t (f a t)) (s : State) :
    StopFrame c s (each l f s) := each_keeps l (.refl c s) fun a t ht => ht.trans (h a t)

theorem StopFrame.updCore {c : Nat} {f : CoreSt → CoreSt} (h : ∀ k, (f k).epoch = k.epoch) (s : State) :
    StopFrame c s (updCore c f s) := ⟨rfl, rfl, rfl, by rw [core_updCore_same, h]⟩

theorem abandonTick_stopFrame (c : Nat) (s : State) : StopFrame c s (abandonTick c s) := by
  have marked := StopFrame.each (c := c) (core s c).outRows (f := fun r s => markRow c r true s) (fun _ _ => ⟨rfl, rfl, rfl, rfl⟩) s
  have skip : ∀ t, StopFrame c t (skipDraw c t) := fun t =>
    (StopFrame.updCore (f := fun k => { k with drawn := none }) (fun _ => rfl) t).trans ⟨rfl, rfl, rfl, rfl⟩
  have phase : ∀ t, StopFrame c t (set (F.SEQ_STAT_PHASE_ST c) 0 t) := fun _ => ⟨rfl, rfl, rfl, rfl⟩
  unfold abandonTick
  refine .trans ?_ (phase _)
  exact when_keeps (P := StopFrame c s) _ (marked.trans (.updCore (fun _ => by rfl) _)) fun t ht => ht.trans (skip t)

theorem stopUnits_stopFrame (c : Nat) (s : State) : StopFrame c s (stopUnits c s) := by
  have undef := StopFrame.each (c := c) (batchArrays (core s c).running) (f := fun n s => setUndef c n true s)
    (fun _ _ => ⟨rfl, rfl, rfl, rfl⟩) s
  have busy : ∀ (f : Fld) t, StopFrame c t (setB f false t) := fun _ _ => ⟨rfl, rfl, rfl, rfl⟩
  exact ((undef.trans (.updCore (fun _ => by rfl) _)).trans (busy _ _)).trans (busy _ _)

/-- The core's tick is abandoned and its units are stopped (R374). -/
def stopped (c : Nat) (s : State) : State :=
  stopUnits c (if get s (F.SEQ_STAT_PHASE_ST c) = 0 then s else abandonTick c s)

theorem stopped_stopFrame (c : Nat) (s : State) : StopFrame c s (stopped c s) := by
  unfold stopped
  split
  · exact stopUnits_stopFrame c s
  · exact (abandonTick_stopFrame c s).trans (stopUnits_stopFrame c _)

/-- The registers of the core's compute domain return to their reset values. -/
def clearedRegs (c : Nat) (s : State) : State :=
  eraseRegs (2 ^ 29 + c * 335872) (2 ^ 29 + (c + 1) * 335872) (eraseRegs (coreBase c + 0x10000) (coreBase c + 0xB0000) s)

/-- Arrays of a core enter FUSED. -/
def fuse (c : Nat) (l : List Nat) (s : State) : State := each l (fun a s => set (F.ARR_STAT_STATE c (a % 2624)) 0 s) s

/-- The registers that a reset of the compute domain leaves, but for flags of CORE_CTL. -/
def resetRegs (c : Nat) (s : State) : State := fuse c (s.badArr.filter fun a => a / 2624 = c) (clearedRegs c (stopped c s))

/-- After the registers, a reset clears program memory and calibration store and puts the core's state at rest in a new epoch. -/
theorem resetCompute_eq (c : Nat) (s : State) : resetCompute c s =
    (let t := resetRegs c s
     let m := { t.mem with prog := SMap.erase t.mem.prog (c * 2 ^ 19) ((c + 1) * 2 ^ 19)
                           cal := SMap.erase t.mem.cal (c * 2 ^ 20) ((c + 1) * 2 ^ 20) }
     updCore c (fun k => { CoreSt.reset with epoch := (k.epoch + 1) % 16, lost := k.lost }) { t with mem := m }
       |> setB (F.CORE_CTL_STATE_MCODE_OK c) false |> setB (F.CORE_CTL_STATE_RUN_PEND c) false
       |> setB (F.CORE_CTL_STATE_STOP_PEND c) false |> setB (F.CORE_CTL_STEEP_STAT_RUN_BUSY c) false
       |> setB (F.CORE_CTL_STEEP_STAT_PEND_BUSY c) false) := by
  unfold resetRegs
  rw [← (stopped_stopFrame c s).badArr]
  rfl

theorem fuse_stopFrame (c : Nat) (l : List Nat) (s : State) : StopFrame c s (fuse c l s) :=
  .each l (fun _ _ => by exact ⟨rfl, rfl, rfl, rfl⟩) s

theorem clearedRegs_stopFrame (c : Nat) (s : State) : StopFrame c s (clearedRegs c s) := ⟨rfl, rfl, rfl, rfl⟩

theorem resetRegs_stopFrame (c : Nat) (s : State) : StopFrame c s (resetRegs c s) :=
  ((stopped_stopFrame c s).trans (clearedRegs_stopFrame c _)).trans (fuse_stopFrame c _ _)

/-- Cleared registers show an array UNVERIFIED (R90). -/
theorem arrState_clearedRegs (c : CoreIx) (n : ArrIx) (s : State) : arrState (clearedRegs c s) c n = 3 := by
  have hc := c.isLt
  have hn := n.isLt
  unfold arrState clearedRegs
  rw [get_eraseRegs_outside (by simp only [F.ARR_STAT_STATE]; omega)]
  refine get_eraseRegs_inside ?_ ?_ s <;> simp only [F.ARR_STAT_STATE, coreBase] <;> omega

theorem arrState_fuse (c : Nat) (n : ArrIx) (l : List Nat) (s : State) :
    arrState (fuse c l s) c n = if ∃ a ∈ l, a % 2624 = n.val then 0 else arrState s c n := by
  induction l generalizing s with
  | nil => simp [fuse]
  | cons a l ih =>
    refine (ih _).trans ?_
    by_cases ha : a % 2624 = n.val
    · simp [ha, arrState]
    · have hne : (F.ARR_STAT_STATE c n).key ≠ (F.ARR_STAT_STATE c (a % 2624)).key := by
        simp only [F.ARR_STAT_STATE]
        omega
      simp [ha, arrState, get_set_ne hne]

/-- R90: the arrays that the fuses list are FUSED, the others UNVERIFIED. -/
theorem arrState_resetRegs (c : CoreIx) (n : ArrIx) (s : State) :
    arrState (resetRegs c s) c n = if s.badArr.contains (c.val * 2624 + n.val) then 0 else 3 := by
  have hn := n.isLt
  have listed : (∃ a ∈ s.badArr.filter fun a => a / 2624 = c.val, a % 2624 = n.val) ↔ c.val * 2624 + n.val ∈ s.badArr := by
    constructor
    · rintro ⟨a, ha, hr⟩
      obtain ⟨hm, hq⟩ := List.mem_filter.1 ha
      have hq : a / 2624 = c.val := of_decide_eq_true hq
      rwa [show c.val * 2624 + n.val = a by omega]
    · exact fun h => ⟨_, List.mem_filter.2 ⟨h, decide_eq_true (by omega)⟩, by omega⟩
  unfold resetRegs
  simp only [arrState_fuse, arrState_clearedRegs, listed, List.contains_eq_mem, decide_eq_true_eq]

theorem arrState_resetCompute (c : CoreIx) (n : ArrIx) (s : State) :
    arrState (resetCompute c s) c n = if s.badArr.contains (c.val * 2624 + n.val) then 0 else 3 := by
  have ne : ∀ b < 0x200, (F.ARR_STAT_STATE c n).key ≠ 0x8000000 + b + c.val * 0x800000 := by
    intro b hb
    simp only [F.ARR_STAT_STATE]
    omega
  rw [← arrState_resetRegs, resetCompute_eq]
  unfold arrState
  rw [get_setB_ne (ne 0x121 (by decide)), get_setB_ne (ne 0x120 (by decide)), get_setB_ne (ne 5 (by decide)),
    get_setB_ne (ne 4 (by decide)), get_setB_ne (ne 3 (by decide))]
  rfl

theorem progWord_resetCompute (c : Nat) {b i : Nat} (hb : b < 2) (hi : i < 16384) (s : State) : progWord (resetCompute c s) c b i = 0 := by
  rw [resetCompute_eq]
  have erased := rdBytes_erase_inside (resetRegs c s).mem.prog (lo := c * 2 ^ 19) (hi := (c + 1) * 2 ^ 19) (a := progAddr c b i) (n := 16)
    (by unfold progAddr; omega) (by unfold progAddr; omega)
  exact (congrArg leNat erased).trans (leNat_zeros 16)

/-- R374: the core is at rest in the next epoch; only what it has lost is not forgotten. -/
theorem core_resetCompute (c : Nat) (s : State) : ∃ l, core (resetCompute c s) c =
    { CoreSt.reset with epoch := ((core s c).epoch + 1) % 16, lost := l } := by
  rw [resetCompute_eq]
  refine ⟨(core (resetRegs c s) c).lost, ?_⟩
  rw [← (resetRegs_stopFrame c s).epoch]
  simp only [core_setB, core_updCore_same]
  rfl

theorem resetCompute_stk (c : Nat) (s : State) : (resetCompute c s).mem.stk = s.mem.stk := by
  rw [resetCompute_eq]
  exact (resetRegs_stopFrame c s).stk

theorem resetCompute_wts (c : Nat) (s : State) : (resetCompute c s).mem.wts = s.mem.wts := by
  rw [resetCompute_eq]
  exact (resetRegs_stopFrame c s).wts

/-- The end of the drain resets the compute domain and wipes the scratchpad (R374, R375). -/
theorem exec_resetDrainDone_drained {c : CoreIx} {s : State} (hd : (core s c).draining = true) (hf : coreInFlight s c = false) :
    exec (.resetDrainDone (some c)) s = .next (wipeSpad c (resetCompute c s)) := by
  simp [exec_resetDrainDone, execResetDrainDone, proceedReset, hd, hf]

/-- Settles O22: the reset of the compute domain gives arrays, program memory and core state, the wipe gives the rows, and neither reaches
the stacks or the cells. -/
theorem drainedResetLeavesAWipedCore : Obligations.DrainedResetLeavesAWipedCore := by
  intro c s _ hd hf
  obtain ⟨l, hk⟩ := core_resetCompute c s
  refine ⟨_, exec_resetDrainDone_drained hd hf, fun n => ?_, fun b i hb hi => ?_,
    fun r hr => ⟨rowBytes_wipeSpad c hr _, rowPoison_wipeSpad c hr _⟩, ?_⟩
  · rw [arrState_wipeSpad, arrState_resetCompute]
  · rw [progWord_wipeSpad, progWord_resetCompute c hb hi]
  · rw [core_wipeSpad, hk, wipeSpad_stk, wipeSpad_wts, resetCompute_stk, resetCompute_wts]
    exact ⟨rfl, rfl, rfl, rfl, rfl, rfl, rfl⟩

/-! ### Domains that are down (R43) -/

/-- A compute domain that is not up denies its registers but CORE_CTL and RTR, and so does a network plane that is held. -/
theorem domainDown_iff {s : State} {addr : Nat} : domainDown s addr = true ↔ (0x600000 ≤ addr ∧ netHeld s = true) ∨
    ∃ c, coreOf addr = some c ∧ coreUp s c = false ∧ 0x10000 ≤ coreOfs addr ∧ coreOfs addr < 0xB0000 := by
  unfold domainDown
  cases coreOf addr with
  | none => simp
  | some c =>
    simp only [Bool.or_eq_true, Bool.and_eq_true, decide_eq_true_eq, Bool.not_eq_true', Option.some.injEq, exists_eq_left']
    exact or_congr_right and_comm

theorem admitted_domainDown {s : State} {addr : Nat} (h : domainDown s addr = true) (a : Agent) (wr : Bool) (n : Nat) :
    admitted s a wr addr n = false := by
  simp [admitted, h]

/-- Whether an access is admitted depends on the domain of its address and on the life cycle. -/
theorem admitted_congr {s t : State} {addr : Nat} (hd : domainDown t addr = domainDown s addr) (hf : factoryTest t = factoryTest s)
    (a : Agent) (wr : Bool) (n : Nat) : admitted t a wr addr n = admitted s a wr addr n := by
  have reach : mayReach t a wr = mayReach s a wr := by
    funext r
    cases r <;> simp [mayReach, hf]
  simp [admitted, hd, reach]

/-- The domain of CORE_CTL and RTR is the network plane, whatever the state of the core. -/
theorem domainDown_setCoreState {addr : Nat} (ho : coreOfs addr < 0x10000 ∨ 0xB0000 ≤ coreOfs addr) (c st : Nat) (s : State) :
    domainDown (setCoreState c st s) addr = domainDown s addr := by
  have net : netHeld (setCoreState c st s) = netHeld s := by
    have hm : get (setCoreState c st s) F.MBX_CTL_MINIMAL = get s F.MBX_CTL_MINIMAL :=
      get_set_ne (by simp only [F.MBX_CTL_MINIMAL, F.CORE_CTL_STATE_STATE]; omega) st s
    unfold netHeld flag
    rw [hm]
    rfl
  rw [Bool.eq_iff_iff, domainDown_iff, domainDown_iff, net]
  have out : ∀ {p : Prop}, ¬(p ∧ 0x10000 ≤ coreOfs addr ∧ coreOfs addr < 0xB0000) := by omega
  simp only [out, and_false, exists_const]

theorem factoryTest_setCoreState (c st : Nat) (s : State) : factoryTest (setCoreState c st s) = factoryTest s := by
  have hl : get (setCoreState c st s) F.LC_STATE_STATE = get s F.LC_STATE_STATE :=
    get_set_ne (by simp only [F.LC_STATE_STATE, F.CORE_CTL_STATE_STATE]; omega) st s
  unfold factoryTest
  rw [hl]

/-- Settles O34: an access of a domain that is down is not admitted, so it is counted; CORE_CTL and RTR lie in no compute domain. -/
theorem domainsThatAreDownAreDenied : Obligations.DomainsThatAreDownAreDenied := by
  intro a addr v c s b d down
  have no : ∀ {t b} (wr : Bool) (n : Nat), down t b → admitted t a wr b n = false := fun wr n h =>
    admitted_domainDown (domainDown_iff.2 (h.symm.imp_right fun ⟨hc, hu⟩ => ⟨c, hc, hu⟩)) a wr n
  refine ⟨fun h => ⟨?_, ?_⟩, fun h h64 => ⟨?_, ?_⟩, fun _ ho wr st => ?_⟩
  · exact congrArg _ (writeBits_denied (m := 4) rfl (no true 4 h))
  · exact congrArg _ (read32_denied (no false 4 h))
  · exact (execRegisterWrite_wide h64).trans (congrArg _ (writeBits_denied (m := 8) rfl (no true 8 h)))
  · exact congrArg _ (read64_denied (no false 8 h) h64)
  · exact admitted_congr (domainDown_setCoreState ho c st s) (factoryTest_setCoreState c st s) a wr 4

end Sys2Proof.Machine

namespace Sys2Proof.Machine

/-! ### What every step keeps -/

/-- Whatever the command, the queue behind it, the arrays that the fuses list and soundness stay. -/
theorem exec_keeps : ∀ (i : Instr) (s : State), OutKeeps s (exec i s)
  | .registerWrite .., s => exec_registerWrite_keeps _ _ _ _ _ s
  | .registerReadLatch .., s => exec_registerReadLatch_keeps _ _ _ _ s
  | .snapTake .., s => exec_snapTake_keeps _ _ _ s
  | .tickBoundary .., s => exec_tickBoundary_keeps _ s
  | .caddyTtlExpire .., s => exec_caddyTtlExpire_keeps _ s
  | .guardBandStart, s => exec_guardBandStart_keeps s
  | .fire .., s => exec_fire_keeps _ s
  | .inputLoad .., s => exec_inputLoad_keeps _ _ s
  | .firingStart .., s => exec_firingStart_keeps _ _ s
  | .firingHandoff .., s => exec_firingHandoff_keeps _ _ s
  | .proofGoldLine .., s => exec_proofGoldLine_keeps _ _ _ s
  | .proofStart .., s => exec_proofStart_keeps _ s
  | .proofComplete .., s => exec_proofComplete_keeps _ s
  | .verified .., s => exec_verified_keeps _ _ _ _ s
  | .retire .., s => exec_retire_keeps _ _ _ _ s
  | .arrEmpty .., s => exec_arrEmpty_keeps _ _ _ _ s
  | .clearSuspect .., s => exec_clearSuspect_keeps _ _ _ _ s
  | .arrTrimWrite .., s => exec_arrTrimWrite_keeps _ _ _ _ _ s
  | .quant .., s => exec_quant_keeps _ s
  | .promote .., s => exec_promote_keeps _ s
  | .emit .., s => exec_emit_keeps _ s
  | .accClear .., s => exec_accClear_keeps _ s
  | .leavenWindowEnd .., s => exec_leavenWindowEnd_keeps _ s
  | .leavenCtlWrite .., s => exec_leavenCtlWrite_keeps _ _ s
  | .fmaxClear .., s => exec_fmaxClear_keeps _ _ s
  | .fallbackReport .., s => exec_fallbackReport_keeps _ _ _ _ _ s
  | .calFull .., s => exec_calFull_keeps _ _ _ s
  | .calArray .., s => exec_calArray_keeps _ _ _ _ s
  | .interpNow .., s => exec_interpNow_keeps _ s
  | .clearCorr .., s => exec_clearCorr_keeps _ _ _ s
  | .clearStats .., s => exec_clearStats_keeps _ _ _ s
  | .calCmdDone .., s => exec_calCmdDone_keeps _ s
  | .calInterpEnable .., s => exec_calInterpEnable_keeps _ s
  | .calPassStart .., s => exec_calPassStart_keeps _ s
  | .calPassEnd .., s => exec_calPassEnd_keeps _ s
  | .calMonitorPeriodEnd .., s => exec_calMonitorPeriodEnd_keeps _ s
  | .calStoreWrite .., s => exec_calStoreWrite_keeps _ _ _ _ s
  | .steepGo .., s => exec_steepGo_keeps _ _ s
  | .batchStart .., s => exec_batchStart_keeps _ s
  | .steepBatchEnd .., s => exec_steepBatchEnd_keeps _ _ s
  | .eraseBatchEnd .., s => exec_eraseBatchEnd_keeps _ _ s
  | .readbackBatchEnd .., s => exec_readbackBatchEnd_keeps _ _ s
  | .readbackTimeout .., s => exec_readbackTimeout_keeps _ s
  | .resteepRotation .., s => exec_resteepRotation_keeps _ _ s
  | .resteepInPlace .., s => exec_resteepInPlace_keeps _ _ s
  | .resteepDeferExpire .., s => exec_resteepDeferExpire_keeps _ s
  | .roundSwitch .., s => exec_roundSwitch_keeps _ _ _ _ s
  | .goldenRestore .., s => exec_goldenRestore_keeps _ _ _ s
  | .goldenRefetch .., s => exec_goldenRefetch_keeps _ _ _ s
  | .imageSourceRetry .., s => exec_imageSourceRetry_keeps _ _ _ s
  | .endOp .., s => exec_endOp_keeps _ s
  | .illegalInstruction .., s => exec_illegalInstruction_keeps _ s
  | .add .., s => exec_add_keeps _ s
  | .sub .., s => exec_sub_keeps _ s
  | .mul .., s => exec_mul_keeps _ s
  | .fma .., s => exec_fma_keeps _ s
  | .scale .., s => exec_scale_keeps _ s
  | .maxOp .., s => exec_maxOp_keeps _ s
  | .act .., s => exec_act_keeps _ s
  | .norm .., s => exec_norm_keeps _ s
  | .softmax .., s => exec_softmax_keeps _ s
  | .topk .., s => exec_topk_keeps _ s
  | .sample .., s => exec_sample_keeps _ s
  | .copy .., s => exec_copy_keeps _ s
  | .send .., s => exec_send_keeps _ s
  | .load .., s => exec_load_keeps _ s
  | .store .., s => exec_store_keeps _ s
  | .gather .., s => exec_gather_keeps _ s
  | .winOpen .., s => exec_winOpen_keeps _ s
  | .winSeal .., s => exec_winSeal_keeps _ s
  | .winClose .., s => exec_winClose_keeps _ s
  | .waitEvt .., s => exec_waitEvt_keeps _ s
  | .waitWin .., s => exec_waitWin_keeps _ s
  | .waitDeadline .., s => exec_waitDeadline_keeps _ s
  | .append .., s => exec_append_keeps _ s
  | .score .., s => exec_score_keeps _ s
  | .combine .., s => exec_combine_keeps _ s
  | .adptDown .., s => exec_adptDown_keeps _ s
  | .adptUp .., s => exec_adptUp_keeps _ s
  | .windowWriteLanding .., s => exec_windowWriteLanding_keeps _ s
  | .nackReceived .., s => exec_nackReceived_keeps _ s
  | .corePowerOn .., s => exec_corePowerOn_keeps _ s
  | .corePowerOff .., s => exec_corePowerOff_keeps _ s
  | .coreCmdReset .., s => exec_coreCmdReset_keeps _ s
  | .fence .., s => exec_fence_keeps _ s
  | .run .., s => exec_run_keeps _ s
  | .stop .., s => exec_stop_keeps _ s
  | .corePowerRampStart .., s => exec_corePowerRampStart_keeps _ s
  | .corePowerRampEnd .., s => exec_corePowerRampEnd_keeps _ s
  | .resetDrainDone .., s => exec_resetDrainDone_keeps _ s
  | .drainTimeout .., s => exec_drainTimeout_keeps _ s
  | .coreResetEnd .., s => exec_coreResetEnd_keeps _ s
  | .microcodeMulticast .., s => exec_microcodeMulticast_keeps _ _ _ s
  | .stepRowLanding, s => exec_stepRowLanding_keeps s
  | .syncMarkerTimer, s => exec_syncMarkerTimer_keeps s
  | .syncReceived .., s => exec_syncReceived_keeps _ s
  | .delayReqReceived .., s => exec_delayReqReceived_keeps _ s
  | .delayRespReceived .., s => exec_delayRespReceived_keeps _ s
  | .parentLossTimeout, s => exec_parentLossTimeout_keeps s
  | .holdoverExpire, s => exec_holdoverExpire_keeps s
  | .standbyRootTakeover, s => exec_standbyRootTakeover_keeps s
  | .gateHold, s => exec_gateHold_keeps s
  | .gateRelease, s => exec_gateRelease_keeps s
  | .gateAbort, s => exec_gateAbort_keeps s
  | .overrunWindowEnd .., s => exec_overrunWindowEnd_keeps _ s
  | .switchNotice .., s => exec_switchNotice_keeps _ _ _ _ s
  | .meshEnable .., s => exec_meshEnable_keeps _ s
  | .flitForward .., s => exec_flitForward_keeps _ _ _ _ s
  | .stackRead .., s => exec_stackRead_keeps _ _ _ _ s
  | .stackWrite .., s => exec_stackWrite_keeps _ _ _ _ s
  | .stackReply .., s => exec_stackReply_keeps _ s
  | .mergeWindowClose .., s => exec_mergeWindowClose_keeps _ _ s
  | .scrubRead .., s => exec_scrubRead_keeps _ _ _ s
  | .bankDown .., s => exec_bankDown_keeps _ _ s
  | .bankUp .., s => exec_bankUp_keeps _ _ s
  | .bankDrainEnd .., s => exec_bankDrainEnd_keeps _ s
  | .bankWakeEnd .., s => exec_bankWakeEnd_keeps _ s
  | .portEnable .., s => exec_portEnable_keeps _ s
  | .portTrainingDone .., s => exec_portTrainingDone_keeps _ _ s
  | .portMissingTimeout .., s => exec_portMissingTimeout_keeps _ s
  | .portTrainFailTimeout .., s => exec_portTrainFailTimeout_keeps _ s
  | .portSignalDetect .., s => exec_portSignalDetect_keeps _ s
  | .portAdmit .., s => exec_portAdmit_keeps _ s
  | .portQuarantine .., s => exec_portQuarantine_keeps _ s
  | .portRetrain .., s => exec_portRetrain_keeps _ s
  | .portDisable .., s => exec_portDisable_keeps _ s
  | .portMissing .., s => exec_portMissing_keeps _ s
  | .cellReceive .., s => exec_cellReceive_keeps _ _ s
  | .cellIngressExit .., s => exec_cellIngressExit_keeps _ _ s
  | .egressBlock .., s => exec_egressBlock_keeps _ s
  | .retrainDone .., s => exec_retrainDone_keeps _ s
  | .linkDown .., s => exec_linkDown_keeps _ s
  | .fecIntervalEnd .., s => exec_fecIntervalEnd_keeps _ s
  | .quarWindowEnd .., s => exec_quarWindowEnd_keeps _ s
  | .authCell .., s => exec_authCell_keeps _ _ s
  | .admissionTimeout .., s => exec_admissionTimeout_keeps _ s
  | .discoveryEnd, s => exec_discoveryEnd_keeps s
  | .missingReport .., s => exec_missingReport_keeps _ _ s
  | .portStateFlood .., s => exec_portStateFlood_keeps _ _ _ s
  | .routeInstall, s => exec_routeInstall_keeps s
  | .windowAck .., s => exec_windowAck_keeps _ s
  | .coordinatorSilent .., s => exec_coordinatorSilent_keeps _ _ s
  | .readyReport .., s => exec_readyReport_keeps _ _ s
  | .partitionStartNotice .., s => exec_partitionStartNotice_keeps _ _ s
  | .partitionRunWrite .., s => exec_partitionRunWrite_keeps _ s
  | .partitionResetNotice .., s => exec_partitionResetNotice_keeps _ _ s
  | .noticeReceived .., s => exec_noticeReceived_keeps _ _ _ s
  | .reqNew .., s => exec_reqNew_keeps _ _ s
  | .reqContinue .., s => exec_reqContinue_keeps _ _ s
  | .reqCancel .., s => exec_reqCancel_keeps _ _ s
  | .reqPark .., s => exec_reqPark_keeps _ _ s
  | .reqDrop .., s => exec_reqDrop_keeps _ _ s
  | .accountRefill, s => exec_accountRefill_keeps s
  | .outputRecordWrite .., s => exec_outputRecordWrite_keeps _ s
  | .outputIrqTimer .., s => exec_outputIrqTimer_keeps _ s
  | .caddyReport .., s => exec_caddyReport_keeps _ _ _ _ _ s
  | .adapterSlotFree .., s => exec_adapterSlotFree_keeps _ s
  | .mbDb .., s => exec_mbDb_keeps _ _ s
  | .mbAck .., s => exec_mbAck_keeps _ _ s
  | .pendingComplete .., s => exec_pendingComplete_keeps _ _ _ s
  | .rqTail .., s => exec_rqTail_keeps _ _ _ s
  | .oqHead .., s => exec_oqHead_keeps _ _ _ s
  | .flr .., s => exec_flr_keeps _ s
  | .pcieHotReset, s => exec_pcieHotReset_keeps s
  | .pciePerst, s => exec_pciePerst_keeps s
  | .pcieRetrain .., s => exec_pcieRetrain_keeps _ s
  | .bar4Read .., s => exec_bar4Read_keeps _ _ _ s
  | .bar4Write .., s => exec_bar4Write_keeps _ _ _ s
  | .dmaTransferEnd .., s => exec_dmaTransferEnd_keeps _ _ _ _ _ _ _ s
  | .mgmtSessionHandshake .., s => exec_mgmtSessionHandshake_keeps _ s
  | .getInfo .., s => exec_getInfo_keeps _ s
  | .getCert .., s => exec_getCert_keeps _ s
  | .getLog .., s => exec_getLog_keeps _ _ s
  | .getPorts .., s => exec_getPorts_keeps _ s
  | .partCreate .., s => exec_partCreate_keeps _ _ s
  | .partStart .., s => exec_partStart_keeps _ s
  | .partStop .., s => exec_partStop_keeps _ s
  | .partReset .., s => exec_partReset_keeps _ s
  | .partDestroy .., s => exec_partDestroy_keeps _ s
  | .partSet .., s => exec_partSet_keeps _ _ s
  | .partClear .., s => exec_partClear_keeps _ s
  | .partNarrow .., s => exec_partNarrow_keeps _ s
  | .partStatus .., s => exec_partStatus_keeps _ _ s
  | .modelLoad .., s => exec_modelLoad_keeps _ _ s
  | .modelUnload .., s => exec_modelUnload_keeps _ _ s
  | .modelList .., s => exec_modelList_keeps _ s
  | .modelSupply .., s => exec_modelSupply_keeps _ _ _ _ s
  | .modelDigest .., s => exec_modelDigest_keeps _ _ s
  | .schedLoad .., s => exec_schedLoad_keeps _ _ s
  | .schedSwitch .., s => exec_schedSwitch_keeps _ s
  | .recipeSet .., s => exec_recipeSet_keeps _ _ s
  | .recipeGet .., s => exec_recipeGet_keeps _ _ s
  | .flagsGet .., s => exec_flagsGet_keeps _ _ s
  | .adapterLoad .., s => exec_adapterLoad_keeps _ _ _ _ s
  | .adapterReplace .., s => exec_adapterReplace_keeps _ _ _ _ s
  | .adapterUnload .., s => exec_adapterUnload_keeps _ _ s
  | .adapterList .., s => exec_adapterList_keeps _ s
  | .rqCreate .., s => exec_rqCreate_keeps _ _ _ _ _ s
  | .oqCreate .., s => exec_oqCreate_keeps _ _ _ _ _ _ _ _ _ s
  | .ringDestroy .., s => exec_ringDestroy_keeps _ _ _ s
  | .accountSet .., s => exec_accountSet_keeps _ _ _ _ _ _ s
  | .classSet .., s => exec_classSet_keeps _ _ _ _ s
  | .stopsetSet .., s => exec_stopsetSet_keeps _ _ _ s
  | .reqQuery .., s => exec_reqQuery_keeps _ _ s
  | .calSave .., s => exec_calSave_keeps _ _ _ s
  | .calRestore .., s => exec_calRestore_keeps _ _ _ _ _ s
  | .calMeasure .., s => exec_calMeasure_keeps _ _ _ s
  | .calConfig .., s => exec_calConfig_keeps _ _ _ _ _ _ s
  | .telSnapshot .., s => exec_telSnapshot_keeps _ _ s
  | .enduranceGet .., s => exec_enduranceGet_keeps _ _ s
  | .thermalGet .., s => exec_thermalGet_keeps _ s
  | .telStream .., s => exec_telStream_keeps _ _ _ _ _ s
  | .telStreamInterval, s => exec_telStreamInterval_keeps s
  | .faultList .., s => exec_faultList_keeps _ s
  | .faultAck .., s => exec_faultAck_keeps _ _ s
  | .coreFence .., s => exec_coreFence_keeps _ _ s
  | .resteep .., s => exec_resteep_keeps _ _ _ s
  | .digestCfg .., s => exec_digestCfg_keeps _ _ s
  | .lcGet .., s => exec_lcGet_keeps _ s
  | .lcSet .., s => exec_lcSet_keeps _ _ _ _ s
  | .ownershipInstall .., s => exec_ownershipInstall_keeps _ _ _ _ s
  | .fwStage .., s => exec_fwStage_keeps _ _ _ _ s
  | .fwActivate .., s => exec_fwActivate_keeps _ _ s
  | .fwStatus .., s => exec_fwStatus_keeps _ s
  | .shutdown .., s => exec_shutdown_keeps _ s
  | .bistResult .., s => exec_bistResult_keeps _ s
  | .reset .., s => exec_reset_keeps _ _ s
  | .planInstall .., s => exec_planInstall_keeps _ _ _ s
  | .planGet .., s => exec_planGet_keeps _ s
  | .portCmd .., s => exec_portCmd_keeps _ _ _ s
  | .spareSet .., s => exec_spareSet_keeps _ _ s
  | .halfClock .., s => exec_halfClock_keeps _ _ _ _ s
  | .sysRstAssert, s => exec_sysRstAssert_keeps s
  | .powerOnDetect .., s => exec_powerOnDetect_keeps _ s
  | .packageStart .., s => exec_packageStart_keeps _ s
  | .startStepTimeout, s => exec_startStepTimeout_keeps s
  | .watchdogExpire, s => exec_watchdogExpire_keeps s
  | .watchdogKick .., s => exec_watchdogKick_keeps _ s
  | .lcRstCluster .., s => exec_lcRstCluster_keeps _ _ s
  | .lcRstWarm .., s => exec_lcRstWarm_keeps _ s
  | .lcRstCold .., s => exec_lcRstCold_keeps _ s
  | .bistRun .., s => exec_bistRun_keeps _ s
  | .bistDone .., s => exec_bistDone_keeps _ s
  | .poweredTimeSave, s => exec_poweredTimeSave_keeps s
  | .faultEvent .., s => exec_faultEvent_keeps _ _ _ _ _ _ _ _ s
  | .faultWindowEnd .., s => exec_faultWindowEnd_keeps _ s
  | .fltAck .., s => exec_fltAck_keeps _ s
  | .fltEvtPop .., s => exec_fltEvtPop_keeps _ s
  | .fltCapClear .., s => exec_fltCapClear_keeps _ s
  | .faultNPulseEnd, s => exec_faultNPulseEnd_keeps s
  | .faultReport, s => exec_faultReport_keeps s
  | .faultSummaryTimer, s => exec_faultSummaryTimer_keeps s
  | .faultPause .., s => exec_faultPause_keeps _ _ s
  | .pauseRequest .., s => exec_pauseRequest_keeps _ s
  | .pauseNotice .., s => exec_pauseNotice_keeps _ _ s
  | .suspectObserve .., s => exec_suspectObserve_keeps _ _ s
  | .suspectObservationEnd .., s => exec_suspectObservationEnd_keeps _ _ s
  | .digestInterval, s => exec_digestInterval_keeps s
  | .injectGo .., s => exec_injectGo_keeps _ s
  | .injectionAtTime, s => exec_injectionAtTime_keeps s
  | .sensorSample .., s => exec_sensorSample_keeps _ _ _ s
  | .sensorMissingTimeout .., s => exec_sensorMissingTimeout_keeps _ s
  | .warningChange .., s => exec_warningChange_keeps _ _ s
  | .throttleSet .., s => exec_throttleSet_keeps _ s
  | .throttleRequest .., s => exec_throttleRequest_keeps _ _ s
  | .throttleClear .., s => exec_throttleClear_keeps _ s
  | .thmCtlWrite .., s => exec_thmCtlWrite_keeps _ _ s
  | .telConversionEnd .., s => exec_telConversionEnd_keeps _ _ s
  | .telCtlWrite .., s => exec_telCtlWrite_keeps _ _ _ s
  | .refclkLoss .., s => exec_refclkLoss_keeps _ s
  | .firingRelease .., s => exec_firingRelease_keeps _ _ s
  | .partnerSignalLoss .., s => exec_partnerSignalLoss_keeps _ s
  | .pcieLinkTrained .., s => exec_pcieLinkTrained_keeps _ _ _ _ s
  | .pcieLinkError .., s => exec_pcieLinkError_keeps _ s
  | .firmwareRestartEnd .., s => exec_firmwareRestartEnd_keeps _ s
  | .overrunReport .., s => exec_overrunReport_keeps _ _ _ _ _ s
  | .partitionStopNotice .., s => exec_partitionStopNotice_keeps _ _ s
  | .partitionStopRequest .., s => exec_partitionStopRequest_keeps _ _ s
  | .jtagFuseProgramming, s => exec_jtagFuseProgramming_keeps s

/-- A step runs the front command on the queue's rest, or, on an empty queue, lets time move on. -/
theorem step_cases {s t : State} (h : step s = .next t) :
    s.pending = [] ∧ t = tickTime s ∨ ∃ i rest, s.pending = i :: rest ∧ exec i { s with pending := rest } = .next t := by
  unfold step at h
  split at h
  · next hp => exact .inl ⟨hp, by cases h; rfl⟩
  · next i rest hp => exact .inr ⟨i, rest, hp, h⟩

/-- Settles O8: no command and no tick of the reference changes the list of bad arrays. -/
theorem stepKeepsFusedArrays : Obligations.StepKeepsFusedArrays := by
  intro s t h
  obtain ⟨-, rfl⟩ | ⟨i, rest, -, hi⟩ := step_cases h
  · obtain ⟨-, kept, -⟩ := tickTime_keeps (Keeps.refl s)
    exact kept
  · obtain ⟨-, kept, -⟩ := exec_keeps i _ t hi
    exact kept

/-! ### Events below L2 -/

theorem FltOnly.mem {s t : State} (h : FltOnly s t) : t.mem = s.mem := by rw [h.1]
theorem FltOnly.mesh {s t : State} (h : FltOnly s t) : t.mesh = s.mesh := by rw [h.1]
theorem FltOnly.core {s t : State} (h : FltOnly s t) (c : Nat) : core t c = core s c := core_of_cores (by rw [h.1]) c

/-! ### Frames of a core -/

theorem coreFrame.refl (c : Nat) (fs : List Fld) (s : State) : coreFrame c fs s s := ⟨rfl, .refl fs s, fun _ _ => rfl⟩

theorem coreFrame.trans {c : Nat} {fs : List Fld} {r s t : State} (h : coreFrame c fs r s) (k : coreFrame c fs s t) : coreFrame c fs r t :=
  ⟨k.1.trans h.1, h.2.1.trans k.2.1, fun d hd => (k.2.2 d hd).trans (h.2.2 d hd)⟩

/-- A change of other parts of the state. -/
theorem coreFrame.of_eq {c : Nat} {fs : List Fld} {r s t : State} (h : coreFrame c fs r s) (hm : t.mem = s.mem) (hr : t.regs = s.regs)
    (ha : t.act = s.act) (hc : t.cores = s.cores) : coreFrame c fs r t :=
  h.trans ⟨hm, (sameRegsBut.refl fs s).of_eq hr ha, fun d _ => core_of_cores hc d⟩

/-- A write of a listed field. -/
theorem coreFrame.set {c : Nat} {fs : List Fld} {f : Fld} (hf : f ∈ fs) (v : Nat) (s : State) : coreFrame c fs s (set f v s) :=
  ⟨rfl, (sameRegsBut.refl fs s).set hf v, fun _ _ => rfl⟩

/-- A change of the core beside its registers. -/
theorem coreFrame.updCore (c : Nat) (fs : List Fld) (g : CoreSt → CoreSt) (s : State) : coreFrame c fs s (updCore c g s) :=
  ⟨rfl, (sameRegsBut.refl fs s).of_eq rfl rfl, fun _ hd => core_updCore_ne hd g s⟩

/-! ### What a firing's start leaves -/

theorem skipDraw_coreFrame (c : Nat) (s : State) : coreFrame c [F.PROOF_SKIP_ZERO_CNT c] s (skipDraw c s) :=
  (coreFrame.updCore c _ _ s).trans (coreFrame.set (List.mem_singleton.2 rfl) _ _)

theorem skipIfDrawn_coreFrame (c : Nat) (f : Firing) (s : State) : coreFrame c [F.PROOF_SKIP_ZERO_CNT c] s (skipIfDrawn c f s) := by
  unfold skipIfDrawn
  split
  · exact skipDraw_coreFrame c s
  · exact .refl c _ s

theorem firings_skipIfDrawn (c : Nat) (f : Firing) (s : State) : (core (skipIfDrawn c f s) c).firings = (core s c).firings := by
  unfold skipIfDrawn
  split
  · simp [skipDraw]
  · rfl

/-- A firing that converts nothing is not proofed (R111). -/
theorem when_skipIfDrawn_spec (c : Nat) (f : Firing) (b : Bool) (s : State) :
    coreFrame c [F.PROOF_SKIP_ZERO_CNT c] s (when b (skipIfDrawn c f) s) ∧
      (core (when b (skipIfDrawn c f) s) c).firings = (core s c).firings :=
  match b with
  | false => ⟨.refl c _ s, rfl⟩
  | true => ⟨skipIfDrawn_coreFrame c f s, firings_skipIfDrawn c f s⟩

theorem firings_interruptReadback (c n : Nat) (s : State) : (core (interruptReadback c n s) c).firings = (core s c).firings := by
  simp [interruptReadback]

theorem interruptReadback_coreFrame (c n : Nat) (fs : List Fld) (s : State) : coreFrame c fs s (interruptReadback c n s) :=
  .updCore c fs _ s

/-- There are 2,624 arrays in a core (R26). -/
theorem holders_lt {s : State} {c slot n : Nat} (h : n ∈ holders s c slot) : n < 2624 := by
  obtain ⟨p, hp, rfl⟩ := List.mem_map.1 h
  have hk := (List.mem_filter.1 hp).2
  simp only [Bool.and_eq_true, decide_eq_true_eq] at hk
  omega

/-- A firing that its array takes starts with the recipe and the trims as they are. -/
theorem startFiring_active {c n : Nat} {f : Firing} {s : State} (hn : holders s c f.par.slot = [n]) (ha : arrState s c n = 4)
    (hr : refused97 f (recipe s c f.par.ri) = false) :
    startFiring c f s =
      ({ f with stage := .running, arr := some n, rcp := some (recipe s c f.par.ri), w2 := actB s (F.ARR_CTL_FMT c n)
                trims := trimsNow s c n, t0 := now s, slow := slowHalf s c, zero := (driven (firesA4 f (recipe s c f.par.ri)) f.row).isEmpty },
       when (driven (firesA4 f (recipe s c f.par.ri)) f.row).isEmpty (skipIfDrawn c f) s) := by
  simp [startFiring, hn, ha, hr, when]

/-- The event of a fire that finds no ACTIVE array (R86). -/
def fireRefusedEv (c n : Nat) (f : Firing) : Ev :=
  { src := 0x31, dom := c, access := 2, node := c, unit := 2, addr := n, detail := fireDetail f }

/-- A firing whose array is not ACTIVE is refused: ARR_STAT shows it, and an event reports it. -/
theorem startFiring_refused {c n : Nat} {f : Firing} {s : State} (hn : holders s c f.par.slot = [n]) (ha : arrState s c n ≠ 4) :
    startFiring c f s =
      ({ f with stage := .running, arr := none, rcp := some (recipe s c f.par.ri), w2 := false, trims := [], t0 := now s
                slow := slowHalf s c, refused := true },
       raise (fireRefusedEv c n f) (skipIfDrawn c f (hwSet (F.ARR_STAT_FIRE_REFUSED c n) 0 s))) := by
  simp [startFiring, hn, ha, fireRefusedEv]

/-- Setting the bit of a one-bit field gives 1. -/
theorem get_hwSet_zero {f : Fld} (hw : f.width = 1) (s : State) : get (hwSet f 0 s) f = 1 := by
  have hs : get (hwSet f 0 s) f = withBit (get s f) 0 true % 2 ^ f.width := get_setBit_same f 0 true s
  rw [hs, hw]
  unfold withBit bit
  split
  · next hb => simpa using hb
  · next hb =>
    simp only [Nat.pow_zero, Nat.div_one, beq_iff_eq] at hb
    simp only [if_true]
    omega

/-- What a refused fire leaves (R86): ARR_STAT reads FIRE_REFUSED, and neither memories nor queued firings change. -/
theorem refusedFire_spec (c : CoreIx) {n : Nat} (hn : n < 2624) (f : Firing) (s : State) :
    let t := raise (fireRefusedEv c n f) (skipIfDrawn c f (hwSet (F.ARR_STAT_FIRE_REFUSED c n) 0 s))
    get t (F.ARR_STAT_FIRE_REFUSED c n) = 1 ∧ (core t c).firings = (core s c).firings ∧ t.mem = s.mem := by
  intro t
  have hc := c.isLt
  have flt : FltOnly (skipIfDrawn c f (hwSet (F.ARR_STAT_FIRE_REFUSED c n) 0 s)) t :=
    raise_flt _ _ rfl (Nat.le_refl 1) rfl (Nat.lt_trans hc (by decide)) (show 0x31 < 256 by decide)
  obtain ⟨mem, regs, -⟩ := skipIfDrawn_coreFrame c f (hwSet (F.ARR_STAT_FIRE_REFUSED c n) 0 s)
  refine ⟨?_, ?_, flt.mem.trans mem⟩
  · rw [flt.2 _ (.inr (by simp only [F.ARR_STAT_FIRE_REFUSED]; omega)), (regs _ ?_).1]
    · exact get_hwSet_zero rfl s
    · intro x hx
      obtain rfl := List.mem_singleton.1 hx
      simp only [F.ARR_STAT_FIRE_REFUSED, F.PROOF_SKIP_ZERO_CNT]
      omega
  · rw [flt.core, firings_skipIfDrawn]
    rfl

/-! ### The commands on firings -/

theorem slot_of_find {st : FireStage} {slot : BitVec 12} {l : List Firing} {f : Firing}
    (h : l.find? (fun f => f.stage == st && f.par.slot == slot.toNat) = some f) : f.par.slot = slot.toNat := by
  have hf := List.find?_some h
  simp only [Bool.and_eq_true, beq_iff_eq] at hf
  exact hf.2

/-- The oldest loaded firing of a slot starts when its array runs no other, and interrupts a readback of its array. -/
theorem execFiringStart_eq {c : CoreIx} {slot : BitVec 12} {s u v : State} {f g : Firing}
    (hf : (core s c).firings.find? (fun f => f.stage == .loaded && f.par.slot == slot.toNat) = some f)
    (hb : ((core s c).firings.any fun x => x.arr == f.arr && f.arr.isSome && (x.stage == .running || x.stage == .handed)) = false)
    (hg : startFiring c f s = (g, u)) (hv : g.arr = none ∧ v = u ∨ ∃ n, g.arr = some n ∧ v = interruptReadback c n u) :
    exec (.firingStart c slot) s = .next
      (updCore c (fun k => { k with firings := updFirst (fun f => f.stage == .loaded && f.par.slot == slot.toNat) (fun _ => g) k.firings }) v) := by
  simp only [exec_firingStart, execFiringStart, hf, hb, hg]
  obtain ⟨ha, rfl⟩ | ⟨n, ha, rfl⟩ := hv <;> simp [ha]

/-- The running firing of a slot is handed over with its codes. -/
def handOver (c : Nat) (slot : BitVec 12) (o : Option FireOut) (s : State) : State :=
  updCore c (fun k => { k with
    firings := updFirst (fun f => f.stage == .running && f.par.slot == slot.toNat) (fun x => { x with stage := .handed, out := o }) k.firings }) s

theorem get_handOver (c : Nat) (slot : BitVec 12) (o : Option FireOut) (s : State) (g : Fld) : get (handOver c slot o s) g = get s g := rfl

/-- Codes go to their sets in program order, and the accumulator's queue goes on (R101). -/
def drainCodes (c : Nat) (s : State) : State :=
  let v := deliverWaiting c (core s c).firings.length s
  accDrain c (unitLoad v c .acc) v

section
variable {c : CoreIx} {slot : BitVec 12} {s : State} {f : Firing} {r : Recipe} (hr : f.rcp = some r)
  (hf : (core s c).firings.find? (fun f => f.stage == .running && f.par.slot == slot.toNat) = some f)
  (hb : before s c (f.t0 + handOffset f r) = true)
include hr hf hb

/-- A firing with converted values: its array takes its changes, and its codes go on unless its tick was abandoned. -/
theorem execFiringHandoff_converted {n : Nat} (hn : f.arr = some n) (hk : f.refused = false) (hz : f.zero = false) :
    exec (.firingHandoff c slot) s = .next
      (let a := handArray c n f r (latchDue c (moveTo (f.t0 + handOffset f r) s))
       if f.dead then handOver c slot none a.2 else drainCodes c (capture c n f r a.1 (handOver c slot (some a.1) a.2))) := by
  simp only [exec_firingHandoff, execFiringHandoff, hf, hr, hb, hn, hk, hz]
  cases f.dead <;> simp [handOver, drainCodes]

/-- A firing that converts nothing hands over codes of zero. -/
theorem execFiringHandoff_zero (h : f.refused = true ∨ f.zero = true ∨ f.arr = none) :
    exec (.firingHandoff c slot) s = .next
      (let u := latchDue c (moveTo (f.t0 + handOffset f r) s)
       if f.dead then handOver c slot none u else drainCodes c (handOver c slot (some zeroOut) u)) := by
  simp only [exec_firingHandoff, execFiringHandoff, hf, hr, hb]
  cases ha : f.arr with
  | none => cases f.dead <;> simp [handOver, drainCodes]
  | some n =>
    have hz : (f.refused || f.zero) = true := by simpa [ha] using h
    cases f.dead <;> simp [hz, handOver, drainCodes]

end

/-- A running firing is counted when its input is latched, 40 ns after its start, also when every converted value is zero (R452). -/
theorem latchDue_counts {c n : Nat} {s : State} {f : Firing} (hl : (core s c).firings = [f]) (hs : latchEnds s f = true)
    (hn : f.arr = some n) (hk : f.refused = false) (hz : f.zero = true) :
    get (latchDue c s) (F.ARR_FIRE_CNT c n) = get (bump (F.ARR_FIRE_CNT c n) s) (F.ARR_FIRE_CNT c n) ∧
      get (latchDue c s) (F.ARR_ZERO_CNT c n) = get (bump (F.ARR_ZERO_CNT c n) s) (F.ARR_ZERO_CNT c n) := by
  have one : countFiring c f s = bump (F.ARR_ZERO_CNT c n) (bump (F.ARR_FIRE_CNT c n) s) := by simp [countFiring, hn, hk, hz, when]
  have ne : (F.ARR_ZERO_CNT c n).key ≠ (F.ARR_FIRE_CNT c n).key := by simp only [F.ARR_ZERO_CNT, F.ARR_FIRE_CNT]; omega
  have regs : ∀ g, get (latchDue c s) g = get (bump (F.ARR_ZERO_CNT c n) (bump (F.ARR_FIRE_CNT c n) s)) g := by
    intro g
    simp [latchDue, hl, hs, one]
  refine ⟨(regs _).trans (get_bump_ne ne.symm _), (regs _).trans ?_⟩
  rw [get_bump_same, get_bump_ne ne, get_bump_same]

theorem get_moveTo_ne {g : Fld} (h : g.key ≠ F.TB_TIME_TIME.key) (x : Nat) (s : State) : get (moveTo x s) g = get s g := by
  unfold moveTo
  split
  · exact get_set_ne h x s
  · rfl

theorem core_moveTo (x : Nat) (s : State) (c : Nat) : core (moveTo x s) c = core s c := core_of_cores (moveTo_cores x s) c

/-- Time has come to an instant that the time base can show. -/
theorem le_now_moveTo {x : Nat} (h : x < 2 ^ 64) (s : State) : x ≤ now (moveTo x s) := by
  unfold moveTo
  split
  · refine Nat.le_of_eq (Eq.trans ?_ (get_set_same F.TB_TIME_TIME x s).symm)
    exact (Nat.mod_eq_of_lt h).symm
  · omega

/-- At its handoff instant a firing has passed the end of its input-latch phase. -/
theorem latchEnds_handoff {s : State} {f : Firing} {r : Recipe} (hs : f.stage = .running) (hl : f.latched = false) (hw : f.slow = false)
    (h64 : f.t0 + handOffset f r < 2 ^ 64) : latchEnds (moveTo (f.t0 + handOffset f r) s) f = true := by
  have late : f.t0 + 40 ≤ f.t0 + handOffset f r := by
    simp only [handOffset, hw, Bool.false_eq_true, if_false]
    split
    · omega
    · split <;> omega
  simp only [latchEnds, hs, hl, hw, Bool.and_eq_true, decide_eq_true_eq]
  exact ⟨⟨rfl, rfl⟩, Nat.le_trans late (le_now_moveTo h64 s)⟩

/-- Settles O15: each command on a firing acts on the first firing of its slot in its stage; a start asks for the slot's one ACTIVE array, a handoff
for converted values and a tick that still runs. -/
theorem firingsRun : Obligations.FiringsRun := by
  refine ⟨fun c slot s f hq hs room acc => ?_, fun c slot s f n hl hn free => ⟨fun ha hr => ?_, fun ha => ?_⟩, fun c slot s f r hr =>
    ⟨fun hf hb => ⟨fun n hn hd hk hz => ?_, fun n hn hd hk hz => ?_, fun hd hk => ?_, fun hd hk => ?_⟩, fun hf hb => ?_,
      fun n hl hR hlat hn hk hz hd hw h64 hb => ?_⟩⟩
  · -- the load of the oldest queued firing (R55, R178)
    simp only [exec_inputLoad, execInputLoad, hq, hs, ne_eq, not_true, if_false]
    refine (if_neg ?_).trans rfl
    rw [acc, Bool.or_false, decide_eq_true_eq]
    exact Nat.not_le.2 room
  · -- the start on an ACTIVE array (R66)
    have hn' : holders s c f.par.slot = [n] := slot_of_find hl ▸ hn
    obtain ⟨frame, firings⟩ := when_skipIfDrawn_spec c f (driven (firesA4 f (recipe s c f.par.ri)) f.row).isEmpty s
    refine ⟨_, execFiringStart_eq hl free (startFiring_active hn' ha hr) (.inr ⟨n, rfl, rfl⟩), ?_, ?_⟩
    · simp only [core_updCore_same, firings_interruptReadback, firings]
    · exact (frame.trans (interruptReadback_coreFrame c n _ _)).trans (.updCore c _ _ _)
  · -- the start that no ACTIVE array takes (R86)
    have hn' : holders s c f.par.slot = [n] := slot_of_find hl ▸ hn
    obtain ⟨shown, firings, mem⟩ := refusedFire_spec c (holders_lt (hn ▸ List.mem_singleton.2 rfl)) f s
    refine ⟨_, execFiringStart_eq hl free (startFiring_refused hn' ha) (.inl ⟨rfl, rfl⟩), (get_updCore ..).trans shown, ?_,
      (updCore_mem ..).trans mem⟩
    rw [core_updCore_same, ← firings]
  · -- the handoff of converted values, in a tick that runs and in an abandoned one (R98 to R101)
    rw [execFiringHandoff_converted hr hf hb hn hk hz, hd]
    simp only [Bool.false_eq_true, if_false]
    rfl
  · rw [execFiringHandoff_converted hr hf hb hn hk hz, hd]
    rfl
  · -- the handoff without converted values, likewise
    rw [execFiringHandoff_zero hr hf hb hk, hd]
    simp only [Bool.false_eq_true, if_false]
    rfl
  · rw [execFiringHandoff_zero hr hf hb hk, hd]
    rfl
  · -- the release (R64)
    simp [exec_firingRelease, execFiringRelease, hf, hr, hb]
  · -- the count of a firing that has latched its input (R452)
    have hf : (core s c).firings.find? (fun f => f.stage == .running && f.par.slot == slot.toNat) = some f := by
      rw [hl]
      simpa using hR
    have hs : f.stage = .running := by
      simp only [Bool.and_eq_true, beq_iff_eq] at hR
      exact hR.1
    obtain ⟨fired, zero⟩ := latchDue_counts (c := c) ((congrArg CoreSt.firings (core_moveTo ..)).trans hl)
      (latchEnds_handoff (s := s) hs hlat hw h64) hn hk hz
    have handed : exec (.firingHandoff c slot) s = .next (handOver c slot none (latchDue c (moveTo (f.t0 + handOffset f r) s))) :=
      (execFiringHandoff_zero hr hf hb (.inr (.inl hz))).trans (by rw [hd]; rfl)
    refine ⟨_, handed, ?_, ?_⟩
    · rw [get_handOver, fired, get_bump_same, get_moveTo_ne (by simp only [F.ARR_FIRE_CNT, F.TB_TIME_TIME]; omega)]
    · rw [get_handOver, zero, get_bump_same, get_moveTo_ne (by simp only [F.ARR_ZERO_CNT, F.TB_TIME_TIME]; omega)]

/-! ### Array commands (Table 2.14) -/

/-- A write of ARR_CTL puts SLOT, unless it is no slot, and FMT into their shadows (R85). -/
def ctlShadows (c n slot : Nat) (fmt : Bool) (s : State) : State :=
  shadowWrite true (F.ARR_CTL_FMT c n) (if fmt then 1 else 0)
    (when (slot < 0xA00 || slot = 0xFFF) (shadowWrite true (F.ARR_CTL_SLOT c n) slot) s)

theorem arrCtl_eq {c : Nat} {s : State} (up : coreUp s c = true) (n slot : Nat) (fmt : Bool) (cmd : Nat) :
    arrCtl c n slot fmt cmd s =
      if coreRuns (ctlShadows c n slot fmt s) c then updCore c (fun k => { k with arrCmds := k.arrCmds ++ [(n, cmd)] }) (ctlShadows c n slot fmt s)
      else arrCmd c n cmd (ctlShadows c n slot fmt s) := by
  unfold arrCtl
  rw [up]
  rfl

theorem shadowWrite_coreFrame {c : Nat} {fs : List Fld} {f : Fld} (hf : f ∈ fs) (m : Bool) (v : Nat) (s : State) :
    coreFrame c fs s (shadowWrite m f v s) := (coreFrame.set hf v s : coreFrame c fs s (set f v s))

/-- What the shadows of ARR_CTL leave: active values, cores, memories, and every other register. -/
theorem ctlShadows_spec {c n : Nat} {fs : List Fld} (hs : [F.ARR_CTL_SLOT c n, F.ARR_CTL_FMT c n] ⊆ fs) (slot : Nat) (fmt : Bool) (s : State) :
    (ctlShadows c n slot fmt s).act = s.act ∧ (ctlShadows c n slot fmt s).cores = s.cores ∧ coreFrame c fs s (ctlShadows c n slot fmt s) := by
  have hslot : F.ARR_CTL_SLOT c n ∈ fs := hs (by simp)
  have hfmt : F.ARR_CTL_FMT c n ∈ fs := hs (by simp)
  unfold ctlShadows
  cases decide (slot < 0xA00) || decide (slot = 0xFFF) with
  | false => exact ⟨rfl, rfl, shadowWrite_coreFrame hfmt ..⟩
  | true => exact ⟨rfl, rfl, (shadowWrite_coreFrame hslot ..).trans (shadowWrite_coreFrame hfmt ..)⟩

theorem get_ctlShadows {c n : Nat} {g : Fld} (h1 : g.key ≠ (F.ARR_CTL_SLOT c n).key) (h2 : g.key ≠ (F.ARR_CTL_FMT c n).key) (slot : Nat)
    (fmt : Bool) (s : State) : get (ctlShadows c n slot fmt s) g = get s g := by
  obtain ⟨-, -, -, regs, -⟩ := ctlShadows_spec (List.Subset.refl [F.ARR_CTL_SLOT c n, F.ARR_CTL_FMT c n]) slot fmt s
  exact (regs g (by simp [h1, h2])).1

theorem arrState_ctlShadows (c n slot : Nat) (fmt : Bool) (s : State) : arrState (ctlShadows c n slot fmt s) c n = arrState s c n :=
  get_ctlShadows (by simp only [F.ARR_STAT_STATE, F.ARR_CTL_SLOT]; omega) (by simp only [F.ARR_STAT_STATE, F.ARR_CTL_FMT]; omega) slot fmt s

theorem coreState_ctlShadows (c : CoreIx) (n : ArrIx) (slot : Nat) (fmt : Bool) (s : State) :
    coreState (ctlShadows c n slot fmt s) c = coreState s c :=
  get_ctlShadows (by simp only [F.CORE_CTL_STATE_STATE, F.ARR_CTL_SLOT]; omega) (by simp only [F.CORE_CTL_STATE_STATE, F.ARR_CTL_FMT]; omega)
    slot fmt s

/-- An array command to a core that is IDLE acts at once. -/
theorem arrCtl_idle {c : CoreIx} {s : State} (h : coreState s c = 2) (n : ArrIx) (slot : Nat) (fmt : Bool) (cmd : Nat) :
    arrCtl c n slot fmt cmd s = arrCmd c n cmd (ctlShadows c n slot fmt s) := by
  rw [arrCtl_eq (by simp [coreUp, h, cIdle]), if_neg (by simp [coreRuns, coreState_ctlShadows, h, cRunning])]

/-- While the core runs it waits for the boundary. -/
theorem arrCtl_running {c : CoreIx} {s : State} (h : coreState s c = 3) (n : ArrIx) (slot : Nat) (fmt : Bool) (cmd : Nat) :
    arrCtl c n slot fmt cmd s = updCore c (fun k => { k with arrCmds := k.arrCmds ++ [(n.val, cmd)] }) (ctlShadows c n slot fmt s) := by
  rw [arrCtl_eq (by simp [coreUp, h, cRunning]), if_pos (by simp [coreRuns, coreState_ctlShadows, h, cRunning])]

/-- The fields that an array command writes. -/
def ctlFields (c n : Nat) : List Fld := [F.ARR_CTL_SLOT c n, F.ARR_CTL_FMT c n, F.ARR_STAT_STATE c n]

theorem ctlShadows_ctlFields (c n slot : Nat) (fmt : Bool) (s : State) :
    (ctlShadows c n slot fmt s).act = s.act ∧ (ctlShadows c n slot fmt s).cores = s.cores ∧
      coreFrame c (ctlFields c n) s (ctlShadows c n slot fmt s) := ctlShadows_spec (by simp [ctlFields]) slot fmt s

/-- An array command of an IDLE core that gives the array a state (Table 2.14). -/
theorem arrCtl_state {c : CoreIx} {n : ArrIx} {s : State} {cmd st : Nat} (h : coreState s c = 2)
    (hc : ∀ u, arrState u c n = arrState s c n → arrCmd c n cmd u = setArr c n st u) (h8 : st < 8) (slot : Nat) (fmt : Bool) :
    let t := arrCtl c n slot fmt cmd s
    get t (F.ARR_STAT_STATE c n) = st ∧ t.act = s.act ∧ coreFrame c (ctlFields c n) s t := by
  intro t
  have ht : t = setArr c n st (ctlShadows c n slot fmt s) := (arrCtl_idle h n slot fmt cmd).trans (hc _ (arrState_ctlShadows ..))
  obtain ⟨act, -, frame⟩ := ctlShadows_ctlFields c n slot fmt s
  rw [ht]
  exact ⟨(get_set_same ..).trans (Nat.mod_eq_of_lt h8), act, frame.trans (.set (by simp [ctlFields]) ..)⟩

/-- An array command of a running core waits behind those before it. -/
theorem arrCtl_waits {c : CoreIx} {s : State} (h : coreState s c = 3) (n : ArrIx) (slot : Nat) (fmt : Bool) (cmd : Nat) :
    let t := arrCtl c n slot fmt cmd s
    arrState t c n = arrState s c n ∧ (core t c).arrCmds = (core s c).arrCmds ++ [(n.val, cmd)] ∧ t.act = s.act ∧
      coreFrame c (ctlFields c n) s t := by
  obtain ⟨act, cores, frame⟩ := ctlShadows_ctlFields c n slot fmt s
  intro t
  have ht : t = _ := arrCtl_running h n slot fmt cmd
  rw [ht]
  refine ⟨arrState_ctlShadows .., ?_, act, frame.trans (.updCore ..)⟩
  rw [core_updCore_same, core_of_cores cores]

/-- Firmware's own records lie in no register, no core and no memory. -/
theorem when_updFw_spec (b : Bool) (g : FwSt → FwSt) (s : State) : (when b (updFw g) s).regs = s.regs ∧ (when b (updFw g) s).act = s.act ∧
    (when b (updFw g) s).cores = s.cores ∧ (when b (updFw g) s).mem = s.mem := by
  cases b <;> exact ⟨rfl, rfl, rfl, rfl⟩

/-- RETIRE is the array command and firmware's note of it, which lies in no register and no core (R90). -/
theorem execRetire_spec (c : CoreIx) (n : ArrIx) (slot : BitVec 12) (fmt : Bool) (s : State) : ∃ t, exec (.retire c n slot fmt) s = .next t ∧
    t.regs = (arrCtl c n slot.toNat fmt 2 s).regs ∧ t.act = (arrCtl c n slot.toNat fmt 2 s).act ∧
    t.cores = (arrCtl c n slot.toNat fmt 2 s).cores ∧ t.mem = (arrCtl c n slot.toNat fmt 2 s).mem :=
  ⟨_, rfl, when_updFw_spec ..⟩

/-- CLEAR_SUSPECT of an IDLE core clears the flag and leaves the array's state. -/
theorem clearSuspect_spec {c : CoreIx} {s : State} (h : coreState s c = 2) (n : ArrIx) (slot : Nat) (fmt : Bool) :
    let t := arrCtl c n slot fmt 4 s
    get t (F.ARR_STAT_SUSPECT c n) = 0 ∧ t.act = s.act ∧ coreFrame c (F.ARR_STAT_SUSPECT c n :: ctlFields c n) s t ∧
      arrState t c n = arrState s c n := by
  intro t
  have ht : t = setB (F.ARR_STAT_SUSPECT c n) false (ctlShadows c n slot fmt s) := arrCtl_idle h n slot fmt 4
  obtain ⟨act, -, frame⟩ := ctlShadows_spec (c := c) (n := n) (fs := F.ARR_STAT_SUSPECT c n :: ctlFields c n) (by simp [ctlFields]) slot fmt s
  have key : (F.ARR_STAT_STATE c n).key ≠ (F.ARR_STAT_SUSPECT c n).key := by simp only [F.ARR_STAT_STATE, F.ARR_STAT_SUSPECT]; omega
  rw [ht]
  exact ⟨get_setB_same .., act, frame.trans (.set (by simp) ..), (get_setB_ne key ..).trans (arrState_ctlShadows ..)⟩

/-! ### Trims (R93) -/

/-- The trim of a converter: its gain, or its offset. -/
def trimField (gain : Bool) (c n k : Nat) : Fld := if gain then trimGain c n k else trimOfs c n k

theorem trimField_width (gain : Bool) (c n k : Nat) : (trimField gain c n k).width = if gain then 5 else 6 := by
  cases gain <;> rfl

theorem trimField_key_ne {j k : Nat} (h : j < k) {gain : Bool} {c n : Nat} : (trimField gain c n j).key ≠ (trimField gain c n k).key := by
  cases gain <;> simp [trimField, trimGain, trimOfs] <;> omega

theorem upTo_succ (n : Nat) (f : Nat → State → State) (s : State) : upTo (n + 1) f s = f n (upTo n f s) := by
  simp [upTo, each, List.range_succ]

/-- A repeated write of shadows gives each field its value, and changes no other register and no active value. -/
theorem upTo_shadowWrite (m : Bool) (f : Nat → Fld) (v : Nat → Nat) (s : State) {n : Nat}
    (hne : ∀ i j, i < j → j < n → (f i).key ≠ (f j).key) :
    let t := upTo n (fun i s => shadowWrite m (f i) (v i) s) s
    (∀ i, i < n → get t (f i) = v i % 2 ^ (f i).width) ∧ t.act = s.act ∧ t.mem = s.mem ∧ t.cores = s.cores ∧
      sameRegsBut ((List.range n).map f) s t := by
  induction n with
  | zero => exact ⟨fun i hi => absurd hi (Nat.not_lt_zero i), rfl, rfl, rfl, .refl _ s⟩
  | succ n ih =>
    obtain ⟨vals, act, mem, cores, regs⟩ := ih fun i j hij hj => hne i j hij (Nat.lt_succ_of_lt hj)
    rw [upTo_succ]
    refine ⟨fun i hi => ?_, act, mem, cores, ?_⟩
    · obtain rfl | hlt := Nat.lt_succ_iff_lt_or_eq.1 hi |>.symm
      · exact get_set_same ..
      · exact (get_set_ne (hne i n hlt (Nat.lt_succ_self n)) ..).trans (vals i hlt)
    · have more : sameRegsBut ((List.range (n + 1)).map f) s (upTo n (fun i s => shadowWrite m (f i) (v i) s) s) := fun g hg =>
        regs g fun x hx => hg x (List.map_subset f (List.range_subset.2 (Nat.le_succ n)) hx)
      exact more.set (List.mem_map.2 ⟨n, List.mem_range.2 (Nat.lt_succ_self n), rfl⟩) _

/-! ### Golden lines and proofs (R112, R114) -/

/-- A line that the region check refuses comes back POISONED and is counted, and changes no memory (R245). -/
theorem refusedLine_spec (st : Nat) (s : State) : (refusedLine st s).1.2.2 = true ∧ (∀ g, get (refusedLine st s).2 g = get s g) ∧
    (refusedLine st s).2.mem = s.mem := ⟨rfl, fun _ => rfl, rfl⟩

/-- What a flag of an array or a layer, a count and an event below L2 leave of the proof unit: PROOF_LAST and the count of proofs, the entries,
the memories and the mesh. -/
structure ProofFrame (c : Nat) (s t : State) : Prop where
  regs : ∀ g : Fld, 0x8500200 + c * 0x800000 ≤ g.key → g.key < 0x85002c0 + c * 0x800000 → get t g = get s g
  computing : (core t c).computing = (core s c).computing
  mem : t.mem = s.mem
  mesh : t.mesh = s.mesh

theorem ProofFrame.refl (c : Nat) (s : State) : ProofFrame c s s := ⟨fun _ _ _ => rfl, rfl, rfl, rfl⟩

theorem ProofFrame.trans {c : Nat} {r s t : State} (h : ProofFrame c r s) (k : ProofFrame c s t) : ProofFrame c r t :=
  ⟨fun g h1 h2 => (k.regs g h1 h2).trans (h.regs g h1 h2), k.computing.trans h.computing, k.mem.trans h.mem, k.mesh.trans h.mesh⟩

theorem ProofFrame.set {c : Nat} {f : Fld} (hf : f.key < 0x8500200 + c * 0x800000 ∨ 0x85002c0 + c * 0x800000 ≤ f.key) (v : Nat) (s : State) :
    ProofFrame c s (set f v s) := ⟨fun g h1 h2 => get_set_ne (by omega) v s, rfl, rfl, rfl⟩

theorem ProofFrame.hwSet {c : Nat} {f : Fld} (hf : f.key < 0x8500200 + c * 0x800000 ∨ 0x85002c0 + c * 0x800000 ≤ f.key) (i : Nat) (s : State) :
    ProofFrame c s (hwSet f i s) := (ProofFrame.set hf (withBit (get s f) i true) s).trans ⟨fun _ _ _ => rfl, rfl, rfl, rfl⟩

theorem ProofFrame.updCore (c : Nat) {f : CoreSt → CoreSt} (h : ∀ k, (f k).computing = k.computing) (s : State) :
    ProofFrame c s (updCore c f s) := ⟨fun _ _ _ => rfl, by rw [core_updCore_same, h], rfl, rfl⟩

theorem FltOnly.proofFrame {s t : State} (h : FltOnly s t) (c : Nat) : ProofFrame c s t :=
  ⟨fun g h1 _ => h.2 g (.inr (by omega)), congrArg CoreSt.computing (h.core c), h.mem, h.mesh⟩

theorem signalSample_proofFrame (c : Nat) (e : ProofEntry) (s : State) : ProofFrame c s (signalSample c e s) := by
  unfold signalSample
  split
  · exact .refl c s
  · exact (ProofFrame.updCore c (fun _ => by rfl) s).trans (.set (by simp only [F.CAL_STAT_EXCL_CNT]; omega) ..)

theorem layerFlag_proofFrame (c : Nat) {ri : Nat} (hr : ri < 256) (s : State) : ProofFrame c s (layerFlag c ri 2 s) := by
  have flag := ProofFrame.hwSet (c := c) (f := F.LEAVEN_LFLAG_PROOF_MISS c ri) (by simp only [F.LEAVEN_LFLAG_PROOF_MISS]; omega) 0 s
  unfold layerFlag
  exact flag.trans (.updCore c (fun _ => by rfl) _)

/-- After PROOF_LAST is written, the judgement of a proof changes flags, counts and signal samples. -/
theorem completeProof_proofFrame (c : CoreIx) {e : ProofEntry} (ha : e.arr < 2624) (hr : e.ri < 256) (s : State) :
    ProofFrame c (proofLast c e (proofErrors e) (judge s c e (proofErrors e)) s) (completeProof c e s) := by
  have hc := c.isLt
  unfold completeProof
  dsimp only
  generalize proofLast c e (proofErrors e) (judge s c e (proofErrors e)) s = u
  split
  · have flag := ProofFrame.hwSet (c := c) (f := F.ARR_STAT_PROOF_MISS c e.arr) (by simp only [F.ARR_STAT_PROOF_MISS]; omega) 0 u
    have suspect : ∀ t, ProofFrame c t (setB (F.ARR_STAT_SUSPECT c e.arr) true t) := fun t => .set (by simp only [F.ARR_STAT_SUSPECT]; omega) ..
    have count : ∀ t, ProofFrame c t (bump (F.PROOF_MISS_CNT c) t) := fun t => .set (by simp only [F.PROOF_MISS_CNT]; omega) ..
    refine (((flag.trans (suspect _)).trans (count _)).trans (layerFlag_proofFrame c hr _)).trans (FltOnly.proofFrame ?_ c)
    exact raise_flt _ _ rfl (Nat.zero_le 1) rfl (Nat.lt_trans hc (by decide)) (show 0x12 < 256 by decide)
  · exact signalSample_proofFrame c e u

/-- PROOF_LAST shows the entry and its judgement, and the proof is counted (Table 3.18). -/
theorem proofLast_spec (c : Nat) (e : ProofEntry) (errs : List Int) (j : Nat × Bool × Bool) (s : State) :
    let t := proofLast c e errs j s
    get t (F.PROOF_LAST_SLOT c) = e.slot % 2 ^ 12 ∧ get t (F.PROOF_LAST_ARRAY c) = e.arr % 2 ^ 12 ∧
      get t (F.PROOF_LAST_TIME_TIME c) = e.time % 2 ^ 64 ∧ get t (F.PROOF_LAST_MISS c) = (if j.2.2 then 1 else 0) ∧
      get t (F.PROOF_RUN_CNT c) = min (get s (F.PROOF_RUN_CNT c) + 1) (2 ^ 64 - 1) % 2 ^ 64 := by
  refine ⟨?_, ?_, ?_, ?_, ?_⟩ <;>
    simp [proofLast, get_set_ne, get_setB_ne, get_setB_same, get_bump_ne, get_bump_same, F.PROOF_LAST_SLOT, F.PROOF_LAST_ARRAY, F.PROOF_LAST_FINE,
      F.PROOF_LAST_LEAVEN, F.PROOF_LAST_MISS, F.PROOF_LAST_GROSS_HIT, F.PROOF_LAST_EXCEED, F.PROOF_LAST_WORST, F.PROOF_LAST_RI,
      F.PROOF_LAST_TIME_TIME, F.PROOF_RUN_CNT]
  split <;> decide

theorem proofLast_frame (c : Nat) (e : ProofEntry) (errs : List Int) (j : Nat × Bool × Bool) (s : State) :
    (proofLast c e errs j s).cores = s.cores ∧ (proofLast c e errs j s).mem = s.mem ∧ (proofLast c e errs j s).mesh = s.mesh := by
  simp [proofLast]

/-- The computing entry, or, when `second`, the waiting one, is replaced. -/
def putGolden (second : Bool) (x : Option ProofEntry) (k : CoreSt) : CoreSt := if second then { k with waiting := x } else { k with computing := x }

/-- A golden line arrives for an entry: it is kept, or, POISONED, it ends the entry; a line outside the core's regions comes back
POISONED (R112, R245). -/
theorem execProofGoldLine_spec {c : CoreIx} {s : State} {e : ProofEntry} {second : Bool}
    (he : (if second then (core s c).waiting else (core s c).computing) = some e) (i : BitVec 8) :
    let l := goldAddr s c e.slot / 512 + i.toNat
    let d := readLine c l true s
    (e.regionOk = true → d.1.2.2 = false →
      exec (.proofGoldLine c second i) s = .next (updCore c (putGolden second (some (takeLine e i.toNat d.1.2.1))) d.2)) ∧
    (e.regionOk = true → d.1.2.2 = true →
      exec (.proofGoldLine c second i) s = .next (updCore c (putGolden second none) (proofPoison c l e d.2))) ∧
    (e.regionOk = false → ∃ t, exec (.proofGoldLine c second i) s = .next (updCore c (putGolden second none) (proofPoison c l e t)) ∧
      get t (F.RTR_REGION_REJ_CNT c) = get (regionRej c s) (F.RTR_REGION_REJ_CNT c) ∧ t.mem = s.mem) := by
  refine ⟨fun ok clean => ?_, fun ok bad => ?_, fun ok => ?_⟩
  · simp only [exec_proofGoldLine, execProofGoldLine, he, ok, clean, if_true]
    rfl
  · simp only [exec_proofGoldLine, execProofGoldLine, he, ok, bad, if_true]
    rfl
  · obtain ⟨poison, regs, mem⟩ := refusedLine_spec 0x03 (regionRej c s)
    refine ⟨(refusedLine 0x03 (regionRej c s)).2, ?_, regs _, mem.trans (bumpRtr_mem ..)⟩
    simp only [exec_proofGoldLine, execProofGoldLine, he, ok, Bool.false_eq_true, if_false, poison, if_true]
    rfl

/-- The computing entry's proof ends when its record is whole. -/
theorem execProofComplete_eq {c : CoreIx} {s : State} {e : ProofEntry} (he : (core s c).computing = some e) (full : goldFull e = true) :
    exec (.proofComplete c) s = .next (completeProof c e (updCore c (fun k => { k with computing := none }) s)) := by
  simp [exec_proofComplete, execProofComplete, he, full]

/-- A complete proof is counted and shown in PROOF_LAST (R114). -/
theorem completeProof_spec (c : CoreIx) {e : ProofEntry} (ha : e.arr < 2624) (hr : e.ri < 256) (s : State) :
    let t := completeProof c e s
    (core t c).computing = (core s c).computing ∧ get t (F.PROOF_LAST_SLOT c) = e.slot % 2 ^ 12 ∧
      get t (F.PROOF_LAST_ARRAY c) = e.arr % 2 ^ 12 ∧ get t (F.PROOF_LAST_TIME_TIME c) = e.time % 2 ^ 64 ∧
      get t (F.PROOF_LAST_MISS c) = (if (judge s c e (proofErrors e)).2.2 then 1 else 0) ∧
      get t (F.PROOF_RUN_CNT c) = min (get s (F.PROOF_RUN_CNT c) + 1) (2 ^ 64 - 1) % 2 ^ 64 ∧ t.mem = s.mem ∧ t.mesh = s.mesh := by
  obtain ⟨regs, computing, mem, mesh⟩ := completeProof_proofFrame c ha hr s
  obtain ⟨slot, array, time, miss, count⟩ := proofLast_spec c e (proofErrors e) (judge s c e (proofErrors e)) s
  obtain ⟨cores, mem', mesh'⟩ := proofLast_frame c e (proofErrors e) (judge s c e (proofErrors e)) s
  refine ⟨computing.trans (congrArg CoreSt.computing (core_of_cores cores c)), (regs _ ?_ ?_).trans slot, (regs _ ?_ ?_).trans array,
    (regs _ ?_ ?_).trans time, (regs _ ?_ ?_).trans miss, (regs _ ?_ ?_).trans count, mem.trans mem', mesh.trans mesh'⟩ <;>
    simp [F.PROOF_LAST_SLOT, F.PROOF_LAST_ARRAY, F.PROOF_LAST_TIME_TIME, F.PROOF_LAST_MISS, F.PROOF_RUN_CNT]

/-- Settles O16: an array command acts on the array's state or joins the queue of the core, a write of trims is four shadow writes, and a golden
line, a start or the end of a proof acts on the entry. -/
theorem arraysAndProofsAct : Obligations.ArraysAndProofsAct := by
  refine ⟨fun c n slot fmt s => ⟨fun idle => ⟨fun hs => ?_, fun hs => ?_, fun hs => ?_, ?_⟩, fun run => ⟨?_, ?_, ?_, ?_⟩⟩,
    fun a c n gain v s up _ => ?_, fun c i s e => ⟨fun he => execProofGoldLine_spec (second := false) he i,
      fun he => execProofGoldLine_spec (second := true) he i, fun free hw full => ?_, fun he full ha hr => ?_⟩⟩
  · -- VERIFIED, RETIRE, ARR_EMPTY and CLEAR_SUSPECT of an IDLE core (R85)
    exact ⟨_, rfl, arrCtl_state idle (fun u hu => by simp [arrCmd, hu, hs, when]) (by decide) ..⟩
  · obtain ⟨t, ht, regs, act, cores, mem⟩ := execRetire_spec c n slot fmt s
    obtain ⟨st, act', frame⟩ := arrCtl_state (n := n) (cmd := 2) (st := 5) idle
      (fun u hu => by simp [arrCmd, hu, hs, when]) (by decide) slot.toNat fmt
    exact ⟨t, ht, (get_of_regs regs _).trans st, act.trans act', frame.of_eq mem regs act cores⟩
  · exact ⟨_, rfl, arrCtl_state idle (fun u hu => by simp [arrCmd, hu, hs, when]) (by decide) ..⟩
  · exact ⟨_, rfl, clearSuspect_spec idle ..⟩
  · -- the same of a running core (R87)
    exact ⟨_, rfl, arrCtl_waits run ..⟩
  · obtain ⟨t, ht, regs, act, cores, mem⟩ := execRetire_spec c n slot fmt s
    obtain ⟨st, queued, act', frame⟩ := arrCtl_waits run n slot.toNat fmt 2
    exact ⟨t, ht, (get_of_regs regs _).trans st, (congrArg CoreSt.arrCmds (core_of_cores cores _)).trans queued, act.trans act',
      frame.of_eq mem regs act cores⟩
  · exact ⟨_, rfl, arrCtl_waits run ..⟩
  · exact ⟨_, rfl, arrCtl_waits run ..⟩
  · -- the write of trims (R93)
    obtain ⟨vals, act, mem, cores, regs⟩ := upTo_shadowWrite (n := 4) (decide (a = .mgmt))
      (fun i => trimField gain c n (4 * trimGroup s a c n + i))
      (fun i => bits v.toNat (8 * i) (if gain then 5 else 6)) s fun i j hij _ => trimField_key_ne (by omega)
    refine ⟨_, by simp only [exec_arrTrimWrite, execArrTrimWrite, up]; rfl, fun i hi => ?_, act, mem, cores, regs⟩
    refine (vals i hi).trans ?_
    rw [trimField_width]
    exact Nat.mod_mod ..
  · -- the start and the end of a proof (R112, R114)
    simp [exec_proofStart, execProofStart, free, hw, full]
  · obtain ⟨computing, shown⟩ := completeProof_spec c ha hr (updCore c (fun k => { k with computing := none }) s)
    exact ⟨_, execProofComplete_eq he full, computing.trans (by rw [core_updCore_same]), shown⟩

end Sys2Proof.Machine

namespace Sys2Proof.Machine

/-! ### What leaves the memories, the cores, the active values and the fault collector alone -/

theorem calm.refl (s : State) : calm s s := ⟨rfl, rfl, rfl, rfl⟩

theorem calm.trans {r s t : State} (h : calm r s) (k : calm s t) : calm r t :=
  ⟨k.1.trans h.1, k.2.1.trans h.2.1, k.2.2.1.trans h.2.2.1, k.2.2.2.trans h.2.2.2⟩

theorem calm.each {α : Type} (l : List α) {f : α → State → State} (h : ∀ a t, calm t (f a t)) (s : State) : calm s (each l f s) :=
  each_keeps (P := calm s) l (.refl s) fun a t ht => ht.trans (h a t)

theorem calm.upTo (n : Nat) {f : Nat → State → State} (h : ∀ i t, calm t (f i t)) (s : State) : calm s (upTo n f s) := .each _ h s

theorem calm.when (b : Bool) {f : State → State} (h : ∀ t, calm t (f t)) (s : State) : calm s (when b f s) :=
  when_keeps (P := calm s) b (.refl s) fun t ht => ht.trans (h t)

theorem set_calm (f : Fld) (v : Nat) (s : State) : calm s (set f v s) := ⟨rfl, rfl, rfl, rfl⟩

theorem emit_calm (d : Party) (t : Topic) (args : List Nat) (s : State) : calm s (emit d t args s) := ⟨rfl, rfl, rfl, rfl⟩

theorem updFw_calm (f : FwSt → FwSt) (s : State) : calm s (updFw f s) := ⟨rfl, rfl, rfl, rfl⟩

theorem flag_updFw (f : FwSt → FwSt) (s : State) (g : Fld) : flag (updFw f s) g = flag s g := rfl

theorem fwWrite_calm (f : Fld) (v : Nat) (s : State) : calm s (fwWrite f v s) := by
  unfold fwWrite
  split <;> exact ⟨rfl, rfl, rfl, rfl⟩

theorem updPart_calm (n : Nat) (f : PartRec → PartRec) (s : State) : calm s (updPart n f s) := by
  unfold updPart
  split <;> exact ⟨rfl, rfl, rfl, rfl⟩

theorem gateRelease_calm (s : State) : calm s (gateRelease s) := by
  unfold gateRelease
  split
  · exact ⟨rfl, rfl, rfl, rfl⟩
  · exact when_keeps (P := calm s) _ ⟨rfl, rfl, rfl, rfl⟩ fun _ ht => ht.trans ⟨rfl, rfl, rfl, rfl⟩

theorem gated_calm {f : State → State} (h : ∀ t, calm t (f t)) (s : State) : calm s (gated f s) := by
  unfold gated
  split
  · exact h s
  · exact (((set_calm _ _ s).trans (h _)).trans (set_calm _ _ _)).trans (gateRelease_calm _)

/-! ### PENDING answers and partition records -/

/-- A response leaves the machine outside the mailbox as it was. -/
theorem putResponse_outside (f i : Nat) (h : Header) (p : List Byte) (s : State) :
    calm s (putResponse f i h p s) ∧ (putResponse f i h p s).fw = s.fw := by
  have slot : ∀ t : State, calm t (putSlot f i 2 t) ∧ (putSlot f i 2 t).fw = t.fw := fun t => by
    unfold putSlot
    dsimp only
    split <;> exact ⟨⟨rfl, rfl, rfl, rfl⟩, rfl⟩
  have vector : ∀ t : State, calm t (raiseVector f 0 t) ∧ (raiseVector f 0 t).fw = t.fw := fun t => by
    unfold raiseVector
    split <;> exact ⟨⟨rfl, rfl, rfl, rfl⟩, rfl⟩
  have reply : ∀ (k : Header) (t : State), calm t (sendReply f k p t) ∧ (sendReply f k p t).fw = t.fw := fun k t => by
    unfold sendReply
    exact upTo_keeps (P := fun u => calm t u ∧ u.fw = t.fw) _ ⟨.refl t, rfl⟩ fun _ u hu => ⟨hu.1.trans (emit_calm ..), (emit_fw ..).trans hu.2⟩
  obtain ⟨calm1, fw1⟩ := slot (putPage f (rspOfs i) (h.bytes ++ p.take 1984) s)
  have base := calm.trans (r := s) ⟨rfl, rfl, rfl, rfl⟩ calm1
  have fw : _ = s.fw := fw1.trans (by rw [putPage])
  unfold putResponse
  dsimp only
  generalize putSlot f i 2 (putPage f (rspOfs i) (h.bytes ++ p.take 1984) s) = u at base fw ⊢
  split
  · exact when_keeps (P := fun t => calm s t ∧ t.fw = s.fw) _ ⟨base, fw⟩ fun t ht =>
      ⟨ht.1.trans (vector t).1, (vector t).2.trans ht.2⟩
  · exact ⟨base.trans (reply h _).1, (reply h _).2.trans fw⟩

/-- A PENDING answer makes its slot DONE, and changes nothing outside the mailbox but the list of PENDING commands. -/
theorem pend_outside (q : YReq) (h : Header) (objs : List Obj) (act : PendAct) (s : State) :
    calm s (pend q h objs act s) ∧ (pend q h objs act s).fw.parts = s.fw.parts ∧ slotSt (pend q h objs act s) q.fn q.slot = 2 := by
  have shown : ∀ t : State, calm t (showPend q.fn t) ∧ (showPend q.fn t).fw = t.fw := fun t => by
    unfold showPend
    split <;> exact ⟨⟨rfl, rfl, rfl, rfl⟩, rfl⟩
  unfold pend
  dsimp only
  generalize hu : updFw _ (nextSeq (↑q.fn) s).2 = u
  have noted : calm s u ∧ u.fw.parts = s.fw.parts := by
    rw [← hu]
    exact ⟨⟨rfl, rfl, rfl, rfl⟩, rfl⟩
  obtain ⟨calm1, fw1⟩ := shown u
  obtain ⟨calm2, fw2⟩ := putResponse_outside q.fn q.slot { bareResponse h 1 with seq := (nextSeq q.fn s).1 } [] (showPend q.fn u)
  exact ⟨(noted.1.trans calm1).trans calm2, (congrArg FwSt.parts (fw2.trans fw1)).trans noted.2, (putResponse_frame ..).2.2⟩

theorem partRec_of_parts {s t : State} (h : t.fw.parts = s.fw.parts) (n : Nat) : partRec t n = partRec s n :=
  congrArg (fun m => SMap.get none m n) h

theorem isCoord_pend (q : YReq) (h : Header) (objs : List Obj) (act : PendAct) (s : State) {n : Nat} {r : PartRec} (hp : partRec s n = some r) :
    isCoord (pend q h objs act s) n = (r.own == r.coord) := by
  unfold isCoord
  rw [partRec_of_parts (pend_outside ..).2.1, hp]

/-- The record of a partition after firmware has written it. -/
theorem partRec_putParts (n : Nat) (p : Option PartRec) (s : State) :
    partRec (updFw (fun k => { k with parts := SMap.put none k.parts n p }) s) n = p := SMap.get_put_same ..

theorem partRec_updPart {n : Nat} {s : State} {r : PartRec} (f : PartRec → PartRec) (hp : partRec s n = some r) :
    partRec (updPart n f s) n = some (f r) := by
  unfold updPart
  rw [hp]
  exact partRec_putParts ..

theorem fromBuffer_calm (f : Nat) (h : Header) (s : State) : calm s (fromBuffer f h s) :=
  .when (f := bumpN F.GLB_DMA_RD_BYTE_CNT h.bufLen) _ (fun _ => set_calm ..) s

theorem partRec_fromBuffer (f : Nat) (h : Header) (s : State) (n : Nat) : partRec (fromBuffer f h s) n = partRec s n :=
  partRec_of_parts (when_keeps (P := fun t => t.fw.parts = s.fw.parts) (f := bumpN F.GLB_DMA_RD_BYTE_CNT h.bufLen) _ rfl fun _ ht => ht) n

/-! ### Requests about the partition of the header -/

/-- The mailbox answers a request that would change the partition its header names, and that has no fields of its own in its payload. -/
def acceptsPart (row : CmdRow) (q : YReq) (s : State) : Prop :=
  accepts row q (hdrPart s q < 16) [hdrPart s q] [.part (hdrPart s q)] s

section
variable {row : CmdRow} {q : YReq} {s : State} {p : PartRec} (f : Nat → PartRec → Header → State → State)
  (changes : [0x0209, 0x0404, 0x0405].contains row.op = false) (hp : partRec s (hdrPart s q) = some p)
include changes hp

/-- A request that changes a partition is run on its record when its own fields are in range. -/
theorem onPartIf_of_accepts {ok : Bool} (h : accepts row q (hdrPart s q < 16 && ok) [hdrPart s q] [.part (hdrPart s q)] s) :
    onPartIf row q ok f s = f (hdrPart s q) p (reqHeader s q.fn q.slot) s := by
  unfold onPartIf
  dsimp only
  rw [if_neg (by rw [changes]; decide), run_of_accepts _ h, hp]

/-- The same for a request that has no such fields. -/
theorem onPart_runs (h : acceptsPart row q s) :
    onPart row q f s = f (hdrPart s q) p (reqHeader s q.fn q.slot) s :=
  onPartIf_of_accepts f changes hp (by rwa [Bool.and_true, ← acceptsPart])

end

/-! ### PART_CREATE (R306, R310) -/

theorem putRegion_calm (base size rd wr valid : Fld) (r : RegionIn) (s : State) : calm s (putRegion base size rd wr valid r s) :=
  ((((fwWrite_calm ..).trans (fwWrite_calm ..)).trans (fwWrite_calm ..)).trans (fwWrite_calm ..)).trans (fwWrite_calm ..)

theorem openAper_calm (f : Nat) (r : Nat × Nat) (s : State) : calm s (openAper f r s) := by
  unfold openAper
  dsimp only
  split
  · exact .refl s
  split
  · exact .refl s
  · exact (((((fwWrite_calm ..).trans (fwWrite_calm ..)).trans (fwWrite_calm ..)).trans (fwWrite_calm ..)).trans (fwWrite_calm ..)).trans
      (fwWrite_calm ..)

theorem showKv_calm (n : Nat) (s : State) : calm s (showKv n s) := by
  unfold showKv
  split
  · exact set_calm ..
  · exact .refl s

theorem createRegs_calm (n : Nat) (x : PartIn) (s : State) : calm s (createRegs n x s) := by
  unfold createRegs
  dsimp only
  refine .trans (.trans (.trans (.trans (.trans (.trans (.trans (.trans (.trans (.each _ ?ids s) (.each _ ?regions _)) (.each _ ?ports _))
    (.upTo _ ?pids _)) (.each _ ?packages _)) (set_calm ..)) (showKv_calm ..)) (.when _ (fun _ => set_calm ..) _))
    (.each _ (openAper_calm x.owner) _)) (gated_calm (.each _ ?slots) _)
  case ids =>
    intro l t
    split
    · exact (((fwWrite_calm ..).trans (fwWrite_calm ..)).trans (fwWrite_calm ..)).trans (fwWrite_calm ..)
    · exact .refl t
  case regions =>
    intro r t
    split
    · exact putRegion_calm ..
    · exact .refl t
  case ports => exact fun r t => .upTo _ (fun p u => (putRegion_calm ..).trans (fwWrite_calm ..)) t
  case pids => exact fun p t => (fwWrite_calm ..).trans (fwWrite_calm ..)
  case packages =>
    exact fun p t => ((((fwWrite_calm ..).trans (fwWrite_calm ..)).trans (fwWrite_calm ..)).trans (fwWrite_calm ..)).trans (fwWrite_calm ..)
  case slots => exact fun p t => (fwWrite_calm ..).trans (fwWrite_calm ..)

/-! ### PART_DESTROY (R310) -/

/-- The registers that the gate writes when firmware has it hold and release writes (R227). -/
def gateFields : List Fld :=
  [F.TB_STAT_GATE_HOLD, F.TB_GATE_K_K, F.TB_STAT_GATE_ARMED, F.TB_STAT_GATE_LATE, F.TB_GATE_LATE_CNT, F.TB_CFG_REJ_CNT]

theorem get_gateRelease {g : Fld} (hg : ∀ f ∈ gateFields, g.key ≠ f.key) (s : State) : get (gateRelease s) g = get s g := by
  have ne : ∀ {f : Fld}, f ∈ gateFields → ∀ v t, get (set f v t) g = get t g := fun hf v t => get_set_ne (hg _ hf) v t
  unfold gateRelease
  split
  · exact ne (by simp [gateFields]) ..
  · refine when_keeps (P := fun t => get t g = get s g) _ ((ne (by simp [gateFields]) ..).trans rfl) fun t ht => ?_
    exact (ne (by simp [gateFields]) ..).trans ((ne (f := F.TB_STAT_GATE_LATE) (by simp [gateFields]) _ t).trans ht)

theorem get_gated {g : Fld} (hg : ∀ f ∈ gateFields, g.key ≠ f.key) {f : State → State} (hf : ∀ t, get (f t) g = get t g) (s : State) :
    get (gated f s) g = get s g := by
  unfold gated
  split
  · exact hf s
  · refine (get_gateRelease hg _).trans ((get_set_ne (hg _ ?_) _ _).trans ((hf _).trans (get_set_ne (hg _ ?_) _ s))) <;> simp [gateFields]

/-- A write by firmware changes its field, or counts as denied. -/
theorem get_fwWrite_ne {f g : Fld} (h : g.key ≠ f.key) (hd : g.key ≠ F.GLB_DENIED_CNT.key) (v : Nat) (s : State) :
    get (fwWrite f v s) g = get s g := by
  unfold fwWrite
  split
  · exact get_bump_ne hd s
  · exact get_set_ne h v s

/-- A destroyed partition is not enabled: what follows that write gives slots of the ports back. -/
theorem flag_destroyRegs (n pid : Nat) (s : State) : flag (destroyRegs n pid s) (F.SRV_PART_EN n) = false := by
  have slots : ∀ p t, get (upTo 64 (fun i s => if get s (F.FAB_SLOT_OWN_PID p i) = pid then fwWrite (F.FAB_SLOT_OWN_VALID p i) 0 s else s) t)
      (F.SRV_PART_EN n) = get t (F.SRV_PART_EN n) := fun p t => by
    refine upTo_keeps (P := fun u => get u (F.SRV_PART_EN n) = get t (F.SRV_PART_EN n)) _ rfl fun i u hu => ?_
    split
    · refine (get_fwWrite_ne ?_ ?_ 0 u).trans hu <;> simp only [F.SRV_PART_EN, F.FAB_SLOT_OWN_VALID, F.GLB_DENIED_CNT] <;> omega
    · exact hu
  have gate : ∀ f ∈ gateFields, (F.SRV_PART_EN n).key ≠ f.key := by
    simp only [gateFields, List.forall_mem_cons, F.SRV_PART_EN, F.TB_STAT_GATE_HOLD, F.TB_GATE_K_K, F.TB_STAT_GATE_ARMED, F.TB_STAT_GATE_LATE,
      F.TB_GATE_LATE_CNT, F.TB_CFG_REJ_CNT]
    refine ⟨?_, ?_, ?_, ?_, ?_, ?_, by simp⟩ <;> omega
  unfold flag destroyRegs
  dsimp only
  rw [get_gated gate fun t => upTo_keeps (P := fun u => get u (F.SRV_PART_EN n) = get t (F.SRV_PART_EN n)) _ rfl fun p u hu => (slots p u).trans hu,
    get_setB_same]
  rfl

/-! ### PART_SET -/

/-- The blocks of the cores lie together (R45). -/
theorem coreOf_block {a c : Nat} (h : coreOf a = some c) : 0x1000000 ≤ a ∧ a < 0x2400000 := by
  unfold coreOf at h
  split at h
  · next ha => simpa using ha
  · cases h

/-- Below the stacks and the network plane no register is held in reset (R43). -/
theorem domainDown_low (s : State) {a : Nat} (h : a < 0x600000) : domainDown s a = false := by
  rw [Bool.eq_false_iff, ne_eq, domainDown_iff]
  rintro (⟨hlo, -⟩ | ⟨c, hc, -⟩)
  · omega
  · have := coreOf_block hc
    omega

/-- The registers of the serving engine are up when the network plane is. -/
theorem domainDown_serving {s : State} {a : Nat} (h : 0x2400000 ≤ a) (up : netHeld s = false) : domainDown s a = false := by
  rw [Bool.eq_false_iff, ne_eq, domainDown_iff]
  rintro (⟨-, held⟩ | ⟨c, hc, -⟩)
  · exact Bool.false_ne_true (up.symm.trans held)
  · have := coreOf_block hc
    omega

theorem netHeld_congr {s t : State} (hm : get t F.MBX_CTL_MINIMAL = get s F.MBX_CTL_MINIMAL) (hp : t.fw.phase = s.fw.phase) :
    netHeld t = netHeld s := by
  unfold netHeld flag
  rw [hm, hp]

theorem netHeld_updPart (n : Nat) (f : PartRec → PartRec) (s : State) : netHeld (updPart n f s) = netHeld s := by
  unfold updPart
  split <;> rfl

theorem get_updPart (n : Nat) (f : PartRec → PartRec) (s : State) (g : Fld) : get (updPart n f s) g = get s g := by
  unfold updPart
  split <;> rfl

theorem setIf_calm (v : Word) (f : Fld) (s : State) : calm s (setIf v f s) := by
  unfold setIf
  split
  · exact .refl s
  · exact fwWrite_calm ..

/-- A field of PART_SET that fits its register of the serving engine is written there, unless it is all ones. -/
theorem setIf_spec {v : Word} {f : Fld} (fits : setFits v f.width = true) (hf : 0x12000000 ≤ f.key) {s : State} (up : netHeld s = false) :
    let t := setIf v f s
    get t f = (if v = BitVec.allOnes 32 then get s f else v.toNat) ∧ (∀ g, g.key ≠ f.key → get t g = get s g) ∧ t.fw = s.fw ∧
      netHeld t = false := by
  intro t
  by_cases hv : v = BitVec.allOnes 32
  · rw [show t = s from if_pos hv, if_pos hv]
    exact ⟨rfl, fun _ _ => rfl, rfl, up⟩
  · have small : v.toNat < 2 ^ f.width := by
      rw [setFits, Bool.or_eq_true, beq_iff_eq, decide_eq_true_eq] at fits
      exact fits.resolve_left hv
    have ht : t = shadowWrite true f v.toNat s :=
      (if_neg hv).trans (if_neg (by rw [domainDown_serving (a := f.key / 8) (by omega) up]; decide))
    have others : ∀ g, g.key ≠ f.key → get t g = get s g := fun g hg => by
      rw [ht]
      exact get_set_ne hg ..
    have fw : t.fw = s.fw := by
      rw [ht]
      rfl
    refine ⟨?_, others, fw, (netHeld_congr (others _ ?_) (congrArg FwSt.phase fw)).trans up⟩
    · rw [if_neg hv, ht]
      exact (get_set_same ..).trans (Nat.mod_eq_of_lt small)
    · simp only [F.MBX_CTL_MINIMAL]
      omega

/-- What PART_SET writes beside the record of the partition. -/
def writePartSet (x : PartSet) (n : Nat) (s : State) : State :=
  s |> setIf x.admRate (F.SRV_PART_ADM_RATE n) |> setIf x.retryLim (F.SRV_PART_RETRY_LIM n)
    |> setIf x.parkTtl (F.SRV_PART_PARK_TTL n) |> setIf x.caddyRate (F.SRV_PART_CADDY_RATE n)

theorem writePartSet_calm (x : PartSet) (n : Nat) (s : State) : calm s (writePartSet x n s) :=
  (((setIf_calm ..).trans (setIf_calm ..)).trans (setIf_calm ..)).trans (setIf_calm ..)

/-- Each of the four registers keeps its value or takes the new one, and firmware's records stay. -/
theorem writePartSet_spec {x : PartSet} {n : Nat} {s : State} (up : netHeld s = false) (adm : setFits x.admRate 16 = true)
    (retry : setFits x.retryLim 4 = true) (caddy : setFits x.caddyRate 16 = true) :
    let u := writePartSet x n s
    let holds := fun (v : Word) (f : Fld) => get u f = if v = BitVec.allOnes 32 then get s f else v.toNat
    u.fw = s.fw ∧ holds x.admRate (F.SRV_PART_ADM_RATE n) ∧ holds x.parkTtl (F.SRV_PART_PARK_TTL n) ∧
      holds x.retryLim (F.SRV_PART_RETRY_LIM n) ∧ holds x.caddyRate (F.SRV_PART_CADDY_RATE n) := by
  have park : setFits x.parkTtl 32 = true := by simp [setFits, x.parkTtl.isLt]
  obtain ⟨val1, else1, fw1, up1⟩ := setIf_spec (f := F.SRV_PART_ADM_RATE n) adm (by simp only [F.SRV_PART_ADM_RATE]; omega) up
  obtain ⟨val2, else2, fw2, up2⟩ := setIf_spec (f := F.SRV_PART_RETRY_LIM n) retry (by simp only [F.SRV_PART_RETRY_LIM]; omega) up1
  obtain ⟨val3, else3, fw3, up3⟩ := setIf_spec (f := F.SRV_PART_PARK_TTL n) park (by simp only [F.SRV_PART_PARK_TTL]; omega) up2
  obtain ⟨val4, else4, fw4, -⟩ := setIf_spec (f := F.SRV_PART_CADDY_RATE n) caddy (by simp only [F.SRV_PART_CADDY_RATE]; omega) up3
  have keys : (F.SRV_PART_ADM_RATE n).key ≠ (F.SRV_PART_RETRY_LIM n).key ∧ (F.SRV_PART_ADM_RATE n).key ≠ (F.SRV_PART_PARK_TTL n).key ∧
      (F.SRV_PART_ADM_RATE n).key ≠ (F.SRV_PART_CADDY_RATE n).key ∧ (F.SRV_PART_RETRY_LIM n).key ≠ (F.SRV_PART_PARK_TTL n).key ∧
      (F.SRV_PART_RETRY_LIM n).key ≠ (F.SRV_PART_CADDY_RATE n).key ∧ (F.SRV_PART_PARK_TTL n).key ≠ (F.SRV_PART_CADDY_RATE n).key := by
    simp only [F.SRV_PART_ADM_RATE, F.SRV_PART_RETRY_LIM, F.SRV_PART_PARK_TTL, F.SRV_PART_CADDY_RATE]
    omega
  obtain ⟨ar, ap, ac, rp, rc, pc⟩ := keys
  rw [else1 _ ar.symm] at val2
  rw [else2 _ rp.symm, else1 _ ap.symm] at val3
  rw [else3 _ pc.symm, else2 _ rc.symm, else1 _ ac.symm] at val4
  exact ⟨((fw4.trans fw3).trans fw2).trans fw1, (else4 _ ac).trans ((else3 _ ap).trans ((else2 _ ar).trans val1)), (else4 _ pc).trans val3,
    (else4 _ rc).trans ((else3 _ rp).trans val2), val4⟩

/-! ### PART_CLEAR -/

/-- What PART_CLEAR does to the flags of one entry of a core's table. -/
def clearFlags (c i : Nat) (s : State) : State :=
  if domainDown s ((F.LEAVEN_LFLAG_SAT c i).key / 8) then denied s else s |> setB (F.LEAVEN_LFLAG_SAT c i) false |> setB (F.LEAVEN_LFLAG_OUTLIER_OVF c i) false
    |> setB (F.LEAVEN_LFLAG_PROOF_MISS c i) false |> setB (F.LEAVEN_LFLAG_CHK_MISS c i) false

/-- What clearing flags leaves: firmware's records, the states of the cores and whether the network plane is held, beside what is calm. -/
structure ClearFrame (s t : State) : Prop where
  calm : calm s t
  fw : t.fw = s.fw
  minimal : get t F.MBX_CTL_MINIMAL = get s F.MBX_CTL_MINIMAL
  coreState : ∀ c, coreState t c = coreState s c

theorem ClearFrame.refl (s : State) : ClearFrame s s := ⟨.refl s, rfl, rfl, fun _ => rfl⟩

theorem ClearFrame.trans {r s t : State} (h : ClearFrame r s) (k : ClearFrame s t) : ClearFrame r t :=
  ⟨h.calm.trans k.calm, k.fw.trans h.fw, k.minimal.trans h.minimal, fun c => (k.coreState c).trans (h.coreState c)⟩

theorem ClearFrame.set {f : Fld} (hm : F.MBX_CTL_MINIMAL.key ≠ f.key) (hc : ∀ c, (F.CORE_CTL_STATE_STATE c).key ≠ f.key) (v : Nat) (s : State) :
    ClearFrame s (set f v s) :=
  ⟨set_calm f v s, rfl, get_set_ne hm v s, fun c => get_set_ne (hc c) v s⟩

/-- Which domains are down depends on the states of the cores and on the network plane. -/
theorem ClearFrame.domainDown {s t : State} (h : ClearFrame s t) (a : Nat) : domainDown t a = domainDown s a := by
  have up : ∀ c, coreUp t c = coreUp s c := fun c => by simp only [coreUp, h.coreState c]
  rw [Bool.eq_iff_iff, domainDown_iff, domainDown_iff, netHeld_congr h.minimal (congrArg FwSt.phase h.fw)]
  simp only [up]

theorem clearFlags_frame (c : Nat) {i : Nat} (hi : i < 256) (s : State) : ClearFrame s (clearFlags c i s) := by
  unfold clearFlags
  split
  · refine .set ?_ (fun d => ?_) _ s <;> simp only [F.MBX_CTL_MINIMAL, F.CORE_CTL_STATE_STATE, F.GLB_DENIED_CNT] <;> omega
  · refine .trans (.trans (.trans (.set ?_ (fun d => ?_) _ _) (.set ?_ (fun d => ?_) _ _)) (.set ?_ (fun d => ?_) _ _)) (.set ?_ (fun d => ?_) _ _) <;>
      simp only [F.MBX_CTL_MINIMAL, F.CORE_CTL_STATE_STATE, F.LEAVEN_LFLAG_SAT, F.LEAVEN_LFLAG_OUTLIER_OVF, F.LEAVEN_LFLAG_PROOF_MISS,
        F.LEAVEN_LFLAG_CHK_MISS] <;> omega

theorem ClearFrame.each {α : Type} (l : List α) {f : α → State → State} (s : State) (h : ∀ a ∈ l, ∀ t, ClearFrame t (f a t)) :
    ClearFrame s (each l f s) := by
  induction l generalizing s with
  | nil => exact .refl s
  | cons a l ih => exact (h a (by simp) s).trans (ih _ fun b hb => h b (by simp [hb]))

theorem clearCore_frame (c : Nat) (s : State) : ClearFrame s (upTo 256 (clearFlags c) s) :=
  .each _ s fun _ hi t => clearFlags_frame c (List.mem_range.1 hi) t

/-- A field that reads 0 and is 0 after reset reads 0 after any field is cleared. -/
theorem get_setB_false_zero {f g : Fld} {s : State} (hr : g.reset = 0) (h : get s g = 0) : get (setB f false s) g = 0 := by
  by_cases hk : g.key = f.key
  · change SMap.get g.reset (SMap.put f.reset s.regs f.key (0 % 2 ^ f.width)) g.key = 0
    rw [hr, hk, Nat.zero_mod, SMap.put]
    split
    · exact SMap.get_del_same ..
    · exact SMap.get_ins_same ..
  · exact (get_setB_ne hk false s).trans h

theorem lflags_eq_zero_iff {s : State} {c i : Nat} : lflags s c i = 0 ↔ get s (F.LEAVEN_LFLAG_SAT c i) = 0 ∧
    get s (F.LEAVEN_LFLAG_OUTLIER_OVF c i) = 0 ∧ get s (F.LEAVEN_LFLAG_PROOF_MISS c i) = 0 ∧ get s (F.LEAVEN_LFLAG_CHK_MISS c i) = 0 := by
  unfold lflags
  omega

theorem lflags_setB_zero (f : Fld) {s : State} {c i : Nat} (h : lflags s c i = 0) : lflags (setB f false s) c i = 0 := by
  obtain ⟨sat, ovf, proof, chk⟩ := lflags_eq_zero_iff.1 h
  exact lflags_eq_zero_iff.2 ⟨get_setB_false_zero rfl sat, get_setB_false_zero rfl ovf, get_setB_false_zero rfl proof, get_setB_false_zero rfl chk⟩

/-- Flags that are clear stay so while others are cleared. -/
theorem lflags_clearFlags_zero (d j : Nat) {s : State} {c i : Nat} (h : lflags s c i = 0) : lflags (clearFlags d j s) c i = 0 := by
  unfold clearFlags
  split
  · obtain ⟨sat, ovf, proof, chk⟩ := lflags_eq_zero_iff.1 h
    refine lflags_eq_zero_iff.2 ⟨(get_bump_ne ?_ s).trans sat, (get_bump_ne ?_ s).trans ovf, (get_bump_ne ?_ s).trans proof,
      (get_bump_ne ?_ s).trans chk⟩ <;>
    simp only [F.GLB_DENIED_CNT, F.LEAVEN_LFLAG_SAT, F.LEAVEN_LFLAG_OUTLIER_OVF, F.LEAVEN_LFLAG_PROOF_MISS, F.LEAVEN_LFLAG_CHK_MISS] <;> omega
  · exact lflags_setB_zero _ (lflags_setB_zero _ (lflags_setB_zero _ (lflags_setB_zero _ h)))

theorem lflags_clearFlags_same {s : State} {c i : Nat} (up : domainDown s ((F.LEAVEN_LFLAG_SAT c i).key / 8) = false) :
    lflags (clearFlags c i s) c i = 0 := by
  unfold clearFlags
  rw [if_neg (by rw [up]; decide)]
  have cleared : ∀ f t, get (setB f false t) f = 0 := fun f t => (get_setB_same f false t).trans (Nat.zero_mod _)
  refine lflags_eq_zero_iff.2 ⟨?_, ?_, ?_, cleared ..⟩
  · exact get_setB_false_zero rfl (get_setB_false_zero rfl (get_setB_false_zero rfl (cleared ..)))
  · exact get_setB_false_zero rfl (get_setB_false_zero rfl (cleared ..))
  · exact get_setB_false_zero rfl (cleared ..)

/-- What one effect of a sequence brings about and none undoes holds after the sequence. -/
theorem each_reaches {α : Type} {I P : State → Prop} {l : List α} {f : α → State → State} {a : α} (ha : a ∈ l) {s : State} (hs : I s)
    (inv : ∀ b ∈ l, ∀ t, I t → I (f b t)) (kept : ∀ b t, P t → P (f b t)) (made : ∀ t, I t → P (f a t)) : P (each l f s) := by
  induction l generalizing s with
  | nil => cases ha
  | cons b l ih =>
    rcases List.mem_cons.1 ha with rfl | hl
    · exact each_keeps l (made s hs) kept
    · exact ih hl (inv b (by simp) s hs) fun d hd => inv d (by simp [hd])

/-- The flags of every entry whose core is up are clear after PART_CLEAR. -/
theorem lflags_clearCores {l : List Nat} {c i : Nat} (hc : c ∈ l) (hi : i < 256) {s : State}
    (up : domainDown s ((F.LEAVEN_LFLAG_SAT c i).key / 8) = false) :
    lflags (each l (fun c => upTo 256 (clearFlags c)) s) c i = 0 := by
  refine each_reaches (I := ClearFrame s) (P := fun t => lflags t c i = 0) hc (.refl s) (fun d _ t ht => ht.trans (clearCore_frame d t))
    (fun d t ht => upTo_keeps (P := fun u => lflags u c i = 0) 256 ht fun j u hu => lflags_clearFlags_zero d j hu) fun t ht => ?_
  exact each_reaches (I := ClearFrame s) (P := fun t => lflags t c i = 0) (List.mem_range.2 hi) ht
    (fun j hj u hu => hu.trans (clearFlags_frame c (List.mem_range.1 hj) u)) (fun j u hu => lflags_clearFlags_zero c j hu)
    fun u hu => lflags_clearFlags_same ((hu.domainDown _).trans up)

/-! ### HALF_CLOCK (R232) -/

theorem get_fwWrite_low {f : Fld} (hf : f.key / 8 < 0x600000) (v : Nat) (s : State) : get (fwWrite f v s) f = v % 2 ^ f.width := by
  unfold fwWrite
  rw [if_neg (by rw [domainDown_low s hf]; decide)]
  exact get_set_same ..

/-- A raised half is not slow, and is not noted as lowered by throttle. -/
theorem raiseHalf_spec (east : Bool) (s : State) :
    get (raiseHalf east s) (if east then F.TB_HALF_CLK_EAST_SLOW else F.TB_HALF_CLK_WEST_SLOW) = 0 ∧
      (if east then (raiseHalf east s).fw.lowE else (raiseHalf east s).fw.lowW) = false := by
  cases east with
  | false => exact ⟨get_fwWrite_low (f := F.TB_HALF_CLK_WEST_SLOW) (by decide) 0 _, rfl⟩
  | true => exact ⟨get_fwWrite_low (f := F.TB_HALF_CLK_EAST_SLOW) (by decide) 0 _, rfl⟩

/-! ### The commands -/

section
variable {q : YReq} {s : State} {r : PartRec}

theorem exec_partCreate_of_accepts {x : PartIn} (h : accepts { op := 0x0201 } q (hdrPart s q < 16) [] [.part (hdrPart s q)] s)
    (ok : createFault s (hdrPart s q) x = none) :
    let n := hdrPart s q
    let mem := x.members.map fun a => a.toNat
    let pr := PartRec.fresh x.pid.toNat x.owner mem (mem.findIdx fun a => a == ownAddr s) (get s (F.TB_OVR_CNT n))
    let u := fromBuffer q.fn (reqHeader s q.fn q.slot) (updFw (fun k => { k with parts := SMap.put none k.parts n (some pr) }) (createRegs n x s))
    exec (.partCreate q x) s =
        .next (okActive q (reqHeader s q.fn q.slot) [.part n] (allCores.map fun c => F.CORE_CTL_ID_PVALID c) u) ∧
      partRec u n = some pr ∧ u.mem = s.mem ∧ u.cores = s.cores := by
  intro n mem pr u
  obtain ⟨hmem, hcores, -, -⟩ : calm s u := ((createRegs_calm n x s).trans (updFw_calm ..)).trans (fromBuffer_calm ..)
  refine ⟨?_, (partRec_fromBuffer ..).trans (partRec_putParts ..), hmem, hcores⟩
  rw [exec_partCreate, execPartCreate]
  dsimp only
  rw [run_of_accepts _ h, ok]

section
variable (hp : partRec s (hdrPart s q) = some r)
include hp

theorem exec_partStart_of_accepts (h : acceptsPart { op := 0x0202 } q s)
    (hs : r.startK = none) (hk : r.resetK = none) (ha : r.resetAt = none) :
    exec (.partStart q) s = .next (match startFault s (hdrPart s q) with
      | some st => respond q (reqHeader s q.fn q.slot) st [] s
      | none => sayReady (hdrPart s q) (pend q (reqHeader s q.fn q.slot) [.part (hdrPart s q)] (.running (hdrPart s q)) s)) :=
  (exec_partStart ..).trans (congrArg Host.Outcome.next ((onPart_runs _ (by decide) hp h).trans (if_neg (by simp [hs, hk, ha]))))

theorem exec_partStop_of_accepts (h : acceptsPart { op := 0x0203, v := true } q s) :
    exec (.partStop q) s = .next (if partRuns s (hdrPart s q) then
        askStop (hdrPart s q) (pend q (reqHeader s q.fn q.slot) [.part (hdrPart s q)] (.idle (hdrPart s q)) s)
      else respond q (reqHeader s q.fn q.slot) 0 [] s) := by
  rw [exec_partStop, execPartStop, onPart_runs _ (by decide) hp h]
  cases partRuns s (hdrPart s q) <;> rfl

theorem exec_partReset_of_accepts (h : acceptsPart { op := 0x0204, v := true } q s)
    (hk : r.resetK = none) (ha : r.resetAt = none) :
    let s1 := pend q (reqHeader s q.fn q.slot) [.part (hdrPart s q)] (.resetDone (hdrPart s q)) s
    exec (.partReset q) s =
      .next (if r.own = r.coord then pickReset (hdrPart s q) s1 else toCoord (hdrPart s q) mAskReset [] s1) := by
  intro s1
  rw [exec_partReset, execPartReset, onPart_runs _ (by decide) hp h]
  simp only [hk, ha, Option.isSome_none, Bool.or_self, Bool.false_eq_true, if_false, isCoord_pend _ _ _ _ s hp, beq_iff_eq]
  rfl

theorem exec_partDestroy_of_accepts (h : acceptsPart { op := 0x0205 } q s)
    (idle : partRuns s (hdrPart s q) = false) (hk : r.resetK = none) (ha : r.resetAt = none) :
    let n := hdrPart s q
    let u := updFw (fun k => { k with parts := SMap.put none k.parts n none }) (destroyRegs n r.pid s)
    exec (.partDestroy q) s = .next (okActive q (reqHeader s q.fn q.slot) [.part n]
        ((List.range 12).flatMap fun p => (List.range 64).map fun i => F.FAB_SLOT_OWN_VALID p i) u) ∧
      partRec u n = none ∧ flag u (F.SRV_PART_EN n) = false := by
  intro n u
  refine ⟨?_, partRec_putParts .., (flag_updFw ..).trans (flag_destroyRegs ..)⟩
  rw [exec_partDestroy, execPartDestroy, onPart_runs _ (by decide) hp h]
  exact congrArg Host.Outcome.next (if_neg (by simp [idle, hk, ha]))

theorem exec_partSet_of_accepts {x : PartSet}
    (h : accepts { op := 0x0206, v := x.fbLayers == BitVec.allOnes 32 && x.ovrLim == BitVec.allOnes 32 && x.retryLim == BitVec.allOnes 32 &&
          x.caddyRate == BitVec.allOnes 32 } q
        (hdrPart s q < 16 && (setFits x.admRate 16 && setFits x.retryLim 4 && setFits x.caddyRate 16)) [hdrPart s q] [.part (hdrPart s q)] s)
    (up : netHeld s = false) :
    let n := hdrPart s q
    let keep := fun (v : Word) (old : Nat) => if v = BitVec.allOnes 32 then old else v.toNat
    let now_ := fun (u : State) (v : Word) (f : Fld) => get u f = keep v (get s f)
    ∃ u, exec (.partSet q x) s = .next (okActive q (reqHeader s q.fn q.slot) [.part n]
        [F.SRV_PART_ADM_RATE n, F.SRV_PART_RETRY_LIM n, F.SRV_PART_PARK_TTL n, F.SRV_PART_CADDY_RATE n] u) ∧ calm s u ∧
      partRec u n = some { r with fb := keep x.fbLayers r.fb, ovr := keep x.ovrLim r.ovr } ∧
      now_ u x.admRate (F.SRV_PART_ADM_RATE n) ∧ now_ u x.parkTtl (F.SRV_PART_PARK_TTL n) ∧ now_ u x.retryLim (F.SRV_PART_RETRY_LIM n) ∧
      now_ u x.caddyRate (F.SRV_PART_CADDY_RATE n) := by
  intro n keep now_
  have range := accepts_range h
  simp only [Bool.and_eq_true] at range
  obtain ⟨-, ⟨adm, retry⟩, caddy⟩ := range
  let s1 := updPart n (fun r => { r with fb := keep x.fbLayers r.fb, ovr := keep x.ovrLim r.ovr }) s
  obtain ⟨fw, hadm, hpark, hretry, hcaddy⟩ := writePartSet_spec (n := n) (s := s1) ((netHeld_updPart ..).trans up) adm retry caddy
  rw [get_updPart] at hadm hpark hretry hcaddy
  refine ⟨writePartSet x n s1, ?_, (updPart_calm ..).trans (writePartSet_calm ..),
    (partRec_of_parts (congrArg FwSt.parts fw) n).trans (partRec_updPart _ hp), hadm, hpark, hretry, hcaddy⟩
  rw [exec_partSet, execPartSet]
  dsimp only
  rw [onPartIf_of_accepts _ rfl hp h]
  rfl

theorem exec_partClear_of_accepts (h : acceptsPart { op := 0x0207, v := true } q s) :
    ∃ u, exec (.partClear q) s = .next (respond q (reqHeader s q.fn q.slot) 0 [] u) ∧ calm s u ∧
      partRec u (hdrPart s q) = some { r with fbTold := false, ovrTold := false } ∧
      ∀ c, c ∈ partCores s (hdrPart s q) → ∀ i, i < 256 → domainDown s ((F.LEAVEN_LFLAG_SAT c i).key / 8) = false → lflags u c i = 0 := by
  let s1 := each (partCores s (hdrPart s q)) (fun c => upTo 256 (clearFlags c)) s
  have frame : ClearFrame s s1 := .each _ s fun c _ t => clearCore_frame c t
  have told := partRec_updPart (fun r => { r with fbTold := false, ovrTold := false })
    ((partRec_of_parts (congrArg FwSt.parts frame.fw) _).trans hp)
  refine ⟨_, ?_, frame.calm.trans (updPart_calm ..), told, fun c hc i hi up => ?_⟩
  · rw [exec_partClear, execPartClear, onPart_runs _ (by decide) hp h]
    rfl
  · have flags : ∀ t : State, lflags (updPart (hdrPart s q) (fun r => { r with fbTold := false, ovrTold := false }) t) c i = lflags t c i :=
      fun t => by simp only [lflags, get_updPart]
    exact (flags s1).trans (lflags_clearCores hc hi up)

theorem exec_schedLoad_of_accepts (x : SchedImg) (h : acceptsPart { op := 0x0401 } q s) :
    let n := hdrPart s q
    let s1 := fromBuffer q.fn (reqHeader s q.fn q.slot) s
    exec (.schedLoad q x) s = .next (match imgFault s1 n x with
      | some st => respond q (reqHeader s q.fn q.slot) st [] s1
      | none => if partRuns s1 n then respond q (reqHeader s q.fn q.slot) 0x34 [] s1
        else okActive q (reqHeader s q.fn q.slot) [.part n] (schedRcps s1 (readSched x.bytes)) (loadSched n (readSched x.bytes) s1)) :=
  (exec_schedLoad ..).trans (congrArg Host.Outcome.next (onPart_runs _ (by decide) hp h))

theorem exec_schedSwitch_of_accepts (h : acceptsPart { op := 0x0402 } q s)
    (there : (standbySched s (hdrPart s q)).isSome = true) (free : r.switchK = none) :
    exec (.schedSwitch q) s = .next (commandSwitch q (hdrPart s q) (reqHeader s q.fn q.slot) s) := by
  rw [exec_schedSwitch, execSchedSwitch, onPart_runs _ (by decide) hp h]
  simp only [Option.isNone_eq_false_iff.2 there, free, Option.isSome_none, Bool.false_eq_true, if_false]

theorem exec_partNarrow_of_accepts {x : Sched} (h : acceptsPart { op := 0x0208, v := true } q s)
    (cool : ∀ e, throttled s e = true → inHalf s (hdrPart s q) e = false) (free : r.switchK = none)
    (there : standbySched s (hdrPart s q) = some x) (narrow : x.kind = 0) :
    exec (.partNarrow q) s = .next (commandSwitch q (hdrPart s q) (reqHeader s q.fn q.slot) s) := by
  have quiet : ([false, true].any fun e => throttled s e && inHalf s (hdrPart s q) e) = false := by
    simp only [List.any_eq_false, Bool.and_eq_true, not_and, Bool.not_eq_true]
    exact fun e _ => cool e
  rw [exec_partNarrow, execPartNarrow, onPart_runs _ (by decide) hp h]
  simp only [quiet, free, there, narrow, Option.isSome_none, Bool.or_self, Bool.false_eq_true, if_false, beq_self_eq_true, Bool.not_true]

theorem exec_recipeSet_of_accepts {l : List (Fin 16 × RcpIn)} :
    let at_ := fun (p : Fin 16 × RcpIn) => (mapPhys s p.1).filter fun c => corePart s c == some (hdrPart s q)
    accepts { op := 0x0403, v := true } q (hdrPart s q < 16 && (decide (l.length ≤ 96) && l.all fun p => (at_ p).isSome)) [hdrPart s q]
      [.part (hdrPart s q)] s →
    (∀ p c, p ∈ l → at_ p = some c → rcpInFits s c p.2 = true) →
    exec (.recipeSet q l) s = .next (okActive q (reqHeader s q.fn q.slot) [.part (hdrPart s q)]
      (l.flatMap fun p => match at_ p with | some c => rcpFields c p.2.ix.toNat | none => [])
      (each l (fun p u => match at_ p with | some c => writeRcp c p.2 u | none => u) s)) := by
  intro at_ h fits
  have range := accepts_range h
  simp only [Bool.and_eq_true, List.all_eq_true] at range
  obtain ⟨-, -, placed⟩ := range
  have fine : ¬ (l.any fun p => match at_ p with | some c => !rcpInFits s c p.2 | none => true) = true := by
    rw [List.any_eq_true]
    rintro ⟨p, hl, hbad⟩
    obtain ⟨c, hc⟩ := Option.isSome_iff_exists.1 (placed p hl)
    simp [hc, fits p c hl hc] at hbad
  rw [exec_recipeSet, execRecipeSet]
  dsimp only
  rw [onPartIf_of_accepts _ rfl hp h]
  exact congrArg Host.Outcome.next (if_neg fine)

end
end

/-! ### Clocks, fences and re-steeps -/

section
variable {q : YReq} {s : State}

theorem exec_halfClock_raises {east : Bool} (there : Bool) (h : accepts { op := 0x0D05 } q true [] [] s) :
    exec (.halfClock q east false there) s = .next (if throttled s east then respond q (reqHeader s q.fn q.slot) 2 [] s
      else raiseHalf east (pend q (reqHeader s q.fn q.slot) []
        (.shadows [(if east then F.TB_HALF_CLK_EAST_SLOW else F.TB_HALF_CLK_WEST_SLOW).key]) s)) := by
  rw [exec_halfClock, execHalfClock]
  dsimp only
  rw [if_neg Bool.false_ne_true, run_of_accepts _ h]
  rfl

/-- The partitions with a core in a half that have to switch before it is slow (R232). -/
def lowNeed (s : State) (east : Bool) : List Nat := (halfParts s east).filter fun n => !runsSlow (activeSched s n) east

/-- The base tick for which a HALF_CLOCK has them switch. -/
def lowAtK (s : State) (east : Bool) : Nat := roundUp (curK s + ((lowNeed s east).map (winLen s)).foldl max 1) 128

/-- The command waits for the half, and each of them has its switch planned, here and at its other members. -/
def lowPlanned (q : YReq) (east : Bool) (s : State) : State :=
  each (lowNeed s east) (fun m u => switchHere m (lowAtK s east) (tellMembers m mSwitch [lowAtK s east, 0, 0] u))
    (pend q (reqHeader s q.fn q.slot) ((lowNeed s east).map Obj.part) (.slow east) s)

theorem exec_halfClock_lowers {east there : Bool} (h : accepts { op := 0x0D05 } q true [] ((lowNeed s east).map Obj.part) s) :
    let u := lowPlanned q east s
    exec (.halfClock q east true there) s =
      .next (match (lowNeed s east).find? fun m => !runsSlow (standbySched s m) east || !there with
        | some m => respond q (reqHeader s q.fn q.slot) 0x30 [] (notify 3 (some m) (fieldsOf [(1, m), (8, 0), (4, 0)]) s)
        | none =>
          if (lowNeed s east).isEmpty then gated (fwWrite (if east then F.TB_HALF_CLK_EAST_SLOW else F.TB_HALF_CLK_WEST_SLOW) 1) u
          else planGate (lowerAt (lowTick u [east] (lowAtK s east)) [east] u)) :=
  (exec_halfClock ..).trans (congrArg Host.Outcome.next (run_of_accepts _ h))

theorem exec_coreFence_of_accepts {c : CoreIx} (h : accepts { op := 0x0903 } q (coreGood s c) [] [.core c] s) :
    exec (.coreFence q c) s = .next (match logOf s c, corePart s c with
      | some _, some m => askPause m (pend q (reqHeader s q.fn q.slot) [.core c, .part m] (.fenced c) s)
      | _, _ => respond q (reqHeader s q.fn q.slot) 0 [] (fenceCmd c s)) :=
  (exec_coreFence ..).trans (congrArg Host.Outcome.next (run_of_accepts _ h))

theorem exec_resteep_of_accepts {c : CoreIx} {a : ArrIx}
    (h : accepts { op := 0x0904 } q (get s (F.ARR_CTL_SLOT c a) ≠ 0xFFF && coreUp s c) [] [.core c] s) :
    ∃ t, exec (.resteep q c a) s = .next t ∧ asked t c a = true ∧ slotSt t q.fn q.slot = 2 ∧ calm s t := by
  obtain ⟨kept, -, done⟩ := pend_outside q (reqHeader s q.fn q.slot) [.core c] (.resteep c a) s
  refine ⟨_, (exec_resteep ..).trans (congrArg Host.Outcome.next (run_of_accepts _ h)), ?_, done, kept.trans (updFw_calm ..)⟩
  simp [asked]

end

/-- Settles O53: an accepted request is run on the record of its partition, and the branch that its conditions select is the stated effect;
what the statement says of the state after it comes from the frames of the writes. -/
theorem partitionCommandsAct : Obligations.PartitionCommandsAct := by
  intro q s r h n may all keep now_
  refine ⟨fun x hx ok => ⟨_, rfl, exec_partCreate_of_accepts hx ok⟩, fun hp =>
    ⟨fun hx hs hk ha => ⟨fun ok => ?_, fun st bad => ?_⟩, fun hx idle => ?_, fun hx runs => ?_, fun hx hk ha here => ?_,
      fun hx hk ha away => ?_, fun hx idle hk ha => ⟨_, rfl, exec_partDestroy_of_accepts hp hx idle hk ha⟩,
      fun x hx up => exec_partSet_of_accepts hp hx up, fun hx => exec_partClear_of_accepts hp hx,
      fun x hx => ⟨fun st bad => ?_, fun ok idle => ?_⟩, fun hx there free => exec_schedSwitch_of_accepts hp hx there free,
      fun x hx cool free there narrow => exec_partNarrow_of_accepts hp hx cool free there narrow,
      fun l hx fits => exec_recipeSet_of_accepts hp hx fits⟩,
    fun east there => ⟨fun hx hot => ?_, fun hx cool => ?_, fun hx => ⟨fun empty => ?_, fun m hm => ?_, fun needed ok slow => ?_⟩⟩,
    fun c hx => ⟨fun lone => ?_, fun l m hl hm => ?_⟩, fun c a hx => exec_resteep_of_accepts hx⟩
  · -- PART_START (R309)
    rw [exec_partStart_of_accepts hp hx hs hk ha, ok]
  · rw [exec_partStart_of_accepts hp hx hs hk ha, bad]
  · -- PART_STOP (R307)
    rw [exec_partStop_of_accepts hp hx, if_neg (by rw [idle]; decide)]
  · rw [exec_partStop_of_accepts hp hx, if_pos runs]
  · -- PART_RESET (R311)
    exact (exec_partReset_of_accepts hp hx hk ha).trans (congrArg _ (if_pos here))
  · exact (exec_partReset_of_accepts hp hx hk ha).trans (congrArg _ (if_neg away))
  · -- SCHED_LOAD (R207, R208)
    refine (exec_schedLoad_of_accepts hp x hx).trans ?_
    rw [bad]
  · refine (exec_schedLoad_of_accepts hp x hx).trans ?_
    rw [ok, if_neg (by rw [idle]; decide)]
  · -- HALF_CLOCK (R232)
    rw [exec_halfClock_raises there hx, if_pos hot]
  · obtain ⟨notSlow, notLow⟩ := raiseHalf_spec east (pend q h [] (.shadows [_]) s)
    exact ⟨_, (exec_halfClock_raises there hx).trans (congrArg _ (if_neg (by rw [cool]; decide))), rfl, notSlow, notLow⟩
  · refine (exec_halfClock_lowers hx).trans ?_
    rw [lowPlanned, show lowNeed s east = [] from empty]
    rfl
  · refine (exec_halfClock_lowers hx).trans ?_
    rw [show (lowNeed s east).find? (fun m => !runsSlow (standbySched s m) east || !there) = _ from hm]
  · have ready : (lowNeed s east).find? (fun m => !runsSlow (standbySched s m) east || !there) = none := by
      rw [List.find?_eq_none]
      intro m hm
      rw [slow m hm, ok]
      decide
    refine (exec_halfClock_lowers hx).trans ?_
    rw [ready]
    exact congrArg Host.Outcome.next (if_neg (by rwa [List.isEmpty_iff]))
  · -- CORE_FENCE (R400)
    rw [exec_coreFence_of_accepts hx]
    rcases lone with hl | hm
    · rw [hl]
    · rw [hm]
      cases logOf s c <;> rfl
  · rw [exec_coreFence_of_accepts hx, hl, hm]

end Sys2Proof.Machine

namespace Sys2Proof.Machine

/-! ### Calibration commands (R126 to R128) -/

/-- A core whose compute domain is up takes the access (R43). -/
theorem ifUp_of_up {c : Nat} {s : State} (up : coreUp s c = true) (f : State → State) : ifUp c f s = f s := if_pos up

/-- An accepted command is in progress, CMD_BUSY shows it, and nothing else of the core's registers moves. -/
theorem calAccept_spec {c : Nat} {fs : List Fld} (hf : F.CAL_STATUS_CMD_BUSY c ∈ fs) (k : CalCmd) (s : State) :
    (core (calAccept c k s) c).calCmd = some k ∧ get (calAccept c k s) (F.CAL_STATUS_CMD_BUSY c) = 1 ∧ coreFrame c fs s (calAccept c k s) := by
  refine ⟨?_, get_setB_same .., (coreFrame.updCore ..).trans (.set hf ..)⟩
  rw [calAccept, core_setB, core_updCore_same]

/-- FULL on a core that does not run, with no command in progress: only TARGET = 1 looks at the temperature (R127). -/
theorem calFull_of_free {c set_ : Nat} {target : Bool} {s : State} (still : coreRuns s c = false) (free : (core s c).calCmd = none) :
    calFull c set_ target s = if target && tempFar s c set_ then calResult c 0x31 s
      else calAccept c { op := 1, set := set_, target := target, arr := none } s := by
  rw [calFull, still, free]
  rfl

/-- ARRAY on an array that holds no slot and is neither FUSED nor STEEPING (R126, R128). -/
theorem calArray_of_free {c set_ n : Nat} {target : Bool} {s : State} (hn : n < 2624) (free : (core s c).calCmd = none)
    (unused : actv s (F.ARR_CTL_SLOT c n) = 0xFFF) (good : arrState s c n ≠ 0) (rested : arrState s c n ≠ 2) :
    calArray c set_ n target s = if target && tempFar s c set_ then calResult c 0x31 s
      else calAccept c { op := 2, set := set_, target := target, arr := some n } s := by
  have allowed : ¬(decide (2624 ≤ n) || decide (actv s (F.ARR_CTL_SLOT c n) ≠ 0xFFF) || decide (arrState s c n = 0) ||
      decide (arrState s c n = 2)) = true := by
    simp [hn, unused, good, rested]
  rw [calArray, free, if_neg (by decide), if_neg allowed]

/-- Settles O18: whether a command is in progress decides between BUSY and the command's own conditions, and an accepted command shows in
CMD_BUSY alone. -/
theorem calibrationCommandsAnswer : Obligations.CalibrationCommandsAnswer := by
  intro c set_ n m all target l s fs near up
  refine ⟨fun free => ⟨fun still close => ?_, fun still far => ?_, fun unused good rested close => ?_, ?_, fun hl => ?_, fun hl => ?_⟩,
    fun busy => ⟨fun still => ?_, ?_, ?_, ?_, ?_⟩⟩
  · refine ⟨_, ?_, calAccept_spec (by simp [fs]) _ s⟩
    rw [exec_calFull, execCalFull, ifUp_of_up up, calFull_of_free still free, if_neg (ne_true_of_eq_false close)]
  · rw [exec_calFull, execCalFull, ifUp_of_up up, calFull_of_free still free, if_pos (eq_true_of_ne_false far)]
    rfl
  · refine ⟨_, ?_, calAccept_spec (by simp [fs]) _ s⟩
    have hn : (BitVec.ofNat 12 n.val).toNat = n.val := by rw [BitVec.toNat_ofNat]; omega
    rw [exec_calArray, execCalArray, ifUp_of_up up, hn, calArray_of_free n.isLt free unused good rested, if_neg (ne_true_of_eq_false close)]
  · rw [exec_interpNow, execInterpNow, ifUp_of_up up, free]
    rfl
  · rw [exec_clearCorr, execClearCorr, ifUp_of_up up, free, hl]
    rfl
  · rw [exec_clearStats, execClearStats, ifUp_of_up up, free, hl]
    rfl
  · rw [exec_calFull, execCalFull, ifUp_of_up up, calFull, still, busy]
    rfl
  · rw [exec_calArray, execCalArray, ifUp_of_up up, calArray, busy]
    rfl
  · rw [exec_interpNow, execInterpNow, ifUp_of_up up, busy]
    rfl
  · rw [exec_clearCorr, execClearCorr, ifUp_of_up up, busy]
    rfl
  · rw [exec_clearStats, execClearStats, ifUp_of_up up, busy]
    rfl

end Sys2Proof.Machine

namespace Sys2Proof.Machine

/-! ### Writes of several fields -/

/-- Firmware writes some fields one after the other. -/
def writeAll (l : List (Fld × Nat)) (s : State) : State := each l (fun p => fwWrite p.1 p.2) s

/-- Their shadows, when no field lies in a domain that is down. -/
def shadowAll (l : List (Fld × Nat)) (s : State) : State := each l (fun p => shadowWrite true p.1 p.2) s

/-- Shadows of different fields each take their value, and nothing else moves but the list of shadows that wait. -/
theorem shadowAll_spec {l : List (Fld × Nat)} (apart : l.Pairwise fun p r => p.1.key ≠ r.1.key) (s : State) :
    calm s (shadowAll l s) ∧ (∀ p ∈ l, get (shadowAll l s) p.1 = p.2 % 2 ^ p.1.width) ∧ sameRegsBut (l.map Prod.fst) s (shadowAll l s) := by
  induction l generalizing s with
  | nil => exact ⟨.refl s, by simp, .refl _ s⟩
  | cons a l ih =>
    obtain ⟨first, rest⟩ := List.pairwise_cons.1 apart
    obtain ⟨kept, vals, regs⟩ := ih rest (shadowWrite true a.1 a.2 s)
    refine ⟨calm.trans ⟨rfl, rfl, rfl, rfl⟩ kept, fun p hp => ?_, fun g hg => ?_⟩
    · rcases List.mem_cons.1 hp with rfl | hl
      · have others : ∀ f ∈ l.map Prod.fst, p.1.key ≠ f.key := by simpa using fun f v h => first (f, v) h
        exact (regs p.1 others).1.trans (get_set_same ..)
      · exact vals p hl
    · obtain ⟨cur, act⟩ := regs g fun f hf => hg f (List.mem_cons_of_mem _ hf)
      exact ⟨cur.trans (get_set_ne (hg a.1 (by simp)) ..), act⟩

/-- The registers of the serving engine take firmware's writes while the network plane is up. -/
theorem writeAll_serving {l : List (Fld × Nat)} (far : ∀ p ∈ l, 0x12000000 ≤ p.1.key) {s : State} (up : netHeld s = false) :
    writeAll l s = shadowAll l s := by
  induction l generalizing s with
  | nil => rfl
  | cons a l ih =>
    have ha : 0x12000000 ≤ a.1.key := far a (by simp)
    have first : fwWrite a.1 a.2 s = shadowWrite true a.1 a.2 s :=
      if_neg (by rw [domainDown_serving (a := a.1.key / 8) (by omega) up]; decide)
    have still : netHeld (shadowWrite true a.1 a.2 s) = false :=
      (netHeld_congr (get_set_ne (by simp only [F.MBX_CTL_MINIMAL]; omega) ..) rfl).trans up
    calc writeAll (a :: l) s = writeAll l (shadowWrite true a.1 a.2 s) := congrArg (writeAll l) first
      _ = shadowAll (a :: l) s := ih (fun p hp => far p (List.mem_cons_of_mem _ hp)) still

/-! ### Rings -/

section
variable {q : YReq} {s : State}

theorem exec_rqCreate_of_accepts {r : Fin 64} {base wb : Word64} {entries : Word}
    (h : accepts { op := 0x0601, v := true } q (hdrPart s q < 16 && ringShape base entries 64 65536) [hdrPart s q] [.ring false r] s)
    (free : SMap.get none s.srv.rq r.val = none) (head : isHead s (hdrPart s q) = true) :
    let x : ReqRing := { fn := q.fn, part := hdrPart s q, base := base.toNat, entries := entries.toNat, wb := wb.toNat, tail := 0, cons := 0 }
    exec (.rqCreate q r base entries wb) s =
      .next (respond q (reqHeader s q.fn q.slot) 0 [] { s with srv := { s.srv with rq := SMap.put none s.srv.rq r.val (some x) } }) := by
  intro x
  rw [exec_rqCreate, execRqCreate]
  dsimp only
  rw [run_of_accepts _ h, free, head]
  rfl

theorem exec_oqCreate_of_accepts {r : Fin 64} {rem : Option (BitVec 16)} {base wb : Word64} {entries : Word} {vec : Byte} {us cnt : BitVec 16}
    (h : accepts { op := 0x0602, v := rem.isNone } q
      (hdrPart s q < 16 && ringShape base entries 256 1048576 && decide (vec.toNat < if isVf q.fn then 16 else 64)) [hdrPart s q] [.ring true r] s)
    (free : SMap.get none s.srv.oq r.val = none) (head : isHead s (hdrPart s q) = true) :
    let o : OutRing := { fn := q.fn, part := hdrPart s q, remote := rem.map fun a => a.toNat, base := base.toNat, entries := entries.toNat
                         wb := wb.toNat, vector := vec.toNat, modUs := us.toNat, modCnt := cnt.toNat, prod := 0, cons := 0, unsig := 0
                         since := none, asked := false, batch := false, recs := [] }
    exec (.oqCreate q r rem base entries wb vec us cnt) s = .next (respond q (reqHeader s q.fn q.slot) 0 []
      (updPage q.fn (fun k => { k with oqHead := SMap.put 0 k.oqHead r.val 0 })
        { s with srv := { s.srv with oq := SMap.put none s.srv.oq r.val (some o) } })) := by
  intro o
  rw [exec_oqCreate, execOqCreate]
  dsimp only
  rw [run_of_accepts _ h, free, head]
  rfl

/-- The state without a ring. -/
def dropRing (out : Bool) (r : Nat) (s : State) : State :=
  { s with srv := { s.srv with
      rq := if out then s.srv.rq else SMap.put none s.srv.rq r none
      oq := if out then SMap.put none s.srv.oq r none else s.srv.oq } }

/-- A ring that is dropped has no owner, and every other ring keeps its own. -/
theorem ringOwner_dropRing (out : Bool) (r : Nat) (s : State) : ringOwner (dropRing out r s) out r = none ∧
    ringOwner (dropRing out r s) (!out) r = ringOwner s (!out) r ∧ ∀ i, i ≠ r → ringOwner (dropRing out r s) out i = ringOwner s out i := by
  cases out with
  | false => exact ⟨by simp [ringOwner, dropRing], rfl, fun i hi => by simp [ringOwner, dropRing, SMap.get_put_ne _ _ _ hi]⟩
  | true => exact ⟨by simp [ringOwner, dropRing], rfl, fun i hi => by simp [ringOwner, dropRing, SMap.get_put_ne _ _ _ hi]⟩

theorem exec_ringDestroy_of_accepts {out : Bool} {r : Fin 64} {p : Nat × Nat} (own : ringOwner s out r = some p)
    (h : accepts { op := 0x0603, v := some p.1 == some q.fn.val } q true [p.2] [.ring out r] s) (idle : out = true → ringNamed s r = false) :
    exec (.ringDestroy q out r) s = .next (respond q (reqHeader s q.fn q.slot) 0 [] (dropRing out r s)) := by
  have unnamed : (out && ringNamed s r) = false := Bool.and_eq_false_imp.2 idle
  rw [exec_ringDestroy, execRingDestroy]
  dsimp only
  rw [own]
  dsimp only [Option.map_some, Option.isSome_some]
  rw [run_of_accepts _ h, unnamed]
  rfl

end

/-! ### Accounts, classes and stop sets -/

/-- The fields of an account with the values a command gives them (R325). -/
def acctWrites (a rate burst ends_ valid : Nat) : List (Fld × Nat) :=
  [(F.SRV_ACCT_RATE a, rate), (F.SRV_ACCT_BURST a, burst), (F.SRV_ACCT_END a, ends_), (F.SRV_ACCT_VALID a, valid)]

theorem acctWrites_apart (a rate burst ends_ valid : Nat) : (acctWrites a rate burst ends_ valid).Pairwise fun p r => p.1.key ≠ r.1.key := by
  simp only [acctWrites, List.pairwise_cons, List.forall_mem_cons, F.SRV_ACCT_RATE, F.SRV_ACCT_BURST, F.SRV_ACCT_END, F.SRV_ACCT_VALID]
  refine ⟨⟨?_, ?_, ?_, by simp⟩, ⟨?_, ?_, by simp⟩, ⟨?_, by simp⟩, by simp⟩ <;> omega

theorem acctWrites_serving (a rate burst ends_ valid : Nat) : ∀ p ∈ acctWrites a rate burst ends_ valid, 0x12000000 ≤ p.1.key := by
  simp only [acctWrites, List.forall_mem_cons, F.SRV_ACCT_RATE, F.SRV_ACCT_BURST, F.SRV_ACCT_END, F.SRV_ACCT_VALID]
  refine ⟨?_, ?_, ?_, ?_, by simp⟩ <;> omega

/-- The fields of a class with the values a command gives them (R326). -/
def classWrites (k ttft tbt : Nat) : List (Fld × Nat) := [(F.SRV_CLASS_TTFT_US k, ttft), (F.SRV_CLASS_TBT_US k, tbt)]

theorem classWrites_apart (k ttft tbt : Nat) : (classWrites k ttft tbt).Pairwise fun p r => p.1.key ≠ r.1.key := by
  simp only [classWrites, List.pairwise_cons, List.forall_mem_cons, F.SRV_CLASS_TTFT_US, F.SRV_CLASS_TBT_US]
  refine ⟨⟨?_, by simp⟩, by simp⟩
  omega

theorem classWrites_serving (k ttft tbt : Nat) : ∀ p ∈ classWrites k ttft tbt, 0x12000000 ≤ p.1.key := by
  simp only [classWrites, List.forall_mem_cons, F.SRV_CLASS_TTFT_US, F.SRV_CLASS_TBT_US]
  refine ⟨?_, ?_, by simp⟩ <;> omega

/-- The tokens of a stop set with the values a command gives them (R328). -/
def stopWrites (k : Nat) (tokens : List Word) : List (Fld × Nat) := tokens.zipIdx.map fun p => (F.SRV_STOPSET_TOKEN k p.2, p.1.toNat)

theorem stopWrites_apart (k : Nat) (tokens : List Word) : (stopWrites k tokens).Pairwise fun p r => p.1.key ≠ r.1.key := by
  have rising : tokens.zipIdx.Pairwise fun p r => p.2 < r.2 := by
    rw [← List.pairwise_map (f := Prod.snd) (R := (· < ·)), List.zipIdx_map_snd]
    exact List.pairwise_lt_range'
  refine List.pairwise_map.2 (rising.imp fun h => ?_)
  simp only [F.SRV_STOPSET_TOKEN]
  omega

theorem stopWrites_serving (k : Nat) (tokens : List Word) : ∀ p ∈ stopWrites k tokens, 0x12000000 ≤ p.1.key := by
  intro p hp
  obtain ⟨x, -, rfl⟩ := List.mem_map.1 hp
  simp only [F.SRV_STOPSET_TOKEN]
  omega

theorem mem_stopWrites (k : Nat) {tokens : List Word} {i : Nat} (hi : i < tokens.length) :
    (F.SRV_STOPSET_TOKEN k i, tokens[i].toNat) ∈ stopWrites k tokens :=
  List.mem_map.2 ⟨(tokens[i], i), List.mem_zipIdx_iff_getElem?.2 (List.getElem?_eq_getElem hi), rfl⟩

section
variable {q : YReq} {s : State}

theorem exec_accountSet_of_accepts {a : Fin 1024} {x y : Word} {ends_ valid : Bool} (up : netHeld s = false) (h : accepts { op := 0x0604 } q true [] [] s) :
    exec (.accountSet q a x y ends_ valid) s = .next (okActive q (reqHeader s q.fn q.slot) []
      [F.SRV_ACCT_RATE a, F.SRV_ACCT_BURST a, F.SRV_ACCT_END a, F.SRV_ACCT_VALID a]
      (shadowAll (acctWrites a x.toNat y.toNat (if ends_ then 1 else 0) (if valid then 1 else 0)) s)) := by
  rw [exec_accountSet, execAccountSet, ← writeAll_serving (acctWrites_serving _ _ _ _ _) up]
  exact congrArg Host.Outcome.next (run_of_accepts _ h)

theorem exec_classSet_of_accepts {k : Fin 8} {x y : Word} (up : netHeld s = false) (h : accepts { op := 0x0605 } q true [] [] s) :
    exec (.classSet q k x y) s = .next (okActive q (reqHeader s q.fn q.slot) [] [F.SRV_CLASS_TTFT_US k, F.SRV_CLASS_TBT_US k]
      (shadowAll (classWrites k x.toNat y.toNat) s)) := by
  rw [exec_classSet, execClassSet, ← writeAll_serving (classWrites_serving _ _ _) up]
  exact congrArg Host.Outcome.next (run_of_accepts _ h)

theorem exec_stopsetSet_of_accepts {k : Fin 8} {tokens : List Word} (up : netHeld s = false)
    (h : accepts { op := 0x0606 } q (tokens.length = 32) [] [] s) :
    exec (.stopsetSet q k tokens) s = .next (okActive q (reqHeader s q.fn q.slot) [] ((List.range 32).map fun i => F.SRV_STOPSET_TOKEN k i)
      (shadowAll (stopWrites k tokens) s)) := by
  have steps : writeAll (stopWrites k tokens) s = each tokens.zipIdx (fun p s => fwWrite (F.SRV_STOPSET_TOKEN k p.2) p.1.toNat s) s :=
    List.foldl_map
  rw [exec_stopsetSet, execStopsetSet, ← writeAll_serving (stopWrites_serving _ _) up, run_of_accepts _ h, steps]

end

/-! ### Calibration -/

theorem calWrite_calm (f : Fld) (v : Nat) (s : State) : calm s (calWrite f v s) := ⟨rfl, rfl, rfl, rfl⟩

theorem get_calWrite_same (f : Fld) (v : Nat) (s : State) : get (calWrite f v s) f = v % 2 ^ f.width := get_set_same f v s

theorem get_calWrite_ne {f g : Fld} (h : g.key ≠ f.key) (v : Nat) (s : State) : get (calWrite f v s) g = get s g := get_set_ne h v s

/-- The configuration that CAL_CONFIG writes. -/
def calConfigured (c src log2 limit tstep : Nat) (s : State) : State :=
  s |> calWrite (F.CAL_SRC_SRC c) src |> set (F.CAL_CTL_DMON_LOG2 c) log2 |> calWrite (F.CAL_DMON_LIM_LIMIT c) limit
    |> calWrite (F.CAL_CTL_TSTEP c) tstep

theorem calConfigured_spec (c src log2 limit tstep : Nat) (s : State) :
    let u := calConfigured c src log2 limit tstep s
    calm s u ∧ get u (F.CAL_SRC_SRC c) = src % 2 ∧ get u (F.CAL_CTL_DMON_LOG2 c) = log2 % 2 ^ 5 ∧ get u (F.CAL_DMON_LIM_LIMIT c) = limit % 2 ^ 8 ∧
      get u (F.CAL_CTL_TSTEP c) = tstep % 2 ^ 4 := by
  refine ⟨(((calWrite_calm ..).trans (set_calm ..)).trans (calWrite_calm ..)).trans (calWrite_calm ..), ?_, ?_, ?_, get_calWrite_same ..⟩
  · refine (get_calWrite_ne ?_ ..).trans ((get_calWrite_ne ?_ ..).trans ((get_set_ne ?_ ..).trans (get_calWrite_same ..))) <;>
      simp only [F.CAL_SRC_SRC, F.CAL_CTL_TSTEP, F.CAL_DMON_LIM_LIMIT, F.CAL_CTL_DMON_LOG2] <;> omega
  · refine (get_calWrite_ne ?_ ..).trans ((get_calWrite_ne ?_ ..).trans (get_set_same ..)) <;>
      simp only [F.CAL_CTL_TSTEP, F.CAL_DMON_LIM_LIMIT, F.CAL_CTL_DMON_LOG2] <;> omega
  · refine (get_calWrite_ne ?_ ..).trans (get_calWrite_same ..)
    simp only [F.CAL_CTL_TSTEP, F.CAL_DMON_LIM_LIMIT]
    omega

/-- Bytes written to a memory read back. -/
theorem rdBytes_wrBytes_same (m : List (Nat × Byte)) (a : Nat) (bs : List Byte) : rdBytes (wrBytes m a bs) a bs.length = bs := by
  refine List.ext_getElem (by simp [rdBytes]) fun i _ h2 => ?_
  simp only [rdBytes, List.getElem_map, List.getElem_range]
  exact rdByte_wrBytes m a bs h2

/-- The state after the records of a set are stored and kept in flash (R142). -/
def recordsStored (f c set_ : Nat) (h : Header) (recs : List Byte) (s : State) : State :=
  let s1 := fromBuffer f h (catchUp c s)
  calKeep c { s1 with mem := { s1.mem with cal := wrBytes s1.mem.cal (recAddr c set_ 0) recs } }

theorem recordsStored_spec (f : Nat) {c : Nat} (hc : c < 20) (set_ : Nat) (h : Header) (recs : List Byte) (s : State) :
    let u := recordsStored f c set_ h recs s
    rdBytes u.mem.cal (recAddr c set_ 0) recs.length = recs ∧ u.mem.stk = s.mem.stk ∧ u.mem.wts = s.mem.wts := by
  have before : (fromBuffer f h (catchUp c s)).mem = s.mem := (fromBuffer_calm ..).1.trans (catchUp_passFrame hc s).mem
  have stored : (recordsStored f c set_ h recs s).mem = { s.mem with cal := wrBytes s.mem.cal (recAddr c set_ 0) recs } := by
    rw [← before]
    rfl
  intro u
  rw [stored]
  exact ⟨rdBytes_wrBytes_same .., rfl, rfl⟩

section
variable {q : YReq} {c : CoreIx} {s : State}

theorem exec_calConfig_of_accepts {src : Bool} {log2 : BitVec 5} {lim : Byte} {tstep : BitVec 4}
    (h : accepts { op := 0x0704 } q (decide (12 ≤ log2.toNat) && decide (log2.toNat ≤ 20)) [] [.core c] s) (still : coreRuns s c = false)
    (up : coreUp s c = true) (free : calRunning s c = false ∨ get s (F.CAL_CTL_DMON_LOG2 c) = log2.toNat) :
    exec (.calConfig q c src log2 lim tstep) s = .next (okActive q (reqHeader s q.fn q.slot) [.core c]
      [F.CAL_SRC_SRC c, F.CAL_DMON_LIM_LIMIT c, F.CAL_CTL_TSTEP c]
      (calConfigured c (if src then 1 else 0) log2.toNat lim.toNat tstep.toNat s)) := by
  have unlocked : ¬(coreRuns s c || (calRunning s c && decide (get s (F.CAL_CTL_DMON_LOG2 c) ≠ log2.toNat))) = true := by
    rcases free with hf | hf <;> simp [still, hf]
  rw [exec_calConfig, execCalConfig, run_of_accepts _ h, if_neg unlocked, up]
  rfl

theorem exec_calRestore_of_accepts {dev : BitVec 128} {set_ : Fin 4} {recs : List Byte}
    (h : accepts { op := 0x0702 } q (recs.length = 2624 * 64) [] [.core c] s) (same : dev.toNat = deviceId s) (up : coreUp s c = true)
    (still : coreRuns s c = false) (good : ∀ n, n < 2624 → recCrc ((recs.drop (64 * n)).take 64) = true) :
    exec (.calRestore q dev c set_ recs) s = .next (respond q (reqHeader s q.fn q.slot) 0 []
      (recordsStored q.fn c set_ (reqHeader s q.fn q.slot) recs s)) := by
  have sound : ((List.range 2624).any fun n => !recCrc ((recs.drop (64 * n)).take 64)) = false := by
    rw [List.any_eq_false]
    intro n hn
    rw [good n (List.mem_range.1 hn)]
    decide
  have fits : ¬(decide (dev.toNat ≠ deviceId s) || ((List.range 2624).any fun n => !recCrc ((recs.drop (64 * n)).take 64)) || !coreUp s c) = true := by
    rw [sound, up]
    simp [same]
  rw [exec_calRestore, execCalRestore, run_of_accepts _ h, if_neg fits, still]
  rfl

/-- CAL_MEASURE of a core that is up, with no command in progress, starts OP = FULL with TARGET = 1 (R143). -/
theorem exec_calMeasure_of_accepts {set_ : Fin 4} (h : accepts { op := 0x0703 } q true [] [.core c] s) (still : coreRuns s c = false)
    (up : coreUp s c = true) (free : (core s c).calCmd = none) :
    let hd := reqHeader s q.fn q.slot
    let t := calFull c set_ true s
    exec (.calMeasure q c set_) s =
      .next (if (core t c).calCmd.isSome then pend q hd [.core c] (.calDone c) t else respond q hd (get t (F.CAL_STATUS_RESULT c)) [] t) := by
  intro hd t
  rw [exec_calMeasure, execCalMeasure, run_of_accepts _ h, still, up, free]
  rfl

end

/-! ### Plans, ports and streams -/

section
variable {q : YReq} {s : State}

theorem exec_planInstall_of_accepts {image : List Byte} (h : accepts { op := 0x0D01 } q true [] [.plan] s) :
    let u := fromBuffer q.fn (reqHeader s q.fn q.slot) s
    planForm image = true → planKnown image = true → loadsOk u = true → planFits u (readPlan image) = true → anyPart u = false →
      exec (.planInstall q image true) s =
        .next (respond q (reqHeader s q.fn q.slot) 0 [] (updFw (fun k => { k with planNext := some (readPlan image) }) u)) := by
  intro u form known loads fits none_
  rw [exec_planInstall, execPlanInstall, run_of_accepts _ h]
  dsimp only
  rw [form, known, show loadsOk (fromBuffer _ _ s) = true from loads, show planFits (fromBuffer _ _ s) _ = true from fits,
    show anyPart (fromBuffer _ _ s) = false from none_]
  rfl

theorem exec_portCmd_of_accepts {p : PortIx} {k : BitVec 8} (h : accepts { op := 0x0D03 } q true [] [.port p.val] s) (hk : k.toNat < 3) :
    exec (.portCmd q (BitVec.ofNat 8 p.val) k) s = .next (respond q (reqHeader s q.fn q.slot) 0 []
      (if k = 0 then retrainPort p s else if k = 1 then disablePort p s
        else if pState s p = 2 || pState s p = 3 then enterQuar p 5 s else portRej p s)) := by
  have hp : (BitVec.ofNat 8 p.val).toNat = p.val := by rw [BitVec.toNat_ofNat]; omega
  have range : (decide (p.val < 12) && decide (k.toNat < 3)) = true := by simp [hk, p.isLt]
  rw [exec_portCmd, execPortCmd]
  dsimp only
  rw [hp, range, run_of_accepts _ h]

end

/-- Settles O52: an accepted request is run, the branch that its conditions select is the stated effect, and the values it sets read back
because the fields it writes lie apart. The bytes of a snapshot and the time of a stream interval are choices of the model (log entries 51, 58). -/
theorem settingRequestsAct : Obligations.SettingRequestsAct := by
  refine ⟨fun q r base wb entries x y vec lim us cnt mins out ends_ valid a k tokens c log2 tstep blocks image rem m s => ?_,
    fun q c set_ recs dev p s => ?_⟩
  · intro h n b l
    refine ⟨exec_rqCreate_of_accepts, exec_oqCreate_of_accepts, fun p own hx idle => ?_, fun up => ⟨fun hx => ?_, fun hx => ?_, fun hx => ?_⟩,
      fun hx still up free => ?_, fun hx => ?_, fun hx => ?_, fun hx => ?_, fun hx => ?_, exec_planInstall_of_accepts, fun hx empty => ?_,
      fun hx free => ?_⟩
    · -- RING_DESTROY
      obtain ⟨gone, other, rest⟩ := ringOwner_dropRing out r s
      exact ⟨_, exec_ringDestroy_of_accepts own hx idle, ⟨rfl, rfl, rfl, rfl⟩, gone, other, fun i hi => rest i (Fin.val_ne_of_ne hi)⟩
    · -- ACCOUNT_SET (R325)
      obtain ⟨kept, vals, regs⟩ := shadowAll_spec (acctWrites_apart a x.toNat y.toNat (b ends_) (b valid)) s
      simp only [acctWrites, List.forall_mem_cons] at vals
      obtain ⟨rate, burst, atEnd, isValid, -⟩ := vals
      exact ⟨_, rfl, exec_accountSet_of_accepts up hx, kept, rate.trans (Nat.mod_eq_of_lt x.isLt), burst.trans (Nat.mod_eq_of_lt y.isLt),
        atEnd.trans (by cases ends_ <;> rfl), isValid.trans (by cases valid <;> rfl), regs⟩
    · -- CLASS_SET (R326)
      obtain ⟨kept, vals, regs⟩ := shadowAll_spec (classWrites_apart k x.toNat y.toNat) s
      simp only [classWrites, List.forall_mem_cons] at vals
      obtain ⟨first, between, -⟩ := vals
      exact ⟨_, rfl, exec_classSet_of_accepts up hx, kept, first.trans (Nat.mod_eq_of_lt x.isLt), between.trans (Nat.mod_eq_of_lt y.isLt), regs⟩
    · -- STOPSET_SET (R328)
      obtain ⟨kept, vals, -⟩ := shadowAll_spec (stopWrites_apart k tokens) s
      exact ⟨_, exec_stopsetSet_of_accepts up hx, kept, fun i hi => (vals _ (mem_stopWrites k hi)).trans (Nat.mod_eq_of_lt tokens[i].isLt)⟩
    · -- CAL_CONFIG
      obtain ⟨kept, source, period, limit, step⟩ := calConfigured_spec c (b out) log2.toNat lim.toNat tstep.toNat s
      exact ⟨_, exec_calConfig_of_accepts hx still up free, kept, source.trans (by cases out <;> rfl), period.trans (Nat.mod_eq_of_lt log2.isLt),
        limit.trans (Nat.mod_eq_of_lt lim.isLt), step.trans (Nat.mod_eq_of_lt tstep.isLt)⟩
    · exact (exec_telSnapshot ..).trans (congrArg Host.Outcome.next (run_of_accepts _ hx))
    · exact (exec_telStream ..).trans (congrArg Host.Outcome.next (run_of_accepts _ hx))
    · exact (exec_faultAck ..).trans (congrArg Host.Outcome.next (run_of_accepts _ hx))
    · exact (exec_digestCfg ..).trans (congrArg Host.Outcome.next (run_of_accepts _ hx))
    · -- SPARE_SET (R297)
      rw [exec_spareSet, execSpareSet, run_of_accepts _ hx, empty]
      rfl
    · rw [exec_spareSet, execSpareSet, run_of_accepts _ hx, free]
      rfl
  · intro h
    refine ⟨fun hx same up still good => ?_, fun hx still up free near => ?_, fun hx still up free far => ?_,
      fun hx => ⟨?_, ?_, fun open_ => ?_, fun notAuth notIn => ?_⟩, fun x hx => ?_, fun stopped => ?_⟩
    · -- CAL_RESTORE (R142)
      have len : recs.length = 2624 * 64 := of_decide_eq_true (accepts_range hx)
      obtain ⟨stored, stk, wts⟩ := recordsStored_spec q.fn c.isLt set_ h recs s
      exact ⟨_, exec_calRestore_of_accepts hx same up still good, rfl, len ▸ stored, stk, wts⟩
    · -- CAL_MEASURE (R143)
      have taken : calFull c set_ true s = calAccept c { op := 1, set := set_, target := true, arr := none } s := by
        rw [calFull_of_free still free, near]
        rfl
      obtain ⟨running, -⟩ := calAccept_spec (c := c) (List.mem_singleton.2 rfl) { op := 1, set := set_, target := true, arr := none } s
      rw [exec_calMeasure_of_accepts hx still up free, taken, running]
      rfl
    · have refused : calFull c set_ true s = calResult c 0x31 s := by
        rw [calFull_of_free still free, far]
        rfl
      have result : get (calResult c 0x31 s) (F.CAL_STATUS_RESULT c) = 0x31 := get_set_same ..
      have idle : (core (calResult c 0x31 s) c).calCmd = none := free
      refine ⟨_, ?_, set_calm .., result⟩
      rw [exec_calMeasure_of_accepts hx still up free, refused, idle, result]
      rfl
    · -- PORT_CMD
      exact exec_portCmd_of_accepts hx (by decide)
    · exact exec_portCmd_of_accepts hx (by decide)
    · rw [exec_portCmd_of_accepts hx (by decide), if_neg (by decide), if_neg (by decide), if_pos (by simpa using open_)]
    · rw [exec_portCmd_of_accepts hx (by decide), if_neg (by decide), if_neg (by decide), if_neg (by simp [notAuth, notIn])]
    · -- an interval of TEL_STREAM (R424)
      intro t d ofs
      rw [exec_telStreamInterval, execTelStreamInterval, hx]
      exact ⟨fun large => if_pos large, fun fits => if_neg (Nat.not_lt.2 fits)⟩
    · rw [exec_telStreamInterval, execTelStreamInterval, stopped]

end Sys2Proof.Machine

namespace Sys2Proof.Machine

/-! ### An L1 event whose domain has already escalated (R389, R393) -/

/-- A part of the state that no effect of a list changes is as before after them all. -/
theorem each_same_of_mem {α β : Type} (p : State → β) (l : List α) {f : α → State → State} (h : ∀ a ∈ l, ∀ t, p (f a t) = p t)
    (s : State) : p (each l f s) = p s := by
  induction l generalizing s with
  | nil => rfl
  | cons a l ih => exact (ih (fun b hb => h b (List.mem_cons_of_mem a hb)) _).trans (h a List.mem_cons_self s)

theorem get_setRec_ne {fs : List Fld} {g : Fld} (h : ∀ f ∈ fs, g.key ≠ f.key) (r : FltRec) (v : Bool) (s : State) :
    get (setRec fs r v s) g = get s g :=
  each_same_of_mem (fun t => get t g) _ (fun p hp t => get_set_ne (h p.1 (List.of_mem_zip hp).1) p.2 t) s

theorem safe_not_captured (l : Nat) : ∀ f ∈ capFields l, F.FLT_STAT_SAFE.key ≠ f.key := by
  have above : ∀ f ∈ capFields l, 0x1800200 ≤ f.key := by
    simp only [capFields, List.forall_mem_cons, List.not_mem_nil, F.FLT_CAP_TIME, F.FLT_CAP_SRC, F.FLT_CAP_DOM, F.FLT_CAP_CLASS,
      F.FLT_CAP_ESC, F.FLT_CAP_ACCESS, F.FLT_CAP_VALID, F.FLT_CAP_NODE, F.FLT_CAP_UNIT, F.FLT_CAP_ADDR, F.FLT_CAP_DETAIL, false_implies,
      implies_true, and_true]
    omega
  intro f hf
  have := above f hf
  simp only [F.FLT_STAT_SAFE]
  omega

theorem inSafe_showQueue (s : State) : inSafe (showQueue s) = inSafe s := by
  have shown : ∀ r v, get (setRec evtFields r v (set F.FLT_EVT_LEVEL_N s.flt.queue.length s)) F.FLT_STAT_SAFE = get s F.FLT_STAT_SAFE :=
    fun r v => (get_setRec_ne (by decide) r v _).trans (get_set_ne (by decide) _ s)
  unfold inSafe flag showQueue
  dsimp only
  split <;> rw [shown]

/-- A write of another register leaves the mark of the safe state. -/
theorem inSafe_set {f : Fld} (h : F.FLT_STAT_SAFE.key ≠ f.key) (v : Nat) (s : State) : inSafe (set f v s) = inSafe s := by
  unfold inSafe flag
  rw [get_set_ne h]

theorem inSafe_bump {f : Fld} (h : F.FLT_STAT_SAFE.key ≠ f.key) (s : State) : inSafe (bump f s) = inSafe s := inSafe_set h _ s

/-- Writing a record does not put the package into safe state: that is the reaction's. -/
theorem inSafe_record (r : FltRec) (left : List Nat) (s : State) : inSafe (record r left s) = inSafe s := by
  have event : F.FLT_STAT_SAFE.key ≠ (F.FLT_EVT_CNT r.cls).key := by
    simp only [F.FLT_STAT_SAFE, F.FLT_EVT_CNT]
    omega
  have source : F.FLT_STAT_SAFE.key ≠ (F.FLT_SRC_CNT r.src).key := by
    simp only [F.FLT_STAT_SAFE, F.FLT_SRC_CNT]
    omega
  have climbs : ∀ l, F.FLT_STAT_SAFE.key ≠ (F.FLT_ESC_CNT l).key := fun l => by
    simp only [F.FLT_STAT_SAFE, F.FLT_ESC_CNT]
    omega
  have counted := (each_same inSafe left (f := fun l s => bump (F.FLT_ESC_CNT l) s) (fun l t => inSafe_bump (climbs l) t) _).trans
    ((inSafe_bump source _).trans (inSafe_bump event s))
  have captured : ∀ t, inSafe (if flag t (F.FLT_CAP_VALID r.cls) then t
      else noteSet (F.FLT_CAP_VALID r.cls) 0 (setRec (capFields r.cls) r true t)) = inSafe t := fun t => by
    split
    · rfl
    · exact congrArg (· == 1) (get_setRec_ne (safe_not_captured r.cls) r true t)
  have queued : ∀ t : State, inSafe (if t.flt.queue.length < 256 then showQueue { t with flt := { t.flt with queue := t.flt.queue ++ [r] } }
      else bump F.FLT_LOG_DROP_CNT t) = inSafe t := fun t => by
    split
    · exact inSafe_showQueue _
    · exact inSafe_bump (by decide) t
  have highest : ∀ t, inSafe (if get t F.FLT_STAT_HIGHEST = 7 || get t F.FLT_STAT_HIGHEST < r.cls then set F.FLT_STAT_HIGHEST r.cls t
      else t) = inSafe t := fun t => by
    split
    · exact inSafe_set (by decide) _ t
    · rfl
  exact (highest _).trans ((queued _).trans ((captured _).trans counted))

theorem inSafe_markUnack (l dom : Nat) (s : State) : inSafe (markUnack l dom s) = inSafe s := by
  have pends : F.FLT_STAT_SAFE.key ≠ (F.FLT_PEND_DOMS l (dom / 32)).key := by
    simp only [F.FLT_STAT_SAFE, F.FLT_PEND_DOMS]
    omega
  unfold markUnack setBit
  rw [inSafe_set (by decide)]
  exact when_keeps (P := fun t => inSafe t = inSafe s) _ rfl fun t ht => (inSafe_set pends _ t).trans ht

/-- An event of an escalating L1 source from outside the cores, in a domain with an unacknowledged event of such a source, is recorded as an
L3 event, and the package reacts (R389). -/
theorem raise_climbs {e : Ev} {s : State} (cls : srcClass e.src = 1) (escalates : srcEscalates e.src = true) (fresh : e.esc = false)
    (outside : 20 ≤ e.dom) (again : NSet.has s.flt.esc1 e.dom = true) (none3 : unacked s 3 = false) :
    ∃ r x, r.cls = 3 ∧ r.src = e.src ∧
      raise e s = pinEvent 3 (safeState (markUnack 3 e.dom (record r [1] { s with flt := x }))) := by
  have top : climb s e 4 1 [] = (3, [1]) := by simp [climb, escalates, again, none3, Nat.not_lt.2 outside]
  unfold raise collect
  rw [fresh, cls, top]
  exact ⟨_, _, rfl, rfl, rfl⟩

/-- Such an event puts a package that was not in safe state into it, which fences the cores (R390, R393). -/
theorem raise_fences {e : Ev} {s : State} (cls : srcClass e.src = 1) (escalates : srcEscalates e.src = true) (fresh : e.esc = false)
    (outside : 20 ≤ e.dom) (dom : e.dom < 256) (src : e.src < 256) (again : NSet.has s.flt.esc1 e.dom = true) (none3 : unacked s 3 = false)
    (normal : inSafe s = false) (kept : s.undo = none) :
    ∃ t, FltOnly s t ∧ raise e s = pinEvent 3 (each allCores fenceCore t) := by
  obtain ⟨r, x, hc, hs, hraise⟩ := raise_climbs cls escalates fresh outside again none3
  have recorded : FltOnly s (markUnack 3 e.dom (record r [1] { s with flt := x })) :=
    ((FltOnly.flt s x).trans (record_flt r [1] _ (by omega) (by omega) (by decide))).trans (markUnack_flt 3 e.dom _ dom)
  have safe : inSafe (markUnack 3 e.dom (record r [1] { s with flt := x })) = false :=
    (inSafe_markUnack ..).trans ((inSafe_record ..).trans normal)
  rw [hraise]
  generalize markUnack 3 e.dom (record r [1] { s with flt := x }) = m at recorded safe ⊢
  have commit : unCommit m = m := by
    unfold unCommit
    rw [show m.undo = none by rw [recorded.1]; exact kept]
  refine ⟨setB F.FLT_STAT_SAFE true (set F.FLT_SAFE_TIME_TIME (now m) m),
    (recorded.trans (FltOnly.set _ (by decide) (by decide) _)).trans (FltOnly.setB _ (by decide) (by decide) _), ?_⟩
  rw [safeState, if_neg (by simpa [inSafe] using safe), commit]

/-! ### Program memories and stack marks under a fence (R375, R392) -/

/-- The program memories and the poison marks of the stacks are as before. -/
structure ProgFrame (s t : State) : Prop where
  prog : t.mem.prog = s.mem.prog
  stkPoison : t.mem.stkPoison = s.mem.stkPoison

theorem ProgFrame.refl (s : State) : ProgFrame s s := ⟨rfl, rfl⟩

theorem ProgFrame.trans {r s t : State} (h : ProgFrame r s) (k : ProgFrame s t) : ProgFrame r t :=
  ⟨k.prog.trans h.prog, k.stkPoison.trans h.stkPoison⟩

theorem ProgFrame.each {α : Type} (l : List α) {f : α → State → State} (h : ∀ a t, ProgFrame t (f a t)) (s : State) :
    ProgFrame s (each l f s) := each_keeps l (.refl s) fun a t ht => ht.trans (h a t)

theorem markEnding_progFrame (c : Nat) (s : State) : ProgFrame s (markEnding c s) := by
  unfold markEnding
  dsimp only
  split
  · exact .each _ (fun _ _ => by exact ⟨rfl, rfl⟩) s
  · exact .refl s

theorem abandonTick_progFrame (c : Nat) (s : State) : ProgFrame s (abandonTick c s) := by
  have marked := ProgFrame.each (core s c).outRows (f := fun r s => markRow c r true s) (fun _ _ => ⟨rfl, rfl⟩) s
  have skip : ∀ t, ProgFrame t (skipDraw c t) := fun _ => ⟨rfl, rfl⟩
  have phase : ∀ t, ProgFrame t (set (F.SEQ_STAT_PHASE_ST c) 0 t) := fun _ => ⟨rfl, rfl⟩
  unfold abandonTick
  refine .trans ?_ (phase _)
  exact when_keeps (P := ProgFrame s) _ (marked.trans ⟨rfl, rfl⟩) fun t ht => ht.trans (skip t)

theorem stopUnits_progFrame (c : Nat) (s : State) : ProgFrame s (stopUnits c s) := by
  have undef := ProgFrame.each (batchArrays (core s c).running) (f := fun n s => setUndef c n true s) (fun _ _ => ⟨rfl, rfl⟩) s
  exact undef.trans ⟨rfl, rfl⟩

theorem resetRegs_progFrame (c : Nat) (s : State) : ProgFrame s (resetRegs c s) := by
  have stop : ProgFrame s (stopped c s) := by
    unfold stopped
    split
    · exact stopUnits_progFrame c s
    · exact (abandonTick_progFrame c s).trans (stopUnits_progFrame c _)
  have cleared : ∀ t, ProgFrame t (clearedRegs c t) := fun _ => ⟨rfl, rfl⟩
  exact (stop.trans (cleared _)).trans (.each _ (fun _ _ => by exact ⟨rfl, rfl⟩) _)

theorem resetCompute_prog (c : Nat) (s : State) :
    (resetCompute c s).mem.prog = SMap.erase s.mem.prog (c * 2 ^ 19) ((c + 1) * 2 ^ 19) := by
  rw [resetCompute_eq, ← (resetRegs_progFrame c s).prog]
  rfl

theorem resetCompute_stkPoison (c : Nat) (s : State) : (resetCompute c s).mem.stkPoison = s.mem.stkPoison := by
  rw [resetCompute_eq, ← (resetRegs_progFrame c s).stkPoison]
  rfl

/-- A fence leaves a core's program memory to the reset of its compute domain (R392). -/
theorem fenceCore_prog (c : Nat) (s : State) : (fenceCore c s).mem.prog =
    if coreState s c = cFenced || coreState s c = cReset || !coreGood s c then s.mem.prog
    else SMap.erase s.mem.prog (c * 2 ^ 19) ((c + 1) * 2 ^ 19) := by
  unfold fenceCore
  split
  · rfl
  · rw [bump_mem, setCoreState, set_mem, resetCompute_prog, (markEnding_progFrame c s).prog]

theorem fenceCore_stkPoison (c : Nat) (s : State) : (fenceCore c s).mem.stkPoison = s.mem.stkPoison := by
  unfold fenceCore
  split
  · rfl
  · rw [bump_mem, setCoreState, set_mem, resetCompute_stkPoison, (markEnding_progFrame c s).stkPoison]

/-- Fences write no program: an empty program memory stays empty. -/
theorem fences_prog_nil (l : List Nat) {s : State} (h : s.mem.prog = []) : (each l fenceCore s).mem.prog = [] :=
  each_keeps (P := fun t => t.mem.prog = []) l h fun c t ht => by
    rw [fenceCore_prog, ht]
    exact ite_self _

theorem fences_stkPoison (l : List Nat) (s : State) : (each l fenceCore s).mem.stkPoison = s.mem.stkPoison :=
  each_same (fun t => t.mem.stkPoison) l fenceCore_stkPoison s

theorem pinEvent_mem (l : Nat) (s : State) : (pinEvent l s).mem = s.mem := by rw [(pinEvent_flt l s).1]

/-! ### A line that reads uncorrectable by an injected error (R248, R408) -/

/-- An access that meets an injected uncorrectable error on a line without a mark marks it and raises source 38h, whatever else it finds. -/
theorem dramAccess_injected {n l kind src access k : Nat} {s : State} {j : Inj} (inj : s.flt.inj = some j)
    (active : j.active = true) (kind3 : j.kind = 3) (line : j.tgt % 2 ^ 30 = l) (uncorr : bit j.tgt 32 = true)
    (fresh : linePoison (injApply s) l = false) (e : Ecc) :
    dramAccess n l kind src access k e s =
      raise { src := 0x38, dom := lineDom l, access := access, node := src, addr := l, detail := k } (markUncorr n l kind src (injApply s)) := by
  have found : stkErr s l e = (.uncorrectable, true) := by simp [stkErr, inj, active, kind3, ← line, uncorr]
  unfold dramAccess
  simp [found, when, fresh]

theorem tripFrom_mem (d : Nat) : ∀ (n c : Nat) (esc : Bool) (s : State), (tripFrom d n c esc s).2.mem = s.mem
  | 0, _, _, _ => rfl
  | n + 1, c, esc, s => by
    have counted : ∀ b, (when b (bumpRtr c (F.RTR_ESC_CNT c)) (bumpRtr c (F.RTR_FLIT_CNT c) s)).mem = s.mem := fun b =>
      when_keeps (P := fun t => t.mem = s.mem) b (bumpRtr_mem ..) fun t ht => (bumpRtr_mem ..).trans ht
    unfold tripFrom
    dsimp only
    split
    · exact (bumpRtr_mem ..).trans (counted _)
    · exact counted _
    · exact (tripFrom_mem d n _ _ _).trans (counted _)
    · exact bumpRtr_mem ..

/-- The way of a flit through the mesh touches no memory. -/
theorem trip_mem (src d : Nat) (s : State) : (trip src d s).2.mem = s.mem :=
  (tripFrom_mem ..).trans (when_keeps (P := fun t => t.mem = s.mem) _ rfl fun _ ht => (bumpRtr_mem ..).trans ht)

/-- A read that reaches its channel, whose bank is ON and whose line no merge entry holds, is performed with the error that it meets. -/
theorem readLine_performed {src l : Nat} {s : State} (reach : (reachLine src l false s).1 = true) (inside : l < lineCount)
    (on : bankOn (reachLine src l false s).2 (lineStack l) (lineBank l) = true)
    (apart : actB (reachLine src l false s).2 (F.STK_CTL_MERGE_EN (lineStack l)) = false) (full : Bool) :
    let f := foundError (reachLine src l false s).2
    let r := performRead (lineStack l) l src f.1.2 f.1.1 f.2
    readLine src l full s = ((0, r.1), backTrip src l r.2) := by
  simp [readLine, takeLineAt, reach, Nat.not_le.2 inside, on, apart]

/-! ### The start of a batch of one entry (R147 to R149) -/

/-- Where the line of a batch's one entry is delivered POISONED, no entry runs: the start leaves the memories as that read does. -/
theorem startBatch_poisoned_mem {c : Nat} {b : Batch} {s : State} (one : b.count = 1) (poison : (unitRead c (b.list / 512) s).1.2 = true) :
    (startBatch c b s).mem = (unitRead c (b.list / 512) s).2.mem := by
  simp [startBatch, one, List.range_succ, readEntries, readEntry, poison, acceptEntry, readGolds]

/-! ### A batch whose list reads uncorrectable in a channel that has escalated (R389, R393) -/

/-- Where only an IDLE core 0 holds a program, such an event leaves no program in the package; the marks of the stacks stay (R375, R393). -/
theorem raise_fences_mem {e : Ev} {s : State} (cls : srcClass e.src = 1) (escalates : srcEscalates e.src = true) (fresh : e.esc = false)
    (outside : 20 ≤ e.dom) (dom : e.dom < 256) (src : e.src < 256) (again : NSet.has s.flt.esc1 e.dom = true) (none3 : unacked s 3 = false)
    (normal : inSafe s = false) (kept : s.undo = none) (idle : coreState s 0 = cIdle) (good : coreGood s 0 = true)
    (held : SMap.erase s.mem.prog 0 (2 ^ 19) = []) :
    (raise e s).mem.prog = [] ∧ (raise e s).mem.stkPoison = s.mem.stkPoison := by
  obtain ⟨t, only, hraise⟩ := raise_fences cls escalates fresh outside dom src again none3 normal kept
  have mem : t.mem = s.mem := by rw [only.1]
  have state : coreState t 0 = cIdle := (only.2 _ (.inr (by decide))).trans idle
  have listed : coreGood t 0 = true := (congrArg (bit · 0) (only.2 F.LC_CORE_FUSE_GOOD (.inr (by decide)))).trans good
  have first : (fenceCore 0 t).mem.prog = [] := by
    rw [fenceCore_prog, state, listed, mem]
    exact held
  have fenced : (each allCores fenceCore t).mem.prog = [] := by
    rw [show allCores = 0 :: allCores.tail from rfl, each_cons]
    exact fences_prog_nil _ first
  rw [hraise, pinEvent_mem, fences_stkPoison, mem]
  exact ⟨fenced, rfl⟩

/-- A performed read of a line without a mark finds the error of its access. -/
theorem performRead_unmarked {n l : Nat} {s : State} (h : linePoison s l = false) (src k : Nat) (e : Ecc) :
    let t := dramAccess n l 0 src 0 k e (bump (F.STK_RD_CNT n) s)
    performRead n l src k e s = ((lineBytes t l, linePoison t l), t) := by
  simp [performRead, h, when]

/-- A steep batch of one entry, its list at line 0. -/
def listBatch : Batch := { count := 1, list := 0, res := 0, jid := 0, started := false, entries := [], startTick := 0 }

/-- An injection that makes line 0 uncorrectable (Table 14.6). -/
def loseLine : Inj := { kind := 3, hide := false, count := 1, src := 0, dom := 0x40, tgt := 2 ^ 32, time := 0, active := true, done := 0 }

/-- Core 0 is IDLE with a program and a batch to start. Its region admits line 0, which reads uncorrectable by an injection, and the domain of
that line's channel has an unacknowledged event. -/
def listLost : State :=
  let s := State.reset |> set (F.CORE_CTL_STATE_STATE 0) cIdle |> set (F.RTR_ROUTE_OUT 0 20) 3 |> set (F.RTR_ROUTE_OUT 1 20) 5
    |> setAct (F.STK_CTL_MERGE_EN 0) 0 |> setAct (F.RTR_REGION_SIZE 0 0) 1 |> setAct (F.RTR_REGION_RD 0 0) 1
    |> setAct (F.RTR_REGION_VALID 0 0) 1 |> updCore 0 fun k => { k with running := some listBatch }
  { s with flt := { s.flt with inj := some loseLine, esc1 := [0x40] }, mem := { s.mem with prog := [(0, 1)] } }

/-- The state in which the controller accesses line 0 for the batch of `listLost`. -/
def listAccess : State := bump (F.STK_RD_CNT 0) (foundError (reachLine 0 0 false listLost).2).2

theorem listLost_reaches :
    regionOk listLost 0 0 false = true ∧ (reachLine 0 0 false listLost).1 = true ∧ bankOn (reachLine 0 0 false listLost).2 0 0 = true ∧
    actB (reachLine 0 0 false listLost).2 (F.STK_CTL_MERGE_EN 0) = false ∧
    linePoison (foundError (reachLine 0 0 false listLost).2).2 0 = false := by decide +kernel

theorem listAccess_injected : listAccess.flt.inj = some loseLine ∧ linePoison (injApply listAccess) 0 = false := by decide +kernel

theorem listAccess_escalates :
    let s := markUncorr 0 0 0 0 (injApply listAccess)
    NSet.has s.flt.esc1 0x40 = true ∧ unacked s 3 = false ∧ inSafe s = false ∧ s.undo = none ∧ coreState s 0 = cIdle ∧ coreGood s 0 = true ∧
    SMap.erase s.mem.prog 0 (2 ^ 19) = [] ∧ s.mem.stkPoison = [0] := by decide +kernel

/-- Whatever codeword the access of line 0 fails at, the event leaves the cores fenced and the line marked. -/
theorem listAccess_mem (k : Nat) (e : Ecc) :
    (dramAccess 0 0 0 0 0 k e listAccess).mem.prog = [] ∧ (dramAccess 0 0 0 0 0 k e listAccess).mem.stkPoison = [0] := by
  obtain ⟨inj, fresh⟩ := listAccess_injected
  obtain ⟨again, none3, normal, kept, idle, good, held, mark⟩ := listAccess_escalates
  rw [dramAccess_injected (l := 0) inj rfl rfl (by decide) (by decide) fresh e, ← mark]
  exact raise_fences_mem rfl rfl rfl (show 20 ≤ lineDom 0 by decide) (show lineDom 0 < 256 by decide)
    (show 0x38 < 256 by decide) again none3 normal kept idle good held

/-- The engine's read of its list is delivered POISONED and leaves the program memory empty. -/
theorem unitRead_listLost : (unitRead 0 0 listLost).1.2 = true ∧ (unitRead 0 0 listLost).2.mem.prog = [] := by
  obtain ⟨region, reach, on, apart, fresh⟩ := listLost_reaches
  have read := readLine_performed reach (by decide) on apart true
  obtain ⟨prog, mark⟩ := listAccess_mem (foundError (reachLine 0 0 false listLost).2).1.2 (foundError (reachLine 0 0 false listLost).2).1.1
  dsimp only at read
  rw [show lineStack 0 = 0 from rfl, performRead_unmarked fresh] at read
  unfold unitRead unitLine
  rw [if_pos region, read]
  refine ⟨?_, ?_⟩
  · show linePoison _ 0 = true
    unfold linePoison
    exact (congrArg (NSet.has · 0) mark).trans rfl
  · exact (congrArg Mems.prog (trip_mem ..)).trans prog

theorem batchStart_of_running {c : CoreIx} {b : Batch} {s : State} (running : (core s c).running = some b) (waits : b.started = false) :
    exec (.batchStart c) s = .next (startBatch c b s) := by
  simp [exec_batchStart, execBatchStart, running, waits]

/-- Refutes O19: the list of a batch may read uncorrectable, in a channel whose domain still has an unacknowledged event. The event is then L3
(R389) and fences the cores (R393), so that the start of the batch leaves the program memory empty and not as it was. -/
theorem not_steepBatchesRun : ¬ Obligations.SteepBatchesRun := by
  unfold Obligations.SteepBatchesRun
  rintro ⟨-, batches⟩
  have running : (core listLost (0 : CoreIx)).running = some listBatch := by decide +kernel
  obtain ⟨poison, empty⟩ := unitRead_listLost
  obtain ⟨start, -⟩ := batches 0 0 listLost listBatch running
  obtain ⟨t, -, started, -, -, -, -, prog, -⟩ := start rfl
  obtain rfl : startBatch 0 listBatch listLost = t := Host.Outcome.next.inj ((batchStart_of_running running rfl).symm.trans started)
  have lost : (startBatch 0 listBatch listLost).mem.prog = [] :=
    (congrArg Mems.prog (startBatch_poisoned_mem (b := listBatch) rfl poison)).trans empty
  exact absurd (lost.symm.trans prog) (by decide)

/-! ### A suspect array while the network plane is held (R43, R371) -/

/-- While the network plane is held, firmware's write of a register of a core is denied. -/
theorem fwWrite_of_netHeld {f : Fld} {s : State} (held : netHeld s = true) (block : 0x600000 ≤ f.key / 8) (v : Nat) :
    fwWrite f v s = denied s := if_pos (domainDown_iff.2 (.inl ⟨block, held⟩))

theorem netHeld_denied (s : State) : netHeld (denied s) = netHeld s := by
  have minimal : get (denied s) F.MBX_CTL_MINIMAL = get s F.MBX_CTL_MINIMAL := get_bump_ne (by decide) s
  unfold netHeld flag
  rw [minimal]
  rfl

/-- The observation that the first miss of an array begins with a PROOF_WATCH entry (R402). -/
def firstWatch (s : State) (c : CoreIx) (a : ArrIx) (k : Nat) : Watch :=
  { core := c, arr := a, slot := actv s (F.ARR_CTL_SLOT c a), entry := k, till := get s F.TB_TICK_NUM_K + 100000 * coreDiv s c }

/-- While the network plane is held, the first miss of a suspect array is noted, but its PROOF_WATCH entry stays as it is. -/
theorem suspectObserve_of_netHeld {c : CoreIx} {a : ArrIx} {k : Nat} {s : State} (held : netHeld s = true)
    (suspect : flag s (F.ARR_STAT_SUSPECT c a) = true) (serves : actv s (F.ARR_CTL_SLOT c a) ≠ 0xFFF)
    (unseen : (s.fw.watches.any fun w => w.core == c.val && w.arr == a.val) = false) (free : freeWatch s c = some k) :
    exec (.suspectObserve c a) s =
      .next (updFw (fun f => { f with watches := f.watches ++ [firstWatch s c a k] }) (denied (denied s))) := by
  have slot : 0x600000 ≤ (F.PROOF_WATCH_SLOT c k).key / 8 := by
    simp only [F.PROOF_WATCH_SLOT]
    omega
  have en : 0x600000 ≤ (F.PROOF_WATCH_EN c k).key / 8 := by
    simp only [F.PROOF_WATCH_EN]
    omega
  have unwritten : fwWrite (F.PROOF_WATCH_EN c k) 1 (fwWrite (F.PROOF_WATCH_SLOT c k) (actv s (F.ARR_CTL_SLOT c a)) s) = denied (denied s) := by
    rw [fwWrite_of_netHeld held slot, fwWrite_of_netHeld ((netHeld_denied s).trans held) en]
  simp only [exec_suspectObserve, execSuspectObserve, suspect, serves, unseen, free, unwritten, firstWatch, Bool.not_true, Bool.false_or,
    decide_false, Bool.false_eq_true, if_false]

theorem get_denied_watchEn (c k : Nat) (s : State) : get (denied s) (F.PROOF_WATCH_EN c k) = get s (F.PROOF_WATCH_EN c k) := by
  refine get_bump_ne ?_ s
  simp only [F.PROOF_WATCH_EN, F.GLB_DENIED_CNT]
  omega

/-- A package that is shut down, so that its network plane is held; core 0 is IDLE, and its array 0, which serves slot 0, is SUSPECT. -/
def suspectAfterShut : State :=
  { setB (F.ARR_STAT_SUSPECT 0 0) true (setAct (F.ARR_CTL_SLOT 0 0) 0 (set (F.CORE_CTL_STATE_STATE 0) cIdle State.reset)) with
    fw := { State.reset.fw with phase := .shut } }

/-- Operands that the observation of a suspect array does not look at. -/
def noImg : ImgIn := { bytes := [], part := 0, src := { kind := 0, addr := 0 }, nonce := 0, key := 0, bases := [], dig := 0, stage := 0 }

def noModel : Model :=
  { handle := 0, golden := false, bound := false, counts := (0, 0, 0)
    img := { id := 0, digest := 0, part := 0, round := 0, rounds := 1, cores := [], partDigest := 0, dig := 0, src := noImg.src } }

theorem suspectAfterShut_held : netHeld suspectAfterShut = true ∧ flag suspectAfterShut (F.ARR_STAT_SUSPECT (0 : CoreIx) (0 : ArrIx)) = true ∧
    actv suspectAfterShut (F.ARR_CTL_SLOT (0 : CoreIx) (0 : ArrIx)) ≠ 0xFFF ∧ coreUp suspectAfterShut (0 : CoreIx) = true ∧
    freeWatch suspectAfterShut (0 : CoreIx) = some 0 ∧ get suspectAfterShut (F.PROOF_WATCH_EN (0 : CoreIx) 0) = 0 := by decide +kernel

/-- Refutes O54: the observation of a suspect array is claimed of every state in which its core is up, also while the network plane is held.
Then the first miss finds a free PROOF_WATCH entry, and firmware's write that would enable it is denied (R43, R371). -/
theorem not_modelsAdaptersAndWeightsAct : ¬ Obligations.ModelsAdaptersAndWeightsAct := by
  unfold Obligations.ModelsAdaptersAndWeightsAct
  rintro ⟨-, care⟩
  obtain ⟨held, suspect, serves, up, free, off⟩ := suspectAfterShut_held
  obtain ⟨-, -, -, -, -, -, observe, -⟩ := care 0 0 0 0 none { bytes := [], nonce := 0 } [] [] noModel 0 noImg suspectAfterShut
  obtain ⟨first, -⟩ := observe suspect serves
  obtain ⟨t, watched, -, enabled, -⟩ := first 0 rfl up free
  obtain rfl := Host.Outcome.next.inj ((suspectObserve_of_netHeld held suspect serves rfl free).symm.trans watched)
  have still : get (denied (denied suspectAfterShut)) (F.PROOF_WATCH_EN (0 : CoreIx) 0) = 0 :=
    (get_denied_watchEn ..).trans ((get_denied_watchEn ..).trans off)
  exact absurd (still.symm.trans enabled) (by decide)

end Sys2Proof.Machine

namespace Sys2Proof.Machine

/-! ### Vector instructions (R184) -/

/-- A vector instruction that issues has its effect and gives its signal. -/
theorem vecOp_of_issues {op : Nat} {i : Issue} {s : State} (f : Nat → Nat → State → State) (h : issues i 3 op (some .vec) s = true) :
    Host.Outcome.next (vecOp op f i s) = (.next (signal i.core.val (sigOf (curWord s i.core.val))
      (f i.core.val (curWord s i.core.val) (issued i s))) : Host.Outcome State Fault Refusal) :=
  congrArg _ (issue_always i 3 op _ _ s h)

/-- Settles O9: each of them is the issue of its operation on the vector unit. -/
theorem vectorInstructionsComplete : Obligations.VectorInstructionsComplete :=
  fun _ _ => ⟨vecOp_of_issues _, vecOp_of_issues _, vecOp_of_issues _, vecOp_of_issues _, vecOp_of_issues _, vecOp_of_issues _,
    vecOp_of_issues _, vecOp_of_issues _, vecOp_of_issues _, vecOp_of_issues _, vecOp_of_issues _⟩

/-! ### Two-operand vector instructions -/

theorem readRows_length (c u : Nat) (l : List Nat) (s : State) : (readRows c u l s).1.length = l.length := by
  induction l generalizing s with
  | nil => rfl
  | cons r l ih => exact congrArg Nat.succ (ih _)

/-- The FP32 values of the rows read. -/
theorem rowsF32_readRows (c u : Nat) (l : List Nat) (s : State) (bad : s.mem.spadBad = []) :
    rowsF32 (readRows c u l s).1 = l.map fun r => (rowBf (rowBytes s c r)).map bfToF32 := by
  have := congrArg (List.map fun b => (rowBf b).map bfToF32) (readRows_bytes c u l s bad)
  simpa [rowsF32, Function.comp_def] using this

/-- Rows written from row `d` on leave every byte outside them as it was. -/
theorem writeRows_frame (c d : Nat) (rows : List (List Byte × Bool)) (s : State) {a : Nat}
    (outside : a < rowAddr c d ∨ rowAddr c d + 512 * rows.length ≤ a) :
    rdByte (writeRows c d rows s).mem.spad a = rdByte s.mem.spad a := by
  refine writeRows_leaves (P := fun t => rdByte t.mem.spad a = rdByte s.mem.spad a) c d rows rfl fun i b t hi ht => ?_
  have start : rowAddr c (d + i) = rowAddr c d + 512 * i := by
    unfold rowAddr
    omega
  exact (writeRow_frame c (d + i) b.1 b.2 t (by omega)).trans ht

/-- The rows of the first operand, as a vector instruction reads them. -/
def srcA (c w : Nat) (s : State) : List (List Byte × Bool) × State := readRows c 4 (rowRange (vA w) (vN w)) s

/-- The rows of the second operand, read after those of the first. -/
def srcB (c w : Nat) (s : State) : List (List Byte × Bool) × State := readRows c 4 (rowRange (vB w) (vN w)) (srcA c w s).2

/-- The result rows of a two-operand instruction. -/
def vec2Rows (f : Nat → Nat → Nat) (c w : Nat) (s : State) : List (List Byte × Bool) :=
  ((zip2 f (rowsF32 (srcA c w s).1) (rowsF32 (srcB c w s).1)).map outRow).zip
    (((srcA c w s).1.zip (srcB c w s).1).map fun p => p.1.2 || p.2.2)

/-- All source rows are read before a result row is written (log entry 27). -/
theorem vec2_eq (f : Nat → Nat → Nat) (c w : Nat) (s : State) :
    vec2 f c w s = writeRows c (vD w) (vec2Rows f c w s) (srcB c w s).2 := rfl

theorem srcA_length (c w : Nat) (s : State) : (srcA c w s).1.length = vN w := by simp [srcA, readRows_length, rowRange]

theorem srcB_length (c w : Nat) (s : State) : (srcB c w s).1.length = vN w := by simp [srcB, readRows_length, rowRange]

theorem vec2Rows_length (f : Nat → Nat → Nat) (c w : Nat) (s : State) : (vec2Rows f c w s).length = vN w := by
  simp [vec2Rows, zip2, rowsF32, srcA_length, srcB_length]

section
variable (c w : Nat) {s : State} (bad : s.mem.spadBad = [])
include bad

theorem srcA_mem : (srcA c w s).2.mem = s.mem := readRows_mem _ _ _ _ bad

theorem rowsF32_srcA :
    rowsF32 (srcA c w s).1 = (rowRange (vA w) (vN w)).map fun r => (rowBf (rowBytes s c r)).map bfToF32 :=
  rowsF32_readRows _ _ _ _ bad

theorem rowsF32_srcB :
    rowsF32 (srcB c w s).1 = (rowRange (vB w) (vN w)).map fun r => (rowBf (rowBytes s c r)).map bfToF32 := by
  have mem := srcA_mem c w bad
  rw [srcB, rowsF32_readRows _ _ _ _ (by rw [mem, bad])]
  exact List.map_congr_left fun r _ => by rw [rowBytes_of_mem mem]

/-- Rows without marks and mismatches are read without effect. -/
theorem srcB_clean (unmarked : s.mem.spadPoison = []) : (srcB c w s).2 = s := by
  rw [srcB, srcA, readRows_clean c 4 (rowRange (vA w) (vN w)) s bad unmarked, readRows_clean _ _ _ _ bad unmarked]

end

theorem outRow_length (vs : List Nat) : (outRow vs).length = 512 := by
  simp only [outRow, bfRow, List.length_flatMap, natLe_length, List.map_const', List.length_range, List.sum_replicate_nat]

/-- Result row `k` of a two-operand instruction: `f` of the operands' elements, rounded once to BF16 (R184). -/
theorem vec2_row (f : Nat → Nat → Nat) (c w : Nat) (s : State) (bad : s.mem.spadBad = []) {k : Nat} (hk : k < vN w) :
    rowBytes (vec2 f c w s) c (vD w + k) = outRow ((((rowBf (rowBytes s c (vA w + k))).map bfToF32).zip
      ((rowBf (rowBytes s c (vB w + k))).map bfToF32)).map fun q => f q.1 q.2) := by
  have inside : k < (vec2Rows f c w s).length := by rwa [vec2Rows_length]
  have row : (vec2Rows f c w s)[k].1 = outRow ((((rowBf (rowBytes s c (vA w + k))).map bfToF32).zip
      ((rowBf (rowBytes s c (vB w + k))).map bfToF32)).map fun q => f q.1 q.2) := by
    simp [vec2Rows, zip2, rowsF32_srcA c w bad, rowsF32_srcB c w bad, rowRange]
  rw [vec2_eq, writeRows_row c (vD w) _ _ k inside (by rw [row, outRow_length]), row]

theorem rowBytes_signal (c : Nat) (o : Option Nat) (s : State) (d r : Nat) : rowBytes (signal c o s) d r = rowBytes s d r :=
  rowBytes_of_mem (signal_mem c o s) d r

/-- Settles O11: the result rows are those of the state in which the instruction takes its effect, whose memories are as before. -/
theorem addRowsHoldSums : Obligations.AddRowsHoldSums := by
  intro i s k c w quiet goes bad hk
  obtain ⟨add, -⟩ := vectorInstructionsComplete i s
  have mem := issued_mem s quiet
  refine ⟨_, add goes, ?_⟩
  rw [rowBytes_signal, vec2_row fadd _ _ _ (by rw [mem, bad]) hk, rowBytes_of_mem mem, rowBytes_of_mem mem]

/-- Without marks and mismatches a two-operand instruction changes its destination rows, their marks and its own core. -/
theorem vec2_frame (f : Nat → Nat → Nat) {i : Issue} {s : State} (quiet : errorFree i = true) (bad : s.mem.spadBad = [])
    (unmarked : s.mem.spadPoison = []) (o : Option Nat) :
    vecFrame i s (signal i.core.val o (vec2 f i.core.val (curWord s i.core.val) (issued i s))) := by
  have mem := issued_mem s quiet
  have eq := vec2_eq f i.core.val (curWord s i.core.val) (issued i s)
  rw [srcB_clean _ _ (by rw [mem, bad]) (by rw [mem, unmarked])] at eq
  have same : ∀ {β : Type} (p : State → β), (∀ r b m t, p (writeRow i.core.val r b m t) = p t) →
      p (vec2 f i.core.val (curWord s i.core.val) (issued i s)) = p (issued i s) := fun p h => by
    rw [eq]
    exact writeRows_same p _ _ _ _ h
  have regs : sameRegsBut [F.TB_TIME_TIME, F.SEQ_STAT_PC i.core.val] s (issued i s) := issued_regs s quiet (by simp) (by simp)
  refine ⟨fun x hx => ?_, fun x => ?_, ?_, ?_, ?_, ?_, fun d hd => ?_, ?_, ?_, ?_, ?_⟩
  · rw [signal_mem, eq, writeRows_frame _ _ _ _ (by rwa [vec2Rows_length]), mem]
  · rw [signal_mem, same (fun t => t.mem.stk) fun _ _ _ _ => rfl, mem]
  · rw [signal_mem, same (fun t => t.mem.prog) fun _ _ _ _ => rfl, mem]
  · rw [signal_mem, same (fun t => t.mem.cal) fun _ _ _ _ => rfl, mem]
  · rw [signal_mem, same (fun t => t.mem.wts) fun _ _ _ _ => rfl, mem]
  · exact regs.of_eq ((signal_regs ..).trans (same State.regs fun _ _ _ _ => rfl)) ((signal_act ..).trans (same State.act fun _ _ _ _ => rfl))
  · rw [core_signal_ne _ _ _ hd, same (core · d) fun _ _ _ _ => core_writeRow_ne _ _ _ _ _ hd, core_issued_ne s quiet hd]
  · rw [signal_ports, same State.ports fun _ _ _ _ => rfl, issued_ports s quiet]
  · rw [signal_stks, same State.stks fun _ _ _ _ => rfl, issued_stks s quiet]
  · rw [signal_fw, same State.fw fun _ _ _ _ => rfl, issued_fw s quiet]
  · rw [signal_flt, same State.flt fun _ _ _ _ => rfl, issued_flt s quiet]

/-- Settles O10: each of the four is a two-operand instruction. -/
theorem twoOperandVectorFrame : Obligations.TwoOperandVectorFrame := by
  intro i s quiet bad unmarked
  obtain ⟨add, sub, mul, -, -, max, -⟩ := vectorInstructionsComplete i s
  exact ⟨fun h => ⟨_, add h, vec2_frame fadd quiet bad unmarked _⟩, fun h => ⟨_, sub h, vec2_frame fsub quiet bad unmarked _⟩,
    fun h => ⟨_, mul h, vec2_frame fmul quiet bad unmarked _⟩, fun h => ⟨_, max h, vec2_frame fmaxLow quiet bad unmarked _⟩⟩

end Sys2Proof.Machine

namespace Sys2Proof.Machine

/-! ### FIRE and the move instructions (R182, R186) -/

theorem coreFrame.mono {c : Nat} {fs gs : List Fld} {s t : State} (h : coreFrame c fs s t) (sub : fs ⊆ gs) : coreFrame c gs s t :=
  ⟨h.1, fun g hg => h.2.1 g fun f hf => hg f (sub hf), h.2.2⟩

theorem signal_coreFrame (c : Nat) (o : Option Nat) (fs : List Fld) (s : State) : coreFrame c fs s (signal c o s) :=
  ⟨signal_mem .., (sameRegsBut.refl fs s).of_eq (signal_regs ..) (signal_act ..), fun _ hd => core_signal_ne c o s hd⟩

/-- Until an instruction without soft error takes its effect, the program counter and the time base have moved. -/
theorem issued_coreFrame {i : Issue} (quiet : errorFree i = true) (s : State) :
    coreFrame i.core.val [F.TB_TIME_TIME, F.SEQ_STAT_PC i.core.val] s (issued i s) :=
  ⟨issued_mem s quiet, issued_regs s quiet (by simp) (by simp), fun _ hd => core_issued_ne s quiet hd⟩

theorem addOp_coreFrame (c : Nat) (u : CUnit) (k : OpKind) (o : Option Nat) (l : Nat) (fs : List Fld) (s : State) :
    coreFrame c fs s (addOp c u k o l s).2 := .updCore c fs _ s

theorem fire_coreFrame (c w : Nat) (fs : List Fld) (s : State) : coreFrame c fs s (fire c w s) :=
  (addOp_coreFrame c ..).trans (.updCore c fs _ _)

/-- FIRE queues its firings behind those of its core and takes a number. -/
theorem core_fire (c w : Nat) (s : State) :
    (core (fire c w s) c).firings = (core s c).firings ++ fireFirings w (pcOf s c - 1) (core s c).nextOp ∧
      (core (fire c w s) c).nextOp = (core s c).nextOp + 1 := by
  simp [fire, addOp]

/-- Settles O12: FIRE and the move instructions are issued without a condition of their own. -/
theorem fireAndMoveInstructionsComplete : Obligations.FireAndMoveInstructionsComplete := by
  intro i s c w u held behind queued
  have goes : issues i 1 0 (some .fire) s = true → exec (.fire i) s = .next (fire c w u) :=
    fun h => congrArg _ (issue_always i 1 0 _ _ s h)
  refine ⟨goes, fun quiet h => ⟨_, goes h, ?_⟩, fun h => ?_, fun h => ?_, fun h => ?_, fun h => ?_, fun h => ?_⟩
  · obtain ⟨queues, number⟩ := core_fire c w u
    obtain ⟨v, a, same⟩ := core_issued_same s quiet
    obtain ⟨mem, regs, others⟩ := (issued_coreFrame quiet s).trans (fire_coreFrame c w _ u)
    refine ⟨queues.trans ?_, number.trans ?_, mem, regs, others⟩
    · rw [same]
    · rw [same]
  · exact congrArg _ (issue_always i 4 0 _ _ s h)
  · exact congrArg _ (issue_always i 4 1 _ _ s h)
  · exact congrArg _ (issue_always i 4 2 _ _ s h)
  · exact congrArg _ (issue_always i 4 3 _ _ s h)
  · exact congrArg _ (issue_always i 4 4 _ _ s h)

end Sys2Proof.Machine

namespace Sys2Proof.Machine

/-! ### END and illegal words (R179, R180) -/

theorem issuing_congr {s t : State} (regs : t.regs = s.regs) (cores : t.cores = s.cores) (c : Nat) : issuing t c = issuing s c := by
  unfold issuing coreRuns coreState
  rw [get_of_regs regs, get_of_regs regs, core_of_cores cores]

/-- An instruction that issues is of its class and operation, and its core issues. -/
theorem issues_spec {i : Issue} {cls op : Nat} {u : Option CUnit} {s : State} (h : issues i cls op u s = true) :
    issuing s i.core.val = true ∧ iClass (curWord s i.core.val) = cls ∧ iOp (curWord s i.core.val) = op := by
  obtain ⟨regs, -, cores, -⟩ := applyUpset_spec i s
  simp only [issues, Bool.and_eq_true, beq_iff_eq, curWord_applyUpset, issuing_congr regs cores] at h
  obtain ⟨⟨⟨⟨⟨⟨goes, -⟩, -⟩, cls⟩, op⟩, -⟩, -⟩ := h
  exact ⟨goes, cls, op⟩

theorem applyUpset_none {i : Issue} (h : i.upset = none) (s : State) : applyUpset i s = s := by simp [applyUpset, h]

/-- A core that issues is not draining. -/
theorem phase_of_issuing {s : State} {c : Nat} (h : issuing s c = true) : get s (F.SEQ_STAT_PHASE_ST c) = 1 := by
  simp only [issuing, Bool.and_eq_true, beq_iff_eq] at h
  obtain ⟨⟨-, phase⟩, -⟩ := h
  exact phase

theorem exec_endOp_of_issues {i : Issue} {s : State} (h : issues i 0 0 none s = true) :
    exec (.endOp i) s = .next (endBody i.core.val (curWord s i.core.val) (issued i s)) := by
  obtain ⟨goes, -, -⟩ := issues_spec h
  rw [exec_endOp, execEndOp, if_neg (by simp [phase_of_issuing goes]), issue_always _ _ _ _ _ _ h]

/-- Whether every earlier instruction has completed does not hang on the issue of END. -/
theorem allDone_issued {i : Issue} (quiet : errorFree i = true) (s : State) :
    allDone (issued i s) i.core.val = allDone s i.core.val := by
  obtain ⟨v, a, same⟩ := core_issued_same s quiet
  simp only [allDone, same]

/-- An END that drains already retires when all has completed. -/
theorem exec_endOp_drained {i : Issue} {s : State} (runs : coreState s i.core.val = 3) (drains : get s (F.SEQ_STAT_PHASE_ST i.core.val) = 2)
    (done : allDone s i.core.val = true) : exec (.endOp i) s = .next (signal i.core.val
      (sigOf (progWord s i.core.val (actv s (F.SEQ_CTL_BANK i.core.val)) (pcOf s i.core.val - 1)))
      (set (F.SEQ_STAT_PHASE_ST i.core.val) 3 s)) := by
  simp [exec_endOp, execEndOp, coreRuns, runs, drains, done, cRunning]

section
variable {i : Issue} {s : State} (goes : issuing (applyUpset i s) i.core.val = true)
include goes

theorem exec_illegalInstruction_past (past : (core (applyUpset i s) i.core.val).pastEnd = true) :
    exec (.illegalInstruction i) s = .next (illegalStop i.core.val true false (applyUpset i s)) := by
  simp [exec_illegalInstruction, execIllegalInstruction, goes, past]

/-- A word that is illegal without a corrected error stops issue. -/
theorem exec_illegalInstruction_word (inside : (core (applyUpset i s) i.core.val).pastEnd = false)
    (ill : wordIllegal i (applyUpset i s) = true) (ecc : i.ecc ≠ .corrected) :
    exec (.illegalInstruction i) s = .next (illegalStop i.core.val false (i.ecc == .uncorrectable) (applyUpset i s)) := by
  simp [exec_illegalInstruction, execIllegalInstruction, goes, inside, ill, ecc]

/-- Without a soft error the core stops as at the end of the bank, or as at an illegal encoding. -/
theorem exec_illegalInstruction_clean (ecc : i.ecc = .clean)
    (ill : (core (applyUpset i s) i.core.val).pastEnd = true ∨ wordIllegal i (applyUpset i s) = true) :
    exec (.illegalInstruction i) s =
      .next (illegalStop i.core.val (core (applyUpset i s) i.core.val).pastEnd false (applyUpset i s)) := by
  cases past : (core (applyUpset i s) i.core.val).pastEnd with
  | true => exact exec_illegalInstruction_past goes past
  | false =>
    rw [exec_illegalInstruction_word goes past (ill.resolve_left (by simp [past])) (by simp [ecc]), ecc]
    rfl

end

/-! ### Registers written one after the other -/

/-- Fields take their values one after the other. -/
def setAll (l : List (Fld × Nat)) (s : State) : State := each l (fun p => set p.1 p.2) s

theorem setAll_mem (l : List (Fld × Nat)) (s : State) : (setAll l s).mem = s.mem :=
  each_same State.mem l (f := fun p => set p.1 p.2) (fun _ _ => rfl) s

theorem setAll_mesh (l : List (Fld × Nat)) (s : State) : (setAll l s).mesh = s.mesh :=
  each_same State.mesh l (f := fun p => set p.1 p.2) (fun _ _ => rfl) s

theorem setAll_cores (l : List (Fld × Nat)) (s : State) : (setAll l s).cores = s.cores :=
  each_same State.cores l (f := fun p => set p.1 p.2) (fun _ _ => rfl) s

theorem setAll_regs {l : List (Fld × Nat)} {fs : List Fld} (h : ∀ p ∈ l, p.1 ∈ fs) (s : State) : sameRegsBut fs s (setAll l s) := by
  induction l generalizing s with
  | nil => exact .refl fs s
  | cons a l ih => exact ((sameRegsBut.refl fs s).set (h a (by simp)) a.2).trans (ih (fun p hp => h p (by simp [hp])) _)

/-- Different fields each take their value. -/
theorem get_setAll {l : List (Fld × Nat)} (apart : l.Pairwise fun p r => p.1.key ≠ r.1.key) {p : Fld × Nat} (hp : p ∈ l) (s : State) :
    get (setAll l s) p.1 = p.2 % 2 ^ p.1.width := by
  induction l generalizing s with
  | nil => exact absurd hp List.not_mem_nil
  | cons a l ih =>
    obtain ⟨first, rest⟩ := List.pairwise_cons.1 apart
    rcases List.mem_cons.1 hp with rfl | hl
    · have later : ∀ f ∈ l.map Prod.fst, p.1.key ≠ f.key := by simpa using fun f v h => first (f, v) h
      exact ((setAll_regs (fun _ => List.mem_map_of_mem) _) p.1 later).1.trans (get_set_same ..)
    · exact ih rest hl _

/-! ### The record of an illegal instruction -/

/-- What the sequencer writes when an instruction is illegal (R180). -/
def illWrites (c : Nat) (past : Bool) (s : State) : List (Fld × Nat) :=
  [(F.SEQ_ILLEGAL_CNT c, min (get s (F.SEQ_ILLEGAL_CNT c) + 1) (2 ^ 64 - 1)), (F.SEQ_ILL_PC c, if past then 0x3FFF else pcOf s c),
    (F.SEQ_ILL_BANK c, actv s (F.SEQ_CTL_BANK c)), (F.SEQ_ILL_PAST c, if past then 1 else 0), (F.SEQ_ILL_VALID c, 1)]

theorem illWrites_apart (c : Nat) (past : Bool) (s : State) : (illWrites c past s).Pairwise fun p r => p.1.key ≠ r.1.key := by
  simp [illWrites, F.SEQ_ILLEGAL_CNT, F.SEQ_ILL_PC, F.SEQ_ILL_BANK, F.SEQ_ILL_PAST, F.SEQ_ILL_VALID]

/-- The state in which an illegal instruction is reported. -/
def illNoted (c : Nat) (past : Bool) (s : State) : State := updCore c (fun k => { k with illegal := true }) (setAll (illWrites c past s) s)

/-- The report of an illegal encoding reaches the fault collector alone: its source does not escalate. -/
theorem illegalStop_flt (c : CoreIx) (past : Bool) (s : State) : FltOnly (illNoted c past s) (illegalStop c past false s) :=
  raise_flt _ _ rfl (show 1 ≤ 1 by decide) rfl (Nat.lt_trans c.isLt (by decide)) (show 0x33 < 256 by decide)

/-- The registers of the record are read back after the report. -/
theorem get_illegalStop (c : CoreIx) (past : Bool) (s : State) :
    ∀ p ∈ illWrites c past s, get (illegalStop c past false s) p.1 = p.2 % 2 ^ p.1.width := by
  intro p hp
  have outside : 0x1806000 ≤ p.1.key := by
    simp only [illWrites, List.mem_cons, List.not_mem_nil, or_false] at hp
    rcases hp with rfl | rfl | rfl | rfl | rfl <;>
      simp only [F.SEQ_ILLEGAL_CNT, F.SEQ_ILL_PC, F.SEQ_ILL_BANK, F.SEQ_ILL_PAST, F.SEQ_ILL_VALID] <;> omega
  exact ((illegalStop_flt c past s).2 p.1 (.inr outside)).trans (get_setAll (illWrites_apart ..) hp s)

theorem issuing_illegalStop (c : CoreIx) (past : Bool) (s : State) : issuing (illegalStop c past false s) c = false := by
  simp [issuing, (illegalStop_flt c past s).core, illNoted]

/-- Settles O14: END and the three ways in which issue stops, each by what its command does, and the record of an illegal instruction by what
is written before its report. -/
theorem issueOfATickEnds : Obligations.IssueOfATickEnds := by
  refine ⟨fun i s => ⟨exec_endOp_of_issues, fun h done quiet => ?_, fun h left quiet => ?_, exec_endOp_drained⟩,
    fun i s goes => ⟨exec_illegalInstruction_past goes, fun inside ecc => ?_, fun inside ecc ill => ?_⟩, fun i s up ecc goes ill => ?_⟩
  · rw [exec_endOp_of_issues h, endBody, allDone_issued quiet, if_pos done]
  · rw [exec_endOp_of_issues h, endBody, allDone_issued quiet, if_neg (by simp [left])]
  · rw [exec_illegalInstruction_word goes inside (by simp [wordIllegal, ecc]) (by simp [ecc]), ecc]
    rfl
  · rw [exec_illegalInstruction_clean goes ecc (.inr ill), inside]
  · rw [← applyUpset_none up s] at goes ill
    have stops := exec_illegalInstruction_clean goes ecc ill
    rw [applyUpset_none up s] at stops
    obtain ⟨count, pc, -, past, valid, -⟩ := by
      simpa only [illWrites, List.forall_mem_cons] using get_illegalStop i.core (core s i.core.val).pastEnd s
    have flt := illegalStop_flt i.core (core s i.core.val).pastEnd s
    refine ⟨_, stops, issuing_illegalStop .., pc.trans ?_, past.trans ?_, valid, count, flt.mem.trans (setAll_mem ..),
      flt.mesh.trans (setAll_mesh ..), fun d hd => ?_⟩
    · split <;> rfl
    · split <;> rfl
    · rw [flt.core, illNoted, core_updCore_ne hd, core_of_cores (setAll_cores ..)]

end Sys2Proof.Machine

namespace Sys2Proof.Machine

/-! ### Window writes (R197, Table 6.12) -/

/-- The oldest window write that waits at a core is judged. -/
theorem exec_windowWriteLanding_of_first {c : CoreIx} {s : State} {p : Packet} {w : WinWrite} {rest : List Packet}
    (first : takeFirst (fun p => p.arrived && p.pos == c.val && match p.body with | .winWrite _ => true | _ => false) s.mesh = some (p, rest))
    (body : p.body = .winWrite w) : exec (.windowWriteLanding c) s = .next (judgeLanding c p w { s with mesh := rest }) := by
  rw [exec_windowWriteLanding]
  unfold execWindowWriteLanding
  dsimp only
  split
  · next r found =>
    obtain rfl : (p, rest) = r := Option.some.inj (first.symm.trans found)
    simp only [body]
  · next found => exact nomatch first.symm.trans found

theorem judgeLanding_refused {c : Nat} {w : WinWrite} {s : State} {x : Nat × Fld × (Nat → Fld)} (h : landCheck s c w = some x) (p : Packet) :
    judgeLanding c p w s = refuseLanding c p.src x.1 w x.2.1 x.2.2 s := by simp only [judgeLanding, h]

theorem judgeLanding_lands {c : Nat} {w : WinWrite} {s : State} (h : landCheck s c w = none) (p : Packet) :
    judgeLanding c p w s = land c w (p.poison || (w.sched && inGuard s c)) (when (w.sched && inGuard s c) (bump F.TB_GUARD_LATE_CNT) s) := by
  simp only [judgeLanding, h]

/-- The count of a window after a write has landed. -/
def landedCount (c : Nat) (w : WinWrite) (s : State) : Nat := min (get s (F.SPAD_WIN_COUNT c w.win) + 1) 0x1FFFF

/-- What the landing of a write writes: its row, the core's count and the window's. -/
def landNoted (c : Nat) (w : WinWrite) (poison : Bool) (s : State) : State :=
  setAll [(F.CORE_CTL_LAND_CNT c, min (get s (F.CORE_CTL_LAND_CNT c) + 1) (2 ^ 64 - 1)), (F.SPAD_WIN_COUNT c w.win, landedCount c w s)]
    (updCore c (fun k => { k with landed := (w.win, w.ofs, w.data, poison) :: k.landed.filter fun x => !(x.1 == w.win && x.2.1 == w.ofs) }) s)

/-- Beyond them it counts the write that its window did not expect. -/
theorem land_eq (c : Nat) (w : WinWrite) (poison : Bool) (s : State) : land c w poison s =
    when (decide (get s (F.SPAD_WIN_EXPECT c w.win) < landedCount c w s)) (bump (F.SPAD_WIN_EXCESS_CNT c)) (landNoted c w poison s) := rfl

theorem when_bump_coreFrame (c : Nat) (b : Bool) {f : Fld} {fs : List Fld} (hf : f ∈ fs) (s : State) :
    coreFrame c fs s (when b (bump f) s) :=
  when_keeps (P := coreFrame c fs s) b (.refl c fs s) fun _ ht => ht.trans (.set hf _ _)

theorem when_bump_same (b : Bool) (f : Fld) (s : State) : (when b (bump f) s).cores = s.cores ∧ (when b (bump f) s).mesh = s.mesh := by
  cases b <;> exact ⟨rfl, rfl⟩

theorem landNoted_coreFrame (c : Nat) (w : WinWrite) (poison : Bool) (s : State) :
    coreFrame c [F.SPAD_WIN_COUNT c w.win, F.CORE_CTL_LAND_CNT c] s (landNoted c w poison s) :=
  ((coreFrame.updCore c _ _ s).trans (.set (by simp) _ _)).trans (.set (by simp) _ _)

theorem get_landNoted (c : CoreIx) (w : WinWrite) (poison : Bool) (s : State) :
    get (landNoted c w poison s) (F.SPAD_WIN_COUNT c w.win) = landedCount c w s ∧
      get (landNoted c w poison s) (F.CORE_CTL_LAND_CNT c) = min (get s (F.CORE_CTL_LAND_CNT c) + 1) (2 ^ 64 - 1) % 2 ^ 64 := by
  have apart : (F.CORE_CTL_LAND_CNT c).key ≠ (F.SPAD_WIN_COUNT c w.win).key := by
    simp only [F.CORE_CTL_LAND_CNT, F.SPAD_WIN_COUNT]
    omega
  refine ⟨(get_set_same ..).trans (Nat.mod_eq_of_lt ?_), (get_set_ne apart ..).trans (get_set_same ..)⟩
  show min (get s (F.SPAD_WIN_COUNT c w.win) + 1) 0x1FFFF < 0x20000
  omega

/-- The landing of a write in a window of its core. -/
theorem land_spec (c : CoreIx) (w : WinWrite) (poison : Bool) (s : State) :
    (core (land c w poison s) c).landed =
      (w.win, w.ofs, w.data, poison) :: (core s c).landed.filter (fun x => !(x.1 == w.win && x.2.1 == w.ofs)) ∧
    get (land c w poison s) (F.SPAD_WIN_COUNT c w.win) = landedCount c w s ∧
    get (land c w poison s) (F.CORE_CTL_LAND_CNT c) = min (get s (F.CORE_CTL_LAND_CNT c) + 1) (2 ^ 64 - 1) % 2 ^ 64 ∧
    (land c w poison s).mesh = s.mesh ∧
    coreFrame c [F.SPAD_WIN_COUNT c w.win, F.CORE_CTL_LAND_CNT c, F.SPAD_WIN_EXCESS_CNT c] s (land c w poison s) := by
  rw [land_eq]
  generalize decide (get s (F.SPAD_WIN_EXPECT c w.win) < landedCount c w s) = excess
  have last := when_bump_coreFrame c excess (List.mem_singleton.2 rfl : F.SPAD_WIN_EXCESS_CNT c ∈ [F.SPAD_WIN_EXCESS_CNT c])
    (landNoted c w poison s)
  obtain ⟨cores, mesh⟩ := when_bump_same excess (F.SPAD_WIN_EXCESS_CNT c) (landNoted c w poison s)
  obtain ⟨count, total⟩ := get_landNoted c w poison s
  have ⟨_, kept, _⟩ := last
  refine ⟨?_, (kept _ ?_).1.trans count, (kept _ ?_).1.trans total, mesh,
    ((landNoted_coreFrame c w poison s).mono (by simp)).trans (last.mono (by simp))⟩
  · rw [core_of_cores cores, landNoted, core_of_cores (setAll_cores ..), core_updCore_same]
  · simp only [List.mem_singleton, forall_eq, F.SPAD_WIN_COUNT, F.SPAD_WIN_EXCESS_CNT]
    omega
  · simp only [List.mem_singleton, forall_eq, F.CORE_CTL_LAND_CNT, F.SPAD_WIN_EXCESS_CNT]
    omega

/-- The landing of a write in a window of its core, when one that comes late has been counted. -/
theorem land_late_spec (c : CoreIx) (w : WinWrite) (poison late : Bool) (s : State) :
    let t := land c w poison (when late (bump F.TB_GUARD_LATE_CNT) s)
    (core t c).landed = (w.win, w.ofs, w.data, poison) :: (core s c).landed.filter (fun x => !(x.1 == w.win && x.2.1 == w.ofs)) ∧
    get t (F.SPAD_WIN_COUNT c w.win) = min (get s (F.SPAD_WIN_COUNT c w.win) + 1) 0x1FFFF ∧
    get t (F.CORE_CTL_LAND_CNT c) = min (get s (F.CORE_CTL_LAND_CNT c) + 1) (2 ^ 64 - 1) % 2 ^ 64 ∧ t.mesh = s.mesh ∧
    coreFrame c [F.TB_GUARD_LATE_CNT, F.SPAD_WIN_COUNT c w.win, F.CORE_CTL_LAND_CNT c, F.SPAD_WIN_EXCESS_CNT c] s t := by
  have guard := when_bump_coreFrame c late (List.mem_singleton.2 rfl : F.TB_GUARD_LATE_CNT ∈ [F.TB_GUARD_LATE_CNT]) s
  obtain ⟨cores, mesh⟩ := when_bump_same late F.TB_GUARD_LATE_CNT s
  obtain ⟨landed, count, total, mesh', frame⟩ := land_spec c w poison (when late (bump F.TB_GUARD_LATE_CNT) s)
  have ahead : ∀ f : Fld, 0x8000000 ≤ f.key → get (when late (bump F.TB_GUARD_LATE_CNT) s) f = get s f := by
    intro f hf
    obtain ⟨-, kept, -⟩ := guard
    refine (kept f ?_).1
    simp only [List.mem_singleton, forall_eq, F.TB_GUARD_LATE_CNT]
    omega
  refine ⟨landed.trans ?_, count.trans ?_, total.trans ?_, mesh'.trans mesh, (guard.mono (by simp)).trans (frame.mono (by simp))⟩
  · rw [core_of_cores cores]
  · rw [landedCount, ahead _ (by simp only [F.SPAD_WIN_COUNT]; omega)]
  · rw [ahead _ (by simp only [F.CORE_CTL_LAND_CNT]; omega)]

/-! ### Refused window writes -/

theorem place_calm (p : Packet) (s : State) : calm s (place p s) := by
  unfold place
  split <;> exact ⟨rfl, rfl, rfl, rfl⟩

theorem inject_calm (p : Packet) (s : State) : calm s (inject p s) :=
  (calm.when _ (fun t => .when _ (fun _ => set_calm ..) t) s).trans (place_calm p _)

theorem askNack_calm (p : Nat) (x : Cell) (status : Nat) (s : State) : calm s (askNack p x status s) := by
  unfold askNack
  split
  · exact .refl s
  split
  · exact ⟨rfl, rfl, rfl, rfl⟩
  · exact set_calm ..

/-- A refused window write moves no memory and no core. -/
theorem refuseLanding_calm (c src status : Nat) (w : WinWrite) (f : Fld) (pf : Nat → Fld) (s : State) :
    calm s (refuseLanding c src status w f pf s) := by
  unfold refuseLanding
  dsimp only
  split
  · exact ((set_calm f _ s).trans (set_calm _ _ _)).trans (askNack_calm ..)
  · exact (set_calm f _ s).trans (inject_calm ..)

/-- Settles O24: the oldest write of the core lands or is refused, as the check of Table 6.12 says; the check reads registers alone. -/
theorem windowWritesLandOrAreRefused : Obligations.WindowWritesLandOrAreRefused := by
  intro c s p w rest isWrite late first body
  have judged := exec_windowWriteLanding_of_first first body
  refine ⟨fun passes _ => ?_, fun st f pf refused => ?_, fun x refused => ?_⟩
  · rw [judgeLanding_lands (s := { s with mesh := rest }) passes] at judged
    obtain ⟨landed, count, total, mesh, frame⟩ := land_late_spec c w (p.poison || late) late { s with mesh := rest }
    exact ⟨_, judged, mesh, landed, count, total, frame⟩
  · exact judged.trans (congrArg _ (judgeLanding_refused (s := { s with mesh := rest }) refused p))
  · rw [judgeLanding_refused (s := { s with mesh := rest }) refused] at judged
    obtain ⟨mem, cores, -, -⟩ := refuseLanding_calm c p.src x.1 w x.2.1 x.2.2 { s with mesh := rest }
    exact ⟨_, judged, mem, cores⟩

end Sys2Proof.Machine

namespace Sys2Proof.Machine

/-! ### The accumulator's queue (R177, R178, R183) -/

section
variable {c w : Nat} {s : State} (noneBefore : ((core s c).ops.any fun o => o.unit == .acc) = false)
include noneBefore

/-- An instruction that finds none before it in the accumulator's queue is alone there. -/
theorem unitLoad_accQueued : unitLoad (addOp c .acc (.acc w) (sigOf w) 1 s).2 c .acc = 1 := by
  have others : ((core s c).ops.filter fun o => o.unit == .acc) = [] := List.filter_eq_nil_iff.2 (by simpa using noneBefore)
  simp [unitLoad, addOp, List.filter_append, others]

variable (paid : ((core s c).firings.any fun f => owes f && accNames w f.par.accSet) = false)
include paid

/-- It is ready when no firing has still to accumulate into one of its sets. -/
theorem accReady_accQueued : accReady (addOp c .acc (.acc w) (sigOf w) 1 s).2 c = some ((core s c).nextOp, w) := by
  have others : ((core s c).ops.find? fun o => o.unit == .acc) = none := List.find?_eq_none.2 (by simpa using noneBefore)
  have earlier : ((core s c).firings.any fun f => owes f && decide (f.par.op < (core s c).nextOp) && accNames w f.par.accSet) = false := by
    simp only [List.any_eq_false, Bool.and_eq_true] at paid ⊢
    exact fun f hf ⟨⟨owed, _⟩, named⟩ => paid f hf ⟨owed, named⟩
  simp [accReady, addOp, others, earlier]

/-- Then it takes its effect at once. -/
theorem accIssue_free :
    accIssue c w s = opDone c (core s c).nextOp (accRun c w (addOp c .acc (.acc w) (sigOf w) 1 s).2) := by
  unfold accIssue
  dsimp only
  rw [unitLoad_accQueued noneBefore, accDrain, accReady_accQueued noneBefore paid]
  rfl

end

/-! ### ACC_CLEAR -/

theorem accSet_putSet (c n m : Nat) (a : AccSet) (s : State) : accSet (putSet c n a s) c m = if m = n then a else accSet s c m := by
  rw [accSet, putSet, core_updCore_same]
  exact SMap.get_put ..

/-- The first `n` sets that an instruction names are emptied. -/
theorem accSet_clearSets (c w m n : Nat) (s : State) : accSet (upTo n (fun k => putSet c (accIx w k) AccSet.empty) s) c m =
    if ∃ k, k < n ∧ m = accIx w k then AccSet.empty else accSet s c m := by
  induction n with
  | zero => simp [upTo]
  | succ n ih =>
    rw [upTo_succ, accSet_putSet, ih]
    by_cases last : m = accIx w n
    · rw [if_pos last, if_pos ⟨n, by omega, last⟩]
    · have named : (∃ k, k < n + 1 ∧ m = accIx w k) ↔ ∃ k, k < n ∧ m = accIx w k := by
        refine ⟨fun ⟨k, hk, e⟩ => ⟨k, ?_, e⟩, fun ⟨k, hk, e⟩ => ⟨k, Nat.lt_succ_of_lt hk, e⟩⟩
        rcases Nat.lt_succ_iff_lt_or_eq.1 hk with hlt | rfl
        · exact hlt
        · exact absurd e last
      simp only [if_neg last, named]

theorem accRun_clear {c w : Nat} (op : iOp w = 3) (s : State) :
    accRun c w s = upTo (accN w) (fun k => putSet c (accIx w k) AccSet.empty) s := by
  rw [accRun, if_neg (by omega), if_neg (by omega)]

theorem accRun_clear_coreFrame {c w : Nat} (op : iOp w = 3) (fs : List Fld) (s : State) : coreFrame c fs s (accRun c w s) := by
  rw [accRun_clear op]
  exact upTo_keeps (P := coreFrame c fs s) _ (.refl c fs s) fun _ _ ht => ht.trans (.updCore c fs _ _)

/-- The end of a part of an instruction changes the core's signals and its outstanding instructions. -/
theorem opDone_coreFrame (c id : Nat) (fs : List Fld) (s : State) : coreFrame c fs s (opDone c id s) := by
  unfold opDone
  split
  · exact .refl c fs s
  split
  · exact (coreFrame.updCore c fs _ s).trans (signal_coreFrame ..)
  · exact .updCore c fs _ s

theorem accSet_signal (c : Nat) (o : Option Nat) (s : State) (n : Nat) : accSet (signal c o s) c n = accSet s c n := by
  unfold accSet
  rw [core_signal_same]
  cases o <;> rfl

theorem accSet_opDone (c id : Nat) (s : State) (n : Nat) : accSet (opDone c id s) c n = accSet s c n := by
  unfold opDone
  split
  · rfl
  split
  · rw [accSet_signal, accSet, dropOp, core_updCore_same]
    rfl
  · rw [accSet, core_updCore_same]
    rfl

theorem accSet_addOp (c : Nat) (u : CUnit) (k : OpKind) (o : Option Nat) (l : Nat) (s : State) (n : Nat) :
    accSet (addOp c u k o l s).2 c n = accSet s c n := by
  rw [accSet, addOp, core_updCore_same]
  rfl

theorem accSet_issued {i : Issue} (quiet : errorFree i = true) (s : State) (n : Nat) :
    accSet (issued i s) i.core.val n = accSet s i.core.val n := by
  obtain ⟨v, a, same⟩ := core_issued_same s quiet
  rw [accSet, same]
  rfl

/-- ACC_CLEAR empties the sets it names and leaves the others. -/
theorem accSet_cleared {i : Issue} {s : State} (quiet : errorFree i = true) {w id : Nat} (op : iOp w = 3) (m : Nat) :
    accSet (opDone i.core.val id (accRun i.core.val w (addOp i.core.val .acc (.acc w) (sigOf w) 1 (issued i s)).2)) i.core.val m =
      if ∃ k, k < accN w ∧ m = accIx w k then AccSet.empty else accSet s i.core.val m := by
  rw [accSet_opDone, accRun_clear op, accSet_clearSets, accSet_addOp, accSet_issued quiet]

end Sys2Proof.Machine

namespace Sys2Proof.Machine

/-! ### Windows (R187, R195) -/

/-- The registers that WIN OPEN gives a window. -/
def openWrites (c w : Nat) (s : State) : List (Fld × Nat) :=
  let n := bits w 32 6
  [(F.SPAD_WIN_BASE c n, bits w 38 15), (F.SPAD_WIN_SIZE_M1 c n, bits w 53 15), (F.SPAD_WIN_EXPECT c n, bits w 68 17),
    (F.SPAD_WIN_GEN c n, if bit w 101 then (tickK s c + bits w 85 16) % 2 ^ 16 else bits w 85 16),
    (F.SPAD_WIN_AUTO c n, if bit w 102 then 1 else 0), (F.SPAD_WIN_SEAL_PEND c n, 0), (F.SPAD_WIN_SHORT c n, 0),
    (F.SPAD_WIN_COUNT c n, 0), (F.SPAD_WIN_STATE c n, 1)]

theorem openWrites_apart (c w : Nat) (s : State) : (openWrites c w s).Pairwise fun p r => p.1.key ≠ r.1.key := by
  simp [openWrites, F.SPAD_WIN_BASE, F.SPAD_WIN_SIZE_M1, F.SPAD_WIN_EXPECT, F.SPAD_WIN_GEN, F.SPAD_WIN_AUTO, F.SPAD_WIN_SEAL_PEND,
    F.SPAD_WIN_SHORT, F.SPAD_WIN_COUNT, F.SPAD_WIN_STATE]

/-- An OPEN window that is opened again is counted. -/
def reopened (c n : Nat) (s : State) : State := if get s (F.SPAD_WIN_STATE c n) = 1 then bump (F.SPAD_WIN_REOPEN_CNT c) s else s

theorem reopened_spec (c n : Nat) (s : State) : (reopened c n s).mem = s.mem ∧ (reopened c n s).cores = s.cores := by
  unfold reopened
  split <;> exact ⟨rfl, rfl⟩

theorem winOpen_eq (c w : Nat) (s : State) :
    winOpen c w s = showWins c (dropLanded c (bits w 32 6) (setAll (openWrites c w s) (reopened c (bits w 32 6) s))) := rfl

theorem showWins_coreFrame (c : Nat) (s : State) : coreFrame c [F.SPAD_STAT_N_OPEN c, F.SPAD_STAT_N_HELD c] s (showWins c s) :=
  (coreFrame.set (by simp) _ s).trans (.set (by simp) _ _)

/-- Nothing that landed in a window remains when it is dropped. -/
theorem landed_dropLanded (c n : Nat) (s : State) : ((core (dropLanded c n s) c).landed.all fun x => x.1 != n) = true := by
  rw [dropLanded, core_updCore_same]
  exact List.all_eq_true.2 fun x hx => (List.mem_filter.1 hx).2

theorem dropLanded_mem (c n : Nat) (s : State) : (dropLanded c n s).mem = s.mem := rfl

theorem get_dropLanded (c n : Nat) (s : State) (f : Fld) : get (dropLanded c n s) f = get s f := get_updCore ..

theorem landed_signal (c : Nat) (o : Option Nat) (s : State) : (core (signal c o s) c).landed = (core s c).landed := by
  rw [core_signal_same]
  cases o <;> rfl

/-- A field of an opened window reads what the instruction says. -/
theorem get_winOpen (c w : Nat) (s : State) : ∀ p ∈ openWrites c w s, get (winOpen c w s) p.1 = p.2 % 2 ^ p.1.width := by
  intro p hp
  have apart : ∀ f ∈ [F.SPAD_STAT_N_OPEN c, F.SPAD_STAT_N_HELD c], p.1.key ≠ f.key := by
    have above : 0x8108000 + c * 0x800000 ≤ p.1.key := by
      simp only [openWrites, List.mem_cons, List.not_mem_nil, or_false] at hp
      rcases hp with rfl | rfl | rfl | rfl | rfl | rfl | rfl | rfl | rfl <;>
        simp only [F.SPAD_WIN_BASE, F.SPAD_WIN_SIZE_M1, F.SPAD_WIN_EXPECT, F.SPAD_WIN_GEN, F.SPAD_WIN_AUTO, F.SPAD_WIN_SEAL_PEND,
          F.SPAD_WIN_SHORT, F.SPAD_WIN_COUNT, F.SPAD_WIN_STATE] <;> omega
    simp only [List.mem_cons, List.not_mem_nil, or_false, forall_eq_or_imp, forall_eq, F.SPAD_STAT_N_OPEN, F.SPAD_STAT_N_HELD]
    omega
  obtain ⟨-, shown, -⟩ := showWins_coreFrame c
    (dropLanded c (bits w 32 6) (setAll (openWrites c w s) (reopened c (bits w 32 6) s)))
  rw [winOpen_eq, (shown p.1 apart).1, get_dropLanded]
  exact get_setAll (openWrites_apart c w s) hp _

theorem bits_mod (v lo w : Nat) : bits v lo w % 2 ^ w = bits v lo w := Nat.mod_mod ..

/-- WIN OPEN changes registers of its core and what has landed there. -/
theorem winOpen_leaves (c w : Nat) (s : State) : (winOpen c w s).mem = s.mem ∧ ∀ d, d ≠ c → core (winOpen c w s) d = core s d := by
  obtain ⟨mem, cores⟩ := reopened_spec c (bits w 32 6) s
  obtain ⟨shownMem, -, shownCores⟩ := showWins_coreFrame c
    (dropLanded c (bits w 32 6) (setAll (openWrites c w s) (reopened c (bits w 32 6) s)))
  rw [winOpen_eq]
  refine ⟨?_, fun d hd => ?_⟩
  · rw [shownMem, dropLanded_mem, setAll_mem, mem]
  · rw [shownCores d hd, dropLanded, core_updCore_ne hd, core_of_cores (setAll_cores ..), core_of_cores cores]

theorem landed_winOpen (c w : Nat) (s : State) : ((core (winOpen c w s) c).landed.all fun x => x.1 != bits w 32 6) = true := by
  rw [winOpen_eq, showWins, core_set, core_set]
  exact landed_dropLanded ..

theorem winSeal_coreFrame (c w : Nat) (s : State) : coreFrame c [F.SPAD_WIN_SEAL_PEND c (bits w 32 6)] s (winSeal c w s) :=
  when_keeps (P := coreFrame c _ s) _ (.refl c _ s) fun _ ht => ht.trans (.set (by simp) _ _)

theorem get_winSeal {c w : Nat} {s : State} (opened : get s (F.SPAD_WIN_STATE c (bits w 32 6)) = 1) :
    get (winSeal c w s) (F.SPAD_WIN_SEAL_PEND c (bits w 32 6)) = 1 := by
  rw [winSeal, opened]
  exact get_setB_same ..

theorem winClose_coreFrame (c w : Nat) (s : State) : coreFrame c [F.SPAD_WIN_SEAL_PEND c (bits w 32 6), F.SPAD_WIN_STATE c (bits w 32 6),
    F.SPAD_STAT_N_OPEN c, F.SPAD_STAT_N_HELD c] s (winClose c w s) :=
  (((coreFrame.set (by simp) _ s).trans (.set (by simp) _ _)).trans (.updCore c _ _ _)).trans ((showWins_coreFrame c _).mono (by simp))

theorem get_winClose (c w : Nat) (s : State) : get (winClose c w s) (F.SPAD_WIN_STATE c (bits w 32 6)) = 0 ∧
    get (winClose c w s) (F.SPAD_WIN_SEAL_PEND c (bits w 32 6)) = 0 := by
  obtain ⟨-, shown, -⟩ := showWins_coreFrame c
    (dropLanded c (bits w 32 6) (setB (F.SPAD_WIN_SEAL_PEND c (bits w 32 6)) false (set (F.SPAD_WIN_STATE c (bits w 32 6)) 0 s)))
  refine ⟨(shown _ ?_).1.trans ((get_dropLanded ..).trans ((get_setB_ne ?_ ..).trans (get_set_same ..))),
    (shown _ ?_).1.trans ((get_dropLanded ..).trans (get_setB_same ..))⟩
  · simp only [List.mem_cons, List.not_mem_nil, or_false, forall_eq_or_imp, forall_eq, F.SPAD_STAT_N_OPEN, F.SPAD_STAT_N_HELD, F.SPAD_WIN_STATE]
    omega
  · simp only [F.SPAD_WIN_STATE, F.SPAD_WIN_SEAL_PEND]
    omega
  · simp only [List.mem_cons, List.not_mem_nil, or_false, forall_eq_or_imp, forall_eq, F.SPAD_STAT_N_OPEN, F.SPAD_STAT_N_HELD, F.SPAD_WIN_SEAL_PEND]
    omega

/-! ### A wait that reaches its deadline (R188) -/

/-- The end of an unmet wait at its deadline. -/
def waitTimedOut (c w deadline : Nat) (s : State) : State :=
  signal c (sigOf w) (updCore c (fun k => { k with outPoison := true }) (bump (F.SEQ_WAIT_TMO_CNT c) (moveTo deadline s)))

theorem moveTo_coreFrame (c x : Nat) (s : State) : coreFrame c [F.TB_TIME_TIME] s (moveTo x s) :=
  ⟨moveTo_mem .., (sameRegsBut.refl _ s).moveTo (by simp) x, fun d _ => core_moveTo ..⟩

theorem waitTimedOut_coreFrame (c w deadline : Nat) (s : State) :
    coreFrame c [F.TB_TIME_TIME, F.SEQ_WAIT_TMO_CNT c] s (waitTimedOut c w deadline s) :=
  ((((moveTo_coreFrame c deadline s).mono (by simp)).trans (.set (by simp) _ _)).trans (.updCore c _ _ _)).trans (signal_coreFrame ..)

theorem outPoison_signal (c : Nat) (o : Option Nat) (s : State) : (core (signal c o s) c).outPoison = (core s c).outPoison := by
  rw [core_signal_same]
  cases o <;> rfl

/-- The timeout is counted, outputs carry POISONED from then on, and it does not come before the deadline. -/
theorem waitTimedOut_spec (c w deadline : Nat) (s : State) : (core (waitTimedOut c w deadline s) c).outPoison = true ∧
    get (waitTimedOut c w deadline s) (F.SEQ_WAIT_TMO_CNT c) = min (get s (F.SEQ_WAIT_TMO_CNT c) + 1) (2 ^ 64 - 1) % 2 ^ 64 ∧
    (deadline < 2 ^ 64 → deadline ≤ now (waitTimedOut c w deadline s)) := by
  have apart : (F.SEQ_WAIT_TMO_CNT c).key ≠ F.TB_TIME_TIME.key := by
    simp only [F.SEQ_WAIT_TMO_CNT, F.TB_TIME_TIME]
    omega
  have regs : ∀ f, get (waitTimedOut c w deadline s) f = get (bump (F.SEQ_WAIT_TMO_CNT c) (moveTo deadline s)) f := get_of_regs (signal_regs ..)
  refine ⟨?_, ?_, fun h => ?_⟩
  · rw [waitTimedOut, outPoison_signal, core_updCore_same]
  · rw [regs, get_bump_same, get_moveTo_ne apart]
    rfl
  · rw [now, regs, get_bump_ne apart.symm]
    exact le_now_moveTo h s

/-- The wait at the program counter ends at its deadline when its condition does not hold then. -/
theorem exec_waitDeadline_unmet {i : Issue} {s : State} (quiet : errorFree i = true)
    (h : issues i 6 (iOp (curWord s i.core.val)) none s = true) (unmet : waitMet s i.core.val (curWord s i.core.val) = false)
    (has : bits (curWord s i.core.val) 55 16 ≠ 0)
    (within : (core s i.core.val).tickStart + 4 * bits (curWord s i.core.val) 55 16 < tickEnd s i.core.val) :
    exec (.waitDeadline i) s = .next (waitTimedOut i.core.val (curWord s i.core.val)
      ((core s i.core.val).tickStart + 4 * bits (curWord s i.core.val) 55 16) (issued i s)) := by
  have none : i.upset = none := by
    simp only [errorFree, Bool.and_eq_true, Option.isNone_iff_eq_none] at quiet
    exact quiet.2
  refine congrArg _ (issue_eq i 6 _ _ _ _ s h ?_)
  rw [applyUpset_none none]
  simp [unmet, has, within]

end Sys2Proof.Machine

namespace Sys2Proof.Machine

/-! ### The instructions of the core's units, from their issue on -/

theorem get_signal (c : Nat) (o : Option Nat) (s : State) (f : Fld) : get (signal c o s) f = get s f := get_of_regs (signal_regs ..) f

section
variable {i : Issue} {s : State}

theorem exec_promote_of_issues (h : issues i 2 1 (some .acc) s = true) :
    exec (.promote i) s = .next (accIssue i.core.val (curWord s i.core.val) (issued i s)) := congrArg _ (issue_always i 2 1 _ _ s h)

theorem exec_emit_of_issues (h : issues i 2 2 (some .acc) s = true) :
    exec (.emit i) s = .next (accIssue i.core.val (curWord s i.core.val) (issued i s)) := congrArg _ (issue_always i 2 2 _ _ s h)

theorem exec_accClear_of_issues (h : issues i 2 3 (some .acc) s = true) :
    exec (.accClear i) s = .next (accIssue i.core.val (curWord s i.core.val) (issued i s)) := congrArg _ (issue_always i 2 3 _ _ s h)

theorem exec_winOpen_of_issues (h : issues i 5 0 none s = true) : exec (.winOpen i) s =
    .next (signal i.core.val (sigOf (curWord s i.core.val)) (winOpen i.core.val (curWord s i.core.val) (issued i s))) :=
  congrArg _ (issue_always i 5 0 _ _ s h)

theorem exec_winSeal_of_issues (h : issues i 5 1 none s = true) : exec (.winSeal i) s =
    .next (signal i.core.val (sigOf (curWord s i.core.val)) (winSeal i.core.val (curWord s i.core.val) (issued i s))) :=
  congrArg _ (issue_always i 5 1 _ _ s h)

theorem exec_winClose_of_issues (h : issues i 5 2 none s = true) : exec (.winClose i) s =
    .next (signal i.core.val (sigOf (curWord s i.core.val)) (winClose i.core.val (curWord s i.core.val) (issued i s))) :=
  congrArg _ (issue_always i 5 2 _ _ s h)

theorem exec_waitEvt_met (h : issues i 6 0 none s = true) (met : waitEvtMet (applyUpset i s) i.core.val (curWord s i.core.val) = true) :
    exec (.waitEvt i) s = .next (signal i.core.val (sigOf (curWord s i.core.val)) (issued i s)) :=
  congrArg _ (issue_eq i 6 0 none (fun s w => waitEvtMet s i.core w) _ s h met)

theorem exec_waitWin_met (h : issues i 6 1 none s = true) (met : waitWinMet (applyUpset i s) i.core.val (curWord s i.core.val) = true) :
    exec (.waitWin i) s = .next (signal i.core.val (sigOf (curWord s i.core.val)) (issued i s)) :=
  congrArg _ (issue_eq i 6 1 none (fun s w => waitWinMet s i.core w) _ s h met)

variable (quiet : errorFree i = true)
include quiet

/-- What an ACC_CLEAR that runs at once leaves of its core and of the rest. -/
theorem accClear_coreFrame {w id : Nat} (op : iOp w = 3) : coreFrame i.core.val [F.TB_TIME_TIME, F.SEQ_STAT_PC i.core.val] s
    (opDone i.core.val id (accRun i.core.val w (addOp i.core.val .acc (.acc w) (sigOf w) 1 (issued i s)).2)) :=
  (((issued_coreFrame quiet s).trans (addOp_coreFrame ..)).trans (accRun_clear_coreFrame op _ _)).trans (opDone_coreFrame ..)

theorem winSeal_issued_coreFrame (w : Nat) (o : Option Nat) :
    coreFrame i.core.val [F.TB_TIME_TIME, F.SEQ_STAT_PC i.core.val, F.SPAD_WIN_SEAL_PEND i.core.val (bits w 32 6)] s
      (signal i.core.val o (winSeal i.core.val w (issued i s))) :=
  (coreFrame.trans ((issued_coreFrame quiet s).mono (by simp)) ((winSeal_coreFrame _ w _).mono (by simp))).trans (signal_coreFrame ..)

theorem winClose_issued_coreFrame (w : Nat) (o : Option Nat) :
    coreFrame i.core.val [F.TB_TIME_TIME, F.SEQ_STAT_PC i.core.val, F.SPAD_WIN_SEAL_PEND i.core.val (bits w 32 6),
      F.SPAD_WIN_STATE i.core.val (bits w 32 6), F.SPAD_STAT_N_OPEN i.core.val, F.SPAD_STAT_N_HELD i.core.val] s
      (signal i.core.val o (winClose i.core.val w (issued i s))) :=
  (coreFrame.trans ((issued_coreFrame quiet s).mono (by simp)) ((winClose_coreFrame _ w _).mono (by simp))).trans (signal_coreFrame ..)

theorem waitTimedOut_issued_coreFrame (w deadline : Nat) :
    coreFrame i.core.val [F.TB_TIME_TIME, F.SEQ_STAT_PC i.core.val, F.SEQ_WAIT_TMO_CNT i.core.val] s
      (waitTimedOut i.core.val w deadline (issued i s)) :=
  coreFrame.trans ((issued_coreFrame quiet s).mono (by simp)) ((waitTimedOut_coreFrame _ w deadline _).mono (by simp))

/-- The registers of a core above its program counter are as before when an instruction takes its effect. -/
theorem get_issued {f : Fld} (above : 0x8080800 + i.core.val * 0x800000 ≤ f.key) : get (issued i s) f = get s f := by
  obtain ⟨-, regs, -⟩ := issued_coreFrame quiet s
  refine (regs f ?_).1
  simp only [List.mem_cons, List.not_mem_nil, or_false, forall_eq_or_imp, forall_eq, F.TB_TIME_TIME, F.SEQ_STAT_PC]
  omega

end

/-- Settles O13: what each instruction is issued with, and the effects of ACC_CLEAR, of the window instructions and of a wait's deadline. -/
theorem coreUnitInstructionsComplete : Obligations.CoreUnitInstructionsComplete := by
  refine ⟨?_, ?_, ?_, ?_⟩
  · intro i s c w u free runs
    have atOnce : free → (.next (accIssue c w u) : Host.Outcome State Fault Refusal) = .next runs := fun ⟨noneBefore, paid⟩ =>
      congrArg _ (accIssue_free noneBefore paid)
    refine ⟨fun h => congrArg _ (issue_always i 3 0xA _ _ s h), fun h => ⟨exec_promote_of_issues h, fun goes => ?_⟩,
      fun h => ⟨exec_emit_of_issues h, fun goes => ?_⟩, fun h => ⟨exec_accClear_of_issues h, fun goes => ?_⟩, fun h quiet goes => ?_⟩
    · exact (exec_promote_of_issues h).trans (atOnce goes)
    · exact (exec_emit_of_issues h).trans (atOnce goes)
    · exact (exec_accClear_of_issues h).trans (atOnce goes)
    · obtain ⟨-, -, op⟩ := issues_spec h
      have sets := accSet_cleared (s := s) (id := (core u c).nextOp) quiet op
      exact ⟨_, (exec_accClear_of_issues h).trans (atOnce goes), fun k hk => (sets _).trans (if_pos ⟨k, hk, rfl⟩),
        fun m hm => (sets m).trans (if_neg fun ⟨k, hk, e⟩ => hm k hk e), accClear_coreFrame quiet op⟩
  · intro i s c w u held behind queued
    exact ⟨fun h => congrArg _ (issue_always i 7 0 _ _ s h), fun h => congrArg _ (issue_always i 7 1 _ _ s h),
      fun h => congrArg _ (issue_always i 7 2 _ _ s h), fun h => congrArg _ (issue_always i 8 0 _ _ s h),
      fun h => congrArg _ (issue_always i 8 1 _ _ s h)⟩
  · intro i s c w n
    refine ⟨exec_winOpen_of_issues, exec_winSeal_of_issues, exec_winClose_of_issues, fun quiet h => ⟨_, exec_winOpen_of_issues h, ?_⟩,
      fun quiet h => ⟨_, exec_winSeal_of_issues h, ?_⟩, fun quiet h => ⟨_, exec_winClose_of_issues h, ?_⟩⟩
    · obtain ⟨base, size, expect, -, -, pend, short, count, state, -⟩ := by
        simpa only [openWrites, List.forall_mem_cons] using get_winOpen c w (issued i s)
      obtain ⟨mem, others⟩ := winOpen_leaves c w (issued i s)
      simp only [get_signal, signal_mem]
      refine ⟨state, base.trans (bits_mod ..), size.trans (bits_mod ..), expect.trans (bits_mod ..), count, pend, short, ?_,
        mem.trans (issued_mem s quiet), fun d hd => ?_⟩
      · rw [landed_signal]
        exact landed_winOpen ..
      · rw [core_signal_ne _ _ _ hd, others d hd, core_issued_ne s quiet hd]
    · refine ⟨fun opened => (get_signal ..).trans (get_winSeal ((get_issued quiet ?_).trans opened)),
        winSeal_issued_coreFrame quiet w _⟩
      simp only [F.SPAD_WIN_STATE]
      omega
    · obtain ⟨state, pend⟩ := get_winClose c w (issued i s)
      exact ⟨(get_signal ..).trans state, (get_signal ..).trans pend, winClose_issued_coreFrame quiet w _⟩
  · intro i s c w
    refine ⟨exec_waitEvt_met, exec_waitWin_met, fun quiet h unmet has within => ?_⟩
    obtain ⟨poison, count, late⟩ := waitTimedOut_spec c w ((core s c).tickStart + 4 * bits w 55 16) (issued i s)
    obtain ⟨mem, regs, -⟩ := waitTimedOut_issued_coreFrame (s := s) quiet w ((core s c).tickStart + 4 * bits w 55 16)
    refine ⟨_, exec_waitDeadline_unmet quiet h unmet has within, poison, count.trans ?_, late, mem, regs⟩
    rw [get_issued quiet (by simp only [F.SEQ_WAIT_TMO_CNT]; omega)]

end Sys2Proof.Machine

namespace Sys2Proof.Machine

/-! ### Flags and frames of registers -/

theorem flag_of_get {s : State} {f : Fld} (h : get s f = 1) : flag s f = true := beq_iff_eq.2 h

theorem flag_of_get_zero {s : State} {f : Fld} (h : get s f = 0) : flag s f = false := by simp [flag, h]

theorem sameRegsBut.mono {fs gs : List Fld} {s t : State} (h : sameRegsBut fs s t) (sub : fs ⊆ gs) : sameRegsBut gs s t :=
  fun g hg => h g fun f hf => hg f (sub hf)

/-! ### The proof draw of a new tick (R111) -/

/-- What a draw leaves: beside the count of draws that were skipped, only the draw that the core keeps changes. -/
structure DrawFrame (c : Nat) (s t : State) : Prop where
  frame : coreFrame c [F.PROOF_SKIP_ZERO_CNT c] s t
  mesh : t.mesh = s.mesh
  core : ∃ n x, core t c = { core s c with draws := n, drawn := x }

theorem DrawFrame.refl (c : Nat) (s : State) : DrawFrame c s s := ⟨.refl .., rfl, _, _, rfl⟩

theorem DrawFrame.trans {c : Nat} {r s t : State} (h : DrawFrame c r s) (k : DrawFrame c s t) : DrawFrame c r t := by
  obtain ⟨n, x, hc⟩ := h.core
  obtain ⟨m, y, kc⟩ := k.core
  exact ⟨h.frame.trans k.frame, k.mesh.trans h.mesh, m, y, by rw [kc, hc]⟩

theorem DrawFrame.skipCounted (c : Nat) (s : State) : DrawFrame c s (bump (F.PROOF_SKIP_ZERO_CNT c) s) :=
  ⟨.set (by simp) _ s, rfl, _, _, rfl⟩

/-- A change of the draw that the core keeps. -/
theorem DrawFrame.updCore {c : Nat} {f : CoreSt → CoreSt} (h : ∀ k, ∃ n x, f k = { k with draws := n, drawn := x }) (s : State) :
    DrawFrame c s (updCore c f s) := by
  obtain ⟨n, x, hf⟩ := h (Machine.core s c)
  exact ⟨.updCore .., rfl, n, x, (core_updCore_same ..).trans hf⟩

theorem skipDraw_drawFrame (c : Nat) (s : State) : DrawFrame c s (skipDraw c s) :=
  (DrawFrame.updCore (fun _ => ⟨_, _, rfl⟩) s).trans (.skipCounted ..)

theorem drawFire_drawFrame (c bank pc : Nat) (s : State) : DrawFrame c s (drawFire c bank pc s) := by
  have counted := DrawFrame.updCore (c := c) (f := fun k => { k with draws := k.draws + 1 }) (fun _ => ⟨_, _, rfl⟩) s
  unfold drawFire
  split
  · exact .refl c s
  · dsimp only
    split
    · exact counted.trans (.updCore (fun _ => ⟨_, _, rfl⟩) _)
    · exact counted.trans (.skipCounted ..)

/-! ### The start of a tick (R176) -/

/-- Phase of the tick numbered `k`. -/
def tickPhase (s : State) (c k : Nat) : Nat := k % (get s (F.SEQ_BANK_DESC_NPHASE_M1 c (actv s (F.SEQ_CTL_BANK c))) + 1)

/-- Program index of the entry of that phase. -/
def tickEntry (s : State) (c k : Nat) : Nat := get s (F.SEQ_PHASE_ENTRY c (actv s (F.SEQ_CTL_BANK c)) (tickPhase s c k))

/-- What SEQ_STAT takes at the start of the tick numbered `k`. -/
def tickWrites (c k : Nat) (s : State) : List (Fld × Nat) :=
  [(F.SEQ_STAT_BANK_ACT c, actv s (F.SEQ_CTL_BANK c)), (F.SEQ_STAT_PHASE c, tickPhase s c k), (F.SEQ_STAT_PC c, tickEntry s c k),
    (F.SEQ_STAT_PHASE_ST c, 1)]

theorem tickWrites_apart (c k : Nat) (s : State) : (tickWrites c k s).Pairwise fun p r => p.1.key ≠ r.1.key := by
  simp [tickWrites, F.SEQ_STAT_BANK_ACT, F.SEQ_STAT_PHASE, F.SEQ_STAT_PC, F.SEQ_STAT_PHASE_ST]

/-- The registers that the start of a tick writes. -/
def tickFields (c : Nat) : List Fld :=
  [F.SEQ_STAT_BANK_ACT c, F.SEQ_STAT_PHASE c, F.SEQ_STAT_PC c, F.SEQ_STAT_PHASE_ST c, F.SEQ_TICK_CNT c, F.PROOF_SKIP_ZERO_CNT c]

theorem tickWrites_fields (c k : Nat) (s : State) : ∀ p ∈ tickWrites c k s, p.1 ∈ tickFields c := by simp [tickWrites, tickFields]

/-- In `v` the core runs the tick numbered `k`, which it started at instant `t` at the entry that `s` names, with its events cleared. -/
def InTick (k t c : Nat) (s v : State) : Prop :=
  coreState v c = 3 ∧ get v (F.SEQ_STAT_PC c) = tickEntry s c k % 2 ^ 14 ∧ get v (F.SEQ_STAT_PHASE_ST c) = 1 ∧ (core v c).evt = [] ∧
    (core v c).tickNum = k ∧ (core v c).tickStart = t ∧ (core v c).outRows = [] ∧ (core v c).illegal = false

/-- A core at the start of the tick numbered `k` at instant `t`. -/
def freshCore (k t : Nat) (x : CoreSt) : CoreSt :=
  { x with evt := [], tickStart := t, tickNum := k, illegal := false, pastEnd := false, outPoison := false, noStore := false, outRows := [] }

/-- The start of a tick, before its draw. -/
def freshTick (c k t : Nat) (s : State) : State := bump (F.SEQ_TICK_CNT c) (setAll (tickWrites c k s) (updCore c (freshCore k t) s))

/-- The draw of a firing of the new tick ends its start; an open draw is skipped before it. -/
theorem startTick_drawFrame (c k t : Nat) (s : State) : DrawFrame c (freshTick c k t s) (startTick c k t s) := by
  have skipped : DrawFrame c (freshTick c k t s) (when (core s c).drawn.isSome (skipDraw c) (freshTick c k t s)) :=
    when_keeps (P := DrawFrame c _) _ (.refl ..) fun u hu => hu.trans (skipDraw_drawFrame c u)
  exact skipped.trans (drawFire_drawFrame ..)

theorem startTick_coreFrame (c k t : Nat) (s : State) : coreFrame c (tickFields c) s (startTick c k t s) := by
  have written : coreFrame c (tickFields c) (updCore c (freshCore k t) s) (setAll (tickWrites c k s) (updCore c (freshCore k t) s)) :=
    ⟨setAll_mem .., setAll_regs (tickWrites_fields c k s) _, fun d _ => core_of_cores (setAll_cores ..) d⟩
  have fresh : coreFrame c (tickFields c) s (freshTick c k t s) :=
    ((coreFrame.updCore ..).trans written).trans (.set (by simp [tickFields]) _ _)
  exact fresh.trans ((startTick_drawFrame c k t s).frame.mono (by simp [tickFields]))

theorem startTick_mesh (c k t : Nat) (s : State) : (startTick c k t s).mesh = s.mesh :=
  (startTick_drawFrame c k t s).mesh.trans (setAll_mesh (tickWrites c k s) (updCore c (freshCore k t) s))

/-- SEQ_STAT reads what the start of the tick writes there. -/
theorem get_startTick (c k t : Nat) (s : State) : ∀ p ∈ tickWrites c k s, get (startTick c k t s) p.1 = p.2 % 2 ^ p.1.width := by
  intro p hp
  have below : p.1.key < (F.SEQ_TICK_CNT c).key ∧ p.1.key < (F.PROOF_SKIP_ZERO_CNT c).key := by
    simp only [tickWrites, List.mem_cons, List.not_mem_nil, or_false] at hp
    rcases hp with rfl | rfl | rfl | rfl <;>
      simp only [F.SEQ_STAT_BANK_ACT, F.SEQ_STAT_PHASE, F.SEQ_STAT_PC, F.SEQ_STAT_PHASE_ST, F.SEQ_TICK_CNT, F.PROOF_SKIP_ZERO_CNT] <;> omega
  obtain ⟨count, skip⟩ := below
  obtain ⟨-, regs, -⟩ := (startTick_drawFrame c k t s).frame
  rw [(regs p.1 (by simpa using Nat.ne_of_lt skip)).1, freshTick, get_bump_ne (Nat.ne_of_lt count)]
  exact get_setAll (tickWrites_apart c k s) hp _

/-- The core itself is fresh but for its draw. -/
theorem core_startTick (c k t : Nat) (s : State) :
    ∃ n x, core (startTick c k t s) c = { freshCore k t (core s c) with draws := n, drawn := x } := by
  obtain ⟨n, x, hc⟩ := (startTick_drawFrame c k t s).core
  refine ⟨n, x, hc.trans ?_⟩
  rw [freshTick, core_bump, core_of_cores (setAll_cores ..), core_updCore_same]

/-! ### A core at its boundary (Table 6.19) -/

/-- The core has noted the boundary that starts tick `k` at instant `t`. -/
def atBoundary (k t c : Nat) (s : State) : State :=
  updCore c (fun x => { x with tickStart := t, tickNum := k, lastRows := x.outRows, outRows := [] }) s

/-- The core has taken a waiting RUN. -/
def ranAtBoundary (k t c : Nat) (s : State) : State :=
  setB (F.CORE_CTL_STATE_RUN_PEND c) false (setCoreState c cRunning (atBoundary k t c s))

/-- The core has taken a waiting STOP. -/
def stoppedAtBoundary (k t c : Nat) (s : State) : State :=
  atBoundary k t c s |> setB (F.CORE_CTL_STATE_STOP_PEND c) false |> setCoreState c cIdle |> set (F.SEQ_STAT_PHASE_ST c) 0

theorem coreState_atBoundary (k t c d : Nat) (s : State) : coreState (atBoundary k t c s) d = coreState s d := rfl

theorem coreState_ranAtBoundary (k t c : Nat) (s : State) : coreState (ranAtBoundary k t c s) c = 3 :=
  (get_setB_ne (by simp only [F.CORE_CTL_STATE_STATE, F.CORE_CTL_STATE_RUN_PEND]; omega) ..).trans (get_set_same ..)

theorem coreState_stoppedAtBoundary (k t c : Nat) (s : State) : coreState (stoppedAtBoundary k t c s) c = 2 :=
  (get_set_ne (by simp only [F.CORE_CTL_STATE_STATE, F.SEQ_STAT_PHASE_ST]; omega) ..).trans (get_set_same ..)

/-- The core has taken the command that waits for the boundary. -/
def commandTaken (k t c : Nat) (s : State) : State :=
  if coreState s c = cIdle && flag s (F.CORE_CTL_STATE_RUN_PEND c) then ranAtBoundary k t c s
  else if coreRuns s c && flag s (F.CORE_CTL_STATE_STOP_PEND c) then stoppedAtBoundary k t c s
  else atBoundary k t c s

theorem coreTick_eq (k t c : Nat) (s : State) : coreTick k t c s =
    if coreRuns (commandTaken k t c s) c then startTick c k t (commandTaken k t c s) else commandTaken k t c s := rfl

section
variable {k t c : Nat} {s : State}

/-- A RUNNING core without a waiting STOP starts the tick. -/
theorem coreTick_running (runs : coreState s c = 3) (on : flag s (F.CORE_CTL_STATE_STOP_PEND c) = false) :
    coreTick k t c s = startTick c k t (atBoundary k t c s) := by
  have taken : commandTaken k t c s = atBoundary k t c s := by simp [commandTaken, runs, on, cIdle]
  rw [coreTick_eq, taken, if_pos (by simp [coreRuns, coreState_atBoundary, runs, cRunning])]

/-- RUN takes effect, and the tick starts. -/
theorem coreTick_run (idle : coreState s c = 2) (run : flag s (F.CORE_CTL_STATE_RUN_PEND c) = true) :
    coreTick k t c s = startTick c k t (ranAtBoundary k t c s) := by
  have taken : commandTaken k t c s = ranAtBoundary k t c s := by simp [commandTaken, idle, run, cIdle]
  rw [coreTick_eq, taken, if_pos (by simp [coreRuns, coreState_ranAtBoundary, cRunning])]

/-- STOP takes effect. -/
theorem coreTick_stop (runs : coreState s c = 3) (stop : flag s (F.CORE_CTL_STATE_STOP_PEND c) = true) :
    coreTick k t c s = stoppedAtBoundary k t c s := by
  have taken : commandTaken k t c s = stoppedAtBoundary k t c s := by simp [commandTaken, coreRuns, runs, stop, cIdle, cRunning]
  rw [coreTick_eq, taken, if_neg (by simp [coreRuns, coreState_stoppedAtBoundary, cRunning])]

/-- What the start of the tick gives the core, where the state that starts it differs from the one before the boundary below the sequencer's
phase tables alone. -/
theorem startTick_starts {u : State} (runs : coreState u c = 3) (act : u.act = s.act)
    (regs : ∀ g : Fld, (F.SEQ_BANK_DESC_NPHASE_M1 c 0).key ≤ g.key → get u g = get s g) :
    InTick k t c s (startTick c k t u) := by
  have phase : tickPhase u c k = tickPhase s c k := by
    rw [tickPhase, actv_of_act act, regs _ (by simp only [F.SEQ_BANK_DESC_NPHASE_M1]; omega), tickPhase]
  have entry : tickEntry u c k = tickEntry s c k := by
    rw [tickEntry, phase, actv_of_act act, regs _ (by simp only [F.SEQ_BANK_DESC_NPHASE_M1, F.SEQ_PHASE_ENTRY]; omega), tickEntry]
  obtain ⟨-, -, pc, st, -⟩ := by simpa only [tickWrites, List.forall_mem_cons] using get_startTick c k t u
  obtain ⟨-, kept, -⟩ := startTick_coreFrame c k t u
  obtain ⟨n, x, hc⟩ := core_startTick c k t u
  refine ⟨(kept _ ?_).1.trans runs, entry ▸ pc, st, ?_⟩
  · simp only [tickFields, List.forall_mem_cons, F.CORE_CTL_STATE_STATE, F.SEQ_STAT_BANK_ACT, F.SEQ_STAT_PHASE, F.SEQ_STAT_PC, F.SEQ_STAT_PHASE_ST,
      F.SEQ_TICK_CNT, F.PROOF_SKIP_ZERO_CNT]
    refine ⟨?_, ?_, ?_, ?_, ?_, ?_, by simp⟩ <;> omega
  · rw [hc]
    exact ⟨rfl, rfl, rfl, rfl, rfl⟩

end

/-- Memories, the mesh and the other cores are as before. -/
def coreAlone (c : Nat) (s t : State) : Prop := t.mem = s.mem ∧ t.mesh = s.mesh ∧ ∀ d, d ≠ c → core t d = core s d

theorem startTick_coreAlone {c : Nat} {s u : State} (h : coreAlone c s u) (k t : Nat) : coreAlone c s (startTick c k t u) := by
  obtain ⟨hmem, hmesh, hcores⟩ := h
  obtain ⟨mem, -, cores⟩ := startTick_coreFrame c k t u
  exact ⟨mem.trans hmem, (startTick_mesh ..).trans hmesh, fun d hd => (cores d hd).trans (hcores d hd)⟩

theorem commandTaken_coreAlone (k t c : Nat) (s : State) : coreAlone c s (commandTaken k t c s) := by
  have noted : ∀ d, d ≠ c → core (atBoundary k t c s) d = core s d := fun d hd => core_updCore_ne hd _ s
  unfold commandTaken
  split
  · exact ⟨rfl, rfl, noted⟩
  · split <;> exact ⟨rfl, rfl, noted⟩

theorem coreTick_coreAlone (k t c : Nat) (s : State) : coreAlone c s (coreTick k t c s) := by
  rw [coreTick_eq]
  split
  · exact startTick_coreAlone (commandTaken_coreAlone k t c s) k t
  · exact commandTaken_coreAlone k t c s

/-- A core that runs at its boundary, or is told to, starts the tick. -/
theorem coreTick_starts (k t c : Nat) (s : State) (go : (coreState s c = 3 ∧ flag s (F.CORE_CTL_STATE_STOP_PEND c) = false) ∨
      (coreState s c = 2 ∧ flag s (F.CORE_CTL_STATE_RUN_PEND c) = true)) :
    InTick k t c s (coreTick k t c s) := by
  rcases go with ⟨runs, on⟩ | ⟨idle, run⟩
  · rw [coreTick_running runs on]
    exact startTick_starts runs rfl fun _ _ => rfl
  · rw [coreTick_run idle run]
    refine startTick_starts (coreState_ranAtBoundary ..) rfl fun g hg => (get_setB_ne ?_ ..).trans ((get_set_ne ?_ ..).trans rfl)
    all_goals
      simp only [F.SEQ_BANK_DESC_NPHASE_M1, F.CORE_CTL_STATE_RUN_PEND, F.CORE_CTL_STATE_STATE] at hg ⊢
      omega

theorem coreTick_stops {k t c : Nat} {s : State} (runs : coreState s c = 3) (stop : flag s (F.CORE_CTL_STATE_STOP_PEND c) = true) :
    let v := coreTick k t c s
    coreState v c = 2 ∧ get v (F.SEQ_STAT_PHASE_ST c) = 0 ∧ flag v (F.CORE_CTL_STATE_STOP_PEND c) = false := by
  rw [coreTick_stop runs stop]
  refine ⟨coreState_stoppedAtBoundary .., get_set_same .., ?_⟩
  refine flag_of_get_zero ((get_set_ne ?_ ..).trans ((get_set_ne ?_ ..).trans (get_setB_same ..)))
  all_goals
    simp only [F.CORE_CTL_STATE_STOP_PEND, F.CORE_CTL_STATE_STATE, F.SEQ_STAT_PHASE_ST]
    omega

/-! ### The gate (R227, Table 7.7) -/

/-- RELEASE comes at or after the instant of the tick it names. -/
def releaseLate (s : State) : Bool := flag s F.TB_STAT_TICK_ON && decide (boundaryAt s (get s F.TB_GATE_K_K) ≤ now s)

/-- RELEASE and ABORT without HOLD, and a second RELEASE, are counted. -/
theorem gateRelease_refused {s : State} (h : flag s F.TB_STAT_GATE_HOLD = false ∨ flag s F.TB_STAT_GATE_ARMED = true) :
    gateRelease s = bump F.TB_CFG_REJ_CNT s := if_pos (by simpa using h)

theorem gateAbort_refused {s : State} (h : flag s F.TB_STAT_GATE_HOLD = false) : gateAbort s = bump F.TB_CFG_REJ_CNT s :=
  if_pos (by simp [h])

/-- The gate is armed for its tick. -/
def gateArmed (s : State) : State :=
  setB F.TB_STAT_GATE_ARMED true { s with time := { s.time with
    gateK := if releaseLate s then nextAfter s else get s F.TB_GATE_K_K, gateLate := releaseLate s } }

/-- A late RELEASE is shown and counted. -/
def lateNoted (s : State) : State := bump F.TB_GATE_LATE_CNT (hwSet F.TB_STAT_GATE_LATE 0 s)

theorem gateRelease_of_held {s : State} (held : flag s F.TB_STAT_GATE_HOLD = true) (free : flag s F.TB_STAT_GATE_ARMED = false) :
    gateRelease s = when (releaseLate s) lateNoted (gateArmed s) := if_neg (by simp [held, free])

theorem get_gateArmed (s : State) : get (gateArmed s) F.TB_STAT_GATE_ARMED = 1 := get_setB_same ..

theorem gateArmed_regs (s : State) : sameRegsBut [F.TB_STAT_GATE_ARMED] s (gateArmed s) :=
  ((sameRegsBut.refl _ s).of_eq (t := { s with time := _ }) rfl rfl).setB (by simp) true

theorem lateNoted_regs (s : State) : sameRegsBut [F.TB_STAT_GATE_LATE, F.TB_GATE_LATE_CNT] s (lateNoted s) :=
  (((sameRegsBut.refl _ s).set (f := F.TB_STAT_GATE_LATE) (by simp) _).of_eq (t := hwSet F.TB_STAT_GATE_LATE 0 s) rfl rfl).bump (by simp)

theorem flag_lateNoted (s : State) : flag (lateNoted s) F.TB_STAT_GATE_LATE = true :=
  flag_of_get ((get_bump_ne (by decide) _).trans (get_hwSet_zero rfl s))

theorem lateNoted_frame (s : State) : (lateNoted s).time = s.time ∧ (lateNoted s).shadows = s.shadows ∧ (lateNoted s).act = s.act ∧
    (lateNoted s).mem = s.mem := ⟨rfl, rfl, rfl, rfl⟩

theorem gateRelease_spec {s : State} (held : flag s F.TB_STAT_GATE_HOLD = true) (free : flag s F.TB_STAT_GATE_ARMED = false) :
    let t := gateRelease s
    flag t F.TB_STAT_GATE_ARMED = true ∧ t.time.gateK = (if releaseLate s then nextAfter s else get s F.TB_GATE_K_K) ∧
      t.time.gateLate = releaseLate s ∧ (releaseLate s = true → flag t F.TB_STAT_GATE_LATE = true) ∧ t.shadows = s.shadows ∧ t.act = s.act ∧
      t.mem = s.mem ∧ sameRegsBut [F.TB_STAT_GATE_ARMED, F.TB_STAT_GATE_LATE, F.TB_GATE_LATE_CNT] s t := by
  have regs : sameRegsBut [F.TB_STAT_GATE_ARMED, F.TB_STAT_GATE_LATE, F.TB_GATE_LATE_CNT] s (gateArmed s) := (gateArmed_regs s).mono (by simp)
  rw [gateRelease_of_held held free]
  cases late : releaseLate s with
  | false => exact ⟨flag_of_get (get_gateArmed s), by simp [when, gateArmed, late], late, nofun, rfl, rfl, rfl, regs⟩
  | true =>
    obtain ⟨time, shadows, act, mem⟩ := lateNoted_frame (gateArmed s)
    obtain ⟨armed, -⟩ := lateNoted_regs (gateArmed s) F.TB_STAT_GATE_ARMED (by decide)
    refine ⟨flag_of_get (armed.trans (get_gateArmed s)), (congrArg TimeSt.gateK time).trans ?_, (congrArg TimeSt.gateLate time).trans late,
      fun _ => flag_lateNoted _, shadows, act, mem, regs.trans ((lateNoted_regs _).mono (by simp))⟩
    simp [gateArmed, late]

/-- Held shadows take their active values, and wait no more. -/
def heldGivenUp (s : State) : State :=
  each (s.shadows.filter fun h => h.held) (fun h s => set h.fld (actv s h.fld) s) { s with shadows := s.shadows.filter fun h => !h.held }

theorem heldGivenUp_frame (s : State) : (heldGivenUp s).shadows = s.shadows.filter (fun h => !h.held) ∧ (heldGivenUp s).act = s.act ∧
    (heldGivenUp s).mem = s.mem :=
  each_keeps (P := fun t => t.shadows = s.shadows.filter (fun h => !h.held) ∧ t.act = s.act ∧ t.mem = s.mem) _ ⟨rfl, rfl, rfl⟩
    fun _ _ ht => ht

theorem gateAbort_of_held {s : State} (held : flag s F.TB_STAT_GATE_HOLD = true) :
    gateAbort s = setB F.TB_STAT_GATE_ARMED false (setB F.TB_STAT_GATE_HOLD false (heldGivenUp s)) := if_neg (by simp [held])

theorem gateAbort_spec {s : State} (held : flag s F.TB_STAT_GATE_HOLD = true) :
    let t := gateAbort s
    flag t F.TB_STAT_GATE_HOLD = false ∧ flag t F.TB_STAT_GATE_ARMED = false ∧ t.shadows = s.shadows.filter (fun h => !h.held) ∧
      t.act = s.act ∧ t.mem = s.mem := by
  rw [gateAbort_of_held held]
  exact ⟨flag_of_get_zero ((get_setB_ne (by decide) ..).trans (get_setB_same ..)), flag_of_get_zero (get_setB_same ..), heldGivenUp_frame s⟩

/-! ### The boundary, the guard band and the step rows -/

/-- Settles O38: TICK_BOUNDARY runs the boundary in its order; a core at its boundary goes by the command that waits, and the gate by HOLD. -/
theorem tickBoundariesRun : Obligations.TickBoundariesRun := by
  refine ⟨fun moe s => ⟨fun on => ?_, fun off => ?_⟩, fun k t c s => ?_, fun s => ?_⟩
  · rw [exec_tickBoundary, execTickBoundary, if_neg (by simp [on])]
  · rw [exec_tickBoundary, execTickBoundary, if_pos (by simp [off])]
  · exact ⟨coreTick_starts k t c s, coreTick_stops, coreTick_coreAlone k t c s⟩
  · refine ⟨fun on => ?_, fun off => ?_, rfl, fun held free => ⟨_, rfl, gateRelease_spec held free⟩,
      fun held => ⟨_, rfl, gateAbort_spec held⟩, fun armed => congrArg _ (gateRelease_refused (.inr armed)),
      fun free => ⟨congrArg _ (gateRelease_refused (.inl free)), congrArg _ (gateAbort_refused free)⟩, fun on => ?_, fun off => ?_⟩
    · rw [exec_guardBandStart, execGuardBandStart, if_neg (by simp [on])]
    · rw [exec_guardBandStart, execGuardBandStart, if_pos (by simp [off])]
    · rw [exec_stepRowLanding, execStepRowLanding, if_pos on]
    · rw [exec_stepRowLanding, execStepRowLanding, if_neg (by simp [off])]

end Sys2Proof.Machine

namespace Sys2Proof.Machine

/-! ### Time markers (R214) -/

theorem get_freePlace (p pool : Nat) (s : State) (f : Fld) : get (freePlace p pool s) f = get s f := by
  unfold freePlace
  split <;> rfl

theorem port_updPort_same (p : Nat) (f : PortSt → PortSt) (s : State) : port (updPort p f s) p = f (port s p) := SMap.get_put_same ..

/-- A change of a port that leaves the exchange it keeps. -/
theorem sync_updPort (p : Nat) {f : PortSt → PortSt} (h : ∀ k, (f k).sync = k.sync) (s : State) :
    (port (updPort p f s) p).sync = (port s p).sync := by
  rw [port_updPort_same, h]

theorem sync_freePlace (p pool : Nat) (s : State) : (port (freePlace p pool s) p).sync = (port s p).sync := by
  unfold freePlace
  split <;> exact sync_updPort p (fun _ => by rfl) s

/-- The state in which a marker has left the TIME pool of its port. -/
def markerTaken (p : Nat) (rest : List (Nat × Nat × Cell)) (s : State) : State :=
  freePlace p 5 (updPort p (fun k => { k with ingress := rest }) s)

theorem get_markerTaken (p : Nat) (rest : List (Nat × Nat × Cell)) (s : State) (f : Fld) : get (markerTaken p rest s) f = get s f :=
  get_freePlace ..

theorem sync_markerTaken (p : Nat) (rest : List (Nat × Nat × Cell)) (s : State) : (port (markerTaken p rest s) p).sync = (port s p).sync :=
  (sync_freePlace ..).trans (sync_updPort p (fun _ => by rfl) s)

section
variable {p : PortIx} {s : State} {r : Nat × Nat × Cell} {rest : List (Nat × Nat × Cell)}

theorem takeMarker_of_stored {p kind : Nat} (h : takeStored (fun x => x.1 == 5 && x.2.2.kind == kind) (port s p).ingress = some (r, rest)) :
    takeMarker p kind s = some (r.2.1, r.2.2, markerTaken p rest s) := by
  rw [takeMarker, h]
  rfl

/-- A SYNC from PARENT or BACKUP on an admitted port is counted, and taken unless the package is ROOT. -/
theorem exec_syncReceived_steering (h : takeMarker p 8 s = some (r.2.1, r.2.2, markerTaken p rest s)) (steers : p.val = parent s ∨ p.val = backup s)
    (admitted : pState s p = 3) : exec (.syncReceived p) s = .next (if sync s = 5 then bump F.TB_MARKER_RX_CNT (markerTaken p rest s)
      else takeSync p r.2.1 r.2.2 (bump F.TB_MARKER_RX_CNT (markerTaken p rest s))) := by
  have state : sync (bump F.TB_MARKER_RX_CNT (markerTaken p rest s)) = sync s := (get_bump_ne (by decide) _).trans (get_markerTaken ..)
  simp only [exec_syncReceived, execSyncReceived, h]
  rw [if_pos, state]
  · rfl
  · simpa [parent, backup, pState, get_markerTaken] using ⟨steers, admitted⟩

/-- One from another port is not noted. -/
theorem exec_syncReceived_other (h : takeMarker p 8 s = some (r.2.1, r.2.2, markerTaken p rest s)) (up : p.val ≠ parent s)
    (side : p.val ≠ backup s) : exec (.syncReceived p) s = .next (markerTaken p rest s) := by
  simp only [exec_syncReceived, execSyncReceived, h]
  rw [if_neg]
  simpa [parent, backup, get_markerTaken] using fun e => (e.elim up side).elim

theorem exec_delayReqReceived_admitted (h : takeMarker p 9 s = some (r.2.1, r.2.2, markerTaken p rest s)) (admitted : pState s p = 3) :
    exec (.delayReqReceived p) s = .next (enqueue p (marker (markerTaken p rest s) p 0xA r.2.1) (markerTaken p rest s)) := by
  simp only [exec_delayReqReceived, execDelayReqReceived, h]
  exact if_pos ((get_markerTaken ..).trans admitted)

/-- The response completes the exchange that the port keeps. -/
theorem exec_delayRespReceived_completes {t1 t2 t3 : Nat} (h : takeMarker p 0xA s = some (r.2.1, r.2.2, markerTaken p rest s))
    (asked : (port s p).sync = some (t1, t2, some t3)) : exec (.delayRespReceived p) s =
      .next (sample p t1 t2 t3 (leAt r.2.2.payload 0 8) (updPort p (fun k => { k with sync := none }) (markerTaken p rest s))) := by
  simp only [exec_delayRespReceived, execDelayRespReceived, h, sync_markerTaken, asked]

end

/-! ### HOLDOVER (R216) -/

/-- The report of a holdover reaches the fault collector alone: its source is of class L0 and does not escalate. -/
theorem holdover_flt (st : Nat) (s : State) :
    FltOnly (bump F.TB_HOLDOVER_CNT (set F.TB_STAT_PORT 0xF (set F.TB_STAT_SYNC st s))) (holdover st s) :=
  raise_flt _ _ rfl (show 0 ≤ 1 by decide) rfl (show 0xE1 < 256 by decide) (show 0x19 < 256 by decide)

/-- The sync state is entered and counted, and no port steers. -/
theorem get_holdover (st : Nat) (s : State) :
    sync (holdover st s) = st % 8 ∧ get (holdover st s) F.TB_STAT_PORT = 15 ∧
      get (holdover st s) F.TB_HOLDOVER_CNT = min (get s F.TB_HOLDOVER_CNT + 1) (2 ^ 64 - 1) % 2 ^ 64 := by
  obtain ⟨-, regs⟩ := holdover_flt st s
  refine ⟨(regs F.TB_STAT_SYNC (.inl (by decide))).trans ?_, (regs F.TB_STAT_PORT (.inl (by decide))).trans ?_,
    (regs F.TB_HOLDOVER_CNT (.inl (by decide))).trans ?_⟩
  · rw [get_bump_ne (by decide), get_set_ne (by decide), get_set_same]
    rfl
  · rw [get_bump_ne (by decide), get_set_same]
    rfl
  · rw [get_bump_same, get_set_ne (by decide), get_set_ne (by decide)]
    rfl

theorem holdover_frame (st : Nat) (s : State) : (holdover st s).time = s.time ∧ (holdover st s).mem = s.mem ∧ (holdover st s).cores = s.cores ∧
    (holdover st s).ports = s.ports := by
  rw [(holdover_flt st s).1]
  exact ⟨rfl, rfl, rfl, rfl⟩

/-- The instant at which the steering port has been silent for 4 marker intervals. -/
def silenceEnds (s : State) : State := moveTo (SMap.get 0 s.time.heard (get s F.TB_STAT_PORT) + 4 * markerInterval s) s

/-- The backup may then steer in the parent's place. -/
def backupSteers (s : State) : Bool :=
  get s F.TB_STAT_PORT = parent (silenceEnds s) && backup (silenceEnds s) ≤ 11 && delayValid (silenceEnds s) (backup (silenceEnds s)) &&
    gives (SMap.get 0 (silenceEnds s).time.state (backup (silenceEnds s)))

theorem backup_silenceEnds (s : State) : backup (silenceEnds s) = backup s := get_moveTo_ne (by decide) _ s

theorem backupSteers_iff {s : State} : backupSteers s = true ↔ get s F.TB_STAT_PORT = parent s ∧ backup s ≤ 11 ∧
    delayValid (silenceEnds s) (backup s) = true ∧ gives (SMap.get 0 s.time.state (backup s)) = true := by
  have par : parent (silenceEnds s) = parent s := get_moveTo_ne (by decide) _ s
  have time : (silenceEnds s).time = s.time := moveTo_time ..
  simp only [backupSteers, par, backup_silenceEnds, time, Bool.and_eq_true, decide_eq_true_eq, and_assoc]

/-- HOLDOVER begins at the end of the silence. -/
def holdoverNoted (s : State) : State :=
  { silenceEnds s with time := { (silenceEnds s).time with holdSince := now (silenceEnds s) } }

theorem parentLost_idle {s : State} (acquire : sync s ≠ 1) (locked : sync s ≠ 2) : parentLost s = s :=
  if_pos (by simp [syAcquire, syLocked, acquire, locked])

/-- A package that is steered goes over to its backup, or enters HOLDOVER. -/
theorem parentLost_of_steered {s : State} (steered : sync s = 1 ∨ sync s = 2) : parentLost s =
    if backupSteers s then set F.TB_STAT_PORT (backup (silenceEnds s)) (silenceEnds s) else holdover syHoldover (holdoverNoted s) :=
  if_neg (by rcases steered with h | h <;> simp [h, syAcquire, syLocked])

theorem holdover_holdoverNoted (s : State) :
    let t := holdover syHoldover (holdoverNoted s)
    sync t = 3 ∧ t.time.holdSince = now (silenceEnds s) ∧ get t F.TB_STAT_PORT = 15 ∧
      get t F.TB_HOLDOVER_CNT = min (get s F.TB_HOLDOVER_CNT + 1) (2 ^ 64 - 1) % 2 ^ 64 ∧ t.mem = s.mem ∧ t.cores = s.cores ∧
      t.ports = s.ports := by
  obtain ⟨state, port, count⟩ := get_holdover syHoldover (holdoverNoted s)
  obtain ⟨time, mem, cores, ports⟩ := holdover_frame syHoldover (holdoverNoted s)
  have before : get (holdoverNoted s) F.TB_HOLDOVER_CNT = get s F.TB_HOLDOVER_CNT := get_moveTo_ne (by decide) _ s
  rw [before] at count
  exact ⟨state, congrArg TimeSt.holdSince time, port, count, mem.trans (moveTo_mem ..), cores.trans (moveTo_cores ..),
    ports.trans (moveTo_ports ..)⟩

/-- Settles O32: a stored marker is the one that each of the three commands takes; the loss of the steering port by its two outcomes. -/
theorem timeIsKept : Obligations.TimeIsKept := by
  refine ⟨?_, ?_⟩
  · intro p s r rest took stored
    refine ⟨fun on => ?_, fun h steers admitted free => ?_, fun h steers admitted root => ?_,
      fun h => exec_syncReceived_other (takeMarker_of_stored h), fun h => exec_delayReqReceived_admitted (takeMarker_of_stored h),
      fun t1 t2 t3 h => exec_delayRespReceived_completes (takeMarker_of_stored h)⟩
    · exact if_neg (by simp [on])
    · rw [exec_syncReceived_steering (takeMarker_of_stored h) steers admitted, if_neg free]
      rfl
    · rw [exec_syncReceived_steering (takeMarker_of_stored h) steers admitted, if_pos root]
      rfl
  · intro s q b s1 other
    refine ⟨fun steered backup => ?_, fun steered alone => ⟨_, ?_, holdover_holdoverNoted s⟩, fun acquire locked => ?_⟩
    · rw [exec_parentLossTimeout, execParentLossTimeout, parentLost_of_steered steered, if_pos (backupSteers_iff.2 backup), backup_silenceEnds]
      rfl
    · rw [exec_parentLossTimeout, execParentLossTimeout, parentLost_of_steered steered, if_neg (mt backupSteers_iff.1 alone)]
    · exact congrArg _ (parentLost_idle acquire locked)

end Sys2Proof.Machine

namespace Sys2Proof.Machine

/-! ### Bits of a register -/

theorem bit_eq_testBit (v i : Nat) : bit v i = v.testBit i := by
  rw [Nat.testBit_eq_decide_div_mod_eq]
  rfl

theorem testBit_withBit (v i : Nat) (b : Bool) : (withBit v i b).testBit i = b := by
  unfold withBit
  rw [bit_eq_testBit]
  cases b <;> cases held : v.testBit i
  · exact held
  · have parts := Nat.testBit_two_pow_add_eq (v - 2 ^ i) i
    rw [Nat.add_sub_cancel' (Nat.ge_two_pow_of_testBit held), held] at parts
    simpa using parts.symm
  · simp [Nat.add_comm v, Nat.testBit_two_pow_add_eq, held]
  · exact held

/-- A bit of a field reads as it was set. -/
theorem getBit_setBit_same {f : Fld} {i : Nat} (h : i < f.width) (b : Bool) (s : State) : getBit (setBit f i b s) f i = b := by
  unfold getBit
  rw [get_setBit_same, bit_eq_testBit, Nat.testBit_mod_two_pow, testBit_withBit, decide_eq_true h, Bool.true_and]

theorem getBit_setBit_ne {f g : Fld} (h : g.key ≠ f.key) (i j : Nat) (b : Bool) (s : State) :
    getBit (setBit f i b s) g j = getBit s g j := by
  unfold getBit
  rw [get_setBit_ne h]

/-! ### Stacks beside their registers -/

theorem stk_updStk_same (n : Nat) (f : StkSt → StkSt) (s : State) : stk (updStk n f s) n = f (stk s n) := SMap.get_put_same ..

/-- What a stack sends changes no register. -/
theorem inject_regs {p : Packet} (outside : 20 ≤ p.src) (s : State) : (inject p s).regs = s.regs := by
  unfold inject place
  rw [if_neg (Nat.not_lt.2 outside), decide_eq_false (Nat.not_lt.2 outside)]
  rfl

theorem replyRead_calm (n l : Nat) (data : List Byte) (poison : Bool) (status : Nat) (rqs : List Requester) (s : State) :
    calm s (replyRead n l data poison status rqs s) := inject_calm ..

theorem replyWrite_calm (n l : Nat) (rq : Requester) (status : Nat) (s : State) : calm s (replyWrite n l rq status s) := inject_calm ..

theorem replyWrite_regs (n l : Nat) (rq : Requester) (status : Nat) (s : State) : (replyWrite n l rq status s).regs = s.regs :=
  inject_regs (Nat.le_add_right 20 n) s

/-- A merge entry that closes changes its stack and the mesh alone. -/
theorem closeMerge_same (n : Nat) (m : Merge) (s : State) : calm s (closeMerge n m s) ∧ (closeMerge n m s).regs = s.regs :=
  when_keeps (P := fun t => calm s t ∧ t.regs = s.regs) _ ⟨⟨rfl, rfl, rfl, rfl⟩, rfl⟩ fun t ⟨quiet, regs⟩ =>
    ⟨quiet.trans (replyRead_calm ..), (inject_regs (Nat.le_add_right 20 n) t).trans regs⟩

/-! ### Stack writes (R247, R248) -/

theorem linePoison_markLine (l : Nat) (b : Bool) (s : State) (m : Nat) :
    linePoison (markLine l b s) m = if m = l then b else linePoison s m := by
  unfold linePoison markLine
  cases b <;> by_cases h : m = l <;> simp [h]

/-- The state in which a write stores its bytes: the merge entry of the line, if one is open, has closed (R251). -/
def beforeWrite (n l : Nat) (s : State) : State := match mergeOf s n l with
  | some m => closeMerge n m s
  | none => s

theorem beforeWrite_same (n l : Nat) (s : State) : calm s (beforeWrite n l s) ∧ (beforeWrite n l s).regs = s.regs := by
  unfold beforeWrite
  split
  · exact closeMerge_same ..
  · exact ⟨.refl s, rfl⟩

/-- A write counts and stores its bytes. -/
def bytesStored (n l ofs : Nat) (data : List Byte) (s : State) : State :=
  putStk (l * 512 + ofs) data (bump (F.STK_WR_CNT n) (beforeWrite n l s))

theorem performWrite_eq (n l ofs : Nat) (data : List Byte) (poison : Bool) (s : State) : performWrite n l ofs data poison s =
    if poison then markLine l true (bytesStored n l ofs data s)
    else if data.length = 512 then markLine l false (bytesStored n l ofs data s) else bytesStored n l ofs data s := rfl

theorem bytesStored_spec (n l ofs : Nat) (data : List Byte) (s : State) :
    (bytesStored n l ofs data s).mem = { s.mem with stk := wrBytes s.mem.stk (l * 512 + ofs) data } ∧
      (bytesStored n l ofs data s).cores = s.cores ∧
      get (bytesStored n l ofs data s) (F.STK_WR_CNT n) = min (get s (F.STK_WR_CNT n) + 1) (2 ^ 64 - 1) % 2 ^ 64 := by
  obtain ⟨⟨mem, cores, -, -⟩, regs⟩ := beforeWrite_same n l s
  refine ⟨?_, cores, ?_⟩
  · rw [← mem]
    rfl
  · rw [← get_of_regs regs]
    exact get_bump_same ..

/-- What a write does to the marks of lines: POISONED data sets that of its line, all 512 bytes of good data clear it. -/
theorem linePoison_performWrite (n l ofs : Nat) (data : List Byte) (poison : Bool) (s : State) (m : Nat) :
    linePoison (performWrite n l ofs data poison s) m =
      if m = l then poison || (!decide (data.length = 512) && linePoison s l) else linePoison s m := by
  obtain ⟨mem, -, -⟩ := bytesStored_spec n l ofs data s
  have before : ∀ m, linePoison (bytesStored n l ofs data s) m = linePoison s m := fun m => by rw [linePoison, mem]; rfl
  rw [performWrite_eq]
  split
  · next bad => simp [linePoison_markLine, before, bad]
  split
  · next good full => simp [linePoison_markLine, before, good, full]
  · next good part =>
    rw [before]
    split
    · next same => simp [good, part, same]
    · rfl

theorem performWrite_spec (n l ofs : Nat) (data : List Byte) (poison : Bool) (s : State) :
    let t := performWrite n l ofs data poison s
    t.mem.stk = wrBytes s.mem.stk (l * 512 + ofs) data ∧ t.mem.spad = s.mem.spad ∧ t.cores = s.cores ∧
      get t (F.STK_WR_CNT n) = min (get s (F.STK_WR_CNT n) + 1) (2 ^ 64 - 1) % 2 ^ 64 := by
  obtain ⟨mem, cores, count⟩ := bytesStored_spec n l ofs data s
  have stk : (bytesStored n l ofs data s).mem.stk = wrBytes s.mem.stk (l * 512 + ofs) data := by rw [mem]
  have spad : (bytesStored n l ofs data s).mem.spad = s.mem.spad := by rw [mem]
  rw [performWrite_eq]
  split
  · exact ⟨stk, spad, cores, count⟩
  split
  · exact ⟨stk, spad, cores, count⟩
  · exact ⟨stk, spad, cores, count⟩

/-- A write of whole codewords that its bank serves, in a package that is not in safe state, is performed. -/
theorem doWrite_performs {n l ofs src k : Nat} {serves : Bool} {data : List Byte} {s : State} (inside : l < lineCount)
    (normal : inSafe s = false) (on : serves = true) (whole : partial32 ofs data.length = false) (poison : Bool) (e : Ecc) :
    doWrite n l ofs src k serves poison e data s = (0, performWrite n l ofs data poison s) := by
  simp [doWrite, Nat.not_le.2 inside, normal, on, whole]

/-- A READY controller performs the next write of a channel and answers it. -/
theorem exec_stackWrite_of_next {n : StackIx} {ch : Fin 32} {s : State} {p : Packet} {l ofs : Nat} {data : List Byte} {rq : Requester}
    (up : stkReady s n = true) (next : nextReq s n ch true = some p) (body : p.body = .writeReq l ofs data rq) (e : Ecc) (k : Fin 16) :
    let a := doWrite n l ofs p.src k (bankServes s n (lineBank l) p.grace) p.poison e data (tookTurn n ch true p.src (dropPacket p s))
    exec (.stackWrite n ch e k) s = .next (replyWrite n l rq a.1 a.2) := by
  simp [exec_stackWrite, execStackWrite, up, next, body]

/-- Settles O26: the answer of the write leaves what the write has stored. -/
theorem stackWriteStoresItsBytes : Obligations.StackWriteStoresItsBytes := by
  intro n ch e k s p l ofs data rq up next body
  have performed := exec_stackWrite_of_next up next body e k
  refine ⟨⟨_, rfl, performed⟩, fun inside normal on whole => ?_⟩
  dsimp only at performed
  rw [doWrite_performs (s := tookTurn n ch true p.src (dropPacket p s)) inside normal on whole] at performed
  obtain ⟨stk, spad, cores, count⟩ := performWrite_spec n l ofs data p.poison (tookTurn n ch true p.src (dropPacket p s))
  have marks := linePoison_performWrite n l ofs data p.poison (tookTurn n ch true p.src (dropPacket p s))
  generalize performWrite n l ofs data p.poison (tookTurn n ch true p.src (dropPacket p s)) = t at performed stk spad cores count marks
  obtain ⟨mem', cores', -, -⟩ := replyWrite_calm n l rq 0 t
  have marks' : ∀ m, linePoison (replyWrite n l rq 0 t) m = linePoison t m := fun m => by rw [linePoison, mem']; rfl
  refine ⟨_, performed, ?_, fun a outside => ?_, fun bad => ?_, fun good full => ?_, fun m other => ?_, ?_, ?_, cores'.trans cores⟩
  · rw [mem', stk]
    exact rdBytes_wrBytes_same ..
  · rw [mem', stk]
    exact rdByte_wrBytes_ne _ _ _ outside
  · simp [marks', marks, bad]
  · simp [marks', marks, good, full]
  · rw [marks', marks, if_neg other]
    rfl
  · exact (get_of_regs (replyWrite_regs ..) _).trans count
  · rw [mem', spad]
    rfl

/-! ### Banks (R253 to R256) -/

section
variable (n b : Nat) (s : State)

theorem rdByte_loseBank (a : Nat) : rdByte (loseBank n b s).mem.stk a =
    if lineStack (a / 512) = n ∧ lineBank (a / 512) = b then 0 else rdByte s.mem.stk a := by
  split
  · next h => exact SMap.get_filter_drops _ _ fun _ => by simp [h]
  · next h =>
    have other : (lineStack (a / 512) == n && lineBank (a / 512) == b) = false :=
      Bool.eq_false_iff.2 fun both => h (by simpa only [Bool.and_eq_true, beq_iff_eq] using both)
    exact SMap.get_filter _ _ fun _ => congrArg not other

theorem linePoison_loseBank {l : Nat} (stack : lineStack l = n) (bank : lineBank l = b) : linePoison (loseBank n b s) l = false := by
  simp only [linePoison, loseBank, NSet.has, List.any_eq_false, List.mem_filter, decide_eq_true_eq]
  rintro m ⟨-, kept⟩ rfl
  simp [stack, bank] at kept

/-- The state after a bank has woken. -/
def woken : State :=
  updStk n (fun t => { t with bank := none })
    (setBit (F.STK_BANK_ON_ON n) b true (setBit (F.STK_BANK_BUSY_BUSY n) b false (loseBank n b s)))

/-- The state after what a drained bank could not serve has been refused. -/
def drained : State :=
  updStk n (fun t => { t with bank := none }) (setBit (F.STK_BANK_BUSY_BUSY n) b false (loseBank n b s))

theorem on_ne_busy : (F.STK_BANK_ON_ON n).key ≠ (F.STK_BANK_BUSY_BUSY n).key := by
  simp only [F.STK_BANK_ON_ON, F.STK_BANK_BUSY_BUSY]
  omega

end

@[simp] theorem getBit_updStk (n : Nat) (f : StkSt → StkSt) (s : State) (g : Fld) (i : Nat) : getBit (updStk n f s) g i = getBit s g i := rfl

theorem woken_spec (n : Nat) {b : Nat} (hb : b < 64) (s : State) :
    getBit (woken n b s) (F.STK_BANK_BUSY_BUSY n) b = false ∧ bankOn (woken n b s) n b = true ∧ (stk (woken n b s) n).bank = none := by
  refine ⟨?_, ?_, by rw [woken, stk_updStk_same]⟩
  · rw [woken, getBit_updStk, getBit_setBit_ne (on_ne_busy n).symm, getBit_setBit_same hb]
  · rw [bankOn, woken, getBit_updStk, getBit_setBit_same hb]

theorem exec_bankWakeEnd_of_waking {n : StackIx} {b : Nat} {s : State} (waking : (stk s n).bank = some (b, true)) :
    exec (.bankWakeEnd n) s = .next (woken n b s) := by
  rw [exec_bankWakeEnd, execBankWakeEnd, waking]
  rfl

/-- Settles O28: waking drops the bytes and the marks of the bank before it sets the bank ON. -/
theorem wokenBankHoldsZeros : Obligations.WokenBankHoldsZeros := by
  intro n b s waking hb
  obtain ⟨-, on, -⟩ := woken_spec n hb s
  exact ⟨_, exec_bankWakeEnd_of_waking waking, on, fun a stack bank => (rdByte_loseBank n b s a).trans (if_pos ⟨stack, bank⟩),
    fun _ stack bank => linePoison_loseBank n b s stack bank⟩

end Sys2Proof.Machine

namespace Sys2Proof.Machine

/-! ### Stack reads (R247, R248, R250) -/

/-- The bytes and the mark of a line lie in the memories alone. -/
theorem lineBytes_of_mem {s t : State} (h : s.mem = t.mem) (l : Nat) : lineBytes s l = lineBytes t l := by unfold lineBytes; rw [h]

theorem linePoison_of_mem {s t : State} (h : s.mem = t.mem) (l : Nat) : linePoison s l = linePoison t l := by unfold linePoison; rw [h]

section
variable (n ch : Nat) (wr : Bool) (src : Nat) (p : Packet) (s : State)

/-- Taking a request from its queue leaves the banks and the merge entries. -/
theorem bankServes_taken (b : Nat) (grace : Bool) :
    bankServes (tookTurn n ch wr src (dropPacket p s)) n b grace = bankServes s n b grace := by
  unfold bankServes tookTurn
  rw [stk_updStk_same]
  rfl

theorem mergeOf_taken (l : Nat) : mergeOf (tookTurn n ch wr src (dropPacket p s)) n l = mergeOf s n l := by
  unfold mergeOf tookTurn
  rw [stk_updStk_same]
  rfl

end

/-- A READY controller serves the next read of a channel. -/
theorem exec_stackRead_of_next {n : StackIx} {ch : Fin 32} {s : State} {p : Packet} {l : Nat} {full : Bool} {rq : Requester}
    (up : stkReady s n = true) (next : nextReq s n ch false = some p) (body : p.body = .readReq l rq full) (e : Ecc) (k : Fin 16) :
    exec (.stackRead n ch e k) s = .next (serveRead n l p.src k full p.grace e rq (tookTurn n ch false p.src (dropPacket p s))) := by
  simp [exec_stackRead, execStackRead, up, next, body]

theorem dramAccess_clean {s : State} (quiet : s.flt.inj = none) (n l kind src access k : Nat) :
    dramAccess n l kind src access k .clean s = s := by
  simp [dramAccess, stkErr, quiet, when]

/-- The state after a read of a line is counted, and that of a marked line as one. -/
def readCounted (n l : Nat) (s : State) : State := when (linePoison s l) (bump (F.STK_POISON_RD_CNT n)) (bump (F.STK_RD_CNT n) s)

theorem readCounted_same (n l : Nat) (s : State) : calm s (readCounted n l s) :=
  (set_calm ..).trans (.when _ (fun t => set_calm _ _ t) _)

/-- A read without an error gives the bytes and the mark of its line. -/
theorem performRead_clean {s : State} (quiet : s.flt.inj = none) (n l src k : Nat) :
    performRead n l src k .clean s = ((lineBytes s l, linePoison s l), readCounted n l s) := by
  obtain ⟨mem, -, -, flt⟩ := readCounted_same n l s
  have access : performRead n l src k .clean s =
      ((lineBytes (readCounted n l s) l, linePoison (readCounted n l s) l), readCounted n l s) := by
    unfold performRead
    dsimp only
    rw [dramAccess_clean (by exact (congrArg FltSt.inj flt).trans quiet)]
    rfl
  rw [access, lineBytes_of_mem mem, linePoison_of_mem mem]

/-- A read that may not merge is performed and answered alone. -/
theorem serveRead_alone {n l : Nat} {full grace : Bool} {s : State} (inside : l < lineCount) (on : bankServes s n (lineBank l) grace = true)
    (apart : actB s (F.STK_CTL_MERGE_EN n) = false ∨ full = false) (src k : Nat) (e : Ecc) (rq : Requester) :
    let r := performRead n l src k e s
    serveRead n l src k full grace e rq s = replyRead n l r.1.1 r.1.2 0 [rq] r.2 := by
  have alone : (actB s (F.STK_CTL_MERGE_EN n) && full) = false := Bool.and_eq_false_iff.2 apart
  simp [serveRead, Nat.not_le.2 inside, on, alone]

/-- A requester joins a merge entry. -/
def joinEntry (line : Nat) (r : Nat × Requester) (x : Merge) : Merge := if x.line == line then { x with rqs := x.rqs ++ [r] } else x

/-- The state after a read has joined an open entry. -/
def readJoined (n : Nat) (m : Merge) (r : Nat × Requester) (s : State) : State :=
  bump (F.STK_MERGE_CNT n) (when m.poison (bump (F.STK_POISON_RD_CNT n))
    (updStk n (fun t => { t with merges := t.merges.map (joinEntry m.line r) }) s))

/-- A full-line read that finds an open entry of its line joins it. -/
theorem serveRead_joins {n l : Nat} {grace : Bool} {s : State} {m : Merge} (inside : l < lineCount)
    (on : bankServes s n (lineBank l) grace = true) (merges : actB s (F.STK_CTL_MERGE_EN n) = true) (opened : mergeOf s n l = some m)
    (src k : Nat) (e : Ecc) (rq : Requester) : serveRead n l src k true grace e rq s = readJoined n m (src, rq) s := by
  have entry : (if actB s (F.STK_CTL_MERGE_EN n) && true then mergeOf s n l else none) = some m := by rw [merges, opened]; rfl
  rw [serveRead, if_neg (Nat.not_le.2 inside), on, if_neg (by decide)]
  simp only [entry]
  rfl

theorem readJoined_spec (n : Nat) (m : Merge) (r : Nat × Requester) (s : State) :
    (readJoined n m r s).mem = s.mem ∧
      get (readJoined n m r s) (F.STK_MERGE_CNT n) = min (get s (F.STK_MERGE_CNT n) + 1) (2 ^ 64 - 1) % 2 ^ 64 ∧
      sameRegsBut [F.STK_MERGE_CNT n, F.STK_POISON_RD_CNT n] s (readJoined n m r s) ∧ (readJoined n m r s).mesh = s.mesh := by
  have apart : (F.STK_MERGE_CNT n).key ≠ (F.STK_POISON_RD_CNT n).key := by
    simp only [F.STK_MERGE_CNT, F.STK_POISON_RD_CNT]
    omega
  let joined := updStk n (fun t => { t with merges := t.merges.map (joinEntry m.line r) }) s
  obtain ⟨mem, regs, -⟩ := when_bump_coreFrame 0 m.poison (List.mem_singleton.2 rfl) (f := F.STK_POISON_RD_CNT n) joined
  have count : get (when m.poison (bump (F.STK_POISON_RD_CNT n)) joined) (F.STK_MERGE_CNT n) = get s (F.STK_MERGE_CNT n) :=
    (regs _ (by simpa using apart)).1
  refine ⟨mem, (get_bump_same ..).trans (by rw [count]; rfl), ?_, (when_bump_same ..).2⟩
  exact (((sameRegsBut.refl _ s).of_eq rfl rfl).trans (regs.mono (by simp))).bump (by simp)

/-! ### Merge entries, answers and the scrub (R241, R249, R250) -/

theorem exec_mergeWindowClose_of_open {n : StackIx} {ch : Fin 32} {s : State} {m : Merge}
    (oldest : (stk s n).merges.find? (fun m => lineChannel m.line == ch.val) = some m) :
    exec (.mergeWindowClose n ch) s = .next (closeMerge n m s) := by
  simp only [exec_mergeWindowClose, execMergeWindowClose, oldest]

section
variable {node : Fin 37} {s : State} {p : Packet} {rest : List Packet}
  (oldest : takeFirst (fun p => p.arrived && p.pos == node.val && isReply p) s.mesh = some (p, rest))
include oldest

theorem exec_stackReply_readData {l : Nat} {data : List Byte} {rqs : List Requester} {st : Nat} (body : p.body = .readData l data rqs st) :
    exec (.stackReply node) s =
      .next (unitsGoOn node (each (rqs.filter fun q => rqNode q == node.val) (giveLine st data p.poison) { s with mesh := rest })) := by
  simp only [exec_stackReply, execStackReply, oldest, body]

theorem exec_stackReply_writeAck {l : Nat} {rq : Requester} {st : Nat} (body : p.body = .writeAck l rq st) :
    exec (.stackReply node) s = .next (unitsGoOn node (giveAck l st rq { s with mesh := rest })) := by
  simp only [exec_stackReply, execStackReply, oldest, body]

end

/-- The line that the patrol scrub of a stack reads next. -/
def scrubLine (n : Nat) (s : State) : Nat := 3 * (stk s n).scrub + n

/-- The scrub moves on by one line. -/
def scrubNext (n : Nat) (s : State) : State := updStk n (fun t => { t with scrub := (t.scrub + 1) % stackLines }) s

theorem bankOn_scrubNext (n m b : Nat) (s : State) : bankOn (scrubNext n s) m b = bankOn s m b := rfl

section
variable {n : StackIx} {s : State} (up : stkReady s n = true) (enabled : actB s (F.STK_CTL_SCRUB_EN n) = true)
include up enabled

theorem exec_scrubRead_off (off : bankOn s n (lineBank (scrubLine n s)) = false) (e : Ecc) (k : Fin 16) :
    exec (.scrubRead n e k) s = .next (scrubNext n s) := by
  have passed : (!bankOn (scrubNext n s) n (lineBank (scrubLine n s))) = true := by rw [bankOn_scrubNext, off]; rfl
  rw [exec_scrubRead, execScrubRead, up, enabled]
  exact if_pos passed

variable (on : bankOn s n (lineBank (scrubLine n s)) = true)
include on

/-- A line of a bank that is ON is read. -/
theorem exec_scrubRead_on (k : Fin 16) :
    let s1 := bump (F.STK_SCRUB_LINE_CNT n) (scrubNext n s)
    exec (.scrubRead n .clean k) s = .next s1 ∧
      exec (.scrubRead n .corrected k) s = .next (bumpN (F.STK_CORR_CNT n) (k.val + 1) s1) ∧
      exec (.scrubRead n .uncorrectable k) s = if linePoison s (scrubLine n s) then .next s1 else
        .next (raise { src := 0x1A, dom := lineDom (scrubLine n s), access := 6, addr := scrubLine n s, detail := k }
          (markUncorr n (scrubLine n s) 1 0 s1)) := by
  have read : ¬(!bankOn (scrubNext n s) n (lineBank (scrubLine n s))) = true := by rw [bankOn_scrubNext, on]; decide
  refine ⟨?_, ?_, ?_⟩ <;>
  · rw [exec_scrubRead, execScrubRead, up, enabled]
    exact if_neg read

end

/-! ### Bank commands (R253 to R256) -/

theorem sameRegsBut.setBit {fs : List Fld} {r s : State} (h : sameRegsBut fs r s) {f : Fld} (hf : f ∈ fs) (i : Nat) (v : Bool) :
    sameRegsBut fs r (setBit f i v s) := h.set hf _

theorem ifNet_held (held : netHeld s = true) (f : State → State) : ifNet f s = bump F.GLB_DENIED_CNT s := if_pos held

theorem ifNet_up (up : netHeld s = false) (f : State → State) : ifNet f s = f s := if_neg (by simp [up])

section
variable (n b : Nat) (s : State)

/-- A bank begins to drain. -/
def drainBegun : State :=
  updStk n (fun t => { t with bank := some (b, false) })
    (setBit (F.STK_BANK_BUSY_BUSY n) b true (setBit (F.STK_BANK_ON_ON n) b false s))

/-- A bank begins to wake. -/
def wakeBegun : State := updStk n (fun t => { t with bank := some (b, true) }) (setBit (F.STK_BANK_BUSY_BUSY n) b true s)

theorem drainBegun_regs : sameRegsBut [F.STK_BANK_ON_ON n, F.STK_BANK_BUSY_BUSY n] s (drainBegun n b s) :=
  (((sameRegsBut.refl _ s).setBit (by simp) b false).setBit (by simp) b true).of_eq rfl rfl

theorem wakeBegun_regs : sameRegsBut [F.STK_BANK_BUSY_BUSY n] s (wakeBegun n b s) :=
  ((sameRegsBut.refl _ s).setBit (by simp) b true).of_eq rfl rfl

variable {b} (hb : b < 64)
include hb

theorem drainBegun_spec : bankOn (drainBegun n b s) n b = false ∧ getBit (drainBegun n b s) (F.STK_BANK_BUSY_BUSY n) b = true ∧
    (stk (drainBegun n b s) n).bank = some (b, false) := by
  refine ⟨?_, ?_, by rw [drainBegun, stk_updStk_same]⟩
  · rw [bankOn, drainBegun, getBit_updStk, getBit_setBit_ne (on_ne_busy n), getBit_setBit_same hb]
  · rw [drainBegun, getBit_updStk, getBit_setBit_same hb]

theorem wakeBegun_spec : getBit (wakeBegun n b s) (F.STK_BANK_BUSY_BUSY n) b = true ∧ (stk (wakeBegun n b s) n).bank = some (b, true) := by
  refine ⟨?_, by rw [wakeBegun, stk_updStk_same]⟩
  rw [wakeBegun, getBit_updStk, getBit_setBit_same hb]

theorem drained_spec : getBit (drained n b s) (F.STK_BANK_BUSY_BUSY n) b = false ∧ (stk (drained n b s) n).bank = none := by
  refine ⟨?_, by rw [drained, stk_updStk_same]⟩
  rw [drained, getBit_updStk, getBit_setBit_same hb]

end

section
variable {n : StackIx} {b : Fin 64} {s : State}

theorem exec_bankDown_held (up : netHeld s = false) (held : bankHeld s b = true) :
    exec (.bankDown n b) s = .next (emit .net .report [0x255, 0x02, n, b] s) := by
  rw [exec_bankDown, execBankDown, ifNet_up up, if_pos held]

theorem exec_bankDown_refused (up : netHeld s = false) (free : bankHeld s b = false) (no : bankOn s n b = false ∨ (stk s n).bank ≠ none) :
    exec (.bankDown n b) s = .next (bump (F.STK_CMD_REJ_CNT n) s) := by
  have refused : (!bankOn s n b || (stk s n).bank.isSome) = true := by simpa [Option.isSome_iff_ne_none] using no
  rw [exec_bankDown, execBankDown, ifNet_up up, if_neg (by simp [free]), if_pos refused, bankRej]

theorem exec_bankDown_drains (up : netHeld s = false) (free : bankHeld s b = false) (on : bankOn s n b = true) (rest : (stk s n).bank = none) :
    exec (.bankDown n b) s = .next (drainBegun n b s) := by
  rw [exec_bankDown, execBankDown, ifNet_up up, if_neg (by simp [free]), if_neg (by simp [on, rest]), drainBegun]

theorem exec_bankUp_refused (up : netHeld s = false) (no : bankOn s n b = true ∨ (stk s n).bank ≠ none) :
    exec (.bankUp n b) s = .next (bump (F.STK_CMD_REJ_CNT n) s) := by
  have refused : (bankOn s n b || (stk s n).bank.isSome) = true := by simpa [Option.isSome_iff_ne_none] using no
  rw [exec_bankUp, execBankUp, ifNet_up up, if_pos refused, bankRej]

theorem exec_bankUp_wakes (up : netHeld s = false) (off : bankOn s n b = false) (rest : (stk s n).bank = none) :
    exec (.bankUp n b) s = .next (wakeBegun n b s) := by
  rw [exec_bankUp, execBankUp, ifNet_up up, if_neg (by simp [off, rest]), wakeBegun]

end

/-! ### The end of a drain (R254) -/

/-- The event of a BANK_OFF refusal reaches the fault collector alone: its source does not escalate. -/
theorem bankOffEvent_flt (l src access : Nat) (s : State) : FltOnly s (bankOffEvent l src access s) := by
  refine raise_flt _ s rfl (show 1 ≤ 1 by decide) rfl ?_ (show 0x39 < 256 by decide)
  show 0x40 + l % 3 * 32 + l / 3 % 32 < 256
  omega

theorem bankOffEvent_same (l src access : Nat) (s : State) :
    (bankOffEvent l src access s).mem = s.mem ∧ (bankOffEvent l src access s).cores = s.cores := by
  have event := bankOffEvent_flt l src access s
  exact ⟨event.mem, by rw [event.1]⟩

theorem refuseRead_same (n l : Nat) (rq : Requester) (status : Nat) (s : State) :
    (refuseRead n l rq status s).mem = s.mem ∧ (refuseRead n l rq status s).cores = s.cores := by
  obtain ⟨mem, cores, -, -⟩ := replyRead_calm n l (freeBytes 512 s).1 true status [rq] (freeBytes 512 s).2
  exact ⟨mem, cores⟩

/-- The refusal of what a bank could not serve moves no memory and no core. -/
theorem drainRefuse_same (n : Nat) (p : Packet) (s : State) : (drainRefuse n p s).mem = s.mem ∧ (drainRefuse n p s).cores = s.cores := by
  unfold drainRefuse
  split
  · next l rq _ _ =>
    obtain ⟨mem, cores⟩ := refuseRead_same n l rq 0x14 (bankOffRej l p.src 0 (dropPacket p s))
    obtain ⟨mem', cores'⟩ := bankOffEvent_same l p.src 0 (bump (F.STK_BANKOFF_REJ_CNT (lineStack l)) (dropPacket p s))
    exact ⟨mem.trans mem', cores.trans cores'⟩
  · next l _ _ rq _ =>
    obtain ⟨mem, cores, -, -⟩ := replyWrite_calm n l rq 0x14 (bankOffEvent l p.src 1 (bump (F.STK_DRAIN_TMO_CNT n) (dropPacket p s)))
    obtain ⟨mem', cores'⟩ := bankOffEvent_same l p.src 1 (bump (F.STK_DRAIN_TMO_CNT n) (dropPacket p s))
    exact ⟨mem.trans mem', cores.trans cores'⟩
  · exact ⟨rfl, rfl⟩

/-- The state in which all that a draining bank still held has been refused. -/
def drainRefused (n b : Nat) (s : State) : State := each (s.mesh.filter fun p => bankQueued n b p && p.grace) (drainRefuse n) s

theorem drainRefused_mem (n b : Nat) (s : State) : (drainRefused n b s).mem = s.mem :=
  each_same State.mem _ (fun p t => (drainRefuse_same n p t).1) s

theorem drainRefused_cores (n b : Nat) (s : State) : (drainRefused n b s).cores = s.cores :=
  each_same State.cores _ (fun p t => (drainRefuse_same n p t).2) s

theorem exec_bankDrainEnd_of_draining {n : StackIx} {b : Nat} {s : State} (draining : (stk s n).bank = some (b, false)) :
    exec (.bankDrainEnd n) s = .next (drained n b (drainRefused n b s)) := by
  rw [exec_bankDrainEnd, execBankDrainEnd, draining]
  rfl

/-- Settles O27: reads by what a read performs and joins; closing entries, answers and the scrub by their commands; bank commands by the
state in which a bank begins and ends its drain or its waking. That the data of an entry leaves when it closes is log entry 29; that a
correction of the scrub only counts is log entry 43. -/
theorem stackAndBankCommandsAct : Obligations.StackAndBankCommandsAct := by
  refine ⟨?_, ?_, ?_⟩
  · intro n ch e k s p l full rq up next body s1
    have served := fun e => exec_stackRead_of_next up next body e k
    refine ⟨served e, fun inside quiet on apart => ?_, fun m inside on merges isFull opened => ?_⟩
    · rw [served, serveRead_alone (s := s1) inside (by rw [bankServes_taken, on]) apart, performRead_clean (s := s1) quiet]
      rw [readCounted, lineBytes_of_mem (show s1.mem = s.mem from rfl), linePoison_of_mem (show s1.mem = s.mem from rfl)]
    · obtain ⟨mem, count, regs, mesh⟩ := readJoined_spec n m (p.src, rq) s1
      rw [served, isFull, serveRead_joins (s := s1) inside (by rw [bankServes_taken, on]) merges (by rw [mergeOf_taken, opened])]
      have before : get s1 (F.STK_MERGE_CNT n) = get s (F.STK_MERGE_CNT n) := get_of_regs rfl _
      exact ⟨_, rfl, mem, before ▸ count, regs, mesh⟩
  · intro n ch node k s
    refine ⟨fun m => exec_mergeWindowClose_of_open, fun p rest l data rqs st oldest => exec_stackReply_readData oldest,
      fun p rest l rq st oldest => exec_stackReply_writeAck oldest, fun up enabled => ?_⟩
    intro l s0 s1
    refine ⟨fun off e => exec_scrubRead_off up enabled off e k, fun on => ?_⟩
    obtain ⟨clean, corrected, uncorrectable⟩ := exec_scrubRead_on up enabled on k
    exact ⟨clean, corrected, fun marked => uncorrectable.trans (if_pos marked),
      fun fresh => uncorrectable.trans (if_neg (ne_true_of_eq_false fresh))⟩
  · intro n b s lost
    refine ⟨fun held => ⟨?_, ?_⟩, exec_bankDown_held, exec_bankDown_refused, exec_bankUp_refused, fun up free on rest => ?_,
      fun up off rest => ?_, fun draining => ?_, fun waking => ?_⟩
    · rw [exec_bankDown, execBankDown, ifNet_held held]
    · rw [exec_bankUp, execBankUp, ifNet_held held]
    · obtain ⟨off, busy, drains⟩ := drainBegun_spec n s b.isLt
      exact ⟨_, exec_bankDown_drains up free on rest, off, busy, drains, rfl, rfl, drainBegun_regs n b s⟩
    · obtain ⟨busy, wakes⟩ := wakeBegun_spec n s b.isLt
      exact ⟨_, exec_bankUp_wakes up off rest, busy, wakes, rfl, rfl, wakeBegun_regs n b s⟩
    · obtain ⟨idle, rest⟩ := drained_spec n (drainRefused n b s) b.isLt
      have bytes := rdByte_loseBank n b (drainRefused n b s)
      have spad : (drainRefused n b s).mem.spad = s.mem.spad := by rw [drainRefused_mem]
      rw [drainRefused_mem] at bytes
      exact ⟨_, exec_bankDrainEnd_of_draining draining, idle, rest, fun a gone => (bytes a).trans (if_pos gone),
        fun a kept => (bytes a).trans (if_neg kept), spad, drainRefused_cores n b s⟩
    · obtain ⟨idle, on, rest⟩ := woken_spec n b.isLt s
      exact ⟨_, exec_bankWakeEnd_of_waking waking, idle, on, rest, fun a gone => (rdByte_loseBank n b s a).trans (if_pos gone),
        fun a kept => (rdByte_loseBank n b s a).trans (if_neg kept), rfl, rfl⟩

end Sys2Proof.Machine

namespace Sys2Proof.Machine

/-! ### Forwarding (R237 to R239) -/

/-- The virtual channel that a command names. -/
def chanOf (vc : VChan) : VC := match vc with | .ctl => .ctl | .land => .land | .rsp => .rsp | .req => .req | .bulk => .bulk

/-- The state in which a flit that has been granted its outputs has left its input. -/
def leftInput (c : Nat) (p : Packet) (s : State) : State := { granted c p s with mesh := s.mesh.erase p }

theorem leftInput_same (c : Nat) (p : Packet) (s : State) : (leftInput c p s).regs = s.regs ∧ (leftInput c p s).flt = s.flt := by
  have same : (granted c p s).regs = s.regs ∧ (granted c p s).flt = s.flt :=
    each_keeps (P := fun t => t.regs = s.regs ∧ t.flt = s.flt) _ ⟨rfl, rfl⟩ fun _ _ ht => ht
  exact same

theorem groups_of_single {p : Packet} {d : Nat} (single : p.dst = [d]) (s : State) (c : Nat) : groups s c p = [(routeOut s c d, [d])] := by
  simp [groups, uniq, single]

/-- Where an output leads lies in registers alone. -/
theorem hopOf_of_regs {s t : State} (h : s.regs = t.regs) (c o : Nat) : hopOf s c o = hopOf t c o := by
  unfold hopOf routerPresent flag
  simp only [get_of_regs h]

section
variable {c : CoreIx} {vc : VChan} {esc : Bool} {s : State}

theorem exec_flitForward_off (off : flag s (F.RTR_STAT_EN_ACT c) = false) (e : FlitErr) : exec (.flitForward c vc esc e) s = .next s := by
  simp [exec_flitForward, execFlitForward, off]

variable (enabled : flag s (F.RTR_STAT_EN_ACT c) = true)
include enabled

/-- Where none of the first flits has a credit, the wait of the first is counted. -/
theorem exec_flitForward_held {q : Packet} {f : Fld}
    (none : (inputHeads s c (chanOf vc) esc).find? (fun p => (heldFlit s c p).isNone) = none)
    (first : (inputHeads s c (chanOf vc) esc).head? = some q) (held : heldFlit s c q = some f) (e : FlitErr) :
    exec (.flitForward c vc esc e) s = .next (bump f s) := by
  cases vc <;> simp only [chanOf] at none first <;> simp [exec_flitForward, execFlitForward, enabled, none, first, held]

variable {p : Packet} (oldest : (inputHeads s c (chanOf vc) esc).find? (fun p => (heldFlit s c p).isNone) = some p)
include oldest

theorem exec_flitForward_yields (waits : yields s c p = true) (e : FlitErr) : exec (.flitForward c vc esc e) s = .next s := by
  cases vc <;> simp only [chanOf] at oldest <;> simp [exec_flitForward, execFlitForward, enabled, oldest, waits]

/-- A flit of one destination that meets no error goes along its output. -/
theorem exec_flitForward_goes (goes : yields s c p = false) {d : Nat} (single : p.dst = [d]) (op : p.op = none) (normal : inSafe s = false)
    (quiet : s.flt.inj = none) :
    exec (.flitForward c vc esc .clean) s = .next (sendCopy c p (routeOut s c d, [d]) (leftInput c p s)) := by
  obtain ⟨regs, flt⟩ := leftInput_same c p s
  have safe : inSafe (leftInput c p s) = false := by rw [← normal, inSafe, inSafe, flag, flag, get_of_regs regs]
  have found : flitErr s c .clean = .clean := by simp [flitErr, injActs, quiet]
  have source : leftSource c p (leftInput c p s) = leftInput c p s := by simp [leftSource, op]
  have sent : exec (.flitForward c vc esc .clean) s =
      .next (each (groups s c p) (sendCopy c { p with poison := p.poison || inSafe (leftSource c p (leftInput c p s)) })
        (when (routerPresent (leftSource c p (leftInput c p s)) c && decide (1 < (groups s c p).length))
          (bumpN (F.RTR_MCAST_FORK_CNT c) ((groups s c p).length - 1)) (leftSource c p (leftInput c p s)))) := by
    cases vc <;> simp only [chanOf] at oldest <;>
      simp [exec_flitForward, execFlitForward, enabled, oldest, goes, found, flitFault, leftInput]
  rw [sent, source, safe, groups_of_single single, Bool.or_false]
  simp [when]

end

section
variable {c o d : Nat} {p : Packet} {s : State} (plain : p.esc = false) (op : p.op = none) (route : flag s (F.RTR_ROUTE_ESC c d) = false)
include plain op route

/-- One hop of a flit along the tree: to the next router, to a crust node, or to the core. -/
theorem sendCopy_router {r : Nat} (hop : hopOf s c o = .router r) : sendCopy c p (o, [d]) s =
    let s2 := seamCross c r p (bumpRtr c (F.RTR_FLIT_CNT c) s)
    { s2 with mesh := s2.mesh ++ [{ p with dst := [d], via := c, pos := r }] } := by
  simp [sendCopy, hop, plain, op, route, when]

theorem sendCopy_core (hop : hopOf s c o = .core) : sendCopy c p (o, [d]) s =
    bumpRtr c (F.RTR_EJ_CNT c) { bumpRtr c (F.RTR_FLIT_CNT c) s with
      mesh := (bumpRtr c (F.RTR_FLIT_CNT c) s).mesh ++ [{ p with dst := [d], via := c, pos := c, arrived := true }] } := by
  simp [sendCopy, hop, plain, op, route, when]

theorem sendCopy_crust {n : Nat} (hop : hopOf s c o = .crust n) (request : ∀ x e, p.body ≠ .cell x e) : sendCopy c p (o, [d]) s =
    { bumpRtr c (F.RTR_FLIT_CNT c) s with mesh := (bumpRtr c (F.RTR_FLIT_CNT c) s).mesh ++
        [{ p with dst := [d], via := c, pos := n, arrived := true, grace := bankTakes (bumpRtr c (F.RTR_FLIT_CNT c) s) n p.body }] } := by
  simp [sendCopy, hop, plain, op, route, when]

end

/-! ### NACKs and RTR_CTL.EN (R197, R242, R279) -/

theorem exec_nackReceived_of_first {c : CoreIx} {s : State} {p : Packet} {rest : List Packet}
    (first : takeFirst (fun p => p.arrived && p.pos == c.val && match p.body with | .nack _ => true | _ => false) s.mesh = some (p, rest)) :
    exec (.nackReceived c) s = .next (bump (F.CORE_CTL_NACK_RX_CNT c) { s with mesh := rest }) := by
  rw [exec_nackReceived]
  unfold execNackReceived
  dsimp only
  split
  · next r found =>
    obtain rfl : (p, rest) = r := Option.some.inj (first.symm.trans found)
    rfl
  · next found => exact nomatch first.symm.trans found

/-- The distances of a router stand in registers of their own. -/
theorem setDist_frame (c d : Nat) (s : State) : calm s (setDist c d s) ∧ (setDist c d s).mesh = s.mesh ∧
    ∀ g : Fld, g.key < 0x8581000 + c * 0x800000 → get (setDist c d s) g = get s g := by
  unfold setDist
  split
  · refine ⟨⟨rfl, rfl, rfl, rfl⟩, rfl, fun g hg => ?_⟩
    rw [get_setB_ne, get_setB_ne, get_set_ne, get_set_ne] <;>
      simp only [F.RTR_CORE_DIST_HOPS, F.RTR_CORE_DIST_LAT, F.RTR_CORE_DIST_REACH, F.RTR_CORE_DIST_SEAM] <;> omega
  · refine ⟨⟨rfl, rfl, rfl, rfl⟩, rfl, fun g hg => get_setB_ne ?_ ..⟩
    simp only [F.RTR_CORE_DIST_REACH]
    omega

/-- The distances of a router have been computed. -/
def distsSet (c : Nat) (s : State) : State := upTo 37 (setDist c) s

theorem distsSet_frame (c : Nat) (s : State) : calm s (distsSet c s) ∧ (distsSet c s).mesh = s.mesh ∧
    ∀ g : Fld, g.key < 0x8581000 + c * 0x800000 → get (distsSet c s) g = get s g := by
  refine upTo_keeps (P := fun t => calm s t ∧ t.mesh = s.mesh ∧ ∀ g : Fld, g.key < 0x8581000 + c * 0x800000 → get t g = get s g) 37
    ⟨.refl s, rfl, fun _ _ => rfl⟩ fun d t ⟨quiet, mesh, regs⟩ => ?_
  obtain ⟨quiet', mesh', regs'⟩ := setDist_frame c d t
  exact ⟨quiet.trans quiet', mesh'.trans mesh, fun g hg => (regs' g hg).trans (regs g hg)⟩

/-- The router has started to forward, with valid distances. -/
def meshEnabled (c : Nat) (s : State) : State :=
  setB (F.RTR_STAT_DIST_VALID c) true (distsSet c (setB (F.RTR_STAT_EN_ACT c) true (setB (F.RTR_CTL_EN c) true s)))

theorem enableMesh_starts {c : Nat} {s : State} (there : routerPresent s c = true) (off : flag s (F.RTR_CTL_EN c) = false) :
    enableMesh c s = meshEnabled c s := if_neg (by simp [there, off])

theorem enableMesh_absent {c : Nat} {s : State} (absent : routerPresent s c = false) : enableMesh c s = s := if_pos (by simp [absent])

theorem meshEnabled_flags (c : Nat) (s : State) : flag (meshEnabled c s) (F.RTR_CTL_EN c) = true ∧
    flag (meshEnabled c s) (F.RTR_STAT_EN_ACT c) = true ∧ flag (meshEnabled c s) (F.RTR_STAT_DIST_VALID c) = true := by
  obtain ⟨-, -, regs⟩ := distsSet_frame c (setB (F.RTR_STAT_EN_ACT c) true (setB (F.RTR_CTL_EN c) true s))
  have below : (F.RTR_CTL_EN c).key < 0x8581000 + c * 0x800000 ∧ (F.RTR_STAT_EN_ACT c).key < 0x8581000 + c * 0x800000 := by
    simp only [F.RTR_CTL_EN, F.RTR_STAT_EN_ACT]
    omega
  have apart : (F.RTR_CTL_EN c).key ≠ (F.RTR_STAT_DIST_VALID c).key ∧ (F.RTR_STAT_EN_ACT c).key ≠ (F.RTR_STAT_DIST_VALID c).key ∧
      (F.RTR_CTL_EN c).key ≠ (F.RTR_STAT_EN_ACT c).key := by
    simp only [F.RTR_CTL_EN, F.RTR_STAT_EN_ACT, F.RTR_STAT_DIST_VALID]
    omega
  refine ⟨flag_of_get ?_, flag_of_get ?_, flag_of_get (get_setB_same ..)⟩
  · rw [meshEnabled, get_setB_ne apart.1, regs _ below.1, get_setB_ne apart.2.2, get_setB_same]
    rfl
  · rw [meshEnabled, get_setB_ne apart.2.1, regs _ below.2, get_setB_same]
    rfl

theorem setB_calm (f : Fld) (b : Bool) (s : State) : calm s (setB f b s) := set_calm ..

theorem meshEnabled_same (c : Nat) (s : State) : calm s (meshEnabled c s) ∧ (meshEnabled c s).mesh = s.mesh := by
  obtain ⟨quiet, mesh, -⟩ := distsSet_frame c (setB (F.RTR_STAT_EN_ACT c) true (setB (F.RTR_CTL_EN c) true s))
  exact ⟨(((setB_calm ..).trans (setB_calm ..)).trans quiet).trans (setB_calm ..), by rw [meshEnabled, setB_mesh, mesh, setB_mesh, setB_mesh]⟩

/-- Settles O25: a forwarding router by what becomes of the oldest flit, and a hop by where it leads. That the oldest of a channel's first flits goes
before the others is the model's choice (log entry 64). -/
theorem routersForward : Obligations.RoutersForward := by
  refine ⟨?_, ?_⟩
  · intro c vc esc s p o d ch l free
    have heads : l = inputHeads s c (chanOf vc) esc := by cases vc <;> rfl
    rw [heads]
    refine ⟨fun off e => exec_flitForward_off off e, fun enabled normal quiet => ⟨fun q f none first held => ?_, fun oldest waits => ?_,
      fun oldest goes single op plain out route => ?_⟩⟩
    · exact exec_flitForward_held enabled none first held .clean
    · exact exec_flitForward_yields enabled oldest waits .clean
    · intro s1 q
      have sent := exec_flitForward_goes enabled oldest goes single op normal quiet
      obtain ⟨regs, -⟩ := leftInput_same c p s
      have route' : flag (leftInput c p s) (F.RTR_ROUTE_ESC c d) = false := by rw [flag, get_of_regs regs]; exact route
      rw [out] at sent
      refine ⟨fun r hop => ?_, fun n hop request => ?_, fun hop => ?_⟩ <;> rw [← hopOf_of_regs regs] at hop
      · exact sent.trans (congrArg _ (sendCopy_router plain op route' hop))
      · exact sent.trans (congrArg _ (sendCopy_crust plain op route' hop request))
      · exact sent.trans (congrArg _ (sendCopy_core plain op route' hop))
  · intro c s p rest isNack
    refine ⟨exec_nackReceived_of_first, fun held => ?_, fun up there off => ?_, fun up absent => ?_⟩
    · rw [exec_meshEnable, execMeshEnable, ifNet_held held]
    · obtain ⟨en, act, valid⟩ := meshEnabled_flags c s
      obtain ⟨⟨mem, cores, acts, -⟩, mesh⟩ := meshEnabled_same c s
      refine ⟨_, ?_, en, act, valid, mem, cores, mesh, acts⟩
      rw [exec_meshEnable, execMeshEnable, ifNet_up up, enableMesh_starts there off]
    · rw [exec_meshEnable, execMeshEnable, ifNet_up up, enableMesh_absent absent]

end Sys2Proof.Machine

namespace Sys2Proof.Machine

/-! ### Notices to the host (R346) -/

/-- Nothing has changed but what the host and the management network see: pages, mailbox, messages, and the count of notices dropped. -/
def NoticeOnly (s t : State) : Prop :=
  t = { s with regs := t.regs, pages := t.pages, mbx := t.mbx, out := t.out } ∧ ∀ g : Fld, g.key ≠ F.MBX_EVT_DROP_CNT.key → get t g = get s g

theorem NoticeOnly.refl (s : State) : NoticeOnly s s := ⟨rfl, fun _ _ => rfl⟩

theorem NoticeOnly.trans {r s t : State} (h : NoticeOnly r s) (k : NoticeOnly s t) : NoticeOnly r t :=
  ⟨k.1.trans (by rw [h.1]), fun g hg => (k.2 g hg).trans (h.2 g hg)⟩

theorem NoticeOnly.each {α : Type} (l : List α) {f : α → State → State} (h : ∀ a t, NoticeOnly t (f a t)) (s : State) :
    NoticeOnly s (each l f s) :=
  each_keeps (P := NoticeOnly s) l (.refl s) fun a t ht => ht.trans (h a t)

theorem NoticeOnly.emit (d : Party) (t : Topic) (args : List Nat) (s : State) : NoticeOnly s (emit d t args s) := ⟨rfl, fun _ _ => rfl⟩

theorem NoticeOnly.updPage (f : Nat) (g : Page → Page) (s : State) : NoticeOnly s (updPage f g s) := ⟨rfl, fun _ _ => rfl⟩

theorem NoticeOnly.putPage (f ofs : Nat) (bs : List Byte) (s : State) : NoticeOnly s (putPage f ofs bs s) := ⟨rfl, fun _ _ => rfl⟩

theorem raiseVector_notice (f v : Nat) (s : State) : NoticeOnly s (raiseVector f v s) := by
  unfold raiseVector
  split
  · exact .emit ..
  · exact .updPage ..

theorem putEvent_notice (f : Nat) (h : Header) (s : State) : NoticeOnly s (putEvent f h s) := by
  unfold putEvent
  split
  · exact when_keeps (P := NoticeOnly s) _ ((NoticeOnly.putPage ..).trans (.updPage ..)) fun t ht => ht.trans (raiseVector_notice ..)
  · exact .each _ (fun _ _ => .emit ..) s

theorem noticeTo_notice (f op part : Nat) (inl : List Byte) (s : State) : NoticeOnly s (noticeTo f op part inl s) := by
  unfold noticeTo
  split
  · exact ⟨rfl, fun _ hg => get_bump_ne hg _⟩
  · exact (NoticeOnly.updPage ..).trans (putEvent_notice ..)

/-- A notice reaches pages, mailbox and messages alone. -/
theorem notify_notice (op : Nat) (part : Option Nat) (inl : List Byte) (s : State) : NoticeOnly s (notify op part inl s) :=
  (NoticeOnly.each _ (fun _ _ => noticeTo_notice ..) s).trans (.emit ..)

/-! ### What an effect on a link leaves as it was -/

/-- What an effect on the link of a port leaves as it was: the memories, the cores, the active values, the states of all ports, the other ports, and
of this one what `keep` shows. -/
structure LinkFrame {α : Type} (keep : PortSt → α) (p : PortIx) (s t : State) : Prop where
  mem : t.mem = s.mem
  cores : t.cores = s.cores
  act : t.act = s.act
  kept : keep (port t p) = keep (port s p)
  others : ∀ q : PortIx, q ≠ p → port t q = port s q
  states : ∀ q : PortIx, pState t q = pState s q

theorem port_of_ports {s t : State} (h : t.ports = s.ports) (q : Nat) : port t q = port s q := by unfold port; rw [h]

theorem port_updPort_ne {p q : Nat} (h : q ≠ p) (f : PortSt → PortSt) (s : State) : port (updPort p f s) q = port s q := SMap.get_put_ne _ _ _ h

/-- A field of a port's block other than FAB_STAT.STATE. -/
theorem fab_apart {x p : Nat} (h : x % 0x80000 ≠ 0x20) : (x + p * 0x80000) % 0x80000 ≠ 0x20 := by omega

theorem stateKey_ne {k : Nat} (h : k % 0x80000 ≠ 0x20) (q : Nat) : (F.FAB_STAT_STATE q).key ≠ k := by
  simp only [F.FAB_STAT_STATE]
  omega

section
variable {α : Type} {keep : PortSt → α} {p : PortIx}

theorem LinkFrame.refl (s : State) : LinkFrame keep p s s := ⟨rfl, rfl, rfl, rfl, fun _ _ => rfl, fun _ => rfl⟩

theorem LinkFrame.trans {r s t : State} (h : LinkFrame keep p r s) (k : LinkFrame keep p s t) : LinkFrame keep p r t :=
  ⟨k.mem.trans h.mem, k.cores.trans h.cores, k.act.trans h.act, k.kept.trans h.kept, fun q hq => (k.others q hq).trans (h.others q hq),
    fun q => (k.states q).trans (h.states q)⟩

/-- An effect that leaves the ports as they are. -/
theorem LinkFrame.of_ports {s t : State} (mem : t.mem = s.mem) (cores : t.cores = s.cores) (act : t.act = s.act) (ports : t.ports = s.ports)
    (states : ∀ q : PortIx, pState t q = pState s q) : LinkFrame keep p s t :=
  ⟨mem, cores, act, congrArg keep (port_of_ports ports _), fun q _ => port_of_ports ports q, states⟩

/-- A write of a register that is no port's FAB_STAT.STATE. -/
theorem LinkFrame.set {f : Fld} (apart : f.key % 0x80000 ≠ 0x20) (v : Nat) (s : State) : LinkFrame keep p s (set f v s) :=
  .of_ports rfl rfl rfl rfl fun q => get_set_ne (stateKey_ne apart q) v s

theorem LinkFrame.bump {f : Fld} (apart : f.key % 0x80000 ≠ 0x20) (s : State) : LinkFrame keep p s (bump f s) := .set apart _ s

theorem LinkFrame.updPort {f : PortSt → PortSt} (h : ∀ k, keep (f k) = keep k) (s : State) : LinkFrame keep p s (updPort p f s) :=
  ⟨rfl, rfl, rfl, (congrArg keep (port_updPort_same ..)).trans (h _), fun _ hq => port_updPort_ne (Fin.val_ne_of_ne hq) f s, fun _ => rfl⟩

theorem LinkFrame.each {β : Type} (l : List β) {f : β → State → State} (h : ∀ a ∈ l, ∀ t, LinkFrame keep p t (f a t)) (s : State) :
    LinkFrame keep p s (each l f s) := by
  induction l generalizing s with
  | nil => exact .refl s
  | cons a l ih => exact (h a (by simp) s).trans (ih (fun b hb => h b (by simp [hb])) _)

theorem LinkFrame.when (b : Bool) {f : State → State} (h : ∀ t, LinkFrame keep p t (f t)) (s : State) : LinkFrame keep p s (when b f s) :=
  when_keeps (P := LinkFrame keep p s) b (.refl s) fun t ht => ht.trans (h t)

theorem FltOnly.linkFrame {s t : State} (h : FltOnly s t) : LinkFrame keep p s t :=
  .of_ports (by rw [h.1]) (by rw [h.1]) (by rw [h.1]) (by rw [h.1]) fun q => h.2 _ (.inr (show 0x1806000 ≤ 0x4000020 + q.val * 0x80000 by omega))

theorem NoticeOnly.linkFrame {s t : State} (h : NoticeOnly s t) : LinkFrame keep p s t :=
  .of_ports (by rw [h.1]) (by rw [h.1]) (by rw [h.1]) (by rw [h.1]) fun q => h.2 _ (stateKey_ne (by decide) q)

theorem LinkFrame.updFw (f : FwSt → FwSt) (s : State) : LinkFrame keep p s (updFw f s) := .of_ports rfl rfl rfl rfl fun _ => rfl

theorem LinkFrame.emit (d : Party) (t : Topic) (args : List Nat) (s : State) : LinkFrame keep p s (emit d t args s) :=
  .of_ports rfl rfl rfl rfl fun _ => rfl

theorem LinkFrame.putOq (r : Nat) (q : Option OutRing) (s : State) : LinkFrame keep p s (putOq r q s) := .of_ports rfl rfl rfl rfl fun _ => rfl

theorem LinkFrame.freeBytes (n : Nat) (s : State) : LinkFrame keep p s (freeBytes n s).2 := .of_ports rfl rfl rfl rfl fun _ => rfl

/-- The event of a port that does not escalate. -/
theorem raise_linkFrame {src : Nat} (settled : srcEscalates src = false) (low : srcClass src ≤ 1) (small : src < 256) (s : State) :
    LinkFrame keep p s (raise { src := src, dom := portDom p } s) :=
  (raise_flt _ s settled low rfl (show 0xA0 + p.val < 256 by omega) small).linkFrame

/-! ### NACKs -/

theorem inject_ports (k : Packet) (s : State) : (inject k s).ports = s.ports := by
  unfold inject place
  have counted : ∀ b, (when b (bumpRtr k.src (F.RTR_INJ_CNT k.src)) s).ports = s.ports := fun b =>
    when_keeps (P := fun t => t.ports = s.ports) b rfl fun t ht => when_keeps (P := fun t => t.ports = s.ports) _ ht fun _ h => h
  split <;> exact counted _

/-- What a crust node injects. -/
theorem inject_linkFrame {k : Packet} (outside : 20 ≤ k.src) (s : State) : LinkFrame keep p s (inject k s) := by
  obtain ⟨mem, cores, act, -⟩ := inject_calm k s
  exact .of_ports mem cores act (inject_ports k s) fun q => get_of_regs (inject_regs outside s) _

theorem fabNode_outside (r : Nat) : 20 ≤ fabNode r := Nat.le_trans (by decide) (Nat.le_add_right 23 r)

theorem tagNack_linkFrame (tag status : Nat) (s : State) : LinkFrame keep p s (tagNack tag status s) := by
  unfold tagNack
  dsimp only
  split
  · exact .of_ports rfl rfl rfl rfl fun _ => rfl
  split
  · exact .refl s
  split
  · exact (LinkFrame.set (by decide) _ s).trans (notify_notice ..).linkFrame
  split
  · exact .putOq ..
  · exact .refl s

theorem nackLocal_linkFrame (r : Nat) (c : Cell) (status : Nat) (s : State) : LinkFrame keep p s (nackLocal r c status s) := by
  unfold nackLocal
  split
  · exact .refl s
  split
  · exact tagNack_linkFrame ..
  split
  · exact inject_linkFrame (fabNode_outside r) s
  · exact .refl s

theorem discard_linkFrame {f : Fld} (apart : f.key % 0x80000 ≠ 0x20) (r status : Nat) (l : List Cell) (s : State) :
    LinkFrame keep p s (discard r f status l s) := by
  refine .each l (fun c _ t => LinkFrame.trans ?_ (.set apart ..)) s
  split
  · exact nackLocal_linkFrame ..
  · exact .refl t

theorem askNack_linkFrame (h : ∀ k l, keep { k with nacks := l } = keep k) (c : Cell) (status : Nat) (s : State) :
    LinkFrame keep p s (askNack p c status s) := by
  unfold askNack
  split
  · exact .refl s
  split
  · exact .updPort (fun k => h k _) s
  · exact .set (fab_apart (by decide)) ..

theorem showCredit_linkFrame (s : State) : LinkFrame keep p s (showCredit p s) :=
  ((LinkFrame.set (fab_apart (by decide)) _ s).trans (.set (fab_apart (by decide)) ..)).trans (.set (fab_apart (by decide)) ..)

theorem portEvent_linkFrame (r : Nat) (s : State) : LinkFrame keep p s (portEvent r s) :=
  (LinkFrame.freeBytes 1 s).trans (notify_notice ..).linkFrame

theorem linkHeard_linkFrame (a r st : Nat) (s : State) : LinkFrame keep p s (linkHeard a r st s) := by
  unfold linkHeard
  dsimp only
  split
  · exact .updFw ..
  · exact (LinkFrame.updFw ..).trans (.updFw ..)

theorem flood_linkFrame (r : Nat) (s : State) : LinkFrame keep p s (flood r s) := (linkHeard_linkFrame ..).trans (.emit ..)

/-- Beyond the state itself, a new state of a port is flooded and reported (R302, R305). -/
theorem setP_linkFrame (n : Nat) (s : State) : LinkFrame keep p (set (F.FAB_STAT_STATE p) n s) (setP p n s) := by
  unfold setP
  dsimp only
  split
  · exact (flood_linkFrame ..).trans (.when _ (portEvent_linkFrame _) _)
  · exact .refl _

end

/-! ### A port enters a state (Table 9.2) -/

/-- The port has entered a state, and nothing else has changed of the ports' states, the other ports, the cells in its ingress storage, the memories
and the cores. -/
def movesTo (p : PortIx) (n : Nat) (s t : State) : Prop :=
  pState t p = n ∧ t.mem = s.mem ∧ t.cores = s.cores ∧ (port t p).ingress = (port s p).ingress ∧
    ∀ q : PortIx, q ≠ p → port t q = port s q ∧ pState t q = pState s q

section
variable {p : PortIx}

/-- What goes before and after the entry leaves the states alone. -/
theorem movesTo_of_frames {n : Nat} (code : n < 8) {s u t : State} (before : LinkFrame PortSt.ingress p s u)
    (after : LinkFrame PortSt.ingress p (setP p n u) t) : movesTo p n s t := by
  have rest := (setP_linkFrame n u).trans after
  refine ⟨?_, rest.mem.trans before.mem, rest.cores.trans before.cores, rest.kept.trans before.kept, fun q hq =>
    ⟨(rest.others q hq).trans (before.others q hq), (rest.states q).trans (Eq.trans ?_ (before.states q))⟩⟩
  · exact (rest.states p).trans ((get_set_same ..).trans (Nat.mod_eq_of_lt code))
  · refine get_set_ne ?_ n u
    have := Fin.val_ne_of_ne hq
    simp only [F.FAB_STAT_STATE]
    omega

theorem startRetrain_linkFrame (s : State) : LinkFrame PortSt.ingress p s (startRetrain p s) :=
  ((LinkFrame.updPort (fun _ => by rfl) s).trans (.set (fab_apart (by decide)) ..)).trans (raise_linkFrame rfl (by decide) (by decide) _)

theorem enterQuar_movesTo (reason : Nat) (s : State) : movesTo p 4 s (enterQuar p reason s) :=
  movesTo_of_frames (by decide) (.set (fab_apart (by decide)) reason s)
    ((LinkFrame.updPort (fun _ => by rfl) _).trans (discard_linkFrame (fab_apart (by decide)) ..))

theorem movesTo.then {n : Nat} {s t u : State} (h : movesTo p n s t) (k : LinkFrame PortSt.ingress p t u) : movesTo p n s u := by
  obtain ⟨state, mem, cores, held, others⟩ := h
  exact ⟨(k.states p).trans state, k.mem.trans mem, k.cores.trans cores, k.kept.trans held, fun q hq =>
    ⟨(k.others q hq).trans (others q hq).1, (k.states q).trans (others q hq).2⟩⟩

theorem movesTo.after {n : Nat} {s t u : State} (h : LinkFrame PortSt.ingress p s t) (k : movesTo p n t u) : movesTo p n s u := by
  obtain ⟨state, mem, cores, held, others⟩ := k
  exact ⟨state, mem.trans h.mem, cores.trans h.cores, held.trans h.kept, fun q hq =>
    ⟨(others q hq).1.trans (h.others q hq), (others q hq).2.trans (h.states q)⟩⟩

theorem hwQuar_movesTo (reason : Nat) (s : State) : movesTo p 4 s (hwQuar p reason s) :=
  (enterQuar_movesTo reason s).then (raise_linkFrame rfl (by decide) (by decide) _)

end

/-! ### What a port takes in (R282 to R285) -/

/-- The port may take in a cell: an AUTH cell in AUTH and QUARANTINED, else a TIME or AUTH cell or one whose SRC is admitted. -/
def mayEnter (p : PortIx) (s : State) (c : Cell) : Prop :=
  ((pState s p = 2 ∨ pState s p = 4) → isAuth c = true) ∧ (isAuth c = false → isTime c = false → srcOk s p c.src = true)

/-- The memories and the cores stay, and what enters the port's ingress storage may. -/
def TakesIn (p : PortIx) (s t : State) : Prop :=
  t.mem = s.mem ∧ t.cores = s.cores ∧ ∀ x ∈ (port t p).ingress, x ∈ (port s p).ingress ∨ mayEnter p s x.2.2

section
variable {p : PortIx}

theorem srcOk_of_act {s t : State} (h : s.act = t.act) (r src : Nat) : srcOk s r src = srcOk t r src := by
  unfold srcOk actB actv
  rw [h]

theorem LinkFrame.mayEnter {s t : State} (h : LinkFrame PortSt.ingress p s t) (c : Cell) : mayEnter p t c ↔ mayEnter p s c := by
  unfold Machine.mayEnter
  rw [h.states, srcOk_of_act h.act]

theorem LinkFrame.takesIn {s t : State} (h : LinkFrame PortSt.ingress p s t) : TakesIn p s t :=
  ⟨h.mem, h.cores, fun _ hx => .inl (h.kept ▸ hx)⟩

theorem movesTo.takesIn {n : Nat} {s t : State} (h : movesTo p n s t) : TakesIn p s t := by
  obtain ⟨-, mem, cores, held, -⟩ := h
  exact ⟨mem, cores, fun _ hx => .inl (held ▸ hx)⟩

theorem TakesIn.after {s t u : State} (h : LinkFrame PortSt.ingress p s t) (k : TakesIn p t u) : TakesIn p s u := by
  obtain ⟨mem, cores, entered⟩ := k
  exact ⟨mem.trans h.mem, cores.trans h.cores, fun x hx => (entered x hx).imp (h.kept ▸ ·) (h.mayEnter _).1⟩

theorem TakesIn.then {s t u : State} (h : TakesIn p s t) (k : LinkFrame PortSt.ingress p t u) : TakesIn p s u := by
  obtain ⟨mem, cores, entered⟩ := h
  exact ⟨k.mem.trans mem, k.cores.trans cores, fun x hx => entered x (k.kept ▸ hx)⟩

theorem freeCredit_linkFrame (pool : Nat) (s : State) : LinkFrame PortSt.ingress p s (freeCredit p pool s) := .updPort (fun _ => by rfl) s

theorem rxCnt_apart (r cls : Nat) : (rxCnt r cls).key % 0x80000 ≠ 0x20 := by
  unfold rxCnt
  split
  · exact fab_apart (by decide)
  split <;> exact fab_apart (by decide)

theorem stored_takesIn {x : Nat × Nat × Cell} {s : State} (may : mayEnter p s x.2.2) :
    TakesIn p s (updPort p (fun k => { k with ingress := k.ingress ++ [x] }) s) := by
  refine ⟨rfl, rfl, fun y hy => ?_⟩
  rw [port_updPort_same] at hy
  rcases List.mem_append.1 hy with old | new
  · exact .inl old
  · obtain rfl := List.mem_singleton.1 new
    exact .inr may

/-- Check 9: a cell that may enter is stored, or dropped without a way on. -/
theorem acceptCell_takesIn (pool t16 : Nat) {c : Cell} {s : State} (may : mayEnter p s c) : TakesIn p s (acceptCell p pool t16 c s) := by
  unfold acceptCell
  dsimp only
  split
  · exact (((LinkFrame.set (fab_apart (by decide)) _ s).trans (askNack_linkFrame (fun _ _ => by rfl) ..)).trans
      (freeCredit_linkFrame ..)).takesIn
  · exact (stored_takesIn may).then (.bump (rxCnt_apart p c.cls) _)

theorem newWindow_linkFrame (s : State) : LinkFrame PortSt.ingress p s (newWindow p s) := by
  unfold newWindow
  dsimp only
  split
  · exact .refl s
  · exact .updPort (fun _ => by rfl) s

theorem fillBuckets_linkFrame (s : State) : LinkFrame PortSt.ingress p s (fillBuckets p s) := by
  unfold fillBuckets
  exact .updPort (fun _ => by rfl) s

theorem policeIn_linkFrame (c : Cell) (s : State) : LinkFrame PortSt.ingress p s (policeIn p c s).2 := by
  have filled : LinkFrame PortSt.ingress p s (fillBuckets p s) := fillBuckets_linkFrame s
  unfold policeIn
  dsimp only
  split
  · split
    · exact filled
    · dsimp only
      exact filled.trans (.updPort (fun _ => by rfl) _)
  · split
    · exact filled
    · dsimp only
      exact filled.trans (.updPort (fun _ => by rfl) _)

theorem hwQuarIf_takesIn (b : Bool) (reason : Nat) (s : State) : TakesIn p s (if b then hwQuar p reason s else s) := by
  split
  · exact (hwQuar_movesTo reason s).takesIn
  · exact (LinkFrame.refl s).takesIn

/-- A cell dropped for want of credit (check 4). -/
def overdrawn (p : PortIx) (s : State) : State :=
  bump (F.FAB_DROP_CREDIT p) (updPort p (fun k => { k with winCrd := k.winCrd + 1 }) (newWindow p s))

/-- A cell dropped for its SRC (check 6). -/
def strayed (p : PortIx) (pool : Nat) (s : State) : State :=
  freeCredit p pool (bump (F.FAB_DROP_SOURCE p) (updPort p (fun k => { k with winSrc := k.winSrc + 1 }) (newWindow p s)))

/-- Whether the token buckets let a cell pass, and the state with its token taken (check 7). -/
def policed (p : PortIx) (c : Cell) (s : State) : Bool × State := if c.cls = 0 || isAuth c || isTime c then (true, s) else policeIn p c s

/-- A SCHED cell goes through the check of its slot (check 8). -/
def schedJudged (p : PortIx) (c : Cell) (replay : Bool) (pool t16 : Nat) (s : State) : State :=
  let late := cellLate s c t16
  let c1 := { c with late := c.late || late, poison := c.poison || late }
  let s2 := when late (bump (F.FAB_LATE_CNT p)) s
  if !slotPass s2 p c1 replay t16 then freeCredit p pool (askNack p c1 0x15 (bump (F.FAB_DROP_SLOT p) s2)) else acceptCell p pool t16 c1 s2

/-- A cell whose SRC and state are in order. -/
def entryJudged (p : PortIx) (c : Cell) (replay : Bool) (t16 : Nat) (s : State) : State :=
  let a := policed p c s
  if !a.1 then freeCredit p (poolOf c) (bump (F.FAB_DROP_POLICE p) a.2)
  else if c.cls = 0 then schedJudged p c replay (poolOf c) t16 a.2
  else acceptCell p (poolOf c) t16 c a.2

/-- The cell is counted as received. -/
def cellCounted (p : PortIx) (c : Cell) (s : State) : State := updPort p (fun k => { k with rcvd := addAt k.rcvd (poolOf c) }) s

theorem judgeCell_eq (c : Cell) (replay : Bool) (s : State) : judgeCell p c replay s =
    if !kindOk c then bump (F.FAB_DROP_HDR p) s
    else if (pState s p = 4 || pState s p = 2) && !isAuth c then freeCredit p (poolOf c) (cellCounted p c (bump (F.FAB_DROP_QUAR p) s))
    else if nth 0 poolDepth (poolOf c) ≤
        (nth 0 (port s p).rcvd (poolOf c) + 65536 - nth 0 (port s p).freed (poolOf c)) % 65536 then
      if actB (overdrawn p s) (F.FAB_QUAR_CFG_AUTO_EN p) &&
          max 1 (actv (overdrawn p s) (F.FAB_QUAR_CFG_CRD_LIM p)) ≤ (port (overdrawn p s) p).winCrd
        then hwQuar p 4 (overdrawn p s) else overdrawn p s
    else if !(isAuth c || isTime c) && !srcOk (cellCounted p c s) p c.src then
      if actB (strayed p (poolOf c) (cellCounted p c s)) (F.FAB_QUAR_CFG_AUTO_EN p) &&
          actv (strayed p (poolOf c) (cellCounted p c s)) (F.FAB_QUAR_CFG_SRC_LIM p) ≤ (port (strayed p (poolOf c) (cellCounted p c s)) p).winSrc
        then hwQuar p 3 (strayed p (poolOf c) (cellCounted p c s)) else strayed p (poolOf c) (cellCounted p c s)
    else entryJudged p c replay (now16 s) (cellCounted p c s) := rfl

theorem cellCounted_linkFrame (c : Cell) (s : State) : LinkFrame PortSt.ingress p s (cellCounted p c s) := .updPort (fun _ => by rfl) s

theorem overdrawn_linkFrame (s : State) : LinkFrame PortSt.ingress p s (overdrawn p s) :=
  ((newWindow_linkFrame s).trans (.updPort (fun _ => by rfl) _)).trans (.set (fab_apart (by decide)) ..)

theorem strayed_linkFrame (pool : Nat) (s : State) : LinkFrame PortSt.ingress p s (strayed p pool s) :=
  (((newWindow_linkFrame s).trans (.updPort (fun _ => by rfl) _)).trans (.set (fab_apart (by decide)) ..)).trans (freeCredit_linkFrame ..)

theorem policed_linkFrame (c : Cell) (s : State) : LinkFrame PortSt.ingress p s (policed p c s).2 := by
  unfold policed
  split
  · exact .refl s
  · exact policeIn_linkFrame c s

theorem schedJudged_takesIn (replay : Bool) (pool t16 : Nat) {c : Cell} {s : State} (may : mayEnter p s c) :
    TakesIn p s (schedJudged p c replay pool t16 s) := by
  have late : LinkFrame PortSt.ingress p s (when (cellLate s c t16) (bump (F.FAB_LATE_CNT p)) s) :=
    .when _ (fun t => .bump (fab_apart (by decide)) t) s
  unfold schedJudged
  refine .after late ?_
  dsimp only
  split
  · exact (((LinkFrame.set (fab_apart (by decide)) ..).trans (askNack_linkFrame (fun _ _ => by rfl) ..)).trans (freeCredit_linkFrame ..)).takesIn
  · exact acceptCell_takesIn _ _ ((late.mayEnter c).2 may)

theorem entryJudged_takesIn (replay : Bool) (t16 : Nat) {c : Cell} {s : State} (may : mayEnter p s c) :
    TakesIn p s (entryJudged p c replay t16 s) := by
  have passed := ((policed_linkFrame c s).mayEnter c).2 may
  unfold entryJudged
  refine .after (policed_linkFrame c s) ?_
  dsimp only
  split
  · exact ((LinkFrame.set (fab_apart (by decide)) ..).trans (freeCredit_linkFrame ..)).takesIn
  split
  · exact schedJudged_takesIn _ _ _ passed
  · exact acceptCell_takesIn _ _ passed

/-- Checks 2 to 8 (Table 9.7): a cell that enters has passed the checks of the state and of SRC. -/
theorem judgeCell_takesIn (c : Cell) (replay : Bool) (s : State) : TakesIn p s (judgeCell p c replay s) := by
  rw [judgeCell_eq]
  split
  · exact (LinkFrame.set (fab_apart (by decide)) _ s).takesIn
  split
  · exact (((LinkFrame.set (fab_apart (by decide)) _ s).trans (cellCounted_linkFrame ..)).trans (freeCredit_linkFrame ..)).takesIn
  next state =>
  split
  · exact .after (overdrawn_linkFrame s) (hwQuarIf_takesIn ..)
  split
  · exact .after ((cellCounted_linkFrame c s).trans (strayed_linkFrame ..)) (hwQuarIf_takesIn ..)
  next source =>
  rw [srcOk_of_act (cellCounted_linkFrame c s).act] at source
  have may : mayEnter p s c := by
    constructor
    · simpa [or_comm] using state
    · simpa using source
  exact .after (cellCounted_linkFrame c s) (entryJudged_takesIn _ _ (((cellCounted_linkFrame c s).mayEnter c).2 may))

end

/-! ### The block that brings the cell (R266, R270, R275) -/

theorem injApply_flt (s : State) : FltOnly s (injApply s) := by
  unfold injApply
  split
  · exact .refl s
  next j _ =>
  have counted : FltOnly s (set F.FLT_INJ_STAT_DONE (j.done + 1) (bump F.FLT_INJ_CNT s)) :=
    (FltOnly.bump s (by decide) (by decide)).trans (.set _ (by decide) (by decide) _)
  refine counted.trans ?_
  dsimp only
  split
  · exact (FltOnly.set _ (f := F.FLT_INJ_STAT_STATE) (by decide) (by decide) 2).trans (.flt _ _)
  · exact .flt _ _

section
variable {p : PortIx} {b : RxBlock} {s : State}

theorem askNak_linkFrame (s : State) : LinkFrame PortSt.ingress p s (askNak p s) := .updPort (fun _ => by rfl) s

theorem takeTrailer_linkFrame (b : RxBlock) (s : State) : LinkFrame PortSt.ingress p s (takeTrailer p b s) :=
  ((LinkFrame.updPort (fun _ => by rfl) s).trans (.when b.nak (fun t => .bump (fab_apart (by decide)) t) _)).trans (showCredit_linkFrame _)

theorem seeSeq_linkFrame (b : RxBlock) (s : State) : LinkFrame PortSt.ingress p s (seeSeq p b s) := by
  unfold seeSeq
  split
  · exact .refl s
  · exact .updPort (fun _ => by rfl) s

/-- What the trailer of a block brings, after what its codewords and CRCs have counted. -/
theorem trailerTaken_linkFrame (b : RxBlock) (s : State) : LinkFrame PortSt.ingress p s (seeSeq p b (takeTrailer p b s)) :=
  (takeTrailer_linkFrame b s).trans (seeSeq_linkFrame b _)

/-- The corrected symbols of a lane are counted. -/
theorem laneCount_linkFrame (i n : Nat) (s : State) : LinkFrame PortSt.ingress p s (bumpN (F.FAB_LANE_CORR_SYM_CNT p i) n s) :=
  .set (by simp only [F.FAB_LANE_CORR_SYM_CNT]; omega) _ s

/-- The statistics of a codeword, without those of one that is uncorrectable (R286). -/
def cwCounted (p : PortIx) (l : List Nat) (bad : Bool) (s : State) : State :=
  let n := if bad then 0 else l.foldl (fun x y => x + y) 0
  s |> bump (F.FAB_FEC_CW_CNT p) |> bumpN (F.FAB_FEC_CORR_SYM_CNT p) n
    |> when (!bad) (upTo 4 fun i s => bumpN (F.FAB_LANE_CORR_SYM_CNT p i) (nth 0 l i) s)
    |> updPort p (fun k => { k with cwInt := k.cwInt + 1, corrInt := k.corrInt + n })

/-- An uncorrectable codeword is counted. -/
def uncorrCounted (p : PortIx) (s : State) : State :=
  bump (F.FAB_FEC_UNCORR_CW_CNT p) (updPort p (fun k => { k with uncInt := k.uncInt + 1 }) s)

theorem countCw_some (l : List Nat) (bad : Bool) (s : State) : countCw p (some l) bad s =
    if bad then
      (if actv (uncorrCounted p (cwCounted p l bad s)) (F.FAB_FEC_CFG_UNC_LIM p) < (port (uncorrCounted p (cwCounted p l bad s)) p).uncInt &&
          !(port (uncorrCounted p (cwCounted p l bad s)) p).uncTold
        then startRetrain p (updPort p (fun k => { k with uncTold := true }) (uncorrCounted p (cwCounted p l bad s)))
        else uncorrCounted p (cwCounted p l bad s))
    else cwCounted p l bad s := rfl

theorem cwCounted_linkFrame (l : List Nat) (bad : Bool) (s : State) : LinkFrame PortSt.ingress p s (cwCounted p l bad s) := by
  unfold cwCounted
  refine (((LinkFrame.bump (fab_apart (by decide)) s).trans (.set (fab_apart (by decide)) ..)).trans (.when _ (fun t => ?_) _)).trans
    (.updPort (fun _ => by rfl) _)
  exact .each _ (fun i _ t => laneCount_linkFrame i _ t) t

theorem countCw_linkFrame (cw : Option (List Nat)) (bad : Bool) (s : State) : LinkFrame PortSt.ingress p s (countCw p cw bad s) := by
  cases cw with
  | none => exact .refl s
  | some l =>
    have counted := cwCounted_linkFrame (p := p) l bad s
    have uncorr : LinkFrame PortSt.ingress p s (uncorrCounted p (cwCounted p l bad s)) :=
      (counted.trans (.updPort (fun _ => by rfl) _)).trans (.bump (fab_apart (by decide)) _)
    rw [countCw_some]
    split
    · split
      · exact (uncorr.trans (.updPort (fun _ => by rfl) _)).trans (startRetrain_linkFrame _)
      · exact uncorr
    · exact counted

/-- A cell that is sent again in answer to a NAK of the receiver. -/
def isReplay (k : PortSt) (q : Nat) (rep : Bool) : Bool := rep && match k.nakTop with
  | some n => seqLe q n
  | none => false

/-- The cell of a clean block is judged when it comes in order (R275). -/
def cellTaken (p : PortIx) (b : RxBlock) (s : State) : State := match b.cell with
  | none => s
  | some (q, rep, c) =>
    if q ≠ seqNext (port s p).rxSeq then bump (F.FAB_SEQ_DISCARD_CNT p) s
    else judgeCell p c (isReplay (port s p) q rep) (updPort p (fun k => { k with rxSeq := q }) s)

/-- What a block does by the error found in it, once its codeword is counted. -/
def blockTaken (p : PortIx) (b : RxBlock) (s : State) : BlockErr → State
  | .uncorrectable => askNak p s
  | .tcrc => askNak p (bump (F.FAB_CRC_ERR_CNT p) s)
  | .pcrc => askNak p (seeSeq p b (takeTrailer p b (bump (F.FAB_CRC_ERR_CNT p) s)))
  | .hcrc => askNak p (seeSeq p b (takeTrailer p b (bump (F.FAB_DROP_HDR p) (bump (F.FAB_CRC_ERR_CNT p) s))))
  | .clean => cellTaken p b (seeSeq p b (takeTrailer p b s))

theorem receive_eq (b : RxBlock) (s : State) : receive p b s =
    blockTaken p b (countCw p (if injActs s 7 (portDom p) && b.cw.isNone then some [0, 0, 0, 0] else b.cw)
      (decide (blockErr s p b = .uncorrectable)) (when (injActs s 7 (portDom p)) injApply s)) (blockErr s p b) := rfl

theorem cellTaken_takesIn (b : RxBlock) (s : State) : TakesIn p s (cellTaken p b s) := by
  unfold cellTaken
  split
  · exact (LinkFrame.refl s).takesIn
  split
  · exact (LinkFrame.bump (fab_apart (by decide)) s).takesIn
  · exact .after (.updPort (fun _ => by rfl) s) (judgeCell_takesIn ..)

theorem blockTaken_takesIn (b : RxBlock) (s : State) (e : BlockErr) : TakesIn p s (blockTaken p b s e) := by
  have counted : LinkFrame PortSt.ingress p s (bump (F.FAB_CRC_ERR_CNT p) s) := .bump (fab_apart (by decide)) s
  cases e with
  | uncorrectable => exact (askNak_linkFrame s).takesIn
  | tcrc => exact (counted.trans (askNak_linkFrame _)).takesIn
  | pcrc => exact ((counted.trans (trailerTaken_linkFrame ..)).trans (askNak_linkFrame _)).takesIn
  | hcrc =>
    exact (((counted.trans (.bump (fab_apart (by decide)) _)).trans (trailerTaken_linkFrame ..)).trans (askNak_linkFrame _)).takesIn
  | clean => exact .after (trailerTaken_linkFrame b s) (cellTaken_takesIn ..)

/-- What arrives on a link enters ingress storage by the checks alone. -/
theorem receive_takesIn (b : RxBlock) (s : State) : TakesIn p s (receive p b s) := by
  have found : LinkFrame PortSt.ingress p s (when (injActs s 7 (portDom p)) injApply s) := .when _ (fun t => (injApply_flt t).linkFrame) s
  rw [receive_eq]
  exact .after (found.trans (countCw_linkFrame ..)) (blockTaken_takesIn ..)

end

/-- Settles O31: a port takes in only what it may. What a block does before its cell is judged leaves the storage, the port states and the admitted
ranges alone, and the checks let only such a cell in. -/
theorem ingressAdmitsOnlyItsPartner : Obligations.IngressAdmitsOnlyItsPartner := by
  intro p b s t run x hx
  rw [exec_cellReceive, execCellReceive] at run
  split at run
  · obtain rfl := Host.Outcome.next.inj run
    exact .inl hx
  · obtain rfl := Host.Outcome.next.inj run
    obtain ⟨-, -, entered⟩ := receive_takesIn (p := p) (readBlock b) s
    exact entered x hx

/-! ### Blocks by the error found in them (Table 9.7) -/

section
variable {p : PortIx} {b : RxBlock} {s : State}

theorem exec_cellReceive_up (up : linkUp s p = true) (x : BlockIn) : exec (.cellReceive p x) s = .next (receive p (readBlock x) s) :=
  if_neg (by simp [up])

/-- Without an injection a block does what the error found in its bytes says. -/
theorem receive_quiet (quiet : s.flt.inj = none) : receive p b s = blockTaken p b (countCw p b.cw (decide (b.err = .uncorrectable)) s) b.err := by
  have idle : injActs s 7 (portDom p) = false := by
    unfold injActs
    rw [quiet]
  have found : blockErr s p b = b.err := if_neg (by simp [idle])
  rw [receive_eq, found, idle]
  rfl

theorem cellTaken_none (none : b.cell = none) (s : State) : cellTaken p b s = s := by
  unfold cellTaken
  rw [none]

theorem cellTaken_some {q : Nat} {rep : Bool} {c : Cell} (brought : b.cell = some (q, rep, c)) (s : State) : cellTaken p b s =
    if q ≠ seqNext (port s p).rxSeq then bump (F.FAB_SEQ_DISCARD_CNT p) s
    else judgeCell p c (isReplay (port s p) q rep) (updPort p (fun k => { k with rxSeq := q }) s) := by
  unfold cellTaken
  rw [brought]

end

/-! ### Cells that leave ingress storage (R278) -/

/-- The cells in ingress storage and the places freed in it. -/
def storage (k : PortSt) : List (Nat × Nat × Cell) × List Nat := (k.ingress, k.freed)

section
variable {p : PortIx}

theorem dropCounted_linkFrame {f : Fld} (apart : f.key % 0x80000 ≠ 0x20) (c : Cell) (status : Nat) (s : State) :
    LinkFrame storage p s (askNack p c status (bump f s)) :=
  (LinkFrame.bump apart s).trans (askNack_linkFrame (fun _ _ => by rfl) ..)

theorem LinkFrame.inbox (l : List (Nat × Cell)) (s : State) : LinkFrame storage p s { s with inbox := l } := .of_ports rfl rfl rfl rfl fun _ => rfl

theorem sendBack_linkFrame (r : Nat) (c : Cell) (s : State) : LinkFrame storage p s (sendBack r c s) := by
  unfold sendBack
  split
  · exact inject_linkFrame (fabNode_outside r) s
  · exact .bump (fab_apart (by decide)) s

theorem stackCell_linkFrame (n : Nat) (c : Cell) (s : State) : LinkFrame storage p s (stackCell p n c s) := by
  unfold stackCell
  dsimp only
  split
  · split
    · exact dropCounted_linkFrame (fab_apart (by decide)) ..
    · exact ((LinkFrame.bump (fab_apart (by decide)) s).trans (.freeBytes ..)).trans (sendBack_linkFrame ..)
  · split <;> exact inject_linkFrame (fabNode_outside p) s

theorem mgmtCell_linkFrame (c : Cell) (s : State) : LinkFrame storage p s (mgmtCell p c s) := by
  unfold mgmtCell
  split
  · exact .inbox ..
  split
  · exact tagNack_linkFrame ..
  split
  · exact inject_linkFrame (fabNode_outside p) s
  · exact .inbox ..

theorem tagRsp_linkFrame (c : Cell) (s : State) : LinkFrame storage p s (tagRsp p c s) := by
  unfold tagRsp
  split
  · split <;> exact .putOq ..
  · exact .inbox ..

theorem localCell_linkFrame (c : Cell) (s : State) : LinkFrame storage p s (localCell p c s) := by
  unfold localCell
  split
  · exact dropCounted_linkFrame (fab_apart (by decide)) ..
  split
  · exact dropCounted_linkFrame (fab_apart (by decide)) ..
  split
  · exact mgmtCell_linkFrame ..
  split
  · exact stackCell_linkFrame ..
  split
  · exact tagRsp_linkFrame ..
  split
  · exact dropCounted_linkFrame (fab_apart (by decide)) ..
  · exact inject_linkFrame (fabNode_outside p) s

/-- A cell that leaves touches neither the storage of its port nor the places freed in it. -/
theorem exitCell_linkFrame (c : Cell) (s : State) : LinkFrame storage p s (exitCell p c s) := by
  unfold exitCell
  split
  · split
    · exact dropCounted_linkFrame (fab_apart (by decide)) ..
    split
    · exact inject_linkFrame (fabNode_outside p) s
    split <;> exact dropCounted_linkFrame (fab_apart (by decide)) ..
  · exact localCell_linkFrame ..

theorem storage_freePlace (pool : Nat) (s : State) : storage (port (freePlace p pool s) p) =
    ((port s p).ingress, if nth 0 (port s p).stale pool = 0 then addAt (port s p).freed pool else (port s p).freed) := by
  unfold freePlace
  split
  · rw [freeCredit, port_updPort_same, storage]
  · rw [port_updPort_same, storage]

theorem freePlace_same (pool : Nat) (s : State) : (freePlace p pool s).mem = s.mem ∧ (freePlace p pool s).cores = s.cores := by
  unfold freePlace
  split <;> exact ⟨rfl, rfl⟩

/-- The state in which an entry has left ingress storage and its place is free. -/
def entryTaken (p : PortIx) (pool : Nat) (rest : List (Nat × Nat × Cell)) (s : State) : State :=
  freePlace p pool (updPort p (fun k => { k with ingress := rest }) s)

theorem storage_entryTaken (pool : Nat) (rest : List (Nat × Nat × Cell)) (s : State) : storage (port (entryTaken p pool rest s) p) =
    (rest, if nth 0 (port s p).stale pool = 0 then addAt (port s p).freed pool else (port s p).freed) := by
  rw [entryTaken, storage_freePlace, port_updPort_same]

theorem exec_cellIngressExit_of_stored {pool : Fin 5} {s : State} {x : Nat × Nat × Cell} {rest : List (Nat × Nat × Cell)}
    (stored : takeStored (fun x => x.1 == pool.val && !isAuth x.2.2) (port s p).ingress = some (x, rest)) :
    exec (.cellIngressExit p pool) s = .next (exitCell p x.2.2 (entryTaken p pool rest s)) := by
  rw [exec_cellIngressExit, execCellIngressExit, stored]
  rfl

end

/-! ### One block time of a port's egress (R271, R275) -/

/-- The state in which a port chooses its block: the NACK generator has sent, and the token buckets are filled. -/
def egressReady (p : PortIx) (s : State) : State := fillBuckets p (sendNack p s)

/-- The cell of the replay buffer that is to be sent again. -/
def replayDue (k : PortSt) : Option (Nat × Cell) := match k.resend with
  | some q => k.replay.find? fun (r : Nat × Cell) => seqLe q r.1
  | none => none

/-- With no cell left to send again, the replay ends. -/
def replayEnded (p : PortIx) (s : State) : State := updPort p (fun k => { k with resend := none }) (egressReady p s)

/-- What each class may send, in the order of R271. -/
def egressTries (p : PortIx) (s : State) : List (Option Cell × Bool) := egressOrder.map (mayLeave (replayEnded p s) p)

/-- A head that waits for a credit is counted. -/
def stallCounted (p : PortIx) (s : State) : State :=
  when ((egressTries p s).any fun t => t.2) (bump (F.FAB_CREDIT_STALL_CYC_CNT p)) (replayEnded p s)

section
variable {p : PortIx} {s : State}

theorem exec_egressBlock_down (down : linkUp s p = false) : exec (.egressBlock p) s = .next (sendNack p s) := if_pos (by simp [down])

/-- A port whose link is up: again before new, new before idle. -/
theorem exec_egressBlock_up (up : linkUp s p = true) : exec (.egressBlock p) s = match replayDue (port (egressReady p s) p) with
    | some r => .next (sendBlock p (some (r.1, true, r.2)) (updPort p (fun k => { k with resend := some (seqNext r.1) }) (egressReady p s)))
    | none =>
      if 204 ≤ (port (egressReady p s) p).replay.length then .next (sendBlock p none (bump (F.FAB_REPLAY_FULL_CYC_CNT p) (replayEnded p s)))
      else match (egressTries p s).findSome? fun t => t.1 with
        | some c => .next (txCell p c (stallCounted p s))
        | none => .next (sendBlock p none (stallCounted p s)) := if_neg (by simp [up])

theorem exec_egressBlock_again (up : linkUp s p = true) {r : Nat × Cell} (due : replayDue (port (egressReady p s) p) = some r) :
    exec (.egressBlock p) s =
      .next (sendBlock p (some (r.1, true, r.2)) (updPort p (fun k => { k with resend := some (seqNext r.1) }) (egressReady p s))) := by
  rw [exec_egressBlock_up up, due]

theorem exec_egressBlock_full (up : linkUp s p = true) (due : replayDue (port (egressReady p s) p) = none)
    (full : 204 ≤ (port (egressReady p s) p).replay.length) :
    exec (.egressBlock p) s = .next (sendBlock p none (bump (F.FAB_REPLAY_FULL_CYC_CNT p) (replayEnded p s))) := by
  rw [exec_egressBlock_up up, due]
  exact if_pos full

theorem exec_egressBlock_new (up : linkUp s p = true) (due : replayDue (port (egressReady p s) p) = none)
    (room : (port (egressReady p s) p).replay.length < 204) {c : Cell} (head : (egressTries p s).findSome? (fun t => t.1) = some c) :
    exec (.egressBlock p) s = .next (txCell p c (stallCounted p s)) := by
  rw [exec_egressBlock_up up, due]
  dsimp only
  rw [if_neg (Nat.not_le.2 room), head]

theorem exec_egressBlock_idle (up : linkUp s p = true) (due : replayDue (port (egressReady p s) p) = none)
    (room : (port (egressReady p s) p).replay.length < 204) (head : (egressTries p s).findSome? (fun t => t.1) = none) :
    exec (.egressBlock p) s = .next (sendBlock p none (stallCounted p s)) := by
  rw [exec_egressBlock_up up, due]
  dsimp only
  rw [if_neg (Nat.not_le.2 room), head]

end

/-- Settles O30: a block by the error found in it, the oldest cell of a pool by the checks of its exit, and a block time by what the port has to send.
That a header error counts in FAB_CRC_ERR_CNT and in FAB_DROP_HDR, and that the place of a cell from before a link down is no credit, is the model's
choice (log entry 44). -/
theorem cellsMoveThroughAPort : Obligations.CellsMoveThroughAPort := by
  refine ⟨?_, ?_, ?_⟩
  · intro p b s up r
    have run := exec_cellReceive_up up b
    refine ⟨run, fun quiet => ?_⟩
    have taken := run.trans (congrArg _ (receive_quiet (p := p) (b := r) quiet))
    refine ⟨fun e => ?_, fun e => ?_, fun e => ?_, fun e => ?_, fun e none => ?_, fun q rep c e brought => ⟨fun late => ?_, fun next => ?_⟩⟩ <;>
      rw [e] at taken
    · exact taken
    · exact taken
    · exact taken
    · exact taken
    · exact taken.trans (congrArg _ (cellTaken_none none _))
    · exact taken.trans (congrArg _ ((cellTaken_some brought _).trans (if_pos late)))
    · have judged := taken.trans (congrArg _ ((cellTaken_some brought _).trans (if_neg (Decidable.not_not.2 next))))
      obtain ⟨mem, cores, -⟩ := receive_takesIn (p := p) r s
      have same := Host.Outcome.next.inj (run.symm.trans judged)
      exact ⟨_, judged, same ▸ mem, same ▸ cores, rfl⟩
  · intro p pool s x rest stored
    have left := exitCell_linkFrame (p := p) x.2.2 (entryTaken p pool rest s)
    obtain ⟨ingress, freed⟩ := Prod.mk.inj (left.kept.trans (storage_entryTaken ..))
    obtain ⟨mem, cores⟩ := freePlace_same (p := p) pool (updPort p (fun k => { k with ingress := rest }) s)
    exact ⟨_, exec_cellIngressExit_of_stored stored, rfl, ingress, freed, left.mem.trans mem, left.cores.trans cores⟩
  · intro p s
    exact ⟨exec_egressBlock_down, fun up => ⟨fun r => exec_egressBlock_again up, exec_egressBlock_full up, fun due room =>
      ⟨fun c => exec_egressBlock_new up due room, exec_egressBlock_idle up due room⟩⟩⟩

/-! ### The commands and events of Table 9.2 -/

section
variable {p : PortIx}

theorem dropLink_linkFrame (s : State) : LinkFrame PortSt.ingress p s (dropLink p s) := by
  refine LinkFrame.trans ?_ (showCredit_linkFrame _)
  exact ((((discard_linkFrame (fab_apart (by decide)) ..).trans (.updPort (fun _ => by rfl) _)).trans (.set (fab_apart (by decide)) ..)).trans
    (.set (fab_apart (by decide)) ..)).trans (.set (fab_apart (by decide)) ..)

theorem enqueue_linkFrame (c : Cell) (s : State) : LinkFrame PortSt.ingress p s (enqueue p c s) := by
  unfold enqueue
  exact .updPort (fun _ => by rfl) s

theorem sendAuth_linkFrame (l : List Byte) (s : State) : LinkFrame PortSt.ingress p s (sendAuth p l s) := enqueue_linkFrame _ s

theorem startAuth_linkFrame (s : State) : LinkFrame PortSt.ingress p s (startAuth p s) :=
  (((LinkFrame.freeBytes 48 s).trans (.updPort (fun _ => by rfl) _)).trans (sendAuth_linkFrame ..)).trans
    (.each _ (fun _ _ t => sendAuth_linkFrame _ t) _)

/-- A port drops its link and enters a state. -/
theorem linkLost_movesTo {n : Nat} (code : n < 8) (s : State) : movesTo p n s (setP p n (dropLink p s)) :=
  movesTo_of_frames code (dropLink_linkFrame s) (.refl _)

/-- A port that has its link up in AUTH: what TRAINING_DONE brings about after the state. -/
def authStarted (p : PortIx) (skew : BitVec 8) (fast : Bool) (s : State) : State :=
  s |> setB (F.FAB_STAT_SIGNAL p) true |> setB (F.FAB_STAT_ALIGNED p) true |> set (F.FAB_STAT_SKEW p) skew.toNat
    |> updPort p (fun k => { k with retraining := false }) |> when fast (setB F.LC_START_FAST false) |> showCredit p |> startAuth p

theorem authStarted_linkFrame (skew : BitVec 8) (fast : Bool) (s : State) : LinkFrame PortSt.ingress p s (authStarted p skew fast s) := by
  refine LinkFrame.trans (LinkFrame.trans ?_ (showCredit_linkFrame _)) (startAuth_linkFrame _)
  exact ((((LinkFrame.set (fab_apart (by decide)) _ s).trans (.set (fab_apart (by decide)) ..)).trans (.set (fab_apart (by decide)) ..)).trans
    (.updPort (fun _ => by rfl) _)).trans (.when _ (fun t => .set (by decide) _ t) _)

theorem linkDown_movesTo (s : State) : movesTo p 6 s (linkDown p s) :=
  movesTo_of_frames (by decide) (dropLink_linkFrame s)
    ((LinkFrame.bump (fab_apart (by decide)) _).trans (raise_linkFrame rfl (by decide) (by decide) _))

theorem retrainPort_movesTo {s : State} (on : pState s p ≠ 0) : movesTo p 1 s (retrainPort p s) := by
  rw [retrainPort, if_neg on]
  exact movesTo_of_frames (by decide) (startRetrain_linkFrame s)
    (((LinkFrame.updPort (fun _ => by rfl) _).trans (.set (fab_apart (by decide)) ..)).trans (.set (fab_apart (by decide)) ..))

theorem disablePort_movesTo {s : State} (on : pState s p ≠ 0) : movesTo p 0 s (disablePort p s) := by
  rw [disablePort, if_neg on]
  exact movesTo_of_frames (by decide) (dropLink_linkFrame s) ((LinkFrame.set (fab_apart (by decide)) ..).trans (.set (fab_apart (by decide)) ..))

theorem admitPort_movesTo (s : State) : movesTo p 3 s (admitPort p s) := by
  unfold admitPort updBoot
  exact movesTo_of_frames (by decide) (.refl s) (.updFw ..)

theorem authFail_movesTo (reason : Nat) (s : State) : movesTo p 4 s (authFail p reason s) := (enterQuar_movesTo reason s).then (.emit ..)

end

section
variable {p : PortIx} {s : State}

section
variable (up : netHeld s = false)
include up

theorem exec_portEnable_disabled (off : pState s p = 0) : exec (.portEnable p) s = .next (setP p 1 (setB (F.FAB_CTL_EN p) true s)) := by
  rw [exec_portEnable, execPortEnable, ifNet_up up, if_pos off]

theorem exec_portEnable_enabled (on : pState s p ≠ 0) (en : flag s (F.FAB_CTL_EN p) = true) : exec (.portEnable p) s = .next s := by
  rw [exec_portEnable, execPortEnable, ifNet_up up, if_neg on, if_pos en]

theorem exec_portAdmit_auth (auth : pState s p = 2) : exec (.portAdmit p) s = .next (admitPort p s) := by
  rw [exec_portAdmit, execPortAdmit, ifNet_up up, if_pos auth]

theorem exec_portAdmit_rejected (other : pState s p ≠ 2) : exec (.portAdmit p) s = .next (portRej p s) := by
  rw [exec_portAdmit, execPortAdmit, ifNet_up up, if_neg other]

theorem exec_portQuarantine_linked (linked : pState s p = 2 ∨ pState s p = 3) : exec (.portQuarantine p) s = .next (enterQuar p 5 s) := by
  rw [exec_portQuarantine, execPortQuarantine, ifNet_up up, if_pos (by simpa using linked)]

theorem exec_portQuarantine_rejected (auth : pState s p ≠ 2) (admitted : pState s p ≠ 3) : exec (.portQuarantine p) s = .next (portRej p s) := by
  rw [exec_portQuarantine, execPortQuarantine, ifNet_up up, if_neg (by simp [auth, admitted])]

theorem exec_portRetrain_up : exec (.portRetrain p) s = .next (retrainPort p s) := by
  rw [exec_portRetrain, execPortRetrain, ifNet_up up]

theorem exec_portDisable_up : exec (.portDisable p) s = .next (disablePort p s) := by
  rw [exec_portDisable, execPortDisable, ifNet_up up]

theorem exec_portMissing_waiting (waits : pState s p = 1 ∨ pState s p = 2) : exec (.portMissing p) s = .next (setP p 5 (dropLink p s)) := by
  rw [exec_portMissing, execPortMissing, ifNet_up up, if_pos (by simpa using waits)]

theorem exec_portMissing_rejected (training : pState s p ≠ 1) (auth : pState s p ≠ 2) : exec (.portMissing p) s = .next (portRej p s) := by
  rw [exec_portMissing, execPortMissing, ifNet_up up, if_neg (by simp [training, auth])]

end

theorem exec_portTrainingDone_training (training : pState s p = 1) (skew : BitVec 8) : exec (.portTrainingDone p skew) s =
    .next (authStarted p skew (s.fw.stepFour && !(port s p).saved) (setP p 2 s)) := by
  rw [exec_portTrainingDone, execPortTrainingDone, if_neg (Decidable.not_not.2 training)]
  rfl

theorem exec_portMissingTimeout_silent (training : pState s p = 1) (silent : flag s (F.FAB_STAT_SIGNAL p) = false) :
    exec (.portMissingTimeout p) s = .next (setP p 5 (dropLink p s)) := by
  rw [exec_portMissingTimeout, execPortMissingTimeout, if_pos (by simp [training, silent])]

theorem exec_portTrainFailTimeout_signal (training : pState s p = 1) (signal : flag s (F.FAB_STAT_SIGNAL p) = true) :
    exec (.portTrainFailTimeout p) s = .next (setP p 6 (dropLink p s)) := by
  rw [exec_portTrainFailTimeout, execPortTrainFailTimeout, if_pos (by simp [training, signal])]

theorem exec_portSignalDetect_missing (missing : pState s p = 5) :
    exec (.portSignalDetect p) s = .next (setP p 1 (setB (F.FAB_STAT_SIGNAL p) true s)) := if_pos missing

theorem exec_linkDown_retraining (retrains : (port s p).retraining = true) : exec (.linkDown p) s = .next (linkDown p s) := if_pos retrains

theorem exec_partnerSignalLoss_linked (linked : pState s p = 2 ∨ pState s p = 3 ∨ pState s p = 4) :
    exec (.partnerSignalLoss p) s = .next (linkDown p (setB (F.FAB_STAT_SIGNAL p) false s)) := if_pos (by simpa [or_assoc] using linked)

theorem exec_admissionTimeout_auth (auth : pState s p = 2) : exec (.admissionTimeout p) s = .next (authFail p 1 s) := if_pos auth

theorem exec_quarWindowEnd_same (same : (port s p).winNum = quarWindow s p) : exec (.quarWindowEnd p) s = .next s :=
  congrArg _ (if_pos same)

theorem exec_quarWindowEnd_new (new : (port s p).winNum ≠ quarWindow s p) : exec (.quarWindowEnd p) s =
    .next (updPort p (fun k => { k with winNum := quarWindow s p, winSrc := 0, winCrd := 0 }) s) := congrArg _ (if_neg new)

end

/-! ### AUTH cells and the estimate interval (R281, R286) -/

section
variable {p : PortIx} {s : State}

/-- Firmware takes the oldest AUTH cell, and handles it while the port is in AUTH. -/
theorem exec_authCell_of_stored {r : Nat × Nat × Cell} {rest : List (Nat × Nat × Cell)}
    (stored : takeStored (fun x => isAuth x.2.2) (port s p).ingress = some (r, rest)) (m : AuthMsg) :
    exec (.authCell p m) s =
      if pState s p = 2 then .next (authMsg p m (entryTaken p r.1 rest s)) else .next (entryTaken p r.1 rest s) := by
  have state : pState (entryTaken p r.1 rest s) p = pState s p := get_freePlace ..
  rw [exec_authCell, execAuthCell, stored, ← state]
  rfl

theorem exec_fecIntervalEnd_early (early : (port s p).cwInt < 2 ^ 24) : exec (.fecIntervalEnd p) s = .next s := if_pos early

/-- The estimate of the error rate as FAB_PREFEC shows it: MANT and EXP. -/
def prefecParts (k : PortSt) : Nat × Nat :=
  if k.cwInt * 5440 = 0 || k.corrInt = 0 then (0, 0) else berParts k.corrInt (k.cwInt * 5440) 255

/-- The estimate is shown, and a new interval begins. -/
def prefecShown (p : PortIx) (s : State) : State :=
  s |> set (F.FAB_PREFEC_MANT p) (prefecParts (port s p)).1 |> set (F.FAB_PREFEC_EXP p) (prefecParts (port s p)).2
    |> setB (F.FAB_PREFEC_VALID p) true |> updPort p (fun k => { k with cwInt := 0, corrInt := 0, uncInt := 0, uncTold := false })

/-- The estimate at the end of an interval, reported beyond its threshold. -/
def prefecReported (p : PortIx) (s : State) : State :=
  if (port s p).cwInt * 5440 < (port s p).corrInt * 2 ^ actv s (F.FAB_FEC_CFG_WARN_E p)
  then raise { src := 0x1E, dom := portDom p } (prefecShown p s) else prefecShown p s

theorem exec_fecIntervalEnd_due (due : 2 ^ 24 ≤ (port s p).cwInt) : exec (.fecIntervalEnd p) s = .next (prefecReported p s) := by
  refine (if_neg (Nat.not_lt.2 due)).trans ?_
  unfold prefecReported
  split <;> rfl

/-- The report of the error rate reaches the fault collector alone. -/
theorem prefecReported_flt (p : PortIx) (s : State) : FltOnly (prefecShown p s) (prefecReported p s) := by
  unfold prefecReported
  split
  · exact raise_flt _ _ rfl (show 0 ≤ 1 by decide) rfl (show 0xA0 + p.val < 256 by omega) (show 0x1E < 256 by decide)
  · exact .refl _

@[simp] theorem get_updPort (r : Nat) (f : PortSt → PortSt) (s : State) (g : Fld) : get (updPort r f s) g = get s g := rfl

theorem get_prefecShown (p : PortIx) (s : State) : get (prefecShown p s) (F.FAB_PREFEC_VALID p) = 1 ∧
    get (prefecShown p s) (F.FAB_PREFEC_MANT p) = (prefecParts (port s p)).1 % 2 ^ 16 := by
  unfold prefecShown
  refine ⟨?_, ?_⟩
  · rw [get_updPort, get_setB_same]
    rfl
  · rw [get_updPort, get_setB_ne, get_set_ne, get_set_same]
    · rfl
    · simp only [F.FAB_PREFEC_MANT, F.FAB_PREFEC_EXP]
      omega
    · simp only [F.FAB_PREFEC_MANT, F.FAB_PREFEC_VALID]
      omega

theorem port_prefecShown (p : PortIx) (s : State) : port (prefecShown p s) p = { port s p with cwInt := 0, corrInt := 0, uncInt := 0, uncTold := false } ∧
    ∀ q : PortIx, q ≠ p → port (prefecShown p s) q = port s q :=
  ⟨port_updPort_same .., fun _ hq => port_updPort_ne (Fin.val_ne_of_ne hq) _ _⟩

/-- At the end of an interval the estimate is VALID, and 0 without a corrected symbol. -/
theorem prefecReported_spec (p : PortIx) (s : State) :
    let t := prefecReported p s
    get t (F.FAB_PREFEC_VALID p) = 1 ∧ (port t p).cwInt = 0 ∧ (port t p).corrInt = 0 ∧
      ((port s p).corrInt = 0 → get t (F.FAB_PREFEC_MANT p) = 0) ∧ t.mem = s.mem ∧ t.cores = s.cores ∧
      ∀ q : PortIx, q ≠ p → port t q = port s q := by
  intro t
  have told : FltOnly (prefecShown p s) t := prefecReported_flt p s
  have frame : LinkFrame (fun k => k) p (prefecShown p s) t := told.linkFrame
  obtain ⟨valid, mant⟩ := get_prefecShown p s
  obtain ⟨own, others⟩ := port_prefecShown p s
  refine ⟨(told.2 _ (.inr ?_)).trans valid, ?_, ?_, fun clean => (told.2 _ (.inr ?_)).trans (mant.trans ?_), frame.mem, frame.cores,
    fun q hq => (frame.others q hq).trans (others q hq)⟩
  · show 0x1806000 ≤ 0x40001b8 + p.val * 0x80000
    omega
  · rw [frame.kept, own]
  · rw [frame.kept, own]
  · show 0x1806000 ≤ 0x40001a0 + p.val * 0x80000
    omega
  · rw [prefecParts, if_pos (by simp [clean])]
    rfl

end

/-! ### What a package hears of link ends (R302) -/

section
variable {s : State}

theorem linkHeard_calm (a r st : Nat) (s : State) : calm s (linkHeard a r st s) ∧ (linkHeard a r st s).regs = s.regs := by
  unfold linkHeard
  dsimp only
  split <;> exact ⟨⟨rfl, rfl, rfl, rfl⟩, rfl⟩

/-- What a change of state marks: the link ends that are not ADMITTED, those that are down, and the last state heard. -/
theorem linkHeard_marks (a r st : Nat) (s : State) :
    (linkHeard a r st s).fw.linksBad = (if st = 3 then NSet.del s.fw.linksBad (a * 16 + r) else NSet.add s.fw.linksBad (a * 16 + r)) ∧
    (linkHeard a r st s).fw.linksDown =
      (if st = 5 || st = 6 then NSet.add s.fw.linksDown (a * 16 + r) else NSet.del s.fw.linksDown (a * 16 + r)) ∧
    (linkHeard a r st s).fw.linkSt = SMap.put 0 s.fw.linkSt (a * 16 + r) (st + 1) := by
  unfold linkHeard
  dsimp only
  split <;> exact ⟨rfl, rfl, rfl⟩

theorem linkHeard_same {a r st : Nat} (same : SMap.get 0 s.fw.linkSt (a * 16 + r) = st + 1) :
    (linkHeard a r st s).fw.routesDue = s.fw.routesDue ∧ (linkHeard a r st s).fw.changedAt = s.fw.changedAt := by
  rw [linkHeard, if_pos same]
  exact ⟨rfl, rfl⟩

/-- A change lets routes wait to be installed. -/
theorem linkHeard_changed {a r st : Nat} (changed : SMap.get 0 s.fw.linkSt (a * 16 + r) ≠ st + 1) :
    (linkHeard a r st s).fw.routesDue = true ∧ (linkHeard a r st s).fw.changedAt = now s := by
  rw [linkHeard, if_neg changed]
  exact ⟨rfl, rfl⟩

/-- A link end is not clear unless it is ADMITTED; the marks of other ends stay. -/
theorem has_linksBad_linkHeard (a r st j : Nat) (s : State) : NSet.has (linkHeard a r st s).fw.linksBad j =
    if j = a * 16 + r then decide (st ≠ 3) else NSet.has s.fw.linksBad j := by
  rw [(linkHeard_marks a r st s).1]
  by_cases admitted : st = 3 <;> by_cases here : j = a * 16 + r <;> simp [admitted, here]

theorem has_linksDown_linkHeard (a r st : Nat) (s : State) : NSet.has (linkHeard a r st s).fw.linksDown (a * 16 + r) = (st == 5 || st == 6) := by
  rw [(linkHeard_marks a r st s).2.1]
  by_cases down : st = 5 ∨ st = 6
  · rcases down with rfl | rfl <;> simp
  · obtain ⟨five, six⟩ := not_or.1 down
    simp [five, six]

end

/-! ### What `discoveryEnd` and the ring spare leave as it was -/

/-- Firmware's marks of link ends and the states of the package's ports are as before, and so are the memories and the cores. -/
structure LinksKept (s t : State) : Prop where
  mem : t.mem = s.mem
  cores : t.cores = s.cores
  own : ownAddr t = ownAddr s
  states : ∀ q : PortIx, pState t q = pState s q
  bad : t.fw.linksBad = s.fw.linksBad

theorem LinksKept.refl (s : State) : LinksKept s s := ⟨rfl, rfl, rfl, fun _ => rfl, rfl⟩

theorem LinksKept.trans {r s t : State} (h : LinksKept r s) (k : LinksKept s t) : LinksKept r t :=
  ⟨k.mem.trans h.mem, k.cores.trans h.cores, k.own.trans h.own, fun q => (k.states q).trans (h.states q), k.bad.trans h.bad⟩

theorem NoticeOnly.linksKept {s t : State} (h : NoticeOnly s t) : LinksKept s t :=
  ⟨by rw [h.1], by rw [h.1], h.2 _ (by decide), fun q => h.2 _ (stateKey_ne (by decide) q), by rw [h.1]⟩

theorem LinksKept.freeBytes (n : Nat) (s : State) : LinksKept s (freeBytes n s).2 := ⟨rfl, rfl, rfl, fun _ => rfl, rfl⟩

theorem LinksKept.emit (d : Party) (t : Topic) (args : List Nat) (s : State) : LinksKept s (emit d t args s) := ⟨rfl, rfl, rfl, fun _ => rfl, rfl⟩

/-! ### The ring spare (R297) -/

section
variable {m : Nat} {plus : Bool} {s : State}

/-- The entry of a report that a package is missing, from its neighbour on one side. -/
def missingSide (m : Nat) (plus : Bool) : Nat := m * 2 + if plus then 1 else 0

/-- The report is noted. -/
def sideNoted (m : Nat) (plus : Bool) (s : State) : State := updFw (fun x => { x with missing := NSet.add s.fw.missing (missingSide m plus) }) s

/-- With both reports the spare switches in, or reports a second missing package. -/
def spareJudged (m : Nat) (s : State) : State := match s.fw.subst with
  | none => switchIn m s
  | some _ => emit .net .report [7, trayOf m, m] s

/-- Both sides have reported when the other side had. -/
theorem bothSides_eq (m : Nat) (plus : Bool) (l : NSet) : (NSet.has (NSet.add l (missingSide m plus)) (m * 2) &&
    NSet.has (NSet.add l (missingSide m plus)) (m * 2 + 1)) = NSet.has l (missingSide m (!plus)) := by
  cases plus <;> simp [missingSide]

theorem hearMissing_eq (m : Nat) (plus : Bool) (s : State) : hearMissing m plus s =
    if NSet.has s.fw.missing (missingSide m (!plus)) then spareJudged m (sideNoted m plus s) else sideNoted m plus s := by
  rw [← bothSides_eq]
  rfl

theorem switchIn_notice (m : Nat) (s : State) : NoticeOnly (updFw (fun k => { k with subst := some m }) s) (switchIn m s) := notify_notice ..

/-- The spare stands in for the package, or for the one it stands in for already. -/
theorem subst_spareJudged (m : Nat) (s : State) : (spareJudged m s).fw.subst = some (s.fw.subst.getD m) := by
  unfold spareJudged
  cases already : s.fw.subst with
  | none => exact congrArg (fun t => t.fw.subst) (switchIn_notice m s).1
  | some x => exact already

theorem spareJudged_linksKept (m : Nat) (s : State) : LinksKept s (spareJudged m s) := by
  have stands : LinksKept s (updFw (fun k => { k with subst := some m }) s) := ⟨rfl, rfl, rfl, fun _ => rfl, rfl⟩
  unfold spareJudged
  split
  · exact stands.trans (switchIn_notice m s).linksKept
  · exact .emit ..

theorem sideNoted_linksKept (m : Nat) (plus : Bool) (s : State) : LinksKept s (sideNoted m plus s) := ⟨rfl, rfl, rfl, fun _ => rfl, rfl⟩

theorem hearMissing_linksKept (m : Nat) (plus : Bool) (s : State) : LinksKept s (hearMissing m plus s) := by
  rw [hearMissing_eq]
  split
  · exact (sideNoted_linksKept ..).trans (spareJudged_linksKept ..)
  · exact sideNoted_linksKept ..

theorem hearMissing_alone (alone : NSet.has s.fw.missing (missingSide m (!plus)) = false) : hearMissing m plus s = sideNoted m plus s := by
  rw [hearMissing_eq, if_neg (by simp [alone])]

theorem subst_hearMissing (both : NSet.has s.fw.missing (missingSide m (!plus)) = true) :
    (hearMissing m plus s).fw.subst = some (s.fw.subst.getD m) := by
  rw [hearMissing_eq, if_pos both]
  exact subst_spareJudged ..

theorem exec_missingReport_spare {m : BitVec 16} (spare : ownRole s = 1) : exec (.missingReport m plus) s = .next (hearMissing m.toNat plus s) :=
  if_neg (Decidable.not_not.2 spare)

theorem exec_standbyRootTakeover_holdover {pl : Plan} (planned : s.fw.plan = some pl) (standby : pl.standby = ownAddr s) (holds : sync s = 3) :
    exec .standbyRootTakeover s = .next (fwWrite F.TB_CTL_ROLE 1 (moveTo (s.time.holdSince + 10000000) s)) := by
  rw [exec_standbyRootTakeover, execStandbyRootTakeover, planned]
  exact if_pos (by simp [standby, holds, syHoldover])

theorem exec_standbyRootTakeover_idle (idle : (∀ pl, s.fw.plan = some pl → pl.standby ≠ ownAddr s) ∨ sync s ≠ 3) :
    exec .standbyRootTakeover s = .next s := by
  rw [exec_standbyRootTakeover, execStandbyRootTakeover]
  split
  next pl planned =>
    refine if_neg fun holds => ?_
    obtain ⟨standby, holds⟩ := Bool.and_eq_true_iff.1 holds
    exact idle.elim (fun other => other pl planned (of_decide_eq_true standby)) fun other => other (of_decide_eq_true holds)
  · rfl

end

/-! ### The end of discovery (R297, R305) -/

theorem portEvent_linksKept (r : Nat) (s : State) : LinksKept s (portEvent r s) :=
  (LinksKept.freeBytes 1 s).trans (notify_notice ..).linksKept

/-- The outcome of a port is flooded, and reported where Table 10.8 says so. -/
def outcomeTold (r : Nat) (s : State) : State := when (reported s r) (portEvent r) (flood r s)

theorem outcomeTold_linksKept (r : Nat) (s : State) : LinksKept (flood r s) (outcomeTold r s) :=
  when_keeps (P := LinksKept (flood r s)) _ (.refl _) fun t ht => ht.trans (portEvent_linksKept r t)

/-- Beside the marks of link ends a flood leaves what `LinksKept` names. -/
theorem flood_spec (r : Nat) (s : State) : (flood r s).mem = s.mem ∧ (flood r s).cores = s.cores ∧ (flood r s).regs = s.regs ∧
    (flood r s).fw.linksBad = (linkHeard (ownAddr s) r (pState s r) s).fw.linksBad := by
  obtain ⟨⟨mem, cores, -, -⟩, regs⟩ := linkHeard_calm (ownAddr s) r (pState s r) s
  exact ⟨mem, cores, regs, rfl⟩

/-- A missing ring neighbour in a direction is reported to the ring spare, which may be this package. -/
def neighbourTold (pl : Plan) (s0 : State) (dir : Nat) (s : State) : State :=
  let a := ownAddr s0
  match (pl.pkgs.find? fun r => r.role == 1 && r.addr / 16 == a / 16).map fun r => r.addr with
  | some x =>
    if !(!(dirPorts pl.set dir).isEmpty && (dirPorts pl.set dir).all fun p => pState s0 p == 5 || pState s0 p == 6) ||
        !(pkgAt pl (step1 pl dir a)).any (fun r => r.role == 0) then s
    else if x = a then hearMissing (step1 pl dir a) (dir == 1) s else emit (.pkg x) .missing [step1 pl dir a, dir] s
  | none => s

theorem neighbourTold_linksKept (pl : Plan) (s0 : State) (dir : Nat) (s : State) : LinksKept s (neighbourTold pl s0 dir s) := by
  unfold neighbourTold
  dsimp only
  split
  · split
    · exact .refl s
    split
    · exact hearMissing_linksKept ..
    · exact .emit ..
  · exact .refl s

theorem discoveryEnd_eq {s : State} {pl : Plan} (planned : s.fw.plan = some pl) : discoveryEnd s =
    updFw (fun k => { k with routesDue := true, floods := true, changedAt := now s })
      (neighbourTold pl s 1 (neighbourTold pl s 0 (upTo 12 outcomeTold s))) := by
  unfold discoveryEnd
  rw [planned]
  rfl

/-- The first `n` ports are told: each is marked by its state, and nothing else that `LinksKept` names has changed. -/
structure Told (s : State) (n : Nat) (t : State) : Prop where
  mem : t.mem = s.mem
  cores : t.cores = s.cores
  own : ownAddr t = ownAddr s
  states : ∀ q : PortIx, pState t q = pState s q
  bad : ∀ q : PortIx, q.val < n → NSet.has t.fw.linksBad (ownAddr s * 16 + q.val) = decide (pState s q ≠ 3)

theorem Told.next {s t : State} {n : Nat} (h : Told s n t) : Told s (n + 1) (outcomeTold n t) := by
  have kept := outcomeTold_linksKept n t
  obtain ⟨mem, cores, regs, bad⟩ := flood_spec n t
  refine ⟨kept.mem.trans (mem.trans h.mem), kept.cores.trans (cores.trans h.cores), kept.own.trans ((get_of_regs regs _).trans h.own),
    fun q => (kept.states q).trans ((get_of_regs regs _).trans (h.states q)), fun q hq => ?_⟩
  rw [kept.bad, bad, has_linksBad_linkHeard, h.own]
  by_cases here : q.val = n
  · rw [if_pos (by rw [here]), ← here, h.states q]
  · rw [if_neg (by omega), h.bad q (by omega)]

theorem upTo_outcomeTold (n : Nat) (s : State) : Told s n (upTo n outcomeTold s) := by
  induction n with
  | zero => exact ⟨rfl, rfl, rfl, fun _ => rfl, fun _ hq => absurd hq (Nat.not_lt_zero _)⟩
  | succ n ih => rw [upTo_succ]; exact ih.next

theorem Told.then {s t u : State} {n : Nat} (h : Told s n t) (k : LinksKept t u) : Told s n u :=
  ⟨k.mem.trans h.mem, k.cores.trans h.cores, k.own.trans h.own, fun q => (k.states q).trans (h.states q), fun q hq => k.bad ▸ h.bad q hq⟩

/-- At the end of discovery every port is marked by its state. -/
theorem discoveryEnd_spec {s : State} {pl : Plan} (planned : s.fw.plan = some pl) :
    (discoveryEnd s).fw.routesDue = true ∧ (discoveryEnd s).fw.floods = true ∧ (discoveryEnd s).fw.changedAt = now s ∧
      (∀ q : PortIx, NSet.has (discoveryEnd s).fw.linksBad (ownAddr s * 16 + q.val) = decide (pState s q ≠ 3)) ∧
      (discoveryEnd s).mem = s.mem ∧ (discoveryEnd s).cores = s.cores := by
  have told := ((upTo_outcomeTold 12 s).then (neighbourTold_linksKept pl s 0 _)).then (neighbourTold_linksKept pl s 1 _)
  rw [discoveryEnd_eq planned]
  exact ⟨rfl, rfl, rfl, fun q => told.bad q q.isLt, told.mem, told.cores⟩

theorem waitsForPort_iff {s : State} : ((List.range 12).any fun p => pState s p == 1 || pState s p == 2) = true ↔
    ∃ q : PortIx, pState s q = 1 ∨ pState s q = 2 := by
  simp only [List.any_eq_true, List.mem_range, Bool.or_eq_true, beq_iff_eq]
  exact ⟨fun ⟨q, hq, waits⟩ => ⟨⟨q, hq⟩, waits⟩, fun ⟨q, waits⟩ => ⟨q, q.isLt, waits⟩⟩

theorem exec_discoveryEnd_settled {s : State} (settled : ∀ q : PortIx, pState s q ≠ 1 ∧ pState s q ≠ 2) :
    exec .discoveryEnd s = .next (discoveryEnd s) :=
  if_neg fun waits => by
    obtain ⟨q, waits⟩ := waitsForPort_iff.1 waits
    exact waits.elim (settled q).1 (settled q).2

theorem exec_discoveryEnd_idle {s : State} (idle : s.fw.plan = none ∨ ∃ q : PortIx, pState s q = 1 ∨ pState s q = 2) :
    exec .discoveryEnd s = .next s := by
  rw [exec_discoveryEnd, execDiscoveryEnd]
  split
  · rfl
  next settled =>
    have none := idle.resolve_right (mt waitsForPort_iff.2 settled)
    unfold discoveryEnd
    rw [none]

/-- Settles O29: a port command by what it does in each state of its port, and each entry of a state by what goes before and after it; discovery,
floods and the ring spare by the marks of link ends. That RETRAIN is taken in every state but DISABLED is the model's choice (log entry 44). -/
theorem portsFollowTheirStatesAndThePlan : Obligations.PortsFollowTheirStatesAndThePlan := by
  refine ⟨?_, ?_, ?_, ?_⟩
  · intro p skew s up st goes
    have reaches {k : Instr} {n : Nat} {t : State} (run : exec k s = .next t) (enters : movesTo p n s t) : goes k n := ⟨t, run, enters⟩
    have silent : LinkFrame PortSt.ingress p s (setB (F.FAB_STAT_SIGNAL p) false s) := .set (fab_apart (by decide)) _ s
    refine ⟨exec_portEnable_disabled up, fun h => reaches (exec_portEnable_disabled up h) ?_, exec_portEnable_enabled up,
      fun h => exec_portTrainingDone_training h skew, fun h => reaches (exec_portTrainingDone_training h skew) ?_,
      exec_portMissingTimeout_silent, fun h e => reaches (exec_portMissingTimeout_silent h e) (linkLost_movesTo (by decide) s),
      exec_portTrainFailTimeout_signal, fun h e => reaches (exec_portTrainFailTimeout_signal h e) (linkLost_movesTo (by decide) s),
      exec_portSignalDetect_missing, fun h => reaches (exec_portSignalDetect_missing h) ?_,
      exec_portAdmit_auth up, fun h => reaches (exec_portAdmit_auth up h) (admitPort_movesTo s),
      exec_portQuarantine_linked up, fun h => reaches (exec_portQuarantine_linked up h) (enterQuar_movesTo 5 s),
      fun _ => exec_portRetrain_up up, fun h => reaches (exec_portRetrain_up up) (retrainPort_movesTo h),
      fun _ => exec_portDisable_up up, fun h => reaches (exec_portDisable_up up) (disablePort_movesTo h),
      exec_portMissing_waiting up, fun h => reaches (exec_portMissing_waiting up h) (linkLost_movesTo (by decide) s),
      exec_linkDown_retraining, fun h => reaches (exec_linkDown_retraining h) (linkDown_movesTo s),
      exec_partnerSignalLoss_linked, fun h => reaches (exec_partnerSignalLoss_linked h) (.after silent (linkDown_movesTo _)),
      exec_admissionTimeout_auth, fun h => reaches (exec_admissionTimeout_auth h) (authFail_movesTo 1 s),
      rfl, exec_quarWindowEnd_same, exec_quarWindowEnd_new⟩
    · exact movesTo_of_frames (by decide) (.set (fab_apart (by decide)) _ s) (.refl _)
    · exact movesTo_of_frames (by decide) (.refl s) (authStarted_linkFrame ..)
    · exact movesTo_of_frames (by decide) (.set (fab_apart (by decide)) _ s) (.refl _)
  · intro p s rej denied
    refine ⟨fun up => ⟨exec_portAdmit_rejected up, exec_portQuarantine_rejected up, fun off => ?_, fun off => ?_, exec_portMissing_rejected up⟩,
      fun held => ?_⟩
    · exact (exec_portRetrain_up up).trans (congrArg _ (if_pos off))
    · exact (exec_portDisable_up up).trans (congrArg _ (if_pos off))
    · have refused (f : State → State) : (.next (ifNet f s) : Host.Outcome State Fault Refusal) = denied := congrArg _ (ifNet_held held f)
      exact ⟨refused _, refused _, refused _, refused _, refused _, refused _⟩
  · intro p m s
    refine ⟨fun r rest stored => ⟨fun auth => ?_, fun other => ?_⟩, exec_fecIntervalEnd_early, fun due =>
      ⟨_, exec_fecIntervalEnd_due due, prefecReported_spec p s⟩⟩
    · exact (exec_authCell_of_stored stored m).trans (if_pos auth)
    · exact (exec_authCell_of_stored stored m).trans (if_neg other)
  · intro a m p st plus pl s k
    refine ⟨fun planned settled => ⟨_, exec_discoveryEnd_settled settled, discoveryEnd_spec planned⟩, exec_discoveryEnd_idle,
      ⟨_, rfl, ?_⟩, fun due => if_pos due, fun idle => if_neg (by simp [idle]), fun spare alone => ?_, fun spare both => ?_,
      fun other => if_pos other, exec_standbyRootTakeover_holdover, exec_standbyRootTakeover_idle⟩
    · obtain ⟨quiet, regs⟩ := linkHeard_calm a.toNat p st.toNat s
      have code (n : BitVec 3) : st.toNat = n.toNat ↔ st = n := BitVec.toNat_inj
      have codeB (n : BitVec 3) : (st.toNat == n.toNat) = (st == n) := by rw [Bool.eq_iff_iff, beq_iff_eq, beq_iff_eq, code]
      refine ⟨quiet, (sameRegsBut.refl [] s).of_eq regs quiet.2.2.1, ?_, ?_, linkHeard_changed, linkHeard_same, ?_⟩
      · rw [has_linksBad_linkHeard, if_pos rfl]
        exact decide_eq_decide.2 (not_congr (code 3))
      · rw [has_linksDown_linkHeard]
        exact congr (congrArg or (codeB 5)) (codeB 6)
      · rw [(linkHeard_marks ..).2.2, SMap.get_put_same]
    · exact (exec_missingReport_spare spare).trans (congrArg _ (hearMissing_alone alone))
    · have kept := hearMissing_linksKept m.toNat plus s
      exact ⟨_, exec_missingReport_spare spare, subst_hearMissing both, kept.mem, kept.cores⟩

end Sys2Proof.Machine

namespace Sys2Proof.Machine

/-! ### What lies in the active values alone -/

theorem corePart_of_act {s t : State} (h : t.act = s.act) (c : Nat) : corePart t c = corePart s c := by
  unfold corePart actB
  rw [actv_of_act h, actv_of_act h]

theorem partCores_of_act {s t : State} (h : t.act = s.act) (n : Nat) : partCores t n = partCores s n := by
  simp only [partCores, corePart_of_act h]

theorem partDiv_of_act {s t : State} (h : t.act = s.act) (n : Nat) : partDiv t n = partDiv s n := by
  simp only [partDiv, actv_of_act h]

theorem bankOf_of_act {s t : State} (h : t.act = s.act) (n : Nat) : bankOf t n = bankOf s n := by
  simp only [bankOf, partCores_of_act h, actv_of_act h]

theorem lt_of_mem_partCores {s : State} {n c : Nat} (h : c ∈ partCores s n) : c < 20 :=
  List.mem_range.1 (List.mem_filter.1 h).1

/-! ### Messages to members (R307) -/

/-- Messages leave the registers and what `calm` and firmware's records name as they were. -/
theorem tellMembers_same (n kind : Nat) (args : List Nat) (s : State) :
    calm s (tellMembers n kind args s) ∧ (tellMembers n kind args s).regs = s.regs ∧ (tellMembers n kind args s).fw = s.fw := by
  unfold tellMembers
  split
  · exact each_keeps (P := fun t => calm s t ∧ t.regs = s.regs ∧ t.fw = s.fw) _ ⟨.refl s, rfl, rfl⟩
      fun _ _ ⟨quiet, regs, fw⟩ => ⟨quiet.trans (emit_calm ..), regs, fw⟩
  · exact ⟨.refl s, rfl, rfl⟩

/-! ### STOP of the cores of a partition (R308, Table 6.20) -/

/-- What STOP leaves beside `ClearFrame`: the fuses of the cores, and a stop that waits. -/
structure StopPendFrame (s t : State) : Prop extends ClearFrame s t where
  good : ∀ c, coreGood t c = coreGood s c
  waits : ∀ c, flag s (F.CORE_CTL_STATE_STOP_PEND c) = true → flag t (F.CORE_CTL_STATE_STOP_PEND c) = true

theorem StopPendFrame.refl (s : State) : StopPendFrame s s := ⟨.refl s, fun _ => rfl, fun _ h => h⟩

theorem StopPendFrame.trans {r s t : State} (h : StopPendFrame r s) (k : StopPendFrame s t) : StopPendFrame r t :=
  ⟨h.toClearFrame.trans k.toClearFrame, fun c => (k.good c).trans (h.good c), fun c hc => k.waits c (h.waits c hc)⟩

theorem StopPendFrame.each {α : Type} (l : List α) {f : α → State → State} (h : ∀ a t, StopPendFrame t (f a t)) (s : State) :
    StopPendFrame s (each l f s) :=
  each_keeps (P := StopPendFrame s) l (.refl s) fun a t ht => ht.trans (h a t)

theorem StopPendFrame.netHeld_eq {s t : State} (h : StopPendFrame s t) : netHeld t = netHeld s :=
  netHeld_congr h.minimal (congrArg FwSt.phase h.fw)

/-- A count that no state, stop or fuse of a core shares. -/
theorem StopPendFrame.bump {f : Fld} (hm : F.MBX_CTL_MINIMAL.key ≠ f.key) (hs : ∀ c, (F.CORE_CTL_STATE_STATE c).key ≠ f.key)
    (hg : F.LC_CORE_FUSE_GOOD.key ≠ f.key) (hp : ∀ c, (F.CORE_CTL_STATE_STOP_PEND c).key ≠ f.key) (s : State) : StopPendFrame s (bump f s) :=
  ⟨.set hm hs _ s, fun c => congrArg (bit · c) (get_bump_ne hg s), fun c h => (congrArg (· == 1) (get_bump_ne (hp c) s)).trans h⟩

theorem cmdRej_pendFrame (c : Nat) (s : State) : StopPendFrame s (cmdRej c s) := by
  refine .bump ?_ (fun d => ?_) ?_ (fun d => ?_) s <;>
    simp only [F.MBX_CTL_MINIMAL, F.CORE_CTL_STATE_STATE, F.LC_CORE_FUSE_GOOD, F.CORE_CTL_STATE_STOP_PEND, F.CORE_CTL_CMD_REJ_CNT] <;> omega

theorem stopWaits_pendFrame (c : Nat) (s : State) : StopPendFrame s (setB (F.CORE_CTL_STATE_STOP_PEND c) true s) := by
  have fuse : F.LC_CORE_FUSE_GOOD.key ≠ (F.CORE_CTL_STATE_STOP_PEND c).key := by
    simp only [F.LC_CORE_FUSE_GOOD, F.CORE_CTL_STATE_STOP_PEND]; omega
  refine ⟨.set ?_ (fun d => ?_) _ s, fun d => congrArg (bit · d) (get_setB_ne fuse true s), fun d h => ?_⟩
  · simp only [F.MBX_CTL_MINIMAL, F.CORE_CTL_STATE_STOP_PEND]; omega
  · simp only [F.CORE_CTL_STATE_STATE, F.CORE_CTL_STATE_STOP_PEND]; omega
  · by_cases same : d = c
    · subst same
      exact flag_of_get (get_setB_same ..)
    · have apart : (F.CORE_CTL_STATE_STOP_PEND d).key ≠ (F.CORE_CTL_STATE_STOP_PEND c).key := by
        simp only [F.CORE_CTL_STATE_STOP_PEND]; omega
      exact (congrArg (· == 1) (get_setB_ne apart true s)).trans h

theorem stopCmd_pendFrame (c : Nat) (s : State) : StopPendFrame s (stopCmd c s) := by
  unfold stopCmd coreCmd ifNet
  split
  · refine .bump ?_ (fun d => ?_) ?_ (fun d => ?_) s <;>
      simp only [F.MBX_CTL_MINIMAL, F.CORE_CTL_STATE_STATE, F.LC_CORE_FUSE_GOOD, F.CORE_CTL_STATE_STOP_PEND, F.GLB_DENIED_CNT] <;> omega
  dsimp only
  split
  · exact cmdRej_pendFrame c s
  split
  next g runs =>
    split at runs
    · exact Option.some.inj runs ▸ stopWaits_pendFrame c s
    · cases runs
  · exact cmdRej_pendFrame c s

section
variable {c : Nat} {s : State} (up : netHeld s = false) (good : coreGood s c = true) (runs : coreState s c = 3)
include up good runs

/-- STOP of a running core waits for its boundary. -/
theorem flag_stopCmd : flag (stopCmd c s) (F.CORE_CTL_STATE_STOP_PEND c) = true := by
  unfold stopCmd coreCmd
  rw [ifNet_up up, if_neg (by simp [good]), runs]
  exact flag_of_get (get_setB_same ..)

theorem flag_stopCmds {l : List Nat} (hc : c ∈ l) : flag (each l stopCmd s) (F.CORE_CTL_STATE_STOP_PEND c) = true :=
  each_reaches (I := StopPendFrame s) (P := fun t => flag t (F.CORE_CTL_STATE_STOP_PEND c) = true) hc (.refl s)
    (fun d _ t ht => ht.trans (stopCmd_pendFrame d t)) (fun d t => (stopCmd_pendFrame d t).waits c)
    fun _ ht => flag_stopCmd (ht.netHeld_eq.trans up) ((ht.good c).trans good) ((ht.coreState c).trans runs)

end

theorem stopIfDue_pendFrame (n k : Nat) (s : State) : StopPendFrame s (stopIfDue n k s) := by
  unfold stopIfDue
  split
  · exact .refl s
  dsimp only
  split
  · exact .each _ stopCmd_pendFrame s
  · exact .refl s

/-- Once the tick before an agreed one has started, the running cores of the partition here are stopped. -/
theorem flag_stopIfDue {n k t c : Nat} {s : State} {r : PartRec} (hp : partRec s n = some r) (agreed : some t ∈ [r.stopK, r.pauseK, r.resetK])
    (due : t ≤ k + partDiv s n) (hc : c ∈ partCores s n) (up : netHeld s = false) (good : coreGood s c = true) (runs : coreState s c = 3) :
    flag (stopIfDue n k s) (F.CORE_CTL_STATE_STOP_PEND c) = true := by
  by_cases waits : flag s (F.CORE_CTL_STATE_STOP_PEND c) = true
  · exact (stopIfDue_pendFrame n k s).waits c waits
  · unfold stopIfDue
    rw [hp]
    dsimp only
    rw [if_pos (List.any_eq_true.2 ⟨_, agreed, decide_eq_true due⟩)]
    exact flag_stopCmds up good runs (List.mem_filter.2 ⟨hc, by simp [waits, coreRuns, runs, cRunning]⟩)

/-- An agreed tick is noted, and a core that runs is stopped when it is near (R308, R311, R399). -/
theorem agreed_stops {n t c : Nat} {s : State} {r : PartRec} (f : PartRec → PartRec) (hp : partRec s n = some r)
    (agreed : some t ∈ [(f r).stopK, (f r).pauseK, (f r).resetK]) (due : t ≤ curK s + partDiv s n) (hc : c ∈ partCores s n)
    (up : netHeld s = false) (good : coreGood s c = true) (runs : coreState s c = 3) :
    let u := stopIfDue n (curK s) (updPart n f s)
    flag u (F.CORE_CTL_STATE_STOP_PEND c) = true ∧ u.mem = s.mem ∧ u.cores = s.cores ∧ u.act = s.act := by
  intro u
  obtain ⟨-, -, same, -⟩ := updPart_calm n f s
  obtain ⟨mem, cores, act, -⟩ := (updPart_calm n f s).trans (stopIfDue_pendFrame n (curK s) (updPart n f s)).calm
  refine ⟨flag_stopIfDue (partRec_updPart f hp) agreed ?_ ?_ ((netHeld_updPart ..).trans up) ?_ ?_, mem, cores, act⟩
  · rwa [partDiv_of_act same]
  · rwa [partCores_of_act same]
  · exact (congrArg (bit · c) (get_updPart ..)).trans good
  · exact (get_updPart ..).trans runs


/-! ### What the coordinator agrees with the members (R307 to R309, R399) -/

theorem isCoord_of_rec {n : Nat} {r : PartRec} {s : State} (hp : partRec s n = some r) : isCoord s n = (r.own == r.coord) := by
  unfold isCoord
  rw [hp]

section
variable {n : PartIx} {r : PartRec} {s : State} (hp : partRec s n = some r)
include hp

section
variable (coord : r.own = r.coord)
include coord

theorem isCoord_coordinator : isCoord s n = true := (isCoord_of_rec hp).trans (beq_iff_eq.2 coord)

theorem exec_partitionStopRequest_coordinator : exec (.partitionStopRequest n false) s = .next (pickStop n s) := by
  rw [exec_partitionStopRequest, execPartitionStopRequest, isCoord_coordinator hp coord]
  rfl

/-- A member has missed the start: a stop at the next boundary, and the start again. -/
theorem exec_partitionStopRequest_missed : exec (.partitionStopRequest n true) s =
    .next (pickStart n (stopAt n (aheadK s n 1) (tellMembers n mStop [aheadK s n 1] s))) := by
  rw [exec_partitionStopRequest, execPartitionStopRequest, isCoord_coordinator hp coord]
  rfl

theorem exec_pauseRequest_coordinator (runs : r.paused = false) (free : r.pauseK = none) : exec (.pauseRequest n) s = .next (pickPause n s) := by
  rw [exec_pauseRequest, execPauseRequest, askPause, hp, isCoord_coordinator hp coord]
  simp [runs, free]

theorem exec_pauseRequest_again (pauses : r.paused = true ∨ r.pauseK.isSome = true) : exec (.pauseRequest n) s = .next s := by
  rw [exec_pauseRequest, execPauseRequest, askPause, hp, isCoord_coordinator hp coord]
  simp [pauses]

end

section
variable (member : r.own ≠ r.coord)
include member

theorem isCoord_member : isCoord s n = false := (isCoord_of_rec hp).trans (beq_eq_false_iff_ne.2 member)

theorem exec_partitionStopRequest_member (missed : Bool) : exec (.partitionStopRequest n missed) s = .next s := by
  rw [exec_partitionStopRequest, execPartitionStopRequest, isCoord_member hp member]
  rfl

theorem exec_pauseRequest_member : exec (.pauseRequest n) s = .next s := by
  rw [exec_pauseRequest, execPauseRequest, isCoord_member hp member]
  rfl

theorem exec_readyReport_member (m : BitVec 16) : exec (.readyReport n m) s = .next s := by
  rw [exec_readyReport, execReadyReport, isCoord_member hp member]
  rfl

end
end

/-! ### The start (R309) -/

theorem updPart_regs (n : Nat) (f : PartRec → PartRec) (s : State) : (updPart n f s).regs = s.regs := by
  unfold updPart
  split <;> rfl

theorem winLen_congr {s t : State} (hr : t.regs = s.regs) (ha : t.act = s.act) (n : Nat) : winLen t n = winLen s n := by
  simp only [winLen, partCores_of_act ha, get_of_regs hr]

theorem aheadK_congr {s t : State} (hr : t.regs = s.regs) (ha : t.act = s.act) (n lead : Nat) : aheadK t n lead = aheadK s n lead := by
  simp only [aheadK, curK, get_of_regs hr, partDiv_of_act ha]

/-- A start tick is chosen, and the record notes it. -/
theorem pickStart_spec {n : Nat} {r : PartRec} {s : State} (hp : partRec s n = some r) :
    partRec (pickStart n s) n = some { r with startK := some (aheadK s n (winLen s n + 1)), restart := false } ∧
      calm s (pickStart n s) ∧ (pickStart n s).regs = s.regs := by
  obtain ⟨quiet, regs, fw⟩ := tellMembers_same n mStart [aheadK s n (winLen s n + 1)] s
  exact ⟨partRec_updPart _ ((partRec_of_parts (congrArg FwSt.parts fw) n).trans hp), quiet.trans (updPart_calm ..), (updPart_regs ..).trans regs⟩

/-- Every member of the partition is among those that have reported ready. -/
def allReady (r : PartRec) (l : NSet) : Bool := (List.range r.members.length).all fun i => NSet.has l i

/-- The report of a member is noted. -/
def readyNoted (n m : Nat) (s : State) : State := updPart n (fun r => { r with ready := NSet.add r.ready m }) s

/-- All have reported: the list begins anew. -/
def readyTaken (n m : Nat) (s : State) : State := updPart n (fun r => { r with ready := [] }) (readyNoted n m s)

section
variable {n : Nat} {r : PartRec} {s : State} (hp : partRec s n = some r)
include hp

theorem partRec_readyNoted (m : Nat) : partRec (readyNoted n m s) n = some { r with ready := NSet.add r.ready m } := partRec_updPart _ hp

theorem heardReady_eq (m : Nat) : heardReady n m s =
    if allReady r (NSet.add r.ready m) then pickStart n (readyTaken n m s) else readyNoted n m s := by
  have noted := partRec_readyNoted hp m
  unfold readyNoted at noted
  unfold heardReady
  dsimp only
  rw [noted]
  rfl

/-- Once all are ready the start tick lies a window ahead. -/
theorem pickStart_readyTaken (m : Nat) :
    let t := pickStart n (readyTaken n m s)
    partRec t n = some { r with ready := [], startK := some (aheadK s n (winLen s n + 1)), restart := false } ∧ calm s t ∧ t.regs = s.regs := by
  intro t
  have taken : partRec (readyTaken n m s) n = some { r with ready := [] } :=
    (partRec_updPart _ (partRec_readyNoted hp m)).trans rfl
  have quiet : calm s (readyTaken n m s) := (updPart_calm ..).trans (updPart_calm ..)
  have same : (readyTaken n m s).regs = s.regs := (updPart_regs ..).trans (updPart_regs ..)
  have ⟨_, _, act, _⟩ := quiet
  obtain ⟨started, later, regs⟩ := pickStart_spec taken
  rw [aheadK_congr same act, winLen_congr same act] at started
  exact ⟨started, calm.trans quiet later, regs.trans same⟩

end

/-- RUN is written to the cores, and the start is no more agreed. -/
def runWritten (n t : Nat) (s : State) : State :=
  each (partCores s n) runCmd (updPart n (fun r => { r with startK := none }) (moveTo (boundaryAt s (t - partDiv s n) + 100) s))

/-- The interval for RUN has passed. -/
def startMissed (n : Nat) (s : State) : State := emit .net .report [0x309, n] (updPart n (fun r => { r with startK := none }) s)

section
variable {n : PartIx} {r : PartRec} {s : State} (hp : partRec s n = some r)
include hp

theorem exec_readyReport_coordinator (coord : r.own = r.coord) (m : BitVec 16) : exec (.readyReport n m) s =
    .next (if allReady r (NSet.add r.ready m.toNat) then pickStart n (readyTaken n m.toNat s) else readyNoted n m.toNat s) := by
  rw [exec_readyReport, execReadyReport, if_pos (isCoord_coordinator hp coord), heardReady_eq hp]

theorem exec_partitionRunWrite_none (no : r.startK = none) : exec (.partitionRunWrite n) s = .next s := by
  rw [exec_partitionRunWrite, execPartitionRunWrite, hp]
  dsimp only
  rw [no]

theorem exec_partitionRunWrite_some {t : Nat} (agreed : r.startK = some t) : exec (.partitionRunWrite n) s =
    if curK s + partDiv s n < t then .next s
    else if boundaryAt s t - 200 < now s then .next (let u := startMissed n s
      if r.own = r.coord then pickStart n (stopAt n (aheadK u n 1) (tellMembers n mStop [aheadK u n 1] u)) else toCoord n mMissed [] u)
    else .next (runWritten n t s) := by
  rw [exec_partitionRunWrite, execPartitionRunWrite, hp]
  dsimp only
  rw [agreed, isCoord_of_rec hp]
  simp only [beq_iff_eq]
  rfl

end


/-! ### Windows (R118, R226) -/

section
variable {n : Nat} {s : State}

theorem renumber_none (hp : partRec s n = none) : renumber n s = s := by
  unfold renumber
  rw [hp]

theorem renumber_same {p : PartRec} (hp : partRec s n = some p) (len : p.wlen = winLen s n) : renumber n s = s := by
  unfold renumber
  rw [hp]
  exact if_pos len

/-- The record when windows are numbered anew: nothing is held of the old windows. -/
def renumbered (n : Nat) (s : State) (p : PartRec) : PartRec :=
  let v := curK s / winLen s n - 1
  { p with wlen := winLen s n, winDone := v, fbDone := v, ovDone := v, fbReps := [], ovReps := [] }

theorem renumber_changed {p : PartRec} (hp : partRec s n = some p) (len : p.wlen ≠ winLen s n) :
    renumber n s = updPart n (renumbered n s) s := by
  unfold renumber
  rw [hp]
  exact if_neg len

theorem partRec_renumber_changed {p r : PartRec} (known : partRec s n = some p) (len : p.wlen ≠ winLen s n)
    (hp : partRec (renumber n s) n = some r) : r = renumbered n s p := by
  rw [renumber_changed known len, partRec_updPart _ known] at hp
  exact (Option.some.inj hp).symm

theorem partRec_of_renumber {r : PartRec} (hp : partRec (renumber n s) n = some r) : ∃ p, partRec s n = some p := by
  cases known : partRec s n with
  | none =>
    rw [renumber_none known, known] at hp
    cases hp
  | some p => exact ⟨p, rfl⟩

/-- New numbers of windows leave the place of this package and that of the coordinator. -/
theorem isCoord_of_renumber {r : PartRec} (hp : partRec (renumber n s) n = some r) : isCoord s n = (r.own == r.coord) := by
  obtain ⟨p, known⟩ := partRec_of_renumber hp
  rw [isCoord_of_rec known]
  by_cases len : p.wlen = winLen s n
  · rw [renumber_same known len] at hp
    rw [Option.some.inj (known.symm.trans hp)]
  · rw [partRec_renumber_changed known len hp]
    rfl

end

/-! ### Reports of a window -/

/-- The coordinator has, or has decided on, the report of a member of window `w`. -/
def heardBefore {α : Type} (done w m : Nat) (reps : List (Nat × Nat × α)) : Bool := decide (w < done) || reps.any fun x => x.1 == w && x.2.1 == m

/-- The reports of window `w` of all members are in. -/
def allIn {α : Type} (r : PartRec) (w : Nat) (reps : List (Nat × Nat × α)) : Bool :=
  (List.range r.members.length).all fun i => reps.any fun x => x.1 == w && x.2.1 == i

theorem heardBefore_false {α : Type} {done w m : Nat} {reps : List (Nat × Nat × α)} (fresh : done ≤ w)
    (new : (reps.any fun x => x.1 == w && x.2.1 == m) = false) : heardBefore done w m reps = false := by
  unfold heardBefore
  rw [new, decide_eq_false (Nat.not_lt.2 fresh)]
  rfl

theorem heardBefore_true {α : Type} {done w m : Nat} {reps : List (Nat × Nat × α)}
    (old : w < done ∨ (reps.any fun x => x.1 == w && x.2.1 == m) = true) : heardBefore done w m reps = true := by
  unfold heardBefore
  rwa [Bool.or_eq_true, decide_eq_true_eq]

section
variable {n : Nat} {r : PartRec} {s : State} (hp : partRec s n = some r)
include hp

theorem hearFb_eq (m w : Nat) (ls : List Nat) (wide : Bool) : hearFb n m w ls wide s =
    if heardBefore r.fbDone w m r.fbReps then s
    else
      let l := r.fbReps ++ [(w, m, ls, wide)]
      let u := updPart n (fun r => { r with fbReps := l, wides := putMember r.wides m wide }) s
      if allIn r w l then decideFb n w u else u := by
  unfold hearFb
  rw [hp]
  rfl

theorem hearOv_eq (m w k : Nat) (longer : Bool) : hearOv n m w k longer s =
    if heardBefore r.ovDone w m r.ovReps then s
    else
      let l := r.ovReps ++ [(w, m, k, longer)]
      let u := updPart n (fun r => { r with ovReps := l, longs := putMember r.longs m longer }) s
      if allIn r w l then decideOv n w u else u := by
  unfold hearOv
  rw [hp]
  rfl

end

section
variable {n : PartIx} {r : PartRec} {s : State} (hp : partRec (renumber n s) n = some r)
include hp

theorem exec_fallbackReport_coordinator (coord : r.own = r.coord) (m : BitVec 16) (w : Word64) (layers : List (BitVec 12)) (wide : Bool) :
    exec (.fallbackReport n m w layers wide) s =
      .next (hearFb n m.toNat w.toNat (layers.map fun l => l.toNat) wide (renumber n s)) :=
  congrArg _ (if_pos ((isCoord_of_renumber hp).trans (beq_iff_eq.2 coord)))

theorem exec_overrunReport_coordinator (coord : r.own = r.coord) (m : BitVec 16) (w k : Word64) (longer : Bool) :
    exec (.overrunReport n m w k longer) s = .next (hearOv n m.toNat w.toNat k.toNat longer (renumber n s)) :=
  congrArg _ (if_pos ((isCoord_of_renumber hp).trans (beq_iff_eq.2 coord)))

theorem not_isCoord_of_renumber (member : r.own ≠ r.coord) : ¬ isCoord s n = true := by
  rw [isCoord_of_renumber hp, beq_iff_eq]
  exact member

theorem exec_fallbackReport_member (member : r.own ≠ r.coord) (m : BitVec 16) (w : Word64) (layers : List (BitVec 12)) (wide : Bool) :
    exec (.fallbackReport n m w layers wide) s = .next s :=
  congrArg _ (if_neg (not_isCoord_of_renumber hp member))

theorem exec_overrunReport_member (member : r.own ≠ r.coord) (m : BitVec 16) (w k : Word64) (longer : Bool) :
    exec (.overrunReport n m w k longer) s = .next s :=
  congrArg _ (if_neg (not_isCoord_of_renumber hp member))

theorem exec_overrunWindowEnd_some {v : Nat} (ended : lastWindow s n = some v) :
    exec (.overrunWindowEnd n) s = .next (if v < r.winDone then s else windowReports n v r (renumber n s)) := by
  rw [exec_overrunWindowEnd, execOverrunWindowEnd, hp, ended]
  dsimp only
  split <;> rfl

theorem exec_overrunWindowEnd_none (none : lastWindow s n = none) : exec (.overrunWindowEnd n) s = .next s := by
  rw [exec_overrunWindowEnd, execOverrunWindowEnd, hp, none]

end

/-! ### Acknowledgements (R308) -/

theorem notice_calm {s t : State} (h : NoticeOnly s t) : calm s t := by
  rw [h.1]
  exact ⟨rfl, rfl, rfl, rfl⟩

section
variable {n : PartIx} {p : PartRec} {s : State} (hp : partRec s n = some p)
include hp

theorem exec_coordinatorSilent_idle (calls : p.missed < 2 ∨ p.own = p.coord) (reach : Bool) : exec (.coordinatorSilent n reach) s = .next s := by
  rw [exec_coordinatorSilent, execCoordinatorSilent, hp]
  exact if_pos (by simpa using calls)

/-- Two windows in a row without acknowledgement. -/
theorem exec_coordinatorSilent_due (silent : 2 ≤ p.missed) (member : p.own ≠ p.coord) (reach : Bool) : exec (.coordinatorSilent n reach) s =
    if p.own = 1 then .next (notify 8 (some n) (fieldsOf [(1, n), (2, 1)]) (updPart n (fun r => { r with coord := 1, missed := 0 }) s))
    else if reach then .next (updPart n (fun r => { r with toStandby := true, missed := 0 }) s)
    else .next (emit .net .report [0x308, n] (each (partCores s n) stopCmd s)) := by
  rw [exec_coordinatorSilent, execCoordinatorSilent, hp]
  exact if_neg (by simp [member, Nat.lt_of_succ_le silent])

/-- The standby has the coordinator's role, and says so. -/
theorem standbyTakes_spec (op : Nat) (inl : List Byte) :
    let t := notify op (some n) inl (updPart n (fun r => { r with coord := 1, missed := 0 }) s)
    partRec t n = some { p with coord := 1, missed := 0 } ∧ calm s t := by
  intro t
  have told := notify_notice op (some n.val) inl (updPart n (fun r => { r with coord := 1, missed := 0 }) s)
  have fw : t.fw = (updPart n (fun r => { r with coord := 1, missed := 0 }) s).fw := by
    unfold t
    rw [told.1]
  exact ⟨(partRec_of_parts (congrArg FwSt.parts fw) n).trans (partRec_updPart _ hp), (updPart_calm ..).trans (notice_calm told)⟩

end

/-- A member that reaches no coordinator stops its cores. -/
theorem aloneStops_spec (n : Nat) (args : List Nat) (s : State) :
    let t := emit .net .report args (each (partCores s n) stopCmd s)
    t.fw = s.fw ∧ (∀ c, c ∈ partCores s n → netHeld s = false → coreGood s c = true → coreState s c = 3 →
      flag t (F.CORE_CTL_STATE_STOP_PEND c) = true) ∧ calm s t := by
  have frame := StopPendFrame.each (partCores s n) stopCmd_pendFrame s
  exact ⟨frame.fw, fun _ hc up good runs => flag_stopCmds up good runs hc, frame.calm.trans (emit_calm ..)⟩


/-! ### What the gate's plan leaves as it was (R227, R228) -/

theorem fwWrite_fw (f : Fld) (v : Nat) (s : State) : (fwWrite f v s).fw = s.fw := by
  unfold fwWrite
  split <;> rfl

/-- Stated for any fields: evaluating a field's address would be too deep for the kernel. -/
theorem fwWrites_fw {α : Type} (l : List α) (f : α → Fld) (v : Nat) (s : State) : (each l (fun a t => fwWrite (f a) v t) s).fw = s.fw :=
  each_same State.fw l (fun a t => fwWrite_fw (f a) v t) s

/-- The bank of every core of a partition is written. -/
def banksWritten (n : Nat) (s : State) : State := each (partCores s n) (fun c t => fwWrite (F.SEQ_CTL_BANK c) (1 - bankOf s n) t) s

theorem banksWritten_calm (n : Nat) (s : State) : calm s (banksWritten n s) := by
  unfold banksWritten
  exact .each _ (fun c t => fwWrite_calm (F.SEQ_CTL_BANK c) _ t) s

theorem banksWritten_fw (n : Nat) (s : State) : (banksWritten n s).fw = s.fw := by
  unfold banksWritten
  exact fwWrites_fw (partCores s n) F.SEQ_CTL_BANK _ s

/-- After the banks the divider of the schedule in the new bank is written, when it has one. -/
theorem switchWrites_cases (n : Nat) (s : State) :
    switchWrites n s = banksWritten n s ∨ ∃ d, switchWrites n s = fwWrite (F.TB_PART_DIV_LOG2 n) d (banksWritten n s) := by
  unfold switchWrites
  dsimp only
  split
  next d _ => exact .inr ⟨d, rfl⟩
  · exact .inl rfl

theorem switchWrites_calm (n : Nat) (s : State) : calm s (switchWrites n s) := by
  rcases switchWrites_cases n s with same | ⟨d, written⟩
  · exact same ▸ banksWritten_calm n s
  · exact written ▸ (banksWritten_calm n s).trans (fwWrite_calm ..)

theorem switchWrites_fw (n : Nat) (s : State) : (switchWrites n s).fw = s.fw := by
  rcases switchWrites_cases n s with same | ⟨d, written⟩
  · exact same ▸ banksWritten_fw n s
  · exact written ▸ (fwWrite_fw ..).trans (banksWritten_fw n s)

theorem planWrites_calm (k : Nat) (s : State) : calm s (planWrites k s) :=
  (calm.each _ switchWrites_calm s).trans (.each _ (fun _ _ => fwWrite_calm ..) _)

theorem planWrites_fw (k : Nat) (s : State) : (planWrites k s).fw = s.fw :=
  (fwWrites_fw _ (fun h : Nat × Bool => if h.2 then F.TB_HALF_CLK_EAST_SLOW else F.TB_HALF_CLK_WEST_SLOW) 1 _).trans
    (each_same State.fw _ switchWrites_fw s)

theorem heldGivenUp_same (s : State) : calm s (heldGivenUp s) ∧ (heldGivenUp s).fw = s.fw :=
  each_keeps (P := fun t => calm s t ∧ t.fw = s.fw) _ ⟨⟨rfl, rfl, rfl, rfl⟩, rfl⟩ fun _ _ ht => ht

theorem gateAbort_same (s : State) : calm s (gateAbort s) ∧ (gateAbort s).fw = s.fw := by
  cases held : flag s F.TB_STAT_GATE_HOLD with
  | false => rw [gateAbort_refused held]; exact ⟨⟨rfl, rfl, rfl, rfl⟩, rfl⟩
  | true =>
    rw [gateAbort_of_held held]
    obtain ⟨quiet, fw⟩ := heldGivenUp_same s
    exact ⟨(quiet.trans (setB_calm ..)).trans (setB_calm ..), fw⟩

theorem gateRelease_fw (s : State) : (gateRelease s).fw = s.fw := by
  unfold gateRelease
  split
  · rfl
  · exact when_keeps (P := fun t => t.fw = s.fw) _ rfl fun _ ht => ht

theorem lateToNext_calm (s : State) : calm s (lateToNext s) := by
  unfold lateToNext
  dsimp only
  refine (calm.upTo 16 ?_ s).trans (updFw_calm ..)
  intro n t
  split
  · split
    · exact updPart_calm ..
    · exact .refl t
  · exact .refl t

theorem planGate_calm (s : State) : calm s (planGate s) := by
  unfold planGate
  split
  · exact (lateToNext_calm s).trans (planWrites_calm ..)
  split
  · exact .refl s
  · exact ((((calm.when _ (fun t => (gateAbort_same t).1) s).trans (setB_calm ..)).trans (planWrites_calm ..)).trans (set_calm ..)).trans
      (gateRelease_calm _)

/-- While the gate is free its plan is not a change of firmware's records. -/
theorem planGate_fw {s : State} (free : gateBusy s = false) : (planGate s).fw = s.fw := by
  unfold planGate
  rw [if_neg (by simp [free])]
  split
  · rfl
  · exact (gateRelease_fw _).trans ((planWrites_fw ..).trans
      (when_keeps (P := fun t => t.fw = s.fw) _ rfl fun t ht => (gateAbort_same t).2.trans ht))


/-! ### The tick planned for a switch (R228, R417) -/

theorem partRec_updPart_ne {n m : Nat} (h : m ≠ n) (f : PartRec → PartRec) (s : State) : partRec (updPart n f s) m = partRec s m := by
  unfold updPart
  split
  next r _ => exact SMap.get_put_ne none s.fw.parts (some (f r)) h
  next => rfl

theorem plannedK_of_parts {s t : State} (h : t.fw.parts = s.fw.parts) (n : Nat) : plannedK t n = plannedK s n := by
  unfold plannedK
  rw [partRec_of_parts h]

theorem plannedK_of_rec {n : Nat} {r : PartRec} {s : State} (hp : partRec s n = some r) : plannedK s n = r.switchK := by
  unfold plannedK
  rw [hp]
  rfl

theorem plannedK_updPart_ne {n m : Nat} (h : m ≠ n) (f : PartRec → PartRec) (s : State) : plannedK (updPart n f s) m = plannedK s m := by
  unfold plannedK
  rw [partRec_updPart_ne h]

/-- A switch scales the rate of admission once. -/
def rateScaled (n : Nat) (s : State) : State := updPart n (fun r => { r with scaled := true }) s

theorem scaleAdm_cases (n : Nat) (s : State) :
    scaleAdm n s = rateScaled n s ∨ ∃ v, scaleAdm n s = fwWrite (F.SRV_PART_ADM_RATE n) v (rateScaled n s) := by
  unfold scaleAdm
  exact if now : _ then .inr ⟨_, if_pos now⟩ else .inl (if_neg now)

theorem partRec_scaleAdm (n m : Nat) (s : State) : partRec (scaleAdm n s) m = partRec (rateScaled n s) m := by
  rcases scaleAdm_cases n s with same | ⟨v, written⟩
  · rw [same]
  · rw [written]
    exact partRec_of_parts (congrArg FwSt.parts (fwWrite_fw ..)) m

theorem partRec_scaleAdm_same {n : Nat} {r : PartRec} {s : State} (hp : partRec s n = some r) :
    partRec (scaleAdm n s) n = some { r with scaled := true } := (partRec_scaleAdm n n s).trans (partRec_updPart _ hp)

/-- A scaled rate leaves the ticks that are planned. -/
theorem plannedK_scaleAdm {n : Nat} {r : PartRec} {s : State} (hp : partRec s n = some r) (m : Nat) :
    plannedK (scaleAdm n s) m = plannedK s m := by
  by_cases same : m = n
  · subst same
    rw [plannedK_of_rec (partRec_scaleAdm_same hp), plannedK_of_rec hp]
  · unfold plannedK
    rw [partRec_scaleAdm, rateScaled, partRec_updPart_ne same]

theorem plannedK_switchHere_ne {n m : Nat} (h : m ≠ n) (k : Nat) (s : State) : plannedK (switchHere n k s) m = plannedK s m := by
  unfold switchHere
  split
  · split
    · rfl
    · exact plannedK_updPart_ne h _ s
  · exact plannedK_updPart_ne h _ s

/-- A switch is planned for the tick told, or for an earlier one that was planned. -/
theorem plannedK_switchHere {n : Nat} {r : PartRec} {s : State} (hp : partRec s n = some r) (k : Nat) :
    plannedK (switchHere n k s) n = some ((plannedK s n).elim k fun t => min t k) := by
  have noted : plannedK (updPart n (fun r => { r with switchK := some k }) s) n = some k := plannedK_of_rec (partRec_updPart _ hp)
  unfold switchHere
  cases planned : plannedK s n with
  | none => exact noted
  | some t =>
    dsimp only [Option.elim]
    split
    next early => rw [planned, Nat.min_eq_left early]
    next late => rw [noted, Nat.min_eq_right (Nat.le_of_not_le late)]

/-! ### What a member's part of a switch leaves as it was -/

/-- The fields that firmware writes for a switch of a partition, beside those of the gate. -/
def switchFields (n : Nat) : List Fld :=
  [F.GLB_DENIED_CNT, F.SRV_PART_ADM_RATE n, F.TB_PART_DIV_LOG2 n] ++ allCores.map F.SEQ_CTL_BANK

/-- Beside those fields and firmware's records a switch leaves the registers, the gate and the phase as they were. -/
structure SwitchFrame (n : Nat) (s t : State) : Prop where
  calm : calm s t
  regs : sameRegsBut (switchFields n) s t
  time : t.time = s.time
  phase : t.fw.phase = s.fw.phase

theorem SwitchFrame.refl (n : Nat) (s : State) : SwitchFrame n s s := ⟨.refl s, .refl _ s, rfl, rfl⟩

theorem SwitchFrame.trans {n : Nat} {r s t : State} (h : SwitchFrame n r s) (k : SwitchFrame n s t) : SwitchFrame n r t :=
  ⟨h.calm.trans k.calm, h.regs.trans k.regs, k.time.trans h.time, k.phase.trans h.phase⟩

theorem SwitchFrame.updFw {n : Nat} {f : FwSt → FwSt} (h : ∀ k, (f k).phase = k.phase) (s : State) : SwitchFrame n s (updFw f s) :=
  ⟨updFw_calm f s, (sameRegsBut.refl _ s).of_eq rfl rfl, rfl, h s.fw⟩

theorem SwitchFrame.updPart (n m : Nat) (f : PartRec → PartRec) (s : State) : SwitchFrame n s (updPart m f s) := by
  unfold Machine.updPart
  split
  · exact .updFw (fun _ => by rfl) s
  · exact .refl n s

theorem SwitchFrame.fwWrite {n : Nat} {f : Fld} (hf : f ∈ switchFields n) (v : Nat) (s : State) : SwitchFrame n s (fwWrite f v s) := by
  refine ⟨fwWrite_calm f v s, ?_, ?_, congrArg FwSt.phase (fwWrite_fw f v s)⟩ <;> unfold Machine.fwWrite <;> split
  · exact (sameRegsBut.refl _ s).bump (by simp [switchFields])
  · exact ((sameRegsBut.refl _ s).set hf v).of_eq rfl rfl
  · rfl
  · rfl

/-- A field outside them, by its address. -/
theorem SwitchFrame.get_outside {n : Nat} {s t : State} (h : SwitchFrame n s t) {g : Fld} (denied : g.key ≠ F.GLB_DENIED_CNT.key)
    (rate : g.key ≠ (F.SRV_PART_ADM_RATE n).key) (div : g.key ≠ (F.TB_PART_DIV_LOG2 n).key) (banks : ∀ c, g.key ≠ (F.SEQ_CTL_BANK c).key) :
    get t g = get s g := by
  refine (h.regs g ?_).1
  simp only [switchFields, List.cons_append, List.nil_append, List.forall_mem_cons, List.forall_mem_map]
  exact ⟨denied, rate, div, fun c _ => banks c⟩

/-- The time base and the gate lie below the dividers of the partitions. -/
theorem SwitchFrame.get_low {n : Nat} {s t : State} (h : SwitchFrame n s t) {g : Fld} (denied : g.key ≠ 0x800) (low : g.key < 0x1000800) :
    get t g = get s g := by
  refine h.get_outside denied ?_ ?_ fun c => ?_ <;> simp only [F.SRV_PART_ADM_RATE, F.TB_PART_DIV_LOG2, F.SEQ_CTL_BANK] <;> omega

theorem SwitchFrame.netHeld_eq {n : Nat} {s t : State} (h : SwitchFrame n s t) : netHeld t = netHeld s :=
  netHeld_congr (h.get_low (by decide) (by decide)) h.phase

theorem SwitchFrame.coreUp_eq {n : Nat} (hn : n < 16) {s t : State} (h : SwitchFrame n s t) {c : Nat} (hc : c < 20) : coreUp t c = coreUp s c := by
  have state : coreState t c = coreState s c := by
    refine h.get_outside ?_ ?_ ?_ fun d => ?_ <;>
      simp only [F.CORE_CTL_STATE_STATE, F.GLB_DENIED_CNT, F.SRV_PART_ADM_RATE, F.TB_PART_DIV_LOG2, F.SEQ_CTL_BANK] <;> omega
  unfold coreUp
  rw [state]

theorem scaleAdm_frame (n : Nat) (s : State) : SwitchFrame n s (scaleAdm n s) := by
  have noted : SwitchFrame n s (rateScaled n s) := .updPart ..
  rcases scaleAdm_cases n s with same | ⟨v, written⟩
  · exact same ▸ noted
  · exact written ▸ noted.trans (.fwWrite (by simp [switchFields]) ..)

theorem switchHere_frame (n k : Nat) (s : State) : SwitchFrame n s (switchHere n k s) := by
  unfold switchHere
  split
  · split
    · exact .refl n s
    · exact .updPart ..
  · exact .updPart ..

/-- A member's part of a switch is noted: the rate, the tick, and the halves that throttle lowers with it. -/
def switchNoted (n k : Nat) (scale thr : Bool) (s : State) : State :=
  let low := if thr then mayLower s n else []
  let u := switchHere n k (when scale (scaleAdm n) s)
  lowerAt (lowTick u low ((plannedK u n).getD k)) low (noteLow low u)

/-- The gate then makes ready what is planned. -/
theorem doSwitch_eq (n k : Nat) (scale thr : Bool) (s : State) : doSwitch n k scale thr s = planGate (switchNoted n k scale thr s) := by
  unfold doSwitch switchNoted
  dsimp only
  cases plannedK (switchHere n k (when scale (scaleAdm n) s)) n <;> rfl

theorem switchNoted_parts (n k : Nat) (scale thr : Bool) (s : State) :
    (switchNoted n k scale thr s).fw.parts = (switchHere n k (when scale (scaleAdm n) s)).fw.parts := rfl

theorem switchNoted_frame (n k : Nat) (scale thr : Bool) (s : State) : SwitchFrame n s (switchNoted n k scale thr s) := by
  have scaled := when_keeps (P := SwitchFrame n s) scale (.refl n s) fun t ht => ht.trans (scaleAdm_frame n t)
  unfold switchNoted noteLow lowerAt
  exact ((scaled.trans (switchHere_frame n k _)).trans (.updFw (fun _ => by rfl) _)).trans (.updFw (fun _ => by rfl) _)

section
variable {n : Nat} {r : PartRec} {s : State} (hp : partRec s n = some r) (k : Nat) (scale thr : Bool)
include hp

theorem plannedK_switchNoted : plannedK (switchNoted n k scale thr s) n = some ((plannedK s n).elim k fun t => min t k) := by
  rw [plannedK_of_parts (switchNoted_parts ..)]
  cases scale with
  | false => exact plannedK_switchHere hp k
  | true =>
    rw [← plannedK_scaleAdm hp n]
    exact plannedK_switchHere (partRec_scaleAdm_same hp) k

theorem plannedK_switchNoted_ne {m : Nat} (h : m ≠ n) : plannedK (switchNoted n k scale thr s) m = plannedK s m := by
  rw [plannedK_of_parts (switchNoted_parts ..), plannedK_switchHere_ne h]
  cases scale with
  | false => rfl
  | true => exact plannedK_scaleAdm hp m

/-- While the gate is free the tick stays planned as it was noted. -/
theorem plannedK_doSwitch (free : gateBusy s = false) :
    plannedK (doSwitch n k scale thr s) n = some ((plannedK s n).elim k fun t => min t k) := by
  have frame := switchNoted_frame n k scale thr s
  have same : gateBusy (switchNoted n k scale thr s) = gateBusy s := by
    unfold gateBusy flag
    rw [frame.get_low (by decide) (by decide), frame.time]
  rw [doSwitch_eq, plannedK_of_parts (congrArg FwSt.parts (planGate_fw (same.trans free)))]
  exact plannedK_switchNoted hp k scale thr

end

theorem doSwitch_calm (n k : Nat) (scale thr : Bool) (s : State) : calm s (doSwitch n k scale thr s) :=
  doSwitch_eq n k scale thr s ▸ (switchNoted_frame n k scale thr s).calm.trans (planGate_calm _)


/-! ### The gate makes a switch ready (R227, R228) -/

/-- The block of a core by an address in it (R45). -/
theorem coreOf_of_block {c ofs a : Nat} (hc : c < 20) (ho : ofs < 0x100000) (h : a = 0x1000000 + c * 0x100000 + ofs) : coreOf a = some c := by
  unfold coreOf
  rw [if_pos (by rw [Bool.and_eq_true, decide_eq_true_eq, decide_eq_true_eq]; omega)]
  congr 1
  omega

/-- A register of a core is reached while its compute domain and the network plane are up. -/
theorem domainDown_block {c ofs a : Nat} {s : State} (hc : c < 20) (ho : ofs < 0x100000) (h : a = 0x1000000 + c * 0x100000 + ofs)
    (net : netHeld s = false) (up : coreUp s c = true) : domainDown s a = false := by
  rw [Bool.eq_false_iff, ne_eq, domainDown_iff]
  rintro (⟨-, held⟩ | ⟨d, block, down, -⟩)
  · exact Bool.false_ne_true (net.symm.trans held)
  · rw [Option.some.inj (block.symm.trans (coreOf_of_block hc ho h)), up] at down
    cases down

theorem domainDown_bank {c : Nat} {s : State} (hc : c < 20) (net : netHeld s = false) (up : coreUp s c = true) :
    domainDown s ((F.SEQ_CTL_BANK c).key / 8) = false :=
  domainDown_block (ofs := 0x10000) hc (by decide) (by simp only [F.SEQ_CTL_BANK]; omega) net up

theorem bank_mem_switchFields {c : Nat} (hc : c < 20) (n : Nat) : F.SEQ_CTL_BANK c ∈ switchFields n :=
  List.mem_append_right _ (List.mem_map_of_mem (List.mem_range.2 hc))

theorem SwitchFrame.each {α : Type} {n : Nat} (l : List α) {f : α → State → State} (s : State)
    (h : ∀ a ∈ l, ∀ t, SwitchFrame n t (f a t)) : SwitchFrame n s (each l f s) := by
  induction l generalizing s with
  | nil => exact .refl n s
  | cons a l ih => exact (h a (by simp) s).trans (ih _ fun b hb => h b (by simp [hb]))

theorem banksWritten_frame (n : Nat) (s : State) : SwitchFrame n s (banksWritten n s) := by
  unfold banksWritten
  exact .each _ s fun c hc t => .fwWrite (bank_mem_switchFields (lt_of_mem_partCores hc) n) _ t

theorem switchWrites_frame (n : Nat) (s : State) : SwitchFrame n s (switchWrites n s) := by
  rcases switchWrites_cases n s with same | ⟨d, written⟩
  · exact same ▸ banksWritten_frame n s
  · exact written ▸ (banksWritten_frame n s).trans (.fwWrite (by simp [switchFields]) ..)

/-- A bank that has been written stays while the same value is written to the banks of cores. -/
theorem bank_kept {c d b : Nat} {t : State} (h : get t (F.SEQ_CTL_BANK c) = b) (small : b ≤ 1) :
    get (fwWrite (F.SEQ_CTL_BANK d) b t) (F.SEQ_CTL_BANK c) = b := by
  have counter : (F.SEQ_CTL_BANK c).key ≠ F.GLB_DENIED_CNT.key := by simp only [F.SEQ_CTL_BANK, F.GLB_DENIED_CNT]; omega
  by_cases same : d = c
  · subst same
    unfold fwWrite
    split
    · exact (get_bump_ne counter t).trans h
    · exact (get_set_same ..).trans (Nat.mod_eq_of_lt (Nat.lt_succ_of_le small))
  · exact (get_fwWrite_ne (by simp only [F.SEQ_CTL_BANK]; omega) counter b t).trans h

section
variable {n c : Nat} {s : State} (hn : n < 16) (net : netHeld s = false) (up : ∀ d, d ∈ partCores s n → coreUp s d = true)
  (hc : c ∈ partCores s n)
include hn net up hc

theorem get_banksWritten : get (banksWritten n s) (F.SEQ_CTL_BANK c) = 1 - bankOf s n := by
  have small : 1 - bankOf s n ≤ 1 := Nat.sub_le ..
  have mem {d : Nat} (hd : d ∈ partCores s n) : F.SEQ_CTL_BANK d ∈ switchFields n := bank_mem_switchFields (lt_of_mem_partCores hd) n
  unfold banksWritten
  generalize 1 - bankOf s n = b at small ⊢
  refine each_reaches (I := SwitchFrame n s) (P := fun t => get t (F.SEQ_CTL_BANK c) = b) hc (.refl n s)
    (fun d hd t ht => ht.trans (.fwWrite (mem hd) _ t)) (fun d t h => bank_kept h small) fun t ht => ?_
  unfold fwWrite
  have reached := domainDown_bank (lt_of_mem_partCores hc) (ht.netHeld_eq.trans net) ((ht.coreUp_eq hn (lt_of_mem_partCores hc)).trans (up c hc))
  rw [if_neg (by simp [reached])]
  exact (get_set_same ..).trans (Nat.mod_eq_of_lt (Nat.lt_succ_of_le small))

theorem get_switchWrites : get (switchWrites n s) (F.SEQ_CTL_BANK c) = 1 - bankOf s n := by
  rcases switchWrites_cases n s with same | ⟨d, written⟩
  · rw [same, get_banksWritten hn net up hc]
  · rw [written, get_fwWrite_ne, get_banksWritten hn net up hc] <;> simp only [F.SEQ_CTL_BANK, F.TB_PART_DIV_LOG2, F.GLB_DENIED_CNT] <;> omega

end

/-- Nothing is planned but the switch of one partition, and no half clock is lowered. -/
structure PlannedAlone (n : PartIx) (k : Nat) (s : State) : Prop where
  own : plannedK s n = some k
  others : ∀ m : Nat, m < 16 → m ≠ n → plannedK s m = none
  halves : s.fw.halfAt = []

section
variable {n : PartIx} {k : Nat} {s : State} (alone : PlannedAlone n k s)
include alone

theorem PlannedAlone.firstK_eq : firstK s = some k := by
  unfold firstK
  rw [alone.halves, List.map_nil, List.append_nil, List.min?_eq_some_iff]
  refine ⟨List.mem_filterMap.2 ⟨n, List.mem_range.2 n.isLt, alone.own⟩, fun b hb => ?_⟩
  obtain ⟨m, hm, planned⟩ := List.mem_filterMap.1 hb
  by_cases same : m = n
  · rw [same, alone.own] at planned
    exact Nat.le_of_eq (Option.some.inj planned)
  · rw [alone.others m (List.mem_range.1 hm) same] at planned
    cases planned

theorem PlannedAlone.planWrites_eq : planWrites k s = switchWrites n s := by
  have one : (List.range 16).filter (fun m => plannedK s m == some k) = [n.val] := by
    have only : ∀ m ∈ List.range 16, (plannedK s m == some k) = (m == n.val) := fun m hm => by
      by_cases same : m = n
      · simp [same, alone.own]
      · simp [same, alone.others m (List.mem_range.1 hm) same]
    rw [List.filter_congr only, List.filter_beq, List.count_eq_one_of_mem List.nodup_range (List.mem_range.2 n.isLt)]
    rfl
  unfold planWrites
  rw [one, alone.halves]
  rfl

/-- The gate holds the writes of the switch, and is released for its tick. -/
theorem PlannedAlone.planGate_eq (free : flag s F.TB_STAT_GATE_ARMED = false) :
    planGate s = gateRelease (set F.TB_GATE_K_K k (switchWrites n (setB F.TB_STAT_GATE_HOLD true s))) := by
  have held : PlannedAlone n k (setB F.TB_STAT_GATE_HOLD true s) := ⟨alone.own, alone.others, alone.halves⟩
  have idle : gateBusy s = false := by simp [gateBusy, free]
  unfold planGate
  rw [idle, alone.firstK_eq, free]
  exact congrArg (fun t => gateRelease (set F.TB_GATE_K_K k t)) held.planWrites_eq

end

/-- RELEASE comes in time for a tick whose boundary lies ahead. -/
theorem releaseLate_ahead {s t : State} {k : Nat} (tick : get t F.TB_GATE_K_K = k)
    (same : ∀ g ∈ [F.TB_STAT_TICK_ON, F.TB_TIME_TIME, F.TB_EPOCH_EPOCH, F.TB_TICK_PERIOD_PERIOD], get t g = get s g)
    (ahead : flag s F.TB_STAT_TICK_ON = false ∨ now s < boundaryAt s k) : releaseLate t = false := by
  simp only [List.forall_mem_cons, List.not_mem_nil, false_imp_iff, implies_true, and_true] at same
  obtain ⟨on, time, epoch, period⟩ := same
  unfold releaseLate flag boundaryAt now basePeriod
  unfold flag boundaryAt now basePeriod at ahead
  rw [tick, on, time, epoch, period, Bool.and_eq_false_iff, decide_eq_false_iff_not, Nat.not_le]
  exact ahead

/-- The gate is armed for the tick of a switch that is planned alone, and every bank here is the other one (R227, R228). -/
theorem planGate_switches {n : PartIx} {k : Nat} {s : State} (alone : PlannedAlone n k s) (word : k < 2 ^ 64)
    (free : flag s F.TB_STAT_GATE_ARMED = false) (net : netHeld s = false) (up : ∀ c, c ∈ partCores s n → coreUp s c = true)
    (ahead : flag s F.TB_STAT_TICK_ON = false ∨ now s < boundaryAt s k) :
    let t := planGate s
    flag t F.TB_STAT_GATE_ARMED = true ∧ t.time.gateK = k ∧ ∀ c, c ∈ partCores s n → get t (F.SEQ_CTL_BANK c) = 1 - bankOf s n := by
  intro t
  let v := setB F.TB_STAT_GATE_HOLD true s
  let w := set F.TB_GATE_K_K k (switchWrites n v)
  have planned : t = gateRelease w := alone.planGate_eq free
  have written := switchWrites_frame n v
  have low {g : Fld} (hold : g.key ≠ F.TB_STAT_GATE_HOLD.key) (tick : g.key ≠ F.TB_GATE_K_K.key) (denied : g.key ≠ 0x800)
      (small : g.key < 0x1000800) : get w g = get s g :=
    (get_set_ne tick ..).trans ((written.get_low denied small).trans (get_setB_ne hold ..))
  have tick : get w F.TB_GATE_K_K = k := (get_set_same ..).trans (Nat.mod_eq_of_lt word)
  have hold : flag w F.TB_STAT_GATE_HOLD = true :=
    flag_of_get ((get_set_ne (by decide) ..).trans ((written.get_low (by decide) (by decide)).trans (get_setB_same ..)))
  have armed : flag w F.TB_STAT_GATE_ARMED = false :=
    (congrArg (· == 1) (low (by decide) (by decide) (by decide) (by decide))).trans free
  have inTime : releaseLate w = false := by
    refine releaseLate_ahead tick ?_ ahead
    simp only [List.forall_mem_cons, List.not_mem_nil, false_imp_iff, implies_true, and_true]
    exact ⟨low (by decide) (by decide) (by decide) (by decide), low (by decide) (by decide) (by decide) (by decide),
      low (by decide) (by decide) (by decide) (by decide), low (by decide) (by decide) (by decide) (by decide)⟩
  obtain ⟨isArmed, gateK, -, -, -, -, -, regs⟩ := gateRelease_spec hold armed
  rw [planned]
  refine ⟨isArmed, ?_, fun c hc => ?_⟩
  · rw [gateK, inTime, tick]
    rfl
  · have bank : get (gateRelease w) (F.SEQ_CTL_BANK c) = get w (F.SEQ_CTL_BANK c) := by
      refine (regs _ ?_).1
      simp only [List.forall_mem_cons, F.SEQ_CTL_BANK, F.TB_STAT_GATE_ARMED, F.TB_STAT_GATE_LATE, F.TB_GATE_LATE_CNT]
      refine ⟨?_, ?_, ?_, by simp⟩ <;> omega
    have same : get w (F.SEQ_CTL_BANK c) = get (switchWrites n v) (F.SEQ_CTL_BANK c) :=
      get_set_ne (by simp only [F.SEQ_CTL_BANK, F.TB_GATE_K_K]; omega) ..
    have state (d : Nat) : coreState v d = coreState s d :=
      get_setB_ne (by simp only [F.CORE_CTL_STATE_STATE, F.TB_STAT_GATE_HOLD]; omega) ..
    have upV (d : Nat) (hd : d ∈ partCores s n) : coreUp v d = true := by
      unfold coreUp
      rw [state]
      exact up d hd
    have netV : netHeld v = false := (netHeld_congr (get_setB_ne (by decide) ..) rfl).trans net
    rw [bank, same]
    exact get_switchWrites n.isLt netV upV hc


theorem updPart_halfAt (n : Nat) (f : PartRec → PartRec) (s : State) : (updPart n f s).fw.halfAt = s.fw.halfAt := by
  unfold updPart
  split <;> rfl

theorem scaleAdm_halfAt (n : Nat) (s : State) : (scaleAdm n s).fw.halfAt = s.fw.halfAt := by
  rcases scaleAdm_cases n s with same | ⟨v, written⟩
  · exact same ▸ updPart_halfAt ..
  · exact written ▸ (congrArg FwSt.halfAt (fwWrite_fw ..)).trans (updPart_halfAt ..)

theorem switchHere_halfAt (n k : Nat) (s : State) : (switchHere n k s).fw.halfAt = s.fw.halfAt := by
  unfold switchHere
  split
  · split
    · rfl
    · exact updPart_halfAt ..
  · exact updPart_halfAt ..

/-- Without throttle a switch lowers no half. -/
theorem switchNoted_halfAt {s : State} (west : throttled s false = false) (east : throttled s true = false) (n k : Nat) (scale thr : Bool) :
    (switchNoted n k scale thr s).fw.halfAt = s.fw.halfAt := by
  have none : (if thr then mayLower s n else []) = [] := by simp [mayLower, west, east]
  unfold switchNoted
  rw [none]
  exact (List.append_nil _).trans ((switchHere_halfAt ..).trans
    (when_keeps (P := fun t => t.fw.halfAt = s.fw.halfAt) scale rfl fun t ht => (scaleAdm_halfAt n t).trans ht))

section
variable {n : PartIx} {r : PartRec} {s : State} (hp : partRec s n = some r)
include hp

theorem switchNoted_alone (idle : ∀ p, p < 16 → plannedK s p = none) (halves : s.fw.halfAt = []) (west : throttled s false = false)
    (east : throttled s true = false) (k : Nat) (scale thr : Bool) : PlannedAlone n k (switchNoted n k scale thr s) where
  own := by rw [plannedK_switchNoted hp, idle n n.isLt]; rfl
  others m hm other := (plannedK_switchNoted_ne hp k scale thr other).trans (idle m hm)
  halves := (switchNoted_halfAt west east ..).trans halves

/-- A switch told to a member that plans nothing else is made through the gate. -/
theorem doSwitch_gates {k : Nat} (word : k < 2 ^ 64) (scale thr : Bool) (free : flag s F.TB_STAT_GATE_ARMED = false)
    (idle : ∀ p, p < 16 → plannedK s p = none) (halves : s.fw.halfAt = []) (west : throttled s false = false) (east : throttled s true = false)
    (net : netHeld s = false) (ahead : flag s F.TB_STAT_TICK_ON = false ∨ now s < boundaryAt s k)
    (up : ∀ c, c ∈ partCores s n → coreUp s c = true) :
    let t := doSwitch n k scale thr s
    flag t F.TB_STAT_GATE_ARMED = true ∧ t.time.gateK = k ∧ ∀ c, c ∈ partCores s n → get t (F.SEQ_CTL_BANK c) = 1 - bankOf s n := by
  have frame := switchNoted_frame n k scale thr s
  have ⟨_, _, act, _⟩ := frame.calm
  have same {g : Fld} (denied : g.key ≠ 0x800) (low : g.key < 0x1000800) := frame.get_low denied low
  have cores := partCores_of_act act n
  have gate := planGate_switches (switchNoted_alone hp idle halves west east k scale thr) word ?_ (frame.netHeld_eq.trans net) ?_ ?_
  · rwa [cores, bankOf_of_act act, ← doSwitch_eq] at gate
  · exact (congrArg (· == 1) (same (by decide) (by decide))).trans free
  · rw [cores]
    exact fun c hc => (frame.coreUp_eq n.isLt (lt_of_mem_partCores hc)).trans (up c hc)
  · unfold flag boundaryAt now basePeriod at ahead ⊢
    rwa [same (g := F.TB_STAT_TICK_ON) (by decide) (by decide), same (g := F.TB_TIME_TIME) (by decide) (by decide),
      same (g := F.TB_EPOCH_EPOCH) (by decide) (by decide), same (g := F.TB_TICK_PERIOD_PERIOD) (by decide) (by decide)]

end

/-! ### The statement -/

/-- A stop, a pause or a reset at an agreed tick stops a running core here when the tick is near (R308, R311, R399). -/
theorem exec_notice_stops {n : PartIx} {k : Word64} {r : PartRec} {s : State} (hp : partRec s n = some r) {i : Instr}
    (notice : i = .partitionStopNotice n k ∨ i = .pauseNotice n k ∨ i = .partitionResetNotice n k) {c : Nat} (hc : c ∈ partCores s n)
    (runs : coreState s c = 3) (good : coreGood s c = true) (up : netHeld s = false) (due : k.toNat ≤ curK s + partDiv s n) :
    ∃ t, exec i s = .next t ∧ flag t (F.CORE_CTL_STATE_STOP_PEND c) = true ∧ t.mem = s.mem ∧ t.cores = s.cores ∧ t.act = s.act := by
  rcases notice with rfl | rfl | rfl
  · exact ⟨_, rfl, agreed_stops (fun x => { x with stopK := some k.toNat }) hp (by simp) due hc up good runs⟩
  · exact ⟨_, rfl, agreed_stops (fun x => { x with pauseK := some k.toNat }) hp (by simp) due hc up good runs⟩
  · exact ⟨_, rfl, agreed_stops (fun x => { x with resetK := some k.toNat }) hp (by simp) due hc up good runs⟩

/-- Settles O59: agreed ticks by what their notices and requests write, the start by the members that are ready and its interval, reports by the
windows they belong to, a switch by the gate, and the coordinator's role by its acknowledgements. That an agreed stop or pause lies 65 base ticks
ahead is the model's choice (log entry 56). -/
theorem partitionMessagesAct : Obligations.PartitionMessagesAct := by
  refine ⟨?_, ?_⟩
  · intro n k m r s hp upd all ahead
    refine ⟨rfl, rfl, rfl, rfl, fun i c notice hc runs good up due => exec_notice_stops hp notice hc runs good up due, fun coord => ?_,
      fun member => ?_, fun t agreed => ?_, exec_partitionRunWrite_none hp⟩
    · refine ⟨exec_partitionStopRequest_coordinator hp coord, exec_partitionStopRequest_missed hp coord, exec_pauseRequest_coordinator hp coord,
        exec_pauseRequest_again hp coord, fun missing => ?_, fun ready => ?_⟩
      · exact (exec_readyReport_coordinator hp coord m).trans (congrArg _ (if_neg (Bool.eq_false_iff.1 missing)))
      · obtain ⟨started, ⟨mem, cores, act, -⟩, regs⟩ := pickStart_readyTaken hp m.toNat
        exact ⟨_, (exec_readyReport_coordinator hp coord m).trans (congrArg _ (if_pos ready)), started, mem, cores, act, regs⟩
    · exact ⟨exec_partitionStopRequest_member hp member false, exec_partitionStopRequest_member hp member true,
        exec_pauseRequest_member hp member, exec_readyReport_member hp member m⟩
    · have run := exec_partitionRunWrite_some hp agreed
      refine ⟨fun early => run.trans (if_pos early), fun due inTime => ?_, fun due late => ?_⟩
      · exact run.trans ((if_neg (Nat.not_lt.2 due)).trans (if_neg (Nat.not_lt.2 inTime)))
      · exact run.trans ((if_neg (Nat.not_lt.2 due)).trans (if_pos late))
  · intro n m w k layers wide reach scale thr r s z hp fb ov fbIn ovIn allIn
    obtain ⟨p, known⟩ := partRec_of_renumber hp
    refine ⟨fun len => ?_, fun q known len => partRec_renumber_changed known len hp,
      fun coord => ⟨fun fresh new => ?_, fun old => ?_⟩, fun coord => ⟨fun fresh new => ?_, fun old => ?_⟩,
      fun member => ⟨exec_fallbackReport_member hp member m w layers wide, exec_overrunReport_member hp member m w k wide⟩,
      fun v => exec_overrunWindowEnd_some hp, exec_overrunWindowEnd_none hp, ⟨_, rfl, ?_⟩,
      ⟨_, rfl, by rw [known]; rfl, ?_, updPart_regs .., updPart_calm ..⟩, fun q known silent member => ?_,
      fun q known calls => exec_coordinatorSilent_idle known calls reach⟩
    · rw [known] at len
      exact renumber_same known len.symm
    · rw [exec_fallbackReport_coordinator hp coord, hearFb_eq hp, heardBefore_false fresh new]
      rfl
    · rw [exec_fallbackReport_coordinator hp coord, hearFb_eq hp, heardBefore_true old]
      rfl
    · rw [exec_overrunReport_coordinator hp coord, hearOv_eq hp, heardBefore_false fresh new]
      rfl
    · rw [exec_overrunReport_coordinator hp coord, hearOv_eq hp, heardBefore_true old]
      rfl
    · obtain ⟨mem, cores, act, -⟩ := doSwitch_calm n k.toNat scale thr s
      refine ⟨act, mem, cores, fun free => ?_, doSwitch_gates known k.isLt scale thr⟩
      rw [plannedK_doSwitch known k.toNat scale thr free]
      cases plannedK s n <;> rfl
    · rw [known]
      exact partRec_updPart _ known
    · have due := exec_coordinatorSilent_due known silent member
      obtain ⟨stays, stops, quiet⟩ := aloneStops_spec n [0x308, n] s
      refine ⟨fun standby => ⟨_, (due reach).trans (if_pos standby), standbyTakes_spec known 8 _⟩,
        fun other => ⟨_, (due true).trans (if_neg other), partRec_updPart _ known, updPart_calm ..⟩,
        fun other => ⟨_, (due false).trans (if_neg other), stays, stops, quiet⟩⟩

end Sys2Proof.Machine

namespace Sys2Proof.Machine

/-! ### Steps, the queue and soundness -/

/-- Settles O1: by definition of a step. -/
theorem stepRunsFrontCommand : Obligations.StepRunsFrontCommand := fun _ _ _ => rfl

/-- Settles O2: a tick of the reference shows an instant, and `showTime_spec` says what that leaves (log entry 2). -/
theorem emptyQueueStepMovesOnlyTime : Obligations.EmptyQueueStepMovesOnlyTime := by
  intro s empty
  obtain ⟨queue, rest⟩ := showTime_spec (now s * 2 ^ 32 + s.frac + tickLen s) s
  exact ⟨tickTime s, by rw [step, empty], queue.trans empty, rest⟩

/-- Settles O4: nothing is stored after reset, and nothing waits. -/
theorem resetIsSound : Obligations.ResetIsSound := ⟨rfl, rfl⟩

/-- Settles O5: soundness is part of what every command and every tick of the reference keeps. -/
theorem stepKeepsSound : Obligations.StepKeepsSound := by
  intro s t sound h
  obtain ⟨-, rfl⟩ | ⟨i, rest, -, hi⟩ := step_cases h
  · obtain ⟨-, -, kept⟩ := tickTime_keeps (Keeps.refl s)
    exact kept sound
  · obtain ⟨-, -, kept⟩ := exec_keeps i _ t hi
    exact kept sound

/-- A step takes the front command off the queue and puts none there. -/
theorem step_pending {s t : State} (h : step s = .next t) : t.pending = s.pending.tail := by
  obtain ⟨empty, rfl⟩ | ⟨i, rest, queue, hi⟩ := step_cases h
  · obtain ⟨kept, -⟩ := tickTime_keeps (Keeps.refl s)
    rw [kept, empty]
    rfl
  · obtain ⟨kept, -⟩ := exec_keeps i _ t hi
    rw [kept, queue]
    rfl

/-- Settles O7: what is left of a queue of well-formed commands is well formed. -/
theorem stepKeepsQueueWellFormed : Obligations.StepKeepsQueueWellFormed := by
  intro s t wf h
  have left := step_pending h
  refine ⟨List.all_eq_true.2 fun i hi => List.all_eq_true.1 wf i ?_, left⟩
  rw [left] at hi
  exact List.mem_of_mem_tail hi

/-- The outcome is a next state. -/
def Completes (o : Host.Outcome State Fault Refusal) : Prop := ∃ t, o = .next t

theorem Completes.next (t : State) : Completes (.next t) := ⟨t, rfl⟩

/-- Every command answers a next state: the commands that `delta` names branch on the state, and each of their branches ends in one; the
others have one branch. -/
theorem exec_completes (i : Instr) (s : State) : Completes (exec i s) := by
  cases i
  all_goals
    dsimp only [exec]
    try
      delta execIllegalInstruction execEndOp execWaitDeadline execFlitForward execInputLoad execFiringStart execFiringHandoff
        execFiringRelease execRetire execArrTrimWrite execWindowWriteLanding execNackReceived execCalPassStart execCalPassEnd
        execCalCmdDone execCalMonitorPeriodEnd execStackRead execStackWrite execMergeWindowClose execScrubRead execBankDrainEnd
        execBankWakeEnd execProofGoldLine execProofStart execProofComplete execBatchStart execReadbackTimeout execAdptDown execAdptUp
        execCorePowerRampStart execCorePowerRampEnd execCoreResetEnd execRegisterReadLatch execRegisterWrite execSnapTake
        execGuardBandStart execLeavenWindowEnd execLeavenCtlWrite execNoticeReceived execReqNew execReqContinue execReqCancel execReqPark
        execReqDrop execRqTail execOqHead execOutputRecordWrite execOutputIrqTimer execCaddyTtlExpire execCaddyReport execMbDb
        execPciePerst execPcieRetrain execPcieLinkTrained execPcieLinkError execBar4Read execBar4Write execDmaTransferEnd execFaultEvent
        execFaultWindowEnd execFltAck execFltEvtPop execFltCapClear execFaultNPulseEnd execInjectGo execInjectionAtTime execFaultReport
        execFaultSummaryTimer execPortTrainingDone execPortMissingTimeout execPortTrainFailTimeout execPortSignalDetect execLinkDown
        execPartnerSignalLoss execCellReceive execCellIngressExit execEgressBlock execFecIntervalEnd execAuthCell execAdmissionTimeout
        execSyncMarkerTimer execSyncReceived execDelayReqReceived execDelayRespReceived execDiscoveryEnd execRouteInstall
        execMissingReport execStandbyRootTakeover execPlanGet execPortCmd execPackageStart execStartStepTimeout execPowerOnDetect
        execLcRstCold execWatchdogExpire execWatchdogKick execRefclkLoss execLcRstWarm execResetDrainDone execDrainTimeout
        execLcRstCluster execBistRun execBistDone execJtagFuseProgramming execImageSourceRetry execGoldenRefetch execResteepRotation
        execSuspectObserve execSuspectObservationEnd execDigestInterval execPartitionStopRequest execPartitionRunWrite execTickBoundary
        execOverrunWindowEnd execCoordinatorSilent execHoldoverExpire execThrottleSet execThrottleRequest execThrottleClear execPartCreate
        execPartSet execHalfClock execRecipeSet execRecipeGet execFaultPause execResteepInPlace execResteepDeferExpire execRoundSwitch
        execAdapterList execAdapterSlotFree execSensorSample execSensorMissingTimeout execWarningChange execThmCtlWrite execTelCtlWrite
        execTelConversionEnd execRqCreate execOqCreate execRingDestroy execAccountSet execTelSnapshot execThermalGet execTelStream
        execTelStreamInterval execFaultList execLcSet execOwnershipInstall execMgmtSessionHandshake execFirmwareRestartEnd
        execPendingComplete execStackReply
    repeat' first
      | with_reducible exact Completes.next _
      | (extract_lets; clear_value *)
      | split
  all_goals exact ⟨_, rfl⟩

/-- Settles O6: every command answers a next state, and none touches the queue behind it or the list of bad arrays (that operands outside
`Instr.wf` are answered too is the model's choice, log entry 6). -/
theorem everyCommandCompletes : Obligations.EveryCommandCompletes := by
  intro c s
  obtain ⟨t, h⟩ := exec_completes c s
  obtain ⟨queue, bad, -⟩ := exec_keeps c s t h
  exact ⟨t, h, queue, bad⟩

end Sys2Proof.Machine

namespace Sys2Proof.Machine

/-! ### What work on one core's compute domain leaves alone (R41, R374) -/

/-- The bit address lies outside the register blocks of a core. -/
def farFrom (c k : Nat) : Prop := k < 0x100000000 ∧ (k < 0x8000000 + c * 0x800000 ∨ 0x8800000 + c * 0x800000 ≤ k)

/-- Work on a core's compute domain changes registers of its blocks, the core itself, and memories other than the stacks, the scratchpads'
bytes and the array cells. -/
structure DomainWork (c : Nat) (s t : State) : Prop where
  rest : t = { s with regs := t.regs, act := t.act, snap := t.snap, regsM := t.regsM, shadows := t.shadows, cores := t.cores, mem := t.mem }
  stk : t.mem.stk = s.mem.stk
  spad : t.mem.spad = s.mem.spad
  wts : t.mem.wts = s.mem.wts
  far : ∀ g : Fld, farFrom c g.key → get t g = get s g ∧ actv t g = actv s g
  others : ∀ d, d ≠ c → core t d = core s d

section
variable {c : Nat}

theorem DomainWork.refl (s : State) : DomainWork c s s := ⟨rfl, rfl, rfl, rfl, fun _ _ => ⟨rfl, rfl⟩, fun _ _ => rfl⟩

theorem DomainWork.trans {r s t : State} (h : DomainWork c r s) (k : DomainWork c s t) : DomainWork c r t :=
  ⟨k.rest.trans (by rw [h.rest]), k.stk.trans h.stk, k.spad.trans h.spad, k.wts.trans h.wts,
    fun g hg => ⟨(k.far g hg).1.trans (h.far g hg).1, (k.far g hg).2.trans (h.far g hg).2⟩, fun d hd => (k.others d hd).trans (h.others d hd)⟩

theorem DomainWork.each {α : Type} (l : List α) {f : α → State → State} (h : ∀ a t, DomainWork c t (f a t)) (s : State) :
    DomainWork c s (each l f s) := each_keeps l (.refl s) fun a t ht => ht.trans (h a t)

/-- A write of a register of the core. -/
theorem DomainWork.set {f : Fld} (near : ¬ farFrom c f.key) (v : Nat) (s : State) : DomainWork c s (set f v s) :=
  ⟨rfl, rfl, rfl, rfl, fun _ hg => ⟨get_set_ne (fun e => near (e ▸ hg)) v s, rfl⟩, fun _ _ => rfl⟩

theorem DomainWork.updCore (f : CoreSt → CoreSt) (s : State) : DomainWork c s (updCore c f s) :=
  ⟨rfl, rfl, rfl, rfl, fun _ _ => ⟨rfl, rfl⟩, fun _ hd => core_updCore_ne hd f s⟩

/-- A change of marks, program memory, calibration store or undefined cells. -/
theorem DomainWork.mem {s : State} {m : Mems} (stk : m.stk = s.mem.stk) (spad : m.spad = s.mem.spad) (wts : m.wts = s.mem.wts) :
    DomainWork c s { s with mem := m } := ⟨rfl, stk, spad, wts, fun _ _ => ⟨rfl, rfl⟩, fun _ _ => rfl⟩

theorem DomainWork.erase {lo hi : Nat} (near : ∀ k, farFrom c k → k < 8 * lo ∨ 8 * hi ≤ k) (s : State) : DomainWork c s (eraseRegs lo hi s) :=
  ⟨rfl, rfl, rfl, rfl, fun _ hg => ⟨get_eraseRegs_outside (near _ hg) s, SMap.get_erase_outside _ _ (near _ hg)⟩, fun _ _ => rfl⟩

theorem markRow_work (d r : Nat) (b : Bool) (s : State) : DomainWork c s (markRow d r b s) := .mem rfl rfl rfl

theorem setUndef_work (d n : Nat) (b : Bool) (s : State) : DomainWork c s (setUndef d n b s) := .mem rfl rfl rfl

/-- A register at an offset of less than 0x800000 bits into the core's block is the core's. -/
theorem near_of_offset {k ofs : Nat} (h : k = 0x8000000 + ofs + c * 0x800000) (small : ofs < 0x800000) : ¬ farFrom c k := by
  unfold farFrom
  omega

theorem setB_work {f : Fld} {ofs : Nat} (h : f.key = 0x8000000 + ofs + c * 0x800000) (small : ofs < 0x800000) (b : Bool) (s : State) :
    DomainWork c s (setB f b s) := .set (near_of_offset h small) _ s

theorem setCoreState_work (st : Nat) (s : State) : DomainWork c s (setCoreState c st s) := .set (near_of_offset (ofs := 0) rfl (by decide)) _ s

theorem skipDraw_work (s : State) : DomainWork c s (skipDraw c s) :=
  (DomainWork.updCore _ s).trans (.set (near_of_offset (ofs := 0x500300) rfl (by decide)) _ _)

theorem abandonTick_work (s : State) : DomainWork c s (abandonTick c s) := by
  unfold abandonTick
  refine .trans ?_ (.set (near_of_offset (ofs := 0x80021) rfl (by decide)) 0 _)
  exact when_keeps (P := DomainWork c s) _ ((DomainWork.each _ (fun _ _ => markRow_work ..) s).trans (.updCore _ _))
    fun t ht => ht.trans (skipDraw_work t)

theorem stopUnits_work (s : State) : DomainWork c s (stopUnits c s) :=
  (((DomainWork.each _ (fun _ _ => setUndef_work ..) s).trans (.updCore _ _)).trans (setB_work (ofs := 0x120) rfl (by decide) _ _)).trans
    (setB_work (ofs := 0x121) rfl (by decide) _ _)

theorem stopped_work (s : State) : DomainWork c s (stopped c s) := by
  unfold stopped
  split
  · exact stopUnits_work s
  · exact (abandonTick_work s).trans (stopUnits_work _)

theorem clearedRegs_work (s : State) : DomainWork c s (clearedRegs c s) :=
  (DomainWork.erase (fun k hk => by simp only [farFrom, coreBase] at hk ⊢; omega) s).trans
    (.erase (fun k hk => by simp only [farFrom] at hk; omega) _)

theorem resetRegs_work (s : State) : DomainWork c s (resetRegs c s) :=
  ((stopped_work s).trans (clearedRegs_work _)).trans (.each _ (fun a t => .set (by
    have := Nat.mod_lt a (show 0 < 2624 by decide)
    exact near_of_offset (ofs := 0x200020 + a % 2624 * 0x200) (by simp only [F.ARR_STAT_STATE]; omega) (by omega)) 0 t) _)

theorem resetCompute_work (s : State) : DomainWork c s (resetCompute c s) := by
  rw [resetCompute_eq]
  dsimp only
  have regs := resetRegs_work (c := c) s
  generalize resetRegs c s = u at regs ⊢
  refine DomainWork.trans ?_ (setB_work (ofs := 0x121) rfl (by decide) _ _)
  refine DomainWork.trans ?_ (setB_work (ofs := 0x120) rfl (by decide) _ _)
  refine DomainWork.trans ?_ (setB_work (ofs := 5) rfl (by decide) _ _)
  refine DomainWork.trans ?_ (setB_work (ofs := 4) rfl (by decide) _ _)
  refine DomainWork.trans ?_ (setB_work (ofs := 3) rfl (by decide) _ _)
  refine DomainWork.trans ?_ (.updCore _ _)
  exact regs.trans (.mem rfl rfl rfl)

theorem markEnding_work (s : State) : DomainWork c s (markEnding c s) := by
  unfold markEnding
  dsimp only
  split
  · exact .each _ (fun _ _ => markRow_work ..) s
  · exact .refl s

end

section
variable {c : Nat} {s t : State} (h : DomainWork c s t)
include h

theorem DomainWork.get_low {g : Fld} (low : g.key < 0x8000000) : get t g = get s g :=
  (h.far g ⟨by omega, .inl (by omega)⟩).1

/-- Another core's registers stay. -/
theorem DomainWork.get_other {d ofs : Nat} {g : Fld} (other : d ≠ c) (at_ : g.key = 0x8000000 + ofs + d * 0x800000) (small : ofs < 0x800000)
    (hd : d < 20) : get t g = get s g := by
  refine (h.far g ?_).1
  unfold farFrom
  omega

theorem DomainWork.coreState_other {d : Nat} (other : d ≠ c) (hd : d < 20) : coreState t d = coreState s d :=
  h.get_other (ofs := 0) other rfl (by decide) hd

theorem DomainWork.coreGood (d : Nat) : coreGood t d = coreGood s d := by
  unfold Machine.coreGood getBit
  rw [h.get_low (g := F.LC_CORE_FUSE_GOOD) (by decide)]

theorem DomainWork.mesh : t.mesh = s.mesh := by rw [h.rest]
theorem DomainWork.fw : t.fw = s.fw := by rw [h.rest]
theorem DomainWork.flt : t.flt = s.flt := by rw [h.rest]
theorem DomainWork.badArr : t.badArr = s.badArr := by rw [h.rest]

end

theorem coreState_setCoreState {c st : Nat} (small : st < 8) (s : State) : coreState (setCoreState c st s) c = st :=
  (get_set_same ..).trans (Nat.mod_eq_of_lt small)

end Sys2Proof.Machine

namespace Sys2Proof.Machine

/-! ### Commands to a core (Table 6.20) -/

section
variable {c : Nat} {f : Nat → Option (State → State)} {s : State}

/-- While the network plane is held in reset every command is denied (R43). -/
theorem coreCmd_held (held : netHeld s = true) : coreCmd c f s = bump F.GLB_DENIED_CNT s := ifNet_held held _

/-- A core that the fuses do not list as good, or whose state does not allow the command, counts it. -/
theorem coreCmd_refused (up : netHeld s = false) (no : coreGood s c = false ∨ f (coreState s c) = none) :
    coreCmd c f s = bump (F.CORE_CTL_CMD_REJ_CNT c) s := by
  unfold coreCmd
  rw [ifNet_up up]
  split
  · rfl
  · next good =>
    obtain bad | none := no
    · exact absurd (by simp [bad]) good
    · rw [none]
      rfl

/-- A good core in a state that allows the command obeys it. -/
theorem coreCmd_taken (up : netHeld s = false) (good : coreGood s c = true) {g : State → State} (allowed : f (coreState s c) = some g) :
    coreCmd c f s = g s := by
  unfold coreCmd
  rw [ifNet_up up, allowed, if_neg (by simp [good])]

end

theorem powerDown_work (c st : Nat) (s : State) : DomainWork c s (powerDown c st s) :=
  ((resetCompute_work s).trans (.updCore _ _)).trans (setCoreState_work st _)

section
variable {c : CoreIx} {s : State}

theorem exec_corePowerOn_taken (up : netHeld s = false) (good : coreGood s c = true) (off : coreState s c = 0) :
    exec (.corePowerOn c) s = .next (powerOn c s) :=
  congrArg Host.Outcome.next (coreCmd_taken up good (if_pos off))

theorem exec_corePowerOff_taken (up : netHeld s = false) (good : coreGood s c = true) (on : coreState s c = 2 ∨ coreState s c = 4) :
    exec (.corePowerOff c) s = .next (powerDown c 0 s) := by
  refine congrArg Host.Outcome.next (coreCmd_taken (g := powerDown c cOff) up good ?_)
  refine if_pos ?_
  simp only [Bool.or_eq_true, decide_eq_true_eq]
  exact on

theorem exec_coreCmdReset_taken (up : netHeld s = false) (good : coreGood s c = true)
    (on : coreState s c = 2 ∨ coreState s c = 3 ∨ coreState s c = 4) :
    exec (.coreCmdReset c) s = .next (startReset c (bump F.LC_CORE_RST_CNT s)) := by
  refine congrArg Host.Outcome.next (coreCmd_taken (g := startReset c ∘ bump F.LC_CORE_RST_CNT) up good ?_)
  refine if_pos ?_
  simp only [Bool.or_eq_true, decide_eq_true_eq, or_assoc]
  exact on

theorem exec_fence_off (up : netHeld s = false) (good : coreGood s c = true) (off : coreState s c = 0) :
    exec (.fence c) s = .next (setCoreState c 4 (updCore c (fun k => { k with rampAt := none, ramping := false }) s)) :=
  congrArg Host.Outcome.next (coreCmd_taken (g := setCoreState c cFenced ∘ updCore c fun k => { k with rampAt := none, ramping := false })
    up good (if_pos off))

theorem exec_fence_on (up : netHeld s = false) (good : coreGood s c = true) (on : coreState s c = 2 ∨ coreState s c = 3) :
    exec (.fence c) s = .next (set (F.CORE_CTL_STATE_STATE c) 4 (resetCompute c s)) := by
  have running : ¬ coreState s c = cOff := by
    simp only [cOff]
    omega
  refine congrArg Host.Outcome.next (coreCmd_taken (g := setCoreState c cFenced ∘ resetCompute c) up good ?_)
  refine (if_neg running).trans (if_pos ?_)
  simp only [Bool.or_eq_true, decide_eq_true_eq]
  exact on

theorem exec_run_eq (c : CoreIx) (s : State) : exec (.run c) s = .next (coreCmd c (fun st =>
    if st = cIdle && (flag s (F.CORE_CTL_STATE_MCODE_OK c) && flag s (F.SEQ_BANK_DESC_VALID c (actv s (F.SEQ_CTL_BANK c)))) then
      some (setB (F.CORE_CTL_STATE_RUN_PEND c) true) else none) s) := rfl

/-- Every command to a core is denied while the network plane is held in reset. -/
theorem coreCommands_held (held : netHeld s = true) :
    let denied : Host.Outcome State Fault Refusal := .next (bump F.GLB_DENIED_CNT s)
    exec (.corePowerOn c) s = denied ∧ exec (.corePowerOff c) s = denied ∧ exec (.coreCmdReset c) s = denied ∧
      exec (.fence c) s = denied ∧ exec (.run c) s = denied ∧ exec (.stop c) s = denied :=
  have denied (f : Nat → Option (State → State)) := congrArg (Host.Outcome.next (φ := Fault) (ρ := Refusal)) (coreCmd_held (c := c) (f := f) held)
  ⟨denied _, denied _, denied _, denied _, (exec_run_eq c s).trans (denied _), denied _⟩

/-- A command of a state that does not allow it is counted. -/
theorem coreCommand_refused {f : Nat → Option (State → State)} (up : netHeld s = false) {P : Prop} (no : coreGood s c = false ∨ P)
    (none : P → f (coreState s c) = none) :
    (.next (coreCmd c f s) : Host.Outcome State Fault Refusal) = .next (bump (F.CORE_CTL_CMD_REJ_CNT c) s) :=
  congrArg _ (coreCmd_refused up (no.imp_right none))

theorem exec_corePowerOn_refused (up : netHeld s = false)
    (no : coreGood s c = false ∨ coreState s c ≠ 0 ∨ (core s c).rampAt.isSome = true) :
    exec (.corePowerOn c) s = .next (bump (F.CORE_CTL_CMD_REJ_CNT c) s) := by
  by_cases taken : coreGood s c = true ∧ coreState s c = 0
  · obtain ⟨good, off⟩ := taken
    rw [exec_corePowerOn_taken up good off]
    exact congrArg _ (if_pos (by simpa [good, off] using no))
  · refine coreCommand_refused (P := coreState s c ≠ 0) up ?_ fun other => if_neg other
    simpa [or_iff_not_imp_left] using taken


/-- RUN is allowed in IDLE, with the microcode loaded and the active bank VALID. -/
theorem exec_run_refused (up : netHeld s = false) (no : coreGood s c = false ∨ coreState s c ≠ 2 ∨
    flag s (F.CORE_CTL_STATE_MCODE_OK c) = false ∨ flag s (F.SEQ_BANK_DESC_VALID c (actv s (F.SEQ_CTL_BANK c))) = false) :
    exec (.run c) s = .next (bump (F.CORE_CTL_CMD_REJ_CNT c) s) := by
  rw [exec_run_eq]
  refine coreCommand_refused up no fun other => if_neg ?_
  simp only [Bool.and_eq_true, decide_eq_true_eq, not_and_or, Bool.not_eq_true]
  exact other

end

/-- Settles O20: the command's function of the core's state decides (that POWER_ON is rejected while a ramp waits or runs is log entry 18). -/
theorem coreCommandsActWhereAdmitted : Obligations.CoreCommandsActWhereAdmitted := by
  refine ⟨fun c s good up => ⟨fun off rest => ?_, fun on => ?_, fun idle loaded valid => ?_, fun off => ?_, fun runs => ?_⟩,
    fun c s => ⟨coreCommands_held, fun up => ⟨exec_corePowerOn_refused up, fun no => ?_, fun no => ?_, fun no => ?_,
      exec_run_refused up, fun no => ?_⟩⟩,
    fun c v s => ⟨fun up => ?_, fun down => ?_, ?_⟩⟩
  · exact (exec_corePowerOn_taken up good off).trans (congrArg _ (if_neg (by simp [rest])))
  · have work := powerDown_work c 0 s
    exact ⟨_, exec_corePowerOff_taken up good on, coreState_setCoreState (by decide) _, work.stk, work.spad, work.mesh, fun d hd => work.others d (Fin.val_ne_of_ne hd)⟩
  · rw [exec_run_eq]
    exact congrArg _ (coreCmd_taken up good (if_pos (by simp [idle, loaded, valid, cIdle])))
  · refine ⟨_, exec_fence_off up good off, coreState_setCoreState (by decide) _, ?_, rfl, rfl,
      fun d hd => (core_set ..).trans (core_updCore_ne (Fin.val_ne_of_ne hd) _ s)⟩
    rw [setCoreState, core_set, core_updCore_same]
  · exact congrArg _ (coreCmd_taken up good (if_pos runs))
  · refine coreCommand_refused up no fun other => if_neg ?_
    simp only [Bool.or_eq_true, decide_eq_true_eq, not_or]
    exact other
  · refine coreCommand_refused up no fun other => if_neg ?_
    simp only [Bool.or_eq_true, decide_eq_true_eq, not_or, and_assoc]
    exact other
  · refine coreCommand_refused up no fun ⟨off, other⟩ => (if_neg off).trans (if_neg ?_)
    simp only [Bool.or_eq_true, decide_eq_true_eq, not_or]
    exact other
  · exact coreCommand_refused up no fun other => if_neg other
  · exact congrArg _ (if_pos (by simp [up]))
  · exact congrArg _ (if_neg (by simp [down]))
  · exact congrArg _ (if_neg (by simp))

/-! ### The reset of a core (R373 to R375, R411) -/

/-- What a reset's start leaves when the core did not run: it waits in RESET, with its work stopped. -/
def resetBegun (c : Nat) (s : State) : State :=
  stopUnits c (if coreRuns s c then abandonTick c s else s) |> setCoreState c cReset |> updCore c (fun k => { k with draining := true })
    |> setB (F.CORE_CTL_STATE_RUN_PEND c) false |> setB (F.CORE_CTL_STATE_STOP_PEND c) false
    |> setB (F.CORE_CTL_STATE_MCODE_OK c) false

theorem startReset_eq (c : Nat) (s : State) :
    startReset c s = when (coreRuns s c) (raise { src := 0x3A, dom := c, node := c }) (resetBegun c s) := rfl

theorem resetBegun_work (c : Nat) (s : State) : DomainWork c s (resetBegun c s) := by
  have stops : DomainWork c s (stopUnits c (if coreRuns s c then abandonTick c s else s)) := by
    split
    · exact (abandonTick_work s).trans (stopUnits_work _)
    · exact stopUnits_work s
  unfold resetBegun
  refine DomainWork.trans ?_ (setB_work (ofs := 3) rfl (by decide) _ _)
  refine DomainWork.trans ?_ (setB_work (ofs := 5) rfl (by decide) _ _)
  refine DomainWork.trans ?_ (setB_work (ofs := 4) rfl (by decide) _ _)
  exact (stops.trans (setCoreState_work _ _)).trans (.updCore _ _)

/-- A core's flags of CORE_CTL lie beside its STATE. -/
theorem coreState_setB {c : Nat} {f : Fld} {ofs : Nat} (h : f.key = 0x8000000 + ofs + c * 0x800000) (beside : ofs ≠ 0) (b : Bool) (s : State) :
    coreState (setB f b s) c = coreState s c := get_setB_ne (by simp only [F.CORE_CTL_STATE_STATE, h]; omega) b s

theorem resetBegun_spec (c : Nat) (s : State) : coreState (resetBegun c s) c = 1 ∧ (core (resetBegun c s) c).draining = true ∧
    get (resetBegun c s) (F.CORE_CTL_STATE_MCODE_OK c) = 0 := by
  unfold resetBegun
  generalize stopUnits c (if coreRuns s c then abandonTick c s else s) = u
  refine ⟨?_, ?_, ?_⟩
  · rw [coreState_setB (ofs := 3) rfl (by decide), coreState_setB (ofs := 5) rfl (by decide), coreState_setB (ofs := 4) rfl (by decide)]
    exact (get_updCore ..).trans (coreState_setCoreState (st := 1) (by decide) _)
  · rw [core_setB, core_setB, core_setB, core_updCore_same]
  · exact get_setB_same ..

/-- That a running core's reset is reported (CORE_RESET) changes the fault collector alone (R373). -/
theorem startReset_reports {c : Nat} (hc : c < 20) (s : State) : FltOnly (resetBegun c s) (startReset c s) := by
  rw [startReset_eq]
  exact FltOnly.when _ _ (raise_flt _ _ rfl (Nat.le_refl 1) rfl (show c < 256 by omega) (show 0x3A < 256 by decide))

/-- An event below L2 leaves the state of a core. -/
theorem FltOnly.coreState {s t : State} (h : FltOnly s t) (c : Nat) : coreState t c = coreState s c :=
  h.2 _ (.inr (by simp only [F.CORE_CTL_STATE_STATE]; omega))

theorem exec_corePowerRampStart_waiting {c : CoreIx} {x : Nat} {s : State} (at_ : (core s c).rampAt = some x) (waits : (core s c).ramping = false) :
    exec (.corePowerRampStart c) s = .next (updCore c (fun k => { k with ramping := true }) (moveTo x s)) := by
  rw [exec_corePowerRampStart, execCorePowerRampStart, at_, waits]
  rfl

/-- The 20 µs of a ramp have passed. -/
def rampPassed (c x : Nat) (s : State) : State := updCore c (fun k => { k with rampAt := none, ramping := false }) (moveTo (x + 20000) s)

theorem exec_corePowerRampEnd_ramping {c : CoreIx} {x : Nat} {s : State} (at_ : (core s c).rampAt = some x) (ramps : (core s c).ramping = true) :
    exec (.corePowerRampEnd c) s = .next (setCoreState c 1 (wipeSpad c (resetCompute c (rampPassed c x s)))) := by
  rw [exec_corePowerRampEnd, execCorePowerRampEnd, at_, ramps]
  rfl

theorem core_rampPassed_ne {c d : Nat} (h : d ≠ c) (x : Nat) (s : State) : core (rampPassed c x s) d = core s d :=
  (core_updCore_ne h _ _).trans (core_moveTo ..)

theorem rampPassed_mem (c x : Nat) (s : State) : (rampPassed c x s).mem = s.mem := moveTo_mem ..

@[simp] theorem get_wipeSpad (c : Nat) (s : State) (g : Fld) : get (wipeSpad c s) g = get s g := rfl

theorem now_setCoreState (c st : Nat) (s : State) : now (setCoreState c st s) = now s :=
  get_set_ne (by simp only [F.TB_TIME_TIME, F.CORE_CTL_STATE_STATE]; omega) st s

/-- Settles O21: a reset stops the core's work and waits in RESET; its end is the reset of the compute domain (`resetCompute_work`) and the
wipe of the scratchpad. -/
theorem coreResetsRun : Obligations.CoreResetsRun := by
  intro c s x
  refine ⟨fun up good on => ?_, exec_resetDrainDone_drained, fun drains => ?_, fun held rest => ?_, exec_fence_on,
    exec_corePowerRampStart_waiting, fun at_ ramps => ?_⟩
  · have hc := c.isLt
    have work := resetBegun_work c.val (bump F.LC_CORE_RST_CNT s)
    have told := startReset_reports hc (bump F.LC_CORE_RST_CNT s)
    obtain ⟨state, drains, mcode⟩ := resetBegun_spec c.val (bump F.LC_CORE_RST_CNT s)
    refine ⟨_, exec_coreCmdReset_taken up good on, (told.coreState c).trans state, ?_, ?_, ?_, ?_, ?_, fun d hd => ?_⟩
    · rw [told.core, drains]
    · exact ((told.2 _ (.inr (by decide))).trans (work.get_low (by decide))).trans (get_bump_same ..)
    · exact (told.2 _ (.inr (by simp only [F.CORE_CTL_STATE_MCODE_OK]; omega))).trans mcode
    · rw [told.mem, work.stk, bump_mem]
    · rw [told.mem, work.spad, bump_mem]
    · rw [told.core, work.others d (Fin.val_ne_of_ne hd), core_bump]
  · simp [exec_drainTimeout, execDrainTimeout, proceedReset, drains]
  · simp [exec_coreResetEnd, execCoreResetEnd, held, rest, cReset, cIdle, setCoreState]
  · obtain ⟨l, reset⟩ := core_resetCompute c (rampPassed c x s)
    have work := resetCompute_work (c := c) (rampPassed c x s)
    refine ⟨_, exec_corePowerRampEnd_ramping at_ ramps, coreState_setCoreState (by decide) _, ?_, fun small => ?_,
      fun r hr => ?_, ?_, fun d hd => ?_⟩
    · rw [setCoreState, core_set, core_wipeSpad, reset]
      rfl
    · rw [now_setCoreState, now, get_wipeSpad, work.get_low (by decide)]
      exact le_now_moveTo small s
    · exact (rowBytes_of_mem (set_mem ..) c r).trans (rowBytes_wipeSpad c hr _)
    · rw [setCoreState, set_mem, wipeSpad_stk, work.stk, rampPassed_mem]
    · rw [setCoreState, core_set, core_wipeSpad, work.others d (Fin.val_ne_of_ne hd), core_rampPassed_ne (Fin.val_ne_of_ne hd)]

end Sys2Proof.Machine

namespace Sys2Proof.Machine

/-! ### What the fault collector writes, part by part (R384 to R391) -/

/-- The counters of an event: of its class, of its source, and of the classes it left. -/
def eventCounted (r : FltRec) (left : List Nat) (s : State) : State :=
  s |> bump (F.FLT_EVT_CNT r.cls) |> bump (F.FLT_SRC_CNT r.src) |> each left (fun l s => bump (F.FLT_ESC_CNT l) s)

/-- The capture of an event's class, unless it holds an earlier one. -/
def eventCaptured (r : FltRec) (s : State) : State :=
  if flag s (F.FLT_CAP_VALID r.cls) then s else noteSet (F.FLT_CAP_VALID r.cls) 0 (setRec (capFields r.cls) r true s)

/-- The queue takes a record while it has room. -/
def eventQueued (r : FltRec) (s : State) : State :=
  if s.flt.queue.length < 256 then showQueue { s with flt := { s.flt with queue := s.flt.queue ++ [r] } } else bump F.FLT_LOG_DROP_CNT s

/-- The highest class so far. -/
def eventRanked (r : FltRec) (s : State) : State :=
  if get s F.FLT_STAT_HIGHEST = 7 || get s F.FLT_STAT_HIGHEST < r.cls then set F.FLT_STAT_HIGHEST r.cls s else s

theorem record_eq (r : FltRec) (left : List Nat) (s : State) : record r left s = eventRanked r (eventQueued r (eventCaptured r (eventCounted r left s))) := rfl

section
variable {g : Fld} (r : FltRec) (s : State)

/-- The fields of a class's capture. -/
theorem capFields_range (l : Nat) : ∀ f ∈ capFields l, 0x1800200 + l * 0x100 ≤ f.key ∧ f.key < 0x1800300 + l * 0x100 := by
  simp only [capFields, List.forall_mem_cons, List.not_mem_nil, F.FLT_CAP_TIME, F.FLT_CAP_SRC, F.FLT_CAP_DOM, F.FLT_CAP_CLASS,
    F.FLT_CAP_ESC, F.FLT_CAP_ACCESS, F.FLT_CAP_VALID, F.FLT_CAP_NODE, F.FLT_CAP_UNIT, F.FLT_CAP_ADDR, F.FLT_CAP_DETAIL, false_implies,
    implies_true, and_true]
  omega

theorem get_eventCaptured (h : g.key < 0x1800200 ∨ 0x1800700 ≤ g.key) (low : r.cls ≤ 4) : get (eventCaptured r s) g = get s g := by
  unfold eventCaptured
  split
  · rfl
  · refine get_setRec_ne (fun f hf => ?_) r true s
    have := capFields_range r.cls f hf
    omega

theorem evtFields_range : ∀ f ∈ evtFields, 0x1800100 ≤ f.key ∧ f.key < 0x1800200 := by decide

theorem get_showQueue (h : g.key < 0x18000e0 ∨ 0x1800200 ≤ g.key) : get (showQueue s) g = get s g := by
  have level : get (set F.FLT_EVT_LEVEL_N s.flt.queue.length s) g = get s g := get_set_ne (by simp only [F.FLT_EVT_LEVEL_N]; omega) _ s
  have apart : ∀ f ∈ evtFields, g.key ≠ f.key := fun f hf => by
    have := evtFields_range f hf
    omega
  unfold showQueue
  dsimp only
  split
  · exact (get_setRec_ne apart _ _ _).trans level
  · exact (get_setRec_ne apart _ _ _).trans level

theorem get_eventQueued (h : g.key < 0x18000e0 ∨ 0x1800200 ≤ g.key) (drop : g.key ≠ 0x1801240) : get (eventQueued r s) g = get s g := by
  unfold eventQueued
  split
  · exact get_showQueue _ h
  · exact get_bump_ne drop s

theorem get_eventRanked (h : g.key ≠ 0x1800029) : get (eventRanked r s) g = get s g := by
  unfold eventRanked
  split
  · exact get_set_ne h _ s
  · rfl

theorem setRec_frame (fs : List Fld) (v : Bool) : (setRec fs r v s).flt = s.flt ∧ (setRec fs r v s).mem = s.mem ∧
    (setRec fs r v s).cores = s.cores :=
  each_keeps (P := fun t => t.flt = s.flt ∧ t.mem = s.mem ∧ t.cores = s.cores) _ ⟨rfl, rfl, rfl⟩ fun _ _ h => h

theorem showQueue_frame : (showQueue s).flt = s.flt ∧ (showQueue s).mem = s.mem ∧ (showQueue s).cores = s.cores := by
  unfold showQueue
  dsimp only
  split
  · exact setRec_frame ..
  · exact setRec_frame ..

theorem queue_eventCounted (left : List Nat) : (eventCounted r left s).flt = s.flt :=
  each_same (fun t => t.flt) left (fun _ _ => by rfl) (bump (F.FLT_SRC_CNT r.src) (bump (F.FLT_EVT_CNT r.cls) s))

theorem eventCaptured_flt : (eventCaptured r s).flt = s.flt := by
  unfold eventCaptured
  split
  · rfl
  · exact (setRec_frame r s _ _).1

theorem eventRanked_flt : (eventRanked r s).flt = s.flt := by
  unfold eventRanked
  split <;> rfl

/-- A record is queued while there is room, and counted where there is none. -/
theorem eventQueued_spec : (s.flt.queue.length < 256 → (eventQueued r s).flt.queue = s.flt.queue ++ [r]) ∧
    (256 ≤ s.flt.queue.length → (eventQueued r s).flt.queue = s.flt.queue ∧
      get (eventQueued r s) F.FLT_LOG_DROP_CNT = min (get s F.FLT_LOG_DROP_CNT + 1) (2 ^ 64 - 1) % 2 ^ 64) := by
  unfold eventQueued
  refine ⟨fun room => ?_, fun full => ?_⟩
  · rw [if_pos room, (showQueue_frame _).1]
  · rw [if_neg (by omega)]
    exact ⟨rfl, get_bump_same ..⟩

theorem get_markUnack {l dom : Nat} (pends : g.key < 0x1800800 ∨ 0x1800a00 ≤ g.key) (unack : g.key ≠ 0x1800024) (small : dom < 256) :
    get (markUnack l dom s) g = get s g := by
  unfold markUnack
  refine (get_setBit_ne unack _ _ _).trans ?_
  unfold when
  split
  · next low =>
    have := of_decide_eq_true low
    exact get_setBit_ne (by simp only [F.FLT_PEND_DOMS]; omega) _ _ _
  · rfl

theorem markUnack_flt_same (l dom : Nat) : (markUnack l dom s).flt = s.flt := by
  unfold markUnack when
  split <;> rfl

theorem unacked_markUnack {l : Nat} (low : l ≤ 4) (dom : Nat) : unacked (markUnack l dom s) l = true :=
  getBit_setBit_same (f := F.FLT_STAT_UNACK) (Nat.lt_succ_of_le low) true _

/-- The pin shows in PIN and ARMED, and its pulses are counted. -/
theorem get_updPin (pin : g.key ≠ 0x1800022) (armed : g.key ≠ 0x1800023) : get (updPin s) g = get s g := by
  unfold updPin when setB
  split
  · split
    · exact get_set_ne armed _ s
    · rfl
  · exact get_set_ne pin _ s

theorem get_pinEvent (l : Nat) (pin : g.key ≠ 0x1800022) (armed : g.key ≠ 0x1800023) (pulses : g.key ≠ 0x1801280) :
    get (pinEvent l s) g = get s g := by
  unfold pinEvent
  split
  · dsimp only
    split
    · exact (get_bump_ne pulses _).trans ((get_set_ne armed _ _).trans (get_set_ne pin _ _))
    · rfl
  · exact get_updPin s pin armed

theorem updPin_flt_same : (updPin s).flt = s.flt := by
  unfold updPin when setB
  split
  · split <;> rfl
  · rfl

theorem pinEvent_queue (l : Nat) : (pinEvent l s).flt.queue = s.flt.queue := by
  unfold pinEvent
  split
  · dsimp only
    split <;> rfl
  · rw [updPin_flt_same]

end

/-! ### What an event leaves before the reaction -/

/-- The record of an event of class `l` that has left the classes `left`. -/
def evRecord (e : Ev) (l : Nat) (left : List Nat) (s : State) : FltRec :=
  { time := now s, src := e.src, dom := e.dom, cls := l, esc := !left.isEmpty, access := e.access, node := e.node, unit := e.unit,
    addr := e.addr, detail := e.detail }

/-- The domains with escalating events, after this one. -/
def escalations (e : Ev) (l : Nat) (f : FltSt) : FltSt :=
  { f with esc0 := if srcEscalates e.src && srcClass e.src == 0 then NSet.add f.esc0 e.dom else f.esc0
           esc1 := if srcEscalates e.src && 1 ≤ l then NSet.add f.esc1 e.dom else f.esc1 }

/-- An event is written down and its class marked, before the package reacts. -/
def noted (e : Ev) (l : Nat) (left : List Nat) (s : State) : State :=
  markUnack l e.dom (record (evRecord e l left s) left { s with flt := escalations e l s.flt })

/-- An event that climbs through no class is counted and captured. -/
def counts (e : Ev) (l : Nat) (s : State) : State :=
  eventCaptured (evRecord e l [] s) (eventCounted (evRecord e l [] s) [] { s with flt := escalations e l s.flt })

theorem noted_eq (e : Ev) (l : Nat) (s : State) :
    noted e l [] s = markUnack l e.dom (eventRanked (evRecord e l [] s) (eventQueued (evRecord e l [] s) (counts e l s))) := rfl

/-- A fresh event is written down, and the reaction of the class it climbs to follows (R389). -/
theorem raise_eq {e : Ev} {s : State} {l : Nat} {left : List Nat} (fresh : e.esc = false) (climbs : climb s e 4 (srcClass e.src) [] = (l, left)) :
    raise e s = pinEvent l (react l e.dom (noted e l left s)) := by
  unfold raise collect
  rw [fresh, climbs]
  rfl

theorem inSafe_noted (e : Ev) (l : Nat) (left : List Nat) (s : State) : inSafe (noted e l left s) = inSafe s :=
  (inSafe_markUnack ..).trans (inSafe_record ..)

section
variable {e : Ev} {l : Nat} (low : l ≤ 4) (s : State)
include low

theorem unacked_noted (left : List Nat) : unacked (noted e l left s) l = true := unacked_markUnack _ low _

/-- Registers of the collector outside an event's counters and capture. -/
theorem get_counts {g : Fld} (outside : g.key < 0x1800200 ∨ 0x1800700 ≤ g.key) (evt : g.key ≠ (F.FLT_EVT_CNT l).key)
    (src : g.key ≠ (F.FLT_SRC_CNT e.src).key) : get (counts e l s) g = get s g :=
  (get_eventCaptured _ _ outside low).trans ((get_bump_ne src _).trans (get_bump_ne evt _))

variable (dom : e.dom < 256)
include dom

theorem noted_flt (src : e.src < 256) : FltOnly s (noted e l [] s) :=
  ((FltOnly.flt s _).trans (record_flt _ [] _ low src fun _ h => absurd h List.not_mem_nil)).trans (markUnack_flt l e.dom _ dom)

omit low in
/-- Queue, rank and marks of a class touch neither captures nor counters. -/
theorem get_noted_of_counts {g : Fld} (event : g.key < 0x1800024 ∨ 0x180002c ≤ g.key ∧ g.key < 0x18000e0 ∨ 0x1800a00 ≤ g.key)
    (drop : g.key ≠ 0x1801240) : get (noted e l [] s) g = get (counts e l s) g := by
  rw [noted_eq, get_markUnack _ (by omega) (by omega) dom, get_eventRanked _ _ (by omega), get_eventQueued _ _ (by omega) drop]

/-- Registers of the collector that writing an event down leaves alone. -/
theorem get_noted {g : Fld} (event : g.key < 0x1800024 ∨ 0x180002c ≤ g.key ∧ g.key < 0x18000e0 ∨ 0x1800a00 ≤ g.key) (drop : g.key ≠ 0x1801240)
    (evt : g.key ≠ (F.FLT_EVT_CNT l).key) (src : g.key ≠ (F.FLT_SRC_CNT e.src).key) : get (noted e l [] s) g = get s g :=
  (get_noted_of_counts s dom event drop).trans (get_counts low s (by omega) evt src)

/-- The counters of the event's class and source count one (R384). -/
theorem counts_noted : get (noted e l [] s) (F.FLT_EVT_CNT l) = min (get s (F.FLT_EVT_CNT l) + 1) (2 ^ 64 - 1) % 2 ^ 64 ∧
    get (noted e l [] s) (F.FLT_SRC_CNT e.src) = min (get s (F.FLT_SRC_CNT e.src) + 1) (2 ^ 64 - 1) % 2 ^ 64 := by
  have apart : (F.FLT_EVT_CNT l).key ≠ (F.FLT_SRC_CNT e.src).key := by
    simp only [F.FLT_EVT_CNT, F.FLT_SRC_CNT]
    omega
  have event : 0x1801000 ≤ (F.FLT_EVT_CNT l).key ∧ (F.FLT_EVT_CNT l).key < 0x1801140 := by
    simp only [F.FLT_EVT_CNT]
    omega
  have source : 0x1802000 ≤ (F.FLT_SRC_CNT e.src).key := Nat.le_add_right ..
  rw [get_noted_of_counts s dom (by omega) (by omega), get_noted_of_counts s dom (by omega) (by omega)]
  refine ⟨(get_eventCaptured _ _ (by omega) low).trans ((get_bump_ne apart _).trans (get_bump_same ..)),
    (get_eventCaptured _ _ (by omega) low).trans ((get_bump_same ..).trans ?_)⟩
  exact congrArg (fun n => min (n + 1) (2 ^ 64 - 1) % 2 ^ 64) (get_bump_ne apart.symm _)

/-- Its record joins the queue, or is dropped and counted (R391). -/
theorem queue_noted : (s.flt.queue.length < 256 → (noted e l [] s).flt.queue = s.flt.queue ++ [evRecord e l [] s]) ∧
    (256 ≤ s.flt.queue.length → (noted e l [] s).flt.queue = s.flt.queue ∧
      get (noted e l [] s) F.FLT_LOG_DROP_CNT = min (get s F.FLT_LOG_DROP_CNT + 1) (2 ^ 64 - 1) % 2 ^ 64) := by
  have before : (counts e l s).flt.queue = s.flt.queue := by
    rw [counts, eventCaptured_flt, queue_eventCounted]
    rfl
  have after : (noted e l [] s).flt = (eventQueued (evRecord e l [] s) (counts e l s)).flt := by
    rw [noted_eq, markUnack_flt_same, eventRanked_flt]
  have drops : get (counts e l s) F.FLT_LOG_DROP_CNT = get s F.FLT_LOG_DROP_CNT :=
    get_counts low s (.inr (by decide)) (by simp only [F.FLT_LOG_DROP_CNT, F.FLT_EVT_CNT]; omega)
      (by simp only [F.FLT_LOG_DROP_CNT, F.FLT_SRC_CNT]; omega)
  obtain ⟨room, full⟩ := eventQueued_spec (evRecord e l [] s) (counts e l s)
  rw [before] at room full
  rw [drops] at full
  refine ⟨fun h => (congrArg FltSt.queue after).trans (room h), fun h => ⟨(congrArg FltSt.queue after).trans (full h).1, ?_⟩⟩
  rw [noted_eq, get_markUnack _ (by decide) (by decide) dom, get_eventRanked _ _ (by decide)]
  exact (full h).2

end

/-- A source below 30h is of class L0 and one below 50h of class L1; an event whose source does not escalate stays in its class (R389). -/
theorem climb_stays {e : Ev} (s : State) (low : srcClass e.src ≤ 1) (settled : srcEscalates e.src = false) :
    climb s e 4 (srcClass e.src) [] = (srcClass e.src, []) := by
  have : srcClass e.src = 0 ∨ srcClass e.src = 1 := by omega
  rcases this with h | h <;> simp [climb, h, settled]

/-- No reaction follows an event of class L0 or L1. -/
theorem react_low {l : Nat} (low : l ≤ 1) (dom : Nat) (s : State) : react l dom s = s := by
  unfold react
  rw [if_neg (by omega), if_neg (by omega), if_neg (by omega)]

/-- Settles O43: the event is written down (`noted`), no reaction follows, and the pin shows neither counters nor queue. -/
theorem minorEventIsRecorded : Obligations.MinorEventIsRecorded := by
  intro src dom access node unit addr detail s l listed known low settled
  let e : Ev := { src := src.toNat, dom := dom.toNat, access := access.toNat, node := node.toNat, unit := unit.toNat, addr := addr.toNat
                  detail := detail.toNat }
  have low4 : l ≤ 4 := by omega
  have small : e.dom < 256 := dom.isLt
  have raised : raise e s = pinEvent l (noted e l [] s) := by
    rw [raise_eq rfl (climb_stays s low settled), react_low low]
  have only : FltOnly s (raise e s) := raise_flt e s settled low rfl small src.isLt
  have run : exec (.faultEvent src dom access node unit addr detail false) s = .next (raise e s) :=
    if_pos (by simp only [listed, known, Bool.and_self])
  have shown : ∀ g : Fld, 0x1801000 ≤ g.key → g.key ≠ 0x1801280 → get (raise e s) g = get (noted e l [] s) g := fun g high pulses => by
    rw [raised, get_pinEvent _ _ (by omega) (by omega) pulses]
  obtain ⟨class_, source⟩ := counts_noted low4 s small
  obtain ⟨room, full⟩ := queue_noted low4 s small
  have queue : (raise e s).flt.queue = (noted e l [] s).flt.queue := by rw [raised, pinEvent_queue]
  refine ⟨raise e s, run, ?_, ?_, ?_, fun h => queue.trans (room h), fun h => ⟨queue.trans (full h).1, ?_⟩, ?_, fun f hf => only.2 f hf⟩
  · rw [shown _ (by simp only [F.FLT_EVT_CNT]; omega) (by simp only [F.FLT_EVT_CNT]; omega), class_]
  · rw [shown _ (by simp only [F.FLT_SRC_CNT]; omega) (by simp only [F.FLT_SRC_CNT]; omega)]
    exact source
  · rw [raised, unacked, getBit, get_pinEvent _ _ (by decide) (by decide) (by decide)]
    exact unacked_noted low4 s []
  · rw [shown _ (by decide) (by decide), (full h).2]
  · rw [only.1]

end Sys2Proof.Machine

namespace Sys2Proof.Machine

/-! ### Fences (R392) -/

/-- What fences leave as it was: the stacks' bytes, the registers below the cores' blocks but the count of fences, and all but registers,
cores and memories. -/
structure Fencing (s t : State) : Prop where
  rest : t = { s with regs := t.regs, act := t.act, snap := t.snap, regsM := t.regsM, shadows := t.shadows, cores := t.cores, mem := t.mem }
  stk : t.mem.stk = s.mem.stk
  low : ∀ g : Fld, g.key < 0x8000000 → g.key ≠ F.FLT_FENCE_CNT.key → get t g = get s g

theorem Fencing.refl (s : State) : Fencing s s := ⟨rfl, rfl, fun _ _ _ => rfl⟩

theorem Fencing.trans {r s t : State} (h : Fencing r s) (k : Fencing s t) : Fencing r t :=
  ⟨k.rest.trans (by rw [h.rest]), k.stk.trans h.stk, fun g hg hn => (k.low g hg hn).trans (h.low g hg hn)⟩

theorem DomainWork.fencing {c : Nat} {s t : State} (h : DomainWork c s t) : Fencing s t := ⟨h.rest, h.stk, fun _ low _ => h.get_low low⟩

/-- The compute domain of a core is reset and held. -/
def fenced (c : Nat) (s : State) : State := setCoreState c cFenced (resetCompute c (markEnding c s))

theorem fenced_work (c : Nat) (s : State) : DomainWork c s (fenced c s) :=
  ((markEnding_work s).trans (resetCompute_work _)).trans (setCoreState_work _ _)

/-- A good core that is neither FENCED nor in RESET is fenced, and the fence is counted. -/
theorem fenceCore_fences {c : Nat} {s : State} (good : coreGood s c = true) (not4 : coreState s c ≠ 4) (not1 : coreState s c ≠ 1) :
    fenceCore c s = bump F.FLT_FENCE_CNT (fenced c s) := if_neg (by simp [cFenced, cReset, good, not4, not1])

theorem fenceCore_idle {c : Nat} {s : State} (no : coreState s c = 4 ∨ coreState s c = 1 ∨ coreGood s c = false) : fenceCore c s = s :=
  if_pos (by
    simp only [Bool.or_eq_true, decide_eq_true_eq, or_assoc, Bool.not_eq_true']
    exact no)

theorem fenceCore_cases (c : Nat) (s : State) : (coreState s c = 4 ∨ coreState s c = 1 ∨ coreGood s c = false) ∧ fenceCore c s = s ∨
    fenceCore c s = bump F.FLT_FENCE_CNT (fenced c s) := by
  by_cases no : coreState s c = 4 ∨ coreState s c = 1 ∨ coreGood s c = false
  · exact .inl ⟨no, fenceCore_idle no⟩
  · simp only [not_or, Bool.not_eq_false] at no
    exact .inr (fenceCore_fences no.2.2 no.1 no.2.1)

theorem bump_fencing (s : State) : Fencing s (bump F.FLT_FENCE_CNT s) := by
  refine ⟨?_, congrArg Mems.stk (bump_mem F.FLT_FENCE_CNT s), fun g _ hn => get_bump_ne hn s⟩
  rfl

theorem fenceCore_fencing (c : Nat) (s : State) : Fencing s (fenceCore c s) := by
  obtain ⟨-, h⟩ | h := fenceCore_cases c s <;> rw [h]
  · exact .refl s
  · exact (fenced_work c s).fencing.trans (bump_fencing _)

theorem fences_fencing (l : List Nat) (s : State) : Fencing s (each l fenceCore s) :=
  each_keeps (P := Fencing s) l (.refl s) fun c t h => h.trans (fenceCore_fencing c t)

theorem coreState_fenced (c : Nat) (s : State) : coreState (fenced c s) c = 4 := coreState_setCoreState (by decide) _

theorem coreState_bump_fences (c : Nat) (s : State) : coreState (bump F.FLT_FENCE_CNT s) c = coreState s c :=
  get_bump_ne (by simp only [F.CORE_CTL_STATE_STATE, F.FLT_FENCE_CNT]; omega) s

theorem coreState_fenceCore_ne {c d : Nat} (other : d ≠ c) (hd : d < 20) (s : State) : coreState (fenceCore c s) d = coreState s d := by
  obtain ⟨-, h⟩ | h := fenceCore_cases c s <;> rw [h]
  rw [coreState_bump_fences, (fenced_work c s).coreState_other other hd]

theorem Fencing.coreGood {s t : State} (h : Fencing s t) (c : Nat) : coreGood t c = coreGood s c := by
  unfold Machine.coreGood getBit
  rw [h.low F.LC_CORE_FUSE_GOOD (by decide) (by decide)]

/-- The core does not take part: it is neither IDLE nor RUNNING. -/
def coreStill (s : State) (c : Nat) : Prop := coreState s c ≠ 2 ∧ coreState s c ≠ 3

/-- A fence stills a good core, and sets no other going. -/
theorem fenceCore_stills {c : Nat} {s : State} (good : coreGood s c = true) : coreStill (fenceCore c s) c := by
  obtain ⟨no, h⟩ | h := fenceCore_cases c s <;> rw [h]
  · simp only [good, Bool.true_eq_false, or_false] at no
    unfold coreStill
    omega
  · unfold coreStill
    rw [coreState_bump_fences, coreState_fenced]
    decide

theorem coreStill_fenceCore {c : Nat} {s : State} (hc : c < 20) (still : coreStill s c) (d : Nat) : coreStill (fenceCore d s) c := by
  by_cases same : c = d
  · subst same
    obtain ⟨-, h⟩ | h := fenceCore_cases c s <;> rw [h]
    · exact still
    · unfold coreStill
      rw [coreState_bump_fences, coreState_fenced]
      decide
  · unfold coreStill
    rw [coreState_fenceCore_ne same hc]
    exact still

/-- After a fence of every core no good one runs (R390). -/
theorem fences_still {c : Nat} (hc : c < 20) {s : State} (good : coreGood s c = true) : coreStill (each allCores fenceCore s) c :=
  each_reaches (I := Fencing s) (P := fun t => coreStill t c) (List.mem_range.2 hc) (.refl s) (fun d _ t h => h.trans (fenceCore_fencing d t))
    (fun d _ still => coreStill_fenceCore hc still d) fun _ h => fenceCore_stills ((h.coreGood c).trans good)

/-! ### Safe state (R390) -/

/-- What giving up a commit leaves as it was: all but the serving engine and its registers. -/
theorem unCommit_spec (s : State) : unCommit s = { s with regs := (unCommit s).regs, srv := (unCommit s).srv, undo := (unCommit s).undo } ∧
    ∀ g : Fld, g.key < srvKey ∨ srvKeyEnd ≤ g.key → get (unCommit s) g = get s g := by
  unfold unCommit
  split
  · exact ⟨rfl, fun _ _ => rfl⟩
  · next u _ =>
    split
    · exact ⟨rfl, fun _ _ => rfl⟩
    · refine ⟨rfl, fun g hg => ?_⟩
      have restored : ∀ (l : List (Nat × Nat)) (m : SMap Nat), (∀ p ∈ l, srvKey ≤ p.1 ∧ p.1 < srvKeyEnd) →
          SMap.get g.reset (l.foldl (fun m p => SMap.put 0 m p.1 p.2) m) g.key = SMap.get g.reset m g.key := by
        intro l
        induction l with
        | nil => exact fun _ _ => rfl
        | cons p l ih =>
          intro m inside
          have := inside p List.mem_cons_self
          exact (ih _ fun q hq => inside q (List.mem_cons_of_mem _ hq)).trans (SMap.get_put_other _ _ m _ (by omega))
      refine (restored _ _ fun p hp => ?_).trans (SMap.get_erase_outside _ _ hg)
      simpa using (List.mem_filter.1 hp).2

/-- A register outside the serving engine's block. -/
theorem get_unCommit {g : Fld} (low : g.key < 0x18000000) (s : State) : get (unCommit s) g = get s g :=
  (unCommit_spec s).2 g (.inl (Nat.lt_of_lt_of_eq low rfl))

/-- The package is marked as in safe state, before its cores are fenced. -/
def safeMarked (s : State) : State := unCommit s |> set F.FLT_SAFE_TIME_TIME (now s) |> setB F.FLT_STAT_SAFE true

theorem safeState_enters {s : State} (normal : inSafe s = false) : safeState s = each allCores fenceCore (safeMarked s) :=
  if_neg (by simpa [inSafe] using normal)

theorem safeState_stays {s : State} (safe : inSafe s = true) : safeState s = s := if_pos safe

theorem safeMarked_frame (s : State) : (safeMarked s).mem = s.mem ∧ (safeMarked s).mesh = s.mesh ∧ (safeMarked s).pwroff = s.pwroff := by
  rw [safeMarked, setB_mem, set_mem, setB_mesh, set_mesh, setB_pwroff, set_pwroff, (unCommit_spec s).1]
  exact ⟨rfl, rfl, rfl⟩

theorem get_safeMarked {g : Fld} (low : g.key < 0x18000000) (safe : g.key ≠ 0x1800020) (time : g.key ≠ 0x1800080) (s : State) :
    get (safeMarked s) g = get s g :=
  (get_setB_ne safe _ _).trans ((get_set_ne time _ _).trans (get_unCommit low s))

theorem safeMarked_shows (s : State) : get (safeMarked s) F.FLT_STAT_SAFE = 1 ∧ get (safeMarked s) F.FLT_SAFE_TIME_TIME = now s % 2 ^ 64 :=
  ⟨get_setB_same .., (get_setB_ne (by decide) ..).trans (get_set_same ..)⟩

/-- What the safe state leaves as it was, whether the package enters it or is in it. -/
theorem safeState_frame (s : State) : (safeState s).mem.stk = s.mem.stk ∧ inSafe (safeState s) = true ∧
    ∀ g : Fld, g.key < 0x8000000 → g.key ≠ F.FLT_FENCE_CNT.key → g.key ≠ 0x1800020 → g.key ≠ 0x1800080 → get (safeState s) g = get s g := by
  by_cases safe : inSafe s = true
  · rw [safeState_stays safe]
    exact ⟨rfl, safe, fun _ _ _ _ _ => rfl⟩
  · rw [safeState_enters (Bool.eq_false_iff.2 safe)]
    have fences := fences_fencing allCores (safeMarked s)
    refine ⟨fences.stk.trans (congrArg Mems.stk (safeMarked_frame s).1), ?_, fun g low fence mark time =>
      (fences.low g low fence).trans (get_safeMarked (by omega) mark time s)⟩
    exact flag_of_get ((fences.low _ (by decide) (by decide)).trans (safeMarked_shows s).1)

/-! ### Events of class L2, L3 and L4 -/

/-- A detector's event of source `src` in domain `dom`. -/
def detected (src : Nat) (dom : Byte) (access : BitVec 3) (node : Byte) (unit : BitVec 3) (addr detail : Word64) : Ev :=
  { src := src, dom := dom.toNat, access := access.toNat, node := node.toNat, unit := unit.toNat, addr := addr.toNat, detail := detail.toNat }

/-- Power off is asked for, and the mark shows it (R384). -/
def powerOffAsked (s : State) : State := { setB F.FLT_STAT_L4_REQ true s with pwroff := true }

theorem get_powerOffAsked {g : Fld} (s : State) (hn : g.key ≠ F.FLT_STAT_L4_REQ.key) : get (powerOffAsked s) g = get s g := get_setB_ne hn true s

theorem l4Req_powerOffAsked (s : State) : get (powerOffAsked s) F.FLT_STAT_L4_REQ = 1 := get_setB_same F.FLT_STAT_L4_REQ true s

section
variable {dom : Byte} (access : BitVec 3) (node : Byte) (unit : BitVec 3) (addr detail : Word64) {s : State} (known : domListed dom.toNat = true)
include known

theorem exec_faultEvent_detected {src : Byte} (listed : srcListed src.toNat = true) :
    exec (.faultEvent src dom access node unit addr detail false) s =
      .next (raise (detected src.toNat dom access node unit addr detail) s) :=
  if_pos (by simp only [listed, known, Bool.and_self])

/-- An event of class L2 in a core fences it, when no event of the class is unacknowledged (R392). -/
theorem exec_faultEvent_l2 (inCore : dom.toNat < 20) (first : unacked s 2 = false) :
    exec (.faultEvent 0x50 dom access node unit addr detail false) s =
      .next (pinEvent 2 (fenceCore dom.toNat (noted (detected 0x50 dom access node unit addr detail) 2 [] s))) := by
  have climbs : climb s (detected 0x50 dom access node unit addr detail) 4 2 [] = (2, []) := by
    simp [climb, detected, first, Nat.not_le.2 inCore]
  rw [exec_faultEvent_detected access node unit addr detail known (by decide)]
  exact congrArg _ (raise_eq rfl climbs)

/-- An event of class L3 puts the package into safe state, when no event of the class is unacknowledged (R390). -/
theorem exec_faultEvent_l3 (first : unacked s 3 = false) :
    exec (.faultEvent 0x60 dom access node unit addr detail false) s =
      .next (pinEvent 3 (safeState (noted (detected 0x60 dom access node unit addr detail) 3 [] s))) := by
  have climbs : climb s (detected 0x60 dom access node unit addr detail) 4 3 [] = (3, []) := by simp [climb, first]
  rw [exec_faultEvent_detected access node unit addr detail known (by decide)]
  exact congrArg _ (raise_eq rfl climbs)

/-- An event of class L4 asks for power off beside the safe state. -/
theorem exec_faultEvent_l4 :
    exec (.faultEvent 0x70 dom access node unit addr detail false) s =
      .next (pinEvent 4 (powerOffAsked (safeState (noted (detected 0x70 dom access node unit addr detail) 4 [] s)))) := by
  rw [exec_faultEvent_detected access node unit addr detail known (by decide)]
  exact congrArg _ (raise_eq rfl rfl)

end

/-- The pin leaves the marks of the classes and of the safe state. -/
theorem unacked_pinEvent (l k : Nat) (s : State) : unacked (pinEvent l s) k = unacked s k := by
  unfold unacked getBit
  rw [get_pinEvent _ _ (by decide) (by decide) (by decide)]

theorem unacked_congr {s t : State} (h : get t F.FLT_STAT_UNACK = get s F.FLT_STAT_UNACK) (l : Nat) : unacked t l = unacked s l := by
  unfold unacked getBit
  rw [h]

theorem FltOnly.coreGood {s t : State} (h : FltOnly s t) (c : Nat) : coreGood t c = coreGood s c := by
  unfold Machine.coreGood getBit
  rw [h.2 F.LC_CORE_FUSE_GOOD (.inr (by decide))]

theorem FltOnly.pwroff {s t : State} (h : FltOnly s t) : t.pwroff = s.pwroff := by rw [h.1]

theorem l2FencesCore {c : CoreIx} (access : BitVec 3) (node : Byte) (unit : BitVec 3) (addr detail : Word64) {s : State}
    (first : unacked s 2 = false) (good : coreGood s c = true) (on : coreState s c = 2 ∨ coreState s c = 3) : ∃ t,
      exec (.faultEvent 0x50 (BitVec.ofNat 8 c.val) access node unit addr detail false) s = .next t ∧ coreState t c = 4 ∧
      get t F.FLT_FENCE_CNT = min (get s F.FLT_FENCE_CNT + 1) (2 ^ 64 - 1) % 2 ^ 64 ∧ unacked t 2 = true ∧
      t.mem.stk = s.mem.stk ∧ t.mesh = s.mesh ∧ ∀ d, d ≠ c.val → core t d = core s d := by
  have hc := c.isLt
  have dom : (BitVec.ofNat 8 c.val).toNat = c.val := by
    rw [BitVec.toNat_ofNat]
    omega
  have known : domListed (BitVec.ofNat 8 c.val).toNat = true := by
    rw [dom]
    simp [domListed, hc]
  let e := detected 0x50 (BitVec.ofNat 8 c.val) access node unit addr detail
  have small : e.dom < 256 := (BitVec.ofNat 8 c.val).isLt
  have note : FltOnly s (noted e 2 [] s) := noted_flt (by decide) s small (show 0x50 < 256 by decide)
  have state := note.coreState c.val
  have fences : fenceCore c.val (noted e 2 [] s) = bump F.FLT_FENCE_CNT (fenced c.val (noted e 2 [] s)) :=
    fenceCore_fences ((note.coreGood c.val).trans good) (by omega) (by omega)
  have work := fenced_work c.val (noted e 2 [] s)
  have pin := pinEvent_flt 2 (bump F.FLT_FENCE_CNT (fenced c.val (noted e 2 [] s)))
  have count : get (noted e 2 [] s) F.FLT_FENCE_CNT = get s F.FLT_FENCE_CNT :=
    get_noted (by decide) s small (by decide) (by decide) (by decide) (by simp only [F.FLT_FENCE_CNT, F.FLT_SRC_CNT]; omega)
  have run : exec (.faultEvent 0x50 (BitVec.ofNat 8 c.val) access node unit addr detail false) s =
      .next (pinEvent 2 (bump F.FLT_FENCE_CNT (fenced c.val (noted e 2 [] s)))) := by
    rw [exec_faultEvent_l2 access node unit addr detail known (by rw [dom]; exact hc) first, dom]
    exact congrArg (fun u => Host.Outcome.next (pinEvent 2 u)) fences
  refine ⟨_, run, ?_, ?_, ?_, ?_, ?_, fun d hd => ?_⟩
  · rw [pin.coreState, coreState_bump_fences, coreState_fenced]
  · rw [get_pinEvent _ _ (by decide) (by decide) (by decide), get_bump_same, work.get_low (by decide), count]
    rfl
  · rw [unacked_pinEvent, unacked_congr (s := noted e 2 [] s) ((get_bump_ne (by decide) _).trans (work.get_low (by decide)))]
    exact unacked_noted (by decide) s []
  · rw [pin.mem, bump_mem, work.stk, note.mem]
  · rw [pin.mesh, bump_mesh, work.mesh, note.mesh]
  · rw [pin.core, core_bump, work.others d hd, note.core]

theorem l3EntersSafeState {dom : Byte} (access : BitVec 3) (node : Byte) (unit : BitVec 3) (addr detail : Word64) {s : State}
    (known : domListed dom.toNat = true) (first : unacked s 3 = false) (normal : flag s F.FLT_STAT_SAFE = false) :
    ∃ t, exec (.faultEvent 0x60 dom access node unit addr detail false) s = .next t ∧
      flag t F.FLT_STAT_SAFE = true ∧ get t F.FLT_SAFE_TIME_TIME = now s % 2 ^ 64 ∧ unacked t 3 = true ∧ t.mem.stk = s.mem.stk ∧
      t.mesh = s.mesh ∧ t.pwroff = s.pwroff ∧ ∀ c : CoreIx, coreGood s c = true → coreState t c ≠ 2 ∧ coreState t c ≠ 3 := by
  let e := detected 0x60 dom access node unit addr detail
  have note : FltOnly s (noted e 3 [] s) := noted_flt (by decide) s dom.isLt (show 0x60 < 256 by decide)
  have safe : safeState (noted e 3 [] s) = each allCores fenceCore (safeMarked (noted e 3 [] s)) :=
    safeState_enters ((inSafe_noted ..).trans normal)
  have fences := fences_fencing allCores (safeMarked (noted e 3 [] s))
  have pin := pinEvent_flt 3 (each allCores fenceCore (safeMarked (noted e 3 [] s)))
  obtain ⟨mem, mesh, power⟩ := safeMarked_frame (noted e 3 [] s)
  obtain ⟨mark, time⟩ := safeMarked_shows (noted e 3 [] s)
  have run : exec (.faultEvent 0x60 dom access node unit addr detail false) s =
      .next (pinEvent 3 (each allCores fenceCore (safeMarked (noted e 3 [] s)))) :=
    (exec_faultEvent_l3 access node unit addr detail known first).trans (congrArg (fun u => Host.Outcome.next (pinEvent 3 u)) safe)
  refine ⟨_, run, flag_of_get ?_, ?_, ?_, ?_, ?_, ?_, fun c good => ?_⟩
  · rw [get_pinEvent _ _ (by decide) (by decide) (by decide), fences.low _ (by decide) (by decide), mark]
  · rw [get_pinEvent _ _ (by decide) (by decide) (by decide), fences.low _ (by decide) (by decide), time, now, note.2 _ (.inl (by decide))]
    rfl
  · rw [unacked_pinEvent, unacked_congr (s := noted e 3 [] s)
      ((fences.low _ (by decide) (by decide)).trans (get_safeMarked (by decide) (by decide) (by decide) _))]
    exact unacked_noted (by decide) s []
  · rw [pin.mem, fences.stk, mem, note.mem]
  · rw [pin.mesh, fences.rest, mesh, note.mesh]
  · rw [pin.pwroff, fences.rest, power, note.pwroff]
  · rw [pin.coreState]
    refine fences_still c.isLt ?_
    unfold coreGood getBit
    rw [get_safeMarked (by decide) (by decide) (by decide), note.2 _ (.inr (by decide))]
    exact good

theorem l4AsksPowerOff {dom : Byte} (access : BitVec 3) (node : Byte) (unit : BitVec 3) (addr detail : Word64) {s : State}
    (known : domListed dom.toNat = true) :
    ∃ t, exec (.faultEvent 0x70 dom access node unit addr detail false) s = .next t ∧ t.pwroff = true ∧ flag t F.FLT_STAT_L4_REQ = true ∧
      flag t F.FLT_STAT_SAFE = true ∧ unacked t 4 = true ∧ t.mem.stk = s.mem.stk := by
  let e := detected 0x70 dom access node unit addr detail
  have note : FltOnly s (noted e 4 [] s) := noted_flt (by decide) s dom.isLt (show 0x70 < 256 by decide)
  obtain ⟨stk, safe, low⟩ := safeState_frame (noted e 4 [] s)
  have pin := pinEvent_flt 4 (powerOffAsked (safeState (noted e 4 [] s)))
  refine ⟨_, exec_faultEvent_l4 access node unit addr detail known, pin.pwroff, flag_of_get ?_, flag_of_get ?_, ?_, ?_⟩
  · rw [get_pinEvent _ _ (by decide) (by decide) (by decide)]
    exact l4Req_powerOffAsked _
  · rw [get_pinEvent _ _ (by decide) (by decide) (by decide)]
    exact (get_powerOffAsked _ (by decide)).trans (beq_iff_eq.1 safe)
  · rw [unacked_pinEvent, unacked_congr (s := noted e 4 [] s) ((get_powerOffAsked _ (by decide)).trans
      (low _ (by decide) (by decide) (by decide) (by decide)))]
    exact unacked_noted (by decide) s []
  · rw [pin.mem]
    exact stk.trans (congrArg Mems.stk note.mem)

/-- Settles O44: the event is written down, then its class reacts: `fenceCore`, `safeState`, and the request for power off. -/
theorem severeEventsReact : Obligations.SevereEventsReact :=
  fun _ _ access node unit addr detail _ known => ⟨l2FencesCore access node unit addr detail,
    l3EntersSafeState access node unit addr detail known, l4AsksPowerOff access node unit addr detail known⟩

end Sys2Proof.Machine

namespace Sys2Proof.Machine

/-! ### Bits that are cleared -/

theorem testBit_add_two_pow_ne {u i j : Nat} (clear : u.testBit i = false) (ne : j ≠ i) : (u + 2 ^ i).testBit j = u.testBit j := by
  rcases Nat.lt_or_gt_of_ne ne with below | above
  · rw [Nat.add_comm, Nat.testBit_two_pow_add_gt below]
  · have low : u % 2 ^ (i + 1) < 2 ^ i := by
      refine Nat.lt_pow_two_of_testBit _ fun k hk => ?_
      rw [Nat.testBit_mod_two_pow]
      by_cases same : k = i
      · rw [same, clear, Bool.and_false]
      · rw [decide_eq_false (by omega), Bool.false_and]
    have lows : u % 2 ^ (i + 1) + 2 ^ i < 2 ^ (i + 1) := by
      rw [Nat.pow_succ] at *
      omega
    have sum : u + 2 ^ i = 2 ^ (i + 1) * (u / 2 ^ (i + 1)) + (u % 2 ^ (i + 1) + 2 ^ i) := by
      rw [← Nat.add_assoc, Nat.div_add_mod]
    rw [sum, Nat.testBit_two_pow_mul_add _ lows, if_neg (by omega), Nat.testBit_div_two_pow]
    congr 1
    omega

/-- Clearing a bit leaves the other bits alone. -/
theorem testBit_withBit_false_ne (v : Nat) {i j : Nat} (ne : j ≠ i) : (withBit v i false).testBit j = v.testBit j := by
  have clear := testBit_withBit v i false
  unfold withBit at clear ⊢
  rw [bit_eq_testBit] at clear ⊢
  split
  · next held =>
    rw [if_pos held] at clear
    have back := testBit_add_two_pow_ne (u := v - 2 ^ i) clear ne
    rw [Nat.sub_add_cancel (Nat.ge_two_pow_of_testBit held)] at back
    exact back.symm
  · rfl

/-- A clear bit stays clear when a bit of the field is cleared. -/
theorem getBit_setBit_clear {f : Fld} {i : Nat} {s : State} (clear : getBit s f i = false) (j : Nat) :
    getBit (setBit f j false s) f i = false := by
  unfold getBit at *
  rw [bit_eq_testBit] at *
  rw [get_setBit_same, Nat.testBit_mod_two_pow]
  by_cases same : i = j
  · rw [same, testBit_withBit, Bool.and_false]
  · rw [testBit_withBit_false_ne _ same, clear, Bool.and_false]

/-- Another bit of the field, within its width, reads as before. -/
theorem getBit_setBit_false_ne {f : Fld} {i j : Nat} (low : i < f.width) (ne : i ≠ j) (s : State) :
    getBit (setBit f j false s) f i = getBit s f i := by
  unfold getBit
  rw [bit_eq_testBit, bit_eq_testBit, get_setBit_same, Nat.testBit_mod_two_pow, testBit_withBit_false_ne _ ne, decide_eq_true low, Bool.true_and]

/-! ### Acknowledgement (R388) -/

/-- The domain's bit of a class is cleared, and what the collector and the units keep of it. -/
def domCleared (l dom : Nat) (s : State) : State :=
  let s1 := setBit (F.FLT_PEND_DOMS l (dom / 32)) (dom % 32) false s
  { s1 with flt := { s1.flt with
      esc0 := if l = 0 then NSet.del s1.flt.esc0 dom else s1.flt.esc0
      unitPend := if l = 0 then NSet.del s1.flt.unitPend dom else s1.flt.unitPend
      esc1 := if l = 1 then NSet.del s1.flt.esc1 dom else s1.flt.esc1 } }

/-- Some domain of a class is pending. -/
def domsPend (l : Nat) (s : State) : Bool := (List.range 8).any fun m => get s (F.FLT_PEND_DOMS l m) != 0

theorem ackDom_eq (l dom : Nat) (s : State) :
    ackDom l dom s = updPin (setBit F.FLT_STAT_UNACK l (domsPend l (domCleared l dom s)) (domCleared l dom s)) := rfl

theorem pendDoms_range {l dom : Nat} (low : l < 2) (small : dom < 256) :
    0x1800800 ≤ (F.FLT_PEND_DOMS l (dom / 32)).key ∧ (F.FLT_PEND_DOMS l (dom / 32)).key < 0x1800a00 := by
  simp only [F.FLT_PEND_DOMS]
  omega

/-- An acknowledgement writes the collector alone. -/
theorem ackDom_flt {l dom : Nat} (low : l < 2) (small : dom < 256) (s : State) : FltOnly s (ackDom l dom s) := by
  have range := pendDoms_range low small
  exact (((FltOnly.setBit s (f := F.FLT_PEND_DOMS l (dom / 32)) (by omega) (by omega) _ _).trans (.flt _ _)).trans
    (.setBit _ (by decide) (by decide) _ _)).trans (updPin_flt _)

theorem get_ackDom_pend {l dom m : Nat} (s : State) (low : l < 2) (hm : m < 8) :
    get (ackDom l dom s) (F.FLT_PEND_DOMS l m) = get (domCleared l dom s) (F.FLT_PEND_DOMS l m) := by
  have range : 0x1800800 ≤ (F.FLT_PEND_DOMS l m).key := by
    simp only [F.FLT_PEND_DOMS]
    omega
  rw [ackDom_eq, get_updPin _ (by omega) (by omega), get_setBit_ne (by simp only [F.FLT_STAT_UNACK]; omega)]

/-- A class stays unacknowledged while one of its domains is pending. -/
theorem unacked_ackDom {l : Nat} (dom : Nat) (s : State) (low : l < 2) : unacked (ackDom l dom s) l = domsPend l (ackDom l dom s) := by
  have same : domsPend l (ackDom l dom s) = domsPend l (domCleared l dom s) := by
    unfold domsPend
    rw [Bool.eq_iff_iff, List.any_eq_true, List.any_eq_true]
    refine exists_congr fun m => and_congr_right fun hm => ?_
    rw [get_ackDom_pend s low (List.mem_range.1 hm)]
  rw [same, ackDom_eq, unacked, getBit, get_updPin _ (by decide) (by decide)]
  exact getBit_setBit_same (f := F.FLT_STAT_UNACK) (show l < 5 by omega) _ _

/-- The first `n` domains of a class are acknowledged: their bits are clear, and the words that hold them have been written. -/
def domsAcked (l n : Nat) (s : State) : Prop :=
  ∀ k, k < n → getBit s (F.FLT_PEND_DOMS l (k / 32)) (k % 32) = false ∧ get s (F.FLT_PEND_DOMS l (k / 32)) < 2 ^ 32

theorem get_domCleared (l dom : Nat) (s : State) (g : Fld) :
    get (domCleared l dom s) g = get (setBit (F.FLT_PEND_DOMS l (dom / 32)) (dom % 32) false s) g := rfl

theorem domsAcked_ackDom {l n : Nat} {s : State} (low : l < 2) (small : n < 256) (h : domsAcked l n s) : domsAcked l (n + 1) (ackDom l n s) := by
  intro k hk
  have word := get_ackDom_pend (dom := n) s low (show k / 32 < 8 by omega)
  have cut : get (setBit (F.FLT_PEND_DOMS l (n / 32)) (n % 32) false s) (F.FLT_PEND_DOMS l (n / 32)) < 2 ^ 32 := by
    rw [get_setBit_same]
    exact Nat.mod_lt _ (Nat.two_pow_pos 32)
  unfold getBit
  rw [word, get_domCleared]
  by_cases last : k = n
  · subst last
    exact ⟨getBit_setBit_same (f := F.FLT_PEND_DOMS l (k / 32)) (show k % 32 < 32 by omega) false s, cut⟩
  · obtain ⟨clear, written⟩ := h k (by omega)
    by_cases one : k / 32 = n / 32
    · rw [one] at clear ⊢
      exact ⟨getBit_setBit_clear clear _, cut⟩
    · have apart : (F.FLT_PEND_DOMS l (k / 32)).key ≠ (F.FLT_PEND_DOMS l (n / 32)).key := by
        simp only [F.FLT_PEND_DOMS]
        omega
      rw [get_setBit_ne apart]
      exact ⟨clear, written⟩

theorem domsAcked_all {l n : Nat} (low : l < 2) (small : n ≤ 256) (s : State) : domsAcked l n (upTo n (fun d s => ackDom l d s) s) := by
  induction n with
  | zero => exact fun _ hk => absurd hk (Nat.not_lt_zero _)
  | succ n ih =>
    rw [upTo_succ]
    exact domsAcked_ackDom low (by omega) (ih (by omega))

/-- When every domain is acknowledged none is pending. -/
theorem domsPend_of_acked {l : Nat} {s : State} (h : domsAcked l 256 s) : domsPend l s = false := by
  refine List.any_eq_false.2 fun m hm => ?_
  have hm := List.mem_range.1 hm
  rw [bne_iff_ne, ne_eq, not_not]
  refine Nat.eq_of_testBit_eq fun i => ?_
  rw [Nat.zero_testBit]
  by_cases inside : i < 32
  · obtain ⟨clear, -⟩ := h (32 * m + i) (by omega)
    rw [show (32 * m + i) / 32 = m by omega, show (32 * m + i) % 32 = i by omega, getBit, bit_eq_testBit] at clear
    exact clear
  · obtain ⟨-, word⟩ := h (32 * m) (by omega)
    rw [show 32 * m / 32 = m by omega] at word
    exact Nat.testBit_lt_two_pow (Nat.lt_of_lt_of_le word (Nat.pow_le_pow_right (by decide) (by omega)))

theorem ackAll_low {l : Nat} (low : l < 2) (s : State) : ackAll l s = ackDom l 255 (upTo 255 (fun d s => ackDom l d s) s) := by
  unfold ackAll
  rw [if_pos low, upTo_succ]

theorem unacked_ackAll_low {l : Nat} (low : l < 2) (s : State) : unacked (ackAll l s) l = false := by
  have acked := domsAcked_ackDom low (by decide) (domsAcked_all (n := 255) low (by decide) s)
  rw [ackAll_low low, unacked_ackDom _ _ low, domsPend_of_acked acked]

theorem ackAll_low_flt {l : Nat} (low : l < 2) (s : State) : FltOnly s (ackAll l s) := by
  unfold ackAll
  rw [if_pos low]
  exact FltOnly.each _ _ fun d hd t => ackDom_flt low (List.mem_range.1 hd) t

theorem ackAll_high {l : Nat} (high : 2 ≤ l) (s : State) : ackAll l s = updPin (setBit F.FLT_STAT_UNACK l false s) := if_neg (by omega)

theorem unacked_updPin (l : Nat) (s : State) : unacked (updPin s) l = unacked s l :=
  unacked_congr (get_updPin _ (by decide) (by decide)) l

theorem updPin_regs (s : State) : updPin s = { s with regs := (updPin s).regs } := by
  unfold updPin when
  split
  · split <;> rfl
  · rfl

theorem ackAll_high_spec {l : Nat} (high : 2 ≤ l) (known : l ≤ 4) (s : State) : unacked (ackAll l s) l = false ∧
    (∀ k, k < 5 → k ≠ l → unacked (ackAll l s) k = unacked s k) ∧ ackAll l s = { s with regs := (ackAll l s).regs } ∧ FltOnly s (ackAll l s) := by
  rw [ackAll_high high]
  refine ⟨?_, fun k low ne => ?_, ?_, (FltOnly.setBit s (f := F.FLT_STAT_UNACK) (by decide) (by decide) l false).trans (updPin_flt _)⟩
  · rw [unacked_updPin]
    exact getBit_setBit_same (f := F.FLT_STAT_UNACK) (show l < 5 by omega) false s
  · rw [unacked_updPin]
    exact getBit_setBit_false_ne (f := F.FLT_STAT_UNACK) low ne s
  · exact updPin_regs (setBit F.FLT_STAT_UNACK l false s)

theorem now_moveTo {x : Nat} {s : State} (later : now s < x) (fits : x < 2 ^ 64) : now (moveTo x s) = x := by
  unfold moveTo
  rw [if_pos later]
  exact (get_set_same F.TB_TIME_TIME x s).trans (Nat.mod_eq_of_lt fits)

/-- FLT_ACK and the end of a window (R388). -/
theorem acknowledgementActs (v : Word) (l1 : Bool) (s : State) :
    let l := bits v.toNat 0 3
    let w := fltWindow s (if l1 then 1 else 0)
    (2 ≤ l → l ≤ 4 → ∃ t, exec (.fltAck v) s = .next t ∧ unacked t l = false ∧ (∀ k, k < 5 → k ≠ l → unacked t k = unacked s k) ∧
      t = { s with regs := t.regs } ∧ ∀ f : Fld, f.key < 8 * 0x300000 ∨ 8 * 0x300C00 ≤ f.key → get t f = get s f) ∧
    (l < 2 → bit v.toNat 16 = true → ∃ t, exec (.fltAck v) s = .next t ∧ unacked t l = false ∧ t.mem = s.mem ∧ t.cores = s.cores) ∧
    (l < 2 → bit v.toNat 16 = false → exec (.fltAck v) s = .next (ackDom l (bits v.toNat 8 8) s)) ∧
    (∃ t, exec (.faultWindowEnd l1) s = .next t ∧ unacked t (if l1 then 1 else 0) = false ∧
      ((now s / w + 1) * w < 2 ^ 64 → now t = (now s / w + 1) * w) ∧ t.mem = s.mem ∧ t.cores = s.cores ∧ t.mesh = s.mesh) := by
  intro l w
  have all (named : l ≤ 4) (whole : 2 ≤ l ∨ bit v.toNat 16 = true) : exec (.fltAck v) s = .next (ackAll l s) :=
    (if_neg (by omega)).trans (if_neg (by
      simp only [Bool.and_eq_true, decide_eq_true_eq, Bool.not_eq_true', not_and, Bool.not_eq_false]
      exact fun low => whole.resolve_left (by omega)))
  refine ⟨fun high known => ?_, fun low bit16 => ?_, fun low bit16 => ?_, ?_⟩
  · obtain ⟨done, others, regs, only⟩ := ackAll_high_spec high known s
    exact ⟨_, all known (.inl high), done, others, regs, only.2⟩
  · have only := ackAll_low_flt low s
    exact ⟨_, all (by omega) (.inr bit16), unacked_ackAll_low low s, only.mem, by rw [only.1]⟩
  · exact (if_neg (by omega)).trans (if_pos (by simp only [bit16, Bool.not_false, Bool.and_true, decide_eq_true_eq]; exact low))
  · have low : (if l1 then 1 else 0) < 2 := by cases l1 <;> decide
    have only := ackAll_low_flt low (moveTo ((now s / w + 1) * w) s)
    have later : now s < (now s / w + 1) * w := by
      rw [Nat.mul_comm]
      exact Nat.lt_mul_div_succ (now s) (Nat.two_pow_pos _)
    refine ⟨_, rfl, unacked_ackAll_low low _, fun fits => ?_, only.mem.trans (moveTo_mem ..), ?_, only.mesh.trans (moveTo_mesh ..)⟩
    · rw [now, only.2 _ (.inl (by decide))]
      exact now_moveTo later fits
    · rw [only.1]
      exact moveTo_cores ..

end Sys2Proof.Machine

namespace Sys2Proof.Machine

/-! ### The queue and the captures -/

/-- FLT_EVT shows a record: its source, and whether it is one. -/
theorem setRec_evt (r : FltRec) (v : Bool) (s : State) : get (setRec evtFields r v s) F.FLT_EVT_SRC = r.src % 256 ∧
    get (setRec evtFields r v s) F.FLT_EVT_VALID = (if v then 1 else 0) % 2 := by
  have written : setRec evtFields r v s = (s |> set F.FLT_EVT_TIME r.time |> set F.FLT_EVT_SRC r.src |> set F.FLT_EVT_DOM r.dom
      |> set F.FLT_EVT_CLASS r.cls |> set F.FLT_EVT_ESC (if r.esc then 1 else 0) |> set F.FLT_EVT_ACCESS r.access
      |> set F.FLT_EVT_VALID (if v then 1 else 0) |> set F.FLT_EVT_NODE r.node |> set F.FLT_EVT_UNIT r.unit
      |> set F.FLT_EVT_ADDR r.addr |> set F.FLT_EVT_DETAIL r.detail) := rfl
  rw [written]
  refine ⟨?_, ?_⟩
  · iterate 9 rw [get_set_ne (by decide)]
    exact get_set_same ..
  · iterate 4 rw [get_set_ne (by decide)]
    exact get_set_same ..

/-- FLT_EVT and its level show the queue (R391). -/
theorem showQueue_spec (s : State) : get (showQueue s) F.FLT_EVT_LEVEL_N = s.flt.queue.length % 2 ^ 9 ∧
    (∀ r rest, s.flt.queue = r :: rest → get (showQueue s) F.FLT_EVT_SRC = r.src % 256 ∧ get (showQueue s) F.FLT_EVT_VALID = 1) ∧
    (s.flt.queue = [] → get (showQueue s) F.FLT_EVT_VALID = 0) := by
  have level (r : FltRec) (v : Bool) : get (setRec evtFields r v (set F.FLT_EVT_LEVEL_N s.flt.queue.length s)) F.FLT_EVT_LEVEL_N =
      s.flt.queue.length % 2 ^ 9 := by
    rw [get_setRec_ne (fun f hf => ?_), get_set_same]
    · rfl
    · have := evtFields_range f hf
      simp only [F.FLT_EVT_LEVEL_N]
      omega
  unfold showQueue
  dsimp only
  split
  · next empty =>
    exact ⟨level noRec false, fun _ _ h => absurd (empty.symm.trans h) (List.cons_ne_nil _ _).symm, fun _ => (setRec_evt noRec false _).2⟩
  · next head rest q =>
    refine ⟨level head true, fun r tail h => ?_, fun h => absurd (q.symm.trans h) (List.cons_ne_nil _ _)⟩
    obtain ⟨rfl, -⟩ := List.cons.inj (q.symm.trans h)
    exact setRec_evt head true _

theorem setRec_cap_valid (l : Nat) (r : FltRec) (v : Bool) (s : State) :
    get (setRec (capFields l) r v s) (F.FLT_CAP_VALID l) = (if v then 1 else 0) % 2 := by
  have written : setRec (capFields l) r v s = (s |> set (F.FLT_CAP_TIME l) r.time |> set (F.FLT_CAP_SRC l) r.src |> set (F.FLT_CAP_DOM l) r.dom
      |> set (F.FLT_CAP_CLASS l) r.cls |> set (F.FLT_CAP_ESC l) (if r.esc then 1 else 0) |> set (F.FLT_CAP_ACCESS l) r.access
      |> set (F.FLT_CAP_VALID l) (if v then 1 else 0) |> set (F.FLT_CAP_NODE l) r.node |> set (F.FLT_CAP_UNIT l) r.unit
      |> set (F.FLT_CAP_ADDR l) r.addr |> set (F.FLT_CAP_DETAIL l) r.detail) := rfl
  rw [written, get_set_ne (by simp only [F.FLT_CAP_VALID, F.FLT_CAP_DETAIL]; omega),
    get_set_ne (by simp only [F.FLT_CAP_VALID, F.FLT_CAP_ADDR]; omega), get_set_ne (by simp only [F.FLT_CAP_VALID, F.FLT_CAP_UNIT]; omega),
    get_set_ne (by simp only [F.FLT_CAP_VALID, F.FLT_CAP_NODE]; omega), get_set_same]
  rfl

theorem setRec_sameRegsBut (fs : List Fld) (r : FltRec) (v : Bool) (s : State) : sameRegsBut fs s (setRec fs r v s) :=
  fun g hg => ⟨get_setRec_ne hg r v s, each_keeps (P := fun t => actv t g = actv s g) _ rfl fun _ _ h => h⟩

/-- POP, the captures and the pulse (R391, R396). -/
theorem queueAndCapturesAct (l : Fin 5) (s : State) :
    (∃ t, exec (.fltEvtPop .mgmt) s = .next t ∧ t.flt.queue = s.flt.queue.tail ∧
      get t F.FLT_EVT_LEVEL_N = s.flt.queue.tail.length % 2 ^ 9 ∧ t.mem = s.mem ∧ t.cores = s.cores ∧
      (∀ r rest, s.flt.queue.tail = r :: rest → get t F.FLT_EVT_SRC = r.src % 256 ∧ get t F.FLT_EVT_VALID = 1) ∧
      (s.flt.queue.tail = [] → get t F.FLT_EVT_VALID = 0)) ∧
    (flag s (F.FLT_CAP_VALID l) = false ∨ clears s (F.FLT_CAP_VALID l) 1 = 0 → exec (.fltCapClear l) s = .next s) ∧
    (flag s (F.FLT_CAP_VALID l) = true → clears s (F.FLT_CAP_VALID l) 1 = 1 → ∃ t, exec (.fltCapClear l) s = .next t ∧ flag t (F.FLT_CAP_VALID l) = false ∧
      sameRegsBut (capFields l) s t ∧ t.mem = s.mem ∧ t.flt = s.flt ∧ t.cores = s.cores) ∧
    (flag s F.FLT_STAT_ERRMODE = true → exec .faultNPulseEnd s = .next (setB F.FLT_STAT_PIN false s)) := by
  refine ⟨?_, fun stays => if_neg ?_, fun valid clear => ?_, fun pulse => if_pos pulse⟩
  · let u : State := { s with flt := { s.flt with queue := s.flt.queue.tail } }
    obtain ⟨flt, mem, cores⟩ := showQueue_frame u
    obtain ⟨level, shows, empty⟩ := showQueue_spec u
    exact ⟨showQueue u, rfl, congrArg FltSt.queue flt, level, mem, cores, shows, empty⟩
  · rcases stays with h | h <;> simp [h]
  · obtain ⟨flt, mem, cores⟩ := setRec_frame noRec s (capFields l) false
    exact ⟨_, if_pos (by simp [valid, clear]), flag_of_get_zero (setRec_cap_valid ..), setRec_sameRegsBut _ _ _ s, mem, flt, cores⟩

/-! ### Injection (R408) -/

/-- FLT_INJ_CTL as INJECT_GO writes it. -/
def injWritten (w : Nat) (s : State) : State :=
  s |> set F.FLT_INJ_CTL_KIND (bits w 0 4) |> set F.FLT_INJ_CTL_CHK_HIDE (bits w 5 1) |> set F.FLT_INJ_CTL_COUNT (bits w 8 8)
    |> set F.FLT_INJ_CTL_SRC (bits w 16 8) |> set F.FLT_INJ_CTL_DOM (bits w 24 8)

/-- The fields of FLT_INJ_CTL that INJECT_GO writes. -/
def injFields : List Fld := [F.FLT_INJ_CTL_KIND, F.FLT_INJ_CTL_CHK_HIDE, F.FLT_INJ_CTL_COUNT, F.FLT_INJ_CTL_SRC, F.FLT_INJ_CTL_DOM]

theorem injWritten_regs (w : Nat) (s : State) : sameRegsBut injFields s (injWritten w s) :=
  (((((sameRegsBut.refl injFields s).set (by decide) _).set (by decide) _).set (by decide) _).set (by decide) _).set (by decide) _

theorem injWritten_rest (w : Nat) (s : State) : (injWritten w s).flt = s.flt ∧ (injWritten w s).mem = s.mem ∧ (injWritten w s).cores = s.cores :=
  ⟨rfl, rfl, rfl⟩

/-- The written fields read as they were written: none is wider than its field. -/
theorem get_injWritten (w : Nat) (s : State) : get (injWritten w s) F.FLT_INJ_CTL_KIND = bits w 0 4 ∧
    flag (injWritten w s) F.FLT_INJ_CTL_CHK_HIDE = bit w 5 ∧ get (injWritten w s) F.FLT_INJ_CTL_COUNT = bits w 8 8 ∧
    get (injWritten w s) F.FLT_INJ_CTL_SRC = bits w 16 8 ∧ get (injWritten w s) F.FLT_INJ_CTL_DOM = bits w 24 8 := by
  unfold injWritten
  refine ⟨?_, ?_, ?_, ?_, ?_⟩
  · iterate 4 rw [get_set_ne (by decide)]
    rw [get_set_same]
    exact Nat.mod_mod ..
  · unfold flag
    iterate 3 rw [get_set_ne (by decide)]
    rw [get_set_same]
    exact congrArg (fun n => n == 1) (Nat.mod_mod ..)
  · iterate 2 rw [get_set_ne (by decide)]
    rw [get_set_same]
    exact Nat.mod_mod ..
  · rw [get_set_ne (by decide), get_set_same]
    exact Nat.mod_mod ..
  · rw [get_set_same]
    exact Nat.mod_mod ..

theorem exec_injectGo_fi {s : State} (v : Word) (fi : flag s F.LC_STATE_FI_EN = true) :
    exec (.injectGo v) s = .next (injGo (injWritten v.toNat s)) := if_neg (by simp [fi])

/-- GO with a kind and target that could not act. -/
theorem injGo_void {w : Nat} {s : State} (void : injVoid (bits w 0 4) (bits w 16 8) (bits w 24 8) = true) :
    injGo (injWritten w s) = injWritten w s := by
  obtain ⟨kind, -, -, src, dom⟩ := get_injWritten w s
  refine if_pos ?_
  rw [kind, src, dom]
  exact void

/-- The injection that GO arms. -/
def injArmed (w : Nat) (s : State) : Inj :=
  { kind := bits w 0 4, hide := bit w 5, count := max 1 (bits w 8 8), src := bits w 16 8, dom := bits w 24 8
    tgt := get s F.FLT_INJ_TGT_TGT, time := get s F.FLT_INJ_AT_AT, active := false, done := 0 }

/-- GO before the instant of the injection arms it. -/
theorem injGo_arms {w : Nat} {s : State} (acts : injVoid (bits w 0 4) (bits w 16 8) (bits w 24 8) = false) (ahead : now s < get s F.FLT_INJ_AT_AT) :
    get (injGo (injWritten w s)) F.FLT_INJ_STAT_STATE = 1 ∧ (injGo (injWritten w s)).mem = s.mem ∧ (injGo (injWritten w s)).cores = s.cores ∧
      (injGo (injWritten w s)).flt.inj = some (injArmed w s) := by
  have regs := injWritten_regs w s
  obtain ⟨kind, hide, count, src, dom⟩ := get_injWritten w s
  have at_ : get (injWritten w s) F.FLT_INJ_AT_AT = get s F.FLT_INJ_AT_AT := (regs _ (by decide)).1
  have tgt : get (injWritten w s) F.FLT_INJ_TGT_TGT = get s F.FLT_INJ_TGT_TGT := (regs _ (by decide)).1
  have time : now (injWritten w s) = now s := (regs F.TB_TIME_TIME (by decide)).1
  have armed : injGo (injWritten w s) = { injWritten w s |> set F.FLT_INJ_STAT_STATE 1 |> set F.FLT_INJ_STAT_DONE 0 with
      flt := { (injWritten w s).flt with inj := some (injArmed w s) } } := by
    unfold injGo
    simp only [kind, hide, count, src, dom, at_, tgt, time]
    rw [if_neg (by simp [acts]), if_neg (by simp; omega)]
    rfl
  have state : get (injWritten w s |> set F.FLT_INJ_STAT_STATE 1 |> set F.FLT_INJ_STAT_DONE 0) F.FLT_INJ_STAT_STATE = 1 := by
    rw [get_set_ne (by decide), get_set_same]
    rfl
  rw [armed]
  exact ⟨state, rfl, rfl, rfl⟩

theorem injectionActs (v : Word) (s : State) (j : Inj) :
    let w := v.toNat
    (flag s F.LC_STATE_FI_EN = false → exec (.injectGo v) s = .next (bump F.GLB_DENIED_CNT s)) ∧
    (flag s F.LC_STATE_FI_EN = true → injVoid (bits w 0 4) (bits w 16 8) (bits w 24 8) = false → now s < get s F.FLT_INJ_AT_AT → ∃ t,
      exec (.injectGo v) s = .next t ∧ get t F.FLT_INJ_STAT_STATE = 1 ∧ t.mem = s.mem ∧ t.cores = s.cores ∧
      t.flt.inj = some { kind := bits w 0 4, hide := bit w 5, count := max 1 (bits w 8 8), src := bits w 16 8, dom := bits w 24 8
                         tgt := get s F.FLT_INJ_TGT_TGT, time := get s F.FLT_INJ_AT_AT, active := false, done := 0 }) ∧
    (flag s F.LC_STATE_FI_EN = true → injVoid (bits w 0 4) (bits w 16 8) (bits w 24 8) = true → ∃ t, exec (.injectGo v) s = .next t ∧
      t.flt = s.flt ∧ t.mem = s.mem ∧ t.cores = s.cores ∧
      sameRegsBut [F.FLT_INJ_CTL_KIND, F.FLT_INJ_CTL_CHK_HIDE, F.FLT_INJ_CTL_COUNT, F.FLT_INJ_CTL_SRC, F.FLT_INJ_CTL_DOM] s t) ∧
    (s.flt.inj = some j → j.active = false → exec .injectionAtTime s = .next (injStart j (moveTo j.time s))) := by
  intro w
  refine ⟨fun fi => if_pos (by simp [fi]), fun fi acts ahead => ⟨_, exec_injectGo_fi v fi, injGo_arms acts ahead⟩,
    fun fi void => ?_, fun waits idle => ?_⟩
  · obtain ⟨flt, mem, cores⟩ := injWritten_rest w s
    exact ⟨_, (exec_injectGo_fi v fi).trans (congrArg _ (injGo_void void)), flt, mem, cores, injWritten_regs w s⟩
  · rw [exec_injectionAtTime]
    simp only [execInjectionAtTime, waits, idle, Bool.false_eq_true, if_false]

/-! ### Reports (R398) -/

/-- Messages that have left stay. -/
structure Sends (s t : State) : Prop where
  kept : ∀ m ∈ s.out, m ∈ t.out

theorem Sends.refl (s : State) : Sends s s := ⟨fun _ h => h⟩

theorem Sends.trans {r s t : State} (h : Sends r s) (k : Sends s t) : Sends r t := ⟨fun m hm => k.kept m (h.kept m hm)⟩

theorem Sends.of_out {s t : State} (h : t.out = s.out) : Sends s t := ⟨fun _ hm => h ▸ hm⟩

theorem Sends.emit (d : Party) (t : Topic) (args : List Nat) (s : State) : Sends s (emit d t args s) :=
  ⟨fun _ hm => List.mem_append_left _ hm⟩

theorem Sends.each {α : Type} (l : List α) {f : α → State → State} (h : ∀ a t, Sends t (f a t)) (s : State) : Sends s (each l f s) :=
  each_keeps (P := Sends s) l (.refl s) fun a t ht => ht.trans (h a t)

theorem raiseVector_sends (f v : Nat) (s : State) : Sends s (raiseVector f v s) := by
  unfold raiseVector
  split
  · exact .emit ..
  · exact .of_out rfl

theorem updPage_out (f : Nat) (g : Page → Page) (s : State) : (updPage f g s).out = s.out := rfl

theorem putPage_out (f ofs : Nat) (bs : List Byte) (s : State) : (putPage f ofs bs s).out = s.out := rfl

theorem putEvent_sends (f : Nat) (h : Header) (s : State) : Sends s (putEvent f h s) := by
  unfold putEvent
  split
  · exact when_keeps (P := Sends s) _ ((Sends.of_out (putPage_out ..)).trans (.of_out (updPage_out ..))) fun t ht => ht.trans (raiseVector_sends ..)
  · exact .each _ (fun _ _ => .emit ..) s

theorem noticeTo_sends (f op part : Nat) (inl : List Byte) (s : State) : Sends s (noticeTo f op part inl s) := by
  unfold noticeTo
  split
  · exact .of_out (bump_out ..)
  · exact (Sends.of_out (updPage_out ..)).trans (putEvent_sends ..)

theorem notify_sends (op : Nat) (part : Option Nat) (inl : List Byte) (s : State) : Sends s (notify op part inl s) :=
  (Sends.each _ (fun _ _ => noticeTo_sends ..) s).trans (.emit ..)

/-- What FAULT_REPORT tells of a record. -/
def reportArgs (r : FltRec) : List Nat :=
  [5, r.time, r.src, r.dom, r.cls, if r.esc then 1 else 0, r.access, r.node, r.unit, r.addr, r.detail]

/-- A report is logged and sent, before the host's notice. -/
def reportSent (r : FltRec) (s : State) : State :=
  emit .net .report (reportArgs r) (logRec (reportArgs r) (updFw (fun k => { k with reports := k.reports + 1 }) s))

section
variable {s : State} {r : FltRec} {rest : List FltRec} (head : s.flt.queue = r :: rest) (severe : r.cls ≠ 0)
include head severe

theorem exec_faultReport_folded (many : 1000 ≤ s.fw.reports) :
    exec .faultReport s = .next (updFw (fun k => { k with folded := k.folded + 1 }) s) := by
  rw [exec_faultReport]
  simp only [execFaultReport, head, severe, many, if_true, if_false]

/-- The report is followed by a notice, which changes nothing of the collector. -/
theorem exec_faultReport_reported (few : s.fw.reports < 1000) :
    ∃ part inl, exec .faultReport s = .next (notify 5 part inl (reportSent r s)) := by
  rw [exec_faultReport]
  simp only [execFaultReport, head, severe, Nat.not_le.2 few, if_false]
  exact ⟨_, _, rfl⟩

end

/-- The summary of a second is logged and sent, and the next second begins. -/
def summed (args : List Nat) (cur : SMap Nat) (s : State) : State :=
  emit .net .report args (logRec args (updFw (fun k => { k with lastSrc := cur, reports := 0, folded := 0 }) s))

theorem summed_spec (args : List Nat) (cur : SMap Nat) (s : State) : (summed args cur s).fw.reports = 0 ∧ (summed args cur s).fw.folded = 0 ∧
    (summed args cur s).mem = s.mem ∧ (summed args cur s).cores = s.cores ∧ (summed args cur s).flt = s.flt ∧
    (summed args cur s).regs = s.regs ∧ (summed args cur s).act = s.act := ⟨rfl, rfl, rfl, rfl, rfl, rfl, rfl⟩

theorem exec_faultSummaryTimer_sums (s : State) : ∃ args cur,
    exec .faultSummaryTimer s = .next (summed args cur (moveTo ((now s / 1000000000 + 1) * 1000000000) s)) := ⟨_, _, rfl⟩

/-- FAULT_REPORT and FAULT_SUMMARY_TIMER (R398). -/
theorem reportsAct (s : State) (r : FltRec) (rest : List FltRec) :
    let args := [5, r.time, r.src, r.dom, r.cls, if r.esc then 1 else 0, r.access, r.node, r.unit, r.addr, r.detail]
    (s.flt.queue = r :: rest → r.cls ≠ 0 → s.fw.reports < 1000 → ∃ t, exec .faultReport s = .next t ∧ t.fw.log = s.fw.log ++ [args] ∧
      t.fw.reports = s.fw.reports + 1 ∧ { dst := .net, topic := .report, args := args : Msg } ∈ t.out ∧ t.flt = s.flt ∧ t.mem = s.mem ∧
      t.cores = s.cores) ∧
    (s.flt.queue = r :: rest → r.cls ≠ 0 → 1000 ≤ s.fw.reports → exec .faultReport s =
      .next (updFw (fun k => { k with folded := k.folded + 1 }) s)) ∧
    (∃ t, exec .faultSummaryTimer s = .next t ∧ t.fw.reports = 0 ∧ t.fw.folded = 0 ∧ t.mem = s.mem ∧ t.cores = s.cores ∧ t.flt = s.flt ∧
      sameRegsBut [F.TB_TIME_TIME] s t) := by
  intro args
  refine ⟨fun head severe few => ?_, exec_faultReport_folded, ?_⟩
  · obtain ⟨part, inl, run⟩ := exec_faultReport_reported head severe few
    have notice := (notify_notice 5 part inl (reportSent r s)).1
    have sent := (notify_sends 5 part inl (reportSent r s)).kept { dst := .net, topic := .report, args := args } (List.mem_append_right _ List.mem_cons_self)
    have fw : (notify 5 part inl (reportSent r s)).fw = (reportSent r s).fw := by rw [notice]
    exact ⟨_, run, congrArg FwSt.log fw, congrArg FwSt.reports fw, sent, by rw [notice]; rfl, by rw [notice]; rfl, by rw [notice]; rfl⟩
  · obtain ⟨sent, cur, run⟩ := exec_faultSummaryTimer_sums s
    obtain ⟨reports, folded, mem, cores, flt, regs, act⟩ := summed_spec sent cur (moveTo ((now s / 1000000000 + 1) * 1000000000) s)
    exact ⟨_, run, reports, folded, mem.trans (moveTo_mem ..), cores.trans (moveTo_cores ..), flt.trans (moveTo_flt ..),
      ((sameRegsBut.refl _ s).moveTo (by decide) _).of_eq regs act⟩

/-- Settles O45: acknowledging every domain of a class leaves none pending, the queue and the captures show what they hold, and
reports and injections are as their commands write them. That FAULT_REPORT leaves the record at the head of the queue, for POP to take,
is the model's choice (log entry 55). -/
theorem faultsAreAcknowledgedAndReported : Obligations.FaultsAreAcknowledgedAndReported :=
  ⟨acknowledgementActs, queueAndCapturesAct, injectionActs, reportsAct⟩

end Sys2Proof.Machine

namespace Sys2Proof.Machine

/-! ### Temperature sensors (R413 to R421) -/

/-- What a sample shows beside its flags: temperatures with their VALID bits, the count of samples, and SHUT. -/
def sampleShows (k : Nat) : Prop := k = 0x2000024 ∨ k = 0x2001000 ∨ 0x2000800 ≤ k ∧ k < 0x2001000 ∧ k % 16 = 0

/-- What the work on a valid sample leaves as it was. -/
structure Sampled (s t : State) : Prop where
  mem : t.mem = s.mem
  pwroff : t.pwroff = s.pwroff
  shown : ∀ g : Fld, sampleShows g.key → get t g = get s g

theorem Sampled.refl (s : State) : Sampled s s := ⟨rfl, rfl, fun _ _ => rfl⟩

theorem Sampled.trans {r s t : State} (h : Sampled r s) (k : Sampled s t) : Sampled r t :=
  ⟨k.mem.trans h.mem, k.pwroff.trans h.pwroff, fun g hg => (k.shown g hg).trans (h.shown g hg)⟩

theorem Sampled.when (b : Bool) {f : State → State} {s : State} (h : Sampled s (f s)) : Sampled s (when b f s) := by
  unfold Machine.when
  split
  · exact h
  · exact .refl s

/-- A register that a sample does not show. -/
theorem Sampled.set {f : Fld} (hf : ¬ sampleShows f.key) (v : Nat) (s : State) : Sampled s (set f v s) :=
  ⟨rfl, rfl, fun _ hg => get_set_ne (fun h => hf (h ▸ hg)) v s⟩

theorem Sampled.setB {f : Fld} (hf : ¬ sampleShows f.key) (b : Bool) (s : State) : Sampled s (setB f b s) := .set hf _ s

theorem Sampled.bump {f : Fld} (hf : ¬ sampleShows f.key) (s : State) : Sampled s (bump f s) := .set hf _ s

theorem Sampled.updThm (f : ThmSt → ThmSt) (s : State) : Sampled s (updThm f s) := ⟨rfl, rfl, fun _ _ => rfl⟩
theorem Sampled.updPhys (f : PhysSt → PhysSt) (s : State) : Sampled s (updPhys f s) := ⟨rfl, rfl, fun _ _ => rfl⟩
theorem Sampled.updCore (c : Nat) (f : CoreSt → CoreSt) (s : State) : Sampled s (updCore c f s) := ⟨rfl, rfl, fun _ _ => rfl⟩
theorem Sampled.emit (d : Party) (t : Topic) (args : List Nat) (s : State) : Sampled s (emit d t args s) := ⟨rfl, rfl, fun _ _ => rfl⟩

theorem startPass_sampled (c : Nat) (s : State) : Sampled s (startPass c s) :=
  (Sampled.updCore ..).trans (.setB (by simp only [sampleShows, F.CAL_STATUS_PASS_BUSY]; omega) ..)

theorem trigger_sampled (c : Nat) (s : State) : Sampled s (trigger c s) := by
  unfold trigger
  split
  · exact .refl s
  · split
    · exact .updCore ..
    · exact startPass_sampled c s

theorem noteExc_sampled (c v : Nat) (s : State) : Sampled s (noteExc c v s) := by
  unfold noteExc
  split
  · exact .refl s
  · exact .updCore ..

theorem calSample_sampled (c v : Nat) (s : State) : Sampled s (calSample c v s) := by
  unfold calSample
  split
  · exact .refl s
  · have told : Sampled s (noteExc c v (updPhys (fun k => { k with temp := SMap.put 0 k.temp c (v + 1) }) (set (F.CAL_TEMP_T_NOW c) v s))) :=
      ((Sampled.set (by simp only [sampleShows, F.CAL_TEMP_T_NOW]; omega) v s).trans (.updPhys ..)).trans (noteExc_sampled ..)
    exact told.trans (.when _ (trigger_sampled ..))

theorem flagTo_sampled {f cnt : Fld} (hf : ¬ sampleShows f.key) (hc : ¬ sampleShows cnt.key) (on off : Bool) (s : State) :
    Sampled s (flagTo f cnt on off s) := by
  unfold flagTo
  split
  · split
    · exact .refl s
    · exact (Sampled.setB hf true s).trans (.bump hc _)
  · split
    · exact .setB hf false s
    · exact .refl s

theorem refreshRate_sampled (i : Nat) (t : Int) (s : State) : Sampled s (refreshRate i t s) := by
  unfold refreshRate
  split
  · exact .refl s
  · split
    · exact .updThm ..
    · split
      · exact .updThm ..
      · exact .refl s

theorem showHalves_sampled (s : State) : Sampled s (showHalves s) := by
  unfold showHalves
  exact ((((Sampled.setB (f := F.THM_STAT_WARN_W) (by unfold sampleShows; decide) _ s).trans (.setB (f := F.THM_STAT_WARN_E) (by unfold sampleShows; decide) ..)).trans
    (.setB (f := F.THM_STAT_THR_W) (by unfold sampleShows; decide) ..)).trans (.setB (f := F.THM_STAT_THR_E) (by unfold sampleShows; decide) ..)).trans (.when _ (.emit ..))

/-- A sample is shown with its VALID bit. -/
def sampleNoted (i v : Nat) (s : State) : State := setB (F.THM_SENS_VALID i) true (set (F.THM_SENS_TEMP i) v s)

/-- A valid sample is shown; the work that follows leaves it, and a hot one shuts the package down. -/
theorem validSample_eq (i v : Nat) (s : State) : ∃ u, Sampled (sampleNoted i v s) u ∧
    validSample i v s = when (decide (896 ≤ tempOf v)) (shutDown i false) u := by
  have warn : ¬ sampleShows (F.THM_SENS_WARN i).key := by
    simp only [sampleShows, F.THM_SENS_WARN]
    omega
  have thr : ¬ sampleShows (F.THM_SENS_THR i).key := by
    simp only [sampleShows, F.THM_SENS_THR]
    omega
  have fast : ¬ sampleShows (F.THM_SENS_FAST i).key := by
    simp only [sampleShows, F.THM_SENS_FAST]
    omega
  refine ⟨_, ?_, rfl⟩
  refine Sampled.trans (.trans (.trans (.trans (.trans (.trans (.trans (.updThm ..) (.when _ ?peak)) (flagTo_sampled warn ?_ ..)) (flagTo_sampled thr ?_ ..))
    (flagTo_sampled fast ?_ ..)) (refreshRate_sampled ..)) (.when _ (calSample_sampled ..))) (showHalves_sampled _)
  case peak => exact (Sampled.set (f := F.THM_PEAK_TEMP) (by unfold sampleShows; decide) ..).trans (.set (f := F.THM_PEAK_SENS) (by unfold sampleShows; decide) ..)
  all_goals
    unfold sampleShows
    decide

theorem sampleNoted_spec (i v : Nat) (s : State) : get (sampleNoted i v s) (F.THM_SENS_TEMP i) = v % 2 ^ 16 ∧
    get (sampleNoted i v s) (F.THM_SENS_VALID i) = 1 ∧ (sampleNoted i v s).mem = s.mem ∧ (sampleNoted i v s).pwroff = s.pwroff ∧
    ∀ g : Fld, g.key < 0x2000800 ∨ 0x2001000 ≤ g.key → i < 31 → get (sampleNoted i v s) g = get s g := by
  have apart : (F.THM_SENS_TEMP i).key ≠ (F.THM_SENS_VALID i).key := by
    simp only [F.THM_SENS_TEMP, F.THM_SENS_VALID]
    omega
  refine ⟨(get_setB_ne apart ..).trans (get_set_same ..), get_setB_same .., rfl, rfl, fun g hg hi => ?_⟩
  refine (get_setB_ne ?_ ..).trans (get_set_ne ?_ ..) <;> simp only [F.THM_SENS_TEMP, F.THM_SENS_VALID] <;> omega

/-- The event of a shut-down (R421). -/
def shutEvent : Ev := { src := 0x70, dom := 0xE0 }

theorem raise_shutEvent (s : State) : raise shutEvent s = pinEvent 4 (powerOffAsked (safeState (noted shutEvent 4 [] s))) := raise_eq rfl rfl

/-- A shut-down asks for power off, and leaves the registers of the sensors. -/
theorem raise_shutEvent_spec (s : State) : (raise shutEvent s).pwroff = true ∧
    ∀ g : Fld, 0x1806000 ≤ g.key → g.key < 0x8000000 → get (raise shutEvent s) g = get s g := by
  have note : FltOnly s (noted shutEvent 4 [] s) := noted_flt (by decide) s (by decide) (by decide)
  have pin := pinEvent_flt 4 (powerOffAsked (safeState (noted shutEvent 4 [] s)))
  rw [raise_shutEvent]
  refine ⟨pin.pwroff, fun g high low => ?_⟩
  rw [pin.2 g (.inr high), get_powerOffAsked _ (by simp only [F.FLT_STAT_L4_REQ]; omega),
    (safeState_frame _).2.2 g low (by simp only [F.FLT_FENCE_CNT]; omega) (by omega) (by omega), note.2 g (.inr high)]

/-- The latched marks of a shut-down. -/
def shutNoted (sens : Nat) (noSens : Bool) (s : State) : State :=
  s |> setB F.THM_STAT_SHUT true |> set F.THM_STAT_SHUT_SENS sens |> when noSens (setB F.THM_STAT_NOSENS true)

theorem shutDown_shuts {s : State} (on : flag s F.THM_STAT_SHUT = false) (sens : Nat) (noSens : Bool) :
    flag (shutDown sens noSens s) F.THM_STAT_SHUT = true ∧ get (shutDown sens noSens s) F.THM_STAT_SHUT_SENS = sens % 2 ^ 5 ∧
      (shutDown sens noSens s).pwroff = true := by
  have down : shutDown sens noSens s = raise shutEvent (shutNoted sens noSens s) := if_neg (by simp [on])
  have marks : ∀ g : Fld, g.key ≠ F.THM_STAT_NOSENS.key →
      get (shutNoted sens noSens s) g = get (set F.THM_STAT_SHUT_SENS sens (setB F.THM_STAT_SHUT true s)) g := fun g hg =>
    when_keeps (P := fun t => get t g = get (set F.THM_STAT_SHUT_SENS sens (setB F.THM_STAT_SHUT true s)) g) _ rfl
      fun t ht => (get_setB_ne hg true t).trans ht
  obtain ⟨power, low⟩ := raise_shutEvent_spec (shutNoted sens noSens s)
  rw [down]
  refine ⟨flag_of_get ?_, ?_, power⟩
  · rw [low _ (by decide) (by decide), marks _ (by decide), get_set_ne (by decide)]
    exact get_setB_same ..
  · rw [low _ (by decide) (by decide), marks _ (by decide)]
    exact get_set_same ..

theorem showHalves_eq (s : State) : ∃ b : Bool, ∃ w e x y : Bool, showHalves s = when b (emit .mc .halfChange [])
    (s |> setB F.THM_STAT_WARN_W w |> setB F.THM_STAT_WARN_E e |> setB F.THM_STAT_THR_W x |> setB F.THM_STAT_THR_E y) := ⟨_, _, _, _, _, rfl⟩

/-- The half conditions show in THM_STAT alone. -/
theorem get_showHalves {g : Fld} (apart : 0x2000024 ≤ g.key) (s : State) : get (showHalves s) g = get s g := by
  obtain ⟨b, w, e, x, y, h⟩ := showHalves_eq s
  rw [h]
  refine when_keeps (P := fun t => get t g = get s g) b ?_ fun t ht => ht
  iterate 4 refine (get_setB_ne ?_ ..).trans ?_; rotate_left
  · rfl
  all_goals
    simp only [F.THM_STAT_WARN_W, F.THM_STAT_WARN_E, F.THM_STAT_THR_W, F.THM_STAT_THR_E]
    omega

/-- An invalid sample marks its sensor; a core's block hears of it (R137). -/
theorem invalidSample_spec {i : Nat} (hi : i < 31) (s : State) : get (invalidSample i s) (F.THM_SENS_VALID i) = 0 ∧
    get (invalidSample i s) (F.THM_SENS_TEMP i) = get s (F.THM_SENS_TEMP i) ∧ (invalidSample i s).mem = s.mem := by
  let u := setB (F.THM_SENS_VALID i) false (bump F.THM_INVALID_CNT s)
  have invalid : get u (F.THM_SENS_VALID i) = 0 := get_setB_same ..
  have temp : get u (F.THM_SENS_TEMP i) = get s (F.THM_SENS_TEMP i) := by
    refine (get_setB_ne ?_ ..).trans (get_bump_ne ?_ s) <;> simp only [F.THM_SENS_TEMP, F.THM_SENS_VALID, F.THM_INVALID_CNT] <;> omega
  have mem : u.mem = s.mem := rfl
  unfold invalidSample
  dsimp only
  split
  · next told =>
    simp only [Bool.and_eq_true, decide_eq_true_eq] at told
    have only : FltOnly (bump (F.CAL_TSENSE_INV_CNT i) u) (raise { src := 0x15, dom := i, node := i } (bump (F.CAL_TSENSE_INV_CNT i) u)) :=
      raise_flt _ _ rfl (show 0 ≤ 1 by decide) rfl (show i < 256 by omega) (show 0x15 < 256 by decide)
    have kept : ∀ g : Fld, 0x2000800 ≤ g.key → g.key < 0x2001000 →
        get (raise { src := 0x15, dom := i, node := i } (bump (F.CAL_TSENSE_INV_CNT i) u)) g = get u g := fun g high low =>
      (only.2 g (.inr (by omega))).trans (get_bump_ne (by simp only [F.CAL_TSENSE_INV_CNT]; omega) u)
    refine ⟨(kept _ ?_ ?_).trans invalid, (kept _ ?_ ?_).trans temp, only.mem.trans mem⟩ <;>
      simp only [F.THM_SENS_TEMP, F.THM_SENS_VALID] <;> omega
  · exact ⟨invalid, temp, mem⟩

end Sys2Proof.Machine

namespace Sys2Proof.Machine

/-! ### The commands of the sensors -/

theorem NoticeOnly.mem {s t : State} (h : NoticeOnly s t) : t.mem = s.mem := by rw [h.1]

theorem NoticeOnly.cores {s t : State} (h : NoticeOnly s t) : t.cores = s.cores := by rw [h.1]

theorem NoticeOnly.thm {s t : State} (h : NoticeOnly s t) : t.thm = s.thm := by rw [h.1]

theorem tempOf_toNat (v : BitVec 16) : tempOf v.toNat = v.toInt := by
  unfold tempOf
  rw [BitVec.ofNat_toNat, BitVec.setWidth_eq]

section
variable (i : Fin 31) {v : BitVec 16} {s : State}

theorem exec_sensorSample_valid (low : -320 ≤ v.toInt) (high : v.toInt ≤ 1200) :
    exec (.sensorSample i v true) s = .next (validSample i v.toNat (bump F.THM_SAMPLE_CNT s)) := if_pos (by simp [low, high])

theorem exec_sensorSample_invalid (out : v.toInt < -320 ∨ 1200 < v.toInt) :
    exec (.sensorSample i v true) s = .next (invalidSample i (bump F.THM_SAMPLE_CNT s)) := if_neg (by simp; omega)

theorem coolSampleIsShown (low : -320 ≤ v.toInt) (cool : v.toInt < 896) : ∃ t, exec (.sensorSample i v true) s = .next t ∧
    get t (F.THM_SENS_TEMP i) = v.toNat ∧ flag t (F.THM_SENS_VALID i) = true ∧ t.mem = s.mem ∧ t.pwroff = s.pwroff ∧
    get t F.THM_SAMPLE_CNT = min (get s F.THM_SAMPLE_CNT + 1) (2 ^ 64 - 1) % 2 ^ 64 := by
  obtain ⟨u, work, shown⟩ := validSample_eq i v.toNat (bump F.THM_SAMPLE_CNT s)
  obtain ⟨temp, valid, mem, power, others⟩ := sampleNoted_spec i v.toNat (bump F.THM_SAMPLE_CNT s)
  have stays : validSample i v.toNat (bump F.THM_SAMPLE_CNT s) = u := by
    rw [shown, decide_eq_false (by rw [tempOf_toNat]; omega)]
    rfl
  have hi := i.isLt
  refine ⟨u, (exec_sensorSample_valid i low (by omega)).trans (congrArg _ stays), ?_, flag_of_get ?_, work.mem.trans mem,
    work.pwroff.trans power, ?_⟩
  · rw [work.shown _ (by simp only [sampleShows, F.THM_SENS_TEMP]; omega), temp]
    exact Nat.mod_eq_of_lt v.isLt
  · rw [work.shown _ (by simp only [sampleShows, F.THM_SENS_VALID]; omega), valid]
  · rw [work.shown _ (.inr (.inl rfl)), others _ (.inr (by decide)) hi]
    exact get_bump_same ..

theorem hotSampleShutsDown (hot : 896 ≤ v.toInt) (high : v.toInt ≤ 1200) (on : flag s F.THM_STAT_SHUT = false) : ∃ t,
    exec (.sensorSample i v true) s = .next t ∧ flag t F.THM_STAT_SHUT = true ∧ get t F.THM_STAT_SHUT_SENS = i.val ∧ t.pwroff = true := by
  obtain ⟨u, work, shown⟩ := validSample_eq i v.toNat (bump F.THM_SAMPLE_CNT s)
  obtain ⟨-, -, -, -, others⟩ := sampleNoted_spec i v.toNat (bump F.THM_SAMPLE_CNT s)
  have shuts : validSample i v.toNat (bump F.THM_SAMPLE_CNT s) = shutDown i false u := by
    rw [shown, decide_eq_true (by rw [tempOf_toNat]; omega)]
    rfl
  have hi := i.isLt
  have still : flag u F.THM_STAT_SHUT = false := by
    unfold flag
    rw [work.shown _ (.inl rfl), others _ (.inl (by decide)) hi, get_bump_ne (by decide)]
    exact on
  obtain ⟨shut, sens, power⟩ := shutDown_shuts still i false
  exact ⟨_, (exec_sensorSample_valid i (by omega) high).trans (congrArg _ shuts), shut,
    sens.trans (Nat.mod_eq_of_lt (Nat.lt_of_lt_of_le hi (by decide))), power⟩

theorem invalidSampleMarks (out : v.toInt < -320 ∨ 1200 < v.toInt) : ∃ t, exec (.sensorSample i v true) s = .next t ∧
    flag t (F.THM_SENS_VALID i) = false ∧ get t (F.THM_SENS_TEMP i) = get s (F.THM_SENS_TEMP i) ∧ t.mem = s.mem := by
  obtain ⟨valid, temp, mem⟩ := invalidSample_spec i.isLt (bump F.THM_SAMPLE_CNT s)
  refine ⟨_, exec_sensorSample_invalid i out, flag_of_get_zero valid, temp.trans (get_bump_ne ?_ s), mem⟩
  have := i.isLt
  simp only [F.THM_SENS_TEMP, F.THM_SAMPLE_CNT]
  omega

/-- A core sensor that has been silent for 10 ms: its flags are cleared before the half conditions are shown. -/
def silenced (i : Nat) (s : State) : State :=
  s |> setB (F.THM_SENS_WARN i) false |> setB (F.THM_SENS_THR i) false |> emit .net .report [12, 2, i]

theorem silenced_spec (i : Nat) (s : State) : get (silenced i s) (F.THM_SENS_WARN i) = 0 ∧ get (silenced i s) (F.THM_SENS_THR i) = 0 ∧
    (silenced i s).mem = s.mem ∧ (silenced i s).pwroff = s.pwroff := by
  unfold silenced
  rw [get_emit, get_emit, get_setB_same (F.THM_SENS_THR i), get_setB_ne (f := F.THM_SENS_THR i) (by simp only [F.THM_SENS_WARN, F.THM_SENS_THR]; omega),
    get_setB_same]
  exact ⟨rfl, rfl, rfl, rfl⟩

theorem silentSensorClearsItsFlags (ofCore : i.val < 20) : ∃ t, exec (.sensorMissingTimeout i) s = .next t ∧
    flag t (F.THM_SENS_WARN i) = false ∧ flag t (F.THM_SENS_THR i) = false ∧ t.mem = s.mem ∧ t.pwroff = s.pwroff := by
  obtain ⟨warn, thr, mem, power⟩ := silenced_spec i.val (moveTo (lastValid s [i.val] + 10000000) s)
  have work := showHalves_sampled (silenced i (moveTo (lastValid s [i.val] + 10000000) s))
  refine ⟨_, if_pos ofCore, flag_of_get_zero ((get_showHalves ?_ _).trans warn), flag_of_get_zero ((get_showHalves ?_ _).trans thr),
    work.mem.trans (mem.trans (moveTo_mem ..)), work.pwroff.trans (power.trans (moveTo_pwroff ..))⟩
  · simp only [F.THM_SENS_WARN]
    omega
  · simp only [F.THM_SENS_THR]
    omega

/-- The silence of a stack's sensor, or of a half's four, shuts the package down. -/
theorem silentSensorsShutDown (other : 20 ≤ i.val) (on : flag s F.THM_STAT_SHUT = false) : ∃ t, exec (.sensorMissingTimeout i) s = .next t ∧
    flag t F.THM_STAT_SHUT = true ∧ get t F.THM_STAT_SHUT_SENS = 31 ∧ t.pwroff = true := by
  have shuts (x : Nat) : flag (shutDown 0x1F true (moveTo x s)) F.THM_STAT_SHUT = true ∧
      get (shutDown 0x1F true (moveTo x s)) F.THM_STAT_SHUT_SENS = 31 ∧ (shutDown 0x1F true (moveTo x s)).pwroff = true :=
    shutDown_shuts ((congrArg (fun n => n == 1) (get_moveTo_ne (by decide) x s)).trans on) 0x1F true
  rw [exec_sensorMissingTimeout]
  unfold execSensorMissingTimeout
  rw [if_neg (by omega)]
  split
  · exact ⟨_, rfl, shuts _⟩
  · exact ⟨_, rfl, shuts _⟩

theorem warningChangeIsReported (east : Bool)
    (change : (if east then flag s F.THM_STAT_WARN_E else flag s F.THM_STAT_WARN_W) ≠ (if east then s.thm.warnE else s.thm.warnW)) : ∃ t,
    exec (.warningChange east i) s = .next t ∧
      (if east then t.thm.warnE else t.thm.warnW) = (if east then flag s F.THM_STAT_WARN_E else flag s F.THM_STAT_WARN_W) ∧
      t.mem = s.mem ∧ t.cores = s.cores := by
  let u := updThm (fun k => if east then { k with warnE := flag s F.THM_STAT_WARN_E } else { k with warnW := flag s F.THM_STAT_WARN_W }) s
  have thm : (if east then u.thm.warnE else u.thm.warnW) = (if east then flag s F.THM_STAT_WARN_E else flag s F.THM_STAT_WARN_W) := by
    cases east <;> rfl
  have note := notify_notice 12 none (natLe 1 0 ++ natLe 1 i) u
  have run : exec (.warningChange east i) s = .next (notify 12 none (natLe 1 0 ++ natLe 1 i) u) := by
    refine (if_neg change).trans ?_
    cases east <;> rfl
  exact ⟨_, run, by rw [note.thm, thm], note.mem, note.cores⟩

end

/-! ### Thresholds and the converter's controls (R414, R424) -/

theorem exec_thmCtlWrite_taken {v : Word} {s : State} (warn : 0x1E0 ≤ bits v.toNat 0 16 ∧ bits v.toNat 0 16 ≤ 0x2F8)
    (above : bits v.toNat 0 16 < bits v.toNat 16 16) (high : bits v.toNat 16 16 ≤ 0x338) :
    exec (.thmCtlWrite .mgmt v) s = .next (set F.THM_CTL_THR_T (bits v.toNat 16 16) (set F.THM_CTL_WARN_T (bits v.toNat 0 16) s)) := by
  have written : get (set F.THM_CTL_WARN_T (bits v.toNat 0 16) s) F.THM_CTL_WARN_T = bits v.toNat 0 16 :=
    (get_set_same ..).trans (Nat.mod_mod ..)
  simp only [exec_thmCtlWrite, execThmCtlWrite, warn.1, warn.2, decide_true, Bool.and_self, if_true, written, high, above]

theorem exec_thmCtlWrite_refused {v : Word} {s : State} (warn : bits v.toNat 0 16 < 0x1E0 ∨ 0x2F8 < bits v.toNat 0 16)
    (high : 0x338 < bits v.toNat 16 16) :
    exec (.thmCtlWrite .mgmt v) s = .next (bump F.THM_CFG_REJ_CNT (bump F.THM_CFG_REJ_CNT s)) := by
  have out : (decide (0x1E0 ≤ bits v.toNat 0 16) && decide (bits v.toNat 0 16 ≤ 0x2F8)) = false := by
    simp only [Bool.and_eq_false_iff, decide_eq_false_iff_not]
    omega
  simp only [exec_thmCtlWrite, execThmCtlWrite, out, Nat.not_le.2 high, decide_false, Bool.false_and, Bool.false_eq_true, if_false]

/-- TEL_CTL or TEL_CHSEL as it is written. -/
def telWritten (mask : Bool) (v : Word) (s : State) : State :=
  if mask then set F.TEL_CHSEL_MASK (bits v.toNat 0 16) s
  else s |> set F.TEL_CTL_EN (bits v.toNat 0 1) |> set F.TEL_CTL_MAINS (bits v.toNat 1 1) |> set F.TEL_CTL_LP (bits v.toNat 2 1)

theorem busy_telWritten (mask : Bool) (v : Word) (s : State) : flag (telWritten mask v s) F.TEL_STAT_BUSY = flag s F.TEL_STAT_BUSY := by
  unfold flag telWritten
  split
  · rw [get_set_ne (by decide)]
  · rw [get_set_ne (by decide), get_set_ne (by decide), get_set_ne (by decide)]

theorem exec_telCtlWrite_busy {s : State} (busy : flag s F.TEL_STAT_BUSY = true) (mask : Bool) (v : Word) :
    exec (.telCtlWrite .mgmt mask v) s = .next (telWritten mask v s) :=
  congrArg Host.Outcome.next (if_pos ((busy_telWritten mask v s).trans busy))

theorem exec_telCtlWrite_free {s : State} (free : flag s F.TEL_STAT_BUSY = false) (mask : Bool) (v : Word) :
    exec (.telCtlWrite .mgmt mask v) s = .next (telStart (telWritten mask v s)) :=
  congrArg Host.Outcome.next (if_neg (by
    rw [Bool.not_eq_true]
    exact (busy_telWritten mask v s).trans free))

theorem thresholdsAndControlsAct (v : Word) (s : State) :
    let w := bits v.toNat 0 16
    let r := bits v.toNat 16 16
    (0x1E0 ≤ w → w ≤ 0x2F8 → w < r → r ≤ 0x338 → exec (.thmCtlWrite .mgmt v) s = .next (set F.THM_CTL_THR_T r (set F.THM_CTL_WARN_T w s))) ∧
    (w < 0x1E0 ∨ 0x2F8 < w → 0x338 < r → exec (.thmCtlWrite .mgmt v) s = .next (bump F.THM_CFG_REJ_CNT (bump F.THM_CFG_REJ_CNT s))) ∧
    (flag s F.TEL_STAT_BUSY = false → exec (.telCtlWrite .mgmt true v) s = .next (telStart (set F.TEL_CHSEL_MASK (bits v.toNat 0 16) s)) ∧
      exec (.telCtlWrite .mgmt false v) s = .next (telStart (set F.TEL_CTL_LP (bits v.toNat 2 1) (set F.TEL_CTL_MAINS (bits v.toNat 1 1)
        (set F.TEL_CTL_EN (bits v.toNat 0 1) s))))) ∧
    (flag s F.TEL_STAT_BUSY = true → ∃ t, exec (.telCtlWrite .mgmt true v) s = .next t ∧ get t F.TEL_CHSEL_MASK = bits v.toNat 0 16 ∧
      sameRegsBut [F.TEL_CHSEL_MASK] s t ∧ t.mem = s.mem ∧ t.cores = s.cores) ∧
    (flag s F.TEL_STAT_BUSY = true → ∃ t, exec (.telCtlWrite .mgmt false v) s = .next t ∧ get t F.TEL_CTL_EN = bits v.toNat 0 1 ∧
      get t F.TEL_CTL_MAINS = bits v.toNat 1 1 ∧ get t F.TEL_CTL_LP = bits v.toNat 2 1 ∧
      sameRegsBut [F.TEL_CTL_EN, F.TEL_CTL_MAINS, F.TEL_CTL_LP] s t ∧ t.mem = s.mem ∧ t.cores = s.cores) := by
  intro w r
  refine ⟨fun low high above top => exec_thmCtlWrite_taken ⟨low, high⟩ above top, exec_thmCtlWrite_refused,
    fun free => ⟨exec_telCtlWrite_free free true v, exec_telCtlWrite_free free false v⟩, fun busy => ?_, fun busy => ?_⟩
  · exact ⟨_, exec_telCtlWrite_busy busy true v, (get_set_same ..).trans (Nat.mod_mod ..), (sameRegsBut.refl _ s).set (by decide) _, rfl, rfl⟩
  · refine ⟨_, exec_telCtlWrite_busy busy false v, ?_, ?_, (get_set_same ..).trans (Nat.mod_mod ..),
      (((sameRegsBut.refl _ s).set (by decide) _).set (by decide) _).set (by decide) _, rfl, rfl⟩
    · exact ((get_set_ne (by decide) ..).trans (get_set_ne (by decide) ..)).trans ((get_set_same ..).trans (Nat.mod_mod ..))
    · exact (get_set_ne (by decide) ..).trans ((get_set_same ..).trans (Nat.mod_mod ..))

end Sys2Proof.Machine

namespace Sys2Proof.Machine

/-! ### Throttle (R417, R418) -/

theorem thermalNote_notice (n : Option Nat) (action : Nat) (s : State) : NoticeOnly s (thermalNote n action s) := notify_notice ..

theorem NoticeOnly.fw {s t : State} (h : NoticeOnly s t) : t.fw = s.fw := by rw [h.1]

theorem NoticeOnly.act {s t : State} (h : NoticeOnly s t) : t.act = s.act := by rw [h.1]

/-- A notice leaves the schedules of a partition and their descriptors. -/
theorem NoticeOnly.schedules {s t : State} (h : NoticeOnly s t) (n : Nat) :
    activeSched t n = activeSched s n ∧ hasLonger t n = hasLonger s n ∧ partRec t n = partRec s n := by
  have known : partRec t n = partRec s n := by
    unfold partRec
    rw [h.fw]
  have cores : partCores t n = partCores s n := by
    unfold partCores corePart actB
    simp only [actv_of_act h.act]
  have bank : bankOf t n = bankOf s n := by
    unfold bankOf
    rw [cores]
    simp only [actv_of_act h.act]
  have bank' (b : Nat) : schedIn t n b = schedIn s n b := by
    unfold schedIn
    rw [known]
  have active : activeSched t n = activeSched s n := by
    unfold activeSched
    rw [bank, bank']
  have valid (c b : Nat) : flag t (F.SEQ_BANK_DESC_VALID c b) = flag s (F.SEQ_BANK_DESC_VALID c b) := by
    unfold flag
    rw [h.2 _ (by simp only [F.SEQ_BANK_DESC_VALID, F.MBX_EVT_DROP_CNT]; omega)]
  have standby : standbySched t n = standbySched s n := by
    unfold standbySched
    simp only [bank, cores, valid, bank']
  refine ⟨active, ?_, known⟩
  unfold hasLonger
  rw [active, standby]

theorem NoticeOnly.isSlow {s t : State} (h : NoticeOnly s t) (east : Bool) : isSlow t east = isSlow s east := by
  unfold Machine.isSlow
  rw [h.fw]
  cases east <;> rw [h.2 _ (by decide)]

/-- A partition without a longer schedule is told of the throttle, and nothing more. -/
theorem throttlePart_notice {n : Nat} {s : State} (short : hasLonger s n = false) : NoticeOnly s (throttlePart n s) := by
  unfold throttlePart
  split
  · exact .refl s
  · split
    · exact .refl s
    · rw [short]
      exact thermalNote_notice ..

theorem throttleParts_notice {l : List Nat} {s : State} (short : ∀ p ∈ l, hasLonger s p = false) : NoticeOnly s (each l throttlePart s) := by
  induction l generalizing s with
  | nil => exact .refl s
  | cons p l ih =>
    have first := throttlePart_notice (short p List.mem_cons_self)
    exact first.trans (ih fun q hq => (first.schedules q).2.1.trans (short q (List.mem_cons_of_mem _ hq)))

/-- Every partition of the half runs slow and has no longer schedule: the half can be lowered. -/
def lowReady (east : Bool) (s u : State) : Bool :=
  !isSlow u east && (halfParts s east).all fun p => runsSlow (activeSched u p) east && !hasLonger s p

theorem exec_throttleSet_throttled {east : Bool} {s : State} (hot : throttled s east = true) :
    let u := each (halfParts s east) throttlePart s
    exec (.throttleSet east) s = .next (if lowReady east s u then thermalNote none 2 (lowerNow east u) else u) := if_neg (by simp [hot])

theorem lowerNow_calm (east : Bool) (s : State) : calm s (lowerNow east s) := (gated_calm (fun t => fwWrite_calm _ 1 t) s).trans (updFw_calm ..)

/-- A lowered half is slow from the next base boundary, and noted as lowered by throttle. -/
theorem lowerNow_spec (east : Bool) (s : State) :
    get (lowerNow east s) (if east then F.TB_HALF_CLK_EAST_SLOW else F.TB_HALF_CLK_WEST_SLOW) = 1 ∧
      (if east then (lowerNow east s).fw.lowE else (lowerNow east s).fw.lowW) = true := by
  have written (f : Fld) (low : f.key / 8 < 0x600000) (wide : f.width = 1) (gate : ∀ g ∈ gateFields, f.key ≠ g.key) :
      get (gated (fwWrite f 1) s) f = 1 := by
    unfold gated
    split
    · rw [get_fwWrite_low low, wide]
      rfl
    · rw [get_gateRelease gate, get_set_ne (gate _ (by simp [gateFields])), get_fwWrite_low low, wide]
      rfl
  cases east with
  | false => exact ⟨written F.TB_HALF_CLK_WEST_SLOW (by decide) rfl (by decide), Bool.or_true _⟩
  | true => exact ⟨written F.TB_HALF_CLK_EAST_SLOW (by decide) rfl (by decide), Bool.or_true _⟩

section
variable {east : Bool} {s : State} (hot : throttled s east = true)
include hot

theorem throttleLowersHalf (fast : isSlow s east = false)
    (slow : ∀ p, p ∈ halfParts s east → runsSlow (activeSched s p) east = true ∧ hasLonger s p = false) :
    ∃ t, exec (.throttleSet east) s = .next t ∧ get t (if east then F.TB_HALF_CLK_EAST_SLOW else F.TB_HALF_CLK_WEST_SLOW) = 1 ∧
      (if east then t.fw.lowE else t.fw.lowW) = true ∧ t.mem = s.mem ∧ t.cores = s.cores := by
  have told := throttleParts_notice fun p hp => (slow p hp).2
  have ready : lowReady east s (each (halfParts s east) throttlePart s) = true := by
    unfold lowReady
    rw [told.isSlow, fast, Bool.not_false, Bool.true_and, List.all_eq_true]
    intro p hp
    rw [(told.schedules p).1, (slow p hp).1, (slow p hp).2]
    rfl
  obtain ⟨mem, cores, -, -⟩ := lowerNow_calm east (each (halfParts s east) throttlePart s)
  obtain ⟨written, lowered⟩ := lowerNow_spec east (each (halfParts s east) throttlePart s)
  have note := thermalNote_notice none 2 (lowerNow east (each (halfParts s east) throttlePart s))
  refine ⟨_, (exec_throttleSet_throttled hot).trans (congrArg _ (if_pos ready)), ?_, ?_, note.mem.trans (mem.trans told.mem),
    note.cores.trans (cores.trans told.cores)⟩
  · rw [note.2 _ (by cases east <;> decide), written]
  · rw [note.fw, lowered]

theorem throttleWaits (busy : isSlow (each (halfParts s east) throttlePart s) east = true ∨ ∃ p, p ∈ halfParts s east ∧
    (runsSlow (activeSched (each (halfParts s east) throttlePart s) p) east = false ∨ hasLonger s p = true)) :
    exec (.throttleSet east) s = .next (each (halfParts s east) throttlePart s) := by
  refine (exec_throttleSet_throttled hot).trans (congrArg _ (if_neg ?_))
  unfold lowReady
  rw [Bool.and_eq_true, List.all_eq_true, Bool.not_eq_true', not_and_or, Bool.not_eq_false]
  refine busy.imp_right fun ⟨p, hp, no⟩ all => ?_
  have yes := all p hp
  rcases no with h | h <;> simp [h] at yes

end

theorem unplanLow_calm (east : Bool) (s : State) : calm s (unplanLow east s) := by
  unfold unplanLow
  split
  · exact .refl s
  · exact ((updFw_calm ..).trans (.when _ (fun t => (gateAbort_same t).1) _)).trans (planGate_calm _)

theorem raiseHalf_calm (east : Bool) (s : State) : calm s (raiseHalf east s) :=
  ((unplanLow_calm east s).trans (fwWrite_calm ..)).trans (updFw_calm ..)

/-- A half that throttle lowered goes back (R418). -/
theorem throttleEnds {east : Bool} {s : State} (cool : throttled s east = false) (lowered : (if east then s.fw.lowE else s.fw.lowW) = true) :
    ∃ t, exec (.throttleClear east) s = .next t ∧ get t (if east then F.TB_HALF_CLK_EAST_SLOW else F.TB_HALF_CLK_WEST_SLOW) = 0 ∧
      (if east then t.fw.lowE else t.fw.lowW) = false ∧ calm s t := by
  obtain ⟨written, raised⟩ := raiseHalf_spec east s
  exact ⟨_, if_neg (by simp [cool, lowered]), written, raised, raiseHalf_calm east s⟩

/-! ### The end of HOLDOVER (R216) -/

/-- The package at its drift bound. -/
def drifted (s : State) : State :=
  holdover 4 (moveTo (s.time.holdSince + (12500000000 + actv s F.TB_SYNC_LIM_HO_DRIFT - 1) / actv s F.TB_SYNC_LIM_HO_DRIFT) s)

theorem holdoverEnd_drifted {s : State} (holds : sync s = 3) (bound : actv s F.TB_SYNC_LIM_HO_DRIFT ≠ 0) : holdoverEnd s = drifted s :=
  if_neg (by simp [holds, bound, syHoldover])

theorem holdoverEnd_stays {s : State} (no : sync s ≠ 3 ∨ actv s F.TB_SYNC_LIM_HO_DRIFT = 0) : holdoverEnd s = s :=
  if_pos (by
    simp only [Bool.or_eq_true, decide_eq_true_eq]
    exact no)

theorem drifted_spec (s : State) : sync (drifted s) = 4 ∧ get (drifted s) F.TB_STAT_PORT = 15 ∧ (drifted s).mem = s.mem ∧
    (drifted s).cores = s.cores := by
  obtain ⟨state, port, -⟩ := get_holdover 4 (moveTo (s.time.holdSince + (12500000000 + actv s F.TB_SYNC_LIM_HO_DRIFT - 1) / actv s F.TB_SYNC_LIM_HO_DRIFT) s)
  obtain ⟨-, mem, cores, -⟩ := holdover_frame 4 (moveTo (s.time.holdSince + (12500000000 + actv s F.TB_SYNC_LIM_HO_DRIFT - 1) / actv s F.TB_SYNC_LIM_HO_DRIFT) s)
  exact ⟨state, port, mem.trans (moveTo_mem ..), cores.trans (moveTo_cores ..)⟩

theorem exec_holdoverExpire_drifts {s : State} (holds : sync s = 3) (bound : actv s F.TB_SYNC_LIM_HO_DRIFT ≠ 0) :
    exec .holdoverExpire s = .next (upTo 16 (fun n u => if partRuns u n = true then askStop n u else u) (drifted s)) := by
  have ends := holdoverEnd_drifted holds bound
  rw [exec_holdoverExpire]
  unfold execHoldoverExpire
  dsimp only
  rw [ends]
  exact if_pos (by simp [holds, (drifted_spec s).1, syHoldover, syUnsync])

theorem exec_holdoverExpire_stays {s : State} (no : sync s ≠ 3 ∨ actv s F.TB_SYNC_LIM_HO_DRIFT = 0) : exec .holdoverExpire s = .next s := by
  rw [exec_holdoverExpire]
  unfold execHoldoverExpire
  dsimp only
  rw [holdoverEnd_stays no]
  refine if_neg fun ends => ?_
  simp only [Bool.and_eq_true, decide_eq_true_eq] at ends
  exact absurd (ends.1.symm.trans ends.2) (by decide)

/-- The cores run as before, whatever the sync state. -/
theorem partRuns_holdover (st x : Nat) (s : State) (n : Nat) : partRuns (holdover st (moveTo x s)) n = partRuns s n := by
  have only := holdover_flt st (moveTo x s)
  have kept (g : Fld) (high : 0x8000000 ≤ g.key) : get (holdover st (moveTo x s)) g = get s g := by
    refine (only.2 g (.inr (by omega))).trans ?_
    rw [get_bump_ne, get_set_ne, get_set_ne, get_moveTo_ne]
    all_goals
      simp only [F.TB_TIME_TIME, F.TB_STAT_SYNC, F.TB_STAT_PORT, F.TB_HOLDOVER_CNT]
      omega
  have act : (holdover st (moveTo x s)).act = s.act := (congrArg State.act only.1).trans (moveTo_act x s)
  generalize holdover st (moveTo x s) = t at *
  have part : corePart t = corePart s := by
    funext c
    unfold corePart actB
    rw [actv_of_act act, actv_of_act act]
  have runs : runsOrPend t = runsOrPend s := by
    funext c
    unfold runsOrPend coreRuns coreState flag
    rw [kept _ (by simp only [F.CORE_CTL_STATE_STATE]; omega), kept _ (by simp only [F.CORE_CTL_STATE_RUN_PEND]; omega)]
  unfold partRuns partCores
  rw [part, runs]

/-- No partition runs, so none is asked to stop. -/
theorem upTo_askStop_idle {m : Nat} {s : State} (idle : ∀ p, p < m → partRuns s p = false) :
    upTo m (fun n u => if partRuns u n = true then askStop n u else u) s = s := by
  induction m with
  | zero => rfl
  | succ m ih =>
    rw [upTo_succ, ih fun p hp => idle p (by omega)]
    exact if_neg (by simp [idle m (by omega)])

theorem holdoverEnds {s : State} (holds : sync s = 3) (bound : actv s F.TB_SYNC_LIM_HO_DRIFT ≠ 0) (idle : ∀ p, p < 16 → partRuns s p = false) :
    ∃ t, exec .holdoverExpire s = .next t ∧ sync t = 4 ∧ get t F.TB_STAT_PORT = 15 ∧ t.mem = s.mem ∧ t.cores = s.cores := by
  refine ⟨drifted s, (exec_holdoverExpire_drifts holds bound).trans (congrArg _ ?_), drifted_spec s⟩
  exact upTo_askStop_idle fun p hp => (partRuns_holdover 4 _ s p).trans (idle p hp)

/-- Settles O46: what a sample shows stays through the work that follows it (`Sampled`), a shut-down is an event of class L4, and throttle
lowers a half once its partitions have been told. -/
theorem sensorsAndThrottleAct : Obligations.SensorsAndThrottleAct := by
  refine ⟨fun i v east s => ⟨coolSampleIsShown i, hotSampleShutsDown i, invalidSampleMarks i, silentSensorClearsItsFlags i,
    silentSensorsShutDown i, warningChangeIsReported i east⟩, thresholdsAndControlsAct, fun east n s => ⟨fun hot fast _ => throttleLowersHalf hot fast,
    fun hot => throttleWaits hot, fun cool => if_pos (by simp [cool]), fun coord longer => ?_, fun all other => if_pos (by simp [other]),
    fun all coord short => ?_, fun cool _ => throttleEnds cool, holdoverEnds, exec_holdoverExpire_stays, exec_holdoverExpire_drifts⟩⟩
  · exact (if_neg (by simp [coord])).trans (if_pos (by simp [longer]))
  · exact (if_neg (by simp [coord])).trans (if_neg (by simp [short]))

end Sys2Proof.Machine

namespace Sys2Proof.Machine

/-! ### The end of a conversion (R425) -/

/-- The result registers of a channel. -/
def convShown (ch code : Nat) (ovr : Bool) (s : State) : State :=
  s |> set (F.TEL_RES_CODE ch) code |> setB (F.TEL_RES_OVR ch) ovr |> setB (F.TEL_RES_LP ch) s.thm.lp |> setB (F.TEL_RES_MAINS ch) s.thm.mains
    |> setB (F.TEL_RES_VALID ch) true |> set (F.TEL_RES_SEQ ch) (get s (F.TEL_RES_SEQ ch) + 1) |> set (F.TEL_RES_TIME_TIME ch) (now s)

/-- The counts of conversions and of inputs out of range. -/
def convCounted (ovr : Bool) (s : State) : State := s |> bump F.TEL_CONV_CNT |> when ovr (bump F.TEL_OVR_CNT)

/-- A code outside the enabled limits. -/
def tooLow (s : State) (ch : Nat) (code : Int) : Bool := flag s (F.TEL_LIM_EN ch) && decide (code < geti s (F.TEL_LIM_LO ch))
/-- And above them. -/
def tooHigh (s : State) (ch : Nat) (code : Int) : Bool := flag s (F.TEL_LIM_EN ch) && decide (geti s (F.TEL_LIM_HI ch) < code)

/-- The alarm of a channel: its bits, the count, and the interrupt to the management core. -/
def alarmed (ch : Nat) (low high : Bool) (s : State) : State :=
  if low || high then
    emit .mc .telLimit [ch] (bump F.TEL_LIM_CNT (when high (hwSet F.TEL_ALARM_HI ch) (when low (hwSet F.TEL_ALARM_LO ch) s)))
  else s

theorem exec_telConversionEnd_busy {s : State} (code : BitVec 24) (ovr : Bool) (busy : flag s F.TEL_STAT_BUSY = true) :
    exec (.telConversionEnd code ovr) s = .next (telCheck (get s F.TEL_STAT_CH) code.toInt
      (telStart (convCounted ovr (convShown (get s F.TEL_STAT_CH) code.toNat ovr s)))) := if_neg (by simp [busy])

/-- Outside the start a result is checked for its alarm alone. -/
theorem telCheck_eq {ch : Nat} {code : Int} {s : State} (running : ∀ n, s.fw.phase ≠ .step n) :
    telCheck ch code s = alarmed ch (tooLow s ch code) (tooHigh s ch code) s := by
  unfold telCheck
  dsimp only
  split
  · next n step => exact absurd step (running n)
  · rfl

/-- A counter that counts where a condition holds. -/
theorem get_when_bump_same (f : Fld) (b : Bool) (s : State) :
    get (when b (bump f) s) f = if b then min (get s f + 1) (2 ^ 64 - 1) % 2 ^ f.width else get s f := by
  cases b
  · rfl
  · exact get_bump_same f s

theorem get_when_bump_ne {f g : Fld} (h : g.key ≠ f.key) (b : Bool) (s : State) : get (when b (bump f) s) g = get s g := by
  cases b
  · rfl
  · exact get_bump_ne h s

/-! #### The parts -/

section
variable (ch code : Nat) (ovr : Bool) (s : State)

theorem convShown_spec : get (convShown ch code ovr s) (F.TEL_RES_CODE ch) = code % 2 ^ 24 ∧
    get (convShown ch code ovr s) (F.TEL_RES_OVR ch) = (if ovr then 1 else 0) % 2 ∧
    get (convShown ch code ovr s) (F.TEL_RES_LP ch) = (if s.thm.lp then 1 else 0) % 2 ∧
    get (convShown ch code ovr s) (F.TEL_RES_MAINS ch) = (if s.thm.mains then 1 else 0) % 2 ∧
    get (convShown ch code ovr s) (F.TEL_RES_VALID ch) = 1 ∧
    get (convShown ch code ovr s) (F.TEL_RES_SEQ ch) = (get s (F.TEL_RES_SEQ ch) + 1) % 2 ^ 16 ∧
    get (convShown ch code ovr s) (F.TEL_RES_TIME_TIME ch) = now s % 2 ^ 64 := by
  refine ⟨?_, ?_, ?_, ?_, ?_, ?_, ?_⟩
  all_goals
    unfold convShown setB
    simp (disch := (simp only [F.TEL_RES_CODE, F.TEL_RES_OVR, F.TEL_RES_LP, F.TEL_RES_MAINS, F.TEL_RES_VALID, F.TEL_RES_SEQ,
      F.TEL_RES_TIME_TIME]; omega)) only [get_set_ne, get_set_same]
    rfl

/-- Only the channel's results are written. -/
theorem get_convShown_ne {g : Fld} (code_ : g.key ≠ 0x2400800 + ch * 0x40) (bits_ : g.key < 0x2400818 + ch * 0x40 ∨ 0x240081c + ch * 0x40 ≤ g.key)
    (seq : g.key ≠ 0x2400820 + ch * 0x40) (time : g.key ≠ 0x2401000 + ch * 0x40) : get (convShown ch code ovr s) g = get s g := by
  unfold convShown setB
  rw [get_set_ne time, get_set_ne seq, get_set_ne, get_set_ne, get_set_ne, get_set_ne, get_set_ne code_]
  all_goals
    simp only [F.TEL_RES_OVR, F.TEL_RES_LP, F.TEL_RES_MAINS, F.TEL_RES_VALID]
    omega

theorem convShown_calm : calm s (convShown ch code ovr s) ∧ (convShown ch code ovr s).fw = s.fw := ⟨⟨rfl, rfl, rfl, rfl⟩, rfl⟩

theorem convCounted_calm : calm s (convCounted ovr s) ∧ (convCounted ovr s).fw = s.fw := by
  cases ovr <;> exact ⟨⟨rfl, rfl, rfl, rfl⟩, rfl⟩

theorem get_convCounted {g : Fld} (low : g.key < 0x2402000 ∨ 0x2402080 ≤ g.key) : get (convCounted ovr s) g = get s g := by
  refine (get_when_bump_ne ?_ ovr _).trans (get_bump_ne ?_ s) <;> simp only [F.TEL_OVR_CNT, F.TEL_CONV_CNT] <;> omega

theorem convCounted_spec : get (convCounted ovr s) F.TEL_CONV_CNT = min (get s F.TEL_CONV_CNT + 1) (2 ^ 64 - 1) % 2 ^ 64 ∧
    get (convCounted ovr s) F.TEL_OVR_CNT = if ovr then min (get s F.TEL_OVR_CNT + 1) (2 ^ 64 - 1) % 2 ^ 64 else get s F.TEL_OVR_CNT := by
  refine ⟨(get_when_bump_ne (by decide) ..).trans (get_bump_same ..), (get_when_bump_same ..).trans ?_⟩
  rw [get_bump_ne (by decide)]
  rfl

/-- The converter turns to its next channel: BUSY, the channel, and the mode it measures in. -/
theorem telStart_spec : calm s (telStart s) ∧ (telStart s).fw = s.fw ∧
    ∀ g : Fld, g.key ≠ F.TEL_STAT_BUSY.key → g.key ≠ F.TEL_STAT_CH.key → get (telStart s) g = get s g := by
  unfold telStart
  split
  · exact ⟨setB_calm .., rfl, fun g busy _ => get_setB_ne busy ..⟩
  · dsimp only
    split
    · exact ⟨setB_calm .., rfl, fun g busy _ => get_setB_ne busy ..⟩
    · exact ⟨⟨rfl, rfl, rfl, rfl⟩, rfl, fun g busy chan => (get_set_ne chan ..).trans (get_setB_ne busy ..)⟩

variable (low high : Bool)

theorem hwSet_flt (f : Fld) (i : Nat) : calm s (hwSet f i s) := ⟨rfl, rfl, rfl, rfl⟩

theorem get_hwSet_ne {f g : Fld} (h : g.key ≠ f.key) (i : Nat) : get (hwSet f i s) g = get s g := get_set_ne h _ s

/-- The alarm bits, before the count. -/
def alarmBits : State := when high (hwSet F.TEL_ALARM_HI ch) (when low (hwSet F.TEL_ALARM_LO ch) s)

theorem get_alarmBits {g : Fld} (lo : g.key ≠ F.TEL_ALARM_LO.key) (hi : g.key ≠ F.TEL_ALARM_HI.key) : get (alarmBits ch s low high) g = get s g := by
  unfold alarmBits when
  split <;> split <;> simp only [get_hwSet_ne, lo, hi, ne_eq, not_false_eq_true]

theorem alarmed_calm : calm s (alarmed ch low high s) := by
  unfold alarmed
  split
  · exact (((calm.when low (fun t => hwSet_flt t ..) s).trans (.when high (fun t => hwSet_flt t ..) _)).trans (set_calm ..)).trans (emit_calm ..)
  · exact .refl s

theorem get_alarmed {g : Fld} (lo : g.key ≠ F.TEL_ALARM_LO.key) (hi : g.key ≠ F.TEL_ALARM_HI.key) (cnt : g.key ≠ F.TEL_LIM_CNT.key) :
    get (alarmed ch low high s) g = get s g := by
  unfold alarmed
  split
  · exact (get_bump_ne cnt _).trans (get_alarmBits ch s low high lo hi)
  · rfl

/-- A hardware bit that is set where a condition holds. -/
theorem getBit_when_hwSet {f : Fld} {i : Nat} (h : i < f.width) (b : Bool) (u : State) : getBit (when b (hwSet f i) u) f i = (b || getBit u f i) := by
  cases b
  · rfl
  · exact getBit_setBit_same h true u

theorem getBit_when_hwSet_ne {f g : Fld} (h : g.key ≠ f.key) (i j : Nat) (b : Bool) (u : State) :
    getBit (when b (hwSet f i) u) g j = getBit u g j := by
  cases b
  · rfl
  · exact getBit_setBit_ne h i j true u

/-- The alarm's bits, its count and its interrupt. -/
theorem alarmed_spec (known : ch < 16) : getBit (alarmed ch low high s) F.TEL_ALARM_LO ch = (low || getBit s F.TEL_ALARM_LO ch) ∧
    getBit (alarmed ch low high s) F.TEL_ALARM_HI ch = (high || getBit s F.TEL_ALARM_HI ch) ∧
    get (alarmed ch low high s) F.TEL_LIM_CNT =
      (if low || high then min (get s F.TEL_LIM_CNT + 1) (2 ^ 64 - 1) % 2 ^ 64 else get s F.TEL_LIM_CNT) ∧
    (low || high → { dst := .mc, topic := .telLimit, args := [ch] : Msg } ∈ (alarmed ch low high s).out) := by
  unfold alarmed
  by_cases any : (low || high) = true
  · rw [if_pos any, if_pos any]
    have lo : getBit (alarmBits ch s low high) F.TEL_ALARM_LO ch = (low || getBit s F.TEL_ALARM_LO ch) :=
      (getBit_when_hwSet_ne (by decide) ..).trans (getBit_when_hwSet (f := F.TEL_ALARM_LO) known ..)
    have hi : getBit (alarmBits ch s low high) F.TEL_ALARM_HI ch = (high || getBit s F.TEL_ALARM_HI ch) :=
      (getBit_when_hwSet (f := F.TEL_ALARM_HI) known ..).trans (congrArg (fun b => high || b) (getBit_when_hwSet_ne (by decide) ..))
    have count : get (bump F.TEL_LIM_CNT (alarmBits ch s low high)) F.TEL_LIM_CNT = min (get s F.TEL_LIM_CNT + 1) (2 ^ 64 - 1) % 2 ^ 64 := by
      rw [get_bump_same, get_alarmBits ch s low high (by decide) (by decide)]
      rfl
    have kept (g : Fld) (h : g.key ≠ F.TEL_LIM_CNT.key) : getBit (bump F.TEL_LIM_CNT (alarmBits ch s low high)) g ch = getBit (alarmBits ch s low high) g ch :=
      congrArg (fun n => bit n ch) (get_bump_ne h _)
    exact ⟨(kept _ (by decide)).trans lo, (kept _ (by decide)).trans hi, count, fun _ => List.mem_append_right _ List.mem_cons_self⟩
  · rw [if_neg any, if_neg any]
    simp only [Bool.or_eq_true, not_or, Bool.not_eq_true] at any
    rw [any.1, any.2]
    exact ⟨rfl, rfl, rfl, fun h => absurd h (by decide)⟩

/-- The result of a conversion, before its limits are checked. -/
def converted (ch code : Nat) (ovr : Bool) (s : State) : State := telStart (convCounted ovr (convShown ch code ovr s))

theorem converted_calm : calm s (converted ch code ovr s) ∧ (converted ch code ovr s).fw = s.fw := by
  obtain ⟨shown, shownFw⟩ := convShown_calm ch code ovr s
  obtain ⟨counted, countedFw⟩ := convCounted_calm ovr (convShown ch code ovr s)
  obtain ⟨started, startedFw, -⟩ := telStart_spec (convCounted ovr (convShown ch code ovr s))
  exact ⟨(shown.trans counted).trans started, startedFw.trans (countedFw.trans shownFw)⟩

/-- A result register is not written again before the limits are checked. -/
theorem get_converted_result {g : Fld} (result : 0x2400800 ≤ g.key) (low : g.key < 0x2402000) :
    get (converted ch code ovr s) g = get (convShown ch code ovr s) g := by
  refine ((telStart_spec _).2.2 g ?_ ?_).trans (get_convCounted ovr _ (.inl low)) <;> simp only [F.TEL_STAT_BUSY, F.TEL_STAT_CH] <;> omega

theorem get_converted_limits {g : Fld} (known : ch < 16) (limits : 0x2400060 ≤ g.key ∧ g.key < 0x2400800 ∨ 0x2401800 ≤ g.key ∧ g.key < 0x2402000 ∨ 0x2402080 ≤ g.key) :
    get (converted ch code ovr s) g = get s g := by
  refine ((telStart_spec _).2.2 g ?_ ?_).trans ((get_convCounted ovr _ (by omega)).trans
    (get_convShown_ne ch code ovr s (by omega) (by omega) (by omega) (by omega))) <;> simp only [F.TEL_STAT_BUSY, F.TEL_STAT_CH] <;> omega

theorem converted_counts (known : ch < 16) : get (converted ch code ovr s) F.TEL_CONV_CNT = min (get s F.TEL_CONV_CNT + 1) (2 ^ 64 - 1) % 2 ^ 64 ∧
    get (converted ch code ovr s) F.TEL_OVR_CNT = if ovr then min (get s F.TEL_OVR_CNT + 1) (2 ^ 64 - 1) % 2 ^ 64 else get s F.TEL_OVR_CNT := by
  have shown (g : Fld) (high : 0x2402000 ≤ g.key) : get (convShown ch code ovr s) g = get s g :=
    get_convShown_ne ch code ovr s (by omega) (by omega) (by omega) (by omega)
  obtain ⟨conv, ovf⟩ := convCounted_spec ovr (convShown ch code ovr s)
  rw [shown F.TEL_OVR_CNT (by decide)] at ovf
  rw [shown F.TEL_CONV_CNT (by decide)] at conv
  exact ⟨((telStart_spec _).2.2 _ (by decide) (by decide)).trans conv, ((telStart_spec _).2.2 _ (by decide) (by decide)).trans ovf⟩

theorem limits_converted (known : ch < 16) (x : Int) :
    tooLow (converted ch code ovr s) ch x = tooLow s ch x ∧ tooHigh (converted ch code ovr s) ch x = tooHigh s ch x := by
  unfold tooLow tooHigh flag geti
  rw [get_converted_limits ch code ovr s (g := F.TEL_LIM_EN ch) known (by simp only [F.TEL_LIM_EN]; omega),
    get_converted_limits ch code ovr s (g := F.TEL_LIM_LO ch) known (by simp only [F.TEL_LIM_LO]; omega),
    get_converted_limits ch code ovr s (g := F.TEL_LIM_HI ch) known (by simp only [F.TEL_LIM_HI]; omega)]
  exact ⟨rfl, rfl⟩

end

theorem flag_of_written {s : State} {f : Fld} {b : Bool} (h : get s f = (if b then 1 else 0) % 2) : flag s f = b := by
  unfold flag
  rw [h]
  cases b <;> rfl

/-- Settles O47: the result is written and counted, then the limits raise the channel's alarm. -/
theorem conversionGivesItsResult : Obligations.ConversionGivesItsResult := by
  intro code ovr s ch low high more busy known running
  obtain ⟨quiet, fw⟩ := converted_calm ch code.toNat ovr s
  obtain ⟨value, ovf, lp, mains, valid, seq, time⟩ := convShown_spec ch code.toNat ovr s
  obtain ⟨conv, ovrs⟩ := converted_counts ch code.toNat ovr s known
  obtain ⟨tooLow_, tooHigh_⟩ := limits_converted ch code.toNat ovr s known code.toInt
  obtain ⟨lo, hi, count, told⟩ := alarmed_spec ch (converted ch code.toNat ovr s) low high known
  have run : exec (.telConversionEnd code ovr) s = .next (alarmed ch low high (converted ch code.toNat ovr s)) := by
    rw [exec_telConversionEnd_busy code ovr busy]
    refine congrArg _ ((telCheck_eq fun n => ?_).trans ?_)
    · exact fw ▸ running n
    · exact congrFun (congr (congrArg (alarmed ch) tooLow_) tooHigh_) _
  have result (g : Fld) (h : 0x2400800 ≤ g.key ∧ g.key < 0x2402000) :
      get (alarmed ch low high (converted ch code.toNat ovr s)) g = get (convShown ch code.toNat ovr s) g := by
    refine (get_alarmed ch _ low high ?_ ?_ ?_).trans (get_converted_result ch code.toNat ovr s h.1 h.2) <;>
      simp only [F.TEL_ALARM_LO, F.TEL_ALARM_HI, F.TEL_LIM_CNT] <;> omega
  have alarm (g : Fld) (h : 0x2400060 ≤ g.key ∧ g.key < 0x2400800) : getBit (converted ch code.toNat ovr s) g ch = getBit s g ch :=
    congrArg (fun n => bit n ch) (get_converted_limits ch code.toNat ovr s known (.inl h))
  refine ⟨_, run, ?_, flag_of_written ?_, flag_of_written ?_, flag_of_written ?_, flag_of_get ?_, ?_, ?_, ?_, ?_, ?_, ?_, ?_, told,
    fun k hk other => ⟨?_, ?_⟩, quiet.trans (alarmed_calm ..)⟩
  · rw [result _ (by simp only [F.TEL_RES_CODE]; omega), value]
    exact Nat.mod_eq_of_lt code.isLt
  · rw [result _ (by simp only [F.TEL_RES_OVR]; omega), ovf]
  · rw [result _ (by simp only [F.TEL_RES_LP]; omega), lp]
  · rw [result _ (by simp only [F.TEL_RES_MAINS]; omega), mains]
  · rw [result _ (by simp only [F.TEL_RES_VALID]; omega), valid]
  · rw [result _ (by simp only [F.TEL_RES_SEQ]; omega), seq]
  · rw [result _ (by simp only [F.TEL_RES_TIME_TIME]; omega), time]
  · rw [lo, alarm _ (by decide)]
  · rw [hi, alarm _ (by decide)]
  · exact count.trans (by rw [get_converted_limits ch code.toNat ovr s known (.inr (.inr (by decide)))])
  · exact (get_alarmed ch _ low high (by decide) (by decide) (by decide)).trans ovrs
  · exact (get_alarmed ch _ low high (by decide) (by decide) (by decide)).trans conv
  · rw [result _ (by simp only [F.TEL_RES_CODE]; omega)]
    refine get_convShown_ne ch code.toNat ovr s ?_ ?_ ?_ ?_ <;> simp only [F.TEL_RES_CODE] <;> omega
  · rw [result _ (by simp only [F.TEL_RES_SEQ]; omega)]
    refine get_convShown_ne ch code.toNat ovr s ?_ ?_ ?_ ?_ <;> simp only [F.TEL_RES_SEQ] <;> omega

end Sys2Proof.Machine

namespace Sys2Proof.Machine

/-! ### Work on the compute domains of every core -/

/-- What work on the cores' compute domains leaves alone: the stacks' bytes, the array cells, the registers below the cores' blocks, and all
but registers, cores and memories. -/
structure ComputeWork (s t : State) : Prop where
  rest : t = { s with regs := t.regs, act := t.act, snap := t.snap, regsM := t.regsM, shadows := t.shadows, cores := t.cores, mem := t.mem }
  stk : t.mem.stk = s.mem.stk
  wts : t.mem.wts = s.mem.wts
  low : ∀ g : Fld, g.key < 0x8000000 → get t g = get s g

theorem ComputeWork.refl (s : State) : ComputeWork s s := ⟨rfl, rfl, rfl, fun _ _ => rfl⟩

theorem ComputeWork.trans {r s t : State} (h : ComputeWork r s) (k : ComputeWork s t) : ComputeWork r t :=
  ⟨k.rest.trans (by rw [h.rest]), k.stk.trans h.stk, k.wts.trans h.wts, fun g hg => (k.low g hg).trans (h.low g hg)⟩

theorem ComputeWork.each {α : Type} (l : List α) {f : α → State → State} (h : ∀ a t, ComputeWork t (f a t)) (s : State) :
    ComputeWork s (each l f s) := each_keeps (P := ComputeWork s) l (.refl s) fun a t ht => ht.trans (h a t)

theorem ComputeWork.set {f : Fld} (high : 0x8000000 ≤ f.key) (v : Nat) (s : State) : ComputeWork s (set f v s) :=
  ⟨rfl, rfl, rfl, fun _ hg => get_set_ne (by omega) v s⟩

theorem ComputeWork.updCore (c : Nat) (f : CoreSt → CoreSt) (s : State) : ComputeWork s (updCore c f s) := ⟨rfl, rfl, rfl, fun _ _ => rfl⟩

theorem DomainWork.computeWork {c : Nat} {s t : State} (h : DomainWork c s t) : ComputeWork s t := ⟨h.rest, h.stk, h.wts, fun _ low => h.get_low low⟩

theorem wipeSpad_computeWork (c : Nat) (s : State) : ComputeWork s (wipeSpad c s) := ⟨rfl, rfl, rfl, fun _ _ => rfl⟩

theorem computeReset_work (s : State) : ComputeWork s (computeReset s) :=
  .each _ (fun c t => ((resetCompute_work t).computeWork (c := c)).trans (wipeSpad_computeWork c _)) s

section
variable {s t : State} (h : ComputeWork s t)
include h

theorem ComputeWork.flag {g : Fld} (low : g.key < 0x8000000) : flag t g = flag s g := by
  unfold Machine.flag
  rw [h.low g low]

theorem ComputeWork.fw : t.fw = s.fw := by rw [h.rest]
theorem ComputeWork.mesh : t.mesh = s.mesh := by rw [h.rest]
theorem ComputeWork.flt : t.flt = s.flt := by rw [h.rest]
theorem ComputeWork.time : t.time = s.time := by rw [h.rest]

end

/-! ### The network plane is reset (Table 1.7) -/

theorem ComputeWork.erase {lo : Nat} (high : 0x1000000 ≤ lo) (hi : Nat) (s : State) : ComputeWork s (eraseRegs lo hi s) :=
  ⟨rfl, rfl, rfl, fun _ _ => get_eraseRegs_outside (.inl (by omega)) s⟩

/-- The cores' blocks beside their compute domains, cleared. -/
def coreBlocksCleared (s : State) : State :=
  each allCores (fun c s => eraseRegs (coreBase c + 0xB0000) (coreBase c + 0x100000) (eraseRegs (coreBase c) (coreBase c + 0x10000) s)) s

theorem coreBase_ge (c : Nat) : 0x1000000 ≤ coreBase c := Nat.le_add_right ..

theorem coreBlocksCleared_work (s : State) : ComputeWork s (coreBlocksCleared s) :=
  .each _ (fun c t => (ComputeWork.erase (coreBase_ge c) _ t).trans (.erase (Nat.le_trans (coreBase_ge c) (Nat.le_add_right ..)) _ _)) s

/-- Registers of the network plane and the stacks, cleared. -/
def netRegsCleared (s : State) : State := eraseRegs 0x3000000 0x4000000 (eraseRegs 0x600000 0x8C0000 (coreBlocksCleared s))

/-- Nothing is queued in the network plane, and the stacks are wiped. -/
def netEmptied (s : State) : State :=
  { s with mesh := [], stks := [], ports := [], inbox := [], seam := [], arb := [], srv := SrvSt.reset
           mem := { s.mem with stk := [], stkPoison := [] } }

theorem netReset_eq (s : State) : netReset s = netEmptied (netRegsCleared s) := rfl

theorem netEmptied_rest (s : State) : (netEmptied s).fw = s.fw ∧ (netEmptied s).mesh = [] ∧ (netEmptied s).mem.stk = [] ∧
    (netEmptied s).mem.wts = s.mem.wts ∧ (netEmptied s).time = s.time ∧ (netEmptied s).regs = s.regs := ⟨rfl, rfl, rfl, rfl, rfl, rfl⟩

theorem netRegsCleared_rest (s : State) : (netRegsCleared s).fw = s.fw ∧ (netRegsCleared s).mem.wts = s.mem.wts ∧ (netRegsCleared s).time = s.time := by
  have work := coreBlocksCleared_work s
  rw [netRegsCleared, eraseRegs_fw, eraseRegs_fw, eraseRegs_mem, eraseRegs_mem, eraseRegs_time, eraseRegs_time]
  exact ⟨work.fw, work.wts, work.time⟩

/-- What the reset of the network plane does outside registers. -/
theorem netReset_rest (s : State) : (netReset s).fw = s.fw ∧ (netReset s).mesh = [] ∧ (netReset s).mem.stk = [] ∧ (netReset s).mem.wts = s.mem.wts ∧
    (netReset s).time = s.time := by
  obtain ⟨fw, wts, time⟩ := netRegsCleared_rest s
  obtain ⟨fw', mesh, stk, wts', time', -⟩ := netEmptied_rest (netRegsCleared s)
  rw [netReset_eq]
  exact ⟨fw'.trans fw, mesh, stk, wts'.trans wts, time'.trans time⟩

/-! ### Cold resets (R375) -/

/-- A cold reset before the fused fields and its cause are shown; of the memories `m` it leaves the array cells. -/
def coldBase (m : Mems) (s : State) : State :=
  { State.reset with
    pending := s.pending, mem := { Mems.empty with wts := m.wts, undef := m.undef }, badArr := s.badArr
    fw := flashOnly s.fw, out := s.out, free := s.free, pwroff := s.pwroff, phys := { s.phys with ofs := -(age s : Int) } }

/-- A cold reset with the arrays that the fuses list as bad. -/
def coldArrays (s : State) : State := each s.badArr (fun a s => set (F.ARR_STAT_STATE (a / 2624) (a % 2624)) 0 s) (coldBase (computeReset s).mem s)

theorem coldReset_eq (cause : Fld) (s : State) :
    coldReset cause s = setB cause true (each fuseFields (fun f x => set f (get s f) x) (coldArrays s)) := rfl

theorem coldArrays_rest (s : State) : coldArrays s = { coldBase (computeReset s).mem s with regs := (coldArrays s).regs } :=
  each_keeps (P := fun t => t = { coldBase (computeReset s).mem s with regs := t.regs }) _ rfl fun a t ht => by
    rw [ht]
    rfl

/-- Registers apart, a cold reset leaves what `coldBase` shows. -/
theorem coldReset_rest (cause : Fld) (s : State) : coldReset cause s = { coldBase (computeReset s).mem s with regs := (coldReset cause s).regs } := by
  rw [coldReset_eq, coldArrays_rest]
  rfl

/-- The cause shows, and the fused life cycle beside it. -/
theorem coldReset_shows {cause : Fld} (one : cause.width = 1) (other : cause.key ≠ F.LC_STATE_STATE.key) (s : State) :
    flag (coldReset cause s) cause = true ∧ get (coldReset cause s) F.LC_STATE_STATE = get s F.LC_STATE_STATE % 8 := by
  have fused : each fuseFields (fun f x => set f (get s f) x) (coldArrays s) = (coldArrays s |> set F.LC_STATE_STATE (get s F.LC_STATE_STATE)
      |> set F.LC_STATE_FI_EN (get s F.LC_STATE_FI_EN) |> set F.LC_STATE_SLOTS (get s F.LC_STATE_SLOTS)
      |> set F.LC_OWN_SEQ_SEQ (get s F.LC_OWN_SEQ_SEQ)) := rfl
  rw [coldReset_eq, fused]
  refine ⟨flag_of_get ?_, ?_⟩
  · rw [get_setB_same, one]
    rfl
  · rw [get_setB_ne other.symm, get_set_ne (by decide), get_set_ne (by decide), get_set_ne (by decide), get_set_same]
    rfl

end Sys2Proof.Machine

namespace Sys2Proof.Machine

/-- What a cold reset leaves: the start is at step 0, flash, fuses and array cells stay, and all else is as at power-on (R375). -/
structure ColdStart (s t : State) : Prop where
  phase : t.fw.phase = .step 0
  log : t.fw.log = s.fw.log
  plan : t.fw.plan = s.fw.plan
  cycles : t.fw.cycles = s.fw.cycles
  boot : t.fw.boot = s.fw.boot
  stk : t.mem.stk = []
  spad : t.mem.spad = []
  prog : t.mem.prog = []
  wts : t.mem.wts = s.mem.wts
  mesh : t.mesh = []
  cores : t.cores = State.reset.cores
  pending : t.pending = s.pending
  badArr : t.badArr = s.badArr
  pwroff : t.pwroff = s.pwroff
  tap : t.tap.testLogicReset = true

theorem coldBase_start {m : Mems} {s : State} (cells : m.wts = s.mem.wts) : ColdStart s (coldBase m s) :=
  ⟨rfl, rfl, rfl, rfl, rfl, rfl, rfl, rfl, cells, rfl, rfl, rfl, rfl, rfl, rfl⟩

/-- Registers do not count in it. -/
theorem ColdStart.of_rest {s t u : State} (h : ColdStart s t) (rest : u = { t with regs := u.regs }) : ColdStart s u := by
  rw [rest]
  exact ⟨h.phase, h.log, h.plan, h.cycles, h.boot, h.stk, h.spad, h.prog, h.wts, h.mesh, h.cores, h.pending, h.badArr, h.pwroff, h.tap⟩

theorem coldReset_start (cause : Fld) (s : State) : ColdStart s (coldReset cause s) := (coldBase_start (computeReset_work s).wts).of_rest (coldReset_rest cause s)

/-- A cold reset at another state that keeps flash, fuses and cells. -/
theorem ColdStart.of_same {r s t : State} (h : ColdStart s t) (fw : s.fw = r.fw) (mem : s.mem = r.mem) (pending : s.pending = r.pending)
    (badArr : s.badArr = r.badArr) (pwroff : s.pwroff = r.pwroff) : ColdStart r t :=
  { h with log := fw ▸ h.log, plan := fw ▸ h.plan, cycles := fw ▸ h.cycles, boot := fw ▸ h.boot, wts := mem ▸ h.wts,
           pending := h.pending.trans pending, badArr := h.badArr.trans badArr, pwroff := h.pwroff.trans pwroff }

theorem ColdStart.tapReads {s t : State} (h : ColdStart s t) : tapReads t = some (idcode t) := if_pos (by simp [h.tap])

/-- A command that resets the package cold, perhaps after a change of registers and time alone, does all that the statement of a cold reset says. -/
theorem coldReset_outcome {o : Host.Outcome State Fault Refusal} {cause : Fld} {s u : State} (run : o = .next (coldReset cause u))
    (causes : cause ∈ [F.LC_RST_CAUSE_PIN, F.LC_RST_CAUSE_INTERNAL, F.LC_RST_CAUSE_WATCHDOG, F.LC_RST_CAUSE_POWER_ON])
    (fused : get u F.LC_STATE_STATE = get s F.LC_STATE_STATE) (fw : u.fw = s.fw) (mem : u.mem = s.mem) (pending : u.pending = s.pending)
    (badArr : u.badArr = s.badArr) : ∃ t, o = .next t ∧ flag t cause = true ∧ t.fw.phase = .step 0 ∧ t.fw.log = s.fw.log ∧
      t.fw.plan = s.fw.plan ∧ t.fw.cycles = s.fw.cycles ∧ get t F.LC_STATE_STATE = get s F.LC_STATE_STATE % 8 ∧ t.mem.stk = [] ∧
      t.mem.spad = [] ∧ t.mem.prog = [] ∧ t.mem.wts = s.mem.wts ∧ t.mesh = [] ∧ t.cores = State.reset.cores ∧ t.pending = s.pending ∧
      t.badArr = s.badArr ∧ tapReads t = some (idcode t) := by
  have one : ∀ f ∈ [F.LC_RST_CAUSE_PIN, F.LC_RST_CAUSE_INTERNAL, F.LC_RST_CAUSE_WATCHDOG, F.LC_RST_CAUSE_POWER_ON],
      f.width = 1 ∧ f.key ≠ F.LC_STATE_STATE.key := by decide
  obtain ⟨shows, state⟩ := coldReset_shows (one cause causes).1 (one cause causes).2 u
  have start := coldReset_start cause u
  exact ⟨_, run, shows, start.phase, start.log.trans (by rw [fw]), start.plan.trans (by rw [fw]), start.cycles.trans (by rw [fw]),
    state.trans (by rw [fused]), start.stk, start.spad, start.prog, start.wts.trans (by rw [mem]), start.mesh, start.cores,
    start.pending.trans pending, start.badArr.trans badArr, start.tapReads⟩

/-! ### The commands of a cold reset -/

section
variable {s : State}

theorem exec_sysRstAssert_cold (s : State) : exec .sysRstAssert s = .next (coldReset F.LC_RST_CAUSE_PIN { s with pwroff := false }) := rfl

theorem exec_lcRstCold_on (on : s.fw.phase ≠ .shut) : exec (.lcRstCold .mgmt) s = .next (coldReset F.LC_RST_CAUSE_INTERNAL s) := if_neg on

theorem exec_lcRstCold_shut (shut : s.fw.phase = .shut) : exec (.lcRstCold .mgmt) s = .next s := if_pos shut

/-- The instant at which the watchdog expires. -/
def wdogEnds (s : State) : Nat := s.fw.wdogAt + get s F.LC_WDOG_TIMEOUT_MS * 1000000

theorem exec_watchdogExpire_off (off : get s F.LC_WDOG_TIMEOUT_MS = 0) : exec .watchdogExpire s = .next s := if_pos off

theorem exec_watchdogExpire_running (on : get s F.LC_WDOG_TIMEOUT_MS ≠ 0) (running : ∀ n, s.fw.phase ≠ .step n) :
    exec .watchdogExpire s = .next (coldReset F.LC_RST_CAUSE_WATCHDOG (moveTo (wdogEnds s) s)) := by
  rw [exec_watchdogExpire]
  unfold execWatchdogExpire
  dsimp only
  rw [if_neg on]
  split
  · next n step => exact absurd step (running n)
  · rfl

/-- An expiry during the start, logged as its failure. -/
def wdogFailed (n : Nat) (s : State) : State := logRec [1, 0xB, n, n] (updBoot (fun b => { b with reason := 0xB, detail := n, step := n }) s)

theorem exec_watchdogExpire_starting {n : Nat} (on : get s F.LC_WDOG_TIMEOUT_MS ≠ 0) (step : s.fw.phase = .step n) :
    exec .watchdogExpire s = .next (coldReset F.LC_RST_CAUSE_WATCHDOG (moveTo (wdogEnds s) (wdogFailed n s))) := by
  rw [exec_watchdogExpire]
  unfold execWatchdogExpire
  dsimp only
  rw [if_neg on, step]
  rfl

theorem watchdogFailsStart {n : Nat} (on : get s F.LC_WDOG_TIMEOUT_MS ≠ 0) (step : s.fw.phase = .step n) :
    ∃ t, exec .watchdogExpire s = .next t ∧ flag t F.LC_RST_CAUSE_WATCHDOG = true ∧ t.fw.phase = .step 0 ∧
      t.fw.log = s.fw.log ++ [[1, 0xB, n, n]] ∧ t.fw.boot.reason = 0xB ∧ t.fw.boot.detail = n ∧ t.fw.boot.step = n := by
  obtain ⟨shows, -⟩ := coldReset_shows (cause := F.LC_RST_CAUSE_WATCHDOG) rfl (by decide) (moveTo (wdogEnds s) (wdogFailed n s))
  have start := coldReset_start F.LC_RST_CAUSE_WATCHDOG (moveTo (wdogEnds s) (wdogFailed n s))
  have fw : (moveTo (wdogEnds s) (wdogFailed n s)).fw = (wdogFailed n s).fw := moveTo_fw ..
  have boot : (coldReset F.LC_RST_CAUSE_WATCHDOG (moveTo (wdogEnds s) (wdogFailed n s))).fw.boot = (wdogFailed n s).fw.boot :=
    start.boot.trans (congrArg FwSt.boot fw)
  exact ⟨_, exec_watchdogExpire_starting on step, shows, start.phase, start.log.trans (congrArg FwSt.log fw), congrArg Boot.reason boot,
    congrArg Boot.detail boot, congrArg Boot.step boot⟩

theorem exec_refclkLoss_core_on (on : s.fw.phase = .up ∨ s.fw.phase = .drain ∨ s.fw.phase = .shut) :
    exec (.refclkLoss .core) s = .next (coldReset F.LC_RST_CAUSE_WATCHDOG s) := by
  rw [exec_refclkLoss]
  unfold execRefclkLoss
  rcases on with h | h | h <;> rw [h]

theorem exec_refclkLoss_core_step {n : Nat} (step : s.fw.phase = .step n) : exec (.refclkLoss .core) s =
    if n < 2 then .next s else if n = 2 then .next (failStart 4 0 2 s) else .next (coldReset F.LC_RST_CAUSE_WATCHDOG s) := by
  rw [exec_refclkLoss]
  unfold execRefclkLoss
  rw [step]

theorem exec_refclkLoss_core_held (held : s.fw.phase = .held) : exec (.refclkLoss .core) s = .next s := by
  rw [exec_refclkLoss]
  unfold execRefclkLoss
  rw [held]

theorem exec_powerOnDetect_held (held : s.fw.phase = .held) :
    exec (.powerOnDetect true) s = .next (coldReset F.LC_RST_CAUSE_POWER_ON { s with pwroff := false }) := if_pos held

/-- VDD_AON low holds the package in cold reset (R442). -/
def powerHeld (s : State) : State :=
  updFw (fun k => { k with phase := .held }) (setB F.LC_RST_CAUSE_POWER_ON false (coldReset F.LC_RST_CAUSE_POWER_ON { s with pwroff := false }))

theorem powerHeld_spec (s : State) : (powerHeld s).fw.phase = .held ∧ (powerHeld s).mem.stk = [] ∧ (powerHeld s).pwroff = false := by
  have start := coldReset_start F.LC_RST_CAUSE_POWER_ON { s with pwroff := false }
  exact ⟨rfl, start.stk, start.pwroff⟩

end

end Sys2Proof.Machine

namespace Sys2Proof.Machine

/-! ### Ports that lose their clock, and ports that go down (R374, R445) -/

/-- The ports from `o` on that train fail when their reference clock is lost. -/
def clockLost (o p : Nat) (s : State) : State := if pState s (p + o) = 1 then setP (p + o) 6 (dropLink (p + o) s) else s

theorem pState_clockLost {o p : Nat} (known : p + o < 12) (s : State) (q : PortIx) :
    pState (clockLost o p s) q = if q.val = p + o ∧ pState s q = 1 then 6 else pState s q := by
  unfold clockLost
  by_cases trains : pState s (p + o) = 1
  · obtain ⟨fails, -, -, -, others⟩ := linkLost_movesTo (p := ⟨p + o, known⟩) (n := 6) (by decide) s
    rw [if_pos trains]
    by_cases same : q.val = p + o
    · rw [if_pos ⟨same, same ▸ trains⟩, same]
      exact fails
    · rw [if_neg (fun h : q.val = p + o ∧ pState s q = 1 => same h.1)]
      exact (others q fun h => same (congrArg Fin.val h)).2
  · rw [if_neg trains, if_neg (fun h : q.val = p + o ∧ pState s q = 1 => trains (h.1 ▸ h.2))]

theorem pState_clocksLost {o n : Nat} (known : n + o ≤ 12) (s : State) (q : PortIx) :
    pState (upTo n (clockLost o) s) q = if (o ≤ q.val ∧ q.val < n + o) ∧ pState s q = 1 then 6 else pState s q := by
  induction n with
  | zero => exact (if_neg (by omega)).symm
  | succ n ih =>
    rw [upTo_succ, pState_clockLost (by omega), ih (by omega)]
    by_cases last : q.val = n + o
    · have before : (if (o ≤ q.val ∧ q.val < n + o) ∧ pState s q = 1 then 6 else pState s q) = pState s q := if_neg (by omega)
      rw [before]
      exact if_congr (by omega) rfl rfl
    · rw [if_neg fun h => last h.1]
      exact if_congr (by omega) rfl rfl

theorem clockLoss_west (s : State) : ∃ t, exec (.refclkLoss .sdWest) s = .next t ∧
    ∀ p : PortIx, pState t p = if p.val < 6 ∧ pState s p = 1 then 6 else pState s p :=
  ⟨_, rfl, fun p => (pState_clocksLost (o := 0) (n := 6) (by decide) s p).trans (if_congr (by omega) rfl rfl)⟩

theorem clockLoss_east (s : State) : ∃ t, exec (.refclkLoss .sdEast) s = .next t ∧
    ∀ p : PortIx, pState t p = if 6 ≤ p.val ∧ pState s p = 1 then 6 else pState s p :=
  ⟨_, rfl, fun p => (pState_clocksLost (o := 6) (n := 6) (by decide) s p).trans (if_congr (by
    have := p.isLt
    omega) rfl rfl)⟩

theorem linkGone_spec (s : State) : get (linkGone s) F.GLB_PCIE_STAT_WIDTH = 0 ∧ get (linkGone s) F.GLB_PCIE_STAT_SPEED = 0 ∧ calm s (linkGone s) := by
  unfold linkGone
  refine ⟨?_, ?_, (((set_calm ..).trans (set_calm ..)).trans (setB_calm ..)).trans (setB_calm ..)⟩
  · rw [get_setB_ne (by decide), get_setB_ne (by decide), get_set_same]
    rfl
  · rw [get_setB_ne (by decide), get_setB_ne (by decide), get_set_ne (by decide), get_set_same]
    rfl

/-- What a warm reset's start leaves: the stacks' bytes, and the states of the ports once they are down. -/
structure LinksStand (s t : State) : Prop where
  stk : t.mem.stk = s.mem.stk
  states : ∀ q : PortIx, pState t q = pState s q

theorem LinksStand.refl (s : State) : LinksStand s s := ⟨rfl, fun _ => rfl⟩

theorem LinksStand.trans {r s t : State} (h : LinksStand r s) (k : LinksStand s t) : LinksStand r t :=
  ⟨k.stk.trans h.stk, fun q => (k.states q).trans (h.states q)⟩

theorem LinksStand.each {α : Type} (l : List α) {f : α → State → State} (h : ∀ a t, LinksStand t (f a t)) (s : State) :
    LinksStand s (each l f s) := each_keeps (P := LinksStand s) l (.refl s) fun a t ht => ht.trans (h a t)

theorem ComputeWork.linksStand {s t : State} (h : ComputeWork s t) : LinksStand s t :=
  ⟨h.stk, fun q => h.low _ (show 0x4000020 + q.val * 0x80000 < 0x8000000 by omega)⟩

theorem LinkFrame.linksStand {α : Type} {keep : PortSt → α} {p : PortIx} {s t : State} (h : LinkFrame keep p s t) : LinksStand s t :=
  ⟨congrArg Mems.stk h.mem, h.states⟩

theorem LinksStand.set {f : Fld} (apart : f.key % 0x80000 ≠ 0x20) (v : Nat) (s : State) : LinksStand s (set f v s) :=
  ⟨rfl, fun q => get_set_ne (stateKey_ne apart q) v s⟩

theorem LinksStand.updFw (f : FwSt → FwSt) (s : State) : LinksStand s (updFw f s) := ⟨rfl, fun _ => rfl⟩

theorem NoticeOnly.linksStand {s t : State} (h : NoticeOnly s t) : LinksStand s t := (h.linkFrame (keep := fun _ => ()) (p := 0)).linksStand

theorem showPend_linksStand (f : Nat) (s : State) : LinksStand s (showPend f s) := by
  unfold showPend
  split
  · exact .set (by simp only [F.MBX_FN_PEND]; omega) _ s
  · exact .refl s

theorem toBuffer_linksStand (f addr len : Nat) (bs : List Byte) (s : State) : LinksStand s (toBuffer f addr len bs s) := by
  unfold toBuffer
  split
  · exact .refl s
  · exact (LinksStand.set (f := F.GLB_DMA_WR_BYTE_CNT) (by decide) _ s).trans ⟨rfl, fun _ => rfl⟩

theorem endPend_linksStand (p : Pend) (status : Nat) (result : List Byte) (s : State) : LinksStand s (endPend p status result s) := by
  have shown := (LinksStand.updFw (fun k => { k with pends := k.pends.filter fun x => !(decide (x = p)) }) s).trans (showPend_linksStand p.fn _)
  unfold endPend
  dsimp only
  split
  · exact shown.trans (.set (f := F.MBX_EVT_DROP_CNT) (by decide) _ _)
  · refine LinksStand.trans ?_ (putEvent_notice ..).linksStand
    split
    · exact shown.trans (toBuffer_linksStand ..)
    · exact shown

/-- Every port is down. -/
def portsDown (s : State) : State := upTo 12 (fun p s => setP p 0 (dropLink p s)) s

theorem portsDown_spec {n : Nat} (known : n ≤ 12) (s : State) : (upTo n (fun p s => setP p 0 (dropLink p s)) s).mem = s.mem ∧
    ∀ q : PortIx, q.val < n → pState (upTo n (fun p s => setP p 0 (dropLink p s)) s) q = 0 := by
  induction n with
  | zero => exact ⟨rfl, fun _ h => absurd h (Nat.not_lt_zero _)⟩
  | succ n ih =>
    obtain ⟨mem, down⟩ := ih (by omega)
    obtain ⟨falls, mem', -, -, others⟩ := linkLost_movesTo (p := ⟨n, by omega⟩) (n := 0) (by decide) (upTo n (fun p s => setP p 0 (dropLink p s)) s)
    rw [upTo_succ]
    refine ⟨mem'.trans mem, fun q hq => ?_⟩
    by_cases last : q.val = n
    · have : q = ⟨n, by omega⟩ := Fin.ext last
      rw [this]
      exact falls
    · exact ((others q fun h => last (congrArg Fin.val h)).2).trans (down q (by omega))

/-- The units of every core stop. -/
def unitsStop (c : Nat) (s : State) : State := stopUnits c (if coreRuns s c then abandonTick c s else s)

theorem unitsStop_work (c : Nat) (s : State) : ComputeWork s (unitsStop c s) := by
  unfold unitsStop
  split
  · exact ((abandonTick_work (c := c) s).trans (stopUnits_work _)).computeWork
  · exact (stopUnits_work (c := c) s).computeWork

/-- The cores that are up drain in RESET. -/
def coreDrains (c : Nat) (s : State) : State := updCore c (fun k => { k with draining := true }) (setCoreState c cReset s)

theorem coreDrains_work (c : Nat) (s : State) : ComputeWork s (coreDrains c s) :=
  ((setCoreState_work (c := c) cReset s).trans (.updCore _ _)).computeWork

theorem startWarm_eq (s : State) : ∃ l : List Nat, startWarm s = updFw (fun k => { k with phase := .drain }) (each l coreDrains
    (each allCores unitsStop (endAll (bump F.LC_WARM_RST_CNT (portsDown (updFw (fun k => { k with floods := false }) s)))))) := by
  unfold startWarm portsDown
  exact ⟨_, rfl⟩

/-- A warm reset has started: the package drains, and its ports are down (R374). -/
theorem startWarm_spec (s : State) : (startWarm s).fw.phase = .drain ∧ (startWarm s).mem.stk = s.mem.stk ∧
    ∀ p : PortIx, pState (startWarm s) p = 0 := by
  obtain ⟨l, begun⟩ := startWarm_eq s
  obtain ⟨mem, down⟩ := portsDown_spec (n := 12) (by decide) (updFw (fun k => { k with floods := false }) s)
  have ended (u : State) : LinksStand u (endAll u) := .each _ (fun p t => endPend_linksStand p 0x12 [] t) u
  have stand : LinksStand (portsDown (updFw (fun k => { k with floods := false }) s)) (startWarm s) := by
    rw [begun]
    exact ((((LinksStand.set (f := F.LC_WARM_RST_CNT) (by decide) _ _).trans (ended _)).trans
      (.each _ (fun c t => (unitsStop_work c t).linksStand) _)).trans (.each _ (fun c t => (coreDrains_work c t).linksStand) _)).trans (.updFw ..)
  refine ⟨?_, stand.stk.trans (congrArg Mems.stk mem), fun p => (stand.states p).trans (down p p.isLt)⟩
  rw [begun]
  rfl

end Sys2Proof.Machine

namespace Sys2Proof.Machine

/-! ### The warm reset goes on (R374, R377) -/

/-- The cores no longer drain. -/
def drainsEnded (s : State) : State := each allCores (fun c s => updCore c (fun k => { k with draining := false }) s) s

/-- The collector's pulses may come again. -/
def pulsesAgain (s : State) : State := { s with flt := { s.flt with pulsed3 := false, pulsed4 := false } }

theorem pulsesAgain_rest (s : State) : (pulsesAgain s).fw = s.fw ∧ (pulsesAgain s).mesh = s.mesh ∧ (pulsesAgain s).mem = s.mem := ⟨rfl, rfl, rfl⟩

/-- Compute domains, network plane and stacks are reset. -/
def warmCleared (s : State) : State := pulsesAgain (drainsEnded (netReset (computeReset s)))

theorem warmCleared_spec (s : State) : (warmCleared s).fw = s.fw ∧ (warmCleared s).mesh = [] ∧ (warmCleared s).mem.stk = [] := by
  obtain ⟨fw, mesh, stk, -⟩ := netReset_rest (computeReset s)
  have work : ComputeWork (netReset (computeReset s)) (drainsEnded (netReset (computeReset s))) := .each _ (fun c t => .updCore c _ t) _
  obtain ⟨fw', mesh', mem'⟩ := pulsesAgain_rest (drainsEnded (netReset (computeReset s)))
  rw [warmCleared, fw', mesh', mem', work.fw, work.mesh, work.stk, fw, mesh, stk, (computeReset_work s).fw]
  exact ⟨rfl, rfl, rfl⟩

/-- What firmware keeps of a package after a warm reset: its partitions and its work are gone. -/
def warmFw (k : FwSt) : FwSt :=
  { k with
    phase := .step 2
    parts := []
    models := k.models.map fun (m : Model) => { m with golden := false, bound := false }
    placed := none
    retryAt := []
    watches := []
    asks := []
    displaced := []
    suspects := []
    deferAt := []
    lowW := false
    lowE := false }

/-- The package is in START again, at step 2. -/
def warmShown (s : State) : State :=
  updFw warmFw (s |> set F.GLB_MODE_MODE 0 |> setB F.MBX_CTL_MINIMAL false |> setB F.LC_START_MINIMAL false)

theorem proceedWarm_eq (s : State) : proceedWarm s = warmShown (updPin (setB F.FLT_STAT_SAFE false (warmCleared s))) := rfl

theorem FltOnly.fw {s t : State} (h : FltOnly s t) : t.fw = s.fw := by rw [h.1]

theorem get_updFw (f : FwSt → FwSt) (s : State) (g : Fld) : get (updFw f s) g = get s g := rfl

theorem warmShown_spec (s : State) : (warmShown s).fw = warmFw s.fw ∧ (warmShown s).mesh = s.mesh ∧ (warmShown s).mem = s.mem ∧
    get (warmShown s) F.GLB_MODE_MODE = 0 ∧ get (warmShown s) F.FLT_STAT_SAFE = get s F.FLT_STAT_SAFE := by
  unfold warmShown
  refine ⟨rfl, rfl, rfl, ?_, ?_⟩
  · rw [get_updFw, get_setB_ne (by decide), get_setB_ne (by decide), get_set_same, Nat.zero_mod]
  · rw [get_updFw, get_setB_ne (by decide), get_setB_ne (by decide), get_set_ne (by decide)]

theorem proceedWarm_spec (s : State) : (proceedWarm s).fw.phase = .step 2 ∧ (proceedWarm s).fw.parts = [] ∧ get (proceedWarm s) F.GLB_MODE_MODE = 0 ∧
    flag (proceedWarm s) F.FLT_STAT_SAFE = false ∧ (proceedWarm s).mesh = [] ∧ (proceedWarm s).mem.stk = [] ∧
    (proceedWarm s).fw.plan = s.fw.plan ∧ (proceedWarm s).fw.log = s.fw.log := by
  obtain ⟨fw, mesh, stk⟩ := warmCleared_spec s
  have pin := updPin_flt (setB F.FLT_STAT_SAFE false (warmCleared s))
  have fw' : (updPin (setB F.FLT_STAT_SAFE false (warmCleared s))).fw = s.fw := by
    rw [pin.fw, setB_fw, fw]
  obtain ⟨shown, mesh', mem', mode, safe⟩ := warmShown_spec (updPin (setB F.FLT_STAT_SAFE false (warmCleared s)))
  rw [get_updPin _ (by decide) (by decide), get_setB_same] at safe
  rw [fw'] at shown
  rw [pin.mesh, setB_mesh, mesh] at mesh'
  rw [pin.mem, setB_mem] at mem'
  rw [proceedWarm_eq, shown, mesh', mem', stk]
  exact ⟨rfl, rfl, mode, flag_of_get_zero safe, rfl, rfl, rfl, rfl⟩

/-! ### Cluster resets (R372) -/

/-- The reset of one core of a cluster. -/
def clusterCore (c : Nat) (s : State) : State := startReset c (bump F.LC_CORE_RST_CNT s)

theorem clusterCore_spec {c : Nat} (hc : c < 20) (s : State) : coreState (clusterCore c s) c = 1 ∧
    (∀ d, d < 20 → d ≠ c → coreState (clusterCore c s) d = coreState s d) ∧
    get (clusterCore c s) F.LC_CLUSTER_RST_CNT = get s F.LC_CLUSTER_RST_CNT := by
  have work := resetBegun_work c (bump F.LC_CORE_RST_CNT s)
  have told := startReset_reports hc (bump F.LC_CORE_RST_CNT s)
  obtain ⟨state, -⟩ := resetBegun_spec c (bump F.LC_CORE_RST_CNT s)
  refine ⟨(told.coreState c).trans state, fun d hd other => ?_, ?_⟩
  · exact (told.coreState d).trans ((work.coreState_other other hd).trans (get_bump_ne (by simp only [F.CORE_CTL_STATE_STATE, F.LC_CORE_RST_CNT]; omega) s))
  · exact (told.2 _ (.inr (by decide))).trans ((work.get_low (by decide)).trans (get_bump_ne (by decide) s))

theorem clusterCores_spec {l : List Nat} (cores : ∀ c ∈ l, c < 20) (s : State) :
    (∀ c, c < 20 → coreState (each l clusterCore s) c = if c ∈ l then 1 else coreState s c) ∧
    get (each l clusterCore s) F.LC_CLUSTER_RST_CNT = get s F.LC_CLUSTER_RST_CNT := by
  induction l generalizing s with
  | nil => exact ⟨fun c _ => (if_neg List.not_mem_nil).symm, rfl⟩
  | cons a l ih =>
    obtain ⟨first, others, count⟩ := clusterCore_spec (cores a List.mem_cons_self) s
    obtain ⟨states, counts⟩ := ih (fun c hc => cores c (List.mem_cons_of_mem a hc)) (clusterCore a s)
    refine ⟨fun c hc => ?_, counts.trans count⟩
    rw [each_cons, states c hc]
    by_cases rest : c ∈ l
    · rw [if_pos rest, if_pos (List.mem_cons_of_mem a rest)]
    · rw [if_neg rest]
      by_cases same : c = a
      · rw [if_pos (same ▸ List.mem_cons_self), same, first]
      · rw [if_neg (by simp [same, rest]), others c hc same]

/-- The cores of a cluster that a cluster reset resets. -/
def clusterHit (k : Nat) (s : State) : List Nat :=
  ((List.range 5).map fun i => 5 * k + i).filter fun c => coreGood s c && (coreState s c == cIdle || coreState s c == cRunning || coreState s c == cFenced)

theorem mem_clusterHit {k c : Nat} {s : State} : c ∈ clusterHit k s ↔ c / 5 = k ∧ coreGood s c = true ∧
    (coreState s c = 2 ∨ coreState s c = 3 ∨ coreState s c = 4) := by
  unfold clusterHit
  rw [List.mem_filter, List.mem_map]
  simp only [List.mem_range, Bool.and_eq_true, Bool.or_eq_true, beq_iff_eq, or_assoc, cIdle, cRunning, cFenced]
  refine and_congr_left fun _ => ⟨fun ⟨i, hi, e⟩ => by omega, fun h => ⟨c % 5, by omega, by omega⟩⟩

theorem resetCluster_eq (k : Nat) (s : State) : resetCluster k s = each (clusterHit k s) clusterCore (bump F.LC_CLUSTER_RST_CNT s) := rfl

theorem clusterIsReset (k : Fin 4) {s : State} (on : s.fw.phase ≠ .shut) : ∃ t, exec (.lcRstCluster .mgmt k) s = .next t ∧
    get t F.LC_CLUSTER_RST_CNT = min (get s F.LC_CLUSTER_RST_CNT + 1) (2 ^ 64 - 1) % 2 ^ 64 ∧
    (∀ c : CoreIx, c.val / 5 = k.val → coreGood s c = true → coreState s c = 2 ∨ coreState s c = 3 ∨ coreState s c = 4 → coreState t c = 1) ∧
    ∀ c : CoreIx, c.val / 5 ≠ k.val → coreState t c = coreState s c := by
  have small : ∀ c ∈ clusterHit k s, c < 20 := fun c hc => by
    have := (mem_clusterHit.1 hc).1
    omega
  obtain ⟨states, count⟩ := clusterCores_spec small (bump F.LC_CLUSTER_RST_CNT s)
  have before (c : Nat) : coreState (bump F.LC_CLUSTER_RST_CNT s) c = coreState s c :=
    get_bump_ne (by simp only [F.CORE_CTL_STATE_STATE, F.LC_CLUSTER_RST_CNT]; omega) s
  refine ⟨_, if_neg on, ?_, fun c near good up => ?_, fun c far => ?_⟩
  · rw [resetCluster_eq, count, get_bump_same]
    rfl
  · rw [resetCluster_eq, states c c.isLt, if_pos (mem_clusterHit.2 ⟨near, good, up⟩)]
  · rw [resetCluster_eq, states c c.isLt, if_neg fun h => far (mem_clusterHit.1 h).1, before]

/-! ### The self-test (R368 to R370) -/

/-- The record of a self-test run, signed. -/
def bistRec (o : BistOut) (s : State) : BistRec :=
  let ver := get s F.GLB_FW_VER_BUILD + 65536 * get s F.GLB_FW_VER_MINOR + 2 ^ 24 * get s F.GLB_FW_VER_MAJOR
  let dom := if o.pass then 0xFF else o.failDom.toNat
  let r : BistRec := { pass := o.pass, failDom := dom, ver := ver, cov := o.cov.toNat, sig := o.sig.toNat
                       pt := s.fw.ptStart + ((now s : Int) - s.time.upOfs).toNat / 1000000000, ms := o.ms.toNat, dev := get s F.GLB_DEV_ID_ID, sign := 0 }
  { r with sign := Config.signed (bistBody r) }

/-- The registers of a self-test run. -/
def bistShown (o : BistOut) (s : State) : State :=
  s |> set F.LC_BIST_STAT_STATE (if o.pass then 2 else 3) |> set F.LC_BIST_STAT_FAIL_DOM (if o.pass then 0xFF else o.failDom.toNat)
    |> set F.LC_BIST_STAT_COV o.cov.toNat |> set F.LC_BIST_SIG_SIG o.sig.toNat

theorem bistEnd_eq (o : BistOut) (s : State) :
    bistEnd o s = updBoot (fun b => { b with bist := (b.bist ++ [bistRec o s]).drop (b.bist.length - 1) }) (bistShown o s) := rfl

theorem get_updBoot (f : Boot → Boot) (s : State) (g : Fld) : get (updBoot f s) g = get s g := rfl

theorem bistShown_spec (o : BistOut) (s : State) : get (bistShown o s) F.LC_BIST_STAT_STATE = (if o.pass then 2 else 3) ∧
    get (bistShown o s) F.LC_BIST_STAT_COV = o.cov.toNat ∧ get (bistShown o s) F.LC_BIST_SIG_SIG = o.sig.toNat := by
  unfold bistShown
  refine ⟨?_, ?_, ?_⟩
  · rw [get_set_ne (by decide), get_set_ne (by decide), get_set_ne (by decide), get_set_same]
    cases o.pass <;> rfl
  · rw [get_set_ne (by decide), get_set_same]
    exact Nat.mod_eq_of_lt o.cov.isLt
  · rw [get_set_same]
    exact Nat.mod_eq_of_lt o.sig.isLt

/-- The boot block keeps the last two records. -/
theorem bistEnd_records (o : BistOut) (s : State) : (bistEnd o s).fw.boot.bist.length ≤ 2 ∧
    ((bistEnd o s).fw.boot.bist.getLast?).map (fun r => r.pass) = some o.pass := by
  have kept : (bistEnd o s).fw.boot.bist = (s.fw.boot.bist ++ [bistRec o s]).drop (s.fw.boot.bist.length - 1) := rfl
  rw [kept]
  refine ⟨?_, ?_⟩
  · rw [List.length_drop, List.length_append, List.length_singleton]
    omega
  · rw [List.getLast?_drop, if_neg (by rw [List.length_append, List.length_singleton]; omega), List.getLast?_append, List.getLast?_singleton]
    rfl

theorem exec_bistDone_passed {o : BistOut} {s : State} (runs : get s F.LC_BIST_STAT_STATE = 1) (ok : ∀ n, s.fw.phase = .step n → o.pass = true) :
    exec (.bistDone o) s = .next (bistEnd o (computeReset (netReset s))) := by
  rw [exec_bistDone]
  unfold execBistDone
  rw [if_neg (by simp [runs])]
  dsimp only
  split
  · next n step => rw [if_pos (ok n step)]
  · rfl

theorem selfTestEnds {o : BistOut} {s : State} (runs : get s F.LC_BIST_STAT_STATE = 1) (ok : ∀ n, s.fw.phase = .step n → o.pass = true) :
    ∃ t, exec (.bistDone o) s = .next t ∧ get t F.LC_BIST_STAT_STATE = (if o.pass then 2 else 3) ∧ get t F.LC_BIST_STAT_COV = o.cov.toNat ∧
      get t F.LC_BIST_SIG_SIG = o.sig.toNat ∧ t.fw.boot.bist.length ≤ 2 ∧ (t.fw.boot.bist.getLast?).map (fun r => r.pass) = some o.pass := by
  obtain ⟨state, cov, sig⟩ := bistShown_spec o (computeReset (netReset s))
  have regs (g : Fld) : get (bistEnd o (computeReset (netReset s))) g = get (bistShown o (computeReset (netReset s))) g := by
    rw [bistEnd_eq, get_updBoot]
  exact ⟨_, exec_bistDone_passed runs ok, (regs _).trans state, (regs _).trans cov, (regs _).trans sig, bistEnd_records o _⟩

end Sys2Proof.Machine

namespace Sys2Proof.Machine

section
variable {s : State}

/-! ### Self-test, powered time, firmware restart and fuses -/

theorem exec_bistRun_runs {a : Tester} (may : get s F.LC_STATE_STATE = 1 ∨ get s F.LC_STATE_STATE ≠ 5 ∧ a = .mgmt ∧ s.fw.phase = .shut)
    (idle : logicIdle s = true) : exec (.bistRun a) s = .next (set F.LC_BIST_STAT_STATE 1 s) := by
  refine (if_neg fun host => ?_).trans (if_pos ?_)
  · simp only [Bool.and_eq_true, decide_eq_true_eq] at host
    rcases may with h | ⟨-, h, -⟩
    · exact host.1 h
    · exact absurd (host.2.symm.trans h) (by decide)
  · simp only [Bool.and_eq_true, Bool.or_eq_true, decide_eq_true_eq, and_assoc]
    exact ⟨may, idle⟩

theorem exec_bistRun_stays {a : Tester} (notHost : a ≠ .host) (no : logicIdle s = false ∨ get s F.LC_STATE_STATE ≠ 1 ∧ (a ≠ .mgmt ∨ s.fw.phase ≠ .shut)) :
    exec (.bistRun a) s = .next s := by
  refine (if_neg fun host => ?_).trans (if_neg fun runs => ?_)
  · simp only [Bool.and_eq_true, decide_eq_true_eq] at host
    exact notHost host.2
  · simp only [Bool.and_eq_true, Bool.or_eq_true, decide_eq_true_eq, and_assoc] at runs
    obtain ⟨may, idle⟩ := runs
    rcases no with h | ⟨state, h⟩
    · rw [h] at idle
      exact absurd idle (by decide)
    · exact may.elim state fun m => h.elim (fun k => k m.2.1) fun k => k m.2.2

theorem exec_bistRun_host (field : get s F.LC_STATE_STATE ≠ 1) : exec (.bistRun .host) s = .next (denied s) :=
  if_pos (by simp only [Bool.and_eq_true, decide_eq_true_eq]; exact ⟨field, trivial⟩)

/-- The powered time goes to the boot block (R369). -/
theorem poweredTimeIsSaved (s : State) : ∃ t, exec .poweredTimeSave s = .next t ∧
    t.fw = { s.fw with boot := { s.fw.boot with base := t.fw.boot.base } } ∧ s.fw.ptStart ≤ t.fw.boot.base ∧ calm s t ∧ sameRegsBut [] s t :=
  ⟨_, rfl, rfl, Nat.le_add_right .., updFw_calm .., sameRegsBut.refl _ s⟩

theorem get_fwUp (c : FwCopy) (s : State) : get (fwUp c s) F.MBX_CTL_UPDATING = 0 ∧ get (fwUp c s) F.MBX_CTL_FW_UP = 1 := by
  unfold fwUp
  refine ⟨?_, get_setB_same ..⟩
  rw [get_setB_ne (by decide), get_setB_same]
  rfl

theorem fwUp_calm (c : FwCopy) (s : State) : calm s (fwUp c s) ∧ (fwUp c s).fw = s.fw := ⟨⟨rfl, rfl, rfl, rfl⟩, rfl⟩

/-- Firmware has come up after an update, in the other copy when that is good. -/
def fwSwitched (good : Bool) (s : State) : State :=
  updFw (fun k => { k with actFailed := !good, boot := { k.boot with
    runB := if good then !k.boot.runB else k.boot.runB
    prefB := if good then !k.boot.runB else k.boot.runB
    staged := false } }) s

theorem exec_firmwareRestartEnd_ends {ok : Bool} (updating : flag s F.MBX_CTL_UPDATING = true) (down : flag s F.MBX_CTL_FW_UP = false) :
    let good := ok && decide (s.phys.rollback ≤ (if s.fw.boot.runB then s.fw.boot.copyA else s.fw.boot.copyB).level)
    ∃ up, exec (.firmwareRestartEnd ok) s = .next (set F.GLB_MODE_MODE up (fwUp (runCopy (fwSwitched good s).fw.boot) (fwSwitched good s))) :=
  ⟨_, if_neg (by simp [updating, down])⟩

theorem firmwareRestarts (ok : Bool) (updating : flag s F.MBX_CTL_UPDATING = true) (down : flag s F.MBX_CTL_FW_UP = false) :
    let good := ok && decide (s.phys.rollback ≤ (if s.fw.boot.runB then s.fw.boot.copyA else s.fw.boot.copyB).level)
    ∃ t, exec (.firmwareRestartEnd ok) s = .next t ∧ flag t F.MBX_CTL_UPDATING = false ∧ flag t F.MBX_CTL_FW_UP = true ∧
      t.fw.actFailed = !good ∧ t.fw.boot.staged = false ∧ t.fw.boot.runB = (if good then !s.fw.boot.runB else s.fw.boot.runB) ∧ calm s t := by
  intro good
  obtain ⟨mode, run⟩ := exec_firmwareRestartEnd_ends (ok := ok) updating down
  obtain ⟨notUpdating, up⟩ := get_fwUp (runCopy (fwSwitched good s).fw.boot) (fwSwitched good s)
  exact ⟨_, run, flag_of_get_zero ((get_set_ne (by decide) ..).trans notUpdating), flag_of_get ((get_set_ne (by decide) ..).trans up),
    rfl, rfl, rfl, ((updFw_calm ..).trans (fwUp_calm ..).1).trans (set_calm ..)⟩

/-- A BLANK device becomes FACTORY_TEST by JTAG. -/
def fuseProgrammed (s : State) : State :=
  { s with tap := { testLogicReset := false, selectsIdcode := false } } |> set F.LC_STATE_STATE 1 |> setB F.LC_STATE_FI_EN true
    |> set F.LC_STATE_SLOTS (get s F.LC_STATE_SLOTS + 1)

theorem exec_jtagFuseProgramming_blank (blank : get s F.LC_STATE_STATE = 0) : exec .jtagFuseProgramming s = .next (fuseProgrammed s) :=
  if_pos (by simp [jtagRights, blank])

theorem exec_jtagFuseProgramming_other (other : get s F.LC_STATE_STATE ≠ 0) : exec .jtagFuseProgramming s = .next s :=
  if_neg (by simp [other])

theorem fuseProgrammed_spec (s : State) : get (fuseProgrammed s) F.LC_STATE_STATE = 1 ∧ flag (fuseProgrammed s) F.LC_STATE_FI_EN = true ∧
    sameRegsBut [F.LC_STATE_STATE, F.LC_STATE_FI_EN, F.LC_STATE_SLOTS] s (fuseProgrammed s) ∧ calm s (fuseProgrammed s) ∧
    (fuseProgrammed s).fw = s.fw ∧ tapReads (fuseProgrammed s) = none := by
  unfold fuseProgrammed
  refine ⟨?_, flag_of_get ?_, ?_, ⟨rfl, rfl, rfl, rfl⟩, rfl, rfl⟩
  · rw [get_set_ne (by decide), get_setB_ne (by decide), get_set_same]
    rfl
  · rw [get_set_ne (by decide), get_setB_same]
    rfl
  · exact (((sameRegsBut.refl _ s).of_eq (t := { s with tap := { testLogicReset := false, selectsIdcode := false } }) rfl rfl).set (by decide) _).setB
      (by decide) _ |>.set (by decide) _

end

/-! ### O57 -/

/-- Cold resets and what else their causes do (R375, R434, R436, R442, R445, R447). -/
theorem coldResetsRun (s : State) :
    let cold := fun (i : Instr) (cause : Fld) => ∃ t, exec i s = .next t ∧ flag t cause = true ∧ t.fw.phase = .step 0 ∧ t.fw.log = s.fw.log ∧
      t.fw.plan = s.fw.plan ∧ t.fw.cycles = s.fw.cycles ∧ get t F.LC_STATE_STATE = get s F.LC_STATE_STATE % 8 ∧ t.mem.stk = [] ∧ t.mem.spad = [] ∧ t.mem.prog = [] ∧
      t.mem.wts = s.mem.wts ∧ t.mesh = [] ∧ t.cores = State.reset.cores ∧ t.pending = s.pending ∧ t.badArr = s.badArr ∧ tapReads t = some (idcode t)
    exec .sysRstAssert s = .next (coldReset F.LC_RST_CAUSE_PIN { s with pwroff := false }) ∧ (cold .sysRstAssert F.LC_RST_CAUSE_PIN) ∧
    (s.fw.phase ≠ .shut → cold (.lcRstCold .mgmt) F.LC_RST_CAUSE_INTERNAL) ∧ (s.fw.phase = .shut → exec (.lcRstCold .mgmt) s = .next s) ∧
    (get s F.LC_WDOG_TIMEOUT_MS ≠ 0 → (∀ n, s.fw.phase ≠ .step n) → cold .watchdogExpire F.LC_RST_CAUSE_WATCHDOG) ∧
    (∀ n, get s F.LC_WDOG_TIMEOUT_MS ≠ 0 → s.fw.phase = .step n → ∃ t, exec .watchdogExpire s = .next t ∧ flag t F.LC_RST_CAUSE_WATCHDOG = true ∧
      t.fw.phase = .step 0 ∧ t.fw.log = s.fw.log ++ [[1, 0xB, n, n]] ∧ t.fw.boot.reason = 0xB ∧ t.fw.boot.detail = n ∧ t.fw.boot.step = n) ∧
    (get s F.LC_WDOG_TIMEOUT_MS = 0 → exec .watchdogExpire s = .next s) ∧
    (exec (.lcRstCold .host) s = .next (denied s) ∧ exec (.watchdogKick .host) s = .next (denied s)) ∧
    (s.fw.phase = .up ∨ s.fw.phase = .drain ∨ s.fw.phase = .shut → cold (.refclkLoss .core) F.LC_RST_CAUSE_WATCHDOG) ∧
    (∀ n, s.fw.phase = .step n → (n < 2 → exec (.refclkLoss .core) s = .next s) ∧
      (n = 2 → exec (.refclkLoss .core) s = .next (failStart 4 0 2 s)) ∧ (2 < n → cold (.refclkLoss .core) F.LC_RST_CAUSE_WATCHDOG)) ∧
    (s.fw.phase = .held → exec (.refclkLoss .core) s = .next s) ∧
    (∃ t, exec (.refclkLoss .sdWest) s = .next t ∧ ∀ p : PortIx, pState t p = if p.val < 6 ∧ pState s p = 1 then 6 else pState s p) ∧
    (∃ t, exec (.refclkLoss .sdEast) s = .next t ∧ ∀ p : PortIx, pState t p = if 6 ≤ p.val ∧ pState s p = 1 then 6 else pState s p) ∧
    (s.fw.phase = .held → cold (.powerOnDetect true) F.LC_RST_CAUSE_POWER_ON) ∧
    (∃ t, exec (.powerOnDetect false) s = .next t ∧ t.fw.phase = .held ∧ t.mem.stk = [] ∧ t.pwroff = false) ∧
    (s.fw.phase ≠ .held → exec (.powerOnDetect true) s = .next s) ∧
    (exec (.watchdogKick .mgmt) s = .next (updFw (fun k => { k with wdogAt := now s }) s)) ∧
    (∃ t, exec (.refclkLoss .px) s = .next t ∧ get t F.GLB_PCIE_STAT_WIDTH = 0 ∧ get t F.GLB_PCIE_STAT_SPEED = 0 ∧ calm s t) := by
  intro cold
  have same {i : Instr} {cause : Fld} (run : exec i s = .next (coldReset cause s))
      (causes : cause ∈ [F.LC_RST_CAUSE_PIN, F.LC_RST_CAUSE_INTERNAL, F.LC_RST_CAUSE_WATCHDOG, F.LC_RST_CAUSE_POWER_ON]) : cold i cause :=
    coldReset_outcome run causes rfl rfl rfl rfl rfl
  refine ⟨rfl, coldReset_outcome (exec_sysRstAssert_cold s) (by decide) rfl rfl rfl rfl rfl, fun on => same (exec_lcRstCold_on on) (by decide),
    exec_lcRstCold_shut, fun on running => ?_, fun n on step => watchdogFailsStart on step, exec_watchdogExpire_off, ⟨rfl, rfl⟩,
    fun on => same (exec_refclkLoss_core_on on) (by decide), fun n step => ⟨fun low => ?_, fun two => ?_, fun high => same ?_ (by decide)⟩,
    exec_refclkLoss_core_held, clockLoss_west s, clockLoss_east s,
    fun held => coldReset_outcome (exec_powerOnDetect_held held) (by decide) rfl rfl rfl rfl rfl, ⟨_, rfl, powerHeld_spec s⟩,
    fun on => if_neg on, rfl, ⟨_, rfl, linkGone_spec s⟩⟩
  · exact coldReset_outcome (exec_watchdogExpire_running on running) (by decide) (get_moveTo_ne (by decide) ..) (moveTo_fw ..) (moveTo_mem ..)
      (moveTo_pending ..) (moveTo_badArr ..)
  · exact (exec_refclkLoss_core_step step).trans (if_pos low)
  · exact (exec_refclkLoss_core_step step).trans ((if_neg (by omega)).trans (if_pos two))
  · exact (exec_refclkLoss_core_step step).trans ((if_neg (by omega)).trans (if_neg (by omega)))

/-- Settles O57: a cold reset leaves what `ColdStart` says and its cause; a warm one drains (`startWarm_spec`) and goes on
(`proceedWarm_spec`). That the partitions of the package are gone after a warm reset, and the reason recorded when the watchdog expires during
the start, are the model's choice (log entry 53); that a package that is shut down takes no reset by LC_RST is R371 with log entry 67. -/
theorem resetsRun : Obligations.ResetsRun := by
  refine ⟨coldResetsRun, fun k o ok s => ?_⟩
  have field (a : Tester) (notHost : a ≠ .host) (no : get s F.LC_STATE_STATE ≠ 1 ∧ (a ≠ .mgmt ∨ s.fw.phase ≠ .shut)) :
      exec (.bistRun a) s = .next s := exec_bistRun_stays notHost (.inr no)
  refine ⟨fun up on => ⟨_, if_neg (by simp [up, on]), rfl, startWarm_spec s⟩, fun down => if_pos (by simpa using down), fun shut => if_pos shut,
    fun drains empty => ⟨_, if_pos (by simp [drains, empty]), proceedWarm_spec s⟩,
    fun drains => ⟨_, if_pos drains, proceedWarm_spec (bump F.LC_DRAIN_TMO_CNT s)⟩, clusterIsReset k,
    fun idle factory a => exec_bistRun_runs (.inl factory) idle, fun idle live shut => exec_bistRun_runs (.inr ⟨live, rfl, shut⟩) idle,
    fun other => ⟨exec_bistRun_host other, field .jtag (by decide) ⟨other, .inl (by decide)⟩, fun on => field .mgmt (by decide) ⟨other, .inr on⟩⟩,
    fun busy => exec_bistRun_stays (by decide) (.inl busy), selfTestEnds, fun done => if_pos done, poweredTimeIsSaved s, firmwareRestarts ok,
    fun blank => ⟨_, exec_jtagFuseProgramming_blank blank, fuseProgrammed_spec s⟩, exec_jtagFuseProgramming_other⟩

end Sys2Proof.Machine

namespace Sys2Proof.Machine

/-! ### A plan that names more ports than a package has (R363)

`planPort` writes TB_ASYM of the port it counts, and the model bounds no record's ports: the write for the record at `farPort` falls on FAB_STAT.STATE
of port 0. -/

/-- The position of a port record whose TB_ASYM lies at FAB_STAT.STATE of port 0. -/
def farPort : Nat := 1572817

theorem asym_farPort : (F.TB_ASYM_ASYM farPort).key = (F.FAB_STAT_STATE 0).key := by decide

theorem asym_ne_of_near {p : Nat} (near : p ≠ farPort) : (F.FAB_STAT_STATE 0).key ≠ (F.TB_ASYM_ASYM p).key := by
  simp only [F.FAB_STAT_STATE, F.TB_ASYM_ASYM, farPort] at *
  omega

/-- What a port's record sets beside its cable's asymmetry. -/
def portLimits (p : Nat) (e : PlanPort) (s : State) : State :=
  s |> set (F.FAB_CTL_DIM p) e.dim |> setB (F.FAB_CTL_DATELINE p) e.dateline |> set (F.FAB_CTL_MEDIA p) e.media
    |> fwWrite (F.FAB_POLICE_BULK_RATE p) e.bulkRate |> fwWrite (F.FAB_POLICE_BULK_BURST p) e.bulkBurst
    |> fwWrite (F.FAB_POLICE_MGMT_RATE p) e.mgmtRate |> fwWrite (F.FAB_POLICE_MGMT_BURST p) e.mgmtBurst

theorem planPort_eq (p : Nat) (e : PlanPort) (s : State) : planPort p e s = set (F.TB_ASYM_ASYM p) e.asym (portLimits p e s) := rfl

theorem pState_portLimits (p : Nat) (e : PlanPort) (s : State) : pState (portLimits p e s) 0 = pState s 0 := by
  unfold pState portLimits
  rw [get_fwWrite_ne, get_fwWrite_ne, get_fwWrite_ne, get_fwWrite_ne, get_set_ne, get_setB_ne, get_set_ne]
  all_goals
    simp only [F.FAB_STAT_STATE, F.FAB_CTL_DIM, F.FAB_CTL_DATELINE, F.FAB_CTL_MEDIA, F.FAB_POLICE_BULK_RATE, F.FAB_POLICE_BULK_BURST,
      F.FAB_POLICE_MGMT_RATE, F.FAB_POLICE_MGMT_BURST, F.GLB_DENIED_CNT]
    omega

theorem pState_planPort (p : Nat) (e : PlanPort) (s : State) :
    pState (planPort p e s) 0 = if p = farPort then e.asym % 2 ^ 16 else pState s 0 := by
  rw [planPort_eq]
  split
  · next far =>
    rw [far]
    unfold pState get
    rw [← asym_farPort]
    exact SMap.get_put_same 0 _ _ _
  · next near => exact (get_set_ne (asym_ne_of_near near) ..).trans (pState_portLimits p e s)

theorem pState_planPorts {l : List PlanPort} {a : Nat} (asym : ∀ e ∈ l, e.asym = a) (s : State) :
    pState (each l.zipIdx (fun (x : PlanPort × Nat) s => planPort x.2 x.1 s) s) 0 = if farPort < l.length then a % 2 ^ 16 else pState s 0 := by
  induction l using List.reverseRecOn with
  | nil => rfl
  | append_singleton l e ih =>
    have last : each (l ++ [e]).zipIdx (fun (x : PlanPort × Nat) s => planPort x.2 x.1 s) s =
        planPort l.length e (each l.zipIdx (fun (x : PlanPort × Nat) s => planPort x.2 x.1 s) s) := by
      rw [List.zipIdx_append, each, List.foldl_append, Nat.zero_add]
      rfl
    rw [last, pState_planPort, ih fun e' he => asym e' (List.mem_append_left _ he), asym e (by simp), List.length_append, List.length_singleton]
    by_cases far : l.length = farPort
    · rw [if_pos far, if_pos (by omega)]
    · rw [if_neg far]
      exact if_congr (by omega) rfl rfl

/-! ### Step 4 with such a plan -/

/-- What a plan sets after its ports' records. -/
theorem pState_planRegs {pl : Plan} {r : PlanPkg} {a : Nat} (asym : ∀ e ∈ r.ports, e.asym = a) (many : farPort < r.ports.length) (s : State) :
    pState (planRegs pl r s) 0 = a % 2 ^ 16 := by
  have off : ∀ f ∈ [F.TB_EPOCH_EPOCH, F.TB_TICK_PERIOD_PERIOD, F.TB_CFG_REJ_CNT, F.TB_SYNC_CFG_PARENT, F.TB_SYNC_CFG_BACKUP, F.TB_STAT_SYNC,
      F.TB_STAT_PORT, F.TB_RATE_PPB, F.TB_STAT_TICK_ON, F.TB_TICK_NUM_K, F.TB_STAT_GUARD, F.TB_CTL_ROLE, F.GLB_DENIED_CNT],
      (F.FAB_STAT_STATE 0).key ≠ f.key := by decide
  have no (f : Fld) (hf : f ∈ [F.TB_EPOCH_EPOCH, F.TB_TICK_PERIOD_PERIOD, F.TB_CFG_REJ_CNT, F.TB_SYNC_CFG_PARENT, F.TB_SYNC_CFG_BACKUP,
      F.TB_STAT_SYNC, F.TB_STAT_PORT, F.TB_RATE_PPB, F.TB_STAT_TICK_ON, F.TB_TICK_NUM_K, F.TB_STAT_GUARD, F.TB_CTL_ROLE, F.GLB_DENIED_CNT])
      (v : Nat) (t : State) : pState (set f v t) 0 = pState t 0 := get_set_ne (off f hf) v t
  have parent (t : State) : pState (noParent t) 0 = pState t 0 := by
    unfold noParent ownTime
    split
    · rw [no _ (by simp), no _ (by simp), no _ (by simp)]
    · rfl
  have tick (t : State) : pState (retick t) 0 = pState t 0 :=
    when_keeps (P := fun u => pState u 0 = pState t 0) _ ((no F.TB_TICK_NUM_K (by simp) _ _).trans (no F.TB_STAT_TICK_ON (by simp) _ t))
      fun u hu => (no F.TB_STAT_GUARD (by simp) _ u).trans hu
  have role (t : State) : pState (fwWrite F.TB_CTL_ROLE 1 t) 0 = pState t 0 := get_fwWrite_ne (by decide) (by decide) ..
  unfold planRegs
  dsimp only
  generalize hu : each r.ports.zipIdx (fun (x : PlanPort × Nat) s => planPort x.2 x.1 s) _ = u
  have ports : pState u 0 = a % 2 ^ 16 := by
    rw [← hu, pState_planPorts asym, if_pos many]
  refine when_keeps (P := fun t => pState t 0 = a % 2 ^ 16) _ ?_ fun t ht => (role t).trans ht
  refine (tick _).trans ((parent _).trans ?_)
  refine when_keeps (P := fun t => pState t 0 = a % 2 ^ 16) _ ?_ fun t ht => (no F.TB_SYNC_CFG_BACKUP (by simp) _ t).trans ht
  refine when_keeps (P := fun t => pState t 0 = a % 2 ^ 16) _ ?_ fun t ht => (no F.TB_SYNC_CFG_PARENT (by simp) _ t).trans ht
  split
  · exact (no F.TB_TICK_PERIOD_PERIOD (by simp) _ _).trans ((no F.TB_EPOCH_EPOCH (by simp) _ u).trans ports)
  · exact (no F.TB_CFG_REJ_CNT (by simp) _ _).trans ((no F.TB_EPOCH_EPOCH (by simp) _ u).trans ports)

/-- Firmware's record of the links when a plan becomes active. -/
def linksForgotten (ends : NSet) (s : State) : State :=
  updFw (fun k => { k with linksBad := ends, linksDown := [], linkSt := [], linksUsed := ends, routesDue := false, floods := false, missing := [] }) s

theorem activatePlan_kept {pl : Plan} {r : PlanPkg} {s : State} (kept : s.fw.planNext = none) (has : s.fw.plan = some pl)
    (own : ∀ t : State, t.regs = s.regs → ownPkg t pl = some r) : ∃ ends, activatePlan s = planRegs pl r (linksForgotten ends s) := by
  refine ⟨allEnds pl, ?_⟩
  unfold activatePlan
  rw [kept]
  dsimp only
  generalize hu : updFw _ s = u
  have forgotten : u = linksForgotten (allEnds pl) s := by
    rw [← hu, has]
    rfl
  have plan : u.fw.plan = some pl := by
    rw [forgotten]
    exact has
  rw [plan]
  dsimp only
  rw [own u (by rw [forgotten]; rfl)]
  dsimp only
  rw [forgotten]

/-- Step 4 trains the ports that are not in use. -/
def portTrained (x : StartIn) (p : Nat) (s : State) : State :=
  if pState s p = 0 then
    setP p 1 (setB (F.FAB_CTL_EN p) true (updPort p (fun k => { k with saved := mayVerify s p && !x.unsaved.any fun q => q.val == p }) s))
  else s

theorem start4_eq (x : StartIn) (s : State) :
    start4 x s = toStep 5 (updFw (fun k => { k with stepFour := true }) (setB F.LC_START_FAST true (upTo 12 (portTrained x) (activatePlan s)))) := rfl

theorem pState_setP_ne {n : Nat} (other : n ≠ 0) (v : Nat) (s : State) : pState (setP n v s) 0 = pState s 0 := by
  have written : pState (set (F.FAB_STAT_STATE n) v s) 0 = pState s 0 := get_set_ne (by simp only [F.FAB_STAT_STATE]; omega) ..
  unfold setP
  dsimp only
  split
  · obtain ⟨-, -, regs, -⟩ := flood_spec n (set (F.FAB_STAT_STATE n) v s)
    have flooded : pState (flood n (set (F.FAB_STAT_STATE n) v s)) 0 = pState s 0 := (get_of_regs regs _).trans written
    exact when_keeps (P := fun t => pState t 0 = pState s 0) _ flooded fun t ht => ((portEvent_linkFrame (keep := fun _ => ()) (p := 0) n t).states 0).trans ht
  · exact written

/-- A port in use stays as it is. -/
theorem pState_portsTrained {x : StartIn} {n : Nat} (known : n ≤ 12) {s : State} (used : pState s 0 ≠ 0) : pState (upTo n (portTrained x) s) 0 = pState s 0 := by
  induction n with
  | zero => rfl
  | succ n ih =>
    rw [upTo_succ]
    have before := ih (by omega)
    generalize upTo n (portTrained x) s = t at *
    rw [← before] at used
    unfold portTrained
    split
    · next free =>
      have other : n ≠ 0 := fun h => used (h ▸ free)
      exact (pState_setP_ne other 1 _).trans ((get_setB_ne (f := F.FAB_CTL_EN n) (g := F.FAB_STAT_STATE 0)
        (by simp only [F.FAB_STAT_STATE, F.FAB_CTL_EN]; omega) ..).trans before)
    · exact before

theorem pState_stepFour (f : FwSt → FwSt) (n : Nat) (s : State) : pState (toStep n (updFw f (setB F.LC_START_FAST true s))) 0 = pState s 0 := by
  unfold pState toStep
  exact (get_set_ne (f := F.LC_START_STEP) (by decide) _ (updFw f (setB F.LC_START_FAST true s))).trans (get_setB_ne (f := F.LC_START_FAST) (by decide) true s)

theorem pState_start4 {pl : Plan} {r : PlanPkg} {a : Nat} (x : StartIn) {s : State} (kept : s.fw.planNext = none) (has : s.fw.plan = some pl)
    (own : ∀ t : State, t.regs = s.regs → ownPkg t pl = some r) (asym : ∀ e ∈ r.ports, e.asym = a) (many : farPort < r.ports.length)
    (used : a % 2 ^ 16 ≠ 0) : pState (start4 x s) 0 = a % 2 ^ 16 := by
  obtain ⟨ends, active⟩ := activatePlan_kept kept has own
  have written : pState (activatePlan s) 0 = a % 2 ^ 16 := by rw [active, pState_planRegs asym many]
  have trained := pState_portsTrained (x := x) (n := 12) (by decide) (s := activatePlan s) (by rw [written]; exact used)
  rw [start4_eq]
  rw [pState_stepFour, trained, written]

/-! ### O58 -/

/-- A record of a port with a cable asymmetry of 5. -/
def skewedPort : PlanPort :=
  { peerId := 0, peerPort := 0, kind := 0, dim := 0, plus := false, dateline := false, media := 0, asym := 5, bulkRate := 0, bulkBurst := 0
    mgmtRate := 0, mgmtBurst := 0 }

/-- This package's record, with `n` ports. -/
def portsPkg (n : Nat) : PlanPkg := { dev := 0, addr := 0, role := 0, parent := 15, backup := 15, ports := List.replicate n skewedPort }

/-- A plan of one package with `n` ports. -/
def portsPlan (n : Nat) : Plan :=
  { image := [], pd := 0, set := 0, id := 0, rev := 0, rows := 1, cols := 1, trays := 1, epoch := 0, period := 1600, root := 0, standby := 0
    spareRows := 0, pkgs := [portsPkg n], switches := [] }

/-- A package at step 4 of its start, with that plan. -/
def portsState (n : Nat) : State := { State.reset with fw := { FwSt.reset with phase := .step 4, plan := some (portsPlan n) } }

/-- A start without failures. -/
def plainStart : StartIn :=
  { fail := none, challenge := 0, bist := { pass := true, failDom := 0, cov := 0, sig := 0, ms := 0 }, unsaved := [], mcodeBad := [], countsLost := []
    windows := [], spares := [], eraseFailed := [] }

theorem ownPkg_portsPlan (n : Nat) {t : State} (h : t.regs = (portsState n).regs) : ownPkg t (portsPlan n) = some (portsPkg n) := by
  have dev : get t F.GLB_DEV_ID_ID = 0 := by
    rw [get_of_regs h]
    rfl
  unfold ownPkg portsPlan
  exact List.find?_cons_of_pos (by rw [dev]; rfl)

/-- Refutes O58: at step 4 with an active plan that gives this package 1,572,818 port records, the TB_ASYM write of the last one falls on
FAB_STAT.STATE of port 0, which is then not idle and does not train. No statement bounds the records of a plan; a plan that is read from
an image has 12 in each. -/
theorem not_startStepsRun : ¬ Obligations.StartStepsRun := by
  intro holds
  obtain ⟨-, -, -, -, -, -, -, -, four, -⟩ := holds plainStart (portsState (farPort + 1))
  obtain ⟨t, -, run, -, -, -, -, trains⟩ := four rfl rfl
  have stuck : pState (start4 plainStart (portsState (farPort + 1))) 0 = 5 :=
    pState_start4 (a := 5) plainStart rfl rfl (fun t h => ownPkg_portsPlan _ h) (fun e he => congrArg PlanPort.asym (List.eq_of_mem_replicate he))
      (by rw [portsPkg, List.length_replicate]; exact Nat.lt_succ_self _) (by decide)
  have trained := trains 0 rfl
  rw [run] at trained
  exact absurd (stuck.symm.trans trained) (by decide)

end Sys2Proof.Machine

namespace Sys2Proof.Machine

/-! ### What an answer leaves (R342, R345) -/

/-- An answer without data leaves firmware's record and everything outside the mailbox. -/
theorem respond_nil_outside (q : YReq) (h : Header) (st : Nat) (s : State) :
    calm s (respond q h st [] s) ∧ (respond q h st [] s).fw = s.fw ∧ slotSt (respond q h st [] s) q.fn q.slot = 2 := by
  rw [respond_nil]
  obtain ⟨rest, fw⟩ := putResponse_outside q.fn q.slot { bareResponse h st with seq := (nextSeq q.fn s).1 } [] (nextSeq q.fn s).2
  exact ⟨calm.trans (s := (nextSeq q.fn s).2) ⟨rfl, rfl, rfl, rfl⟩ rest, fw, (putResponse_frame ..).2.2⟩

theorem coreBase_ne_busy {c ofs : Nat} : ∀ n < 33, 0x8000000 + ofs + c * 0x800000 ≠ (F.MBX_FN_BUSY n).key := fun n hn => by
  simp only [F.MBX_FN_BUSY]
  omega

theorem coreState_respond_nil (q : YReq) (h : Header) (st c : Nat) (s : State) : coreState (respond q h st [] s) c = coreState s c :=
  get_respond_nil q h st s (coreBase_ne_busy (ofs := 0))

theorem coreGood_respond_nil (q : YReq) (h : Header) (st c : Nat) (s : State) : coreGood (respond q h st [] s) c = coreGood s c := by
  unfold coreGood getBit
  rw [get_respond_nil q h st s (by decide)]

theorem get_showPend_ne {g : Fld} (apart : ∀ n < 33, g.key ≠ (F.MBX_FN_PEND n).key) (f : Nat) (s : State) : get (showPend f s) g = get s g := by
  unfold showPend
  split
  · next known => exact get_set_ne (apart f known) ..
  · rfl

theorem showPend_fw (f : Nat) (s : State) : (showPend f s).fw = s.fw := by
  unfold showPend
  split <;> rfl

theorem get_putPage (f ofs : Nat) (bs : List Byte) (s : State) (g : Fld) : get (putPage f ofs bs s) g = get s g := rfl

/-- A PENDING answer changes no field but BUSY and PEND of its function. -/
theorem get_pend_ne {g : Fld} (busy : ∀ n < 33, g.key ≠ (F.MBX_FN_BUSY n).key) (pends : ∀ n < 33, g.key ≠ (F.MBX_FN_PEND n).key)
    (q : YReq) (h : Header) (objs : List Obj) (act : PendAct) (s : State) : get (pend q h objs act s) g = get s g := by
  unfold pend
  dsimp only
  rw [get_of_regs (putResponse_frame ..).1, get_putSlot _ _ _ _ busy]
  generalize hu : updFw _ _ = u
  have noted : get u g = get s g := by
    rw [← hu]
    rfl
  rw [get_putPage]
  exact (get_showPend_ne pends q.fn u).trans noted

/-- A PENDING answer adds its command to firmware's record. -/
theorem pend_fw (q : YReq) (h : Header) (objs : List Obj) (act : PendAct) (s : State) :
    ∃ p : Pend, (pend q h objs act s).fw = { s.fw with pends := s.fw.pends ++ [p] } := by
  unfold pend
  dsimp only
  generalize hp : Pend.mk _ _ _ _ _ _ _ _ _ _ _ = p
  refine ⟨p, ?_⟩
  generalize hu : updFw _ _ = u
  have noted : u.fw = { s.fw with pends := s.fw.pends ++ [p] } := by
    rw [← hu]
    rfl
  exact ((putResponse_outside ..).2.trans (showPend_fw q.fn u)).trans noted

theorem pend_boot_phase (q : YReq) (h : Header) (objs : List Obj) (act : PendAct) (s : State) :
    (pend q h objs act s).fw.boot = s.fw.boot ∧ (pend q h objs act s).fw.phase = s.fw.phase := by
  obtain ⟨p, fw⟩ := pend_fw q h objs act s
  exact ⟨(congrArg FwSt.boot fw).trans rfl, (congrArg FwSt.phase fw).trans rfl⟩

/-! ### What the start of a warm reset leaves of the life cycle (R374, R377) -/

/-- The start-up record and the life-cycle state stay. -/
structure LifeStands (s t : State) : Prop where
  boot : t.fw.boot = s.fw.boot
  state : get t F.LC_STATE_STATE = get s F.LC_STATE_STATE

theorem LifeStands.refl (s : State) : LifeStands s s := ⟨rfl, rfl⟩

theorem LifeStands.trans {r s t : State} (h : LifeStands r s) (k : LifeStands s t) : LifeStands r t := ⟨k.boot.trans h.boot, k.state.trans h.state⟩

theorem LifeStands.each {α : Type} (l : List α) {f : α → State → State} (h : ∀ a t, LifeStands t (f a t)) (s : State) :
    LifeStands s (each l f s) := each_keeps (P := LifeStands s) l (.refl s) fun a t ht => ht.trans (h a t)

theorem LifeStands.set {f : Fld} (other : F.LC_STATE_STATE.key ≠ f.key) (v : Nat) (s : State) : LifeStands s (set f v s) := ⟨rfl, get_set_ne other v s⟩

theorem ComputeWork.lifeStands {s t : State} (h : ComputeWork s t) : LifeStands s t := ⟨congrArg FwSt.boot h.fw, h.low _ (by decide)⟩

theorem NoticeOnly.lifeStands {s t : State} (h : NoticeOnly s t) : LifeStands s t := ⟨congrArg FwSt.boot h.fw, h.2 _ (by decide)⟩

theorem inject_fw (k : Packet) (s : State) : (inject k s).fw = s.fw := by
  unfold inject place
  have counted : ∀ b, (when b (bumpRtr k.src (F.RTR_INJ_CNT k.src)) s).fw = s.fw := fun b =>
    when_keeps (P := fun t => t.fw = s.fw) b rfl fun t ht => when_keeps (P := fun t => t.fw = s.fw) _ ht fun _ h => h
  split <;> exact counted _

theorem tagNack_lifeStands (tag status : Nat) (s : State) : LifeStands s (tagNack tag status s) := by
  unfold tagNack
  dsimp only
  split
  · exact ⟨rfl, rfl⟩
  split
  · exact .refl s
  split
  · exact (LifeStands.set (by decide) _ s).trans (notify_notice ..).lifeStands
  split
  · exact ⟨rfl, rfl⟩
  · exact .refl s

theorem nackLocal_lifeStands (p : Nat) (c : Cell) (status : Nat) (s : State) : LifeStands s (nackLocal p c status s) := by
  unfold nackLocal
  split
  · exact .refl s
  split
  · exact tagNack_lifeStands ..
  split
  · exact ⟨congrArg FwSt.boot (inject_fw ..), get_of_regs (inject_regs (fabNode_outside p) s) _⟩
  · exact .refl s

/-- A port's registers lie apart from the life cycle's. -/
theorem lcState_ne_fab {ofs p : Nat} (high : 0x4000000 ≤ ofs) : F.LC_STATE_STATE.key ≠ ofs + p * 0x80000 := by
  simp only [F.LC_STATE_STATE]
  omega

theorem dropLink_lifeStands (p : Nat) (s : State) : LifeStands s (dropLink p s) := by
  have field {ofs : Nat} (high : 0x4000000 ≤ ofs) (w r v : Nat) (t : State) : LifeStands t (set ⟨ofs + p * 0x80000, w, r⟩ v t) :=
    .set (lcState_ne_fab high) v t
  have discarded (l : List Cell) : LifeStands s (discard p (F.FAB_DROP_LINKDOWN p) 0x16 l s) := by
    refine .each l (fun c t => LifeStands.trans ?_ (field (by decide) _ _ _ _)) s
    split
    · exact nackLocal_lifeStands ..
    · exact .refl t
  have shown (t : State) : LifeStands t (showCredit p t) :=
    ((field (by decide) _ _ _ _).trans (field (by decide) _ _ _ _)).trans (field (by decide) _ _ _ _)
  unfold dropLink
  dsimp only
  refine LifeStands.trans ?_ (shown _)
  refine LifeStands.trans ?_ (field (by decide) _ _ _ _)
  refine LifeStands.trans ?_ (field (by decide) _ _ _ _)
  refine LifeStands.trans ?_ (field (by decide) _ _ _ _)
  exact (discarded _).trans ⟨rfl, rfl⟩

theorem setP_lifeStands (p v : Nat) (s : State) : LifeStands s (setP p v s) := by
  have written : LifeStands s (set (F.FAB_STAT_STATE p) v s) := .set (lcState_ne_fab (by decide)) v s
  unfold setP
  dsimp only
  split
  · have flooded : LifeStands (set (F.FAB_STAT_STATE p) v s) (flood p (set (F.FAB_STAT_STATE p) v s)) := by
      refine ⟨?_, get_of_regs (flood_spec ..).2.2.1 _⟩
      unfold flood linkHeard
      dsimp only
      split <;> rfl
    refine when_keeps (P := LifeStands s) _ (written.trans flooded) fun t ht => ht.trans (LifeStands.trans (s := (freeBytes 1 t).2) ⟨rfl, rfl⟩ ?_)
    exact (notify_notice ..).lifeStands
  · exact written

theorem endPend_lifeStands (p : Pend) (status : Nat) (result : List Byte) (s : State) : LifeStands s (endPend p status result s) := by
  have shown : LifeStands s (showPend p.fn (updFw (fun k => { k with pends := k.pends.filter fun x => !(decide (x = p)) }) s)) :=
    ⟨(congrArg FwSt.boot (showPend_fw p.fn _)).trans rfl, get_showPend_ne (by decide) p.fn _⟩
  have sent (t : State) : LifeStands t (toBuffer p.fn p.buf p.bufLen result t) := by
    unfold toBuffer
    split
    · exact .refl t
    · exact (LifeStands.set (f := F.GLB_DMA_WR_BYTE_CNT) (by decide) _ t).trans ⟨rfl, rfl⟩
  unfold endPend
  dsimp only
  split
  · exact shown.trans (.set (f := F.MBX_EVT_DROP_CNT) (by decide) _ _)
  · refine LifeStands.trans ?_ (putEvent_notice ..).lifeStands
    split
    · exact shown.trans (sent _)
    · exact shown

theorem startWarm_lifeStands (s : State) : LifeStands s (startWarm s) := by
  obtain ⟨l, begun⟩ := startWarm_eq s
  have down : LifeStands (updFw (fun k => { k with floods := false }) s) (portsDown (updFw (fun k => { k with floods := false }) s)) :=
    upTo_keeps (P := LifeStands _) _ (.refl _) fun p t ht => (ht.trans (dropLink_lifeStands p t)).trans (setP_lifeStands ..)
  have ended (u : State) : LifeStands u (endAll u) := .each _ (fun p t => endPend_lifeStands p 0x12 [] t) u
  rw [begun]
  refine LifeStands.trans (LifeStands.trans (s := updFw (fun k => { k with floods := false }) s) ⟨rfl, rfl⟩ down) ?_
  refine ((((LifeStands.set (f := F.LC_WARM_RST_CNT) (by decide) _ _).trans (ended _)).trans
    (.each _ (fun c t => (unitsStop_work c t).lifeStands) _)).trans (.each _ (fun c t => (coreDrains_work c t).lifeStands) _)).trans ⟨rfl, rfl⟩

end Sys2Proof.Machine

namespace Sys2Proof.Machine

/-! ### LC_SET (R379 to R382) -/

theorem lcRequest_of_accepts {r : CmdRow} (op : r.op = 0x0A02) {q : YReq} {range : Bool} {parts : List Nat} {objs : List Obj} {s : State}
    (h : accepts r q range parts objs s) : lcRequest s q = true := by
  obtain ⟨busy, served, opcode, -⟩ := h
  simp [lcRequest, busy, served, opcode, op]

/-- After an LC_SET the challenge is new. -/
theorem newChallenge_of_request {q : YReq} {s : State} (asked : lcRequest s q = true) (v : BitVec 256) (t : State) :
    newChallenge q v s t = set F.LC_CHALLENGE_VALUE v.toNat t := by
  rw [newChallenge, asked]
  rfl

theorem get_challenge_set (v : BitVec 256) (t : State) : get (set F.LC_CHALLENGE_VALUE v.toNat t) F.LC_CHALLENGE_VALUE = v.toNat :=
  (get_set_same ..).trans (Nat.mod_eq_of_lt v.isLt)

/-- LC_STATE.STATE takes every code of Table 13.9. -/
theorem get_lcState_set (dst : Fin 8) (t : State) : get (set F.LC_STATE_STATE dst.val t) F.LC_STATE_STATE = dst.val :=
  (get_set_same ..).trans (Nat.mod_eq_of_lt dst.isLt)

section
variable {q : YReq} {dst : Fin 8} {au : LcAuth} {challenge : BitVec 256} {s : State}

/-- The record of a transition that has begun. -/
def journalled (st dst : Nat) (written : Bool) (s : State) : State := updBoot (fun b => { b with journal := some (st, dst, written) }) s

/-- In minimal mode the slot is programmed, and the erase left pending. -/
def lcChangedMinimal (st : Nat) (dst : Fin 8) (s : State) : State :=
  showStart (updBoot (fun b => { b with journal := some (st, dst.val, true), erasePend := true }) (lcChange dst (journalled st dst false s)))

/-- LC_SET of an authorised transition. -/
theorem exec_lcSet_authorised (h : accepts { op := 0x0A02, min := true } q true [] [.lifeCycle] s) (other : dst.val ≠ get s F.LC_STATE_STATE)
    (parts : anyPart s = false) (idle : loading s = false) (allowed : lcAllowed s (get s F.LC_STATE_STATE) dst = true)
    (auth : lcAuthOk s dst au = true) :
    exec (.lcSet q dst au challenge) s = .next (set F.LC_CHALLENGE_VALUE challenge.toNat (if flag s F.MBX_CTL_MINIMAL then
      updFw sramWipe (startWarm (respond q (reqHeader s q.fn q.slot) 0 [] (lcChangedMinimal (get s F.LC_STATE_STATE) dst s)))
      else pend q (reqHeader s q.fn q.slot) [.lifeCycle] (.lifeCycle dst) (journalled (get s F.LC_STATE_STATE) dst false s))) := by
  rw [exec_lcSet, execLcSet, if_neg (fun k => other (of_decide_eq_true (Bool.and_eq_true_iff.1 k).1)), run_of_accepts _ h,
    newChallenge_of_request (lcRequest_of_accepts rfl h), if_neg (by rw [parts, idle]; decide), if_neg (by rw [allowed]; decide),
    if_neg (by rw [auth]; decide)]
  rfl

/-- The transition of a package in NORMAL is PENDING. -/
theorem lcSet_begins (h : accepts { op := 0x0A02, min := true } q true [] [.lifeCycle] s) (other : dst.val ≠ get s F.LC_STATE_STATE)
    (parts : anyPart s = false) (idle : loading s = false) (allowed : lcAllowed s (get s F.LC_STATE_STATE) dst = true)
    (auth : lcAuthOk s dst au = true) (normal : flag s F.MBX_CTL_MINIMAL = false) : ∃ t, exec (.lcSet q dst au challenge) s = .next t ∧
      get t F.LC_CHALLENGE_VALUE = challenge.toNat ∧ t.fw.boot.journal = some (get s F.LC_STATE_STATE, dst.val, false) ∧
      get t F.LC_STATE_STATE = get s F.LC_STATE_STATE ∧ slotSt t q.fn q.slot = 2 ∧ calm s t := by
  refine ⟨_, exec_lcSet_authorised h other parts idle allowed auth, get_challenge_set .., ?_⟩
  rw [normal, if_neg (by decide)]
  generalize hu : journalled _ _ _ s = u
  have begun : u.fw.boot.journal = some (get s F.LC_STATE_STATE, dst.val, false) ∧ (∀ g, get u g = get s g) ∧ calm s u := by
    rw [← hu]
    exact ⟨rfl, fun _ => rfl, rfl, rfl, rfl, rfl⟩
  obtain ⟨journal, regs, rest⟩ := begun
  obtain ⟨boot, -⟩ := pend_boot_phase q (reqHeader s q.fn q.slot) [.lifeCycle] (.lifeCycle dst) u
  obtain ⟨pended, -, done⟩ := pend_outside q (reqHeader s q.fn q.slot) [.lifeCycle] (.lifeCycle dst) u
  have state := get_pend_ne (g := F.LC_STATE_STATE) (by decide) (by decide) q (reqHeader s q.fn q.slot) [.lifeCycle] (.lifeCycle dst) u
  generalize pend q (reqHeader s q.fn q.slot) [.lifeCycle] (.lifeCycle dst) u = t at *
  refine ⟨?_, ?_, done, (rest.trans pended).trans (set_calm ..)⟩
  · exact (congrArg Boot.journal boot).trans journal
  · rw [get_set_ne (by decide), state, regs]

theorem get_showStart_ne {g : Fld} (apart : ∀ f ∈ [F.LC_START_ATTEMPTS, F.LC_START_REASON, F.LC_START_DETAIL, F.LC_START_STEP, F.LC_START_ERASE_PEND],
    g.key ≠ f.key) (s : State) : get (showStart s) g = get s g := by
  unfold showStart
  dsimp only
  rw [get_setB_ne (apart _ (by simp)), get_set_ne (apart _ (by simp)), get_set_ne (apart _ (by simp)), get_set_ne (apart _ (by simp)),
    get_set_ne (apart _ (by simp))]

theorem lcChangedMinimal_spec (st : Nat) (dst : Fin 8) (s : State) : get (lcChangedMinimal st dst s) F.LC_STATE_STATE = dst.val ∧
    (lcChangedMinimal st dst s).fw.boot.erasePend = true ∧ (lcChangedMinimal st dst s).fw.boot.journal = some (st, dst.val, true) := by
  refine ⟨?_, rfl, rfl⟩
  unfold lcChangedMinimal
  rw [get_showStart_ne (by decide), get_updBoot]
  unfold lcChange
  dsimp only
  rw [get_updFw, get_set_ne (by decide), get_setB_ne (by decide)]
  exact get_lcState_set ..

/-- A transition in minimal mode ends at once, and the package resets warm. -/
theorem lcSet_minimal (h : accepts { op := 0x0A02, min := true } q true [] [.lifeCycle] s) (other : dst.val ≠ get s F.LC_STATE_STATE)
    (parts : anyPart s = false) (idle : loading s = false) (allowed : lcAllowed s (get s F.LC_STATE_STATE) dst = true)
    (auth : lcAuthOk s dst au = true) (minimal : flag s F.MBX_CTL_MINIMAL = true) : ∃ t, exec (.lcSet q dst au challenge) s = .next t ∧
      get t F.LC_CHALLENGE_VALUE = challenge.toNat ∧ get t F.LC_STATE_STATE = dst.val ∧ t.fw.boot.erasePend = true ∧
      t.fw.boot.journal = some (get s F.LC_STATE_STATE, dst.val, true) ∧ t.fw.phase = .drain := by
  refine ⟨_, exec_lcSet_authorised h other parts idle allowed auth, get_challenge_set .., ?_⟩
  rw [minimal, if_pos rfl]
  obtain ⟨state, erase, journal⟩ := lcChangedMinimal_spec (get s F.LC_STATE_STATE) dst s
  generalize lcChangedMinimal (get s F.LC_STATE_STATE) dst s = u at *
  obtain ⟨-, fw, -⟩ := respond_nil_outside q (reqHeader s q.fn q.slot) 0 u
  have answered := get_respond_nil q (reqHeader s q.fn q.slot) 0 u lcState_ne_busy
  generalize respond q (reqHeader s q.fn q.slot) 0 [] u = v at *
  obtain ⟨boot, kept⟩ := startWarm_lifeStands v
  obtain ⟨drains, -⟩ := startWarm_spec v
  generalize startWarm v = w at *
  have record : w.fw.boot = u.fw.boot := boot.trans (congrArg FwSt.boot fw)
  refine ⟨?_, (congrArg Boot.erasePend record).trans erase, (congrArg Boot.journal record).trans journal, drains⟩
  rw [get_set_ne (by decide), get_updFw, kept, answered, state]

/-! ### OWNERSHIP_INSTALL (R381) -/

theorem ownershipInstalled {own : OwnIn} (h : accepts { op := 0x0A02, min := true } q true [] [.lifeCycle] s) (form : own.form = true)
    (same : dst.val = get s F.LC_STATE_STATE) (state : get s F.LC_STATE_STATE = 2 ∨ get s F.LC_STATE_STATE = 3) (parts : anyPart s = false)
    (idle : loading s = false) (signed : own.sig = true) (owner : own.owner = s.fw.own.isSome) (dev : own.dev.toNat = deviceId s)
    (newer : get s F.LC_OWN_SEQ_SEQ < own.seq.toNat) (last : own.seq.toNat ≤ 64) (nImg : own.nImg.toNat ≤ 8) (nInst : own.nInst.toNat ≤ 4)
    (nMgmt : own.nMgmt.toNat ≤ 4) : ∃ t, exec (.ownershipInstall q dst own challenge) s = .next t ∧
      t.fw = { s.fw with own := some own } ∧ get t F.LC_OWN_SEQ_SEQ = own.seq.toNat ∧ get t F.LC_CHALLENGE_VALUE = challenge.toNat ∧
      slotSt t q.fn q.slot = 2 ∧ calm s t := by
  have installed : exec (.ownershipInstall q dst own challenge) s = .next (set F.LC_CHALLENGE_VALUE challenge.toNat
      (respond q (reqHeader s q.fn q.slot) 0 [] (set F.LC_OWN_SEQ_SEQ own.seq.toNat (updFw (fun k => { k with own := some own }) s)))) := by
    rw [exec_ownershipInstall, execOwnershipInstall, if_neg (by simpa [same] using Or.resolve_left state), form, run_of_accepts _ h,
      newChallenge_of_request (lcRequest_of_accepts rfl h), if_neg (by rw [parts, idle]; decide), if_neg (by simp [signed, owner, dev]),
      if_neg (by simp; omega), if_neg (by simp; omega)]
  refine ⟨_, installed, ?_⟩
  generalize hu : set F.LC_OWN_SEQ_SEQ own.seq.toNat (updFw (fun k => { k with own := some own }) s) = u
  have recorded : u.fw = { s.fw with own := some own } ∧ get u F.LC_OWN_SEQ_SEQ = own.seq.toNat ∧ calm s u := by
    rw [← hu]
    exact ⟨rfl, (get_set_same ..).trans (Nat.mod_eq_of_lt (Nat.lt_of_le_of_lt last (by decide))), set_calm ..⟩
  obtain ⟨fw, seq, rest⟩ := recorded
  obtain ⟨answered, fw', done⟩ := respond_nil_outside q (reqHeader s q.fn q.slot) 0 u
  have kept := get_respond_nil q (reqHeader s q.fn q.slot) 0 u (g := F.LC_OWN_SEQ_SEQ) (by decide)
  generalize respond q (reqHeader s q.fn q.slot) 0 [] u = t at *
  refine ⟨fw'.trans fw, ?_, get_challenge_set .., done, (rest.trans answered).trans (set_calm ..)⟩
  rw [get_set_ne (by decide), kept, seq]

end

end Sys2Proof.Machine

namespace Sys2Proof.Machine

/-! ### FW_STAGE and FW_ACTIVATE (R350) -/

section
variable {q : YReq} {s : State}

/-- The inactive copy holds a staged image. -/
def staged (c : FwCopy) (s : State) : State :=
  updBoot (fun b => if b.runB then { b with copyA := c, staged := false } else { b with copyB := c, staged := false }) s

theorem staged_spec (c : FwCopy) (s : State) : (staged c s).fw.boot.staged = false ∧ calm s (staged c s) ∧
    (if s.fw.boot.runB then (staged c s).fw.boot.copyA = c ∧ (staged c s).fw.boot.copyB = s.fw.boot.copyB
      else (staged c s).fw.boot.copyB = c ∧ (staged c s).fw.boot.copyA = s.fw.boot.copyA) := by
  have boot : (staged c s).fw.boot =
      if s.fw.boot.runB then { s.fw.boot with copyA := c, staged := false } else { s.fw.boot with copyB := c, staged := false } := rfl
  rw [boot]
  refine ⟨?_, ⟨rfl, rfl, rfl, rfl⟩, ?_⟩
  · split <;> rfl
  · split <;> exact ⟨rfl, rfl⟩

theorem fromBuffer_fw (f : Nat) (h : Header) (s : State) : (fromBuffer f h s).fw = s.fw :=
  when_keeps (P := fun t => t.fw = s.fw) (f := bumpN F.GLB_DMA_RD_BYTE_CNT h.bufLen) _ rfl fun _ ht => ht

theorem fwStaged {ver : Word} {lvl : Byte} {asks : Bool} (h : accepts { op := 0x0B01, min := true } q true [] [.firmware] s) :
    let copy : FwCopy := { ver := ver.toNat, level := lvl.toNat, asks := asks, ok := false }
    ∃ t, exec (.fwStage q ver lvl asks) s = .next t ∧ t.fw.boot.staged = false ∧
      (if s.fw.boot.runB then t.fw.boot.copyA = copy ∧ t.fw.boot.copyB = s.fw.boot.copyB
       else t.fw.boot.copyB = copy ∧ t.fw.boot.copyA = s.fw.boot.copyA) ∧ slotSt t q.fn q.slot = 2 ∧ calm s t := by
  intro copy
  have run : exec (.fwStage q ver lvl asks) s =
      .next (pend q (reqHeader s q.fn q.slot) [.firmware] .stage (fromBuffer q.fn (reqHeader s q.fn q.slot) (staged copy s))) := by
    rw [exec_fwStage, execFwStage, run_of_accepts _ h]
    rfl
  obtain ⟨off, rest, copies⟩ := staged_spec copy s
  generalize staged copy s = u at *
  have read := fromBuffer_calm q.fn (reqHeader s q.fn q.slot) u
  have fw := fromBuffer_fw q.fn (reqHeader s q.fn q.slot) u
  generalize fromBuffer q.fn (reqHeader s q.fn q.slot) u = v at *
  obtain ⟨boot', -⟩ := pend_boot_phase q (reqHeader s q.fn q.slot) [.firmware] .stage v
  obtain ⟨pended, -, done⟩ := pend_outside q (reqHeader s q.fn q.slot) [.firmware] .stage v
  generalize pend q (reqHeader s q.fn q.slot) [.firmware] .stage v = t at *
  have boot : t.fw.boot = u.fw.boot := boot'.trans (congrArg FwSt.boot fw)
  refine ⟨t, run, ?_, ?_, done, (rest.trans read).trans pended⟩
  · rw [boot]
    exact off
  · rw [boot]
    exact copies

/-- The commands that end within 100 ms have ended, the others with FW_RESTART, and firmware is down. -/
def firmwareDown (done : List (FnIx × Word × DoneIn)) (s : State) : State :=
  let s2 := each done (fun d s => completeSeq d.1 d.2.1.toNat d.2.2 s) s
  setB F.MBX_CTL_FW_UP false (each s2.fw.pends (fun p s => endPend p 0x35 [] s) s2)

theorem firmwareDown_idle (done : List (FnIx × Word × DoneIn)) {s : State} (idle : s.fw.pends = []) :
    firmwareDown done s = setB F.MBX_CTL_FW_UP false s := by
  have same : each done (fun d s => completeSeq d.1 d.2.1.toNat d.2.2 s) s = s := by
    refine each_keeps (P := fun t => t = s) done rfl ?_
    rintro d t rfl
    unfold completeSeq pendOf
    rw [idle]
    rfl
  unfold firmwareDown
  dsimp only
  rw [same, idle]
  rfl

theorem exec_fwActivate_accepted (h : accepts { op := 0x0B02, min := true } q true [] [.firmware] s) (still : anyRuns s = false)
    (ready : s.fw.boot.staged = true) (done : List (FnIx × Word × DoneIn)) :
    exec (.fwActivate q done) s = .next (
      let u := firmwareDown done (setB F.MBX_CTL_UPDATING true (respond q (reqHeader s q.fn q.slot) 0 [] s))
      if flag s F.MBX_CTL_MINIMAL then
        coldReset F.LC_RST_CAUSE_INTERNAL (updBoot (fun b => { b with attempts := 0, prefB := !b.runB, staged := false }) u)
      else set F.GLB_MODE_MODE 3 u) := by
  rw [exec_fwActivate, execFwActivate, run_of_accepts _ h, if_neg (by rw [still, ready]; decide)]
  rfl

theorem fwActivated (h : accepts { op := 0x0B02, min := true } q true [] [.firmware] s) (still : anyRuns s = false)
    (ready : s.fw.boot.staged = true) (normal : flag s F.MBX_CTL_MINIMAL = false) (done : List (FnIx × Word × DoneIn)) :
    ∃ t, exec (.fwActivate q done) s = .next t ∧ flag t F.MBX_CTL_FW_UP = false ∧ get t F.GLB_MODE_MODE = 3 ∧
        (s.fw.pends = [] → flag t F.MBX_CTL_UPDATING = true ∧ slotSt t q.fn q.slot = 2 ∧ calm s t) := by
  have run := exec_fwActivate_accepted h still ready done
  dsimp only at run
  rw [normal, if_neg (by decide)] at run
  obtain ⟨answered, fw, done2⟩ := respond_nil_outside q (reqHeader s q.fn q.slot) 0 s
  generalize respond q (reqHeader s q.fn q.slot) 0 [] s = u at *
  refine ⟨_, run, ?_, get_set_same .., fun none => ?_⟩
  · refine flag_of_get_zero ((get_set_ne (f := F.GLB_MODE_MODE) (g := F.MBX_CTL_FW_UP) (by decide) ..).trans ?_)
    exact get_set_same ..
  · rw [firmwareDown_idle done (s := setB F.MBX_CTL_UPDATING true u) ((congrArg FwSt.pends fw).trans none)]
    refine ⟨flag_of_get ?_, done2, ((answered.trans (setB_calm ..)).trans (setB_calm ..)).trans (set_calm ..)⟩
    rw [get_set_ne (by decide), get_setB_ne (by decide)]
    exact get_set_same ..

theorem fwActivated_minimal (h : accepts { op := 0x0B02, min := true } q true [] [.firmware] s) (still : anyRuns s = false)
    (ready : s.fw.boot.staged = true) (minimal : flag s F.MBX_CTL_MINIMAL = true) (done : List (FnIx × Word × DoneIn)) :
    ∃ t, exec (.fwActivate q done) s = .next t ∧ flag t F.LC_RST_CAUSE_INTERNAL = true ∧ t.fw.phase = .step 0 ∧ t.fw.boot.attempts = 0 ∧
      t.fw.boot.staged = false := by
  have run := exec_fwActivate_accepted h still ready done
  dsimp only at run
  rw [minimal, if_pos rfl] at run
  generalize firmwareDown _ _ = u at run
  generalize hv : updBoot _ u = v at run
  have cleared : v.fw.boot.attempts = 0 ∧ v.fw.boot.staged = false := by
    rw [← hv]
    exact ⟨rfl, rfl⟩
  have start := coldReset_start F.LC_RST_CAUSE_INTERNAL v
  refine ⟨_, run, (coldReset_shows (by decide) (by decide) v).1, start.phase, ?_, ?_⟩
  · rw [start.boot]
    exact cleared.1
  · rw [start.boot]
    exact cleared.2

/-! ### SHUTDOWN (R371) -/

/-- The package is shut down but for its self-test. -/
def packageShut (s : State) : State :=
  let s1 := updBoot (fun b => { b with base := s.fw.ptStart + ((now s : Int) - s.time.upOfs).toNat / 1000000000 }) s
  let s2 := computeReset (netReset (upTo 12 (fun p s => setP p 0 (dropLink p s)) s1))
  updFw (fun k => { k with phase := .shut }) (each (allCores.filter (coreGood s2)) (fun c s => setCoreState c cReset s) s2)

theorem packageShut_phase (s : State) : (packageShut s).fw.phase = .shut := rfl

theorem exec_shutdown_accepted (h : accepts { op := 0x0C01 } q true [] [] s) (still : anyRuns s = false) :
    exec (.shutdown q) s = .next (if force (reqHeader s q.fn q.slot) then { respond q (reqHeader s q.fn q.slot) 0 [] (packageShut s) with pwroff := true }
      else pend q (reqHeader s q.fn q.slot) [] (.shutdown true) (set F.LC_BIST_STAT_STATE 1 (packageShut s))) := by
  rw [exec_shutdown, execShutdown, run_of_accepts _ h, still, if_neg (by decide)]
  rfl

theorem shutdownActs (h : accepts { op := 0x0C01 } q true [] [] s) (still : anyRuns s = false) :
    ∃ t, exec (.shutdown q) s = .next t ∧ slotSt t q.fn q.slot = 2 ∧ t.fw.phase = .shut ∧
      (force (reqHeader s q.fn q.slot) = true → t.pwroff = true) ∧
      (force (reqHeader s q.fn q.slot) = false → get t F.LC_BIST_STAT_STATE = 1) := by
  have run := exec_shutdown_accepted h still
  have shut := packageShut_phase s
  generalize packageShut s = u at *
  cases forced : force (reqHeader s q.fn q.slot) with
  | true =>
    rw [forced, if_pos rfl] at run
    obtain ⟨-, fw, done⟩ := respond_nil_outside q (reqHeader s q.fn q.slot) 0 u
    generalize respond q (reqHeader s q.fn q.slot) 0 [] u = t at *
    exact ⟨_, run, done, (congrArg FwSt.phase fw).trans shut, fun _ => rfl, fun no => absurd no (by decide)⟩
  | false =>
    rw [forced, if_neg (by decide)] at run
    have tests : get (set F.LC_BIST_STAT_STATE 1 u) F.LC_BIST_STAT_STATE = 1 := get_set_same ..
    have shut' : (set F.LC_BIST_STAT_STATE 1 u).fw.phase = .shut := shut
    generalize set F.LC_BIST_STAT_STATE 1 u = v at *
    obtain ⟨-, phase⟩ := pend_boot_phase q (reqHeader s q.fn q.slot) [] (.shutdown true) v
    obtain ⟨-, -, done⟩ := pend_outside q (reqHeader s q.fn q.slot) [] (.shutdown true) v
    have kept := get_pend_ne (g := F.LC_BIST_STAT_STATE) (by decide) (by decide) q (reqHeader s q.fn q.slot) [] (.shutdown true) v
    generalize pend q (reqHeader s q.fn q.slot) [] (.shutdown true) v = t at *
    exact ⟨t, run, done, phase.trans shut', fun no => absurd no (by decide), fun _ => kept.trans tests⟩

/-! ### RESET (R373) -/

/-- A scope that RESET may act on. -/
theorem exec_reset_accepted {x : ResetScope} (h : accepts { op := 0x0C03 } q true [] ((scopeCores x).map .core) s)
    (safe : x ≠ .warm → inSafe s = false) (on : s.fw.phase ≠ .drain)
    (free : ∀ d ∈ scopeCores x, coreGood s d = true → resetBusy s d = false) :
    exec (.reset q x) s = .next (applyScope x (respond q (reqHeader s q.fn q.slot) 0 [] s)) := by
  have calm : ¬((x ≠ .warm && inSafe s) || s.fw.phase = .drain || (scopeCores x).any (fun c => coreGood s c && resetBusy s c)) = true := by
    simp only [Bool.or_eq_true, Bool.and_eq_true, decide_eq_true_eq, List.any_eq_true, not_or, not_exists, not_and]
    exact ⟨⟨fun cold => by simp [safe cold], on⟩, fun d hd good => by simp [free d hd good]⟩
  rw [exec_reset, execReset, run_of_accepts _ h, if_neg calm]

section
variable {c : CoreIx} (h : accepts { op := 0x0C03 } q true [] [.core c] s) (safe : inSafe s = false) (on : s.fw.phase ≠ .drain)
  (good : coreGood s c = true) (free : resetBusy s c = false)
include h safe on free

theorem exec_resetCore_accepted : exec (.reset q (.core c)) s = .next (applyScope (.core c) (respond q (reqHeader s q.fn q.slot) 0 [] s)) :=
  exec_reset_accepted h (fun _ => safe) on fun _ hd _ => List.mem_singleton.1 hd ▸ free

include good

theorem resetCore_starts (stands : coreState s c = 2 ∨ coreState s c = 4) :
    exec (.reset q (.core c)) s = .next (startReset c (bump F.LC_CORE_RST_CNT (respond q (reqHeader s q.fn q.slot) 0 [] s))) := by
  rw [exec_resetCore_accepted h safe on free, applyScope, coreGood_respond_nil, coreState_respond_nil, good]
  rcases stands with idle | fenced
  · rw [idle]
    rfl
  · rw [fenced]
    rfl

theorem resetCore_answers (not2 : coreState s c ≠ 2) (not4 : coreState s c ≠ 4) :
    exec (.reset q (.core c)) s = .next (respond q (reqHeader s q.fn q.slot) 0 [] s) := by
  rw [exec_resetCore_accepted h safe on free, applyScope, coreGood_respond_nil, coreState_respond_nil, good, if_neg]
  simp [cIdle, cFenced, not2, not4]

end

/-! ### The end of PENDING commands (R345, R394) -/

section
variable {f : FnIx} {seq : Word} {o : DoneIn} (up : flag s F.MBX_CTL_FW_UP = true) {p : Pend} (hp : pendOf s f seq.toNat = some p)
include up hp

theorem exec_pendingComplete_runs : exec (.pendingComplete f seq o) s = .next (complete p o s) := by
  rw [exec_pendingComplete, execPendingComplete, up, if_pos rfl, completeSeq, hp]

theorem pendingPoisoned (safe : inSafe s = true) (data : needsData p.act = true) :
    exec (.pendingComplete f seq o) s = .next (endPend p 0x17 [] s) := by
  rw [exec_pendingComplete_runs up hp, complete, safe, data]
  rfl

theorem pendingDone (free : (inSafe s && needsData p.act) = false) (done : actDone s p = true) :
    exec (.pendingComplete f seq o) s = .next (finishAct p o s) := by
  rw [exec_pendingComplete_runs up hp, complete, free, done]
  rfl

theorem pendingWaits (free : (inSafe s && needsData p.act) = false) (works : actDone s p = false) (early : ∀ t, p.due = some t → now s < t) :
    exec (.pendingComplete f seq o) s = .next s := by
  rw [exec_pendingComplete_runs up hp, complete, free, works, if_neg (by decide), if_neg (by decide)]
  cases due : p.due with
  | none => rfl
  | some t =>
    cases lateStatus p.act with
    | none => rfl
    | some st => exact congrArg _ (if_neg (Nat.not_le.2 (early t due)))

theorem pendingLate {t : Nat} (free : (inSafe s && needsData p.act) = false) (works : actDone s p = false) (due : p.due = some t)
    (late : t ≤ now s) : (∀ st, lateStatus p.act = some st → exec (.pendingComplete f seq o) s = .next (endPend p st [] (giveUp p.act s))) ∧
      (lateStatus p.act = none → exec (.pendingComplete f seq o) s = .next s) := by
  rw [exec_pendingComplete_runs up hp, complete, free, works, if_neg (by decide), if_neg (by decide), due]
  refine ⟨fun st hst => ?_, fun none => by rw [none]⟩
  rw [hst]
  exact congrArg _ (if_pos late)

end

/-! ### MGMT_SESSION_HANDSHAKE (R378) -/

theorem session_root {w : OwnIn} {d : BitVec 384} (owned : s.fw.own = some w)
    (root : d ∈ (w.roots.drop (w.nImg.toNat + w.nInst.toNat)).take w.nMgmt.toNat) (on : s.fw.keyOff = false) (up : flag s F.MBX_CTL_FW_UP = true)
    (room : s.fw.sessions < 4) :
    exec (.mgmtSessionHandshake (.root d)) s = .next (updFw (fun k => { k with sessions := k.sessions + 1 }) s) := by
  rw [exec_mgmtSessionHandshake, execMgmtSessionHandshake, owned]
  exact if_pos (by simp [on, up, room, root])

theorem session_engineering (owned : s.fw.own.isSome = true) (test : get s F.LC_STATE_STATE = 1) (on : s.fw.keyOff = false)
    (up : flag s F.MBX_CTL_FW_UP = true) (room : s.fw.sessions < 4) :
    exec (.mgmtSessionHandshake .engineering) s = .next (updFw (fun k => { k with sessions := k.sessions + 1 }) s) := by
  obtain ⟨w, owner⟩ := Option.isSome_iff_exists.1 owned
  rw [exec_mgmtSessionHandshake, execMgmtSessionHandshake, owner, test]
  exact if_pos (by simp [on, up, room])

theorem session_none : exec (.mgmtSessionHandshake .none) s = .next s := by
  rw [exec_mgmtSessionHandshake, execMgmtSessionHandshake]
  cases s.fw.own with
  | none => rfl
  | some w => rfl

theorem session_full (e : PeerRoot) (full : 4 ≤ s.fw.sessions) : exec (.mgmtSessionHandshake e) s = .next s := by
  rw [exec_mgmtSessionHandshake, execMgmtSessionHandshake]
  exact if_neg fun k => absurd (of_decide_eq_true (Bool.and_eq_true_iff.1 k).2) (Nat.not_lt.2 full)

end

/-! ### O55 -/

/-- Settles O55, command by command. What a timeout gives (`lateStatus`) is the model's choice (log entries 52 and 67), and so are the
conditions of a session and of an ownership record (log entry 60). -/
theorem lifeCycleAndFirmwareCommandsAct : Obligations.LifeCycleAndFirmwareCommandsAct := by
  intro q dst au own challenge ver seq lvl asks c o d s
  exact ⟨lcSet_begins, lcSet_minimal, ownershipInstalled, fwStaged,
    fun h still ready done => ⟨fun normal => fwActivated h still ready normal done, fun minimal => fwActivated_minimal h still ready minimal done⟩,
    shutdownActs,
    fun h safe on good stands free => resetCore_starts h safe on good free stands,
    fun h safe on good not2 not4 free => resetCore_answers h safe on good free not2 not4,
    fun k h safe on free => exec_reset_accepted h (fun _ => safe) on fun e he good => (free e he) good,
    fun h on => exec_reset_accepted h (fun cold => absurd rfl cold) on fun e he => absurd he (by simp [scopeCores]),
    fun up p hp => ⟨pendingPoisoned up hp, pendingDone up hp, pendingWaits up hp, fun t free works due late => pendingLate up hp free works due late⟩,
    fun w owned root on up room => session_root owned root on up room, session_engineering, session_none, session_full⟩

end Sys2Proof.Machine

namespace Sys2Proof.Machine

/-! ### Answers of queries (R349, Table 12.7) -/

section
variable {q : YReq} {s : State}

/-- A request that names a partition and changes nothing is run on the partition's record. -/
theorem onPartIf_reads {row : CmdRow} {p : PartRec} (reads : [0x0209, 0x0404, 0x0405].contains row.op = true)
    (h : accepts row q (decide (hdrPart s q < 16)) [hdrPart s q] [] s) (hp : partRec s (hdrPart s q) = some p)
    (f : Nat → PartRec → Header → State → State) : onPartIf row q true f s = f (hdrPart s q) p (reqHeader s q.fn q.slot) s := by
  unfold onPartIf
  dsimp only
  rw [if_pos reads, Bool.and_true, run_of_accepts _ h, hp]

/-- An accepted request does its work on its header. -/
theorem next_run_accepted {row : CmdRow} {range : Bool} {parts : List Nat} {objs : List Obj} (f : Header → State → State)
    (h : accepts row q range parts objs s) :
    (Host.Outcome.next (run row q range parts objs f s) : Host.Outcome State Fault Refusal) = .next (f (reqHeader s q.fn q.slot) s) :=
  congrArg _ (run_of_accepts f h)

/-! ### FAULT_LIST -/

/-- The capture of a class as its registers read. -/
def captureBytes (s : State) (l : Nat) : List Byte :=
  match capFields l with
  | [] => zeros 32
  | f0 :: fs => natLe 32 ((f0 :: fs).foldl (fun a (f : Fld) => a + get s f * 2 ^ (f.key - f0.key)) 0)

theorem captureBytes_length (s : State) (l : Nat) : (captureBytes s l).length = 32 := by
  unfold captureBytes
  split
  · exact List.length_replicate
  · exact natLe_length ..

theorem blocks_length {f : Nat → List Byte} {m : Nat} (len : ∀ i, (f i).length = m) (n : Nat) : ((List.range n).flatMap f).length = m * n := by
  induction n with
  | zero => rfl
  | succ n ih =>
    rw [List.range_succ, List.flatMap_append, List.length_append, ih, List.flatMap_singleton, len]
    rfl

/-- A table of entries of one size holds the entry of an index at its place. -/
theorem block_at {f : Nat → List Byte} {m : Nat} (len : ∀ i, (f i).length = m) {n k : Nat} (hk : k < n) :
    (((List.range n).flatMap f).drop (m * k)).take m = f k := by
  induction n with
  | zero => exact absurd hk (Nat.not_lt_zero k)
  | succ n ih =>
    have before := blocks_length len n
    rw [List.range_succ, List.flatMap_append, List.flatMap_singleton]
    rcases Nat.lt_succ_iff_lt_or_eq.1 hk with lower | rfl
    · have fits : m * k + m ≤ m * n := by
        rw [← Nat.mul_succ]
        exact Nat.mul_le_mul_left m lower
      rw [List.drop_append_of_le_length (by omega), List.take_append_of_le_length (by rw [List.length_drop]; omega), ih lower]
    · rw [← before, List.drop_left, ← len k, List.take_length]

theorem faultsListed (h : accepts { op := 0x0901 } q true [] [] s) :
    ∃ r, exec (.faultList q) s = .next (respond q (reqHeader s q.fn q.slot) 0 (r ++ natLe 4 (get s F.FLT_STAT_UNACK)) s) ∧ r.length = 160 ∧
      ∀ k : Fin 5, (r.drop (32 * k.val)).take 32 = captureBytes s k.val :=
  ⟨(List.range 5).flatMap (captureBytes s), (exec_faultList q s).trans (next_run_accepted _ h),
    blocks_length (captureBytes_length s) 5, fun k => block_at (captureBytes_length s) k.isLt⟩

/-! ### BIST_RESULT and MODEL_DIGEST -/

theorem bistRead (h : accepts { op := 0x0C02, min := true } q true [] [] s) :
    (∀ r, s.fw.boot.bist.getLast? = some r → exec (.bistResult q) s = .next (respond q (reqHeader s q.fn q.slot) 0 (bistBytes r) s)) ∧
      (s.fw.boot.bist = [] → exec (.bistResult q) s = .next (respond q (reqHeader s q.fn q.slot) 0 [] s)) := by
  rw [exec_bistResult, execBistResult, run_of_accepts _ h]
  refine ⟨fun r last => ?_, fun none => ?_⟩
  · rw [last]
  · rw [none]
    rfl

theorem modelDigested {hd : Word} (h : accepts { op := 0x0305 } q true [] [.model hd.toNat] s) {m : Model} (hm : modelOf s hd.toNat = some m) :
    exec (.modelDigest q hd) s = .next (respond q (reqHeader s q.fn q.slot) 0
      (natLe 48 (twoLevel (goldDigests (records m.img) s).1) ++ natLe 48 (twoLevel (readDigests s m))) (goldDigests (records m.img) s).2) := by
  rw [exec_modelDigest, execModelDigest, onModel_of_accepts _ h hm]

/-! ### RECIPE_GET -/

section
variable {l : Fin 16} {p : Nat} {r : PartRec} (hr : partRec s (hdrPart s q) = some r)
  (h : accepts { op := 0x0404, v := true } q (decide (hdrPart s q < 16)) [hdrPart s q] [] s) (at_ : mapPhys s l = some p)
  (own : corePart s p = some (hdrPart s q))

/-- An entry of the active recipe table. -/
def recipeBytes (s : State) (p i : Nat) : List Byte :=
  natLe 4 (actv s (F.LEAVEN_RCP_CTL_AFMT p i) + 2 * actv s (F.LEAVEN_RCP_CTL_RANGE p i) + 8 * actv s (F.LEAVEN_RCP_CTL_BLK p i) +
    32 * actv s (F.LEAVEN_RCP_CTL_FINE p i) + 2 ^ 8 * actv s (F.LEAVEN_RCP_CTL_LT p i) + 2 ^ 16 * actv s (F.LEAVEN_RCP_CTL_LAYER p i)) ++
  natLe 4 (actv s (F.LEAVEN_RCP_ASCALE_SCALE p i)) ++ natLe 4 (actv s (F.LEAVEN_RCP_WSCALE_SCALE p i)) ++
  natLe 4 (get s (F.LEAVEN_RCP_ENV_VALID p i) + 2 * get s (F.LEAVEN_RCP_ENV_FINE_OK p i) + 4 * get s (F.LEAVEN_RCP_ENV_A4_OK p i) +
    8 * get s (F.LEAVEN_RCP_ENV_LEAVEN_OK p i))

include at_ own in
theorem recipe_core : (mapPhys s l).filter (fun c => corePart s c == some (hdrPart s q)) = some p := by
  rw [at_, Option.filter_some, if_pos (by rw [own]; exact beq_self_eq_true _)]

include hr h at_ own in
theorem exec_recipeGet_accepted : exec (.recipeGet q l) s = .next (
    if domainDown s ((F.LEAVEN_RCP_CTL_AFMT p 0).key / 8) then respond q (reqHeader s q.fn q.slot) 0 (zeros 4096) (upTo 1024 (fun _ s => denied s) s)
    else respond q (reqHeader s q.fn q.slot) 0 ((List.range 256).flatMap (recipeBytes s p)) s) := by
  rw [exec_recipeGet, execRecipeGet, recipe_core at_ own, Option.isSome_some, onPartIf_reads rfl h hr]
  rfl

end

end

/-! ### O50 -/

/-- Settles O50, query by query. The bytes of a result, and an empty BIST_RESULT where there is no record, are the model's choice
(log entry 51). -/
theorem queriesAnswer : Obligations.QueriesAnswer := by
  intro q seq hd e c set_ l os fl s
  refine ⟨fun h => (exec_getInfo ..).trans (next_run_accepted _ h), fun h => (exec_getCert ..).trans (next_run_accepted _ h),
    fun h => (exec_getLog ..).trans (next_run_accepted _ h), fun h => (exec_getPorts ..).trans (next_run_accepted _ h),
    fun h => (exec_planGet ..).trans (next_run_accepted _ h), fun h => (exec_reqQuery ..).trans (next_run_accepted _ h),
    fun h => (exec_calSave ..).trans (next_run_accepted _ h), fun h => (exec_enduranceGet ..).trans (next_run_accepted _ h),
    fun h => (exec_thermalGet ..).trans (next_run_accepted _ h), faultsListed, fun h => (exec_lcGet ..).trans (next_run_accepted _ h),
    fun h => (exec_fwStatus ..).trans (next_run_accepted _ h), bistRead, fun h => (exec_modelList ..).trans (next_run_accepted _ h), fun h m => modelDigested h,
    fun h => (exec_adapterList ..).trans (next_run_accepted _ h),
    fun r hr => ⟨fun h => ?status, fun p h at_ own => ⟨fun down => ?denied, fun up => ?recipes⟩, fun h => ?flags⟩⟩
  case status => exact (exec_partStatus ..).trans (congrArg Host.Outcome.next (onPartIf_reads rfl h hr _))
  case denied => exact (exec_recipeGet_accepted hr h at_ own).trans (congrArg _ (if_pos down))
  case recipes => exact (exec_recipeGet_accepted hr h at_ own).trans (congrArg _ (if_neg (by rw [up]; decide)))
  case flags => exact (exec_flagsGet ..).trans (congrArg Host.Outcome.next (onPartIf_reads rfl h hr _))

end Sys2Proof.Machine

namespace Sys2Proof.Machine

/-! ### Doorbells (R342, R343) -/

theorem slotSt_putSlot_ne {f i k : Nat} (other : k ≠ i) (st : Nat) (s : State) : slotSt (putSlot f i st s) f k = slotSt s f k := by
  have h : slotSt (updPage f (fun p => { p with slots := SMap.put 0 p.slots i st }) s) f k = slotSt s f k := by
    unfold slotSt page updPage
    rw [SMap.get_put_same]
    exact SMap.get_put_ne _ _ _ other
  unfold putSlot
  dsimp only
  split
  · exact h
  · exact h

theorem putSlot_calm (f i st : Nat) (s : State) : calm s (putSlot f i st s) := by
  unfold putSlot
  dsimp only
  split
  · exact ⟨rfl, rfl, rfl, rfl⟩
  · exact ⟨rfl, rfl, rfl, rfl⟩

/-- The mailbox's own load does not depend on its doorbell counter or slots. -/
theorem autoBusy_doorbell (f i : Nat) (s : State) : autoBusy (putSlot f i 1 (bump F.MBX_DB_CNT s)) = autoBusy s := by
  unfold autoBusy flag
  rw [get_putSlot _ _ _ _ (by decide), get_putSlot _ _ _ _ (by decide), get_bump_ne (by decide), get_bump_ne (by decide)]

/-- A response's STATUS is that of its header. -/
theorem status_putResponse (f i : Nat) (h : Header) (s : State) :
    leAt (mbBytes (putResponse f i h [] s) f (rspOfs i) 64) 10 1 = h.status % 256 := by
  have mbx := (putResponse_frame f i h [] s).2.1
  have bytes := mbBytes_putPage f (rspOfs i) h.bytes ([].take 1984) s
  rw [Header.bytes_length] at bytes
  unfold mbBytes at bytes ⊢
  rw [mbx, putSlot_mbx, bytes, leAt_status]

section
variable {f : FnIx} {v : Word} {s : State}

theorem mbDb_mctp_shut (mctp : f.val = 33) (minimal : flag s F.MBX_CTL_MINIMAL = true) : exec (.mbDb f v) s = .next s := by
  rw [exec_mbDb, execMbDb]
  exact if_pos (by simp [transportShut, mctp, minimal])

theorem mbDb_ethernet_shut (ethernet : f.val = 34) (closed : s.fw.sessions = 0) : exec (.mbDb f v) s = .next s := by
  rw [exec_mbDb, execMbDb]
  exact if_pos (by simp [transportShut, ethernet, closed])

section
variable (takes : transportShut s f = false)
include takes

theorem mbDb_rejected (taken : slotSt s f (v.toNat % 8) ≠ 0) : exec (.mbDb f v) s = .next (bump F.MBX_DB_REJ_CNT s) := by
  rw [exec_mbDb, execMbDb]
  dsimp only
  rw [takes, if_neg (by decide), if_pos taken]

theorem exec_mbDb_free (free : slotSt s f (v.toNat % 8) = 0) : exec (.mbDb f v) s = .next (
    let u := putSlot f (v.toNat % 8) 1 (bump F.MBX_DB_CNT s)
    if autoBusy s then bump F.MBX_AUTO_BUSY_CNT (putResponse f (v.toNat % 8) (bareResponse (reqHeader u f (v.toNat % 8)) 2) [] u) else u) := by
  rw [exec_mbDb, execMbDb]
  dsimp only
  rw [takes, if_neg (by decide), if_neg (fun no => no free), autoBusy_doorbell]
  split <;> rfl

theorem mbDb_takes (free : slotSt s f (v.toNat % 8) = 0) (light : autoBusy s = false) :
    exec (.mbDb f v) s = .next (putSlot f (v.toNat % 8) 1 (bump F.MBX_DB_CNT s)) := by
  rw [exec_mbDb_free takes free, light]
  rfl

theorem mbDb_busy (free : slotSt s f (v.toNat % 8) = 0) (load : autoBusy s = true) :
    ∃ t, exec (.mbDb f v) s = .next t ∧ slotSt t f (v.toNat % 8) = 2 ∧ leAt (mbBytes t f (rspOfs (v.toNat % 8)) 64) 10 1 = 2 ∧
      t.mem = s.mem ∧ t.cores = s.cores := by
  have run := exec_mbDb_free takes free
  rw [load] at run
  have rung := (set_calm F.MBX_DB_CNT _ s).trans (putSlot_calm f (v.toNat % 8) 1 (bump F.MBX_DB_CNT s))
  dsimp only at run
  generalize putSlot f (v.toNat % 8) 1 (bump F.MBX_DB_CNT s) = u at *
  have status := status_putResponse f (v.toNat % 8) (bareResponse (reqHeader u f (v.toNat % 8)) 2) u
  have done := (putResponse_frame f (v.toNat % 8) (bareResponse (reqHeader u f (v.toNat % 8)) 2) [] u).2.2
  obtain ⟨⟨mem, cores, -, -⟩, -⟩ := putResponse_outside f (v.toNat % 8) (bareResponse (reqHeader u f (v.toNat % 8)) 2) [] u
  exact ⟨_, run, done, status, mem.trans rung.1, cores.trans rung.2.1⟩

end

/-- An acknowledgement of one slot. -/
def slotAcked (f w i : Nat) (s : State) : State :=
  if !bit w i then s else if slotSt s f i = 2 then putSlot f i 0 s else bump F.MBX_DB_REJ_CNT s

theorem slotAcked_spec (f w i : Nat) (s : State) :
    (∀ k, slotSt (slotAcked f w i s) f k = if k = i ∧ bit w i = true ∧ slotSt s f i = 2 then 0 else slotSt s f k) ∧
      (slotAcked f w i s).mem = s.mem ∧ (slotAcked f w i s).cores = s.cores ∧ (slotAcked f w i s).mbx = s.mbx := by
  unfold slotAcked
  cases set : bit w i with
  | false => exact ⟨fun k => (if_neg fun h => absurd h.2.1 (by decide)).symm, rfl, rfl, rfl⟩
  | true =>
    by_cases done : slotSt s f i = 2
    · rw [if_neg (by decide), if_pos done]
      obtain ⟨mem, cores, -, -⟩ := putSlot_calm f i 0 s
      refine ⟨fun k => ?_, mem, cores, putSlot_mbx ..⟩
      by_cases same : k = i
      · rw [same, if_pos ⟨rfl, rfl, done⟩, slotSt_putSlot]
      · rw [if_neg fun h => same h.1, slotSt_putSlot_ne same]
    · rw [if_neg (by decide), if_neg done]
      exact ⟨fun k => (if_neg fun h => done h.2.2).symm, rfl, rfl, rfl⟩

theorem slotsAcked_spec (f w n : Nat) (s : State) :
    (∀ k, slotSt (upTo n (slotAcked f w) s) f k = if k < n ∧ bit w k = true ∧ slotSt s f k = 2 then 0 else slotSt s f k) ∧
      (upTo n (slotAcked f w) s).mem = s.mem ∧ (upTo n (slotAcked f w) s).cores = s.cores ∧ (upTo n (slotAcked f w) s).mbx = s.mbx := by
  induction n with
  | zero => exact ⟨fun k => (if_neg fun h => Nat.not_lt_zero k h.1).symm, rfl, rfl, rfl⟩
  | succ n ih =>
    obtain ⟨slots, mem, cores, mbx⟩ := ih
    obtain ⟨slots', mem', cores', mbx'⟩ := slotAcked_spec f w n (upTo n (slotAcked f w) s)
    rw [upTo_succ]
    refine ⟨fun k => ?_, mem'.trans mem, cores'.trans cores, mbx'.trans mbx⟩
    have here : slotSt (upTo n (slotAcked f w) s) f n = slotSt s f n := (slots n).trans (if_neg fun h => Nat.lt_irrefl n h.1)
    rw [slots', here]
    by_cases last : k = n
    · rw [last, here]
      exact if_congr (by simp) rfl rfl
    · rw [if_neg fun h => last h.1, slots]
      exact if_congr (and_congr_left' (by omega)) rfl rfl

theorem mbAck_frees : ∃ t, exec (.mbAck f v) s = .next t ∧
    (∀ k, k < 8 → slotSt t f k = if bit v.toNat k && slotSt s f k == 2 then 0 else slotSt s f k) ∧ t.mem = s.mem ∧ t.cores = s.cores ∧
      t.mbx = s.mbx := by
  obtain ⟨slots, rest⟩ := slotsAcked_spec f v.toNat 8 s
  refine ⟨upTo 8 (slotAcked f v.toNat) s, rfl, fun k hk => ?_, rest⟩
  rw [slots]
  exact if_congr (by simp [hk]) rfl rfl

end

end Sys2Proof.Machine

namespace Sys2Proof.Machine

/-! ### Function-level resets (R340, R435) -/

/-- The record, page, mailbox and rings of a function after its reset. -/
def flrCleared (f : Nat) (s : State) : State :=
  let keep := fun (k : FwSt) => { k with pends := k.pends.map fun (p : Pend) => if p.fn = f then { p with orphan := true } else p }
  let fresh := { Page.reset with seq := (page s f).seq }
  let s1 := updPage f (fun _ => fresh) (updFw keep s)
  { s1 with
    mbx := SMap.erase s1.mbx (f * 65536) ((f + 1) * 65536)
    srv := { s1.srv with
      rq := s1.srv.rq.filter fun (x : Nat × Option ReqRing) => match x.2 with | some q => q.fn != f | none => false
      oq := s1.srv.oq.filter fun (x : Nat × Option OutRing) => match x.2 with | some q => q.fn != f | none => false } }

theorem showPend_rest (f : Nat) (s : State) : showPend f s = { s with regs := (showPend f s).regs } := by
  unfold showPend
  split <;> rfl

theorem flrFn_rest (f : Nat) (s : State) : flrFn f s = { flrCleared f s with regs := (flrFn f s).regs } := by
  have shown : flrFn f s = showPend f (when (decide (f < 33)) (set (F.MBX_FN_BUSY f) 0) (flrCleared f s)) := rfl
  have idle : when (decide (f < 33)) (set (F.MBX_FN_BUSY f) 0) (flrCleared f s) =
      { flrCleared f s with regs := (when (decide (f < 33)) (set (F.MBX_FN_BUSY f) 0) (flrCleared f s)).regs } :=
    when_keeps (P := fun t => t = { flrCleared f s with regs := t.regs }) _ rfl fun t ht => by
      rw [ht]
      rfl
  rw [shown]
  generalize when (decide (f < 33)) (set (F.MBX_FN_BUSY f) 0) (flrCleared f s) = u at *
  rw [showPend_rest, idle]

/-- A function's reset changes no field but BUSY and PEND of a function. -/
theorem get_flrFn {g : Fld} (busy : ∀ n < 33, g.key ≠ (F.MBX_FN_BUSY n).key) (pends : ∀ n < 33, g.key ≠ (F.MBX_FN_PEND n).key) (f : Nat) (s : State) :
    get (flrFn f s) g = get s g := by
  have shown : flrFn f s = showPend f (when (decide (f < 33)) (set (F.MBX_FN_BUSY f) 0) (flrCleared f s)) := rfl
  rw [shown, get_showPend_ne pends]
  unfold when
  split
  · next known => exact (get_set_ne (busy f (of_decide_eq_true known)) ..).trans rfl
  · rfl

theorem page_flrFn_same (f : Nat) (s : State) : page (flrFn f s) f = { Page.reset with seq := (page s f).seq } := by
  rw [flrFn_rest]
  exact SMap.get_put_same ..

theorem page_flrFn_ne {f g : Nat} (other : g ≠ f) (s : State) : page (flrFn f s) g = page s g := by
  rw [flrFn_rest]
  exact SMap.get_put_ne _ _ _ other

theorem flrFn_mem (f : Nat) (s : State) : (flrFn f s).mem = s.mem ∧ (flrFn f s).cores = s.cores := by
  rw [flrFn_rest]
  exact ⟨rfl, rfl⟩

/-- Every slot of a function is FREE. -/
def slotsFree (f : Nat) (s : State) : Prop := ∀ i, slotSt s f i = 0

theorem slotsFree_of_page {s t : State} {f : Nat} (h : page t f = page s f) (free : slotsFree f s) : slotsFree f t := fun i => by
  unfold slotSt
  rw [h]
  exact free i

theorem slotsFree_flrFn_same (f : Nat) (s : State) : slotsFree f (flrFn f s) := fun i => by
  unfold slotSt
  rw [page_flrFn_same]
  rfl

theorem slotsFree_flrFn {f g : Nat} {s : State} (free : slotsFree g s) : slotsFree g (flrFn f s) := by
  by_cases same : g = f
  · exact same ▸ slotsFree_flrFn_same f s
  · exact slotsFree_of_page (page_flrFn_ne same s) free

/-- Steps that each reach their own aim and keep every aim reach all. -/
theorem upTo_reaches {Q : Nat → State → Prop} {f : Nat → State → State} (own : ∀ i t, Q i (f i t)) (keep : ∀ i j t, Q j t → Q j (f i t)) (n : Nat)
    (s : State) : ∀ i < n, Q i (upTo n f s) := by
  induction n with
  | zero => exact fun i hi => absurd hi (Nat.not_lt_zero i)
  | succ n ih =>
    intro i hi
    rw [upTo_succ]
    rcases Nat.lt_succ_iff_lt_or_eq.1 hi with lower | rfl
    · exact keep _ _ _ (ih i lower)
    · exact own ..

section
variable {f : Fin 33} {s : State}

theorem flr_vf (vf : f ≠ 0) : ∃ t, exec (.flr f) s = .next t ∧ (∀ i, slotSt t f i = 0) ∧ (page t f).seq = (page s f).seq ∧
    (∀ p, p ∈ t.fw.pends → p.fn = f.val → p.orphan = true) ∧ (∀ r q, (r, some q) ∈ t.srv.oq → q.fn ≠ f.val) ∧
    (∀ r q, (r, some q) ∈ t.srv.rq → q.fn ≠ f.val) ∧ (∀ g : Nat, g ≠ f.val → page t g = page s g) ∧
    get t F.MBX_FLR_CNT = min (get s F.MBX_FLR_CNT + 1) (2 ^ 64 - 1) % 2 ^ 64 ∧ t.mem = s.mem ∧ t.cores = s.cores := by
  have run : exec (.flr f) s = .next (bump F.MBX_FLR_CNT (flrFn f s)) := by
    rw [exec_flr, execFlr, flr]
    exact congrArg _ (if_neg fun h => vf (Fin.ext h))
  have cleared : (bump F.MBX_FLR_CNT (flrFn f s)) = { flrCleared f s with regs := (bump F.MBX_FLR_CNT (flrFn f s)).regs } := by
    rw [flrFn_rest]
    rfl
  obtain ⟨mem, cores⟩ := flrFn_mem f s
  refine ⟨_, run, slotsFree_flrFn_same f s, (congrArg Page.seq (page_flrFn_same f s)).trans rfl, ?_, ?_, ?_, fun g other => page_flrFn_ne other s, ?_, mem, cores⟩
  · intro p hp own
    rw [cleared] at hp
    obtain ⟨p0, -, rfl⟩ := List.mem_map.1 hp
    split
    · rfl
    · next other =>
      rw [if_neg other] at own
      exact absurd own other
  · intro r q hq
    rw [cleared] at hq
    simpa using (List.mem_filter.1 hq).2
  · intro r q hq
    rw [cleared] at hq
    simpa using (List.mem_filter.1 hq).2
  · rw [get_bump_same, get_flrFn (by decide) (by decide)]
    rfl

/-- The reset of a VF by an FLR of the PF. -/
def vfReset (i : Nat) (s : State) : State := setB (F.MBX_FN_ENABLED (i + 1)) false (flrFn (i + 1) s)

theorem flr_zero_eq (s : State) : flr 0 s = upTo 32 vfReset (set F.GLB_PCIE_STAT_NUM_VF 0 (bump F.MBX_FLR_CNT (flrFn 0 s))) := rfl

/-- ENABLED of a function lies apart from BUSY and PEND. -/
theorem enabled_ne (n : Nat) : (∀ m < 33, (F.MBX_FN_ENABLED n).key ≠ (F.MBX_FN_BUSY m).key) ∧ ∀ m < 33, (F.MBX_FN_ENABLED n).key ≠ (F.MBX_FN_PEND m).key := by
  simp only [F.MBX_FN_ENABLED, F.MBX_FN_BUSY, F.MBX_FN_PEND]
  exact ⟨fun m _ => by omega, fun m _ => by omega⟩

theorem flag_setB_false (g : Fld) (s : State) : flag (setB g false s) g = false := flag_of_get_zero ((get_setB_same ..).trans (Nat.zero_mod _))

/-- A function that is not enabled stays so when VF Enable of another is cleared. -/
theorem flag_enabled_setB {n m : Nat} {s : State} (off : flag s (F.MBX_FN_ENABLED n) = false) :
    flag (setB (F.MBX_FN_ENABLED m) false s) (F.MBX_FN_ENABLED n) = false := by
  by_cases same : n = m
  · exact same ▸ flag_setB_false ..
  · unfold flag at off ⊢
    rw [get_setB_ne (by simp only [F.MBX_FN_ENABLED]; omega)]
    exact off

theorem vfReset_keeps_off (i n : Nat) {s : State} (off : flag s (F.MBX_FN_ENABLED n) = false) : flag (vfReset i s) (F.MBX_FN_ENABLED n) = false := by
  refine flag_enabled_setB ?_
  unfold flag at off ⊢
  rw [get_flrFn (enabled_ne n).1 (enabled_ne n).2]
  exact off

theorem vfReset_mem (i : Nat) (s : State) : (vfReset i s).mem = s.mem ∧ (vfReset i s).cores = s.cores := flrFn_mem (i + 1) s

theorem flr_pf : ∃ t, exec (.flr 0) s = .next t ∧ t = flr 0 s ∧ (∀ g : Fin 33, ∀ i, slotSt t g i = 0) ∧ get t F.GLB_PCIE_STAT_NUM_VF = 0 ∧
    (∀ g : Fin 33, g ≠ 0 → flag t (F.MBX_FN_ENABLED g) = false) ∧ t.mem = s.mem ∧ t.cores = s.cores := by
  have begun : slotsFree 0 (set F.GLB_PCIE_STAT_NUM_VF 0 (bump F.MBX_FLR_CNT (flrFn 0 s))) := slotsFree_flrFn_same 0 s
  obtain ⟨mem, cores⟩ : (set F.GLB_PCIE_STAT_NUM_VF 0 (bump F.MBX_FLR_CNT (flrFn 0 s))).mem = s.mem ∧
    (set F.GLB_PCIE_STAT_NUM_VF 0 (bump F.MBX_FLR_CNT (flrFn 0 s))).cores = s.cores := flrFn_mem 0 s
  have none : get (set F.GLB_PCIE_STAT_NUM_VF 0 (bump F.MBX_FLR_CNT (flrFn 0 s))) F.GLB_PCIE_STAT_NUM_VF = 0 := get_set_same ..
  refine ⟨_, rfl, rfl, ?_⟩
  show (∀ g : Fin 33, ∀ i, slotSt (flr 0 s) g i = 0) ∧ get (flr 0 s) F.GLB_PCIE_STAT_NUM_VF = 0 ∧
    (∀ g : Fin 33, g ≠ 0 → flag (flr 0 s) (F.MBX_FN_ENABLED g) = false) ∧ (flr 0 s).mem = s.mem ∧ (flr 0 s).cores = s.cores
  rw [flr_zero_eq]
  generalize set F.GLB_PCIE_STAT_NUM_VF 0 (bump F.MBX_FLR_CNT (flrFn 0 s)) = u at *
  refine ⟨fun g => ?slots, ?num, fun g vf => ?off, ?mem⟩
  case slots =>
    by_cases pf : g.val = 0
    · rw [pf]
      exact upTo_keeps (P := slotsFree 0) 32 begun fun i t ht => slotsFree_flrFn ht
    · have reached := upTo_reaches (Q := fun i => slotsFree (i + 1)) (f := vfReset) (fun i t => slotsFree_flrFn_same (i + 1) t)
        (fun i j t ht => slotsFree_flrFn ht) 32 u (g.val - 1) (by omega)
      rwa [Nat.sub_add_cancel (by omega)] at reached
  case num =>
    refine upTo_keeps (P := fun t => get t F.GLB_PCIE_STAT_NUM_VF = 0) 32 none fun i t ht => ?_
    rw [vfReset, get_setB_ne (by simp only [F.MBX_FN_ENABLED, F.GLB_PCIE_STAT_NUM_VF]; omega), get_flrFn (by decide) (by decide)]
    exact ht
  case off =>
    have reached := upTo_reaches (Q := fun i t => flag t (F.MBX_FN_ENABLED (i + 1)) = false) (f := vfReset) (fun i t => flag_setB_false ..)
      (fun i j t ht => vfReset_keeps_off i (j + 1) ht) 32 u (g.val - 1) (by omega)
    rwa [Nat.sub_add_cancel (Nat.pos_of_ne_zero fun h => vf (Fin.ext h))] at reached
  case mem =>
    exact upTo_keeps (P := fun t => t.mem = s.mem ∧ t.cores = s.cores) 32 ⟨mem, cores⟩ fun i t ht =>
      ⟨(vfReset_mem i t).1.trans ht.1, (vfReset_mem i t).2.trans ht.2⟩

theorem flrAll_spec (s : State) : (∀ g : Fin 33, ∀ i, slotSt (flrAll s) g i = 0) ∧ (flrAll s).mem = s.mem ∧ (flrAll s).cores = s.cores := by
  have reset := upTo_reaches (Q := slotsFree) (f := fun f s => bump F.MBX_FLR_CNT (flrFn f s)) (fun i t => slotsFree_flrFn_same i t)
    (fun i j t ht => slotsFree_flrFn ht) 33 s
  obtain ⟨mem, cores⟩ := upTo_keeps (P := fun t => t.mem = s.mem ∧ t.cores = s.cores) 33 (f := fun f s => bump F.MBX_FLR_CNT (flrFn f s)) ⟨rfl, rfl⟩
    fun i t ht => ⟨(flrFn_mem i t).1.trans ht.1, (flrFn_mem i t).2.trans ht.2⟩
  unfold flrAll
  generalize upTo 33 (fun f s => bump F.MBX_FLR_CNT (flrFn f s)) s = u at *
  refine upTo_keeps (P := fun t => (∀ g : Fin 33, ∀ i, slotSt t g i = 0) ∧ t.mem = s.mem ∧ t.cores = s.cores) 32
    ⟨fun g => reset g g.isLt, mem, cores⟩ fun i t ht => ht

theorem hotReset_spec : ∃ t, exec .pcieHotReset s = .next t ∧ (∀ g : Fin 33, ∀ i, slotSt t g i = 0) ∧ t.mem = s.mem ∧ t.cores = s.cores :=
  ⟨_, rfl, flrAll_spec s⟩

theorem perst_resets (running : s.fw.phase ≠ .held) : ∃ t, exec .pciePerst s = .next t ∧ (∀ g : Fin 33, ∀ i, slotSt t g i = 0) ∧
    get t F.GLB_PCIE_STAT_WIDTH = 0 ∧ get t F.GLB_PCIE_STAT_SPEED = 0 ∧ t.mem = s.mem ∧ t.cores = s.cores := by
  obtain ⟨slots, mem, cores⟩ := flrAll_spec s
  have run : exec .pciePerst s = .next (linkGone (flrAll s)) := by
    rw [exec_pciePerst, execPciePerst]
    exact if_neg running
  generalize flrAll s = u at *
  obtain ⟨width, speed, -⟩ := linkGone_spec u
  exact ⟨_, run, slots, width, speed, mem, cores⟩

theorem perst_held (held : s.fw.phase = .held) : exec .pciePerst s = .next s := by
  rw [exec_pciePerst, execPciePerst]
  exact if_pos held

end

/-! ### The link (R435, R437, Table 12.1) -/

section
variable {s : State}

theorem linkRetrained : ∃ t, exec (.pcieRetrain .mgmt) s = .next t ∧ get t F.GLB_PCIE_STAT_WIDTH = 0 ∧
    get t F.GLB_PCIE_RETRAIN_CNT = min (get s F.GLB_PCIE_RETRAIN_CNT + 1) (2 ^ 64 - 1) % 2 ^ 64 ∧ t.mem = s.mem ∧ t.cores = s.cores := by
  obtain ⟨width, -, mem, cores, -⟩ := linkGone_spec (bump F.GLB_PCIE_RETRAIN_CNT s)
  refine ⟨_, rfl, width, ?_, mem, cores⟩
  unfold linkGone
  rw [get_setB_ne (by decide), get_setB_ne (by decide), get_set_ne (by decide), get_set_ne (by decide), get_bump_same]
  rfl

theorem linkErrs_correctable : ∃ t, exec (.pcieLinkError true) s = .next t ∧ { dst := .host 0, topic := .aer, args := [0] : Msg } ∈ t.out ∧
    get t F.GLB_PCIE_CORR_CNT = min (get s F.GLB_PCIE_CORR_CNT + 1) (2 ^ 64 - 1) % 2 ^ 64 ∧ t.mem = s.mem ∧ t.cores = s.cores := by
  have raised := raise_flt { src := 0x20, dom := 0xB0 } (bump F.GLB_PCIE_CORR_CNT (emit (.host 0) .aer [0] s)) (by decide) (by decide) rfl (by decide)
    (by decide)
  refine ⟨_, rfl, ?_, ?_, ?_, ?_⟩
  · have out : (raise { src := 0x20, dom := 0xB0 } (bump F.GLB_PCIE_CORR_CNT (emit (.host 0) .aer [0] s))).out =
        (emit (.host 0) .aer [0] s).out := by
      rw [raised.1]
      rfl
    show _ ∈ (raise { src := 0x20, dom := 0xB0 } (bump F.GLB_PCIE_CORR_CNT (emit (.host 0) .aer [0] s))).out
    rw [out]
    exact List.mem_append_right _ (List.mem_singleton_self _)
  · exact (raised.2 F.GLB_PCIE_CORR_CNT (by decide)).trans (get_bump_same ..)
  · exact (congrArg State.mem raised.1).trans rfl
  · exact (congrArg State.cores raised.1).trans rfl

/-- What a link that has trained shows. -/
def linkShown (sp : Nat) (width : BitVec 5) (flit bad : Bool) (n : Nat) (s : State) : State :=
  s |> set F.GLB_PCIE_STAT_SPEED sp |> set F.GLB_PCIE_STAT_WIDTH width.toNat |> setB F.GLB_PCIE_STAT_FLIT flit
    |> setB F.GLB_PCIE_STAT_DEGRADED bad |> set F.GLB_PCIE_STAT_NUM_VF n

/-- A function is enabled with the VFs below a number. -/
def fnEnabled (n f : Nat) (s : State) : State := setB (F.MBX_FN_ENABLED f) (decide (f ≤ n)) s

theorem flag_setB_same {g : Fld} (one : g.width = 1) (b : Bool) (s : State) : flag (setB g b s) g = b := by
  unfold flag
  rw [get_setB_same, one]
  cases b <;> rfl

theorem linkShown_spec {sp : Nat} (small : sp < 8) (width : BitVec 5) (flit bad : Bool) (n : Nat) (s : State) :
    get (linkShown sp width flit bad n s) F.GLB_PCIE_STAT_WIDTH = width.toNat ∧ get (linkShown sp width flit bad n s) F.GLB_PCIE_STAT_SPEED = sp ∧
      flag (linkShown sp width flit bad n s) F.GLB_PCIE_STAT_DEGRADED = bad := by
  unfold linkShown
  refine ⟨?_, ?_, ?_⟩
  · rw [get_set_ne (by decide), get_setB_ne (by decide), get_setB_ne (by decide), get_set_same]
    exact Nat.mod_eq_of_lt width.isLt
  · rw [get_set_ne (by decide), get_setB_ne (by decide), get_setB_ne (by decide), get_set_ne (by decide), get_set_same]
    exact Nat.mod_eq_of_lt small
  · unfold flag
    rw [get_set_ne (by decide)]
    exact flag_setB_same rfl bad _

theorem get_fnsEnabled {g : Fld} (apart : ∀ n, g.key ≠ (F.MBX_FN_ENABLED n).key) (n m : Nat) (s : State) :
    get (upTo m (fnEnabled n) s) g = get s g :=
  upTo_keeps (P := fun t => get t g = get s g) m rfl fun f t ht => (get_setB_ne (apart f) _ t).trans ht

theorem flag_fnsEnabled {n m f : Nat} (known : f < m) (s : State) : flag (upTo m (fnEnabled n) s) (F.MBX_FN_ENABLED f) = decide (f ≤ n) := by
  refine upTo_reaches (Q := fun f t => flag t (F.MBX_FN_ENABLED f) = decide (f ≤ n)) (fun i t => flag_setB_same rfl _ t) (fun i j t ht => ?_) m s f known
  by_cases same : j = i
  · exact same ▸ flag_setB_same rfl _ t
  · unfold fnEnabled flag at *
    rw [get_setB_ne (by simp only [F.MBX_FN_ENABLED]; omega)]
    exact ht

theorem linkTrained (speed : BitVec 3) (width : BitVec 5) (flit : Bool) (vfs : BitVec 6) :
    ∃ t, exec (.pcieLinkTrained speed width flit vfs) s = .next t ∧ get t F.GLB_PCIE_STAT_WIDTH = width.toNat ∧
      get t F.GLB_PCIE_STAT_SPEED = min speed.toNat (get s F.GLB_PCIE_CTL_MAX_SPEED) ∧
      (flag t F.GLB_PCIE_STAT_DEGRADED = true ↔ min speed.toNat (get s F.GLB_PCIE_CTL_MAX_SPEED) < 4 ∨ width.toNat < 8) ∧
      (∀ f : Fin 33, flag t (F.MBX_FN_ENABLED f) = decide (f.val ≤ min vfs.toNat 32)) ∧ t.mem = s.mem ∧ t.cores = s.cores := by
  have small : min speed.toNat (get s F.GLB_PCIE_CTL_MAX_SPEED) < 8 := Nat.lt_of_le_of_lt (Nat.min_le_left ..) speed.isLt
  have run : exec (.pcieLinkTrained speed width flit vfs) s = .next (
      let sp := min speed.toNat (get s F.GLB_PCIE_CTL_MAX_SPEED)
      let bad := decide (sp < 4) || decide (width.toNat < 8)
      when bad (raise { src := 0x1F, dom := 0xB0 }) (upTo 33 (fnEnabled (min vfs.toNat 32)) (linkShown sp width flit bad (min vfs.toNat 32) s))) := rfl
  dsimp only at run
  generalize min speed.toNat (get s F.GLB_PCIE_CTL_MAX_SPEED) = sp at *
  generalize hbad : (decide (sp < 4) || decide (width.toNat < 8)) = bad at run
  obtain ⟨shownWidth, shownSpeed, degraded⟩ := linkShown_spec small width flit bad (min vfs.toNat 32) s
  obtain ⟨mem, cores⟩ : (linkShown sp width flit bad (min vfs.toNat 32) s).mem = s.mem ∧ (linkShown sp width flit bad (min vfs.toNat 32) s).cores = s.cores :=
    ⟨rfl, rfl⟩
  generalize linkShown sp width flit bad (min vfs.toNat 32) s = u at *
  have other {g : Fld} (low : g.key < 0x800000) : get (upTo 33 (fnEnabled (min vfs.toNat 32)) u) g = get u g :=
    get_fnsEnabled (fun n => by simp only [F.MBX_FN_ENABLED]; omega) ..
  have enabled (f : Fin 33) := flag_fnsEnabled (n := min vfs.toNat 32) f.isLt u
  obtain ⟨mem', cores'⟩ : (upTo 33 (fnEnabled (min vfs.toNat 32)) u).mem = u.mem ∧ (upTo 33 (fnEnabled (min vfs.toNat 32)) u).cores = u.cores :=
    upTo_keeps (P := fun t => t.mem = u.mem ∧ t.cores = u.cores) 33 ⟨rfl, rfl⟩ fun _ _ ht => ht
  generalize upTo 33 (fnEnabled (min vfs.toNat 32)) u = v at *
  have told : FltOnly v (when bad (raise { src := 0x1F, dom := 0xB0 }) v) := when_keeps (P := FltOnly v) bad (.refl v) fun t ht =>
    ht.trans (raise_flt _ t (by decide) (by decide) rfl (by decide) (by decide))
  have low {g : Fld} (h : g.key < 0x1800000) : get (when bad (raise { src := 0x1F, dom := 0xB0 }) v) g = get v g := told.2 g (.inl h)
  refine ⟨_, run, ?_, ?_, ?_, fun f => ?_, ?_, ?_⟩
  · rw [low (by decide), other (by decide), shownWidth]
  · rw [low (by decide), other (by decide), shownSpeed]
  · unfold flag at degraded ⊢
    rw [low (by decide), other (by decide), degraded, ← hbad]
    simp
  · unfold flag at enabled ⊢
    have hf := f.isLt
    rw [low (by simp only [F.MBX_FN_ENABLED]; omega), enabled]
  · exact (congrArg State.mem told.1).trans (mem'.trans mem)
  · exact (congrArg State.cores told.1).trans (cores'.trans cores)

end

end Sys2Proof.Machine

namespace Sys2Proof.Machine

/-! ### The way of the PCI node to the stacks -/

/-- The bit address is that of a bank map, of a router's PRESENT, or of a routing table. -/
def wayKey (k : Nat) : Prop :=
  0x3000000 ≤ k ∧ k < 0x3180000 ∧ k % 0x80000 = 0xc0 ∨
    0x8000000 ≤ k ∧ k < 0x12000000 ∧ (k % 0x800000 = 0x580020 ∨ 0x580800 ≤ k % 0x800000 ∧ k % 0x800000 < 0x580d00)

/-- What reaches the stacks stands as it was: the routes, the banks, the errors that no one injects, and that no request waits. -/
structure WayStands (s t : State) : Prop where
  regs : ∀ g : Fld, wayKey g.key → get t g = get s g
  inj : t.flt.inj = s.flt.inj
  mesh : (∀ p ∈ s.mesh, reqChan p.body = none) → ∀ p ∈ t.mesh, reqChan p.body = none

theorem WayStands.refl (s : State) : WayStands s s := ⟨fun _ _ => rfl, rfl, fun h => h⟩

theorem WayStands.trans {r s t : State} (h : WayStands r s) (k : WayStands s t) : WayStands r t :=
  ⟨fun g hg => (k.regs g hg).trans (h.regs g hg), k.inj.trans h.inj, fun none => k.mesh (h.mesh none)⟩

theorem WayStands.each {α : Type} (l : List α) {f : α → State → State} (h : ∀ a t, WayStands t (f a t)) (s : State) : WayStands s (each l f s) :=
  each_keeps (P := WayStands s) l (.refl s) fun a t ht => ht.trans (h a t)

theorem WayStands.when (b : Bool) {f : State → State} (h : ∀ t, WayStands t (f t)) (s : State) : WayStands s (when b f s) :=
  when_keeps (P := WayStands s) b (.refl s) fun t ht => ht.trans (h t)

theorem WayStands.set {f : Fld} (off : ¬ wayKey f.key) (v : Nat) (s : State) : WayStands s (set f v s) :=
  ⟨fun _ hg => get_set_ne (fun e => off (e ▸ hg)) v s, rfl, fun h => h⟩

theorem WayStands.updCore (c : Nat) (f : CoreSt → CoreSt) (s : State) : WayStands s (updCore c f s) := ⟨fun _ _ => rfl, rfl, fun h => h⟩

/-- A change outside registers, collector and mesh. -/
theorem WayStands.of_same {s t : State} (regs : t.regs = s.regs) (flt : t.flt = s.flt) (mesh : t.mesh = s.mesh) : WayStands s t :=
  ⟨fun g _ => get_of_regs regs g, congrArg FltSt.inj flt, fun none => by rw [mesh]; exact none⟩

theorem FltOnly.wayStands {s t : State} (h : FltOnly s t) (inj : t.flt.inj = s.flt.inj) : WayStands s t := by
  refine ⟨fun g hg => h.2 g ?_, inj, fun none => ?_⟩
  · rcases hg with ⟨low, -⟩ | ⟨low, -⟩ <;> exact .inr (Nat.le_trans (by decide) low)
  · rw [show t.mesh = s.mesh by rw [h.1]]
    exact none

/-! ### Fences -/

/-- A register of a core's compute domain is none of the way. -/
theorem not_wayKey_core {c ofs : Nat} (low : ofs < 0x580000) : ¬ wayKey (0x8000000 + ofs + c * 0x800000) := by
  unfold wayKey
  omega

theorem not_wayKey_flt {k : Nat} (low : k < 0x3000000) : ¬ wayKey k := by
  unfold wayKey
  omega

theorem markEnding_way (c : Nat) (s : State) : WayStands s (markEnding c s) := by
  unfold markEnding
  dsimp only
  split
  · exact .each _ (fun _ _ => by exact .of_same rfl rfl rfl) s
  · exact .refl s

theorem stopped_way (c : Nat) (s : State) : WayStands s (stopped c s) := by
  have marked (l : List Nat) (t : State) : WayStands t (each l (fun r s => markRow c r true s) t) := .each l (fun _ _ => by exact .of_same rfl rfl rfl) t
  have undef (l : List Nat) (t : State) : WayStands t (each l (fun n s => setUndef c n true s) t) := .each l (fun _ _ => by exact .of_same rfl rfl rfl) t
  have skip (t : State) : WayStands t (skipDraw c t) := by
    unfold skipDraw
    exact (WayStands.updCore ..).trans (.set (f := F.PROOF_SKIP_ZERO_CNT c) (not_wayKey_core (ofs := 0x500300) (by decide)) ..)
  have abandoned (t : State) : WayStands t (abandonTick c t) := by
    unfold abandonTick
    dsimp only
    refine WayStands.trans ?_ (.set (f := F.SEQ_STAT_PHASE_ST c) (not_wayKey_core (ofs := 0x80021) (by decide)) ..)
    exact ((marked _ t).trans (.updCore ..)).trans (.when _ skip _)
  have idle (t : State) : WayStands t (stopUnits c t) := by
    unfold stopUnits
    dsimp only
    refine WayStands.trans ?_ (.set (f := F.CORE_CTL_STEEP_STAT_PEND_BUSY c) (not_wayKey_core (ofs := 0x121) (by decide)) ..)
    refine WayStands.trans ?_ (.set (f := F.CORE_CTL_STEEP_STAT_RUN_BUSY c) (not_wayKey_core (ofs := 0x120) (by decide)) ..)
    exact (undef _ t).trans (.updCore ..)
  unfold stopped
  split
  · exact idle s
  · exact (abandoned s).trans (idle _)

theorem clearedRegs_way (c : Nat) (s : State) : WayStands s (clearedRegs c s) := by
  refine ⟨fun g hg => ?_, rfl, fun h => h⟩
  unfold clearedRegs
  have apart : (g.key < 8 * (2 ^ 29 + c * 335872) ∨ 8 * (2 ^ 29 + (c + 1) * 335872) ≤ g.key) ∧
      (g.key < 8 * (coreBase c + 0x10000) ∨ 8 * (coreBase c + 0xB0000) ≤ g.key) := by
    unfold coreBase
    unfold wayKey at hg
    omega
  rw [get_eraseRegs_outside apart.1, get_eraseRegs_outside apart.2]

theorem resetCompute_way (c : Nat) (s : State) : WayStands s (resetCompute c s) := by
  have field {ofs : Nat} (low : ofs < 0x580000) (w r v : Nat) (t : State) : WayStands t (set ⟨0x8000000 + ofs + c * 0x800000, w, r⟩ v t) :=
    .set (not_wayKey_core low) v t
  have fused (l : List Nat) (t : State) : WayStands t (fuse c l t) := by
    refine .each l (fun a u => .set ?_ 0 u) t
    have key : (F.ARR_STAT_STATE c (a % 2624)).key = 0x8000000 + (0x200020 + a % 2624 * 0x200) + c * 0x800000 := by
      simp only [F.ARR_STAT_STATE]
      omega
    rw [key]
    exact not_wayKey_core (by omega)
  have cleared : WayStands s (resetRegs c s) := ((stopped_way c s).trans (clearedRegs_way c _)).trans (fused _ _)
  rw [resetCompute_eq]
  generalize resetRegs c s = u at *
  dsimp only
  refine WayStands.trans ?_ (field (ofs := 0x121) (by decide) _ _ _ _)
  refine WayStands.trans ?_ (field (ofs := 0x120) (by decide) _ _ _ _)
  refine WayStands.trans ?_ (field (ofs := 5) (by decide) _ _ _ _)
  refine WayStands.trans ?_ (field (ofs := 4) (by decide) _ _ _ _)
  refine WayStands.trans ?_ (field (ofs := 3) (by decide) _ _ _ _)
  exact cleared.trans (.of_same rfl rfl rfl)

theorem fenceCore_way (c : Nat) (s : State) : WayStands s (fenceCore c s) := by
  unfold fenceCore
  split
  · exact .refl s
  · refine (((markEnding_way c s).trans (resetCompute_way c _)).trans ?_).trans (.set (f := F.FLT_FENCE_CNT) (not_wayKey_flt (by decide)) ..)
    exact .set (f := F.CORE_CTL_STATE_STATE c) (not_wayKey_core (ofs := 0) (by decide)) ..

theorem safeState_way (s : State) : WayStands s (safeState s) := by
  by_cases safe : inSafe s = true
  · rw [safeState_stays safe]
    exact .refl s
  · rw [safeState_enters (Bool.eq_false_iff.2 safe)]
    have back : WayStands s (unCommit s) := by
      obtain ⟨rest, far⟩ := unCommit_spec s
      refine ⟨fun g hg => far g ?_, by rw [rest], fun none => by rw [rest]; exact none⟩
      have top : srvKey = 0x18000000 := rfl
      unfold wayKey at hg
      omega
    have marked : WayStands s (safeMarked s) :=
      (back.trans (.set (f := F.FLT_SAFE_TIME_TIME) (not_wayKey_flt (by decide)) ..)).trans (.set (f := F.FLT_STAT_SAFE) (not_wayKey_flt (by decide)) ..)
    exact marked.trans (.each _ fenceCore_way _)

/-! ### Events (R389) -/

theorem eventQueued_inj (r : FltRec) (s : State) : (eventQueued r s).flt.inj = s.flt.inj := by
  unfold eventQueued
  split
  · exact (congrArg FltSt.inj (showQueue_frame _).1).trans rfl
  · rfl

theorem pinEvent_inj (l : Nat) (s : State) : (pinEvent l s).flt.inj = s.flt.inj := by
  unfold pinEvent
  split
  · dsimp only
    split <;> rfl
  · rw [updPin_flt_same]

theorem noted_inj (e : Ev) (l : Nat) (left : List Nat) (s : State) : (noted e l left s).flt.inj = s.flt.inj := by
  unfold noted
  rw [markUnack_flt_same, record_eq, eventRanked_flt, eventQueued_inj, eventCaptured_flt, queue_eventCounted]
  rfl

/-- No event ends in, or has left, a class above L4. -/
theorem climb_le (s : State) (e : Ev) (fuel l : Nat) (left : List Nat) (low : l ≤ 4) (before : ∀ k ∈ left, k ≤ 4) :
    (climb s e fuel l left).1 ≤ 4 ∧ ∀ k ∈ (climb s e fuel l left).2, k ≤ 4 := by
  have more {k : Nat} (hk : k ≤ 4) : ∀ j ∈ left ++ [k], j ≤ 4 := fun j hj => by
    rcases List.mem_append.1 hj with old | last
    · exact before j old
    · exact (List.mem_singleton.1 last) ▸ hk
  induction fuel generalizing l left with
  | zero => exact ⟨low, before⟩
  | succ fuel ih =>
    have up {m k : Nat} (hm : m ≤ 4) (hk : k ≤ 4) := ih m (left ++ [k]) hm (more hk) fun {j} hj i hi => by
      rcases List.mem_append.1 hi with old | last
      · exact more hk i old
      · exact (List.mem_singleton.1 last) ▸ hj
    unfold climb
    split
    · exact ⟨Nat.zero_le 4, before⟩
    split
    · split
      · split
        · exact up (by decide) (by decide)
        · exact up (by decide) (by decide)
      · exact ⟨show 1 ≤ 4 by decide, before⟩
    split
    · split
      · exact up (by decide) (by decide)
      · exact ⟨show 2 ≤ 4 by decide, before⟩
    split
    · split
      · exact ⟨show 4 ≤ 4 by decide, more (by decide)⟩
      · exact ⟨show 3 ≤ 4 by decide, before⟩
    · exact ⟨low, before⟩

/-- An event from outside the cores is of class L0 or L1, or puts the package in safe state. -/
theorem climb_outside {s : State} {e : Ev} (outside : 20 ≤ e.dom) {l0 : Nat} (start : l0 ≤ 1) (left : List Nat) :
    (climb s e 4 l0 left).1 ≤ 1 ∨ (climb s e 4 l0 left).1 = 3 ∨ (climb s e 4 l0 left).1 = 4 := by
  have third (left : List Nat) : (climb s e 3 3 left).1 = 3 ∨ (climb s e 3 3 left).1 = 4 := by
    by_cases again : unacked s 3 = true <;> simp [climb, again]
  rcases Nat.le_one_iff_eq_zero_or_eq_one.1 start with rfl | rfl
  · exact .inl (Nat.zero_le 1)
  · unfold climb
    rw [if_neg (by decide), if_pos rfl]
    split
    · rw [if_neg (Nat.not_lt.2 outside)]
      exact .inr (third _)
    · exact .inl (Nat.le_refl 1)

/-- The reaction to a class (Table 14.1) leaves the way. -/
theorem react_way (l dom : Nat) (s : State) : WayStands s (react l dom s) := by
  unfold react
  split
  · exact fenceCore_way dom s
  split
  · exact safeState_way s
  split
  · exact (safeState_way s).trans ((WayStands.set (f := F.FLT_STAT_L4_REQ) (not_wayKey_flt (by decide)) 1 _).trans (.of_same rfl rfl rfl))
  · exact .refl s

theorem collect_eq (e : Ev) (l0 : Nat) (left0 : List Nat) (s : State) : collect e l0 left0 s =
    pinEvent (climb s e 4 l0 left0).1 (react (climb s e 4 l0 left0).1 e.dom (noted e (climb s e 4 l0 left0).1 (climb s e 4 l0 left0).2 s)) := rfl

theorem noted_flt_climbed {e : Ev} {l : Nat} {left : List Nat} (low : l ≤ 4) (before : ∀ k ∈ left, k ≤ 4) (dom : e.dom < 256) (src : e.src < 256)
    (s : State) : FltOnly s (noted e l left s) :=
  ((FltOnly.flt s _).trans (record_flt _ left _ low src before)).trans (markUnack_flt l e.dom _ dom)

section
variable {e : Ev} (dom : e.dom < 256) (src : e.src < 256)
include dom src

theorem collect_way {l0 : Nat} (start : l0 ≤ 4) {left0 : List Nat} (before : ∀ k ∈ left0, k ≤ 4) (s : State) : WayStands s (collect e l0 left0 s) := by
  obtain ⟨low, left⟩ := climb_le s e 4 l0 left0 start before
  rw [collect_eq]
  exact (((noted_flt_climbed low left dom src s).wayStands (noted_inj ..)).trans (react_way ..)).trans ((pinEvent_flt ..).wayStands (pinEvent_inj ..))

/-- Below L2 the collector alone changes; else the package is in safe state. -/
theorem collect_safe (outside : 20 ≤ e.dom) {l0 : Nat} (start : l0 ≤ 1) {left0 : List Nat} (before : ∀ k ∈ left0, k ≤ 4) (s : State) :
    FltOnly s (collect e l0 left0 s) ∧ inSafe (collect e l0 left0 s) = inSafe s ∨ inSafe (collect e l0 left0 s) = true := by
  obtain ⟨low, left⟩ := climb_le s e 4 l0 left0 (by omega) before
  have ends := climb_outside (s := s) outside start left0
  have recorded := noted_flt_climbed low left dom src s
  have same := inSafe_noted e (climb s e 4 l0 left0).1 (climb s e 4 l0 left0).2 s
  rw [collect_eq]
  generalize (climb s e 4 l0 left0).1 = l at *
  generalize noted e l (climb s e 4 l0 left0).2 s = u at *
  have pin (v : State) : inSafe (pinEvent l v) = inSafe v := by
    unfold inSafe flag
    rw [get_pinEvent _ _ (by decide) (by decide) (by decide)]
  rcases ends with minor | rfl | rfl
  · rw [react_low minor]
    exact .inl ⟨recorded.trans (pinEvent_flt ..), (pin u).trans same⟩
  · exact .inr ((pin _).trans (safeState_frame u).2.1)
  · refine .inr ((pin _).trans ?_)
    have asked : get (powerOffAsked (safeState u)) F.FLT_STAT_SAFE = get (safeState u) F.FLT_STAT_SAFE := get_powerOffAsked _ (by decide)
    have safe := (safeState_frame u).2.1
    unfold inSafe flag at *
    exact (congrArg (· == 1) asked).trans safe

theorem raise_way (low : srcClass e.src ≤ 4) (s : State) : WayStands s (raise e s) := by
  unfold raise
  split
  · exact collect_way dom src (by decide) (by decide) s
  · exact collect_way dom src low (fun _ h => absurd h List.not_mem_nil) s

theorem raise_safe (outside : 20 ≤ e.dom) (low : srcClass e.src ≤ 1) (s : State) : FltOnly s (raise e s) ∧ inSafe (raise e s) = inSafe s ∨
    inSafe (raise e s) = true := by
  unfold raise
  split
  · exact collect_safe dom src outside (by decide) (by decide) s
  · exact collect_safe dom src outside low (fun _ h => absurd h List.not_mem_nil) s

end

/-! ### What events leave of the stacks -/

/-- The bytes and the marks of the stacks, and their state beside the registers, are as before. -/
structure LinesStand (s t : State) : Prop where
  stk : t.mem.stk = s.mem.stk
  poison : t.mem.stkPoison = s.mem.stkPoison
  stks : t.stks = s.stks

theorem LinesStand.refl (s : State) : LinesStand s s := ⟨rfl, rfl, rfl⟩

theorem LinesStand.of_mem {s t : State} (mem : t.mem = s.mem) (stks : t.stks = s.stks) : LinesStand s t :=
  ⟨congrArg Mems.stk mem, congrArg Mems.stkPoison mem, stks⟩

theorem LinesStand.trans {r s t : State} (h : LinesStand r s) (k : LinesStand s t) : LinesStand r t :=
  ⟨k.stk.trans h.stk, k.poison.trans h.poison, k.stks.trans h.stks⟩

theorem FltOnly.linesStand {s t : State} (h : FltOnly s t) : LinesStand s t := .of_mem (by rw [h.1]) (by rw [h.1])

theorem fenceCore_lines (c : Nat) (s : State) : LinesStand s (fenceCore c s) :=
  ⟨(fenceCore_fencing c s).stk, fenceCore_stkPoison c s, by rw [(fenceCore_fencing c s).rest]⟩

theorem safeState_lines (s : State) : LinesStand s (safeState s) := by
  by_cases safe : inSafe s = true
  · rw [safeState_stays safe]
    exact .refl s
  · rw [safeState_enters (Bool.eq_false_iff.2 safe)]
    have marked : LinesStand s (safeMarked s) := by
      refine .of_mem (safeMarked_frame s).1 ?_
      rw [safeMarked, setB_stks, set_stks, (unCommit_spec s).1]
    exact marked.trans (each_keeps (P := LinesStand (safeMarked s)) _ (.refl _) fun c t ht => ht.trans (fenceCore_lines c t))

theorem react_lines (l dom : Nat) (s : State) : LinesStand s (react l dom s) := by
  unfold react
  split
  · exact fenceCore_lines dom s
  split
  · exact safeState_lines s
  split
  · exact (safeState_lines s).trans ⟨rfl, rfl, rfl⟩
  · exact .refl s

theorem raise_lines {e : Ev} (dom : e.dom < 256) (src : e.src < 256) (low : srcClass e.src ≤ 4) (s : State) : LinesStand s (raise e s) := by
  have collected {l0 : Nat} {left0 : List Nat} (start : l0 ≤ 4) (before : ∀ k ∈ left0, k ≤ 4) : LinesStand s (collect e l0 left0 s) := by
    obtain ⟨class_, left⟩ := climb_le s e 4 l0 left0 start before
    rw [collect_eq]
    exact ((noted_flt_climbed class_ left dom src s).linesStand.trans (react_lines ..)).trans (pinEvent_flt ..).linesStand
  unfold raise
  split
  · exact collected (by decide) (by decide)
  · exact collected low fun _ h => absurd h List.not_mem_nil

end Sys2Proof.Machine

namespace Sys2Proof.Machine

/-! ### Trips through the mesh (R240, R260) -/

/-- What may happen on the way: a change of the way's own counters, of the collector, or the entry into safe state. -/
structure Passes (s t : State) : Prop where
  way : WayStands s t
  calm : inSafe t = true ∨ t.mem.spad = s.mem.spad ∧ t.cores = s.cores ∧ inSafe t = inSafe s

theorem Passes.refl (s : State) : Passes s s := ⟨.refl s, .inr ⟨rfl, rfl, rfl⟩⟩

theorem Passes.trans {r s t : State} (h : Passes r s) (k : Passes s t) : Passes r t := by
  refine ⟨h.way.trans k.way, ?_⟩
  rcases k.calm with safe | ⟨spad, cores, same⟩
  · exact .inl safe
  rcases h.calm with safe | ⟨spad', cores', same'⟩
  · exact .inl (same.trans safe)
  · exact .inr ⟨spad.trans spad', cores.trans cores', same.trans same'⟩

theorem Passes.when (b : Bool) {f : State → State} (h : ∀ t, Passes t (f t)) (s : State) : Passes s (when b f s) :=
  when_keeps (P := Passes s) b (.refl s) fun t ht => ht.trans (h t)

theorem Passes.set {f : Fld} (off : ¬ wayKey f.key) (other : F.FLT_STAT_SAFE.key ≠ f.key) (v : Nat) (s : State) : Passes s (set f v s) :=
  ⟨.set off v s, .inr ⟨rfl, rfl, inSafe_set other v s⟩⟩

/-- Once in safe state, the package stays in it. -/
theorem Passes.stays {s t : State} (h : Passes s t) (safe : inSafe s = true) : inSafe t = true := by
  rcases h.calm with now | ⟨-, -, same⟩
  · exact now
  · exact same.trans safe

theorem routerCount_off {c ofs : Nat} (high : 0x580d00 ≤ ofs) (small : ofs < 0x800000) : ¬ wayKey (0x8000000 + ofs + c * 0x800000) := by
  unfold wayKey
  omega

/-- A router's counter counts. -/
theorem bumpRtr_passes {c ofs w r : Nat} (high : 0x580d00 ≤ ofs) (small : ofs < 0x800000) (s : State) :
    Passes s (bumpRtr c ⟨0x8000000 + ofs + c * 0x800000, w, r⟩ s) ∧ LinesStand s (bumpRtr c ⟨0x8000000 + ofs + c * 0x800000, w, r⟩ s) := by
  have other : F.FLT_STAT_SAFE.key ≠ 0x8000000 + ofs + c * 0x800000 := by
    simp only [F.FLT_STAT_SAFE]
    omega
  exact ⟨.when _ (fun t => .set (routerCount_off high small) other _ t) s,
    when_keeps (P := LinesStand s) _ (.refl s) fun t ht => ht.trans (.of_mem rfl rfl)⟩

theorem tripFrom_passes (d : Nat) (fuel c : Nat) (esc : Bool) (s : State) :
    Passes s (tripFrom d fuel c esc s).2 ∧ LinesStand s (tripFrom d fuel c esc s).2 := by
  induction fuel generalizing c esc s with
  | zero => exact ⟨.refl s, .refl s⟩
  | succ fuel ih =>
    have flit := bumpRtr_passes (c := c) (ofs := 0x581800) (w := 64) (r := 0) (by decide) (by decide) s
    have counted (b : Bool) : Passes s (when b (bumpRtr c (F.RTR_ESC_CNT c)) (bumpRtr c (F.RTR_FLIT_CNT c) s)) ∧
        LinesStand s (when b (bumpRtr c (F.RTR_ESC_CNT c)) (bumpRtr c (F.RTR_FLIT_CNT c) s)) :=
      when_keeps (P := fun t => Passes s t ∧ LinesStand s t) b flit fun t ⟨pass, lines⟩ =>
        have esc := bumpRtr_passes (c := c) (ofs := 0x581900) (w := 64) (r := 0) (by decide) (by decide) t
        ⟨pass.trans esc.1, lines.trans esc.2⟩
    unfold tripFrom
    dsimp only
    obtain ⟨pass, lines⟩ := counted (esc || flag s (F.RTR_ROUTE_ESC c d))
    split
    · have ejected := bumpRtr_passes (c := c) (ofs := 0x581880) (w := 64) (r := 0) (by decide) (by decide)
        (when (esc || flag s (F.RTR_ROUTE_ESC c d)) (bumpRtr c (F.RTR_ESC_CNT c)) (bumpRtr c (F.RTR_FLIT_CNT c) s))
      exact ⟨pass.trans ejected.1, lines.trans ejected.2⟩
    · exact ⟨pass, lines⟩
    · exact ⟨pass.trans (ih ..).1, lines.trans (ih ..).2⟩
    · exact bumpRtr_passes (c := c) (ofs := 0x581980) (w := 64) (r := 0) (by decide) (by decide) s

theorem trip_passes (src d : Nat) (s : State) : Passes s (trip src d s).2 ∧ LinesStand s (trip src d s).2 := by
  have injected : Passes s (when (decide (src < 20)) (bumpRtr src (F.RTR_INJ_CNT src)) s) ∧
      LinesStand s (when (decide (src < 20)) (bumpRtr src (F.RTR_INJ_CNT src)) s) :=
    when_keeps (P := fun t => Passes s t ∧ LinesStand s t) _ ⟨.refl s, .refl s⟩ fun t ⟨pass, lines⟩ =>
      have inj := bumpRtr_passes (c := src) (ofs := 0x581840) (w := 64) (r := 0) (by decide) (by decide) t
      ⟨pass.trans inj.1, lines.trans inj.2⟩
  obtain ⟨pass, lines⟩ := tripFrom_passes d 64 (if src < 20 then src else attachFor s src d) false
    (when (decide (src < 20)) (bumpRtr src (F.RTR_INJ_CNT src)) s)
  exact ⟨injected.1.trans pass, injected.2.trans lines⟩

theorem hopOf_router {s : State} {c out r : Nat} (hop : hopOf s c out = .router r) : r < 20 := by
  have at_ {x y : Nat} (hx : x < 10) (hy : y < 2) (there : (if routerPresent s (routerAt x y) then Hop.router (routerAt x y) else Hop.none) = .router r) :
      r < 20 := by
    split at there
    · obtain rfl := Hop.router.inj there
      unfold routerAt
      split <;> omega
    · cases there
  have col : colOf c < 10 := by
    unfold colOf
    split <;> omega
  unfold hopOf at hop
  dsimp only at hop
  have row : rowOf c < 2 := Nat.mod_lt _ (by decide)
  split at hop
  · cases hop
  split at hop
  · split at hop
    · exact at_ col (by decide) hop
    · cases hop
  split at hop
  · split at hop
    · exact at_ col (by decide) hop
    · cases hop
  split at hop
  · split at hop
    · exact at_ (by omega) row hop
    · cases hop
  split at hop
  · split at hop
    · exact at_ (by omega) row hop
    · cases hop
  split at hop
  · split at hop <;> cases hop
  split at hop
  · split at hop <;> cases hop
  · cases hop

theorem routerPresent_way {s t : State} (h : ∀ g : Fld, wayKey g.key → get t g = get s g) {r : Nat} (known : r < 20) :
    routerPresent t r = routerPresent s r := by
  unfold routerPresent flag
  rw [h _ (by simp only [F.RTR_STAT_PRESENT]; unfold wayKey; omega)]

theorem routeOut_way {s t : State} (h : ∀ g : Fld, wayKey g.key → get t g = get s g) {c d : Nat} (known : c < 20) (node : d < 40) :
    routeOut t c d = routeOut s c d := h _ (by simp only [F.RTR_ROUTE_OUT]; unfold wayKey; omega)

theorem hopOf_way {s t : State} (h : ∀ g : Fld, wayKey g.key → get t g = get s g) (c out : Nat) :
    hopOf t c out = hopOf s c out := by
  have go {x y : Nat} (hx : x < 10) (hy : y < 2) : (if routerPresent t (routerAt x y) then Hop.router (routerAt x y) else Hop.none) =
      if routerPresent s (routerAt x y) then Hop.router (routerAt x y) else Hop.none := by
    rw [routerPresent_way h (by unfold routerAt; split <;> omega)]
  have col : colOf c < 10 := by
    unfold colOf
    split <;> omega
  have row : rowOf c < 2 := Nat.mod_lt _ (by decide)
  unfold hopOf
  dsimp only
  rw [go col (by decide), go col (by decide)]
  by_cases east : colOf c < 9
  · rw [if_pos east, if_pos east, go (by omega) row, go (by omega) row]
  · rw [if_neg east, if_neg east, go (by omega) row]

/-- Where the way stands, a flit arrives as it did. -/
theorem tripFrom_way {d : Nat} (node : d < 40) (fuel : Nat) {c : Nat} (known : c < 20) (esc esc' : Bool) {s t : State}
    (h : ∀ g : Fld, wayKey g.key → get t g = get s g) : (tripFrom d fuel c esc t).1 = (tripFrom d fuel c esc' s).1 := by
  induction fuel generalizing c esc esc' s t with
  | zero => rfl
  | succ fuel ih =>
    unfold tripFrom
    dsimp only
    rw [hopOf_way h, routeOut_way h known node]
    cases hop : hopOf s c (routeOut s c d) with
    | core => rfl
    | crust m => rfl
    | none => rfl
    | router r =>
      have counted (u : State) (e : Bool) (g : Fld) (hg : wayKey g.key) :
          get (when e (bumpRtr c (F.RTR_ESC_CNT c)) (bumpRtr c (F.RTR_FLIT_CNT c) u)) g = get u g := by
        have flit := (bumpRtr_passes (c := c) (ofs := 0x581800) (w := 64) (r := 0) (by decide) (by decide) u).1.way.regs g hg
        exact when_keeps (P := fun v => get v g = get u g) e flit fun v hv =>
          ((bumpRtr_passes (c := c) (ofs := 0x581900) (w := 64) (r := 0) (by decide) (by decide) v).1.way.regs g hg).trans hv
      exact ih (hopOf_router hop) _ _ fun g hg => (counted t _ g hg).trans ((h g hg).trans (counted s _ g hg).symm)

theorem trip_pci (d : Nat) (s : State) : trip 35 d s = tripFrom d 64 9 false s := rfl

theorem stkNode_lt (l : Nat) : stkNode (lineStack l) < 40 := by
  unfold stkNode lineStack
  omega

theorem trip_pci_way (l : Nat) {s t : State} (h : WayStands s t) :
    (trip 35 (stkNode (lineStack l)) t).1 = (trip 35 (stkNode (lineStack l)) s).1 := by
  rw [trip_pci, trip_pci]
  exact tripFrom_way (stkNode_lt l) 64 (by decide) false false h.regs

/-- With no request on the mesh, an access is alone in its channel. -/
theorem reachLine_pci {s : State} (idle : ∀ p ∈ s.mesh, reqChan p.body = none) (l : Nat) (wr : Bool) :
    reachLine 35 l wr s = trip 35 (stkNode (lineStack l)) s := by
  have none : ∀ u : State, (∀ p ∈ u.mesh, reqChan p.body = .none) → queued u (lineStack l) (lineChannel l) = [] := fun u hu => by
    unfold queued
    refine List.filter_eq_nil_iff.2 fun p hp => ?_
    rw [hu p hp]
    simp
  have start : when (!wr && decide (35 < 20) && decide (256 ≤ (core s 35).tags)) (bumpRtr 35 (F.RTR_CREDIT_STALL_CYC_CNT 35)) s = s := by
    cases wr <;> rfl
  have idle' := (trip_passes 35 (stkNode (lineStack l)) s).1.way.mesh idle
  unfold reachLine
  dsimp only
  rw [start]
  generalize trip 35 (stkNode (lineStack l)) s = u at *
  have waits : queueWait l wr u.2 = u.2 := by
    unfold queueWait
    dsimp only
    rw [none u.2 idle']
    exact if_pos (show 0 < 64 by decide)
  rw [waits, none u.2 idle']
  obtain ⟨arrives, v⟩ := u
  cases arrives <;> rfl

theorem backTrip_passes (l : Nat) (s : State) : Passes s (backTrip 35 l s) ∧ LinesStand s (backTrip 35 l s) := trip_passes ..

end Sys2Proof.Machine

namespace Sys2Proof.Machine

/-! ### What an access of a line finds (R248, R389) -/

/-- Beside line `l`, the bytes and the marks of the stacks are as before. -/
def OnlyLine (l : Nat) (s t : State) : Prop :=
  (∀ m, m ≠ l → linePoison t m = linePoison s m) ∧ ∀ b, b / 512 ≠ l → rdByte t.mem.stk b = rdByte s.mem.stk b

theorem LinesStand.onlyLine {s t : State} (h : LinesStand s t) (l : Nat) : OnlyLine l s t :=
  ⟨fun m _ => by rw [linePoison, h.poison]; rfl, fun b _ => by rw [h.stk]⟩

theorem OnlyLine.trans {l : Nat} {r s t : State} (h : OnlyLine l r s) (k : OnlyLine l s t) : OnlyLine l r t :=
  ⟨fun m hm => (k.1 m hm).trans (h.1 m hm), fun b hb => (k.2 b hb).trans (h.2 b hb)⟩

theorem linePoison_lines {s t : State} (h : LinesStand s t) (m : Nat) : linePoison t m = linePoison s m := by
  rw [linePoison, h.poison]
  rfl

/-- An access finds the line as it is, or newly uncorrectable. -/
structure LineFound (l : Nat) (s t : State) : Prop where
  pass : Passes s t
  stks : t.stks = s.stks
  found : LinesStand s t ∨ OnlyLine l s t ∧ linePoison s l = false ∧ linePoison t l = true

theorem LineFound.refl (l : Nat) (s : State) : LineFound l s s := ⟨.refl s, rfl, .inl (.refl s)⟩

theorem LineFound.after {l : Nat} {r s t : State} (h : LineFound l r s) (pass : Passes s t) (lines : LinesStand s t) : LineFound l r t := by
  refine ⟨h.pass.trans pass, lines.stks.trans h.stks, ?_⟩
  rcases h.found with same | ⟨only, fresh, marked⟩
  · exact .inl (same.trans lines)
  · exact .inr ⟨only.trans (lines.onlyLine l), fresh, (linePoison_lines lines l).trans marked⟩

theorem LineFound.before {l : Nat} {r s t : State} (pass : Passes r s) (lines : LinesStand r s) (h : LineFound l s t) : LineFound l r t := by
  refine ⟨pass.trans h.pass, h.stks.trans lines.stks, ?_⟩
  rcases h.found with same | ⟨only, fresh, marked⟩
  · exact .inl (lines.trans same)
  · exact .inr ⟨(lines.onlyLine l).trans only, (linePoison_lines lines l).symm.trans fresh, marked⟩

/-- A stack's register apart from its bank map. -/
theorem stkField_passes {l ofs w r : Nat} (small : ofs < 0x80000) (other : ofs ≠ 0xc0) (v : Nat) (s : State) :
    Passes s (set ⟨0x3000000 + ofs + lineStack l * 0x80000, w, r⟩ v s) := by
  have known : lineStack l < 3 := Nat.mod_lt _ (by decide)
  refine .set ?_ ?_ v s
  · unfold wayKey
    dsimp only
    omega
  · simp only [F.FLT_STAT_SAFE]
    omega

theorem freeBytes_passes (n : Nat) (s : State) : Passes s (freeBytes n s).2 ∧ LinesStand s (freeBytes n s).2 :=
  ⟨⟨.of_same rfl rfl rfl, .inr ⟨rfl, rfl, rfl⟩⟩, .of_mem rfl rfl⟩

theorem freeBytes_length (n : Nat) (s : State) : (freeBytes n s).1.length = n := by simp [freeBytes]

theorem set_linesStand (f : Fld) (v : Nat) (s : State) : LinesStand s (set f v s) := .of_mem rfl rfl

theorem hwSet_linesStand (f : Fld) (i : Nat) (s : State) : LinesStand s (hwSet f i s) := .of_mem rfl rfl

theorem hwSet_passes {f : Fld} {i : Nat} {s : State} (h : Passes s (set f (withBit (get s f) i true) s)) : Passes s (hwSet f i s) :=
  h.trans ⟨.of_same rfl rfl rfl, .inr ⟨rfl, rfl, rfl⟩⟩

theorem markUncorr_found {l : Nat} {s : State} (fresh : linePoison s l = false) (kind src : Nat) :
    LineFound l s (markUncorr (lineStack l) l kind src s) := by
  unfold markUncorr
  dsimp only
  obtain ⟨drawn, drawnLines⟩ := freeBytes_passes 512 s
  have size := freeBytes_length 512 s
  generalize freeBytes 512 s = f at *
  obtain ⟨d, r⟩ := f
  dsimp only at *
  have written : Passes r (markLine l true (putStk (l * 512) d r)) := ⟨.of_same rfl rfl rfl, .inr ⟨rfl, rfl, rfl⟩⟩
  have lost : LineFound l s (markLine l true (putStk (l * 512) d r)) := by
    refine ⟨drawn.trans written, drawnLines.stks, .inr ⟨⟨fun m hm => ?_, fun b hb => ?_⟩, fresh, ?_⟩⟩
    · rw [linePoison_markLine, if_neg hm]
      exact linePoison_lines drawnLines m
    · rw [← drawnLines.stk]
      refine rdByte_wrBytes_ne _ _ _ ?_
      rw [size]
      omega
    · rw [linePoison_markLine, if_pos rfl]
  generalize markLine l true (putStk (l * 512) d r) = u at *
  have counted : LineFound l s (bump (F.STK_UNCORR_CNT (lineStack l)) u) :=
    lost.after (stkField_passes (ofs := 0x540) (by decide) (by decide) _ u) (set_linesStand ..)
  generalize bump (F.STK_UNCORR_CNT (lineStack l)) u = v at *
  split
  · exact counted
  · have lineGiven : LineFound l s (set (F.STK_ERR_LAST_LINE (lineStack l)) l v) :=
      counted.after (stkField_passes (ofs := 0x140) (by decide) (by decide) _ v) (set_linesStand ..)
    generalize set (F.STK_ERR_LAST_LINE (lineStack l)) l v = w at *
    have kindGiven : LineFound l s (set (F.STK_ERR_LAST_KIND (lineStack l)) kind w) :=
      lineGiven.after (stkField_passes (ofs := 0x15e) (by decide) (by decide) _ w) (set_linesStand ..)
    generalize set (F.STK_ERR_LAST_KIND (lineStack l)) kind w = x at *
    have srcGiven : LineFound l s (set (F.STK_ERR_LAST_SRC (lineStack l)) src x) :=
      kindGiven.after (stkField_passes (ofs := 0x160) (by decide) (by decide) _ x) (set_linesStand ..)
    generalize set (F.STK_ERR_LAST_SRC (lineStack l)) src x = y at *
    have valid : LineFound l s (hwSet (F.STK_ERR_LAST_VALID (lineStack l)) 0 y) :=
      srcGiven.after (hwSet_passes (stkField_passes (ofs := 0x17f) (by decide) (by decide) _ y)) (hwSet_linesStand ..)
    generalize hwSet (F.STK_ERR_LAST_VALID (lineStack l)) 0 y = z at *
    exact valid.after (stkField_passes (ofs := 0x180) (by decide) (by decide) _ z) (set_linesStand ..)

/-- An event of a stack's channel. -/
theorem raise_line {e : Ev} {l : Nat} (dom : e.dom = lineDom l) (src : e.src < 0x50) (s : State) : Passes s (raise e s) ∧ LinesStand s (raise e s) := by
  have low : srcClass e.src ≤ 1 := by
    unfold srcClass
    rw [if_pos src]
    split <;> omega
  have range : 20 ≤ e.dom ∧ e.dom < 256 := by
    rw [dom]
    unfold lineDom lineStack lineChannel
    omega
  refine ⟨⟨raise_way range.2 (by omega) (by omega) s, ?_⟩, raise_lines range.2 (by omega) (by omega) s⟩
  rcases raise_safe range.2 (by omega) range.1 low s with ⟨flt, same⟩ | safe
  · exact .inr ⟨by rw [flt.1], by rw [flt.1], same⟩
  · exact .inl safe

theorem LineFound.raised {e : Ev} {l : Nat} {s t : State} (h : LineFound l s t) (dom : e.dom = lineDom l) (src : e.src = 1 ∨ e.src = 0x38) :
    LineFound l s (raise e t) :=
  h.after (raise_line dom (by omega) t).1 (raise_line dom (by omega) t).2

theorem pendSet_passes (d : Nat) (s : State) : Passes s (pendSet d s) := ⟨⟨fun _ _ => rfl, rfl, fun h => h⟩, .inr ⟨rfl, rfl, rfl⟩⟩

theorem dramAccess_found {s : State} (quiet : s.flt.inj = none) (l kind src access k : Nat) (e : Ecc) :
    LineFound l s (dramAccess (lineStack l) l kind src access k e s) := by
  have err : stkErr s l e = (e, false) := by simp [stkErr, quiet]
  unfold dramAccess
  dsimp only
  rw [err]
  cases e with
  | clean => exact .refl l s
  | corrected =>
    have counted : Passes s (bumpN (F.STK_CORR_CNT (lineStack l)) (k + 1) s) := stkField_passes (ofs := 0x500) (by decide) (by decide) _ s
    have lines : LinesStand s (bumpN (F.STK_CORR_CNT (lineStack l)) (k + 1) s) := set_linesStand ..
    simp only [when, Bool.false_eq_true, if_false]
    generalize bumpN (F.STK_CORR_CNT (lineStack l)) (k + 1) s = u at *
    split
    · have found : LineFound l s (if linePoison u l then u else markUncorr (lineStack l) l kind src u) := by
        split
        · exact LineFound.before counted lines (.refl l u)
        · next fresh => exact LineFound.before counted lines (markUncorr_found (Bool.eq_false_iff.2 fresh) kind src)
      refine LineFound.raised found ?_ ?_
      · rfl
      · exact .inl rfl
    · have noted : Passes u (pendSet (lineDom l) u) := pendSet_passes ..
      have notedLines : LinesStand u (pendSet (lineDom l) u) := .of_mem rfl rfl
      generalize pendSet (lineDom l) u = v at *
      refine LineFound.raised (LineFound.before (counted.trans noted) (lines.trans notedLines) (.refl l v)) ?_ ?_
      · rfl
      · exact .inl rfl
  | uncorrectable =>
    show LineFound l s (if linePoison s l then s else raise _ (markUncorr (lineStack l) l kind src s))
    split
    · exact .refl l s
    · next fresh =>
      exact (markUncorr_found (Bool.eq_false_iff.2 fresh) kind src).raised (by rfl) (by exact .inr rfl)

theorem foundError_passes (s : State) : Passes s (foundError s).2 ∧ LinesStand s (foundError s).2 :=
  ⟨⟨.of_same rfl rfl rfl, .inr ⟨rfl, rfl, rfl⟩⟩, .of_mem rfl rfl⟩

/-! ### Reads of the PCI node, line by line -/

/-- The PCI node reaches a line in a bank that is ON, past no waiting request and no injection. -/
structure Open (l : Nat) (s : State) : Prop where
  inside : l < lineCount
  on : bankOn s (lineStack l) (lineBank l) = true
  arrives : (trip 35 (stkNode (lineStack l)) s).1 = true

theorem bankOn_way {s t : State} (h : WayStands s t) (l : Nat) : bankOn t (lineStack l) (lineBank l) = bankOn s (lineStack l) (lineBank l) := by
  have known : lineStack l < 3 := Nat.mod_lt _ (by decide)
  unfold bankOn getBit
  rw [h.regs _ (by simp only [F.STK_BANK_ON_ON]; unfold wayKey; omega)]

theorem Open.stays {l : Nat} {s t : State} (h : Open l s) (way : WayStands s t) : Open l t :=
  ⟨h.inside, (bankOn_way way l).trans h.on, (trip_pci_way l way).trans h.arrives⟩

/-- No request waits, and no error is injected. -/
def Idle (s : State) : Prop := (∀ p ∈ s.mesh, reqChan p.body = none) ∧ s.flt.inj = none

theorem Idle.stays {s t : State} (h : Idle s) (way : WayStands s t) : Idle t := ⟨way.mesh h.1, way.inj.trans h.2⟩

theorem mergeOf_stks {s t : State} (h : t.stks = s.stks) (n l : Nat) : mergeOf t n l = mergeOf s n l := by
  unfold mergeOf stk
  rw [h]

/-- Opening an entry for a line leaves the entries of other lines. -/
theorem openMerge_spec {l : Nat} (data : List Byte) (poison : Bool) (rqs : List (Nat × Requester)) (s : State) :
    Passes s (openMerge (lineStack l) l data poison rqs s).2 ∧ (openMerge (lineStack l) l data poison rqs s).2.mem = s.mem ∧
      ∀ m, m ≠ l → mergeOf s (lineStack m) m = none → mergeOf (openMerge (lineStack l) l data poison rqs s).2 (lineStack m) m = none := by
  unfold openMerge
  dsimp only
  split
  · exact ⟨stkField_passes (ofs := 0x4c0) (by decide) (by decide) _ s, rfl, fun _ _ h => h⟩
  · refine ⟨⟨.of_same rfl rfl rfl, .inr ⟨rfl, rfl, rfl⟩⟩, rfl, fun m other none => ?_⟩
    by_cases same : lineStack m = lineStack l
    · unfold mergeOf at none ⊢
      rw [same] at none ⊢
      rw [stk_updStk_same, List.find?_append, none]
      simp [Ne.symm other]
    · unfold mergeOf stk updStk at *
      rw [SMap.get_put_ne _ _ _ same]
      exact none

/-- What the PCI node's read of a line gives and leaves. -/
structure LineRead (l : Nat) (s : State) (r : (Nat × List Byte × Bool) × State) : Prop where
  pass : Passes s r.2
  only : OnlyLine l s r.2
  merges : ∀ m, m ≠ l → mergeOf s (lineStack m) m = none → mergeOf r.2 (lineStack m) m = none
  marks : linePoison s l = true → linePoison r.2 l = true
  given : linePoison r.2 l = linePoison s l → r.1.2.1 = lineBytes s l ∧ r.1.2.2 = linePoison s l ∧ r.2.mem.stk = s.mem.stk

theorem performRead_spec {s : State} (quiet : s.flt.inj = none) (l src k : Nat) (e : Ecc) :
    LineFound l s (performRead (lineStack l) l src k e s).2 ∧
      (performRead (lineStack l) l src k e s).1 =
        (lineBytes (performRead (lineStack l) l src k e s).2 l, linePoison (performRead (lineStack l) l src k e s).2 l) := by
  refine ⟨?_, rfl⟩
  have counted : Passes s (when (linePoison s l) (bump (F.STK_POISON_RD_CNT (lineStack l))) (bump (F.STK_RD_CNT (lineStack l)) s)) ∧
      LinesStand s (when (linePoison s l) (bump (F.STK_POISON_RD_CNT (lineStack l))) (bump (F.STK_RD_CNT (lineStack l)) s)) :=
    when_keeps (P := fun t => Passes s t ∧ LinesStand s t) _
      ⟨stkField_passes (ofs := 0x400) (by decide) (by decide) _ s, .of_mem rfl rfl⟩ fun t ⟨pass, lines⟩ =>
      ⟨pass.trans (stkField_passes (ofs := 0x580) (by decide) (by decide) _ t), lines.trans (.of_mem rfl rfl)⟩
  exact LineFound.before counted.1 counted.2 (dramAccess_found (counted.1.way.inj.trans quiet) ..)

theorem readLine_pci {l : Nat} {s : State} (open_ : Open l s) (idle : Idle s) (apart : mergeOf s (lineStack l) l = none) (full : Bool) :
    LineRead l s (readLine 35 l full s) := by
  have reach := reachLine_pci idle.1 l false
  obtain ⟨gone, lines⟩ := trip_passes 35 (stkNode (lineStack l)) s
  have there := open_.stays gone.way
  have free : mergeOf (trip 35 (stkNode (lineStack l)) s).2 (lineStack l) l = none := (mergeOf_stks lines.stks ..).trans apart
  have run : readLine 35 l full s = (let u := (trip 35 (stkNode (lineStack l)) s).2
      let f := foundError u
      let r := performRead (lineStack l) l 35 f.1.2 f.1.1 f.2
      ((0, r.1), backTrip 35 l (if actB u (F.STK_CTL_MERGE_EN (lineStack l)) && full then (openMerge (lineStack l) l r.1.1 r.1.2 [] r.2).2 else r.2))) := by
    unfold readLine
    dsimp only
    rw [reach, open_.arrives, if_pos rfl]
    unfold takeLineAt
    dsimp only
    rw [if_neg (Nat.not_le.2 there.inside), there.on, if_neg (by decide), free, ite_self]
  rw [run]
  dsimp only
  have still := idle.stays gone.way
  clear run free there reach
  generalize (trip 35 (stkNode (lineStack l)) s).2 = u at gone lines still ⊢
  obtain ⟨drawn, drawnLines⟩ := foundError_passes u
  have quiet := (still.stays drawn.way).2
  generalize foundError u = f at *
  obtain ⟨⟨e, k⟩, v⟩ := f
  obtain ⟨found, given⟩ := performRead_spec quiet l 35 k e
  generalize performRead (lineStack l) l 35 k e v = r at *
  obtain ⟨⟨data, poison⟩, x⟩ := r
  obtain ⟨data_eq, poison_eq⟩ := Prod.mk.inj given
  have whole : LineFound l s x := LineFound.before (gone.trans drawn) (lines.trans drawnLines) found
  have closed : Passes x (if actB u (F.STK_CTL_MERGE_EN (lineStack l)) && full then (openMerge (lineStack l) l data poison [] x).2 else x) ∧
      (if actB u (F.STK_CTL_MERGE_EN (lineStack l)) && full then (openMerge (lineStack l) l data poison [] x).2 else x).mem = x.mem ∧
      ∀ m, m ≠ l → mergeOf x (lineStack m) m = none →
        mergeOf (if actB u (F.STK_CTL_MERGE_EN (lineStack l)) && full then (openMerge (lineStack l) l data poison [] x).2 else x) (lineStack m) m = none := by
    split
    · exact openMerge_spec data poison [] x
    · exact ⟨.refl x, rfl, fun _ _ h => h⟩
  generalize (if actB u (F.STK_CTL_MERGE_EN (lineStack l)) && full then (openMerge (lineStack l) l data poison [] x).2 else x) = y at *
  obtain ⟨kept, mem, merges⟩ := closed
  obtain ⟨back, backLines⟩ := backTrip_passes l y
  dsimp only
  generalize backTrip 35 l y = z at *
  have stk : z.mem.stk = x.mem.stk := backLines.stk.trans (congrArg Mems.stk mem)
  have marks (m : Nat) : linePoison z m = linePoison x m := (linePoison_lines backLines m).trans (linePoison_of_mem mem m)
  have only : OnlyLine l s x := by
    rcases whole.found with same | ⟨only, -, -⟩
    · exact same.onlyLine l
    · exact only
  refine ⟨whole.pass.trans (kept.trans back), ⟨fun m hm => (marks m).trans (only.1 m hm), fun b hb => ?_⟩, fun m hm none => ?_, fun set => ?_,
    fun same => ?_⟩
  · rw [stk]
    exact only.2 b hb
  · exact (mergeOf_stks backLines.stks ..).trans (merges m hm ((mergeOf_stks whole.stks ..).trans none))
  · rcases whole.found with same | ⟨-, -, marked⟩
    · exact (marks l).trans ((linePoison_lines same l).trans set)
    · exact (marks l).trans marked
  · rcases whole.found with stand | ⟨-, fresh, marked⟩
    · refine ⟨?_, ?_, stk.trans stand.stk⟩
      · rw [data_eq]
        unfold lineBytes
        rw [stand.stk]
      · rw [poison_eq, linePoison_lines stand l]
    · rw [marks l, marked, fresh] at same
      cases same

end Sys2Proof.Machine

namespace Sys2Proof.Machine

/-! ### States that differ in the DMA counters only -/

/-- Key of the counters of DMA errors and of bytes that DMA reads. -/
def dmaKey (k : Nat) : Prop := k = 0x940 ∨ k = 0x980

/-- Two states that differ in those counters only. -/
def Twin (s t : State) : Prop :=
  ∃ m, t = { s with regs := m } ∧ ∀ (d k : Nat), ¬ dmaKey k → SMap.get d m k = SMap.get d s.regs k

protected theorem Twin.refl (s : State) : Twin s s := ⟨s.regs, rfl, fun _ _ _ => rfl⟩

protected theorem Twin.trans {r s t : State} (h : Twin r s) (k : Twin s t) : Twin r t := by
  obtain ⟨m, rfl, hm⟩ := h
  obtain ⟨n, rfl, hn⟩ := k
  exact ⟨n, rfl, fun d j hj => (hn d j hj).trans (hm d j hj)⟩

protected theorem Twin.mem {s t : State} (h : Twin s t) : t.mem = s.mem := by
  obtain ⟨m, rfl, -⟩ := h
  rfl

protected theorem Twin.flt {s t : State} (h : Twin s t) : t.flt = s.flt := by
  obtain ⟨m, rfl, -⟩ := h
  rfl

protected theorem Twin.get {s t : State} (h : Twin s t) {g : Fld} (other : ¬ dmaKey g.key) : get t g = get s g := by
  obtain ⟨m, rfl, hm⟩ := h
  exact hm _ _ other

protected theorem Twin.getBit {s t : State} (h : Twin s t) {g : Fld} (other : ¬ dmaKey g.key) (i : Nat) : getBit t g i = getBit s g i := by
  unfold getBit
  rw [h.get other]

protected theorem Twin.flag {s t : State} (h : Twin s t) {g : Fld} (other : ¬ dmaKey g.key) : flag t g = flag s g := by
  unfold flag
  rw [h.get other]

protected theorem Twin.now {s t : State} (h : Twin s t) : now t = now s := h.get (by unfold dmaKey; decide)

protected theorem Twin.inSafe {s t : State} (h : Twin s t) : inSafe t = inSafe s := h.flag (by unfold dmaKey; decide)

protected theorem Twin.way {s t : State} (h : Twin s t) : WayStands s t := by
  refine ⟨fun g hg => h.get ?_, by rw [h.flt], fun none => ?_⟩
  · unfold wayKey at hg
    unfold dmaKey
    omega
  · obtain ⟨m, rfl, -⟩ := h
    exact none

/-- What an update that neither reads nor writes a register leaves. -/
protected theorem Twin.map {s t : State} (h : Twin s t) {u : State → State} (apart : ∀ (s : State) m, u { s with regs := m } = { u s with regs := m })
    (kept : ∀ s, (u s).regs = s.regs) : Twin (u s) (u t) := by
  obtain ⟨m, rfl, hm⟩ := h
  exact ⟨m, apart s m, fun d k hk => by rw [kept, hm d k hk]⟩

theorem get_put_any (d e : Nat) (m : SMap Nat) (k v : Nat) : SMap.get d (SMap.put e m k v) k = if v = e then d else v := by
  unfold SMap.put
  split
  · exact SMap.get_del_same d m k
  · exact SMap.get_ins_same d m k v

theorem put_agrees {m n : SMap Nat} {p : Nat → Prop} (h : ∀ d k, ¬ p k → SMap.get d m k = SMap.get d n k) (e j v : Nat) (d k : Nat) (hk : ¬ p k) :
    SMap.get d (SMap.put e m j v) k = SMap.get d (SMap.put e n j v) k := by
  by_cases same : k = j
  · rw [same, get_put_any, get_put_any]
  · rw [SMap.get_put_other d e m v same, SMap.get_put_other d e n v same, h d k hk]

theorem erase_agrees {m n : SMap Nat} {p : Nat → Prop} (h : ∀ d k, ¬ p k → SMap.get d m k = SMap.get d n k) (lo hi : Nat) (d k : Nat) (hk : ¬ p k) :
    SMap.get d (SMap.erase m lo hi) k = SMap.get d (SMap.erase n lo hi) k := by
  by_cases inside : lo ≤ k ∧ k < hi
  · rw [SMap.get_erase_inside d m inside.1 inside.2, SMap.get_erase_inside d n inside.1 inside.2]
  · have outside : k < lo ∨ hi ≤ k := by omega
    rw [SMap.get_erase_outside d m outside, SMap.get_erase_outside d n outside, h d k hk]

protected theorem Twin.set {s t : State} (h : Twin s t) (f : Fld) (v : Nat) : Twin (set f v s) (set f v t) := by
  obtain ⟨m, rfl, hm⟩ := h
  exact ⟨SMap.put f.reset m f.key (v % 2 ^ f.width), rfl, put_agrees hm _ _ _⟩

protected theorem Twin.setB {s t : State} (h : Twin s t) (f : Fld) (b : Bool) : Twin (setB f b s) (setB f b t) := h.set f _

protected theorem Twin.bumpN {s t : State} (h : Twin s t) {f : Fld} (other : ¬ dmaKey f.key) (n : Nat) : Twin (bumpN f n s) (bumpN f n t) := by
  unfold bumpN
  rw [h.get other]
  exact h.set f _

protected theorem Twin.bump {s t : State} (h : Twin s t) {f : Fld} (other : ¬ dmaKey f.key) : Twin (bump f s) (bump f t) := h.bumpN other 1

protected theorem Twin.setBit {s t : State} (h : Twin s t) {f : Fld} (other : ¬ dmaKey f.key) (i : Nat) (b : Bool) : Twin (setBit f i b s) (setBit f i b t) := by
  unfold setBit
  rw [h.get other]
  exact h.set f _

protected theorem Twin.noteSet {s t : State} (h : Twin s t) (f : Fld) (i : Nat) : Twin (noteSet f i s) (noteSet f i t) := by
  have time := h.now
  unfold now at time
  unfold noteSet
  rw [time]
  exact h.map (u := fun r => { r with setAt := SMap.put 0 r.setAt (f.key + i) (get s F.TB_TIME_TIME + 1) }) (fun _ _ => rfl) (fun _ => rfl)

protected theorem Twin.hwSet {s t : State} (h : Twin s t) {f : Fld} (other : ¬ dmaKey f.key) (i : Nat) : Twin (hwSet f i s) (hwSet f i t) :=
  (h.setBit other i true).noteSet f i

protected theorem Twin.when {s t : State} (h : Twin s t) (b : Bool) {f g : State → State} (k : Twin (f s) (g t)) : Twin (when b f s) (when b g t) := by
  cases b
  · exact h
  · exact k

protected theorem Twin.each {α : Type} (l : List α) {f : α → State → State} (k : ∀ a s t, Twin s t → Twin (f a s) (f a t)) {s t : State} (h : Twin s t) :
    Twin (each l f s) (each l f t) := by
  induction l generalizing s t with
  | nil => exact h
  | cons a l ih => exact ih (k a s t h)

protected theorem Twin.updCore {s t : State} (h : Twin s t) (c : Nat) (f : CoreSt → CoreSt) : Twin (updCore c f s) (updCore c f t) :=
  h.map (u := updCore c f) (fun _ _ => rfl) (fun _ => rfl)

protected theorem Twin.core {s t : State} (h : Twin s t) (c : Nat) : core t c = core s c := by
  obtain ⟨m, rfl, -⟩ := h
  rfl

protected theorem Twin.actv {s t : State} (h : Twin s t) (g : Fld) : actv t g = actv s g := by
  obtain ⟨m, rfl, -⟩ := h
  rfl

protected theorem Twin.eraseRegs {s t : State} (h : Twin s t) (lo hi : Nat) : Twin (eraseRegs lo hi s) (eraseRegs lo hi t) := by
  obtain ⟨m, rfl, hm⟩ := h
  exact ⟨SMap.erase m (8 * lo) (8 * hi), rfl, erase_agrees hm _ _⟩

/-! ### Reactions of twins -/

/-- A field above the block of the package's own registers. -/
theorem not_dmaKey {k : Nat} (high : 0x980 < k) : ¬ dmaKey k := by
  unfold dmaKey
  omega

protected theorem Twin.markRow {s t : State} (h : Twin s t) (c r : Nat) (b : Bool) : Twin (markRow c r b s) (markRow c r b t) :=
  h.map (u := markRow c r b) (fun _ _ => rfl) (fun _ => rfl)

theorem scanReqs_regs (s : State) (m : SMap Nat) (c bank fuel i : Nat) : scanReqs { s with regs := m } c bank fuel i = scanReqs s c bank fuel i := by
  induction fuel generalizing i with
  | zero => rfl
  | succ fuel ih =>
    unfold scanReqs
    simp only [ih]
    rfl

protected theorem Twin.scanReqs {s t : State} (h : Twin s t) (c bank fuel i : Nat) : scanReqs t c bank fuel i = scanReqs s c bank fuel i := by
  obtain ⟨m, rfl, -⟩ := h
  exact scanReqs_regs s m c bank fuel i

protected theorem Twin.skipDraw {s t : State} (h : Twin s t) (c : Nat) : Twin (skipDraw c s) (skipDraw c t) :=
  (h.updCore c _).bump (not_dmaKey (by simp only [F.PROOF_SKIP_ZERO_CNT]; omega))

protected theorem Twin.abandonTick {s t : State} (h : Twin s t) (c : Nat) : Twin (abandonTick c s) (abandonTick c t) := by
  unfold abandonTick
  dsimp only
  rw [h.core, h.actv, h.get (g := F.SEQ_STAT_PHASE_ST c) (not_dmaKey (by simp only [F.SEQ_STAT_PHASE_ST]; omega)),
    h.get (g := F.SEQ_STAT_PC c) (not_dmaKey (by simp only [F.SEQ_STAT_PC]; omega)), h.scanReqs]
  have marked := Twin.each (core s c).outRows (f := fun r u => markRow c r true u) (fun r _ _ k => k.markRow c r true) h
  exact ((marked.updCore c _).when _ ((marked.updCore c _).skipDraw c)).set _ 0

protected theorem Twin.setUndef {s t : State} (h : Twin s t) (c n : Nat) (b : Bool) : Twin (setUndef c n b s) (setUndef c n b t) :=
  h.map (u := setUndef c n b) (fun _ _ => rfl) (fun _ => rfl)

protected theorem Twin.stopUnits {s t : State} (h : Twin s t) (c : Nat) : Twin (stopUnits c s) (stopUnits c t) := by
  unfold stopUnits
  dsimp only
  rw [h.core]
  exact (((Twin.each _ (f := fun n u => setUndef c n true u) (fun n _ _ k => k.setUndef c n true) h).updCore c _).setB _ false).setB _ false

protected theorem Twin.badArr {s t : State} (h : Twin s t) : t.badArr = s.badArr := by
  obtain ⟨m, rfl, -⟩ := h
  rfl

/-- The memories of a core's program and calibration store are emptied. -/
def emptyStores (c : Nat) (s : State) : State :=
  { s with mem := { s.mem with
    prog := SMap.erase s.mem.prog (c * 2 ^ 19) ((c + 1) * 2 ^ 19)
    cal := SMap.erase s.mem.cal (c * 2 ^ 20) ((c + 1) * 2 ^ 20) } }

protected theorem Twin.emptyStores {s t : State} (h : Twin s t) (c : Nat) : Twin (emptyStores c s) (emptyStores c t) :=
  h.map (u := emptyStores c) (fun _ _ => rfl) (fun _ => rfl)

protected theorem Twin.resetCompute {s t : State} (h : Twin s t) (c : Nat) : Twin (resetCompute c s) (resetCompute c t) := by
  have ended : Twin (if get s (F.SEQ_STAT_PHASE_ST c) = 0 then s else abandonTick c s) (if get t (F.SEQ_STAT_PHASE_ST c) = 0 then t else abandonTick c t) := by
    rw [h.get (g := F.SEQ_STAT_PHASE_ST c) (not_dmaKey (by simp only [F.SEQ_STAT_PHASE_ST]; omega))]
    split
    · exact h
    · exact h.abandonTick c
  have erased := ((ended.stopUnits c).eraseRegs (coreBase c + 0x10000) (coreBase c + 0xB0000)).eraseRegs (2 ^ 29 + c * 335872) (2 ^ 29 + (c + 1) * 335872)
  unfold resetCompute
  dsimp only
  rw [erased.badArr]
  have fused := Twin.each ((eraseRegs (2 ^ 29 + c * 335872) (2 ^ 29 + (c + 1) * 335872) (eraseRegs (coreBase c + 0x10000) (coreBase c + 0xB0000)
      (stopUnits c (if get s (F.SEQ_STAT_PHASE_ST c) = 0 then s else abandonTick c s)))).badArr.filter fun a => a / 2624 = c)
    (f := fun a u => set (F.ARR_STAT_STATE c (a % 2624)) 0 u) (fun a _ _ k => k.set _ 0) erased
  exact ((((((fused.emptyStores c).updCore c _).setB _ false).setB _ false).setB _ false).setB _ false).setB _ false

protected theorem Twin.markEnding {s t : State} (h : Twin s t) (c : Nat) : Twin (markEnding c s) (markEnding c t) := by
  unfold markEnding
  dsimp only
  rw [h.core, h.now]
  split
  · exact Twin.each _ (fun r _ _ k => k.markRow c r true) h
  · exact h

protected theorem Twin.fenceCore {s t : State} (h : Twin s t) (c : Nat) : Twin (fenceCore c s) (fenceCore c t) := by
  unfold fenceCore coreState coreGood
  rw [h.get (g := F.CORE_CTL_STATE_STATE c) (not_dmaKey (by simp only [F.CORE_CTL_STATE_STATE]; omega)),
    h.getBit (g := F.LC_CORE_FUSE_GOOD) (by unfold dmaKey; decide)]
  split
  · exact h
  · exact (((h.markEnding c).resetCompute c).set _ cFenced).bump (not_dmaKey (by decide))

protected theorem Twin.unCommit {s t : State} (h : Twin s t) : Twin (unCommit s) (unCommit t) := by
  have time := h.now
  obtain ⟨m, rfl, hm⟩ := h
  unfold unCommit
  dsimp only
  rw [time]
  split
  · exact ⟨m, rfl, hm⟩
  · next u _ =>
    split
    · exact ⟨m, rfl, hm⟩
    · refine ⟨_, rfl, fun d k hk => ?_⟩
      have folded (l : List (Nat × Nat)) {x y : SMap Nat} (agree : ∀ d k, ¬ dmaKey k → SMap.get d x k = SMap.get d y k) :
          ∀ d k, ¬ dmaKey k → SMap.get d (l.foldl (fun m p => SMap.put 0 m p.1 p.2) x) k = SMap.get d (l.foldl (fun m p => SMap.put 0 m p.1 p.2) y) k := by
        induction l generalizing x y with
        | nil => exact agree
        | cons p l ih => exact ih (put_agrees agree 0 p.1 p.2)
      exact folded _ (erase_agrees hm srvKey srvKeyEnd) d k hk

protected theorem Twin.safeState {s t : State} (h : Twin s t) : Twin (safeState s) (safeState t) := by
  unfold safeState
  rw [h.now, h.flag (g := F.FLT_STAT_SAFE) (by unfold dmaKey; decide)]
  split
  · exact h
  · exact Twin.each allCores (fun c _ _ k => k.fenceCore c) ((h.unCommit.set _ _).setB _ true)

protected theorem Twin.react {s t : State} (h : Twin s t) (l dom : Nat) : Twin (react l dom s) (react l dom t) := by
  unfold react
  split
  · exact h.fenceCore dom
  · split
    · exact h.safeState
    · split
      · exact (h.safeState.setB _ true).map (u := fun r => { r with pwroff := true }) (fun _ _ => rfl) (fun _ => rfl)
      · exact h

/-! ### The collector of twins -/

protected theorem Twin.unacked {s t : State} (h : Twin s t) (l : Nat) : unacked t l = unacked s l := h.getBit (by unfold dmaKey; decide) l

protected theorem Twin.setRec {s t : State} (h : Twin s t) (fs : List Fld) (r : FltRec) (valid : Bool) : Twin (setRec fs r valid s) (setRec fs r valid t) :=
  Twin.each _ (fun p _ _ k => k.set p.1 p.2) h

protected theorem Twin.showQueue {s t : State} (h : Twin s t) : Twin (showQueue s) (showQueue t) := by
  unfold showQueue
  dsimp only
  rw [h.flt]
  split
  · exact (h.set _ _).setRec ..
  · exact (h.set _ _).setRec ..

protected theorem Twin.updFlt {s t : State} (h : Twin s t) (f : FltSt → FltSt) : Twin { s with flt := f s.flt } { t with flt := f t.flt } :=
  h.map (u := fun r => { r with flt := f r.flt }) (fun _ _ => rfl) (fun _ => rfl)

theorem climb_twin {s t : State} (h : Twin s t) (e : Ev) (fuel l : Nat) (left : List Nat) : climb t e fuel l left = climb s e fuel l left := by
  induction fuel generalizing l left with
  | zero => rfl
  | succ fuel ih =>
    unfold climb
    simp only [ih, h.unacked, h.flt]

protected theorem Twin.pinMin {s t : State} (h : Twin s t) : pinMin t = pinMin s := by
  obtain ⟨m, rfl, -⟩ := h
  rfl

protected theorem Twin.updPin {s t : State} (h : Twin s t) : Twin (updPin s) (updPin t) := by
  have wanted : pinWanted t = pinWanted s := by
    unfold pinWanted
    simp only [h.unacked, h.pinMin]
  unfold updPin
  rw [wanted, h.pinMin, h.flag (g := F.FLT_STAT_ERRMODE) (by unfold dmaKey; decide), h.flag (g := F.FLT_STAT_SAFE) (by unfold dmaKey; decide),
    h.flag (g := F.FLT_STAT_L4_REQ) (by unfold dmaKey; decide)]
  split
  · exact h.when _ (h.setB _ true)
  · exact h.setB _ _

protected theorem Twin.pinEvent {s t : State} (h : Twin s t) (l : Nat) : Twin (pinEvent l s) (pinEvent l t) := by
  unfold pinEvent startPulse
  dsimp only
  rw [h.flag (g := F.FLT_STAT_ERRMODE) (by unfold dmaKey; decide), h.flag (g := F.FLT_STAT_ARMED) (by unfold dmaKey; decide), h.pinMin, h.flt]
  have seen := h.map (u := fun r => { r with flt := { s.flt with pulsed3 := s.flt.pulsed3 || l == 3, pulsed4 := s.flt.pulsed4 || l == 4 } }) (fun _ _ => rfl)
    (fun _ => rfl)
  split
  · split
    · exact ((seen.setB _ true).setB _ false).bump (by unfold dmaKey; decide)
    · exact seen
  · exact h.updPin

protected theorem Twin.markUnack {s t : State} (h : Twin s t) (l dom : Nat) : Twin (markUnack l dom s) (markUnack l dom t) :=
  (h.when _ (h.setBit (f := F.FLT_PEND_DOMS l (dom / 32)) (not_dmaKey (by simp only [F.FLT_PEND_DOMS]; omega)) _ true)).setBit
    (f := F.FLT_STAT_UNACK) (by unfold dmaKey; decide) l true

protected theorem Twin.record {s t : State} (h : Twin s t) (r : FltRec) (left : List Nat) : Twin (record r left s) (record r left t) := by
  have counted := Twin.each left (f := fun l u => bump (F.FLT_ESC_CNT l) u)
    (fun l _ _ k => k.bump (not_dmaKey (by simp only [F.FLT_ESC_CNT]; omega)))
    ((h.bump (f := F.FLT_EVT_CNT r.cls) (not_dmaKey (by simp only [F.FLT_EVT_CNT]; omega))).bump
      (f := F.FLT_SRC_CNT r.src) (not_dmaKey (by simp only [F.FLT_SRC_CNT]; omega)))
  unfold record
  dsimp only
  generalize each left (fun l s => bump (F.FLT_ESC_CNT l) s) (bump (F.FLT_SRC_CNT r.src) (bump (F.FLT_EVT_CNT r.cls) s)) = s1 at *
  generalize each left (fun l s => bump (F.FLT_ESC_CNT l) s) (bump (F.FLT_SRC_CNT r.src) (bump (F.FLT_EVT_CNT r.cls) t)) = t1 at *
  have captured : Twin (if flag s1 (F.FLT_CAP_VALID r.cls) then s1 else noteSet (F.FLT_CAP_VALID r.cls) 0 (setRec (capFields r.cls) r true s1))
      (if flag t1 (F.FLT_CAP_VALID r.cls) then t1 else noteSet (F.FLT_CAP_VALID r.cls) 0 (setRec (capFields r.cls) r true t1)) := by
    rw [counted.flag (g := F.FLT_CAP_VALID r.cls) (not_dmaKey (by simp only [F.FLT_CAP_VALID]; omega))]
    split
    · exact counted
    · exact (counted.setRec ..).noteSet _ 0
  generalize (if flag s1 (F.FLT_CAP_VALID r.cls) then s1 else _) = s2 at *
  generalize (if flag t1 (F.FLT_CAP_VALID r.cls) then t1 else _) = t2 at *
  have queue : Twin (if s2.flt.queue.length < 256 then showQueue { s2 with flt := { s2.flt with queue := s2.flt.queue ++ [r] } }
        else bump F.FLT_LOG_DROP_CNT s2)
      (if t2.flt.queue.length < 256 then showQueue { t2 with flt := { t2.flt with queue := t2.flt.queue ++ [r] } }
        else bump F.FLT_LOG_DROP_CNT t2) := by
    have joined := (captured.updFlt fun k => { k with queue := k.queue ++ [r] }).showQueue
    rw [captured.flt] at joined ⊢
    split
    · exact joined
    · exact captured.bump (by unfold dmaKey; decide)
  generalize (if s2.flt.queue.length < 256 then _ else _) = s3 at *
  generalize (if t2.flt.queue.length < 256 then _ else _) = t3 at *
  rw [queue.get (g := F.FLT_STAT_HIGHEST) (by unfold dmaKey; decide)]
  split
  · exact queue.set _ _
  · exact queue

protected theorem Twin.collect {s t : State} (h : Twin s t) (e : Ev) (l0 : Nat) (left0 : List Nat) : Twin (collect e l0 left0 s) (collect e l0 left0 t) := by
  unfold collect
  dsimp only
  rw [climb_twin h, h.now, h.flt]
  exact ((((h.map (u := fun r => { r with flt := { s.flt with
      esc0 := if srcEscalates e.src && srcClass e.src == 0 then NSet.add s.flt.esc0 e.dom else s.flt.esc0
      esc1 := if srcEscalates e.src && 1 ≤ (climb s e 4 l0 left0).1 then NSet.add s.flt.esc1 e.dom else s.flt.esc1 } })
    (fun _ _ => rfl) (fun _ => rfl)).record ..).markUnack ..).react ..).pinEvent _

protected theorem Twin.raise {s t : State} (h : Twin s t) (e : Ev) : Twin (raise e s) (raise e t) := by
  unfold raise
  split
  · exact h.collect ..
  · exact h.collect ..

end Sys2Proof.Machine

namespace Sys2Proof.Machine

/-! ### Accesses of twins -/

protected theorem Twin.bumpRtr {s t : State} (h : Twin s t) (c : Nat) {f : Fld} (high : 0x980 < f.key) : Twin (bumpRtr c f s) (bumpRtr c f t) := by
  unfold bumpRtr routerPresent
  rw [h.flag (g := F.RTR_STAT_PRESENT c) (not_dmaKey (by simp only [F.RTR_STAT_PRESENT]; omega))]
  exact h.when _ (h.bump (not_dmaKey high))

theorem hopOf_twin {s t : State} (h : Twin s t) (c out : Nat) : hopOf t c out = hopOf s c out := hopOf_way h.way.regs c out

theorem routeOut_twin {s t : State} (h : Twin s t) (c d : Nat) : routeOut t c d = routeOut s c d :=
  h.get (not_dmaKey (by simp only [F.RTR_ROUTE_OUT]; omega))

theorem tripFrom_twin {s t : State} (h : Twin s t) (d fuel c : Nat) (esc : Bool) :
    (tripFrom d fuel c esc t).1 = (tripFrom d fuel c esc s).1 ∧ Twin (tripFrom d fuel c esc s).2 (tripFrom d fuel c esc t).2 := by
  induction fuel generalizing c esc s t with
  | zero => exact ⟨rfl, h⟩
  | succ fuel ih =>
    unfold tripFrom
    dsimp only
    rw [hopOf_twin h, routeOut_twin h, h.flag (g := F.RTR_ROUTE_ESC c d) (not_dmaKey (by simp only [F.RTR_ROUTE_ESC]; omega))]
    have counted := h.bumpRtr c (f := F.RTR_FLIT_CNT c) (by simp only [F.RTR_FLIT_CNT]; omega)
    have escaped := counted.when (esc || flag s (F.RTR_ROUTE_ESC c d)) (counted.bumpRtr c (f := F.RTR_ESC_CNT c) (by simp only [F.RTR_ESC_CNT]; omega))
    cases hopOf s c (routeOut s c d) with
    | core => exact ⟨rfl, escaped.bumpRtr c (by simp only [F.RTR_EJ_CNT]; omega)⟩
    | crust m => exact ⟨rfl, escaped⟩
    | router r => exact ih escaped r _
    | none => exact ⟨rfl, h.bumpRtr c (by simp only [F.RTR_DROP_NOROUTE_CNT]; omega)⟩

theorem pathLen_twin {s t : State} (h : Twin s t) (d fuel c n : Nat) (seam : Bool) : pathLen t d fuel c n seam = pathLen s d fuel c n seam := by
  induction fuel generalizing c n seam with
  | zero => rfl
  | succ fuel ih =>
    unfold pathLen
    simp only [ih, hopOf_twin h, routeOut_twin h]

theorem attachFor_twin {s t : State} (h : Twin s t) (node d : Nat) : attachFor t node d = attachFor s node d := by
  have far (c : Nat) : dist t c d = dist s c d := by
    unfold dist path
    rw [pathLen_twin h]
  unfold attachFor
  simp only [far]

theorem trip_twin {s t : State} (h : Twin s t) (src d : Nat) : (trip src d t).1 = (trip src d s).1 ∧ Twin (trip src d s).2 (trip src d t).2 := by
  unfold trip
  rw [attachFor_twin h]
  exact tripFrom_twin (h.when _ (h.bumpRtr src (by simp only [F.RTR_INJ_CNT]; omega))) ..

protected theorem Twin.place {s t : State} (h : Twin s t) (p : Packet) : Twin (place p s) (place p t) := by
  have starts : attachFor t p.src = attachFor s p.src := funext fun d => attachFor_twin h p.src d
  unfold place
  dsimp only
  rw [starts]
  split
  · exact h.map (u := fun r => { r with mesh := r.mesh ++ [{ p with pos := p.src, via := p.src }] }) (fun _ _ => rfl) (fun _ => rfl)
  · exact h.map (u := fun r => { r with mesh := r.mesh ++ (uniq (p.dst.map (attachFor s p.src))).map fun a =>
      { p with pos := a, via := p.src, dst := p.dst.filter fun d => attachFor s p.src d == a } }) (fun _ _ => rfl) (fun _ => rfl)

protected theorem Twin.inject {s t : State} (h : Twin s t) (p : Packet) : Twin (inject p s) (inject p t) :=
  (h.when _ (h.bumpRtr p.src (by simp only [F.RTR_INJ_CNT]; omega))).place p

protected theorem Twin.stks {s t : State} (h : Twin s t) : t.stks = s.stks := by
  obtain ⟨m, rfl, -⟩ := h
  rfl

protected theorem Twin.closeMerge {s t : State} (h : Twin s t) (n : Nat) (m : Merge) : Twin (closeMerge n m s) (closeMerge n m t) := by
  have closed : Twin (updStk n (fun k => { k with merges := k.merges.filter fun x => x.line != m.line }) s)
      (updStk n (fun k => { k with merges := k.merges.filter fun x => x.line != m.line }) t) :=
    h.map (u := updStk n fun k => { k with merges := k.merges.filter fun x => x.line != m.line }) (fun _ _ => rfl) (fun _ => rfl)
  exact closed.when _ (closed.inject _)

protected theorem Twin.markLine {s t : State} (h : Twin s t) (l : Nat) (b : Bool) : Twin (markLine l b s) (markLine l b t) :=
  h.map (u := markLine l b) (fun _ _ => rfl) (fun _ => rfl)

protected theorem Twin.putStk {s t : State} (h : Twin s t) (a : Nat) (bs : List Byte) : Twin (putStk a bs s) (putStk a bs t) :=
  h.map (u := putStk a bs) (fun _ _ => rfl) (fun _ => rfl)

protected theorem Twin.performWrite {s t : State} (h : Twin s t) (n l ofs : Nat) (data : List Byte) (poison : Bool) :
    Twin (performWrite n l ofs data poison s) (performWrite n l ofs data poison t) := by
  have closed : Twin (beforeWrite n l s) (beforeWrite n l t) := by
    unfold beforeWrite
    rw [mergeOf_stks h.stks]
    split
    · exact h.closeMerge ..
    · exact h
  have stored : Twin (bytesStored n l ofs data s) (bytesStored n l ofs data t) :=
    (closed.bump (f := F.STK_WR_CNT n) (not_dmaKey (by simp only [F.STK_WR_CNT]; omega))).putStk ..
  rw [performWrite_eq, performWrite_eq]
  split
  · exact stored.markLine l true
  · split
    · exact stored.markLine l false
    · exact stored

theorem freeBytes_twin {s t : State} (h : Twin s t) (n : Nat) : (freeBytes n t).1 = (freeBytes n s).1 ∧ Twin (freeBytes n s).2 (freeBytes n t).2 := by
  obtain ⟨m, rfl, hm⟩ := h
  exact ⟨rfl, m, rfl, hm⟩

theorem foundError_twin {s t : State} (h : Twin s t) : (foundError t).1 = (foundError s).1 ∧ Twin (foundError s).2 (foundError t).2 := by
  obtain ⟨m, rfl, hm⟩ := h
  exact ⟨rfl, m, rfl, hm⟩

protected theorem Twin.markUncorr {s t : State} (h : Twin s t) (n l kind src : Nat) : Twin (markUncorr n l kind src s) (markUncorr n l kind src t) := by
  unfold markUncorr
  dsimp only
  obtain ⟨same, drawn⟩ := freeBytes_twin h 512
  rw [same]
  have counted := ((drawn.putStk (l * 512) (freeBytes 512 s).1).markLine l true).bump (f := F.STK_UNCORR_CNT n)
    (not_dmaKey (by simp only [F.STK_UNCORR_CNT]; omega))
  generalize bump (F.STK_UNCORR_CNT n) (markLine l true (putStk (l * 512) (freeBytes 512 s).1 (freeBytes 512 s).2)) = u at *
  generalize bump (F.STK_UNCORR_CNT n) (markLine l true (putStk (l * 512) (freeBytes 512 s).1 (freeBytes 512 t).2)) = v at *
  rw [counted.now, counted.flag (g := F.STK_ERR_LAST_VALID n) (not_dmaKey (by simp only [F.STK_ERR_LAST_VALID]; omega))]
  split
  · exact counted
  · exact ((((counted.set _ l).set _ kind).set _ src).hwSet (f := F.STK_ERR_LAST_VALID n)
      (not_dmaKey (by simp only [F.STK_ERR_LAST_VALID]; omega)) 0).set _ _

protected theorem Twin.linePoison {s t : State} (h : Twin s t) (l : Nat) : linePoison t l = linePoison s l := linePoison_of_mem h.mem l

protected theorem Twin.pendSet {s t : State} (h : Twin s t) (d : Nat) : Twin (pendSet d s) (pendSet d t) :=
  h.map (u := pendSet d) (fun _ _ => rfl) (fun _ => rfl)

protected theorem Twin.dramAccess {s t : State} (h : Twin s t) (quiet : s.flt.inj = none) (n l kind src access k : Nat) (e : Ecc) :
    Twin (dramAccess n l kind src access k e s) (dramAccess n l kind src access k e t) := by
  have err (u : State) (none : u.flt.inj = none) : stkErr u l e = (e, false) := by simp [stkErr, none]
  unfold dramAccess
  dsimp only
  rw [err s quiet, err t (by rw [h.flt, quiet])]
  cases e with
  | clean => exact h
  | corrected =>
    simp only [when, Bool.false_eq_true, if_false]
    have counted := h.bumpN (f := F.STK_CORR_CNT n) (not_dmaKey (by simp only [F.STK_CORR_CNT]; omega)) (k + 1)
    generalize bumpN (F.STK_CORR_CNT n) (k + 1) s = u at *
    generalize bumpN (F.STK_CORR_CNT n) (k + 1) t = v at *
    unfold pendHit
    rw [counted.flt, counted.linePoison]
    split
    · split
      · exact counted.raise _
      · exact (counted.markUncorr ..).raise _
    · exact (counted.pendSet _).raise _
  | uncorrectable =>
    show Twin (if linePoison s l then s else raise _ (markUncorr n l kind src s)) (if linePoison t l then t else raise _ (markUncorr n l kind src t))
    rw [h.linePoison]
    split
    · exact h
    · exact (h.markUncorr ..).raise _

theorem doWrite_twin {s t : State} (h : Twin s t) (quiet : s.flt.inj = none) (n : Nat) {l : Nat} (inside : l < lineCount) (ofs src k : Nat) (poison : Bool)
    (e : Ecc) (data : List Byte) :
    (doWrite n l ofs src k true poison e data t).1 = (doWrite n l ofs src k true poison e data s).1 ∧
      Twin (doWrite n l ofs src k true poison e data s).2 (doWrite n l ofs src k true poison e data t).2 := by
  unfold doWrite
  rw [h.inSafe, if_neg (Nat.not_le.2 inside), if_neg (Nat.not_le.2 inside)]
  split
  · exact ⟨rfl, h.bump (by unfold dmaKey; decide)⟩
  · simp only [Bool.not_true, Bool.false_eq_true, if_false]
    refine ⟨trivial, Twin.performWrite ?_ ..⟩
    cases partial32 ofs data.length
    · exact h
    · exact h.dramAccess quiet ..

end Sys2Proof.Machine

namespace Sys2Proof.Machine

/-! ### Writes of the PCI node, line by line -/

theorem inject_mesh {p : Packet} (answer : reqChan p.body = none) (s : State) (idle : ∀ q ∈ s.mesh, reqChan q.body = none) :
    ∀ q ∈ (inject p s).mesh, reqChan q.body = none := by
  have before : (when (decide (p.src < 20)) (bumpRtr p.src (F.RTR_INJ_CNT p.src)) s).mesh = s.mesh :=
    when_keeps (P := fun t => t.mesh = s.mesh) _ rfl fun t same => when_keeps (P := fun t => t.mesh = s.mesh) _ same fun _ h => h
  unfold inject place
  generalize when (decide (p.src < 20)) (bumpRtr p.src (F.RTR_INJ_CNT p.src)) s = u at *
  split
  · intro q hq
    rcases List.mem_append.1 hq with old | new
    · exact idle q (before ▸ old)
    · rw [List.mem_singleton.1 new]
      exact answer
  · intro q hq
    rcases List.mem_append.1 hq with old | new
    · exact idle q (before ▸ old)
    · obtain ⟨a, -, rfl⟩ := List.mem_map.1 new
      exact answer

theorem closeMerge_way (n : Nat) (m : Merge) (s : State) : WayStands s (closeMerge n m s) := by
  obtain ⟨⟨-, -, -, flt⟩, regs⟩ := closeMerge_same n m s
  refine ⟨fun g _ => get_of_regs regs g, by rw [flt], fun idle => ?_⟩
  exact when_keeps (P := fun t => ∀ p ∈ t.mesh, reqChan p.body = none) _ idle fun t => inject_mesh rfl t

theorem beforeWrite_passes (n l : Nat) (s : State) : Passes s (beforeWrite n l s) := by
  obtain ⟨⟨mem, cores, -, -⟩, regs⟩ := beforeWrite_same n l s
  refine ⟨?_, .inr ⟨by rw [mem], cores, ?_⟩⟩
  · unfold beforeWrite
    split
    · exact closeMerge_way ..
    · exact .refl s
  · unfold inSafe flag
    rw [get_of_regs regs]

theorem performWrite_passes (l ofs : Nat) (data : List Byte) (poison : Bool) (s : State) : Passes s (performWrite (lineStack l) l ofs data poison s) := by
  have stored : Passes s (bytesStored (lineStack l) l ofs data s) := by
    have counted : Passes s (bump (F.STK_WR_CNT (lineStack l)) (beforeWrite (lineStack l) l s)) :=
      (beforeWrite_passes ..).trans (stkField_passes (ofs := 0x440) (by decide) (by decide) _ _)
    unfold bytesStored
    generalize bump (F.STK_WR_CNT (lineStack l)) (beforeWrite (lineStack l) l s) = u at *
    exact counted.trans ⟨.of_same rfl rfl rfl, .inr ⟨rfl, rfl, rfl⟩⟩
  have marked (b : Bool) : Passes s (markLine l b (bytesStored (lineStack l) l ofs data s)) := by
    generalize bytesStored (lineStack l) l ofs data s = u at *
    exact stored.trans ⟨.of_same rfl rfl rfl, .inr ⟨rfl, rfl, rfl⟩⟩
  rw [performWrite_eq]
  split
  · exact marked true
  · split
    · exact marked false
    · exact stored

/-- What a write of a part of a line leaves. -/
structure LineWrite (l ofs : Nat) (data : List Byte) (s t : State) : Prop where
  pass : Passes s t
  only : OnlyLine l s t
  around : ∀ b, b < l * 512 + ofs ∨ l * 512 + ofs + data.length ≤ b → linePoison t l = linePoison s l → rdByte t.mem.stk b = rdByte s.mem.stk b
  stored : inSafe t = false → ∀ (i : Nat) (h : i < data.length), rdByte t.mem.stk (l * 512 + ofs + i) = data[i]

theorem LineWrite.after {l ofs : Nat} {data : List Byte} {r s t : State} (h : LineWrite l ofs data r s) (pass : Passes s t) (lines : LinesStand s t) :
    LineWrite l ofs data r t := by
  refine ⟨h.pass.trans pass, h.only.trans (lines.onlyLine l), fun b hb same => ?_, fun normal i hi => ?_⟩
  · rw [lines.stk]
    exact h.around b hb (same ▸ (linePoison_lines lines l).symm)
  · rw [lines.stk]
    refine h.stored (Bool.eq_false_iff.2 fun safe => ?_) i hi
    rw [pass.stays safe] at normal
    cases normal

/-- A refused access moves no byte. -/
theorem LineWrite.refused {l ofs : Nat} {data : List Byte} {s t : State} (pass : Passes s t) (lines : LinesStand s t) (safe : inSafe t = true) :
    LineWrite l ofs data s t :=
  ⟨pass, lines.onlyLine l, fun b _ _ => by rw [lines.stk], fun normal => by rw [safe] at normal; cases normal⟩

theorem performWrite_line {l ofs : Nat} {data : List Byte} {s t : State} (fits : ofs + data.length ≤ 512) (poison : Bool) (found : LineFound l s t) :
    LineWrite l ofs data s (performWrite (lineStack l) l ofs data poison t) := by
  obtain ⟨stk, -, -, -⟩ := performWrite_spec (lineStack l) l ofs data poison t
  have marks := linePoison_performWrite (lineStack l) l ofs data poison t
  have only : OnlyLine l s t := by
    rcases found.found with same | ⟨only, -, -⟩
    · exact same.onlyLine l
    · exact only
  refine ⟨found.pass.trans (performWrite_passes ..), ⟨fun m hm => ?_, fun b hb => ?_⟩, fun b hb same => ?_, fun _ i hi => ?_⟩
  · rw [marks, if_neg hm]
    exact only.1 m hm
  · rw [stk, rdByte_wrBytes_ne _ _ _ (by omega)]
    exact only.2 b hb
  · rw [stk, rdByte_wrBytes_ne _ _ _ hb]
    by_cases inside : b / 512 = l
    · rcases found.found with stand | ⟨-, fresh, marked⟩
      · rw [stand.stk]
      · have part : data.length ≠ 512 := by omega
        rw [marks, if_pos rfl, marked, fresh] at same
        simp [part] at same
    · exact only.2 b inside
  · rw [stk, rdByte_wrBytes _ _ _ hi]

theorem writeLine_pci {l : Nat} {s : State} (open_ : Open l s) (idle : Idle s) {ofs : Nat} {data : List Byte} (fits : ofs + data.length ≤ 512)
    (poison : Bool) : LineWrite l ofs data s (writeLine 35 l ofs data poison s).2 := by
  have reach := reachLine_pci idle.1 l true
  obtain ⟨gone, lines⟩ := trip_passes 35 (stkNode (lineStack l)) s
  have run : (writeLine 35 l ofs data poison s).2 = (let u := (trip 35 (stkNode (lineStack l)) s).2
      let f := foundError u
      backTrip 35 l (doWrite (lineStack l) l ofs 35 f.1.2 (bankOn f.2 (lineStack l) (lineBank l)) poison f.1.1 data f.2).2) := by
    unfold writeLine
    dsimp only
    rw [reach, open_.arrives, if_pos rfl]
  rw [run]
  dsimp only
  have still := idle.stays gone.way
  have there := open_.stays gone.way
  clear run reach
  generalize (trip 35 (stkNode (lineStack l)) s).2 = u at *
  obtain ⟨drawn, drawnLines⟩ := foundError_passes u
  have quiet := (still.stays drawn.way).2
  have serves := (there.stays drawn.way).on
  generalize foundError u = f at *
  obtain ⟨⟨e, k⟩, v⟩ := f
  dsimp only at *
  have before : LineFound l s v := (LineFound.refl l s).after (gone.trans drawn) (lines.trans drawnLines)
  rw [serves]
  unfold doWrite
  rw [if_neg (Nat.not_le.2 open_.inside)]
  by_cases safe : inSafe v = true
  · rw [if_pos safe]
    have blocked : Passes s (bump F.FLT_SAFE_WR_BLK_CNT v) := (gone.trans drawn).trans (.set (not_wayKey_flt (by decide)) (by decide) _ v)
    have blockedLines : LinesStand s (bump F.FLT_SAFE_WR_BLK_CNT v) := (lines.trans drawnLines).trans (set_linesStand ..)
    have kept : inSafe (bump F.FLT_SAFE_WR_BLK_CNT v) = true := (inSafe_bump (by decide) v).trans safe
    generalize bump F.FLT_SAFE_WR_BLK_CNT v = x at *
    obtain ⟨back, backLines⟩ := backTrip_passes l x
    exact .refused (blocked.trans back) (blockedLines.trans backLines) (back.stays kept)
  · rw [if_neg safe, if_neg (by simp)]
    dsimp only
    have found : LineFound l s (if partial32 ofs data.length then dramAccess (lineStack l) l 2 35 1 k e v else v) := by
      split
      · have accessed := dramAccess_found quiet l 2 35 1 k e
        exact LineFound.before (gone.trans drawn) (lines.trans drawnLines) accessed
      · exact before
    generalize (if partial32 ofs data.length then dramAccess (lineStack l) l 2 35 1 k e v else v) = x at *
    have written := performWrite_line fits poison found
    generalize performWrite (lineStack l) l ofs data poison x = y at *
    obtain ⟨back, backLines⟩ := backTrip_passes l y
    exact written.after back backLines

end Sys2Proof.Machine

namespace Sys2Proof.Machine

theorem writeLine_twin {l : Nat} {s t : State} (h : Twin s t) (open_ : Open l s) (idle : Idle s) (ofs : Nat) (data : List Byte) (poison : Bool) :
    Twin (writeLine 35 l ofs data poison s).2 (writeLine 35 l ofs data poison t).2 := by
  have run {u : State} (there : Open l u) (still : Idle u) : (writeLine 35 l ofs data poison u).2 = (let v := (trip 35 (stkNode (lineStack l)) u).2
      let f := foundError v
      backTrip 35 l (doWrite (lineStack l) l ofs 35 f.1.2 true poison f.1.1 data f.2).2) := by
    have on : bankOn (foundError (trip 35 (stkNode (lineStack l)) u).2).2 (lineStack l) (lineBank l) = true :=
      (there.stays ((trip_passes 35 (stkNode (lineStack l)) u).1.trans (foundError_passes _).1).way).on
    unfold writeLine
    dsimp only
    rw [reachLine_pci still.1 l true, there.arrives, if_pos rfl]
    dsimp only
    rw [on]
  rw [run open_ idle, run (open_.stays h.way) (idle.stays h.way)]
  dsimp only
  have quiet : (trip 35 (stkNode (lineStack l)) s).2.flt.inj = none := (idle.stays (trip_passes 35 (stkNode (lineStack l)) s).1.way).2
  obtain ⟨-, gone⟩ := trip_twin h 35 (stkNode (lineStack l))
  generalize (trip 35 (stkNode (lineStack l)) s).2 = u at *
  generalize (trip 35 (stkNode (lineStack l)) t).2 = v at *
  obtain ⟨same, drawn⟩ := foundError_twin gone
  rw [same]
  obtain ⟨-, written⟩ := doWrite_twin drawn (((foundError_passes u).1.way.inj).trans quiet) (lineStack l) open_.inside ofs 35 (foundError u).1.2 poison
    (foundError u).1.1 data
  exact (trip_twin written ..).2

/-! ### A write of the PCI node -/

theorem mem_linesOf (a n l : Nat) : l ∈ linesOf a n ↔ a / 512 ≤ l ∧ l < (a + n + 511) / 512 := by
  unfold linesOf
  simp only [List.mem_map, List.mem_range]
  constructor
  · rintro ⟨i, hi, rfl⟩
    omega
  · intro h
    exact ⟨l - a / 512, by omega, by omega⟩

theorem linesOf_nodup (a n : Nat) : (linesOf a n).Nodup := by
  unfold linesOf
  exact List.Nodup.map (fun i j (same : a / 512 + i = a / 512 + j) => by omega) List.nodup_range

/-- Where the part of a write that falls on one of its lines begins and ends. -/
theorem partOn_place {a : Nat} {bs : List Byte} {l : Nat} (touched : l ∈ linesOf a bs.length) :
    l * 512 + (partOn a bs l).1 = max a (512 * l) ∧ (partOn a bs l).2.length = min (a + bs.length) (512 * (l + 1)) - max a (512 * l) := by
  obtain ⟨low, high⟩ := (mem_linesOf ..).1 touched
  unfold partOn
  split
  · refine ⟨by dsimp only; omega, ?_⟩
    simp only [List.length_take]
    omega
  · refine ⟨by dsimp only; omega, ?_⟩
    simp only [List.length_take, List.length_drop]
    omega

theorem partOn_fits {a : Nat} {bs : List Byte} {l : Nat} (touched : l ∈ linesOf a bs.length) : (partOn a bs l).1 + (partOn a bs l).2.length ≤ 512 := by
  obtain ⟨start, size⟩ := partOn_place touched
  obtain ⟨low, high⟩ := (mem_linesOf ..).1 touched
  omega

theorem partOn_bytes {a : Nat} {bs : List Byte} {l i : Nat} (h : i < (partOn a bs l).2.length) :
    (partOn a bs l).2[i]? = bs[max a (512 * l) - a + i]? := by
  unfold partOn at h ⊢
  split
  · next first =>
    rw [if_pos first, List.length_take] at h
    rw [List.getElem?_take_of_lt (by omega)]
    congr 1
    omega
  · next later =>
    rw [if_neg later, List.length_take] at h
    rw [List.getElem?_take_of_lt (by omega), List.getElem?_drop]
    congr 1
    omega

/-- What a write of some of its lines leaves. -/
structure LinesWritten (a : Nat) (bs : List Byte) (ls : List Nat) (s t : State) : Prop where
  pass : Passes s t
  marks : ∀ m, m ∉ ls → linePoison t m = linePoison s m
  around : ∀ b, b / 512 ∉ ls ∨ b < a ∨ a + bs.length ≤ b → linePoison t (b / 512) = linePoison s (b / 512) → rdByte t.mem.stk b = rdByte s.mem.stk b
  stored : inSafe t = false → ∀ b (low : a ≤ b) (high : b < a + bs.length), b / 512 ∈ ls → rdByte t.mem.stk b = bs[b - a]

theorem writeLines_pci {a : Nat} {bs : List Byte} (bad : List Nat) (ls : List Nat) (distinct : ls.Nodup) (touched : ∀ l ∈ ls, l ∈ linesOf a bs.length)
    {s : State} (opens : ∀ l ∈ ls, Open l s) (idle : Idle s) : LinesWritten a bs ls s (writeLines 35 a bs bad ls s).2 := by
  induction ls generalizing s with
  | nil => exact ⟨.refl s, fun _ _ => rfl, fun _ _ _ => rfl, fun _ _ _ _ h => absurd h List.not_mem_nil⟩
  | cons l ls ih =>
    obtain ⟨fresh, rest⟩ := List.nodup_cons.1 distinct
    have mine := touched l List.mem_cons_self
    obtain ⟨start, size⟩ := partOn_place mine
    obtain ⟨low, high⟩ := (mem_linesOf ..).1 mine
    have line := writeLine_pci (opens l List.mem_cons_self) idle (partOn_fits mine) (bad.contains l)
    have tail := ih rest (fun k hk => touched k (List.mem_cons_of_mem _ hk)) (fun k hk => (opens k (List.mem_cons_of_mem _ hk)).stays line.pass.way)
      (idle.stays line.pass.way)
    show LinesWritten a bs (l :: ls) s (writeLines 35 a bs bad ls (writeLine 35 l (partOn a bs l).1 (partOn a bs l).2 (bad.contains l) s).2).2
    have bytes (i : Nat) (h : i < (partOn a bs l).2.length) := partOn_bytes h
    generalize partOn a bs l = p at *
    generalize (writeLine 35 l p.1 p.2 (bad.contains l) s).2 = u at *
    generalize (writeLines 35 a bs bad ls u).2 = t at *
    refine ⟨line.pass.trans tail.pass, fun m hm => ?_, fun b out same => ?_, fun normal b from_ to_ on => ?_⟩
    · obtain ⟨hl, hls⟩ := not_or.1 (fun h => hm (List.mem_cons.2 h))
      exact (tail.marks m hls).trans (line.only.1 m hl)
    · by_cases here : b / 512 = l
      · have there := tail.marks l fresh
        refine (tail.around b (.inl (here ▸ fresh)) (here ▸ there)).trans (line.around b ?_ ?_)
        · rcases out with away | beside
          · exact absurd (here ▸ List.mem_cons_self) away
          · omega
        · rw [← there, ← here]
          exact same
      · have before := line.only.1 _ here
        refine (tail.around b ?_ (same.trans before.symm)).trans (line.only.2 b here)
        rcases out with away | beside
        · exact .inl fun h => away (List.mem_cons_of_mem _ h)
        · exact .inr beside
    · by_cases here : b / 512 = l
      · have same := tail.around b (.inl (here ▸ fresh)) (by rw [here]; exact tail.marks l fresh)
        have open_ : inSafe u = false := Bool.eq_false_iff.2 fun safe => by rw [tail.pass.stays safe] at normal; cases normal
        obtain ⟨i, place⟩ : ∃ i, b = l * 512 + p.1 + i := ⟨b - (l * 512 + p.1), by omega⟩
        have within : i < p.2.length := by omega
        have given := bytes i within
        rw [List.getElem?_eq_getElem within, List.getElem?_eq_getElem (by omega)] at given
        have stored := line.stored open_ i within
        rw [← place, Option.some.inj given] at stored
        rw [same, stored]
        congr 1
        omega
      · exact tail.stored normal b from_ to_ ((List.mem_cons.1 on).resolve_left here)

theorem writeLines_twin {a : Nat} {bs : List Byte} (bad : List Nat) (ls : List Nat) (touched : ∀ l ∈ ls, l ∈ linesOf a bs.length)
    {s t : State} (h : Twin s t) (opens : ∀ l ∈ ls, Open l s) (idle : Idle s) :
    Twin (writeLines 35 a bs bad ls s).2 (writeLines 35 a bs bad ls t).2 := by
  induction ls generalizing s t with
  | nil => exact h
  | cons l ls ih =>
    have mine := touched l List.mem_cons_self
    have line := writeLine_pci (opens l List.mem_cons_self) idle (partOn_fits mine) (bad.contains l)
    exact ih (fun k hk => touched k (List.mem_cons_of_mem _ hk)) (writeLine_twin h (opens l List.mem_cons_self) idle ..)
      (fun k hk => (opens k (List.mem_cons_of_mem _ hk)).stays line.pass.way) (idle.stays line.pass.way)

/-- What a write of the PCI node leaves where its lines are open and no request waits (R244, R247, R248). -/
theorem writeSpan_pci {a : Nat} {bs : List Byte} {s : State} (opens : ∀ l ∈ linesOf a bs.length, Open l s) (idle : Idle s) :
    LinesWritten a bs (linesOf a bs.length) s (writeSpan 35 a bs s).2 :=
  writeLines_pci [] _ (linesOf_nodup ..) (fun _ h => h) opens idle

/-- The bytes of a span that a write has stored. -/
theorem LinesWritten.span {a : Nat} {bs : List Byte} {s t : State} (h : LinesWritten a bs (linesOf a bs.length) s t) (normal : inSafe t = false) :
    rdBytes t.mem.stk a bs.length = bs := by
  refine List.ext_getElem (by simp [rdBytes]) fun i _ hi => ?_
  simp only [rdBytes, List.getElem_map, List.getElem_range]
  rw [h.stored normal (a + i) (by omega) (by omega) ((mem_linesOf ..).2 (by omega))]
  congr 1
  omega

/-! ### A read of the PCI node -/

/-- What a read of some lines gives and leaves. -/
structure LinesRead (ls : List Nat) (s : State) (r : (Option (Nat × Nat) × List Byte × Bool) × State) : Prop where
  pass : Passes s r.2
  marks : ∀ m, m ∉ ls → linePoison r.2 m = linePoison s m
  given : (∀ l ∈ ls, linePoison r.2 l = linePoison s l) →
    r.1.2.1 = ls.flatMap (lineBytes s) ∧ r.1.2.2 = ls.any (linePoison s) ∧ r.2.mem.stk = s.mem.stk

theorem any_same {ls : List Nat} {p q : Nat → Bool} (same : ∀ k ∈ ls, p k = q k) : ls.any p = ls.any q := by
  induction ls with
  | nil => rfl
  | cons l ls ih => rw [List.any_cons, List.any_cons, same l List.mem_cons_self, ih fun k hk => same k (List.mem_cons_of_mem _ hk)]

theorem readLines_pci (full : Nat → Bool) (ls : List Nat) (distinct : ls.Nodup) {s : State} (opens : ∀ l ∈ ls, Open l s) (idle : Idle s)
    (apart : ∀ l ∈ ls, mergeOf s (lineStack l) l = none) : LinesRead ls s (readLines 35 full ls s) := by
  induction ls generalizing s with
  | nil => exact ⟨.refl s, fun _ _ => rfl, fun _ => ⟨rfl, rfl, rfl⟩⟩
  | cons l ls ih =>
    obtain ⟨fresh, rest⟩ := List.nodup_cons.1 distinct
    have line := readLine_pci (opens l List.mem_cons_self) idle (apart l List.mem_cons_self) (full l)
    have tail := ih rest (fun k hk => (opens k (List.mem_cons_of_mem _ hk)).stays line.pass.way) (idle.stays line.pass.way)
      (fun k hk => line.merges k (fun same => fresh (same ▸ hk)) (apart k (List.mem_cons_of_mem _ hk)))
    unfold readLines
    dsimp only
    generalize readLine 35 l (full l) s = r at *
    obtain ⟨⟨st, bytes, poison⟩, u⟩ := r
    generalize readLines 35 full ls u = q at *
    obtain ⟨⟨o, more, poisons⟩, t⟩ := q
    dsimp only at *
    refine ⟨line.pass.trans tail.pass, fun m hm => ?_, fun same => ?_⟩
    · obtain ⟨hl, hls⟩ := not_or.1 (fun h => hm (List.mem_cons.2 h))
      exact (tail.marks m hls).trans (line.only.1 m hl)
    · obtain ⟨data, mark, stk⟩ := line.given ((tail.marks l fresh).symm.trans (same l List.mem_cons_self))
      have others (k : Nat) (hk : k ∈ ls) : linePoison u k = linePoison s k := line.only.1 k fun here => fresh (here ▸ hk)
      obtain ⟨data', mark', stk'⟩ := tail.given fun k hk => (same k (List.mem_cons_of_mem _ hk)).trans (others k hk).symm
      have lines (k : Nat) : lineBytes u k = lineBytes s k := by
        unfold lineBytes
        rw [stk]
      dsimp only at data mark data' mark'
      refine ⟨?_, ?_, stk'.trans stk⟩
      · show bytes ++ more = _
        rw [data, data', List.flatMap_cons, List.flatMap_congr fun k _ => lines k]
      · show (poison || poisons) = _
        rw [mark, mark', List.any_cons, any_same others]

theorem flatMap_lineBytes (s : State) (k n : Nat) :
    ((List.range n).map fun i => k + i).flatMap (lineBytes s) = rdBytes s.mem.stk (k * 512) (512 * n) := by
  induction n with
  | zero => rfl
  | succ n ih =>
    rw [List.range_succ, List.map_append, List.flatMap_append, ih, show 512 * (n + 1) = 512 * n + 512 from rfl]
    unfold rdBytes
    rw [List.range_add, List.map_append, List.map_map]
    refine congrArg (_ ++ ·) ?_
    rw [List.map_singleton, List.flatMap_singleton]
    unfold lineBytes rdBytes
    refine List.map_congr_left fun i _ => congrArg (rdByte s.mem.stk) ?_
    rw [Nat.add_mul, Nat.mul_comm n, Nat.add_assoc]

/-- What a read of the PCI node gives where its lines are open and no request waits (R244, R247, R248). -/
theorem readSpan_pci {a n : Nat} {s : State} (opens : ∀ l ∈ linesOf a n, Open l s) (idle : Idle s)
    (apart : ∀ l ∈ linesOf a n, mergeOf s (lineStack l) l = none)
    (same : ∀ l ∈ linesOf a n, linePoison (readSpan 35 a n s).2 l = linePoison s l) :
    (readSpan 35 a n s).1.2.1 = getStk s a n ∧ (readSpan 35 a n s).1.2.2 = (linesOf a n).any (linePoison s) ∧
      (readSpan 35 a n s).2.mem.stk = s.mem.stk := by
  obtain ⟨data, marks, stk⟩ := (readLines_pci (fun l => decide (a ≤ 512 * l) && decide (512 * l + 512 ≤ a + n)) _ (linesOf_nodup a n) opens idle apart).given same
  refine ⟨?_, marks, stk⟩
  show (List.drop (a % 512) _).take n = getStk s a n
  rw [data]
  unfold linesOf
  rw [flatMap_lineBytes]
  refine List.ext_getElem (by simp [rdBytes, getStk]; omega) fun i h1 h2 => ?_
  simp only [rdBytes, getStk, List.getElem_take, List.getElem_drop, List.getElem_map, List.getElem_range]
  congr 1
  omega

end Sys2Proof.Machine

namespace Sys2Proof.Machine

/-! ### Apertures (R339) -/

theorem pciRefused_notice (f : Nat) (r : Option (Nat × Nat)) (s : State) : NoticeOnly s (pciRefused f r s) := by
  unfold pciRefused
  split
  · exact (noticeTo_notice ..).trans (.emit ..)
  · exact .refl s

theorem flag_hwSet_zero {g : Fld} (one : g.width = 1) (s : State) : flag (hwSet g 0 s) g = true := by
  have odd : withBit (get s g) 0 true % 2 = 1 := by
    unfold withBit bit
    rw [pow_zero, Nat.div_one]
    split
    · next set => simpa using set
    · next clear =>
      simp only [beq_iff_eq] at clear
      rw [if_pos rfl]
      omega
  show (get (setBit g 0 true s) g == 1) = true
  rw [setBit, get_set_same, one, pow_one, odd]
  rfl

theorem Twin.counts {f : Fld} (dma : dmaKey f.key) (v : Nat) (s : State) : Twin s (set f v s) :=
  ⟨_, rfl, fun d _ other => SMap.get_put_other d _ _ _ fun same => other (same ▸ dma)⟩

theorem dmaCounted_twin (n : Nat) (s : State) : Twin s (bumpN F.GLB_DMA_ERR_CNT 0 (bumpN F.GLB_DMA_RD_BYTE_CNT n s)) :=
  (Twin.counts (f := F.GLB_DMA_RD_BYTE_CNT) (.inr rfl) _ s).trans (Twin.counts (f := F.GLB_DMA_ERR_CNT) (.inl rfl) _ _)

section
variable (f : Fin 33) (ofs : BitVec 34) (n : BitVec 13) (data : List Byte) (bad : List Nat) (len : Word) (host : Word64) {s : State}

theorem bar4Read_outside (out : ¬ inBar4 f ofs.toNat n.toNat = true) : exec (.bar4Read f ofs n) s = .next s := by
  rw [exec_bar4Read, execBar4Read, Bool.eq_false_iff.2 out]
  rfl

theorem bar4Write_outside (out : ¬ inBar4 f ofs.toNat data.length = true) : exec (.bar4Write f ofs data) s = .next s := by
  rw [exec_bar4Write, execBar4Write, Bool.eq_false_iff.2 out]
  rfl

theorem bar4Read_within (within : inBar4 f ofs.toNat n.toNat = true) : exec (.bar4Read f ofs n) s =
    (let give := fun (p : Bool) (l : List Byte) => emit (.host f) .readData ((if p then 1 else 0) :: l.map fun b => b.toNat)
    if !stacksUp s then .next (give false (zeros n.toNat) (bump F.GLB_DENIED_CNT s))
    else if inSafe s then .next (give true (zeros n.toNat) s)
    else match aperture s f ofs.toNat n.toNat false with
      | none => .next (give false (zeros n.toNat) (aperRej f s))
      | some a => .next (give (readSpan 35 a n.toNat s).1.2.2 (readSpan 35 a n.toNat s).1.2.1 (readSpan 35 a n.toNat s).2)) := by
  rw [exec_bar4Read, execBar4Read, within]
  rfl

theorem bar4Write_within (within : inBar4 f ofs.toNat data.length = true) : exec (.bar4Write f ofs data) s =
    (if !stacksUp s then .next (bump F.GLB_DENIED_CNT s)
    else if inSafe s then .next (bump F.FLT_SAFE_WR_BLK_CNT s)
    else match aperture s f ofs.toNat data.length true with
      | none => .next (aperRej f s)
      | some a => .next (pciRefused f (writeSpan 35 a data s).1 (writeSpan 35 a data s).2)) := by
  rw [exec_bar4Write, execBar4Write, within]
  rfl

theorem stacks_down (down : stacksUp s = false) :
    (inBar4 f ofs.toNat data.length = true → exec (.bar4Write f ofs data) s = .next (bump F.GLB_DENIED_CNT s)) ∧
    (inBar4 f ofs.toNat n.toNat = true → exec (.bar4Read f ofs n) s =
      .next (emit (.host f) .readData (0 :: (zeros n.toNat).map fun b => b.toNat) (bump F.GLB_DENIED_CNT s))) ∧
    ∀ wr, exec (.dmaTransferEnd f wr ofs len host data bad) s = .next (bump F.GLB_DENIED_CNT s) := by
  refine ⟨fun within => ?_, fun within => ?_, fun wr => ?_⟩
  · rw [bar4Write_within f ofs data within, down]
    rfl
  · rw [bar4Read_within f ofs n within, down]
    rfl
  · rw [exec_dmaTransferEnd, execDmaTransferEnd, down]
    rfl

theorem stacks_safe (up : stacksUp s = true) (safe : inSafe s = true) :
    (inBar4 f ofs.toNat data.length = true → exec (.bar4Write f ofs data) s = .next (bump F.FLT_SAFE_WR_BLK_CNT s)) ∧
    (inBar4 f ofs.toNat n.toNat = true → exec (.bar4Read f ofs n) s = .next (emit (.host f) .readData (1 :: (zeros n.toNat).map fun b => b.toNat) s)) ∧
    ∀ wr, exec (.dmaTransferEnd f wr ofs len host data bad) s = .next (emit (.host f) .dmaEnd [0x17] s) := by
  refine ⟨fun within => ?_, fun within => ?_, fun wr => ?_⟩
  · rw [bar4Write_within f ofs data within, up, safe]
    rfl
  · rw [bar4Read_within f ofs n within, up, safe]
    rfl
  · rw [exec_dmaTransferEnd, execDmaTransferEnd, up, safe]
    rfl

theorem bar4Read_uncovered (up : stacksUp s = true) (normal : inSafe s = false) (within : inBar4 f ofs.toNat n.toNat = true)
    (none : aperture s f ofs.toNat n.toNat false = none) :
    ∃ t, exec (.bar4Read f ofs n) s = .next t ∧ flag t (F.MBX_FN_APER_ERR f) = true ∧ t.mem = s.mem ∧ t.cores = s.cores := by
  rw [bar4Read_within f ofs n within, up, normal, none]
  exact ⟨_, rfl, flag_hwSet_zero (g := F.MBX_FN_APER_ERR f) rfl (bump F.GLB_APER_REJ_CNT s), rfl, rfl⟩

theorem bar4Read_covered {a : Nat} (up : stacksUp s = true) (normal : inSafe s = false) (within : inBar4 f ofs.toNat n.toNat = true)
    (some : aperture s f ofs.toNat n.toNat false = some a) : exec (.bar4Read f ofs n) s =
      .next (emit (.host f) .readData ((if (readSpan 35 a n.toNat s).1.2.2 then 1 else 0) :: (readSpan 35 a n.toNat s).1.2.1.map (fun b => b.toNat))
        (readSpan 35 a n.toNat s).2) := by
  rw [bar4Read_within f ofs n within, up, normal, some]
  rfl

theorem bar4Write_uncovered (up : stacksUp s = true) (normal : inSafe s = false) (none : aperture s f ofs.toNat data.length true = none) :
    (inBar4 f ofs.toNat data.length = true → exec (.bar4Write f ofs data) s = .next (hwSet (F.MBX_FN_APER_ERR f) 0 (bump F.GLB_APER_REJ_CNT s))) ∧
      exec (.dmaTransferEnd f true ofs len host data bad) s = .next (hwSet (F.MBX_FN_APER_ERR f) 0 (bump F.GLB_APER_REJ_CNT s)) := by
  refine ⟨fun within => ?_, ?_⟩
  · rw [bar4Write_within f ofs data within, up, normal, none]
    rfl
  · rw [exec_dmaTransferEnd, execDmaTransferEnd, up, normal, if_pos rfl, none]
    rfl

theorem bar4Write_covered {a : Nat} (up : stacksUp s = true) (normal : inSafe s = false) (within : inBar4 f ofs.toNat data.length = true)
    (some : aperture s f ofs.toNat data.length true = some a) :
    exec (.bar4Write f ofs data) s = .next (pciRefused f (writeSpan 35 a data s).1 (writeSpan 35 a data s).2) := by
  rw [bar4Write_within f ofs data within, up, normal, some]
  rfl

theorem dmaRead_covered {a : Nat} (up : stacksUp s = true) (normal : inSafe s = false) (some : aperture s f ofs.toNat len.toNat false = some a) :
    exec (.dmaTransferEnd f false ofs len host data bad) s =
      .next (emit (.host f) .dmaEnd [match (readSpan 35 a len.toNat s).1.1 with | .some x => x.2 | none => 0, if (readSpan 35 a len.toNat s).1.2.2 then 1 else 0]
        (dmaOut f host.toNat (readSpan 35 a len.toNat s).1.2.1 (readSpan 35 a len.toNat s).2)) := by
  rw [exec_dmaTransferEnd, execDmaTransferEnd, up, normal]
  simp only [Bool.false_eq_true, if_false]
  rw [some]
  rfl

/-- A DMA transfer into the stacks, none of whose lines is in error, writes as a BAR4 write does, and counts its bytes. -/
theorem dmaWrite_covered {a : Nat} (up : stacksUp s = true) (normal : inSafe s = false) (some : aperture s f ofs.toNat data.length true = some a) :
    ∃ st, exec (.dmaTransferEnd f true ofs len host data []) s = .next (emit (.host f) .dmaEnd [st]
      (writeSpan 35 a data (bumpN F.GLB_DMA_ERR_CNT 0 (bumpN F.GLB_DMA_RD_BYTE_CNT data.length s))).2) := by
  have clean : (((linesOf a data.length).zipIdx.filter fun x => ([] : List Nat).contains x.2).map fun x => x.1) = [] := by
    simp
  rw [exec_dmaTransferEnd, execDmaTransferEnd, up, normal, if_pos rfl, some]
  dsimp only
  rw [clean]
  exact ⟨_, rfl⟩

theorem bar4Read_gives {a : Nat} (inj : s.flt.inj = none) (idle : ∀ p, p ∈ s.mesh → reqChan p.body = none)
    (lines : ∀ x, x ∈ linesOf a n.toNat → x < lineCount ∧ bankOn s (lineStack x) (lineBank x) = true ∧ (trip 35 (stkNode (lineStack x)) s).1 = true)
    (apart : ∀ x, x ∈ linesOf a n.toNat → mergeOf s (lineStack x) x = none)
    (same : ∀ x, x ∈ linesOf a n.toNat → linePoison (readSpan 35 a n.toNat s).2 x = linePoison s x) :
    (readSpan 35 a n.toNat s).1.2.1 = getStk s a n.toNat ∧ (readSpan 35 a n.toNat s).1.2.2 = (linesOf a n.toNat).any (linePoison s) ∧
      (readSpan 35 a n.toNat s).2.mem.stk = s.mem.stk :=
  readSpan_pci (fun x hx => ⟨(lines x hx).1, (lines x hx).2.1, (lines x hx).2.2⟩) ⟨idle, inj⟩ apart same

/-- A write through an aperture stores its bytes there and nowhere else, whether the host or a DMA transfer brings them. -/
theorem bar4Write_stores {a : Nat} (up : stacksUp s = true) (normal : inSafe s = false) (within : inBar4 f ofs.toNat data.length = true)
    (some : aperture s f ofs.toNat data.length true = some a) (inj : s.flt.inj = none) (idle : ∀ p, p ∈ s.mesh → reqChan p.body = none)
    (lines : ∀ x, x ∈ linesOf a data.length → x < lineCount ∧ bankOn s (lineStack x) (lineBank x) = true ∧ (trip 35 (stkNode (lineStack x)) s).1 = true) :
    ∃ t u, exec (.bar4Write f ofs data) s = .next t ∧ exec (.dmaTransferEnd f true ofs len host data []) s = .next u ∧ u.mem = t.mem ∧
      (∀ b, b < a ∨ a + data.length ≤ b → linePoison t (b / 512) = linePoison s (b / 512) → rdByte t.mem.stk b = rdByte s.mem.stk b) ∧
      (flag t F.FLT_STAT_SAFE = flag s F.FLT_STAT_SAFE → rdBytes t.mem.stk a data.length = data ∧ t.mem.spad = s.mem.spad ∧ t.cores = s.cores) := by
  have opens (x : Nat) (hx : x ∈ linesOf a data.length) : Open x s := ⟨(lines x hx).1, (lines x hx).2.1, (lines x hx).2.2⟩
  have counted : Twin s (bumpN F.GLB_DMA_ERR_CNT 0 (bumpN F.GLB_DMA_RD_BYTE_CNT data.length s)) := dmaCounted_twin data.length s
  obtain ⟨st, transfer⟩ := dmaWrite_covered f ofs data len host up normal some
  have written := writeSpan_pci opens ⟨idle, inj⟩
  have twins := writeLines_twin [] (linesOf a data.length) (fun _ h => h) counted opens ⟨idle, inj⟩
  refine ⟨_, _, bar4Write_covered f ofs data up normal within some, transfer, ?_, ?_⟩
  · have notice := (pciRefused_notice f (writeSpan 35 a data s).1 (writeSpan 35 a data s).2).mem
    exact twins.mem.trans notice.symm
  · have notice := pciRefused_notice f (writeSpan 35 a data s).1 (writeSpan 35 a data s).2
    generalize pciRefused f (writeSpan 35 a data s).1 (writeSpan 35 a data s).2 = t at *
    generalize (writeSpan 35 a data s).2 = v at *
    rw [notice.mem, notice.cores]
    refine ⟨fun b out same => written.around b (.inr out) ((linePoison_of_mem notice.mem _).symm.trans same), fun quiet => ?_⟩
    have quiet' : inSafe v = false := by
      rw [← normal]
      unfold flag at quiet
      rw [notice.2 F.FLT_STAT_SAFE (by decide)] at quiet
      exact quiet
    refine ⟨written.span quiet', ?_⟩
    rcases written.pass.calm with safe | ⟨spad, cores, -⟩
    · rw [quiet'] at safe
      cases safe
    · exact ⟨spad, cores⟩

end

/-- Settles O48. A write of the stacks is said line by line (`LineWrite`, `LinesWritten`), and the DMA transfer against the BAR4 write as twins that
differ in the DMA counters only (`Twin`). That a function-level reset keeps the function's SEQ is log entry 52. -/
theorem hostInterfaceActs : Obligations.HostInterfaceActs := by
  unfold Obligations.HostInterfaceActs
  refine ⟨fun f v s => ?_, fun f s => ?_, fun speed width flit vfs s => ?_, fun f ofs n data bad len host s => ?_⟩
  · exact ⟨mbDb_mctp_shut, mbDb_ethernet_shut, fun takes => ⟨mbDb_takes takes, mbDb_busy takes, mbDb_rejected takes⟩, mbAck_frees⟩
  · exact ⟨flr_vf, flr_pf, hotReset_spec, perst_resets, perst_held⟩
  · exact ⟨linkRetrained, linkTrained speed width flit vfs, rfl, linkErrs_correctable⟩
  · refine ⟨bar4Read_outside f ofs n, bar4Write_outside f ofs data, stacks_down f ofs n data bad len host, stacks_safe f ofs n data bad len host,
      fun up normal => ⟨bar4Read_uncovered f ofs n up normal, bar4Write_uncovered f ofs data bad len host up normal, ?_, ?_, ?_, ?_⟩⟩
    · intro a within covered
      exact ⟨bar4Read_covered f ofs n up normal within covered, fun ⟨inj, idle, lines⟩ => bar4Read_gives n inj idle lines⟩
    · exact fun a => dmaRead_covered f ofs data bad len host up normal
    · exact fun a => bar4Write_covered f ofs data up normal
    · exact fun a within covered ⟨inj, idle, lines⟩ => bar4Write_stores f ofs data len host up normal within covered inj idle lines

end Sys2Proof.Machine

namespace Sys2Proof.Machine

/-! ### What an access of the stacks leaves beside them (R390) -/

/-- The first bit of one of the first four words of a request entry: its state, handle, length and prompt's end (Table 11.5). -/
def entryWord (k : Nat) : Prop := 0x18800000 ≤ k ∧ k < 0x19000000 ∧ k % 0x400 < 0x80 ∧ k % 32 = 0

/-- The request rings, the transfers, the entries, the cores and the scratchpads stand, and the package does not change its state. -/
structure ServingStands (s t : State) : Prop where
  rq : t.srv.rq = s.srv.rq
  xfers : ∀ n, (srvPart t n).xfers = (srvPart s n).xfers
  cores : t.cores = s.cores
  spad : t.mem.spad = s.mem.spad
  safe : inSafe t = inSafe s
  regs : ∀ g : Fld, entryWord g.key → get t g = get s g

theorem ServingStands.refl (s : State) : ServingStands s s := ⟨rfl, fun _ => rfl, rfl, rfl, rfl, fun _ _ => rfl⟩

theorem ServingStands.trans {r s t : State} (h : ServingStands r s) (k : ServingStands s t) : ServingStands r t :=
  ⟨k.rq.trans h.rq, fun n => (k.xfers n).trans (h.xfers n), k.cores.trans h.cores, k.spad.trans h.spad, k.safe.trans h.safe,
    fun g hg => (k.regs g hg).trans (h.regs g hg)⟩

theorem ServingStands.of_same {s t : State} (srv : t.srv = s.srv) (cores : t.cores = s.cores) (spad : t.mem.spad = s.mem.spad) (regs : t.regs = s.regs) :
    ServingStands s t :=
  ⟨by rw [srv], fun n => by unfold srvPart; rw [srv], cores, spad, by unfold inSafe flag; rw [get_of_regs regs], fun g _ => get_of_regs regs g⟩

theorem FltOnly.servingStands {s t : State} (h : FltOnly s t) (safe : inSafe t = inSafe s) : ServingStands s t := by
  exact ⟨by rw [h.1], fun n => by unfold srvPart; rw [h.1], by rw [h.1], by rw [h.1], safe, fun g hg => h.2 g (by unfold entryWord at hg; omega)⟩

/-- The serving engine and the cores stand, unless the package enters safe state. -/
def Aside (s t : State) : Prop := ServingStands s t ∨ inSafe s = false ∧ inSafe t = true

theorem ServingStands.aside {s t : State} (h : ServingStands s t) : Aside s t := .inl h

theorem Aside.refl (s : State) : Aside s s := .inl (.refl s)

theorem Aside.trans {r s t : State} (h : Aside r s) (k : Aside s t) : Aside r t := by
  rcases h with stands | ⟨normal, safe⟩
  · rcases k with stands' | ⟨normal', safe'⟩
    · exact .inl (stands.trans stands')
    · exact .inr ⟨stands.safe.symm.trans normal', safe'⟩
  · rcases k with stands' | ⟨normal', -⟩
    · exact .inr ⟨normal, stands'.safe.trans safe⟩
    · rw [safe] at normal'
      cases normal'

theorem Aside.each {α : Type} (l : List α) {f : α → State → State} (h : ∀ a t, Aside t (f a t)) (s : State) : Aside s (each l f s) :=
  each_keeps (P := Aside s) l (.refl s) fun a t ht => ht.trans (h a t)

theorem Aside.when (b : Bool) {f : State → State} (h : ∀ t, Aside t (f t)) (s : State) : Aside s (when b f s) :=
  when_keeps (P := Aside s) b (.refl s) fun t ht => ht.trans (h t)

/-- A field that begins none of those words, and is not the fault collector's SAFE. -/
def besideServing (k : Nat) : Prop := ¬ entryWord k ∧ F.FLT_STAT_SAFE.key ≠ k

theorem besideServing_low {k : Nat} (low : k < 0x18800000) (other : k ≠ 0x1800020) : besideServing k :=
  ⟨fun word => absurd word.1 (Nat.not_le.2 low), Ne.symm other⟩

theorem set_stands {f : Fld} (h : besideServing f.key) (v : Nat) (s : State) : ServingStands s (set f v s) :=
  ⟨rfl, fun _ => rfl, rfl, rfl, inSafe_set h.2 v s, fun _ hg => get_set_ne (fun same => h.1 (same ▸ hg)) v s⟩

theorem set_aside {f : Fld} (h : besideServing f.key) (v : Nat) (s : State) : Aside s (set f v s) := (set_stands h v s).aside

theorem bump_aside {f : Fld} (h : besideServing f.key) (s : State) : Aside s (bump f s) := set_aside h _ s

theorem hwSet_aside {f : Fld} (h : besideServing f.key) (i : Nat) (s : State) : Aside s (hwSet f i s) :=
  (set_aside h _ s).trans (.inl (.of_same rfl rfl rfl rfl))

/-- A register of a stack. -/
theorem stkField_beside {n ofs : Nat} (known : n < 3) (small : ofs < 0x80000) : besideServing (0x3000000 + ofs + n * 0x80000) := by
  exact besideServing_low (by omega) (by omega)

theorem stkSet_aside {n ofs w r : Nat} (known : n < 3) (small : ofs < 0x80000) (v : Nat) (s : State) :
    Aside s (set ⟨0x3000000 + ofs + n * 0x80000, w, r⟩ v s) := set_aside (stkField_beside known small) v s

/-- A router's register. -/
theorem routerField_beside {c ofs : Nat} (known : c < 20) (small : ofs < 0x800000) : besideServing (0x8000000 + ofs + c * 0x800000) := by
  exact besideServing_low (by omega) (by omega)

theorem bumpRtr_aside {c ofs w r : Nat} (known : c < 20) (small : ofs < 0x800000) (s : State) :
    Aside s (bumpRtr c ⟨0x8000000 + ofs + c * 0x800000, w, r⟩ s) := .when _ (bump_aside (routerField_beside known small)) s

theorem tripFrom_aside (d fuel : Nat) {c : Nat} (known : c < 20) (esc : Bool) (s : State) : Aside s (tripFrom d fuel c esc s).2 := by
  induction fuel generalizing c esc s with
  | zero => exact .refl s
  | succ fuel ih =>
    unfold tripFrom
    dsimp only
    have counted : Aside s (when (esc || flag s (F.RTR_ROUTE_ESC c d)) (bumpRtr c (F.RTR_ESC_CNT c)) (bumpRtr c (F.RTR_FLIT_CNT c) s)) :=
      (bumpRtr_aside (ofs := 0x581800) known (by decide) s).trans (.when _ (fun t => bumpRtr_aside (ofs := 0x581900) known (by decide) t) _)
    generalize when (esc || flag s (F.RTR_ROUTE_ESC c d)) (bumpRtr c (F.RTR_ESC_CNT c)) (bumpRtr c (F.RTR_FLIT_CNT c) s) = u at *
    cases hop : hopOf s c (routeOut s c d) with
    | core => exact counted.trans (bumpRtr_aside (ofs := 0x581880) known (by decide) u)
    | crust m => exact counted
    | router r => exact counted.trans (ih (hopOf_router hop) _ u)
    | none => exact bumpRtr_aside (ofs := 0x581980) known (by decide) s

theorem attachFor_lt (s : State) (node d : Nat) : attachFor s node d < 20 := by
  have all : ∀ l ∈ [[1, 2], [4, 10], [12, 13], [0], [0], [5], [5], [7], [8], [14], [14], [19], [19], [17], [16], [9], [15]], ∀ a ∈ l, a < 20 := by decide
  have known : ∀ a ∈ attached node, a < 20 := by
    unfold attached nth
    rw [List.getD_eq_getElem?_getD]
    intro a ha
    cases get : [[1, 2], [4, 10], [12, 13], [0], [0], [5], [5], [7], [8], [14], [14], [19], [19], [17], [16], [9], [15]][node - 20]? with
    | none =>
      rw [get] at ha
      cases ha
    | some l =>
      rw [get] at ha
      exact all l (List.mem_of_getElem? get) a ha
  unfold attachFor
  split
  · next a b eq =>
    rw [eq] at known
    split
    · exact known b (by simp)
    · exact known a (by simp)
  · next a l _ eq =>
    rw [eq] at known
    exact known a (by simp)
  · decide

theorem trip_aside (src d : Nat) (s : State) : Aside s (trip src d s).2 := by
  have injected : Aside s (when (decide (src < 20)) (bumpRtr src (F.RTR_INJ_CNT src)) s) := by
    by_cases core : src < 20
    · exact .when _ (bumpRtr_aside (ofs := 0x581840) core (by decide)) s
    · rw [decide_eq_false core]
      exact .refl s
  unfold trip
  refine injected.trans (tripFrom_aside d 64 ?_ false _)
  split
  · next core => exact core
  · exact attachFor_lt ..

theorem backTrip_aside (src l : Nat) (s : State) : Aside s (backTrip src l s) := trip_aside ..

theorem place_aside (p : Packet) (s : State) : Aside s (place p s) := by
  unfold place
  split <;> exact .inl (.of_same rfl rfl rfl rfl)

theorem inject_aside (p : Packet) (s : State) : Aside s (inject p s) := by
  refine Aside.trans ?_ (place_aside ..)
  by_cases core : p.src < 20
  · exact .when _ (bumpRtr_aside (ofs := 0x581840) core (by decide)) s
  · rw [decide_eq_false core]
    exact .refl s

theorem replyRead_aside (n l : Nat) (data : List Byte) (poison : Bool) (status : Nat) (rqs : List Requester) (s : State) :
    Aside s (replyRead n l data poison status rqs s) := inject_aside ..

theorem freeBytes_aside (n : Nat) (s : State) : Aside s (freeBytes n s).2 := .inl (.of_same rfl rfl rfl rfl)

theorem foundError_aside (s : State) : Aside s (foundError s).2 := .inl (.of_same rfl rfl rfl rfl)

theorem updStk_aside (n : Nat) (f : StkSt → StkSt) (s : State) : Aside s (updStk n f s) := .inl (.of_same rfl rfl rfl rfl)

theorem putStk_aside (a : Nat) (bs : List Byte) (s : State) : Aside s (putStk a bs s) := .inl (.of_same rfl rfl rfl rfl)

theorem markLine_aside (l : Nat) (b : Bool) (s : State) : Aside s (markLine l b s) := .inl (.of_same rfl rfl rfl rfl)

/-! ### Events of the stacks -/

/-- An event from outside the cores leaves the serving engine and the cores, or puts the package in safe state. -/
theorem collect_aside {e : Ev} (dom : e.dom < 256) (src : e.src < 256) (outside : 20 ≤ e.dom) {l0 : Nat} (start : l0 ≤ 1) {left0 : List Nat}
    (before : ∀ k ∈ left0, k ≤ 4) (s : State) : Aside s (collect e l0 left0 s) := by
  obtain ⟨low, left⟩ := climb_le s e 4 l0 left0 (by omega) before
  have ends := climb_outside (s := s) outside start left0
  have recorded := (noted_flt_climbed low left dom src s).servingStands (inSafe_noted ..)
  rw [collect_eq]
  generalize (climb s e 4 l0 left0).1 = l at *
  generalize noted e l (climb s e 4 l0 left0).2 s = u at *
  have pin (v : State) : ServingStands v (pinEvent l v) := (pinEvent_flt ..).servingStands (by
    unfold inSafe flag
    rw [get_pinEvent _ _ (by decide) (by decide) (by decide)])
  by_cases safe : inSafe s = true
  · have stays : Aside u (react l e.dom u) := by
      rcases ends with minor | rfl | rfl
      · rw [react_low minor]
        exact .refl u
      · show Aside u (safeState u)
        rw [safeState_stays (recorded.safe.trans safe)]
        exact .refl u
      · show Aside u (powerOffAsked (safeState u))
        rw [safeState_stays (recorded.safe.trans safe)]
        exact (set_aside (f := F.FLT_STAT_L4_REQ) (besideServing_low (by decide) (by decide)) 1 u).trans (.inl (.of_same rfl rfl rfl rfl))
    exact (recorded.aside.trans stays).trans (pin _).aside
  · rcases ends with minor | rfl | rfl
    · rw [react_low minor]
      exact .inl (recorded.trans (pin u))
    · exact .inr ⟨Bool.eq_false_iff.2 safe, (pin _).safe.trans (safeState_frame u).2.1⟩
    · refine .inr ⟨Bool.eq_false_iff.2 safe, (pin _).safe.trans ?_⟩
      have asked : get (powerOffAsked (safeState u)) F.FLT_STAT_SAFE = get (safeState u) F.FLT_STAT_SAFE := get_powerOffAsked _ (by decide)
      have entered := (safeState_frame u).2.1
      unfold inSafe flag at *
      exact (congrArg (· == 1) asked).trans entered

theorem raise_aside {e : Ev} (dom : 20 ≤ e.dom ∧ e.dom < 256) (src : e.src < 0x50) (s : State) : Aside s (raise e s) := by
  have low : srcClass e.src ≤ 1 := by
    unfold srcClass
    rw [if_pos src]
    split <;> omega
  unfold raise
  split
  · exact collect_aside dom.2 (by omega) dom.1 (by decide) (by decide) s
  · exact collect_aside dom.2 (by omega) dom.1 low (fun _ h => absurd h List.not_mem_nil) s

theorem lineDom_range (l : Nat) : 20 ≤ lineDom l ∧ lineDom l < 256 := by
  unfold lineDom lineStack lineChannel
  omega

end Sys2Proof.Machine

namespace Sys2Proof.Machine

/-! ### Accesses of the stacks leave what is beside them -/

theorem injApply_aside (s : State) : Aside s (injApply s) := by
  unfold injApply
  split
  · exact .refl s
  · next j _ =>
    dsimp only
    have counted : Aside s (set F.FLT_INJ_STAT_DONE (j.done + 1) (bump F.FLT_INJ_CNT s)) :=
      (bump_aside (besideServing_low (by decide) (by decide)) s).trans (set_aside (besideServing_low (by decide) (by decide)) _ _)
    generalize set F.FLT_INJ_STAT_DONE (j.done + 1) (bump F.FLT_INJ_CNT s) = u at *
    split
    · exact (counted.trans (set_aside (f := F.FLT_INJ_STAT_STATE) (besideServing_low (by decide) (by decide)) 2 u)).trans (.inl (.of_same rfl rfl rfl rfl))
    · exact counted.trans (.inl (.of_same rfl rfl rfl rfl))

theorem pendSet_aside (d : Nat) (s : State) : Aside s (pendSet d s) := .inl (.of_same rfl rfl rfl rfl)

theorem lineStack_lt (l : Nat) : lineStack l < 3 := Nat.mod_lt _ (by decide)

section
variable {n : Nat} (known : n < 3)
include known

theorem markUncorr_aside (l kind src : Nat) (s : State) : Aside s (markUncorr n l kind src s) := by
  have lost : Aside s (markLine l true (putStk (l * 512) (freeBytes 512 s).1 (freeBytes 512 s).2)) :=
    ((freeBytes_aside 512 s).trans (putStk_aside ..)).trans (markLine_aside ..)
  unfold markUncorr
  dsimp only
  generalize markLine l true (putStk (l * 512) (freeBytes 512 s).1 (freeBytes 512 s).2) = u at *
  have counted : Aside s (bump (F.STK_UNCORR_CNT n) u) := lost.trans (stkSet_aside (ofs := 0x540) known (by decide) _ u)
  generalize bump (F.STK_UNCORR_CNT n) u = v at *
  split
  · exact counted
  · refine Aside.trans ?_ (stkSet_aside (ofs := 0x180) known (by decide) _ _)
    refine Aside.trans ?_ (hwSet_aside (f := F.STK_ERR_LAST_VALID n) (stkField_beside (ofs := 0x17f) known (by decide)) 0 _)
    refine Aside.trans ?_ (stkSet_aside (ofs := 0x160) known (by decide) src _)
    refine Aside.trans ?_ (stkSet_aside (ofs := 0x15e) known (by decide) kind _)
    exact counted.trans (stkSet_aside (ofs := 0x140) known (by decide) l v)

theorem dramAccess_aside (l kind src access k : Nat) (e : Ecc) (s : State) : Aside s (dramAccess n l kind src access k e s) := by
  unfold dramAccess
  dsimp only
  have applied : Aside s (when (stkErr s l e).2 injApply s) := .when _ injApply_aside s
  generalize when (stkErr s l e).2 injApply s = u at *
  cases (stkErr s l e).1 with
  | clean => exact applied
  | corrected =>
    dsimp only
    have counted : Aside s (bumpN (F.STK_CORR_CNT n) (if (stkErr s l e).2 then 1 else k + 1) u) :=
      applied.trans (stkSet_aside (ofs := 0x500) known (by decide) _ u)
    generalize bumpN (F.STK_CORR_CNT n) (if (stkErr s l e).2 then 1 else k + 1) u = v at *
    split
    · refine Aside.trans ?_ (raise_aside (lineDom_range l) (show 1 < 0x50 by decide) _)
      split
      · exact counted
      · exact counted.trans (markUncorr_aside known ..)
    · exact (counted.trans (pendSet_aside ..)).trans (raise_aside (lineDom_range l) (show 1 < 0x50 by decide) _)
  | uncorrectable =>
    dsimp only
    split
    · exact applied
    · exact (applied.trans (markUncorr_aside known ..)).trans (raise_aside (lineDom_range l) (show 0x38 < 0x50 by decide) _)

theorem performRead_aside (l src k : Nat) (e : Ecc) (s : State) : Aside s (performRead n l src k e s).2 := by
  have counted : Aside s (when (linePoison s l) (bump (F.STK_POISON_RD_CNT n)) (bump (F.STK_RD_CNT n) s)) :=
    (stkSet_aside (ofs := 0x400) known (by decide) _ s).trans (.when _ (fun t => stkSet_aside (ofs := 0x580) known (by decide) _ t) _)
  exact counted.trans (dramAccess_aside known ..)

theorem openMerge_aside (l : Nat) (data : List Byte) (poison : Bool) (rqs : List (Nat × Requester)) (s : State) :
    Aside s (openMerge n l data poison rqs s).2 := by
  unfold openMerge
  dsimp only
  split
  · exact stkSet_aside (ofs := 0x4c0) known (by decide) _ s
  · dsimp only
    exact updStk_aside ..

end

theorem rangeRej_aside (l : Nat) (s : State) : Aside s (rangeRej l s) := stkSet_aside (ofs := 0x680) (lineStack_lt l) (by decide) _ s

theorem bankOffRej_aside (l src access : Nat) (s : State) : Aside s (bankOffRej l src access s) := by
  unfold bankOffRej bankOffEvent
  refine Aside.trans ?_ (raise_aside (lineDom_range l) (show 0x39 < 0x50 by decide) _)
  exact stkSet_aside (ofs := 0x5c0) (lineStack_lt l) (by decide) _ s

theorem refuseRead_aside (n l : Nat) (r : Requester) (status : Nat) (s : State) : Aside s (refuseRead n l r status s) :=
  (freeBytes_aside 512 s).trans (replyRead_aside ..)

theorem closeMerge_aside (n : Nat) (m : Merge) (s : State) : Aside s (closeMerge n m s) :=
  (updStk_aside ..).trans (.when _ (fun t => replyRead_aside n m.line m.data m.poison m.status (m.rqs.map fun r => r.2) t) _)

section
variable {n : Nat} (known : n < 3)
include known

theorem serveRead_aside (l src k : Nat) (full grace : Bool) (e : Ecc) (rq : Requester) (s : State) : Aside s (serveRead n l src k full grace e rq s) := by
  unfold serveRead
  split
  · exact (rangeRej_aside l s).trans (refuseRead_aside ..)
  split
  · exact (bankOffRej_aside l src 0 s).trans (refuseRead_aside ..)
  dsimp only
  split
  · refine Aside.trans ?_ (stkSet_aside (ofs := 0x480) known (by decide) _ _)
    exact (updStk_aside ..).trans (.when _ (fun t => stkSet_aside (ofs := 0x580) known (by decide) _ t) _)
  · have read := performRead_aside known l src k e s
    generalize performRead n l src k e s = r at *
    have opened : Aside s (if actB s (F.STK_CTL_MERGE_EN n) && full then openMerge n l r.1.1 r.1.2 [(src, rq)] r.2 else (false, r.2)).2 := by
      split
      · exact read.trans (openMerge_aside known ..)
      · exact read
    generalize (if actB s (F.STK_CTL_MERGE_EN n) && full then openMerge n l r.1.1 r.1.2 [(src, rq)] r.2 else (false, r.2)) = o at *
    split
    · exact opened
    · exact opened.trans (replyRead_aside ..)

theorem performWrite_aside (l ofs : Nat) (data : List Byte) (poison : Bool) (s : State) : Aside s (performWrite n l ofs data poison s) := by
  have closed : Aside s (beforeWrite n l s) := by
    unfold beforeWrite
    split
    · exact closeMerge_aside ..
    · exact .refl s
  have counted : Aside s (bump (F.STK_WR_CNT n) (beforeWrite n l s)) := closed.trans (stkSet_aside (ofs := 0x440) known (by decide) _ _)
  have stored : Aside s (bytesStored n l ofs data s) := counted.trans (putStk_aside ..)
  rw [performWrite_eq]
  split
  · exact stored.trans (markLine_aside ..)
  split
  · exact stored.trans (markLine_aside ..)
  · exact stored

theorem doWrite_aside (l ofs src k : Nat) (serves poison : Bool) (e : Ecc) (data : List Byte) (s : State) :
    Aside s (doWrite n l ofs src k serves poison e data s).2 := by
  unfold doWrite
  split
  · exact rangeRej_aside l s
  split
  · exact bump_aside (besideServing_low (by decide) (by decide)) s
  split
  · exact bankOffRej_aside ..
  · refine Aside.trans ?_ (performWrite_aside known ..)
    split
    · exact dramAccess_aside known ..
    · exact .refl s

theorem serveQueued_aside (p : Packet) (s : State) : Aside s (serveQueued n p s) := by
  have dropped : Aside s (foundError (dropPacket p s)).2 := .inl (.of_same rfl rfl rfl rfl)
  unfold serveQueued
  dsimp only
  generalize foundError (dropPacket p s) = f at *
  split
  · exact dropped.trans (serveRead_aside known ..)
  · exact (dropped.trans (doWrite_aside known ..)).trans (inject_aside ..)
  · exact .refl s

end

theorem queueWait_aside (l : Nat) (wr : Bool) (s : State) : Aside s (queueWait l wr s) := by
  unfold queueWait
  dsimp only
  split
  · exact .refl s
  split
  · refine Aside.trans ?_ (serveQueued_aside (lineStack_lt l) _ _)
    cases wr
    · exact stkSet_aside (ofs := 0x6c0) (lineStack_lt l) (by decide) _ s
    · exact stkSet_aside (ofs := 0x700) (lineStack_lt l) (by decide) _ s
  · exact .refl s

theorem reachLine_aside (l : Nat) (wr : Bool) (s : State) : Aside s (reachLine 35 l wr s).2 := by
  have start : when (!wr && decide (35 < 20) && decide (256 ≤ (core s 35).tags)) (bumpRtr 35 (F.RTR_CREDIT_STALL_CYC_CNT 35)) s = s := by
    cases wr <;> rfl
  unfold reachLine
  dsimp only
  rw [start]
  have gone := trip_aside 35 (stkNode (lineStack l)) s
  generalize trip 35 (stkNode (lineStack l)) s = t at *
  split
  · exact (gone.trans (queueWait_aside l wr _)).trans (.each _ (fun p u => serveQueued_aside (lineStack_lt l) p u) _)
  · exact gone

theorem writeLine_aside (l ofs : Nat) (data : List Byte) (poison : Bool) (s : State) : Aside s (writeLine 35 l ofs data poison s).2 := by
  have reached := reachLine_aside l true s
  unfold writeLine
  dsimp only
  generalize reachLine 35 l true s = t at *
  split
  · have drawn := foundError_aside t.2
    generalize foundError t.2 = f at *
    exact ((reached.trans drawn).trans (doWrite_aside (lineStack_lt l) ..)).trans (backTrip_aside ..)
  · exact reached

theorem writeLines_aside (a : Nat) (bs : List Byte) (bad ls : List Nat) (s : State) : Aside s (writeLines 35 a bs bad ls s).2 := by
  induction ls generalizing s with
  | nil => exact .refl s
  | cons l ls ih => exact (writeLine_aside l (partOn a bs l).1 (partOn a bs l).2 (bad.contains l) s).trans (ih _)

theorem writeSpan_aside (a : Nat) (bs : List Byte) (s : State) : Aside s (writeSpan 35 a bs s).2 := writeLines_aside ..

end Sys2Proof.Machine

namespace Sys2Proof.Machine

/-! ### The serving engine's own steps on an entry -/

theorem aperRej_aside (f : Nat) (s : State) : Aside s (aperRej f s) := by
  refine (bump_aside (f := F.GLB_APER_REJ_CNT) (besideServing_low (by decide) (by decide)) s).trans (hwSet_aside ⟨?_, ?_⟩ 0 _)
  · unfold entryWord
    simp only [F.MBX_FN_APER_ERR]
    omega
  · simp only [F.MBX_FN_APER_ERR, F.FLT_STAT_SAFE]
    omega

theorem dmaIn_aside (f a : Nat) (bs : List Byte) (s : State) : Aside s (dmaIn f a bs s).2 := by
  unfold dmaIn
  split
  · exact aperRej_aside f s
  · exact (set_aside (f := F.GLB_DMA_RD_BYTE_CNT) (besideServing_low (by decide) (by decide)) _ s).trans (writeSpan_aside ..)

theorem putPrompt_aside (f e len : Nat) (d : Desc) (s : State) : Aside s (putPrompt f e len d s).2 := by
  unfold putPrompt
  split
  · exact .refl s
  · exact dmaIn_aside ..

theorem srvPart_updSrv (n m : Nat) (f : SrvPart → SrvPart) (s : State) : srvPart (updSrv n f s) m = if m = n then f (srvPart s n) else srvPart s m := by
  unfold updSrv srvPart
  rw [SMap.get_put]

/-- A change of a served partition that moves none of its transfers. -/
theorem updSrv_aside (n : Nat) {f : SrvPart → SrvPart} (same : ∀ k, (f k).xfers = k.xfers) (s : State) : Aside s (updSrv n f s) := by
  refine .inl ⟨rfl, fun m => ?_, rfl, rfl, rfl, fun _ _ => rfl⟩
  rw [srvPart_updSrv]
  split
  · next here => rw [same, here]
  · rfl

theorem noticeMembers_aside (n m : Nat) (x : Notice) (s : State) : Aside s (noticeMembers n m x s) := .inl (.of_same rfl rfl rfl rfl)

theorem sendNotice_aside (n m : Nat) (x : Notice) (s : State) : Aside s (sendNotice n m x s) := by
  refine Aside.trans (updSrv_aside n ?_ s) (noticeMembers_aside ..)
  exact fun _ => rfl

theorem tellEntry_aside (n e : Nat) (s : State) : Aside s (tellEntry n e s) := sendNotice_aside ..

theorem bindAdapter_aside (n e : Nat) (d : Desc) (s : State) : Aside s (bindAdapter n e d s) := by
  have field {ofs w r : Nat} (high : 0x80 ≤ ofs) (small : ofs < 0x400) (v : Nat) (t : State) : Aside t (set ⟨0x18800000 + ofs + e * 0x400, w, r⟩ v t) := by
    refine set_aside ⟨?_, ?_⟩ v t
    · unfold entryWord
      dsimp only
      omega
    · simp only [F.FLT_STAT_SAFE]
      omega
  have slot (i : Nat) (known : i < 64) (t : State) : Aside t (bumpSlot i t) :=
    set_aside (besideServing_low (by simp only [F.SRV_ASLOT_REFCNT]; omega) (by simp only [F.SRV_ASLOT_REFCNT]; omega)) _ t
  unfold bindAdapter
  split
  · exact .refl s
  · dsimp only
    split
    · next i found =>
      split
      · refine updSrv_aside n ?_ s
        exact fun _ => rfl
      · refine Aside.trans ?_ (slot i (List.mem_range.1 (List.mem_of_find?_eq_some found)) _)
        refine Aside.trans ?_ (field (ofs := 0x100) (by decide) (by decide) _ _)
        refine Aside.trans ?_ (field (ofs := 0xf6) (by decide) (by decide) _ _)
        exact field (ofs := 0xf0) (by decide) (by decide) i s
    · refine updSrv_aside n ?_ s
      exact fun _ => rfl

/-! ### A request becomes QUEUED (R322) -/

theorem setAll_rest (l : List (Fld × Nat)) (s : State) : setAll l s = { s with regs := (setAll l s).regs } :=
  each_keeps (P := fun t => t = { s with regs := t.regs }) l rfl fun p t ht => by
    rw [ht]
    rfl

/-- The fields of an entry as a turn sets them. -/
def turnWrites (n e len : Nat) (d : Desc) (s : State) : List (Fld × Nat) :=
  let b := fun (x : Bool) => if x then 1 else 0
  [(F.SRV_ENT_TYPE e, 0), (F.SRV_ENT_LPART e, n), (F.SRV_ENT_CLASS e, d.cls.toNat), (F.SRV_ENT_KEEP e, b d.keep), (F.SRV_ENT_LATE_OK e, b d.lateOk),
    (F.SRV_ENT_OMIT_STOP e, b d.omitStop), (F.SRV_ENT_PRIO e, d.prio.toNat), (F.SRV_ENT_STOPSETS e, d.stopsets.toNat), (F.SRV_ENT_HANDLE e, d.handle.toNat),
    (F.SRV_ENT_LEN e, len), (F.SRV_ENT_PROMPT_END e, len + d.prompt.length), (F.SRV_ENT_PF_NEXT e, len), (F.SRV_ENT_MAXLEN e, d.maxlen.toNat),
    (F.SRV_ENT_OUT_CNT e, 0), (F.SRV_ENT_ACCT e, d.acct.toNat), (F.SRV_ENT_AVALID e, 0), (F.SRV_ENT_LOST_RUN e, 0), (F.SRV_ENT_NSTOP e, d.nstop.toNat),
    (F.SRV_ENT_STATUS e, 0), (F.SRV_ENT_BOUND e, 0), (F.SRV_ENT_ORING e, d.oring.toNat),
    (F.SRV_ENT_PLIST e, Config.listLine (get s (F.SRV_PART_PLIST n)) e),
    (F.SRV_ENT_DEADLINE e, if d.time.toNat = 0 then 2 ^ 64 - 1 else (now s + d.time.toNat) % 2 ^ 64), (F.SRV_ENT_T_SUBMIT e, now s), (F.SRV_ENT_T_FIRST e, 0),
    (F.SRV_ENT_T_LAST e, 0), (F.SRV_ENT_SEED e, d.seed.toNat), (F.SRV_ENT_TBT_MAX e, 0), (F.SRV_ENT_CHARGED e, 0),
    (F.SRV_ENT_PROMPT e, Config.promptLine (get s (F.SRV_PART_PROMPT n)) e),
    (F.SRV_ENT_STOPLEN e, (d.stops.zipIdx.map fun (p : List Word × Nat) => (p.1.length - 1) % 16 * 16 ^ p.2).foldl (fun a b => a + b) 0)]

/-- Offsets of those fields in the entry. -/
def turnOffsets : List Nat :=
  [0x04, 0x06, 0x0a, 0x0d, 0x0e, 0x0f, 0x10, 0x18, 0x20, 0x40, 0x60, 0x80, 0xa0, 0xc0, 0xe0, 0xf6, 0x110, 0x114, 0x118, 0x12b, 0x12c, 0x140, 0x180, 0x1c0,
    0x200, 0x240, 0x280, 0x320, 0x340, 0x380, 0x300]

theorem turnWrites_keys (n e len : Nat) (d : Desc) (s : State) :
    (turnWrites n e len d s).map (fun p => p.1.key) = turnOffsets.map (fun o => 0x18800000 + o + e * 0x400) := rfl

theorem turnWrites_apart (n e len : Nat) (d : Desc) (s : State) : (turnWrites n e len d s).Pairwise fun p r => p.1.key ≠ r.1.key := by
  have offsets : turnOffsets.Pairwise (· ≠ ·) := by decide
  have keys := offsets.map (S := (· ≠ ·)) (fun o => 0x18800000 + o + e * 0x400) fun a b (other : a ≠ b) same => other (by omega)
  rw [← turnWrites_keys n e len d s] at keys
  exact List.pairwise_map.1 keys

theorem turnWrites_safe (n e len : Nat) (d : Desc) (s : State) : inSafe (setAll (turnWrites n e len d s) s) = inSafe s := by
  have kept := setAll_regs (l := turnWrites n e len d s) (fs := (turnWrites n e len d s).map fun p => p.1) (fun _ => List.mem_map_of_mem) s
  unfold inSafe flag
  rw [(kept F.FLT_STAT_SAFE fun f hf => ?_).1]
  obtain ⟨p, hp, rfl⟩ := List.mem_map.1 hf
  have key : p.1.key ∈ turnOffsets.map (fun o => 0x18800000 + o + e * 0x400) := turnWrites_keys n e len d s ▸ List.mem_map_of_mem hp
  obtain ⟨o, -, eq⟩ := List.mem_map.1 key
  simp only [F.FLT_STAT_SAFE]
  omega

/-- The stop sequences of a turn. -/
def turnStops (e : Nat) (d : Desc) (s : State) : State :=
  each d.stops.zipIdx (fun (p : List Word × Nat) s => upTo 16 (fun j s => set (F.SRV_STOP_WORD e (16 * p.2 + j)) (nth 0 p.1 j).toNat s) s) s

theorem fillEntry_eq (n e len : Nat) (d : Desc) (s : State) : fillEntry n e len d s = turnStops e d (setAll (turnWrites n e len d s) s) := rfl

theorem turnStops_stands (e : Nat) (d : Desc) (s : State) : ServingStands s (turnStops e d s) := by
  refine each_keeps (P := ServingStands s) _ (.refl s) fun p t ht => each_keeps (P := ServingStands s) _ ht fun j u hu => hu.trans (set_stands ⟨?_, ?_⟩ _ u)
  · unfold entryWord
    simp only [F.SRV_STOP_WORD]
    omega
  · simp only [F.SRV_STOP_WORD, F.FLT_STAT_SAFE]
    omega

/-- The entry of a turn before its prompt goes to the stacks. -/
def turnEntry (n e len st : Nat) (d : Desc) (s : State) : State := setEnt e st (fillEntry n e len d s)

theorem queueEntry_aside (f n e len st : Nat) (d : Desc) (s : State) : Aside (turnEntry n e len st d s) (queueEntry f n e len st d s) := by
  have placed := putPrompt_aside f e len d (turnEntry n e len st d s)
  unfold turnEntry at *
  unfold queueEntry
  dsimp only
  generalize putPrompt f e len d (setEnt e st (fillEntry n e len d s)) = p at *
  refine ((placed.trans (bindAdapter_aside n e d p.2)).trans (tellEntry_aside n e _)).trans (.when _ (fun t => ?_) _)
  exact sendNotice_aside ..

/-- What a turn leaves of the entry, and of the rest. -/
structure TurnEntry (e len st : Nat) (d : Desc) (s t : State) : Prop where
  state : entState t e = st % 16
  handle : get t (F.SRV_ENT_HANDLE e) = d.handle.toNat
  length : get t (F.SRV_ENT_LEN e) = len % 2 ^ 32
  promptEnd : get t (F.SRV_ENT_PROMPT_END e) = (len + d.prompt.length) % 2 ^ 32
  rq : t.srv.rq = s.srv.rq
  xfers : ∀ n, (srvPart t n).xfers = (srvPart s n).xfers
  cores : t.cores = s.cores
  spad : t.mem.spad = s.mem.spad
  safe : inSafe t = inSafe s

theorem entryField_word {e ofs : Nat} (known : e ≤ 8191) (small : ofs < 0x80) (whole : ofs % 32 = 0) : entryWord (0x18800000 + ofs + e * 0x400) := by
  unfold entryWord
  omega

theorem TurnEntry.after {e len st : Nat} {d : Desc} {s t u : State} (known : e ≤ 8191) (h : TurnEntry e len st d s t) (k : ServingStands t u) :
    TurnEntry e len st d s u where
  state := (k.regs _ (entryField_word (ofs := 0) known (by decide) rfl)).trans h.state
  handle := (k.regs _ (entryField_word (ofs := 0x20) known (by decide) rfl)).trans h.handle
  length := (k.regs _ (entryField_word (ofs := 0x40) known (by decide) rfl)).trans h.length
  promptEnd := (k.regs _ (entryField_word (ofs := 0x60) known (by decide) rfl)).trans h.promptEnd
  rq := k.rq.trans h.rq
  xfers n := (k.xfers n).trans (h.xfers n)
  cores := k.cores.trans h.cores
  spad := k.spad.trans h.spad
  safe := k.safe.trans h.safe

theorem turnEntry_spec (n : Nat) {e : Nat} (known : e ≤ 8191) (len st : Nat) (d : Desc) (s : State) : TurnEntry e len st d s (turnEntry n e len st d s) := by
  have written {p : Fld × Nat} (hp : p ∈ turnWrites n e len d s) := get_setAll (turnWrites_apart n e len d s) hp s
  have rest := setAll_rest (turnWrites n e len d s) s
  have stops := turnStops_stands e d (setAll (turnWrites n e len d s) s)
  unfold turnEntry
  rw [fillEntry_eq]
  have entry {ofs w : Nat} (small : ofs < 0x80) (whole : ofs % 32 = 0) (other : ofs ≠ 0) :
      get (setEnt e st (turnStops e d (setAll (turnWrites n e len d s) s))) ⟨0x18800000 + ofs + e * 0x400, w, 0⟩ = get (setAll (turnWrites n e len d s) s) ⟨0x18800000 + ofs + e * 0x400, w, 0⟩ :=
    (get_set_ne (by simp only [F.SRV_ENT_STATE]; omega) _ _).trans (stops.regs _ (entryField_word known small whole))
  refine ⟨get_set_same .., ?_, ?_, ?_, ?_, ?_, ?_, ?_, ?_⟩
  · refine (entry (ofs := 0x20) (by decide) rfl (by decide)).trans ((written (p := (F.SRV_ENT_HANDLE e, d.handle.toNat)) (by simp [turnWrites])).trans ?_)
    exact Nat.mod_eq_of_lt d.handle.isLt
  · exact (entry (ofs := 0x40) (by decide) rfl (by decide)).trans (written (p := (F.SRV_ENT_LEN e, len)) (by simp [turnWrites]))
  · exact (entry (ofs := 0x60) (by decide) rfl (by decide)).trans (written (p := (F.SRV_ENT_PROMPT_END e, len + d.prompt.length)) (by simp [turnWrites]))
  · exact stops.rq.trans (by rw [rest])
  · intro m
    refine (stops.xfers m).trans ?_
    unfold srvPart
    rw [rest]
  · exact stops.cores.trans (by rw [rest])
  · exact stops.spad.trans (by rw [rest])
  · exact (inSafe_set (by simp only [F.SRV_ENT_STATE, F.FLT_STAT_SAFE]; omega) _ _).trans (stops.safe.trans (turnWrites_safe ..))

end Sys2Proof.Machine

namespace Sys2Proof.Machine

/-- An access that does not put the package in safe state leaves what is beside the stacks. -/
theorem Aside.quiet {s t : State} (h : Aside s t) (same : inSafe t = inSafe s) : ServingStands s t := by
  rcases h with stands | ⟨normal, safe⟩
  · exact stands
  · rw [normal, safe] at same
    cases same

/-- Once in safe state, the package stays in it. -/
theorem Aside.stays {s t : State} (h : Aside s t) (safe : inSafe s = true) : inSafe t = true := by
  rcases h with stands | ⟨-, entered⟩
  · exact stands.safe.trans safe
  · exact entered

/-! ### What reading a descriptor, and making room for it, leave (R322, R353) -/

/-- The request rings, the cores, the scratchpads stand, and the package does not change its state. -/
structure CoresStand (s t : State) : Prop where
  rq : t.srv.rq = s.srv.rq
  cores : t.cores = s.cores
  spad : t.mem.spad = s.mem.spad
  safe : inSafe t = inSafe s

theorem CoresStand.refl (s : State) : CoresStand s s := ⟨rfl, rfl, rfl, rfl⟩

theorem CoresStand.trans {r s t : State} (h : CoresStand r s) (k : CoresStand s t) : CoresStand r t :=
  ⟨k.rq.trans h.rq, k.cores.trans h.cores, k.spad.trans h.spad, k.safe.trans h.safe⟩

theorem entState_safe (e : Nat) : F.FLT_STAT_SAFE.key ≠ (F.SRV_ENT_STATE e).key := by
  simp only [F.FLT_STAT_SAFE, F.SRV_ENT_STATE]
  omega

theorem startXfer_cores (n e : Nat) (restore : Bool) (s : State) : CoresStand s (startXfer n e restore s) :=
  ⟨rfl, rfl, rfl, inSafe_set (entState_safe e) _ _⟩

theorem sendNotice_cores (n m : Nat) (x : Notice) (s : State) : CoresStand s (sendNotice n m x s) := ⟨rfl, rfl, rfl, rfl⟩

theorem makeRoom_cores {n skip need : Nat} {s s1 : State} (room : makeRoom n skip need s = some s1) : CoresStand s s1 := by
  obtain ⟨l, -, rfl⟩ := Option.map_eq_some_iff.1 room
  exact each_keeps (P := CoresStand s) l (.refl s) fun e t ht => (ht.trans (startXfer_cores n e false t)).trans (sendNotice_cores ..)

theorem consume_stands (r : Nat) (q : ReqRing) (d : Desc) (s : State) :
    rqRing (consume r q d s) r = some { q with cons := (q.cons + 1) % 2 ^ 32 } ∧ (consume r q d s).cores = s.cores ∧ (consume r q d s).mem = s.mem ∧
      inSafe (consume r q d s) = inSafe s := by
  have read : inSafe (consume r q d s) = inSafe (putRq r (some { q with cons := (q.cons + 1) % 2 ^ 32 }) s) := by
    refine (inSafe_set (f := F.GLB_DMA_WR_BYTE_CNT) (by decide) _ _).trans ?_
    exact (inSafe_set (f := F.GLB_DMA_RD_BYTE_CNT) (by decide) _ _).trans (inSafe_bump (f := F.SRV_SUBMIT_CNT) (by decide) _)
  have ring : SMap.get none (SMap.put none s.srv.rq r (some { q with cons := (q.cons + 1) % 2 ^ 32 })) r =
    some { q with cons := (q.cons + 1) % 2 ^ 32 } := SMap.get_put_same ..
  exact ⟨ring, rfl, rfl, read⟩

theorem mayAdmit_stands (n : Nat) (s : State) : (mayAdmit n s).2 = { s with srv := (mayAdmit n s).2.srv } ∧ (mayAdmit n s).2.srv.rq = s.srv.rq ∧
    (srvPart (mayAdmit n s).2 n).staging = (srvPart s n).staging := by
  unfold mayAdmit
  dsimp only
  split
  · exact ⟨rfl, rfl, rfl⟩
  · refine ⟨rfl, rfl, ?_⟩
    rw [srvPart_updSrv, if_pos rfl]

theorem freeEntry_known {s : State} {e : Nat} (free : freeEntry s = some e) : e ≤ 8191 := by
  unfold freeEntry at free
  exact Nat.le_of_lt_succ (List.mem_range.1 (List.mem_of_find?_eq_some free))

/-- A turn that is queued quietly leaves its entry as written, and the cores as they were. -/
theorem queueEntry_quiet (f n : Nat) {e : Nat} (known : e ≤ 8191) (len st : Nat) (d : Desc) {s : State}
    (quiet : inSafe (queueEntry f n e len st d s) = inSafe s) : TurnEntry e len st d s (queueEntry f n e len st d s) := by
  have entry := turnEntry_spec n known len st d s
  exact entry.after known ((queueEntry_aside f n e len st d s).quiet (quiet.trans entry.safe.symm))

section
variable {r : RingIx} {d : Desc} {s : State} {q : ReqRing} (next : readable s r = some q)
include next

theorem exec_reqNew_admits (may : (mayAdmit q.part s).1 = true) :
    exec (.reqNew r d) s = .next (submitNew q.fn q.part d (consume r q d (mayAdmit q.part s).2)) := by
  rw [exec_reqNew, execReqNew]
  dsimp only
  rw [next]
  exact if_pos may

theorem exec_reqContinue_readable : exec (.reqContinue r d) s = .next (submitContinue q.fn q.part d (consume r q d s)) := by
  rw [exec_reqContinue, execReqContinue, next]

theorem exec_reqCancel_readable : exec (.reqCancel r d) s = .next (submitCancel q.part d (consume r q d s)) := by
  rw [exec_reqCancel, execReqCancel, next]

theorem exec_reqPark_readable : exec (.reqPark r d) s = .next (submitPark q.part d (consume r q d s)) := by
  rw [exec_reqPark, execReqPark, next]

theorem exec_reqDrop_readable : exec (.reqDrop r d) s = .next (submitDrop q.part d (consume r q d s)) := by
  rw [exec_reqDrop, execReqDrop, next]

end

theorem submitNew_admits {f n : Nat} {d : Desc} {s s1 : State} {e : Nat} (fields : badFields s 1 d = false) (length : badLength s n 0 d = false)
    (adapter : badAdapter s d = false) (free : freeEntry s = some e) (room : makeRoom n 8192 (setsFor d.prompt.length) s = some s1) (funds : broke s d = false) :
    submitNew f n d s = updSrv n (fun k => { k with admitted := k.admitted + 1 }) (queueEntry f n e 0 eQueued d s1) := by
  unfold submitNew
  rw [fields, length, adapter, free, room, funds]
  rfl

/-- Settles O39: an access of the stacks leaves the entries, the rings and the cores, or puts the package in safe state (`Aside`). -/
theorem newRequestIsAdmitted : Obligations.NewRequestIsAdmitted := by
  unfold Obligations.NewRequestIsAdmitted
  intro r d s s1 q e next may _ fields length adapter free room funds
  refine ⟨_, exec_reqNew_admits next may, submitNew_admits fields length adapter free room funds, fun quiet => ?_⟩
  rw [submitNew_admits fields length adapter free room funds] at quiet ⊢
  obtain ⟨admitted, -, -⟩ := mayAdmit_stands q.part s
  obtain ⟨ring, cores, mem, safe⟩ := consume_stands r q d (mayAdmit q.part s).2
  have made := makeRoom_cores room
  have before : inSafe s1 = inSafe s := made.safe.trans (safe.trans (by rw [admitted]; rfl))
  have turn := queueEntry_quiet q.fn q.part (freeEntry_known free) 0 eQueued d (quiet.trans before.symm)
  refine ⟨turn.state, turn.handle, turn.promptEnd.trans (by rw [Nat.zero_add]), ?_, ?_, ?_⟩
  · have same := turn.rq.trans made.rq
    unfold rqRing at ring ⊢
    show (SMap.get none (queueEntry q.fn q.part e 0 eQueued d s1).srv.rq r).map _ = _
    rw [same, ring]
    rfl
  · exact (turn.spad.trans made.spad).trans (by rw [mem, admitted])
  · exact (turn.cores.trans made.cores).trans (cores.trans (by rw [admitted]))

end Sys2Proof.Machine

namespace Sys2Proof.Machine

/-! ### CONTINUE, PARK and DROP (R321, R322, R334) -/

section
variable {f n : Nat} {d : Desc} {s s1 : State} (fields : badFields s 2 d = false) (length : badLength s n (get s (F.SRV_ENT_LEN d.conv.toNat)) d = false)
  (conv : badConv s n d (fun st => st == 6 || st == 7 || st == 8) = false) (adapter : badAdapter s d = false)
include fields length conv adapter

/-- A CONTINUE descriptor that passes the first four checks. -/
theorem submitContinue_checked : submitContinue f n d s =
    (match makeRoom n d.conv.toNat (setsFor (get s (F.SRV_ENT_LEN d.conv.toNat) + d.prompt.length) -
        if entState s d.conv.toNat = 8 then 0 else demand s n d.conv.toNat) s with
    | none => reject n 7 d s
    | some s1 =>
      if broke s d then reject n 0x22 d s
      else if entState s d.conv.toNat = 8 then queueEntry f n d.conv.toNat (get s (F.SRV_ENT_LEN d.conv.toNat)) eRestoring d
        (restoreSets n d.conv.toNat (startXfer n d.conv.toNat true s1))
      else queueEntry f n d.conv.toNat (get s (F.SRV_ENT_LEN d.conv.toNat)) eQueued d
        (updSrv n (fun k => { k with xfers := SMap.put none k.xfers d.conv.toNat none }) s1)) := by
  have conv' : badConv s n d (fun st => st == eParked || st == eMigrating || st == eCaddy) = false := conv
  unfold submitContinue
  dsimp only
  rw [fields, length, conv', adapter]
  rfl

theorem submitContinue_queues (there : entState s d.conv.toNat ≠ 8)
    (room : makeRoom n d.conv.toNat (setsFor (get s (F.SRV_ENT_LEN d.conv.toNat) + d.prompt.length) - demand s n d.conv.toNat) s = some s1)
    (funds : broke s d = false) : submitContinue f n d s = queueEntry f n d.conv.toNat (get s (F.SRV_ENT_LEN d.conv.toNat)) eQueued d
      (updSrv n (fun k => { k with xfers := SMap.put none k.xfers d.conv.toNat none }) s1) := by
  rw [submitContinue_checked fields length conv adapter, if_neg there, room, funds]
  exact if_neg there

theorem submitContinue_restores (away : entState s d.conv.toNat = 8)
    (room : makeRoom n d.conv.toNat (setsFor (get s (F.SRV_ENT_LEN d.conv.toNat) + d.prompt.length)) s = some s1) (funds : broke s d = false) :
    submitContinue f n d s = queueEntry f n d.conv.toNat (get s (F.SRV_ENT_LEN d.conv.toNat)) eRestoring d
      (restoreSets n d.conv.toNat (startXfer n d.conv.toNat true s1)) := by
  rw [submitContinue_checked fields length conv adapter, if_pos away, Nat.sub_zero, room, funds]
  exact if_pos away

end

/-- An entry that passes check 3 is one of the 8,192, and in a state that the descriptor admits. -/
theorem badConv_known {s : State} {n : Nat} {d : Desc} {ok : Nat → Bool} (conv : badConv s n d ok = false) :
    d.conv.toNat ≤ 8191 ∧ ok (entState s d.conv.toNat) = true := by
  simp only [badConv, Bool.or_eq_false_iff, decide_eq_false_iff_not, Bool.not_eq_false', Nat.not_lt] at conv
  exact ⟨conv.1.1.1.1, conv.1.2⟩

/-- Check 3 with fewer states admits no more. -/
theorem badConv_mono {s : State} {n : Nat} {d : Desc} {ok more : Nat → Bool} (sub : ∀ st, ok st = true → more st = true) (conv : badConv s n d ok = false) :
    badConv s n d more = false := by
  have state := (badConv_known conv).2
  simp only [badConv, Bool.or_eq_false_iff, Bool.not_eq_false'] at conv ⊢
  exact ⟨⟨conv.1.1, sub _ state⟩, conv.2⟩

theorem allocSet_aside {n e p : Nat} {s t : State} (got : allocSet n e p s = some t) : Aside s t := by
  unfold allocSet at got
  dsimp only at got
  split at got
  · cases got
    exact .refl s
  · split at got
    · cases got
    · cases got
      refine Aside.trans (updSrv_aside n ?_ s) (writeSpan_aside ..)
      exact fun _ => rfl

theorem restoreSets_aside (n e : Nat) (s : State) : Aside s (restoreSets n e s) := by
  refine .each _ (fun p t => ?_) s
  cases got : allocSet n e p t with
  | none => exact .refl t
  | some u => exact allocSet_aside got

/-- A state between two that agree, of which safe state would have been kept. -/
theorem Aside.middle {s t u : State} (h : Aside s t) (kept : inSafe t = true → inSafe u = true) (same : inSafe u = inSafe s) : inSafe t = inSafe s := by
  rcases h with stands | ⟨normal, safe⟩
  · exact stands.safe
  · rw [kept safe, normal] at same
    cases same

theorem xfers_startXfer (n e : Nat) (restore : Bool) (s : State) :
    (SMap.get none (srvPart (startXfer n e restore s) n).xfers e).isSome = true := by
  have same : srvPart (startXfer n e restore s) n = srvPart (updSrv n (fun k => { k with
    xfers := SMap.put none k.xfers e (some { restore := restore, heard := [], bad := false, start := now s }) }) s) n := rfl
  rw [same, srvPart_updSrv, if_pos rfl, SMap.get_put_same]
  rfl

section
variable {r : RingIx} {d : Desc} {s s1 : State} {q : ReqRing} (next : readable s r = some q)
  (fields : badFields (consume r q d s) 2 d = false)
  (length : badLength (consume r q d s) q.part (get (consume r q d s) (F.SRV_ENT_LEN d.conv.toNat)) d = false)
  (adapter : badAdapter (consume r q d s) d = false) (funds : broke (consume r q d s) d = false)
include next fields length adapter funds

theorem reqContinue_queues (conv : badConv (consume r q d s) q.part d (fun st => st == 6 || st == 7 || st == 8) = false)
    (there : entState (consume r q d s) d.conv.toNat ≠ 8)
    (room : makeRoom q.part d.conv.toNat (setsFor (get (consume r q d s) (F.SRV_ENT_LEN d.conv.toNat) + d.prompt.length) -
      demand (consume r q d s) q.part d.conv.toNat) (consume r q d s) = some s1) :
    ∃ t, exec (.reqContinue r d) s = .next t ∧ t = queueEntry q.fn q.part d.conv.toNat (get (consume r q d s) (F.SRV_ENT_LEN d.conv.toNat)) eQueued d
        (updSrv q.part (fun k => { k with xfers := SMap.put none k.xfers d.conv.toNat none }) s1) ∧
      (flag t F.FLT_STAT_SAFE = flag s F.FLT_STAT_SAFE → entState t d.conv.toNat = 1 ∧
        get t (F.SRV_ENT_LEN d.conv.toNat) = get (consume r q d s) (F.SRV_ENT_LEN d.conv.toNat) % 2 ^ 32 ∧ t.mem.spad = s.mem.spad ∧ t.cores = s.cores) := by
  have run := submitContinue_queues (f := q.fn) fields length conv adapter there room funds
  refine ⟨_, exec_reqContinue_readable next, run, fun quiet => ?_⟩
  rw [run] at quiet ⊢
  obtain ⟨-, cores, mem, safe⟩ := consume_stands r q d s
  have made := makeRoom_cores room
  have turn := queueEntry_quiet q.fn q.part (badConv_known conv).1 _ eQueued d (quiet.trans (made.safe.trans safe).symm)
  exact ⟨turn.state, turn.length, (turn.spad.trans made.spad).trans (by rw [mem]), (turn.cores.trans made.cores).trans cores⟩

theorem reqContinue_restores (conv : badConv (consume r q d s) q.part d (fun st => st == 8) = false)
    (room : makeRoom q.part d.conv.toNat (setsFor (get (consume r q d s) (F.SRV_ENT_LEN d.conv.toNat) + d.prompt.length)) (consume r q d s) = some s1) :
    ∃ t, exec (.reqContinue r d) s = .next t ∧ t = queueEntry q.fn q.part d.conv.toNat (get (consume r q d s) (F.SRV_ENT_LEN d.conv.toNat)) eRestoring d
        (restoreSets q.part d.conv.toNat (startXfer q.part d.conv.toNat true s1)) ∧
      (flag t F.FLT_STAT_SAFE = flag s F.FLT_STAT_SAFE → entState t d.conv.toNat = 9 ∧
        (SMap.get none (srvPart t q.part).xfers d.conv.toNat).isSome = true ∧ t.cores = s.cores) := by
  obtain ⟨known, away⟩ := badConv_known conv
  have wide := badConv_mono (more := fun st => st == 6 || st == 7 || st == 8) (fun st h => by simp only [h, Bool.or_true]) conv
  have run := submitContinue_restores (f := q.fn) fields length wide adapter (by simpa using away) room funds
  refine ⟨_, exec_reqContinue_readable next, run, fun quiet => ?_⟩
  rw [run] at quiet ⊢
  obtain ⟨-, cores, -, safe⟩ := consume_stands r q d s
  have started := (makeRoom_cores room).trans (startXfer_cores q.part d.conv.toNat true s1)
  have xfer := xfers_startXfer q.part d.conv.toNat true s1
  generalize startXfer q.part d.conv.toNat true s1 = u at *
  have before : inSafe u = inSafe s := started.safe.trans safe
  have restored := restoreSets_aside q.part d.conv.toNat u
  generalize restoreSets q.part d.conv.toNat u = v at *
  generalize get (consume r q d s) (F.SRV_ENT_LEN d.conv.toNat) = len at *
  have middle : inSafe v = inSafe u := by
    refine restored.middle (fun safe => ?_) (quiet.trans before.symm)
    exact (queueEntry_aside q.fn q.part d.conv.toNat len eRestoring d v).stays ((turnEntry_spec q.part known len eRestoring d v).safe.trans safe)
  have turn := queueEntry_quiet q.fn q.part known len eRestoring d (quiet.trans (middle.trans before).symm)
  have stands := restored.quiet middle
  refine ⟨turn.state, ?_, (turn.cores.trans stands.cores).trans (started.cores.trans cores)⟩
  rw [turn.xfers, stands.xfers]
  exact xfer

end

end Sys2Proof.Machine

namespace Sys2Proof.Machine

/-! ### An entry becomes FREE (R334) -/

theorem unbindSlot_aside (e : Nat) (s : State) : Aside s (unbindSlot e s) := by
  have slot (i : Nat) : besideServing (F.SRV_ASLOT_REFCNT i).key := by
    constructor
    · unfold entryWord
      simp only [F.SRV_ASLOT_REFCNT]
      omega
    · simp only [F.SRV_ASLOT_REFCNT, F.FLT_STAT_SAFE]
      omega
  have valid : besideServing (F.SRV_ENT_AVALID e).key := by
    constructor
    · unfold entryWord
      simp only [F.SRV_ENT_AVALID]
      omega
    · simp only [F.SRV_ENT_AVALID, F.FLT_STAT_SAFE]
      omega
  unfold unbindSlot
  split
  · exact .refl s
  · exact (set_aside (slot _) _ s).trans (set_aside valid _ _)

theorem freeSets_aside (n e : Nat) (s : State) : Aside s (freeSets n e s) := by
  unfold freeSets
  refine Aside.trans (Aside.each _ (fun p t => writeSpan_aside ..) s) (updSrv_aside n ?_ _)
  exact fun _ => rfl

/-- The registers of an entry that becomes FREE. -/
def entryFreed (n e : Nat) (s : State) : State := setB (F.SRV_ENT_BOUND e) false (setEnt e eFree (freeSets n e (unbindSlot e s)))

theorem freeEnt_eq (n e : Nat) (s : State) : freeEnt n e s = updSrv n (fun k => { k with
    xfers := SMap.put none k.xfers e none, waitAdpt := SMap.put none k.waitAdpt e none
    runs := k.runs.filter (fun x => !(x.e == e)), notices := k.notices.filter (fun x => !aboutEntry e x.2) }) (entryFreed n e s) := rfl

theorem entState_updSrv (n : Nat) (f : SrvPart → SrvPart) (s : State) (e : Nat) : entState (updSrv n f s) e = entState s e := rfl

/-- An entry that becomes FREE is FREE, whatever the accesses on its way meet. -/
theorem entState_freeEnt (n e : Nat) (s : State) : entState (freeEnt n e s) e = 0 := by
  rw [freeEnt_eq, entState_updSrv, entryFreed]
  refine (get_set_ne (f := F.SRV_ENT_BOUND e) ?_ _ _).trans (get_set_same ..)
  simp only [F.SRV_ENT_STATE, F.SRV_ENT_BOUND]
  omega

theorem updSrv_stands (n : Nat) (f : SrvPart → SrvPart) (s : State) :
    inSafe (updSrv n f s) = inSafe s ∧ (updSrv n f s).cores = s.cores ∧ (updSrv n f s).mem = s.mem := ⟨rfl, rfl, rfl⟩

theorem freeEnt_quiet {n e : Nat} {s : State} (quiet : inSafe (freeEnt n e s) = inSafe s) :
    (freeEnt n e s).cores = s.cores ∧ (freeEnt n e s).mem.spad = s.mem.spad := by
  have before := (unbindSlot_aside e s).trans (freeSets_aside n e _)
  rw [freeEnt_eq] at quiet ⊢
  rw [(updSrv_stands ..).1] at quiet
  rw [(updSrv_stands ..).2.1, (updSrv_stands ..).2.2]
  unfold entryFreed at *
  generalize freeSets n e (unbindSlot e s) = u at *
  have after : inSafe (setB (F.SRV_ENT_BOUND e) false (setEnt e eFree u)) = inSafe u := by
    refine (inSafe_set (f := F.SRV_ENT_BOUND e) ?_ _ _).trans (inSafe_set (entState_safe e) _ _)
    simp only [F.SRV_ENT_BOUND, F.FLT_STAT_SAFE]
    omega
  have stands := before.quiet (after.symm.trans quiet)
  exact ⟨stands.cores, stands.spad⟩

theorem tellEntry_cores (n e : Nat) (s : State) : CoresStand s (tellEntry n e s) := sendNotice_cores ..

theorem entState_tellEntry (n e : Nat) (s : State) (i : Nat) : entState (tellEntry n e s) i = entState s i := rfl

section
variable {r : RingIx} {d : Desc} {s : State} {q : ReqRing} (next : readable s r = some q)
include next

theorem reqCancel_ends (fields : badFields (consume r q d s) 3 d = false) (conv : badConv (consume r q d s) q.part d active = false)
    (adapter : badAdapter (consume r q d s) d = false) : exec (.reqCancel r d) s = .next (sendNotice q.part
      (curTick (consume r q d s) q.part + lead (consume r q d s) q.part) (.endEntry d.conv.toNat 0x24 32) (consume r q d s)) := by
  rw [exec_reqCancel_readable next, submitCancel, fields, conv, adapter]
  rfl

theorem reqPark_parks (fields : badFields (consume r q d s) 4 d = false) (conv : badConv (consume r q d s) q.part d (fun st => st == 6) = false)
    (adapter : badAdapter (consume r q d s) d = false) :
    let s1 := setTtl q.part d.conv.toNat d.time.toNat (consume r q d s)
    exec (.reqPark r d) s = .next (tellEntry q.part d.conv.toNat
      (if get s1 (F.SRV_PART_CADDY q.part) = 0 then s1 else startXfer q.part d.conv.toNat false s1)) := by
  have conv' : badConv (consume r q d s) q.part d (fun st => st == eParked) = false := conv
  rw [exec_reqPark_readable next, submitPark]
  dsimp only
  rw [fields, conv', adapter]
  rfl

theorem reqDrop_frees (fields : badFields (consume r q d s) 5 d = false)
    (conv : badConv (consume r q d s) q.part d (fun st => st == 6 || st == 7 || st == 8 || st == 9) = false)
    (adapter : badAdapter (consume r q d s) d = false) :
    ∃ t, exec (.reqDrop r d) s = .next t ∧ t = tellEntry q.part d.conv.toNat (freeEnt q.part d.conv.toNat (consume r q d s)) ∧ entState t d.conv.toNat = 0 ∧
      (flag t F.FLT_STAT_SAFE = flag s F.FLT_STAT_SAFE → t.cores = s.cores ∧ t.mem.spad = s.mem.spad) := by
  have conv' : badConv (consume r q d s) q.part d (fun st => st == eParked || st == eMigrating || st == eCaddy || st == eRestoring) = false := conv
  obtain ⟨-, cores, mem, safe⟩ := consume_stands r q d s
  refine ⟨_, ?_, rfl, (entState_tellEntry ..).trans (entState_freeEnt ..), fun quiet => ?_⟩
  · rw [exec_reqDrop_readable next, submitDrop]
    rw [fields, conv', adapter]
    rfl
  · have told := tellEntry_cores q.part d.conv.toNat (freeEnt q.part d.conv.toNat (consume r q d s))
    obtain ⟨cores', spad⟩ := freeEnt_quiet ((told.safe.symm.trans quiet).trans safe.symm)
    exact ⟨told.cores.trans (cores'.trans cores), told.spad.trans (spad.trans (by rw [mem]))⟩

end

/-! ### A descriptor that fails a check (R322) -/

/-- The FINAL record of a rejected descriptor. -/
def rejectedRec (status : Nat) (d : Desc) (t : Nat) : OutRec :=
  { ring := d.oring.toNat, handle := d.handle.toNat, token := 0, pos := 0, status := status, flags := 65, logit := 0, conv := d.conv.toNat, time := t
    fin := none }

/-- What a command that rejects a descriptor leaves. -/
def Rejects (n : Nat) (d : Desc) (status : Nat) (s t : State) : Prop :=
  (srvPart t n).staging = (srvPart s n).staging ++ [rejectedRec status d (now s)] ∧
    get t F.SRV_REJ_CNT = min (get s F.SRV_REJ_CNT + 1) (2 ^ 64 - 1) % 2 ^ 64 ∧ t.mem = s.mem ∧ t.cores = s.cores ∧
    sameRegsBut [F.SRV_SUBMIT_CNT, F.SRV_REJ_CNT, F.GLB_DMA_RD_BYTE_CNT, F.GLB_DMA_WR_BYTE_CNT] s t

theorem consume_regs (r : Nat) (q : ReqRing) (d : Desc) (s : State) :
    sameRegsBut [F.SRV_SUBMIT_CNT, F.SRV_REJ_CNT, F.GLB_DMA_RD_BYTE_CNT, F.GLB_DMA_WR_BYTE_CNT] s (consume r q d s) ∧
      get (consume r q d s) F.SRV_REJ_CNT = get s F.SRV_REJ_CNT := by
  refine ⟨?_, ?_⟩
  · have start : sameRegsBut [F.SRV_SUBMIT_CNT, F.SRV_REJ_CNT, F.GLB_DMA_RD_BYTE_CNT, F.GLB_DMA_WR_BYTE_CNT] s
        (putRq r (some { q with cons := (q.cons + 1) % 2 ^ 32 }) s) := fun _ _ => ⟨rfl, rfl⟩
    have read : sameRegsBut [F.SRV_SUBMIT_CNT, F.SRV_REJ_CNT, F.GLB_DMA_RD_BYTE_CNT, F.GLB_DMA_WR_BYTE_CNT] s (bumpN F.GLB_DMA_RD_BYTE_CNT
        (64 + 68 * d.stops.length) (bump F.SRV_SUBMIT_CNT (putRq r (some { q with cons := (q.cons + 1) % 2 ^ 32 }) s))) := (start.bump (by simp)).set (by simp) _
    unfold consume
    dsimp only
    generalize bumpN F.GLB_DMA_RD_BYTE_CNT (64 + 68 * d.stops.length) (bump F.SRV_SUBMIT_CNT (putRq r (some { q with cons := (q.cons + 1) % 2 ^ 32 }) s)) = u at *
    exact (read.set (f := F.GLB_DMA_WR_BYTE_CNT) (by simp) _).of_eq rfl rfl
  · refine (get_set_ne (f := F.GLB_DMA_WR_BYTE_CNT) (by decide) _ _).trans ?_
    refine (get_set_ne (f := F.GLB_DMA_RD_BYTE_CNT) (by decide) _ _).trans ?_
    exact get_set_ne (f := F.SRV_SUBMIT_CNT) (by decide) _ _

theorem staging_stage (n : Nat) (r : OutRec) (f : Fld) (s : State) : (srvPart (bump f (stage n r s)) n).staging = (srvPart s n).staging ++ [r] := by
  have same : srvPart (bump f (stage n r s)) n = srvPart (updSrv n (fun k => { k with staging := k.staging ++ [r] }) s) n := rfl
  rw [same, srvPart_updSrv, if_pos rfl]

theorem get_stage (n : Nat) (r : OutRec) (s : State) (f : Fld) : get (stage n r s) f = get s f := rfl

/-- A descriptor that has been read and fails a check completes at once. -/
theorem reject_rejects (r : Nat) (q : ReqRing) (d : Desc) (status : Nat) {s u : State} (rest : u = { s with srv := u.srv })
    (staging : (srvPart u q.part).staging = (srvPart s q.part).staging) : Rejects q.part d status s (reject q.part status d (consume r q d u)) := by
  obtain ⟨regs, count⟩ := consume_regs r q d u
  obtain ⟨-, cores, mem, -⟩ := consume_stands r q d u
  have regs0 : u.regs = s.regs := by rw [rest]
  have act0 : u.act = s.act := by rw [rest]
  have time : now (consume r q d u) = now s := (regs F.TB_TIME_TIME (by decide)).1.trans (get_of_regs regs0 _)
  have parts : srvPart (consume r q d u) q.part = srvPart u q.part := rfl
  unfold reject
  dsimp only
  rw [time]
  generalize consume r q d u = v at *
  refine ⟨?_, ?_, ?_, ?_, ?_⟩
  · rw [staging_stage, parts, staging]
    rfl
  · rw [get_bump_same, get_stage, count, get_of_regs regs0]
    rfl
  · exact mem.trans (by rw [rest])
  · exact cores.trans (by rw [rest])
  · have start : sameRegsBut [F.SRV_SUBMIT_CNT, F.SRV_REJ_CNT, F.GLB_DMA_RD_BYTE_CNT, F.GLB_DMA_WR_BYTE_CNT] s v :=
      ((sameRegsBut.refl _ s).of_eq regs0 act0).trans regs
    exact (start.of_eq rfl rfl).bump (by simp)

end Sys2Proof.Machine

namespace Sys2Proof.Machine

/-! ### The checks of each descriptor (R322) -/

section
variable {f n : Nat} {d : Desc} {s : State}

theorem submitNew_refused (fails : ¬ (badFields s 1 d = false ∧ badLength s n 0 d = false ∧ badAdapter s d = false)) :
    submitNew f n d s = reject n 3 d s := by
  unfold submitNew
  cases fields : badFields s 1 d
  · cases length : badLength s n 0 d
    · cases adapter : badAdapter s d
      · exact absurd ⟨fields, length, adapter⟩ fails
      · rfl
    · rfl
  · rfl

theorem submitNew_passed (pass : badFields s 1 d = false ∧ badLength s n 0 d = false ∧ badAdapter s d = false) : submitNew f n d s =
    (match freeEntry s, makeRoom n 8192 (setsFor d.prompt.length) s with
    | some e, some s1 =>
      if broke s d then reject n 0x22 d s
      else updSrv n (fun k => { k with admitted := k.admitted + 1 }) (queueEntry f n e 0 eQueued d s1)
    | _, _ => reject n 7 d s) := by
  obtain ⟨fields, length, adapter⟩ := pass
  unfold submitNew
  rw [fields, length, adapter]
  rfl

theorem submitNew_full (pass : badFields s 1 d = false ∧ badLength s n 0 d = false ∧ badAdapter s d = false)
    (full : freeEntry s = none ∨ makeRoom n 8192 (setsFor d.prompt.length) s = none) : submitNew f n d s = reject n 7 d s := by
  rw [submitNew_passed pass]
  rcases full with entry | room
  · rw [entry]
  · rw [room]
    split
    · next none => cases none
    · rfl

theorem submitNew_broke (pass : badFields s 1 d = false ∧ badLength s n 0 d = false ∧ badAdapter s d = false) (entry : freeEntry s ≠ none)
    (room : makeRoom n 8192 (setsFor d.prompt.length) s ≠ none) (funds : broke s d = true) : submitNew f n d s = reject n 0x22 d s := by
  obtain ⟨e, entry⟩ := Option.ne_none_iff_exists'.1 entry
  obtain ⟨s1, room⟩ := Option.ne_none_iff_exists'.1 room
  rw [submitNew_passed pass, entry, room]
  exact if_pos funds

theorem submitContinue_refused (fails : ¬ (badFields s 2 d = false ∧ badLength s n (get s (F.SRV_ENT_LEN d.conv.toNat)) d = false ∧
      badConv s n d (fun st => st == 6 || st == 7 || st == 8) = false ∧ badAdapter s d = false)) : submitContinue f n d s = reject n 3 d s := by
  unfold submitContinue
  dsimp only
  cases fields : badFields s 2 d
  · cases length : badLength s n (get s (F.SRV_ENT_LEN d.conv.toNat)) d
    · cases conv : badConv s n d (fun st => st == eParked || st == eMigrating || st == eCaddy)
      · cases adapter : badAdapter s d
        · exact absurd ⟨fields, length, conv, adapter⟩ fails
        · rfl
      · rfl
    · rfl
  · rfl

theorem submitCancel_refused (fails : badFields s 3 d = true ∨ badConv s n d active = true ∨ badAdapter s d = true) :
    submitCancel n d s = reject n 3 d s := by
  unfold submitCancel
  rw [if_pos (by simpa [or_assoc] using fails)]

theorem submitPark_refused (fails : badFields s 4 d = true ∨ badConv s n d (fun st => st == 6) = true ∨ badAdapter s d = true) :
    submitPark n d s = reject n 3 d s := by
  have fails' : badFields s 4 d = true ∨ badConv s n d (fun st => st == eParked) = true ∨ badAdapter s d = true := fails
  unfold submitPark
  dsimp only
  rw [if_pos (by simpa [or_assoc] using fails')]

theorem submitDrop_refused (fails : badFields s 5 d = true ∨ badConv s n d (fun st => st == 6 || st == 7 || st == 8 || st == 9) = true ∨ badAdapter s d = true) :
    submitDrop n d s = reject n 3 d s := by
  have fails' : badFields s 5 d = true ∨ badConv s n d (fun st => st == eParked || st == eMigrating || st == eCaddy || st == eRestoring) = true ∨
    badAdapter s d = true := fails
  unfold submitDrop
  dsimp only
  rw [if_pos (by simpa [or_assoc] using fails')]

end

/-! ### Rejected descriptors complete at once -/

section
variable {r : RingIx} {d : Desc} {s : State} {q : ReqRing} (next : readable s r = some q)
include next

theorem reqNew_rejects (may : (mayAdmit q.part s).1 = true) {status : Nat}
    (refused : submitNew q.fn q.part d (consume r q d (mayAdmit q.part s).2) = reject q.part status d (consume r q d (mayAdmit q.part s).2)) :
    ∃ t, exec (.reqNew r d) s = .next t ∧ Rejects q.part d status s t := by
  obtain ⟨rest, -, staging⟩ := mayAdmit_stands q.part s
  exact ⟨_, (exec_reqNew_admits next may).trans (congrArg _ refused), reject_rejects r q d status rest staging⟩

theorem reqContinue_rejects {status : Nat} (refused : submitContinue q.fn q.part d (consume r q d s) = reject q.part status d (consume r q d s)) :
    ∃ t, exec (.reqContinue r d) s = .next t ∧ Rejects q.part d status s t :=
  ⟨_, (exec_reqContinue_readable next).trans (congrArg _ refused), reject_rejects r q d status rfl rfl⟩

theorem reqCancel_rejects (fails : badFields (consume r q d s) 3 d = true ∨ badConv (consume r q d s) q.part d active = true ∨
      badAdapter (consume r q d s) d = true) : ∃ t, exec (.reqCancel r d) s = .next t ∧ Rejects q.part d 3 s t :=
  ⟨_, (exec_reqCancel_readable next).trans (congrArg _ (submitCancel_refused fails)), reject_rejects r q d 3 rfl rfl⟩

theorem reqPark_rejects (fails : badFields (consume r q d s) 4 d = true ∨ badConv (consume r q d s) q.part d (fun st => st == 6) = true ∨
      badAdapter (consume r q d s) d = true) : ∃ t, exec (.reqPark r d) s = .next t ∧ Rejects q.part d 3 s t :=
  ⟨_, (exec_reqPark_readable next).trans (congrArg _ (submitPark_refused fails)), reject_rejects r q d 3 rfl rfl⟩

theorem reqDrop_rejects (fails : badFields (consume r q d s) 5 d = true ∨
      badConv (consume r q d s) q.part d (fun st => st == 6 || st == 7 || st == 8 || st == 9) = true ∨ badAdapter (consume r q d s) d = true) :
    ∃ t, exec (.reqDrop r d) s = .next t ∧ Rejects q.part d 3 s t :=
  ⟨_, (exec_reqDrop_readable next).trans (congrArg _ (submitDrop_refused fails)), reject_rejects r q d 3 rfl rfl⟩

end

/-- Settles O40. That checks 2, 5 and 6 of R322 are not made for CANCEL, PARK and DROP is log entry 50. -/
theorem descriptorsAct : Obligations.DescriptorsAct := by
  unfold Obligations.DescriptorsAct
  refine ⟨fun r d s s1 q next => ⟨?_, ?_, ?_, ?_, ?_⟩, fun r d s q next => ⟨fun may => ⟨?_, ?_, ?_⟩, ⟨?_, ?_, ?_⟩, ?_, ?_, ?_⟩⟩
  · exact fun fields length conv adapter there room funds => reqContinue_queues next fields length adapter funds conv there room
  · exact fun fields length conv adapter room funds => reqContinue_restores next fields length adapter funds conv room
  · exact reqCancel_ends next
  · exact reqPark_parks next
  · exact reqDrop_frees next
  · exact fun fails => reqNew_rejects next may (submitNew_refused fails)
  · exact fun pass full => reqNew_rejects next may (submitNew_full pass full)
  · exact fun pass entry room funds => reqNew_rejects next may (submitNew_broke pass entry room funds)
  · exact fun fails => reqContinue_rejects next (submitContinue_refused fails)
  · rintro ⟨fields, length, conv, adapter⟩ room
    refine reqContinue_rejects next ((submitContinue_checked fields length conv adapter).trans ?_)
    rw [room]
  · rintro ⟨fields, length, conv, adapter⟩ room funds
    obtain ⟨s1, room⟩ := Option.ne_none_iff_exists'.1 room
    refine reqContinue_rejects next ((submitContinue_checked fields length conv adapter).trans ?_)
    rw [room]
    exact if_pos funds
  · exact reqCancel_rejects next
  · exact reqPark_rejects next
  · exact reqDrop_rejects next

end Sys2Proof.Machine

namespace Sys2Proof.Machine

/-! ### Rings (R353, R354) -/

section
variable {f : FnIx} {r : RingIx} {v : Word} {s : State}

theorem rqTail_taken {q : ReqRing} (ring : rqRing s r = some q) (own : q.fn = f.val) (room : (v.toNat + 2 ^ 32 - q.cons) % 2 ^ 32 ≤ q.entries) :
    exec (.rqTail f r v) s = .next (putRq r (some { q with tail := v.toNat }) s) := by
  rw [exec_rqTail, execRqTail, ring]
  exact if_pos (Bool.and_eq_true_iff.2 ⟨decide_eq_true own, decide_eq_true room⟩)

theorem rqTail_counted {q : ReqRing} (ring : rqRing s r = some q) (bad : q.fn ≠ f.val ∨ q.entries < (v.toNat + 2 ^ 32 - q.cons) % 2 ^ 32) :
    exec (.rqTail f r v) s = .next (bump F.MBX_RQ_DB_REJ_CNT s) := by
  rw [exec_rqTail, execRqTail, ring]
  refine if_neg fun taken => ?_
  simp only [Bool.and_eq_true, decide_eq_true_eq] at taken
  rcases bad with other | full
  · exact other taken.1
  · exact absurd taken.2 (Nat.not_le.2 full)

theorem rqTail_none (ring : rqRing s r = none) : exec (.rqTail f r v) s = .next (bump F.MBX_RQ_DB_REJ_CNT s) := by
  rw [exec_rqTail, execRqTail, ring]

theorem oqHead_taken {q : OutRing} (ring : SMap.get none s.srv.oq r.val = some q) (own : q.fn = f.val) : exec (.oqHead f r v) s =
    .next (putOq r (some { q with cons := v.toNat }) (updPage f (fun k => { k with oqHead := SMap.put 0 k.oqHead r v.toNat }) s)) := by
  rw [exec_oqHead, execOqHead]
  rw [ring]
  exact congrArg _ (if_pos own)

theorem oqHead_none (ring : SMap.get none s.srv.oq r.val = none) : exec (.oqHead f r v) s =
    .next (updPage f (fun k => { k with oqHead := SMap.put 0 k.oqHead r v.toNat }) s) := by
  rw [exec_oqHead, execOqHead]
  rw [ring]

theorem outputIrq_raises {q : OutRing} {x : Nat} (ring : SMap.get none s.srv.oq r.val = some q) (since : q.since = some x) (here : q.remote = none) :
    exec (.outputIrqTimer r) s =
      .next (raiseVector q.fn q.vector (putOq r (some { q with unsig := 0, since := none }) (moveTo (x + q.modUs * 1000) s))) := by
  rw [exec_outputIrqTimer, execOutputIrqTimer, ring]
  dsimp only
  rw [since]
  dsimp only
  rw [here]
  rfl

end

/-! ### Records (R329, R354) -/

section
variable {n : PartIx} {s : State} {x : OutRec} {rest : List OutRec} {q : OutRing}

theorem outputRecord_none (empty : takeStaged s (srvPart s n).staging = none) : exec (.outputRecordWrite n) s = .next (askIndex n s) := by
  rw [exec_outputRecordWrite, execOutputRecordWrite, empty]

theorem outputRecord_written (staged : takeStaged s (srvPart s n).staging = some (x, rest)) (ring : SMap.get none s.srv.oq x.ring = some q) :
    exec (.outputRecordWrite n) s =
      .next (showInUse (showKv n (closeBatch n x.ring (writeRec n x q (updSrv n (fun k => { k with staging := rest }) s))))) := by
  rw [exec_outputRecordWrite, execOutputRecordWrite, staged]
  dsimp only
  rw [ring]

/-- What the signal of a written record, and the closing of its ring's batch, leave. -/
structure RingSigned (n r prod : Nat) (s t : State) : Prop where
  parts : (srvPart t n).staging = (srvPart s n).staging
  out : ∀ m ∈ s.out, m ∈ t.out
  prod : ((SMap.get none t.srv.oq r).map fun q => q.prod) = some prod
  mem : t.mem = s.mem
  cores : t.cores = s.cores

theorem signalOut_signed (n r : Nat) (q : OutRing) (s : State) : RingSigned n r q.prod s (signalOut r q s) := by
  have put (p : OutRing) (same : p.prod = q.prod) : RingSigned n r q.prod s (putOq r (some p) s) := by
    refine ⟨rfl, fun _ h => h, ?_, rfl, rfl⟩
    show (SMap.get none (SMap.put none s.srv.oq r (some p)) r).map (fun q => q.prod) = _
    rw [SMap.get_put_same]
    exact congrArg some same
  unfold signalOut
  dsimp only
  split
  · obtain ⟨parts, out, prod, mem, cores⟩ := put { q with unsig := 0, since := none } rfl
    generalize putOq r (some { q with unsig := 0, since := none }) s = u at *
    unfold raiseVector
    split
    · exact ⟨parts, fun m h => List.mem_append_left _ (out m h), prod, mem, cores⟩
    · exact ⟨parts, out, prod, mem, cores⟩
  · exact put _ rfl

theorem closeBatch_signed {n r p : Nat} {s t : State} (h : RingSigned n r p s t) : RingSigned n r p s (closeBatch n r t) := by
  obtain ⟨parts, out, prod, mem, cores⟩ := h
  unfold closeBatch
  split
  · next q ring =>
    split
    · refine ⟨parts, out, ?_, mem, cores⟩
      show (SMap.get none (SMap.put none t.srv.oq r (some { q with batch := false })) r).map (fun q => q.prod) = _
      rw [SMap.get_put_same, ← prod, ring]
      rfl
    · exact ⟨parts, out, prod, mem, cores⟩
  · exact ⟨parts, out, prod, mem, cores⟩

theorem RingSigned.set {n r p : Nat} {s t : State} (h : RingSigned n r p s t) (f : Fld) (v : Nat) : RingSigned n r p s (set f v t) :=
  ⟨h.parts, h.out, h.prod, h.mem, h.cores⟩

theorem RingSigned.shown {n r p m : Nat} {s t : State} (h : RingSigned n r p s t) : RingSigned n r p s (showInUse (showKv m t)) := by
  refine RingSigned.set ?_ _ _
  unfold showKv
  split
  · exact h.set _ _
  · exact h

theorem closeBatch_out (n r : Nat) (s : State) : (closeBatch n r s).out = s.out := by
  unfold closeBatch
  split
  · split <;> rfl
  · rfl

theorem shown_out (n : Nat) (s : State) : (showInUse (showKv n s)).out = s.out := by
  unfold showInUse showKv
  rw [set_out]
  split
  · rw [set_out]
  · rfl

/-- A DMA write to host memory is a message, and leaves the served partitions. -/
theorem dmaOut_sends (f addr : Nat) (bs : List Byte) (s : State) :
    { dst := .host f, topic := .hostWrite, args := addr :: bs.map (fun b => b.toNat) : Msg } ∈ (dmaOut f addr bs s).out ∧
      (∀ m ∈ s.out, m ∈ (dmaOut f addr bs s).out) ∧ (∀ n, srvPart (dmaOut f addr bs s) n = srvPart s n) ∧ (dmaOut f addr bs s).mem = s.mem ∧
      (dmaOut f addr bs s).cores = s.cores :=
  ⟨List.mem_append_right _ (List.mem_singleton.2 rfl), fun _ h => List.mem_append_left _ h, fun _ => rfl, rfl, rfl⟩

/-- A record of a local ring goes to host memory, 32 bytes at the ring's producer index, which moves on. -/
theorem writeRec_local (n : Nat) {x : OutRec} {q : OutRing} (here : q.remote = none) (more : x.fin = none) (s : State) :
    RingSigned n x.ring ((q.prod + 1) % 2 ^ 32) s (writeRec n x q s) ∧
      { dst := .host q.fn, topic := .hostWrite
        args := (q.base + 32 * (q.prod % max 1 q.entries)) :: (recBytes11 x).map (fun b => b.toNat) : Msg } ∈ (writeRec n x q s).out := by
  have written : writeRec n x q s = signalOut x.ring { q with prod := (q.prod + 1) % 2 ^ 32 }
      (dmaOut q.fn q.wb (natLe 4 ((q.prod + 1) % 2 ^ 32)) (dmaOut q.fn (q.base + 32 * (q.prod % max 1 q.entries)) (recBytes11 x) s)) := by
    unfold writeRec
    rw [here, more]
    rfl
  rw [written]
  obtain ⟨sent, kept, parts, mem, cores⟩ := dmaOut_sends q.fn (q.base + 32 * (q.prod % max 1 q.entries)) (recBytes11 x) s
  generalize dmaOut q.fn (q.base + 32 * (q.prod % max 1 q.entries)) (recBytes11 x) s = u at *
  obtain ⟨-, kept', parts', mem', cores'⟩ := dmaOut_sends q.fn q.wb (natLe 4 ((q.prod + 1) % 2 ^ 32)) u
  generalize dmaOut q.fn q.wb (natLe 4 ((q.prod + 1) % 2 ^ 32)) u = v at *
  obtain ⟨staging, out, prod, mem'', cores''⟩ := signalOut_signed n x.ring { q with prod := (q.prod + 1) % 2 ^ 32 } v
  refine ⟨⟨?_, fun m h => out m (kept' m (kept m h)), prod, mem''.trans (mem'.trans mem), cores''.trans (cores'.trans cores)⟩, out _ (kept' _ sent)⟩
  rw [staging, parts', parts]

theorem outputRecord_local (staged : takeStaged s (srvPart s n).staging = some (x, rest)) (ring : SMap.get none s.srv.oq x.ring = some q)
    (here : q.remote = none) (more : x.fin = none) : ∃ t, exec (.outputRecordWrite n) s = .next t ∧ (srvPart t n).staging = rest ∧
      { dst := .host q.fn, topic := .hostWrite
        args := (q.base + 32 * (q.prod % max 1 q.entries)) :: (recBytes11 x).map (fun b => b.toNat) : Msg } ∈ t.out ∧
      ((SMap.get none t.srv.oq x.ring).map fun q => q.prod) = some ((q.prod + 1) % 2 ^ 32) ∧ t.mem = s.mem ∧ t.cores = s.cores := by
  have taken : (srvPart (updSrv n (fun k => { k with staging := rest }) s) n).staging = rest := by
    rw [srvPart_updSrv, if_pos rfl]
  obtain ⟨-, cores, mem⟩ := updSrv_stands n (fun k => { k with staging := rest }) s
  rw [outputRecord_written staged ring]
  generalize updSrv n (fun k => { k with staging := rest }) s = u at *
  obtain ⟨written, sent⟩ := writeRec_local n here more u
  have signed := (closeBatch_signed written).shown (m := n)
  have closed := closeBatch_out n x.ring (writeRec n x q u)
  refine ⟨_, rfl, signed.parts.trans taken, ?_, signed.prod, signed.mem.trans mem, signed.cores.trans cores⟩
  rw [shown_out, closed]
  exact sent

end

/-! ### Notices, transfers and the caddy tier (R320, R334) -/

section
variable {n : PartIx} {m : Word64} {x : Notice} {e : EntIx} {k : BitVec 16} {s : State}

theorem notice_kept (member : isHead s n = false) (ahead : ordinal s n (get s F.TB_TICK_NUM_K) < m.toNat) : exec (.noticeReceived n m x) s =
    .next (updSrv n (fun k => { k with notices := k.notices ++ [(m.toNat, x)] }) s) := by
  rw [exec_noticeReceived, execNoticeReceived]
  rw [member, if_neg (by decide), if_neg (Nat.not_le.2 ahead)]

theorem notice_late (member : isHead s n = false) (come : m.toNat ≤ ordinal s n (get s F.TB_TICK_NUM_K)) : exec (.noticeReceived n m x) s =
    .next (lateNotice n m.toNat (ordinal s n (get s F.TB_TICK_NUM_K)) x s) := by
  rw [exec_noticeReceived, execNoticeReceived]
  rw [member, if_neg (by decide), if_pos come]

theorem notice_head (head : isHead s n = true) : exec (.noticeReceived n m x) s = .next s := by
  rw [exec_noticeReceived, execNoticeReceived]
  rw [head]
  rfl

/-- The state after the head's own copy of a transfer, when it is the one that reports. -/
def ownCopied (n e k : Nat) (f : Xfer) (data : List Byte) (s : State) : State :=
  if (partRec s n).any (fun r => r.own == k) then ownPages n e f data s else s

/-- The head hears a member of a transfer. -/
theorem caddyReport_heard {f : Xfer} {data : List Byte} (xfer : SMap.get none (srvPart s n).xfers e.toNat = some f) (head : isHead s n = true) :
    let s1 := ownCopied n e.toNat k.toNat f data s
    let bad := (SMap.get none (srvPart s1 n).xfers e.toNat).any fun y => y.bad
    let y := { f with heard := NSet.add f.heard k.toNat }
    exec (.caddyReport n e k true data) s = if bad then .next (xferFailed n e.toNat f s1) else
      if allHeard s1 n y.heard then .next (showInUse (showKv n (xferDone n e.toNat y s1)))
      else .next (updSrv n (fun p => { p with xfers := SMap.put none p.xfers e.toNat (some y) }) s1) := by
  have copied : when ((partRec s n).any (fun r => r.own == k.toNat) && true) (ownPages n e.toNat f data) s = ownCopied n e.toNat k.toNat f data s := by
    rw [Bool.and_true]
    rfl
  rw [exec_caddyReport, execCaddyReport, xfer]
  dsimp only
  rw [copied]
  generalize ownCopied n e.toNat k.toNat f data s = s1
  rw [head, if_neg (by decide), Bool.true_and]
  cases SMap.get none (srvPart s1 n).xfers e.toNat with
  | none => rfl
  | some y =>
    dsimp only
    rw [Bool.not_not]
    rfl

theorem caddyReport_failed {f : Xfer} {data : List Byte} (xfer : SMap.get none (srvPart s n).xfers e.toNat = some f) (head : isHead s n = true) :
    exec (.caddyReport n e k false data) s = .next (xferFailed n e.toNat f s) := by
  rw [exec_caddyReport, execCaddyReport, xfer]
  dsimp only
  rw [head, Bool.and_false, Bool.false_and]
  rfl

theorem shown_cores (n : Nat) (s : State) : CoresStand s (showInUse (showKv n s)) := by
  have shown (f : Fld) (other : F.FLT_STAT_SAFE.key ≠ f.key) (v : Nat) (t : State) : CoresStand t (set f v t) := ⟨rfl, rfl, rfl, inSafe_set other v t⟩
  refine CoresStand.trans ?_ (shown F.SRV_STAT_IN_USE (by decide) _ _)
  unfold showKv
  split
  · refine shown (F.SRV_PART_KV_FREE n) ?_ _ s
    simp only [F.SRV_PART_KV_FREE, F.FLT_STAT_SAFE]
    omega
  · exact .refl s

theorem entState_shown (n : Nat) (s : State) (e : Nat) : entState (showInUse (showKv n s)) e = entState s e := by
  refine (get_set_ne (f := F.SRV_STAT_IN_USE) ?_ _ _).trans ?_
  · simp only [F.SRV_STAT_IN_USE, F.SRV_ENT_STATE]
    omega
  · unfold showKv
    split
    · refine get_set_ne (f := F.SRV_PART_KV_FREE n) ?_ _ _
      simp only [F.SRV_PART_KV_FREE, F.SRV_ENT_STATE]
      omega
    · rfl

theorem caddyTtl_expires (request : get s (F.SRV_ENT_TYPE e.toNat) = 0) (away : entState s e.toNat = 6 ∨ entState s e.toNat = 8)
    (due : get s (F.SRV_ENT_TTL e.toNat) ≤ now s) : ∃ t, exec (.caddyTtlExpire e) s = .next t ∧
      t = showInUse (showKv (get s (F.SRV_ENT_LPART e.toNat)) (freeEnt (get s (F.SRV_ENT_LPART e.toNat)) e.toNat (bump F.SRV_CADDY_EXP_CNT s))) ∧
      entState t e.toNat = 0 ∧ (flag t F.FLT_STAT_SAFE = flag s F.FLT_STAT_SAFE → t.cores = s.cores ∧ t.mem.spad = s.mem.spad) := by
  refine ⟨_, ?_, rfl, ?_, fun quiet => ?_⟩
  · rw [exec_caddyTtlExpire, execCaddyTtlExpire]
    refine if_pos ?_
    rcases away with parked | caddy
    · simp [request, due, eParked, parked]
    · simp [request, due, eCaddy, caddy]
  · rw [entState_shown]
    exact entState_freeEnt ..
  · have before : inSafe (bump F.SRV_CADDY_EXP_CNT s) = inSafe s := inSafe_bump (by decide) s
    have same := shown_cores (get s (F.SRV_ENT_LPART e.toNat)) (freeEnt (get s (F.SRV_ENT_LPART e.toNat)) e.toNat (bump F.SRV_CADDY_EXP_CNT s))
    obtain ⟨cores, spad⟩ := freeEnt_quiet ((same.safe.symm.trans quiet).trans before.symm)
    exact ⟨same.cores.trans cores, same.spad.trans spad⟩

theorem adapterSlot_freed {i : Fin 64} {r : Replace} (old : s.srv.replaces.find? (fun r => r.old == i.val) = some r)
    (ready : actv s (F.SRV_ASLOT_STATE i) ≠ 2 ∨ (r.slot = none ∧ r.unload = false)) (unbound : get s (F.SRV_ASLOT_REFCNT i) = 0) :
    exec (.adapterSlotFree i) s = .next (finishReplace r s) := by
  rw [exec_adapterSlotFree, execAdapterSlotFree, old]
  dsimp only
  refine if_pos ?_
  rcases ready with done | ⟨slot, load⟩
  · simp [done, unbound]
  · simp [slot, load, unbound]

end

/-- Settles O41. That a notice of its own tick or of an earlier one takes effect at once and is counted late is log entry 49; the transfers and the adapter
slots follow log entries 50 and 59. -/
theorem ringsAndServingEventsAct : Obligations.RingsAndServingEventsAct := by
  unfold Obligations.RingsAndServingEventsAct
  refine ⟨fun f r v s => ⟨fun q => rqTail_taken, fun q => rqTail_counted, rqTail_none, fun q => oqHead_taken, oqHead_none, fun q x => outputIrq_raises⟩,
    fun n s x rest q => ⟨outputRecord_none, fun staged ring => ⟨outputRecord_written staged ring, outputRecord_local staged ring⟩⟩,
    fun n m x e k i s => ⟨notice_kept, notice_late, notice_head, fun f data xfer head => ⟨caddyReport_failed xfer head, ?_, ?_, ?_⟩, ?_, ?_⟩⟩
  · exact fun bad => (caddyReport_heard xfer head).trans (if_pos bad)
  · exact fun good waits => (caddyReport_heard xfer head).trans ((if_neg (Bool.eq_false_iff.1 good)).trans (if_neg (Bool.eq_false_iff.1 waits)))
  · exact fun good all => (caddyReport_heard xfer head).trans ((if_neg (Bool.eq_false_iff.1 good)).trans (if_pos all))
  · exact fun request away due _ => caddyTtl_expires request away due
  · exact fun r => adapterSlot_freed

end Sys2Proof.Machine
